-- ==== Sys2Proof/Word.lean ====
section
/-! DEFINITION. The word types of the model and their plainest arithmetic. -/

namespace Sys2Proof

/-- A byte of host memory, of the store, of flash, of a mailbox entry. -/
abbrev Byte := BitVec 8
/-- A 16-bit field. -/
abbrev U16 := BitVec 16
/-- A 32-bit field or register. -/
abbrev U32 := BitVec 32
/-- A 64-bit field. -/
abbrev U64 := BitVec 64
/-- A string of bytes, first byte at the lowest address (R6: little-endian fields). -/
abbrev Data := List Byte
/-- What a read of memory outside the engine returned: none when the read failed (R411, R429). -/
abbrev HostRead := Option Data

end Sys2Proof
end

