-- ==== Sys2Proof/Syntax.lean ====
section
/-! DEFINITION. The commands of the CKS-6540 block: one constructor of Instr per row of spec/opcode_table.json.
A mailbox row carries the running number of the started command it executes (the number COMMAND_FETCH gave it)
and what the engine reads from host memory for it. An event row carries what the outside decides about the event:
levels, codes, samples, packets, the outcome of an analogue or cryptographic step. Everything else is in State. -/

namespace Sys2Proof

/-- Which block a byte of BAR space belongs to (R386 to R388). -/
inductive Bar
  | bar0
  | bar2
deriving DecidableEq, Repr

/-- A hardware update that reaches the written register in the same clock as the software write (R460). -/
inductive SameClock
  | none                  -- no hardware update of the field in this clock
  | hwSet (mask : U32)    -- hardware sets these W1C bits
  | hwAdd (n : U32)       -- hardware adds n to the counter
  | hwCapture             -- hardware captures the field
  | handover              -- a hand-over takes the shadow set
deriving DecidableEq, Repr

/-- The straps sampled at power-on and at RESET_N (R407, R439). -/
structure Straps where
  rootSel : Bool
  perstScope : Bool
  memClamshell : Bool
deriving DecidableEq, Repr

/-- Outcomes of the cryptographic checks 2, 3 and 6 of R537 on one image, and of its PATCH section (R190). -/
structure CryptoChecks where
  keyOk : Bool
  signatureOk : Bool
  hashesOk : Bool
  patchSignatureOk : Bool
  patchTagOk : Bool
deriving DecidableEq, Repr

/-- The kinds of lane error of R62. -/
inductive LaneErrorKind
  | code8b10b
  | misplaced
  | syncHeader
  | crc12
  | embMarker
deriving DecidableEq, Repr

/-- What one read of a store sector meets: flipped bits among its 256 data bits and 16 check bits, and whether its stored address is
another sector's (R75). -/
structure SectorRead where
  flips : List (Fin 272)
  mismatch : Bool
deriving DecidableEq, Repr

/-- The two reads of a sector that decodes uncorrectable: it is issued once more (R79). -/
structure SectorReads where
  first : SectorRead
  second : SectorRead
deriving DecidableEq, Repr

/-- An octet of a lane: the lane, and the octet's count from the first of the local-clock period before the next release (R62, R63;
log 143). -/
structure LaneOctet where
  lane : Fin 32
  octet : Nat
deriving DecidableEq, Repr

/-- What a refresh of a bank meets: whether real-time traffic is queued to it, and whether the device is above 85 C (R95, R96). -/
structure RefreshDemand where
  realTimeQueued : Bool
  hot : Bool
deriving DecidableEq, Repr

/-- What an abandoned run failed on: the index by its place in the batch, and the control-store word fetched, with the address that
stood in the array and the bits that flipped (R158, R170, R171). -/
structure RunFailure where
  offset : Nat
  addr : Nat
  got : Nat
  flips : Nat
deriving DecidableEq, Repr

/-- The bring-up results that ILAS_RECEIVED and its JESD204C counterpart carry: per-lane arrival in octets (R47). -/
structure IlasResult where
  parametersMatch : Bool
  badLane : Nat
  arrivals : List Nat
deriving DecidableEq, Repr

/-- A link packet: the 32-byte header of R344 and its payload. -/
structure Packet where
  type : Nat
  bcast : Bool
  ackReq : Bool
  neighbour : Bool
  dstDid : Nat
  srcDid : Nat
  tag : U32
  subtype : Nat
  hops : Nat
  addr : U64
  aux : U64
  payload : Data
deriving DecidableEq, Repr

/-- What the two ends found at the end of link training (R338, R339, R358). -/
structure TrainResult where
  ok : Bool
  rate : Nat
  lanesHere : BitVec 8
  lanesPeer : BitVec 8
  delay : Nat            -- one-way delay, 1/65,536 tick
  peerSerial : U64
  peerAssigned : Bool
  peerDid : Nat
  closesCycle : Bool
deriving DecidableEq, Repr

/-- The raw codes of one input path test (R528). -/
structure PathCodes where
  dac256 : Nat
  dac768 : Nat
  p1At256 : Nat
  p1At768 : Nat
  p2At256 : Nat
  p2At768 : Nat
  quiet : Nat
deriving DecidableEq, Repr

/-- An interrupt source with moderation of its own (R414). -/
inductive QueueKind
  | cplq
  | evq
deriving DecidableEq, Repr

/-- The commands and events of the block. -/
inductive Instr
  -- Device commands
  | devIdentify (id : Nat)
  | devStatus (id : Nat)
  | devResetDevice (id : Nat)
  | devResetTile (id : Nat) (selfTestPasses : Bool)
  | devResetStoreChannel (id : Nat)
  | devResetLinkPort (id : Nat)
  | devResetScanout (id : Nat)
  | devResetMailbox (id : Nat)
  | devResetDelayedAction
  | setLatencyTolerance (id : Nat)
  | setPowerLimit (id : Nat)
  | powerQuery (id : Nat)
  | timebaseSet (id : Nat)
  | timebaseDiscipline (id : Nat)
  -- Inlet commands
  | inletConfig (id : Nat)
  | inletStart (id : Nat)
  | inletStartStepTimeout (inlet : Fin 4) (lane : Fin 32)
  | inletStop (id : Nat)
  | inletStopTickReached (inlet : Fin 4)
  | inletStatus (id : Nat)
  -- Store commands
  | storeRegionAlloc (id : Nat)
  | storeRegionFree (id : Nat)
  | storeMapQuery (id : Nat)
  -- Task commands
  | specTaskCreate (id : Nat) (desc table : HostRead)
  | specTaskModify (id : Nat) (desc table : HostRead)
  | specTaskDestroy (id : Nat)
  | specTaskPlace (id : Nat)
  | retroJobSubmit (id : Nat) (desc table : HostRead)
  | xcorrCreate (id : Nat) (desc : HostRead)
  | xcorrDestroy (id : Nat) (desc : HostRead)
  -- Trigger and acquisition commands
  | trigUnitConfig (id : Nat) (points : HostRead)
  | trigUnitQuery (id : Nat)
  | trigMatrixConfig (id : Nat)
  | trigMatrixQuery (id : Nat)
  | acqConfig (id : Nat) (desc : HostRead)
  | groupRegistrationTimeout (at_ : Fin 16)
  | arm (id : Nat)
  | groupArmConfirmDeadline (at_ : Fin 16)
  | groupArmTick (at_ : Fin 16)
  | disarm (id : Nat)
  | disarmDecisionBoundElapsed (id : Nat)
  | forceFireAt (id : Nat)
  | forceFireUnit (id : Nat)
  | forceFireTickReached
  -- Density commands
  | densityConfigure (id : Nat) (cmap : HostRead)
  | densityRemove (id : Nat)
  | densityQuery (id : Nat)
  | densityClear (id : Nat)
  | densityClearSweep
  -- Stream commands
  | streamOpen (id : Nat)
  | streamQuery (id : Nat)
  | streamClose (id : Nat)
  | nvmeDelegate (id : Nat) (desc : HostRead)
  -- Link commands
  | linkEnumerate (id : Nat)
  | linkStatusQuery (id : Nat)
  | linkPortUp (id : Nat)
  | linkPortDown (id : Nat)
  | linkPortRetrain (id : Nat)
  | linkRouteQuery (id : Nat)
  -- Event, calibration and configuration commands
  | eventRoute (id : Nat)
  | eventUnmask (id : Nat)
  | eventMask (id : Nat)
  | eventMaskQuery (id : Nat)
  | calStatus (id : Nat)
  | monitorPathTest (id : Nat) (codes : PathCodes)
  | monitorSummary (id : Nat)
  | cfgCommit (id : Nat)
  | cfgWithdraw (id : Nat)
  | cfgQuery (id : Nat)
  -- Image and security commands
  | imageUpdateBegin (id : Nat)
  | imageUpdateData (id : Nat) (data : HostRead) (readBackOk : Bool)
  | imageUpdateFinish (id : Nat) (checks : CryptoChecks)
  | attestQuote (id : Nat)
  | lifecycleUnlock (id : Nat) (token : HostRead) (signatureOk : Bool)
  -- Mailbox machinery
  | commandFetch (q : Fin 8) (entry : HostRead)
  | fenceRelease (id : Nat)
  | cmdqTailDoorbell (q : Fin 8) (value : U64) (size : Nat)
  | cplqHeadDoorbell (q : Fin 8) (value : U64) (size : Nat)
  | evqHeadDoorbell (q : Fin 4) (value : U64) (size : Nat)
  | streamHeadDoorbell (stream : Fin 16) (value : U64) (size : Nat)
  | cmdqEnable (q : Fin 8) (ctrl : U32)
  | cmdqDisable (q : Fin 8) (ctrl : U32)
  | cplqEnable (q : Fin 8) (ctrl : U32)
  | cplqDisable (q : Fin 8) (ctrl : U32)
  | evqEnable (q : Fin 4) (ctrl : U32)
  | evqDisable (q : Fin 4) (ctrl : U32)
  | interruptModerationTimeout (kind : QueueKind) (q : Fin 8)
  | msixVectorUnmask (vector : Fin 2048)
  -- Host interface accesses
  | bar4WindowApply (value : U32)
  | quiesce (value : U32)
  | nvmeQuiesced
  | bar4Read (offset : Nat) (length : Nat)
  | bar4Write (offset : Nat) (bytes : List (Option Byte)) (poisoned : Bool)
  | bitAliasWrite (offset : Nat) (value : U32) (same : SameClock)
  | registerWrite (bar : Bar) (offset : Nat) (value : U32) (enables : BitVec 4) (same : SameClock)
  | scnEnable (value : U32)
  | timingApply (value : U32) (same : SameClock)
  | scnShadowValid (layer : Fin 4) (value : U32) (same : SameClock)
  | scnAuxGo (value : U32)
  | drtShadowValid (ch : Fin 32) (value : U32) (same : SameClock)
  | drtAbort (ch : Fin 32) (value : U32)
  | dmaHaltAck (value : U32)
  | crcLearn (value : U32)
  | crcCfgRefWrite (value : U32) (same : SameClock)
  | crcEnable (value : U32)
  | snap (value : U32)
  | evtFirstWrite (value : U32) (same : SameClock)
  | brzRun (conv : Fin 2) (value : U32)
  | brzRestart (conv : Fin 2) (value : U32)
  | brzSlotConfigWrite (conv : Fin 2) (slot : Fin 32) (reg : Fin 4) (value : U32)
  -- Host interface events and resets
  | pcieLinkUp (gen width : Nat)
  | d3hotEntry
  | d0Return
  | powerOn (straps : Straps)
  | resetN (straps : Straps)
  | perstNAssert
  | hotReset
  | dlDown
  | flr
  | supplyBrownout (straps : Straps)
  | thermtrip
  | watchdogExpiry
  | watchdogRestartReady
  | firmwareHeartbeat
  | crystalStartTimeout
  | calDomainComplete (run1 run2 : List (Option (BitVec 8))) (trainedRate : Nat)
  | bootSectionVerified (checks : CryptoChecks) (body : Data) (turned : List (Fin 20 × Nat × Nat))
  | mailboxReady
  | regulatorStatusPoll (status : Option U16)
  -- Clocks, time and power
  | refinLoss
  | crystalLoss
  | synthLockLoss (s : Fin 11)
  | synthRelock (s : Fin 11)
  | synthFrequencyDeparture (s : Fin 11)
  | ppsInEdge (frac : U16)
  | ppsMissedTimeout
  | holdoverTimeout
  | ptmDialogStart
  | ptmResponse (masterNs : U64) (frac : U16)
  | ptmCorrelationInvalid
  | lullEntry
  | lullWake
  | thermalEvaluation
  | powerRequestGrant
  | powerRequestTimeout
  | lifeLedgerSample
  | wearMonitorDaily
  | lifeLedgerWrite
  -- Inlets
  | sysrefPulse (inlet : Fin 4) (halfTick : Bool)
  | frameRelease (inlet : Fin 4) (samples : List (List U16))
  | historyWriteCommit (inlet : Fin 4) (frames : Nat)
  | laneErrorDetected (inlet : Fin 4) (place : LaneOctet) (kind : LaneErrorKind)
  | laneSyncLoss (inlet : Fin 4) (place : LaneOctet)
  | laneResyncComplete (inlet : Fin 4) (lane : Fin 32) (arrival : Nat)
  | laneErrorWindow
  -- Store
  | refreshDue (ch bank : Fin 16) (demand : RefreshDemand)
  | rowDisturbanceThreshold (ch bank : Fin 16) (group : Nat) (activations : List (Fin 12 × Nat))
  | rowDisturbanceWindow
  | throttleEnd (requester : Fin 12)
  | edcBurstFailure (ch : Fin 16) (retrySucceeds : Bool)
  | uncorrectableRead (addr : Nat) (requester : Fin 12) (reads : SectorReads)
  | patrolScrub (sectors corrected : Nat)
  | storeRetrainStart (ch : Fin 16)
  | storeRetrainComplete (ch : Fin 16)
  | selfRefreshIdleTimeout
  | selfRefreshWake
  | selfRefreshExitComplete
  -- Tiles and collector
  | tileReadIssue (tile : Fin 20)
  | tileBatchStart (tile : Fin 20)
  | commitUnitAccept (tile : Fin 20) (unitGood : Bool)
  | routineAbandon (tile : Fin 20) (causes : List Nat) (failure : RunFailure)
  | routineRestart (tile : Fin 20)
  | tileWatchdogExpiry (tile : Fin 20)
  | controlStoreScrubCheck (tile : Fin 20) (addr got flips : Nat)
  | shareHandover (tile : Fin 20)
  | replacementComplete (tile : Fin 20)
  | backfillComplete (task : U32)
  | xcorrIndexTimeout (xc : U32)
  -- Triggers and acquisition
  | trigInEdge (pin : Fin 4) (rising : Bool) (frac : U16) (heldTicks : Nat)
  | trigOutPulse (at_ : Fin 16)
  | groupDecision (at_ : Fin 16)
  | acqCopyChunk (acqNo : U32) (source : Nat) (items : Nat)
  -- Eddy and scan-out
  | densityExportBoundary (map : Fin 8)
  | exportWritesAccepted (map : Fin 8)
  | scanoutFrameStart
  | layerFetchStart (layer : Fin 4)
  | layerUnderrun (layer : Fin 4)
  | hpdUnplug
  | hpdPlug
  | hpdIrq (laneLostLock : Bool)
  | dpTrainingComplete (ok : Bool) (sinkDownspread : Bool)
  | dpTrainingRetry
  | auxReply (code : Nat) (data : Data)
  | auxTimeout
  -- Streams
  | recordDeliver (stream : Fin 16)
  | notifyTimeout (stream : Fin 16)
  | nvmeCompletionEntry (stream : Fin 16)
  | nvmeFlushTimer (stream : Fin 16)
  | nvmeCommandTimeout (stream : Fin 16)
  | peerStreamAck (stream : Fin 16) (seq : U64)
  | peerStreamCut (stream : Fin 16) (sender : Nat)
  -- Draught
  | descriptorLoad (desc : HostRead)
  | descriptorEnd (data : HostRead)
  | draughtBusError (cause : Nat) (ch : Fin 32) (addr : U64) (space : Nat) (written : Nat)
  -- Links
  | portTrainingStart (port : Fin 4)
  | portTrainingComplete (port : Fin 4) (r : TrainResult)
  | portRetryTimer (port : Fin 4)
  | flitReceive (port : Fin 4) (flit : Data)
  | nakReceive (port : Fin 4) (ack : Nat)
  | ackTimeoutReplay (port : Fin 4)
  | linkRetrainComplete (port : Fin 4) (ok : Bool)
  | noFlitTimeout (port : Fin 4)
  | blockLockLoss (port : Fin 4)
  | heartbeatSend (port : Fin 4)
  | heartbeatMissing (port : Fin 4)
  | linkPacketForward (port : Fin 4) (p : Packet)
  | linkWriteReceive (port : Fin 4) (p : Packet)
  | linkReadReceive (port : Fin 4) (p : Packet)
  | linkCompletionReceive (port : Fin 4) (p : Packet)
  | linkRequestTimeout (tag : U32)
  | forwardedCommandReceive (port : Fin 4) (p : Packet)
  | forwardedCompletionReceive (port : Fin 4) (p : Packet)
  | forwardedEventReceive (port : Fin 4) (p : Packet)
  | groupRegistrationReceive (port : Fin 4) (p : Packet)
  | healReceive (port : Fin 4) (p : Packet)
  | offerReceive (port : Fin 4) (p : Packet)
  | healOfferTimeout
  | activateReceive (port : Fin 4) (p : Packet)
  | routeAddReceive (port : Fin 4) (p : Packet)
  | routeDelReceive (port : Fin 4) (p : Packet)
  | placementControlReceive (port : Fin 4) (p : Packet)
  | flowLossTimeout (did : Nat)
  | trigFireReceive (port : Fin 4) (p : Packet)
  | groupFireReceive (port : Fin 4) (p : Packet)
  | groupArmReceive (port : Fin 4) (p : Packet)
  | groupDisarmReceive (port : Fin 4) (p : Packet)
  | armConfirmReceive (port : Fin 4) (p : Packet)
  | timeSyncSend (port : Fin 4)
  | timeSyncReceive (port : Fin 4) (p : Packet) (frac : U16)
  | delayMeasure (port : Fin 4)
  | delayReqReceive (port : Fin 4) (p : Packet) (frac : U16)
  | delayRespReceive (port : Fin 4) (p : Packet) (frac : U16)
  | enumAssignReceive (port : Fin 4) (p : Packet)
  | enumReportReceive (port : Fin 4) (p : Packet)
  | enumDoneReceive (port : Fin 4) (p : Packet)
  -- Integrity and monitor
  | crcSweep
  | breezeConversion (conv : Fin 2) (raws : List (BitVec 12)) (reading : Int)
  | firmwareCopyRestore (addr : Nat) (bothPoisoned : Bool)
  | fynalHelp
  | fynalId
  | fynalBaud (rate : Nat)
  | fynalEvents (n : Nat)
  | fynalCal
  | fynalChain
  | fynalPower
  | fynalLife
  | fynalTiles (tile : Option (Fin 20))
  | fynalTrace (tile : Fin 20)
  | fynalUcode (tile : Fin 20) (addr n : Nat)
  | fynalPeek (space : Nat) (addr n : Nat)
  | fynalPoke (space : Nat) (addr : Nat) (value : U32)
  | fynalUpdate (length : Nat)
  | fynalUpdatePiece (piece : Data) (crcOk readBackOk : Bool) (checks : CryptoChecks)
  | fynalUpdateRestart
  | jtagInstructionLoad (code : Byte)
  | tapReset
  | synthesizerLocked (s : Fin 11)
  | laneLockAchieved (inlet : Fin 4) (lane : Fin 32) (isCdr : Bool)
  | ilasReceived (inlet : Fin 4) (r : IlasResult)
  | configurationWrite (offset : Nat) (value : U32)
  | ppsOutPulse
  | baudSwitch
  | monitorLineRejected (overflow : Bool)
deriving DecidableEq, Repr

end Sys2Proof
end

