-- ==== Sys2Proof/Decode.lean ====
section
/-! DEFINITION. The table words. No row of spec/opcode_table.json gives bits: the commands of this block are register
accesses, mailbox entries, packets, pin events and engine events, not instruction words (log 7). -/

namespace Sys2Proof

/-- The command that a table word spells: the table gives no row any bits, so no word spells one. -/
def decodeTableWord (_nbits _w : Nat) : Option Instr := none

end Sys2Proof
end

