-- ==== Sys2Proof/Config.lean ====
section
/-! DEFINITION. What an implementation fixes and what the manual leaves open: opaque constants, of which no proof can
see a value. A fresh value is one of these applied to the plain counter State.free, or to the operands it depends on. -/

namespace Sys2Proof.Config

/-- A byte of the HISTORY region as a raw store read returns it: the ring layout is not part of the interface (R89). -/
opaque historyByte : Nat → Nat → Byte
/-- What a mirror of a firmware-owned block shows at an uptime and an offset: its layout is not part of the interface (R455). -/
opaque mirrorWord : Nat → Nat → U32
/-- The CRC of the firmware-owned configuration: which bytes it covers is not stated (R449, R465). -/
opaque firmwareCrc : Data → U32
/-- SHA-512, which the manual names and does not restate (R536, R548). -/
opaque sha512 : Data → Data
/-- The measurement of the boot ROM (R548). -/
opaque romMeasurement : Data
/-- Whether the sector code detects three or more flipped bits, rather than miscorrecting them (R75). -/
opaque eccDetects : List Nat → Bool
/-- An unspecified 32-bit value. -/
opaque freeWord : Nat → U32
/-- An unspecified byte. -/
opaque freeByte : Nat → Byte
/-- An unspecified bit. -/
opaque freeBit : Nat → Bool
/-- What the open details of the transform's arithmetic add to one mantissa of bin k, real and imaginary part, in units of its
last place: the manual fixes widths, shifts and bounds and leaves the order of the rotations open (R124). -/
opaque transformNoise : List (Int × Int) → Nat → Int × Int
/-- A microword of the ROM: the manual gives the layout of the words and not the words (R169, R172). -/
opaque romWord : Nat → Nat
/-- The entry of a routine in the ROM entry table (R178). -/
opaque romEntry : Nat → Nat
/-- The strides of a share's parameter set by task and register (R177). -/
opaque stride : Nat → Nat → Nat
/-- Where a sample lies in a task's ring, in granules: the ring layout is not part of the interface (R89, R177). -/
opaque frameGranule : Nat → Nat → Nat
/-- The task parameter that LOOP_IMM bits 3:0 select (R176). -/
opaque taskParam : Nat → Nat → Nat
/-- What a scratch line holds after a write at an uptime: the packing of scratch is not stated (R176). -/
opaque scratchLine : Nat → Nat → BitVec 512
/-- The bin power that a patched routine commits: what its microwords form from the samples and the parameter set (R178, R188). -/
opaque patchedPower : List (Nat × Nat) → List (Int × Int) → Data → Nat → U32
/-- Whether a staging port has room at an uptime (R175). -/
opaque portRoom : Nat → Nat → Bool

end Sys2Proof.Config
end

