-- ==== Sys2Proof/Machine/State.lean ====
section
/-! DEFINITION. State: everything the manual gives the CKS-6540, as plain data, nested by block; the state right
after reset; the faults and refusals a step can end in. Ticks are natural numbers kept below 2^64 (Clock.tick);
durations are measured on Clock.up, the ticks since the time base was last reinitialised (R440). -/

namespace Sys2Proof.Machine

/-- A named reason for a fault. No command of this block raises one: every access the manual describes has an
outcome (a completion status, an Unsupported Request, a discarded write). Kept for the host's interface. -/
inductive Fault
  | none   -- raised by no command; safe
deriving DecidableEq, Repr

/-- A named reason for a refusal. -/
inductive Refusal
  | notModelled (mnemonic : String)   -- raised by a dispatch arm that has no meaning yet; safe
deriving DecidableEq, Repr

/-- A sparse memory in canonical form: addresses strictly rising, no entry equal to the default byte. -/
abbrev Memory := List Host.Cell
/-- A sparse map from numbers to 32-bit registers in the same canonical form. -/
abbrev RegFile := List (Nat × U32)
/-- A sparse map of counters, default 0, in the same canonical form. -/
abbrev Counts := List (Nat × Nat)

/-! ## Clocks and the time base -/

/-- State of a synthesizer, coded as POWER_QUERY codes it (R507): off, acquiring, locked, holdover, bypass. -/
inductive SynthState
  | off
  | acquiring
  | locked
  | holdover
  | bypass
deriving DecidableEq, Repr

/-- One synthesizer or LC-PLL of R480, with its dither register (R483) and its losses of lock (R507). -/
structure Synth where
  state : SynthState
  since : Nat                     -- uptime from which its lock qualifies (R484)
  lfsr : U32
  unlocks : Nat
deriving DecidableEq, Repr

/-- The clock configuration block as applied (R488). -/
structure ClockCfg where
  refSel : Nat
  sris : Bool
  ppsOutEn : Bool
  sscMode : Nat
  sscDepth : Nat
  sscFreq : Nat
  rootWin : Nat
  rootN : Nat
  synWin : Nat
  synN : Nat
  seeds : List U32
  holdoverS : Nat
  ppsLockNs : Nat
deriving DecidableEq, Repr

/-- The time base discipline loop (R490 to R493, R446). Errors are in 1/65,536 tick. -/
structure Loop where
  source : Nat
  state : Nat
  ptmMs : Nat
  within : Nat
  beyond : Nat
  error : Int
  steerPpb : Int
  stepped : Bool
  since : Nat                     -- uptime at which the state was entered
  ptmOrigin : Option (Nat × Nat)
deriving DecidableEq, Repr

/-- Clocks, time base and Lull states (chapter 13). -/
structure Clock where
  tick : Nat
  up : Nat
  refInUse : Nat
  limp : Bool
  crystalLost : Bool
  synths : Vector Synth 11
  cfg : ClockCfg
  loop : Loop
  ppsEdgeUp : Option Nat
  ppsOut : Bool
  uncertain : Bool
  lull : Nat
  lullSince : Nat
  lullTicks : Vector Nat 4
deriving DecidableEq, Repr

/-! ## Power admission -/

/-- What a power grant or request is held for (R500, R504). -/
inductive Owner
  | inlet (i : Nat)
  | task (id : Nat)
  | retro (id : Nat)
  | backfill (id : Nat)
  | xcorr (id : Nat)
  | stream (n : Nat)
  | port (n : Nat)
  | flow (did : Nat)
  | retrain (ch : Nat)
  | calibration (domain : Nat)
  | placement (id : Nat)
  | density (m : Nat)
  | tile (n : Nat)
deriving DecidableEq, Repr

/-- A held grant: its items as (class of R507, units). -/
structure Grant where
  owner : Owner
  items : List (Nat × Nat)
deriving DecidableEq, Repr

/-- A queued power request (R503); cmd is the waiting command, none for an engine-internal request. -/
structure PowerReq where
  owner : Owner
  items : List (Nat × Nat)
  tag : U32
  opcode : Nat
  since : Nat
  cmd : Option Nat
deriving DecidableEq, Repr

/-- The power ledger (R500 to R507). -/
structure Power where
  limit : Nat
  effective : Nat
  grants : List Grant
  queue : List PowerReq
  tolHost : Nat
  denied : Nat
  granted : Nat
  deferrals : Nat
  waitTicks : Nat
  thermalChanges : Nat
  cause7Spans : Nat
  nowait : Nat
deriving DecidableEq, Repr

/-! ## Mailbox and events -/

/-- A command queue as sampled at its enable (R415), with its pointers (R420, R422). -/
structure CmdQueue where
  enabled : Bool
  error : Bool
  base : Nat
  size : Nat
  cplq : Fin 8
  remote : Bool
  targetDid : Nat
  head : Nat
  tail : Nat
  bound : Bool
deriving DecidableEq, Repr

/-- A completion or event queue as sampled at its enable, with its pointers, phase and moderation (R414, R419, R431). -/
structure OutQueue where
  enabled : Bool
  base : Nat
  size : Nat
  vector : Nat
  modCount : Nat
  modUs : Nat
  tail : Nat
  head : Nat
  phase : Bool
  unsignalled : Nat
  firstUnsignalled : Nat
  overflow : Bool
  lostNow : Nat
deriving DecidableEq, Repr

/-- Where a command came from: a local CMDQ, or a proxy that forwarded it (R373). -/
inductive CmdOrigin
  | queue (q : Fin 8)
  | peer (did : Nat) (tag : U32)
deriving DecidableEq, Repr

/-- A fetched command in progress: its running number in fetch order, its 64-byte entry, its origin, the CPLQ its
completion goes to, whether it has started (R416), whether it waits for a grant, a tick or an engine action. -/
structure Cmd where
  id : Nat
  origin : CmdOrigin
  cplq : Fin 8
  bytes : Data
  started : Bool
  waiting : Bool
  blocks : List (Nat × Data)     -- blocks a forwarded command writes, returned with its completion (R373)
deriving DecidableEq, Repr

/-- A DEV_RESET of scope 0 or 5 that acts 1 ms after its completion (R441). -/
structure DelayedReset where
  scope : Nat
  at_ : Nat
deriving DecidableEq, Repr

/-- A forwarded command whose completion the proxy awaits (R373, R374). -/
structure ForwardedCmd where
  cmd : Nat
  did : Nat
  acknowledged : Bool
deriving DecidableEq, Repr

/-- MBX_STATUS STATE (R414). -/
inductive MbxState
  | booting
  | ready
  | limited
  | failed
deriving DecidableEq, Repr

/-- The mailbox (chapter 11). -/
structure Mailbox where
  state : MbxState
  cmdqs : Vector CmdQueue 8
  cplqs : Vector OutQueue 8
  evqs : Vector OutQueue 4
  nextId : Nat
  cmds : List Cmd
  delayed : List DelayedReset
  forwarded : List ForwardedCmd
deriving DecidableEq, Repr

/-- One event as it is queued or logged (R430). -/
structure Event where
  ev : Nat
  tick : Nat
  data0 : Nat
  data1 : Nat
  forwarded : Bool
  srcDid : Nat
deriving DecidableEq, Repr

/-- One routing rule of EVENT_ROUTE; the newest rule that covers an identifier governs (R434, R375). -/
structure EventRoute where
  first : Nat
  last : Nat
  evq : Nat
  vector : Nat
  proxy : Option Nat
deriving DecidableEq, Repr

/-- Event routing, pending logs, rate limits and the last events raised (R430 to R434, R592, R550). -/
structure Events where
  routes : List EventRoute
  logs : Vector (List Event) 4
  logLost : Vector Nat 4
  lastEntry : Counts
  sinceEntry : Counts
  recent : List Event
deriving DecidableEq, Repr

/-! ## PCI Express host interface -/

/-- One message or write that left the engine on PCI Express beside memory writes. -/
inductive PcieMessage
  | ltr (us : Nat)
  | ptmRequest (tick frac : Nat)
  | aer (code : Nat)
deriving DecidableEq, Repr

/-- An outcome of a BAR4 read (R390, R391). -/
inductive ReadOutcome
  | data (bytes : Data)
  | unsupported
  | completerAbort
  | poisoned (length : Nat)
  | waits
deriving DecidableEq, Repr

/-- An MSI-X message as sent: the vector, and the address and data of its table entry (R396). -/
structure MsixMessage where
  vector : Nat
  addr : Nat
  data : Nat
deriving DecidableEq, Repr

/-- The PCI Express port, configuration space words that software wrote, PTM and the interrupt messages sent. -/
structure Pcie where
  linkUp : Bool
  gen : Nat
  width : Nat
  d3 : Bool
  cfg : RegFile
  barSizeLog2 : Nat
  b4Base : Nat
  ptmValid : Bool
  ptmOpen : Option Nat
  ptmLast : Nat                   -- uptime of the last PTM dialog's start (R403)
  lastReset : Nat
  quiesced : Bool
  lastRead : Option ReadOutcome
  l12 : Bool                      -- the link is in L1.2 (R405)
  dataWrite : Bool × Bool         -- Relaxed Ordering and No Snoop of the last write of ring or Draught data (R401)
  dataRead : Bool                 -- No Snoop of Draught's last data read (R398)
  messages : List PcieMessage
  msix : List MsixMessage
deriving DecidableEq, Repr

/-! ## The central store -/

/-- A region of the store (R85). -/
structure Region where
  type : Nat
  base : Nat
  size : Nat
deriving DecidableEq, Repr

/-- Store state of R110: READY, LIMITED, HALTED, SELF_REFRESH; untrained before power-up training ends (R391). -/
inductive StoreState
  | untrained
  | ready
  | limited
  | halted
  | selfRefresh
deriving DecidableEq, Repr

/-- The store configuration block as applied (R108, R109). -/
structure StoreCfg where
  ecc : Bool
  targetRate : Nat
  wmHigh : Nat
  wmLow : Nat
  idleDelay : Nat
  rdThreshold : Nat
  throttleCap : Nat
  throttleMs : Nat
  scrubMin : Nat
  masks : List Nat
  applied : Bool
deriving DecidableEq, Repr

/-- A requester's throttle and the uptime at which it ends (R99). -/
structure Throttle where
  requester : Nat
  until_ : Nat
  paced : Nat                     -- the uptime up to which throttle_cap has spread its activations (R99)
deriving DecidableEq, Repr

/-- A span of the store whose bytes are not those of `mem`: free values, of a version that stands still once it is given (R87, R89;
log 28). -/
structure Scrambled where
  base : Nat
  size : Nat
  version : Option Nat
deriving DecidableEq, Repr

/-- One class of the store ledger with the object that holds it, in kB/s (R25). -/
structure Reservation where
  owner : Owner
  cls : Nat
  kbs : Nat
deriving DecidableEq, Repr

/-- The store and its controller (chapter 3). -/
structure Store where
  clamshell : Bool
  state : StoreState
  pinRate : Nat
  cfg : StoreCfg
  regions : List Region
  mem : Memory
  poison : List Nat
  scrambled : List Scrambled
  ledger : List Reservation
  owed : Counts
  refreshBase : Nat               -- uptime from which the banks count their refresh intervals (R95)
  refreshed : Counts              -- by bank, the uptime of the last refresh that it came to owe
  rowCounts : Counts
  throttles : List Throttle
  idleSince : Option Nat
  srSince : Nat
  srExiting : Bool
  retraining : Option Nat
  scrubNext : Nat
  scrubSince : Nat                -- uptime at which the scrub pass in progress began, moved on by every pause (R82)
  corrected : Nat
  uncorrectable : Nat
  edcRetries : Nat
  throttleCount : Nat
  forcedRefreshes : Nat
  srEntries : Nat
  srAborts : Nat
  retrains : Nat
  holeMerges : Nat
  displayZeroed : Nat
  srTicks : Nat
  lastUncorrectable : Nat
  spectraNext : Nat               -- next write offset within SPECTRA, a ring of published records
  correctionsAt : List Nat        -- uptimes of the corrections of the last second (R111)
deriving DecidableEq, Repr

/-! ## Converter inlets -/

/-- Inlet state of R68. -/
inductive InletState
  | stopped
  | starting
  | running
  | realigning
  | fault
deriving DecidableEq, Repr

/-- A hole of a HISTORY ring: a span of ticks [start, stop) and its GAP cause (R13, R91). -/
structure Hole where
  start : Nat
  stop : Nat
  cause : Nat
deriving DecidableEq, Repr

/-- The samples of one local-clock period: the number of the first, for each sample number the history values of the
converters in order, the numbers of the clipped 256-sample blocks it touches, and whether its time is uncertain (R46, R48,
R51, R53, R119). Sample n has the time base + (n - lag) x stepNum / stepDen, rounded, in 1/65,536 tick. -/
structure Frame where
  num : Nat
  base : Int
  lag : Int
  stepNum : Nat
  stepDen : Nat
  values : List (List Int)
  clips : List Nat
  uncertain : Bool
  hist16 : Bool
  complex : Bool
deriving DecidableEq, Repr

/-- A poisoned sector of HISTORY: its address and the ticks [start, stop) of the samples that it holds (R79, R89; log 28). -/
structure PoisonedSpan where
  addr : Nat
  start : Nat
  stop : Nat
deriving DecidableEq, Repr

/-- The HISTORY ring of an inlet (R15, R16, R89, R91). -/
structure Ring where
  extents : Nat
  frames : List Frame
  oldest : Nat
  newest : Nat
  holes : List Hole
  stoppedSpans : List (Nat × Nat)
  stoppedAt : Option Nat          -- the first tick after the last stop that holds no data, until the next first sample (R61)
  version : Nat
  poisoned : List PoisonedSpan
  geometry : Nat × Nat × Nat      -- doubled bytes of a sample number, fs_num and fs_den, as at the last INLET_START (R15)
deriving DecidableEq, Repr

/-- One logical lane (R62, R66, R68). -/
structure Lane where
  codeErrors : Nat
  crcErrors : Nat
  syncLosses : Nat
  realigns : Nat
  arrival : Nat
  locked : Bool
  cdr : Bool
  windowErrors : Nat
  windowRaised : Bool
deriving DecidableEq, Repr

/-- An INLET_STOP that waits for its stop tick (R58). -/
structure PendingStop where
  cmd : Nat
  tick : Nat
  force : Bool
deriving DecidableEq, Repr

/-- One inlet (chapter 2). Times of the local clock are in 1/65,536 tick. -/
structure Inlet where
  page0 : Option Data
  page1 : Option Data
  page2 : Option Data
  state : InletState
  step : Nat
  stepSince : Nat
  startCmd : Option Nat
  qualified : Nat
  edge : Nat
  periods : Nat                   -- local-clock periods from that edge to the one whose release holds sample 0
  release : Nat
  nextNum : Nat
  ring : Ring
  elastic : List Frame
  elasticFill : Nat
  elasticPeak : Nat
  urgent : Bool
  lanes : Vector Lane 32
  syncN : BitVec 4
  firstTick : Nat
  samplesWritten : Nat
  hold : Nat
  spread : Nat
  latencyBound : Bool
  sysrefPhase : Bool
  clipSeen : Bool
  urgentSeen : Bool
  sysrefPulses : Nat
  phaseMarks : List (Nat × Option Nat)  -- from a SYSREF pulse out of phase to the next in phase, in 1/65,536 tick (R46)
  unlocked : Bool                 -- its LC-PLL has lost lock since the last release (R65)
  holeCount : Nat
  holeTicks : Nat
  clipBlocks : Nat
  lastClipBlock : Option Nat
  urgentDrains : Nat
  realignHole : Option Nat
  faultCause : Nat                -- GAP cause of the holes of an inlet in FAULT: 3, or 9 after a clock departure (R64, R487)
  stop : Option PendingStop
deriving DecidableEq, Repr

/-! ## Tasks, tiles and the home collector -/

/-- A task descriptor as checked (R116). -/
structure TaskDesc where
  mode : Nat
  channel : Nat
  nLog2 : Nat
  overlap : Nat
  taps : Nat
  window : Nat
  winParam : Nat
  table : List Int
  detector : Nat
  format : Nat
  bLog2 : Nat
  outShift : Nat
  avg : Nat
  binFirst : Nat
  binCount : Nat
  group : Nat
  stream : Nat
  sk : Bool
  skBlank : Bool
  skMLog2 : Nat
  skLower : Nat
  skUpper : Nat
  startTick : Nat
  fLog2 : Nat
  fWindow : Nat
  fWinParam : Nat
  raw : Data                      -- the 256 bytes of the descriptor
deriving DecidableEq, Repr

/-- What a task is: a live task, a retro job, or an internal source task of a correlator (R118). -/
inductive TaskKind
  | live
  | retro
  | source (xc : Nat) (slot : Nat)
deriving DecidableEq, Repr

/-- The commit unit of one index: bin powers as binary32, complex bins in their formatted codes or as i8, marks, saturations of
the formatter, or a gap (R182). fine marks an index of the fine stage (R141). -/
structure CommitUnit where
  task : Nat
  index : Nat
  epoch : Nat
  fine : Bool
  power : List U32
  bins : List (U32 × U32)
  crc : U32
  clipped : Bool
  uncertain : Bool
  backfill : Bool
  saturated : Nat
  gap : Option Nat
deriving DecidableEq, Repr

/-- The detector slice of one output point (R128, R129): largest and smallest P, the sampled P, the 96-bit sum of q, the
spectra included, and the complex value of a complex format. -/
structure PointAcc where
  maxP : U32
  minP : U32
  sample : U32
  sumQ : Nat
  count : Nat
  re : U32
  im : U32
deriving DecidableEq, Repr

/-- A record not yet closed (R132). -/
structure OpenRecord where
  first : Nat
  last : Nat
  vectors : Nat
  payload : Data
  flags : Nat
  epoch : Nat
deriving DecidableEq, Repr

/-- An output vector kept for acquisitions (R230, R231), or a span of indices that became a gap. -/
structure OutVector where
  first : Nat
  last : Nat
  tick : Nat
  frac : Nat
  epoch : Nat
  flags : Nat
  gap : Option Nat
  points : Data
  places : Option (List (Nat × Nat))  -- address and bytes of the records in SPECTRA that hold it, once published
deriving DecidableEq, Repr

/-- A joined gap of a collector, not yet published (R183). -/
structure OpenGap where
  first : Nat
  last : Nat
  cause : Nat
  epoch : Nat
deriving DecidableEq, Repr

/-- The marks of one coarse spectrum in the corner-turn buffer of a two-stage task; its values stand in SPECTRA (R141). -/
structure CornerRow where
  index : Nat
  gap : Option Nat
  clipped : Bool
  uncertain : Bool
  backfill : Bool
deriving DecidableEq, Repr

/-- A MARKER that waits for its place (R167). -/
structure Marker where
  code : Nat
  index : Nat
  epoch : Nat
deriving DecidableEq, Repr

/-- A modification that takes effect at an index (R138). -/
structure PendingModify where
  index : Nat
  desc : TaskDesc
  crc : U32
  holdReset : Bool
deriving DecidableEq, Repr

/-- A share of a task on a tile: sixteenths, the residues of the index pattern it computes (R113), its lowest uncommitted
index (R179), the first index and the limit of its placement (R163), and how many of its own indices item 1 of R180 has paid for. -/
structure Share where
  task : Nat
  sixteenths : Nat
  period : Nat
  residues : List Nat
  idx : Nat
  from_ : Nat
  limit : Option Nat
  epoch : Nat
  role : Nat        -- 0 committed, 1 backfill, 2 retro, 3 fine stage, 4 cross-multiply, 5 for a home device (R366), 6 fine backfill
  ran : Nat
deriving DecidableEq, Repr

/-- What tells one share from every other: two shares of a task may stand on one tile with different residues or epochs. -/
structure ShareKey where
  task : Nat
  role : Nat
  epoch : Nat
  residues : List Nat
deriving DecidableEq, Repr

/-- Indices of one residue that no share computes, from an index on and until another placement takes them, with a GAP cause (R23,
R161). -/
structure DeadResidue where
  period : Nat
  residue : Nat
  from_ : Nat
  stop : Option Nat
  cause : Nat
deriving DecidableEq, Repr

/-- A migration under way (R162 to R165): its command, its index, its overlap, the peer it goes to, and whether the peer has
admitted it (R366). -/
structure Migration where
  cmd : Nat
  k0 : Nat
  overlap : Nat
  peer : Option Nat
  ready : Bool
deriving DecidableEq, Repr

/-- A backfill job: the indices still to recompute, whether it waits for power (R159, R506), and the GAP cause of what HISTORY no longer holds (R161, R372, R506). -/
structure Backfill where
  indices : List Nat
  fine : List Nat                 -- fine-stage indices, recomputed from the corner-turn blocks (R161)
  waitingPower : Bool
  cause : Nat
deriving DecidableEq, Repr

/-- One task, retro job or source task, with its home collector (chapter 4). The time of sample n is
tBase + (n - tLag) x tNum / tDen, rounded, in 1/65,536 tick (R48). -/
structure Task where
  id : Nat
  kind : TaskKind
  desc : TaskDesc
  active : Bool                   -- admitted; false while its power request waits (R503)
  fsNum : Nat
  fsDen : Nat
  complex : Bool
  hist16 : Bool
  g0 : Nat
  tBase : Int
  tLag : Int
  tNum : Nat
  tDen : Nat
  demand : Nat
  placedPeer : Option Nat
  epoch : Nat
  epochFrom : Nat                 -- first index under the epoch in force, and the epoch before it (R164)
  epochBefore : Nat
  oldLimit : Nat                  -- results of older epochs from this index on are dropped (R163)
  kept : List (Nat × U32)         -- CRCs of the first results of an overlap (R163)
  dead : List DeadResidue         -- what no share computes any more (R23)
  cfgCrc : U32
  modNo : Nat                     -- modifications accepted: the configuration CRC covers their number (R132)
  kNext : Nat                     -- next index to publish; k_pub follows from held (R155)
  held : List CommitUnit          -- passed by the first-commit filter, not yet published (R154, R155)
  cell : List PointAcc
  cellFirst : Nat
  cellCount : Nat
  cellFlags : Nat
  cellGap : Option Nat
  hold : List U32                 -- MAX_HOLD or MIN_HOLD values, empty at a hold start (R128, R130)
  skS1 : List Nat
  skS2 : List Nat
  skNext : Nat                    -- next index to enter an SK block
  skMarks : Nat
  skGap : Bool
  openRec : Option OpenRecord
  openGap : Option OpenGap
  finalSent : Bool
  vectors : List OutVector        -- the output vectors that SPECTRA still holds (R230, R231, R243)
  coarsePub : Nat                 -- two-stage: lowest coarse index not yet passed (R144)
  coarseHeld : List CommitUnit
  corner : List CornerRow
  cornerBase : Nat                -- SPECTRA address of the first of the two corner-turn blocks (R143)
  modify : Option PendingModify
  destroy : Option (Nat × Nat)    -- the command and the stop index (R140)
  stopIndex : Option Nat
  planned : Nat
  migration : Option Migration
  backfill : Option Backfill
  backfilled : List Nat           -- indices whose records carry BACKFILL (R160); fine ones of a two-stage task beside them
  backfilledFine : List Nat
  backfillFrom : Option Nat       -- every index of a retro job from here on carries BACKFILL (R161)
  markers : List Marker
  lagging : Bool
  mismatches : Nat
  oldEpochDrops : Nat
  saturations : Nat
deriving DecidableEq, Repr

/-- Tile state of R193. -/
inductive TileState
  | idle
  | running
  | waiting
  | fenced
  | selfTest
deriving DecidableEq, Repr

/-- An address generator: the region of the share that it may reach, its current address and its strides (R177). ring marks a
region that wraps. -/
structure AddrGen where
  base : Nat
  limit : Nat
  cur : Nat
  strides : List Nat
  ring : Bool
deriving DecidableEq, Repr

/-- One entry of the TRACE buffer (R193). -/
structure TraceEntry where
  addr : Nat
  idx : Nat
  tick : Nat
deriving DecidableEq, Repr

/-- The sequencer of a tile while its routine runs (R172 to R181): the address of the microword, the return stack, the loop
counters, the address generators, what is outstanding, what is staged for the head index, and what the monitor's trace holds. -/
structure Sequencer where
  upc : Nat
  stack : List Nat
  ctr : Vector Nat 4
  ag0 : AddrGen
  ag1 : AddrGen
  bursts : Nat                    -- AG0 bursts whose data has not come
  writes : Nat                    -- AG1 writes that the store has not accepted
  busy : Bool                     -- a datapath stage or a scratch write of the last clock still drains
  fftDone : Bool
  energyDone : Bool
  compares : Bool                 -- Squall comparisons staged
  cells : List Nat                -- density maps whose cell updates are staged
  events : Nat                    -- events staged (R172, EV_EMIT)
  accepted : Nat                  -- acceptances that a COMMIT word has not yet met
  faults : List Nat               -- causes of R184 that the sequencer has raised and no abandon has taken yet
  scratch : List (Nat × BitVec 512)
  trace : List TraceEntry
deriving DecidableEq, Repr

/-- One Gale tile with its Tchider sequencer (chapters 4 and 5). -/
structure Tile where
  state : TileState
  fenceCause : Nat
  powered : Bool
  shares : List Share
  staged : Option (List Share)
  running : Option ShareKey       -- the share that runs
  batch : List Nat
  units : List CommitUnit
  readIssued : Nat                -- indices of the batch whose reads have issued
  routine : Nat                   -- the routine ID of the run (R178)
  runStart : Nat                  -- the uptime of the run's entry, and its nominal cycles (R179)
  nominal : Nat
  seq : Sequencer
  waitReason : Nat                -- R193: 1 data, 2 fence, 3 commit window, 4 Squall or Eddy port
  restarting : Bool
  pendingCauses : List Nat        -- abandons raised while the sequencer was IDLE (R186)
  batches : Nat
  restarts : Vector Nat 6
  faultTimes : List Nat
  lastFailIndex : Option Nat
  lastFailAddr : Option Nat       -- the address whose check failed in the run that was abandoned (R171)
  scrubFails : List Nat           -- addresses whose last background check failed (R171)
  csErrors : Counts               -- bits of the stored control-store words that an upset has turned (R170)
  reread : List (Nat × Nat)       -- poisoned spans already met once (R79, R184)
  csRepairs : Nat
deriving DecidableEq, Repr

/-- A source of a correlator (R145). -/
structure XcSource where
  did : Nat
  channel : Nat
  remote : Bool
  gainLog2 : Int
  delay : Int
  task : Nat
  saturations : Nat
deriving DecidableEq, Repr

/-- One index of a correlator that waits for its sources: requantised values per slot, and the record
flags of the spectra that came (R133, R146, R150). -/
structure XcIndex where
  index : Nat
  since : Nat
  values : List (Nat × List (Int × Int))
  marks : Nat
deriving DecidableEq, Repr

/-- A cross-spectral correlator (R145 to R150). -/
structure Xcorr where
  id : Nat
  sources : List XcSource
  nInt : Nat
  binFirst : Nat
  binCount : Nat
  stream : Nat
  desc : TaskDesc
  dump : Nat
  waiting : List XcIndex
  sums : List (List (Int × Int))
  included : Nat
  marks : Nat                     -- record flags of the included spectra (R133)
  excluded : Nat
  nextIndex : Nat
  missingRaised : Bool
  missingCause : Nat
  crossDead : List DeadResidue    -- indices that no cross-multiply share computes (R23)
  g0 : Nat
  time0 : Nat
  cfgCrc : U32
deriving DecidableEq, Repr

/-- The patch and the entry table common to all tiles (R178, R190, R191). -/
structure ControlStore where
  patchRam : Counts
  patchFill : Nat
  patchRev : Nat
  romId : Nat
  entries : List (Nat × Nat)
  loaded : Bool
deriving DecidableEq, Repr

/-! ## Squall: trigger units, the trigger matrix and acquisitions -/

/-- A remembered unit fire: its tick and fraction, and whether its decision was late (R197, R210). -/
structure Fire where
  tick : Nat
  frac : Nat
  late : Bool
  decided : Nat                    -- the tick at which the engine decided it (R197)
deriving DecidableEq, Repr

/-- A trigger unit's configuration (R207, R208): the sixteen kind-parameter words are kept as checked numbers. -/
structure UnitCfg where
  kind : Nat
  source : Nat
  minDur : Nat
  count : Nat
  binLo : Nat
  binHi : Nat
  lvlLo : Int
  lvlHi : Int
  window : Nat
  thr : Nat
  direction : Nat
  lower : Nat
  upper : Nat
  nMin : Nat
  mode : Nat
  component : Nat
  slope : Nat
  hyst : Nat
  minWidth : Nat
  delay : Int
  anyDid : Bool
  upperMask : List (Nat × Int)
  lowerMask : List (Nat × Int)
deriving DecidableEq, Repr

/-- A spectral step held back until every lower index has passed (R195). -/
structure HeldStep where
  index : Nat
  tick : Nat
  frac : Nat
  holds : Bool
  hits : Nat
  gap : Bool
deriving DecidableEq, Repr

/-- One trigger unit (R194 to R209, R245). -/
structure TrigUnit where
  cfg : UnitCfg
  condition : Bool
  detached : Bool
  runLen : Nat
  runTick : Nat
  runFrac : Nat
  steps : Nat
  occurrences : Nat
  progress : Nat
  fires : Nat
  lastFire : Nat
  late : Nat
  gapSteps : Nat
  worstLatency : Nat
  nextIndex : Nat
  heldSteps : List HeldStep
  recentHits : List Nat
  readyRise : Bool
  readyFall : Bool
  highRise : Bool
  lowFall : Bool
  recent : List Fire               -- the four most recent fires, consumed or not: what a new term finds (R210)
  memory : List (Nat × List Fire)   -- the last four unconsumed fires by product term, AT x 8 + step x 4 + term (R210)
deriving DecidableEq, Repr

/-- The trigger matrix configuration of an AT (R213). -/
structure MatrixCfg where
  seq : Bool
  export_ : Bool
  outMask : Nat
  coinc : Nat
  term1 : List Nat
  term2 : List Nat
  seqWindow : Nat
  outWidth : Nat
  outDelay : Nat
deriving DecidableEq, Repr

/-- An acquisition definition (R229). -/
structure AcqDef where
  armMode : Nat
  content : Nat
  reduction : Nat
  cont : Nat
  stream : Nat
  chMask : Nat
  d : Nat
  a : Nat
  holdoffKind : Nat
  holdoffSrc : Nat
  groupId : Nat
  preTicks : Nat
  postTicks : Nat
  holdoff : Nat
  tasks : List Nat
  masterDid : Nat
  settle : Nat
  headPostTicks : Nat
  crc : U32
deriving DecidableEq, Repr

/-- A group fire kept for the current round (R225). -/
structure GroupFire where
  tick : Nat
  frac : Nat
  did : Nat
  forced : Bool
deriving DecidableEq, Repr

/-- A member registered with this device as master (R222, R223). -/
structure Member where
  did : Nat
  lDec : Nat
  confirmed : Bool
  dist : Nat                       -- hops to it, as its registration counted them (R223; log 25)
deriving DecidableEq, Repr

/-- A group arm that waits for its confirmations and its tick (R224). -/
structure PendingArm where
  cmd : Option Nat
  mask : Nat
  tick : Nat
  deadlinePassed : Bool
deriving DecidableEq, Repr

/-- A DISARM whose completion waits for the decision bound (R219). -/
structure PendingDisarm where
  cmd : Option Nat
  mask : Nat
  tick : Nat
  due : Nat
  cause : Nat
deriving DecidableEq, Repr

/-- An edge on a TRIG_IN pin that a unit's min_width still has to qualify, with the tick at which it has (R203). -/
structure PendingEdge where
  unit : Nat
  due : Nat
  tick : Nat
  frac : Nat
deriving DecidableEq, Repr

/-- A forced fire that waits for its tick (R221). -/
structure PendingForce where
  target : Nat
  index : Nat
  tick : Nat
  armSeq : Nat
deriving DecidableEq, Repr

/-- A TRIG_OUT pulse that the matrix has scheduled (R214). -/
structure OutPulse where
  at_ : Nat
  mask : Nat
  rise : Nat
  fall : Nat
  late : Bool
deriving DecidableEq, Repr

/-- One acquisition trigger (R210 to R228, R246). -/
structure AcqTrigger where
  matrix : Option MatrixCfg
  def_ : Option AcqDef
  armed : Bool
  partial_ : Bool
  armSeq : Nat
  armTick : Nat
  disarmTick : Option Nat         -- a disarm is pending (R219)
  disarmAbort : Bool
  fires : Nat
  lastTrig : Nat
  firstSteps : List Fire          -- remembered satisfactions of the two steps (R211)
  secondSteps : List Fire
  heldFrom : Option Nat           -- the last fire since the arming, where hold-off starts (R218)
  holdCount : Nat
  holdDone : Option Nat
  rearmTick : Nat
  suppressed : Nat
  late : Nat
  dropped : Nat
  heldOffCount : Nat
  complete : Nat
  copyGaps : Nat
  lastAddr : Nat
  lastBytes : Nat
  lastNo : Nat
  outLate : Nat
  ineligible : Nat
  members : List Member           -- registered members, at the master; their DIDs, at a member (R222, R224)
  hops : Nat
  settle : Nat
  round : List GroupFire
  decided : Option GroupFire
  lateGroupFires : Nat            -- GROUP_FIREs after the decision, for another arm_seq or unarmed (R225, R362)
  registerCmd : Option Nat
  registerAt : Nat
  registering : Option AcqDef      -- the definition that takes effect with the master's acknowledgement (R222, R427)
deriving DecidableEq, Repr

/-- One item a source copy has taken: an output item, or the place of one that became a gap. RAW items hold the values of
each channel, spectral items the bytes of their points (R232, R233, R243). -/
structure CopyItem where
  gap : Option Nat
  index : Nat
  count : Nat
  tick : Nat
  frac : Nat
  stop : Nat
  epoch : Nat
  flags : Nat
  values : List (Nat × List Int)
  points : Data
deriving DecidableEq, Repr

/-- One source copy of an acquisition (R241, R242): the RAW part of one inlet, or the SPECTRA part of the task in a slot.
Places are cell numbers, kept cells only: the window [first, stop), its head up to headStop, the trigger's cell, the lowest
not yet copied before the trigger, the lowest copied from the trigger backward, and the next after the trigger. -/
structure SourceCopy where
  inlet : Option Nat
  slot : Nat
  task : Nat
  begin_ : Nat
  preClipped : Bool
  first : Nat
  trig : Nat
  headStop : Nat
  stop : Nat
  low : Nat
  high : Nat
  post : Nat
  newestFirst : Bool
  items : List CopyItem
  segments : Counts
  headOut : Bool
  done : Bool
deriving DecidableEq, Repr

/-- An acquisition being copied or kept in ACQ (R231, R238, R239). -/
structure Acquisition where
  no : Nat
  at_ : Nat
  trigTick : Nat
  trigFrac : Nat
  winner : Nat
  armSeq : Nat
  flags : Nat
  def_ : AcqDef
  addr : Nat
  size : Nat
  used : Nat
  cut : Option Nat
  sources : List SourceCopy
  complete : Bool
deriving DecidableEq, Repr

/-- Squall as a whole (chapter 6). -/
structure Squall where
  units : Vector TrigUnit 32
  ats : Vector AcqTrigger 16
  acqs : List Acquisition
  nextAcq : Nat
  acqHead : Nat
  pendingArms : List PendingArm
  pendingDisarms : List PendingDisarm
  pendingForces : List PendingForce
  pendingEdges : List PendingEdge
  pulses : List OutPulse
  outEdges : List OutPulse
deriving DecidableEq, Repr

/-! ## Eddy density maps and the scan-out -/

/-- A density map's configuration (R262). -/
structure MapCfg where
  flags : Nat
  decayK : Nat
  task : Nat
  binFirst : Nat
  columns : Nat
  rows : Nat
  colLog2 : Nat
  stream : Nat
  top : Int
  rowStep : Nat
  lumGain : Nat
  exportTicks : Nat
  minCount : Nat
  ageMul : Nat
  cmap : List (Nat × Nat)
  crc : U32
deriving DecidableEq, Repr

/-- The record of an export being written: its bytes, the raw buffer that holds it, none for a GAP, and its end tick (R260). -/
structure RawExport where
  bytes : Data
  addr : Option Nat
  stop : Nat
deriving DecidableEq, Repr

/-- A map's sweep under way (R253, R254): the boundary's tick, the cells swept and since when, their counts and ages as the sweep met
them, and what the interval that ends has of spectra, marks and epoch. -/
structure Sweep where
  tick : Nat
  cells : Nat
  since : Nat
  counts : Counts
  youth : Counts
  spectra : Nat
  marks : Nat
  epoch : Nat
deriving DecidableEq, Repr

/-- One density map (R248 to R266). Counts are sparse by cell row x columns + column; ages are kept as what they lack to
65,535, the age of a cell without updates (R262). -/
structure DensityMap where
  cfg : Option MapCfg
  detached : Bool
  counts : Counts
  youth : Counts
  busyUntil : Nat                 -- uptime at which the input has applied what it holds (R251)
  lastBoundary : Nat              -- tick of the last boundary met, or of the configuration
  completedAt : Nat               -- tick of the last completed boundary (R260)
  skippedLast : Bool
  interval : Nat
  number : Nat                    -- interval of the export being written
  planeBase : Nat
  rawBase : Nat
  newest : Option Nat
  sweep : Option Sweep
  writing : Option Nat
  record : Option RawExport
  rawTurn : Nat
  spectra : Nat
  spectraInterval : Nat
  marks : Nat
  dropped : Nat
  skipped : Nat
  saturated : Nat
deriving DecidableEq, Repr

/-- A DENSITY_CLEAR that waits for its tick (R265). -/
structure PendingClear where
  cmd : Nat
  mask : Nat
  tick : Nat
deriving DecidableEq, Repr

/-- A layer set in use: the seven shadow words and the background (R272). -/
structure LayerSet where
  ctrl : U32
  pos : U32
  size : U32
  pitch : U32
  planes : List U32
  bg : U32
deriving DecidableEq, Repr

/-- A layer of the scan-out with its latched planes, buffer share and underrun marks (R269 to R281). -/
structure Layer where
  set : LayerSet
  latched : List Nat
  shareUnits : Nat
  fetching : Bool
  fetched : Nat                   -- bytes of this frame's layer data that have been fetched
  underrunNow : Bool
  lost : Bool
deriving DecidableEq, Repr

/-- LINK_STATE of SCN_STATUS (R282). -/
inductive DpState
  | off
  | noSink
  | training
  | active
  | failed
deriving DecidableEq, Repr

/-- An AUX transaction in progress (R277). -/
structure AuxOp where
  cmd : Nat
  addr : Nat
  len : Nat
  defers : Nat
  since : Nat
deriving DecidableEq, Repr

/-- The scan-out's own state beside its registers (R267 to R283). -/
structure ScanOut where
  running : Bool
  link : DpState
  timing : List U32
  frame : Nat
  frameAt : Nat                   -- uptime of the last frame start
  blackRest : Bool                -- the rest of the frame is sent black (R282)
  pixelPaused : Bool
  layers : Vector Layer 4
  blackFrames : Nat
  blank : Bool
  hpd : Bool
  hpdIrqs : Nat
  trainFails : Nat
  retryAt : Nat
  rate : Nat
  lanes : Nat
  sscActive : Bool
  trained : Bool
  crcBlank : Nat                  -- checks whose BLANK action stands (R468): bit 0 host, bit 1 firmware
  aux : Option AuxOp
  auxWaiting : Bool
deriving DecidableEq, Repr

/-- Eddy: eight maps and the clears that wait (chapter 7). -/
structure Eddy where
  maps : Vector DensityMap 8
  clears : List PendingClear
deriving DecidableEq, Repr

/-! ## Tailwind streams and Draught DMA -/

/-- Stream state of R304. -/
inductive StreamState
  | closed
  | open_
  | paused
  | failed
  | closing
deriving DecidableEq, Repr

/-- A record accepted by a stream: its bytes (header and padded payload) and its producer (R292). -/
structure Accepted where
  producer : Nat
  bytes : Data
  addr : Option Nat
  linkSeq : Nat
  stop : Nat                      -- the end of its span, as a GAP in its place would carry it (R288)
deriving DecidableEq, Repr

/-- A gap that the stream is joining for one producer (R294). -/
structure StreamGap where
  producer : Nat
  header : Data
  count : Nat
  bytesLost : Nat
  tEnd : Nat
  cause : Nat
deriving DecidableEq, Repr

/-- A delegated NVMe queue pair (R308 to R314). -/
structure Nvme where
  wrap : Bool
  fua : Bool
  sqDoorbell : Nat
  cqDoorbell : Nat
  memStore : Nat
  memSize : Nat
  bar4Bus : Nat
  sqEntries : Nat
  cqEntries : Nat
  nsid : U32
  lbaSize : Nat
  lbaFirst : Nat
  lbaCount : Nat
  maxXfer : Nat
  flushMs : Nat
  timeoutMs : Nat
  sqTail : Nat
  cqHead : Nat
  cqPhase : Bool
  slots : Nat
  slotBusy : List Nat
  logSlot : Nat
  buffer : Data
  commands : List (Nat × Nat × Bool × Nat)   -- CID, data slot (of a Flush: the log bytes it makes durable), is a Flush, uptime of submission
  flushWaiting : Bool
  flushAwaits : List Nat          -- the CIDs of the earlier Writes that have not completed (R312)
  flushUpTo : Nat
  finalFlush : Bool
  durable : Nat
  lastFlush : Nat
  status : Nat
  errors : Nat
  wraps : Nat
deriving DecidableEq, Repr

/-- The IQ source of a stream (R298). -/
structure IqSource where
  chMask : Nat
  block : Nat
  next : Counts                   -- the next block of each inlet
  crc : U32
deriving DecidableEq, Repr

/-- What a stream holds of a peer that sends to it (R368, R369): the sender and its stream, the last link sequence number
accepted, the bytes of the record that is arriving, and the uptime since which the sender cannot be reached. -/
structure PeerFeed where
  did : Nat
  stream : Nat
  last : Nat
  partial_ : Data
  lostSince : Option Nat
deriving DecidableEq, Repr

/-- One Tailwind stream engine (R291 to R318). -/
structure Stream where
  state : StreamState
  dest : Nat
  reason : Nat
  rate : Nat
  noSnoop : Bool
  ringBase : Nat
  ringSize : Nat
  statusAddr : Nat
  backlogLimit : Nat
  backlog : Nat
  notifyKib : Nat
  notifyUs : Nat
  notified : Nat
  firstUnannounced : Option Nat
  queue : List Accepted
  gaps : List StreamGap
  seqNext : Nat
  tail : Nat
  head : Nat
  delivered : Nat
  records : Nat
  dropped : Nat
  gapRecords : Nat
  badHeads : Nat
  closeCmd : Option Nat
  pauseReasons : Nat
  iq : Option IqSource
  nvme : Option Nvme
  peerDid : Nat
  peerStream : Nat
  linkSeq : Nat
  acked : Nat
  unreachableSince : Option Nat
  fromPeers : List PeerFeed
  fromProducers : List (Nat × Nat × Nat × Data)  -- sender, producer, item after the last accepted, its last header
  stagePart : Bool
deriving DecidableEq, Repr

/-- A descriptor loaded by Draught (R320). -/
structure DmaDesc where
  src : Nat
  dst : Nat
  length : Nat
  srcSpace : Nat
  dstSpace : Nat
  ctrl : Nat
  next : Nat
  statusAddr : Nat
  srcDid : Nat
  dstDid : Nat
  fill : U32
  histTick : Nat
  user : Nat
deriving DecidableEq, Repr

/-- Channel state of DRT_CHn_STATUS (R333). -/
inductive ChanState
  | idle
  | ready
  | running
  | halted
deriving DecidableEq, Repr

/-- A Draught channel beside its registers (R325, R329). -/
structure DmaChan where
  state : ChanState
  descAddr : Nat
  descSpace : Nat
  desc : Option DmaDesc
  parts : List (Nat × Data)       -- what a peer's READ completions brought, by offset (R324)
  writesSent : Bool               -- the descriptor's writes to a peer have been issued (R324)
deriving DecidableEq, Repr

/-- Draught (R319 to R335): channels, the running channel and the channel last chosen at each priority. -/
structure Draught where
  chans : Vector DmaChan 32
  running : Option (Fin 32)
  lastChosen : Vector Nat 4
  active : Nat
deriving DecidableEq, Repr

/-! ## Raell links -/

/-- Port state of R379. -/
inductive PortState
  | disabled
  | down
  | training
  | active
  | standby
  | lowPower
deriving DecidableEq, Repr

/-- A DATA flit kept for replay: sequence number, virtual channel, whether a packet starts in it, and its payload (R340, R342). -/
structure SentFlit where
  seq : Nat
  vc : Nat
  starts : Bool
  payload : Data
deriving DecidableEq, Repr

/-- A packet that waits for flits: its virtual channel, the bytes still to send, and whether some have gone (R343, R344). -/
structure WaitingPacket where
  vc : Nat
  bytes : Data
  begun : Bool
deriving DecidableEq, Repr

/-- One link port (chapter 9). -/
structure Port where
  state : PortState
  width : Nat
  rate : Nat
  narrowed : Bool
  upperHalf : Bool                -- at x4, whether lanes 4 to 7 run (R339)
  longChannel : Bool
  peerDid : Nat
  peerSerial : U64
  peerAssigned : Bool
  delay : Nat
  offset : Int
  hostDown : Bool
  retryAt : Nat
  retraining : Bool
  retrainSince : Nat
  lastRetrain : Option Nat
  txSeq : Nat
  rxSeq : Nat
  ackedSeq : Nat
  nakSent : Bool
  replay : List SentFlit
  replaysHere : Nat
  ackProgress : Nat
  credits : Vector Nat 4
  waiting : List WaitingPacket
  lastBulk : Nat                  -- the last of VC2 and VC3 that was served, its flits in a row, and the flits of both (R343)
  bulkRun : Nat
  bulkSent : Nat × Nat
  owed : Vector Nat 4             -- credits to return, by virtual channel (R343)
  lastFlit : Data                 -- the last flit that the port put on its lanes (R340)
  lastGood : Nat
  heartbeatSeen : Nat
  heartbeatSent : Nat
  delayReqSent : Option Nat
  delayMeasured : Nat
  syncSent : Nat
  flitsTx : Nat
  flitsRx : Nat
  crcErrors : Nat
  replays : Nat
  retrains : Nat
  downs : Nat
  entries : List (Nat × Nat × Nat)   -- lo, hi, heal number
  out : List Packet
deriving DecidableEq, Repr

/-- An admitted flow across a link (R365): the peer, the port, MB/s out and in, in admission order. -/
structure Flow where
  owner : Owner
  did : Nat
  port : Nat
  tx : Nat
  rx : Nat
  lostSince : Option Nat
deriving DecidableEq, Repr

/-- A READ or acknowledged WRITE that waits for its COMPLETION (R364). -/
structure LinkRequest where
  tag : U32
  did : Nat
  isRead : Bool
  sent : Nat
  hops : Nat
  draught : Bool
  offset : Nat                    -- the place of a Draught READ in its descriptor's data
  tile : Option Nat               -- the tile whose share for a home device waits for it (R366)
deriving DecidableEq, Repr

/-- A device that the root numbered (R350, R352). -/
structure KnownDevice where
  did : Nat
  serial : U64
  depth : Nat
  parent : Nat
  parentPort : Nat
  present : Bool
  link : Nat                       -- what the link to its parent counts for (R361)
deriving DecidableEq, Repr

/-- An offer received by the orphan head (R355). -/
structure Offer where
  did : Nat
  port : Nat
  hops : Nat
deriving DecidableEq, Repr

/-- A heal run by this device as orphan head (R355). -/
structure Heal where
  since : Nat
  offers : List Offer
  ranges : List (Nat × Nat)       -- the orphan set: this device and its subtree
deriving DecidableEq, Repr

/-- An enumeration that this device runs as root (R350). -/
structure Enumeration where
  cmd : Option Nat
  count : Nat
  deepest : Nat
  stack : List (Nat × Nat × Nat)  -- device, its depth, the next port to visit
deriving DecidableEq, Repr

/-- A placement that a home device asked this device to run (R366). -/
structure ForeignShare where
  home : Nat
  task : Nat
  sixteenths : Nat
  active : Bool
  raw : Data
  complex : Bool
  hist16 : Bool
  epoch : Nat
  startIdx : Nat                  -- the first index, the time by which its last sample has come, and the time between two frames
  startTime : Nat
  stepNum : Nat
  stepDen : Nat
  next : Option (Nat × Data)      -- a modification: the frame it takes effect at, and the descriptor (R138)
deriving DecidableEq, Repr

/-- A range of DIDs that a device has lost the route to (R355), since an uptime, and whether its loss has been reported. -/
structure CutRange where
  lo : Nat
  hi : Nat
  since : Nat
  reported : Bool
deriving DecidableEq, Repr

/-- The history reads of one frame that a tile waits for (R366): reads outstanding, and the worst cause they brought. -/
structure RemoteRead where
  tile : Nat
  left : Nat
  gap : Option Nat
deriving DecidableEq, Repr

/-- The link configuration block as applied (R377). -/
structure LinkCfg where
  portDisable : Nat
  maxRate : Nat
  noNarrow : Bool
  heartbeatMs : Nat
  linkHoldMs : Nat
  healOfferUs : Nat
  asym : List Int
  baseDid : Nat
deriving DecidableEq, Repr

/-- The link system of this device (chapter 9). -/
structure Link where
  ports : Vector Port 4
  cfg : LinkCfg
  assigned : Bool
  did : Nat
  isRoot : Bool
  rootDid : Nat
  rootSerial : U64
  depth : Nat
  upstream : Option Nat
  healNo : Nat
  enumTick : Nat
  enumNo : U32
  enumerated : Bool
  enumeration : Option Enumeration
  known : List KnownDevice
  heal : Option Heal
  flows : List Flow
  requests : List LinkRequest
  nextTag : U32
  foreign : List ForeignShare
  unreachable : List CutRange
  discarded : Nat
  lostDids : List (Nat × Nat)
  toCancel : List (Nat × Nat)     -- shares left on a lost peer: its DID and the task (R372)
  arriving : List (Nat × Nat × Data)   -- units and spectra that arrive in parts: sender, subtype, bytes
  remoteReads : List RemoteRead
deriving DecidableEq, Repr

/-! ## Calibration, Breeze, boot, security, monitor, life ledger, firmware -/

/-- Power-up calibration (R509 to R521). -/
structure Calibration where
  next : Nat
  word : Nat
  endTick : Nat
  complete : Bool
  committed : Nat
  trims : List (List (BitVec 8))
  record : Option (List (List (BitVec 8)))
  recordSeq : Nat
  recordValid : Nat
  recordTj : Int
  otp : List (List (BitVec 8))
  otpLow : List (List (BitVec 8))
  otpHigh : List (List (BitVec 8))
  otpLimit : List (List Nat)
  agreeTol : Nat
  causes : List (Nat × Nat)
  tj : Int
deriving DecidableEq, Repr

/-- One Breeze slot's filter state (R525 to R527): DC estimate with 16 fraction bits, delay line, last four d. -/
structure BrzSlot where
  m : Int
  line : List Int
  last4 : List Int
  settleCount : Nat
  primed : Bool
  settled : Bool
  alarm : Bool
deriving DecidableEq, Repr

/-- State of a Breeze converter (R530). -/
inductive BrzState
  | stopped
  | cal
  | priming
  | running
deriving DecidableEq, Repr

/-- One Breeze converter beside its registers (R522 to R527). -/
structure BrzConv where
  state : BrzState
  roundTick : Nat
  len : Nat
  pos : Nat
  restartPending : Bool
  slots : Vector BrzSlot 32
  rounds : Nat
deriving DecidableEq, Repr

/-- Breeze: two converters and the readings of B's firmware slots (R523, R529). -/
structure Breeze where
  convs : Vector BrzConv 2
  rotation : Nat
  temps : Vector Int 16
  rails : Vector Nat 12
  wear : Vector Int 8
  reference : Nat
  pathTests : Nat
  pathNotPassed : Nat
deriving DecidableEq, Repr

/-- Lifecycle state of R544. -/
inductive Lifecycle
  | development
  | production
  | unlocked
  | retired
deriving DecidableEq, Repr

/-- One-time fuses and per-device constants (R3, R384, R537, R541, R544, R545, R574, R191). -/
structure Fuses where
  gradeE : Bool
  stepping : Nat
  serial : U64
  production : Bool
  retired : Bool
  rollback : Nat
  relock : Nat
  keyRevoked : List Bool
  lifeKeyRevoked : List Bool
  vNom : Nat
  romId : Nat
deriving DecidableEq, Repr

/-- An update session (R450, R542, R552): the slot, the length, the bytes received, and whether the monitor runs it. -/
structure UpdateSession where
  slotB : Bool
  length : Nat
  received : Nat
  monitor : Bool
deriving DecidableEq, Repr

/-- Phase of the boot sequence (R538 to R540). -/
inductive BootPhase
  | rom            -- steps 1 to 4
  | firmware       -- step 5
  | running        -- Kilnyx runs
  | failed         -- neither slot passed (R540)
  | held           -- limp mode, reset held or thermal trip
  | restarting     -- watchdog restart (R565)
deriving DecidableEq, Repr

/-- The VDD_CORE regulator as the boot ROM drives it over PMBus (R574): its address and page, the voltage it stands at in mV, and the
uptime of the last reading of its STATUS_WORD. -/
structure Regulator where
  addr : Nat
  page : Nat
  mv : Nat
  lastPoll : Nat
deriving DecidableEq, Repr

/-- Boot, security and identity (chapter 15). -/
structure Boot where
  phase : BootPhase
  slotB : Bool
  fellBack : Option (Nat × Nat)
  sectionsOk : Bool
  fwVersion : Nat
  fwRollback : Nat
  ifMajor : Nat
  ifMinor : Nat
  keyId : Nat
  lifecycle : Lifecycle
  tokenInvalid : Bool
  patchFailStep : Option Nat
  fuses : Fuses
  flash : Memory
  session : Option UpdateSession
  measurements : List Data
  quoteCount : Nat
  subsystem : Nat × Nat
  straps : Straps
  regulator : Regulator
  regulatorSilent : Bool
deriving DecidableEq, Repr

/-- The Fynal monitor (R549 to R552): what it sent, its rate, a switch that waits, a recovery update. -/
structure Fynal where
  out : List String
  baud : Nat
  newBaud : Option (Nat × Nat)
  restartAt : Option Nat
  lastPoke : Nat
deriving DecidableEq, Repr

/-- The test access port (R553, R554). -/
structure Jtag where
  instruction : Byte
  pinsTaken : Bool
deriving DecidableEq, Repr

/-- The life ledger (R568 to R571). -/
structure Life where
  seq : Nat
  flags : Nat
  poweredS : Nat
  equivMs : Nat
  bandS : Vector Nat 10
  tjLast : Int
  tjPeak : Int
  outS : Nat
  wearPpm : Vector Int 8
  wearWorst : Vector Int 8
  starts : Vector Nat 6
  fences : Nat
  poisoned : Nat
  bypasses : Nat
  calFails : Nat
  slotSwitches : Nat
  slot : Nat
  lastSample : Nat
  lastWrite : Nat
  lastDaily : Nat
  countsChanged : Bool
deriving DecidableEq, Repr

/-- The control processor: watchdog, restart, the firmware configuration check (R449, R467, R565). -/
structure Firmware where
  runs : Bool
  lastService : Nat
  lastBeat : Nat
  expiredAt : Option Nat
  cfgMismatches : Nat             -- episodes of both configuration checks (R467)
  crcCommitTick : Nat
  lastSweep : Nat
  thermtrip : Bool
  tjEval : Int                    -- hottest sensor at the last evaluation, 1/64 °C, and its uptime (R505)
  lastEval : Nat
deriving DecidableEq, Repr

/-- The state of the block. -/
structure State where
  pending : List Instr
  free : Nat
  clk : Clock
  pwr : Power
  mbx : Mailbox
  evt : Events
  pcie : Pcie
  regs : RegFile
  host : Memory
  store : Store
  inlets : Vector Inlet 4
  tasks : List Task
  nextTask : Nat
  xcorrs : List Xcorr
  tiles : Vector Tile 20
  cs : ControlStore
  squall : Squall
  eddy : Eddy
  scn : ScanOut
  tw : Vector Stream 16
  drt : Draught
  link : Link
  cal : Calibration
  brz : Breeze
  boot : Boot
  fynal : Fynal
  jtag : Jtag
  life : Life
  fw : Firmware
deriving DecidableEq, Repr

/-! ## Reset

Every field at the value the manual gives for reset. Where it gives none, the value is a DESIGN CHOICE, zero or empty
unless a log entry says otherwise (logs 1, 2 and 6): the fuses, the factory trims and the erased flash among them. -/

/-- A synthesizer before it starts. -/
def Synth.reset : Synth := { state := .off, since := 0, lfsr := 0, unlocks := 0 }

/-- The clock configuration defaults (R484, R488). -/
def ClockCfg.reset : ClockCfg :=
  { refSel := 1, sris := false, ppsOutEn := false, sscMode := 1, sscDepth := 0, sscFreq := 3150, rootWin := 2, rootN := 3,
    synWin := 2, synN := 2, seeds := List.replicate 10 0, holdoverS := 60, ppsLockNs := 50 }

/-- The discipline loop free-running (R490, R492), PTM interval 10 ms (R403). -/
def Loop.reset : Loop :=
  { source := 0, state := 0, ptmMs := 10, within := 0, beyond := 0, error := 0, steerPpb := 0, stepped := false,
    since := 0, ptmOrigin := none }

/-- The clocks at a start: time base 0 (R489), crystal selected (R476), Lull-0. -/
def Clock.reset : Clock :=
  { tick := 0, up := 0, refInUse := 1, limp := false, crystalLost := false, synths := Vector.replicate 11 Synth.reset,
    cfg := ClockCfg.reset, loop := Loop.reset, ppsEdgeUp := none, ppsOut := false, uncertain := false,
    lull := 0, lullSince := 0, lullTicks := Vector.replicate 4 0 }

/-- The power ledger: limit 1,650 units (R443), host latency figure 0 (R497). -/
def Power.reset : Power :=
  { limit := 1650, effective := 1650, grants := [], queue := [], tolHost := 0, denied := 0, granted := 0, deferrals := 0,
    waitTicks := 0, thermalChanges := 0, cause7Spans := 0, nowait := 0 }

/-- A disabled command queue. -/
def CmdQueue.reset : CmdQueue :=
  { enabled := false, error := false, base := 0, size := 1, cplq := 0, remote := false, targetDid := 0, head := 0, tail := 0,
    bound := false }

/-- A disabled completion or event queue. -/
def OutQueue.reset : OutQueue :=
  { enabled := false, base := 0, size := 1, vector := 0, modCount := 1, modUs := 0, tail := 0, head := 0, phase := false,
    unsignalled := 0, firstUnsignalled := 0, overflow := false, lostNow := 0 }

/-- The mailbox while the firmware boots (R414). -/
def Mailbox.reset : Mailbox :=
  { state := .booting, cmdqs := Vector.replicate 8 CmdQueue.reset, cplqs := Vector.replicate 8 OutQueue.reset,
    evqs := Vector.replicate 4 OutQueue.reset, nextId := 0, cmds := [], delayed := [], forwarded := [] }

/-- Every event routed to EVQ0 and unmasked, nothing pending (R433). -/
def Events.reset : Events :=
  { routes := [], logs := Vector.replicate 4 [], logLost := Vector.replicate 4 0, lastEntry := [], sinceEntry := [], recent := [] }

/-- The PCI Express port before link up; BAR4 at its default 256 MiB (R392). -/
def Pcie.reset : Pcie :=
  { linkUp := false, gen := 0, width := 0, d3 := false, cfg := [], barSizeLog2 := 28, b4Base := 0, ptmValid := false,
    ptmOpen := none, ptmLast := 0, lastReset := 0, quiesced := false, lastRead := none, l12 := false,
    dataWrite := (false, false), dataRead := false, messages := [], msix := [] }

/-- The store configuration defaults (R108); masks are computed from the configuration (R73). -/
def StoreCfg.reset : StoreCfg :=
  { ecc := true, targetRate := 24, wmHigh := 48, wmLow := 16, idleDelay := 10, rdThreshold := 16384, throttleCap := 2,
    throttleMs := 32, scrubMin := 60, masks := List.replicate 8 0, applied := false }

/-- The store before power-up training. -/
def Store.reset : Store :=
  { clamshell := false, state := .untrained, pinRate := 0, cfg := StoreCfg.reset, regions := [], mem := [], poison := [],
    ledger := [], scrambled := [], owed := [], refreshBase := 0, refreshed := [], rowCounts := [], throttles := [], idleSince := none, srSince := 0, srExiting := false,
    retraining := none, scrubNext := 0, scrubSince := 0, corrected := 0, uncorrectable := 0, edcRetries := 0,
    throttleCount := 0, forcedRefreshes := 0, srEntries := 0, srAborts := 0, retrains := 0, holeMerges := 0,
    displayZeroed := 0, srTicks := 0, lastUncorrectable := 0, spectraNext := 0, correctionsAt := [] }

/-- A ring that holds nothing. -/
def Ring.reset : Ring :=
  { extents := 0, frames := [], oldest := 0, newest := 0, holes := [], stoppedSpans := [], stoppedAt := none, version := 0,
    poisoned := [], geometry := (0, 0, 1) }

/-- A lane with clear counters. -/
def Lane.reset : Lane :=
  { codeErrors := 0, crcErrors := 0, syncLosses := 0, realigns := 0, arrival := 0, locked := false, cdr := false,
    windowErrors := 0, windowRaised := false }

/-- A stopped inlet without configuration pages. -/
def Inlet.reset : Inlet :=
  { page0 := none, page1 := none, page2 := none, state := .stopped, step := 0, stepSince := 0, startCmd := none, qualified := 0,
    edge := 0, periods := 0, release := 0, nextNum := 0, ring := Ring.reset, elastic := [], elasticFill := 0, elasticPeak := 0,
    urgent := false, lanes := Vector.replicate 32 Lane.reset, syncN := 0, firstTick := 0,
    samplesWritten := 0, hold := 0, spread := 0, latencyBound := false, sysrefPhase := false, clipSeen := false,
    urgentSeen := false, sysrefPulses := 0, phaseMarks := [], unlocked := false, holeCount := 0, holeTicks := 0, clipBlocks := 0,
    lastClipBlock := none, urgentDrains := 0, realignHole := none, faultCause := 3, stop := none }

/-- A sequencer that runs nothing. -/
def AddrGen.reset : AddrGen := { base := 0, limit := 0, cur := 0, strides := List.replicate 8 0, ring := false }
def Sequencer.reset : Sequencer :=
  { upc := 0, stack := [], ctr := Vector.replicate 4 0, ag0 := AddrGen.reset, ag1 := AddrGen.reset, bursts := 0, writes := 0,
    busy := false, fftDone := false, energyDone := false, compares := false, cells := [], events := 0, accepted := 0, faults := [],
    scratch := [], trace := [] }

/-- An idle tile. -/
def Tile.reset : Tile :=
  { state := .idle, fenceCause := 0, powered := false, shares := [], staged := none, running := none, batch := [], units := [],
    readIssued := 0, routine := 0, runStart := 0, nominal := 0, seq := Sequencer.reset, waitReason := 0, restarting := false,
    pendingCauses := [], batches := 0, restarts := Vector.replicate 6 0, faultTimes := [], lastFailIndex := none,
    lastFailAddr := none, scrubFails := [], csErrors := [], reread := [], csRepairs := 0 }

/-- The control store before a patch is loaded: patch RAM not yet filled. -/
def ControlStore.reset : ControlStore :=
  { patchRam := [], patchFill := 0, patchRev := 0, romId := 0, entries := [], loaded := false }

/-- A trigger unit that is OFF. -/
def UnitCfg.reset : UnitCfg :=
  { kind := 0, source := 0, minDur := 1, count := 1, binLo := 0, binHi := 0, lvlLo := 0, lvlHi := 0, window := 0, thr := 0,
    direction := 0, lower := 0, upper := 0, nMin := 1, mode := 0, component := 0, slope := 0, hyst := 0, minWidth := 0,
    delay := 0, anyDid := false, upperMask := [], lowerMask := [] }

def TrigUnit.reset : TrigUnit :=
  { cfg := UnitCfg.reset, condition := false, detached := false, runLen := 0, runTick := 0, runFrac := 0,
    steps := 0, occurrences := 0, progress := 0, fires := 0, lastFire := 0, late := 0, gapSteps := 0, worstLatency := 0,
    nextIndex := 0, heldSteps := [], recentHits := [], readyRise := false, readyFall := false, highRise := false,
    lowFall := false, recent := [], memory := [] }

/-- A disarmed AT without a definition. -/
def AcqTrigger.reset : AcqTrigger :=
  { matrix := none, def_ := none, armed := false, partial_ := false, armSeq := 0, armTick := 0, disarmTick := none,
    disarmAbort := false, fires := 0, lastTrig := 0, firstSteps := [], secondSteps := [], heldFrom := none, holdCount := 0,
    holdDone := none, rearmTick := 0, suppressed := 0, late := 0, dropped := 0, heldOffCount := 0, complete := 0, copyGaps := 0,
    lastAddr := 0, lastBytes := 0, lastNo := 0, outLate := 0, ineligible := 0, members := [], hops := 0, settle := 0,
    round := [], decided := none, lateGroupFires := 0, registerCmd := none, registerAt := 0, registering := none }

def Squall.reset : Squall :=
  { units := Vector.replicate 32 TrigUnit.reset, ats := Vector.replicate 16 AcqTrigger.reset, acqs := [], nextAcq := 0,
    acqHead := 0, pendingArms := [], pendingDisarms := [], pendingForces := [], pendingEdges := [], pulses := [], outEdges := [] }

def DensityMap.reset : DensityMap :=
  { cfg := none, detached := false, counts := [], youth := [], busyUntil := 0, lastBoundary := 0, completedAt := 0,
    skippedLast := false, interval := 0, number := 0, planeBase := 0, rawBase := 0, newest := none, sweep := none, writing := none,
    record := none, rawTurn := 0, spectra := 0, spectraInterval := 0, marks := 0, dropped := 0, skipped := 0, saturated := 0 }

/-- A layer set at the reset values of R282; ALPHA is reserved in L0 and L3. -/
def LayerSet.reset (l : Nat) : LayerSet :=
  { ctrl := if l = 1 ∨ l = 2 then 0xFF00 else 0, pos := 0, size := 0, pitch := 0, planes := [0, 0, 0, 0],
    bg := if l = 0 then 0x20080000 else 0 }

def Layer.reset (l : Nat) : Layer :=
  { set := LayerSet.reset l, latched := [0, 0, 0, 0], shareUnits := 0, fetching := false, fetched := 0, underrunNow := false,
    lost := false }

/-- The scan-out at the reset timing of R282. -/
def ScanOut.reset : ScanOut :=
  { running := false, link := .off, timing := [0x08980780, 0x802C07D8, 0x04650438, 0x8005043C, 0x08D9EE20, 0x9],
    frame := 0, frameAt := 0, blackRest := false, pixelPaused := false,
    layers := #v[Layer.reset 0, Layer.reset 1, Layer.reset 2, Layer.reset 3], blackFrames := 0, blank := false, hpd := false,
    hpdIrqs := 0, trainFails := 0, retryAt := 0, rate := 0, lanes := 0, sscActive := false, trained := false, crcBlank := 0, aux := none,
    auxWaiting := false }

def Stream.reset : Stream :=
  { state := .closed, dest := 0, reason := 0, rate := 0, noSnoop := false, ringBase := 0, ringSize := 1, statusAddr := 0,
    backlogLimit := 0, backlog := 0, notifyKib := 0, notifyUs := 0, notified := 0, firstUnannounced := none, queue := [],
    gaps := [], seqNext := 0, tail := 0, head := 0, delivered := 0, records := 0, dropped := 0, gapRecords := 0,
    badHeads := 0, closeCmd := none, pauseReasons := 0, iq := none, nvme := none,
    peerDid := 0, peerStream := 0, linkSeq := 0, acked := 0, unreachableSince := none, fromPeers := [],
    fromProducers := [], stagePart := false }

def DmaChan.reset : DmaChan := { state := .idle, descAddr := 0, descSpace := 0, desc := none, parts := [], writesSent := false }

def Draught.reset : Draught :=
  { chans := Vector.replicate 32 DmaChan.reset, running := none, lastChosen := Vector.replicate 4 0, active := 0 }

def Port.reset : Port :=
  { state := .down, width := 0, rate := 0, narrowed := false, upperHalf := false, longChannel := false, peerDid := 0, peerSerial := 0,
    peerAssigned := false, delay := 0, offset := 0, hostDown := false, retryAt := 0, retraining := false,
    retrainSince := 0, lastRetrain := none, txSeq := 0, rxSeq := 0, ackedSeq := 0, nakSent := false, replay := [],
    replaysHere := 0, ackProgress := 0, credits := Vector.replicate 4 0, waiting := [], lastBulk := 2, bulkRun := 0, bulkSent := (0, 0),
    owed := Vector.replicate 4 0, lastFlit := [],
    lastGood := 0, heartbeatSeen := 0, heartbeatSent := 0, delayReqSent := none, delayMeasured := 0, syncSent := 0,
    flitsTx := 0, flitsRx := 0, crcErrors := 0, replays := 0, retrains := 0, downs := 0, entries := [],
    out := [] }

/-- The link configuration defaults (R377). -/
def LinkCfg.reset : LinkCfg :=
  { portDisable := 0, maxRate := 7, noNarrow := false, heartbeatMs := 1, linkHoldMs := 100, healOfferUs := 10,
    asym := [0, 0, 0, 0], baseDid := 0 }

def Link.reset : Link :=
  { ports := Vector.replicate 4 Port.reset, cfg := LinkCfg.reset, assigned := false, did := 0, isRoot := false, rootDid := 0,
    rootSerial := 0, depth := 0, upstream := none, healNo := 0, enumTick := 0, enumNo := 0, enumerated := false, enumeration := none,
    known := [], heal := none, flows := [], requests := [], nextTag := 0, foreign := [], unreachable := [], discarded := 0,
    lostDids := [], toCancel := [], arriving := [], remoteReads := [] }

/-- The number of trims of each domain by its bit (R509). -/
def trimCounts : List Nat := [12, 40, 24, 768, 192, 512, 128, 24]

def Calibration.reset : Calibration :=
  { next := 0, word := 0, endTick := 0, complete := false, committed := 0, trims := trimCounts.map fun n => List.replicate n 0,
    record := none, recordSeq := 0, recordValid := 0, recordTj := 0, otp := trimCounts.map fun n => List.replicate n 0,
    otpLow := trimCounts.map fun n => List.replicate n 0, otpHigh := trimCounts.map fun n => List.replicate n 255,
    otpLimit := trimCounts.map fun n => List.replicate n 255, agreeTol := 2, causes := [], tj := 0 }

def BrzSlot.reset : BrzSlot :=
  { m := 0, line := [], last4 := [], settleCount := 0, primed := false, settled := false, alarm := false }

/-- Both converters report CAL until MON commits (R516, R530). -/
def BrzConv.reset : BrzConv :=
  { state := .cal, roundTick := 0, len := 0, pos := 0, restartPending := false, slots := Vector.replicate 32 BrzSlot.reset,
    rounds := 0 }

def Breeze.reset : Breeze :=
  { convs := Vector.replicate 2 BrzConv.reset, rotation := 0, temps := Vector.replicate 16 0, 
    rails := #v[800, 850, 1350, 850, 900, 1200, 900, 900, 1200, 900, 1800, 3300],
    wear := Vector.replicate 8 0, reference := 0, pathTests := 0, pathNotPassed := 0 }

def Fuses.reset : Fuses :=
  { gradeE := false, stepping := 0, serial := 0, production := false, retired := false, rollback := 0, relock := 0,
    keyRevoked := [false, false, false, false], lifeKeyRevoked := [false, false, false, false], vNom := 800, romId := 0 }

/-- The boot ROM runs; no fuse is blown and the flash is erased. -/
def Boot.reset : Boot :=
  { phase := .rom, slotB := false, fellBack := none, sectionsOk := false, fwVersion := 0, fwRollback := 0, ifMajor := 1,
    ifMinor := 0, keyId := 0, lifecycle := .development, tokenInvalid := false, patchFailStep := none, fuses := Fuses.reset,
    flash := [], session := none, measurements := [], quoteCount := 0, subsystem := (0x1D7A, 0),
    straps := ⟨false, false, false⟩, regulator := ⟨0x60, 0, 880, 0⟩, regulatorSilent := false }

/-- The monitor starts at 115,200 baud (R549). -/
def Fynal.reset : Fynal := { out := [], baud := 115200, newBaud := none, restartAt := none, lastPoke := 0 }

/-- Test-Logic-Reset selects IDCODE (R553). -/
def Jtag.reset : Jtag := { instruction := 2, pinsTaken := false }

def Life.reset : Life :=
  { seq := 0, flags := 0, poweredS := 0, equivMs := 0, bandS := Vector.replicate 10 0, tjLast := 0, tjPeak := 0, outS := 0,
    wearPpm := Vector.replicate 8 0, wearWorst := Vector.replicate 8 0, starts := Vector.replicate 6 0, fences := 0, poisoned := 0,
    bypasses := 0, calFails := 0, slotSwitches := 0, slot := 0, lastSample := 0, lastWrite := 0, lastDaily := 0,
    countsChanged := false }

def Firmware.reset : Firmware :=
  { runs := false, lastService := 0, lastBeat := 0, expiredAt := none, cfgMismatches := 0, crcCommitTick := 0, lastSweep := 0,
    thermtrip := false, tjEval := 0, lastEval := 0 }

/-- The block right after reset. -/
def State.reset : State :=
  { pending := [], free := 0, clk := Clock.reset, pwr := Power.reset, mbx := Mailbox.reset, evt := Events.reset,
    pcie := Pcie.reset, regs := [], host := [], store := Store.reset, inlets := Vector.replicate 4 Inlet.reset, tasks := [],
    nextTask := 1, xcorrs := [], tiles := Vector.replicate 20 Tile.reset, cs := ControlStore.reset, squall := Squall.reset,
    eddy := { maps := Vector.replicate 8 DensityMap.reset, clears := [] }, scn := ScanOut.reset,
    tw := Vector.replicate 16 Stream.reset, drt := Draught.reset, link := Link.reset, cal := Calibration.reset,
    brz := Breeze.reset, boot := Boot.reset, fynal := Fynal.reset, jtag := Jtag.reset, life := Life.reset, fw := Firmware.reset }

end Sys2Proof.Machine
end

