-- ==== Sys2Proof/Machine/Ops.lean ====
section
/-! DEFINITION. The shared operations on bytes and sparse maps: little-endian fields, CRC-32C, sparse memories in
canonical form, arithmetic with saturation and rounding. Everything else of the model is built on these. -/

namespace Sys2Proof.Machine

/-! ## Sparse maps in canonical form -/

/-- The value a sparse map holds at a key: its entry, or the default. -/
def spGet {V : Type} (d : V) : List (Nat × V) → Nat → V
  | [], _ => d
  | (k, v) :: m, key => if key = k then v else spGet d m key

/-- Write a sparse map, keeping keys strictly rising and no entry equal to the default. -/
def spPut {V : Type} [DecidableEq V] (d : V) : List (Nat × V) → Nat → V → List (Nat × V)
  | [], key, x => if x = d then [] else [(key, x)]
  | (k, v) :: m, key, x =>
    if key < k then (if x = d then (k, v) :: m else (key, x) :: (k, v) :: m)
    else if key = k then (if x = d then m else (key, x) :: m)
    else (k, v) :: spPut d m key x

/-- The canonical form: keys strictly rising above a bound, no entry equal to the default. -/
def spWfFrom {V : Type} [DecidableEq V] (d : V) : Option Nat → List (Nat × V) → Bool
  | _, [] => true
  | lo, (k, v) :: m => (match lo with | none => true | some l => decide (l < k)) && decide (v ≠ d) && spWfFrom d (some k) m

/-- The canonical form of a sparse map. -/
def spWf {V : Type} [DecidableEq V] (d : V) (m : List (Nat × V)) : Bool := spWfFrom d none m

/-- What an unlisted byte of host memory or of the store reads as (DESIGN CHOICE, log 3). -/
def memDefault : Byte := 0
/-- What an unlisted byte of flash reads as: erased (PRESUMED, log 4). -/
def flashDefault : Byte := 0xFF

/-- Read one byte of a sparse memory. -/
def Memory.byte (m : Memory) (a : Nat) : Byte := spGet memDefault m a
/-- Write one byte of a sparse memory. -/
def Memory.setByte (m : Memory) (a : Nat) (b : Byte) : Memory := spPut memDefault m a b
/-- The canonical form of host memory and of the store (strictly rising addresses, nothing equal to the default). -/
def Memory.wf (m : Memory) : Bool := spWf memDefault m

/-- Read n bytes from address a. -/
def Memory.read (m : Memory) (a : Nat) : Nat → Data
  | 0 => []
  | n + 1 => m.byte a :: Memory.read m (a + 1) n

/-- Write a string of bytes from address a. -/
def Memory.write (m : Memory) (a : Nat) : Data → Memory
  | [] => m
  | b :: bs => Memory.write (m.setByte a b) (a + 1) bs

/-- Read and write flash, whose erased bytes read 0xFF. -/
def flashByte (m : Memory) (a : Nat) : Byte := spGet flashDefault m a
def flashWrite (m : Memory) (a : Nat) : Data → Memory
  | [] => m
  | b :: bs => flashWrite (spPut flashDefault m a b) (a + 1) bs
def flashRead (m : Memory) (a : Nat) : Nat → Data
  | 0 => []
  | n + 1 => flashByte m a :: flashRead m (a + 1) n

/-- Read and write a sparse counter map. -/
def Counts.at_ (m : Counts) (k : Nat) : Nat := spGet 0 m k
def Counts.put (m : Counts) (k v : Nat) : Counts := spPut 0 m k v

/-! ## Fields of bytes (R6) -/

/-- The n little-endian bytes of a number. -/
def le : Nat → Nat → Data
  | 0, _ => []
  | n + 1, x => BitVec.ofNat 8 x :: le n (x / 256)

/-- The number a little-endian byte string spells. -/
def unle : Data → Nat
  | [] => 0
  | b :: bs => b.toNat + 256 * unle bs

/-- Fields of an entry or descriptor: bytes that are not there read as 0. -/
def u8At (d : Data) (o : Nat) : Nat := ((d.drop o).headD 0).toNat
def u16At (d : Data) (o : Nat) : Nat := unle ((d.drop o).take 2)
def u32At (d : Data) (o : Nat) : Nat := unle ((d.drop o).take 4)
def u64At (d : Data) (o : Nat) : Nat := unle ((d.drop o).take 8)

/-- The signed number an n-bit two's complement code stands for. -/
def signed (n x : Nat) : Int := if x % 2 ^ n < 2 ^ (n - 1) then (x % 2 ^ n : Nat) else ((x % 2 ^ n : Nat) : Int) - (2 ^ n : Nat)
/-- The n-bit two's complement code of a signed number. -/
def codeOf (n : Nat) (x : Int) : Nat := (x % ((2 ^ n : Nat) : Int)).toNat

/-- Signed fields. -/
def i16At (d : Data) (o : Nat) : Int := signed 16 (u16At d o)
def i32At (d : Data) (o : Nat) : Int := signed 32 (u32At d o)

/-- A block of n bytes, all zero. -/
def zeros (n : Nat) : Data := List.replicate n 0
/-- Overwrite the bytes of a block from offset o. -/
def putAt (d : Data) (o : Nat) (x : Data) : Data := d.take o ++ x ++ d.drop (o + x.length)
/-- A block of n bytes with the listed (offset, bytes) fields and zeros elsewhere. -/
def block (n : Nat) (fields : List (Nat × Data)) : Data := fields.foldl (fun d f => putAt d f.1 f.2) (zeros n)

/-- One bit of a number. -/
def bit (x n : Nat) : Bool := x.testBit n
/-- Bits hi..lo of a number. -/
def bits (x hi lo : Nat) : Nat := x / 2 ^ lo % 2 ^ (hi + 1 - lo)
/-- 1 for true. -/
def b2n (b : Bool) : Nat := if b then 1 else 0
/-- The number of set bits among the lowest n. -/
def popCount (x : Nat) : Nat → Nat
  | 0 => 0
  | n + 1 => popCount x n + b2n (x.testBit n)
/-- The positions of the set bits among the lowest n. -/
def setBits (x n : Nat) : List Nat := (List.range n).filter (x.testBit ·)
/-- A number with exactly the listed bits. -/
def ofBits (l : List Nat) : Nat := l.foldl (fun a b => a ||| 2 ^ b) 0

/-! ## CRC-32C (R466) -/

/-- One bit of the reflected CRC-32C register (polynomial 0x1EDC_6F41, reflected 0x82F6_3B78). -/
def crcBit (c : U32) : U32 := if c.getLsbD 0 then (c >>> 1) ^^^ 0x82F63B78#32 else c >>> 1
/-- Fold one byte into the register. -/
def crcByte (c : U32) (b : Byte) : U32 :=
  crcBit (crcBit (crcBit (crcBit (crcBit (crcBit (crcBit (crcBit (c ^^^ b.zeroExtend 32))))))))
/-- CRC-32C of a byte string: initial value all ones, final inversion. -/
def crc32c (d : Data) : U32 := ~~~ (d.foldl crcByte 0xFFFFFFFF#32)

/-! ## CRC-32 (R340) -/

/-- One bit of the reflected CRC-32 register (polynomial 0x04C1_1DB7, reflected 0xEDB8_8320; log 137). -/
def crc32Bit (c : U32) : U32 := if c.getLsbD 0 then (c >>> 1) ^^^ 0xEDB88320#32 else c >>> 1
/-- Fold one byte into the register. -/
def crc32Byte (c : U32) (b : Byte) : U32 :=
  crc32Bit (crc32Bit (crc32Bit (crc32Bit (crc32Bit (crc32Bit (crc32Bit (crc32Bit (c ^^^ b.zeroExtend 32))))))))
/-- CRC-32 of a byte string: initial value all ones, final inversion. -/
def crc32 (d : Data) : U32 := ~~~ (d.foldl crc32Byte 0xFFFFFFFF#32)

/-! ## Arithmetic -/

/-- a / b rounded up. -/
def ceilDiv (a b : Nat) : Nat := (a + b - 1) / b
/-- a / b rounded to nearest, ties to even. -/
def roundDiv (a : Int) (b : Nat) : Int :=
  let q := a.fdiv b
  let r := a - q * b
  if 2 * r < b then q else if 2 * r > b then q + 1 else if q % 2 = 0 then q else q + 1
/-- A count that holds at its largest value of n bits. -/
def satN (n x : Nat) : Nat := min x (2 ^ n - 1)
/-- A signed value clamped to n bits two's complement. -/
def satS (n : Nat) (x : Int) : Int := max (-(2 ^ (n - 1) : Nat)) (min x ((2 ^ (n - 1) : Nat) - 1))
/-- Keep 64 bits. -/
def mod64 (x : Nat) : Nat := x % 2 ^ 64
/-- A tick moved by a signed number of ticks, modulo 2^64. -/
def tickAdd (t : Nat) (d : Int) : Nat := codeOf 64 ((t : Int) + d)
/-- log2 rounded up, 0 for 0 and 1. -/
def log2up (x : Nat) : Nat := if x ≤ 1 then 0 else Nat.log2 (x - 1) + 1

/-! ## Vectors and lists -/

/-- Change entry i of a vector. -/
def vmod {α : Type} {n : Nat} (v : Vector α n) (i : Fin n) (f : α → α) : Vector α n := v.set i (f v[i])
/-- Change the entry a number names; none outside the vector. -/
def vmodN {α : Type} {n : Nat} (v : Vector α n) (i : Nat) (f : α → α) : Vector α n :=
  if h : i < n then v.set i (f v[i]) else v
/-- Change every entry of a list that a test picks. -/
def lmod {α : Type} (l : List α) (p : α → Bool) (f : α → α) : List α := l.map fun x => if p x then f x else x
/-- Insert into a list sorted by a key, after equal keys. -/
def insertBy {α : Type} (key : α → Nat) (x : α) : List α → List α
  | [] => [x]
  | y :: ys => if key x < key y then x :: y :: ys else y :: insertBy key x ys
/-- Sort by a key, keeping the order of equal keys. -/
def sortBy {α : Type} (key : α → Nat) : List α → List α
  | [] => []
  | x :: xs =>
    let rec put (x : α) : List α → List α
      | [] => [x]
      | y :: ys => if key x ≤ key y then x :: y :: ys else y :: put x ys
    put x (sortBy key xs)
/-- Fold a state change over the numbers below n. -/
def forN {σ : Type} (n : Nat) (f : Nat → σ → σ) (s : σ) : σ := (List.range n).foldl (fun s i => f i s) s
/-- Fold a state change over a list. -/
def forL {σ α : Type} (l : List α) (f : α → σ → σ) (s : σ) : σ := l.foldl (fun s x => f x s) s

/-! ## Time (R440, R489) -/

/-- Ticks in a microsecond and in a millisecond (R489). -/
def usTicks : Nat := 1280
def msTicks : Nat := 1280000
def secTicks : Nat := 1280000000

/-- Let n ticks pass on both the time base and the uptime. -/
def pass (n : Nat) (s : State) : State :=
  { s with clk := { s.clk with tick := mod64 (s.clk.tick + n), up := s.clk.up + n } }
/-- Let time pass up to an uptime that is due; nothing when it has come. -/
def waitUp (up : Nat) (s : State) : State := pass (up - s.clk.up) s
/-- Let time pass up to a tick that is due; nothing when it has come. -/
def waitTick (t : Nat) (s : State) : State := pass (t - s.clk.tick) s

/-- Whether the root PLL's outputs run from crystal bypass (R487). -/
def rootBypassed (s : State) : Bool := s.clk.synths[0].state = .bypass

/-- One CORE cycle of idling: one tick, or 32 ticks per crystal cycle while the root is in bypass on the crystal (R479, R489). -/
def idleTick (s : State) : State := pass (if rootBypassed s ∧ ¬ s.clk.crystalLost then 32 else 1) s

/-- The synthesizer of an inlet's LC-PLL (R480). -/
def setSynth (k : Nat) (f : Synth → Synth) (s : State) : State := { s with clk := { s.clk with synths := vmodN s.clk.synths k f } }

/-- The seed of a synthesizer's dither register (R483): that of the clock configuration block, or by default the CRC-32C of the
serial number and the index; 0 becomes 1. The pixel synthesizer, of the service class, has none. -/
def synthSeed (s : State) (k : Nat) : U32 :=
  if k = 2 then 0
  else
    let given := (s.clk.cfg.seeds.drop (if k < 2 then k else k - 1)).headD 0
    if given ≠ 0 then given
    else
      let d := crc32c (le 8 s.boot.fuses.serial.toNat ++ le 1 k)
      if d = 0 then 1 else d
/-- A synthesizer starts: its dither register is reloaded and it acquires lock (R483, R484). -/
def startSynth (k : Nat) (s : State) : State := setSynth k (fun y => { y with state := .acquiring, since := s.clk.up, lfsr := synthSeed s k }) s
/-- Ticks of one phase-detector cycle (R480): the root's by its reference, 160 MHz of every other. -/
def phaseTicks (s : State) (k : Nat) : Nat :=
  if k ≠ 0 then 8 else if s.clk.refInUse = 2 then 128 else if s.clk.refInUse = 4 then 64 else 32
/-- Consecutive cycles within the window that make a lock: N of codes 1 to 4 is 64, 256, 1,024 or 4,096; the memory synthesizer's is
at most 1,024 (R484). -/
def lockCycles (s : State) (k : Nat) : Nat :=
  let n := 64 * 4 ^ ((if k = 0 then s.clk.cfg.rootN else s.clk.cfg.synN) - 1)
  if k = 1 then min n 1024 else n
/-- A lock cannot be qualified before its cycles have passed (R484). -/
def waitLock (k : Fin 11) (s : State) : State := waitUp (s.clk.synths[k].since + lockCycles s k.val * phaseTicks s k.val) s

/-! ## Free values -/

/-- Take a fresh index for a value the manual leaves open. -/
def takeFree (s : State) : Nat × State := (s.free, { s with free := s.free + 1 })
/-- Take n free bytes. -/
def freeBytes (n : Nat) (s : State) : Data × State := ((List.range n).map fun i => Config.freeByte (s.free + i), { s with free := s.free + n })
/-- Of two strings, byte by byte whichever a free bit picks. -/
def mixBytes (old new : Data) (s : State) : Data × State :=
  (((List.range new.length).zip (old.zip new)).map fun p => if Config.freeBit (s.free + p.1) then p.2.2 else p.2.1, { s with free := s.free + new.length })

end Sys2Proof.Machine
end

