-- ==== Sys2Proof/Machine/Windows.lean ====
section
/-! DEFINITION. Windows and filter-bank prototypes (R120 to R122), computed in fixed point with 192 fraction bits in
place of binary64 and rounded once to Q1.17 (log 20). -/

namespace Sys2Proof.Machine

/-- One in fixed point, and the constants pi, ln 10 and ln 2. -/
def fxOne : Nat := 2 ^ 192
def fxPi : Int := 19720096697726538562396133364228268891463450865190089732560
def fxLn10 : Int := 14453560883108425870374435737727394665043423914827363902522
def fxLn2 : Int := 4350955369971217654477563090224794165364344896676135745070
/-- Product of fixed-point numbers. -/
def fxMul (a b : Int) : Int := a * b / fxOne

/-- A series of terms: each is the one before times x over a divisor that grows with its place, with a sign. -/
def fxSeries (x : Int) (sign : Int) (div : Nat → Nat) : Nat → Nat → Int → Int → Int
  | 0, _, _, acc => acc
  | fuel + 1, k, term, acc =>
    let t := sign * (fxMul term x / div k)
    fxSeries x sign div fuel (k + 1) t (acc + t)

/-- cos x, sin x ÷ x, e^x and the modified Bessel function I0 of a number given by its square over four. -/
def fxCos (x : Int) : Int := fxSeries (fxMul x x) (-1) (fun k => (2 * k + 1) * (2 * k + 2)) 120 0 fxOne fxOne
def fxSinc (x : Int) : Int := fxSeries (fxMul x x) (-1) (fun k => (2 * k + 2) * (2 * k + 3)) 120 0 fxOne fxOne
def fxExp (x : Int) : Int := fxSeries x 1 (fun k => k + 1) 200 0 fxOne fxOne
def fxI0 (q : Int) : Int := fxSeries q 1 (fun k => (k + 1) * (k + 1)) 240 0 fxOne fxOne
/-- ln(1 - u) for a small u: -(u + u^2/2 + u^3/3 + ...). -/
def fxLn1m (u : Int) : Int := -((List.range 40).foldl (fun (a : Int × Int) k => (fxMul a.1 u, a.2 + a.1 / (k + 1 : Nat))) (u, 0)).2
/-- The square root of a fixed-point number. -/
def fxSqrt (x : Int) : Int := Nat.sqrt (x.toNat * fxOne)

/-- cos and sin of 2 pi a / b. -/
def cosTurn (a : Int) (b : Nat) : Int := let r := a % b; fxCos (2 * fxPi * r / b)
def sinTurn (a : Int) (b : Nat) : Int := cosTurn (4 * a - b) (4 * b)

/-- A cosine-sum window: coefficients in 10^-9. -/
def cosineSum (c : List Int) (n w : Nat) : Int :=
  ((List.range c.length).zip c).foldl (fun a x => a + x.2 * cosTurn ((x.1 * n : Nat) : Int) w) 0 / 1000000000

/-- Chebyshev polynomials T_n(x) and T_{n+1}(x), by the bits of n from the top. -/
def chebyshevPair (x : Int) (n : Nat) : Nat → Int × Int
  | 0 => (fxOne, x)
  | b + 1 =>
    let p := chebyshevPair x (n / 2) b
    let t2 := 2 * fxMul p.1 p.1 - fxOne
    let t21 := 2 * fxMul p.1 p.2 - x
    let t22 := 2 * fxMul p.2 p.2 - fxOne
    if n % 2 = 0 then (t2, t21) else (t21, t22)
def chebyshev (n : Nat) (x : Int) : Int := (chebyshevPair x n 20).1

/-- beta = cosh(acosh(10^(level/20)) / W) of a Dolph-Chebyshev window; the level is in dB x 256. -/
def dolphBeta (param w : Nat) : Int :=
  let lnA := (param : Int) * fxLn10 / 5120
  let inv2 := fxExp (-2 * lnA)
  let u := (fxOne - fxSqrt (fxOne - inv2)) / 2
  let theta := (lnA + fxLn2 + fxLn1m u) / (w : Int)
  (fxExp theta + fxExp (-theta)) / 2

/-- One window value in fixed point, before scaling to a peak of 1 (R120). -/
def windowFx (code param w n : Nat) (cheb : List Int) : Int :=
  if code = 1 then cosineSum [500000000, -500000000] n w
  else if code = 2 then cosineSum [358750000, -488290000, 141280000, -11680000] n w
  else if code = 3 then cosineSum [215578950, -416631580, 277263158, -83578947, 6947368] n w
  else if code = 4 then
    fxI0 ((param : Int) * param * (((w * w : Nat) : Int) - (2 * (n : Int) - w) * (2 * (n : Int) - w)) * fxOne / (262144 * w * w : Nat))
  else if code = 5 then
    ((List.range cheb.length).zip cheb).foldl (fun a x => a + fxMul x.2 (cosTurn (x.1 * ((n : Int) - (w / 2 : Nat))) (w + 1))) 0
  else fxOne

/-- The window values in fixed point, before scaling: with a taps count, times the prototype's sinc (R122). -/
def windowValues (code param nIn taps : Nat) : List Int :=
  let w := nIn * taps
  let cheb := if code = 5 then
      let b := dolphBeta param w
      (List.range (w + 1)).map fun k => chebyshev w (fxMul b (fxCos (fxPi * k / (w + 1 : Nat))))
    else []
  (List.range w).map fun n =>
    let v := windowFx code param w n cheb
    if taps ≤ 1 then v else fxMul v (fxSinc (fxPi * (2 * (n : Int) - w) / (2 * nIn : Nat)))

/-- The coefficients: scaled to a peak of 1 and rounded to Q1.17 (R121, R122). -/
def windowTable (code param nIn taps : Nat) : List Int :=
  let v := windowValues code param nIn taps
  let peak := (v.map Int.natAbs).foldl max 0
  v.map fun x => roundDiv (x * 131071) (max peak 1)

/-- A user table as written: one entry per coefficient, or the first half of a symmetric window (R121). -/
def userTable (table : List Int) (w : Nat) : List Int := if table.length = w then table else table ++ table.reverse

/-- The coefficients of a task's transform (R120 to R122), and of its fine stage (R141). -/
def TaskDesc.coefs (d : TaskDesc) : List Int :=
  if d.window = 6 then userTable d.table (d.taps * 2 ^ d.nLog2) else windowTable d.window d.winParam (2 ^ d.nLog2) d.taps
def TaskDesc.fineCoefs (d : TaskDesc) : List Int := windowTable d.fWindow d.fWinParam (2 ^ d.fLog2) 1

end Sys2Proof.Machine
end

