-- ==== Sys2Proof/Machine/Dsp.lean ====
section
/-! DEFINITION. The arithmetic of the tiles (R123 to R136): the windowed input, bin powers and values, the exact
accumulation, detectors, formats, log levels and spectral kurtosis. What the last places of the transform's arithmetic hold is
free (Config.transformNoise). -/

namespace Sys2Proof.Machine

/-! ## binary32 -/

/-- The number of binary digits before the point of num / den, less one (its exponent). -/
def exponentOf (num den : Nat) : Int :=
  let e : Int := (Nat.log2 num : Int) - Nat.log2 den
  -- 2^e is within a factor of two of num / den
  if 0 ≤ e then (if num < 2 ^ e.toNat * den then e - 1 else e) else (if num * 2 ^ (-e).toNat < den then e - 1 else e)

/-- num / den rounded once to binary32, ties to even. -/
def round32 (num den : Nat) : U32 :=
  if num = 0 then 0
  else
    let e := max (exponentOf num den) (-126)
    let sh : Int := 23 - e
    let m := if 0 ≤ sh then roundDiv (num * 2 ^ sh.toNat : Nat) den else roundDiv num (den * 2 ^ (-sh).toNat)
    BitVec.ofNat 32 (min ((e + 126).toNat * 2 ^ 23 + m.toNat) 0x7F800000)
/-- A signed fraction rounded once to binary32. -/
def roundS32 (num : Int) (den : Nat) : U32 := if num < 0 then round32 num.natAbs den ||| 0x80000000#32 else round32 num.natAbs den
/-- The square root of num / den rounded once to binary32. -/
def sqrt32 (num den : Nat) : U32 :=
  let x := num * 4 ^ 200
  let r := Nat.sqrt (x / den)
  round32 (2 * r + b2n (decide (r * r * den ≠ x))) (2 ^ 201)

/-- A binary64 number m x 2^e, as its arithmetic makes it (R126, R134). -/
structure D64 where
  m : Int
  e : Int
deriving DecidableEq, Repr
/-- num / den rounded to binary64, ties to even; subnormals and overflow lie outside what the engine computes. -/
def D64.ofFrac (num : Int) (den : Nat) : D64 :=
  if num = 0 then ⟨0, 0⟩
  else
    let sh : Int := 52 - exponentOf num.natAbs den
    ⟨if 0 ≤ sh then roundDiv (num * 2 ^ sh.toNat) den else roundDiv num (den * 2 ^ (-sh).toNat), -sh⟩
/-- The exact value as a fraction. -/
def D64.num (x : D64) : Int := x.m * 2 ^ x.e.toNat
def D64.den (x : D64) : Nat := 2 ^ (-x.e).toNat
/-- Product, quotient, sum and difference, each rounded once. -/
def D64.mul (x y : D64) : D64 := D64.ofFrac (x.num * y.num) (x.den * y.den)
def D64.div (x y : D64) : D64 :=
  if y.m = 0 then ⟨0, 0⟩
  else D64.ofFrac (x.num * y.den * (if y.m < 0 then -1 else 1)) (x.den * y.num.natAbs)
def D64.add (x y : D64) : D64 := D64.ofFrac (x.num * y.den + y.num * x.den) (x.den * y.den)
def D64.sub (x y : D64) : D64 := D64.ofFrac (x.num * y.den - y.num * x.den) (x.den * y.den)

/-- A non-negative binary32 number as mantissa and exponent of two. -/
def mant32 (p : U32) : Nat × Int :=
  let e : Nat := p.toNat / 2 ^ 23 % 256
  let f : Nat := p.toNat % 2 ^ 23
  if e = 0 then (f, -149) else (f + 2 ^ 23, (e : Int) - 150)
/-- q = round(P x 2^64), saturated below 2^66 (R126). -/
def quantise (p : U32) : Nat :=
  let m := mant32 p
  let e := m.2 + 64
  min (if 0 ≤ e then m.1 * 2 ^ e.toNat else (roundDiv m.1 (2 ^ (-e).toNat)).toNat) (2 ^ 66 - 1)

/-- Half steps of the log format in a decade. -/
def halfSteps : Nat := 5120
/-- P ≥ 10^(k / 5120), compared exactly. -/
def atLeastLevel (p : U32) (k : Int) : Bool :=
  let m := mant32 p
  let a := m.1 ^ halfSteps * (if 0 ≤ m.2 then 2 ^ (m.2.toNat * halfSteps) else 1) * (if k < 0 then 10 ^ (-k).toNat else 1)
  let b := (if 0 ≤ m.2 then 1 else 2 ^ ((-m.2).toNat * halfSteps)) * (if k < 0 then 1 else 10 ^ k.toNat)
  decide (b ≤ a)
/-- The largest L of [lo, hi] with P at or above the rounding boundary below it, lo if none. -/
def levelSearch (p : U32) : Nat → Int → Int → Int
  | 0, lo, _ => lo
  | n + 1, lo, hi =>
    let mid := (lo + hi + 1) / 2
    if atLeastLevel p (2 * mid - 1) then levelSearch p n mid hi else levelSearch p n lo (mid - 1)
/-- round(2,560 x log10 P) as format 1 writes it, and whether it saturated (R131). -/
def logLevel (p : U32) : Int × Bool :=
  if p = 0 then (-32768, false)
  else
    let l := levelSearch p 17 (-32769) 32768
    (satS 16 l, decide (l < -32768 ∨ 32767 < l))

/-! ## From samples to bins (R122 to R126) -/

/-- Multiply samples by coefficients and add the rows of n (R122), rounded to Q3.21 with saturation (R123). The samples are
on the 16-bit scale. -/
def windowed (coefs : List Int) (n : Nat) (x : List (Int × Int)) : List (Int × Int) × Bool :=
  let prod := List.zipWith (fun (c : Int) (v : Int × Int) => (c * v.1, c * v.2)) coefs x
  let rows := (List.range (ceilDiv prod.length (max n 1))).map fun t => (prod.drop (t * n)).take n
  let sum : List (Int × Int) := match rows with
    | [] => []
    | r :: rs => rs.foldl (List.zipWith fun (a b : Int × Int) => (a.1 + b.1, a.2 + b.2)) r
  let exact := sum.map fun v => (roundDiv v.1 2048, roundDiv v.2 2048)
  let y := exact.map fun v => (satS 24 v.1, satS 24 v.2)
  (y, decide (y ≠ exact))

/-- A complex bin value as an exact fraction. -/
structure BinVal where
  re : Int
  im : Int
  den : Nat
deriving DecidableEq, Repr

/-! ### The FFT (R124, R125)

Radix-4 stages by decimation in frequency, one final radix-2 stage where log2 N_c is odd, then the split stage of a real input.
The place of the rotations and of the roundings is the model's choice (log 111); what it may change of the last places is free. -/

/-- A rotated complex number: times a 20-bit twiddle e^(-j 2 pi a / n), rounded to the data width with saturation. -/
def twiddle (a n : Nat) (v : Int × Int) : Int × Int :=
  let q := fun (x : Int) => min 524287 (roundDiv (x * 524288) fxOne)
  let c := q (cosTurn a n)
  let d := q (sinTurn a n)
  (satS 24 (roundDiv (v.1 * c + v.2 * d) 524288), satS 24 (roundDiv (v.2 * c - v.1 * d) 524288))
def cadd (a b : Int × Int) : Int × Int := (a.1 + b.1, a.2 + b.2)
def csub (a b : Int × Int) : Int × Int := (a.1 - b.1, a.2 - b.2)
/-- -j times a number. -/
def cmj (a : Int × Int) : Int × Int := (a.2, -a.1)

/-- A part of a frame under transformation: its data come out as bins first, first + step, … -/
structure FftPart where
  first : Nat
  step : Nat
  data : List (Int × Int)
deriving DecidableEq, Repr

/-- The largest component of a frame. -/
def largest (l : List (Int × Int)) : Nat := l.foldl (fun m v => max m (max v.1.natAbs v.2.natAbs)) 0
/-- The least shift of 0, 1 or 2 bits after which a stage that adds so many terms cannot overflow (R124). -/
def leastShift (terms m : Nat) : Nat :=
  if terms * m < 2 ^ 23 then 0 else if terms * (m / 2) < 2 ^ 23 then 1 else 2
def shiftBy (n : Nat) (v : Int × Int) : Int × Int := (roundDiv v.1 (2 ^ n), roundDiv v.2 (2 ^ n))

/-- One radix-4 butterfly stage of a part. -/
def radix4 (p : FftPart) : List FftPart :=
  let n := p.data.length
  let q := n / 4
  let rows := (List.range q).map fun i =>
    let at_ := fun (k : Nat) => (p.data.drop (i + k * q)).headD (0, 0)
    let s02 := cadd (at_ 0) (at_ 2)
    let d02 := csub (at_ 0) (at_ 2)
    let s13 := cadd (at_ 1) (at_ 3)
    let d13 := cmj (csub (at_ 1) (at_ 3))
    [cadd s02 s13, twiddle i n (cadd d02 d13), twiddle (2 * i) n (csub s02 s13), twiddle (3 * i) n (csub d02 d13)]
  (List.range 4).map fun k =>
    ⟨p.first + k * p.step, p.step * 4, rows.map fun r => let v := (r.drop k).headD (0, 0); (satS 24 v.1, satS 24 v.2)⟩
/-- The final radix-2 stage. -/
def radix2 (p : FftPart) : List FftPart :=
  let a := p.data.headD (0, 0)
  let b := (p.data.drop 1).headD (0, 0)
  [⟨p.first, p.step * 2, [cadd a b]⟩, ⟨p.first + p.step, p.step * 2, [csub a b]⟩]
/-- One stage of the whole frame: the shift first, which joins the block exponent, then the butterflies (R124). -/
def fftStage (terms : Nat) (f : FftPart → List FftPart) (x : List FftPart × Nat) : List FftPart × Nat :=
  let sh := leastShift terms (largest (x.1.flatMap (·.data)))
  ((x.1.map fun p => { p with data := p.data.map (shiftBy sh) }).flatMap f, x.2 + sh)
/-- The stages of a frame of 2^log2 points. -/
def fftStages (log2 : Nat) (x : List (Int × Int)) : List FftPart × Nat :=
  let r := (List.range (log2 / 2)).foldl (fun a _ => fftStage 4 radix4 a) ([⟨0, 1, x⟩], 0)
  if log2 % 2 = 1 then fftStage 2 radix2 r else r
/-- The bins in natural order, and the block exponent. -/
def fft (log2 : Nat) (x : List (Int × Int)) : List (Int × Int) × Nat :=
  let r := fftStages log2 x
  ((sortBy FftPart.first r.1).flatMap (·.data), r.2)
/-- z[n] = y[2n] + j y[2n + 1] of a real input (R125). -/
def packReal (y : List (Int × Int)) : List (Int × Int) :=
  (List.range (y.length / 2)).map fun n => (((y.drop (2 * n)).headD (0, 0)).1, ((y.drop (2 * n + 1)).headD (0, 0)).1)
/-- The split stage: X_k of a real input from Z (R125). -/
def splitStage (x : List (Int × Int) × Nat) : List (Int × Int) × Nat :=
  let n := x.1.length
  let sh := leastShift 4 (largest x.1)
  let z := x.1.map (shiftBy sh)
  ((List.range n).map fun k =>
    let a := (z.drop k).headD (0, 0)
    let b := (z.drop ((n - k) % n)).headD (0, 0)
    let c : Int × Int := (b.1, -b.2)
    let even := cadd a c
    let odd := cmj (twiddle k (2 * n) (csub a c))
    (satS 24 (roundDiv (even.1 + odd.1) 2), satS 24 (roundDiv (even.2 + odd.2) 2)), x.2 + sh)
/-- The transform of windowed values, Q3.21: mantissas of the bins and the block exponent (R124, R125). -/
def transform (y : List (Int × Int)) (real : Bool) (log2 : Nat) : List (Int × Int) × Nat :=
  if real then splitStage (fft (log2 - 1) (packReal y)) else fft log2 y

/-- The most that the open details of the arithmetic can move a mantissa: the rounding noise lies 12 dB below the quantisation
noise of the 16-bit history format in every bin (R124; log 111). -/
def noiseLimit : Int := 8
/-- A mantissa with its free last places. -/
def withNoise (y : List (Int × Int)) (k : Nat) (v : Int × Int) : Int × Int :=
  let r := Config.transformNoise y k
  let cut := fun (x : Int) => max (-noiseLimit) (min noiseLimit x)
  (satS 24 (v.1 + cut r.1), satS 24 (v.2 + cut r.2))

/-- C_k from the mantissas and the block exponent for delivered bin j (R125, R126); s1 is the sum of the coefficients. -/
def binValue (y : List (Int × Int)) (x : List (Int × Int) × Nat) (complex : Bool) (s1 : Int) (n j : Nat) : BinVal :=
  let k := if complex then (j + n - n / 2) % n else j
  let v := withNoise y k ((x.1.drop k).headD (0, 0))
  let f : Int := if complex ∨ j = 0 then 1 else 2
  let up : Int := 2 ^ x.2 * 131072 * (if s1 < 0 then -f else f)
  ⟨v.1 * up, v.2 * up, max 1 (s1.natAbs * 2 ^ 21)⟩
/-- P = |C|^2 in binary64, rounded once to binary32 (R126). -/
def binPower (c : BinVal) : U32 :=
  let p := D64.ofFrac (c.re * c.re + c.im * c.im) (c.den * c.den)
  round32 p.num.toNat p.den
/-- C in format 2: two i16, and whether one saturated (R131). -/
def complexInteger (c : BinVal) (shift : Nat) : (Int × Int) × Bool :=
  let re := roundDiv (c.re * 2 ^ (15 + shift)) c.den
  let im := roundDiv (c.im * 2 ^ (15 + shift)) c.den
  ((satS 16 re, satS 16 im), decide (satS 16 re ≠ re ∨ satS 16 im ≠ im))
/-- C in format 3. -/
def complexFloat (c : BinVal) : U32 × U32 := (roundS32 c.re c.den, roundS32 c.im c.den)

/-- The number of delivered bins (R125, R141, R142). -/
def binsOf (complex : Bool) (nLog2 : Nat) : Nat := if complex then 2 ^ nLog2 else 2 ^ nLog2 / 2
/-- A transform of one frame: its bin values and whether the window saturated. -/
def transformBins (coefs : List Int) (complex : Bool) (nLog2 : Nat) (x : List (Int × Int)) : List BinVal × Bool :=
  let y := windowed coefs (2 ^ nLog2) x
  let t := transform y.1 (!complex) nLog2
  ((List.range (binsOf complex nLog2)).map fun j => binValue y.1 t complex coefs.sum (2 ^ nLog2) j, y.2)

/-- e^(-j 2 pi f tau) times a bin, times 2^gain, rounded to two i8 with saturation (R146). The bin frequency is f cycles per
n samples and the delay is tau / 65,536 samples. -/
def requantise (c : BinVal) (f : Int) (n : Nat) (tau gain : Int) : (Int × Int) × Bool :=
  let cs := cosTurn (f * tau) (n * 65536)
  let sn := sinTurn (f * tau) (n * 65536)
  let num : Int := 2 ^ gain.toNat * 1
  let den := c.den * 2 ^ (-gain).toNat * fxOne
  let re := roundDiv ((c.re * cs + c.im * sn) * num) den
  let im := roundDiv ((c.im * cs - c.re * sn) * num) den
  ((satS 8 re, satS 8 im), decide (satS 8 re ≠ re ∨ satS 8 im ≠ im))

/-! ## Detectors (R127 to R129) -/

/-- Bins per output point, the span and the output points of a task. -/
def TaskDesc.b (d : TaskDesc) : Nat := 2 ^ d.bLog2
def TaskDesc.complexFormat (d : TaskDesc) : Bool := 2 ≤ d.format
/-- The point of an accumulated cell before any spectrum. -/
def PointAcc.zero : PointAcc := { maxP := 0, minP := 0x7F800000, sample := 0, sumQ := 0, count := 0, re := 0, im := 0 }
/-- Add one spectrum's bins of a point: the extremes, the sampled bin, and the sum of q unless blanking adds it by block. -/
def PointAcc.add (blank : Bool) (a : PointAcc) (bins : List U32) (c : U32 × U32) : PointAcc :=
  { maxP := bins.foldl (fun m p => if m.toNat < p.toNat then p else m) a.maxP,
    minP := bins.foldl (fun m p => if p.toNat < m.toNat then p else m) a.minP,
    sample := (bins.drop (bins.length / 2)).headD 0,
    sumQ := if blank then a.sumQ else a.sumQ + (bins.map quantise).sum,
    count := if blank then a.count else a.count + 1, re := c.1, im := c.2 }
/-- Add a spectrum to every point of a cell. -/
def addSpectrum (d : TaskDesc) (points : Nat) (cell : List PointAcc) (power : List U32) (bins : List (U32 × U32)) : List PointAcc :=
  (List.range points).map fun i =>
    ((cell.drop i).headD PointAcc.zero).add d.skBlank ((power.drop (i * d.b)).take d.b) ((bins.drop i).headD (0, 0))

/-- The quiet NaN of R129. -/
def nan32 : U32 := 0x7FC00000
/-- The detector's value of a point as binary32; none where every SK block of the cell is flagged (R128, R129). -/
def detectorValue (d : TaskDesc) (a : PointAcc) (hold : Option U32) : Option U32 :=
  if d.detector = 0 then some a.maxP
  else if d.detector = 1 then some a.minP
  else if d.detector = 2 then some a.sample
  else if d.detector = 5 then some (match hold with | some h => if h.toNat < a.maxP.toNat then a.maxP else h | none => a.maxP)
  else if d.detector = 6 then some (match hold with | some h => if a.minP.toNat < h.toNat then a.minP else h | none => a.minP)
  else if a.count = 0 then none
  else if d.detector = 4 ∧ d.format = 0 then some (sqrt32 a.sumQ (a.count * d.b * 2 ^ 64))
  else some (round32 a.sumQ (a.count * d.b * 2 ^ 64))

/-- One element of an output vector and whether it saturated (R131). -/
def formatPoint (d : TaskDesc) (a : PointAcc) (v : Option U32) : Data × Bool :=
  if d.format = 0 then (le 4 (v.getD nan32).toNat, false)
  else if d.format = 1 then match v with
    | some p => (le 2 (codeOf 16 (logLevel p).1), (logLevel p).2)
    | none => (le 2 0x8000, false)
  else if d.format = 2 then (le 2 a.re.toNat ++ le 2 a.im.toNat, false)
  else (le 4 a.re.toNat ++ le 4 a.im.toNat, false)
/-- Bytes of an element. -/
def elementBytes (format : Nat) : Nat := if format = 1 then 2 else if format = 3 then 8 else 4

/-! ## Spectral kurtosis (R134, R135) -/

/-- The default threshold offset 6 / sqrt(M) in Q4.12. -/
def skOffset (mLog2 : Nat) : Nat := (Nat.sqrt (4 * 24576 * 24576 / 2 ^ mLog2) + 1) / 2
def TaskDesc.skLo (d : TaskDesc) : Nat := if d.skLower = 0 then 4096 - skOffset d.skMLog2 else d.skLower
def TaskDesc.skHi (d : TaskDesc) : Nat := if d.skUpper = 0 then 4096 + skOffset d.skMLog2 else d.skUpper
/-- SK = ((M + 1) / (M - 1)) x (M x S2 / S1^2 - 1) in binary64, each operation rounded once; 0 where S1 = 0 (R134; log 112). -/
def skValue (m s1 s2 : Nat) : D64 :=
  if s1 = 0 then ⟨0, 0⟩
  else
    let a := D64.ofFrac s1 1
    let r := (D64.ofFrac (m * s2 : Nat) 1).div (a.mul a)
    (D64.ofFrac (m + 1 : Nat) (m - 1)).mul (r.sub (D64.ofFrac 1 1))
/-- SK lies below or above a threshold in Q4.12, compared exactly. -/
def skBelow (m s1 s2 thr : Nat) : Bool := let v := skValue m s1 s2; decide (v.num * 4096 < (thr : Int) * v.den)
def skAbove (m s1 s2 thr : Nat) : Bool := let v := skValue m s1 s2; decide ((thr : Int) * v.den < v.num * 4096)
/-- A task flags a bin of a block (R134). -/
def skFlagged (d : TaskDesc) (s1 s2 : Nat) : Bool :=
  decide (s1 = 0) || skBelow (2 ^ d.skMLog2) s1 s2 d.skLo || skAbove (2 ^ d.skMLog2) s1 s2 d.skHi
/-- The bytes of an SK_FLAGS payload: one bit a bin, padded to a multiple of 8 bytes (R136). -/
def skPayload (flags : List Bool) : Data :=
  let bytes := (List.range (ceilDiv flags.length 8)).map fun i =>
    BitVec.ofNat 8 (ofBits ((List.range 8).filter fun j => (flags.drop (i * 8 + j)).headD false))
  bytes ++ zeros (ceilDiv bytes.length 8 * 8 - bytes.length)

/-! ## Means of acquisitions (R232, R233) -/

/-- round(sum x 256 / a) as a little-endian i24. -/
def mean24 (sum : Int) (a : Nat) : Data := le 3 (codeOf 24 (roundDiv (sum * 256) a))

end Sys2Proof.Machine
end

