-- ==== Sys2Proof/Machine/Regs.lean ====
section
/-! DEFINITION. The register map: every register of BAR0 and of the register window with its reset value, its access
codes (R7) and its class (R456), and the one register file that holds what is not computed from block state.
A register's key is its window offset; BAR0 offset o has key 0x10_0000 + o. -/

namespace Sys2Proof.Machine

/-- The access codes of a register's bits, one mask per code; bits in none of them are reserved. RW and RWH bits take
a plain write. -/
structure RegInfo where
  reset : U32
  rw : U32
  w1c : U32
  w1s : U32
  sc : U32
  ro : U32
  cfg : Bool
deriving DecidableEq, Repr

/-- The key of BAR0 offset 0. -/
def bar0Key : Nat := 0x100000

/-- A read-only register. -/
def roReg (mask : U32) : RegInfo := ⟨0, 0, 0, 0, 0, mask, false⟩
/-- A plain control register of the configuration class. -/
def cfgReg (reset mask : U32) : RegInfo := ⟨reset, mask, 0, 0, 0, 0, true⟩
/-- A software-written register of the status class. -/
def statReg (reset mask : U32) : RegInfo := ⟨reset, mask, 0, 0, 0, 0, false⟩

/-- Global block (R470). -/
def regGlb (o : Nat) : Option RegInfo :=
  if o = 0x000 then some { roReg 0xFFFFFFFF with reset := 0x65401D7A }
  else if o = 0x004 then some (roReg 0xFFFFFF01)
  else if o = 0x008 ∨ o = 0x00C then some (roReg 0xFFFFFFFF)
  else if o = 0x010 then some (roReg 0x7)
  else if o = 0x014 ∨ o = 0x018 then some (roReg 0xFFFFFFFF)
  else if o = 0x020 ∨ o = 0x024 ∨ o = 0x028 ∨ o = 0x02C then some (statReg 0 0xFFFFFFFF)
  else if o = 0x030 then some ⟨0, 0, 0xFF, 0, 0, 0, false⟩
  else if o = 0x034 then some (roReg 0x800FFFFF)
  else none

/-- Time base readout (R471). -/
def regTmb (o : Nat) : Option RegInfo :=
  if o = 0x000 ∨ o = 0x004 then some (roReg 0xFFFFFFFF)
  else if o = 0x008 then some ⟨0, 0, 0, 0, 1, 0, false⟩
  else if o = 0x00C ∨ o = 0x010 then some (roReg 0xFFFFFFFF)
  else if o = 0x014 then some ⟨0, 0, 0x400, 0, 0, 0xBF7, false⟩
  else if o = 0x018 ∨ o = 0x01C then some (roReg 0xFFFFFFFF)
  else if o = 0x020 then some (roReg 0xFFFF)
  else if o = 0x024 ∨ o = 0x030 ∨ o = 0x034 ∨ o = 0x038 then some (roReg 0xFFFFFFFF)
  else if o = 0x03C then some (roReg 0xFFFF)
  else if o = 0x040 ∨ o = 0x044 then some (roReg 0xFFFFFFFF)
  else none

/-- Configuration CRC unit (R474). -/
def regCrc (o : Nat) : Option RegInfo :=
  if o = 0x000 then some ⟨0, 0x71, 0, 0, 0x2, 0, false⟩
  else if o = 0x004 then some (statReg 0 0xFFFFFFFF)
  else if o = 0x008 then some (roReg 0xFFFFFFFF)
  else if o = 0x00C then some ⟨0, 0, 0x70, 0, 0, 0x783, false⟩
  else if o = 0x010 ∨ o = 0x014 then some (roReg 0xFFFFFFFF)
  else if o = 0x018 ∨ o = 0x01C then some (statReg 0 0xFFFFFFFF)
  else none

/-- Event block (R473). -/
def regEvt (o : Nat) : Option RegInfo :=
  if o % 4 ≠ 0 then none
  else if o < 0x200 then some ⟨0, 0, 0xFFFFFFFF, 0, 0, 0, false⟩
  else if o < 0x400 then some (cfgReg 0 0xFFFFFFFF)
  else if o < 0x410 then some (roReg 0xFFFFFFFF)
  else if o = 0x410 then some (statReg 0xFFFF 0xFFFF)
  else if o = 0x414 ∨ o = 0x418 then some (roReg 0xFFFFFFFF)
  else if o = 0x41C then some (statReg 0 0xFFFFFFFF)
  else none

/-- Draught channel n's registers (R333) and the global ones (R334). -/
def regDrt (o : Nat) : Option RegInfo :=
  if o < 0x2000 then
    let r := o % 0x100
    if r = 0x00 then some ⟨3, 3, 0, 0, 0x80, 0, true⟩
    else if r = 0x04 then some ⟨0, 0, 0x6, 0x1, 0, 0xFFFF0000, false⟩
    else if r = 0x08 then some (statReg 0 0xFFFFFFC3)
    else if r = 0x0C then some (statReg 0 0xFFFFFFFF)
    else if r = 0x10 then some (roReg 0xFFFFFFC3)
    else if r = 0x14 ∨ r = 0x18 ∨ r = 0x1C ∨ r = 0x20 ∨ r = 0x24 ∨ r = 0x28 then some (roReg 0xFFFFFFFF)
    else if r = 0x2C then some (roReg 0x1)
    else if r = 0x30 then some (statReg 0 0xFFFFFFFF)
    else if r = 0x34 ∨ r = 0x38 then some (roReg 0xFFFFFFFF)
    else none
  else if o = 0x2000 then some ⟨0, 0, 0x80000000, 0, 0, 0x0F1F1F01, false⟩
  else if o = 0x2004 ∨ o = 0x2008 then some (roReg 0xFFFFFFFF)
  else if o = 0x200C then some (statReg 0 0xFFFFFFFF)
  else none

/-- The registers of scan-out layer l (R282); fields a layer lacks are reserved. -/
def regLayer (l r : Nat) : Option RegInfo :=
  if r = 0x00 then some (if l = 0 then cfgReg 0 0xFF else if l = 1 ∨ l = 2 then cfgReg 0xFF00 0xFFC1 else cfgReg 0 0x1)
  else if r = 0x04 then some (cfgReg 0 0x3FFF3FFF)
  else if r = 0x08 then some (cfgReg 0 (if l = 3 then 0x003F003F else 0x1FFF1FFF))
  else if r = 0x0C then some (cfgReg 0 0xFFF)
  else if r = 0x10 then some (cfgReg 0 0x1FFFFFFF)
  else if r = 0x14 then some (cfgReg 0 (if l = 3 then 0 else 0x1FFFFFFF))
  else if r = 0x18 ∨ r = 0x1C then some (cfgReg 0 (if l = 2 then 0x1FFFFFFF else 0))
  else if r = 0x20 then some (roReg 0x1FFFFFFF)
  else if r = 0x24 then some ⟨0, 0, 0x2, 0x1, 0, 0x4, false⟩
  else if r = 0x28 ∧ l = 0 then some (cfgReg 0x20080000 0x3FFFFFFF)
  else none

/-- Scan-out (R282). -/
def regScn (o : Nat) : Option RegInfo :=
  if o = 0x000 then some ⟨0, 0x1, 0, 0, 0x2, 0, true⟩
  else if o = 0x004 then some ⟨0, 0, 0xF8C0, 0, 0, 0xFF07073F, false⟩
  else if o = 0x008 then some (roReg 0xFFFFFFFF)
  else if o = 0x00C then some (roReg 0x11FFF)
  else if o = 0x010 then some (statReg 0 0xFFFFFFFF)
  else if o = 0x014 then some (roReg 0xFFFF)
  else if o = 0x018 then some (cfgReg 0x26 0xFFFF)
  else if o = 0x01C then some (roReg 0xFFFFF03F)
  else if o = 0x020 then some ⟨0, 0x000F000F, 0, 0, 0x80000000, 0x0F000000, false⟩
  else if o = 0x024 then some (statReg 0 0xFFFFF)
  else if o = 0x030 ∨ o = 0x034 ∨ o = 0x038 ∨ o = 0x03C then some (statReg 0 0xFFFFFFFF)
  else if o = 0x100 then some (cfgReg 0x08980780 0x1FFF1FFF)
  else if o = 0x104 then some (cfgReg 0x802C07D8 0x9FFF1FFF)
  else if o = 0x108 then some (cfgReg 0x04650438 0x1FFF1FFF)
  else if o = 0x10C then some (cfgReg 0x8005043C 0x9FFF1FFF)
  else if o = 0x110 then some (cfgReg 0x08D9EE20 0xFFFFFFFF)
  else if o = 0x114 then some (cfgReg 0x9 0x1FF)
  else if o = 0x180 ∨ o = 0x188 then some (roReg 0x1FFF1FFF)
  else if o = 0x184 ∨ o = 0x18C then some (roReg 0x9FFF1FFF)
  else if o = 0x190 then some (roReg 0xFFFFFFFF)
  else if o = 0x194 then some (roReg 0x1FF)
  else if 0x200 ≤ o ∧ o < 0x300 then regLayer ((o - 0x200) / 0x40) ((o - 0x200) % 0x40)
  else none

/-- One Breeze converter's registers (R530); B's firmware slots 28 to 31 read as RO. -/
def regBrzConv (isB : Bool) (o : Nat) : Option RegInfo :=
  if o % 4 ≠ 0 then none
  else if o = 0x000 then some ⟨0x1000, 0xF1F9, 0, 0, 0x2, 0, true⟩
  else if o = 0x004 then some (roReg 0xF)
  else if o = 0x008 ∨ o = 0x00C ∨ o = 0x010 then some (roReg 0xFFFFFFFF)
  else if o = 0x014 then some (cfgReg 0xFF 0xFF)
  else if o = 0x020 then some ⟨0, 0, 0xFFFFFFFF, 0, 0, 0, false⟩
  else if o = 0x024 then some (roReg 0xFFFFFFFF)
  else if 0x100 ≤ o ∧ o < 0x500 then
    let fw := isB && decide (28 ≤ (o - 0x100) / 0x20)
    let mk := fun (r : U32) => if fw then { roReg 0xFFFFFFFF with reset := r } else cfgReg r 0xFFFFFFFF
    let r := (o - 0x100) % 0x20
    if r = 0x00 then some (mk 0x00900000)
    else if r = 0x04 then some (mk 0x8000)
    else if r = 0x08 then some (mk 0x7FFFFFFF)
    else if r = 0x0C then some (mk 0x80000000)
    else if r = 0x10 ∨ r = 0x14 then some (roReg 0xFFFFFFFF)
    else if r = 0x18 then some (roReg 0xF0000FFF)
    else some (roReg 0xFFFFFFFF)
  else if 0x800 ≤ o ∧ o < 0xC00 then some (cfgReg 0x80 0xFFFF)
  else none

/-- Breeze (R530). -/
def regBrz (o : Nat) : Option RegInfo :=
  if o < 0x1000 then regBrzConv false o
  else if o < 0x2000 then regBrzConv true (o - 0x1000)
  else if o = 0x2000 then some (cfgReg 0 0x3FF)
  else none

/-- A CPLQ's or EVQ's registers (R414). -/
def regOutQueue (isEvq : Bool) (r : Nat) : Option RegInfo :=
  if r = 0x00 then some (cfgReg 0 0xFFFFFFE0)
  else if r = 0x04 then some (cfgReg 0 0xFFFFFFFF)
  else if r = 0x08 then some (cfgReg 0x2000 0xFFFFFFF9)
  else if r = 0x0C then some (cfgReg 0 0xFFF)
  else if r = 0x10 then some (roReg 0xF0001FFF)
  else if r = 0x14 ∧ isEvq then some (statReg 0 0xFFFFFFFF)
  else none

/-- The mailbox registers (R414), the host interface registers (R395), the MSI-X table and its pending bits (R387, R396). -/
def regBar0 (o : Nat) : Option RegInfo :=
  if o = 0x0000 then some { roReg 0xFFFF0007 with reset := 0x01000000 }
  else if o = 0x0008 ∨ o = 0x000C then some (statReg 0 0xFFFFFFFF)
  else if o = 0x0010 then some ⟨0, 0, 0xFF, 0, 0, 0xFF00, false⟩
  else if 0x0100 ≤ o ∧ o < 0x0200 then
    let r := (o - 0x100) % 0x20
    if r = 0x00 then some (cfgReg 0 0xFFFFFFC0)
    else if r = 0x04 then some (cfgReg 0 0xFFFFFFFF)
    else if r = 0x08 then some (cfgReg 0 0xFFFF8701)
    else if r = 0x0C then some (cfgReg 0 0xFFF)
    else if r = 0x10 then some (roReg 0xF0000FFF)
    else none
  else if 0x0200 ≤ o ∧ o < 0x0300 then regOutQueue false ((o - 0x200) % 0x20)
  else if 0x0300 ≤ o ∧ o < 0x0380 then regOutQueue true ((o - 0x300) % 0x20)
  else if o = 0x0800 then some (cfgReg 0 0xF0000000)
  else if o = 0x0804 then some (cfgReg 0 0x7)
  else if o = 0x0808 then some ⟨0, 0, 0x2, 0, 0x1, 0xC, false⟩
  else if o = 0x080C then some (roReg 0xF0000007)
  else if o = 0x0810 then some (roReg 0xFF)
  else if o = 0x0814 then some (cfgReg 0 0x1)
  else if o = 0x0818 ∨ o = 0x081C then some (statReg 0 0xFFFFFFFF)
  else if 0x7000 ≤ o ∧ o < 0x7100 ∧ o % 4 = 0 then some (roReg 0xFFFFFFFF)
  else if 0x8000 ≤ o ∧ o < 0x10000 ∧ o % 4 = 0 then
    some (if o % 16 = 0 then statReg 0 0xFFFFFFFC else if o % 16 = 12 then statReg 1 1 else statReg 0 0xFFFFFFFF)
  else none

/-- The register at a key: none where no block lists one (R454, R455). -/
def regInfo (k : Nat) : Option RegInfo :=
  if bar0Key ≤ k then regBar0 (k - bar0Key)
  else if k < 0x1000 then regGlb k
  else if k < 0x2000 then regTmb (k - 0x1000)
  else if k < 0x3000 then regCrc (k - 0x2000)
  else if 0x4000 ≤ k ∧ k < 0x5000 then regEvt (k - 0x4000)
  else if 0x10000 ≤ k ∧ k < 0x20000 then regDrt (k - 0x10000)
  else if 0x20000 ≤ k ∧ k < 0x30000 then regScn (k - 0x20000)
  else if 0x30000 ≤ k ∧ k < 0x40000 then regBrz (k - 0x30000)
  else none

/-- What a register holds at reset: the manual's reset values; reserved bits 0 (R457 gives none; log 5). -/
def regReset (k : Nat) : U32 := match regInfo k with | some i => i.reset | none => 0

/-- The stored value of a register. -/
def rfGet : RegFile → Nat → U32
  | [], k => regReset k
  | (j, v) :: m, k => if k = j then v else rfGet m k

/-- Store a register, keeping the canonical form: keys strictly rising, no entry at its reset value. -/
def rfPut : RegFile → Nat → U32 → RegFile
  | [], k, x => if x = regReset k then [] else [(k, x)]
  | (j, v) :: m, k, x =>
    if k < j then (if x = regReset k then (j, v) :: m else (k, x) :: (j, v) :: m)
    else if k = j then (if x = regReset k then m else (k, x) :: m)
    else (j, v) :: rfPut m k x

/-- Whether every key lies above a bound and rises, and no entry is at its reset value. -/
def rfWfFrom : Option Nat → RegFile → Bool
  | _, [] => true
  | lo, (j, v) :: m => (match lo with | none => true | some l => decide (l < j)) && decide (v ≠ regReset j) && rfWfFrom (some j) m

/-- The canonical form of the register file. -/
def rfWf (m : RegFile) : Bool := rfWfFrom none m

/-- The stored value of a register of the block. -/
def State.reg (s : State) (k : Nat) : U32 := rfGet s.regs k
/-- Store a register. -/
def State.setReg (s : State) (k : Nat) (v : U32) : State := { s with regs := rfPut s.regs k v }
/-- Store a register as a number. -/
def State.setRegN (s : State) (k : Nat) (v : Nat) : State := s.setReg k (BitVec.ofNat 32 v)
/-- Store a 64-bit value in two registers, low half first. -/
def State.setReg64 (s : State) (kLo kHi v : Nat) : State := (s.setRegN kLo v).setRegN kHi (v / 2 ^ 32)
/-- A 64-bit value of two registers. -/
def State.reg64 (s : State) (kLo kHi : Nat) : Nat := (s.reg kLo).toNat + 2 ^ 32 * (s.reg kHi).toNat
/-- Replace the bits of a mask. -/
def State.setMask (s : State) (k : Nat) (mask v : U32) : State := s.setReg k ((s.reg k &&& ~~~mask) ||| (v &&& mask))
/-- A field of a register. -/
def State.field (s : State) (k hi lo : Nat) : Nat := bits (s.reg k).toNat hi lo
/-- Replace a field of a register. -/
def State.setField (s : State) (k hi lo v : Nat) : State :=
  s.setMask k (BitVec.ofNat 32 ((2 ^ (hi + 1 - lo) - 1) * 2 ^ lo)) (BitVec.ofNat 32 (v % 2 ^ (hi + 1 - lo) * 2 ^ lo))
/-- Count in a wrapping 32-bit counter register. -/
def State.countWrap (s : State) (k n : Nat) : State := s.setReg k (s.reg k + BitVec.ofNat 32 n)
/-- Count in a saturating 32-bit counter register. -/
def State.countSat (s : State) (k n : Nat) : State := s.setRegN k (satN 32 ((s.reg k).toNat + n))

/-! ## Names of keys -/

def kGlbScratch : Nat := 0x020
def kWriteLost : Nat := 0x030
def kWriteLostAddr : Nat := 0x034
def kHeartbeat : Nat := 0x018
def kSnapCtrl : Nat := 0x1008
def kSnapLo : Nat := 0x100C
def kSnapHi : Nat := 0x1010
def kTmbStatus : Nat := 0x1014
def kPpsLo : Nat := 0x1018
def kPpsHi : Nat := 0x101C
def kPpsFrac : Nat := 0x1020
def kTmbOffset : Nat := 0x1024
def kPtmSeq : Nat := 0x1030
def kPtmLocalLo : Nat := 0x1034
def kPtmLocalHi : Nat := 0x1038
def kPtmLocalFrac : Nat := 0x103C
def kPtmMasterLo : Nat := 0x1040
def kPtmMasterHi : Nat := 0x1044
def kCrcCtrl : Nat := 0x2000
def kCrcRef : Nat := 0x2004
def kCrcLast : Nat := 0x2008
def kCrcStatus : Nat := 0x200C
def kCrcFwRef : Nat := 0x2010
def kCrcFwLast : Nat := 0x2014
def kCrcSweeps : Nat := 0x2018
def kCrcMismatches : Nat := 0x201C
def kEvtStatus (n : Nat) : Nat := 0x4000 + n * 4
def kEvtMask (n : Nat) : Nat := 0x4200 + n * 4
def kEvtFirst : Nat := 0x4410
def kEvtFirstLo : Nat := 0x4414
def kEvtFirstHi : Nat := 0x4418
def kEvtSets : Nat := 0x441C
def kDrt (n r : Nat) : Nat := 0x10000 + n * 0x100 + r
def kDrtGlb : Nat := 0x12000
def kDrtErrLo : Nat := 0x12004
def kDrtErrHi : Nat := 0x12008
def kDrtHalts : Nat := 0x1200C
def kScn (o : Nat) : Nat := 0x20000 + o
def kLayer (l r : Nat) : Nat := 0x20200 + l * 0x40 + r
def kBrz (x o : Nat) : Nat := 0x30000 + x * 0x1000 + o
def kBrzSlot (x i r : Nat) : Nat := 0x30100 + x * 0x1000 + i * 0x20 + r
def kTdac : Nat := 0x32000
def kMbxStatus : Nat := bar0Key
def kDbIgnored : Nat := bar0Key + 0x08
def kCplDropped : Nat := bar0Key + 0x0C
def kQerr : Nat := bar0Key + 0x10
def kCmdq (q r : Nat) : Nat := bar0Key + 0x100 + q * 0x20 + r
def kCplq (q r : Nat) : Nat := bar0Key + 0x200 + q * 0x20 + r
def kEvq (q r : Nat) : Nat := bar0Key + 0x300 + q * 0x20 + r
def kB4BaseLo : Nat := bar0Key + 0x800
def kB4BaseHi : Nat := bar0Key + 0x804
def kB4Ctrl : Nat := bar0Key + 0x808
def kHifCtrl : Nat := bar0Key + 0x814
def kBadWrites : Nat := bar0Key + 0x818
def kBar4Ur : Nat := bar0Key + 0x81C
def kPba (n : Nat) : Nat := bar0Key + 0x7000 + n * 4
def kMsix (v r : Nat) : Nat := bar0Key + 0x8000 + v * 16 + r

end Sys2Proof.Machine
end

