-- ==== Sys2Proof/Machine/LinkOps.lean ====
section
/-! DEFINITION. Routing and sending of link packets (R344, R346, R353): the operations other blocks use to reach a
peer. The link commands and events themselves are in Link.lean. -/

namespace Sys2Proof.Machine

/-- The packet types of R344. -/
def ptWrite : Nat := 1
def ptRead : Nat := 2
def ptCompletion : Nat := 3
def ptMsg : Nat := 4
def ptTrig : Nat := 5
def ptTime : Nat := 6
def ptEnum : Nat := 7

/-- Whether a port carries ordinary traffic: ACTIVE, or idle in low power (R354, R376). -/
def Port.carries (p : Port) : Bool := p.state = .active ∨ p.state = .lowPower
/-- Whether a port is up: ACTIVE, STANDBY or idle in low power. -/
def Port.isUp (p : Port) : Bool := p.carries ∨ p.state = .standby

/-- Whether an entry list covers a DID (R353). -/
def covers (entries : List (Nat × Nat × Nat)) (did : Nat) : Bool := entries.any fun e => e.1 ≤ did ∧ did ≤ e.2.1

/-- Kinds of a route (R380): local, an entry, the default port, unreachable. -/
inductive Route
  | local_
  | entry (port : Fin 4)
  | default_ (port : Fin 4)
  | unreachable
deriving DecidableEq, Repr

/-- The upstream port as an index. -/
def Link.upPort (l : Link) : Option (Fin 4) := match l.upstream with
  | some n => if h : n < 4 then some ⟨n, h⟩ else none
  | none => none

/-- The route of a packet for a DID (R353). -/
def route (l : Link) (did : Nat) : Route :=
  if l.assigned ∧ did = l.did then .local_
  else match (List.finRange 4).find? (fun n => l.ports[n].carries ∧ covers l.ports[n].entries did) with
    | some n => .entry n
    | none => match l.upPort with
      | some u => if l.ports[u].carries then .default_ u else .unreachable
      | none => .unreachable

/-- The port a packet for a DID leaves by. -/
def routePort (l : Link) (did : Nat) : Option (Fin 4) := match route l did with
  | .entry n => some n
  | .default_ n => some n
  | _ => none

/-- Whether a peer can be reached: a route leads to it, and it is not among the ranges reported unreachable. -/
def reachable (l : Link) (did : Nat) : Bool :=
  (routePort l did).isSome ∧ ¬ l.unreachable.any (fun r => r.lo ≤ did ∧ did ≤ r.hi)

/-- Change one port. -/
def setPort (n : Fin 4) (f : Port → Port) (s : State) : State := { s with link := { s.link with ports := vmod s.link.ports n f } }

/-! ## Flits (R340 to R343) -/

/-- The virtual channel of a packet (R345). -/
def vcOf (p : Packet) : Nat :=
  if p.type = ptTrig then 1 else if p.type = ptWrite then (if p.subtype = 0 then 3 else 2)
  else if p.type = ptRead ∨ p.type = ptCompletion then 3 else 0
/-- The bytes of a packet: header and payload, on an 8-byte boundary (R344). -/
def packetBytes (p : Packet) : Data :=
  let d := le 1 p.type ++ le 1 (b2n p.bcast + 2 * b2n p.ackReq + 4 * b2n p.neighbour) ++ le 2 p.payload.length ++ le 2 p.dstDid ++ le 2 p.srcDid ++
    le 4 p.tag.toNat ++ le 2 p.subtype ++ le 2 p.hops ++ le 8 p.addr.toNat ++ le 8 p.aux.toNat ++ p.payload
  d ++ zeros (ceilDiv d.length 8 * 8 - d.length)
/-- Payload bytes of a flit, flits of a replay buffer, and the credits that a receiver advertises (R340, R342, R343). -/
def flitPayload : Nat := 244
def replayDepth : Nat := 512
def creditsOf : Vector Nat 4 := #v[16, 16, 256, 128]
def Port.credit (p : Port) (vc : Nat) : Nat := (p.credits.toList.drop vc).headD 0

/-- The fields of a flit (R340). -/
structure Flit where
  isData : Bool
  vc : Nat
  starts : Bool
  nak : Bool
  creditVc : Nat
  seq : Nat
  ack : Nat
  credit : Nat
  payload : Data
  crcOk : Bool
deriving DecidableEq, Repr
/-- A flit read from its bytes; its CRC is checked over all that stands before it (R340, R341). -/
def flitOf (d : Data) : Flit :=
  let c := u8At d 0
  { isData := decide (c % 4 = 1), vc := c / 4 % 4, starts := bit c 4, nak := bit c 5, creditVc := u8At d 1 % 4, seq := u16At d 2 % 4096, ack := u16At d 4 % 4096,
    credit := u16At d 6, payload := (d.drop 8).take flitPayload, crcOk := decide (d.length = 256) && decide ((crc32 (d.take 252)).toNat = u32At d 252) }
/-- The bytes of a flit (R340). -/
def flitBytes (f : Flit) : Data :=
  let d := le 1 (b2n f.isData + f.vc * 4 + b2n f.starts * 16 + b2n f.nak * 32) ++ le 1 f.creditVc ++ le 2 f.seq ++ le 2 f.ack ++ le 2 f.credit ++
    (f.payload ++ zeros (flitPayload - f.payload.length)).take flitPayload
  d ++ le 4 (crc32 d).toNat

/-- Put a flit on the lanes: it carries the last DATA flit received good and in order, and the credits owed for one virtual channel
(R340, R341, R343). -/
def Port.emit (p : Port) (isData : Bool) (vc : Nat) (starts nak : Bool) (seq : Nat) (payload : Data) : Port :=
  let c := ((List.range 4).find? fun v => decide (0 < (p.owed.toList.drop v).headD 0)).getD 0
  let f : Flit :=
    { isData := isData, vc := vc, starts := starts, nak := nak, creditVc := c, seq := seq, ack := (p.rxSeq + 4095) % 4096,
      credit := (p.owed.toList.drop c).headD 0, payload := payload, crcOk := true }
  { p with lastFlit := flitBytes f, owed := vmodN p.owed c (fun _ => 0) }
/-- An IDLE flit: ack and credit only, and the NAK where one is due (R341). -/
def Port.report (p : Port) (nak : Bool) : Port := p.emit false 0 false nak 0 []

/-- Which of VC2 and VC3 is served where both wait: in proportion to their admitted rates, by turns where neither has one, and never the
same for more than seven flits (R343; log 138). -/
def bulkChoice (p : Port) (rates : Nat × Nat) : Nat :=
  let other := if p.lastBulk = 2 then 3 else 2
  if 7 ≤ p.bulkRun ∨ rates = (0, 0) then other
  else if p.bulkSent.1 * rates.2 ≤ p.bulkSent.2 * rates.1 then 2 else 3
/-- The place among the waiting packets of the one that the next flit carries (R343): VC1, the packet in progress, VC0, then VC3 and
VC2. -/
def nextPacket (p : Port) (rates : Nat × Nat) : Option Nat :=
  let can := ((List.range p.waiting.length).zip p.waiting).filter fun x => 0 < p.credit x.2.vc
  let pick := fun (q : WaitingPacket → Bool) => (can.find? fun x => q x.2).map Prod.fst
  [pick (·.vc = 1), pick (·.begun), pick (·.vc = 0), pick (·.vc = bulkChoice p rates), pick fun _ => true].findSome? id

/-- Send one flit of the waiting packet at a place; up to 7 TRIG packets go into one flit (R343). -/
def sendFlit (up i : Nat) (p : Port) : Port := match p.waiting.drop i with
  | [] => p
  | x :: _ =>
    let placed := (List.range p.waiting.length).zip p.waiting
    let gone := if x.vc = 1 ∧ x.bytes.length = 32 then
        ((placed.filter fun y => decide (y.2.vc = 1 ∧ y.2.bytes.length = 32 ∧ ¬ y.2.begun)).take 7).map Prod.fst else [i]
    let payload := ((placed.filter fun y => gone.contains y.1).flatMap fun y => y.2.bytes).take flitPayload
    let waiting := placed.filterMap fun y =>
      if !gone.contains y.1 then some y.2
      else if y.2.bytes.length ≤ flitPayload then none else some { y.2 with bytes := y.2.bytes.drop flitPayload, begun := true }
    let p := p.emit true x.vc (!x.begun) false p.txSeq payload
    let bulk := decide (2 ≤ x.vc)
    { p with waiting := waiting, credits := vmodN p.credits x.vc (· - 1), replay := p.replay ++ [⟨p.txSeq, x.vc, !x.begun, payload⟩], txSeq := (p.txSeq + 1) % 4096,
             flitsTx := p.flitsTx + 1, ackProgress := if p.replay.isEmpty then up else p.ackProgress,
             bulkRun := if ¬ bulk then p.bulkRun else if x.vc = p.lastBulk then p.bulkRun + 1 else 1, lastBulk := if bulk then x.vc else p.lastBulk,
             bulkSent := (p.bulkSent.1 + b2n (decide (x.vc = 2)), p.bulkSent.2 + b2n (decide (x.vc = 3))) }

/-- Send waiting flits while credits and the replay buffer allow; they wait while the lanes retrain (R342, R343). -/
def pumpFlits (rates : Nat × Nat) (up : Nat) : Nat → Port → Port
  | 0, p => p
  | n + 1, p =>
    if p.retraining ∨ replayDepth ≤ p.replay.length then p
    else match nextPacket p rates with
      | some i => pumpFlits rates up n (sendFlit up i p)
      | none => p
/-- Send all that can go. -/
def Port.pump (p : Port) (rates : Nat × Nat) (up : Nat) : Port := pumpFlits rates up ((p.waiting.map fun x => ceilDiv x.bytes.length flitPayload).sum) p

/-- The rates that a port's flows have on VC2 and VC3: records, units and spectra travel on VC2, the answers to a placement's reads of
this device's store on VC3 (R345, R366). -/
def bulkRates (s : State) (n : Fin 4) : Nat × Nat :=
  let mine := s.link.flows.filter (·.port = n.val)
  let reads := fun (f : Flow) => match f.owner with | .placement id => s.tasks.any (·.id = id) | _ => false
  (((mine.filter (!reads ·)).map (·.tx)).sum, ((mine.filter reads).map (·.tx)).sum)
/-- Send what a port may send now. -/
def pumpPort (n : Fin 4) (s : State) : State := setPort n (·.pump (bulkRates s n) s.clk.up) s

/-- Put a packet on a port's output; nothing leaves a port that is not up. -/
def sendOn (n : Fin 4) (p : Packet) (s : State) : State :=
  if s.link.ports[n].isUp then
    pumpPort n (setPort n (fun q => { q with out := q.out ++ [p], waiting := q.waiting ++ [⟨vcOf p, packetBytes p, false⟩] }) s)
  else s

/-- Count a discarded packet (R346, R353). -/
def discardPacket (s : State) : State := { s with link := { s.link with discarded := s.link.discarded + 1 } }

/-- Send a packet to the DID its header names (R353); it is discarded and counted where no route leads there. -/
def send (p : Packet) (s : State) : State := match routePort s.link p.dstDid with
  | some n => sendOn n p s
  | none => discardPacket s

/-- Send a packet out of every ACTIVE port but one (R346). -/
def broadcast (skip : Option (Fin 4)) (p : Packet) (s : State) : State :=
  forL (List.finRange 4) (fun n s => if some n = skip ∨ ¬ s.link.ports[n].carries then s else sendOn n p s) s

/-- A packet of this device with an empty payload. -/
def mkPacket (s : State) (type subtype dst : Nat) (tag : U32) (addr aux : Nat) : Packet :=
  { type := type, bcast := false, ackReq := false, neighbour := false, dstDid := dst, srcDid := s.link.did, tag := tag,
    subtype := subtype, hops := 0, addr := BitVec.ofNat 64 addr, aux := BitVec.ofNat 64 aux, payload := [] }

/-- A packet of a type and subtype. -/
def isPacket (p : Packet) (type subtype : Nat) : Bool := p.type = type ∧ p.subtype = subtype

/-- Traffic that an UNASSIGNED device takes part in: TIME, ENUM for a neighbour, heartbeats (R348). -/
def beforeDid (p : Packet) : Bool := p.neighbour && (p.type = ptTime || p.type = ptEnum || isPacket p ptMsg 4)
/-- A packet delivered on a port: for the neighbour on a port that is up; on one that carries ordinary traffic also addressed to this
device or broadcast (R344, R346, R353, R354). An UNASSIGNED device takes part in little (R348). -/
def received (n : Fin 4) (p : Packet) (f : State → State) (s : State) : State :=
  let q := s.link.ports[n]
  if q.isUp ∧ (if s.link.assigned then p.neighbour || (q.carries && (p.bcast || decide (p.dstDid = s.link.did))) else beforeDid p) then f s else s

/-- Hops that a port's link counts for (R361). -/
def portHops (p : Port) : Nat :=
  let d15 : Nat := 1258291        -- 15 ns in 1/65,536 tick
  let ns140 : Nat := 11744051     -- 140 ns in 1/65,536 tick
  let slow := b2n (decide (p.width = 4 ∧ p.rate ≤ 2))
  if p.delay ≤ d15 then 1 + slow else 1 + slow + ceilDiv (p.delay - d15) ns140

/-- The way from a device up the tree that the root numbered: each device on it with what its link to its parent counts for (R350,
R361). -/
def treePath (l : Link) : Nat → Nat → List (Nat × Nat)
  | 0, _ => []
  | n + 1, did => match l.known.find? (·.did = did) with
    | some k => if k.parent = did then [(did, k.link)] else (did, k.link) :: treePath l n k.parent
    | none => []
/-- Hop count to a DID, each link counted as R361 counts it: the enumeration map at the root, the link to a neighbour, depth through the
upstream port otherwise. -/
def hopsTo (l : Link) (did : Nat) : Nat := match route l did with
  | .local_ => 0
  | .unreachable => 0
  | .entry n => if l.ports[n].peerDid = did then portHops l.ports[n] else
      match treePath l (l.known.length + 1) did with | [] => portHops l.ports[n] | p => (p.map Prod.snd).sum
  | .default_ n => if l.ports[n].peerDid = did then portHops l.ports[n] else portHops l.ports[n] + l.depth

/-- Payload capacity per direction in MB/s, exact, as a numerator and a denominator (R337, R339): lanes and rate, the 64b/66b code, and
the shares of flits and packets. -/
def payloadMBs (p : Port) : Nat × Nat :=
  let r := ([0, 1031250, 1250000, 1600000, 2000000, 2578125, 2800000, 3200000].drop p.rate).headD 0   -- lane rate in 10 kbit/s
  (p.width * r * 64 * 244 * 4096, 66 * 8 * 256 * 4128 * 100)
/-- Admitted rates of a port in MB/s: outward and inward (R379). -/
def admittedTx (l : Link) (n : Fin 4) : Nat := ((l.flows.filter (·.port = n.val)).map (·.tx)).sum
def admittedRx (l : Link) (n : Fin 4) : Nat := ((l.flows.filter (·.port = n.val)).map (·.rx)).sum
/-- Whether a sum of rates stays within 90 % of a port's capacity (R365). -/
def portFits (p : Port) (rate : Nat) : Bool := rate * 10 * (payloadMBs p).2 ≤ (payloadMBs p).1 * 9
/-- Admit a flow to a peer on the port of its route (R365); none where it does not fit or no route leads there. -/
def admitFlow (owner : Owner) (did tx rx : Nat) (s : State) : Option State := match routePort s.link did with
  | some n =>
    if portFits s.link.ports[n] (admittedTx s.link n + tx) ∧ portFits s.link.ports[n] (admittedRx s.link n + rx) then
      some { s with link := { s.link with flows := s.link.flows ++ [⟨owner, did, n.val, tx, rx, none⟩] } }
    else none
  | none => none
/-- Release the flows of an owner. -/
def releaseFlow (owner : Owner) (s : State) : State := { s with link := { s.link with flows := s.link.flows.filter (·.owner ≠ owner) } }

/-- Send bytes as WRITE packets of up to 4,096: aux holds what they are in bits 7:0, the last packet in bit 8 and the byte offset in
bits 63:32 (R344, R345). -/
def sendBulk (subtype did addr info : Nat) (d : Data) (s : State) : State :=
  let parts := ceilDiv d.length 4096
  forN parts (fun i s =>
    send { mkPacket s ptWrite subtype did 0 addr (info + b2n (decide (i + 1 = parts)) * 256 + i * 4096 * 2 ^ 32) with
             payload := (d.drop (i * 4096)).take 4096 } s) s

/-- The operations of a placement control message: aux holds the operation, its sixteenths and a number, addr the task (R346, R366). -/
def placementMsg (s : State) (did op task sixteenths number : Nat) (payload : Data) : Packet :=
  { mkPacket s ptMsg 7 did 0 task (op + sixteenths * 2 ^ 16 + number * 2 ^ 32) with payload := payload }

end Sys2Proof.Machine
end

