-- ==== Sys2Proof/Machine/Flags.lean ====
section
/-! DEFINITION. Status and interrupt flags: MSI-X messages and pending bits (R396), event status, masks, first capture
and counts (R473), event entries and queues, pending logs and rate limits (R430 to R434, R592), and the interrupt
moderation of the queues (R414). -/

namespace Sys2Proof.Machine

/-! ## Mastering and MSI-X -/

/-- The capabilities of configuration space in the order of their chain: offset and the standard's identifier (R383; log 134). -/
def capabilities : List (Nat × Nat) := [(0x40, 0x01), (0x50, 0x11), (0x70, 0x10)]
def extendedCapabilities : List (Nat × Nat) :=
  [(0x100, 0x01), (0x148, 0x03), (0x158, 0x19), (0x188, 0x25), (0x198, 0x26), (0x1C8, 0x27), (0x210, 0x2A), (0x240, 0x15), (0x250, 0x18),
   (0x258, 0x1E), (0x268, 0x1F)]
/-- The offset after a capability's in its chain; 0 at the end. -/
def nextCapability (o : Nat) (l : List (Nat × Nat)) : Nat := ((l.drop (l.findIdx (·.1 = o) + 1)).head?.map Prod.fst).getD 0
/-- The header of the capability at an offset: identifier in the low half, and the next offset. -/
def capabilityHeader (o : Nat) : Option U32 := match capabilities.find? (·.1 = o), extendedCapabilities.find? (·.1 = o) with
  | some c, _ => some (BitVec.ofNat 32 (c.2 + nextCapability o capabilities * 2 ^ 8))
  | none, some c => some (BitVec.ofNat 32 (c.2 + 2 ^ 16 + nextCapability o extendedCapabilities * 2 ^ 20))
  | none, none => none
/-- The bits of a configuration-space dword that the engine sets, and their value: identity, header type, capability chain, BAR types
and sizes, what the port supports, serial number, power state and negotiated link (R2, R382 to R386, R392, R403, R405, R411; log 134). -/
def cfgFixed (s : State) (o : Nat) : U32 × U32 :=
  let all : U32 := 0xFFFFFFFF
  if o = 0x00 then (all, 0x65401D7A)
  else if o = 0x04 then (0x00100000, 0x00100000)
  else if o = 0x08 then (all, BitVec.ofNat 32 (0x118000 * 2 ^ 8 + s.boot.fuses.stepping % 256))
  else if o = 0x10 then (0xFFFF, 0x4)
  else if o = 0x18 then (0x03FFFFFF, 0x4)
  else if o = 0x20 then (BitVec.ofNat 32 (2 ^ min s.pcie.barSizeLog2 32 - 1), 0xC)
  else if o = 0x24 then (BitVec.ofNat 32 (2 ^ (s.pcie.barSizeLog2 - 32) - 1), 0)
  else if o = 0x2C then (all, BitVec.ofNat 32 (s.boot.subsystem.1 % 2 ^ 16 + s.boot.subsystem.2 % 2 ^ 16 * 2 ^ 16))
  else if o = 0x34 then (all, 0x40)
  else if o = 0x44 then (0xF, if s.pcie.d3 then 0xB else 0x8)
  else if o = 0x50 then (0x07FFFFFF, 0x07FF7011)
  else if o = 0x54 then (all, 0x8000)
  else if o = 0x58 then (all, 0x7000)
  else if o = 0x80 then (0x03FF0000, BitVec.ofNat 32 (if s.pcie.linkUp then s.pcie.gen % 16 * 2 ^ 16 + s.pcie.width % 64 * 2 ^ 20 else 0))
  else if o = 0x74 then (all, 0x10008002)
  else if o = 0x7C then (all, 0x00000905)
  else if o = 0x94 then (all, 0x00030817)
  else if o = 0x14C then (all, BitVec.ofNat 32 s.boot.fuses.serial.toNat)
  else if o = 0x150 then (all, BitVec.ofNat 32 (s.boot.fuses.serial.toNat / 2 ^ 32))
  else if o = 0x244 then (all, BitVec.ofNat 32 ((if s.store.clamshell then 0xFF else 0x7F) * 2 ^ 12))
  else if o = 0x25C then (all, 0x1F)
  else if o = 0x26C then (all, 0x101)
  else if o = 0x248 then (0x3FE7, BitVec.ofNat 32 (4 + 2 ^ 5 + (s.pcie.barSizeLog2 - 20) * 2 ^ 8))
  else match capabilityHeader o with | some h => (all, h) | none => (0, 0)
/-- What software's bits of a dword hold after reset where the standard does not clear them: Device Control, and AER's masks and
severities (R382, R411; log 134). -/
def cfgReset (o : Nat) : U32 :=
  if o = 0x78 then 0x2810 else if o = 0x108 then 0x00400000 else if o = 0x10C then 0x00462030 else if o = 0x114 then 0xE000 else 0
/-- A configuration-space dword: what the engine sets, and beside it what software wrote (R383, R384). -/
def cfgDword (s : State) (o : Nat) : U32 :=
  let f := cfgFixed s o
  ((spGet 0#32 s.pcie.cfg o ^^^ cfgReset o) &&& ~~~f.1) ||| (f.2 &&& f.1)
/-- Change the port. -/
def setPcie (f : Pcie → Pcie) (s : State) : State := { s with pcie := f s.pcie }
/-- Store a configuration dword. -/
def setCfg (o : Nat) (v : U32) (s : State) : State := setPcie (fun p => { p with cfg := spPut 0#32 p.cfg o (v ^^^ cfgReset o) }) s
/-- Relaxed Ordering and No Snoop may be used (R382, R401). -/
def relaxedEnabled (s : State) : Bool := (cfgDword s 0x78).getLsbD 4
def noSnoopEnabled (s : State) : Bool := (cfgDword s 0x78).getLsbD 11
/-- Software has enabled ASPM L1.2: L1 in Link Control, and ASPM L1.2 in the L1 PM Substates (R405). -/
def l12Enabled (s : State) : Bool := (cfgDword s 0x80).getLsbD 1 && (cfgDword s 0x260).getLsbD 2
/-- Memory Space Enable and Bus Master Enable of the command register. -/
def memSpaceEnabled (s : State) : Bool := (cfgDword s 0x04).getLsbD 1
def busMaster (s : State) : Bool := (cfgDword s 0x04).getLsbD 2
/-- MSI-X Enable and Function Mask of the MSI-X capability at 0x050. -/
def msixEnabled (s : State) : Bool := (cfgDword s 0x50).getLsbD 31
def msixFunctionMask (s : State) : Bool := (cfgDword s 0x50).getLsbD 30

/-- Whether the engine can master traffic on PCI Express: link up, D0 and Bus Master Enable (R396, R405). -/
def masters (s : State) : Bool := s.pcie.linkUp && !s.pcie.d3 && busMaster s

/-- Write bytes to host memory; nothing arrives while the engine cannot master traffic. -/
def hostWrite (a : Nat) (d : Data) (s : State) : State := if masters s then { s with host := Memory.write s.host a d } else s
/-- Write ring or Draught data to host memory: Relaxed Ordering and No Snoop where they are asked for and enabled. Every other write
carries neither (R300, R401). -/
def hostData (relaxed noSnoop : Bool) (a : Nat) (d : Data) (s : State) : State :=
  hostWrite a d (setPcie (fun p => { p with dataWrite := (relaxed && relaxedEnabled s, noSnoop && noSnoopEnabled s) }) s)

/-- Whether vector v is masked, by its table entry or by the function mask. -/
def vectorMasked (s : State) (v : Nat) : Bool := (s.reg (kMsix v 12)).getLsbD 0 || msixFunctionMask s

/-- Send the message of a vector as its table entry stands (R396). -/
def sendVector (v : Nat) (s : State) : State :=
  { s with pcie := { s.pcie with msix := s.pcie.msix ++ [⟨v, s.reg64 (kMsix v 0) (kMsix v 4), (s.reg (kMsix v 8)).toNat⟩] } }

/-- Signal a vector (R396): message, pending bit, or nothing while MSI-X or bus mastering is off. -/
def signalVector (v : Nat) (s : State) : State :=
  if 2048 ≤ v ∨ ¬ msixEnabled s ∨ ¬ masters s then s
  else if vectorMasked s v then s.setField (kPba (v / 32)) (v % 32) (v % 32) 1
  else sendVector v s

/-- Whether the pending bit of a vector is set. -/
def vectorPending (s : State) (v : Nat) : Bool := (s.reg (kPba (v / 32))).getLsbD (v % 32)

/-! ## Output queues (R414, R419, R431) -/

/-- Entries written and not yet released. -/
def OutQueue.used (q : OutQueue) : Nat := (q.tail + q.size - q.head) % q.size
/-- Free entries: at most size minus one is ever outstanding. -/
def OutQueue.free (q : OutQueue) : Nat := q.size - 1 - q.used
/-- Advance the tail by one entry; the phase inverts at each wrap. -/
def OutQueue.advance (q : OutQueue) : OutQueue :=
  if q.tail + 1 = q.size then { q with tail := 0, phase := !q.phase } else { q with tail := q.tail + 1 }
/-- Count one entry toward moderation (R414). -/
def OutQueue.count (q : OutQueue) (up : Nat) : OutQueue :=
  { q with unsignalled := q.unsignalled + 1, firstUnsignalled := if q.unsignalled = 0 then up else q.firstUnsignalled }
/-- Whether the count of unsignalled entries calls for a message. -/
def OutQueue.due (q : OutQueue) : Bool := 0 < q.modCount && decide (q.modCount ≤ q.unsignalled)
/-- The unsignalled entries have been announced. -/
def OutQueue.announced (q : OutQueue) : OutQueue := { q with unsignalled := 0 }

/-- Change one completion queue or event queue. -/
def setCplq (n : Fin 8) (f : OutQueue → OutQueue) (s : State) : State := { s with mbx := { s.mbx with cplqs := vmod s.mbx.cplqs n f } }
def setEvq (n : Fin 4) (f : OutQueue → OutQueue) (s : State) : State := { s with mbx := { s.mbx with evqs := vmod s.mbx.evqs n f } }
def setCmdq (n : Fin 8) (f : CmdQueue → CmdQueue) (s : State) : State := { s with mbx := { s.mbx with cmdqs := vmod s.mbx.cmdqs n f } }

/-- Whether MBX_STATUS shows the mailbox ready (R414). -/
def mbxReady (s : State) : Bool := s.mbx.state = .ready ∨ s.mbx.state = .limited

/-! ## Events -/

/-- A value that an event's row names, by the width of its field (R430); since is the number of occurrences since the
last entry of the identifier, and since2 that of its second counter (R592). -/
inductive Val
  | h (v : Nat)
  | w (v : Nat)
  | q (v : Nat)
  | since
  | since2
deriving DecidableEq, Repr

/-- Place values in order, each in the next field of its width (R430). -/
def packVals (a b : Nat) : List Val → Data → Data
  | [], d => d
  | v :: vs, d =>
    let n := match v with | .h _ => 2 | .w _ => 4 | .q _ => 8 | .since => 4 | .since2 => 4
    let x := match v with | .h x => x | .w x => x | .q x => x | .since => a | .since2 => b
    let o := ceilDiv d.length n * n
    packVals a b vs (d ++ zeros (o - d.length) ++ le n x)

/-- The rate limit of an identifier in ticks (R592): none where its row states no limit. -/
def eventPeriod (ev : Nat) : Option Nat :=
  let hour := 3600 * secTicks
  if ev = 0x013 ∨ ev = 0x024 ∨ ev = 0x0E3 ∨ ev = 0x307 ∨ ev = 0x58C ∨ ev = 0x700 ∨ ev = 0xD0A then some msTicks
  else if ev = 0x303 then some secTicks
  else if ev = 0x03B ∨ ev = 0x041 then some hour
  else if 0x100 ≤ ev ∧ ev < 0x300 ∧ (ev - 0x100) % 0x80 = 8 then some msTicks
  else if 0x400 ≤ ev ∧ ev < 0x540 ∧ ev % 0x10 = 1 then some msTicks
  else if 0x540 ≤ ev ∧ ev < 0x560 ∧ ev % 4 = 1 then some msTicks
  else if 0x600 ≤ ev ∧ ev < 0x680 ∧ ev % 4 ≤ 1 then some msTicks
  else if 0x680 ≤ ev ∧ ev < 0x700 ∧ ev % 8 = 0 then some msTicks
  else if 0x800 ≤ ev ∧ ev < 0x900 ∧ ev % 0x10 = 3 then some msTicks
  else if 0xA00 ≤ ev ∧ ev < 0xA40 ∧ ev % 0x10 = 4 then some msTicks
  else if 0xC40 ≤ ev ∧ ev < 0xC80 then some msTicks
  else none

/-- The newest rule that covers an identifier; every event routes to EVQ0, vector 0xFFFF, at power-up (R433). -/
def eventRouteOf (s : State) (ev : Nat) : EventRoute :=
  match s.evt.routes.find? (fun r => decide (r.first ≤ ev ∧ ev ≤ r.last)) with
  | some r => r
  | none => ⟨0, 0xFFF, 0, 0xFFFF, none⟩

/-- Whether an identifier is masked (R435, R473). -/
def eventMasked (s : State) (ev : Nat) : Bool := (s.reg (kEvtMask (ev / 32))).getLsbD (ev % 32)

/-- The 32-byte entry of an event (R430). -/
def eventEntry (e : Event) (phase : Bool) : Data :=
  le 2 e.ev ++ le 2 (b2n phase + 2 * b2n e.forwarded) ++ le 2 e.srcDid ++ le 2 0 ++ le 8 e.tick ++ le 8 e.data0 ++ le 8 e.data1

/-- Write an entry into an EVQ whatever its free space, signal a vector of its own if it has one (R434), and moderate. -/
def evqPut (n : Fin 4) (e : Event) (vector : Nat) (s : State) : State :=
  let q := s.mbx.evqs[n]
  let s := hostWrite (q.base + q.tail * 32) (eventEntry e q.phase) s
  let s := setEvq n (fun q => q.advance.count s.clk.up) s
  let s := if vector = 0xFFFF then s else signalVector vector s
  if s.mbx.evqs[n].due then signalVector s.mbx.evqs[n].vector (setEvq n OutQueue.announced s) else s

/-- The overflow entry of an EVQ (R431, R432). -/
def overflowEntry (s : State) (lost : Nat) : Event := ⟨0x012, s.clk.tick, lost, 0, false, s.link.did⟩

/-- The status bit of one occurrence at a tick, the count of bits set and the first capture with that tick (R473). -/
def setEventStatus (ev tick : Nat) (s : State) : State :=
  let k := kEvtStatus (ev / 32)
  if (s.reg k).getLsbD (ev % 32) then s
  else
    let s := s.setField k (ev % 32) (ev % 32) 1
    let s := s.countWrap kEvtSets 1
    if s.field kEvtFirst 15 0 = 0xFFFF then
      (s.setField kEvtFirst 15 0 ev).setReg64 kEvtFirstLo kEvtFirstHi tick
    else s

/-- Count events that an EVQ did not deliver. -/
def evqLost (n : Fin 4) (k : Nat) (s : State) : State := s.countSat (kEvq n 0x14) k

/-- End an overflow once two entries are free (R431). -/
def evqResume (n : Fin 4) (s : State) : State :=
  let q := s.mbx.evqs[n]
  if q.overflow ∧ 2 ≤ q.free then
    setEvq n (fun q => { q with overflow := false, lostNow := 0 })
      (setEventStatus 0x012 s.clk.tick (evqPut n (overflowEntry s q.lostNow) 0xFFFF s))
  else s

/-- Deliver one event into an enabled EVQ; false where it was lost to overflow (R431). -/
def evqDeliver (n : Fin 4) (e : Event) (vector : Nat) (s : State) : Bool × State :=
  let s := evqResume n s
  let q := s.mbx.evqs[n]
  if q.overflow then (false, evqLost n 1 (setEvq n (fun q => { q with lostNow := q.lostNow + 1 }) s))
  else if 2 ≤ q.free then (true, evqPut n e vector s)
  else
    let s := setEventStatus 0x012 s.clk.tick (evqPut n (overflowEntry s 0) 0xFFFF s)
    (false, evqLost n 1 (setEvq n (fun q => { q with overflow := true, lostNow := 1 }) s))

/-- Hold an event in a pending log of 256 entries; the oldest are lost (R432). -/
def evqLog (n : Fin 4) (e : Event) (s : State) : State :=
  let l := s.evt.logs[n] ++ [e]
  if 256 < l.length then
    { s with evt := { s.evt with logs := s.evt.logs.set n (l.drop 1), logLost := vmod s.evt.logLost n (· + 1) } }
  else { s with evt := { s.evt with logs := s.evt.logs.set n l } }

/-- Queue or log an event at the EVQ it is routed to; true where an entry was written or logged (R432). -/
def evqAccept (n : Fin 4) (e : Event) (vector : Nat) (s : State) : Bool × State :=
  if mbxReady s ∧ s.mbx.evqs[n].enabled then evqDeliver n e vector s else (true, evqLog n e s)

/-- An EVQ by number. -/
def evqIndex (n : Nat) : Option (Fin 4) := if h : n < 4 then some ⟨n, h⟩ else none

/-- Forward an event to the proxy its route names (R375): the entry as payload, EVQ and vector in aux. -/
def forwardEvent (did : Nat) (r : EventRoute) (e : Event) (s : State) : State :=
  let p := mkPacket s ptMsg 3 did 0 e.tick (r.evq + r.vector * 2 ^ 16)
  send { p with payload := eventEntry e false } s

/-- Send an event on its route; true where an entry was produced. -/
def routeEvent (e : Event) (s : State) : Bool × State :=
  let r := eventRouteOf s e.ev
  match r.proxy with
  | some did => if r.evq = 0xFF then (false, s) else (true, forwardEvent did r e s)
  | none => match evqIndex r.evq with
    | some n => evqAccept n e r.vector s
    | none => (false, s)

/-- The last 256 events are kept for the monitor (R550). -/
def recentKept : Nat := 256

/-- Raise an event at a tick (R430 to R435, R473, R592). Weight is how many occurrences it stands for in the counts
since the last entry, weight2 the same for a second counter. -/
def raiseW (ev tick weight weight2 : Nat) (vals : List Val) (s : State) : State :=
  let s := setEventStatus ev tick s
  let a := s.evt.sinceEntry.at_ ev + weight
  let b := s.evt.sinceEntry.at_ (ev + 0x1000) + weight2
  let d := packVals a b vals []
  let e : Event := ⟨ev, tick, u64At d 0, u64At d 8, false, s.link.did⟩
  let s := { s with evt := { s.evt with recent := (s.evt.recent ++ [e]).drop (s.evt.recent.length + 1 - recentKept) } }
  let counted := (eventPeriod ev).isSome
  let s := if counted then
      { s with evt := { s.evt with sinceEntry := (s.evt.sinceEntry.put ev a).put (ev + 0x1000) b } } else s
  let held : Bool := match eventPeriod ev with
    | none => false
    | some p => match s.evt.lastEntry.at_ ev with
      | 0 => false
      | t => decide (s.clk.up < t - 1 + p)
  if eventMasked s ev ∨ held ∨ s.boot.phase = .restarting then s   -- no entry from a watchdog expiry to ready (R566)
  else
    let r := routeEvent e s
    if r.1 ∧ counted then
      { r.2 with evt := { r.2.evt with lastEntry := r.2.evt.lastEntry.put ev (s.clk.up + 1),
                                        sinceEntry := (r.2.evt.sinceEntry.put ev 0).put (ev + 0x1000) 0 } }
    else r.2

/-- Raise an event at a tick. -/
def raiseAt (ev tick : Nat) (vals : List Val) (s : State) : State := raiseW ev tick 1 0 vals s
/-- Raise an event now. -/
def raise (ev : Nat) (vals : List Val) (s : State) : State := raiseW ev s.clk.tick 1 0 vals s

/-- Deliver the pending log of an EVQ in order of occurrence (R432). -/
def deliverLog (n : Fin 4) (s : State) : State :=
  let lost := s.evt.logLost[n]
  let log := s.evt.logs[n]
  let s := { s with evt := { s.evt with logs := s.evt.logs.set n [], logLost := s.evt.logLost.set n 0 } }
  let s := if lost = 0 then s
    else evqLost n lost (evqDeliver n (overflowEntry s lost) 0xFFFF (setEventStatus 0x012 s.clk.tick s)).2
  forL log (fun e s => (evqDeliver n e (eventRouteOf s e.ev).vector s).2) s

/-! ## Discarded accesses -/

/-- An uncorrectable error is logged in AER: a new status bit raises the event with the first error pointer; those that the engine
reports are advisory, and stand in the correctable status too (R411, R412; log 134). -/
def aerLog (n : Nat) (s : State) : State :=
  let s := setCfg 0x110 (cfgDword s 0x110 ||| 0x2000) s
  let v := cfgDword s 0x104
  if v.getLsbD n then s
  else
    let first := if v = 0 then n else (cfgDword s 0x118).toNat % 32
    raise 0x0E4 [.h first] (setCfg 0x118 (BitVec.ofNat 32 first) (setCfg 0x104 (v ||| BitVec.ofNat 32 (2 ^ n)) s))
/-- AER status bits of a poisoned TLP and of an Unsupported Request (PRESUMED from the PCI Express specification; log 134). -/
def aerPoisoned : Nat := 12
def aerUnsupported : Nat := 20

/-- Count a discarded write in HIF_BAD_WRITES and raise EV 0x0E3 (R389, R412). -/
def badWrite (s : State) : State := raiseW 0x0E3 s.clk.tick 1 0 [.since, .since2] (s.countSat kBadWrites 1)
/-- A write of a size or with byte enables that its target does not take: discarded, counted, and logged (R389, R411). -/
def refusedWrite (s : State) : State := badWrite (aerLog aerUnsupported s)
/-- Count a refused BAR4 request in HIF_BAR4_UR and raise EV 0x0E3 (R390, R391, R412). -/
def refuseBar4 (s : State) : State := raiseW 0x0E3 s.clk.tick 0 1 [.since, .since2] (s.countSat kBar4Ur 1)

end Sys2Proof.Machine
end

