-- ==== Sys2Proof/Machine/Operands.lean ====
section
/-! DEFINITION. Operand forms of the mailbox commands: the 64-byte entry (R417), the ordered checks of R428 with the
status codes of R427, and the completion of a command (R418, R419), local or forwarded (R373). -/

namespace Sys2Proof.Machine

/-! ## The entry (R417) -/

def Cmd.opcode (c : Cmd) : Nat := u16At c.bytes 0x00
def Cmd.flags (c : Cmd) : Nat := u16At c.bytes 0x02
def Cmd.tag (c : Cmd) : Nat := u32At c.bytes 0x04
def Cmd.fence (c : Cmd) : Bool := bit c.flags 0
def Cmd.noWait (c : Cmd) : Bool := bit c.flags 1
def Cmd.noIrq (c : Cmd) : Bool := bit c.flags 2
/-- Parameters of an entry by offset. -/
def Cmd.p8 (c : Cmd) (o : Nat) : Nat := u8At c.bytes o
def Cmd.p16 (c : Cmd) (o : Nat) : Nat := u16At c.bytes o
def Cmd.p32 (c : Cmd) (o : Nat) : Nat := u32At c.bytes o
def Cmd.p64 (c : Cmd) (o : Nat) : Nat := u64At c.bytes o

/-! ## Status codes (R427) -/

def stOk : Nat := 0x00
def stBusy : Nat := 0x01
def stBadOpcode : Nat := 0x02
def stBadParam : Nat := 0x03
def stNoResource : Nat := 0x04
def stPowerDeferred : Nat := 0x05
def stPowerDenied : Nat := 0x06
def stState : Nat := 0x07
def stRecordTooLarge : Nat := 0x08
def stAuth : Nat := 0x09
def stLink : Nat := 0x0A
def stAborted : Nat := 0x0B
def stInternal : Nat := 0x0C

/-- One check: none passes, otherwise the status code and aux it fails with. -/
abbrev Check := Option (Nat × Nat)

/-- The first failure in order (R428). -/
def firstFail : List Check → Check
  | [] => none
  | some f :: _ => some f
  | none :: cs => firstFail cs

/-- A check that fails with a status and aux unless a condition holds. -/
def need (ok : Bool) (status aux : Nat) : Check := if ok then none else some (status, aux)
/-- E_STATE unless a condition holds. -/
def needState (ok : Bool) (aux : Nat := 0) : Check := need ok stState aux
/-- Several fields judged together: E_BAD_PARAM with the lowest offending offset (R427). -/
def params (l : List (Nat × Bool)) : Check :=
  match (l.filter (fun x => !x.2)).map Prod.fst with
  | [] => none
  | o :: os => some (stBadParam, os.foldl min o)
/-- The same for fields of a descriptor or block, coded 0x1_0000 + offset. -/
def descParams (l : List (Nat × Bool)) : Check := params (l.map fun x => (0x10000 + x.1, x.2))

/-- The offsets lo to hi-1 that no listed field covers and that hold a non-zero byte. -/
def strayBytes (d : Data) (lo hi : Nat) (used : List (Nat × Nat)) : List (Nat × Bool) :=
  ((List.range (hi - lo)).map (· + lo)).filterMap fun o =>
    if used.any (fun u => decide (u.1 ≤ o ∧ o < u.1 + u.2)) ∨ u8At d o = 0 then none else some (o, false)

/-- Step 2 of R428: flags, bytes no parameter covers, and the fields that name the command's object, given as the
used fields (offset, length) and the object tests. -/
def entryCheck (c : Cmd) (used : List (Nat × Nat)) (objects : List (Nat × Bool)) : Check :=
  params ((0x02, decide (c.flags < 8)) :: strayBytes c.bytes 0x08 0x40 used ++ objects)

/-- A buffer address is 64-byte aligned. -/
def aligned64 (a : Nat) : Bool := a % 64 = 0

/-- Step 3 of R428 in state LIMITED: the commands of R102, and STORE_MAP_QUERY, which succeeds in every store state and reports LIMITED
(R110), are accepted. -/
def limitedAllows (opcode : Nat) : Bool :=
  [0x0001, 0x0002, 0x0003, 0x0202, 0x0900, 0x0B00, 0x0B01, 0x0B02, 0x0B10, 0x0B11].contains opcode
def deviceCheck (s : State) (c : Cmd) : Check :=
  needState (s.mbx.state ≠ .limited || limitedAllows c.opcode) 2

/-! ## Completion -/

/-- Remove a command from those in progress. -/
def dropCmd (id : Nat) (s : State) : State := { s with mbx := { s.mbx with cmds := s.mbx.cmds.filter (·.id ≠ id) } }
/-- Change a command in progress. -/
def setCmd (id : Nat) (f : Cmd → Cmd) (s : State) : State :=
  { s with mbx := { s.mbx with cmds := lmod s.mbx.cmds (·.id = id) f } }
/-- Find a command in progress. -/
def findCmd (s : State) (id : Nat) : Option Cmd := s.mbx.cmds.find? (·.id = id)

/-- A completion entry (R418). -/
def completionEntry (tag status flags r0 r1 aux : Nat) : Data :=
  le 4 tag ++ le 2 status ++ le 2 flags ++ le 8 r0 ++ le 8 r1 ++ le 4 aux ++ le 4 0

/-- The flags field: PHASE, the CMDQ and its HEAD (R418). -/
def completionFlags (phase : Bool) (q : Fin 8) (head : Nat) : Nat := b2n phase + 2 * q.val + 16 * head

/-- Write a completion into a CPLQ (R419), or count it where the CPLQ is disabled (R416). -/
def cplqWrite (q n : Fin 8) (noIrq : Bool) (tag status r0 r1 aux : Nat) (s : State) : State :=
  let o := s.mbx.cplqs[n]
  if ¬ o.enabled then s.countSat kCplDropped 1
  else
    let e := completionEntry tag status (completionFlags o.phase q s.mbx.cmdqs[q].head) r0 r1 aux
    let s := hostWrite (o.base + o.tail * 32) e s
    if noIrq then setCplq n OutQueue.advance s
    else
      let s := setCplq n (fun o => o.advance.count s.clk.up) s
      if s.mbx.cplqs[n].due then signalVector s.mbx.cplqs[n].vector (setCplq n OutQueue.announced s) else s

/-- The payload of a forwarded completion: the completion entry, then each block as address, length and bytes. -/
def forwardedPayload (entry : Data) (blocks : List (Nat × Data)) : Data :=
  entry ++ (blocks.flatMap fun b => le 8 b.1 ++ le 4 b.2.length ++ b.2)

/-- Complete a command: it leaves the commands in progress and its completion goes to its CPLQ or its proxy. -/
def complete (c : Cmd) (status r0 r1 aux : Nat) (s : State) : State :=
  let c := (findCmd s c.id).getD c
  let s := dropCmd c.id s
  match c.origin with
  | .queue q => cplqWrite q c.cplq c.noIrq c.tag status r0 r1 aux s
  | .peer did tag =>
    let p := mkPacket s ptMsg 2 did tag 0 0
    send { p with payload := forwardedPayload (completionEntry c.tag status 0 r0 r1 aux) c.blocks } s

/-- Complete with OK. -/
def done (c : Cmd) (r0 r1 : Nat) (s : State) : State := complete c stOk r0 r1 0 s
/-- Complete with a failed check. -/
def fail (c : Cmd) (f : Nat × Nat) (s : State) : State := complete c f.1 0 0 f.2 s

/-- Write a block a command names: to host memory, or kept for its proxy (R373). -/
def writeBlock (c : Cmd) (a : Nat) (d : Data) (s : State) : State := match c.origin with
  | .queue _ => hostWrite a d s
  | .peer _ _ => setCmd c.id (fun c => { c with blocks := c.blocks ++ [(a, d)] }) s

/-- The command waits for a grant, a tick or an engine action before it completes. -/
def wait (c : Cmd) (s : State) : State := setCmd c.id (fun c => { c with waiting := true }) s

/-- Run the body of a mailbox command: the started command of that number, not waiting, with that opcode and selector.
Where there is none the row does not apply and nothing changes. -/
def runCmd (id opcode : Nat) (sel : Cmd → Bool) (body : Cmd → State → State) (s : State) : State :=
  match findCmd s id with
  | some c => if c.started ∧ ¬ c.waiting ∧ c.opcode = opcode ∧ sel c then body c s else s
  | none => s

/-- Every command of an opcode. -/
def anyCmd (_ : Cmd) : Bool := true
/-- The commands whose selector byte at an offset has a value. -/
def selByte (o v : Nat) (c : Cmd) : Bool := c.p8 o = v

/-- Run the checks in order and fail with the first failure, else go on (R428). -/
def checked (c : Cmd) (checks : List Check) (ok : State → State) (s : State) : State :=
  match firstFail checks with
  | some f => fail c f s
  | none => ok s

/-- Go on with what a host buffer held; a failed read completes E_ABORTED, aux 1 (R429). -/
def withBuffer (c : Cmd) (r : HostRead) (ok : Data → State → State) (s : State) : State := match r with
  | some d => ok d s
  | none => complete c stAborted 0 0 1 s

end Sys2Proof.Machine
end

