-- ==== Sys2Proof/Machine/PowerOps.lean ====
section
/-! DEFINITION. The two ledgers of the firmware: the power ledger with its request FIFO (R500 to R507) and the store
ledger (R24 to R26). Costs are in units of 0.1 W, store rates in kB/s. -/

namespace Sys2Proof.Machine

/-! ## The power ledger -/

/-- The base cost, granted at power-up (R501). -/
def powerBase : Nat := 380
/-- Power classes of R507. -/
def pcInlet : Nat := 0
def pcTask : Nat := 1
def pcStream : Nat := 2
def pcLink : Nat := 3
def pcRetro : Nat := 4
def pcCal : Nat := 5
def pcMode : Nat := 6

/-- The cost of a list of (class, units) items. -/
def cost (items : List (Nat × Nat)) : Nat := (items.map Prod.snd).sum
/-- The granted total, base included. -/
def Power.granted_ (p : Power) : Nat := powerBase + (p.grants.map fun g => cost g.items).sum
/-- The granted total of one class. -/
def Power.classTotal (p : Power) (cls : Nat) : Nat := (p.grants.map fun g => cost (g.items.filter (·.1 = cls))).sum
/-- Store traffic costs 0.4 units per GB/s, rounded up (R501). -/
def storeUnits (kbs : Nat) : Nat := ceilDiv (kbs * 4) 10000000

/-- How a power request ends at once (R425, R426, R502, R503). -/
inductive PowerOutcome
  | granted
  | queued
  | denied
  | deferred
  | busy
deriving DecidableEq, Repr

/-- Change the power ledger. -/
def setPower (f : Power → Power) (s : State) : State := { s with pwr := f s.pwr }

/-- Add a grant. -/
def grantItems (owner : Owner) (items : List (Nat × Nat)) (s : State) : State :=
  setPower (fun p => { p with grants := p.grants ++ [⟨owner, items⟩], granted := satN 32 (p.granted + 1) }) s

/-- Deny a request: counted, EV 0xB53 (R503). -/
def denyPower (tag : U32) (units : Nat) (s : State) : State :=
  raise 0xB53 [.w tag.toNat, .w units] (setPower (fun p => { p with denied := satN 32 (p.denied + 1) }) s)

/-- Put a request at the tail of the queue: counted once, EV 0xB51 (R503). -/
def queuePower (r : PowerReq) (s : State) : State :=
  raise 0xB51 [.w r.tag.toNat, .w (cost r.items)]
    (setPower (fun p => { p with queue := p.queue ++ [r], deferrals := satN 32 (p.deferrals + 1) }) s)

/-- Whether a cost can ever be granted under the effective limit (R502). -/
def powerPossible (p : Power) (units : Nat) : Bool := powerBase < p.effective ∧ units ≤ p.effective - powerBase
/-- Whether a cost fits now. -/
def powerFits (p : Power) (units : Nat) : Bool := p.granted_ + units ≤ p.effective

/-- Decide a command's request (R502, R425, R426). -/
def requestPower (c : Cmd) (owner : Owner) (items : List (Nat × Nat)) (s : State) : PowerOutcome × State :=
  let tag := BitVec.ofNat 32 c.tag
  if ¬ powerPossible s.pwr (cost items) then (.denied, denyPower tag (cost items) s)
  else if s.pwr.queue = [] ∧ powerFits s.pwr (cost items) then (.granted, grantItems owner items s)
  else if c.noWait then (.deferred, setPower (fun p => { p with nowait := satN 32 (p.nowait + 1) }) s)
  else if 64 ≤ s.pwr.queue.length then (.busy, s)
  else (.queued, queuePower ⟨owner, items, tag, c.opcode, s.clk.up, some c.id⟩ s)

/-- Decide an engine-internal request: it is never deferred, and it is denied where 64 requests are queued (R503).
Tags: 1 backfill, 2 re-placement, 3 store retrain, 4 port training (R507). -/
def requestInternal (tag : Nat) (owner : Owner) (items : List (Nat × Nat)) (s : State) : PowerOutcome × State :=
  let t := BitVec.ofNat 32 tag
  if ¬ powerPossible s.pwr (cost items) then (.denied, denyPower t (cost items) s)
  else if s.pwr.queue = [] ∧ powerFits s.pwr (cost items) then (.granted, grantItems owner items s)
  else if 64 ≤ s.pwr.queue.length then (.denied, denyPower t (cost items) s)
  else (.queued, queuePower ⟨owner, items, t, 0, s.clk.up, none⟩ s)

/-- Release every grant of an owner and forget its queued requests (R504). -/
def releasePower (owner : Owner) (s : State) : State :=
  setPower (fun p => { p with grants := p.grants.filter (·.owner ≠ owner), queue := p.queue.filter (·.owner ≠ owner) }) s

/-- Whether an owner holds a grant. -/
def holdsPower (s : State) (owner : Owner) : Bool := s.pwr.grants.any (·.owner = owner)
/-- Whether an owner waits in the queue. -/
def waitsPower (s : State) (owner : Owner) : Bool := s.pwr.queue.any (·.owner = owner)

/-- Finish a command by the outcome of its power request: go on, wait, or release and complete (R19, R426). -/
def afterPower (c : Cmd) (units : Nat) (r : PowerOutcome × State) (granted queued released : State → State) : State :=
  match r.1 with
  | .granted => granted r.2
  | .queued => queued (wait c r.2)
  | .denied => complete c stPowerDenied 0 0 units (released r.2)
  | .deferred => complete c stPowerDeferred 0 0 units (released r.2)
  | .busy => complete c stBusy 0 0 0 (released r.2)

/-- The hottest and the coolest junction sensor, 1/64 °C. -/
def tjMax (s : State) : Int := s.brz.temps.toList.foldl max s.brz.temps[0]
def tjMin (s : State) : Int := s.brz.temps.toList.foldl min s.brz.temps[0]

/-- The effective limit: 50 units less for each started degree above 100.0 °C, with a floor of 300 (R505). -/
def effectiveLimit (limit : Nat) (tj : Int) : Nat :=
  if tj ≤ 6400 then limit
  else max 300 (limit - 50 * ((tj - 6400 + 63).toNat / 64))

/-! ## The store ledger -/

/-- Ledger classes in the order of R110. -/
def lcHistory : Nat := 0
def lcTileRead : Nat := 1
def lcRecords : Nat := 3
def lcLinks : Nat := 4
def lcDensity : Nat := 6

/-- B_eff in kB/s: 590 GB/s with ECC, 640 without, at 24 Gbit/s per pin, in proportion to the trained rate (R24, R70). -/
def bEff (st : Store) : Nat := (if st.cfg.ecc then 590000000 else 640000000) * st.pinRate / 24

/-- The sum of the reservations of one class made by objects. -/
def ledgerClass (st : Store) (cls : Nat) : Nat := ((st.ledger.filter (·.cls = cls)).map (·.kbs)).sum

/-- The fixed reservations (R25): DMA and host 10 GB/s, display fetch 2 GB/s, control processor 5 GB/s. -/
def ledgerFixed : Nat := 17000000
/-- Link reservations of all ports together are capped at 120 GB/s (R25); density exports at 4 GB/s. -/
def ledgerLinks (st : Store) : Nat := min 120000000 (ledgerClass st lcLinks)
def ledgerDensity (st : Store) : Nat := min 4000000 (ledgerClass st lcDensity)

/-- All reservations but the retro and backfill class. -/
def ledgerSum (st : Store) : Nat :=
  ledgerClass st lcHistory + ledgerClass st lcTileRead + ledgerClass st lcRecords + ledgerLinks st + ledgerDensity st + ledgerFixed

/-- The retro and backfill figure: the lesser of 60 GB/s and what is left (R25, R26). -/
def ledgerRetro (st : Store) : Nat := min 60000000 (bEff st - ledgerSum st)

/-- Add reservations of an owner. -/
def addReservations (owner : Owner) (items : List (Nat × Nat)) (s : State) : State :=
  { s with store := { s.store with ledger := s.store.ledger ++ items.map fun i => ⟨owner, i.1, i.2⟩ } }

/-- Reserve in the store ledger: the sum stays within B_eff with at least 30 GB/s left for retro and backfill (R24, R26). -/
def reserveStore (owner : Owner) (items : List (Nat × Nat)) (s : State) : Option State :=
  let s' := addReservations owner items s
  if ledgerSum s'.store + 30000000 ≤ bEff s'.store then some s' else none

/-- Go on with the state an admission leaves, or stop short where it grants nothing. -/
def ifAdmitted (r : Option State) (short : State) (go : State → State) : State := match r with
  | some s => go s
  | none => short

/-- Release the reservations of an owner. -/
def releaseStore (owner : Owner) (s : State) : State :=
  { s with store := { s.store with ledger := s.store.ledger.filter (·.owner ≠ owner) } }

/-- Release everything an owner holds. -/
def releaseAll (owner : Owner) (s : State) : State := releasePower owner (releaseStore owner s)

end Sys2Proof.Machine
end

