-- ==== Sys2Proof/Machine/StoreOps.lean ====
section
/-! DEFINITION. The central store's shared operations: capacity and regions (R69, R85, R86), reads and writes with
poison (R77 to R80), the hash masks (R73, R74), and the hole lists of the HISTORY rings (R55, R65, R91). -/

namespace Sys2Proof.Machine

/-- Whether the memory synthesizer has lost its lock: the controller then issues nothing but refreshes (R104). -/
def memoryUnlocked (s : State) : Bool := s.clk.synths[1].state = .holdover ∨ s.clk.synths[1].state = .bypass
/-- Whether the store serves reads and writes now: in SELF_REFRESH they wait for its exit, and without the memory synthesizer's lock
the controller issues none (R81, R104, R107, R110). -/
def storeServes (s : State) : Bool := s.store.state = .ready && !memoryUnlocked s
/-- Whether a requester is throttled for row disturbance (R99). -/
def throttled (s : State) (rq : Nat) : Bool := s.store.throttles.any (·.requester = rq)
/-- The GAP cause of a loss: 8 in place of its own while the requester of the traffic that is lost is throttled (R100). -/
def lossCause (s : State) (rq cause : Nat) : Nat := if throttled s rq then 8 else cause

/-- Region type codes (R85). -/
def rtHistory : Nat := 0
def rtSpectra : Nat := 1
def rtAcq : Nat := 2
def rtStage : Nat := 3
def rtDensity : Nat := 4
def rtDisplay : Nat := 5
def rtDma : Nat := 6
def rtFirmware : Nat := 7

def mib : Nat := 1048576
def gib : Nat := 1073741824
/-- The extent that regions and rings are made of (R86, R89). -/
def extent : Nat := 2 * mib

/-- Requester identities of R98. -/
def rqTile : Nat := 4
def rqRetro : Nat := 5
def rqTailwind : Nat := 6
def rqLink : Nat := 7
def rqDma : Nat := 8
def rqDisplay : Nat := 9
def rqCpu : Nat := 10
def rqHost : Nat := 11

/-- Usable capacity (R69, R84): fitted, less one sixteenth for check rows with ECC. -/
def usable (st : Store) : Nat :=
  let fitted := if st.clamshell then 32 * gib else 16 * gib
  if st.cfg.ecc then fitted / 16 * 15 else fitted

/-- The region of a type. -/
def Store.region (st : Store) (type : Nat) : Option Region := st.regions.find? (·.type = type)
/-- The region an address lies in. -/
def Store.regionAt (st : Store) (a : Nat) : Option Region := st.regions.find? fun r => decide (r.base ≤ a ∧ a < r.base + r.size)
/-- Whether a span lies within the region of a type. -/
def Store.within (st : Store) (type a n : Nat) : Bool := match st.region type with
  | some r => decide (r.base ≤ a ∧ a + n ≤ r.base + r.size)
  | none => false

/-- The free spans between the regions, in address order. -/
def freeSpans (cap : Nat) : Nat → List Region → List (Nat × Nat)
  | lo, [] => if lo < cap then [(lo, cap - lo)] else []
  | lo, r :: rs => (if lo < r.base then [(lo, r.base - lo)] else []) ++ freeSpans cap (r.base + r.size) rs

/-- Regions in address order. -/
def sortedRegions (st : Store) : List Region := sortBy (·.base) st.regions
/-- The free spans of the store. -/
def Store.free (st : Store) : List (Nat × Nat) := freeSpans (usable st) 0 (sortedRegions st)
/-- The largest free span. -/
def Store.largestFree (st : Store) : Nat := (st.free.map Prod.snd).foldl max 0
/-- The lowest free span that fits (R86). -/
def Store.fit (st : Store) (n : Nat) : Option Nat := (st.free.find? fun f => decide (n ≤ f.2)).map Prod.fst

/-- Default sizes of the region types (R85). -/
def defaultSizes (clamshell : Bool) : List (Nat × Nat) :=
  if clamshell then [(7, gib), (0, 24 * gib), (1, 2 * gib), (2, 2 * gib), (3, 512 * mib), (4, 128 * mib), (5, 256 * mib), (6, 128 * mib)]
  else [(7, gib), (0, 11 * gib), (1, gib), (2, gib), (3, 512 * mib), (4, 128 * mib), (5, 256 * mib), (6, 128 * mib)]

/-- Place regions one after another from an address. -/
def placeRegions : Nat → List (Nat × Nat) → List Region
  | _, [] => []
  | a, (t, n) :: rs => ⟨t, a, n⟩ :: placeRegions (a + n) rs

/-- The default regions, FIRMWARE first at address 0 (R85). -/
def defaultRegions (clamshell : Bool) : List Region := placeRegions 0 (defaultSizes clamshell)

/-- Change the store. -/
def setStore (f : Store → Store) (s : State) : State := { s with store := f s.store }

/-! ## Sectors and poison -/

/-- The 32-byte sector of an address (R75). -/
def sectorOf (a : Nat) : Nat := a / 32
/-- The sectors a span touches, and those it covers whole. -/
def sectorsOf (a n : Nat) : List Nat := if n = 0 then [] else (List.range (sectorOf (a + n - 1) + 1 - sectorOf a)).map (· + sectorOf a)
def wholeSectors (a n : Nat) : List Nat := (sectorsOf a n).filter fun k => decide (a ≤ k * 32 ∧ k * 32 + 32 ≤ a + n)
/-- Whether a span touches a poisoned sector (R79). -/
def spanPoisoned (st : Store) (a n : Nat) : Bool := (sectorsOf a n).any st.poison.contains
/-- Count poisoned sectors in the life ledger (R569). -/
def countPoisoned (n : Nat) (s : State) : State := { s with life := { s.life with poisoned := satN 32 (s.life.poisoned + n) } }
/-- The parts of scrambled spans outside a span. -/
def cutScrambled (a n : Nat) (l : List Scrambled) : List Scrambled := l.flatMap fun x =>
  if x.base + x.size ≤ a ∨ a + n ≤ x.base ∨ n = 0 then [x]
  else (if x.base < a then [{ x with size := a - x.base }] else []) ++
    (if a + n < x.base + x.size then [{ x with base := a + n, size := x.base + x.size - (a + n) }] else [])
/-- The bytes of a span become free values, of a version of their own where one is given. -/
def scramble (a n : Nat) (version : Option Nat) (s : State) : State :=
  setStore (fun st => { st with mem := st.mem.filter (fun c => decide (c.1 < a ∨ a + n ≤ c.1)),
                                scrambled := cutScrambled a n st.scrambled ++ [⟨a, n, version⟩] }) s
/-- The engine writes into HISTORY: where is its own, so that every byte of the region is a free value from then on (R89). -/
def scrambleHistory (s : State) : State := match s.store.region rtHistory with
  | some r => if s.store.scrambled.contains ⟨r.base, r.size, none⟩ then s else scramble r.base r.size none s
  | none => s
/-- Poison the sectors a span touches: each is counted, and reported with its address and the requester. Without ECC there is no poison
pattern, and what such a write leaves is a free value (R79, R84, R110, R111, R391; log 131). -/
def poisonSpan (a n rq : Nat) (s : State) : State :=
  if ¬ s.store.cfg.ecc then scramble a n (some (2 ^ 64 + s.free)) { s with free := s.free + 1 }
  else
    let new := (sectorsOf a n).filter fun k => !s.store.poison.contains k
    let s := countPoisoned new.length (setStore (fun st =>
      { st with poison := st.poison ++ new, uncorrectable := st.uncorrectable + new.length,
                lastUncorrectable := (new.getLast?.map (· * 32)).getD st.lastUncorrectable }) s)
    forL (sectorsOf a n) (fun k s => raise 0x304 [.q (k * 32), .h rq] s) s
/-- Write bytes; a write that covers a whole sector clears its poison, a partial one leaves it poisoned (R80). -/
def storeWrite (a : Nat) (d : Data) (s : State) : State :=
  setStore (fun st =>
    { st with mem := Memory.write st.mem a d, scrambled := cutScrambled a d.length st.scrambled,
              poison := st.poison.filter fun k => !(wholeSectors a d.length).contains k }) s
/-- How often the rings' contents have changed. -/
def historyVersion (s : State) : Nat := (s.inlets.toList.map (·.ring.version)).sum
/-- The byte at a store address: where the engine has written HISTORY the layout is open, so the byte is a free value that depends on
the version of the rings' contents (R89); everywhere else it is the byte last written, zero after the fill of training (R83, R87). -/
def rawByte (s : State) (a : Nat) : Byte := match s.store.scrambled.find? fun x => decide (x.base ≤ a ∧ a < x.base + x.size) with
  | some x => Config.historyByte (x.version.getD (historyVersion s)) a
  | none => s.store.mem.byte a
/-- The bytes a raw read by store address returns. -/
def rawRead (s : State) (a : Nat) : Nat → Data
  | 0 => []
  | n + 1 => rawByte s a :: rawRead s (a + 1) n
/-- The bytes of a span as they stand. -/
def storeRead (s : State) (a n : Nat) : Data := rawRead s a n

/-! ## The channel hash (R73, R74) -/

/-- Pivot bits of CH0 to CH3, BG0, BG1, BA0, BA1. -/
def pivots : List Nat := [8, 9, 10, 11, 12, 13, 14, 15]
/-- The default masks of the fitted configuration. -/
def defaultMasks (clamshell : Bool) : List Nat :=
  [0x88880100, 0x111100200, 0x222200400, if clamshell then 0x444400800 else 0x44400800, 0x92481000, 0x124902000,
   0x249204000, if clamshell then 0x484208000 else 0x84208000]
/-- The highest row bit (R69). -/
def topRowBit (clamshell : Bool) : Nat := if clamshell then 34 else 33
/-- A mask is valid for its pivot (R74). -/
def maskValid (clamshell : Bool) (pivot m : Nat) : Bool :=
  m.testBit pivot && pivots.all (fun p => p = pivot || !m.testBit p) && m % 64 = 0 && m < 2 ^ (topRowBit clamshell + 1)
/-- The masks in use: those of the block, zero entries taking their defaults, if all eight are valid, else the defaults. -/
def masksOf (clamshell : Bool) (masks : List Nat) : List Nat × Bool :=
  let d := defaultMasks clamshell
  let m := (List.zip masks d).map fun x => if x.1 = 0 then x.2 else x.1
  if (List.zip pivots m).all (fun x => maskValid clamshell x.1 x.2) ∧ m.length = 8 then (m, false) else (d, true)
def masksInUse (st : Store) : List Nat := (masksOf st.clamshell st.cfg.masks).1
/-- Even parity of the bits of a number below 2^n. -/
def parity (x n : Nat) : Nat := popCount x n % 2
/-- The eight hashed outputs of a store address: CH0 to CH3, BG0, BG1, BA0, BA1 (R73). -/
def hashOutputs (st : Store) (a : Nat) : List Nat := (masksInUse st).map fun m => parity (a &&& m) 35
/-- The channel of a store address. -/
def channelOf (st : Store) (a : Nat) : Nat := match hashOutputs st a with
  | c0 :: c1 :: c2 :: c3 :: _ => c0 + 2 * c1 + 4 * c2 + 8 * c3
  | _ => 0
/-- The bank of a store address within its channel: bank group in bits 3:2, bank in bits 1:0. -/
def bankOf (st : Store) (a : Nat) : Nat := match hashOutputs st a with
  | [_, _, _, _, g0, g1, b0, b1] => b0 + 2 * b1 + 4 * g0 + 8 * g1
  | _ => 0
/-- The byte column within the 2 KiB row (R72). -/
def columnOf (a : Nat) : Nat := bits a 18 16 * 256 + bits a 7 6 * 64 + bits a 5 0
/-- The row (R69, R72). -/
def rowOf (st : Store) (a : Nat) : Nat := bits a (topRowBit st.clamshell) 19

/-! ## Inline ECC (R75, R76) -/

/-- Rows of a bank; the highest sixteenth, those whose four highest row bits are ones, are check rows. -/
def rowsPerBank (clamshell : Bool) : Nat := 2 ^ (topRowBit clamshell - 18)
def isCheckRow (clamshell : Bool) (row : Nat) : Bool := row / (rowsPerBank clamshell / 16) % 16 = 15
/-- The check row of a data row, in the same channel and bank, and the byte column of the check bits of the sector at a column. -/
def checkRowOf (clamshell : Bool) (row : Nat) : Nat := 15 * (rowsPerBank clamshell / 16) + row / 16
def checkColumnOf (row column : Nat) : Nat := row % 16 * 128 + 2 * (column / 32)

/-- What a sector's read meets: bits that are flipped among its 256 data bits and 16 check bits, and whether the stored address is
another sector's. -/
inductive EccResult
  | clean
  | corrected
  | uncorrectable
deriving DecidableEq, Repr
/-- How the code decodes a read: it corrects a single flipped bit and detects two, or an address mismatch; what it makes of three or
more flipped bits is a free value (R75; log 132). -/
def eccDecode (flips : List (Fin 272)) (mismatch : Bool) : EccResult :=
  if mismatch then .uncorrectable
  else match flips.dedup.length with
    | 0 => .clean
    | 1 => .corrected
    | 2 => .uncorrectable
    | _ => if Config.eccDetects (flips.map (·.val)) then .uncorrectable else .corrected

/-! ## Causes and holes -/

/-- Rank of a GAP cause, highest first 9, 3, 8, 2, 10, 7, 6, 4, 5, 1 (R559). -/
def causeRank (c : Nat) : Nat := match c with
  | 9 => 10 | 3 => 9 | 8 => 8 | 2 => 7 | 10 => 6 | 7 => 5 | 6 => 4 | 4 => 3 | 5 => 2 | 1 => 1 | _ => 0
/-- The higher-ranked of two causes. -/
def worseCause (a b : Nat) : Nat := if causeRank a < causeRank b then b else a

/-- The parts of a span that a hole leaves uncovered. -/
def cutSpan (h : Hole) (x : Hole) : List Hole :=
  if x.stop ≤ h.start ∨ h.stop ≤ x.start then [x]
  else (if x.start < h.start then [{ x with stop := h.start }] else []) ++ (if h.stop < x.stop then [{ x with start := h.stop }] else [])

/-- The parts of a new hole that no listed hole of its rank or above covers. -/
def newParts (n : Hole) (holes : List Hole) : List Hole :=
  (holes.filter fun h => !decide (causeRank h.cause < causeRank n.cause)).foldl (fun ps h => ps.flatMap (cutSpan h)) [n]
/-- Join holes of one cause that touch. -/
def joinHoles : List Hole → List Hole
  | [] => []
  | h :: hs => match joinHoles hs with
    | g :: gs => if h.stop = g.start ∧ h.cause = g.cause then { h with stop := g.stop } :: gs else h :: g :: gs
    | [] => [h]

/-- Add a hole: where spans overlap the higher-ranked cause stands, and no span is listed twice (R65). -/
def insertHole (n : Hole) (holes : List Hole) : List Hole :=
  let lower := holes.filter fun h => causeRank h.cause < causeRank n.cause
  let upper := holes.filter fun h => !decide (causeRank h.cause < causeRank n.cause)
  let rest := lower.flatMap (cutSpan n)
  let parts := newParts n holes
  joinHoles (sortBy (·.start) (rest ++ upper ++ parts))

/-- The index of the earliest pair of adjacent holes with the shortest interval between them. -/
def closestPair : List Hole → Nat → Option (Nat × Nat)
  | a :: b :: hs, i => match closestPair (b :: hs) (i + 1) with
    | some (j, d) => if b.start - a.stop ≤ d then some (i, b.start - a.stop) else some (j, d)
    | none => some (i, b.start - a.stop)
  | _, _ => none

/-- Merge the pair of holes at an index. -/
def mergeAt : Nat → List Hole → List Hole
  | 0, a :: b :: hs => ⟨a.start, b.stop, worseCause a.cause b.cause⟩ :: hs
  | n + 1, a :: hs => a :: mergeAt n hs
  | _, hs => hs

/-- The hole list's capacity (R91). -/
def holeListSize : Nat := 1024

/-- The holes of a ring that overlap a tick span. -/
def holesIn (r : Ring) (a b : Nat) : List Hole := r.holes.filter fun h => decide (h.start < b ∧ a < h.stop)

/-- Change one inlet. -/
def setInlet (n : Fin 4) (f : Inlet → Inlet) (s : State) : State := { s with inlets := vmod s.inlets n f }
/-- The event base of an inlet (R67). -/
def evInlet (n : Fin 4) (o : Nat) : Nat := 0x100 + n.val * 0x80 + o

/-- Ticks that holes cover; no tick is covered twice (R65). -/
def coveredTicks (holes : List Hole) : Nat := (holes.map fun h => h.stop - h.start).sum
/-- Those of them that are entries of their own: the others let the hole that they continue grow. -/
def newEntries (n : Hole) (holes : List Hole) : List Hole :=
  (newParts n holes).filter fun p => !(holes.any fun h => h.stop = p.start ∧ h.cause = p.cause)

/-- Merge the closest pair of an inlet's holes: the merge is counted and reported with the ring and the merged span (R91, R111). -/
def mergeClosest (n : Fin 4) (s : State) : State :=
  let l := s.inlets[n].ring.holes
  match closestPair l 0 with
  | some (i, _) =>
    let m := mergeAt i l
    let h := (m.drop i).headD ⟨0, 0, 0⟩
    let s := setInlet n (fun x => { x with ring := { x.ring with holes := m } }) s
    let s := setStore (fun st => { st with holeMerges := satN 32 (st.holeMerges + 1) }) s
    raiseAt 0x30F h.start [.h n.val, .q (h.stop - h.start)] s
  | none => s
/-- Merge as often as the list has holes beyond its 1,024. -/
def mergeHoles (n : Fin 4) (s : State) : State :=
  (List.range (s.inlets[n].ring.holes.length - holeListSize)).foldl (fun s _ => mergeClosest n s) s

/-- Enter a hole in an inlet's hole list (R55, R65, R67). A hole that arises while the store is HALTED has cause 9 (R104); a hole
that continues a listed one of its cause makes that one grow; holes beyond 1,024 are merged (R91). -/
def enterHole (n : Fin 4) (start stop cause : Nat) (s : State) : State :=
  if stop ≤ start then s
  else
    let h : Hole := ⟨start, stop, if s.store.state = .halted then 9 else cause⟩
    let old := s.inlets[n].ring.holes
    let l := insertHole h old
    let fresh := newEntries h old
    let s := setInlet n (fun i => { i with ring := { i.ring with holes := l }, holeCount := i.holeCount + fresh.length,
                                           holeTicks := i.holeTicks + (coveredTicks l - coveredTicks old) }) (scrambleHistory s)
    mergeHoles n (forL fresh (fun p s => raiseAt (evInlet n 0x05) p.start [.w (p.stop - p.start), .h p.cause] s) s)

end Sys2Proof.Machine
end

