-- ==== Sys2Proof/Machine/StreamOps.lean ====
section
/-! DEFINITION. Records (R284 to R289) and what a stream does with a record a producer publishes: acceptance, backlog,
discards and joined gaps (R291 to R294). Delivery and the stream commands are in Streams.lean. -/

namespace Sys2Proof.Machine

/-- Record types (R285). -/
def rtSpectrum : Nat := 0x0001
def rtIq : Nat := 0x0002
def rtAcqRec : Nat := 0x0003
def rtDensityRec : Nat := 0x0004
def rtSkFlags : Nat := 0x0005
def rtXcorr : Nat := 0x0006
def rtGap : Nat := 0x00F0
def rtMarker : Nat := 0x00F1

/-- Record flags (R284). -/
def rfBackfill : Nat := 1
def rfUncertain : Nat := 2
def rfClipped : Nat := 4
def rfFinal : Nat := 8

/-- The fields of a record header that its producer sets (R284). -/
structure RecHdr where
  type : Nat
  flags : Nat
  tStart : Nat
  tFrac : Nat
  srcCh : Nat
  epoch : Nat
  srcDid : Nat
  itemIndex : Nat
  itemCount : Nat
  aux : Nat
  cfgCrc : U32
  taskId : Nat
deriving DecidableEq, Repr

/-- The padded length of a record with a payload of n bytes (R286). -/
def paddedLen (n : Nat) : Nat := 64 + ceilDiv n 64 * 64

/-- The bytes of a record: header, payload and zero padding (R284, R286). -/
def recordBytes (h : RecHdr) (payload : Data) : Data :=
  le 2 h.type ++ le 1 1 ++ le 1 h.flags ++ le 4 payload.length ++ le 8 0 ++ le 8 h.tStart ++ le 2 h.tFrac ++ le 1 h.srcCh ++
  le 1 h.epoch ++ le 2 h.srcDid ++ le 2 0 ++ le 8 h.itemIndex ++ le 4 h.itemCount ++ le 4 h.aux ++ le 4 h.cfgCrc.toNat ++
  le 4 (if payload.isEmpty then 0 else (crc32c payload).toNat) ++ le 4 h.taskId ++ le 4 0 ++ payload ++
  zeros (paddedLen payload.length - 64 - payload.length)

/-- The stream_seq field filled in at delivery (R292). -/
def withSeq (r : Data) (seq : Nat) : Data := putAt r 0x08 (le 8 seq)
/-- Header fields read back from a record. -/
def recType (r : Data) : Nat := u16At r 0x00
def recFlags (r : Data) : Nat := u8At r 0x03
def recCause (r : Data) : Nat := u8At r 0x2C
def recHdr (r : Data) : RecHdr :=
  { type := u16At r 0, flags := u8At r 3, tStart := u64At r 0x10, tFrac := u16At r 0x18, srcCh := u8At r 0x1A,
    epoch := u8At r 0x1B, srcDid := u16At r 0x1C, itemIndex := u64At r 0x20, itemCount := u32At r 0x28, aux := u32At r 0x2C,
    cfgCrc := BitVec.ofNat 32 (u32At r 0x30), taskId := u32At r 0x38 }

/-- A GAP record for the producer of a header; the AT stands in the gaps of an acquisition (R287, R288). -/
def gapRecord (h : RecHdr) (cause tEnd bytesLost : Nat) : Data :=
  let at_ := if h.type = rtAcqRec ∨ h.type = rtGap then h.aux / 256 % 16 * 256 else 0
  recordBytes { h with type := rtGap, aux := at_ + cause } (le 8 tEnd ++ le 8 bytesLost)
/-- A MARKER record: no payload (R289). -/
def markerRecord (h : RecHdr) (code : Nat) : Data := recordBytes { h with type := rtMarker, aux := code } []

/-- A stream by number; 0xFF and every number above 15 name none. -/
def streamIndex (n : Nat) : Option (Fin 16) := if h : n < 16 then some ⟨n, h⟩ else none
/-- Change one stream. -/
def setStream (n : Fin 16) (f : Stream → Stream) (s : State) : State := { s with tw := vmod s.tw n f }
/-- The event base of a stream (R318). -/
def evStream (n : Fin 16) (o : Nat) : Nat := 0x800 + n.val * 0x10 + o

/-- Whether a stream takes records: OPEN or PAUSED. -/
def Stream.accepts (t : Stream) : Bool := t.state = .open_ ∨ t.state = .paused
/-- Whether a stream is open in the sense of R297. -/
def Stream.isOpen (t : Stream) : Bool := t.state ≠ .closed

/-- Queue an accepted record. -/
def enqueueRecord (n : Fin 16) (producer : Nat) (rec_ : Data) (addr : Option Nat) (stop : Nat) (s : State) : State :=
  setStream n (fun t => { t with queue := t.queue ++ [⟨producer, rec_, addr, 0, stop⟩], backlog := t.backlog + rec_.length }) s

/-- The GAP record of the discards a stream has joined for a producer (R294). -/
def joinedGap (g : StreamGap) : Data :=
  let h := recHdr g.header
  gapRecord { h with itemCount := g.count, flags := h.flags % 16 / 8 * 8 } g.cause g.tEnd g.bytesLost

/-- Accept the pending gap of one producer, outside the backlog limit (R294). -/
def flushGap (n : Fin 16) (producer : Nat) (s : State) : State :=
  match s.tw[n].gaps.find? (·.producer = producer) with
  | some g =>
    let s := setStream n (fun t => { t with gaps := t.gaps.filter (·.producer ≠ producer) }) s
    enqueueRecord n producer (joinedGap g) none g.tEnd s
  | none => s

/-- The GAP cause of a discard: 8 while Tailwind is throttled (R100), 6 while a peer stream cannot reach its receiver (R368), otherwise
1 (R293). -/
def discardCause (s : State) (t : Stream) : Nat := lossCause s rqTailwind <| if t.dest = 2 ∧ t.unreachableSince.isSome then 6 else 1

/-- Discard a record and join it to the producer's gap (R293, R294); the gap of a discarded GAP record keeps the
higher-ranked cause (R559). -/
def discardRecord (n : Fin 16) (producer : Nat) (rec_ : Data) (tEnd : Nat) (s : State) : State :=
  let t := s.tw[n]
  let h := recHdr rec_
  let c := worseCause (discardCause s t) (if h.type = rtGap then recCause rec_ else 0)
  let final := h.flags / 8 % 2 * 8
  let gaps := match t.gaps.find? (·.producer = producer) with
    | some _ => lmod t.gaps (·.producer = producer) fun g =>
        { g with count := satN 32 (g.count + h.itemCount), bytesLost := g.bytesLost + rec_.length, tEnd := tEnd,
                 cause := worseCause g.cause c, header := putAt g.header 3 (le 1 final) }
    | none => t.gaps ++ [⟨producer, putAt rec_ 3 (le 1 final), h.itemCount, rec_.length, tEnd, c⟩]
  let s := setStream n (fun t => { t with gaps := gaps, dropped := t.dropped + 1 }) s
  raise (evStream n 3) [.since] s

/-- Whether a record of n padded bytes can ever be written to a host ring (R299). -/
def fitsRing (t : Stream) (len : Nat) : Bool := t.dest ≠ 0 || decide (len + 4096 ≤ t.ringSize)

/-- A stream takes a record a producer publishes (R291 to R294). Room says whether the producer's region had space. -/
def offerRecord (n : Fin 16) (producer : Nat) (rec_ : Data) (tEnd : Nat) (addr : Option Nat) (room : Bool) (s : State) : State :=
  let t := s.tw[n]
  if t.state = .failed then setStream n (fun t => { t with dropped := t.dropped + 1 }) s
  else if ¬ t.accepts then s
  else if ¬ room ∨ t.backlogLimit < t.backlog + rec_.length ∨ ¬ fitsRing t rec_.length then discardRecord n producer rec_ tEnd s
  else
    let s := flushGap n producer s
    enqueueRecord n producer rec_ addr tEnd s

/-- Publish a record to a stream by number; without a stream that takes it the record stays in its own region (R291). -/
def publish (stream producer : Nat) (rec_ : Data) (tEnd : Nat) (addr : Option Nat) (room : Bool) (s : State) : State :=
  match streamIndex stream with
  | some n => offerRecord n producer rec_ tEnd addr room s
  | none => s

/-- Producer numbers of the streams' books: tasks by their id, then acquisition sources, maps, IQ channels, peers. -/
def prodAcq (no slot : Nat) : Nat := 2 ^ 40 + no * 64 + slot
def prodMap (m : Nat) : Nat := 2 ^ 80 + m
def prodIq (n c : Nat) : Nat := 2 ^ 81 + n * 64 + c
def prodPeer (did stream : Nat) (p : Nat) : Nat := 2 ^ 100 + (did * 16 + stream) * 2 ^ 48 + p

/-- Bytes of the two corner-turn blocks of a task (R143). -/
def TaskDesc.cornerBytes (d : TaskDesc) : Nat := if d.mode = 1 then 4 * 2 ^ d.nLog2 * 2 ^ d.fLog2 else 0
/-- The corner-turn blocks that stand in SPECTRA: (address, bytes). -/
def cornerBlocks (s : State) : List (Nat × Nat) := s.tasks.filterMap fun t => if t.desc.mode = 1 then some (t.cornerBase, t.desc.cornerBytes) else none
/-- Where the blocks of a task go: the highest span of SPECTRA that no other task's blocks touch, above the records (R143; log 29). -/
def cornerPlace (s : State) (r : Region) (n : Nat) : Option Nat :=
  let tops := (r.base + r.size) :: (cornerBlocks s).map Prod.fst
  let fits := tops.filter fun e => decide (r.base + n ≤ e ∧ e ≤ r.base + r.size) && (cornerBlocks s).all fun b => decide (e ≤ b.1 ∨ b.1 + b.2 ≤ e - n)
  match fits with
  | [] => none
  | _ => some (fits.foldl max 0 - n)
/-- Bytes of SPECTRA that the record ring has: all below the lowest corner-turn block. -/
def spectraRing (s : State) (r : Region) : Nat := ((cornerBlocks s).map Prod.fst).foldl min (r.base + r.size) - r.base

/-- The used task slots of a SPECTRA part (R229). -/
def AcqDef.slots (d : AcqDef) : List (Nat × Nat) :=
  if bit d.content 1 then ((List.range 4).zip d.tasks).filter fun x => x.2 ≠ 0 else []
/-- How long SPECTRA keeps the published records of a task: the longest span that a definition, or one that waits for its master's
acknowledgement, asks of it (R230). -/
def retainTicks (s : State) (id : Nat) : Nat :=
  ((s.squall.ats.toList.flatMap fun a => (a.def_.toList ++ a.registering.toList).filter fun d => d.slots.any (·.2 = id)).map
    fun d => d.preTicks + msTicks).foldl max 0
/-- Whether two spans of store addresses meet. -/
def spansMeet (a n b m : Nat) : Bool := decide (a < b + m ∧ b < a + n)
/-- Whether a span of the store holds a record that a stream has still to deliver (R293). -/
def pinsSpan (s : State) (a n : Nat) : Bool := s.tw.toList.any fun t => t.queue.any fun r => match r.addr with
  | some x => spansMeet x r.bytes.length a n
  | none => false
/-- Where the next record of n bytes goes in SPECTRA, a ring below the corner-turn blocks: none without the region, or where the place
still holds pinned records (R293). -/
def spectraPlace (s : State) (n : Nat) : Option Nat := match s.store.region rtSpectra with
  | none => none
  | some r =>
    let size := spectraRing s r
    let o := if size < s.store.spectraNext + n then 0 else s.store.spectraNext
    if size < n ∨ pinsSpan s (r.base + o) n then none else some (r.base + o)
/-- Records are overwritten: the vectors they held are gone, but for those that retention still holds elsewhere (R230, R243; log 21). -/
def overwriteRecords (a n : Nat) (s : State) : State :=
  { s with tasks := s.tasks.map fun t =>
      let keep := retainTicks s t.id
      { t with vectors := t.vectors.filterMap fun v =>
          if (v.places.getD []).any fun p => spansMeet p.1 p.2 a n then (if s.clk.tick < v.tick + keep then some { v with places := some [] } else none)
          else some v } }
/-- Publish a record in SPECTRA: it is written at the region's next place and offered to its stream. The space of pinned records is not
free (R293). -/
def publishSpectra (stream producer : Nat) (rec_ : Data) (tEnd : Nat) (s : State) : State := match s.store.region rtSpectra, spectraPlace s rec_.length with
  | some r, some a =>
    let s := setStore (fun st => { st with spectraNext := a - r.base + rec_.length }) (storeWrite a rec_ (overwriteRecords a rec_.length s))
    publish stream producer rec_ tEnd (some a) true s
  | _, _ => publish stream producer rec_ tEnd none false s

/-- The producer of stream-end markers. -/
def prodEnd : Nat := 2 ^ 90

/-- Begin closing a stream: it accepts no more; its pending gaps follow, then the stream-end MARKER, whose item_index is its
stream_seq (R289, R305). -/
def beginClose (n : Fin 16) (reason : Nat) (cmd : Option Nat) (s : State) : State :=
  let t := s.tw[n]
  if t.state = .closed ∨ t.state = .closing then s
  else
    let s := forL (t.gaps.map (·.producer)) (fun p s => flushGap n p s) s
    let h : RecHdr :=
      { type := rtMarker, flags := rfFinal, tStart := s.clk.tick, tFrac := 0, srcCh := 0, epoch := 0, srcDid := s.link.did,
        itemIndex := 0, itemCount := 0, aux := 0, cfgCrc := 0, taskId := 0 }
    let s := enqueueRecord n prodEnd (markerRecord h (16 + reason * 256)) none s.clk.tick s
    setStream n (fun t => { t with state := .closing, reason := reason, closeCmd := cmd, iq := none }) s

end Sys2Proof.Machine
end

