-- ==== Sys2Proof/Machine/InletOps.lean ====
section
/-! DEFINITION. The inlets' shared operations: configuration pages and derived figures (R36 to R44), ring division and
depth (R15, R89), sample times (R48), requantisation (R50), reads of HISTORY by sample number (R11, R16, R119). -/

namespace Sys2Proof.Machine

/-! ## Configuration pages -/

def Inlet.p0 (i : Inlet) (o : Nat) : Nat := u8At (i.page0.getD []) o
def Inlet.p2 (i : Inlet) (o : Nat) : Nat := u8At (i.page2.getD []) o
/-- Page 0 (R42). -/
def Inlet.is204C (i : Inlet) : Bool := i.p0 0x0A = 1
def Inlet.nl (i : Inlet) : Nat := i.p0 0x0C
def Inlet.l (i : Inlet) : Nat := i.p0 0x0D
def Inlet.m (i : Inlet) : Nat := i.p0 0x0E
def Inlet.f (i : Inlet) : Nat := i.p0 0x0F + 1
def Inlet.nBits (i : Inlet) : Nat := i.p0 0x10
def Inlet.np (i : Inlet) : Nat := i.p0 0x11
def Inlet.sPer (i : Inlet) : Nat := i.p0 0x12
def Inlet.kOrE (i : Inlet) : Nat := i.p0 0x16
def Inlet.fsNum (i : Inlet) : Nat := u32At (i.page0.getD []) 0x18
def Inlet.fsDen (i : Inlet) : Nat := u32At (i.page0.getD []) 0x1C
def Inlet.complex (i : Inlet) : Bool := i.p0 0x20 = 1
def Inlet.offsetBinary (i : Inlet) : Bool := i.p0 0x21 = 1
def Inlet.ovr (i : Inlet) : Nat := i.p0 0x22
/-- Page 2 (R44). -/
def Inlet.hist16 (i : Inlet) : Bool := i.p2 0x0A = 1
def Inlet.shift (i : Inlet) : Nat := i.p2 0x0B
def Inlet.fixedRelease (i : Inlet) : Bool := i.p2 0x0C = 1
def Inlet.qualify (i : Inlet) : Nat := i.p2 0x0E
def Inlet.sysrefWindow (i : Inlet) : Nat := i.p2 0x0F
def Inlet.releaseField (i : Inlet) : Nat := u16At (i.page2.getD []) 0x10
def Inlet.sysrefTimeout (i : Inlet) : Nat := let t := u16At (i.page2.getD []) 0x12; if t = 0 then 100 else t
def Inlet.aperture (i : Inlet) : Int := i32At (i.page2.getD []) 0x14
def Inlet.delayPeriods (i : Inlet) : Nat := i.p2 0x18
def Inlet.realigns (i : Inlet) : Bool := i.p2 0x19 = 1
def Inlet.errThreshold (i : Inlet) : Nat := let t := u16At (i.page2.getD []) 0x1A; if t = 0 then 16 else t

/-- Lanes used and converters (R36, R40). -/
def Inlet.lanesUsed (i : Inlet) : Nat := i.nl * i.l
def Inlet.converters (i : Inlet) : Nat := i.nl * i.m
/-- Octets and samples in one local-clock period: a multiframe or an extended multiblock (R37). -/
def Inlet.periodOctets (i : Inlet) : Nat := if i.is204C then 256 * i.kOrE else i.kOrE * i.f
def Inlet.periodSamples (i : Inlet) : Nat := i.sPer * (i.periodOctets / i.f)
/-- Bytes of one sample number in HISTORY, doubled: 1.5 or 2 bytes for each converter (R51). -/
def Inlet.bytes2 (i : Inlet) : Nat := i.converters * (if i.hist16 then 4 else 3)
/-- The history byte rate in kB/s, exact, as a numerator and a denominator (fs = 40 MHz x num / den). -/
def Inlet.rate (i : Inlet) : Nat × Nat := (i.bytes2 * 20000 * i.fsNum, max 1 i.fsDen)
/-- The same rounded up, as the store ledger reserves it (log 101). -/
def Inlet.historyKbs (i : Inlet) : Nat := ceilDiv (i.bytes2 * 20000 * i.fsNum) i.fsDen
/-- The exact sum of rates. -/
def sumRates (rates : List (Nat × Nat)) : Nat × Nat := rates.foldl (fun a x => (a.1 * x.2 + x.1 * a.2, a.2 * x.2)) (0, 1)
/-- Rates as whole numbers in one proportion: each over the product of all denominators. -/
def wholeRates (rates : List (Nat × Nat)) : List Nat :=
  let den := (rates.map Prod.snd).prod
  rates.map fun x => x.1 * (den / x.2)
/-- Ticks between samples as a fraction: 1.28 GHz / fs = 32 x den / num; in 1/65,536 tick 2^21 x den / num. -/
def Inlet.stepNum (i : Inlet) : Nat := 2097152 * i.fsDen
/-- The power items of an inlet: 16 units, one per lane, and its history write traffic (R501). -/
def Inlet.powerItems (i : Inlet) : List (Nat × Nat) := [(pcInlet, 16 + i.lanesUsed + storeUnits i.historyKbs)]

/-- Whether an inlet takes part in the division of HISTORY: it writes or is starting (R89). -/
def Inlet.active (i : Inlet) : Bool := i.state ≠ .stopped
/-- Inlets that produce samples. -/
def Inlet.runs (i : Inlet) : Bool := i.state = .running ∨ i.state = .realigning

/-- Whether a channel exists: converter below NL x M of a configured inlet (R40). -/
def inletOfChannel (ch : Nat) : Option (Fin 4) := if h : ch / 8 < 4 then some ⟨ch / 8, h⟩ else none
def channelExists (s : State) (ch : Nat) : Bool := match inletOfChannel ch with
  | some n => s.inlets[n].page0.isSome && ch % 8 < s.inlets[n].converters
  | none => false
/-- Whether a channel is PAIRED: the odd channel of a complex source (R41). -/
def channelPaired (s : State) (ch : Nat) : Bool := match inletOfChannel ch with
  | some n => s.inlets[n].complex && ch % 2 = 1
  | none => false
/-- A channel a command may name. -/
def channelNamed (s : State) (ch : Nat) : Bool := channelExists s ch && !channelPaired s ch

/-! ## Rings -/

/-- Samples a ring of its extents can hold, as the inlet that wrote it was configured. -/
def Ring.samples (r : Ring) : Nat := if r.geometry.1 = 0 then 0 else r.extents * extent * 2 / r.geometry.1
def Inlet.ringSamples (i : Inlet) : Nat := i.ring.samples
/-- The ring's history depth in ticks: its size divided by the byte rate (R15, R89). -/
def Inlet.depth (i : Inlet) : Nat := if i.ring.geometry.2.1 = 0 then 0 else i.ringSamples * 32 * i.ring.geometry.2.2 / i.ring.geometry.2.1

/-- The time of sample n of a frame's numbering, in 1/65,536 tick (R48). -/
def Frame.timeOf (f : Frame) (n : Nat) : Nat := (f.base + roundDiv (((n : Int) - f.lag) * f.stepNum) f.stepDen).toNat
def Frame.start (f : Frame) : Nat := f.timeOf f.num
def Frame.stopNum (f : Frame) : Nat := f.num + f.values.length
/-- The time of the sample after the frame's last. -/
def Frame.stopTime (f : Frame) : Nat := f.timeOf f.stopNum
/-- Whole ticks outward of a frame's span. -/
def Frame.tick0 (f : Frame) : Nat := f.start / 65536
def Frame.tick1 (f : Frame) : Nat := ceilDiv f.stopTime 65536

/-- Drop the oldest samples of a list of frames. -/
def dropSamples : Nat → List Frame → List Frame
  | 0, fs => fs
  | _, [] => []
  | n, f :: fs => if f.values.length ≤ n then dropSamples (n - f.values.length) fs
                  else { f with num := f.num + n, values := f.values.drop n } :: fs

/-- How many samples a ring holds. -/
def Ring.held (r : Ring) : Nat := (r.frames.map (·.values.length)).sum

/-- Keep what fits and move the oldest-valid tick past what does not (R16, R89). A hole that lies wholly before the oldest-valid
tick stays listed, and goes on counting toward the 1,024 of R91: the spec does not say when such a hole leaves the list (DESIGN
CHOICE, log 127). -/
def trimRing (cap : Nat) (r : Ring) : Ring :=
  if r.held ≤ cap then r
  else
    let fs := dropSamples (r.held - cap) r.frames
    { r with frames := fs, poisoned := r.poisoned.filter (fun p => match fs with | f :: _ => decide (f.start / 65536 < p.stop) | [] => false),
             oldest := match fs with | f :: _ => ceilDiv f.start 65536 | [] => r.newest + 1,
             version := r.version + 1 }

/-- The tick up to which a ring's samples are committed or lost: its newest committed one, and a hole that follows it (R14). -/
def Ring.settled (r : Ring) : Nat :=
  ((r.holes.filter fun h => decide (h.start ≤ r.newest + 1 ∧ r.newest + 1 < h.stop)).map (·.stop)).foldl max (r.newest + 1)

/-- Divide extents in proportion to rates, rounded down, the rest one at a time to the shortest depth (R89). -/
def topUp : Nat → List (Nat × Nat) → List (Nat × Nat)
  | 0, shares => shares
  | n + 1, shares =>
    -- the share with the smallest extents / rate
    let best := shares.foldl (fun (b : Option (Nat × Nat)) x => match b with
      | some y => if x.1 * y.2 < y.1 * x.2 then some x else some y
      | none => some x) none
    match best with
    | some b =>
      let rec bump : List (Nat × Nat) → List (Nat × Nat)
        | [] => []
        | x :: xs => if x = b then (x.1 + 1, x.2) :: xs else x :: bump xs
      topUp n (bump shares)
    | none => shares

/-- The extents of each of a list of rates out of a total (R89). -/
def divideExtents (total : Nat) (rates : List Nat) : List Nat :=
  let sum := rates.sum
  if sum = 0 then rates.map fun _ => 0
  else
    let base := rates.map fun r => (total * r / sum, r)
    (topUp (total - (base.map Prod.fst).sum) base).map Prod.fst

/-- Divide HISTORY among the running inlets and the starting one; stopped rings keep their extents (R61, R89). -/
def divideHistory (s : State) : State :=
  match s.store.region rtHistory with
  | none => s
  | some r =>
    let held := ((s.inlets.toList.filter fun i => !i.active).map fun i => i.ring.extents).sum
    let act := (List.finRange 4).filter fun n => s.inlets[n].active
    let shares := divideExtents (r.size / extent - held) (wholeRates (act.map fun n => s.inlets[n].rate))
    forL (List.zip act shares) (fun x s => setInlet x.1 (fun i =>
      let i := { i with ring := { i.ring with extents := x.2 } }
      { i with ring := trimRing i.ringSamples i.ring }) s) s

/-! ## Samples -/

/-- The 16-bit two's complement value of a raw N'-bit word: N data bits left-justified, offset binary inverted (R50). Where the
data, control and tail bits lie in the word, and which of two control bits is control bit 0, is the model's choice (DESIGN CHOICE,
log 126): data bits highest, then control bit 0, control bit 1, and the tail bits lowest. -/
def value16 (i : Inlet) (w : U16) : Int :=
  let d := w.toNat % 2 ^ i.np / 2 ^ (i.np - i.nBits)
  let d := if i.offsetBinary then d ^^^ 2 ^ (i.nBits - 1) else d
  signed 16 (d * 2 ^ (16 - i.nBits))
/-- After the requantisation shift with saturation (R50). -/
def shifted16 (i : Inlet) (w : U16) : Int := satS 16 (value16 i w * 2 ^ i.shift)
/-- The history value (R50). -/
def historyValue (i : Inlet) (w : U16) : Int :=
  let v := shifted16 i w
  if i.hist16 then v else satS 12 (roundDiv v 16)
/-- A sample clips at the largest or smallest code, with its ovrBit-range bit, or by saturating (R53). -/
def sampleClips (i : Inlet) (w : U16) : Bool :=
  let d := value16 i w / (2 ^ (16 - i.nBits) : Nat)
  let ovrBit := i.ovr ≠ 0 && bit w.toNat (i.np - i.nBits - i.ovr)
  let v := shifted16 i w
  decide (d = (2 ^ (i.nBits - 1) : Nat) - 1) || decide (d = -(2 ^ (i.nBits - 1) : Nat)) || ovrBit ||
    decide (v ≠ value16 i w * 2 ^ i.shift) || (!i.hist16 && decide (2047 < roundDiv v 16))

/-- The numbers from a span held by frames whose time is at or after t0 (1/65,536 tick): the values of each, in order;
none where one is missing. -/
def samplesAt (fs : List Frame) (t0 first count : Nat) : Option (List (List Int)) :=
  let got := (fs.filter fun f => decide (t0 ≤ f.start ∧ f.num < first + count ∧ first < f.stopNum)).flatMap fun f =>
    (f.values.drop (first - f.num)).take (first + count - max first f.num)
  if got.length = count then some got else none

/-- Whether a time lies under a mark. -/
def underMark (a b : Nat) (m : Nat × Option Nat) : Bool := decide (m.1 ≤ b) && (match m.2 with | some t => decide (a < t) | none => true)
/-- Whether a span of samples holds an uncertain one: received under an uncertain clock, or between a SYSREF pulse out of phase and
the next in phase (R46, R486, R495). -/
def spanUncertain (marks : List (Nat × Option Nat)) (fs : List Frame) (t0 first count : Nat) : Bool :=
  fs.any fun f => decide (t0 ≤ f.start ∧ f.num < first + count ∧ first < f.stopNum) &&
    (f.uncertain || marks.any (underMark (f.timeOf (max f.num first)) (f.timeOf (min f.stopNum (first + count) - 1))))
/-- Whether a span of samples meets a clipped block (R53). -/
def spanClipped (fs : List Frame) (t0 first count : Nat) : Bool :=
  fs.any fun f => decide (t0 ≤ f.start) && f.clips.any fun b => decide (b * 256 < first + count ∧ first < b * 256 + 256)

/-- Times of the current numbering of an inlet. -/
def Inlet.lag (i : Inlet) : Int := ((i.delayPeriods * i.periodSamples : Nat) : Int) - (i.periods * i.periodSamples : Nat)
def Inlet.timeOf (i : Inlet) (n : Nat) : Nat :=
  ((i.edge : Int) + i.aperture + roundDiv (((n : Int) - i.lag) * i.stepNum) i.fsNum).toNat
def Inlet.tickOf (i : Inlet) (n : Nat) : Nat := i.timeOf n / 65536
/-- The lowest bound of times written since the last INLET_START. -/
def Inlet.since (i : Inlet) : Nat := i.firstTick * 65536
/-- The first sample number at or after n whose tick is at or after t and that is a multiple of h. -/
def Inlet.numAt (i : Inlet) (t h : Nat) : Nat :=
  let d : Int := (t : Int) * 65536 - i.edge - i.aperture
  let n := (d * i.fsNum / i.stepNum + i.lag).toNat
  -- n is within one of the place; settle it by the times themselves
  let n := if t * 65536 ≤ i.timeOf (n - 1) ∧ 0 < n then n - 1 else n
  let n := if i.timeOf n < t * 65536 then n + 1 else n
  let n := if i.timeOf n < t * 65536 then n + 1 else n
  ceilDiv n h * h

/-- The causes by which a tick span of a ring is lost at a read by a reader whose overwrite cause is given: those of the holes that
it meets, the test of R16, and poison (R13, R16, R81). -/
def spanCauses (r : Ring) (t0 t1 : Nat) (overwritten : Nat) : List Nat :=
  (holesIn r t0 t1).map (·.cause) ++ (if t0 < r.oldest then [overwritten] else []) ++
    (if r.poisoned.any (fun p => decide (p.start < t1 ∧ t0 < p.stop)) then [10] else [])
/-- The GAP cause of the span: the highest-ranked of them, or none where the span can be read (R559). -/
def spanGap (r : Ring) (t0 t1 : Nat) (overwritten : Nat) : Option Nat := match spanCauses r t0 t1 overwritten with
  | [] => none
  | c :: cs => some (cs.foldl worseCause c)

/-- A number of octets of lane time in fractions of a tick, rounded to nearest with ties to even: an octet of a lane takes
S x 32 x den / (num x F) ticks (R48). -/
def Inlet.octetTime (i : Inlet) (n parts : Nat) : Nat :=
  if i.f = 0 ∨ i.fsNum = 0 then 0 else (roundDiv (n * i.sPer * 32 * i.fsDen * parts : Nat) (i.fsNum * i.f)).toNat
/-- Octets in 1/256 tick (R68), and in 1/65,536 tick. -/
def Inlet.octets256 (i : Inlet) (n : Nat) : Nat := i.octetTime n 256
def Inlet.octets16 (i : Inlet) (n : Nat) : Nat := i.octetTime n 65536

end Sys2Proof.Machine
end

