-- ==== Sys2Proof/Machine/TaskOps.lean ====
section
/-! DEFINITION. Figures of a task: hop, frames and times (R119), bins, points and vectors (R125, R127), record rate
(R132), demand (R20, R143) and footprint (R112). -/

namespace Sys2Proof.Machine

/-- Input points of a transform and the hop of its frames (R119). -/
def TaskDesc.nIn (d : TaskDesc) : Nat := 2 ^ d.nLog2
def TaskDesc.twoStage (d : TaskDesc) : Bool := d.mode = 1
def TaskDesc.frameHop (d : TaskDesc) : Nat := d.nIn / 2 ^ d.overlap
/-- Samples between output indices: a frame's hop, or F coarse hops of a two-stage task (R141). -/
def TaskDesc.hop (d : TaskDesc) : Nat := if d.twoStage then 2 ^ d.fLog2 * d.nIn else d.frameHop
/-- Input samples of one frame, and of one output index. -/
def TaskDesc.frameLen (d : TaskDesc) : Nat := d.taps * d.nIn
def TaskDesc.indexLen (d : TaskDesc) : Nat := if d.twoStage then (2 ^ d.fLog2 - 1) * d.nIn + d.frameLen else d.frameLen
/-- Coarse channels of a two-stage task (R141). -/
def TaskDesc.channels (d : TaskDesc) : Nat := d.nIn / 2

/-- The inlet of a task's source. -/
def Task.inlet (t : Task) : Option (Fin 4) := inletOfChannel t.desc.channel
/-- Time of a sample number of a task, in 1/65,536 tick (R48). -/
def Task.timeOf (t : Task) (n : Nat) : Nat := (t.tBase + roundDiv (((n : Int) - t.tLag) * t.tNum) t.tDen).toNat
/-- First sample of an index, its time, and the tick by which its last sample has come. -/
def Task.sampleOf (t : Task) (k : Nat) : Nat := t.g0 + k * t.desc.hop
def Task.indexTime (t : Task) (k : Nat) : Nat := t.timeOf (t.sampleOf k)
def Task.indexTick (t : Task) (k : Nat) : Nat := t.indexTime k / 65536
def Task.releaseTick (t : Task) (k : Nat) : Nat := ceilDiv (t.timeOf (t.sampleOf k + t.desc.indexLen)) 65536
/-- A coarse frame of a two-stage task, and a frame of a single-stage one, by its number. -/
def Task.frameTime (t : Task) (k : Nat) : Nat := t.timeOf (t.g0 + k * t.desc.frameHop)
def Task.frameStop (t : Task) (k : Nat) : Nat := t.timeOf (t.g0 + k * t.desc.frameHop + t.desc.frameLen)
/-- Ticks of one hop, rounded up, of frames and of output indices. -/
def Task.hopTicks (t : Task) : Nat := if t.fsNum = 0 then 0 else ceilDiv (t.desc.frameHop * 32 * t.fsDen) t.fsNum

/-- Bins that units and maps see, and bins that detectors see (R125, R142, R144). -/
def Task.coarseBins (t : Task) : Nat := binsOf t.complex t.desc.nLog2
def Task.bins (t : Task) : Nat := if t.desc.twoStage then t.desc.channels * 2 ^ t.desc.fLog2 else t.coarseBins
/-- Span, points and bytes of an output vector (R116, R127). -/
def TaskDesc.spanIn (d : TaskDesc) (bins : Nat) : Nat := if d.binCount = 0 then bins - d.binFirst else d.binCount
def Task.span (t : Task) : Nat := t.desc.spanIn t.bins
def Task.points (t : Task) : Nat := t.span / t.desc.b
def Task.vectorBytes (t : Task) : Nat := t.points * elementBytes t.desc.format
/-- Bytes of a full record, and the task's record output rate in kB/s (R132, R242). -/
def Task.recordBytes (t : Task) : Nat := paddedLen (t.desc.group * t.vectorBytes)
def Task.outKbs (t : Task) : Nat :=
  ceilDiv (40000 * t.fsNum * t.recordBytes) (max 1 (t.fsDen * t.desc.hop * t.desc.avg * t.desc.group))

/-- Demand in sixteenths of a tile-sample per clock (R20), of the coarse or only stage and of the fine stage (R143). -/
def demandOf (fsNum fsDen overlap : Nat) : Nat := ceilDiv (fsNum * 2 ^ overlap) (2 * fsDen)
def TaskDesc.demandMain (d : TaskDesc) (fsNum fsDen : Nat) : Nat := demandOf fsNum fsDen (if d.twoStage then 0 else d.overlap)
def TaskDesc.demandFine (d : TaskDesc) (fsNum fsDen : Nat) : Nat := if d.twoStage then ceilDiv fsNum (4 * fsDen) else 0
/-- Footprints (R112). -/
def TaskDesc.footMain (d : TaskDesc) (complex : Bool) (span : Nat) : Nat :=
  4 * d.taps * d.nIn + 16 * (if complex then d.nIn else d.nIn / 2) + (if d.sk then 32 * span else 0)
def TaskDesc.footFine (d : TaskDesc) : Nat := 20 * 2 ^ d.fLog2
/-- SK runs on the coarse spectra over all channels of a two-stage task (R137). -/
def Task.skSpan (t : Task) : Nat := if t.desc.twoStage then t.coarseBins else t.span
def Task.skFirst (t : Task) : Nat := if t.desc.twoStage then 0 else t.desc.binFirst
def Task.footprint (t : Task) : Nat := t.desc.footMain t.complex t.skSpan

/-- Find and change a task. -/
def findTask (s : State) (id : Nat) : Option Task := s.tasks.find? (·.id = id)
def setTask (id : Nat) (f : Task → Task) (s : State) : State := { s with tasks := lmod s.tasks (·.id = id) f }
/-- A task that units, maps and acquisitions may attach to: live and running (R206, R230, R262). -/
def liveTask (s : State) (id : Nat) : Option Task := match findTask s id with
  | some t => if t.kind = .live ∧ t.active then some t else none
  | none => none

/-- The lowest index at or above k that is not in a list (k_pub of R155). -/
def lowestMissing (l : List Nat) : Nat → Nat → Nat
  | 0, k => k
  | n + 1, k => if l.contains k then lowestMissing l n (k + 1) else k
/-- k_pub: the lowest index that the first-commit filter has not yet passed (R155). -/
def Task.kPub (t : Task) : Nat := lowestMissing (t.held.map (·.index)) t.held.length t.kNext
/-- Whether the filter has passed an index. -/
def Task.passed (t : Task) (k : Nat) : Bool := decide (k < t.kNext) || t.held.any (·.index = k)

/-- Raise a task event (R168). -/
def taskEvent (o : Nat) (vals : List Val) (s : State) : State := raise (0x580 + o) vals s

end Sys2Proof.Machine
end

