-- ==== Sys2Proof/Machine/AcqOps.lean ====
section
/-! DEFINITION. Acquisition records: sizes and reach (R229, R237), allocation in ACQ (R238), the copier's items (R231 to
R234, R241 to R243), the records it publishes (R235, R236, R240, R244). -/

namespace Sys2Proof.Machine

/-! ## Definitions -/

/-- The channels a RAW part selects, and its inlets (R229). -/
def AcqDef.channels (d : AcqDef) : List Nat := if bit d.content 0 then setBits d.chMask 32 else []
def AcqDef.inlets (d : AcqDef) : List (Fin 4) := (List.finRange 4).filter fun n => d.channels.any fun c => c / 8 = n.val
def AcqDef.averages (d : AcqDef) : Bool := 2 ≤ d.reduction
/-- Samples or vectors an output item stands for. -/
def AcqDef.stride (d : AcqDef) : Nat := d.a * d.d
/-- The part of the window that goes to ACQ ends here (R240). -/
def AcqDef.headPost (d : AcqDef) : Nat := if d.cont = 1 then d.headPostTicks else d.postTicks

/-- Largest payload of a record and what it leaves for items after the prefix (R235). -/
def recordCap : Nat := 4194304
def itemCap : Nat := recordCap - 64

/-- Half bytes of one RAW item of a channel (R232), and the item format codes of R236. -/
def rawHalfBytes (i : Inlet) (d : AcqDef) : Nat :=
  (if i.complex then 2 else 1) * (if d.averages then 6 else if i.hist16 then 4 else 3)
def rawFmt (i : Inlet) (d : AcqDef) : Nat := if d.averages then 2 else if i.hist16 then 1 else 0
def spectralFmt (t : Task) (d : AcqDef) : Nat := if d.averages ∧ t.desc.format = 1 then 7 else 3 + t.desc.format
/-- Bytes of one point of a spectral item (R233). -/
def spectralElement (t : Task) (d : AcqDef) : Nat := if d.averages ∧ t.desc.format = 1 then 3 else elementBytes t.desc.format

/-- Items of a RAW record: whole sample pairs of 12-bit real items (R235). -/
def rawPer (i : Inlet) (d : AcqDef) : Nat :=
  let n := itemCap * 2 / max 1 (rawHalfBytes i d)
  if rawHalfBytes i d = 3 then n / 2 * 2 else n

/-- The store bytes of n items of h half bytes, per items to a record (R237). -/
def itemsSize (n h per : Nat) : Nat :=
  let one := fun m => 64 + ceilDiv (64 + ceilDiv (m * h) 2) 64 * 64
  let recs := ceilDiv n per
  if recs = 0 then 0 else (recs - 1) * one per + one (n - (recs - 1) * per)
/-- The store bytes of n vectors of a number of bytes, each split in pieces of whole points where it must be. -/
def vectorsSize (n bytes element : Nat) : Nat :=
  if bytes ≤ itemCap then itemsSize n (2 * bytes) (itemCap / max 1 bytes)
  else n * (ceilDiv bytes (itemCap / element * element) * 192 + bytes)

/-- The worst-case size of a window of a length in ticks: one extra cell per source, at the current rates (R237). -/
def acqWorst (s : State) (d : AcqDef) (len : Nat) : Nat :=
  (d.channels.map fun c => match inletOfChannel c with
    | some n =>
      let i := s.inlets[n]
      itemsSize (ceilDiv (len * i.fsNum) (max 1 (32 * i.fsDen * d.stride)) + 1) (rawHalfBytes i d) (rawPer i d)
    | none => 0).sum +
  (d.slots.map fun x => match findTask s x.2 with
    | some t => vectorsSize (ceilDiv (len * t.fsNum) (max 1 (32 * t.fsDen * t.desc.avg * t.desc.hop * d.stride)) + 1)
        (t.points * spectralElement t d) (spectralElement t d)
    | none => 0).sum
/-- What ARM and the allocation need in ACQ: the window, or its head in STREAM mode (R237, R240). -/
def acqNeed (s : State) (d : AcqDef) : Nat := acqWorst s d (d.preTicks + d.headPost)

/-- SPECTRA retention of a task's records in ticks: the region over the task's record rate (R229; log 21). -/
def spectraRetention (s : State) (t : Task) : Nat := match s.store.region rtSpectra with
  | some r => r.size * 1280000 / max 1 t.outKbs
  | none => 0
/-- The reach: the least of the ring depths and SPECTRA retentions over the sources (R229). -/
def acqReach (s : State) (d : AcqDef) : Nat :=
  let l := d.inlets.map (fun n => s.inlets[n].depth) ++
    d.slots.map (fun x => match findTask s x.2 with | some t => spectraRetention s t | none => 0)
  match l with
  | [] => 0
  | x :: xs => xs.foldl min x

/-! ## State -/

/-- Change one AT and one acquisition. -/
def setAt (m : Fin 16) (f : AcqTrigger → AcqTrigger) (s : State) : State :=
  { s with squall := { s.squall with ats := vmod s.squall.ats m f } }
def setAcq (no : Nat) (f : Acquisition → Acquisition) (s : State) : State :=
  { s with squall := { s.squall with acqs := lmod s.squall.acqs (·.no = no) f } }
def findAcq (s : State) (no : Nat) : Option Acquisition := s.squall.acqs.find? (·.no = no)
def setSource (no idx : Nat) (f : SourceCopy → SourceCopy) (s : State) : State :=
  setAcq no (fun q => { q with sources := ((List.range q.sources.length).zip q.sources).map fun x => if x.1 = idx then f x.2 else x.2 }) s
/-- The identifier of an AT's event (R247). -/
def evAt (m : Fin 16) (o : Nat) : Nat := 0x680 + m.val * 8 + o
def atIndex (n : Nat) : Option (Fin 16) := if h : n < 16 then some ⟨n, h⟩ else none

/-- Acquisitions being copied. -/
def acqsInFlight (s : State) : List Acquisition := s.squall.acqs.filter (!·.complete)

/-- Whether an acquisition's span in ACQ overlaps another. -/
def overlaps (a n : Nat) (q : Acquisition) : Bool := decide (q.addr < a + n ∧ a < q.addr + q.size)
/-- Undelivered records of an acquisition (R238). -/
def acqPinned (s : State) (q : Acquisition) : Bool := s.tw.toList.any fun t => t.queue.any fun r => match r.addr with
  | some x => decide (q.addr ≤ x ∧ x < q.addr + q.size)
  | none => false
/-- Kept acquisitions are given up oldest first while one overlaps the span wanted (R238, R239). -/
def reclaim : Nat → Nat → Nat → State → Option State
  | 0, _, _, _ => none
  | n + 1, a, len, s =>
    if s.squall.acqs.any (overlaps a len) then match s.squall.acqs with
      | q :: qs => if q.complete ∧ ¬ acqPinned s q then reclaim n a len { s with squall := { s.squall with acqs := qs } } else none
      | [] => none
    else some s
/-- Allocate contiguous space in ACQ, a ring in fire order (R238, R239). -/
def allocateAcq (need : Nat) (s : State) : Option (Nat × State) := match s.store.region rtAcq with
  | none => none
  | some r =>
    if r.size < need then none
    else
      let o := if r.size < s.squall.acqHead + need then 0 else s.squall.acqHead
      match reclaim (s.squall.acqs.length + 1) (r.base + o) need s with
      | some s => some (r.base + o, { s with squall := { s.squall with acqHead := o + need } })
      | none => none

/-- Free the space of acquisitions whose every record was delivered to its stream (R238). -/
def reapAcqs (s : State) : State :=
  { s with squall := { s.squall with acqs := s.squall.acqs.filter fun q => !(q.complete && decide (q.def_.stream < 16) && !acqPinned s q) } }

/-! ## Items (R231 to R234, R243) -/

/-- The first kept cell whose first sample has its time at or after a tick. -/
def rawCell (i : Inlet) (d : AcqDef) (t : Nat) : Nat := ceilDiv (ceilDiv (i.numAt t 1) d.a) d.d * d.d
/-- The tick of an inlet's first sample after its last INLET_START. -/
def Inlet.begin_ (i : Inlet) : Nat := i.firstTick

/-- The values of one channel over a cell: the sample, or the mean of the 16-bit scale (R232). -/
def cellValues (i : Inlet) (d : AcqDef) (c : Nat) (v : List (List Int)) : List Int :=
  (if i.complex then [c % 8, c % 8 + 1] else [c % 8]).map fun k =>
    let x := v.map fun smp => (smp.drop k).headD 0
    if d.averages then roundDiv ((x.sum * if i.hist16 then 1 else 16) * 256) d.a else x.headD 0

/-- Where a read of an item ends: the item, the overwrite front, nothing there yet, or nothing to come. -/
inductive ItemRead
  | item (x : CopyItem)
  | front
  | notYet
  | ended
deriving DecidableEq, Repr

/-- Read a RAW item: cell j of the selected channels of an inlet. -/
def rawItem (s : State) (n : Fin 4) (d : AcqDef) (stop j : Nat) : ItemRead :=
  let i := s.inlets[n]
  let n0 := j * d.a
  let t0 := i.timeOf n0
  let t1 := i.timeOf (n0 + d.a)
  let covered := min (d.stride) (max d.a (stop * d.a - n0))
  let mk := fun (gap : Option Nat) (vals : List (Nat × List Int)) (fl : Nat) =>
    ItemRead.item
      { gap := gap, index := n0, count := d.stride, tick := t0 / 65536, frac := t0 % 65536,
        stop := ceilDiv (i.timeOf (n0 + d.stride)) 65536, epoch := 0, flags := fl, values := vals, points := [] }
  match spanGap i.ring (t0 / 65536) (ceilDiv t1 65536) 5 with
  | some c => if t0 / 65536 < i.ring.oldest then .front else mk (some c) [] 0
  | none => match samplesAt i.ring.frames i.since n0 d.a with
    | some v =>
      let fl := (if spanClipped i.ring.frames i.since n0 covered then rfClipped else 0) +
        (if spanUncertain i.phaseMarks i.ring.frames i.since n0 covered then rfUncertain else 0)
      mk none ((d.channels.filter fun c => c / 8 = n.val).map fun c => (c, cellValues i d c v)) fl
    | none => if i.active then .notYet else .ended

/-- Output number of a kept vector (R127). -/
def OutVector.number (t : Task) (v : OutVector) : Nat := v.first / max 1 t.desc.avg
/-- The mean of the points of several vectors (R233). -/
def meanPoints (t : Task) (vs : List OutVector) : Data :=
  let e := elementBytes t.desc.format
  (List.range t.points).flatMap fun p =>
    let codes := vs.map fun v => unle ((v.points.drop (p * e)).take e)
    if t.desc.format = 1 then mean24 ((codes.map fun c => signed 16 c).sum) vs.length
    else if codes.any fun c => 0x7F800000 < c then le 4 nan32.toNat
    else
      -- summed in index order in binary64, divided once, and rounded to binary32 (log 112)
      let sum := codes.foldl (fun (a : D64) c => let m := mant32 (BitVec.ofNat 32 c); a.add ⟨(m.1 : Int), m.2⟩) ⟨0, 0⟩
      let mean := sum.div (D64.ofFrac vs.length 1)
      le 4 (round32 mean.num.toNat mean.den).toNat
/-- The GAP cause of a kept vector: its own, or 10 where a sector of its records is poisoned (R243). -/
def OutVector.lost (st : Store) (v : OutVector) : Option Nat :=
  let bad := match v.places with | some l => l.any fun p => spanPoisoned st p.1 p.2 | none => false
  match v.gap with
  | some c => some c
  | none => if bad then some 10 else none
/-- Whether a vector's records are published. -/
def OutVector.published (v : OutVector) : Bool := v.gap.isSome || v.places.isSome
/-- Read a spectral item: cell u of the vectors of a task that SPECTRA holds; one whose record is still open is not there yet (R230). -/
def spectralItem (s : State) (d : AcqDef) (task u : Nat) : ItemRead := match findTask s task with
  | none => .ended
  | some t =>
    let at_ := fun j => t.vectors.find? fun v => v.number t = j
    let vs := (List.range d.a).filterMap fun x => at_ (u * d.a + x)
    let lowest := match t.vectors with | v :: _ => v.number t | [] => t.kNext / max 1 t.desc.avg
    if u * d.a < lowest then .front
    else if vs.length < d.a ∨ ¬ vs.all (·.published) then .notYet
    else match vs with
      | [] => .notYet
      | v :: rest =>
        let last := (rest.getLast?.getD v).last
        let count := (last + 1 - v.first) * d.d
        let gap := vs.foldl (fun g x => match g, x.lost s.store with | some a, some b => some (worseCause a b) | some a, none => some a | none, b => b) none
        let fl := ((List.range d.stride).filterMap fun x => at_ (u * d.a + x)).foldl (fun f x => f ||| x.flags) 0
        .item
          { gap := gap, index := v.first, count := count, tick := v.tick, frac := v.frac,
            stop := ceilDiv (t.indexTime (v.first + count)) 65536, epoch := v.epoch, flags := if gap.isSome then 0 else fl,
            values := [], points := if gap.isSome then [] else if d.averages then meanPoints t vs else v.points }

/-- Read the item of a source at a place. -/
def SourceCopy.read (s : State) (d : AcqDef) (c : SourceCopy) (j : Nat) : ItemRead := match c.inlet with
  | some n => if h : n < 4 then rawItem s ⟨n, h⟩ d c.stop j else .ended
  | none => spectralItem s d c.task j

/-- One GAP item that covers the cells [a, b) of a source (R242). -/
def SourceCopy.gapItem (s : State) (d : AcqDef) (c : SourceCopy) (a b cause : Nat) : CopyItem :=
  let mk := fun (idx cnt t0 t1 epoch : Nat) =>
    { gap := some cause, index := idx, count := cnt, tick := t0 / 65536, frac := t0 % 65536,
      stop := ceilDiv t1 65536, epoch := epoch, flags := 0, values := [], points := [] : CopyItem }
  match c.inlet with
  | some n => if h : n < 4 then
      let i := s.inlets[n]
      mk (a * d.a) ((b - a) * d.a) (i.timeOf (a * d.a)) (i.timeOf (b * d.a)) 0
    else mk 0 0 0 0 0
  | none => match findTask s c.task with
    | some t => mk (a * d.a * t.desc.avg) ((b - a) * d.a * t.desc.avg) (t.indexTime (a * d.a * t.desc.avg)) (t.indexTime (b * d.a * t.desc.avg)) t.epoch
    | none => mk 0 0 0 0 0

/-! ## Records (R235, R236, R240) -/

/-- Pack 12-bit values, two in three bytes (R51). -/
def pack12 : List Int → Data
  | a :: b :: l => le 3 (codeOf 12 a + 4096 * codeOf 12 b) ++ pack12 l
  | [a] => le 2 (codeOf 12 a)
  | [] => []

/-- Split items into runs of one gap cause, data runs of at most per items, full runs first. -/
def frontRuns (per : Nat) (l : List CopyItem) : List (List CopyItem) :=
  (l.foldl (fun (acc : List (List CopyItem)) x => match acc with
    | (y :: ys) :: rs => if x.gap = y.gap ∧ (x.gap.isSome ∨ ys.length + 1 < per) then (x :: y :: ys) :: rs else [x] :: (y :: ys) :: rs
    | rs => [x] :: rs) []).reverse.map List.reverse

/-- The spans before and after the trigger that a source's records cover (R236). -/
def Acquisition.stopTick (q : Acquisition) : Nat :=
  let e := q.trigTick + q.def_.postTicks
  match q.cut with | some c => min e c | none => e
/-- The prefix of one record (R236). -/
def acqPrefix (q : Acquisition) (c : SourceCopy) (fmt segment items firstPoint : Nat) (tail : Bool) : Data :=
  let stop := q.stopTick
  le 4 q.no ++ le 1 q.at_ ++ le 1 q.def_.armMode ++ le 2 q.winner ++ le 8 q.trigTick ++ le 2 q.trigFrac ++ le 1 q.def_.reduction ++
  le 1 fmt ++ le 4 q.def_.d ++ le 4 q.def_.a ++ le 2 segment ++
  le 2 (q.flags + b2n c.preClipped + 2 * b2n (decide (stop < q.trigTick + q.def_.postTicks)) + 32 * b2n tail) ++
  le 8 (q.trigTick - max (q.trigTick - q.def_.preTicks) c.begin_) ++ le 8 (stop - q.trigTick) ++ le 4 c.task ++ le 4 items ++
  le 4 firstPoint ++ le 4 q.armSeq

/-- Header fields of a source's record. -/
def acqHeader (s : State) (q : Acquisition) (srcCh : Nat) (x : CopyItem) (flags count : Nat) : RecHdr :=
  { type := rtAcqRec, flags := flags, tStart := x.tick, tFrac := x.frac, srcCh := srcCh, epoch := x.epoch % 256, srcDid := s.link.did,
    itemIndex := x.index, itemCount := satN 32 count, aux := q.at_ * 256, cfgCrc := q.def_.crc, taskId := q.no }

/-- Write one record of an acquisition into its space in ACQ, or none of it for a tail, and publish it. -/
def acqPut (no : Nat) (srcCh : Nat) (rec_ : Data) (stop : Nat) (tail : Bool) (s : State) : State := match findAcq s no with
  | none => s
  | some q =>
    if tail ∨ q.size < q.used + rec_.length then publish q.def_.stream (prodAcq no srcCh) rec_ stop none true s
    else
      let s := storeWrite (q.addr + q.used) rec_ s
      let s := setAcq no (fun q => { q with used := q.used + rec_.length }) s
      publish q.def_.stream (prodAcq no srcCh) rec_ stop (some (q.addr + q.used)) true s

/-- Advance a source's segment count of one src_ch (R236). -/
def nextSegment (no idx srcCh : Nat) (s : State) : State :=
  setSource no idx (fun c => { c with segments := c.segments.put srcCh (c.segments.at_ srcCh + 1) }) s

/-- Publish the pieces of one data record, split where a vector is larger than a record (R132, R235). -/
def acqPieces (no idx srcCh : Nat) (h : RecHdr) (q : Acquisition) (c : SourceCopy) (fmt items stop element : Nat) (tail final : Bool)
    (body : Data) (s : State) : State :=
  let size := if body.length ≤ itemCap then max 1 body.length else itemCap / max 1 element * max 1 element
  let n := max 1 (ceilDiv body.length size)
  forN n (fun p s =>
    let seg := (match findAcq s no with
      | some q => (match q.sources.drop idx with | c :: _ => c.segments.at_ srcCh | [] => 0)
      | none => 0)
    let first := if n = 1 then 0 else p * size / max 1 element
    let fl := h.flags + if final ∧ p + 1 = n then rfFinal else 0
    let rec_ := recordBytes { h with flags := fl } (acqPrefix q c fmt seg items first tail ++ (body.drop (p * size)).take size)
    acqPut no srcCh rec_ stop tail (nextSegment no idx srcCh s)) s

/-- Publish one run of items of one src_ch: a GAP record or ACQ records (R235, R243). -/
def acqRun (no idx srcCh fmt element : Nat) (enc : List CopyItem → Data) (tail final : Bool) (run : List CopyItem) (s : State) : State :=
  match findAcq s no, run with
  | some q, x :: xs => match q.sources.drop idx with
    | c :: _ =>
      let last := xs.getLast?.getD x
      let count := (run.map (·.count)).sum
      match x.gap with
      | some cause =>
        acqPut no srcCh (gapRecord (acqHeader s q srcCh x (if final then rfFinal else 0) count) cause last.stop 0) last.stop tail s
      | none =>
        let fl := run.foldl (fun f y => f ||| y.flags) 0
        acqPieces no idx srcCh (acqHeader s q srcCh x fl count) q c fmt run.length last.stop element tail final (enc run) s
    | [] => s
  | _, _ => s

/-- Publish the items of one src_ch in tick order, the last with FINAL where the source ends (R235, R244). A source that
ends with no item publishes an empty record with FINAL (log 22). -/
def acqSeries (no idx srcCh fmt element per : Nat) (enc : List CopyItem → Data) (tail final : Bool) (items : List CopyItem) (s : State) : State :=
  let runs := frontRuns per items
  let s := forL ((List.range runs.length).zip runs) (fun x s =>
    acqRun no idx srcCh fmt element enc tail (final && x.1 + 1 = runs.length) x.2 s) s
  if runs = [] ∧ final then match findAcq s no with
    | some q => match q.sources.drop idx with
      | c :: _ =>
        let x : CopyItem :=
          { gap := none, index := 0, count := 0, tick := q.trigTick, frac := q.trigFrac, stop := q.trigTick, epoch := 0,
            flags := 0, values := [], points := [] }
        acqPieces no idx srcCh (acqHeader s q srcCh x 0 0) q c fmt 0 q.trigTick element tail true [] s
      | [] => s
    | none => s
  else s

/-- Publish items of a source, for each channel of a RAW part, or as vectors of a task. -/
def acqPublish (no idx : Nat) (tail final : Bool) (items : List CopyItem) (s : State) : State := match findAcq s no with
  | none => s
  | some q => match q.sources.drop idx with
    | [] => s
    | c :: _ => match c.inlet with
      | some n => if h : n < 4 then
          let i := s.inlets[n]
          let d := q.def_
          let fmt := rawFmt i d
          forL (d.channels.filter fun ch => ch / 8 = n) (fun ch s =>
            let enc := fun (run : List CopyItem) =>
              let v := run.flatMap fun x => ((x.values.find? (·.1 = ch)).map Prod.snd).getD []
              if fmt = 0 then pack12 v else v.flatMap fun y => le (if fmt = 1 then 2 else 3) (codeOf (if fmt = 1 then 16 else 24) y)
            acqSeries no idx ch fmt 1 (rawPer i d) enc tail final items s) s
        else s
      | none =>
        let fmt := match findTask s c.task with | some t => spectralFmt t q.def_ | none => 3
        let e := match findTask s c.task with | some t => spectralElement t q.def_ | none => 4
        let bytes := (items.foldl (fun m x => max m x.points.length) 0)
        acqSeries no idx (0x80 + c.slot) fmt e (max 1 (itemCap / max 1 bytes)) (fun run => run.flatMap (·.points)) tail final items s

/-! ## The copier (R241, R242, R244) -/

/-- Count and report an acquisition that is complete (R244). -/
def acqCheckComplete (no : Nat) (s : State) : State := match findAcq s no with
  | some q =>
    if q.complete ∨ ¬ q.sources.all (·.done) then s
    else match atIndex q.at_ with
      | some m =>
        let s := setAcq no (fun q => { q with complete := true }) s
        let s := setAt m (fun a => { a with complete := a.complete + 1, lastAddr := q.addr, lastBytes := q.used, lastNo := no }) s
        reapAcqs (raise (evAt m 3) [.h m.val, .w no, .q q.addr, .w q.used] s)
      | none => s
  | none => s

/-- The poisoned sectors that the read of an item has met: in a ring by ticks, in SPECTRA by the records of its vectors. -/
def SourceCopy.poisonMet (s : State) (c : SourceCopy) (x : CopyItem) : List Nat :=
  if x.gap ≠ some 10 then []
  else match c.inlet with
    | some n => if h : n < 4 then ((s.inlets[n].ring.poisoned.filter fun p => decide (p.start < x.stop ∧ x.tick < p.stop)).map (·.addr)) else []
    | none => match findTask s c.task with
      | some t => ((t.vectors.filter fun v => decide (x.index ≤ v.first ∧ v.first < x.index + x.count)).flatMap fun v => v.places.getD []).flatMap
          fun p => ((sectorsOf p.1 p.2).filter s.store.poison.contains).map (· * 32)
      | none => []
/-- A source copy takes one item as copied; each read that decodes uncorrectable is reported for the copies' requester (R79). -/
def takeItem (no idx : Nat) (x : CopyItem) (f : SourceCopy → SourceCopy) (s : State) : State :=
  let c := match findAcq s no with | some q => (q.sources.drop idx).head? | none => none
  let met := match c with | some c => c.poisonMet s x | none => []
  forL met (fun a s => raise 0x304 [.q a, .h rqRetro] s) (setSource no idx (fun c => f { c with items := c.items ++ [x] }) s)

/-- The uncopied span that the overwrite front has reached becomes one GAP record of cause 5, or 8 while the copies' requester is
throttled; the copy-gap event (R100, R242). -/
def frontGap (no idx : Nat) (q : Acquisition) (c : SourceCopy) (a b : Nat) (f : SourceCopy → SourceCopy) (s : State) : State :=
  let g := c.gapItem s q.def_ a b (lossCause s rqRetro 5)
  let s := takeItem no idx g f s
  match atIndex q.at_ with
  | some m => raiseAt (evAt m 4) q.trigTick [.h m.val, .w no, .q g.tick, .q g.stop] (setAt m (fun x => { x with copyGaps := x.copyGaps + 1 }) s)
  | none => s

/-- The first kept cell of a task's vectors at or after a tick: its first covered spectrum has its time there (R231). -/
def spectralCell (t : Task) (d : AcqDef) (tick : Nat) : Nat :=
  let a := max 1 t.desc.avg
  let per := max 1 (a * t.desc.hop)
  -- the sample number at the tick, counted from g0
  let n := ((((tick : Int) * 65536 - t.tBase) * t.tDen / (max 1 t.tNum) + t.tLag) - t.g0).toNat
  let j := n / per
  let j := if t.indexTick (j * a) < tick ∨ t.indexTime (j * a) < tick * 65536 then j + 1 else j
  let j := if 0 < j ∧ tick * 65536 ≤ t.indexTime ((j - 1) * a) then j - 1 else j
  ceilDiv (ceilDiv j d.a) d.d * d.d

/-- The kept cell where an acquisition's source ends now, which a DISARM with ABORT may have moved (R219). -/
def sourceStop (s : State) (q : Acquisition) (c : SourceCopy) (stop : Nat) : Nat := match q.cut with
  | none => stop
  | some t => match c.inlet with
    | some n => if h : n < 4 then min stop (rawCell s.inlets[n] q.def_ t) else stop
    | none => match findTask s c.task with
      | some tk => min stop (spectralCell tk q.def_ t)
      | none => stop

/-- The head of a source is copied: publish it in tick order; the source is done unless a tail follows (R240, R244). -/
def headDone (no idx : Nat) (s : State) : State := match findAcq s no with
  | some q => match q.sources.drop idx with
    | c :: _ =>
      if c.headOut then s
      else
        let last := decide (sourceStop s q c c.stop ≤ c.headStop)
        let s := acqPublish no idx false last (sortBy (·.index) c.items) s
        setSource no idx (fun c => { c with headOut := true, done := last, items := [] }) s
    | [] => s
  | none => s

/-- Items of a record of a source (R235). -/
def SourceCopy.per (s : State) (d : AcqDef) (c : SourceCopy) (items : List CopyItem) : Nat := match c.inlet with
  | some n => if h : n < 4 then rawPer s.inlets[n] d else 1
  | none => max 1 (itemCap / max 1 (items.foldl (fun m x => max m x.points.length) 0))
/-- How many of a source's items, in tick order, make up records whose content is final: all but those of the last run, and those too
where it fills its record. -/
def finalItems (per : Nat) (l : List CopyItem) : Nat := match (frontRuns per l).getLast? with
  | none => 0
  | some r => if r.length = per ∧ (r.headD ⟨none, 0, 0, 0, 0, 0, 0, 0, [], []⟩).gap.isNone then l.length else l.length - r.length
/-- Publish the records of a source whose content is final (R244). While a copy runs newest-first nothing new is; the last record waits
for the end, which gives it FINAL. -/
def publishFinal (no idx : Nat) (s : State) : State := match findAcq s no with
  | none => s
  | some q => match q.sources.drop idx with
    | [] => s
    | c :: _ =>
      let stop := sourceStop s q c c.stop
      let end_ := if c.headOut then stop else min stop c.headStop
      if c.done ∨ (c.newestFirst ∧ c.low < c.high) ∨ end_ ≤ c.post ∨ stop ≤ c.low then s
      else
        let l := sortBy (·.index) c.items
        let k := finalItems (c.per s q.def_ l) l
        if k = 0 then s
        else setSource no idx (fun c => { c with items := l.drop k }) (acqPublish no idx c.headOut false (l.take k) s)

/-- Move a source copy on by one kept cell (R241, R242); it stands where nothing is there to copy yet. -/
def moveCopy (no idx : Nat) (s : State) : State := match findAcq s no with
  | none => s
  | some q => match q.sources.drop idx with
    | [] => s
    | c :: _ =>
      let d := q.def_
      let dd := max 1 d.d
      let trig := min c.trig (sourceStop s q c c.stop)
      if c.done then s
      else if ¬ c.newestFirst ∧ c.low < trig then
        match c.read s d c.low with
        | .item x => takeItem no idx x (fun c => { c with low := c.low + dd }) s
        | .front => setSource no idx (fun c => { c with newestFirst := true }) s
        | .notYet => s
        | .ended => setSource no idx (fun c => { c with low := trig, stop := c.low, headStop := min c.headStop c.low }) s
      else if c.newestFirst ∧ c.low < c.high then
        match c.read s d (c.high - dd) with
        | .item x => takeItem no idx x (fun c => { c with high := c.high - dd }) s
        | .front => frontGap no idx q c c.low c.high (fun c => { c with high := c.low }) s
        | .notYet => s
        | .ended => setSource no idx (fun c => { c with high := c.high - dd }) s
      else if c.post < min (sourceStop s q c c.stop) (if c.headOut then c.stop else c.headStop) then
        match c.read s d c.post with
        | .item x => takeItem no idx x (fun c => { c with post := c.post + dd }) s
        | .front =>
          if c.headOut then takeItem no idx (c.gapItem s d c.post (c.post + dd) (lossCause s rqTailwind 1)) (fun c => { c with post := c.post + dd }) s
          else
            let e := min (sourceStop s q c c.stop) c.headStop
            frontGap no idx q c c.post e (fun c => { c with post := e }) s
        | .notYet => s
        | .ended => setSource no idx (fun c => { c with stop := c.post, headStop := min c.headStop c.post }) s
      else if c.headOut then
        setSource no idx (fun c => { c with done := true, items := [] }) (acqPublish no idx true true c.items s)
      else headDone no idx s
/-- The same, and what it makes final is published (R244). -/
def copyStep (no idx : Nat) (s : State) : State := publishFinal no idx (moveCopy no idx s)

/-- Move a source copy on by a number of items, then see whether the acquisition is complete. -/
def copyChunk (no idx items : Nat) (s : State) : State :=
  acqCheckComplete no ((List.range (items + 1)).foldl (fun s _ => copyStep no idx s) s)

/-- The tails of STREAM acquisitions take what has committed (R240). -/
def advanceTails (s : State) : State :=
  forL (acqsInFlight s) (fun q s => forL ((List.range q.sources.length).zip q.sources) (fun x s =>
    if x.2.headOut ∧ ¬ x.2.done then copyChunk q.no x.1 ((x.2.stop - x.2.post) / max 1 q.def_.d) s else s) s) s

/-! ## The fire (R231, R238) -/

/-- Source copies in progress (R241). -/
def copiesInProgress (s : State) : Nat := ((acqsInFlight s).map fun q => (q.sources.filter (!·.done)).length).sum
/-- Whether a share of 64 GB/s among n copies outruns a source of an exact rate in kB/s by 17/16 (R242). -/
def outruns (n : Nat) (rate : Nat × Nat) : Bool := decide (17 * rate.1 * n ≤ 16 * 64000000 * rate.2)

/-- A source copy of an inlet for a trigger tick (R231, R242). -/
def rawSource (s : State) (d : AcqDef) (t copies : Nat) (n : Fin 4) : SourceCopy :=
  let i := s.inlets[n]
  let lo := t - d.preTicks
  let b := max lo i.begin_
  let first := rawCell i d b
  let trig := max first (rawCell i d t)
  let newest := !outruns copies i.rate
  { inlet := some n.val, slot := 0, task := 0, begin_ := b, preClipped := decide (lo < i.begin_), first := first, trig := trig,
    headStop := rawCell i d (t + d.headPost), stop := rawCell i d (t + d.postTicks), low := first, high := trig, post := trig,
    newestFirst := newest, items := [], segments := [], headOut := false, done := false }

/-- A source copy of a task for a trigger tick. -/
def spectralSource (s : State) (d : AcqDef) (t copies : Nat) (slot id : Nat) : Option SourceCopy := match findTask s id with
  | none => none
  | some tk =>
    let lo := t - d.preTicks
    let b := match tk.inlet with | some n => s.inlets[n].begin_ | none => 0
    let first := spectralCell tk d (max lo b)
    let trig := max first (spectralCell tk d t)
    some
      { inlet := none, slot := slot, task := id, begin_ := max lo b, preClipped := decide (lo < b), first := first, trig := trig,
        headStop := spectralCell tk d (t + d.headPost), stop := spectralCell tk d (t + d.postTicks), low := first, high := trig, post := trig,
        newestFirst := !outruns copies (tk.outKbs, 1), items := [], segments := [], headOut := false, done := false }

/-- All source copies of a definition for a trigger tick. -/
def allSources (s : State) (d : AcqDef) (t : Nat) : List SourceCopy :=
  let n := copiesInProgress s + d.inlets.length + d.slots.length
  d.inlets.map (rawSource s d t n) ++ d.slots.filterMap (fun x => spectralSource s d t n x.1 x.2)

/-- A fire that cannot cut a record delivers one GAP record of cause 1 per source (R238). -/
def dropFire (q : Acquisition) (s : State) : State :=
  forL q.sources (fun c s =>
    let g := c.gapItem s q.def_ c.first c.stop 1
    let put := fun (ch : Nat) (s : State) =>
      publish q.def_.stream (prodAcq q.no ch) (gapRecord (acqHeader s q ch g rfFinal g.count) 1 g.stop 0) g.stop none true s
    match c.inlet with
    | some n => forL (q.def_.channels.filter fun ch => ch / 8 = n) put s
    | none => put (0x80 + c.slot) s) s

/-- Cut the acquisition of a fire (R231, R236, R238). -/
def cutAcquisition (m : Fin 16) (tick frac winner flags : Nat) (s : State) : State := match s.squall.ats[m].def_ with
  | none => s
  | some d =>
    let no := s.squall.nextAcq + 1
    let s := { s with squall := { s.squall with nextAcq := no % 2 ^ 32 } }
    let q : Acquisition :=
      { no := no, at_ := m.val, trigTick := tick, trigFrac := frac, winner := winner, armSeq := s.squall.ats[m].armSeq,
        flags := flags, def_ := d, addr := 0, size := 0, used := 0, cut := none, sources := allSources s d tick, complete := false }
    let space := if 64 ≤ (acqsInFlight s).length then none else allocateAcq (acqNeed s d) s
    match space with
    | some (a, s) =>
      let s := { s with squall := { s.squall with acqs := s.squall.acqs ++ [{ q with addr := a, size := acqNeed s d }] } }
      acqCheckComplete no s
    | none =>
      let s := setAt m (fun x => { x with dropped := satN 32 (x.dropped + 1) }) s
      dropFire q (raiseAt (evAt m 6) tick [.h m.val, .q tick] s)

/-- End the spectral sources of a task that ends: what it has kept is copied, and the sources end (R140). -/
def endSpectral (id : Nat) (s : State) : State :=
  forL (acqsInFlight s) (fun q s => forL ((List.range q.sources.length).zip q.sources) (fun x s =>
    if x.2.inlet = none ∧ x.2.task = id ∧ ¬ x.2.done then
      let n := (x.2.stop - x.2.first) / max 1 q.def_.d + 4
      let s := copyChunk q.no x.1 n s
      match findAcq s q.no with
      | some q' => match q'.sources.drop x.1 with
        | c :: _ =>
          if c.done then s
          else acqCheckComplete q.no (setSource q.no x.1 (fun c => { c with done := true })
            (acqPublish q.no x.1 c.headOut true (sortBy (·.index) c.items) s))
        | [] => s
      | none => s
    else s) s) s

/-- A DISARM with ABORT ends the records of an AT at its tick (R219). -/
def truncateAcqs (m : Fin 16) (t : Nat) (s : State) : State :=
  { s with squall := { s.squall with acqs := s.squall.acqs.map fun q =>
      if q.at_ = m.val ∧ ¬ q.complete ∧ t < q.stopTick then { q with cut := some t } else q } }

end Sys2Proof.Machine
end

