-- ==== Sys2Proof/Machine/SquallOps.lean ====
section
/-! DEFINITION. Squall: conditions and qualifiers of the trigger units (R194 to R206), the trigger matrix (R210 to R215),
admission and hold-off (R212, R216 to R220), and the fires of groups (R225 to R227). -/

namespace Sys2Proof.Machine

/-! ## State -/

/-- Change one unit. -/
def setUnit (u : Fin 32) (f : TrigUnit → TrigUnit) (s : State) : State :=
  { s with squall := { s.squall with units := vmod s.squall.units u f } }
/-- Unit kinds (R207). -/
def tkFmask : Nat := 1
def tkDensity : Nat := 2
def tkSk : Nat := 3
def tkBand : Nat := 4
def tkLevel : Nat := 5
def tkEdge : Nat := 6
def tkExternal : Nat := 7
def tkPeer : Nat := 8
def tkSoftware : Nat := 9
def UnitCfg.spectral (c : UnitCfg) : Bool := 1 ≤ c.kind ∧ c.kind ≤ 4
def UnitCfg.timeDomain (c : UnitCfg) : Bool := c.kind = 5 ∨ c.kind = 6
/-- The identifier of a unit's event (R247). -/
def evUnit (u : Fin 32) (o : Nat) : Nat := 0x600 + u.val * 4 + o
def unitIndex (n : Nat) : Option (Fin 32) := if h : n < 32 then some ⟨n, h⟩ else none

/-- Whether an AT is a group AT (R216). -/
def AcqTrigger.group (a : AcqTrigger) : Bool := match a.def_ with | some d => 2 ≤ d.armMode | none => false
def AcqTrigger.armMode (a : AcqTrigger) : Nat := match a.def_ with | some d => d.armMode | none => 0

/-! ## Decision bounds (R30, R197, R203, R222) -/

/-- The decision bound of a unit, rounded up to a tick once: R30 with q - 1 hops, or q - 1 samples, or min_width (R222). -/
def unitBound (s : State) (c : UnitCfg) : Nat :=
  if c.spectral then match findTask s c.source with
    | some t =>
      let den := max 1 t.fsNum
      4480 + ceilDiv (t.desc.nIn * den + (c.minDur - 1) * t.desc.frameHop * 512 * t.fsDen) (16 * den)
    | none => 4480
  else if c.timeDomain then match inletOfChannel (c.source % 256) with
    | some n => 640 + ceilDiv ((c.minDur - 1) * 32 * s.inlets[n].fsDen) (max 1 s.inlets[n].fsNum)
    | none => 640
  else if c.kind = tkExternal then 128 + c.minWidth
  else 0
/-- The units in an AT's terms. -/
def matrixUnits (a : AcqTrigger) : List (Fin 32) := match a.matrix with
  | some m => (List.finRange 32).filter fun u => (m.term1 ++ m.term2).any fun t => bit t u.val
  | none => []
/-- The decision bound L_dec of an AT (R222). -/
def decisionBound (s : State) (a : AcqTrigger) : Nat := ((matrixUnits a).map fun u => unitBound s s.squall.units[u].cfg).foldl max 0

/-- S_min = L + P + 1 us with P = H x 140.04 ns, in ticks of 781.25 ps, rounded up (R223). -/
def settleMin (l h : Nat) : Nat := ceilDiv (l * 78125 + h * 14004000 + 1280 * 78125) 78125

/-! ## Pulses (R214) -/

/-- Schedule the TRIG_OUT pulses of a fire; a rising edge already past comes at the decision and is late. -/
def schedulePulse (m : Fin 16) (tick : Nat) (s : State) : State := match s.squall.ats[m].matrix with
  | some c =>
    if c.outMask = 0 then s
    else
      let now := s.clk.tick
      let want := tick + c.outDelay
      let late := decide (c.outDelay ≠ 0 ∧ want < now)
      let rise := if c.outDelay = 0 ∨ late then now else want
      let w := if c.outWidth = 0 then 128 else c.outWidth
      { s with squall := { s.squall with pulses := s.squall.pulses ++ [⟨m.val, c.outMask, rise, rise + w, late⟩] } }
  | none => s

/-- Send a fire of an exported AT to every peer (R215). -/
def exportFire (m : Fin 16) (tick frac : Nat) (s : State) : State := match s.squall.ats[m].matrix with
  | some c =>
    if ¬ c.export_ then s
    else
      let p := mkPacket s ptTrig 1 0 0 tick (frac + m.val * 2 ^ 16)
      broadcast none { p with bcast := true } s
  | none => s

/-! ## Disarming (R219, R220) -/

/-- Disarm an AT and raise the event with the cause (R220). -/
def disarmAt (m : Fin 16) (cause : Nat) (s : State) : State :=
  if s.squall.ats[m].armed then
    raise (evAt m 2) [.h m.val, .h cause] (setAt m (fun a => { a with armed := false, disarmTick := none, disarmAbort := false }) s)
  else s

/-- Begin disarming an armed AT at a tick, with ABORT or without (R219). -/
def beginDisarm (m : Fin 16) (tick : Nat) (abort : Bool) (s : State) : State :=
  let s := setAt m (fun a => { a with disarmTick := some tick, disarmAbort := abort }) s
  if abort then truncateAcqs m tick s else s

/-- Disarm every AT of a mask whose pending disarm has run out. -/
def endDisarms (d : PendingDisarm) (s : State) : State :=
  forL (List.finRange 16) (fun m s =>
    if bit d.mask m.val ∧ s.squall.ats[m].disarmTick = some d.tick then disarmAt m d.cause s else s) s

/-- Pending disarms without a command of their own end once their bound has passed (R219, R224, R468). -/
def expireDisarms (s : State) : State :=
  let due := s.squall.pendingDisarms.filter fun d => d.cmd.isNone && decide (d.due ≤ s.clk.tick)
  let s := { s with squall := { s.squall with pendingDisarms := s.squall.pendingDisarms.filter fun d => !(d.cmd.isNone && decide (d.due ≤ s.clk.tick)) } }
  forL due endDisarms s

/-! ## Fires of an AT (R212, R216, R218) -/

/-- Count a fire of a hold-off source: a unit, or 32 + AT (R218). -/
def countSource (src tick : Nat) (s : State) : State :=
  forL (List.finRange 16) (fun m s =>
    let a := s.squall.ats[m]
    match a.def_, a.heldFrom with
    | some d, some f =>
      if a.armed ∧ d.armMode = 1 ∧ d.holdoffKind = 2 ∧ d.holdoffSrc = src ∧ a.holdDone = none ∧ f < tick then
        setAt m (fun a => { a with holdCount := a.holdCount + 1, holdDone := if d.holdoff ≤ a.holdCount + 1 then some tick else none }) s
      else s
    | _, _ => s) s

/-- Whether hold-off lets a satisfaction fire (R218). -/
def admits (a : AcqTrigger) (tick : Nat) : Bool := match a.def_, a.heldFrom with
  | some d, some f =>
    if d.holdoffKind = 0 then f < tick
    else if d.holdoffKind = 1 then f + d.holdoff ≤ tick
    else match a.holdDone with | some t => t < tick | none => false
  | _, _ => true

/-- The flags of an acquisition's prefix that its fire sets (R236). -/
def fireFlags (partialGroup late forced : Bool) : Nat := 4 * b2n partialGroup + 8 * b2n late + 16 * b2n forced

/-- Count a fire, drive the pins, export it and cut the record (R212, R214, R215, R231). -/
def fireEffects (m : Fin 16) (tick frac winner : Nat) (late forced : Bool) (s : State) : State :=
  let s := setAt m (fun a => { a with fires := a.fires + 1, lastTrig := tick, late := satN 32 (a.late + b2n late) }) s
  let s := raiseAt (evAt m 0) tick [.h m.val, .since] s
  let s := exportFire m tick frac (schedulePulse m tick s)
  let s := cutAcquisition m tick frac winner (fireFlags s.squall.ats[m].partial_ late forced) s
  match s.squall.ats[m].disarmTick with
  | some t => if s.squall.ats[m].disarmAbort then truncateAcqs m t s else s
  | none => s

/-- An AT outside groups fires (R212, R216, R218): SINGLE is then disarmed, NORMAL starts its hold-off. -/
def fireAt (m : Fin 16) (tick frac : Nat) (late forced : Bool) (s : State) : State :=
  let s := fireEffects m tick frac s.link.did late forced s
  if s.squall.ats[m].armMode = 0 then disarmAt m 1 s
  else setAt m (fun a => { a with heldFrom := some tick, holdCount := 0, holdDone := none }) s

/-! ## Group fires (R225) -/

/-- Whether a decision now is before local tick t + S - P, compared exactly in 10 fs units (R225). -/
def eligible (s : State) (a : AcqTrigger) (tick : Nat) : Bool :=
  decide (((tick + a.settle : Nat) : Int) * 78125 - (a.hops * 14004000 : Nat) > (s.clk.tick : Int) * 78125)

/-- Send a TRIG packet of a group to a member (R345). -/
def sendTrig (m : Fin 16) (subtype did seq tick frac : Nat) (payload : Data) (s : State) : State :=
  let g := match s.squall.ats[m].def_ with | some d => d.groupId | none => 0
  let p := mkPacket s ptTrig subtype did (BitVec.ofNat 32 seq) tick (frac + m.val * 2 ^ 16 + g * 2 ^ 20)
  send { p with payload := payload } s

/-- A group AT is satisfied: an eligible fire goes to every member, itself included; another is counted (R225, R227). -/
def groupFire (m : Fin 16) (tick frac : Nat) (forced : Bool) (s : State) : State :=
  let a := s.squall.ats[m]
  if tick < a.rearmTick then setAt m (fun a => { a with heldOffCount := satN 32 (a.heldOffCount + 1) }) s
  else if ¬ eligible s a tick then
    raiseAt 0x703 tick [.h m.val, .q tick] (setAt m (fun a => { a with ineligible := satN 32 (a.ineligible + 1) }) s)
  else
    let s := setAt m (fun a => { a with round := a.round ++ [⟨tick, frac, s.link.did, forced⟩] }) s
    forL (a.members.filter (·.did ≠ s.link.did)) (fun x s => sendTrig m 2 x.did a.armSeq tick frac [] s) s

/-! ## The matrix (R210, R211) -/

/-- Whether a pending disarm shuts a satisfaction at a tick out (R219). -/
def AcqTrigger.shut (a : AcqTrigger) (tick : Nat) : Bool := match a.disarmTick with | some t => decide (t ≤ tick) | none => false

/-- An AT is satisfied at a tick (R212, R216 to R219). -/
def satisfy (m : Fin 16) (tick frac : Nat) (late : Bool) (s : State) : State :=
  let s := if s.squall.ats[m].armed then countSource (32 + m.val) tick s else s
  let a := s.squall.ats[m]
  if ¬ a.armed ∨ tick < a.armTick ∨ a.shut tick then s
  else if a.group then groupFire m tick frac false s
  else if ¬ admits a tick then setAt m (fun a => { a with heldOffCount := satN 32 (a.heldOffCount + 1) }) s
  else fireAt m tick frac late false s

/-- Keep the four most recent of a list. -/
def lastFour {α : Type} (l : List α) : List α := l.drop (l.length - 4)
/-- The earliest of fires by tick and fraction. -/
def earliest : List Fire → Option Fire
  | [] => none
  | x :: xs => some (xs.foldl (fun a b => if b.tick < a.tick ∨ (b.tick = a.tick ∧ b.frac < a.frac) then b else a) x)
/-- The latest of fires by tick and fraction. -/
def latest : List Fire → Option Fire
  | [] => none
  | x :: xs => some (xs.foldl (fun a b => if a.tick < b.tick ∨ (b.tick = a.tick ∧ a.frac < b.frac) then b else a) x)

/-- A satisfaction of a step of an AT (R211). -/
def stepSatisfied (m : Fin 16) (second : Bool) (f : Fire) (s : State) : State :=
  let a := s.squall.ats[m]
  match a.matrix with
  | none => s
  | some c =>
    if ¬ c.seq then satisfy m f.tick f.frac f.late s
    else
      let others := if second then a.firstSteps else a.secondSteps
      let fits := others.filter fun x =>
        if second then decide (x.tick ≤ f.tick ∧ f.tick ≤ x.tick + c.seqWindow) else decide (f.tick ≤ x.tick ∧ x.tick ≤ f.tick + c.seqWindow)
      match earliest fits with
      | none => setAt m (fun a => if second then { a with secondSteps := lastFour (a.secondSteps ++ [f]) }
                                  else { a with firstSteps := lastFour (a.firstSteps ++ [f]) }) s
      | some x =>
        let s := setAt m (fun a => if second then { a with firstSteps := a.firstSteps.erase x }
                                   else { a with secondSteps := a.secondSteps.erase x }) s
        let b := if second then f else x
        satisfy m b.tick b.frac (f.late || x.late) s

/-- The remembered fires of a unit for a term. -/
def TrigUnit.remembered (t : TrigUnit) (slot : Nat) : List Fire := ((t.memory.find? (·.1 = slot)).map Prod.snd).getD []
/-- Change them. -/
def TrigUnit.remember (t : TrigUnit) (slot : Nat) (l : List Fire) : TrigUnit :=
  { t with memory := t.memory.filter (·.1 ≠ slot) ++ (if l = [] then [] else [(slot, l)]) }
/-- The product terms of a matrix configuration, by their slot of an AT: first-step terms 0 to 3, second-step terms 4 to 7. -/
def MatrixCfg.slots (c : MatrixCfg) : List Nat := (c.term1 ++ [0, 0, 0, 0]).take 4 ++ (c.term2 ++ [0, 0, 0, 0]).take 4
/-- A term that a configuration changes is a new one: it has consumed nothing, and finds each unit's four most recent fires (R210;
log 23). -/
def TrigUnit.newTerms (t : TrigUnit) (u at_ : Nat) (old new : List Nat) : TrigUnit :=
  (List.range 8).foldl (fun t i =>
    let mask := (new.drop i).headD 0
    if (old.drop i).headD 0 = mask then t else t.remember (at_ * 8 + i) (if bit mask u then t.recent else [])) t

/-- The fires a term chooses: for the lowest tick that allows it, each unit's earliest fire within coinc (R210). -/
def chooseFires (s : State) (units : List (Fin 32)) (slot coinc : Nat) : Option (List (Fin 32 × Fire)) :=
  let all := units.flatMap fun u => (s.squall.units[u].remembered slot).map (·.tick)
  (sortBy id all).findSome? fun lo =>
    let picks := units.filterMap fun u => (earliest ((s.squall.units[u].remembered slot).filter fun f => decide (lo ≤ f.tick ∧ f.tick ≤ lo + coinc))).map (u, ·)
    if picks.length = units.length then some picks else none

/-- Satisfy a term as often as its remembered fires allow; satisfaction consumes them for that term (R210). -/
def matchTerm (m : Fin 16) (second : Bool) (units : List (Fin 32)) (slot coinc : Nat) : Nat → State → State
  | 0, s => s
  | n + 1, s => match chooseFires s units slot coinc with
    | none => s
    | some picks => match latest (picks.map Prod.snd) with
      | none => s
      | some top =>
        let s := forL picks (fun p s => setUnit p.1 (fun t => t.remember slot ((t.remembered slot).erase p.2)) s) s
        matchTerm m second units slot coinc n (stepSatisfied m second { top with late := picks.any (·.2.late) } s)

/-- A unit's fire is remembered and enters the matrix (R210). -/
def matrixFire (u : Fin 32) (f : Fire) (s : State) : State :=
  let s := setUnit u (fun t => { t with recent := lastFour (t.recent ++ [f]) }) s
  let s := expireDisarms (countSource u.val f.tick s)
  forL (List.finRange 16) (fun m s => match s.squall.ats[m].matrix with
    | none => s
    | some c => forL (((List.range 4).zip c.term1).map (fun x => (x.1, x.2, false)) ++ ((List.range 4).zip c.term2).map (fun x => (4 + x.1, x.2, true)))
        (fun x s =>
          if bit x.2.1 u.val then
            let slot := m.val * 8 + x.1
            let s := setUnit u (fun t => t.remember slot (lastFour (t.remembered slot ++ [f]))) s
            matchTerm m x.2.2 ((List.finRange 32).filter fun v => bit x.2.1 v.val) slot c.coinc 5 s
          else s) s) s

/-! ## Qualifiers (R196, R197) -/

/-- A unit fires: counted, reported, and given to the matrix. -/
def unitFires (u : Fin 32) (f : Fire) (s : State) : State :=
  let s := setUnit u (fun t => { t with fires := satN 64 (t.fires + 1), lastFire := f.tick, late := satN 32 (t.late + b2n f.late) }) s
  let s := if f.late then raiseAt (evUnit u 1) f.tick [.h u.val] s else s
  matrixFire u f (raiseAt (evUnit u 0) f.tick [.h u.val, .since] s)

/-- One step of a unit, decided at a tick: the condition, whether it was a hole or a gap entry, the step's tick and fraction, the tick
of the step's last input, and the bound after it beyond which a decision is late (none: never late). -/
def stepAt (now : Nat) (u : Fin 32) (cond gap : Bool) (tick frac last : Nat) (bound : Option Nat) (s : State) : State :=
  let t := s.squall.units[u]
  let s := setUnit u (fun t =>
    { t with steps := satN 64 (t.steps + 1), gapSteps := satN 32 (t.gapSteps + b2n gap),
             condition := cond && !gap, worstLatency := satN 32 (max t.worstLatency (now - last)) }) s
  if ¬ cond ∨ gap then setUnit u (fun t => { t with runLen := 0 }) s
  else
    let t0 := if t.runLen = 0 then tick else t.runTick
    let f0 := if t.runLen = 0 then frac else t.runFrac
    let s := setUnit u (fun t => { t with runLen := t.runLen + 1, runTick := t0, runFrac := f0 }) s
    if t.runLen + 1 ≠ t.cfg.minDur then s
    else if t.progress + 1 < t.cfg.count then
      setUnit u (fun t => { t with occurrences := satN 64 (t.occurrences + 1), progress := t.progress + 1 }) s
    else
      let s := setUnit u (fun t => { t with occurrences := satN 64 (t.occurrences + 1), progress := 0 }) s
      unitFires u ⟨t0, f0, match bound with | some b => decide (last + b < now) | none => false, now⟩ s

/-- A step decided now. -/
def unitStep (u : Fin 32) (cond gap : Bool) (tick frac last : Nat) (bound : Option Nat) (s : State) : State :=
  stepAt s.clk.tick u cond gap tick frac last bound s

/-- One qualified step that is a run of its own, decided at a tick: an edge, a message, a forced fire (R194, R205). -/
def ownStepAt (now : Nat) (u : Fin 32) (tick frac : Nat) (s : State) : State :=
  stepAt now u true false tick frac tick none (setUnit u (fun t => { t with runLen := 0 }) s)
/-- The same, decided now. -/
def ownStep (u : Fin 32) (tick frac : Nat) (s : State) : State := ownStepAt s.clk.tick u tick frac s

/-! ## What falls due by itself -/

/-- Edges whose pin has held its level for min_width step their units, in the order in which they qualify (R203). -/
def qualifyEdges (s : State) : State :=
  let due := (sortBy (·.due) s.squall.pendingEdges).filter fun e => decide (e.due ≤ s.clk.tick)
  let s := { s with squall := { s.squall with pendingEdges := s.squall.pendingEdges.filter fun e => !decide (e.due ≤ s.clk.tick) } }
  forL due (fun e s => match unitIndex e.unit with
    | some u => if s.squall.units[u].cfg.kind = tkExternal ∧ ¬ s.squall.units[u].detached then ownStepAt e.due u e.tick e.frac s else s
    | none => s) s
/-- Edges that have qualified, and disarms without a command of their own that have run out, up to the clock. -/
def squallDue (s : State) : State := expireDisarms (qualifyEdges s)

/-! ## Spectral conditions (R195, R198 to R201) -/

/-- The level of a mask at a bin, none outside its points (R198). -/
def maskAt : List (Nat × Int) → Nat → Option Int
  | [], _ => none
  | [(k, v)], b => if b = k then some v else none
  | (ka, va) :: (kb, vb) :: l, b =>
    if b < ka then none
    else if b < kb then some (va + roundDiv ((vb - va) * ((b : Int) - ka)) (kb - ka))
    else maskAt ((kb, vb) :: l) b

/-- Q_t of a level: 10^(t / 2,560) x 2^64 in binary64, rounded to an integer (R201). -/
def bandLevel (t : Int) : Nat :=
  let x := (fxExp ((t.natAbs : Int) * fxLn10 / 2560)).toNat
  let num := if t < 0 then fxOne else x
  let den := if t < 0 then x else fxOne
  let sh : Int := 52 - exponentOf num den
  let m := if 0 ≤ sh then roundDiv (num * 2 ^ sh.toNat : Nat) den else roundDiv num (den * 2 ^ (-sh).toNat)
  let e : Int := 64 - sh
  if 0 ≤ e then m.toNat * 2 ^ e.toNat else (roundDiv m (2 ^ (-e).toNat)).toNat

/-- A bin's log power as the conditions see it. -/
def levelOf (p : U32) : Int := (logLevel p).1
/-- The powers of bins lo to hi. -/
def binRange (power : List U32) (lo hi : Nat) : List U32 := (power.drop lo).take (hi + 1 - lo)

/-- Violating bins of a spectrum (R198): a bin counts once. -/
def violations (c : UnitCfg) (power : List U32) : Nat :=
  ((List.range power.length).filter fun k =>
    let l := levelOf ((power.drop k).headD 0)
    (bit c.mode 0 && match maskAt c.upperMask k with | some v => decide (v < l) | none => false) ||
    (bit c.mode 1 && match maskAt c.lowerMask k with | some v => decide (l < v) | none => false)).length

/-- The condition of one spectrum, and the hits of DENSITY. -/
def spectralEval (c : UnitCfg) (power : List U32) : Bool × Nat :=
  if c.kind = tkFmask then (decide (c.nMin ≤ violations c power), 0)
  else if c.kind = tkDensity then
    (false, ((binRange power c.binLo c.binHi).filter fun p => decide (c.lvlLo ≤ levelOf p ∧ levelOf p ≤ c.lvlHi)).length)
  else
    let sum := ((binRange power c.binLo c.binHi).map quantise).sum
    (if c.direction = 0 then decide (bandLevel c.lvlLo ≤ sum) else decide (sum ≤ bandLevel c.lvlLo), 0)

/-- DENSITY over its window of steps (R199). -/
def densityHolds (c : UnitCfg) (hits : List Nat) : Bool :=
  let h := hits.sum * 65536
  let w := c.thr * c.window * (c.binHi + 1 - c.binLo)
  hits.length = c.window && (if c.direction = 0 then decide (w ≤ h) else decide (h ≤ w))

/-- Take one held step through the qualifier. -/
def takeStep (u : Fin 32) (h : HeldStep) (last bound : Nat) (s : State) : State :=
  let c := s.squall.units[u].cfg
  let s := setUnit u (fun t => { t with heldSteps := t.heldSteps.filter (·.index ≠ h.index), nextIndex := h.index + 1 }) s
  if c.kind = tkDensity then
    let hits := s.squall.units[u].recentHits ++ [h.hits]
    let hits := hits.drop (hits.length - c.window)
    unitStep u (densityHolds c hits) h.gap h.tick h.frac last (some bound) (setUnit u (fun t => { t with recentHits := hits }) s)
  else unitStep u h.holds h.gap h.tick h.frac last (some bound) s

/-- Advance a unit's qualifier strictly in index order (R195); passed tells the indices that passed before the unit was
configured, lastOf the tick of an index's last input. -/
def advanceUnit (u : Fin 32) (passed : Nat → Bool) (lastOf : Nat → Nat) (bound : Nat) : Nat → State → State
  | 0, s => s
  | n + 1, s =>
    let t := s.squall.units[u]
    match t.heldSteps.find? (·.index = t.nextIndex) with
    | some h => advanceUnit u passed lastOf bound n (takeStep u h (lastOf h.index) bound s)
    | none =>
      if t.heldSteps ≠ [] ∧ passed t.nextIndex then
        advanceUnit u passed lastOf bound n (setUnit u (fun t => { t with nextIndex := t.nextIndex + 1 }) s)
      else s

/-- The units attached to a task by kind. -/
def attachedUnits (s : State) (task : Nat) (sk : Bool) : List (Fin 32) := (List.finRange 32).filter fun u =>
  let t := s.squall.units[u]
  t.cfg.spectral && decide (t.cfg.source = task) && !t.detached && (decide (t.cfg.kind = tkSk) == sk)

/-- The bound of R30 after a step's last input: the step that begins a run is q - 1 hops before the one that fires. -/
def spectralBound (t : Task) : Nat := 4480 + ceilDiv t.desc.nIn 16

/-- Offer a committed spectrum, or a gap entry, to the spectral units of its task (R195). -/
def offerSpectrum (t : Task) (index : Nat) (power : Option (List U32)) (s : State) : State :=
  forL (attachedUnits s t.id false) (fun u s =>
    let tu := s.squall.units[u]
    if index < tu.nextIndex then s
    else
      let e := match power with | some p => spectralEval tu.cfg p | none => (false, 0)
      let time := t.frameTime index
      let s := setUnit u (fun x => { x with heldSteps := x.heldSteps ++ [⟨index, time / 65536, time % 65536, e.1, e.2, power.isNone⟩] }) s
      advanceUnit u (fun k => if t.desc.twoStage then decide (k < t.coarsePub) || t.coarseHeld.any (·.index = k) else t.passed k)
        (fun k => ceilDiv (t.frameStop k) 65536) (spectralBound t) (tu.heldSteps.length + 4098) s) s

/-- SK sums of a block (R134). -/
structure SkBlock where
  s1 : List Nat
  s2 : List Nat
  flags : List Bool
deriving DecidableEq, Repr

/-- Offer an SK block to the SK units of its task (R200); none where the block holds a gap entry. -/
def offerSkBlock (t : Task) (block : Nat) (b : Option SkBlock) (s : State) : State :=
  let m := 2 ^ t.desc.skMLog2
  forL (attachedUnits s t.id true) (fun u s =>
    let tu := s.squall.units[u]
    if block < tu.nextIndex then s
    else
      let c := tu.cfg
      let holds := match b with
        | none => false
        | some b =>
          let n := ((List.range (c.binHi + 1 - c.binLo)).filter fun i =>
            let k := c.binLo + i - t.skFirst
            if c.lower = 0 ∧ c.upper = 0 then (b.flags.drop k).headD false
            else
              let s1 := (b.s1.drop k).headD 0
              let s2 := (b.s2.drop k).headD 0
              (c.lower ≠ 0 && skBelow m s1 s2 c.lower) || (c.upper ≠ 0 && skAbove m s1 s2 c.upper)).length
          decide (c.nMin ≤ n)
      let time := t.frameTime (block * m)
      let last := ceilDiv (t.frameStop (block * m + m - 1)) 65536
      takeStep u ⟨block, time / 65536, time % 65536, holds, 0, b.isNone⟩ last (spectralBound t) s) s

/-! ## Time-domain conditions (R202) -/

/-- The value a component selects of a sample's 16-bit I and Q. -/
def componentValue (c : UnitCfg) (i q : Int) : Int := if c.component = 0 then i else if c.component = 1 then q else i * i + q * q

/-- TD_EDGE in one direction: ready, then holding while the value stays at the level; v and level mirrored for falling. -/
def edgeStep (ready high : Bool) (v level hyst : Int) : Bool × Bool :=
  if high && decide (level ≤ v) then (ready, true)
  else if ready && decide (level ≤ v) then (false, true)
  else (ready || decide (v ≤ level - hyst), false)

/-- One sample of a time-domain unit: whether its condition holds, and the edge state after it. -/
def timeDomainStep (t : TrigUnit) (v : Int) : Bool × TrigUnit :=
  let c := t.cfg
  if c.kind = tkLevel then
    (if c.mode = 0 then decide (c.lvlHi < v ∨ v < c.lvlLo) else decide (c.lvlLo ≤ v ∧ v ≤ c.lvlHi), t)
  else
    let r := if c.slope = 1 then (false, false) else edgeStep t.readyRise t.highRise v c.lvlLo c.hyst
    let f := if c.slope = 0 then (false, false) else edgeStep t.readyFall t.lowFall (-v) (-c.lvlLo) c.hyst
    (r.2 || f.2, { t with readyRise := r.1, highRise := r.2, readyFall := f.1, lowFall := f.2 })

/-- The time-domain units on the channels of an inlet. -/
def inletUnits (s : State) (n : Fin 4) : List (Fin 32) := (List.finRange 32).filter fun u =>
  let t := s.squall.units[u]
  t.cfg.timeDomain && !t.detached && decide (t.cfg.source % 256 / 8 = n.val)

/-- Evaluate one released sample of an inlet: its time in 1/65,536 tick and the 16-bit value of every converter. -/
def evaluateSample (n : Fin 4) (time : Nat) (values : List Int) (s : State) : State :=
  forL (inletUnits s n) (fun u s =>
    let t := s.squall.units[u]
    let k := t.cfg.source % 256 % 8
    let r := timeDomainStep t (componentValue t.cfg ((values.drop k).headD 0) ((values.drop (k + 1)).headD 0))
    unitStep u r.1 false (time / 65536) (time % 65536) (time / 65536) none (setUnit u (fun _ => r.2) s)) s

/-- Samples that an inlet makes part of a hole are not evaluated; they end the run and count as gap steps (R196, R202, R245). -/
def skipSamples (n : Fin 4) (count time : Nat) (s : State) : State :=
  forL (inletUnits s n) (fun u s =>
    setUnit u (fun t => { t with steps := satN 64 (t.steps + (count - 1)), gapSteps := satN 32 (t.gapSteps + (count - 1)) })
      (unitStep u false true (time / 65536) (time % 65536) (time / 65536) none s)) s

/-! ## Detaching (R209, R220) -/

/-- Detach the units a test picks: they keep their configuration and evaluate nothing. -/
def detachUnits (p : TrigUnit → Bool) (s : State) : State :=
  forL (List.finRange 32) (fun u s =>
    let t := s.squall.units[u]
    if t.cfg.kind ≠ 0 ∧ ¬ t.detached ∧ p t then raise (evUnit u 2) [.h u.val] (setUnit u (fun t => { t with detached := true }) s)
    else s) s
/-- A task ends: its units are detached and the ATs that name it as a spectral source are disarmed (R209, R220). -/
def detachTask (id : Nat) (s : State) : State :=
  let s := detachUnits (fun t => t.cfg.spectral && decide (t.cfg.source = id)) s
  forL (List.finRange 16) (fun m s => match s.squall.ats[m].def_ with
    | some d => if d.slots.any (·.2 = id) then disarmAt m 4 s else s
    | none => s) s
/-- An inlet stops, or a channel of it ceases to exist (R209). -/
def detachInlet (n : Fin 4) (s : State) : State :=
  detachUnits (fun t => t.cfg.timeDomain && decide (t.cfg.source % 256 / 8 = n.val) &&
    (!s.inlets[n].active || !channelNamed s (t.cfg.source % 256))) s
/-- A FORCE stop disarms the ATs that use the inlet as a raw source (R59, R220). -/
def disarmInlet (n : Fin 4) (s : State) : State :=
  forL (List.finRange 16) (fun m s => match s.squall.ats[m].def_ with
    | some d => if d.inlets.contains n then disarmAt m 3 s else s
    | none => s) s

/-- A group AT loses the path to a registered member while it is armed (R228). -/
def markPartial (did : Nat) (s : State) : State :=
  forL (List.finRange 16) (fun m s =>
    let a := s.squall.ats[m]
    if a.armed ∧ a.group ∧ a.members.any (·.did = did) ∧ ¬ a.partial_ then
      let g := match a.def_ with | some d => d.groupId | none => 0
      raise 0x702 [.h g, .h did] (raise (evAt m 7) [.h m.val, .h did] (setAt m (fun a => { a with partial_ := true }) s))
    else s) s

end Sys2Proof.Machine
end

