-- ==== Sys2Proof/Machine/EddyOps.lean ====
section
/-! DEFINITION. Eddy: the update of a density map by a spectrum (R250, R251), the sweep with its export formats (R253 to
R260), clears (R265), and the resources a map holds (R248, R261). -/

namespace Sys2Proof.Machine

/-- Change one map. -/
def setMap (m : Fin 8) (f : DensityMap → DensityMap) (s : State) : State :=
  { s with eddy := { s.eddy with maps := vmod s.eddy.maps m f } }
def mapIndex (n : Nat) : Option (Fin 8) := if h : n < 8 then some ⟨n, h⟩ else none
/-- The identifier of a map's event (R266). -/
def evMap (m : Fin 8) (o : Nat) : Nat := 0x540 + m.val * 4 + o

/-- Flags of a map (R262). -/
def MapCfg.age (c : MapCfg) : Bool := bit c.flags 0
def MapCfg.clamp (c : MapCfg) : Bool := bit c.flags 1
def MapCfg.planes (c : MapCfg) : Bool := bit c.flags 2
def MapCfg.raw (c : MapCfg) : Bool := bit c.flags 3
def MapCfg.chroma422 (c : MapCfg) : Bool := bit c.flags 4
def MapCfg.byAge (c : MapCfg) : Bool := bit c.flags 5
/-- SRAM of a map (R248). -/
def MapCfg.sram (c : MapCfg) : Nat := c.columns * c.rows * (if c.age then 4 else 2)
/-- Pitch, chroma lines and size of a plane buffer (R258). -/
def MapCfg.pitch (c : MapCfg) : Nat := ceilDiv (4 * ceilDiv c.columns 3) 256 * 256
def MapCfg.chromaLines (c : MapCfg) : Nat := if c.chroma422 then c.rows else c.rows / 2
def MapCfg.planeSize (c : MapCfg) : Nat := c.pitch * (c.rows + c.chromaLines)
/-- Size of a raw record buffer (R260). -/
def MapCfg.rawSize (c : MapCfg) : Nat := paddedLen (c.columns * c.rows * 2)
/-- Export cost in bytes per second, exact, as a numerator and a denominator (R261). -/
def MapCfg.exportCost (c : MapCfg) : Nat × Nat :=
  (((if c.planes then c.planeSize else 0) + (if c.raw then 64 + c.columns * c.rows * 2 else 0)) * secTicks, max 1 c.exportTicks)
/-- The bins a map looks at from bin_first. -/
def MapCfg.binSpan (c : MapCfg) : Nat := c.columns * 2 ^ c.colLog2

/-! ## Updates (R250, R251) -/

/-- The row of a level, none where the map makes no update (R250). -/
def MapCfg.rowOf (c : MapCfg) (l : Int) : Option Nat :=
  let r := (c.top - l).fdiv c.rowStep
  if r < 0 then (if c.clamp then some 0 else none)
  else if (c.rows : Int) ≤ r then (if c.clamp then some (c.rows - 1) else none)
  else some r.toNat

/-- One cell update. -/
def updateCell (cell : Nat) (d : DensityMap) : DensityMap :=
  { d with counts := d.counts.put cell (min (d.counts.at_ cell + 1) 65535),
           youth := match d.cfg with | some c => if c.age then d.youth.put cell 65535 else d.youth | none => d.youth }

/-- Every update of one spectrum (R250). -/
def applySpectrum (c : MapCfg) (power : List U32) (d : DensityMap) : DensityMap :=
  forN c.columns (fun col d =>
    let bins := (power.drop (c.binFirst + col * 2 ^ c.colLog2)).take (2 ^ c.colLog2)
    let top := bins.foldl (fun m p => if m.toNat < p.toNat then p else m) (0 : U32)
    match c.rowOf (levelOf top) with
    | some r => updateCell (r * c.columns + col) d
    | none => d) d

/-! ## Export formats (R256 to R258) -/

/-- log2 of a number with 64 fraction bits: the exponent, then one bit for each squaring of the significand. -/
def log2Bits : Nat → Nat → Nat → Nat
  | 0, _, acc => acc
  | n + 1, x, acc =>
    let y := x * x / 2 ^ 128
    if 2 ^ 129 ≤ y then log2Bits n (y / 2) (2 * acc + 1) else log2Bits n y (2 * acc)
def log2Fx (n : Nat) : Nat := log2Bits 64 (n * 2 ^ (128 - Nat.log2 n)) (Nat.log2 n)

/-- Luma of a count, in binary64 (R256): log2 from 64 fraction bits rounded once, its product with the gain, and the exact quotient by 256
rounded to an integer (log 20). -/
def MapCfg.luma (c : MapCfg) (count : Nat) : Nat :=
  if count < c.minCount then 0
  else
    let v := (D64.ofFrac (log2Fx (1 + count) : Nat) (2 ^ 64)).mul (D64.ofFrac c.lumGain 1)
    min 1023 (roundDiv v.num (v.den * 256)).toNat
/-- The colour index of a cell (R257). -/
def MapCfg.colour (c : MapCfg) (count age : Nat) : Nat :=
  let y := c.luma count
  if y = 0 then 0 else if c.byAge then min 255 (age * c.ageMul) else y / 4
/-- The default colour map (R257). -/
def defaultCmap : List (Nat × Nat) := (512, 512) :: (List.range 255).map fun i =>
  let turn : Int := -((381 + 24 * i : Nat) : Int)
  ((512 + roundDiv (400 * cosTurn turn 9144) fxOne).toNat, (512 + roundDiv (400 * sinTurn turn 9144) fxOne).toNat)
/-- A colour map read from the host. -/
def readCmap (d : Data) : List (Nat × Nat) := (List.range 256).map fun i => (bits (u32At d (i * 4)) 9 0, bits (u32At d (i * 4)) 25 16)

/-- Pack 10-bit values, three to a word (R258). -/
def pack10 : List Nat → Data
  | a :: b :: c :: l => le 4 (a + b * 2 ^ 10 + c * 2 ^ 20) ++ pack10 l
  | [a, b] => le 4 (a + b * 2 ^ 10)
  | [a] => le 4 a
  | [] => []
/-- A line of a plane, at its pitch; the bytes after its samples are written as 0 (log 26). -/
def planeLine (pitch : Nat) (l : List Nat) : Data := let d := pack10 l; d ++ zeros (pitch - d.length)

/-- The age of a cell. -/
def DensityMap.age (d : DensityMap) (cell : Nat) : Nat := 65535 - d.youth.at_ cell
/-- The luma plane of a map as it stands. -/
def lumaPlane (c : MapCfg) (d : DensityMap) : Data :=
  (List.range c.rows).flatMap fun r => planeLine c.pitch ((List.range c.columns).map fun x => c.luma (d.counts.at_ (r * c.columns + x)))
/-- The chroma plane: the entry for the largest index of each block, Cb first (R257, R258). -/
def chromaPlane (c : MapCfg) (d : DensityMap) : Data :=
  let h := if c.chroma422 then 1 else 2
  (List.range c.chromaLines).flatMap fun y => planeLine c.pitch ((List.range (c.columns / 2)).flatMap fun x =>
    let idx := ((List.range h).flatMap fun j => (List.range 2).map fun i =>
      let cell := (y * h + j) * c.columns + x * 2 + i
      c.colour (d.counts.at_ cell) (d.age cell)).foldl max 0
    let e := (c.cmap.drop idx).headD (0, 0)
    [e.1, e.2])
/-- The payload of a DENSITY record: counts as u16, row-major (R260). -/
def rawCounts (c : MapCfg) (d : DensityMap) : Data := (List.range (c.columns * c.rows)).flatMap fun k => le 2 (d.counts.at_ k)

/-! ## The sweep (R253 to R255, R259) -/

/-- The decayed count (R253). -/
def MapCfg.decayed (c : MapCfg) (n : Nat) : Nat := if c.decayK = 255 then n else n - ceilDiv n (2 ^ c.decayK)
/-- The sweep goes on to a cell: it takes each cell's count and age as they stand, and writes back the decayed count and the next age. -/
def sweepTo (c : MapCfg) (stop : Nat) (w : Sweep) (d : DensityMap) : DensityMap :=
  let here := fun (x : Nat × Nat) => decide (w.cells ≤ x.1 ∧ x.1 < stop)
  let cs := d.counts.filter here
  let ys := d.youth.filter here
  { d with counts := cs.foldl (fun m x => m.put x.1 (c.decayed x.2)) d.counts,
           youth := if c.age then ys.foldl (fun m x => m.put x.1 (x.2 - 1)) d.youth else d.youth,
           sweep := some { w with cells := stop, counts := w.counts ++ cs, youth := w.youth ++ ys } }

/-- Whether the layer L0 in use is enabled and follows a map (R276, R282). -/
def l0Follows (s : State) (m : Fin 8) : Bool :=
  let l := s.scn.layers[0]
  l.set.ctrl.getLsbD 0 && l.set.ctrl.getLsbD 1 && decide (bits l.set.ctrl.toNat 4 2 = m.val)
/-- The plane buffer that an export writes: neither the newest nor latched by an L0 that follows the map (R259). -/
def exportBuffer (s : State) (m : Fin 8) (c : MapCfg) : Nat :=
  let d := s.eddy.maps[m]
  let held := fun k => l0Follows s m && decide (s.scn.layers[0].latched.headD 0 = d.planeBase + k * c.planeSize)
  ((List.range 3).find? fun k => decide (d.newest ≠ some k) && !held k).getD 0
/-- Whether a raw record buffer still waits to be read out by a stream (R260). -/
def rawHeld (s : State) (a : Nat) : Bool := s.tw.toList.any fun t =>
  t.queue.any (fun r => decide (r.addr = some a))

/-- The header of a DENSITY record (R260). -/
def densityHeader (s : State) (m : Fin 8) (c : MapCfg) (d : DensityMap) (w : Sweep) : RecHdr :=
  let ch := match findTask s c.task with | some t => t.desc.channel | none => 0
  let b := w.tick / c.exportTicks
  { type := rtDensityRec, flags := w.marks % 8, tStart := if d.skippedLast then d.completedAt else (b - 1) * c.exportTicks,
    tFrac := 0, srcCh := ch, epoch := w.epoch % 256, srcDid := s.link.did, itemIndex := b, itemCount := satN 32 w.spectra,
    aux := m.val, cfgCrc := c.crc, taskId := c.task }

/-- The next boundary of a map (R253). -/
def MapCfg.nextBoundary (c : MapCfg) (d : DensityMap) : Nat := (d.lastBoundary / c.exportTicks + 1) * c.exportTicks

/-- The planes of a map, as the sweep met its cells, go to their buffer. -/
def exportPlanes (m : Fin 8) (c : MapCfg) (d : DensityMap) (s : State) : State :=
  if ¬ c.planes then s
  else
    let k := exportBuffer s m c
    let s := storeWrite (d.planeBase + k * c.planeSize) (lumaPlane c d ++ chromaPlane c d) s
    setMap m (fun d => { d with writing := some k }) s
/-- The raw record goes to the older of its two buffers, or a GAP of cause 1 stands for it (R260). -/
def exportRaw (m : Fin 8) (c : MapCfg) (d : DensityMap) (w : Sweep) (s : State) : State :=
  if ¬ c.raw then s
  else
    let a := d.rawBase + d.rawTurn * c.rawSize
    let h := densityHeader s m c d w
    if rawHeld s a then
      setMap m (fun d => { d with record := some ⟨gapRecord { h with flags := 0 } 1 w.tick c.rawSize, none, w.tick⟩ }) s
    else
      let r := recordBytes h (rawCounts c d)
      setMap m (fun d => { d with record := some ⟨r, some a, w.tick⟩, rawTurn := 1 - d.rawTurn }) (storeWrite a r s)

/-- All of an export's writes are accepted: its buffer is the newest, which the display shows from its next frame
start on (R32, latchLayer), and its record is published (R259, R260). -/
def exportAccepted (m : Fin 8) (s : State) : State := match s.eddy.maps[m].cfg with
  | none => s
  | some c =>
    let d := s.eddy.maps[m]
    let s := setMap m (fun d =>
      { d with newest := if d.writing.isSome then d.writing else d.newest, writing := none, record := none,
               interval := d.number }) s
    match d.record with
    | some r => publish c.stream (prodMap m.val) r.bytes r.stop r.addr true s
    | none => s

/-- Whether an export's writes are still under way. -/
def DensityMap.exporting (d : DensityMap) : Bool := d.sweep.isSome || d.writing.isSome || d.record.isSome

/-- Whether its writes to the store are. -/
def DensityMap.writesStore (d : DensityMap) : Bool := d.writing.isSome || d.record.isSome

/-- The sweep has passed every cell: what it took is exported (R253). -/
def endSweep (m : Fin 8) (s : State) : State := match s.eddy.maps[m].cfg, s.eddy.maps[m].sweep with
  | some c, some w =>
    let d := s.eddy.maps[m]
    let shot := { d with counts := w.counts, youth := w.youth }
    let s := exportRaw m c shot w (exportPlanes m c shot s)
    let s := setMap m (fun d => { d with sweep := none, number := w.tick / c.exportTicks, skippedLast := false, completedAt := w.tick,
                                         saturated := (w.counts.filter (·.2 = 65535)).length }) s
    if s.eddy.maps[m].exporting then s else exportAccepted m s
  | _, _ => s
/-- The sweep goes on to a cell, and ends with the last. -/
def sweepOn (m : Fin 8) (stop : Nat) (s : State) : State := match s.eddy.maps[m].cfg, s.eddy.maps[m].sweep with
  | some c, some w =>
    let n := min stop (c.columns * c.rows)
    let s := setMap m (fun d => sweepTo c n { w with since := s.clk.up } d) s
    if n = c.columns * c.rows then endSweep m s else s
  | _, _ => s
/-- The sweep goes as far as the clock has let it: 64 cells a clock, of which updates in between may take up to half; how many they take
is a free value (R253, R254; log 135). -/
def advanceSweep (m : Fin 8) (s : State) : State := match s.eddy.maps[m].sweep with
  | none => s
  | some w =>
    let n := s.clk.up - w.since
    if n = 0 then s
    else
      let f := takeFree s
      sweepOn m (w.cells + 32 * n + (Config.freeWord f.1).toNat % (32 * n + 1)) f.2
/-- The whole of the sweep under way. -/
def finishSweep (m : Fin 8) (s : State) : State := match s.eddy.maps[m].cfg with
  | some c => sweepOn m (c.columns * c.rows) s
  | none => s

/-- A boundary of a map falls: a sweep begins, which exports and decays its cells, or the boundary is skipped (R253, R255). -/
def mapBoundary (m : Fin 8) (tick : Nat) (s : State) : State := match s.eddy.maps[m].cfg with
  | none => s
  | some c =>
    let s := advanceSweep m s
    let d := s.eddy.maps[m]
    let s := setMap m (fun d => { d with lastBoundary := tick }) s
    if d.exporting then
      raise (evMap m 0) [.h m.val] (setMap m (fun d => { d with skipped := satN 32 (d.skipped + 1), skippedLast := true }) s)
    else
      let e := match findTask s c.task with | some t => t.epoch | none => 0
      setMap m (fun d => { d with sweep := some ⟨tick, 0, s.clk.up, [], [], d.spectraInterval, d.marks, e⟩, spectraInterval := 0, marks := 0 }) s

/-! ## Spectra (R249, R251, R252) -/

/-- A map meets a spectrum: whole or not at all. Its input certainly has room when it holds nothing; how much more it holds
the manual leaves open (R251). Marks are those of R133 and R160. -/
def mapSpectrum (m : Fin 8) (power : List U32) (marks : Nat) (s : State) : State := match s.eddy.maps[m].cfg with
  | none => s
  | some c =>
    let s := advanceSweep m s
    let busy := decide (s.clk.up < s.eddy.maps[m].busyUntil)
    let f := if busy then takeFree s else (0, s)
    let s := f.2
    if busy ∧ Config.freeBit f.1 then
      raise (evMap m 1) [.since] (setMap m (fun d => { d with dropped := satN 32 (d.dropped + 1) }) s)
    else
      setMap m (fun d =>
        { applySpectrum c power d with
            busyUntil := max d.busyUntil s.clk.up + ceilDiv c.columns 32, spectra := satN 64 (d.spectra + 1),
            spectraInterval := d.spectraInterval + 1, marks := d.marks ||| marks }) s

/-- Offer a committed spectrum to the maps of its task (R249, R252). -/
def offerMaps (task : Nat) (power : List U32) (marks : Nat) (s : State) : State :=
  forL (List.finRange 8) (fun m s => match s.eddy.maps[m].cfg with
    | some c => if c.task = task ∧ ¬ s.eddy.maps[m].detached then mapSpectrum m power marks s else s
    | none => s) s

/-- Detach the maps of a task that is destroyed or whose inlet stops (R264). -/
def detachMaps (task : Nat) (s : State) : State :=
  forL (List.finRange 8) (fun m s => match s.eddy.maps[m].cfg with
    | some c => if c.task = task ∧ ¬ s.eddy.maps[m].detached then raise (evMap m 2) [.h m.val] (setMap m (fun d => { d with detached := true }) s)
                else s
    | none => s) s

/-- Set every count to 0 and every age to 65,535 (R265). -/
def clearMap (m : Fin 8) (s : State) : State := setMap m (fun d => { d with counts := [], youth := [] }) s

/-! ## Resources (R248, R261) -/

/-- The spans of DENSITY that the maps' buffers hold. -/
def mapSpans (s : State) : List (Nat × Nat) := s.eddy.maps.toList.flatMap fun d => match d.cfg with
  | some c => (if c.planes then [(d.planeBase, 3 * c.planeSize)] else []) ++ (if c.raw then [(d.rawBase, 2 * c.rawSize)] else [])
  | none => []
/-- The lowest place within a region's span that a list of taken spans leaves free. -/
def placeIn (lo hi need : Nat) (taken : List (Nat × Nat)) : Option Nat :=
  let starts := lo :: taken.map fun x => x.1 + x.2
  (sortBy id starts).find? fun a => decide (lo ≤ a ∧ a + need ≤ hi) && taken.all fun x => decide (a + need ≤ x.1 ∨ x.1 + x.2 ≤ a)
/-- Places for the plane buffers and the raw buffers of a map, lowest first (R261; log 27). -/
def placeBuffers (s : State) (c : MapCfg) : Option (Nat × Nat) := match s.store.region rtDensity with
  | none => if c.planes ∨ c.raw then none else some (0, 0)
  | some r =>
    let taken := mapSpans s
    let p := if c.planes then placeIn r.base (r.base + r.size) (3 * c.planeSize) taken else some 0
    match p with
    | none => none
    | some p =>
      let taken := if c.planes then (p, 3 * c.planeSize) :: taken else taken
      let w := if c.raw then placeIn r.base (r.base + r.size) (2 * c.rawSize) taken else some 0
      w.map fun w => (p, w)

/-- SRAM of all configured maps, and their export costs. -/
def mapsSram (s : State) : Nat := (s.eddy.maps.toList.map fun d => match d.cfg with | some c => c.sram | none => 0).sum
def mapCosts (s : State) : List (Nat × Nat) := s.eddy.maps.toList.filterMap fun d => d.cfg.map (·.exportCost)
/-- Whether export costs stay within 4 GB/s, compared exactly (R261). -/
def costsFit (costs : List (Nat × Nat)) : Bool := let r := sumRates costs; decide (r.1 ≤ 4000000000 * r.2)
/-- Whether a task's spectra may feed C columns: at most 40.96 G updates/s, compared exactly (R251). -/
def updatesFit (t : Task) (columns : Nat) : Bool := decide (t.fsNum * columns ≤ 1024 * t.fsDen * t.desc.frameHop)

/-- The maps meet a change of the time base: boundaries count from the new tick. -/
def rebaseMaps (tick : Nat) (s : State) : State :=
  forL (List.finRange 8) (fun m s => setMap m (fun d => { d with lastBoundary := tick }) s) s

end Sys2Proof.Machine
end

