-- ==== Sys2Proof/Machine/ScanOps.lean ====
section
/-! DEFINITION. The scan-out's shared operations: timings (R268), layer sets (R270 to R272), composition (R269), the fetch
buffer and the stated latency tolerance (R278, R279), hand-overs (R272 to R276). -/

namespace Sys2Proof.Machine

/-- Change the scan-out; change one layer. -/
def setScn (f : ScanOut → ScanOut) (s : State) : State := { s with scn := f s.scn }
def setLayer (l : Fin 4) (f : Layer → Layer) (s : State) : State := setScn (fun c => { c with layers := vmod c.layers l f }) s

/-- SCN_CTRL ENABLE and TIMING_APPLY (R282). -/
def scnEnabled (s : State) : Bool := (s.reg (kScn 0)).getLsbD 0
def timingApplied (s : State) : Bool := (s.reg (kScn 0)).getLsbD 1

/-! ## Timings (R268) -/

/-- The fields of a timing set: six words in the order of the registers. -/
def tWord (t : List U32) (i : Nat) : Nat := ((t.drop i).headD 0).toNat
def tHTotal (t : List U32) : Nat := bits (tWord t 0) 28 16
def tHActive (t : List U32) : Nat := bits (tWord t 0) 12 0
def tVTotal (t : List U32) : Nat := bits (tWord t 2) 28 16
def tVActive (t : List U32) : Nat := bits (tWord t 2) 12 0
def tVStart (t : List U32) : Nat := bits (tWord t 3) 12 0
def tPclk (t : List U32) : Nat := tWord t 4
def tLink (t : List U32) : Nat := tWord t 5
def tLanes (t : List U32) : Nat := bits (tLink t) 3 2
def tRate (t : List U32) : Nat := bits (tLink t) 1 0
def tSsc (t : List U32) : Bool := bit (tLink t) 4

/-- Lanes by code, and Mbit/s per lane by rate code. -/
def dpLanes (code : Nat) : Nat := 2 ^ code
def dpMbps (code : Nat) : Nat := ([1620, 2700, 5400, 8100].drop code).headD 8100

/-- Why a timing is refused: 0 valid, 1 invalid timing, 2 pixel clock, 3 link bandwidth (R268, R282). -/
def timingCause (t : List U32) : Nat :=
  let hs := bits (tWord t 1) 12 0
  let hw := bits (tWord t 1) 28 16
  let vw := bits (tWord t 3) 28 16
  let bpp := if bit (tLink t) 7 then 30 else 24
  if ¬ (640 ≤ tHActive t ∧ tHActive t ≤ 4096 ∧ 480 ≤ tVActive t ∧ tVActive t ≤ 2160 ∧ tHTotal t ≤ 8191 ∧ tVTotal t ≤ 8191 ∧
        tHActive t ≤ hs ∧ hs + hw ≤ tHTotal t ∧ tVActive t ≤ tVStart t ∧ tVStart t + vw ≤ tVTotal t ∧
        bits (tLink t) 6 5 ≤ 1 ∧ tLanes t ≤ 2) then 1
  else if ¬ (25000000 ≤ tPclk t ∧ tPclk t ≤ 600000000) then 2
  else if dpLanes (tLanes t) * dpMbps (tRate t) * 796000 < tPclk t * bpp then 3
  else 0

/-- The timing shadow as the registers hold it. -/
def timingShadow (s : State) : List U32 := (List.range 6).map fun i => s.reg (kScn (0x100 + 4 * i))

/-- Ticks of one frame. -/
def frameTicks (t : List U32) : Nat := ceilDiv (tHTotal t * tVTotal t * secTicks) (max 1 (tPclk t))
/-- The raster line at an uptime: the frame start is the leading edge of vertical sync. -/
def rasterLine (s : State) : Nat :=
  let t := s.scn.timing
  if ¬ s.scn.running then 0
  else (tVStart t + (s.clk.up - s.scn.frameAt) * tPclk t / max 1 (tHTotal t * secTicks)) % max 1 (tVTotal t)

/-! ## Layer sets (R270, R271) -/

def LayerSet.en (x : LayerSet) : Bool := x.ctrl.getLsbD 0
def LayerSet.follow (x : LayerSet) : Bool := x.ctrl.getLsbD 1
def LayerSet.map (x : LayerSet) : Nat := bits x.ctrl.toNat 4 2
def LayerSet.hrep (x : LayerSet) : Nat := 1 + b2n (x.ctrl.getLsbD 6)
def LayerSet.vrep (x : LayerSet) : Nat := 1 + b2n (x.ctrl.getLsbD 7)
def LayerSet.alpha (x : LayerSet) : Nat := bits x.ctrl.toNat 15 8
def LayerSet.x (l : Fin 4) (x : LayerSet) : Int := if l = 3 then signed 14 (bits x.pos.toNat 13 0) else bits x.pos.toNat 13 0
def LayerSet.y (l : Fin 4) (x : LayerSet) : Int := if l = 3 then signed 14 (bits x.pos.toNat 29 16) else bits x.pos.toNat 29 16
/-- Source size; the cursor is 64 x 64 (R269). -/
def LayerSet.width (l : Fin 4) (x : LayerSet) : Nat := if l = 3 then 64 else bits x.size.toNat 12 0
def LayerSet.height (l : Fin 4) (x : LayerSet) : Nat := if l = 3 then 64 else bits x.size.toNat 28 16
def LayerSet.pitchBytes (l : Fin 4) (x : LayerSet) : Nat := if l = 3 then 256 else bits x.pitch.toNat 11 0 * 256
/-- Whether the layer's chroma is 4:2:0. -/
def LayerSet.c420 (l : Fin 4) (x : LayerSet) : Bool := l = 0 && !x.ctrl.getLsbD 5
def LayerSet.chromaLines (l : Fin 4) (x : LayerSet) : Nat := if x.c420 l then x.height l / 2 else x.height l
/-- Bytes per frame (R271). -/
def LayerSet.frameBytes (l : Fin 4) (x : LayerSet) : Nat :=
  if l = 3 then 16384 else if l = 2 then 4 * x.pitchBytes l * x.height l else x.pitchBytes l * (x.height l + x.chromaLines l)
/-- Lines of each plane. -/
def LayerSet.planeLines (l : Fin 4) (x : LayerSet) : List Nat :=
  if l = 3 then [64] else if l = 2 then List.replicate 4 (x.height l) else [x.height l, x.chromaLines l]
/-- The plane addresses a set names: store address bits 34:6. -/
def LayerSet.planeAddrs (x : LayerSet) : List Nat := x.planes.map fun p => bits p.toNat 28 0 * 64

/-- The sum of the fetch rates of the enabled layers with set x in layer l stays within 2.0 GB/s (R271). -/
def budgetFits (s : State) (l : Fin 4) (x : LayerSet) : Bool :=
  let t := s.scn.timing
  let total := ((List.finRange 4).map fun k => let y := if k = l then x else s.scn.layers[k].set
                                               if y.en then y.frameBytes k else 0).sum
  decide (total * tPclk t ≤ 2000000000 * (tHTotal t * tVTotal t))

/-- The map an L0 set follows, where it exports planes of the layer's size and sampling (R276). -/
def followsMap (s : State) (x : LayerSet) : Bool := match mapIndex x.map with
  | some m => match s.eddy.maps[m].cfg with
    | some c => c.planes && decide (c.columns = x.width 0 ∧ c.rows = x.height 0) && c.chroma422 == x.ctrl.getLsbD 5
    | none => false
  | none => false

/-- Why a layer set is refused: 0 valid, 1 budget, 2 address, 3 geometry or follow, 4 format (R270, R276, R282). -/
def layerCause (s : State) (l : Fin 4) (x : LayerSet) : Nat :=
  let t := s.scn.timing
  let w := x.width l
  let h := x.height l
  let line := if l = 0 ∨ l = 1 then 4 * ceilDiv w 3 else if l = 2 then w else 256
  if ((l = 0 ∨ l = 1) ∧ w % 2 ≠ 0) ∨ (x.c420 l ∧ h % 2 ≠ 0) then 4
  else if x.x l < 0 ∨ x.y l < 0 ∨ (tHActive t : Int) < x.x l + (w * x.hrep : Nat) ∨ (tVActive t : Int) < x.y l + (h * x.vrep : Nat) ∨
      x.pitchBytes l < line ∨ (l = 0 ∧ x.follow ∧ ¬ followsMap s x) then 3
  else if ¬ (l = 0 ∧ x.follow) ∧ ¬ ((x.planeAddrs.zip (x.planeLines l)).all fun p =>
      s.store.within rtDensity p.1 (x.pitchBytes l * p.2) || s.store.within rtDisplay p.1 (x.pitchBytes l * p.2)) then 2
  else if ¬ budgetFits s l x then 1
  else 0

/-- A layer's shadow as the registers hold it. -/
def layerShadow (s : State) (l : Fin 4) : LayerSet :=
  { ctrl := s.reg (kLayer l.val 0x00), pos := s.reg (kLayer l.val 0x04), size := s.reg (kLayer l.val 0x08),
    pitch := s.reg (kLayer l.val 0x0C), planes := (List.range 4).map fun i => s.reg (kLayer l.val (0x10 + 4 * i)),
    bg := if l = 0 then s.reg (kLayer 0 0x28) else 0 }

/-! ## The fetch buffer and the tolerance (R278, R279) -/

/-- The buffer's 92 units divided among the enabled L0 to L2 by their bytes per frame; the rest one each in order (R278). -/
def shareBuffer (s : State) : List Nat :=
  let need := (List.finRange 3).map fun (k : Fin 3) => let y := s.scn.layers[k].set
                                                       if y.en then y.frameBytes ⟨k.val, by omega⟩ else 0
  let total := need.sum
  if total = 0 then [0, 0, 0]
  else
    let base := need.map fun n => 92 * n / total
    let extra := 92 - base.sum
    let give := need.foldl (fun (a : List Nat × Nat) n => if 0 < n ∧ 0 < a.2 then (a.1 ++ [1], a.2 - 1) else (a.1 ++ [0], a.2)) ([], extra)
    (base.zip give.1).map fun x => x.1 + x.2

/-- Bytes of the buffer that a layer may hold; the cursor has its own 16 KiB. -/
def layerShare (s : State) (l : Fin 4) : Nat := if l = 3 then 16384 else s.scn.layers[l].shareUnits * 4096

/-- Whether a layer shows data that it fetches: enabled, its planes latched. -/
def layerLive (s : State) (l : Fin 4) : Bool := s.scn.layers[l].set.en && !s.scn.layers[l].lost && 0 < s.scn.layers[l].set.frameBytes l

/-- Raster lines from the frame start to the layer's top line. -/
def topLines (s : State) (l : Fin 4) : Nat :=
  let t := s.scn.timing
  ((s.scn.layers[l].set.y l).toNat + tVTotal t - tVStart t) % max 1 (tVTotal t)

/-- Bytes of the layer's frame that the raster has consumed. -/
def layerConsumed (s : State) (l : Fin 4) : Nat :=
  let t := s.scn.timing
  let x := s.scn.layers[l].set
  let e := s.clk.up - s.scn.frameAt
  let line := tHTotal t * secTicks
  min (x.frameBytes l) ((e * tPclk t - topLines s l * line) * x.frameBytes l / max 1 (line * (x.height l * x.vrep)))

/-- The uptime at which the raster reaches the layer's first pixel whose data is not yet buffered (R279). -/
def layerDeadline (s : State) (l : Fin 4) : Nat :=
  let t := s.scn.timing
  let x := s.scn.layers[l].set
  let f := x.frameBytes l
  let line := tHTotal t * secTicks
  if f ≤ s.scn.layers[l].fetched then s.scn.frameAt + frameTicks t + topLines s l * line / max 1 (tPclk t)
  else s.scn.frameAt + (topLines s l * f + s.scn.layers[l].fetched * (x.height l * x.vrep)) * line / max 1 (f * tPclk t)

/-- A layer's tolerance in microseconds. -/
def layerTolerance (s : State) (l : Fin 4) : Nat := (layerDeadline s l - s.clk.up) / usTicks - 16

/-- The tolerance that the scan-out states, 0xFFFF for none needed (R279). -/
def displayTolerance (s : State) : Nat :=
  let l := (List.finRange 4).filter (layerLive s)
  if ¬ scnEnabled s ∨ ¬ s.scn.running ∨ s.scn.pixelPaused ∨ l = [] then 0xFFFF
  else
    let m := (l.map (layerTolerance s)).foldl min 0x10000
    if 65534 < m then 0xFFFF else m

/-- Whether the display is fetching (R105). -/
def displayFetches (s : State) : Bool := s.scn.layers.toList.any (·.fetching)

/-- The poisoned sectors among source lines lo to hi-1 of the layer's planes: each is returned as zeros and counted (R81). -/
def poisonedLines (s : State) (l : Fin 4) (lo hi : Nat) : Nat :=
  let x := s.scn.layers[l].set
  let p := x.pitchBytes l
  let spans := (s.scn.layers[l].latched.zip (x.planeLines l)).map fun q =>
    let a := lo * q.2 / max 1 (x.height l)
    let b := ceilDiv (hi * q.2) (max 1 (x.height l))
    (q.1 + a * p, (b - a) * p)
  (spans.map fun q => (s.store.poison.filter fun k => decide (q.1 < k * 32 + 32 ∧ k * 32 < q.1 + q.2)).length).sum

/-- The layer's share of the buffer is filled (R278, R279). -/
def fillLayer (l : Fin 4) (s : State) : State :=
  let x := s.scn.layers[l].set
  let f := x.frameBytes l
  let n := min f (layerConsumed s l + layerShare s l)
  let bad := poisonedLines s l (s.scn.layers[l].fetched * x.height l / max 1 f) (ceilDiv (n * x.height l) (max 1 f))
  setStore (fun st => { st with displayZeroed := satN 32 (st.displayZeroed + bad) })
    (setLayer l (fun y => { y with fetched := max y.fetched n, fetching := false }) s)

/-! ## Composition (R269) -/

/-- A byte of a plane; a poisoned sector reads as zeros (R81). -/
def planeByte (s : State) (a : Nat) : Nat := if s.store.poison.contains (sectorOf a) then 0 else (s.store.mem.byte a).toNat
/-- Sample i of a line of 10-bit samples packed three to a word (R258). -/
def packed10 (s : State) (line i : Nat) : Nat :=
  let a := line + i / 3 * 4
  (planeByte s a + 256 * planeByte s (a + 1) + 65536 * planeByte s (a + 2) + 16777216 * planeByte s (a + 3)) / 2 ^ (10 * (i % 3)) % 1024
/-- An 8-bit value widened to 10 bits. -/
def widen8 (v : Nat) : Nat := v * 4 + v / 64
/-- One component of a layer blended over what lies below it. -/
def blend (a layer below : Nat) : Nat := (roundDiv ((a * layer + (255 - a) * below : Nat) : Int) 255).toNat

/-- A pixel as Y, Cb, Cr of 10 bits. -/
abbrev Ycc := Nat × Nat × Nat
/-- Blend a pixel over another. -/
def over3 (a : Nat) (p q : Ycc) : Ycc := (blend a p.1 q.1, blend a p.2.1 q.2.1, blend a p.2.2 q.2.2)

/-- A source pixel of a layer: its alpha and its components. -/
def sourcePixel (s : State) (l : Fin 4) (sx sy : Nat) : Nat × Ycc :=
  let y := s.scn.layers[l]
  let p := y.set.pitchBytes l
  let at_ := fun k => (y.latched.drop k).headD 0
  if l = 3 then
    let a := at_ 0 + sy * 256 + sx * 4
    (planeByte s (a + 3), widen8 (planeByte s (a + 2)), widen8 (planeByte s (a + 1)), widen8 (planeByte s a))
  else if l = 2 then
    let o := sy * p + sx
    (planeByte s (at_ 3 + o) * y.set.alpha / 255,
     widen8 (planeByte s (at_ 0 + o)), widen8 (planeByte s (at_ 1 + o)), widen8 (planeByte s (at_ 2 + o)))
  else
    let c := at_ 1 + (if y.set.c420 l then sy / 2 else sy) * p
    (if l = 1 then y.set.alpha else 255, packed10 s (at_ 0 + sy * p) sx, packed10 s c (sx / 2 * 2), packed10 s c (sx / 2 * 2 + 1))

/-- A layer laid over what lies below it at a screen pixel. -/
def layPixel (s : State) (l : Fin 4) (px py : Nat) (below : Ycc) : Ycc :=
  let y := s.scn.layers[l]
  let dx := (px : Int) - y.set.x l
  let dy := (py : Int) - y.set.y l
  if ¬ layerLive s l ∨ y.underrunNow ∨ dx < 0 ∨ dy < 0 ∨ ((y.set.width l * y.set.hrep : Nat) : Int) ≤ dx ∨
      ((y.set.height l * y.set.vrep : Nat) : Int) ≤ dy then below
  else
    let q := sourcePixel s l (dx.toNat / y.set.hrep) (dy.toNat / y.set.vrep)
    over3 q.1 q.2 below

/-- Black in YCbCr. -/
def yccBlack : Ycc := (0, 512, 512)

/-- The pixel that the scan-out sends at an active position, before the output conversion: black while a frame is sent
black, otherwise L0 to L3 over the background. -/
def scanPixel (s : State) (px py : Nat) : Ycc :=
  if s.scn.blank ∨ s.scn.blackRest then yccBlack
  else
    let bg := s.scn.layers[0].set.bg.toNat
    (List.finRange 4).foldl (fun p l => layPixel s l px py p) (bits bg 9 0, bits bg 19 10, bits bg 29 20)

/-! ## The output (R267, R269) -/

/-- A component kept within its 10 bits. -/
def clip10 (v : Int) : Nat := (max 0 (min 1023 v)).toNat
/-- RGB of a pixel by the BT.709 matrix, whose coefficients are those of the standard: 2 (1 - Kr), 2 (1 - Kb) with Kr = 0.2126 and
Kb = 0.0722; full range, each component rounded once (R269; log 136). -/
def bt709 (p : Ycc) : Ycc :=
  let y : Int := p.1
  let cb : Int := (p.2.1 : Int) - 512
  let cr : Int := (p.2.2 : Int) - 512
  (clip10 (roundDiv (y * 10000 + 15748 * cr) 10000),
   clip10 (roundDiv (y * 71520000 - 18556 * 722 * cb - 15748 * 2126 * cr) 71520000),
   clip10 (roundDiv (y * 10000 + 18556 * cb) 10000))
/-- A component at the output's depth and range: limited range keeps 64 to 940, chroma 64 to 960, at 10 bits (R267, R282; log 136). -/
def outputLevel (limited bpc10 chroma : Bool) (v : Nat) : Nat :=
  let full : Int := if limited then (if chroma then 512 + roundDiv (((v : Int) - 512) * 896) 1023 else 64 + roundDiv ((v : Int) * 876) 1023) else v
  if bpc10 then clip10 full else min 255 (roundDiv full 4).toNat
/-- What the main link carries of a pixel: R, G, B or Y, Cb, Cr as OUT_FMT, BPC10 and LIMITED select. -/
def outputPixel (s : State) (px py : Nat) : Nat × Nat × Nat :=
  let l := tLink s.scn.timing
  let ycc := bits l 6 5 = 1
  let p := if ycc then scanPixel s px py else bt709 (scanPixel s px py)
  let f := fun (chroma : Bool) => outputLevel (bit l 8) (bit l 7) (chroma && ycc)
  (f false p.1, f true p.2.1, f true p.2.2)

/-! ## Hand-overs -/

/-- The main link trains, if a sink is there (R274, R275). -/
def trainLink (s : State) : State :=
  setScn (fun c => { c with link := if c.hpd then .training else .noSink, trained := false, sscActive := false }) s

/-- Take the timing shadow or refuse it; TIMING_APPLY clears (R274). -/
def takeTiming (s : State) : State :=
  let t := timingShadow s
  let s := s.setField (kScn 0) 1 1 0
  let cause := timingCause t
  if cause ≠ 0 then (s.setField (kScn 4) 7 7 1).setField (kScn 4) 10 8 cause
  else
    let old := s.scn.timing
    let s := setScn (fun c => { c with timing := t }) s
    if ¬ scnEnabled s then s
    else
      let s := if tRate t ≠ tRate old ∨ tLanes t ≠ tLanes old then trainLink s else s
      if tPclk t = tPclk old then s
      else setSynth 2 (fun y => { y with state := .acquiring, since := s.clk.up }) (setScn (fun c => { c with pixelPaused := true }) s)

/-- Take a layer's shadow or refuse it; SHADOW_VALID clears (R272). True where a set was taken. -/
def takeLayer (l : Fin 4) (s : State) : Bool × State :=
  if ¬ (s.reg (kLayer l.val 0x24)).getLsbD 0 then (false, s)
  else
    let s := s.setField (kLayer l.val 0x24) 0 0 0
    let x := layerShadow s l
    let cause := layerCause s l x
    if cause = 0 then (true, setLayer l (fun y => { y with set := x }) s)
    else (false, (s.setField (kScn 4) (12 + l.val) (12 + l.val) 1).setField (kScn 4) 18 16 cause)

/-- The newest completed buffer of the map that L0 follows, as luma and chroma plane addresses (R32, R259, R276). -/
def followedPlanes (s : State) (x : LayerSet) : Option (List Nat) := match mapIndex x.map with
  | some m => match s.eddy.maps[m].cfg, s.eddy.maps[m].newest with
    | some c, some k => some [s.eddy.maps[m].planeBase + k * c.planeSize, s.eddy.maps[m].planeBase + k * c.planeSize + c.pitch * c.rows]
    | _, _ => none
  | none => none

/-- A layer latches its plane addresses at a frame start and begins its fetch: an exported density frame shows from the first frame
start after its export completes (R32, R268, R276, R280). -/
def latchLayer (l : Fin 4) (s : State) : State :=
  let y := s.scn.layers[l]
  let s := s.setField (kLayer l.val 0x24) 2 2 (b2n y.underrunNow)
  let start := fun (p : List Nat) (lost : Bool) (s : State) =>
    setLayer l (fun y => { y with latched := p, lost := lost, underrunNow := false, fetched := 0, fetching := y.set.en && !lost }) s
  if l = 0 ∧ y.set.en ∧ y.set.follow then
    match followedPlanes s y.set with
    | some p => start p false s
    | none => start y.latched true (s.setField (kScn 4) 11 11 1)
  else start y.set.planeAddrs false s

end Sys2Proof.Machine
end

