-- ==== Sys2Proof/Machine/StoreCmds.lean ====
section
/-! DEFINITION. Store commands (R87, R88, R110) and the store's own events: refresh (R95, R96), row disturbance (R98 to R100),
link integrity and retraining (R101, R103), uncorrectable reads (R79), the patrol scrub (R82), self-refresh (R105 to R107). -/

namespace Sys2Proof.Machine

/-! ## Regions -/

/-- Zero-fill a span: its bytes read 0 and its poison is cleared (R80, R87). -/
def clearSpan (a n : Nat) (s : State) : State :=
  setStore (fun st => { st with mem := st.mem.filter (fun c => decide (c.1 < a ∨ a + n ≤ c.1)), scrambled := cutScrambled a n st.scrambled,
                                poison := st.poison.filter (fun k => decide (k * 32 < a ∨ a + n ≤ k * 32)) }) s

def allocFields : List (Nat × Nat) := [(0x08, 2), (0x10, 8)]

def doStoreRegionAlloc (c : Cmd) (s : State) : State :=
  let type := c.p8 0x08
  let size := c.p64 0x10
  checked c
    [entryCheck c allocFields [(0x08, decide (type ≤ 6))], deviceCheck s c, needState (s.store.region type).isNone,
     params [(0x09, decide (c.p8 0x09 ≤ 1)),
             (0x10, decide (size ≠ 0 ∧ size % extent = 0 ∧ (type ≠ rtHistory ∨ 256 * mib ≤ size)))],
     need (s.store.fit size).isSome stNoResource 0]
    (fun s =>
      let base := (s.store.fit size).getD 0
      let s := setStore (fun st => { st with regions := st.regions ++ [⟨type, base, size⟩] }) s
      done c base size (if bit (c.p8 0x09) 0 then clearSpan base size s else s)) s

def execStoreRegionAlloc (id : Nat) (s : State) : Host.Outcome State Fault Refusal := .next (runCmd id 0x0200 anyCmd doStoreRegionAlloc s)

/-- Whether an AT is armed with an acquisition that a test picks. -/
def armedUses (s : State) (p : AcqDef → Bool) : Bool := s.squall.ats.toList.any fun a => a.armed && (match a.def_ with | some d => p d | none => false)
/-- Whether a stream has a record to read out of a span. -/
def streamsRead (s : State) (r : Region) : Bool := s.tw.toList.any fun t => t.isOpen &&
  t.queue.any fun x => match x.addr with | some a => decide (r.base ≤ a ∧ a < r.base + r.size) | none => false
/-- Whether a Draught channel has work (R320, R333). -/
def chanActive (c : DmaChan) : Bool := c.state = .ready ∨ c.state = .running

/-- Whether a region is in use (R88). -/
def regionUsed (s : State) (r : Region) : Bool :=
  if r.type = rtHistory then
    s.inlets.toList.any (·.active) || s.tasks.any (·.kind = .retro) || armedUses s (fun d => bit d.content 0)
  else if r.type = rtSpectra then !s.tasks.isEmpty || armedUses s (fun d => !d.slots.isEmpty) || streamsRead s r
  else if r.type = rtAcq then armedUses s (fun _ => true) || !(acqsInFlight s).isEmpty || streamsRead s r
  else if r.type = rtStage then s.tw.toList.any fun t => t.isOpen && (t.stagePart || t.dest = 1)
  else if r.type = rtDensity then s.eddy.maps.toList.any (·.cfg.isSome)
  else if r.type = rtDisplay then s.scn.layers.toList.any fun l => l.set.en && l.latched.any fun a => decide (r.base ≤ a ∧ a < r.base + r.size)
  else s.drt.chans.toList.any chanActive

/-- HISTORY is freed: every ring is discarded. Its sectors keep what they last held, which stays a free value, and their poison (R80,
R87, R88). -/
def dropHistory (s : State) : State :=
  let v := historyVersion s
  let poison := s.inlets.toList.flatMap fun i => i.ring.poisoned.map fun p => p.addr / 32
  let s := setStore (fun st =>
    { st with scrambled := st.scrambled.map (fun x => { x with version := some (x.version.getD v) }),
              poison := st.poison ++ (poison.filter fun k => !st.poison.contains k) }) s
  forL (List.finRange 4) (fun n s => setInlet n (fun i => { i with ring := { Ring.reset with version := i.ring.version + 1 } }) s) s

/-- What freeing a region ends: HISTORY discards every ring (R88), ACQ the acquisitions kept there, SPECTRA the records. -/
def dropRegion (type : Nat) (s : State) : State :=
  let s := setStore (fun st => { st with regions := st.regions.filter (·.type ≠ type), spectraNext := if type = rtSpectra then 0 else st.spectraNext }) s
  if type = rtHistory then dropHistory s
  else if type = rtAcq then { s with squall := { s.squall with acqs := [] } }
  else s

def doStoreRegionFree (c : Cmd) (s : State) : State :=
  let type := c.p8 0x08
  match s.store.region type with
  | none => checked c [entryCheck c [(0x08, 1)] [(0x08, decide (type ≤ 6))], deviceCheck s c, needState false] id s
  | some r => checked c [entryCheck c [(0x08, 1)] [(0x08, decide (type ≤ 6))], deviceCheck s c, needState (!regionUsed s r)]
      (fun s => done c 0 0 (dropRegion type s)) s

def execStoreRegionFree (id : Nat) (s : State) : Host.Outcome State Fault Refusal := .next (runCmd id 0x0201 anyCmd doStoreRegionFree s)

/-! ## The store map (R110) -/

def storeStateCode : StoreState → Nat
  | .ready => 0 | .untrained => 1 | .limited => 1 | .halted => 2 | .selfRefresh => 3

/-- Reservations in MB/s, each rounded up, in the order of the block (log 101). -/
def reservations (st : Store) : List Nat :=
  [ledgerClass st lcHistory, ledgerClass st lcTileRead, ledgerRetro st, ledgerClass st lcRecords, ledgerLinks st, 10000000,
   ledgerDensity st + 2000000, 5000000].map fun k => ceilDiv k 1000

/-- The sum of the history byte rates of the started inlets in MB/s, rounded up. -/
def historyMbs (s : State) : Nat :=
  let r := sumRates ((s.inlets.toList.filter (·.active)).map (·.rate))
  ceilDiv r.1 (max 1 (r.2 * 1000))
/-- Ticks spent in self-refresh up to now, in SELF_REFRESH and HALTED, where every device is in it (R104, R110). -/
def refreshTicks (s : State) : Nat :=
  s.store.srTicks + (if s.store.state = .selfRefresh ∨ s.store.state = .halted then s.clk.up - s.store.srSince else 0)

/-- The 512-byte store map (R110). B_eff is rounded down to whole MB/s and the sum of history rates up: the spec gives no rounding
(DESIGN CHOICE, log 133). -/
def storeMap (s : State) : Data :=
  let st := s.store
  let g := st.cfg
  le 1 (if st.clamshell then 16 else 8) ++ le 1 (b2n g.ecc) ++ le 1 (if st.state = .limited then 0 else st.pinRate) ++ le 1 (storeStateCode st.state) ++
  le 4 (bEff st / 1000) ++ le 8 (usable st) ++ le 8 st.largestFree ++ ((reservations st).flatMap (le 4 ·)) ++
  le 4 (historyMbs s) ++ le 4 0 ++
  ((List.range 8).flatMap fun t => match st.region t with | some r => le 8 r.base ++ le 8 r.size | none => zeros 16) ++
  (s.inlets.toList.flatMap fun i => le 8 (i.ring.extents * extent) ++ le 8 i.ring.oldest ++ le 8 i.ring.newest ++ le 8 i.depth) ++
  ((masksInUse st).flatMap (le 8 ·)) ++ le 8 st.corrected ++ le 8 st.uncorrectable ++ le 4 st.edcRetries ++ le 4 st.throttleCount ++
  le 4 st.forcedRefreshes ++ le 4 st.srEntries ++ le 4 st.srAborts ++ le 4 st.retrains ++ le 4 st.holeMerges ++ le 4 st.displayZeroed ++
  le 8 (refreshTicks s) ++ le 8 st.lastUncorrectable ++ le 1 g.wmHigh ++ le 1 g.wmLow ++ le 2 g.idleDelay ++ le 4 g.rdThreshold ++
  le 2 g.throttleCap ++ le 2 g.throttleMs ++ le 2 g.scrubMin ++ le 2 (b2n g.applied) ++ zeros 48

def doStoreMapQuery (c : Cmd) (s : State) : State :=
  checked c [entryCheck c [(0x10, 8)] [], deviceCheck s c, params [(0x10, aligned64 (c.p64 0x10))]]
    (fun s => done c (bEff s.store / 1000 + 2 ^ 32 * (reservations s.store).sum) s.store.largestFree (writeBlock c (c.p64 0x10) (storeMap s) s)) s

def execStoreMapQuery (id : Nat) (s : State) : Host.Outcome State Fault Refusal := .next (runCmd id 0x0202 anyCmd doStoreMapQuery s)

/-! ## Refresh and row disturbance -/

/-- Whether the controller issues refreshes: READY, with or without the memory synthesizer's lock. In SELF_REFRESH and HALTED the
devices refresh themselves (R95, R104). -/
def refreshes (st : Store) : Bool := st.state = .ready
/-- tREFI: 1.9 us, or 0.95 us while the device reports a temperature above 85 °C (R95). -/
def refreshInterval (hot : Bool) : Nat := if hot then 1216 else 2432
/-- The bank's key. -/
def bankKey (ch bank : Nat) : Nat := ch * 16 + bank

/-- A tREFI after the last, a bank owes one more refresh; it is issued at once unless real-time traffic postpones it, and a ninth is
forced (R95, R96). -/
def doRefreshDue (ch bank : Fin 16) (busy hot : Bool) (s : State) : State :=
  let k := bankKey ch.val bank.val
  let n := s.store.owed.at_ k
  let due := max s.store.refreshBase (s.store.refreshed.at_ k) + refreshInterval hot
  if ¬ refreshes s.store then s
  else
  let s := setStore (fun st => { st with refreshed := st.refreshed.put k due }) (waitUp due s)
  if ¬ busy then setStore (fun st => { st with owed := st.owed.put k 0 }) s
  else if n < 8 then setStore (fun st => { st with owed := st.owed.put k (n + 1) }) s
  else raise 0x307 [] (setStore (fun st => { st with forcedRefreshes := satN 32 (st.forcedRefreshes + 1) }) s)

def execRefreshDue (ch bank : Fin 16) (demand : RefreshDemand) (s : State) : Host.Outcome State Fault Refusal :=
  .next (doRefreshDue ch bank demand.realTimeQueued demand.hot s)

/-- The key of a row group's count for a requester (R98). -/
def rowKey (ch bank group requester : Nat) : Nat := ((ch * 16 + bank) * 2 ^ 16 + group) * 16 + requester
/-- Groups of 64 rows in a bank. -/
def rowGroups (clamshell : Bool) : Nat := 2 ^ (topRowBit clamshell - 18) / 64

/-- A throttled requester makes at most throttle_cap activations in a microsecond: its further ones take their time (R99). -/
def paceActivations (acts : List (Fin 12 × Nat)) (s : State) : State :=
  forL acts (fun x s => match s.store.throttles.find? (·.requester = x.1.val) with
    | none => s
    | some t =>
      let p := max t.paced s.clk.up + ceilDiv (x.2 * usTicks) (max 1 s.store.cfg.throttleCap)
      waitUp p (setStore (fun st => { st with throttles := st.throttles.map fun y => if y.requester = x.1.val then { y with paced := p } else y }) s)) s
/-- The activations of a group by requester identity. -/
def groupCounts (st : Store) (ch bank group : Nat) : List (Nat × Nat) := (List.range 12).map fun r => (r, st.rowCounts.at_ (rowKey ch bank group r))
/-- The requester with the most activations; of several the lowest identity. -/
def topRequester (counts : List (Nat × Nat)) : Nat := (counts.foldl (fun b x => if b.2 < x.2 then x else b) (0, 0)).1
/-- A requester is throttled, or its throttle window restarts, with the event (R99). -/
def throttleFor (ch bank group rq : Nat) (s : State) : State :=
  let s := setStore (fun st =>
    { st with throttles := st.throttles.filter (·.requester ≠ rq) ++ [⟨rq, s.clk.up + st.cfg.throttleMs * msTicks, s.clk.up⟩],
              throttleCount := satN 32 (st.throttleCount + 1) }) s
  raise 0x305 [.h ch, .h bank, .h group, .h rq] s

/-- Activations in a row group are counted by requester (R98). When the group's total reaches rd_threshold, every row of its neighbours is
activated and precharged, the requester with the most activations is throttled, and the group counts afresh (R99; log 45). -/
def doRowThreshold (ch bank : Fin 16) (group : Nat) (acts : List (Fin 12 × Nat)) (s : State) : State :=
  if s.store.state ≠ .ready ∨ rowGroups s.store.clamshell ≤ group then s
  else
    let s := paceActivations acts s
    let key := rowKey ch.val bank.val group
    let s := setStore (fun st => { st with rowCounts := acts.foldl (fun c x => c.put (key x.1.val) (c.at_ (key x.1.val) + x.2)) st.rowCounts }) s
    let counts := groupCounts s.store ch.val bank.val group
    if (counts.map Prod.snd).sum < s.store.cfg.rdThreshold then s
    else throttleFor ch.val bank.val group (topRequester counts)
      (setStore (fun st => { st with rowCounts := (List.range 12).foldl (fun c r => c.put (key r) 0) st.rowCounts }) s)

def execRowDisturbanceThreshold (ch bank : Fin 16) (group : Nat) (activations : List (Fin 12 × Nat)) (s : State) : Host.Outcome State Fault Refusal :=
  .next (doRowThreshold ch bank group activations s)

/-- The counts are cleared every 32 ms, aligned to the refresh window (R98). -/
def doRowWindow (s : State) : State :=
  let w := 32 * msTicks
  setStore (fun st => { st with rowCounts := [] }) (waitUp (ceilDiv s.clk.up w * w) s)

def execRowDisturbanceWindow (s : State) : Host.Outcome State Fault Refusal := .next (doRowWindow s)

/-- A requester's throttle ends (R99). -/
def doThrottleEnd (rq : Fin 12) (s : State) : State := match s.store.throttles.find? (·.requester = rq.val) with
  | none => s
  | some t => raise 0x306 [] (setStore (fun st => { st with throttles := st.throttles.filter (·.requester ≠ rq.val) }) (waitUp t.until_ s))

def execThrottleEnd (requester : Fin 12) (s : State) : Host.Outcome State Fault Refusal := .next (doThrottleEnd requester s)

/-! ## Retraining (R101, R103) -/

/-- A power grant for one channel's retrain: 15 units (R501). -/
def retrainItems : List (Nat × Nat) := [(pcCal, 15)]

/-- The event of a retrain done or denied; the coding of its reason is open (log 41). -/
def retrainEvent (ch : Nat) (s : State) : State :=
  let f := takeFree s
  raise 0x30B [.h ch, .h ((Config.freeWord f.1).toNat % 65536)] f.2

/-- The waiting DEV_RESET commands of store scope for a channel. -/
def retrainCmds (s : State) (ch : Nat) : List Cmd := s.mbx.cmds.filter fun c => c.waiting && c.opcode = 0x0003 && c.p8 0x08 = 2 && c.p8 0x09 = ch
/-- Complete them. -/
def endRetrainCmds (ch status aux : Nat) (s : State) : State := forL (retrainCmds s ch) (fun c s => complete c status 0 0 aux s) s

/-- A denied retrain leaves the channel's trims as they are (R103). -/
def denyRetrain (ch : Nat) (s : State) : State := retrainEvent ch s

/-- The firmware asks for power for a retrain of its own; nothing where one is asked for or runs already. -/
def requestRetrain (ch : Fin 16) (s : State) : State :=
  if holdsPower s (.retrain ch.val) ∨ waitsPower s (.retrain ch.val) then s
  else
    let r := requestInternal 3 (.retrain ch.val) retrainItems s
    if r.1 = .denied then denyRetrain ch.val r.2 else r.2

/-- A failing burst is reissued; after three failed retries its channel is retrained (R101). -/
def doEdcBurst (ch : Fin 16) (ok : Bool) (s : State) : State :=
  if s.store.state ≠ .ready then s
  else
    let s := setStore (fun st => { st with edcRetries := satN 32 (st.edcRetries + 1) }) s
    if ok then s else requestRetrain ch s

def execEdcBurstFailure (ch : Fin 16) (retrySucceeds : Bool) (s : State) : Host.Outcome State Fault Refusal := .next (doEdcBurst ch retrySucceeds s)

/-- The exit is complete: the store is READY, the disturbance counts are cleared and waiting requests issue (R106, R107). -/
def leaveSelfRefresh (s : State) : State :=
  let res := s.clk.up - s.store.srSince
  let s := setSynth 1 (fun y => { y with state := .locked }) s
  let s := setStore (fun st => { st with state := .ready, srExiting := false, srTicks := st.srTicks + res, rowCounts := [], owed := [],
                                         idleSince := some s.clk.up, refreshBase := s.clk.up, refreshed := [], scrubSince := st.scrubSince + res }) s
  raise 0x309 [.q res] s

/-- A granted retrain starts unless another runs; without a grant the firmware asks for one, as at a move of the device
temperature (R103). -/
def doRetrainStart (ch : Fin 16) (s : State) : State :=
  let s := if holdsPower s (.retrain ch.val) ∧ s.store.state = .selfRefresh then leaveSelfRefresh s else s
  if s.store.state ≠ .ready then s
  else if ¬ holdsPower s (.retrain ch.val) then requestRetrain ch s
  else if s.store.retraining.isSome ∨ (List.range 16).any (fun b => decide (8 < s.store.owed.at_ (bankKey ch.val b))) then s
  else setStore (fun st => { st with retraining := some ch.val }) s

def execStoreRetrainStart (ch : Fin 16) (s : State) : Host.Outcome State Fault Refusal := .next (doRetrainStart ch s)

/-- A retrain ends: its grant is released, it is counted and reported, and the commands that asked for it complete (R103, R504). -/
def doRetrainComplete (ch : Fin 16) (s : State) : State :=
  if s.store.retraining ≠ some ch.val then s
  else
    let s := releasePower (.retrain ch.val) (setStore (fun st => { st with retraining := none, retrains := satN 32 (st.retrains + 1) }) s)
    endRetrainCmds ch.val stOk 0 (retrainEvent ch.val s)

def execStoreRetrainComplete (ch : Fin 16) (s : State) : Host.Outcome State Fault Refusal := .next (doRetrainComplete ch s)

/-! ## Self-refresh (R105 to R107) -/

/-- Whether any requester is active (R105). -/
def storeActive (s : State) : Bool :=
  s.inlets.toList.any (·.runs) || !(acqsInFlight s).isEmpty || s.tasks.any (fun t => t.active && s.tiles.toList.any fun x => x.shares.any (·.task = t.id)) ||
  s.tw.toList.any (fun t => t.isOpen && !t.queue.isEmpty) || s.drt.chans.toList.any chanActive ||
  s.eddy.maps.toList.any (·.writesStore) || !s.link.requests.isEmpty || displayFetches s || s.pcie.lastRead = some .waits

/-- Whether every stated tolerance is at least 38 µs (R105). -/
def storeTolerated (s : State) : Bool := decide (38 ≤ s.pwr.tolHost ∧ 38 ≤ displayTolerance s)
/-- The conditions of self-refresh entry (R105). -/
def storeIdle (s : State) : Bool := s.store.state = .ready && s.store.retraining.isNone && !storeActive s && storeTolerated s

/-- The idle conditions have held for idle_delay: the store enters self-refresh and the memory synthesizer stops (R105). -/
def doSelfRefreshIdle (s : State) : State :=
  if ¬ storeIdle s then s
  else
    let due := (s.store.idleSince.getD s.clk.up) + s.store.cfg.idleDelay * usTicks
    let s := waitUp due s
    if ¬ storeIdle s then s
    else
      let s := setStore (fun st => { st with state := .selfRefresh, idleSince := none, srSince := s.clk.up, srExiting := false,
                                             srEntries := satN 32 (st.srEntries + 1), owed := [] }) s
      raise 0x308 [] (setSynth 1 (fun y => { y with state := .off }) s)

def execSelfRefreshIdleTimeout (s : State) : Host.Outcome State Fault Refusal := .next (doSelfRefreshIdle s)

/-- The exit from self-refresh starts: the memory synthesizer relocks (R106). -/
def startExit (s : State) : State :=
  if s.store.srExiting then s else startSynth 1 (setStore (fun st => { st with srExiting := true }) s)
/-- An entry is given up: it is counted and reported, and the idle timer restarts (R106). -/
def abortEntry (s : State) : State :=
  raise 0x30A [] (setStore (fun st => { st with srAborts := satN 32 (st.srAborts + 1), idleSince := some s.clk.up }) s)
/-- Whether an entry is under way: the conditions have held for idle_delay, and it is not issued yet (R105). -/
def entryDue (s : State) : Bool := storeIdle s && (match s.store.idleSince with
  | some t => decide (t + s.store.cfg.idleDelay * usTicks ≤ s.clk.up)
  | none => false)
/-- A request reaches the store: in SELF_REFRESH it starts the exit and waits; before an entry that is due it aborts it; in every case the
idle time starts anew (R105 to R107; log 142). -/
def storeAsk (s : State) : State :=
  if s.store.state = .selfRefresh then startExit s
  else if s.store.state ≠ .ready then s
  else if entryDue s then abortEntry s
  else setStore (fun st => { st with idleSince := some s.clk.up }) s

/-- A request or a falling tolerance: before the entry is issued it aborts entry and restarts the idle timer; afterwards it
starts the exit (R106). -/
def doSelfRefreshWake (s : State) : State :=
  if s.store.state = .selfRefresh then startExit s else if storeIdle s then abortEntry s else s

def execSelfRefreshWake (s : State) : Host.Outcome State Fault Refusal := .next (doSelfRefreshWake s)

def doSelfRefreshExit (s : State) : State := if s.store.state = .selfRefresh ∧ s.store.srExiting then leaveSelfRefresh s else s

def execSelfRefreshExitComplete (s : State) : Host.Outcome State Fault Refusal := .next (doSelfRefreshExit s)

/-- A request that is served within one command: one that finds the store in self-refresh waits for its exit (R106, R107). -/
def storeAwake (s : State) : State :=
  let s := storeAsk s
  if s.store.state = .selfRefresh then leaveSelfRefresh s else s

/-! ## Corrections and poison (R79 to R82) -/

/-- Count corrected reads; more than 64 within a second raise EV 0x303 (R79, R111). -/
def noteCorrections (k : Nat) (s : State) : State :=
  if k = 0 then s
  else
    let l := s.store.correctionsAt.filter (fun t => decide (s.clk.up < t + secTicks)) ++ List.replicate (min k 65) s.clk.up
    let s := setStore (fun st => { st with corrected := st.corrected + k, correctionsAt := l.drop (l.length - 65) }) s
    if 64 < l.length then raise 0x303 [] s else s

/-- The ring and the ticks of the samples that a HISTORY address holds, in the layout of log 28; none where no sample lies. -/
def historySpan (s : State) (a : Nat) : Option (Fin 4 × Nat × Nat) := match s.store.region rtHistory with
  | none => none
  | some r =>
    let base := fun (n : Fin 4) => r.base + (((List.finRange 4).filter (· < n)).map fun k => s.inlets[k].ring.extents).sum * extent
    match (List.finRange 4).find? fun n => decide (base n ≤ a ∧ a < base n + s.inlets[n].ring.extents * extent) with
    | none => none
    | some n =>
      let i := s.inlets[n]
      let cap := i.ringSamples
      let lo := (a - base n) * 2 / max 1 i.bytes2
      let hi := ceilDiv ((a + 32 - base n) * 2) (max 1 i.bytes2)
      match i.ring.frames, i.ring.frames.getLast? with
      | f :: _, some e =>
        let q := e.stopNum - 1
        let m := q - (q + cap - lo % max 1 cap) % max 1 cap
        if cap = 0 ∨ q < (q + cap - lo % max 1 cap) % max 1 cap ∨ m + (hi - lo) ≤ f.num then none
        else
          let g := (i.ring.frames.find? fun g => decide (m < g.stopNum)).getD f
          some (n, g.timeOf (max m f.num) / 65536, ceilDiv (g.timeOf (m + (hi - lo))) 65536)
      | _, _ => none

/-- Whether a span of HISTORY touches a poisoned sector. -/
def historyPoisoned (s : State) (a n : Nat) : Bool := (sectorsOf a n).any fun k => match historySpan s (k * 32) with
  | some x => s.inlets[x.1].ring.poisoned.any fun p => decide (p.start < x.2.2 ∧ x.2.1 < p.stop)
  | none => false
/-- Whether a read of a span meets a poisoned sector (R79); without ECC none can be detected (R84). -/
def readPoisoned (s : State) (a n : Nat) : Bool :=
  s.store.cfg.ecc && (spanPoisoned s.store a n || ((s.store.within rtHistory a n) && historyPoisoned s a n))

/-- An uncorrectable read is reported with its address and requester (R79, R111). -/
def reportUncorrectable (a rq : Nat) (s : State) : State := raise 0x304 [.q a, .h rq] s

/-- The first poisoned sector of a span is reported for its requester. -/
def reportSpan (a n rq : Nat) (s : State) : State := match (sectorsOf a n).find? s.store.poison.contains with
  | some k => reportUncorrectable (k * 32) rq s
  | none => reportUncorrectable a rq s

/-- A sector becomes poisoned, and is counted and reported: where it holds samples of a ring by their ticks too, elsewhere by its address
(R79, R89, R110, R111). -/
def poisonSector (a rq : Nat) (s : State) : State :=
  match if s.store.within rtHistory a 32 then historySpan s a else none with
  | some x =>
    let s := setStore (fun st => { st with uncorrectable := st.uncorrectable + 1, lastUncorrectable := a }) (countPoisoned 1 s)
    reportUncorrectable a rq (setInlet x.1 (fun i =>
      { i with ring := { i.ring with poisoned := i.ring.poisoned ++ [⟨a, x.2.1, x.2.2⟩], version := i.ring.version + 1 } }) s)
  | none => poisonSpan a 32 rq s

/-- A read of a sector meets flipped bits or another sector's address. A single error is corrected in flight and counted. An
uncorrectable read is issued once more: its second read is used, and counted as a correction, unless it is uncorrectable again, which
poisons the sector; a sector that is poisoned already decodes uncorrectable whatever is flipped (R75, R79). -/
def doUncorrectableRead (addr : Nat) (rq : Fin 12) (first second : SectorRead) (s : State) : State :=
  let a := sectorOf addr * 32
  if ¬ storeServes s ∨ ¬ s.store.cfg.ecc ∨ usable s.store ≤ a then s
  else if readPoisoned s a 32 then reportUncorrectable a rq.val s
  else match eccDecode first.flips first.mismatch with
    | .clean => s
    | .corrected => noteCorrections 1 s
    | .uncorrectable => if eccDecode second.flips second.mismatch = .uncorrectable then poisonSector a rq.val s else noteCorrections 1 s

def execUncorrectableRead (addr : Nat) (requester : Fin 12) (reads : SectorReads) (s : State) : Host.Outcome State Fault Refusal :=
  .next (doUncorrectableRead addr requester reads.first reads.second (storeAsk s))

/-- Sectors of a scrub pass, and its period. -/
def scrubSectors (st : Store) : Nat := max 1 (usable st / 32)
def scrubPeriod (st : Store) : Nat := st.cfg.scrubMin * 60 * secTicks
/-- The scrub reads the next sectors of its pass when they are due, each usable sector once a scrub period, and writes corrected ones
back; it pauses in self-refresh (R82). -/
def doPatrolScrub (sectors corrected : Nat) (s : State) : State :=
  if s.store.state ≠ .ready ∨ ¬ s.store.cfg.ecc then s
  else
    let total := scrubSectors s.store
    let next := s.store.scrubNext + sectors
    let s := waitUp (s.store.scrubSince + next * scrubPeriod s.store / total) s
    let s := noteCorrections (min corrected sectors) s
    setStore (fun st => { st with scrubNext := next % total, scrubSince := st.scrubSince + next / total * scrubPeriod st }) s

def execPatrolScrub (sectors corrected : Nat) (s : State) : Host.Outcome State Fault Refusal := .next (doPatrolScrub sectors corrected s)

/-- A poisoned firmware structure is restored from its second copy and rewritten in full; with both copies poisoned the
firmware stops servicing its watchdog (R561). -/
def doFirmwareCopyRestore (addr : Nat) (both : Bool) (s : State) : State :=
  let a := sectorOf addr * 32
  if ¬ s.store.within rtFirmware a 32 ∨ ¬ spanPoisoned s.store a 32 then s
  else if both then { s with fw := { s.fw with runs := false } }
  else raise 0x031 [.q a] (storeWrite a (storeRead s a 32) s)

def execFirmwareCopyRestore (addr : Nat) (bothPoisoned : Bool) (s : State) : Host.Outcome State Fault Refusal :=
  .next (doFirmwareCopyRestore addr bothPoisoned s)

end Sys2Proof.Machine
end

