-- ==== Sys2Proof/Machine/ScanOut.lean ====
section
/-! DEFINITION. The scan-out: frame starts, fetches and underruns (R268 to R281), the sink, link training and AUX (R274, R275,
R277), and the effects of its control bits (R282). -/

namespace Sys2Proof.Machine

/-! ## Frames -/

/-- The scan-out has stopped: the frame that was sent black is over and the link idles (R282). -/
def stopScan (s : State) : State :=
  setSynth 2 (fun y => { y with state := .off })
    (setScn (fun c => { c with running := false, link := .off, trained := false, sscActive := false, blackRest := false, pixelPaused := false,
                               layers := c.layers.map fun y => { y with fetching := false } }) s)

/-- What the frame shows: black first after link training, and while a BLANK action stands (R274, R468). -/
def nextBlank (s : State) : State :=
  setScn (fun c => { c with blank := (c.link = .active && decide (0 < c.blackFrames)) || c.crcBlank != 0,
                            blackFrames := if c.link = .active then c.blackFrames - 1 else c.blackFrames }) s

/-- Frame start: the counter, the shadow sets in order, the plane addresses, the next frame's fetch (R268, R272, R274, R278). -/
def frameStart (s : State) : State :=
  let s := setScn (fun c => { c with frame := (c.frame + 1) % 2 ^ 32, frameAt := s.clk.up }) s
  let s := if timingApplied s then takeTiming s else s
  let r := (List.finRange 4).foldl (fun (a : Bool × State) l => let t := takeLayer l a.2; (a.1 || t.1, t.2)) (false, s)
  let s := r.2
  let s := if r.1 then
      let u := shareBuffer s
      setScn (fun c => { c with layers := vmod (vmod (vmod c.layers 0 fun y => { y with shareUnits := (u.drop 0).headD 0 })
        1 fun y => { y with shareUnits := (u.drop 1).headD 0 }) 2 fun y => { y with shareUnits := (u.drop 2).headD 0 } }) s
    else s
  nextBlank (forL (List.finRange 4) latchLayer s)

def doScanoutFrameStart (s : State) : State :=
  if ¬ s.scn.running ∨ s.scn.pixelPaused then s
  else
    let s := waitUp (s.scn.frameAt + frameTicks s.scn.timing) s
    if scnEnabled s then frameStart s else stopScan s

def execScanoutFrameStart (s : State) : Host.Outcome State Fault Refusal := .next (doScanoutFrameStart s)

/-- A layer's tolerance falls to REFILL_US, at least 38, and it fetches until its share is full; while the store does not
serve reads the fetch waits, and in self-refresh it calls for the exit (R106, R279). -/
def doLayerFetchStart (l : Fin 4) (s : State) : State :=
  if ¬ scnEnabled s ∨ ¬ s.scn.running ∨ s.scn.pixelPaused ∨ ¬ layerLive s l then s
  else
    let y := s.scn.layers[l]
    let refill := max 38 (s.field (kScn 0x18) 15 0)
    if ¬ y.fetching ∧ y.set.frameBytes l ≤ y.fetched then s
    else
      let s := if y.fetching then s else waitUp (layerDeadline s l - (refill + 16) * usTicks) s
      let s := storeAsk s
      if storeServes s then fillLayer l s else setLayer l (fun y => { y with fetching := true }) s

def execLayerFetchStart (layer : Fin 4) (s : State) : Host.Outcome State Fault Refusal := .next (doLayerFetchStart layer s)

/-- A layer's buffered data runs out in active video: it is transparent to the end of the frame (R280). -/
def doLayerUnderrun (l : Fin 4) (s : State) : State :=
  let y := s.scn.layers[l]
  if ¬ scnEnabled s ∨ ¬ s.scn.running ∨ s.scn.pixelPaused ∨ ¬ layerLive s l ∨ y.underrunNow ∨ y.set.frameBytes l ≤ y.fetched then s
  else (setLayer l (fun y => { y with underrunNow := true }) (waitUp (layerDeadline s l) s)).countWrap (kScn 0x10) 1

def execLayerUnderrun (layer : Fin 4) (s : State) : Host.Outcome State Fault Refusal := .next (doLayerUnderrun layer s)

/-! ## Control bits -/

/-- ENABLE set: the pixel synthesizer starts, and the link trains where a sink is present (R282). -/
def startScan (s : State) : State :=
  let s := trainLink s
  let s := setScn (fun c => { c with blackRest := false }) s
  if s.scn.running then s
  else if s.clk.synths[2].state = .locked then setScn (fun c => { c with running := true, frameAt := s.clk.up, pixelPaused := false }) s
  else setSynth 2 (fun y => { y with state := .acquiring, since := s.clk.up }) s

/-- ENABLE cleared: fetching stops at once and the rest of the frame is black (R282). -/
def haltScan (s : State) : State :=
  if s.scn.running then setScn (fun c => { c with blackRest := true, layers := c.layers.map fun y => { y with fetching := false } }) s
  else stopScan s

/-- ENABLE as written takes effect where it changed. -/
def scnEnableChanged (was : Bool) (s : State) : State :=
  if scnEnabled s = was then s else if scnEnabled s then startScan s else haltScan s

/-- TIMING_APPLY takes the shadow at once with ENABLE = 0, otherwise it waits for the next frame start (R274). -/
def timingApply (s : State) : State := if scnEnabled s then s else takeTiming s

/-- The pixel synthesizer has locked: the timing generator runs (R268, R274). -/
def pixelLocked (s : State) : State :=
  if ¬ scnEnabled s then s
  else if s.scn.running ∧ ¬ s.scn.pixelPaused then s
  else setScn (fun c => { c with running := true, pixelPaused := false, frameAt := s.clk.up }) s

/-- The scan-out registers return to their reset values, SCN_FRAME counts on, and the link retrains (R564). -/
def scanReset (s : State) : State :=
  let s := { s with regs := s.regs.filter fun e => decide (e.1 < kScn 0 ∨ kScn 0x10000 ≤ e.1) }
  let s := setSynth 2 (fun y => { y with state := .off }) s
  trainLink (setScn (fun c => { ScanOut.reset with frame := c.frame, hpd := c.hpd }) s)

/-! ## The sink and link training -/

/-- The AUX result is final: GO clears (R277). -/
def auxResult (code : Nat) (s : State) : State :=
  setScn (fun c => { c with aux := none }) ((s.setField (kScn 0x20) 27 24 code).setField (kScn 0x20) 31 31 0)

/-- Begin the host's AUX transaction: no sink gives result 4 at once; while the scan-out trains the link with transactions of
its own, the host's waits (R277). -/
def auxBegin (s : State) : State :=
  if ¬ s.scn.hpd then setScn (fun c => { c with auxWaiting := false }) (auxResult 4 s)
  else if s.scn.link = .training then setScn (fun c => { c with auxWaiting := true }) s
  else
    let x : AuxOp := ⟨s.field (kScn 0x20) 3 0, s.field (kScn 0x24) 19 0, s.field (kScn 0x20) 19 16 + 1, 0, s.clk.up⟩
    setScn (fun c => { c with auxWaiting := false, aux := some x }) s

/-- GO as written starts a transaction where none runs or waits. -/
def auxGo (s : State) : State := if s.scn.aux.isSome ∨ s.scn.auxWaiting then s else auxBegin s
/-- The host's transaction that waited for the scan-out's own. -/
def auxNext (s : State) : State := if s.scn.auxWaiting then auxBegin s else s

/-- HPD low for more than 2 ms (R275). -/
def doHpdUnplug (s : State) : State :=
  if ¬ s.scn.hpd then s
  else auxNext (setScn (fun c => { c with hpd := false, link := if c.link = .off then .off else .noSink, trained := false, sscActive := false }) s)

def execHpdUnplug (s : State) : Host.Outcome State Fault Refusal := .next (doHpdUnplug s)

/-- HPD high again starts training (R275). -/
def doHpdPlug (s : State) : State :=
  if s.scn.hpd ∨ s.jtag.pinsTaken then s
  else
    let s := setScn (fun c => { c with hpd := true }) s
    if scnEnabled s then trainLink s else s

def execHpdPlug (s : State) : Host.Outcome State Fault Refusal := .next (doHpdPlug s)

/-- An HPD pulse: counted, and the link retrains if a lane has lost lock (R275). -/
def doHpdIrq (lost : Bool) (s : State) : State :=
  if ¬ s.scn.hpd then s
  else
    let s := setScn (fun c => { c with hpdIrqs := (c.hpdIrqs + 1) % 256 }) s
    if lost ∧ scnEnabled s ∧ (s.scn.link = .active ∨ s.scn.link = .training) then trainLink s else s

def execHpdIrq (laneLostLock : Bool) (s : State) : Host.Outcome State Fault Refusal := .next (doHpdIrq laneLostLock s)

/-- Training ends: ACTIVE at the rate and lanes of the timing in use, with spread only where it is asked for and the sink
supports it, the next frame black; or FAILED, with a retry 100 ms later (R268, R274). -/
def doDpTrainingComplete (ok sinkDownspread : Bool) (s : State) : State :=
  if s.scn.link ≠ .training ∨ s.clk.synths[2].state = .bypass ∨ rootBypassed s then s
  else auxNext (setScn (fun c =>
    if ok then { c with link := .active, trained := true, rate := tRate c.timing, lanes := tLanes c.timing,
                        sscActive := tSsc c.timing && sinkDownspread, blackFrames := 1, blank := true }
    else { c with link := .failed, trained := false, trainFails := satN 16 (c.trainFails + 1), retryAt := s.clk.up + 100 * msTicks }) s)

def execDpTrainingComplete (ok sinkDownspread : Bool) (s : State) : Host.Outcome State Fault Refusal :=
  .next (doDpTrainingComplete ok sinkDownspread s)

/-- A failed link retries every 100 ms while HPD is high (R274). -/
def doDpTrainingRetry (s : State) : State :=
  if s.scn.link ≠ .failed ∨ ¬ s.scn.hpd then s else trainLink (waitUp s.scn.retryAt s)

def execDpTrainingRetry (s : State) : Host.Outcome State Fault Refusal := .next (doDpTrainingRetry s)

/-- Write reply bytes over the AUX data registers: byte i in register i / 4 (R282). -/
def auxData (d : Data) (s : State) : State :=
  forL ((List.range 16).zip d) (fun x s => s.setField (kScn (0x30 + x.1 / 4 * 4)) (x.1 % 4 * 8 + 7) (x.1 % 4 * 8) x.2.toNat) s

/-- An AUX reply: code 0 ACK with the bytes read, 1 NACK, 2 DEFER, which is retried up to seven times (R277). -/
def doAuxReply (code : Nat) (data : Data) (s : State) : State := match s.scn.aux with
  | none => s
  | some x =>
    if code = 0 then auxResult 0 (auxData (data.take x.len) s)
    else if code = 2 then
      if x.defers < 7 then setScn (fun c => { c with aux := some { x with defers := x.defers + 1, since := s.clk.up } }) s
      else auxResult 2 s
    else auxResult 1 s

def execAuxReply (code : Nat) (data : Data) (s : State) : Host.Outcome State Fault Refusal := .next (doAuxReply code data s)

/-- 500 µs without a reply (R277). -/
def doAuxTimeout (s : State) : State := match s.scn.aux with
  | none => s
  | some x => auxResult 3 (waitUp (x.since + 500 * usTicks) s)

def execAuxTimeout (s : State) : Host.Outcome State Fault Refusal := .next (doAuxTimeout s)

end Sys2Proof.Machine
end

