-- ==== Sys2Proof/Machine/Collector.lean ====
section
/-! DEFINITION. The home collector of a task: the first-commit filter (R154), publication in index order (R155), output cells
and holds (R127 to R130), records, gaps and markers (R131 to R133, R167, R183), spectral kurtosis blocks (R134 to R136), the
coarse stage of two-stage tasks (R141, R144), migration (R163 to R165) and the end of a task (R140, R153). -/

namespace Sys2Proof.Machine

/-! ## Figures -/

/-- The epoch in force at an index (R164). -/
def Task.epochAt (t : Task) (k : Nat) : Nat := if k < t.epochFrom then t.epochBefore else t.epoch
/-- The parameter set in force for an index (R138, R179). -/
def Task.descAt (t : Task) (k : Nat) : TaskDesc := match t.modify with | some m => if m.index ≤ k then m.desc else t.desc | none => t.desc
/-- The output index that a frame belongs to. -/
def Task.indexOfFrame (t : Task) (k : Nat) : Nat := if t.desc.twoStage then k / 2 ^ t.desc.fLog2 else k
/-- Marks of a unit as record flags (R133, R160). -/
def CommitUnit.flags (u : CommitUnit) : Nat := rfBackfill * b2n u.backfill + rfUncertain * b2n u.uncertain + rfClipped * b2n (u.clipped || decide (u.saturated ≠ 0))
/-- A gap entry of a task (R183). -/
def gapUnit (task index epoch cause : Nat) (fine : Bool) : CommitUnit :=
  { task := task, index := index, epoch := epoch, fine := fine, power := [], bins := [], crc := 0, clipped := false,
    uncertain := false, backfill := false, saturated := 0, gap := some cause }
/-- The higher-ranked of two optional causes. -/
def worseGap (a b : Option Nat) : Option Nat := match a, b with
  | some x, some y => some (worseCause x y)
  | some x, none => some x
  | none, y => y
/-- The reorder window (R155). -/
def reorderWindow : Nat := 4096
/-- Whether a task feeds Squall units and density maps (R153). -/
def Task.feeds (t : Task) : Bool := t.kind = .live

/-! ## Records of a task (R132, R133, R167) -/

/-- The header of a task's record from an index over a count of indices. -/
def taskHeader (s : State) (t : Task) (type flags first count aux epoch : Nat) : RecHdr :=
  { type := type, flags := flags, tStart := t.indexTime first / 65536, tFrac := t.indexTime first % 65536,
    srcCh := t.desc.channel, epoch := epoch % 256, srcDid := s.link.did, itemIndex := first, itemCount := satN 32 count,
    aux := aux, cfgCrc := t.cfgCrc, taskId := t.id }
/-- The tick by which a record's span ends: the next index's time, rounded up (R288). -/
def Task.endTick (t : Task) (last : Nat) : Nat := ceilDiv (t.indexTime (last + 1)) 65536

/-- A vector gets one more record that holds it, or is lost where there was no room. -/
def OutVector.placed (place : Option Nat) (n : Nat) (v : OutVector) : OutVector := match place with
  | some a => { v with places := some (v.places.getD [] ++ [(a, n)]) }
  | none => { v with gap := some 1, points := [] }
/-- The output vectors that a published SPECTRUM record covers are held at its place; without room for it they are lost as the record
is, with cause 1 (R230, R293). -/
def noteRecord (id : Nat) (rec_ : Data) (place : Option Nat) (s : State) : State :=
  let h := recHdr rec_
  if h.type ≠ rtSpectrum then s
  else
    let held := fun (v : OutVector) => decide (h.itemIndex ≤ v.first ∧ v.first < h.itemIndex + h.itemCount) && v.gap.isNone
    setTask id (fun t => { t with vectors := lmod t.vectors held (OutVector.placed place rec_.length) }) s

/-- Publish one record of a task. -/
def putTaskRecord (id : Nat) (rec_ : Data) (tEnd : Nat) (s : State) : State := match findTask s id with
  | some t => noteRecord id rec_ (spectraPlace s rec_.length) (publishSpectra t.desc.stream id rec_ tEnd s)
  | none => s

/-- Publish a MARKER of a task (R167). -/
def putMarker (id code index epoch flags : Nat) (s : State) : State := match findTask s id with
  | some t => putTaskRecord id (markerRecord (taskHeader s t rtMarker flags index 0 0 epoch) code) (t.indexTick index) s
  | none => s

/-- Publish a record that covers indices up to last, directly after the markers due ahead of it (R160, R167). -/
def putCovering (id last : Nat) (rec_ : Data) (s : State) : State := match findTask s id with
  | some t =>
    let due := t.markers.filter fun m => decide (m.index ≤ last)
    let s := setTask id (fun t => { t with markers := t.markers.filter fun m => !decide (m.index ≤ last) }) s
    let s := forL (sortBy (·.index) due) (fun m s => putMarker id m.code m.index m.epoch 0 s) s
    putTaskRecord id rec_ (t.endTick last) s
  | none => s

/-- Close the open record (R132). -/
def closeRecord (id : Nat) (final : Bool) (s : State) : State := match findTask s id with
  | some t => match t.openRec with
    | some o =>
      let h := taskHeader s t rtSpectrum (o.flags + if final then rfFinal else 0) o.first (o.last + 1 - o.first) 0 o.epoch
      let s := setTask id (fun t => { t with openRec := none, finalSent := t.finalSent || final }) s
      putCovering id o.last (recordBytes h o.payload) s
    | none => s
  | none => s

/-- Publish the joined gap (R183). -/
def flushTaskGap (id : Nat) (final : Bool) (s : State) : State := match findTask s id with
  | some t => match t.openGap with
    | some g =>
      let h := taskHeader s t rtGap (if final then rfFinal else 0) g.first (g.last + 1 - g.first) 0 g.epoch
      let s := setTask id (fun t => { t with openGap := none, finalSent := t.finalSent || final }) s
      putCovering id g.last (gapRecord h g.cause (t.endTick g.last) 0) s
    | none => s
  | none => s

/-- Cover indices by a gap: the open record closes, and consecutive gaps of one cause join (R132, R183). -/
def addGap (id first last cause : Nat) (s : State) : State :=
  let s := closeRecord id false s
  match findTask s id with
  | some t =>
    let e := t.epochAt first
    let fresh : OpenGap := ⟨first, last, cause, e⟩
    match t.openGap with
    | some g =>
      if g.cause = cause ∧ g.last + 1 = first ∧ g.epoch = e then setTask id (fun t => { t with openGap := some { g with last := last } }) s
      else setTask id (fun t => { t with openGap := some fresh }) (flushTaskGap id false s)
    | none => setTask id (fun t => { t with openGap := some fresh }) s
  | none => s

/-- A vector larger than a record is split into records of whole points (R132). -/
def putSplit (id first last epoch flags : Nat) (final : Bool) (points : Data) (s : State) : State := match findTask s id with
  | some t =>
    let e := elementBytes t.desc.format
    let per := recordCap / e * e
    let n := ceilDiv points.length per
    let s := setTask id (fun t => { t with finalSent := t.finalSent || final }) s
    forN n (fun p s =>
      let fl := flags + if final ∧ p + 1 = n then rfFinal else 0
      putCovering id last (recordBytes (taskHeader s t rtSpectrum fl first (last + 1 - first) (p * per / e) epoch)
        ((points.drop (p * per)).take per)) s) s
  | none => s

/-- Whether an index is the last of the task. -/
def Task.endsAt (t : Task) (last : Nat) : Bool := match t.stopIndex with | some k => decide (k ≤ last + 1) | none => false

/-- Pack an output vector: G to a record (R132). -/
def addVector (id first last flags : Nat) (points : Data) (s : State) : State :=
  let s := flushTaskGap id false s
  match findTask s id with
  | some t =>
    let e := t.epochAt first
    let ending := t.endsAt last
    if recordCap < points.length then putSplit id first last e flags ending points (closeRecord id false s)
    else
      let o := match t.openRec with
        | some o => { o with last := last, vectors := o.vectors + 1, payload := o.payload ++ points, flags := o.flags ||| flags }
        | none => ⟨first, last, 1, points, flags, e⟩
      let s := setTask id (fun t => { t with openRec := some o }) s
      if t.desc.group ≤ o.vectors ∧ ¬ ending then closeRecord id false s else s
  | none => s

/-! ## Cells (R127 to R130) -/

/-- An output vector, or the place of one that became a gap, that acquisitions can copy until it is overwritten (R230, R231, R243). -/
def keepVector (id : Nat) (v : OutVector) (s : State) : State := setTask id (fun t => { t with vectors := t.vectors ++ [v] }) s

/-- The detector values of a cell, the hold values after it, its bytes and how many points saturated (R128, R131). -/
def cellValues_ (t : Task) : List (Option U32) × Data × Nat :=
  let vals := ((List.range t.cell.length).zip t.cell).map fun x => detectorValue t.desc x.2 (t.hold.drop x.1).head?
  let out := (t.cell.zip vals).map fun x => formatPoint t.desc x.1 x.2
  (vals, out.flatMap Prod.fst, (out.filter (·.2)).length)

/-- A cell ends: an output vector, or a gap that covers the whole cell (R127, R183; log 30). -/
def endCell (id last : Nat) (s : State) : State := match findTask s id with
  | some t =>
    let first := t.cellFirst
    let time := t.indexTime first
    let e := t.epochAt first
    let fresh := fun (t : Task) => { t with cell := [], cellCount := 0, cellFlags := 0, cellGap := none }
    let kept : OutVector := ⟨first, last, time / 65536, time % 65536, e, 0, none, [], none⟩
    match t.cellGap with
    | some c => addGap id first last c (keepVector id { kept with gap := some c } (setTask id fresh s))
    | none =>
      let v := cellValues_ t
      let hold := if t.desc.detector = 5 ∨ t.desc.detector = 6 then v.1.map (·.getD 0) else []
      let fl := t.cellFlags ||| (if v.2.2 = 0 then 0 else rfClipped)
      let s := setTask id (fun t => { fresh t with hold := hold, saturations := t.saturations + v.2.2 }) s
      let s := if v.2.2 = 0 then s else raiseW 0x58C s.clk.tick 1 0 [.w id, .q last, .since] s
      addVector id first last fl v.2.1 (keepVector id { kept with flags := fl, points := v.2.1 } s)
  | none => s

/-- A modification takes effect: the open record closes, and a MARKER of code 3 follows it (R130, R138, R139). -/
def applyModify (id k : Nat) (m : PendingModify) (s : State) : State :=
  let s := match findTask s id with
    | some t => if t.cellCount = 0 then s else endCell id (k - 1) s
    | none => s
  let s := flushTaskGap id false (closeRecord id false s)
  match findTask s id with
  | some t =>
    let d := m.desc
    let restart := m.holdReset || decide (d.detector ≠ t.desc.detector ∨ d.bLog2 ≠ t.desc.bLog2 ∨ d.binFirst ≠ t.desc.binFirst ∨ d.binCount ≠ t.desc.binCount)
    let s := setTask id (fun t => { t with desc := d, cfgCrc := m.crc, modify := none, hold := if restart then [] else t.hold }) s
    putMarker id 3 k (t.epochAt k) 0 s
  | none => s

/-! ## Spectral kurtosis (R134 to R136) -/

/-- Add the sums of an unflagged block to the points of the current cell; a point is excluded where any of its bins is flagged (R129;
log 113). -/
def addBlocks (d : TaskDesc) (points : Nat) (cell : List PointAcc) (s1 : List Nat) (flags : List Bool) (m : Nat) : List PointAcc :=
  (List.range points).map fun i =>
    let a := (cell.drop i).headD PointAcc.zero
    if ((flags.drop (i * d.b)).take d.b).any id then a
    else { a with sumQ := a.sumQ + ((s1.drop (i * d.b)).take d.b).sum, count := a.count + m }

/-- Publish an SK_FLAGS record, directly after the markers due ahead of what it covers; the coarse indices of a two-stage task are
not those that a marker names (R136, R160, R167). -/
def putFlags (t : Task) (last : Nat) (rec_ : Data) (s : State) : State :=
  if t.desc.twoStage then putTaskRecord t.id rec_ (ceilDiv (t.frameTime (last + 1)) 65536) s else putCovering t.id last rec_ s

/-- One spectrum enters the block of a task with SK; at the block's end its record is delivered and its units step, by the thresholds
in force at the index that ends it (R138). A block that holds a gap entry delivers no record (log 31); one that a change of the span
cuts keeps the sums of its old bins (log 114). -/
def skStep (id k : Nat) (u : CommitUnit) (s : State) : State := match findTask s id with
  | some t =>
    if ¬ t.desc.sk then s
    else
      let m := 2 ^ t.desc.skMLog2
      let q := ((u.power.drop t.skFirst).take t.skSpan).map quantise
      let start := decide (k % m = 0)
      let base := fun (l : List Nat) => if start ∨ l = [] then List.replicate t.skSpan 0 else l
      let d := t.descAt (t.indexOfFrame k)
      let s1 := if u.gap.isSome then base t.skS1 else List.zipWith (· + ·) (base t.skS1) q
      let s2 := if u.gap.isSome then base t.skS2 else List.zipWith (· + ·) (base t.skS2) (q.map fun x => x * x)
      let marks := (if start then 0 else t.skMarks) ||| u.flags
      -- a block is whole only if the task met its first index
      let gap := u.gap.isSome || (if start then false else t.skGap || decide (t.skNext ≠ k))
      let s := setTask id (fun t => { t with skS1 := s1, skS2 := s2, skMarks := marks, skGap := gap, skNext := k + 1 }) s
      if (k + 1) % m ≠ 0 then s
      else
        let b := k / m
        let flags := List.zipWith (skFlagged d) s1 s2
        let s := if gap then s
          else
            let time := t.frameTime (b * m)
            let h := { taskHeader s t rtSkFlags marks (b * m) m 0 (t.epochAt (b * m)) with tStart := time / 65536, tFrac := time % 65536 }
            putFlags t k (recordBytes h (skPayload flags)) s
        let s := if t.desc.skBlank ∧ ¬ gap then setTask id (fun t => { t with cell := addBlocks t.desc t.points t.cell s1 flags m }) s else s
        if t.feeds then offerSkBlock t b (if gap then none else some ⟨s1, s2, flags⟩) s else s
  | none => s

/-! ## Publication in index order (R155) -/

/-- The span of a unit's bins that the detectors see. -/
def spanOf (t : Task) (l : List α) : List α := (l.drop t.desc.binFirst).take t.span

/-- Process the unit of the next index. -/
def processUnit (id : Nat) (u : CommitUnit) (s : State) : State :=
  let k := u.index
  let s := match findTask s id with
    | some t => match t.modify with
      | some m => if m.index ≤ k then applyModify id k m s else s
      | none => s
    | none => s
  match findTask s id with
  | none => s
  | some t =>
    let s := match t.openRec with
      | some o => if o.epoch ≠ t.epochAt k then closeRecord id false s else s
      | none => s
    -- the first index of a cell
    let s := setTask id (fun t =>
      let t := if t.cellCount = 0 then { t with cellFirst := k, cell := List.replicate t.points PointAcc.zero } else t
      { t with cellCount := t.cellCount + 1, cellFlags := t.cellFlags ||| u.flags, cellGap := worseGap t.cellGap u.gap,
               cell := if u.gap.isSome then t.cell else addSpectrum t.desc t.points t.cell (spanOf t u.power) (spanOf t u.bins) }) s
    let s := if t.desc.twoStage then s else skStep id k u s
    if (k + 1) % max 1 t.desc.avg = 0 then endCell id k s else s

/-- A share that R23 stopped leaves its indices as gaps: the cause of an index that no share computes (R23, R161, R506). -/
def DeadResidue.holds (d : DeadResidue) (k : Nat) : Bool :=
  decide (d.residue = k % max 1 d.period ∧ d.from_ ≤ k) && (match d.stop with | some e => decide (k < e) | none => true)
def Task.deadCause (t : Task) (k : Nat) : Option Nat := (t.dead.find? (·.holds k)).map (·.cause)

/-- Whether the collector withholds an index until a migration is decided (R164). -/
def Task.withheld (t : Task) (k : Nat) : Bool := match t.migration with | some m => decide (m.k0 ≤ k) | none => false

/-- What tells a share from every other. -/
def Share.key (x : Share) : ShareKey := ⟨x.task, x.role, x.epoch, x.residues⟩
/-- End whatever a tile runs: its batch and its staged units are discarded, and the sequencer keeps only its trace (R185). -/
def Tile.stopRun (t : Tile) : Tile :=
  { t with running := none, batch := [], units := [], readIssued := 0, restarting := false, waitReason := 0, lastFailAddr := none,
           seq := { Sequencer.reset with trace := t.seq.trace } }
/-- A tile without some of its shares: a running one stops with them, and an empty tile is gated (R504). -/
def Tile.without (t : Tile) (p : Share → Bool) : Tile :=
  let left := t.shares.filter fun x => !p x
  let staged := t.staged.map fun l => l.filter fun x => !p x
  let stops := match t.running with | some r => t.shares.any fun x => p x && decide (r = x.key) | none => false
  let t := if stops then { t.stopRun with state := if t.state = .running ∨ t.state = .waiting then .idle else t.state } else t
  { t with shares := left, staged := staged, powered := !left.isEmpty || !(staged.getD []).isEmpty }

/-- Take the shares of a task that a test picks off the tiles, staged ones among them; a tile left without shares releases its power
(R504). -/
def dropShares (id : Nat) (p : Share → Bool) (s : State) : State :=
  forL (List.finRange 20) (fun n s =>
    let q := fun (x : Share) => decide (x.task = id) && p x
    if s.tiles[n].shares.any q || (s.tiles[n].staged.getD []).any q then
      let s := { s with tiles := vmod s.tiles n fun t => t.without q }
      if s.tiles[n].powered then s else releasePower (.tile n.val) s
    else s) s
/-- Change the shares of a task that a test picks, in the tables in force and in the staged ones. -/
def changeShares (id : Nat) (p : Share → Bool) (f : Share → Share) (s : State) : State :=
  let g := fun (x : Share) => if decide (x.task = id) && p x then f x else x
  { s with tiles := s.tiles.map fun y => { y with shares := y.shares.map g, staged := y.staged.map (·.map g) } }

/-- Tell a peer to end its shares of a task and epoch: from an index on, or at once (R163, R366). -/
def cancelShares (did id epoch limit : Nat) (s : State) : State := send (placementMsg s did 4 id 0 0 (le 8 limit ++ le 2 epoch)) s
/-- Every peer that holds or prepares shares of a task ends them. -/
def cancelPeers (t : Task) (s : State) : State :=
  let s := match t.placedPeer with | some d => cancelShares d t.id t.epoch 0 s | none => s
  match t.migration with
  | some m => match m.peer with | some d => cancelShares d t.id ((t.epoch + 1) % 256) 0 s | none => s
  | none => s

/-- A list without its first entry that a test picks. -/
def eraseFirst {α : Type} (p : α → Bool) : List α → List α
  | [] => []
  | x :: xs => if p x then xs else x :: eraseFirst p xs
/-- Release what one placement of a task holds on the links, in the store ledger and in the power ledger: the older of two, or the newer. -/
def releasePlacement (id : Nat) (older : Bool) (s : State) : State :=
  let cut := fun {α : Type} (p : α → Bool) (l : List α) => if older then eraseFirst p l else (eraseFirst p l.reverse).reverse
  { s with link := { s.link with flows := cut (·.owner = .placement id) s.link.flows },
           store := { s.store with ledger := cut (·.owner = .placement id) s.store.ledger },
           pwr := { s.pwr with grants := cut (·.owner = .placement id) s.pwr.grants, queue := s.pwr.queue.filter (·.owner ≠ .placement id) } }

/-- A task has ended: FINAL is published, its objects are detached, its reservations released, and its commands complete (R140,
R153, R209, R220, R264). -/
def endTask (id : Nat) (s : State) : State := match findTask s id with
  | none => s
  | some t =>
    let stop := t.stopIndex.getD t.kNext
    let s := endSpectral id s
    let s := if t.feeds then detachMaps id (detachTask id s) else s
    let s := releaseFlow (.placement id) (cancelPeers t (dropShares id (fun _ => true) s))
    let s := releaseAll (.task id) (releaseAll (.retro id) (releaseAll (.backfill id) (releaseAll (.placement id) s)))
    let s := { s with tasks := s.tasks.filter (·.id ≠ id) }
    let s := match t.kind with
      | .live => taskEvent 0x01 [.w id, .q stop] s
      | .retro => taskEvent 0x0A [.w id] s
      | .source _ _ => s
    match t.destroy with
    | some (c, _) => match findCmd s c with
      | some c => done c stop 0 s
      | none => s
    | none => s

/-- An SK block that a FORCE stop leaves unfinished has flagged no bin, so its spectra count in the partial cell (R59, R129). -/
def addOpenBlock (id : Nat) (s : State) : State := match findTask s id with
  | some t =>
    let m := t.skNext % 2 ^ t.desc.skMLog2
    if t.desc.skBlank ∧ ¬ t.desc.twoStage ∧ t.skNext = t.kNext ∧ m ≠ 0 ∧ ¬ t.skGap ∧ t.cellCount ≠ 0 then
      setTask id (fun t => { t with cell := addBlocks t.desc t.points t.cell t.skS1 [] m }) s
    else s
  | none => s

/-- The task's last index has been processed: the partial cell of a FORCE stop, the last record with FINAL, or a MARKER of code
4 (R59, R140, R153, R167). -/
def finishTask (id : Nat) (s : State) : State :=
  let s := addOpenBlock id s
  let s := match findTask s id with
    | some t => if t.cellCount = 0 then s else endCell id (t.kNext - 1) s
    | none => s
  let s := match findTask s id with
    | some t =>
      if t.openRec.isSome then closeRecord id true s
      else if t.openGap.isSome then flushTaskGap id true s
      else if t.finalSent then s
      else putMarker id 4 (t.stopIndex.getD t.kNext) (t.epochAt t.kNext) rfFinal s
    | none => s
  endTask id s

/-- Publish as far as the filter has passed, and end the task at its stop index (R140, R155). A released index that no share
computes is a gap. -/
def advanceTask (id : Nat) : Nat → State → State
  | 0, s => s
  | n + 1, s => match findTask s id with
    | none => s
    | some t =>
      let k := t.kNext
      if (match t.stopIndex with | some e => decide (e ≤ k) | none => false) then finishTask id s
      else if t.withheld k then s
      else match t.held.find? (·.index = k) with
        | some u =>
          let s := processUnit id u s
          advanceTask id n (setTask id (fun t => { t with kNext := k + 1, held := t.held.filter (·.index ≠ k) }) s)
        | none => match t.deadCause k with
          | some c =>
            if t.releaseTick k ≤ s.clk.tick then
              let g := gapUnit id k (t.epochAt k) c false
              let s := if t.feeds ∧ ¬ t.desc.twoStage then offerSpectrum t k none s else s
              advanceTask id n (setTask id (fun t => { t with kNext := k + 1 }) (processUnit id g s))
            else s
          | none => s

/-- Steps that a task's publication may take now: what it holds, the released indices of dead shares, and the end. -/
def Task.publishFuel (t : Task) (tick : Nat) : Nat :=
  t.held.length + 2 + (if t.dead = [] then 0 else (tick - t.indexTick t.kNext) / max 1 t.hopTicks + 2)
/-- Publish what a task can. -/
def publishTask (id : Nat) (s : State) : State := match findTask s id with
  | some t => advanceTask id (t.publishFuel s.clk.tick) s
  | none => s

/-! ## The first-commit filter (R154, R163) -/

/-- Caught up: within 100 us of a frame's release (R155). -/
def caughtUpTicks : Nat := 100 * usTicks
/-- Whether a tile waits at commit for a task (R155). -/
def atCommit (s : State) (id : Nat) : Bool := s.tiles.toList.any fun t => decide (t.waitReason = 3) && (match t.running with | some r => decide (r.task = id) | none => false)
/-- The task commits each index again within 100 us of its frame's release, no tile waits, and the lowest index not yet committed is
no later than that: the caught-up event (R155, R168). -/
def catchUp (id k released : Nat) (s : State) : State := match findTask s id with
  | some t =>
    if t.lagging ∧ s.clk.tick ≤ released + caughtUpTicks ∧ ¬ atCommit s id then
      taskEvent 0x06 [.w id, .q k] (setTask id (fun t => { t with lagging := false }) s)
    else s
  | none => s

/-- A first result passes to the units and maps at once (R154). -/
def offerUnit (t : Task) (u : CommitUnit) (s : State) : State :=
  if ¬ t.feeds then s
  else
    let s := offerSpectrum t u.index (if u.gap.isSome then none else some u.power) s
    if u.gap.isSome then s else offerMaps t.id u.power u.flags s

/-- A migration ends without taking effect (R165): reasons 1 set-up, 2 fence, 3 the old placement ran out, 4 destroy (log 32). -/
def abortMigration (id reason : Nat) (s : State) : State := match findTask s id with
  | none => s
  | some t => match t.migration with
    | none => s
    | some m =>
      let s := dropShares id (fun x => decide (x.epoch = (t.epoch + 1) % 256) && !decide (x.role = 1 ∨ x.role = 6)) s
      let s := changeShares id (fun x => decide (x.role = 0 ∨ x.role = 3)) (fun x => { x with limit := none }) s
      let s := setTask id (fun t => { t with migration := none, kept := [], oldLimit := 0 }) s
      let s := match m.peer with | some d => cancelShares d id ((t.epoch + 1) % 256) 0 s | none => s
      let s := if t.placedPeer.isSome then releasePlacement id false s else releaseFlow (.placement id) (releaseAll (.placement id) s)
      let s := taskEvent 0x08 [.w id, .h reason] s
      match findCmd s m.cmd with
      | some c => publishTask id (complete c stAborted 0 0 reason s)
      | none => publishTask id s

/-- A migration takes effect: records from k0 carry the new epoch, after a MARKER of code 2 (R163, R164). -/
def completeMigration (id : Nat) (s : State) : State := match findTask s id with
  | none => s
  | some t => match t.migration with
    | none => s
    | some m =>
      let e := (t.epoch + 1) % 256
      let s := setTask id (fun t =>
        { t with migration := none, epochBefore := t.epoch, epoch := e, epochFrom := m.k0, placedPeer := m.peer,
                 dead := t.dead.map fun d => { d with stop := some (match d.stop with | some x => min x m.k0 | none => m.k0) },
                 markers := t.markers ++ [⟨2, m.k0, e⟩] }) s
      let s := dropShares id (fun x => decide (x.epoch = t.epoch) && (match x.limit with | some l => decide (l ≤ x.idx) | none => false)) s
      let s := match t.placedPeer with
        | some d => cancelShares d id t.epoch (m.k0 + m.overlap) (releasePlacement id true s)
        | none => s
      let s := taskEvent 0x07 [.w id, .w m.k0, .h e] s
      match findCmd s m.cmd with
      | some c => publishTask id (done c m.k0 e s)
      | none => publishTask id s

/-- What a result of an epoch means for a migration under way (R163 to R165). -/
def migrationStep (id : Nat) (u : CommitUnit) (s : State) : State := match findTask s id with
  | some t => match t.migration with
    | some m =>
      if u.epoch = (t.epoch + 1) % 256 ∧ u.index = m.k0 then completeMigration id s
      else if u.epoch = t.epoch ∧ u.index + 1 = m.k0 + m.overlap then abortMigration id 3 s
      else s
    | none => s
  | none => s

/-- A later result of an index: withheld, and compared where an overlap keeps the first one's CRC (R154, R163). -/
def laterResult (t : Task) (u : CommitUnit) (s : State) : State := match t.kept.find? (·.1 = u.index) with
  | some k =>
    if u.gap.isNone ∧ k.2 ≠ u.crc then taskEvent 0x09 [.w t.id, .q u.index] (setTask t.id (fun t => { t with mismatches := t.mismatches + 1 }) s)
    else s
  | none => s

/-- Whether a result belongs to a placement whose indices have ended (R163). -/
def Task.oldResult (t : Task) (u : CommitUnit) : Bool :=
  decide (t.oldLimit ≠ 0 ∧ t.oldLimit ≤ u.index) &&
    (match t.migration with | some _ => decide (u.epoch = t.epoch) | none => decide (u.epoch ≠ t.epoch))

/-- The lost spans that an accepted gap entry begins: EV 0x584 once a span (R161, R168). -/
def lostSpan (t : Task) (u : CommitUnit) (s : State) : State :=
  let joins := t.held.any (fun x => decide (x.index + 1 = u.index ∧ x.gap = some 4)) ||
    (match t.openGap with | some g => decide (g.cause = 4 ∧ g.last + 1 = u.index) | none => false)
  if u.gap = some 4 ∧ ¬ joins then
    taskEvent 0x04 [.w t.id, .q u.index] s
  else s

/-- The collector takes the result of an output index (R154, R155, R163). -/
def acceptMain (t : Task) (u : CommitUnit) (s : State) : State :=
  if (match t.stopIndex with | some e => decide (e ≤ u.index) | none => false) then s
  else if t.oldResult u then setTask t.id (fun t => { t with oldEpochDrops := t.oldEpochDrops + 1 }) s
  else if t.passed u.index then migrationStep t.id u (laterResult t u s)
  else
    let lo := match t.migration with | some m => m.k0 | none => t.epochFrom
    let keep := t.oldLimit ≠ 0 ∧ lo ≤ u.index ∧ u.index < t.oldLimit
    let s := lostSpan t u s
    let s := setTask t.id (fun t =>
      { t with held := t.held ++ [u], kept := if keep ∧ u.gap.isNone then t.kept ++ [(u.index, u.crc)] else t.kept,
               saturations := t.saturations + u.saturated }) s
    let s := if t.desc.twoStage then s else offerUnit t u s
    let s := if u.saturated = 0 then s else raiseW 0x58C s.clk.tick 1 0 [.w t.id, .q u.index, .since] s
    let s := match findTask s t.id with
      | some x => catchUp t.id u.index (min (t.releaseTick u.index) (x.releaseTick x.kPub)) s
      | none => s
    publishTask t.id (migrationStep t.id u s)

/-! ## The coarse stage (R141, R144) -/

/-- k_pub of the coarse stage. -/
def Task.coarseKPub (t : Task) : Nat := lowestMissing (t.coarseHeld.map (·.index)) t.coarseHeld.length t.coarsePub
/-- Whether the coarse filter has passed a frame. -/
def Task.coarsePassed (t : Task) (k : Nat) : Bool := decide (k < t.coarsePub) || t.coarseHeld.any (·.index = k)
/-- Rows of the two corner-turn blocks that stand once the row of an index is written (R143, R161). -/
def keepRows (t : Task) (k : Nat) (rows : List CornerRow) : List CornerRow :=
  rows.filter fun r => decide (k / 2 ^ t.desc.fLog2 ≤ r.index / 2 ^ t.desc.fLog2 + 1)

/-- Process coarse frames in index order: SK over all channels (R137). -/
def advanceCoarse (id : Nat) : Nat → State → State
  | 0, s => s
  | n + 1, s => match findTask s id with
    | none => s
    | some t => match t.coarseHeld.find? (·.index = t.coarsePub) with
      | some u =>
        let k := t.coarsePub
        let s := skStep id k u s
        advanceCoarse id n (setTask id (fun t => { t with coarsePub := k + 1, coarseHeld := t.coarseHeld.filter (·.index ≠ k) }) s)
      | none => s

/-- The address of the row of a coarse index in its task's two corner-turn blocks: rows of 4 bytes a channel, in turn (R141, R143;
log 29). -/
def Task.rowAddr (t : Task) (k : Nat) : Nat := t.cornerBase + k % (2 * 2 ^ t.desc.fLog2) * (4 * t.desc.channels)
/-- The bytes of a row: i16 + i16 a channel (R141). -/
def rowBytes (bins : List (U32 × U32)) : Data := bins.flatMap fun c => le 2 (c.1.toNat % 65536) ++ le 2 (c.2.toNat % 65536)
/-- The values of a row as they stand in SPECTRA. -/
def rowValues (s : State) (t : Task) (k : Nat) : List (Int × Int) :=
  let d := storeRead s (t.rowAddr k) (4 * t.desc.channels)
  (List.range t.desc.channels).map fun c => (i16At d (4 * c), i16At d (4 * c + 2))
/-- Whether the corner-turn block of a fine index holds a poisoned sector (R81). -/
def Task.cornerPoisoned (s : State) (t : Task) (k : Nat) : Bool :=
  let a := t.rowAddr (k * 2 ^ t.desc.fLog2)
  let n := 2 ^ t.desc.fLog2 * (4 * t.desc.channels)
  s.store.poison.any fun p => decide (a / 32 ≤ p ∧ p < ceilDiv (a + n) 32)

/-- The collector takes a coarse frame: to the units and the maps, and its row into the corner-turn buffer, with its saturations
counted (R131, R141, R144, R168). -/
def acceptCoarse (t : Task) (u : CommitUnit) (s : State) : State :=
  if t.coarsePassed u.index then s
  else
    let row : CornerRow :=
      { index := u.index, gap := u.gap, clipped := u.clipped || decide (u.saturated ≠ 0), uncertain := u.uncertain, backfill := u.backfill }
    let s := if u.gap.isSome then s else storeWrite (t.rowAddr u.index) (rowBytes u.bins) s
    let s := setTask t.id (fun t =>
      { t with coarseHeld := t.coarseHeld ++ [{ u with bins := [] }], corner := keepRows t u.index (t.corner ++ [row]),
               saturations := t.saturations + u.saturated }) s
    let s := if u.saturated = 0 then s else raiseW 0x58C s.clk.tick 1 0 [.w t.id, .q u.index, .since] s
    let s := catchUp t.id u.index (ceilDiv (t.frameStop u.index) 65536) s
    advanceCoarse t.id (t.coarseHeld.length + 1) (offerUnit t u s)

end Sys2Proof.Machine
end

