-- ==== Sys2Proof/Machine/TileOps.lean ====
section
/-! DEFINITION. Tiles: placement of shares (R21, R23, R112, R113), the units their routines compute (R123 to R126, R141, R146,
R182, R183), the choice of the next batch (R179, R180), fences with re-placement and backfill (R157 to R161, R184). -/

namespace Sys2Proof.Machine

/-- Change one tile. -/
def setTile (n : Fin 20) (f : Tile → Tile) (s : State) : State := { s with tiles := vmod s.tiles n f }
def tileIndex (n : Nat) : Option (Fin 20) := if h : n < 20 then some ⟨n, h⟩ else none
/-- Share roles. -/
def srMain : Nat := 0
def srBackfill : Nat := 1
def srRetro : Nat := 2
def srFine : Nat := 3
def srCross : Nat := 4
def srForeign : Nat := 5
def srBackFine : Nat := 6
/-- Shares of a backfill job: its frames, and the fine indices that it forms anew from the corner-turn blocks (R159, R161). -/
def Share.back (x : Share) : Bool := x.role = srBackfill || x.role = srBackFine
/-- Committed shares: those that count against the 15/16 line (R21, R22). -/
def Share.committed (x : Share) : Bool := !x.back && x.role ≠ srRetro
/-- A tile that takes part in placements. -/
def Tile.healthy (t : Tile) : Bool := t.state ≠ .fenced && t.state ≠ .selfTest

/-! ## Placement (R21, R112, R113) -/

/-- The share table that counts: the staged one while a hand-over waits (R187). -/
def Tile.table (t : Tile) : List Share := t.staged.getD t.shares
/-- Committed sixteenths of a tile, and what the 15/16 line leaves. -/
def Tile.used (t : Tile) : Nat := ((t.table.filter (·.committed)).map (·.sixteenths)).sum
def Tile.room (t : Tile) : Nat := 240 - t.used
/-- What this device holds of a placement for a home device (R366). -/
def findForeign (s : State) (task epoch : Nat) : Option ForeignShare := s.link.foreign.find? fun f => decide (f.task = task ∧ f.epoch = epoch)
/-- Bytes 4 to 0x42 of a home device's descriptor that the footprint of its shares needs (R112, R366). -/
def ForeignShare.foot (f : ForeignShare) : Nat :=
  let n := 2 ^ u8At f.raw 4
  let bins := binsOf f.complex (u8At f.raw 4)
  let span := if u8At f.raw 2 = 1 then bins else if u32At f.raw 0x24 = 0 then bins - u32At f.raw 0x20 else u32At f.raw 0x24
  4 * u8At f.raw 6 * n + 16 * (if f.complex then n else n / 2) + (if bit (u8At f.raw 0x2B) 0 then 32 * span else 0)
/-- SRAM that a share holds (R112, R152, R366); the cross-multiply stage transforms nothing and states none (log 34). -/
def shareFoot (s : State) (x : Share) : Nat :=
  if x.role = srForeign then match findForeign s x.task x.epoch with | some f => f.foot | none => 0
  else if x.role = srCross then 0
  else match findTask s x.task with
    | some t => if x.role = srFine ∨ x.role = srBackFine then t.desc.footFine else t.footprint
    | none => 0
def footUsed (s : State) (t : Tile) : Nat := (t.table.map (shareFoot s)).sum
def tileSram : Nat := 2883584

/-- Tiles of a mask that can take a share of a footprint, with the capacity left. -/
def openTiles (s : State) (mask foot : Nat) (poweredOnly : Bool) : List (Nat × Nat) :=
  (List.finRange 20).filterMap fun n =>
    let t := s.tiles[n]
    if bit mask n.val ∧ t.healthy ∧ t.table.length < 8 ∧ 0 < t.room ∧ footUsed s t + foot ≤ tileSram ∧ (¬ poweredOnly ∨ t.powered) then
      some (n.val, t.room)
    else none

/-- The fewest tiles with room for a demand, the roomiest first (log 33). -/
def fewestTiles : List (Nat × Nat) → Nat → Option (List (Nat × Nat))
  | _, 0 => some []
  | [], _ => none
  | x :: xs, d => (fewestTiles xs (d - x.2)).map (x :: ·)
/-- Give a demand out in whole tile-samples, each to the tile with the least so far. Entries are (tile, room, given). -/
def dealOut : Nat → Nat → List (Nat × Nat × Nat) → List (Nat × Nat × Nat)
  | 0, _, l => l
  | _ + 1, 0, l => l
  | n + 1, d, l =>
    let able := l.filter fun x => decide (x.2.2 < x.2.1)
    match able with
    | [] => l
    | y :: ys =>
      let p := ys.foldl (fun a b => if b.2.2 < a.2.2 then b else a) y
      let g := min (min 16 d) (p.2.1 - p.2.2)
      dealOut n (d - g) (l.map fun x => if x.1 = p.1 then (x.1, x.2.1, x.2.2 + g) else x)
/-- Tiles and sixteenths for a demand: powered tiles alone if they suffice, otherwise all (log 33). -/
def chooseTiles (s : State) (mask demand foot : Nat) : Option (List (Nat × Nat)) :=
  let pick := fun (p : Bool) => fewestTiles ((sortBy (fun x => 240 - x.2) (openTiles s mask foot p))) demand
  let l := match pick true with | some l => some l | none => pick false
  l.map fun l => ((dealOut (demand + 20) demand (l.map fun x => (x.1, x.2, 0))).map fun x => (x.1, x.2.2)).filter fun x => 0 < x.2

/-- Residues of an even pattern: at each step the share furthest behind its weight takes the residue (R113; log 33). Entries are
(weight, credit, residues). -/
def spreadResidues : List Nat → List (Nat × Int × List Nat) → List (Nat × Int × List Nat)
  | [], l => l
  | r :: rs, l =>
    let total : Int := ((l.map (·.1)).sum : Nat)
    let l := l.map fun x => (x.1, x.2.1 + (x.1 : Int), x.2.2)
    let top := l.foldl (fun (m : Int) x => max m x.2.1) (-total)
    let rec give : List (Nat × Int × List Nat) → List (Nat × Int × List Nat)
      | [] => []
      | x :: xs => if x.2.1 = top then (x.1, x.2.1 - total, x.2.2 ++ [r]) :: xs else x :: give xs
    spreadResidues rs (give l)
/-- Divide residues evenly among (tile, sixteenths) pairs. -/
def divideResidues (residues : List Nat) (l : List (Nat × Nat)) : List (Nat × List Nat) :=
  List.zipWith (fun (x : Nat × Nat) (y : Nat × Int × List Nat) => (x.1, y.2.2)) l (spreadResidues residues (l.map fun x => (x.2, 0, [])))

/-- The lowest index at or above k among residues of a period. -/
def nextOwn (period : Nat) (residues : List Nat) (k : Nat) : Nat :=
  let p := max 1 period
  match (residues.map fun r => k + (r + p - k % p) % p) with
  | [] => k
  | x :: xs => xs.foldl min x

/-- Put shares on tiles at once, into the table in force and into one that waits for its hand-over; gated tiles are powered. -/
def addShares (l : List (Nat × Share)) (s : State) : State :=
  forL l (fun x s => match tileIndex x.1 with
    | some n => setTile n (fun t => { t with shares := t.shares ++ [x.2], staged := t.staged.map (· ++ [x.2]), powered := true }) s
    | none => s) s
/-- Stage shares for tiles: they take effect at the hand-over (R187). -/
def stageShares (l : List (Nat × Share)) (s : State) : State :=
  forL l (fun x s => match tileIndex x.1 with
    | some n => setTile n (fun t => { t with staged := some (t.table ++ [x.2]), powered := true }) s
    | none => s) s
/-- The staged table, with each share that runs already as it stands now: the IDX that commits have advanced goes on (R187). -/
def Tile.merged (t : Tile) : List Share := t.table.map fun x => (t.shares.find? (·.key = x.key)).getD x
/-- Shares of a task for a placement from an index. -/
def makeShares (task role demand k epoch : Nat) (l : List (Nat × Nat)) : List (Nat × Share) :=
  ((divideResidues (List.range demand) l).zip l).map fun x =>
    (x.1.1, { task := task, sixteenths := x.2.2, period := demand, residues := x.1.2, idx := nextOwn demand x.1.2 k, from_ := k, limit := none,
              epoch := epoch, role := role, ran := 0 })
/-- Tiles of a list that are gated: each costs 10 units to power (R501). -/
def gatedAmong (s : State) (l : List Nat) : List Nat := l.filter fun n => match tileIndex n with | some i => !s.tiles[i].powered | none => false

/-- Move the powered-tile items of an owner's grant to the tiles that they power, so that a fence or an empty tile releases
them (R504; log 35). -/
def splitTileGrants (owner : Owner) (cls : Nat) (tiles : List Nat) (s : State) : State :=
  if tiles = [] then s
  else setPower (fun p =>
    { p with grants := (p.grants.map fun g => if g.owner = owner then { g with items := g.items.erase (cls, 10 * tiles.length) } else g) ++
               tiles.map fun n => ⟨.tile n, [(cls, 10)]⟩ }) s

/-! ## What a routine computes -/

/-- The frames of the numbering a task uses (R119). -/
def Task.frames (t : Task) (i : Inlet) : List Frame := i.ring.frames.filter fun f => decide (f.base = t.tBase ∧ f.lag = t.tLag)
/-- A task's samples as (I, Q) on the 16-bit scale (R123). -/
def inputOf (t : Task) (v : List (List Int)) : List (Int × Int) :=
  let c := t.desc.channel % 8
  let m : Int := if t.hist16 then 1 else 16
  v.map fun x => ((x.drop c).headD 0 * m, if t.complex then (x.drop (c + 1)).headD 0 * m else 0)
/-- The bytes a CRC of committed bin data covers (R163, R182). -/
def binData (power : List U32) (bins : List (U32 × U32)) : Data :=
  (power.flatMap fun p => le 4 p.toNat) ++ bins.flatMap fun b => le 4 b.1.toNat ++ le 4 b.2.toNat
/-- Place of source i in the descriptor. -/
def xcAt (i : Nat) : Nat := 0x28 + 16 * i
/-- Source i of a descriptor. -/
def xcSource (raw : Data) (i : Nat) : XcSource :=
  { did := u16At raw (xcAt i), channel := u8At raw (xcAt i + 2), remote := bit (u8At raw (xcAt i + 3)) 0, gainLog2 := i16At raw (xcAt i + 4),
    delay := i32At raw (xcAt i + 8), task := 0, saturations := 0 }
/-- A source of a correlator that a task computes, here or for a home device (R146, R367). -/
def sourceOf (s : State) (t : Task) : Option XcSource := match t.kind with
  | .source xc slot => match s.xcorrs.find? (·.id = xc) with
    | some x => (x.sources.drop slot).head?
    | none => some (xcSource t.desc.raw slot)
  | _ => none
/-- Bins as a task's format or kind makes them, with the number of saturated ones (R131, R141, R146). -/
def unitBins (s : State) (t : Task) (d : TaskDesc) (l : List BinVal) : List ((U32 × U32) × Bool) := match sourceOf s t with
  | some x =>
    ((List.range l.length).zip l).map fun y =>
      let f : Int := if t.complex then (y.1 : Int) - (d.nIn / 2 : Nat) else y.1
      let r := requantise y.2 f d.nIn (x.delay % 65536) x.gainLog2
      ((BitVec.ofInt 32 r.1.1, BitVec.ofInt 32 r.1.2), r.2)
  | none =>
    if d.twoStage ∨ d.format = 2 then
      l.map fun c => let r := complexInteger c d.outShift; ((BitVec.ofNat 32 (codeOf 16 r.1.1), BitVec.ofNat 32 (codeOf 16 r.1.2)), r.2)
    else if d.format = 3 then l.map fun c => (complexFloat c, false)
    else []

/-- The unit of one frame: a gap entry with the cause of a hole, of an overwritten or poisoned span, or the transform of its
samples (R13, R16, R122 to R126, R183). A patched routine, whose words are given, commits powers that its words decide: they depend on
the samples and the parameter set alone (R178, R188). -/
def frameUnit (s : State) (t : Task) (k epoch overwritten : Nat) (backfill : Bool) (patched : List (Nat × Nat)) : CommitUnit := match t.inlet with
  | none => gapUnit t.id k epoch overwritten false
  | some n =>
    let i := s.inlets[n]
    let n0 := t.g0 + k * t.desc.frameHop
    let gap := fun c => { gapUnit t.id k epoch c false with backfill := backfill }
    match spanGap i.ring (t.frameTime k / 65536) (ceilDiv (t.frameStop k) 65536) overwritten with
    | some c => gap c
    | none => match samplesAt (t.frames i) 0 n0 t.desc.frameLen with
      | none => gap overwritten
      | some v =>
        let d := t.descAt (t.indexOfFrame k)
        let r := transformBins d.coefs t.complex d.nLog2 (inputOf t v)
        let x := inputOf t v
        let power := match patched with
          | [] => r.1.map binPower
          | ram => (List.range r.1.length).map (Config.patchedPower ram x d.raw)
        let b := unitBins s t d r.1
        let bins := b.map Prod.fst
        { task := t.id, index := k, epoch := epoch, fine := false, power := power, bins := bins, crc := crc32c (binData power bins),
          clipped := r.2 || spanClipped (t.frames i) 0 n0 t.desc.frameLen, uncertain := spanUncertain i.phaseMarks (t.frames i) 0 n0 t.desc.frameLen,
          backfill := backfill, saturated := ((if d.format = 2 then (b.drop d.binFirst).take (d.spanIn t.bins) else b).filter (·.2)).length, gap := none }

/-- The unit of a fine index: the transform of every channel over the corner-turn rows as they stand in SPECTRA; an overwritten block
is a gap of cause 4, a poisoned one of cause 10 (R81, R141, R142, R161). -/
def fineUnit (s : State) (t : Task) (k epoch : Nat) (backfill : Bool) : CommitUnit :=
  let f := 2 ^ t.desc.fLog2
  let marks := (List.range f).filterMap fun j => t.corner.find? (·.index = k * f + j)
  let back := backfill || marks.any (·.backfill)
  let gap := fun c => { gapUnit t.id k epoch c true with backfill := back }
  let worst := marks.foldl (fun g r => worseGap g r.gap) (if t.cornerPoisoned s k then some 10 else none)
  if marks.length < f then gap 4
  else match worst with
    | some c => gap c
    | none =>
      let rows := (List.range f).map fun j => rowValues s t (k * f + j)
      let d := t.descAt k
      let each := (List.range t.desc.channels).map fun c =>
        transformBins d.fineCoefs true d.fLog2 (rows.map fun r => (r.drop c).headD (0, 0))
      let power := each.flatMap fun r => r.1.map binPower
      { task := t.id, index := k, epoch := epoch, fine := true, power := power, bins := [], crc := crc32c (binData power []),
        clipped := each.any (·.2) || marks.any (·.clipped), uncertain := marks.any (·.uncertain), backfill := back, saturated := 0, gap := none }

/-- Whether the frame of an index has been released to the tiles: its samples have come (R48, R179). -/
def Task.frameReleased (t : Task) (s : State) (k : Nat) : Bool := decide (ceilDiv (t.frameStop k) 65536 ≤ s.clk.tick)
/-- The limit of a task's frames: its stop index, or what a retro job has planned. -/
def Task.frameLimit (t : Task) : Option Nat := t.stopIndex.map fun k => if t.desc.twoStage then k * 2 ^ t.desc.fLog2 else k
/-- A correlator's index for which every source has come (R150). -/
def xcReady (s : State) (id : Nat) : Option Nat := match s.xcorrs.find? (·.id = id) with
  | some x => match x.waiting.find? (·.index = x.nextIndex) with
    | some w => if w.values.length = x.sources.length then some w.index else none
    | none => none
  | none => none

/-- A cross-multiply index that R23 has stopped (R159). -/
def Xcorr.stopped (x : Xcorr) (k : Nat) : Bool := x.crossDead.any (·.holds k)
/-- Indices of backfill that no tile's batch holds (R159): frames, or fine indices (R161). -/
def backfillFree (s : State) (t : Task) (role : Nat) : List Nat := match t.backfill with
  | some b => if b.waitingPower then [] else (if role = srBackFine then b.fine else b.indices).filter fun k =>
      !(s.tiles.toList.any fun x => (match x.running with | some r => decide (r.task = t.id ∧ r.role = role) | none => false) && x.batch.contains k)
  | none => []

/-- Whether a share may compute an index now. -/
def shareReady (s : State) (t : Task) (x : Share) (k : Nat) : Bool :=
  t.active && (match x.limit with | some l => decide (k < l) | none => true) &&
  (if x.role = srFine then
     decide ((k + 1) * 2 ^ t.desc.fLog2 ≤ t.coarsePub) && (match t.stopIndex with | some e => decide (k < e) | none => true)
   else t.frameReleased s k && (match t.frameLimit with | some e => decide (k < e) | none => true))

/-- Indices of one batch at most (R179). -/
def batchSize (t : Task) (role : Nat) : Nat := max 1 (16384 / max 1 (if role = srFine ∨ role = srBackFine then t.bins else t.desc.nIn))

/-- Own indices in order from k that are ready, up to a number. -/
def ownReady (s : State) (t : Task) (x : Share) : Nat → Nat → List Nat
  | 0, _ => []
  | n + 1, k => if shareReady s t x k then k :: ownReady s t x n (nextOwn x.period x.residues (k + 1)) else []

/-- The tick by which a home device's frame has been released (R179, R366). -/
def ForeignShare.release (f : ForeignShare) (k : Nat) : Nat := ceilDiv (f.startTime + (k - f.startIdx) * f.stepNum / max 1 f.stepDen) 65536
/-- Own indices of a share for a home device that are released, in order from k. -/
def foreignReady (s : State) (f : ForeignShare) (x : Share) : Nat → Nat → List Nat
  | 0, _ => []
  | n + 1, k =>
    if f.active && decide (f.release k ≤ s.clk.tick) && (match x.limit with | some l => decide (k < l) | none => true) then
      k :: foreignReady s f x n (nextOwn x.period x.residues (k + 1))
    else []

/-- The batch that a share would run now (R179); none where nothing is released. -/
def batchOf (s : State) (x : Share) : List Nat :=
  if x.role = srCross then match xcReady s x.task with
    | some k => if x.residues.contains (k % max 1 x.period) then [k] else []
    | none => []
  else if x.role = srForeign then match findForeign s x.task x.epoch with
    | some f => foreignReady s f x (max 1 (16384 / max 1 (2 ^ u8At f.raw 4))) x.idx
    | none => []
  else match findTask s x.task with
    | none => []
    | some t =>
      if x.back then (backfillFree s t x.role).take (batchSize t (if x.role = srBackFine then srFine else srMain))
      else ownReady s t x (batchSize t x.role) x.idx

/-- The tick at which a share's next index was released: of a cross-multiply index, the last of its sources' frames. -/
def releaseOf (s : State) (x : Share) (k : Nat) : Nat :=
  if x.role = srCross then
    ((s.tasks.filter fun t => match t.kind with | .source i _ => decide (i = x.task) | _ => false).map fun t => ceilDiv (t.frameStop k) 65536).foldl max 0
  else if x.role = srForeign then match findForeign s x.task x.epoch with | some f => f.release k | none => 0
  else match findTask s x.task with
    | some t => if x.role = srFine ∨ x.role = srBackFine then t.releaseTick k else ceilDiv (t.frameStop k) 65536
    | none => 0
/-- The highest index of a task that is released by now. -/
def releasedUpTo (s : State) (x : Share) : Nat := match findTask s x.task with
  | some t =>
    let k := (s.clk.tick - t.indexTick 0) / max 1 t.hopTicks
    if t.frameReleased s k then k else k - 1
  | none => 0
/-- How many own indices of a share lie at or below an index (R113, R180). -/
def Share.ownCount (x : Share) (k : Nat) : Nat :=
  let p := max 1 x.period
  (k + 1) / p * x.residues.length + (x.residues.filter fun r => decide (r < (k + 1) % p)).length
def earnedBy (s : State) (x : Share) : Nat := x.ownCount (releasedUpTo s x)

/-- The rank of a share's work by R180: 0 committed work that its rate entitles it to, 1 backfill, 2 the rest of a task that
catches up, 3 retro. A share of a task that catches up earns a batch for each batch's worth of its own frames released. -/
def workRank (s : State) (x : Share) (batch : List Nat) : Nat :=
  if x.back then 1
  else if x.role = srRetro then 3
  else match findTask s x.task with
    | some t => if t.lagging ∧ x.role = srMain ∧ earnedBy s x < x.ran + batch.length then 2 else 0
    | none => 0
/-- What a share has been paid after a batch under item 1 of R180: all that it has earned while its task keeps up. -/
def paidAfter (s : State) (x : Share) (batch : List Nat) : Nat :=
  if workRank s x batch ≠ 0 then x.ran
  else match findTask s x.task with | some t => if t.lagging then x.ran + batch.length else earnedBy s x | none => x.ran

/-- The share that runs next and its batch (R180): lowest rank, then earliest release. -/
def nextShare (s : State) (t : Tile) : Option (Share × List Nat) :=
  let ready := t.shares.filterMap fun x => match batchOf s x with | [] => none | k :: ks => some (x, k :: ks)
  (ready.map fun y => (y, workRank s y.1 y.2, releaseOf s y.1 (y.2.headD 0))).foldl
    (fun (b : Option ((Share × List Nat) × Nat × Nat)) y => match b with
      | some a => if y.2.1 < a.2.1 ∨ (y.2.1 = a.2.1 ∧ y.2.2 < a.2.2) then some y else some a
      | none => some y) none |>.map (·.1)

/-! ## Fence (R158 to R161) -/

/-- Change a share on a tile, in the table in force and in a staged one. -/
def setShare (n : Fin 20) (k : ShareKey) (f : Share → Share) (s : State) : State :=
  setTile n (fun t => { t with shares := lmod t.shares (·.key = k) f, staged := t.staged.map fun l => lmod l (·.key = k) f }) s

/-- Fence a tile (R158, R160): the event first, then a MARKER of code 1 for each task at its lowest uncommitted index; a placement
that a migration has not yet started is given up (R165). The tile's powered cost is released (R504). -/
def fenceTile (n : Fin 20) (cause : Nat) (s : State) : State :=
  if s.tiles[n].state = .fenced then s
  else
    let shares := s.tiles[n].merged
    let s := setTile n (fun t => { t.stopRun with state := .fenced, fenceCause := cause, powered := false, shares := shares, staged := none, pendingCauses := [] }) s
    let s := releasePower (.tile n.val) s
    let s := { s with life := { s.life with fences := satN 32 (s.life.fences + 1), countsChanged := true } }
    let s := raise (0x400 + n.val * 0x10) [.h n.val, .h cause] s
    forL shares (fun x s => match findTask s x.task with
      | none => s
      | some t =>
        let k := if x.role = srFine ∨ ¬ t.desc.twoStage then x.idx else x.idx / 2 ^ t.desc.fLog2
        if x.role = srMain ∨ x.role = srFine ∨ x.role = srRetro then
          if t.migration.isSome ∧ x.epoch = (t.epoch + 1) % 256 then abortMigration t.id 2 s
          else setTask t.id (fun t => { t with markers := t.markers ++ [⟨1, k, t.epochAt k⟩] }) s
        else s) s

/-- The units of work that backfill costs: work of the shares it replaces and their history read (R501). -/
def backfillItems (t : Task) (sixteenths : Nat) (kbs : Nat) : List (Nat × Nat) :=
  [(pcRetro, ceilDiv (2 * sixteenths) 16), (pcRetro, storeUnits (kbs * sixteenths / max 1 t.demand))]
/-- A task's source rate in history bytes: kB/s of its converters (R25). -/
def readKbs (fsNum fsDen : Nat) (complex hist16 : Bool) : Nat :=
  ceilDiv (20000 * fsNum * (if complex then 2 else 1) * (if hist16 then 4 else 3)) (max 1 fsDen)
def Task.readKbs (t : Task) : Nat := Sys2Proof.Machine.readKbs t.fsNum t.fsDen t.complex t.hist16

/-- Give lost indices their gap entries (R161, R506). -/
def loseIndices (id cause : Nat) (l : List Nat) (s : State) : State :=
  let s := forL l (fun k s => match findTask s id with
    | some t => if t.desc.twoStage then acceptCoarse t (gapUnit id k t.epoch cause false) s else acceptMain t (gapUnit id k (t.epochAt k) cause false) s
    | none => s) s
  match l with
  | [] => s
  | k :: _ => if cause = 7 then
      raise 0xB55 [.w id, .w l.length, .q k] (setPower (fun p => { p with cause7Spans := satN 32 (p.cause7Spans + 1) }) s)
    else s

/-- Give lost fine indices their gap entries (R161, R506). -/
def loseFine (id cause : Nat) (l : List Nat) (s : State) : State :=
  forL l (fun k s => match findTask s id with | some t => acceptMain t (gapUnit id k (t.epochAt k) cause true) s | none => s) s

/-- Backfill shares on every healthy tile that has room below the 15/16 line and none of the job yet (R22; log 36). -/
def placeBackfill (t : Task) (role foot : Nat) (s : State) : State :=
  forL ((openTiles s (2 ^ 20 - 1) foot true).filter fun x => match tileIndex x.1 with
      | some n => !(s.tiles[n].table.any fun y => decide (y.task = t.id ∧ y.role = role))
      | none => false) (fun x s =>
    addShares [(x.1, { task := t.id, sixteenths := 0, period := 1, residues := [0], idx := 0, from_ := 0, limit := none, epoch := t.epoch,
                       role := role, ran := 0 })] s) s

/-- The backfill of a task may run: started once it has power (R159). -/
def startBackfill (id : Nat) (s : State) : State := match findTask s id with
  | none => s
  | some t => match t.backfill with
    | none => s
    | some b =>
      let s := setTask id (fun t => { t with backfill := some { b with waitingPower := false } }) s
      let s := if b.indices = [] then s else placeBackfill t srBackfill t.footprint s
      if b.fine = [] then s else placeBackfill t srBackFine t.desc.footFine s

/-- A backfill job over the lost frames and fine indices of a task (R159, R161, R501, R503, R506). -/
def beginBackfill (id ku kr sixteenths cause : Nat) (indices fine : List Nat) (s : State) : State := match findTask s id with
  | none => s
  | some t =>
    let l := (match t.backfill with | some b => b.indices | none => []) ++ indices
    let m := (match t.backfill with | some b => b.fine | none => []) ++ fine
    let s := setTask id (fun t =>
      { t with backfill := some ⟨l, m, true, cause⟩, backfilled := t.backfilled ++ indices, backfilledFine := t.backfilledFine ++ fine }) s
    let s := taskEvent 0x02 [.w id, .w ku, .w kr] s
    let r := requestInternal 1 (.backfill id) (backfillItems t sixteenths t.readKbs) s
    match r.1 with
    | .granted => startBackfill id r.2
    | .queued => r.2
    | _ => loseFine id 7 m (loseIndices id 7 l (setTask id (fun t => { t with backfill := none }) r.2))

/-- Take indices off a backfill job. -/
def backfillDone (id k : Nat) (fine : Bool) (s : State) : State :=
  setTask id (fun t => { t with backfill := t.backfill.map fun b =>
    if fine then { b with fine := b.fine.filter (· ≠ k) } else { b with indices := b.indices.filter (· ≠ k) } }) s

/-- Own indices of a share in [k, end). -/
def ownIndices (period : Nat) (residues : List Nat) (k e : Nat) : List Nat :=
  ((List.range (e - k)).map (· + k)).filter fun j => residues.contains (j % max 1 period)

/-- The first own index whose frame is released after now (R159). -/
def firstLive (s : State) (t : Task) (x : Share) : Nat :=
  let k := if x.role = srFine then t.coarsePub / 2 ^ t.desc.fLog2 else releasedUpTo s x
  let k := if x.role = srFine ∨ ¬ t.frameReleased s k then k else k + 1
  nextOwn x.period x.residues (max k x.idx)

/-- Where the indices of a placement end for a share: at k0 once another placement takes them from there (R166). -/
def Task.placementEnd (t : Task) (x : Share) : Option Nat := match t.migration with
  | some m => if x.epoch = t.epoch then some m.k0 else none
  | none => if x.epoch = t.epoch then none else some t.epochFrom
/-- Residues of a share that no tile takes: gap entries from an index on, and the lost-span event (R23, R161). -/
def stopResidues (id : Nat) (x : Share) (residues : List Nat) (cause : Nat) (stop : Option Nat) (s : State) : State :=
  if residues = [] then s
  else taskEvent 0x04 [.w id, .q x.idx] (setTask id (fun t =>
    { t with dead := t.dead ++ residues.map fun r => ⟨x.period, r, x.idx, stop, cause⟩ }) s)

/-- Re-place one share of a lost tile onto a choice of tiles: live from k_r, backfill below it, and gaps of a cause for the
residues that no tile takes (R23, R159, R161, R166, R187). -/
def replaceShare (x : Share) (tiles : List (Nat × Nat)) (deadCause backCause : Nat) (s : State) : State := match findTask s x.task with
  | none => s
  | some t =>
    let ku := x.idx
    let kr := firstLive s t x
    let given := (tiles.map Prod.snd).sum
    let parts := divideResidues x.residues (tiles ++ if given < x.sixteenths then [(99, x.sixteenths - given)] else [])
    let live := (parts.filter (·.1 < 20)).map fun p => (p.1, ((tiles.find? (·.1 = p.1)).map Prod.snd).getD 0, p.2)
    let deadRes := (parts.filter (·.1 = 99)).flatMap Prod.snd
    let stop := (t.placementEnd x).map fun k => if t.desc.twoStage ∧ x.role = srMain then k * 2 ^ t.desc.fLog2 else k
    let s := stageShares (live.map fun p => (p.1, { x with sixteenths := p.2.1, residues := p.2.2, idx := nextOwn x.period p.2.2 kr, from_ := kr })) s
    let s := stopResidues t.id x deadRes deadCause stop s
    let back := (ownIndices x.period (live.flatMap (·.2.2)) ku (match stop with | some e => min e kr | none => kr)).filter fun k =>
      if t.desc.twoStage ∧ x.role = srMain then !t.coarsePassed k else !t.passed k
    let s := if back = [] then s
      else if x.role = srFine then beginBackfill t.id ku kr given backCause [] back s
      else beginBackfill t.id ku kr given backCause back [] s
    publishTask t.id s

/-- Choose tiles for as much of a demand as there is room for. -/
def chooseWhat (s : State) (demand foot : Nat) (poweredOnly : Bool) : List (Nat × Nat) :=
  let l := sortBy (fun x => 240 - x.2) (openTiles s (2 ^ 20 - 1) foot poweredOnly)
  let d := min demand ((l.map Prod.snd).sum)
  match fewestTiles l d with
  | some l => ((dealOut (d + 20) d (l.map fun x => (x.1, x.2, 0))).map fun x => (x.1, x.2.2)).filter fun x => 0 < x.2
  | none => []

/-! ## Abandon (R184, R185) -/

/-- Abandon causes that count as faults. -/
def faultCause (c : Nat) : Bool := 3 ≤ c ∧ c ≤ 6

/-- A count of abandons by their causes (R193). -/
def Tile.counted (t : Tile) (causes : List Nat) : Tile :=
  { t with restarts := causes.foldl (fun v c => vmodN v (c - 1) fun x => satN 32 (x + 1)) t.restarts }
/-- What an abandon leaves of a run until it restarts (R185). -/
def Tile.discarded (t : Tile) (times : List Nat) (failed : Option Nat) : Tile :=
  { t with units := [], readIssued := 0, restarting := true, waitReason := 0, state := .running,
           seq := { Sequencer.reset with trace := t.seq.trace }, faultTimes := times, lastFailIndex := failed }
/-- The reads of a tile that are still in flight for a home device are discarded when they arrive (R185, R366). -/
def forgetReads (n : Fin 20) (s : State) : State :=
  let drop := fun (r : LinkRequest) => if r.tile = some n.val then { r with tile := none } else r
  { s with link := { s.link with remoteReads := s.link.remoteReads.filter (·.tile ≠ n.val), requests := s.link.requests.map drop } }

/-- Abandon the running routine with its causes: everything staged is discarded, with the loop counters, the return stack and the
address generators, every cause is counted, and two consecutive faults of an index, or more than 64 restarts in 1 ms, fence the tile
(R158, R184, R185). idx is the index whose check failed. -/
def abandonRun (n : Fin 20) (causes : List Nat) (idx : Option Nat) (s : State) : State :=
  let t := s.tiles[n]
  match t.running with
  | none => s
  | some _ =>
    let fault := causes.any faultCause
    let again := fault && decide (t.lastFailIndex = idx) && idx.isSome
    let times := (t.faultTimes.filter fun u => decide (s.clk.up < u + msTicks)) ++ if fault then [s.clk.up] else []
    let s := forgetReads n s
    let s := setTile n (fun t => (t.counted causes).discarded times (if fault then idx else none)) s
    if again then fenceTile n 1 s
    else if 64 < times.length then fenceTile n 2 s
    else s

end Sys2Proof.Machine
end

