-- ==== Sys2Proof/Machine/Ucode.lean ====
section
/-! DEFINITION. The control store and its microwords (R169 to R178): the check bits, the stored words of a tile, the fields of a
microword, the address generators, and a sequencer at the entry of a routine. -/

namespace Sys2Proof.Machine

/-! ## The stored word (R169, R170) -/

/-- Words of the control store, and those that are ROM. -/
def controlWords : Nat := 0x2000
def romWords : Nat := 0x1000
/-- The columns of the check matrix of the 160 data bits and the 14 address bits: distinct bytes with two bits or more, so that the
code has distance 3 (R170; log 115). -/
def checkColumns : List Nat := ((List.range 256).filter fun c => decide (2 ≤ popCount c 8)).take 174
/-- The 8 check bits of a word at an address (R170). -/
def checkBits (w addr : Nat) : Nat :=
  ((List.range 174).zip checkColumns).foldl (fun a x => if (w % 2 ^ 160 + addr % 2 ^ 14 * 2 ^ 160).testBit x.1 then a ^^^ x.2 else a) 0
/-- A stored word with its check bits passes for the address that asked for it (R170). -/
def wordPasses (w check addr : Nat) : Bool := decide (checkBits w addr = check)

/-- A word of the patch RAM as loaded, and of the whole store: the ROM's content is open (R172, R191). -/
def patchWord (s : State) (a : Nat) : Nat := match s.cs.patchRam.find? (·.1 = a) with | some e => e.2 | none => s.cs.patchFill
def controlWord (s : State) (a : Nat) : Nat := if a < romWords then Config.romWord a % 2 ^ 160 else patchWord s a
/-- The data and check bits that a tile's store holds at an address: what was loaded, with the bits that an upset has turned. -/
def storedWord (s : State) (n : Fin 20) (a : Nat) : Nat × Nat :=
  let e := Counts.at_ s.tiles[n].csErrors a
  let w := controlWord s a
  (w ^^^ (e % 2 ^ 160), checkBits w a ^^^ (e / 2 ^ 160 % 256))
/-- A fetch for one address that returns the word stored at another passes its check. -/
def fetchPasses (s : State) (n : Fin 20) (asked got : Nat) : Bool := let w := storedWord s n got; wordPasses w.1 w.2 asked
/-- An upset turns bits of a stored word: bits 159:0 its data, bits 167:160 its check bits. -/
def upsetWord (n : Fin 20) (a bits_ : Nat) (s : State) : State :=
  setTile n (fun t => { t with csErrors := Counts.put t.csErrors a (Counts.at_ t.csErrors a ^^^ (bits_ % 2 ^ 168)) }) s
/-- The repair of a word: from the verified copy of the patch, or by a second read of the ROM (R171). -/
def repairWord (n : Fin 20) (a : Nat) (s : State) : State :=
  setTile n (fun t => { t with csErrors := Counts.put t.csErrors a 0, csRepairs := t.csRepairs + 1 }) s

/-! ## The fields of a microword (R172) -/

/-- A microword decoded. -/
structure Microword where
  seqOp : Nat
  target : Nat
  condSel : Nat
  condInv : Bool
  loopOp : Nat
  loopCtr : Nat
  loopImm : Nat
  ag0Op : Nat
  ag0Stride : Nat
  ag0Burst : Nat
  ag0Ofs : Int
  ag1Op : Nat
  ag1Stride : Nat
  ag1Burst : Nat
  ag1Ofs : Int
  coefBank : Nat
  coefOp : Nat
  coefTaps : Nat
  fftStage : Nat
  fftOp : Nat
  fftScale : Nat
  detOp : Nat
  eddyOp : Nat
  eddyPort : Nat
  sqOp : Nat
  fmtOp : Nat
  fmtCode : Nat
  scrOp : Nat
  scrAddr : Nat
  evEmit : Bool
  evCode : Nat
  route : Nat
  fence : Bool
  commit : Bool
  trace : Bool
deriving DecidableEq, Repr

/-- The fields of the 160 data bits (R172). -/
def Microword.ofWord (w : Nat) : Microword :=
  { seqOp := bits w 159 156, target := bits w 155 142, condSel := bits w 141 136, condInv := bit w 135, loopOp := bits w 134 132,
    loopCtr := bits w 131 130, loopImm := bits w 129 118, ag0Op := bits w 117 115, ag0Stride := bits w 114 112, ag0Burst := bits w 111 108,
    ag0Ofs := signed 8 (bits w 107 100), ag1Op := bits w 99 97, ag1Stride := bits w 96 94, ag1Burst := bits w 93 90,
    ag1Ofs := signed 8 (bits w 89 82), coefBank := bits w 81 79, coefOp := bits w 78 76, coefTaps := bits w 75 72, fftStage := bits w 71 68,
    fftOp := bits w 67 65, fftScale := bits w 64 63, detOp := bits w 62 59, eddyOp := bits w 56 55, eddyPort := bits w 54 52,
    sqOp := bits w 51 49, fmtOp := bits w 48 46, fmtCode := bits w 45 44, scrOp := bits w 43 41, scrAddr := bits w 40 29, evEmit := bit w 28,
    evCode := bits w 27 24, route := bits w 23 18, fence := bit w 17, commit := bit w 16, trace := bit w 15 }

/-- Whether every field of a microword holds a defined encoding and every reserved bit is 0 (R172 to R176). -/
def microwordOk (w : Nat) : Bool :=
  let m := Microword.ofWord w
  decide (w < 2 ^ 160) && decide (m.seqOp ≤ 7) && decide (m.condSel ≤ 0x15) && decide (m.loopOp ≤ 3) && [0, 1, 3, 4, 5].contains m.ag0Op &&
  decide (m.ag1Op ≤ 6) && decide (m.coefOp ≤ 2) && decide (m.fftStage ≤ 8) && decide (m.fftOp ≤ 5) && decide (m.fftScale = 0) &&
  decide (m.detOp ≤ 5) && decide (bits w 58 57 = 0) && decide (m.eddyOp ≤ 1) && decide (m.sqOp ≤ 1) && decide (m.fmtOp ≤ 3) &&
  decide (m.scrOp ≤ 2) && decide (m.evCode = 0) && decide (bits m.route 3 2 ≤ 2) && decide (bits w 14 0 = 0)

/-! ## Address generators (R177) -/

/-- Whether an address generator operation moves granules, and whether it steps. -/
def agMoves (op : Nat) : Bool := [1, 2, 5, 6].contains op
def agSteps (op : Nat) : Bool := [3, 5, 6].contains op
def agWrites (op : Nat) : Bool := op = 2 ∨ op = 6
/-- The span of a burst: its first address, before a ring wraps, and its bytes. -/
def AddrGen.span (g : AddrGen) (burst : Nat) (ofs : Int) : Int × Nat := ((g.cur : Int) + 64 * ofs, 64 * (burst + 1))
/-- Whether a burst lies in the share's region; a ring wraps from its last extent to its first (R177). -/
def AddrGen.inside (g : AddrGen) (burst : Nat) (ofs : Int) : Bool :=
  let x := g.span burst ofs
  decide ((g.base : Int) ≤ x.1) && (g.ring || decide (x.1 + x.2 ≤ (g.limit : Int)))
/-- The current address after a step by a stride. -/
def AddrGen.step (g : AddrGen) (stride : Nat) : AddrGen :=
  let a := g.cur + (g.strides.drop stride).headD 0
  let n := g.limit - g.base
  { g with cur := if g.ring ∧ g.base ≤ a ∧ 0 < n then g.base + (a - g.base) % n else a }
/-- The address generator at the first input sample of an index. -/
def AddrGen.frame (g : AddrGen) (task k : Nat) : AddrGen :=
  { g with cur := g.base + 64 * (Config.frameGranule task k % max 1 ((g.limit - g.base) / 64)) }
/-- An address generator over a region, loaded at routine entry from the share's parameter set (R177). -/
def AddrGen.over_ (r : Option Region) (task : Nat) (ring : Bool) : AddrGen := match r with
  | some r => { base := r.base, limit := r.base + r.size, cur := r.base, strides := (List.range 8).map (Config.stride task), ring := ring }
  | none => { AddrGen.reset with strides := (List.range 8).map (Config.stride task) }

/-! ## Routines (R178) -/

/-- The routine of a share by the table of R178. -/
def routineOf (t : Task) (role : Nat) : Nat :=
  if role = srFine ∨ role = srBackFine then 6 else if role = srCross then 8
  else match t.kind with
    | .source _ _ => 7
    | _ => if t.desc.twoStage then 5 else 1 + b2n t.complex + 2 * b2n (decide (2 ≤ t.desc.taps))
/-- The routine of a share of any kind, here or for a home device (R178, R366). -/
def routineOfShare (s : State) (x : Share) : Nat := match findTask s x.task with
  | some k => routineOf k x.role
  | none => match findForeign s x.task x.epoch with
    | some f => if u8At f.raw 2 = 1 then 5 else 1 + b2n f.complex + 2 * b2n (decide (2 ≤ u8At f.raw 6))
    | none => 8
/-- Where a routine begins: a patched entry, or one of the ROM that the manual does not give (R178). -/
def entryOf (s : State) (routine : Nat) : Nat := match s.cs.entries.find? (·.1 = routine) with
  | some e => e.2
  | none => Config.romEntry routine % romWords
/-- The words of the patch where a routine enters it, none where it runs in the ROM (R178). -/
def patchedWords (s : State) (routine : Nat) : List (Nat × Nat) := match s.cs.entries.find? (·.1 = routine) with
  | some e => if e.2 < romWords then [] else s.cs.patchRam
  | none => []

/-- The input points of a share's transform, which size its batches and its nominal cycles (R179). -/
def sharePoints (s : State) (x : Share) : Nat := match findTask s x.task with
  | some t => if x.role = srFine ∨ x.role = srBackFine then t.bins else t.desc.nIn
  | none => match findForeign s x.task x.epoch with
    | some f => 2 ^ u8At f.raw 4
    | none => match s.xcorrs.find? (·.id = x.task) with | some c => c.desc.nIn | none => 0
/-- The nominal cycles of a batch: b x N_in / 16 + 96 (R179). -/
def nominalCycles (s : State) (x : Share) (b : Nat) : Nat := b * sharePoints s x / 16 + 96

/-- A sequencer at the entry of a share's routine (R177, R179, R188). -/
def sequencerAt (s : State) (n : Fin 20) (x : Share) (routine : Nat) : Sequencer :=
  let corner := x.role = srFine ∨ x.role = srBackFine ∨ x.role = srCross
  { Sequencer.reset with
    upc := entryOf s routine, ag0 := AddrGen.over_ (s.store.region (if corner then rtSpectra else rtHistory)) x.task (!corner),
    ag1 := AddrGen.over_ (s.store.region rtSpectra) x.task false, trace := s.tiles[n].seq.trace }
/-- A run of a share begins at its routine's entry with a batch. -/
def startRun (n : Fin 20) (x : Share) (batch : List Nat) (s : State) : State :=
  let r := routineOfShare s x
  let q := sequencerAt s n x r
  let c := nominalCycles s x batch.length
  setTile n (fun t => { t with
    running := some x.key, batch := batch, units := [], readIssued := 0, state := .running, waitReason := 0, restarting := false,
    routine := r, runStart := s.clk.up, nominal := c, seq := q }) s

end Sys2Proof.Machine
end

