-- ==== Sys2Proof/Machine/Tiles.lean ====
section
/-! DEFINITION. The events of the tiles and of the correlators (R29, R150, R155, R157 to R161, R171, R179 to R187). -/

namespace Sys2Proof.Machine

/-! ## Correlators (R146, R147, R150) -/

/-- Change one correlator. -/
def setXcorr (id : Nat) (f : Xcorr → Xcorr) (s : State) : State := { s with xcorrs := lmod s.xcorrs (·.id = id) f }
def findXcorr (s : State) (id : Nat) : Option Xcorr := s.xcorrs.find? (·.id = id)
/-- Span bins of a correlator. -/
def Xcorr.span (x : Xcorr) : Nat := x.binCount
/-- Pairs (i, j) with i at most j among the sources (R147). -/
def Xcorr.pairs (x : Xcorr) : List (Nat × Nat) :=
  (List.range x.sources.length).flatMap fun i => ((List.range x.sources.length).filter (i ≤ ·)).map fun j => (i, j)
/-- Time of a spectrum index of a correlator, in 1/65,536 tick: that of the common grid (R119, R146). -/
def Xcorr.timeOf (s : State) (x : Xcorr) (k : Nat) : Nat := match s.tasks.find? (fun t => match t.kind with | .source i _ => decide (i = x.id) | _ => false) with
  | some t => t.timeOf (x.g0 + k * t.desc.hop)
  | none => x.time0

/-- One source's values of an index join those that wait, with the record flags that its spectrum carries (R133, R150). -/
def xcOffer (id slot k marks : Nat) (values : Option (List (Int × Int))) (cause : Nat) (s : State) : State := match findXcorr s id with
  | none => s
  | some x =>
    if k < x.nextIndex then s
    else
      let fresh := fun (w : XcIndex) => match values with
        | some v => { w with values := w.values.filter (·.1 ≠ slot) ++ [(slot, v)], marks := w.marks ||| marks }
        | none => w
      let waiting := if x.waiting.any (·.index = k) then lmod x.waiting (·.index = k) fresh else x.waiting ++ [fresh ⟨k, s.clk.up, [], 0⟩]
      setXcorr id (fun x => { x with waiting := waiting, missingCause := if values.isNone then worseCause x.missingCause cause else x.missingCause }) s
/-- Count saturations of a source of a correlator (R146, R168). -/
def xcSaturated (id slot k n : Nat) (s : State) : State :=
  if n = 0 then s
  else raiseW 0x58C s.clk.tick 1 0 [.w id, .q k, .since]
    (setXcorr id (fun x => { x with sources := ((List.range x.sources.length).zip x.sources).map fun y =>
      if y.1 = slot then { y.2 with saturations := y.2.saturations + n } else y.2 }) s)

/-- The product a x conj(b). -/
def conjMul (a b : Int × Int) : Int × Int := (a.1 * b.1 + a.2 * b.2, a.2 * b.1 - a.1 * b.2)
/-- The bytes of one dump: the products of each bin as binary32 means (R147). -/
def dumpPayload (x : Xcorr) : Data := x.sums.flatMap fun bin => (x.pairs.zip bin).flatMap fun p =>
  le 4 (roundS32 p.2.1 x.included).toNat ++ le 4 (if p.1.1 = p.1.2 then 0 else (roundS32 p.2.2 x.included).toNat)

/-- A dump ends: one XCORR record, or a GAP record where it holds no spectrum (R147, R150). -/
def xcDump (id : Nat) (s : State) : State := match findXcorr s id with
  | none => s
  | some x =>
    let first := x.dump * x.nInt
    let t := x.timeOf s first
    let stop := ceilDiv (x.timeOf s (first + x.nInt)) 65536
    let h : RecHdr :=
      { type := rtXcorr, flags := x.marks, tStart := t / 65536, tFrac := t % 65536, srcCh := 0, epoch := 0, srcDid := s.link.did,
        itemIndex := first, itemCount := x.included, aux := x.excluded, cfgCrc := x.cfgCrc, taskId := id }
    let cut := if x.sources.any fun y => y.remote && !reachable s.link y.did then 6 else 0
    let cause := worseCause x.missingCause cut
    let rec_ := if x.included = 0 then
        gapRecord { h with flags := 0, itemCount := x.nInt, aux := 0 } (if cause = 0 then 4 else cause) stop 0
      else recordBytes h (dumpPayload x)
    let s := publishSpectra x.stream id rec_ stop s
    setXcorr id (fun x => { x with dump := x.dump + 1, sums := [], included := 0, marks := 0, excluded := 0, missingRaised := false, missingCause := 0 }) s

/-- The next index of a correlator is settled. -/
def xcAdvance (id : Nat) (s : State) : State :=
  let s := setXcorr id (fun x => { x with nextIndex := x.nextIndex + 1, waiting := x.waiting.filter (·.index ≠ x.nextIndex) }) s
  match findXcorr s id with
  | some x => if x.nextIndex = (x.dump + 1) * x.nInt then xcDump id s else s
  | none => s

/-- The cross-multiply stage commits an index for which every source has come (R147). -/
def xcAccumulate (id k : Nat) (s : State) : State := match findXcorr s id with
  | none => s
  | some x => match x.waiting.find? (·.index = k) with
    | some w =>
      if k ≠ x.nextIndex ∨ w.values.length ≠ x.sources.length then s
      else
        let at_ := fun i b => ((((w.values.find? (·.1 = i)).map Prod.snd).getD []).drop b).headD (0, 0)
        let sums := (List.range x.span).map fun b => ((List.range x.pairs.length).zip x.pairs).map fun p =>
          let old := ((((x.sums.drop b).headD []).drop p.1).headD (0, 0) : Int × Int)
          let m := conjMul (at_ p.2.1 b) (at_ p.2.2 b)
          (old.1 + m.1, old.2 + m.2)
        xcAdvance id (setXcorr id (fun x => { x with sums := sums, included := x.included + 1, marks := x.marks ||| w.marks }) s)
    | none => s

/-- Exclude the next index (R150): the source-missing event at most once a dump. -/
def xcExclude (id : Nat) (s : State) : State := match findXcorr s id with
  | none => s
  | some x =>
    let s := setXcorr id (fun x =>
      { x with excluded := x.excluded + 1, missingRaised := true,
               missingCause := if x.stopped x.nextIndex then worseCause x.missingCause 4 else x.missingCause }) s
    xcAdvance id (if x.missingRaised then s else taskEvent 0x0B [.w id, .q x.nextIndex] s)

/-- The wait for missing sources: 256 us (R150). -/
def xcWait : Nat := 256 * usTicks

/-- An index held 256 us without every source, or without a tile that multiplies it, is excluded, and with it any lower one that no
source has delivered (R23, R150). -/
def doXcorrIndexTimeout (id : Nat) (s : State) : State := match findXcorr s id with
  | none => s
  | some x => match sortBy (·.index) x.waiting with
    | [] => s
    | w :: _ =>
      let full := decide (w.values.length = x.sources.length) && !x.stopped w.index
      if full ∧ w.index = x.nextIndex then s
      else
        let s := waitUp (w.since + xcWait) s
        let n := w.index - x.nextIndex + (if full then 0 else 1)
        (List.range n).foldl (fun s _ => xcExclude id s) s

def execXcorrIndexTimeout (xc : U32) (s : State) : Host.Outcome State Fault Refusal := .next (doXcorrIndexTimeout xc.toNat s)

/-- The span values of a source's unit. -/
def sourceValues (x : Xcorr) (u : CommitUnit) : List (Int × Int) :=
  ((u.bins.drop x.binFirst).take x.span).map fun b => (b.1.toInt, b.2.toInt)

/-- The low byte of a signed value. -/
def i8Of (x : U32) : Data := le 1 (codeOf 8 x.toInt)
/-- Send a remote source's spectrum to its correlator's home: correlator, slot, record flags, gap, index and saturations in a 64-byte
header, then the span as i8 + i8 per bin (R367). -/
def sendSpectrum (t : Task) (xc slot : Nat) (u : CommitUnit) (s : State) : State :=
  let first := u32At t.desc.raw 0x14
  let count := if u32At t.desc.raw 0x18 = 0 then t.coarseBins - first else u32At t.desc.raw 0x18
  let body := if u.gap.isSome then [] else ((u.bins.drop first).take count).flatMap fun b => i8Of b.1 ++ i8Of b.2
  let s := setTask t.id (fun t => { t with kNext := max t.kNext (u.index + 1) }) s
  sendBulk 3 (xc / 65536) u.index 0
    (block 64 [(0, le 4 xc), (4, le 1 slot), (5, le 1 u.flags), (6, le 2 (u.gap.getD 0)), (8, le 8 u.index), (0x10, le 4 u.saturated)] ++ body) s

/-- The lowest uncommitted index among a task's shares (R179). -/
def lowestIdx (s : State) (id : Nat) : Option Nat :=
  match (s.tiles.toList.flatMap fun t => t.shares.filter fun x => decide (x.task = id ∧ x.role = srMain)).map (·.idx) with
  | [] => none
  | k :: ks => some (ks.foldl min k)

/-- A source task's unit reaches its correlator, here or at its home; saturations are counted for the source, and a task that had
waited at commit has caught up as any other (R146, R150, R155, R168, R367). -/
def acceptSource (t : Task) (xc slot : Nat) (u : CommitUnit) (s : State) : State :=
  let s := catchUp t.id u.index (min (t.releaseTick u.index) (t.releaseTick ((lowestIdx s t.id).getD u.index))) s
  match findXcorr s xc with
  | none => sendSpectrum t xc slot u s
  | some x =>
    let s := xcSaturated xc slot u.index u.saturated s
    let s := setTask t.id (fun t => { t with kNext := max t.kNext (u.index + 1) }) s
    xcOffer xc slot u.index u.flags (if u.gap.isSome then none else some (sourceValues x u)) (u.gap.getD 0) s

/-- The collector accepts a unit (R154). -/
def acceptUnit (u : CommitUnit) (s : State) : State := match findTask s u.task with
  | none => s
  | some t => match t.kind with
    | .source xc slot => acceptSource t xc slot u s
    | _ => if t.desc.twoStage ∧ ¬ u.fine then acceptCoarse t u s else acceptMain t u s

/-! ## Batches and reads (R29, R179, R180) -/

/-- The index of the batch whose check failed: the given place, or the head's. -/
def Tile.failIndex (t : Tile) (offset : Nat) : Option Nat := match (t.batch.drop offset).head? with
  | some k => some k
  | none => t.batch.head?

/-- A sequencer that runs nothing takes the next batch by priority (R180); with nothing to run it is IDLE. An abandon raised while it
was IDLE takes effect before the batch issues a microword (R186). -/
def doTileBatchStart (n : Fin 20) (s : State) : State :=
  let t := s.tiles[n]
  if ¬ t.healthy ∨ ¬ t.powered ∨ t.running.isSome ∨ rootBypassed s then s
  else match nextShare s t with
    | none => setTile n (fun t => { t with state := .idle, waitReason := 0 }) s
    | some (x, batch) =>
      let paid := paidAfter s x batch
      let s := setShare n x.key (fun y => { y with ran := paid }) s
      let s := startRun n x batch s
      if t.pendingCauses = [] then s
      else abandonRun n t.pendingCauses batch.head? (setTile n (fun t => { t with pendingCauses := [] }) s)

def execTileBatchStart (n : Fin 20) (s : State) : Host.Outcome State Fault Refusal := .next (doTileBatchStart n s)

/-- The share a tile runs. -/
def Tile.runningShare (t : Tile) : Option Share := match t.running with
  | some r => t.shares.find? fun x => decide (x.key = r)
  | none => none

/-- Whether the store can serve a frame's read: every sample is committed, or none of the rest will come (R14). -/
def frameCommitted (s : State) (t : Task) (k : Nat) : Bool := match t.inlet with
  | some n => !s.inlets[n].active || decide (ceilDiv (t.frameStop k) 65536 ≤ s.inlets[n].ring.settled)
  | none => true
/-- The poisoned sectors that an index of a share reads: the address of each, and the first tick of its samples, which tells it from a
sector poisoned there later (R79, R81). -/
def poisonMet (s : State) (t : Task) (role k : Nat) : List (Nat × Nat) :=
  if role = srFine ∨ role = srBackFine then
    let a := t.rowAddr (k * 2 ^ t.desc.fLog2)
    let n := 2 ^ t.desc.fLog2 * (4 * t.desc.channels)
    (s.store.poison.filter fun p => decide (a / 32 ≤ p ∧ p < ceilDiv (a + n) 32)).map fun p => (p * 32, 0)
  else match t.inlet with
    | some n => (s.inlets[n].ring.poisoned.filter fun p => decide (p.start < ceilDiv (t.frameStop k) 65536 ∧ t.frameTime k / 65536 < p.stop)).map
        fun p => (p.addr, p.start)
    | none => []

/-- The requester of a share's reads (R25, R98). -/
def roleRequester (role : Nat) : Nat := if role = srRetro ∨ role = srBackfill ∨ role = srBackFine then rqRetro else rqTile
/-- The cause of an overwritten span by what reads it (R16, R100, R156, R161). -/
def overwrittenCause (s : State) (t : Task) (role : Nat) : Nat := lossCause s (roleRequester role) <|
  if role = srRetro then 5 else if role = srBackfill then (match t.backfill with | some b => b.cause | none => 4) else 4

/-- The unit of an index of a share. -/
def shareUnit (s : State) (t : Task) (x : Share) (k : Nat) : CommitUnit :=
  if x.role = srFine ∨ x.role = srBackFine then
    fineUnit s t k (if x.role = srBackFine then t.epochAt k else x.epoch) (x.role = srBackFine || t.backfilledFine.contains k)
  else
    let back := x.role = srBackfill || t.backfilled.contains k || (match t.backfillFrom with | some f => decide (f ≤ k) | none => false)
    frameUnit s t k (if x.role = srBackfill then t.epoch else x.epoch) (overwrittenCause s t x.role) back (patchedWords s (routineOf t x.role))

/-- The read's data have come: no burst is outstanding (R181). -/
def Tile.dataIn (t : Tile) (u : CommitUnit) : Tile :=
  { t with units := t.units ++ [u], readIssued := t.readIssued + 1, state := .running, waitReason := 0, seq := { t.seq with bursts := 0 } }

/-! ## Work for a home device (R366) -/

/-- The read of one frame of a home device's HISTORY: firmware-issued READs of up to 4,096 bytes. Where the home device keeps its
samples, and so each address, is a free value. -/
def remoteRead (n : Fin 20) (f : ForeignShare) (s : State) : State :=
  let half := (if f.complex then 2 else 1) * (if f.hist16 then 4 else 3)
  let parts := max 1 (ceilDiv (ceilDiv (u8At f.raw 6 * 2 ^ u8At f.raw 4 * half) 2) 4096)
  let s := forN parts (fun _ s =>
    let a := takeFree s
    let r : LinkRequest := { tag := s.link.nextTag, did := f.home, isRead := true, sent := s.clk.up, hops := hopsTo s.link f.home, draught := false, offset := 0, tile := some n.val }
    let s := send (mkPacket a.2 ptRead 1 f.home s.link.nextTag ((Config.freeWord a.1).toNat * 64) 4096) a.2
    { s with link := { s.link with requests := s.link.requests ++ [r], nextTag := s.link.nextTag + 1 } }) s
  { s with link := { s.link with remoteReads := s.link.remoteReads ++ [⟨n.val, parts, none⟩] } }

/-- A share for a home device reads its frame, waits, and forms its unit; what the samples make of it is known at the home alone. -/
def foreignRead (n : Fin 20) (x : Share) (k : Nat) (s : State) : State := match findForeign s x.task x.epoch with
  | none => s
  | some f => match s.link.remoteReads.find? (·.tile = n.val) with
    | none => remoteRead n f (setTile n (fun t => { t with state := .waiting, waitReason := 1 }) s)
    | some r =>
      if 0 < r.left then s
      else
        let s := { s with link := { s.link with remoteReads := s.link.remoteReads.filter (·.tile ≠ n.val) } }
        setTile n (·.dataIn { gapUnit x.task k x.epoch 0 false with gap := r.gap }) s

/-- The 64-byte unit header: task, epoch, marks (bit 2 fine, bit 3 complex values), gap, index and CRC (R366). -/
def unitHeader (task epoch marks gap index : Nat) (body : Data) : Data :=
  block 64 [(0, le 4 task), (4, le 1 epoch), (5, le 1 marks), (6, le 2 gap), (8, le 8 index), (0x10, le 4 (crc32c body).toNat)]
/-- Send a unit to the home collector on VC2 (R366): its bins are free values here. -/
def sendUnit (f : ForeignShare) (k marks bins : Nat) (gap : Option Nat) (s : State) : State :=
  let r := if gap.isSome then ([], s) else freeBytes (bins * (if bit marks 3 then 8 else 4)) s
  sendBulk 2 f.home k 0 (unitHeader f.task f.epoch marks (gap.getD 0) k r.1 ++ r.1) r.2
/-- A placement for a home device has ended: what it holds is released. -/
def dropForeign (task epoch : Nat) (s : State) : State :=
  let s := { s with link := { s.link with foreign := s.link.foreign.filter fun f => !decide (f.task = task ∧ f.epoch = epoch) } }
  let s := dropShares task (fun x => decide (x.epoch = epoch)) s
  if s.link.foreign.any (·.task = task) then s else releaseFlow (.placement task) (releaseAll (.placement task) s)

/-- Commit a unit for a home device: C where the format or the two-stage mode needs it, otherwise P; a two-stage task's fine unit
follows its last frame (R141, R366). -/
def commitForeign (x : Share) (u : CommitUnit) (s : State) : State := match findForeign s x.task x.epoch with
  | none => s
  | some f =>
    let raw := match f.next with | some m => if m.1 ≤ u.index then m.2 else f.raw | none => f.raw
    let two := u8At f.raw 2 = 1
    let c := two ∨ 2 ≤ u8At raw 0x19
    let w := 2 ^ u8At f.raw 0x40
    let s := sendUnit f u.index (if c then 8 else 0) (binsOf f.complex (u8At f.raw 4)) u.gap s
    let s := if two ∧ (u.index + 1) % w = 0 then sendUnit f (u.index / w) 4 (binsOf f.complex (u8At f.raw 4) * w) u.gap s else s
    if s.tiles.toList.any fun t => t.table.any fun y => decide (y.task = x.task ∧ y.epoch = x.epoch) then s else dropForeign x.task x.epoch s

/-- The tick at which a frame's read issues: 1,920 ticks after its last sample's release for live work (R29). -/
def issueTick (t : Task) (x : Share) (k : Nat) : Nat := if x.role = srMain then ceilDiv (t.frameStop k) 65536 + 1920 else 0

/-- The tile read of the batch's next frame issues, and the routine forms its result (R14, R29). A poisoned sector met for the
first time is recorded and abandons the run; poisoned still, it makes the index a gap (R81, R183, R184). -/
def doTileReadIssue (n : Fin 20) (s : State) : State :=
  let t := s.tiles[n]
  match t.runningShare, (t.batch.drop t.readIssued).head? with
  | some x, some k =>
    if t.restarting then s
    else if x.role = srCross then setTile n (·.dataIn { gapUnit x.task k 0 0 false with gap := none }) s
    else if x.role = srForeign then foreignRead n x k s
    else match findTask s x.task with
      | none => s
      | some tk =>
        let s := waitTick (issueTick tk x k) s
        let fine := x.role = srFine ∨ x.role = srBackFine
        let new := (poisonMet s tk x.role k).filter fun p => !t.reread.contains p
        let s := storeAsk s
        if (¬ fine ∧ ¬ frameCommitted s tk k) ∨ ¬ storeServes s then setTile n (fun t => { t with state := .waiting, waitReason := 1 }) s
        else
          -- every read that decodes uncorrectable is reported (R79)
          let s := forL (poisonMet s tk x.role k) (fun p s => raise 0x304 [.q p.1, .h (roleRequester x.role)] s) s
          if new ≠ [] then abandonRun n [2] (some k) (setTile n (fun t => { t with reread := t.reread ++ new }) s)
          else setTile n (·.dataIn (shareUnit s tk x k)) s
  | _, _ => s

def execTileReadIssue (n : Fin 20) (s : State) : Host.Outcome State Fault Refusal := .next (doTileReadIssue n s)

/-! ## Commit (R155, R182) -/

/-- Whether the commit window is open for a unit (R155). -/
def windowOpen (s : State) (x : Share) (u : CommitUnit) : Bool := match findTask s u.task with
  | none => true
  | some t => match t.kind with
    | .source xc _ => match findXcorr s xc with | some c => decide (u.index < c.nextIndex + reorderWindow) | none => true
    | _ => if t.desc.twoStage ∧ x.role ≠ srFine then decide (u.index < t.coarseKPub + reorderWindow)
           else decide (u.index < t.kPub + reorderWindow)

/-- IDX moves to the share's next own index; a share whose placement has ended leaves the tile, but for the old placement of a
migration that may still be aborted (R163, R165, R182). -/
def advanceShare (n : Fin 20) (x : Share) (k : Nat) (s : State) : State :=
  let idx := if x.back then k + 1 else nextOwn x.period x.residues (k + 1)
  let s := setShare n x.key (fun y => { y with idx := idx }) s
  let open_ : Bool := match findTask s x.task with | some t => t.migration.isSome | none => false
  match x.limit with
  | some l => if l ≤ idx ∧ ¬ open_ then setTile n (fun t => { t with shares := t.shares.filter (·.key ≠ x.key), staged := t.staged.map (·.filter (·.key ≠ x.key)) }) s else s
  | none => s

/-- The batch moves past its head; at its end the batch is counted and the sequencer is free (R179; log 116). -/
def Tile.committed (t : Tile) : Tile :=
  let t := { t with
    units := t.units.drop 1, batch := t.batch.drop 1, readIssued := t.readIssued - 1, lastFailIndex := none, state := .running, waitReason := 0,
    seq := { t.seq with accepted := t.seq.accepted + 1, energyDone := false, compares := false, cells := [], events := 0 } }
  if t.batch = [] then { t.stopRun with state := .idle, batches := satN 64 (t.batches + 1) } else t

/-- Every earlier operation of the run is complete, and the store has accepted every AG1 write (R181, R182). -/
def Tile.drained (t : Tile) : Bool := t.seq.bursts = 0 && t.seq.writes = 0 && !t.seq.busy

/-- The collector accepts a unit of a share that is not for a home device: the backfill job goes on, and the events that the unit
stages are raised (R168, R172, R182). -/
def takeUnit (x : Share) (u : CommitUnit) (events : Nat) (s : State) : State :=
  let s := if x.back then backfillDone x.task u.index (x.role = srBackFine) s else s
  let s := if events = 0 ∨ u.saturated ≠ 0 then s else raiseW 0x58C s.clk.tick 1 0 [.w x.task, .q u.index, .since] s
  acceptUnit u s

/-- The collector accepts the tile's head unit, refuses it, or the tile waits at commit (R155, R182). -/
def doCommitUnitAccept (n : Fin 20) (good : Bool) (s : State) : State :=
  let t := s.tiles[n]
  match t.runningShare, t.units with
  | some x, u :: _ =>
    if t.restarting then s
    else if ¬ t.drained then setTile n (fun t => { t with state := .waiting, waitReason := 2 }) s
    else if ¬ windowOpen s x u then
      let s := if t.waitReason = 3 then s else taskEvent 0x05 [.w x.task, .q u.index] s
      setTask x.task (fun k => { k with lagging := true }) (setTile n (fun t => { t with state := .waiting, waitReason := 3 }) s)
    else if ¬ good then abandonRun n [3] (some u.index) s
    else
      let s := setTile n Tile.committed (advanceShare n x u.index s)
      if x.role = srCross then xcAccumulate x.task u.index s
      else if x.role = srForeign then commitForeign x u s
      else takeUnit x u t.seq.events s
  | _, _ => s

def execCommitUnitAccept (n : Fin 20) (good : Bool) (s : State) : Host.Outcome State Fault Refusal := .next (doCommitUnitAccept n good s)

/-! ## Abandon, restart, watchdog (R157, R158, R171, R184 to R186) -/

/-- The causes of an abandon: those raised, cause 5 only where the word that was fetched fails its check, and what the sequencer has
raised itself (R170, R173, R184). -/
def abandonCauses (s : State) (n : Fin 20) (causes : List Nat) (addr got : Nat) : List Nat :=
  (causes.filter fun c => decide (1 ≤ c ∧ c ≤ 6) && (c ≠ 5 || !fetchPasses s n addr got)) ++ s.tiles[n].seq.faults

/-- A routine is abandoned. A microword that fails again at its address within the restarted run fences the tile with cause 4;
otherwise it is repaired (R158, R171, R184). One raised while the sequencer is IDLE waits for its next batch (R186). flips are the
bits that an upset turns in the word at address got, which the fetch of addr returned. -/
def doRoutineAbandon (n : Fin 20) (causes : List Nat) (offset addr got flips : Nat) (s : State) : State :=
  let s := if flips = 0 ∨ controlWords ≤ got then s else upsetWord n got flips s
  let t := s.tiles[n]
  let all := abandonCauses s n causes addr got
  let at_ := if t.seq.faults.contains 5 then t.seq.upc else addr
  let bad := if t.seq.faults.contains 5 then t.seq.upc else got
  if ¬ t.healthy ∨ t.restarting ∨ all = [] then s
  else if t.running.isNone then
    let s := if all.contains 5 then repairWord n bad s else s
    setTile n (fun t => { t with pendingCauses := t.pendingCauses ++ all }) s
  else if all.contains 5 ∧ t.lastFailAddr = some at_ then fenceTile n 4 (setTile n (·.counted all) s)
  else
    let s := if all.contains 5 then repairWord n bad s else s
    let s := setTile n (fun t => { t with lastFailAddr := if all.contains 5 then some at_ else none }) s
    abandonRun n all (t.failIndex offset) s

def execRoutineAbandon (n : Fin 20) (causes : List Nat) (x : RunFailure) (s : State) : Host.Outcome State Fault Refusal :=
  .next (doRoutineAbandon n causes x.offset x.addr x.got x.flips s)

/-- Two clocks later the routine restarts at its entry with IDX unchanged; a fault recovered by restart is reported (R168, R185). A
share that has left the tile has nothing to restart. -/
def doRoutineRestart (n : Fin 20) (s : State) : State :=
  let t := s.tiles[n]
  match t.runningShare with
  | some x =>
    if ¬ t.restarting then s
    else
      let s := pass 2 s
      let s := setTile n (fun t => { t with batch := [] }) s
      let batch := batchOf s x
      if batch = [] then setTile n (fun t => { t.stopRun with state := .idle }) s
      else
        let s := startRun n x batch s
        if t.lastFailIndex.isSome then raise (0x401 + n.val * 0x10) [.h n.val, .q (t.lastFailIndex.getD 0)] s else s
  | none => if t.restarting then setTile n (fun t => { t.stopRun with state := .idle }) s else s

def execRoutineRestart (n : Fin 20) (s : State) : Host.Outcome State Fault Refusal := .next (doRoutineRestart n s)

/-- CORE clocks in ticks of uptime: one each (R489). -/
def Tile.watchdogAt (t : Tile) : Nat := t.runStart + 4 * t.nominal
/-- A routine exceeds four times its nominal cycles: the tile is fenced at once (R157, R158, R179, R184). -/
def doTileWatchdogExpiry (n : Fin 20) (s : State) : State :=
  if s.tiles[n].running.isSome ∧ ¬ s.tiles[n].restarting then fenceTile n 3 (waitUp (s.tiles[n].watchdogAt + 1) s) else s
def execTileWatchdogExpiry (n : Fin 20) (s : State) : Host.Outcome State Fault Refusal := .next (doTileWatchdogExpiry n s)

/-- The background check of one control-store word, which an upset may have turned: repaired on a failure, and a second failure of the
word in a row fences the tile (R171). -/
def doControlStoreScrubCheck (n : Fin 20) (addr got flips : Nat) (s : State) : State :=
  if ¬ s.tiles[n].healthy ∨ controlWords ≤ addr then s
  else
    let s := if flips = 0 ∨ controlWords ≤ got then s else upsetWord n got flips s
    if fetchPasses s n addr got then setTile n (fun t => { t with scrubFails := t.scrubFails.filter (· ≠ addr) }) s
    else if s.tiles[n].scrubFails.contains addr then fenceTile n 4 (setTile n (fun t => { t with scrubFails := t.scrubFails.filter (· ≠ addr) }) s)
    else repairWord n got (setTile n (fun t => { t with scrubFails := t.scrubFails ++ [addr] }) s)

def execControlStoreScrubCheck (n : Fin 20) (addr got flips : Nat) (s : State) : Host.Outcome State Fault Refusal :=
  .next (doControlStoreScrubCheck n addr got flips s)

/-! ## Hand-over and re-placement (R159, R187) -/

/-- A tile applies its staged share table: a run is abandoned with cause 1 and restarts under the new table, and IDX moves to the next
own index (R184, R185, R187). -/
def doShareHandover (n : Fin 20) (s : State) : State :=
  if s.tiles[n].staged.isNone ∨ ¬ s.tiles[n].healthy then s
  else
    let t := s.tiles[n]
    let s := if t.running.isSome ∧ ¬ t.restarting then abandonRun n [1] none s
      else if t.running.isSome then setTile n (·.counted [1]) s else s
    let l := t.merged.map fun x => { x with idx := nextOwn x.period x.residues x.idx }
    setTile n (fun t => { t with staged := none, powered := !l.isEmpty, shares := l }) s
def execShareHandover (n : Fin 20) (s : State) : Host.Outcome State Fault Refusal := .next (doShareHandover n s)

/-- Take a share off a fenced tile. -/
def takeOff (n : Fin 20) (x : Share) (s : State) : State := setTile n (fun t => { t with shares := t.shares.erase x }) s

/-- The parts of a share over a choice of tiles, and the residues that none takes (R113). -/
def shareParts (x : Share) (tiles : List (Nat × Nat)) : List (Nat × Share) × List Nat :=
  let given := (tiles.map Prod.snd).sum
  let parts := divideResidues x.residues (tiles ++ if given < x.sixteenths then [(99, x.sixteenths - given)] else [])
  ((parts.filter (·.1 < 20)).map fun p =>
      (p.1, { x with sixteenths := ((tiles.find? (·.1 = p.1)).map Prod.snd).getD 0, residues := p.2, idx := nextOwn x.period p.2 x.idx }),
    (parts.filter (·.1 = 99)).flatMap Prod.snd)
/-- Re-place the share of a cross-multiply stage: what no tile takes is excluded with cause 4 (R23, R159). -/
def replaceCross (x : Share) (s : State) : State := match findXcorr s x.task with
  | none => s
  | some c =>
    let x := { x with idx := c.nextIndex }
    let r := shareParts x (chooseWhat s x.sixteenths 0 true)
    let s := stageShares r.1 s
    if r.2 = [] then s
    else taskEvent 0x04 [.w x.task, .q c.nextIndex]
      (setXcorr x.task (fun c => { c with crossDead := c.crossDead ++ r.2.map fun k => ⟨x.period, k, c.nextIndex, none, 4⟩ }) s)
/-- Tell a home device that residues of its placement have stopped here: operation 7, the period and the first index, then the
residues (R23, R366). -/
def tellStopped (f : ForeignShare) (x : Share) (residues : List Nat) (s : State) : State :=
  send (placementMsg s f.home 7 f.task 0 f.epoch (le 8 x.idx ++ le 4 x.period ++ residues.flatMap (le 4 ·))) s
/-- Re-place the share that this device runs for a home device; what no tile takes is stopped, and the home is told (R23, R366). -/
def replaceForeign (x : Share) (s : State) : State := match findForeign s x.task x.epoch with
  | none => s
  | some f =>
    let r := shareParts x (chooseWhat s x.sixteenths f.foot true)
    let s := stageShares r.1 s
    if r.2 = [] then s else tellStopped f x r.2 s

/-- Re-place one share of a fenced tile (R23, R159, R161, R500, R506). A retro job goes on with its uncommitted indices on another
tile, and all of them carry BACKFILL (log 141); a backfill job's other tiles take what this one held. -/
def replaceOne (n : Fin 20) (x : Share) (s : State) : State :=
  let foot := shareFoot s x
  if x.back then takeOff n x s
  else if x.role = srForeign then replaceForeign x (takeOff n x s)
  else if x.role = srCross then replaceCross x (takeOff n x s)
  else if x.role = srRetro then
    let s := takeOff n x s
    match openTiles s (2 ^ 20 - 1) foot false with
    | y :: _ => match findTask s x.task with
      | some _ =>
        stageShares [(y.1, x)] (setTask x.task (fun t => { t with backfillFrom := some (match t.backfillFrom with | some f => min f x.idx | none => x.idx) }) s)
      | none => s
    | [] => publishTask x.task (stopResidues x.task x [0] 4 none s)
  else
    let here := chooseWhat s x.sixteenths foot true
    let given := (here.map Prod.snd).sum
    let all := chooseWhat s x.sixteenths foot false
    let cause := match findTask s x.task with | some t => (match t.backfill with | some b => b.cause | none => 4) | none => 4
    if x.sixteenths ≤ given ∨ (all.map Prod.snd).sum ≤ given then replaceShare x here 4 cause (takeOff n x s)
    else
      let gated := gatedAmong s (all.map Prod.fst)
      let owner := Owner.placement x.task
      let go := fun (s : State) => splitTileGrants owner pcTask gated (replaceShare x all 4 cause (takeOff n x s))
      if holdsPower s owner then go s
      else if waitsPower s owner then s
      else
        let r := requestInternal 2 owner [(pcTask, 10 * gated.length)] s
        match r.1 with
        | .granted => go r.2
        | .queued => r.2
        | _ => replaceShare x here 7 7 (takeOff n x r.2)

/-- Re-placement of a fenced tile's shares completes; those that wait for power stay (R159). -/
def replaceTile (n : Fin 20) (s : State) : State :=
  if s.tiles[n].state ≠ .fenced then s else forL s.tiles[n].shares (fun x s => replaceOne n x s) s

def execReplacementComplete (n : Fin 20) (s : State) : Host.Outcome State Fault Refusal := .next (replaceTile n s)

/-- A backfill job ends once every index is committed (R159): its power is released. -/
def doBackfillComplete (id : Nat) (s : State) : State := match findTask s id with
  | none => s
  | some t => match t.backfill with
    | some b =>
      if b.indices ≠ [] ∨ b.fine ≠ [] then s
      else
        let s := setTask id (fun t => { t with backfill := none }) s
        let s := dropShares id (·.back) s
        taskEvent 0x03 [.w id] (releasePower (.backfill id) s)
    | none => s

def execBackfillComplete (task : U32) (s : State) : Host.Outcome State Fault Refusal := .next (doBackfillComplete task.toNat s)

end Sys2Proof.Machine
end

