-- ==== Sys2Proof/Machine/Tasks.lean ====
section
/-! DEFINITION. Task commands (R115 to R119, R138 to R140, R145 to R153, R162 to R166). -/

namespace Sys2Proof.Machine

/-! ## The descriptor (R116, R117) -/

/-- A descriptor's fields; the table is the user table where the window code asks for one. -/
def taskDescOf (raw : Data) (table : List Int) : TaskDesc :=
  { mode := u8At raw 2, channel := u8At raw 3, nLog2 := u8At raw 4, overlap := u8At raw 5, taps := u8At raw 6, window := u8At raw 7,
    winParam := u16At raw 8, table := table, detector := u8At raw 0x18, format := u8At raw 0x19, bLog2 := u8At raw 0x1A,
    outShift := u8At raw 0x1B, avg := u32At raw 0x1C, binFirst := u32At raw 0x20, binCount := u32At raw 0x24, group := u16At raw 0x28,
    stream := u8At raw 0x2A, sk := bit (u8At raw 0x2B) 0, skBlank := bit (u8At raw 0x2B) 1, skMLog2 := u8At raw 0x2C,
    skLower := u16At raw 0x30, skUpper := u16At raw 0x32, startTick := u64At raw 0x38, fLog2 := u8At raw 0x40,
    fWindow := u8At raw 0x41, fWinParam := u16At raw 0x42, raw := raw }
/-- Entries of a user table (R121). -/
def tableOf (d : Data) (len : Nat) : List Int := (List.range len).map fun i => i32At d (4 * i)
def tableLen (raw : Data) : Nat := u32At raw 0x0C

/-- A window parameter fits its window (R116). -/
def winParamOk (window p : Nat) : Bool :=
  if window = 4 then decide (p ≤ 10240) else if window = 5 then decide (10240 ≤ p ∧ p ≤ 51200) else decide (p = 0)
/-- Whether a length is a power of two from 64 to 65,536. -/
def tableLenOk (l w : Nat) : Bool := (List.range 11).any (fun k => decide (l = 64 * 2 ^ k)) && decide (l = w ∨ 2 * l = w)
/-- A stream number: 0 to 15, or none. -/
def streamOk (n : Nat) : Bool := n < 16 || n = 0xFF
/-- Bins that the span fields of a descriptor choose from. -/
def TaskDesc.outBins (d : TaskDesc) (complex : Bool) : Nat := if d.twoStage then d.channels * 2 ^ d.fLog2 else binsOf complex d.nLog2
def TaskDesc.spanOf (d : TaskDesc) (complex : Bool) : Nat := if d.binCount = 0 then d.outBins complex - d.binFirst else d.binCount

/-- The fields of a descriptor after the channel (R112 to R117, R137). -/
def taskFields (d : TaskDesc) (complex retro : Bool) (now : Nat) : List (Nat × Bool) :=
  let two := d.twoStage
  let w := d.taps * d.nIn
  let bins := d.outBins complex
  let spanAt := if d.binCount = 0 then 0x20 else 0x24
  [(0x02, !(two && (complex || d.complexFormat || d.skBlank))),
   (0x04, if two then decide (7 ≤ d.nLog2 ∧ d.nLog2 ≤ 13) else decide (6 ≤ d.nLog2 ∧ d.nLog2 ≤ if complex then 16 else 17)),
   (0x05, decide (d.overlap ≤ if two then 0 else 4)), (0x06, decide (1 ≤ d.taps ∧ d.taps ≤ 16 ∧ w ≤ 262144)),
   (0x07, decide (d.window ≤ 6)), (0x08, winParamOk d.window d.winParam),
   (0x0C, if d.window = 6 then tableLenOk (tableLen d.raw) w else decide (tableLen d.raw = 0)),
   (0x10, d.window ≠ 6 || aligned64 (u64At d.raw 0x10)),
   (0x18, decide (d.detector ≤ 6) && (!d.complexFormat || decide (d.detector = 2))),
   (0x19, decide (d.format ≤ 3) && (!d.complexFormat || decide (d.avg = 1 ∧ d.bLog2 = 0))),
   (0x1A, decide (d.bLog2 ≤ 12)), (0x1B, decide (d.outShift ≤ 31 ∧ (d.format = 2 ∨ d.outShift = 0))),
   (0x1C, decide (1 ≤ d.avg ∧ d.avg ≤ 65536) && (!d.skBlank || decide (d.avg % 2 ^ d.skMLog2 = 0))),
   (0x20, decide (d.binFirst < bins)), (spanAt, decide (d.binFirst + d.spanOf complex ≤ bins ∧ d.spanOf complex % 2 ^ d.bLog2 = 0)),
   (spanAt, !d.sk || two || decide (d.spanOf complex ≤ 32768)),
   (0x28, decide (1 ≤ d.group ∧ d.group ≤ 4096)), (0x2A, streamOk d.stream),
   (0x2B, decide (u8At d.raw 0x2B < 4) && (!d.skBlank || d.sk)),
   (0x2C, if d.sk then decide (6 ≤ d.skMLog2 ∧ d.skMLog2 ≤ 16) else decide (d.skMLog2 = 0)),
   (0x38, retro || d.startTick = 0 || decide (now ≤ d.startTick)),
   (0x40, if two then decide (6 ≤ d.fLog2 ∧ d.fLog2 ≤ 16) else decide (d.fLog2 = 0)),
   (0x41, decide (d.fWindow ≤ 5)), (0x42, winParamOk d.fWindow d.fWinParam)] ++
  strayBytes d.raw 0 0x100 [(0, 0x0A), (0x0C, 0x21), (0x30, 4), (0x38, 12)]

/-- The entries of a user table: in range, and with a sum that is not zero (R121). -/
def tableCheck (table : List Int) : Check :=
  firstFail [descParams (((List.range table.length).zip table).map fun x => (4 * x.1, decide (-131072 ≤ x.2 ∧ x.2 ≤ 131071))),
    need (decide (table.sum ≠ 0)) stBadParam 0x1000C]

/-- Read the user table that a descriptor names, and go on with its entries. -/
def withTable (c : Cmd) (raw : Data) (table : HostRead) (ok : List Int → State → State) (s : State) : State :=
  if u8At raw 7 ≠ 6 then ok [] s
  else withBuffer c table (fun d s => let l := tableOf d (tableLen raw); checked c [tableCheck l] (ok l) s) s

/-! ## Allocation and placement (R19, R112, R118, R143) -/

/-- The next task number not in use (R118). -/
def freeTaskNo (s : State) : Nat → Nat → Nat
  | 0, n => n
  | f + 1, n =>
    let id := s.link.did * 65536 + n
    if s.tasks.any (·.id = id) ∨ s.xcorrs.any (·.id = id) then freeTaskNo s f (n % 65535 + 1) else n
/-- Take a task_id: home DID x 65,536 + n (R118). -/
def takeTaskId (s : State) : Nat × State :=
  let n := freeTaskNo s (s.tasks.length + s.xcorrs.length + 1) s.nextTask
  (s.link.did * 65536 + n, { s with nextTask := n % 65535 + 1 })

/-- The configuration CRC of a task: over its descriptor, its user table and the number of its modification, so that every
modification changes it (R132; log 117). -/
def configCrc (d : TaskDesc) (no : Nat) : U32 := crc32c (d.raw ++ (if d.window = 6 then d.table.flatMap fun x => le 4 (codeOf 32 x) else []) ++ if no = 0 then [] else le 4 no)

/-- A task over a source inlet, not yet active. -/
def freshTask (id : Nat) (kind : TaskKind) (d : TaskDesc) (i : Inlet) : Task :=
  { id := id, kind := kind, desc := d, active := false, fsNum := i.fsNum, fsDen := i.fsDen, complex := i.complex, hist16 := i.hist16, g0 := 0,
    tBase := (i.edge : Int) + i.aperture, tLag := i.lag, tNum := i.stepNum, tDen := i.fsNum,
    demand := d.demandMain i.fsNum i.fsDen + d.demandFine i.fsNum i.fsDen, placedPeer := none, epoch := 0, epochFrom := 0, epochBefore := 0,
    oldLimit := 0, kept := [], dead := [], cfgCrc := configCrc d 0, modNo := 0, kNext := 0, held := [], cell := [], cellFirst := 0,
    cellCount := 0, cellFlags := 0, cellGap := none, hold := [], skS1 := [], skS2 := [], skNext := 0, skMarks := 0, skGap := false,
    openRec := none, openGap := none, finalSent := false, vectors := [], coarsePub := 0, coarseHeld := [], corner := [], cornerBase := 0,
    modify := none, destroy := none, stopIndex := none, planned := 0, migration := none, backfill := none, backfilled := [],
    backfilledFine := [], backfillFrom := none, markers := [],
    lagging := false, mismatches := 0, oldEpochDrops := 0, saturations := 0 }

/-- The first sample number of a task's numbering at or after a time in 1/65,536 tick that is a multiple of h (R119). -/
def Task.numFrom (t : Task) (time h : Nat) : Nat :=
  let d : Int := (time : Int) - t.tBase
  let n := (t.tLag + d * t.tDen / max 1 t.tNum : Int).toNat
  -- n is within one of the place; settle it by the times themselves
  let n := if t.timeOf (n - 1) ≥ time ∧ 0 < n then n - 1 else n
  let n := if t.timeOf n < time then n + 1 else n
  let n := if t.timeOf n < time then n + 1 else n
  ceilDiv n (max 1 h) * h
/-- The same at or after a tick. -/
def Task.numAt (t : Task) (tick h : Nat) : Nat := t.numFrom (tick * 65536) h
/-- What lies at least 20 us ahead of a command (R119). -/
def aheadTicks : Nat := 25600

/-- The tile read reservation of a task in kB/s: its source once, and the corner turn at 8 bytes per coarse sample (R25, R143). -/
def Task.reserveKbs (t : Task) : Nat := t.readKbs + if t.desc.twoStage then ceilDiv (160000 * t.fsNum) (max 1 t.fsDen) else 0
/-- The power items of a task beside the tiles it powers (R501). -/
def Task.powerItems (t : Task) (cls : Nat) : List (Nat × Nat) :=
  [(cls, ceilDiv (2 * t.demand) 16), (cls, storeUnits t.reserveKbs)] ++ if t.desc.twoStage then [(pcMode, 20)] else []

/-- Place both stages of a task on tiles of a mask from an index (R21, R112, R113); the tiles that had to be powered beside. -/
def placeShares (t : Task) (mask k epoch : Nat) (s : State) : Option (List (Nat × Share)) :=
  match chooseTiles s mask (t.desc.demandMain t.fsNum t.fsDen) t.footprint with
  | none => none
  | some l =>
    let main := makeShares t.id srMain (t.desc.demandMain t.fsNum t.fsDen) (if t.desc.twoStage then k * 2 ^ t.desc.fLog2 else k) epoch l
    if ¬ t.desc.twoStage then some main
    else match chooseTiles (addShares main s) mask (t.desc.demandFine t.fsNum t.fsDen) t.desc.footFine with
      | none => none
      | some f => some (main ++ makeShares t.id srFine (t.desc.demandFine t.fsNum t.fsDen) k epoch f)

/-- Whether SPECTRA has room for a task: the region with its corner-turn blocks (R117, R143). -/
def spectraRoom (s : State) (d : TaskDesc) : Bool := match s.store.region rtSpectra with
  | some r => !d.twoStage || (cornerPlace s r d.cornerBytes).isSome
  | none => false
/-- A task with its corner-turn blocks in their place (R143). -/
def Task.withCorner (s : State) (t : Task) : Task := match s.store.region rtSpectra with
  | some r => if t.desc.twoStage then { t with cornerBase := (cornerPlace s r t.desc.cornerBytes).getD 0 } else t
  | none => t
/-- Tasks that count against the limit of 64, and retro jobs (R118). -/
def taskLimit : Nat := 64
def retroLimit : Nat := 16
def retroCount (s : State) : Nat := (s.tasks.filter (·.kind = .retro)).length

/-- Tiles that hold shares of a task and no powered-tile grant of their own. -/
def unpaidTiles (s : State) (id : Nat) : List Nat :=
  (List.finRange 20).filterMap fun n => if s.tiles[n].table.any (·.task = id) ∧ ¬ holdsPower s (.tile n.val) then some n.val else none

/-- Forget a task that was not admitted (R19). -/
def dropTask (id : Nat) (s : State) : State :=
  let s := dropShares id (fun _ => true) s
  releaseAll (.task id) (releaseAll (.retro id) { s with tasks := s.tasks.filter (·.id ≠ id) })

/-! ## SPEC_TASK_CREATE (R115 to R119) -/

/-- Whether the source inlet of a task runs. -/
def inletRuns (s : State) (t : Task) : Bool := match t.inlet with | some n => s.inlets[n].runs | none => false

/-- An admitted task starts: its grid begins at the first sample at or after start_tick, or 20 us ahead (R119). Its command completes. -/
def activateTask (c : Cmd) (id : Nat) (s : State) : State := match findTask s id with
  | none => s
  | some t =>
    if ¬ inletRuns s t then fail c (stState, 0) (dropTask id s)
    else
      let s := splitTileGrants (.task id) pcTask (unpaidTiles s id) s
      let g0 := t.numAt (if t.desc.startTick = 0 then s.clk.tick + aheadTicks else t.desc.startTick) t.desc.frameHop
      let s := setTask id (fun t => { t with active := true, g0 := g0 }) s
      let tick := ({ t with g0 := g0 } : Task).indexTick 0
      done c (id + t.demand * 2 ^ 32) tick (raiseAt 0x580 tick [.w id] s)

/-- The tiles and the power of a task whose store traffic is reserved (R19, R501). -/
def placeTask (c : Cmd) (t : Task) (s : State) : State :=
  let s := { s with tasks := s.tasks ++ [t] }
  match placeShares t (2 ^ 20 - 1) 0 0 s with
  | none => complete c stNoResource 0 0 0 (dropTask t.id s)
  | some l =>
    let gated := gatedAmong s (l.map Prod.fst).dedup
    let s := addShares l s
    let items := (pcTask, 10 * gated.length) :: t.powerItems pcTask
    afterPower c (cost items) (requestPower c (.task t.id) items s) (activateTask c t.id) id (dropTask t.id)

/-- The admissions of a task in the order of R19: SPECTRA and limits, store ledger, tiles, power. -/
def admitTask (c : Cmd) (d : TaskDesc) (i : Inlet) (s : State) : State :=
  if taskLimit ≤ s.tasks.length ∨ ¬ spectraRoom s d then complete c stNoResource 0 0 0 s
  else
    let r := takeTaskId s
    let t := (freshTask r.1 .live d i).withCorner s
    ifAdmitted (reserveStore (.task t.id) [(lcTileRead, t.reserveKbs)] r.2) (complete c stNoResource 0 0 0 r.2) (placeTask c t)

/-- The entry of a command with a descriptor of 256 bytes. -/
def descEntry (c : Cmd) : List Check := [params [(0x08, decide (c.p32 0x08 = 256)), (0x10, aligned64 (c.p64 0x10))]]

/-- The channel of a descriptor, with the state of its inlet (R117, R428). -/
def withInlet (s : State) (raw : Data) (f : Inlet → Check) : Check := match inletOfChannel (u8At raw 3) with
  | some n => f s.inlets[n]
  | none => none

def doSpecTaskCreate (desc table : HostRead) (c : Cmd) (s : State) : State :=
  checked c ([entryCheck c [(0x08, 4), (0x10, 8)] [], deviceCheck s c] ++ descEntry c) (fun s => withBuffer c desc (fun raw s =>
    let d := taskDescOf raw []
    checked c
      [descParams [(0x00, decide (u16At raw 0 = 1)), (0x02, decide (d.mode ≤ 1)), (0x03, channelNamed s d.channel)],
       withInlet s raw fun i => needState (i.state = .running),
       withInlet s raw fun i => descParams (taskFields d i.complex false s.clk.tick)]
      (fun s => withTable c raw table (fun l s => match inletOfChannel d.channel with
        | some n => admitTask c { d with table := l } s.inlets[n] s
        | none => s) s) s) s) s

def execSpecTaskCreate (id : Nat) (desc table : HostRead) (s : State) : Host.Outcome State Fault Refusal :=
  .next (runCmd id 0x0300 anyCmd (doSpecTaskCreate desc table) s)

/-! ## SPEC_TASK_MODIFY (R138, R139) -/

/-- The bytes of a descriptor that each mask bit selects. -/
def modifyBytes : List (Nat × List (Nat × Nat)) :=
  [(0, [(0x07, 3), (0x0C, 12)]), (1, [(0x18, 1)]), (2, [(0x19, 1), (0x1B, 1)]), (3, [(0x1A, 1)]), (4, [(0x1C, 4)]), (5, [(0x20, 8)]),
   (6, [(0x28, 2)]), (7, [(0x2A, 1)]), (8, [(0x30, 4)])]
/-- The resulting descriptor bytes. -/
def mergeDesc (mask : Nat) (old new : Data) : Data :=
  let d := modifyBytes.foldl (fun d x => if bit mask x.1 then x.2.foldl (fun d y => putAt d y.1 ((new.drop y.1).take y.2)) d else d) old
  if bit mask 9 then putAt d 0x2B (le 1 (u8At old 0x2B % 2 + 2 * b2n (bit (u8At new 0x2B) 1))) else d

/-- The first index at least 20 us ahead; of a retro job, the first not yet committed (R119, R138, R140). -/
def Task.ahead (t : Task) (now : Nat) : Nat :=
  if t.kind = .retro then (t.held.map fun u => u.index + 1).foldl max t.kNext
  else max t.kNext (ceilDiv (t.numAt (now + aheadTicks) 1 - t.g0) t.desc.hop)
/-- A multiple of a number at or above another. -/
def roundUp (x a : Nat) : Nat := ceilDiv x (max 1 a) * max 1 a
/-- A task that commands name: a live task or a retro job, admitted. -/
def namedTask (s : State) (id : Nat) : Option Task := match findTask s id with
  | some t => if t.active ∧ (t.kind = .live ∨ t.kind = .retro) then some t else none
  | none => none
/-- Whether every tile of a task has free footprint for new coefficients beside the old ones: 4 bytes each, T x N_in of them (R112, R138;
log 118). -/
def stageable (s : State) (t : Task) : Bool := s.tiles.toList.all fun x =>
  !x.table.any (·.task = t.id) || decide (footUsed s x + 4 * t.desc.taps * t.desc.nIn ≤ tileSram)

/-- Accept a modification: it waits for its index (R138). -/
def acceptModify (c : Cmd) (t : Task) (d : TaskDesc) (s : State) : State :=
  if bit (c.p32 0x0C) 0 ∧ ¬ stageable s t then complete c stNoResource 0 0 0 s
  else
    let k := roundUp (max (c.p64 0x10) (t.ahead s.clk.tick)) t.desc.avg
    let s := match t.placedPeer with
      | some did => send (placementMsg s did 8 t.id 0 t.epoch (le 8 (if t.desc.twoStage then k * 2 ^ t.desc.fLog2 else k) ++ d.raw)) s
      | none => s
    done c k 0 (setTask t.id (fun t => { t with modify := some ⟨k, d, configCrc d (t.modNo + 1), bit (c.p32 0x0C) 15⟩, modNo := t.modNo + 1 }) s)

def doSpecTaskModify (desc table : HostRead) (c : Cmd) (s : State) : State :=
  let mask := c.p32 0x0C
  match namedTask s (c.p32 0x08) with
  | none => checked c [entryCheck c [(0x08, 0x18)] [], deviceCheck s c, params [(0x08, false)]] id s
  | some t =>
    checked c [entryCheck c [(0x08, 0x18)] [], deviceCheck s c,
        needState (t.migration.isNone && t.modify.isNone && t.destroy.isNone && t.stopIndex.isNone || (t.kind = .retro && t.modify.isNone && t.destroy.isNone)),
        params [(0x0C, decide (mask &&& 0x83FF = mask)), (0x18, mask &&& 0x3FF = 0 || aligned64 (c.p64 0x18))]]
      (fun s =>
        let go := fun (raw : Data) (s : State) =>
          let d := taskDescOf raw t.desc.table
          checked c [descParams (taskFields d t.complex true s.clk.tick)] (fun s =>
            if bit mask 0 then withTable c raw table (fun l s => acceptModify c t { d with table := l } s) s
            else acceptModify c t d s) s
        if mask &&& 0x3FF = 0 then go t.desc.raw s else withBuffer c desc (fun new s => go (mergeDesc mask t.desc.raw new) s) s) s

def execSpecTaskModify (id : Nat) (desc table : HostRead) (s : State) : Host.Outcome State Fault Refusal :=
  .next (runCmd id 0x0301 anyCmd (doSpecTaskModify desc table) s)

/-! ## SPEC_TASK_DESTROY (R140) -/

/-- The next cell boundary at or above an index, by the A in force there (R140). -/
def Task.boundary (t : Task) (x : Nat) : Nat :=
  let b := roundUp x t.desc.avg
  match t.modify with
  | some m => if b < m.index then b else roundUp (max x m.index) m.desc.avg
  | none => b
/-- The stop index of a destroy. -/
def Task.stopAt (t : Task) (asked now : Nat) : Nat :=
  let a := t.ahead now
  let b := t.boundary asked
  let k := if asked = 0 ∨ b < a then t.boundary a else b
  match t.stopIndex with | some e => min e k | none => k

def doSpecTaskDestroy (c : Cmd) (s : State) : State := match namedTask s (c.p32 0x08) with
  | none => checked c [entryCheck c [(0x08, 4), (0x10, 8)] [], deviceCheck s c, params [(0x08, false)]] id s
  | some t => checked c [entryCheck c [(0x08, 4), (0x10, 8)] [], deviceCheck s c, needState t.destroy.isNone] (fun s =>
      let k := t.stopAt (c.p64 0x10) s.clk.tick
      let s := abortMigration t.id 4 s
      publishTask t.id (wait c (setTask t.id (fun t => { t with destroy := some (c.id, k), stopIndex := some k }) s))) s

def execSpecTaskDestroy (id : Nat) (s : State) : Host.Outcome State Fault Refusal := .next (runCmd id 0x0302 anyCmd doSpecTaskDestroy s)

/-! ## SPEC_TASK_PLACE (R162 to R166, R366) -/

/-- The first index released at or after a tick. -/
def Task.releasedAt (t : Task) (tick : Nat) : Nat := ceilDiv (t.numAt tick 1 - t.desc.indexLen - t.g0) t.desc.hop
/-- The first index of a new placement: as asked, or the first released 100 us after admission (R162). -/
def placeIndex (c : Cmd) (t : Task) (now : Nat) : Nat := if c.p64 0x18 = 0 then max t.kPub (t.releasedAt (now + 128000)) else c.p64 0x18
def placeOverlap (c : Cmd) : Nat := if c.p16 0x14 = 0 then 64 else c.p16 0x14

/-- The old placement runs to k0 + overlap - 1, and the results of its overlap are compared (R163). -/
def limitOld (id k0 overlap : Nat) (s : State) : State := match findTask s id with
  | none => s
  | some t =>
    let lim := fun (x : Share) => if t.desc.twoStage ∧ x.role = srMain then (k0 + overlap) * 2 ^ t.desc.fLog2 else k0 + overlap
    let s := changeShares id (fun x => decide (x.epoch = t.epoch ∧ (x.role = srMain ∨ x.role = srFine))) (fun x => { x with limit := some (lim x) }) s
    setTask id (fun t => { t with oldLimit := k0 + overlap, kept := [] }) s

/-- An index that no migration waits for: k0 while the placement's power request waits (R19, R162; log 125). -/
def unsettledIndex : Nat := 2 ^ 64
/-- The new placement is admitted: its staged shares get their first index, and the migration begins (R162, R163, R187). -/
def startMigration (c : Cmd) (id : Nat) (s : State) : State := match findTask s id with
  | none => s
  | some t =>
    let k0 := max t.kPub (placeIndex c t s.clk.tick)
    let e := (t.epoch + 1) % 256
    let s := splitTileGrants (.placement id) pcTask (unpaidTiles s id) s
    let s := limitOld id k0 (placeOverlap c) s
    let s := changeShares id (fun x => decide (x.epoch = e ∧ (x.role = srMain ∨ x.role = srFine))) (fun x =>
      let k := nextOwn x.period x.residues (if t.desc.twoStage ∧ x.role = srMain then k0 * 2 ^ t.desc.fLog2 else k0)
      { x with idx := k, from_ := k, limit := none }) s
    wait c (setTask id (fun t => { t with migration := some ⟨c.id, k0, placeOverlap c, none, true⟩ }) s)

/-- A placement that admission turns away: what it reserved is released, and the migration-aborted event names set-up (R19, R165; log 122). -/
def dropPlacement (id : Nat) (s : State) : State := match findTask s id with
  | none => s
  | some t =>
    let s := dropShares id (fun x => decide (x.epoch = (t.epoch + 1) % 256) && !x.back) s
    taskEvent 0x08 [.w id, .h 1] (setTask id (fun t => { t with migration := none }) s)

/-- Admit a local placement: its tiles are reserved by shares that compute nothing yet, then power is asked for those that are gated
(R19, R162, R501). A migration is pending from here on (R166). -/
def admitPlacement (c : Cmd) (t : Task) (s : State) : State :=
  let mask := if c.p32 0x10 = 0 then 2 ^ 20 - 1 else c.p32 0x10
  match placeShares t mask 0 ((t.epoch + 1) % 256) s with
  | none => complete c stNoResource 0 0 0 (dropPlacement t.id s)
  | some l =>
    let gated := gatedAmong s (l.map Prod.fst).dedup
    let s := stageShares (l.map fun x => (x.1, { x.2 with limit := some 0 })) s
    let s := setTask t.id (fun t => { t with migration := some ⟨c.id, unsettledIndex, placeOverlap c, none, false⟩ }) s
    if gated = [] then startMigration c t.id s
    else
      let items := [(pcTask, 10 * gated.length)]
      afterPower c (cost items) (requestPower c (.placement t.id) items s) (startMigration c t.id) id (dropPlacement t.id)

/-- Rates of a placement across a link in MB/s: history reads out, commit units in (R366). -/
def Task.linkTx (t : Task) : Nat := ceilDiv t.readKbs 1000
def Task.linkRx (t : Task) : Nat := ceilDiv (40 * t.fsNum * (64 + t.coarseBins * (if t.desc.complexFormat then 8 else 4))) (max 1 (t.fsDen * t.desc.frameHop))

/-- The request to the peer: the descriptor and the rates each way follow the kind of the task's samples (R366). -/
def sendAsk (c : Cmd) (id : Nat) (s : State) : State := match findTask s id with
  | none => s
  | some t =>
    let did := c.p16 0x0E
    let s := setTask t.id (fun x => { x with migration := some ⟨c.id, placeIndex c t s.clk.tick, placeOverlap c, some did, false⟩ }) s
    wait c (send { placementMsg s did 0 t.id t.demand (b2n t.complex + 2 * b2n t.hist16) (t.desc.raw ++ le 4 t.linkTx ++ le 4 t.linkRx ++ le 2 ((t.epoch + 1) % 256)) with
      ackReq := true } s)

/-- What a placement on a peer costs: its link traffic, in kB/s of the store and in power units (R366, R501). -/
def Task.placementKbs (t : Task) : Nat := (t.linkTx + t.linkRx) * 1000
def Task.placementUnits (t : Task) : Nat := storeUnits t.placementKbs

/-- The store traffic and then the power of a placement whose link is admitted (R366, R501). -/
def askGranted (c : Cmd) (t : Task) (s : State) : State :=
  ifAdmitted (reserveStore (.placement t.id) [(lcLinks, t.placementKbs)] s)
    (complete c stNoResource 0 0 0 (dropPlacement t.id (releaseFlow (.placement t.id) s))) fun s =>
    let s := setTask t.id (fun x => { x with migration := some ⟨c.id, unsettledIndex, placeOverlap c, some (c.p16 0x0E), false⟩ }) s
    afterPower c t.placementUnits (requestPower c (.placement t.id) [(pcLink, t.placementUnits)] s) (sendAsk c t.id) id
      (fun s => dropPlacement t.id (releasePlacement t.id false s))

/-- Ask a peer to take a task's shares (R366): the link and its store traffic are reserved first. -/
def askPeer (c : Cmd) (t : Task) (s : State) : State :=
  ifAdmitted (admitFlow (.placement t.id) (c.p16 0x0E) t.linkTx t.linkRx s) (complete c stNoResource 0 0 0 (dropPlacement t.id s)) (askGranted c t)

/-- The bytes of SPEC_TASK_PLACE that name something (R162). -/
def placeFields : List (Nat × Nat) := [(0x08, 5), (0x0E, 8), (0x18, 8)]
/-- SPEC_TASK_PLACE (R162 to R166): a k0 that the host names and the collector has passed is E_BAD_PARAM (log 124). -/
def doSpecTaskPlace (c : Cmd) (s : State) : State := match liveTask s (c.p32 0x08) with
  | none => checked c [entryCheck c placeFields [], deviceCheck s c, params [(0x08, false)]] id s
  | some t =>
    let peer := decide (c.p8 0x0C = 1)
    checked c
      [entryCheck c placeFields [], deviceCheck s c,
       needState (t.modify.isNone && t.destroy.isNone && t.migration.isNone && t.backfill.isNone && t.stopIndex.isNone),
       params [(0x0C, decide (c.p8 0x0C ≤ 1)), (0x0E, peer || decide (c.p16 0x0E = 0)),
         (0x10, decide (c.p32 0x10 < if peer then 1 else 2 ^ 20)),
         (0x14, decide (c.p16 0x14 = 0 ∨ (16 ≤ c.p16 0x14 ∧ c.p16 0x14 ≤ 4096))),
         (0x18, decide (c.p64 0x18 = 0) || !t.passed (c.p64 0x18))],
       need (!peer || reachable s.link (c.p16 0x0E)) stLink 0]
      (if peer then askPeer c t else admitPlacement c t) s

def execSpecTaskPlace (id : Nat) (s : State) : Host.Outcome State Fault Refusal := .next (runCmd id 0x0303 anyCmd doSpecTaskPlace s)

/-! ## RETRO_JOB_SUBMIT (R151 to R153) -/

/-- The time parameters of a retro job against the ring of its source (R151). -/
def retroSpan (i : Inlet) (t0 t1 : Nat) : List (Nat × Bool) :=
  [(0x18, decide (i.ring.oldest ≤ t1)), (0x18, i.ring.stoppedSpans.all fun p => decide (t1 < p.1 ∨ p.2 ≤ t0)), (0x20, decide (t1 ≤ i.ring.newest))]

/-- A retro job over the numbering that its span lies under (R119). -/
def retroTask (id : Nat) (d : TaskDesc) (i : Inlet) (t0 t1 : Nat) : Task :=
  let t := freshTask id .retro d i
  let t := match i.ring.frames.find? fun f => decide (t0 * 65536 < f.stopTime) with
    | some f => { t with tBase := f.base, tLag := f.lag, tNum := f.stepNum, tDen := f.stepDen, hist16 := f.hist16, complex := f.complex }
    | none => t
  let t := { t with g0 := t.numAt t0 d.frameHop }
  let end_ := t.numAt (t1 + 1) 1           -- the first sample after t_end
  let n := if end_ < t.g0 + d.frameLen then 0 else (end_ - d.frameLen - t.g0) / d.frameHop + 1
  { t with planned := n, stopIndex := some n }

/-- An admitted retro job runs; one that plans nothing ends at once (R153). -/
def activateRetro (c : Cmd) (id : Nat) (s : State) : State := match findTask s id with
  | none => s
  | some t =>
    let s := splitTileGrants (.retro id) pcRetro (unpaidTiles s id) s
    let s := setTask id (fun t => { t with active := true }) s
    let s := done c id t.planned s
    if t.planned = 0 then publishTask id s else s

/-- The admissions of a retro job: limits, footprint on one tile, power (R26, R152, R501). -/
def admitRetro (c : Cmd) (d : TaskDesc) (i : Inlet) (s : State) : State :=
  if taskLimit ≤ s.tasks.length ∨ retroLimit ≤ retroCount s ∨ ¬ spectraRoom s d then complete c stNoResource 0 0 0 s
  else
    let r := takeTaskId s
    let t := retroTask r.1 d i (c.p64 0x18) (c.p64 0x20)
    let s := { r.2 with tasks := r.2.tasks ++ [t] }
    let tile := match openTiles s (2 ^ 20 - 1) t.footprint true with
      | x :: _ => some x.1
      | [] => (openTiles s (2 ^ 20 - 1) t.footprint false).head?.map Prod.fst
    match tile with
    | none => complete c stNoResource 0 0 0 (dropTask t.id s)
    | some n =>
      let gated := gatedAmong s [n]
      let s := addShares [(n, { task := t.id, sixteenths := 0, period := 1, residues := [0], idx := 0, from_ := 0, limit := none, epoch := 0,
                                role := srRetro, ran := 0 })] s
      let items := [(pcRetro, 10 * gated.length), (pcRetro, ceilDiv (2 * t.demand) 16), (pcRetro, storeUnits t.readKbs)]
      afterPower c (cost items) (requestPower c (.retro t.id) items s) (activateRetro c t.id) id (dropTask t.id)

def doRetroJobSubmit (desc table : HostRead) (c : Cmd) (s : State) : State :=
  checked c ([entryCheck c [(0x08, 4), (0x10, 24)] [], deviceCheck s c] ++ descEntry c ++
      [params [(0x18, decide (c.p64 0x18 < c.p64 0x20))]]) (fun s => withBuffer c desc (fun raw s =>
    let d := { taskDescOf raw [] with startTick := 0 }
    let named := channelNamed s d.channel
    checked c
      [withInlet s raw fun i => if named then params (retroSpan i (c.p64 0x18) (c.p64 0x20)) else none,
       descParams [(0x00, decide (u16At raw 0 = 1)), (0x02, decide (d.mode = 0)), (0x03, named)],
       withInlet s raw fun i => descParams (taskFields d i.complex true s.clk.tick)]
      (fun s => withTable c raw table (fun l s => match inletOfChannel d.channel with
        | some n => admitRetro c { d with table := l } s.inlets[n] s
        | none => s) s) s) s) s

def execRetroJobSubmit (id : Nat) (desc table : HostRead) (s : State) : Host.Outcome State Fault Refusal :=
  .next (runCmd id 0x0310 anyCmd (doRetroJobSubmit desc table) s)

/-! ## XCORR_CONFIG (R145 to R150, R367) -/

/-- The transform parameters of a correlator as a task descriptor of its source tasks (R146). -/
def xcDesc (raw : Data) (channel : Nat) : TaskDesc :=
  { taskDescOf (zeros 256) [] with
    channel := channel, nLog2 := u8At raw 8, overlap := u8At raw 9, window := u8At raw 10, taps := u8At raw 11, winParam := u16At raw 0x0C,
    detector := 2, avg := 1, group := 1, stream := 0xFF, startTick := u64At raw 0x20, raw := raw }
/-- The sources that a descriptor lists. -/
def xcSources (raw : Data) : List XcSource := (List.range (u8At raw 3)).map (xcSource raw)
/-- What the home knows of the rate and the kind of sources that are all at peers: free values until a peer says (log 99). -/
def remoteInlet (s : State) : Inlet :=
  let rate := (Config.freeWord s.free).toNat % 512 + 1
  { Inlet.reset with page0 := some (block 256 [(0x18, le 4 rate), (0x1C, le 4 1), (0x20, le 1 (b2n (Config.freeBit s.free)))]) }
/-- The inlet of the first local source, which gives the rate and the kind. -/
def xcInlet (s : State) (raw : Data) : Option Inlet := match (xcSources raw).find? (!·.remote) with
  | some x => (inletOfChannel x.channel).map fun n => s.inlets[n]
  | none => some (remoteInlet s)
/-- An inlet gives sources of the rate and the kind of another (R145). -/
def sameSource (i j : Inlet) : Bool := decide (j.fsNum * i.fsDen = i.fsNum * j.fsDen ∧ j.complex = i.complex)

/-- Fields of a correlator's descriptor (R145, R147). A user window, code 6, is refused: the descriptor has no fields for a table (log
123). -/
def xcFields (s : State) (raw : Data) : List (Nat × Bool) :=
  let d := xcDesc raw 0
  let i := (xcInlet s raw).getD Inlet.reset
  let bins := binsOf i.complex d.nLog2
  let count := u32At raw 0x18
  let n := u32At raw 0x10
  let srcs := xcSources raw
  let sameKind := srcs.all fun x => x.remote || (match inletOfChannel x.channel with
    | some m => sameSource i s.inlets[m]
    | none => false)
  [(0x00, decide (u16At raw 0 = 1)), (0x02, decide (u8At raw 2 ≤ 1)), (0x03, decide (2 ≤ srcs.length ∧ srcs.length ≤ 8)),
   (0x04, decide (u32At raw 4 = 0)), (0x08, decide (6 ≤ d.nLog2 ∧ d.nLog2 ≤ if i.complex then 16 else 17)),
   (0x08, n = 0 || decide (i.fsDen * n * d.frameHop ≥ i.fsNum * 40000)), (0x09, decide (d.overlap ≤ 4)), (0x0A, decide (d.window ≤ 5)),
   (0x0B, decide (1 ≤ d.taps ∧ d.taps ≤ 16 ∧ d.taps * d.nIn ≤ 262144)), (0x0C, winParamOk d.window d.winParam), (0x0E, streamOk (u8At raw 0x0E)),
   (0x10, decide (0 < n)), (0x14, decide (u32At raw 0x14 < bins)), (0x18, decide (u32At raw 0x14 + count ≤ bins)),
   (0x20, d.startTick = 0 || decide (s.clk.tick ≤ d.startTick)), (0x2A, sameKind)] ++
  (((List.range srcs.length).zip srcs).flatMap fun x =>
    [(xcAt x.1 + 2, x.2.remote || channelNamed s x.2.channel), (xcAt x.1 + 3, decide (u8At raw (xcAt x.1 + 3) ≤ 1)),
     (xcAt x.1 + 4, decide (-16 ≤ x.2.gainLog2 ∧ x.2.gainLog2 ≤ 40)), (xcAt x.1 + 6, decide (u16At raw (xcAt x.1 + 6) = 0)),
     (xcAt x.1 + 8, decide (-2147483648 ≤ x.2.delay ∧ x.2.delay ≤ 32767 * 65536)), (xcAt x.1 + 12, decide (u32At raw (xcAt x.1 + 12) = 0))]) ++
  strayBytes raw 0 0x100 ([(0, 0x0F), (0x10, 12), (0x20, 8), (0x28, 16 * srcs.length)])

/-- The correlator of a descriptor. -/
def xcOf (raw : Data) (id : Nat) (i : Inlet) : Xcorr :=
  let first := u32At raw 0x14
  { id := id, sources := xcSources raw, nInt := u32At raw 0x10, binFirst := first,
    binCount := if u32At raw 0x18 = 0 then binsOf i.complex (u8At raw 8) - first else u32At raw 0x18, stream := u8At raw 0x0E,
    desc := xcDesc raw 0, dump := 0, waiting := [], sums := [], included := 0, marks := 0, excluded := 0, nextIndex := 0,
    missingRaised := false, missingCause := 0, crossDead := [], g0 := 0, time0 := 0, cfgCrc := crc32c raw }
/-- The demand of the cross-multiply stage in sixteenths (R148). -/
def crossDemand (x : Xcorr) (i : Inlet) : Nat := ceilDiv (x.pairs.length * x.span * i.fsNum) (max 1 (8 * i.fsDen * x.desc.frameHop))

/-- Add the source tasks of the local sources. -/
def addSources (xc : Nat) (l : List (Nat × XcSource)) (s : State) : State :=
  forL l (fun y s => match inletOfChannel y.2.channel, y.2.remote with
    | some n, false =>
      let r := takeTaskId s
      let s := { r.2 with tasks := r.2.tasks ++ [freshTask r.1 (.source xc y.1) (match findXcorr s xc with
        | some x => { x.desc with channel := y.2.channel } | none => xcDesc [] y.2.channel) s.inlets[n]] }
      setXcorr xc (fun x => { x with sources := ((List.range x.sources.length).zip x.sources).map fun z =>
        if z.1 = y.1 then { z.2 with task := r.1 } else z.2 }) s
    | _, _ => s) s
/-- The source tasks of a correlator. -/
def sourceTasks (s : State) (xc : Nat) : List Task := s.tasks.filter fun t => match t.kind with | .source i _ => decide (i = xc) | _ => false
/-- Place every source task and the cross-multiply stage; none where one does not fit. -/
def placeXcorr (xc cross : Nat) (s : State) : Option State :=
  let all := (sourceTasks s xc).foldl (fun (r : Option State) t => match r with
    | some s => (placeShares t (2 ^ 20 - 1) 0 0 s).map fun l => addShares l s
    | none => none) (some s)
  match all with
  | none => none
  | some s => (chooseTiles s (2 ^ 20 - 1) cross 0).map fun l => addShares (makeShares xc srCross cross 0 0 l) s

/-- Give up everything of a correlator. -/
def dropXcorr (xc : Nat) (s : State) : State :=
  let s := dropShares xc (fun _ => true) s
  let s := forL ((sourceTasks s xc).map (·.id)) (fun id s => dropTask id s) s
  releaseFlow (.xcorr xc) (releaseAll (.xcorr xc) { s with xcorrs := s.xcorrs.filter (·.id ≠ xc) })

/-- The time of the first sample of a correlator's common grid: of its first local source's numbering, or of the start tick where
every source is at a peer (R119, R146). -/
def gridTime (s : State) (x : Xcorr) : Nat × Nat :=
  let start := if x.desc.startTick = 0 then s.clk.tick + aheadTicks else x.desc.startTick
  match sourceTasks s x.id with
  | t :: _ => let g := t.numAt start x.desc.frameHop; (g, t.timeOf g)
  | [] => (0, start * 65536)

/-- An admitted correlator starts: the common grid of R119, each source's grid its whole delay after it (R146). Its peers are told the
grid's time, the rate and the kind (R367). -/
def activateXcorr (c : Cmd) (xc : Nat) (s : State) : State := match findXcorr s xc with
  | some x =>
    if (sourceTasks s xc).any fun t => !inletRuns s t then fail c (stState, 0) (dropXcorr xc s)
    else
      let unpaid := ((xc :: (sourceTasks s xc).map (·.id)).flatMap (unpaidTiles s)).dedup
      let s := splitTileGrants (.xcorr xc) pcTask unpaid s
      let g := gridTime s x
      let i := (xcInlet s x.desc.raw).getD Inlet.reset
      let s := { s with tasks := s.tasks.map fun t => match t.kind with
        | .source i slot => if i = xc then
            let d := (((x.sources.drop slot).head?.map (fun (y : XcSource) => y.delay)).getD 0).fdiv 65536
            { t with active := true, g0 := ((t.numFrom g.2 1 : Int) + d).toNat }
          else t
        | _ => t }
      let s := setXcorr xc (fun x => { x with g0 := g.1, time0 := g.2 }) s
      let s := forL (x.sources.filter (·.remote)) (fun y s =>
        send (placementMsg s y.did 5 xc 0 (g.2 / 65536 % 2 ^ 32)
          (x.desc.raw ++ le 4 i.fsNum ++ le 4 i.fsDen ++ le 1 (b2n i.complex) ++ le 2 (g.2 % 65536))) s) s
      done c xc 0 s
  | none => s

/-- Rate of one remote source's spectra in MB/s: 2 bytes per bin (R149). -/
def remoteRate (x : Xcorr) (i : Inlet) : Nat := ceilDiv (80 * x.span * i.fsNum) (max 1 (i.fsDen * x.desc.frameHop))
/-- Admit the remote sources on their links: at most 20.48 GB/s of them on a port (R149). -/
def admitRemotes (x : Xcorr) (i : Inlet) (s : State) : Option State :=
  (x.sources.filter (·.remote)).foldl (fun (r : Option State) y => match r with
    | some s => match admitFlow (.xcorr x.id) y.did 0 (remoteRate x i) s with
      | some s =>
        let held := fun (p : Nat) => ((s.link.flows.filter fun f => decide (f.port = p) && (match f.owner with | .xcorr _ => true | _ => false)).map (·.rx)).sum
        if (List.range 4).all (fun p => decide (held p ≤ 20480)) then some s else none
      | none => none
    | none => none) (some s)

/-- What a correlator asks of power: the tiles it opens, its cross-multiply, the mode and its sources (R148, R501). -/
def xcorrItems (before after : State) (cross : Nat) (mine : List Task) : List (Nat × Nat) :=
  let gated := ((List.finRange 20).filter fun n => !before.tiles[n].powered && after.tiles[n].powered).length
  (pcTask, 10 * gated) :: (pcTask, ceilDiv (2 * cross) 16) :: (pcMode, 15) ::
    mine.flatMap fun t => [(pcTask, ceilDiv (2 * t.demand) 16), (pcTask, storeUnits t.readKbs)]

/-- A correlator that finds no room (R146, R148). -/
def xcorrShort (c : Cmd) (xc : Nat) (s : State) : State := complete c stNoResource 0 0 0 (dropXcorr xc s)

/-- The tiles and the power of a correlator whose links and store traffic are admitted (R19, R148, R501). -/
def powerXcorr (c : Cmd) (x : Xcorr) (i : Inlet) (mine : List Task) (s : State) : State :=
  ifAdmitted (placeXcorr x.id (crossDemand x i) s) (xcorrShort c x.id s) fun s' =>
    let items := xcorrItems s s' (crossDemand x i) mine
    afterPower c (cost items) (requestPower c (.xcorr x.id) items s') (activateXcorr c x.id) id (dropXcorr x.id)

/-- The store traffic of a correlator whose links are admitted: what its sources read, and the spectra that come over links and end in
this store (R19, R25, R148, R365). -/
def reserveXcorr (c : Cmd) (x : Xcorr) (i : Inlet) (mine : List Task) (s : State) : State :=
  let links := (x.sources.filter (·.remote)).length * remoteRate x i * 1000
  ifAdmitted (reserveStore (.xcorr x.id) ((lcTileRead, (mine.map (·.readKbs)).sum) :: if links = 0 then [] else [(lcLinks, links)]) s) (xcorrShort c x.id s) (powerXcorr c x i mine)

/-- The links of a correlator's remote sources (R149). -/
def linkXcorr (c : Cmd) (x : Xcorr) (i : Inlet) (mine : List Task) (s : State) : State :=
  ifAdmitted (admitRemotes x i s) (xcorrShort c x.id s) (reserveXcorr c x i mine)

/-- The admissions of a correlator (R19, R146, R148, R149). -/
def admitXcorr (c : Cmd) (raw : Data) (i : Inlet) (s : State) : State :=
  let r := takeTaskId s
  let x := xcOf raw r.1 i
  let s := { r.2 with xcorrs := r.2.xcorrs ++ [x] }
  let s := addSources x.id ((List.range x.sources.length).zip x.sources) s
  if taskLimit < s.tasks.length ∨ (s.store.region rtSpectra).isNone then xcorrShort c x.id s
  else linkXcorr c x i (sourceTasks s x.id) s

/-- The entry of XCORR_CONFIG, then its descriptor; each of its two rows has the descriptors of its op. -/
def xcEntry (c : Cmd) (desc : HostRead) (mine : Data → Bool) (body : Data → State → State) (s : State) : State :=
  checked c ([entryCheck c [(0x08, 4), (0x10, 8)] [], deviceCheck s c] ++ descEntry c) (fun s' => match desc with
    | some raw => if mine raw then body raw s' else s
    | none => complete c stAborted 0 0 1 s') s

def doXcorrCreate (desc : HostRead) (c : Cmd) (s : State) : State := xcEntry c desc (fun raw => u8At raw 2 ≠ 1) (fun raw s =>
    checked c [descParams (xcFields s raw),
        needState ((xcSources raw).all fun x => x.remote || (match inletOfChannel x.channel with | some n => s.inlets[n].state = .running | none => false)),
        need ((xcSources raw).all fun x => !x.remote || reachable s.link x.did) stLink 0]
      (fun s => match xcInlet s raw with | some i => admitXcorr c raw i s | none => s) s) s

def execXcorrCreate (id : Nat) (desc : HostRead) (s : State) : Host.Outcome State Fault Refusal :=
  .next (runCmd id 0x0311 anyCmd (doXcorrCreate desc) s)

/-- A correlator ends: its open dump is dropped, and a MARKER of code 4 carries FINAL (R167; log 38). -/
def endXcorr (xc : Nat) (s : State) : State := match findXcorr s xc with
  | none => s
  | some x =>
    let t := x.timeOf s x.nextIndex
    let h : RecHdr :=
      { type := rtMarker, flags := rfFinal, tStart := t / 65536, tFrac := t % 65536, srcCh := 0, epoch := 0, srcDid := s.link.did,
        itemIndex := x.nextIndex, itemCount := 0, aux := 4, cfgCrc := x.cfgCrc, taskId := xc }
    let s := publishSpectra x.stream xc (markerRecord h 4) (t / 65536) s
    let s := forL (x.sources.filter (·.remote)) (fun y s => send (placementMsg s y.did 4 xc 0 0 []) s) s
    dropXcorr xc s

def doXcorrDestroy (desc : HostRead) (c : Cmd) (s : State) : State := xcEntry c desc (fun raw => u8At raw 2 = 1) (fun raw s =>
    checked c [descParams ([(0x00, decide (u16At raw 0 = 1)), (0x04, (findXcorr s (u32At raw 4)).isSome)] ++
        (0x0F :: (List.range 4).map (0x1C + ·) ++ (List.range 88).map (0xA8 + ·)).map fun o => (o, decide (u8At raw o = 0)))]
      (fun s => done c 0 0 (endXcorr (u32At raw 4) s)) s) s

def execXcorrDestroy (id : Nat) (desc : HostRead) (s : State) : Host.Outcome State Fault Refusal :=
  .next (runCmd id 0x0311 anyCmd (doXcorrDestroy desc) s)

end Sys2Proof.Machine
end

