-- ==== Sys2Proof/Machine/ClockOps.lean ====
section
/-! DEFINITION. The shared operations on time: steps of the time base (R489, R494), the discipline loop (R490 to R493), UNCERTAIN
(R495), and the Lull states (R497 to R499). -/

namespace Sys2Proof.Machine

/-- Change the clocks; change the discipline loop. -/
def setClk (f : Clock → Clock) (s : State) : State := { s with clk := f s.clk }
def setLoop (f : Loop → Loop) (s : State) : State := setClk (fun c => { c with loop := f c.loop }) s

/-! ## Steps of the time base (R494) -/

/-- A time of 1/65,536 tick that moves with the time base. -/
def shiftTime (t : Nat) (delta : Int) : Nat := ((t : Int) + delta * 65536).toNat
/-- A span of ticks that moves. -/
def shiftSpan (delta : Int) (p : Nat × Nat) : Nat × Nat := (tickAdd p.1 delta, tickAdd p.2 delta)

/-- A ring on the new time axis: its bounds, its holes and its stopped intervals move, and with them its samples. -/
def shiftRing (delta : Int) (r : Ring) : Ring :=
  { r with frames := r.frames.map (fun f => { f with base := f.base + delta * 65536 }), oldest := tickAdd r.oldest delta, newest := tickAdd r.newest delta,
           holes := r.holes.map (fun h => { h with start := tickAdd h.start delta, stop := tickAdd h.stop delta }),
           stoppedSpans := r.stoppedSpans.map (shiftSpan delta),
           stoppedAt := r.stoppedAt.map (fun t => tickAdd t delta), poisoned := r.poisoned.map fun p => { p with start := tickAdd p.start delta, stop := tickAdd p.stop delta } }

/-- The time base moves by a number of ticks: every tick kept for the HISTORY rings and every pending DENSITY_CLEAR moves with
it, and the density maps go on at the boundaries of the new axis (R494). -/
def stepTime (delta : Int) (s : State) : State :=
  let s := setClk (fun c => { c with tick := tickAdd c.tick delta }) s
  let moved := s.inlets.map fun i =>
    { i with ring := shiftRing delta i.ring, edge := shiftTime i.edge delta, firstTick := tickAdd i.firstTick delta,
             phaseMarks := i.phaseMarks.map fun m => (shiftTime m.1 delta, m.2.map fun t => shiftTime t delta) }
  let clears := s.eddy.clears.map fun p => { p with tick := tickAdd p.tick delta }
  let s := { s with inlets := moved, tasks := s.tasks.map (fun t => { t with tBase := t.tBase + delta * 65536 }),
                    eddy := { s.eddy with clears := clears },
                    brz := { s.brz with convs := s.brz.convs.map fun c => { c with roundTick := tickAdd c.roundTick delta } } }
  rebaseMaps s.clk.tick s

/-- A step is reported with the old and the new tick (R494, R508). -/
def stepTimeTo (tick : Nat) (s : State) : State :=
  let old := s.clk.tick
  raise 0xB42 [.q old, .q tick] (stepTime ((tick : Int) - old) s)

/-- Whether the state of R445 allows a step: every inlet STOPPED and no AT armed. -/
def stepAllowed (s : State) : Bool := s.inlets.toList.all (fun i => !i.active) && s.squall.ats.toList.all (fun a => !a.armed)

/-! ## UNCERTAIN (R495) -/

/-- Whether time is uncertain now. -/
def uncertainNow (s : State) : Bool :=
  s.clk.synths[0].state = .holdover || s.clk.synths[0].state = .bypass || s.clk.loop.state = 1 ||
  (s.clk.loop.state = 3 && decide (s.clk.loop.since + s.clk.cfg.holdoverS * secTicks < s.clk.up))

/-- Re-evaluate UNCERTAIN; each change is an event. -/
def settleUncertain (s : State) : State :=
  let u := uncertainNow s
  if u = s.clk.uncertain then s else raise 0xB43 [.h (b2n u)] (setClk (fun c => { c with uncertain := u }) s)

/-! ## The discipline loop (R490 to R493) -/

/-- LOOP_STATE changes: the event, and UNCERTAIN follows (R492, R495). -/
def loopTo (state : Nat) (s : State) : State :=
  let old := s.clk.loop.state
  if state = old then settleUncertain s
  else settleUncertain (raise 0xB40 [.h old, .h state]
    (setLoop (fun l => { l with state := state, since := s.clk.up, within := 0, beyond := 0, stepped := false }) s))

/-- The state a loop returns to: FREE without a source. -/
def loopRestart (s : State) : State := loopTo (if s.clk.loop.source = 0 then 0 else 1) s

/-- The source of the loop is lost: HOLDOVER (R492). -/
def loopLost (s : State) : State := if s.clk.loop.source = 0 ∨ s.clk.loop.state = 4 then s else loopTo 3 s

/-- Whether an error lies within k times the lock threshold of the source; errors are in 1/65,536 tick (R491). -/
def withinThreshold (s : State) (k : Nat) (err : Int) : Bool :=
  let e := err.natAbs
  if s.clk.loop.source = 1 then e * 100 ≤ k * (s.clk.cfg.ppsLockNs * 8388608)
  else if s.clk.loop.source = 2 then e * 10 ≤ k * 16777216
  else e * 1000 ≤ k * 8388608

/-- The steering value after an update, at most 100 ppm either way; the loop's gains are open (R490, R491). -/
def steer (s : State) : State :=
  let f := takeFree s
  setLoop (fun l => { l with steerPpb := ((Config.freeWord f.1).toNat % 200001 : Nat) - (100000 : Int) }) f.2

/-- One update of the loop with an error of its source (R491 to R493): the offset is captured, HOLDOVER returns to ACQUIRING,
the one step is taken where it is allowed, and the lock counts move the state. -/
def loopUpdate (err : Int) (s : State) : State :=
  let s := setLoop (fun l => { l with error := err }) (s.setRegN kTmbOffset (codeOf 32 err))
  if s.clk.loop.state = 0 ∨ s.clk.loop.state = 4 then s
  else
    let s := if s.clk.loop.state = 3 then loopTo 1 s else s
    let s := if s.clk.loop.state = 1 ∧ ¬ s.clk.loop.stepped then
        let s := setLoop (fun l => { l with stepped := true }) s
        if 83886080 < err.natAbs ∧ stepAllowed s then stepTimeTo (tickAdd s.clk.tick (roundDiv (-err) 65536)) s else s
      else s
    let s := steer s
    let near := withinThreshold s 1 err
    let far := !withinThreshold s 4 err
    let s := setLoop (fun l => { l with within := if near then l.within + 1 else 0, beyond := if far then l.beyond + 1 else 0 }) s
    if s.clk.loop.state = 1 ∧ 8 ≤ s.clk.loop.within then loopTo 2 s
    else if s.clk.loop.state = 2 ∧ 4 ≤ s.clk.loop.beyond then loopTo 1 s
    else s

/-! ## Lull states (R497 to R499) -/

/-- The least of the stated tolerances in microseconds; 0xFFFF of the display is unlimited. -/
def lullTolerance (s : State) : Nat :=
  let d := displayTolerance s
  min s.pwr.tolHost (if d = 0xFFFF then 0xFFFFFFFF else d)

/-- The deepest state a tolerance allows (R442, R497). -/
def lullAllowed (us : Nat) : Nat := if us < 5 then 0 else if us < 120 then 1 else if us < 5000 then 2 else 3

/-- The link conditions of low-power idle on this device (R376). -/
def linksIdle (s : State) : Bool :=
  s.squall.ats.toList.all (fun a => !(a.armed && (a.group || (match a.matrix with | some m => m.export_ | none => false)))) &&
  s.link.foreign.isEmpty && s.tasks.all (fun t => t.placedPeer.isNone) && s.tw.toList.all (fun t => !(t.isOpen && t.dest = 2) && t.fromPeers.isEmpty) &&
  s.xcorrs.all (fun x => x.sources.all fun y => !y.remote) && s.mbx.forwarded.isEmpty &&
  s.mbx.cmds.all (fun c => match c.origin with | .peer _ _ => false | .queue _ => true)

/-- The activity conditions of Lull-2 and Lull-3 (R497). -/
def lull2Idle (s : State) : Bool :=
  s.tiles.toList.all (fun t => t.shares.isEmpty) && s.inlets.toList.all (fun i => !(i.runs || i.state = .starting)) &&
  s.drt.chans.toList.all (fun c => c.state ≠ .running) && linksIdle s
def lull3Idle (s : State) : Bool :=
  lull2Idle s && s.inlets.toList.all (fun i => !i.active) && !scnEnabled s && s.tw.toList.all (fun t => !t.isOpen) &&
  s.squall.ats.toList.all (fun a => !a.armed) && s.mbx.cmds.isEmpty

/-- The deepest state whose tolerance and activity conditions hold (R497). -/
def lullTarget (s : State) : Nat :=
  let a := lullAllowed (lullTolerance s)
  if a = 3 ∧ lull3Idle s then 3 else if 2 ≤ a ∧ lull2Idle s then 2 else min a 1

/-- The Lull state changes: residence is counted and EV 0xB50 raised (R498, R507), and the
PCI Express link is in L1.2 in Lull-3 where software enabled it (R405); at wake from Lull-3 the watchdog restarts from
zero (R565). -/
def lullTo (n : Nat) (s : State) : State :=
  let old := s.clk.lull
  let s := if old = 3 then { s with fw := { s.fw with lastService := s.clk.up } } else s
  if n = old then s
  else raise 0xB50 [.h old, .h n]
    (setPcie (fun p => { p with l12 := decide (n = 3) && p.linkUp && l12Enabled s })
    (setClk (fun c => { c with lull := n, lullSince := c.up, lullTicks := vmodN c.lullTicks old (· + (c.up - c.lullSince)) }) s))

/-- What wake undoes: the links leave low-power idle, and after Lull-3 they train from the start (R376). -/
def wakeLinks (s : State) : State :=
  let deep := decide (s.clk.lull = 3)
  forL (List.finRange 4) (fun n s =>
    if s.link.ports[n].state ≠ .lowPower then s
    else if deep then releasePower (.port n.val) (setPort n (fun p => { p with state := .down, retryAt := s.clk.up }) s)
    else setPort n (fun p => { p with state := .active }) s) s

/-- A wake source makes the engine leave Lull-2 or Lull-3 (R498, R499). -/
def wakeLull (s : State) : State :=
  if s.clk.lull < 2 then s else lullTo (min 1 (lullAllowed (lullTolerance s))) (wakeLinks s)

/-- A packet arrives: electrical-idle exit on a port wakes the engine, but a TIME exchange wakes the port alone (R376, R499). -/
def arrives (n : Fin 4) (p : Packet) (f : State → State) (s : State) : State :=
  received n p f (if p.type = ptTime then s else wakeLull s)

/-- Lull-0 and Lull-1 follow the tolerance at once (R498). -/
def settleLull (s : State) : State :=
  if s.clk.lull < 2 then lullTo (min 1 (lullAllowed (lullTolerance s))) s
  else if lullTarget s < s.clk.lull then wakeLull s else s

end Sys2Proof.Machine
end

