-- ==== Sys2Proof/Machine/DrtOps.lean ====
section
/-! DEFINITION. Draught's shared operations (R319 to R335): descriptors and their checks, arbitration, the end of a descriptor,
hand-over, abort, and the halt on a bus error. -/

namespace Sys2Proof.Machine

/-- Change one channel. -/
def setChan (n : Fin 32) (f : DmaChan → DmaChan) (s : State) : State := { s with drt := { s.drt with chans := vmod s.drt.chans n f } }
/-- A channel by number. -/
def chanIndex (n : Nat) : Option (Fin 32) := if h : n < 32 then some ⟨n, h⟩ else none
/-- DMA_HALT (R331). -/
def dmaHalted (s : State) : Bool := (s.reg kDrtGlb).getLsbD 31
/-- SHADOW_VALID of a channel. -/
def shadowValid (s : State) (n : Fin 32) : Bool := (s.reg (kDrt n.val 0x04)).getLsbD 0

/-- The fields of a descriptor (R320). -/
def dmaDescOf (d : Data) : DmaDesc :=
  { src := u64At d 0x00, dst := u64At d 0x08, length := if u32At d 0x10 = 0 then 2 ^ 32 else u32At d 0x10, srcSpace := u8At d 0x14,
    dstSpace := u8At d 0x15, ctrl := u16At d 0x16, next := u64At d 0x18, statusAddr := u64At d 0x20, srcDid := u16At d 0x28,
    dstDid := u16At d 0x2A, fill := BitVec.ofNat 32 (u32At d 0x2C), histTick := u64At d 0x30, user := u64At d 0x38 }

def DmaDesc.chain (d : DmaDesc) : Bool := bit d.ctrl 0
def DmaDesc.event (d : DmaDesc) : Bool := bit d.ctrl 1
def DmaDesc.status (d : DmaDesc) : Bool := bit d.ctrl 2
def DmaDesc.isFill (d : DmaDesc) : Bool := bit d.ctrl 3
def DmaDesc.statusSpace (d : DmaDesc) : Nat := bits d.ctrl 5 4
/-- The spaces: 0 host, 1 store, 2 register window, 3 peer store; a fill has no source. -/
def DmaDesc.from_ (d : DmaDesc) : Option Nat := if d.isFill then none else some (d.srcSpace % 4)
def DmaDesc.to_ (d : DmaDesc) : Nat := d.dstSpace % 4

/-- Whether a span of store is readable, and writable, by Draught (R321 code 3). -/
def dmaReadable (s : State) (a n : Nat) : Bool :=
  decide (a + n ≤ usable s.store) && (match s.store.region rtFirmware with | some r => decide (a + n ≤ r.base ∨ r.base + r.size ≤ a) | none => true)
def dmaWritable (s : State) (a n : Nat) : Bool := s.store.within rtDma a n || s.store.within rtDisplay a n
/-- Whether a register span may be accessed: in the window and outside the Draught block; writes not into the mirrors (R321 code 4). -/
def regSpanOk (a n : Nat) (write : Bool) : Bool :=
  decide (a + n ≤ 0x100000 ∧ (a + n ≤ 0x10000 ∨ 0x20000 ≤ a)) && !(write && decide (0x40000 < a + n))

/-- The check of a loaded descriptor: 0 passes, otherwise the code of R321. -/
def dmaCheck (s : State) (d : DmaDesc) : Nat :=
  let n := d.length
  let src := d.from_
  if 8 ≤ d.srcSpace ∨ 16 ≤ d.dstSpace ∨ 64 ≤ d.ctrl ∨ 2 ≤ d.statusSpace then 1
  else if (src = some 2 ∧ (d.src % 4 ≠ 0 ∨ n % 4 ≠ 0)) ∨ (d.to_ = 2 ∧ (d.dst % 4 ≠ 0 ∨ n % 4 ≠ 0)) ∨ (d.status ∧ d.statusAddr % 32 ≠ 0) then 2
  else if (src = some 1 ∧ ¬ dmaReadable s d.src n) ∨ (d.to_ = 1 ∧ ¬ dmaWritable s d.dst n) ∨
      (d.status ∧ d.statusSpace = 1 ∧ ¬ dmaWritable s d.statusAddr 32) then 3
  else if (src = some 2 ∧ ¬ regSpanOk d.src n false) ∨ (d.to_ = 2 ∧ ¬ regSpanOk d.dst n true) then 4
  else if decide (src = some 1 ∧ d.histTick = 0) && (match s.store.regionAt d.src with | some r => decide (r.type = rtHistory) | none => false) then 5
  else if (src = some 3 ∧ ¬ reachable s.link d.srcDid) ∨ (d.to_ = 3 ∧ ¬ reachable s.link d.dstDid) then 6
  else 0

/-! ## Arbitration (R319) -/

/-- PRIO of a channel, consulted at each arbitration. -/
def chanPrio (s : State) (n : Fin 32) : Nat := s.field (kDrt n.val 0) 1 0

/-- The channel that runs next: the highest priority with work, round-robin after the one last chosen at that priority. -/
def nextChan (s : State) : Option (Fin 32) :=
  let ready := (List.finRange 32).filter fun n => s.drt.chans[n].state = .ready
  match (List.range 4).find? fun p => ready.any fun n => decide (chanPrio s n = p) with
  | none => none
  | some p =>
    let l := ready.filter fun n => decide (chanPrio s n = p)
    let last := (s.drt.lastChosen.toList.drop p).headD 0
    match l.find? fun n => decide (last < n.val) with
    | some n => some n
    | none => l.head?

/-! ## Ends -/

/-- End codes of DRT_CHn_STATUS (R333). -/
def endDone : Nat := 1
def endAborted : Nat := 2
def endStopped : Nat := 3
def endDescError : Nat := 4
def endOverwritten : Nat := 5

/-- The registers at an end: code, error, residue; an end other than DONE is sticky (R333). -/
def endRegs (n : Fin 32) (code err residue : Nat) (s : State) : State :=
  let k := kDrt n.val 0x04
  let s := ((s.setField k 27 24 code).setField k 23 16 err).setReg64 (kDrt n.val 0x28) (kDrt n.val 0x2C) residue
  if code = endDone then s else s.setField k 2 2 1

/-- The status record (R328). -/
def statusRecord (n : Fin 32) (code err residue user tick : Nat) : Data :=
  le 1 code ++ le 1 err ++ le 2 n.val ++ le 4 0 ++ le 8 residue ++ le 8 user ++ le 8 tick

/-- Write the status record of a loaded descriptor where it asks for one and its place can be written; not to host space
during a host-interface reset (R328, R408). -/
def putStatus (n : Fin 32) (d : DmaDesc) (code err residue : Nat) (noHost : Bool) (s : State) : State :=
  let r := statusRecord n code err residue d.user s.clk.tick
  if ¬ d.status ∨ d.statusAddr % 32 ≠ 0 then s
  else if d.statusSpace = 0 then (if noHost then s else hostWrite d.statusAddr r s)
  else if d.statusSpace = 1 ∧ dmaWritable s d.statusAddr 32 then storeWrite d.statusAddr r s
  else s

/-- Events of a channel. -/
def evChan (n : Fin 32) (o : Nat) : Nat := 0x900 + n.val * 4 + o

/-- The channel's ACTIVE set is empty. -/
def idleChan (n : Fin 32) (s : State) : State :=
  let s := setChan n (fun c => { c with state := .idle, desc := none, parts := [], writesSent := false }) s
  { s with drt := { s.drt with running := if s.drt.running = some n then none else s.drt.running } }

/-- Hand-over: the SHADOW set becomes the ACTIVE set and SHADOW_VALID clears; an invalid space is DESC_ERROR 1 (R325, R333). -/
def handOver (n : Fin 32) (s : State) : State :=
  let lo := (s.reg (kDrt n.val 0x08)).toNat
  let s := s.setField (kDrt n.val 0x04) 0 0 0
  let space := lo % 4
  let s := idleChan n s
  let s := setChan n (fun c => { c with descAddr := lo / 64 * 64 + 2 ^ 32 * (s.reg (kDrt n.val 0x0C)).toNat, descSpace := space }) s
  if 2 ≤ space then raise (evChan n 3) [.h 1, .q 0] (endRegs n endDescError 1 0 s)
  else setChan n (fun c => { c with state := .ready }) s

/-- An idle channel with SHADOW_VALID set hands over, unless Draught is halted (R325, R332). -/
def tryHandOver (n : Fin 32) (s : State) : State :=
  if s.drt.chans[n].state = .idle ∧ shadowValid s n ∧ ¬ dmaHalted s then handOver n s else s

/-- The pattern of a FILL over n bytes. -/
def fillData (w : U32) (n : Nat) : Data := ((List.replicate (ceilDiv n 4) (le 4 w.toNat)).flatten).take n

/-- The bytes of a descriptor's transfer from place lo, n of them, as far as this device knows them: those of host and peer
memory are free values (log 42). -/
def transferData (d : DmaDesc) (lo n : Nat) (s : State) : Data × State :=
  if d.isFill then ((fillData d.fill (lo + n)).drop lo, s)
  else if d.from_ = some 1 then (rawRead s (d.src + lo) n, s)
  else freeBytes n s

/-- Put bytes at a place of a descriptor's destination in host memory or the store. -/
def putTransfer (d : DmaDesc) (lo : Nat) (x : Data) (s : State) : State :=
  if d.to_ = 0 then hostData (bit d.dstSpace 3) (bit d.dstSpace 2) (d.dst + lo) x s else if d.to_ = 1 then storeWrite (d.dst + lo) x s else s
/-- The bytes there now. -/
def transferOld (s : State) (d : DmaDesc) (lo n : Nat) : Data :=
  if d.to_ = 0 then s.host.read (d.dst + lo) n else storeRead s (d.dst + lo) n

/-- The first k bytes of a transfer have been written (R329, R331). -/
def writePrefix (d : DmaDesc) (k : Nat) (s : State) : State :=
  if k = 0 ∨ 2 ≤ d.to_ then s else let r := transferData d 0 k s; putTransfer d 0 r.1 r.2
/-- Of the rest, each byte may or may not have been written (R331). -/
def writeMaybe (d : DmaDesc) (k : Nat) (s : State) : State :=
  if d.length ≤ k ∨ 2 ≤ d.to_ then s
  else
    let r := transferData d k (d.length - k) s
    let m := mixBytes (transferOld r.2 d k (d.length - k)) r.1 r.2
    putTransfer d k m.1 m.2

/-- Draught's requests to peers are forgotten; completions that come later are discarded. -/
def dropDraughtRequests (s : State) : State := { s with link := { s.link with requests := s.link.requests.filter (!·.draught) } }
/-- The next source and destination bytes of a descriptor of which k bytes are written (R333). -/
def showPlace (n : Fin 32) (d : DmaDesc) (k : Nat) (s : State) : State :=
  (s.setReg64 (kDrt n.val 0x18) (kDrt n.val 0x1C) (if d.isFill then d.src else d.src + k)).setReg64 (kDrt n.val 0x20) (kDrt n.val 0x24) (d.dst + k)
/-- The descriptor at which a chain stands: the one it runs, or the one that it waits with, as far as this device knows its bytes; those
of host memory are free values (log 42). -/
def chainDesc (c : DmaChan) (s : State) : DmaDesc × State := match c.desc with
  | some d => (d, s)
  | none =>
    if c.descSpace = 1 then (dmaDescOf (rawRead s c.descAddr 64), s)
    else let r := freeBytes 64 s; (dmaDescOf r.1, r.2)

/-- Abort a channel: a running or waiting chain ends ABORTED with what is not written as residue, the whole length for one that waits,
SHADOW_VALID clears and the channel is IDLE; an IDLE or HALTED channel is left alone (R329). How far a running descriptor has come is a
free value (log 42). A descriptor whose last byte completes in the clock of the abort is DESCRIPTOR_END before this write: what the abort
then finds is the rest of the chain, or nothing (R330). -/
def abortChan (noHost : Bool) (n : Fin 32) (s : State) : State :=
  let c := s.drt.chans[n]
  if c.state = .idle ∨ c.state = .halted then s
  else
    let r := chainDesc c (if c.state = .running then dropDraughtRequests s else s)
    let d := r.1
    let f := takeFree r.2
    let k := if c.state ≠ .running ∨ d.from_ = some 2 ∨ 2 ≤ d.to_ then 0 else (Config.freeWord f.1).toNat % (d.length + 1)
    let s := showPlace n d k (writePrefix d k f.2)
    let s := endRegs n endAborted 0 (d.length - k) s
    let s := putStatus n d endAborted 0 (d.length - k) noHost (s.setReg64 (kDrt n.val 0x34) (kDrt n.val 0x38) d.user)
    let s := s.setField (kDrt n.val 0x04) 0 0 0
    raise (evChan n 1) [.q (d.length - k)] (idleChan n s)

/-- Every channel ends ABORTED (R408, R468, R565). -/
def abortAll (noHost : Bool) (s : State) : State := forL (List.finRange 32) (abortChan noHost) s

/-- A bus error stops every channel (R331): DMA_HALT with its cause, the failing request, and STOPPED_BY_ERROR with the residue
of every channel, 0 for an idle one. -/
def dmaHalt (cause : Nat) (ch : Fin 32) (addr space written : Nat) (s : State) : State :=
  if dmaHalted s then s
  else
    let s := ((s.setField kDrtGlb 31 31 1).setField kDrtGlb 27 24 cause).setField kDrtGlb 20 16 ch.val
    let s := s.setReg64 kDrtErrLo kDrtErrHi (addr / 4 * 4 + space % 4)
    let s := raise 0x980 [.h cause, .h ch.val, .q addr] (s.countWrap kDrtHalts 1)
    let run := s.drt.running
    forL (List.finRange 32) (fun n s =>
      let c := s.drt.chans[n]
      let residue := match c.desc with | some d => if run = some n then d.length - written else d.length | none => 0
      let s := match c.desc with | some d => if run = some n then (showPlace n d written s).setReg64 (kDrt n.val 0x34) (kDrt n.val 0x38) d.user else s | none => s
      let s := endRegs n endStopped 0 (if c.state = .idle then 0 else residue) s
      let s := if c.state = .idle then s else raise (evChan n 2) [.q residue] s
      setChan n (fun c => { c with state := .halted, desc := none, parts := [], writesSent := false }) s)
      (dropDraughtRequests { s with drt := { s.drt with running := none } })

/-- DMA_HALT is acknowledged: every channel is IDLE, and one with SHADOW_VALID set hands over at once (R332). -/
def dmaResume (s : State) : State :=
  let s := raise 0x981 [] (s.setField kDrtGlb 31 31 0)
  forL (List.finRange 32) (fun n s => tryHandOver n (setChan n (fun c => { c with state := .idle }) s)) s

end Sys2Proof.Machine
end

