-- ==== Sys2Proof/Machine/NvmeOps.lean ====
section
/-! DEFINITION. The end of a stream (R305, R307), and the work of a delegated NVMe queue pair: layout, slots, submission, Flush and
failure (R309 to R314, R410). -/

namespace Sys2Proof.Machine

/-- Change the delegation of a stream. -/
def setNvme (n : Fin 16) (f : Nvme → Nvme) (s : State) : State := setStream n (fun t => { t with nvme := t.nvme.map f }) s

/-- A stream ends: its reservations are released and its command completes (R305, R318). -/
def finishClose (n : Fin 16) (s : State) : State :=
  let t := s.tw[n]
  let s := releaseFlow (.stream n.val) (releaseAll (.stream n.val) s)
  let s := setStream n (fun t =>
    { t with state := .closed, queue := [], gaps := [], backlog := 0, closeCmd := none, iq := none, pauseReasons := 0,
             firstUnannounced := none, unreachableSince := none, stagePart := false }) s
  let s := raise (evStream n 1) [.h t.reason, .q t.seqNext] s
  let s := match t.closeCmd with
    | some id => match findCmd s id with | some c => done c t.delivered t.seqNext s | none => s
    | none => s
  reapAcqs s

/-- A stream closes at once, without delivery (R306, R307). -/
def closeNow (n : Fin 16) (reason : Nat) (s : State) : State :=
  if s.tw[n].state = .closed then s else finishClose n (setStream n (fun t => { t with reason := reason }) s)

/-! ## Layout (R309) -/

def Nvme.sqBytes (v : Nvme) : Nat := ceilDiv (64 * v.sqEntries) 4096 * 4096
def Nvme.cqBytes (v : Nvme) : Nat := ceilDiv (16 * v.cqEntries) 4096 * 4096
def Nvme.cqAt (v : Nvme) : Nat := v.memStore + v.sqBytes
def Nvme.prpAt (v : Nvme) : Nat := v.cqAt + v.cqBytes
def Nvme.dataAt (v : Nvme) : Nat := v.prpAt + 4096 * v.sqEntries
/-- The data slots that the queue memory gives. -/
def Nvme.slotCount (v : Nvme) : Nat := (v.memSize - v.sqBytes - v.cqBytes - 4096 * v.sqEntries) / max 1 v.maxXfer
/-- The bus address that the drive uses for a store address. -/
def Nvme.bus (v : Nvme) (a : Nat) : Nat := v.bar4Bus + (a - v.memStore)
/-- Slots of the log (R310). -/
def Nvme.logSlots (v : Nvme) : Nat := v.lbaCount * v.lbaSize / max 1 v.maxXfer
/-- Whether the queue memory of an open delegation holds a span. -/
def Nvme.holds (v : Nvme) (a n : Nat) : Bool := decide (v.memStore ≤ a ∧ a + n ≤ v.memStore + v.memSize)
/-- The open delegations. -/
def delegations (s : State) : List Nvme := s.tw.toList.filterMap fun t => if t.isOpen ∧ t.dest = 1 then t.nvme else none

/-! ## Commands to the drive (R311, R312) -/

/-- Whether QUIESCE holds the streams' commands (R410). -/
def quiesceSet (s : State) : Bool := (s.reg kHifCtrl).getLsbD 0
/-- Whether a stream may issue commands now. -/
def nvmeIssues (s : State) (t : Stream) : Bool :=
  masters s && !quiesceSet s && (t.state = .open_ || t.state = .closing) && decide (t.pauseReasons = 0) &&
  storeServes s

/-- A submission queue entry (R311). -/
def sqEntry (v : Nvme) (opcode cid prp1 prp2 lba nlb : Nat) : Data :=
  block 64 [(0, le 1 opcode), (2, le 2 cid), (4, le 4 v.nsid.toNat), (24, le 8 prp1), (32, le 8 prp2), (40, le 8 lba),
            (48, le 4 (nlb + if v.fua ∧ opcode = 1 then 2 ^ 30 else 0))]
/-- Submit an entry and ring the doorbell. -/
def nvmeSubmit (n : Fin 16) (v : Nvme) (entry : Data) (slot : Nat) (flush : Bool) (s : State) : State :=
  let s := storeWrite (v.memStore + 64 * v.sqTail) entry s
  let tail := (v.sqTail + 1) % max 1 v.sqEntries
  let s := hostWrite v.sqDoorbell (le 4 tail) s
  setNvme n (fun v => { v with sqTail := tail, commands := v.commands ++ [(v.sqTail, slot, flush, s.clk.up)] }) s

/-- The PRP list of a data slot: its pages after the first (R311). -/
def prpList (v : Nvme) (data : Nat) : Data := (List.range (v.maxXfer / 4096 - 1)).flatMap fun i => le 8 (v.bus (data + 4096 * (i + 1)))
/-- Write one slot of the log (R310, R311). -/
def nvmeWriteSlot (n : Fin 16) (v : Nvme) (slot : Nat) (d : Data) (s : State) : State :=
  let data := v.dataAt + slot * v.maxXfer
  let list := v.prpAt + 4096 * v.sqTail
  let s := storeWrite list (prpList v data) (storeWrite data d s)
  let prp2 := if v.maxXfer ≤ 4096 then 0 else if v.maxXfer = 8192 then v.bus (data + 4096) else v.bus list
  let lba := v.lbaFirst + v.logSlot % max 1 v.logSlots * (v.maxXfer / v.lbaSize)
  let s := nvmeSubmit n v (sqEntry v 1 v.sqTail (v.bus data) prp2 lba (v.maxXfer / v.lbaSize - 1)) slot false s
  setNvme n (fun w =>
    { w with slotBusy := slot :: w.slotBusy, logSlot := v.logSlot + 1,
             wraps := w.wraps + b2n (decide (0 < v.logSlot ∧ v.logSlot % max 1 v.logSlots = 0)), buffer := w.buffer.drop v.maxXfer }) s

/-- A log without WRAP that has fewer than two slots left closes its stream (R314). -/
def logFull (n : Fin 16) (s : State) : State := match s.tw[n].nvme with
  | some v =>
    if ¬ v.wrap ∧ v.logSlots < v.logSlot + 2 ∧ s.tw[n].state = .open_ then beginClose n 1 none (raise (evStream n 7) [] s) else s
  | none => s

/-- Submit full slots of the log while the queue and the data slots have room (R311). -/
def nvmeSubmitAll (n : Fin 16) : Nat → State → State
  | 0, s => s
  | k + 1, s => match s.tw[n].nvme with
    | none => s
    | some v =>
      let slot := (List.range v.slots).find? fun i => !v.slotBusy.contains i
      if ¬ nvmeIssues s s.tw[n] ∨ v.buffer.length < v.maxXfer ∨ v.sqEntries ≤ v.commands.length + 1 ∨ (¬ v.wrap ∧ v.logSlots ≤ v.logSlot) then s
      else match slot with
        | some i => nvmeSubmitAll n k (logFull n (nvmeWriteSlot n v i (v.buffer.take v.maxXfer) s))
        | none => s

/-- A Flush is due: it waits for the Writes that have not completed, and makes durable what they and those before them wrote
(R312). -/
def Nvme.awaitWrites (v : Nvme) : Nvme :=
  { v with flushWaiting := true, flushAwaits := (v.commands.filter (!·.2.2.1)).map (·.1), flushUpTo := v.logSlot * v.maxXfer }
/-- The final Flush covers the whole log: it waits until every slot is written (R305, R312). -/
def Nvme.atEnd (v : Nvme) : Nvme := if v.finalFlush ∧ v.flushWaiting then v.awaitWrites else v
/-- Issue the Flush that waits, once every earlier Write has completed (R312). -/
def nvmeFlushNow (n : Fin 16) (s : State) : State := match s.tw[n].nvme.map Nvme.atEnd with
  | some v =>
    if v.flushWaiting ∧ v.flushAwaits = [] ∧ nvmeIssues s s.tw[n] ∧ v.commands.length + 1 < v.sqEntries ∧ (¬ v.finalFlush ∨ v.buffer = []) then
      let s := nvmeSubmit n v (sqEntry v 0 v.sqTail 0 0 0 0) v.flushUpTo true s
      setNvme n (fun w => { w with flushWaiting := false }) s
    else s
  | none => s

/-- What a stream's queue pair may do now. -/
def nvmeAdvance (n : Fin 16) (s : State) : State := match s.tw[n].nvme with
  | some v => nvmeFlushNow n (nvmeSubmitAll n (v.buffer.length / max 1 v.maxXfer) s)
  | none => s

/-- A stream fails (R313): it issues nothing more, and what it holds is discarded and counted. -/
def failStream (n : Fin 16) (s : State) : State :=
  let closing := s.tw[n].state = .closing
  let s := setStream n (fun t =>
    { t with state := .failed, dropped := t.dropped + (t.queue.filter (·.producer ≠ prodEnd)).length, queue := [], gaps := [], backlog := 0, iq := none }) s
  if closing then finishClose n s else s
/-- A delegation is lost: the NVMe-error event carries a status field (R313, R393, R409). -/
def nvmeError (n : Fin 16) (status : Nat) (s : State) : State :=
  failStream n (raise (evStream n 5) [.h status] (setNvme n (fun v => { v with status := status, errors := v.errors + 1 }) s))

/-! ## The log (R310) -/

/-- Add a record to the log: it never crosses a slot boundary unless it is larger than a slot. -/
def logAppend (v : Nvme) (r : Data) : Data :=
  let room := v.maxXfer - v.buffer.length % v.maxXfer
  if v.buffer.length % v.maxXfer = 0 ∨ r.length ≤ room then v.buffer ++ r else v.buffer ++ zeros room ++ r
/-- Whether the log takes a record now: the slots before it are submitted, and without WRAP the log has room for it and for the
stream-end MARKER (R310, R314). -/
def logTakes (v : Nvme) : Bool := decide (v.buffer.length < v.maxXfer)
def logFits (v : Nvme) (r : Data) (last : Bool) : Bool :=
  v.wrap || decide (ceilDiv ((logAppend v r).length + if last then 0 else 64) v.maxXfer + v.logSlot ≤ v.logSlots)

end Sys2Proof.Machine
end

