-- ==== Sys2Proof/Machine/Streams.lean ====
section
/-! DEFINITION. Tailwind streams: opening and closing, delivery to host rings, NVMe logs and peers, IQ sources (R291 to R318,
R368, R369). -/

namespace Sys2Proof.Machine

/-! ## Admission (R296, R413) -/

/-- The commands of the streams that hold what admission gave them and wait for power (R19). -/
def waitingStreams (s : State) : List Cmd := s.pwr.queue.filterMap fun r => match r.owner, r.cmd with
  | .stream _, some id => findCmd s id
  | _, _ => none
/-- The declared rates of the open host-ring and NVMe streams, and of those that wait for power, in MB/s. -/
def declaredRates (s : State) : Nat :=
  ((s.tw.toList.filter fun t => t.isOpen && t.dest ≠ 2).map (·.rate)).sum +
    ((waitingStreams s).map fun c => if c.opcode = 0x0602 then u32At (c.bytes.drop 64) 4 else if c.p8 0x09 = 2 then 0 else c.p32 0x0C).sum
/-- The limit of R296, scaled to the trained link (R413). -/
def streamLimit (s : State) : Nat :=
  let g := if s.pcie.gen = 1 then 635 else if s.pcie.gen = 2 then 1270 else if s.pcie.gen = 3 then 2500 else if s.pcie.gen = 4 then 5000 else 10000
  let w := if s.pcie.linkUp then s.pcie.width else 16
  50000 * w * (if s.pcie.linkUp then g else 10000) / 160000
/-- STAGE bytes that open streams hold, those of delegated queue memories, and those of streams that wait for power (R19, R297,
R308). -/
def stageHeld (s : State) : Nat :=
  (s.tw.toList.filter (·.stagePart)).length * mib + ((delegations s).map (·.memSize)).sum +
    ((waitingStreams s).map fun c => mib + if c.opcode = 0x0602 then u64At (c.bytes.drop 64) 0x20 else 0).sum
def stageFits (s : State) (more : Nat) : Bool := match s.store.region rtStage with
  | some r => decide (stageHeld s + more ≤ r.size)
  | none => false

/-- The entry of STREAM_OPEN. -/
def streamDest (c : Cmd) : Nat := c.p8 0x09
def streamIq (c : Cmd) : Bool := bit (c.p16 0x0A) 1
def streamRate (c : Cmd) : Nat := c.p32 0x0C
/-- The backlog limit in bytes: 10 ms of the declared rate by default (R297). -/
def backlogOf (kib rate : Nat) : Nat := if kib = 0 then rate * 10000 else kib * 1024

/-- Half bytes of a sample of one channel in its history format (R290). -/
def iqHalfBytes (i : Inlet) : Nat := (if i.complex then 2 else 1) * (if i.hist16 then 4 else 3)
/-- The IQ channels of a mask with their inlets. -/
def iqChannels (mask : Nat) : List (Nat × Fin 4) := (setBits mask 32).filterMap fun c => (inletOfChannel c).map fun n => (c, n)
/-- The IQ byte rate in B/s, exact, as a numerator and a denominator (fs = 40 MHz x num / den). -/
def iqRate (s : State) (mask : Nat) : Nat × Nat :=
  sumRates ((iqChannels mask).map fun x => let i := s.inlets[x.2]; (20000000 * iqHalfBytes i * i.fsNum, max 1 i.fsDen))

/-- A ring size: a power of two from 64 KiB to 64 GiB. -/
def ringSizeOk (n : Nat) : Bool := (List.range 21).any fun k => decide (n = 65536 * 2 ^ k)

/-- The parameters of STREAM_OPEN before its IQ source (R297). -/
def streamParams (s : State) (c : Cmd) : List (Nat × Bool) :=
  let d := streamDest c
  let host := decide (d = 0)
  let mask := c.p32 0x30
  let iq := streamIq c
  let named := (setBits mask 32).all (channelNamed s)
  [(0x09, decide (d = 0 ∨ d = 2)), (0x0A, decide (c.p16 0x0A < 4) && (host || !bit (c.p16 0x0A) 0)),
   (0x0C, decide (1 ≤ streamRate c ∧ streamRate c ≤ 50000)), (0x0C, !iq || !named || decide ((iqRate s mask).1 ≤ streamRate c * 1000000 * (iqRate s mask).2)),
   (0x10, if host then decide (c.p64 0x10 % 4096 = 0) else decide (c.p64 0x10 < 2 ^ 20)),
   (0x18, if host then ringSizeOk (c.p64 0x18) else decide (c.p64 0x18 = 0)),
   (0x20, if host then aligned64 (c.p64 0x20) else decide (c.p64 0x20 = 0)),
   (0x2C, host || decide (c.p16 0x2C = 0)), (0x2E, host || decide (c.p16 0x2E = 0)),
   (0x30, if iq then decide (mask ≠ 0) && named else decide (mask = 0))]
/-- The parameters of an IQ source. -/
def iqParams (s : State) (c : Cmd) : List (Nat × Bool) :=
  let b := c.p32 0x34
  if ¬ streamIq c then [(0x34, decide (b = 0)), (0x38, decide (c.p64 0x38 = 0))]
  else [(0x34, decide (b % 2 = 0 ∧ 64 ≤ b ∧ b ≤ 2 ^ 24) && (iqChannels (c.p32 0x30)).all fun x => decide (b * iqHalfBytes s.inlets[x.2] ≤ 2 * 4194240))]

/-- The first block of an inlet for an IQ source (R298). -/
def iqFirst (i : Inlet) (tick block : Nat) : Nat := i.numAt tick block / max 1 block

/-- An admitted stream opens (R297, R298). -/
def openStream (c : Cmd) (n : Fin 16) (s : State) : State :=
  let start := if c.p64 0x38 = 0 then s.clk.tick + 25600 else c.p64 0x38
  let iq := if streamIq c then
      some { chMask := c.p32 0x30, block := c.p32 0x34, crc := crc32c (c.bytes.drop 0x08),
             next := (iqChannels (c.p32 0x30)).foldl (fun m x => m.put x.2.val (iqFirst s.inlets[x.2] start (c.p32 0x34))) [] : IqSource }
    else none
  let limit := backlogOf (c.p32 0x28) (streamRate c)
  let host := decide (streamDest c = 0)
  if (iqChannels (c.p32 0x30)).any fun x => !s.inlets[x.2].runs then fail c (stState, 0) (releaseFlow (.stream n.val) (releaseAll (.stream n.val) s))
  else
    let s := setStream n (fun t =>
      { Stream.reset with
          state := .open_, dest := streamDest c, rate := streamRate c, noSnoop := bit (c.p16 0x0A) 0, backlogLimit := limit,
          ringBase := if host then c.p64 0x10 else 0, ringSize := if host then c.p64 0x18 else 1, statusAddr := c.p64 0x20, notifyKib := c.p16 0x2C,
          notifyUs := c.p16 0x2E, iq := iq, peerDid := if host then 0 else c.p64 0x10 % 65536, peerStream := if host then 0 else bits (c.p64 0x10) 19 16,
          stagePart := true, badHeads := t.badHeads, fromPeers := t.fromPeers }) s
    done c n.val limit (raise (evStream n 0) [] s)

/-- The admissions of a stream: limit, STAGE, link, store ledger, power (R19, R296, R297). -/
def admitStream (c : Cmd) (n : Fin 16) (s : State) : State :=
  let rate := streamRate c
  let peer := decide (streamDest c = 2)
  let short := complete c stNoResource 0 0 0
  if (¬ peer ∧ streamLimit s < declaredRates s + rate) ∨ ¬ stageFits s mib then short s
  else ifAdmitted (if peer then admitFlow (.stream n.val) (c.p64 0x10 % 65536) rate 0 s else some s) (short s) fun s1 =>
    ifAdmitted (reserveStore (.stream n.val) ((lcRecords, 2000 * rate) :: if peer then [(lcLinks, 1000 * rate)] else []) s1) (short s) fun s2 =>
        let items := [(pcStream, storeUnits (if peer then 3000 * rate else 2000 * rate))]
        afterPower c (cost items) (requestPower c (.stream n.val) items s2) (openStream c n) id
          (fun s => releaseFlow (.stream n.val) (releaseAll (.stream n.val) s))

def streamUsed : List (Nat × Nat) := [(0x08, 0x38)]
def doStreamOpen (c : Cmd) (s : State) : State := match streamIndex (c.p8 0x08) with
  | none => checked c [entryCheck c streamUsed [(0x08, false)]] id s
  | some n => checked c
      [entryCheck c streamUsed [], deviceCheck s c, needState (s.tw[n].state = .closed && !waitsPower s (.stream n.val)), params (streamParams s c),
       needState ((iqChannels (c.p32 0x30)).all fun x => s.inlets[x.2].state = .running), params (iqParams s c),
       need (streamDest c = 0 || reachable s.link (c.p64 0x10 % 65536)) stLink 0]
      (admitStream c n) s

def execStreamOpen (id : Nat) (s : State) : Host.Outcome State Fault Refusal :=
  .next (runCmd id 0x0600 (fun c => !bit (c.p16 0x0A) 15) doStreamOpen s)

/-! ## Query (R304) -/

/-- State codes of R304. -/
def streamStateCode : StreamState → Nat
  | .closed => 0 | .open_ => 1 | .paused => 2 | .failed => 3 | .closing => 4

/-- The status block of a stream. -/
def streamStatus (n : Fin 16) (t : Stream) : Data :=
  let v := t.nvme
  le 1 n.val ++ le 1 t.dest ++ le 1 (streamStateCode t.state) ++ le 1 t.reason ++ le 4 t.rate ++ le 8 t.seqNext ++ le 8 t.delivered ++
  le 8 t.backlog ++ le 8 t.dropped ++ le 8 t.gapRecords ++ le 8 ((v.map (·.durable)).getD 0) ++ le 2 ((v.map (·.status)).getD 0) ++
  le 2 ((v.map (·.errors)).getD 0) ++ le 4 ((v.map (·.wraps)).getD 0)

def doStreamQuery (c : Cmd) (s : State) : State := match streamIndex (c.p8 0x08) with
  | none => checked c [params [(0x08, false)]] id s
  | some n => checked c [deviceCheck s c, params [(0x10, aligned64 (c.p64 0x10))]]
      (fun s => done c 0 0 (writeBlock c (c.p64 0x10) (streamStatus n s.tw[n]) s)) s

def execStreamQuery (id : Nat) (s : State) : Host.Outcome State Fault Refusal :=
  .next (runCmd id 0x0600 (fun c => bit (c.p16 0x0A) 15) doStreamQuery s)

/-! ## Close (R305) -/

def doStreamClose (c : Cmd) (s : State) : State := match streamIndex (c.p8 0x08) with
  | none => checked c [entryCheck c [(0x08, 1)] [(0x08, false)]] id s
  | some n => checked c [entryCheck c [(0x08, 1)] [], deviceCheck s c, needState (s.tw[n].state ≠ .closed && s.tw[n].state ≠ .closing)]
      (fun s =>
        if s.tw[n].state = .failed then finishClose n (setStream n (fun t => { t with reason := 0, closeCmd := some c.id }) s)
        else wait c (beginClose n 0 (some c.id) s)) s

def execStreamClose (id : Nat) (s : State) : Host.Outcome State Fault Refusal := .next (runCmd id 0x0601 anyCmd doStreamClose s)

/-! ## Delivery (R292, R298 to R303, R310) -/

/-- Write bytes at a cumulative place of a ring; the end continues at offset 0 (R299, R300). -/
def ringWrite (noSnoop : Bool) (base size at_ : Nat) (d : Data) (s : State) : State :=
  let o := at_ % max 1 size
  let k := min d.length (size - o)
  hostData true noSnoop base (d.drop k) (hostData true noSnoop (base + o) (d.take k) s)

/-- The ring status block (R300). -/
def ringStatus (t : Stream) (tick : Nat) : Data :=
  le 8 t.tail ++ le 8 t.seqNext ++ le 8 t.head ++ le 4 (streamStateCode t.state) ++ le 4 0 ++ le 8 t.records ++ le 8 t.dropped ++
  le 8 t.gapRecords ++ le 8 tick

/-- Raise the publication event (R303). -/
def announceRecords (n : Fin 16) (s : State) : State :=
  let t := s.tw[n]
  raise (evStream n 2) [.q t.tail, .q t.seqNext] (setStream n (fun t => { t with notified := t.tail, firstUnannounced := none }) s)
/-- The publication event after a delivery. -/
def afterDelivery (n : Fin 16) (s : State) : State :=
  let t := s.tw[n]
  if t.notifyKib = 0 ∧ t.notifyUs = 0 then s
  else if 0 < t.notifyKib ∧ t.notifyKib * 1024 ≤ t.tail - t.notified then announceRecords n s
  else setStream n (fun t => { t with firstUnannounced := some (t.firstUnannounced.getD s.clk.up) }) s

/-- Whether the HISTORY span of an IQ record has been overwritten (R298). -/
def iqOverwritten (s : State) (r : Data) : Bool :=
  recType r = rtIq && decide (u16At r 0x1C = s.link.did) && (match inletOfChannel (u8At r 0x1A) with
    | some i => decide (u64At r 0x10 < s.inlets[i].ring.oldest)
    | none => false)
/-- Whether the HISTORY span of an IQ record meets poison. -/
def iqPoisoned (s : State) (r : Accepted) : Bool :=
  recType r.bytes = rtIq && decide (u16At r.bytes 0x1C = s.link.did) && (match inletOfChannel (u8At r.bytes 0x1A) with
    | some i => s.inlets[i].ring.poisoned.any fun p => decide (p.start < r.stop ∧ u64At r.bytes 0x10 < p.stop)
    | none => false)
/-- The poisoned sectors that the delivery of a record reads, by address. -/
def recordPoison (s : State) (r : Accepted) : List Nat :=
  (match r.addr with | some a => (sectorsOf a r.bytes.length).filter s.store.poison.contains |>.map (· * 32) | none => []) ++
  (if ¬ iqPoisoned s r then [] else match inletOfChannel (u8At r.bytes 0x1A) with
    | some i => (s.inlets[i].ring.poisoned.filter fun p => decide (p.start < r.stop ∧ u64At r.bytes 0x10 < p.stop)).map (·.addr)
    | none => [])
/-- A delivery reads its record: each read that decodes uncorrectable is reported for Tailwind (R79). -/
def reportRead (r : Accepted) (s : State) : State := forL (recordPoison s r) (fun a s => raise 0x304 [.q a, .h rqTailwind] s) s

/-- The record that delivery reads: a published record with a poisoned sector is replaced whole by a GAP of cause 10 (R81), an IQ
block that HISTORY has overwritten by one of cause 1 (R298). -/
def deliverable (s : State) (r : Accepted) : Data :=
  let h := recHdr r.bytes
  let gap := fun c => gapRecord { h with flags := h.flags % 16 / 8 * 8 } c r.stop r.bytes.length
  if (match r.addr with | some a => spanPoisoned s.store a r.bytes.length | none => false) then gap 10
  else if iqOverwritten s r.bytes then gap (lossCause s rqTailwind 1)
  else if iqPoisoned s r then gap 10
  else r.bytes

/-- The record with its place in the stream: stream_seq, and the item_index of the stream-end MARKER (R289, R292). -/
def placed (r : Accepted) (d : Data) (seq : Nat) : Data := if r.producer = prodEnd then putAt (withSeq d seq) 0x20 (le 8 seq) else withSeq d seq

/-- Take the record at the head of a stream off its backlog, as delivered. -/
def popRecord (n : Fin 16) (d : Data) (s : State) : State :=
  setStream n (fun t =>
    { t with queue := t.queue.drop 1, backlog := t.backlog - (t.queue.head?.map (·.bytes.length)).getD 0, seqNext := t.seqNext + 1,
             delivered := t.delivered + d.length, records := t.records + 1,
             gapRecords := t.gapRecords + b2n (decide (recType d = rtGap ∧ recCause d = 1)) }) s

/-- Delivery to a host ring (R299, R300). -/
def deliverRing (n : Fin 16) (r : Accepted) (s : State) : State :=
  let t := s.tw[n]
  let d := placed r (deliverable s r) t.seqNext
  if ¬ masters s ∨ t.ringSize < t.tail - t.head + d.length then s
  else
    let s := ringWrite t.noSnoop t.ringBase t.ringSize t.tail d (reportRead r s)
    let s := setStream n (fun t => { t with tail := t.tail + d.length }) (popRecord n d s)
    let s := hostWrite t.statusAddr (ringStatus s.tw[n] s.clk.tick) s
    let s := afterDelivery n s
    if r.producer = prodEnd then finishClose n s else reapAcqs s

/-- Delivery to a log: the record is copied, and full slots are written (R310, R311). At the stream's end the last slot is written
whole and a final Flush follows. -/
def deliverLogRecord (n : Fin 16) (r : Accepted) (s : State) : State := match s.tw[n].nvme with
  | none => s
  | some v =>
    let last := decide (r.producer = prodEnd)
    let d := placed r (deliverable s r) s.tw[n].seqNext
    if ¬ nvmeIssues s s.tw[n] ∨ ¬ logTakes v ∨ v.finalFlush then s
    else if ¬ logFits v d last then
      -- a full log has no room for it: discarded and counted, as after a failure
      setStream n (fun t => { t with queue := t.queue.drop 1, backlog := t.backlog - r.bytes.length, dropped := t.dropped + 1 }) s
    else
      let s := setNvme n (fun v => { v with buffer := logAppend v d }) (popRecord n d (reportRead r s))
      let s := if last then setNvme n (fun v =>
          { v with buffer := v.buffer ++ zeros (ceilDiv v.buffer.length v.maxXfer * v.maxXfer - v.buffer.length), flushWaiting := true, finalFlush := true }) s
        else s
      let s := match s.tw[n].nvme with | some v => nvmeSubmitAll n (v.buffer.length / max 1 v.maxXfer) s | none => s
      reapAcqs (nvmeFlushNow n s)

/-- One record to a peer with the end of its span before it: addr is the link sequence number, aux names the receiving stream in
bits 3:0 and this one in bits 7:4 (R368). -/
def sendRecord (n : Fin 16) (t : Stream) (seq stop : Nat) (d : Data) (s : State) : State :=
  sendBulk 1 t.peerDid seq (t.peerStream + n.val * 16) (le 8 stop ++ d) s

/-- Delivery to a peer: the record stays pinned, counted in the backlog, until it is acknowledged (R317, R368). -/
def deliverPeer (n : Fin 16) (s : State) : State :=
  let t := s.tw[n]
  match t.queue.find? (·.linkSeq = 0) with
  | none => s
  | some r =>
    if ¬ reachable s.link t.peerDid then s
    else
      let seq := t.linkSeq + 1
      let d := placed r (deliverable s r) t.seqNext
      let rec mark : List Accepted → List Accepted
        | [] => []
        | x :: xs => if x.linkSeq = 0 then { x with linkSeq := seq, bytes := d } :: xs else x :: mark xs
      let s := setStream n (fun t =>
        { t with queue := mark t.queue, linkSeq := seq, seqNext := t.seqNext + 1, delivered := t.delivered + d.length, records := t.records + 1,
                 gapRecords := t.gapRecords + b2n (decide (recType d = rtGap ∧ recCause d = 1)) }) s
      sendRecord n t seq r.stop d (reportRead r s)

/-- A stream delivers its next accepted record, once the store serves its read (R104, R107, R292, R299). -/
def doRecordDeliver (n : Fin 16) (s : State) : State :=
  let t := s.tw[n]
  if ¬ (t.state = .open_ ∨ t.state = .closing) then s
  else match t.queue with
    | [] => s
    | r :: _ =>
      let s := storeAsk s
      if ¬ storeServes s then s
      else if t.dest = 2 then deliverPeer n s
      else if t.dest = 0 then deliverRing n r s
      else deliverLogRecord n r s

def execRecordDeliver (stream : Fin 16) (s : State) : Host.Outcome State Fault Refusal := .next (doRecordDeliver stream s)

/-- notify_us passes since the first delivery after the last publication event (R303). -/
def doNotifyTimeout (n : Fin 16) (s : State) : State := match s.tw[n].firstUnannounced with
  | some u => if s.tw[n].notifyUs = 0 then s else announceRecords n (waitUp (u + s.tw[n].notifyUs * usTicks) s)
  | none => s
def execNotifyTimeout (stream : Fin 16) (s : State) : Host.Outcome State Fault Refusal := .next (doNotifyTimeout stream s)

/-- A head doorbell of a stream (R301). -/
def streamHead (n : Fin 16) (v : Nat) (s : State) : State :=
  let t := s.tw[n]
  if t.dest = 0 ∧ (t.state = .open_ ∨ t.state = .paused ∨ t.state = .closing) ∧ v % 64 = 0 ∧ t.head ≤ v ∧ v ≤ t.tail then
    setStream n (fun t => { t with head := v }) s
  else raise (evStream n 4) [] (setStream n (fun t => { t with badHeads := t.badHeads + 1 }) s)

/-! ## IQ sources (R290, R298) -/

/-- The payload of an IQ record: one channel's history values, I then Q (R290). -/
def iqPayload (i : Inlet) (c : Nat) (v : List (List Int)) : Data :=
  let l := v.flatMap fun x => if i.complex then [(x.drop (c % 8)).headD 0, (x.drop (c % 8 + 1)).headD 0] else [(x.drop (c % 8)).headD 0]
  if i.hist16 then l.flatMap fun x => le 2 (codeOf 16 x) else pack12 l

/-- The spans of a ring that an IQ block cannot have: its holes, and what HISTORY has overwritten and no hole covers (R298; log 139). -/
def iqLost (r : Ring) : List Hole := sortBy (·.start) (r.holes ++ newParts ⟨0, r.oldest, 1⟩ r.holes)
/-- A block's sample numbers [a, b) cut at the lost spans: the numbers of each piece, and the cause of one that is lost. -/
def cutBlock (i : Inlet) : List Hole → Nat → Nat → List (Nat × Nat × Option Nat)
  | [], a, b => if a < b then [(a, b, none)] else []
  | h :: l, a, b =>
    let x := min b (max a (i.numAt h.start 1))
    let y := min b (max x (i.numAt h.stop 1))
    (if a < x then [(a, x, none)] else []) ++ (if x < y then [(x, y, some h.cause)] else []) ++ cutBlock i l y b
/-- The record of one channel's samples [a, b): an IQ record, or a GAP with the cause of a lost span; with the end of its span (R290,
R298). -/
def iqRecord (s : State) (q : IqSource) (i : Inlet) (c : Nat) (x : Nat × Nat × Option Nat) : Data × Nat :=
  let n0 := x.1
  let k := x.2.1 - n0
  let t0 := i.timeOf n0
  let stop := ceilDiv (i.timeOf x.2.1) 65536
  let h : RecHdr :=
    { type := rtIq, flags := 0, tStart := t0 / 65536, tFrac := t0 % 65536, srcCh := c, epoch := 0, srcDid := s.link.did, itemIndex := n0,
      itemCount := k, aux := 0, cfgCrc := q.crc, taskId := 0 }
  match x.2.2, samplesAt i.ring.frames i.since n0 k with
  | none, some v =>
    let fl := (if spanClipped i.ring.frames i.since n0 k then rfClipped else 0) + (if spanUncertain i.phaseMarks i.ring.frames i.since n0 k then rfUncertain else 0)
    (recordBytes { h with flags := fl } (iqPayload i c v), stop)
  | g, _ => (gapRecord h (g.getD 1) stop 0, stop)
/-- The records of one channel's block (R298). -/
def iqRecords (s : State) (q : IqSource) (i : Inlet) (c j : Nat) : List (Data × Nat) :=
  (cutBlock i (iqLost i.ring) (j * q.block) ((j + 1) * q.block)).map (iqRecord s q i c)

/-- Publish the blocks of one inlet that have committed (R14, R298). -/
def iqAdvance (n : Fin 16) (m : Fin 4) : Nat → State → State
  | 0, s => s
  | k + 1, s => match s.tw[n].iq with
    | none => s
    | some q =>
      let i := s.inlets[m]
      let j := q.next.at_ m.val
      if i.ring.settled < ceilDiv (i.timeOf ((j + 1) * q.block)) 65536 then s
      else
        let s := forL ((iqChannels q.chMask).filter (·.2 = m)) (fun x s =>
          forL (iqRecords s q i x.1 j) (fun r s => offerRecord n (prodIq n.val x.1) r.1 r.2 none true s) s) s
        iqAdvance n m k (setStream n (fun t => { t with iq := t.iq.map fun q => { q with next := q.next.put m.val (j + 1) } }) s)

/-- Publish every IQ block of an inlet that its ring now holds. -/
def publishIq (m : Fin 4) (s : State) : State :=
  forL (List.finRange 16) (fun n s => match s.tw[n].iq with
    | some q => if (iqChannels q.chMask).any (·.2 = m) then
        iqAdvance n m ((s.inlets[m].numAt s.inlets[m].ring.settled 1 - q.next.at_ m.val * q.block) / max 1 q.block + 1) s
      else s
    | none => s) s

/-! ## Peer streams (R317, R368, R369) -/

/-- Acknowledged records are delivered and unpinned; the end MARKER's acknowledgement closes the stream (R368). -/
def doPeerStreamAck (n : Fin 16) (seq : Nat) (s : State) : State :=
  let t := s.tw[n]
  if t.dest ≠ 2 ∨ ¬ t.isOpen ∨ t.linkSeq < seq then s
  else
    let gone := t.queue.filter fun r => decide (r.linkSeq ≠ 0 ∧ r.linkSeq ≤ seq)
    let s := setStream n (fun t =>
      { t with queue := t.queue.filter (fun r => !decide (r.linkSeq ≠ 0 ∧ r.linkSeq ≤ seq)), acked := max t.acked seq,
               backlog := t.backlog - (gone.map (·.bytes.length)).sum }) s
    if gone.any (·.producer = prodEnd) then finishClose n s else reapAcqs s

def execPeerStreamAck (stream : Fin 16) (seq : U64) (s : State) : Host.Outcome State Fault Refusal := .next (doPeerStreamAck stream seq.toNat s)

/-- What a sender and its stream are in the books of the receiver. -/
def setFeed (n : Fin 16) (did stream : Nat) (f : PeerFeed → PeerFeed) (s : State) : State :=
  setStream n (fun t => { t with fromPeers := lmod t.fromPeers (fun x => decide (x.did = did ∧ x.stream = stream)) f }) s

/-- The GAP of a cut for one producer: from the item after its last accepted one to t_c (R288, R369; log 144). -/
def cutGap (header : Data) (item tc : Nat) : Data :=
  let h := recHdr header
  gapRecord { h with flags := 0, itemIndex := item, itemCount := 2 ^ 32 - 1 } 6 tc 0

/-- The receiving stream declares a cut at its current tick once the sender has been unreachable for link_hold (R369). -/
def doPeerStreamCut (n : Fin 16) (did : Nat) (s : State) : State :=
  match s.tw[n].fromPeers.find? fun f => decide (f.did = did) && f.lostSince.isSome with
  | none => s
  | some f =>
    let s := waitUp (f.lostSince.getD 0 + s.link.cfg.linkHoldMs * msTicks) s
    let tc := s.clk.tick
    let s := forL (s.tw[n].fromProducers.filter (·.1 = did)) (fun x s =>
      enqueueRecord n (prodPeer did f.stream x.2.1) (cutGap x.2.2.2 x.2.2.1 tc) none tc s) s
    let s := setStream n (fun t => { t with fromPeers := t.fromPeers.map fun x => if x.did = did then { x with partial_ := [], lostSince := none } else x }) s
    let s := raise 0xA48 [.h did] s
    -- kept until the sender can be reached again
    { s with link := { s.link with lostDids := s.link.lostDids ++ [(did, tc)] } }

def execPeerStreamCut (stream : Fin 16) (sender : Nat) (s : State) : Host.Outcome State Fault Refusal := .next (doPeerStreamCut stream sender s)

end Sys2Proof.Machine
end

