-- ==== Sys2Proof/Machine/MbxOps.lean ====
section
/-! DEFINITION. The mailbox machinery: sampling and enabling queues (R415, R416), doorbells (R389, R420), fetching and starting
commands (R417, R421 to R425, R428, R436). -/

namespace Sys2Proof.Machine

/-! ## Queue states (R414, R420, R423) -/

/-- Entries the host has written and the engine has not fetched. -/
def CmdQueue.waiting_ (q : CmdQueue) : Nat := (q.tail + q.size - q.head) % q.size

/-- Commands in progress toward a CPLQ; forwarded ones of peers have none here. -/
def towardCplq (s : State) (n : Fin 8) : Nat :=
  (s.mbx.cmds.filter fun c => decide (c.cplq = n) && (match c.origin with | .queue _ => true | .peer _ _ => false)).length

/-- Whether a CPLQ has room for one more command's completion; never while it is disabled (R423). -/
def cplqRoom (s : State) (n : Fin 8) : Bool := s.mbx.cplqs[n].enabled && decide (towardCplq s n + 1 ≤ s.mbx.cplqs[n].free)

/-- STATE of a command queue: 0 DISABLED, 1 RUNNING, 2 ERROR, 3 STALLED. -/
def cmdqState (s : State) (n : Fin 8) : Nat :=
  let q := s.mbx.cmdqs[n]
  if ¬ q.enabled then 0 else if q.error then 2 else if cplqRoom s q.cplq then 1 else 3

/-! ## Enable and disable (R415, R416) -/

/-- A queue's base as its registers hold it. -/
def baseOf (s : State) (k mask : Nat) : Nat := s.reg64 k (k + 4) / mask * mask

/-- ENABLE of a CMDQ goes from 0 to 1: its fields are sampled, head and tail are 0. -/
def enableCmdq (n : Fin 8) (s : State) : State :=
  let k := kCmdq n.val 0
  let ctrl := (s.reg (k + 8)).toNat
  setCmdq n (fun _ => { enabled := true, error := false, base := baseOf s k 64, size := s.field (k + 0x0C) 11 0 + 1,
                        cplq := Fin.ofNat 8 (bits ctrl 10 8), remote := bit ctrl 15, targetDid := bits ctrl 31 16, head := 0, tail := 0,
                        bound := bit ctrl 15 }) s

/-- The commands of a queue that FENCE still holds back. -/
def heldCmds (s : State) (n : Fin 8) : List Cmd := s.mbx.cmds.filter fun c => decide (c.origin = .queue n) && !c.started

/-- ENABLE of a CMDQ goes to 0: fetching stops, and what FENCE holds back completes with E_ABORTED, aux 2. -/
def disableCmdq (n : Fin 8) (s : State) : State :=
  let s := setCmdq n (fun q => { q with enabled := false, error := false, bound := false }) s
  forL (heldCmds s n) (fun c s => complete c stAborted 0 0 2 s) s

/-- An output queue as its registers sample it. -/
def sampleOut (s : State) (k : Nat) : OutQueue :=
  let ctrl := (s.reg (k + 8)).toNat
  { enabled := true, base := baseOf s k 32, size := s.field (k + 0x0C) 11 0 + 1, vector := bits ctrl 31 21, modCount := bits ctrl 20 13,
    modUs := bits ctrl 12 3, tail := 0, head := 0, phase := true, unsignalled := 0, firstUnsignalled := 0, overflow := false, lostNow := 0 }

/-- ENABLE of a CPLQ or EVQ; an EVQ then receives its pending log (R432). -/
def enableCplq (n : Fin 8) (s : State) : State := setCplq n (fun _ => sampleOut s (kCplq n.val 0)) s
def disableCplq (n : Fin 8) (s : State) : State := setCplq n (fun q => { q with enabled := false }) s
def enableEvq (n : Fin 4) (s : State) : State := deliverLog n (setEvq n (fun _ => sampleOut s (kEvq n.val 0)) s)
def disableEvq (n : Fin 4) (s : State) : State := setEvq n (fun q => { q with enabled := false }) s

/-- The CTRL register of a queue was written: ENABLE acts where it changed. -/
def cmdqCtrl (n : Fin 8) (s : State) : State :=
  let on := (s.reg (kCmdq n.val 8)).getLsbD 0
  if on = s.mbx.cmdqs[n].enabled then s else if on then enableCmdq n s else disableCmdq n s
def cplqCtrl (n : Fin 8) (s : State) : State :=
  let on := (s.reg (kCplq n.val 8)).getLsbD 0
  if on = s.mbx.cplqs[n].enabled then s else if on then enableCplq n s else disableCplq n s
def evqCtrl (n : Fin 4) (s : State) : State :=
  let on := (s.reg (kEvq n.val 8)).getLsbD 0
  if on = s.mbx.evqs[n].enabled then s else if on then enableEvq n s else disableEvq n s

/-- Every queue is disabled; completions of commands in progress are discarded and counted as they come, held commands never
start and have no effect (R437). -/
def disableQueues (s : State) : State :=
  let s := { s with mbx := { s.mbx with cmds := s.mbx.cmds.filter (fun c => c.started || (match c.origin with | .queue _ => false | .peer _ _ => true)),
                                        cmdqs := s.mbx.cmdqs.map (fun q => { q with enabled := false, error := false, bound := false }),
                                        cplqs := s.mbx.cplqs.map (fun q => { q with enabled := false }),
                                        evqs := s.mbx.evqs.map (fun q => { q with enabled := false }) } }
  let clear := fun (k : Nat) (s : State) => s.setField k 0 0 0
  forN 4 (fun n => clear (kEvq n 8)) (forN 8 (fun n s => clear (kCplq n 8) (clear (kCmdq n 8) s)) s)

/-! ## Doorbells (R389, R420) -/

/-- A doorbell value that is not taken (R420). -/
def ignoreDoorbell (kind q value : Nat) (s : State) : State := raise 0x013 [.h kind, .h q, .q value] (s.countSat kDbIgnored 1)

def tailDoorbell (n : Fin 8) (t : Nat) (s : State) : State :=
  let q := s.mbx.cmdqs[n]
  if q.enabled ∧ t < q.size ∧ (t + q.size - q.tail) % q.size ≤ q.size - 1 - q.waiting_ then setCmdq n (fun q => { q with tail := t }) s
  else ignoreDoorbell 0 n.val t s

/-- Whether a head value is taken: it releases no more than is outstanding. -/
def OutQueue.takes (q : OutQueue) (h : Nat) : Bool := q.enabled && decide (h < q.size) && decide ((h + q.size - q.head) % q.size ≤ q.used)

def cplqDoorbell (n : Fin 8) (h : Nat) (s : State) : State :=
  if s.mbx.cplqs[n].takes h then setCplq n (fun q => { q with head := h }) s else ignoreDoorbell 1 n.val h s

def evqDoorbell (n : Fin 4) (h : Nat) (s : State) : State :=
  if s.mbx.evqs[n].takes h then evqResume n (setEvq n (fun q => { q with head := h }) s) else ignoreDoorbell 2 n.val h s

/-- A doorbell write: one aligned 8-byte TLP, or an aligned 4-byte write to the low half where the doorbell accepts it; before
the mailbox is ready, and in any other size, it is discarded and counted (R385, R389). A 4-byte value is zero-extended. -/
def doorbell (small : Bool) (size value : Nat) (f : Nat → State → State) (s : State) : State :=
  if ¬ mbxReady s then badWrite s
  else if size = 8 then f value s
  else if size = 4 ∧ small then f (value % 2 ^ 32) s
  else refusedWrite s

/-- A 4-byte write at a doorbell offset; the upper halves take none (R389). -/
def doorbellDword (o value : Nat) (s : State) : State :=
  let at_ := fun (base n : Nat) => decide (base ≤ o ∧ o < base + 8 * n ∧ o % 8 = 0)
  if at_ 0x1000 8 then doorbell true 4 value (tailDoorbell (Fin.ofNat 8 ((o - 0x1000) / 8))) s
  else if at_ 0x1100 8 then doorbell true 4 value (cplqDoorbell (Fin.ofNat 8 ((o - 0x1100) / 8))) s
  else if at_ 0x1200 4 then doorbell true 4 value (evqDoorbell (Fin.ofNat 4 ((o - 0x1200) / 8))) s
  else refusedWrite s
/-- Whether a BAR0 offset lies in a doorbell. -/
def isDoorbell (o : Nat) : Bool :=
  decide ((0x1000 ≤ o ∧ o < 0x1040) ∨ (0x1100 ≤ o ∧ o < 0x1140) ∨ (0x1200 ≤ o ∧ o < 0x1220) ∨ (0x1300 ≤ o ∧ o < 0x1380))

/-! ## Opcodes and forms -/

/-- The opcodes of the command index. -/
def knownOpcodes : List Nat :=
  [0x0001, 0x0002, 0x0003, 0x0010, 0x0011, 0x0012, 0x0020, 0x0021, 0x0100, 0x0101, 0x0102, 0x0103, 0x0200, 0x0201, 0x0202, 0x0300,
   0x0301, 0x0302, 0x0303, 0x0310, 0x0311, 0x0400, 0x0401, 0x0402, 0x0403, 0x0404, 0x0405, 0x0500, 0x0501, 0x0600, 0x0601, 0x0602,
   0x0700, 0x0701, 0x0702, 0x0800, 0x0801, 0x0900, 0x0901, 0x0A00, 0x0B00, 0x0B01, 0x0B02, 0x0B10, 0x0B11]

/-- The selector field of a command and the values it may have: the field names the form of the command. -/
def selectorOf (opcode : Nat) : Option (Nat × Nat) :=
  if opcode = 0x0003 then some (0x08, 6)
  else if opcode = 0x0500 then some (0x09, 3)
  else if opcode = 0x0701 then some (0x09, 4)
  else if opcode = 0x0801 then some (0x0C, 3)
  else if opcode = 0x0901 then some (0x08, 2)
  else if opcode = 0x0A00 then some (0x08, 3)
  else none

/-- The fields that name the object of a command with a selector: a map (R262), a port (R379), a channel (R448). -/
def selectorObject (c : Cmd) : List (Nat × Bool) :=
  if c.opcode = 0x0500 then [(0x08, decide (c.p8 0x08 < 8))]
  else if c.opcode = 0x0701 then [(0x08, decide (c.p8 0x08 < 4))]
  else if c.opcode = 0x0901 then [(0x09, decide (c.p8 0x09 < 32))]
  else []

/-- A command that no row runs: an unknown opcode, or a selector outside its values, judged in the order of R428. -/
def formCheck (s : State) (c : Cmd) : Check :=
  if ¬ knownOpcodes.contains c.opcode then some (stBadOpcode, c.opcode)
  else match selectorOf c.opcode with
    | some x =>
      if c.p8 x.1 < x.2 then none
      else firstFail [params ((0x02, decide (c.flags < 8)) :: selectorObject c), deviceCheck s c, params [(x.1, false)]]
    | none => none

/-- A command starts: one that no row runs completes at once. -/
def startCmd (c : Cmd) (s : State) : State :=
  let s := setCmd c.id (fun c => { c with started := true }) s
  match formCheck s c with
  | some f => fail { c with started := true } f s
  | none => s

/-- Whether a fetched command may start: every earlier command of its queue has started, and with FENCE has completed (R417, R422). -/
def mayStart (s : State) (c : Cmd) : Bool :=
  let earlier := s.mbx.cmds.filter fun x => decide (x.origin = c.origin ∧ x.id < c.id)
  if c.fence then earlier.isEmpty else earlier.all (·.started)

/-- A command of a queue bound to a peer goes to it with the buffers it reads (R373, R436). -/
def forwardCmd (c : Cmd) (did : Nat) (buffers : Data) (s : State) : State :=
  if ¬ reachable s.link did then
    let q := match c.origin with | .queue n => n.val | .peer _ _ => 0
    complete c stLink 0 0 0 (raise 0x014 [.h q, .h did] s)
  else
    let p := mkPacket s ptMsg 1 did (BitVec.ofNat 32 c.id) 0 0
    let s := { s with mbx := { s.mbx with forwarded := s.mbx.forwarded ++ [⟨c.id, did, false⟩] } }
    wait c (send { p with ackReq := true, payload := c.bytes ++ buffers } s)

/-- Begin a fetched command where it may start; a command of a remote queue is forwarded, with the bytes kept after its entry. -/
def beginCmd (c : Cmd) (s : State) : State :=
  let remote := match c.origin with | .queue n => if s.mbx.cmdqs[n].remote then some s.mbx.cmdqs[n].targetDid else none | .peer _ _ => none
  match remote with
  | some did =>
    let s := setCmd c.id (fun c => { c with started := true, bytes := c.bytes.take 64 }) s
    forwardCmd { c with started := true, bytes := c.bytes.take 64 } did (c.bytes.drop 64) s
  | none => startCmd c s

/-- The commands in progress across all queues at most (R425). -/
def cmdLimit : Nat := 256

end Sys2Proof.Machine
end

