-- ==== Sys2Proof/Machine/Mailbox.lean ====
section
/-! DEFINITION. The rows of the mailbox machinery: command fetch and FENCE (R417, R422, R423, R425, R429), doorbells (R420), and
interrupt moderation (R414). -/

namespace Sys2Proof.Machine

/-- A queue enters ERROR: it stops fetching (R429). Cause 1 is a failed fetch, 2 a base that cannot be reached. -/
def queueError (n : Fin 8) (cause : Nat) (s : State) : State :=
  let s := setCmdq n (fun q => { q with error := true }) s
  raise 0x011 [.h n.val, .h cause] ((s.setField kQerr n.val n.val 1).setField kQerr 15 8 cause)

/-- Fetch the entry at the head of a queue; for a remote queue the bytes of the buffers that the command reads follow its entry. -/
def doCommandFetch (n : Fin 8) (entry : HostRead) (s : State) : State :=
  let q := s.mbx.cmdqs[n]
  if ¬ mbxReady s ∨ ¬ s.fw.runs ∨ ¬ q.enabled ∨ q.error ∨ q.head = q.tail ∨ ¬ cplqRoom s q.cplq then s
  else match entry with
    | none => queueError n (if masters s then 1 else 2) s
    | some d =>
      let s := setCmdq n (fun q => { q with head := (q.head + 1) % q.size }) s
      let id := s.mbx.nextId
      let c : Cmd := { id := id, origin := .queue n, cplq := q.cplq, bytes := if q.remote then d else d.take 64, started := false, waiting := false, blocks := [] }
      let full := decide (cmdLimit ≤ s.mbx.cmds.length)
      let s := { s with mbx := { s.mbx with nextId := id + 1, cmds := s.mbx.cmds ++ [c] } }
      if full then complete c stBusy 0 0 0 s
      else if mayStart s c then beginCmd c s
      else s

def execCommandFetch (q : Fin 8) (entry : HostRead) (s : State) : Host.Outcome State Fault Refusal := .next (doCommandFetch q entry s)

/-- A command that FENCE, or the order of its queue, held back starts (R417, R422). -/
def doFenceRelease (id : Nat) (s : State) : State := match findCmd s id with
  | some c => if ¬ c.started ∧ mayStart s c then beginCmd c s else s
  | none => s

def execFenceRelease (id : Nat) (s : State) : Host.Outcome State Fault Refusal := .next (doFenceRelease id s)

/-- A BAR access reaches the engine while the link is up in D0 with memory space enabled, and wakes it (R405, R499). -/
def barAccess (f : State → State) (s : State) : State := if s.pcie.linkUp ∧ ¬ s.pcie.d3 ∧ memSpaceEnabled s then f (wakeLull s) else s

def execCmdqTailDoorbell (q : Fin 8) (value : U64) (size : Nat) (s : State) : Host.Outcome State Fault Refusal :=
  .next (barAccess (doorbell true size value.toNat (tailDoorbell q)) s)
def execCplqHeadDoorbell (q : Fin 8) (value : U64) (size : Nat) (s : State) : Host.Outcome State Fault Refusal :=
  .next (barAccess (doorbell true size value.toNat (cplqDoorbell q)) s)
def execEvqHeadDoorbell (q : Fin 4) (value : U64) (size : Nat) (s : State) : Host.Outcome State Fault Refusal :=
  .next (barAccess (doorbell true size value.toNat (evqDoorbell q)) s)
/-- A stream's head doorbell takes 8-byte writes alone (R301, R389). -/
def execStreamHeadDoorbell (stream : Fin 16) (value : U64) (size : Nat) (s : State) : Host.Outcome State Fault Refusal :=
  .next (barAccess (doorbell false size value.toNat (streamHead stream)) s)

/-- The longest wait for an unsignalled entry has passed: its message is signalled (R414). -/
def moderate (q : OutQueue) (announce : State → State) (s : State) : State :=
  if ¬ q.enabled ∨ q.unsignalled = 0 ∨ q.modUs = 0 ∨ q.modCount = 0 then s
  else
    let s := waitUp (q.firstUnsignalled + q.modUs * usTicks) s
    signalVector q.vector (announce s)

def doModerationTimeout (kind : QueueKind) (n : Fin 8) (s : State) : State := match kind with
  | .cplq => moderate s.mbx.cplqs[n] (setCplq n OutQueue.announced) s
  | .evq => match evqIndex n.val with
    | some m => moderate s.mbx.evqs[m] (setEvq m OutQueue.announced) s
    | none => s

def execInterruptModerationTimeout (kind : QueueKind) (q : Fin 8) (s : State) : Host.Outcome State Fault Refusal :=
  .next (doModerationTimeout kind q s)

end Sys2Proof.Machine
end

