-- ==== Sys2Proof/Machine/RegRead.lean ====
section
/-! DEFINITION. Reading a register: the stored bits, and the fields that show the live state of their block. The readers are
Draught's register space (R322), the monitor (R550) and the host (R8: a read changes nothing). -/

namespace Sys2Proof.Machine

/-- Bits of a 32-bit word from fields given as (lowest bit, value). -/
def fieldWord (l : List (Nat × Nat)) : U32 := BitVec.ofNat 32 ((l.map fun x => x.2 * 2 ^ x.1).sum)

/-- LIFECYCLE as DEV_IDENTIFY codes it (R439). -/
def lifecycleCode (l : Lifecycle) : Nat := match l with
  | .development => 0
  | .production => 1
  | .unlocked => 2
  | .retired => 3
/-- Grade as R5 codes it: 0x43 C, 0x45 E. -/
def gradeCode (f : Fuses) : Nat := if f.gradeE then 0x45 else 0x43
/-- Straps as R439 codes them. -/
def strapsCode (x : Straps) : Nat := b2n x.rootSel + 2 * b2n x.perstScope + 4 * b2n x.memClamshell
/-- STATE of MBX_STATUS. -/
def mbxCode (m : MbxState) : Nat := match m with
  | .booting => 0
  | .ready => 1
  | .limited => 2
  | .failed => 3
def dpCode (d : DpState) : Nat := match d with
  | .off => 0
  | .noSink => 1
  | .training => 2
  | .active => 3
  | .failed => 4
def chanCode (c : ChanState) : Nat := match c with
  | .idle => 0
  | .ready => 1
  | .running => 2
  | .halted => 3
def brzCode (b : BrzState) : Nat := match b with
  | .stopped => 0
  | .cal => 1
  | .priming => 2
  | .running => 3

/-- Whether PPS_IN was seen within the last 1.1 s (R471). -/
def ppsPresent (s : State) : Bool := match s.clk.ppsEdgeUp with
  | some e => decide (s.clk.up ≤ e + 1408000000)
  | none => false

/-- A register with live bits: the mask of those bits and their value; the rest stands as stored. -/
abbrev Live := U32 × U32
/-- A register that shows live state alone. -/
def liveAll (v : U32) : Option Live := some (0xFFFFFFFF#32, v)
def liveNat (v : Nat) : Option Live := liveAll (BitVec.ofNat 32 v)

/-- Global block and time base (R470, R471). -/
def liveGlb (s : State) (k : Nat) : Option Live :=
  if k = 0x004 then liveAll (fieldWord [(24, gradeCode s.boot.fuses), (16, s.boot.fuses.stepping), (8, lifecycleCode s.boot.lifecycle), (0, b2n s.boot.slotB)])
  else if k = 0x008 then liveNat s.boot.fuses.serial.toNat
  else if k = 0x00C then liveNat (s.boot.fuses.serial.toNat / 2 ^ 32)
  else if k = 0x010 then liveNat (strapsCode s.boot.straps)
  else if k = 0x014 then liveNat (if mbxReady s then s.boot.fwVersion else 0)
  else if k = 0x1000 then liveNat s.clk.tick
  else if k = 0x1004 then liveNat (s.clk.tick / 2 ^ 32)
  else if k = 0x1014 then
    some (0xBF7, fieldWord [(11, b2n s.pcie.ptmValid), (9, b2n s.clk.uncertain), (8, b2n (ppsPresent s)), (4, s.clk.loop.state), (0, s.clk.loop.source)])
  else none

/-- EVT_SUMMARYn: bit b tells whether EVT_STATUS(n x 32 + b) is not zero (R473). -/
def eventSummary (s : State) (n : Nat) : Nat := ofBits ((List.range 32).filter fun b => s.reg (kEvtStatus (n * 32 + b)) ≠ 0)

/-- Draught (R333, R334). -/
def liveDrt (s : State) (o : Nat) : Option Live :=
  if o = 0x2000 then some (0x1F01, fieldWord [(8, s.drt.active), (0, b2n s.drt.running.isSome)])
  else match chanIndex (o / 0x100) with
    | none => none
    | some n =>
      let c := s.drt.chans[n]
      if o % 0x100 = 0x04 then some (0xF0000000, fieldWord [(28, chanCode c.state)])
      else if o % 0x100 = 0x10 then liveNat (c.descAddr / 64 * 64 % 2 ^ 32 + c.descSpace)
      else if o % 0x100 = 0x14 then liveNat (c.descAddr / 2 ^ 32)
      else none

/-- Scan-out (R282). -/
def liveScn (s : State) (o : Nat) : Option Live :=
  let c := s.scn
  let line := rasterLine s
  if o = 0x004 then
    some (0xFF00003F, fieldWord [(24, c.hpdIrqs), (5, b2n (s.clk.synths[2].state = .locked)), (4, b2n c.hpd), (1, dpCode c.link), (0, b2n c.running)])
  else if o = 0x008 then liveNat c.frame
  else if o = 0x00C then liveAll (fieldWord [(16, b2n (c.running && decide (tVActive c.timing ≤ line))), (0, line)])
  else if o = 0x014 then liveNat (displayTolerance s)
  else if o = 0x01C then
    liveAll (fieldWord [(16, c.trainFails), (12, if c.trained then 2 ^ dpLanes c.lanes - 1 else 0), (5, b2n c.sscActive), (3, c.lanes),
                        (1, c.rate), (0, b2n c.trained)])
  else if 0x180 ≤ o ∧ o < 0x198 ∧ o % 4 = 0 then liveNat (tWord c.timing ((o - 0x180) / 4))
  else if 0x200 ≤ o ∧ o < 0x300 ∧ o % 0x40 = 0x20 then liveNat (((c.layers.toList.drop ((o - 0x200) / 0x40)).map fun y => (y.latched.headD 0) / 64).headD 0)
  else none

/-- Whether a calibration domain has committed; whether it passed (R447, R516). -/
def domainCommitted (s : State) (d : Nat) : Bool := bit s.cal.committed d
def domainPassed (s : State) (d : Nat) : Bool := bit s.cal.word d

/-- The slots of a converter with an asserted alarm. -/
def alarmsNow (c : BrzConv) : Nat := ofBits ((List.range 32).filter fun i => ((c.slots.toList.drop i).map (·.alarm)).headD false)

/-- Breeze (R530). -/
def liveBrz (s : State) (x : Fin 2) (o : Nat) : Option Live :=
  let c := s.brz.convs[x]
  if o = 0x004 then liveAll (fieldWord [(3, b2n (domainCommitted s 2 && !domainPassed s 2)), (2, b2n (decide (alarmsNow c ≠ 0))), (0, brzCode c.state)])
  else if o = 0x008 then liveNat c.rounds
  else if o = 0x024 then liveNat (alarmsNow c)
  else if 0x100 ≤ o ∧ o < 0x500 then
    match (c.slots.toList.drop ((o - 0x100) / 0x20)).head? with
    | none => none
    | some y =>
      if o % 0x20 = 0x18 then some (0xE0000000, fieldWord [(31, b2n y.settled), (30, b2n y.primed), (29, b2n y.alarm)])
      else if o % 0x20 = 0x1C then liveNat (codeOf 32 (y.m.fdiv 65536))
      else none
  else none

/-- The mailbox and the host interface (R395, R414), and the doorbells, which read as the last value taken (R389). -/
def liveBar0 (s : State) (o : Nat) : Option Live :=
  let ready := mbxReady s
  if o = 0x0000 then
    liveAll (fieldWord [(24, if ready then s.boot.ifMajor else 1), (16, if ready then s.boot.ifMinor else 0), (1, mbxCode s.mbx.state), (0, b2n ready)])
  else if o < 0x0800 ∧ ¬ ready then liveAll 0
  else if 0x0100 ≤ o ∧ o < 0x0200 ∧ o % 0x20 = 0x10 then
    let n := Fin.ofNat 8 ((o - 0x100) / 0x20)
    liveAll (fieldWord [(28, cmdqState s n), (0, s.mbx.cmdqs[n].head)])
  else if 0x0200 ≤ o ∧ o < 0x0300 ∧ o % 0x20 = 0x10 then
    let q := s.mbx.cplqs[Fin.ofNat 8 ((o - 0x200) / 0x20)]
    liveAll (fieldWord [(28, b2n q.enabled), (12, b2n q.phase), (0, q.tail)])
  else if 0x0300 ≤ o ∧ o < 0x0380 ∧ o % 0x20 = 0x10 then
    let q := s.mbx.evqs[Fin.ofNat 4 ((o - 0x300) / 0x20)]
    liveAll (fieldWord [(28, b2n q.enabled), (12, b2n q.phase), (0, q.tail)])
  else if o = 0x080C then liveNat (bits s.pcie.b4Base 31 28 * 2 ^ 28 + bits s.pcie.b4Base 34 32)
  else if o = 0x0810 then
    liveAll (fieldWord [(7, b2n (decide (s.store.state = .ready ∨ s.store.state = .selfRefresh))), (6, b2n s.pcie.quiesced), (1, s.pcie.lastReset),
                        (0, b2n s.boot.straps.perstScope)])
  else if isDoorbell o then
    let v := if o < 0x1100 then s.mbx.cmdqs[Fin.ofNat 8 ((o - 0x1000) / 8)].tail
      else if o < 0x1200 then s.mbx.cplqs[Fin.ofNat 8 ((o - 0x1100) / 8)].head
      else if o < 0x1300 then s.mbx.evqs[Fin.ofNat 4 ((o - 0x1200) / 8)].head
      else s.tw[Fin.ofNat 16 ((o - 0x1300) / 8)].head
    liveNat (if o % 8 = 0 then v else v / 2 ^ 32)
  else none

/-- The live bits of a register. -/
def liveReg (s : State) (k : Nat) : Option Live :=
  if bar0Key ≤ k then liveBar0 s (k - bar0Key)
  else if k < 0x2000 then liveGlb s k
  else if 0x4400 ≤ k ∧ k < 0x4410 ∧ k % 4 = 0 then liveNat (eventSummary s ((k - 0x4400) / 4))
  else if 0x10000 ≤ k ∧ k < 0x20000 then liveDrt s (k - 0x10000)
  else if 0x20000 ≤ k ∧ k < 0x30000 then liveScn s (k - 0x20000)
  else if 0x30000 ≤ k ∧ k < 0x31000 then liveBrz s 0 (k - 0x30000)
  else if 0x31000 ≤ k ∧ k < 0x32000 then liveBrz s 1 (k - 0x31000)
  else none

/-- Whether a window offset lies in the mirrors of firmware-owned blocks (R454). -/
def isMirror (k : Nat) : Bool := decide (0x40000 ≤ k ∧ k < bar0Key)

/-- What a read of a register returns (R8, R455): a mirror reads 0 until the mailbox is ready and then live values in a layout
that is open; an offset no block lists reads 0. -/
def readReg (s : State) (k : Nat) : U32 :=
  if isMirror k then (if mbxReady s then Config.mirrorWord s.clk.up k else 0)
  else match liveReg s k with
    | some x => (s.reg k &&& ~~~x.1) ||| (x.2 &&& x.1)
    | none => s.reg k

/-- Bytes of the register window from an offset, a dword at a time. -/
def readRegs (s : State) (k : Nat) : Nat → Data
  | 0 => []
  | n + 1 => le 4 (readReg s k).toNat ++ readRegs s (k + 4) n

end Sys2Proof.Machine
end

