-- ==== Sys2Proof/Machine/Breeze.lean ====
section
/-! DEFINITION. The Breeze converters (R522 to R527, R530, R531): rounds, correction, filters, alarms, the firmware slots of
converter B, and what writes to their registers start. -/

namespace Sys2Proof.Machine

/-- Change a converter; change one slot of it. -/
def setConv (x : Fin 2) (f : BrzConv → BrzConv) (s : State) : State := { s with brz := { s.brz with convs := vmod s.brz.convs x f } }
def setSlot (x : Fin 2) (i : Fin 32) (f : BrzSlot → BrzSlot) (s : State) : State := setConv x (fun c => { c with slots := vmod c.slots i f }) s

/-- Whether a source code names a source; any other converts ground (R522). -/
def brzSource (code : Nat) : Bool :=
  decide (code < 0x30 ∨ (0x40 ≤ code ∧ code < 0x50) ∨ (0x50 ≤ code ∧ code < 0x5C) ∨ (0x60 ≤ code ∧ code < 0x68) ∨ (0x70 ≤ code ∧ code < 0x73))

/-- RUN, RESTART and the LEN that acts: at most 32 on A and 28 on B, none without RUN (R523). -/
def brzRun (s : State) (x : Fin 2) : Bool := (s.reg (kBrz x.val 0)).getLsbD 0
def brzRestartBit (s : State) (x : Fin 2) : Bool := (s.reg (kBrz x.val 0)).getLsbD 1
def brzLen (s : State) (x : Fin 2) : Nat := if brzRun s x then min (s.field (kBrz x.val 0) 8 3) (if x = 0 then 32 else 28) else 0

/-- Positions of a round: A runs its slots, B its host slots and then the firmware slots (R523). -/
def BrzConv.period (c : BrzConv) (x : Fin 2) : Nat := if x = 0 then c.len else c.len + 4
/-- The slot at a position. -/
def BrzConv.slotAt (c : BrzConv) (x : Fin 2) (j : Nat) : Fin 32 := Fin.ofNat 32 (if x = 0 ∨ j < c.len then j else 28 + (j - c.len))
/-- Ticks that each position takes: four conversions in a priming round (R524). -/
def BrzConv.slotTicks (c : BrzConv) : Nat := if c.state = .priming then 4 * usTicks else usTicks

/-- A round starts: LEN and RESTART are consulted; A stops without slots (R523, R524). -/
def brzRound (x : Fin 2) (tick : Nat) (s : State) : State :=
  let len := brzLen s x
  if x = 0 ∧ len = 0 then setConv x (fun c => { c with state := .stopped, pos := 0, restartPending := false }) s
  else
    let prime := s.brz.convs[x].restartPending || brzRestartBit s x
    let s := s.setField (kBrz x.val 0) 1 1 0
    setConv x (fun c =>
      { c with state := if prime then .priming else .running, roundTick := tick, len := len, pos := 0, restartPending := false,
               slots := if prime then c.slots.map (fun y => { y with primed := false, settled := false, settleCount := 0 }) else c.slots }) s

/-- The next tick at which a round may start. -/
def roundBoundary (t : Nat) : Nat := ceilDiv t usTicks * usTicks

/-- A converter starts with a priming round: at the next boundary if it is stopped, at the next round start otherwise; while
its domain has not committed it waits for that (R516, R524). -/
def brzStart (x : Fin 2) (s : State) : State :=
  let c := s.brz.convs[x]
  if c.state = .cal then s
  else if c.state = .stopped then brzRound x (roundBoundary s.clk.tick) (setConv x (fun c => { c with restartPending := true }) s)
  else setConv x (fun c => { c with restartPending := true }) s

/-- MON commits: the converters leave CAL; B's firmware slots always run (R516, R524). -/
def brzLeaveCal (s : State) : State :=
  forL (List.finRange 2) (fun x s => if s.brz.convs[x].state = .cal then brzStart x (setConv x (fun c => { c with state := .stopped }) s) else s) s

/-! ## A conversion (R525, R526) -/

/-- The taps of a converter, newest value first. -/
def brzTaps (s : State) (x : Fin 2) : List Int :=
  let p := s.field (kBrz x.val 0) 15 12
  if p = 0 then List.replicate 16 2048
  else if p = 2 then List.replicate 256 128
  else if p = 3 then (List.range (s.field (kBrz x.val 0x14) 7 0 + 1)).map fun j => signed 16 (s.field (kBrz x.val (0x800 + 4 * j)) 15 0)
  else List.replicate 64 512

/-- The correction of a raw code. -/
def brzCorrect (s : State) (x : Fin 2) (i : Fin 32) (raw : Nat) : Int :=
  roundDiv ((16 * raw - signed 14 (s.field (kBrzSlot x.val i.val 0) 13 0)) * (s.field (kBrzSlot x.val i.val 4) 15 0 : Nat)) 32768

/-- K of the DC block, 4 to 20. -/
def brzK (s : State) (x : Fin 2) (i : Fin 32) : Nat := max 4 (min 20 (s.field (kBrzSlot x.val i.val 0) 20 16))
/-- A corrected value less the DC estimate where DCB is set; m has 16 fraction bits. -/
def brzLessDc (s : State) (x : Fin 2) (i : Fin 32) (m c : Int) : Int :=
  if s.field (kBrzSlot x.val i.val 0) 22 22 = 1 then roundDiv (c * 65536 - m) 65536 else c
/-- The DC estimate after a corrected value: it moves with DCB set and FREEZE clear. -/
def brzDcNext (s : State) (x : Fin 2) (i : Fin 32) (m c : Int) : Int :=
  if s.field (kBrzSlot x.val i.val 0) 22 22 = 1 ∧ s.field (kBrzSlot x.val i.val 0) 21 21 = 0 then m + roundDiv (c * 65536 - m) (2 ^ brzK s x i) else m

/-- The mean of the last four values. -/
def meanOf4 (l : List Int) : Int := roundDiv l.sum 4
/-- The filter's output over the delay line. -/
def firOut (taps line : List Int) : Int := roundDiv ((taps.zip line).map fun p => p.1 * p.2).sum 32768

/-- The coarse and fine values go to the registers with the raw code and BADSRC (R530, R531). -/
def brzStore (x : Fin 2) (i : Fin 32) (raw : Nat) (coarse fine : Int) (s : State) : State :=
  let bad := b2n (!brzSource (s.field (kBrzSlot x.val i.val 0) 31 24))
  ((s.setRegN (kBrzSlot x.val i.val 0x10) (codeOf 32 fine)).setRegN (kBrzSlot x.val i.val 0x14) (codeOf 32 coarse)).setReg
    (kBrzSlot x.val i.val 0x18) (fieldWord [(28, bad), (0, raw)])

/-- The fine value: FILT passes the filter, otherwise the newest d. -/
def brzFine (s : State) (x : Fin 2) (i : Fin 32) (line : List Int) : Int :=
  if s.field (kBrzSlot x.val i.val 0) 23 23 = 1 then firOut (brzTaps s x) line else line.headD 0

/-- One conversion of a slot in a steady round. -/
def convertSlot (x : Fin 2) (i : Fin 32) (raw : Nat) (s : State) : State :=
  let y := s.brz.convs[x].slots[i]
  let c := brzCorrect s x i raw
  let d := brzLessDc s x i y.m c
  let line := (d :: y.line).take 256
  let last4 := (d :: y.last4).take 4
  let count := y.settleCount + 1
  let t := (brzTaps s x).length
  let s := setSlot x i (fun y => { y with m := brzDcNext s x i y.m c, line := line, last4 := last4, settleCount := min count 256, settled := decide (t ≤ count) }) s
  brzStore x i raw (meanOf4 last4) (brzFine s x i line) s

/-- The four conversions of a slot in a priming round: m is their mean, and the delay line fills with the coarse value. -/
def primeSlot (x : Fin 2) (i : Fin 32) (raws : List Nat) (s : State) : State :=
  let cs := raws.map (brzCorrect s x i)
  let m := cs.sum * 16384
  let ds := (cs.map (brzLessDc s x i m)).reverse
  let coarse := meanOf4 ds
  let line := List.replicate 256 coarse
  let fine := if s.field (kBrzSlot x.val i.val 0) 23 23 = 1 then firOut (brzTaps s x) line else ds.headD 0
  let s := setSlot x i (fun y => { y with m := m, line := line, last4 := ds, settleCount := 0, settled := false }) s
  brzStore x i (raws.getLastD 0) coarse fine s

/-! ## Alarms (R527) -/

/-- Test the alarm of a slot after a new value. -/
def brzAlarm (x : Fin 2) (i : Fin 32) (s : State) : State :=
  let y := s.brz.convs[x].slots[i]
  let cfg := s.reg (kBrzSlot x.val i.val 0)
  let coarse := cfg.getLsbD 14
  let v := signed 32 (s.reg (kBrzSlot x.val i.val (if coarse then 0x14 else 0x10))).toNat
  let hi := signed 32 (s.reg (kBrzSlot x.val i.val 0x08)).toNat
  let lo := signed 32 (s.reg (kBrzSlot x.val i.val 0x0C)).toNat
  let hyst : Int := (s.field (kBrzSlot x.val i.val 4) 31 16 : Nat)
  if ¬ cfg.getLsbD 15 ∨ ¬ (if coarse then y.primed else y.settled) then s
  else if hi < v ∨ v < lo then
    if y.alarm then s
    else
      let s := (setSlot x i (fun y => { y with alarm := true }) s).setField (kBrz x.val 0x20) i.val i.val 1
      wakeLull (raise (0xC40 + x.val * 0x20 + i.val) [.w (codeOf 32 v)] s)
  else if lo + hyst ≤ v ∧ v ≤ hi - hyst then setSlot x i (fun y => { y with alarm := false }) s
  else s

/-! ## The firmware slots (R523, R529) -/

/-- The sources that the firmware rotates through: 16 sensors, 12 rails, 8 wear monitors, the reference. -/
def brzRotation (k : Nat) : Nat := if k < 16 then 0x40 + k else if k < 28 then 0x50 + (k - 16) else if k < 36 then 0x60 + (k - 28) else 0x70

/-- The firmware names the next source of its rotation in a slot and keeps its reading: 1/64 °C, mV, ppm or 0.1 mV. -/
def firmwareSlot (i : Fin 32) (reading : Int) (s : State) : State :=
  let k := s.brz.rotation
  let s := s.setField (kBrzSlot 1 i.val 0) 31 24 (brzRotation k)
  { s with brz := { s.brz with
      rotation := (k + 1) % 37,
      temps := if k < 16 then vmodN s.brz.temps k (fun _ => satS 16 reading) else s.brz.temps,
      rails := if 16 ≤ k then vmodN s.brz.rails (k - 16) (fun _ => satN 16 reading.toNat) else s.brz.rails,
      wear := if 28 ≤ k then vmodN s.brz.wear (k - 28) (fun _ => satS 16 reading) else s.brz.wear,
      reference := if k = 36 then satN 16 reading.toNat else s.brz.reference } }

/-! ## The row -/

/-- The last position of a round is converted: the round is complete, the slots of a priming round are primed, and the next
round starts (R523, R524, R531). -/
def brzRoundEnd (x : Fin 2) (s : State) : State :=
  let c := s.brz.convs[x]
  let stop := c.roundTick + c.period x * c.slotTicks
  let ran := (List.range (c.period x)).map (c.slotAt x)
  let s := waitTick stop s
  let s := setConv x (fun c =>
    { c with rounds := c.rounds + 1,
             slots := if c.state = .priming then ran.foldl (fun v i => vmod v i fun y => { y with primed := true }) c.slots else c.slots }) s
  let s := s.setReg64 (kBrz x.val 0x0C) (kBrz x.val 0x10) c.roundTick
  brzRound x (roundBoundary stop) s

/-- One slot converts: once in a steady round, four times in a priming round; a host slot of B without RUN is passed over. -/
def doBreezeConversion (x : Fin 2) (raws : List (BitVec 12)) (reading : Int) (s : State) : State :=
  let c := s.brz.convs[x]
  if c.state = .stopped ∨ c.state = .cal then s
  else
    let i := c.slotAt x c.pos
    let s := waitTick (c.roundTick + (c.pos + 1) * c.slotTicks - usTicks) s
    let host := x = 0 ∨ c.pos < c.len
    let codes := raws.map (·.toNat)
    let s := if host then s else firmwareSlot i reading s
    let s := if host ∧ ¬ brzRun s x then s
      else if c.state = .priming then primeSlot x i ((codes ++ List.replicate 4 0).take 4) s
      else brzAlarm x i (convertSlot x i (codes.headD 0) s)
    let s := setConv x (fun c => { c with pos := c.pos + 1 }) s
    if c.period x ≤ c.pos + 1 then brzRoundEnd x s else s

def execBreezeConversion (conv : Fin 2) (raws : List (BitVec 12)) (reading : Int) (s : State) : Host.Outcome State Fault Refusal :=
  .next (doBreezeConversion conv raws reading s)

/-! ## Register writes -/

/-- SETTLED clears and the count starts again (R526). -/
def unsettle (x : Fin 2) (i : Fin 32) (s : State) : State := setSlot x i (fun y => { y with settled := false, settleCount := 0 }) s
def unsettleAll (x : Fin 2) (s : State) : State := forL (List.finRange 32) (unsettle x) s

/-- RUN and LEN as written: a start of A, a priming round of B, or the stop of A (R523, R524). -/
def brzCtrlChanged (x : Fin 2) (was : U32) (s : State) : State :=
  let run := brzRun s x
  if s.brz.convs[x].state = .cal then s
  else if ¬ was.getLsbD 0 ∧ run then brzStart x s
  else if was.getLsbD 0 ∧ ¬ run then (if x = 0 then setConv x (fun c => { c with state := .stopped, pos := 0 }) s else s)
  else if x = 0 ∧ run ∧ s.brz.convs[x].state = .stopped ∧ 0 < brzLen s x then brzStart x s
  else s

/-- The bits of a slot's CFG that restart the settling count: SRC, FILT, DCB, DCB_K, OFFSET (R526). -/
def settleBits : U32 := 0xFFDF3FFF

/-- What a write that reaches the bits of a mask does in a converter's registers (R524, R526, R527). -/
def brzWritten (x : Fin 2) (o : Nat) (mask was : U32) (s : State) : State :=
  if o = 0 then
    let s := if mask &&& 0xF000 ≠ 0 then unsettleAll x s else s
    brzCtrlChanged x was s
  else if o = 0x14 then (if mask &&& 0xFF ≠ 0 then unsettleAll x s else s)
  else if 0x100 ≤ o ∧ o < 0x500 then
    let i := Fin.ofNat 32 ((o - 0x100) / 0x20)
    if o % 0x20 = 0 then
      let s := if mask &&& settleBits ≠ 0 then unsettle x i s else s
      if (s.reg (kBrzSlot x.val i.val 0)).getLsbD 15 then s else setSlot x i (fun y => { y with alarm := false }) s
    else if o % 0x20 = 4 ∧ mask &&& 0xFFFF ≠ 0 then unsettle x i s
    else s
  else if 0x800 ≤ o ∧ s.field (kBrz x.val 0) 15 12 = 3 ∧ (o - 0x800) / 4 < (brzTaps s x).length ∧ mask &&& 0xFFFF ≠ 0 then unsettleAll x s
  else s

end Sys2Proof.Machine
end

