-- ==== Sys2Proof/Machine/Nvme.lean ====
section
/-! DEFINITION. Delegated NVMe queue pairs (R308 to R314, R393, R409, R410). -/

namespace Sys2Proof.Machine

/-- The size of BAR4 and whether it covers the whole store (R392). -/
def apertureSize (s : State) : Nat := 2 ^ s.pcie.barSizeLog2
def apertureWhole (s : State) : Bool := decide (usable s.store ≤ apertureSize s)
/-- The window base in use (R392). -/
def windowBase (s : State) : Nat := if apertureWhole s then 0 else s.pcie.b4Base
/-- Whether a window at a base covers a span. -/
def windowCovers (s : State) (base a n : Nat) : Bool := decide (base ≤ a ∧ a + n ≤ base + apertureSize s)

/-- The delegation of a descriptor (R308). -/
def nvmeOf (d : Data) : Nvme :=
  { wrap := bit (u8At d 3) 0, fua := bit (u8At d 3) 1, sqDoorbell := u64At d 0x08, cqDoorbell := u64At d 0x10, memStore := u64At d 0x18,
    memSize := u64At d 0x20, bar4Bus := u64At d 0x28, sqEntries := u16At d 0x30, cqEntries := u16At d 0x32, nsid := BitVec.ofNat 32 (u32At d 0x38),
    lbaSize := u32At d 0x3C, lbaFirst := u64At d 0x40, lbaCount := u64At d 0x48, maxXfer := u32At d 0x50, flushMs := u16At d 0x54,
    timeoutMs := if u16At d 0x56 = 0 then 1000 else u16At d 0x56, sqTail := 0, cqHead := 0, cqPhase := true, slots := 0, slotBusy := [], logSlot := 0,
    buffer := [], commands := [], flushWaiting := false, flushAwaits := [], flushUpTo := 0, finalFlush := false, durable := 0, lastFlush := 0, status := 0, errors := 0,
    wraps := 0 }

/-- Fields of a delegation descriptor up to the queue memory, and the rest (R308). -/
def nvmeFields1 (s : State) (d : Data) : List (Nat × Bool) :=
  let v := nvmeOf d
  let sizes := decide (2 ≤ v.sqEntries ∧ v.sqEntries ≤ v.cqEntries ∧ v.cqEntries ≤ 4096) && (List.range 10).any fun k => decide (v.maxXfer = 4096 * 2 ^ k)
  [(0x03, decide (u8At d 3 < 4)), (0x04, decide (1 ≤ u32At d 4 ∧ u32At d 4 ≤ 50000)),
   (0x18, decide (v.memStore % 4096 = 0) && s.store.within rtStage v.memStore v.memSize), (0x20, !sizes || decide (4 ≤ v.slotCount))]
def nvmeFields2 (d : Data) : List (Nat × Bool) :=
  let v := nvmeOf d
  let per := v.maxXfer / max 1 v.lbaSize
  [(0x30, decide (2 ≤ v.sqEntries ∧ v.sqEntries ≤ 4096)), (0x32, decide (v.sqEntries ≤ v.cqEntries ∧ v.cqEntries ≤ 4096)),
   (0x3C, decide (v.lbaSize = 512 ∨ v.lbaSize = 4096)), (0x48, decide (v.lbaCount ≠ 0 ∧ v.lbaCount % max 1 per = 0)),
   (0x50, (List.range 10).any fun k => decide (v.maxXfer = 4096 * 2 ^ k))] ++ strayBytes d 0x5C 0x80 []

/-- An admitted delegation opens its stream (R308). -/
def openNvme (c : Cmd) (n : Fin 16) (d : Data) (s : State) : State :=
  let v := nvmeOf d
  let rate := u32At d 4
  let s := setStream n (fun t =>
    { Stream.reset with
        state := .open_, dest := 1, rate := rate, backlogLimit := backlogOf (u32At d 0x58) rate, stagePart := true, badHeads := t.badHeads,
        fromPeers := t.fromPeers, nvme := some { v with slots := v.slotCount, lastFlush := s.clk.up } }) s
  logFull n (done c v.slotCount v.dataAt (raise (evStream n 0) [] s))

/-- The admissions of a delegation: limit, STAGE, store ledger, power (R19, R296). -/
def admitNvme (c : Cmd) (n : Fin 16) (d : Data) (s : State) : State :=
  let rate := u32At d 4
  let short := complete c stNoResource 0 0 0
  if streamLimit s < declaredRates s + rate ∨ ¬ stageFits s (mib + u64At d 0x20) then short s
  else ifAdmitted (reserveStore (.stream n.val) [(lcRecords, 4000 * rate)] s) (short s) fun s' =>
      -- the descriptor is kept with the command while its power request waits
      let s' := setCmd c.id (fun c => { c with bytes := c.bytes ++ d }) s'
      let items := [(pcStream, storeUnits (4000 * rate))]
      afterPower c (cost items) (requestPower c (.stream n.val) items s') (openNvme c n d) id (releaseAll (.stream n.val))

def doNvmeDelegate (desc : HostRead) (c : Cmd) (s : State) : State :=
  checked c [entryCheck c [(0x08, 4), (0x10, 8)] [], deviceCheck s c, params [(0x08, decide (c.p32 0x08 = 128)), (0x10, aligned64 (c.p64 0x10))]]
    (fun s => withBuffer c desc (fun d s => match streamIndex (u8At d 2) with
      | none => checked c [descParams [(0x00, decide (u16At d 0 = 1)), (0x02, false)]] id s
      | some n => checked c
          [descParams [(0x00, decide (u16At d 0 = 1))], needState (s.tw[n].state = .closed && !waitsPower s (.stream n.val)),
           descParams (nvmeFields1 s d), needState (windowCovers s (windowBase s) (u64At d 0x18) (u64At d 0x20)), descParams (nvmeFields2 d)]
          (admitNvme c n d) s) s) s

def execNvmeDelegate (id : Nat) (desc : HostRead) (s : State) : Host.Outcome State Fault Refusal :=
  .next (runCmd id 0x0602 anyCmd (doNvmeDelegate desc) s)

/-! ## Completions, Flush and time-outs (R312, R313) -/

/-- One completion entry is consumed if its phase tag is the one expected. -/
def doNvmeCompletionEntry (n : Fin 16) (s : State) : State := match s.tw[n].nvme with
  | none => s
  | some v =>
    if ¬ (s.tw[n].dest = 1 ∧ s.tw[n].isOpen) ∨ s.tw[n].state = .failed then s
    else
      let s := storeAsk s
      if ¬ storeServes s then s else
      let e := storeRead s (v.cqAt + 16 * v.cqHead) 16
      let cid := u16At e 12
      let st := u16At e 14
      if bit st 0 ≠ v.cqPhase then s
      else
        let head := if v.cqHead + 1 = v.cqEntries then 0 else v.cqHead + 1
        let s := hostWrite v.cqDoorbell (le 4 head) s
        let cmd := v.commands.find? (·.1 = cid)
        let s := setNvme n (fun w =>
          { w with cqHead := head, cqPhase := if head = 0 then !v.cqPhase else v.cqPhase, commands := w.commands.filter (·.1 ≠ cid),
                   flushAwaits := w.flushAwaits.filter (· ≠ cid),
                   slotBusy := match cmd with | some x => if x.2.2.1 then w.slotBusy else w.slotBusy.filter (· ≠ x.2.1) | none => w.slotBusy }) s
        if st / 2 ≠ 0 then nvmeError n (st / 2) s
        else match cmd with
          | some x =>
            let s := if x.2.2.1 then setNvme n (fun w => { w with durable := x.2.1 }) s else s
            if x.2.2.1 ∧ v.finalFlush ∧ ¬ v.flushWaiting ∧ v.buffer = [] ∧ v.commands.all (·.1 = cid) then finishClose n s else nvmeAdvance n s
          | none => nvmeAdvance n s

def execNvmeCompletionEntry (stream : Fin 16) (s : State) : Host.Outcome State Fault Refusal := .next (doNvmeCompletionEntry stream s)

/-- Every flush_ms the stream waits for its earlier Writes and issues a Flush (R312). -/
def doNvmeFlushTimer (n : Fin 16) (s : State) : State := match s.tw[n].nvme with
  | some v =>
    if v.flushMs = 0 ∨ s.tw[n].state ≠ .open_ ∨ s.tw[n].dest ≠ 1 ∨ v.flushWaiting then s
    else
      let s := waitUp (v.lastFlush + v.flushMs * msTicks) s
      nvmeAdvance n (storeAwake (setNvme n (fun v => { v.awaitWrites with lastFlush := s.clk.up }) s))
  | none => s
def execNvmeFlushTimer (stream : Fin 16) (s : State) : Host.Outcome State Fault Refusal := .next (doNvmeFlushTimer stream s)

/-- A command is outstanding longer than timeout_ms (R313); a paused stream's time-out does not count (R410). -/
def doNvmeCommandTimeout (n : Fin 16) (s : State) : State := match s.tw[n].nvme with
  | some v => match v.commands with
    | x :: _ =>
      if s.tw[n].state = .failed ∨ s.tw[n].state = .paused ∨ s.tw[n].dest ≠ 1 ∨ ¬ s.tw[n].isOpen then s
      else failStream n (raise (evStream n 6) [.h x.1] (waitUp (x.2.2.2 + v.timeoutMs * msTicks) s))
    | [] => s
  | none => s
def execNvmeCommandTimeout (stream : Fin 16) (s : State) : Host.Outcome State Fault Refusal := .next (doNvmeCommandTimeout stream s)

/-- Whether any delegated queue pair has a command outstanding. -/
def nvmeBusy (s : State) : Bool := s.tw.toList.any fun t => t.isOpen && (match t.nvme with | some v => !v.commands.isEmpty | none => false)
/-- QUIESCED is set while QUIESCE is 1 and no command is outstanding (R410). -/
def settleQuiesce (s : State) : State :=
  let q := quiesceSet s && !nvmeBusy s
  let was := s.pcie.quiesced
  let s := { s with pcie := { s.pcie with quiesced := q } }
  if q && !was then raise 0x0E8 [] s else s
def execNvmeQuiesced (s : State) : Host.Outcome State Fault Refusal := .next (settleQuiesce s)

/-! ## Pauses (R307, R368, R410) -/

/-- Pause reasons: bit 0 the PCI Express link, bit 1 no route to the peer. A paused command's time-out resumes from where it stopped. -/
def setPause (n : Fin 16) (reason : Nat) (on : Bool) (s : State) : State :=
  let t := s.tw[n]
  if ¬ (t.state = .open_ ∨ t.state = .paused ∨ t.state = .closing) then s
  else
    let r := if on then t.pauseReasons ||| 2 ^ reason else t.pauseReasons &&& (3 - 2 ^ reason)
    let s := setStream n (fun t => { t with pauseReasons := r }) s
    if t.state = .open_ ∧ r ≠ 0 then
      raise (evStream n 8) [] (setNvme n (fun v => { v with commands := v.commands.map fun x => (x.1, x.2.1, x.2.2.1, s.clk.up - x.2.2.2) })
        (setStream n (fun t => { t with state := .paused }) s))
    else if t.state = .paused ∧ r = 0 then
      raise (evStream n 9) [] (setNvme n (fun v => { v with commands := v.commands.map fun x => (x.1, x.2.1, x.2.2.1, s.clk.up - x.2.2.2) })
        (setStream n (fun t => { t with state := .open_ }) s))
    else s

/-- NVMe streams pause while the link is down, in D3hot or with Bus Master Enable clear, and resume when all clear (R307, R405). -/
def pauseNvme (s : State) : State :=
  forL (List.finRange 16) (fun n s => if s.tw[n].dest = 1 ∧ s.tw[n].isOpen then setPause n 0 (!masters s) s else s) s

/-- Delegations whose address moved fail when Bus Master Enable is set again (R409); BAR4's bus address is given. -/
def recheckDelegations (bar4 : Nat) (s : State) : State :=
  forL (List.finRange 16) (fun n s => match s.tw[n].nvme with
    | some v =>
      if s.tw[n].dest = 1 ∧ s.tw[n].isOpen ∧ s.tw[n].state ≠ .failed ∧ v.bar4Bus ≠ bar4 + (v.memStore - windowBase s) then nvmeError n 0xFFFF s else s
    | none => s) s
/-- Delegations whose queue memory the window no longer covers fail (R393). -/
def dropUncovered (s : State) : State :=
  forL (List.finRange 16) (fun n s => match s.tw[n].nvme with
    | some v =>
      if s.tw[n].dest = 1 ∧ s.tw[n].isOpen ∧ s.tw[n].state ≠ .failed ∧ ¬ windowCovers s (windowBase s) v.memStore v.memSize then nvmeError n 0xFFFF s
      else s
    | none => s) s

end Sys2Proof.Machine
end

