-- ==== Sys2Proof/Machine/RegWrite.lean ====
section
/-! DEFINITION. Writes to registers: access codes (R7, R464), same-clock conflicts (R460 to R462), what a write starts, and the
routes to a register through BAR0, BAR2, the aliases and the bit-alias region (R387 to R389, R455, R463). -/

namespace Sys2Proof.Machine

/-! ## One register -/

/-- A write as it reaches one register: the bits it addresses, and those it sets, clears and starts by their access codes. -/
structure RegWrite where
  mask : U32
  plain : U32
  value : U32
  clear : U32
  set : U32
deriving DecidableEq, Repr

/-- A word write (R7): plain and reserved bits take the value, 1 clears a W1C bit, 1 sets a W1S bit and starts an SC bit. -/
def wordWrite (i : RegInfo) (v : U32) : RegWrite :=
  { mask := 0xFFFFFFFF, plain := ~~~(i.w1c ||| i.w1s ||| i.sc ||| i.ro), value := v, clear := v &&& i.w1c, set := v &&& (i.w1s ||| i.sc) }

/-- A write of one bit through its alias (R464): 0 clears a W1C bit. None where the bit is RO or reserved. -/
def bitWrite (i : RegInfo) (n : Nat) (one : Bool) : Option RegWrite :=
  let b : U32 := BitVec.ofNat 32 (2 ^ n)
  if (i.rw ||| i.w1c ||| i.w1s ||| i.sc).getLsbD n then
    some { mask := b, plain := b &&& i.rw, value := if one then b else 0, clear := if one then 0 else b &&& i.w1c,
           set := if one then b &&& (i.w1s ||| i.sc) else 0 }
  else none

/-- The value a write leaves. -/
def RegWrite.apply (w : RegWrite) (old : U32) : U32 := ((((old &&& ~~~w.plain) ||| (w.value &&& w.plain)) &&& ~~~w.clear) ||| w.set)

/-- Counters that hardware also counts in, and whether they saturate (R460). -/
def counterKind (k : Nat) : Option Bool :=
  if k = kDbIgnored ∨ k = kCplDropped ∨ k = kBadWrites ∨ k = kBar4Ur ∨ k = kCrcMismatches then some true
  else if bar0Key + 0x300 ≤ k ∧ k < bar0Key + 0x380 ∧ k % 0x20 = 0x14 then some true
  else if k = kScn 0x10 ∨ k = kCrcSweeps ∨ k = kEvtSets ∨ k = kDrtHalts then some false
  else if 0x10000 ≤ k ∧ k < 0x12000 ∧ k % 0x100 = 0x30 then some false
  else none

/-- Fields that hardware captures, with their block's bit of GLB_WRITE_LOST (R460, R470). -/
def capturedBlock (k : Nat) : Option Nat := if k = kCrcRef then some 2 else if k = kEvtFirst then some 3 else none

/-- A write that a capture drops (R462). -/
def writeLost (block k : Nat) (s : State) : State :=
  let first := decide (s.field kWriteLost 7 0 = 0)
  let s := s.setField kWriteLost block block 1
  let s := if first then s.setRegN kWriteLostAddr (if bar0Key ≤ k then 2 ^ 31 + (k - bar0Key) else k) else s
  raise 0x024 [.h block, .w (k % bar0Key)] s

/-- The stored value after a write and what hardware does to the register in the same clock (R460). -/
def landed (k : Nat) (w : RegWrite) (same : SameClock) (s : State) : U32 :=
  let v := w.apply (s.reg k)
  match same with
  | .hwSet m => match regInfo k with | some i => v ||| (m &&& i.w1c) | none => v
  | .hwAdd n => match counterKind k with
    | some true => BitVec.ofNat 32 (satN 32 (v.toNat + n.toNat))
    | some false => v + n
    | none => v
  | _ => v

/-! ## What a write starts -/

/-- The window base that is written (R395). -/
def windowWritten (s : State) : Nat := (s.field kB4BaseLo 31 28) * 2 ^ 28 + (s.field kB4BaseHi 2 0) * 2 ^ 32
/-- Why a move of the window is refused; 0 where it is not (R392, R395). -/
def windowCause (s : State) (base : Nat) : Nat :=
  if base % apertureSize s ≠ 0 then 1
  else if usable s.store < base + apertureSize s then 2
  else if (delegations s).all (fun v => windowCovers s base v.memStore v.memSize) then 0
  else 3
/-- The window moves to a base, or the move is refused with its cause (R392, R395, R412). -/
def windowMove (base cause : Nat) (s : State) : State :=
  if cause ≠ 0 then raise 0x0E6 [.h cause] ((s.setField kB4Ctrl 1 1 1).setField kB4Ctrl 3 2 cause)
  else raise 0x0E5 [.q base] { s with pcie := { s.pcie with b4Base := base } }
/-- APPLY of the BAR4 window: it clears, and an aperture that covers the store has nowhere to move (R392). -/
def moveWindow (s : State) : State :=
  let s := s.setField kB4Ctrl 0 0 0
  if apertureWhole s then s else windowMove (windowWritten s) (windowCause s (windowWritten s)) s

/-- What every delegated stream may do now. -/
def advanceNvme (s : State) : State := forL (List.finRange 16) nvmeAdvance s

/-- QUIESCE was written: streams issue no command while it is 1 (R410). -/
def quiesceWritten (s : State) : State := settleQuiesce (if quiesceSet s then s else advanceNvme s)

/-- A vector that is no longer masked sends its one pending message (R396). -/
def releaseVector (v : Nat) (s : State) : State :=
  if vectorPending s v ∧ ¬ vectorMasked s v ∧ msixEnabled s ∧ masters s then
    sendVector v (s.setField (kPba (v / 32)) (v % 32) (v % 32) 0)
  else s

/-- SNAP captures the tick in one clock (R471, R472). -/
def snapTick (s : State) : State := (s.setReg64 kSnapLo kSnapHi s.clk.tick).setField kSnapCtrl 0 0 0

/-- CRC_CTRL ENABLE: clearing it closes an open host episode without an event, and a BLANK with it (R469). -/
def crcCtrlWritten (s : State) : State :=
  if s.field kCrcCtrl 0 0 = 1 then s
  else setScn (fun c => { c with crcBlank := c.crcBlank / 2 * 2 }) (s.setField kCrcStatus 0 0 0)

/-- Draught's registers (R325, R329, R332). -/
def drtWritten (o : Nat) (was : U32) (s : State) : State :=
  if o = 0x2000 then (if was.getLsbD 31 ∧ ¬ dmaHalted s then dmaResume s else s)
  else match chanIndex (o / 0x100) with
    | none => s
    | some n =>
      if o % 0x100 = 0x00 then
        if s.field (kDrt n.val 0) 7 7 = 1 then (abortChan false n s).setField (kDrt n.val 0) 7 7 0 else s
      else if o % 0x100 = 0x04 then tryHandOver n s
      else s

/-- The scan-out's registers (R274, R277, R282); until DISP has committed the block takes writes in and acts on them then (R516). -/
def scnWritten (o : Nat) (was : U32) (w : RegWrite) (s : State) : State :=
  if ¬ domainCommitted s 7 then s
  else if o = 0 then
    let s := scnEnableChanged (was.getLsbD 0) s
    if w.set.getLsbD 1 then timingApply s else s
  else if o = 0x20 ∧ w.set.getLsbD 31 then auxGo s
  else s

/-- BAR0's registers (R392, R396, R410, R415). -/
def bar0Written (o : Nat) (w : RegWrite) (s : State) : State :=
  if 0x0100 ≤ o ∧ o < 0x0200 ∧ o % 0x20 = 0x08 then cmdqCtrl (Fin.ofNat 8 ((o - 0x100) / 0x20)) s
  else if 0x0200 ≤ o ∧ o < 0x0300 ∧ o % 0x20 = 0x08 then cplqCtrl (Fin.ofNat 8 ((o - 0x200) / 0x20)) s
  else if 0x0300 ≤ o ∧ o < 0x0380 ∧ o % 0x20 = 0x08 then evqCtrl (Fin.ofNat 4 ((o - 0x300) / 0x20)) s
  else if o = 0x0808 ∧ w.set.getLsbD 0 then moveWindow s
  else if o = 0x0814 then quiesceWritten s
  else if 0x8000 ≤ o ∧ o < 0x10000 ∧ o % 16 = 12 then releaseVector ((o - 0x8000) / 16) s
  else s

/-- What a landed write starts, by its register; was is the value before it. -/
def afterWrite (k : Nat) (was : U32) (w : RegWrite) (s : State) : State :=
  if bar0Key ≤ k then bar0Written (k - bar0Key) w s
  else if k = kSnapCtrl ∧ w.set.getLsbD 0 then snapTick s
  else if k = kCrcCtrl then crcCtrlWritten s
  else if 0x10000 ≤ k ∧ k < 0x20000 then drtWritten (k - 0x10000) was s
  else if 0x20000 ≤ k ∧ k < 0x30000 then scnWritten (k - 0x20000) was w s
  else if 0x30000 ≤ k ∧ k < 0x31000 then brzWritten 0 (k - 0x30000) w.mask was s
  else if 0x31000 ≤ k ∧ k < 0x32000 then brzWritten 1 (k - 0x31000) w.mask was s
  else s

/-! ## Hand-overs in the same clock (R273, R326, R459) -/

/-- The set that a register of a shadow belongs to: 32 + n is Draught channel n, 4 the timing, 0 to 3 a layer; with whether
the register is the set's SHADOW_VALID or TIMING_APPLY. -/
def shadowSet (k : Nat) : Option (Nat × Bool) :=
  if 0x10000 ≤ k ∧ k < 0x12000 then
    if k % 0x100 = 0x08 ∨ k % 0x100 = 0x0C then some (32 + (k - 0x10000) / 0x100, false)
    else if k % 0x100 = 0x04 then some (32 + (k - 0x10000) / 0x100, true) else none
  else if kScn 0x100 ≤ k ∧ k < kScn 0x118 then some (4, false)
  else if k = kScn 0 then some (4, true)
  else if kScn 0x200 ≤ k ∧ k < kScn 0x300 then
    let r := (k - kScn 0x200) % 0x40
    if r < 0x20 ∨ r = 0x28 then some ((k - kScn 0x200) / 0x40, false) else if r = 0x24 then some ((k - kScn 0x200) / 0x40, true) else none
  else none

/-- Whether a set waits for its hand-over. -/
def setWaits (s : State) (x : Nat) : Bool :=
  if 32 ≤ x then (match chanIndex (x - 32) with | some n => shadowValid s n | none => false)
  else if x = 4 then timingApplied s
  else (s.reg (kLayer x 0x24)).getLsbD 0

/-- The hand-over that reaches a set in the clock of a write: the scan-out's next frame start, or Draught's of a channel that has
just taken its set. True where one was taken. -/
def handoverNow (x : Nat) (s : State) : Bool × State :=
  if 32 ≤ x then
    match chanIndex (x - 32) with
    | none => (false, s)
    | some n =>
      if shadowValid s n then (let s' := tryHandOver n s; (!shadowValid s' n, s'))
      else (s.drt.chans[n].state = .ready && s.drt.chans[n].desc.isNone, s)
  else
    let s' := doScanoutFrameStart s
    if setWaits s x ∧ ¬ setWaits s' x then (true, s') else (false, s)

/-- The sticky HANDOVER_RACE bit of a set. -/
def markRace (x : Nat) (s : State) : State :=
  if 32 ≤ x then s.setField (kDrt (x - 32) 0x04) 1 1 1
  else if x = 4 then s.setField (kScn 4) 6 6 1
  else s.setField (kLayer x 0x24) 1 1 1

/-! ## The write -/

/-- A write lands in a register: same-clock conflicts, the stored value, and what the write starts (R458 to R462). -/
def landWrite (k : Nat) (w : RegWrite) (same : SameClock) (s : State) : State :=
  match capturedBlock k, same with
  | some b, .hwCapture => writeLost b k s
  | _, _ =>
    let r := match same, shadowSet k with
      | .handover, some x => (x, handoverNow x.1 s)
      | _, _ => ((0, true), (false, s))
    let s := r.2.2
    let was := s.reg k
    let s := s.setReg k (landed k w same s)
    let s := if r.2.1 ∧ ¬ r.1.2 then markRace r.1.1 s else s
    afterWrite k was w s

/-- A write that lands where its register takes it, and is discarded and counted where none does (R455). -/
def landListed (k : Nat) (w : Option RegWrite) (same : SameClock) (s : State) : State := match w with
  | some w => landWrite k w same s
  | none => badWrite s

/-- Whether a key is a register of converter B's firmware slots, which the host cannot write (R530). -/
def firmwareSlotReg (k : Nat) : Bool := decide (0x31100 + 28 * 0x20 ≤ k ∧ k < 0x31500)

/-- Whether the mailbox registers are closed: every write to them is discarded until the mailbox is ready (R414). -/
def mailboxClosed (s : State) (k : Nat) : Bool := decide (bar0Key ≤ k ∧ k < bar0Key + 0x800) && !mbxReady s

/-- A word write to a register by its key: a register nobody lists, a mirror or a firmware slot discards it and counts it (R455). -/
def writeReg (k : Nat) (v : U32) (same : SameClock) (s : State) : State :=
  if mailboxClosed s k then s
  else if firmwareSlotReg k then badWrite s
  else match regInfo k with
    | none => badWrite s
    | some i => landWrite k (wordWrite i v) same s

/-- The key of a bit-alias offset and its bit (R463). -/
def aliasKey (o : Nat) : Nat × Nat := ((o - 0x2000000) / 128 * 4, (o - 0x2000000) / 4 % 32)

/-- A write to the bit-alias region (R463, R464). -/
def writeAlias (o : Nat) (v : U32) (same : SameClock) (s : State) : State :=
  let a := aliasKey o
  if firmwareSlotReg a.1 then badWrite s
  else landListed a.1 ((regInfo a.1).bind fun i => bitWrite i a.2 (v.getLsbD 0)) same s

/-- Whether a BAR0 offset lies in a listed range (R387). -/
def bar0Listed (o : Nat) : Bool :=
  decide (o < 0x820 ∨ (0x7000 ≤ o ∧ o < 0x7100) ∨ (0x8000 ≤ o ∧ o < 0x10000)) || isDoorbell o

/-- A dword write to a BAR (R387 to R389): BAR0's unlisted ranges discard it without a count, a doorbell takes its low half, BAR2
reaches the window through its aliases and the bit-alias region; a misaligned or partial write is discarded and counted. -/
def writeBar (bar : Bar) (o : Nat) (v : U32) (enables : BitVec 4) (same : SameClock) (s : State) : State :=
  match bar with
  | .bar0 =>
    if 0x10000 ≤ o ∨ ¬ bar0Listed o then s
    else if o % 4 ≠ 0 ∨ enables ≠ 15 then refusedWrite s
    else if isDoorbell o then doorbellDword o v.toNat s
    else writeReg (bar0Key + o) v same s
  | .bar2 =>
    if 0x4000000 ≤ o then s
    else if o % 4 ≠ 0 ∨ enables ≠ 15 then refusedWrite s
    else if 0x2000000 ≤ o then writeAlias o v same s
    else writeReg (o % 0x100000) v same s

/-! ## Rows -/

/-- A register write through BAR0 or BAR2 (R455, R458). -/
def execRegisterWrite (bar : Bar) (offset : Nat) (value : U32) (enables : BitVec 4) (same : SameClock) (s : State) : Host.Outcome State Fault Refusal :=
  .next (barAccess (writeBar bar offset value enables same) s)
/-- A write to the bit-alias region: the offset is one of BAR2 (R463). -/
def doBitAlias (o : Nat) (v : U32) (same : SameClock) (s : State) : State :=
  if o < 0x2000000 ∨ 0x4000000 ≤ o then s else if o % 4 ≠ 0 then refusedWrite s else writeAlias o v same s
def execBitAliasWrite (offset : Nat) (value : U32) (same : SameClock) (s : State) : Host.Outcome State Fault Refusal :=
  .next (barAccess (doBitAlias offset value same) s)

/-- A word write to one named register. -/
def named (k : Nat) (value : U32) (same : SameClock) (s : State) : Host.Outcome State Fault Refusal := .next (barAccess (writeReg k value same) s)

def execScnEnable (value : U32) (s : State) : Host.Outcome State Fault Refusal := named (kScn 0) value .none s
def execTimingApply (value : U32) (same : SameClock) (s : State) : Host.Outcome State Fault Refusal := named (kScn 0) value same s
def execScnShadowValid (layer : Fin 4) (value : U32) (same : SameClock) (s : State) : Host.Outcome State Fault Refusal :=
  named (kLayer layer.val 0x24) value same s
def execScnAuxGo (value : U32) (s : State) : Host.Outcome State Fault Refusal := named (kScn 0x20) value .none s
def execDrtShadowValid (ch : Fin 32) (value : U32) (same : SameClock) (s : State) : Host.Outcome State Fault Refusal :=
  named (kDrt ch.val 0x04) value same s
def execDrtAbort (ch : Fin 32) (value : U32) (s : State) : Host.Outcome State Fault Refusal := named (kDrt ch.val 0) value .none s
def execDmaHaltAck (value : U32) (s : State) : Host.Outcome State Fault Refusal := named kDrtGlb value .none s
def execCrcLearn (value : U32) (s : State) : Host.Outcome State Fault Refusal := named kCrcCtrl value .none s
def execCrcCfgRefWrite (value : U32) (same : SameClock) (s : State) : Host.Outcome State Fault Refusal := named kCrcRef value same s
def execCrcEnable (value : U32) (s : State) : Host.Outcome State Fault Refusal := named kCrcCtrl value .none s
def execSnap (value : U32) (s : State) : Host.Outcome State Fault Refusal := named kSnapCtrl value .none s
def execEvtFirstWrite (value : U32) (same : SameClock) (s : State) : Host.Outcome State Fault Refusal := named kEvtFirst value same s
def execBrzRun (conv : Fin 2) (value : U32) (s : State) : Host.Outcome State Fault Refusal := named (kBrz conv.val 0) value .none s
def execBrzRestart (conv : Fin 2) (value : U32) (s : State) : Host.Outcome State Fault Refusal := named (kBrz conv.val 0) value .none s
def execBrzSlotConfigWrite (conv : Fin 2) (slot : Fin 32) (reg : Fin 4) (value : U32) (s : State) : Host.Outcome State Fault Refusal :=
  named (kBrzSlot conv.val slot.val (4 * reg.val)) value .none s
def execCmdqEnable (q : Fin 8) (ctrl : U32) (s : State) : Host.Outcome State Fault Refusal := named (kCmdq q.val 8) (ctrl ||| 1) .none s
def execCmdqDisable (q : Fin 8) (ctrl : U32) (s : State) : Host.Outcome State Fault Refusal := named (kCmdq q.val 8) (ctrl &&& ~~~1#32) .none s
def execCplqEnable (q : Fin 8) (ctrl : U32) (s : State) : Host.Outcome State Fault Refusal := named (kCplq q.val 8) (ctrl ||| 1) .none s
def execCplqDisable (q : Fin 8) (ctrl : U32) (s : State) : Host.Outcome State Fault Refusal := named (kCplq q.val 8) (ctrl &&& ~~~1#32) .none s
def execEvqEnable (q : Fin 4) (ctrl : U32) (s : State) : Host.Outcome State Fault Refusal := named (kEvq q.val 8) (ctrl ||| 1) .none s
def execEvqDisable (q : Fin 4) (ctrl : U32) (s : State) : Host.Outcome State Fault Refusal := named (kEvq q.val 8) (ctrl &&& ~~~1#32) .none s
/-- A vector's control word with its mask bit 0 (R396). -/
def execMsixVectorUnmask (vector : Fin 2048) (s : State) : Host.Outcome State Fault Refusal := 
  named (kMsix vector.val 12) (s.reg (kMsix vector.val 12) &&& ~~~1#32) .none s
def execBar4WindowApply (value : U32) (s : State) : Host.Outcome State Fault Refusal := named kB4Ctrl value .none s
def execQuiesce (value : U32) (s : State) : Host.Outcome State Fault Refusal := named kHifCtrl value .none s

end Sys2Proof.Machine
end

