-- ==== Sys2Proof/Machine/Squall.lean ====
section
/-! DEFINITION. Trigger and acquisition commands (R207 to R221, R229, R230, R245, R246), the events of Squall, and the group
messages of the links (R222 to R228). -/

namespace Sys2Proof.Machine

/-! ## TRIG_UNIT_CONFIG (R207, R208, R245) -/

/-- The parameter bytes a kind uses from 0x20 (R208). -/
def kindFields (kind : Nat) : List (Nat × Nat) := match kind with
  | 0 => []
  | 1 => [(0x20, 7)]
  | 2 => [(0x20, 14), (0x30, 5)]
  | 3 => [(0x20, 16)]
  | 4 => [(0x20, 11)]
  | 5 => [(0x20, 2), (0x24, 8)]
  | 6 => [(0x20, 2), (0x24, 8)]
  | 7 => [(0x20, 1), (0x22, 6)]
  | 8 => [(0x20, 1)]
  | 9 => []
  | _ => [(0x20, 32)]

/-- Whether an armed AT has a unit in a term, or uses it as its hold-off source (R207). -/
def unitInUse (s : State) (u : Fin 32) : Bool := (List.finRange 16).any fun m =>
  let a := s.squall.ats[m]
  a.armed && ((matrixUnits a).contains u ||
    match a.def_ with | some d => decide (d.holdoffKind = 2 ∧ d.holdoffSrc = u.val) | none => false)

/-- Other attached units that a test picks (R206). -/
def otherUnits (s : State) (u : Fin 32) (p : UnitCfg → Bool) : Nat :=
  ((List.finRange 32).filter fun v => v ≠ u && !s.squall.units[v].detached && p s.squall.units[v].cfg).length

/-- q and c of a command: 0 selects 1. -/
def orOne (n : Nat) : Nat := if n = 0 then 1 else n

/-- The bounds of a signed or, for component 2, unsigned level. -/
def tdLevel (c : Cmd) (o : Nat) : Int := if c.p8 0x20 = 2 then c.p32 o else i32At c.bytes o

/-- The configuration a TRIG_UNIT_CONFIG gives, but for the FMASK points. -/
def unitCfgOf (c : Cmd) : UnitCfg :=
  let k := c.p8 0x09
  let base : UnitCfg := { UnitCfg.reset with kind := k, source := c.p32 0x0C, minDur := orOne (c.p16 0x18), count := orOne (c.p32 0x1C) }
  if k = tkFmask then { base with nMin := c.p16 0x24, mode := c.p8 0x26 }
  else if k = tkDensity then
    { base with binLo := c.p32 0x20, binHi := c.p32 0x24, lvlLo := i16At c.bytes 0x28, lvlHi := i16At c.bytes 0x2A,
                window := c.p16 0x2C, thr := c.p32 0x30, direction := c.p8 0x34 }
  else if k = tkSk then
    { base with binLo := c.p32 0x20, binHi := c.p32 0x24, lower := c.p16 0x28, upper := c.p16 0x2A, nMin := c.p32 0x2C }
  else if k = tkBand then
    { base with binLo := c.p32 0x20, binHi := c.p32 0x24, lvlLo := i16At c.bytes 0x28, direction := c.p8 0x2A }
  else if k = tkLevel then { base with component := c.p8 0x20, mode := c.p8 0x21, lvlHi := tdLevel c 0x24, lvlLo := tdLevel c 0x28 }
  else if k = tkEdge then { base with component := c.p8 0x20, slope := c.p8 0x21, lvlLo := tdLevel c 0x24, hyst := c.p32 0x28 }
  else if k = tkExternal then { base with slope := c.p8 0x20, minWidth := c.p16 0x22, delay := i32At c.bytes 0x24 }
  else if k = tkPeer then { base with anyDid := c.p8 0x20 = 1 }
  else base

/-- The checks of a spectral kind against its task (R206, R208). -/
def spectralChecks (s : State) (u : Fin 32) (c : Cmd) (g : UnitCfg) : List (Nat × Bool) := match liveTask s g.source with
  | none => [(0x0C, false)]
  | some t =>
    let lo := if g.kind = tkSk then t.skFirst else 0
    let hi := if g.kind = tkSk then t.skFirst + t.skSpan else t.coarseBins
    [(0x0C, decide (otherUnits s u (fun x => x.spectral && decide (x.source = g.source)) < 8)), (0x09, g.kind ≠ tkSk || t.desc.sk)] ++
    (if g.kind = tkFmask then
      [(0x20, decide (c.p16 0x20 + c.p16 0x22 ≤ 8192)), (0x24, decide (1 ≤ g.nMin)), (0x26, decide (1 ≤ g.mode ∧ g.mode ≤ 3))]
    else [(0x20, decide (lo ≤ g.binLo ∧ g.binLo < hi)), (0x24, decide (g.binHi < hi)), (0x20, decide (g.binLo ≤ g.binHi))] ++
      (if g.kind = tkDensity then [(0x2C, decide (1 ≤ g.window ∧ g.window ≤ 4096)), (0x30, decide (1 ≤ g.thr ∧ g.thr ≤ 65536)), (0x34, decide (g.direction ≤ 1))]
       else if g.kind = tkSk then [(0x2C, decide (1 ≤ g.nMin ∧ g.nMin ≤ t.skSpan))]
       else [(0x2A, decide (g.direction ≤ 1))]))

/-- The checks of the other kinds (R202, R205, R206, R208). -/
def plainChecks (s : State) (u : Fin 32) (g : UnitCfg) : List (Nat × Bool) :=
  if g.timeDomain then
    let cpx := match inletOfChannel g.source with | some n => s.inlets[n].complex | none => false
    [(0x0C, decide (g.source < 256) && channelNamed s g.source),
     (0x0C, decide (otherUnits s u (fun x => x.timeDomain && decide (x.source % 256 / 8 = g.source / 8)) < 8)),
     (0x20, decide (g.component ≤ 2) && (g.component = 0 || cpx)), (0x21, decide (if g.kind = tkLevel then g.mode ≤ 1 else g.slope ≤ 2))]
  else if g.kind = tkExternal then [(0x0C, decide (g.source ≤ 3)), (0x20, decide (g.slope ≤ 2))]
  else if g.kind = tkPeer then [(0x0C, decide (g.source % 65536 < 16))]
  else [(0x0C, decide (g.source = 0))]

/-- The parameter checks of TRIG_UNIT_CONFIG. -/
def unitParams (s : State) (u : Fin 32) (c : Cmd) : Check :=
  let g := unitCfgOf c
  params ([(0x09, decide (g.kind ≤ 9)), (0x09, decide (g.kind < tkExternal ∨ g.minDur = 1)),
    (0x10, if g.kind = tkFmask then aligned64 (c.p64 0x10) else decide (c.p64 0x10 = 0)), (0x20, g.kind ≠ tkPeer || decide (c.p8 0x20 ≤ 1))] ++
    if g.spectral then spectralChecks s u c g else plainChecks s u g)

/-- The FMASK points of a buffer: (bin, level). -/
def maskPoints (d : Data) (first n : Nat) : List (Nat × Int) :=
  (List.range n).map fun i => (u32At d ((first + i) * 8), i16At d ((first + i) * 8 + 4))
/-- The checks of the points: in the task's bins, strictly increasing, reserved zero (R198, R206). -/
def pointChecks (bins nu nl : Nat) (d : Data) : Check :=
  let one := fun first n => (List.range n).flatMap fun i =>
    let o := (first + i) * 8
    [(o, decide (u32At d o < bins)), (o + 6, decide (u16At d (o + 6) = 0)),
     (o, decide (n ≤ i + 1 ∨ u32At d o < u32At d (o + 8)))]
  descParams (one 0 nu ++ one nu nl)

/-- The index from which a new unit steps: the lowest not passed (R195), or the SK block in progress. -/
def firstIndex (s : State) (g : UnitCfg) : Nat := match findTask s g.source with
  | some t => if g.kind = tkSk then (if t.desc.twoStage then t.coarsePub else t.kNext) / 2 ^ t.desc.skMLog2
              else if t.desc.twoStage then t.coarsePub else t.kPub
  | none => 0

/-- Configure a unit: no run, no occurrences, an empty fire memory, counters afresh (R207). -/
def configureUnit (u : Fin 32) (g : UnitCfg) (s : State) : State :=
  let s := { s with squall := { s.squall with pendingEdges := s.squall.pendingEdges.filter (·.unit ≠ u.val) } }
  setUnit u (fun _ => { TrigUnit.reset with cfg := g, nextIndex := if g.spectral then firstIndex s g else 0 }) s

/-- TRIG_UNIT_CONFIG without QUERY (R207). -/
def doTrigUnitConfig (points : HostRead) (c : Cmd) (s : State) : State :=
  let s := squallDue s
  let used := [(0x08, 1), (0x09, 1), (0x0A, 2), (0x0C, 4), (0x10, 8), (0x18, 2), (0x1C, 4)] ++ kindFields (c.p8 0x09)
  match firstFail [entryCheck c used [(0x0A, decide (c.p16 0x0A = 0)), (0x08, decide (c.p8 0x08 < 32))], deviceCheck s c] with
  | some f => fail c f s
  | none => match unitIndex (c.p8 0x08) with
    | none => s
    | some u => checked c [needState (!unitInUse s u), unitParams s u c] (fun s =>
        let g := unitCfgOf c
        if g.kind = tkFmask then withBuffer c points (fun d s =>
            let nu := c.p16 0x20
            let nl := c.p16 0x22
            checked c [pointChecks (match findTask s g.source with | some t => t.coarseBins | none => 0) nu nl d] (fun s =>
              done c 0 0 (configureUnit u { g with upperMask := maskPoints d 0 nu, lowerMask := maskPoints d nu nl } s)) s) s
        else done c 0 0 (configureUnit u g s)) s

/-- The QUERY bit of TRIG_UNIT_CONFIG. -/
def unitQuery (c : Cmd) : Bool := bit (c.p16 0x0A) 0

def execTrigUnitConfig (id : Nat) (points : HostRead) (s : State) : Host.Outcome State Fault Refusal :=
  .next (runCmd id 0x0400 (fun c => !unitQuery c) (doTrigUnitConfig points) s)

/-- The status block of a unit (R245). -/
def unitStatus (u : Fin 32) (t : TrigUnit) : Data :=
  le 1 u.val ++ le 1 t.cfg.kind ++ le 2 (b2n t.condition + 2 * b2n t.detached) ++ le 4 (satN 32 t.runLen) ++ le 8 t.steps ++
  le 8 t.occurrences ++ le 8 t.fires ++ le 8 t.lastFire ++ le 4 t.late ++ le 4 t.gapSteps ++ le 4 t.progress ++
  le 4 t.worstLatency ++ le 8 0

/-- TRIG_UNIT_CONFIG with QUERY checks the unit and the address alone (R207). -/
def doTrigUnitQuery (c : Cmd) (s : State) : State :=
  checked c [params [(0x08, decide (c.p8 0x08 < 32)), (0x10, aligned64 (c.p64 0x10))], deviceCheck s c] (fun s =>
    match unitIndex (c.p8 0x08) with
    | some u => done c 0 0 (writeBlock c (c.p64 0x10) (unitStatus u s.squall.units[u]) s)
    | none => s) s

def execTrigUnitQuery (id : Nat) (s : State) : Host.Outcome State Fault Refusal := .next (runCmd id 0x0400 unitQuery doTrigUnitQuery s)

/-! ## TRIG_MATRIX_CONFIG (R213, R246) -/

/-- Four u32 terms at an offset. -/
def fourWords (c : Cmd) (o : Nat) : List Nat := (List.range 4).map fun i => c.p32 (o + 4 * i)
def matrixQuery (c : Cmd) : Bool := bit (c.p8 0x09) 7

/-- TRIG_MATRIX_CONFIG without QUERY (R213). -/
def doTrigMatrixConfig (c : Cmd) (s : State) : State :=
  let s := squallDue s
  let fl := c.p8 0x09
  let seq := bit fl 0
  let used := [(0x08, 1), (0x09, 1), (0x0A, 1), (0x0C, 4), (0x10, 32), (0x30, 4), (0x34, 2), (0x38, 4)]
  match firstFail [entryCheck c used [(0x08, decide (c.p8 0x08 < 16)), (0x09, decide (fl % 128 < 4))], deviceCheck s c] with
  | some f => fail c f s
  | none => match atIndex (c.p8 0x08) with
    | none => s
    | some m =>
      let t2 := fourWords c 0x20
      checked c [needState (!s.squall.ats[m].armed),
        params [(0x09, seq || t2.all (· = 0)), (0x0A, decide (c.p8 0x0A < 16)), (0x0C, decide (c.p32 0x0C ≤ 1048576)),
                (0x30, !seq || decide (1 ≤ c.p32 0x30))]] (fun s =>
        let cfg : MatrixCfg :=
          { seq := seq, export_ := bit fl 1, outMask := c.p8 0x0A, coinc := c.p32 0x0C, term1 := fourWords c 0x10, term2 := t2,
            seqWindow := c.p32 0x30, outWidth := c.p16 0x34, outDelay := c.p32 0x38 }
        let old := match s.squall.ats[m].matrix with | some o => o.slots | none => []
        let s := setAt m (fun a => { a with matrix := some cfg, firstSteps := [], secondSteps := [] }) s
        done c 0 0 (forL (List.finRange 32) (fun u s => setUnit u (fun t => t.newTerms u.val m.val old cfg.slots) s) s)) s

def execTrigMatrixConfig (id : Nat) (s : State) : Host.Outcome State Fault Refusal :=
  .next (runCmd id 0x0401 (fun c => !matrixQuery c) doTrigMatrixConfig s)

/-- State of R246: unconfigured, idle, armed, held off. -/
def atState (s : State) (a : AcqTrigger) : Nat :=
  if a.matrix.isNone then 0
  else if ¬ a.armed then 1
  else
    let held := if a.group then decide (s.clk.tick < a.rearmTick) else match a.def_, a.heldFrom with
      | some d, some f => (d.holdoffKind = 1 && decide (s.clk.tick < f + d.holdoff)) || (d.holdoffKind = 2 && a.holdDone.isNone)
      | _, _ => false
    if held then 3 else 2
/-- The tick from which satisfactions may fire again; 0 where no fire has set one. -/
def atRearm (a : AcqTrigger) : Nat :=
  if a.group then a.rearmTick else match a.def_, a.heldFrom with
    | some d, some f => if d.holdoffKind = 0 then f + 1 else if d.holdoffKind = 1 then f + d.holdoff
                        else (match a.holdDone with | some t => t + 1 | none => 0)
    | _, _ => 0

/-- The AT status block (R246). -/
def atStatus (s : State) (m : Fin 16) : Data :=
  let a := s.squall.ats[m]
  le 1 m.val ++ le 1 (atState s a) ++ le 1 a.armMode ++ le 1 (b2n a.partial_) ++ le 4 a.armSeq ++ le 8 a.armTick ++ le 8 a.fires ++
  le 8 a.lastTrig ++ le 4 a.late ++ le 4 a.suppressed ++ le 4 a.dropped ++ le 4 a.heldOffCount ++ le 4 a.complete ++ le 4 a.copyGaps ++
  le 4 ((acqsInFlight s).filter (·.at_ = m.val)).length ++ le 4 (if a.group then a.settle else 0) ++ le 8 a.lastAddr ++ le 8 a.lastBytes ++
  le 4 a.lastNo ++ le 2 (if a.group then a.members.length else 0) ++ le 2 (if a.group then a.hops else 0) ++ le 8 (atRearm a) ++
  le 4 a.outLate ++ le 4 a.ineligible ++ zeros 24

/-- TRIG_MATRIX_CONFIG with QUERY checks the AT and the address alone (R213). -/
def doTrigMatrixQuery (c : Cmd) (s : State) : State :=
  let s := squallDue s
  checked c [params [(0x08, decide (c.p8 0x08 < 16)), (0x10, aligned64 (c.p64 0x10))], deviceCheck s c] (fun s =>
    match atIndex (c.p8 0x08) with
    | some m => done c 0 0 (writeBlock c (c.p64 0x10) (atStatus s m) s)
    | none => s) s

def execTrigMatrixQuery (id : Nat) (s : State) : Host.Outcome State Fault Refusal := .next (runCmd id 0x0401 matrixQuery doTrigMatrixQuery s)

/-! ## ACQ_CONFIG (R222, R229, R230) -/

/-- The definition a descriptor gives. -/
def acqDefOf (d : Data) : AcqDef :=
  { armMode := u8At d 3, content := u8At d 4, reduction := u8At d 5, cont := u8At d 6, stream := u8At d 7, chMask := u32At d 8,
    d := u32At d 0x0C, a := u32At d 0x10, holdoffKind := u8At d 0x14, holdoffSrc := u8At d 0x15, groupId := u16At d 0x16,
    preTicks := u64At d 0x18, postTicks := u64At d 0x20, holdoff := u64At d 0x28,
    tasks := (List.range 4).map fun i => u32At d (0x30 + 4 * i), masterDid := u16At d 0x40, settle := u32At d 0x44,
    headPostTicks := u64At d 0x48, crc := crc32c d }

/-- The parameter checks of a descriptor that sets a definition (R229, R230). -/
def acqChecks (s : State) (g : AcqDef) : Check :=
  let dec := g.reduction = 1 ∨ g.reduction = 3
  let avg := 2 ≤ g.reduction
  let raw := bit g.content 0
  let spectra := bit g.content 1
  let grp := 2 ≤ g.armMode
  descParams ([(0x03, decide (g.armMode ≤ 3)), (0x03, !decide (grp ∧ g.holdoffKind = 2)),
    (0x04, decide (1 ≤ g.content ∧ g.content ≤ 3)), (0x04, !raw || decide (g.chMask ≠ 0)), (0x04, !spectra || g.tasks.any (· ≠ 0)),
    (0x05, decide (g.reduction ≤ 3)),
    (0x05, !decide avg || g.slots.all fun x => match findTask s x.2 with | some t => !t.desc.complexFormat | none => true),
    (0x06, decide (g.cont ≤ 1)), (0x06, !decide (g.cont = 1 ∧ g.stream = 0xFF)), (0x07, decide (g.stream ≤ 15 ∨ g.stream = 0xFF)),
    (0x08, g.channels.all (channelNamed s)),
    (0x0C, decide (if dec then 1 ≤ g.d ∧ g.d ≤ 65536 else g.d = 1)), (0x10, decide (if avg then 2 ≤ g.a ∧ g.a ≤ 65536 else g.a = 1)),
    (0x14, decide (g.holdoffKind ≤ 2)), (0x15, decide (g.holdoffSrc ≤ 47)),
    (0x18, decide (g.preTicks ≤ acqReach s g)), (0x20, decide (1 ≤ g.postTicks ∧ g.postTicks ≤ 2 ^ 48)),
    (0x28, decide (if g.holdoffKind = 0 then True else if g.holdoffKind = 1 then 1 ≤ g.holdoff ∧ g.holdoff ≤ 2 ^ 48 else 1 ≤ g.holdoff ∧ g.holdoff ≤ 2 ^ 32)),
    (0x48, decide (if g.cont = 1 then g.headPostTicks ≤ g.postTicks else g.headPostTicks = 0))] ++
    (if spectra then ((List.range 4).zip g.tasks).map fun x => (0x30 + 4 * x.1, decide (x.2 = 0) || (liveTask s x.2).isSome) else []))

/-- The SPECTRA bytes that retention of a task's records for a span needs (R230). -/
def retentionBytes (t : Task) (ticks : Nat) : Nat := ceilDiv (t.outKbs * ticks) 1280000
/-- Whether a group AT's definition names another device as its master, and so waits for its acknowledgement (R222). -/
def AcqDef.registers (g : AcqDef) (s : State) : Bool := decide (2 ≤ g.armMode ∧ g.masterDid ≠ s.link.did)
/-- A definition takes effect: its AT starts afresh. -/
def putDefinition (m : Fin 16) (g : AcqDef) (s : State) : State :=
  setAt m (fun a => { a with def_ := some g, registering := none, heldFrom := none, rearmTick := 0, round := [], decided := none, members := [] }) s
/-- A definition waits for its master's acknowledgement; the one before it stands until then (R222, R427). -/
def holdDefinition (m : Fin 16) (g : AcqDef) (id : Nat) (s : State) : State :=
  setAt m (fun a => { a with registerCmd := some id, registerAt := s.clk.up, registering := some g }) s
/-- Whether SPECTRA has room for the retentions of all tasks and their corner-turn blocks, with a new definition of an AT (R230). -/
def retentionFits (s : State) (m : Fin 16) (g : AcqDef) : Bool := match s.store.region rtSpectra with
  | none => decide (g.slots = [])
  | some r =>
    let u := if g.registers s then holdDefinition m g 0 s else putDefinition m g s
    g.slots = [] || decide ((s.tasks.map fun t => retentionBytes t (retainTicks u t.id) + t.desc.cornerBytes).sum ≤ r.size)

/-- The message of a group registration or its acknowledgement (R222, R345): the command's number as tag, L_dec in addr, the
group in aux 15:0, the AT in 19:16, the acknowledgement in bit 20 (log 24). -/
def sendRegistration (did group at_ lDec : Nat) (tag : U32) (ack : Bool) (s : State) : State :=
  send (mkPacket s ptMsg 5 did tag lDec (group + at_ * 2 ^ 16 + b2n ack * 2 ^ 20)) s

/-- A member enters a master's books, or renews its entry (R222). -/
def registerMember (m : Fin 16) (did lDec dist : Nat) (s : State) : State :=
  setAt m (fun a => { a with members := a.members.filter (·.did ≠ did) ++ [⟨did, lDec, false, dist⟩] }) s

/-- Set an AT's definition; a group member registers with its master, and the command waits for the acknowledgement (R222). -/
def setDefinition (m : Fin 16) (g : AcqDef) (c : Cmd) (s : State) : State :=
  let r0 := acqNeed s g
  let r1 := acqReach s g
  if g.registers s then
    wait c (sendRegistration g.masterDid g.groupId m.val (decisionBound s s.squall.ats[m]) (BitVec.ofNat 32 c.id) false (holdDefinition m g c.id s))
  else
    let s := putDefinition m g s
    if g.armMode < 2 then done c r0 r1 s
    else done c r0 r1 (registerMember m g.masterDid (decisionBound s s.squall.ats[m]) 0 s)

/-- ACQ_CONFIG (R229, R230). -/
def doAcqConfig (desc : HostRead) (c : Cmd) (s : State) : State :=
  let s := squallDue s
  checked c [entryCheck c [(0x08, 4), (0x10, 8)] [], deviceCheck s c,
    params [(0x08, decide (c.p32 0x08 = 256)), (0x10, aligned64 (c.p64 0x10))]] (fun s => withBuffer c desc (fun d s =>
      let at_ := u8At d 2
      match firstFail [descParams ([(0x00, decide (u16At d 0 = 1)), (0x02, decide (at_ < 16))] ++ strayBytes d 0x42 0x44 [] ++ strayBytes d 0x50 0x100 [])] with
      | some f => fail c f s
      | none => match atIndex at_ with
        | none => s
        | some m =>
          let g := acqDefOf d
          let a := s.squall.ats[m]
          checked c [needState (!a.armed && a.registerCmd.isNone)] (fun s =>
            if g.armMode = 0xFF then done c 0 0 (setAt m (fun a => { a with def_ := none, members := [], round := [], decided := none }) s)
            else checked c [acqChecks s g, need (retentionFits s m g) stNoResource 0] (setDefinition m g c) s) s) s) s

def execAcqConfig (id : Nat) (desc : HostRead) (s : State) : Host.Outcome State Fault Refusal := .next (runCmd id 0x0402 anyCmd (doAcqConfig desc) s)

/-- No acknowledgement within 1 ms: ACQ_CONFIG completes with E_LINK and has had no effect: the AT keeps the definition it had (R222,
R427). -/
def doGroupRegistrationTimeout (m : Fin 16) (s : State) : State := match s.squall.ats[m].registerCmd with
  | none => s
  | some id =>
    let s := waitUp (s.squall.ats[m].registerAt + msTicks) s
    let did := match s.squall.ats[m].registering with | some d => d.masterDid | none => 0
    let s := setAt m (fun a => { a with registerCmd := none, registering := none }) s
    match findCmd s id with
    | some c => complete c stLink 0 0 did s
    | none => s

def execGroupRegistrationTimeout (at_ : Fin 16) (s : State) : Host.Outcome State Fault Refusal := .next (doGroupRegistrationTimeout at_ s)

/-! ## ARM (R217, R224) -/

/-- Whether the sources of an AT's definition are there (R217): raw inlets RUNNING, spectral tasks live. -/
def sourcesReady (s : State) (g : AcqDef) : Bool :=
  (g.inlets.all fun n => s.inlets[n].state = .running) && g.slots.all fun x => (liveTask s x.2).isSome

/-- E_STATE causes of ARM for one AT (R217). -/
def armable (s : State) (m : Fin 16) : Bool :=
  let a := s.squall.ats[m]
  match a.def_, a.matrix with
  | some g, some c => c.term1.any (· ≠ 0) && !a.armed && a.registerCmd.isNone && sourcesReady s g && (decide (g.armMode < 2) || decide (g.masterDid = s.link.did))
  | _, _ => false
/-- E_RECORD_TOO_LARGE for one AT (R237). -/
def recordFits (s : State) (m : Fin 16) : Bool := match s.squall.ats[m].def_, s.store.region rtAcq with
  | some g, some r => decide (acqNeed s g ≤ r.size)
  | _, _ => false

/-- Arm an AT at a tick under an arm_seq (R217). -/
def armOne (m : Fin 16) (seq tick : Nat) (s : State) : State :=
  let s := setAt m (fun a =>
    { a with armed := true, partial_ := false, armSeq := seq, armTick := tick, disarmTick := none, disarmAbort := false,
             heldFrom := none, holdCount := 0, holdDone := none, rearmTick := 0, round := [], decided := none }) s
  raiseAt (evAt m 1) tick [.h m.val, .w seq, .q tick] s

/-- Hops on the path between two members, each link counted as R361 counts it: at the root over the enumeration tree; at another
master, which knows how far each member is and by which port alone, the longest that the path can be (R223; log 25). -/
def memberHops (l : Link) (a b : Member) : Nat :=
  if a.did = b.did then 0
  else if l.known.any (·.did = a.did) ∨ l.known.any (·.did = b.did) then
    let pa := treePath l (l.known.length + 1) a.did
    let pb := treePath l (l.known.length + 1) b.did
    let apart := fun (p q : List (Nat × Nat)) => ((p.filter fun x => !q.any (·.1 = x.1)).map Prod.snd).sum
    apart pa pb + apart pb pa
  else match routePort l a.did, routePort l b.did with
    | some n, some k => if n = k then max 1 (a.dist + b.dist - 2 * portHops l.ports[n]) else a.dist + b.dist
    | _, _ => a.dist + b.dist
/-- H over the registered members (R223). -/
def groupHops (l : Link) (members : List Member) : Nat :=
  (members.flatMap fun a => members.map fun b => memberHops l a b).foldl max 0

/-- The payload of GROUP_ARM: S, H, and the members' DIDs (log 24). -/
def armPayload (settle hops : Nat) (members : List Member) : Data := le 4 settle ++ le 2 hops ++ le 2 members.length ++ members.flatMap fun x => le 2 x.did

/-- Compute H and S at the master and announce the arming of a group AT (R223, R224). -/
def announceArm (m : Fin 16) (tick : Nat) (s : State) : State :=
  let s := registerMember m s.link.did (decisionBound s s.squall.ats[m]) 0 s
  let a := s.squall.ats[m]
  let h := groupHops s.link a.members
  let l := (a.members.map (·.lDec)).foldl max 0
  let st := max (match a.def_ with | some d => d.settle | none => 0) (settleMin l h)
  let s := setAt m (fun a => { a with hops := h, settle := st, armSeq := (a.armSeq + 1) % 2 ^ 32,
                                      members := a.members.map fun x => { x with confirmed := decide (x.did = s.link.did) } }) s
  forL (s.squall.ats[m].members.filter (·.did ≠ s.link.did)) (fun x s =>
    sendTrig m 3 x.did s.squall.ats[m].armSeq tick 0 (armPayload st h a.members) s) s

/-- The ATs of a mask. -/
def atsOf (mask : Nat) : List (Fin 16) := (List.finRange 16).filter fun m => bit mask m.val

/-- ARM (R217, R224): local ATs at once, with a group AT at a tick 100 us ahead that its members confirm. -/
def doArm (c : Cmd) (s : State) : State :=
  let s := squallDue s
  let l := atsOf (c.p16 0x08)
  checked c [entryCheck c [(0x08, 2)] [], deviceCheck s c, needState (l.all (armable s)),
    (match l.find? (fun m => !recordFits s m) with | some m => some (stRecordTooLarge, m.val) | none => none)] (fun s =>
      if l.any fun m => s.squall.ats[m].group then
        let tick := s.clk.tick + 100 * usTicks
        let s := forL (l.filter fun m => s.squall.ats[m].group) (fun m s => announceArm m tick s) s
        wait c { s with squall := { s.squall with pendingArms := s.squall.pendingArms ++ [⟨some c.id, c.p16 0x08, tick, false⟩] } }
      else
        let now := s.clk.tick
        done c now 0 (forL l (fun m s => armOne m ((s.squall.ats[m].armSeq + 1) % 2 ^ 32) now s) s)) s

def execArm (id : Nat) (s : State) : Host.Outcome State Fault Refusal := .next (runCmd id 0x0403 anyCmd doArm s)

/-- The pending group arm of an AT. -/
def pendingArmOf (s : State) (m : Fin 16) : Option PendingArm := s.squall.pendingArms.find? fun p => bit p.mask m.val
def dropPendingArm (p : PendingArm) (s : State) : State :=
  { s with squall := { s.squall with pendingArms := s.squall.pendingArms.filter (· ≠ p) } }

/-- The groups of a mask of ATs. -/
def groupsOf (mask : Nat) (s : State) : List (Fin 16) := (atsOf mask).filter fun g => s.squall.ats[g].group
/-- The members of groups that have not confirmed the arm. -/
def unconfirmed (groups : List (Fin 16)) (s : State) : List Nat :=
  groups.flatMap fun g => (s.squall.ats[g].members.filter (!·.confirmed)).map (·.did)
/-- Every member has confirmed: the arm waits for its tick. -/
def passDeadline (p : PendingArm) (s : State) : State :=
  { s with squall := { s.squall with pendingArms := s.squall.pendingArms.map fun x => if x = p then { x with deadlinePassed := true } else x } }
/-- A member has not confirmed: every other member is told to disarm, and ARM fails with its DID. -/
def rejectArm (p : PendingArm) (groups : List (Fin 16)) (id d : Nat) (s : State) : State :=
  let s := dropPendingArm p s
  let s := forL groups (fun g s => forL (s.squall.ats[g].members.filter (·.did ≠ s.link.did)) (fun x s =>
    sendTrig g 4 x.did s.squall.ats[g].armSeq s.clk.tick 0 [] s) s) s
  match findCmd s id with
  | some c => complete c stLink 0 0 d s
  | none => s
/-- The deadline of an arm of command id. -/
def armDeadline (p : PendingArm) (id : Nat) (s : State) : State :=
  let groups := groupsOf p.mask s
  match unconfirmed groups s with
  | [] => passDeadline p s
  | d :: _ => rejectArm p groups id d s
/-- The deadline of an arm: 10 us before its tick. -/
def PendingArm.deadline (p : PendingArm) : Nat := p.tick - 10 * usTicks

/-- 10 us before the arm tick a missing confirmation disarms every member and rejects ARM with E_LINK (R224). -/
def doArmDeadline (m : Fin 16) (s : State) : State := match pendingArmOf s m with
  | none => s
  | some p => match p.cmd with
    | none => s
    | some id => armDeadline p id (waitTick p.deadline s)

def execGroupArmConfirmDeadline (at_ : Fin 16) (s : State) : Host.Outcome State Fault Refusal := .next (doArmDeadline at_ s)

/-- At the arm tick every AT of the arming is armed, and the master completes ARM (R224). -/
def doGroupArmTick (m : Fin 16) (s : State) : State := match pendingArmOf s m with
  | none => s
  | some p =>
    if p.cmd.isSome ∧ ¬ p.deadlinePassed then s
    else
      let s := waitTick p.tick s
      let s := forL (atsOf p.mask) (fun g s =>
        armOne g (if s.squall.ats[g].group then s.squall.ats[g].armSeq else (s.squall.ats[g].armSeq + 1) % 2 ^ 32) p.tick s) (dropPendingArm p s)
      match p.cmd with
      | none => s
      | some id => match findCmd s id with
        | some c => done c p.tick (((atsOf p.mask).filter fun g => s.squall.ats[g].group).map fun g => s.squall.ats[g].members.length).sum s
        | none => s

def execGroupArmTick (at_ : Fin 16) (s : State) : Host.Outcome State Fault Refusal := .next (doGroupArmTick at_ s)

/-! ## DISARM (R219, R224) -/

/-- The disarm tick of an AT: the tick of processing, for a group AT 100 us ahead (R219, R224). -/
def disarmTickOf (s : State) (m : Fin 16) : Nat := if s.squall.ats[m].group then s.clk.tick + 100 * usTicks else s.clk.tick
/-- The disarm of ATs of a mask at one tick, until no earlier satisfaction can still be decided (R219). -/
def pendDisarm (cmd : Option Nat) (l : List (Fin 16)) (tick due cause : Nat) (s : State) : State :=
  if l = [] then s else { s with squall := { s.squall with pendingDisarms := s.squall.pendingDisarms ++ [⟨cmd, ofBits (l.map (·.val)), tick, due, cause⟩] } }
/-- The largest decision bound of ATs. -/
def largestBound (s : State) (l : List (Fin 16)) : Nat := (l.map fun m => decisionBound s s.squall.ats[m]).foldl max 0

/-- DISARM (R219): every armed AT of the mask, E_STATE if one was not armed. Beside a group AT the local ones keep their own disarm tick;
the command completes with the group's, when the last is disarmed. -/
def doDisarm (c : Cmd) (s : State) : State :=
  let s := squallDue s
  checked c [entryCheck c [(0x08, 2), (0x0A, 1)] [(0x0A, decide (c.p8 0x0A < 2))], deviceCheck s c] (fun s =>
    let l := atsOf (c.p16 0x08)
    let live := l.filter fun m => s.squall.ats[m].armed && s.squall.ats[m].disarmTick.isNone
    let group := live.filter fun m => s.squall.ats[m].group
    let own := live.filter fun m => !s.squall.ats[m].group
    let now := s.clk.tick
    let then_ := now + 100 * usTicks
    let ownDue := now + largestBound s own
    let groupDue := then_ + largestBound s group
    let s := forL live (fun m s =>
      let tick := disarmTickOf s m
      let s := beginDisarm m tick (bit (c.p8 0x0A) 0) s
      if s.squall.ats[m].group then forL (s.squall.ats[m].members.filter (·.did ≠ s.link.did)) (fun x s =>
        sendTrig m 4 x.did s.squall.ats[m].armSeq tick 0 (le 1 (c.p8 0x0A)) s) s else s) s
    let cmd := if live.length = l.length then some c.id else none
    let s := if group = [] then pendDisarm cmd own now ownDue 0 s
      else pendDisarm cmd group then_ (max ownDue groupDue) 0 (pendDisarm none own now ownDue 0 s)
    if cmd.isSome then wait c s else complete c stState 0 0 0 s) s

def execDisarm (id : Nat) (s : State) : Host.Outcome State Fault Refusal := .next (runCmd id 0x0404 anyCmd doDisarm s)

/-- At t_d plus the decision bound no earlier satisfaction can be decided: the ATs are disarmed and DISARM completes (R219). -/
def doDisarmBound (id : Nat) (s : State) : State := match s.squall.pendingDisarms.find? (fun d => d.cmd = some id) with
  | none => s
  | some d =>
    let s := squallDue (waitTick d.due s)
    let s := { s with squall := { s.squall with pendingDisarms := s.squall.pendingDisarms.filter (· ≠ d) } }
    let s := endDisarms d s
    match findCmd s id with
    | some c => done c d.tick 0 s
    | none => s

def execDisarmDecisionBoundElapsed (id : Nat) (s : State) : Host.Outcome State Fault Refusal := .next (doDisarmBound id s)

/-! ## FORCE_FIRE (R221) -/

/-- A forced fire at a tick: an AT fires whatever its terms and hold-off, a group AT sends a group fire; a unit steps. -/
def applyForce (p : PendingForce) (s : State) : State :=
  if p.target = 0 then match atIndex p.index with
    | some m =>
      let a := s.squall.ats[m]
      if ¬ a.armed ∨ a.armSeq ≠ p.armSeq ∨ a.shut p.tick then s
      else if a.group then groupFire m p.tick 0 true s
      else fireAt m p.tick 0 false true s
    | none => s
  else match unitIndex p.index with
    | some u => if s.squall.units[u].cfg.kind = tkSoftware ∧ ¬ s.squall.units[u].detached then ownStep u p.tick 0 s else s
    | none => s

/-- Apply a forced fire now, or hold it until its tick. -/
def forceAt (p : PendingForce) (s : State) : State :=
  if p.tick ≤ s.clk.tick then applyForce p s
  else { s with squall := { s.squall with pendingForces := s.squall.pendingForces ++ [p] } }

/-- The tick a FORCE_FIRE uses. -/
def forceTick (c : Cmd) (s : State) : Nat := if c.p64 0x10 = 0 then s.clk.tick else c.p64 0x10
def forceUsed : List (Nat × Nat) := [(0x08, 1), (0x09, 1), (0x10, 8)]

/-- FORCE_FIRE of an AT. -/
def doForceFireAt (c : Cmd) (s : State) : State :=
  let s := squallDue s
  let tick := forceTick c s
  checked c [entryCheck c forceUsed [(0x08, decide (c.p8 0x08 < 2)), (0x09, decide (c.p8 0x09 < 16))], deviceCheck s c] (fun s =>
    match atIndex (c.p8 0x09) with
    | none => s
    | some m =>
      let a := s.squall.ats[m]
      checked c [needState a.armed, params [(0x10, decide (a.armTick ≤ tick ∧ tick ≤ s.clk.tick + 2 ^ 30))]] (fun s =>
        done c tick 0 (forceAt ⟨0, m.val, tick, a.armSeq⟩ s)) s) s

/-- FORCE_FIRE of a unit, which must be of kind SOFTWARE. -/
def doForceFireUnit (c : Cmd) (s : State) : State :=
  let s := squallDue s
  let tick := forceTick c s
  checked c [entryCheck c forceUsed [(0x08, decide (c.p8 0x08 < 2)), (0x09, decide (c.p8 0x09 < 32))], deviceCheck s c] (fun s =>
    match unitIndex (c.p8 0x09) with
    | none => s
    | some u =>
      checked c [params [(0x08, decide (s.squall.units[u].cfg.kind = tkSoftware))]] (fun s =>
        done c tick 0 (forceAt ⟨1, u.val, tick, 0⟩ s)) s) s

/-- Target 1 is a unit; any other value goes with the AT form, which rejects what is neither. -/
def execForceFireAt (id : Nat) (s : State) : Host.Outcome State Fault Refusal := .next (runCmd id 0x0405 (fun c => c.p8 0x08 ≠ 1) doForceFireAt s)
def execForceFireUnit (id : Nat) (s : State) : Host.Outcome State Fault Refusal := .next (runCmd id 0x0405 (selByte 0x08 1) doForceFireUnit s)

/-- The earliest pending forced fire is reached (R221). -/
def doForceTick (s : State) : State := match sortBy (·.tick) s.squall.pendingForces with
  | [] => s
  | p :: _ => applyForce p (squallDue (waitTick p.tick { s with squall := { s.squall with pendingForces := s.squall.pendingForces.erase p } }))

def execForceFireTickReached (s : State) : Host.Outcome State Fault Refusal := .next (doForceTick s)

/-! ## Pins (R203, R214) -/

/-- Whether an edge on a pin qualifies for a unit: its pin, its slope, and a new level held for min_width ticks (R203). -/
def TrigUnit.takesEdge (t : TrigUnit) (pin : Fin 4) (rising : Bool) (held : Nat) : Bool :=
  decide (t.cfg.kind = tkExternal ∧ t.cfg.source = pin.val ∧ t.cfg.minWidth ≤ held) && !t.detached &&
    decide (t.cfg.slope = 2 ∨ t.cfg.slope = if rising then 0 else 1)
/-- The edge of a unit whose pin's first 2.56 GHz sample at the new level is the half-tick half: its time is less the unit's delay in
1/65,536 tick, and it qualifies min_width ticks on (R203). -/
def edgeOf (u : Fin 32) (t : TrigUnit) (half : Nat) : PendingEdge :=
  let time := ((half * 32768 : Nat) : Int) - t.cfg.delay
  ⟨u.val, ceilDiv half 2 + t.cfg.minWidth, codeOf 64 (time.fdiv 65536), codeOf 16 time⟩
/-- An edge on a TRIG_IN pin: each unit that takes it steps once the pin has held its new level for the unit's own min_width. -/
def doTrigInEdge (pin : Fin 4) (rising : Bool) (frac : U16) (held : Nat) (s : State) : State :=
  let half := ceilDiv (s.clk.tick * 65536 + frac.toNat) 32768
  let new := ((List.finRange 32).filter fun u => s.squall.units[u].takesEdge pin rising held).map fun u => edgeOf u s.squall.units[u] half
  let s := { s with squall := { s.squall with pendingEdges := s.squall.pendingEdges ++ new } }
  qualifyEdges (if new = [] then s else waitTick (ceilDiv half 2) s)

/-- An edge on a pin that a unit watches also wakes the engine from a deep Lull state (R499); while boundary scan holds the pins no
edge arrives (R554). -/
def trigInEdge (pin : Fin 4) (rising : Bool) (frac : U16) (held : Nat) (s : State) : State :=
  if s.jtag.pinsTaken then s
  else
    let watched := s.squall.units.toList.any fun t => decide (t.cfg.kind = tkExternal ∧ t.cfg.source = pin.val) && !t.detached
    doTrigInEdge pin rising frac held (squallDue (if watched then wakeLull s else s))
def execTrigInEdge (pin : Fin 4) (rising : Bool) (frac : U16) (heldTicks : Nat) (s : State) : Host.Outcome State Fault Refusal :=
  .next (trigInEdge pin rising frac heldTicks s)

/-- Overlapping or touching pulses of one pin merge (R214). -/
def mergePulse (p : OutPulse) : List OutPulse → List OutPulse
  | [] => [p]
  | q :: qs => if q.mask = p.mask ∧ q.rise ≤ p.fall ∧ p.rise ≤ q.fall
      then mergePulse { q with rise := min p.rise q.rise, fall := max p.fall q.fall } qs
      else q :: mergePulse p qs

/-- The next scheduled pulse of an AT rises (R214): its edges join those of the pins; a late one is counted and reported. -/
def doTrigOutPulse (m : Fin 16) (s : State) : State := match s.squall.pulses.find? (·.at_ = m.val) with
  | none => s
  | some p =>
    let s := waitTick p.rise { s with squall := { s.squall with pulses := s.squall.pulses.erase p } }
    let s := forL (setBits p.mask 4) (fun b s =>
      { s with squall := { s.squall with outEdges := mergePulse ⟨0, 2 ^ b, p.rise, p.fall, false⟩ s.squall.outEdges } }) s
    if p.late then raise 0x700 [.h m.val, .since] (setAt m (fun a => { a with outLate := satN 32 (a.outLate + 1) }) s) else s

def execTrigOutPulse (at_ : Fin 16) (s : State) : Host.Outcome State Fault Refusal := .next (doTrigOutPulse at_ s)

/-! ## Group decision (R226, R227) -/

/-- The winner of a round: the earliest tick, the lowest DID among equals (R226). -/
def winnerOf : List GroupFire → Option GroupFire
  | [] => none
  | x :: xs => some (xs.foldl (fun a b => if b.tick < a.tick ∨ (b.tick = a.tick ∧ b.did < a.did) then b else a) x)

/-- At t_min + S a member decides: it cuts its record at the winner's tick; its own losing fires are suppressed; the AT is
disarmed or re-arms (R226, R227). -/
def doGroupDecision (m : Fin 16) (s : State) : State := match winnerOf s.squall.ats[m].round with
  | none => s
  | some w =>
    let s := squallDue (waitTick (w.tick + s.squall.ats[m].settle) s)
    let a := s.squall.ats[m]
    match a.def_, winnerOf a.round with
    | some d, some w =>
      let rearm := w.tick + if d.holdoffKind = 1 then d.holdoff else a.settle
      let lost := a.round.filter fun f => decide (f ≠ w ∧ f.did = s.link.did ∧ (d.armMode = 2 ∨ f.tick < rearm))
      let rest := if d.armMode = 2 then [] else a.round.filter fun f => decide (rearm ≤ f.tick)
      let s := setAt m (fun a => { a with round := rest, decided := some w, rearmTick := if d.armMode = 3 then rearm else a.rearmTick,
                                          suppressed := satN 32 (a.suppressed + lost.length) }) s
      let s := forL lost (fun f s => raiseAt (evAt m 5) f.tick [.h m.val, .h w.did, .q w.tick] s) s
      let s := fireEffects m w.tick w.frac w.did false (w.forced && decide (w.did = s.link.did)) s
      if d.armMode = 2 then disarmAt m 2 s else s
    | _, _ => s

def execGroupDecision (at_ : Fin 16) (s : State) : Host.Outcome State Fault Refusal := .next (doGroupDecision at_ s)

/-! ## The copier -/

def execAcqCopyChunk (acqNo : U32) (source items : Nat) (s : State) : Host.Outcome State Fault Refusal :=
  .next (copyChunk acqNo.toNat source items s)

/-! ## Messages (R204, R222, R224, R225, R362) -/

/-- Fields of a TRIG packet's aux (R345). -/
def trigFrac (p : Packet) : Nat := p.aux.toNat % 65536
def trigAt (p : Packet) : Nat := bits p.aux.toNat 19 16
def trigGroup (p : Packet) : Nat := bits p.aux.toNat 35 20

/-- The AT of this device that belongs to a group of a master. -/
def groupAt (s : State) (group : Nat) (own : AcqDef → Bool) : Option (Fin 16) := (List.finRange 16).find? fun m =>
  match s.squall.ats[m].def_ with | some d => decide (2 ≤ d.armMode ∧ d.groupId = group) && own d | none => false

/-- The master registers a member and acknowledges, or a member takes the acknowledgement and completes ACQ_CONFIG (R222). -/
def doGroupRegistration (n : Fin 4) (p : Packet) (s : State) : State :=
  if ¬ isPacket p ptMsg 5 then s
  else
    let group := p.aux.toNat % 65536
    if bit p.aux.toNat 20 then match (List.finRange 16).find? fun m => s.squall.ats[m].registerCmd = some p.tag.toNat with
      | none => s
      | some m =>
        match s.squall.ats[m].registering with
        | none => s
        | some g =>
          let s := putDefinition m g (setAt m (fun a => { a with registerCmd := none }) s)
          match findCmd s p.tag.toNat with
          | some c => done c (acqNeed s g) (acqReach s g) s
          | none => s
    else match groupAt s group (fun d => d.masterDid = s.link.did) with
      | none => s
      | some m =>
        let s := registerMember m p.srcDid p.addr.toNat (p.hops + portHops s.link.ports[n]) s
        let s := raise 0x701 [.h group, .h p.srcDid] s
        sendRegistration p.srcDid group m.val 0 p.tag true s

def execGroupRegistrationReceive (port : Fin 4) (p : Packet) (s : State) : Host.Outcome State Fault Refusal :=
  .next (arrives port p (doGroupRegistration port p) s)

/-- A TRIG FIRE steps every PEER unit of its AT and, unless any_did, of its source (R204). -/
def doTrigFire (p : Packet) (s : State) : State :=
  if ¬ isPacket p ptTrig 1 then s
  else
  let s := squallDue s
  forL (List.finRange 32) (fun u s =>
    let c := s.squall.units[u].cfg
    if c.kind = tkPeer ∧ ¬ s.squall.units[u].detached ∧ c.source % 16 = trigAt p ∧ (c.anyDid ∨ c.source / 65536 = p.srcDid) then
      ownStep u p.addr.toNat (trigFrac p) s
    else s) s

def execTrigFireReceive (port : Fin 4) (p : Packet) (s : State) : Host.Outcome State Fault Refusal :=
  .next (arrives port p (doTrigFire p) s)

/-- A GROUP_FIRE is kept for its round; one for another arm_seq, for an AT not armed, or after the decision is counted, and one
that would have won a decided round marks the AT PARTIAL (R225, R362). -/
def doGroupFireReceive (p : Packet) (s : State) : State :=
  if ¬ isPacket p ptTrig 2 then s
  else match groupAt s (trigGroup p) (fun _ => true) with
    | none => s
    | some m =>
      let a := s.squall.ats[m]
      let f : GroupFire := ⟨p.addr.toNat, trigFrac p, p.srcDid, false⟩
      let counted := fun (s : State) => setAt m (fun a => { a with lateGroupFires := a.lateGroupFires + 1 }) s
      if a.armSeq ≠ p.tag.toNat then counted s
      else
        let after := match a.decided with | some _ => !a.armed || decide (f.tick < a.rearmTick) | none => false
        if after then match a.decided with
          | some w =>
            let s := counted s
            if f.tick < w.tick ∨ (f.tick = w.tick ∧ f.did < w.did) then
              let s := raise 0xA49 [.h m.val, .h f.did, .q f.tick] s
              raise (evAt m 7) [.h m.val, .h f.did] (setAt m (fun a => { a with partial_ := true }) s)
            else s
          | none => s
        else if ¬ a.armed then counted s
        else setAt m (fun a => { a with round := a.round ++ [f] }) s

def execGroupFireReceive (port : Fin 4) (p : Packet) (s : State) : Host.Outcome State Fault Refusal :=
  .next (arrives port p (doGroupFireReceive p) s)

/-- A member takes a group ARM: it confirms if it can arm, and arms at the tick (R224). -/
def doGroupArmReceive (p : Packet) (s : State) : State :=
  if ¬ isPacket p ptTrig 3 then s
  else match groupAt s (trigGroup p) (fun d => d.masterDid = p.srcDid) with
    | none => s
    | some m =>
      let a := s.squall.ats[m]
      let ready := !a.armed && recordFits s m && (match a.def_, a.matrix with | some g, some c => c.term1.any (· ≠ 0) && sourcesReady s g | _, _ => false)
      if ¬ ready ∨ p.addr.toNat ≤ s.clk.tick then s
      else
        let n := u16At p.payload 6
        let members := (List.range n).map fun i => (⟨u16At p.payload (8 + 2 * i), 0, true, 0⟩ : Member)
        let s := setAt m (fun a => { a with armSeq := p.tag.toNat, settle := u32At p.payload 0, hops := u16At p.payload 4, members := members }) s
        let s := { s with squall := { s.squall with pendingArms := s.squall.pendingArms ++ [⟨none, 2 ^ m.val, p.addr.toNat, false⟩] } }
        sendTrig m 5 p.srcDid p.tag.toNat p.addr.toNat 0 [] s

def execGroupArmReceive (port : Fin 4) (p : Packet) (s : State) : Host.Outcome State Fault Refusal :=
  .next (arrives port p (doGroupArmReceive p) s)

/-- A member takes a group disarm with its tick; an arming that waits is given up (R224). -/
def doGroupDisarmReceive (p : Packet) (s : State) : State :=
  if ¬ isPacket p ptTrig 4 then s
  else match groupAt s (trigGroup p) (fun d => d.masterDid = p.srcDid) with
    | none => s
    | some m =>
      let a := s.squall.ats[m]
      if a.armSeq ≠ p.tag.toNat then s
      else
        let s := { s with squall := { s.squall with pendingArms := s.squall.pendingArms.filter fun x => !bit x.mask m.val } }
        if a.armed then
          let s := beginDisarm m p.addr.toNat (bit (u8At p.payload 0) 0) s
          pendDisarm none [m] p.addr.toNat (p.addr.toNat + decisionBound s a) 0 s
        else s

def execGroupDisarmReceive (port : Fin 4) (p : Packet) (s : State) : Host.Outcome State Fault Refusal :=
  .next (arrives port p (doGroupDisarmReceive p) s)

/-- The master records a member's confirmation (R224). -/
def doArmConfirm (p : Packet) (s : State) : State :=
  if ¬ isPacket p ptTrig 5 then s
  else match groupAt s (trigGroup p) (fun d => d.masterDid = s.link.did) with
    | none => s
    | some m =>
      if s.squall.ats[m].armSeq = p.tag.toNat then
        setAt m (fun a => { a with members := lmod a.members (·.did = p.srcDid) fun x => { x with confirmed := true } }) s
      else s

def execArmConfirmReceive (port : Fin 4) (p : Packet) (s : State) : Host.Outcome State Fault Refusal :=
  .next (arrives port p (doArmConfirm p) s)

end Sys2Proof.Machine
end

