-- ==== Sys2Proof/Machine/CrcUnit.lean ====
section
/-! DEFINITION. The configuration CRC unit (R465 to R469, R475): both checks, their episodes and safe actions, and CFG_COMMIT
(R449). -/

namespace Sys2Proof.Machine

/-- The offsets of n dwords from an offset. -/
def dwords (lo n : Nat) : List Nat := (List.range n).map fun i => lo + 4 * i

/-- The registers of the host check in canonical order: BAR0 ascending, then the window ascending (R465, R466). -/
def sweptKeys : List Nat :=
  (dwords (bar0Key + 0x100) 0xA0 ++ dwords (bar0Key + 0x800) 8 ++ dwords 0x4200 128 ++ (List.range 32).map (kDrt · 0) ++
   dwords (kScn 0) 0xC0 ++ dwords (kBrz 0 0) 0x300 ++ dwords (kBrz 1 0) 0x300 ++ [kTdac]).filter
    fun k => match regInfo k with | some i => i.cfg | none => false

/-- What a register contributes: its value as it stands, an SC field 0. -/
def sweptValue (s : State) (k : Nat) : U32 := match regInfo k with
  | some i => s.reg k &&& ~~~i.sc
  | none => 0

/-- The result of the host check (R466). -/
def hostCheck (s : State) : U32 := crc32c (sweptKeys.flatMap fun k => le 4 (sweptValue s k).toNat)

/-- The firmware-owned configuration as commands set it. Its layout is not part of the interface. -/
def firmwareConfig (s : State) : Data :=
  (s.inlets.toList.flatMap fun i => i.page0.getD [] ++ i.page1.getD [] ++ i.page2.getD []) ++
  (s.store.regions.flatMap fun r => le 1 r.type ++ le 8 r.base ++ le 8 r.size) ++
  (s.tasks.flatMap fun t => le 4 t.id ++ t.desc.raw) ++
  (s.xcorrs.flatMap fun x => le 4 x.id ++ le 4 x.cfgCrc.toNat) ++
  (s.squall.units.toList.flatMap fun u => le 1 u.cfg.kind ++ le 4 u.cfg.source) ++
  (s.squall.ats.toList.flatMap fun a => match a.def_ with | some d => le 4 d.crc.toNat | none => []) ++
  (s.eddy.maps.toList.flatMap fun m => match m.cfg with | some c => le 4 c.crc.toNat | none => []) ++
  (s.tw.toList.flatMap fun t => le 1 t.dest ++ le 4 t.rate ++ le 8 t.ringBase) ++
  (s.evt.routes.flatMap fun r => le 2 r.first ++ le 2 r.last ++ le 1 r.evq ++ le 2 r.vector) ++ le 2 s.pwr.limit ++ le 1 s.clk.loop.source

/-- The result of the firmware check: which bytes it covers, and in what order, is not stated. -/
def firmwareCheck (s : State) : U32 := Config.firmwareCrc (firmwareConfig s)

/-! ## Episodes and safe actions (R467, R468) -/

/-- Every armed AT is disarmed as by DISARM without ABORT at this tick, with cause 5 (R219, R468). -/
def disarmAll (s : State) : State :=
  let s := expireDisarms s
  let live := (List.finRange 16).filter fun m => s.squall.ats[m].armed && s.squall.ats[m].disarmTick.isNone
  if live = [] then s
  else
    let tick := s.clk.tick
    let due := tick + ((live.map fun m => decisionBound s s.squall.ats[m]).foldl max 0)
    let s := forL live (fun m s =>
      let s := beginDisarm m tick false s
      if s.squall.ats[m].group then forL (s.squall.ats[m].members.filter (·.did ≠ s.link.did)) (fun x s =>
        sendTrig m 4 x.did s.squall.ats[m].armSeq tick 0 (le 1 0) s) s else s) s
    { s with squall := { s.squall with pendingDisarms := s.squall.pendingDisarms ++ [⟨none, ofBits (live.map (·.val)), tick, due, 5⟩] } }

/-- A check's safe action, once per episode: check 0 is the host's, 1 the firmware's. -/
def safeAction (check mask : Nat) (s : State) : State :=
  let s := raise 0x023 [.h check, .h mask] s
  let s := if mask % 8 = 0 then s else s.setField kCrcStatus 6 6 1
  let s := if bit mask 0 then abortAll false s else s
  let s := if bit mask 1 then setScn (fun c => { c with crcBlank := c.crcBlank ||| 2 ^ check }) s else s
  if bit mask 2 then disarmAll s else s

/-- Compare a result with its reference: a mismatch opens an episode, a match closes it (R467). -/
def compareCheck (check : Nat) (ref result : U32) (mask : Nat) (s : State) : State :=
  let open_ := s.field kCrcStatus check check = 1
  if ref ≠ result then
    if open_ then s
    else
      let s := (s.setField kCrcStatus check check 1).setField kCrcStatus (4 + check) (4 + check) 1
      let s := { s.countSat kCrcMismatches 1 with fw := { s.fw with cfgMismatches := satN 32 (s.fw.cfgMismatches + 1) } }
      safeAction check mask (raise (0x020 + check) [.w ref.toNat, .w result.toNat] s)
  else if open_ then
    raise 0x022 [.h check] (setScn (fun c => { c with crcBlank := c.crcBlank &&& (3 - 2 ^ check) }) (s.setField kCrcStatus check check 0))
  else s

/-- Whether a firmware reference is in force. -/
def fwEnabled (s : State) : Bool := s.field kCrcStatus 7 7 = 1

/-- Checking against the firmware reference ends: an open firmware episode closes without an event (R449, R566). -/
def withdrawRef (s : State) : State :=
  setScn (fun c => { c with crcBlank := c.crcBlank % 2 }) ((s.setField kCrcStatus 7 7 0).setField kCrcStatus 1 1 0)

/-! ## The sweep (R466, R467, R469) -/

/-- Ticks between sweeps. -/
def sweepTicks : Nat := 2560000

/-- When the next sweep is due: at the next multiple of 2,560,000, once each. -/
def sweepDue (s : State) : Nat :=
  let due := ceilDiv s.clk.tick sweepTicks * sweepTicks
  if due = s.fw.lastSweep then due + sweepTicks else due
/-- The sweep judges the host's half: LEARN takes its result without comparison, else an enabled compare judges it. -/
def sweepHost (host : U32) (s : State) : State :=
  if s.field kCrcCtrl 1 1 = 1 then (s.setReg kCrcRef host).setField kCrcCtrl 1 1 0
  else if s.field kCrcCtrl 0 0 = 1 then compareCheck 0 (s.reg kCrcRef) host (s.field kCrcCtrl 6 4) s
  else s
/-- The sweep judges the firmware's half while its reference is in force. -/
def sweepFirmware (fw : U32) (s : State) : State :=
  if fwEnabled s then compareCheck 1 (s.reg kCrcFwRef) fw (s.field kCrcStatus 10 8) s else s
/-- The sweep at a tick. -/
def sweepAt (due : Nat) (s : State) : State :=
  let s := waitTick due s
  let s := { s with fw := { s.fw with lastSweep := due } }
  let host := hostCheck s
  let fw := firmwareCheck s
  sweepFirmware fw (sweepHost host (((s.setReg kCrcLast host).setReg kCrcFwLast fw).countWrap kCrcSweeps 1))

/-- The next sweep: at a multiple of 2,560,000 ticks, never in Lull-3; LEARN loads its result without comparison. -/
def doCrcSweep (s : State) : State := if s.clk.lull = 3 ∨ s.boot.phase = .held then s else sweepAt (sweepDue s) s

def execCrcSweep (s : State) : Host.Outcome State Fault Refusal := .next (doCrcSweep s)

/-! ## CFG_COMMIT (R449) -/

/-- The results of every form: the last reference, whether it is in force, the tick of the last commit. -/
def cfgDone (c : Cmd) (s : State) : State :=
  done c ((s.reg kCrcFwRef).toNat + 2 ^ 32 * b2n (fwEnabled s)) s.fw.crcCommitTick s

def cfgChecks (s : State) (c : Cmd) : List Check := [entryCheck c [(0x08, 1), (0x09, 1)] [], deviceCheck s c, params [(0x09, decide (c.p8 0x09 < 8))]]

/-- Commit: the CRC of the firmware-owned configuration becomes the reference, with its safe action. -/
def doCfgCommit (c : Cmd) (s : State) : State :=
  checked c (cfgChecks s c) (fun s =>
    let s := ((s.setReg kCrcFwRef (firmwareCheck s)).setField kCrcStatus 7 7 1).setField kCrcStatus 10 8 (c.p8 0x09)
    cfgDone c { s with fw := { s.fw with crcCommitTick := s.clk.tick } }) s

def doCfgWithdraw (c : Cmd) (s : State) : State := checked c (cfgChecks s c) (fun s => cfgDone c (withdrawRef s)) s
/-- The query form checks no other field (R428). -/
def doCfgQuery (c : Cmd) (s : State) : State := checked c [deviceCheck s c] (cfgDone c) s

def execCfgCommit (id : Nat) (s : State) : Host.Outcome State Fault Refusal := .next (runCmd id 0x0A00 (selByte 0x08 0) doCfgCommit s)
def execCfgWithdraw (id : Nat) (s : State) : Host.Outcome State Fault Refusal := .next (runCmd id 0x0A00 (selByte 0x08 1) doCfgWithdraw s)
def execCfgQuery (id : Nat) (s : State) : Host.Outcome State Fault Refusal := .next (runCmd id 0x0A00 (selByte 0x08 2) doCfgQuery s)

end Sys2Proof.Machine
end

