-- ==== Sys2Proof/Machine/Draught.lean ====
section
/-! DEFINITION. Draught's rows: loading a descriptor after arbitration (R319 to R321), its end (R322 to R328), and a bus error
(R331). -/

namespace Sys2Proof.Machine

/-! ## Requests to a peer's store (R324, R364) -/

/-- The parts of a span at most 4 KiB long that cross no 4 KiB boundary: (address, bytes, place in the span). -/
def pageParts (a : Nat) : Nat → Nat → List (Nat × Nat × Nat)
  | 0, _ => []
  | _ + 1, 0 => []
  | fuel + 1, n =>
    let k := min n (4096 - a % 4096)
    (a, k, 0) :: (pageParts (a + k) fuel (n - k)).map fun p => (p.1, p.2.1, p.2.2 + k)
/-- All parts of a span. -/
def spanParts (a n : Nat) : List (Nat × Nat × Nat) := pageParts a (n / 4096 + 2) n

/-- Note a request that waits for its COMPLETION, under a fresh tag. -/
def noteRequest (did : Nat) (isRead : Bool) (offset : Nat) (s : State) : State :=
  let r : LinkRequest := { tag := s.link.nextTag, did := did, isRead := isRead, sent := s.clk.up, hops := hopsTo s.link did, draught := true, offset := offset, tile := none }
  { s with link := { s.link with requests := s.link.requests ++ [r], nextTag := s.link.nextTag + 1 } }

/-- READ one part, rounded outward to 64-byte granules (R322). -/
def sendRead (did a n offset : Nat) (s : State) : State :=
  let lo := a / 64 * 64
  let p := mkPacket s ptRead 0 did s.link.nextTag lo (ceilDiv (a + n - lo) 64 * 64)
  noteRequest did true offset (send p s)
/-- WRITE one part with ACK_REQ. -/
def sendWrite (did a : Nat) (d : Data) (offset : Nat) (s : State) : State :=
  let p := mkPacket s ptWrite 0 did s.link.nextTag a 0
  noteRequest did false offset (send { p with ackReq := true, payload := d } s)

/-- Draught's requests that still wait. -/
def draughtWaits (s : State) : Bool := s.link.requests.any (·.draught)

/-! ## DESCRIPTOR_LOAD -/

/-- What a descriptor's place holds: the operand's 64 bytes from host memory, or the store's; a bus error's cause where the read
fails; none while the store does not serve. -/
inductive DescRead
  | bytes (d : Data)
  | error (cause : Nat)
  | waits
deriving DecidableEq, Repr

/-- Read a chain's descriptor. -/
def readDesc (s : State) (c : DmaChan) (host : HostRead) : DescRead :=
  if c.descSpace = 0 then
    if ¬ masters s then .waits else match host with | some d => .bytes d | none => .error 1
  else if usable s.store < c.descAddr + 64 then .error 2
  else if ¬ storeServes s then .waits
  else if readPoisoned s c.descAddr 64 then .error 4
  else .bytes (rawRead s c.descAddr 64)

/-- An end that is not DONE and leaves the channel IDLE: DESC_ERROR or OVERWRITTEN (R321, R323, R335). -/
def endBad (n : Fin 32) (d : DmaDesc) (code err residue : Nat) (s : State) : State :=
  let s := (endRegs n code err residue s).setReg64 (kDrt n.val 0x34) (kDrt n.val 0x38) d.user
  let s := putStatus n d code err residue false s
  tryHandOver n (raise (evChan n 3) [.h err, .q d.user] (idleChan n s))

/-- A checked descriptor starts: the channel runs, and a peer's source is requested. -/
def startDesc (n : Fin 32) (d : DmaDesc) (s : State) : State :=
  let s := setChan n (fun c => { c with state := .running, desc := some d, parts := [], writesSent := false }) s
  let s := { s with drt := { s.drt with running := some n } }
  let s := showPlace n d 0 s
  if d.from_ = some 3 then forL (spanParts d.src d.length) (fun p s => sendRead d.srcDid p.1 p.2.1 p.2.2 s) s else s

/-- Draught chooses a channel and loads its descriptor (R319, R321). -/
def doDescriptorLoad (host : HostRead) (s : State) : State :=
  if dmaHalted s ∨ s.drt.running.isSome then s
  else match nextChan s with
    | none => s
    | some n =>
      let s := if s.drt.chans[n].descSpace = 1 then storeAwake s else s
      let c := s.drt.chans[n]
      match readDesc s c host with
      | .waits => s
      | .error cause =>
        let s := if cause = 4 then reportSpan c.descAddr 64 rqDma s else s
        dmaHalt cause n c.descAddr c.descSpace 0 s
      | .bytes b =>
        let d := dmaDescOf b
        let s := { s with drt := { s.drt with active := n.val, lastChosen := vmodN s.drt.lastChosen (chanPrio s n) (fun _ => n.val) } }
        let code := dmaCheck s d
        if code ≠ 0 then endBad n d endDescError code d.length s else startDesc n d s

def execDescriptorLoad (desc : HostRead) (s : State) : Host.Outcome State Fault Refusal := .next (doDescriptorLoad desc s)

/-! ## DESCRIPTOR_END -/

/-- The source's bytes at an end. -/
inductive SourceRead
  | bytes (d : Data)
  | error (cause : Nat)
  | overwritten
  | waits
deriving DecidableEq, Repr

/-- The ring that holds a HISTORY address, in the order of the inlets (R323; log 28). -/
def ringAt (s : State) (a : Nat) : Option (Fin 4) := match s.store.region rtHistory with
  | none => none
  | some r =>
    let base := fun (n : Fin 4) => r.base + (((List.finRange 4).filter (· < n)).map fun k => s.inlets[k].ring.extents).sum * extent
    (List.finRange 4).find? fun n => decide (base n ≤ a ∧ a < base n + s.inlets[n].ring.extents * extent)

/-- Whether a HISTORY source fails the test of R16 with its start tick. -/
def historyOverwritten (s : State) (d : DmaDesc) : Bool := match s.store.regionAt d.src with
  | some r =>
    if r.type = rtHistory then
      match ringAt s d.src with | some n => decide (d.histTick < s.inlets[n].ring.oldest) | none => true
    else false
  | none => false

/-- A peer's READ completions put together, if every byte has come. -/
def joinParts (c : DmaChan) (n : Nat) : Option Data :=
  let d := (sortBy (·.1) c.parts).flatMap (·.2)
  if d.length = n then some d else none

/-- Read a descriptor's source. -/
def readSource (s : State) (c : DmaChan) (d : DmaDesc) (host : HostRead) : SourceRead :=
  match d.from_ with
  | none => .bytes (fillData d.fill d.length)
  | some 0 => if ¬ masters s then .waits else match host with | some b => .bytes ((b ++ zeros (d.length - b.length)).take d.length) | none => .error 1
  | some 1 =>
    if ¬ storeServes s then .waits
    else if readPoisoned s d.src d.length then .error 4
    else if historyOverwritten s d then .overwritten
    else .bytes (rawRead s d.src d.length)
  | some 2 => .bytes (readRegs s d.src (d.length / 4))
  | some _ => match joinParts c d.length with | some b => .bytes b | none => .waits

/-- A descriptor ends DONE: the registers, the status record, the event, then its chain, a hand-over, or IDLE (R325, R328). -/
def endOk (n : Fin 32) (d : DmaDesc) (s : State) : State :=
  let s := ((endRegs n endDone 0 0 s).countWrap (kDrt n.val 0x30) 1).setReg64 (kDrt n.val 0x34) (kDrt n.val 0x38) d.user
  let s := showPlace n d d.length s
  let s := putStatus n d endDone 0 0 false s
  let s := if d.event then raise (evChan n 0) [.q d.user] s else s
  let s := idleChan n s
  if d.chain then setChan n (fun c => { c with state := .ready, descAddr := d.next / 64 * 64 }) s
  else tryHandOver n s

/-- Write a dword at a time through the register rules (R322). -/
def writeRegs (k : Nat) (d : Data) (s : State) : State :=
  forL (List.range (d.length / 4)) (fun i s => writeReg (k + 4 * i) (BitVec.ofNat 32 (u32At d (4 * i))) .none s) s

/-- Whether the destination takes writes now. -/
def destReady (s : State) (d : DmaDesc) : Bool := if d.to_ = 0 then masters s else if d.to_ = 1 then storeServes s else true

/-- Write a whole transfer; a peer's parts are sent and wait for their acknowledgements (R324). -/
def deliver (n : Fin 32) (d : DmaDesc) (b : Data) (s : State) : State :=
  if d.to_ = 2 then endOk n d (writeRegs d.dst b s)
  else if d.to_ = 3 then
    setChan n (fun c => { c with writesSent := true })
      (forL (spanParts d.dst d.length) (fun p s => sendWrite d.dstDid p.1 ((b.drop p.2.2).take p.2.1) p.2.2 s) s)
  else endOk n d (putTransfer d 0 b s)

/-- Host data is read without snooping where the descriptor asks for it and it is enabled (R398). -/
def noteSnoop (d : DmaDesc) (s : State) : State :=
  if d.from_ = some 0 then setPcie (fun p => { p with dataRead := bit d.srcSpace 2 && noSnoopEnabled s }) s else s

/-- The running descriptor ends: its source is read, its destination written. -/
def doDescriptorEnd (host : HostRead) (s : State) : State := match s.drt.running with
  | none => s
  | some n => match s.drt.chans[n].desc with
    | none => s
    | some d =>
      if dmaHalted s then s
      else if s.drt.chans[n].writesSent then (if draughtWaits s then s else endOk n d s)
      else
        let s := if d.from_ = some 1 ∨ d.to_ = 1 then storeAwake s else s
        if ¬ destReady s d then s
        else match readSource s s.drt.chans[n] d host with
          | .waits => s
          | .error cause =>
            let s := if cause = 4 then reportSpan d.src d.length rqDma s else s
            dmaHalt cause n d.src (d.srcSpace % 4) 0 (writeMaybe d 0 s)
          | .overwritten =>
            let r := freeBytes d.length s
            endBad n d 5 0 0 (putTransfer d 0 r.1 r.2)
          | .bytes b => deliver n d b (noteSnoop d s)

def execDescriptorEnd (data : HostRead) (s : State) : Host.Outcome State Fault Refusal := .next (doDescriptorEnd data s)

/-! ## DRAUGHT_BUS_ERROR (R331) -/

/-- A request of a channel with work meets an error: what the running descriptor has written stands, the rest may or may not
have been written, and every channel stops. -/
def doBusError (cause : Nat) (ch : Fin 32) (addr : Nat) (space written : Nat) (s : State) : State :=
  if dmaHalted s ∨ ¬ (1 ≤ cause ∧ cause ≤ 5) ∨ ¬ chanActive s.drt.chans[ch] then s
  else
    let desc := match s.drt.running with | some n => s.drt.chans[n].desc | none => none
    let k := match desc with | some d => min written d.length | none => 0
    let s := match desc with | some d => writeMaybe d k (writePrefix d k s) | none => s
    dmaHalt cause ch addr space k s

def execDraughtBusError (cause : Nat) (ch : Fin 32) (addr : U64) (space : Nat) (written : Nat) (s : State) : Host.Outcome State Fault Refusal :=
  .next (doBusError cause ch addr.toNat space written s)

end Sys2Proof.Machine
end

