-- ==== Sys2Proof/Machine/HostIf.lean ====
section
/-! DEFINITION. The PCI Express host interface: BAR4 (R390, R391), configuration writes (R382, R393, R396, R404, R409), link up, power
states (R405), the LTR messages (R406), and what a host-interface reset does (R307, R408, R437). -/

namespace Sys2Proof.Machine

/-! ## BAR4 (R390, R391) -/

/-- Whether a span lies within the usable capacity and outside FIRMWARE. -/
def bar4Inside (s : State) (a n : Nat) : Bool := dmaReadable s a n
/-- Whether BAR4 writes are accepted into a span: DMA, DISPLAY, or the queue memory of an open delegation. -/
def bar4Writable (s : State) (a n : Nat) : Bool := dmaWritable s a n || (delegations s).any (·.holds a n)
/-- What a BAR4 read returned. -/
def readResult (r : ReadOutcome) (s : State) : State := setPcie (fun p => { p with lastRead := some r }) s

/-- A read through BAR4 (R390, R391): refused past the capacity and in FIRMWARE, aborted while the store is LIMITED, HALTED or
untrained, poisoned where a sector is, and waiting while the memory synthesizer has no lock. -/
def bar4Read (o n : Nat) (s : State) : State :=
  let a := windowBase s + o
  if ¬ bar4Inside s a n then refuseBar4 (readResult .unsupported s)
  else
    let s := storeAwake s
    if s.store.state ≠ .ready then refuseBar4 (readResult .completerAbort s)
    else if ¬ storeServes s then readResult .waits s
    else if readPoisoned s a n then reportSpan a n rqHost (readResult (.poisoned n) s)
    else readResult (.data (rawRead s a n)) s

/-- In D3hot a BAR request completes with Unsupported Request (R405). -/
def doBar4Read (o n : Nat) (s : State) : State :=
  if ¬ s.pcie.linkUp ∨ apertureSize s < o + n then s
  else if s.pcie.d3 ∨ ¬ memSpaceEnabled s then readResult .unsupported s
  else bar4Read o n (wakeLull s)

def execBar4Read (offset length : Nat) (s : State) : Host.Outcome State Fault Refusal := .next (doBar4Read offset length s)

/-- Write the bytes that are enabled, from an address on. -/
def writeMasked (m : Memory) (a : Nat) : List (Option Byte) → Memory
  | [] => m
  | some b :: l => writeMasked (m.setByte a b) (a + 1) l
  | none :: l => writeMasked m (a + 1) l

/-- Write the enabled bytes: sectors that they cover whole lose their poison (R77, R80). -/
def writeEnabled (a : Nat) (bytes : List (Option Byte)) (s : State) : State :=
  let whole := (wholeSectors a bytes.length).filter fun k => ((bytes.drop (k * 32 - a)).take 32).all Option.isSome
  setStore (fun st =>
    { st with mem := writeMasked st.mem a bytes, poison := st.poison.filter (fun k => !whole.contains k),
              scrambled := ((List.range bytes.length).zip bytes).foldl (fun l x => if x.2.isSome then cutScrambled (a + x.1) 1 l else l) st.scrambled }) s

/-- A write through BAR4: refused outside its targets, discarded while the store does not take it, poisoned where it arrived so. -/
def bar4Write (o : Nat) (bytes : List (Option Byte)) (poisoned : Bool) (s : State) : State :=
  let a := windowBase s + o
  let n := bytes.length
  let s := if poisoned then aerLog aerPoisoned s else s
  if ¬ bar4Inside s a n ∨ ¬ bar4Writable s a n then refuseBar4 (aerLog aerUnsupported s)
  else
    let s := storeAwake s
    if s.store.state ≠ .ready then refuseBar4 (aerLog aerUnsupported s)
    else if poisoned then poisonSpan a n rqHost s
    else writeEnabled a bytes s

def doBar4Write (o : Nat) (bytes : List (Option Byte)) (poisoned : Bool) (s : State) : State :=
  if apertureSize s < o + bytes.length then s else barAccess (bar4Write o bytes poisoned) s

def execBar4Write (offset : Nat) (bytes : List (Option Byte)) (poisoned : Bool) (s : State) : Host.Outcome State Fault Refusal :=
  .next (doBar4Write offset bytes poisoned s)

/-! ## What follows a change of the port -/

/-- Every vector that may now be sent sends its pending message (R396). -/
def releaseVectors (s : State) : State := forL (List.range 2048) releaseVector s
/-- NVMe streams pause or resume with the port, and go on where they may (R307). -/
def settleHost (s : State) : State := advanceNvme (pauseNvme s)

/-- The PTM correlation becomes invalid: the event, and the host source of the time base is lost (R404). -/
def ptmInvalid (s : State) : State :=
  if ¬ s.pcie.ptmValid then setPcie (fun p => { p with ptmOpen := none }) s
  else
    let s := raise 0x0E7 [] (setPcie (fun p => { p with ptmValid := false, ptmOpen := none }) s)
    if s.clk.loop.source = 2 then loopLost s else s

/-- PTM Enable (R403). -/
def ptmEnabled (s : State) : Bool := (cfgDword s 0x270).getLsbD 0

/-! ## Configuration writes -/

/-- The bus address of BAR4 as assigned. -/
def bar4Bus (s : State) : Nat := (cfgDword s 0x20).toNat / 16 * 16 + 2 ^ 32 * (cfgDword s 0x24).toNat

/-- Enter D3hot; return to D0 (R405). -/
def enterD3 (s : State) : State := if ¬ s.pcie.linkUp ∨ s.pcie.d3 then s else settleHost (setPcie (fun p => { p with d3 := true }) s)
def leaveD3 (s : State) : State := if ¬ s.pcie.d3 then s else releaseVectors (settleHost (setPcie (fun p => { p with d3 := false }) s))

/-- Whether a Resizable BAR size code is offered: 256 MiB up to the size that covers the fitted store (R392). -/
def barSizeOffered (s : State) (code : Nat) : Bool := decide (8 ≤ code ∧ code ≤ if s.store.clamshell then 15 else 14)

/-- The aperture takes a new size: the window base is rounded down to it, and delegations it no longer covers fail (R393). -/
def resizeBar (code : Nat) (s : State) : State :=
  if ¬ barSizeOffered s code ∨ s.pcie.barSizeLog2 = code + 20 then s
  else
    let size := 2 ^ (code + 20)
    dropUncovered (setPcie (fun p => { p with barSizeLog2 := code + 20, b4Base := p.b4Base / size * size }) s)

/-- A configuration write to a dword whose bits the manual uses: command, BAR addresses, power state, MSI-X control, Device Control
Link Control, Device Control 2, AER's status, masks and severities, the Resizable BAR size, LTR, the L1 PM Substates, PTM control. -/
def cfgWrite (o : Nat) (v : U32) (s : State) : State :=
  if o = 0x04 then
    let was := busMaster s
    let s := setCfg 0x04 (v &&& 0x0547) s
    let s := if ¬ was ∧ busMaster s then recheckDelegations (bar4Bus s) s else s
    releaseVectors (settleHost s)
  else if [0x10, 0x14, 0x18, 0x1C, 0x20, 0x24].contains o then setCfg o (v &&& ~~~(cfgFixed s o).1) s
  else if o = 0x44 then if v.toNat % 4 = 3 then enterD3 s else if v.toNat % 4 = 0 then leaveD3 s else s
  else if o = 0x50 then releaseVectors (setCfg o (v &&& 0xC0000000) s)
  else if o = 0x78 ∨ o = 0x80 ∨ o = 0x98 then setCfg o (v &&& 0xFFFF) s
  else if o = 0x104 ∨ o = 0x110 then setCfg o (cfgDword s o &&& ~~~v) s
  else if [0x3C, 0x108, 0x10C, 0x114, 0x254, 0x260, 0x264].contains o then setCfg o (v &&& if o = 0x3C then 0xFF else 0xFFFFFFFF) s
  else if o = 0x248 then resizeBar (bits v.toNat 13 8) s
  else if o = 0x270 then
    let s := setCfg o (v &&& 0xFF03) s
    if ptmEnabled s then s else ptmInvalid s
  else s

/-- Configuration requests are answered while the link is up, in D3hot too (R385, R405). -/
def doConfigurationWrite (o : Nat) (v : U32) (s : State) : State := if ¬ s.pcie.linkUp ∨ o % 4 ≠ 0 then s else cfgWrite o v s

def execConfigurationWrite (offset : Nat) (value : U32) (s : State) : Host.Outcome State Fault Refusal :=
  .next (doConfigurationWrite offset value s)

def execD3hotEntry (s : State) : Host.Outcome State Fault Refusal := .next (enterD3 s)
def execD0Return (s : State) : Host.Outcome State Fault Refusal := .next (leaveD3 s)

/-! ## Link up -/

/-- Whether the port may leave Detect: the PCIE domain has committed, or it runs on the trims it has, in limp mode and where neither
slot boots (R385, R477, R540). -/
def pcieReady (s : State) : Bool := domainCommitted s 6 || s.clk.limp || s.boot.phase = .failed

/-- The link reaches link up: the event, and one more below 32.0 GT/s x16 (R385, R412). -/
def doPcieLinkUp (gen width : Nat) (s : State) : State :=
  if s.pcie.linkUp ∨ s.jtag.pinsTaken ∨ ¬ pcieReady s ∨ ¬ (1 ≤ gen ∧ gen ≤ 5) ∨ ¬ [1, 2, 4, 8, 16].contains width then s
  else
    let s := setPcie (fun p => { p with linkUp := true, gen := gen, width := width, d3 := false }) s
    let s := raise 0x0E0 [.h gen, .h width] s
    let s := if gen = 5 ∧ width = 16 then s else raise 0x0E1 [.h gen, .h width] s
    settleHost s

def execPcieLinkUp (gen width : Nat) (s : State) : Host.Outcome State Fault Refusal := .next (doPcieLinkUp gen width s)

/-! ## LTR (R406) -/

/-- The latency that the engine asks for, in microseconds. -/
def ltrWanted (s : State) : Nat :=
  if s.tw.toList.any (fun t => t.isOpen && t.dest = 0) || !s.mbx.cmds.isEmpty ||
     s.drt.chans.toList.any (fun c => chanActive c && (c.descSpace = 0 || match c.desc with
       | some d => d.from_ = some 0 || d.to_ = 0 || (d.status && d.statusSpace = 0)
       | none => false)) then 1000 else 5000
/-- The latency last sent. -/
def ltrSent (s : State) : Option Nat := (s.pcie.messages.reverse.findSome? fun m => match m with | .ltr us => some us | _ => none)
/-- A changed latency is sent while the mechanism is enabled. -/
def settleLtr (s : State) : State :=
  if s.pcie.linkUp ∧ ¬ s.pcie.d3 ∧ (cfgDword s 0x98).getLsbD 10 ∧ ltrSent s ≠ some (ltrWanted s) then
    setPcie (fun p => { p with messages := p.messages ++ [.ltr (ltrWanted s)] }) s
  else s

/-- What passes while nothing is commanded: one CORE cycle, which is one tick, or 32 while the root is in bypass (R489), and a
changed latency figure is sent (R406; log 8). -/
def idleWork (s : State) : State := settleLtr (idleTick s)

/-! ## Host-interface resets (R408) -/

/-- Whether a register key lies in the MSI-X table or its pending bits. -/
def msixKey (k : Nat) : Bool := decide ((bar0Key + 0x7000 ≤ k ∧ k < bar0Key + 0x7100) ∨ (bar0Key + 0x8000 ≤ k ∧ k < bar0Key + 0x10000))

/-- What every host-interface reset does: host rings close without delivery with reason 4, Draught's channels end ABORTED, the
queues are unbound, configuration space, the MSI-X table and QUIESCE return to reset; everything else goes on (R307, R408, R437). -/
def hostReset (code : Nat) (linkDrops : Bool) (s : State) : State :=
  let s := forL (List.finRange 16) (fun n s => if s.tw[n].dest = 0 ∧ s.tw[n].isOpen then closeNow n 4 s else s) s
  let s := abortAll true s
  let s := disableQueues s
  let s := { s with mbx := { s.mbx with state := if mbxReady s then .booting else s.mbx.state } }
  let s := { s with regs := s.regs.filter fun e => !msixKey e.1 }
  let s := s.setField kHifCtrl 0 0 0
  let s := setPcie (fun p => { p with cfg := p.cfg.filter (fun e => decide (0x104 ≤ e.1 ∧ e.1 ≤ 0x118)), linkUp := p.linkUp && !linkDrops, d3 := false, l12 := false, lastReset := code, lastRead := none }) s
  let s := settleQuiesce (ptmInvalid s)
  raise 0x0E2 [.h code] (settleHost s)

/-- A hot reset, and a loss of the data link that PERST_N does not cause (R407). -/
def doHotReset (s : State) : State := if s.pcie.linkUp then hostReset 4 true s else s

def execHotReset (s : State) : Host.Outcome State Fault Refusal := .next (doHotReset s)
def execDlDown (s : State) : Host.Outcome State Fault Refusal := .next (doHotReset s)
/-- A Function Level Reset: the link stays up. -/
def doFlr (s : State) : State := if s.pcie.linkUp then hostReset 5 false s else s
def execFlr (s : State) : Host.Outcome State Fault Refusal := .next (doFlr s)

end Sys2Proof.Machine
end

