-- ==== Sys2Proof/Machine/LifeOps.lean ====
section
/-! DEFINITION. The life ledger's shared operations (R568 to R571, R581): the acceleration factor, the bands, the 256-byte entry
and its place in flash, and the flash areas of R533. -/

namespace Sys2Proof.Machine

/-! ## Flash areas (R533) -/

def faPointer (p : Nat) : Nat := 0x1000 * p
def faCal (copy : Nat) : Nat := 0x2000 + 0x1000 * copy
def faConfig : Nat := 0x4000
def faToken : Nat := 0x5000
def faChain : Nat := 0x6000
def faLedger : Nat := 0x2000000
def faSlot (b : Bool) : Nat := if b then 0x2100000 else 0x100000
/-- The size of an image slot: 31 MiB. -/
def slotSize : Nat := 0x1F00000

/-- Change the boot state; read, program and erase flash. -/
def setBoot (f : Boot → Boot) (s : State) : State := { s with boot := f s.boot }
def flashAt (s : State) (a n : Nat) : Data := flashRead s.boot.flash a n
def program (a : Nat) (d : Data) (s : State) : State := setBoot (fun b => { b with flash := flashWrite b.flash a d }) s
def erase (a n : Nat) (s : State) : State :=
  setBoot (fun b => { b with flash := b.flash.filter fun e => decide (e.1 < a ∨ a + n ≤ e.1) }) s

/-- The numbers of the units of a size, counted from an address, in which a span of flash holds anything but erased bytes. -/
def writtenUnits (flash : Memory) (a n size : Nat) : List Nat :=
  (flash.foldl (fun (l : List Nat) e => if a ≤ e.1 ∧ e.1 < a + n then
      (let k := (e.1 - a) / size; if l.head? = some k then l else k :: l) else l) []).reverse

/-! ## Ageing (R568, R581) -/

/-- Change the ledger. -/
def setLife (f : Life → Life) (s : State) : State := { s with life := f s.life }

/-- Whether y is at most base x 2^(d/640), where d counts 1/64 °C above 85 °C; y is in halves. -/
def belowAf (base d y : Nat) : Bool := decide (y ^ 640 ≤ (2 * base) ^ 640 * 2 ^ d)
/-- The largest n among those with the bits below k of a start whose 2n - 1 halves still lie within. -/
def afSearch (base d : Nat) : Nat → Nat → Nat
  | 0, n => n
  | k + 1, n => if belowAf base d (2 * (n + 2 ^ k) - 1) then afSearch base d k (n + 2 ^ k) else afSearch base d k n
/-- base x AF(Tj), rounded to nearest, with Tj in 1/64 °C (R581). -/
def afTimes (base : Nat) (tj : Int) : Nat := if tj ≤ 5440 then base else afSearch base (tj - 5440).toNat (Nat.log2 base + (tj - 5440).toNat / 640 + 3) 0

/-- The band of a junction temperature (R568). -/
def lifeBand (tj : Int) : Nat := ([25, 45, 65, 75, 85, 90, 95, 100, 105].filter fun (x : Nat) => decide ((x : Int) * 64 < tj)).length

/-- The operating range of Tj by grade, 1/64 °C (R3). -/
def tjInRange (gradeE : Bool) (tj : Int) : Bool := if gradeE then decide (-2560 ≤ tj ∧ tj ≤ 6720) else decide (0 ≤ tj ∧ tj ≤ 6080)
/-- Nominal voltage and tolerance in per cent of rails 1 to 11 (R573). -/
def railRanges : List (Nat × Nat) :=
  [(850, 3), (1350, 3), (850, 3), (900, 3), (1200, 3), (900, 3), (900, 3), (1200, 3), (900, 2), (1800, 5), (3300, 5)]
/-- Whether a rail reads outside its operating range; VDD_CORE is held to the commanded value. -/
def railOut (vNom k mv : Nat) : Bool :=
  let r := if k = 0 then (vNom, 2) else (railRanges.drop (k - 1)).headD (0, 0)
  decide (mv * 100 < r.1 * (100 - r.2) ∨ r.1 * (100 + r.2) < mv * 100)
def railsOut (s : State) : List Nat := (List.range 12).filter fun k => railOut s.boot.fuses.vNom k ((s.brz.rails.toList.drop k).headD 0)

/-! ## The entry (R569, R570) -/

/-- The 256-byte entry. -/
def lifeEntry (s : State) : Data :=
  let l := s.life
  let d := block 0xFC
    [(0x00, le 4 0x4C454447), (0x04, le 2 1), (0x06, le 2 l.flags), (0x08, le 8 l.seq), (0x10, le 8 s.boot.fuses.serial.toNat),
     (0x18, le 8 l.poweredS), (0x20, le 8 l.equivMs), (0x28, l.bandS.toList.flatMap (le 8 ·)), (0x78, le 2 (codeOf 16 l.tjLast)),
     (0x7A, le 2 (codeOf 16 l.tjPeak)), (0x7C, le 4 l.outS), (0x80, l.wearPpm.toList.flatMap fun w => le 2 (codeOf 16 w)),
     (0x90, l.wearWorst.toList.flatMap fun w => le 2 (codeOf 16 w)), (0xA0, l.starts.toList.flatMap (le 4 ·)), (0xB8, le 4 l.fences),
     (0xBC, le 4 l.poisoned), (0xC0, le 4 l.bypasses), (0xC4, le 4 l.calFails), (0xC8, le 4 l.slotSwitches)]
  d ++ le 4 (crc32c d).toNat

/-- Entries of the ledger area: 16 blocks of 256. -/
def ledgerSlots : Nat := 4096
def ledgerAt (k : Nat) : Nat := faLedger + 256 * k

/-- Whether an entry's magic and CRC check. -/
def entrySound (d : Data) : Bool := u32At d 0 = 0x4C454447 && u32At d 0xFC = (crc32c (d.take 0xFC)).toNat

/-- The sound entries in flash, by slot. -/
def ledgerEntries (s : State) : List (Nat × Data) :=
  ((writtenUnits s.boot.flash faLedger (256 * ledgerSlots) 256).map fun k => (k, flashAt s (ledgerAt k) 256)).filter fun e => entrySound e.2

/-- The entry of highest seq among some. -/
def highestEntry (l : List (Nat × Data)) : Option (Nat × Data) :=
  l.foldl (fun a e => match a with | some b => if u64At b.2 0x08 < u64At e.2 0x08 then some e else some b | none => some e) none

/-- Eight signed fields of 16 bits. -/
def i16x8 (d : Data) (o : Nat) : Vector Int 8 := Vector.ofFn fun k : Fin 8 => i16At d (o + 2 * k.val)

/-- The ledger that an entry holds, with the slot that the next entry takes. -/
def lifeOf (k : Nat) (d : Data) : Life :=
  { Life.reset with
    seq := u64At d 0x08, flags := u16At d 0x06, poweredS := u64At d 0x18, equivMs := u64At d 0x20,
    bandS := Vector.ofFn fun j : Fin 10 => u64At d (0x28 + 8 * j.val), tjLast := i16At d 0x78, tjPeak := i16At d 0x7A, outS := u32At d 0x7C,
    wearPpm := i16x8 d 0x80, wearWorst := i16x8 d 0x90, starts := Vector.ofFn fun j : Fin 6 => u32At d (0xA0 + 4 * j.val),
    fences := u32At d 0xB8, poisoned := u32At d 0xBC, bypasses := u32At d 0xC0, calFails := u32At d 0xC4, slotSwitches := u32At d 0xC8,
    slot := (k + 1) % ledgerSlots }

/-- The ledger read at a start: the valid entry of highest seq governs, else it starts afresh, with the cause to report: 1 no
valid entry, 2 the serial of every sound one differs (R570, R572). -/
def loadLife (s : State) : Life × Option Nat :=
  let l := ledgerEntries s
  match highestEntry (l.filter fun e => u64At e.2 0x10 = s.boot.fuses.serial.toNat) with
  | some e => (lifeOf e.1 e.2, none)
  | none => (Life.reset, some (if l.isEmpty then 1 else 2))

/-- The accounting lost since the last write, credited at a power-on (R570). -/
def creditLost (l : Life) : Life := { l with poweredS := l.poweredS + 600, equivMs := l.equivMs + afTimes 600000 l.tjLast }

/-- Count a start by its kind: 0 power-on, 1 RESET_N, 2 PERST_N of whole-device scope, 3 DEV_RESET scope 0, 4 watchdog, 5 watchdog
escalation (R569). -/
def countStart (kind : Nat) (l : Life) : Life := { l with starts := vmodN l.starts kind (fun x => satN 32 (x + 1)), countsChanged := true }

end Sys2Proof.Machine
end

