-- ==== Sys2Proof/Machine/BootOps.lean ====
section
/-! DEFINITION. The shared operations of boot: the slot pointer (R534, R535), the image and its checks (R536, R537), the patch
(R173, R189 to R191), the configuration blocks (R94, R108, R109, R377, R488, R520, R533), the calibration record (R518, R519), the
lifecycle token (R544 to R546) and what a reset of the whole device does (R563). -/

namespace Sys2Proof.Machine

/-! ## The slot pointer (R534, R535) -/

/-- One bit of CRC-8 with polynomial 0x07. -/
def crc8Bit (c : Nat) : Nat := if 128 ≤ c then (c * 2 % 256) ^^^ 0x07 else c * 2
/-- CRC-8 of bytes, initial value 0. -/
def crc8 (l : List Nat) : Nat := l.foldl (fun c b => crc8Bit (crc8Bit (crc8Bit (crc8Bit (crc8Bit (crc8Bit (crc8Bit (crc8Bit (c ^^^ b))))))))) 0
/-- The word of a sequence number and a slot. -/
def pointerWord (seq : Nat) (slotB : Bool) : Nat :=
  let code := if slotB then 0xB0 else 0xA0
  seq * 65536 + code * 256 + crc8 [seq / 256 % 256, seq % 256, code]
/-- A valid word's sequence number and slot. -/
def readPointer (w : Nat) : Option (Nat × Bool) :=
  let seq := w / 65536
  let code := w / 256 % 256
  if (code = 0xA0 ∨ code = 0xB0) ∧ w % 256 = crc8 [seq / 256, seq % 256, code] then some (seq, decide (code = 0xB0)) else none
/-- The words of a pointer sector that are not erased, by number. -/
def pointerWords (flash : Memory) (p : Nat) : List Nat := writtenUnits flash (faPointer p) 4096 4
/-- The valid word of highest seq: its seq, its slot and its sector. -/
def highestPointer (flash : Memory) : Option (Nat × Bool × Nat) :=
  let valid := [0, 1].flatMap fun p => (pointerWords flash p).filterMap fun k =>
    (readPointer (unle (flashRead flash (faPointer p + 4 * k) 4))).map fun x => (x.1, x.2, p)
  valid.foldl (fun a x => match a with | some b => if b.1 < x.1 then some x else some b | none => some x) none
/-- The active slot: A where no word is valid. -/
def activeSlot (flash : Memory) : Bool := match highestPointer flash with | some x => x.2.1 | none => false
/-- The lowest number missing from a rising list. -/
def firstGap : List Nat → Nat → Nat
  | [], k => k
  | x :: xs, k => if x = k then firstGap xs (k + 1) else k
/-- Switch slots by programming one word: into the first erased word of the sector with the highest, or the first word of the
other sector once that is erased. -/
def switchSlot (slotB : Bool) (s : State) : State :=
  let h := highestPointer s.boot.flash
  let seq := match h with | some x => x.1 + 1 | none => 1
  let p := match h with | some x => x.2.2 | none => 0
  let k := firstGap (pointerWords s.boot.flash p) 0
  let w := le 4 (pointerWord seq slotB)
  let s := if k < 1024 then program (faPointer p + 4 * k) w s else program (faPointer (1 - p)) w (erase (faPointer (1 - p)) 4096 s)
  let s := setLife (fun l => { l with slotSwitches := satN 32 (l.slotSwitches + 1), countsChanged := true }) s
  raise 0xD05 [.h (b2n slotB), .h seq] s

/-! ## The image (R536, R537) -/

/-- The first 4 KiB of a slot. -/
def imageHead (s : State) (slotB : Bool) : Data := flashAt s (faSlot slotB) 0x700
/-- The sections as (type, offset, length). -/
def imageSections (h : Data) : List (Nat × Nat × Nat) :=
  (List.range (min 8 (u16At h 0x006))).map fun k => (u32At h (0x040 + 80 * k), u32At h (0x044 + 80 * k), u32At h (0x048 + 80 * k))
def sectionOf (h : Data) (type : Nat) : Option (Nat × Nat) := ((imageSections h).find? (·.1 = type)).map (·.2)
def imageVersion (h : Data) : Nat := u32At h 0x008
def imageRollback (h : Data) : Nat := u32At h 0x00C
def imageKey (h : Data) : Nat := u32At h 0x020
/-- Whether a span of a block is zero. -/
def zeroSpan (d : Data) (o n : Nat) : Bool := ((d.drop o).take n).all (· = 0)

/-- Check 1: magic, version, reserved bytes, image_len, the section table and its bounds; a session's length is image_len (R542). -/
def imageLayout (h : Data) (length : Option Nat) : Bool :=
  let n := u16At h 0x006
  let len := u32At h 0x010
  let sec := imageSections h
  u32At h 0 = 0x584E4C4B && u16At h 4 = 1 && (n = 2 || n = 3) && decide (imageRollback h ≤ 64) && decide (len ≤ slotSize) &&
  decide (u16At h 0x016 ≤ 1) && decide (imageKey h ≤ 3) && zeroSpan h 0x026 0x1A && zeroSpan h 0x2C0 0x140 &&
  (List.range n).all (fun k => zeroSpan h (0x04C + 80 * k) 4) && zeroSpan h (0x040 + 80 * n) (80 * (8 - n)) &&
  sec.all (fun x => decide (1 ≤ x.1 ∧ x.1 ≤ 3 ∧ 0x1000 ≤ x.2.1 ∧ x.2.1 % 0x1000 = 0 ∧ x.2.1 + x.2.2 ≤ len)) &&
  decide ((sec.filter (·.1 = 1)).length = 1 ∧ (sec.filter (·.1 = 2)).length = 1 ∧ (sec.filter (·.1 = 3)).length ≤ 1) &&
  sec.all (fun x => x.1 ≠ 1 || decide (x.2.2 ≤ 0x80000)) && decide ((sec.map fun x => x.2.1 + x.2.2).foldl max 0 = len) &&
  (match length with | some l => decide (len = l) | none => true)

/-- Check 4: stepping, serial lock, DEV_ONLY. -/
def imageFits (s : State) (h : Data) : Bool :=
  let lock := u64At h 0x018
  let own := decide (lock = s.boot.fuses.serial.toNat)
  decide (u8At h 0x014 ≤ s.boot.fuses.stepping ∧ s.boot.fuses.stepping ≤ u8At h 0x015) && (lock = 0 || own) &&
  (!bit (u16At h 0x016) 0 || s.boot.lifecycle = .development || (s.boot.lifecycle = .unlocked && own))

/-- The first check of R537 that an image fails. The outcomes of the cryptographic checks come with the command. -/
def imageFailure (s : State) (slotB : Bool) (length : Option Nat) (c : CryptoChecks) : Option Nat :=
  let h := imageHead s slotB
  if ¬ imageLayout h length then some 1
  else if ¬ c.keyOk ∨ (s.boot.fuses.keyRevoked.drop (imageKey h)).headD true then some 2
  else if ¬ c.signatureOk then some 3
  else if ¬ imageFits s h then some 4
  else if imageRollback h < s.boot.fuses.rollback then some 5
  else if ¬ c.hashesOk then some 6
  else none
/-- The aux code of a failed check (R450, R537). -/
def imageAux (check : Nat) : Nat := if check = 3 ∨ check = 6 then 1 else if check = 5 then 3 else 2

/-! ## The patch (R173, R189 to R191) -/

/-- The header of a patch section. -/
def patchHeaderOk (s : State) (p : Data) (len : Nat) : Bool :=
  let wc := u16At p 0x010
  let la := u16At p 0x012
  let ec := u16At p 0x014
  u32At p 0 = 0x50484354 && u16At p 4 = 1 && u16At p 6 = 0 && u32At p 8 ≠ 0 && u32At p 0xC = s.boot.fuses.romId &&
  decide (1 ≤ wc ∧ wc ≤ 4096 ∧ 0x1000 ≤ la ∧ la ≤ 0x1FFF ∧ la + wc ≤ 0x2000 ∧ ec ≤ 9) && u16At p 0x16 = 0 &&
  decide (u32At p 0x18 = 20 * wc + 4 * ec) && u32At p 0x1C = 0 && u32At p 0x2C = 0 && decide (len = 0x240 + u32At p 0x18)
/-- The word of SEQ_OP 8, a sequencing fault. -/
def faultWord : Nat := 8 * 2 ^ 156
/-- The microwords of a plaintext body, 20 bytes each, and the entries that follow them: routine ID and address (R189). -/
def patchWords (p body : Data) : List Nat := (List.range (u16At p 0x010)).map fun i => unle ((body.drop (20 * i)).take 20)
def patchEntries (p body : Data) : List (Nat × Nat) :=
  (List.range (u16At p 0x014)).map fun i => let o := 20 * u16At p 0x010 + 4 * i; (u8At body o, u16At body (o + 2))
/-- The addresses that may follow a microword of a patch (R174). -/
def wordNext (a w : Nat) : List Nat :=
  let m := Microword.ofWord w
  if m.seqOp = 1 ∨ m.seqOp = 3 then [m.target] ++ (if m.seqOp = 3 then [a + 1] else [])
  else if m.seqOp = 2 ∨ m.seqOp = 5 then [m.target, a + 1]
  else if m.seqOp = 4 ∨ m.seqOp = 7 then [] else [a + 1]
/-- The addresses of a patch reached from some of them. -/
def reachFrom (words : List (Nat × Nat)) : Nat → List Nat → List Nat → List Nat
  | 0, _, seen => seen
  | n + 1, front, seen =>
    let next := ((words.filter fun w => front.contains w.1).flatMap fun w => wordNext w.1 w.2).dedup.filter fun a => !seen.contains a
    if next = [] then seen else reachFrom words n next (seen ++ next)
/-- Rule 1 of R188 as far as TARGET and AG fields show it: jumps stay in the control store, and no AG1 write is reached from a word
that points AG1 at the input samples (log 119). -/
def writesOnlySlots (words : List (Nat × Nat)) : Bool :=
  let jumps := words.all fun w => let m := Microword.ofWord w.2; !([1, 2, 3, 5].contains m.seqOp) || decide (m.target < controlWords)
  let frames := (words.filter fun w => (Microword.ofWord w.2).ag1Op = 4).flatMap fun w => wordNext w.1 w.2
  let reached := reachFrom words words.length frames frames
  jumps && words.all fun w => !(agWrites (Microword.ofWord w.2).ag1Op && reached.contains w.1)

/-- The step of R190 up to the fourth that a patch fails at. -/
def patchFailure (s : State) (p : Data) (len : Nat) (c : CryptoChecks) (body : Data) : Option Nat :=
  let words := patchWords p body
  if ¬ patchHeaderOk s p len then some 1
  else if ¬ c.patchSignatureOk then some 2
  else if ¬ c.patchTagOk ∨ s.boot.lifecycle = .retired then some 3
  else if body.length ≠ u32At p 0x18 ∨ ¬ words.all microwordOk ∨ ¬ (patchEntries p body).all (fun e => decide (e.1 ≤ 8 ∧ e.2 < controlWords)) ∨
      ¬ writesOnlySlots ((List.range words.length).zip words |>.map fun e => (u16At p 0x012 + e.1, e.2)) then some 4
  else none
/-- A start clears what upsets had turned in the patch RAMs: every word is written anew. -/
def freshStores (cs : ControlStore) (s : State) : State := { s with cs := cs, tiles := s.tiles.map fun t => { t with csErrors := [] } }
/-- Step 6 of R190: the words that a tile reads back turned, and whether each still passes its check. -/
def readBack (turned : List (Fin 20 × Nat × Nat)) (s : State) : Bool × State :=
  let s := forL turned (fun x s => if romWords ≤ x.2.1 ∧ x.2.1 < controlWords then upsetWord x.1 x.2.1 x.2.2 s else s) s
  (turned.all fun x => x.2.1 < romWords || decide (controlWords ≤ x.2.1) || fetchPasses s x.1 x.2.1 x.2.1, s)
/-- Load the patch of the running slot, or fill the patch RAM with faults and use the ROM's entries (R190, R191). body is the plaintext
that the decryption gives; turned are the bits that the read-back finds turned in tiles. -/
def loadPatch (c : CryptoChecks) (body : Data) (turned : List (Fin 20 × Nat × Nat)) (s : State) : State :=
  let none_ : ControlStore := { ControlStore.reset with patchFill := faultWord, romId := s.boot.fuses.romId }
  let failed := fun f => { freshStores none_ s with boot := { s.boot with patchFailStep := some f } }
  match sectionOf (imageHead s s.boot.slotB) 3 with
  | none => freshStores none_ s
  | some x =>
    let p := flashAt s (faSlot s.boot.slotB + x.1) 0x40
    match patchFailure s p x.2 c body with
    | some f => failed f
    | none =>
      let words := patchWords p body
      let r := readBack turned (freshStores { none_ with
        patchRam := (List.range words.length).zip words |>.map (fun e => (u16At p 0x012 + e.1, e.2)), patchRev := u32At p 8,
        entries := patchEntries p body, loaded := true } s)
      if r.1 then r.2 else failed 6

/-! ## Configuration blocks (R109) -/

/-- A field: 0 selects the default, a value out of its range takes the default and is replaced. -/
def pickField (v lo hi dflt : Nat) : Nat × Bool := if v = 0 then (dflt, false) else if lo ≤ v ∧ v ≤ hi then (v, false) else (dflt, true)
/-- A block in the configuration area. -/
def configBlock (s : State) (o n : Nat) : Data := flashAt s (faConfig + o) n
/-- A block of n bytes is valid: version 1, reserved bytes zero, and its CRC in the last four bytes. -/
def blockValid (d : Data) (n : Nat) (reserved : List (Nat × Nat)) : Bool :=
  u16At d 0 = 1 && reserved.all (fun r => zeroSpan d r.1 r.2) && u32At d (n - 4) = (crc32c (d.take (n - 4))).toNat

/-- The store configuration block (R74, R94, R108, R109); the second value tells whether a default replaced anything. A watermark pair
outside its limits is replaced whole. -/
def storeCfgOf (clamshell : Bool) (d : Data) : StoreCfg × Bool :=
  if ¬ blockValid d 128 [(0x12, 6), (0x58, 0x24)] then (StoreCfg.reset, true)
  else
    let ecc := pickField (u8At d 2) 1 2 1
    let rate := if u8At d 3 % 2 = 0 then pickField (u8At d 3) 12 24 24 else (24, true)
    let hi := pickField (u8At d 4) 32 56 48
    let lo := pickField (u8At d 5) 8 24 16
    let pair := hi.2 || lo.2 || decide (hi.1 < lo.1 + 24)
    let masks := (List.range 8).map fun k => u64At d (0x18 + 8 * k)
    let idle := pickField (u16At d 6) 1 10000 10
    let rd := pickField (u32At d 8) 1024 262144 16384
    let cap := pickField (u16At d 0xC) 1 16 2
    let ms := pickField (u16At d 0xE) 1 1000 32
    let scrub := pickField (u16At d 0x10) 10 10080 60
    ({ ecc := ecc.1 = 1, targetRate := rate.1, wmHigh := if pair then 48 else hi.1, wmLow := if pair then 16 else lo.1, idleDelay := idle.1,
       rdThreshold := rd.1, throttleCap := cap.1, throttleMs := ms.1, scrubMin := scrub.1,
       masks := masks, applied := true },
     ecc.2 || rate.2 || pair || (masksOf clamshell masks).2 || idle.2 || rd.2 || cap.2 || ms.2 || scrub.2)

/-- The link configuration block (R377). -/
def linkCfgOf (d : Data) : LinkCfg × Bool :=
  if ¬ blockValid d 64 [(0x05, 1), (0x16, 0x26)] then (LinkCfg.reset, true)
  else
    let dis := pickField (u8At d 2) 0 15 0
    let rate := pickField (u8At d 3) 1 7 7
    let flags := pickField (u8At d 4) 0 1 0
    let hb := pickField (u16At d 6) 1 100 1
    let hold := pickField (u16At d 8) 10 60000 100
    let offer := pickField (u16At d 0xA) 2 1000 10
    let asym := (List.range 4).map fun k => i16At d (0xC + 2 * k)
    let ok := fun (a : Int) => decide (-2000 ≤ a ∧ a ≤ 2000)
    ({ portDisable := dis.1, maxRate := rate.1, noNarrow := flags.1 = 1, heartbeatMs := hb.1, linkHoldMs := hold.1, healOfferUs := offer.1,
       asym := asym.map (fun a => if ok a then a else 0), baseDid := u16At d 0x14 },
     dis.2 || rate.2 || flags.2 || hb.2 || hold.2 || offer.2 || !asym.all ok)

/-- The clock configuration block (R488). -/
def clockCfgOf (d : Data) : ClockCfg × Bool :=
  if ¬ blockValid d 64 [(0x38, 4)] then (ClockCfg.reset, true)
  else
    let ref := pickField (u8At d 2) 1 4 1
    let flags := pickField (u8At d 3) 0 3 0
    let mode := pickField (u8At d 4) 1 3 1
    let depth := pickField (u8At d 5) 1 (if mode.1 = 3 then 25 else 50) 0
    let freq := pickField (u16At d 6) 3000 3300 3150
    let rw := pickField (u8At d 8) 1 4 2
    let rn := pickField (u8At d 9) 1 4 3
    let sw := pickField (u8At d 0xA) 1 4 2
    let sn := pickField (u8At d 0xB) 1 4 2
    let hold := pickField (u16At d 0x34) 1 3600 60
    let pps := pickField (u16At d 0x36) 1 1000 50
    ({ refSel := ref.1, sris := bit flags.1 0, ppsOutEn := bit flags.1 1, sscMode := mode.1, sscDepth := depth.1, sscFreq := freq.1,
       rootWin := rw.1, rootN := rn.1, synWin := sw.1, synN := sn.1, seeds := (List.range 10).map (fun k => BitVec.ofNat 32 (u32At d (0xC + 4 * k))),
       holdoverS := hold.1, ppsLockNs := pps.1 },
     ref.2 || flags.2 || mode.2 || depth.2 || freq.2 || rw.2 || rn.2 || sw.2 || sn.2 || hold.2 || pps.2)

/-- The calibration block: agree_tol (R520). -/
def calTolOf (d : Data) : Nat × Bool := if ¬ blockValid d 16 [(0x03, 9)] then (2, true) else pickField (u8At d 2) 1 8 2
/-- The regulator at a start: its block in the configuration area, by default address 0x60 and page 0, commanded to V_nom (R574). -/
def regulatorOf (s : State) : Regulator :=
  let d := configBlock s 0x140 16
  let at_ := if blockValid d 16 [(0x04, 8)] then (u8At d 2, u8At d 3) else (0x60, 0)
  { addr := at_.1, page := at_.2, mv := s.boot.fuses.vNom, lastPoll := s.clk.up }
/-- The PCI identity block (R384, R533). -/
def subsystemOf (d : Data) : Nat × Nat := if blockValid d 16 [(0x06, 6)] then (u16At d 2, u16At d 4) else (0x1D7A, 0)

/-! ## The calibration record (R518, R519) -/

/-- The bytes of a record before its CRC: sequence number, valid mask, temperature, trims in the order of the domain bits. -/
def recordBody (seq valid : Nat) (tj : Int) (trims : List (List (BitVec 8))) : Data :=
  le 4 seq ++ le 1 valid ++ le 2 (codeOf 16 tj) ++ trims.flatten
def recordSize : Nat := 1711
/-- Whether a copy's CRC checks and its sequence number is not that of erased flash. -/
def recordValid (d : Data) : Bool := u32At d 0 ≠ 0xFFFFFFFF && u32At d 1707 = (crc32c (d.take 1707)).toNat
/-- Cut the trims of a record by domain. -/
def cutTrims : Data → List Nat → List (List (BitVec 8))
  | _, [] => []
  | d, n :: ns => d.take n :: cutTrims (d.drop n) ns
/-- The valid copies, as (copy, bytes). -/
def recordCopies (s : State) : List (Nat × Data) := [0, 1].filterMap fun c =>
  let d := flashAt s (faCal c) recordSize
  if u32At d 0 ≠ 0xFFFFFFFF ∧ recordValid d then some (c, d) else none
/-- The copy in use: the valid one of the higher sequence number. -/
def recordInUse (s : State) : Option (Nat × Data) := match recordCopies s with
  | [] => none
  | [x] => some x
  | x :: y :: _ => if u32At x.2 0 < u32At y.2 0 then some y else some x

/-! ## The lifecycle token (R544 to R546) -/

def tokenSize : Nat := 608
/-- Whether a token's fields check: magic, version, kind, serial, lock_gen, reserved bytes, key not revoked. -/
def tokenFields (s : State) (d : Data) : Bool :=
  let f := s.boot.fuses
  u32At d 0 = 0x4E4B4F54 && u16At d 4 = 1 && [1, 2, 3].contains (u16At d 6) && u64At d 8 = f.serial.toNat && u32At d 0x10 = f.relock &&
  decide (u32At d 0x14 ≤ 3) && !(f.lifeKeyRevoked.drop (u32At d 0x14)).headD true && zeroSpan d 0x18 72
/-- The bytes of the token sector that are not erased. -/
def tokenStored (s : State) : Bool := s.boot.flash.any fun e => decide (faToken ≤ e.1 ∧ e.1 < faToken + 4096)
/-- The lifecycle that a start fixes, and whether a stored token is invalid. The signature was checked when the token was
stored. -/
def lifecycleAt (s : State) : Lifecycle × Bool :=
  let f := s.boot.fuses
  if f.retired then (.retired, false)
  else if ¬ f.production then (.development, false)
  else if ¬ tokenStored s then (.production, false)
  else
    let d := flashAt s faToken tokenSize
    if tokenFields s d ∧ u16At d 6 = 1 ∧ f.relock < 16 then (.unlocked, false) else (.production, true)

/-! ## Measurements (R548) -/

/-- A hash as a field of 64 bytes. -/
def hash64 (d : Data) : Data := ((Config.sha512 d) ++ zeros 64).take 64
/-- The bytes of a section of the running image. -/
def sectionBytes (s : State) (type : Nat) : Option Data :=
  (sectionOf (imageHead s s.boot.slotB) type).map fun x => flashAt s (faSlot s.boot.slotB + x.1) x.2
/-- The configuration blocks as applied, in order. -/
def appliedBlocks (s : State) : Data :=
  let a := s.store.cfg
  let l := s.link.cfg
  let c := s.clk.cfg
  le 1 (if a.ecc then 1 else 2) ++ le 1 a.targetRate ++ le 1 a.wmHigh ++ le 1 a.wmLow ++ le 2 a.idleDelay ++ le 4 a.rdThreshold ++ le 2 a.throttleCap ++
  le 2 a.throttleMs ++ le 2 a.scrubMin ++ a.masks.flatMap (le 8 ·) ++ le 1 l.portDisable ++ le 1 l.maxRate ++ le 1 (b2n l.noNarrow) ++
  le 2 l.heartbeatMs ++ le 2 l.linkHoldMs ++ le 2 l.healOfferUs ++ (l.asym.flatMap fun x => le 2 (codeOf 16 x)) ++ le 2 l.baseDid ++
  le 1 c.refSel ++ le 1 (b2n c.sris + 2 * b2n c.ppsOutEn) ++ le 1 c.sscMode ++ le 1 c.sscDepth ++ le 2 c.sscFreq ++ le 1 c.rootWin ++ le 1 c.rootN ++
  le 1 c.synWin ++ le 1 c.synN ++ (c.seeds.flatMap fun x => le 4 x.toNat) ++ le 2 c.holdoverS ++ le 2 c.ppsLockNs ++ le 1 s.cal.agreeTol
/-- The eight measurements of a start. -/
def measure (s : State) : List Data :=
  let f := s.boot.fuses
  [(Config.romMeasurement ++ zeros 64).take 64, hash64 (flashAt s (faSlot s.boot.slotB) 0x400), hash64 ((sectionBytes s 1).getD []),
   hash64 ((sectionBytes s 2).getD []), if s.cs.loaded then hash64 ((sectionBytes s 3).getD []) else zeros 64, hash64 (appliedBlocks s),
   hash64 (le 1 (b2n f.production + 2 * b2n f.retired) ++ le 1 f.relock ++ le 1 f.rollback ++ (f.keyRevoked ++ f.lifeKeyRevoked).flatMap fun b => le 1 (b2n b)),
   if tokenStored s then hash64 (flashAt s faToken tokenSize) else zeros 64]

/-! ## A start (R509, R538, R563) -/

/-- The start of the firmware: the configuration blocks are applied, the calibration record and the ledger are read. -/
def applyConfig (kind : Nat) (s : State) : State :=
  let st := storeCfgOf s.boot.straps.memClamshell (configBlock s 0 128)
  let lk := linkCfgOf (configBlock s 0x80 64)
  let ck := clockCfgOf (configBlock s 0xC0 64)
  let tol := calTolOf (configBlock s 0x100 16)
  let rec_ := recordInUse s
  let prev := match rec_ with | some x => some (cutTrims (x.2.drop 7) trimCounts) | none => none
  let lf := loadLife s
  let life := countStart kind (if kind = 0 then creditLost lf.1 else lf.1)
  let s :=
    { s with
        store := { s.store with cfg := st.1, clamshell := s.boot.straps.memClamshell },
        link := { s.link with cfg := lk.1, ports := Vector.ofFn fun n : Fin 4 => if bit lk.1.portDisable n.val then { Port.reset with state := .disabled } else Port.reset },
        clk := { s.clk with cfg := ck.1, refInUse := ck.1.refSel },
        cal := { s.cal with agreeTol := tol.1, record := prev, recordSeq := (rec_.map fun x => u32At x.2 0).getD 0,
                            recordValid := (rec_.map fun x => u8At x.2 4).getD 0, recordTj := (rec_.map fun x => i16At x.2 5).getD 0 },
        life := life,
        boot := { s.boot with subsystem := subsystemOf (configBlock s 0x110 16) } }
  let note := fun (ev : Nat) (on : Bool) (s : State) => if on then raise ev [] s else s
  let s := note 0xC0B tol.2 (note 0xB32 ck.2 (note 0xA4A lk.2 (note 0x30E st.2 s)))
  let s := note 0xC09 rec_.isNone s
  match lf.2 with | some c => raise 0x03A [.h c] s | none => s

/-- A start of the boot sequence on a slot: nothing is calibrated, the trims in force are the previous values (R510, R517, R538). -/
def runSlot (slotB : Bool) (s : State) : State :=
  let h := imageHead s slotB
  let trims := (List.range 8).map fun d =>
    match s.cal.record with
    | some r => if bit s.cal.recordValid d then (r.drop d).headD [] else (s.cal.otp.drop d).headD []
    | none => (s.cal.otp.drop d).headD []
  { s with boot := { s.boot with phase := .firmware, slotB := slotB, sectionsOk := false, fwVersion := imageVersion h, fwRollback := imageRollback h,
                                 ifMajor := u8At h 0x025, ifMinor := u8At h 0x024, keyId := imageKey h },
           cal := { s.cal with next := 0, word := 0, endTick := 0, complete := false, committed := 0, trims := trims, causes := [] } }
/-- Neither slot passes: the boot ROM keeps running with the recovery subset of the monitor (R540). -/
def bootFailed (s : State) : State :=
  { s with boot := { s.boot with phase := .failed }, mbx := { s.mbx with state := .failed } }
/-- The ROM's steps 2 and 3: the active slot, or the other one where it fails check 1 (R534, R539). -/
def bootRom (kind : Nat) (s : State) : State :=
  let a := activeSlot s.boot.flash
  if imageLayout (imageHead s a) none then runSlot a (applyConfig kind s)
  else if imageLayout (imageHead s (!a)) none then
    let s := runSlot (!a) (applyConfig kind s)
    { s with boot := { s.boot with fellBack := some (b2n a, 1) } }
  else bootFailed { s with life := countStart kind (loadLife s).1 }

/-- The block as a reset of the whole device leaves it: reset values but for fuses, flash, factory trims, the straps, the host's
memory and what was already sent (R558, R563). -/
def cleared (s : State) : State :=
  { State.reset with
      pending := s.pending, free := s.free, host := s.host,
      boot := { Boot.reset with fuses := s.boot.fuses, flash := s.boot.flash, straps := s.boot.straps },
      cal := { Calibration.reset with otp := s.cal.otp, otpLow := s.cal.otpLow, otpHigh := s.cal.otpHigh, otpLimit := s.cal.otpLimit },
      pcie := { Pcie.reset with messages := s.pcie.messages, msix := s.pcie.msix }, fynal := { Fynal.reset with out := s.fynal.out } }

/-- A reset of the whole device: LAST_RESET takes its code, the start is counted by its kind, and the boot sequence begins
(R489, R509, R538, R563). A thermal trip holds the engine until a power-on reset (R580). -/
def fullReset (code kind : Nat) (straps : Straps) (s : State) : State :=
  if s.fw.thermtrip ∧ kind ≠ 0 then s
  else
    let s := cleared s
    let s := { s with boot := { s.boot with straps := straps }, pcie := { s.pcie with lastReset := code } }
    let l := lifecycleAt s
    bootRom kind { s with boot := { s.boot with lifecycle := l.1, tokenInvalid := l.2, regulator := regulatorOf s }, store := { s.store with clamshell := straps.memClamshell } }

end Sys2Proof.Machine
end

