-- ==== Sys2Proof/Machine/Inlets.lean ====
section
/-! DEFINITION. Inlet commands and inlet events (R35 to R68): configuration, bring-up, release and commit of frames, lane errors,
stop. -/

namespace Sys2Proof.Machine

/-! ## INLET_CONFIG (R36 to R44) -/

/-- Fields of each page. -/
def pageFields (page : Nat) : List (Nat × Nat) :=
  if page = 0 then [(0x08, 15), (0x18, 11)] else if page = 1 then [(0x08, 2), (0x0C, 0x24)] else [(0x08, 0x14)]

/-- The inlet that a page 0 describes. -/
def ofPage0 (d : Data) : Inlet := { Inlet.reset with page0 := some d }
/-- Whether the line rate of page 0 lies in the range of its standard (R37, R38). -/
def lineRateOk (i : Inlet) : Bool :=
  let x := i.m * i.np * i.fsNum
  let y := i.l * i.fsDen
  if i.is204C then decide (24000 * y ≤ x * 165 ∧ x * 165 ≤ 130000 * y) else decide (3125 * y ≤ x * 50 ∧ x * 50 ≤ 12500 * y)
/-- K or E fits F (R37). -/
def periodOk (i : Inlet) : Bool :=
  if i.is204C then decide (256 * i.kOrE % i.f = 0) else decide (ceilDiv 17 i.f ≤ i.kOrE ∧ i.kOrE ≤ min 32 (1024 / i.f))
/-- Ranges of page 0, and its fields against one another (R37 to R41, R42). -/
def page0Checks (d : Data) : List (Nat × Bool) :=
  let i := ofPage0 d
  let b := u8At d
  [(0x0A, decide (b 0x0A ≤ 1)), (0x0A, lineRateOk i), (0x0A, !i.is204C || decide (b 0x15 = 1)), (0x0A, periodOk i), (0x0B, decide (b 0x0B = 1)),
   (0x0C, [1, 2, 4].contains i.nl), (0x0C, decide (i.nl * i.l ≤ 32)), (0x0C, decide (i.nl * i.m ≤ 8)),
   (0x0C, decide (i.nl * i.m * i.fsNum ≤ 512 * i.fsDen)), (0x0D, [1, 2, 4, 8, 16, 32].contains i.l),
   (0x0D, decide (i.m * i.sPer * i.np = 8 * i.l * i.f)), (0x0E, [1, 2, 4, 8].contains i.m), (0x0E, !i.complex || decide (i.m % 2 = 0)),
   (0x10, decide (8 ≤ i.nBits ∧ i.nBits ≤ 16)), (0x10, decide (i.nBits + b 0x13 ≤ i.np)), (0x11, [8, 12, 16].contains i.np),
   (0x11, decide (i.sPer ≠ 64 ∨ i.np = 12)), (0x12, [1, 2, 4, 8, 16, 32, 64].contains i.sPer), (0x13, decide (b 0x13 ≤ 2)),
   (0x13, decide (i.ovr ≤ b 0x13)), (0x14, decide (b 0x14 ≤ 1)), (0x15, decide (b 0x15 ≤ 1)), (0x16, decide (1 ≤ i.kOrE ∧ i.kOrE ≤ 32)),
   (0x18, decide (1 ≤ i.fsNum ∧ i.fsNum ≤ 2 ^ 20)), (0x18, decide (i.fsNum ≤ 512 * i.fsDen)), (0x1C, decide (1 ≤ i.fsDen ∧ i.fsDen ≤ 2 ^ 20)),
   (0x20, decide (b 0x20 ≤ 1)), (0x21, decide (b 0x21 ≤ 1)), (0x22, decide (i.ovr ≤ 2))]
/-- The map of page 1: physical lanes at most once (R43). -/
def laneMap (d : Data) : List Nat := (List.range 32).map fun i => u8At d (0x10 + i)
def page1Checks (d : Data) : List (Nat × Bool) := ((List.range 32).zip (laneMap d)).map fun x =>
  (0x10 + x.1, decide (x.2 = 0xFF) || (decide (x.2 < 32) && !((laneMap d).take x.1).contains x.2))
/-- Ranges of page 2 (R44). -/
def page2Checks (d : Data) : List (Nat × Bool) :=
  let b := u8At d
  [(0x0A, decide (b 0x0A ≤ 1)), (0x0B, decide (b 0x0B ≤ 4)), (0x0C, decide (b 0x0C ≤ 1)), (0x0D, decide (b 0x0D ≤ 1)),
   (0x0E, decide (1 ≤ b 0x0E ∧ b 0x0E ≤ 8)), (0x0F, decide (b 0x0F ≤ 15)), (0x12, decide (u16At d 0x12 ≤ 10000)), (0x18, decide (b 0x18 ≤ 3)),
   (0x19, decide (b 0x19 ≤ 1))]

/-- An inlet by number. -/
def inletIndex (n : Nat) : Option (Fin 4) := if h : n < 4 then some ⟨n, h⟩ else none

/-- Units whose channel a new page 0 has taken away are detached (R40, R209). -/
def dropChannels (n : Fin 4) (s : State) : State :=
  detachUnits (fun t => t.cfg.timeDomain && decide (t.cfg.source % 256 / 8 = n.val) && !channelNamed s (t.cfg.source % 256)) s

def doInletConfig (c : Cmd) (s : State) : State := match inletIndex (c.p8 0x08) with
  | none => checked c [entryCheck c (if c.p8 0x09 ≤ 2 then pageFields (c.p8 0x09) else [(0x08, 0x38)]) [(0x08, false)]] id s
  | some n =>
    let page := c.p8 0x09
    checked c
      [entryCheck c (if page ≤ 2 then pageFields page else [(0x08, 0x38)]) [], deviceCheck s c, needState (s.inlets[n].state = .stopped),
       params ((0x09, decide (page ≤ 2)) :: (if page = 0 then page0Checks c.bytes else if page = 1 then page1Checks c.bytes else if page = 2 then page2Checks c.bytes else []))]
      (fun s => done c 0 0 (dropChannels n (setInlet n (fun i =>
        if page = 0 then { i with page0 := some c.bytes } else if page = 1 then { i with page1 := some c.bytes } else { i with page2 := some c.bytes }) s))) s

def execInletConfig (id : Nat) (s : State) : Host.Outcome State Fault Refusal := .next (runCmd id 0x0100 anyCmd doInletConfig s)

/-! ## INLET_START (R52, R56, R57, R90) -/

/-- A page that has not been written: E_STATE, aux 8 with the page in bits 15:8 (R56). -/
def pagesWritten (i : Inlet) : Check :=
  firstFail [needState i.page0.isSome 0x0008, needState i.page1.isSome 0x0108, needState i.page2.isSome 0x0208]
/-- The pages against one another, coded 0x2_0000 + page x 0x100 + offset; a combination is named by its field with the lowest coded
offset: the lane map of page 1 is held against nl and l of page 0, and release_offset of page 2 against the local-clock period, which
std of page 0 heads (R37, R43, R44, R56, R427). -/
def pagesAgree (i : Inlet) : Check :=
  let mapped := ((List.range 32).zip (laneMap (i.page1.getD []))).all fun x => if x.1 < i.lanesUsed then decide (x.2 < 32) else decide (x.2 = 0xFF)
  params ((page0Checks (i.page0.getD [])).map (fun x => (0x20000 + x.1, x.2)) ++
    [(0x2000A, !i.fixedRelease || decide (i.releaseField < i.periodOctets)), (0x2000C, mapped)])
/-- Whether an exact sum of rates is at most a number of kB/s. -/
def ratesWithin (rates : List (Nat × Nat)) (limit : Nat) : Bool := decide ((sumRates rates).1 ≤ limit * (sumRates rates).2)
/-- History rates of the started inlets with one more: 122.88 GB/s at most, and 61.44 GS/s in the 16-bit format, both exact (R52, R90). -/
def historyFits (s : State) (i : Inlet) : Bool :=
  let all := i :: s.inlets.toList.filter (·.active)
  ratesWithin (all.map (·.rate)) 122880000 && ratesWithin ((all.filter (·.hist16)).map (·.rate)) 122880000

/-- An admitted start: the ring is sized and bring-up begins with the LC-PLL (R15, R56, R66). -/
def beginInlet (c : Cmd) (n : Fin 4) (s : State) : State :=
  let marks := s.inlets[n].phaseMarks.map fun m => (m.1, some (m.2.getD (s.clk.tick * 65536)))
  let s := setInlet n (fun i =>
    { i with state := .starting, step := 2, stepSince := s.clk.up, startCmd := some c.id, qualified := 0, nextNum := 0,
             elastic := [], elasticFill := 0, elasticPeak := 0, urgent := false, lanes := Vector.replicate 32 Lane.reset, syncN := 0,
             firstTick := 0, samplesWritten := 0, hold := 0, spread := 0, latencyBound := false, sysrefPhase := false,
             clipSeen := false, urgentSeen := false, sysrefPulses := 0, phaseMarks := marks, unlocked := false, holeCount := 0, holeTicks := 0, clipBlocks := 0,
             lastClipBlock := none, urgentDrains := 0, realignHole := none, stop := none,
             ring := { i.ring with geometry := (i.bytes2, i.fsNum, i.fsDen) } }) s
  let s := if s.clk.synths[3 + n.val].state = .locked then s else startSynth (3 + n.val) s
  let s := divideHistory s
  wait c (if s.clk.synths[3 + n.val].state = .locked then setInlet n (fun i => { i with step := 3 }) s else s)

/-- The lanes of a stopped inlet are not synchronised; their counters stand until the next start (R66, R68). -/
def lanesDown (lanes : Vector Lane 32) : Vector Lane 32 := lanes.map fun l => { l with cdr := false, locked := false }
/-- A start is given up: nothing was written, and every reservation is released (R57, R60). -/
def dropStart (n : Fin 4) (s : State) : State :=
  setSynth (3 + n.val) (fun y => { y with state := .off })
    (releaseAll (.inlet n.val) (setInlet n (fun i => { i with state := .stopped, step := 0, startCmd := none, syncN := 0, lanes := lanesDown i.lanes }) s))
/-- A step of a start fails (R57). -/
def startFail (n : Fin 4) (aux : Nat) (s : State) : State :=
  let cmd := s.inlets[n].startCmd
  let s := raise (evInlet n 0x02) [.w aux] (dropStart n s)
  match cmd with
  | some id => match findCmd s id with | some c => complete c stState 0 0 aux s | none => s
  | none => s

def doInletStart (c : Cmd) (s : State) : State := match inletIndex (c.p8 0x08) with
  | none => checked c [entryCheck c [(0x08, 1)] [(0x08, false)]] id s
  | some n =>
    let i := s.inlets[n]
    checked c
      [entryCheck c [(0x08, 1)] [], deviceCheck s c, needState (i.state = .stopped && !waitsPower s (.inlet n.val)), pagesWritten i, pagesAgree i,
       need (s.store.region rtHistory).isSome stNoResource 0, need (historyFits s i) stNoResource 0]
      (fun s => ifAdmitted (reserveStore (.inlet n.val) [(lcHistory, i.historyKbs)] s) (complete c stNoResource 0 0 0 s) fun s =>
          afterPower c (cost i.powerItems) (requestPower c (.inlet n.val) i.powerItems s) (beginInlet c n)
            (setInlet n fun i => { i with state := .starting, step := 1, startCmd := some c.id })
            (releaseAll (.inlet n.val))) s

def execInletStart (id : Nat) (s : State) : Host.Outcome State Fault Refusal := .next (runCmd id 0x0101 anyCmd doInletStart s)

/-- How long a step of a start may take, in ticks (R56). -/
def stepLimit (i : Inlet) : Nat :=
  if i.step = 2 then 200 * usTicks else if i.step = 3 then msTicks else if i.step = 4 then 5 * msTicks else if i.step = 5 then i.sysrefTimeout * msTicks
  else ceilDiv (2 * i.periodSamples * 32 * i.fsDen) (max 1 i.fsNum)
/-- The aux code of a step that times out (R57). The table names no code for a time-out in steps 6 and 7, where the alignment sequence
or the first release does not come: the model answers 7, a loss of synchronisation during steps 5 to 7 (DESIGN CHOICE, log 128). -/
def stepAux (step lane : Nat) : Nat :=
  if step = 2 then 1 else if step = 3 then 2 + lane * 256 else if step = 4 then 3 + lane * 256 else if step = 5 then 5 else 7 + lane * 256

def doInletStartStepTimeout (n : Fin 4) (lane : Fin 32) (s : State) : State :=
  let i := s.inlets[n]
  if i.state ≠ .starting ∨ i.step < 2 then s
  else startFail n (stepAux i.step lane.val) (waitUp (i.stepSince + stepLimit i) s)
def execInletStartStepTimeout (inlet : Fin 4) (lane : Fin 32) (s : State) : Host.Outcome State Fault Refusal :=
  .next (doInletStartStepTimeout inlet lane s)

/-- The start goes on with its next step. -/
def nextStep (n : Fin 4) (step : Nat) (s : State) : State := setInlet n (fun i => { i with step := step, stepSince := s.clk.up }) s
/-- The LC-PLL of a starting inlet has locked (R56). -/
def inletPllLocked (n : Fin 4) (s : State) : State := if s.inlets[n].state = .starting ∧ s.inlets[n].step = 2 then nextStep n 3 s else s

/-- Change one lane. -/
def setLane (n : Fin 4) (k : Nat) (f : Lane → Lane) (s : State) : State := setInlet n (fun i => { i with lanes := vmodN i.lanes k f }) s
/-- Whether every used lane passes a test. -/
def allLanes (i : Inlet) (p : Lane → Bool) : Bool := (List.range i.lanesUsed).all fun k => ((i.lanes.toList.drop k).head?.map p).getD false

/-- A used lane gains clock and data recovery, then code-group or block lock (R56 steps 3 and 4). -/
def doLaneLock (n : Fin 4) (k : Fin 32) (isCdr : Bool) (s : State) : State :=
  let i := s.inlets[n]
  if i.state ≠ .starting ∨ i.lanesUsed ≤ k.val ∨ s.jtag.pinsTaken then s
  else if isCdr ∧ i.step = 3 then
    let s := setLane n k.val (fun l => { l with cdr := true }) s
    if allLanes s.inlets[n] (·.cdr) then
      -- JESD204B: SYNC~ of every link is asserted
      setInlet n (fun i => { i with syncN := if i.is204C then 0 else BitVec.ofNat 4 (2 ^ i.nl - 1) }) (nextStep n 4 s)
    else s
  else if ¬ isCdr ∧ i.step = 4 then
    let s := setLane n k.val (fun l => { l with locked := true }) s
    if allLanes s.inlets[n] (·.locked) then nextStep n 5 (setInlet n (fun i => { i with qualified := 0 }) s) else s
  else s
def execLaneLockAchieved (inlet : Fin 4) (lane : Fin 32) (isCdr : Bool) (s : State) : Host.Outcome State Fault Refusal :=
  .next (doLaneLock inlet lane isCdr s)

/-! ## SYSREF (R45, R46) -/

/-- A local-clock period as a fraction of 1/65,536 tick. -/
def Inlet.periodNum (i : Inlet) : Nat := i.periodSamples * i.stepNum
/-- The signed distance of a time from the nearest local-clock edge, times fs_num, in 1/65,536 tick. -/
def Inlet.phaseOf (i : Inlet) (t : Nat) : Int :=
  let m : Int := max 1 i.periodNum
  let r := (((t : Int) - i.edge) * i.fsNum) % m
  if 2 * r ≤ m then r else r - m

/-- A pulse out of phase opens a mark unless one is open; the next in phase closes it, and marks older than the ring go (R46). -/
def openMark (t : Nat) (marks : List (Nat × Option Nat)) : List (Nat × Option Nat) :=
  if marks.any (·.2.isNone) then marks else marks ++ [(t, none)]
def closeMarks (t oldest : Nat) (marks : List (Nat × Option Nat)) : List (Nat × Option Nat) :=
  (marks.map fun m => (m.1, some (m.2.getD t))).filter fun m => decide (oldest ≤ m.2.getD t)

/-- A SYSREF pulse, captured at 2.56 GHz: it counts toward qualification, or is compared with the expected phase. -/
def doSysrefPulse (n : Fin 4) (half : Bool) (s : State) : State :=
  let i := s.inlets[n]
  let t := s.clk.tick * 65536 + if half then 32768 else 0
  let d := i.phaseOf t
  if i.state = .starting ∧ i.step = 5 then
    if i.qualified = 0 ∨ d.natAbs > 32768 * i.fsNum then
      let s := setInlet n (fun i => { i with edge := t, qualified := 1 }) s
      if i.qualify ≤ 1 then nextStep n 6 s else s
    else
      let s := setInlet n (fun i => { i with qualified := i.qualified + 1 }) s
      if i.qualify ≤ i.qualified + 1 then nextStep n 6 s else s
  else if i.state = .stopped ∨ (i.state = .starting ∧ i.step < 6) then s
  else
    let s := setInlet n (fun i => { i with sysrefPulses := satN 32 (i.sysrefPulses + 1) }) s
    if d.natAbs > i.sysrefWindow * 65536 * i.fsNum then
      let e := roundDiv d (max 1 (i.fsNum * 65536))
      raiseAt (evInlet n 0x03) (t / 65536) [.w (codeOf 32 e)] (setInlet n (fun i => { i with sysrefPhase := true, phaseMarks := openMark t i.phaseMarks }) s)
    else setInlet n (fun i => { i with phaseMarks := closeMarks t (i.ring.oldest * 65536) i.phaseMarks }) s
def execSysrefPulse (inlet : Fin 4) (halfTick : Bool) (s : State) : Host.Outcome State Fault Refusal := .next (doSysrefPulse inlet halfTick s)

/-! ## Deskew and release (R47 to R49, R57) -/

/-- The release window of a start: the offset, the hold of the earliest lane in octets, and whether the arrivals fit (R47). -/
def releaseWindow (i : Inlet) (arrivals : List Nat) : Nat × Nat × Bool :=
  let used := arrivals.take i.lanesUsed
  let hi := used.foldl max 0
  let lo := used.foldl min hi
  let p := max 1 i.periodOctets
  let need_ := hi - lo + 8
  if i.fixedRelease then (i.releaseField, (i.releaseField + p - lo % p) % p, decide (need_ ≤ min 512 p))
  else ((hi + 8) % p, need_, decide (need_ ≤ min 512 p))

/-- Whether a hold of a number of octets exceeds 0.24 us, which is 307.2 ticks (R49). -/
def holdsLong (i : Inlet) (octets : Nat) : Bool := decide (3072 * (i.fsNum * i.f) < octets * i.sPer * 32 * i.fsDen * 10)

/-- The lanes' arrival phases are measured and, for JESD204B, the alignment sequence is checked against page 0 (R56 step 6, R57). -/
def doIlasReceived (n : Fin 4) (r : IlasResult) (s : State) : State :=
  let i := s.inlets[n]
  if i.state ≠ .starting ∨ i.step ≠ 6 then s
  else if ¬ i.is204C ∧ ¬ r.parametersMatch then startFail n (4 + r.badLane % 32 * 256) s
  else
    let w := releaseWindow i r.arrivals
    if ¬ w.2.2 then startFail n 6 s
    else
      let used := r.arrivals.take i.lanesUsed
      let hold := i.octets256 w.2.1
      let s := setInlet n (fun i =>
        { i with release := w.1, hold := hold, spread := used.foldl max 0 - used.foldl min (used.foldl max 0), syncN := 0,
                 latencyBound := holdsLong i w.2.1,
                 lanes := (List.range 32).foldl (fun l k => vmodN l k fun x => { x with arrival := (r.arrivals.drop k).headD 0 }) i.lanes }) s
      -- the hold exceeds 0.24 us: 307.2 ticks
      let s := if holdsLong i w.2.1 then raise (evInlet n 0x07) [.w hold] s else s
      nextStep n 7 s
def execIlasReceived (inlet : Fin 4) (r : IlasResult) (s : State) : Host.Outcome State Fault Refusal := .next (doIlasReceived inlet r s)

/-! ## FRAME_RELEASE (R13, R46 to R55) -/

/-- Bytes that a number of sample numbers take. -/
def Inlet.bytesOf (i : Inlet) (samples : Nat) : Nat := ceilDiv (samples * i.bytes2) 2
/-- The tick at which the release of the period of the next sample number falls. -/
def Inlet.releaseDue (i : Inlet) : Nat :=
  ceilDiv (i.edge + (roundDiv ((i.periods * i.periodSamples + i.nextNum) * i.stepNum : Nat) (max 1 i.fsNum)).toNat + i.octets16 i.release) 65536
/-- The first release falls at the next period whose release is not past (R56 step 7). -/
def Inlet.firstPeriod (i : Inlet) (tick : Nat) : Nat :=
  let off := i.edge + i.octets16 i.release
  if tick * 65536 ≤ off then 0 else ceilDiv ((tick * 65536 - off) * i.fsNum) (max 1 i.periodNum)

/-- 2 MiB of elastic buffer; 75 % is urgent, and below 50 % the urgent drain ends (R54, R93). -/
def elasticSize : Nat := 2097152

/-- The frame of one period, with the clip flags of its 256-sample blocks (R50 to R53). -/
def frameOf (i : Inlet) (uncertain : Bool) (samples : List (List U16)) : Frame :=
  let clips := ((List.range samples.length).zip samples).filterMap fun x =>
    if (x.2.take i.converters).any (sampleClips i) then some ((i.nextNum + x.1) / 256) else none
  { num := i.nextNum, base := (i.edge : Int) + i.aperture, lag := i.lag, stepNum := i.stepNum, stepDen := i.fsNum,
    values := samples.map fun v => (List.range i.converters).map fun k => historyValue i ((v.drop k).headD 0), clips := clips.dedup,
    uncertain := uncertain, hist16 := i.hist16, complex := i.complex }

/-- Newly clipped blocks are counted and reported (R53, R67). -/
def noteClips (n : Fin 4) (f : Frame) (s : State) : State :=
  let i := s.inlets[n]
  let fresh := f.clips.filter fun b => decide (i.lastClipBlock ≠ some b)
  if fresh = [] then s
  else
    let s := setInlet n (fun i => { i with clipSeen := true, clipBlocks := satN 32 (i.clipBlocks + fresh.length), lastClipBlock := fresh.getLast? }) s
    raiseW (evInlet n 0x08) s.clk.tick fresh.length 0 [.since] s

/-- The GAP cause of an overflow: 9 while the store is halted, 8 while row disturbance throttles the inlet's writes, otherwise 2 (R13,
R65, R100). -/
def overflowCause (n : Fin 4) (s : State) : Nat :=
  if s.store.state = .halted then 9 else if s.store.throttles.any (·.requester = n.val) then 8 else 2

/-- Whether a tick lies in a hole that the inlet itself made: a lane error, a realignment, an unlocked clock (R62, R63, R65). -/
def inInletHole (r : Ring) (tick : Nat) : Bool :=
  r.holes.any fun h => decide (h.start ≤ tick ∧ tick < h.stop) && (decide (h.cause = 3) || decide (h.cause = 9))

/-- Every sample of a frame is evaluated by the inlet's time-domain units, ahead of the store; a sample that lies in a hole of the
inlet's own making is not, and ends the runs (R12, R196, R202). -/
def evaluateFrame (n : Fin 4) (i : Inlet) (samples : List (List U16)) (s : State) : State :=
  if s.squall.units.toList.all fun u => u.cfg.kind = 0 then s
  else forL ((List.range samples.length).zip samples) (fun x s =>
    let t := i.timeOf (i.nextNum + x.1)
    if inInletHole i.ring (t / 65536) then skipSamples n 1 t s
    else evaluateSample n t ((List.range i.converters).map fun k => shifted16 i ((x.2.drop k).headD 0)) s) s

/-- Samples enter the elastic buffer: each crossing of 75 % is an event and asks for an urgent drain (R54, R93). -/
def acceptFrame (n : Fin 4) (f : Frame) (s : State) : State :=
  let i := s.inlets[n]
  let fill := i.elasticFill + i.bytesOf f.values.length
  let rises := decide (4 * i.elasticFill < 3 * elasticSize ∧ 3 * elasticSize ≤ 4 * fill)
  let s := setInlet n (fun i =>
    { i with elastic := i.elastic ++ [f], elasticFill := fill, elasticPeak := max i.elasticPeak fill, urgent := i.urgent || rises,
             urgentSeen := i.urgentSeen || rises, urgentDrains := satN 32 (i.urgentDrains + b2n rises) }) s
  if rises then raise (evInlet n 0x04) [.w fill, .w s.inlets[n].urgentDrains] s else s

/-- Sample numbers for which the elastic buffer has room. -/
def elasticRoom (i : Inlet) : Nat := (elasticSize - i.elasticFill) * 2 / max 1 i.bytes2

/-- A frame is evaluated, and enters the elastic buffer; the samples that do not fit are discarded and their span is a hole (R12, R13,
R54, R202). -/
def pushFrame (n : Fin 4) (f : Frame) (samples : List (List U16)) (s : State) : State :=
  let i := s.inlets[n]
  let kept := f.values.take (elasticRoom i)
  let s := noteClips n f (evaluateFrame n i samples s)
  let s := if kept = [] then s else acceptFrame n { f with values := kept } s
  if kept.length < f.values.length then enterHole n (f.timeOf (f.num + kept.length) / 65536) f.tick1 (overflowCause n s) s else s

/-- Tasks and IQ sources of an inlet publish what is now decided. -/
def publishInlet (n : Fin 4) (s : State) : State :=
  let s := publishIq n s
  forL ((s.tasks.filter fun t => t.inlet = some n).map (·.id)) (fun id s => publishTask id s) s

/-- The first release of a start: the inlet is RUNNING and its command completes (R56 step 7). -/
def firstRelease (n : Fin 4) (s : State) : State :=
  let i := { s.inlets[n] with periods := 0 }
  let k := i.firstPeriod s.clk.tick
  let i := { i with periods := k, nextNum := 0 }
  let first := i.tickOf 0
  -- the ticks between the stop and the new first sample hold no data (R61)
  let span := match s.inlets[n].ring.stoppedAt with | some t => [(t, first)] | none => []
  let s := setInlet n (fun j =>
    { j with state := .running, step := 0, periods := k, nextNum := 0, firstTick := first,
             ring := { j.ring with stoppedSpans := j.ring.stoppedSpans ++ span, stoppedAt := none } }) s
  let s := raiseAt (evInlet n 0x00) first [] s
  match s.inlets[n].startCmd with
  | some id => match findCmd s id with
    | some c => done c first s.inlets[n].depth (setInlet n (fun j => { j with startCmd := none }) s)
    | none => s
  | none => s

/-- The samples that lie before a pending stop (R58). -/
def beforeStop (i : Inlet) (samples : List (List U16)) : List (List U16) := match i.stop with
  | some p => samples.take (i.numAt p.tick 1 - i.nextNum)
  | none => samples

/-- While its LC-PLL is out of lock what the inlet receives is a hole of cause 9, in whole local-clock periods; while the clock is
uncertain otherwise, a lane's elastic buffer may slip, which makes the period one: whether it does is a free value (R65, R486; log 129). -/
def clockHole (n : Fin 4) (f : Frame) (s : State) : State :=
  if s.inlets[n].unlocked ∨ s.clk.synths[3 + n.val].state = .holdover then enterHole n f.tick0 f.tick1 9 s
  else if s.clk.uncertain then
    let r := takeFree s
    if Config.freeBit r.1 then enterHole n f.tick0 f.tick1 9 r.2 else r.2
  else s

/-- The samples of a period: an inlet that writes ends a hole of a realignment at their first; one that does not makes them part of
its hole (R48, R55, R63, R64). -/
def releaseFrame (n : Fin 4) (f : Frame) (samples : List (List U16)) (s : State) : State :=
  let i := s.inlets[n]
  let from_ := i.realignHole.getD f.tick0
  let s := setInlet n (fun i => { i with realignHole := none }) s
  if i.state = .running then pushFrame n f samples (clockHole n f (enterHole n from_ f.tick0 3 s))
  else
    -- what came before the loss is good
    let good := i.numAt from_ 1 - f.num
    let s := if good = 0 then s else pushFrame n { f with values := f.values.take good } (samples.take good) s
    let s := enterHole n from_ f.tick1 (if i.state = .fault then i.faultCause else 3) s
    publishInlet n (if good < samples.length then skipSamples n (samples.length - good) (f.timeOf (f.num + good)) s else s)

/-- One local-clock period is released (R48). -/
def doFrameRelease (n : Fin 4) (samples : List (List U16)) (s : State) : State :=
  let i := s.inlets[n]
  if i.state = .stopped ∨ (i.state = .starting ∧ i.step ≠ 7) ∨ i.periodSamples = 0 ∨ samples.length ≠ i.periodSamples then s
  else
    let s := if i.state = .starting then firstRelease n s else s
    let s := squallDue (waitTick s.inlets[n].releaseDue s)
    let i := s.inlets[n]
    let own := beforeStop i samples
    let f := frameOf i (s.clk.uncertain || s.clk.synths[3 + n.val].state = .holdover) own
    let s := if own = [] then s else releaseFrame n f own s
    setInlet n (fun i => { i with nextNum := i.nextNum + i.periodSamples, unlocked := false }) s
def execFrameRelease (inlet : Fin 4) (samples : List (List U16)) (s : State) : Host.Outcome State Fault Refusal :=
  .next (doFrameRelease inlet samples s)

/-! ## HISTORY_WRITE_COMMIT (R14, R16, R28, R93, R506) -/

/-- One frame leaves the elastic buffer for the ring (R14, R16). -/
def commitFrame (n : Fin 4) (s : State) : State := match s.inlets[n].elastic with
  | [] => s
  | f :: rest => setInlet n (fun i =>
      let fill := i.elasticFill - i.bytesOf f.values.length
      let r := { i.ring with frames := i.ring.frames ++ [f], newest := f.timeOf (f.stopNum - 1) / 65536,
                             oldest := if i.ring.frames = [] then max i.ring.oldest f.tick0 else i.ring.oldest, version := i.ring.version + 1 }
      { i with elastic := rest, elasticFill := fill, urgent := i.urgent && decide (elasticSize ≤ 2 * fill),
               samplesWritten := i.samplesWritten + f.values.length, ring := trimRing i.ringSamples r }) s

/-- Indices of a task that HISTORY no longer holds while its recovery waits for power become GAP cause 7 (R506). -/
def overtakenBackfill (id oldest : Nat) (s : State) : State := match findTask s id with
  | none => s
  | some t => match t.backfill with
    | some b =>
      if ¬ b.waitingPower then s
      else
        let gone := b.indices.filter fun k => decide (t.frameTime k / 65536 < oldest)
        if gone = [] then s
        else loseIndices id 7 gone (setTask id (fun t => { t with backfill := t.backfill.map fun b => { b with indices := b.indices.filter fun k => !gone.contains k } }) s)
    | none => s
/-- Shares of fenced tiles that wait for power lose what HISTORY no longer holds (R506). -/
def overtakenShares (oldest : Nat) (n : Fin 4) (s : State) : State :=
  forL (List.finRange 20) (fun m s =>
    if s.tiles[m].state ≠ .fenced then s
    else forL s.tiles[m].shares (fun x s => match findTask s x.task with
      | some t =>
        if t.inlet ≠ some n ∨ x.role ≠ srMain ∨ ¬ waitsPower s (.placement x.task) then s
        else
          let last := (t.numAt oldest 1 - t.g0) / max 1 t.desc.frameHop + 1
          let gone := (ownIndices x.period x.residues x.idx last).filter fun k => decide (t.frameTime k / 65536 < oldest)
          match gone.getLast? with
          | some k => loseIndices x.task 7 gone (setShare m x.key (fun y => { y with idx := nextOwn y.period y.residues (k + 1) }) s)
          | none => s
      | none => s) s) s
def overtaken (n : Fin 4) (s : State) : State :=
  let o := s.inlets[n].ring.oldest
  overtakenShares o n (forL ((s.tasks.filter fun t => t.inlet = some n).map (·.id)) (fun id s => overtakenBackfill id o s) s)

/-- Sectors of HISTORY that samples have been written over lose the poison that they had (R80). -/
def rewriteHistory (s : State) : State :=
  if s.store.poison.all fun k => !s.store.within rtHistory (k * 32) 32 || (historySpan s (k * 32)).isNone then s
  else setStore (fun st => { st with poison := st.poison.filter fun k => !s.store.within rtHistory (k * 32) 32 || (historySpan s (k * 32)).isNone }) s

/-- The store takes a burst of frames, which is what its readers wait for (R14, R28). -/
def commitFrames (n : Fin 4) (frames : Nat) (s : State) : State :=
  let s := (List.range frames).foldl (fun s _ => commitFrame n s) s
  let s := if frames = 0 then s else rewriteHistory (scrambleHistory s)
  publishInlet n (advanceTails (overtaken n s))

def doHistoryWriteCommit (n : Fin 4) (frames : Nat) (s : State) : State :=
  let k := min frames s.inlets[n].elastic.length
  let s := if k = 0 then s else storeAsk s
  if storeServes s then commitFrames n k s else s
def execHistoryWriteCommit (inlet : Fin 4) (frames : Nat) (s : State) : Host.Outcome State Fault Refusal :=
  .next (doHistoryWriteCommit inlet frames s)

/-! ## Lane errors (R62 to R66) -/

/-- The inlet enters FAULT and stops writing; its holes have cause 3, or 9 where its clock departed (R63, R64, R487). -/
def faultInlet (n : Fin 4) (cause lane : Nat) (s : State) : State :=
  raise (evInlet n 0x06) [.h cause, .h lane] (setInlet n (fun i => { i with state := .fault, syncN := 0, faultCause := if cause = 3 then 9 else 3 }) s)

/-- Octets of the granule that an error makes a hole: a frame, a multiblock of 32 blocks, or the extended multiblock (R62). -/
def granule (i : Inlet) : LaneErrorKind → Nat
  | .code8b10b => i.f
  | .misplaced => i.f
  | .syncHeader => 256
  | .crc12 => 256
  | .embMarker => i.periodOctets
/-- The sample numbers from and to which octets a to b of a lane carry samples, outward; octet 0 is the first of the local-clock
period before the next release, so that octet periodOctets begins sample nextNum (log 143). -/
def octetSamples (i : Inlet) (a b : Nat) : Nat × Nat :=
  (a / max 1 i.f * i.sPer + i.nextNum - i.periodSamples, ceilDiv b (max 1 i.f) * i.sPer + i.nextNum - i.periodSamples)
/-- The time at which an octet of that count begins, below and above, in whole ticks (R48, R62). -/
def octetTick (i : Inlet) (o : Nat) (up : Bool) : Nat :=
  let den := max 1 (i.fsNum * i.f)
  let num : Int := ((i.edge : Int) + i.aperture) * den +
    ((((o * i.sPer + i.nextNum * i.f : Nat) : Int) - ((i.periodSamples * i.f : Nat) : Int)) - i.lag * i.f) * i.stepNum
  (if up then -((-num).fdiv (den * 65536)) else num.fdiv (den * 65536)).toNat
/-- The number of the first sample that is not committed yet. -/
def Inlet.uncommitted (i : Inlet) : Nat := match i.elastic with | f :: _ => f.num | [] => i.nextNum
/-- Whether an octet can be one in error now: it is being received, in the period released last or in the next, and a later sample is
not committed yet (R55). -/
def octetCurrent (i : Inlet) (kind : LaneErrorKind) (o : Nat) : Bool :=
  let g := granule i kind
  decide (o < 2 * i.periodOctets ∧ i.uncommitted < (octetSamples i (o / g * g) (o / g * g + g)).2)

/-- From an octet's granule onward everything is lost: samples of it that wait in the elastic buffer are not written, those released
are a hole, and what is released next continues it (R63). -/
def loseFrom (n : Fin 4) (kind : LaneErrorKind) (o : Nat) (s : State) : State :=
  let i := s.inlets[n]
  let g := o / granule i kind * granule i kind
  let first := (octetSamples i g g).1
  let start := max (octetTick i g false) i.firstTick
  let keep := (i.elastic.map fun f => { f with values := f.values.take (first - f.num) }).filter fun f => f.values ≠ []
  let s := setInlet n (fun i => { i with elastic := keep, elasticFill := (keep.map fun f => i.bytesOf f.values.length).sum,
                                         realignHole := some (i.realignHole.getD (max start (i.timeOf i.nextNum / 65536))) }) s
  enterHole n start (i.timeOf i.nextNum / 65536) 3 s
/-- Errors of each standard. -/
def kindOf204C : LaneErrorKind → Bool
  | .code8b10b => false | .misplaced => false | .syncHeader => true | .crc12 => true | .embMarker => true
/-- Count an error of a lane. -/
def countLane (kind : LaneErrorKind) (l : Lane) : Lane := match kind with
  | .crc12 => { l with crcErrors := satN 16 (l.crcErrors + 1), windowErrors := l.windowErrors + 1 }
  | _ => { l with codeErrors := satN 16 (l.codeErrors + 1), windowErrors := l.windowErrors + 1 }

/-- The lane event, once a window: at the threshold, or at a loss of synchronisation (R66). -/
def laneEvent (n : Fin 4) (k : Fin 32) (lost : Bool) (s : State) : State :=
  let i := s.inlets[n]
  let l := i.lanes[k]
  if l.windowRaised ∨ (¬ lost ∧ l.windowErrors < i.errThreshold) then s
  else raise (evInlet n (0x40 + k.val)) [.h k.val, .h (satN 16 l.windowErrors), .h (b2n lost)] (setLane n k.val (fun l => { l with windowRaised := true }) s)

/-- An error of a lane is counted; where the inlet has released samples its granule is a hole, outward to whole ticks (R62, R66). -/
def doLaneError (n : Fin 4) (k : Fin 32) (kind : LaneErrorKind) (octet : Nat) (s : State) : State :=
  let i := s.inlets[n]
  if i.state = .stopped ∨ i.lanesUsed ≤ k.val ∨ kindOf204C kind ≠ i.is204C then s
  else
    let s := if i.state = .starting ∨ ¬ octetCurrent i kind octet then s
      else
        let g := octet / granule i kind * granule i kind
        enterHole n (max i.firstTick (octetTick i g false)) (octetTick i (g + granule i kind) true) 3 s
    laneEvent n k false (setLane n k.val (countLane kind) s)
def execLaneErrorDetected (inlet : Fin 4) (place : LaneOctet) (kind : LaneErrorKind) (s : State) : Host.Outcome State Fault Refusal :=
  .next (doLaneError inlet place.lane kind place.octet s)

/-- The link of a lane, and its bit of SYNC~ (R35, R36). -/
def linkOf (i : Inlet) (k : Nat) : Nat := k / max 1 i.l
def syncBit (i : Inlet) (k : Nat) : BitVec 4 := if i.is204C then 0 else BitVec.ofNat 4 (2 ^ linkOf i k)

/-- The granule up to which data was good before a loss of synchronisation: a frame, or a multiblock (R63). -/
def lossKind (i : Inlet) : LaneErrorKind := if i.is204C then .syncHeader else .code8b10b
/-- The lanes of the link of a lane lose their alignment: the link resynchronises as one (R63). -/
def unlockLink (n : Fin 4) (k : Nat) (s : State) : State :=
  let i := s.inlets[n]
  forL (List.range i.l) (fun j s => setLane n (linkOf i k * i.l + j) (fun l => { l with locked := false }) s) s

/-- A lane loses synchronisation (R57, R63, R66). -/
def doLaneSyncLoss (n : Fin 4) (k : Fin 32) (octet : Nat) (s : State) : State :=
  let i := s.inlets[n]
  if i.lanesUsed ≤ k.val ∨ i.state = .stopped ∨ i.state = .fault ∨ ¬ i.lanes[k].locked then s
  else
    let s := laneEvent n k true (setLane n k.val (fun l => { l with locked := false, syncLosses := satN 16 (l.syncLosses + 1) }) s)
    if i.state = .starting then (if 5 ≤ i.step then startFail n (7 + k.val * 256) s else s)
    else
      let s := loseFrom n (lossKind i) (if octetCurrent i (lossKind i) octet then octet else i.periodOctets) s
      if ¬ i.realigns then faultInlet n 1 k.val s
      else unlockLink n k.val (setInlet n (fun i => { i with state := .realigning, syncN := i.syncN ||| syncBit i k.val }) s)
def execLaneSyncLoss (inlet : Fin 4) (place : LaneOctet) (s : State) : Host.Outcome State Fault Refusal :=
  .next (doLaneSyncLoss inlet place.lane place.octet s)

def doLaneResync (n : Fin 4) (k : Fin 32) (arrival : Nat) (s : State) : State :=
  let i := s.inlets[n]
  if i.state ≠ .realigning ∨ i.lanesUsed ≤ k.val ∨ i.lanes[k].locked ∨ s.jtag.pinsTaken then s
  else
    let s := setLane n k.val (fun l => { l with arrival := arrival }) s
    let latest := (i.release + max 1 i.periodOctets - 8) % max 1 i.periodOctets
    if latest < arrival then faultInlet n 2 k.val s
    else
      let s := setLane n k.val (fun l => { l with locked := true, realigns := satN 16 (l.realigns + 1) }) s
      let s := raise (evInlet n 0x09) [.h k.val, .h arrival] s
      let i := s.inlets[n]
      let linkUp := (List.range i.l).all fun j => ((i.lanes.toList.drop (linkOf i k.val * i.l + j)).head?.map (·.locked)).getD true
      let s := if linkUp then setInlet n (fun i => { i with syncN := i.syncN &&& ~~~syncBit i k.val }) s else s
      if allLanes s.inlets[n] (·.locked) then setInlet n (fun i => { i with state := .running }) s else s
def execLaneResyncComplete (inlet : Fin 4) (lane : Fin 32) (arrival : Nat) (s : State) : Host.Outcome State Fault Refusal :=
  .next (doLaneResync inlet lane arrival s)

/-- A fixed window begins at the next multiple of 1,280,000 ticks (R66). -/
def doLaneErrorWindow (s : State) : State :=
  let s := waitTick (ceilDiv s.clk.tick msTicks * msTicks) s
  { s with inlets := s.inlets.map fun i => { i with lanes := i.lanes.map fun l => { l with windowErrors := 0, windowRaised := false } } }
def execLaneErrorWindow (s : State) : Host.Outcome State Fault Refusal := .next (doLaneErrorWindow s)

/-- The LC-PLL of an inlet loses lock: what it has released from now on, and what it receives until the relock, is a hole of cause 9
(R65; log 129). -/
def inletUnlocked (n : Fin 4) (s : State) : State :=
  let i := s.inlets[n]
  if i.state = .stopped ∨ i.state = .starting then s
  else enterHole n (max s.clk.tick i.firstTick) (i.timeOf i.nextNum / 65536) 9 (setInlet n (fun i => { i with unlocked := true }) s)

/-! ## INLET_STOP (R58 to R61) -/

/-- Tasks whose source is an inlet, and the other users that keep it from stopping without FORCE (R59). -/
def inletTasks (s : State) (n : Fin 4) : List Task := s.tasks.filter fun t => t.inlet = some n && t.kind ≠ .retro
def inletUsed (s : State) (n : Fin 4) : Bool :=
  !(inletTasks s n).isEmpty ||
  s.squall.ats.toList.any (fun a => a.armed && (match a.def_ with
    | some d => d.inlets.contains n || d.slots.any fun x => (inletTasks s n).any (·.id = x.2)
    | none => false)) ||
  s.tw.toList.any fun t => t.isOpen && (match t.iq with | some q => (iqChannels q.chMask).any (·.2 = n) | none => false)

/-- The first index of a task whose frame does not lie wholly before a tick (R59). -/
def Task.firstBeyond (t : Task) (tick : Nat) : Nat :=
  let n := t.numAt tick 1
  if n < t.g0 + t.desc.indexLen then 0 else (n - t.g0 - t.desc.indexLen) / t.desc.hop + 1
/-- With FORCE, each task of the inlet stops at its last spectrum before the stop tick (R59). -/
def forceTasks (n : Fin 4) (tick : Nat) (s : State) : State :=
  { s with tasks := s.tasks.map fun t => if t.inlet = some n ∧ t.kind ≠ .retro ∧ t.active then
      { t with stopIndex := some (match t.stopIndex with | some e => min e (t.firstBeyond tick) | none => t.firstBeyond tick) } else t }

/-- The next local-clock edge at or after now. -/
def Inlet.nextEdge (i : Inlet) (tick : Nat) : Nat :=
  let d := (tick * 65536 - i.edge) * i.fsNum
  ceilDiv (i.edge * i.fsNum + ceilDiv d (max 1 i.periodNum) * i.periodNum) (max 1 (i.fsNum * 65536))

def doInletStop (c : Cmd) (s : State) : State := match inletIndex (c.p8 0x08) with
  | none => checked c [entryCheck c [(0x08, 2), (0x10, 8)] [(0x08, false)]] id s
  | some n =>
    let i := s.inlets[n]
    let force := bit (c.p8 0x09) 0
    checked c
      [entryCheck c [(0x08, 2), (0x10, 8)] [], deviceCheck s c, needState (i.state ≠ .stopped && i.stop.isNone), params [(0x09, decide (c.p8 0x09 ≤ 1))],
       needState (force || i.state = .starting || !inletUsed s n)]
      (fun s =>
        if i.state = .starting then
          let s := dropStart n s
          let s := match i.startCmd with
            | some id => match findCmd s id with | some a => complete a stAborted 0 0 0 s | none => s
            | none => s
          done c 0 0 s
        else
          let t := if c.p64 0x10 ≤ s.clk.tick then i.nextEdge s.clk.tick else c.p64 0x10
          let s := setInlet n (fun i => { i with stop := some ⟨c.id, t, force⟩ }) s
          wait c (if force then forceTasks n t s else s)) s

def execInletStop (id : Nat) (s : State) : Host.Outcome State Fault Refusal := .next (runCmd id 0x0102 anyCmd doInletStop s)

/-- Whether an inlet that writes has still to release samples from before a tick: it releases them up to D periods and the release
offset after their ticks (R48, R58). -/
def releasesBefore (i : Inlet) (tick : Nat) : Bool := i.state = .running && decide (i.timeOf i.nextNum < tick * 65536)

/-- The stop tick is reached and every sample with a tick before it has been released and is written: the inlet returns to STOPPED
(R58, R59, R61, R209, R220). Its LC-PLL is switched off, which the section leaves open (DESIGN CHOICE, log 130). -/
def doInletStopTick (n : Fin 4) (s : State) : State := match s.inlets[n].stop with
  | none => s
  | some p => if releasesBefore s.inlets[n] p.tick then s else
    let s := waitTick p.tick s
    -- what the elastic buffer still holds is written, less what the stop tick cuts off
    let s := setInlet n (fun i => { i with elastic := i.elastic.map fun f => { f with values := f.values.take (i.numAt p.tick 1 - f.num) } }) s
    let s := commitFrames n s.inlets[n].elastic.length s
    let last := s.inlets[n].ring.newest
    let s := detachInlet n (setInlet n (fun i =>
      { i with state := .stopped, stop := none, elastic := [], elasticFill := 0, syncN := 0, urgent := false, lanes := lanesDown i.lanes,
               ring := { i.ring with stoppedAt := some p.tick } }) s)
    let s := if p.force then
        let s := disarmInlet n s
        let s := forL (List.finRange 16) (fun m s => if (match s.tw[m].iq with | some q => (iqChannels q.chMask).any (·.2 = n) | none => false) then beginClose m 3 none s else s) s
        let s := forL ((s.tasks.filter fun t => t.inlet = some n ∧ t.kind ≠ .retro).map (·.id)) (fun id s => publishTask id s) s
        forL (s.xcorrs.filter fun x => x.sources.any fun y => !y.remote && decide (inletOfChannel y.channel = some n)) (fun x s => endXcorr x.id s) s
      else s
    let s := setSynth (3 + n.val) (fun y => { y with state := .off }) (releaseAll (.inlet n.val) s)
    let s := raiseAt (evInlet n 0x01) last [] s
    match findCmd s p.cmd with
    | some c => done c last 0 s
    | none => s
def execInletStopTickReached (inlet : Fin 4) (s : State) : Host.Outcome State Fault Refusal := .next (doInletStopTick inlet s)

/-! ## INLET_STATUS (R68) -/

def inletStateCode : InletState → Nat
  | .stopped => 0 | .starting => 1 | .running => 2 | .realigning => 3 | .fault => 4
def inletFlags (i : Inlet) : Nat := b2n i.latencyBound + 2 * b2n i.sysrefPhase + 4 * b2n i.clipSeen + 8 * b2n i.urgentSeen
def laneEntry (l : Lane) : Data :=
  le 2 l.codeErrors ++ le 2 l.crcErrors ++ le 2 l.syncLosses ++ le 2 l.realigns ++ le 2 l.arrival ++ le 1 (b2n l.locked) ++ le 1 0
def pairedMask (i : Inlet) : Nat := if i.complex then ofBits ((List.range i.converters).filter fun k => k % 2 = 1) else 0
def inletStatus (i : Inlet) : Data :=
  block 512
    [(0x000, le 4 (inletStateCode i.state)), (0x004, le 4 (inletFlags i)), (0x008, le 8 i.firstTick), (0x010, le 8 i.samplesWritten),
     (0x018, le 4 i.hold), (0x01C, le 2 i.spread), (0x01E, le 2 i.release), (0x020, le 4 i.sysrefPulses), (0x024, le 4 i.holeCount),
     (0x028, le 8 i.holeTicks), (0x030, le 4 i.clipBlocks), (0x034, le 4 i.urgentDrains), (0x038, le 4 i.elasticPeak),
     (0x03C, le 4 (pairedMask i)), (0x040, i.lanes.toList.flatMap laneEntry)]

def doInletStatus (c : Cmd) (s : State) : State := match inletIndex (c.p8 0x08) with
  | none => checked c [entryCheck c [(0x08, 1), (0x10, 8)] [(0x08, false)]] id s
  | some n => checked c [entryCheck c [(0x08, 1), (0x10, 8)] [], deviceCheck s c, params [(0x10, aligned64 (c.p64 0x10))]] (fun s =>
      let i := s.inlets[n]
      done c (inletStateCode i.state + inletFlags i * 256) i.samplesWritten (writeBlock c (c.p64 0x10) (inletStatus i) s)) s

def execInletStatus (id : Nat) (s : State) : Host.Outcome State Fault Refusal := .next (runCmd id 0x0103 anyCmd doInletStatus s)

end Sys2Proof.Machine
end

