-- ==== Sys2Proof/Machine/Boot.lean ====
section
/-! DEFINITION. The rows of starts and resets: the resets of the whole device (R407, R441, R563, R576, R580), the boot sequence and
power-up calibration (R477, R509 to R521, R538 to R541), the regulator (R574), and the watchdog (R565, R566). -/

namespace Sys2Proof.Machine

/-! ## Resets -/

def execPowerOn (straps : Straps) (s : State) : Host.Outcome State Fault Refusal := .next (fullReset 0 0 straps s)
def execResetN (straps : Straps) (s : State) : Host.Outcome State Fault Refusal := .next (fullReset 1 1 straps s)
/-- A supply below its floor resets as a power-on does (R576). -/
def execSupplyBrownout (straps : Straps) (s : State) : Host.Outcome State Fault Refusal := .next (fullReset 0 0 straps s)

/-- PERST_N: the host interface alone, or the whole device with the straps as they were sampled (R407). A boot that failed and limp
mode are held until a power-up or RESET_N, so that PERST_N resets the host interface alone there (R477, R540). -/
def doPerst (s : State) : State :=
  if s.fw.thermtrip then s
  else if s.boot.straps.perstScope ∨ s.boot.phase = .failed ∨ s.clk.limp then hostReset 3 true s
  else fullReset 2 2 s.boot.straps s
def execPerstNAssert (s : State) : Host.Outcome State Fault Refusal := .next (doPerst s)

/-- A sensor above 120 °C holds the engine as RESET_N held low does, until a power-on reset (R580). -/
def doThermtrip (s : State) : State :=
  let s := cleared s
  { s with boot := { s.boot with phase := .held }, fw := { s.fw with thermtrip := true }, pcie := { s.pcie with lastReset := 1 } }
def execThermtrip (s : State) : Host.Outcome State Fault Refusal := .next (doThermtrip s)

/-- The delayed action of the DEV_RESET that is due first (R441). -/
def doDelayedReset (s : State) : State := match s.mbx.delayed with
  | [] => s
  | d :: ds =>
    let s := waitUp d.at_ { s with mbx := { s.mbx with delayed := ds } }
    if d.scope = 0 then fullReset 7 3 s.boot.straps s else disableQueues s
def execDevResetDelayedAction (s : State) : Host.Outcome State Fault Refusal := .next (doDelayedReset s)

/-! ## Limp mode -/

/-- A failed domain: the event, the ledger's count, and its cause for the monitor (R521). -/
def failDomain (d cause disagree implausible : Nat) (s : State) : State :=
  let s := setLife (fun l => { l with calFails := satN 32 (l.calFails + 1) }) s
  raise (0xC00 + d) [.h cause, .h disagree, .h implausible] { s with cal := { s.cal with causes := s.cal.causes ++ [(d, cause)] } }

/-- The domains by their bits, in the order of the sequence (R509). -/
def calOrder : List Nat := [0, 1, 6, 2, 5, 3, 4, 7]

/-- The crystal does not oscillate: limp mode on the internal oscillator; every domain is skipped and reported failed (R477, R514). -/
def doCrystalTimeout (s : State) : State :=
  if s.boot.phase ≠ .firmware ∨ s.cal.next ≠ 0 ∨ s.cal.complete then s
  else
    let s := setClk (fun c => { c with limp := true, refInUse := 5 }) s
    let s := forL calOrder (fun d s => failDomain d 3 0 0 s) s
    { s with cal := { s.cal with next := 8, complete := true, word := 0, endTick := s.clk.tick } }
def execCrystalStartTimeout (s : State) : Host.Outcome State Fault Refusal := .next (doCrystalTimeout s)

/-! ## Power-up calibration (R509 to R521) -/

/-- One candidate of a run: plausible within its OTP range and distance (R510). -/
def plausible (c : Calibration) (d k : Nat) (x : Option (BitVec 8)) : Option (BitVec 8) :=
  let at_ := fun {α : Type} (l : List (List α)) (dflt : α) => (((l.drop d).headD []).drop k).headD dflt
  match x with
  | none => none
  | some v =>
    let n := v.toNat
    let o := (at_ c.otp 0#8).toNat
    if (at_ c.otpLow 0#8).toNat ≤ n ∧ n ≤ (at_ c.otpHigh 0#8).toNat ∧ n ≤ o + at_ c.otpLimit 0 ∧ o ≤ n + at_ c.otpLimit 0 then some v else none

/-- How the two runs of a domain compare: disagreeing trims, implausible candidates of each run (R511). -/
def compareRuns (tol : Nat) (l : List (Option (BitVec 8) × Option (BitVec 8))) : Nat × Nat × Nat :=
  let off := fun (p : Option (BitVec 8) × Option (BitVec 8)) => match p with
    | (some a, some b) => decide (a.toNat > b.toNat + tol ∨ b.toNat > a.toNat + tol)
    | (none, none) => false
    | _ => true
  ((l.filter off).length, (l.filter fun p => p.1.isNone).length, (l.filter fun p => p.2.isNone).length)

/-- Whether two runs agree as R511 requires, over a number of trims. -/
def runsAgree (tol n : Nat) (l : List (Option (BitVec 8) × Option (BitVec 8))) : Bool :=
  let r := compareRuns tol l
  decide (r.1 = 0 ∧ r.2.1 * 8 ≤ n ∧ r.2.2 * 8 ≤ n)
/-- Whether every channel's two training runs agree at the rate (R512): 32 trims each. -/
def channelsAgree (tol : Nat) (l : List (Option (BitVec 8) × Option (BitVec 8))) : Bool :=
  (List.range 16).all fun ch => runsAgree tol 32 ((l.drop (ch * 32)).take 32)

/-- The store trained: READY at its rate, filled with zeros, not poisoned, with the default regions (R70, R83, R85). -/
def storeFilled (rate : Nat) (s : State) : State :=
  setStore (fun st =>
    { st with state := .ready, pinRate := rate, regions := defaultRegions st.clamshell, mem := [], poison := [], scrambled := [],
              idleSince := some s.clk.up, refreshBase := s.clk.up, refreshed := [], scrubNext := 0, scrubSince := s.clk.up }) s

/-- The store is untrained again and holds nothing. -/
def storeUntrained (s : State) : State := setStore (fun st => { st with state := .untrained, regions := [], mem := [], poison := [], scrambled := [] }) s

/-- What the store comes to after training: READY at the trained rate, zero-filled and with the default regions, or LIMITED
(R69, R70, R83, R85, R102). -/
def trainStore (rate : Nat) (s : State) : State :=
  let target := s.store.cfg.targetRate
  if rate % 2 = 0 ∧ 12 ≤ rate ∧ rate ≤ target then
    let s := raise 0xB04 [] (setSynth 1 (fun y => { y with state := .locked }) (startSynth 1 s))
    let s := storeFilled rate s
    let s := if rate < target then raise 0x301 [] s else s
    raise 0x300 [.h rate] (divideHistory s)
  else raise 0x302 [] (setStore (fun st => { st with state := .limited }) s)

/-- What a domain's commit brings into action (R385, R516, R523). -/
def commitEffect (d rate : Nat) (s : State) : State :=
  if d = 0 then startSynth 0 s
  else if d = 2 then brzLeaveCal s
  else if d = 5 then trainStore rate s
  else if d = 7 then
    let s := if timingApplied s then timingApply s else s
    let s := if scnEnabled s then startScan s else s
    if s.field (kScn 0x20) 31 31 = 1 then auxGo s else s
  else s

/-- A new record where it differs from the one in use, in the other copy (R519). -/
def writeRecord (s : State) : State :=
  let c := s.cal
  let old := c.record.getD c.otp
  let trims := (List.range 8).map fun d => if bit c.word d then (c.trims.drop d).headD [] else (old.drop d).headD []
  let valid := ofBits ((List.range 8).filter fun d => bit c.word d || bit c.recordValid d)
  let copy := match recordInUse s with | some x => 1 - x.1 | none => 0
  let seq := (c.recordSeq + 1) % 2 ^ 32
  if c.record = some trims ∧ c.recordValid = valid ∧ c.recordTj = c.tj then s
  else
    let b := recordBody seq valid c.tj trims
    let s := program (faCal copy) (b ++ le 4 (crc32c b).toNat) (erase (faCal copy) 4096 s)
    raise 0xC0A [.w seq] { s with cal := { s.cal with record := some trims, recordSeq := seq, recordValid := valid, recordTj := c.tj } }

/-- The sequence is over. -/
def calibrationEnds (s : State) : State :=
  let all := decide (s.cal.word % 256 = 255)
  writeRecord { s with cal := { s.cal with complete := true, endTick := s.clk.tick, tj := tjMax s, word := s.cal.word + if all then 2 ^ 31 else 0 } }

/-- A domain completes its two runs: it passes or keeps its previous trims, and commits (R510 to R513). The runs of MEM are those at
the last rate tried: a channel whose runs disagree there has failed at it, and no rate is reached (R512). -/
def doCalDomain (run1 run2 : List (Option (BitVec 8))) (rate : Nat) (s : State) : State :=
  match calOrder.drop s.cal.next with
  | [] => s
  | d :: rest =>
    if s.boot.phase ≠ .firmware ∨ s.cal.complete then s
    else
      let n := (trimCounts.drop d).headD 0
      let cand := fun (r : List (Option (BitVec 8))) => (List.range n).map fun k => plausible s.cal d k ((r.drop k).headD none)
      let a := cand run1
      let b := cand run2
      let r := compareRuns s.cal.agreeTol (a.zip b)
      let s := setPower (fun p => { p with granted := satN 32 (p.granted + 1) }) s
      let rate := if d = 5 ∧ ¬ channelsAgree s.cal.agreeTol (a.zip b) then 0 else rate
      let s := commitEffect d rate { s with cal := { s.cal with next := s.cal.next + 1, committed := s.cal.committed ||| 2 ^ d } }
      let trained := decide (s.store.state = .ready)
      let ok := if d = 5 then trained else runsAgree s.cal.agreeTol n (a.zip b)
      let old := (s.cal.trims.drop d).headD []
      let new := (b.zip old).map fun p => p.1.getD p.2
      let s := if ok then { s with cal := { s.cal with trims := s.cal.trims.set d new, word := s.cal.word ||| 2 ^ d } }
        else failDomain d (if d = 5 then 4 else if r.1 ≠ 0 then 1 else 2) r.1 (r.2.1 + r.2.2) s
      if rest = [] then calibrationEnds s else s
def execCalDomainComplete (run1 run2 : List (Option (BitVec 8))) (trainedRate : Nat) (s : State) : Host.Outcome State Fault Refusal :=
  .next (doCalDomain run1 run2 trainedRate s)

/-! ## Boot (R538 to R541) -/

/-- The image of the slot has been checked whole: the patch is loaded and the measurements stand; or a check failed, and the other
slot is tried once, with the sequence from its first step (R517, R539, R540). -/
def doSectionVerified (checks : CryptoChecks) (body : Data) (turned : List (Fin 20 × Nat × Nat)) (s : State) : State :=
  if s.boot.phase ≠ .firmware ∨ s.boot.sectionsOk then s
  else match imageFailure s s.boot.slotB none checks with
    | none =>
      let s := loadPatch checks body turned { s with boot := { s.boot with patchFailStep := none } }
      { s with boot := { s.boot with sectionsOk := true, measurements := measure s, quoteCount := 0 } }
    | some f =>
      let slot := s.boot.slotB
      if s.boot.fellBack.isSome ∨ ¬ imageLayout (imageHead s (!slot)) none then bootFailed s
      else
        let s := runSlot (!slot) { s with clk := { s.clk with limp := false, refInUse := s.clk.cfg.refSel, synths := Clock.reset.synths } }
        storeUntrained { s with boot := { s.boot with fellBack := some (b2n slot, f) }, brz := Breeze.reset }
def execBootSectionVerified (checks : CryptoChecks) (body : Data) (turned : List (Fin 20 × Nat × Nat)) (s : State) : Host.Outcome State Fault Refusal :=
  .next (doSectionVerified checks body turned s)

/-- The state that the mailbox reports once it answers (R102, R414, R477). -/
def openState (s : State) : MbxState := if s.clk.limp ∨ s.store.state = .limited then .limited else .ready
/-- Kilnyx services its watchdog and samples from now on. -/
def firmwareUp (s : State) : State :=
  { s with boot := { s.boot with phase := .running }, mbx := { s.mbx with state := openState s },
           fw := { s.fw with runs := true, lastService := s.clk.up, lastBeat := s.clk.up, expiredAt := none } }
/-- The rollback fuses follow the running image (R541). -/
def blowRollback (s : State) : State :=
  if s.boot.fwRollback ≤ s.boot.fuses.rollback then s
  else raise 0xD03 [.h s.boot.fwRollback] (setBoot (fun b => { b with fuses := { b.fuses with rollback := b.fwRollback } }) s)
def mailboxOpens (s : State) : State := raise 0x010 [.h s.boot.ifMajor, .h s.boot.ifMinor] s

/-- Boot completes: the mailbox answers, and what happened on the way is reported (R414, R437, R521, R538, R539, R541, R546, R574).
After a host-interface reset the mailbox opens again once the link is up. -/
def doMailboxReady (s : State) : State :=
  if s.boot.phase = .firmware ∧ s.boot.sectionsOk ∧ s.cal.complete then
    let s := firmwareUp s
    let s := mailboxOpens (raise 0xC08 [.w s.cal.word] s)
    let s := raise 0xD00 [.h (b2n s.boot.slotB), .w s.boot.fwVersion] s
    let s := match s.boot.fellBack with | some x => raise 0xD01 [.h x.1, .h x.2] s | none => s
    let s := match s.boot.patchFailStep with | some k => raise 0xD02 [.h k] s | none => s
    let s := if s.boot.tokenInvalid then raise 0xD09 [] s else s
    let s := if s.boot.regulatorSilent then raise 0x040 [] s else s
    blowRollback { s with life := { s.life with lastSample := s.clk.up, lastWrite := s.clk.up, lastDaily := s.clk.up } }
  else if s.boot.phase = .running ∧ s.mbx.state = .booting ∧ s.pcie.linkUp then
    mailboxOpens { s with mbx := { s.mbx with state := openState s } }
  else s
def execMailboxReady (s : State) : Host.Outcome State Fault Refusal := .next (doMailboxReady s)

/-- A poll of the regulator (R574): no acknowledgement during boot leaves VDD_CORE at 0.88 V, reported once the mailbox is ready;
STATUS_WORD is read once a second, and one that is not zero is reported. -/
def doRegulatorPoll (status : Option U16) (s : State) : State :=
  if s.fw.thermtrip then s
  else match status with
    | none =>
      if s.boot.phase = .running then s
      else setBoot (fun b => { b with regulatorSilent := true, regulator := { b.regulator with mv := 880 } }) s
    | some w =>
      let s := waitUp (s.boot.regulator.lastPoll + secTicks) s
      let s := setBoot (fun b => { b with regulator := { b.regulator with lastPoll := s.clk.up } }) s
      if w = 0 then s else raise 0x041 [.h w.toNat] s
def execRegulatorStatusPoll (status : Option U16) (s : State) : Host.Outcome State Fault Refusal := .next (doRegulatorPoll status s)

/-! ## The watchdog (R565, R566) -/

/-- The watchdog's time. -/
def watchdogTicks : Nat := 250 * msTicks

/-- An inlet without configuration: its ring stands, with the stopped interval that begins now, and the marks of its samples. -/
def haltedInlet (tick : Nat) (i : Inlet) : Inlet :=
  let at_ := if i.runs ∨ i.state = .fault then some (i.nextEdge tick) else i.ring.stoppedAt
  { Inlet.reset with ring := { i.ring with stoppedAt := at_ },
                     phaseMarks := i.phaseMarks.map fun m => (m.1, some (m.2.getD (tick * 65536))) }
/-- An inlet stops at its next local-clock edge: what it has sampled is written, a stopped interval follows (R61, R565). -/
def haltInlet (n : Fin 4) (s : State) : State :=
  let i := s.inlets[n]
  let s := if i.runs ∧ storeServes s then
      let t := i.nextEdge s.clk.tick
      let s := setInlet n (fun i => { i with elastic := i.elastic.map fun f => { f with values := f.values.take (i.numAt t 1 - f.num) } }) s
      let s := commitFrames n s.inlets[n].elastic.length s
      raiseAt (evInlet n 0x01) s.inlets[n].ring.newest [] s
    else s
  setSynth (3 + n.val) (fun y => { y with state := .off }) (setInlet n (fun i => haltedInlet s.clk.tick i) s)

/-- A port after the expiry: it trains again from step 2 of R338, its DID and its routes stand. -/
def haltPort (p : Port) : Port :=
  if p.state = .disabled then p
  else { Port.reset with peerDid := p.peerDid, peerSerial := p.peerSerial, peerAssigned := p.peerAssigned, entries := p.entries, out := p.out,
                         flitsTx := p.flitsTx, flitsRx := p.flitsRx, crcErrors := p.crcErrors, replays := p.replays, retrains := p.retrains, downs := p.downs }

/-- A tile after the expiry: without shares; a fence stands (R158). -/
def haltTile (t : Tile) : Tile :=
  let t := { t.stopRun with shares := [], staged := none, powered := false }
  if t.state = .fenced then t else { t with state := .idle }

/-- Every object that the firmware owns is discarded; the store, the rings, the host-direct blocks, the event status, routes and
masks, the fences, the time base and the DID are kept (R566). -/
def discardObjects (s : State) : State :=
  let s := { s with tasks := [], xcorrs := [], tw := Vector.replicate 16 Stream.reset,
                    eddy := { maps := Vector.replicate 8 DensityMap.reset, clears := [] },
                    squall := { Squall.reset with acqs := s.squall.acqs.filter (·.complete), nextAcq := s.squall.nextAcq, acqHead := s.squall.acqHead },
                    tiles := s.tiles.map haltTile }
  let s := forL (List.finRange 4) haltInlet s
  let s := abortAll false s
  let s := withdrawRef (disableQueues s)
  { s with mbx := { Mailbox.reset with cmdqs := s.mbx.cmdqs, cplqs := s.mbx.cplqs, evqs := s.mbx.evqs, nextId := s.mbx.nextId },
           evt := { s.evt with logs := Vector.replicate 4 [], logLost := Vector.replicate 4 0 },
           pwr := { s.pwr with limit := 1650, effective := effectiveLimit 1650 s.fw.tjEval, grants := [], queue := [], tolHost := 0 },
           store := { s.store with ledger := [], retraining := none },
           link := { s.link with ports := s.link.ports.map haltPort, flows := [], requests := [], foreign := [], heal := none, enumeration := none,
                                 lostDids := [], toCancel := [], arriving := [], remoteReads := [] },
           boot := { s.boot with session := none },
           fynal := { s.fynal with newBaud := none, restartAt := none } }

/-- The control processor restarts: LAST_RESET, the count of its starts and the expiry are recorded (R566). -/
def restartProcessor (s : State) : State :=
  { s with boot := { s.boot with phase := .restarting }, pcie := { s.pcie with lastReset := 6 }, life := countStart 4 s.life,
           fw := { s.fw with runs := false, expiredAt := some s.clk.tick, lastService := s.clk.up } }

/-- The watchdog expires: the hardware stops what the firmware ran, and the control processor restarts; a second expiry before the
firmware answers acts as RESET_N (R565, R566). It does not count in Lull-3. -/
def doWatchdogExpiry (s : State) : State :=
  if s.clk.lull = 3 ∨ s.fw.thermtrip then s
  else if s.boot.phase = .restarting then fullReset 6 5 s.boot.straps (waitUp (s.fw.lastService + watchdogTicks) s)
  else if s.boot.phase ≠ .running then s
  else discardObjects (restartProcessor (waitUp (s.fw.lastService + watchdogTicks) s))
def execWatchdogExpiry (s : State) : Host.Outcome State Fault Refusal := .next (doWatchdogExpiry s)

/-- The restarted firmware reaches mailbox ready: EV 0x030 is the first entry of its pending log (R566). -/
def doWatchdogReady (s : State) : State :=
  if s.boot.phase ≠ .restarting then s
  else
    let at_ := s.fw.expiredAt.getD 0
    let s := raise 0x030 [.w s.boot.fwVersion, .q at_] (firmwareUp s)
    settleLull (mailboxOpens s)
def execWatchdogRestartReady (s : State) : Host.Outcome State Fault Refusal := .next (doWatchdogReady s)

/-- Every 1 ms the heartbeat counts; the firmware's own increments service the watchdog, those of the always-on timer in Lull-3 do
not (R470, R497, R565). -/
def doHeartbeat (s : State) : State :=
  if ¬ s.fw.runs then s
  else
    let s := waitUp (s.fw.lastBeat + msTicks) s
    let s := s.countWrap kHeartbeat 1
    let s := { s with fw := { s.fw with lastBeat := s.clk.up } }
    if s.clk.lull = 3 then s else { s with fw := { s.fw with lastService := s.clk.up } }
def execFirmwareHeartbeat (s : State) : Host.Outcome State Fault Refusal := .next (doHeartbeat s)

end Sys2Proof.Machine
end

