-- ==== Sys2Proof/Machine/LinkFlow.lean ====
section
/-! DEFINITION. Shared operations of the links: routing entries (R353), requests that end (R324, R364), what a lost and a restored
route do to flows (R228, R365, R368 to R372), a port that goes DOWN and the heal that follows (R355, R370). -/

namespace Sys2Proof.Machine

/-! ## Ranges and entries (R353) -/

/-- The parts of a range outside another. -/
def cutRange (r x : Nat × Nat) : List (Nat × Nat) :=
  if x.2 < r.1 ∨ r.2 < x.1 then [x]
  else (if x.1 < r.1 then [(x.1, r.1 - 1)] else []) ++ (if r.2 < x.2 then [(r.2 + 1, x.2)] else [])
/-- Ranges less other ranges. -/
def minusRanges (l rs : List (Nat × Nat)) : List (Nat × Nat) := rs.foldl (fun l r => l.flatMap (cutRange r)) l
def inRanges (l : List (Nat × Nat)) (did : Nat) : Bool := l.any fun r => decide (r.1 ≤ did ∧ did ≤ r.2)
/-- The ranges of a port's entries. -/
def Port.ranges (p : Port) : List (Nat × Nat) := p.entries.map fun e => (e.1, e.2.1)
/-- A port without ranges; an entry of a heal number above a limit stays (R355). -/
def Port.without (ranges : List (Nat × Nat)) (limit : Nat) (p : Port) : Port :=
  { p with entries := p.entries.flatMap fun e => if limit < e.2.2 then [e] else (minusRanges [(e.1, e.2.1)] ranges).map fun r => (r.1, r.2, e.2.2) }

/-- Entries that a port holds at most. -/
def entryLimit : Nat := 16
/-- Set a port's entries: the first 16 stay, and more raise the overflow event (R353, R356). -/
def setEntries (n : Fin 4) (l : List (Nat × Nat × Nat)) (s : State) : State :=
  let s := setPort n (fun p => { p with entries := l.take entryLimit }) s
  if entryLimit < l.length then raise 0xA43 [] s else s
/-- Point ranges at a port under a heal number. -/
def addEntries (n : Fin 4) (ranges : List (Nat × Nat)) (heal : Nat) (s : State) : State :=
  let s := { s with link := { s.link with ports := s.link.ports.map (Port.without ranges (2 ^ 64)) } }
  setEntries n (s.link.ports[n].entries ++ ranges.map fun r => (r.1, r.2, heal)) s
/-- One more DID behind a port: the range of its subtree grows (R353). -/
def addDid (n : Fin 4) (x : Nat) (s : State) : State :=
  let l := s.link.ports[n].entries
  if covers l x then s
  else if l.any fun e => decide (e.2.1 + 1 = x) then
    setPort n (fun p => { p with entries := p.entries.map fun e => if e.2.1 + 1 = x then (e.1, x, e.2.2) else e }) s
  else addEntries n [(x, x)] 0 s
/-- The DIDs of this device and of what lies behind its ports. -/
def subtree (s : State) : List (Nat × Nat) := (s.link.did, s.link.did) :: s.link.ports.toList.flatMap Port.ranges

/-! ## Requests (R324, R364, R366) -/

/-- EV 0xA47: a request to a peer failed. -/
def requestFailed (did status : Nat) (s : State) : State := raise 0xA47 [.h did, .h status] s

/-- The part of a descriptor that begins at a place: its address and bytes. -/
def partAt (d : DmaDesc) (isRead : Bool) (offset : Nat) : Nat × Nat :=
  let a := if isRead then d.src else d.dst
  match (spanParts a d.length).find? (fun p => decide (p.2.2 = offset)) with
  | some p => (p.1, p.2.1)
  | none => (a, 0)

/-- A remote transfer halts with a cause; what it has written so far may stand. -/
def remoteHalt (n : Fin 32) (d : DmaDesc) (cause at_ : Nat) (s : State) : State :=
  dmaHalt cause n at_ 3 0 (writeMaybe d 0 (dropDraughtRequests s))

/-- The answer to a request of Draught (R324). -/
def draughtReply (r : LinkRequest) (status : Nat) (payload : Data) (s : State) : State := match s.drt.running with
  | none => s
  | some n => match s.drt.chans[n].desc with
    | none => s
    | some d =>
      let part := partAt d r.isRead r.offset
      if status = 0 then
        if r.isRead then setChan n (fun c => { c with parts := c.parts ++ [(r.offset, (payload.drop (part.1 % 64)).take part.2)] }) s else s
      else if status = 2 then remoteHalt n d 4 part.1 s
      else if status = 5 ∨ status = 6 then
        let b := freeBytes d.length (dropDraughtRequests s)
        endBad n d 5 0 0 (putTransfer d 0 b.1 b.2)
      else remoteHalt n d 5 part.1 s

/-- The GAP cause that a failed history read leaves in a unit computed for a home device. -/
def readCause (status cause : Nat) : Option Nat :=
  if status = 0 then none else if status = 5 then some cause else if status = 6 then some 4 else if status = 2 then some 10 else some 6
/-- A tile's read has been answered. -/
def tileReply (n status cause : Nat) (s : State) : State :=
  let f := fun (r : RemoteRead) =>
    { r with left := r.left - 1, gap := match readCause status cause with | some c => some (worseCause (r.gap.getD 0) c) | none => r.gap }
  { s with link := { s.link with remoteReads := lmod s.link.remoteReads (·.tile = n) f } }

/-- A request ends with a status (R364). -/
def endRequest (r : LinkRequest) (status cause : Nat) (payload : Data) (s : State) : State :=
  let s := { s with link := { s.link with requests := s.link.requests.filter (·.tag ≠ r.tag) } }
  let s := if status = 0 then s else requestFailed r.did status s
  match r.tile with
  | some n => tileReply n status cause s
  | none => draughtReply r status payload s

/-! ## Lost and restored routes (R228, R365, R368 to R372) -/

/-- Send every record again that a peer has not acknowledged (R368). -/
def resendRecords (n : Fin 16) (s : State) : State :=
  forL (s.tw[n].queue.filter (·.linkSeq ≠ 0)) (fun r s => sendRecord n s.tw[n] r.linkSeq r.stop r.bytes s) s

/-- A peer stream whose receiver is lost pauses, and goes on from its first unacknowledged record (R368). -/
def settleStream (n : Fin 16) (s : State) : State :=
  let t := s.tw[n]
  if t.dest ≠ 2 ∨ ¬ t.isOpen then s
  else match t.unreachableSince, reachable s.link t.peerDid with
    | none, false => setPause n 1 true (setStream n (fun t => { t with unreachableSince := some s.clk.up }) s)
    | some _, true => resendRecords n (setPause n 1 false (setStream n (fun t => { t with unreachableSince := none }) s))
    | _, _ => s

/-- The tick and the last number accepted go to a sender that was cut (R369). -/
def sendCutNotice (did tc : Nat) (s : State) : State :=
  forL (s.tw.toList.flatMap fun t => t.fromPeers.filter (·.did = did)) (fun f s =>
    send (placementMsg s did 6 f.stream 0 0 (le 8 tc ++ le 8 f.last)) s) s

/-- What follows a change of routes at once: requests to lost peers end UNREACHABLE, flows note the loss or its end, peer streams
pause or go on, group ATs turn PARTIAL, and what waited for a peer's return is sent (R228, R368 to R372). -/
def settleRoutes (s : State) : State :=
  let lost := fun (s : State) (did : Nat) => !reachable s.link did
  let s := forL (s.link.requests.filter fun r => lost s r.did) (fun r s => endRequest r 3 0 [] s) s
  let mark := fun (f : Flow) =>
    if lost s f.did then { f with lostSince := some (f.lostSince.getD s.clk.up) }
    else { f with lostSince := none, port := ((routePort s.link f.did).map Fin.val).getD f.port }
  let s := { s with link := { s.link with flows := s.link.flows.map mark } }
  let s := forL (List.finRange 16) settleStream s
  let feed := fun (f : PeerFeed) => { f with lostSince := if lost s f.did then some (f.lostSince.getD s.clk.up) else none }
  let s := { s with tw := s.tw.map fun t => { t with fromPeers := t.fromPeers.map feed } }
  let members := (s.squall.ats.toList.flatMap fun a => if a.armed && a.group then a.members.map (·.did) else []).dedup
  let s := forL (members.filter fun d => decide (d ≠ s.link.did) && lost s d) markPartial s
  let back := fun (l : List (Nat × Nat)) => l.filter fun x => !lost s x.1
  let s' := forL (back s.link.lostDids) (fun x s => sendCutNotice x.1 x.2 s) (forL (back s.link.toCancel) (fun x s => cancelShares x.1 x.2 0xFFFF 0 s) s)
  { s' with link := { s'.link with lostDids := s'.link.lostDids.filter (fun x => lost s x.1), toCancel := s'.link.toCancel.filter fun x => lost s x.1 } }

/-! ## Re-placement at home (R366, R372) -/

/-- The lost shares of a task come home on a choice of tiles, from the lowest index that the collector lacks, with a new epoch. -/
def rehomeOn (id : Nat) (main fine : List (Nat × Nat)) (cause : Nat) (s : State) : State := match findTask s id with
  | none => s
  | some t =>
    let k := t.kPub
    let e := (t.epoch + 1) % 256
    let s := setTask id (fun t => { t with placedPeer := none, epochBefore := t.epoch, epoch := e, epochFrom := k, oldLimit := max 1 k, kept := [],
                                           dead := t.dead.map fun (d : DeadResidue) => { d with stop := some (match d.stop with | some x => min x k | none => k) },
                                           markers := t.markers ++ [⟨2, k, e⟩] }) s
    let share := fun (role demand idx : Nat) => ({ task := id, sixteenths := demand, period := demand, residues := List.range demand, idx := idx, from_ := idx, limit := none,
                                                   epoch := e, role := role, ran := 0 } : Share)
    let dm := t.desc.demandMain t.fsNum t.fsDen
    let s := replaceShare (share srMain dm (if t.desc.twoStage then t.coarseKPub else k)) main cause cause s
    if t.desc.twoStage then replaceShare (share srFine (t.desc.demandFine t.fsNum t.fsDen) k) fine cause cause s else s

/-- Choose home tiles for a task whose peer is lost: powered ones where they suffice or power cannot help, else once a grant for
the others is held (R372, R500, R506). -/
def rehome (id : Nat) (s : State) : State := match findTask s id with
  | none => s
  | some t =>
    if t.placedPeer.isNone then s
    else
      let dm := t.desc.demandMain t.fsNum t.fsDen
      let pick := fun (powered : Bool) => (chooseWhat s dm t.footprint powered,
        if t.desc.twoStage then chooseWhat s (t.desc.demandFine t.fsNum t.fsDen) t.desc.footFine powered else [])
      let sum := fun (l : List (Nat × Nat)) => (l.map Prod.snd).sum
      let here := pick true
      let all := pick false
      if sum all.1 ≤ sum here.1 ∧ sum all.2 ≤ sum here.2 then rehomeOn id here.1 here.2 6 s
      else
        let gated := gatedAmong s (all.1 ++ all.2 |>.map Prod.fst).dedup
        let owner := Owner.placement id
        let go := fun (s : State) => splitTileGrants owner pcTask gated (rehomeOn id all.1 all.2 6 s)
        if holdsPower s owner then go s
        else if waitsPower s owner then s
        else
          let r := requestInternal 2 owner [(pcTask, 10 * gated.length)] s
          match r.1 with
          | .granted => go r.2
          | .queued => r.2
          | _ => rehomeOn id here.1 here.2 7 r.2

/-- A flow on a lost route ends (R371). A peer stream's stays, as R368 and R369 decide. -/
def endFlow (f : Flow) (s : State) : State := match f.owner with
  | .stream _ => s
  | .placement id => match findTask s id with
    | none => forL (s.link.foreign.filter (·.task = id)) (fun x s => dropForeign id x.epoch s) s
    | some t =>
      if t.placedPeer = some f.did then
        let s := { s with link := { s.link with toCancel := s.link.toCancel ++ [(f.did, id)] } }
        rehome id (releasePlacement id true s)
      else abortMigration id 1 s
  | _ => { s with link := { s.link with flows := s.link.flows.erase f } }

/-- The flows of a port that no longer fit its rate and width end, the later admitted first (R365). -/
def endUnfit (n : Fin 4) (s : State) : State :=
  let mine := s.link.flows.filter (·.port = n.val)
  let r := mine.foldl (fun (a : Nat × Nat × List Flow) f =>
    if portFits s.link.ports[n] (a.1 + f.tx) ∧ portFits s.link.ports[n] (a.2.1 + f.rx) then (a.1 + f.tx, a.2.1 + f.rx, a.2.2) else (a.1, a.2.1, a.2.2 ++ [f])) (0, 0, [])
  forL r.2.2 endFlow s

/-! ## Route and heal control (R355) -/

/-- Operations of MSG 6. -/
def rcHeal : Nat := 0
def rcOffer : Nat := 1
def rcActivate : Nat := 2
def rcAdd : Nat := 3
def rcDel : Nat := 4

/-- A route and heal control message: aux holds the operation, a port, a hop count and a heal number; the payload lists ranges. -/
def healMsg (s : State) (dst op port hops heal : Nat) (ranges : List (Nat × Nat)) : Packet :=
  { mkPacket s ptMsg 6 dst 0 0 (op + port * 2 ^ 8 + hops * 2 ^ 16 + heal * 2 ^ 32) with payload := ranges.flatMap fun r => le 2 r.1 ++ le 2 r.2 }
def healOp (p : Packet) : Nat := p.aux.toNat % 256
def healPort (p : Packet) : Nat := bits p.aux.toNat 15 8
def healHops (p : Packet) : Nat := bits p.aux.toNat 31 16
def healNumber (p : Packet) : Nat := bits p.aux.toNat 63 32
def healRanges (p : Packet) : List (Nat × Nat) := (List.range (p.payload.length / 4)).map fun i => (u16At p.payload (4 * i), u16At p.payload (4 * i + 2))
def isHeal (p : Packet) (op : Nat) : Bool := isPacket p ptMsg 6 && decide (healOp p = op)

/-- Send to the device at the upstream port. -/
def sendUp (p : Packet) (s : State) : State := match s.link.upPort with
  | some u => if s.link.ports[u].carries then sendOn u { p with neighbour := true } s else s
  | none => s

/-- The events of a port. -/
def evPort (n : Fin 4) (o : Nat) : Nat := 0xA00 + n.val * 0x10 + o

/-- Ranges are cut off: they count as lost, and the way to the root is told (R355). -/
def cutRanges (ranges : List (Nat × Nat)) (s : State) : State :=
  let new := minusRanges ranges (s.link.unreachable.map fun r => (r.lo, r.hi))
  let s := { s with link := { s.link with unreachable := s.link.unreachable ++ new.map fun r => ⟨r.1, r.2, s.clk.up, false⟩ } }
  if s.link.isRoot ∨ ranges = [] then s else sendUp (healMsg s s.link.rootDid rcDel 0 0 s.link.healNo ranges) s

/-- Ranges are back: at the root, those whose loss was reported are reported again (R355, R381). -/
def restoreRanges (ranges : List (Nat × Nat)) (s : State) : State :=
  let back := s.link.unreachable.flatMap fun r => if r.reported then (minusRanges [(r.lo, r.hi)] (minusRanges [(r.lo, r.hi)] ranges)) else []
  let left := s.link.unreachable.flatMap fun r => (minusRanges [(r.lo, r.hi)] ranges).map fun x => ({ r with lo := x.1, hi := x.2 } : CutRange)
  let s := { s with link := { s.link with unreachable := left, known := lmod s.link.known (fun k => inRanges ranges k.did) fun k => { k with present := true } } }
  if s.link.isRoot then forL back (fun r s => raise 0xA45 [.h r.1, .h r.2] s) s else s

/-- The device at the downstream end of a break becomes orphan head: it floods HEAL, and offers its own STANDBY ports (R355). -/
def startHeal (s : State) : State :=
  let ranges := subtree s
  let own := (List.finRange 4).filter fun n => decide (s.link.ports[n].state = .standby) && !inRanges ranges s.link.ports[n].peerDid
  let s := { s with link := { s.link with upstream := none, heal := some ⟨s.clk.up, own.map fun n => ⟨s.link.did, n.val, 0⟩, ranges⟩ } }
  broadcast none { healMsg s 0 rcHeal 0 0 s.link.healNo ranges with bcast := true } s

/-- What a lost ordinary link means for the tree (R355, R371). -/
def lostLink (n : Fin 4) (s : State) : State :=
  if ¬ s.link.assigned then s
  else if s.link.upstream = some n.val then settleRoutes (startHeal s)
  else
    let ranges := s.link.ports[n].ranges
    settleRoutes (cutRanges ranges (setPort n (fun p => { p with entries := [] }) s))

/-- A port goes DOWN with the case of R370: 1 block lock, 2 no flit, 3 replay or retrain, 4 heartbeat, 5 host; its grant is released
and it trains again 100 ms later (R354, R370, R504). -/
def portDown (n : Fin 4) (case_ : Nat) (s : State) : State :=
  let p := s.link.ports[n]
  if p.state = .down ∨ p.state = .disabled then s
  else
    let s := setPort n (fun p =>
      { p with state := .down, width := 0, rate := 0, narrowed := false, longChannel := false, retraining := false, replay := [], waiting := [],
               downs := satN 32 (p.downs + 1), retryAt := s.clk.up + 100 * msTicks }) s
    let s := setSynth (7 + n.val) (fun y => { y with state := .off }) (releasePower (.port n.val) s)
    let s := raise (evPort n 1) [.h case_] s
    if p.carries then lostLink n s else s

end Sys2Proof.Machine
end

