-- ==== Sys2Proof/Machine/Links.lean ====
section
/-! DEFINITION. The rows of the link ports and of enumeration: the LINK_ commands (R378 to R380), training and retraining (R338, R339,
R342), flits and replay (R340 to R343), what takes a port down (R370), and numbering the devices (R348 to R352). -/

namespace Sys2Proof.Machine

/-! ## Training (R338, R339, R354) -/

/-- Power classes and units of a trained port: 3 a lane at codes 5 to 7, else 2 (R501). -/
def portItems (width rate : Nat) : List (Nat × Nat) := [(pcLink, width * (if 5 ≤ rate then 3 else 2))]

/-- The DEV_RESET commands that wait for a port's training complete (R441). -/
def endPortResets (n : Fin 4) (s : State) : State :=
  forL (s.mbx.cmds.filter fun c => c.waiting && c.opcode = 0x0003 && c.p8 0x08 = 3 && c.p8 0x09 = n.val) (fun c s => done c 0 0 s) s

/-- Training failed or was denied: DOWN, and the next try 100 ms later (R338, R354). -/
def trainFailed (n : Fin 4) (s : State) : State :=
  let s := setPort n (fun p => { p with state := .down, retryAt := s.clk.up + 100 * msTicks }) s
  endPortResets n (raise (evPort n 2) [] (setSynth (7 + n.val) (fun y => { y with state := .off }) (releasePower (.port n.val) s)))

/-- Power is there: the port's LC-PLL starts (R338 step 2). -/
def portBegin (n : Fin 4) (s : State) : State := if s.link.ports[n].state = .training then startSynth (7 + n.val) s else s

/-- Training begins with power admission; a deferred request waits in TRAINING (R338). -/
def trainStart (n : Fin 4) (s : State) : State :=
  let p := s.link.ports[n]
  if p.state ≠ .down ∨ p.hostDown ∨ s.boot.phase ≠ .running ∨ rootBypassed s ∨ s.clk.lull = 3 then s
  else
    let s := setPort n (fun p => { p with state := .training }) s
    let r := requestInternal 4 (.port n.val) (portItems 8 s.link.cfg.maxRate) s
    match r.1 with
    | .granted => portBegin n r.2
    | .queued => r.2
    | _ => trainFailed n r.2

def doTrainingStart (n : Fin 4) (s : State) : State := if s.clk.up < s.link.ports[n].retryAt then s else trainStart n s
def execPortTrainingStart (port : Fin 4) (s : State) : Host.Outcome State Fault Refusal := .next (doTrainingStart port s)

/-- A port that has no neighbour tries again every 100 ms (R354). -/
def doRetryTimer (n : Fin 4) (s : State) : State :=
  let p := s.link.ports[n]
  if p.state ≠ .down ∨ p.hostDown then s else trainStart n (waitUp p.retryAt s)
def execPortRetryTimer (port : Fin 4) (s : State) : Host.Outcome State Fault Refusal := .next (doRetryTimer port s)

/-- The width that both ends agree on: all lanes, or the half that trained on both sides, the lower where both did (R339). -/
def agreedWidth (noNarrow : Bool) (here peer : BitVec 8) : Option Nat :=
  let both := (here &&& peer).toNat
  if both = 255 then some 8
  else if noNarrow then none
  else if both % 16 = 15 ∨ both / 16 = 15 then some 4
  else none

/-- Whether lanes 0 to 3 trained on both sides (R339). -/
def lowerHalf (r : TrainResult) : Bool := decide ((r.lanesHere &&& r.lanesPeer).toNat % 16 = 15)

/-- 15 ns in 1/65,536 tick, the limit of an ordinary channel (R361). -/
def longLimit : Nat := 1258291
/-- LONG_CHANNEL follows the measured delay, with its event (R361). -/
def noteDelay (n : Fin 4) (delay : Nat) (s : State) : State :=
  let long := decide (longLimit < delay)
  let was := s.link.ports[n].longChannel
  let s := setPort n (fun p => { p with delay := delay, longChannel := long, delayMeasured := s.clk.up }) s
  if long ∧ ¬ was then raise (evPort n 5) [.w delay] s else s

/-! ## Enumeration (R348 to R352) -/

/-- ENUM packets: ASSIGN holds the root's serial in addr, the enumeration's number as tag, and in aux the DID, the relaying device's
port, a relay bit and the depth; its payload names the relaying device and port. -/
def assignPacket (s : State) (dst x port depth : Nat) (relay : Bool) (parent : Nat) : Packet :=
  { mkPacket s 7 1 dst s.link.enumNo s.link.rootSerial.toNat (x + port * 2 ^ 16 + b2n relay * 2 ^ 18 + depth * 2 ^ 32) with
    neighbour := !relay, payload := le 2 parent ++ le 1 port }
def assignDid (p : Packet) : Nat := p.aux.toNat % 65536
def assignPort (p : Packet) : Fin 4 := Fin.ofNat 4 (bits p.aux.toNat 17 16)
def assignRelay (p : Packet) : Bool := bit p.aux.toNat 18
def assignDepth (p : Packet) : Nat := bits p.aux.toNat 47 32

/-- The root sends ASSIGN over a port of its own, or to the device whose port it visits. -/
def sendAssign (d port x depth : Nat) (s : State) : State :=
  if d = s.link.did then sendOn (Fin.ofNat 4 port) (assignPacket s 0 x port depth false d) s
  else send (assignPacket s d x port depth true d) s

/-- This device takes a DID (R348, R381). -/
def takeDid (did depth : Nat) (up : Option Nat) (rootDid : Nat) (rootSerial : U64) (no : U32) (isRoot : Bool) (s : State) : State :=
  let open_ := fun (p : Port) => { p with entries := [], state := if p.state = .standby then .active else p.state }
  let s := { s with link := { s.link with ports := s.link.ports.map open_, assigned := true, did := did, isRoot := isRoot, rootDid := rootDid,
                                          rootSerial := rootSerial, depth := depth, upstream := up, enumNo := no, unreachable := [], heal := none } }
  raise 0xA41 [.h did] s

/-- The enumeration is over: the event, and LINK_ENUMERATE completes (R378, R381). -/
def enumEnd (s : State) : State := match s.link.enumeration with
  | none => s
  | some e =>
    let s := { s with link := { s.link with enumeration := none, enumerated := true, enumTick := s.clk.tick } }
    let s := raise 0xA40 [.w e.count] s
    match e.cmd with
    | some id => (match findCmd s id with
      | some c => done c (e.count + e.deepest * 2 ^ 32) s.clk.tick s
      | none => s)
    | none => s

/-- What is left of the preorder. -/
def enumStack (e : Enumeration) (st : List (Nat × Nat × Nat)) (s : State) : State :=
  { s with link := { s.link with enumeration := some { e with stack := st } } }

/-- The next port of the preorder (R350): a port of the root's own that carries nothing is passed over, other devices answer for
theirs. -/
def enumNext : Nat → State → State
  | 0, s => s
  | n + 1, s => match s.link.enumeration with
    | none => s
    | some e =>
      match e.stack with
      | [] => enumEnd s
      | (d, depth, p) :: rest =>
        if 4 ≤ p then enumNext n (enumStack e rest s)
        else
          let s := enumStack e ((d, depth, p + 1) :: rest) s
          if d = s.link.did ∧ ¬ s.link.ports[Fin.ofNat 4 p].carries then enumNext n s
          else if 65536 ≤ e.count then enumEnd (raise 0xA43 [] s)
          else sendAssign d p ((s.link.cfg.baseDid + e.count) % 65536) (depth + 1) s
/-- Go on with the enumeration. -/
def enumGo (s : State) : State := match s.link.enumeration with
  | some e => enumNext (5 * e.stack.length + 8) s
  | none => s

/-- Become root with a base DID and number the system (R349, R350). -/
def beginEnum (base : Nat) (cmd : Option Nat) (s : State) : State :=
  let s := { s with link := { s.link with cfg := { s.link.cfg with baseDid := base } } }
  let s := takeDid base 0 none base s.boot.fuses.serial (s.link.enumNo + 1) true s
  let s := { s with link := { s.link with known := [], enumerated := false, enumeration := some ⟨cmd, 1, 0, [(base, 0, 0)]⟩ } }
  enumGo s

/-- The strap makes this device root once the ports that the configuration leaves enabled are up (R349). -/
def strapRoot (s : State) : State :=
  if s.boot.straps.rootSel ∧ ¬ s.link.assigned ∧ s.link.ports.toList.all (fun p => p.isUp || p.state = .disabled) then beginEnum s.link.cfg.baseDid none s else s

/-- DIDs that present devices hold. -/
def heldDids (s : State) : List Nat := s.link.did :: (s.link.known.filter (·.present)).map (·.did)
/-- The DID for a device that trained later (R352): its own former one, that of its place, or the lowest free one. -/
def lateDid (s : State) (serial : U64) (parent port : Nat) : Nat :=
  let held := heldDids s
  let free := fun (k : KnownDevice) => !held.contains k.did
  match s.link.known.find? (fun k => decide (k.serial = serial) && free k) with
  | some k => k.did
  | none => match s.link.known.find? (fun k => decide (k.parent = parent ∧ k.parentPort = port) && free k) with
    | some k => k.did
    | none => lowestMissing held held.length 0
/-- The root numbers a device that reports itself UNASSIGNED (R352). -/
def lateAssign (serial : U64) (parent port : Nat) (s : State) : State :=
  let depth := if parent = s.link.did then 0 else match s.link.known.find? (·.did = parent) with | some k => k.depth | none => 0
  sendAssign parent port (lateDid s serial parent port) (depth + 1) s

/-- A report that a neighbour is UNASSIGNED goes to the root (R352). -/
def reportNeighbour (n : Fin 4) (s : State) : State :=
  let p := s.link.ports[n]
  if ¬ s.link.assigned ∨ p.peerAssigned ∨ s.link.enumeration.isSome ∨ ¬ p.carries then s
  else if s.link.isRoot then (if s.link.enumerated then lateAssign p.peerSerial s.link.did n.val s else s)
  else send (mkPacket s 7 2 s.link.rootDid 0 p.peerSerial.toNat (n.val * 2 ^ 16)) s

/-- Training ends (R338, R339): the port is ACTIVE, or STANDBY where its link closes a cycle, at the agreed rate and width; or it
fails. -/
def doTrainingComplete (n : Fin 4) (r : TrainResult) (s : State) : State :=
  let p := s.link.ports[n]
  if p.state ≠ .training ∨ ¬ holdsPower s (.port n.val) then s
  else match agreedWidth s.link.cfg.noNarrow r.lanesHere r.lanesPeer with
    | none => trainFailed n s
    | some w =>
      if ¬ r.ok ∨ s.jtag.pinsTaken ∨ r.rate = 0 ∨ s.link.cfg.maxRate < r.rate then trainFailed n s
      else
        let s := setPower (fun g => { g with grants := lmod g.grants (·.owner = .port n.val) fun x => { x with items := portItems w r.rate } }) s
        let s := setSynth (7 + n.val) (fun y => { y with state := .locked }) s
        let s := setPort n (fun p =>
          { p with state := if r.closesCycle then .standby else .active, width := w, rate := r.rate, narrowed := decide (w = 4), upperHalf := decide (w = 4) && !lowerHalf r, longChannel := false,
                   peerDid := if r.peerAssigned then r.peerDid else p.peerDid, peerSerial := r.peerSerial, peerAssigned := r.peerAssigned, retraining := false, lastRetrain := none,
                   txSeq := 1, rxSeq := 1, ackedSeq := 0, nakSent := false, replay := [], waiting := [], replaysHere := 0, credits := creditsOf,
                   owed := Vector.replicate 4 0,
                   lastGood := s.clk.up, heartbeatSeen := s.clk.up, heartbeatSent := s.clk.up, syncSent := s.clk.up, delayReqSent := none }) s
        let s := noteDelay n r.delay s
        let s := if w = 4 then raise (evPort n 3) [] s else s
        let s := raise (evPort n 0) [.h r.rate, .h w] s
        strapRoot (reportNeighbour n (settleRoutes (endUnfit n (endPortResets n s))))
def execPortTrainingComplete (port : Fin 4) (r : TrainResult) (s : State) : Host.Outcome State Fault Refusal := .next (doTrainingComplete port r s)

/-! ## Flits (R340 to R343) -/

/-- The lanes train again from step 2 while the port stays ACTIVE; a second need within 10 ms takes it DOWN (R342). -/
def startRetrain (n : Fin 4) (s : State) : State :=
  let p := s.link.ports[n]
  if ¬ p.isUp ∨ p.retraining then s
  else if (match p.lastRetrain with | some u => decide (s.clk.up ≤ u + 10 * msTicks) | none => false) then portDown n 3 s
  else setPort n (fun p => { p with retraining := true, retrainSince := s.clk.up, lastRetrain := some s.clk.up, retrains := satN 32 (p.retrains + 1), replaysHere := 0 }) s

/-- DATA flits up to an acknowledged number leave the replay buffer; a number outside it changes nothing. -/
def Port.acked (p : Port) (ack up : Nat) : Port :=
  let k := (ack + 4096 - p.ackedSeq) % 4096
  if k = 0 ∨ p.replay.length < k then p
  else { p with ackedSeq := ack % 4096, replay := p.replay.drop k, ackProgress := up, replaysHere := 0 }

/-- The flits of the replay buffer go out again, in order (R342). -/
def Port.resend (p : Port) : Port := p.replay.foldl (fun p f => p.emit true f.vc f.starts false f.seq f.payload) p
/-- Everything after the acknowledged flit is sent again; after four replays without progress the lanes retrain (R342). -/
def replayFlits (n : Fin 4) (s : State) : State :=
  let p := s.link.ports[n]
  if p.replay.isEmpty ∨ p.retraining ∨ ¬ p.isUp then s
  else if 4 ≤ p.replaysHere then startRetrain n s
  else
    let s := setPort n (fun p => { p.resend with replays := satN 32 (p.replays + 1), replaysHere := p.replaysHere + 1, ackProgress := s.clk.up }) s
    raise (evPort n 4) [.since] s

/-- Whether the packets that begin in a flit's payload include a heartbeat (R344, R345, R370). -/
def holdsHeartbeat : Nat → Data → Bool
  | 0, _ => false
  | n + 1, d =>
    if u8At d 0 = 0 then false
    else if u8At d 0 = ptMsg ∧ u16At d 0x0C = 4 then true
    else holdsHeartbeat n (d.drop (ceilDiv (32 + u16At d 2) 8 * 8))
/-- A good DATA flit in order is accepted: its buffer drains and its credit is owed, and a heartbeat in it is noted (R341, R343,
R370). -/
def Port.accept (p : Port) (f : Flit) (up : Nat) : Port :=
  { p with rxSeq := (p.rxSeq + 1) % 4096, nakSent := false, flitsRx := p.flitsRx + 1, owed := vmodN p.owed f.vc (· + 1),
           heartbeatSeen := if f.vc = 0 ∧ f.starts ∧ holdsHeartbeat 7 f.payload then up else p.heartbeatSeen }
/-- A DATA flit is answered at once by an IDLE flit: the acknowledgement of one that is accepted, or the NAK of the first that is
discarded (R341). -/
def Port.takeData (p : Port) (f : Flit) (up : Nat) : Port :=
  if f.crcOk ∧ f.seq = p.rxSeq then (p.accept f up).report false
  else if p.nakSent then p else { p.report true with nakSent := true }

/-- A flit arrives (R341): its ack and credits are taken, a DATA flit in order is accepted, and any other DATA flit is discarded, the
first with a NAK. -/
def doFlit (n : Fin 4) (d : Data) (s : State) : State :=
  let p := s.link.ports[n]
  let f := flitOf d
  if ¬ p.isUp ∨ p.retraining then s
  else
    let s := if f.crcOk then setPort n (fun p => { p with lastGood := s.clk.up, credits := vmodN p.credits f.creditVc (· + f.credit) }.acked f.ack s.clk.up) s
      else setPort n (fun p => { p with crcErrors := satN 32 (p.crcErrors + 1) }) s
    let s := if f.isData then setPort n (·.takeData f s.clk.up) s else s
    let s := if f.crcOk ∧ f.nak then replayFlits n s else s
    pumpPort n s
def execFlitReceive (port : Fin 4) (flit : Data) (s : State) : Host.Outcome State Fault Refusal := .next (doFlit port flit s)

/-- A NAK with the peer's last good number (R342). -/
def doNak (n : Fin 4) (ack : Nat) (s : State) : State :=
  if ¬ s.link.ports[n].isUp then s else replayFlits n (setPort n (fun p => p.acked ack s.clk.up) s)
def execNakReceive (port : Fin 4) (ack : Nat) (s : State) : Host.Outcome State Fault Refusal := .next (doNak port ack s)

/-- 2 us without progress while flits wait for their ack (R342). -/
def doAckTimeout (n : Fin 4) (s : State) : State :=
  let p := s.link.ports[n]
  if p.replay.isEmpty ∨ p.retraining ∨ ¬ p.isUp then s else replayFlits n (waitUp (p.ackProgress + 2 * usTicks) s)
def execAckTimeoutReplay (port : Fin 4) (s : State) : Host.Outcome State Fault Refusal := .next (doAckTimeout port s)

/-- The retrain reaches link initialisation within 2.5 ms, or the port goes DOWN (R342). -/
def doRetrainDone (n : Fin 4) (ok : Bool) (s : State) : State :=
  let p := s.link.ports[n]
  if ¬ p.retraining then s
  else
    let limit := p.retrainSince + 2 * msTicks + 500 * usTicks
    if ok ∧ s.clk.up ≤ limit then
      pumpPort n (setPort n (fun p => { p with retraining := false, lastGood := s.clk.up, heartbeatSeen := s.clk.up, ackProgress := s.clk.up }) s)
    else portDown n 3 (waitUp limit s)
def execLinkRetrainComplete (port : Fin 4) (ok : Bool) (s : State) : Host.Outcome State Fault Refusal := .next (doRetrainDone port ok s)

/-! ## Loss (R370) -/

/-- Whether the tests of R370 apply: the port sends flits, and no retrain runs. -/
def Port.watched (p : Port) : Bool := (p.state = .active || p.state = .standby) && !p.retraining

def doNoFlit (n : Fin 4) (s : State) : State :=
  let p := s.link.ports[n]
  if ¬ p.watched then s else portDown n 2 (waitUp (p.lastGood + usTicks) s)
def execNoFlitTimeout (port : Fin 4) (s : State) : Host.Outcome State Fault Refusal := .next (doNoFlit port s)

def doBlockLock (n : Fin 4) (s : State) : State := if ¬ s.link.ports[n].watched then s else portDown n 1 s
def execBlockLockLoss (port : Fin 4) (s : State) : Host.Outcome State Fault Refusal := .next (doBlockLock port s)

/-- A heartbeat on VC0 every heartbeat_ms, while the firmware runs (R345, R370). -/
def doHeartbeatSend (n : Fin 4) (s : State) : State :=
  let p := s.link.ports[n]
  if ¬ p.isUp ∨ ¬ s.fw.runs then s
  else
    let s := waitUp (p.heartbeatSent + s.link.cfg.heartbeatMs * msTicks) s
    setPort n (fun p => { p with heartbeatSent := s.clk.up }) (sendOn n { mkPacket s ptMsg 4 0 0 0 0 with neighbour := true } s)
def execHeartbeatSend (port : Fin 4) (s : State) : Host.Outcome State Fault Refusal := .next (doHeartbeatSend port s)

/-- Ten periods without the peer's heartbeat: the port goes DOWN, and trains again to reset the link (R370). -/
def doHeartbeatMissing (n : Fin 4) (s : State) : State :=
  let p := s.link.ports[n]
  if ¬ p.watched then s
  else
    let s := portDown n 4 (waitUp (p.heartbeatSeen + 10 * s.link.cfg.heartbeatMs * msTicks) s)
    setPort n (fun p => { p with retryAt := s.clk.up }) s
def execHeartbeatMissing (port : Fin 4) (s : State) : Host.Outcome State Fault Refusal := .next (doHeartbeatMissing port s)

/-! ## Commands (R378 to R380) -/

/-- Whether anything stands that FORCE must not renumber, as far as this device knows (R352). -/
def peersBound (s : State) : Bool :=
  !s.link.foreign.isEmpty || s.tasks.any (fun t => t.placedPeer.isSome || (match t.migration with | some m => m.peer.isSome | none => false) ||
    (match t.kind with | .source xc _ => decide (xc / 65536 ≠ s.link.did) | _ => false)) ||
  s.tw.toList.any (fun t => (t.isOpen && decide (t.dest = 2)) || !t.fromPeers.isEmpty) || s.xcorrs.any (fun x => x.sources.any (·.remote)) ||
  s.squall.ats.toList.any (fun a => match a.def_ with | some d => decide (2 ≤ d.armMode) | none => false) || s.mbx.cmdqs.toList.any (·.bound) ||
  s.mbx.cmds.any (fun c => match c.origin with | .peer _ _ => true | .queue _ => false)

def doLinkEnumerate (c : Cmd) (s : State) : State :=
  let force := decide (c.p8 0x0A = 1)
  let known := s.link.enumerated || (s.link.assigned && s.link.enumeration.isNone)
  checked c [entryCheck c [(0x08, 3)] [(0x0A, decide (c.p8 0x0A < 2))], deviceCheck s c,
      needState (s.link.enumeration.isNone && (!(force && known) || !peersBound s))]
    (fun s =>
      if known ∧ ¬ force then
        done c (s.link.known.length + 1 + ((s.link.known.map (·.depth)).foldl max 0) * 2 ^ 32) s.link.enumTick s
      else beginEnum (c.p16 0x08) (some c.id) (wait c s)) s
def execLinkEnumerate (id : Nat) (s : State) : Host.Outcome State Fault Refusal := .next (runCmd id 0x0700 anyCmd doLinkEnumerate s)

/-- State codes of a port. -/
def portStateCode : PortState → Nat
  | .disabled => 0 | .down => 1 | .training => 2 | .active => 3 | .standby => 4 | .lowPower => 5

/-- One port of the status block (R379). -/
def portStatus (l : Link) (n : Fin 4) : Data :=
  let p := l.ports[n]
  let up := l.upstream = some n.val
  le 1 (portStateCode p.state) ++ le 1 p.width ++ le 1 p.rate ++ le 1 (b2n up + 2 * b2n p.longChannel + 4 * b2n p.narrowed) ++ le 2 p.peerDid ++ le 2 0 ++
  le 8 p.peerSerial.toNat ++ le 4 (satN 32 p.delay) ++ le 4 (if up then codeOf 32 p.offset else 0) ++ le 8 p.flitsTx ++ le 8 p.flitsRx ++
  le 4 p.crcErrors ++ le 4 p.replays ++ le 4 p.retrains ++ le 4 p.downs ++ le 4 (admittedTx l n) ++ le 4 (admittedRx l n)
/-- The link status block (R379). -/
def linkStatus (s : State) : Data :=
  let l := s.link
  (List.finRange 4).flatMap (portStatus l) ++
  (block 0x100 [(0x00, le 2 l.did ++ le 1 (b2n l.assigned) ++ le 1 (b2n l.isRoot)), (0x04, le 2 l.rootDid ++ le 2 l.depth),
    (0x08, le 1 (l.upstream.getD 0xFF) ++ le 1 0 ++ le 2 l.healNo), (0x0C, le 4 (if l.isRoot then l.known.length + 1 else 0)),
    (0x10, le 8 s.boot.fuses.serial.toNat), (0x18, le 8 l.enumTick)])

/-- LINK_STATUS of one op: the port, then what the op does. -/
def linkOp (c : Cmd) (used : List (Nat × Nat)) (more : List Check) (ok : Fin 4 → State → State) (s : State) : State :=
  checked c ([entryCheck c used [(0x08, decide (c.p8 0x08 < 4))], deviceCheck s c] ++ more) (ok (Fin.ofNat 4 (c.p8 0x08))) s

def doLinkStatusQuery (c : Cmd) (s : State) : State :=
  linkOp c [(0x08, 2), (0x10, 8)] [params [(0x10, aligned64 (c.p64 0x10))]] (fun _ s => done c 0 0 (writeBlock c (c.p64 0x10) (linkStatus s) s)) s
def execLinkStatusQuery (id : Nat) (s : State) : Host.Outcome State Fault Refusal := .next (runCmd id 0x0701 (selByte 0x09 0) doLinkStatusQuery s)

/-- UP: a port that host software took down, or that waits to retry, trains now. -/
def doLinkPortUp (c : Cmd) (s : State) : State :=
  linkOp c [(0x08, 2), (0x10, 8)] [needState (s.link.ports[Fin.ofNat 4 (c.p8 0x08)].state ≠ .disabled)]
    (fun n s =>
      let s := if s.link.ports[n].state = .down then trainStart n (setPort n (fun p => { p with hostDown := false, retryAt := s.clk.up }) s) else s
      done c 0 0 s) s
def execLinkPortUp (id : Nat) (s : State) : Host.Outcome State Fault Refusal := .next (runCmd id 0x0701 (selByte 0x09 1) doLinkPortUp s)

/-- DOWN: refused while admitted flows use the port, unless FORCE is set (R379). -/
def doLinkPortDown (c : Cmd) (s : State) : State :=
  linkOp c [(0x08, 3), (0x10, 8)]
    [params [(0x0A, decide (c.p8 0x0A < 2))], needState (decide (c.p8 0x0A = 1) || s.link.flows.all fun f => decide (f.port ≠ c.p8 0x08))]
    (fun n s => done c 0 0 (setPort n (fun p => { p with hostDown := true }) (portDown n 5 s))) s
def execLinkPortDown (id : Nat) (s : State) : Host.Outcome State Fault Refusal := .next (runCmd id 0x0701 (selByte 0x09 2) doLinkPortDown s)

def doLinkPortRetrain (c : Cmd) (s : State) : State :=
  linkOp c [(0x08, 2), (0x10, 8)] [needState (s.link.ports[Fin.ofNat 4 (c.p8 0x08)].isUp && !s.link.ports[Fin.ofNat 4 (c.p8 0x08)].retraining)]
    (fun n s => done c 0 0 (startRetrain n s)) s
def execLinkPortRetrain (id : Nat) (s : State) : Host.Outcome State Fault Refusal := .next (runCmd id 0x0701 (selByte 0x09 3) doLinkPortRetrain s)

/-- The routing tables (R380). -/
def routeTable (l : Link) : Data :=
  (l.ports.toList.flatMap fun p => (p.entries.take entryLimit).flatMap (fun e => le 2 e.1 ++ le 2 e.2.1) ++
    (List.replicate (entryLimit - p.entries.length) (le 2 0xFFFF ++ le 2 0)).flatten) ++ le 1 (l.upstream.getD 0xFF) ++ zeros 15
/-- Kind and port of a route (R380). -/
def routeCode : Route → Nat
  | .local_ => 0
  | .entry n => n.val + 0x100
  | .default_ n => n.val + 0x200
  | .unreachable => 0x300

def doLinkRouteQuery (c : Cmd) (s : State) : State :=
  checked c [entryCheck c [(0x08, 2), (0x10, 8)] [], deviceCheck s c, params [(0x10, aligned64 (c.p64 0x10))]]
    (fun s =>
      let s := if c.p64 0x10 = 0 then s else writeBlock c (c.p64 0x10) (routeTable s.link) s
      done c (routeCode (route s.link (c.p16 0x08))) (hopsTo s.link (c.p16 0x08)) s) s
def execLinkRouteQuery (id : Nat) (s : State) : Host.Outcome State Fault Refusal := .next (runCmd id 0x0702 anyCmd doLinkRouteQuery s)

/-! ## ENUM packets -/

/-- DONE: nothing to number behind a port, or the link closes a cycle (kind 1). -/
def donePacket (s : State) (dst kind : Nat) (neighbour : Bool) : Packet := { mkPacket s 7 3 dst s.link.enumNo 0 kind with neighbour := neighbour }

/-- A neighbour's ASSIGN is taken, with its upstream port and the discipline it brings; the root is told (R350, R357, R490). -/
def takeAssign (n : Fin 4) (p : Packet) (s : State) : State :=
  let s := takeDid (assignDid p) (assignDepth p) (some n.val) p.srcDid p.addr p.tag false s
  let s := setLoop (fun l => { l with source := 3 }) s
  let s := if s.clk.loop.state = 4 then s else loopTo 1 s
  sendUp { mkPacket s 7 2 p.srcDid s.link.enumNo s.boot.fuses.serial.toNat (2 ^ 20 + s.link.depth * 2 ^ 32) with payload := p.payload.take 3 ++ le 4 (portHops s.link.ports[n]) } s

/-- ASSIGN for this device's neighbour is relayed, or answered where its port has none (R350). -/
def relayAssign (p : Packet) (s : State) : State :=
  let q := assignPort p
  if s.link.upstream = some q.val ∨ ¬ s.link.ports[q].carries then send (donePacket s p.srcDid 0 false) s
  else sendOn q { p with neighbour := true, hops := 0, aux := p.aux &&& ~~~(1#64 <<< 18) } s

/-- ASSIGN (R350, R351): relayed, taken, the end of a cycle, or a conflict of two roots, which the lower serial number wins. -/
def doAssign (n : Fin 4) (p : Packet) (s : State) : State :=
  if ¬ isPacket p 7 1 then s
  else if assignRelay p then relayAssign p s
  else if s.link.isRoot ∧ s.link.rootSerial ≠ p.addr then
    if s.boot.fuses.serial.toNat ≤ p.addr.toNat then s
    else
      let cmd := match s.link.enumeration with | some e => e.cmd | none => none
      let s := { s with link := { s.link with enumeration := none, enumerated := false, isRoot := false, known := [] } }
      let s := match cmd with
        | some id => (match findCmd s id with | some c => complete c stState 0 0 1 s | none => s)
        | none => s
      takeAssign n p (raise 0xA42 [] s)
  else if s.link.assigned ∧ s.link.enumNo = p.tag ∧ s.link.rootSerial = p.addr then
    if s.link.upstream = some n.val then s
    else setPort n (fun q => { q with state := .standby, entries := [] }) (sendOn n (donePacket s 0 1 true) s)
  else takeAssign n p s
def execEnumAssignReceive (port : Fin 4) (p : Packet) (s : State) : Host.Outcome State Fault Refusal := .next (arrives port p (doAssign port p) s)

/-- What the root notes of a device that took its DID (R350, R352). -/
def noteDevice (p : Packet) (s : State) : State :=
  let k : KnownDevice := { did := p.srcDid, serial := p.addr, depth := bits p.aux.toNat 47 32, parent := u16At p.payload 0, parentPort := u8At p.payload 2, present := true, link := u32At p.payload 3 }
  { s with link := { s.link with known := s.link.known.filter (·.did ≠ p.srcDid) ++ [k] } }

/-- A REPORT at the root: a device took its DID, and the enumeration visits its ports; or a device is UNASSIGNED (R350, R352). -/
def doReport (n : Fin 4) (p : Packet) (s : State) : State :=
  if ¬ isPacket p 7 2 ∨ ¬ s.link.isRoot then s
  else if bit p.aux.toNat 20 then
    let s := restoreRanges [(p.srcDid, p.srcDid)] (noteDevice p (addDid n p.srcDid s))
    let s := if p.hops = 0 then setPort n (fun q => { q with peerDid := p.srcDid, peerAssigned := true }) s else s
    let depth := bits p.aux.toNat 47 32
    match s.link.enumeration with
    | some e =>
      let e := { e with count := e.count + 1, deepest := max e.deepest depth, stack := (p.srcDid, depth, 0) :: e.stack }
      enumGo { s with link := { s.link with enumeration := some e } }
    | none => settleRoutes s
  else lateAssign p.addr p.srcDid (bits p.aux.toNat 17 16) s
def execEnumReportReceive (port : Fin 4) (p : Packet) (s : State) : Host.Outcome State Fault Refusal := .next (arrives port p (doReport port p) s)

/-- DONE: the far end of a cycle puts its port in STANDBY too, and the root goes on with the next port (R350). -/
def doEnumDone (n : Fin 4) (p : Packet) (s : State) : State :=
  if ¬ isPacket p 7 3 then s
  else
    let s := if p.neighbour ∧ p.aux = 1 then setPort n (fun q => { q with state := .standby, entries := [], peerDid := p.srcDid, peerAssigned := true }) s else s
    if s.link.isRoot then enumGo s
    else if p.neighbour then send (donePacket s s.link.rootDid 0 false) s
    else s
def execEnumDoneReceive (port : Fin 4) (p : Packet) (s : State) : Host.Outcome State Fault Refusal := .next (arrives port p (doEnumDone port p) s)

end Sys2Proof.Machine
end

