-- ==== Sys2Proof/Machine/Clocks.lean ====
section
/-! DEFINITION. The clock events: references (R478, R479), lock, holdover, departures and their safe states (R484, R486, R487),
PPS_IN, PPS_OUT and PTM (R403, R404, R471, R490 to R496), and the deep Lull states (R497 to R499). -/

namespace Sys2Proof.Machine

def evSynth (k : Fin 11) (o : Nat) : Nat := 0xB00 + k.val * 4 + o

/-! ## References (R476 to R479) -/

/-- A synthesizer loses lock: it holds its control value (R486). -/
def toHoldover (k : Fin 11) (s : State) : State :=
  if s.clk.synths[k].state ≠ .locked then s
  else
    let s := setSynth k.val (fun y => { y with state := .holdover, since := s.clk.up, unlocks := satN 16 (y.unlocks + 1) }) s
    let s := if h : 3 ≤ k.val ∧ k.val < 7 then inletUnlocked ⟨k.val - 3, by omega⟩ s else s
    settleUncertain (raise (evSynth k 1) [] s)

/-- REFIN is lost: holdover, and the root relocks on the crystal (R478). -/
def doRefinLoss (s : State) : State :=
  if ¬ (2 ≤ s.clk.refInUse ∧ s.clk.refInUse ≤ 4) then s else raise 0xB30 [] (setClk (fun c => { c with refInUse := 1 }) (toHoldover 0 s))
def execRefinLoss (s : State) : Host.Outcome State Fault Refusal := .next (doRefinLoss s)

/-- The crystal stops while it is the root reference (R479). -/
def doCrystalLoss (s : State) : State :=
  if s.clk.refInUse ≠ 1 ∨ s.clk.crystalLost then s else raise 0xB31 [] (setClk (fun c => { c with crystalLost := true }) (toHoldover 0 s))
def execCrystalLoss (s : State) : Host.Outcome State Fault Refusal := .next (doCrystalLoss s)

def execSynthLockLoss (k : Fin 11) (s : State) : Host.Outcome State Fault Refusal := .next (toHoldover k s)

/-! ## Safe states (R487) -/

/-- A tile stops at its next commit: of its batch only the index in progress is left. -/
def Tile.lastCommit (t : Tile) : Tile := { t with batch := t.batch.take 1, units := t.units.take 1, readIssued := min 1 t.readIssued }

/-- An open stream closes with reason 2, without delivery where its destination cannot be reached (R306). -/
def closeForClock (n : Fin 16) (s : State) : State :=
  let t := s.tw[n]
  if ¬ t.isOpen ∨ t.state = .closing then s
  else if if t.dest = 2 then reachable s.link t.peerDid else masters s then beginClose n 2 none s
  else closeNow n 2 s

/-- The store halts (R104). -/
def haltStore (s : State) : State :=
  if s.store.state = .ready ∨ s.store.state = .selfRefresh then
    raise 0x30C [] (setStore (fun st =>
      { st with state := .halted, idleSince := none, srExiting := false, srSince := if st.state = .selfRefresh then st.srSince else s.clk.up }) s)
  else s

/-- The main link sends idle pattern; SCN_FRAME runs on. -/
def idleScan (s : State) : State := if s.scn.link = .active then setScn (fun c => { c with link := .training, trained := false, sscActive := false }) s else s

/-- The root's safe state. -/
def rootSafe (s : State) : State :=
  let s := { s with tiles := s.tiles.map Tile.lastCommit }
  let s := forL (List.finRange 4) (fun n s => portDown n 1 s) s
  let s := forL (List.finRange 16) closeForClock s
  let s := forL (List.finRange 4) (fun n s => if s.inlets[n].runs then faultInlet n 3 0xFF s else s) s
  settleUncertain (loopTo 4 (idleScan (haltStore s)))

/-- The safe state of a domain (R487). -/
def safeState (k : Fin 11) (s : State) : State :=
  if k = 0 then rootSafe s
  else if k = 1 then haltStore s
  else if k = 2 then idleScan s
  else if h : k.val < 7 then
    let n : Fin 4 := ⟨k.val - 3, by omega⟩
    if s.inlets[n].runs then faultInlet n 3 0xFF s else s
  else
    let n : Fin 4 := ⟨k.val - 7, by omega⟩
    portDown n 1 s

/-- A monitor window finds a domain outside ±2 %: bypass, and the safe state. While the root is in bypass its row governs. Without
the crystal only the root is checked, against the internal oscillator (R479). -/
def doDeparture (k : Fin 11) (s : State) : State :=
  if s.clk.synths[k].state = .off ∨ s.clk.synths[k].state = .bypass ∨ rootBypassed s ∨ (s.clk.crystalLost ∧ k ≠ 0) then s
  else
    let s := setSynth k.val (fun y => { y with state := .bypass, since := s.clk.up, unlocks := if y.state = .locked then satN 16 (y.unlocks + 1) else y.unlocks }) s
    let s := { s with life := { s.life with bypasses := satN 32 (s.life.bypasses + 1) } }
    safeState k (raise (evSynth k 2) [] s)
def execSynthFrequencyDeparture (k : Fin 11) (s : State) : Host.Outcome State Fault Refusal := .next (doDeparture k s)

/-! ## Relock -/

/-- Every channel is retrained and the store is READY again (R104). -/
def resumeStore (s : State) : State :=
  if memoryUnlocked s ∨ rootBypassed s ∨ ¬ (s.store.state = .ready ∨ s.store.state = .halted) then s
  else
    let was := decide (s.store.state = .halted)
    let res := if was then s.clk.up - s.store.srSince else 0
    let s := setStore (fun st =>
      { st with state := .ready, retrains := satN 32 (st.retrains + 16), rowCounts := [], retraining := none, idleSince := some s.clk.up,
                srTicks := st.srTicks + res, scrubSince := st.scrubSince + res, refreshBase := if was then s.clk.up else st.refreshBase }) s
    if was then raise 0x30D [] s else s

/-- A live share resumes at the first index whose frame is released from now on; earlier ones become gaps of cause 9 (R487). -/
def resumeShare (n : Fin 20) (x : Share) (s : State) : State := match findTask s x.task with
  | none => s
  | some t =>
    if x.role ≠ srMain then s
    else
      let kr := firstLive s t x
      let lost := (ownIndices x.period x.residues x.idx kr).filter fun k => if t.desc.twoStage then !t.coarsePassed k else !t.passed k
      publishTask t.id (loseIndices t.id 9 lost (setShare n x.key (fun y => { y with idx := max y.idx kr }) s))
def resumeTiles (s : State) : State :=
  forL (List.finRange 20) (fun n s =>
    let t := s.tiles[n]
    if ¬ t.healthy then s
    else
      let s := setTile n (fun t => if t.running.isSome then { t.stopRun with state := .idle } else t) s
      forL t.shares (resumeShare n) s) s

/-- A domain is back on its synthesizer (R486, R487). -/
def afterBypass (k : Fin 11) (s : State) : State :=
  if k = 0 then
    let s := loopTo (if s.clk.loop.source = 0 then 0 else 1) s
    let s := resumeTiles (resumeStore s)
    settleUncertain (if scnEnabled s ∧ s.scn.link = .training then trainLink s else s)
  else if k = 1 then resumeStore s
  else if k = 2 then (if scnEnabled s then trainLink s else s)
  else s   -- an inlet stays in FAULT; a port trains as its retry comes due

/-- Whether the root has a reference to lock to: not once its crystal has stopped (R479). -/
def hasReference (s : State) (k : Fin 11) : Bool := !(decide (k = 0) && s.clk.crystalLost && decide (s.clk.refInUse = 1))

/-- A synthesizer relocks, after its qualification, and leaves holdover or bypass. -/
def doSynthRelock (k : Fin 11) (s : State) : State := match (if hasReference s k then s.clk.synths[k].state else .off) with
  | .holdover =>
    let s := waitLock k s
    let s := settleUncertain (raise (evSynth k 0) [] (setSynth k.val (fun y => { y with state := .locked }) s))
    if k = 1 then resumeStore s else s
  | .bypass => afterBypass k (raise (evSynth k 3) [] (setSynth k.val (fun y => { y with state := .locked }) (waitLock k s)))
  | _ => s
def execSynthRelock (k : Fin 11) (s : State) : Host.Outcome State Fault Refusal := .next (doSynthRelock k s)

/-- A synthesizer that was started qualifies lock: what waited for it goes on (R56, R268, R274, R338). -/
def doSynthLocked (k : Fin 11) (s : State) : State :=
  if s.clk.synths[k].state ≠ .acquiring then s
  else
    let s := waitLock k s
    let s := settleUncertain (raise (evSynth k 0) [] (setSynth k.val (fun y => { y with state := .locked }) s))
    if k = 2 then pixelLocked s
    else if h : 3 ≤ k.val ∧ k.val < 7 then
      let n : Fin 4 := ⟨k.val - 3, by omega⟩
      inletPllLocked n s
    else s
def execSynthesizerLocked (k : Fin 11) (s : State) : Host.Outcome State Fault Refusal := .next (doSynthLocked k s)

/-! ## TIMEBASE_SET (R445) and PPS_IN (R471, R490 to R492) -/

/-- The time base takes a value: everything R494 names moves with it, and a disciplined loop acquires again (R492). -/
def setTime (tick : Nat) (s : State) : State :=
  let s := stepTimeTo tick s
  if s.clk.loop.source = 0 ∨ s.clk.loop.state = 4 then s
  else
    let s := loopTo 1 s
    setLoop (fun l => { l with within := 0, beyond := 0, stepped := false }) s

/-- The TIMEBASE_SET commands that wait for a PPS_IN edge, in order. -/
def pendingSets (s : State) : List Cmd := s.mbx.cmds.filter fun c => c.waiting && c.opcode = 0x0020

/-- The time base takes the value of a TIMEBASE_SET, where its conditions hold at that instant (R445). -/
def takeTimeSet (c : Cmd) (s : State) : State :=
  if ¬ stepAllowed s then complete c stState 0 0 1 s
  else if s.link.upstream.isSome then complete c stState 0 0 2 s
  else done c s.clk.tick (c.p64 0x10) (setTime (c.p64 0x10) s)

/-- The error of an edge against whole seconds, in 1/65,536 tick. -/
def ppsError (tick frac : Nat) : Int :=
  let r := tick % secTicks
  (if r < secTicks / 2 then (r : Int) else (r : Int) - secTicks) * 65536 + frac

/-- An edge that is not within 0.5 s of the last accepted one (R590) is captured, applies a pending TIMEBASE_SET and steers. -/
def doPpsEdge (frac : Nat) (s : State) : State :=
  if s.jtag.pinsTaken || (match s.clk.ppsEdgeUp with | some u => decide (s.clk.up < u + secTicks / 2) | none => false) then s
  else
    let s := (s.setReg64 kPpsLo kPpsHi s.clk.tick).setRegN kPpsFrac frac
    let s := setClk (fun c => { c with ppsEdgeUp := some c.up }) s
    let s := forL (pendingSets s) takeTimeSet s
    if s.clk.loop.source = 1 then loopUpdate (ppsError s.clk.tick frac) s else s
def execPpsInEdge (frac : U16) (s : State) : Host.Outcome State Fault Refusal := .next (doPpsEdge frac.toNat s)

/-- No edge for 1.1 s while PPS_IN is the source (R471, R492). -/
def doPpsMissed (s : State) : State :=
  if s.clk.loop.source ≠ 1 ∨ ¬ (s.clk.loop.state = 1 ∨ s.clk.loop.state = 2) then s
  else
    let from_ := max (s.clk.ppsEdgeUp.getD 0) s.clk.loop.since
    let s := waitUp (from_ + 1100 * msTicks) s
    loopLost (raise 0xB41 [] (s.setField kTmbStatus 10 10 1))
def execPpsMissedTimeout (s : State) : Host.Outcome State Fault Refusal := .next (doPpsMissed s)

/-- HOLDOVER has lasted longer than holdover_s (R495). -/
def doHoldoverTimeout (s : State) : State :=
  if s.clk.loop.state ≠ 3 then s else settleUncertain (waitUp (s.clk.loop.since + s.clk.cfg.holdoverS * secTicks + 1) s)
def execHoldoverTimeout (s : State) : Host.Outcome State Fault Refusal := .next (doHoldoverTimeout s)

/-- PPS_OUT rises at the next whole second, and falls 100 ms after it rose (R496). -/
def doPpsOut (s : State) : State :=
  if ¬ s.clk.cfg.ppsOutEn then s
  else if s.clk.ppsOut then setClk (fun c => { c with ppsOut := false }) (waitTick (s.clk.tick / secTicks * secTicks + secTicks / 10) s)
  else setClk (fun c => { c with ppsOut := true }) (waitTick (ceilDiv s.clk.tick secTicks * secTicks) s)
def execPpsOutPulse (s : State) : Host.Outcome State Fault Refusal := .next (doPpsOut s)

/-! ## PTM (R403, R404, R491) -/

/-- At the PTM interval a request leaves, stamped to a fraction of a tick that is free here. -/
def doPtmStart (s : State) : State :=
  if ¬ ptmEnabled s ∨ ¬ s.pcie.linkUp ∨ s.pcie.d3 ∨ s.pcie.ptmOpen.isSome then s
  else
    let s := waitUp (if s.pcie.ptmLast = 0 then s.clk.up else s.pcie.ptmLast + s.clk.loop.ptmMs * msTicks) (wakeLull s)
    let f := takeFree s
    let frac := (Config.freeWord f.1).toNat % 65536
    setPcie (fun p => { p with ptmOpen := some (f.2.clk.tick * 65536 + frac), ptmLast := f.2.clk.up, messages := p.messages ++ [.ptmRequest f.2.clk.tick frac] }) f.2
def execPtmDialogStart (s : State) : Host.Outcome State Fault Refusal := .next (doPtmStart s)

/-- A response completes the dialog: a new pair, and the error against the first pair after the source was selected. -/
def doPtmResponse (master frac : Nat) (s : State) : State :=
  if s.pcie.ptmOpen.isNone ∨ ¬ ptmEnabled s then s
  else
    let s := setPcie (fun p => { p with ptmOpen := none, ptmValid := true }) s
    let s := s.countWrap kPtmSeq 1
    let s := ((s.setReg64 kPtmLocalLo kPtmLocalHi s.clk.tick).setRegN kPtmLocalFrac frac).setReg64 kPtmMasterLo kPtmMasterHi master
    if s.clk.loop.source ≠ 2 then s
    else
      let t := s.clk.tick * 65536 + frac
      let o := s.clk.loop.ptmOrigin.getD (master, t)
      let s := setLoop (fun l => { l with ptmOrigin := some o }) s
      loopUpdate ((t : Int) - roundDiv (((master : Int) - o.1) * 8388608) 100 - o.2) s
def execPtmResponse (masterNs : U64) (frac : U16) (s : State) : Host.Outcome State Fault Refusal := .next (doPtmResponse masterNs.toNat frac.toNat s)

def execPtmCorrelationInvalid (s : State) : Host.Outcome State Fault Refusal := .next (ptmInvalid s)

/-! ## LULL_ENTRY and LULL_WAKE (R497 to R499) -/

/-- Lull-2: the tiles are gated and the links idle in low power. -/
def enterLull2 (s : State) : State :=
  let s := { s with tiles := s.tiles.map (fun t => { t with powered := false }),
                    link := { s.link with ports := s.link.ports.map fun p => if p.state = .active then { p with state := .lowPower } else p } }
  lullTo 2 s
/-- Lull-3: inlets, link ports, those in standby among them, and the memory synthesizer stop too. -/
def enterLull3 (s : State) : State :=
  let off := fun (k : Nat) (s : State) => setSynth k (fun y => { y with state := .off }) s
  let s := forL [3, 4, 5, 6, 7, 8, 9, 10] off s
  let s := forL (List.finRange 4) (fun n s => if s.link.ports[n].state = .standby then setPort n (fun p => { p with state := .lowPower }) s else s) s
  lullTo 3 (if s.store.state = .selfRefresh ∧ ¬ s.store.srExiting then off 1 s else s)

/-- The conditions of the next deep state have held for its entry time: 10 µs, or 100 ms. -/
def doLullEntry (s : State) : State :=
  let t := lullTarget s
  if s.boot.phase ≠ .running ∨ t < 2 ∨ t ≤ s.clk.lull then s
  else if s.clk.lull < 2 then enterLull2 (pass (10 * usTicks) s)
  else enterLull3 (waitUp (s.clk.lullSince + 100 * msTicks) s)
def execLullEntry (s : State) : Host.Outcome State Fault Refusal := .next (doLullEntry s)

def execLullWake (s : State) : Host.Outcome State Fault Refusal := .next (wakeLull s)

end Sys2Proof.Machine
end

