-- ==== Sys2Proof/Machine/LinkRx.lean ====
section
/-! DEFINITION. The rows of arriving link packets: forwarding (R346), access to the store (R363, R364), work for other devices (R366, R367),
peer streams (R368), forwarded commands and events (R373 to R375), heals (R355), the loss of flows (R371), and time across links
(R357, R358). -/

namespace Sys2Proof.Machine

/-! ## Forwarding (R346) -/

/-- What the device on the way does to its routes: REPORT widens the arrival port's range, ACTIVATE turns the upstream port toward the
chosen device (R350, R355). -/
def passing (a e : Fin 4) (p : Packet) (s : State) : State :=
  if isPacket p 7 2 ∧ bit p.aux.toNat 20 then
    let s := if p.hops = 0 then setPort a (fun q => { q with peerDid := p.srcDid, peerAssigned := true }) s else s
    addDid a p.srcDid s
  else if isHeal p rcActivate then
    let rest := minusRanges (healRanges p) (subtree s)
    let s := setPort e (fun q => { q with entries := [] }) { s with link := { s.link with upstream := some e.val } }
    setEntries a (rest.map fun r => (r.1, r.2, s.link.healNo)) s
  else s

/-- A packet that cannot go on: a READ is answered UNREACHABLE, any other is discarded and counted (R353). -/
def noRoute (p : Packet) (s : State) : State :=
  if p.type = ptRead then send (mkPacket s ptCompletion 0 p.srcDid p.tag 0 3) s else discardPacket s

/-- A packet for another DID, or with BCAST, goes on (R346). An UNASSIGNED device forwards nothing (R348). -/
def doForward (n : Fin 4) (p : Packet) (s : State) : State :=
  if ¬ s.link.ports[n].carries ∨ ¬ s.link.assigned ∨ p.neighbour ∨ (¬ p.bcast ∧ p.dstDid = s.link.did) then s
  else if 65534 < p.hops + 1 then discardPacket s
  else
    let q := { p with hops := p.hops + 1 }
    if p.bcast then broadcast (some n) q s
    else match routePort s.link p.dstDid with
      | some e => if e = n then discardPacket s else sendOn e q (passing n e p s)
      | none => noRoute p s
def execLinkPacketForward (port : Fin 4) (p : Packet) (s : State) : Host.Outcome State Fault Refusal := .next (doForward port p s)

/-! ## WRITE (R363, R366 to R368) -/

/-- Answer a request. -/
def answer (p : Packet) (status : Nat) (payload : Data) (s : State) : State :=
  send { mkPacket s ptCompletion 0 p.srcDid p.tag 0 status with payload := payload } s

/-- A host-originated write: DMA and DISPLAY regions only; it is accepted once the store takes it (R78, R363). -/
def storeWriteFrom (p : Packet) (s : State) : State :=
  let ack := fun (st : Nat) (s : State) => if p.ackReq then answer p st [] s else s
  if ¬ dmaWritable s p.addr.toNat p.payload.length then ack 1 s
  else
    let s := storeAwake s
    if ¬ storeServes s then s else ack 0 (storeWrite p.addr.toNat p.payload s)

/-- Fields of a packet that carries a part of something longer. -/
def partInfo (p : Packet) : Nat := p.aux.toNat % 256
def partLast (p : Packet) : Bool := bit p.aux.toNat 8
def partOffset (p : Packet) : Nat := p.aux.toNat / 2 ^ 32

/-- Acknowledge the highest number accepted (R368): addr holds it, aux the sender's stream in bits 11:8. -/
def ackRecord (did stream last : Nat) (s : State) : State := send (mkPacket s ptCompletion 1 did 0 last (stream * 256)) s

/-- The producers a stream has of a peer, brought up to date by an accepted record: the next item, which begins where the record's span
ends (R288, R369). -/
def noteProducer (n : Fin 16) (did stop : Nat) (rec_ : Data) (s : State) : State :=
  let h := recHdr rec_
  let key := h.taskId * 65536 + h.srcCh
  setStream n (fun t => { t with fromProducers := t.fromProducers.filter (fun x => !decide (x.1 = did ∧ x.2.1 = key)) ++ [(did, key, h.itemIndex + h.itemCount, putAt (putAt (rec_.take 64) 0x10 (le 8 stop)) 0x18 (le 2 0))] }) s

/-- A record of a peer stream is whole: the next number in order is accepted as one more producer's record, any at or below the last
accepted is discarded (R317, R368). -/
def peerRecord (n : Fin 16) (did stream seq : Nat) (d : Data) (s : State) : State :=
  let last := match s.tw[n].fromPeers.find? (fun f => decide (f.did = did ∧ f.stream = stream)) with | some f => f.last | none => 0
  if seq ≤ last then ackRecord did stream last s
  else if seq ≠ last + 1 ∨ ¬ s.tw[n].accepts then s
  else
    let rec_ := d.drop 8
    let h := recHdr rec_
    let s := offerRecord n (prodPeer did stream (h.taskId * 65536 + h.srcCh)) rec_ (u64At d 0) none true s
    ackRecord did stream seq (noteProducer n did (u64At d 0) rec_ (setFeed n did stream (fun f => { f with last := seq }) s))

/-- A part of a peer stream's record (R368). -/
def streamPart (p : Packet) (s : State) : State := match streamIndex (partInfo p % 16) with
  | none => s
  | some n =>
    let k := partInfo p / 16
    let known := s.tw[n].fromPeers.any fun f => decide (f.did = p.srcDid ∧ f.stream = k)
    let s := if known then s else setStream n (fun t => { t with fromPeers := t.fromPeers ++ [⟨p.srcDid, k, 0, [], none⟩] }) s
    let s := setFeed n p.srcDid k (fun f =>
      { f with partial_ := if partOffset p = 0 then p.payload else if partOffset p = f.partial_.length then f.partial_ ++ p.payload else f.partial_ }) s
    if ¬ partLast p then s
    else match s.tw[n].fromPeers.find? (fun f => decide (f.did = p.srcDid ∧ f.stream = k)) with
      | some f => peerRecord n p.srcDid k p.addr.toNat f.partial_ s
      | none => s

/-- The exact value of a binary32, over 2^149. -/
def value149 (w : U32) : Int :=
  let m := mant32 (w &&& 0x7FFFFFFF#32)
  let v : Int := (m.1 : Int) * 2 ^ (m.2 + 149).toNat
  if w.getLsbD 31 then -v else v
/-- Values of 4 bytes. -/
def words32 (d : Data) : List U32 := (List.range (d.length / 4)).map fun i => BitVec.ofNat 32 (u32At d (4 * i))

/-- A remote unit becomes what a local one of its task would be (R154, R163, R366). -/
def unitFrom (t : Task) (d : Data) : CommitUnit :=
  let g := t.descAt (if bit (u8At d 5) 2 then u64At d 8 else t.indexOfFrame (u64At d 8))
  let marks := u8At d 5
  let gap := u16At d 6
  let w := words32 (d.drop 64)
  let c := (List.range (w.length / 2)).map fun i => (⟨value149 ((w.drop (2 * i)).headD 0), value149 ((w.drop (2 * i + 1)).headD 0), 2 ^ 149⟩ : BinVal)
  let power := if bit marks 3 then c.map binPower else w
  let formatted := if ¬ bit marks 3 then []
    else if g.twoStage ∨ g.format = 2 then
      c.map fun x => let r := complexInteger x g.outShift; ((BitVec.ofNat 32 (codeOf 16 r.1.1), BitVec.ofNat 32 (codeOf 16 r.1.2)), r.2)
    else if g.format = 3 then c.map fun x => (complexFloat x, false)
    else []
  let bins := formatted.map Prod.fst
  { task := t.id, index := u64At d 8, epoch := u8At d 4, fine := bit marks 2, power := if gap = 0 then power else [], bins := if gap = 0 then bins else [],
    crc := crc32c (binData power bins), clipped := bit marks 0, uncertain := bit marks 1, backfill := false,
    saturated := if g.twoStage ∧ ¬ bit marks 2 then (formatted.filter (·.2)).length
      else if g.format = 2 then (((formatted.drop g.binFirst).take (g.spanIn t.bins)).filter (·.2)).length else 0, gap := if gap = 0 then none else some gap }

/-- A unit from a peer that holds or prepares shares of its task; one whose CRC fails is dropped. -/
def unitArrives (did : Nat) (d : Data) (s : State) : State := match findTask s (u32At d 0) with
  | none => s
  | some t =>
    let mine := t.placedPeer = some did || (match t.migration with | some m => decide (m.peer = some did) | none => false) ||
      s.link.toCancel.any (fun x => decide (x = (did, t.id)))
    if mine ∧ (crc32c (d.drop 64)).toNat = u32At d 0x10 then acceptUnit (unitFrom t d) s
    else if t.oldLimit = 0 then s
    else setTask t.id (fun t => { t with oldEpochDrops := t.oldEpochDrops + 1 }) s

/-- A remote source's spectrum joins its correlator's index (R150, R367). -/
def spectrumArrives (did : Nat) (d : Data) (s : State) : State := match findXcorr s (u32At d 0) with
  | none => s
  | some x => match (x.sources.drop (u8At d 4)).head? with
    | some y =>
      if ¬ y.remote ∨ y.did ≠ did then s
      else
        let gap := u16At d 6
        let b := d.drop 64
        let v := (List.range (b.length / 2)).map fun i => (signed 8 (u8At b (2 * i)), signed 8 (u8At b (2 * i + 1)))
        let s := xcSaturated x.id (u8At d 4) (u64At d 8) (u32At d 0x10) s
        xcOffer x.id (u8At d 4) (u64At d 8) (u8At d 5) (if gap = 0 then some v else none) gap s
    | none => s

/-- A part of a unit or a spectrum: what is whole is taken (R366, R367). -/
def bulkPart (p : Packet) (s : State) : State :=
  let old := match s.link.arriving.find? (fun x => decide (x.1 = p.srcDid ∧ x.2.1 = p.subtype)) with | some x => x.2.2 | none => []
  let d := if partOffset p = 0 then p.payload else if partOffset p = old.length then old ++ p.payload else old
  let rest := s.link.arriving.filter fun x => !decide (x.1 = p.srcDid ∧ x.2.1 = p.subtype)
  let s := { s with link := { s.link with arriving := if partLast p then rest else rest ++ [(p.srcDid, p.subtype, d)] } }
  if ¬ partLast p then s else if p.subtype = 2 then unitArrives p.srcDid d s else spectrumArrives p.srcDid d s

/-- WRITE subtypes: 0 to the store, 1 stream records, 2 commit units, 3 cross-spectral spectra. -/
def doLinkWrite (p : Packet) (s : State) : State :=
  if p.type ≠ ptWrite then s
  else if p.subtype = 0 then storeWriteFrom p s
  else if p.subtype = 1 then streamPart p s
  else if p.subtype = 2 ∨ p.subtype = 3 then bulkPart p s
  else if p.ackReq then answer p 1 [] s else s
def execLinkWriteReceive (port : Fin 4) (p : Packet) (s : State) : Host.Outcome State Fault Refusal := .next (arrives port p (doLinkWrite p) s)

/-! ## READ (R363) -/

/-- Whether the firmware opened HISTORY to a peer: a placement of its own stands or begins there. -/
def openedTo (s : State) (did : Nat) : Bool := s.tasks.any fun t => t.placedPeer = some did || (match t.migration with | some m => decide (m.peer = some did) | none => false)
/-- The span of a firmware-issued read lies in what was opened; a host-originated one anywhere but in FIRMWARE. -/
def readAllowed (s : State) (p : Packet) (n : Nat) : Bool :=
  if p.subtype = 1 then openedTo s p.srcDid && s.store.within rtHistory p.addr.toNat n else decide (p.subtype = 0) && dmaReadable s p.addr.toNat n

/-- What a read of HISTORY meets: no answer yet, where no sample lies (R14); a hole with its cause; an overwritten span; or data. -/
def historyStatus (s : State) (a n : Nat) : Option (Nat × Nat) :=
  let spans := (sectorsOf a n).map fun k => historySpan s (k * 32)
  if spans.any (·.isNone) then none
  else
    let l := spans.filterMap id
    let holes := l.flatMap fun x => holesIn s.inlets[x.1].ring x.2.1 x.2.2
    if ¬ holes.isEmpty then some (5, holes.foldl (fun c h => worseCause c h.cause) 0)
    else if l.any fun x => decide (x.2.1 < s.inlets[x.1].ring.oldest) then some (6, 0)
    else some (0, 0)

/-- A READ is served as a tile's or Draught's own read is, with the status codes of R345. -/
def doLinkRead (p : Packet) (s : State) : State :=
  let n := p.aux.toNat % 2 ^ 32
  let a := p.addr.toNat
  if p.type ≠ ptRead then s
  else if n = 0 ∨ 4096 < n ∨ ¬ readAllowed s p n then answer p 1 [] s
  else
    let s := storeAwake s
    if ¬ storeServes s then s
    else match (if s.store.within rtHistory a n then historyStatus s a n else some (0, 0)) with
      | none => s
      | some (st, cause) =>
        if st ≠ 0 then answer p (st + cause * 256) [] s
        else if readPoisoned s a n then answer p 2 [] (reportSpan a n rqLink s)
        else answer p 0 (rawRead s a n) s
def execLinkReadReceive (port : Fin 4) (p : Packet) (s : State) : Host.Outcome State Fault Refusal := .next (arrives port p (doLinkRead p) s)

/-! ## COMPLETION (R364) -/

/-- COMPLETION subtypes: 0 answers a request, 1 acknowledges stream records, 2 the receipt of a forwarded command. -/
def doLinkCompletion (p : Packet) (s : State) : State :=
  if p.type ≠ ptCompletion then s
  else if p.subtype = 1 then match streamIndex (bits p.aux.toNat 11 8) with
    | some n => if s.tw[n].peerDid = p.srcDid then doPeerStreamAck n p.addr.toNat s else s
    | none => s
  else if p.subtype = 2 then
    { s with mbx := { s.mbx with forwarded := lmod s.mbx.forwarded (fun f => decide (f.cmd = p.tag.toNat ∧ f.did = p.srcDid)) fun f => { f with acknowledged := true } } }
  else match s.link.requests.find? (fun r => decide (r.tag = p.tag ∧ r.did = p.srcDid)) with
    | some r => endRequest r (p.aux.toNat % 256) (bits p.aux.toNat 15 8) p.payload s
    | none => s
def execLinkCompletionReceive (port : Fin 4) (p : Packet) (s : State) : Host.Outcome State Fault Refusal := .next (arrives port p (doLinkCompletion p) s)

/-- No COMPLETION within 1 ms + 4 us a hop: status 4 (R364). -/
def doRequestTimeout (tag : U32) (s : State) : State := match s.link.requests.find? (·.tag = tag) with
  | some r => endRequest r 4 0 [] (waitUp (r.sent + msTicks + 4 * usTicks * r.hops) s)
  | none => s
def execLinkRequestTimeout (tag : U32) (s : State) : Host.Outcome State Fault Refusal := .next (doRequestTimeout tag s)

/-! ## Forwarded commands and events (R373 to R375) -/

/-- Commands that name memory of the target's own host (R374). -/
def namesOwnMemory (c : Cmd) : Bool := (c.opcode = 0x0600 && c.p8 0x09 = 0 && !bit (c.p16 0x0A) 15) || c.opcode = 0x0602

/-- The target acknowledges and starts a forwarded command, or rejects it (R373, R374, R425). -/
def doForwardedCommand (p : Packet) (s : State) : State :=
  if ¬ isPacket p ptMsg 1 ∨ ¬ s.fw.runs then s
  else
    let s := if p.ackReq then send (mkPacket s ptCompletion 2 p.srcDid p.tag 0 0) s else s
    let c : Cmd := { id := s.mbx.nextId, origin := .peer p.srcDid p.tag, cplq := 0, bytes := p.payload.take 64, started := true, waiting := false, blocks := [] }
    let full := decide (cmdLimit ≤ s.mbx.cmds.length)
    let s := { s with mbx := { s.mbx with nextId := c.id + 1, cmds := s.mbx.cmds ++ [c] } }
    if full then complete c stBusy 0 0 0 s
    else if namesOwnMemory c then complete c stState 0 0 0 s
    else startCmd c s
def execForwardedCommandReceive (port : Fin 4) (p : Packet) (s : State) : Host.Outcome State Fault Refusal := .next (arrives port p (doForwardedCommand p) s)

/-- The blocks of a forwarded completion: address, length, bytes. -/
def forwardedBlocks : Nat → Data → List (Nat × Data)
  | 0, _ => []
  | n + 1, d =>
    if d.length < 12 then []
    else let k := u32At d 8; (u64At d 0, (d.drop 12).take k) :: forwardedBlocks n (d.drop (12 + k))

/-- The proxy writes the returned blocks, then the completion (R373). -/
def doForwardedCompletion (p : Packet) (s : State) : State :=
  if ¬ isPacket p ptMsg 2 ∨ ¬ s.mbx.forwarded.any (fun f => decide (f.cmd = p.tag.toNat ∧ f.did = p.srcDid)) then s
  else
    let s := { s with mbx := { s.mbx with forwarded := s.mbx.forwarded.filter (·.cmd ≠ p.tag.toNat) } }
    match findCmd s p.tag.toNat with
    | none => s
    | some c =>
      let d := p.payload
      let s := forL (forwardedBlocks d.length (d.drop 32)) (fun b s => hostWrite b.1 b.2 s) s
      complete c (u16At d 4) (u64At d 8) (u64At d 0x10) (u32At d 0x18) s
def execForwardedCompletionReceive (port : Fin 4) (p : Packet) (s : State) : Host.Outcome State Fault Refusal :=
  .next (arrives port p (doForwardedCompletion p) s)

/-- A target's event enters the event queue that its route names, with the target's DID (R375, R430). -/
def doForwardedEvent (p : Packet) (s : State) : State :=
  if ¬ isPacket p ptMsg 3 then s
  else match evqIndex (p.aux.toNat % 65536) with
    | some n =>
      let d := p.payload
      (evqAccept n ⟨u16At d 0, u64At d 8, u64At d 0x10, u64At d 0x18, true, p.srcDid⟩ (bits p.aux.toNat 31 16) s).2
    | none => s
def execForwardedEventReceive (port : Fin 4) (p : Packet) (s : State) : Host.Outcome State Fault Refusal := .next (arrives port p (doForwardedEvent p) s)

/-! ## Heals (R355) -/

/-- The members of armed group ATs that lie outside the orphan set are beyond the break that HEAL tells of (R228, R355). -/
def markCut (ranges : List (Nat × Nat)) (s : State) : State :=
  let members := (s.squall.ats.toList.flatMap fun a => if a.armed && a.group then a.members.map (·.did) else []).dedup
  forL (members.filter fun d => !inRanges ranges d) markPartial s
/-- An orphan marks its group ATs and offers each STANDBY port that leads outside the orphan set. -/
def doHeal (n : Fin 4) (p : Packet) (s : State) : State :=
  if ¬ isHeal p rcHeal ∨ s.link.upstream ≠ some n.val then s
  else
    let ranges := healRanges p
    let own := (List.finRange 4).filter fun k => decide (s.link.ports[k].state = .standby) && !inRanges ranges s.link.ports[k].peerDid
    forL own (fun k s => send (healMsg s p.srcDid rcOffer k.val (p.hops + 1) 0 []) s) (markCut ranges s)
def execHealReceive (port : Fin 4) (p : Packet) (s : State) : Host.Outcome State Fault Refusal := .next (arrives port p (doHeal port p) s)

/-- The orphan head notes an offer. -/
def doOffer (p : Packet) (s : State) : State :=
  if ¬ isHeal p rcOffer then s
  else match s.link.heal with
    | some h => { s with link := { s.link with heal := some { h with offers := h.offers ++ [⟨p.srcDid, healPort p, healHops p⟩] } } }
    | none => s
def execOfferReceive (port : Fin 4) (p : Packet) (s : State) : Host.Outcome State Fault Refusal := .next (arrives port p (doOffer p) s)

/-- The chosen device makes its STANDBY port its upstream port; where it came from leads to the rest of the orphans. -/
def activateHere (k : Fin 4) (from_ : Option (Fin 4)) (ranges : List (Nat × Nat)) (s : State) : State :=
  if s.link.ports[k].state ≠ .standby then s
  else
    let rest := minusRanges ranges (subtree s)
    let s := setPort k (fun q => { q with state := .active, entries := [] }) { s with link := { s.link with upstream := some k.val } }
    let s := raise (evPort k 6) [] s
    let s := match from_ with | some a => setEntries a (rest.map fun r => (r.1, r.2, s.link.healNo)) s | none => s
    settleRoutes (sendOn k { healMsg s 0 rcActivate 0 0 0 ranges with neighbour := true } s)

/-- heal_offer_us after the flood: the offer with the fewest hops, then the lowest DID, is taken; without an offer the orphans stay
cut off. -/
def doHealTimeout (s : State) : State := match s.link.heal with
  | none => s
  | some h =>
    let s := waitUp (h.since + s.link.cfg.healOfferUs * usTicks) s
    let s := { s with link := { s.link with heal := none } }
    match (sortBy (fun o => o.hops * 65536 + o.did) h.offers).head? with
    | none => s
    | some o =>
      if o.did = s.link.did then activateHere (Fin.ofNat 4 o.port) none h.ranges s
      else match routePort s.link o.did with
        | some e =>
          let s := send (healMsg s o.did rcActivate o.port 0 0 h.ranges) s
          settleRoutes (setPort e (fun q => { q with entries := [] }) { s with link := { s.link with upstream := some e.val } })
        | none => s
def execHealOfferTimeout (s : State) : Host.Outcome State Fault Refusal := .next (doHealTimeout s)

/-- The heal is complete at the root (R355, R381). -/
def healDone (ranges : List (Nat × Nat)) (s : State) : State := raise 0xA46 [.h s.link.healNo] (restoreRanges ranges s)

/-- Point ranges at a port under a heal number, and tell the way to the root (R355). -/
def applyAdd (n : Fin 4) (ranges : List (Nat × Nat)) (heal : Nat) (s : State) : State :=
  let s := addEntries n ranges heal { s with link := { s.link with healNo := max s.link.healNo heal } }
  let s := if s.link.isRoot then healDone ranges s else sendUp (healMsg s s.link.rootDid rcAdd 0 0 heal ranges) (restoreRanges ranges s)
  settleRoutes s

/-- ACTIVATE reaches the chosen device, or over its link the device at the far end (R355). -/
def doActivate (n : Fin 4) (p : Packet) (s : State) : State :=
  if ¬ isHeal p rcActivate then s
  else if p.neighbour then
    if s.link.ports[n].state ≠ .standby then s
    else applyAdd n (healRanges p) (s.link.healNo + 1) (raise (evPort n 6) [] (setPort n (fun q => { q with state := .active }) s))
  else activateHere (Fin.ofNat 4 (healPort p)) (some n) (healRanges p) s
def execActivateReceive (port : Fin 4) (p : Packet) (s : State) : Host.Outcome State Fault Refusal := .next (arrives port p (doActivate port p) s)

def doRouteAdd (n : Fin 4) (p : Packet) (s : State) : State := if ¬ isHeal p rcAdd then s else applyAdd n (healRanges p) (healNumber p) s
def execRouteAddReceive (port : Fin 4) (p : Packet) (s : State) : Host.Outcome State Fault Refusal := .next (arrives port p (doRouteAdd port p) s)

/-- ROUTE_DEL removes a port's entries for the ranges, but for those that a higher heal number set (R355). -/
def doRouteDel (n : Fin 4) (p : Packet) (s : State) : State :=
  if ¬ isHeal p rcDel then s
  else
    let before := s.link.ports[n].ranges
    let s := setPort n (Port.without (healRanges p) (healNumber p)) s
    settleRoutes (cutRanges (minusRanges before s.link.ports[n].ranges) s)
def execRouteDelReceive (port : Fin 4) (p : Packet) (s : State) : Host.Outcome State Fault Refusal := .next (arrives port p (doRouteDel port p) s)

/-! ## Placement control (R366, R367, R369) -/

/-- The shares of a home device's task are on this device's tiles: it is told (R366). -/
def foreignGo (f : ForeignShare) (tiles : List (Nat × Nat)) (s : State) : State :=
  let gated := gatedAmong s (tiles.map Prod.fst).dedup
  let s := addShares (makeShares f.task srForeign f.sixteenths 0 f.epoch tiles) s
  let s := splitTileGrants (.placement f.task) pcTask gated s
  send (placementMsg s f.home 1 f.task 0 f.epoch []) s
/-- The peer turns a placement away, with the status of R427 that says why. -/
def foreignRefuse (f : ForeignShare) (status : Nat) (s : State) : State :=
  let s := dropForeign f.task f.epoch s
  send (placementMsg s f.home 2 f.task 0 status []) s

/-- The power of a placement whose tiles and link are found (R366, R501). -/
def foreignPower (f : ForeignShare) (tiles : List (Nat × Nat)) (s : State) : State :=
  let gated := gatedAmong s (tiles.map Prod.fst).dedup
  let r := requestInternal 2 (.placement f.task) [(pcTask, 10 * gated.length), (pcTask, ceilDiv (2 * f.sixteenths) 16)] s
  match r.1 with
  | .granted => foreignGo f tiles r.2
  | .queued => r.2
  | _ => foreignRefuse f stPowerDenied r.2

/-- A home device asks for capacity: tiles, the link, then power (R19, R366). -/
def foreignAsk (p : Packet) (s : State) : State :=
  let aux := p.aux.toNat
  let f : ForeignShare :=
    { home := p.srcDid, task := p.addr.toNat, sixteenths := bits aux 31 16, active := false, raw := p.payload.take 256, complex := bit aux 32, hist16 := bit aux 33,
      epoch := u16At p.payload 264, startIdx := 0, startTime := 0, stepNum := 0, stepDen := 1, next := none }
  let s := { s with link := { s.link with foreign := s.link.foreign ++ [f] } }
  match chooseTiles s (2 ^ 20 - 1) f.sixteenths f.foot with
  | some tiles =>
    ifAdmitted (admitFlow (.placement f.task) f.home (u32At p.payload 260) (u32At p.payload 256) s) (foreignRefuse f stNoResource s) (foreignPower f tiles)
  | none => foreignRefuse f stNoResource s

/-- A placement that waited for power goes on, or is turned away. -/
def foreignGranted (f : ForeignShare) (s : State) : State := match chooseTiles s (2 ^ 20 - 1) f.sixteenths f.foot with
  | some tiles => foreignGo f tiles s
  | none => foreignRefuse f stNoResource s

/-- The peer has room: the old placement gets its limit, and the peer is told where to start (R163, R366). -/
def foreignAccepted (did id : Nat) (s : State) : State := match findTask s id with
  | none => s
  | some t => match t.migration with
    | some m =>
      if m.peer ≠ some did ∨ m.ready then s
      else
        let k0 := max m.k0 (t.ahead s.clk.tick)
        let s := setTask id (fun t => { t with migration := some { m with k0 := k0, ready := true } }) (limitOld id k0 m.overlap s)
        let f := if t.desc.twoStage then k0 * 2 ^ t.desc.fLog2 else k0
        send (placementMsg s did 3 id 0 0
          (le 8 k0 ++ le 2 ((t.epoch + 1) % 256) ++ le 8 f ++ le 8 (t.frameStop f) ++ le 8 (t.desc.frameHop * t.tNum) ++ le 8 t.tDen)) s
    | none => s

/-- The home device starts the shares at an index, and says when its frames are released (R179, R366). -/
def foreignStart (task : Nat) (d : Data) (s : State) : State :=
  let epoch := u16At d 8
  let k0 := u64At d 0x0A
  let start := fun (f : ForeignShare) =>
    { f with active := true, startIdx := k0, startTime := u64At d 0x12, stepNum := u64At d 0x1A, stepDen := u64At d 0x22 }
  let mine := fun (x : Share) => decide (x.task = task ∧ x.epoch = epoch ∧ x.role = srForeign)
  let move := fun (x : Share) => if mine x then { x with idx := nextOwn x.period x.residues k0, from_ := k0 } else x
  { s with link := { s.link with foreign := lmod s.link.foreign (fun f => decide (f.task = task ∧ f.epoch = epoch)) start },
           tiles := s.tiles.map fun t => { t with shares := t.shares.map move, staged := t.staged.map (·.map move) } }

/-- The home device ends shares, from an index on or at once; epoch 0xFFFF names all. A correlator's source tasks end with it. -/
def foreignCancel (task limit epoch : Nat) (s : State) : State :=
  let named := s.link.foreign.filter fun f => decide (f.task = task) && (decide (epoch = 0xFFFF) || decide (f.epoch = epoch))
  let s := forL ((s.tasks.filter fun t => match t.kind with | .source xc _ => decide (xc = task ∧ (findXcorr s xc).isNone) | _ => false).map (·.id)) dropTask s
  if limit = 0 then forL named (fun f s => dropForeign f.task f.epoch s) s
  else
    let cap := fun (x : Share) => if x.role = srForeign ∧ named.any (fun f => decide (f.task = x.task ∧ f.epoch = x.epoch)) then { x with limit := some limit } else x
    { s with tiles := s.tiles.map fun t => { t with shares := t.shares.map cap, staged := t.staged.map (·.map cap) } }

/-- The tiles and the power of a source task for a remote correlator whose store traffic is reserved. -/
def foreignSource (t : Task) (s : State) : State := match placeShares t (2 ^ 20 - 1) 0 0 s with
  | some l =>
    let gated := gatedAmong s (l.map Prod.fst).dedup
    let g := requestInternal 2 (.task t.id) ((pcTask, 10 * gated.length) :: t.powerItems pcTask) (addShares l s)
    if g.1 = .granted then splitTileGrants (.task t.id) pcTask gated g.2 else dropTask t.id g.2
  | none => dropTask t.id s

/-- A remote correlator asks for its sources on this device: each becomes an internal source task on the grid's common start (R146,
R367). -/
def foreignSources (p : Packet) (s : State) : State :=
  let xc := p.addr.toNat
  let raw := p.payload.take 256
  let low := bits p.aux.toNat 63 32
  let tick := s.clk.tick / 2 ^ 32 * 2 ^ 32 + low
  let tick := if tick + 2 ^ 31 < s.clk.tick then tick + 2 ^ 32 else tick
  let time := tick * 65536 + u16At p.payload 0x109
  let home : Inlet := { Inlet.reset with page0 := some (block 256 [(0x18, (p.payload.drop 0x100).take 8), (0x20, (p.payload.drop 0x108).take 1)]) }
  forL (((List.range (u8At raw 3)).zip (xcSources raw)).filter fun y => y.2.remote && decide (y.2.did = s.link.did)) (fun y s =>
    match inletOfChannel y.2.channel with
    | none => s
    | some n =>
      if s.inlets[n].state ≠ .running ∨ ¬ sameSource home s.inlets[n] ∨ ¬ channelNamed s y.2.channel ∨ taskLimit ≤ s.tasks.length then s
      else
        let r := takeTaskId s
        let t := freshTask r.1 (.source xc y.1) (xcDesc raw y.2.channel) s.inlets[n]
        let t := { t with g0 := ((t.numFrom time 1 : Int) + y.2.delay.fdiv 65536).toNat, active := true }
        let s := { r.2 with tasks := r.2.tasks ++ [t] }
        ifAdmitted (reserveStore (.task t.id) [(lcTileRead, t.readKbs)] s) (dropTask t.id s) (foreignSource t)) s

/-- A sender that was cut drops every unacknowledged record that began before t_c and goes on with the rest, numbered after the last
that the receiver accepted (R369). -/
def applyCut (n : Fin 16) (tc last : Nat) (s : State) : State :=
  let t := s.tw[n]
  let keep := t.queue.filter fun r => decide (tc ≤ u64At r.bytes 0x10) || decide (r.producer = prodEnd)
  let gone := (t.queue.map (·.bytes.length)).sum - (keep.map (·.bytes.length)).sum
  let sent := keep.filter (·.linkSeq ≠ 0)
  let renumbered := ((List.range sent.length).zip sent).map fun x => { x.2 with linkSeq := last + 1 + x.1 }
  let s := setStream n (fun t =>
    { t with queue := renumbered ++ keep.filter (·.linkSeq = 0), backlog := t.backlog - gone, linkSeq := last + sent.length, acked := last }) s
  reapAcqs (resendRecords n s)

/-- The peer has stopped residues of a placement: gap entries of cause 4 from its index on (R23, R366). -/
def peerStopped (did id epoch : Nat) (d : Data) (s : State) : State := match findTask s id with
  | none => s
  | some t =>
    let l := (List.range ((d.length - 12) / 4)).map fun i => u32At d (12 + 4 * i)
    let x : Share := { task := id, sixteenths := l.length, period := u32At d 8, residues := l, idx := u64At d 0, from_ := 0, limit := none, epoch := epoch, role := srMain, ran := 0 }
    if t.placedPeer ≠ some did ∨ epoch ≠ t.epoch then s else publishTask id (stopResidues id x l 4 (t.placementEnd x) s)

/-- The home modifies a task whose shares run here: the descriptor from a frame on (R138, R366). -/
def foreignModify (task epoch : Nat) (d : Data) (s : State) : State :=
  let next := fun (f : ForeignShare) => { f with next := some (u64At d 0, d.drop 8) }
  { s with link := { s.link with foreign := lmod s.link.foreign (fun f => decide (f.task = task ∧ f.epoch = epoch)) next } }

/-- Placement control (R345): operations 0 request, 1 accept, 2 reject, 3 start, 4 cancel, 5 sources, 6 a cut, 7 residues stopped, 8 a
modified descriptor. -/
def doPlacement (p : Packet) (s : State) : State :=
  let op := p.aux.toNat % 256
  let id := p.addr.toNat
  if ¬ isPacket p ptMsg 7 then s
  else if op = 0 then foreignAsk p s
  else if op = 1 then foreignAccepted p.srcDid id s
  else if op = 2 then (match findTask s id with
    | some t => if (match t.migration with | some m => decide (m.peer = some p.srcDid) | none => false) then abortMigration id 1 s else s
    | none => s)
  else if op = 3 then foreignStart id p.payload s
  else if op = 4 then foreignCancel id (u64At p.payload 0) (u16At p.payload 8) s
  else if op = 5 then foreignSources p s
  else if op = 8 then foreignModify id (p.aux.toNat / 2 ^ 32) p.payload s
  else if op = 7 then peerStopped p.srcDid id (p.aux.toNat / 2 ^ 32) p.payload s
  else if op = 6 then (match streamIndex id with
    | some n => if s.tw[n].dest = 2 ∧ s.tw[n].isOpen ∧ s.tw[n].peerDid = p.srcDid then applyCut n (u64At p.payload 0) (u64At p.payload 8) s else s
    | none => s)
  else s
def execPlacementControlReceive (port : Fin 4) (p : Packet) (s : State) : Host.Outcome State Fault Refusal := .next (arrives port p (doPlacement p) s)

/-! ## The loss of flows (R371, R374) -/

/-- The uptime at which the route to a peer was lost. -/
def lossTime (s : State) (did : Nat) : Nat := match s.link.flows.find? (fun f => decide (f.did = did) && f.lostSince.isSome) with
  | some f => f.lostSince.getD s.clk.up
  | none => match s.link.unreachable.find? (fun r => decide (r.lo ≤ did ∧ did ≤ r.hi)) with
    | some r => r.since
    | none => s.clk.up

/-- 1 ms after the loss, with no heal, the flows to a peer end: its shares come home, its forwarded commands complete, and the root
reports its range (R371, R372, R374). -/
def doFlowLoss (did : Nat) (s : State) : State :=
  if reachable s.link did ∨ (s.link.assigned ∧ did = s.link.did) then s
  else
    let s := waitUp (lossTime s did + msTicks) s
    let s := forL (s.link.flows.filter fun f => decide (f.did = did) && f.lostSince.isSome) endFlow s
    let s := forL (s.mbx.forwarded.filter (·.did = did)) (fun f s =>
      let s := { s with mbx := { s.mbx with forwarded := s.mbx.forwarded.filter (·.cmd ≠ f.cmd) } }
      match findCmd s f.cmd with | some c => complete c stLink 0 0 (b2n f.acknowledged) s | none => s) s
    if ¬ s.link.isRoot then s
    else
      let hit := fun (r : CutRange) => decide (r.lo ≤ did ∧ did ≤ r.hi) && !r.reported
      let s' := forL (s.link.unreachable.filter hit) (fun r s => raise 0xA44 [.h r.lo, .h r.hi] s) s
      let gone := (s.link.unreachable.filter hit).map fun r => (r.lo, r.hi)
      { s' with link := { s'.link with unreachable := lmod s'.link.unreachable hit (fun r => { r with reported := true }),
                                       known := lmod s'.link.known (fun k => inRanges gone k.did) fun k => { k with present := false } } }
def execFlowLossTimeout (did : Nat) (s : State) : Host.Outcome State Fault Refusal := .next (doFlowLoss did s)

/-! ## Time (R357, R358) -/

/-- A time of 1/65,536 tick. -/
def fineNow (s : State) (frac : Nat) : Nat := s.clk.tick * 65536 + frac

/-- The device at the upstream end sends a SYNC every 1 ms, with the tick and fraction at which it left; the fraction is free. -/
def doSyncSend (n : Fin 4) (s : State) : State :=
  let p := s.link.ports[n]
  if ¬ p.isUp ∨ s.link.upstream = some n.val ∨ ¬ s.link.assigned then s
  else
    let s := waitUp (p.syncSent + msTicks) s
    let f := takeFree s
    setPort n (fun q => { q with syncSent := f.2.clk.up })
      (sendOn n { mkPacket f.2 ptTime 1 0 0 f.2.clk.tick ((Config.freeWord f.1).toNat % 65536) with neighbour := true } f.2)
def execTimeSyncSend (port : Fin 4) (s : State) : Host.Outcome State Fault Refusal := .next (doSyncSend port s)

/-- The delay of a port's transmit direction: d + asym / 2, with asym in picoseconds (R358). -/
def transmitDelay (s : State) (n : Fin 4) : Int := (s.link.ports[n].delay : Int) + roundDiv (((s.link.cfg.asym.drop n.val).headD 0) * 3276800) 78125

/-- A SYNC arrives: its offset feeds the discipline on the upstream port (R357, R491). -/
def doSyncReceive (n : Fin 4) (p : Packet) (frac : Nat) (s : State) : State :=
  if ¬ isPacket p ptTime 1 then s
  else
    let s := setPort n (fun q => { q with peerDid := p.srcDid }) s
    if s.link.upstream ≠ some n.val then s
    else
      let off := (fineNow s frac : Int) - ((p.addr.toNat * 65536 + p.aux.toNat % 65536 : Nat) + transmitDelay s n)
      let s := setPort n (fun q => { q with offset := off }) s
      if s.clk.loop.source = 3 then loopUpdate off s else s
def execTimeSyncReceive (port : Fin 4) (p : Packet) (frac : U16) (s : State) : Host.Outcome State Fault Refusal :=
  .next (arrives port p (doSyncReceive port p frac.toNat) s)

/-- Every 1 s the link's delay is measured again (R358); the fraction at which a flit leaves is free. -/
def doDelayMeasure (n : Fin 4) (s : State) : State :=
  let p := s.link.ports[n]
  if ¬ p.isUp then s
  else
    let s := waitUp (p.delayMeasured + secTicks) s
    let f := takeFree s
    let frac := (Config.freeWord f.1).toNat % 65536
    let s := f.2
    setPort n (fun q => { q with delayReqSent := some (fineNow s frac), delayMeasured := s.clk.up })
      (sendOn n { mkPacket s ptTime 2 0 0 s.clk.tick frac with neighbour := true } s)
def execDelayMeasure (port : Fin 4) (s : State) : Host.Outcome State Fault Refusal := .next (doDelayMeasure port s)

/-- DELAY_RESP carries t1, t2 and t3 in 1/65,536 tick, 10 bytes each (R358). -/
def doDelayReq (n : Fin 4) (p : Packet) (frac : Nat) (s : State) : State :=
  if ¬ isPacket p ptTime 2 then s
  else
    let t1 := p.addr.toNat * 65536 + p.aux.toNat % 65536
    let f := takeFree s
    let t3 := fineNow s ((Config.freeWord f.1).toNat % 65536)
    let s := f.2
    sendOn n { mkPacket s ptTime 3 0 0 s.clk.tick 0 with neighbour := true, payload := le 10 t1 ++ le 10 (fineNow s frac) ++ le 10 t3 } s
def execDelayReqReceive (port : Fin 4) (p : Packet) (frac : U16) (s : State) : Host.Outcome State Fault Refusal :=
  .next (arrives port p (doDelayReq port p frac.toNat) s)

/-- The one-way delay is ((t4 - t1) - (t3 - t2)) / 2 (R358). -/
def doDelayResp (n : Fin 4) (p : Packet) (frac : Nat) (s : State) : State :=
  if ¬ isPacket p ptTime 3 then s
  else match s.link.ports[n].delayReqSent with
    | none => s
    | some t1 =>
      let at_ := fun k => unle ((p.payload.drop (10 * k)).take 10)
      let d : Int := (((fineNow s frac : Int) - t1) - ((at_ 2 : Int) - at_ 1)) / 2
      noteDelay n d.toNat (setPort n (fun q => { q with delayReqSent := none, peerDid := p.srcDid }) s)
def execDelayRespReceive (port : Fin 4) (p : Packet) (frac : U16) (s : State) : Host.Outcome State Fault Refusal :=
  .next (arrives port p (doDelayResp port p frac.toNat) s)

end Sys2Proof.Machine
end

