-- ==== Sys2Proof/Machine/Power.lean ====
section
/-! DEFINITION. What the firmware does with time: the power queue (R503, R504, R506), the thermal evaluation (R505), and the
samples, daily readings and writes of the life ledger (R568 to R571). -/

namespace Sys2Proof.Machine

/-! ## THERMAL_EVALUATION (R505) -/

/-- The effective limit is set anew; each change is an event with the limit and Tj. -/
def setEffective (s : State) : State :=
  let e := effectiveLimit s.pwr.limit s.fw.tjEval
  if e = s.pwr.effective then s
  else raise 0xB54 [.h e, .h (codeOf 16 s.fw.tjEval)] (setPower (fun p => { p with effective := e }) s)

/-- Every 10 ms the hottest sensor sets the effective limit; changes are counted. -/
def doThermalEvaluation (s : State) : State :=
  if s.boot.phase ≠ .running then s
  else
    let s := waitUp (s.fw.lastEval + 10 * msTicks) s
    let s := { s with fw := { s.fw with tjEval := tjMax s, lastEval := s.clk.up } }
    let changed := decide (effectiveLimit s.pwr.limit s.fw.tjEval ≠ s.pwr.effective)
    setEffective (setPower (fun p => { p with thermalChanges := satN 32 (p.thermalChanges + b2n changed) }) s)
def execThermalEvaluation (s : State) : Host.Outcome State Fault Refusal := .next (doThermalEvaluation s)

/-! ## POWER_REQUEST_GRANT and POWER_REQUEST_TIMEOUT (R503) -/

/-- The head leaves the queue: its wait is counted (R507). -/
def popPower (s : State) : State := match s.pwr.queue with
  | [] => s
  | r :: l => setPower (fun p => { p with queue := l, waitTicks := satN 64 (p.waitTicks + (s.clk.up - r.since)) }) s

/-- Apply a per-inlet, per-stream, per-port or per-tile step to the object that a number names; none outside its range. -/
def onIndex {n : Nat} (k : Nat) (f : Fin n → State → State) (s : State) : State := if h : k < n then f ⟨k, h⟩ s else s

/-- A command whose request is granted goes on with its operation. -/
def grantedCmd (c : Cmd) (owner : Owner) (s : State) : State := match owner with
  | .inlet i => onIndex i (beginInlet c) s
  | .task id => activateTask c id s
  | .retro id => activateRetro c id s
  | .xcorr id => activateXcorr c id s
  | .stream n => onIndex n (fun n => if c.opcode = 0x0602 then openNvme c n (c.bytes.drop 64) else openStream c n) s
  | .placement id => if c.p8 0x0C = 1 then sendAsk c id s else startMigration c id s
  | _ => s   -- a store retrain goes on at its own row

/-- Shares of a task on fenced tiles are re-placed. -/
def replaceTask (id : Nat) (s : State) : State :=
  forL (List.finRange 20) (fun n s =>
    if s.tiles[n].state ≠ .fenced then s
    else forL (s.tiles[n].shares.filter fun x => decide (x.task = id)) (fun x s => replaceOne n x s) s) s

/-- An engine-internal request is granted: backfill starts, shares are placed, a port trains. -/
def grantedInternal (owner : Owner) (s : State) : State := match owner with
  | .backfill id => startBackfill id s
  | .placement id => match s.link.foreign.find? (fun f => decide (f.task = id) && !f.active) with
    | some f => foreignGranted f s
    | none => replaceTask id (rehome id s)
  | .port n => onIndex n portBegin s
  | _ => s

/-- The request at the head fits: it is granted after its wait and its operation goes on. -/
def doPowerRequestGrant (s : State) : State := match s.pwr.queue with
  | [] => s
  | r :: _ =>
    if ¬ powerFits s.pwr (cost r.items) ∨ s.boot.phase ≠ .running then s
    else
      let s := grantItems r.owner r.items (popPower s)
      let s := raise 0xB52 [.w r.tag.toNat, .w (cost r.items)] s
      match r.cmd with
      | none => grantedInternal r.owner s
      | some id => match findCmd s id with
        | some c => grantedCmd { c with waiting := false } r.owner (setCmd id (fun c => { c with waiting := false }) s)
        | none => s
def execPowerRequestGrant (s : State) : Host.Outcome State Fault Refusal := .next (doPowerRequestGrant s)

/-- A command whose request is denied releases what it reserved. -/
def deniedCmd (c : Cmd) (owner : Owner) (s : State) : State := match owner with
  | .inlet i => onIndex i dropStart s
  | .task id => dropTask id s
  | .retro id => dropTask id s
  | .xcorr id => dropXcorr id s
  | .stream _ => releaseFlow owner (releaseAll owner s)
  | .placement id => dropPlacement id (if c.p8 0x0C = 1 then releasePlacement id false s else s)
  | .retrain ch => denyRetrain ch s
  | _ => s

/-- Shares of a task on fenced tiles lose what a powered tile cannot take over (R506). -/
def replaceDenied (id : Nat) (s : State) : State :=
  forL (List.finRange 20) (fun n s =>
    if s.tiles[n].state ≠ .fenced then s
    else forL (s.tiles[n].shares.filter fun x => decide (x.task = id)) (fun x s =>
      replaceShare x (chooseWhat s x.sixteenths (shareFoot s x) true) 7 7 (takeOff n x s)) s) s

/-- A peer placement comes home to powered tiles only (R506). -/
def rehomeDenied (id : Nat) (s : State) : State := match findTask s id with
  | none => s
  | some t =>
    if t.placedPeer.isNone then s
    else rehomeOn id (chooseWhat s (t.desc.demandMain t.fsNum t.fsDen) t.footprint true)
      (if t.desc.twoStage then chooseWhat s (t.desc.demandFine t.fsNum t.fsDen) t.desc.footFine true else []) 7 s

/-- An engine-internal request is denied: data is lost, a placement is turned away, a retrain or a training does not happen. -/
def deniedInternal (owner : Owner) (s : State) : State := match owner with
  | .backfill id => match (findTask s id).bind (·.backfill) with
    | some b => loseFine id 7 b.fine (loseIndices id 7 b.indices (setTask id (fun t => { t with backfill := none }) s))
    | none => s
  | .placement id => match s.link.foreign.find? (fun f => decide (f.task = id) && !f.active) with
    | some f => foreignRefuse f stPowerDenied s
    | none => replaceDenied id (rehomeDenied id s)
  | .retrain ch => endRetrainCmds ch stPowerDenied (cost retrainItems) (denyRetrain ch s)
  | .port n => onIndex n trainFailed s
  | _ => s

/-- The request at the head has waited 10 s: it is denied and leaves the queue. -/
def doPowerRequestTimeout (s : State) : State := match s.pwr.queue with
  | [] => s
  | r :: _ =>
    if s.boot.phase ≠ .running then s
    else
      let s := popPower (waitUp (r.since + 10 * secTicks) s)
      let s := denyPower r.tag (cost r.items) s
      match r.cmd with
      | none => deniedInternal r.owner s
      | some id => match findCmd s id with
        | some c => complete c stPowerDenied 0 0 (cost r.items) (deniedCmd c r.owner s)
        | none => s
def execPowerRequestTimeout (s : State) : Host.Outcome State Fault Refusal := .next (doPowerRequestTimeout s)

/-! ## The life ledger (R568, R571) -/

/-- The rating and nine tenths of it, in equivalent milliseconds. -/
def lifeEndMs : Nat := 1262304000000
def lifeWarnMs : Nat := 1136073600000

/-- LIFE_WARN and LIFE_END are set when first met. -/
def settleLife (s : State) : State :=
  let worn := s.life.wearWorst.toList.any fun w => decide (w ≤ -15000)
  let aged := decide (lifeWarnMs ≤ s.life.equivMs)
  let s := if (aged || worn) && !bit s.life.flags 0 then
      raise 0x038 [.h (if aged then 1 else 2)] (setLife (fun l => { l with flags := l.flags ||| 1 }) s)
    else s
  if lifeEndMs ≤ s.life.equivMs ∧ ¬ bit s.life.flags 1 then raise 0x039 [] (setLife (fun l => { l with flags := l.flags ||| 2 }) s) else s

/-- Credit a number of seconds at a junction temperature. -/
def creditSeconds (n : Nat) (tj : Int) (l : Life) : Life :=
  { l with poweredS := l.poweredS + n, equivMs := l.equivMs + n * afTimes 1000 tj, bandS := vmodN l.bandS (lifeBand tj) (· + n) }

/-- A second outside the ratings is counted and flagged, and reported with Tj or the lowest rail that is out. -/
def outSecond (tj : Int) (s : State) : State :=
  let rails := railsOut s
  let hot := !tjInRange s.boot.fuses.gradeE tj
  if ¬ hot ∧ rails.isEmpty then s
  else
    let s := setLife (fun l => { l with outS := satN 32 (l.outS + 1), flags := l.flags ||| 4 }) s
    raise 0x03B [.h (if hot then codeOf 16 tj else rails.headD 0)] s

/-- Once a second: whole seconds since the last sample but the newest are credited at the last Tj read. -/
def doLifeSample (s : State) : State :=
  if s.boot.phase ≠ .running then s
  else
    let s := waitUp (s.life.lastSample + secTicks) s
    let n := (s.clk.up - s.life.lastSample) / secTicks
    let tj := tjMax s
    let first := decide (s.life.poweredS = 0)
    let s := setLife (fun l =>
      let l := creditSeconds 1 tj (creditSeconds (n - 1) l.tjLast l)
      { l with tjLast := tj, tjPeak := if first then tj else max l.tjPeak tj, lastSample := l.lastSample + n * secTicks }) s
    settleLife (outSecond tj s)
def execLifeLedgerSample (s : State) : Host.Outcome State Fault Refusal := .next (doLifeSample s)

/-- Once a day the shifts of the wear monitors are kept, and the worst since the ledger began (R568, R569). -/
def doWearDaily (s : State) : State :=
  if s.boot.phase ≠ .running then s
  else
    let s := waitUp (s.life.lastDaily + 86400 * secTicks) s
    settleLife (setLife (fun l => { l with wearPpm := s.brz.wear, wearWorst := Vector.zipWith min l.wearWorst s.brz.wear, lastDaily := s.clk.up }) s)
def execWearMonitorDaily (s : State) : Host.Outcome State Fault Refusal := .next (doWearDaily s)

/-- The next erased slot from one on; the first slot of a block is always free, since its block is erased on entering it. -/
def nextErased (s : State) : Nat → Nat → Nat
  | 0, k => k
  | n + 1, k => if k % 256 = 0 ∨ (flashAt s (ledgerAt k) 256).all (· = 0xFF) then k else nextErased s n ((k + 1) % ledgerSlots)

/-- A new entry is programmed into the next erased slot: every 600 s, or at once where a count of starts, fences or slot
switches changed (R570). -/
def doLifeWrite (s : State) : State :=
  if s.boot.phase ≠ .running then s
  else
    let s := if s.life.countsChanged then s else waitUp (s.life.lastWrite + 600 * secTicks) s
    let k := nextErased s 256 s.life.slot
    let s := if k % 256 = 0 then erase (ledgerAt k) 65536 s else s
    let s := setLife (fun l => { l with seq := l.seq + 1 }) s
    let s := program (ledgerAt k) (lifeEntry s) s
    setLife (fun l => { l with slot := (k + 1) % ledgerSlots, lastWrite := s.clk.up, countsChanged := false }) s
def execLifeLedgerWrite (s : State) : Host.Outcome State Fault Refusal := .next (doLifeWrite s)

end Sys2Proof.Machine
end

