-- ==== Sys2Proof/Machine/Device.lean ====
section
/-! DEFINITION. The device, power and time commands of the mailbox (R439 to R446, R564). -/

namespace Sys2Proof.Machine

/-- A command that writes one block to the buffer at 0x10. -/
def bufCheck (c : Cmd) : Check := params [(0x10, aligned64 (c.p64 0x10))]

/-! ## DEV_IDENTIFY (R439) -/

/-- Tiles that are not fenced. -/
def tilesOk (s : State) : Nat := ofBits ((List.range 20).filter fun k => match tileIndex k with | some n => s.tiles[n].state ≠ .fenced | none => false)
/-- The 256-byte identity block. -/
def identityBlock (s : State) : Data :=
  let b := s.boot
  block 256
    [(0x00, le 2 0x1D7A ++ le 2 0x6540), (0x04, le 1 b.fuses.stepping ++ le 1 (gradeCode b.fuses) ++ le 1 (lifecycleCode b.lifecycle) ++ le 1 (b2n b.slotB)),
     (0x08, le 8 b.fuses.serial.toNat), (0x10, le 4 b.fwVersion ++ le 4 b.fwRollback),
     (0x18, le 1 b.ifMajor ++ le 1 b.ifMinor ++ le 2 s.link.did ++ le 1 (b2n s.link.assigned) ++ le 1 (b2n s.link.isRoot)),
     (0x20, le 4 s.cs.romId ++ le 4 s.cs.patchRev), (0x28, le 4 b.fuses.rollback ++ le 4 s.cal.word),
     (0x30, (storeMap s).take 4), (0x34, le 4 (tilesOk s)), (0x38, le 8 (usable s.store)), (0x40, le 4 (strapsCode b.straps)),
     (0x44, le 2 64 ++ le 2 16)]
def doDevIdentify (c : Cmd) (s : State) : State :=
  checked c [entryCheck c [(0x10, 8)] [], deviceCheck s c, bufCheck c]
    (fun s => done c s.boot.fuses.serial.toNat (s.boot.ifMinor + 2 ^ 8 * s.boot.ifMajor + 2 ^ 16 * s.link.did) (writeBlock c (c.p64 0x10) (identityBlock s) s)) s
def execDevIdentify (id : Nat) (s : State) : Host.Outcome State Fault Refusal := .next (runCmd id 0x0001 anyCmd doDevIdentify s)

/-! ## DEV_STATUS (R440) -/

/-- The live tasks. -/
def liveCount (s : State) : Nat := (s.tasks.filter (·.kind = .live)).length
/-- The ATs that are armed, as a bitmap. -/
def armedAts (s : State) : Nat := ofBits ((List.range 16).filter fun k => (s.squall.ats.toList.map (·.armed)).getD k false)
/-- The 256-byte status block. -/
def statusBlock (s : State) : Data :=
  block 256
    [(0x00, le 1 s.clk.lull ++ le 1 s.pcie.lastReset), (0x04, le 2 (codeOf 16 (tjMax s)) ++ le 2 (codeOf 16 (tjMin s))),
     (0x08, le 2 s.pwr.granted_ ++ le 2 s.pwr.limit),
     (0x0C, le 1 (s.inlets.toList.filter (·.state = .running)).length ++ le 1 (liveCount s) ++ le 1 (retroCount s) ++
            le 1 (s.tw.toList.filter (·.isOpen)).length),
     (0x10, le 4 (2 ^ 20 - 1 - tilesOk s)),
     (0x14, le 2 (armedAts s) ++ le 1 (s.eddy.maps.toList.filter (·.cfg.isSome)).length ++ le 1 (b2n (s.drt.chans.toList.any (·.state = .running)))),
     (0x18, le 8 s.clk.up), (0x20, le 4 s.cal.word ++ le 4 s.fw.cfgMismatches)]
def doDevStatus (c : Cmd) (s : State) : State :=
  checked c [entryCheck c [(0x10, 8)] [], deviceCheck s c, bufCheck c]
    (fun s => done c s.clk.tick s.clk.lull (writeBlock c (c.p64 0x10) (statusBlock s) s)) s
def execDevStatus (id : Nat) (s : State) : Host.Outcome State Fault Refusal := .next (runCmd id 0x0002 anyCmd doDevStatus s)

/-! ## DEV_RESET (R441, R564) -/

/-- The entry of a DEV_RESET: its index lies below a bound. -/
def resetEntry (c : Cmd) (bound : Nat) : Check := entryCheck c [(0x08, 2)] [(0x09, decide (c.p8 0x09 < bound))]

/-- Scopes 0 and 5 complete first and act 1 ms later. -/
def resetLater (scope : Nat) (c : Cmd) (s : State) : State :=
  checked c [resetEntry c 1, deviceCheck s c]
    (fun s => done c 0 0 { s with mbx := { s.mbx with delayed := s.mbx.delayed ++ [⟨scope, s.clk.up + msTicks⟩] } }) s
def execDevResetDevice (id : Nat) (s : State) : Host.Outcome State Fault Refusal := .next (runCmd id 0x0003 (selByte 0x08 0) (resetLater 0) s)
def execDevResetMailbox (id : Nat) (s : State) : Host.Outcome State Fault Refusal := .next (runCmd id 0x0003 (selByte 0x08 5) (resetLater 5) s)

/-- Shares that a fenced tile still holds find their places now; what waits for power loses it (R506). -/
def clearFenced (n : Fin 20) (s : State) : State :=
  let s := replaceTile n s
  forL s.tiles[n].shares (fun x s =>
    replaceShare x (chooseWhat s x.sixteenths (shareFoot s x) true) 7 7 (takeOff n x (releasePower (.placement x.task) s))) s

/-- A tile in service again: no shares, its patch RAM rewritten from the verified copy, nothing remembered of its faults (R158, R192). -/
def Tile.returned (t : Tile) : Tile :=
  { t.stopRun with state := .idle, fenceCause := 0, shares := [], staged := none, powered := false, faultTimes := [], lastFailIndex := none,
                   pendingCauses := [], scrubFails := [], csErrors := [], reread := [] }
/-- A fenced tile's self-test: back to service without shares, or fenced with cause 5 (R158, R192). -/
def tileSelfTest (n : Fin 20) (passes : Bool) (s : State) : State :=
  if passes then raise (0x402 + n.val * 0x10) [.h n.val] (setTile n Tile.returned s)
  else raise (0x400 + n.val * 0x10) [.h n.val, .h 5] (setTile n (fun t => { t with fenceCause := 5 }) s)

def doResetTile (passes : Bool) (c : Cmd) (s : State) : State :=
  let n : Fin 20 := Fin.ofNat 20 (c.p8 0x09)
  checked c [resetEntry c 20, deviceCheck s c, needState (s.tiles[n].state = .fenced)]
    (fun s => done c 0 0 (tileSelfTest n passes (clearFenced n s))) s
def execDevResetTile (id : Nat) (selfTestPasses : Bool) (s : State) : Host.Outcome State Fault Refusal :=
  .next (runCmd id 0x0003 (selByte 0x08 1) (doResetTile selfTestPasses) s)

/-- A retrain of one channel, after power admission; the command completes when it ends (R103). -/
def doResetChannel (c : Cmd) (s : State) : State :=
  let ch := c.p8 0x09
  checked c [resetEntry c 16, deviceCheck s c, needState (s.store.state = .ready || s.store.state = .selfRefresh || s.store.state = .halted)]
    (fun s =>
      if holdsPower s (.retrain ch) ∨ waitsPower s (.retrain ch) then wait c s
      else
        let r := requestPower c (.retrain ch) retrainItems s
        afterPower c (cost retrainItems) (r.1, if r.1 = .denied then denyRetrain ch r.2 else r.2) (wait c) id id) s
def execDevResetStoreChannel (id : Nat) (s : State) : Host.Outcome State Fault Refusal := .next (runCmd id 0x0003 (selByte 0x08 2) doResetChannel s)

/-- A port goes down and trains again; the command completes when the training ends (R441). -/
def doResetPort (c : Cmd) (s : State) : State :=
  let n : Fin 4 := Fin.ofNat 4 (c.p8 0x09)
  checked c [resetEntry c 4, deviceCheck s c, needState (s.link.ports[n].state ≠ .disabled && !(s.link.flows.any (·.port = n.val)))]
    (fun s =>
      let s := wait c (portDown n 5 s)
      trainStart n (setPort n (fun p => { p with hostDown := false, retryAt := s.clk.up }) s)) s
def execDevResetLinkPort (id : Nat) (s : State) : Host.Outcome State Fault Refusal := .next (runCmd id 0x0003 (selByte 0x08 3) doResetPort s)

def doResetScan (c : Cmd) (s : State) : State :=
  checked c [resetEntry c 1, deviceCheck s c] (fun s => done c 0 0 (scanReset s)) s
def execDevResetScanout (id : Nat) (s : State) : Host.Outcome State Fault Refusal := .next (runCmd id 0x0003 (selByte 0x08 4) doResetScan s)

/-! ## Power commands (R442 to R444, R507) -/

/-- The host figure is replaced: the Lull state follows, and the store wakes where it is not tolerated any more (R106, R442). -/
def doSetTolerance (c : Cmd) (s : State) : State :=
  let t := c.p32 0x08
  checked c [entryCheck c [(0x08, 4)] [], deviceCheck s c] (fun s =>
    let s := setPower (fun p => { p with tolHost := t }) s
    let s := if s.store.state = .selfRefresh ∧ ¬ storeTolerated s then doSelfRefreshWake s else s
    done c (lullAllowed t) 0 (settleLull s)) s
def execSetLatencyTolerance (id : Nat) (s : State) : Host.Outcome State Fault Refusal := .next (runCmd id 0x0010 anyCmd doSetTolerance s)

def doSetLimit (c : Cmd) (s : State) : State :=
  let l := c.p16 0x08
  checked c [entryCheck c [(0x08, 2)] [], deviceCheck s c, params [(0x08, decide (300 ≤ l ∧ l ≤ 1850))]] (fun s =>
    let old := s.pwr.limit
    let s := setEffective (setPower (fun p => { p with limit := l }) s)
    done c old s.pwr.granted_ s) s
def execSetPowerLimit (id : Nat) (s : State) : Host.Outcome State Fault Refusal := .next (runCmd id 0x0011 anyCmd doSetLimit s)

def synthCode : SynthState → Nat
  | .off => 0 | .acquiring => 1 | .locked => 2 | .holdover => 3 | .bypass => 4
/-- A tolerance as the block shows it. -/
def displayTol (s : State) : Nat := if displayTolerance s = 0xFFFF then 0xFFFFFFFF else displayTolerance s
/-- The reference in use: the internal oscillator in limp mode. -/
def refCode (s : State) : Nat := if s.clk.limp then 5 else s.clk.refInUse
/-- Residence in the Lull states, the present one included. -/
def lullResidence (s : State) : List Nat :=
  (List.range 4).map fun k => (s.clk.lullTicks.toList.getD k 0) + if k = s.clk.lull then s.clk.up - s.clk.lullSince else 0
/-- One entry of the queue. -/
def queueEntry (r : PowerReq) : Data := le 4 r.tag.toNat ++ le 2 r.opcode ++ le 2 (satN 16 (cost r.items))

/-- The 768-byte power block. -/
def powerBlock (s : State) : Data :=
  let p := s.pwr
  block 768
    [(0x000, le 2 p.granted_ ++ le 2 p.limit ++ le 2 p.effective ++ le 2 powerBase),
     (0x008, le 1 s.clk.lull ++ le 1 p.queue.length ++ le 2 (codeOf 16 (tjMax s))), (0x00C, le 4 p.denied),
     (0x010, (List.range 7).flatMap fun k => le 2 (p.classTotal k)), (0x020, le 4 p.tolHost ++ le 4 (displayTol s)),
     (0x028, le 4 p.granted ++ le 4 p.deferrals), (0x030, le 8 p.waitTicks), (0x038, le 4 p.thermalChanges ++ le 4 p.cause7Spans),
     (0x040, (lullResidence s).flatMap (le 8 ·)), (0x060, s.clk.synths.toList.flatMap fun y => le 1 (synthCode y.state)),
     (0x06C, le 1 (refCode s) ++ le 1 s.clk.loop.state), (0x070, s.clk.synths.toList.flatMap fun y => le 2 y.unlocks),
     (0x088, le 4 p.nowait), (0x100, (p.queue.take 64).flatMap queueEntry)]
def doPowerQuery (c : Cmd) (s : State) : State :=
  checked c [entryCheck c [(0x10, 8)] [], deviceCheck s c, bufCheck c] (fun s =>
    let p := s.pwr
    let s' := if c.p64 0x10 = 0 then s else writeBlock c (c.p64 0x10) (powerBlock s) s
    done c (p.granted_ + 2 ^ 16 * p.limit + 2 ^ 32 * p.effective) (s.clk.lull + 2 ^ 8 * p.queue.length) s') s
def execPowerQuery (id : Nat) (s : State) : Host.Outcome State Fault Refusal := .next (runCmd id 0x0012 anyCmd doPowerQuery s)

/-! ## TIMEBASE_SET and TIMEBASE_DISCIPLINE (R445, R446) -/

def doTimebaseSet (c : Cmd) (s : State) : State :=
  checked c [entryCheck c [(0x08, 1), (0x10, 8)] [], deviceCheck s c, needState (stepAllowed s) 1, needState s.link.upstream.isNone 2,
      params [(0x08, decide (c.p8 0x08 ≤ 1))]]
    (fun s => if c.p8 0x08 = 1 then wait c s else takeTimeSet c s) s
def execTimebaseSet (id : Nat) (s : State) : Host.Outcome State Fault Refusal := .next (runCmd id 0x0020 anyCmd doTimebaseSet s)

/-- The source is selected: the loop acquires, or runs free (R492); PTM's first pair is taken anew (R491). -/
def selectSource (source ptmMs : Nat) (s : State) : State :=
  let s := setLoop (fun l => { l with source := source, ptmMs := ptmMs, ptmOrigin := none, stepped := false, within := 0, beyond := 0 }) s
  if s.clk.loop.state = 4 then s else loopRestart s
def doDiscipline (c : Cmd) (s : State) : State :=
  let src := c.p8 0x08
  let ms := c.p16 0x0C
  checked c [entryCheck c [(0x08, 1), (0x0C, 2)] [], deviceCheck s c,
      needState (src > 3 || (decide (src = 3) == s.link.upstream.isSome)), params [(0x08, decide (src ≤ 3)), (0x0C, decide (ms ≤ 1000))]]
    (fun s =>
      let s := selectSource src (if ms = 0 then 10 else ms) s
      done c s.clk.loop.state 0 s) s
def execTimebaseDiscipline (id : Nat) (s : State) : Host.Outcome State Fault Refusal := .next (runCmd id 0x0021 anyCmd doDiscipline s)

end Sys2Proof.Machine
end

