-- ==== Sys2Proof/Machine/Eddy.lean ====
section
/-! DEFINITION. Density commands (R262, R263, R265) and the events of the maps (R253 to R255, R259). -/

namespace Sys2Proof.Machine

/-- The configuration of a DENSITY_CONFIG entry; the colour map is read apart. -/
def mapCfgOf (c : Cmd) : MapCfg :=
  { flags := c.p8 0x0A, decayK := c.p8 0x0B, task := c.p32 0x0C, binFirst := c.p32 0x10, columns := c.p16 0x14, rows := c.p16 0x16,
    colLog2 := c.p8 0x18, stream := c.p8 0x19, top := i16At c.bytes 0x1A, rowStep := c.p16 0x1C,
    lumGain := if c.p16 0x1E = 0 then 16368 else c.p16 0x1E, exportTicks := c.p32 0x20,
    minCount := if c.p16 0x24 = 0 then 1 else c.p16 0x24, ageMul := if c.p8 0x26 = 0 then 1 else c.p8 0x26,
    cmap := defaultCmap, crc := crc32c ((c.bytes.drop 0x08).take 0x28) }

/-- Fields of DENSITY_CONFIG; 0x27 and 0x38 to 0x3F are reserved. -/
def densityFields : List (Nat × Nat) := [(0x08, 0x1F), (0x28, 0x10)]
/-- Step 2 of the checks for every op. -/
def densityEntry (c : Cmd) : Check := entryCheck c densityFields [(0x08, decide (c.p8 0x08 < 8))]

/-- Whether a stream is open. -/
def streamOpenAt (s : State) (n : Nat) : Bool := match streamIndex n with | some i => s.tw[i].isOpen | none => false

/-- The checks of op 0 in order: the map's state, then each parameter with the state it leads to (R248, R250, R262, R428). -/
def densityChecks (s : State) (m : Fin 8) (c : Cmd) : List Check :=
  let g := mapCfgOf c
  let bins := match liveTask s g.task with | some t => t.coarseBins | none => 0
  [needState s.eddy.maps[m].cfg.isNone,
   params [(0x0A, decide (g.flags < 64) && (!g.byAge || g.age)), (0x0B, decide (g.decayK ≤ 15 ∨ g.decayK = 255))],
   needState (liveTask s g.task).isSome,
   params
    [(0x10, decide (g.binFirst + g.binSpan ≤ bins)), (0x14, decide (2 ≤ g.columns ∧ g.columns ≤ 2048 ∧ g.columns % 2 = 0)),
     (0x16, decide (2 ≤ g.rows ∧ g.rows ≤ 1024 ∧ g.rows % 2 = 0)), (0x18, decide (g.colLog2 ≤ 12)),
     (0x19, if g.raw then decide (g.stream < 16) else decide (g.stream = 0xFF))],
   needState (!g.raw || streamOpenAt s g.stream),
   params
    [(0x1C, decide (1 ≤ g.rowStep ∧ g.rowStep ≤ 2560)), (0x20, decide (1280000 ≤ g.exportTicks)), (0x28, aligned64 (c.p64 0x28))]]

/-- Admit and configure a map: SRAM, update rate, export cost and buffers (R248, R251, R261). -/
def densityAdmit (m : Fin 8) (g : MapCfg) (c : Cmd) (s : State) : State :=
  let fits := decide (mapsSram s + g.sram ≤ 33554432) && costsFit (g.exportCost :: mapCosts s) &&
    (match liveTask s g.task with | some t => updatesFit t g.columns | none => false)
  match placeBuffers s g, fits with
  | some p, true => ifAdmitted (reserveStore (.density m) [(lcDensity, ceilDiv g.exportCost.1 (g.exportCost.2 * 1000))] s) (complete c stNoResource 0 0 0 s) fun s =>
      done c (if g.planes then p.1 else 0) (if g.raw then p.2 else 0)
        (setMap m (fun _ => { DensityMap.reset with cfg := some g, planeBase := p.1, rawBase := p.2, lastBoundary := s.clk.tick }) s)
  | _, _ => complete c stNoResource 0 0 0 s

/-- The entries of a colour map have no bit outside Cb and Cr (R257). -/
def cmapCheck (d : Data) : Check := descParams ((List.range 256).map fun i =>
  (i * 4, decide (u32At d (i * 4) = bits (u32At d (i * 4)) 9 0 + bits (u32At d (i * 4)) 25 16 * 2 ^ 16)))

def doDensityConfigure (cmap : HostRead) (c : Cmd) (s : State) : State := match mapIndex (c.p8 0x08) with
  | none => checked c [densityEntry c] id s
  | some m => checked c (densityEntry c :: deviceCheck s c :: densityChecks s m c) (fun s =>
      if c.p64 0x28 = 0 then densityAdmit m (mapCfgOf c) c s
      else withBuffer c cmap (fun d s => checked c [cmapCheck d] (densityAdmit m { mapCfgOf c with cmap := readCmap d } c) s) s) s

def execDensityConfigure (id : Nat) (cmap : HostRead) (s : State) : Host.Outcome State Fault Refusal :=
  .next (runCmd id 0x0500 (selByte 0x09 0) (doDensityConfigure cmap) s)

/-- Remove a map at once; its SRAM, buffers and reservation are free (R262). -/
def removeMap (m : Fin 8) (s : State) : State := releaseStore (.density m) (setMap m (fun _ => DensityMap.reset) s)

def doDensityRemove (c : Cmd) (s : State) : State := match mapIndex (c.p8 0x08) with
  | none => checked c [densityEntry c] id s
  | some m => checked c [densityEntry c, deviceCheck s c, needState s.eddy.maps[m].cfg.isSome]
      (fun s => done c 0 0 (removeMap m s)) s

def execDensityRemove (id : Nat) (s : State) : Host.Outcome State Fault Refusal :=
  .next (runCmd id 0x0500 (selByte 0x09 1) doDensityRemove s)

/-- The status block of a map (R263). -/
def mapStatus (m : Fin 8) (d : DensityMap) : Data :=
  let c := d.cfg
  le 1 m.val ++ le 1 (if c.isNone then 0 else if d.detached then 2 else 1) ++ le 2 ((c.map (·.flags)).getD 0) ++
  le 4 ((c.map (·.task)).getD 0) ++ le 8 d.interval ++ le 8 d.planeBase ++
  le 4 ((c.map fun c => if c.planes then c.planeSize else 0).getD 0) ++ le 1 (d.newest.getD 0xFF) ++ le 1 0 ++
  le 2 ((c.map (·.pitch)).getD 0) ++ le 8 d.spectra ++ le 4 d.dropped ++ le 4 d.skipped ++ le 4 d.saturated ++
  le 4 ((c.map (·.sram)).getD 0) ++ le 8 d.rawBase

def doDensityQuery (c : Cmd) (s : State) : State := match mapIndex (c.p8 0x08) with
  | none => checked c [densityEntry c] id s
  | some m =>
    let s := advanceSweep m s
    checked c [densityEntry c, deviceCheck s c, needState s.eddy.maps[m].cfg.isSome, params [(0x30, aligned64 (c.p64 0x30))]]
      (fun s => done c 0 0 (writeBlock c (c.p64 0x30) (mapStatus m s.eddy.maps[m]) s)) s

def execDensityQuery (id : Nat) (s : State) : Host.Outcome State Fault Refusal :=
  .next (runCmd id 0x0500 (selByte 0x09 2) doDensityQuery s)

/-! ## DENSITY_CLEAR (R265) -/

/-- The maps of a mask. -/
def mapsOf (mask : Nat) : List (Fin 8) := (List.finRange 8).filter fun m => bit mask m.val

def doDensityClear (c : Cmd) (s : State) : State :=
  let mask := c.p8 0x08
  let at_ := c.p64 0x10
  checked c [entryCheck c [(0x08, 1), (0x10, 8)] [], deviceCheck s c,
      needState ((mapsOf mask).all fun m => s.eddy.maps[m].cfg.isSome), params [(0x10, decide (at_ ≤ s.clk.tick + 2 ^ 30))]] (fun s =>
    let s := wait c s
    { s with eddy := { s.eddy with clears := s.eddy.clears ++ [⟨c.id, mask, max at_ s.clk.tick⟩] } }) s

def execDensityClear (id : Nat) (s : State) : Host.Outcome State Fault Refusal :=
  .next (runCmd id 0x0501 anyCmd doDensityClear s)

/-- The clear that is due first. -/
def firstClear (l : List PendingClear) : Option PendingClear := (sortBy (·.tick) l).head?

/-- At at_tick each named map clears; a boundary in the same clock exports first (R265). -/
def doDensityClearSweep (s : State) : State := match firstClear s.eddy.clears with
  | none => s
  | some p =>
    let s := waitTick p.tick s
    let s := { s with eddy := { s.eddy with clears := s.eddy.clears.erase p } }
    let s := forL (mapsOf p.mask) (fun m s => match s.eddy.maps[m].cfg with
      | none => s
      | some c => clearMap m (finishSweep m (if c.nextBoundary s.eddy.maps[m] = p.tick then mapBoundary m p.tick s else advanceSweep m s))) s
    match findCmd s p.cmd with
    | some c => done c p.tick 0 s
    | none => s

def execDensityClearSweep (s : State) : Host.Outcome State Fault Refusal := .next (doDensityClearSweep s)

/-! ## Boundaries and exports -/

/-- The next boundary of a map falls (R253). -/
def doDensityExportBoundary (m : Fin 8) (s : State) : State := match s.eddy.maps[m].cfg with
  | none => s
  | some c =>
    let tick := c.nextBoundary s.eddy.maps[m]
    mapBoundary m tick (waitTick tick s)

def execDensityExportBoundary (m : Fin 8) (s : State) : Host.Outcome State Fault Refusal := .next (doDensityExportBoundary m s)

/-- The clock passes until the sweep of a map has met its last cell, 64 cells a clock. -/
def sweepOut (m : Fin 8) (s : State) : State := match s.eddy.maps[m].cfg, s.eddy.maps[m].sweep with
  | some c, some w => finishSweep m (waitUp (w.since + ceilDiv (c.columns * c.rows - w.cells) 64) s)
  | _, _ => s

/-- All writes of a map's export are accepted (R259). -/
def doExportWritesAccepted (m : Fin 8) (s : State) : State :=
  if ¬ s.eddy.maps[m].exporting then s
  else
    let s := storeAsk (sweepOut m s)
    if storeServes s ∧ s.eddy.maps[m].exporting then exportAccepted m s else s

def execExportWritesAccepted (m : Fin 8) (s : State) : Host.Outcome State Fault Refusal := .next (doExportWritesAccepted m s)

end Sys2Proof.Machine
end

