-- ==== Sys2Proof/Machine/Service.lean ====
section
/-! DEFINITION. The event, calibration, monitor, image and security commands of the mailbox (R434, R435, R447, R448, R450 to R452,
R528, R529, R541 to R548). -/

namespace Sys2Proof.Machine

/-! ## EVENT_ROUTE and EVENT_MASK (R434, R435) -/

/-- The range of identifiers of an entry. -/
def evRange (c : Cmd) : List (Nat × Bool) :=
  [(0x08, decide (c.p16 0x08 ≤ 0xFFF)), (0x0A, decide (c.p16 0x08 ≤ c.p16 0x0A ∧ c.p16 0x0A ≤ 0xFFF))]

/-- A new rule stands before the older ones; those it covers whole are dropped. -/
def addRoute (r : EventRoute) (s : State) : State :=
  { s with evt := { s.evt with routes := r :: s.evt.routes.filter fun x => !decide (r.first ≤ x.first ∧ x.last ≤ r.last) } }

/-- A forwarded EVENT_ROUTE routes this device's events to the proxy that sent it (R375). -/
def routeProxy (c : Cmd) : Option Nat := match c.origin with | .peer did _ => some did | .queue _ => none
def doEventRoute (c : Cmd) (s : State) : State :=
  let q := c.p8 0x0C
  let v := c.p16 0x0E
  checked c [entryCheck c [(0x08, 5), (0x0E, 2)] [], deviceCheck s c,
      params (evRange c ++ [(0x0C, decide (q ≤ 3 ∨ q = 0xFF)), (0x0E, decide (v < 2048 ∨ v = 0xFFFF))])]
    (fun s => done c (c.p16 0x0A - c.p16 0x08 + 1) 0 (addRoute ⟨c.p16 0x08, c.p16 0x0A, q, v, routeProxy c⟩ s)) s
def execEventRoute (id : Nat) (s : State) : Host.Outcome State Fault Refusal := .next (runCmd id 0x0800 anyCmd doEventRoute s)

/-- The bits of mask register k that a range of identifiers covers. -/
def rangeBits (k lo hi : Nat) : Nat := ofBits ((List.range 32).filter fun b => decide (lo ≤ 32 * k + b ∧ 32 * k + b ≤ hi))
/-- Mask or unmask a range. -/
def maskRange (on : Bool) (lo hi : Nat) (s : State) : State :=
  forN 128 (fun k s =>
    let m := BitVec.ofNat 32 (rangeBits k lo hi)
    if m = 0 then s else s.setMask (kEvtMask k) m (if on then m else 0)) s
def doEventMask (on : Bool) (c : Cmd) (s : State) : State :=
  checked c [entryCheck c [(0x08, 5)] [], deviceCheck s c, params (evRange c)]
    (fun s => done c 0 0 (maskRange on (c.p16 0x08) (c.p16 0x0A) s)) s
def execEventUnmask (id : Nat) (s : State) : Host.Outcome State Fault Refusal := .next (runCmd id 0x0801 (selByte 0x0C 0) (doEventMask false) s)
def execEventMask (id : Nat) (s : State) : Host.Outcome State Fault Refusal := .next (runCmd id 0x0801 (selByte 0x0C 1) (doEventMask true) s)
/-- The mask bitmap. -/
def maskBitmap (s : State) : Data := (List.range 128).flatMap fun k => le 4 (s.reg (kEvtMask k)).toNat
def doEventMaskQuery (c : Cmd) (s : State) : State :=
  checked c [params [(0x02, decide (c.flags < 8))], deviceCheck s c, bufCheck c] (fun s => done c 0 0 (writeBlock c (c.p64 0x10) (maskBitmap s) s)) s
def execEventMaskQuery (id : Nat) (s : State) : Host.Outcome State Fault Refusal := .next (runCmd id 0x0801 (selByte 0x0C 2) doEventMaskQuery s)

/-! ## CAL_STATUS (R447) -/

def doCalStatus (c : Cmd) (s : State) : State :=
  checked c [entryCheck c [] [], deviceCheck s c] (fun s => done c s.cal.word s.cal.endTick s) s
def execCalStatus (id : Nat) (s : State) : Host.Outcome State Fault Refusal := .next (runCmd id 0x0900 anyCmd doCalStatus s)

/-! ## MONITOR_CONFIG (R448, R528, R529) -/

/-- Whether a running slot of a converter names a source. -/
def slotNames (s : State) (x : Fin 2) (source : Nat) : Bool :=
  let v := s.brz.convs[x]
  (v.state = .priming || v.state = .running) && (List.range v.len).any fun i => s.field (kBrzSlot x.val i 0) 31 24 = source

/-- The verdict of a path test: 0 pass, 1 open, 2 driven externally, 3 out of tolerance. -/
def pathVerdict (p : PathCodes) : Nat :=
  let d := (p.dac768 : Int) - p.dac256
  let d1 := (p.p1At768 : Int) - p.p1At256
  let d2 := (p.p2At768 : Int) - p.p2At256
  let mid := (p.p2At256 : Int) + p.p2At768 - 4096
  if d < 2007 ∨ 2089 < d then 3
  else if 95 * 2048 ≤ 100 * d1 ∧ 95 * 2048 ≤ 100 * d2 ∧ mid.natAbs ≤ 48 then 0
  else if 2 * d1 < 2048 ∧ 95 * 2048 ≤ 100 * d2 then 1
  else if 100 * d1 < 95 * 2048 ∧ 100 * d2 < 95 * 2048 ∧ 10 * (d1 - d2).natAbs ≤ 2048 then 2
  else 3
/-- A slope in 1/1,024. -/
def slopeCode (hi lo : Nat) : Nat := codeOf 16 (roundDiv ((hi : Int) - lo) 2)

def doPathTest (p : PathCodes) (c : Cmd) (s : State) : State :=
  let i := c.p8 0x09
  let busy := [(0 : Fin 2), 1].any fun x => slotNames s x i || slotNames s x 0x71
  checked c [entryCheck c [(0x08, 2)] [(0x09, decide (i < 32))], deviceCheck s c, needState (!busy)] (fun s =>
    let v := pathVerdict p
    let s := { s with brz := { s.brz with pathTests := satN 32 (s.brz.pathTests + 1), pathNotPassed := satN 32 (s.brz.pathNotPassed + b2n (decide (v ≠ 0))) } }
    let s := if v = 0 then s else raise 0xC80 [.h i, .h v] s
    done c (v + 2 ^ 16 * (p.p2At768 % 65536))
      (slopeCode p.p1At768 p.p1At256 + 2 ^ 16 * slopeCode p.p2At768 p.p2At256 + 2 ^ 32 * (p.quiet % 65536)) s) s
def execMonitorPathTest (id : Nat) (codes : PathCodes) (s : State) : Host.Outcome State Fault Refusal :=
  .next (runCmd id 0x0901 (selByte 0x08 0) (doPathTest codes) s)

/-- The 256-byte monitor summary. -/
def summaryBlock (s : State) : Data :=
  let b := s.brz
  block 256
    [(0x00, le 1 (b2n (bit s.cal.word 2)) ++ le 1 (brzCode b.convs[0].state) ++ le 1 (brzCode b.convs[1].state)),
     (0x04, le 2 (codeOf 16 (tjMax s)) ++ le 2 (codeOf 16 (tjMin s))), (0x08, b.temps.toList.flatMap fun t => le 2 (codeOf 16 t)),
     (0x28, b.rails.toList.flatMap (le 2 ·)), (0x40, b.wear.toList.flatMap fun w => le 2 (codeOf 16 w)), (0x50, le 2 b.reference),
     (0x54, le 4 (alarmsNow b.convs[0]) ++ le 4 (alarmsNow b.convs[1])), (0x60, le 8 b.convs[0].rounds ++ le 8 b.convs[1].rounds), (0x70, le 8 s.clk.tick),
     (0x78, le 4 b.pathTests ++ le 4 b.pathNotPassed)]
def doMonitorSummary (c : Cmd) (s : State) : State :=
  checked c [entryCheck c [(0x08, 2), (0x10, 8)] [], deviceCheck s c, bufCheck c]
    (fun s => done c 0 0 (writeBlock c (c.p64 0x10) (summaryBlock s) s)) s
def execMonitorSummary (id : Nat) (s : State) : Host.Outcome State Fault Refusal := .next (runCmd id 0x0901 (selByte 0x08 1) doMonitorSummary s)

/-! ## Image update (R450, R542, R543) -/

/-- A session opens on the slot that is not running: the blocks that its length covers are erased. -/
def openUpdate (length : Nat) (monitor : Bool) (s : State) : State :=
  let b := !s.boot.slotB
  let s := erase (faSlot b) (ceilDiv length 65536 * 65536) s
  let s := setBoot (fun x => { x with session := some ⟨b, length, 0, monitor⟩ }) s
  raise 0xD04 [.h (b2n b), .w length] s
/-- A session ends without success. -/
def failUpdate (aux : Nat) (s : State) : State := raise 0xD06 [.w aux] (setBoot (fun x => { x with session := none }) s)
/-- The next bytes of the image are programmed and read back. -/
def programNext (u : UpdateSession) (d : Data) (s : State) : State :=
  setBoot (fun x => { x with session := some { u with received := u.received + d.length } }) (program (faSlot u.slotB + u.received) d s)

def doUpdateBegin (c : Cmd) (s : State) : State :=
  let n := c.p32 0x08
  checked c [entryCheck c [(0x08, 4)] [], deviceCheck s c, needState s.boot.session.isNone, params [(0x08, decide (n ≤ slotSize))]]
    (fun s => done c (b2n (!s.boot.slotB)) 0 (openUpdate n false s)) s
def execImageUpdateBegin (id : Nat) (s : State) : Host.Outcome State Fault Refusal := .next (runCmd id 0x0B00 anyCmd doUpdateBegin s)

/-- The session of the mailbox, where one is open. -/
def mailSession (s : State) : Option UpdateSession := match s.boot.session with
  | some u => if u.monitor then none else some u
  | none => none

/-- What a failed read-back left in flash is open. -/
def doUpdateData (data : HostRead) (readBackOk : Bool) (c : Cmd) (s : State) : State :=
  let n := c.p32 0x0C
  match mailSession s with
  | none => checked c [entryCheck c [(0x08, 16)] [], deviceCheck s c, needState false] id s
  | some u =>
    checked c [entryCheck c [(0x08, 16)] [], deviceCheck s c,
        params [(0x08, decide (c.p32 0x08 = u.received)), (0x0C, decide (1 ≤ n ∧ n ≤ 2 ^ 20 ∧ u.received + n ≤ u.length)), (0x10, aligned64 (c.p64 0x10))]]
      (fun s => withBuffer c data (fun d s =>
        let d := (d ++ zeros n).take n
        if readBackOk then done c (u.received + n) 0 (programNext u d s)
        else
          let f := freeBytes n s
          complete c stInternal 0 0 0 (failUpdate 0 (programNext u f.1 f.2))) s) s
def execImageUpdateData (id : Nat) (data : HostRead) (readBackOk : Bool) (s : State) : Host.Outcome State Fault Refusal :=
  .next (runCmd id 0x0B01 anyCmd (doUpdateData data readBackOk) s)

def doUpdateFinish (checks : CryptoChecks) (c : Cmd) (s : State) : State := match mailSession s with
  | none => checked c [entryCheck c [] [], deviceCheck s c, needState false] id s
  | some u =>
    checked c [entryCheck c [] [], deviceCheck s c] (fun s => match imageFailure s u.slotB (some u.length) checks with
      | some k => complete c stAuth 0 0 (imageAux k) (failUpdate (imageAux k) s)
      | none =>
        let v := imageVersion (imageHead s u.slotB)
        done c v (b2n u.slotB) (switchSlot u.slotB (setBoot (fun x => { x with session := none }) s))) s
def execImageUpdateFinish (id : Nat) (checks : CryptoChecks) (s : State) : Host.Outcome State Fault Refusal :=
  .next (runCmd id 0x0B02 anyCmd (doUpdateFinish checks) s)

/-! ## ATTEST_QUOTE (R451, R548) -/

/-- The certificates at an address: consecutive DER sequences with two-byte lengths. -/
def derChain (flash : Memory) : Nat → Nat → Nat
  | 0, n => n
  | k + 1, n =>
    let h := flashRead flash (faChain + n) 4
    if u16At h 0 = 0x8230 then
      let m := n + 4 + u8At h 2 * 256 + u8At h 3
      if m ≤ 40960 then derChain flash k m else n
    else n
def chainLen (s : State) : Nat := derChain s.boot.flash 64 0

/-- The quote, with its signature free. -/
def quote (nonce : Data) (s : State) : Data × State :=
  let b := s.boot
  let body := block 0x280
    [(0x000, le 4 0x51545441), (0x004, le 2 1 ++ le 2 8), (0x008, le 8 b.fuses.serial.toNat), (0x010, le 8 s.clk.tick), (0x018, nonce),
     (0x038, le 1 (lifecycleCode b.lifecycle) ++ le 1 (b2n b.slotB) ++ le 1 b.fuses.rollback ++ le 1 b.keyId), (0x03C, le 4 b.fwVersion ++ le 4 b.fwRollback),
     (0x044, le 4 s.cs.patchRev ++ le 4 s.cs.romId), (0x04C, le 4 s.cal.word), (0x050, le 4 b.quoteCount), (0x080, b.measurements.flatten.take 512)]
  let sig := freeBytes 512 s
  let n := chainLen s
  (body ++ sig.1 ++ le 4 n ++ flashAt s faChain n, sig.2)

def doAttestQuote (c : Cmd) (s : State) : State :=
  let size := 0x484 + chainLen s
  checked c [entryCheck c [(0x08, 4), (0x10, 8), (0x20, 32)] [], deviceCheck s c, need (s.boot.lifecycle ≠ .retired) stAuth 4,
      params [(0x08, decide (size ≤ c.p32 0x08)), (0x10, aligned64 (c.p64 0x10))]]
    (fun s =>
      let s := setBoot (fun b => { b with quoteCount := satN 32 (b.quoteCount + 1) }) s
      let q := quote ((c.bytes.drop 0x20).take 32) s
      done c q.1.length 0 (writeBlock c (c.p64 0x10) q.1 q.2)) s
def execAttestQuote (id : Nat) (s : State) : Host.Outcome State Fault Refusal := .next (runCmd id 0x0B10 anyCmd doAttestQuote s)

/-! ## LIFECYCLE_UNLOCK (R452, R545, R546) -/

/-- The checks of a token but for its lock_gen, which an UNLOCK token is not asked for once all 16 relock fuses are blown. -/
def tokenSound (s : State) (d : Data) : Bool := d.length = tokenSize && tokenFields s (putAt d 0x10 (le 4 s.boot.fuses.relock))
/-- Whether a kind is allowed in the lifecycle in force. -/
def kindAllowed (l : Lifecycle) (kind : Nat) : Bool := match l with
  | .production => decide (kind = 1 ∨ kind = 3)
  | .unlocked => decide (1 ≤ kind ∧ kind ≤ 3)
  | .development => false
  | .retired => false

/-- What a token does; result0 is the lifecycle that then applies. -/
def tokenActs (kind : Nat) (d : Data) (s : State) : Nat × State :=
  if kind = 1 then (2, program faToken d (erase faToken 4096 s))
  else if kind = 2 then (1, erase faToken 4096 (setBoot (fun b => { b with fuses := { b.fuses with relock := b.fuses.relock + 1 } }) s))
  else (3, setBoot (fun b => { b with fuses := { b.fuses with retired := true } }) s)

/-- A token turned away (R546). -/
def tokenReject (c : Cmd) (status aux : Nat) (s : State) : State := complete c status 0 0 aux (raise 0xD08 [] s)

/-- A token that was read: its checks in order, then what its kind does (R545, R546). -/
def tokenUsed (c : Cmd) (signatureOk : Bool) (d : Data) (s : State) : State :=
  let kind := u16At d 6
  if ¬ tokenSound s d ∨ ¬ signatureOk then tokenReject c stAuth 5 s
  else if kind = 1 ∧ 16 ≤ s.boot.fuses.relock then tokenReject c stState 0 s
  else if u32At d 0x10 ≠ s.boot.fuses.relock then tokenReject c stAuth 5 s
  else if ¬ kindAllowed s.boot.lifecycle kind then tokenReject c stState 0 s
  else
    let r := tokenActs kind d s
    done c r.1 0 (raise 0xD07 [.h kind] r.2)

def doLifecycle (token : HostRead) (signatureOk : Bool) (c : Cmd) (s : State) : State :=
  checked c [entryCheck c [(0x08, 4), (0x10, 8)] [], deviceCheck s c,
      params [(0x08, decide (1 ≤ c.p32 0x08 ∧ c.p32 0x08 ≤ 4096)), (0x10, aligned64 (c.p64 0x10))]]
    (withBuffer c token fun d => tokenUsed c signatureOk (d.take (c.p32 0x08))) s
def execLifecycleUnlock (id : Nat) (token : HostRead) (signatureOk : Bool) (s : State) : Host.Outcome State Fault Refusal :=
  .next (runCmd id 0x0B11 anyCmd (doLifecycle token signatureOk) s)

end Sys2Proof.Machine
end

