-- ==== Sys2Proof/Machine/Fynal.lean ====
section
/-! DEFINITION. The Fynal monitor (R193, R549 to R552, R571) and the boundary-scan port (R553, R554). What the monitor sends is a
log of lines, the prompt among them; the wording of the lines that show values is a DESIGN CHOICE (log 91). -/

namespace Sys2Proof.Machine

/-! ## Lines (R549) -/

/-- Change the monitor; send lines. -/
def setFynal (f : Fynal → Fynal) (s : State) : State := { s with fynal := f s.fynal }
def say (lines : List String) (s : State) : State := setFynal (fun y => { y with out := y.out ++ lines }) s
/-- An answer that succeeds, and one that fails with its number; the prompt follows. -/
def answerOk (lines : List String) (s : State) : State := say (lines ++ ["OK", "fy> "]) s
def answerErr (n : Nat) (text : String) (s : State) : State := say ["E " ++ toString n ++ " " ++ text, "fy> "] s
def errArg : State → State := answerErr 2 "bad argument"
def errLifecycle : State → State := answerErr 3 "not allowed"
def errBusy : State → State := answerErr 4 "busy"
def errFailed (aux : Nat) : State → State := answerErr 5 (toString aux)

/-- Whether the monitor answers: the firmware runs, or the recovery subset of a failed boot (R540). A received character wakes the
engine (R549). -/
def monitorRow (recovery : Bool) (f : State → State) (s : State) : State :=
  if s.boot.phase = .running ∨ (recovery ∧ s.boot.phase = .failed) then f (wakeLull s) else s
/-- Whether debug commands are open (R550). -/
def debugOpen (s : State) : Bool := s.boot.lifecycle = .development ∨ s.boot.lifecycle = .unlocked

/-- Numbers as a line shows them. -/
def showNats (name : String) (l : List Nat) : String := name ++ (l.map fun x => " " ++ toString x).foldl (· ++ ·) ""
/-- The bytes of a block, 16 a line. -/
def showBlock : Nat → Data → List String
  | 0, _ => []
  | n + 1, d => if d = [] then [] else showNats "" ((d.take 16).map (·.toNat)) :: showBlock n (d.drop 16)
def showBytes (d : Data) : List String := showBlock d.length d

/-! ## Commands that show -/

/-- The commands that a lifecycle allows (R550). -/
def allowedCommands (s : State) : List String :=
  if s.boot.phase = .failed then ["help", "id", "baud", "update"]
  else ["help", "id", "baud", "events", "cal", "chain", "power", "life", "tiles"] ++ (if debugOpen s then ["trace", "ucode"] else []) ++
    ["peek"] ++ (if debugOpen s then ["poke"] else []) ++ ["update"]
def execFynalHelp (s : State) : Host.Outcome State Fault Refusal := .next (monitorRow true (fun s => answerOk (allowedCommands s) s) s)
def execFynalId (s : State) : Host.Outcome State Fault Refusal := .next (monitorRow true (fun s => answerOk (showBytes (identityBlock s)) s) s)

/-- The last n events raised, whatever their routing and masking. -/
def doFynalEvents (n : Nat) (s : State) : State :=
  if 256 < n then errArg s
  else answerOk ((s.evt.recent.drop (s.evt.recent.length - n)).map fun e => showNats "event" [e.ev, e.tick, e.data0, e.data1]) s
def execFynalEvents (n : Nat) (s : State) : Host.Outcome State Fault Refusal := .next (monitorRow false (doFynalEvents n) s)

def execFynalCal (s : State) : Host.Outcome State Fault Refusal :=
  .next (monitorRow false (fun s => answerOk ([showNats "cal" [s.cal.word]] ++ (s.cal.causes.map fun x => showNats "cause" [x.1, x.2]) ++
    [showNats "record" [s.cal.recordSeq, codeOf 16 s.cal.tj]]) s) s)

/-- DID, root, upstream port, ports, peers and routing entries (R379, R380). -/
def chainLines (s : State) : List String :=
  showBytes (linkStatus s) ++ (List.finRange 4).flatMap fun n => s.link.ports[n].entries.map fun e => showNats "route" [n.val, e.1, e.2.1]
def execFynalChain (s : State) : Host.Outcome State Fault Refusal := .next (monitorRow false (fun s => answerOk (chainLines s) s) s)
def execFynalPower (s : State) : Host.Outcome State Fault Refusal := .next (monitorRow false (fun s => answerOk (showBytes (powerBlock s)) s) s)

/-- The ledger entry in force: the governing one in flash, before the first write the ledger as it stands; and the remaining rating in
seconds (R571). -/
def ledgerInForce (s : State) : Data :=
  match highestEntry ((ledgerEntries s).filter fun e => u64At e.2 0x10 = s.boot.fuses.serial.toNat) with
  | some e => e.2
  | none => lifeEntry s
def lifeRemaining (d : Data) : Nat := 1262304000 - u64At d 0x20 / 1000
def execFynalLife (s : State) : Host.Outcome State Fault Refusal :=
  .next (monitorRow false (fun s => let d := ledgerInForce s; answerOk (showBytes d ++ [showNats "remaining" [lifeRemaining d]]) s) s)

def tileStateCode (t : TileState) : Nat := match t with
  | .idle => 0 | .running => 1 | .waiting => 2 | .fenced => 3 | .selfTest => 4
/-- The view of one tile, captured in one clock (R193). -/
def tileLine (s : State) (n : Fin 20) : String :=
  let t := s.tiles[n]
  let run := match t.running with | some r => r.task | none => 0
  showNats "tile" ([n.val, tileStateCode t.state, t.waitReason, t.shares.length] ++ t.shares.map (·.task) ++
    [run, t.batch.headD 0, t.seq.upc, t.batches] ++ t.restarts.toList ++ [(t.faultTimes.filter fun u => decide (s.clk.up < u + msTicks)).length,
     t.csRepairs, t.seq.stack.length, s.cs.patchRev, s.cs.romId, t.fenceCause])
def execFynalTiles (tile : Option (Fin 20)) (s : State) : Host.Outcome State Fault Refusal :=
  .next (monitorRow false (fun s => answerOk (match tile with | some n => [tileLine s n] | none => (List.finRange 20).map (tileLine s)) s) s)

/-- The last 1,024 microwords whose TRACE bit was set, each with its address, IDX and tick, the oldest first (R193, R550). -/
def doFynalTrace (n : Fin 20) (s : State) : State :=
  if ¬ debugOpen s then errLifecycle s
  else answerOk (s.tiles[n].seq.trace.map fun e => showNats "trace" [e.addr, e.idx, e.tick]) s
def execFynalTrace (tile : Fin 20) (s : State) : Host.Outcome State Fault Refusal := .next (monitorRow false (doFynalTrace tile) s)

/-- Microwords of a tile's patch RAM as it stands, addresses 0x1000 to 0x1FFF (R169), at most 64. -/
def doFynalUcode (tile : Fin 20) (a n : Nat) (s : State) : State :=
  if ¬ debugOpen s then errLifecycle s
  else if 64 < n ∨ a < 0x1000 ∨ 0x2000 < a + n then errArg s
  else answerOk ((List.range n).map fun k => showNats "word" [a + k, (storedWord s tile (a + k)).1]) s
def execFynalUcode (tile : Fin 20) (addr n : Nat) (s : State) : Host.Outcome State Fault Refusal :=
  .next (monitorRow false (doFynalUcode tile addr n) s)

/-! ## peek and poke (R551) -/

/-- Spaces: 0 win, 1 bar0, 2 store, 3 cpu. The bytes of each; the control processor's own space is free here. -/
def peekWord (s : State) (space a : Nat) : Nat :=
  if space = 0 then (readReg s a).toNat
  else if space = 1 then (readReg s (bar0Key + a)).toNat
  else if space = 2 then unle (rawRead s a 4)
  else (Config.freeWord (s.free + a)).toNat
/-- The size of a space. -/
def spaceSize (s : State) (space : Nat) : Nat :=
  if space = 0 then 0x100000 else if space = 1 then 0x10000 else if space = 2 then (if s.store.clamshell then 32 else 16) * 2 ^ 30 else 2 ^ 32
/-- A peek reads dwords and changes nothing (R8). -/
def doFynalPeek (space a n : Nat) (s : State) : State :=
  if 3 < space ∨ 256 < n ∨ a % 4 ≠ 0 ∨ spaceSize s space < a + 4 * n then errArg s
  else if ¬ debugOpen s ∧ 2 ≤ space then errLifecycle s
  else
  let s := if space = 2 then storeAwake s else s
  if space = 2 ∧ (¬ storeServes s ∨ readPoisoned s a (4 * n)) then errFailed 0 s
  else answerOk ((List.range n).map fun k => showNats "peek" [a + 4 * k, peekWord s space (a + 4 * k)]) s
def execFynalPeek (space addr n : Nat) (s : State) : Host.Outcome State Fault Refusal := .next (monitorRow false (doFynalPeek space addr n) s)

/-- What a poke writes: the host-direct blocks and BAR0 as a host write, the store its bytes; what the control processor's space
does with it is not visible here. -/
def pokeWord (space a : Nat) (v : U32) (s : State) : State :=
  if space = 0 then writeReg a v .none s
  else if space = 1 then writeBar .bar0 a v 15 .none s
  else if space = 2 then storeWrite a (le 4 v.toNat) s
  else s
/-- Where a lifecycle lets a poke go: everywhere in DEVELOPMENT, host-direct blocks and BAR0 in PRODUCTION-UNLOCKED. -/
def pokeAllowed (s : State) (space a : Nat) : Bool := match s.boot.lifecycle with
  | .development => true
  | .unlocked => decide (space = 1 ∨ (space = 0 ∧ ¬ isMirror a))
  | .production => false
  | .retired => false
def doFynalPoke (space a : Nat) (v : U32) (s : State) : State :=
  if ¬ debugOpen s then errLifecycle s
  else if 3 < space ∨ a % 4 ≠ 0 ∨ spaceSize s space < a + 4 then errArg s
  else if ¬ pokeAllowed s space a then errLifecycle s
  else
  let s := if space = 2 then storeAwake s else s
  if space = 2 ∧ ¬ storeServes s then errFailed 0 s
  else
    let s := setFynal (fun y => { y with lastPoke := a }) (pokeWord space a v s)
    answerOk [] (raise 0xD0A [.h space, .q a] s)
def execFynalPoke (space addr : Nat) (value : U32) (s : State) : Host.Outcome State Fault Refusal := .next (monitorRow false (doFynalPoke space addr value) s)

/-! ## baud (R549) -/

def baudRates : List Nat := [115200, 230400, 460800, 921600, 1000000, 2000000, 3000000]
def doFynalBaud (rate : Nat) (s : State) : State :=
  if ¬ baudRates.contains rate then errArg s
  else setFynal (fun y => { y with newBaud := some (rate, s.clk.up + 10 * msTicks) }) (answerOk [] s)
def execFynalBaud (rate : Nat) (s : State) : Host.Outcome State Fault Refusal := .next (monitorRow true (doFynalBaud rate) s)

/-- 10 ms after its OK the monitor switches to the new rate. -/
def doBaudSwitch (s : State) : State := match s.fynal.newBaud with
  | some (rate, due) => setFynal (fun y => { y with baud := rate, newBaud := none }) (waitUp due s)
  | none => s
def execBaudSwitch (s : State) : Host.Outcome State Fault Refusal := .next (doBaudSwitch s)

/-- A line that names no command, or that overflows the receive buffer (R549). -/
def execMonitorLineRejected (overflow : Bool) (s : State) : Host.Outcome State Fault Refusal :=
  .next (monitorRow true (fun s => if overflow then errArg s else answerErr 1 "unknown command" s) s)

/-! ## update (R552) -/

/-- Ask for the next piece. -/
def askPiece (offset : Nat) (s : State) : State := say ["R " ++ toString offset] s
def doFynalUpdate (length : Nat) (s : State) : State :=
  if s.boot.session.isSome then errBusy s
  else if length = 0 ∨ slotSize < length then errArg s
  else askPiece 0 (openUpdate length true s)
def execFynalUpdate (length : Nat) (s : State) : Host.Outcome State Fault Refusal := .next (monitorRow true (doFynalUpdate length) s)

/-- The image is whole: the checks and the switch of IMAGE_UPDATE_FINISH; the engine restarts 100 ms later. -/
def finishMonitor (u : UpdateSession) (checks : CryptoChecks) (s : State) : State := match imageFailure s u.slotB (some u.length) checks with
  | some k => errFailed (imageAux k) (failUpdate (imageAux k) s)
  | none =>
    let s := switchSlot u.slotB (setBoot (fun x => { x with session := none }) s)
    answerOk [] (setFynal (fun y => { y with restartAt := some (s.clk.up + 100 * msTicks) }) s)

/-- A piece with a wrong CRC is asked for again; a good one is programmed; after the last the image is checked. -/
def doFynalPiece (piece : Data) (crcOk readBackOk : Bool) (checks : CryptoChecks) (s : State) : State := match s.boot.session with
  | none => s
  | some u =>
    if ¬ u.monitor then s
    else if ¬ crcOk then askPiece u.received s
    else
      let n := min 4096 (u.length - u.received)
      let f := freeBytes n s
      let r := if readBackOk then ((piece ++ List.replicate n 0xFF).take n, s) else f
      let s := programNext u r.1 r.2
      if ¬ readBackOk then errFailed 0 (failUpdate 0 s)
      else if u.received + n < u.length then askPiece (u.received + n) s
      else finishMonitor u checks s
def execFynalUpdatePiece (piece : Data) (crcOk readBackOk : Bool) (checks : CryptoChecks) (s : State) : Host.Outcome State Fault Refusal :=
  .next (monitorRow true (doFynalPiece piece crcOk readBackOk checks) s)

/-- The restart acts as a full reset (log 92). -/
def doFynalRestart (s : State) : State := match s.fynal.restartAt with
  | some due => fullReset 7 3 s.boot.straps (waitUp due s)
  | none => s
def execFynalUpdateRestart (s : State) : Host.Outcome State Fault Refusal := .next (doFynalRestart s)

/-! ## Boundary scan (R553, R554) -/

/-- The IDCODE register: the part 0x6540 of manufacturer 0x335, with the stepping on top. -/
def idcode (s : State) : Nat := s.boot.fuses.stepping % 16 * 2 ^ 28 + 0x6540 * 2 ^ 12 + 0x335 * 2 + 1

/-- The instruction that a code selects: an undefined one acts as BYPASS, but for the test instructions of DEVELOPMENT. -/
def jtagCode (s : State) (code : Byte) : Byte :=
  if [0, 1, 2, 4, 5, 6, 7].contains code.toNat then code
  else if s.boot.lifecycle = .development ∧ 0x80 ≤ code.toNat ∧ code.toNat ≤ 0xFE then code
  else 0xFF
/-- EXTEST, CLAMP, HIGHZ, EXTEST_PULSE and EXTEST_TRAIN take the pins. -/
def takesPins (code : Byte) : Bool := [0, 4, 5, 6, 7].contains code.toNat

/-- Every external interface has lost its signal: lanes, ports, the host link and the sink. -/
def losePins (s : State) : State :=
  let s := forL (List.finRange 4) (fun n s => forL (List.finRange 32) (fun k s => doLaneSyncLoss n k s.inlets[n].periodOctets s) s) s
  let s := forL (List.finRange 4) (fun n s => portDown n 1 s) s
  doHpdUnplug (doHotReset s)

def doJtagLoad (code : Byte) (s : State) : State :=
  let c := jtagCode s code
  let s := { s with jtag := { s.jtag with instruction := c } }
  if ¬ takesPins c ∨ s.jtag.pinsTaken then s
  else losePins (raise 0xD0B [] { s with jtag := { s.jtag with pinsTaken := true } })
def execJtagInstructionLoad (code : Byte) (s : State) : Host.Outcome State Fault Refusal := .next (doJtagLoad code s)

/-- Test-Logic-Reset selects IDCODE and gives the pins back. -/
def execTapReset (s : State) : Host.Outcome State Fault Refusal := .next { s with jtag := ⟨2, false⟩ }

end Sys2Proof.Machine
end

