-- ==== Sys2Proof/Machine/Dispatch.lean ====
section
/-! DEFINITION. The dispatch: one arm per constructor of Instr, each a direct call of its meaning. -/

namespace Sys2Proof.Machine

def exec (i : Instr) (s : State) : Host.Outcome State Fault Refusal :=
  match i with
  | .devIdentify id => Sys2Proof.Machine.execDevIdentify id s
  | .devStatus id => Sys2Proof.Machine.execDevStatus id s
  | .devResetDevice id => Sys2Proof.Machine.execDevResetDevice id s
  | .devResetTile id selfTestPasses => Sys2Proof.Machine.execDevResetTile id selfTestPasses s
  | .devResetStoreChannel id => Sys2Proof.Machine.execDevResetStoreChannel id s
  | .devResetLinkPort id => Sys2Proof.Machine.execDevResetLinkPort id s
  | .devResetScanout id => Sys2Proof.Machine.execDevResetScanout id s
  | .devResetMailbox id => Sys2Proof.Machine.execDevResetMailbox id s
  | .devResetDelayedAction => Sys2Proof.Machine.execDevResetDelayedAction s
  | .setLatencyTolerance id => Sys2Proof.Machine.execSetLatencyTolerance id s
  | .setPowerLimit id => Sys2Proof.Machine.execSetPowerLimit id s
  | .powerQuery id => Sys2Proof.Machine.execPowerQuery id s
  | .timebaseSet id => Sys2Proof.Machine.execTimebaseSet id s
  | .timebaseDiscipline id => Sys2Proof.Machine.execTimebaseDiscipline id s
  | .inletConfig id => Sys2Proof.Machine.execInletConfig id s
  | .inletStart id => Sys2Proof.Machine.execInletStart id s
  | .inletStartStepTimeout inlet lane => Sys2Proof.Machine.execInletStartStepTimeout inlet lane s
  | .inletStop id => Sys2Proof.Machine.execInletStop id s
  | .inletStopTickReached inlet => Sys2Proof.Machine.execInletStopTickReached inlet s
  | .inletStatus id => Sys2Proof.Machine.execInletStatus id s
  | .storeRegionAlloc id => Sys2Proof.Machine.execStoreRegionAlloc id s
  | .storeRegionFree id => Sys2Proof.Machine.execStoreRegionFree id s
  | .storeMapQuery id => Sys2Proof.Machine.execStoreMapQuery id s
  | .specTaskCreate id desc table => Sys2Proof.Machine.execSpecTaskCreate id desc table s
  | .specTaskModify id desc table => Sys2Proof.Machine.execSpecTaskModify id desc table s
  | .specTaskDestroy id => Sys2Proof.Machine.execSpecTaskDestroy id s
  | .specTaskPlace id => Sys2Proof.Machine.execSpecTaskPlace id s
  | .retroJobSubmit id desc table => Sys2Proof.Machine.execRetroJobSubmit id desc table s
  | .xcorrCreate id desc => Sys2Proof.Machine.execXcorrCreate id desc s
  | .xcorrDestroy id desc => Sys2Proof.Machine.execXcorrDestroy id desc s
  | .trigUnitConfig id points => Sys2Proof.Machine.execTrigUnitConfig id points s
  | .trigUnitQuery id => Sys2Proof.Machine.execTrigUnitQuery id s
  | .trigMatrixConfig id => Sys2Proof.Machine.execTrigMatrixConfig id s
  | .trigMatrixQuery id => Sys2Proof.Machine.execTrigMatrixQuery id s
  | .acqConfig id desc => Sys2Proof.Machine.execAcqConfig id desc s
  | .groupRegistrationTimeout at_ => Sys2Proof.Machine.execGroupRegistrationTimeout at_ s
  | .arm id => Sys2Proof.Machine.execArm id s
  | .groupArmConfirmDeadline at_ => Sys2Proof.Machine.execGroupArmConfirmDeadline at_ s
  | .groupArmTick at_ => Sys2Proof.Machine.execGroupArmTick at_ s
  | .disarm id => Sys2Proof.Machine.execDisarm id s
  | .disarmDecisionBoundElapsed id => Sys2Proof.Machine.execDisarmDecisionBoundElapsed id s
  | .forceFireAt id => Sys2Proof.Machine.execForceFireAt id s
  | .forceFireUnit id => Sys2Proof.Machine.execForceFireUnit id s
  | .forceFireTickReached => Sys2Proof.Machine.execForceFireTickReached s
  | .densityConfigure id cmap => Sys2Proof.Machine.execDensityConfigure id cmap s
  | .densityRemove id => Sys2Proof.Machine.execDensityRemove id s
  | .densityQuery id => Sys2Proof.Machine.execDensityQuery id s
  | .densityClear id => Sys2Proof.Machine.execDensityClear id s
  | .densityClearSweep => Sys2Proof.Machine.execDensityClearSweep s
  | .streamOpen id => Sys2Proof.Machine.execStreamOpen id s
  | .streamQuery id => Sys2Proof.Machine.execStreamQuery id s
  | .streamClose id => Sys2Proof.Machine.execStreamClose id s
  | .nvmeDelegate id desc => Sys2Proof.Machine.execNvmeDelegate id desc s
  | .linkEnumerate id => Sys2Proof.Machine.execLinkEnumerate id s
  | .linkStatusQuery id => Sys2Proof.Machine.execLinkStatusQuery id s
  | .linkPortUp id => Sys2Proof.Machine.execLinkPortUp id s
  | .linkPortDown id => Sys2Proof.Machine.execLinkPortDown id s
  | .linkPortRetrain id => Sys2Proof.Machine.execLinkPortRetrain id s
  | .linkRouteQuery id => Sys2Proof.Machine.execLinkRouteQuery id s
  | .eventRoute id => Sys2Proof.Machine.execEventRoute id s
  | .eventUnmask id => Sys2Proof.Machine.execEventUnmask id s
  | .eventMask id => Sys2Proof.Machine.execEventMask id s
  | .eventMaskQuery id => Sys2Proof.Machine.execEventMaskQuery id s
  | .calStatus id => Sys2Proof.Machine.execCalStatus id s
  | .monitorPathTest id codes => Sys2Proof.Machine.execMonitorPathTest id codes s
  | .monitorSummary id => Sys2Proof.Machine.execMonitorSummary id s
  | .cfgCommit id => Sys2Proof.Machine.execCfgCommit id s
  | .cfgWithdraw id => Sys2Proof.Machine.execCfgWithdraw id s
  | .cfgQuery id => Sys2Proof.Machine.execCfgQuery id s
  | .imageUpdateBegin id => Sys2Proof.Machine.execImageUpdateBegin id s
  | .imageUpdateData id data readBackOk => Sys2Proof.Machine.execImageUpdateData id data readBackOk s
  | .imageUpdateFinish id checks => Sys2Proof.Machine.execImageUpdateFinish id checks s
  | .attestQuote id => Sys2Proof.Machine.execAttestQuote id s
  | .lifecycleUnlock id token signatureOk => Sys2Proof.Machine.execLifecycleUnlock id token signatureOk s
  | .commandFetch q entry => Sys2Proof.Machine.execCommandFetch q entry s
  | .fenceRelease id => Sys2Proof.Machine.execFenceRelease id s
  | .cmdqTailDoorbell q value size => Sys2Proof.Machine.execCmdqTailDoorbell q value size s
  | .cplqHeadDoorbell q value size => Sys2Proof.Machine.execCplqHeadDoorbell q value size s
  | .evqHeadDoorbell q value size => Sys2Proof.Machine.execEvqHeadDoorbell q value size s
  | .streamHeadDoorbell stream value size => Sys2Proof.Machine.execStreamHeadDoorbell stream value size s
  | .cmdqEnable q ctrl => Sys2Proof.Machine.execCmdqEnable q ctrl s
  | .cmdqDisable q ctrl => Sys2Proof.Machine.execCmdqDisable q ctrl s
  | .cplqEnable q ctrl => Sys2Proof.Machine.execCplqEnable q ctrl s
  | .cplqDisable q ctrl => Sys2Proof.Machine.execCplqDisable q ctrl s
  | .evqEnable q ctrl => Sys2Proof.Machine.execEvqEnable q ctrl s
  | .evqDisable q ctrl => Sys2Proof.Machine.execEvqDisable q ctrl s
  | .interruptModerationTimeout kind q => Sys2Proof.Machine.execInterruptModerationTimeout kind q s
  | .msixVectorUnmask vector => Sys2Proof.Machine.execMsixVectorUnmask vector s
  | .bar4WindowApply value => Sys2Proof.Machine.execBar4WindowApply value s
  | .quiesce value => Sys2Proof.Machine.execQuiesce value s
  | .nvmeQuiesced => Sys2Proof.Machine.execNvmeQuiesced s
  | .bar4Read offset length => Sys2Proof.Machine.execBar4Read offset length s
  | .bar4Write offset bytes poisoned => Sys2Proof.Machine.execBar4Write offset bytes poisoned s
  | .bitAliasWrite offset value same => Sys2Proof.Machine.execBitAliasWrite offset value same s
  | .registerWrite bar offset value enables same => Sys2Proof.Machine.execRegisterWrite bar offset value enables same s
  | .scnEnable value => Sys2Proof.Machine.execScnEnable value s
  | .timingApply value same => Sys2Proof.Machine.execTimingApply value same s
  | .scnShadowValid layer value same => Sys2Proof.Machine.execScnShadowValid layer value same s
  | .scnAuxGo value => Sys2Proof.Machine.execScnAuxGo value s
  | .drtShadowValid ch value same => Sys2Proof.Machine.execDrtShadowValid ch value same s
  | .drtAbort ch value => Sys2Proof.Machine.execDrtAbort ch value s
  | .dmaHaltAck value => Sys2Proof.Machine.execDmaHaltAck value s
  | .crcLearn value => Sys2Proof.Machine.execCrcLearn value s
  | .crcCfgRefWrite value same => Sys2Proof.Machine.execCrcCfgRefWrite value same s
  | .crcEnable value => Sys2Proof.Machine.execCrcEnable value s
  | .snap value => Sys2Proof.Machine.execSnap value s
  | .evtFirstWrite value same => Sys2Proof.Machine.execEvtFirstWrite value same s
  | .brzRun conv value => Sys2Proof.Machine.execBrzRun conv value s
  | .brzRestart conv value => Sys2Proof.Machine.execBrzRestart conv value s
  | .brzSlotConfigWrite conv slot reg value => Sys2Proof.Machine.execBrzSlotConfigWrite conv slot reg value s
  | .pcieLinkUp gen width => Sys2Proof.Machine.execPcieLinkUp gen width s
  | .d3hotEntry => Sys2Proof.Machine.execD3hotEntry s
  | .d0Return => Sys2Proof.Machine.execD0Return s
  | .powerOn straps => Sys2Proof.Machine.execPowerOn straps s
  | .resetN straps => Sys2Proof.Machine.execResetN straps s
  | .perstNAssert => Sys2Proof.Machine.execPerstNAssert s
  | .hotReset => Sys2Proof.Machine.execHotReset s
  | .dlDown => Sys2Proof.Machine.execDlDown s
  | .flr => Sys2Proof.Machine.execFlr s
  | .supplyBrownout straps => Sys2Proof.Machine.execSupplyBrownout straps s
  | .thermtrip => Sys2Proof.Machine.execThermtrip s
  | .watchdogExpiry => Sys2Proof.Machine.execWatchdogExpiry s
  | .watchdogRestartReady => Sys2Proof.Machine.execWatchdogRestartReady s
  | .firmwareHeartbeat => Sys2Proof.Machine.execFirmwareHeartbeat s
  | .crystalStartTimeout => Sys2Proof.Machine.execCrystalStartTimeout s
  | .calDomainComplete run1 run2 trainedRate => Sys2Proof.Machine.execCalDomainComplete run1 run2 trainedRate s
  | .bootSectionVerified checks body turned => Sys2Proof.Machine.execBootSectionVerified checks body turned s
  | .mailboxReady => Sys2Proof.Machine.execMailboxReady s
  | .regulatorStatusPoll status => Sys2Proof.Machine.execRegulatorStatusPoll status s
  | .refinLoss => Sys2Proof.Machine.execRefinLoss s
  | .crystalLoss => Sys2Proof.Machine.execCrystalLoss s
  | .synthLockLoss y => Sys2Proof.Machine.execSynthLockLoss y s
  | .synthRelock y => Sys2Proof.Machine.execSynthRelock y s
  | .synthFrequencyDeparture y => Sys2Proof.Machine.execSynthFrequencyDeparture y s
  | .ppsInEdge frac => Sys2Proof.Machine.execPpsInEdge frac s
  | .ppsMissedTimeout => Sys2Proof.Machine.execPpsMissedTimeout s
  | .holdoverTimeout => Sys2Proof.Machine.execHoldoverTimeout s
  | .ptmDialogStart => Sys2Proof.Machine.execPtmDialogStart s
  | .ptmResponse masterNs frac => Sys2Proof.Machine.execPtmResponse masterNs frac s
  | .ptmCorrelationInvalid => Sys2Proof.Machine.execPtmCorrelationInvalid s
  | .lullEntry => Sys2Proof.Machine.execLullEntry s
  | .lullWake => Sys2Proof.Machine.execLullWake s
  | .thermalEvaluation => Sys2Proof.Machine.execThermalEvaluation s
  | .powerRequestGrant => Sys2Proof.Machine.execPowerRequestGrant s
  | .powerRequestTimeout => Sys2Proof.Machine.execPowerRequestTimeout s
  | .lifeLedgerSample => Sys2Proof.Machine.execLifeLedgerSample s
  | .wearMonitorDaily => Sys2Proof.Machine.execWearMonitorDaily s
  | .lifeLedgerWrite => Sys2Proof.Machine.execLifeLedgerWrite s
  | .sysrefPulse inlet halfTick => Sys2Proof.Machine.execSysrefPulse inlet halfTick s
  | .frameRelease inlet samples => Sys2Proof.Machine.execFrameRelease inlet samples s
  | .historyWriteCommit inlet frames => Sys2Proof.Machine.execHistoryWriteCommit inlet frames s
  | .laneErrorDetected inlet place kind => Sys2Proof.Machine.execLaneErrorDetected inlet place kind s
  | .laneSyncLoss inlet place => Sys2Proof.Machine.execLaneSyncLoss inlet place s
  | .laneResyncComplete inlet lane arrival => Sys2Proof.Machine.execLaneResyncComplete inlet lane arrival s
  | .laneErrorWindow => Sys2Proof.Machine.execLaneErrorWindow s
  | .refreshDue ch bank demand => Sys2Proof.Machine.execRefreshDue ch bank demand s
  | .rowDisturbanceThreshold ch bank group activations => Sys2Proof.Machine.execRowDisturbanceThreshold ch bank group activations s
  | .rowDisturbanceWindow => Sys2Proof.Machine.execRowDisturbanceWindow s
  | .throttleEnd requester => Sys2Proof.Machine.execThrottleEnd requester s
  | .edcBurstFailure ch retrySucceeds => Sys2Proof.Machine.execEdcBurstFailure ch retrySucceeds s
  | .uncorrectableRead addr requester reads => Sys2Proof.Machine.execUncorrectableRead addr requester reads s
  | .patrolScrub sectors corrected => Sys2Proof.Machine.execPatrolScrub sectors corrected s
  | .storeRetrainStart ch => Sys2Proof.Machine.execStoreRetrainStart ch s
  | .storeRetrainComplete ch => Sys2Proof.Machine.execStoreRetrainComplete ch s
  | .selfRefreshIdleTimeout => Sys2Proof.Machine.execSelfRefreshIdleTimeout s
  | .selfRefreshWake => Sys2Proof.Machine.execSelfRefreshWake s
  | .selfRefreshExitComplete => Sys2Proof.Machine.execSelfRefreshExitComplete s
  | .tileReadIssue tile => Sys2Proof.Machine.execTileReadIssue tile s
  | .tileBatchStart tile => Sys2Proof.Machine.execTileBatchStart tile s
  | .commitUnitAccept tile unitGood => Sys2Proof.Machine.execCommitUnitAccept tile unitGood s
  | .routineAbandon tile causes failure => Sys2Proof.Machine.execRoutineAbandon tile causes failure s
  | .routineRestart tile => Sys2Proof.Machine.execRoutineRestart tile s
  | .tileWatchdogExpiry tile => Sys2Proof.Machine.execTileWatchdogExpiry tile s
  | .controlStoreScrubCheck tile addr got flips => Sys2Proof.Machine.execControlStoreScrubCheck tile addr got flips s
  | .shareHandover tile => Sys2Proof.Machine.execShareHandover tile s
  | .replacementComplete tile => Sys2Proof.Machine.execReplacementComplete tile s
  | .backfillComplete task => Sys2Proof.Machine.execBackfillComplete task s
  | .xcorrIndexTimeout xc => Sys2Proof.Machine.execXcorrIndexTimeout xc s
  | .trigInEdge pin rising frac heldTicks => Sys2Proof.Machine.execTrigInEdge pin rising frac heldTicks s
  | .trigOutPulse at_ => Sys2Proof.Machine.execTrigOutPulse at_ s
  | .groupDecision at_ => Sys2Proof.Machine.execGroupDecision at_ s
  | .acqCopyChunk acqNo source items => Sys2Proof.Machine.execAcqCopyChunk acqNo source items s
  | .densityExportBoundary map => Sys2Proof.Machine.execDensityExportBoundary map s
  | .exportWritesAccepted map => Sys2Proof.Machine.execExportWritesAccepted map s
  | .scanoutFrameStart => Sys2Proof.Machine.execScanoutFrameStart s
  | .layerFetchStart layer => Sys2Proof.Machine.execLayerFetchStart layer s
  | .layerUnderrun layer => Sys2Proof.Machine.execLayerUnderrun layer s
  | .hpdUnplug => Sys2Proof.Machine.execHpdUnplug s
  | .hpdPlug => Sys2Proof.Machine.execHpdPlug s
  | .hpdIrq laneLostLock => Sys2Proof.Machine.execHpdIrq laneLostLock s
  | .dpTrainingComplete ok sinkDownspread => Sys2Proof.Machine.execDpTrainingComplete ok sinkDownspread s
  | .dpTrainingRetry => Sys2Proof.Machine.execDpTrainingRetry s
  | .auxReply code data => Sys2Proof.Machine.execAuxReply code data s
  | .auxTimeout => Sys2Proof.Machine.execAuxTimeout s
  | .recordDeliver stream => Sys2Proof.Machine.execRecordDeliver stream s
  | .notifyTimeout stream => Sys2Proof.Machine.execNotifyTimeout stream s
  | .nvmeCompletionEntry stream => Sys2Proof.Machine.execNvmeCompletionEntry stream s
  | .nvmeFlushTimer stream => Sys2Proof.Machine.execNvmeFlushTimer stream s
  | .nvmeCommandTimeout stream => Sys2Proof.Machine.execNvmeCommandTimeout stream s
  | .peerStreamAck stream seq => Sys2Proof.Machine.execPeerStreamAck stream seq s
  | .peerStreamCut stream sender => Sys2Proof.Machine.execPeerStreamCut stream sender s
  | .descriptorLoad desc => Sys2Proof.Machine.execDescriptorLoad desc s
  | .descriptorEnd data => Sys2Proof.Machine.execDescriptorEnd data s
  | .draughtBusError cause ch addr space written => Sys2Proof.Machine.execDraughtBusError cause ch addr space written s
  | .portTrainingStart port => Sys2Proof.Machine.execPortTrainingStart port s
  | .portTrainingComplete port r => Sys2Proof.Machine.execPortTrainingComplete port r s
  | .portRetryTimer port => Sys2Proof.Machine.execPortRetryTimer port s
  | .flitReceive port flit => Sys2Proof.Machine.execFlitReceive port flit s
  | .nakReceive port ack => Sys2Proof.Machine.execNakReceive port ack s
  | .ackTimeoutReplay port => Sys2Proof.Machine.execAckTimeoutReplay port s
  | .linkRetrainComplete port ok => Sys2Proof.Machine.execLinkRetrainComplete port ok s
  | .noFlitTimeout port => Sys2Proof.Machine.execNoFlitTimeout port s
  | .blockLockLoss port => Sys2Proof.Machine.execBlockLockLoss port s
  | .heartbeatSend port => Sys2Proof.Machine.execHeartbeatSend port s
  | .heartbeatMissing port => Sys2Proof.Machine.execHeartbeatMissing port s
  | .linkPacketForward port p => Sys2Proof.Machine.execLinkPacketForward port p s
  | .linkWriteReceive port p => Sys2Proof.Machine.execLinkWriteReceive port p s
  | .linkReadReceive port p => Sys2Proof.Machine.execLinkReadReceive port p s
  | .linkCompletionReceive port p => Sys2Proof.Machine.execLinkCompletionReceive port p s
  | .linkRequestTimeout tag => Sys2Proof.Machine.execLinkRequestTimeout tag s
  | .forwardedCommandReceive port p => Sys2Proof.Machine.execForwardedCommandReceive port p s
  | .forwardedCompletionReceive port p => Sys2Proof.Machine.execForwardedCompletionReceive port p s
  | .forwardedEventReceive port p => Sys2Proof.Machine.execForwardedEventReceive port p s
  | .groupRegistrationReceive port p => Sys2Proof.Machine.execGroupRegistrationReceive port p s
  | .healReceive port p => Sys2Proof.Machine.execHealReceive port p s
  | .offerReceive port p => Sys2Proof.Machine.execOfferReceive port p s
  | .healOfferTimeout => Sys2Proof.Machine.execHealOfferTimeout s
  | .activateReceive port p => Sys2Proof.Machine.execActivateReceive port p s
  | .routeAddReceive port p => Sys2Proof.Machine.execRouteAddReceive port p s
  | .routeDelReceive port p => Sys2Proof.Machine.execRouteDelReceive port p s
  | .placementControlReceive port p => Sys2Proof.Machine.execPlacementControlReceive port p s
  | .flowLossTimeout did => Sys2Proof.Machine.execFlowLossTimeout did s
  | .trigFireReceive port p => Sys2Proof.Machine.execTrigFireReceive port p s
  | .groupFireReceive port p => Sys2Proof.Machine.execGroupFireReceive port p s
  | .groupArmReceive port p => Sys2Proof.Machine.execGroupArmReceive port p s
  | .groupDisarmReceive port p => Sys2Proof.Machine.execGroupDisarmReceive port p s
  | .armConfirmReceive port p => Sys2Proof.Machine.execArmConfirmReceive port p s
  | .timeSyncSend port => Sys2Proof.Machine.execTimeSyncSend port s
  | .timeSyncReceive port p frac => Sys2Proof.Machine.execTimeSyncReceive port p frac s
  | .delayMeasure port => Sys2Proof.Machine.execDelayMeasure port s
  | .delayReqReceive port p frac => Sys2Proof.Machine.execDelayReqReceive port p frac s
  | .delayRespReceive port p frac => Sys2Proof.Machine.execDelayRespReceive port p frac s
  | .enumAssignReceive port p => Sys2Proof.Machine.execEnumAssignReceive port p s
  | .enumReportReceive port p => Sys2Proof.Machine.execEnumReportReceive port p s
  | .enumDoneReceive port p => Sys2Proof.Machine.execEnumDoneReceive port p s
  | .crcSweep => Sys2Proof.Machine.execCrcSweep s
  | .breezeConversion conv raws reading => Sys2Proof.Machine.execBreezeConversion conv raws reading s
  | .firmwareCopyRestore addr bothPoisoned => Sys2Proof.Machine.execFirmwareCopyRestore addr bothPoisoned s
  | .fynalHelp => Sys2Proof.Machine.execFynalHelp s
  | .fynalId => Sys2Proof.Machine.execFynalId s
  | .fynalBaud rate => Sys2Proof.Machine.execFynalBaud rate s
  | .fynalEvents n => Sys2Proof.Machine.execFynalEvents n s
  | .fynalCal => Sys2Proof.Machine.execFynalCal s
  | .fynalChain => Sys2Proof.Machine.execFynalChain s
  | .fynalPower => Sys2Proof.Machine.execFynalPower s
  | .fynalLife => Sys2Proof.Machine.execFynalLife s
  | .fynalTiles tile => Sys2Proof.Machine.execFynalTiles tile s
  | .fynalTrace tile => Sys2Proof.Machine.execFynalTrace tile s
  | .fynalUcode tile addr n => Sys2Proof.Machine.execFynalUcode tile addr n s
  | .fynalPeek space addr n => Sys2Proof.Machine.execFynalPeek space addr n s
  | .fynalPoke space addr value => Sys2Proof.Machine.execFynalPoke space addr value s
  | .fynalUpdate length => Sys2Proof.Machine.execFynalUpdate length s
  | .fynalUpdatePiece piece crcOk readBackOk checks => Sys2Proof.Machine.execFynalUpdatePiece piece crcOk readBackOk checks s
  | .fynalUpdateRestart => Sys2Proof.Machine.execFynalUpdateRestart s
  | .jtagInstructionLoad code => Sys2Proof.Machine.execJtagInstructionLoad code s
  | .tapReset => Sys2Proof.Machine.execTapReset s
  | .synthesizerLocked y => Sys2Proof.Machine.execSynthesizerLocked y s
  | .laneLockAchieved inlet lane isCdr => Sys2Proof.Machine.execLaneLockAchieved inlet lane isCdr s
  | .ilasReceived inlet r => Sys2Proof.Machine.execIlasReceived inlet r s
  | .configurationWrite offset value => Sys2Proof.Machine.execConfigurationWrite offset value s
  | .ppsOutPulse => Sys2Proof.Machine.execPpsOutPulse s
  | .baudSwitch => Sys2Proof.Machine.execBaudSwitch s
  | .monitorLineRejected overflow => Sys2Proof.Machine.execMonitorLineRejected overflow s

end Sys2Proof.Machine
end

