-- ==== Sys2Proof/Machine/Sequencer.lean ====
section
/-! DEFINITION. One clock of the tile sequencers (R169, R173 to R178, R181, R182): the fetch with its check, the conditions, the
waits, the address generators, what is staged, and the next address. -/

namespace Sys2Proof.Machine

/-- The head index of a tile's batch. -/
def Tile.head (t : Tile) : Nat := t.batch.headD 0
/-- The span of the head index in its ring: its inlet and ticks. -/
def headSpan (s : State) (x : Share) (k : Nat) : Option (Inlet × Nat × Nat) := match findTask s x.task with
  | some t => t.inlet.map fun n => (s.inlets[n], t.frameTime k / 65536, ceilDiv (t.frameStop k) 65536)
  | none => none
/-- A task's answer for a condition. -/
def ofTask (s : State) (x : Share) (f : Task → Bool) : Bool := match findTask s x.task with | some t => f t | none => false

/-- A condition of R175, before COND_INV, for the share that a tile runs. Whether a staging port has room is free. -/
def condition (s : State) (n : Fin 20) (x : Share) (sel : Nat) : Bool :=
  let t := s.tiles[n]
  let k := t.head
  let span := headSpan s x k
  if sel = 0 then true
  else if sel ≤ 4 then decide ((t.seq.ctr.toList.drop (sel - 1)).headD 0 = 0)
  else if sel = 5 then decide (t.seq.bursts = 0)
  else if sel = 6 then decide (t.seq.writes = 0)
  else if sel = 7 then (match span with | some y => !(holesIn y.1.ring y.2.1 y.2.2).isEmpty | none => false)
  else if sel = 8 then (match span with | some y => decide (y.2.1 < y.1.ring.oldest) | none => false)
  else if sel = 9 then (match span with | some y => y.1.ring.poisoned.any (fun p => decide (p.start < y.2.2 ∧ y.2.1 < p.stop)) | none => false)
  else if sel = 0xA then t.seq.fftDone
  else if sel = 0xB then t.seq.energyDone
  else if sel = 0xC then windowOpen s x (gapUnit x.task k x.epoch 0 false)
  else if sel = 0xD then decide (t.batch.length ≤ 1)
  else if sel = 0xE then ofTask s x fun y => decide ((k + 1) % max 1 y.desc.avg = 0)
  else if sel = 0xF then ofTask s x fun y => y.desc.sk && decide ((k + 1) % 2 ^ y.desc.skMLog2 = 0)
  else if sel = 0x10 then Config.portRoom 0 s.clk.up
  else if sel = 0x11 then Config.portRoom 1 s.clk.up
  else if sel = 0x12 then ofTask s x (·.desc.sk)
  else if sel = 0x13 then ofTask s x (!·.complex)
  else if sel = 0x14 then ofTask s x fun y => decide (2 ≤ y.desc.taps)
  else if sel = 0x15 then x.back || decide (x.role = srRetro)
  else false
/-- The condition that a microword selects (R175). -/
def holds (s : State) (n : Fin 20) (x : Share) (m : Microword) : Bool := condition s n x m.condSel != m.condInv

/-- The wait reason of a condition (R193): data, the commit window, or a staging port. -/
def waitReasonOf (sel : Nat) : Nat := if sel = 0xC then 3 else if sel = 0x10 ∨ sel = 0x11 then 4 else 1

/-- Why a microword may not act in this clock: its fence (R181), its commit (R182) or its WAIT (R174). -/
def holdReason (s : State) (n : Fin 20) (x : Share) (m : Microword) : Option Nat :=
  let t := s.tiles[n]
  if (m.fence ∨ m.commit ∨ m.seqOp = 7) ∧ ¬ t.drained then some 2
  else if m.commit ∧ ¬ windowOpen s x (gapUnit x.task t.head x.epoch 0 false) then some 3
  else if m.commit ∧ (¬ t.seq.energyDone ∧ (t.units.head?.bind (·.gap)).isNone ∨ t.seq.accepted = 0) then some 2
  else if m.seqOp = 6 ∧ ¬ holds s n x m then some (waitReasonOf m.condSel)
  else none

/-- A sequencing fault of a microword (R173, R174, R177): a reserved encoding, a fifth CALL, a RETURN with an empty stack, an END with
results staged, or an address outside the share's regions. -/
def wordFaults (t : Tile) (w : Nat) (m : Microword) : Bool :=
  let q := t.seq
  !microwordOk w || decide (m.seqOp = 3 ∧ 4 ≤ q.stack.length) || decide (m.seqOp = 4 ∧ q.stack = []) || decide (m.seqOp = 7 ∧ t.units ≠ []) ||
    (agMoves m.ag0Op && !q.ag0.inside m.ag0Burst m.ag0Ofs) || (agMoves m.ag1Op && !q.ag1.inside m.ag1Burst m.ag1Ofs)

/-- Change one loop counter, a 12-bit register. -/
def setCtr (v : Vector Nat 4) (i x : Nat) : Vector Nat 4 := vmodN v i fun _ => x % 4096
/-- The loop counters after a microword: LOOP decrements first, and LOOP_OP takes effect at the end of the clock (R174, R176). -/
def nextCtr (q : Sequencer) (task : Nat) (m : Microword) : Vector Nat 4 :=
  let c := (q.ctr.toList.drop m.loopCtr).headD 0
  let v := if m.seqOp = 5 then setCtr q.ctr m.loopCtr (c + 4095) else q.ctr
  let c' := if m.seqOp = 5 then c + 4095 else c
  if m.loopOp = 1 then setCtr v m.loopCtr m.loopImm
  else if m.loopOp = 2 then setCtr v m.loopCtr (Config.taskParam task (m.loopImm % 16))
  else if m.loopOp = 3 then setCtr v m.loopCtr (c' + 4095)
  else v
/-- The next address and the return stack (R174). -/
def nextAddress (q : Sequencer) (m : Microword) (cond : Bool) : Nat × List Nat :=
  let c := (q.ctr.toList.drop m.loopCtr).headD 0
  if m.seqOp = 1 then (m.target, q.stack)
  else if m.seqOp = 2 then (if cond then m.target else q.upc + 1, q.stack)
  else if m.seqOp = 3 then (m.target, (q.upc + 1) :: q.stack)
  else if m.seqOp = 4 then (q.stack.headD 0, q.stack.drop 1)
  else if m.seqOp = 5 then (if (c + 4095) % 4096 ≠ 0 then m.target else q.upc + 1, q.stack)
  else (q.upc + 1, q.stack)
/-- An address generator after a microword's operation (R176, R177). -/
def nextAg (g : AddrGen) (op stride task k : Nat) : AddrGen :=
  if op = 4 then g.frame task k else if agSteps op then g.step stride else g

/-- What the fields of a microword do to the sequencer in the clock in which it acts (R172, R174, R176, R177, R182, R193). -/
def actWord (s : State) (t : Tile) (x : Share) (m : Microword) (cond : Bool) : Sequencer :=
  let q := t.seq
  let next := nextAddress q m cond
  let scratch := if m.scrOp = 2 then
      q.scratch.filter (·.1 ≠ m.scrAddr) ++ [(m.scrAddr, Config.scratchLine m.scrAddr s.clk.up)] else q.scratch
  { q with
    upc := next.1 % 2 ^ 14, stack := next.2, ctr := nextCtr q x.task m, ag0 := nextAg q.ag0 m.ag0Op m.ag0Stride x.task t.head,
    ag1 := nextAg q.ag1 m.ag1Op m.ag1Stride x.task t.head, bursts := if agMoves m.ag0Op ∧ t.units = [] then q.bursts + 1 else q.bursts,
    writes := if agWrites m.ag1Op then q.writes + 1 else q.writes,
    busy := m.coefOp ≠ 0 || m.fftOp ≠ 0 || m.detOp ≠ 0 || m.fmtOp ≠ 0 || m.scrOp = 2,
    fftDone := if m.fftOp = 0 then q.fftDone && m.ag0Op ≠ 4 else decide (m.fftOp = 2 ∨ m.fftOp = 3 ∨ m.fftOp = 4),
    energyDone := q.energyDone || decide (m.fftOp = 5), compares := q.compares || decide (m.sqOp = 1),
    cells := if m.eddyOp = 1 then q.cells ++ [m.eddyPort] else q.cells, events := q.events + b2n m.evEmit,
    accepted := if m.commit then q.accepted - 1 else q.accepted, scratch := scratch,
    trace := if m.trace then (q.trace ++ [(⟨q.upc, x.idx, s.clk.tick⟩ : TraceEntry)]).drop (q.trace.length + 1 - 1024) else q.trace }

/-- What one clock completes before the next microword: datapath stages and scratch writes drain, and the store accepts AG1 writes while
it serves (log 120). -/
def settleSeq (s : State) (q : Sequencer) : Sequencer := { q with busy := false, writes := if storeServes s then 0 else q.writes }

/-- A running tile whose sequencer executes (R169): its routine runs and no abandon is under way. -/
def Tile.executes (t : Tile) : Bool := t.running.isSome && t.powered && !t.restarting && t.seq.faults.isEmpty && (t.state = .running || t.state = .waiting)

/-- One clock of one tile's sequencer: it fetches a microword, checks it, and acts on it, waits, or raises a fault that the next abandon
takes (R169, R171, R173, R174). The words of the ROM raise no sequencing fault: they obey the rules (R173, R188). -/
def clockTile (s : State) (n : Fin 20) (t : Tile) : Tile :=
  match t.runningShare with
  | none => t
  | some x =>
    let w := storedWord s n t.seq.upc
    let m := Microword.ofWord w.1
    if ¬ wordPasses w.1 w.2 t.seq.upc then { t with seq := { t.seq with faults := [5] } }
    else if wordFaults t w.1 m then
      (if t.seq.upc < romWords ∧ w.1 = controlWord s t.seq.upc then t else { t with seq := { t.seq with faults := [6] } })
    else match holdReason s n x m with
      | some r => { t with state := .waiting, waitReason := r, seq := settleSeq s t.seq }
      | none =>
        let q := actWord s { t with seq := settleSeq s t.seq } x m (holds s n x m)
        if t.waitReason = 3 ∧ ¬ windowOpen s x (gapUnit x.task t.head x.epoch 0 false) then { t with seq := q }
        else { t with state := .running, waitReason := 0, seq := q }

/-- One clock of every sequencer that executes. -/
def clockTiles (s : State) : State :=
  forL (List.finRange 20) (fun n s => if s.tiles[n].executes then setTile n (clockTile s n) s else s) s

/-- What passes while nothing is commanded: the clock, one microword of every running sequencer in it (log 8, log 94), and what falls due
in Squall. -/
def idleCycle (s : State) : State := squallDue (idleWork (if rootBypassed s then s else clockTiles s))

end Sys2Proof.Machine
end

