-- ==== Sys2Proof/Safety.lean ====
section
/-! DEFINITION. What counts as a safe state: the invariant that every command keeps and that holds at reset. -/

namespace Sys2Proof.Safety

open Sys2Proof.Machine

/-- The register file keeps its canonical form: equal registers are equal data. -/
abbrev RegsCanonical (s : State) : Prop := rfWf s.regs = true

/-- The sparse memories and the register file keep their canonical forms, and the time base stays a 64-bit counter (R489). -/
structure Canonical (s : State) : Prop where
  regs : RegsCanonical s
  host : Memory.wf s.host = true
  store : Memory.wf s.store.mem = true
  flash : spWf flashDefault s.boot.flash = true
  tick : s.clk.tick < 2 ^ 64

/-- One-time programmable cells only blow (R541, R545, R546): identity and keys stay, retirement stays, the counts of blown fuses do
not fall. -/
structure FusesGrow (a b : Fuses) : Prop where
  serial : b.serial = a.serial
  production : b.production = a.production
  retired : a.retired = true → b.retired = true
  rollback : a.rollback ≤ b.rollback
  relock : a.relock ≤ b.relock
  keys : b.keyRevoked = a.keyRevoked ∧ b.lifeKeyRevoked = a.lifeKeyRevoked

/-- The factory's one-time programmable trims with their limits (R512, R516). -/
def factoryTrims (s : State) : List (List (BitVec 8)) × List (List (BitVec 8)) × List (List (BitVec 8)) :=
  (s.cal.otp, s.cal.otpLow, s.cal.otpHigh)

/-- A state with all that raising events, sending packets, completing commands and writing host memory may change taken from a later
one: what is equal to it but for named fields has changed nothing else. -/
def sideOf (s t : State) : State :=
  { s with evt := t.evt, mbx := t.mbx, regs := t.regs, host := t.host, pcie := t.pcie, link := t.link }

end Sys2Proof.Safety
end

