-- ==== Sys2Proof/Certificates/Slice0/Obligations.lean ====
section
/-! DEFINITION. The statements for the provers, with the words they are written in. -/

namespace Sys2Proof.Claims

open Sys2Proof.Machine Sys2Proof.Safety

/-- A command ends in a next state that has a property. -/
def Gives (c : Instr) (s : State) (P : State → Prop) : Prop := ∃ t, exec c s = .next t ∧ P t

/-- Command c in progress is the one that a row of the mailbox runs: its number, started and not waiting, the row's opcode, and the
row's selector where it has one. -/
structure Runs (s : State) (id opcode : Nat) (sel : Cmd → Bool) (c : Cmd) : Prop where
  found : findCmd s id = some c
  started : c.started = true
  notWaiting : c.waiting = false
  opcode : c.opcode = opcode
  selector : sel c = true

/-- Every check of a command passes (R428). -/
abbrev Passes (checks : List Check) : Prop := firstFail checks = none

/-- A BAR access reaches the engine, and finds it awake (R405, R499). -/
abbrev Reaches (s : State) : Prop := s.pcie.linkUp = true ∧ s.pcie.d3 = false ∧ memSpaceEnabled s = true ∧ s.clk.lull < 2

/-- A register with a word write in it, as its access codes give (R7), before what the write starts. -/
def written (k : Nat) (v : U32) (s : State) : State := s.setReg k ((wordWrite ((regInfo k).getD (roReg 0)) v).apply (s.reg k))

/-- A request for power that is granted at once (R502): its cost can be granted, nobody waits, and it fits. -/
abbrev GrantsAtOnce (s : State) (units : Nat) : Prop := powerPossible s.pwr units = true ∧ s.pwr.queue = [] ∧ powerFits s.pwr units = true
/-- A command's request for power that joins the queue (R502, R503). -/
abbrev QueuesForPower (s : State) (c : Cmd) (units : Nat) : Prop :=
  powerPossible s.pwr units = true ∧ ¬ (s.pwr.queue = [] ∧ powerFits s.pwr units = true) ∧ c.noWait = false ∧ s.pwr.queue.length < 64
/-- A reservation that the store ledger admits (R24, R26). -/
abbrev Admits (s : State) (owner : Owner) (items : List (Nat × Nat)) : Prop := ledgerSum (addReservations owner items s).store + 30000000 ≤ bEff s.store

/-- Activations of a requester in a row group with some more (R98). -/
def activationsOf (s : State) (ch bank : Fin 16) (group : Nat) (acts : List (Fin 12 × Nat)) (r : Fin 12) : Nat :=
  s.store.rowCounts.at_ (rowKey ch.val bank.val group r.val) + ((acts.filter (fun x => decide (x.1 = r))).map (·.2)).sum

/-- The task that SPEC_TASK_CREATE forms (R118, R119, R143), and the state with its store traffic reserved and the task listed (R19). -/
def newTask (s : State) (d : TaskDesc) (i : Inlet) : Task := (freshTask (takeTaskId s).1 .live d i).withCorner s
def withNewTask (s : State) (d : TaskDesc) (i : Inlet) : State :=
  let u := addReservations (.task (newTask s d i).id) [(lcTileRead, (newTask s d i).reserveKbs)] (takeTaskId s).2
  { u with tasks := u.tasks ++ [newTask s d i] }
/-- The retro job that RETRO_JOB_SUBMIT forms, and the state with it listed (R151, R152). -/
def newRetro (s : State) (d : TaskDesc) (i : Inlet) (c : Cmd) : Task := retroTask (takeTaskId s).1 d i (c.p64 0x18) (c.p64 0x20)
def withNewRetro (s : State) (d : TaskDesc) (i : Inlet) (c : Cmd) : State := { (takeTaskId s).2 with tasks := (takeTaskId s).2.tasks ++ [newRetro s d i c] }
/-- The share of a retro job: its tile's leftover time (R152). -/
def retroShare (t : Task) : Share :=
  { task := t.id, sixteenths := 0, period := 1, residues := [0], idx := 0, from_ := 0, limit := none, epoch := 0, role := srRetro, ran := 0 }
/-- The state of a placement with its shares staged and its migration unsettled (R162, R166). -/
def withPlacement (s : State) (c : Cmd) (t : Task) (l : List (Nat × Share)) : State :=
  setTask t.id (fun k => { k with migration := some ⟨c.id, 2 ^ 64, placeOverlap c, none, false⟩ }) (stageShares (l.map fun x => (x.1, { x.2 with limit := some 0 })) s)
/-- The store traffic of a correlator: what its sources read, and the spectra of its remote ones (R25, R148). -/
def xcorrTraffic (x : Xcorr) (i : Inlet) (mine : List Task) : List (Nat × Nat) :=
  (lcTileRead, (mine.map (·.readKbs)).sum) ::
    if (x.sources.filter (·.remote)).length * remoteRate x i * 1000 = 0 then [] else [(lcLinks, (x.sources.filter (·.remote)).length * remoteRate x i * 1000)]
/-- The correlator that XCORR_CONFIG forms, and the state with it and its source tasks listed (R145, R146). -/
def newXcorr (s : State) (raw : Data) (i : Inlet) : Xcorr := xcOf raw (takeTaskId s).1 i
def withNewXcorr (s : State) (raw : Data) (i : Inlet) : State :=
  let x := newXcorr s raw i
  addSources x.id ((List.range x.sources.length).zip x.sources) { (takeTaskId s).2 with xcorrs := (takeTaskId s).2.xcorrs ++ [x] }


/-- A packet that a port delivers to this device, which u is once it is awake: for the neighbour, or, by a port that carries ordinary
traffic, addressed to it or broadcast (R344, R346, R353, R354); an UNASSIGNED device takes part in TIME, ENUM for a neighbour and
heartbeats alone (R348). A TIME exchange wakes nothing but the port (R376, R499). -/
abbrev Arrives (s u : State) (n : Fin 4) (p : Packet) : Prop :=
  u = (if p.type = ptTime then s else wakeLull s) ∧ u.link.ports[n].isUp = true ∧
    ((u.link.assigned = true ∧ (p.neighbour = true ∨ (u.link.ports[n].carries = true ∧ (p.bcast = true ∨ p.dstDid = u.link.did)))) ∨
     (u.link.assigned = false ∧ p.neighbour = true ∧ (p.type = ptTime ∨ p.type = ptEnum ∨ isPacket p ptMsg 4 = true)))
/-- A port as training leaves it (R338, R339, R343). -/
def trainedPort (r : TrainResult) (w up : Nat) (p : Port) : Port :=
  { p with state := if r.closesCycle then .standby else .active, width := w, rate := r.rate, narrowed := decide (w = 4), upperHalf := decide (w = 4) && !decide ((r.lanesHere &&& r.lanesPeer).toNat % 16 = 15), longChannel := false,
           peerDid := if r.peerAssigned then r.peerDid else p.peerDid, peerSerial := r.peerSerial, peerAssigned := r.peerAssigned, retraining := false, lastRetrain := none,
           txSeq := 1, rxSeq := 1, ackedSeq := 0, nakSent := false, replay := [], waiting := [], replaysHere := 0, credits := #v[16, 16, 256, 128], owed := Vector.replicate 4 0,
           lastGood := up, heartbeatSeen := up, heartbeatSent := up, syncSent := up, delayReqSent := none }
/-- What the root does about a range that is lost: reported once, and its devices absent (R371, R381). -/
def reportLoss (did : Nat) (s : State) : State :=
  let hit := fun (r : CutRange) => decide (r.lo ≤ did ∧ did ≤ r.hi) && !r.reported
  let u := forL (s.link.unreachable.filter hit) (fun r s => raise 0xA44 [.h r.lo, .h r.hi] s) s
  { u with link := { u.link with unreachable := lmod u.link.unreachable hit (fun r => { r with reported := true }),
                                 known := lmod u.link.known (fun k => inRanges ((s.link.unreachable.filter hit).map fun r => (r.lo, r.hi)) k.did) fun k => { k with present := false } } }

/-- GAP causes from the highest rank to the lowest (R559). -/
def ranks : List Nat := [9, 3, 8, 2, 10, 7, 6, 4, 5, 1]
/-- Of some causes, c is one and none ranks higher (R559). -/
abbrev HighestOf (c : Nat) (l : List Nat) : Prop := c ∈ l ∧ ∀ d ∈ l, ranks.idxOf c ≤ ranks.idxOf d

/-- Sector k lies whole in a span (R75, R80). -/
abbrev CoversSector (a n k : Nat) : Prop := a ≤ k * 32 ∧ k * 32 + 32 ≤ a + n

/-- A hash mask is valid for its pivot (R74): it has its pivot, no other pivot, bits 5:0 clear and none above the highest row bit. -/
abbrev ValidMask (clamshell : Bool) (pivot m : Nat) : Prop :=
  m.testBit pivot = true ∧ (∀ p ∈ [8, 9, 10, 11, 12, 13, 14, 15], p ≠ pivot → m.testBit p = false) ∧ (∀ b < 6, m.testBit b = false) ∧
    ∀ b, (if clamshell then 34 else 33) < b → m.testBit b = false
/-- The masks of the store configuration block, with the defaults in place of zeros. -/
def blockMasks (st : Store) : List Nat := (List.zip st.cfg.masks (defaultMasks st.clamshell)).map fun x => if x.1 = 0 then x.2 else x.1
/-- The event that raising an identifier now forms (R430): its values in order, each in the next field of its width. -/
def eventOf (s : State) (ev : Nat) (vals : List Val) : Event :=
  let d := packVals (s.evt.sinceEntry.at_ ev + 1) (s.evt.sinceEntry.at_ (ev + 0x1000)) vals []
  ⟨ev, s.clk.tick, u64At d 0, u64At d 8, false, s.link.did⟩
end Sys2Proof.Claims

open Sys2Proof Sys2Proof.Machine Sys2Proof.Safety Sys2Proof.Claims

/-- For every command c and state s, step of s with c at the front of its queue is exec of c on s with the rest of the queue. -/
def Obligations.StepRunsFront : Prop :=
  ∀ (c : Instr) (rest : List Instr) (s : State), step { s with pending := c :: rest } = exec c { s with pending := rest }

/-- On an empty queue step answers a next state (log 8, the model's choice): the time base and the uptime advance by 1, or by 32 while the
root runs from crystal bypass and the crystal lives (R489); a tile whose sequencer executes changes its sequencer, its state and its wait
reason alone, and every other tile nothing (R169); at most one latency message that is due leaves (R406); then what falls due in Squall is
done (R203, R219), and where no edge and no disarm without a command is pending, nothing else changes. -/
def Obligations.IdleStepPassesOneCoreCycle : Prop :=
  ∀ s : State, s.pending = [] →
    ∃ u, step s = .next (squallDue u) ∧
      u.clk.tick = (s.clk.tick + if rootBypassed s ∧ ¬ s.clk.crystalLost then 32 else 1) % 2 ^ 64 ∧
      u.clk.up = s.clk.up + (if rootBypassed s ∧ ¬ s.clk.crystalLost then 32 else 1) ∧
      u = { s with clk := { s.clk with tick := u.clk.tick, up := u.clk.up }, tiles := u.tiles, pcie := { s.pcie with messages := u.pcie.messages } } ∧
      (∀ n : Fin 20, u.tiles[n] = { s.tiles[n] with state := u.tiles[n].state, waitReason := u.tiles[n].waitReason, seq := u.tiles[n].seq }) ∧
      (∀ n : Fin 20, s.tiles[n].executes = false ∨ rootBypassed s = true → u.tiles[n] = s.tiles[n]) ∧
      (∃ l, u.pcie.messages = s.pcie.messages ++ l ∧ l.length ≤ 1) ∧
      (s.squall.pendingEdges = [] → (∀ d ∈ s.squall.pendingDisarms, d.cmd ≠ none) → squallDue u = u)

/-- Where its entry passes the checks of R428, each query completes OK with the results that its rule names, writes its block to the
buffer that its entry names, and changes nothing else: DEV_IDENTIFY (R439), DEV_STATUS (R440), POWER_QUERY (R444, R507; address 0 writes
no block), CAL_STATUS (R447), MONITOR_CONFIG with the summary selector (R448, R529). DEV_RESET (R441, R564): scopes 0 and 5 complete at
once and note an action due 1 ms later; scope 1 of a FENCED tile clears it, judges its self-test and completes; scope 2 is granted its
power and waits for the retrain; scope 3 takes its port down, trains it and waits; scope 4 resets the scan-out. The delayed action that is
due first resets the whole device or disables every queue. -/
def Obligations.DeviceCommandsAnswerAndReset : Prop :=
  (∀ (s : State) (id : Nat) (c : Cmd),
      Runs s id 0x0001 anyCmd c →
      Passes [entryCheck c [(0x10, 8)] [], deviceCheck s c, bufCheck c] →
      exec (.devIdentify id) s = .next (done c s.boot.fuses.serial.toNat (s.boot.ifMinor + 2 ^ 8 * s.boot.ifMajor + 2 ^ 16 * s.link.did)
        (writeBlock c (c.p64 0x10) (identityBlock s) s))) ∧
  (∀ (s : State) (id : Nat) (c : Cmd),
      Runs s id 0x0002 anyCmd c →
      Passes [entryCheck c [(0x10, 8)] [], deviceCheck s c, bufCheck c] →
      exec (.devStatus id) s = .next (done c s.clk.tick s.clk.lull (writeBlock c (c.p64 0x10) (statusBlock s) s))) ∧
  (∀ (s : State) (id : Nat) (c : Cmd),
      Runs s id 0x0012 anyCmd c →
      Passes [entryCheck c [(0x10, 8)] [], deviceCheck s c, bufCheck c] →
      exec (.powerQuery id) s = .next (done c (s.pwr.granted_ + 2 ^ 16 * s.pwr.limit + 2 ^ 32 * s.pwr.effective)
        (s.clk.lull + 2 ^ 8 * s.pwr.queue.length) (if c.p64 0x10 = 0 then s else writeBlock c (c.p64 0x10) (powerBlock s) s))) ∧
  (∀ (s : State) (id : Nat) (c : Cmd),
      Runs s id 0x0900 anyCmd c →
      Passes [entryCheck c [] [], deviceCheck s c] →
      exec (.calStatus id) s = .next (done c s.cal.word s.cal.endTick s)) ∧
  (∀ (s : State) (id : Nat) (c : Cmd),
      Runs s id 0x0901 (selByte 0x08 1) c →
      Passes [entryCheck c [(0x08, 2), (0x10, 8)] [], deviceCheck s c, bufCheck c] →
      exec (.monitorSummary id) s = .next (done c 0 0 (writeBlock c (c.p64 0x10) (summaryBlock s) s))) ∧
  (∀ (s : State) (id : Nat) (c : Cmd),
      Runs s id 0x0003 (selByte 0x08 0) c →
      Passes [resetEntry c 1, deviceCheck s c] →
      exec (.devResetDevice id) s = .next (done c 0 0 { s with mbx := { s.mbx with delayed := s.mbx.delayed ++ [⟨0, s.clk.up + 1280000⟩] } })) ∧
  (∀ (s : State) (id : Nat) (c : Cmd),
      Runs s id 0x0003 (selByte 0x08 5) c →
      Passes [resetEntry c 1, deviceCheck s c] →
      exec (.devResetMailbox id) s = .next (done c 0 0 { s with mbx := { s.mbx with delayed := s.mbx.delayed ++ [⟨5, s.clk.up + 1280000⟩] } })) ∧
  (∀ (s : State) (id : Nat) (c : Cmd) (n : Fin 20) (passes : Bool),
      Runs s id 0x0003 (selByte 0x08 1) c →
      Passes [resetEntry c 20, deviceCheck s c] →
      c.p8 0x09 = n.val →
      s.tiles[n].state = .fenced →
      exec (.devResetTile id passes) s = .next (done c 0 0 (tileSelfTest n passes (clearFenced n s)))) ∧
  (∀ (s : State) (id : Nat) (c : Cmd),
      Runs s id 0x0003 (selByte 0x08 2) c →
      Passes [resetEntry c 16, deviceCheck s c] →
      s.store.state = .ready →
      holdsPower s (.retrain (c.p8 0x09)) = false →
      waitsPower s (.retrain (c.p8 0x09)) = false →
      powerPossible s.pwr (cost retrainItems) = true →
      s.pwr.queue = [] →
      powerFits s.pwr (cost retrainItems) = true →
      exec (.devResetStoreChannel id) s = .next (wait c (grantItems (.retrain (c.p8 0x09)) retrainItems s))) ∧
  (∀ (s : State) (id : Nat) (c : Cmd) (n : Fin 4),
      Runs s id 0x0003 (selByte 0x08 3) c →
      Passes [resetEntry c 4, deviceCheck s c] →
      c.p8 0x09 = n.val →
      s.link.ports[n].state ≠ .disabled →
      s.link.flows.any (·.port = n.val) = false →
      exec (.devResetLinkPort id) s = .next (trainStart n (setPort n (fun p => { p with hostDown := false, retryAt := (wait c (portDown n 5 s)).clk.up })
        (wait c (portDown n 5 s))))) ∧
  (∀ (s : State) (id : Nat) (c : Cmd),
      Runs s id 0x0003 (selByte 0x08 4) c →
      Passes [resetEntry c 1, deviceCheck s c] →
      exec (.devResetScanout id) s = .next (done c 0 0 (scanReset s))) ∧
  (∀ (s : State) (d : DelayedReset) (l : List DelayedReset),
      s.mbx.delayed = d :: l →
      exec .devResetDelayedAction s = .next ((fun u => if d.scope = 0 then fullReset 7 3 u.boot.straps u else disableQueues u)
        (waitUp d.at_ { s with mbx := { s.mbx with delayed := l } })))

/-- Each setting completes with its effect: the latency tolerance (R442) and the Lull state that follows it; the power limit of 30.0 W to
185.0 W, with the limit before it and the granted total as results (R443); TIMEBASE_SET now, where its conditions hold, with the old and
the new tick as results, or waiting for a PPS_IN edge (R445); the discipline source, with the loop state as result (R446). The head of the
power queue is granted when its cost fits and its operation goes on; after 10 s it is denied (R503). Either way it leaves the queue and
its wait is counted (R507). Every 10 ms the hottest sensor sets the effective limit (R505). -/
def Obligations.PowerSettingsAndQueueTakeEffect : Prop :=
  (∀ (s : State) (id : Nat) (c : Cmd),
      Runs s id 0x0010 anyCmd c →
      Passes [entryCheck c [(0x08, 4)] [], deviceCheck s c] →
      s.store.state ≠ .selfRefresh →
      exec (.setLatencyTolerance id) s = .next (done c (lullAllowed (c.p32 0x08)) 0 (settleLull { s with pwr := { s.pwr with tolHost := c.p32 0x08 } }))) ∧
  (∀ (s : State) (id : Nat) (c : Cmd),
      Runs s id 0x0011 anyCmd c →
      Passes [entryCheck c [(0x08, 2)] [], deviceCheck s c] →
      300 ≤ c.p16 0x08 →
      c.p16 0x08 ≤ 1850 →
      exec (.setPowerLimit id) s = .next (done c s.pwr.limit s.pwr.granted_ (setEffective { s with pwr := { s.pwr with limit := c.p16 0x08 } }))) ∧
  (∀ (s : State) (id : Nat) (c : Cmd),
      Runs s id 0x0020 anyCmd c →
      Passes [entryCheck c [(0x08, 1), (0x10, 8)] [], deviceCheck s c] →
      stepAllowed s = true →
      s.link.upstream = none →
      c.p8 0x08 ≤ 1 →
      exec (.timebaseSet id) s = .next (if c.p8 0x08 = 1 then wait c s else done c s.clk.tick (c.p64 0x10) (setTime (c.p64 0x10) s))) ∧
  (∀ (s : State) (id : Nat) (c : Cmd),
      Runs s id 0x0021 anyCmd c →
      Passes [entryCheck c [(0x08, 1), (0x0C, 2)] [], deviceCheck s c] →
      c.p8 0x08 ≤ 3 →
      (c.p8 0x08 = 3 ↔ s.link.upstream.isSome = true) →
      c.p16 0x0C ≤ 1000 →
      exec (.timebaseDiscipline id) s = .next (done c (selectSource (c.p8 0x08) (if c.p16 0x0C = 0 then 10 else c.p16 0x0C) s).clk.loop.state 0
        (selectSource (c.p8 0x08) (if c.p16 0x0C = 0 then 10 else c.p16 0x0C) s))) ∧
  (∀ (s : State) (r : PowerReq) (l : List PowerReq),
      s.pwr.queue = r :: l →
      powerFits s.pwr (cost r.items) = true →
      s.boot.phase = .running →
      r.cmd = none →
      Gives .powerRequestGrant s fun t =>
        t = grantedInternal r.owner (raise 0xB52 [.w r.tag.toNat, .w (cost r.items)] (grantItems r.owner r.items (popPower s))) ∧
        (popPower s).pwr.queue = l ∧ (popPower s).pwr.waitTicks = satN 64 (s.pwr.waitTicks + (s.clk.up - r.since)) ∧
        (grantItems r.owner r.items (popPower s)).pwr.grants = s.pwr.grants ++ [⟨r.owner, r.items⟩]) ∧
  (∀ (s : State) (r : PowerReq) (l : List PowerReq) (id : Nat) (c : Cmd),
      s.pwr.queue = r :: l →
      powerFits s.pwr (cost r.items) = true →
      s.boot.phase = .running →
      r.cmd = some id →
      findCmd (raise 0xB52 [.w r.tag.toNat, .w (cost r.items)] (grantItems r.owner r.items (popPower s))) id = some c →
      Gives .powerRequestGrant s fun t =>
        t = grantedCmd { c with waiting := false } r.owner (setCmd id (fun c => { c with waiting := false })
          (raise 0xB52 [.w r.tag.toNat, .w (cost r.items)] (grantItems r.owner r.items (popPower s))))) ∧
  (∀ (s : State) (r : PowerReq) (l : List PowerReq),
      s.pwr.queue = r :: l →
      s.boot.phase = .running →
      r.cmd = none →
      Gives .powerRequestTimeout s fun t =>
        t = deniedInternal r.owner (denyPower r.tag (cost r.items) (popPower (waitUp (r.since + 12800000000) s))) ∧
        (popPower (waitUp (r.since + 12800000000) s)).pwr.queue = l) ∧
  (∀ (s : State),
      s.boot.phase = .running →
      Gives .thermalEvaluation s fun t => t.fw.tjEval = tjMax s ∧ t.pwr.effective = effectiveLimit s.pwr.limit (tjMax s) ∧
        t.clk.up = max s.clk.up (s.fw.lastEval + 12800000) ∧ t.fw.lastEval = t.clk.up ∧
        t = { sideOf s t with clk := t.clk, pwr := t.pwr, fw := { s.fw with tjEval := t.fw.tjEval, lastEval := t.fw.lastEval } })

/-- A lost reference sends the root to HOLDOVER and the root relocks on the crystal (R478, R479); a locked synthesizer that loses lock
goes to HOLDOVER with its unlock counted, and an inlet's marks its inlet unlocked (R65, R486); a relock, of the root while it has a
reference, leaves HOLDOVER or BYPASS, not before its lock cycles have passed (R484), and the memory's lets the store go on (R104); a
departure from the window is BYPASS, counted in the life ledger, with the domain's safe state (R487); a started synthesizer locks, and
what waited for it goes on. The other synthesizers keep their state. -/
def Obligations.ClockDomainsFollowTheirReferences : Prop :=
  (∀ (s : State),
      2 ≤ s.clk.refInUse →
      s.clk.refInUse ≤ 4 →
      Gives .refinLoss s fun t => t.clk.refInUse = 1 ∧ (s.clk.synths[0].state = .locked → t.clk.synths[0].state = .holdover) ∧
        (∀ k : Fin 11, k ≠ 0 → t.clk.synths[k] = s.clk.synths[k]) ∧ t = { sideOf s t with clk := t.clk }) ∧
  (∀ (s : State),
      s.clk.refInUse = 1 →
      s.clk.crystalLost = false →
      Gives .crystalLoss s fun t => t.clk.crystalLost = true ∧ (s.clk.synths[0].state = .locked → t.clk.synths[0].state = .holdover) ∧
        t.clk.refInUse = 1 ∧ t = { sideOf s t with clk := t.clk }) ∧
  (∀ (s : State) (k : Fin 11),
      s.clk.synths[k].state = .locked →
      k.val < 3 ∨ 7 ≤ k.val →
      Gives (.synthLockLoss k) s fun t => t.clk.synths[k].state = .holdover ∧ t.clk.synths[k].unlocks = satN 16 (s.clk.synths[k].unlocks + 1) ∧
        (∀ j : Fin 11, j ≠ k → t.clk.synths[j] = s.clk.synths[j]) ∧ t = { sideOf s t with clk := t.clk }) ∧
  (∀ (s : State) (n : Fin 4),
      s.clk.synths[(⟨n.val + 3, by omega⟩ : Fin 11)].state = .locked →
      Gives (.synthLockLoss ⟨n.val + 3, by omega⟩) s fun t => t.clk.synths[(⟨n.val + 3, by omega⟩ : Fin 11)].state = .holdover ∧
        t.clk.synths[(⟨n.val + 3, by omega⟩ : Fin 11)].unlocks = satN 16 (s.clk.synths[(⟨n.val + 3, by omega⟩ : Fin 11)].unlocks + 1) ∧
        (s.inlets[n].state ≠ .stopped → s.inlets[n].state ≠ .starting → t.inlets[n].unlocked = true) ∧
        (∀ j : Fin 4, j ≠ n → t.inlets[j] = s.inlets[j]) ∧ t = { sideOf s t with clk := t.clk, inlets := t.inlets, store := t.store }) ∧
  (∀ (s : State) (k : Fin 11),
      s.clk.synths[k].state = .holdover →
      k ≠ 1 →
      hasReference s k = true →
      Gives (.synthRelock k) s fun t => t.clk.synths[k].state = .locked ∧ t.clk.synths[k].unlocks = s.clk.synths[k].unlocks ∧ t.clk.up = max s.clk.up (s.clk.synths[k].since + lockCycles s k.val * phaseTicks s k.val) ∧
        (∀ j : Fin 11, j ≠ k → t.clk.synths[j] = s.clk.synths[j]) ∧ t = { sideOf s t with clk := t.clk }) ∧
  (∀ (s : State),
      s.clk.synths[1].state = .holdover →
      Gives (.synthRelock 1) s fun t => ∃ u, t = resumeStore u ∧ u.clk.synths[1].state = .locked ∧ u = { sideOf s u with clk := u.clk }) ∧
  (∀ (s : State) (k : Fin 11),
      s.clk.synths[k].state = .bypass →
      hasReference s k = true →
      exec (.synthRelock k) s = .next (afterBypass k (raise (evSynth k 3) [] (setSynth k.val (fun y => { y with state := .locked }) (waitLock k s))))) ∧
  (∀ (s : State) (k : Fin 11),
      s.clk.synths[k].state = .locked →
      rootBypassed s = false →
      s.clk.crystalLost = false ∨ k = 0 →
      Gives (.synthFrequencyDeparture k) s fun t => ∃ u, t = safeState k (raise (evSynth k 2) [] u) ∧ u.clk.synths[k].state = .bypass ∧
        u.life.bypasses = satN 32 (s.life.bypasses + 1) ∧ (∀ j : Fin 11, j ≠ k → u.clk.synths[j] = s.clk.synths[j]) ∧ u = { s with clk := u.clk, life := u.life }) ∧
  (∀ (s : State) (k : Fin 11),
      s.clk.synths[k].state = .acquiring →
      k.val ≠ 2 →
      ¬ (3 ≤ k.val ∧ k.val < 7) →
      Gives (.synthesizerLocked k) s fun t => t.clk.synths[k].state = .locked ∧ t.clk.up = max s.clk.up (s.clk.synths[k].since + lockCycles s k.val * phaseTicks s k.val) ∧
        (∀ j : Fin 11, j ≠ k → t.clk.synths[j] = s.clk.synths[j]) ∧ t = { sideOf s t with clk := t.clk }) ∧
  (∀ (s : State),
      s.clk.synths[2].state = .acquiring →
      Gives (.synthesizerLocked 2) s fun t => ∃ u, t = pixelLocked u ∧ u.clk.synths[2].state = .locked ∧ u = { sideOf s u with clk := u.clk }) ∧
  (∀ (s : State) (n : Fin 4),
      s.clk.synths[(⟨n.val + 3, by omega⟩ : Fin 11)].state = .acquiring →
      Gives (.synthesizerLocked ⟨n.val + 3, by omega⟩) s fun t => ∃ u, t = inletPllLocked n u ∧
        u.clk.synths[(⟨n.val + 3, by omega⟩ : Fin 11)].state = .locked ∧ u = { sideOf s u with clk := u.clk })

/-- An edge of PPS_IN that is taken captures the tick and its fraction, serves waiting TIMEBASE_SET commands and steers (R471, R490 to
R492, R590); no edge for 1.1 s sets PPS_MISSED and the loop loses its source (R471, R492); HOLDOVER past holdover_s makes time UNCERTAIN
(R495); PPS_OUT rises at a whole second and falls 100 ms later (R496); a PTM dialog opens with a request, a response completes it, and a
lost correlation is reported (R403, R404). -/
def Obligations.TimeSourcesAreServed : Prop :=
  (∀ (s : State) (frac : U16),
      RegsCanonical s →
      s.jtag.pinsTaken = false →
      (∀ u, s.clk.ppsEdgeUp = some u → u + 640000000 ≤ s.clk.up) →
      s.mbx.cmds.filter (fun c => c.waiting && c.opcode = 0x0020) = [] →
      s.clk.loop.source ≠ 1 →
      Gives (.ppsInEdge frac) s fun t => t.reg64 kPpsLo kPpsHi = s.clk.tick % 2 ^ 64 ∧ (t.reg kPpsFrac).toNat = frac.toNat ∧
        t = { s with regs := t.regs, clk := { s.clk with ppsEdgeUp := some s.clk.up } }) ∧
  (∀ (s : State) (frac : U16),
      RegsCanonical s →
      s.jtag.pinsTaken = false →
      (∀ u, s.clk.ppsEdgeUp = some u → u + 640000000 ≤ s.clk.up) →
      s.mbx.cmds.filter (fun c => c.waiting && c.opcode = 0x0020) = [] →
      s.clk.loop.source = 1 →
      Gives (.ppsInEdge frac) s fun t => ∃ u, t = loopUpdate (ppsError s.clk.tick frac.toNat) u ∧
        u = { s with regs := u.regs, clk := { s.clk with ppsEdgeUp := some s.clk.up } } ∧ u.reg64 kPpsLo kPpsHi = s.clk.tick % 2 ^ 64) ∧
  (∀ (s : State),
      s.clk.loop.source = 1 →
      s.clk.loop.state = 1 ∨ s.clk.loop.state = 2 →
      Gives .ppsMissedTimeout s fun t => t.clk.loop.state = 3 ∧ t.clk.up = max s.clk.up (max (s.clk.ppsEdgeUp.getD 0) s.clk.loop.since + 1408000000) ∧
        t = { sideOf s t with clk := t.clk }) ∧
  (∀ (s : State),
      s.clk.loop.state = 3 →
      Gives .holdoverTimeout s fun t => t.clk.uncertain = true ∧ s.clk.loop.since + s.clk.cfg.holdoverS * 1280000000 < t.clk.up ∧
        t = { sideOf s t with clk := t.clk }) ∧
  (∀ (s : State),
      s.clk.cfg.ppsOutEn = true →
      Gives .ppsOutPulse s fun t => t.clk.ppsOut = !s.clk.ppsOut ∧ t = { s with clk := t.clk } ∧
        (s.clk.ppsOut = false → t.clk.tick = (s.clk.tick + 1279999999) / 1280000000 * 1280000000 % 2 ^ 64) ∧
        (s.clk.ppsOut = true → t.clk.tick % 2 ^ 64 = max s.clk.tick (s.clk.tick / 1280000000 * 1280000000 + 128000000) % 2 ^ 64)) ∧
  (∀ (s : State),
      ptmEnabled s = true →
      s.pcie.linkUp = true →
      s.pcie.d3 = false →
      s.pcie.ptmOpen = none →
      s.clk.lull < 2 →
      Gives .ptmDialogStart s fun t => ∃ frac, frac < 65536 ∧ t.pcie.ptmOpen = some (t.clk.tick * 65536 + frac) ∧
        t.pcie.messages = s.pcie.messages ++ [.ptmRequest t.clk.tick frac] ∧ t.pcie.ptmLast = t.clk.up ∧
        t = { s with clk := t.clk, free := s.free + 1, pcie := { s.pcie with ptmOpen := t.pcie.ptmOpen, ptmLast := t.pcie.ptmLast, messages := t.pcie.messages } }) ∧
  (∀ (s : State) (masterNs : U64) (frac : U16),
      RegsCanonical s →
      s.pcie.ptmOpen.isSome = true →
      ptmEnabled s = true →
      s.clk.loop.source ≠ 2 →
      Gives (.ptmResponse masterNs frac) s fun t => t.pcie.ptmOpen = none ∧ t.pcie.ptmValid = true ∧
        t.reg64 kPtmMasterLo kPtmMasterHi = masterNs.toNat ∧ t.reg64 kPtmLocalLo kPtmLocalHi = s.clk.tick % 2 ^ 64 ∧ (t.reg kPtmLocalFrac).toNat = frac.toNat ∧
        t = { s with regs := t.regs, pcie := { s.pcie with ptmOpen := none, ptmValid := true } }) ∧
  (∀ (s : State),
      s.pcie.ptmValid = true →
      s.clk.loop.source ≠ 2 →
      Gives .ptmCorrelationInvalid s fun t => t = raise 0x0E7 [] { s with pcie := { s.pcie with ptmValid := false, ptmOpen := none } })

/-- Lull-2 is entered 10 us after its conditions hold, with the tiles gated and the ACTIVE ports in low power (R497, R498); a wake leaves
a deep state (R499); once a second the ledger credits the junction temperature, once a day the wear monitors, and every 600 s, or at once
after a count of starts, fences or slot switches, the entry of the next sequence number is programmed into the next erased slot (R568 to
R571); the firmware services the watchdog every millisecond (R565). -/
def Obligations.LullAndLedgerFollowTime : Prop :=
  (∀ (s : State),
      s.boot.phase = .running →
      2 ≤ lullTarget s →
      s.clk.lull < 2 →
      Gives .lullEntry s fun t => t.clk.lull = 2 ∧ t.clk.up = s.clk.up + 12800 ∧ (∀ n : Fin 20, t.tiles[n].powered = false) ∧
        (∀ n : Fin 4, s.link.ports[n].state = .active → t.link.ports[n].state = .lowPower)) ∧
  (∀ (s : State),
      2 ≤ s.clk.lull →
      Gives .lullWake s fun t => t.clk.lull = min 1 (lullAllowed (lullTolerance s)) ∧ t.clk.lull < 2) ∧
  (∀ (s : State),
      s.boot.phase = .running →
      Gives .lifeLedgerSample s fun t => t.clk.up = max s.clk.up (s.life.lastSample + 1280000000) ∧ t.life.tjLast = tjMax s ∧
        t.life.poweredS = s.life.poweredS + (t.clk.up - s.life.lastSample) / 1280000000 ∧
        t = { sideOf s t with clk := t.clk, life := t.life }) ∧
  (∀ (s : State),
      s.boot.phase = .running →
      Gives .wearMonitorDaily s fun t => t.clk.up = max s.clk.up (s.life.lastDaily + 86400 * 1280000000) ∧ t.life.wearPpm = s.brz.wear ∧ t.life.wearWorst = Vector.zipWith min s.life.wearWorst s.brz.wear ∧
        t.life.lastDaily = t.clk.up ∧ t = { sideOf s t with clk := t.clk, life := t.life }) ∧
  (∀ (s : State) (k : Nat),
      s.boot.phase = .running →
      s.life.countsChanged = true →
      k = nextErased s 256 s.life.slot →
      Gives .lifeLedgerWrite s fun t => t.clk.up = s.clk.up ∧ t.life.seq = s.life.seq + 1 ∧ t.life.countsChanged = false ∧ t.life.slot = (k + 1) % 4096 ∧ t.life.lastWrite = t.clk.up ∧
        flashRead t.boot.flash (ledgerAt k) 256 = lifeEntry { s with life := { s.life with seq := s.life.seq + 1 } } ∧
        t = { s with clk := t.clk, life := t.life, boot := { s.boot with flash := t.boot.flash } }) ∧
  (∀ (s : State) (k : Nat),
      s.boot.phase = .running →
      s.life.countsChanged = false →
      k = nextErased s 256 s.life.slot →
      Gives .lifeLedgerWrite s fun t => t.clk.up = max s.clk.up (s.life.lastWrite + 600 * 1280000000) ∧ t.life.seq = s.life.seq + 1 ∧ t.life.countsChanged = false ∧ t.life.slot = (k + 1) % 4096 ∧ t.life.lastWrite = t.clk.up ∧
        flashRead t.boot.flash (ledgerAt k) 256 = lifeEntry { s with life := { s.life with seq := s.life.seq + 1 } } ∧
        t = { s with clk := t.clk, life := t.life, boot := { s.boot with flash := t.boot.flash } }) ∧
  (∀ (s : State),
      RegsCanonical s →
      s.fw.runs = true →
      s.clk.lull ≠ 3 →
      Gives .firmwareHeartbeat s fun t => (t.reg kHeartbeat) = s.reg kHeartbeat + 1 ∧ t.clk.up = max s.clk.up (s.fw.lastBeat + 1280000) ∧
        t.fw.lastService = t.clk.up ∧ t = { s with clk := t.clk, regs := t.regs, fw := { s.fw with lastBeat := t.clk.up, lastService := t.clk.up } })

/-- A running queue with entries waiting and room in its CPLQ fetches the entry at its head (R417, R423): the head advances, the command
takes the next number, and it begins at once where its queue's order and FENCE allow (R417, R422). A failed fetch puts the queue into
ERROR (R429). A held command that may start begins; beginning a known form in a local queue starts it. A write of 1 to ENABLE of a
disabled queue samples its fields, empties it and enables it (R415); a write of 0 disables it, and a CMDQ then completes what FENCE holds
back with E_ABORTED, aux 2 (R416). The other queues of the kind are unchanged. -/
def Obligations.CommandsAreFetchedAndQueuesSwitched : Prop :=
  (∀ (s : State) (q : Fin 8) (d : Data) (c : Cmd),
      mbxReady s = true →
      s.fw.runs = true →
      s.mbx.cmdqs[q].enabled = true →
      s.mbx.cmdqs[q].error = false →
      s.mbx.cmdqs[q].head ≠ s.mbx.cmdqs[q].tail →
      cplqRoom s s.mbx.cmdqs[q].cplq = true →
      s.mbx.cmds.length < 256 →
      c = { id := s.mbx.nextId, origin := .queue q, cplq := s.mbx.cmdqs[q].cplq, bytes := if s.mbx.cmdqs[q].remote then d else d.take 64, started := false, waiting := false, blocks := [] } →
      exec (.commandFetch q (some d)) s = .next ((fun u => if mayStart u c then beginCmd c u else u)
        { s with mbx := { s.mbx with cmdqs := vmod s.mbx.cmdqs q (fun x => { x with head := (x.head + 1) % x.size }), nextId := s.mbx.nextId + 1, cmds := s.mbx.cmds ++ [c] } })) ∧
  (∀ (s : State) (q : Fin 8),
      mbxReady s = true →
      s.fw.runs = true →
      s.mbx.cmdqs[q].enabled = true →
      s.mbx.cmdqs[q].error = false →
      s.mbx.cmdqs[q].head ≠ s.mbx.cmdqs[q].tail →
      cplqRoom s s.mbx.cmdqs[q].cplq = true →
      Gives (.commandFetch q none) s fun t => t.mbx.cmdqs[q].error = true ∧ t.mbx.cmdqs[q].head = s.mbx.cmdqs[q].head ∧ t.mbx.cmds = s.mbx.cmds ∧ t = sideOf s t) ∧
  (∀ (s : State) (id : Nat) (c : Cmd),
      findCmd s id = some c →
      c.started = false →
      mayStart s c = true →
      exec (.fenceRelease id) s = .next (beginCmd c s)) ∧
  (∀ (s : State) (q : Fin 8) (id : Nat) (c : Cmd),
      findCmd s id = some c →
      c.started = false →
      mayStart s c = true →
      c.origin = .queue q →
      s.mbx.cmdqs[q].remote = false →
      formCheck s c = none →
      exec (.fenceRelease id) s = .next (setCmd id (fun c => { c with started := true }) s)) ∧
  (∀ (s : State) (q : Fin 8) (ctrl : U32),
      Reaches s →
      mbxReady s = true →
      RegsCanonical s →
      s.mbx.cmdqs[q].enabled = false →
      Gives (.cmdqEnable q ctrl) s fun t => t.mbx.cmdqs[q].enabled = true ∧ t.mbx.cmdqs[q].error = false ∧ t.mbx.cmdqs[q].head = 0 ∧ t.mbx.cmdqs[q].tail = 0 ∧
        t.mbx.cmdqs[q].size = s.field (kCmdq q.val 0x0C) 11 0 + 1 ∧ t.mbx.cmdqs[q].cplq.val = bits ctrl.toNat 10 8 ∧
        (∀ j : Fin 8, j ≠ q → t.mbx.cmdqs[j] = s.mbx.cmdqs[j]) ∧ t = { s with regs := t.regs, mbx := { s.mbx with cmdqs := t.mbx.cmdqs } }) ∧
  (∀ (s : State) (q : Fin 8) (ctrl : U32),
      Reaches s →
      mbxReady s = true →
      RegsCanonical s →
      s.mbx.cmdqs[q].enabled = true →
      Gives (.cmdqDisable q ctrl) s fun t => ∃ u, t = forL (heldCmds u q) (fun c s => complete c stAborted 0 0 2 s) u ∧ u.mbx.cmds = s.mbx.cmds ∧
        u.mbx.cmdqs[q].enabled = false ∧ (∀ j : Fin 8, j ≠ q → u.mbx.cmdqs[j] = s.mbx.cmdqs[j]) ∧
        u = { s with regs := u.regs, mbx := { s.mbx with cmdqs := u.mbx.cmdqs } }) ∧
  (∀ (s : State) (q : Fin 8) (ctrl : U32),
      Reaches s →
      mbxReady s = true →
      RegsCanonical s →
      s.mbx.cplqs[q].enabled = false →
      Gives (.cplqEnable q ctrl) s fun t => t.mbx.cplqs[q].enabled = true ∧ t.mbx.cplqs[q].head = 0 ∧ t.mbx.cplqs[q].tail = 0 ∧ t.mbx.cplqs[q].phase = true ∧
        t.mbx.cplqs[q].size = s.field (kCplq q.val 0x0C) 11 0 + 1 ∧
        (∀ j : Fin 8, j ≠ q → t.mbx.cplqs[j] = s.mbx.cplqs[j]) ∧ t = { s with regs := t.regs, mbx := { s.mbx with cplqs := t.mbx.cplqs } }) ∧
  (∀ (s : State) (q : Fin 8) (ctrl : U32),
      Reaches s →
      mbxReady s = true →
      RegsCanonical s →
      s.mbx.cplqs[q].enabled = true →
      Gives (.cplqDisable q ctrl) s fun t => t.mbx.cplqs = vmod s.mbx.cplqs q (fun x => { x with enabled := false }) ∧
        t = { s with regs := t.regs, mbx := { s.mbx with cplqs := t.mbx.cplqs } }) ∧
  (∀ (s : State) (q : Fin 4) (ctrl : U32),
      Reaches s →
      mbxReady s = true →
      RegsCanonical s →
      s.mbx.evqs[q].enabled = false →
      s.evt.logs[q] = [] →
      s.evt.logLost[q] = 0 →
      Gives (.evqEnable q ctrl) s fun t => t.mbx.evqs[q].enabled = true ∧ t.mbx.evqs[q].head = 0 ∧ t.mbx.evqs[q].tail = 0 ∧ t.mbx.evqs[q].overflow = false ∧
        t.mbx.evqs[q].size = s.field (kEvq q.val 0x0C) 11 0 + 1 ∧
        (∀ j : Fin 4, j ≠ q → t.mbx.evqs[j] = s.mbx.evqs[j]) ∧ t = { s with regs := t.regs, mbx := { s.mbx with evqs := t.mbx.evqs } }) ∧
  (∀ (s : State) (q : Fin 4) (ctrl : U32),
      Reaches s →
      mbxReady s = true →
      RegsCanonical s →
      s.mbx.evqs[q].enabled = true →
      Gives (.evqDisable q ctrl) s fun t => t.mbx.evqs = vmod s.mbx.evqs q (fun x => { x with enabled := false }) ∧
        t = { s with regs := t.regs, mbx := { s.mbx with evqs := t.mbx.evqs } })

/-- A doorbell write that reaches the engine with the mailbox ready moves its index where the value names at most what its queue allows
(R420); an 8-byte write, or a 4-byte write of its low half (R389). A value that is not taken is counted in MBX_DB_IGNORED and raises EV
0x013. A stream head takes 8-byte writes alone (R301). Nothing else changes. -/
def Obligations.DoorbellsMoveQueueIndices : Prop :=
  (∀ (s : State) (q : Fin 8) (value : U64),
      Reaches s →
      mbxReady s = true →
      s.mbx.cmdqs[q].enabled = true →
      value.toNat < s.mbx.cmdqs[q].size →
      (value.toNat + s.mbx.cmdqs[q].size - s.mbx.cmdqs[q].tail) % s.mbx.cmdqs[q].size ≤ s.mbx.cmdqs[q].size - 1 - s.mbx.cmdqs[q].waiting_ →
      exec (.cmdqTailDoorbell q value 8) s = .next { s with mbx := { s.mbx with cmdqs := vmod s.mbx.cmdqs q fun x => { x with tail := value.toNat } } }) ∧
  (∀ (s : State) (q : Fin 8) (value : U64),
      Reaches s →
      mbxReady s = true →
      s.mbx.cmdqs[q].size ≤ value.toNat →
      exec (.cmdqTailDoorbell q value 8) s = .next (raise 0x013 [.h 0, .h q.val, .q value.toNat] (s.countSat kDbIgnored 1))) ∧
  (∀ (s : State) (q : Fin 8) (value : U64),
      Reaches s →
      mbxReady s = true →
      s.mbx.cplqs[q].takes value.toNat = true →
      exec (.cplqHeadDoorbell q value 8) s = .next { s with mbx := { s.mbx with cplqs := vmod s.mbx.cplqs q fun x => { x with head := value.toNat } } }) ∧
  (∀ (s : State) (q : Fin 8) (value : U64),
      Reaches s →
      mbxReady s = true →
      s.mbx.cplqs[q].takes (value.toNat % 2 ^ 32) = true →
      exec (.cplqHeadDoorbell q value 4) s = .next { s with mbx := { s.mbx with cplqs := vmod s.mbx.cplqs q fun x => { x with head := value.toNat % 2 ^ 32 } } }) ∧
  (∀ (s : State) (q : Fin 4) (value : U64),
      Reaches s →
      mbxReady s = true →
      s.mbx.evqs[q].takes value.toNat = true →
      exec (.evqHeadDoorbell q value 8) s = .next (evqResume q { s with mbx := { s.mbx with evqs := vmod s.mbx.evqs q fun x => { x with head := value.toNat } } })) ∧
  (∀ (s : State) (n : Fin 16) (value : U64),
      Reaches s →
      mbxReady s = true →
      s.tw[n].dest = 0 →
      s.tw[n].state = .open_ ∨ s.tw[n].state = .paused ∨ s.tw[n].state = .closing →
      value.toNat % 64 = 0 →
      s.tw[n].head ≤ value.toNat →
      value.toNat ≤ s.tw[n].tail →
      exec (.streamHeadDoorbell n value 8) s = .next { s with tw := vmod s.tw n fun x => { x with head := value.toNat } }) ∧
  (∀ (s : State) (n : Fin 16) (value : U64),
      Reaches s →
      mbxReady s = true →
      exec (.streamHeadDoorbell n value 4) s = .next (refusedWrite s))

/-- A whole dword write to a listed register that reaches the engine leaves what the access codes of R7 give and starts what its register
starts (R455, R458); an alias write does the same for one bit (R463, R464); a write without all its bytes or off a dword is refused
(R389), and one to a doorbell is that doorbell's (R420). SNAP captures the tick (R472). A capture in the same clock drops a write to
CRC_CFG_REF or EVT_FIRST and reports it (R462); otherwise the value lands. Clearing a vector's mask sends its pending message (R396).
APPLY moves the BAR4 window or refuses (R392, R395). QUIESCE is written (R410). -/
def Obligations.RegisterWritesLand : Prop :=
  (∀ (s : State) (o : Nat) (v : U32) (same : SameClock) (i : RegInfo),
      Reaches s →
      o % 4 = 0 →
      o < 0x100000 →
      firmwareSlotReg o = false →
      regInfo o = some i →
      exec (.registerWrite .bar2 o v 15 same) s = .next (landWrite o (wordWrite i v) same s)) ∧
  (∀ (s : State) (o : Nat) (v : U32) (same : SameClock),
      Reaches s →
      o % 4 = 0 →
      o < 0x100000 →
      regInfo o = none →
      exec (.registerWrite .bar2 o v 15 same) s = .next (badWrite s)) ∧
  (∀ (s : State) (o : Nat) (v : U32) (same : SameClock) (i : RegInfo),
      Reaches s →
      mbxReady s = true →
      o % 4 = 0 →
      o < 0x10000 →
      bar0Listed o = true →
      isDoorbell o = false →
      regInfo (bar0Key + o) = some i →
      exec (.registerWrite .bar0 o v 15 same) s = .next (landWrite (bar0Key + o) (wordWrite i v) same s)) ∧
  (∀ (s : State) (o : Nat) (v : U32) (en : BitVec 4) (same : SameClock),
      Reaches s →
      o < 0x4000000 →
      o % 4 ≠ 0 ∨ en ≠ 15 →
      exec (.registerWrite .bar2 o v en same) s = .next (refusedWrite s)) ∧
  (∀ (s : State) (o : Nat) (v : U32) (same : SameClock),
      Reaches s →
      mbxReady s = true →
      o % 4 = 0 →
      o < 0x10000 →
      bar0Listed o = true →
      isDoorbell o = true →
      exec (.registerWrite .bar0 o v 15 same) s = .next (doorbellDword o v.toNat s)) ∧
  (∀ (s : State) (k : Nat) (n : Nat) (v : U32) (same : SameClock) (i : RegInfo) (w : RegWrite),
      Reaches s →
      k % 4 = 0 →
      k < 0x100000 →
      n < 32 →
      firmwareSlotReg k = false →
      regInfo k = some i →
      bitWrite i n (v.getLsbD 0) = some w →
      exec (.bitAliasWrite (0x2000000 + k / 4 * 128 + 4 * n) v same) s = .next (landWrite k w same s)) ∧
  (∀ (s : State) (v : U32),
      Reaches s →
      RegsCanonical s →
      v.getLsbD 0 = true →
      Gives (.snap v) s fun t => t.reg64 kSnapLo kSnapHi = s.clk.tick % 2 ^ 64 ∧ t = { s with regs := t.regs }) ∧
  (∀ (s : State) (v : U32),
      Reaches s →
      RegsCanonical s →
      Gives (.evtFirstWrite v .none) s fun t => t.reg kEvtFirst = (wordWrite ((regInfo kEvtFirst).getD (roReg 0)) v).apply (s.reg kEvtFirst) ∧ t = { s with regs := t.regs }) ∧
  (∀ (s : State) (v : U32),
      Reaches s →
      exec (.evtFirstWrite v .hwCapture) s = .next (writeLost 3 kEvtFirst s)) ∧
  (∀ (s : State) (v : U32),
      Reaches s →
      RegsCanonical s →
      Gives (.crcCfgRefWrite v .none) s fun t => t.reg kCrcRef = v ∧ t = { s with regs := t.regs }) ∧
  (∀ (s : State) (v : U32),
      Reaches s →
      exec (.crcCfgRefWrite v .hwCapture) s = .next (writeLost 2 kCrcRef s)) ∧
  (∀ (s : State) (v : U32),
      Reaches s →
      RegsCanonical s →
      v.getLsbD 0 = true →
      Gives (.crcEnable v) s fun t => (t.reg kCrcCtrl).getLsbD 0 = true ∧ t = { s with regs := t.regs }) ∧
  (∀ (s : State) (v : U32),
      Reaches s →
      RegsCanonical s →
      v.getLsbD 0 = false →
      Gives (.crcEnable v) s fun t => (t.reg kCrcCtrl).getLsbD 0 = false ∧ (t.reg kCrcStatus).getLsbD 0 = false ∧
        t = { s with regs := t.regs, scn := { s.scn with crcBlank := s.scn.crcBlank / 2 * 2 } }) ∧
  (∀ (s : State) (v : U32),
      Reaches s →
      RegsCanonical s →
      v.getLsbD 0 = true →
      v.getLsbD 1 = true →
      Gives (.crcLearn v) s fun t => (t.reg kCrcCtrl).getLsbD 1 = true ∧ t = { s with regs := t.regs }) ∧
  (∀ (s : State) (n : Fin 2048),
      Reaches s →
      mbxReady s = true →
      Gives (.msixVectorUnmask n) s fun t => t = releaseVector n.val (s.setReg (kMsix n.val 12) (t.reg (kMsix n.val 12)))) ∧
  (∀ (s : State) (v : U32),
      Reaches s →
      mbxReady s = true →
      v.getLsbD 0 = true →
      Gives (.bar4WindowApply v) s fun t => t = moveWindow (s.setReg kB4Ctrl ((wordWrite ((regInfo kB4Ctrl).getD (roReg 0)) v).apply (s.reg kB4Ctrl)))) ∧
  (∀ (s : State) (v : U32),
      Reaches s →
      mbxReady s = true →
      RegsCanonical s →
      Gives (.quiesce v) s fun t => t = quiesceWritten (s.setReg kHifCtrl v))

/-- A dword write to a register leaves each of its 32 bits as the bit's access code says (R7): a plain or reserved bit takes the value
written, a W1C bit is cleared by 1 and kept by 0, a W1S or SC bit is set by 1 and kept by 0, an RO bit is kept. Premise: the bit carries
one code. -/
def Obligations.AccessCodesDecideEachBit : Prop :=
  ∀ (i : RegInfo) (v old : U32) (n : Nat), n < 32 →
    let new := (wordWrite i v).apply old
    (i.w1c.getLsbD n = false → i.w1s.getLsbD n = false → i.sc.getLsbD n = false → i.ro.getLsbD n = false → new.getLsbD n = v.getLsbD n) ∧
    (i.w1c.getLsbD n = true → i.w1s.getLsbD n = false → i.sc.getLsbD n = false → new.getLsbD n = (old.getLsbD n && !v.getLsbD n)) ∧
    (i.w1c.getLsbD n = false → (i.w1s.getLsbD n = true ∨ i.sc.getLsbD n = true) → new.getLsbD n = (old.getLsbD n || v.getLsbD n)) ∧
    (i.ro.getLsbD n = true → i.w1c.getLsbD n = false → i.w1s.getLsbD n = false → i.sc.getLsbD n = false → new.getLsbD n = old.getLsbD n)

/-- With DISP committed, a write that sets ENABLE starts the scan-out and one that clears it halts it (R282); TIMING_APPLY takes the
timing shadow at once with ENABLE = 0 and waits for the next frame start with ENABLE = 1 (R274); SHADOW_VALID of a layer waits for the
next frame start (R272); GO begins the AUX transaction that the registers name (R277). Before DISP has committed the registers alone
change (R516). SHADOW_VALID of an idle channel hands its shadow over at once and otherwise waits (R325); ABORT ends the chain of a channel
with work ABORTED and clears again (R329); writing 1 to DMA_HALT while Draught is halted resumes every channel (R331, R332). A write that
sets RUN starts the converter with a priming round, one that clears it stops converter A (R523, R524); RESTART stands until the next round
start; a write of a slot's CFG or GAIN restarts the slot's settling count (R526), and its alarm state clears while its alarm is off
(R527); the limits are taken in. -/
def Obligations.ControlBitsStartAndStopTheirBlocks : Prop :=
  (∀ (s : State) (v : U32),
      Reaches s →
      RegsCanonical s →
      domainCommitted s 7 = true →
      scnEnabled s = false →
      v.getLsbD 0 = true →
      v.getLsbD 1 = false →
      exec (.scnEnable v) s = .next (startScan (written (kScn 0) v s))) ∧
  (∀ (s : State) (v : U32),
      Reaches s →
      RegsCanonical s →
      domainCommitted s 7 = true →
      scnEnabled s = true →
      v.getLsbD 0 = false →
      v.getLsbD 1 = false →
      exec (.scnEnable v) s = .next (haltScan (written (kScn 0) v s))) ∧
  (∀ (s : State) (v : U32),
      Reaches s →
      RegsCanonical s →
      domainCommitted s 7 = false →
      exec (.scnEnable v) s = .next (written (kScn 0) v s)) ∧
  (∀ (s : State) (v : U32),
      Reaches s →
      RegsCanonical s →
      domainCommitted s 7 = true →
      scnEnabled s = false →
      v.getLsbD 0 = false →
      v.getLsbD 1 = true →
      exec (.timingApply v .none) s = .next (takeTiming (written (kScn 0) v s))) ∧
  (∀ (s : State) (v : U32),
      Reaches s →
      RegsCanonical s →
      domainCommitted s 7 = true →
      scnEnabled s = true →
      v.getLsbD 0 = true →
      v.getLsbD 1 = true →
      Gives (.timingApply v .none) s fun t => t = written (kScn 0) v s ∧ timingApplied t = true ∧ t.scn = s.scn) ∧
  (∀ (s : State) (l : Fin 4) (v : U32),
      Reaches s →
      RegsCanonical s →
      v.getLsbD 0 = true →
      Gives (.scnShadowValid l v .none) s fun t => t = written (kLayer l.val 0x24) v s ∧ (t.reg (kLayer l.val 0x24)).getLsbD 0 = true ∧ t.scn = s.scn) ∧
  (∀ (s : State) (v : U32),
      Reaches s →
      RegsCanonical s →
      domainCommitted s 7 = true →
      v.getLsbD 31 = true →
      s.scn.aux = none →
      s.scn.auxWaiting = false →
      s.scn.hpd = true →
      s.scn.link ≠ .training →
      Gives (.scnAuxGo v) s fun t => ∃ x, t.scn.aux = some x ∧ x.cmd = bits v.toNat 3 0 ∧ x.addr = s.field (kScn 0x24) 19 0 ∧ x.len = bits v.toNat 19 16 + 1 ∧ x.defers = 0 ∧ x.since = s.clk.up ∧
        t = { s with regs := t.regs, scn := { s.scn with auxWaiting := false, aux := some x } }) ∧
  (∀ (s : State) (v : U32),
      Reaches s →
      RegsCanonical s →
      domainCommitted s 7 = true →
      v.getLsbD 31 = true →
      s.scn.aux = none →
      s.scn.auxWaiting = false →
      s.scn.hpd = false →
      Gives (.scnAuxGo v) s fun t => t.field (kScn 0x20) 27 24 = 4 ∧ t.field (kScn 0x20) 31 31 = 0 ∧ t.scn.aux = none) ∧
  (∀ (s : State) (ch : Fin 32) (v : U32),
      Reaches s →
      RegsCanonical s →
      v.getLsbD 0 = true →
      s.drt.chans[ch].state = .idle →
      dmaHalted s = false →
      exec (.drtShadowValid ch v .none) s = .next (handOver ch (written (kDrt ch.val 0x04) v s))) ∧
  (∀ (s : State) (ch : Fin 32) (v : U32),
      Reaches s →
      RegsCanonical s →
      v.getLsbD 0 = true →
      s.drt.chans[ch].state ≠ .idle ∨ dmaHalted s = true →
      Gives (.drtShadowValid ch v .none) s fun t => t = written (kDrt ch.val 0x04) v s ∧ shadowValid t ch = true) ∧
  (∀ (s : State) (ch : Fin 32) (v : U32),
      Reaches s →
      RegsCanonical s →
      v.getLsbD 7 = true →
      exec (.drtAbort ch v) s = .next ((abortChan false ch (written (kDrt ch.val 0) v s)).setField (kDrt ch.val 0) 7 7 0)) ∧
  (∀ (s : State) (ch : Fin 32) (v : U32),
      Reaches s →
      RegsCanonical s →
      v.getLsbD 7 = true →
      s.drt.chans[ch].state = .idle →
      Gives (.drtAbort ch v) s fun t => t.drt = s.drt ∧ t.field (kDrt ch.val 0) 7 7 = 0 ∧ t = { s with regs := t.regs }) ∧
  (∀ (s : State) (v : U32),
      Reaches s →
      RegsCanonical s →
      dmaHalted s = true →
      v.getLsbD 31 = true →
      exec (.dmaHaltAck v) s = .next (dmaResume (written kDrtGlb v s))) ∧
  (∀ (s : State) (x : Fin 2) (v : U32),
      Reaches s →
      RegsCanonical s →
      s.brz.convs[x].state ≠ .cal →
      brzRun s x = false →
      v.getLsbD 0 = true →
      exec (.brzRun x v) s = .next (brzStart x (unsettleAll x (written (kBrz x.val 0) v s)))) ∧
  (∀ (s : State) (v : U32),
      Reaches s →
      RegsCanonical s →
      s.brz.convs[0].state ≠ .cal →
      brzRun s 0 = true →
      v.getLsbD 0 = false →
      exec (.brzRun 0 v) s = .next (setConv 0 (fun c => { c with state := .stopped, pos := 0 }) (unsettleAll 0 (written (kBrz 0 0) v s)))) ∧
  (∀ (s : State) (x : Fin 2) (v : U32),
      Reaches s →
      RegsCanonical s →
      s.brz.convs[x].state = .running →
      brzRun s x = true →
      v.getLsbD 0 = true →
      v.getLsbD 1 = true →
      Gives (.brzRestart x v) s fun t => t = unsettleAll x (written (kBrz x.val 0) v s) ∧ brzRestartBit t x = true) ∧
  (∀ (s : State) (x : Fin 2) (i : Fin 32) (v : U32),
      Reaches s →
      RegsCanonical s →
      x = 0 ∨ i.val < 28 →
      v.getLsbD 15 = true →
      exec (.brzSlotConfigWrite x i 0 v) s = .next (unsettle x i (written (kBrzSlot x.val i.val 0) v s))) ∧
  (∀ (s : State) (x : Fin 2) (i : Fin 32) (v : U32),
      Reaches s →
      RegsCanonical s →
      x = 0 ∨ i.val < 28 →
      v.getLsbD 15 = false →
      exec (.brzSlotConfigWrite x i 0 v) s = .next (setSlot x i (fun y => { y with alarm := false }) (unsettle x i (written (kBrzSlot x.val i.val 0) v s)))) ∧
  (∀ (s : State) (x : Fin 2) (i : Fin 32) (v : U32),
      Reaches s →
      RegsCanonical s →
      x = 0 ∨ i.val < 28 →
      exec (.brzSlotConfigWrite x i 1 v) s = .next (unsettle x i (written (kBrzSlot x.val i.val 4) v s))) ∧
  (∀ (s : State) (x : Fin 2) (i : Fin 32) (r : Fin 4) (v : U32),
      Reaches s →
      RegsCanonical s →
      x = 0 ∨ i.val < 28 →
      2 ≤ r.val →
      exec (.brzSlotConfigWrite x i r v) s = .next (written (kBrzSlot x.val i.val (4 * r.val)) v s)) ∧
  (∀ (s : State) (i : Fin 32) (r : Fin 4) (v : U32),
      Reaches s →
      RegsCanonical s →
      28 ≤ i.val →
      exec (.brzSlotConfigWrite 1 i r v) s = .next (badWrite s))

/-- A BAR4 read of the usable store outside FIRMWARE returns the bytes as they stand (R390); a poisoned sector makes it poisoned and is
reported (R79, R391); past the capacity it is an Unsupported Request, with the store not ready it aborts, and in D3hot it is unsupported
(R391, R405); a read changes no memory. A write into DMA or DISPLAY stores the enabled bytes and unpoisons sectors covered whole (R80,
R390), a poisoned one poisons its sectors, and elsewhere it is refused (R391). A moderation time-out signals the queue's vector (R414). -/
def Obligations.Bar4AndModerationServeTheHost : Prop :=
  (∀ (s : State) (o : Nat) (n : Nat),
      s.pcie.linkUp = true →
      s.pcie.d3 = false →
      memSpaceEnabled s = true →
      s.clk.lull < 2 →
      o + n ≤ apertureSize s →
      bar4Inside s (windowBase s + o) n = true →
      s.store.state = .ready →
      storeServes s = true →
      readPoisoned s (windowBase s + o) n = false →
      Gives (.bar4Read o n) s fun t => t.pcie.lastRead = some (.data (rawRead s (windowBase s + o) n)) ∧
        t = { sideOf s t with store := { s.store with idleSince := some s.clk.up, srAborts := t.store.srAborts } }) ∧
  (∀ (s : State) (o : Nat) (n : Nat),
      s.pcie.linkUp = true →
      s.pcie.d3 = false →
      memSpaceEnabled s = true →
      s.clk.lull < 2 →
      o + n ≤ apertureSize s →
      bar4Inside s (windowBase s + o) n = true →
      s.store.state = .ready →
      storeServes s = true →
      readPoisoned s (windowBase s + o) n = true →
      Gives (.bar4Read o n) s fun t => ∃ u, t = reportSpan (windowBase s + o) n rqHost u ∧ u.pcie.lastRead = some (.poisoned n) ∧ t.store.mem = s.store.mem ∧
        u = { sideOf s u with store := { s.store with idleSince := some s.clk.up, srAborts := u.store.srAborts } }) ∧
  (∀ (s : State) (o : Nat) (n : Nat),
      s.pcie.linkUp = true →
      s.pcie.d3 = false →
      memSpaceEnabled s = true →
      s.clk.lull < 2 →
      o + n ≤ apertureSize s →
      bar4Inside s (windowBase s + o) n = false →
      exec (.bar4Read o n) s = .next (refuseBar4 { s with pcie := { s.pcie with lastRead := some .unsupported } })) ∧
  (∀ (s : State) (o : Nat) (n : Nat),
      s.pcie.linkUp = true →
      s.pcie.d3 = false →
      memSpaceEnabled s = true →
      s.clk.lull < 2 →
      o + n ≤ apertureSize s →
      bar4Inside s (windowBase s + o) n = true →
      s.store.state ≠ .ready →
      s.store.state ≠ .selfRefresh →
      exec (.bar4Read o n) s = .next (refuseBar4 { s with pcie := { s.pcie with lastRead := some .completerAbort } })) ∧
  (∀ (s : State) (o : Nat) (n : Nat),
      s.pcie.linkUp = true →
      o + n ≤ apertureSize s →
      s.pcie.d3 = true →
      exec (.bar4Read o n) s = .next { s with pcie := { s.pcie with lastRead := some .unsupported } }) ∧
  (∀ (s : State) (o : Nat) (n : Nat),
      s.pcie.linkUp = true →
      s.pcie.d3 = false →
      memSpaceEnabled s = true →
      s.clk.lull < 2 →
      o + n ≤ apertureSize s →
      bar4Inside s (windowBase s + o) n = true →
      s.store.state = .selfRefresh →
      Gives (.bar4Read o n) s fun t => ∃ u, u = leaveSelfRefresh (storeAsk s) ∧
        t = { u with pcie := t.pcie, store := t.store, regs := t.regs, evt := t.evt, mbx := t.mbx, host := t.host, link := t.link } ∧ t.pcie.lastRead ≠ none ∧ t.store.mem = u.store.mem) ∧
  (∀ (s : State) (o : Nat) (d : List (Option Byte)),
      s.pcie.linkUp = true →
      s.pcie.d3 = false →
      memSpaceEnabled s = true →
      s.clk.lull < 2 →
      o + d.length ≤ apertureSize s →
      dmaReadable s (windowBase s + o) d.length = true →
      dmaWritable s (windowBase s + o) d.length = true →
      s.store.state = .ready →
      Memory.wf s.store.mem = true →
      Gives (.bar4Write o d false) s fun t => t = writeEnabled (windowBase s + o) d (storeAsk s) ∧
        (∀ k < d.length, ∀ b, d[k]? = some (some b) → t.store.mem.byte (windowBase s + o + k) = b) ∧
        (∀ x, (∀ k < d.length, x = windowBase s + o + k → d[k]? = some none) → t.store.mem.byte x = s.store.mem.byte x)) ∧
  (∀ (s : State) (o : Nat) (d : List (Option Byte)),
      s.pcie.linkUp = true →
      s.pcie.d3 = false →
      memSpaceEnabled s = true →
      s.clk.lull < 2 →
      o + d.length ≤ apertureSize s →
      dmaReadable s (windowBase s + o) d.length = true →
      dmaWritable s (windowBase s + o) d.length = true →
      s.store.state = .ready →
      Gives (.bar4Write o d true) s fun t => ∃ u, t = poisonSpan (windowBase s + o) d.length rqHost u ∧ (cfgDword u 0x104).getLsbD 12 = true ∧
        u = { sideOf s u with store := { s.store with idleSince := some s.clk.up, srAborts := u.store.srAborts } }) ∧
  (∀ (s : State) (o : Nat) (d : List (Option Byte)),
      s.pcie.linkUp = true →
      s.pcie.d3 = false →
      memSpaceEnabled s = true →
      s.clk.lull < 2 →
      o + d.length ≤ apertureSize s →
      bar4Inside s (windowBase s + o) d.length = false ∨ bar4Writable s (windowBase s + o) d.length = false →
      Gives (.bar4Write o d false) s fun t => ∃ u, t = refuseBar4 u ∧ u.store = s.store ∧ (cfgDword u 0x104).getLsbD 20 = true ∧ t.store = s.store) ∧
  (∀ (s : State) (q : Fin 8),
      s.mbx.cplqs[q].enabled = true →
      0 < s.mbx.cplqs[q].unsignalled →
      0 < s.mbx.cplqs[q].modUs →
      0 < s.mbx.cplqs[q].modCount →
      exec (.interruptModerationTimeout .cplq q) s = .next (signalVector s.mbx.cplqs[q].vector (setCplq q (fun x => { x with unsignalled := 0 })
        (waitUp (s.mbx.cplqs[q].firstUnsignalled + s.mbx.cplqs[q].modUs * 1280) s)))) ∧
  (∀ (s : State) (q : Fin 4),
      s.mbx.evqs[q].enabled = true →
      0 < s.mbx.evqs[q].unsignalled →
      0 < s.mbx.evqs[q].modUs →
      0 < s.mbx.evqs[q].modCount →
      exec (.interruptModerationTimeout .evq ⟨q.val, by omega⟩) s = .next (signalVector s.mbx.evqs[q].vector (setEvq q (fun x => { x with unsignalled := 0 })
        (waitUp (s.mbx.evqs[q].firstUnsignalled + s.mbx.evqs[q].modUs * 1280) s))))

/-- A configuration write while the link is up changes what its dword holds (R382, R383): the command register lets streams and pending
vectors go on where mastering allows, with the delegations checked where mastering begins (R396, R409), the AER status clears by ones, a
BAR takes its address bits above its size, MSI-X control lets pending vectors go, the Resizable BAR takes an offered size (R392, R393),
the other dwords that software may write take their value, the power state moves the port (R405), PTM control without its enable ends the
correlation (R404), and an offset nobody lists changes nothing. Link up records speed and width and reports them, once more below 32.0
GT/s x16 (R385, R412). D3hot and D0 change the power state (R405). QUIESCED follows QUIESCE and the outstanding commands (R410). -/
def Obligations.ThePortFollowsConfigurationAndPowerStates : Prop :=
  (∀ (s : State) (v : U32),
      s.pcie.linkUp = true →
      s.pcie.d3 = false →
      busMaster s = true ∨ v.getLsbD 2 = false →
      exec (.configurationWrite 0x04 v) s = .next (releaseVectors (settleHost (setCfg 0x04 (v &&& 0x547) s)))) ∧
  (∀ (s : State) (v : U32),
      s.pcie.linkUp = true →
      busMaster s = false →
      v.getLsbD 2 = true →
      Gives (.configurationWrite 0x04 v) s fun t => ∃ u, u = setCfg 0x04 (v &&& 0x547) s ∧ t = releaseVectors (settleHost (recheckDelegations (bar4Bus u) u))) ∧
  (∀ (s : State) (o : Nat) (v : U32),
      s.pcie.linkUp = true →
      o = 0x10 ∨ o = 0x14 ∨ o = 0x18 ∨ o = 0x1C ∨ o = 0x20 ∨ o = 0x24 →
      exec (.configurationWrite o v) s = .next (setCfg o (v &&& ~~~(cfgFixed s o).1) s)) ∧
  (∀ (s : State) (o : Nat) (v : U32),
      s.pcie.linkUp = true →
      o = 0x104 ∨ o = 0x110 →
      exec (.configurationWrite o v) s = .next (setCfg o (cfgDword s o &&& ~~~v) s)) ∧
  (∀ (s : State) (v : U32),
      s.pcie.linkUp = true →
      exec (.configurationWrite 0x50 v) s = .next (releaseVectors (setCfg 0x50 (v &&& 0xC0000000) s))) ∧
  (∀ (s : State) (o : Nat) (v : U32),
      s.pcie.linkUp = true →
      o = 0x78 ∨ o = 0x80 ∨ o = 0x98 →
      exec (.configurationWrite o v) s = .next (setCfg o (v &&& 0xFFFF) s)) ∧
  (∀ (s : State) (o : Nat) (v : U32),
      s.pcie.linkUp = true →
      o = 0x108 ∨ o = 0x10C ∨ o = 0x114 ∨ o = 0x254 ∨ o = 0x260 ∨ o = 0x264 →
      exec (.configurationWrite o v) s = .next (setCfg o v s)) ∧
  (∀ (s : State) (v : U32),
      s.pcie.linkUp = true →
      exec (.configurationWrite 0x3C v) s = .next (setCfg 0x3C (v &&& 0xFF) s)) ∧
  (∀ (s : State) (v : U32),
      s.pcie.linkUp = true →
      exec (.configurationWrite 0x44 v) s = .next (if v.toNat % 4 = 3 then enterD3 s else if v.toNat % 4 = 0 then leaveD3 s else s)) ∧
  (∀ (s : State) (v : U32),
      s.pcie.linkUp = true →
      barSizeOffered s (bits v.toNat 13 8) = true →
      s.pcie.barSizeLog2 ≠ bits v.toNat 13 8 + 20 →
      Gives (.configurationWrite 0x248 v) s fun t => ∃ u, t = dropUncovered u ∧ u.pcie.barSizeLog2 = bits v.toNat 13 8 + 20 ∧ u.pcie.b4Base % 2 ^ u.pcie.barSizeLog2 = 0 ∧
        u = { s with pcie := { s.pcie with barSizeLog2 := u.pcie.barSizeLog2, b4Base := u.pcie.b4Base } }) ∧
  (∀ (s : State) (v : U32),
      s.pcie.linkUp = true →
      v.getLsbD 0 = true →
      exec (.configurationWrite 0x270 v) s = .next (setCfg 0x270 (v &&& 0xFF03) s)) ∧
  (∀ (s : State) (v : U32),
      s.pcie.linkUp = true →
      v.getLsbD 0 = false →
      exec (.configurationWrite 0x270 v) s = .next (ptmInvalid (setCfg 0x270 (v &&& 0xFF03) s))) ∧
  (∀ (s : State) (o : Nat) (v : U32),
      s.pcie.linkUp = true →
      [0x04, 0x10, 0x14, 0x18, 0x1C, 0x20, 0x24, 0x3C, 0x44, 0x50, 0x78, 0x80, 0x98, 0x104, 0x108, 0x10C, 0x110, 0x114, 0x248, 0x254, 0x260, 0x264, 0x270].contains o = false →
      exec (.configurationWrite o v) s = .next s) ∧
  (∀ (s : State) (gen : Nat) (width : Nat),
      s.pcie.linkUp = false →
      s.jtag.pinsTaken = false →
      pcieReady s = true →
      1 ≤ gen →
      gen ≤ 5 →
      width = 1 ∨ width = 2 ∨ width = 4 ∨ width = 8 ∨ width = 16 →
      gen ≠ 5 ∨ width ≠ 16 →
      exec (.pcieLinkUp gen width) s = .next (settleHost (raise 0x0E1 [.h gen, .h width] (raise 0x0E0 [.h gen, .h width]
        { s with pcie := { s.pcie with linkUp := true, gen := gen, width := width, d3 := false } })))) ∧
  (∀ (s : State),
      s.pcie.linkUp = false →
      s.jtag.pinsTaken = false →
      pcieReady s = true →
      exec (.pcieLinkUp 5 16) s = .next (settleHost (raise 0x0E0 [.h 5, .h 16]
        { s with pcie := { s.pcie with linkUp := true, gen := 5, width := 16, d3 := false } }))) ∧
  (∀ (s : State),
      s.pcie.linkUp = true →
      s.pcie.d3 = false →
      exec .d3hotEntry s = .next (settleHost { s with pcie := { s.pcie with d3 := true } })) ∧
  (∀ (s : State),
      s.pcie.d3 = true →
      exec .d0Return s = .next (releaseVectors (settleHost { s with pcie := { s.pcie with d3 := false } }))) ∧
  (∀ (s : State),
      quiesceSet s = true →
      nvmeBusy s = false →
      s.pcie.quiesced = false →
      exec .nvmeQuiesced s = .next (raise 0x0E8 [] { s with pcie := { s.pcie with quiesced := true } })) ∧
  (∀ (s : State),
      quiesceSet s = false ∨ nvmeBusy s = true →
      exec .nvmeQuiesced s = .next { s with pcie := { s.pcie with quiesced := false } })

/-- A reset of the whole device records its code in LAST_RESET, samples its straps (PERST_N keeps them), keeps fuses, flash, factory trims
and host memory, sets time to 0, discards commands, tasks, streams and triggers, and begins the boot sequence or fails (R407, R437, R489,
R538, R558, R563, R576). With perst_scope, and in a failed boot or in limp mode, which only a power-on or RESET_N leaves, the PERST_N
input resets the host interface alone (R407, R477, R540). THERMTRIP holds the device: only a power-on starts it again (R580). -/
def Obligations.DeviceResetsReturnToReset : Prop :=
  (∀ (s : State) (st : Straps),
      Gives (.powerOn st) s fun t => t.pcie.lastReset = 0 ∧ t.boot.straps = st ∧ t.boot.fuses = s.boot.fuses ∧ t.boot.flash = s.boot.flash ∧ t.host = s.host ∧ factoryTrims t = factoryTrims s ∧
        t.clk.tick = 0 ∧ t.clk.up = 0 ∧ t.tasks = [] ∧ t.tw = Vector.replicate 16 Stream.reset ∧ t.mbx.cmds = [] ∧ t.squall = Squall.reset ∧
        (t.boot.phase = .firmware ∨ t.boot.phase = .failed) ∧ t.fw = Firmware.reset) ∧
  (∀ (s : State) (st : Straps),
      Gives (.supplyBrownout st) s fun t => t.pcie.lastReset = 0 ∧ t.boot.straps = st ∧ t.boot.fuses = s.boot.fuses ∧ t.boot.flash = s.boot.flash ∧ t.host = s.host ∧ factoryTrims t = factoryTrims s ∧
        t.clk.tick = 0 ∧ t.clk.up = 0 ∧ t.tasks = [] ∧ t.tw = Vector.replicate 16 Stream.reset ∧ t.mbx.cmds = [] ∧ t.squall = Squall.reset ∧
        (t.boot.phase = .firmware ∨ t.boot.phase = .failed) ∧ t.fw = Firmware.reset) ∧
  (∀ (s : State) (st : Straps),
      s.fw.thermtrip = false →
      Gives (.resetN st) s fun t => t.pcie.lastReset = 1 ∧ t.boot.straps = st ∧ t.boot.fuses = s.boot.fuses ∧ t.boot.flash = s.boot.flash ∧ t.host = s.host ∧ factoryTrims t = factoryTrims s ∧
        t.clk.tick = 0 ∧ t.clk.up = 0 ∧ t.tasks = [] ∧ t.tw = Vector.replicate 16 Stream.reset ∧ t.mbx.cmds = [] ∧ t.squall = Squall.reset ∧
        (t.boot.phase = .firmware ∨ t.boot.phase = .failed) ∧ t.fw = Firmware.reset) ∧
  (∀ (s : State),
      s.fw.thermtrip = false →
      s.boot.straps.perstScope = false →
      s.boot.phase ≠ .failed →
      s.clk.limp = false →
      Gives .perstNAssert s fun t => t.pcie.lastReset = 2 ∧ t.boot.straps = s.boot.straps ∧ t.boot.fuses = s.boot.fuses ∧ t.boot.flash = s.boot.flash ∧ t.host = s.host ∧ factoryTrims t = factoryTrims s ∧
        t.clk.tick = 0 ∧ t.clk.up = 0 ∧ t.tasks = [] ∧ t.tw = Vector.replicate 16 Stream.reset ∧ t.mbx.cmds = [] ∧ t.squall = Squall.reset ∧
        (t.boot.phase = .firmware ∨ t.boot.phase = .failed) ∧ t.fw = Firmware.reset) ∧
  (∀ (s : State),
      s.fw.thermtrip = false →
      s.boot.straps.perstScope = true ∨ s.boot.phase = .failed ∨ s.clk.limp = true →
      exec .perstNAssert s = .next (hostReset 3 true s)) ∧
  (∀ (s : State) (st : Straps),
      s.fw.thermtrip = true →
      exec (.resetN st) s = .next s) ∧
  (∀ (s : State),
      Gives .thermtrip s fun t => t.boot.phase = .held ∧ t.fw.thermtrip = true ∧ t.pcie.lastReset = 1 ∧ t.host = s.host ∧ t.boot.fuses = s.boot.fuses ∧
        t.boot.flash = s.boot.flash ∧ t.mbx.cmds = [] ∧ t.tasks = [] ∧ t.clk.up = 0)

/-- A host-interface reset (R407, R408) records its code, disables every queue and drops the commands that have not started (R437),
returns configuration space to reset but for the AER status, masks and severities, and the power state to D0, takes the link down but for
FLR, closes every open host ring with reason 4 (R307), leaves every Draught channel idle or halted, and clears the MSI-X table with its
pending bits and QUIESCE; streams to peers, store regions, inlets, tiles, tasks, correlators, density maps, scan-out, trigger units and
ATs, the states of the link ports, time and the boot state go on, and where no channel had work the store keeps its contents. While the
link is down none of the three has an effect. -/
def Obligations.HostInterfaceResetsAreLocal : Prop :=
  (∀ (s : State),
      s.pcie.linkUp = true →
      Gives .hotReset s fun t => t.pcie.lastReset = 4 ∧ t.pcie.linkUp = false ∧ t.pcie.d3 = false ∧
        t.pcie.cfg = s.pcie.cfg.filter (fun e => decide (0x104 ≤ e.1 ∧ e.1 ≤ 0x118)) ∧
        (∀ q : Fin 8, t.mbx.cmdqs[q].enabled = false ∧ t.mbx.cplqs[q].enabled = false) ∧ (∀ q : Fin 4, t.mbx.evqs[q].enabled = false) ∧
        t.mbx.cmds.all (fun c => c.started || (match c.origin with | .queue _ => false | .peer _ _ => true)) = true ∧
        (∀ n : Fin 16, s.tw[n].dest = 0 → s.tw[n].isOpen = true → t.tw[n].state = .closed ∧ t.tw[n].reason = 4) ∧
        (∀ n : Fin 16, s.tw[n].dest = 2 → t.tw[n] = s.tw[n]) ∧
        (∀ n : Fin 32, t.drt.chans[n].state = .idle ∨ t.drt.chans[n].state = .halted) ∧
        t.regs.all (fun e => !msixKey e.1) = true ∧ quiesceSet t = false ∧ t.pcie.quiesced = false ∧
        ((∀ n : Fin 32, s.drt.chans[n].state = .idle) → t.store.mem = s.store.mem) ∧ t.store.regions = s.store.regions ∧
        t.squall.units = s.squall.units ∧ t.squall.ats = s.squall.ats ∧ t.clk.tick = s.clk.tick ∧ t.clk.up = s.clk.up ∧
        (∀ n : Fin 4, t.link.ports[n].state = s.link.ports[n].state) ∧
        t = { sideOf s t with store := t.store, tw := t.tw, drt := t.drt, squall := t.squall, clk := t.clk, pwr := t.pwr, free := t.free }) ∧
  (∀ (s : State),
      s.pcie.linkUp = true →
      Gives .dlDown s fun t => t.pcie.lastReset = 4 ∧ t.pcie.linkUp = false ∧ t.pcie.d3 = false ∧
        t.pcie.cfg = s.pcie.cfg.filter (fun e => decide (0x104 ≤ e.1 ∧ e.1 ≤ 0x118)) ∧
        (∀ q : Fin 8, t.mbx.cmdqs[q].enabled = false ∧ t.mbx.cplqs[q].enabled = false) ∧ (∀ q : Fin 4, t.mbx.evqs[q].enabled = false) ∧
        t.mbx.cmds.all (fun c => c.started || (match c.origin with | .queue _ => false | .peer _ _ => true)) = true ∧
        (∀ n : Fin 16, s.tw[n].dest = 0 → s.tw[n].isOpen = true → t.tw[n].state = .closed ∧ t.tw[n].reason = 4) ∧
        (∀ n : Fin 16, s.tw[n].dest = 2 → t.tw[n] = s.tw[n]) ∧
        (∀ n : Fin 32, t.drt.chans[n].state = .idle ∨ t.drt.chans[n].state = .halted) ∧
        t.regs.all (fun e => !msixKey e.1) = true ∧ quiesceSet t = false ∧ t.pcie.quiesced = false ∧
        ((∀ n : Fin 32, s.drt.chans[n].state = .idle) → t.store.mem = s.store.mem) ∧ t.store.regions = s.store.regions ∧
        t.squall.units = s.squall.units ∧ t.squall.ats = s.squall.ats ∧ t.clk.tick = s.clk.tick ∧ t.clk.up = s.clk.up ∧
        (∀ n : Fin 4, t.link.ports[n].state = s.link.ports[n].state) ∧
        t = { sideOf s t with store := t.store, tw := t.tw, drt := t.drt, squall := t.squall, clk := t.clk, pwr := t.pwr, free := t.free }) ∧
  (∀ (s : State),
      s.pcie.linkUp = true →
      Gives .flr s fun t => t.pcie.lastReset = 5 ∧ t.pcie.linkUp = true ∧ t.pcie.d3 = false ∧
        t.pcie.cfg = s.pcie.cfg.filter (fun e => decide (0x104 ≤ e.1 ∧ e.1 ≤ 0x118)) ∧
        (∀ q : Fin 8, t.mbx.cmdqs[q].enabled = false ∧ t.mbx.cplqs[q].enabled = false) ∧ (∀ q : Fin 4, t.mbx.evqs[q].enabled = false) ∧
        t.mbx.cmds.all (fun c => c.started || (match c.origin with | .queue _ => false | .peer _ _ => true)) = true ∧
        (∀ n : Fin 16, s.tw[n].dest = 0 → s.tw[n].isOpen = true → t.tw[n].state = .closed ∧ t.tw[n].reason = 4) ∧
        (∀ n : Fin 16, s.tw[n].dest = 2 → t.tw[n] = s.tw[n]) ∧
        (∀ n : Fin 32, t.drt.chans[n].state = .idle ∨ t.drt.chans[n].state = .halted) ∧
        t.regs.all (fun e => !msixKey e.1) = true ∧ quiesceSet t = false ∧ t.pcie.quiesced = false ∧
        ((∀ n : Fin 32, s.drt.chans[n].state = .idle) → t.store.mem = s.store.mem) ∧ t.store.regions = s.store.regions ∧
        t.squall.units = s.squall.units ∧ t.squall.ats = s.squall.ats ∧ t.clk.tick = s.clk.tick ∧ t.clk.up = s.clk.up ∧
        (∀ n : Fin 4, t.link.ports[n].state = s.link.ports[n].state) ∧
        t = { sideOf s t with store := t.store, tw := t.tw, drt := t.drt, squall := t.squall, clk := t.clk, pwr := t.pwr, free := t.free }) ∧
  (∀ (s : State),
      s.pcie.linkUp = false →
      exec .hotReset s = .next s) ∧
  (∀ (s : State),
      s.pcie.linkUp = false →
      exec .dlDown s = .next s) ∧
  (∀ (s : State),
      s.pcie.linkUp = false →
      exec .flr s = .next s)

/-- An expired watchdog restarts the control processor 250 ms after the last service: LAST_RESET 6, the tick of the expiry kept, the
firmware's objects discarded and its queues disabled, while store regions, host memory, the boot image and the fences stand (R565, R566);
a second expiry before the firmware answers resets the device. The restarted firmware reports EV 0x030 and opens the mailbox. A sweep runs
at a multiple of 2,560,000 ticks with both results kept and counted (R466), and each is judged. A conversion of a slot takes its place in
the round, of a firmware slot after its source is named and its reading kept, and the last ends the round (R523, R524, R529, R531); a host
slot without RUN is passed over. -/
def Obligations.WatchdogAndChecksRunOnTime : Prop :=
  (∀ (s : State),
      s.clk.lull ≠ 3 →
      s.fw.thermtrip = false →
      s.boot.phase = .running →
      Gives .watchdogExpiry s fun t => t = discardObjects (restartProcessor (waitUp (s.fw.lastService + 320000000) s)) ∧ t.boot.phase = .restarting ∧ t.pcie.lastReset = 6 ∧
        t.clk.up = max s.clk.up (s.fw.lastService + 320000000) ∧ t.fw.expiredAt = some t.clk.tick ∧ t.fw.runs = false ∧ t.tasks = [] ∧ t.xcorrs = [] ∧ t.mbx.cmds = [] ∧
        t.tw = Vector.replicate 16 Stream.reset ∧ t.squall.ats = Squall.reset.ats ∧ t.squall.units = Squall.reset.units ∧ (∀ n : Fin 8, t.eddy.maps[n] = DensityMap.reset) ∧
        (∀ q : Fin 8, t.mbx.cmdqs[q].enabled = false ∧ t.mbx.cplqs[q].enabled = false) ∧ (∀ q : Fin 4, t.mbx.evqs[q].enabled = false) ∧
        (∀ n : Fin 20, t.tiles[n].shares = [] ∧ (t.tiles[n].state = .fenced ↔ s.tiles[n].state = .fenced)) ∧ (∀ n : Fin 4, t.inlets[n].state = .stopped) ∧
        t.store.regions = s.store.regions ∧ t.boot.flash = s.boot.flash ∧ t.boot.fwVersion = s.boot.fwVersion ∧ t.link.did = s.link.did) ∧
  (∀ (s : State),
      s.clk.lull ≠ 3 →
      s.fw.thermtrip = false →
      s.boot.phase = .restarting →
      Gives .watchdogExpiry s fun t => t.pcie.lastReset = 6 ∧ t.boot.straps = s.boot.straps ∧ t.boot.fuses = s.boot.fuses ∧ t.boot.flash = s.boot.flash ∧ t.host = s.host ∧ factoryTrims t = factoryTrims s ∧
        t.clk.tick = 0 ∧ t.clk.up = 0 ∧ t.tasks = [] ∧ t.tw = Vector.replicate 16 Stream.reset ∧ t.mbx.cmds = [] ∧ t.squall = Squall.reset ∧
        (t.boot.phase = .firmware ∨ t.boot.phase = .failed) ∧ t.fw = Firmware.reset) ∧
  (∀ (s : State),
      s.boot.phase = .restarting →
      Gives .watchdogRestartReady s fun t => ∃ u, t = settleLull (mailboxOpens (raise 0x030 [.w s.boot.fwVersion, .q (s.fw.expiredAt.getD 0)] u)) ∧
        u.boot.phase = .running ∧ u.fw.runs = true ∧ u.fw.lastService = s.clk.up ∧ (s.clk.limp = false → s.store.state ≠ .limited → u.mbx.state = .ready) ∧
        u = { s with boot := { s.boot with phase := .running }, mbx := { s.mbx with state := u.mbx.state }, fw := u.fw }) ∧
  (∀ (s : State),
      s.clk.lull ≠ 3 →
      s.boot.phase ≠ .held →
      RegsCanonical s →
      Gives .crcSweep s fun t => ∃ due u w, due % 2560000 = 0 ∧ s.clk.tick ≤ due ∧ due < s.clk.tick + 5120000 ∧
        u = { (waitTick due s) with fw := { s.fw with lastSweep := due } } ∧ w = { u with regs := w.regs } ∧
        w.reg kCrcLast = hostCheck u ∧ w.reg kCrcFwLast = firmwareCheck u ∧ w.reg kCrcSweeps = s.reg kCrcSweeps + 1 ∧
        t = sweepFirmware (firmwareCheck u) (sweepHost (hostCheck u) w)) ∧
  (∀ (s : State) (x : Fin 2) (raws : List (BitVec 12)) (y : Int) (u : State),
      s.brz.convs[x].state = .running →
      ((x = 0 ∨ s.brz.convs[x].pos < s.brz.convs[x].len) → brzRun s x = true) →
      s.brz.convs[x].pos + 1 < s.brz.convs[x].period x →
      u = (if x = 0 ∨ s.brz.convs[x].pos < s.brz.convs[x].len then waitTick (s.brz.convs[x].roundTick + (s.brz.convs[x].pos + 1) * s.brz.convs[x].slotTicks - 1280) s else firmwareSlot (s.brz.convs[x].slotAt x s.brz.convs[x].pos) y (waitTick (s.brz.convs[x].roundTick + (s.brz.convs[x].pos + 1) * s.brz.convs[x].slotTicks - 1280) s)) →
      exec (.breezeConversion x raws y) s = .next (setConv x (fun c => { c with pos := c.pos + 1 })
        (brzAlarm x (s.brz.convs[x].slotAt x s.brz.convs[x].pos) (convertSlot x (s.brz.convs[x].slotAt x s.brz.convs[x].pos) ((raws.map BitVec.toNat).headD 0) u)))) ∧
  (∀ (s : State) (x : Fin 2) (raws : List (BitVec 12)) (y : Int) (u : State),
      s.brz.convs[x].state = .running →
      ((x = 0 ∨ s.brz.convs[x].pos < s.brz.convs[x].len) → brzRun s x = true) →
      s.brz.convs[x].pos + 1 = s.brz.convs[x].period x →
      u = (if x = 0 ∨ s.brz.convs[x].pos < s.brz.convs[x].len then waitTick (s.brz.convs[x].roundTick + (s.brz.convs[x].pos + 1) * s.brz.convs[x].slotTicks - 1280) s else firmwareSlot (s.brz.convs[x].slotAt x s.brz.convs[x].pos) y (waitTick (s.brz.convs[x].roundTick + (s.brz.convs[x].pos + 1) * s.brz.convs[x].slotTicks - 1280) s)) →
      exec (.breezeConversion x raws y) s = .next (brzRoundEnd x (setConv x (fun c => { c with pos := c.pos + 1 })
        (brzAlarm x (s.brz.convs[x].slotAt x s.brz.convs[x].pos) (convertSlot x (s.brz.convs[x].slotAt x s.brz.convs[x].pos) ((raws.map BitVec.toNat).headD 0) u))))) ∧
  (∀ (s : State) (x : Fin 2) (raws : List (BitVec 12)) (y : Int) (u : State),
      s.brz.convs[x].state = .priming →
      ((x = 0 ∨ s.brz.convs[x].pos < s.brz.convs[x].len) → brzRun s x = true) →
      s.brz.convs[x].pos + 1 < s.brz.convs[x].period x →
      u = (if x = 0 ∨ s.brz.convs[x].pos < s.brz.convs[x].len then waitTick (s.brz.convs[x].roundTick + (s.brz.convs[x].pos + 1) * s.brz.convs[x].slotTicks - 1280) s else firmwareSlot (s.brz.convs[x].slotAt x s.brz.convs[x].pos) y (waitTick (s.brz.convs[x].roundTick + (s.brz.convs[x].pos + 1) * s.brz.convs[x].slotTicks - 1280) s)) →
      exec (.breezeConversion x raws y) s = .next (setConv x (fun c => { c with pos := c.pos + 1 })
        (primeSlot x (s.brz.convs[x].slotAt x s.brz.convs[x].pos) ((raws.map BitVec.toNat ++ List.replicate 4 0).take 4) u))) ∧
  (∀ (s : State) (x : Fin 2) (raws : List (BitVec 12)) (y : Int),
      s.brz.convs[x].state = .running ∨ s.brz.convs[x].state = .priming →
      x = 0 ∨ s.brz.convs[x].pos < s.brz.convs[x].len →
      brzRun s x = false →
      s.brz.convs[x].pos + 1 < s.brz.convs[x].period x →
      exec (.breezeConversion x raws y) s = .next (setConv x (fun c => { c with pos := c.pos + 1 }) (waitTick (s.brz.convs[x].roundTick + (s.brz.convs[x].pos + 1) * s.brz.convs[x].slotTicks - 1280) s))) ∧
  (∀ (s : State) (x : Fin 2) (raws : List (BitVec 12)) (y : Int),
      s.brz.convs[x].state = .cal ∨ s.brz.convs[x].state = .stopped →
      exec (.breezeConversion x raws y) s = .next s)

/-- A crystal that does not start puts the device into limp mode, with every domain failed (R477, R514). A domain that completes its runs
commits; the next in the order follows, and the last ends the sequence (R509 to R513, R519). An image that passes is measured (R548), one
that fails hands over to the other slot, once, with the sequence from its first step, and a second failure is the end of the boot (R517,
R540). Then the mailbox opens: the firmware runs and time-based duties start (R414, R538). A regulator that does not answer in boot leaves
0.88 V and is reported later; its STATUS_WORD is read once a second, and one that is not zero is reported (R574). -/
def Obligations.BootSequenceReachesReady : Prop :=
  (∀ (s : State),
      s.boot.phase = .firmware →
      s.cal.next = 0 →
      s.cal.complete = false →
      Gives .crystalStartTimeout s fun t => t.clk.limp = true ∧ t.clk.refInUse = 5 ∧ t.cal.complete = true ∧ t.cal.word = 0 ∧ t.cal.next = 8 ∧ t.cal.endTick = s.clk.tick ∧
        t.cal.causes = s.cal.causes ++ [(0, 3), (1, 3), (6, 3), (2, 3), (5, 3), (3, 3), (4, 3), (7, 3)] ∧ t.cal.trims = s.cal.trims) ∧
  (∀ (s : State) (a : List (Option (BitVec 8))) (b : List (Option (BitVec 8))) (rate : Nat) (d : Nat) (rest : List Nat),
      s.boot.phase = .firmware →
      s.cal.complete = false →
      calOrder.drop s.cal.next = d :: rest →
      Gives (.calDomainComplete a b rate) s fun t => t.cal.next = s.cal.next + 1 ∧ t.cal.committed = s.cal.committed ||| 2 ^ d ∧
        t.cal.complete = decide (rest = []) ∧ (rest = [] → t.cal.endTick = s.clk.tick) ∧
        (t.cal.trims = s.cal.trims ∨ ∃ l, t.cal.trims = s.cal.trims.set d l)) ∧
  (∀ (s : State) (k : CryptoChecks) (w : Data) (e : List (Fin 20 × Nat × Nat)),
      s.boot.phase = .firmware →
      s.boot.sectionsOk = false →
      imageFailure s s.boot.slotB none k = none →
      Gives (.bootSectionVerified k w e) s fun t => ∃ u, u = loadPatch k w e { s with boot := { s.boot with patchFailStep := none } } ∧
        t = { u with boot := { u.boot with sectionsOk := true, measurements := measure u, quoteCount := 0 } }) ∧
  (∀ (s : State) (k : CryptoChecks) (w : Data) (e : List (Fin 20 × Nat × Nat)) (f : Nat),
      s.boot.phase = .firmware →
      s.boot.sectionsOk = false →
      imageFailure s s.boot.slotB none k = some f →
      s.boot.fellBack = some (0, 1) →
      Gives (.bootSectionVerified k w e) s fun t => t.boot.phase = .failed ∧ t.mbx.state = .failed ∧ t = { s with boot := { s.boot with phase := .failed }, mbx := { s.mbx with state := .failed } }) ∧
  (∀ (s : State) (k : CryptoChecks) (w : Data) (e : List (Fin 20 × Nat × Nat)) (f : Nat),
      s.boot.phase = .firmware →
      s.boot.sectionsOk = false →
      imageFailure s s.boot.slotB none k = some f →
      s.boot.fellBack = none →
      imageLayout (imageHead s (!s.boot.slotB)) none = true →
      Gives (.bootSectionVerified k w e) s fun t => t.boot.phase = .firmware ∧ t.boot.slotB = (!s.boot.slotB) ∧ t.boot.fellBack = some (b2n s.boot.slotB, f) ∧ t.boot.sectionsOk = false ∧
        t.cal.next = 0 ∧ t.cal.committed = 0 ∧ t.cal.complete = false ∧ t.store.state = .untrained ∧ t.boot.flash = s.boot.flash) ∧
  (∀ (s : State),
      s.boot.phase = .firmware →
      s.boot.sectionsOk = true →
      s.cal.complete = true →
      s.clk.limp = false →
      s.store.state = .ready →
      Gives .mailboxReady s fun t => t.boot.phase = .running ∧ t.mbx.state = .ready ∧ t.fw.runs = true ∧ t.fw.lastService = s.clk.up ∧ t.life.lastSample = s.clk.up ∧
        t.boot.fuses.rollback = max s.boot.fuses.rollback s.boot.fwRollback ∧ t.clk.up = s.clk.up ∧ t.tasks = s.tasks) ∧
  (∀ (s : State),
      s.boot.phase = .running →
      s.mbx.state = .booting →
      s.pcie.linkUp = true →
      exec .mailboxReady s = .next (mailboxOpens { s with mbx := { s.mbx with state := openState s } })) ∧
  (∀ (s : State) (w : U16),
      s.fw.thermtrip = false →
      Gives (.regulatorStatusPoll (some w)) s fun t => ∃ u, t = (if w = 0 then u else raise 0x041 [.h w.toNat] u) ∧ u.clk = (waitUp (s.boot.regulator.lastPoll + 1280000000) s).clk ∧
        u.boot.regulator = { s.boot.regulator with lastPoll := u.clk.up } ∧ u = { s with clk := u.clk, boot := { s.boot with regulator := u.boot.regulator } }) ∧
  (∀ (s : State),
      s.fw.thermtrip = false →
      s.boot.phase ≠ .running →
      exec (.regulatorStatusPoll none) s = .next { s with boot := { s.boot with regulatorSilent := true, regulator := { s.boot.regulator with mv := 880 } } }) ∧
  (∀ (s : State),
      s.boot.phase = .running →
      exec (.regulatorStatusPoll none) s = .next s)

/-- An allocation takes the lowest free span that fits and completes with its base and size, cleared where CLEAR asks for it (R86, R87); a
region not in use is freed with what it held (R88); the map is written and completes with B_eff, the reservations and the largest free
span (R110). -/
def Obligations.StoreCommandsManageRegions : Prop :=
  (∀ (s : State) (id : Nat) (c : Cmd) (base : Nat),
      Runs s id 0x0200 anyCmd c →
      Passes [entryCheck c allocFields [(0x08, decide (c.p8 0x08 ≤ 6))], deviceCheck s c, needState (s.store.region (c.p8 0x08)).isNone,
        params [(0x09, decide (c.p8 0x09 ≤ 1)), (0x10, decide (c.p64 0x10 ≠ 0 ∧ c.p64 0x10 % extent = 0 ∧ (c.p8 0x08 ≠ rtHistory ∨ 256 * mib ≤ c.p64 0x10)))]] →
      s.store.fit (c.p64 0x10) = some base →
      exec (.storeRegionAlloc id) s = .next (done c base (c.p64 0x10) ((fun u => if bit (c.p8 0x09) 0 then clearSpan base (c.p64 0x10) u else u)
        (setStore (fun st => { st with regions := st.regions ++ [⟨c.p8 0x08, base, c.p64 0x10⟩] }) s)))) ∧
  (∀ (s : State) (id : Nat) (c : Cmd),
      Runs s id 0x0200 anyCmd c →
      Passes [entryCheck c allocFields [(0x08, decide (c.p8 0x08 ≤ 6))], deviceCheck s c, needState (s.store.region (c.p8 0x08)).isNone,
        params [(0x09, decide (c.p8 0x09 ≤ 1)), (0x10, decide (c.p64 0x10 ≠ 0 ∧ c.p64 0x10 % extent = 0 ∧ (c.p8 0x08 ≠ rtHistory ∨ 256 * mib ≤ c.p64 0x10)))]] →
      s.store.fit (c.p64 0x10) = none →
      exec (.storeRegionAlloc id) s = .next (complete c stNoResource 0 0 0 s)) ∧
  (∀ (s : State) (id : Nat) (c : Cmd) (r : Region),
      Runs s id 0x0201 anyCmd c →
      Passes [entryCheck c [(0x08, 1)] [(0x08, decide (c.p8 0x08 ≤ 6))], deviceCheck s c] →
      s.store.region (c.p8 0x08) = some r →
      regionUsed s r = false →
      exec (.storeRegionFree id) s = .next (done c 0 0 (dropRegion (c.p8 0x08) s))) ∧
  (∀ (s : State) (id : Nat) (c : Cmd),
      Runs s id 0x0201 anyCmd c →
      Passes [entryCheck c [(0x08, 1)] [(0x08, decide (c.p8 0x08 ≤ 6))], deviceCheck s c] →
      s.store.region (c.p8 0x08) = none →
      exec (.storeRegionFree id) s = .next (complete c stState 0 0 0 s)) ∧
  (∀ (s : State) (id : Nat) (c : Cmd),
      Runs s id 0x0202 anyCmd c →
      Passes [entryCheck c [(0x10, 8)] [], deviceCheck s c, params [(0x10, aligned64 (c.p64 0x10))]] →
      exec (.storeMapQuery id) s = .next (done c (bEff s.store / 1000 + 2 ^ 32 * (reservations s.store).sum) s.store.largestFree (writeBlock c (c.p64 0x10) (storeMap s) s)))

/-- A refresh is due a tREFI after the last, 1.9 us or 0.95 us (R95); it is issued at once or postponed, and a ninth is forced and counted
(R96). Activations in a row group are counted by requester (R98); at rd_threshold the requester with the most, of several the lowest (log
45), is throttled and the group counts afresh (R99); the throttle ends (R99) and the counts clear every 32 ms (R98). A failing burst is
counted and after its retries asks for a retrain (R101). A single error is corrected and counted; of an uncorrectable read the second is
used and counted, unless it is uncorrectable too, which poisons the sector (R75, R79). The scrub reads its next sectors when they are due
and moves on (R82). A granted retrain starts unless another runs, and its end releases the grant, is counted and completes the commands
that asked for it (R103, R504). The store enters self-refresh after idle_delay and stops the memory synthesizer (R105); a request aborts
the entry or starts the exit (R106), whose end makes the store READY and reports the residence (R106, R107). A poisoned firmware structure
is rewritten from its copy; with both copies poisoned the watchdog is no longer serviced (R561). -/
def Obligations.StoreStaysSoundAndRetrains : Prop :=
  (∀ (s : State) (ch : Fin 16) (bank : Fin 16) (hot : Bool) (due : Nat),
      refreshes s.store = true →
      due = max s.store.refreshBase (s.store.refreshed.at_ (bankKey ch.val bank.val)) + (if hot then 1216 else 2432) →
      exec (.refreshDue ch bank ⟨false, hot⟩) s = .next { (waitUp due s) with store := { s.store with refreshed := s.store.refreshed.put (bankKey ch.val bank.val) due, owed := s.store.owed.put (bankKey ch.val bank.val) 0 } }) ∧
  (∀ (s : State) (ch : Fin 16) (bank : Fin 16) (hot : Bool) (due : Nat),
      refreshes s.store = true →
      due = max s.store.refreshBase (s.store.refreshed.at_ (bankKey ch.val bank.val)) + (if hot then 1216 else 2432) →
      s.store.owed.at_ (bankKey ch.val bank.val) < 8 →
      exec (.refreshDue ch bank ⟨true, hot⟩) s = .next { (waitUp due s) with store := { s.store with refreshed := s.store.refreshed.put (bankKey ch.val bank.val) due, owed := s.store.owed.put (bankKey ch.val bank.val) (s.store.owed.at_ (bankKey ch.val bank.val) + 1) } }) ∧
  (∀ (s : State) (ch : Fin 16) (bank : Fin 16) (hot : Bool) (due : Nat),
      refreshes s.store = true →
      due = max s.store.refreshBase (s.store.refreshed.at_ (bankKey ch.val bank.val)) + (if hot then 1216 else 2432) →
      8 ≤ s.store.owed.at_ (bankKey ch.val bank.val) →
      exec (.refreshDue ch bank ⟨true, hot⟩) s = .next (raise 0x307 [] { (waitUp due s) with store := { s.store with refreshed := s.store.refreshed.put (bankKey ch.val bank.val) due, forcedRefreshes := satN 32 (s.store.forcedRefreshes + 1) } })) ∧
  (∀ (s : State) (ch : Fin 16) (bank : Fin 16) (group : Nat) (acts : List (Fin 12 × Nat)) (w : State),
      s.store.state = .ready →
      group < rowGroups s.store.clamshell →
      spWf 0 s.store.rowCounts = true →
      w = paceActivations acts s →
      ((List.finRange 12).map (activationsOf s ch bank group acts)).sum < s.store.cfg.rdThreshold →
      Gives (.rowDisturbanceThreshold ch bank group acts) s fun t => t = { w with store := { w.store with rowCounts := t.store.rowCounts } } ∧
        ∀ r : Fin 12, t.store.rowCounts.at_ (rowKey ch.val bank.val group r.val) = activationsOf s ch bank group acts r) ∧
  (∀ (s : State) (ch : Fin 16) (bank : Fin 16) (group : Nat) (acts : List (Fin 12 × Nat)) (w : State) (rq : Fin 12),
      s.store.state = .ready →
      group < rowGroups s.store.clamshell →
      spWf 0 s.store.rowCounts = true →
      w = paceActivations acts s →
      s.store.cfg.rdThreshold ≤ ((List.finRange 12).map (activationsOf s ch bank group acts)).sum →
      (∀ r : Fin 12, activationsOf s ch bank group acts r ≤ activationsOf s ch bank group acts rq ∧ (r < rq → activationsOf s ch bank group acts r < activationsOf s ch bank group acts rq)) →
      Gives (.rowDisturbanceThreshold ch bank group acts) s fun t => ∃ u, t = raise 0x305 [.h ch.val, .h bank.val, .h group, .h rq.val] u ∧
        u = { w with store := { w.store with rowCounts := u.store.rowCounts, throttleCount := satN 32 (w.store.throttleCount + 1), throttles := w.store.throttles.filter (·.requester ≠ rq.val) ++ [⟨rq.val, w.clk.up + s.store.cfg.throttleMs * 1280000, w.clk.up⟩] } } ∧
        ∀ r : Fin 12, u.store.rowCounts.at_ (rowKey ch.val bank.val group r.val) = 0) ∧
  (∀ (s : State),
      exec .rowDisturbanceWindow s = .next ((fun u => { u with store := { s.store with rowCounts := [] } }) (waitUp (ceilDiv s.clk.up 40960000 * 40960000) s))) ∧
  (∀ (s : State) (rq : Fin 12) (x : Throttle),
      s.store.throttles.find? (fun y => decide (y.requester = rq.val)) = some x →
      exec (.throttleEnd rq) s = .next (raise 0x306 [] ((fun u => { u with store := { s.store with throttles := s.store.throttles.filter (·.requester ≠ rq.val) } }) (waitUp x.until_ s)))) ∧
  (∀ (s : State) (ch : Fin 16) (ok : Bool),
      s.store.state = .ready →
      exec (.edcBurstFailure ch ok) s = .next ((fun u => if ok then u else requestRetrain ch u) { s with store := { s.store with edcRetries := satN 32 (s.store.edcRetries + 1) } })) ∧
  (∀ (s : State) (a : Nat) (rq : Fin 12) (first : SectorRead) (second : SectorRead) (v : State),
      v = storeAsk s →
      storeServes v = true →
      v.store.cfg.ecc = true →
      a / 32 * 32 < usable v.store →
      readPoisoned v (a / 32 * 32) 32 = false →
      eccDecode first.flips first.mismatch = .clean →
      exec (.uncorrectableRead a rq ⟨first, second⟩) s = .next (v)) ∧
  (∀ (s : State) (a : Nat) (rq : Fin 12) (first : SectorRead) (second : SectorRead) (v : State),
      v = storeAsk s →
      storeServes v = true →
      v.store.cfg.ecc = true →
      a / 32 * 32 < usable v.store →
      readPoisoned v (a / 32 * 32) 32 = false →
      eccDecode first.flips first.mismatch = .corrected →
      exec (.uncorrectableRead a rq ⟨first, second⟩) s = .next (noteCorrections 1 v)) ∧
  (∀ (s : State) (a : Nat) (rq : Fin 12) (first : SectorRead) (second : SectorRead) (v : State),
      v = storeAsk s →
      storeServes v = true →
      v.store.cfg.ecc = true →
      a / 32 * 32 < usable v.store →
      readPoisoned v (a / 32 * 32) 32 = false →
      eccDecode first.flips first.mismatch = .uncorrectable →
      eccDecode second.flips second.mismatch ≠ .uncorrectable →
      exec (.uncorrectableRead a rq ⟨first, second⟩) s = .next (noteCorrections 1 v)) ∧
  (∀ (s : State) (a : Nat) (rq : Fin 12) (first : SectorRead) (second : SectorRead) (v : State),
      v = storeAsk s →
      storeServes v = true →
      v.store.cfg.ecc = true →
      a / 32 * 32 < usable v.store →
      readPoisoned v (a / 32 * 32) 32 = false →
      eccDecode first.flips first.mismatch = .uncorrectable →
      eccDecode second.flips second.mismatch = .uncorrectable →
      v.store.within rtHistory (a / 32 * 32) 32 = false →
      Gives (.uncorrectableRead a rq ⟨first, second⟩) s fun t => t = poisonSpan (a / 32 * 32) 32 rq.val v ∧ t.store.poison.contains (a / 32) = true ∧
        t.store.mem = v.store.mem) ∧
  (∀ (s : State) (a : Nat) (rq : Fin 12) (first : SectorRead) (second : SectorRead) (v : State),
      v = storeAsk s →
      storeServes v = true →
      v.store.cfg.ecc = true →
      a / 32 * 32 < usable v.store →
      readPoisoned v (a / 32 * 32) 32 = true →
      exec (.uncorrectableRead a rq ⟨first, second⟩) s = .next (reportUncorrectable (a / 32 * 32) rq.val v)) ∧
  (∀ (s : State) (n : Nat) (k : Nat),
      s.store.state = .ready →
      s.store.cfg.ecc = true →
      Gives (.patrolScrub n k) s fun t => ∃ u, u = noteCorrections (min k n) (waitUp (s.store.scrubSince + (s.store.scrubNext + n) * scrubPeriod s.store / scrubSectors s.store) s) ∧
        t.store.scrubNext = (s.store.scrubNext + n) % scrubSectors s.store ∧ t = { u with store := { u.store with scrubNext := t.store.scrubNext, scrubSince := t.store.scrubSince } }) ∧
  (∀ (s : State) (ch : Fin 16),
      s.store.state = .ready →
      holdsPower s (.retrain ch.val) = true →
      s.store.retraining = none →
      (List.range 16).all (fun b => decide (s.store.owed.at_ (bankKey ch.val b) ≤ 8)) = true →
      exec (.storeRetrainStart ch) s = .next { s with store := { s.store with retraining := some ch.val } }) ∧
  (∀ (s : State) (ch : Fin 16),
      s.store.state = .ready →
      holdsPower s (.retrain ch.val) = false →
      exec (.storeRetrainStart ch) s = .next (requestRetrain ch s)) ∧
  (∀ (s : State) (ch : Fin 16),
      s.store.retraining = some ch.val →
      exec (.storeRetrainComplete ch) s = .next (endRetrainCmds ch.val stOk 0 (retrainEvent ch.val (releasePower (.retrain ch.val)
        { s with store := { s.store with retraining := none, retrains := satN 32 (s.store.retrains + 1) } })))) ∧
  (∀ (s : State),
      storeIdle s = true →
      storeIdle (waitUp (s.store.idleSince.getD s.clk.up + s.store.cfg.idleDelay * 1280) s) = true →
      Gives .selfRefreshIdleTimeout s fun t => t.store.state = .selfRefresh ∧ t.clk.synths[1].state = .off ∧ t.store.srEntries = satN 32 (s.store.srEntries + 1) ∧
        t.store.srSince = max s.clk.up (s.store.idleSince.getD s.clk.up + s.store.cfg.idleDelay * 1280) ∧ t.store.mem = s.store.mem ∧ t.clk.up = t.store.srSince) ∧
  (∀ (s : State),
      s.store.state = .selfRefresh →
      s.store.srExiting = false →
      exec .selfRefreshWake s = .next (startSynth 1 { s with store := { s.store with srExiting := true } })) ∧
  (∀ (s : State),
      storeIdle s = true →
      exec .selfRefreshWake s = .next (raise 0x30A [] { s with store := { s.store with srAborts := satN 32 (s.store.srAborts + 1), idleSince := some s.clk.up } })) ∧
  (∀ (s : State),
      s.store.state = .selfRefresh →
      s.store.srExiting = true →
      Gives .selfRefreshExitComplete s fun t => ∃ u, t = raise 0x309 [.q (s.clk.up - s.store.srSince)] u ∧ u.store.state = .ready ∧ u.clk.synths[1].state = .locked ∧
        u.store.srTicks = s.store.srTicks + (s.clk.up - s.store.srSince) ∧ u.store.mem = s.store.mem ∧ u = { s with store := u.store, clk := u.clk }) ∧
  (∀ (s : State) (a : Nat),
      s.store.within rtFirmware (a / 32 * 32) 32 = true →
      spanPoisoned s.store (a / 32 * 32) 32 = true →
      exec (.firmwareCopyRestore a false) s = .next (raise 0x031 [.q (a / 32 * 32)] (storeWrite (a / 32 * 32) (storeRead s (a / 32 * 32) 32) s))) ∧
  (∀ (s : State) (a : Nat),
      s.store.within rtFirmware (a / 32 * 32) 32 = true →
      spanPoisoned s.store (a / 32 * 32) 32 = true →
      exec (.firmwareCopyRestore a true) s = .next { s with fw := { s.fw with runs := false } })

/-- Each page that passes its checks is kept, and units of channels that are gone are detached (R36, R42 to R44, R209). A start whose
pages agree and that the store and the power admit reserves both and begins bring-up; one that must wait for power waits (R52, R56, R66).
A step that takes too long ends the start with its code (R57). INLET_STATUS writes its block (R68). INLET_STOP of a starting inlet gives
the start up at once; of a running one it notes the stop tick, the next local-clock edge where the tick is past, and waits, with its tasks
told where they stop if FORCE is set (R58 to R60). Once every sample before the stop tick has been released, what the elastic buffer holds
before it is written, the inlet is STOPPED with its clock off (log 130, the model's choice) and its reservations released, and the command
completes with the newest tick (R58, R59). -/
def Obligations.InletsStartAndStop : Prop :=
  (∀ (s : State) (id : Nat) (c : Cmd) (n : Fin 4),
      Runs s id 0x0100 anyCmd c →
      Passes [entryCheck c [(0x08, 15), (0x18, 11)] [], deviceCheck s c, needState (s.inlets[n].state = .stopped), params ((0x09, true) :: page0Checks c.bytes)] →
      c.p8 0x08 = n.val →
      c.p8 0x09 = 0 →
      exec (.inletConfig id) s = .next (done c 0 0 (dropChannels n (setInlet n (fun i => { i with page0 := some c.bytes }) s)))) ∧
  (∀ (s : State) (id : Nat) (c : Cmd) (n : Fin 4),
      Runs s id 0x0100 anyCmd c →
      Passes [entryCheck c [(0x08, 2), (0x0C, 0x24)] [], deviceCheck s c, needState (s.inlets[n].state = .stopped), params ((0x09, true) :: page1Checks c.bytes)] →
      c.p8 0x08 = n.val →
      c.p8 0x09 = 1 →
      exec (.inletConfig id) s = .next (done c 0 0 (dropChannels n (setInlet n (fun i => { i with page1 := some c.bytes }) s)))) ∧
  (∀ (s : State) (id : Nat) (c : Cmd) (n : Fin 4),
      Runs s id 0x0100 anyCmd c →
      Passes [entryCheck c [(0x08, 0x14)] [], deviceCheck s c, needState (s.inlets[n].state = .stopped), params ((0x09, true) :: page2Checks c.bytes)] →
      c.p8 0x08 = n.val →
      c.p8 0x09 = 2 →
      exec (.inletConfig id) s = .next (done c 0 0 (dropChannels n (setInlet n (fun i => { i with page2 := some c.bytes }) s)))) ∧
  (∀ (s : State) (id : Nat) (c : Cmd) (n : Fin 4),
      Runs s id 0x0101 anyCmd c →
      Passes [entryCheck c [(0x08, 1)] [], deviceCheck s c, needState (s.inlets[n].state = .stopped && !waitsPower s (.inlet n.val)), pagesWritten s.inlets[n], pagesAgree s.inlets[n],
        need (s.store.region rtHistory).isSome stNoResource 0, need (historyFits s s.inlets[n]) stNoResource 0] →
      c.p8 0x08 = n.val →
      Admits s (.inlet n.val) [(lcHistory, s.inlets[n].historyKbs)] →
      GrantsAtOnce s (cost s.inlets[n].powerItems) →
      exec (.inletStart id) s = .next (beginInlet c n (grantItems (.inlet n.val) s.inlets[n].powerItems (addReservations (.inlet n.val) [(lcHistory, s.inlets[n].historyKbs)] s)))) ∧
  (∀ (s : State) (id : Nat) (c : Cmd) (n : Fin 4),
      Runs s id 0x0101 anyCmd c →
      Passes [entryCheck c [(0x08, 1)] [], deviceCheck s c, needState (s.inlets[n].state = .stopped && !waitsPower s (.inlet n.val)), pagesWritten s.inlets[n], pagesAgree s.inlets[n],
        need (s.store.region rtHistory).isSome stNoResource 0, need (historyFits s s.inlets[n]) stNoResource 0] →
      c.p8 0x08 = n.val →
      Admits s (.inlet n.val) [(lcHistory, s.inlets[n].historyKbs)] →
      QueuesForPower s c (cost s.inlets[n].powerItems) →
      exec (.inletStart id) s = .next (setInlet n (fun i => { i with state := .starting, step := 1, startCmd := some c.id }) (wait c
        (queuePower ⟨.inlet n.val, s.inlets[n].powerItems, BitVec.ofNat 32 c.tag, c.opcode, s.clk.up, some c.id⟩
          (addReservations (.inlet n.val) [(lcHistory, s.inlets[n].historyKbs)] s))))) ∧
  (∀ (s : State) (id : Nat) (c : Cmd) (n : Fin 4),
      Runs s id 0x0101 anyCmd c →
      Passes [entryCheck c [(0x08, 1)] [], deviceCheck s c, needState (s.inlets[n].state = .stopped && !waitsPower s (.inlet n.val))] →
      c.p8 0x08 = n.val →
      s.inlets[n].page0 = none →
      exec (.inletStart id) s = .next (complete c stState 0 0 8 s)) ∧
  (∀ (s : State) (n : Fin 4) (lane : Fin 32),
      s.inlets[n].state = .starting →
      2 ≤ s.inlets[n].step →
      exec (.inletStartStepTimeout n lane) s = .next (startFail n (stepAux s.inlets[n].step lane.val) (waitUp (s.inlets[n].stepSince + stepLimit s.inlets[n]) s))) ∧
  (∀ (s : State) (id : Nat) (c : Cmd) (n : Fin 4),
      Runs s id 0x0103 anyCmd c →
      Passes [entryCheck c [(0x08, 1), (0x10, 8)] [], deviceCheck s c, params [(0x10, aligned64 (c.p64 0x10))]] →
      c.p8 0x08 = n.val →
      exec (.inletStatus id) s = .next (done c (inletStateCode s.inlets[n].state + inletFlags s.inlets[n] * 256) s.inlets[n].samplesWritten (writeBlock c (c.p64 0x10) (inletStatus s.inlets[n]) s))) ∧
  (∀ (s : State) (id : Nat) (c : Cmd) (n : Fin 4),
      Runs s id 0x0102 anyCmd c →
      Passes [entryCheck c [(0x08, 2), (0x10, 8)] [], deviceCheck s c, needState (s.inlets[n].state ≠ .stopped && s.inlets[n].stop.isNone), params [(0x09, decide (c.p8 0x09 ≤ 1))]] →
      c.p8 0x08 = n.val →
      s.inlets[n].state = .starting →
      s.inlets[n].startCmd = none →
      exec (.inletStop id) s = .next (done c 0 0 (dropStart n s))) ∧
  (∀ (s : State) (id : Nat) (c : Cmd) (n : Fin 4) (k : Nat) (a : Cmd),
      Runs s id 0x0102 anyCmd c →
      Passes [entryCheck c [(0x08, 2), (0x10, 8)] [], deviceCheck s c, needState (s.inlets[n].state ≠ .stopped && s.inlets[n].stop.isNone), params [(0x09, decide (c.p8 0x09 ≤ 1))]] →
      c.p8 0x08 = n.val →
      s.inlets[n].state = .starting →
      s.inlets[n].startCmd = some k →
      findCmd (dropStart n s) k = some a →
      exec (.inletStop id) s = .next (done c 0 0 (complete a stAborted 0 0 0 (dropStart n s)))) ∧
  (∀ (s : State) (id : Nat) (c : Cmd) (n : Fin 4),
      Runs s id 0x0102 anyCmd c →
      Passes [entryCheck c [(0x08, 2), (0x10, 8)] [], deviceCheck s c, needState (s.inlets[n].state ≠ .stopped && s.inlets[n].stop.isNone), params [(0x09, decide (c.p8 0x09 ≤ 1))]] →
      c.p8 0x08 = n.val →
      s.inlets[n].state ≠ .starting →
      c.p8 0x09 = 0 →
      inletUsed s n = false →
      exec (.inletStop id) s = .next (wait c (setInlet n (fun i => { i with stop := some ⟨c.id, if c.p64 0x10 ≤ s.clk.tick then s.inlets[n].nextEdge s.clk.tick else c.p64 0x10, false⟩ }) s))) ∧
  (∀ (s : State) (id : Nat) (c : Cmd) (n : Fin 4),
      Runs s id 0x0102 anyCmd c →
      Passes [entryCheck c [(0x08, 2), (0x10, 8)] [], deviceCheck s c, needState (s.inlets[n].state ≠ .stopped && s.inlets[n].stop.isNone), params [(0x09, decide (c.p8 0x09 ≤ 1))]] →
      c.p8 0x08 = n.val →
      s.inlets[n].state ≠ .starting →
      c.p8 0x09 = 1 →
      exec (.inletStop id) s = .next (wait c (forceTasks n (if c.p64 0x10 ≤ s.clk.tick then s.inlets[n].nextEdge s.clk.tick else c.p64 0x10)
        (setInlet n (fun i => { i with stop := some ⟨c.id, if c.p64 0x10 ≤ s.clk.tick then s.inlets[n].nextEdge s.clk.tick else c.p64 0x10, true⟩ }) s)))) ∧
  (∀ (s : State) (n : Fin 4) (p : PendingStop),
      s.inlets[n].stop = some p →
      releasesBefore s.inlets[n] p.tick = false →
      Gives (.inletStopTickReached n) s fun t => ∃ u last, t = (match findCmd u p.cmd with | some c => done c last 0 u | none => u) ∧
        u.inlets[n].state = .stopped ∧ u.inlets[n].stop = none ∧ u.inlets[n].elastic = [] ∧ u.inlets[n].ring.newest = last ∧ u.inlets[n].ring.stoppedAt = some p.tick ∧
        u.inlets[n].samplesWritten = s.inlets[n].samplesWritten + (s.inlets[n].elastic.map fun f => min f.values.length (s.inlets[n].numAt p.tick 1 - f.num)).sum ∧
        u.clk.synths[(⟨n.val + 3, by omega⟩ : Fin 11)].state = .off ∧
        holdsPower u (.inlet n.val) = false ∧ u.store.ledger.all (·.owner ≠ .inlet n.val) = true) ∧
  (∀ (s : State) (n : Fin 4) (p : PendingStop),
      s.inlets[n].stop = some p →
      releasesBefore s.inlets[n] p.tick = true →
      exec (.inletStopTickReached n) s = .next s)

/-- A SYSREF pulse qualifies a starting inlet or is checked against the phase of a running one, where one out of phase opens a mark and
one in phase closes it (R45, R46). A period of a running inlet that fits enters the elastic buffer (R48, R54) and the store takes it in
bursts (R14). A lane error is counted, and where it is of samples that can still be marked its granule is a hole (R62); a loss of
synchronisation realigns the inlet with all lanes of its link, or faults it, and what is released from then on is a hole (R63); a lane
that resynchronises in time locks again, a late one faults the inlet (R64); every 1 ms the windows clear (R66). The steps of bring-up
follow their lanes (R56), the alignment sequence sets release and hold, and one that does not match or fit fails the start (R47, R57). -/
def Obligations.SamplesReachHistory : Prop :=
  (∀ (s : State) (n : Fin 4) (half : Bool),
      s.inlets[n].state = .starting →
      s.inlets[n].step = 5 →
      s.inlets[n].qualified = 0 →
      Gives (.sysrefPulse n half) s fun t => t.inlets[n].edge = s.clk.tick * 65536 + (if half then 32768 else 0) ∧ t.inlets[n].qualified = 1 ∧
        t.inlets[n].step = (if s.inlets[n].qualify ≤ 1 then 6 else 5) ∧ (∀ m : Fin 4, m ≠ n → t.inlets[m] = s.inlets[m]) ∧ t = { s with inlets := t.inlets }) ∧
  (∀ (s : State) (n : Fin 4) (half : Bool),
      s.inlets[n].state = .running →
      (s.inlets[n].phaseOf (s.clk.tick * 65536 + (if half then 32768 else 0))).natAbs ≤ s.inlets[n].sysrefWindow * 65536 * s.inlets[n].fsNum →
      exec (.sysrefPulse n half) s = .next (setInlet n (fun i => { i with sysrefPulses := satN 32 (i.sysrefPulses + 1), phaseMarks := closeMarks (s.clk.tick * 65536 + (if half then 32768 else 0)) (i.ring.oldest * 65536) i.phaseMarks }) s)) ∧
  (∀ (s : State) (n : Fin 4) (half : Bool),
      s.inlets[n].state = .running →
      s.inlets[n].sysrefWindow * 65536 * s.inlets[n].fsNum < (s.inlets[n].phaseOf (s.clk.tick * 65536 + (if half then 32768 else 0))).natAbs →
      Gives (.sysrefPulse n half) s fun t => t.inlets[n].sysrefPhase = true ∧ t.inlets[n].phaseMarks = openMark (s.clk.tick * 65536 + (if half then 32768 else 0)) s.inlets[n].phaseMarks ∧
        t.inlets[n].sysrefPulses = satN 32 (s.inlets[n].sysrefPulses + 1) ∧ (∀ m : Fin 4, m ≠ n → t.inlets[m] = s.inlets[m]) ∧ t = { sideOf s t with inlets := t.inlets }) ∧
  (∀ (s : State) (n : Fin 4) (d : List (List U16)) (u : State),
      s.inlets[n].state = .running →
      s.inlets[n].stop = none →
      s.inlets[n].periodSamples ≠ 0 →
      d.length = s.inlets[n].periodSamples →
      u = squallDue (waitTick s.inlets[n].releaseDue s) →
      exec (.frameRelease n d) s = .next (setInlet n (fun i => { i with nextNum := i.nextNum + i.periodSamples, unlocked := false })
          (releaseFrame n (frameOf u.inlets[n] (u.clk.uncertain || u.clk.synths[3 + n.val].state = .holdover) d) d u))) ∧
  (∀ (s : State) (n : Fin 4) (d : List (List U16)),
      s.inlets[n].state = .running →
      s.inlets[n].stop = none →
      s.inlets[n].periodSamples ≠ 0 →
      d.length = s.inlets[n].periodSamples →
      d.length ≤ elasticRoom s.inlets[n] →
      s.inlets[n].realignHole = none →
      s.inlets[n].unlocked = false →
      s.clk.uncertain = false →
      s.clk.synths[3 + n.val].state ≠ .holdover →
      s.squall.units.toList.all (fun u => u.cfg.kind = 0) = true →
      s.squall.pendingEdges = [] →
      s.squall.pendingDisarms.all (·.cmd.isSome) = true →
      Gives (.frameRelease n d) s fun t => t.inlets[n].elastic = s.inlets[n].elastic ++ [frameOf s.inlets[n] false d] ∧ t.inlets[n].nextNum = s.inlets[n].nextNum + d.length ∧
        t.inlets[n].elasticFill = s.inlets[n].elasticFill + s.inlets[n].bytesOf d.length ∧ t.inlets[n].ring = s.inlets[n].ring ∧ t.clk = (waitTick s.inlets[n].releaseDue s).clk ∧
        (∀ m : Fin 4, m ≠ n → t.inlets[m] = s.inlets[m]) ∧ t = { sideOf s t with clk := t.clk, inlets := t.inlets }) ∧
  (∀ (s : State) (n : Fin 4) (k : Nat) (v : State),
      v = (if min k s.inlets[n].elastic.length = 0 then s else storeAsk s) →
      storeServes v = true →
      Gives (.historyWriteCommit n k) s fun t => t = commitFrames n (min k s.inlets[n].elastic.length) v ∧ t.inlets[n].elastic = s.inlets[n].elastic.drop k ∧
        t.inlets[n].samplesWritten = s.inlets[n].samplesWritten + ((s.inlets[n].elastic.take k).map (·.values.length)).sum) ∧
  (∀ (s : State) (n : Fin 4) (k : Nat) (v : State),
      v = (if min k s.inlets[n].elastic.length = 0 then s else storeAsk s) →
      storeServes v = false →
      exec (.historyWriteCommit n k) s = .next v) ∧
  (∀ (s : State) (n : Fin 4) (k : Fin 32) (e : LaneErrorKind) (o : Nat) (g : Nat),
      s.inlets[n].state ≠ .stopped →
      s.inlets[n].state ≠ .starting →
      k.val < s.inlets[n].lanesUsed →
      kindOf204C e = s.inlets[n].is204C →
      octetCurrent s.inlets[n] e o = true →
      g = o / granule s.inlets[n] e * granule s.inlets[n] e →
      exec (.laneErrorDetected n ⟨k, o⟩ e) s = .next (laneEvent n k false (setLane n k.val (countLane e)
        (enterHole n (max s.inlets[n].firstTick (octetTick s.inlets[n] g false)) (octetTick s.inlets[n] (g + granule s.inlets[n] e) true) 3 s)))) ∧
  (∀ (s : State) (n : Fin 4) (k : Fin 32) (e : LaneErrorKind) (o : Nat),
      s.inlets[n].state ≠ .stopped →
      k.val < s.inlets[n].lanesUsed →
      kindOf204C e = s.inlets[n].is204C →
      s.inlets[n].state = .starting ∨ octetCurrent s.inlets[n] e o = false →
      exec (.laneErrorDetected n ⟨k, o⟩ e) s = .next (laneEvent n k false (setLane n k.val (countLane e) s))) ∧
  (∀ (s : State) (n : Fin 4) (k : Fin 32) (o : Nat),
      s.inlets[n].state = .running →
      k.val < s.inlets[n].lanesUsed →
      s.inlets[n].lanes[k].locked = true →
      s.inlets[n].realigns = true →
      Gives (.laneSyncLoss n ⟨k, o⟩) s fun t => t.inlets[n].state = .realigning ∧ t.inlets[n].realignHole.isSome = true ∧
        (∀ j : Fin 32, linkOf s.inlets[n] j.val = linkOf s.inlets[n] k.val → t.inlets[n].lanes[j].locked = false) ∧ t.inlets[n].lanes[k].syncLosses = satN 16 (s.inlets[n].lanes[k].syncLosses + 1) ∧
        t.inlets[n].syncN = s.inlets[n].syncN ||| syncBit s.inlets[n] k.val ∧ (∀ m : Fin 4, m ≠ n → t.inlets[m] = s.inlets[m])) ∧
  (∀ (s : State) (n : Fin 4) (k : Fin 32) (o : Nat),
      s.inlets[n].state = .running →
      k.val < s.inlets[n].lanesUsed →
      s.inlets[n].lanes[k].locked = true →
      s.inlets[n].realigns = false →
      Gives (.laneSyncLoss n ⟨k, o⟩) s fun t => t.inlets[n].state = .fault ∧ t.inlets[n].realignHole.isSome = true ∧ t.inlets[n].lanes[k].locked = false ∧ t.inlets[n].syncN = 0 ∧ (∀ m : Fin 4, m ≠ n → t.inlets[m] = s.inlets[m])) ∧
  (∀ (s : State) (n : Fin 4) (k : Fin 32) (at_ : Nat),
      s.inlets[n].state = .realigning →
      k.val < s.inlets[n].lanesUsed →
      s.inlets[n].lanes[k].locked = false →
      s.jtag.pinsTaken = false →
      at_ ≤ (s.inlets[n].release + max 1 s.inlets[n].periodOctets - 8) % max 1 s.inlets[n].periodOctets →
      Gives (.laneResyncComplete n k at_) s fun t => t.inlets[n].lanes[k].locked = true ∧ t.inlets[n].lanes[k].arrival = at_ ∧ t.inlets[n].lanes[k].realigns = satN 16 (s.inlets[n].lanes[k].realigns + 1) ∧
        (t.inlets[n].state = .running ↔ allLanes t.inlets[n] (·.locked) = true)) ∧
  (∀ (s : State) (n : Fin 4) (k : Fin 32) (at_ : Nat),
      s.inlets[n].state = .realigning →
      k.val < s.inlets[n].lanesUsed →
      s.inlets[n].lanes[k].locked = false →
      s.jtag.pinsTaken = false →
      (s.inlets[n].release + max 1 s.inlets[n].periodOctets - 8) % max 1 s.inlets[n].periodOctets < at_ →
      exec (.laneResyncComplete n k at_) s = .next (faultInlet n 2 k.val (setLane n k.val (fun l => { l with arrival := at_ }) s))) ∧
  (∀ (s : State),
      Gives .laneErrorWindow s fun t => t.clk = (waitTick (ceilDiv s.clk.tick 1280000 * 1280000) s).clk ∧ t = { s with clk := t.clk, inlets := t.inlets } ∧
        ∀ n : Fin 4, t.inlets[n] = { s.inlets[n] with lanes := s.inlets[n].lanes.map fun l => { l with windowErrors := 0, windowRaised := false } }) ∧
  (∀ (s : State) (n : Fin 4) (k : Fin 32),
      s.inlets[n].state = .starting →
      k.val < s.inlets[n].lanesUsed →
      s.jtag.pinsTaken = false →
      s.inlets[n].step = 4 →
      Gives (.laneLockAchieved n k false) s fun t => t.inlets[n].lanes[k].locked = true ∧ t.inlets[n].step = (if allLanes t.inlets[n] (·.locked) = true then 5 else 4) ∧
        (∀ m : Fin 4, m ≠ n → t.inlets[m] = s.inlets[m]) ∧ t = { s with inlets := t.inlets }) ∧
  (∀ (s : State) (n : Fin 4) (k : Fin 32),
      s.inlets[n].state = .starting →
      k.val < s.inlets[n].lanesUsed →
      s.jtag.pinsTaken = false →
      s.inlets[n].step = 3 →
      Gives (.laneLockAchieved n k true) s fun t => t.inlets[n].lanes[k].cdr = true ∧ t.inlets[n].step = (if allLanes t.inlets[n] (·.cdr) = true then 4 else 3) ∧
        (∀ m : Fin 4, m ≠ n → t.inlets[m] = s.inlets[m]) ∧ t = { s with inlets := t.inlets }) ∧
  (∀ (s : State) (n : Fin 4) (r : IlasResult),
      s.inlets[n].state = .starting →
      s.inlets[n].step = 6 →
      s.inlets[n].is204C = true ∨ r.parametersMatch = true →
      (releaseWindow s.inlets[n] r.arrivals).2.2 = true →
      Gives (.ilasReceived n r) s fun t => t.inlets[n].step = 7 ∧ t.inlets[n].release = (releaseWindow s.inlets[n] r.arrivals).1 ∧
        t.inlets[n].hold = s.inlets[n].octets256 (releaseWindow s.inlets[n] r.arrivals).2.1 ∧ t.inlets[n].syncN = 0 ∧ t.inlets[n].stepSince = s.clk.up) ∧
  (∀ (s : State) (n : Fin 4) (r : IlasResult),
      s.inlets[n].state = .starting →
      s.inlets[n].step = 6 →
      s.inlets[n].is204C = false →
      r.parametersMatch = false →
      exec (.ilasReceived n r) s = .next (startFail n (4 + r.badLane % 32 * 256) s)) ∧
  (∀ (s : State) (n : Fin 4) (r : IlasResult),
      s.inlets[n].state = .starting →
      s.inlets[n].step = 6 →
      s.inlets[n].is204C = true ∨ r.parametersMatch = true →
      (releaseWindow s.inlets[n] r.arrivals).2.2 = false →
      exec (.ilasReceived n r) s = .next (startFail n 6 s))

/-- A descriptor that passes its checks becomes a task once SPECTRA, the store ledger, the tiles and the power admit it, in that order
(R19, R115 to R119); a retro job likewise on one tile with its power (R26, R151 to R153). A modification waits for its index under a new
configuration CRC, one placed on a peer is told to it (R132, R138); a destroy waits for its stop index (R140); a placement that its tiles
admit, with the power of those that are gated, starts its migration at its first index, the old placement running on through the overlap,
or asks the peer that it names once the link, the store and the power admit it; one that no tile takes completes with E_NO_RESOURCE and
aborts (R162, R163, R165, R366; log 122). A correlator whose descriptor passes its checks starts once its links, the store ledger, the
tiles and the power admit it (R19, R145 to R149); destroying it drops its open dump, publishes its final MARKER and gives everything up
(R150). -/
def Obligations.TasksAndCorrelatorsAreAdmitted : Prop :=
  (∀ (s : State) (id : Nat) (c : Cmd) (n : Fin 4) (raw : Data) (table : HostRead) (l : List (Nat × Share)),
      Runs s id 0x0300 anyCmd c →
      Passes [entryCheck c [(0x08, 4), (0x10, 8)] [], deviceCheck s c, params [(0x08, decide (c.p32 0x08 = 256)), (0x10, aligned64 (c.p64 0x10))]] →
      Passes [descParams [(0x00, decide (u16At raw 0 = 1)), (0x02, decide (u8At raw 2 ≤ 1)), (0x03, channelNamed s (u8At raw 3))], descParams (taskFields (taskDescOf raw []) s.inlets[n].complex false s.clk.tick)] →
      inletOfChannel (u8At raw 3) = some n →
      s.inlets[n].state = .running →
      u8At raw 7 ≠ 6 →
      s.tasks.length < 64 →
      spectraRoom s (taskDescOf raw []) = true →
      Admits (takeTaskId s).2 (.task (newTask s (taskDescOf raw []) s.inlets[n]).id) [(lcTileRead, (newTask s (taskDescOf raw []) s.inlets[n]).reserveKbs)] →
      placeShares (newTask s (taskDescOf raw []) s.inlets[n]) (2 ^ 20 - 1) 0 0 (withNewTask s (taskDescOf raw []) s.inlets[n]) = some l →
      GrantsAtOnce (addShares l (withNewTask s (taskDescOf raw []) s.inlets[n])) (cost ((pcTask, 10 * (gatedAmong (withNewTask s (taskDescOf raw []) s.inlets[n]) (l.map Prod.fst).dedup).length) :: (newTask s (taskDescOf raw []) s.inlets[n]).powerItems pcTask)) →
      exec (.specTaskCreate id (some raw) table) s = .next (activateTask c (newTask s (taskDescOf raw []) s.inlets[n]).id (grantItems (.task (newTask s (taskDescOf raw []) s.inlets[n]).id)
        ((pcTask, 10 * (gatedAmong (withNewTask s (taskDescOf raw []) s.inlets[n]) (l.map Prod.fst).dedup).length) :: (newTask s (taskDescOf raw []) s.inlets[n]).powerItems pcTask) (addShares l (withNewTask s (taskDescOf raw []) s.inlets[n]))))) ∧
  (∀ (s : State) (id : Nat) (c : Cmd) (t : Task) (new : Data) (table : HostRead),
      Runs s id 0x0301 anyCmd c →
      Passes [entryCheck c [(0x08, 0x18)] [], deviceCheck s c, needState (t.migration.isNone && t.modify.isNone && t.destroy.isNone && t.stopIndex.isNone || (t.kind = .retro && t.modify.isNone && t.destroy.isNone)),
        params [(0x0C, decide (c.p32 0x0C &&& 0x83FF = c.p32 0x0C)), (0x18, c.p32 0x0C &&& 0x3FF = 0 || aligned64 (c.p64 0x18))]] →
      namedTask s (c.p32 0x08) = some t →
      c.p32 0x0C &&& 0x3FF ≠ 0 →
      bit (c.p32 0x0C) 0 = false →
      t.placedPeer = none →
      Passes [descParams (taskFields (taskDescOf (mergeDesc (c.p32 0x0C) t.desc.raw new) t.desc.table) t.complex true s.clk.tick)] →
      exec (.specTaskModify id (some new) table) s = .next (done c (roundUp (max (c.p64 0x10) (t.ahead s.clk.tick)) t.desc.avg) 0 (setTask t.id (fun x => { x with modNo := t.modNo + 1, modify := some ⟨roundUp (max (c.p64 0x10) (t.ahead s.clk.tick)) t.desc.avg, taskDescOf (mergeDesc (c.p32 0x0C) t.desc.raw new) t.desc.table,
            configCrc (taskDescOf (mergeDesc (c.p32 0x0C) t.desc.raw new) t.desc.table) (t.modNo + 1), bit (c.p32 0x0C) 15⟩ }) s))) ∧
  (∀ (s : State) (id : Nat) (c : Cmd) (t : Task) (new : Data) (table : HostRead),
      Runs s id 0x0301 anyCmd c →
      Passes [entryCheck c [(0x08, 0x18)] [], deviceCheck s c, needState (t.migration.isNone && t.modify.isNone && t.destroy.isNone && t.stopIndex.isNone || (t.kind = .retro && t.modify.isNone && t.destroy.isNone)),
        params [(0x0C, decide (c.p32 0x0C &&& 0x83FF = c.p32 0x0C)), (0x18, c.p32 0x0C &&& 0x3FF = 0 || aligned64 (c.p64 0x18))]] →
      namedTask s (c.p32 0x08) = some t →
      bit (c.p32 0x0C) 0 = true →
      t.placedPeer = none →
      Passes [descParams (taskFields (taskDescOf (mergeDesc (c.p32 0x0C) t.desc.raw new) t.desc.table) t.complex true s.clk.tick)] →
      u8At (mergeDesc (c.p32 0x0C) t.desc.raw new) 7 ≠ 6 →
      stageable s t = true →
      exec (.specTaskModify id (some new) table) s = .next (done c (roundUp (max (c.p64 0x10) (t.ahead s.clk.tick)) t.desc.avg) 0 (setTask t.id (fun x => { x with modNo := t.modNo + 1, modify := some ⟨roundUp (max (c.p64 0x10) (t.ahead s.clk.tick)) t.desc.avg, taskDescOf (mergeDesc (c.p32 0x0C) t.desc.raw new) [],
            configCrc (taskDescOf (mergeDesc (c.p32 0x0C) t.desc.raw new) []) (t.modNo + 1), bit (c.p32 0x0C) 15⟩ }) s))) ∧
  (∀ (s : State) (id : Nat) (c : Cmd) (t : Task) (new : HostRead) (table : HostRead),
      Runs s id 0x0301 anyCmd c →
      Passes [entryCheck c [(0x08, 0x18)] [], deviceCheck s c, needState (t.migration.isNone && t.modify.isNone && t.destroy.isNone && t.stopIndex.isNone || (t.kind = .retro && t.modify.isNone && t.destroy.isNone)),
        params [(0x0C, decide (c.p32 0x0C &&& 0x83FF = c.p32 0x0C)), (0x18, c.p32 0x0C &&& 0x3FF = 0 || aligned64 (c.p64 0x18))]] →
      namedTask s (c.p32 0x08) = some t →
      c.p32 0x0C = 0x8000 →
      t.placedPeer = none →
      Passes [descParams (taskFields (taskDescOf t.desc.raw t.desc.table) t.complex true s.clk.tick)] →
      exec (.specTaskModify id new table) s = .next (done c (roundUp (max (c.p64 0x10) (t.ahead s.clk.tick)) t.desc.avg) 0 (setTask t.id (fun x => { x with modNo := t.modNo + 1, modify := some ⟨roundUp (max (c.p64 0x10) (t.ahead s.clk.tick)) t.desc.avg, taskDescOf t.desc.raw t.desc.table,
            configCrc (taskDescOf t.desc.raw t.desc.table) (t.modNo + 1), bit (c.p32 0x0C) 15⟩ }) s))) ∧
  (∀ (s : State) (id : Nat) (c : Cmd) (t : Task) (new : Data) (table : HostRead) (did : Nat),
      Runs s id 0x0301 anyCmd c →
      Passes [entryCheck c [(0x08, 0x18)] [], deviceCheck s c, needState (t.migration.isNone && t.modify.isNone && t.destroy.isNone && t.stopIndex.isNone || (t.kind = .retro && t.modify.isNone && t.destroy.isNone)),
        params [(0x0C, decide (c.p32 0x0C &&& 0x83FF = c.p32 0x0C)), (0x18, c.p32 0x0C &&& 0x3FF = 0 || aligned64 (c.p64 0x18))]] →
      namedTask s (c.p32 0x08) = some t →
      c.p32 0x0C &&& 0x3FF ≠ 0 →
      bit (c.p32 0x0C) 0 = false →
      t.placedPeer = some did →
      Passes [descParams (taskFields (taskDescOf (mergeDesc (c.p32 0x0C) t.desc.raw new) t.desc.table) t.complex true s.clk.tick)] →
      exec (.specTaskModify id (some new) table) s = .next (done c (roundUp (max (c.p64 0x10) (t.ahead s.clk.tick)) t.desc.avg) 0 (setTask t.id (fun x => { x with modNo := t.modNo + 1, modify := some ⟨roundUp (max (c.p64 0x10) (t.ahead s.clk.tick)) t.desc.avg, taskDescOf (mergeDesc (c.p32 0x0C) t.desc.raw new) t.desc.table,
            configCrc (taskDescOf (mergeDesc (c.p32 0x0C) t.desc.raw new) t.desc.table) (t.modNo + 1), bit (c.p32 0x0C) 15⟩ }) (send (placementMsg s did 8 t.id 0 t.epoch (le 8 (if t.desc.twoStage then roundUp (max (c.p64 0x10) (t.ahead s.clk.tick)) t.desc.avg * 2 ^ t.desc.fLog2 else roundUp (max (c.p64 0x10) (t.ahead s.clk.tick)) t.desc.avg) ++ mergeDesc (c.p32 0x0C) t.desc.raw new)) s)))) ∧
  (∀ (s : State) (id : Nat) (c : Cmd) (t : Task),
      Runs s id 0x0302 anyCmd c →
      Passes [entryCheck c [(0x08, 4), (0x10, 8)] [], deviceCheck s c, needState t.destroy.isNone] →
      namedTask s (c.p32 0x08) = some t →
      exec (.specTaskDestroy id) s = .next (publishTask t.id (wait c (setTask t.id (fun x => { x with destroy := some (c.id, t.stopAt (c.p64 0x10) s.clk.tick), stopIndex := some (t.stopAt (c.p64 0x10) s.clk.tick) }) (abortMigration t.id 4 s))))) ∧
  (∀ (s : State) (id : Nat) (c : Cmd) (t : Task) (l : List (Nat × Share)),
      Runs s id 0x0303 anyCmd c →
      Passes [entryCheck c placeFields [], deviceCheck s c, needState (t.modify.isNone && t.destroy.isNone && t.migration.isNone && t.backfill.isNone && t.stopIndex.isNone), params [(0x0C, decide (c.p8 0x0C ≤ 1)), (0x0E, decide (c.p16 0x0E = 0)), (0x10, decide (c.p32 0x10 < 2 ^ 20))],
        params [(0x14, decide (c.p16 0x14 = 0 ∨ (16 ≤ c.p16 0x14 ∧ c.p16 0x14 ≤ 4096))), (0x18, decide (c.p64 0x18 = 0) || !t.passed (c.p64 0x18))]] →
      liveTask s (c.p32 0x08) = some t →
      c.p8 0x0C = 0 →
      placeShares t (if c.p32 0x10 = 0 then 2 ^ 20 - 1 else c.p32 0x10) 0 ((t.epoch + 1) % 256) s = some l →
      gatedAmong s (l.map Prod.fst).dedup = [] →
      exec (.specTaskPlace id) s = .next (startMigration c t.id (withPlacement s c t l))) ∧
  (∀ (s : State) (id : Nat) (c : Cmd) (t0 : Task) (l : List (Nat × Share)) (k0 : Nat),
      Runs s id 0x0303 anyCmd c →
      Passes [entryCheck c placeFields [], deviceCheck s c, needState (t0.modify.isNone && t0.destroy.isNone && t0.migration.isNone && t0.backfill.isNone && t0.stopIndex.isNone), params [(0x0C, decide (c.p8 0x0C ≤ 1)), (0x0E, decide (c.p16 0x0E = 0)), (0x10, decide (c.p32 0x10 < 2 ^ 20))],
        params [(0x14, decide (c.p16 0x14 = 0 ∨ (16 ≤ c.p16 0x14 ∧ c.p16 0x14 ≤ 4096))), (0x18, decide (c.p64 0x18 = 0) || !t0.passed (c.p64 0x18))]] →
      liveTask s (c.p32 0x08) = some t0 →
      c.p8 0x0C = 0 →
      placeShares t0 (if c.p32 0x10 = 0 then 2 ^ 20 - 1 else c.p32 0x10) 0 ((t0.epoch + 1) % 256) s = some l →
      gatedAmong s (l.map Prod.fst).dedup = [] →
      k0 = max t0.kPub (placeIndex c t0 s.clk.tick) →
      Gives (.specTaskPlace id) s fun t => (findTask t t0.id).map (fun k => (k.migration, k.oldLimit)) = some (some ⟨c.id, k0, placeOverlap c, none, true⟩, k0 + placeOverlap c) ∧
        (∀ n : Fin 20, ∀ x ∈ t.tiles[n].table, x.task = t0.id → x.role = srMain → x.epoch = t0.epoch → x.limit = some (if t0.desc.twoStage then (k0 + placeOverlap c) * 2 ^ t0.desc.fLog2 else k0 + placeOverlap c))) ∧
  (∀ (s : State) (id : Nat) (c : Cmd) (t : Task) (l : List (Nat × Share)),
      Runs s id 0x0303 anyCmd c →
      Passes [entryCheck c placeFields [], deviceCheck s c, needState (t.modify.isNone && t.destroy.isNone && t.migration.isNone && t.backfill.isNone && t.stopIndex.isNone), params [(0x0C, decide (c.p8 0x0C ≤ 1)), (0x0E, decide (c.p16 0x0E = 0)), (0x10, decide (c.p32 0x10 < 2 ^ 20))],
        params [(0x14, decide (c.p16 0x14 = 0 ∨ (16 ≤ c.p16 0x14 ∧ c.p16 0x14 ≤ 4096))), (0x18, decide (c.p64 0x18 = 0) || !t.passed (c.p64 0x18))]] →
      liveTask s (c.p32 0x08) = some t →
      c.p8 0x0C = 0 →
      placeShares t (if c.p32 0x10 = 0 then 2 ^ 20 - 1 else c.p32 0x10) 0 ((t.epoch + 1) % 256) s = some l →
      gatedAmong s (l.map Prod.fst).dedup ≠ [] →
      GrantsAtOnce (withPlacement s c t l) (cost [(pcTask, 10 * (gatedAmong s (l.map Prod.fst).dedup).length)]) →
      exec (.specTaskPlace id) s = .next (startMigration c t.id (grantItems (.placement t.id) [(pcTask, 10 * (gatedAmong s (l.map Prod.fst).dedup).length)] (withPlacement s c t l)))) ∧
  (∀ (s : State) (id : Nat) (c : Cmd) (t : Task),
      Runs s id 0x0303 anyCmd c →
      Passes [entryCheck c placeFields [], deviceCheck s c, needState (t.modify.isNone && t.destroy.isNone && t.migration.isNone && t.backfill.isNone && t.stopIndex.isNone), params [(0x0C, decide (c.p8 0x0C ≤ 1)), (0x0E, decide (c.p16 0x0E = 0)), (0x10, decide (c.p32 0x10 < 2 ^ 20))],
        params [(0x14, decide (c.p16 0x14 = 0 ∨ (16 ≤ c.p16 0x14 ∧ c.p16 0x14 ≤ 4096))), (0x18, decide (c.p64 0x18 = 0) || !t.passed (c.p64 0x18))]] →
      liveTask s (c.p32 0x08) = some t →
      c.p8 0x0C = 0 →
      placeShares t (if c.p32 0x10 = 0 then 2 ^ 20 - 1 else c.p32 0x10) 0 ((t.epoch + 1) % 256) s = none →
      exec (.specTaskPlace id) s = .next (complete c stNoResource 0 0 0 (taskEvent 0x08 [.w t.id, .h 1] (setTask t.id (fun t => { t with migration := none }) (dropShares t.id (fun x => decide (x.epoch = (t.epoch + 1) % 256) && !x.back) s))))) ∧
  (∀ (s : State) (id : Nat) (c : Cmd) (t : Task) (u : State) (v : State),
      Runs s id 0x0303 anyCmd c →
      Passes [entryCheck c placeFields [], deviceCheck s c, needState (t.modify.isNone && t.destroy.isNone && t.migration.isNone && t.backfill.isNone && t.stopIndex.isNone), params [(0x10, decide (c.p32 0x10 < 1))],
        params [(0x14, decide (c.p16 0x14 = 0 ∨ (16 ≤ c.p16 0x14 ∧ c.p16 0x14 ≤ 4096))), (0x18, decide (c.p64 0x18 = 0) || !t.passed (c.p64 0x18))], need (reachable s.link (c.p16 0x0E)) stLink 0] →
      liveTask s (c.p32 0x08) = some t →
      c.p8 0x0C = 1 →
      admitFlow (.placement t.id) (c.p16 0x0E) t.linkTx t.linkRx s = some u →
      Admits u (.placement t.id) [(lcLinks, t.placementKbs)] →
      v = setTask t.id (fun x => { x with migration := some ⟨c.id, 2 ^ 64, placeOverlap c, some (c.p16 0x0E), false⟩ }) (addReservations (.placement t.id) [(lcLinks, t.placementKbs)] u) →
      GrantsAtOnce v t.placementUnits →
      exec (.specTaskPlace id) s = .next (sendAsk c t.id (grantItems (.placement t.id) [(pcLink, t.placementUnits)] v))) ∧
  (∀ (s : State) (id : Nat) (c : Cmd) (n : Fin 4) (raw : Data) (table : HostRead) (k : Nat) (x : Nat) (rest : List (Nat × Nat)),
      Runs s id 0x0310 anyCmd c →
      Passes [entryCheck c [(0x08, 4), (0x10, 24)] [], deviceCheck s c, params [(0x08, decide (c.p32 0x08 = 256)), (0x10, aligned64 (c.p64 0x10))], params [(0x18, decide (c.p64 0x18 < c.p64 0x20))]] →
      Passes [params (retroSpan s.inlets[n] (c.p64 0x18) (c.p64 0x20)), descParams [(0x00, decide (u16At raw 0 = 1)), (0x02, decide (u8At raw 2 = 0)), (0x03, channelNamed s (u8At raw 3))], descParams (taskFields ({ taskDescOf raw [] with startTick := 0 } : TaskDesc) s.inlets[n].complex true s.clk.tick)] →
      inletOfChannel (u8At raw 3) = some n →
      channelNamed s (u8At raw 3) = true →
      u8At raw 7 ≠ 6 →
      s.tasks.length < 64 →
      retroCount s < 16 →
      spectraRoom s ({ taskDescOf raw [] with startTick := 0 } : TaskDesc) = true →
      openTiles (withNewRetro s ({ taskDescOf raw [] with startTick := 0 } : TaskDesc) s.inlets[n] c) (2 ^ 20 - 1) (newRetro s ({ taskDescOf raw [] with startTick := 0 } : TaskDesc) s.inlets[n] c).footprint true = (k, x) :: rest ∨ (openTiles (withNewRetro s ({ taskDescOf raw [] with startTick := 0 } : TaskDesc) s.inlets[n] c) (2 ^ 20 - 1) (newRetro s ({ taskDescOf raw [] with startTick := 0 } : TaskDesc) s.inlets[n] c).footprint true = [] ∧ openTiles (withNewRetro s ({ taskDescOf raw [] with startTick := 0 } : TaskDesc) s.inlets[n] c) (2 ^ 20 - 1) (newRetro s ({ taskDescOf raw [] with startTick := 0 } : TaskDesc) s.inlets[n] c).footprint false = (k, x) :: rest) →
      GrantsAtOnce (addShares [(k, retroShare (newRetro s ({ taskDescOf raw [] with startTick := 0 } : TaskDesc) s.inlets[n] c))] (withNewRetro s ({ taskDescOf raw [] with startTick := 0 } : TaskDesc) s.inlets[n] c)) (cost [(pcRetro, 10 * (gatedAmong (withNewRetro s ({ taskDescOf raw [] with startTick := 0 } : TaskDesc) s.inlets[n] c) [k]).length), (pcRetro, ceilDiv (2 * (newRetro s ({ taskDescOf raw [] with startTick := 0 } : TaskDesc) s.inlets[n] c).demand) 16), (pcRetro, storeUnits (newRetro s ({ taskDescOf raw [] with startTick := 0 } : TaskDesc) s.inlets[n] c).readKbs)]) →
      exec (.retroJobSubmit id (some raw) table) s = .next (activateRetro c (newRetro s ({ taskDescOf raw [] with startTick := 0 } : TaskDesc) s.inlets[n] c).id (grantItems (.retro (newRetro s ({ taskDescOf raw [] with startTick := 0 } : TaskDesc) s.inlets[n] c).id)
        [(pcRetro, 10 * (gatedAmong (withNewRetro s ({ taskDescOf raw [] with startTick := 0 } : TaskDesc) s.inlets[n] c) [k]).length), (pcRetro, ceilDiv (2 * (newRetro s ({ taskDescOf raw [] with startTick := 0 } : TaskDesc) s.inlets[n] c).demand) 16), (pcRetro, storeUnits (newRetro s ({ taskDescOf raw [] with startTick := 0 } : TaskDesc) s.inlets[n] c).readKbs)] (addShares [(k, retroShare (newRetro s ({ taskDescOf raw [] with startTick := 0 } : TaskDesc) s.inlets[n] c))] (withNewRetro s ({ taskDescOf raw [] with startTick := 0 } : TaskDesc) s.inlets[n] c))))) ∧
  (∀ (s : State) (id : Nat) (c : Cmd) (raw : Data) (i : Inlet) (u : State) (v : State),
      Runs s id 0x0311 anyCmd c →
      Passes [entryCheck c [(0x08, 4), (0x10, 8)] [], deviceCheck s c, params [(0x08, decide (c.p32 0x08 = 256)), (0x10, aligned64 (c.p64 0x10))]] →
      u8At raw 2 ≠ 1 →
      Passes [descParams (xcFields s raw), needState ((xcSources raw).all fun x => x.remote || (match inletOfChannel x.channel with | some n => s.inlets[n].state = .running | none => false)), need ((xcSources raw).all fun x => !x.remote || reachable s.link x.did) stLink 0] →
      xcInlet s raw = some i →
      (withNewXcorr s raw i).tasks.length ≤ 64 →
      (s.store.region rtSpectra).isSome = true →
      admitRemotes (newXcorr s raw i) i (withNewXcorr s raw i) = some u →
      Admits u (.xcorr (newXcorr s raw i).id) (xcorrTraffic (newXcorr s raw i) i (sourceTasks (withNewXcorr s raw i) (newXcorr s raw i).id)) →
      placeXcorr (newXcorr s raw i).id (crossDemand (newXcorr s raw i) i) (addReservations (.xcorr (newXcorr s raw i).id) (xcorrTraffic (newXcorr s raw i) i (sourceTasks (withNewXcorr s raw i) (newXcorr s raw i).id)) u) = some v →
      GrantsAtOnce v (cost (xcorrItems (addReservations (.xcorr (newXcorr s raw i).id) (xcorrTraffic (newXcorr s raw i) i (sourceTasks (withNewXcorr s raw i) (newXcorr s raw i).id)) u) v (crossDemand (newXcorr s raw i) i) (sourceTasks (withNewXcorr s raw i) (newXcorr s raw i).id))) →
      exec (.xcorrCreate id (some raw)) s = .next (activateXcorr c (newXcorr s raw i).id (grantItems (.xcorr (newXcorr s raw i).id)
        (xcorrItems (addReservations (.xcorr (newXcorr s raw i).id) (xcorrTraffic (newXcorr s raw i) i (sourceTasks (withNewXcorr s raw i) (newXcorr s raw i).id)) u) v (crossDemand (newXcorr s raw i) i) (sourceTasks (withNewXcorr s raw i) (newXcorr s raw i).id)) v))) ∧
  (∀ (s : State) (id : Nat) (c : Cmd) (raw : Data),
      Runs s id 0x0311 anyCmd c →
      Passes [entryCheck c [(0x08, 4), (0x10, 8)] [], deviceCheck s c, params [(0x08, decide (c.p32 0x08 = 256)), (0x10, aligned64 (c.p64 0x10))]] →
      u8At raw 2 = 1 →
      Passes [descParams ([(0x00, decide (u16At raw 0 = 1)), (0x04, (findXcorr s (u32At raw 4)).isSome)] ++ (0x0F :: (List.range 4).map (0x1C + ·) ++ (List.range 88).map (0xA8 + ·)).map (fun o => (o, decide (u8At raw o = 0))))] →
      exec (.xcorrDestroy id (some raw)) s = .next (done c 0 0 (endXcorr (u32At raw 4) s)))

/-- A free tile takes, of the shares with a batch released, one of the highest priority and there the earliest release, and its sequencer
begins at the entry of the routine of that share; with nothing to run it idles (R178 to R180); an abandon raised while it was idle takes
effect first (R186). The read of a frame that the store holds forms its unit at its issue tick; one not yet committed waits (R14, R29); a
poisoned sector is reported, abandons the run when it is met for the first time, and afterwards lets the unit be formed (R79, R81, R183,
R184); a share for a home device asks that device for its frame, waits, and forms its unit (R366). The unit of a tile whose earlier
operations are not complete waits (R182). A good unit within the commit window leaves the tile and is accepted; outside it the tile waits;
a bad one abandons the run (R155, R182). A staged share table takes over: a run is abandoned with cause 1, and IDX moves to the next own
index (R184, R187). An index of a correlator held for 256 us without every source is excluded, and with it the lower ones (R150). -/
def Obligations.TilesRunTheirBatches : Prop :=
  (∀ (s : State) (n : Fin 20),
      s.tiles[n].healthy = true →
      s.tiles[n].powered = true →
      s.tiles[n].running = none →
      rootBypassed s = false →
      nextShare s s.tiles[n] = none →
      exec (.tileBatchStart n) s = .next (setTile n (fun t => { t with state := .idle, waitReason := 0 }) s)) ∧
  (∀ (s : State) (n : Fin 20) (x : Share) (b : List Nat),
      s.tiles[n].healthy = true →
      s.tiles[n].powered = true →
      s.tiles[n].running = none →
      rootBypassed s = false →
      nextShare s s.tiles[n] = some (x, b) →
      s.tiles[n].pendingCauses = [] →
      Gives (.tileBatchStart n) s fun t => t.tiles[n].running = some x.key ∧ t.tiles[n].batch = b ∧ t.tiles[n].units = [] ∧ t.tiles[n].readIssued = 0 ∧
        t.tiles[n].state = .running ∧ t.tiles[n].routine = routineOfShare s x ∧ t.tiles[n].seq.upc = entryOf s (routineOfShare s x) ∧ t.tiles[n].seq.stack = [] ∧
        t.tiles[n].runStart = s.clk.up ∧ t.tiles[n].nominal = nominalCycles s x b.length ∧
        (x ∈ s.tiles[n].shares ∧ b = batchOf s x ∧ ∀ y ∈ s.tiles[n].shares, batchOf s y ≠ [] → workRank s x b < workRank s y (batchOf s y) ∨
          (workRank s x b = workRank s y (batchOf s y) ∧ releaseOf s x (b.headD 0) ≤ releaseOf s y ((batchOf s y).headD 0))) ∧
        t.tiles[n].shares.map (fun y => { y with ran := 0 }) = s.tiles[n].shares.map (fun y => { y with ran := 0 }) ∧
        (∀ m : Fin 20, m ≠ n → t.tiles[m] = s.tiles[m]) ∧ t = { s with tiles := t.tiles }) ∧
  (∀ (s : State) (n : Fin 20) (x : Share) (b : List Nat),
      s.tiles[n].healthy = true →
      s.tiles[n].powered = true →
      s.tiles[n].running = none →
      rootBypassed s = false →
      nextShare s s.tiles[n] = some (x, b) →
      s.tiles[n].pendingCauses ≠ [] →
      Gives (.tileBatchStart n) s fun t => ∃ u : State, t = abandonRun n s.tiles[n].pendingCauses b.head? u ∧ u.tiles[n].running = some x.key ∧ u.tiles[n].batch = b ∧
        u.tiles[n].pendingCauses = [] ∧ (∀ m : Fin 20, m ≠ n → u.tiles[m] = s.tiles[m]) ∧ u = { s with tiles := u.tiles }) ∧
  (∀ (s : State) (n : Fin 20) (x : Share) (k : Nat) (tk : Task) (v : State),
      s.tiles[n].runningShare = some x →
      (s.tiles[n].batch.drop s.tiles[n].readIssued).head? = some k →
      s.tiles[n].restarting = false →
      x.role ≠ srCross →
      x.role ≠ srForeign →
      findTask s x.task = some tk →
      v = storeAsk (waitTick (issueTick tk x k) s) →
      x.role = srFine ∨ x.role = srBackFine ∨ frameCommitted v tk k = true →
      storeServes v = true →
      poisonMet v tk x.role k = [] →
      exec (.tileReadIssue n) s = .next (setTile n (fun t => { t with units := t.units ++ [shareUnit v tk x k], readIssued := t.readIssued + 1, state := .running, waitReason := 0, seq := { t.seq with bursts := 0 } }) v)) ∧
  (∀ (s : State) (n : Fin 20) (x : Share) (k : Nat) (tk : Task) (v : State),
      s.tiles[n].runningShare = some x →
      (s.tiles[n].batch.drop s.tiles[n].readIssued).head? = some k →
      s.tiles[n].restarting = false →
      x.role ≠ srCross →
      x.role ≠ srForeign →
      findTask s x.task = some tk →
      v = storeAsk (waitTick (issueTick tk x k) s) →
      (x.role ≠ srFine ∧ x.role ≠ srBackFine ∧ frameCommitted v tk k = false) ∨ storeServes v = false →
      exec (.tileReadIssue n) s = .next (setTile n (fun t => { t with state := .waiting, waitReason := 1 }) v)) ∧
  (∀ (s : State) (n : Fin 20) (x : Share) (k : Nat) (tk : Task) (v : State) (u : State),
      s.tiles[n].runningShare = some x →
      (s.tiles[n].batch.drop s.tiles[n].readIssued).head? = some k →
      s.tiles[n].restarting = false →
      x.role ≠ srCross →
      x.role ≠ srForeign →
      findTask s x.task = some tk →
      v = storeAsk (waitTick (issueTick tk x k) s) →
      x.role = srFine ∨ x.role = srBackFine ∨ frameCommitted v tk k = true →
      storeServes v = true →
      u = forL (poisonMet v tk x.role k) (fun p w => raise 0x304 [.q p.1, .h (roleRequester x.role)] w) v →
      (poisonMet v tk x.role k).filter (fun p => !s.tiles[n].reread.contains p) ≠ [] →
      exec (.tileReadIssue n) s = .next (abandonRun n [2] (some k) (setTile n (fun t => { t with reread := t.reread ++ (poisonMet v tk x.role k).filter (fun p => !s.tiles[n].reread.contains p) }) u))) ∧
  (∀ (s : State) (n : Fin 20) (x : Share) (k : Nat) (tk : Task) (v : State) (u : State),
      s.tiles[n].runningShare = some x →
      (s.tiles[n].batch.drop s.tiles[n].readIssued).head? = some k →
      s.tiles[n].restarting = false →
      x.role ≠ srCross →
      x.role ≠ srForeign →
      findTask s x.task = some tk →
      v = storeAsk (waitTick (issueTick tk x k) s) →
      x.role = srFine ∨ x.role = srBackFine ∨ frameCommitted v tk k = true →
      storeServes v = true →
      u = forL (poisonMet v tk x.role k) (fun p w => raise 0x304 [.q p.1, .h (roleRequester x.role)] w) v →
      ∀ p ∈ poisonMet v tk x.role k, p ∈ s.tiles[n].reread →
      exec (.tileReadIssue n) s = .next (setTile n (fun t => { t with units := t.units ++ [shareUnit u tk x k], readIssued := t.readIssued + 1, state := .running, waitReason := 0, seq := { t.seq with bursts := 0 } }) u)) ∧
  (∀ (s : State) (n : Fin 20) (x : Share) (k : Nat),
      s.tiles[n].runningShare = some x →
      (s.tiles[n].batch.drop s.tiles[n].readIssued).head? = some k →
      s.tiles[n].restarting = false →
      x.role = srCross →
      exec (.tileReadIssue n) s = .next (setTile n (fun t => { t with units := t.units ++ [{ gapUnit x.task k 0 0 false with gap := none }], readIssued := t.readIssued + 1, state := .running, waitReason := 0, seq := { t.seq with bursts := 0 } }) s)) ∧
  (∀ (s : State) (n : Fin 20) (x : Share) (k : Nat) (f : ForeignShare),
      s.tiles[n].runningShare = some x →
      (s.tiles[n].batch.drop s.tiles[n].readIssued).head? = some k →
      s.tiles[n].restarting = false →
      x.role = srForeign →
      findForeign s x.task x.epoch = some f →
      s.link.remoteReads.find? (·.tile = n.val) = none →
      Gives (.tileReadIssue n) s fun t => t.tiles[n] = { s.tiles[n] with state := .waiting, waitReason := 1 } ∧ (∀ m : Fin 20, m ≠ n → t.tiles[m] = s.tiles[m]) ∧
        ∃ r : RemoteRead, t.link.remoteReads = s.link.remoteReads ++ [r] ∧ r.tile = n.val ∧ 1 ≤ r.left ∧ r.gap = none ∧ t.link.requests.length = s.link.requests.length + r.left) ∧
  (∀ (s : State) (n : Fin 20) (x : Share) (k : Nat) (f : ForeignShare) (r : RemoteRead),
      s.tiles[n].runningShare = some x →
      (s.tiles[n].batch.drop s.tiles[n].readIssued).head? = some k →
      s.tiles[n].restarting = false →
      x.role = srForeign →
      findForeign s x.task x.epoch = some f →
      s.link.remoteReads.find? (·.tile = n.val) = some r →
      r.left = 0 →
      exec (.tileReadIssue n) s = .next (setTile n (fun t => { t with units := t.units ++ [{ gapUnit x.task k x.epoch 0 false with gap := r.gap }], readIssued := t.readIssued + 1, state := .running, waitReason := 0, seq := { t.seq with bursts := 0 } })
        { s with link := { s.link with remoteReads := s.link.remoteReads.filter (·.tile ≠ n.val) } })) ∧
  (∀ (s : State) (n : Fin 20) (good : Bool) (x : Share) (u : CommitUnit) (l : List CommitUnit),
      s.tiles[n].runningShare = some x →
      s.tiles[n].units = u :: l →
      s.tiles[n].restarting = false →
      s.tiles[n].drained = false →
      exec (.commitUnitAccept n good) s = .next (setTile n (fun t => { t with state := .waiting, waitReason := 2 }) s)) ∧
  (∀ (s : State) (n : Fin 20) (x : Share) (u : CommitUnit) (l : List CommitUnit),
      s.tiles[n].runningShare = some x →
      s.tiles[n].units = u :: l →
      s.tiles[n].restarting = false →
      s.tiles[n].drained = true →
      windowOpen s x u = true →
      x.back = false →
      x.role ≠ srCross →
      x.role ≠ srForeign →
      s.tiles[n].seq.events = 0 ∨ u.saturated ≠ 0 →
      exec (.commitUnitAccept n true) s = .next (acceptUnit u (setTile n Tile.committed (advanceShare n x u.index s)))) ∧
  (∀ (s : State) (n : Fin 20) (x : Share) (u : CommitUnit) (l : List CommitUnit),
      s.tiles[n].runningShare = some x →
      s.tiles[n].units = u :: l →
      s.tiles[n].restarting = false →
      s.tiles[n].drained = true →
      windowOpen s x u = true →
      x.back = true →
      s.tiles[n].seq.events = 0 ∨ u.saturated ≠ 0 →
      exec (.commitUnitAccept n true) s = .next (acceptUnit u (backfillDone x.task u.index (x.role = srBackFine) (setTile n Tile.committed (advanceShare n x u.index s))))) ∧
  (∀ (s : State) (n : Fin 20) (x : Share) (u : CommitUnit) (l : List CommitUnit),
      s.tiles[n].runningShare = some x →
      s.tiles[n].units = u :: l →
      s.tiles[n].restarting = false →
      s.tiles[n].drained = true →
      windowOpen s x u = true →
      x.role = srCross →
      exec (.commitUnitAccept n true) s = .next (xcAccumulate x.task u.index (setTile n Tile.committed (advanceShare n x u.index s)))) ∧
  (∀ (s : State) (n : Fin 20) (x : Share) (u : CommitUnit) (l : List CommitUnit),
      s.tiles[n].runningShare = some x →
      s.tiles[n].units = u :: l →
      s.tiles[n].restarting = false →
      s.tiles[n].drained = true →
      windowOpen s x u = true →
      x.role = srForeign →
      exec (.commitUnitAccept n true) s = .next (commitForeign x u (setTile n Tile.committed (advanceShare n x u.index s)))) ∧
  (∀ (s : State) (n : Fin 20) (x : Share) (u : CommitUnit) (l : List CommitUnit),
      s.tiles[n].runningShare = some x →
      s.tiles[n].units = u :: l →
      s.tiles[n].restarting = false →
      s.tiles[n].drained = true →
      windowOpen s x u = true →
      exec (.commitUnitAccept n false) s = .next (abandonRun n [3] (some u.index) s)) ∧
  (∀ (s : State) (n : Fin 20) (good : Bool) (x : Share) (u : CommitUnit) (l : List CommitUnit),
      s.tiles[n].runningShare = some x →
      s.tiles[n].units = u :: l →
      s.tiles[n].restarting = false →
      s.tiles[n].drained = true →
      windowOpen s x u = false →
      s.tiles[n].waitReason = 3 →
      exec (.commitUnitAccept n good) s = .next (setTask x.task (fun k => { k with lagging := true }) (setTile n (fun t => { t with state := .waiting, waitReason := 3 }) s))) ∧
  (∀ (s : State) (n : Fin 20) (good : Bool) (x : Share) (u : CommitUnit) (l : List CommitUnit),
      s.tiles[n].runningShare = some x →
      s.tiles[n].units = u :: l →
      s.tiles[n].restarting = false →
      s.tiles[n].drained = true →
      windowOpen s x u = false →
      s.tiles[n].waitReason ≠ 3 →
      exec (.commitUnitAccept n good) s = .next (setTask x.task (fun k => { k with lagging := true }) (setTile n (fun t => { t with state := .waiting, waitReason := 3 }) (taskEvent 0x05 [.w x.task, .q u.index] s)))) ∧
  (∀ (s : State) (n : Fin 20) (l : List Share),
      s.tiles[n].staged.isSome = true →
      s.tiles[n].healthy = true →
      s.tiles[n].running = none →
      l = s.tiles[n].merged.map (fun x => { x with idx := nextOwn x.period x.residues x.idx }) →
      exec (.shareHandover n) s = .next (setTile n (fun t => { t with staged := none, powered := !l.isEmpty, shares := l }) s)) ∧
  (∀ (s : State) (n : Fin 20) (l : List Share),
      s.tiles[n].staged.isSome = true →
      s.tiles[n].healthy = true →
      s.tiles[n].running.isSome = true →
      s.tiles[n].restarting = false →
      l = s.tiles[n].merged.map (fun x => { x with idx := nextOwn x.period x.residues x.idx }) →
      exec (.shareHandover n) s = .next (setTile n (fun t => { t with staged := none, powered := !l.isEmpty, shares := l }) (abandonRun n [1] none s))) ∧
  (∀ (s : State) (n : Fin 20) (l : List Share),
      s.tiles[n].staged.isSome = true →
      s.tiles[n].healthy = true →
      s.tiles[n].running.isSome = true →
      s.tiles[n].restarting = true →
      l = s.tiles[n].merged.map (fun x => { x with idx := nextOwn x.period x.residues x.idx }) →
      exec (.shareHandover n) s = .next (setTile n (fun t => { t with staged := none, powered := !l.isEmpty, shares := l, restarts := vmodN t.restarts 0 (fun x => satN 32 (x + 1)) }) s)) ∧
  (∀ (s : State) (xc : U32) (x : Xcorr) (w : XcIndex) (l : List XcIndex),
      findXcorr s xc.toNat = some x →
      sortBy (·.index) x.waiting = w :: l →
      w.values.length ≠ x.sources.length ∨ x.stopped w.index = true →
      exec (.xcorrIndexTimeout xc) s = .next ((List.range (w.index - x.nextIndex + 1)).foldl (fun u _ => xcExclude xc.toNat u) (waitUp (w.since + 256 * 1280) s))) ∧
  (∀ (s : State) (xc : U32) (x : Xcorr) (w : XcIndex) (l : List XcIndex),
      findXcorr s xc.toNat = some x →
      sortBy (·.index) x.waiting = w :: l →
      w.values.length = x.sources.length →
      x.stopped w.index = false →
      w.index ≠ x.nextIndex →
      exec (.xcorrIndexTimeout xc) s = .next ((List.range (w.index - x.nextIndex)).foldl (fun u _ => xcExclude xc.toNat u) (waitUp (w.since + 256 * 1280) s)))

/-- A routine is abandoned for its causes, a microword that fails its check being repaired (R170, R171, R184); one that fails again at its
address fences the tile with cause 4 (R158, R171); raised while the tile idles it waits for the next batch (R186). An abandoned routine
restarts two clocks later at its entry with its index unchanged, a fault that a restart recovers is reported, and with nothing left to run
the tile idles (R168, R185). A routine that has run for more than four times its nominal cycles fences the tile with cause 3 (R157, R179).
A control-store word that fails the background check is repaired, and fences the tile on a second failure in a row (R171). The shares of a
fenced tile are re-placed on the tiles that have room (R159); a retro job that no tile takes is stopped with cause 4 (R161); and a
backfill job whose indices are all committed ends with its power released (R159). -/
def Obligations.TilesRecoverOrAreFenced : Prop :=
  (∀ (s : State) (n : Fin 20) (causes : List Nat) (all : List Nat) (offset : Nat) (addr : Nat) (got : Nat) (flips : Nat) (v : State),
      v = (if flips = 0 ∨ controlWords ≤ got then s else upsetWord n got flips s) →
      s.tiles[n].healthy = true →
      s.tiles[n].restarting = false →
      s.tiles[n].seq.faults = [] →
      all = (causes.filter fun c => decide (1 ≤ c ∧ c ≤ 6) && (c ≠ 5 || !fetchPasses v n addr got)) →
      all ≠ [] →
      s.tiles[n].running.isSome = true →
      5 ∉ all →
      exec (.routineAbandon n causes ⟨offset, addr, got, flips⟩) s = .next (abandonRun n all (s.tiles[n].failIndex offset) (setTile n (fun t => { t with lastFailAddr := none }) v))) ∧
  (∀ (s : State) (n : Fin 20) (causes : List Nat) (all : List Nat) (offset : Nat) (addr : Nat) (got : Nat) (flips : Nat) (v : State),
      v = (if flips = 0 ∨ controlWords ≤ got then s else upsetWord n got flips s) →
      s.tiles[n].healthy = true →
      s.tiles[n].restarting = false →
      s.tiles[n].seq.faults = [] →
      all = (causes.filter fun c => decide (1 ≤ c ∧ c ≤ 6) && (c ≠ 5 || !fetchPasses v n addr got)) →
      all ≠ [] →
      s.tiles[n].running.isSome = true →
      5 ∈ all →
      s.tiles[n].lastFailAddr ≠ some addr →
      exec (.routineAbandon n causes ⟨offset, addr, got, flips⟩) s = .next (abandonRun n all (s.tiles[n].failIndex offset) (setTile n (fun t => { t with lastFailAddr := some addr }) (repairWord n got v)))) ∧
  (∀ (s : State) (n : Fin 20) (causes : List Nat) (all : List Nat) (offset : Nat) (addr : Nat) (got : Nat) (flips : Nat) (v : State),
      v = (if flips = 0 ∨ controlWords ≤ got then s else upsetWord n got flips s) →
      s.tiles[n].healthy = true →
      s.tiles[n].restarting = false →
      s.tiles[n].seq.faults = [] →
      all = (causes.filter fun c => decide (1 ≤ c ∧ c ≤ 6) && (c ≠ 5 || !fetchPasses v n addr got)) →
      all ≠ [] →
      s.tiles[n].running.isSome = true →
      5 ∈ all →
      s.tiles[n].lastFailAddr = some addr →
      exec (.routineAbandon n causes ⟨offset, addr, got, flips⟩) s = .next (fenceTile n 4 (setTile n (·.counted all) v))) ∧
  (∀ (s : State) (n : Fin 20) (causes : List Nat) (all : List Nat) (offset : Nat) (addr : Nat) (got : Nat) (flips : Nat) (v : State),
      v = (if flips = 0 ∨ controlWords ≤ got then s else upsetWord n got flips s) →
      s.tiles[n].healthy = true →
      s.tiles[n].restarting = false →
      s.tiles[n].seq.faults = [] →
      all = (causes.filter fun c => decide (1 ≤ c ∧ c ≤ 6) && (c ≠ 5 || !fetchPasses v n addr got)) →
      all ≠ [] →
      s.tiles[n].running = none →
      5 ∉ all →
      exec (.routineAbandon n causes ⟨offset, addr, got, flips⟩) s = .next (setTile n (fun t => { t with pendingCauses := t.pendingCauses ++ all }) v)) ∧
  (∀ (s : State) (n : Fin 20) (causes : List Nat) (all : List Nat) (offset : Nat) (addr : Nat) (got : Nat) (flips : Nat) (v : State),
      v = (if flips = 0 ∨ controlWords ≤ got then s else upsetWord n got flips s) →
      s.tiles[n].healthy = true →
      s.tiles[n].restarting = false →
      s.tiles[n].seq.faults = [] →
      all = (causes.filter fun c => decide (1 ≤ c ∧ c ≤ 6) && (c ≠ 5 || !fetchPasses v n addr got)) →
      all ≠ [] →
      s.tiles[n].running = none →
      5 ∈ all →
      exec (.routineAbandon n causes ⟨offset, addr, got, flips⟩) s = .next (setTile n (fun t => { t with pendingCauses := t.pendingCauses ++ all }) (repairWord n got v))) ∧
  (∀ (s : State) (n : Fin 20) (x : Share) (u : State),
      s.tiles[n].runningShare = some x →
      s.tiles[n].restarting = true →
      u = setTile n (fun t => { t with batch := [] }) (Machine.pass 2 s) →
      batchOf u x ≠ [] →
      s.tiles[n].lastFailIndex = none →
      Gives (.routineRestart n) s fun t => t.clk = (Machine.pass 2 s).clk ∧ t.tiles[n].restarting = false ∧ t.tiles[n].batch = batchOf u x ∧ t.tiles[n].units = [] ∧
        t.tiles[n].readIssued = 0 ∧ t.tiles[n].state = .running ∧ t.tiles[n].seq.upc = entryOf s (routineOfShare s x) ∧ t.tiles[n].shares = s.tiles[n].shares ∧ (∀ m : Fin 20, m ≠ n → t.tiles[m] = s.tiles[m]) ∧
        t = { s with clk := t.clk, tiles := t.tiles }) ∧
  (∀ (s : State) (n : Fin 20) (x : Share) (u : State) (k : Nat),
      s.tiles[n].runningShare = some x →
      s.tiles[n].restarting = true →
      u = setTile n (fun t => { t with batch := [] }) (Machine.pass 2 s) →
      batchOf u x ≠ [] →
      s.tiles[n].lastFailIndex = some k →
      exec (.routineRestart n) s = .next (raise (0x401 + n.val * 0x10) [.h n.val, .q k] (startRun n x (batchOf u x) u))) ∧
  (∀ (s : State) (n : Fin 20) (x : Share) (u : State),
      s.tiles[n].runningShare = some x →
      s.tiles[n].restarting = true →
      u = setTile n (fun t => { t with batch := [] }) (Machine.pass 2 s) →
      batchOf u x = [] →
      exec (.routineRestart n) s = .next (setTile n (fun t => { t.stopRun with state := .idle }) u)) ∧
  (∀ (s : State) (n : Fin 20),
      s.tiles[n].running.isSome = true →
      s.tiles[n].restarting = false →
      exec (.tileWatchdogExpiry n) s = .next (fenceTile n 3 (waitUp (s.tiles[n].runStart + 4 * s.tiles[n].nominal + 1) s))) ∧
  (∀ (s : State) (n : Fin 20) (addr : Nat) (got : Nat) (flips : Nat) (v : State),
      s.tiles[n].healthy = true →
      addr < 8192 →
      v = (if flips = 0 ∨ controlWords ≤ got then s else upsetWord n got flips s) →
      fetchPasses v n addr got = false →
      addr ∉ s.tiles[n].scrubFails →
      exec (.controlStoreScrubCheck n addr got flips) s = .next (repairWord n got (setTile n (fun t => { t with scrubFails := t.scrubFails ++ [addr] }) v))) ∧
  (∀ (s : State) (n : Fin 20) (addr : Nat) (got : Nat) (flips : Nat) (v : State),
      s.tiles[n].healthy = true →
      addr < 8192 →
      v = (if flips = 0 ∨ controlWords ≤ got then s else upsetWord n got flips s) →
      fetchPasses v n addr got = false →
      addr ∈ s.tiles[n].scrubFails →
      exec (.controlStoreScrubCheck n addr got flips) s = .next (fenceTile n 4 (setTile n (fun t => { t with scrubFails := t.scrubFails.filter (· ≠ addr) }) v))) ∧
  (∀ (s : State) (n : Fin 20) (addr : Nat) (got : Nat) (flips : Nat) (v : State),
      s.tiles[n].healthy = true →
      addr < 8192 →
      v = (if flips = 0 ∨ controlWords ≤ got then s else upsetWord n got flips s) →
      fetchPasses v n addr got = true →
      exec (.controlStoreScrubCheck n addr got flips) s = .next (setTile n (fun t => { t with scrubFails := t.scrubFails.filter (· ≠ addr) }) v)) ∧
  (∀ (s : State) (n : Fin 20),
      s.tiles[n].state = .fenced →
      exec (.replacementComplete n) s = .next (forL s.tiles[n].shares (fun x u => replaceOne n x u) s)) ∧
  (∀ (s : State) (n : Fin 20) (x : Share) (tk : Task),
      s.tiles[n].state = .fenced →
      s.tiles[n].shares = [x] →
      x.role = srMain →
      findTask s x.task = some tk →
      x.sixteenths ≤ ((chooseWhat s x.sixteenths tk.footprint true).map Prod.snd).sum →
      exec (.replacementComplete n) s = .next (replaceShare x (chooseWhat s x.sixteenths tk.footprint true) 4 ((tk.backfill.map (·.cause)).getD 4) (setTile n (fun t => { t with shares := [] }) s))) ∧
  (∀ (s : State) (n : Fin 20) (x : Share),
      s.tiles[n].state = .fenced →
      s.tiles[n].shares = [x] →
      x.role = srRetro →
      openTiles s (2 ^ 20 - 1) (shareFoot s x) false = [] →
      exec (.replacementComplete n) s = .next (publishTask x.task (stopResidues x.task x [0] 4 none (setTile n (fun t => { t with shares := [] }) s)))) ∧
  (∀ (s : State) (id : U32) (k : Task) (b : Backfill),
      findTask s id.toNat = some k →
      k.backfill = some b →
      b.indices = [] →
      b.fine = [] →
      exec (.backfillComplete id) s = .next (taskEvent 0x03 [.w id.toNat] (releasePower (.backfill id.toNat)
        (dropShares id.toNat (fun x => x.role = srBackfill || x.role = srBackFine) (setTask id.toNat (fun t => { t with backfill := none }) s)))))

/-- A unit that no armed AT uses takes its configuration with everything else afresh (R207, R208), an FMASK with its points; a matrix that
is not armed takes its terms and forgets its steps, and a term that changes finds each unit's four most recent fires (R210, R213; log 23);
an AT that is not armed takes its definition where the retention fits, a master as a member of its own group, or registers with its
group's master and waits, the old definition standing until then, or clears it (R222, R229, R230, R427). The queries write their blocks
(R245, R246). -/
def Obligations.TriggersAndAcquisitionsAreConfigured : Prop :=
  (∀ (s : State) (id : Nat) (c : Cmd) (k : Fin 32) (points : HostRead) (u : State),
      Runs s id 0x0400 (fun c => !unitQuery c) c →
      Passes [entryCheck c ([(0x08, 1), (0x09, 1), (0x0A, 2), (0x0C, 4), (0x10, 8), (0x18, 2), (0x1C, 4)] ++ kindFields (c.p8 0x09)) [(0x0A, decide (c.p16 0x0A = 0)), (0x08, true)], deviceCheck u c, needState (!unitInUse u k), unitParams u k c] →
      u = squallDue s →
      c.p8 0x08 = k.val →
      (unitCfgOf c).kind ≠ tkFmask →
      exec (.trigUnitConfig id points) s = .next (done c 0 0 (setUnit k (fun _ => { TrigUnit.reset with cfg := unitCfgOf c, nextIndex := if (unitCfgOf c).spectral then firstIndex u (unitCfgOf c) else 0 })
        { u with squall := { u.squall with pendingEdges := u.squall.pendingEdges.filter (·.unit ≠ k.val) } }))) ∧
  (∀ (s : State) (id : Nat) (c : Cmd) (k : Fin 32) (d : Data) (t : Task) (u : State),
      Runs s id 0x0400 (fun c => !unitQuery c) c →
      Passes [entryCheck c ([(0x08, 1), (0x09, 1), (0x0A, 2), (0x0C, 4), (0x10, 8), (0x18, 2), (0x1C, 4)] ++ kindFields (c.p8 0x09)) [(0x0A, decide (c.p16 0x0A = 0)), (0x08, true)], deviceCheck u c, needState (!unitInUse u k), unitParams u k c] →
      u = squallDue s →
      c.p8 0x08 = k.val →
      (unitCfgOf c).kind = tkFmask →
      findTask u (unitCfgOf c).source = some t →
      Passes [pointChecks t.coarseBins (c.p16 0x20) (c.p16 0x22) d] →
      exec (.trigUnitConfig id (some d)) s = .next (done c 0 0 (setUnit k (fun _ => { TrigUnit.reset with cfg := { unitCfgOf c with upperMask := maskPoints d 0 (c.p16 0x20), lowerMask := maskPoints d (c.p16 0x20) (c.p16 0x22) }, nextIndex := if (unitCfgOf c).spectral then firstIndex u (unitCfgOf c) else 0 })
        { u with squall := { u.squall with pendingEdges := u.squall.pendingEdges.filter (·.unit ≠ k.val) } }))) ∧
  (∀ (s : State) (id : Nat) (c : Cmd) (k : Fin 32),
      Runs s id 0x0400 unitQuery c →
      Passes [params [(0x08, true), (0x10, aligned64 (c.p64 0x10))], deviceCheck s c] →
      c.p8 0x08 = k.val →
      exec (.trigUnitQuery id) s = .next (done c 0 0 (writeBlock c (c.p64 0x10) (unitStatus k s.squall.units[k]) s))) ∧
  (∀ (s : State) (id : Nat) (c : Cmd) (m : Fin 16) (u : State),
      Runs s id 0x0401 (fun c => !matrixQuery c) c →
      Passes [entryCheck c [(0x08, 1), (0x09, 1), (0x0A, 1), (0x0C, 4), (0x10, 32), (0x30, 4), (0x34, 2), (0x38, 4)] [(0x08, true), (0x09, decide (c.p8 0x09 % 128 < 4))], deviceCheck u c, needState (!u.squall.ats[m].armed),
        params [(0x09, bit (c.p8 0x09) 0 || (fourWords c 0x20).all (· = 0)), (0x0A, decide (c.p8 0x0A < 16)), (0x0C, decide (c.p32 0x0C ≤ 1048576)),
          (0x30, !bit (c.p8 0x09) 0 || decide (1 ≤ c.p32 0x30))]] →
      u = squallDue s →
      c.p8 0x08 = m.val →
      exec (.trigMatrixConfig id) s = .next (done c 0 0 (forL (List.finRange 32) (fun q v => setUnit q (fun x => x.newTerms q.val m.val ((u.squall.ats[m].matrix.map (·.slots)).getD []) (⟨bit (c.p8 0x09) 0, bit (c.p8 0x09) 1, c.p8 0x0A, c.p32 0x0C, fourWords c 0x10, fourWords c 0x20, c.p32 0x30, c.p16 0x34, c.p32 0x38⟩ : MatrixCfg).slots) v)
        (setAt m (fun a => { a with matrix := some (⟨bit (c.p8 0x09) 0, bit (c.p8 0x09) 1, c.p8 0x0A, c.p32 0x0C, fourWords c 0x10, fourWords c 0x20, c.p32 0x30, c.p16 0x34, c.p32 0x38⟩ : MatrixCfg), firstSteps := [], secondSteps := [] }) u)))) ∧
  (∀ (s : State) (id : Nat) (c : Cmd) (m : Fin 16) (u : State),
      Runs s id 0x0401 matrixQuery c →
      Passes [params [(0x08, true), (0x10, aligned64 (c.p64 0x10))], deviceCheck u c] →
      u = squallDue s →
      c.p8 0x08 = m.val →
      exec (.trigMatrixQuery id) s = .next (done c 0 0 (writeBlock c (c.p64 0x10) (atStatus u m) u))) ∧
  (∀ (s : State) (id : Nat) (c : Cmd) (m : Fin 16) (d : Data) (u : State),
      Runs s id 0x0402 anyCmd c →
      Passes [entryCheck c [(0x08, 4), (0x10, 8)] [], deviceCheck u c, params [(0x08, decide (c.p32 0x08 = 256)), (0x10, aligned64 (c.p64 0x10))]] →
      u = squallDue s →
      u8At d 2 = m.val →
      u8At d 3 = 255 →
      Passes [descParams ([(0x00, decide (u16At d 0 = 1)), (0x02, true)] ++ strayBytes d 0x42 0x44 [] ++ strayBytes d 0x50 0x100 []), needState (!u.squall.ats[m].armed && u.squall.ats[m].registerCmd.isNone)] →
      exec (.acqConfig id (some d)) s = .next (done c 0 0 (setAt m (fun a => { a with def_ := none, members := [], round := [], decided := none }) u))) ∧
  (∀ (s : State) (id : Nat) (c : Cmd) (m : Fin 16) (d : Data) (u : State),
      Runs s id 0x0402 anyCmd c →
      Passes [entryCheck c [(0x08, 4), (0x10, 8)] [], deviceCheck u c, params [(0x08, decide (c.p32 0x08 = 256)), (0x10, aligned64 (c.p64 0x10))]] →
      u = squallDue s →
      u8At d 2 = m.val →
      u8At d 3 < 2 →
      Passes [descParams ([(0x00, decide (u16At d 0 = 1)), (0x02, true)] ++ strayBytes d 0x42 0x44 [] ++ strayBytes d 0x50 0x100 []), needState (!u.squall.ats[m].armed && u.squall.ats[m].registerCmd.isNone), acqChecks u (acqDefOf d), need (retentionFits u m (acqDefOf d)) stNoResource 0] →
      exec (.acqConfig id (some d)) s = .next (done c (acqNeed u (acqDefOf d)) (acqReach u (acqDefOf d)) (putDefinition m (acqDefOf d) u))) ∧
  (∀ (s : State) (id : Nat) (c : Cmd) (m : Fin 16) (d : Data) (u : State) (v : State),
      Runs s id 0x0402 anyCmd c →
      Passes [entryCheck c [(0x08, 4), (0x10, 8)] [], deviceCheck u c, params [(0x08, decide (c.p32 0x08 = 256)), (0x10, aligned64 (c.p64 0x10))]] →
      u = squallDue s →
      u8At d 2 = m.val →
      2 ≤ u8At d 3 →
      u8At d 3 ≠ 255 →
      u16At d 0x40 = u.link.did →
      Passes [descParams ([(0x00, decide (u16At d 0 = 1)), (0x02, true)] ++ strayBytes d 0x42 0x44 [] ++ strayBytes d 0x50 0x100 []), needState (!u.squall.ats[m].armed && u.squall.ats[m].registerCmd.isNone), acqChecks u (acqDefOf d), need (retentionFits u m (acqDefOf d)) stNoResource 0] →
      v = putDefinition m (acqDefOf d) u →
      exec (.acqConfig id (some d)) s = .next (done c (acqNeed u (acqDefOf d)) (acqReach u (acqDefOf d)) (registerMember m u.link.did (decisionBound v v.squall.ats[m]) 0 v))) ∧
  (∀ (s : State) (id : Nat) (c : Cmd) (m : Fin 16) (d : Data) (u : State),
      Runs s id 0x0402 anyCmd c →
      Passes [entryCheck c [(0x08, 4), (0x10, 8)] [], deviceCheck u c, params [(0x08, decide (c.p32 0x08 = 256)), (0x10, aligned64 (c.p64 0x10))]] →
      u = squallDue s →
      u8At d 2 = m.val →
      2 ≤ u8At d 3 →
      u8At d 3 ≠ 255 →
      u16At d 0x40 ≠ u.link.did →
      Passes [descParams ([(0x00, decide (u16At d 0 = 1)), (0x02, true)] ++ strayBytes d 0x42 0x44 [] ++ strayBytes d 0x50 0x100 []), needState (!u.squall.ats[m].armed && u.squall.ats[m].registerCmd.isNone), acqChecks u (acqDefOf d), need (retentionFits u m (acqDefOf d)) stNoResource 0] →
      exec (.acqConfig id (some d)) s = .next (wait c (sendRegistration (acqDefOf d).masterDid (acqDefOf d).groupId m.val (decisionBound u u.squall.ats[m]) (BitVec.ofNat 32 c.id) false
        (setAt m (fun a => { a with registerCmd := some c.id, registerAt := u.clk.up, registering := some (acqDefOf d) }) u))))

/-- ARM arms every named AT now, or with a group AT among them announces the arm 100 us ahead and waits (R217, R224). DISARM begins the
disarm of every named AT that is armed, of a group AT 100 us ahead with a message to each other member, and waits for the decision bound,
at which they are disarmed and it completes with the disarm tick; of an AT that is not armed it completes with E_STATE (R219, R224). A
forced fire is applied at once where its tick has come, and otherwise waits for it (R221). -/
def Obligations.AcquisitionTriggersArmFireAndDisarm : Prop :=
  (∀ (s : State) (id : Nat) (c : Cmd) (u : State),
      Runs s id 0x0403 anyCmd c →
      Passes [entryCheck c [(0x08, 2)] [], deviceCheck u c, needState ((atsOf (c.p16 0x08)).all (armable u))] →
      u = squallDue s →
      (atsOf (c.p16 0x08)).all (recordFits u) = true →
      (atsOf (c.p16 0x08)).any (fun m => u.squall.ats[m].group) = false →
      exec (.arm id) s = .next (done c u.clk.tick 0 (forL (atsOf (c.p16 0x08)) (fun m v => armOne m ((v.squall.ats[m].armSeq + 1) % 2 ^ 32) u.clk.tick v) u))) ∧
  (∀ (s : State) (id : Nat) (c : Cmd) (u : State),
      Runs s id 0x0403 anyCmd c →
      Passes [entryCheck c [(0x08, 2)] [], deviceCheck u c, needState ((atsOf (c.p16 0x08)).all (armable u))] →
      u = squallDue s →
      (atsOf (c.p16 0x08)).all (recordFits u) = true →
      (atsOf (c.p16 0x08)).any (fun m => u.squall.ats[m].group) = true →
      exec (.arm id) s = .next (wait c ((fun v => { v with squall := { v.squall with pendingArms := v.squall.pendingArms ++ [⟨some c.id, c.p16 0x08, u.clk.tick + 128000, false⟩] } })
        (forL ((atsOf (c.p16 0x08)).filter fun m => u.squall.ats[m].group) (fun m v => announceArm m (u.clk.tick + 128000) v) u)))) ∧
  (∀ (s : State) (id : Nat) (c : Cmd) (m : Fin 16) (u : State),
      Runs s id 0x0403 anyCmd c →
      Passes [entryCheck c [(0x08, 2)] [], deviceCheck u c, needState ((atsOf (c.p16 0x08)).all (armable u))] →
      u = squallDue s →
      (atsOf (c.p16 0x08)).all (recordFits u) = true →
      atsOf (c.p16 0x08) = [m] →
      u.squall.ats[m].group = false →
      Gives (.arm id) s fun t => t.squall.ats[m].armed = true ∧ t.squall.ats[m].armTick = u.clk.tick ∧ t.squall.ats[m].armSeq = (u.squall.ats[m].armSeq + 1) % 2 ^ 32 ∧
        t.squall.ats[m].disarmTick = none ∧ t.squall.ats[m].heldFrom = none ∧ t.squall.ats[m].partial_ = false ∧ t.squall.ats[m].fires = u.squall.ats[m].fires ∧
        (∀ x : Fin 16, x ≠ m → t.squall.ats[x] = u.squall.ats[x]) ∧ t.squall.units = u.squall.units) ∧
  (∀ (s : State) (id : Nat) (c : Cmd) (m : Fin 16) (u : State),
      Runs s id 0x0404 anyCmd c →
      Passes [entryCheck c [(0x08, 2), (0x0A, 1)] [(0x0A, decide (c.p8 0x0A < 2))], deviceCheck u c] →
      u = squallDue s →
      atsOf (c.p16 0x08) = [m] →
      u.squall.ats[m].armed = true →
      u.squall.ats[m].disarmTick = none →
      u.squall.ats[m].group = false →
      exec (.disarm id) s = .next (wait c ((fun v => { v with squall := { v.squall with pendingDisarms := v.squall.pendingDisarms ++ [⟨some c.id, 2 ^ m.val, u.clk.tick, u.clk.tick + decisionBound u u.squall.ats[m], 0⟩] } })
        (beginDisarm m u.clk.tick (bit (c.p8 0x0A) 0) u)))) ∧
  (∀ (s : State) (id : Nat) (c : Cmd) (m : Fin 16) (u : State) (w : State),
      Runs s id 0x0404 anyCmd c →
      Passes [entryCheck c [(0x08, 2), (0x0A, 1)] [(0x0A, decide (c.p8 0x0A < 2))], deviceCheck u c] →
      u = squallDue s →
      w = beginDisarm m (u.clk.tick + 128000) (bit (c.p8 0x0A) 0) u →
      atsOf (c.p16 0x08) = [m] →
      u.squall.ats[m].armed = true →
      u.squall.ats[m].disarmTick = none →
      u.squall.ats[m].group = true →
      w.squall.ats[m].group = true →
      exec (.disarm id) s = .next (wait c ((fun v => { v with squall := { v.squall with pendingDisarms := v.squall.pendingDisarms ++ [⟨some c.id, 2 ^ m.val, u.clk.tick + 128000, u.clk.tick + 128000 + decisionBound u u.squall.ats[m], 0⟩] } })
        (forL (w.squall.ats[m].members.filter (·.did ≠ w.link.did)) (fun x v => sendTrig m 4 x.did v.squall.ats[m].armSeq (u.clk.tick + 128000) 0 (le 1 (c.p8 0x0A)) v) w)))) ∧
  (∀ (s : State) (id : Nat) (c : Cmd) (m : Fin 16) (u : State),
      Runs s id 0x0404 anyCmd c →
      Passes [entryCheck c [(0x08, 2), (0x0A, 1)] [(0x0A, decide (c.p8 0x0A < 2))], deviceCheck u c] →
      u = squallDue s →
      atsOf (c.p16 0x08) = [m] →
      u.squall.ats[m].armed = false →
      exec (.disarm id) s = .next (complete c stState 0 0 0 u)) ∧
  (∀ (s : State) (id : Nat) (d : PendingDisarm) (c : Cmd) (v : State) (w : State),
      s.squall.pendingDisarms.find? (fun d => d.cmd = some id) = some d →
      v = squallDue (waitTick d.due s) →
      w = endDisarms d { v with squall := { v.squall with pendingDisarms := v.squall.pendingDisarms.filter (· ≠ d) } } →
      findCmd w id = some c →
      exec (.disarmDecisionBoundElapsed id) s = .next (done c d.tick 0 w)) ∧
  (∀ (s : State) (id : Nat) (c : Cmd) (m : Fin 16) (u : State),
      Runs s id 0x0405 (fun c => c.p8 0x08 ≠ 1) c →
      Passes [entryCheck c forceUsed [(0x08, decide (c.p8 0x08 < 2)), (0x09, true)], deviceCheck u c, needState u.squall.ats[m].armed,
        params [(0x10, decide (u.squall.ats[m].armTick ≤ forceTick c u ∧ forceTick c u ≤ u.clk.tick + 2 ^ 30))]] →
      u = squallDue s →
      c.p8 0x09 = m.val →
      forceTick c u ≤ u.clk.tick →
      exec (.forceFireAt id) s = .next (done c (forceTick c u) 0 (applyForce ⟨0, m.val, forceTick c u, u.squall.ats[m].armSeq⟩ u))) ∧
  (∀ (s : State) (id : Nat) (c : Cmd) (m : Fin 16) (u : State),
      Runs s id 0x0405 (fun c => c.p8 0x08 ≠ 1) c →
      Passes [entryCheck c forceUsed [(0x08, decide (c.p8 0x08 < 2)), (0x09, true)], deviceCheck u c, needState u.squall.ats[m].armed,
        params [(0x10, decide (u.squall.ats[m].armTick ≤ forceTick c u ∧ forceTick c u ≤ u.clk.tick + 2 ^ 30))]] →
      u = squallDue s →
      c.p8 0x09 = m.val →
      u.clk.tick < forceTick c u →
      exec (.forceFireAt id) s = .next (done c (forceTick c u) 0 { u with squall := { u.squall with pendingForces := u.squall.pendingForces ++ [⟨0, m.val, forceTick c u, u.squall.ats[m].armSeq⟩] } })) ∧
  (∀ (s : State) (id : Nat) (c : Cmd) (k : Fin 32) (u : State),
      Runs s id 0x0405 (selByte 0x08 1) c →
      Passes [entryCheck c forceUsed [(0x08, true), (0x09, true)], deviceCheck u c, params [(0x08, decide (u.squall.units[k].cfg.kind = tkSoftware))]] →
      u = squallDue s →
      c.p8 0x09 = k.val →
      forceTick c u ≤ u.clk.tick →
      exec (.forceFireUnit id) s = .next (done c (forceTick c u) 0 (applyForce ⟨1, k.val, forceTick c u, 0⟩ u))) ∧
  (∀ (s : State) (id : Nat) (c : Cmd) (k : Fin 32) (u : State),
      Runs s id 0x0405 (selByte 0x08 1) c →
      Passes [entryCheck c forceUsed [(0x08, true), (0x09, true)], deviceCheck u c, params [(0x08, decide (u.squall.units[k].cfg.kind = tkSoftware))]] →
      u = squallDue s →
      c.p8 0x09 = k.val →
      u.clk.tick < forceTick c u →
      exec (.forceFireUnit id) s = .next (done c (forceTick c u) 0 { u with squall := { u.squall with pendingForces := u.squall.pendingForces ++ [⟨1, k.val, forceTick c u, 0⟩] } })) ∧
  (∀ (s : State) (p : PendingForce) (l : List PendingForce),
      sortBy (·.tick) s.squall.pendingForces = p :: l →
      exec .forceFireTickReached s = .next (applyForce p (squallDue (waitTick p.tick { s with squall := { s.squall with pendingForces := s.squall.pendingForces.erase p } }))))

/-- A registration that nobody acknowledges within 1 ms completes with E_LINK, and the AT keeps the definition it had (R222, R427). At the
deadline, 10 us before its tick, an arm whose members have all confirmed stands, and one with a member missing is given up: every other
member is told to disarm and ARM completes with E_LINK and its DID (R224). At its tick every AT is armed, and the master completes ARM
with the tick and the number of members (R224). At t_min + S a member decides for the earliest fire, of equal ones that of the lowest DID:
its own fires that lose are suppressed, and the AT is disarmed, or re-arms (R226, R227). An edge joins those of the units that watch the
pin and its slope and whose min_width it holds, less the delay of the unit, and steps each once its min_width has passed; it wakes an
engine whose unit watches the pin (R203, R499). A scheduled pulse joins the pin edges, a late one counted and reported (R214). The copier
takes the next item of a source: oldest first until the overwrite front catches it, newest first before the trigger from then on, and then
the items after the trigger (R241, R242). -/
def Obligations.GroupsPinsAndCopiesGoOn : Prop :=
  (∀ (s : State) (m : Fin 16) (id : Nat) (c : Cmd) (g : AcqDef),
      s.squall.ats[m].registerCmd = some id →
      s.squall.ats[m].registering = some g →
      findCmd s id = some c →
      exec (.groupRegistrationTimeout m) s = .next (complete c stLink 0 0 g.masterDid (setAt m (fun a => { a with registerCmd := none, registering := none }) (waitUp (s.squall.ats[m].registerAt + 1280000) s)))) ∧
  (∀ (s : State) (m : Fin 16) (p : PendingArm) (id : Nat),
      pendingArmOf s m = some p →
      p.cmd = some id →
      unconfirmed (groupsOf p.mask s) s = [] →
      exec (.groupArmConfirmDeadline m) s = .next (waitTick (p.tick - 12800)
        { s with squall := { s.squall with pendingArms := s.squall.pendingArms.map fun x => if x = p then { x with deadlinePassed := true } else x } })) ∧
  (∀ (s : State) (m : Fin 16) (p : PendingArm) (id : Nat) (d : Nat) (l : List Nat) (c : Cmd) (w : State),
      pendingArmOf s m = some p →
      p.cmd = some id →
      unconfirmed (groupsOf p.mask s) s = d :: l →
      w = forL (groupsOf p.mask s) (fun g v => forL (v.squall.ats[g].members.filter (·.did ≠ v.link.did)) (fun x v => sendTrig g 4 x.did v.squall.ats[g].armSeq v.clk.tick 0 [] v) v)
        (waitTick (p.tick - 12800) { s with squall := { s.squall with pendingArms := s.squall.pendingArms.filter (· ≠ p) } }) →
      findCmd w id = some c →
      exec (.groupArmConfirmDeadline m) s = .next (complete c stLink 0 0 d w)) ∧
  (∀ (s : State) (m : Fin 16) (p : PendingArm),
      pendingArmOf s m = some p →
      p.cmd = none →
      exec (.groupArmTick m) s = .next (forL (atsOf p.mask) (fun g v => armOne g (if v.squall.ats[g].group then v.squall.ats[g].armSeq else (v.squall.ats[g].armSeq + 1) % 2 ^ 32) p.tick v)
        (dropPendingArm p (waitTick p.tick s)))) ∧
  (∀ (s : State) (m : Fin 16) (p : PendingArm) (id : Nat) (c : Cmd) (w : State),
      pendingArmOf s m = some p →
      p.cmd = some id →
      p.deadlinePassed = true →
      w = forL (atsOf p.mask) (fun g v => armOne g (if v.squall.ats[g].group then v.squall.ats[g].armSeq else (v.squall.ats[g].armSeq + 1) % 2 ^ 32) p.tick v) (dropPendingArm p (waitTick p.tick s)) →
      findCmd w id = some c →
      exec (.groupArmTick m) s = .next (done c p.tick (((atsOf p.mask).filter fun g => w.squall.ats[g].group).map fun g => w.squall.ats[g].members.length).sum w)) ∧
  (∀ (s : State) (m : Fin 16) (g : AcqDef) (w0 : GroupFire) (w : GroupFire) (u : State) (rearm : Nat) (lost : List GroupFire),
      winnerOf s.squall.ats[m].round = some w0 →
      u = squallDue (waitTick (w0.tick + s.squall.ats[m].settle) s) →
      u.squall.ats[m].def_ = some g →
      winnerOf u.squall.ats[m].round = some w →
      rearm = w.tick + (if g.holdoffKind = 1 then g.holdoff else u.squall.ats[m].settle) →
      g.armMode = 3 →
      lost = u.squall.ats[m].round.filter (fun f => decide (f ≠ w ∧ f.did = u.link.did ∧ f.tick < rearm)) →
      Gives (.groupDecision m) s fun t => t = fireEffects m w.tick w.frac w.did false (w.forced && decide (w.did = u.link.did))
          (forL lost (fun f v => raiseAt (evAt m 5) f.tick [.h m.val, .h w.did, .q w.tick] v)
          (setAt m (fun a => { a with round := u.squall.ats[m].round.filter (fun f => decide (rearm ≤ f.tick)), decided := some w,
                                      rearmTick := rearm, suppressed := satN 32 (a.suppressed + lost.length) }) u)) ∧
        (w ∈ u.squall.ats[m].round ∧ ∀ f ∈ u.squall.ats[m].round, w.tick < f.tick ∨ (w.tick = f.tick ∧ w.did ≤ f.did))) ∧
  (∀ (s : State) (m : Fin 16) (g : AcqDef) (w0 : GroupFire) (w : GroupFire) (u : State) (rearm : Nat) (lost : List GroupFire),
      winnerOf s.squall.ats[m].round = some w0 →
      u = squallDue (waitTick (w0.tick + s.squall.ats[m].settle) s) →
      u.squall.ats[m].def_ = some g →
      winnerOf u.squall.ats[m].round = some w →
      rearm = w.tick + (if g.holdoffKind = 1 then g.holdoff else u.squall.ats[m].settle) →
      g.armMode = 2 →
      lost = u.squall.ats[m].round.filter (fun f => decide (f ≠ w ∧ f.did = u.link.did)) →
      Gives (.groupDecision m) s fun t => t = disarmAt m 2 (fireEffects m w.tick w.frac w.did false (w.forced && decide (w.did = u.link.did))
          (forL lost (fun f v => raiseAt (evAt m 5) f.tick [.h m.val, .h w.did, .q w.tick] v)
          (setAt m (fun a => { a with round := [], decided := some w, suppressed := satN 32 (a.suppressed + lost.length) }) u))) ∧
        (w ∈ u.squall.ats[m].round ∧ ∀ f ∈ u.squall.ats[m].round, w.tick < f.tick ∨ (w.tick = f.tick ∧ w.did ≤ f.did))) ∧
  (∀ (s : State) (pin : Fin 4) (rising : Bool) (frac : U16) (held : Nat) (half : Nat) (l : List (Fin 32)) (u : State) (v : State),
      s.jtag.pinsTaken = false →
      v = squallDue (if s.squall.units.toList.any (fun t => decide (t.cfg.kind = tkExternal ∧ t.cfg.source = pin.val) && !t.detached) then wakeLull s else s) →
      half = ceilDiv (v.clk.tick * 65536 + frac.toNat) 32768 →
      l = (List.finRange 32).filter (fun k => v.squall.units[k].takesEdge pin rising held) →
      l ≠ [] →
      u = { v with squall := { v.squall with pendingEdges := v.squall.pendingEdges ++ l.map fun k =>
        ⟨k.val, ceilDiv half 2 + v.squall.units[k].cfg.minWidth, codeOf 64 ((((half * 32768 : Nat) : Int) - v.squall.units[k].cfg.delay).fdiv 65536), codeOf 16 (((half * 32768 : Nat) : Int) - v.squall.units[k].cfg.delay)⟩ } } →
      exec (.trigInEdge pin rising frac held) s = .next (qualifyEdges (waitTick (ceilDiv half 2) u))) ∧
  (∀ (s : State) (pin : Fin 4) (rising : Bool) (frac : U16) (held : Nat) (v : State),
      s.jtag.pinsTaken = false →
      v = squallDue (if s.squall.units.toList.any (fun t => decide (t.cfg.kind = tkExternal ∧ t.cfg.source = pin.val) && !t.detached) then wakeLull s else s) →
      (List.finRange 32).filter (fun k => v.squall.units[k].takesEdge pin rising held) = [] →
      exec (.trigInEdge pin rising frac held) s = .next (qualifyEdges v)) ∧
  (∀ (s : State) (pin : Fin 4) (rising : Bool) (frac : U16) (held : Nat),
      s.jtag.pinsTaken = true →
      exec (.trigInEdge pin rising frac held) s = .next s) ∧
  (∀ (s : State) (m : Fin 16) (p : OutPulse),
      s.squall.pulses.find? (fun x => decide (x.at_ = m.val)) = some p →
      p.late = false →
      Gives (.trigOutPulse m) s fun t => t.squall.pulses = s.squall.pulses.erase p ∧ t.clk = (waitTick p.rise s).clk ∧ t.squall.ats = s.squall.ats ∧
        t.squall.outEdges = (setBits p.mask 4).foldl (fun l b => mergePulse ⟨0, 2 ^ b, p.rise, p.fall, false⟩ l) s.squall.outEdges) ∧
  (∀ (s : State) (m : Fin 16) (p : OutPulse),
      s.squall.pulses.find? (fun x => decide (x.at_ = m.val)) = some p →
      p.late = true →
      Gives (.trigOutPulse m) s fun t => ∃ v : State, t = raise 0x700 [.h m.val, .since] (setAt m (fun a => { a with outLate := satN 32 (a.outLate + 1) }) v) ∧ v.clk = (waitTick p.rise s).clk ∧
        v.squall.pulses = s.squall.pulses.erase p ∧ v.squall.outEdges = (setBits p.mask 4).foldl (fun l b => mergePulse ⟨0, 2 ^ b, p.rise, p.fall, false⟩ l) s.squall.outEdges) ∧
  (∀ (s : State) (no : U32) (i : Nat) (n : Nat),
      exec (.acqCopyChunk no i n) s = .next (acqCheckComplete no.toNat ((List.range (n + 1)).foldl (fun v _ => publishFinal no.toNat i (moveCopy no.toNat i v)) s))) ∧
  (∀ (s : State) (no : U32) (i : Nat) (q : Acquisition) (c : SourceCopy) (x : CopyItem),
      findAcq s no.toNat = some q →
      (q.sources.drop i).head? = some c →
      c.done = false →
      c.newestFirst = false →
      c.low < min c.trig (sourceStop s q c c.stop) →
      c.read s q.def_ c.low = .item x →
      exec (.acqCopyChunk no i 0) s = .next (acqCheckComplete no.toNat (publishFinal no.toNat i (takeItem no.toNat i x (fun y => { y with low := y.low + max 1 q.def_.d }) s)))) ∧
  (∀ (s : State) (no : U32) (i : Nat) (q : Acquisition) (c : SourceCopy),
      findAcq s no.toNat = some q →
      (q.sources.drop i).head? = some c →
      c.done = false →
      c.newestFirst = false →
      c.low < min c.trig (sourceStop s q c c.stop) →
      c.read s q.def_ c.low = .front →
      exec (.acqCopyChunk no i 0) s = .next (acqCheckComplete no.toNat (publishFinal no.toNat i (setSource no.toNat i (fun y => { y with newestFirst := true }) s)))) ∧
  (∀ (s : State) (no : U32) (i : Nat) (q : Acquisition) (c : SourceCopy) (x : CopyItem),
      findAcq s no.toNat = some q →
      (q.sources.drop i).head? = some c →
      c.done = false →
      c.newestFirst = true →
      c.low < c.high →
      c.read s q.def_ (c.high - max 1 q.def_.d) = .item x →
      exec (.acqCopyChunk no i 0) s = .next (acqCheckComplete no.toNat (publishFinal no.toNat i (takeItem no.toNat i x (fun y => { y with high := y.high - max 1 q.def_.d }) s)))) ∧
  (∀ (s : State) (no : U32) (i : Nat) (q : Acquisition) (c : SourceCopy) (x : CopyItem),
      findAcq s no.toNat = some q →
      (q.sources.drop i).head? = some c →
      c.done = false →
      (if c.newestFirst then c.high else min c.trig (sourceStop s q c c.stop)) ≤ c.low →
      c.post < min (sourceStop s q c c.stop) (if c.headOut then c.stop else c.headStop) →
      c.read s q.def_ c.post = .item x →
      exec (.acqCopyChunk no i 0) s = .next (acqCheckComplete no.toNat (publishFinal no.toNat i (takeItem no.toNat i x (fun y => { y with post := y.post + max 1 q.def_.d }) s))))

/-- A map whose entry passes its checks is configured once the SRAM, the update rate, the export costs, the DENSITY region and the store
ledger admit it, with the default colour map or the one read (R248, R257, R261, R262); removing it frees all it holds (R262), and a query
writes its block (R263). A clear waits for its tick, at which the map is cleared, after a sweep under way and after its boundary where
that falls in the same clock (R265). A boundary begins the sweep of a map, or is skipped and counted while an export is under way (R253,
R255). The sweep takes each count as it stands, decays it and ages the cell; its planes go to the buffer that is neither the newest nor
shown, which is the newest once the writes are accepted, and a raw record is published (R253, R256 to R260); the writes wait for a store
that serves. -/
def Obligations.DensityMapsAreManagedAndExport : Prop :=
  (∀ (s : State) (id : Nat) (c : Cmd) (m : Fin 8) (t : Task) (p : Nat × Nat) (cmap : HostRead),
      Runs s id 0x0500 (selByte 0x09 0) c →
      Passes [densityEntry c, deviceCheck s c] →
      c.p8 0x08 = m.val →
      c.p64 0x28 = 0 →
      Passes (densityChecks s m c) →
      liveTask s (mapCfgOf c).task = some t →
      placeBuffers s (mapCfgOf c) = some p →
      mapsSram s + (mapCfgOf c).sram ≤ 33554432 →
      costsFit ((mapCfgOf c).exportCost :: mapCosts s) = true →
      updatesFit t (mapCfgOf c).columns = true →
      Admits s (.density m) [(lcDensity, ceilDiv (mapCfgOf c).exportCost.1 ((mapCfgOf c).exportCost.2 * 1000))] →
      exec (.densityConfigure id cmap) s = .next (done c (if (mapCfgOf c).planes then p.1 else 0) (if (mapCfgOf c).raw then p.2 else 0)
        (setMap m (fun _ => { DensityMap.reset with cfg := some (mapCfgOf c), planeBase := p.1, rawBase := p.2, lastBoundary := s.clk.tick })
          (addReservations (.density m) [(lcDensity, ceilDiv (mapCfgOf c).exportCost.1 ((mapCfgOf c).exportCost.2 * 1000))] s)))) ∧
  (∀ (s : State) (id : Nat) (c : Cmd) (m : Fin 8) (t : Task) (p : Nat × Nat) (d : Data),
      Runs s id 0x0500 (selByte 0x09 0) c →
      Passes [densityEntry c, deviceCheck s c] →
      c.p8 0x08 = m.val →
      c.p64 0x28 ≠ 0 →
      Passes [cmapCheck d] →
      Passes (densityChecks s m c) →
      liveTask s (mapCfgOf c).task = some t →
      placeBuffers s (mapCfgOf c) = some p →
      mapsSram s + (mapCfgOf c).sram ≤ 33554432 →
      costsFit ((mapCfgOf c).exportCost :: mapCosts s) = true →
      updatesFit t (mapCfgOf c).columns = true →
      Admits s (.density m) [(lcDensity, ceilDiv (mapCfgOf c).exportCost.1 ((mapCfgOf c).exportCost.2 * 1000))] →
      exec (.densityConfigure id (some d)) s = .next (done c (if (mapCfgOf c).planes then p.1 else 0) (if (mapCfgOf c).raw then p.2 else 0)
        (setMap m (fun _ => { DensityMap.reset with cfg := some { mapCfgOf c with cmap := readCmap d }, planeBase := p.1, rawBase := p.2, lastBoundary := s.clk.tick })
          (addReservations (.density m) [(lcDensity, ceilDiv (mapCfgOf c).exportCost.1 ((mapCfgOf c).exportCost.2 * 1000))] s)))) ∧
  (∀ (s : State) (id : Nat) (c : Cmd) (m : Fin 8),
      Runs s id 0x0500 (selByte 0x09 1) c →
      Passes [densityEntry c, deviceCheck s c] →
      c.p8 0x08 = m.val →
      s.eddy.maps[m].cfg.isSome = true →
      exec (.densityRemove id) s = .next (done c 0 0 (removeMap m s))) ∧
  (∀ (s : State) (id : Nat) (c : Cmd) (m : Fin 8) (v : State),
      Runs s id 0x0500 (selByte 0x09 2) c →
      Passes [densityEntry c, deviceCheck v c] →
      v = advanceSweep m s →
      c.p8 0x08 = m.val →
      v.eddy.maps[m].cfg.isSome = true →
      aligned64 (c.p64 0x30) = true →
      exec (.densityQuery id) s = .next (done c 0 0 (writeBlock c (c.p64 0x30) (mapStatus m v.eddy.maps[m]) v))) ∧
  (∀ (s : State) (id : Nat) (c : Cmd),
      Runs s id 0x0501 anyCmd c →
      Passes [entryCheck c [(0x08, 1), (0x10, 8)] [], deviceCheck s c, needState ((mapsOf (c.p8 0x08)).all fun m => s.eddy.maps[m].cfg.isSome), params [(0x10, decide (c.p64 0x10 ≤ s.clk.tick + 2 ^ 30))]] →
      exec (.densityClear id) s = .next ({ wait c s with eddy := { (wait c s).eddy with clears := s.eddy.clears ++ [⟨c.id, c.p8 0x08, max (c.p64 0x10) s.clk.tick⟩] } })) ∧
  (∀ (s : State) (p : PendingClear) (m : Fin 8) (g : MapCfg) (c : Cmd) (v : State),
      firstClear s.eddy.clears = some p →
      mapsOf p.mask = [m] →
      v = { waitTick p.tick s with eddy := { (waitTick p.tick s).eddy with clears := s.eddy.clears.erase p } } →
      v.eddy.maps[m].cfg = some g →
      findCmd v p.cmd = some c →
      g.nextBoundary v.eddy.maps[m] ≠ p.tick →
      v.eddy.maps[m].sweep = none →
      exec .densityClearSweep s = .next (done c p.tick 0 (setMap m (fun d => { d with counts := [], youth := [] }) v))) ∧
  (∀ (s : State) (p : PendingClear) (m : Fin 8) (g : MapCfg) (c : Cmd) (v : State) (u : State),
      firstClear s.eddy.clears = some p →
      mapsOf p.mask = [m] →
      v = { waitTick p.tick s with eddy := { (waitTick p.tick s).eddy with clears := s.eddy.clears.erase p } } →
      v.eddy.maps[m].cfg = some g →
      u = finishSweep m (advanceSweep m v) →
      findCmd u p.cmd = some c →
      g.nextBoundary v.eddy.maps[m] ≠ p.tick →
      exec .densityClearSweep s = .next (done c p.tick 0 (setMap m (fun d => { d with counts := [], youth := [] }) u))) ∧
  (∀ (s : State) (p : PendingClear) (m : Fin 8) (g : MapCfg) (c : Cmd) (v : State) (u : State),
      firstClear s.eddy.clears = some p →
      mapsOf p.mask = [m] →
      v = { waitTick p.tick s with eddy := { (waitTick p.tick s).eddy with clears := s.eddy.clears.erase p } } →
      v.eddy.maps[m].cfg = some g →
      u = finishSweep m (mapBoundary m p.tick v) →
      findCmd u p.cmd = some c →
      g.nextBoundary v.eddy.maps[m] = p.tick →
      exec .densityClearSweep s = .next (done c p.tick 0 (setMap m (fun d => { d with counts := [], youth := [] }) u))) ∧
  (∀ (s : State) (m : Fin 8) (g : MapCfg) (v : State),
      s.eddy.maps[m].cfg = some g →
      v = advanceSweep m (waitTick (g.nextBoundary s.eddy.maps[m]) s) →
      v.eddy.maps[m].exporting = true →
      exec (.densityExportBoundary m) s = .next (raise (evMap m 0) [.h m.val] (setMap m (fun d => { d with lastBoundary := g.nextBoundary s.eddy.maps[m], skipped := satN 32 (d.skipped + 1), skippedLast := true }) v))) ∧
  (∀ (s : State) (m : Fin 8) (g : MapCfg) (v : State),
      s.eddy.maps[m].cfg = some g →
      v = advanceSweep m (waitTick (g.nextBoundary s.eddy.maps[m]) s) →
      v.eddy.maps[m].exporting = false →
      exec (.densityExportBoundary m) s = .next (setMap m (fun d => { d with lastBoundary := g.nextBoundary s.eddy.maps[m], spectraInterval := 0, marks := 0, sweep := some ⟨g.nextBoundary s.eddy.maps[m], 0, v.clk.up, [], [], v.eddy.maps[m].spectraInterval, v.eddy.maps[m].marks, ((findTask v g.task).map (·.epoch)).getD 0⟩ }) v)) ∧
  (∀ (s : State) (m : Fin 8) (g : MapCfg) (w : Sweep) (n : Nat) (k : Nat) (cs : Counts) (ys : Counts),
      s.eddy.maps[m].cfg = some g →
      s.eddy.maps[m].sweep = some w →
      w.cells = 0 →
      w.counts = [] →
      w.youth = [] →
      s.eddy.maps[m].record = none →
      g.planes = true →
      g.raw = false →
      s.store.state = .ready →
      storeServes s = true →
      n = g.columns * g.rows →
      k = exportBuffer s m g →
      cs = s.eddy.maps[m].counts.filter (fun x => decide (x.1 < n)) →
      ys = s.eddy.maps[m].youth.filter (fun x => decide (x.1 < n)) →
      Gives (.exportWritesAccepted m) s fun t => t.clk = (waitUp (w.since + ceilDiv n 64) s).clk ∧ t.eddy.maps[m].newest = some k ∧ t.eddy.maps[m].sweep = none ∧ t.eddy.maps[m].writing = none ∧
        t.eddy.maps[m].interval = w.tick / g.exportTicks ∧ t.eddy.maps[m].counts = cs.foldl (fun m x => m.put x.1 (g.decayed x.2)) s.eddy.maps[m].counts ∧
        t.eddy.maps[m].youth = (if g.age then ys.foldl (fun m x => m.put x.1 (x.2 - 1)) s.eddy.maps[m].youth else s.eddy.maps[m].youth) ∧
        t.eddy.maps[m].saturated = (cs.filter (·.2 = 65535)).length ∧ (∀ j : Fin 8, j ≠ m → t.eddy.maps[j] = s.eddy.maps[j]) ∧
        t.store.mem = (storeWrite (s.eddy.maps[m].planeBase + k * g.planeSize) (lumaPlane g { s.eddy.maps[m] with counts := cs, youth := ys } ++ chromaPlane g { s.eddy.maps[m] with counts := cs, youth := ys }) s).store.mem) ∧
  (∀ (s : State) (m : Fin 8) (g : MapCfg) (k : Nat) (u : State),
      s.eddy.maps[m].cfg = some g →
      s.eddy.maps[m].sweep = none →
      s.eddy.maps[m].writing = some k →
      s.eddy.maps[m].record = none →
      u = storeAsk s →
      storeServes u = true →
      exec (.exportWritesAccepted m) s = .next (setMap m (fun d => { d with newest := some k, writing := none, record := none, interval := d.number }) u)) ∧
  (∀ (s : State) (m : Fin 8) (g : MapCfg) (r : RawExport) (u : State),
      s.eddy.maps[m].cfg = some g →
      s.eddy.maps[m].sweep = none →
      s.eddy.maps[m].record = some r →
      u = storeAsk s →
      storeServes u = true →
      exec (.exportWritesAccepted m) s = .next (publish g.stream (prodMap m.val) r.bytes r.stop r.addr true
        (setMap m (fun d => { d with newest := if d.writing.isSome then d.writing else d.newest, writing := none, record := none, interval := d.number }) u))) ∧
  (∀ (s : State) (m : Fin 8) (u : State),
      s.eddy.maps[m].sweep = none →
      s.eddy.maps[m].exporting = true →
      u = storeAsk s →
      storeServes u = false →
      exec (.exportWritesAccepted m) s = .next u)

/-- At a frame start the frame is counted, a valid shadow set is taken and its SHADOW_VALID clears, and each layer latches its planes, an
L0 that follows a map the newest buffer of that map (R32, R268, R272, R276); with ENABLE cleared the scan-out stops there (R282). A layer
that is due fetches up to its share of the buffer where the store serves, a poisoned sector counted as zeros (R81, R278, R279), and
otherwise waits, calling the store out of self-refresh (R106). A layer whose data runs out is transparent to the end of the frame, and the
underrun is counted (R280). Without a sink the link is down; a sink that comes back, or loses lock, is trained (R275). Training ends
ACTIVE with the next frame black, or FAILED with a retry 100 ms later (R268, R274). An AUX transaction ends with its reply and the bytes
read, is tried again up to seven times after a DEFER, or times out after 500 us (R277). -/
def Obligations.ScanOutFetchesAndTheSinkAnswers : Prop :=
  (∀ (s : State) (v : State),
      s.scn.running = true →
      s.scn.pixelPaused = false →
      v = waitUp (s.scn.frameAt + frameTicks s.scn.timing) s →
      scnEnabled v = true →
      exec .scanoutFrameStart s = .next (frameStart v)) ∧
  (∀ (s : State) (v : State),
      s.scn.running = true →
      s.scn.pixelPaused = false →
      v = waitUp (s.scn.frameAt + frameTicks s.scn.timing) s →
      scnEnabled v = true →
      timingApplied v = false →
      ∀ l : Fin 4, (v.reg (kLayer l.val 0x24)).getLsbD 0 = false →
      Gives .scanoutFrameStart s fun t => t.scn.frame = (s.scn.frame + 1) % 2 ^ 32 ∧ t.scn.frameAt = v.clk.up ∧ t.scn.timing = s.scn.timing ∧
        ∀ l : Fin 4, t.scn.layers[l].set = s.scn.layers[l].set ∧ t.scn.layers[l].underrunNow = false ∧ t.scn.layers[l].fetched = 0 ∧
          (l ≠ 0 ∨ s.scn.layers[l].set.en = false ∨ s.scn.layers[l].set.follow = false → t.scn.layers[l].latched = s.scn.layers[l].set.planeAddrs ∧ t.scn.layers[l].fetching = s.scn.layers[l].set.en)) ∧
  (∀ (s : State) (v : State) (p : List Nat),
      s.scn.running = true →
      s.scn.pixelPaused = false →
      v = waitUp (s.scn.frameAt + frameTicks s.scn.timing) s →
      scnEnabled v = true →
      timingApplied v = false →
      ∀ l : Fin 4, (v.reg (kLayer l.val 0x24)).getLsbD 0 = false →
      s.scn.layers[0].set.en = true →
      s.scn.layers[0].set.follow = true →
      followedPlanes v v.scn.layers[0].set = some p →
      Gives .scanoutFrameStart s fun t => t.scn.layers[0].latched = p ∧ t.scn.layers[0].lost = false ∧ t.scn.layers[0].fetching = true) ∧
  (∀ (s : State) (v : State) (k : Fin 4),
      s.scn.running = true →
      s.scn.pixelPaused = false →
      v = waitUp (s.scn.frameAt + frameTicks s.scn.timing) s →
      scnEnabled v = true →
      timingApplied v = false →
      ∀ l : Fin 4, l ≠ k → (v.reg (kLayer l.val 0x24)).getLsbD 0 = false →
      (v.reg (kLayer k.val 0x24)).getLsbD 0 = true →
      layerCause v k (layerShadow v k) = 0 →
      Gives .scanoutFrameStart s fun t => t.scn.layers[k].set = layerShadow v k ∧ (t.reg (kLayer k.val 0x24)).getLsbD 0 = false ∧ (∀ l : Fin 4, l ≠ k → t.scn.layers[l].set = s.scn.layers[l].set)) ∧
  (∀ (s : State) (v : State),
      s.scn.running = true →
      s.scn.pixelPaused = false →
      v = waitUp (s.scn.frameAt + frameTicks s.scn.timing) s →
      scnEnabled v = false →
      exec .scanoutFrameStart s = .next (setSynth 2 (fun y => { y with state := .off }) { v with scn := { v.scn with running := false, link := .off, trained := false, sscActive := false, blackRest := false, pixelPaused := false, layers := v.scn.layers.map fun y => { y with fetching := false } } })) ∧
  (∀ (s : State) (l : Fin 4) (f : Nat) (v : State) (u : State),
      scnEnabled s = true →
      s.scn.running = true →
      s.scn.pixelPaused = false →
      layerLive s l = true →
      s.scn.layers[l].fetching = false →
      s.scn.layers[l].fetched < s.scn.layers[l].set.frameBytes l →
      v = waitUp (layerDeadline s l - (max 38 (s.field (kScn 0x18) 15 0) + 16) * usTicks) s →
      u = storeAsk v →
      f = u.scn.layers[l].set.frameBytes l →
      storeServes u = true →
      exec (.layerFetchStart l) s = .next (setStore (fun st => { st with displayZeroed := satN 32 (st.displayZeroed +
          poisonedLines u l (u.scn.layers[l].fetched * u.scn.layers[l].set.height l / max 1 f) (ceilDiv (min f (layerConsumed u l + layerShare u l) * u.scn.layers[l].set.height l) (max 1 f))) })
        (setLayer l (fun y => { y with fetched := max y.fetched (min f (layerConsumed u l + layerShare u l)), fetching := false }) u))) ∧
  (∀ (s : State) (l : Fin 4) (v : State) (u : State),
      scnEnabled s = true →
      s.scn.running = true →
      s.scn.pixelPaused = false →
      layerLive s l = true →
      s.scn.layers[l].fetching = false →
      s.scn.layers[l].fetched < s.scn.layers[l].set.frameBytes l →
      v = waitUp (layerDeadline s l - (max 38 (s.field (kScn 0x18) 15 0) + 16) * usTicks) s →
      u = storeAsk v →
      storeServes u = false →
      exec (.layerFetchStart l) s = .next (setLayer l (fun y => { y with fetching := true }) u)) ∧
  (∀ (s : State) (l : Fin 4) (u : State),
      scnEnabled s = true →
      s.scn.running = true →
      s.scn.pixelPaused = false →
      layerLive s l = true →
      s.scn.layers[l].fetching = true →
      u = storeAsk s →
      storeServes u = true →
      exec (.layerFetchStart l) s = .next (fillLayer l u)) ∧
  (∀ (s : State) (l : Fin 4),
      scnEnabled s = true →
      s.scn.running = true →
      s.scn.pixelPaused = false →
      layerLive s l = true →
      s.scn.layers[l].underrunNow = false →
      s.scn.layers[l].fetched < s.scn.layers[l].set.frameBytes l →
      exec (.layerUnderrun l) s = .next ((setLayer l (fun y => { y with underrunNow := true }) (waitUp (layerDeadline s l) s)).countWrap (kScn 0x10) 1)) ∧
  (∀ (s : State) (d : DpState),
      s.scn.hpd = true →
      s.scn.auxWaiting = false →
      s.scn.link = d →
      d ≠ .off →
      exec .hpdUnplug s = .next { s with scn := { s.scn with hpd := false, link := .noSink, trained := false, sscActive := false } }) ∧
  (∀ (s : State),
      s.scn.hpd = false →
      s.jtag.pinsTaken = false →
      scnEnabled s = true →
      exec .hpdPlug s = .next { s with scn := { s.scn with hpd := true, link := .training, trained := false, sscActive := false } }) ∧
  (∀ (s : State),
      s.scn.hpd = false →
      s.jtag.pinsTaken = false →
      scnEnabled s = false →
      exec .hpdPlug s = .next { s with scn := { s.scn with hpd := true } }) ∧
  (∀ (s : State) (lost : Bool),
      s.scn.hpd = true →
      lost = false ∨ scnEnabled s = false →
      exec (.hpdIrq lost) s = .next { s with scn := { s.scn with hpdIrqs := (s.scn.hpdIrqs + 1) % 256 } }) ∧
  (∀ (s : State),
      s.scn.hpd = true →
      scnEnabled s = true →
      s.scn.link = .active ∨ s.scn.link = .training →
      exec (.hpdIrq true) s = .next { s with scn := { s.scn with hpdIrqs := (s.scn.hpdIrqs + 1) % 256, link := .training, trained := false, sscActive := false } }) ∧
  (∀ (s : State) (down : Bool),
      s.scn.link = .training →
      s.clk.synths[2].state ≠ .bypass →
      rootBypassed s = false →
      s.scn.auxWaiting = false →
      exec (.dpTrainingComplete true down) s = .next { s with scn := { s.scn with link := .active, trained := true, rate := tRate s.scn.timing, lanes := tLanes s.scn.timing, sscActive := tSsc s.scn.timing && down, blackFrames := 1, blank := true } }) ∧
  (∀ (s : State) (down : Bool),
      s.scn.link = .training →
      s.clk.synths[2].state ≠ .bypass →
      rootBypassed s = false →
      s.scn.auxWaiting = false →
      exec (.dpTrainingComplete false down) s = .next { s with scn := { s.scn with link := .failed, trained := false, trainFails := satN 16 (s.scn.trainFails + 1), retryAt := s.clk.up + 100 * msTicks } }) ∧
  (∀ (s : State),
      s.scn.link = .failed →
      s.scn.hpd = true →
      exec .dpTrainingRetry s = .next { (waitUp s.scn.retryAt s) with scn := { s.scn with link := .training, trained := false, sscActive := false } }) ∧
  (∀ (s : State) (x : AuxOp) (d : Data),
      s.scn.aux = some x →
      exec (.auxReply 0 d) s = .next (auxResult 0 (auxData (d.take x.len) s))) ∧
  (∀ (s : State) (x : AuxOp) (d : Data),
      s.scn.aux = some x →
      exec (.auxReply 1 d) s = .next (auxResult 1 s)) ∧
  (∀ (s : State) (x : AuxOp) (d : Data),
      s.scn.aux = some x →
      x.defers < 7 →
      exec (.auxReply 2 d) s = .next { s with scn := { s.scn with aux := some { x with defers := x.defers + 1, since := s.clk.up } } }) ∧
  (∀ (s : State) (x : AuxOp) (d : Data),
      s.scn.aux = some x →
      7 ≤ x.defers →
      exec (.auxReply 2 d) s = .next (auxResult 2 s)) ∧
  (∀ (s : State) (x : AuxOp),
      s.scn.aux = some x →
      exec .auxTimeout s = .next (auxResult 3 (waitUp (x.since + 500 * usTicks) s)))

/-- A stream to a host ring opens once the declared rates, STAGE, the store ledger and the power admit it, one to a peer once the links do
as well (R19, R296, R297); the query writes its block (R304). A close flushes what is joined, publishes the end MARKER and waits until all
is delivered; a failed stream closes at once (R305). -/
def Obligations.StreamsOpenAndClose : Prop :=
  (∀ (s : State) (id : Nat) (c : Cmd) (n : Fin 16),
      Runs s id 0x0600 (fun c => !bit (c.p16 0x0A) 15) c →
      Passes [entryCheck c streamUsed [], deviceCheck s c, needState (s.tw[n].state = .closed && !waitsPower s (.stream n.val)), params (streamParams s c),
        needState ((iqChannels (c.p32 0x30)).all fun x => s.inlets[x.2].state = .running), params (iqParams s c)] →
      c.p8 0x08 = n.val →
      streamDest c = 0 →
      declaredRates s + streamRate c ≤ streamLimit s →
      stageFits s mib = true →
      Admits s (.stream n.val) [(lcRecords, 2000 * streamRate c)] →
      GrantsAtOnce (addReservations (.stream n.val) [(lcRecords, 2000 * streamRate c)] s) (cost [(pcStream, storeUnits (2000 * streamRate c))]) →
      exec (.streamOpen id) s = .next (openStream c n (grantItems (.stream n.val) [(pcStream, storeUnits (2000 * streamRate c))] (addReservations (.stream n.val) [(lcRecords, 2000 * streamRate c)] s)))) ∧
  (∀ (s : State) (id : Nat) (c : Cmd) (n : Fin 16) (u : State),
      Runs s id 0x0600 (fun c => !bit (c.p16 0x0A) 15) c →
      Passes [entryCheck c streamUsed [], deviceCheck s c, needState (s.tw[n].state = .closed && !waitsPower s (.stream n.val)), params (streamParams s c),
        needState ((iqChannels (c.p32 0x30)).all fun x => s.inlets[x.2].state = .running), params (iqParams s c), need (reachable s.link (c.p64 0x10 % 65536)) stLink 0] →
      c.p8 0x08 = n.val →
      streamDest c = 2 →
      stageFits s mib = true →
      admitFlow (.stream n.val) (c.p64 0x10 % 65536) (streamRate c) 0 s = some u →
      Admits u (.stream n.val) [(lcRecords, 2000 * streamRate c), (lcLinks, 1000 * streamRate c)] →
      GrantsAtOnce (addReservations (.stream n.val) [(lcRecords, 2000 * streamRate c), (lcLinks, 1000 * streamRate c)] u) (cost [(pcStream, storeUnits (3000 * streamRate c))]) →
      exec (.streamOpen id) s = .next (openStream c n (grantItems (.stream n.val) [(pcStream, storeUnits (3000 * streamRate c))] (addReservations (.stream n.val) [(lcRecords, 2000 * streamRate c), (lcLinks, 1000 * streamRate c)] u)))) ∧
  (∀ (s : State) (id : Nat) (c : Cmd) (n : Fin 16),
      Runs s id 0x0600 (fun c => bit (c.p16 0x0A) 15) c →
      Passes [deviceCheck s c, params [(0x10, aligned64 (c.p64 0x10))]] →
      c.p8 0x08 = n.val →
      exec (.streamQuery id) s = .next (done c 0 0 (writeBlock c (c.p64 0x10) (streamStatus n s.tw[n]) s))) ∧
  (∀ (s : State) (id : Nat) (c : Cmd) (n : Fin 16),
      Runs s id 0x0601 anyCmd c →
      Passes [entryCheck c [(0x08, 1)] [], deviceCheck s c] →
      c.p8 0x08 = n.val →
      s.tw[n].state = .open_ ∨ s.tw[n].state = .paused →
      exec (.streamClose id) s = .next (wait c (beginClose n 0 (some c.id) s))) ∧
  (∀ (s : State) (id : Nat) (c : Cmd) (n : Fin 16),
      Runs s id 0x0601 anyCmd c →
      Passes [entryCheck c [(0x08, 1)] [], deviceCheck s c] →
      c.p8 0x08 = n.val →
      s.tw[n].state = .failed →
      exec (.streamClose id) s = .next (finishClose n (setStream n (fun t => { t with reason := 0, closeCmd := some c.id }) s)))

/-- Once the store serves its read, the record at the head goes to the ring where it fits, with the status block after it and the
publication event as asked for (R299, R300, R303), to the log of a delegation (R310), or to the peer: there the first record not yet sent
is sent, and stays pinned until it is acknowledged (R317, R368). A record longer than the free part of the ring waits (R299); one that a
full log has no room for is discarded and counted (R313, R314). notify_us after the first delivery that was not announced the event is
raised (R303). An acknowledgement unpins the records that it covers, and that of the end MARKER closes the stream. A sender out of reach
for link_hold is cut at the current tick, with a GAP of cause 6 for each of its producers (R369). -/
def Obligations.RecordsAreDelivered : Prop :=
  (∀ (s : State) (n : Fin 16) (r : Accepted) (l : List Accepted) (v : State) (w : State),
      s.tw[n].state = .open_ →
      v = storeAsk s →
      storeServes v = true →
      s.tw[n].dest = 0 →
      s.tw[n].queue = r :: l →
      masters v = true →
      r.producer ≠ prodEnd →
      s.tw[n].tail - s.tw[n].head + (placed r (deliverable v r) s.tw[n].seqNext).length ≤ s.tw[n].ringSize →
      w = setStream n (fun t => { t with tail := t.tail + (placed r (deliverable v r) s.tw[n].seqNext).length }) (setStream n (fun t => { t with queue := l, backlog := t.backlog - r.bytes.length, seqNext := t.seqNext + 1, delivered := t.delivered + (placed r (deliverable v r) s.tw[n].seqNext).length, records := t.records + 1, gapRecords := t.gapRecords + b2n (decide (recType (placed r (deliverable v r) s.tw[n].seqNext) = rtGap ∧ recCause (placed r (deliverable v r) s.tw[n].seqNext) = 1)) }) (ringWrite s.tw[n].noSnoop s.tw[n].ringBase s.tw[n].ringSize s.tw[n].tail (placed r (deliverable v r) s.tw[n].seqNext) (reportRead r v))) →
      exec (.recordDeliver n) s = .next (reapAcqs (afterDelivery n (hostWrite s.tw[n].statusAddr (ringStatus w.tw[n] w.clk.tick) w)))) ∧
  (∀ (s : State) (n : Fin 16) (r : Accepted) (l : List Accepted) (v : State),
      s.tw[n].state = .open_ →
      v = storeAsk s →
      storeServes v = true →
      s.tw[n].dest = 0 →
      s.tw[n].queue = r :: l →
      s.tw[n].ringSize < s.tw[n].tail - s.tw[n].head + (placed r (deliverable v r) s.tw[n].seqNext).length →
      exec (.recordDeliver n) s = .next v) ∧
  (∀ (s : State) (n : Fin 16) (r : Accepted) (l : List Accepted) (v : State) (x : Nvme),
      s.tw[n].state = .open_ →
      v = storeAsk s →
      storeServes v = true →
      s.tw[n].dest = 1 →
      s.tw[n].queue = r :: l →
      s.tw[n].nvme = some x →
      r.producer ≠ prodEnd →
      nvmeIssues v s.tw[n] = true →
      logTakes x = true →
      x.finalFlush = false →
      logFits x (placed r (deliverable v r) s.tw[n].seqNext) false = true →
      exec (.recordDeliver n) s = .next (reapAcqs (nvmeFlushNow n (nvmeSubmitAll n ((logAppend x (placed r (deliverable v r) s.tw[n].seqNext)).length / max 1 x.maxXfer) (setNvme n (fun y => { y with buffer := logAppend x (placed r (deliverable v r) s.tw[n].seqNext) }) (setStream n (fun t => { t with queue := l, backlog := t.backlog - r.bytes.length, seqNext := t.seqNext + 1, delivered := t.delivered + (placed r (deliverable v r) s.tw[n].seqNext).length, records := t.records + 1, gapRecords := t.gapRecords + b2n (decide (recType (placed r (deliverable v r) s.tw[n].seqNext) = rtGap ∧ recCause (placed r (deliverable v r) s.tw[n].seqNext) = 1)) }) (reportRead r v))))))) ∧
  (∀ (s : State) (n : Fin 16) (r : Accepted) (l : List Accepted) (v : State) (x : Nvme),
      s.tw[n].state = .open_ →
      v = storeAsk s →
      storeServes v = true →
      s.tw[n].dest = 1 →
      s.tw[n].queue = r :: l →
      s.tw[n].nvme = some x →
      r.producer ≠ prodEnd →
      nvmeIssues v s.tw[n] = true →
      logTakes x = true →
      x.finalFlush = false →
      logFits x (placed r (deliverable v r) s.tw[n].seqNext) false = false →
      exec (.recordDeliver n) s = .next (setStream n (fun t => { t with queue := l, backlog := t.backlog - r.bytes.length, dropped := t.dropped + 1 }) v)) ∧
  (∀ (s : State) (n : Fin 16) (r : Accepted) (l : List Accepted) (m : List Accepted) (v : State),
      s.tw[n].state = .open_ →
      v = storeAsk s →
      storeServes v = true →
      s.tw[n].dest = 2 →
      s.tw[n].queue = m ++ r :: l →
      (m.all fun x => x.linkSeq ≠ 0) = true →
      r.linkSeq = 0 →
      reachable v.link s.tw[n].peerDid = true →
      exec (.recordDeliver n) s = .next (sendRecord n s.tw[n] (s.tw[n].linkSeq + 1) r.stop (placed r (deliverable v r) s.tw[n].seqNext) (reportRead r (setStream n (fun t =>
        { t with queue := m ++ { r with linkSeq := t.linkSeq + 1, bytes := (placed r (deliverable v r) s.tw[n].seqNext) } :: l, linkSeq := t.linkSeq + 1, seqNext := t.seqNext + 1, delivered := t.delivered + (placed r (deliverable v r) s.tw[n].seqNext).length, records := t.records + 1, gapRecords := t.gapRecords + b2n (decide (recType (placed r (deliverable v r) s.tw[n].seqNext) = rtGap ∧ recCause (placed r (deliverable v r) s.tw[n].seqNext) = 1)) }) v)))) ∧
  (∀ (s : State) (n : Fin 16) (u : Nat),
      s.tw[n].firstUnannounced = some u →
      s.tw[n].notifyUs ≠ 0 →
      exec (.notifyTimeout n) s = .next (announceRecords n (waitUp (u + s.tw[n].notifyUs * usTicks) s))) ∧
  (∀ (s : State) (n : Fin 16) (seq : U64),
      s.tw[n].dest = 2 →
      s.tw[n].state = .open_ →
      seq.toNat ≤ s.tw[n].linkSeq →
      (s.tw[n].queue.all fun r => r.producer ≠ prodEnd) = true →
      exec (.peerStreamAck n seq) s = .next (reapAcqs (setStream n (fun t => { t with queue := t.queue.filter (fun r => !decide (r.linkSeq ≠ 0 ∧ r.linkSeq ≤ seq.toNat)), acked := max t.acked seq.toNat, backlog := t.backlog - ((t.queue.filter fun r => decide (r.linkSeq ≠ 0 ∧ r.linkSeq ≤ seq.toNat)).map (·.bytes.length)).sum }) s))) ∧
  (∀ (s : State) (n : Fin 16) (seq : U64) (r : Accepted),
      s.tw[n].dest = 2 →
      s.tw[n].state = .closing →
      seq.toNat ≤ s.tw[n].linkSeq →
      s.tw[n].queue = [r] →
      r.producer = prodEnd →
      r.linkSeq ≠ 0 →
      r.linkSeq ≤ seq.toNat →
      Gives (.peerStreamAck n seq) s fun t => t.tw[n].state = .closed ∧ t.tw[n].queue = [] ∧ t.tw[n].stagePart = false) ∧
  (∀ (s : State) (n : Fin 16) (did : Nat) (f : PeerFeed) (v : State) (w : State),
      (s.tw[n].fromPeers.find? fun f => decide (f.did = did) && f.lostSince.isSome) = some f →
      v = waitUp (f.lostSince.getD 0 + s.link.cfg.linkHoldMs * msTicks) s →
      w = forL (v.tw[n].fromProducers.filter (·.1 = did)) (fun x s => enqueueRecord n (prodPeer did f.stream x.2.1) (gapRecord { recHdr x.2.2.2 with flags := 0, itemIndex := x.2.2.1, itemCount := 2 ^ 32 - 1 } 6 v.clk.tick 0) none v.clk.tick s) v →
      Gives (.peerStreamCut n did) s fun t => t.tw[n].queue = w.tw[n].queue ∧ t.tw[n].fromPeers = w.tw[n].fromPeers.map (fun x => if x.did = did then { x with partial_ := [], lostSince := none } else x) ∧
        t.link.lostDids = v.link.lostDids ++ [(did, v.clk.tick)] ∧ t.clk.tick = v.clk.tick)

/-- A delegation whose descriptor passes its checks opens its stream once the rates, STAGE, the store ledger and the power admit it (R296,
R308). A completion entry with the phase expected advances the completion head, rings its doorbell and frees its slot; that of a Flush
makes what it covers durable, and that of the final Flush ends the close; a status other than 0 fails the delegation, and an entry without
that phase is left alone (R305, R312, R313). Every flush_ms a Flush is due that waits for the Writes outstanding then, and a command
outstanding for timeout_ms fails the stream (R312, R313). -/
def Obligations.DelegatedQueuesRun : Prop :=
  (∀ (s : State) (id : Nat) (c : Cmd) (n : Fin 16) (d : Data),
      Runs s id 0x0602 anyCmd c →
      Passes [entryCheck c [(0x08, 4), (0x10, 8)] [], deviceCheck s c, params [(0x08, decide (c.p32 0x08 = 128)), (0x10, aligned64 (c.p64 0x10))]] →
      u8At d 2 = n.val →
      Passes [descParams [(0x00, decide (u16At d 0 = 1))], needState (s.tw[n].state = .closed && !waitsPower s (.stream n.val)), descParams (nvmeFields1 s d), needState (windowCovers s (windowBase s) (u64At d 0x18) (u64At d 0x20)), descParams (nvmeFields2 d)] →
      declaredRates s + u32At d 4 ≤ streamLimit s →
      stageFits s (mib + u64At d 0x20) = true →
      Admits s (.stream n.val) [(lcRecords, 4000 * u32At d 4)] →
      GrantsAtOnce (setCmd c.id (fun c => { c with bytes := c.bytes ++ d }) (addReservations (.stream n.val) [(lcRecords, 4000 * u32At d 4)] s)) (cost [(pcStream, storeUnits (4000 * u32At d 4))]) →
      exec (.nvmeDelegate id (some d)) s = .next (openNvme c n d (grantItems (.stream n.val) [(pcStream, storeUnits (4000 * u32At d 4))] (setCmd c.id (fun c => { c with bytes := c.bytes ++ d }) (addReservations (.stream n.val) [(lcRecords, 4000 * u32At d 4)] s))))) ∧
  (∀ (s : State) (n : Fin 16) (v : Nvme) (q : State) (e : Data),
      s.tw[n].nvme = some v →
      s.tw[n].dest = 1 →
      s.tw[n].state = .open_ →
      q = storeAsk s →
      storeServes q = true →
      e = storeRead q (v.cqAt + 16 * v.cqHead) 16 →
      bit (u16At e 14) 0 ≠ v.cqPhase →
      exec (.nvmeCompletionEntry n) s = .next q) ∧
  (∀ (s : State) (n : Fin 16) (v : Nvme) (q : State) (e : Data) (h : Nat) (x : Nat × Nat × Bool × Nat) (w : State),
      s.tw[n].nvme = some v →
      s.tw[n].dest = 1 →
      s.tw[n].state = .open_ →
      q = storeAsk s →
      storeServes q = true →
      e = storeRead q (v.cqAt + 16 * v.cqHead) 16 →
      bit (u16At e 14) 0 = v.cqPhase →
      v.commands.find? (·.1 = u16At e 12) = some x →
      x.2.2.1 = false →
      u16At e 14 / 2 = 0 →
      h = (if v.cqHead + 1 = v.cqEntries then 0 else v.cqHead + 1) →
      w = setNvme n (fun w => { w with cqHead := h, cqPhase := if h = 0 then !v.cqPhase else v.cqPhase, commands := w.commands.filter (·.1 ≠ u16At e 12), flushAwaits := w.flushAwaits.filter (· ≠ u16At e 12), slotBusy := if x.2.2.1 then w.slotBusy else w.slotBusy.filter (· ≠ x.2.1) }) (hostWrite v.cqDoorbell (le 4 h) q) →
      exec (.nvmeCompletionEntry n) s = .next (nvmeAdvance n w)) ∧
  (∀ (s : State) (n : Fin 16) (v : Nvme) (q : State) (e : Data) (h : Nat) (x : Nat × Nat × Bool × Nat) (w : State),
      s.tw[n].nvme = some v →
      s.tw[n].dest = 1 →
      s.tw[n].state = .open_ →
      q = storeAsk s →
      storeServes q = true →
      e = storeRead q (v.cqAt + 16 * v.cqHead) 16 →
      bit (u16At e 14) 0 = v.cqPhase →
      v.commands.find? (·.1 = u16At e 12) = some x →
      x.2.2.1 = true →
      v.finalFlush = false →
      u16At e 14 / 2 = 0 →
      h = (if v.cqHead + 1 = v.cqEntries then 0 else v.cqHead + 1) →
      w = setNvme n (fun w => { w with cqHead := h, cqPhase := if h = 0 then !v.cqPhase else v.cqPhase, commands := w.commands.filter (·.1 ≠ u16At e 12), flushAwaits := w.flushAwaits.filter (· ≠ u16At e 12), slotBusy := if x.2.2.1 then w.slotBusy else w.slotBusy.filter (· ≠ x.2.1) }) (hostWrite v.cqDoorbell (le 4 h) q) →
      exec (.nvmeCompletionEntry n) s = .next (nvmeAdvance n (setNvme n (fun w => { w with durable := x.2.1 }) w))) ∧
  (∀ (s : State) (n : Fin 16) (v : Nvme) (q : State) (e : Data) (h : Nat) (x : Nat × Nat × Bool × Nat) (w : State),
      s.tw[n].nvme = some v →
      s.tw[n].dest = 1 →
      s.tw[n].state = .closing →
      q = storeAsk s →
      storeServes q = true →
      e = storeRead q (v.cqAt + 16 * v.cqHead) 16 →
      bit (u16At e 14) 0 = v.cqPhase →
      v.commands = [x] →
      x.1 = u16At e 12 →
      x.2.2.1 = true →
      v.finalFlush = true →
      v.flushWaiting = false →
      v.buffer = [] →
      u16At e 14 / 2 = 0 →
      h = (if v.cqHead + 1 = v.cqEntries then 0 else v.cqHead + 1) →
      w = setNvme n (fun w => { w with cqHead := h, cqPhase := if h = 0 then !v.cqPhase else v.cqPhase, commands := w.commands.filter (·.1 ≠ u16At e 12), flushAwaits := w.flushAwaits.filter (· ≠ u16At e 12), slotBusy := if x.2.2.1 then w.slotBusy else w.slotBusy.filter (· ≠ x.2.1) }) (hostWrite v.cqDoorbell (le 4 h) q) →
      exec (.nvmeCompletionEntry n) s = .next (finishClose n (setNvme n (fun w => { w with durable := x.2.1 }) w))) ∧
  (∀ (s : State) (n : Fin 16) (v : Nvme) (q : State) (e : Data) (h : Nat) (x : Nat × Nat × Bool × Nat) (w : State),
      s.tw[n].nvme = some v →
      s.tw[n].dest = 1 →
      s.tw[n].state = .open_ →
      q = storeAsk s →
      storeServes q = true →
      e = storeRead q (v.cqAt + 16 * v.cqHead) 16 →
      bit (u16At e 14) 0 = v.cqPhase →
      v.commands.find? (·.1 = u16At e 12) = some x →
      u16At e 14 / 2 ≠ 0 →
      h = (if v.cqHead + 1 = v.cqEntries then 0 else v.cqHead + 1) →
      w = setNvme n (fun w => { w with cqHead := h, cqPhase := if h = 0 then !v.cqPhase else v.cqPhase, commands := w.commands.filter (·.1 ≠ u16At e 12), flushAwaits := w.flushAwaits.filter (· ≠ u16At e 12), slotBusy := if x.2.2.1 then w.slotBusy else w.slotBusy.filter (· ≠ x.2.1) }) (hostWrite v.cqDoorbell (le 4 h) q) →
      exec (.nvmeCompletionEntry n) s = .next (nvmeError n (u16At e 14 / 2) w)) ∧
  (∀ (s : State) (n : Fin 16) (v : Nvme) (q : State),
      s.tw[n].nvme = some v →
      v.flushMs ≠ 0 →
      s.tw[n].state = .open_ →
      s.tw[n].dest = 1 →
      v.flushWaiting = false →
      q = waitUp (v.lastFlush + v.flushMs * msTicks) s →
      exec (.nvmeFlushTimer n) s = .next (nvmeAdvance n (storeAwake (setNvme n (fun v => { v with flushWaiting := true, flushAwaits := (v.commands.filter (!·.2.2.1)).map (·.1), flushUpTo := v.logSlot * v.maxXfer, lastFlush := q.clk.up }) q)))) ∧
  (∀ (s : State) (n : Fin 16) (v : Nvme) (x : Nat × Nat × Bool × Nat) (l : List (Nat × Nat × Bool × Nat)),
      s.tw[n].nvme = some v →
      v.commands = x :: l →
      s.tw[n].state = .open_ →
      s.tw[n].dest = 1 →
      exec (.nvmeCommandTimeout n) s = .next (failStream n (raise (evStream n 6) [.h x.1] (waitUp (x.2.2.2 + v.timeoutMs * msTicks) s))))

/-- The channel that arbitration chooses loads its descriptor from host memory or the store: one that passes the check starts, one that
does not ends DESC_ERROR with its code and its whole length as residue, and a read that fails halts Draught (R319, R321, R331). The
running descriptor ends DONE once all its bytes are at its destination, in host memory, the store or the registers, or, to a peer, in
WRITE packets that are acknowledged (R322 to R325); a source that decodes uncorrectable halts Draught (R331), and an overwritten HISTORY
source ends it OVERWRITTEN (R323). A bus error halts every channel with its cause (R331). -/
def Obligations.DraughtMovesDescriptors : Prop :=
  (∀ (s : State) (n : Fin 32) (b : Data) (u : State),
      dmaHalted s = false →
      s.drt.running = none →
      nextChan s = some n →
      s.drt.chans[n].descSpace = 0 →
      masters s = true →
      u = { s with drt := { s.drt with active := n.val, lastChosen := vmodN s.drt.lastChosen (chanPrio s n) (fun _ => n.val) } } →
      dmaCheck u (dmaDescOf b) = 0 →
      exec (.descriptorLoad (some b)) s = .next (startDesc n (dmaDescOf b) u)) ∧
  (∀ (s : State) (n : Fin 32) (b : Data) (u : State),
      dmaHalted s = false →
      s.drt.running = none →
      nextChan s = some n →
      s.drt.chans[n].descSpace = 0 →
      masters s = true →
      u = { s with drt := { s.drt with active := n.val, lastChosen := vmodN s.drt.lastChosen (chanPrio s n) (fun _ => n.val) } } →
      dmaCheck u (dmaDescOf b) ≠ 0 →
      exec (.descriptorLoad (some b)) s = .next (endBad n (dmaDescOf b) endDescError (dmaCheck u (dmaDescOf b)) (dmaDescOf b).length u)) ∧
  (∀ (s : State) (n : Fin 32),
      dmaHalted s = false →
      s.drt.running = none →
      nextChan s = some n →
      s.drt.chans[n].descSpace = 0 →
      masters s = true →
      exec (.descriptorLoad none) s = .next (dmaHalt 1 n s.drt.chans[n].descAddr 0 0 s)) ∧
  (∀ (s : State) (n : Fin 32) (h : HostRead) (u : State) (v : State),
      dmaHalted s = false →
      s.drt.running = none →
      nextChan s = some n →
      s.drt.chans[n].descSpace = 1 →
      v = storeAwake s →
      storeServes v = true →
      v.drt.chans[n].descAddr + 64 ≤ usable v.store →
      readPoisoned v v.drt.chans[n].descAddr 64 = false →
      u = { v with drt := { v.drt with active := n.val, lastChosen := vmodN v.drt.lastChosen (chanPrio v n) (fun _ => n.val) } } →
      dmaCheck u (dmaDescOf (rawRead v v.drt.chans[n].descAddr 64)) ≠ 0 →
      exec (.descriptorLoad h) s = .next (endBad n (dmaDescOf (rawRead v v.drt.chans[n].descAddr 64)) endDescError (dmaCheck u (dmaDescOf (rawRead v v.drt.chans[n].descAddr 64))) (dmaDescOf (rawRead v v.drt.chans[n].descAddr 64)).length u)) ∧
  (∀ (s : State) (n : Fin 32) (h : HostRead) (v : State),
      dmaHalted s = false →
      s.drt.running = none →
      nextChan s = some n →
      s.drt.chans[n].descSpace = 1 →
      v = storeAwake s →
      storeServes v = true →
      v.drt.chans[n].descAddr + 64 ≤ usable v.store →
      readPoisoned v v.drt.chans[n].descAddr 64 = true →
      exec (.descriptorLoad h) s = .next (dmaHalt 4 n v.drt.chans[n].descAddr 1 0 (reportSpan v.drt.chans[n].descAddr 64 rqDma v))) ∧
  (∀ (s : State) (n : Fin 32) (d : DmaDesc) (b : Data),
      s.drt.running = some n →
      s.drt.chans[n].desc = some d →
      dmaHalted s = false →
      s.drt.chans[n].writesSent = false →
      d.from_ = some 0 →
      d.to_ = 0 →
      b.length = d.length →
      masters s = true →
      exec (.descriptorEnd (some b)) s = .next (endOk n d (hostData (bit d.dstSpace 3) (bit d.dstSpace 2) d.dst b (setPcie (fun p => { p with dataRead := bit d.srcSpace 2 && noSnoopEnabled s }) s)))) ∧
  (∀ (s : State) (n : Fin 32) (d : DmaDesc) (h : HostRead) (v : State),
      s.drt.running = some n →
      s.drt.chans[n].desc = some d →
      dmaHalted s = false →
      s.drt.chans[n].writesSent = false →
      d.from_ = none →
      d.to_ = 1 →
      v = storeAwake s →
      storeServes v = true →
      exec (.descriptorEnd h) s = .next (endOk n d (storeWrite d.dst (fillData d.fill d.length) v))) ∧
  (∀ (s : State) (n : Fin 32) (d : DmaDesc) (h : HostRead),
      s.drt.running = some n →
      s.drt.chans[n].desc = some d →
      dmaHalted s = false →
      s.drt.chans[n].writesSent = false →
      d.from_ = none →
      d.to_ = 2 →
      exec (.descriptorEnd h) s = .next (endOk n d (writeRegs d.dst (fillData d.fill d.length) s))) ∧
  (∀ (s : State) (n : Fin 32) (d : DmaDesc) (h : HostRead),
      s.drt.running = some n →
      s.drt.chans[n].desc = some d →
      dmaHalted s = false →
      s.drt.chans[n].writesSent = false →
      d.from_ = some 2 →
      d.to_ = 0 →
      masters s = true →
      exec (.descriptorEnd h) s = .next (endOk n d (hostData (bit d.dstSpace 3) (bit d.dstSpace 2) d.dst (readRegs s d.src (d.length / 4)) s))) ∧
  (∀ (s : State) (n : Fin 32) (d : DmaDesc) (h : HostRead),
      s.drt.running = some n →
      s.drt.chans[n].desc = some d →
      dmaHalted s = false →
      s.drt.chans[n].writesSent = false →
      d.from_ = none →
      d.to_ = 3 →
      exec (.descriptorEnd h) s = .next (setChan n (fun c => { c with writesSent := true })
        (forL (spanParts d.dst d.length) (fun p s => sendWrite d.dstDid p.1 (((fillData d.fill d.length).drop p.2.2).take p.2.1) p.2.2 s) s))) ∧
  (∀ (s : State) (n : Fin 32) (d : DmaDesc) (h : HostRead),
      s.drt.running = some n →
      s.drt.chans[n].desc = some d →
      dmaHalted s = false →
      s.drt.chans[n].writesSent = true →
      draughtWaits s = false →
      exec (.descriptorEnd h) s = .next (endOk n d s)) ∧
  (∀ (s : State) (n : Fin 32) (d : DmaDesc) (h : HostRead) (v : State),
      s.drt.running = some n →
      s.drt.chans[n].desc = some d →
      dmaHalted s = false →
      s.drt.chans[n].writesSent = false →
      d.from_ = some 1 →
      d.to_ = 0 →
      v = storeAwake s →
      storeServes v = true →
      masters v = true →
      readPoisoned v d.src d.length = true →
      exec (.descriptorEnd h) s = .next (dmaHalt 4 n d.src 1 0 (writeMaybe d 0 (reportSpan d.src d.length rqDma v)))) ∧
  (∀ (s : State) (n : Fin 32) (d : DmaDesc) (h : HostRead) (v : State),
      s.drt.running = some n →
      s.drt.chans[n].desc = some d →
      dmaHalted s = false →
      s.drt.chans[n].writesSent = false →
      d.from_ = some 1 →
      d.to_ = 0 →
      v = storeAwake s →
      storeServes v = true →
      masters v = true →
      readPoisoned v d.src d.length = false →
      historyOverwritten v d = true →
      exec (.descriptorEnd h) s = .next (endBad n d 5 0 0 (hostData (bit d.dstSpace 3) (bit d.dstSpace 2) d.dst (freeBytes d.length v).1 (freeBytes d.length v).2))) ∧
  (∀ (s : State) (cause : Nat) (ch : Fin 32) (addr : U64) (space : Nat) (written : Nat),
      dmaHalted s = false →
      1 ≤ cause →
      cause ≤ 5 →
      chanActive s.drt.chans[ch] = true →
      s.drt.running = none →
      exec (.draughtBusError cause ch addr space written) s = .next (dmaHalt cause ch addr.toNat space 0 s)) ∧
  (∀ (s : State) (cause : Nat) (ch : Fin 32) (n : Fin 32) (addr : U64) (space : Nat) (written : Nat) (d : DmaDesc),
      dmaHalted s = false →
      1 ≤ cause →
      cause ≤ 5 →
      chanActive s.drt.chans[ch] = true →
      s.drt.running = some n →
      s.drt.chans[n].desc = some d →
      exec (.draughtBusError cause ch addr space written) s = .next (dmaHalt cause ch addr.toNat space (min written d.length) (writeMaybe d (min written d.length) (writePrefix d (min written d.length) s))))

/-- Without FORCE a known numbering is returned as it stands; otherwise the device becomes root, numbers the system and the command waits
for the end (R349, R350, R378). The status and route blocks are written, with the kind, the port and the hops of a route (R379, R380). UP
trains a port that is down, DOWN takes one down and keeps it there, and RETRAIN retrains the lanes (R342, R379). -/
def Obligations.LinkCommandsAct : Prop :=
  (∀ (s : State) (id : Nat) (c : Cmd),
      Runs s id 0x0700 anyCmd c →
      Passes [entryCheck c [(0x08, 3)] [(0x0A, decide (c.p8 0x0A < 2))], deviceCheck s c,
        needState (s.link.enumeration.isNone && (!(decide (c.p8 0x0A = 1) && (s.link.enumerated || (s.link.assigned && s.link.enumeration.isNone))) || !peersBound s))] →
      (s.link.enumerated || (s.link.assigned && s.link.enumeration.isNone)) = true →
      c.p8 0x0A = 0 →
      exec (.linkEnumerate id) s = .next (done c (s.link.known.length + 1 + ((s.link.known.map (·.depth)).foldl max 0) * 2 ^ 32) s.link.enumTick s)) ∧
  (∀ (s : State) (id : Nat) (c : Cmd),
      Runs s id 0x0700 anyCmd c →
      Passes [entryCheck c [(0x08, 3)] [(0x0A, decide (c.p8 0x0A < 2))], deviceCheck s c,
        needState (s.link.enumeration.isNone && (!(decide (c.p8 0x0A = 1) && (s.link.enumerated || (s.link.assigned && s.link.enumeration.isNone))) || !peersBound s))] →
      (s.link.enumerated || (s.link.assigned && s.link.enumeration.isNone)) = false ∨ c.p8 0x0A = 1 →
      exec (.linkEnumerate id) s = .next (beginEnum (c.p16 0x08) (some c.id) (wait c s))) ∧
  (∀ (s : State) (id : Nat) (c : Cmd),
      Runs s id 0x0701 (selByte 0x09 0) c →
      Passes [entryCheck c [(0x08, 2), (0x10, 8)] [(0x08, decide (c.p8 0x08 < 4))], deviceCheck s c, params [(0x10, aligned64 (c.p64 0x10))]] →
      exec (.linkStatusQuery id) s = .next (done c 0 0 (writeBlock c (c.p64 0x10) (linkStatus s) s))) ∧
  (∀ (s : State) (id : Nat) (c : Cmd) (n : Fin 4),
      Runs s id 0x0701 (selByte 0x09 1) c →
      Passes [entryCheck c [(0x08, 2), (0x10, 8)] [(0x08, decide (c.p8 0x08 < 4))], deviceCheck s c] →
      c.p8 0x08 = n.val →
      s.link.ports[n].state = .down →
      exec (.linkPortUp id) s = .next (done c 0 0 (trainStart n (setPort n (fun p => { p with hostDown := false, retryAt := s.clk.up }) s)))) ∧
  (∀ (s : State) (id : Nat) (c : Cmd) (n : Fin 4),
      Runs s id 0x0701 (selByte 0x09 1) c →
      Passes [entryCheck c [(0x08, 2), (0x10, 8)] [(0x08, decide (c.p8 0x08 < 4))], deviceCheck s c] →
      c.p8 0x08 = n.val →
      s.link.ports[n].state ≠ .down →
      s.link.ports[n].state ≠ .disabled →
      exec (.linkPortUp id) s = .next (done c 0 0 s)) ∧
  (∀ (s : State) (id : Nat) (c : Cmd) (n : Fin 4),
      Runs s id 0x0701 (selByte 0x09 2) c →
      Passes [entryCheck c [(0x08, 3), (0x10, 8)] [(0x08, decide (c.p8 0x08 < 4))], deviceCheck s c, params [(0x0A, decide (c.p8 0x0A < 2))]] →
      c.p8 0x08 = n.val →
      c.p8 0x0A = 1 ∨ (s.link.flows.all fun f => decide (f.port ≠ n.val)) = true →
      exec (.linkPortDown id) s = .next (done c 0 0 (setPort n (fun p => { p with hostDown := true }) (portDown n 5 s)))) ∧
  (∀ (s : State) (id : Nat) (c : Cmd) (n : Fin 4),
      Runs s id 0x0701 (selByte 0x09 3) c →
      Passes [entryCheck c [(0x08, 2), (0x10, 8)] [(0x08, decide (c.p8 0x08 < 4))], deviceCheck s c] →
      c.p8 0x08 = n.val →
      s.link.ports[n].isUp = true →
      s.link.ports[n].retraining = false →
      s.link.ports[n].lastRetrain = none →
      exec (.linkPortRetrain id) s = .next (done c 0 0 (setPort n (fun p => { p with retraining := true, retrainSince := s.clk.up, lastRetrain := some s.clk.up, retrains := satN 32 (p.retrains + 1), replaysHere := 0 }) s))) ∧
  (∀ (s : State) (id : Nat) (c : Cmd),
      Runs s id 0x0702 anyCmd c →
      Passes [entryCheck c [(0x08, 2), (0x10, 8)] [], deviceCheck s c, params [(0x10, aligned64 (c.p64 0x10))]] →
      c.p64 0x10 = 0 →
      exec (.linkRouteQuery id) s = .next (done c (routeCode (route s.link (c.p16 0x08))) (hopsTo s.link (c.p16 0x08)) s)) ∧
  (∀ (s : State) (id : Nat) (c : Cmd) (v : State),
      Runs s id 0x0702 anyCmd c →
      Passes [entryCheck c [(0x08, 2), (0x10, 8)] [], deviceCheck s c, params [(0x10, aligned64 (c.p64 0x10))]] →
      c.p64 0x10 ≠ 0 →
      v = writeBlock c (c.p64 0x10) (routeTable s.link) s →
      exec (.linkRouteQuery id) s = .next (done c (routeCode (route v.link (c.p16 0x08))) (hopsTo v.link (c.p16 0x08)) v))

/-- A port that is down begins training once its power is granted, and fails where that cannot be had (R338, R354); it tries again every
100 ms (R354). Training that succeeds leaves it ACTIVE, or STANDBY where the link closes a cycle, at the agreed rate and width, the half
width where one half trained on both sides, with fresh sequence numbers and credits (R338, R339, R343); one that fails leaves it DOWN with
its grant released (R338). A retrain that ends in time resumes the flits, any other takes the port down (R342). -/
def Obligations.PortsTrainAndRetrain : Prop :=
  (∀ (s : State) (n : Fin 4),
      s.link.ports[n].state = .down →
      s.link.ports[n].hostDown = false →
      s.boot.phase = .running →
      rootBypassed s = false →
      s.clk.lull ≠ 3 →
      GrantsAtOnce s (cost (portItems 8 s.link.cfg.maxRate)) →
      s.link.ports[n].retryAt ≤ s.clk.up →
      exec (.portTrainingStart n) s = .next (startSynth (7 + n.val) (grantItems (.port n.val) (portItems 8 s.link.cfg.maxRate) (setPort n (fun p => { p with state := .training }) s)))) ∧
  (∀ (s : State) (n : Fin 4),
      s.link.ports[n].state = .down →
      s.link.ports[n].hostDown = false →
      s.boot.phase = .running →
      rootBypassed s = false →
      s.clk.lull ≠ 3 →
      s.link.ports[n].retryAt ≤ s.clk.up →
      powerPossible s.pwr (cost (portItems 8 s.link.cfg.maxRate)) = false →
      exec (.portTrainingStart n) s = .next (trainFailed n (denyPower 4 (cost (portItems 8 s.link.cfg.maxRate)) (setPort n (fun p => { p with state := .training }) s)))) ∧
  (∀ (s : State) (n : Fin 4) (u : State),
      u = waitUp s.link.ports[n].retryAt s →
      u.link.ports[n].state = .down →
      u.link.ports[n].hostDown = false →
      u.boot.phase = .running →
      rootBypassed u = false →
      u.clk.lull ≠ 3 →
      GrantsAtOnce u (cost (portItems 8 u.link.cfg.maxRate)) →
      s.link.ports[n].state = .down →
      s.link.ports[n].hostDown = false →
      exec (.portRetryTimer n) s = .next (startSynth (7 + n.val) (grantItems (.port n.val) (portItems 8 u.link.cfg.maxRate) (setPort n (fun p => { p with state := .training }) u)))) ∧
  (∀ (s : State) (n : Fin 4) (r : TrainResult) (w : Nat) (u : State) (v : State),
      s.link.ports[n].state = .training →
      holdsPower s (.port n.val) = true →
      agreedWidth s.link.cfg.noNarrow r.lanesHere r.lanesPeer = some w →
      r.ok = true →
      s.jtag.pinsTaken = false →
      r.rate ≠ 0 →
      r.rate ≤ s.link.cfg.maxRate →
      u = setSynth (7 + n.val) (fun y => { y with state := .locked }) (setPower (fun g => { g with grants := lmod g.grants (·.owner = .port n.val) fun x => { x with items := portItems w r.rate } }) s) →
      v = noteDelay n r.delay (setPort n (trainedPort r w u.clk.up) u) →
      exec (.portTrainingComplete n r) s = .next (strapRoot (reportNeighbour n (settleRoutes (endUnfit n (endPortResets n (raise (evPort n 0) [.h r.rate, .h w] (if w = 4 then raise (evPort n 3) [] v else v)))))))) ∧
  (∀ (s : State) (n : Fin 4) (r : TrainResult),
      s.link.ports[n].state = .training →
      holdsPower s (.port n.val) = true →
      r.ok = false ∨ agreedWidth s.link.cfg.noNarrow r.lanesHere r.lanesPeer = none →
      exec (.portTrainingComplete n r) s = .next (trainFailed n s)) ∧
  (∀ (s : State) (n : Fin 4),
      s.link.ports[n].retraining = true →
      s.clk.up ≤ s.link.ports[n].retrainSince + 3200000 →
      exec (.linkRetrainComplete n true) s = .next (pumpPort n (setPort n (fun p => { p with retraining := false, lastGood := s.clk.up, heartbeatSeen := s.clk.up, ackProgress := s.clk.up }) s))) ∧
  (∀ (s : State) (n : Fin 4),
      s.link.ports[n].retraining = true →
      exec (.linkRetrainComplete n false) s = .next (portDown n 3 (waitUp (s.link.ports[n].retrainSince + 3200000) s)))

/-- A flit with a bad CRC is counted, and its acknowledgement and credits are not taken; a DATA flit in order advances the number
expected, owes its credit and is acknowledged, and any other DATA flit is discarded, the first with a NAK (R340, R341, R342, R343). A NAK,
in a flit or by itself, or 2 us without progress, sends again in order what is not acknowledged, and after four replays without progress
the lanes retrain (R342). A heartbeat leaves every period (R370); ten periods without one, 1 us without a good flit, or loss of block lock
take the port down with its case (R370). -/
def Obligations.FlitsAreTakenAndReplayed : Prop :=
  (∀ (s : State) (n : Fin 4) (d : Data),
      s.link.ports[n].isUp = true →
      s.link.ports[n].retraining = false →
      (flitOf d).crcOk = false →
      (flitOf d).isData = false →
      exec (.flitReceive n d) s = .next (pumpPort n (setPort n (fun p => { p with crcErrors := satN 32 (p.crcErrors + 1) }) s))) ∧
  (∀ (s : State) (n : Fin 4) (d : Data),
      s.link.ports[n].isUp = true →
      s.link.ports[n].retraining = false →
      (flitOf d).crcOk = false →
      (flitOf d).isData = true →
      s.link.ports[n].nakSent = false →
      exec (.flitReceive n d) s = .next (pumpPort n (setPort n (fun p => { ({ p with crcErrors := satN 32 (p.crcErrors + 1) } : Port).emit false 0 false true 0 [] with nakSent := true }) s))) ∧
  (∀ (s : State) (n : Fin 4) (d : Data) (f : Flit) (u : State),
      f = flitOf d →
      s.link.ports[n].isUp = true →
      s.link.ports[n].retraining = false →
      f.crcOk = true →
      u = setPort n (fun p => { p with lastGood := s.clk.up, credits := vmodN p.credits f.creditVc (· + f.credit) }.acked f.ack s.clk.up) s →
      f.nak = false →
      f.isData = true →
      f.seq = u.link.ports[n].rxSeq →
      exec (.flitReceive n d) s = .next (pumpPort n (setPort n (fun p => ({ p with rxSeq := (p.rxSeq + 1) % 4096, nakSent := false, flitsRx := p.flitsRx + 1, owed := vmodN p.owed f.vc (· + 1), heartbeatSeen := if f.vc = 0 ∧ f.starts ∧ holdsHeartbeat 7 f.payload then s.clk.up else p.heartbeatSeen } : Port).emit false 0 false false 0 []) u))) ∧
  (∀ (s : State) (n : Fin 4) (d : Data) (f : Flit) (u : State),
      f = flitOf d →
      s.link.ports[n].isUp = true →
      s.link.ports[n].retraining = false →
      f.crcOk = true →
      u = setPort n (fun p => { p with lastGood := s.clk.up, credits := vmodN p.credits f.creditVc (· + f.credit) }.acked f.ack s.clk.up) s →
      f.nak = false →
      f.isData = true →
      f.seq ≠ u.link.ports[n].rxSeq →
      u.link.ports[n].nakSent = false →
      exec (.flitReceive n d) s = .next (pumpPort n (setPort n (fun p => { p.emit false 0 false true 0 [] with nakSent := true }) u))) ∧
  (∀ (s : State) (n : Fin 4) (d : Data) (f : Flit) (u : State),
      f = flitOf d →
      s.link.ports[n].isUp = true →
      s.link.ports[n].retraining = false →
      f.crcOk = true →
      u = setPort n (fun p => { p with lastGood := s.clk.up, credits := vmodN p.credits f.creditVc (· + f.credit) }.acked f.ack s.clk.up) s →
      f.nak = false →
      f.isData = true →
      f.seq ≠ u.link.ports[n].rxSeq →
      u.link.ports[n].nakSent = true →
      exec (.flitReceive n d) s = .next (pumpPort n u)) ∧
  (∀ (s : State) (n : Fin 4) (d : Data) (f : Flit) (u : State),
      f = flitOf d →
      s.link.ports[n].isUp = true →
      s.link.ports[n].retraining = false →
      f.crcOk = true →
      u = setPort n (fun p => { p with lastGood := s.clk.up, credits := vmodN p.credits f.creditVc (· + f.credit) }.acked f.ack s.clk.up) s →
      f.nak = false →
      f.isData = false →
      exec (.flitReceive n d) s = .next (pumpPort n u)) ∧
  (∀ (s : State) (n : Fin 4) (d : Data) (f : Flit) (u : State),
      f = flitOf d →
      s.link.ports[n].isUp = true →
      s.link.ports[n].retraining = false →
      f.crcOk = true →
      u = setPort n (fun p => { p with lastGood := s.clk.up, credits := vmodN p.credits f.creditVc (· + f.credit) }.acked f.ack s.clk.up) s →
      f.nak = true →
      f.isData = false →
      u.link.ports[n].replay ≠ [] →
      u.link.ports[n].replaysHere < 4 →
      exec (.flitReceive n d) s = .next (pumpPort n (raise (evPort n 4) [.since] (setPort n (fun p =>
        { p.replay.foldl (fun p f => p.emit true f.vc f.starts false f.seq f.payload) p with replays := satN 32 (p.replays + 1), replaysHere := p.replaysHere + 1, ackProgress := s.clk.up }) u)))) ∧
  (∀ (s : State) (n : Fin 4) (ack : Nat),
      s.link.ports[n].isUp = true →
      exec (.nakReceive n ack) s = .next (replayFlits n (setPort n (fun p => p.acked ack s.clk.up) s))) ∧
  (∀ (s : State) (n : Fin 4) (u : State),
      s.link.ports[n].isUp = true →
      s.link.ports[n].replay ≠ [] →
      s.link.ports[n].retraining = false →
      s.link.ports[n].replaysHere < 4 →
      u = waitUp (s.link.ports[n].ackProgress + 2560) s →
      exec (.ackTimeoutReplay n) s = .next (raise (evPort n 4) [.since] (setPort n (fun p => { p.replay.foldl (fun p f => p.emit true f.vc f.starts false f.seq f.payload) p with replays := satN 32 (p.replays + 1), replaysHere := p.replaysHere + 1, ackProgress := u.clk.up }) u))) ∧
  (∀ (s : State) (n : Fin 4) (u : State),
      s.link.ports[n].isUp = true →
      s.link.ports[n].replay ≠ [] →
      s.link.ports[n].retraining = false →
      4 ≤ s.link.ports[n].replaysHere →
      u = waitUp (s.link.ports[n].ackProgress + 2560) s →
      exec (.ackTimeoutReplay n) s = .next (startRetrain n u)) ∧
  (∀ (s : State) (n : Fin 4) (u : State),
      s.link.ports[n].isUp = true →
      s.fw.runs = true →
      u = waitUp (s.link.ports[n].heartbeatSent + s.link.cfg.heartbeatMs * msTicks) s →
      exec (.heartbeatSend n) s = .next (setPort n (fun p => { p with heartbeatSent := u.clk.up }) (sendOn n { mkPacket u ptMsg 4 0 0 0 0 with neighbour := true } u))) ∧
  (∀ (s : State) (n : Fin 4) (u : State),
      s.link.ports[n].watched = true →
      u = portDown n 4 (waitUp (s.link.ports[n].heartbeatSeen + 10 * s.link.cfg.heartbeatMs * msTicks) s) →
      exec (.heartbeatMissing n) s = .next (setPort n (fun p => { p with retryAt := u.clk.up }) u)) ∧
  (∀ (s : State) (n : Fin 4),
      s.link.ports[n].watched = true →
      exec (.noFlitTimeout n) s = .next (portDown n 2 (waitUp (s.link.ports[n].lastGood + 1280) s))) ∧
  (∀ (s : State) (n : Fin 4),
      s.link.ports[n].watched = true →
      exec (.blockLockLoss n) s = .next (portDown n 1 s))

/-- A packet for another DID goes on by its route with one more hop, never back by the port that it came by, and a broadcast by every
other port (R346); without a route a READ is answered UNREACHABLE, and any other is discarded and counted (R353). A WRITE to the store is
taken in the DMA and DISPLAY regions alone, with its acknowledgement (R363); a READ outside what it may read is denied, and one that it
may is answered with the bytes, or POISON (R363, R364). A completion, or its absence for 1 ms and 4 us a hop, ends the request that it
answers (R364); others acknowledge stream records (R368) or the receipt of a forwarded command (R373). -/
def Obligations.PacketsGoOnAndReachTheStore : Prop :=
  (∀ (s : State) (n : Fin 4) (e : Fin 4) (p : Packet),
      s.link.ports[n].carries = true →
      s.link.assigned = true →
      p.neighbour = false →
      p.dstDid ≠ s.link.did →
      p.hops < 65534 →
      p.bcast = false →
      routePort s.link p.dstDid = some e →
      e ≠ n →
      exec (.linkPacketForward n p) s = .next (sendOn e { p with hops := p.hops + 1 } (passing n e p s))) ∧
  (∀ (s : State) (n : Fin 4) (p : Packet),
      s.link.ports[n].carries = true →
      s.link.assigned = true →
      p.neighbour = false →
      p.dstDid ≠ s.link.did →
      p.hops < 65534 →
      p.bcast = false →
      routePort s.link p.dstDid = some n →
      exec (.linkPacketForward n p) s = .next { s with link := { s.link with discarded := s.link.discarded + 1 } }) ∧
  (∀ (s : State) (n : Fin 4) (p : Packet),
      s.link.ports[n].carries = true →
      s.link.assigned = true →
      p.neighbour = false →
      p.dstDid ≠ s.link.did →
      p.hops < 65534 →
      p.bcast = false →
      routePort s.link p.dstDid = none →
      p.type ≠ ptRead →
      exec (.linkPacketForward n p) s = .next { s with link := { s.link with discarded := s.link.discarded + 1 } }) ∧
  (∀ (s : State) (n : Fin 4) (p : Packet),
      s.link.ports[n].carries = true →
      s.link.assigned = true →
      p.neighbour = false →
      p.dstDid ≠ s.link.did →
      p.hops < 65534 →
      p.bcast = false →
      routePort s.link p.dstDid = none →
      p.type = ptRead →
      exec (.linkPacketForward n p) s = .next (send (mkPacket s ptCompletion 0 p.srcDid p.tag 0 3) s)) ∧
  (∀ (s : State) (n : Fin 4) (p : Packet),
      s.link.ports[n].carries = true →
      s.link.assigned = true →
      p.neighbour = false →
      p.hops < 65534 →
      p.bcast = true →
      exec (.linkPacketForward n p) s = .next (broadcast (some n) { p with hops := p.hops + 1 } s)) ∧
  (∀ (s : State) (n : Fin 4) (p : Packet) (u : State),
      Arrives s u n p →
      p.type = ptWrite →
      p.subtype = 0 →
      p.ackReq = true →
      dmaWritable u p.addr.toNat p.payload.length = false →
      exec (.linkWriteReceive n p) s = .next (answer p 1 [] u)) ∧
  (∀ (s : State) (n : Fin 4) (p : Packet) (u : State) (v : State),
      Arrives s u n p →
      p.type = ptWrite →
      p.subtype = 0 →
      dmaWritable u p.addr.toNat p.payload.length = true →
      v = storeAwake u →
      storeServes v = true →
      exec (.linkWriteReceive n p) s = .next ((if p.ackReq then answer p 0 [] (storeWrite p.addr.toNat p.payload v) else storeWrite p.addr.toNat p.payload v))) ∧
  (∀ (s : State) (n : Fin 4) (p : Packet) (u : State),
      Arrives s u n p →
      p.type = ptWrite →
      p.subtype = 1 →
      exec (.linkWriteReceive n p) s = .next (streamPart p u)) ∧
  (∀ (s : State) (n : Fin 4) (p : Packet) (u : State),
      Arrives s u n p →
      p.type = ptWrite →
      p.subtype = 2 ∨ p.subtype = 3 →
      exec (.linkWriteReceive n p) s = .next (bulkPart p u)) ∧
  (∀ (s : State) (n : Fin 4) (p : Packet) (u : State),
      Arrives s u n p →
      p.type = ptRead →
      p.aux.toNat % 4294967296 = 0 ∨ 4096 < p.aux.toNat % 4294967296 ∨ readAllowed u p (p.aux.toNat % 4294967296) = false →
      exec (.linkReadReceive n p) s = .next (answer p 1 [] u)) ∧
  (∀ (s : State) (n : Fin 4) (p : Packet) (u : State) (k : Nat) (v : State),
      Arrives s u n p →
      p.type = ptRead →
      p.aux.toNat % 4294967296 = k →
      1 ≤ k →
      k ≤ 4096 →
      readAllowed u p k = true →
      v = storeAwake u →
      storeServes v = true →
      v.store.within rtHistory p.addr.toNat k = false →
      readPoisoned v p.addr.toNat k = false →
      exec (.linkReadReceive n p) s = .next (answer p 0 (rawRead v p.addr.toNat k) v)) ∧
  (∀ (s : State) (n : Fin 4) (p : Packet) (u : State) (k : Nat) (v : State),
      Arrives s u n p →
      p.type = ptRead →
      p.aux.toNat % 4294967296 = k →
      1 ≤ k →
      k ≤ 4096 →
      readAllowed u p k = true →
      v = storeAwake u →
      storeServes v = true →
      v.store.within rtHistory p.addr.toNat k = false →
      readPoisoned v p.addr.toNat k = true →
      exec (.linkReadReceive n p) s = .next (answer p 2 [] (reportSpan p.addr.toNat k rqLink v))) ∧
  (∀ (s : State) (n : Fin 4) (p : Packet) (u : State) (k : Nat) (st : Nat) (cause : Nat) (v : State),
      Arrives s u n p →
      p.type = ptRead →
      p.aux.toNat % 4294967296 = k →
      1 ≤ k →
      k ≤ 4096 →
      readAllowed u p k = true →
      v = storeAwake u →
      storeServes v = true →
      v.store.within rtHistory p.addr.toNat k = true →
      historyStatus v p.addr.toNat k = some (st, cause) →
      st ≠ 0 →
      exec (.linkReadReceive n p) s = .next (answer p (st + cause * 256) [] v)) ∧
  (∀ (s : State) (n : Fin 4) (p : Packet) (u : State) (r : LinkRequest),
      Arrives s u n p →
      p.type = ptCompletion →
      p.subtype = 0 →
      u.link.requests.find? (fun r => decide (r.tag = p.tag ∧ r.did = p.srcDid)) = some r →
      exec (.linkCompletionReceive n p) s = .next (endRequest r (p.aux.toNat % 256) (bits p.aux.toNat 15 8) p.payload u)) ∧
  (∀ (s : State) (n : Fin 4) (p : Packet) (u : State),
      Arrives s u n p →
      p.type = ptCompletion →
      p.subtype = 0 →
      u.link.requests.find? (fun r => decide (r.tag = p.tag ∧ r.did = p.srcDid)) = none →
      exec (.linkCompletionReceive n p) s = .next (u)) ∧
  (∀ (s : State) (n : Fin 4) (p : Packet) (u : State) (k : Fin 16),
      Arrives s u n p →
      p.type = ptCompletion →
      p.subtype = 1 →
      streamIndex (bits p.aux.toNat 11 8) = some k →
      u.tw[k].peerDid = p.srcDid →
      exec (.linkCompletionReceive n p) s = .next (doPeerStreamAck k p.addr.toNat u)) ∧
  (∀ (s : State) (n : Fin 4) (p : Packet) (u : State),
      Arrives s u n p →
      p.type = ptCompletion →
      p.subtype = 2 →
      exec (.linkCompletionReceive n p) s = .next ({ u with mbx := { u.mbx with forwarded := lmod u.mbx.forwarded (fun f => decide (f.cmd = p.tag.toNat ∧ f.did = p.srcDid)) fun f => { f with acknowledged := true } } })) ∧
  (∀ (s : State) (tag : U32) (r : LinkRequest),
      s.link.requests.find? (·.tag = tag) = some r →
      exec (.linkRequestTimeout tag) s = .next (endRequest r 4 0 [] (waitUp (r.sent + 1280000 + 5120 * r.hops) s)))

/-- A forwarded command is acknowledged and starts at once; with 64 in progress it is refused BUSY, and one that names the target host's
memory E_STATE (R373, R374, R425). The proxy writes the blocks that come back and completes its command (R373); an event from a peer
enters the queue that its route names, with the DID (R375). Placement control asks for capacity, answers, starts, ends, stops residues,
modifies and cuts (R23, R138, R366, R367, R369). 1 ms after the loss of a route that has not healed the flows on it end and its forwarded
commands complete with E_LINK (R371, R374). -/
def Obligations.ForwardedWorkIsDone : Prop :=
  (∀ (s : State) (n : Fin 4) (p : Packet) (u : State) (v : State) (c : Cmd),
      Arrives s u n p →
      isPacket p ptMsg 1 = true →
      u.fw.runs = true →
      v = (if p.ackReq then send (mkPacket u ptCompletion 2 p.srcDid p.tag 0 0) u else u) →
      c = ({ id := v.mbx.nextId, origin := .peer p.srcDid p.tag, cplq := 0, bytes := p.payload.take 64, started := true, waiting := false, blocks := [] } : Cmd) →
      v.mbx.cmds.length < cmdLimit →
      namesOwnMemory c = false →
      exec (.forwardedCommandReceive n p) s = .next (startCmd c { v with mbx := { v.mbx with nextId := v.mbx.nextId + 1, cmds := v.mbx.cmds ++ [c] } })) ∧
  (∀ (s : State) (n : Fin 4) (p : Packet) (u : State) (v : State) (c : Cmd),
      Arrives s u n p →
      isPacket p ptMsg 1 = true →
      u.fw.runs = true →
      v = (if p.ackReq then send (mkPacket u ptCompletion 2 p.srcDid p.tag 0 0) u else u) →
      c = ({ id := v.mbx.nextId, origin := .peer p.srcDid p.tag, cplq := 0, bytes := p.payload.take 64, started := true, waiting := false, blocks := [] } : Cmd) →
      v.mbx.cmds.length < cmdLimit →
      namesOwnMemory c = true →
      exec (.forwardedCommandReceive n p) s = .next (complete c stState 0 0 0 { v with mbx := { v.mbx with nextId := v.mbx.nextId + 1, cmds := v.mbx.cmds ++ [c] } })) ∧
  (∀ (s : State) (n : Fin 4) (p : Packet) (u : State) (v : State) (c : Cmd),
      Arrives s u n p →
      isPacket p ptMsg 1 = true →
      u.fw.runs = true →
      v = (if p.ackReq then send (mkPacket u ptCompletion 2 p.srcDid p.tag 0 0) u else u) →
      c = ({ id := v.mbx.nextId, origin := .peer p.srcDid p.tag, cplq := 0, bytes := p.payload.take 64, started := true, waiting := false, blocks := [] } : Cmd) →
      cmdLimit ≤ v.mbx.cmds.length →
      exec (.forwardedCommandReceive n p) s = .next (complete c stBusy 0 0 0 { v with mbx := { v.mbx with nextId := v.mbx.nextId + 1, cmds := v.mbx.cmds ++ [c] } })) ∧
  (∀ (s : State) (n : Fin 4) (p : Packet) (u : State) (v : State) (c : Cmd),
      Arrives s u n p →
      isPacket p ptMsg 2 = true →
      u.mbx.forwarded.any (fun f => decide (f.cmd = p.tag.toNat ∧ f.did = p.srcDid)) = true →
      v = { u with mbx := { u.mbx with forwarded := u.mbx.forwarded.filter (·.cmd ≠ p.tag.toNat) } } →
      findCmd v p.tag.toNat = some c →
      exec (.forwardedCompletionReceive n p) s = .next (complete c (u16At p.payload 4) (u64At p.payload 8) (u64At p.payload 0x10) (u32At p.payload 0x18) (forL (forwardedBlocks p.payload.length (p.payload.drop 32)) (fun b s => hostWrite b.1 b.2 s) v))) ∧
  (∀ (s : State) (n : Fin 4) (p : Packet) (u : State) (q : Fin 4),
      Arrives s u n p →
      isPacket p ptMsg 3 = true →
      evqIndex (p.aux.toNat % 65536) = some q →
      exec (.forwardedEventReceive n p) s = .next ((evqAccept q ⟨u16At p.payload 0, u64At p.payload 8, u64At p.payload 0x10, u64At p.payload 0x18, true, p.srcDid⟩ (bits p.aux.toNat 31 16) u).2)) ∧
  (∀ (s : State) (n : Fin 4) (p : Packet) (u : State),
      Arrives s u n p →
      isPacket p ptMsg 7 = true →
      p.aux.toNat % 256 = 0 →
      exec (.placementControlReceive n p) s = .next (foreignAsk p u)) ∧
  (∀ (s : State) (n : Fin 4) (p : Packet) (u : State),
      Arrives s u n p →
      isPacket p ptMsg 7 = true →
      p.aux.toNat % 256 = 1 →
      exec (.placementControlReceive n p) s = .next (foreignAccepted p.srcDid p.addr.toNat u)) ∧
  (∀ (s : State) (n : Fin 4) (p : Packet) (u : State) (t : Task) (m : Migration),
      Arrives s u n p →
      isPacket p ptMsg 7 = true →
      p.aux.toNat % 256 = 2 →
      findTask u p.addr.toNat = some t →
      t.migration = some m →
      m.peer = some p.srcDid →
      exec (.placementControlReceive n p) s = .next (abortMigration p.addr.toNat 1 u)) ∧
  (∀ (s : State) (n : Fin 4) (p : Packet) (u : State),
      Arrives s u n p →
      isPacket p ptMsg 7 = true →
      p.aux.toNat % 256 = 3 →
      exec (.placementControlReceive n p) s = .next (foreignStart p.addr.toNat p.payload u)) ∧
  (∀ (s : State) (n : Fin 4) (p : Packet) (u : State),
      Arrives s u n p →
      isPacket p ptMsg 7 = true →
      p.aux.toNat % 256 = 4 →
      exec (.placementControlReceive n p) s = .next (foreignCancel p.addr.toNat (u64At p.payload 0) (u16At p.payload 8) u)) ∧
  (∀ (s : State) (n : Fin 4) (p : Packet) (u : State),
      Arrives s u n p →
      isPacket p ptMsg 7 = true →
      p.aux.toNat % 256 = 5 →
      exec (.placementControlReceive n p) s = .next (foreignSources p u)) ∧
  (∀ (s : State) (n : Fin 4) (p : Packet) (u : State),
      Arrives s u n p →
      isPacket p ptMsg 7 = true →
      p.aux.toNat % 256 = 7 →
      exec (.placementControlReceive n p) s = .next (peerStopped p.srcDid p.addr.toNat (p.aux.toNat / 4294967296) p.payload u)) ∧
  (∀ (s : State) (n : Fin 4) (p : Packet) (u : State),
      Arrives s u n p →
      isPacket p ptMsg 7 = true →
      p.aux.toNat % 256 = 8 →
      exec (.placementControlReceive n p) s = .next ({ u with link := { u.link with foreign := lmod u.link.foreign (fun f => decide (f.task = p.addr.toNat ∧ f.epoch = p.aux.toNat / 4294967296)) fun f => { f with next := some (u64At p.payload 0, p.payload.drop 8) } } })) ∧
  (∀ (s : State) (n : Fin 4) (p : Packet) (u : State) (k : Fin 16),
      Arrives s u n p →
      isPacket p ptMsg 7 = true →
      p.aux.toNat % 256 = 6 →
      streamIndex p.addr.toNat = some k →
      u.tw[k].dest = 2 →
      u.tw[k].isOpen = true →
      u.tw[k].peerDid = p.srcDid →
      exec (.placementControlReceive n p) s = .next (applyCut k (u64At p.payload 0) (u64At p.payload 8) u)) ∧
  (∀ (s : State) (did : Nat) (u : State) (v : State),
      reachable s.link did = false →
      s.link.assigned = false ∨ did ≠ s.link.did →
      u = waitUp (lossTime s did + msTicks) s →
      v = forL (u.link.flows.filter fun f => decide (f.did = did) && f.lostSince.isSome) endFlow u →
      v.link.isRoot = false →
      exec (.flowLossTimeout did) s = .next (forL (v.mbx.forwarded.filter (·.did = did)) (fun f s =>
        (fun s => match findCmd s f.cmd with | some c => complete c stLink 0 0 (b2n f.acknowledged) s | none => s) { s with mbx := { s.mbx with forwarded := s.mbx.forwarded.filter (·.cmd ≠ f.cmd) } }) v)) ∧
  (∀ (s : State) (did : Nat) (u : State) (v : State),
      reachable s.link did = false →
      s.link.assigned = false ∨ did ≠ s.link.did →
      u = waitUp (lossTime s did + msTicks) s →
      v = forL (u.link.flows.filter fun f => decide (f.did = did) && f.lostSince.isSome) endFlow u →
      v.link.isRoot = true →
      exec (.flowLossTimeout did) s = .next (reportLoss did (forL (v.mbx.forwarded.filter (·.did = did)) (fun f s =>
        (fun s => match findCmd s f.cmd with | some c => complete c stLink 0 0 (b2n f.acknowledged) s | none => s) { s with mbx := { s.mbx with forwarded := s.mbx.forwarded.filter (·.cmd ≠ f.cmd) } }) v))) ∧
  (∀ (s : State) (did : Nat),
      reachable s.link did = true →
      exec (.flowLossTimeout did) s = .next s)

/-- An UNASSIGNED device takes the DID it is given and reports; one that has it already answers the far end of a cycle, and puts the port
in STANDBY (R350); of two roots the one with the lower serial number stays (R351). The root notes each device and goes on with the next
port (R350). In a heal the orphans mark their armed group ATs whose members lie beyond the break PARTIAL and offer their STANDBY ports
that lead outside (R228), the head takes the offer of the fewest hops after heal_offer_us and activates it, and the entries follow by
their heal numbers (R355). -/
def Obligations.DevicesAreNumberedAndHealed : Prop :=
  (∀ (s : State) (n : Fin 4) (p : Packet) (u : State),
      Arrives s u n p →
      isPacket p 7 1 = true →
      assignRelay p = true →
      exec (.enumAssignReceive n p) s = .next (relayAssign p u)) ∧
  (∀ (s : State) (n : Fin 4) (p : Packet) (u : State),
      Arrives s u n p →
      isPacket p 7 1 = true →
      assignRelay p = false →
      u.link.assigned = false →
      exec (.enumAssignReceive n p) s = .next (takeAssign n p u)) ∧
  (∀ (s : State) (n : Fin 4) (p : Packet) (u : State),
      Arrives s u n p →
      isPacket p 7 1 = true →
      assignRelay p = false →
      u.link.isRoot = false →
      u.link.assigned = true →
      u.link.enumNo = p.tag →
      u.link.rootSerial = p.addr →
      u.link.upstream ≠ some n.val →
      exec (.enumAssignReceive n p) s = .next (setPort n (fun q => { q with state := .standby, entries := [] }) (sendOn n (donePacket u 0 1 true) u))) ∧
  (∀ (s : State) (n : Fin 4) (p : Packet) (u : State),
      Arrives s u n p →
      isPacket p 7 1 = true →
      assignRelay p = false →
      u.link.isRoot = true →
      u.link.rootSerial ≠ p.addr →
      u.boot.fuses.serial.toNat ≤ p.addr.toNat →
      exec (.enumAssignReceive n p) s = .next (u)) ∧
  (∀ (s : State) (n : Fin 4) (p : Packet) (u : State),
      Arrives s u n p →
      isPacket p 7 2 = true →
      u.link.isRoot = true →
      bit p.aux.toNat 20 = false →
      exec (.enumReportReceive n p) s = .next (lateAssign p.addr p.srcDid (bits p.aux.toNat 17 16) u)) ∧
  (∀ (s : State) (n : Fin 4) (p : Packet) (u : State) (v : State) (e : Enumeration),
      Arrives s u n p →
      isPacket p 7 2 = true →
      u.link.isRoot = true →
      bit p.aux.toNat 20 = true →
      p.hops ≠ 0 →
      v = restoreRanges [(p.srcDid, p.srcDid)] (noteDevice p (addDid n p.srcDid u)) →
      v.link.enumeration = some e →
      exec (.enumReportReceive n p) s = .next (enumGo { v with link := { v.link with enumeration := some { e with count := e.count + 1, deepest := max e.deepest (bits p.aux.toNat 47 32), stack := (p.srcDid, bits p.aux.toNat 47 32, 0) :: e.stack } } })) ∧
  (∀ (s : State) (n : Fin 4) (p : Packet) (u : State) (v : State),
      Arrives s u n p →
      isPacket p 7 2 = true →
      u.link.isRoot = true →
      bit p.aux.toNat 20 = true →
      p.hops = 0 →
      v = restoreRanges [(p.srcDid, p.srcDid)] (noteDevice p (addDid n p.srcDid u)) →
      v.link.enumeration = none →
      exec (.enumReportReceive n p) s = .next (settleRoutes (setPort n (fun q => { q with peerDid := p.srcDid, peerAssigned := true }) v))) ∧
  (∀ (s : State) (n : Fin 4) (p : Packet) (u : State),
      Arrives s u n p →
      isPacket p 7 3 = true →
      u.link.isRoot = true →
      p.neighbour = false →
      exec (.enumDoneReceive n p) s = .next (enumGo u)) ∧
  (∀ (s : State) (n : Fin 4) (p : Packet) (u : State),
      Arrives s u n p →
      isPacket p 7 3 = true →
      u.link.isRoot = false →
      p.neighbour = true →
      p.aux = 1 →
      exec (.enumDoneReceive n p) s = .next (send (donePacket (setPort n (fun q => { q with state := .standby, entries := [], peerDid := p.srcDid, peerAssigned := true }) u) u.link.rootDid 0 false) (setPort n (fun q => { q with state := .standby, entries := [], peerDid := p.srcDid, peerAssigned := true }) u))) ∧
  (∀ (s : State) (n : Fin 4) (p : Packet) (u : State) (l : List (Fin 4)),
      Arrives s u n p →
      isHeal p rcHeal = true →
      u.link.upstream = some n.val →
      l = ((List.finRange 4).filter fun k => decide (u.link.ports[k].state = .standby) && !inRanges (healRanges p) u.link.ports[k].peerDid) →
      exec (.healReceive n p) s = .next (forL l (fun k s => send (healMsg s p.srcDid rcOffer k.val (p.hops + 1) 0 []) s) (markCut (healRanges p) u))) ∧
  (∀ (s : State) (n : Fin 4) (p : Packet) (u : State) (h : Heal),
      Arrives s u n p →
      isHeal p rcOffer = true →
      u.link.heal = some h →
      exec (.offerReceive n p) s = .next ({ u with link := { u.link with heal := some { h with offers := h.offers ++ [⟨p.srcDid, healPort p, healHops p⟩] } } })) ∧
  (∀ (s : State) (h : Heal),
      s.link.heal = some h →
      h.offers = [] →
      exec .healOfferTimeout s = .next { waitUp (h.since + s.link.cfg.healOfferUs * usTicks) s with link := { (waitUp (h.since + s.link.cfg.healOfferUs * usTicks) s).link with heal := none } }) ∧
  (∀ (s : State) (h : Heal) (v : State) (o : Offer),
      s.link.heal = some h →
      v = { waitUp (h.since + s.link.cfg.healOfferUs * usTicks) s with link := { (waitUp (h.since + s.link.cfg.healOfferUs * usTicks) s).link with heal := none } } →
      (sortBy (fun o => o.hops * 65536 + o.did) h.offers).head? = some o →
      o.did = v.link.did →
      exec .healOfferTimeout s = .next (activateHere (Fin.ofNat 4 o.port) none h.ranges v)) ∧
  (∀ (s : State) (h : Heal) (v : State) (o : Offer) (e : Fin 4) (w : State),
      s.link.heal = some h →
      v = { waitUp (h.since + s.link.cfg.healOfferUs * usTicks) s with link := { (waitUp (h.since + s.link.cfg.healOfferUs * usTicks) s).link with heal := none } } →
      (sortBy (fun o => o.hops * 65536 + o.did) h.offers).head? = some o →
      o.did ≠ v.link.did →
      routePort v.link o.did = some e →
      w = send (healMsg v o.did rcActivate o.port 0 0 h.ranges) v →
      exec .healOfferTimeout s = .next (settleRoutes (setPort e (fun q => { q with entries := [] }) { w with link := { w.link with upstream := some e.val } }))) ∧
  (∀ (s : State) (n : Fin 4) (p : Packet) (u : State),
      Arrives s u n p →
      isHeal p rcActivate = true →
      p.neighbour = true →
      u.link.ports[n].state = .standby →
      exec (.activateReceive n p) s = .next (applyAdd n (healRanges p) (u.link.healNo + 1) (raise (evPort n 6) [] (setPort n (fun q => { q with state := .active }) u)))) ∧
  (∀ (s : State) (n : Fin 4) (p : Packet) (u : State),
      Arrives s u n p →
      isHeal p rcActivate = true →
      p.neighbour = false →
      exec (.activateReceive n p) s = .next (activateHere (Fin.ofNat 4 (healPort p)) (some n) (healRanges p) u)) ∧
  (∀ (s : State) (n : Fin 4) (p : Packet) (u : State),
      Arrives s u n p →
      isHeal p rcAdd = true →
      exec (.routeAddReceive n p) s = .next (applyAdd n (healRanges p) (healNumber p) u)) ∧
  (∀ (s : State) (n : Fin 4) (p : Packet) (u : State) (v : State),
      Arrives s u n p →
      isHeal p rcDel = true →
      v = setPort n (Port.without (healRanges p) (healNumber p)) u →
      exec (.routeDelReceive n p) s = .next (settleRoutes (cutRanges (minusRanges u.link.ports[n].ranges v.link.ports[n].ranges) v)))

/-- The master enters a member and acknowledges, and the member's ACQ_CONFIG completes with what it needs and can reach (R222). A fire
from a peer steps the PEER units that name its AT and device (R204). A group fire of the arming in use joins its round, any other is
counted, and one that would have won a decided round marks the AT PARTIAL (R225, R362). A member arms with the settle, the hops and the
members it is told and confirms, and the master notes it (R224); a group disarm begins at its tick (R219, R224). -/
def Obligations.GroupMessagesAreTaken : Prop :=
  (∀ (s : State) (n : Fin 4) (p : Packet) (u : State) (m : Fin 16) (v : State),
      Arrives s u n p →
      isPacket p ptMsg 5 = true →
      bit p.aux.toNat 20 = false →
      groupAt u (p.aux.toNat % 65536) (fun d => d.masterDid = u.link.did) = some m →
      v = raise 0x701 [.h (p.aux.toNat % 65536), .h p.srcDid] (setAt m (fun a => { a with members := a.members.filter (·.did ≠ p.srcDid) ++ [⟨p.srcDid, p.addr.toNat, false, p.hops + portHops u.link.ports[n]⟩] }) u) →
      exec (.groupRegistrationReceive n p) s = .next (sendRegistration p.srcDid (p.aux.toNat % 65536) m.val 0 p.tag true v)) ∧
  (∀ (s : State) (n : Fin 4) (p : Packet) (u : State) (m : Fin 16) (c : Cmd) (g : AcqDef) (v : State),
      Arrives s u n p →
      isPacket p ptMsg 5 = true →
      bit p.aux.toNat 20 = true →
      ((List.finRange 16).find? fun m => u.squall.ats[m].registerCmd = some p.tag.toNat) = some m →
      findCmd u p.tag.toNat = some c →
      u.squall.ats[m].registering = some g →
      v = setAt m (fun a => { a with registerCmd := none, def_ := some g, registering := none, heldFrom := none, rearmTick := 0, round := [], decided := none, members := [] }) u →
      exec (.groupRegistrationReceive n p) s = .next (done c (acqNeed v g) (acqReach v g) v)) ∧
  (∀ (s : State) (n : Fin 4) (p : Packet) (u : State),
      Arrives s u n p →
      isPacket p ptTrig 1 = true →
      exec (.trigFireReceive n p) s = .next (forL (List.finRange 32) (fun k v => if v.squall.units[k].cfg.kind = tkPeer ∧ ¬ v.squall.units[k].detached ∧ v.squall.units[k].cfg.source % 16 = trigAt p ∧ (v.squall.units[k].cfg.anyDid ∨ v.squall.units[k].cfg.source / 65536 = p.srcDid) then ownStep k p.addr.toNat (trigFrac p) v else v) (squallDue u))) ∧
  (∀ (s : State) (n : Fin 4) (p : Packet) (u : State) (m : Fin 16),
      Arrives s u n p →
      isPacket p ptTrig 2 = true →
      groupAt u (trigGroup p) (fun _ => true) = some m →
      u.squall.ats[m].armSeq = p.tag.toNat →
      u.squall.ats[m].armed = true →
      u.squall.ats[m].decided = none →
      exec (.groupFireReceive n p) s = .next (setAt m (fun a => { a with round := a.round ++ [⟨p.addr.toNat, trigFrac p, p.srcDid, false⟩] }) u)) ∧
  (∀ (s : State) (n : Fin 4) (p : Packet) (u : State) (m : Fin 16),
      Arrives s u n p →
      isPacket p ptTrig 2 = true →
      groupAt u (trigGroup p) (fun _ => true) = some m →
      u.squall.ats[m].armSeq ≠ p.tag.toNat ∨ (u.squall.ats[m].armed = false ∧ u.squall.ats[m].decided = none) →
      exec (.groupFireReceive n p) s = .next (setAt m (fun a => { a with lateGroupFires := a.lateGroupFires + 1 }) u)) ∧
  (∀ (s : State) (n : Fin 4) (p : Packet) (u : State) (m : Fin 16) (w : GroupFire),
      Arrives s u n p →
      isPacket p ptTrig 2 = true →
      groupAt u (trigGroup p) (fun _ => true) = some m →
      u.squall.ats[m].armSeq = p.tag.toNat →
      u.squall.ats[m].decided = some w →
      u.squall.ats[m].armed = false ∨ p.addr.toNat < u.squall.ats[m].rearmTick →
      p.addr.toNat < w.tick ∨ (p.addr.toNat = w.tick ∧ p.srcDid < w.did) →
      exec (.groupFireReceive n p) s = .next (raise (evAt m 7) [.h m.val, .h p.srcDid] (setAt m (fun a => { a with partial_ := true }) (raise 0xA49 [.h m.val, .h p.srcDid, .q p.addr.toNat] (setAt m (fun a => { a with lateGroupFires := a.lateGroupFires + 1 }) u))))) ∧
  (∀ (s : State) (n : Fin 4) (p : Packet) (u : State) (m : Fin 16) (g : AcqDef) (x : MatrixCfg) (v : State),
      Arrives s u n p →
      isPacket p ptTrig 3 = true →
      groupAt u (trigGroup p) (fun d => d.masterDid = p.srcDid) = some m →
      u.squall.ats[m].armed = false →
      recordFits u m = true →
      u.squall.ats[m].def_ = some g →
      u.squall.ats[m].matrix = some x →
      x.term1.any (· ≠ 0) = true →
      sourcesReady u g = true →
      u.clk.tick < p.addr.toNat →
      v = setAt m (fun a => { a with armSeq := p.tag.toNat, settle := u32At p.payload 0, hops := u16At p.payload 4, members := (List.range (u16At p.payload 6)).map fun i => (⟨u16At p.payload (8 + 2 * i), 0, true, 0⟩ : Member) }) u →
      exec (.groupArmReceive n p) s = .next (sendTrig m 5 p.srcDid p.tag.toNat p.addr.toNat 0 [] { v with squall := { v.squall with pendingArms := v.squall.pendingArms ++ [⟨none, 2 ^ m.val, p.addr.toNat, false⟩] } })) ∧
  (∀ (s : State) (n : Fin 4) (p : Packet) (u : State) (m : Fin 16) (v : State),
      Arrives s u n p →
      isPacket p ptTrig 4 = true →
      groupAt u (trigGroup p) (fun d => d.masterDid = p.srcDid) = some m →
      u.squall.ats[m].armSeq = p.tag.toNat →
      u.squall.ats[m].armed = true →
      v = beginDisarm m p.addr.toNat (bit (u8At p.payload 0) 0) { u with squall := { u.squall with pendingArms := u.squall.pendingArms.filter fun x => !bit x.mask m.val } } →
      exec (.groupDisarmReceive n p) s = .next ({ v with squall := { v.squall with pendingDisarms := v.squall.pendingDisarms ++ [⟨none, 2 ^ m.val, p.addr.toNat, p.addr.toNat + decisionBound v u.squall.ats[m], 0⟩] } })) ∧
  (∀ (s : State) (n : Fin 4) (p : Packet) (u : State) (m : Fin 16),
      Arrives s u n p →
      isPacket p ptTrig 5 = true →
      groupAt u (trigGroup p) (fun d => d.masterDid = u.link.did) = some m →
      u.squall.ats[m].armSeq = p.tag.toNat →
      exec (.armConfirmReceive n p) s = .next (setAt m (fun a => { a with members := lmod a.members (·.did = p.srcDid) fun x => { x with confirmed := true } }) u))

/-- A SYNC leaves every 1 ms with the tick at which it left, and a free fraction (DESIGN CHOICE, log 3), as a delay request and the answer
to one do; its offset feeds the discipline where it comes by the upstream port (R357, R358, R491). The delay of a link is measured every
second: a request, its answer with the times of both ends, and half of the difference (R358). -/
def Obligations.TimeCrossesTheLinks : Prop :=
  (∀ (s : State) (n : Fin 4) (u : State) (v : State) (k : Nat),
      s.link.ports[n].isUp = true →
      s.link.upstream ≠ some n.val →
      s.link.assigned = true →
      u = waitUp (s.link.ports[n].syncSent + 1280000) s →
      k = (takeFree u).1 →
      v = (takeFree u).2 →
      exec (.timeSyncSend n) s = .next (setPort n (fun q => { q with syncSent := v.clk.up }) (sendOn n { mkPacket v ptTime 1 0 0 v.clk.tick ((Config.freeWord k).toNat % 65536) with neighbour := true } v))) ∧
  (∀ (s : State) (n : Fin 4) (p : Packet) (x : U16),
      s.link.ports[n].isUp = true →
      p.neighbour = true →
      p.type = ptTime →
      p.subtype = 1 →
      s.link.upstream ≠ some n.val →
      exec (.timeSyncReceive n p x) s = .next (setPort n (fun q => { q with peerDid := p.srcDid }) s)) ∧
  (∀ (s : State) (n : Fin 4) (p : Packet) (x : U16) (off : Int) (v : State),
      s.link.ports[n].isUp = true →
      p.neighbour = true →
      p.type = ptTime →
      p.subtype = 1 →
      s.link.upstream = some n.val →
      off = (fineNow s x.toNat : Int) - ((p.addr.toNat * 65536 + p.aux.toNat % 65536 : Nat) + transmitDelay s n) →
      v = setPort n (fun q => { q with peerDid := p.srcDid, offset := off }) s →
      exec (.timeSyncReceive n p x) s = .next ((if s.clk.loop.source = 3 then loopUpdate off v else v))) ∧
  (∀ (s : State) (n : Fin 4) (u : State) (v : State) (k : Nat),
      s.link.ports[n].isUp = true →
      u = waitUp (s.link.ports[n].delayMeasured + 1280000000) s →
      k = (takeFree u).1 →
      v = (takeFree u).2 →
      exec (.delayMeasure n) s = .next (setPort n (fun q => { q with delayReqSent := some (fineNow v ((Config.freeWord k).toNat % 65536)), delayMeasured := v.clk.up }) (sendOn n { mkPacket v ptTime 2 0 0 v.clk.tick ((Config.freeWord k).toNat % 65536) with neighbour := true } v))) ∧
  (∀ (s : State) (n : Fin 4) (p : Packet) (x : U16) (v : State) (k : Nat),
      s.link.ports[n].isUp = true →
      p.neighbour = true →
      p.type = ptTime →
      p.subtype = 2 →
      k = (takeFree s).1 →
      v = (takeFree s).2 →
      exec (.delayReqReceive n p x) s = .next (sendOn n { mkPacket v ptTime 3 0 0 v.clk.tick 0 with neighbour := true, payload := le 10 (p.addr.toNat * 65536 + p.aux.toNat % 65536) ++ le 10 (fineNow v x.toNat) ++ le 10 (fineNow v ((Config.freeWord k).toNat % 65536)) } v)) ∧
  (∀ (s : State) (n : Fin 4) (p : Packet) (x : U16) (t1 : Nat) (d : Int),
      s.link.ports[n].isUp = true →
      p.neighbour = true →
      p.type = ptTime →
      p.subtype = 3 →
      s.link.ports[n].delayReqSent = some t1 →
      d = (((fineNow s x.toNat : Int) - t1) - ((unle ((p.payload.drop 20).take 10) : Int) - unle ((p.payload.drop 10).take 10))) / 2 →
      exec (.delayRespReceive n p x) s = .next (noteDelay n d.toNat (setPort n (fun q => { q with delayReqSent := none, peerDid := p.srcDid }) s))) ∧
  (∀ (s : State) (n : Fin 4) (p : Packet) (x : U16),
      s.link.ports[n].isUp = true →
      p.neighbour = true →
      p.type = ptTime →
      p.subtype = 3 →
      s.link.ports[n].delayReqSent = none →
      exec (.delayRespReceive n p x) s = .next (s))

/-- A route stands before the older ones and drops those it covers (R434); a range is masked or unmasked and the bitmap is written (R435).
A path test gives its verdict, its slopes and its counts, with the event where it does not pass (R448, R528). CFG_COMMIT takes the
firmware's check value as the reference with its safe action, withdraws it, or shows it (R466, R467). -/
def Obligations.EventMonitorAndConfigurationCommandsAct : Prop :=
  (∀ (s : State) (id : Nat) (c : Cmd),
      Runs s id 0x0800 anyCmd c →
      Passes [entryCheck c [(0x08, 5), (0x0E, 2)] [], deviceCheck s c, params (evRange c ++ [(0x0C, decide (c.p8 0x0C ≤ 3 ∨ c.p8 0x0C = 0xFF)), (0x0E, decide (c.p16 0x0E < 2048 ∨ c.p16 0x0E = 0xFFFF))])] →
      exec (.eventRoute id) s = .next (done c (c.p16 0x0A - c.p16 0x08 + 1) 0 { s with evt := { s.evt with routes := ⟨c.p16 0x08, c.p16 0x0A, c.p8 0x0C, c.p16 0x0E, routeProxy c⟩ :: s.evt.routes.filter fun x => !decide (c.p16 0x08 ≤ x.first ∧ x.last ≤ c.p16 0x0A) } })) ∧
  (∀ (s : State) (id : Nat) (c : Cmd),
      Runs s id 0x0801 (selByte 0x0C 0) c →
      Passes [entryCheck c [(0x08, 5)] [], deviceCheck s c, params (evRange c)] →
      exec (.eventUnmask id) s = .next (done c 0 0 (maskRange false (c.p16 0x08) (c.p16 0x0A) s))) ∧
  (∀ (s : State) (id : Nat) (c : Cmd),
      Runs s id 0x0801 (selByte 0x0C 1) c →
      Passes [entryCheck c [(0x08, 5)] [], deviceCheck s c, params (evRange c)] →
      exec (.eventMask id) s = .next (done c 0 0 (maskRange true (c.p16 0x08) (c.p16 0x0A) s))) ∧
  (∀ (s : State) (id : Nat) (c : Cmd),
      Runs s id 0x0801 (selByte 0x0C 2) c →
      Passes [params [(0x02, decide (c.flags < 8))], deviceCheck s c, bufCheck c] →
      exec (.eventMaskQuery id) s = .next (done c 0 0 (writeBlock c (c.p64 0x10) (maskBitmap s) s))) ∧
  (∀ (s : State) (id : Nat) (c : Cmd) (p : PathCodes),
      Runs s id 0x0901 (selByte 0x08 0) c →
      Passes [entryCheck c [(0x08, 2)] [(0x09, decide (c.p8 0x09 < 32))], deviceCheck s c, needState (!([(0 : Fin 2), 1].any fun x => slotNames s x (c.p8 0x09) || slotNames s x 0x71))] →
      pathVerdict p = 0 →
      exec (.monitorPathTest id p) s = .next (done c (0 + 2 ^ 16 * (p.p2At768 % 65536)) (slopeCode p.p1At768 p.p1At256 + 2 ^ 16 * slopeCode p.p2At768 p.p2At256 + 2 ^ 32 * (p.quiet % 65536)) { s with brz := { s.brz with pathTests := satN 32 (s.brz.pathTests + 1), pathNotPassed := satN 32 (s.brz.pathNotPassed + 0) } })) ∧
  (∀ (s : State) (id : Nat) (c : Cmd) (p : PathCodes) (v : Nat),
      Runs s id 0x0901 (selByte 0x08 0) c →
      Passes [entryCheck c [(0x08, 2)] [(0x09, decide (c.p8 0x09 < 32))], deviceCheck s c, needState (!([(0 : Fin 2), 1].any fun x => slotNames s x (c.p8 0x09) || slotNames s x 0x71))] →
      pathVerdict p = v →
      v ≠ 0 →
      exec (.monitorPathTest id p) s = .next (done c (v + 2 ^ 16 * (p.p2At768 % 65536)) (slopeCode p.p1At768 p.p1At256 + 2 ^ 16 * slopeCode p.p2At768 p.p2At256 + 2 ^ 32 * (p.quiet % 65536)) (raise 0xC80 [.h (c.p8 0x09), .h v] { s with brz := { s.brz with pathTests := satN 32 (s.brz.pathTests + 1), pathNotPassed := satN 32 (s.brz.pathNotPassed + 1) } }))) ∧
  (∀ (s : State) (id : Nat) (c : Cmd),
      Runs s id 0x0A00 (selByte 0x08 0) c →
      Passes [entryCheck c [(0x08, 1), (0x09, 1)] [], deviceCheck s c, params [(0x09, decide (c.p8 0x09 < 8))]] →
      exec (.cfgCommit id) s = .next (cfgDone c { ((s.setReg kCrcFwRef (firmwareCheck s)).setField kCrcStatus 7 7 1).setField kCrcStatus 10 8 (c.p8 0x09) with fw := { s.fw with crcCommitTick := s.clk.tick } })) ∧
  (∀ (s : State) (id : Nat) (c : Cmd),
      Runs s id 0x0A00 (selByte 0x08 1) c →
      Passes [entryCheck c [(0x08, 1), (0x09, 1)] [], deviceCheck s c, params [(0x09, decide (c.p8 0x09 < 8))]] →
      exec (.cfgWithdraw id) s = .next (cfgDone c (withdrawRef s))) ∧
  (∀ (s : State) (id : Nat) (c : Cmd),
      Runs s id 0x0A00 (selByte 0x08 2) c →
      Passes [deviceCheck s c] →
      exec (.cfgQuery id) s = .next (done c ((s.reg kCrcFwRef).toNat + 2 ^ 32 * b2n (fwEnabled s)) s.fw.crcCommitTick s))

/-- A session opens on the slot that is not running and erases what its length covers (R450, R542); data is programmed in order and read
back, and a failed read-back ends the session INTERNAL, with flash holding what it may (R450); the finish switches slots where the image
passes, or fails AUTH with its aux (R450, R537, R541). A quote is counted and written (R451, R548). A token that is not sound, or not
allowed in the lifecycle, is refused; kind 1 is stored and unlocks at the next reset, kind 2 blows the relock fuse and erases the token,
kind 3 retires the device (R452, R545, R546). -/
def Obligations.ImagesQuotesAndTokensAreHandled : Prop :=
  (∀ (s : State) (id : Nat) (c : Cmd),
      Runs s id 0x0B00 anyCmd c →
      Passes [entryCheck c [(0x08, 4)] [], deviceCheck s c, needState s.boot.session.isNone, params [(0x08, decide (c.p32 0x08 ≤ slotSize))]] →
      exec (.imageUpdateBegin id) s = .next (done c (b2n (!s.boot.slotB)) 0 (openUpdate (c.p32 0x08) false s))) ∧
  (∀ (s : State) (id : Nat) (c : Cmd) (u : UpdateSession) (d : Data),
      Runs s id 0x0B01 anyCmd c →
      Passes [entryCheck c [(0x08, 16)] [], deviceCheck s c, params [(0x08, decide (c.p32 0x08 = u.received)), (0x0C, decide (1 ≤ c.p32 0x0C ∧ c.p32 0x0C ≤ 2 ^ 20 ∧ u.received + c.p32 0x0C ≤ u.length)), (0x10, aligned64 (c.p64 0x10))]] →
      s.boot.session = some u →
      u.monitor = false →
      exec (.imageUpdateData id (some d) true) s = .next (done c (u.received + c.p32 0x0C) 0 (programNext u ((d ++ zeros (c.p32 0x0C)).take (c.p32 0x0C)) s))) ∧
  (∀ (s : State) (id : Nat) (c : Cmd) (u : UpdateSession) (d : Data),
      Runs s id 0x0B01 anyCmd c →
      Passes [entryCheck c [(0x08, 16)] [], deviceCheck s c, params [(0x08, decide (c.p32 0x08 = u.received)), (0x0C, decide (1 ≤ c.p32 0x0C ∧ c.p32 0x0C ≤ 2 ^ 20 ∧ u.received + c.p32 0x0C ≤ u.length)), (0x10, aligned64 (c.p64 0x10))]] →
      s.boot.session = some u →
      u.monitor = false →
      exec (.imageUpdateData id (some d) false) s = .next (complete c stInternal 0 0 0 (failUpdate 0 (programNext u (freeBytes (c.p32 0x0C) s).1 (freeBytes (c.p32 0x0C) s).2)))) ∧
  (∀ (s : State) (id : Nat) (c : Cmd) (u : UpdateSession) (k : CryptoChecks),
      Runs s id 0x0B02 anyCmd c →
      Passes [entryCheck c [] [], deviceCheck s c] →
      s.boot.session = some u →
      u.monitor = false →
      imageFailure s u.slotB (some u.length) k = none →
      exec (.imageUpdateFinish id k) s = .next (done c (imageVersion (imageHead s u.slotB)) (b2n u.slotB) (switchSlot u.slotB { s with boot := { s.boot with session := none } }))) ∧
  (∀ (s : State) (id : Nat) (c : Cmd) (u : UpdateSession) (k : CryptoChecks) (e : Nat),
      Runs s id 0x0B02 anyCmd c →
      Passes [entryCheck c [] [], deviceCheck s c] →
      s.boot.session = some u →
      u.monitor = false →
      imageFailure s u.slotB (some u.length) k = some e →
      exec (.imageUpdateFinish id k) s = .next (complete c stAuth 0 0 (imageAux e) (failUpdate (imageAux e) s))) ∧
  (∀ (s : State) (id : Nat) (c : Cmd) (q : Data × State),
      Runs s id 0x0B10 anyCmd c →
      Passes [entryCheck c [(0x08, 4), (0x10, 8), (0x20, 32)] [], deviceCheck s c, need (s.boot.lifecycle ≠ .retired) stAuth 4, params [(0x08, decide (0x484 + chainLen s ≤ c.p32 0x08)), (0x10, aligned64 (c.p64 0x10))]] →
      q = quote ((c.bytes.drop 0x20).take 32) { s with boot := { s.boot with quoteCount := satN 32 (s.boot.quoteCount + 1) } } →
      exec (.attestQuote id) s = .next (done c q.1.length 0 (writeBlock c (c.p64 0x10) q.1 q.2))) ∧
  (∀ (s : State) (id : Nat) (c : Cmd) (t : Data) (ok : Bool),
      Runs s id 0x0B11 anyCmd c →
      Passes [entryCheck c [(0x08, 4), (0x10, 8)] [], deviceCheck s c, params [(0x08, decide (1 ≤ c.p32 0x08 ∧ c.p32 0x08 ≤ 4096)), (0x10, aligned64 (c.p64 0x10))]] →
      ok = false ∨ tokenSound s (t.take (c.p32 0x08)) = false →
      exec (.lifecycleUnlock id (some t) ok) s = .next (complete c stAuth 0 0 5 (raise 0xD08 [] s))) ∧
  (∀ (s : State) (id : Nat) (c : Cmd) (t : Data) (d : Data),
      Runs s id 0x0B11 anyCmd c →
      Passes [entryCheck c [(0x08, 4), (0x10, 8)] [], deviceCheck s c, params [(0x08, decide (1 ≤ c.p32 0x08 ∧ c.p32 0x08 ≤ 4096)), (0x10, aligned64 (c.p64 0x10))]] →
      d = t.take (c.p32 0x08) →
      tokenSound s d = true →
      u16At d 6 = 1 →
      u32At d 0x10 = s.boot.fuses.relock →
      s.boot.fuses.relock < 16 →
      s.boot.lifecycle = .production ∨ s.boot.lifecycle = .unlocked →
      exec (.lifecycleUnlock id (some t) true) s = .next (done c 2 0 (raise 0xD07 [.h 1] (program faToken d (erase faToken 4096 s))))) ∧
  (∀ (s : State) (id : Nat) (c : Cmd) (t : Data) (d : Data),
      Runs s id 0x0B11 anyCmd c →
      Passes [entryCheck c [(0x08, 4), (0x10, 8)] [], deviceCheck s c, params [(0x08, decide (1 ≤ c.p32 0x08 ∧ c.p32 0x08 ≤ 4096)), (0x10, aligned64 (c.p64 0x10))]] →
      d = t.take (c.p32 0x08) →
      tokenSound s d = true →
      u16At d 6 = 2 →
      u32At d 0x10 = s.boot.fuses.relock →
      s.boot.lifecycle = .unlocked →
      exec (.lifecycleUnlock id (some t) true) s = .next (done c 1 0 (raise 0xD07 [.h 2] (erase faToken 4096 { s with boot := { s.boot with fuses := { s.boot.fuses with relock := s.boot.fuses.relock + 1 } } })))) ∧
  (∀ (s : State) (id : Nat) (c : Cmd) (t : Data) (d : Data),
      Runs s id 0x0B11 anyCmd c →
      Passes [entryCheck c [(0x08, 4), (0x10, 8)] [], deviceCheck s c, params [(0x08, decide (1 ≤ c.p32 0x08 ∧ c.p32 0x08 ≤ 4096)), (0x10, aligned64 (c.p64 0x10))]] →
      d = t.take (c.p32 0x08) →
      tokenSound s d = true →
      u16At d 6 = 3 →
      u32At d 0x10 = s.boot.fuses.relock →
      s.boot.lifecycle = .production ∨ s.boot.lifecycle = .unlocked →
      exec (.lifecycleUnlock id (some t) true) s = .next (done c 3 0 (raise 0xD07 [.h 3] { s with boot := { s.boot with fuses := { s.boot.fuses with retired := true } } }))) ∧
  (∀ (s : State) (id : Nat) (c : Cmd) (t : Data) (d : Data),
      Runs s id 0x0B11 anyCmd c →
      Passes [entryCheck c [(0x08, 4), (0x10, 8)] [], deviceCheck s c, params [(0x08, decide (1 ≤ c.p32 0x08 ∧ c.p32 0x08 ≤ 4096)), (0x10, aligned64 (c.p64 0x10))]] →
      d = t.take (c.p32 0x08) →
      tokenSound s d = true →
      u32At d 0x10 = s.boot.fuses.relock →
      s.boot.lifecycle = .development ∨ s.boot.lifecycle = .retired →
      exec (.lifecycleUnlock id (some t) true) s = .next (complete c stState 0 0 0 (raise 0xD08 [] s)))

/-- Each command that the lifecycle allows answers with its lines, OK and the prompt, or E with its number (R549, R550); the wording of
the lines is the model's (DESIGN CHOICE, log 91). trace, ucode and poke, and the store and processor spaces of peek, are for DEVELOPMENT
and PRODUCTION-UNLOCKED (R550, R551); a peek changes nothing but that it wakes a store in self-refresh, a poke writes as the host would
and is reported (R551, R8, R106). A line that names no command, or that overflows, is an error (R549). -/
def Obligations.TheMonitorAnswers : Prop :=
  (∀ (s : State) (u : State),
      u = wakeLull s →
      s.boot.phase = .running ∨ s.boot.phase = .failed →
      exec (.fynalHelp) s = .next (answerOk (allowedCommands u) u)) ∧
  (∀ (s : State) (u : State),
      u = wakeLull s →
      s.boot.phase = .running ∨ s.boot.phase = .failed →
      exec (.fynalId) s = .next (answerOk (showBytes (identityBlock u)) u)) ∧
  (∀ (s : State) (u : State) (n : Nat),
      u = wakeLull s →
      s.boot.phase = .running →
      n ≤ 256 →
      exec (.fynalEvents n) s = .next (answerOk ((u.evt.recent.drop (u.evt.recent.length - n)).map fun e => showNats "event" [e.ev, e.tick, e.data0, e.data1]) u)) ∧
  (∀ (s : State) (u : State) (n : Nat),
      u = wakeLull s →
      s.boot.phase = .running →
      256 < n →
      exec (.fynalEvents n) s = .next (errArg u)) ∧
  (∀ (s : State) (u : State),
      u = wakeLull s →
      s.boot.phase = .running →
      exec (.fynalCal) s = .next (answerOk ([showNats "cal" [u.cal.word]] ++ (u.cal.causes.map fun x => showNats "cause" [x.1, x.2]) ++ [showNats "record" [u.cal.recordSeq, codeOf 16 u.cal.tj]]) u)) ∧
  (∀ (s : State) (u : State),
      u = wakeLull s →
      s.boot.phase = .running →
      exec (.fynalChain) s = .next (answerOk (chainLines u) u)) ∧
  (∀ (s : State) (u : State),
      u = wakeLull s →
      s.boot.phase = .running →
      exec (.fynalPower) s = .next (answerOk (showBytes (powerBlock u)) u)) ∧
  (∀ (s : State) (u : State),
      u = wakeLull s →
      s.boot.phase = .running →
      exec (.fynalLife) s = .next (answerOk (showBytes (ledgerInForce u) ++ [showNats "remaining" [lifeRemaining (ledgerInForce u)]]) u)) ∧
  (∀ (s : State) (u : State) (n : Fin 20),
      u = wakeLull s →
      s.boot.phase = .running →
      exec (.fynalTiles (some n)) s = .next (answerOk [tileLine u n] u)) ∧
  (∀ (s : State) (u : State),
      u = wakeLull s →
      s.boot.phase = .running →
      exec (.fynalTiles none) s = .next (answerOk ((List.finRange 20).map (tileLine u)) u)) ∧
  (∀ (s : State) (u : State) (n : Fin 20),
      u = wakeLull s →
      s.boot.phase = .running →
      debugOpen u = false →
      exec (.fynalTrace n) s = .next (errLifecycle u)) ∧
  (∀ (s : State) (u : State) (n : Fin 20),
      u = wakeLull s →
      s.boot.phase = .running →
      debugOpen u = true →
      exec (.fynalTrace n) s = .next (answerOk (u.tiles[n].seq.trace.map fun e => showNats "trace" [e.addr, e.idx, e.tick]) u)) ∧
  (∀ (s : State) (u : State) (n : Fin 20) (a : Nat) (k : Nat),
      u = wakeLull s →
      s.boot.phase = .running →
      debugOpen u = false →
      exec (.fynalUcode n a k) s = .next (errLifecycle u)) ∧
  (∀ (s : State) (u : State) (n : Fin 20) (a : Nat) (k : Nat),
      u = wakeLull s →
      s.boot.phase = .running →
      debugOpen u = true →
      k ≤ 64 →
      4096 ≤ a →
      a + k ≤ 8192 →
      exec (.fynalUcode n a k) s = .next (answerOk ((List.range k).map fun j => showNats "word" [a + j, (storedWord u n (a + j)).1]) u)) ∧
  (∀ (s : State) (u : State) (n : Fin 20) (a : Nat) (k : Nat),
      u = wakeLull s →
      s.boot.phase = .running →
      debugOpen u = true →
      64 < k ∨ a < 4096 ∨ 8192 < a + k →
      exec (.fynalUcode n a k) s = .next (errArg u)) ∧
  (∀ (s : State) (u : State) (x : Nat) (a : Nat) (n : Nat),
      u = wakeLull s →
      s.boot.phase = .running →
      3 < x ∨ 256 < n ∨ a % 4 ≠ 0 ∨ spaceSize u x < a + 4 * n →
      exec (.fynalPeek x a n) s = .next (errArg u)) ∧
  (∀ (s : State) (u : State) (x : Nat) (a : Nat) (n : Nat),
      u = wakeLull s →
      s.boot.phase = .running →
      debugOpen u = false →
      2 ≤ x →
      x ≤ 3 →
      n ≤ 256 →
      a % 4 = 0 →
      a + 4 * n ≤ spaceSize u x →
      exec (.fynalPeek x a n) s = .next (errLifecycle u)) ∧
  (∀ (s : State) (u : State) (x : Nat) (a : Nat) (n : Nat),
      u = wakeLull s →
      s.boot.phase = .running →
      x ≤ 1 ∨ (x = 3 ∧ debugOpen u = true) →
      n ≤ 256 →
      a % 4 = 0 →
      a + 4 * n ≤ spaceSize u x →
      exec (.fynalPeek x a n) s = .next (answerOk ((List.range n).map fun k => showNats "peek" [a + 4 * k, peekWord u x (a + 4 * k)]) u)) ∧
  (∀ (s : State) (u : State) (a : Nat) (n : Nat) (v : State),
      u = wakeLull s →
      s.boot.phase = .running →
      debugOpen u = true →
      n ≤ 256 →
      a % 4 = 0 →
      a + 4 * n ≤ spaceSize u 2 →
      v = storeAwake u →
      storeServes v = true →
      readPoisoned v a (4 * n) = false →
      exec (.fynalPeek 2 a n) s = .next (answerOk ((List.range n).map fun k => showNats "peek" [a + 4 * k, unle (rawRead v (a + 4 * k) 4)]) v)) ∧
  (∀ (s : State) (u : State) (a : Nat) (n : Nat) (v : State),
      u = wakeLull s →
      s.boot.phase = .running →
      debugOpen u = true →
      n ≤ 256 →
      a % 4 = 0 →
      a + 4 * n ≤ spaceSize u 2 →
      v = storeAwake u →
      storeServes v = false ∨ readPoisoned v a (4 * n) = true →
      exec (.fynalPeek 2 a n) s = .next (errFailed 0 v)) ∧
  (∀ (s : State) (u : State) (x : Nat) (a : Nat) (v : U32),
      u = wakeLull s →
      s.boot.phase = .running →
      debugOpen u = false →
      exec (.fynalPoke x a v) s = .next (errLifecycle u)) ∧
  (∀ (s : State) (u : State) (x : Nat) (a : Nat) (v : U32),
      u = wakeLull s →
      s.boot.phase = .running →
      debugOpen u = true →
      3 < x ∨ a % 4 ≠ 0 ∨ spaceSize u x < a + 4 →
      exec (.fynalPoke x a v) s = .next (errArg u)) ∧
  (∀ (s : State) (u : State) (x : Nat) (a : Nat) (v : U32),
      u = wakeLull s →
      s.boot.phase = .running →
      debugOpen u = true →
      x ≤ 3 →
      a % 4 = 0 →
      a + 4 ≤ spaceSize u x →
      pokeAllowed u x a = false →
      exec (.fynalPoke x a v) s = .next (errLifecycle u)) ∧
  (∀ (s : State) (u : State) (x : Nat) (a : Nat) (v : U32) (w : State),
      u = wakeLull s →
      s.boot.phase = .running →
      debugOpen u = true →
      x ≤ 3 →
      x ≠ 2 →
      a % 4 = 0 →
      a + 4 ≤ spaceSize u x →
      pokeAllowed u x a = true →
      w = pokeWord x a v u →
      exec (.fynalPoke x a v) s = .next (answerOk [] (raise 0xD0A [.h x, .q a] { w with fynal := { w.fynal with lastPoke := a } }))) ∧
  (∀ (s : State) (u : State) (a : Nat) (v : U32) (w : State),
      u = wakeLull s →
      s.boot.phase = .running →
      debugOpen u = true →
      a % 4 = 0 →
      a + 4 ≤ spaceSize u 2 →
      pokeAllowed u 2 a = true →
      storeServes (storeAwake u) = true →
      w = storeWrite a (le 4 v.toNat) (storeAwake u) →
      exec (.fynalPoke 2 a v) s = .next (answerOk [] (raise 0xD0A [.h 2, .q a] { w with fynal := { w.fynal with lastPoke := a } }))) ∧
  (∀ (s : State) (u : State) (r : Nat),
      u = wakeLull s →
      s.boot.phase = .running ∨ s.boot.phase = .failed →
      baudRates.contains r = true →
      exec (.fynalBaud r) s = .next ({ answerOk [] u with fynal := { (answerOk [] u).fynal with newBaud := some (r, u.clk.up + 12800000) } })) ∧
  (∀ (s : State) (u : State) (r : Nat),
      u = wakeLull s →
      s.boot.phase = .running ∨ s.boot.phase = .failed →
      baudRates.contains r = false →
      exec (.fynalBaud r) s = .next (errArg u)) ∧
  (∀ (s : State) (r : Nat) (d : Nat),
      s.fynal.newBaud = some (r, d) →
      exec .baudSwitch s = .next { waitUp d s with fynal := { s.fynal with baud := r, newBaud := none } }) ∧
  (∀ (s : State) (u : State),
      u = wakeLull s →
      s.boot.phase = .running ∨ s.boot.phase = .failed →
      exec (.monitorLineRejected true) s = .next (errArg u)) ∧
  (∀ (s : State) (u : State),
      u = wakeLull s →
      s.boot.phase = .running ∨ s.boot.phase = .failed →
      exec (.monitorLineRejected false) s = .next (answerErr 1 "unknown command" u))

/-- update opens a session on the slot that is not running and asks for the first piece; a piece with a wrong CRC is asked for again, one
that does not read back ends the session, and after the last the image is checked as IMAGE_UPDATE_FINISH does (R552); the restart is a
full reset (log 92). An instruction that takes the pins makes every interface lose its signal once; an undefined one acts as BYPASS (R553,
R554); Test-Logic-Reset selects IDCODE and gives the pins back (R554). -/
def Obligations.TheMonitorUpdatesAndPinsAreTested : Prop :=
  (∀ (s : State) (u : State) (n : Nat),
      u = wakeLull s →
      s.boot.phase = .running ∨ s.boot.phase = .failed →
      u.boot.session = none →
      1 ≤ n →
      n ≤ slotSize →
      exec (.fynalUpdate n) s = .next (askPiece 0 (openUpdate n true u))) ∧
  (∀ (s : State) (u : State) (n : Nat),
      u = wakeLull s →
      s.boot.phase = .running ∨ s.boot.phase = .failed →
      u.boot.session.isSome = true →
      exec (.fynalUpdate n) s = .next (errBusy u)) ∧
  (∀ (s : State) (u : State) (n : Nat),
      u = wakeLull s →
      s.boot.phase = .running ∨ s.boot.phase = .failed →
      u.boot.session = none →
      n = 0 ∨ slotSize < n →
      exec (.fynalUpdate n) s = .next (errArg u)) ∧
  (∀ (s : State) (u : State) (x : UpdateSession) (piece : Data) (rb : Bool) (k : CryptoChecks),
      u = wakeLull s →
      s.boot.phase = .running ∨ s.boot.phase = .failed →
      u.boot.session = some x →
      x.monitor = true →
      exec (.fynalUpdatePiece piece false rb k) s = .next (askPiece x.received u)) ∧
  (∀ (s : State) (u : State) (x : UpdateSession) (piece : Data) (k : CryptoChecks),
      u = wakeLull s →
      s.boot.phase = .running ∨ s.boot.phase = .failed →
      u.boot.session = some x →
      x.monitor = true →
      x.received + min 4096 (x.length - x.received) < x.length →
      exec (.fynalUpdatePiece piece true true k) s = .next (askPiece (x.received + min 4096 (x.length - x.received)) (programNext x ((piece ++ List.replicate (min 4096 (x.length - x.received)) 0xFF).take (min 4096 (x.length - x.received))) u))) ∧
  (∀ (s : State) (u : State) (x : UpdateSession) (piece : Data) (k : CryptoChecks),
      u = wakeLull s →
      s.boot.phase = .running ∨ s.boot.phase = .failed →
      u.boot.session = some x →
      x.monitor = true →
      x.length ≤ x.received + min 4096 (x.length - x.received) →
      exec (.fynalUpdatePiece piece true true k) s = .next (finishMonitor x k (programNext x ((piece ++ List.replicate (min 4096 (x.length - x.received)) 0xFF).take (min 4096 (x.length - x.received))) u))) ∧
  (∀ (s : State) (u : State) (x : UpdateSession) (piece : Data) (k : CryptoChecks) (f : Data × State),
      u = wakeLull s →
      s.boot.phase = .running ∨ s.boot.phase = .failed →
      u.boot.session = some x →
      x.monitor = true →
      f = freeBytes (min 4096 (x.length - x.received)) u →
      exec (.fynalUpdatePiece piece true false k) s = .next (errFailed 0 (failUpdate 0 (programNext x f.1 f.2)))) ∧
  (∀ (s : State) (due : Nat),
      s.fynal.restartAt = some due →
      exec .fynalUpdateRestart s = .next (fullReset 7 3 s.boot.straps (waitUp due s))) ∧
  (∀ (s : State) (code : Byte),
      takesPins (jtagCode s code) = false ∨ s.jtag.pinsTaken = true →
      exec (.jtagInstructionLoad code) s = .next { s with jtag := { s.jtag with instruction := jtagCode s code } }) ∧
  (∀ (s : State) (code : Byte),
      takesPins (jtagCode s code) = true →
      s.jtag.pinsTaken = false →
      exec (.jtagInstructionLoad code) s = .next (losePins (raise 0xD0B [] { s with jtag := { s.jtag with instruction := jtagCode s code, pinsTaken := true } }))) ∧
  (∀ (s : State),
      exec .tapReset s = .next { s with jtag := ⟨2, false⟩ })

/-- Whatever the command and the state it finds, a step from a canonical state answers a canonical state: host memory, the store, the
flash and the register file keep strictly rising keys with no entry equal to what an unlisted key reads as (log 3 and log 4, the model's
choice of representation), and the time base stays a 64-bit counter (R489). -/
def Obligations.StatesStayCanonical : Prop :=
  ∀ s t : State, Canonical s → step s = .next t → Canonical t

/-- The reset state is canonical; nothing is pending; the time base is 0 (R489); the power limit is 1,650 and the granted total is the
base of 380 (R443, R501); every event is unmasked and routes to EVQ0 with vector 0xFFFF (R433); every register of the block holds its
listed reset value (R7); the store is untrained with no region (R70, R85); no queue is enabled (R415); and the PCI Express link is down.
Where the spec gives no reset value the model's choice (log 1) is not named here. -/
def Obligations.ResetStateHoldsStatedValues : Prop :=
  Canonical State.reset ∧ State.reset.pending = [] ∧ State.reset.clk.tick = 0 ∧ State.reset.pwr.limit = 1650 ∧ State.reset.pwr.granted_ = 380 ∧
  (∀ ev, (eventRouteOf State.reset ev).evq = 0 ∧ (eventRouteOf State.reset ev).vector = 0xFFFF ∧ (eventRouteOf State.reset ev).proxy = none) ∧
  (∀ ev, ev < 4096 → eventMasked State.reset ev = false) ∧
  (∀ k, State.reset.reg k = regReset k) ∧
  State.reset.store.state = .untrained ∧ State.reset.store.regions = [] ∧
  (∀ n : Fin 8, State.reset.mbx.cmdqs[n].enabled = false ∧ State.reset.mbx.cplqs[n].enabled = false) ∧
  (∀ n : Fin 4, State.reset.mbx.evqs[n].enabled = false) ∧ State.reset.pcie.linkUp = false

/-- For every command and every state, exec answers a next state, never a fault and never a refusal, and the queue of waiting commands is
as it was: no command stops the block, and none is lost or invented. -/
def Obligations.EveryCommandCompletesAndLeavesTheQueue : Prop :=
  ∀ (c : Instr) (s : State), ∃ t, exec c s = .next t ∧ t.pending = s.pending

/-- Every step from every state keeps the serial number, the production fuse and the keys, never unretires a device, never lowers the
counts of blown rollback and relock fuses (R541: no agent can unblow a fuse; R545, R546), and leaves the factory trims with their limits
as they are (R512, R516). -/
def Obligations.FusesOnlyBlowAndTrimsStay : Prop :=
  ∀ s t : State, step s = .next t → FusesGrow s.boot.fuses t.boot.fuses ∧ factoryTrims t = factoryTrims s

/-- A write to host memory by an engine that masters traffic, a write to the store, a program of flash, a write of a register and of a
field of a register read back what they wrote, byte by byte or bit by bit; every other byte, register and bit reads as before; an engine
that does not master traffic writes nothing to host memory (R396, R405). -/
def Obligations.WritesReadBack : Prop :=
  (∀ (s : State) (a : Nat) (d : Data) (i : Nat), Memory.wf s.host = true → masters s = true → i < d.length →
      some ((hostWrite a d s).host.byte (a + i)) = d[i]?) ∧
  (∀ (s : State) (a : Nat) (d : Data) (x : Nat), x < a ∨ a + d.length ≤ x → (hostWrite a d s).host.byte x = s.host.byte x) ∧
  (∀ (s : State) (a : Nat) (d : Data), masters s = false → hostWrite a d s = s) ∧
  (∀ (s : State) (a : Nat) (d : Data) (i : Nat), Memory.wf s.store.mem = true → i < d.length →
      some ((storeWrite a d s).store.mem.byte (a + i)) = d[i]?) ∧
  (∀ (s : State) (a : Nat) (d : Data) (x : Nat), x < a ∨ a + d.length ≤ x → (storeWrite a d s).store.mem.byte x = s.store.mem.byte x) ∧
  (∀ (s : State) (a : Nat) (d : Data) (i : Nat), spWf flashDefault s.boot.flash = true → i < d.length →
      some (flashByte (program a d s).boot.flash (a + i)) = d[i]?) ∧
  (∀ (s : State) (a : Nat) (d : Data) (x : Nat), x < a ∨ a + d.length ≤ x →
      flashByte (program a d s).boot.flash x = flashByte s.boot.flash x) ∧
  (∀ (s : State) (k : Nat) (v : U32), RegsCanonical s → (s.setReg k v).reg k = v) ∧
  (∀ (s : State) (k j : Nat) (v : U32), j ≠ k → (s.setReg k v).reg j = s.reg j) ∧
  (∀ (s : State) (k hi lo v i : Nat), RegsCanonical s → lo ≤ hi → hi < 32 → i < 32 →
      ((s.setField k hi lo v).reg k).getLsbD i = if lo ≤ i ∧ i ≤ hi then v.testBit (i - lo) else (s.reg k).getLsbD i)

/-- A partial write to a poisoned sector leaves it poisoned, and a write that covers the whole sector clears the poison: for a write of
the engine, for a write of the host through BAR4 whose byte enables must cover all 32 bytes, and for the zero fill of whole sectors; no
write poisons a sector that was not. -/
def Obligations.PoisonFollowsWholeSectorWrites : Prop :=
  (∀ (s : State) (a : Nat) (d : Data) (k : Nat),
      k ∈ (storeWrite a d s).store.poison ↔ k ∈ s.store.poison ∧ ¬ CoversSector a d.length k) ∧
  (∀ (s : State) (a : Nat) (l : List (Option Byte)) (k : Nat),
      k ∈ (writeEnabled a l s).store.poison ↔
        k ∈ s.store.poison ∧ ¬ (CoversSector a l.length k ∧ ∀ i < 32, ∃ b, l[k * 32 - a + i]? = some (some b))) ∧
  (∀ (s : State) (a n k : Nat), a % 32 = 0 → n % 32 = 0 →
      (k ∈ (clearSpan a n s).store.poison ↔ k ∈ s.store.poison ∧ ¬ CoversSector a n k))

/-- When one span of output is lost to more than one cause, its GAP carries the highest-ranked of those causes by the order 9, 3, 8, 2,
10, 7, 6, 4, 5, 1: of two causes the higher; of a span of a ring the highest of the holes, the overwrite and the poison that it meets, and
none exactly where it meets none; that is the cause of the unit of a frame; a merge of two holes takes the higher of the two (R91); and
where a hole is added over others, the causes of a tick are decided the same way (R65). -/
def Obligations.GapsCarryTheHighestRankedCause : Prop :=
  (∀ a b : Nat, a ∈ ranks → b ∈ ranks → HighestOf (worseCause a b) [a, b]) ∧
  (∀ (r : Ring) (t0 t1 o c : Nat), spanGap r t0 t1 o = some c → HighestOf c (spanCauses r t0 t1 o)) ∧
  (∀ (r : Ring) (t0 t1 o : Nat), spanGap r t0 t1 o = none ↔
      (∀ h ∈ r.holes, ¬ (h.start < t1 ∧ t0 < h.stop)) ∧ r.oldest ≤ t0 ∧ ∀ p ∈ r.poisoned, ¬ (p.start < t1 ∧ t0 < p.stop)) ∧
  (∀ (s : State) (t : Task) (k e o c : Nat) (b : Bool) (l : List (Nat × Nat)) (n : Fin 4), t.inlet = some n →
      spanGap s.inlets[n].ring (t.frameTime k / 65536) (ceilDiv (t.frameStop k) 65536) o = some c → (frameUnit s t k e o b l).gap = some c) ∧
  (∀ (a b : Hole) (l : List Hole), a.cause ∈ ranks → b.cause ∈ ranks →
      ∃ m, mergeAt 0 (a :: b :: l) = m :: l ∧ m.start = a.start ∧ m.stop = b.stop ∧ HighestOf m.cause [a.cause, b.cause]) ∧
  (∀ (n h : Hole), n.cause ∈ ranks → h.cause ∈ ranks → n.start = h.start → n.stop = h.stop → n.start < n.stop →
      ∃ m, insertHole n [h] = [m] ∧ m.start = n.start ∧ m.stop = n.stop ∧ HighestOf m.cause [n.cause, h.cause])

/-- The limit is 1,650 after reset. A SET_POWER_LIMIT whose entry, device state and limit (u16 at 0x08, from 300 to 1,850) pass sets the
limit, and the effective limit from it, and completes with the previous limit and the granted total; a limit outside that range completes
E_BAD_PARAM with aux 8 and sets nothing. No grant is revoked, and while the limit lies below the granted total no later request is granted
at once: it waits, is deferred or is denied. -/
def Obligations.PowerLimitIsSetWithoutRevokingGrants : Prop :=
  State.reset.pwr.limit = 1650 ∧
  (∀ (s : State) (id : Nat) (c : Cmd), Runs s id 0x0011 anyCmd c → Passes [entryCheck c [(0x08, 2)] [], deviceCheck s c] →
      300 ≤ c.p16 0x08 → c.p16 0x08 ≤ 1850 →
      ∃ u : State, exec (.setPowerLimit id) s = .next (done c s.pwr.limit s.pwr.granted_ u) ∧
        u.pwr = { s.pwr with limit := c.p16 0x08, effective := effectiveLimit (c.p16 0x08) s.fw.tjEval } ∧ u = sideOf { s with pwr := u.pwr } u ∧
        (u.pwr.limit < s.pwr.granted_ →
          ∀ (d : Cmd) (o : Owner) (items : List (Nat × Nat)) (v : State), v.pwr = u.pwr → (requestPower d o items v).1 ≠ .granted)) ∧
  (∀ (s : State) (id : Nat) (c : Cmd), Runs s id 0x0011 anyCmd c → Passes [entryCheck c [(0x08, 2)] [], deviceCheck s c] →
      c.p16 0x08 < 300 ∨ 1850 < c.p16 0x08 → exec (.setPowerLimit id) s = .next (complete c stBadParam 0 0 8 s))

/-- Completing a command of a CMDQ takes it out of the commands in progress and changes nothing outside mailbox, registers, host memory
and messages. Into an enabled CPLQ the 32-byte entry of R418 is written at the tail, with the current PHASE, the CMDQ and its HEAD; the
tail moves on and the phase inverts at the wrap (R419); the other queues stay. Into a disabled CPLQ nothing is written and the loss is
counted (R416). The first check that fails decides the status and aux (R428), and a row whose command is not in progress changes nothing.
-/
def Obligations.CompletionsReachTheirQueue : Prop :=
  (∀ (s : State) (c : Cmd) (q : Fin 8) (status r0 r1 aux : Nat), findCmd s c.id = some c → c.origin = .queue q →
      s.mbx.cplqs[c.cplq].enabled = true →
      ∃ t : State, complete c status r0 r1 aux s = t ∧ t = sideOf s t ∧ t.mbx.cmds = s.mbx.cmds.filter (·.id ≠ c.id) ∧
        t.host = (hostWrite (s.mbx.cplqs[c.cplq].base + s.mbx.cplqs[c.cplq].tail * 32)
          (le 4 c.tag ++ le 2 status ++ le 2 (b2n s.mbx.cplqs[c.cplq].phase + 2 * q.val + 16 * s.mbx.cmdqs[q].head) ++ le 8 r0 ++ le 8 r1 ++
            le 4 aux ++ le 4 0) s).host ∧
        t.mbx.cplqs[c.cplq].tail = (if s.mbx.cplqs[c.cplq].tail + 1 = s.mbx.cplqs[c.cplq].size then 0 else s.mbx.cplqs[c.cplq].tail + 1) ∧
        t.mbx.cplqs[c.cplq].phase = (s.mbx.cplqs[c.cplq].phase ^^ decide (s.mbx.cplqs[c.cplq].tail + 1 = s.mbx.cplqs[c.cplq].size)) ∧
        t.mbx.cplqs[c.cplq].head = s.mbx.cplqs[c.cplq].head ∧ (∀ n : Fin 8, n ≠ c.cplq → t.mbx.cplqs[n] = s.mbx.cplqs[n]) ∧
        t.mbx.cmdqs = s.mbx.cmdqs ∧ t.mbx.evqs = s.mbx.evqs) ∧
  (∀ (s : State) (c : Cmd) (q : Fin 8) (status r0 r1 aux : Nat), findCmd s c.id = some c → c.origin = .queue q →
      s.mbx.cplqs[c.cplq].enabled = false →
      complete c status r0 r1 aux s = (dropCmd c.id s).countSat kCplDropped 1) ∧
  (∀ (c : Cmd) (before after : List Check) (f : Nat × Nat) (ok : State → State) (s : State), Passes before →
      checked c (before ++ some f :: after) ok s = complete c f.1 0 0 f.2 s) ∧
  (∀ (s : State) (id opcode : Nat) (sel : Cmd → Bool) (body : Cmd → State → State), (∀ c, ¬ Runs s id opcode sel c) →
      runCmd id opcode sel body s = s)

/-- Raising an event sets its bit in EVT_STATUS (R473) and changes nothing outside event state, mailbox, registers, host memory, messages
and links; while EVT_FIRST holds an identifier it stands with its tick, and where it holds 0xFFFF and the bit was clear it captures the
event and the tick. A masked event is neither queued nor logged (R435). An unmasked one without a rate limit (R592) that routes to a local
EVQ goes into that queue's pending log, the last 256 of it, while the mailbox is not ready or the queue is disabled (R432), and otherwise,
with two entries free and no overflow, as the entry of R430 to the tail of that queue. -/
def Obligations.EventsSetStatusAndReachTheirQueue : Prop :=
  (∀ (s : State) (ev : Nat) (vals : List Val), RegsCanonical s → ev < 4096 →
      ((raise ev vals s).reg (kEvtStatus (ev / 32))).getLsbD (ev % 32) = true) ∧
  (∀ (s : State) (ev : Nat) (vals : List Val), raise ev vals s = sideOf s (raise ev vals s)) ∧
  (∀ (s : State) (ev : Nat) (vals : List Val), RegsCanonical s → s.field kEvtFirst 15 0 ≠ 0xFFFF →
      (raise ev vals s).field kEvtFirst 15 0 = s.field kEvtFirst 15 0 ∧
      (raise ev vals s).reg64 kEvtFirstLo kEvtFirstHi = s.reg64 kEvtFirstLo kEvtFirstHi) ∧
  (∀ (s : State) (ev : Nat) (vals : List Val), RegsCanonical s → ev < 4096 → s.clk.tick < 2 ^ 64 →
      (s.reg (kEvtStatus (ev / 32))).getLsbD (ev % 32) = false → s.field kEvtFirst 15 0 = 0xFFFF →
      (raise ev vals s).field kEvtFirst 15 0 = ev ∧ (raise ev vals s).reg64 kEvtFirstLo kEvtFirstHi = s.clk.tick) ∧
  (∀ (s : State) (ev : Nat) (vals : List Val), RegsCanonical s → ev < 4096 → eventMasked s ev = true →
      (raise ev vals s).mbx = s.mbx ∧ (raise ev vals s).host = s.host ∧ (raise ev vals s).evt.logs = s.evt.logs ∧
      (raise ev vals s).pcie = s.pcie ∧ (raise ev vals s).link = s.link) ∧
  (∀ (s : State) (ev : Nat) (vals : List Val) (n : Fin 4), RegsCanonical s → ev < 4096 → eventMasked s ev = false →
      s.boot.phase ≠ .restarting → eventPeriod ev = none → (eventRouteOf s ev).proxy = none → (eventRouteOf s ev).evq = n.val →
      ¬ (mbxReady s = true ∧ s.mbx.evqs[n].enabled = true) →
      (raise ev vals s).mbx = s.mbx ∧ (raise ev vals s).host = s.host ∧ (raise ev vals s).pcie = s.pcie ∧
      (s.evt.logs[n].length ≤ 256 →
        (raise ev vals s).evt.logs[n] = (s.evt.logs[n] ++ [eventOf s ev vals]).drop (s.evt.logs[n].length + 1 - 256)) ∧
      ∀ m : Fin 4, m ≠ n → (raise ev vals s).evt.logs[m] = s.evt.logs[m]) ∧
  (∀ (s : State) (ev : Nat) (vals : List Val) (n : Fin 4), RegsCanonical s → ev < 4096 → eventMasked s ev = false →
      s.boot.phase ≠ .restarting → eventPeriod ev = none → (eventRouteOf s ev).proxy = none → (eventRouteOf s ev).evq = n.val →
      mbxReady s = true → s.mbx.evqs[n].enabled = true → s.mbx.evqs[n].overflow = false → 2 ≤ s.mbx.evqs[n].free →
      (raise ev vals s).host = (hostWrite (s.mbx.evqs[n].base + s.mbx.evqs[n].tail * 32) (eventEntry (eventOf s ev vals) s.mbx.evqs[n].phase) s).host ∧
      (raise ev vals s).mbx.evqs[n].tail = s.mbx.evqs[n].advance.tail ∧ (raise ev vals s).mbx.evqs[n].phase = s.mbx.evqs[n].advance.phase ∧
      (raise ev vals s).mbx.evqs[n].overflow = false ∧ (raise ev vals s).evt.logs = s.evt.logs ∧
      ∀ m : Fin 4, m ≠ n → (raise ev vals s).mbx.evqs[m] = s.mbx.evqs[m])

/-- Each EVQ keeps its last free entry in reserve. An event that finds only that entry free makes the engine write EV 0x012 with data0 0
into it, and that event and every later one are counted in LOST. When at least two entries are free again, at an event or at a move of the
host's head, the engine first writes EV 0x012 with data0 the number of events lost, and then resumes: an event is written only while two
entries are free, and the next that finds only the reserve begins a new overflow. No source is stalled, and every event sets its status
whatever its delivery. -/
def Obligations.OverflowKeepsOneEntryInReserve : Prop :=
  (∀ (s : State) (n : Fin 4) (e : Event) (v : Nat), RegsCanonical s → s.mbx.evqs[n].overflow = false → s.mbx.evqs[n].free = 1 →
      (evqDeliver n e v s).1 = false ∧
      (evqDeliver n e v s).2.host = (hostWrite (s.mbx.evqs[n].base + s.mbx.evqs[n].tail * 32)
        (eventEntry ⟨0x012, s.clk.tick, 0, 0, false, s.link.did⟩ s.mbx.evqs[n].phase) s).host ∧
      (evqDeliver n e v s).2.mbx.evqs[n].overflow = true ∧ (evqDeliver n e v s).2.mbx.evqs[n].lostNow = 1 ∧
      (evqDeliver n e v s).2.mbx.evqs[n].tail = s.mbx.evqs[n].advance.tail ∧
      ((evqDeliver n e v s).2.reg (kEvq n 0x14)).toNat = min ((s.reg (kEvq n 0x14)).toNat + 1) (2 ^ 32 - 1)) ∧
  (∀ (s : State) (n : Fin 4) (e : Event) (v : Nat), RegsCanonical s → s.mbx.evqs[n].overflow = true → s.mbx.evqs[n].free < 2 →
      (evqDeliver n e v s).1 = false ∧ (evqDeliver n e v s).2.host = s.host ∧
      (evqDeliver n e v s).2.mbx.evqs[n] = { s.mbx.evqs[n] with lostNow := s.mbx.evqs[n].lostNow + 1 } ∧
      ((evqDeliver n e v s).2.reg (kEvq n 0x14)).toNat = min ((s.reg (kEvq n 0x14)).toNat + 1) (2 ^ 32 - 1)) ∧
  (∀ (s : State) (n : Fin 4), s.mbx.evqs[n].overflow = true → 2 ≤ s.mbx.evqs[n].free →
      (evqResume n s).host = (hostWrite (s.mbx.evqs[n].base + s.mbx.evqs[n].tail * 32)
        (eventEntry ⟨0x012, s.clk.tick, s.mbx.evqs[n].lostNow, 0, false, s.link.did⟩ s.mbx.evqs[n].phase) s).host ∧
      (evqResume n s).mbx.evqs[n].overflow = false ∧ (evqResume n s).mbx.evqs[n].lostNow = 0 ∧
      (evqResume n s).mbx.evqs[n].tail = s.mbx.evqs[n].advance.tail ∧ (evqResume n s).mbx.evqs[n].phase = s.mbx.evqs[n].advance.phase) ∧
  (∀ (s : State) (n : Fin 4), s.mbx.evqs[n].overflow = false ∨ s.mbx.evqs[n].free < 2 → evqResume n s = s) ∧
  (∀ (s : State) (n : Fin 4) (e : Event) (v : Nat), evqDeliver n e v s = evqDeliver n e v (evqResume n s)) ∧
  (∀ (s : State) (n : Fin 4) (h : Nat), s.mbx.evqs[n].takes h = true →
      evqDoorbell n h s = evqResume n (setEvq n (fun q => { q with head := h }) s)) ∧
  (∀ (s : State) (n : Fin 4) (e : Event) (v : Nat), s.mbx.evqs[n].overflow = false → 2 ≤ s.mbx.evqs[n].free →
      (evqDeliver n e v s).1 = true ∧
      (evqDeliver n e v s).2.host = (hostWrite (s.mbx.evqs[n].base + s.mbx.evqs[n].tail * 32) (eventEntry e s.mbx.evqs[n].phase) s).host ∧
      (evqDeliver n e v s).2.mbx.evqs[n].tail = s.mbx.evqs[n].advance.tail ∧ (evqDeliver n e v s).2.mbx.evqs[n].overflow = false) ∧
  (∀ (s : State) (ev : Nat) (vals : List Val), RegsCanonical s → ev < 4096 →
      ((raise ev vals s).reg (kEvtStatus (ev / 32))).getLsbD (ev % 32) = true)

/-- Each of the eight hashed outputs is the even parity of the address and its mask; they make the channel, the bank group and the bank,
and row and column bits are taken from the address unchanged. The masks of the store configuration block are in use exactly where all
eight are valid, each with its own pivot bit, no other pivot bit, bits 5:0 clear and no bit above the highest row bit; otherwise the
defaults are, which are those of the table, in standard configuration without bit 34, and pass the test themselves; and until the block
overrides them the masks are the defaults. -/
def Obligations.HashOutputsAreParitiesOfTheMasksInUse : Prop :=
  (∀ (st : Store) (a : Nat), hashOutputs st a =
      (masksInUse st).map fun m => ((List.range 35).filter fun b => a.testBit b && m.testBit b).length % 2) ∧
  (∀ (st : Store) (a c0 c1 c2 c3 g0 g1 b0 b1 : Nat), hashOutputs st a = [c0, c1, c2, c3, g0, g1, b0, b1] →
      channelOf st a = c0 + 2 * c1 + 4 * c2 + 8 * c3 ∧ bankOf st a = (b0 + 2 * b1) + 4 * (g0 + 2 * g1)) ∧
  (∀ (st : Store) (a b : Nat), (rowOf st a).testBit b = (decide (b + 19 ≤ if st.clamshell then 34 else 33) && a.testBit (b + 19))) ∧
  (∀ a : Nat, columnOf a = a / 65536 % 8 * 256 + a / 64 % 4 * 64 + a % 64) ∧
  (∀ st : Store, (blockMasks st).length = 8 → (∀ i < 8, ValidMask st.clamshell (8 + i) ((blockMasks st).getD i 0)) → masksInUse st = blockMasks st) ∧
  (∀ st : Store, ¬ ((blockMasks st).length = 8 ∧ ∀ i < 8, ValidMask st.clamshell (8 + i) ((blockMasks st).getD i 0)) →
      masksInUse st = defaultMasks st.clamshell) ∧
  (∀ st : Store, st.cfg.masks = List.replicate 8 0 → masksInUse st = defaultMasks st.clamshell) ∧
  defaultMasks true = [[8, 19, 23, 27, 31], [9, 20, 24, 28, 32], [10, 21, 25, 29, 33], [11, 22, 26, 30, 34], [12, 19, 22, 25, 28, 31],
    [13, 20, 23, 26, 29, 32], [14, 21, 24, 27, 30, 33], [15, 21, 26, 31, 34]].map ofBits ∧
  defaultMasks false = [[8, 19, 23, 27, 31], [9, 20, 24, 28, 32], [10, 21, 25, 29, 33], [11, 22, 26, 30], [12, 19, 22, 25, 28, 31],
    [13, 20, 23, 26, 29, 32], [14, 21, 24, 27, 30, 33], [15, 21, 26, 31]].map ofBits ∧
  (∀ (x : Bool), ∀ i < 8, ValidMask x (8 + i) ((defaultMasks x).getD i 0))

/-- Whatever masks the store configuration block holds, two addresses of the fitted store that have the same channel, bank, row and byte
column are the same address: the hash is a bijection on the pivot bits, and row and column bits pass through unchanged (R72, R73, and the
reason given under R74). -/
def Obligations.ChannelHashIsOneToOne : Prop :=
  ∀ (st : Store) (a b : Nat), a < 2 ^ (topRowBit st.clamshell + 1) → b < 2 ^ (topRowBit st.clamshell + 1) →
    channelOf st a = channelOf st b → bankOf st a = bankOf st b → rowOf st a = rowOf st b → columnOf a = columnOf b → a = b

/-- The effective limit is the limit (1,650 after reset) less 50 units for each started degree above 100.0 °C with a floor of 300. A
request whose cost exceeds the effective limit minus the base is denied, and with an effective limit at or below the base every request
is, engine-internal ones included; it is granted where the queue is empty and the granted total plus its cost is within the effective
limit; otherwise it joins the tail of the queue, or is deferred under NO_WAIT (BUSY, or denied if internal, with 64 queued: R503). Denied
and deferred commands complete with their codes. Grants already held stand. -/
def Obligations.PowerRequestsAreDecided : Prop :=
  State.reset.pwr.limit = 1650 ∧
  (∀ (limit : Nat) (tj : Int), effectiveLimit limit tj = if tj ≤ 6400 then limit else max 300 (limit - 50 * (-((6400 - tj) / 64)).toNat)) ∧
  (∀ s : State, (setEffective s).pwr = { s.pwr with effective := effectiveLimit s.pwr.limit s.fw.tjEval }) ∧
  (∀ (c : Cmd) (o : Owner) (l : List (Nat × Nat)) (s : State), s.pwr.effective < 380 + (l.map Prod.snd).sum ∨ s.pwr.effective ≤ 380 →
      (requestPower c o l s).1 = .denied ∧ (requestPower c o l s).2.pwr = { s.pwr with denied := satN 32 (s.pwr.denied + 1) }) ∧
  (∀ (c : Cmd) (o : Owner) (l : List (Nat × Nat)) (s : State), 380 < s.pwr.effective → s.pwr.queue = [] →
      s.pwr.granted_ + (l.map Prod.snd).sum ≤ s.pwr.effective →
      (requestPower c o l s).1 = .granted ∧ (requestPower c o l s).2.pwr.grants = s.pwr.grants ++ [⟨o, l⟩] ∧
      (requestPower c o l s).2.pwr.granted_ = s.pwr.granted_ + (l.map Prod.snd).sum ∧ (requestPower c o l s).2.pwr.queue = []) ∧
  (∀ (c : Cmd) (o : Owner) (l : List (Nat × Nat)) (s : State), 380 < s.pwr.effective → 380 + (l.map Prod.snd).sum ≤ s.pwr.effective →
      s.pwr.queue ≠ [] ∨ s.pwr.effective < s.pwr.granted_ + (l.map Prod.snd).sum →
      (requestPower c o l s).2.pwr.grants = s.pwr.grants ∧
      (c.noWait = true → (requestPower c o l s).1 = .deferred ∧ (requestPower c o l s).2.pwr.queue = s.pwr.queue) ∧
      (c.noWait = false → 64 ≤ s.pwr.queue.length → requestPower c o l s = (.busy, s)) ∧
      (c.noWait = false → s.pwr.queue.length < 64 → (requestPower c o l s).1 = .queued ∧
        (requestPower c o l s).2.pwr.queue = s.pwr.queue ++ [⟨o, l, BitVec.ofNat 32 c.tag, c.opcode, s.clk.up, some c.id⟩])) ∧
  (∀ (tag : Nat) (o : Owner) (l : List (Nat × Nat)) (s : State), s.pwr.effective < 380 + (l.map Prod.snd).sum ∨ s.pwr.effective ≤ 380 →
      (requestInternal tag o l s).1 = .denied ∧ (requestInternal tag o l s).2.pwr.grants = s.pwr.grants ∧
      (requestInternal tag o l s).2.pwr.queue = s.pwr.queue) ∧
  (∀ (tag : Nat) (o : Owner) (l : List (Nat × Nat)) (s : State), 380 < s.pwr.effective → s.pwr.queue = [] →
      s.pwr.granted_ + (l.map Prod.snd).sum ≤ s.pwr.effective →
      (requestInternal tag o l s).1 = .granted ∧ (requestInternal tag o l s).2.pwr.grants = s.pwr.grants ++ [⟨o, l⟩]) ∧
  (∀ (tag : Nat) (o : Owner) (l : List (Nat × Nat)) (s : State), 380 < s.pwr.effective → 380 + (l.map Prod.snd).sum ≤ s.pwr.effective →
      s.pwr.queue ≠ [] ∨ s.pwr.effective < s.pwr.granted_ + (l.map Prod.snd).sum →
      (requestInternal tag o l s).2.pwr.grants = s.pwr.grants ∧
      (64 ≤ s.pwr.queue.length → (requestInternal tag o l s).1 = .denied ∧ (requestInternal tag o l s).2.pwr.queue = s.pwr.queue) ∧
      (s.pwr.queue.length < 64 → (requestInternal tag o l s).1 = .queued ∧
        (requestInternal tag o l s).2.pwr.queue = s.pwr.queue ++ [⟨o, l, BitVec.ofNat 32 tag, 0, s.clk.up, none⟩])) ∧
  (∀ (c : Cmd) (units : Nat) (t : State) (g q r : State → State),
      afterPower c units (.denied, t) g q r = complete c 0x06 0 0 units (r t) ∧
      afterPower c units (.deferred, t) g q r = complete c 0x05 0 0 units (r t))
end

