-- ==== Sys2Proof/Laws/Flits.lean ====
section
/-! SUPPORT. A flit that a port sends is read back with its own fields and a good CRC. -/

namespace Sys2Proof.Laws

open Sys2Proof Sys2Proof.Machine

set_option Elab.async false

theorem length_le (n x : Nat) : (le n x).length = n := by
  induction n generalizing x with
  | zero => rfl
  | succ n ih => simp [le, ih]

theorem unle_le (n x : Nat) (h : x < 256 ^ n) : unle (le n x) = x := by
  induction n generalizing x with
  | zero => simp at h; simp [h, le, unle]
  | succ n ih =>
    have h1 : x / 256 < 256 ^ n := by
      rw [Nat.div_lt_iff_lt_mul (by decide)]
      simpa [Nat.pow_succ] using h
    simp only [le, unle, ih _ h1, BitVec.toNat_ofNat]
    omega

/-- The last four bytes of a string are the number they spell. -/
theorem u32At_tail (d : Data) (x : U32) : u32At (d ++ le 4 x.toNat) d.length = x.toNat := by
  have h : x.toNat < 256 ^ 4 := by have := x.isLt; omega
  unfold u32At
  rw [List.drop_left, List.take_of_length_le (by simp [length_le]), unle_le 4 _ h]

/-- The CRC of the flit a port builds is good (R340). -/
theorem flitBytes_crc_ok (f : Flit) : (flitOf (flitBytes f)).crcOk = true := by
  have key : ∀ d : Data, d.length = 252 →
      (decide ((d ++ le 4 (crc32 d).toNat).length = 256) && decide ((crc32 ((d ++ le 4 (crc32 d).toNat).take 252)).toNat = u32At (d ++ le 4 (crc32 d).toNat) 252)) = true := by
    intro d hd
    have h := u32At_tail d (crc32 d)
    rw [hd] at h
    have ht : (d ++ le 4 (crc32 d).toNat).take 252 = d := by rw [← hd, List.take_left]
    simp [h, ht, hd, length_le]
  unfold flitOf flitBytes
  apply key
  simp [length_le, flitPayload, zeros]
  omega

/-- A flit whose last four bytes are not the CRC of the others is bad (R340, R342). -/
theorem flit_crc_bad (d : Data) (x : U32) (hd : d.length = 252) (hx : x ≠ crc32 d) : (flitOf (d ++ le 4 x.toNat)).crcOk = false := by
  have h := u32At_tail d x
  rw [hd] at h
  have ht : (d ++ le 4 x.toNat).take 252 = d := by rw [← hd, List.take_left]
  simp only [flitOf, h, ht, Bool.and_eq_false_iff, decide_eq_false_iff_not]
  exact .inr fun e => hx (BitVec.eq_of_toNat_eq e.symm)

/-- The complement of a CRC is another number. -/
theorem not_ne (x : U32) : ~~~x ≠ x := by
  intro h
  have := congrArg (·.getLsbD 0) h
  simp at this

end Sys2Proof.Laws
end

