-- ==== Sys2Proof/Laws/Sparse.lean ====
section
/-! SUPPORT. The canonical forms of the sparse maps are kept by every write to them, and the lemmas through which each operation
of the block is shown to keep them. -/

namespace Sys2Proof.Laws

set_option Elab.async false

open Sys2Proof.Machine Sys2Proof.Safety

/-! ## Sparse maps -/

section Sparse

variable {V : Type} [DecidableEq V] {d : V}

/-- A lower bound may be weakened. -/
theorem spWfFrom_weaken {l : Option Nat} {m : List (Nat × V)} (h : spWfFrom d l m = true) : spWfFrom d none m = true := by
  cases m with
  | nil => rfl
  | cons e m => simp only [spWfFrom, Bool.and_eq_true, Bool.true_and] at h ⊢; exact ⟨h.1.2, h.2⟩

/-- A lower bound may be lowered. -/
theorem spWfFrom_lower {a b : Nat} (hab : a ≤ b) {m : List (Nat × V)} (h : spWfFrom d (some b) m = true) :
    spWfFrom d (some a) m = true := by
  cases m with
  | nil => rfl
  | cons e m =>
    simp only [spWfFrom, Bool.and_eq_true, decide_eq_true_eq] at h ⊢
    exact ⟨⟨Nat.lt_of_le_of_lt hab h.1.1, h.1.2⟩, h.2⟩

/-- A write above a bound keeps what follows it canonical. -/
theorem spPut_wfFrom {l : Option Nat} {m : List (Nat × V)} (k : Nat) (x : V) (hk : ∀ a, l = some a → a < k)
    (h : spWfFrom d l m = true) : spWfFrom d l (spPut d m k x) = true := by
  induction m generalizing l with
  | nil =>
    unfold spPut
    split
    · rfl
    · cases l <;> simp_all [spWfFrom]
  | cons e m ih =>
    obtain ⟨j, v⟩ := e
    have hb : spWfFrom d (some j) m = true := by simp only [spWfFrom, Bool.and_eq_true] at h; exact h.2
    unfold spPut
    split
    · rename_i hlt
      split
      · exact h
      · have hj : spWfFrom d (some k) ((j, v) :: m) = true := by
          simp only [spWfFrom, Bool.and_eq_true, decide_eq_true_eq] at h ⊢; exact ⟨⟨hlt, h.1.2⟩, h.2⟩
        cases l <;> simp_all [spWfFrom]
    · split
      · rename_i heq; subst heq
        split
        · cases l with
          | none => exact spWfFrom_weaken hb
          | some a => exact spWfFrom_lower (Nat.le_of_lt (hk a rfl)) hb
        · cases l <;> simp_all [spWfFrom]
      · rename_i h1 h2
        have := ih (l := some j) (by intro a ha; cases ha; omega) hb
        cases l <;> simp_all [spWfFrom]

/-- Writing a sparse map keeps its canonical form. -/
theorem spPut_wf {m : List (Nat × V)} (k : Nat) (x : V) (h : spWf d m = true) : spWf d (spPut d m k x) = true :=
  spPut_wfFrom k x (by intro a ha; cases ha) h

/-- Dropping entries keeps the canonical form. -/
theorem spFilter_wfFrom {l : Option Nat} {m : List (Nat × V)} (p : Nat × V → Bool) (h : spWfFrom d l m = true) :
    spWfFrom d l (m.filter p) = true := by
  induction m generalizing l with
  | nil => simp [spWfFrom]
  | cons e m ih =>
    obtain ⟨j, v⟩ := e
    have hb : spWfFrom d (some j) m = true := by simp only [spWfFrom, Bool.and_eq_true] at h; exact h.2
    rw [List.filter_cons]
    split
    · have := ih hb
      simp only [spWfFrom, Bool.and_eq_true] at h ⊢; exact ⟨h.1, this⟩
    · cases l with
      | none => exact ih (spWfFrom_weaken hb)
      | some a =>
        simp only [spWfFrom, Bool.and_eq_true, decide_eq_true_eq] at h
        exact ih (spWfFrom_lower (Nat.le_of_lt h.1.1) hb)

theorem spFilter_wf {m : List (Nat × V)} (p : Nat × V → Bool) (h : spWf d m = true) : spWf d (m.filter p) = true :=
  spFilter_wfFrom p h

/-- A written key reads back. -/
theorem spGet_spPut_self {l : Option Nat} {m : List (Nat × V)} (k : Nat) (x : V) (h : spWfFrom d l m = true) :
    spGet d (spPut d m k x) k = x := by
  induction m generalizing l with
  | nil => unfold spPut; split <;> simp_all [spGet]
  | cons e m ih =>
    obtain ⟨j, v⟩ := e
    have hb : spWfFrom d (some j) m = true := by simp only [spWfFrom, Bool.and_eq_true] at h; exact h.2
    have low : ∀ (m : List (Nat × V)) (a : Nat), spWfFrom d (some a) m = true → ∀ k, k ≤ a → spGet d m k = d := by
      intro m
      induction m with
      | nil => intros; rfl
      | cons e m ih2 =>
        intro a ha k hk
        obtain ⟨i, w⟩ := e
        simp only [spWfFrom, Bool.and_eq_true, decide_eq_true_eq] at ha
        simp only [spGet]
        rw [if_neg (by omega)]
        exact ih2 i ha.2 k (by omega)
    unfold spPut
    split
    · rename_i hlt
      split
      · rename_i hx
        simp only [spGet]; rw [if_neg (by omega), low m j hb k (by omega), hx]
      · simp [spGet]
    · split
      · rename_i heq; subst heq
        split
        · rename_i hx; rw [low m k hb k (Nat.le_refl _), hx]
        · simp [spGet]
      · rename_i h1 h2
        simp only [spGet]; rw [if_neg h2]; exact ih hb

/-- Every other key reads as before. -/
theorem spGet_spPut_other {m : List (Nat × V)} (k j : Nat) (x : V) (hj : j ≠ k) : spGet d (spPut d m k x) j = spGet d m j := by
  induction m with
  | nil => unfold spPut; split <;> simp_all [spGet]
  | cons e m ih =>
    obtain ⟨i, v⟩ := e
    unfold spPut
    split
    · split <;> simp_all [spGet]
    · split
      · rename_i heq; subst heq; split <;> simp_all [spGet]
      · simp only [spGet]; rw [ih]

end Sparse

/-- Writing a byte or a string of bytes keeps the canonical form. -/
theorem Memory.setByte_wf {m : Memory} (a : Nat) (b : Byte) (h : Memory.wf m = true) : Memory.wf (Memory.setByte m a b) = true :=
  spPut_wf a b h

theorem Memory.write_wf {m : Memory} (a : Nat) (d : Data) (h : Memory.wf m = true) : Memory.wf (Memory.write m a d) = true := by
  induction d generalizing m a with
  | nil => exact h
  | cons b bs ih => exact ih (a + 1) (Memory.setByte_wf a b h)

/-- Bytes outside a written span read as before. -/
theorem Memory.byte_write_other {m : Memory} (a : Nat) (d : Data) (x : Nat) (hx : x < a ∨ a + d.length ≤ x) :
    Memory.byte (Memory.write m a d) x = Memory.byte m x := by
  induction d generalizing m a with
  | nil => rfl
  | cons b bs ih =>
    simp only [List.length_cons] at hx
    simp only [Memory.write]
    rw [ih (a + 1) (by omega)]
    exact spGet_spPut_other a x b (by omega)

/-- The bytes of a written span read as written. -/
theorem Memory.byte_write_self {m : Memory} (a : Nat) (d : Data) (h : Memory.wf m = true) (i : Nat) (hi : i < d.length) :
    Memory.byte (Memory.write m a d) (a + i) = d[i] := by
  induction d generalizing m a i with
  | nil => exact absurd hi (Nat.not_lt_zero i)
  | cons b bs ih =>
    simp only [Memory.write]
    cases i with
    | zero =>
      rw [Memory.byte_write_other (a + 1) bs (a + 0) (by omega)]
      exact spGet_spPut_self (l := none) a b h
    | succ i =>
      have := ih (m := Memory.setByte m a b) (a + 1) (Memory.setByte_wf a b h) i (by simpa using hi)
      simpa [Nat.add_assoc, Nat.add_comm 1 i] using this

theorem flashWrite_wf {m : Memory} (a : Nat) (d : Data) (h : spWf flashDefault m = true) : spWf flashDefault (flashWrite m a d) = true := by
  induction d generalizing m a with
  | nil => exact h
  | cons b bs ih => exact ih (a + 1) (spPut_wf a b h)

/-! ## The register file -/

theorem rfWfFrom_weaken {l : Option Nat} {m : RegFile} (h : rfWfFrom l m = true) : rfWfFrom none m = true := by
  cases m with
  | nil => rfl
  | cons e m => simp only [rfWfFrom, Bool.and_eq_true, Bool.true_and] at h ⊢; exact ⟨h.1.2, h.2⟩

theorem rfWfFrom_lower {a b : Nat} (hab : a ≤ b) {m : RegFile} (h : rfWfFrom (some b) m = true) : rfWfFrom (some a) m = true := by
  cases m with
  | nil => rfl
  | cons e m =>
    simp only [rfWfFrom, Bool.and_eq_true, decide_eq_true_eq] at h ⊢
    exact ⟨⟨Nat.lt_of_le_of_lt hab h.1.1, h.1.2⟩, h.2⟩

theorem rfPut_wfFrom {l : Option Nat} {m : RegFile} (k : Nat) (x : U32) (hk : ∀ a, l = some a → a < k)
    (h : rfWfFrom l m = true) : rfWfFrom l (rfPut m k x) = true := by
  induction m generalizing l with
  | nil =>
    unfold rfPut
    split
    · rfl
    · cases l <;> simp_all [rfWfFrom]
  | cons e m ih =>
    obtain ⟨j, v⟩ := e
    have hb : rfWfFrom (some j) m = true := by simp only [rfWfFrom, Bool.and_eq_true] at h; exact h.2
    unfold rfPut
    split
    · rename_i hlt
      split
      · exact h
      · have hj : rfWfFrom (some k) ((j, v) :: m) = true := by
          simp only [rfWfFrom, Bool.and_eq_true, decide_eq_true_eq] at h ⊢; exact ⟨⟨hlt, h.1.2⟩, h.2⟩
        cases l <;> simp_all [rfWfFrom]
    · split
      · rename_i heq; subst heq
        split
        · cases l with
          | none => exact rfWfFrom_weaken hb
          | some a => exact rfWfFrom_lower (Nat.le_of_lt (hk a rfl)) hb
        · cases l <;> simp_all [rfWfFrom]
      · rename_i h1 h2
        have := ih (l := some j) (by intro a ha; cases ha; omega) hb
        cases l <;> simp_all [rfWfFrom]

/-- Storing a register keeps the canonical form of the register file. -/
theorem rfPut_wf {m : RegFile} (k : Nat) (x : U32) (h : rfWf m = true) : rfWf (rfPut m k x) = true :=
  rfPut_wfFrom k x (by intro a ha; cases ha) h

theorem rfFilter_wfFrom {l : Option Nat} {m : RegFile} (p : Nat × U32 → Bool) (h : rfWfFrom l m = true) :
    rfWfFrom l (m.filter p) = true := by
  induction m generalizing l with
  | nil => simp [rfWfFrom]
  | cons e m ih =>
    obtain ⟨j, v⟩ := e
    have hb : rfWfFrom (some j) m = true := by simp only [rfWfFrom, Bool.and_eq_true] at h; exact h.2
    rw [List.filter_cons]
    split
    · have := ih hb
      simp only [rfWfFrom, Bool.and_eq_true] at h ⊢; exact ⟨h.1, this⟩
    · cases l with
      | none => exact ih (rfWfFrom_weaken hb)
      | some a =>
        simp only [rfWfFrom, Bool.and_eq_true, decide_eq_true_eq] at h
        exact ih (rfWfFrom_lower (Nat.le_of_lt h.1.1) hb)

theorem rfFilter_wf {m : RegFile} (p : Nat × U32 → Bool) (h : rfWf m = true) : rfWf (m.filter p) = true := rfFilter_wfFrom p h

/-- A stored register reads back. -/
theorem rfGet_rfPut_self {l : Option Nat} {m : RegFile} (k : Nat) (x : U32) (h : rfWfFrom l m = true) : rfGet (rfPut m k x) k = x := by
  induction m generalizing l with
  | nil => unfold rfPut; split <;> simp_all [rfGet]
  | cons e m ih =>
    obtain ⟨j, v⟩ := e
    have hb : rfWfFrom (some j) m = true := by simp only [rfWfFrom, Bool.and_eq_true] at h; exact h.2
    have low : ∀ (m : RegFile) (a : Nat), rfWfFrom (some a) m = true → ∀ k, k ≤ a → rfGet m k = regReset k := by
      intro m
      induction m with
      | nil => intros; rfl
      | cons e m ih2 =>
        intro a ha k hk
        obtain ⟨i, w⟩ := e
        simp only [rfWfFrom, Bool.and_eq_true, decide_eq_true_eq] at ha
        simp only [rfGet]
        rw [if_neg (by omega)]
        exact ih2 i ha.2 k (by omega)
    unfold rfPut
    split
    · split
      · rename_i hx
        simp only [rfGet]; rw [if_neg (by omega), low m j hb k (by omega), hx]
      · simp [rfGet]
    · split
      · rename_i heq; subst heq
        split
        · rename_i hx; rw [low m k hb k (Nat.le_refl _), hx]
        · simp [rfGet]
      · rename_i h1 h2
        simp only [rfGet]; rw [if_neg h2]; exact ih hb

/-- Every other register reads as before. -/
theorem rfGet_rfPut_other {m : RegFile} (k j : Nat) (x : U32) (hj : j ≠ k) : rfGet (rfPut m k x) j = rfGet m j := by
  induction m with
  | nil => unfold rfPut; split <;> simp_all [rfGet]
  | cons e m ih =>
    obtain ⟨i, v⟩ := e
    unfold rfPut
    split
    · split <;> simp_all [rfGet]
    · split
      · rename_i heq; subst heq; split <;> simp_all [rfGet]
      · simp only [rfGet]; rw [ih]

end Sys2Proof.Laws
end

