-- ==== Sys2Proof/Laws/Kept.lean ====
section
/-! SUPPORT. What every command keeps: the canonical forms of the sparse maps, the width of the time base, the queue of waiting
commands, the fuses but for what blows, and the factory trims. -/

namespace Sys2Proof.Laws

set_option Elab.async false

open Sys2Proof.Machine Sys2Proof.Safety

/-- A state that commands may have reached from another. -/
structure Kept (s0 s : State) : Prop where
  regs : RegsCanonical s0 → RegsCanonical s
  host : Memory.wf s0.host = true → Memory.wf s.host = true
  store : Memory.wf s0.store.mem = true → Memory.wf s.store.mem = true
  flash : spWf flashDefault s0.boot.flash = true → spWf flashDefault s.boot.flash = true
  tick : s0.clk.tick < 2 ^ 64 → s.clk.tick < 2 ^ 64
  pending : s.pending = s0.pending
  fuses : FusesGrow s0.boot.fuses s.boot.fuses
  trims : factoryTrims s = factoryTrims s0

theorem FusesGrow_refl (a : Fuses) : FusesGrow a a := ⟨rfl, rfl, id, Nat.le_refl _, Nat.le_refl _, rfl, rfl⟩

theorem FusesGrow_trans {a b c : Fuses} (h : FusesGrow a b) (g : FusesGrow b c) : FusesGrow a c :=
  ⟨g.serial.trans h.serial, g.production.trans h.production, fun x => g.retired (h.retired x), Nat.le_trans h.rollback g.rollback,
   Nat.le_trans h.relock g.relock, g.keys.1.trans h.keys.1, g.keys.2.trans h.keys.2⟩

theorem Kept_refl (s : State) : Kept s s := ⟨id, id, id, id, id, rfl, FusesGrow_refl _, rfl⟩

/-- What is kept from a canonical state is canonical. -/
theorem Kept_canonical {s0 s : State} (h : Kept s0 s) (c : Canonical s0) : Canonical s :=
  ⟨h.regs c.regs, h.host c.host, h.store c.store, h.flash c.flash, h.tick c.tick⟩

/-! ## Keeping the canonical state -/

section Keep

variable {s0 s t : State}

/-- A change that touches none of this. -/
theorem kept_of (h : Kept s0 s) (h1 : t.regs = s.regs) (h2 : t.host = s.host) (h3 : t.store.mem = s.store.mem)
    (h4 : t.boot.flash = s.boot.flash) (h5 : t.clk.tick = s.clk.tick) (h6 : t.pending = s.pending := by rfl)
    (h7 : t.boot.fuses = s.boot.fuses := by rfl) (h8 : factoryTrims t = factoryTrims s := by rfl) : Kept s0 t :=
  ⟨fun x => by have := h.regs x; unfold RegsCanonical at this ⊢; rw [h1]; exact this, fun x => by rw [h2]; exact h.host x,
   fun x => by rw [h3]; exact h.store x, fun x => by rw [h4]; exact h.flash x, fun x => by rw [h5]; exact h.tick x,
   h6.trans h.pending, by rw [h7]; exact h.fuses, h8.trans h.trims⟩

/-- A change of fields that hold none of this. -/
theorem kept_with (h : Kept s0 s) {free pwr mbx evt pcie inlets tasks nextTask xcorrs tiles cs squall eddy scn tw drt link brz fynal jtag life fw} :
    Kept s0 { s with free := free, pwr := pwr, mbx := mbx, evt := evt, pcie := pcie, inlets := inlets, tasks := tasks, nextTask := nextTask, xcorrs := xcorrs, tiles := tiles, cs := cs, squall := squall, eddy := eddy, scn := scn, tw := tw, drt := drt, link := link, brz := brz, fynal := fynal, jtag := jtag, life := life, fw := fw } :=
  ⟨h.regs, h.host, h.store, h.flash, h.tick, h.pending, h.fuses, h.trims⟩

theorem id_kept (h : Kept s0 s) : Kept s0 (id s) := h

/-- The state of a pair that a match took apart. -/
theorem pair_kept {α : Type} {p : α × State} {a : α} (hp : p = (a, t)) (h : Kept s0 p.2) : Kept s0 t := by
  rw [hp] at h; exact h

theorem forL_kept {α : Type} {f : α → State → State} (l : List α) (hf : ∀ a s, Kept s0 s → Kept s0 (f a s)) (h : Kept s0 s) :
    Kept s0 (forL l f s) := by
  unfold forL
  induction l generalizing s with
  | nil => exact h
  | cons a l ih => exact ih (hf a s h)

theorem forN_kept {f : Nat → State → State} (n : Nat) (hf : ∀ a s, Kept s0 s → Kept s0 (f a s)) (h : Kept s0 s) :
    Kept s0 (forN n f s) := by
  have := forL_kept (f := f) (List.range n) hf h
  exact this

theorem foldl_kept {α : Type} {f : State → α → State} (l : List α) (hf : ∀ s a, Kept s0 s → Kept s0 (f s a)) (h : Kept s0 s) :
    Kept s0 (l.foldl f s) := by
  induction l generalizing s with
  | nil => exact h
  | cons a l ih => exact ih (hf s a h)

theorem foldPair_kept {α β : Type} {f : β × State → α → β × State} {z : β × State} (l : List α)
    (hf : ∀ p a, Kept s0 p.2 → Kept s0 (f p a).2) (h : Kept s0 z.2) : Kept s0 (l.foldl f z).2 := by
  induction l generalizing z with
  | nil => exact h
  | cons a l ih => exact ih (hf z a h)

/-- Dropping registers from the register file keeps the canonical state. -/
theorem regsFilter_kept (p : Nat × U32 → Bool) (h : Kept s0 s) : Kept s0 { s with regs := s.regs.filter p } :=
  ⟨fun x => rfFilter_wf p (h.regs x), h.host, h.store, h.flash, h.tick, h.pending, h.fuses, h.trims⟩

theorem State_setReg_kept (k : Nat) (v : U32) (h : Kept s0 s) : Kept s0 (s.setReg k v) :=
  ⟨fun x => rfPut_wf k v (h.regs x), h.host, h.store, h.flash, h.tick, h.pending, h.fuses, h.trims⟩

theorem pass_kept (n : Nat) (h : Kept s0 s) : Kept s0 (pass n s) :=
  ⟨h.regs, h.host, h.store, h.flash, fun _ => Nat.mod_lt _ (by decide), h.pending, h.fuses, h.trims⟩

end Keep

end Sys2Proof.Laws
end

