-- ==== Sys2Proof/Laws/KeptOps.lean ====
section
/-! SUPPORT. The operations of Machine/Ops.lean keep what every command keeps. -/

namespace Sys2Proof.Laws

set_option Elab.async false

open Sys2Proof.Machine

variable {s0 : State}

theorem waitUp_kept (up : Nat) (s : State) (h : Kept s0 s) :
    Kept s0 (waitUp up s) := by
  unfold waitUp
  apply pass_kept
  exact h

theorem waitTick_kept (t : Nat) (s : State) (h : Kept s0 s) :
    Kept s0 (waitTick t s) := by
  unfold waitTick
  apply pass_kept
  exact h

theorem idleTick_kept (s : State) (h : Kept s0 s) :
    Kept s0 (idleTick s) := by
  unfold idleTick
  apply pass_kept
  exact h

theorem setSynth_kept (k : Nat) (f : Synth → Synth) (s : State) (h : Kept s0 s) :
    Kept s0 (setSynth k f s) := by
  unfold setSynth
  exact kept_of h rfl rfl rfl rfl rfl

theorem startSynth_kept (k : Nat) (s : State) (h : Kept s0 s) :
    Kept s0 (startSynth k s) := by
  unfold startSynth
  apply setSynth_kept
  exact h

theorem waitLock_kept (k : Fin 11) (s : State) (h : Kept s0 s) :
    Kept s0 (waitLock k s) := by
  unfold waitLock
  apply waitUp_kept
  exact h

theorem takeFree_kept (s : State) (h : Kept s0 s) :
    Kept s0 (takeFree s).2 := by
  unfold takeFree
  dsimp -zeta only
  exact kept_with h

theorem freeBytes_kept (n : Nat) (s : State) (h : Kept s0 s) :
    Kept s0 (freeBytes n s).2 := by
  unfold freeBytes
  dsimp -zeta only
  exact kept_with h

theorem mixBytes_kept (old new : Data) (s : State) (h : Kept s0 s) :
    Kept s0 (mixBytes old new s).2 := by
  unfold mixBytes
  dsimp -zeta only
  exact kept_with h

end Sys2Proof.Laws
end

