-- ==== Sys2Proof/Laws/KeptRegs.lean ====
section
/-! SUPPORT. The operations of Machine/Regs.lean keep what every command keeps. -/

namespace Sys2Proof.Laws

set_option Elab.async false

open Sys2Proof.Machine

variable {s0 : State}

theorem State_setRegN_kept (s : State) (k : Nat) (v : Nat) (h : Kept s0 s) :
    Kept s0 (State.setRegN s k v) := by
  unfold State.setRegN
  apply State_setReg_kept
  exact h

theorem State_setReg64_kept (s : State) (kLo kHi v : Nat) (h : Kept s0 s) :
    Kept s0 (State.setReg64 s kLo kHi v) := by
  unfold State.setReg64
  apply State_setRegN_kept
  apply State_setRegN_kept
  exact h

theorem State_setMask_kept (s : State) (k : Nat) (mask v : U32) (h : Kept s0 s) :
    Kept s0 (State.setMask s k mask v) := by
  unfold State.setMask
  apply State_setReg_kept
  exact h

theorem State_setField_kept (s : State) (k hi lo v : Nat) (h : Kept s0 s) :
    Kept s0 (State.setField s k hi lo v) := by
  unfold State.setField
  apply State_setMask_kept
  exact h

theorem State_countWrap_kept (s : State) (k n : Nat) (h : Kept s0 s) :
    Kept s0 (State.countWrap s k n) := by
  unfold State.countWrap
  apply State_setReg_kept
  exact h

theorem State_countSat_kept (s : State) (k n : Nat) (h : Kept s0 s) :
    Kept s0 (State.countSat s k n) := by
  unfold State.countSat
  apply State_setRegN_kept
  exact h

end Sys2Proof.Laws
end

