-- ==== Sys2Proof/Laws/KeptLinkOps.lean ====
section
/-! SUPPORT. The operations of Machine/LinkOps.lean keep what every command keeps. -/

namespace Sys2Proof.Laws

set_option Elab.async false

open Sys2Proof.Machine

variable {s0 : State}

theorem setPort_kept (n : Fin 4) (f : Port → Port) (s : State) (h : Kept s0 s) :
    Kept s0 (setPort n f s) := by
  unfold setPort
  exact kept_with h

theorem pumpPort_kept (n : Fin 4) (s : State) (h : Kept s0 s) :
    Kept s0 (pumpPort n s) := by
  unfold pumpPort
  apply setPort_kept
  exact h

theorem sendOn_kept (n : Fin 4) (p : Packet) (s : State) (h : Kept s0 s) :
    Kept s0 (sendOn n p s) := by
  unfold sendOn
  split
  · apply pumpPort_kept
    apply setPort_kept
    exact h
  · exact h

theorem discardPacket_kept (s : State) (h : Kept s0 s) :
    Kept s0 (discardPacket s) := by
  unfold discardPacket
  exact kept_with h

theorem send_kept (p : Packet) (s : State) (h : Kept s0 s) :
    Kept s0 (send p s) := by
  unfold send
  split
  · apply sendOn_kept
    exact h
  · apply discardPacket_kept
    exact h

theorem broadcast_kept (skip : Option (Fin 4)) (p : Packet) (s : State) (h : Kept s0 s) :
    Kept s0 (broadcast skip p s) := by
  unfold broadcast
  apply forL_kept
  · intro x6 x7 h8
    split
    · exact h8
    · apply sendOn_kept
      exact h8
  · exact h

theorem received_kept (n : Fin 4) (p : Packet) (f : State → State) (s : State) (hf : ∀ s, Kept s0 s → Kept s0 (f s)) (h : Kept s0 s) :
    Kept s0 (received n p f s) := by
  unfold received
  extract_lets +onlyGivenNames y8
  clear_value y8
  split
  · split
    · apply hf
      exact h
    · exact h
  · split
    · apply hf
      exact h
    · exact h

theorem admitFlow_kept {owner : Owner} {did tx rx : Nat} {s t : State} (h : Kept s0 s) (ht : admitFlow owner did tx rx s = some t) :
    Kept s0 t := by
  unfold admitFlow at ht
  split at ht
  · split at ht
    · cases ht; exact kept_of h rfl rfl rfl rfl rfl
    · cases ht
  · cases ht

theorem releaseFlow_kept (owner : Owner) (s : State) (h : Kept s0 s) :
    Kept s0 (releaseFlow owner s) := by
  unfold releaseFlow
  exact kept_with h

theorem sendBulk_kept (subtype did addr info : Nat) (d : Data) (s : State) (h : Kept s0 s) :
    Kept s0 (sendBulk subtype did addr info d s) := by
  unfold sendBulk
  extract_lets +onlyGivenNames y9
  clear_value y9
  apply forN_kept
  · intro x10 x11 h12
    apply send_kept
    exact h12
  · exact h

end Sys2Proof.Laws
end

