-- ==== Sys2Proof/Laws/KeptFlags.lean ====
section
/-! SUPPORT. The operations of Machine/Flags.lean keep what every command keeps. -/

namespace Sys2Proof.Laws

set_option Elab.async false

open Sys2Proof.Machine

variable {s0 : State}

theorem setPcie_kept (f : Pcie → Pcie) (s : State) (h : Kept s0 s) :
    Kept s0 (setPcie f s) := by
  unfold setPcie
  exact kept_with h

theorem setCfg_kept (o : Nat) (v : U32) (s : State) (h : Kept s0 s) :
    Kept s0 (setCfg o v s) := by
  unfold setCfg
  apply setPcie_kept
  exact h

theorem hostWrite_kept {s : State} (a : Nat) (d : Data) (h : Kept s0 s) : Kept s0 (hostWrite a d s) := by
  unfold hostWrite
  split
  · exact ⟨h.regs, fun x => Memory.write_wf a d (h.host x), h.store, h.flash, h.tick, h.pending, h.fuses, h.trims⟩
  · exact h

theorem hostData_kept (relaxed noSnoop : Bool) (a : Nat) (d : Data) (s : State) (h : Kept s0 s) :
    Kept s0 (hostData relaxed noSnoop a d s) := by
  unfold hostData
  apply hostWrite_kept
  apply setPcie_kept
  exact h

theorem sendVector_kept (v : Nat) (s : State) (h : Kept s0 s) :
    Kept s0 (sendVector v s) := by
  unfold sendVector
  exact kept_with h

theorem signalVector_kept (v : Nat) (s : State) (h : Kept s0 s) :
    Kept s0 (signalVector v s) := by
  unfold signalVector
  split
  · exact h
  · split
    · apply State_setField_kept
      exact h
    · apply sendVector_kept
      exact h

theorem setCplq_kept (n : Fin 8) (f : OutQueue → OutQueue) (s : State) (h : Kept s0 s) :
    Kept s0 (setCplq n f s) := by
  unfold setCplq
  exact kept_with h

theorem setEvq_kept (n : Fin 4) (f : OutQueue → OutQueue) (s : State) (h : Kept s0 s) :
    Kept s0 (setEvq n f s) := by
  unfold setEvq
  exact kept_with h

theorem setCmdq_kept (n : Fin 8) (f : CmdQueue → CmdQueue) (s : State) (h : Kept s0 s) :
    Kept s0 (setCmdq n f s) := by
  unfold setCmdq
  exact kept_with h

theorem evqPut_kept (n : Fin 4) (e : Event) (vector : Nat) (s : State) (h : Kept s0 s) :
    Kept s0 (evqPut n e vector s) := by
  unfold evqPut
  extract_lets +onlyGivenNames y7
  clear_value y7
  extract_lets +onlyGivenNames y8
  have hy8 : Kept s0 y8 := by
    subst y8
    apply hostWrite_kept
    exact h
  clear_value y8
  extract_lets +onlyGivenNames y10
  have hy10 : Kept s0 y10 := by
    subst y10
    apply setEvq_kept
    exact hy8
  clear_value y10
  extract_lets +onlyGivenNames y12
  have hy12 : Kept s0 y12 := by
    subst y12
    split
    · exact hy10
    · apply signalVector_kept
      exact hy10
  clear_value y12
  split
  · apply signalVector_kept
    apply setEvq_kept
    exact hy12
  · exact hy12

theorem setEventStatus_kept (ev tick : Nat) (s : State) (h : Kept s0 s) :
    Kept s0 (setEventStatus ev tick s) := by
  unfold setEventStatus
  extract_lets +onlyGivenNames y6
  clear_value y6
  split
  · exact h
  · extract_lets +onlyGivenNames y8
    have hy8 : Kept s0 y8 := by
      subst y8
      apply State_setField_kept
      exact h
    clear_value y8
    extract_lets +onlyGivenNames y10
    have hy10 : Kept s0 y10 := by
      subst y10
      apply State_countWrap_kept
      exact hy8
    clear_value y10
    split
    · apply State_setReg64_kept
      apply State_setField_kept
      exact hy10
    · exact hy10

theorem evqLost_kept (n : Fin 4) (k : Nat) (s : State) (h : Kept s0 s) :
    Kept s0 (evqLost n k s) := by
  unfold evqLost
  apply State_countSat_kept
  exact h

theorem evqResume_kept (n : Fin 4) (s : State) (h : Kept s0 s) :
    Kept s0 (evqResume n s) := by
  unfold evqResume
  extract_lets +onlyGivenNames y5
  clear_value y5
  split
  · apply setEvq_kept
    apply setEventStatus_kept
    apply evqPut_kept
    exact h
  · exact h

theorem evqDeliver_kept (n : Fin 4) (e : Event) (vector : Nat) (s : State) (h : Kept s0 s) :
    Kept s0 (evqDeliver n e vector s).2 := by
  unfold evqDeliver
  extract_lets +onlyGivenNames y7
  have hy7 : Kept s0 y7 := by
    subst y7
    apply evqResume_kept
    exact h
  clear_value y7
  extract_lets +onlyGivenNames y9
  clear_value y9
  split
  · dsimp -zeta only
    apply evqLost_kept
    apply setEvq_kept
    exact hy7
  · split
    · dsimp -zeta only
      apply evqPut_kept
      exact hy7
    · extract_lets +onlyGivenNames y12
      have hy12 : Kept s0 y12 := by
        subst y12
        apply setEventStatus_kept
        apply evqPut_kept
        exact hy7
      clear_value y12
      dsimp -zeta only
      apply evqLost_kept
      apply setEvq_kept
      exact hy12

theorem evqLog_kept (n : Fin 4) (e : Event) (s : State) (h : Kept s0 s) :
    Kept s0 (evqLog n e s) := by
  unfold evqLog
  extract_lets +onlyGivenNames y6
  clear_value y6
  split
  · exact kept_with h
  · exact kept_with h

theorem evqAccept_kept (n : Fin 4) (e : Event) (vector : Nat) (s : State) (h : Kept s0 s) :
    Kept s0 (evqAccept n e vector s).2 := by
  unfold evqAccept
  split
  · apply evqDeliver_kept
    exact h
  · dsimp -zeta only
    apply evqLog_kept
    exact h

theorem forwardEvent_kept (did : Nat) (r : EventRoute) (e : Event) (s : State) (h : Kept s0 s) :
    Kept s0 (forwardEvent did r e s) := by
  unfold forwardEvent
  extract_lets +onlyGivenNames y7
  clear_value y7
  apply send_kept
  exact h

theorem routeEvent_kept (e : Event) (s : State) (h : Kept s0 s) :
    Kept s0 (routeEvent e s).2 := by
  unfold routeEvent
  extract_lets +onlyGivenNames y5
  clear_value y5
  split
  · split
    · exact h
    · dsimp -zeta only
      apply forwardEvent_kept
      exact h
  · split
    · apply evqAccept_kept
      exact h
    · exact h

theorem raiseW_kept (ev tick weight weight2 : Nat) (vals : List Val) (s : State) (h : Kept s0 s) :
    Kept s0 (raiseW ev tick weight weight2 vals s) := by
  unfold raiseW
  extract_lets +onlyGivenNames y9
  have hy9 : Kept s0 y9 := by
    subst y9
    apply setEventStatus_kept
    exact h
  clear_value y9
  extract_lets +onlyGivenNames y11
  clear_value y11
  extract_lets +onlyGivenNames y12
  clear_value y12
  extract_lets +onlyGivenNames y13
  clear_value y13
  extract_lets +onlyGivenNames y14
  clear_value y14
  extract_lets +onlyGivenNames y15
  clear_value y15
  extract_lets +onlyGivenNames y16
  have hy16 : Kept s0 y16 := by
    subst y16
    exact kept_with hy9
  clear_value y16
  extract_lets +onlyGivenNames y18
  clear_value y18
  extract_lets +onlyGivenNames y19
  clear_value y19
  extract_lets +onlyGivenNames y20
  have hy20 : Kept s0 y20 := by
    subst y20
    split
    · exact kept_with hy16
    · exact hy16
  clear_value y20
  extract_lets +onlyGivenNames y22
  clear_value y22
  split
  · exact hy20
  · extract_lets +onlyGivenNames y24
    have hy24 : Kept s0 y24.2 := by
      subst y24
      apply routeEvent_kept
      exact hy20
    clear_value y24
    split
    · extract_lets +onlyGivenNames y27
      have hy27 : Kept s0 y27 := by
        subst y27
        exact hy24
      clear_value y27
      exact kept_with hy27
    · exact hy24

theorem raiseAt_kept (ev tick : Nat) (vals : List Val) (s : State) (h : Kept s0 s) :
    Kept s0 (raiseAt ev tick vals s) := by
  unfold raiseAt
  apply raiseW_kept
  exact h

theorem raise_kept (ev : Nat) (vals : List Val) (s : State) (h : Kept s0 s) :
    Kept s0 (raise ev vals s) := by
  unfold raise
  apply raiseW_kept
  exact h

theorem deliverLog_kept (n : Fin 4) (s : State) (h : Kept s0 s) :
    Kept s0 (deliverLog n s) := by
  unfold deliverLog
  extract_lets +onlyGivenNames y5
  clear_value y5
  extract_lets +onlyGivenNames y6
  clear_value y6
  extract_lets +onlyGivenNames y7
  clear_value y7
  extract_lets +onlyGivenNames y8
  have hy8 : Kept s0 y8 := by
    subst y8
    exact kept_with h
  clear_value y8
  extract_lets +onlyGivenNames y10
  have hy10 : Kept s0 y10 := by
    subst y10
    split
    · exact hy8
    · apply evqLost_kept
      apply evqDeliver_kept
      apply setEventStatus_kept
      exact hy8
  clear_value y10
  apply forL_kept
  · intro x12 x13 h14
    apply evqDeliver_kept
    exact h14
  · exact hy10

theorem aerLog_kept (n : Nat) (s : State) (h : Kept s0 s) :
    Kept s0 (aerLog n s) := by
  unfold aerLog
  extract_lets +onlyGivenNames y5
  have hy5 : Kept s0 y5 := by
    subst y5
    apply setCfg_kept
    exact h
  clear_value y5
  extract_lets +onlyGivenNames y7
  clear_value y7
  split
  · exact hy5
  · extract_lets +onlyGivenNames y9
    clear_value y9
    apply raise_kept
    apply setCfg_kept
    apply setCfg_kept
    exact hy5

theorem badWrite_kept (s : State) (h : Kept s0 s) :
    Kept s0 (badWrite s) := by
  unfold badWrite
  apply raiseW_kept
  apply State_countSat_kept
  exact h

theorem refusedWrite_kept (s : State) (h : Kept s0 s) :
    Kept s0 (refusedWrite s) := by
  unfold refusedWrite
  apply badWrite_kept
  apply aerLog_kept
  exact h

theorem refuseBar4_kept (s : State) (h : Kept s0 s) :
    Kept s0 (refuseBar4 s) := by
  unfold refuseBar4
  apply raiseW_kept
  apply State_countSat_kept
  exact h

end Sys2Proof.Laws
end

