-- ==== Sys2Proof/Laws/KeptOperands.lean ====
section
/-! SUPPORT. The operations of Machine/Operands.lean keep what every command keeps. -/

namespace Sys2Proof.Laws

set_option Elab.async false

open Sys2Proof.Machine

variable {s0 : State}

theorem dropCmd_kept (id : Nat) (s : State) (h : Kept s0 s) :
    Kept s0 (dropCmd id s) := by
  unfold dropCmd
  exact kept_with h

theorem setCmd_kept (id : Nat) (f : Cmd → Cmd) (s : State) (h : Kept s0 s) :
    Kept s0 (setCmd id f s) := by
  unfold setCmd
  exact kept_with h

theorem cplqWrite_kept (q n : Fin 8) (noIrq : Bool) (tag status r0 r1 aux : Nat) (s : State) (h : Kept s0 s) :
    Kept s0 (cplqWrite q n noIrq tag status r0 r1 aux s) := by
  unfold cplqWrite
  extract_lets +onlyGivenNames y12
  clear_value y12
  split
  · apply State_countSat_kept
    exact h
  · extract_lets +onlyGivenNames y14
    clear_value y14
    extract_lets +onlyGivenNames y15
    have hy15 : Kept s0 y15 := by
      subst y15
      apply hostWrite_kept
      exact h
    clear_value y15
    split
    · apply setCplq_kept
      exact hy15
    · extract_lets +onlyGivenNames y18
      have hy18 : Kept s0 y18 := by
        subst y18
        apply setCplq_kept
        exact hy15
      clear_value y18
      split
      · apply signalVector_kept
        apply setCplq_kept
        exact hy18
      · exact hy18

theorem complete_kept (c : Cmd) (status r0 r1 aux : Nat) (s : State) (h : Kept s0 s) :
    Kept s0 (complete c status r0 r1 aux s) := by
  unfold complete
  extract_lets +onlyGivenNames y9
  clear_value y9
  extract_lets +onlyGivenNames y10
  have hy10 : Kept s0 y10 := by
    subst y10
    apply dropCmd_kept
    exact h
  clear_value y10
  split
  · apply cplqWrite_kept
    exact hy10
  · extract_lets +onlyGivenNames y18
    clear_value y18
    apply send_kept
    exact hy10

theorem done_kept (c : Cmd) (r0 r1 : Nat) (s : State) (h : Kept s0 s) :
    Kept s0 (done c r0 r1 s) := by
  unfold done
  apply complete_kept
  exact h

theorem fail_kept (c : Cmd) (f : Nat × Nat) (s : State) (h : Kept s0 s) :
    Kept s0 (fail c f s) := by
  unfold fail
  apply complete_kept
  exact h

theorem writeBlock_kept (c : Cmd) (a : Nat) (d : Data) (s : State) (h : Kept s0 s) :
    Kept s0 (writeBlock c a d s) := by
  unfold writeBlock
  split
  · apply hostWrite_kept
    exact h
  · apply setCmd_kept
    exact h

theorem wait_kept (c : Cmd) (s : State) (h : Kept s0 s) :
    Kept s0 (wait c s) := by
  unfold wait
  apply setCmd_kept
  exact h

theorem runCmd_kept (id opcode : Nat) (sel : Cmd → Bool) (body : Cmd → State → State) (s : State) (hbody : ∀ a0 s, Kept s0 s → Kept s0 (body a0 s)) (h : Kept s0 s) :
    Kept s0 (runCmd id opcode sel body s) := by
  unfold runCmd
  split
  · split
    · apply hbody
      exact h
    · exact h
  · exact h

theorem checked_kept (c : Cmd) (checks : List Check) (ok : State → State) (s : State) (hok : ∀ s, Kept s0 s → Kept s0 (ok s)) (h : Kept s0 s) :
    Kept s0 (checked c checks ok s) := by
  unfold checked
  split
  · apply fail_kept
    exact h
  · apply hok
    exact h

theorem withBuffer_kept (c : Cmd) (r : HostRead) (ok : Data → State → State) (s : State) (hok : ∀ a0 s, Kept s0 s → Kept s0 (ok a0 s)) (h : Kept s0 s) :
    Kept s0 (withBuffer c r ok s) := by
  unfold withBuffer
  split
  · apply hok
    exact h
  · apply complete_kept
    exact h

end Sys2Proof.Laws
end

