-- ==== Sys2Proof/Laws/KeptPowerOps.lean ====
section
/-! SUPPORT. The operations of Machine/PowerOps.lean keep what every command keeps. -/

namespace Sys2Proof.Laws

set_option Elab.async false

open Sys2Proof.Machine

variable {s0 : State}

theorem setPower_kept (f : Power → Power) (s : State) (h : Kept s0 s) :
    Kept s0 (setPower f s) := by
  unfold setPower
  exact kept_with h

theorem grantItems_kept (owner : Owner) (items : List (Nat × Nat)) (s : State) (h : Kept s0 s) :
    Kept s0 (grantItems owner items s) := by
  unfold grantItems
  apply setPower_kept
  exact h

theorem denyPower_kept (tag : U32) (units : Nat) (s : State) (h : Kept s0 s) :
    Kept s0 (denyPower tag units s) := by
  unfold denyPower
  apply raise_kept
  apply setPower_kept
  exact h

theorem queuePower_kept (r : PowerReq) (s : State) (h : Kept s0 s) :
    Kept s0 (queuePower r s) := by
  unfold queuePower
  apply raise_kept
  apply setPower_kept
  exact h

theorem requestPower_kept (c : Cmd) (owner : Owner) (items : List (Nat × Nat)) (s : State) (h : Kept s0 s) :
    Kept s0 (requestPower c owner items s).2 := by
  unfold requestPower
  extract_lets +onlyGivenNames y7
  clear_value y7
  split
  · dsimp -zeta only
    apply denyPower_kept
    exact h
  · split
    · dsimp -zeta only
      apply grantItems_kept
      exact h
    · split
      · dsimp -zeta only
        apply setPower_kept
        exact h
      · split
        · exact h
        · dsimp -zeta only
          apply queuePower_kept
          exact h

theorem requestInternal_kept (tag : Nat) (owner : Owner) (items : List (Nat × Nat)) (s : State) (h : Kept s0 s) :
    Kept s0 (requestInternal tag owner items s).2 := by
  unfold requestInternal
  extract_lets +onlyGivenNames y7
  clear_value y7
  split
  · dsimp -zeta only
    apply denyPower_kept
    exact h
  · split
    · dsimp -zeta only
      apply grantItems_kept
      exact h
    · split
      · dsimp -zeta only
        apply denyPower_kept
        exact h
      · dsimp -zeta only
        apply queuePower_kept
        exact h

theorem releasePower_kept (owner : Owner) (s : State) (h : Kept s0 s) :
    Kept s0 (releasePower owner s) := by
  unfold releasePower
  apply setPower_kept
  exact h

theorem afterPower_kept (c : Cmd) (units : Nat) (r : PowerOutcome × State) (granted queued released : State → State) (hr : Kept s0 r.2) (hgranted : ∀ s, Kept s0 s → Kept s0 (granted s)) (hqueued : ∀ s, Kept s0 s → Kept s0 (queued s)) (hreleased : ∀ s, Kept s0 s → Kept s0 (released s)) :
    Kept s0 (afterPower c units r granted queued released) := by
  unfold afterPower
  split
  · apply hgranted
    exact hr
  · apply hqueued
    apply wait_kept
    exact hr
  · apply complete_kept
    apply hreleased
    exact hr
  · apply complete_kept
    apply hreleased
    exact hr
  · apply complete_kept
    apply hreleased
    exact hr

theorem addReservations_kept (owner : Owner) (items : List (Nat × Nat)) (s : State) (h : Kept s0 s) :
    Kept s0 (addReservations owner items s) := by
  unfold addReservations
  exact kept_of h rfl rfl rfl rfl rfl

theorem reserveStore_kept {owner : Owner} {items : List (Nat × Nat)} {s t : State} (h : Kept s0 s)
    (ht : reserveStore owner items s = some t) : Kept s0 t := by
  unfold reserveStore at ht
  extract_lets y at ht
  split at ht
  · rw [← Option.some.inj ht]; exact addReservations_kept owner items s h
  · cases ht

theorem ifAdmitted_kept (r : Option State) (short : State) (go : State → State) (hr : ∀ s, r = some s → Kept s0 s)
    (h : Kept s0 short) (hgo : ∀ s, Kept s0 s → Kept s0 (go s)) : Kept s0 (ifAdmitted r short go) := by
  unfold ifAdmitted
  split
  · exact hgo _ (hr _ rfl)
  · exact h

theorem releaseStore_kept (owner : Owner) (s : State) (h : Kept s0 s) :
    Kept s0 (releaseStore owner s) := by
  unfold releaseStore
  exact kept_of h rfl rfl rfl rfl rfl

theorem releaseAll_kept (owner : Owner) (s : State) (h : Kept s0 s) :
    Kept s0 (releaseAll owner s) := by
  unfold releaseAll
  apply releasePower_kept
  apply releaseStore_kept
  exact h

end Sys2Proof.Laws
end

