-- ==== Sys2Proof/Laws/KeptLifeOps.lean ====
section
/-! SUPPORT. The operations of Machine/LifeOps.lean keep what every command keeps. -/

namespace Sys2Proof.Laws

set_option Elab.async false

open Sys2Proof.Machine

variable {s0 : State}

theorem setBoot_kept {s : State} {f : Boot → Boot} (hf : (f s.boot).flash = s.boot.flash) (hg : (f s.boot).fuses = s.boot.fuses) (h : Kept s0 s) : Kept s0 (setBoot f s) :=
  kept_of h rfl rfl rfl hf rfl rfl hg

theorem program_kept {s : State} (a : Nat) (d : Data) (h : Kept s0 s) : Kept s0 (program a d s) :=
  ⟨h.regs, h.host, h.store, fun x => flashWrite_wf a d (h.flash x), h.tick, h.pending, h.fuses, h.trims⟩

theorem erase_kept (a n : Nat) (s : State) (h : Kept s0 s) : Kept s0 (erase a n s) :=
  ⟨h.regs, h.host, h.store, fun x => spFilter_wf _ (h.flash x), h.tick, h.pending, h.fuses, h.trims⟩

theorem setLife_kept (f : Life → Life) (s : State) (h : Kept s0 s) :
    Kept s0 (setLife f s) := by
  unfold setLife
  exact kept_with h

end Sys2Proof.Laws
end

