-- ==== Sys2Proof/Laws/KeptStoreOps.lean ====
section
/-! SUPPORT. The operations of Machine/StoreOps.lean keep what every command keeps. -/

namespace Sys2Proof.Laws

set_option Elab.async false

open Sys2Proof.Machine

variable {s0 : State}

theorem setStore_kept {s : State} {f : Store → Store} (hf : (f s.store).mem = s.store.mem) (h : Kept s0 s) : Kept s0 (setStore f s) :=
  kept_of h rfl rfl hf rfl rfl

theorem countPoisoned_kept (n : Nat) (s : State) (h : Kept s0 s) :
    Kept s0 (countPoisoned n s) := by
  unfold countPoisoned
  exact kept_with h

theorem scramble_kept (a n : Nat) (version : Option Nat) (s : State) (h : Kept s0 s) : Kept s0 (scramble a n version s) :=
  ⟨h.regs, h.host, fun x => spFilter_wf _ (h.store x), h.flash, h.tick, h.pending, h.fuses, h.trims⟩

theorem scrambleHistory_kept (s : State) (h : Kept s0 s) :
    Kept s0 (scrambleHistory s) := by
  unfold scrambleHistory
  split
  · split
    · exact h
    · apply scramble_kept
      exact h
  · exact h

theorem poisonSpan_kept (a n rq : Nat) (s : State) (h : Kept s0 s) :
    Kept s0 (poisonSpan a n rq s) := by
  unfold poisonSpan
  split
  · apply scramble_kept
    exact kept_with h
  · extract_lets +onlyGivenNames y8
    clear_value y8
    extract_lets +onlyGivenNames y9
    have hy9 : Kept s0 y9 := by
      subst y9
      apply countPoisoned_kept
      apply setStore_kept
      · rfl
      · exact h
    clear_value y9
    apply forL_kept
    · intro x11 x12 h13
      apply raise_kept
      exact h13
    · exact hy9

theorem storeWrite_kept {s : State} (a : Nat) (d : Data) (h : Kept s0 s) : Kept s0 (storeWrite a d s) :=
  ⟨h.regs, h.host, fun x => Memory.write_wf a d (h.store x), h.flash, h.tick, h.pending, h.fuses, h.trims⟩

theorem setInlet_kept (n : Fin 4) (f : Inlet → Inlet) (s : State) (h : Kept s0 s) :
    Kept s0 (setInlet n f s) := by
  unfold setInlet
  exact kept_with h

theorem mergeClosest_kept (n : Fin 4) (s : State) (h : Kept s0 s) :
    Kept s0 (mergeClosest n s) := by
  unfold mergeClosest
  extract_lets +onlyGivenNames y5
  clear_value y5
  split
  · extract_lets +onlyGivenNames y12
    clear_value y12
    extract_lets +onlyGivenNames y13
    clear_value y13
    extract_lets +onlyGivenNames y14
    have hy14 : Kept s0 y14 := by
      subst y14
      apply setInlet_kept
      exact h
    clear_value y14
    extract_lets +onlyGivenNames y16
    have hy16 : Kept s0 y16 := by
      subst y16
      apply setStore_kept
      · rfl
      · exact hy14
    clear_value y16
    apply raiseAt_kept
    exact hy16
  · exact h

theorem mergeHoles_kept (n : Fin 4) (s : State) (h : Kept s0 s) :
    Kept s0 (mergeHoles n s) := by
  unfold mergeHoles
  apply foldl_kept
  · intro x5 x6 h7
    apply mergeClosest_kept
    exact h7
  · exact h

theorem enterHole_kept (n : Fin 4) (start stop cause : Nat) (s : State) (h : Kept s0 s) :
    Kept s0 (enterHole n start stop cause s) := by
  unfold enterHole
  split
  · exact h
  · extract_lets +onlyGivenNames y9
    clear_value y9
    extract_lets +onlyGivenNames y10
    clear_value y10
    extract_lets +onlyGivenNames y11
    clear_value y11
    extract_lets +onlyGivenNames y12
    clear_value y12
    extract_lets +onlyGivenNames y13
    have hy13 : Kept s0 y13 := by
      subst y13
      apply setInlet_kept
      apply scrambleHistory_kept
      exact h
    clear_value y13
    apply mergeHoles_kept
    apply forL_kept
    · intro x15 x16 h17
      apply raiseAt_kept
      exact h17
    · exact hy13

end Sys2Proof.Laws
end

