-- ==== Sys2Proof/Laws/KeptStreamOps.lean ====
section
/-! SUPPORT. The operations of Machine/StreamOps.lean keep what every command keeps. -/

namespace Sys2Proof.Laws

set_option Elab.async false

open Sys2Proof.Machine

variable {s0 : State}

theorem setStream_kept (n : Fin 16) (f : Stream → Stream) (s : State) (h : Kept s0 s) :
    Kept s0 (setStream n f s) := by
  unfold setStream
  exact kept_with h

theorem enqueueRecord_kept (n : Fin 16) (producer : Nat) (rec_ : Data) (addr : Option Nat) (stop : Nat) (s : State) (h : Kept s0 s) :
    Kept s0 (enqueueRecord n producer rec_ addr stop s) := by
  unfold enqueueRecord
  apply setStream_kept
  exact h

theorem flushGap_kept (n : Fin 16) (producer : Nat) (s : State) (h : Kept s0 s) :
    Kept s0 (flushGap n producer s) := by
  unfold flushGap
  split
  · extract_lets +onlyGivenNames y11
    have hy11 : Kept s0 y11 := by
      subst y11
      apply setStream_kept
      exact h
    clear_value y11
    apply enqueueRecord_kept
    exact hy11
  · exact h

theorem discardRecord_kept (n : Fin 16) (producer : Nat) (rec_ : Data) (tEnd : Nat) (s : State) (h : Kept s0 s) :
    Kept s0 (discardRecord n producer rec_ tEnd s) := by
  unfold discardRecord
  extract_lets +onlyGivenNames y8
  clear_value y8
  extract_lets +onlyGivenNames y9
  clear_value y9
  extract_lets +onlyGivenNames y10
  clear_value y10
  extract_lets +onlyGivenNames y11
  clear_value y11
  extract_lets +onlyGivenNames y12
  clear_value y12
  extract_lets +onlyGivenNames y13
  have hy13 : Kept s0 y13 := by
    subst y13
    apply setStream_kept
    exact h
  clear_value y13
  apply raise_kept
  exact hy13

theorem offerRecord_kept (n : Fin 16) (producer : Nat) (rec_ : Data) (tEnd : Nat) (addr : Option Nat) (room : Bool) (s : State) (h : Kept s0 s) :
    Kept s0 (offerRecord n producer rec_ tEnd addr room s) := by
  unfold offerRecord
  extract_lets +onlyGivenNames y10
  clear_value y10
  split
  · apply setStream_kept
    exact h
  · split
    · exact h
    · split
      · apply discardRecord_kept
        exact h
      · extract_lets +onlyGivenNames y14
        have hy14 : Kept s0 y14 := by
          subst y14
          apply flushGap_kept
          exact h
        clear_value y14
        apply enqueueRecord_kept
        exact hy14

theorem publish_kept (stream producer : Nat) (rec_ : Data) (tEnd : Nat) (addr : Option Nat) (room : Bool) (s : State) (h : Kept s0 s) :
    Kept s0 (publish stream producer rec_ tEnd addr room s) := by
  unfold publish
  split
  · apply offerRecord_kept
    exact h
  · exact h

theorem overwriteRecords_kept (a n : Nat) (s : State) (h : Kept s0 s) :
    Kept s0 (overwriteRecords a n s) := by
  unfold overwriteRecords
  exact kept_with h

theorem publishSpectra_kept (stream producer : Nat) (rec_ : Data) (tEnd : Nat) (s : State) (h : Kept s0 s) :
    Kept s0 (publishSpectra stream producer rec_ tEnd s) := by
  unfold publishSpectra
  split
  · extract_lets +onlyGivenNames y18
    have hy18 : Kept s0 y18 := by
      subst y18
      apply setStore_kept
      · rfl
      · apply storeWrite_kept
        apply overwriteRecords_kept
        exact h
    clear_value y18
    apply publish_kept
    exact hy18
  · apply publish_kept
    exact h

theorem beginClose_kept (n : Fin 16) (reason : Nat) (cmd : Option Nat) (s : State) (h : Kept s0 s) :
    Kept s0 (beginClose n reason cmd s) := by
  unfold beginClose
  extract_lets +onlyGivenNames y7
  clear_value y7
  split
  · exact h
  · extract_lets +onlyGivenNames y9
    have hy9 : Kept s0 y9 := by
      subst y9
      apply forL_kept
      · intro x9 x10 h11
        apply flushGap_kept
        exact h11
      · exact h
    clear_value y9
    extract_lets +onlyGivenNames y11
    clear_value y11
    extract_lets +onlyGivenNames y12
    have hy12 : Kept s0 y12 := by
      subst y12
      apply enqueueRecord_kept
      exact hy9
    clear_value y12
    apply setStream_kept
    exact hy12

end Sys2Proof.Laws
end

