-- ==== Sys2Proof/Laws/KeptInletOps.lean ====
section
/-! SUPPORT. The operations of Machine/InletOps.lean keep what every command keeps. -/

namespace Sys2Proof.Laws

set_option Elab.async false

open Sys2Proof.Machine

variable {s0 : State}

theorem divideHistory_kept (s : State) (h : Kept s0 s) :
    Kept s0 (divideHistory s) := by
  unfold divideHistory
  split
  · exact h
  · extract_lets +onlyGivenNames y9
    clear_value y9
    extract_lets +onlyGivenNames y10
    clear_value y10
    extract_lets +onlyGivenNames y11
    clear_value y11
    apply forL_kept
    · intro x12 x13 h14
      apply setInlet_kept
      exact h14
    · exact h

end Sys2Proof.Laws
end

