-- ==== Sys2Proof/Laws/KeptTaskOps.lean ====
section
/-! SUPPORT. The operations of Machine/TaskOps.lean keep what every command keeps. -/

namespace Sys2Proof.Laws

set_option Elab.async false

open Sys2Proof.Machine

variable {s0 : State}

theorem setTask_kept (id : Nat) (f : Task → Task) (s : State) (h : Kept s0 s) :
    Kept s0 (setTask id f s) := by
  unfold setTask
  exact kept_with h

theorem taskEvent_kept (o : Nat) (vals : List Val) (s : State) (h : Kept s0 s) :
    Kept s0 (taskEvent o vals s) := by
  unfold taskEvent
  apply raise_kept
  exact h

end Sys2Proof.Laws
end

