-- ==== Sys2Proof/Laws/KeptAcqOps.lean ====
section
/-! SUPPORT. The operations of Machine/AcqOps.lean keep what every command keeps. -/

namespace Sys2Proof.Laws

set_option Elab.async false

open Sys2Proof.Machine

variable {s0 : State}

theorem setAt_kept (m : Fin 16) (f : AcqTrigger → AcqTrigger) (s : State) (h : Kept s0 s) :
    Kept s0 (setAt m f s) := by
  unfold setAt
  exact kept_with h

theorem setAcq_kept (no : Nat) (f : Acquisition → Acquisition) (s : State) (h : Kept s0 s) :
    Kept s0 (setAcq no f s) := by
  unfold setAcq
  exact kept_with h

theorem setSource_kept (no idx : Nat) (f : SourceCopy → SourceCopy) (s : State) (h : Kept s0 s) :
    Kept s0 (setSource no idx f s) := by
  unfold setSource
  apply setAcq_kept
  exact h

theorem reclaim_kept {n a len : Nat} {s t : State} (h : Kept s0 s) (ht : reclaim n a len s = some t) : Kept s0 t := by
  induction n generalizing s with
  | zero => cases ht
  | succ n ih =>
    unfold reclaim at ht
    split at ht
    · split at ht
      · split at ht
        · refine ih ?_ ht
          exact kept_of h rfl rfl rfl rfl rfl
        · cases ht
      · cases ht
    · cases ht; exact h

theorem allocateAcq_kept {need a : Nat} {s t : State} (h : Kept s0 s) (ht : allocateAcq need s = some (a, t)) : Kept s0 t := by
  unfold allocateAcq at ht
  split at ht
  · cases ht
  · split at ht
    · cases ht
    · extract_lets o at ht
      clear_value o
      split at ht
      · rename_i u hu
        have := congrArg (fun p => p.2) (Option.some.inj ht)
        rw [← show _ = t from this]
        exact kept_of (reclaim_kept h hu) rfl rfl rfl rfl rfl
      · cases ht

theorem reapAcqs_kept (s : State) (h : Kept s0 s) :
    Kept s0 (reapAcqs s) := by
  unfold reapAcqs
  exact kept_with h

theorem acqPut_kept (no : Nat) (srcCh : Nat) (rec_ : Data) (stop : Nat) (tail : Bool) (s : State) (h : Kept s0 s) :
    Kept s0 (acqPut no srcCh rec_ stop tail s) := by
  unfold acqPut
  split
  · exact h
  · split
    · apply publish_kept
      exact h
    · extract_lets +onlyGivenNames y15
      have hy15 : Kept s0 y15 := by
        subst y15
        apply storeWrite_kept
        exact h
      clear_value y15
      extract_lets +onlyGivenNames y17
      have hy17 : Kept s0 y17 := by
        subst y17
        apply setAcq_kept
        exact hy15
      clear_value y17
      apply publish_kept
      exact hy17

theorem nextSegment_kept (no idx srcCh : Nat) (s : State) (h : Kept s0 s) :
    Kept s0 (nextSegment no idx srcCh s) := by
  unfold nextSegment
  apply setSource_kept
  exact h

theorem acqPieces_kept (no idx srcCh : Nat) (h : RecHdr) (q : Acquisition) (c : SourceCopy) (fmt items stop element : Nat) (tail final : Bool) (body : Data) (s : State) (hc : Kept s0 s) :
    Kept s0 (acqPieces no idx srcCh h q c fmt items stop element tail final body s) := by
  unfold acqPieces
  extract_lets +onlyGivenNames y17
  clear_value y17
  extract_lets +onlyGivenNames y18
  clear_value y18
  apply forN_kept
  · intro x19 x20 h21
    extract_lets +onlyGivenNames y22
    clear_value y22
    extract_lets +onlyGivenNames y23
    clear_value y23
    extract_lets +onlyGivenNames y24
    clear_value y24
    extract_lets +onlyGivenNames y25
    clear_value y25
    apply acqPut_kept
    apply nextSegment_kept
    exact h21
  · exact hc

theorem acqRun_kept (no idx srcCh fmt element : Nat) (enc : List CopyItem → Data) (tail final : Bool) (run : List CopyItem) (s : State) (h : Kept s0 s) :
    Kept s0 (acqRun no idx srcCh fmt element enc tail final run s) := by
  unfold acqRun
  split
  · split
    · extract_lets +onlyGivenNames y29
      clear_value y29
      extract_lets +onlyGivenNames y30
      clear_value y30
      split
      · apply acqPut_kept
        exact h
      · extract_lets +onlyGivenNames y35
        clear_value y35
        apply acqPieces_kept
        exact h
    · exact h
  · exact h

theorem acqSeries_kept (no idx srcCh fmt element per : Nat) (enc : List CopyItem → Data) (tail final : Bool) (items : List CopyItem) (s : State) (h : Kept s0 s) :
    Kept s0 (acqSeries no idx srcCh fmt element per enc tail final items s) := by
  unfold acqSeries
  extract_lets +onlyGivenNames y14
  clear_value y14
  extract_lets +onlyGivenNames y15
  have hy15 : Kept s0 y15 := by
    subst y15
    apply forL_kept
    · intro x15 x16 h17
      apply acqRun_kept
      exact h17
    · exact h
  clear_value y15
  split
  · split
    · split
      · extract_lets +onlyGivenNames y29
        clear_value y29
        apply acqPieces_kept
        exact hy15
      · exact hy15
    · exact hy15
  · exact hy15

theorem acqPublish_kept (no idx : Nat) (tail final : Bool) (items : List CopyItem) (s : State) (h : Kept s0 s) :
    Kept s0 (acqPublish no idx tail final items s) := by
  unfold acqPublish
  split
  · exact h
  · split
    · exact h
    · split
      · split
        · extract_lets +onlyGivenNames y26
          clear_value y26
          extract_lets +onlyGivenNames y27
          clear_value y27
          extract_lets +onlyGivenNames y28
          clear_value y28
          apply forL_kept
          · intro x29 x30 h31
            extract_lets +onlyGivenNames y32
            clear_value y32
            apply acqSeries_kept
            exact h31
          · exact h
        · exact h
      · extract_lets +onlyGivenNames y24
        clear_value y24
        extract_lets +onlyGivenNames y25
        clear_value y25
        extract_lets +onlyGivenNames y26
        clear_value y26
        apply acqSeries_kept
        exact h

theorem acqCheckComplete_kept (no : Nat) (s : State) (h : Kept s0 s) :
    Kept s0 (acqCheckComplete no s) := by
  unfold acqCheckComplete
  split
  · split
    · exact h
    · split
      · extract_lets +onlyGivenNames y16
        have hy16 : Kept s0 y16 := by
          subst y16
          apply setAcq_kept
          exact h
        clear_value y16
        extract_lets +onlyGivenNames y18
        have hy18 : Kept s0 y18 := by
          subst y18
          apply setAt_kept
          exact hy16
        clear_value y18
        apply reapAcqs_kept
        apply raise_kept
        exact hy18
      · exact h
  · exact h

theorem takeItem_kept (no idx : Nat) (x : CopyItem) (f : SourceCopy → SourceCopy) (s : State) (h : Kept s0 s) :
    Kept s0 (takeItem no idx x f s) := by
  unfold takeItem
  extract_lets +onlyGivenNames y8
  clear_value y8
  extract_lets +onlyGivenNames y9
  clear_value y9
  apply forL_kept
  · intro x10 x11 h12
    apply raise_kept
    exact h12
  · apply setSource_kept
    exact h

theorem frontGap_kept (no idx : Nat) (q : Acquisition) (c : SourceCopy) (a b : Nat) (f : SourceCopy → SourceCopy) (s : State) (h : Kept s0 s) :
    Kept s0 (frontGap no idx q c a b f s) := by
  unfold frontGap
  extract_lets +onlyGivenNames y11
  clear_value y11
  extract_lets +onlyGivenNames y12
  have hy12 : Kept s0 y12 := by
    subst y12
    apply takeItem_kept
    exact h
  clear_value y12
  split
  · apply raiseAt_kept
    apply setAt_kept
    exact hy12
  · exact hy12

theorem headDone_kept (no idx : Nat) (s : State) (h : Kept s0 s) :
    Kept s0 (headDone no idx s) := by
  unfold headDone
  split
  · split
    · split
      · exact h
      · extract_lets +onlyGivenNames y18
        clear_value y18
        extract_lets +onlyGivenNames y19
        have hy19 : Kept s0 y19 := by
          subst y19
          apply acqPublish_kept
          exact h
        clear_value y19
        apply setSource_kept
        exact hy19
    · exact h
  · exact h

theorem publishFinal_kept (no idx : Nat) (s : State) (h : Kept s0 s) :
    Kept s0 (publishFinal no idx s) := by
  unfold publishFinal
  split
  · exact h
  · split
    · exact h
    · extract_lets +onlyGivenNames y17
      clear_value y17
      extract_lets +onlyGivenNames y18
      clear_value y18
      split
      · exact h
      · extract_lets +onlyGivenNames y20
        clear_value y20
        extract_lets +onlyGivenNames y21
        clear_value y21
        split
        · exact h
        · apply setSource_kept
          apply acqPublish_kept
          exact h

theorem moveCopy_kept (no idx : Nat) (s : State) (h : Kept s0 s) :
    Kept s0 (moveCopy no idx s) := by
  unfold moveCopy
  split
  · exact h
  · split
    · exact h
    · extract_lets +onlyGivenNames y17
      clear_value y17
      extract_lets +onlyGivenNames y18
      clear_value y18
      extract_lets +onlyGivenNames y19
      clear_value y19
      split
      · exact h
      · split
        · split
          · apply takeItem_kept
            exact h
          · apply setSource_kept
            exact h
          · exact h
          · apply setSource_kept
            exact h
        · split
          · split
            · apply takeItem_kept
              exact h
            · apply frontGap_kept
              exact h
            · exact h
            · apply setSource_kept
              exact h
          · split
            · split
              · split
                · apply takeItem_kept
                  exact h
                · apply takeItem_kept
                  exact h
                · exact h
                · apply setSource_kept
                  exact h
              · apply setSource_kept
                apply acqPublish_kept
                exact h
            · split
              · split
                · apply takeItem_kept
                  exact h
                · extract_lets +onlyGivenNames y29
                  clear_value y29
                  apply frontGap_kept
                  exact h
                · exact h
                · apply setSource_kept
                  exact h
              · apply headDone_kept
                exact h

theorem copyStep_kept (no idx : Nat) (s : State) (h : Kept s0 s) :
    Kept s0 (copyStep no idx s) := by
  unfold copyStep
  apply publishFinal_kept
  apply moveCopy_kept
  exact h

theorem copyChunk_kept (no idx items : Nat) (s : State) (h : Kept s0 s) :
    Kept s0 (copyChunk no idx items s) := by
  unfold copyChunk
  apply acqCheckComplete_kept
  apply foldl_kept
  · intro x7 x8 h9
    apply copyStep_kept
    exact h9
  · exact h

theorem advanceTails_kept (s : State) (h : Kept s0 s) :
    Kept s0 (advanceTails s) := by
  unfold advanceTails
  apply forL_kept
  · intro x4 x5 h6
    apply forL_kept
    · intro x7 x8 h9
      split
      · apply copyChunk_kept
        exact h9
      · exact h9
    · exact h6
  · exact h

theorem dropFire_kept (q : Acquisition) (s : State) (h : Kept s0 s) :
    Kept s0 (dropFire q s) := by
  unfold dropFire
  apply forL_kept
  · intro x5 x6 h7
    extract_lets +onlyGivenNames y8
    clear_value y8
    extract_lets +onlyGivenNames y9
    have hy9 : ∀ a0 s, Kept s0 s → Kept s0 (y9 a0 s) := by
      subst y9
      intro x9 x10 h11
      beta_reduce
      apply publish_kept
      exact h11
    clear_value y9
    split
    · apply forL_kept
      · exact hy9
      · exact h7
    · apply hy9
      exact h7
  · exact h

theorem cutAcquisition_kept (m : Fin 16) (tick frac winner flags : Nat) (s : State) (h : Kept s0 s) :
    Kept s0 (cutAcquisition m tick frac winner flags s) := by
  unfold cutAcquisition
  split
  · exact h
  · extract_lets +onlyGivenNames no sq s1
    have h1 : Kept s0 s1 := kept_of h rfl rfl rfl rfl rfl
    clear_value s1
    extract_lets +onlyGivenNames q space
    have hsp : ∀ a t, space = some (a, t) → Kept s0 t := by
      intro a t ht
      by_cases hc : 64 ≤ (acqsInFlight s1).length
      · simp only [space, if_pos hc] at ht; cases ht
      · simp only [space, if_neg hc] at ht; exact allocateAcq_kept h1 ht
    clear_value space
    split
    · rename_i a t
      apply acqCheckComplete_kept
      exact kept_of (hsp a t rfl) rfl rfl rfl rfl rfl
    · apply dropFire_kept
      apply raiseAt_kept
      apply setAt_kept
      exact h1

theorem endSpectral_kept (id : Nat) (s : State) (h : Kept s0 s) :
    Kept s0 (endSpectral id s) := by
  unfold endSpectral
  apply forL_kept
  · intro x5 x6 h7
    apply forL_kept
    · intro x8 x9 h10
      split
      · extract_lets +onlyGivenNames y12
        clear_value y12
        extract_lets +onlyGivenNames y13
        have hy13 : Kept s0 y13 := by
          subst y13
          apply copyChunk_kept
          exact h10
        clear_value y13
        split
        · split
          · split
            · exact hy13
            · apply acqCheckComplete_kept
              apply setSource_kept
              apply acqPublish_kept
              exact hy13
          · exact hy13
        · exact hy13
      · exact h10
    · exact h7
  · exact h

theorem truncateAcqs_kept (m : Fin 16) (t : Nat) (s : State) (h : Kept s0 s) :
    Kept s0 (truncateAcqs m t s) := by
  unfold truncateAcqs
  exact kept_with h

end Sys2Proof.Laws
end

