-- ==== Sys2Proof/Laws/KeptSquallOps.lean ====
section
/-! SUPPORT. The operations of Machine/SquallOps.lean keep what every command keeps. -/

namespace Sys2Proof.Laws

set_option Elab.async false

open Sys2Proof.Machine

variable {s0 : State}

theorem setUnit_kept (u : Fin 32) (f : TrigUnit → TrigUnit) (s : State) (h : Kept s0 s) :
    Kept s0 (setUnit u f s) := by
  unfold setUnit
  exact kept_with h

theorem schedulePulse_kept (m : Fin 16) (tick : Nat) (s : State) (h : Kept s0 s) :
    Kept s0 (schedulePulse m tick s) := by
  unfold schedulePulse
  split
  · split
    · exact h
    · extract_lets +onlyGivenNames y12
      clear_value y12
      extract_lets +onlyGivenNames y13
      clear_value y13
      extract_lets +onlyGivenNames y14
      clear_value y14
      extract_lets +onlyGivenNames y15
      clear_value y15
      extract_lets +onlyGivenNames y16
      clear_value y16
      exact kept_with h
  · exact h

theorem exportFire_kept (m : Fin 16) (tick frac : Nat) (s : State) (h : Kept s0 s) :
    Kept s0 (exportFire m tick frac s) := by
  unfold exportFire
  split
  · split
    · exact h
    · extract_lets +onlyGivenNames y13
      clear_value y13
      apply broadcast_kept
      exact h
  · exact h

theorem disarmAt_kept (m : Fin 16) (cause : Nat) (s : State) (h : Kept s0 s) :
    Kept s0 (disarmAt m cause s) := by
  unfold disarmAt
  split
  · apply raise_kept
    apply setAt_kept
    exact h
  · exact h

theorem beginDisarm_kept (m : Fin 16) (tick : Nat) (abort : Bool) (s : State) (h : Kept s0 s) :
    Kept s0 (beginDisarm m tick abort s) := by
  unfold beginDisarm
  extract_lets +onlyGivenNames y7
  have hy7 : Kept s0 y7 := by
    subst y7
    apply setAt_kept
    exact h
  clear_value y7
  split
  · apply truncateAcqs_kept
    exact hy7
  · exact hy7

theorem endDisarms_kept (d : PendingDisarm) (s : State) (h : Kept s0 s) :
    Kept s0 (endDisarms d s) := by
  unfold endDisarms
  apply forL_kept
  · intro x5 x6 h7
    split
    · apply disarmAt_kept
      exact h7
    · exact h7
  · exact h

theorem expireDisarms_kept (s : State) (h : Kept s0 s) :
    Kept s0 (expireDisarms s) := by
  unfold expireDisarms
  extract_lets +onlyGivenNames y4
  clear_value y4
  extract_lets +onlyGivenNames y5
  clear_value y5
  extract_lets +onlyGivenNames y6
  have hy6 : Kept s0 y6 := by
    subst y6
    exact kept_with h
  clear_value y6
  apply forL_kept
  · intro x8 x9 h10
    apply endDisarms_kept
    exact h10
  · exact hy6

theorem countSource_kept (src tick : Nat) (s : State) (h : Kept s0 s) :
    Kept s0 (countSource src tick s) := by
  unfold countSource
  apply forL_kept
  · intro x6 x7 h8
    extract_lets +onlyGivenNames y9
    clear_value y9
    split
    · split
      · apply setAt_kept
        exact h8
      · exact h8
    · exact h8
  · exact h

theorem fireEffects_kept (m : Fin 16) (tick frac winner : Nat) (late forced : Bool) (s : State) (h : Kept s0 s) :
    Kept s0 (fireEffects m tick frac winner late forced s) := by
  unfold fireEffects
  extract_lets +onlyGivenNames y10
  have hy10 : Kept s0 y10 := by
    subst y10
    apply setAt_kept
    exact h
  clear_value y10
  extract_lets +onlyGivenNames y12
  have hy12 : Kept s0 y12 := by
    subst y12
    apply raiseAt_kept
    exact hy10
  clear_value y12
  extract_lets +onlyGivenNames y14
  have hy14 : Kept s0 y14 := by
    subst y14
    apply exportFire_kept
    apply schedulePulse_kept
    exact hy12
  clear_value y14
  extract_lets +onlyGivenNames y16
  have hy16 : Kept s0 y16 := by
    subst y16
    apply cutAcquisition_kept
    exact hy14
  clear_value y16
  split
  · split
    · apply truncateAcqs_kept
      exact hy16
    · exact hy16
  · exact hy16

theorem fireAt_kept (m : Fin 16) (tick frac : Nat) (late forced : Bool) (s : State) (h : Kept s0 s) :
    Kept s0 (fireAt m tick frac late forced s) := by
  unfold fireAt
  extract_lets +onlyGivenNames y9
  have hy9 : Kept s0 y9 := by
    subst y9
    apply fireEffects_kept
    exact h
  clear_value y9
  split
  · apply disarmAt_kept
    exact hy9
  · apply setAt_kept
    exact hy9

theorem sendTrig_kept (m : Fin 16) (subtype did seq tick frac : Nat) (payload : Data) (s : State) (h : Kept s0 s) :
    Kept s0 (sendTrig m subtype did seq tick frac payload s) := by
  unfold sendTrig
  extract_lets +onlyGivenNames y11
  clear_value y11
  extract_lets +onlyGivenNames y12
  clear_value y12
  apply send_kept
  exact h

theorem groupFire_kept (m : Fin 16) (tick frac : Nat) (forced : Bool) (s : State) (h : Kept s0 s) :
    Kept s0 (groupFire m tick frac forced s) := by
  unfold groupFire
  extract_lets +onlyGivenNames y8
  clear_value y8
  split
  · apply setAt_kept
    exact h
  · split
    · apply raiseAt_kept
      apply setAt_kept
      exact h
    · extract_lets +onlyGivenNames y11
      have hy11 : Kept s0 y11 := by
        subst y11
        apply setAt_kept
        exact h
      clear_value y11
      apply forL_kept
      · intro x13 x14 h15
        apply sendTrig_kept
        exact h15
      · exact hy11

theorem satisfy_kept (m : Fin 16) (tick frac : Nat) (late : Bool) (s : State) (h : Kept s0 s) :
    Kept s0 (satisfy m tick frac late s) := by
  unfold satisfy
  extract_lets +onlyGivenNames y8
  have hy8 : Kept s0 y8 := by
    subst y8
    split
    · apply countSource_kept
      exact h
    · exact h
  clear_value y8
  extract_lets +onlyGivenNames y10
  clear_value y10
  split
  · exact hy8
  · split
    · apply groupFire_kept
      exact hy8
    · split
      · apply setAt_kept
        exact hy8
      · apply fireAt_kept
        exact hy8

theorem stepSatisfied_kept (m : Fin 16) (second : Bool) (f : Fire) (s : State) (h : Kept s0 s) :
    Kept s0 (stepSatisfied m second f s) := by
  unfold stepSatisfied
  extract_lets +onlyGivenNames y7
  clear_value y7
  split
  · exact h
  · split
    · apply satisfy_kept
      exact h
    · extract_lets +onlyGivenNames y14
      clear_value y14
      extract_lets +onlyGivenNames y15
      clear_value y15
      split
      · apply setAt_kept
        exact h
      · extract_lets +onlyGivenNames y21
        have hy21 : Kept s0 y21 := by
          subst y21
          apply setAt_kept
          exact h
        clear_value y21
        extract_lets +onlyGivenNames y23
        clear_value y23
        apply satisfy_kept
        exact hy21

theorem matchTerm_kept (m : Fin 16) (second : Bool) (units : List (Fin 32)) (slot coinc : Nat) (cnt : Nat) (s : State) (h : Kept s0 s) :
    Kept s0 (matchTerm m second units slot coinc cnt s) := by
  induction cnt generalizing s with
  | zero => exact h
  | succ cnt ih =>
    unfold matchTerm
    split
    · exact h
    · split
      · exact h
      · extract_lets +onlyGivenNames y22
        have hy22 : Kept s0 y22 := by
          subst y22
          apply forL_kept
          · intro x22 x23 h24
            apply setUnit_kept
            exact h24
          · exact h
        clear_value y22
        apply ih
        apply stepSatisfied_kept
        exact hy22

theorem matrixFire_kept (u : Fin 32) (f : Fire) (s : State) (h : Kept s0 s) :
    Kept s0 (matrixFire u f s) := by
  unfold matrixFire
  extract_lets +onlyGivenNames y6
  have hy6 : Kept s0 y6 := by
    subst y6
    apply setUnit_kept
    exact h
  clear_value y6
  extract_lets +onlyGivenNames y8
  have hy8 : Kept s0 y8 := by
    subst y8
    apply expireDisarms_kept
    apply countSource_kept
    exact hy6
  clear_value y8
  apply forL_kept
  · intro x10 x11 h12
    split
    · exact h12
    · apply forL_kept
      · intro x18 x19 h20
        split
        · extract_lets +onlyGivenNames y22
          clear_value y22
          extract_lets +onlyGivenNames y23
          have hy23 : Kept s0 y23 := by
            subst y23
            apply setUnit_kept
            exact h20
          clear_value y23
          apply matchTerm_kept
          exact hy23
        · exact h20
      · exact h12
  · exact hy8

theorem unitFires_kept (u : Fin 32) (f : Fire) (s : State) (h : Kept s0 s) :
    Kept s0 (unitFires u f s) := by
  unfold unitFires
  extract_lets +onlyGivenNames y6
  have hy6 : Kept s0 y6 := by
    subst y6
    apply setUnit_kept
    exact h
  clear_value y6
  extract_lets +onlyGivenNames y8
  have hy8 : Kept s0 y8 := by
    subst y8
    split
    · apply raiseAt_kept
      exact hy6
    · exact hy6
  clear_value y8
  apply matrixFire_kept
  apply raiseAt_kept
  exact hy8

theorem stepAt_kept (now : Nat) (u : Fin 32) (cond gap : Bool) (tick frac last : Nat) (bound : Option Nat) (s : State) (h : Kept s0 s) :
    Kept s0 (stepAt now u cond gap tick frac last bound s) := by
  unfold stepAt
  extract_lets +onlyGivenNames y12
  clear_value y12
  extract_lets +onlyGivenNames y13
  have hy13 : Kept s0 y13 := by
    subst y13
    apply setUnit_kept
    exact h
  clear_value y13
  split
  · apply setUnit_kept
    exact hy13
  · extract_lets +onlyGivenNames y16
    clear_value y16
    extract_lets +onlyGivenNames y17
    clear_value y17
    extract_lets +onlyGivenNames y18
    have hy18 : Kept s0 y18 := by
      subst y18
      apply setUnit_kept
      exact hy13
    clear_value y18
    split
    · exact hy18
    · split
      · apply setUnit_kept
        exact hy18
      · extract_lets +onlyGivenNames y22
        have hy22 : Kept s0 y22 := by
          subst y22
          apply setUnit_kept
          exact hy18
        clear_value y22
        apply unitFires_kept
        exact hy22

theorem unitStep_kept (u : Fin 32) (cond gap : Bool) (tick frac last : Nat) (bound : Option Nat) (s : State) (h : Kept s0 s) :
    Kept s0 (unitStep u cond gap tick frac last bound s) := by
  unfold unitStep
  apply stepAt_kept
  exact h

theorem ownStepAt_kept (now : Nat) (u : Fin 32) (tick frac : Nat) (s : State) (h : Kept s0 s) :
    Kept s0 (ownStepAt now u tick frac s) := by
  unfold ownStepAt
  apply stepAt_kept
  apply setUnit_kept
  exact h

theorem ownStep_kept (u : Fin 32) (tick frac : Nat) (s : State) (h : Kept s0 s) :
    Kept s0 (ownStep u tick frac s) := by
  unfold ownStep
  apply ownStepAt_kept
  exact h

theorem qualifyEdges_kept (s : State) (h : Kept s0 s) :
    Kept s0 (qualifyEdges s) := by
  unfold qualifyEdges
  extract_lets +onlyGivenNames y4
  clear_value y4
  extract_lets +onlyGivenNames y5
  clear_value y5
  extract_lets +onlyGivenNames y6
  have hy6 : Kept s0 y6 := by
    subst y6
    exact kept_with h
  clear_value y6
  apply forL_kept
  · intro x8 x9 h10
    split
    · split
      · apply ownStepAt_kept
        exact h10
      · exact h10
    · exact h10
  · exact hy6

theorem squallDue_kept (s : State) (h : Kept s0 s) :
    Kept s0 (squallDue s) := by
  unfold squallDue
  apply expireDisarms_kept
  apply qualifyEdges_kept
  exact h

theorem takeStep_kept (u : Fin 32) (h : HeldStep) (last bound : Nat) (s : State) (hc : Kept s0 s) :
    Kept s0 (takeStep u h last bound s) := by
  unfold takeStep
  extract_lets +onlyGivenNames y8
  clear_value y8
  extract_lets +onlyGivenNames y9
  have hy9 : Kept s0 y9 := by
    subst y9
    apply setUnit_kept
    exact hc
  clear_value y9
  split
  · extract_lets +onlyGivenNames y12
    clear_value y12
    extract_lets +onlyGivenNames y13
    clear_value y13
    apply unitStep_kept
    apply setUnit_kept
    exact hy9
  · apply unitStep_kept
    exact hy9

theorem advanceUnit_kept (u : Fin 32) (passed : Nat → Bool) (lastOf : Nat → Nat) (bound : Nat) (cnt : Nat) (s : State) (h : Kept s0 s) :
    Kept s0 (advanceUnit u passed lastOf bound cnt s) := by
  induction cnt generalizing s with
  | zero => exact h
  | succ cnt ih =>
    unfold advanceUnit
    extract_lets +onlyGivenNames y11
    clear_value y11
    split
    · apply ih
      apply takeStep_kept
      exact h
    · split
      · apply ih
        apply setUnit_kept
        exact h
      · exact h

theorem offerSpectrum_kept (t : Task) (index : Nat) (power : Option (List U32)) (s : State) (h : Kept s0 s) :
    Kept s0 (offerSpectrum t index power s) := by
  unfold offerSpectrum
  apply forL_kept
  · intro x7 x8 h9
    extract_lets +onlyGivenNames y10
    clear_value y10
    split
    · exact h9
    · extract_lets +onlyGivenNames y12
      clear_value y12
      extract_lets +onlyGivenNames y13
      clear_value y13
      extract_lets +onlyGivenNames y14
      have hy14 : Kept s0 y14 := by
        subst y14
        apply setUnit_kept
        exact h9
      clear_value y14
      apply advanceUnit_kept
      exact hy14
  · exact h

theorem offerSkBlock_kept (t : Task) (block : Nat) (b : Option SkBlock) (s : State) (h : Kept s0 s) :
    Kept s0 (offerSkBlock t block b s) := by
  unfold offerSkBlock
  extract_lets +onlyGivenNames y7
  clear_value y7
  apply forL_kept
  · intro x8 x9 h10
    extract_lets +onlyGivenNames y11
    clear_value y11
    split
    · exact h10
    · extract_lets +onlyGivenNames y13
      clear_value y13
      extract_lets +onlyGivenNames y14
      clear_value y14
      extract_lets +onlyGivenNames y15
      clear_value y15
      extract_lets +onlyGivenNames y16
      clear_value y16
      apply takeStep_kept
      exact h10
  · exact h

theorem evaluateSample_kept (n : Fin 4) (time : Nat) (values : List Int) (s : State) (h : Kept s0 s) :
    Kept s0 (evaluateSample n time values s) := by
  unfold evaluateSample
  apply forL_kept
  · intro x7 x8 h9
    extract_lets +onlyGivenNames y10
    clear_value y10
    extract_lets +onlyGivenNames y11
    clear_value y11
    extract_lets +onlyGivenNames y12
    clear_value y12
    apply unitStep_kept
    apply setUnit_kept
    exact h9
  · exact h

theorem skipSamples_kept (n : Fin 4) (count time : Nat) (s : State) (h : Kept s0 s) :
    Kept s0 (skipSamples n count time s) := by
  unfold skipSamples
  apply forL_kept
  · intro x7 x8 h9
    apply setUnit_kept
    apply unitStep_kept
    exact h9
  · exact h

theorem detachUnits_kept (p : TrigUnit → Bool) (s : State) (h : Kept s0 s) :
    Kept s0 (detachUnits p s) := by
  unfold detachUnits
  apply forL_kept
  · intro x5 x6 h7
    extract_lets +onlyGivenNames y8
    clear_value y8
    split
    · apply raise_kept
      apply setUnit_kept
      exact h7
    · exact h7
  · exact h

theorem detachTask_kept (id : Nat) (s : State) (h : Kept s0 s) :
    Kept s0 (detachTask id s) := by
  unfold detachTask
  extract_lets +onlyGivenNames y5
  have hy5 : Kept s0 y5 := by
    subst y5
    apply detachUnits_kept
    exact h
  clear_value y5
  apply forL_kept
  · intro x7 x8 h9
    split
    · split
      · apply disarmAt_kept
        exact h9
      · exact h9
    · exact h9
  · exact hy5

theorem detachInlet_kept (n : Fin 4) (s : State) (h : Kept s0 s) :
    Kept s0 (detachInlet n s) := by
  unfold detachInlet
  apply detachUnits_kept
  exact h

theorem disarmInlet_kept (n : Fin 4) (s : State) (h : Kept s0 s) :
    Kept s0 (disarmInlet n s) := by
  unfold disarmInlet
  apply forL_kept
  · intro x5 x6 h7
    split
    · split
      · apply disarmAt_kept
        exact h7
      · exact h7
    · exact h7
  · exact h

theorem markPartial_kept (did : Nat) (s : State) (h : Kept s0 s) :
    Kept s0 (markPartial did s) := by
  unfold markPartial
  apply forL_kept
  · intro x5 x6 h7
    extract_lets +onlyGivenNames y8
    clear_value y8
    split
    · extract_lets +onlyGivenNames y10
      clear_value y10
      apply raise_kept
      apply raise_kept
      apply setAt_kept
      exact h7
    · exact h7
  · exact h

end Sys2Proof.Laws
end

