-- ==== Sys2Proof/Laws/KeptEddyOps.lean ====
section
/-! SUPPORT. The operations of Machine/EddyOps.lean keep what every command keeps. -/

namespace Sys2Proof.Laws

set_option Elab.async false

open Sys2Proof.Machine

variable {s0 : State}

theorem setMap_kept (m : Fin 8) (f : DensityMap → DensityMap) (s : State) (h : Kept s0 s) :
    Kept s0 (setMap m f s) := by
  unfold setMap
  exact kept_with h

theorem exportPlanes_kept (m : Fin 8) (c : MapCfg) (d : DensityMap) (s : State) (h : Kept s0 s) :
    Kept s0 (exportPlanes m c d s) := by
  unfold exportPlanes
  split
  · exact h
  · extract_lets +onlyGivenNames y8
    clear_value y8
    extract_lets +onlyGivenNames y9
    have hy9 : Kept s0 y9 := by
      subst y9
      apply storeWrite_kept
      exact h
    clear_value y9
    apply setMap_kept
    exact hy9

theorem exportRaw_kept (m : Fin 8) (c : MapCfg) (d : DensityMap) (w : Sweep) (s : State) (h : Kept s0 s) :
    Kept s0 (exportRaw m c d w s) := by
  unfold exportRaw
  split
  · exact h
  · extract_lets +onlyGivenNames y9
    clear_value y9
    extract_lets +onlyGivenNames y10
    clear_value y10
    split
    · apply setMap_kept
      exact h
    · extract_lets +onlyGivenNames y12
      clear_value y12
      apply setMap_kept
      apply storeWrite_kept
      exact h

theorem exportAccepted_kept (m : Fin 8) (s : State) (h : Kept s0 s) :
    Kept s0 (exportAccepted m s) := by
  unfold exportAccepted
  split
  · exact h
  · extract_lets +onlyGivenNames y10
    clear_value y10
    extract_lets +onlyGivenNames y11
    have hy11 : Kept s0 y11 := by
      subst y11
      apply setMap_kept
      exact h
    clear_value y11
    split
    · apply publish_kept
      exact hy11
    · exact hy11

theorem endSweep_kept (m : Fin 8) (s : State) (h : Kept s0 s) :
    Kept s0 (endSweep m s) := by
  unfold endSweep
  split
  · extract_lets +onlyGivenNames y15
    clear_value y15
    extract_lets +onlyGivenNames y16
    clear_value y16
    extract_lets +onlyGivenNames y17
    have hy17 : Kept s0 y17 := by
      subst y17
      apply exportRaw_kept
      apply exportPlanes_kept
      exact h
    clear_value y17
    extract_lets +onlyGivenNames y19
    have hy19 : Kept s0 y19 := by
      subst y19
      apply setMap_kept
      exact hy17
    clear_value y19
    split
    · exact hy19
    · apply exportAccepted_kept
      exact hy19
  · exact h

theorem sweepOn_kept (m : Fin 8) (stop : Nat) (s : State) (h : Kept s0 s) :
    Kept s0 (sweepOn m stop s) := by
  unfold sweepOn
  split
  · extract_lets +onlyGivenNames y16
    clear_value y16
    extract_lets +onlyGivenNames y17
    have hy17 : Kept s0 y17 := by
      subst y17
      apply setMap_kept
      exact h
    clear_value y17
    split
    · apply endSweep_kept
      exact hy17
    · exact hy17
  · exact h

theorem advanceSweep_kept (m : Fin 8) (s : State) (h : Kept s0 s) :
    Kept s0 (advanceSweep m s) := by
  unfold advanceSweep
  split
  · exact h
  · extract_lets +onlyGivenNames y10
    clear_value y10
    split
    · exact h
    · extract_lets +onlyGivenNames y12
      have hy12 : Kept s0 y12.2 := by
        subst y12
        apply takeFree_kept
        exact h
      clear_value y12
      apply sweepOn_kept
      exact hy12

theorem finishSweep_kept (m : Fin 8) (s : State) (h : Kept s0 s) :
    Kept s0 (finishSweep m s) := by
  unfold finishSweep
  split
  · apply sweepOn_kept
    exact h
  · exact h

theorem mapBoundary_kept (m : Fin 8) (tick : Nat) (s : State) (h : Kept s0 s) :
    Kept s0 (mapBoundary m tick s) := by
  unfold mapBoundary
  split
  · exact h
  · extract_lets +onlyGivenNames y11
    have hy11 : Kept s0 y11 := by
      subst y11
      apply advanceSweep_kept
      exact h
    clear_value y11
    extract_lets +onlyGivenNames y13
    clear_value y13
    extract_lets +onlyGivenNames y14
    have hy14 : Kept s0 y14 := by
      subst y14
      apply setMap_kept
      exact hy11
    clear_value y14
    split
    · apply raise_kept
      apply setMap_kept
      exact hy14
    · extract_lets +onlyGivenNames y17
      clear_value y17
      apply setMap_kept
      exact hy14

theorem mapSpectrum_kept (m : Fin 8) (power : List U32) (marks : Nat) (s : State) (h : Kept s0 s) :
    Kept s0 (mapSpectrum m power marks s) := by
  unfold mapSpectrum
  split
  · exact h
  · extract_lets +onlyGivenNames y12
    have hy12 : Kept s0 y12 := by
      subst y12
      apply advanceSweep_kept
      exact h
    clear_value y12
    extract_lets +onlyGivenNames y14
    clear_value y14
    extract_lets +onlyGivenNames y15
    have hy15 : Kept s0 y15.2 := by
      subst y15
      split
      · apply takeFree_kept
        exact hy12
      · exact hy12
    clear_value y15
    extract_lets +onlyGivenNames y17
    have hy17 : Kept s0 y17 := by
      subst y17
      exact hy15
    clear_value y17
    split
    · apply raise_kept
      apply setMap_kept
      exact hy17
    · apply setMap_kept
      exact hy17

theorem offerMaps_kept (task : Nat) (power : List U32) (marks : Nat) (s : State) (h : Kept s0 s) :
    Kept s0 (offerMaps task power marks s) := by
  unfold offerMaps
  apply forL_kept
  · intro x7 x8 h9
    split
    · split
      · apply mapSpectrum_kept
        exact h9
      · exact h9
    · exact h9
  · exact h

theorem detachMaps_kept (task : Nat) (s : State) (h : Kept s0 s) :
    Kept s0 (detachMaps task s) := by
  unfold detachMaps
  apply forL_kept
  · intro x5 x6 h7
    split
    · split
      · apply raise_kept
        apply setMap_kept
        exact h7
      · exact h7
    · exact h7
  · exact h

theorem clearMap_kept (m : Fin 8) (s : State) (h : Kept s0 s) :
    Kept s0 (clearMap m s) := by
  unfold clearMap
  apply setMap_kept
  exact h

theorem rebaseMaps_kept (tick : Nat) (s : State) (h : Kept s0 s) :
    Kept s0 (rebaseMaps tick s) := by
  unfold rebaseMaps
  apply forL_kept
  · intro x5 x6 h7
    apply setMap_kept
    exact h7
  · exact h

end Sys2Proof.Laws
end

