-- ==== Sys2Proof/Laws/KeptScanOps.lean ====
section
/-! SUPPORT. The operations of Machine/ScanOps.lean keep what every command keeps. -/

namespace Sys2Proof.Laws

set_option Elab.async false

open Sys2Proof.Machine

variable {s0 : State}

theorem setScn_kept (f : ScanOut → ScanOut) (s : State) (h : Kept s0 s) :
    Kept s0 (setScn f s) := by
  unfold setScn
  exact kept_with h

theorem setLayer_kept (l : Fin 4) (f : Layer → Layer) (s : State) (h : Kept s0 s) :
    Kept s0 (setLayer l f s) := by
  unfold setLayer
  apply setScn_kept
  exact h

theorem fillLayer_kept (l : Fin 4) (s : State) (h : Kept s0 s) :
    Kept s0 (fillLayer l s) := by
  unfold fillLayer
  extract_lets +onlyGivenNames y5
  clear_value y5
  extract_lets +onlyGivenNames y6
  clear_value y6
  extract_lets +onlyGivenNames y7
  clear_value y7
  extract_lets +onlyGivenNames y8
  clear_value y8
  apply setStore_kept
  · rfl
  · apply setLayer_kept
    exact h

theorem trainLink_kept (s : State) (h : Kept s0 s) :
    Kept s0 (trainLink s) := by
  unfold trainLink
  apply setScn_kept
  exact h

theorem takeTiming_kept (s : State) (h : Kept s0 s) :
    Kept s0 (takeTiming s) := by
  unfold takeTiming
  extract_lets +onlyGivenNames y4
  clear_value y4
  extract_lets +onlyGivenNames y5
  have hy5 : Kept s0 y5 := by
    subst y5
    apply State_setField_kept
    exact h
  clear_value y5
  extract_lets +onlyGivenNames y7
  clear_value y7
  split
  · apply State_setField_kept
    apply State_setField_kept
    exact hy5
  · extract_lets +onlyGivenNames y9
    clear_value y9
    extract_lets +onlyGivenNames y10
    have hy10 : Kept s0 y10 := by
      subst y10
      apply setScn_kept
      exact hy5
    clear_value y10
    split
    · exact hy10
    · extract_lets +onlyGivenNames y13
      have hy13 : Kept s0 y13 := by
        subst y13
        split
        · apply trainLink_kept
          exact hy10
        · exact hy10
      clear_value y13
      split
      · exact hy13
      · apply setSynth_kept
        apply setScn_kept
        exact hy13

theorem takeLayer_kept (l : Fin 4) (s : State) (h : Kept s0 s) :
    Kept s0 (takeLayer l s).2 := by
  unfold takeLayer
  split
  · exact h
  · extract_lets +onlyGivenNames y6
    have hy6 : Kept s0 y6 := by
      subst y6
      apply State_setField_kept
      exact h
    clear_value y6
    extract_lets +onlyGivenNames y8
    clear_value y8
    extract_lets +onlyGivenNames y9
    clear_value y9
    split
    · dsimp -zeta only
      apply setLayer_kept
      exact hy6
    · dsimp -zeta only
      apply State_setField_kept
      apply State_setField_kept
      exact hy6

theorem latchLayer_kept (l : Fin 4) (s : State) (h : Kept s0 s) :
    Kept s0 (latchLayer l s) := by
  unfold latchLayer
  extract_lets +onlyGivenNames y5
  clear_value y5
  extract_lets +onlyGivenNames y6
  have hy6 : Kept s0 y6 := by
    subst y6
    apply State_setField_kept
    exact h
  clear_value y6
  extract_lets +onlyGivenNames y8
  have hy8 : ∀ a0 a1 s, Kept s0 s → Kept s0 (y8 a0 a1 s) := by
    subst y8
    intro x8 x9 x10 h11
    beta_reduce
    apply setLayer_kept
    exact h11
  clear_value y8
  split
  · split
    · apply hy8
      exact hy6
    · apply hy8
      apply State_setField_kept
      exact hy6
  · apply hy8
    exact hy6

end Sys2Proof.Laws
end

