-- ==== Sys2Proof/Laws/KeptStoreCmds.lean ====
section
/-! SUPPORT. The operations of Machine/StoreCmds.lean keep what every command keeps. -/

namespace Sys2Proof.Laws

set_option Elab.async false

open Sys2Proof.Machine

variable {s0 : State}

theorem clearSpan_kept (a n : Nat) (s : State) (h : Kept s0 s) : Kept s0 (clearSpan a n s) :=
  ⟨h.regs, h.host, fun x => spFilter_wf _ (h.store x), h.flash, h.tick, h.pending, h.fuses, h.trims⟩

theorem doStoreRegionAlloc_kept (c : Cmd) (s : State) (h : Kept s0 s) :
    Kept s0 (doStoreRegionAlloc c s) := by
  unfold doStoreRegionAlloc
  extract_lets +onlyGivenNames y5
  clear_value y5
  extract_lets +onlyGivenNames y6
  clear_value y6
  apply checked_kept
  · intro x7 h8
    extract_lets +onlyGivenNames y9
    clear_value y9
    extract_lets +onlyGivenNames y10
    have hy10 : Kept s0 y10 := by
      subst y10
      apply setStore_kept
      · rfl
      · exact h8
    clear_value y10
    apply done_kept
    split
    · apply clearSpan_kept
      exact hy10
    · exact hy10
  · exact h

theorem dropHistory_kept (s : State) (h : Kept s0 s) :
    Kept s0 (dropHistory s) := by
  unfold dropHistory
  extract_lets +onlyGivenNames y4
  clear_value y4
  extract_lets +onlyGivenNames y5
  clear_value y5
  extract_lets +onlyGivenNames y6
  have hy6 : Kept s0 y6 := by
    subst y6
    apply setStore_kept
    · rfl
    · exact h
  clear_value y6
  apply forL_kept
  · intro x8 x9 h10
    apply setInlet_kept
    exact h10
  · exact hy6

theorem dropRegion_kept (type : Nat) (s : State) (h : Kept s0 s) :
    Kept s0 (dropRegion type s) := by
  unfold dropRegion
  extract_lets +onlyGivenNames y5
  have hy5 : Kept s0 y5 := by
    subst y5
    apply setStore_kept
    · rfl
    · exact h
  clear_value y5
  split
  · apply dropHistory_kept
    exact hy5
  · split
    · exact kept_with hy5
    · exact hy5

theorem doStoreRegionFree_kept (c : Cmd) (s : State) (h : Kept s0 s) :
    Kept s0 (doStoreRegionFree c s) := by
  unfold doStoreRegionFree
  extract_lets +onlyGivenNames y5
  clear_value y5
  split
  · apply checked_kept
    · intro x10 h11
      apply id_kept
      exact h11
    · exact h
  · apply checked_kept
    · intro x11 h12
      apply done_kept
      apply dropRegion_kept
      exact h12
    · exact h

theorem doStoreMapQuery_kept (c : Cmd) (s : State) (h : Kept s0 s) :
    Kept s0 (doStoreMapQuery c s) := by
  unfold doStoreMapQuery
  apply checked_kept
  · intro x5 h6
    apply done_kept
    apply writeBlock_kept
    exact h6
  · exact h

theorem doRefreshDue_kept (ch bank : Fin 16) (busy hot : Bool) (s : State) (h : Kept s0 s) :
    Kept s0 (doRefreshDue ch bank busy hot s) := by
  unfold doRefreshDue
  extract_lets +onlyGivenNames y8
  clear_value y8
  extract_lets +onlyGivenNames y9
  clear_value y9
  extract_lets +onlyGivenNames y10
  clear_value y10
  split
  · exact h
  · extract_lets +onlyGivenNames y12
    have hy12 : Kept s0 y12 := by
      subst y12
      apply setStore_kept
      · rfl
      · apply waitUp_kept
        exact h
    clear_value y12
    split
    · apply setStore_kept
      · rfl
      · exact hy12
    · split
      · apply setStore_kept
        · rfl
        · exact hy12
      · apply raise_kept
        apply setStore_kept
        · rfl
        · exact hy12

theorem paceActivations_kept (acts : List (Fin 12 × Nat)) (s : State) (h : Kept s0 s) :
    Kept s0 (paceActivations acts s) := by
  unfold paceActivations
  apply forL_kept
  · intro x5 x6 h7
    split
    · exact h7
    · extract_lets +onlyGivenNames y13
      clear_value y13
      apply waitUp_kept
      apply setStore_kept
      · rfl
      · exact h7
  · exact h

theorem throttleFor_kept (ch bank group rq : Nat) (s : State) (h : Kept s0 s) :
    Kept s0 (throttleFor ch bank group rq s) := by
  unfold throttleFor
  extract_lets +onlyGivenNames y8
  have hy8 : Kept s0 y8 := by
    subst y8
    apply setStore_kept
    · rfl
    · exact h
  clear_value y8
  apply raise_kept
  exact hy8

theorem doRowThreshold_kept (ch bank : Fin 16) (group : Nat) (acts : List (Fin 12 × Nat)) (s : State) (h : Kept s0 s) :
    Kept s0 (doRowThreshold ch bank group acts s) := by
  unfold doRowThreshold
  split
  · exact h
  · extract_lets +onlyGivenNames y9
    have hy9 : Kept s0 y9 := by
      subst y9
      apply paceActivations_kept
      exact h
    clear_value y9
    extract_lets +onlyGivenNames y11
    clear_value y11
    extract_lets +onlyGivenNames y12
    have hy12 : Kept s0 y12 := by
      subst y12
      apply setStore_kept
      · rfl
      · exact hy9
    clear_value y12
    extract_lets +onlyGivenNames y14
    clear_value y14
    split
    · exact hy12
    · apply throttleFor_kept
      apply setStore_kept
      · rfl
      · exact hy12

theorem doRowWindow_kept (s : State) (h : Kept s0 s) :
    Kept s0 (doRowWindow s) := by
  unfold doRowWindow
  extract_lets +onlyGivenNames y4
  clear_value y4
  apply setStore_kept
  · rfl
  · apply waitUp_kept
    exact h

theorem doThrottleEnd_kept (rq : Fin 12) (s : State) (h : Kept s0 s) :
    Kept s0 (doThrottleEnd rq s) := by
  unfold doThrottleEnd
  split
  · exact h
  · apply raise_kept
    apply setStore_kept
    · rfl
    · apply waitUp_kept
      exact h

theorem retrainEvent_kept (ch : Nat) (s : State) (h : Kept s0 s) :
    Kept s0 (retrainEvent ch s) := by
  unfold retrainEvent
  extract_lets +onlyGivenNames y5
  have hy5 : Kept s0 y5.2 := by
    subst y5
    apply takeFree_kept
    exact h
  clear_value y5
  apply raise_kept
  exact hy5

theorem endRetrainCmds_kept (ch status aux : Nat) (s : State) (h : Kept s0 s) :
    Kept s0 (endRetrainCmds ch status aux s) := by
  unfold endRetrainCmds
  apply forL_kept
  · intro x7 x8 h9
    apply complete_kept
    exact h9
  · exact h

theorem denyRetrain_kept (ch : Nat) (s : State) (h : Kept s0 s) :
    Kept s0 (denyRetrain ch s) := by
  unfold denyRetrain
  apply retrainEvent_kept
  exact h

theorem requestRetrain_kept (ch : Fin 16) (s : State) (h : Kept s0 s) :
    Kept s0 (requestRetrain ch s) := by
  unfold requestRetrain
  split
  · exact h
  · extract_lets +onlyGivenNames y6
    have hy6 : Kept s0 y6.2 := by
      subst y6
      apply requestInternal_kept
      exact h
    clear_value y6
    split
    · apply denyRetrain_kept
      exact hy6
    · exact hy6

theorem doEdcBurst_kept (ch : Fin 16) (ok : Bool) (s : State) (h : Kept s0 s) :
    Kept s0 (doEdcBurst ch ok s) := by
  unfold doEdcBurst
  split
  · exact h
  · extract_lets +onlyGivenNames y7
    have hy7 : Kept s0 y7 := by
      subst y7
      apply setStore_kept
      · rfl
      · exact h
    clear_value y7
    split
    · exact hy7
    · apply requestRetrain_kept
      exact hy7

theorem leaveSelfRefresh_kept (s : State) (h : Kept s0 s) :
    Kept s0 (leaveSelfRefresh s) := by
  unfold leaveSelfRefresh
  extract_lets +onlyGivenNames y4
  clear_value y4
  extract_lets +onlyGivenNames y5
  have hy5 : Kept s0 y5 := by
    subst y5
    apply setSynth_kept
    exact h
  clear_value y5
  extract_lets +onlyGivenNames y7
  have hy7 : Kept s0 y7 := by
    subst y7
    apply setStore_kept
    · rfl
    · exact hy5
  clear_value y7
  apply raise_kept
  exact hy7

theorem doRetrainStart_kept (ch : Fin 16) (s : State) (h : Kept s0 s) :
    Kept s0 (doRetrainStart ch s) := by
  unfold doRetrainStart
  extract_lets +onlyGivenNames y5
  have hy5 : Kept s0 y5 := by
    subst y5
    split
    · apply leaveSelfRefresh_kept
      exact h
    · exact h
  clear_value y5
  split
  · exact hy5
  · split
    · apply requestRetrain_kept
      exact hy5
    · split
      · exact hy5
      · apply setStore_kept
        · rfl
        · exact hy5

theorem doRetrainComplete_kept (ch : Fin 16) (s : State) (h : Kept s0 s) :
    Kept s0 (doRetrainComplete ch s) := by
  unfold doRetrainComplete
  split
  · exact h
  · extract_lets +onlyGivenNames y6
    have hy6 : Kept s0 y6 := by
      subst y6
      apply releasePower_kept
      apply setStore_kept
      · rfl
      · exact h
    clear_value y6
    apply endRetrainCmds_kept
    apply retrainEvent_kept
    exact hy6

theorem doSelfRefreshIdle_kept (s : State) (h : Kept s0 s) :
    Kept s0 (doSelfRefreshIdle s) := by
  unfold doSelfRefreshIdle
  split
  · exact h
  · extract_lets +onlyGivenNames y5
    clear_value y5
    extract_lets +onlyGivenNames y6
    have hy6 : Kept s0 y6 := by
      subst y6
      apply waitUp_kept
      exact h
    clear_value y6
    split
    · exact hy6
    · extract_lets +onlyGivenNames y9
      have hy9 : Kept s0 y9 := by
        subst y9
        apply setStore_kept
        · rfl
        · exact hy6
      clear_value y9
      apply raise_kept
      apply setSynth_kept
      exact hy9

theorem startExit_kept (s : State) (h : Kept s0 s) :
    Kept s0 (startExit s) := by
  unfold startExit
  split
  · exact h
  · apply startSynth_kept
    apply setStore_kept
    · rfl
    · exact h

theorem abortEntry_kept (s : State) (h : Kept s0 s) :
    Kept s0 (abortEntry s) := by
  unfold abortEntry
  apply raise_kept
  apply setStore_kept
  · rfl
  · exact h

theorem storeAsk_kept (s : State) (h : Kept s0 s) :
    Kept s0 (storeAsk s) := by
  unfold storeAsk
  split
  · apply startExit_kept
    exact h
  · split
    · exact h
    · split
      · apply abortEntry_kept
        exact h
      · apply setStore_kept
        · rfl
        · exact h

theorem doSelfRefreshWake_kept (s : State) (h : Kept s0 s) :
    Kept s0 (doSelfRefreshWake s) := by
  unfold doSelfRefreshWake
  split
  · apply startExit_kept
    exact h
  · split
    · apply abortEntry_kept
      exact h
    · exact h

theorem doSelfRefreshExit_kept (s : State) (h : Kept s0 s) :
    Kept s0 (doSelfRefreshExit s) := by
  unfold doSelfRefreshExit
  split
  · apply leaveSelfRefresh_kept
    exact h
  · exact h

theorem storeAwake_kept (s : State) (h : Kept s0 s) :
    Kept s0 (storeAwake s) := by
  unfold storeAwake
  extract_lets +onlyGivenNames y4
  have hy4 : Kept s0 y4 := by
    subst y4
    apply storeAsk_kept
    exact h
  clear_value y4
  split
  · apply leaveSelfRefresh_kept
    exact hy4
  · exact hy4

theorem noteCorrections_kept (k : Nat) (s : State) (h : Kept s0 s) :
    Kept s0 (noteCorrections k s) := by
  unfold noteCorrections
  split
  · exact h
  · extract_lets +onlyGivenNames y6
    clear_value y6
    extract_lets +onlyGivenNames y7
    have hy7 : Kept s0 y7 := by
      subst y7
      apply setStore_kept
      · rfl
      · exact h
    clear_value y7
    split
    · apply raise_kept
      exact hy7
    · exact hy7

theorem reportUncorrectable_kept (a rq : Nat) (s : State) (h : Kept s0 s) :
    Kept s0 (reportUncorrectable a rq s) := by
  unfold reportUncorrectable
  apply raise_kept
  exact h

theorem reportSpan_kept (a n rq : Nat) (s : State) (h : Kept s0 s) :
    Kept s0 (reportSpan a n rq s) := by
  unfold reportSpan
  split
  · apply reportUncorrectable_kept
    exact h
  · apply reportUncorrectable_kept
    exact h

theorem poisonSector_kept (a rq : Nat) (s : State) (h : Kept s0 s) :
    Kept s0 (poisonSector a rq s) := by
  unfold poisonSector
  split
  · extract_lets +onlyGivenNames y11
    have hy11 : Kept s0 y11 := by
      subst y11
      apply setStore_kept
      · rfl
      · apply countPoisoned_kept
        exact h
    clear_value y11
    apply reportUncorrectable_kept
    apply setInlet_kept
    exact hy11
  · apply poisonSpan_kept
    exact h

theorem doUncorrectableRead_kept (addr : Nat) (rq : Fin 12) (first second : SectorRead) (s : State) (h : Kept s0 s) :
    Kept s0 (doUncorrectableRead addr rq first second s) := by
  unfold doUncorrectableRead
  extract_lets +onlyGivenNames y8
  clear_value y8
  split
  · exact h
  · split
    · apply reportUncorrectable_kept
      exact h
    · split
      · exact h
      · apply noteCorrections_kept
        exact h
      · split
        · apply poisonSector_kept
          exact h
        · apply noteCorrections_kept
          exact h

theorem doPatrolScrub_kept (sectors corrected : Nat) (s : State) (h : Kept s0 s) :
    Kept s0 (doPatrolScrub sectors corrected s) := by
  unfold doPatrolScrub
  split
  · exact h
  · extract_lets +onlyGivenNames y7
    clear_value y7
    extract_lets +onlyGivenNames y8
    clear_value y8
    extract_lets +onlyGivenNames y9
    have hy9 : Kept s0 y9 := by
      subst y9
      apply waitUp_kept
      exact h
    clear_value y9
    extract_lets +onlyGivenNames y11
    have hy11 : Kept s0 y11 := by
      subst y11
      apply noteCorrections_kept
      exact hy9
    clear_value y11
    apply setStore_kept
    · rfl
    · exact hy11

theorem doFirmwareCopyRestore_kept (addr : Nat) (both : Bool) (s : State) (h : Kept s0 s) :
    Kept s0 (doFirmwareCopyRestore addr both s) := by
  unfold doFirmwareCopyRestore
  extract_lets +onlyGivenNames y6
  clear_value y6
  split
  · exact h
  · split
    · exact kept_with h
    · apply raise_kept
      apply storeWrite_kept
      exact h

end Sys2Proof.Laws
end

