-- ==== Sys2Proof/Laws/KeptScanOut.lean ====
section
/-! SUPPORT. The operations of Machine/ScanOut.lean keep what every command keeps. -/

namespace Sys2Proof.Laws

set_option Elab.async false

open Sys2Proof.Machine

variable {s0 : State}

theorem stopScan_kept (s : State) (h : Kept s0 s) :
    Kept s0 (stopScan s) := by
  unfold stopScan
  apply setSynth_kept
  apply setScn_kept
  exact h

theorem nextBlank_kept (s : State) (h : Kept s0 s) :
    Kept s0 (nextBlank s) := by
  unfold nextBlank
  apply setScn_kept
  exact h

theorem frameStart_kept (s : State) (h : Kept s0 s) :
    Kept s0 (frameStart s) := by
  unfold frameStart
  extract_lets +onlyGivenNames y4
  have hy4 : Kept s0 y4 := by
    subst y4
    apply setScn_kept
    exact h
  clear_value y4
  extract_lets +onlyGivenNames y6
  have hy6 : Kept s0 y6 := by
    subst y6
    split
    · apply takeTiming_kept
      exact hy4
    · exact hy4
  clear_value y6
  extract_lets +onlyGivenNames y8
  have hy8 : Kept s0 y8.2 := by
    subst y8
    apply foldPair_kept
    · intro x8 x9 h10
      extract_lets +onlyGivenNames y11
      have hy11 : Kept s0 y11.2 := by
        subst y11
        apply takeLayer_kept
        exact h10
      clear_value y11
      exact hy11
    · exact hy6
  clear_value y8
  extract_lets +onlyGivenNames y10
  have hy10 : Kept s0 y10 := by
    subst y10
    exact hy8
  clear_value y10
  extract_lets +onlyGivenNames y12
  clear_value y12
  extract_lets +onlyGivenNames y13
  have hy13 : Kept s0 y13 := by
    subst y13
    split
    · apply setScn_kept
      exact hy10
    · exact hy10
  clear_value y13
  apply nextBlank_kept
  apply forL_kept
  · intro x15 x16 h17
    apply latchLayer_kept
    exact h17
  · exact hy13

theorem doScanoutFrameStart_kept (s : State) (h : Kept s0 s) :
    Kept s0 (doScanoutFrameStart s) := by
  unfold doScanoutFrameStart
  split
  · exact h
  · extract_lets +onlyGivenNames y5
    have hy5 : Kept s0 y5 := by
      subst y5
      apply waitUp_kept
      exact h
    clear_value y5
    split
    · apply frameStart_kept
      exact hy5
    · apply stopScan_kept
      exact hy5

theorem doLayerFetchStart_kept (l : Fin 4) (s : State) (h : Kept s0 s) :
    Kept s0 (doLayerFetchStart l s) := by
  unfold doLayerFetchStart
  split
  · exact h
  · extract_lets +onlyGivenNames y6
    clear_value y6
    extract_lets +onlyGivenNames y7
    clear_value y7
    split
    · exact h
    · extract_lets +onlyGivenNames y9
      have hy9 : Kept s0 y9 := by
        subst y9
        split
        · exact h
        · apply waitUp_kept
          exact h
      clear_value y9
      extract_lets +onlyGivenNames y11
      have hy11 : Kept s0 y11 := by
        subst y11
        apply storeAsk_kept
        exact hy9
      clear_value y11
      split
      · apply fillLayer_kept
        exact hy11
      · apply setLayer_kept
        exact hy11

theorem doLayerUnderrun_kept (l : Fin 4) (s : State) (h : Kept s0 s) :
    Kept s0 (doLayerUnderrun l s) := by
  unfold doLayerUnderrun
  extract_lets +onlyGivenNames y5
  clear_value y5
  split
  · exact h
  · apply State_countWrap_kept
    apply setLayer_kept
    apply waitUp_kept
    exact h

theorem startScan_kept (s : State) (h : Kept s0 s) :
    Kept s0 (startScan s) := by
  unfold startScan
  extract_lets +onlyGivenNames y4
  have hy4 : Kept s0 y4 := by
    subst y4
    apply trainLink_kept
    exact h
  clear_value y4
  extract_lets +onlyGivenNames y6
  have hy6 : Kept s0 y6 := by
    subst y6
    apply setScn_kept
    exact hy4
  clear_value y6
  split
  · exact hy6
  · split
    · apply setScn_kept
      exact hy6
    · apply setSynth_kept
      exact hy6

theorem haltScan_kept (s : State) (h : Kept s0 s) :
    Kept s0 (haltScan s) := by
  unfold haltScan
  split
  · apply setScn_kept
    exact h
  · apply stopScan_kept
    exact h

theorem scnEnableChanged_kept (was : Bool) (s : State) (h : Kept s0 s) :
    Kept s0 (scnEnableChanged was s) := by
  unfold scnEnableChanged
  split
  · exact h
  · split
    · apply startScan_kept
      exact h
    · apply haltScan_kept
      exact h

theorem timingApply_kept (s : State) (h : Kept s0 s) :
    Kept s0 (timingApply s) := by
  unfold timingApply
  split
  · exact h
  · apply takeTiming_kept
    exact h

theorem pixelLocked_kept (s : State) (h : Kept s0 s) :
    Kept s0 (pixelLocked s) := by
  unfold pixelLocked
  split
  · exact h
  · split
    · exact h
    · apply setScn_kept
      exact h

theorem scanReset_kept (s : State) (h : Kept s0 s) :
    Kept s0 (scanReset s) := by
  unfold scanReset
  extract_lets +onlyGivenNames y4
  have hy4 : Kept s0 y4 := by
    subst y4
    apply regsFilter_kept
    exact h
  clear_value y4
  extract_lets +onlyGivenNames y6
  have hy6 : Kept s0 y6 := by
    subst y6
    apply setSynth_kept
    exact hy4
  clear_value y6
  apply trainLink_kept
  apply setScn_kept
  exact hy6

theorem auxResult_kept (code : Nat) (s : State) (h : Kept s0 s) :
    Kept s0 (auxResult code s) := by
  unfold auxResult
  apply setScn_kept
  apply State_setField_kept
  apply State_setField_kept
  exact h

theorem auxBegin_kept (s : State) (h : Kept s0 s) :
    Kept s0 (auxBegin s) := by
  unfold auxBegin
  split
  · apply setScn_kept
    apply auxResult_kept
    exact h
  · split
    · apply setScn_kept
      exact h
    · extract_lets +onlyGivenNames y6
      clear_value y6
      apply setScn_kept
      exact h

theorem auxGo_kept (s : State) (h : Kept s0 s) :
    Kept s0 (auxGo s) := by
  unfold auxGo
  split
  · exact h
  · apply auxBegin_kept
    exact h

theorem auxNext_kept (s : State) (h : Kept s0 s) :
    Kept s0 (auxNext s) := by
  unfold auxNext
  split
  · apply auxBegin_kept
    exact h
  · exact h

theorem doHpdUnplug_kept (s : State) (h : Kept s0 s) :
    Kept s0 (doHpdUnplug s) := by
  unfold doHpdUnplug
  split
  · exact h
  · apply auxNext_kept
    apply setScn_kept
    exact h

theorem doHpdPlug_kept (s : State) (h : Kept s0 s) :
    Kept s0 (doHpdPlug s) := by
  unfold doHpdPlug
  split
  · exact h
  · extract_lets +onlyGivenNames y5
    have hy5 : Kept s0 y5 := by
      subst y5
      apply setScn_kept
      exact h
    clear_value y5
    split
    · apply trainLink_kept
      exact hy5
    · exact hy5

theorem doHpdIrq_kept (lost : Bool) (s : State) (h : Kept s0 s) :
    Kept s0 (doHpdIrq lost s) := by
  unfold doHpdIrq
  split
  · exact h
  · extract_lets +onlyGivenNames y6
    have hy6 : Kept s0 y6 := by
      subst y6
      apply setScn_kept
      exact h
    clear_value y6
    split
    · apply trainLink_kept
      exact hy6
    · exact hy6

theorem doDpTrainingComplete_kept (ok sinkDownspread : Bool) (s : State) (h : Kept s0 s) :
    Kept s0 (doDpTrainingComplete ok sinkDownspread s) := by
  unfold doDpTrainingComplete
  split
  · exact h
  · apply auxNext_kept
    apply setScn_kept
    exact h

theorem doDpTrainingRetry_kept (s : State) (h : Kept s0 s) :
    Kept s0 (doDpTrainingRetry s) := by
  unfold doDpTrainingRetry
  split
  · exact h
  · apply trainLink_kept
    apply waitUp_kept
    exact h

theorem auxData_kept (d : Data) (s : State) (h : Kept s0 s) :
    Kept s0 (auxData d s) := by
  unfold auxData
  apply forL_kept
  · intro x5 x6 h7
    apply State_setField_kept
    exact h7
  · exact h

theorem doAuxReply_kept (code : Nat) (data : Data) (s : State) (h : Kept s0 s) :
    Kept s0 (doAuxReply code data s) := by
  unfold doAuxReply
  split
  · exact h
  · split
    · apply auxResult_kept
      apply auxData_kept
      exact h
    · split
      · split
        · apply setScn_kept
          exact h
        · apply auxResult_kept
          exact h
      · apply auxResult_kept
        exact h

theorem doAuxTimeout_kept (s : State) (h : Kept s0 s) :
    Kept s0 (doAuxTimeout s) := by
  unfold doAuxTimeout
  split
  · exact h
  · apply auxResult_kept
    apply waitUp_kept
    exact h

end Sys2Proof.Laws
end

