-- ==== Sys2Proof/Laws/KeptCollector.lean ====
section
/-! SUPPORT. The operations of Machine/Collector.lean keep what every command keeps. -/

namespace Sys2Proof.Laws

set_option Elab.async false

open Sys2Proof.Machine

variable {s0 : State}

theorem noteRecord_kept (id : Nat) (rec_ : Data) (place : Option Nat) (s : State) (h : Kept s0 s) :
    Kept s0 (noteRecord id rec_ place s) := by
  unfold noteRecord
  extract_lets +onlyGivenNames y7
  clear_value y7
  split
  · exact h
  · extract_lets +onlyGivenNames y9
    clear_value y9
    apply setTask_kept
    exact h

theorem putTaskRecord_kept (id : Nat) (rec_ : Data) (tEnd : Nat) (s : State) (h : Kept s0 s) :
    Kept s0 (putTaskRecord id rec_ tEnd s) := by
  unfold putTaskRecord
  split
  · apply noteRecord_kept
    apply publishSpectra_kept
    exact h
  · exact h

theorem putMarker_kept (id code index epoch flags : Nat) (s : State) (h : Kept s0 s) :
    Kept s0 (putMarker id code index epoch flags s) := by
  unfold putMarker
  split
  · apply putTaskRecord_kept
    exact h
  · exact h

theorem putCovering_kept (id last : Nat) (rec_ : Data) (s : State) (h : Kept s0 s) :
    Kept s0 (putCovering id last rec_ s) := by
  unfold putCovering
  split
  · extract_lets +onlyGivenNames y12
    clear_value y12
    extract_lets +onlyGivenNames y13
    have hy13 : Kept s0 y13 := by
      subst y13
      apply setTask_kept
      exact h
    clear_value y13
    extract_lets +onlyGivenNames y15
    have hy15 : Kept s0 y15 := by
      subst y15
      apply forL_kept
      · intro x15 x16 h17
        apply putMarker_kept
        exact h17
      · exact hy13
    clear_value y15
    apply putTaskRecord_kept
    exact hy15
  · exact h

theorem closeRecord_kept (id : Nat) (final : Bool) (s : State) (h : Kept s0 s) :
    Kept s0 (closeRecord id final s) := by
  unfold closeRecord
  split
  · split
    · extract_lets +onlyGivenNames y16
      clear_value y16
      extract_lets +onlyGivenNames y17
      have hy17 : Kept s0 y17 := by
        subst y17
        apply setTask_kept
        exact h
      clear_value y17
      apply putCovering_kept
      exact hy17
    · exact h
  · exact h

theorem flushTaskGap_kept (id : Nat) (final : Bool) (s : State) (h : Kept s0 s) :
    Kept s0 (flushTaskGap id final s) := by
  unfold flushTaskGap
  split
  · split
    · extract_lets +onlyGivenNames y16
      clear_value y16
      extract_lets +onlyGivenNames y17
      have hy17 : Kept s0 y17 := by
        subst y17
        apply setTask_kept
        exact h
      clear_value y17
      apply putCovering_kept
      exact hy17
    · exact h
  · exact h

theorem addGap_kept (id first last cause : Nat) (s : State) (h : Kept s0 s) :
    Kept s0 (addGap id first last cause s) := by
  unfold addGap
  extract_lets +onlyGivenNames y8
  have hy8 : Kept s0 y8 := by
    subst y8
    apply closeRecord_kept
    exact h
  clear_value y8
  split
  · extract_lets +onlyGivenNames y15
    clear_value y15
    extract_lets +onlyGivenNames y16
    clear_value y16
    split
    · split
      · apply setTask_kept
        exact hy8
      · apply setTask_kept
        apply flushTaskGap_kept
        exact hy8
    · apply setTask_kept
      exact hy8
  · exact hy8

theorem putSplit_kept (id first last epoch flags : Nat) (final : Bool) (points : Data) (s : State) (h : Kept s0 s) :
    Kept s0 (putSplit id first last epoch flags final points s) := by
  unfold putSplit
  split
  · extract_lets +onlyGivenNames y16
    clear_value y16
    extract_lets +onlyGivenNames y17
    clear_value y17
    extract_lets +onlyGivenNames y18
    clear_value y18
    extract_lets +onlyGivenNames y19
    have hy19 : Kept s0 y19 := by
      subst y19
      apply setTask_kept
      exact h
    clear_value y19
    apply forN_kept
    · intro x21 x22 h23
      extract_lets +onlyGivenNames y24
      clear_value y24
      apply putCovering_kept
      exact h23
    · exact hy19
  · exact h

theorem addVector_kept (id first last flags : Nat) (points : Data) (s : State) (h : Kept s0 s) :
    Kept s0 (addVector id first last flags points s) := by
  unfold addVector
  extract_lets +onlyGivenNames y9
  have hy9 : Kept s0 y9 := by
    subst y9
    apply flushTaskGap_kept
    exact h
  clear_value y9
  split
  · extract_lets +onlyGivenNames y16
    clear_value y16
    extract_lets +onlyGivenNames y17
    clear_value y17
    split
    · apply putSplit_kept
      apply closeRecord_kept
      exact hy9
    · extract_lets +onlyGivenNames y19
      clear_value y19
      extract_lets +onlyGivenNames y20
      have hy20 : Kept s0 y20 := by
        subst y20
        apply setTask_kept
        exact hy9
      clear_value y20
      split
      · apply closeRecord_kept
        exact hy20
      · exact hy20
  · exact hy9

theorem keepVector_kept (id : Nat) (v : OutVector) (s : State) (h : Kept s0 s) :
    Kept s0 (keepVector id v s) := by
  unfold keepVector
  apply setTask_kept
  exact h

theorem endCell_kept (id last : Nat) (s : State) (h : Kept s0 s) :
    Kept s0 (endCell id last s) := by
  unfold endCell
  split
  · extract_lets +onlyGivenNames y11
    clear_value y11
    extract_lets +onlyGivenNames y12
    clear_value y12
    extract_lets +onlyGivenNames y13
    clear_value y13
    extract_lets +onlyGivenNames y14
    clear_value y14
    extract_lets +onlyGivenNames y15
    clear_value y15
    split
    · apply addGap_kept
      apply keepVector_kept
      apply setTask_kept
      exact h
    · extract_lets +onlyGivenNames y20
      clear_value y20
      extract_lets +onlyGivenNames y21
      clear_value y21
      extract_lets +onlyGivenNames y22
      clear_value y22
      extract_lets +onlyGivenNames y23
      have hy23 : Kept s0 y23 := by
        subst y23
        apply setTask_kept
        exact h
      clear_value y23
      extract_lets +onlyGivenNames y25
      have hy25 : Kept s0 y25 := by
        subst y25
        split
        · exact hy23
        · apply raiseW_kept
          exact hy23
      clear_value y25
      apply addVector_kept
      apply keepVector_kept
      exact hy25
  · exact h

theorem applyModify_kept (id k : Nat) (m : PendingModify) (s : State) (h : Kept s0 s) :
    Kept s0 (applyModify id k m s) := by
  unfold applyModify
  extract_lets +onlyGivenNames y7
  have hy7 : Kept s0 y7 := by
    subst y7
    split
    · split
      · exact h
      · apply endCell_kept
        exact h
    · exact h
  clear_value y7
  extract_lets +onlyGivenNames y9
  have hy9 : Kept s0 y9 := by
    subst y9
    apply flushTaskGap_kept
    apply closeRecord_kept
    exact hy7
  clear_value y9
  split
  · extract_lets +onlyGivenNames y16
    clear_value y16
    extract_lets +onlyGivenNames y17
    clear_value y17
    extract_lets +onlyGivenNames y18
    have hy18 : Kept s0 y18 := by
      subst y18
      apply setTask_kept
      exact hy9
    clear_value y18
    apply putMarker_kept
    exact hy18
  · exact hy9

theorem putFlags_kept (t : Task) (last : Nat) (rec_ : Data) (s : State) (h : Kept s0 s) :
    Kept s0 (putFlags t last rec_ s) := by
  unfold putFlags
  split
  · apply putTaskRecord_kept
    exact h
  · apply putCovering_kept
    exact h

theorem skStep_kept (id k : Nat) (u : CommitUnit) (s : State) (h : Kept s0 s) :
    Kept s0 (skStep id k u s) := by
  unfold skStep
  split
  · split
    · exact h
    · extract_lets +onlyGivenNames y13
      clear_value y13
      extract_lets +onlyGivenNames y14
      clear_value y14
      extract_lets +onlyGivenNames y15
      clear_value y15
      extract_lets +onlyGivenNames y16
      clear_value y16
      extract_lets +onlyGivenNames y17
      clear_value y17
      extract_lets +onlyGivenNames y18
      clear_value y18
      extract_lets +onlyGivenNames y19
      clear_value y19
      extract_lets +onlyGivenNames y20
      clear_value y20
      extract_lets +onlyGivenNames y21
      clear_value y21
      extract_lets +onlyGivenNames y22
      have hy22 : Kept s0 y22 := by
        subst y22
        apply setTask_kept
        exact h
      clear_value y22
      split
      · exact hy22
      · extract_lets +onlyGivenNames y25
        clear_value y25
        extract_lets +onlyGivenNames y26
        clear_value y26
        extract_lets +onlyGivenNames y27
        clear_value y27
        extract_lets +onlyGivenNames y28
        clear_value y28
        extract_lets +onlyGivenNames y29
        clear_value y29
        extract_lets +onlyGivenNames y30
        have hy30 : Kept s0 y30 := by
          subst y30
          split
          · exact hy22
          · apply putFlags_kept
            exact hy22
        clear_value y30
        extract_lets +onlyGivenNames y32
        have hy32 : Kept s0 y32 := by
          subst y32
          split
          · apply setTask_kept
            exact hy30
          · exact hy30
        clear_value y32
        split
        · apply offerSkBlock_kept
          exact hy32
        · exact hy32
  · exact h

theorem processUnit_kept (id : Nat) (u : CommitUnit) (s : State) (h : Kept s0 s) :
    Kept s0 (processUnit id u s) := by
  unfold processUnit
  extract_lets +onlyGivenNames y6
  clear_value y6
  extract_lets +onlyGivenNames y7
  have hy7 : Kept s0 y7 := by
    subst y7
    split
    · split
      · split
        · apply applyModify_kept
          exact h
        · exact h
      · exact h
    · exact h
  clear_value y7
  split
  · exact hy7
  · extract_lets +onlyGivenNames y14
    have hy14 : Kept s0 y14 := by
      subst y14
      split
      · split
        · apply closeRecord_kept
          exact hy7
        · exact hy7
      · exact hy7
    clear_value y14
    extract_lets +onlyGivenNames y16
    have hy16 : Kept s0 y16 := by
      subst y16
      apply setTask_kept
      exact hy14
    clear_value y16
    extract_lets +onlyGivenNames y18
    have hy18 : Kept s0 y18 := by
      subst y18
      split
      · exact hy16
      · apply skStep_kept
        exact hy16
    clear_value y18
    split
    · apply endCell_kept
      exact hy18
    · exact hy18

theorem dropShares_kept (id : Nat) (p : Share → Bool) (s : State) (h : Kept s0 s) :
    Kept s0 (dropShares id p s) := by
  unfold dropShares
  apply forL_kept
  · intro x6 x7 h8
    extract_lets +onlyGivenNames y9
    clear_value y9
    split
    · extract_lets +onlyGivenNames y11
      have hy11 : Kept s0 y11 := by
        subst y11
        exact kept_with h8
      clear_value y11
      split
      · exact hy11
      · apply releasePower_kept
        exact hy11
    · exact h8
  · exact h

theorem changeShares_kept (id : Nat) (p : Share → Bool) (f : Share → Share) (s : State) (h : Kept s0 s) :
    Kept s0 (changeShares id p f s) := by
  unfold changeShares
  extract_lets +onlyGivenNames y7
  clear_value y7
  exact kept_with h

theorem cancelShares_kept (did id epoch limit : Nat) (s : State) (h : Kept s0 s) :
    Kept s0 (cancelShares did id epoch limit s) := by
  unfold cancelShares
  apply send_kept
  exact h

theorem cancelPeers_kept (t : Task) (s : State) (h : Kept s0 s) :
    Kept s0 (cancelPeers t s) := by
  unfold cancelPeers
  extract_lets +onlyGivenNames y5
  have hy5 : Kept s0 y5 := by
    subst y5
    split
    · apply cancelShares_kept
      exact h
    · exact h
  clear_value y5
  split
  · split
    · apply cancelShares_kept
      exact hy5
    · exact hy5
  · exact hy5

theorem releasePlacement_kept (id : Nat) (older : Bool) (s : State) (h : Kept s0 s) :
    Kept s0 (releasePlacement id older s) := by
  unfold releasePlacement
  extract_lets +onlyGivenNames y6
  clear_value y6
  exact kept_of h rfl rfl rfl rfl rfl

theorem endTask_kept (id : Nat) (s : State) (h : Kept s0 s) :
    Kept s0 (endTask id s) := by
  unfold endTask
  split
  · exact h
  · extract_lets +onlyGivenNames y10
    clear_value y10
    extract_lets +onlyGivenNames y11
    have hy11 : Kept s0 y11 := by
      subst y11
      apply endSpectral_kept
      exact h
    clear_value y11
    extract_lets +onlyGivenNames y13
    have hy13 : Kept s0 y13 := by
      subst y13
      split
      · apply detachMaps_kept
        apply detachTask_kept
        exact hy11
      · exact hy11
    clear_value y13
    extract_lets +onlyGivenNames y15
    have hy15 : Kept s0 y15 := by
      subst y15
      apply releaseFlow_kept
      apply cancelPeers_kept
      apply dropShares_kept
      exact hy13
    clear_value y15
    extract_lets +onlyGivenNames y17
    have hy17 : Kept s0 y17 := by
      subst y17
      apply releaseAll_kept
      apply releaseAll_kept
      apply releaseAll_kept
      apply releaseAll_kept
      exact hy15
    clear_value y17
    extract_lets +onlyGivenNames y19
    have hy19 : Kept s0 y19 := by
      subst y19
      exact kept_with hy17
    clear_value y19
    extract_lets +onlyGivenNames y21
    have hy21 : Kept s0 y21 := by
      subst y21
      split
      · apply taskEvent_kept
        exact hy19
      · apply taskEvent_kept
        exact hy19
      · exact hy19
    clear_value y21
    split
    · split
      · apply done_kept
        exact hy21
      · exact hy21
    · exact hy21

theorem addOpenBlock_kept (id : Nat) (s : State) (h : Kept s0 s) :
    Kept s0 (addOpenBlock id s) := by
  unfold addOpenBlock
  split
  · extract_lets +onlyGivenNames y10
    clear_value y10
    split
    · apply setTask_kept
      exact h
    · exact h
  · exact h

theorem finishTask_kept (id : Nat) (s : State) (h : Kept s0 s) :
    Kept s0 (finishTask id s) := by
  unfold finishTask
  extract_lets +onlyGivenNames y5
  have hy5 : Kept s0 y5 := by
    subst y5
    apply addOpenBlock_kept
    exact h
  clear_value y5
  extract_lets +onlyGivenNames y7
  have hy7 : Kept s0 y7 := by
    subst y7
    split
    · split
      · exact hy5
      · apply endCell_kept
        exact hy5
    · exact hy5
  clear_value y7
  extract_lets +onlyGivenNames y9
  have hy9 : Kept s0 y9 := by
    subst y9
    split
    · split
      · apply closeRecord_kept
        exact hy7
      · split
        · apply flushTaskGap_kept
          exact hy7
        · split
          · exact hy7
          · apply putMarker_kept
            exact hy7
    · exact hy7
  clear_value y9
  apply endTask_kept
  exact hy9

theorem advanceTask_kept (id : Nat) (cnt : Nat) (s : State) (h : Kept s0 s) :
    Kept s0 (advanceTask id cnt s) := by
  induction cnt generalizing s with
  | zero => exact h
  | succ cnt ih =>
    unfold advanceTask
    split
    · exact h
    · extract_lets +onlyGivenNames y13
      clear_value y13
      split
      · split
        · apply finishTask_kept
          exact h
        · split
          · exact h
          · split
            · extract_lets +onlyGivenNames y26
              have hy26 : Kept s0 y26 := by
                subst y26
                apply processUnit_kept
                exact h
              clear_value y26
              apply ih
              apply setTask_kept
              exact hy26
            · split
              · split
                · extract_lets +onlyGivenNames y31
                  clear_value y31
                  extract_lets +onlyGivenNames y32
                  have hy32 : Kept s0 y32 := by
                    subst y32
                    split
                    · apply offerSpectrum_kept
                      exact h
                    · exact h
                  clear_value y32
                  apply ih
                  apply setTask_kept
                  apply processUnit_kept
                  exact hy32
                · exact h
              · exact h
      · split
        · apply finishTask_kept
          exact h
        · split
          · exact h
          · split
            · extract_lets +onlyGivenNames y25
              have hy25 : Kept s0 y25 := by
                subst y25
                apply processUnit_kept
                exact h
              clear_value y25
              apply ih
              apply setTask_kept
              exact hy25
            · split
              · split
                · extract_lets +onlyGivenNames y30
                  clear_value y30
                  extract_lets +onlyGivenNames y31
                  have hy31 : Kept s0 y31 := by
                    subst y31
                    split
                    · apply offerSpectrum_kept
                      exact h
                    · exact h
                  clear_value y31
                  apply ih
                  apply setTask_kept
                  apply processUnit_kept
                  exact hy31
                · exact h
              · exact h

theorem publishTask_kept (id : Nat) (s : State) (h : Kept s0 s) :
    Kept s0 (publishTask id s) := by
  unfold publishTask
  split
  · apply advanceTask_kept
    exact h
  · exact h

theorem catchUp_kept (id k released : Nat) (s : State) (h : Kept s0 s) :
    Kept s0 (catchUp id k released s) := by
  unfold catchUp
  split
  · split
    · apply taskEvent_kept
      apply setTask_kept
      exact h
    · exact h
  · exact h

theorem offerUnit_kept (t : Task) (u : CommitUnit) (s : State) (h : Kept s0 s) :
    Kept s0 (offerUnit t u s) := by
  unfold offerUnit
  split
  · exact h
  · extract_lets +onlyGivenNames y7
    have hy7 : Kept s0 y7 := by
      subst y7
      apply offerSpectrum_kept
      exact h
    clear_value y7
    split
    · exact hy7
    · apply offerMaps_kept
      exact hy7

theorem abortMigration_kept (id reason : Nat) (s : State) (h : Kept s0 s) :
    Kept s0 (abortMigration id reason s) := by
  unfold abortMigration
  split
  · exact h
  · split
    · exact h
    · extract_lets +onlyGivenNames y16
      have hy16 : Kept s0 y16 := by
        subst y16
        apply dropShares_kept
        exact h
      clear_value y16
      extract_lets +onlyGivenNames y18
      have hy18 : Kept s0 y18 := by
        subst y18
        apply changeShares_kept
        exact hy16
      clear_value y18
      extract_lets +onlyGivenNames y20
      have hy20 : Kept s0 y20 := by
        subst y20
        apply setTask_kept
        exact hy18
      clear_value y20
      extract_lets +onlyGivenNames y22
      have hy22 : Kept s0 y22 := by
        subst y22
        split
        · apply cancelShares_kept
          exact hy20
        · exact hy20
      clear_value y22
      extract_lets +onlyGivenNames y24
      have hy24 : Kept s0 y24 := by
        subst y24
        split
        · apply releasePlacement_kept
          exact hy22
        · apply releaseFlow_kept
          apply releaseAll_kept
          exact hy22
      clear_value y24
      extract_lets +onlyGivenNames y26
      have hy26 : Kept s0 y26 := by
        subst y26
        apply taskEvent_kept
        exact hy24
      clear_value y26
      split
      · apply publishTask_kept
        apply complete_kept
        exact hy26
      · apply publishTask_kept
        exact hy26

theorem completeMigration_kept (id : Nat) (s : State) (h : Kept s0 s) :
    Kept s0 (completeMigration id s) := by
  unfold completeMigration
  split
  · exact h
  · split
    · exact h
    · extract_lets +onlyGivenNames y15
      clear_value y15
      extract_lets +onlyGivenNames y16
      have hy16 : Kept s0 y16 := by
        subst y16
        apply setTask_kept
        exact h
      clear_value y16
      extract_lets +onlyGivenNames y18
      have hy18 : Kept s0 y18 := by
        subst y18
        apply dropShares_kept
        exact hy16
      clear_value y18
      extract_lets +onlyGivenNames y20
      have hy20 : Kept s0 y20 := by
        subst y20
        split
        · apply cancelShares_kept
          apply releasePlacement_kept
          exact hy18
        · exact hy18
      clear_value y20
      extract_lets +onlyGivenNames y22
      have hy22 : Kept s0 y22 := by
        subst y22
        apply taskEvent_kept
        exact hy20
      clear_value y22
      split
      · apply publishTask_kept
        apply done_kept
        exact hy22
      · apply publishTask_kept
        exact hy22

theorem migrationStep_kept (id : Nat) (u : CommitUnit) (s : State) (h : Kept s0 s) :
    Kept s0 (migrationStep id u s) := by
  unfold migrationStep
  split
  · split
    · split
      · apply completeMigration_kept
        exact h
      · split
        · apply abortMigration_kept
          exact h
        · exact h
    · exact h
  · exact h

theorem laterResult_kept (t : Task) (u : CommitUnit) (s : State) (h : Kept s0 s) :
    Kept s0 (laterResult t u s) := by
  unfold laterResult
  split
  · split
    · apply taskEvent_kept
      apply setTask_kept
      exact h
    · exact h
  · exact h

theorem lostSpan_kept (t : Task) (u : CommitUnit) (s : State) (h : Kept s0 s) :
    Kept s0 (lostSpan t u s) := by
  unfold lostSpan
  extract_lets +onlyGivenNames y6
  clear_value y6
  split
  · apply taskEvent_kept
    exact h
  · exact h

theorem acceptMain_kept (t : Task) (u : CommitUnit) (s : State) (h : Kept s0 s) :
    Kept s0 (acceptMain t u s) := by
  unfold acceptMain
  split
  · split
    · exact h
    · split
      · apply setTask_kept
        exact h
      · split
        · apply migrationStep_kept
          apply laterResult_kept
          exact h
        · extract_lets +onlyGivenNames y14
          clear_value y14
          extract_lets +onlyGivenNames y15
          extract_lets +onlyGivenNames y16
          have hy16 : Kept s0 y16 := by
            subst y16
            apply lostSpan_kept
            exact h
          clear_value y16
          extract_lets +onlyGivenNames y18
          have hy18 : Kept s0 y18 := by
            subst y18
            apply setTask_kept
            exact hy16
          clear_value y18
          extract_lets +onlyGivenNames y20
          have hy20 : Kept s0 y20 := by
            subst y20
            split
            · exact hy18
            · apply offerUnit_kept
              exact hy18
          clear_value y20
          extract_lets +onlyGivenNames y22
          have hy22 : Kept s0 y22 := by
            subst y22
            split
            · exact hy20
            · apply raiseW_kept
              exact hy20
          clear_value y22
          extract_lets +onlyGivenNames y24
          have hy24 : Kept s0 y24 := by
            subst y24
            split
            · apply catchUp_kept
              exact hy22
            · exact hy22
          clear_value y24
          apply publishTask_kept
          apply migrationStep_kept
          exact hy24
  · split
    · exact h
    · split
      · apply setTask_kept
        exact h
      · split
        · apply migrationStep_kept
          apply laterResult_kept
          exact h
        · extract_lets +onlyGivenNames y13
          clear_value y13
          extract_lets +onlyGivenNames y14
          extract_lets +onlyGivenNames y15
          have hy15 : Kept s0 y15 := by
            subst y15
            apply lostSpan_kept
            exact h
          clear_value y15
          extract_lets +onlyGivenNames y17
          have hy17 : Kept s0 y17 := by
            subst y17
            apply setTask_kept
            exact hy15
          clear_value y17
          extract_lets +onlyGivenNames y19
          have hy19 : Kept s0 y19 := by
            subst y19
            split
            · exact hy17
            · apply offerUnit_kept
              exact hy17
          clear_value y19
          extract_lets +onlyGivenNames y21
          have hy21 : Kept s0 y21 := by
            subst y21
            split
            · exact hy19
            · apply raiseW_kept
              exact hy19
          clear_value y21
          extract_lets +onlyGivenNames y23
          have hy23 : Kept s0 y23 := by
            subst y23
            split
            · apply catchUp_kept
              exact hy21
            · exact hy21
          clear_value y23
          apply publishTask_kept
          apply migrationStep_kept
          exact hy23

theorem advanceCoarse_kept (id : Nat) (cnt : Nat) (s : State) (h : Kept s0 s) :
    Kept s0 (advanceCoarse id cnt s) := by
  induction cnt generalizing s with
  | zero => exact h
  | succ cnt ih =>
    unfold advanceCoarse
    split
    · exact h
    · split
      · extract_lets +onlyGivenNames y18
        clear_value y18
        extract_lets +onlyGivenNames y19
        have hy19 : Kept s0 y19 := by
          subst y19
          apply skStep_kept
          exact h
        clear_value y19
        apply ih
        apply setTask_kept
        exact hy19
      · exact h

theorem acceptCoarse_kept (t : Task) (u : CommitUnit) (s : State) (h : Kept s0 s) :
    Kept s0 (acceptCoarse t u s) := by
  unfold acceptCoarse
  split
  · exact h
  · extract_lets +onlyGivenNames y7
    clear_value y7
    extract_lets +onlyGivenNames y8
    have hy8 : Kept s0 y8 := by
      subst y8
      split
      · exact h
      · apply storeWrite_kept
        exact h
    clear_value y8
    extract_lets +onlyGivenNames y10
    have hy10 : Kept s0 y10 := by
      subst y10
      apply setTask_kept
      exact hy8
    clear_value y10
    extract_lets +onlyGivenNames y12
    have hy12 : Kept s0 y12 := by
      subst y12
      split
      · exact hy10
      · apply raiseW_kept
        exact hy10
    clear_value y12
    extract_lets +onlyGivenNames y14
    have hy14 : Kept s0 y14 := by
      subst y14
      apply catchUp_kept
      exact hy12
    clear_value y14
    apply advanceCoarse_kept
    apply offerUnit_kept
    exact hy14

end Sys2Proof.Laws
end

