-- ==== Sys2Proof/Laws/KeptTileOps.lean ====
section
/-! SUPPORT. The operations of Machine/TileOps.lean keep what every command keeps. -/

namespace Sys2Proof.Laws

set_option Elab.async false

open Sys2Proof.Machine

variable {s0 : State}

theorem setTile_kept (n : Fin 20) (f : Tile → Tile) (s : State) (h : Kept s0 s) :
    Kept s0 (setTile n f s) := by
  unfold setTile
  exact kept_with h

theorem addShares_kept (l : List (Nat × Share)) (s : State) (h : Kept s0 s) :
    Kept s0 (addShares l s) := by
  unfold addShares
  apply forL_kept
  · intro x5 x6 h7
    split
    · apply setTile_kept
      exact h7
    · exact h7
  · exact h

theorem stageShares_kept (l : List (Nat × Share)) (s : State) (h : Kept s0 s) :
    Kept s0 (stageShares l s) := by
  unfold stageShares
  apply forL_kept
  · intro x5 x6 h7
    split
    · apply setTile_kept
      exact h7
    · exact h7
  · exact h

theorem splitTileGrants_kept (owner : Owner) (cls : Nat) (tiles : List Nat) (s : State) (h : Kept s0 s) :
    Kept s0 (splitTileGrants owner cls tiles s) := by
  unfold splitTileGrants
  split
  · exact h
  · apply setPower_kept
    exact h

theorem setShare_kept (n : Fin 20) (k : ShareKey) (f : Share → Share) (s : State) (h : Kept s0 s) :
    Kept s0 (setShare n k f s) := by
  unfold setShare
  apply setTile_kept
  exact h

theorem fenceTile_kept (n : Fin 20) (cause : Nat) (s : State) (h : Kept s0 s) :
    Kept s0 (fenceTile n cause s) := by
  unfold fenceTile
  split
  · exact h
  · extract_lets +onlyGivenNames y7
    clear_value y7
    extract_lets +onlyGivenNames y8
    have hy8 : Kept s0 y8 := by
      subst y8
      apply setTile_kept
      exact h
    clear_value y8
    extract_lets +onlyGivenNames y10
    have hy10 : Kept s0 y10 := by
      subst y10
      apply releasePower_kept
      exact hy8
    clear_value y10
    extract_lets +onlyGivenNames y12
    clear_value y12
    extract_lets +onlyGivenNames y13
    have hy13 : Kept s0 y13 := by
      subst y13
      exact kept_with hy10
    clear_value y13
    extract_lets +onlyGivenNames y15
    have hy15 : Kept s0 y15 := by
      subst y15
      apply raise_kept
      exact hy13
    clear_value y15
    apply forL_kept
    · intro x17 x18 h19
      split
      · exact h19
      · extract_lets +onlyGivenNames y25
        clear_value y25
        split
        · split
          · apply abortMigration_kept
            exact h19
          · apply setTask_kept
            exact h19
        · exact h19
    · exact hy15

theorem loseIndices_kept (id cause : Nat) (l : List Nat) (s : State) (h : Kept s0 s) :
    Kept s0 (loseIndices id cause l s) := by
  unfold loseIndices
  extract_lets +onlyGivenNames y7
  have hy7 : Kept s0 y7 := by
    subst y7
    apply forL_kept
    · intro x7 x8 h9
      split
      · split
        · apply acceptCoarse_kept
          exact h9
        · apply acceptMain_kept
          exact h9
      · exact h9
    · exact h
  clear_value y7
  split
  · exact hy7
  · split
    · apply raise_kept
      apply setPower_kept
      exact hy7
    · exact hy7

theorem loseFine_kept (id cause : Nat) (l : List Nat) (s : State) (h : Kept s0 s) :
    Kept s0 (loseFine id cause l s) := by
  unfold loseFine
  apply forL_kept
  · intro x7 x8 h9
    split
    · apply acceptMain_kept
      exact h9
    · exact h9
  · exact h

theorem placeBackfill_kept (t : Task) (role foot : Nat) (s : State) (h : Kept s0 s) :
    Kept s0 (placeBackfill t role foot s) := by
  unfold placeBackfill
  apply forL_kept
  · intro x7 x8 h9
    apply addShares_kept
    exact h9
  · exact h

theorem startBackfill_kept (id : Nat) (s : State) (h : Kept s0 s) :
    Kept s0 (startBackfill id s) := by
  unfold startBackfill
  split
  · exact h
  · split
    · exact h
    · extract_lets +onlyGivenNames y15
      have hy15 : Kept s0 y15 := by
        subst y15
        apply setTask_kept
        exact h
      clear_value y15
      extract_lets +onlyGivenNames y17
      have hy17 : Kept s0 y17 := by
        subst y17
        split
        · exact hy15
        · apply placeBackfill_kept
          exact hy15
      clear_value y17
      split
      · exact hy17
      · apply placeBackfill_kept
        exact hy17

theorem beginBackfill_kept (id ku kr sixteenths cause : Nat) (indices fine : List Nat) (s : State) (h : Kept s0 s) :
    Kept s0 (beginBackfill id ku kr sixteenths cause indices fine s) := by
  unfold beginBackfill
  split
  · exact h
  · extract_lets +onlyGivenNames y16
    clear_value y16
    extract_lets +onlyGivenNames y17
    clear_value y17
    extract_lets +onlyGivenNames y18
    have hy18 : Kept s0 y18 := by
      subst y18
      apply setTask_kept
      exact h
    clear_value y18
    extract_lets +onlyGivenNames y20
    have hy20 : Kept s0 y20 := by
      subst y20
      apply taskEvent_kept
      exact hy18
    clear_value y20
    extract_lets +onlyGivenNames y22
    have hy22 : Kept s0 y22.2 := by
      subst y22
      apply requestInternal_kept
      exact hy20
    clear_value y22
    split
    · apply startBackfill_kept
      exact hy22
    · exact hy22
    · apply loseFine_kept
      apply loseIndices_kept
      apply setTask_kept
      exact hy22

theorem backfillDone_kept (id k : Nat) (fine : Bool) (s : State) (h : Kept s0 s) :
    Kept s0 (backfillDone id k fine s) := by
  unfold backfillDone
  apply setTask_kept
  exact h

theorem stopResidues_kept (id : Nat) (x : Share) (residues : List Nat) (cause : Nat) (stop : Option Nat) (s : State) (h : Kept s0 s) :
    Kept s0 (stopResidues id x residues cause stop s) := by
  unfold stopResidues
  split
  · exact h
  · apply taskEvent_kept
    apply setTask_kept
    exact h

theorem replaceShare_kept (x : Share) (tiles : List (Nat × Nat)) (deadCause backCause : Nat) (s : State) (h : Kept s0 s) :
    Kept s0 (replaceShare x tiles deadCause backCause s) := by
  unfold replaceShare
  split
  · exact h
  · extract_lets +onlyGivenNames y13
    clear_value y13
    extract_lets +onlyGivenNames y14
    clear_value y14
    extract_lets +onlyGivenNames y15
    clear_value y15
    extract_lets +onlyGivenNames y16
    clear_value y16
    extract_lets +onlyGivenNames y17
    clear_value y17
    extract_lets +onlyGivenNames y18
    clear_value y18
    extract_lets +onlyGivenNames y19
    clear_value y19
    extract_lets +onlyGivenNames y20
    have hy20 : Kept s0 y20 := by
      subst y20
      apply stageShares_kept
      exact h
    clear_value y20
    extract_lets +onlyGivenNames y22
    have hy22 : Kept s0 y22 := by
      subst y22
      apply stopResidues_kept
      exact hy20
    clear_value y22
    extract_lets +onlyGivenNames y24
    clear_value y24
    extract_lets +onlyGivenNames y25
    have hy25 : Kept s0 y25 := by
      subst y25
      split
      · exact hy22
      · split
        · apply beginBackfill_kept
          exact hy22
        · apply beginBackfill_kept
          exact hy22
    clear_value y25
    apply publishTask_kept
    exact hy25

theorem forgetReads_kept (n : Fin 20) (s : State) (h : Kept s0 s) :
    Kept s0 (forgetReads n s) := by
  unfold forgetReads
  extract_lets +onlyGivenNames y5
  clear_value y5
  exact kept_with h

theorem abandonRun_kept (n : Fin 20) (causes : List Nat) (idx : Option Nat) (s : State) (h : Kept s0 s) :
    Kept s0 (abandonRun n causes idx s) := by
  unfold abandonRun
  extract_lets +onlyGivenNames y7
  clear_value y7
  split
  · exact h
  · extract_lets +onlyGivenNames y13
    clear_value y13
    extract_lets +onlyGivenNames y14
    clear_value y14
    extract_lets +onlyGivenNames y15
    clear_value y15
    extract_lets +onlyGivenNames y16
    have hy16 : Kept s0 y16 := by
      subst y16
      apply forgetReads_kept
      exact h
    clear_value y16
    extract_lets +onlyGivenNames y18
    have hy18 : Kept s0 y18 := by
      subst y18
      apply setTile_kept
      exact hy16
    clear_value y18
    split
    · apply fenceTile_kept
      exact hy18
    · split
      · apply fenceTile_kept
        exact hy18
      · exact hy18

end Sys2Proof.Laws
end

