-- ==== Sys2Proof/Laws/KeptUcode.lean ====
section
/-! SUPPORT. The operations of Machine/Ucode.lean keep what every command keeps. -/

namespace Sys2Proof.Laws

set_option Elab.async false

open Sys2Proof.Machine

variable {s0 : State}

theorem upsetWord_kept (n : Fin 20) (a bits_ : Nat) (s : State) (h : Kept s0 s) :
    Kept s0 (upsetWord n a bits_ s) := by
  unfold upsetWord
  apply setTile_kept
  exact h

theorem repairWord_kept (n : Fin 20) (a : Nat) (s : State) (h : Kept s0 s) :
    Kept s0 (repairWord n a s) := by
  unfold repairWord
  apply setTile_kept
  exact h

theorem startRun_kept (n : Fin 20) (x : Share) (batch : List Nat) (s : State) (h : Kept s0 s) :
    Kept s0 (startRun n x batch s) := by
  unfold startRun
  extract_lets +onlyGivenNames y7
  clear_value y7
  extract_lets +onlyGivenNames y8
  clear_value y8
  extract_lets +onlyGivenNames y9
  clear_value y9
  apply setTile_kept
  exact h

end Sys2Proof.Laws
end

