-- ==== Sys2Proof/Laws/KeptTiles.lean ====
section
/-! SUPPORT. The operations of Machine/Tiles.lean keep what every command keeps. -/

namespace Sys2Proof.Laws

set_option Elab.async false

open Sys2Proof.Machine

variable {s0 : State}

theorem setXcorr_kept (id : Nat) (f : Xcorr → Xcorr) (s : State) (h : Kept s0 s) :
    Kept s0 (setXcorr id f s) := by
  unfold setXcorr
  exact kept_with h

theorem xcOffer_kept (id slot k marks : Nat) (values : Option (List (Int × Int))) (cause : Nat) (s : State) (h : Kept s0 s) :
    Kept s0 (xcOffer id slot k marks values cause s) := by
  unfold xcOffer
  split
  · exact h
  · split
    · exact h
    · extract_lets +onlyGivenNames y16
      clear_value y16
      extract_lets +onlyGivenNames y17
      clear_value y17
      apply setXcorr_kept
      exact h

theorem xcSaturated_kept (id slot k n : Nat) (s : State) (h : Kept s0 s) :
    Kept s0 (xcSaturated id slot k n s) := by
  unfold xcSaturated
  split
  · exact h
  · apply raiseW_kept
    apply setXcorr_kept
    exact h

theorem xcDump_kept (id : Nat) (s : State) (h : Kept s0 s) :
    Kept s0 (xcDump id s) := by
  unfold xcDump
  split
  · exact h
  · extract_lets +onlyGivenNames y10
    clear_value y10
    extract_lets +onlyGivenNames y11
    clear_value y11
    extract_lets +onlyGivenNames y12
    clear_value y12
    extract_lets +onlyGivenNames y13
    clear_value y13
    extract_lets +onlyGivenNames y14
    clear_value y14
    extract_lets +onlyGivenNames y15
    clear_value y15
    extract_lets +onlyGivenNames y16
    clear_value y16
    extract_lets +onlyGivenNames y17
    have hy17 : Kept s0 y17 := by
      subst y17
      apply publishSpectra_kept
      exact h
    clear_value y17
    apply setXcorr_kept
    exact hy17

theorem xcAdvance_kept (id : Nat) (s : State) (h : Kept s0 s) :
    Kept s0 (xcAdvance id s) := by
  unfold xcAdvance
  extract_lets +onlyGivenNames y5
  have hy5 : Kept s0 y5 := by
    subst y5
    apply setXcorr_kept
    exact h
  clear_value y5
  split
  · split
    · apply xcDump_kept
      exact hy5
    · exact hy5
  · exact hy5

theorem xcAccumulate_kept (id k : Nat) (s : State) (h : Kept s0 s) :
    Kept s0 (xcAccumulate id k s) := by
  unfold xcAccumulate
  split
  · exact h
  · split
    · split
      · exact h
      · extract_lets +onlyGivenNames y17
        clear_value y17
        extract_lets +onlyGivenNames y18
        clear_value y18
        apply xcAdvance_kept
        apply setXcorr_kept
        exact h
    · exact h

theorem xcExclude_kept (id : Nat) (s : State) (h : Kept s0 s) :
    Kept s0 (xcExclude id s) := by
  unfold xcExclude
  split
  · exact h
  · extract_lets +onlyGivenNames y10
    have hy10 : Kept s0 y10 := by
      subst y10
      apply setXcorr_kept
      exact h
    clear_value y10
    apply xcAdvance_kept
    split
    · exact hy10
    · apply taskEvent_kept
      exact hy10

theorem doXcorrIndexTimeout_kept (id : Nat) (s : State) (h : Kept s0 s) :
    Kept s0 (doXcorrIndexTimeout id s) := by
  unfold doXcorrIndexTimeout
  split
  · exact h
  · split
    · exact h
    · extract_lets +onlyGivenNames y16
      clear_value y16
      split
      · exact h
      · extract_lets +onlyGivenNames y18
        have hy18 : Kept s0 y18 := by
          subst y18
          apply waitUp_kept
          exact h
        clear_value y18
        extract_lets +onlyGivenNames y20
        clear_value y20
        apply foldl_kept
        · intro x21 x22 h23
          apply xcExclude_kept
          exact h23
        · exact hy18

theorem sendSpectrum_kept (t : Task) (xc slot : Nat) (u : CommitUnit) (s : State) (h : Kept s0 s) :
    Kept s0 (sendSpectrum t xc slot u s) := by
  unfold sendSpectrum
  extract_lets +onlyGivenNames y8
  clear_value y8
  extract_lets +onlyGivenNames y9
  clear_value y9
  extract_lets +onlyGivenNames y10
  clear_value y10
  extract_lets +onlyGivenNames y11
  have hy11 : Kept s0 y11 := by
    subst y11
    apply setTask_kept
    exact h
  clear_value y11
  apply sendBulk_kept
  exact hy11

theorem acceptSource_kept (t : Task) (xc slot : Nat) (u : CommitUnit) (s : State) (h : Kept s0 s) :
    Kept s0 (acceptSource t xc slot u s) := by
  unfold acceptSource
  extract_lets +onlyGivenNames y8
  have hy8 : Kept s0 y8 := by
    subst y8
    apply catchUp_kept
    exact h
  clear_value y8
  split
  · apply sendSpectrum_kept
    exact hy8
  · extract_lets +onlyGivenNames y15
    have hy15 : Kept s0 y15 := by
      subst y15
      apply xcSaturated_kept
      exact hy8
    clear_value y15
    extract_lets +onlyGivenNames y17
    have hy17 : Kept s0 y17 := by
      subst y17
      apply setTask_kept
      exact hy15
    clear_value y17
    apply xcOffer_kept
    exact hy17

theorem acceptUnit_kept (u : CommitUnit) (s : State) (h : Kept s0 s) :
    Kept s0 (acceptUnit u s) := by
  unfold acceptUnit
  split
  · exact h
  · split
    · apply acceptSource_kept
      exact h
    · split
      · apply acceptCoarse_kept
        exact h
      · apply acceptMain_kept
        exact h

theorem doTileBatchStart_kept (n : Fin 20) (s : State) (h : Kept s0 s) :
    Kept s0 (doTileBatchStart n s) := by
  unfold doTileBatchStart
  extract_lets +onlyGivenNames y5
  clear_value y5
  split
  · exact h
  · split
    · apply setTile_kept
      exact h
    · extract_lets +onlyGivenNames y13
      clear_value y13
      extract_lets +onlyGivenNames y14
      have hy14 : Kept s0 y14 := by
        subst y14
        apply setShare_kept
        exact h
      clear_value y14
      extract_lets +onlyGivenNames y16
      have hy16 : Kept s0 y16 := by
        subst y16
        apply startRun_kept
        exact hy14
      clear_value y16
      split
      · exact hy16
      · apply abandonRun_kept
        apply setTile_kept
        exact hy16

theorem remoteRead_kept (n : Fin 20) (f : ForeignShare) (s : State) (h : Kept s0 s) :
    Kept s0 (remoteRead n f s) := by
  unfold remoteRead
  extract_lets +onlyGivenNames y6
  clear_value y6
  extract_lets +onlyGivenNames y7
  clear_value y7
  extract_lets +onlyGivenNames y8
  have hy8 : Kept s0 y8 := by
    subst y8
    apply forN_kept
    · intro x8 x9 h10
      extract_lets +onlyGivenNames y11
      have hy11 : Kept s0 y11.2 := by
        subst y11
        apply takeFree_kept
        exact h10
      clear_value y11
      extract_lets +onlyGivenNames y13
      clear_value y13
      extract_lets +onlyGivenNames y14
      have hy14 : Kept s0 y14 := by
        subst y14
        apply send_kept
        exact hy11
      clear_value y14
      exact kept_with hy14
    · exact h
  clear_value y8
  exact kept_with hy8

theorem foreignRead_kept (n : Fin 20) (x : Share) (k : Nat) (s : State) (h : Kept s0 s) :
    Kept s0 (foreignRead n x k s) := by
  unfold foreignRead
  split
  · exact h
  · split
    · apply remoteRead_kept
      apply setTile_kept
      exact h
    · split
      · exact h
      · extract_lets +onlyGivenNames y18
        clear_value y18
        extract_lets +onlyGivenNames y19
        have hy19 : Kept s0 y19 := by
          subst y19
          exact kept_with h
        clear_value y19
        apply setTile_kept
        exact hy19

theorem sendUnit_kept (f : ForeignShare) (k marks bins : Nat) (gap : Option Nat) (s : State) (h : Kept s0 s) :
    Kept s0 (sendUnit f k marks bins gap s) := by
  unfold sendUnit
  extract_lets +onlyGivenNames y9
  have hy9 : Kept s0 y9.2 := by
    subst y9
    split
    · exact h
    · apply freeBytes_kept
      exact h
  clear_value y9
  apply sendBulk_kept
  exact hy9

theorem dropForeign_kept (task epoch : Nat) (s : State) (h : Kept s0 s) :
    Kept s0 (dropForeign task epoch s) := by
  unfold dropForeign
  extract_lets +onlyGivenNames y6
  clear_value y6
  extract_lets +onlyGivenNames y7
  have hy7 : Kept s0 y7 := by
    subst y7
    exact kept_with h
  clear_value y7
  extract_lets +onlyGivenNames y9
  have hy9 : Kept s0 y9 := by
    subst y9
    apply dropShares_kept
    exact hy7
  clear_value y9
  split
  · exact hy9
  · apply releaseFlow_kept
    apply releaseAll_kept
    exact hy9

theorem commitForeign_kept (x : Share) (u : CommitUnit) (s : State) (h : Kept s0 s) :
    Kept s0 (commitForeign x u s) := by
  unfold commitForeign
  split
  · exact h
  · extract_lets +onlyGivenNames y11
    clear_value y11
    extract_lets +onlyGivenNames y12
    extract_lets +onlyGivenNames y13
    extract_lets +onlyGivenNames y14
    clear_value y14
    extract_lets +onlyGivenNames y15
    have hy15 : Kept s0 y15 := by
      subst y15
      apply sendUnit_kept
      exact h
    clear_value y15
    extract_lets +onlyGivenNames y17
    have hy17 : Kept s0 y17 := by
      subst y17
      split
      · apply sendUnit_kept
        exact hy15
      · exact hy15
    clear_value y17
    split
    · exact hy17
    · apply dropForeign_kept
      exact hy17

theorem doTileReadIssue_kept (n : Fin 20) (s : State) (h : Kept s0 s) :
    Kept s0 (doTileReadIssue n s) := by
  unfold doTileReadIssue
  extract_lets +onlyGivenNames y5
  clear_value y5
  split
  · split
    · exact h
    · split
      · apply setTile_kept
        exact h
      · split
        · apply foreignRead_kept
          exact h
        · split
          · exact h
          · extract_lets +onlyGivenNames y24
            have hy24 : Kept s0 y24 := by
              subst y24
              apply waitTick_kept
              exact h
            clear_value y24
            extract_lets +onlyGivenNames y26
            extract_lets +onlyGivenNames y27
            clear_value y27
            extract_lets +onlyGivenNames y28
            have hy28 : Kept s0 y28 := by
              subst y28
              apply storeAsk_kept
              exact hy24
            clear_value y28
            split
            · apply setTile_kept
              exact hy28
            · extract_lets +onlyGivenNames y31
              have hy31 : Kept s0 y31 := by
                subst y31
                apply forL_kept
                · intro x31 x32 h33
                  apply raise_kept
                  exact h33
                · exact hy28
              clear_value y31
              split
              · apply abandonRun_kept
                apply setTile_kept
                exact hy31
              · apply setTile_kept
                exact hy31
  · exact h

theorem advanceShare_kept (n : Fin 20) (x : Share) (k : Nat) (s : State) (h : Kept s0 s) :
    Kept s0 (advanceShare n x k s) := by
  unfold advanceShare
  extract_lets +onlyGivenNames y7
  clear_value y7
  extract_lets +onlyGivenNames y8
  have hy8 : Kept s0 y8 := by
    subst y8
    apply setShare_kept
    exact h
  clear_value y8
  extract_lets +onlyGivenNames y10
  clear_value y10
  split
  · split
    · apply setTile_kept
      exact hy8
    · exact hy8
  · exact hy8

theorem takeUnit_kept (x : Share) (u : CommitUnit) (events : Nat) (s : State) (h : Kept s0 s) :
    Kept s0 (takeUnit x u events s) := by
  unfold takeUnit
  extract_lets +onlyGivenNames y7
  have hy7 : Kept s0 y7 := by
    subst y7
    split
    · apply backfillDone_kept
      exact h
    · exact h
  clear_value y7
  extract_lets +onlyGivenNames y9
  have hy9 : Kept s0 y9 := by
    subst y9
    split
    · exact hy7
    · apply raiseW_kept
      exact hy7
  clear_value y9
  apply acceptUnit_kept
  exact hy9

theorem doCommitUnitAccept_kept (n : Fin 20) (good : Bool) (s : State) (h : Kept s0 s) :
    Kept s0 (doCommitUnitAccept n good s) := by
  unfold doCommitUnitAccept
  extract_lets +onlyGivenNames y6
  clear_value y6
  split
  · split
    · exact h
    · split
      · apply setTile_kept
        exact h
      · split
        · extract_lets +onlyGivenNames y21
          have hy21 : Kept s0 y21 := by
            subst y21
            split
            · exact h
            · apply taskEvent_kept
              exact h
          clear_value y21
          apply setTask_kept
          apply setTile_kept
          exact hy21
        · split
          · apply abandonRun_kept
            exact h
          · extract_lets +onlyGivenNames y22
            have hy22 : Kept s0 y22 := by
              subst y22
              apply setTile_kept
              apply advanceShare_kept
              exact h
            clear_value y22
            split
            · apply xcAccumulate_kept
              exact hy22
            · split
              · apply commitForeign_kept
                exact hy22
              · apply takeUnit_kept
                exact hy22
  · exact h

theorem doRoutineAbandon_kept (n : Fin 20) (causes : List Nat) (offset addr got flips : Nat) (s : State) (h : Kept s0 s) :
    Kept s0 (doRoutineAbandon n causes offset addr got flips s) := by
  unfold doRoutineAbandon
  extract_lets +onlyGivenNames y10
  have hy10 : Kept s0 y10 := by
    subst y10
    split
    · exact h
    · apply upsetWord_kept
      exact h
  clear_value y10
  extract_lets +onlyGivenNames y12
  clear_value y12
  extract_lets +onlyGivenNames y13
  clear_value y13
  extract_lets +onlyGivenNames y14
  clear_value y14
  extract_lets +onlyGivenNames y15
  clear_value y15
  split
  · exact hy10
  · split
    · extract_lets +onlyGivenNames y18
      have hy18 : Kept s0 y18 := by
        subst y18
        split
        · apply repairWord_kept
          exact hy10
        · exact hy10
      clear_value y18
      apply setTile_kept
      exact hy18
    · split
      · apply fenceTile_kept
        apply setTile_kept
        exact hy10
      · extract_lets +onlyGivenNames y19
        have hy19 : Kept s0 y19 := by
          subst y19
          split
          · apply repairWord_kept
            exact hy10
          · exact hy10
        clear_value y19
        extract_lets +onlyGivenNames y21
        have hy21 : Kept s0 y21 := by
          subst y21
          apply setTile_kept
          exact hy19
        clear_value y21
        apply abandonRun_kept
        exact hy21

theorem doRoutineRestart_kept (n : Fin 20) (s : State) (h : Kept s0 s) :
    Kept s0 (doRoutineRestart n s) := by
  unfold doRoutineRestart
  extract_lets +onlyGivenNames y5
  clear_value y5
  split
  · split
    · exact h
    · extract_lets +onlyGivenNames y12
      have hy12 : Kept s0 y12 := by
        subst y12
        apply pass_kept
        exact h
      clear_value y12
      extract_lets +onlyGivenNames y14
      have hy14 : Kept s0 y14 := by
        subst y14
        apply setTile_kept
        exact hy12
      clear_value y14
      extract_lets +onlyGivenNames y16
      clear_value y16
      split
      · apply setTile_kept
        exact hy14
      · extract_lets +onlyGivenNames y18
        have hy18 : Kept s0 y18 := by
          subst y18
          apply startRun_kept
          exact hy14
        clear_value y18
        split
        · apply raise_kept
          exact hy18
        · exact hy18
  · split
    · apply setTile_kept
      exact h
    · exact h

theorem doTileWatchdogExpiry_kept (n : Fin 20) (s : State) (h : Kept s0 s) :
    Kept s0 (doTileWatchdogExpiry n s) := by
  unfold doTileWatchdogExpiry
  split
  · apply fenceTile_kept
    apply waitUp_kept
    exact h
  · exact h

theorem doControlStoreScrubCheck_kept (n : Fin 20) (addr got flips : Nat) (s : State) (h : Kept s0 s) :
    Kept s0 (doControlStoreScrubCheck n addr got flips s) := by
  unfold doControlStoreScrubCheck
  split
  · exact h
  · extract_lets +onlyGivenNames y9
    have hy9 : Kept s0 y9 := by
      subst y9
      split
      · exact h
      · apply upsetWord_kept
        exact h
    clear_value y9
    split
    · apply setTile_kept
      exact hy9
    · split
      · apply fenceTile_kept
        apply setTile_kept
        exact hy9
      · apply repairWord_kept
        apply setTile_kept
        exact hy9

theorem doShareHandover_kept (n : Fin 20) (s : State) (h : Kept s0 s) :
    Kept s0 (doShareHandover n s) := by
  unfold doShareHandover
  split
  · exact h
  · extract_lets +onlyGivenNames y6
    clear_value y6
    extract_lets +onlyGivenNames y7
    have hy7 : Kept s0 y7 := by
      subst y7
      split
      · apply abandonRun_kept
        exact h
      · split
        · apply setTile_kept
          exact h
        · exact h
    clear_value y7
    extract_lets +onlyGivenNames y9
    clear_value y9
    apply setTile_kept
    exact hy7

theorem takeOff_kept (n : Fin 20) (x : Share) (s : State) (h : Kept s0 s) :
    Kept s0 (takeOff n x s) := by
  unfold takeOff
  apply setTile_kept
  exact h

theorem replaceCross_kept (x : Share) (s : State) (h : Kept s0 s) :
    Kept s0 (replaceCross x s) := by
  unfold replaceCross
  split
  · exact h
  · extract_lets +onlyGivenNames y10
    clear_value y10
    extract_lets +onlyGivenNames y11
    clear_value y11
    extract_lets +onlyGivenNames y12
    have hy12 : Kept s0 y12 := by
      subst y12
      apply stageShares_kept
      exact h
    clear_value y12
    split
    · exact hy12
    · apply taskEvent_kept
      apply setXcorr_kept
      exact hy12

theorem tellStopped_kept (f : ForeignShare) (x : Share) (residues : List Nat) (s : State) (h : Kept s0 s) :
    Kept s0 (tellStopped f x residues s) := by
  unfold tellStopped
  apply send_kept
  exact h

theorem replaceForeign_kept (x : Share) (s : State) (h : Kept s0 s) :
    Kept s0 (replaceForeign x s) := by
  unfold replaceForeign
  split
  · exact h
  · extract_lets +onlyGivenNames y10
    clear_value y10
    extract_lets +onlyGivenNames y11
    have hy11 : Kept s0 y11 := by
      subst y11
      apply stageShares_kept
      exact h
    clear_value y11
    split
    · exact hy11
    · apply tellStopped_kept
      exact hy11

theorem replaceOne_kept (n : Fin 20) (x : Share) (s : State) (h : Kept s0 s) :
    Kept s0 (replaceOne n x s) := by
  unfold replaceOne
  extract_lets +onlyGivenNames y6
  clear_value y6
  split
  · apply takeOff_kept
    exact h
  · split
    · apply replaceForeign_kept
      apply takeOff_kept
      exact h
    · split
      · apply replaceCross_kept
        apply takeOff_kept
        exact h
      · split
        · extract_lets +onlyGivenNames y11
          have hy11 : Kept s0 y11 := by
            subst y11
            apply takeOff_kept
            exact h
          clear_value y11
          split
          · split
            · apply stageShares_kept
              apply setTask_kept
              exact hy11
            · exact hy11
          · apply publishTask_kept
            apply stopResidues_kept
            exact hy11
        · extract_lets +onlyGivenNames y11
          clear_value y11
          extract_lets +onlyGivenNames y12
          clear_value y12
          extract_lets +onlyGivenNames y13
          clear_value y13
          extract_lets +onlyGivenNames y14
          clear_value y14
          split
          · apply replaceShare_kept
            apply takeOff_kept
            exact h
          · extract_lets +onlyGivenNames y16
            clear_value y16
            extract_lets +onlyGivenNames y17
            clear_value y17
            extract_lets +onlyGivenNames y18
            have hy18 : ∀  s, Kept s0 s → Kept s0 (y18  s) := by
              subst y18
              intro x18 h19
              beta_reduce
              apply splitTileGrants_kept
              apply replaceShare_kept
              apply takeOff_kept
              exact h19
            clear_value y18
            split
            · apply hy18
              exact h
            · split
              · exact h
              · extract_lets +onlyGivenNames y22
                have hy22 : Kept s0 y22.2 := by
                  subst y22
                  apply requestInternal_kept
                  exact h
                clear_value y22
                split
                · apply hy18
                  exact hy22
                · exact hy22
                · apply replaceShare_kept
                  apply takeOff_kept
                  exact hy22

theorem replaceTile_kept (n : Fin 20) (s : State) (h : Kept s0 s) :
    Kept s0 (replaceTile n s) := by
  unfold replaceTile
  split
  · exact h
  · apply forL_kept
    · intro x6 x7 h8
      apply replaceOne_kept
      exact h8
    · exact h

theorem doBackfillComplete_kept (id : Nat) (s : State) (h : Kept s0 s) :
    Kept s0 (doBackfillComplete id s) := by
  unfold doBackfillComplete
  split
  · exact h
  · split
    · split
      · exact h
      · extract_lets +onlyGivenNames y16
        have hy16 : Kept s0 y16 := by
          subst y16
          apply setTask_kept
          exact h
        clear_value y16
        extract_lets +onlyGivenNames y18
        have hy18 : Kept s0 y18 := by
          subst y18
          apply dropShares_kept
          exact hy16
        clear_value y18
        apply taskEvent_kept
        apply releasePower_kept
        exact hy18
    · exact h

end Sys2Proof.Laws
end

