-- ==== Sys2Proof/Laws/KeptTasks.lean ====
section
/-! SUPPORT. The operations of Machine/Tasks.lean keep what every command keeps. -/

namespace Sys2Proof.Laws

set_option Elab.async false

open Sys2Proof.Machine

variable {s0 : State}

theorem withTable_kept (c : Cmd) (raw : Data) (table : HostRead) (ok : List Int → State → State) (s : State) (hok : ∀ a0 s, Kept s0 s → Kept s0 (ok a0 s)) (h : Kept s0 s) :
    Kept s0 (withTable c raw table ok s) := by
  unfold withTable
  split
  · apply hok
    exact h
  · apply withBuffer_kept
    · intro x10 x11 h12
      extract_lets +onlyGivenNames y13
      clear_value y13
      apply checked_kept
      · intro x14 h15
        apply hok
        exact h15
      · exact h12
    · exact h

theorem takeTaskId_kept (s : State) (h : Kept s0 s) :
    Kept s0 (takeTaskId s).2 := by
  unfold takeTaskId
  extract_lets +onlyGivenNames y4
  clear_value y4
  dsimp -zeta only
  exact kept_with h

theorem dropTask_kept (id : Nat) (s : State) (h : Kept s0 s) :
    Kept s0 (dropTask id s) := by
  unfold dropTask
  extract_lets +onlyGivenNames y5
  have hy5 : Kept s0 y5 := by
    subst y5
    apply dropShares_kept
    exact h
  clear_value y5
  apply releaseAll_kept
  apply releaseAll_kept
  exact kept_with hy5

theorem activateTask_kept (c : Cmd) (id : Nat) (s : State) (h : Kept s0 s) :
    Kept s0 (activateTask c id s) := by
  unfold activateTask
  split
  · exact h
  · split
    · apply fail_kept
      apply dropTask_kept
      exact h
    · extract_lets +onlyGivenNames y12
      have hy12 : Kept s0 y12 := by
        subst y12
        apply splitTileGrants_kept
        exact h
      clear_value y12
      extract_lets +onlyGivenNames y14
      clear_value y14
      extract_lets +onlyGivenNames y15
      have hy15 : Kept s0 y15 := by
        subst y15
        apply setTask_kept
        exact hy12
      clear_value y15
      extract_lets +onlyGivenNames y17
      clear_value y17
      apply done_kept
      apply raiseAt_kept
      exact hy15

theorem placeTask_kept (c : Cmd) (t : Task) (s : State) (h : Kept s0 s) : Kept s0 (placeTask c t s) := by
  unfold placeTask
  extract_lets s1
  have h2 : Kept s0 s1 := kept_of h rfl rfl rfl rfl rfl
  clear_value s1
  split
  · exact complete_kept _ _ _ _ _ _ (dropTask_kept _ _ h2)
  · extract_lets gated s2 items
    have h3 : Kept s0 s2 := addShares_kept _ _ h2
    clear_value items s2
    exact afterPower_kept _ _ _ _ _ _ (requestPower_kept _ _ _ _ h3) (fun s => activateTask_kept _ _ s) (fun _ hs => hs)
      (fun s => dropTask_kept _ s)

theorem admitTask_kept (c : Cmd) (d : TaskDesc) (i : Inlet) (s : State) (h : Kept s0 s) : Kept s0 (admitTask c d i s) := by
  unfold admitTask
  split
  · exact complete_kept _ _ _ _ _ _ h
  · extract_lets r t
    have hr : Kept s0 r.2 := takeTaskId_kept s h
    clear_value t r
    exact ifAdmitted_kept _ _ _ (fun _ hu => reserveStore_kept hr hu) (complete_kept _ _ _ _ _ _ hr) (placeTask_kept c t)

theorem doSpecTaskCreate_kept (desc table : HostRead) (c : Cmd) (s : State) (h : Kept s0 s) :
    Kept s0 (doSpecTaskCreate desc table c s) := by
  unfold doSpecTaskCreate
  apply checked_kept
  · intro x7 h8
    apply withBuffer_kept
    · intro x9 x10 h11
      extract_lets +onlyGivenNames y12
      clear_value y12
      apply checked_kept
      · intro x13 h14
        apply withTable_kept
        · intro x15 x16 h17
          split
          · apply admitTask_kept
            exact h17
          · exact h17
        · exact h14
      · exact h11
    · exact h8
  · exact h

theorem acceptModify_kept (c : Cmd) (t : Task) (d : TaskDesc) (s : State) (h : Kept s0 s) :
    Kept s0 (acceptModify c t d s) := by
  unfold acceptModify
  split
  · apply complete_kept
    exact h
  · extract_lets +onlyGivenNames y8
    clear_value y8
    extract_lets +onlyGivenNames y9
    have hy9 : Kept s0 y9 := by
      subst y9
      split
      · apply send_kept
        exact h
      · exact h
    clear_value y9
    apply done_kept
    apply setTask_kept
    exact hy9

theorem doSpecTaskModify_kept (desc table : HostRead) (c : Cmd) (s : State) (h : Kept s0 s) :
    Kept s0 (doSpecTaskModify desc table c s) := by
  unfold doSpecTaskModify
  extract_lets +onlyGivenNames y7
  clear_value y7
  split
  · apply checked_kept
    · intro x12 h13
      apply id_kept
      exact h13
    · exact h
  · apply checked_kept
    · intro x13 h14
      extract_lets +onlyGivenNames y15
      have hy15 : ∀ a0 s, Kept s0 s → Kept s0 (y15 a0 s) := by
        subst y15
        intro x15 x16 h17
        beta_reduce
        extract_lets +onlyGivenNames y18
        clear_value y18
        apply checked_kept
        · intro x19 h20
          split
          · apply withTable_kept
            · intro x22 x23 h24
              apply acceptModify_kept
              exact h24
            · exact h20
          · apply acceptModify_kept
            exact h20
        · exact h17
      clear_value y15
      split
      · apply hy15
        exact h14
      · apply withBuffer_kept
        · intro x18 x19 h20
          apply hy15
          exact h20
        · exact h14
    · exact h

theorem doSpecTaskDestroy_kept (c : Cmd) (s : State) (h : Kept s0 s) :
    Kept s0 (doSpecTaskDestroy c s) := by
  unfold doSpecTaskDestroy
  split
  · apply checked_kept
    · intro x9 h10
      apply id_kept
      exact h10
    · exact h
  · apply checked_kept
    · intro x10 h11
      extract_lets +onlyGivenNames y12
      clear_value y12
      extract_lets +onlyGivenNames y13
      have hy13 : Kept s0 y13 := by
        subst y13
        apply abortMigration_kept
        exact h11
      clear_value y13
      apply publishTask_kept
      apply wait_kept
      apply setTask_kept
      exact hy13
    · exact h

theorem limitOld_kept (id k0 overlap : Nat) (s : State) (h : Kept s0 s) :
    Kept s0 (limitOld id k0 overlap s) := by
  unfold limitOld
  split
  · exact h
  · extract_lets +onlyGivenNames y12
    clear_value y12
    extract_lets +onlyGivenNames y13
    have hy13 : Kept s0 y13 := by
      subst y13
      apply changeShares_kept
      exact h
    clear_value y13
    apply setTask_kept
    exact hy13

theorem startMigration_kept (c : Cmd) (id : Nat) (s : State) (h : Kept s0 s) :
    Kept s0 (startMigration c id s) := by
  unfold startMigration
  split
  · exact h
  · extract_lets +onlyGivenNames y11
    clear_value y11
    extract_lets +onlyGivenNames y12
    clear_value y12
    extract_lets +onlyGivenNames y13
    have hy13 : Kept s0 y13 := by
      subst y13
      apply splitTileGrants_kept
      exact h
    clear_value y13
    extract_lets +onlyGivenNames y15
    have hy15 : Kept s0 y15 := by
      subst y15
      apply limitOld_kept
      exact hy13
    clear_value y15
    extract_lets +onlyGivenNames y17
    have hy17 : Kept s0 y17 := by
      subst y17
      apply changeShares_kept
      exact hy15
    clear_value y17
    apply wait_kept
    apply setTask_kept
    exact hy17

theorem dropPlacement_kept (id : Nat) (s : State) (h : Kept s0 s) :
    Kept s0 (dropPlacement id s) := by
  unfold dropPlacement
  split
  · exact h
  · extract_lets +onlyGivenNames y10
    have hy10 : Kept s0 y10 := by
      subst y10
      apply dropShares_kept
      exact h
    clear_value y10
    apply taskEvent_kept
    apply setTask_kept
    exact hy10

theorem admitPlacement_kept (c : Cmd) (t : Task) (s : State) (h : Kept s0 s) :
    Kept s0 (admitPlacement c t s) := by
  unfold admitPlacement
  extract_lets +onlyGivenNames y6
  clear_value y6
  split
  · apply complete_kept
    apply dropPlacement_kept
    exact h
  · extract_lets +onlyGivenNames y12
    clear_value y12
    extract_lets +onlyGivenNames y13
    have hy13 : Kept s0 y13 := by
      subst y13
      apply stageShares_kept
      exact h
    clear_value y13
    extract_lets +onlyGivenNames y15
    have hy15 : Kept s0 y15 := by
      subst y15
      apply setTask_kept
      exact hy13
    clear_value y15
    split
    · apply startMigration_kept
      exact hy15
    · extract_lets +onlyGivenNames y18
      clear_value y18
      apply afterPower_kept
      · apply requestPower_kept
        exact hy15
      · intro x19 h20
        apply startMigration_kept
        exact h20
      · intro x19 h20
        apply id_kept
        exact h20
      · intro x19 h20
        apply dropPlacement_kept
        exact h20

theorem sendAsk_kept (c : Cmd) (id : Nat) (s : State) (h : Kept s0 s) :
    Kept s0 (sendAsk c id s) := by
  unfold sendAsk
  split
  · exact h
  · extract_lets +onlyGivenNames y11
    clear_value y11
    extract_lets +onlyGivenNames y12
    have hy12 : Kept s0 y12 := by
      subst y12
      apply setTask_kept
      exact h
    clear_value y12
    apply wait_kept
    apply send_kept
    exact hy12

theorem askGranted_kept (c : Cmd) (t : Task) (s : State) (h : Kept s0 s) : Kept s0 (askGranted c t s) := by
  unfold askGranted
  refine ifAdmitted_kept _ _ _ (fun _ hu => reserveStore_kept h hu)
    (complete_kept _ _ _ _ _ _ (dropPlacement_kept _ _ (releaseFlow_kept _ _ h))) fun v hv => ?_
  have hw := setTask_kept t.id (fun x => { x with migration := some ⟨c.id, unsettledIndex, placeOverlap c, some (c.p16 0x0E), false⟩ }) v hv
  exact afterPower_kept _ _ _ _ _ _ (requestPower_kept _ _ _ _ hw) (fun s => sendAsk_kept _ _ s) (fun _ hs => hs)
    (fun s hs => dropPlacement_kept _ _ (releasePlacement_kept _ _ s hs))

theorem askPeer_kept (c : Cmd) (t : Task) (s : State) (h : Kept s0 s) : Kept s0 (askPeer c t s) := by
  unfold askPeer
  exact ifAdmitted_kept _ _ _ (fun _ hu => admitFlow_kept h hu) (complete_kept _ _ _ _ _ _ (dropPlacement_kept _ _ h)) (askGranted_kept c t)

theorem doSpecTaskPlace_kept (c : Cmd) (s : State) (h : Kept s0 s) :
    Kept s0 (doSpecTaskPlace c s) := by
  unfold doSpecTaskPlace
  split
  · apply checked_kept
    · intro x9 h10
      apply id_kept
      exact h10
    · exact h
  · extract_lets +onlyGivenNames y10
    clear_value y10
    apply checked_kept
    · intro x11 h12
      split
      · apply askPeer_kept
        exact h12
      · apply admitPlacement_kept
        exact h12
    · exact h

theorem activateRetro_kept (c : Cmd) (id : Nat) (s : State) (h : Kept s0 s) :
    Kept s0 (activateRetro c id s) := by
  unfold activateRetro
  split
  · exact h
  · extract_lets +onlyGivenNames y11
    have hy11 : Kept s0 y11 := by
      subst y11
      apply splitTileGrants_kept
      exact h
    clear_value y11
    extract_lets +onlyGivenNames y13
    have hy13 : Kept s0 y13 := by
      subst y13
      apply setTask_kept
      exact hy11
    clear_value y13
    extract_lets +onlyGivenNames y15
    have hy15 : Kept s0 y15 := by
      subst y15
      apply done_kept
      exact hy13
    clear_value y15
    split
    · apply publishTask_kept
      exact hy15
    · exact hy15

theorem admitRetro_kept (c : Cmd) (d : TaskDesc) (i : Inlet) (s : State) (h : Kept s0 s) :
    Kept s0 (admitRetro c d i s) := by
  unfold admitRetro
  split
  · apply complete_kept
    exact h
  · extract_lets +onlyGivenNames y8
    have hy8 : Kept s0 y8.2 := by
      subst y8
      apply takeTaskId_kept
      exact h
    clear_value y8
    extract_lets +onlyGivenNames y10
    clear_value y10
    extract_lets +onlyGivenNames y11
    have hy11 : Kept s0 y11 := by
      subst y11
      exact hy8
    clear_value y11
    extract_lets +onlyGivenNames y13
    have hy13 : Kept s0 y13 := by
      subst y13
      exact kept_with hy11
    clear_value y13
    extract_lets +onlyGivenNames y15
    clear_value y15
    split
    · apply complete_kept
      apply dropTask_kept
      exact hy13
    · extract_lets +onlyGivenNames y18
      clear_value y18
      extract_lets +onlyGivenNames y19
      have hy19 : Kept s0 y19 := by
        subst y19
        apply addShares_kept
        exact hy13
      clear_value y19
      extract_lets +onlyGivenNames y21
      clear_value y21
      apply afterPower_kept
      · apply requestPower_kept
        exact hy19
      · intro x22 h23
        apply activateRetro_kept
        exact h23
      · intro x22 h23
        apply id_kept
        exact h23
      · intro x22 h23
        apply dropTask_kept
        exact h23

theorem doRetroJobSubmit_kept (desc table : HostRead) (c : Cmd) (s : State) (h : Kept s0 s) :
    Kept s0 (doRetroJobSubmit desc table c s) := by
  unfold doRetroJobSubmit
  apply checked_kept
  · intro x7 h8
    apply withBuffer_kept
    · intro x9 x10 h11
      extract_lets +onlyGivenNames y12
      clear_value y12
      extract_lets +onlyGivenNames y13
      clear_value y13
      extract_lets +onlyGivenNames y14
      clear_value y14
      apply checked_kept
      · intro x15 h16
        apply withTable_kept
        · intro x17 x18 h19
          split
          · apply admitRetro_kept
            exact h19
          · exact h19
        · exact h16
      · exact h11
    · exact h8
  · exact h

theorem addSources_kept (xc : Nat) (l : List (Nat × XcSource)) (s : State) (h : Kept s0 s) :
    Kept s0 (addSources xc l s) := by
  unfold addSources
  apply forL_kept
  · intro x6 x7 h8
    split
    · extract_lets +onlyGivenNames y18
      have hy18 : Kept s0 y18.2 := by
        subst y18
        apply takeTaskId_kept
        exact h8
      clear_value y18
      extract_lets +onlyGivenNames y20
      have hy20 : Kept s0 y20 := by
        subst y20
        exact hy18
      clear_value y20
      extract_lets +onlyGivenNames y22
      have hy22 : Kept s0 y22 := by
        subst y22
        exact kept_with hy20
      clear_value y22
      apply setXcorr_kept
      exact hy22
    · exact h8
  · exact h

theorem placeXcorr_kept {xc cross : Nat} {s t : State} (h : Kept s0 s) (ht : placeXcorr xc cross s = some t) : Kept s0 t := by
  have key : ∀ (l : List Task) (r : Option State), (∀ u, r = some u → Kept s0 u) →
      ∀ u, l.foldl (fun (r : Option State) t => match r with
        | some s => (placeShares t (2 ^ 20 - 1) 0 0 s).map fun l => addShares l s
        | none => none) r = some u → Kept s0 u := by
    intro l
    induction l with
    | nil => intro r hr u hu; exact hr u hu
    | cons t l ih =>
      intro r hr
      refine ih _ ?_
      intro u hu
      cases r with
      | none => cases hu
      | some v =>
        obtain ⟨w, -, rfl⟩ := Option.map_eq_some_iff.mp hu
        exact addShares_kept _ _ (hr v rfl)
  unfold placeXcorr at ht
  extract_lets all at ht
  have hall := key (sourceTasks s xc) (some s) (by intro u hu; cases hu; exact h)
  change ∀ u, all = some u → Kept s0 u at hall
  clear_value all
  split at ht
  · cases ht
  · rename_i u
    obtain ⟨w, -, rfl⟩ := Option.map_eq_some_iff.mp ht
    exact addShares_kept _ _ (hall u rfl)

theorem dropXcorr_kept (xc : Nat) (s : State) (h : Kept s0 s) :
    Kept s0 (dropXcorr xc s) := by
  unfold dropXcorr
  extract_lets +onlyGivenNames y5
  have hy5 : Kept s0 y5 := by
    subst y5
    apply dropShares_kept
    exact h
  clear_value y5
  extract_lets +onlyGivenNames y7
  have hy7 : Kept s0 y7 := by
    subst y7
    apply forL_kept
    · intro x7 x8 h9
      apply dropTask_kept
      exact h9
    · exact hy5
  clear_value y7
  apply releaseFlow_kept
  apply releaseAll_kept
  exact kept_with hy7

theorem activateXcorr_kept (c : Cmd) (xc : Nat) (s : State) (h : Kept s0 s) :
    Kept s0 (activateXcorr c xc s) := by
  unfold activateXcorr
  split
  · split
    · apply fail_kept
      apply dropXcorr_kept
      exact h
    · extract_lets +onlyGivenNames y12
      clear_value y12
      extract_lets +onlyGivenNames y13
      have hy13 : Kept s0 y13 := by
        subst y13
        apply splitTileGrants_kept
        exact h
      clear_value y13
      extract_lets +onlyGivenNames y15
      clear_value y15
      extract_lets +onlyGivenNames y16
      clear_value y16
      extract_lets +onlyGivenNames y17
      have hy17 : Kept s0 y17 := by
        subst y17
        exact kept_with hy13
      clear_value y17
      extract_lets +onlyGivenNames y19
      have hy19 : Kept s0 y19 := by
        subst y19
        apply setXcorr_kept
        exact hy17
      clear_value y19
      extract_lets +onlyGivenNames y21
      have hy21 : Kept s0 y21 := by
        subst y21
        apply forL_kept
        · intro x21 x22 h23
          apply send_kept
          exact h23
        · exact hy19
      clear_value y21
      apply done_kept
      exact hy21
  · exact h

theorem admitRemotes_kept {x : Xcorr} {i : Inlet} {s t : State} (h : Kept s0 s) (ht : admitRemotes x i s = some t) : Kept s0 t := by
  have key : ∀ (l : List XcSource) (r : Option State), (∀ u, r = some u → Kept s0 u) →
      ∀ u, l.foldl (fun (r : Option State) y => match r with
        | some s => match admitFlow (.xcorr x.id) y.did 0 (remoteRate x i) s with
          | some s =>
            let held := fun (p : Nat) => ((s.link.flows.filter fun f => decide (f.port = p) && (match f.owner with | .xcorr _ => true | _ => false)).map (·.rx)).sum
            if (List.range 4).all (fun p => decide (held p ≤ 20480)) then some s else none
          | none => none
        | none => none) r = some u → Kept s0 u := by
    intro l
    induction l with
    | nil => intro r hr u hu; exact hr u hu
    | cons y l ih =>
      intro r hr
      refine ih _ ?_
      intro u hu
      cases r with
      | none => cases hu
      | some v =>
        simp only at hu
        split at hu
        · rename_i w hw
          split at hu
          · cases hu; exact admitFlow_kept (hr v rfl) hw
          · cases hu
        · cases hu
  unfold admitRemotes at ht
  exact key _ _ (by intro u hu; cases hu; exact h) t ht

theorem xcorrShort_kept (c : Cmd) (xc : Nat) (s : State) (h : Kept s0 s) :
    Kept s0 (xcorrShort c xc s) := by
  unfold xcorrShort
  apply complete_kept
  apply dropXcorr_kept
  exact h

theorem powerXcorr_kept (c : Cmd) (x : Xcorr) (i : Inlet) (mine : List Task) (s : State) (h : Kept s0 s) :
    Kept s0 (powerXcorr c x i mine s) := by
  unfold powerXcorr
  exact ifAdmitted_kept _ _ _ (fun _ hu => placeXcorr_kept h hu) (xcorrShort_kept _ _ _ h) fun v hv =>
    afterPower_kept _ _ _ _ _ _ (requestPower_kept _ _ _ _ hv) (fun s => activateXcorr_kept _ _ s) (fun _ hs => hs)
      (fun s => dropXcorr_kept _ s)

theorem reserveXcorr_kept (c : Cmd) (x : Xcorr) (i : Inlet) (mine : List Task) (s : State) (h : Kept s0 s) :
    Kept s0 (reserveXcorr c x i mine s) := by
  unfold reserveXcorr
  exact ifAdmitted_kept _ _ _ (fun _ hu => reserveStore_kept h hu) (xcorrShort_kept _ _ _ h) (powerXcorr_kept c x i mine)

theorem linkXcorr_kept (c : Cmd) (x : Xcorr) (i : Inlet) (mine : List Task) (s : State) (h : Kept s0 s) :
    Kept s0 (linkXcorr c x i mine s) := by
  unfold linkXcorr
  exact ifAdmitted_kept _ _ _ (fun _ hu => admitRemotes_kept h hu) (xcorrShort_kept _ _ _ h) (reserveXcorr_kept c x i mine)

theorem admitXcorr_kept (c : Cmd) (raw : Data) (i : Inlet) (s : State) (h : Kept s0 s) : Kept s0 (admitXcorr c raw i s) := by
  unfold admitXcorr
  extract_lets r x xs s1 s2
  have hr : Kept s0 r.2 := takeTaskId_kept s h
  have h1 : Kept s0 s1 := kept_of hr rfl rfl rfl rfl rfl
  have h2 : Kept s0 s2 := addSources_kept _ _ _ h1
  clear_value s2 s1 xs x r
  split
  · exact xcorrShort_kept _ _ _ h2
  · exact linkXcorr_kept _ _ _ _ _ h2

theorem xcEntry_kept (c : Cmd) (desc : HostRead) (mine : Data → Bool) (body : Data → State → State) (s : State) (hbody : ∀ a0 s, Kept s0 s → Kept s0 (body a0 s)) (h : Kept s0 s) :
    Kept s0 (xcEntry c desc mine body s) := by
  unfold xcEntry
  apply checked_kept
  · intro x9 h10
    split
    · split
      · apply hbody
        exact h10
      · exact h
    · apply complete_kept
      exact h10
  · exact h

theorem doXcorrCreate_kept (desc : HostRead) (c : Cmd) (s : State) (h : Kept s0 s) :
    Kept s0 (doXcorrCreate desc c s) := by
  unfold doXcorrCreate
  apply xcEntry_kept
  · intro x6 x7 h8
    apply checked_kept
    · intro x9 h10
      split
      · apply admitXcorr_kept
        exact h10
      · exact h10
    · exact h8
  · exact h

theorem endXcorr_kept (xc : Nat) (s : State) (h : Kept s0 s) :
    Kept s0 (endXcorr xc s) := by
  unfold endXcorr
  split
  · exact h
  · extract_lets +onlyGivenNames y10
    clear_value y10
    extract_lets +onlyGivenNames y11
    clear_value y11
    extract_lets +onlyGivenNames y12
    have hy12 : Kept s0 y12 := by
      subst y12
      apply publishSpectra_kept
      exact h
    clear_value y12
    extract_lets +onlyGivenNames y14
    have hy14 : Kept s0 y14 := by
      subst y14
      apply forL_kept
      · intro x14 x15 h16
        apply send_kept
        exact h16
      · exact hy12
    clear_value y14
    apply dropXcorr_kept
    exact hy14

theorem doXcorrDestroy_kept (desc : HostRead) (c : Cmd) (s : State) (h : Kept s0 s) :
    Kept s0 (doXcorrDestroy desc c s) := by
  unfold doXcorrDestroy
  apply xcEntry_kept
  · intro x6 x7 h8
    apply checked_kept
    · intro x9 h10
      apply done_kept
      apply endXcorr_kept
      exact h10
    · exact h8
  · exact h

end Sys2Proof.Laws
end

