-- ==== Sys2Proof/Laws/KeptClockOps.lean ====
section
/-! SUPPORT. The operations of Machine/ClockOps.lean keep what every command keeps. -/

namespace Sys2Proof.Laws

set_option Elab.async false

open Sys2Proof.Machine

variable {s0 : State}

theorem setClk_kept {s : State} {f : Clock → Clock} (hf : (f s.clk).tick = s.clk.tick) (h : Kept s0 s) : Kept s0 (setClk f s) :=
  kept_of h rfl rfl rfl rfl hf

theorem setLoop_kept (f : Loop → Loop) (s : State) (h : Kept s0 s) :
    Kept s0 (setLoop f s) := by
  unfold setLoop
  apply setClk_kept
  · rfl
  · exact h

theorem tickAdd_lt (t : Nat) (d : Int) : tickAdd t d < 2 ^ 64 := by
  unfold tickAdd codeOf
  have h1 := Int.emod_lt_of_pos ((t : Int) + d) (b := ((2 ^ 64 : Nat) : Int)) (by decide)
  have h0 := Int.emod_nonneg ((t : Int) + d) (b := ((2 ^ 64 : Nat) : Int)) (by decide)
  exact (Int.toNat_lt h0).mpr h1

theorem stepTime_kept (delta : Int) (s : State) (h : Kept s0 s) : Kept s0 (stepTime delta s) := by
  unfold stepTime
  exact rebaseMaps_kept _ _ ⟨h.regs, h.host, h.store, h.flash, fun _ => tickAdd_lt _ _, h.pending, h.fuses, h.trims⟩

theorem stepTimeTo_kept (tick : Nat) (s : State) (h : Kept s0 s) :
    Kept s0 (stepTimeTo tick s) := by
  unfold stepTimeTo
  extract_lets +onlyGivenNames y5
  clear_value y5
  apply raise_kept
  apply stepTime_kept
  exact h

theorem settleUncertain_kept (s : State) (h : Kept s0 s) :
    Kept s0 (settleUncertain s) := by
  unfold settleUncertain
  extract_lets +onlyGivenNames y4
  clear_value y4
  split
  · exact h
  · apply raise_kept
    apply setClk_kept
    · rfl
    · exact h

theorem loopTo_kept (state : Nat) (s : State) (h : Kept s0 s) :
    Kept s0 (loopTo state s) := by
  unfold loopTo
  extract_lets +onlyGivenNames y5
  clear_value y5
  split
  · apply settleUncertain_kept
    exact h
  · apply settleUncertain_kept
    apply raise_kept
    apply setLoop_kept
    exact h

theorem loopRestart_kept (s : State) (h : Kept s0 s) :
    Kept s0 (loopRestart s) := by
  unfold loopRestart
  apply loopTo_kept
  exact h

theorem loopLost_kept (s : State) (h : Kept s0 s) :
    Kept s0 (loopLost s) := by
  unfold loopLost
  split
  · exact h
  · apply loopTo_kept
    exact h

theorem steer_kept (s : State) (h : Kept s0 s) :
    Kept s0 (steer s) := by
  unfold steer
  extract_lets +onlyGivenNames y4
  have hy4 : Kept s0 y4.2 := by
    subst y4
    apply takeFree_kept
    exact h
  clear_value y4
  apply setLoop_kept
  exact hy4

theorem loopUpdate_kept (err : Int) (s : State) (h : Kept s0 s) :
    Kept s0 (loopUpdate err s) := by
  unfold loopUpdate
  extract_lets +onlyGivenNames y5
  have hy5 : Kept s0 y5 := by
    subst y5
    apply setLoop_kept
    apply State_setRegN_kept
    exact h
  clear_value y5
  split
  · exact hy5
  · extract_lets +onlyGivenNames y8
    have hy8 : Kept s0 y8 := by
      subst y8
      split
      · apply loopTo_kept
        exact hy5
      · exact hy5
    clear_value y8
    extract_lets +onlyGivenNames y10
    have hy10 : Kept s0 y10 := by
      subst y10
      apply setLoop_kept
      exact hy8
    clear_value y10
    extract_lets +onlyGivenNames y12
    have hy12 : Kept s0 y12 := by
      subst y12
      split
      · split
        · apply stepTimeTo_kept
          exact hy10
        · exact hy10
      · exact hy8
    clear_value y12
    extract_lets +onlyGivenNames y14
    have hy14 : Kept s0 y14 := by
      subst y14
      apply steer_kept
      exact hy12
    clear_value y14
    extract_lets +onlyGivenNames y16
    clear_value y16
    extract_lets +onlyGivenNames y17
    clear_value y17
    extract_lets +onlyGivenNames y18
    have hy18 : Kept s0 y18 := by
      subst y18
      apply setLoop_kept
      exact hy14
    clear_value y18
    split
    · apply loopTo_kept
      exact hy18
    · split
      · apply loopTo_kept
        exact hy18
      · exact hy18

theorem lullTo_kept (n : Nat) (s : State) (h : Kept s0 s) :
    Kept s0 (lullTo n s) := by
  unfold lullTo
  extract_lets +onlyGivenNames y5
  clear_value y5
  extract_lets +onlyGivenNames y6
  clear_value y6
  extract_lets +onlyGivenNames y7
  have hy7 : Kept s0 y7 := by
    subst y7
    split
    · exact kept_with h
    · exact h
  clear_value y7
  split
  · exact hy7
  · apply raise_kept
    apply setPcie_kept
    apply setClk_kept
    · rfl
    · exact hy7

theorem wakeLinks_kept (s : State) (h : Kept s0 s) :
    Kept s0 (wakeLinks s) := by
  unfold wakeLinks
  extract_lets +onlyGivenNames y4
  clear_value y4
  apply forL_kept
  · intro x5 x6 h7
    split
    · exact h7
    · split
      · apply releasePower_kept
        apply setPort_kept
        exact h7
      · apply setPort_kept
        exact h7
  · exact h

theorem wakeLull_kept (s : State) (h : Kept s0 s) :
    Kept s0 (wakeLull s) := by
  unfold wakeLull
  split
  · exact h
  · apply lullTo_kept
    apply wakeLinks_kept
    exact h

theorem arrives_kept (n : Fin 4) (p : Packet) (f : State → State) (s : State) (hf : ∀ s, Kept s0 s → Kept s0 (f s)) (h : Kept s0 s) :
    Kept s0 (arrives n p f s) := by
  unfold arrives
  apply received_kept
  · exact hf
  · split
    · exact h
    · apply wakeLull_kept
      exact h

theorem settleLull_kept (s : State) (h : Kept s0 s) :
    Kept s0 (settleLull s) := by
  unfold settleLull
  split
  · apply lullTo_kept
    exact h
  · split
    · apply wakeLull_kept
      exact h
    · exact h

end Sys2Proof.Laws
end

