-- ==== Sys2Proof/Laws/KeptDrtOps.lean ====
section
/-! SUPPORT. The operations of Machine/DrtOps.lean keep what every command keeps. -/

namespace Sys2Proof.Laws

set_option Elab.async false

open Sys2Proof.Machine

variable {s0 : State}

theorem setChan_kept (n : Fin 32) (f : DmaChan → DmaChan) (s : State) (h : Kept s0 s) :
    Kept s0 (setChan n f s) := by
  unfold setChan
  exact kept_with h

theorem endRegs_kept (n : Fin 32) (code err residue : Nat) (s : State) (h : Kept s0 s) :
    Kept s0 (endRegs n code err residue s) := by
  unfold endRegs
  extract_lets +onlyGivenNames y8
  clear_value y8
  extract_lets +onlyGivenNames y9
  have hy9 : Kept s0 y9 := by
    subst y9
    apply State_setReg64_kept
    apply State_setField_kept
    apply State_setField_kept
    exact h
  clear_value y9
  split
  · exact hy9
  · apply State_setField_kept
    exact hy9

theorem putStatus_kept (n : Fin 32) (d : DmaDesc) (code err residue : Nat) (noHost : Bool) (s : State) (h : Kept s0 s) :
    Kept s0 (putStatus n d code err residue noHost s) := by
  unfold putStatus
  extract_lets +onlyGivenNames y10
  clear_value y10
  split
  · exact h
  · split
    · split
      · exact h
      · apply hostWrite_kept
        exact h
    · split
      · apply storeWrite_kept
        exact h
      · exact h

theorem idleChan_kept (n : Fin 32) (s : State) (h : Kept s0 s) :
    Kept s0 (idleChan n s) := by
  unfold idleChan
  extract_lets +onlyGivenNames y5
  have hy5 : Kept s0 y5 := by
    subst y5
    apply setChan_kept
    exact h
  clear_value y5
  exact kept_with hy5

theorem handOver_kept (n : Fin 32) (s : State) (h : Kept s0 s) :
    Kept s0 (handOver n s) := by
  unfold handOver
  extract_lets +onlyGivenNames y5
  clear_value y5
  extract_lets +onlyGivenNames y6
  have hy6 : Kept s0 y6 := by
    subst y6
    apply State_setField_kept
    exact h
  clear_value y6
  extract_lets +onlyGivenNames y8
  clear_value y8
  extract_lets +onlyGivenNames y9
  have hy9 : Kept s0 y9 := by
    subst y9
    apply idleChan_kept
    exact hy6
  clear_value y9
  extract_lets +onlyGivenNames y11
  have hy11 : Kept s0 y11 := by
    subst y11
    apply setChan_kept
    exact hy9
  clear_value y11
  split
  · apply raise_kept
    apply endRegs_kept
    exact hy11
  · apply setChan_kept
    exact hy11

theorem tryHandOver_kept (n : Fin 32) (s : State) (h : Kept s0 s) :
    Kept s0 (tryHandOver n s) := by
  unfold tryHandOver
  split
  · apply handOver_kept
    exact h
  · exact h

theorem transferData_kept (d : DmaDesc) (lo n : Nat) (s : State) (h : Kept s0 s) :
    Kept s0 (transferData d lo n s).2 := by
  unfold transferData
  split
  · exact h
  · split
    · exact h
    · apply freeBytes_kept
      exact h

theorem putTransfer_kept (d : DmaDesc) (lo : Nat) (x : Data) (s : State) (h : Kept s0 s) :
    Kept s0 (putTransfer d lo x s) := by
  unfold putTransfer
  split
  · apply hostData_kept
    exact h
  · split
    · apply storeWrite_kept
      exact h
    · exact h

theorem writePrefix_kept (d : DmaDesc) (k : Nat) (s : State) (h : Kept s0 s) :
    Kept s0 (writePrefix d k s) := by
  unfold writePrefix
  split
  · exact h
  · extract_lets +onlyGivenNames y7
    have hy7 : Kept s0 y7.2 := by
      subst y7
      apply transferData_kept
      exact h
    clear_value y7
    apply putTransfer_kept
    exact hy7

theorem writeMaybe_kept (d : DmaDesc) (k : Nat) (s : State) (h : Kept s0 s) :
    Kept s0 (writeMaybe d k s) := by
  unfold writeMaybe
  split
  · exact h
  · extract_lets +onlyGivenNames y7
    have hy7 : Kept s0 y7.2 := by
      subst y7
      apply transferData_kept
      exact h
    clear_value y7
    extract_lets +onlyGivenNames y9
    have hy9 : Kept s0 y9.2 := by
      subst y9
      apply mixBytes_kept
      exact hy7
    clear_value y9
    apply putTransfer_kept
    exact hy9

theorem dropDraughtRequests_kept (s : State) (h : Kept s0 s) :
    Kept s0 (dropDraughtRequests s) := by
  unfold dropDraughtRequests
  exact kept_with h

theorem showPlace_kept (n : Fin 32) (d : DmaDesc) (k : Nat) (s : State) (h : Kept s0 s) :
    Kept s0 (showPlace n d k s) := by
  unfold showPlace
  apply State_setReg64_kept
  apply State_setReg64_kept
  exact h

theorem chainDesc_kept (c : DmaChan) (s : State) (h : Kept s0 s) :
    Kept s0 (chainDesc c s).2 := by
  unfold chainDesc
  split
  · exact h
  · split
    · exact h
    · extract_lets +onlyGivenNames y10
      have hy10 : Kept s0 y10.2 := by
        subst y10
        apply freeBytes_kept
        exact h
      clear_value y10
      exact hy10

theorem abortChan_kept (noHost : Bool) (n : Fin 32) (s : State) (h : Kept s0 s) :
    Kept s0 (abortChan noHost n s) := by
  unfold abortChan
  extract_lets +onlyGivenNames y6
  clear_value y6
  split
  · exact h
  · extract_lets +onlyGivenNames y8
    have hy8 : Kept s0 y8.2 := by
      subst y8
      apply chainDesc_kept
      split
      · apply dropDraughtRequests_kept
        exact h
      · exact h
    clear_value y8
    extract_lets +onlyGivenNames y10
    clear_value y10
    extract_lets +onlyGivenNames y11
    have hy11 : Kept s0 y11.2 := by
      subst y11
      apply takeFree_kept
      exact hy8
    clear_value y11
    extract_lets +onlyGivenNames y13
    clear_value y13
    extract_lets +onlyGivenNames y14
    have hy14 : Kept s0 y14 := by
      subst y14
      apply showPlace_kept
      apply writePrefix_kept
      exact hy11
    clear_value y14
    extract_lets +onlyGivenNames y16
    have hy16 : Kept s0 y16 := by
      subst y16
      apply endRegs_kept
      exact hy14
    clear_value y16
    extract_lets +onlyGivenNames y18
    have hy18 : Kept s0 y18 := by
      subst y18
      apply putStatus_kept
      apply State_setReg64_kept
      exact hy16
    clear_value y18
    extract_lets +onlyGivenNames y20
    have hy20 : Kept s0 y20 := by
      subst y20
      apply State_setField_kept
      exact hy18
    clear_value y20
    apply raise_kept
    apply idleChan_kept
    exact hy20

theorem abortAll_kept (noHost : Bool) (s : State) (h : Kept s0 s) :
    Kept s0 (abortAll noHost s) := by
  unfold abortAll
  apply forL_kept
  · intro x5 x6 h7
    apply abortChan_kept
    exact h7
  · exact h

theorem dmaHalt_kept (cause : Nat) (ch : Fin 32) (addr space written : Nat) (s : State) (h : Kept s0 s) :
    Kept s0 (dmaHalt cause ch addr space written s) := by
  unfold dmaHalt
  split
  · exact h
  · extract_lets +onlyGivenNames y10
    have hy10 : Kept s0 y10 := by
      subst y10
      apply State_setField_kept
      apply State_setField_kept
      apply State_setField_kept
      exact h
    clear_value y10
    extract_lets +onlyGivenNames y12
    have hy12 : Kept s0 y12 := by
      subst y12
      apply State_setReg64_kept
      exact hy10
    clear_value y12
    extract_lets +onlyGivenNames y14
    have hy14 : Kept s0 y14 := by
      subst y14
      apply raise_kept
      apply State_countWrap_kept
      exact hy12
    clear_value y14
    extract_lets +onlyGivenNames y16
    clear_value y16
    apply forL_kept
    · intro x17 x18 h19
      extract_lets +onlyGivenNames y20
      clear_value y20
      extract_lets +onlyGivenNames y21
      clear_value y21
      extract_lets +onlyGivenNames y22
      have hy22 : Kept s0 y22 := by
        subst y22
        split
        · split
          · apply State_setReg64_kept
            apply showPlace_kept
            exact h19
          · exact h19
        · exact h19
      clear_value y22
      extract_lets +onlyGivenNames y24
      have hy24 : Kept s0 y24 := by
        subst y24
        apply endRegs_kept
        exact hy22
      clear_value y24
      extract_lets +onlyGivenNames y26
      have hy26 : Kept s0 y26 := by
        subst y26
        split
        · exact hy24
        · apply raise_kept
          exact hy24
      clear_value y26
      apply setChan_kept
      exact hy26
    · apply dropDraughtRequests_kept
      exact kept_with hy14

theorem dmaResume_kept (s : State) (h : Kept s0 s) :
    Kept s0 (dmaResume s) := by
  unfold dmaResume
  extract_lets +onlyGivenNames y4
  have hy4 : Kept s0 y4 := by
    subst y4
    apply raise_kept
    apply State_setField_kept
    exact h
  clear_value y4
  apply forL_kept
  · intro x6 x7 h8
    apply tryHandOver_kept
    apply setChan_kept
    exact h8
  · exact hy4

end Sys2Proof.Laws
end

