-- ==== Sys2Proof/Laws/KeptNvmeOps.lean ====
section
/-! SUPPORT. The operations of Machine/NvmeOps.lean keep what every command keeps. -/

namespace Sys2Proof.Laws

set_option Elab.async false

open Sys2Proof.Machine

variable {s0 : State}

theorem setNvme_kept (n : Fin 16) (f : Nvme → Nvme) (s : State) (h : Kept s0 s) :
    Kept s0 (setNvme n f s) := by
  unfold setNvme
  apply setStream_kept
  exact h

theorem finishClose_kept (n : Fin 16) (s : State) (h : Kept s0 s) :
    Kept s0 (finishClose n s) := by
  unfold finishClose
  extract_lets +onlyGivenNames y5
  clear_value y5
  extract_lets +onlyGivenNames y6
  have hy6 : Kept s0 y6 := by
    subst y6
    apply releaseFlow_kept
    apply releaseAll_kept
    exact h
  clear_value y6
  extract_lets +onlyGivenNames y8
  have hy8 : Kept s0 y8 := by
    subst y8
    apply setStream_kept
    exact hy6
  clear_value y8
  extract_lets +onlyGivenNames y10
  have hy10 : Kept s0 y10 := by
    subst y10
    apply raise_kept
    exact hy8
  clear_value y10
  extract_lets +onlyGivenNames y12
  have hy12 : Kept s0 y12 := by
    subst y12
    split
    · split
      · apply done_kept
        exact hy10
      · exact hy10
    · exact hy10
  clear_value y12
  apply reapAcqs_kept
  exact hy12

theorem closeNow_kept (n : Fin 16) (reason : Nat) (s : State) (h : Kept s0 s) :
    Kept s0 (closeNow n reason s) := by
  unfold closeNow
  split
  · exact h
  · apply finishClose_kept
    apply setStream_kept
    exact h

theorem nvmeSubmit_kept (n : Fin 16) (v : Nvme) (entry : Data) (slot : Nat) (flush : Bool) (s : State) (h : Kept s0 s) :
    Kept s0 (nvmeSubmit n v entry slot flush s) := by
  unfold nvmeSubmit
  extract_lets +onlyGivenNames y9
  have hy9 : Kept s0 y9 := by
    subst y9
    apply storeWrite_kept
    exact h
  clear_value y9
  extract_lets +onlyGivenNames y11
  clear_value y11
  extract_lets +onlyGivenNames y12
  have hy12 : Kept s0 y12 := by
    subst y12
    apply hostWrite_kept
    exact hy9
  clear_value y12
  apply setNvme_kept
  exact hy12

theorem nvmeWriteSlot_kept (n : Fin 16) (v : Nvme) (slot : Nat) (d : Data) (s : State) (h : Kept s0 s) :
    Kept s0 (nvmeWriteSlot n v slot d s) := by
  unfold nvmeWriteSlot
  extract_lets +onlyGivenNames y8
  clear_value y8
  extract_lets +onlyGivenNames y9
  clear_value y9
  extract_lets +onlyGivenNames y10
  have hy10 : Kept s0 y10 := by
    subst y10
    apply storeWrite_kept
    apply storeWrite_kept
    exact h
  clear_value y10
  extract_lets +onlyGivenNames y12
  clear_value y12
  extract_lets +onlyGivenNames y13
  clear_value y13
  extract_lets +onlyGivenNames y14
  have hy14 : Kept s0 y14 := by
    subst y14
    apply nvmeSubmit_kept
    exact hy10
  clear_value y14
  apply setNvme_kept
  exact hy14

theorem logFull_kept (n : Fin 16) (s : State) (h : Kept s0 s) :
    Kept s0 (logFull n s) := by
  unfold logFull
  split
  · split
    · apply beginClose_kept
      apply raise_kept
      exact h
    · exact h
  · exact h

theorem nvmeSubmitAll_kept (n : Fin 16) (cnt : Nat) (s : State) (h : Kept s0 s) :
    Kept s0 (nvmeSubmitAll n cnt s) := by
  induction cnt generalizing s with
  | zero => exact h
  | succ cnt ih =>
    unfold nvmeSubmitAll
    split
    · exact h
    · extract_lets +onlyGivenNames y13
      clear_value y13
      split
      · exact h
      · split
        · apply ih
          apply logFull_kept
          apply nvmeWriteSlot_kept
          exact h
        · exact h

theorem nvmeFlushNow_kept (n : Fin 16) (s : State) (h : Kept s0 s) :
    Kept s0 (nvmeFlushNow n s) := by
  unfold nvmeFlushNow
  split
  · split
    · extract_lets +onlyGivenNames y11
      have hy11 : Kept s0 y11 := by
        subst y11
        apply nvmeSubmit_kept
        exact h
      clear_value y11
      apply setNvme_kept
      exact hy11
    · exact h
  · exact h

theorem nvmeAdvance_kept (n : Fin 16) (s : State) (h : Kept s0 s) :
    Kept s0 (nvmeAdvance n s) := by
  unfold nvmeAdvance
  split
  · apply nvmeFlushNow_kept
    apply nvmeSubmitAll_kept
    exact h
  · exact h

theorem failStream_kept (n : Fin 16) (s : State) (h : Kept s0 s) :
    Kept s0 (failStream n s) := by
  unfold failStream
  extract_lets +onlyGivenNames y5
  extract_lets +onlyGivenNames y6
  have hy6 : Kept s0 y6 := by
    subst y6
    apply setStream_kept
    exact h
  clear_value y6
  split
  · apply finishClose_kept
    exact hy6
  · exact hy6

theorem nvmeError_kept (n : Fin 16) (status : Nat) (s : State) (h : Kept s0 s) :
    Kept s0 (nvmeError n status s) := by
  unfold nvmeError
  apply failStream_kept
  apply raise_kept
  apply setNvme_kept
  exact h

end Sys2Proof.Laws
end

