-- ==== Sys2Proof/Laws/KeptStreams.lean ====
section
/-! SUPPORT. The operations of Machine/Streams.lean keep what every command keeps. -/

namespace Sys2Proof.Laws

set_option Elab.async false

open Sys2Proof.Machine

variable {s0 : State}

theorem openStream_kept (c : Cmd) (n : Fin 16) (s : State) (h : Kept s0 s) :
    Kept s0 (openStream c n s) := by
  unfold openStream
  extract_lets +onlyGivenNames y6
  clear_value y6
  extract_lets +onlyGivenNames y7
  clear_value y7
  extract_lets +onlyGivenNames y8
  clear_value y8
  extract_lets +onlyGivenNames y9
  clear_value y9
  split
  · apply fail_kept
    apply releaseFlow_kept
    apply releaseAll_kept
    exact h
  · extract_lets +onlyGivenNames y11
    clear_value y11
    extract_lets +onlyGivenNames y12
    have hy12 : Kept s0 y12 := by
      subst y12
      apply setStream_kept
      exact h
    clear_value y12
    apply done_kept
    apply raise_kept
    exact hy12

theorem admitStream_kept (c : Cmd) (n : Fin 16) (s : State) (h : Kept s0 s) : Kept s0 (admitStream c n s) := by
  unfold admitStream
  extract_lets rate peer short
  have hs : Kept s0 (short s) := complete_kept _ _ _ _ _ _ h
  clear_value short peer rate
  split
  · exact hs
  · refine ifAdmitted_kept _ _ _ ?_ hs fun s1 h1 => ifAdmitted_kept _ _ _ (fun _ hu => reserveStore_kept h1 hu) hs fun s2 h2 => ?_
    · intro u hu
      cases peer
      · cases hu; exact h
      · exact admitFlow_kept h hu
    · extract_lets items
      exact afterPower_kept _ _ _ _ _ _ (requestPower_kept _ _ _ _ h2) (fun s => openStream_kept _ _ s) (fun _ hs => hs)
        (fun s hs => releaseFlow_kept _ _ (releaseAll_kept _ _ hs))

theorem doStreamOpen_kept (c : Cmd) (s : State) (h : Kept s0 s) :
    Kept s0 (doStreamOpen c s) := by
  unfold doStreamOpen
  split
  · apply checked_kept
    · intro x9 h10
      apply id_kept
      exact h10
    · exact h
  · apply checked_kept
    · intro x10 h11
      apply admitStream_kept
      exact h11
    · exact h

theorem doStreamQuery_kept (c : Cmd) (s : State) (h : Kept s0 s) :
    Kept s0 (doStreamQuery c s) := by
  unfold doStreamQuery
  split
  · apply checked_kept
    · intro x9 h10
      apply id_kept
      exact h10
    · exact h
  · apply checked_kept
    · intro x10 h11
      apply done_kept
      apply writeBlock_kept
      exact h11
    · exact h

theorem doStreamClose_kept (c : Cmd) (s : State) (h : Kept s0 s) :
    Kept s0 (doStreamClose c s) := by
  unfold doStreamClose
  split
  · apply checked_kept
    · intro x9 h10
      apply id_kept
      exact h10
    · exact h
  · apply checked_kept
    · intro x10 h11
      split
      · apply finishClose_kept
        apply setStream_kept
        exact h11
      · apply wait_kept
        apply beginClose_kept
        exact h11
    · exact h

theorem ringWrite_kept (noSnoop : Bool) (base size at_ : Nat) (d : Data) (s : State) (h : Kept s0 s) :
    Kept s0 (ringWrite noSnoop base size at_ d s) := by
  unfold ringWrite
  extract_lets +onlyGivenNames y9
  clear_value y9
  extract_lets +onlyGivenNames y10
  clear_value y10
  apply hostData_kept
  apply hostData_kept
  exact h

theorem announceRecords_kept (n : Fin 16) (s : State) (h : Kept s0 s) :
    Kept s0 (announceRecords n s) := by
  unfold announceRecords
  extract_lets +onlyGivenNames y5
  clear_value y5
  apply raise_kept
  apply setStream_kept
  exact h

theorem afterDelivery_kept (n : Fin 16) (s : State) (h : Kept s0 s) :
    Kept s0 (afterDelivery n s) := by
  unfold afterDelivery
  extract_lets +onlyGivenNames y5
  clear_value y5
  split
  · exact h
  · split
    · apply announceRecords_kept
      exact h
    · apply setStream_kept
      exact h

theorem reportRead_kept (r : Accepted) (s : State) (h : Kept s0 s) :
    Kept s0 (reportRead r s) := by
  unfold reportRead
  apply forL_kept
  · intro x5 x6 h7
    apply raise_kept
    exact h7
  · exact h

theorem popRecord_kept (n : Fin 16) (d : Data) (s : State) (h : Kept s0 s) :
    Kept s0 (popRecord n d s) := by
  unfold popRecord
  apply setStream_kept
  exact h

theorem deliverRing_kept (n : Fin 16) (r : Accepted) (s : State) (h : Kept s0 s) :
    Kept s0 (deliverRing n r s) := by
  unfold deliverRing
  extract_lets +onlyGivenNames y6
  clear_value y6
  extract_lets +onlyGivenNames y7
  clear_value y7
  split
  · exact h
  · extract_lets +onlyGivenNames y9
    have hy9 : Kept s0 y9 := by
      subst y9
      apply ringWrite_kept
      apply reportRead_kept
      exact h
    clear_value y9
    extract_lets +onlyGivenNames y11
    have hy11 : Kept s0 y11 := by
      subst y11
      apply setStream_kept
      apply popRecord_kept
      exact hy9
    clear_value y11
    extract_lets +onlyGivenNames y13
    have hy13 : Kept s0 y13 := by
      subst y13
      apply hostWrite_kept
      exact hy11
    clear_value y13
    extract_lets +onlyGivenNames y15
    have hy15 : Kept s0 y15 := by
      subst y15
      apply afterDelivery_kept
      exact hy13
    clear_value y15
    split
    · apply finishClose_kept
      exact hy15
    · apply reapAcqs_kept
      exact hy15

theorem deliverLogRecord_kept (n : Fin 16) (r : Accepted) (s : State) (h : Kept s0 s) :
    Kept s0 (deliverLogRecord n r s) := by
  unfold deliverLogRecord
  split
  · exact h
  · extract_lets +onlyGivenNames y11
    clear_value y11
    extract_lets +onlyGivenNames y12
    clear_value y12
    split
    · exact h
    · split
      · apply setStream_kept
        exact h
      · extract_lets +onlyGivenNames y15
        have hy15 : Kept s0 y15 := by
          subst y15
          apply setNvme_kept
          apply popRecord_kept
          apply reportRead_kept
          exact h
        clear_value y15
        extract_lets +onlyGivenNames y17
        have hy17 : Kept s0 y17 := by
          subst y17
          split
          · apply setNvme_kept
            exact hy15
          · exact hy15
        clear_value y17
        extract_lets +onlyGivenNames y19
        have hy19 : Kept s0 y19 := by
          subst y19
          split
          · apply nvmeSubmitAll_kept
            exact hy17
          · exact hy17
        clear_value y19
        apply reapAcqs_kept
        apply nvmeFlushNow_kept
        exact hy19

theorem sendRecord_kept (n : Fin 16) (t : Stream) (seq stop : Nat) (d : Data) (s : State) (h : Kept s0 s) :
    Kept s0 (sendRecord n t seq stop d s) := by
  unfold sendRecord
  apply sendBulk_kept
  exact h

theorem deliverPeer_kept (n : Fin 16) (s : State) (h : Kept s0 s) :
    Kept s0 (deliverPeer n s) := by
  unfold deliverPeer
  extract_lets +onlyGivenNames y5
  clear_value y5
  split
  · exact h
  · split
    · exact h
    · extract_lets +onlyGivenNames y12
      clear_value y12
      extract_lets +onlyGivenNames y13
      clear_value y13
      extract_lets +onlyGivenNames y14
      have hy14 : Kept s0 y14 := by
        subst y14
        apply setStream_kept
        exact h
      clear_value y14
      apply sendRecord_kept
      apply reportRead_kept
      exact hy14

theorem doRecordDeliver_kept (n : Fin 16) (s : State) (h : Kept s0 s) :
    Kept s0 (doRecordDeliver n s) := by
  unfold doRecordDeliver
  extract_lets +onlyGivenNames y5
  clear_value y5
  split
  · exact h
  · split
    · exact h
    · extract_lets +onlyGivenNames y13
      have hy13 : Kept s0 y13 := by
        subst y13
        apply storeAsk_kept
        exact h
      clear_value y13
      split
      · exact hy13
      · split
        · apply deliverPeer_kept
          exact hy13
        · split
          · apply deliverRing_kept
            exact hy13
          · apply deliverLogRecord_kept
            exact hy13

theorem doNotifyTimeout_kept (n : Fin 16) (s : State) (h : Kept s0 s) :
    Kept s0 (doNotifyTimeout n s) := by
  unfold doNotifyTimeout
  split
  · split
    · exact h
    · apply announceRecords_kept
      apply waitUp_kept
      exact h
  · exact h

theorem streamHead_kept (n : Fin 16) (v : Nat) (s : State) (h : Kept s0 s) :
    Kept s0 (streamHead n v s) := by
  unfold streamHead
  extract_lets +onlyGivenNames y6
  clear_value y6
  split
  · apply setStream_kept
    exact h
  · apply raise_kept
    apply setStream_kept
    exact h

theorem iqAdvance_kept (n : Fin 16) (m : Fin 4) (cnt : Nat) (s : State) (h : Kept s0 s) :
    Kept s0 (iqAdvance n m cnt s) := by
  induction cnt generalizing s with
  | zero => exact h
  | succ cnt ih =>
    unfold iqAdvance
    split
    · exact h
    · extract_lets +onlyGivenNames y14
      clear_value y14
      extract_lets +onlyGivenNames y15
      clear_value y15
      split
      · exact h
      · extract_lets +onlyGivenNames y17
        have hy17 : Kept s0 y17 := by
          subst y17
          apply forL_kept
          · intro x17 x18 h19
            apply forL_kept
            · intro x20 x21 h22
              apply offerRecord_kept
              exact h22
            · exact h19
          · exact h
        clear_value y17
        apply ih
        apply setStream_kept
        exact hy17

theorem publishIq_kept (m : Fin 4) (s : State) (h : Kept s0 s) :
    Kept s0 (publishIq m s) := by
  unfold publishIq
  apply forL_kept
  · intro x5 x6 h7
    split
    · split
      · apply iqAdvance_kept
        exact h7
      · exact h7
    · exact h7
  · exact h

theorem doPeerStreamAck_kept (n : Fin 16) (seq : Nat) (s : State) (h : Kept s0 s) :
    Kept s0 (doPeerStreamAck n seq s) := by
  unfold doPeerStreamAck
  extract_lets +onlyGivenNames y6
  clear_value y6
  split
  · exact h
  · extract_lets +onlyGivenNames y8
    clear_value y8
    extract_lets +onlyGivenNames y9
    have hy9 : Kept s0 y9 := by
      subst y9
      apply setStream_kept
      exact h
    clear_value y9
    split
    · apply finishClose_kept
      exact hy9
    · apply reapAcqs_kept
      exact hy9

theorem setFeed_kept (n : Fin 16) (did stream : Nat) (f : PeerFeed → PeerFeed) (s : State) (h : Kept s0 s) :
    Kept s0 (setFeed n did stream f s) := by
  unfold setFeed
  apply setStream_kept
  exact h

theorem doPeerStreamCut_kept (n : Fin 16) (did : Nat) (s : State) (h : Kept s0 s) :
    Kept s0 (doPeerStreamCut n did s) := by
  unfold doPeerStreamCut
  split
  · exact h
  · extract_lets +onlyGivenNames y11
    have hy11 : Kept s0 y11 := by
      subst y11
      apply waitUp_kept
      exact h
    clear_value y11
    extract_lets +onlyGivenNames y13
    clear_value y13
    extract_lets +onlyGivenNames y14
    have hy14 : Kept s0 y14 := by
      subst y14
      apply forL_kept
      · intro x14 x15 h16
        apply enqueueRecord_kept
        exact h16
      · exact hy11
    clear_value y14
    extract_lets +onlyGivenNames y16
    have hy16 : Kept s0 y16 := by
      subst y16
      apply setStream_kept
      exact hy14
    clear_value y16
    extract_lets +onlyGivenNames y18
    have hy18 : Kept s0 y18 := by
      subst y18
      apply raise_kept
      exact hy16
    clear_value y18
    exact kept_with hy18

end Sys2Proof.Laws
end

