-- ==== Sys2Proof/Laws/KeptMbxOps.lean ====
section
/-! SUPPORT. The operations of Machine/MbxOps.lean keep what every command keeps. -/

namespace Sys2Proof.Laws

set_option Elab.async false

open Sys2Proof.Machine

variable {s0 : State}

theorem enableCmdq_kept (n : Fin 8) (s : State) (h : Kept s0 s) :
    Kept s0 (enableCmdq n s) := by
  unfold enableCmdq
  extract_lets +onlyGivenNames y5
  clear_value y5
  extract_lets +onlyGivenNames y6
  clear_value y6
  apply setCmdq_kept
  exact h

theorem disableCmdq_kept (n : Fin 8) (s : State) (h : Kept s0 s) :
    Kept s0 (disableCmdq n s) := by
  unfold disableCmdq
  extract_lets +onlyGivenNames y5
  have hy5 : Kept s0 y5 := by
    subst y5
    apply setCmdq_kept
    exact h
  clear_value y5
  apply forL_kept
  · intro x7 x8 h9
    apply complete_kept
    exact h9
  · exact hy5

theorem enableCplq_kept (n : Fin 8) (s : State) (h : Kept s0 s) :
    Kept s0 (enableCplq n s) := by
  unfold enableCplq
  apply setCplq_kept
  exact h

theorem disableCplq_kept (n : Fin 8) (s : State) (h : Kept s0 s) :
    Kept s0 (disableCplq n s) := by
  unfold disableCplq
  apply setCplq_kept
  exact h

theorem enableEvq_kept (n : Fin 4) (s : State) (h : Kept s0 s) :
    Kept s0 (enableEvq n s) := by
  unfold enableEvq
  apply deliverLog_kept
  apply setEvq_kept
  exact h

theorem disableEvq_kept (n : Fin 4) (s : State) (h : Kept s0 s) :
    Kept s0 (disableEvq n s) := by
  unfold disableEvq
  apply setEvq_kept
  exact h

theorem cmdqCtrl_kept (n : Fin 8) (s : State) (h : Kept s0 s) :
    Kept s0 (cmdqCtrl n s) := by
  unfold cmdqCtrl
  extract_lets +onlyGivenNames y5
  clear_value y5
  split
  · exact h
  · split
    · apply enableCmdq_kept
      exact h
    · apply disableCmdq_kept
      exact h

theorem cplqCtrl_kept (n : Fin 8) (s : State) (h : Kept s0 s) :
    Kept s0 (cplqCtrl n s) := by
  unfold cplqCtrl
  extract_lets +onlyGivenNames y5
  clear_value y5
  split
  · exact h
  · split
    · apply enableCplq_kept
      exact h
    · apply disableCplq_kept
      exact h

theorem evqCtrl_kept (n : Fin 4) (s : State) (h : Kept s0 s) :
    Kept s0 (evqCtrl n s) := by
  unfold evqCtrl
  extract_lets +onlyGivenNames y5
  clear_value y5
  split
  · exact h
  · split
    · apply enableEvq_kept
      exact h
    · apply disableEvq_kept
      exact h

theorem disableQueues_kept (s : State) (h : Kept s0 s) :
    Kept s0 (disableQueues s) := by
  unfold disableQueues
  extract_lets +onlyGivenNames y4
  clear_value y4
  extract_lets +onlyGivenNames y5
  have hy5 : Kept s0 y5 := by
    subst y5
    exact kept_with h
  clear_value y5
  extract_lets +onlyGivenNames y7
  have hy7 : ∀ a0 s, Kept s0 s → Kept s0 (y7 a0 s) := by
    subst y7
    intro x7 x8 h9
    beta_reduce
    apply State_setField_kept
    exact h9
  clear_value y7
  apply forN_kept
  · intro x9 x10 h11
    apply hy7
    exact h11
  · apply forN_kept
    · intro x9 x10 h11
      apply hy7
      apply hy7
      exact h11
    · exact hy5

theorem ignoreDoorbell_kept (kind q value : Nat) (s : State) (h : Kept s0 s) :
    Kept s0 (ignoreDoorbell kind q value s) := by
  unfold ignoreDoorbell
  apply raise_kept
  apply State_countSat_kept
  exact h

theorem tailDoorbell_kept (n : Fin 8) (t : Nat) (s : State) (h : Kept s0 s) :
    Kept s0 (tailDoorbell n t s) := by
  unfold tailDoorbell
  extract_lets +onlyGivenNames y6
  clear_value y6
  split
  · apply setCmdq_kept
    exact h
  · apply ignoreDoorbell_kept
    exact h

theorem cplqDoorbell_kept (n : Fin 8) (h : Nat) (s : State) (hc : Kept s0 s) :
    Kept s0 (cplqDoorbell n h s) := by
  unfold cplqDoorbell
  split
  · apply setCplq_kept
    exact hc
  · apply ignoreDoorbell_kept
    exact hc

theorem evqDoorbell_kept (n : Fin 4) (h : Nat) (s : State) (hc : Kept s0 s) :
    Kept s0 (evqDoorbell n h s) := by
  unfold evqDoorbell
  split
  · apply evqResume_kept
    apply setEvq_kept
    exact hc
  · apply ignoreDoorbell_kept
    exact hc

theorem doorbell_kept (small : Bool) (size value : Nat) (f : Nat → State → State) (s : State) (hf : ∀ a0 s, Kept s0 s → Kept s0 (f a0 s)) (h : Kept s0 s) :
    Kept s0 (doorbell small size value f s) := by
  unfold doorbell
  split
  · apply badWrite_kept
    exact h
  · split
    · apply hf
      exact h
    · split
      · apply hf
        exact h
      · apply refusedWrite_kept
        exact h

theorem doorbellDword_kept (o value : Nat) (s : State) (h : Kept s0 s) :
    Kept s0 (doorbellDword o value s) := by
  unfold doorbellDword
  extract_lets +onlyGivenNames y6
  clear_value y6
  split
  · apply doorbell_kept
    · intro x8 x9 h10
      apply tailDoorbell_kept
      exact h10
    · exact h
  · split
    · apply doorbell_kept
      · intro x9 x10 h11
        apply cplqDoorbell_kept
        exact h11
      · exact h
    · split
      · apply doorbell_kept
        · intro x10 x11 h12
          apply evqDoorbell_kept
          exact h12
        · exact h
      · apply refusedWrite_kept
        exact h

theorem startCmd_kept (c : Cmd) (s : State) (h : Kept s0 s) :
    Kept s0 (startCmd c s) := by
  unfold startCmd
  extract_lets +onlyGivenNames y5
  have hy5 : Kept s0 y5 := by
    subst y5
    apply setCmd_kept
    exact h
  clear_value y5
  split
  · apply fail_kept
    exact hy5
  · exact hy5

theorem forwardCmd_kept (c : Cmd) (did : Nat) (buffers : Data) (s : State) (h : Kept s0 s) :
    Kept s0 (forwardCmd c did buffers s) := by
  unfold forwardCmd
  split
  · extract_lets +onlyGivenNames y8
    clear_value y8
    apply complete_kept
    apply raise_kept
    exact h
  · extract_lets +onlyGivenNames y8
    clear_value y8
    extract_lets +onlyGivenNames y9
    clear_value y9
    extract_lets +onlyGivenNames y10
    have hy10 : Kept s0 y10 := by
      subst y10
      exact kept_with h
    clear_value y10
    apply wait_kept
    apply send_kept
    exact hy10

theorem beginCmd_kept (c : Cmd) (s : State) (h : Kept s0 s) :
    Kept s0 (beginCmd c s) := by
  unfold beginCmd
  extract_lets +onlyGivenNames y5
  clear_value y5
  split
  · extract_lets +onlyGivenNames y8
    have hy8 : Kept s0 y8 := by
      subst y8
      apply setCmd_kept
      exact h
    clear_value y8
    apply forwardCmd_kept
    exact hy8
  · apply startCmd_kept
    exact h

end Sys2Proof.Laws
end

