-- ==== Sys2Proof/Laws/KeptMailbox.lean ====
section
/-! SUPPORT. The operations of Machine/Mailbox.lean keep what every command keeps. -/

namespace Sys2Proof.Laws

set_option Elab.async false

open Sys2Proof.Machine

variable {s0 : State}

theorem queueError_kept (n : Fin 8) (cause : Nat) (s : State) (h : Kept s0 s) :
    Kept s0 (queueError n cause s) := by
  unfold queueError
  extract_lets +onlyGivenNames y6
  have hy6 : Kept s0 y6 := by
    subst y6
    apply setCmdq_kept
    exact h
  clear_value y6
  apply raise_kept
  apply State_setField_kept
  apply State_setField_kept
  exact hy6

theorem doCommandFetch_kept (n : Fin 8) (entry : HostRead) (s : State) (h : Kept s0 s) :
    Kept s0 (doCommandFetch n entry s) := by
  unfold doCommandFetch
  extract_lets +onlyGivenNames y6
  clear_value y6
  split
  · exact h
  · split
    · apply queueError_kept
      exact h
    · extract_lets +onlyGivenNames y10
      have hy10 : Kept s0 y10 := by
        subst y10
        apply setCmdq_kept
        exact h
      clear_value y10
      extract_lets +onlyGivenNames y12
      clear_value y12
      extract_lets +onlyGivenNames y13
      clear_value y13
      extract_lets +onlyGivenNames y14
      clear_value y14
      extract_lets +onlyGivenNames y15
      clear_value y15
      extract_lets +onlyGivenNames y16
      have hy16 : Kept s0 y16 := by
        subst y16
        exact kept_with hy10
      clear_value y16
      split
      · apply complete_kept
        exact hy16
      · split
        · apply beginCmd_kept
          exact hy16
        · exact hy16

theorem doFenceRelease_kept (id : Nat) (s : State) (h : Kept s0 s) :
    Kept s0 (doFenceRelease id s) := by
  unfold doFenceRelease
  split
  · split
    · apply beginCmd_kept
      exact h
    · exact h
  · exact h

theorem barAccess_kept (f : State → State) (s : State) (hf : ∀ s, Kept s0 s → Kept s0 (f s)) (h : Kept s0 s) :
    Kept s0 (barAccess f s) := by
  unfold barAccess
  split
  · apply hf
    apply wakeLull_kept
    exact h
  · exact h

theorem moderate_kept (q : OutQueue) (announce : State → State) (s : State) (hannounce : ∀ s, Kept s0 s → Kept s0 (announce s)) (h : Kept s0 s) :
    Kept s0 (moderate q announce s) := by
  unfold moderate
  split
  · exact h
  · extract_lets +onlyGivenNames y8
    have hy8 : Kept s0 y8 := by
      subst y8
      apply waitUp_kept
      exact h
    clear_value y8
    apply signalVector_kept
    apply hannounce
    exact hy8

theorem doModerationTimeout_kept (kind : QueueKind) (n : Fin 8) (s : State) (h : Kept s0 s) :
    Kept s0 (doModerationTimeout kind n s) := by
  unfold doModerationTimeout
  split
  · apply moderate_kept
    · intro x7 h8
      apply setCplq_kept
      exact h8
    · exact h
  · split
    · apply moderate_kept
      · intro x12 h13
        apply setEvq_kept
        exact h13
      · exact h
    · exact h

end Sys2Proof.Laws
end

