-- ==== Sys2Proof/Laws/KeptBreeze.lean ====
section
/-! SUPPORT. The operations of Machine/Breeze.lean keep what every command keeps. -/

namespace Sys2Proof.Laws

set_option Elab.async false

open Sys2Proof.Machine

variable {s0 : State}

theorem setConv_kept (x : Fin 2) (f : BrzConv → BrzConv) (s : State) (h : Kept s0 s) :
    Kept s0 (setConv x f s) := by
  unfold setConv
  exact kept_with h

theorem setSlot_kept (x : Fin 2) (i : Fin 32) (f : BrzSlot → BrzSlot) (s : State) (h : Kept s0 s) :
    Kept s0 (setSlot x i f s) := by
  unfold setSlot
  apply setConv_kept
  exact h

theorem brzRound_kept (x : Fin 2) (tick : Nat) (s : State) (h : Kept s0 s) :
    Kept s0 (brzRound x tick s) := by
  unfold brzRound
  extract_lets +onlyGivenNames y6
  clear_value y6
  split
  · apply setConv_kept
    exact h
  · extract_lets +onlyGivenNames y8
    clear_value y8
    extract_lets +onlyGivenNames y9
    have hy9 : Kept s0 y9 := by
      subst y9
      apply State_setField_kept
      exact h
    clear_value y9
    apply setConv_kept
    exact hy9

theorem brzStart_kept (x : Fin 2) (s : State) (h : Kept s0 s) :
    Kept s0 (brzStart x s) := by
  unfold brzStart
  extract_lets +onlyGivenNames y5
  clear_value y5
  split
  · exact h
  · split
    · apply brzRound_kept
      apply setConv_kept
      exact h
    · apply setConv_kept
      exact h

theorem brzLeaveCal_kept (s : State) (h : Kept s0 s) :
    Kept s0 (brzLeaveCal s) := by
  unfold brzLeaveCal
  apply forL_kept
  · intro x4 x5 h6
    split
    · apply brzStart_kept
      apply setConv_kept
      exact h6
    · exact h6
  · exact h

theorem brzStore_kept (x : Fin 2) (i : Fin 32) (raw : Nat) (coarse fine : Int) (s : State) (h : Kept s0 s) :
    Kept s0 (brzStore x i raw coarse fine s) := by
  unfold brzStore
  extract_lets +onlyGivenNames y9
  clear_value y9
  apply State_setReg_kept
  apply State_setRegN_kept
  apply State_setRegN_kept
  exact h

theorem convertSlot_kept (x : Fin 2) (i : Fin 32) (raw : Nat) (s : State) (h : Kept s0 s) :
    Kept s0 (convertSlot x i raw s) := by
  unfold convertSlot
  extract_lets +onlyGivenNames y7
  clear_value y7
  extract_lets +onlyGivenNames y8
  clear_value y8
  extract_lets +onlyGivenNames y9
  clear_value y9
  extract_lets +onlyGivenNames y10
  clear_value y10
  extract_lets +onlyGivenNames y11
  clear_value y11
  extract_lets +onlyGivenNames y12
  clear_value y12
  extract_lets +onlyGivenNames y13
  clear_value y13
  extract_lets +onlyGivenNames y14
  have hy14 : Kept s0 y14 := by
    subst y14
    apply setSlot_kept
    exact h
  clear_value y14
  apply brzStore_kept
  exact hy14

theorem primeSlot_kept (x : Fin 2) (i : Fin 32) (raws : List Nat) (s : State) (h : Kept s0 s) :
    Kept s0 (primeSlot x i raws s) := by
  unfold primeSlot
  extract_lets +onlyGivenNames y7
  clear_value y7
  extract_lets +onlyGivenNames y8
  clear_value y8
  extract_lets +onlyGivenNames y9
  clear_value y9
  extract_lets +onlyGivenNames y10
  clear_value y10
  extract_lets +onlyGivenNames y11
  clear_value y11
  extract_lets +onlyGivenNames y12
  clear_value y12
  extract_lets +onlyGivenNames y13
  have hy13 : Kept s0 y13 := by
    subst y13
    apply setSlot_kept
    exact h
  clear_value y13
  apply brzStore_kept
  exact hy13

theorem brzAlarm_kept (x : Fin 2) (i : Fin 32) (s : State) (h : Kept s0 s) :
    Kept s0 (brzAlarm x i s) := by
  unfold brzAlarm
  extract_lets +onlyGivenNames y6
  clear_value y6
  extract_lets +onlyGivenNames y7
  clear_value y7
  extract_lets +onlyGivenNames y8
  clear_value y8
  extract_lets +onlyGivenNames y9
  clear_value y9
  extract_lets +onlyGivenNames y10
  clear_value y10
  extract_lets +onlyGivenNames y11
  clear_value y11
  extract_lets +onlyGivenNames y12
  clear_value y12
  split
  · split
    · exact h
    · split
      · split
        · exact h
        · extract_lets +onlyGivenNames y17
          have hy17 : Kept s0 y17 := by
            subst y17
            apply State_setField_kept
            apply setSlot_kept
            exact h
          clear_value y17
          apply wakeLull_kept
          apply raise_kept
          exact hy17
      · split
        · apply setSlot_kept
          exact h
        · exact h
  · split
    · exact h
    · split
      · split
        · exact h
        · extract_lets +onlyGivenNames y17
          have hy17 : Kept s0 y17 := by
            subst y17
            apply State_setField_kept
            apply setSlot_kept
            exact h
          clear_value y17
          apply wakeLull_kept
          apply raise_kept
          exact hy17
      · split
        · apply setSlot_kept
          exact h
        · exact h

theorem firmwareSlot_kept (i : Fin 32) (reading : Int) (s : State) (h : Kept s0 s) :
    Kept s0 (firmwareSlot i reading s) := by
  unfold firmwareSlot
  extract_lets +onlyGivenNames y6
  clear_value y6
  extract_lets +onlyGivenNames y7
  have hy7 : Kept s0 y7 := by
    subst y7
    apply State_setField_kept
    exact h
  clear_value y7
  exact kept_with hy7

theorem brzRoundEnd_kept (x : Fin 2) (s : State) (h : Kept s0 s) :
    Kept s0 (brzRoundEnd x s) := by
  unfold brzRoundEnd
  extract_lets +onlyGivenNames y5
  clear_value y5
  extract_lets +onlyGivenNames y6
  clear_value y6
  extract_lets +onlyGivenNames y7
  clear_value y7
  extract_lets +onlyGivenNames y8
  have hy8 : Kept s0 y8 := by
    subst y8
    apply waitTick_kept
    exact h
  clear_value y8
  extract_lets +onlyGivenNames y10
  have hy10 : Kept s0 y10 := by
    subst y10
    apply setConv_kept
    exact hy8
  clear_value y10
  extract_lets +onlyGivenNames y12
  have hy12 : Kept s0 y12 := by
    subst y12
    apply State_setReg64_kept
    exact hy10
  clear_value y12
  apply brzRound_kept
  exact hy12

theorem doBreezeConversion_kept (x : Fin 2) (raws : List (BitVec 12)) (reading : Int) (s : State) (h : Kept s0 s) :
    Kept s0 (doBreezeConversion x raws reading s) := by
  unfold doBreezeConversion
  extract_lets +onlyGivenNames y7
  clear_value y7
  split
  · exact h
  · extract_lets +onlyGivenNames y9
    clear_value y9
    extract_lets +onlyGivenNames y10
    have hy10 : Kept s0 y10 := by
      subst y10
      apply waitTick_kept
      exact h
    clear_value y10
    extract_lets +onlyGivenNames y12
    extract_lets +onlyGivenNames y13
    clear_value y13
    extract_lets +onlyGivenNames y14
    have hy14 : Kept s0 y14 := by
      subst y14
      split
      · exact hy10
      · apply firmwareSlot_kept
        exact hy10
    clear_value y14
    extract_lets +onlyGivenNames y16
    have hy16 : Kept s0 y16 := by
      subst y16
      split
      · exact hy14
      · split
        · apply primeSlot_kept
          exact hy14
        · apply brzAlarm_kept
          apply convertSlot_kept
          exact hy14
    clear_value y16
    extract_lets +onlyGivenNames y18
    have hy18 : Kept s0 y18 := by
      subst y18
      apply setConv_kept
      exact hy16
    clear_value y18
    split
    · apply brzRoundEnd_kept
      exact hy18
    · exact hy18

theorem unsettle_kept (x : Fin 2) (i : Fin 32) (s : State) (h : Kept s0 s) :
    Kept s0 (unsettle x i s) := by
  unfold unsettle
  apply setSlot_kept
  exact h

theorem unsettleAll_kept (x : Fin 2) (s : State) (h : Kept s0 s) :
    Kept s0 (unsettleAll x s) := by
  unfold unsettleAll
  apply forL_kept
  · intro x5 x6 h7
    apply unsettle_kept
    exact h7
  · exact h

theorem brzCtrlChanged_kept (x : Fin 2) (was : U32) (s : State) (h : Kept s0 s) :
    Kept s0 (brzCtrlChanged x was s) := by
  unfold brzCtrlChanged
  extract_lets +onlyGivenNames y6
  clear_value y6
  split
  · exact h
  · split
    · apply brzStart_kept
      exact h
    · split
      · split
        · apply setConv_kept
          exact h
        · exact h
      · split
        · apply brzStart_kept
          exact h
        · exact h

theorem brzWritten_kept (x : Fin 2) (o : Nat) (mask was : U32) (s : State) (h : Kept s0 s) :
    Kept s0 (brzWritten x o mask was s) := by
  unfold brzWritten
  split
  · extract_lets +onlyGivenNames y9
    have hy9 : Kept s0 y9 := by
      subst y9
      split
      · apply unsettleAll_kept
        exact h
      · exact h
    clear_value y9
    apply brzCtrlChanged_kept
    exact hy9
  · split
    · split
      · apply unsettleAll_kept
        exact h
      · exact h
    · split
      · extract_lets +onlyGivenNames y11
        clear_value y11
        split
        · extract_lets +onlyGivenNames y13
          have hy13 : Kept s0 y13 := by
            subst y13
            split
            · apply unsettle_kept
              exact h
            · exact h
          clear_value y13
          split
          · exact hy13
          · apply setSlot_kept
            exact hy13
        · split
          · apply unsettle_kept
            exact h
          · exact h
      · split
        · apply unsettleAll_kept
          exact h
        · exact h

end Sys2Proof.Laws
end

