-- ==== Sys2Proof/Laws/KeptNvme.lean ====
section
/-! SUPPORT. The operations of Machine/Nvme.lean keep what every command keeps. -/

namespace Sys2Proof.Laws

set_option Elab.async false

open Sys2Proof.Machine

variable {s0 : State}

theorem openNvme_kept (c : Cmd) (n : Fin 16) (d : Data) (s : State) (h : Kept s0 s) :
    Kept s0 (openNvme c n d s) := by
  unfold openNvme
  extract_lets +onlyGivenNames y7
  clear_value y7
  extract_lets +onlyGivenNames y8
  clear_value y8
  extract_lets +onlyGivenNames y9
  clear_value y9
  extract_lets +onlyGivenNames y10
  have hy10 : Kept s0 y10 := by
    subst y10
    apply setStream_kept
    exact h
  clear_value y10
  apply logFull_kept
  apply done_kept
  apply raise_kept
  exact hy10

theorem admitNvme_kept (c : Cmd) (n : Fin 16) (d : Data) (s : State) (h : Kept s0 s) :
    Kept s0 (admitNvme c n d s) := by
  unfold admitNvme
  extract_lets +onlyGivenNames y7
  clear_value y7
  extract_lets +onlyGivenNames y8
  have hy8 : ∀  s, Kept s0 s → Kept s0 (y8  s) := by
    subst y8
    intro x8 h9
    apply complete_kept
    exact h9
  clear_value y8
  split
  · apply hy8
    exact h
  · apply ifAdmitted_kept
    · intro x11 x12
      refine reserveStore_kept ?_ (by assumption)
      exact h
    · apply hy8
      exact h
    · intro x11 h12
      extract_lets +onlyGivenNames y13
      have hy13 : Kept s0 y13 := by
        subst y13
        apply setCmd_kept
        exact h12
      clear_value y13
      extract_lets +onlyGivenNames y15
      clear_value y15
      apply afterPower_kept
      · apply requestPower_kept
        exact hy13
      · intro x16 h17
        apply openNvme_kept
        exact h17
      · intro x16 h17
        apply id_kept
        exact h17
      · intro x16 h17
        apply releaseAll_kept
        exact h17

theorem doNvmeDelegate_kept (desc : HostRead) (c : Cmd) (s : State) (h : Kept s0 s) :
    Kept s0 (doNvmeDelegate desc c s) := by
  unfold doNvmeDelegate
  apply checked_kept
  · intro x6 h7
    apply withBuffer_kept
    · intro x8 x9 h10
      split
      · apply checked_kept
        · intro x15 h16
          apply id_kept
          exact h16
        · exact h10
      · apply checked_kept
        · intro x16 h17
          apply admitNvme_kept
          exact h17
        · exact h10
    · exact h7
  · exact h

theorem doNvmeCompletionEntry_kept (n : Fin 16) (s : State) (h : Kept s0 s) :
    Kept s0 (doNvmeCompletionEntry n s) := by
  unfold doNvmeCompletionEntry
  split
  · exact h
  · split
    · exact h
    · extract_lets +onlyGivenNames y11
      have hy11 : Kept s0 y11 := by
        subst y11
        apply storeAsk_kept
        exact h
      clear_value y11
      split
      · exact hy11
      · extract_lets +onlyGivenNames y14
        clear_value y14
        extract_lets +onlyGivenNames y15
        clear_value y15
        extract_lets +onlyGivenNames y16
        clear_value y16
        split
        · exact hy11
        · extract_lets +onlyGivenNames y18
          clear_value y18
          extract_lets +onlyGivenNames y19
          have hy19 : Kept s0 y19 := by
            subst y19
            apply hostWrite_kept
            exact hy11
          clear_value y19
          extract_lets +onlyGivenNames y21
          clear_value y21
          extract_lets +onlyGivenNames y22
          have hy22 : Kept s0 y22 := by
            subst y22
            apply setNvme_kept
            exact hy19
          clear_value y22
          split
          · apply nvmeError_kept
            exact hy22
          · split
            · extract_lets +onlyGivenNames y27
              have hy27 : Kept s0 y27 := by
                subst y27
                split
                · apply setNvme_kept
                  exact hy22
                · exact hy22
              clear_value y27
              split
              · apply finishClose_kept
                exact hy27
              · apply nvmeAdvance_kept
                exact hy27
            · apply nvmeAdvance_kept
              exact hy22

theorem doNvmeFlushTimer_kept (n : Fin 16) (s : State) (h : Kept s0 s) :
    Kept s0 (doNvmeFlushTimer n s) := by
  unfold doNvmeFlushTimer
  split
  · split
    · exact h
    · extract_lets +onlyGivenNames y11
      have hy11 : Kept s0 y11 := by
        subst y11
        apply waitUp_kept
        exact h
      clear_value y11
      apply nvmeAdvance_kept
      apply storeAwake_kept
      apply setNvme_kept
      exact hy11
  · exact h

theorem doNvmeCommandTimeout_kept (n : Fin 16) (s : State) (h : Kept s0 s) :
    Kept s0 (doNvmeCommandTimeout n s) := by
  unfold doNvmeCommandTimeout
  split
  · split
    · split
      · exact h
      · apply failStream_kept
        apply raise_kept
        apply waitUp_kept
        exact h
    · exact h
  · exact h

theorem settleQuiesce_kept (s : State) (h : Kept s0 s) :
    Kept s0 (settleQuiesce s) := by
  unfold settleQuiesce
  extract_lets +onlyGivenNames y4
  clear_value y4
  extract_lets +onlyGivenNames y5
  clear_value y5
  extract_lets +onlyGivenNames y6
  clear_value y6
  extract_lets +onlyGivenNames y7
  have hy7 : Kept s0 y7 := by
    subst y7
    exact kept_with h
  clear_value y7
  split
  · apply raise_kept
    exact hy7
  · exact hy7

theorem setPause_kept (n : Fin 16) (reason : Nat) (on : Bool) (s : State) (h : Kept s0 s) :
    Kept s0 (setPause n reason on s) := by
  unfold setPause
  extract_lets +onlyGivenNames y7
  clear_value y7
  split
  · exact h
  · extract_lets +onlyGivenNames y9
    clear_value y9
    extract_lets +onlyGivenNames y10
    have hy10 : Kept s0 y10 := by
      subst y10
      apply setStream_kept
      exact h
    clear_value y10
    split
    · apply raise_kept
      apply setNvme_kept
      apply setStream_kept
      exact hy10
    · split
      · apply raise_kept
        apply setNvme_kept
        apply setStream_kept
        exact hy10
      · exact hy10

theorem pauseNvme_kept (s : State) (h : Kept s0 s) :
    Kept s0 (pauseNvme s) := by
  unfold pauseNvme
  apply forL_kept
  · intro x4 x5 h6
    split
    · apply setPause_kept
      exact h6
    · exact h6
  · exact h

theorem recheckDelegations_kept (bar4 : Nat) (s : State) (h : Kept s0 s) :
    Kept s0 (recheckDelegations bar4 s) := by
  unfold recheckDelegations
  apply forL_kept
  · intro x5 x6 h7
    split
    · split
      · apply nvmeError_kept
        exact h7
      · exact h7
    · exact h7
  · exact h

theorem dropUncovered_kept (s : State) (h : Kept s0 s) :
    Kept s0 (dropUncovered s) := by
  unfold dropUncovered
  apply forL_kept
  · intro x4 x5 h6
    split
    · split
      · apply nvmeError_kept
        exact h6
      · exact h6
    · exact h6
  · exact h

end Sys2Proof.Laws
end

