-- ==== Sys2Proof/Laws/KeptRegWrite.lean ====
section
/-! SUPPORT. The operations of Machine/RegWrite.lean keep what every command keeps. -/

namespace Sys2Proof.Laws

set_option Elab.async false

open Sys2Proof.Machine

variable {s0 : State}

theorem writeLost_kept (block k : Nat) (s : State) (h : Kept s0 s) :
    Kept s0 (writeLost block k s) := by
  unfold writeLost
  extract_lets +onlyGivenNames y6
  clear_value y6
  extract_lets +onlyGivenNames y7
  have hy7 : Kept s0 y7 := by
    subst y7
    apply State_setField_kept
    exact h
  clear_value y7
  extract_lets +onlyGivenNames y9
  have hy9 : Kept s0 y9 := by
    subst y9
    split
    · apply State_setRegN_kept
      exact hy7
    · exact hy7
  clear_value y9
  apply raise_kept
  exact hy9

theorem windowMove_kept (base cause : Nat) (s : State) (h : Kept s0 s) :
    Kept s0 (windowMove base cause s) := by
  unfold windowMove
  split
  · apply raise_kept
    apply State_setField_kept
    apply State_setField_kept
    exact h
  · apply raise_kept
    exact kept_with h

theorem moveWindow_kept (s : State) (h : Kept s0 s) :
    Kept s0 (moveWindow s) := by
  unfold moveWindow
  extract_lets +onlyGivenNames y4
  have hy4 : Kept s0 y4 := by
    subst y4
    apply State_setField_kept
    exact h
  clear_value y4
  split
  · exact hy4
  · apply windowMove_kept
    exact hy4

theorem advanceNvme_kept (s : State) (h : Kept s0 s) :
    Kept s0 (advanceNvme s) := by
  unfold advanceNvme
  apply forL_kept
  · intro x4 x5 h6
    apply nvmeAdvance_kept
    exact h6
  · exact h

theorem quiesceWritten_kept (s : State) (h : Kept s0 s) :
    Kept s0 (quiesceWritten s) := by
  unfold quiesceWritten
  apply settleQuiesce_kept
  split
  · exact h
  · apply advanceNvme_kept
    exact h

theorem releaseVector_kept (v : Nat) (s : State) (h : Kept s0 s) :
    Kept s0 (releaseVector v s) := by
  unfold releaseVector
  split
  · apply sendVector_kept
    apply State_setField_kept
    exact h
  · exact h

theorem snapTick_kept (s : State) (h : Kept s0 s) :
    Kept s0 (snapTick s) := by
  unfold snapTick
  apply State_setField_kept
  apply State_setReg64_kept
  exact h

theorem crcCtrlWritten_kept (s : State) (h : Kept s0 s) :
    Kept s0 (crcCtrlWritten s) := by
  unfold crcCtrlWritten
  split
  · exact h
  · apply setScn_kept
    apply State_setField_kept
    exact h

theorem drtWritten_kept (o : Nat) (was : U32) (s : State) (h : Kept s0 s) :
    Kept s0 (drtWritten o was s) := by
  unfold drtWritten
  split
  · split
    · apply dmaResume_kept
      exact h
    · exact h
  · split
    · exact h
    · split
      · split
        · apply State_setField_kept
          apply abortChan_kept
          exact h
        · exact h
      · split
        · apply tryHandOver_kept
          exact h
        · exact h

theorem scnWritten_kept (o : Nat) (was : U32) (w : RegWrite) (s : State) (h : Kept s0 s) :
    Kept s0 (scnWritten o was w s) := by
  unfold scnWritten
  split
  · exact h
  · split
    · extract_lets +onlyGivenNames y9
      have hy9 : Kept s0 y9 := by
        subst y9
        apply scnEnableChanged_kept
        exact h
      clear_value y9
      split
      · apply timingApply_kept
        exact hy9
      · exact hy9
    · split
      · apply auxGo_kept
        exact h
      · exact h

theorem bar0Written_kept (o : Nat) (w : RegWrite) (s : State) (h : Kept s0 s) :
    Kept s0 (bar0Written o w s) := by
  unfold bar0Written
  split
  · apply cmdqCtrl_kept
    exact h
  · split
    · apply cplqCtrl_kept
      exact h
    · split
      · apply evqCtrl_kept
        exact h
      · split
        · apply moveWindow_kept
          exact h
        · split
          · apply quiesceWritten_kept
            exact h
          · split
            · apply releaseVector_kept
              exact h
            · exact h

theorem afterWrite_kept (k : Nat) (was : U32) (w : RegWrite) (s : State) (h : Kept s0 s) :
    Kept s0 (afterWrite k was w s) := by
  unfold afterWrite
  split
  · apply bar0Written_kept
    exact h
  · split
    · apply snapTick_kept
      exact h
    · split
      · apply crcCtrlWritten_kept
        exact h
      · split
        · apply drtWritten_kept
          exact h
        · split
          · apply scnWritten_kept
            exact h
          · split
            · apply brzWritten_kept
              exact h
            · split
              · apply brzWritten_kept
                exact h
              · exact h

theorem handoverNow_kept (x : Nat) (s : State) (h : Kept s0 s) :
    Kept s0 (handoverNow x s).2 := by
  unfold handoverNow
  split
  · split
    · exact h
    · split
      · extract_lets +onlyGivenNames y12
        have hy12 : Kept s0 y12 := by
          subst y12
          apply tryHandOver_kept
          exact h
        clear_value y12
        exact hy12
      · exact h
  · extract_lets +onlyGivenNames y6
    have hy6 : Kept s0 y6 := by
      subst y6
      apply doScanoutFrameStart_kept
      exact h
    clear_value y6
    split
    · exact hy6
    · exact h

theorem markRace_kept (x : Nat) (s : State) (h : Kept s0 s) :
    Kept s0 (markRace x s) := by
  unfold markRace
  split
  · apply State_setField_kept
    exact h
  · split
    · apply State_setField_kept
      exact h
    · apply State_setField_kept
      exact h

theorem landWrite_kept (k : Nat) (w : RegWrite) (same : SameClock) (s : State) (h : Kept s0 s) :
    Kept s0 (landWrite k w same s) := by
  unfold landWrite
  split
  · exact writeLost_kept _ _ _ h
  · extract_lets r s1 was s2 s3
    have h1 : Kept s0 s1 := by
      have hr : Kept s0 r.2.2 := by
        simp only [r]
        split
        · exact handoverNow_kept _ _ h
        · exact h
      exact hr
    have h2 : Kept s0 s2 := State_setReg_kept _ _ h1
    have h3 : Kept s0 s3 := by
      subst s3
      split
      · exact markRace_kept _ _ h2
      · exact h2
    exact afterWrite_kept _ _ _ _ h3

theorem landListed_kept (k : Nat) (w : Option RegWrite) (same : SameClock) (s : State) (h : Kept s0 s) :
    Kept s0 (landListed k w same s) := by
  unfold landListed
  split
  · apply landWrite_kept
    exact h
  · apply badWrite_kept
    exact h

theorem writeReg_kept (k : Nat) (v : U32) (same : SameClock) (s : State) (h : Kept s0 s) :
    Kept s0 (writeReg k v same s) := by
  unfold writeReg
  split
  · exact h
  · split
    · apply badWrite_kept
      exact h
    · split
      · apply badWrite_kept
        exact h
      · apply landWrite_kept
        exact h

theorem writeAlias_kept (o : Nat) (v : U32) (same : SameClock) (s : State) (h : Kept s0 s) :
    Kept s0 (writeAlias o v same s) := by
  unfold writeAlias
  extract_lets +onlyGivenNames y7
  clear_value y7
  split
  · apply badWrite_kept
    exact h
  · apply landListed_kept
    exact h

theorem writeBar_kept (bar : Bar) (o : Nat) (v : U32) (enables : BitVec 4) (same : SameClock) (s : State) (h : Kept s0 s) :
    Kept s0 (writeBar bar o v enables same s) := by
  unfold writeBar
  split
  · split
    · exact h
    · split
      · apply refusedWrite_kept
        exact h
      · split
        · apply doorbellDword_kept
          exact h
        · apply writeReg_kept
          exact h
  · split
    · exact h
    · split
      · apply refusedWrite_kept
        exact h
      · split
        · apply writeAlias_kept
          exact h
        · apply writeReg_kept
          exact h

theorem doBitAlias_kept (o : Nat) (v : U32) (same : SameClock) (s : State) (h : Kept s0 s) :
    Kept s0 (doBitAlias o v same s) := by
  unfold doBitAlias
  split
  · exact h
  · split
    · apply refusedWrite_kept
      exact h
    · apply writeAlias_kept
      exact h

end Sys2Proof.Laws
end

