-- ==== Sys2Proof/Laws/KeptSquall.lean ====
section
/-! SUPPORT. The operations of Machine/Squall.lean keep what every command keeps. -/

namespace Sys2Proof.Laws

set_option Elab.async false

open Sys2Proof.Machine

variable {s0 : State}

theorem configureUnit_kept (u : Fin 32) (g : UnitCfg) (s : State) (h : Kept s0 s) :
    Kept s0 (configureUnit u g s) := by
  unfold configureUnit
  extract_lets +onlyGivenNames y6
  clear_value y6
  extract_lets +onlyGivenNames y7
  have hy7 : Kept s0 y7 := by
    subst y7
    exact kept_with h
  clear_value y7
  apply setUnit_kept
  exact hy7

theorem doTrigUnitConfig_kept (points : HostRead) (c : Cmd) (s : State) (h : Kept s0 s) :
    Kept s0 (doTrigUnitConfig points c s) := by
  unfold doTrigUnitConfig
  extract_lets +onlyGivenNames y6
  have hy6 : Kept s0 y6 := by
    subst y6
    apply squallDue_kept
    exact h
  clear_value y6
  extract_lets +onlyGivenNames y8
  clear_value y8
  split
  · apply fail_kept
    exact hy6
  · split
    · exact hy6
    · apply checked_kept
      · intro x18 h19
        extract_lets +onlyGivenNames y20
        clear_value y20
        split
        · apply withBuffer_kept
          · intro x22 x23 h24
            extract_lets +onlyGivenNames y25
            clear_value y25
            extract_lets +onlyGivenNames y26
            clear_value y26
            apply checked_kept
            · intro x27 h28
              apply done_kept
              apply configureUnit_kept
              exact h28
            · exact h24
          · exact h19
        · apply done_kept
          apply configureUnit_kept
          exact h19
      · exact hy6

theorem doTrigUnitQuery_kept (c : Cmd) (s : State) (h : Kept s0 s) :
    Kept s0 (doTrigUnitQuery c s) := by
  unfold doTrigUnitQuery
  apply checked_kept
  · intro x5 h6
    split
    · apply done_kept
      apply writeBlock_kept
      exact h6
    · exact h6
  · exact h

theorem doTrigMatrixConfig_kept (c : Cmd) (s : State) (h : Kept s0 s) :
    Kept s0 (doTrigMatrixConfig c s) := by
  unfold doTrigMatrixConfig
  extract_lets +onlyGivenNames y5
  have hy5 : Kept s0 y5 := by
    subst y5
    apply squallDue_kept
    exact h
  clear_value y5
  extract_lets +onlyGivenNames y7
  clear_value y7
  extract_lets +onlyGivenNames y8
  clear_value y8
  extract_lets +onlyGivenNames y9
  clear_value y9
  split
  · apply fail_kept
    exact hy5
  · split
    · exact hy5
    · extract_lets +onlyGivenNames y19
      clear_value y19
      apply checked_kept
      · intro x20 h21
        extract_lets +onlyGivenNames y22
        clear_value y22
        extract_lets +onlyGivenNames y23
        clear_value y23
        extract_lets +onlyGivenNames y24
        have hy24 : Kept s0 y24 := by
          subst y24
          apply setAt_kept
          exact h21
        clear_value y24
        apply done_kept
        apply forL_kept
        · intro x26 x27 h28
          apply setUnit_kept
          exact h28
        · exact hy24
      · exact hy5

theorem doTrigMatrixQuery_kept (c : Cmd) (s : State) (h : Kept s0 s) :
    Kept s0 (doTrigMatrixQuery c s) := by
  unfold doTrigMatrixQuery
  extract_lets +onlyGivenNames y5
  have hy5 : Kept s0 y5 := by
    subst y5
    apply squallDue_kept
    exact h
  clear_value y5
  apply checked_kept
  · intro x7 h8
    split
    · apply done_kept
      apply writeBlock_kept
      exact h8
    · exact h8
  · exact hy5

theorem putDefinition_kept (m : Fin 16) (g : AcqDef) (s : State) (h : Kept s0 s) :
    Kept s0 (putDefinition m g s) := by
  unfold putDefinition
  apply setAt_kept
  exact h

theorem holdDefinition_kept (m : Fin 16) (g : AcqDef) (id : Nat) (s : State) (h : Kept s0 s) :
    Kept s0 (holdDefinition m g id s) := by
  unfold holdDefinition
  apply setAt_kept
  exact h

theorem sendRegistration_kept (did group at_ lDec : Nat) (tag : U32) (ack : Bool) (s : State) (h : Kept s0 s) :
    Kept s0 (sendRegistration did group at_ lDec tag ack s) := by
  unfold sendRegistration
  apply send_kept
  exact h

theorem registerMember_kept (m : Fin 16) (did lDec dist : Nat) (s : State) (h : Kept s0 s) :
    Kept s0 (registerMember m did lDec dist s) := by
  unfold registerMember
  apply setAt_kept
  exact h

theorem setDefinition_kept (m : Fin 16) (g : AcqDef) (c : Cmd) (s : State) (h : Kept s0 s) :
    Kept s0 (setDefinition m g c s) := by
  unfold setDefinition
  extract_lets +onlyGivenNames y7
  clear_value y7
  extract_lets +onlyGivenNames y8
  clear_value y8
  split
  · apply wait_kept
    apply sendRegistration_kept
    apply holdDefinition_kept
    exact h
  · extract_lets +onlyGivenNames y10
    have hy10 : Kept s0 y10 := by
      subst y10
      apply putDefinition_kept
      exact h
    clear_value y10
    split
    · apply done_kept
      exact hy10
    · apply done_kept
      apply registerMember_kept
      exact hy10

theorem doAcqConfig_kept (desc : HostRead) (c : Cmd) (s : State) (h : Kept s0 s) :
    Kept s0 (doAcqConfig desc c s) := by
  unfold doAcqConfig
  extract_lets +onlyGivenNames y6
  have hy6 : Kept s0 y6 := by
    subst y6
    apply squallDue_kept
    exact h
  clear_value y6
  apply checked_kept
  · intro x8 h9
    apply withBuffer_kept
    · intro x10 x11 h12
      extract_lets +onlyGivenNames y13
      clear_value y13
      split
      · apply fail_kept
        exact h12
      · split
        · exact h12
        · extract_lets +onlyGivenNames y23
          clear_value y23
          extract_lets +onlyGivenNames y24
          clear_value y24
          apply checked_kept
          · intro x25 h26
            split
            · apply done_kept
              apply setAt_kept
              exact h26
            · apply checked_kept
              · intro x28 h29
                apply setDefinition_kept
                exact h29
              · exact h26
          · exact h12
    · exact h9
  · exact hy6

theorem doGroupRegistrationTimeout_kept (m : Fin 16) (s : State) (h : Kept s0 s) :
    Kept s0 (doGroupRegistrationTimeout m s) := by
  unfold doGroupRegistrationTimeout
  split
  · exact h
  · extract_lets +onlyGivenNames y10
    have hy10 : Kept s0 y10 := by
      subst y10
      apply waitUp_kept
      exact h
    clear_value y10
    extract_lets +onlyGivenNames y12
    clear_value y12
    extract_lets +onlyGivenNames y13
    have hy13 : Kept s0 y13 := by
      subst y13
      apply setAt_kept
      exact hy10
    clear_value y13
    split
    · apply complete_kept
      exact hy13
    · exact hy13

theorem armOne_kept (m : Fin 16) (seq tick : Nat) (s : State) (h : Kept s0 s) :
    Kept s0 (armOne m seq tick s) := by
  unfold armOne
  extract_lets +onlyGivenNames y7
  have hy7 : Kept s0 y7 := by
    subst y7
    apply setAt_kept
    exact h
  clear_value y7
  apply raiseAt_kept
  exact hy7

theorem announceArm_kept (m : Fin 16) (tick : Nat) (s : State) (h : Kept s0 s) :
    Kept s0 (announceArm m tick s) := by
  unfold announceArm
  extract_lets +onlyGivenNames y6
  have hy6 : Kept s0 y6 := by
    subst y6
    apply registerMember_kept
    exact h
  clear_value y6
  extract_lets +onlyGivenNames y8
  clear_value y8
  extract_lets +onlyGivenNames y9
  clear_value y9
  extract_lets +onlyGivenNames y10
  clear_value y10
  extract_lets +onlyGivenNames y11
  clear_value y11
  extract_lets +onlyGivenNames y12
  have hy12 : Kept s0 y12 := by
    subst y12
    apply setAt_kept
    exact hy6
  clear_value y12
  apply forL_kept
  · intro x14 x15 h16
    apply sendTrig_kept
    exact h16
  · exact hy12

theorem doArm_kept (c : Cmd) (s : State) (h : Kept s0 s) :
    Kept s0 (doArm c s) := by
  unfold doArm
  extract_lets +onlyGivenNames y5
  have hy5 : Kept s0 y5 := by
    subst y5
    apply squallDue_kept
    exact h
  clear_value y5
  extract_lets +onlyGivenNames y7
  clear_value y7
  apply checked_kept
  · intro x8 h9
    split
    · extract_lets +onlyGivenNames y11
      clear_value y11
      extract_lets +onlyGivenNames y12
      have hy12 : Kept s0 y12 := by
        subst y12
        apply forL_kept
        · intro x12 x13 h14
          apply announceArm_kept
          exact h14
        · exact h9
      clear_value y12
      apply wait_kept
      exact kept_with hy12
    · extract_lets +onlyGivenNames y11
      clear_value y11
      apply done_kept
      apply forL_kept
      · intro x12 x13 h14
        apply armOne_kept
        exact h14
      · exact h9
  · exact hy5

theorem dropPendingArm_kept (p : PendingArm) (s : State) (h : Kept s0 s) :
    Kept s0 (dropPendingArm p s) := by
  unfold dropPendingArm
  exact kept_with h

theorem passDeadline_kept (p : PendingArm) (s : State) (h : Kept s0 s) :
    Kept s0 (passDeadline p s) := by
  unfold passDeadline
  exact kept_with h

theorem rejectArm_kept (p : PendingArm) (groups : List (Fin 16)) (id d : Nat) (s : State) (h : Kept s0 s) :
    Kept s0 (rejectArm p groups id d s) := by
  unfold rejectArm
  extract_lets +onlyGivenNames y8
  have hy8 : Kept s0 y8 := by
    subst y8
    apply dropPendingArm_kept
    exact h
  clear_value y8
  extract_lets +onlyGivenNames y10
  have hy10 : Kept s0 y10 := by
    subst y10
    apply forL_kept
    · intro x10 x11 h12
      apply forL_kept
      · intro x13 x14 h15
        apply sendTrig_kept
        exact h15
      · exact h12
    · exact hy8
  clear_value y10
  split
  · apply complete_kept
    exact hy10
  · exact hy10

theorem armDeadline_kept (p : PendingArm) (id : Nat) (s : State) (h : Kept s0 s) :
    Kept s0 (armDeadline p id s) := by
  unfold armDeadline
  extract_lets +onlyGivenNames y6
  clear_value y6
  split
  · apply passDeadline_kept
    exact h
  · apply rejectArm_kept
    exact h

theorem doArmDeadline_kept (m : Fin 16) (s : State) (h : Kept s0 s) :
    Kept s0 (doArmDeadline m s) := by
  unfold doArmDeadline
  split
  · exact h
  · split
    · exact h
    · apply armDeadline_kept
      apply waitTick_kept
      exact h

theorem doGroupArmTick_kept (m : Fin 16) (s : State) (h : Kept s0 s) :
    Kept s0 (doGroupArmTick m s) := by
  unfold doGroupArmTick
  split
  · exact h
  · split
    · exact h
    · extract_lets +onlyGivenNames y11
      have hy11 : Kept s0 y11 := by
        subst y11
        apply waitTick_kept
        exact h
      clear_value y11
      extract_lets +onlyGivenNames y13
      have hy13 : Kept s0 y13 := by
        subst y13
        apply forL_kept
        · intro x13 x14 h15
          apply armOne_kept
          exact h15
        · apply dropPendingArm_kept
          exact hy11
      clear_value y13
      split
      · exact hy13
      · split
        · apply done_kept
          exact hy13
        · exact hy13

theorem pendDisarm_kept (cmd : Option Nat) (l : List (Fin 16)) (tick due cause : Nat) (s : State) (h : Kept s0 s) :
    Kept s0 (pendDisarm cmd l tick due cause s) := by
  unfold pendDisarm
  split
  · exact h
  · exact kept_with h

theorem doDisarm_kept (c : Cmd) (s : State) (h : Kept s0 s) :
    Kept s0 (doDisarm c s) := by
  unfold doDisarm
  extract_lets +onlyGivenNames y5
  have hy5 : Kept s0 y5 := by
    subst y5
    apply squallDue_kept
    exact h
  clear_value y5
  apply checked_kept
  · intro x7 h8
    extract_lets +onlyGivenNames y9
    clear_value y9
    extract_lets +onlyGivenNames y10
    clear_value y10
    extract_lets +onlyGivenNames y11
    clear_value y11
    extract_lets +onlyGivenNames y12
    clear_value y12
    extract_lets +onlyGivenNames y13
    clear_value y13
    extract_lets +onlyGivenNames y14
    clear_value y14
    extract_lets +onlyGivenNames y15
    clear_value y15
    extract_lets +onlyGivenNames y16
    clear_value y16
    extract_lets +onlyGivenNames y17
    have hy17 : Kept s0 y17 := by
      subst y17
      apply forL_kept
      · intro x17 x18 h19
        extract_lets +onlyGivenNames y20
        clear_value y20
        extract_lets +onlyGivenNames y21
        have hy21 : Kept s0 y21 := by
          subst y21
          apply beginDisarm_kept
          exact h19
        clear_value y21
        split
        · apply forL_kept
          · intro x24 x25 h26
            apply sendTrig_kept
            exact h26
          · exact hy21
        · exact hy21
      · exact h8
    clear_value y17
    extract_lets +onlyGivenNames y19
    clear_value y19
    extract_lets +onlyGivenNames y20
    have hy20 : Kept s0 y20 := by
      subst y20
      split
      · apply pendDisarm_kept
        exact hy17
      · apply pendDisarm_kept
        apply pendDisarm_kept
        exact hy17
    clear_value y20
    split
    · apply wait_kept
      exact hy20
    · apply complete_kept
      exact hy20
  · exact hy5

theorem doDisarmBound_kept (id : Nat) (s : State) (h : Kept s0 s) :
    Kept s0 (doDisarmBound id s) := by
  unfold doDisarmBound
  split
  · exact h
  · extract_lets +onlyGivenNames y10
    have hy10 : Kept s0 y10 := by
      subst y10
      apply squallDue_kept
      apply waitTick_kept
      exact h
    clear_value y10
    extract_lets +onlyGivenNames y12
    clear_value y12
    extract_lets +onlyGivenNames y13
    have hy13 : Kept s0 y13 := by
      subst y13
      exact kept_with hy10
    clear_value y13
    extract_lets +onlyGivenNames y15
    have hy15 : Kept s0 y15 := by
      subst y15
      apply endDisarms_kept
      exact hy13
    clear_value y15
    split
    · apply done_kept
      exact hy15
    · exact hy15

theorem applyForce_kept (p : PendingForce) (s : State) (h : Kept s0 s) :
    Kept s0 (applyForce p s) := by
  unfold applyForce
  split
  · split
    · extract_lets +onlyGivenNames y11
      clear_value y11
      split
      · exact h
      · split
        · apply groupFire_kept
          exact h
        · apply fireAt_kept
          exact h
    · exact h
  · split
    · split
      · apply ownStep_kept
        exact h
      · exact h
    · exact h

theorem forceAt_kept (p : PendingForce) (s : State) (h : Kept s0 s) :
    Kept s0 (forceAt p s) := by
  unfold forceAt
  split
  · apply applyForce_kept
    exact h
  · exact kept_with h

theorem doForceFireAt_kept (c : Cmd) (s : State) (h : Kept s0 s) :
    Kept s0 (doForceFireAt c s) := by
  unfold doForceFireAt
  extract_lets +onlyGivenNames y5
  have hy5 : Kept s0 y5 := by
    subst y5
    apply squallDue_kept
    exact h
  clear_value y5
  extract_lets +onlyGivenNames y7
  clear_value y7
  apply checked_kept
  · intro x8 h9
    split
    · exact h9
    · extract_lets +onlyGivenNames y15
      clear_value y15
      apply checked_kept
      · intro x16 h17
        apply done_kept
        apply forceAt_kept
        exact h17
      · exact h9
  · exact hy5

theorem doForceFireUnit_kept (c : Cmd) (s : State) (h : Kept s0 s) :
    Kept s0 (doForceFireUnit c s) := by
  unfold doForceFireUnit
  extract_lets +onlyGivenNames y5
  have hy5 : Kept s0 y5 := by
    subst y5
    apply squallDue_kept
    exact h
  clear_value y5
  extract_lets +onlyGivenNames y7
  clear_value y7
  apply checked_kept
  · intro x8 h9
    split
    · exact h9
    · apply checked_kept
      · intro x15 h16
        apply done_kept
        apply forceAt_kept
        exact h16
      · exact h9
  · exact hy5

theorem doForceTick_kept (s : State) (h : Kept s0 s) :
    Kept s0 (doForceTick s) := by
  unfold doForceTick
  split
  · exact h
  · apply applyForce_kept
    apply squallDue_kept
    apply waitTick_kept
    exact kept_with h

theorem doTrigInEdge_kept (pin : Fin 4) (rising : Bool) (frac : U16) (held : Nat) (s : State) (h : Kept s0 s) :
    Kept s0 (doTrigInEdge pin rising frac held s) := by
  unfold doTrigInEdge
  extract_lets +onlyGivenNames y8
  clear_value y8
  extract_lets +onlyGivenNames y9
  clear_value y9
  extract_lets +onlyGivenNames y10
  clear_value y10
  extract_lets +onlyGivenNames y11
  have hy11 : Kept s0 y11 := by
    subst y11
    exact kept_with h
  clear_value y11
  apply qualifyEdges_kept
  split
  · exact hy11
  · apply waitTick_kept
    exact hy11

theorem trigInEdge_kept (pin : Fin 4) (rising : Bool) (frac : U16) (held : Nat) (s : State) (h : Kept s0 s) :
    Kept s0 (trigInEdge pin rising frac held s) := by
  unfold trigInEdge
  split
  · exact h
  · extract_lets +onlyGivenNames y9
    clear_value y9
    apply doTrigInEdge_kept
    apply squallDue_kept
    split
    · apply wakeLull_kept
      exact h
    · exact h

theorem doTrigOutPulse_kept (m : Fin 16) (s : State) (h : Kept s0 s) :
    Kept s0 (doTrigOutPulse m s) := by
  unfold doTrigOutPulse
  split
  · exact h
  · extract_lets +onlyGivenNames y10
    clear_value y10
    extract_lets +onlyGivenNames y11
    have hy11 : Kept s0 y11 := by
      subst y11
      apply waitTick_kept
      exact kept_with h
    clear_value y11
    extract_lets +onlyGivenNames y13
    have hy13 : Kept s0 y13 := by
      subst y13
      apply forL_kept
      · intro x13 x14 h15
        exact kept_with h15
      · exact hy11
    clear_value y13
    split
    · apply raise_kept
      apply setAt_kept
      exact hy13
    · exact hy13

theorem doGroupDecision_kept (m : Fin 16) (s : State) (h : Kept s0 s) :
    Kept s0 (doGroupDecision m s) := by
  unfold doGroupDecision
  split
  · exact h
  · extract_lets +onlyGivenNames y10
    have hy10 : Kept s0 y10 := by
      subst y10
      apply squallDue_kept
      apply waitTick_kept
      exact h
    clear_value y10
    extract_lets +onlyGivenNames y12
    clear_value y12
    split
    · extract_lets +onlyGivenNames y23
      clear_value y23
      extract_lets +onlyGivenNames y24
      clear_value y24
      extract_lets +onlyGivenNames y25
      clear_value y25
      extract_lets +onlyGivenNames y26
      have hy26 : Kept s0 y26 := by
        subst y26
        apply setAt_kept
        exact hy10
      clear_value y26
      extract_lets +onlyGivenNames y28
      have hy28 : Kept s0 y28 := by
        subst y28
        apply forL_kept
        · intro x28 x29 h30
          apply raiseAt_kept
          exact h30
        · exact hy26
      clear_value y28
      extract_lets +onlyGivenNames y30
      have hy30 : Kept s0 y30 := by
        subst y30
        apply fireEffects_kept
        exact hy28
      clear_value y30
      split
      · apply disarmAt_kept
        exact hy30
      · exact hy30
    · exact hy10

theorem doGroupRegistration_kept (n : Fin 4) (p : Packet) (s : State) (h : Kept s0 s) :
    Kept s0 (doGroupRegistration n p s) := by
  unfold doGroupRegistration
  split
  · exact h
  · extract_lets +onlyGivenNames y7
    clear_value y7
    split
    · split
      · exact h
      · split
        · exact h
        · extract_lets +onlyGivenNames y19
          have hy19 : Kept s0 y19 := by
            subst y19
            apply putDefinition_kept
            apply setAt_kept
            exact h
          clear_value y19
          split
          · apply done_kept
            exact hy19
          · exact hy19
    · split
      · exact h
      · extract_lets +onlyGivenNames y14
        have hy14 : Kept s0 y14 := by
          subst y14
          apply registerMember_kept
          exact h
        clear_value y14
        extract_lets +onlyGivenNames y16
        have hy16 : Kept s0 y16 := by
          subst y16
          apply raise_kept
          exact hy14
        clear_value y16
        apply sendRegistration_kept
        exact hy16

theorem doTrigFire_kept (p : Packet) (s : State) (h : Kept s0 s) :
    Kept s0 (doTrigFire p s) := by
  unfold doTrigFire
  split
  · exact h
  · extract_lets +onlyGivenNames y6
    have hy6 : Kept s0 y6 := by
      subst y6
      apply squallDue_kept
      exact h
    clear_value y6
    apply forL_kept
    · intro x8 x9 h10
      extract_lets +onlyGivenNames y11
      clear_value y11
      split
      · apply ownStep_kept
        exact h10
      · exact h10
    · exact hy6

theorem doGroupFireReceive_kept (p : Packet) (s : State) (h : Kept s0 s) :
    Kept s0 (doGroupFireReceive p s) := by
  unfold doGroupFireReceive
  split
  · exact h
  · split
    · exact h
    · extract_lets +onlyGivenNames y11
      clear_value y11
      extract_lets +onlyGivenNames y12
      clear_value y12
      extract_lets +onlyGivenNames y13
      have hy13 : ∀  s, Kept s0 s → Kept s0 (y13  s) := by
        subst y13
        intro x13 h14
        beta_reduce
        apply setAt_kept
        exact h14
      clear_value y13
      split
      · apply hy13
        exact h
      · extract_lets +onlyGivenNames y16
        clear_value y16
        split
        · split
          · extract_lets +onlyGivenNames y23
            have hy23 : Kept s0 y23 := by
              subst y23
              apply hy13
              exact h
            clear_value y23
            split
            · extract_lets +onlyGivenNames y26
              have hy26 : Kept s0 y26 := by
                subst y26
                apply raise_kept
                exact hy23
              clear_value y26
              apply raise_kept
              apply setAt_kept
              exact hy26
            · exact hy23
          · exact h
        · split
          · apply hy13
            exact h
          · apply setAt_kept
            exact h

theorem doGroupArmReceive_kept (p : Packet) (s : State) (h : Kept s0 s) :
    Kept s0 (doGroupArmReceive p s) := by
  unfold doGroupArmReceive
  split
  · exact h
  · split
    · exact h
    · extract_lets +onlyGivenNames y11
      clear_value y11
      extract_lets +onlyGivenNames y12
      clear_value y12
      split
      · exact h
      · extract_lets +onlyGivenNames y14
        clear_value y14
        extract_lets +onlyGivenNames y15
        clear_value y15
        extract_lets +onlyGivenNames y16
        have hy16 : Kept s0 y16 := by
          subst y16
          apply setAt_kept
          exact h
        clear_value y16
        extract_lets +onlyGivenNames y18
        clear_value y18
        extract_lets +onlyGivenNames y19
        have hy19 : Kept s0 y19 := by
          subst y19
          exact kept_with hy16
        clear_value y19
        apply sendTrig_kept
        exact hy19

theorem doGroupDisarmReceive_kept (p : Packet) (s : State) (h : Kept s0 s) :
    Kept s0 (doGroupDisarmReceive p s) := by
  unfold doGroupDisarmReceive
  split
  · exact h
  · split
    · exact h
    · extract_lets +onlyGivenNames y11
      clear_value y11
      split
      · exact h
      · extract_lets +onlyGivenNames y13
        clear_value y13
        extract_lets +onlyGivenNames y14
        have hy14 : Kept s0 y14 := by
          subst y14
          exact kept_with h
        clear_value y14
        split
        · extract_lets +onlyGivenNames y17
          have hy17 : Kept s0 y17 := by
            subst y17
            apply beginDisarm_kept
            exact hy14
          clear_value y17
          apply pendDisarm_kept
          exact hy17
        · exact hy14

theorem doArmConfirm_kept (p : Packet) (s : State) (h : Kept s0 s) :
    Kept s0 (doArmConfirm p s) := by
  unfold doArmConfirm
  split
  · exact h
  · split
    · exact h
    · split
      · apply setAt_kept
        exact h
      · exact h

end Sys2Proof.Laws
end

