-- ==== Sys2Proof/Laws/KeptCrcUnit.lean ====
section
/-! SUPPORT. The operations of Machine/CrcUnit.lean keep what every command keeps. -/

namespace Sys2Proof.Laws

set_option Elab.async false

open Sys2Proof.Machine

variable {s0 : State}

theorem disarmAll_kept (s : State) (h : Kept s0 s) :
    Kept s0 (disarmAll s) := by
  unfold disarmAll
  extract_lets +onlyGivenNames y4
  have hy4 : Kept s0 y4 := by
    subst y4
    apply expireDisarms_kept
    exact h
  clear_value y4
  extract_lets +onlyGivenNames y6
  clear_value y6
  split
  · exact hy4
  · extract_lets +onlyGivenNames y8
    clear_value y8
    extract_lets +onlyGivenNames y9
    clear_value y9
    extract_lets +onlyGivenNames y10
    have hy10 : Kept s0 y10 := by
      subst y10
      apply forL_kept
      · intro x10 x11 h12
        extract_lets +onlyGivenNames y13
        have hy13 : Kept s0 y13 := by
          subst y13
          apply beginDisarm_kept
          exact h12
        clear_value y13
        split
        · apply forL_kept
          · intro x16 x17 h18
            apply sendTrig_kept
            exact h18
          · exact hy13
        · exact hy13
      · exact hy4
    clear_value y10
    exact kept_with hy10

theorem safeAction_kept (check mask : Nat) (s : State) (h : Kept s0 s) :
    Kept s0 (safeAction check mask s) := by
  unfold safeAction
  extract_lets +onlyGivenNames y6
  have hy6 : Kept s0 y6 := by
    subst y6
    apply raise_kept
    exact h
  clear_value y6
  extract_lets +onlyGivenNames y8
  have hy8 : Kept s0 y8 := by
    subst y8
    split
    · exact hy6
    · apply State_setField_kept
      exact hy6
  clear_value y8
  extract_lets +onlyGivenNames y10
  have hy10 : Kept s0 y10 := by
    subst y10
    split
    · apply abortAll_kept
      exact hy8
    · exact hy8
  clear_value y10
  extract_lets +onlyGivenNames y12
  have hy12 : Kept s0 y12 := by
    subst y12
    split
    · apply setScn_kept
      exact hy10
    · exact hy10
  clear_value y12
  split
  · apply disarmAll_kept
    exact hy12
  · exact hy12

theorem compareCheck_kept (check : Nat) (ref result : U32) (mask : Nat) (s : State) (h : Kept s0 s) :
    Kept s0 (compareCheck check ref result mask s) := by
  unfold compareCheck
  extract_lets +onlyGivenNames y8
  split
  · split
    · exact h
    · extract_lets +onlyGivenNames y11
      have hy11 : Kept s0 y11 := by
        subst y11
        apply State_setField_kept
        apply State_setField_kept
        exact h
      clear_value y11
      extract_lets +onlyGivenNames y13
      have hy13 : Kept s0 y13 := by
        subst y13
        apply State_countSat_kept
        exact hy11
      clear_value y13
      extract_lets +onlyGivenNames y15
      clear_value y15
      extract_lets +onlyGivenNames y16
      have hy16 : Kept s0 y16 := by
        subst y16
        exact kept_with hy13
      clear_value y16
      apply safeAction_kept
      apply raise_kept
      exact hy16
  · split
    · apply raise_kept
      apply setScn_kept
      apply State_setField_kept
      exact h
    · exact h

theorem withdrawRef_kept (s : State) (h : Kept s0 s) :
    Kept s0 (withdrawRef s) := by
  unfold withdrawRef
  apply setScn_kept
  apply State_setField_kept
  apply State_setField_kept
  exact h

theorem sweepHost_kept (host : U32) (s : State) (h : Kept s0 s) :
    Kept s0 (sweepHost host s) := by
  unfold sweepHost
  split
  · apply State_setField_kept
    apply State_setReg_kept
    exact h
  · split
    · apply compareCheck_kept
      exact h
    · exact h

theorem sweepFirmware_kept (fw : U32) (s : State) (h : Kept s0 s) :
    Kept s0 (sweepFirmware fw s) := by
  unfold sweepFirmware
  split
  · apply compareCheck_kept
    exact h
  · exact h

theorem sweepAt_kept (due : Nat) (s : State) (h : Kept s0 s) :
    Kept s0 (sweepAt due s) := by
  unfold sweepAt
  extract_lets +onlyGivenNames y5
  have hy5 : Kept s0 y5 := by
    subst y5
    apply waitTick_kept
    exact h
  clear_value y5
  extract_lets +onlyGivenNames y7
  clear_value y7
  extract_lets +onlyGivenNames y8
  have hy8 : Kept s0 y8 := by
    subst y8
    exact kept_with hy5
  clear_value y8
  extract_lets +onlyGivenNames y10
  clear_value y10
  extract_lets +onlyGivenNames y11
  clear_value y11
  apply sweepFirmware_kept
  apply sweepHost_kept
  apply State_countWrap_kept
  apply State_setReg_kept
  apply State_setReg_kept
  exact hy8

theorem doCrcSweep_kept (s : State) (h : Kept s0 s) :
    Kept s0 (doCrcSweep s) := by
  unfold doCrcSweep
  split
  · exact h
  · apply sweepAt_kept
    exact h

theorem cfgDone_kept (c : Cmd) (s : State) (h : Kept s0 s) :
    Kept s0 (cfgDone c s) := by
  unfold cfgDone
  apply done_kept
  exact h

theorem doCfgCommit_kept (c : Cmd) (s : State) (h : Kept s0 s) :
    Kept s0 (doCfgCommit c s) := by
  unfold doCfgCommit
  apply checked_kept
  · intro x5 h6
    extract_lets +onlyGivenNames y7
    have hy7 : Kept s0 y7 := by
      subst y7
      apply State_setField_kept
      apply State_setField_kept
      apply State_setReg_kept
      exact h6
    clear_value y7
    apply cfgDone_kept
    exact kept_with hy7
  · exact h

theorem doCfgWithdraw_kept (c : Cmd) (s : State) (h : Kept s0 s) :
    Kept s0 (doCfgWithdraw c s) := by
  unfold doCfgWithdraw
  apply checked_kept
  · intro x5 h6
    apply cfgDone_kept
    apply withdrawRef_kept
    exact h6
  · exact h

theorem doCfgQuery_kept (c : Cmd) (s : State) (h : Kept s0 s) :
    Kept s0 (doCfgQuery c s) := by
  unfold doCfgQuery
  apply checked_kept
  · intro x5 h6
    apply cfgDone_kept
    exact h6
  · exact h

end Sys2Proof.Laws
end

