-- ==== Sys2Proof/Laws/KeptDraught.lean ====
section
/-! SUPPORT. The operations of Machine/Draught.lean keep what every command keeps. -/

namespace Sys2Proof.Laws

set_option Elab.async false

open Sys2Proof.Machine

variable {s0 : State}

theorem noteRequest_kept (did : Nat) (isRead : Bool) (offset : Nat) (s : State) (h : Kept s0 s) :
    Kept s0 (noteRequest did isRead offset s) := by
  unfold noteRequest
  extract_lets +onlyGivenNames y7
  clear_value y7
  exact kept_with h

theorem sendRead_kept (did a n offset : Nat) (s : State) (h : Kept s0 s) :
    Kept s0 (sendRead did a n offset s) := by
  unfold sendRead
  extract_lets +onlyGivenNames y8
  clear_value y8
  extract_lets +onlyGivenNames y9
  clear_value y9
  apply noteRequest_kept
  apply send_kept
  exact h

theorem sendWrite_kept (did a : Nat) (d : Data) (offset : Nat) (s : State) (h : Kept s0 s) :
    Kept s0 (sendWrite did a d offset s) := by
  unfold sendWrite
  extract_lets +onlyGivenNames y8
  clear_value y8
  apply noteRequest_kept
  apply send_kept
  exact h

theorem endBad_kept (n : Fin 32) (d : DmaDesc) (code err residue : Nat) (s : State) (h : Kept s0 s) :
    Kept s0 (endBad n d code err residue s) := by
  unfold endBad
  extract_lets +onlyGivenNames y9
  have hy9 : Kept s0 y9 := by
    subst y9
    apply State_setReg64_kept
    apply endRegs_kept
    exact h
  clear_value y9
  extract_lets +onlyGivenNames y11
  have hy11 : Kept s0 y11 := by
    subst y11
    apply putStatus_kept
    exact hy9
  clear_value y11
  apply tryHandOver_kept
  apply raise_kept
  apply idleChan_kept
  exact hy11

theorem startDesc_kept (n : Fin 32) (d : DmaDesc) (s : State) (h : Kept s0 s) :
    Kept s0 (startDesc n d s) := by
  unfold startDesc
  extract_lets +onlyGivenNames y6
  have hy6 : Kept s0 y6 := by
    subst y6
    apply setChan_kept
    exact h
  clear_value y6
  extract_lets +onlyGivenNames y8
  clear_value y8
  extract_lets +onlyGivenNames y9
  have hy9 : Kept s0 y9 := by
    subst y9
    exact kept_with hy6
  clear_value y9
  extract_lets +onlyGivenNames y11
  have hy11 : Kept s0 y11 := by
    subst y11
    apply showPlace_kept
    exact hy9
  clear_value y11
  split
  · apply forL_kept
    · intro x14 x15 h16
      apply sendRead_kept
      exact h16
    · exact hy11
  · exact hy11

theorem doDescriptorLoad_kept (host : HostRead) (s : State) (h : Kept s0 s) :
    Kept s0 (doDescriptorLoad host s) := by
  unfold doDescriptorLoad
  split
  · exact h
  · split
    · exact h
    · extract_lets +onlyGivenNames y11
      have hy11 : Kept s0 y11 := by
        subst y11
        split
        · apply storeAwake_kept
          exact h
        · exact h
      clear_value y11
      extract_lets +onlyGivenNames y13
      clear_value y13
      split
      · exact hy11
      · extract_lets +onlyGivenNames y19
        have hy19 : Kept s0 y19 := by
          subst y19
          split
          · apply reportSpan_kept
            exact hy11
          · exact hy11
        clear_value y19
        apply dmaHalt_kept
        exact hy19
      · extract_lets +onlyGivenNames y19
        clear_value y19
        extract_lets +onlyGivenNames y20
        clear_value y20
        extract_lets +onlyGivenNames y21
        have hy21 : Kept s0 y21 := by
          subst y21
          exact kept_with hy11
        clear_value y21
        extract_lets +onlyGivenNames y23
        clear_value y23
        split
        · apply endBad_kept
          exact hy21
        · apply startDesc_kept
          exact hy21

theorem endOk_kept (n : Fin 32) (d : DmaDesc) (s : State) (h : Kept s0 s) :
    Kept s0 (endOk n d s) := by
  unfold endOk
  extract_lets +onlyGivenNames y6
  have hy6 : Kept s0 y6 := by
    subst y6
    apply State_setReg64_kept
    apply State_countWrap_kept
    apply endRegs_kept
    exact h
  clear_value y6
  extract_lets +onlyGivenNames y8
  have hy8 : Kept s0 y8 := by
    subst y8
    apply showPlace_kept
    exact hy6
  clear_value y8
  extract_lets +onlyGivenNames y10
  have hy10 : Kept s0 y10 := by
    subst y10
    apply putStatus_kept
    exact hy8
  clear_value y10
  extract_lets +onlyGivenNames y12
  have hy12 : Kept s0 y12 := by
    subst y12
    split
    · apply raise_kept
      exact hy10
    · exact hy10
  clear_value y12
  extract_lets +onlyGivenNames y14
  have hy14 : Kept s0 y14 := by
    subst y14
    apply idleChan_kept
    exact hy12
  clear_value y14
  split
  · apply setChan_kept
    exact hy14
  · apply tryHandOver_kept
    exact hy14

theorem writeRegs_kept (k : Nat) (d : Data) (s : State) (h : Kept s0 s) :
    Kept s0 (writeRegs k d s) := by
  unfold writeRegs
  apply forL_kept
  · intro x6 x7 h8
    apply writeReg_kept
    exact h8
  · exact h

theorem deliver_kept (n : Fin 32) (d : DmaDesc) (b : Data) (s : State) (h : Kept s0 s) :
    Kept s0 (deliver n d b s) := by
  unfold deliver
  split
  · apply endOk_kept
    apply writeRegs_kept
    exact h
  · split
    · apply setChan_kept
      apply forL_kept
      · intro x9 x10 h11
        apply sendWrite_kept
        exact h11
      · exact h
    · apply endOk_kept
      apply putTransfer_kept
      exact h

theorem noteSnoop_kept (d : DmaDesc) (s : State) (h : Kept s0 s) :
    Kept s0 (noteSnoop d s) := by
  unfold noteSnoop
  split
  · apply setPcie_kept
    exact h
  · exact h

theorem doDescriptorEnd_kept (host : HostRead) (s : State) (h : Kept s0 s) :
    Kept s0 (doDescriptorEnd host s) := by
  unfold doDescriptorEnd
  split
  · exact h
  · split
    · exact h
    · split
      · exact h
      · split
        · split
          · exact h
          · apply endOk_kept
            exact h
        · extract_lets +onlyGivenNames y17
          have hy17 : Kept s0 y17 := by
            subst y17
            split
            · apply storeAwake_kept
              exact h
            · exact h
          clear_value y17
          split
          · exact hy17
          · split
            · exact hy17
            · extract_lets +onlyGivenNames y25
              have hy25 : Kept s0 y25 := by
                subst y25
                split
                · apply reportSpan_kept
                  exact hy17
                · exact hy17
              clear_value y25
              apply dmaHalt_kept
              apply writeMaybe_kept
              exact hy25
            · extract_lets +onlyGivenNames y24
              have hy24 : Kept s0 y24.2 := by
                subst y24
                apply freeBytes_kept
                exact hy17
              clear_value y24
              apply endBad_kept
              apply putTransfer_kept
              exact hy24
            · apply deliver_kept
              apply noteSnoop_kept
              exact hy17

theorem doBusError_kept (cause : Nat) (ch : Fin 32) (addr : Nat) (space written : Nat) (s : State) (h : Kept s0 s) :
    Kept s0 (doBusError cause ch addr space written s) := by
  unfold doBusError
  split
  · exact h
  · extract_lets +onlyGivenNames y10
    clear_value y10
    extract_lets +onlyGivenNames y11
    clear_value y11
    extract_lets +onlyGivenNames y12
    have hy12 : Kept s0 y12 := by
      subst y12
      split
      · apply writeMaybe_kept
        apply writePrefix_kept
        exact h
      · exact h
    clear_value y12
    apply dmaHalt_kept
    exact hy12

end Sys2Proof.Laws
end

