-- ==== Sys2Proof/Laws/KeptHostIf.lean ====
section
/-! SUPPORT. The operations of Machine/HostIf.lean keep what every command keeps. -/

namespace Sys2Proof.Laws

set_option Elab.async false

open Sys2Proof.Machine

variable {s0 : State}

theorem readResult_kept (r : ReadOutcome) (s : State) (h : Kept s0 s) :
    Kept s0 (readResult r s) := by
  unfold readResult
  apply setPcie_kept
  exact h

theorem bar4Read_kept (o n : Nat) (s : State) (h : Kept s0 s) :
    Kept s0 (bar4Read o n s) := by
  unfold bar4Read
  extract_lets +onlyGivenNames y6
  clear_value y6
  split
  · apply refuseBar4_kept
    apply readResult_kept
    exact h
  · extract_lets +onlyGivenNames y8
    have hy8 : Kept s0 y8 := by
      subst y8
      apply storeAwake_kept
      exact h
    clear_value y8
    split
    · apply refuseBar4_kept
      apply readResult_kept
      exact hy8
    · split
      · apply readResult_kept
        exact hy8
      · split
        · apply reportSpan_kept
          apply readResult_kept
          exact hy8
        · apply readResult_kept
          exact hy8

theorem doBar4Read_kept (o n : Nat) (s : State) (h : Kept s0 s) :
    Kept s0 (doBar4Read o n s) := by
  unfold doBar4Read
  split
  · exact h
  · split
    · apply readResult_kept
      exact h
    · apply bar4Read_kept
      apply wakeLull_kept
      exact h

theorem writeMasked_wf {m : Memory} (a : Nat) (l : List (Option Byte)) (h : Memory.wf m = true) : Memory.wf (writeMasked m a l) = true := by
  induction l generalizing m a with
  | nil => exact h
  | cons b l ih => cases b with
    | none => exact ih (a + 1) h
    | some b => exact ih (a + 1) (Memory.setByte_wf a b h)

theorem writeEnabled_kept (a : Nat) (bytes : List (Option Byte)) (s : State) (h : Kept s0 s) : Kept s0 (writeEnabled a bytes s) :=
  ⟨h.regs, h.host, fun x => writeMasked_wf _ _ (h.store x), h.flash, h.tick, h.pending, h.fuses, h.trims⟩

theorem bar4Write_kept (o : Nat) (bytes : List (Option Byte)) (poisoned : Bool) (s : State) (h : Kept s0 s) :
    Kept s0 (bar4Write o bytes poisoned s) := by
  unfold bar4Write
  extract_lets +onlyGivenNames y7
  clear_value y7
  extract_lets +onlyGivenNames y8
  clear_value y8
  extract_lets +onlyGivenNames y9
  have hy9 : Kept s0 y9 := by
    subst y9
    split
    · apply aerLog_kept
      exact h
    · exact h
  clear_value y9
  split
  · apply refuseBar4_kept
    apply aerLog_kept
    exact hy9
  · extract_lets +onlyGivenNames y12
    have hy12 : Kept s0 y12 := by
      subst y12
      apply storeAwake_kept
      exact hy9
    clear_value y12
    split
    · apply refuseBar4_kept
      apply aerLog_kept
      exact hy12
    · split
      · apply poisonSpan_kept
        exact hy12
      · apply writeEnabled_kept
        exact hy12

theorem doBar4Write_kept (o : Nat) (bytes : List (Option Byte)) (poisoned : Bool) (s : State) (h : Kept s0 s) :
    Kept s0 (doBar4Write o bytes poisoned s) := by
  unfold doBar4Write
  split
  · exact h
  · apply barAccess_kept
    · intro x8 h9
      apply bar4Write_kept
      exact h9
    · exact h

theorem releaseVectors_kept (s : State) (h : Kept s0 s) :
    Kept s0 (releaseVectors s) := by
  unfold releaseVectors
  apply forL_kept
  · intro x4 x5 h6
    apply releaseVector_kept
    exact h6
  · exact h

theorem settleHost_kept (s : State) (h : Kept s0 s) :
    Kept s0 (settleHost s) := by
  unfold settleHost
  apply advanceNvme_kept
  apply pauseNvme_kept
  exact h

theorem ptmInvalid_kept (s : State) (h : Kept s0 s) :
    Kept s0 (ptmInvalid s) := by
  unfold ptmInvalid
  split
  · apply setPcie_kept
    exact h
  · extract_lets +onlyGivenNames y5
    have hy5 : Kept s0 y5 := by
      subst y5
      apply raise_kept
      apply setPcie_kept
      exact h
    clear_value y5
    split
    · apply loopLost_kept
      exact hy5
    · exact hy5

theorem enterD3_kept (s : State) (h : Kept s0 s) :
    Kept s0 (enterD3 s) := by
  unfold enterD3
  split
  · exact h
  · apply settleHost_kept
    apply setPcie_kept
    exact h

theorem leaveD3_kept (s : State) (h : Kept s0 s) :
    Kept s0 (leaveD3 s) := by
  unfold leaveD3
  split
  · exact h
  · apply releaseVectors_kept
    apply settleHost_kept
    apply setPcie_kept
    exact h

theorem resizeBar_kept (code : Nat) (s : State) (h : Kept s0 s) :
    Kept s0 (resizeBar code s) := by
  unfold resizeBar
  split
  · exact h
  · extract_lets +onlyGivenNames y6
    clear_value y6
    apply dropUncovered_kept
    apply setPcie_kept
    exact h

theorem if_kept {p : Prop} [Decidable p] {a b : State} (ha : Kept s0 a) (hb : Kept s0 b) : Kept s0 (if p then a else b) := by
  split
  · exact ha
  · exact hb

theorem cfgWrite_kept (o : Nat) (v : U32) (s : State) (h : Kept s0 s) : Kept s0 (cfgWrite o v s) := by
  unfold cfgWrite
  have hc : ∀ o v, Kept s0 (setCfg o v s) := fun o v => setCfg_kept _ _ _ h
  refine if_kept ?_ (if_kept (hc _ _) (if_kept ?_ (if_kept ?_
    (if_kept (hc _ _) (if_kept (hc _ _) (if_kept (hc _ _) (if_kept (resizeBar_kept _ _ h) (if_kept ?_ h))))))))
  · extract_lets was s1 s2
    exact releaseVectors_kept _ (settleHost_kept _ (if_kept (recheckDelegations_kept _ _ (hc _ _)) (hc _ _)))
  · exact if_kept (enterD3_kept _ h) (if_kept (leaveD3_kept _ h) h)
  · exact releaseVectors_kept _ (hc _ _)
  · extract_lets s1
    exact if_kept (hc _ _) (ptmInvalid_kept _ (hc _ _))

theorem doConfigurationWrite_kept (o : Nat) (v : U32) (s : State) (h : Kept s0 s) :
    Kept s0 (doConfigurationWrite o v s) := by
  unfold doConfigurationWrite
  split
  · exact h
  · apply cfgWrite_kept
    exact h

theorem doPcieLinkUp_kept (gen width : Nat) (s : State) (h : Kept s0 s) :
    Kept s0 (doPcieLinkUp gen width s) := by
  unfold doPcieLinkUp
  split
  · exact h
  · extract_lets +onlyGivenNames y7
    have hy7 : Kept s0 y7 := by
      subst y7
      apply setPcie_kept
      exact h
    clear_value y7
    extract_lets +onlyGivenNames y9
    have hy9 : Kept s0 y9 := by
      subst y9
      apply raise_kept
      exact hy7
    clear_value y9
    extract_lets +onlyGivenNames y11
    have hy11 : Kept s0 y11 := by
      subst y11
      split
      · exact hy9
      · apply raise_kept
        exact hy9
    clear_value y11
    apply settleHost_kept
    exact hy11

theorem settleLtr_kept (s : State) (h : Kept s0 s) :
    Kept s0 (settleLtr s) := by
  unfold settleLtr
  split
  · apply setPcie_kept
    exact h
  · exact h

theorem idleWork_kept (s : State) (h : Kept s0 s) :
    Kept s0 (idleWork s) := by
  unfold idleWork
  apply settleLtr_kept
  apply idleTick_kept
  exact h

theorem hostReset_kept (code : Nat) (linkDrops : Bool) (s : State) (h : Kept s0 s) :
    Kept s0 (hostReset code linkDrops s) := by
  unfold hostReset
  extract_lets +onlyGivenNames y6
  have hy6 : Kept s0 y6 := by
    subst y6
    apply forL_kept
    · intro x6 x7 h8
      split
      · apply closeNow_kept
        exact h8
      · exact h8
    · exact h
  clear_value y6
  extract_lets +onlyGivenNames y8
  have hy8 : Kept s0 y8 := by
    subst y8
    apply abortAll_kept
    exact hy6
  clear_value y8
  extract_lets +onlyGivenNames y10
  have hy10 : Kept s0 y10 := by
    subst y10
    apply disableQueues_kept
    exact hy8
  clear_value y10
  extract_lets +onlyGivenNames y12
  clear_value y12
  extract_lets +onlyGivenNames y13
  have hy13 : Kept s0 y13 := by
    subst y13
    exact kept_with hy10
  clear_value y13
  extract_lets +onlyGivenNames y15
  have hy15 : Kept s0 y15 := by
    subst y15
    apply regsFilter_kept
    exact hy13
  clear_value y15
  extract_lets +onlyGivenNames y17
  have hy17 : Kept s0 y17 := by
    subst y17
    apply State_setField_kept
    exact hy15
  clear_value y17
  extract_lets +onlyGivenNames y19
  have hy19 : Kept s0 y19 := by
    subst y19
    apply setPcie_kept
    exact hy17
  clear_value y19
  extract_lets +onlyGivenNames y21
  have hy21 : Kept s0 y21 := by
    subst y21
    apply settleQuiesce_kept
    apply ptmInvalid_kept
    exact hy19
  clear_value y21
  apply raise_kept
  apply settleHost_kept
  exact hy21

theorem doHotReset_kept (s : State) (h : Kept s0 s) :
    Kept s0 (doHotReset s) := by
  unfold doHotReset
  split
  · apply hostReset_kept
    exact h
  · exact h

theorem doFlr_kept (s : State) (h : Kept s0 s) :
    Kept s0 (doFlr s) := by
  unfold doFlr
  split
  · apply hostReset_kept
    exact h
  · exact h

end Sys2Proof.Laws
end

