-- ==== Sys2Proof/Laws/KeptBootOps.lean ====
section
/-! SUPPORT. The operations of Machine/BootOps.lean keep what every command keeps. -/

namespace Sys2Proof.Laws

set_option Elab.async false

open Sys2Proof.Machine

variable {s0 : State}

theorem switchSlot_kept (slotB : Bool) (s : State) (h : Kept s0 s) :
    Kept s0 (switchSlot slotB s) := by
  unfold switchSlot
  extract_lets +onlyGivenNames y5
  clear_value y5
  extract_lets +onlyGivenNames y6
  clear_value y6
  extract_lets +onlyGivenNames y7
  clear_value y7
  extract_lets +onlyGivenNames y8
  clear_value y8
  extract_lets +onlyGivenNames y9
  clear_value y9
  extract_lets +onlyGivenNames y10
  have hy10 : Kept s0 y10 := by
    subst y10
    split
    · apply program_kept
      exact h
    · apply program_kept
      apply erase_kept
      exact h
  clear_value y10
  extract_lets +onlyGivenNames y12
  have hy12 : Kept s0 y12 := by
    subst y12
    apply setLife_kept
    exact hy10
  clear_value y12
  apply raise_kept
  exact hy12

theorem freshStores_kept (cs : ControlStore) (s : State) (h : Kept s0 s) :
    Kept s0 (freshStores cs s) := by
  unfold freshStores
  exact kept_with h

theorem readBack_kept (turned : List (Fin 20 × Nat × Nat)) (s : State) (h : Kept s0 s) :
    Kept s0 (readBack turned s).2 := by
  unfold readBack
  extract_lets +onlyGivenNames y5
  have hy5 : Kept s0 y5 := by
    subst y5
    apply forL_kept
    · intro x5 x6 h7
      split
      · apply upsetWord_kept
        exact h7
      · exact h7
    · exact h
  clear_value y5
  exact hy5

theorem loadPatch_kept (c : CryptoChecks) (body : Data) (turned : List (Fin 20 × Nat × Nat)) (s : State) (h : Kept s0 s) :
    Kept s0 (loadPatch c body turned s) := by
  unfold loadPatch
  extract_lets src none_ fs b failed
  have hf : ∀ f, Kept s0 (failed f) := fun f => kept_of (freshStores_kept none_ s h) rfl rfl rfl rfl rfl
  clear_value failed
  split
  · exact freshStores_kept none_ s h
  · dsimp only
    split
    · exact hf _
    · split
      · exact readBack_kept _ _ (freshStores_kept _ _ h)
      · exact hf _

theorem applyConfig_kept (kind : Nat) (s : State) (h : Kept s0 s) :
    Kept s0 (applyConfig kind s) := by
  unfold applyConfig
  extract_lets +onlyGivenNames y5
  clear_value y5
  extract_lets +onlyGivenNames y6
  clear_value y6
  extract_lets +onlyGivenNames y7
  clear_value y7
  extract_lets +onlyGivenNames y8
  clear_value y8
  extract_lets +onlyGivenNames y9
  clear_value y9
  extract_lets +onlyGivenNames y10
  clear_value y10
  extract_lets +onlyGivenNames y11
  clear_value y11
  extract_lets +onlyGivenNames y12
  clear_value y12
  extract_lets +onlyGivenNames y13
  extract_lets +onlyGivenNames y14
  extract_lets +onlyGivenNames y15
  clear_value y15
  extract_lets +onlyGivenNames y16
  clear_value y16
  extract_lets +onlyGivenNames y17
  extract_lets +onlyGivenNames y18
  extract_lets +onlyGivenNames y19
  have hy19 : Kept s0 y19 := by
    subst y19
    exact kept_of h rfl rfl rfl rfl rfl
  clear_value y19
  extract_lets +onlyGivenNames y21
  have hy21 : ∀ a0 a1 s, Kept s0 s → Kept s0 (y21 a0 a1 s) := by
    subst y21
    intro x21 x22 x23 h24
    beta_reduce
    split
    · apply raise_kept
      exact h24
    · exact h24
  clear_value y21
  extract_lets +onlyGivenNames y23
  have hy23 : Kept s0 y23 := by
    subst y23
    apply hy21
    apply hy21
    apply hy21
    apply hy21
    exact hy19
  clear_value y23
  extract_lets +onlyGivenNames y25
  have hy25 : Kept s0 y25 := by
    subst y25
    apply hy21
    exact hy23
  clear_value y25
  split
  · apply raise_kept
    exact hy25
  · exact hy25

theorem runSlot_kept (slotB : Bool) (s : State) (h : Kept s0 s) :
    Kept s0 (runSlot slotB s) := by
  unfold runSlot
  extract_lets +onlyGivenNames y5
  clear_value y5
  extract_lets +onlyGivenNames y6
  clear_value y6
  exact kept_of h rfl rfl rfl rfl rfl

theorem bootFailed_kept (s : State) (h : Kept s0 s) :
    Kept s0 (bootFailed s) := by
  unfold bootFailed
  exact kept_of h rfl rfl rfl rfl rfl

theorem bootRom_kept (kind : Nat) (s : State) (h : Kept s0 s) :
    Kept s0 (bootRom kind s) := by
  unfold bootRom
  extract_lets +onlyGivenNames y5
  clear_value y5
  split
  · apply runSlot_kept
    apply applyConfig_kept
    exact h
  · split
    · extract_lets +onlyGivenNames y8
      have hy8 : Kept s0 y8 := by
        subst y8
        apply runSlot_kept
        apply applyConfig_kept
        exact h
      clear_value y8
      exact kept_of hy8 rfl rfl rfl rfl rfl
    · apply bootFailed_kept
      exact kept_with h

theorem cleared_kept (s : State) (h : Kept s0 s) : Kept s0 (cleared s) :=
  ⟨fun _ => rfl, h.host, fun _ => rfl, h.flash, fun _ => Nat.two_pow_pos 64, h.pending, h.fuses, h.trims⟩

theorem fullReset_kept (code kind : Nat) (straps : Straps) (s : State) (h : Kept s0 s) :
    Kept s0 (fullReset code kind straps s) := by
  unfold fullReset
  split
  · exact h
  · extract_lets +onlyGivenNames y8
    have hy8 : Kept s0 y8 := by
      subst y8
      apply cleared_kept
      exact h
    clear_value y8
    extract_lets +onlyGivenNames y10
    clear_value y10
    extract_lets +onlyGivenNames y11
    extract_lets +onlyGivenNames y12
    have hy12 : Kept s0 y12 := by
      subst y12
      exact kept_of hy8 rfl rfl rfl rfl rfl
    clear_value y12
    extract_lets +onlyGivenNames y14
    clear_value y14
    apply bootRom_kept
    exact kept_of hy12 rfl rfl rfl rfl rfl

end Sys2Proof.Laws
end

