-- ==== Sys2Proof/Laws/KeptInlets.lean ====
section
/-! SUPPORT. The operations of Machine/Inlets.lean keep what every command keeps. -/

namespace Sys2Proof.Laws

set_option Elab.async false

open Sys2Proof.Machine

variable {s0 : State}

theorem dropChannels_kept (n : Fin 4) (s : State) (h : Kept s0 s) :
    Kept s0 (dropChannels n s) := by
  unfold dropChannels
  apply detachUnits_kept
  exact h

theorem doInletConfig_kept (c : Cmd) (s : State) (h : Kept s0 s) :
    Kept s0 (doInletConfig c s) := by
  unfold doInletConfig
  split
  · apply checked_kept
    · intro x9 h10
      apply id_kept
      exact h10
    · exact h
  · extract_lets +onlyGivenNames y10
    clear_value y10
    apply checked_kept
    · intro x11 h12
      apply done_kept
      apply dropChannels_kept
      apply setInlet_kept
      exact h12
    · exact h

theorem beginInlet_kept (c : Cmd) (n : Fin 4) (s : State) (h : Kept s0 s) :
    Kept s0 (beginInlet c n s) := by
  unfold beginInlet
  extract_lets +onlyGivenNames y6
  clear_value y6
  extract_lets +onlyGivenNames y7
  have hy7 : Kept s0 y7 := by
    subst y7
    apply setInlet_kept
    exact h
  clear_value y7
  extract_lets +onlyGivenNames y9
  have hy9 : Kept s0 y9 := by
    subst y9
    split
    · exact hy7
    · apply startSynth_kept
      exact hy7
  clear_value y9
  extract_lets +onlyGivenNames y11
  have hy11 : Kept s0 y11 := by
    subst y11
    apply divideHistory_kept
    exact hy9
  clear_value y11
  apply wait_kept
  split
  · apply setInlet_kept
    exact hy11
  · exact hy11

theorem dropStart_kept (n : Fin 4) (s : State) (h : Kept s0 s) :
    Kept s0 (dropStart n s) := by
  unfold dropStart
  apply setSynth_kept
  apply releaseAll_kept
  apply setInlet_kept
  exact h

theorem startFail_kept (n : Fin 4) (aux : Nat) (s : State) (h : Kept s0 s) :
    Kept s0 (startFail n aux s) := by
  unfold startFail
  extract_lets +onlyGivenNames y6
  clear_value y6
  extract_lets +onlyGivenNames y7
  have hy7 : Kept s0 y7 := by
    subst y7
    apply raise_kept
    apply dropStart_kept
    exact h
  clear_value y7
  split
  · split
    · apply complete_kept
      exact hy7
    · exact hy7
  · exact hy7

theorem doInletStart_kept (c : Cmd) (s : State) (h : Kept s0 s) :
    Kept s0 (doInletStart c s) := by
  unfold doInletStart
  split
  · apply checked_kept
    · intro x9 h10
      apply id_kept
      exact h10
    · exact h
  · extract_lets +onlyGivenNames y10
    clear_value y10
    apply checked_kept
    · intro x11 h12
      apply ifAdmitted_kept
      · intro x13 x14
        refine reserveStore_kept ?_ (by assumption)
        exact h12
      · apply complete_kept
        exact h12
      · intro x13 h14
        apply afterPower_kept
        · apply requestPower_kept
          exact h14
        · intro x15 h16
          apply beginInlet_kept
          exact h16
        · intro x15 h16
          apply setInlet_kept
          exact h16
        · intro x15 h16
          apply releaseAll_kept
          exact h16
    · exact h

theorem doInletStartStepTimeout_kept (n : Fin 4) (lane : Fin 32) (s : State) (h : Kept s0 s) :
    Kept s0 (doInletStartStepTimeout n lane s) := by
  unfold doInletStartStepTimeout
  extract_lets +onlyGivenNames y6
  clear_value y6
  split
  · exact h
  · apply startFail_kept
    apply waitUp_kept
    exact h

theorem nextStep_kept (n : Fin 4) (step : Nat) (s : State) (h : Kept s0 s) :
    Kept s0 (nextStep n step s) := by
  unfold nextStep
  apply setInlet_kept
  exact h

theorem inletPllLocked_kept (n : Fin 4) (s : State) (h : Kept s0 s) :
    Kept s0 (inletPllLocked n s) := by
  unfold inletPllLocked
  split
  · apply nextStep_kept
    exact h
  · exact h

theorem setLane_kept (n : Fin 4) (k : Nat) (f : Lane → Lane) (s : State) (h : Kept s0 s) :
    Kept s0 (setLane n k f s) := by
  unfold setLane
  apply setInlet_kept
  exact h

theorem doLaneLock_kept (n : Fin 4) (k : Fin 32) (isCdr : Bool) (s : State) (h : Kept s0 s) :
    Kept s0 (doLaneLock n k isCdr s) := by
  unfold doLaneLock
  extract_lets +onlyGivenNames y7
  clear_value y7
  split
  · exact h
  · split
    · extract_lets +onlyGivenNames y10
      have hy10 : Kept s0 y10 := by
        subst y10
        apply setLane_kept
        exact h
      clear_value y10
      split
      · apply setInlet_kept
        apply nextStep_kept
        exact hy10
      · exact hy10
    · split
      · extract_lets +onlyGivenNames y11
        have hy11 : Kept s0 y11 := by
          subst y11
          apply setLane_kept
          exact h
        clear_value y11
        split
        · apply nextStep_kept
          apply setInlet_kept
          exact hy11
        · exact hy11
      · exact h

theorem doSysrefPulse_kept (n : Fin 4) (half : Bool) (s : State) (h : Kept s0 s) :
    Kept s0 (doSysrefPulse n half s) := by
  unfold doSysrefPulse
  extract_lets +onlyGivenNames y6
  clear_value y6
  extract_lets +onlyGivenNames y7
  clear_value y7
  extract_lets +onlyGivenNames y8
  clear_value y8
  split
  · split
    · extract_lets +onlyGivenNames y11
      have hy11 : Kept s0 y11 := by
        subst y11
        apply setInlet_kept
        exact h
      clear_value y11
      split
      · apply nextStep_kept
        exact hy11
      · exact hy11
    · extract_lets +onlyGivenNames y11
      have hy11 : Kept s0 y11 := by
        subst y11
        apply setInlet_kept
        exact h
      clear_value y11
      split
      · apply nextStep_kept
        exact hy11
      · exact hy11
  · split
    · exact h
    · extract_lets +onlyGivenNames y11
      have hy11 : Kept s0 y11 := by
        subst y11
        apply setInlet_kept
        exact h
      clear_value y11
      split
      · extract_lets +onlyGivenNames y14
        clear_value y14
        apply raiseAt_kept
        apply setInlet_kept
        exact hy11
      · apply setInlet_kept
        exact hy11

theorem doIlasReceived_kept (n : Fin 4) (r : IlasResult) (s : State) (h : Kept s0 s) :
    Kept s0 (doIlasReceived n r s) := by
  unfold doIlasReceived
  extract_lets +onlyGivenNames y6
  clear_value y6
  split
  · exact h
  · split
    · apply startFail_kept
      exact h
    · extract_lets +onlyGivenNames y9
      clear_value y9
      split
      · apply startFail_kept
        exact h
      · extract_lets +onlyGivenNames y11
        clear_value y11
        extract_lets +onlyGivenNames y12
        clear_value y12
        extract_lets +onlyGivenNames y13
        have hy13 : Kept s0 y13 := by
          subst y13
          apply setInlet_kept
          exact h
        clear_value y13
        extract_lets +onlyGivenNames y15
        have hy15 : Kept s0 y15 := by
          subst y15
          split
          · apply raise_kept
            exact hy13
          · exact hy13
        clear_value y15
        apply nextStep_kept
        exact hy15

theorem noteClips_kept (n : Fin 4) (f : Frame) (s : State) (h : Kept s0 s) :
    Kept s0 (noteClips n f s) := by
  unfold noteClips
  extract_lets +onlyGivenNames y6
  clear_value y6
  extract_lets +onlyGivenNames y7
  clear_value y7
  split
  · exact h
  · extract_lets +onlyGivenNames y9
    have hy9 : Kept s0 y9 := by
      subst y9
      apply setInlet_kept
      exact h
    clear_value y9
    apply raiseW_kept
    exact hy9

theorem evaluateFrame_kept (n : Fin 4) (i : Inlet) (samples : List (List U16)) (s : State) (h : Kept s0 s) :
    Kept s0 (evaluateFrame n i samples s) := by
  unfold evaluateFrame
  split
  · exact h
  · apply forL_kept
    · intro x8 x9 h10
      extract_lets +onlyGivenNames y11
      clear_value y11
      split
      · apply skipSamples_kept
        exact h10
      · apply evaluateSample_kept
        exact h10
    · exact h

theorem acceptFrame_kept (n : Fin 4) (f : Frame) (s : State) (h : Kept s0 s) :
    Kept s0 (acceptFrame n f s) := by
  unfold acceptFrame
  extract_lets +onlyGivenNames y6
  clear_value y6
  extract_lets +onlyGivenNames y7
  clear_value y7
  extract_lets +onlyGivenNames y8
  clear_value y8
  extract_lets +onlyGivenNames y9
  have hy9 : Kept s0 y9 := by
    subst y9
    apply setInlet_kept
    exact h
  clear_value y9
  split
  · apply raise_kept
    exact hy9
  · exact hy9

theorem pushFrame_kept (n : Fin 4) (f : Frame) (samples : List (List U16)) (s : State) (h : Kept s0 s) :
    Kept s0 (pushFrame n f samples s) := by
  unfold pushFrame
  extract_lets +onlyGivenNames y7
  clear_value y7
  extract_lets +onlyGivenNames y8
  clear_value y8
  extract_lets +onlyGivenNames y9
  have hy9 : Kept s0 y9 := by
    subst y9
    apply noteClips_kept
    apply evaluateFrame_kept
    exact h
  clear_value y9
  extract_lets +onlyGivenNames y11
  have hy11 : Kept s0 y11 := by
    subst y11
    split
    · exact hy9
    · apply acceptFrame_kept
      exact hy9
  clear_value y11
  split
  · apply enterHole_kept
    exact hy11
  · exact hy11

theorem publishInlet_kept (n : Fin 4) (s : State) (h : Kept s0 s) :
    Kept s0 (publishInlet n s) := by
  unfold publishInlet
  extract_lets +onlyGivenNames y5
  have hy5 : Kept s0 y5 := by
    subst y5
    apply publishIq_kept
    exact h
  clear_value y5
  apply forL_kept
  · intro x7 x8 h9
    apply publishTask_kept
    exact h9
  · exact hy5

theorem firstRelease_kept (n : Fin 4) (s : State) (h : Kept s0 s) :
    Kept s0 (firstRelease n s) := by
  unfold firstRelease
  extract_lets +onlyGivenNames y5
  clear_value y5
  extract_lets +onlyGivenNames y6
  clear_value y6
  extract_lets +onlyGivenNames y7
  clear_value y7
  extract_lets +onlyGivenNames y8
  clear_value y8
  extract_lets +onlyGivenNames y9
  clear_value y9
  extract_lets +onlyGivenNames y10
  clear_value y10
  extract_lets +onlyGivenNames y11
  have hy11 : Kept s0 y11 := by
    subst y11
    apply setInlet_kept
    exact h
  clear_value y11
  extract_lets +onlyGivenNames y13
  have hy13 : Kept s0 y13 := by
    subst y13
    apply raiseAt_kept
    exact hy11
  clear_value y13
  split
  · split
    · apply done_kept
      apply setInlet_kept
      exact hy13
    · exact hy13
  · exact hy13

theorem clockHole_kept (n : Fin 4) (f : Frame) (s : State) (h : Kept s0 s) :
    Kept s0 (clockHole n f s) := by
  unfold clockHole
  split
  · apply enterHole_kept
    exact h
  · split
    · extract_lets +onlyGivenNames y8
      have hy8 : Kept s0 y8.2 := by
        subst y8
        apply takeFree_kept
        exact h
      clear_value y8
      split
      · apply enterHole_kept
        exact hy8
      · exact hy8
    · exact h

theorem releaseFrame_kept (n : Fin 4) (f : Frame) (samples : List (List U16)) (s : State) (h : Kept s0 s) :
    Kept s0 (releaseFrame n f samples s) := by
  unfold releaseFrame
  extract_lets +onlyGivenNames y7
  clear_value y7
  extract_lets +onlyGivenNames y8
  clear_value y8
  extract_lets +onlyGivenNames y9
  have hy9 : Kept s0 y9 := by
    subst y9
    apply setInlet_kept
    exact h
  clear_value y9
  split
  · apply pushFrame_kept
    apply clockHole_kept
    apply enterHole_kept
    exact hy9
  · extract_lets +onlyGivenNames y12
    clear_value y12
    extract_lets +onlyGivenNames y13
    have hy13 : Kept s0 y13 := by
      subst y13
      split
      · exact hy9
      · apply pushFrame_kept
        exact hy9
    clear_value y13
    extract_lets +onlyGivenNames y15
    have hy15 : Kept s0 y15 := by
      subst y15
      apply enterHole_kept
      exact hy13
    clear_value y15
    apply publishInlet_kept
    split
    · apply skipSamples_kept
      exact hy15
    · exact hy15

theorem doFrameRelease_kept (n : Fin 4) (samples : List (List U16)) (s : State) (h : Kept s0 s) :
    Kept s0 (doFrameRelease n samples s) := by
  unfold doFrameRelease
  extract_lets +onlyGivenNames y6
  clear_value y6
  split
  · exact h
  · extract_lets +onlyGivenNames y8
    have hy8 : Kept s0 y8 := by
      subst y8
      split
      · apply firstRelease_kept
        exact h
      · exact h
    clear_value y8
    extract_lets +onlyGivenNames y10
    have hy10 : Kept s0 y10 := by
      subst y10
      apply squallDue_kept
      apply waitTick_kept
      exact hy8
    clear_value y10
    extract_lets +onlyGivenNames y12
    clear_value y12
    extract_lets +onlyGivenNames y13
    clear_value y13
    extract_lets +onlyGivenNames y14
    clear_value y14
    extract_lets +onlyGivenNames y15
    have hy15 : Kept s0 y15 := by
      subst y15
      split
      · exact hy10
      · apply releaseFrame_kept
        exact hy10
    clear_value y15
    apply setInlet_kept
    exact hy15

theorem commitFrame_kept (n : Fin 4) (s : State) (h : Kept s0 s) :
    Kept s0 (commitFrame n s) := by
  unfold commitFrame
  split
  · exact h
  · apply setInlet_kept
    exact h

theorem overtakenBackfill_kept (id oldest : Nat) (s : State) (h : Kept s0 s) :
    Kept s0 (overtakenBackfill id oldest s) := by
  unfold overtakenBackfill
  split
  · exact h
  · split
    · split
      · exact h
      · extract_lets +onlyGivenNames y17
        clear_value y17
        split
        · exact h
        · apply loseIndices_kept
          apply setTask_kept
          exact h
    · exact h

theorem overtakenShares_kept (oldest : Nat) (n : Fin 4) (s : State) (h : Kept s0 s) :
    Kept s0 (overtakenShares oldest n s) := by
  unfold overtakenShares
  apply forL_kept
  · intro x6 x7 h8
    split
    · exact h8
    · apply forL_kept
      · intro x10 x11 h12
        split
        · split
          · exact h12
          · extract_lets +onlyGivenNames y19
            clear_value y19
            extract_lets +onlyGivenNames y20
            clear_value y20
            split
            · apply loseIndices_kept
              apply setShare_kept
              exact h12
            · exact h12
        · exact h12
      · exact h8
  · exact h

theorem overtaken_kept (n : Fin 4) (s : State) (h : Kept s0 s) :
    Kept s0 (overtaken n s) := by
  unfold overtaken
  extract_lets +onlyGivenNames y5
  clear_value y5
  apply overtakenShares_kept
  apply forL_kept
  · intro x6 x7 h8
    apply overtakenBackfill_kept
    exact h8
  · exact h

theorem rewriteHistory_kept (s : State) (h : Kept s0 s) :
    Kept s0 (rewriteHistory s) := by
  unfold rewriteHistory
  split
  · exact h
  · apply setStore_kept
    · rfl
    · exact h

theorem commitFrames_kept (n : Fin 4) (frames : Nat) (s : State) (h : Kept s0 s) :
    Kept s0 (commitFrames n frames s) := by
  unfold commitFrames
  extract_lets +onlyGivenNames y6
  have hy6 : Kept s0 y6 := by
    subst y6
    apply foldl_kept
    · intro x6 x7 h8
      apply commitFrame_kept
      exact h8
    · exact h
  clear_value y6
  extract_lets +onlyGivenNames y8
  have hy8 : Kept s0 y8 := by
    subst y8
    split
    · exact hy6
    · apply rewriteHistory_kept
      apply scrambleHistory_kept
      exact hy6
  clear_value y8
  apply publishInlet_kept
  apply advanceTails_kept
  apply overtaken_kept
  exact hy8

theorem doHistoryWriteCommit_kept (n : Fin 4) (frames : Nat) (s : State) (h : Kept s0 s) :
    Kept s0 (doHistoryWriteCommit n frames s) := by
  unfold doHistoryWriteCommit
  extract_lets +onlyGivenNames y6
  clear_value y6
  extract_lets +onlyGivenNames y7
  have hy7 : Kept s0 y7 := by
    subst y7
    split
    · exact h
    · apply storeAsk_kept
      exact h
  clear_value y7
  split
  · apply commitFrames_kept
    exact hy7
  · exact hy7

theorem faultInlet_kept (n : Fin 4) (cause lane : Nat) (s : State) (h : Kept s0 s) :
    Kept s0 (faultInlet n cause lane s) := by
  unfold faultInlet
  apply raise_kept
  apply setInlet_kept
  exact h

theorem loseFrom_kept (n : Fin 4) (kind : LaneErrorKind) (o : Nat) (s : State) (h : Kept s0 s) :
    Kept s0 (loseFrom n kind o s) := by
  unfold loseFrom
  extract_lets +onlyGivenNames y7
  clear_value y7
  extract_lets +onlyGivenNames y8
  clear_value y8
  extract_lets +onlyGivenNames y9
  clear_value y9
  extract_lets +onlyGivenNames y10
  clear_value y10
  extract_lets +onlyGivenNames y11
  clear_value y11
  extract_lets +onlyGivenNames y12
  have hy12 : Kept s0 y12 := by
    subst y12
    apply setInlet_kept
    exact h
  clear_value y12
  apply enterHole_kept
  exact hy12

theorem laneEvent_kept (n : Fin 4) (k : Fin 32) (lost : Bool) (s : State) (h : Kept s0 s) :
    Kept s0 (laneEvent n k lost s) := by
  unfold laneEvent
  extract_lets +onlyGivenNames y7
  clear_value y7
  extract_lets +onlyGivenNames y8
  clear_value y8
  split
  · exact h
  · apply raise_kept
    apply setLane_kept
    exact h

theorem doLaneError_kept (n : Fin 4) (k : Fin 32) (kind : LaneErrorKind) (octet : Nat) (s : State) (h : Kept s0 s) :
    Kept s0 (doLaneError n k kind octet s) := by
  unfold doLaneError
  extract_lets +onlyGivenNames y8
  clear_value y8
  split
  · exact h
  · extract_lets +onlyGivenNames y10
    clear_value y10
    extract_lets +onlyGivenNames y11
    have hy11 : Kept s0 y11 := by
      subst y11
      split
      · exact h
      · apply enterHole_kept
        exact h
    clear_value y11
    apply laneEvent_kept
    apply setLane_kept
    exact hy11

theorem unlockLink_kept (n : Fin 4) (k : Nat) (s : State) (h : Kept s0 s) :
    Kept s0 (unlockLink n k s) := by
  unfold unlockLink
  extract_lets +onlyGivenNames y6
  clear_value y6
  apply forL_kept
  · intro x7 x8 h9
    apply setLane_kept
    exact h9
  · exact h

theorem doLaneSyncLoss_kept (n : Fin 4) (k : Fin 32) (octet : Nat) (s : State) (h : Kept s0 s) :
    Kept s0 (doLaneSyncLoss n k octet s) := by
  unfold doLaneSyncLoss
  extract_lets +onlyGivenNames y7
  clear_value y7
  split
  · exact h
  · extract_lets +onlyGivenNames y9
    have hy9 : Kept s0 y9 := by
      subst y9
      apply laneEvent_kept
      apply setLane_kept
      exact h
    clear_value y9
    split
    · split
      · apply startFail_kept
        exact hy9
      · exact hy9
    · extract_lets +onlyGivenNames y12
      have hy12 : Kept s0 y12 := by
        subst y12
        apply loseFrom_kept
        exact hy9
      clear_value y12
      split
      · apply faultInlet_kept
        exact hy12
      · apply unlockLink_kept
        apply setInlet_kept
        exact hy12

theorem doLaneResync_kept (n : Fin 4) (k : Fin 32) (arrival : Nat) (s : State) (h : Kept s0 s) :
    Kept s0 (doLaneResync n k arrival s) := by
  unfold doLaneResync
  extract_lets +onlyGivenNames y7
  clear_value y7
  split
  · exact h
  · extract_lets +onlyGivenNames y9
    have hy9 : Kept s0 y9 := by
      subst y9
      apply setLane_kept
      exact h
    clear_value y9
    extract_lets +onlyGivenNames y11
    clear_value y11
    split
    · apply faultInlet_kept
      exact hy9
    · extract_lets +onlyGivenNames y13
      have hy13 : Kept s0 y13 := by
        subst y13
        apply setLane_kept
        exact hy9
      clear_value y13
      extract_lets +onlyGivenNames y15
      have hy15 : Kept s0 y15 := by
        subst y15
        apply raise_kept
        exact hy13
      clear_value y15
      extract_lets +onlyGivenNames y17
      clear_value y17
      extract_lets +onlyGivenNames y18
      clear_value y18
      extract_lets +onlyGivenNames y19
      have hy19 : Kept s0 y19 := by
        subst y19
        split
        · apply setInlet_kept
          exact hy15
        · exact hy15
      clear_value y19
      split
      · apply setInlet_kept
        exact hy19
      · exact hy19

theorem doLaneErrorWindow_kept (s : State) (h : Kept s0 s) :
    Kept s0 (doLaneErrorWindow s) := by
  unfold doLaneErrorWindow
  extract_lets +onlyGivenNames y4
  have hy4 : Kept s0 y4 := by
    subst y4
    apply waitTick_kept
    exact h
  clear_value y4
  exact kept_with hy4

theorem inletUnlocked_kept (n : Fin 4) (s : State) (h : Kept s0 s) :
    Kept s0 (inletUnlocked n s) := by
  unfold inletUnlocked
  extract_lets +onlyGivenNames y5
  clear_value y5
  split
  · exact h
  · apply enterHole_kept
    apply setInlet_kept
    exact h

theorem forceTasks_kept (n : Fin 4) (tick : Nat) (s : State) (h : Kept s0 s) :
    Kept s0 (forceTasks n tick s) := by
  unfold forceTasks
  exact kept_with h

theorem doInletStop_kept (c : Cmd) (s : State) (h : Kept s0 s) :
    Kept s0 (doInletStop c s) := by
  unfold doInletStop
  split
  · apply checked_kept
    · intro x9 h10
      apply id_kept
      exact h10
    · exact h
  · extract_lets +onlyGivenNames y10
    clear_value y10
    extract_lets +onlyGivenNames y11
    clear_value y11
    apply checked_kept
    · intro x12 h13
      split
      · extract_lets +onlyGivenNames y15
        have hy15 : Kept s0 y15 := by
          subst y15
          apply dropStart_kept
          exact h13
        clear_value y15
        extract_lets +onlyGivenNames y17
        have hy17 : Kept s0 y17 := by
          subst y17
          split
          · split
            · apply complete_kept
              exact hy15
            · exact hy15
          · exact hy15
        clear_value y17
        apply done_kept
        exact hy17
      · extract_lets +onlyGivenNames y15
        clear_value y15
        extract_lets +onlyGivenNames y16
        have hy16 : Kept s0 y16 := by
          subst y16
          apply setInlet_kept
          exact h13
        clear_value y16
        apply wait_kept
        split
        · apply forceTasks_kept
          exact hy16
        · exact hy16
    · exact h

theorem doInletStopTick_kept (n : Fin 4) (s : State) (h : Kept s0 s) :
    Kept s0 (doInletStopTick n s) := by
  unfold doInletStopTick
  split
  · exact h
  · split
    · exact h
    · extract_lets +onlyGivenNames y11
      have hy11 : Kept s0 y11 := by
        subst y11
        apply waitTick_kept
        exact h
      clear_value y11
      extract_lets +onlyGivenNames y13
      have hy13 : Kept s0 y13 := by
        subst y13
        apply setInlet_kept
        exact hy11
      clear_value y13
      extract_lets +onlyGivenNames y15
      have hy15 : Kept s0 y15 := by
        subst y15
        apply commitFrames_kept
        exact hy13
      clear_value y15
      extract_lets +onlyGivenNames y17
      clear_value y17
      extract_lets +onlyGivenNames y18
      have hy18 : Kept s0 y18 := by
        subst y18
        apply detachInlet_kept
        apply setInlet_kept
        exact hy15
      clear_value y18
      extract_lets +onlyGivenNames y20
      have hy20 : Kept s0 y20 := by
        subst y20
        apply disarmInlet_kept
        exact hy18
      clear_value y20
      extract_lets +onlyGivenNames y22
      have hy22 : Kept s0 y22 := by
        subst y22
        apply forL_kept
        · intro x22 x23 h24
          split
          · split
            · apply beginClose_kept
              exact h24
            · exact h24
          · split
            · apply beginClose_kept
              exact h24
            · exact h24
        · exact hy20
      clear_value y22
      extract_lets +onlyGivenNames y24
      have hy24 : Kept s0 y24 := by
        subst y24
        apply forL_kept
        · intro x24 x25 h26
          apply publishTask_kept
          exact h26
        · exact hy22
      clear_value y24
      extract_lets +onlyGivenNames y26
      have hy26 : Kept s0 y26 := by
        subst y26
        split
        · apply forL_kept
          · intro x27 x28 h29
            apply endXcorr_kept
            exact h29
          · exact hy24
        · exact hy18
      clear_value y26
      extract_lets +onlyGivenNames y28
      have hy28 : Kept s0 y28 := by
        subst y28
        apply setSynth_kept
        apply releaseAll_kept
        exact hy26
      clear_value y28
      extract_lets +onlyGivenNames y30
      have hy30 : Kept s0 y30 := by
        subst y30
        apply raiseAt_kept
        exact hy28
      clear_value y30
      split
      · apply done_kept
        exact hy30
      · exact hy30

theorem doInletStatus_kept (c : Cmd) (s : State) (h : Kept s0 s) :
    Kept s0 (doInletStatus c s) := by
  unfold doInletStatus
  split
  · apply checked_kept
    · intro x9 h10
      apply id_kept
      exact h10
    · exact h
  · apply checked_kept
    · intro x10 h11
      extract_lets +onlyGivenNames y12
      clear_value y12
      apply done_kept
      apply writeBlock_kept
      exact h11
    · exact h

end Sys2Proof.Laws
end

