-- ==== Sys2Proof/Laws/KeptBoot.lean ====
section
/-! SUPPORT. The operations of Machine/Boot.lean keep what every command keeps. -/

namespace Sys2Proof.Laws

set_option Elab.async false

open Sys2Proof.Machine

variable {s0 : State}

theorem doPerst_kept (s : State) (h : Kept s0 s) :
    Kept s0 (doPerst s) := by
  unfold doPerst
  split
  · exact h
  · split
    · apply hostReset_kept
      exact h
    · apply fullReset_kept
      exact h

theorem doThermtrip_kept (s : State) (h : Kept s0 s) :
    Kept s0 (doThermtrip s) := by
  unfold doThermtrip
  extract_lets +onlyGivenNames y4
  have hy4 : Kept s0 y4 := by
    subst y4
    apply cleared_kept
    exact h
  clear_value y4
  exact kept_of hy4 rfl rfl rfl rfl rfl

theorem doDelayedReset_kept (s : State) (h : Kept s0 s) :
    Kept s0 (doDelayedReset s) := by
  unfold doDelayedReset
  split
  · exact h
  · extract_lets +onlyGivenNames y10
    clear_value y10
    extract_lets +onlyGivenNames y11
    have hy11 : Kept s0 y11 := by
      subst y11
      apply waitUp_kept
      exact kept_with h
    clear_value y11
    split
    · apply fullReset_kept
      exact hy11
    · apply disableQueues_kept
      exact hy11

theorem failDomain_kept (d cause disagree implausible : Nat) (s : State) (h : Kept s0 s) :
    Kept s0 (failDomain d cause disagree implausible s) := by
  unfold failDomain
  extract_lets +onlyGivenNames y8
  have hy8 : Kept s0 y8 := by
    subst y8
    apply setLife_kept
    exact h
  clear_value y8
  apply raise_kept
  exact kept_of hy8 rfl rfl rfl rfl rfl

theorem doCrystalTimeout_kept (s : State) (h : Kept s0 s) :
    Kept s0 (doCrystalTimeout s) := by
  unfold doCrystalTimeout
  split
  · exact h
  · extract_lets +onlyGivenNames y5
    have hy5 : Kept s0 y5 := by
      subst y5
      apply setClk_kept
      · rfl
      · exact h
    clear_value y5
    extract_lets +onlyGivenNames y7
    have hy7 : Kept s0 y7 := by
      subst y7
      apply forL_kept
      · intro x7 x8 h9
        apply failDomain_kept
        exact h9
      · exact hy5
    clear_value y7
    exact kept_of hy7 rfl rfl rfl rfl rfl

theorem storeFilled_kept (rate : Nat) (s : State) (h : Kept s0 s) : Kept s0 (storeFilled rate s) :=
  ⟨h.regs, h.host, fun _ => rfl, h.flash, h.tick, h.pending, h.fuses, h.trims⟩

theorem storeUntrained_kept (s : State) (h : Kept s0 s) : Kept s0 (storeUntrained s) :=
  ⟨h.regs, h.host, fun _ => rfl, h.flash, h.tick, h.pending, h.fuses, h.trims⟩

theorem trainStore_kept (rate : Nat) (s : State) (h : Kept s0 s) :
    Kept s0 (trainStore rate s) := by
  unfold trainStore
  extract_lets +onlyGivenNames y5
  clear_value y5
  split
  · extract_lets +onlyGivenNames y7
    have hy7 : Kept s0 y7 := by
      subst y7
      apply raise_kept
      apply setSynth_kept
      apply startSynth_kept
      exact h
    clear_value y7
    extract_lets +onlyGivenNames y9
    have hy9 : Kept s0 y9 := by
      subst y9
      apply storeFilled_kept
      exact hy7
    clear_value y9
    extract_lets +onlyGivenNames y11
    have hy11 : Kept s0 y11 := by
      subst y11
      split
      · apply raise_kept
        exact hy9
      · exact hy9
    clear_value y11
    apply raise_kept
    apply divideHistory_kept
    exact hy11
  · apply raise_kept
    apply setStore_kept
    · rfl
    · exact h

theorem commitEffect_kept (d rate : Nat) (s : State) (h : Kept s0 s) :
    Kept s0 (commitEffect d rate s) := by
  unfold commitEffect
  split
  · apply startSynth_kept
    exact h
  · split
    · apply brzLeaveCal_kept
      exact h
    · split
      · apply trainStore_kept
        exact h
      · split
        · extract_lets +onlyGivenNames y10
          have hy10 : Kept s0 y10 := by
            subst y10
            split
            · apply timingApply_kept
              exact h
            · exact h
          clear_value y10
          extract_lets +onlyGivenNames y12
          have hy12 : Kept s0 y12 := by
            subst y12
            split
            · apply startScan_kept
              exact hy10
            · exact hy10
          clear_value y12
          split
          · apply auxGo_kept
            exact hy12
          · exact hy12
        · exact h

theorem writeRecord_kept (s : State) (h : Kept s0 s) :
    Kept s0 (writeRecord s) := by
  unfold writeRecord
  extract_lets +onlyGivenNames y4
  clear_value y4
  extract_lets +onlyGivenNames y5
  clear_value y5
  extract_lets +onlyGivenNames y6
  clear_value y6
  extract_lets +onlyGivenNames y7
  clear_value y7
  extract_lets +onlyGivenNames y8
  clear_value y8
  extract_lets +onlyGivenNames y9
  clear_value y9
  split
  · exact h
  · extract_lets +onlyGivenNames y11
    clear_value y11
    extract_lets +onlyGivenNames y12
    have hy12 : Kept s0 y12 := by
      subst y12
      apply program_kept
      apply erase_kept
      exact h
    clear_value y12
    apply raise_kept
    exact kept_of hy12 rfl rfl rfl rfl rfl

theorem calibrationEnds_kept (s : State) (h : Kept s0 s) :
    Kept s0 (calibrationEnds s) := by
  unfold calibrationEnds
  extract_lets +onlyGivenNames y4
  clear_value y4
  apply writeRecord_kept
  exact kept_of h rfl rfl rfl rfl rfl

theorem doCalDomain_kept (run1 run2 : List (Option (BitVec 8))) (rate : Nat) (s : State) (h : Kept s0 s) :
    Kept s0 (doCalDomain run1 run2 rate s) := by
  unfold doCalDomain
  split
  · exact h
  · split
    · exact h
    · extract_lets +onlyGivenNames y14
      clear_value y14
      extract_lets +onlyGivenNames y15
      clear_value y15
      extract_lets +onlyGivenNames y16
      clear_value y16
      extract_lets +onlyGivenNames y17
      clear_value y17
      extract_lets +onlyGivenNames y18
      clear_value y18
      extract_lets +onlyGivenNames y19
      have hy19 : Kept s0 y19 := by
        subst y19
        apply setPower_kept
        exact h
      clear_value y19
      extract_lets +onlyGivenNames y21
      clear_value y21
      extract_lets +onlyGivenNames y22
      extract_lets +onlyGivenNames y23
      have hy23 : Kept s0 y23 := by
        subst y23
        apply commitEffect_kept
        exact kept_of hy19 rfl rfl rfl rfl rfl
      clear_value y23
      extract_lets +onlyGivenNames y25
      clear_value y25
      extract_lets +onlyGivenNames y26
      clear_value y26
      extract_lets +onlyGivenNames y27
      clear_value y27
      extract_lets +onlyGivenNames y28
      clear_value y28
      extract_lets +onlyGivenNames y29
      extract_lets +onlyGivenNames y30
      have hy30 : Kept s0 y30 := by
        subst y30
        split
        · exact kept_of hy23 rfl rfl rfl rfl rfl
        · apply failDomain_kept
          exact hy23
      clear_value y30
      split
      · apply calibrationEnds_kept
        exact hy30
      · exact hy30

theorem doSectionVerified_kept (checks : CryptoChecks) (body : Data) (turned : List (Fin 20 × Nat × Nat)) (s : State) (h : Kept s0 s) :
    Kept s0 (doSectionVerified checks body turned s) := by
  unfold doSectionVerified
  split
  · exact h
  · split
    · extract_lets +onlyGivenNames y12
      extract_lets +onlyGivenNames y13
      have hy13 : Kept s0 y13 := by
        subst y13
        apply loadPatch_kept
        exact kept_of h rfl rfl rfl rfl rfl
      clear_value y13
      exact kept_of hy13 rfl rfl rfl rfl rfl
    · extract_lets +onlyGivenNames y13
      clear_value y13
      split
      · apply bootFailed_kept
        exact h
      · extract_lets +onlyGivenNames y15
        extract_lets +onlyGivenNames y16
        have hy16 : Kept s0 y16 := by
          subst y16
          apply runSlot_kept
          exact kept_of h rfl rfl rfl rfl rfl
        clear_value y16
        apply storeUntrained_kept
        exact kept_of hy16 rfl rfl rfl rfl rfl

theorem firmwareUp_kept (s : State) (h : Kept s0 s) :
    Kept s0 (firmwareUp s) := by
  unfold firmwareUp
  exact kept_of h rfl rfl rfl rfl rfl

theorem blowRollback_kept (s : State) (h : Kept s0 s) : Kept s0 (blowRollback s) := by
  unfold blowRollback
  split
  · exact h
  · apply raise_kept
    exact ⟨h.regs, h.host, h.store, h.flash, h.tick, h.pending,
      FusesGrow_trans h.fuses ⟨rfl, rfl, id, by simp only [setBoot]; omega, Nat.le_refl _, rfl, rfl⟩, h.trims⟩

theorem mailboxOpens_kept (s : State) (h : Kept s0 s) :
    Kept s0 (mailboxOpens s) := by
  unfold mailboxOpens
  apply raise_kept
  exact h

theorem doMailboxReady_kept (s : State) (h : Kept s0 s) :
    Kept s0 (doMailboxReady s) := by
  unfold doMailboxReady
  split
  · extract_lets +onlyGivenNames y5
    have hy5 : Kept s0 y5 := by
      subst y5
      apply firmwareUp_kept
      exact h
    clear_value y5
    extract_lets +onlyGivenNames y7
    have hy7 : Kept s0 y7 := by
      subst y7
      apply mailboxOpens_kept
      apply raise_kept
      exact hy5
    clear_value y7
    extract_lets +onlyGivenNames y9
    have hy9 : Kept s0 y9 := by
      subst y9
      apply raise_kept
      exact hy7
    clear_value y9
    extract_lets +onlyGivenNames y11
    have hy11 : Kept s0 y11 := by
      subst y11
      split
      · apply raise_kept
        exact hy9
      · exact hy9
    clear_value y11
    extract_lets +onlyGivenNames y13
    have hy13 : Kept s0 y13 := by
      subst y13
      split
      · apply raise_kept
        exact hy11
      · exact hy11
    clear_value y13
    extract_lets +onlyGivenNames y15
    have hy15 : Kept s0 y15 := by
      subst y15
      split
      · apply raise_kept
        exact hy13
      · exact hy13
    clear_value y15
    extract_lets +onlyGivenNames y17
    have hy17 : Kept s0 y17 := by
      subst y17
      split
      · apply raise_kept
        exact hy15
      · exact hy15
    clear_value y17
    apply blowRollback_kept
    exact kept_with hy17
  · split
    · apply mailboxOpens_kept
      exact kept_with h
    · exact h

theorem doRegulatorPoll_kept (status : Option U16) (s : State) (h : Kept s0 s) :
    Kept s0 (doRegulatorPoll status s) := by
  unfold doRegulatorPoll
  split
  · exact h
  · split
    · split
      · exact h
      · apply setBoot_kept
        · rfl
        · rfl
        · exact h
    · extract_lets +onlyGivenNames y8
      have hy8 : Kept s0 y8 := by
        subst y8
        apply waitUp_kept
        exact h
      clear_value y8
      extract_lets +onlyGivenNames y10
      have hy10 : Kept s0 y10 := by
        subst y10
        apply setBoot_kept
        · rfl
        · rfl
        · exact hy8
      clear_value y10
      split
      · exact hy10
      · apply raise_kept
        exact hy10

theorem haltInlet_kept (n : Fin 4) (s : State) (h : Kept s0 s) :
    Kept s0 (haltInlet n s) := by
  unfold haltInlet
  extract_lets +onlyGivenNames y5
  clear_value y5
  extract_lets +onlyGivenNames y6
  clear_value y6
  extract_lets +onlyGivenNames y7
  have hy7 : Kept s0 y7 := by
    subst y7
    apply setInlet_kept
    exact h
  clear_value y7
  extract_lets +onlyGivenNames y9
  have hy9 : Kept s0 y9 := by
    subst y9
    apply commitFrames_kept
    exact hy7
  clear_value y9
  extract_lets +onlyGivenNames y11
  have hy11 : Kept s0 y11 := by
    subst y11
    split
    · apply raiseAt_kept
      exact hy9
    · exact h
  clear_value y11
  apply setSynth_kept
  apply setInlet_kept
  exact hy11

theorem discardObjects_kept (s : State) (h : Kept s0 s) :
    Kept s0 (discardObjects s) := by
  unfold discardObjects
  extract_lets +onlyGivenNames y4
  clear_value y4
  extract_lets +onlyGivenNames y5
  have hy5 : Kept s0 y5 := by
    subst y5
    exact kept_with h
  clear_value y5
  extract_lets +onlyGivenNames y7
  have hy7 : Kept s0 y7 := by
    subst y7
    apply forL_kept
    · intro x7 x8 h9
      apply haltInlet_kept
      exact h9
    · exact hy5
  clear_value y7
  extract_lets +onlyGivenNames y9
  have hy9 : Kept s0 y9 := by
    subst y9
    apply abortAll_kept
    exact hy7
  clear_value y9
  extract_lets +onlyGivenNames y11
  have hy11 : Kept s0 y11 := by
    subst y11
    apply withdrawRef_kept
    apply disableQueues_kept
    exact hy9
  clear_value y11
  exact kept_of hy11 rfl rfl rfl rfl rfl

theorem restartProcessor_kept (s : State) (h : Kept s0 s) :
    Kept s0 (restartProcessor s) := by
  unfold restartProcessor
  exact kept_of h rfl rfl rfl rfl rfl

theorem doWatchdogExpiry_kept (s : State) (h : Kept s0 s) :
    Kept s0 (doWatchdogExpiry s) := by
  unfold doWatchdogExpiry
  split
  · exact h
  · split
    · apply fullReset_kept
      apply waitUp_kept
      exact h
    · split
      · exact h
      · apply discardObjects_kept
        apply restartProcessor_kept
        apply waitUp_kept
        exact h

theorem doWatchdogReady_kept (s : State) (h : Kept s0 s) :
    Kept s0 (doWatchdogReady s) := by
  unfold doWatchdogReady
  split
  · exact h
  · extract_lets +onlyGivenNames y5
    clear_value y5
    extract_lets +onlyGivenNames y6
    have hy6 : Kept s0 y6 := by
      subst y6
      apply raise_kept
      apply firmwareUp_kept
      exact h
    clear_value y6
    apply settleLull_kept
    apply mailboxOpens_kept
    exact hy6

theorem doHeartbeat_kept (s : State) (h : Kept s0 s) :
    Kept s0 (doHeartbeat s) := by
  unfold doHeartbeat
  split
  · exact h
  · extract_lets +onlyGivenNames y5
    have hy5 : Kept s0 y5 := by
      subst y5
      apply waitUp_kept
      exact h
    extract_lets +onlyGivenNames y7
    have hy7 : Kept s0 y7 := by
      subst y7
      apply State_countWrap_kept
      exact hy5
    extract_lets +onlyGivenNames y9
    clear_value y9
    extract_lets +onlyGivenNames y10
    have hy10 : Kept s0 y10 := by
      subst y10
      exact kept_with hy7
    split
    · exact hy10
    · exact kept_with hy10

end Sys2Proof.Laws
end

