-- ==== Sys2Proof/Laws/KeptLinkFlow.lean ====
section
/-! SUPPORT. The operations of Machine/LinkFlow.lean keep what every command keeps. -/

namespace Sys2Proof.Laws

set_option Elab.async false

open Sys2Proof.Machine

variable {s0 : State}

theorem setEntries_kept (n : Fin 4) (l : List (Nat × Nat × Nat)) (s : State) (h : Kept s0 s) :
    Kept s0 (setEntries n l s) := by
  unfold setEntries
  extract_lets +onlyGivenNames y6
  have hy6 : Kept s0 y6 := by
    subst y6
    apply setPort_kept
    exact h
  clear_value y6
  split
  · apply raise_kept
    exact hy6
  · exact hy6

theorem addEntries_kept (n : Fin 4) (ranges : List (Nat × Nat)) (heal : Nat) (s : State) (h : Kept s0 s) :
    Kept s0 (addEntries n ranges heal s) := by
  unfold addEntries
  extract_lets +onlyGivenNames y7
  clear_value y7
  extract_lets +onlyGivenNames y8
  have hy8 : Kept s0 y8 := by
    subst y8
    exact kept_with h
  clear_value y8
  apply setEntries_kept
  exact hy8

theorem addDid_kept (n : Fin 4) (x : Nat) (s : State) (h : Kept s0 s) :
    Kept s0 (addDid n x s) := by
  unfold addDid
  extract_lets +onlyGivenNames y6
  clear_value y6
  split
  · exact h
  · split
    · apply setPort_kept
      exact h
    · apply addEntries_kept
      exact h

theorem requestFailed_kept (did status : Nat) (s : State) (h : Kept s0 s) :
    Kept s0 (requestFailed did status s) := by
  unfold requestFailed
  apply raise_kept
  exact h

theorem remoteHalt_kept (n : Fin 32) (d : DmaDesc) (cause at_ : Nat) (s : State) (h : Kept s0 s) :
    Kept s0 (remoteHalt n d cause at_ s) := by
  unfold remoteHalt
  apply dmaHalt_kept
  apply writeMaybe_kept
  apply dropDraughtRequests_kept
  exact h

theorem draughtReply_kept (r : LinkRequest) (status : Nat) (payload : Data) (s : State) (h : Kept s0 s) :
    Kept s0 (draughtReply r status payload s) := by
  unfold draughtReply
  split
  · exact h
  · split
    · exact h
    · extract_lets +onlyGivenNames y17
      clear_value y17
      split
      · split
        · apply setChan_kept
          exact h
        · exact h
      · split
        · apply remoteHalt_kept
          exact h
        · split
          · extract_lets +onlyGivenNames y21
            have hy21 : Kept s0 y21.2 := by
              subst y21
              apply freeBytes_kept
              apply dropDraughtRequests_kept
              exact h
            clear_value y21
            apply endBad_kept
            apply putTransfer_kept
            exact hy21
          · apply remoteHalt_kept
            exact h

theorem tileReply_kept (n status cause : Nat) (s : State) (h : Kept s0 s) :
    Kept s0 (tileReply n status cause s) := by
  unfold tileReply
  extract_lets +onlyGivenNames y7
  clear_value y7
  exact kept_with h

theorem endRequest_kept (r : LinkRequest) (status cause : Nat) (payload : Data) (s : State) (h : Kept s0 s) :
    Kept s0 (endRequest r status cause payload s) := by
  unfold endRequest
  extract_lets +onlyGivenNames y8
  clear_value y8
  extract_lets +onlyGivenNames y9
  have hy9 : Kept s0 y9 := by
    subst y9
    exact kept_with h
  clear_value y9
  extract_lets +onlyGivenNames y11
  have hy11 : Kept s0 y11 := by
    subst y11
    split
    · exact hy9
    · apply requestFailed_kept
      exact hy9
  clear_value y11
  split
  · apply tileReply_kept
    exact hy11
  · apply draughtReply_kept
    exact hy11

theorem resendRecords_kept (n : Fin 16) (s : State) (h : Kept s0 s) :
    Kept s0 (resendRecords n s) := by
  unfold resendRecords
  apply forL_kept
  · intro x5 x6 h7
    apply sendRecord_kept
    exact h7
  · exact h

theorem settleStream_kept (n : Fin 16) (s : State) (h : Kept s0 s) :
    Kept s0 (settleStream n s) := by
  unfold settleStream
  extract_lets +onlyGivenNames y5
  clear_value y5
  split
  · exact h
  · split
    · apply setPause_kept
      apply setStream_kept
      exact h
    · apply resendRecords_kept
      apply setPause_kept
      apply setStream_kept
      exact h
    · exact h

theorem sendCutNotice_kept (did tc : Nat) (s : State) (h : Kept s0 s) :
    Kept s0 (sendCutNotice did tc s) := by
  unfold sendCutNotice
  apply forL_kept
  · intro x6 x7 h8
    apply send_kept
    exact h8
  · exact h

theorem settleRoutes_kept (s : State) (h : Kept s0 s) :
    Kept s0 (settleRoutes s) := by
  unfold settleRoutes
  extract_lets +onlyGivenNames y4
  extract_lets +onlyGivenNames y5
  have hy5 : Kept s0 y5 := by
    subst y5
    apply forL_kept
    · intro x5 x6 h7
      apply endRequest_kept
      exact h7
    · exact h
  clear_value y5
  extract_lets +onlyGivenNames y7
  clear_value y7
  extract_lets +onlyGivenNames y8
  clear_value y8
  extract_lets +onlyGivenNames y9
  have hy9 : Kept s0 y9 := by
    subst y9
    exact kept_with hy5
  clear_value y9
  extract_lets +onlyGivenNames y11
  have hy11 : Kept s0 y11 := by
    subst y11
    apply forL_kept
    · intro x11 x12 h13
      apply settleStream_kept
      exact h13
    · exact hy9
  clear_value y11
  extract_lets +onlyGivenNames y13
  clear_value y13
  extract_lets +onlyGivenNames y14
  have hy14 : Kept s0 y14 := by
    subst y14
    exact kept_with hy11
  clear_value y14
  extract_lets +onlyGivenNames y16
  clear_value y16
  extract_lets +onlyGivenNames y17
  have hy17 : Kept s0 y17 := by
    subst y17
    apply forL_kept
    · intro x17 x18 h19
      apply markPartial_kept
      exact h19
    · exact hy14
  clear_value y17
  extract_lets +onlyGivenNames y19
  clear_value y19
  extract_lets +onlyGivenNames y20
  have hy20 : Kept s0 y20 := by
    subst y20
    apply forL_kept
    · intro x20 x21 h22
      apply sendCutNotice_kept
      exact h22
    · apply forL_kept
      · intro x20 x21 h22
        apply cancelShares_kept
        exact h22
      · exact hy17
  clear_value y20
  exact kept_with hy20

theorem rehomeOn_kept (id : Nat) (main fine : List (Nat × Nat)) (cause : Nat) (s : State) (h : Kept s0 s) :
    Kept s0 (rehomeOn id main fine cause s) := by
  unfold rehomeOn
  split
  · exact h
  · extract_lets +onlyGivenNames y13
    clear_value y13
    extract_lets +onlyGivenNames y14
    clear_value y14
    extract_lets +onlyGivenNames y15
    have hy15 : Kept s0 y15 := by
      subst y15
      apply setTask_kept
      exact h
    clear_value y15
    extract_lets +onlyGivenNames y17
    clear_value y17
    extract_lets +onlyGivenNames y18
    clear_value y18
    extract_lets +onlyGivenNames y19
    have hy19 : Kept s0 y19 := by
      subst y19
      apply replaceShare_kept
      exact hy15
    clear_value y19
    split
    · apply replaceShare_kept
      exact hy19
    · exact hy19

theorem rehome_kept (id : Nat) (s : State) (h : Kept s0 s) :
    Kept s0 (rehome id s) := by
  unfold rehome
  split
  · exact h
  · split
    · exact h
    · extract_lets +onlyGivenNames y11
      clear_value y11
      extract_lets +onlyGivenNames y12
      clear_value y12
      extract_lets +onlyGivenNames y13
      clear_value y13
      extract_lets +onlyGivenNames y14
      clear_value y14
      extract_lets +onlyGivenNames y15
      clear_value y15
      split
      · apply rehomeOn_kept
        exact h
      · extract_lets +onlyGivenNames y17
        clear_value y17
        extract_lets +onlyGivenNames y18
        clear_value y18
        extract_lets +onlyGivenNames y19
        have hy19 : ∀  s, Kept s0 s → Kept s0 (y19  s) := by
          subst y19
          intro x19 h20
          beta_reduce
          apply splitTileGrants_kept
          apply rehomeOn_kept
          exact h20
        clear_value y19
        split
        · apply hy19
          exact h
        · split
          · exact h
          · extract_lets +onlyGivenNames y23
            have hy23 : Kept s0 y23.2 := by
              subst y23
              apply requestInternal_kept
              exact h
            clear_value y23
            split
            · apply hy19
              exact hy23
            · exact hy23
            · apply rehomeOn_kept
              exact hy23

theorem endFlow_kept (f : Flow) (s : State) (h : Kept s0 s) :
    Kept s0 (endFlow f s) := by
  unfold endFlow
  split
  · exact h
  · split
    · apply forL_kept
      · intro x14 x15 h16
        apply dropForeign_kept
        exact h16
      · exact h
    · split
      · extract_lets +onlyGivenNames y16
        clear_value y16
        extract_lets +onlyGivenNames y17
        have hy17 : Kept s0 y17 := by
          subst y17
          exact kept_with h
        clear_value y17
        apply rehome_kept
        apply releasePlacement_kept
        exact hy17
      · apply abortMigration_kept
        exact h
  · exact kept_with h

theorem endUnfit_kept (n : Fin 4) (s : State) (h : Kept s0 s) :
    Kept s0 (endUnfit n s) := by
  unfold endUnfit
  extract_lets +onlyGivenNames y5
  clear_value y5
  extract_lets +onlyGivenNames y6
  clear_value y6
  apply forL_kept
  · intro x7 x8 h9
    apply endFlow_kept
    exact h9
  · exact h

theorem sendUp_kept (p : Packet) (s : State) (h : Kept s0 s) :
    Kept s0 (sendUp p s) := by
  unfold sendUp
  split
  · split
    · apply sendOn_kept
      exact h
    · exact h
  · exact h

theorem cutRanges_kept (ranges : List (Nat × Nat)) (s : State) (h : Kept s0 s) :
    Kept s0 (cutRanges ranges s) := by
  unfold cutRanges
  extract_lets +onlyGivenNames y5
  clear_value y5
  extract_lets +onlyGivenNames y6
  extract_lets +onlyGivenNames y7
  have hy7 : Kept s0 y7 := by
    subst y7
    exact kept_with h
  split
  · exact hy7
  · apply sendUp_kept
    exact hy7

theorem restoreRanges_kept (ranges : List (Nat × Nat)) (s : State) (h : Kept s0 s) :
    Kept s0 (restoreRanges ranges s) := by
  unfold restoreRanges
  extract_lets +onlyGivenNames y5
  clear_value y5
  extract_lets +onlyGivenNames y6
  clear_value y6
  extract_lets +onlyGivenNames y7
  clear_value y7
  extract_lets +onlyGivenNames y8
  have hy8 : Kept s0 y8 := by
    subst y8
    exact kept_with h
  clear_value y8
  split
  · apply forL_kept
    · intro x11 x12 h13
      apply raise_kept
      exact h13
    · exact hy8
  · exact hy8

theorem startHeal_kept (s : State) (h : Kept s0 s) :
    Kept s0 (startHeal s) := by
  unfold startHeal
  extract_lets +onlyGivenNames y4
  clear_value y4
  extract_lets +onlyGivenNames y5
  clear_value y5
  extract_lets +onlyGivenNames y6
  clear_value y6
  extract_lets +onlyGivenNames y7
  have hy7 : Kept s0 y7 := by
    subst y7
    exact kept_with h
  clear_value y7
  apply broadcast_kept
  exact hy7

theorem lostLink_kept (n : Fin 4) (s : State) (h : Kept s0 s) :
    Kept s0 (lostLink n s) := by
  unfold lostLink
  split
  · exact h
  · split
    · apply settleRoutes_kept
      apply startHeal_kept
      exact h
    · extract_lets +onlyGivenNames y7
      clear_value y7
      apply settleRoutes_kept
      apply cutRanges_kept
      apply setPort_kept
      exact h

theorem portDown_kept (n : Fin 4) (case_ : Nat) (s : State) (h : Kept s0 s) :
    Kept s0 (portDown n case_ s) := by
  unfold portDown
  extract_lets +onlyGivenNames y6
  clear_value y6
  split
  · exact h
  · extract_lets +onlyGivenNames y8
    have hy8 : Kept s0 y8 := by
      subst y8
      apply setPort_kept
      exact h
    clear_value y8
    extract_lets +onlyGivenNames y10
    have hy10 : Kept s0 y10 := by
      subst y10
      apply setSynth_kept
      apply releasePower_kept
      exact hy8
    clear_value y10
    extract_lets +onlyGivenNames y12
    have hy12 : Kept s0 y12 := by
      subst y12
      apply raise_kept
      exact hy10
    clear_value y12
    split
    · apply lostLink_kept
      exact hy12
    · exact hy12

end Sys2Proof.Laws
end

