-- ==== Sys2Proof/Laws/KeptLinks.lean ====
section
/-! SUPPORT. The operations of Machine/Links.lean keep what every command keeps. -/

namespace Sys2Proof.Laws

set_option Elab.async false

open Sys2Proof.Machine

variable {s0 : State}

theorem endPortResets_kept (n : Fin 4) (s : State) (h : Kept s0 s) :
    Kept s0 (endPortResets n s) := by
  unfold endPortResets
  apply forL_kept
  · intro x5 x6 h7
    apply done_kept
    exact h7
  · exact h

theorem trainFailed_kept (n : Fin 4) (s : State) (h : Kept s0 s) :
    Kept s0 (trainFailed n s) := by
  unfold trainFailed
  extract_lets +onlyGivenNames y5
  have hy5 : Kept s0 y5 := by
    subst y5
    apply setPort_kept
    exact h
  clear_value y5
  apply endPortResets_kept
  apply raise_kept
  apply setSynth_kept
  apply releasePower_kept
  exact hy5

theorem portBegin_kept (n : Fin 4) (s : State) (h : Kept s0 s) :
    Kept s0 (portBegin n s) := by
  unfold portBegin
  split
  · apply startSynth_kept
    exact h
  · exact h

theorem trainStart_kept (n : Fin 4) (s : State) (h : Kept s0 s) :
    Kept s0 (trainStart n s) := by
  unfold trainStart
  extract_lets +onlyGivenNames y5
  clear_value y5
  split
  · exact h
  · extract_lets +onlyGivenNames y7
    have hy7 : Kept s0 y7 := by
      subst y7
      apply setPort_kept
      exact h
    clear_value y7
    extract_lets +onlyGivenNames y9
    have hy9 : Kept s0 y9.2 := by
      subst y9
      apply requestInternal_kept
      exact hy7
    clear_value y9
    split
    · apply portBegin_kept
      exact hy9
    · exact hy9
    · apply trainFailed_kept
      exact hy9

theorem doTrainingStart_kept (n : Fin 4) (s : State) (h : Kept s0 s) :
    Kept s0 (doTrainingStart n s) := by
  unfold doTrainingStart
  split
  · exact h
  · apply trainStart_kept
    exact h

theorem doRetryTimer_kept (n : Fin 4) (s : State) (h : Kept s0 s) :
    Kept s0 (doRetryTimer n s) := by
  unfold doRetryTimer
  extract_lets +onlyGivenNames y5
  clear_value y5
  split
  · exact h
  · apply trainStart_kept
    apply waitUp_kept
    exact h

theorem noteDelay_kept (n : Fin 4) (delay : Nat) (s : State) (h : Kept s0 s) :
    Kept s0 (noteDelay n delay s) := by
  unfold noteDelay
  extract_lets +onlyGivenNames y6
  clear_value y6
  extract_lets +onlyGivenNames y7
  clear_value y7
  extract_lets +onlyGivenNames y8
  have hy8 : Kept s0 y8 := by
    subst y8
    apply setPort_kept
    exact h
  clear_value y8
  split
  · apply raise_kept
    exact hy8
  · exact hy8

theorem sendAssign_kept (d port x depth : Nat) (s : State) (h : Kept s0 s) :
    Kept s0 (sendAssign d port x depth s) := by
  unfold sendAssign
  split
  · apply sendOn_kept
    exact h
  · apply send_kept
    exact h

theorem takeDid_kept (did depth : Nat) (up : Option Nat) (rootDid : Nat) (rootSerial : U64) (no : U32) (isRoot : Bool) (s : State) (h : Kept s0 s) :
    Kept s0 (takeDid did depth up rootDid rootSerial no isRoot s) := by
  unfold takeDid
  extract_lets +onlyGivenNames y11
  clear_value y11
  extract_lets +onlyGivenNames y12
  clear_value y12
  extract_lets +onlyGivenNames y13
  have hy13 : Kept s0 y13 := by
    subst y13
    exact kept_with h
  clear_value y13
  apply raise_kept
  exact hy13

theorem enumEnd_kept (s : State) (h : Kept s0 s) :
    Kept s0 (enumEnd s) := by
  unfold enumEnd
  split
  · exact h
  · extract_lets +onlyGivenNames y9
    clear_value y9
    extract_lets +onlyGivenNames y10
    have hy10 : Kept s0 y10 := by
      subst y10
      exact kept_with h
    clear_value y10
    extract_lets +onlyGivenNames y12
    have hy12 : Kept s0 y12 := by
      subst y12
      apply raise_kept
      exact hy10
    clear_value y12
    split
    · split
      · apply done_kept
        exact hy12
      · exact hy12
    · exact hy12

theorem enumStack_kept (e : Enumeration) (st : List (Nat × Nat × Nat)) (s : State) (h : Kept s0 s) :
    Kept s0 (enumStack e st s) := by
  unfold enumStack
  exact kept_with h

theorem enumNext_kept (cnt : Nat) (s : State) (h : Kept s0 s) :
    Kept s0 (enumNext cnt s) := by
  induction cnt generalizing s with
  | zero => exact h
  | succ cnt ih =>
    unfold enumNext
    split
    · exact h
    · split
      · apply enumEnd_kept
        exact h
      · split
        · apply ih
          apply enumStack_kept
          exact h
        · extract_lets +onlyGivenNames y21
          have hy21 : Kept s0 y21 := by
            subst y21
            apply enumStack_kept
            exact h
          clear_value y21
          split
          · apply ih
            exact hy21
          · split
            · apply enumEnd_kept
              apply raise_kept
              exact hy21
            · apply sendAssign_kept
              exact hy21

theorem enumGo_kept (s : State) (h : Kept s0 s) :
    Kept s0 (enumGo s) := by
  unfold enumGo
  split
  · apply enumNext_kept
    exact h
  · exact h

theorem beginEnum_kept (base : Nat) (cmd : Option Nat) (s : State) (h : Kept s0 s) :
    Kept s0 (beginEnum base cmd s) := by
  unfold beginEnum
  extract_lets +onlyGivenNames y6
  clear_value y6
  extract_lets +onlyGivenNames y7
  clear_value y7
  extract_lets +onlyGivenNames y8
  have hy8 : Kept s0 y8 := by
    subst y8
    exact kept_with h
  clear_value y8
  extract_lets +onlyGivenNames y10
  have hy10 : Kept s0 y10 := by
    subst y10
    apply takeDid_kept
    exact hy8
  clear_value y10
  extract_lets +onlyGivenNames y12
  clear_value y12
  extract_lets +onlyGivenNames y13
  have hy13 : Kept s0 y13 := by
    subst y13
    exact kept_with hy10
  clear_value y13
  apply enumGo_kept
  exact hy13

theorem strapRoot_kept (s : State) (h : Kept s0 s) :
    Kept s0 (strapRoot s) := by
  unfold strapRoot
  split
  · apply beginEnum_kept
    exact h
  · exact h

theorem lateAssign_kept (serial : U64) (parent port : Nat) (s : State) (h : Kept s0 s) :
    Kept s0 (lateAssign serial parent port s) := by
  unfold lateAssign
  extract_lets +onlyGivenNames y7
  clear_value y7
  apply sendAssign_kept
  exact h

theorem reportNeighbour_kept (n : Fin 4) (s : State) (h : Kept s0 s) :
    Kept s0 (reportNeighbour n s) := by
  unfold reportNeighbour
  extract_lets +onlyGivenNames y5
  clear_value y5
  split
  · exact h
  · split
    · split
      · apply lateAssign_kept
        exact h
      · exact h
    · apply send_kept
      exact h

theorem doTrainingComplete_kept (n : Fin 4) (r : TrainResult) (s : State) (h : Kept s0 s) :
    Kept s0 (doTrainingComplete n r s) := by
  unfold doTrainingComplete
  extract_lets +onlyGivenNames y6
  clear_value y6
  split
  · exact h
  · split
    · apply trainFailed_kept
      exact h
    · split
      · apply trainFailed_kept
        exact h
      · extract_lets +onlyGivenNames y14
        have hy14 : Kept s0 y14 := by
          subst y14
          apply setPower_kept
          exact h
        clear_value y14
        extract_lets +onlyGivenNames y16
        have hy16 : Kept s0 y16 := by
          subst y16
          apply setSynth_kept
          exact hy14
        clear_value y16
        extract_lets +onlyGivenNames y18
        have hy18 : Kept s0 y18 := by
          subst y18
          apply setPort_kept
          exact hy16
        clear_value y18
        extract_lets +onlyGivenNames y20
        have hy20 : Kept s0 y20 := by
          subst y20
          apply noteDelay_kept
          exact hy18
        clear_value y20
        extract_lets +onlyGivenNames y22
        have hy22 : Kept s0 y22 := by
          subst y22
          split
          · apply raise_kept
            exact hy20
          · exact hy20
        clear_value y22
        extract_lets +onlyGivenNames y24
        have hy24 : Kept s0 y24 := by
          subst y24
          apply raise_kept
          exact hy22
        clear_value y24
        apply strapRoot_kept
        apply reportNeighbour_kept
        apply settleRoutes_kept
        apply endUnfit_kept
        apply endPortResets_kept
        exact hy24

theorem startRetrain_kept (n : Fin 4) (s : State) (h : Kept s0 s) :
    Kept s0 (startRetrain n s) := by
  unfold startRetrain
  extract_lets +onlyGivenNames y5
  clear_value y5
  split
  · exact h
  · split
    · split
      · apply portDown_kept
        exact h
      · apply setPort_kept
        exact h
    · split
      · apply portDown_kept
        exact h
      · apply setPort_kept
        exact h

theorem replayFlits_kept (n : Fin 4) (s : State) (h : Kept s0 s) :
    Kept s0 (replayFlits n s) := by
  unfold replayFlits
  extract_lets +onlyGivenNames y5
  clear_value y5
  split
  · exact h
  · split
    · apply startRetrain_kept
      exact h
    · extract_lets +onlyGivenNames y8
      have hy8 : Kept s0 y8 := by
        subst y8
        apply setPort_kept
        exact h
      clear_value y8
      apply raise_kept
      exact hy8

theorem doFlit_kept (n : Fin 4) (d : Data) (s : State) (h : Kept s0 s) :
    Kept s0 (doFlit n d s) := by
  unfold doFlit
  extract_lets +onlyGivenNames y6
  clear_value y6
  extract_lets +onlyGivenNames y7
  clear_value y7
  split
  · exact h
  · extract_lets +onlyGivenNames y9
    have hy9 : Kept s0 y9 := by
      subst y9
      split
      · apply setPort_kept
        exact h
      · apply setPort_kept
        exact h
    clear_value y9
    extract_lets +onlyGivenNames y11
    have hy11 : Kept s0 y11 := by
      subst y11
      split
      · apply setPort_kept
        exact hy9
      · exact hy9
    clear_value y11
    extract_lets +onlyGivenNames y13
    have hy13 : Kept s0 y13 := by
      subst y13
      split
      · apply replayFlits_kept
        exact hy11
      · exact hy11
    clear_value y13
    apply pumpPort_kept
    exact hy13

theorem doNak_kept (n : Fin 4) (ack : Nat) (s : State) (h : Kept s0 s) :
    Kept s0 (doNak n ack s) := by
  unfold doNak
  split
  · exact h
  · apply replayFlits_kept
    apply setPort_kept
    exact h

theorem doAckTimeout_kept (n : Fin 4) (s : State) (h : Kept s0 s) :
    Kept s0 (doAckTimeout n s) := by
  unfold doAckTimeout
  extract_lets +onlyGivenNames y5
  clear_value y5
  split
  · exact h
  · apply replayFlits_kept
    apply waitUp_kept
    exact h

theorem doRetrainDone_kept (n : Fin 4) (ok : Bool) (s : State) (h : Kept s0 s) :
    Kept s0 (doRetrainDone n ok s) := by
  unfold doRetrainDone
  extract_lets +onlyGivenNames y6
  clear_value y6
  split
  · exact h
  · extract_lets +onlyGivenNames y8
    clear_value y8
    split
    · apply pumpPort_kept
      apply setPort_kept
      exact h
    · apply portDown_kept
      apply waitUp_kept
      exact h

theorem doNoFlit_kept (n : Fin 4) (s : State) (h : Kept s0 s) :
    Kept s0 (doNoFlit n s) := by
  unfold doNoFlit
  extract_lets +onlyGivenNames y5
  clear_value y5
  split
  · exact h
  · apply portDown_kept
    apply waitUp_kept
    exact h

theorem doBlockLock_kept (n : Fin 4) (s : State) (h : Kept s0 s) :
    Kept s0 (doBlockLock n s) := by
  unfold doBlockLock
  split
  · exact h
  · apply portDown_kept
    exact h

theorem doHeartbeatSend_kept (n : Fin 4) (s : State) (h : Kept s0 s) :
    Kept s0 (doHeartbeatSend n s) := by
  unfold doHeartbeatSend
  extract_lets +onlyGivenNames y5
  clear_value y5
  split
  · exact h
  · extract_lets +onlyGivenNames y7
    have hy7 : Kept s0 y7 := by
      subst y7
      apply waitUp_kept
      exact h
    clear_value y7
    apply setPort_kept
    apply sendOn_kept
    exact hy7

theorem doHeartbeatMissing_kept (n : Fin 4) (s : State) (h : Kept s0 s) :
    Kept s0 (doHeartbeatMissing n s) := by
  unfold doHeartbeatMissing
  extract_lets +onlyGivenNames y5
  clear_value y5
  split
  · exact h
  · extract_lets +onlyGivenNames y7
    have hy7 : Kept s0 y7 := by
      subst y7
      apply portDown_kept
      apply waitUp_kept
      exact h
    clear_value y7
    apply setPort_kept
    exact hy7

theorem doLinkEnumerate_kept (c : Cmd) (s : State) (h : Kept s0 s) :
    Kept s0 (doLinkEnumerate c s) := by
  unfold doLinkEnumerate
  extract_lets +onlyGivenNames y5
  clear_value y5
  extract_lets +onlyGivenNames y6
  clear_value y6
  apply checked_kept
  · intro x7 h8
    split
    · apply done_kept
      exact h8
    · apply beginEnum_kept
      apply wait_kept
      exact h8
  · exact h

theorem linkOp_kept (c : Cmd) (used : List (Nat × Nat)) (more : List Check) (ok : Fin 4 → State → State) (s : State) (hok : ∀ a0 s, Kept s0 s → Kept s0 (ok a0 s)) (h : Kept s0 s) :
    Kept s0 (linkOp c used more ok s) := by
  unfold linkOp
  apply checked_kept
  · intro x9 h10
    apply hok
    exact h10
  · exact h

theorem doLinkStatusQuery_kept (c : Cmd) (s : State) (h : Kept s0 s) :
    Kept s0 (doLinkStatusQuery c s) := by
  unfold doLinkStatusQuery
  apply linkOp_kept
  · intro x5 x6 h7
    apply done_kept
    apply writeBlock_kept
    exact h7
  · exact h

theorem doLinkPortUp_kept (c : Cmd) (s : State) (h : Kept s0 s) :
    Kept s0 (doLinkPortUp c s) := by
  unfold doLinkPortUp
  apply linkOp_kept
  · intro x5 x6 h7
    extract_lets +onlyGivenNames y8
    have hy8 : Kept s0 y8 := by
      subst y8
      split
      · apply trainStart_kept
        apply setPort_kept
        exact h7
      · exact h7
    clear_value y8
    apply done_kept
    exact hy8
  · exact h

theorem doLinkPortDown_kept (c : Cmd) (s : State) (h : Kept s0 s) :
    Kept s0 (doLinkPortDown c s) := by
  unfold doLinkPortDown
  apply linkOp_kept
  · intro x5 x6 h7
    apply done_kept
    apply setPort_kept
    apply portDown_kept
    exact h7
  · exact h

theorem doLinkPortRetrain_kept (c : Cmd) (s : State) (h : Kept s0 s) :
    Kept s0 (doLinkPortRetrain c s) := by
  unfold doLinkPortRetrain
  apply linkOp_kept
  · intro x5 x6 h7
    apply done_kept
    apply startRetrain_kept
    exact h7
  · exact h

theorem doLinkRouteQuery_kept (c : Cmd) (s : State) (h : Kept s0 s) :
    Kept s0 (doLinkRouteQuery c s) := by
  unfold doLinkRouteQuery
  apply checked_kept
  · intro x5 h6
    extract_lets +onlyGivenNames y7
    have hy7 : Kept s0 y7 := by
      subst y7
      split
      · exact h6
      · apply writeBlock_kept
        exact h6
    clear_value y7
    apply done_kept
    exact hy7
  · exact h

theorem takeAssign_kept (n : Fin 4) (p : Packet) (s : State) (h : Kept s0 s) :
    Kept s0 (takeAssign n p s) := by
  unfold takeAssign
  extract_lets +onlyGivenNames y6
  have hy6 : Kept s0 y6 := by
    subst y6
    apply takeDid_kept
    exact h
  clear_value y6
  extract_lets +onlyGivenNames y8
  have hy8 : Kept s0 y8 := by
    subst y8
    apply setLoop_kept
    exact hy6
  clear_value y8
  extract_lets +onlyGivenNames y10
  have hy10 : Kept s0 y10 := by
    subst y10
    split
    · exact hy8
    · apply loopTo_kept
      exact hy8
  clear_value y10
  apply sendUp_kept
  exact hy10

theorem relayAssign_kept (p : Packet) (s : State) (h : Kept s0 s) :
    Kept s0 (relayAssign p s) := by
  unfold relayAssign
  extract_lets +onlyGivenNames y5
  split
  · apply send_kept
    exact h
  · apply sendOn_kept
    exact h

theorem doAssign_kept (n : Fin 4) (p : Packet) (s : State) (h : Kept s0 s) :
    Kept s0 (doAssign n p s) := by
  unfold doAssign
  split
  · exact h
  · split
    · apply relayAssign_kept
      exact h
    · split
      · split
        · exact h
        · extract_lets +onlyGivenNames y10
          clear_value y10
          extract_lets +onlyGivenNames y11
          clear_value y11
          extract_lets +onlyGivenNames y12
          have hy12 : Kept s0 y12 := by
            subst y12
            exact kept_with h
          clear_value y12
          extract_lets +onlyGivenNames y14
          have hy14 : Kept s0 y14 := by
            subst y14
            split
            · split
              · apply complete_kept
                exact hy12
              · exact hy12
            · exact hy12
          clear_value y14
          apply takeAssign_kept
          apply raise_kept
          exact hy14
      · split
        · split
          · exact h
          · apply setPort_kept
            apply sendOn_kept
            exact h
        · apply takeAssign_kept
          exact h

theorem noteDevice_kept (p : Packet) (s : State) (h : Kept s0 s) :
    Kept s0 (noteDevice p s) := by
  unfold noteDevice
  extract_lets +onlyGivenNames y5
  clear_value y5
  exact kept_with h

theorem doReport_kept (n : Fin 4) (p : Packet) (s : State) (h : Kept s0 s) :
    Kept s0 (doReport n p s) := by
  unfold doReport
  split
  · exact h
  · split
    · extract_lets +onlyGivenNames y8
      have hy8 : Kept s0 y8 := by
        subst y8
        apply restoreRanges_kept
        apply noteDevice_kept
        apply addDid_kept
        exact h
      clear_value y8
      extract_lets +onlyGivenNames y10
      have hy10 : Kept s0 y10 := by
        subst y10
        split
        · apply setPort_kept
          exact hy8
        · exact hy8
      clear_value y10
      extract_lets +onlyGivenNames y12
      clear_value y12
      split
      · extract_lets +onlyGivenNames y18
        clear_value y18
        apply enumGo_kept
        exact kept_with hy10
      · apply settleRoutes_kept
        exact hy10
    · apply lateAssign_kept
      exact h

theorem doEnumDone_kept (n : Fin 4) (p : Packet) (s : State) (h : Kept s0 s) :
    Kept s0 (doEnumDone n p s) := by
  unfold doEnumDone
  split
  · exact h
  · extract_lets +onlyGivenNames y7
    have hy7 : Kept s0 y7 := by
      subst y7
      split
      · apply setPort_kept
        exact h
      · exact h
    clear_value y7
    split
    · apply enumGo_kept
      exact hy7
    · split
      · apply send_kept
        exact hy7
      · exact hy7

end Sys2Proof.Laws
end

