-- ==== Sys2Proof/Laws/KeptClocks.lean ====
section
/-! SUPPORT. The operations of Machine/Clocks.lean keep what every command keeps. -/

namespace Sys2Proof.Laws

set_option Elab.async false

open Sys2Proof.Machine

variable {s0 : State}

theorem toHoldover_kept (k : Fin 11) (s : State) (h : Kept s0 s) :
    Kept s0 (toHoldover k s) := by
  unfold toHoldover
  split
  · exact h
  · extract_lets +onlyGivenNames y6
    have hy6 : Kept s0 y6 := by
      subst y6
      apply setSynth_kept
      exact h
    clear_value y6
    extract_lets +onlyGivenNames y8
    have hy8 : Kept s0 y8 := by
      subst y8
      split
      · apply inletUnlocked_kept
        exact hy6
      · exact hy6
    clear_value y8
    apply settleUncertain_kept
    apply raise_kept
    exact hy8

theorem doRefinLoss_kept (s : State) (h : Kept s0 s) :
    Kept s0 (doRefinLoss s) := by
  unfold doRefinLoss
  split
  · exact h
  · apply raise_kept
    apply setClk_kept
    · rfl
    · apply toHoldover_kept
      exact h

theorem doCrystalLoss_kept (s : State) (h : Kept s0 s) :
    Kept s0 (doCrystalLoss s) := by
  unfold doCrystalLoss
  split
  · exact h
  · apply raise_kept
    apply setClk_kept
    · rfl
    · apply toHoldover_kept
      exact h

theorem closeForClock_kept (n : Fin 16) (s : State) (h : Kept s0 s) :
    Kept s0 (closeForClock n s) := by
  unfold closeForClock
  extract_lets +onlyGivenNames y5
  clear_value y5
  split
  · exact h
  · split
    · split
      · apply beginClose_kept
        exact h
      · apply closeNow_kept
        exact h
    · split
      · apply beginClose_kept
        exact h
      · apply closeNow_kept
        exact h

theorem haltStore_kept (s : State) (h : Kept s0 s) :
    Kept s0 (haltStore s) := by
  unfold haltStore
  split
  · apply raise_kept
    apply setStore_kept
    · rfl
    · exact h
  · exact h

theorem idleScan_kept (s : State) (h : Kept s0 s) :
    Kept s0 (idleScan s) := by
  unfold idleScan
  split
  · apply setScn_kept
    exact h
  · exact h

theorem rootSafe_kept (s : State) (h : Kept s0 s) :
    Kept s0 (rootSafe s) := by
  unfold rootSafe
  extract_lets +onlyGivenNames y4
  have hy4 : Kept s0 y4 := by
    subst y4
    exact kept_with h
  clear_value y4
  extract_lets +onlyGivenNames y6
  have hy6 : Kept s0 y6 := by
    subst y6
    apply forL_kept
    · intro x6 x7 h8
      apply portDown_kept
      exact h8
    · exact hy4
  clear_value y6
  extract_lets +onlyGivenNames y8
  have hy8 : Kept s0 y8 := by
    subst y8
    apply forL_kept
    · intro x8 x9 h10
      apply closeForClock_kept
      exact h10
    · exact hy6
  clear_value y8
  extract_lets +onlyGivenNames y10
  have hy10 : Kept s0 y10 := by
    subst y10
    apply forL_kept
    · intro x10 x11 h12
      split
      · apply faultInlet_kept
        exact h12
      · exact h12
    · exact hy8
  clear_value y10
  apply settleUncertain_kept
  apply loopTo_kept
  apply idleScan_kept
  apply haltStore_kept
  exact hy10

theorem safeState_kept (k : Fin 11) (s : State) (h : Kept s0 s) :
    Kept s0 (safeState k s) := by
  unfold safeState
  split
  · apply rootSafe_kept
    exact h
  · split
    · apply haltStore_kept
      exact h
    · split
      · apply idleScan_kept
        exact h
      · split
        · extract_lets +onlyGivenNames y9
          split
          · apply faultInlet_kept
            exact h
          · exact h
        · extract_lets +onlyGivenNames y9
          clear_value y9
          apply portDown_kept
          exact h

theorem doDeparture_kept (k : Fin 11) (s : State) (h : Kept s0 s) :
    Kept s0 (doDeparture k s) := by
  unfold doDeparture
  split
  · exact h
  · extract_lets +onlyGivenNames y6
    have hy6 : Kept s0 y6 := by
      subst y6
      apply setSynth_kept
      exact h
    clear_value y6
    extract_lets +onlyGivenNames y8
    clear_value y8
    extract_lets +onlyGivenNames y9
    have hy9 : Kept s0 y9 := by
      subst y9
      exact kept_with hy6
    clear_value y9
    apply safeState_kept
    apply raise_kept
    exact hy9

theorem resumeStore_kept (s : State) (h : Kept s0 s) :
    Kept s0 (resumeStore s) := by
  unfold resumeStore
  split
  · exact h
  · extract_lets +onlyGivenNames y5
    clear_value y5
    extract_lets +onlyGivenNames y6
    clear_value y6
    extract_lets +onlyGivenNames y7
    have hy7 : Kept s0 y7 := by
      subst y7
      apply setStore_kept
      · rfl
      · exact h
    clear_value y7
    split
    · apply raise_kept
      exact hy7
    · exact hy7

theorem resumeShare_kept (n : Fin 20) (x : Share) (s : State) (h : Kept s0 s) :
    Kept s0 (resumeShare n x s) := by
  unfold resumeShare
  split
  · exact h
  · split
    · exact h
    · extract_lets +onlyGivenNames y12
      clear_value y12
      extract_lets +onlyGivenNames y13
      clear_value y13
      apply publishTask_kept
      apply loseIndices_kept
      apply setShare_kept
      exact h

theorem resumeTiles_kept (s : State) (h : Kept s0 s) :
    Kept s0 (resumeTiles s) := by
  unfold resumeTiles
  apply forL_kept
  · intro x4 x5 h6
    extract_lets +onlyGivenNames y7
    clear_value y7
    split
    · exact h6
    · extract_lets +onlyGivenNames y9
      have hy9 : Kept s0 y9 := by
        subst y9
        apply setTile_kept
        exact h6
      clear_value y9
      apply forL_kept
      · intro x11 x12 h13
        apply resumeShare_kept
        exact h13
      · exact hy9
  · exact h

theorem afterBypass_kept (k : Fin 11) (s : State) (h : Kept s0 s) :
    Kept s0 (afterBypass k s) := by
  unfold afterBypass
  split
  · extract_lets +onlyGivenNames y6
    have hy6 : Kept s0 y6 := by
      subst y6
      apply loopTo_kept
      exact h
    clear_value y6
    extract_lets +onlyGivenNames y8
    have hy8 : Kept s0 y8 := by
      subst y8
      apply resumeTiles_kept
      apply resumeStore_kept
      exact hy6
    clear_value y8
    apply settleUncertain_kept
    split
    · apply trainLink_kept
      exact hy8
    · exact hy8
  · split
    · apply resumeStore_kept
      exact h
    · split
      · split
        · apply trainLink_kept
          exact h
        · exact h
      · exact h

theorem doSynthRelock_kept (k : Fin 11) (s : State) (h : Kept s0 s) :
    Kept s0 (doSynthRelock k s) := by
  unfold doSynthRelock
  split
  · extract_lets +onlyGivenNames y9
    have hy9 : Kept s0 y9 := by
      subst y9
      apply waitLock_kept
      exact h
    clear_value y9
    extract_lets +onlyGivenNames y11
    have hy11 : Kept s0 y11 := by
      subst y11
      apply settleUncertain_kept
      apply raise_kept
      apply setSynth_kept
      exact hy9
    clear_value y11
    split
    · apply resumeStore_kept
      exact hy11
    · exact hy11
  · apply afterBypass_kept
    apply raise_kept
    apply setSynth_kept
    apply waitLock_kept
    exact h
  · exact h

theorem doSynthLocked_kept (k : Fin 11) (s : State) (h : Kept s0 s) :
    Kept s0 (doSynthLocked k s) := by
  unfold doSynthLocked
  split
  · exact h
  · extract_lets +onlyGivenNames y6
    have hy6 : Kept s0 y6 := by
      subst y6
      apply waitLock_kept
      exact h
    clear_value y6
    extract_lets +onlyGivenNames y8
    have hy8 : Kept s0 y8 := by
      subst y8
      apply settleUncertain_kept
      apply raise_kept
      apply setSynth_kept
      exact hy6
    clear_value y8
    split
    · apply pixelLocked_kept
      exact hy8
    · split
      · extract_lets +onlyGivenNames y12
        clear_value y12
        apply inletPllLocked_kept
        exact hy8
      · exact hy8

theorem setTime_kept (tick : Nat) (s : State) (h : Kept s0 s) :
    Kept s0 (setTime tick s) := by
  unfold setTime
  extract_lets +onlyGivenNames y5
  have hy5 : Kept s0 y5 := by
    subst y5
    apply stepTimeTo_kept
    exact h
  clear_value y5
  split
  · exact hy5
  · extract_lets +onlyGivenNames y8
    have hy8 : Kept s0 y8 := by
      subst y8
      apply loopTo_kept
      exact hy5
    clear_value y8
    apply setLoop_kept
    exact hy8

theorem takeTimeSet_kept (c : Cmd) (s : State) (h : Kept s0 s) :
    Kept s0 (takeTimeSet c s) := by
  unfold takeTimeSet
  split
  · apply complete_kept
    exact h
  · split
    · apply complete_kept
      exact h
    · apply done_kept
      apply setTime_kept
      exact h

theorem doPpsEdge_kept (frac : Nat) (s : State) (h : Kept s0 s) :
    Kept s0 (doPpsEdge frac s) := by
  unfold doPpsEdge
  split
  · split
    · exact h
    · extract_lets +onlyGivenNames y11
      have hy11 : Kept s0 y11 := by
        subst y11
        apply State_setRegN_kept
        apply State_setReg64_kept
        exact h
      clear_value y11
      extract_lets +onlyGivenNames y13
      have hy13 : Kept s0 y13 := by
        subst y13
        apply setClk_kept
        · rfl
        · exact hy11
      clear_value y13
      extract_lets +onlyGivenNames y15
      have hy15 : Kept s0 y15 := by
        subst y15
        apply forL_kept
        · intro x15 x16 h17
          apply takeTimeSet_kept
          exact h17
        · exact hy13
      clear_value y15
      split
      · apply loopUpdate_kept
        exact hy15
      · exact hy15
  · split
    · exact h
    · extract_lets +onlyGivenNames y10
      have hy10 : Kept s0 y10 := by
        subst y10
        apply State_setRegN_kept
        apply State_setReg64_kept
        exact h
      clear_value y10
      extract_lets +onlyGivenNames y12
      have hy12 : Kept s0 y12 := by
        subst y12
        apply setClk_kept
        · rfl
        · exact hy10
      clear_value y12
      extract_lets +onlyGivenNames y14
      have hy14 : Kept s0 y14 := by
        subst y14
        apply forL_kept
        · intro x14 x15 h16
          apply takeTimeSet_kept
          exact h16
        · exact hy12
      clear_value y14
      split
      · apply loopUpdate_kept
        exact hy14
      · exact hy14

theorem doPpsMissed_kept (s : State) (h : Kept s0 s) :
    Kept s0 (doPpsMissed s) := by
  unfold doPpsMissed
  split
  · exact h
  · extract_lets +onlyGivenNames y5
    clear_value y5
    extract_lets +onlyGivenNames y6
    have hy6 : Kept s0 y6 := by
      subst y6
      apply waitUp_kept
      exact h
    clear_value y6
    apply loopLost_kept
    apply raise_kept
    apply State_setField_kept
    exact hy6

theorem doHoldoverTimeout_kept (s : State) (h : Kept s0 s) :
    Kept s0 (doHoldoverTimeout s) := by
  unfold doHoldoverTimeout
  split
  · exact h
  · apply settleUncertain_kept
    apply waitUp_kept
    exact h

theorem doPpsOut_kept (s : State) (h : Kept s0 s) :
    Kept s0 (doPpsOut s) := by
  unfold doPpsOut
  split
  · exact h
  · split
    · apply setClk_kept
      · rfl
      · apply waitTick_kept
        exact h
    · apply setClk_kept
      · rfl
      · apply waitTick_kept
        exact h

theorem doPtmStart_kept (s : State) (h : Kept s0 s) :
    Kept s0 (doPtmStart s) := by
  unfold doPtmStart
  split
  · exact h
  · extract_lets +onlyGivenNames y5
    have hy5 : Kept s0 y5 := by
      subst y5
      apply waitUp_kept
      apply wakeLull_kept
      exact h
    clear_value y5
    extract_lets +onlyGivenNames y7
    have hy7 : Kept s0 y7.2 := by
      subst y7
      apply takeFree_kept
      exact hy5
    clear_value y7
    extract_lets +onlyGivenNames y9
    clear_value y9
    apply setPcie_kept
    exact hy7

theorem doPtmResponse_kept (master frac : Nat) (s : State) (h : Kept s0 s) :
    Kept s0 (doPtmResponse master frac s) := by
  unfold doPtmResponse
  split
  · exact h
  · extract_lets +onlyGivenNames y7
    have hy7 : Kept s0 y7 := by
      subst y7
      apply setPcie_kept
      exact h
    clear_value y7
    extract_lets +onlyGivenNames y9
    have hy9 : Kept s0 y9 := by
      subst y9
      apply State_countWrap_kept
      exact hy7
    clear_value y9
    extract_lets +onlyGivenNames y11
    have hy11 : Kept s0 y11 := by
      subst y11
      apply State_setReg64_kept
      apply State_setRegN_kept
      apply State_setReg64_kept
      exact hy9
    clear_value y11
    split
    · exact hy11
    · extract_lets +onlyGivenNames y14
      clear_value y14
      extract_lets +onlyGivenNames y15
      clear_value y15
      extract_lets +onlyGivenNames y16
      have hy16 : Kept s0 y16 := by
        subst y16
        apply setLoop_kept
        exact hy11
      clear_value y16
      apply loopUpdate_kept
      exact hy16

theorem enterLull2_kept (s : State) (h : Kept s0 s) :
    Kept s0 (enterLull2 s) := by
  unfold enterLull2
  extract_lets +onlyGivenNames y4
  clear_value y4
  extract_lets +onlyGivenNames y5
  have hy5 : Kept s0 y5 := by
    subst y5
    exact kept_with h
  clear_value y5
  apply lullTo_kept
  exact hy5

theorem enterLull3_kept (s : State) (h : Kept s0 s) :
    Kept s0 (enterLull3 s) := by
  unfold enterLull3
  extract_lets +onlyGivenNames y4
  have hy4 : ∀ a0 s, Kept s0 s → Kept s0 (y4 a0 s) := by
    subst y4
    intro x4 x5 h6
    beta_reduce
    apply setSynth_kept
    exact h6
  clear_value y4
  extract_lets +onlyGivenNames y6
  have hy6 : Kept s0 y6 := by
    subst y6
    apply forL_kept
    · exact hy4
    · exact h
  clear_value y6
  extract_lets +onlyGivenNames y8
  have hy8 : Kept s0 y8 := by
    subst y8
    apply forL_kept
    · intro x8 x9 h10
      split
      · apply setPort_kept
        exact h10
      · exact h10
    · exact hy6
  clear_value y8
  apply lullTo_kept
  split
  · apply hy4
    exact hy8
  · exact hy8

theorem doLullEntry_kept (s : State) (h : Kept s0 s) :
    Kept s0 (doLullEntry s) := by
  unfold doLullEntry
  extract_lets +onlyGivenNames y4
  clear_value y4
  split
  · exact h
  · split
    · apply enterLull2_kept
      apply pass_kept
      exact h
    · apply enterLull3_kept
      apply waitUp_kept
      exact h

end Sys2Proof.Laws
end

