-- ==== Sys2Proof/Laws/KeptLinkRx.lean ====
section
/-! SUPPORT. The operations of Machine/LinkRx.lean keep what every command keeps. -/

namespace Sys2Proof.Laws

set_option Elab.async false

open Sys2Proof.Machine

variable {s0 : State}

theorem passing_kept (a e : Fin 4) (p : Packet) (s : State) (h : Kept s0 s) :
    Kept s0 (passing a e p s) := by
  unfold passing
  split
  · extract_lets +onlyGivenNames y8
    have hy8 : Kept s0 y8 := by
      subst y8
      split
      · apply setPort_kept
        exact h
      · exact h
    clear_value y8
    apply addDid_kept
    exact hy8
  · split
    · extract_lets +onlyGivenNames y9
      clear_value y9
      extract_lets +onlyGivenNames y10
      clear_value y10
      extract_lets +onlyGivenNames y11
      have hy11 : Kept s0 y11 := by
        subst y11
        apply setPort_kept
        exact kept_with h
      clear_value y11
      apply setEntries_kept
      exact hy11
    · exact h

theorem noRoute_kept (p : Packet) (s : State) (h : Kept s0 s) :
    Kept s0 (noRoute p s) := by
  unfold noRoute
  split
  · apply send_kept
    exact h
  · apply discardPacket_kept
    exact h

theorem doForward_kept (n : Fin 4) (p : Packet) (s : State) (h : Kept s0 s) :
    Kept s0 (doForward n p s) := by
  unfold doForward
  split
  · exact h
  · split
    · apply discardPacket_kept
      exact h
    · extract_lets +onlyGivenNames y8
      clear_value y8
      split
      · apply broadcast_kept
        exact h
      · split
        · split
          · apply discardPacket_kept
            exact h
          · apply sendOn_kept
            apply passing_kept
            exact h
        · apply noRoute_kept
          exact h

theorem answer_kept (p : Packet) (status : Nat) (payload : Data) (s : State) (h : Kept s0 s) :
    Kept s0 (answer p status payload s) := by
  unfold answer
  apply send_kept
  exact h

theorem storeWriteFrom_kept (p : Packet) (s : State) (h : Kept s0 s) :
    Kept s0 (storeWriteFrom p s) := by
  unfold storeWriteFrom
  extract_lets +onlyGivenNames y5
  have hy5 : ∀ a0 s, Kept s0 s → Kept s0 (y5 a0 s) := by
    subst y5
    intro x5 x6 h7
    beta_reduce
    split
    · apply answer_kept
      exact h7
    · exact h7
  clear_value y5
  split
  · apply hy5
    exact h
  · extract_lets +onlyGivenNames y8
    have hy8 : Kept s0 y8 := by
      subst y8
      apply storeAwake_kept
      exact h
    clear_value y8
    split
    · exact hy8
    · apply hy5
      apply storeWrite_kept
      exact hy8

theorem ackRecord_kept (did stream last : Nat) (s : State) (h : Kept s0 s) :
    Kept s0 (ackRecord did stream last s) := by
  unfold ackRecord
  apply send_kept
  exact h

theorem noteProducer_kept (n : Fin 16) (did stop : Nat) (rec_ : Data) (s : State) (h : Kept s0 s) :
    Kept s0 (noteProducer n did stop rec_ s) := by
  unfold noteProducer
  extract_lets +onlyGivenNames y8
  clear_value y8
  extract_lets +onlyGivenNames y9
  clear_value y9
  apply setStream_kept
  exact h

theorem peerRecord_kept (n : Fin 16) (did stream seq : Nat) (d : Data) (s : State) (h : Kept s0 s) :
    Kept s0 (peerRecord n did stream seq d s) := by
  unfold peerRecord
  extract_lets +onlyGivenNames y9
  clear_value y9
  split
  · apply ackRecord_kept
    exact h
  · split
    · exact h
    · extract_lets +onlyGivenNames y12
      clear_value y12
      extract_lets +onlyGivenNames y13
      clear_value y13
      extract_lets +onlyGivenNames y14
      have hy14 : Kept s0 y14 := by
        subst y14
        apply offerRecord_kept
        exact h
      clear_value y14
      apply ackRecord_kept
      apply noteProducer_kept
      apply setFeed_kept
      exact hy14

theorem streamPart_kept (p : Packet) (s : State) (h : Kept s0 s) :
    Kept s0 (streamPart p s) := by
  unfold streamPart
  split
  · exact h
  · extract_lets +onlyGivenNames y10
    clear_value y10
    extract_lets +onlyGivenNames y11
    clear_value y11
    extract_lets +onlyGivenNames y12
    have hy12 : Kept s0 y12 := by
      subst y12
      split
      · exact h
      · apply setStream_kept
        exact h
    clear_value y12
    extract_lets +onlyGivenNames y14
    have hy14 : Kept s0 y14 := by
      subst y14
      apply setFeed_kept
      exact hy12
    clear_value y14
    split
    · exact hy14
    · split
      · apply peerRecord_kept
        exact hy14
      · exact hy14

theorem unitArrives_kept (did : Nat) (d : Data) (s : State) (h : Kept s0 s) :
    Kept s0 (unitArrives did d s) := by
  unfold unitArrives
  split
  · exact h
  · extract_lets +onlyGivenNames y11
    clear_value y11
    split
    · apply acceptUnit_kept
      exact h
    · split
      · exact h
      · apply setTask_kept
        exact h

theorem spectrumArrives_kept (did : Nat) (d : Data) (s : State) (h : Kept s0 s) :
    Kept s0 (spectrumArrives did d s) := by
  unfold spectrumArrives
  split
  · exact h
  · split
    · split
      · exact h
      · extract_lets +onlyGivenNames y17
        clear_value y17
        extract_lets +onlyGivenNames y18
        clear_value y18
        extract_lets +onlyGivenNames y19
        clear_value y19
        extract_lets +onlyGivenNames y20
        have hy20 : Kept s0 y20 := by
          subst y20
          apply xcSaturated_kept
          exact h
        clear_value y20
        apply xcOffer_kept
        exact hy20
    · exact h

theorem bulkPart_kept (p : Packet) (s : State) (h : Kept s0 s) :
    Kept s0 (bulkPart p s) := by
  unfold bulkPart
  extract_lets +onlyGivenNames y5
  clear_value y5
  extract_lets +onlyGivenNames y6
  clear_value y6
  extract_lets +onlyGivenNames y7
  clear_value y7
  extract_lets +onlyGivenNames y8
  clear_value y8
  extract_lets +onlyGivenNames y9
  have hy9 : Kept s0 y9 := by
    subst y9
    exact kept_with h
  clear_value y9
  split
  · exact hy9
  · split
    · apply unitArrives_kept
      exact hy9
    · apply spectrumArrives_kept
      exact hy9

theorem doLinkWrite_kept (p : Packet) (s : State) (h : Kept s0 s) :
    Kept s0 (doLinkWrite p s) := by
  unfold doLinkWrite
  split
  · exact h
  · split
    · apply storeWriteFrom_kept
      exact h
    · split
      · apply streamPart_kept
        exact h
      · split
        · apply bulkPart_kept
          exact h
        · split
          · apply answer_kept
            exact h
          · exact h

theorem doLinkRead_kept (p : Packet) (s : State) (h : Kept s0 s) :
    Kept s0 (doLinkRead p s) := by
  unfold doLinkRead
  extract_lets +onlyGivenNames y5
  clear_value y5
  extract_lets +onlyGivenNames y6
  clear_value y6
  split
  · exact h
  · split
    · apply answer_kept
      exact h
    · extract_lets +onlyGivenNames y9
      have hy9 : Kept s0 y9 := by
        subst y9
        apply storeAwake_kept
        exact h
      clear_value y9
      split
      · exact hy9
      · split
        · exact hy9
        · split
          · apply answer_kept
            exact hy9
          · split
            · apply answer_kept
              apply reportSpan_kept
              exact hy9
            · apply answer_kept
              exact hy9

theorem doLinkCompletion_kept (p : Packet) (s : State) (h : Kept s0 s) :
    Kept s0 (doLinkCompletion p s) := by
  unfold doLinkCompletion
  split
  · exact h
  · split
    · split
      · split
        · apply doPeerStreamAck_kept
          exact h
        · exact h
      · exact h
    · split
      · exact kept_with h
      · split
        · apply endRequest_kept
          exact h
        · exact h

theorem doRequestTimeout_kept (tag : U32) (s : State) (h : Kept s0 s) :
    Kept s0 (doRequestTimeout tag s) := by
  unfold doRequestTimeout
  split
  · apply endRequest_kept
    apply waitUp_kept
    exact h
  · exact h

theorem doForwardedCommand_kept (p : Packet) (s : State) (h : Kept s0 s) :
    Kept s0 (doForwardedCommand p s) := by
  unfold doForwardedCommand
  split
  · exact h
  · extract_lets +onlyGivenNames y6
    have hy6 : Kept s0 y6 := by
      subst y6
      split
      · apply send_kept
        exact h
      · exact h
    clear_value y6
    extract_lets +onlyGivenNames y8
    clear_value y8
    extract_lets +onlyGivenNames y9
    clear_value y9
    extract_lets +onlyGivenNames y10
    clear_value y10
    extract_lets +onlyGivenNames y11
    have hy11 : Kept s0 y11 := by
      subst y11
      exact kept_with hy6
    clear_value y11
    split
    · apply complete_kept
      exact hy11
    · split
      · apply complete_kept
        exact hy11
      · apply startCmd_kept
        exact hy11

theorem doForwardedCompletion_kept (p : Packet) (s : State) (h : Kept s0 s) :
    Kept s0 (doForwardedCompletion p s) := by
  unfold doForwardedCompletion
  split
  · exact h
  · extract_lets +onlyGivenNames y6
    clear_value y6
    extract_lets +onlyGivenNames y7
    have hy7 : Kept s0 y7 := by
      subst y7
      exact kept_with h
    clear_value y7
    split
    · exact hy7
    · extract_lets +onlyGivenNames y14
      clear_value y14
      extract_lets +onlyGivenNames y15
      have hy15 : Kept s0 y15 := by
        subst y15
        apply forL_kept
        · intro x15 x16 h17
          apply hostWrite_kept
          exact h17
        · exact hy7
      clear_value y15
      apply complete_kept
      exact hy15

theorem doForwardedEvent_kept (p : Packet) (s : State) (h : Kept s0 s) :
    Kept s0 (doForwardedEvent p s) := by
  unfold doForwardedEvent
  split
  · exact h
  · split
    · extract_lets +onlyGivenNames y11
      clear_value y11
      apply evqAccept_kept
      exact h
    · exact h

theorem markCut_kept (ranges : List (Nat × Nat)) (s : State) (h : Kept s0 s) :
    Kept s0 (markCut ranges s) := by
  unfold markCut
  extract_lets +onlyGivenNames y5
  clear_value y5
  apply forL_kept
  · intro x6 x7 h8
    apply markPartial_kept
    exact h8
  · exact h

theorem doHeal_kept (n : Fin 4) (p : Packet) (s : State) (h : Kept s0 s) :
    Kept s0 (doHeal n p s) := by
  unfold doHeal
  split
  · exact h
  · extract_lets +onlyGivenNames y7
    clear_value y7
    extract_lets +onlyGivenNames y8
    clear_value y8
    apply forL_kept
    · intro x9 x10 h11
      apply send_kept
      exact h11
    · apply markCut_kept
      exact h

theorem doOffer_kept (p : Packet) (s : State) (h : Kept s0 s) :
    Kept s0 (doOffer p s) := by
  unfold doOffer
  split
  · exact h
  · split
    · exact kept_with h
    · exact h

theorem activateHere_kept (k : Fin 4) (from_ : Option (Fin 4)) (ranges : List (Nat × Nat)) (s : State) (h : Kept s0 s) :
    Kept s0 (activateHere k from_ ranges s) := by
  unfold activateHere
  split
  · exact h
  · extract_lets +onlyGivenNames y8
    clear_value y8
    extract_lets +onlyGivenNames y9
    clear_value y9
    extract_lets +onlyGivenNames y10
    have hy10 : Kept s0 y10 := by
      subst y10
      apply setPort_kept
      exact kept_with h
    clear_value y10
    extract_lets +onlyGivenNames y12
    have hy12 : Kept s0 y12 := by
      subst y12
      apply raise_kept
      exact hy10
    clear_value y12
    extract_lets +onlyGivenNames y14
    have hy14 : Kept s0 y14 := by
      subst y14
      split
      · apply setEntries_kept
        exact hy12
      · exact hy12
    clear_value y14
    apply settleRoutes_kept
    apply sendOn_kept
    exact hy14

theorem doHealTimeout_kept (s : State) (h : Kept s0 s) :
    Kept s0 (doHealTimeout s) := by
  unfold doHealTimeout
  split
  · exact h
  · extract_lets +onlyGivenNames y9
    have hy9 : Kept s0 y9 := by
      subst y9
      apply waitUp_kept
      exact h
    clear_value y9
    extract_lets +onlyGivenNames y11
    clear_value y11
    extract_lets +onlyGivenNames y12
    have hy12 : Kept s0 y12 := by
      subst y12
      exact kept_with hy9
    clear_value y12
    split
    · exact hy12
    · split
      · apply activateHere_kept
        exact hy12
      · split
        · extract_lets +onlyGivenNames y25
          have hy25 : Kept s0 y25 := by
            subst y25
            apply send_kept
            exact hy12
          clear_value y25
          apply settleRoutes_kept
          apply setPort_kept
          exact kept_with hy25
        · exact hy12

theorem healDone_kept (ranges : List (Nat × Nat)) (s : State) (h : Kept s0 s) :
    Kept s0 (healDone ranges s) := by
  unfold healDone
  apply raise_kept
  apply restoreRanges_kept
  exact h

theorem applyAdd_kept (n : Fin 4) (ranges : List (Nat × Nat)) (heal : Nat) (s : State) (h : Kept s0 s) :
    Kept s0 (applyAdd n ranges heal s) := by
  unfold applyAdd
  extract_lets +onlyGivenNames y7
  clear_value y7
  extract_lets +onlyGivenNames y8
  have hy8 : Kept s0 y8 := by
    subst y8
    apply addEntries_kept
    exact kept_with h
  clear_value y8
  extract_lets +onlyGivenNames y10
  have hy10 : Kept s0 y10 := by
    subst y10
    split
    · apply healDone_kept
      exact hy8
    · apply sendUp_kept
      apply restoreRanges_kept
      exact hy8
  clear_value y10
  apply settleRoutes_kept
  exact hy10

theorem doActivate_kept (n : Fin 4) (p : Packet) (s : State) (h : Kept s0 s) :
    Kept s0 (doActivate n p s) := by
  unfold doActivate
  split
  · exact h
  · split
    · split
      · exact h
      · apply applyAdd_kept
        apply raise_kept
        apply setPort_kept
        exact h
    · apply activateHere_kept
      exact h

theorem doRouteAdd_kept (n : Fin 4) (p : Packet) (s : State) (h : Kept s0 s) :
    Kept s0 (doRouteAdd n p s) := by
  unfold doRouteAdd
  split
  · exact h
  · apply applyAdd_kept
    exact h

theorem doRouteDel_kept (n : Fin 4) (p : Packet) (s : State) (h : Kept s0 s) :
    Kept s0 (doRouteDel n p s) := by
  unfold doRouteDel
  split
  · exact h
  · extract_lets +onlyGivenNames y7
    clear_value y7
    extract_lets +onlyGivenNames y8
    have hy8 : Kept s0 y8 := by
      subst y8
      apply setPort_kept
      exact h
    clear_value y8
    apply settleRoutes_kept
    apply cutRanges_kept
    exact hy8

theorem foreignGo_kept (f : ForeignShare) (tiles : List (Nat × Nat)) (s : State) (h : Kept s0 s) :
    Kept s0 (foreignGo f tiles s) := by
  unfold foreignGo
  extract_lets +onlyGivenNames y6
  clear_value y6
  extract_lets +onlyGivenNames y7
  have hy7 : Kept s0 y7 := by
    subst y7
    apply addShares_kept
    exact h
  clear_value y7
  extract_lets +onlyGivenNames y9
  have hy9 : Kept s0 y9 := by
    subst y9
    apply splitTileGrants_kept
    exact hy7
  clear_value y9
  apply send_kept
  exact hy9

theorem foreignRefuse_kept (f : ForeignShare) (status : Nat) (s : State) (h : Kept s0 s) :
    Kept s0 (foreignRefuse f status s) := by
  unfold foreignRefuse
  extract_lets +onlyGivenNames y6
  have hy6 : Kept s0 y6 := by
    subst y6
    apply dropForeign_kept
    exact h
  clear_value y6
  apply send_kept
  exact hy6

theorem foreignPower_kept (f : ForeignShare) (tiles : List (Nat × Nat)) (s : State) (h : Kept s0 s) :
    Kept s0 (foreignPower f tiles s) := by
  unfold foreignPower
  extract_lets +onlyGivenNames y6
  clear_value y6
  extract_lets +onlyGivenNames y7
  have hy7 : Kept s0 y7.2 := by
    subst y7
    apply requestInternal_kept
    exact h
  clear_value y7
  split
  · apply foreignGo_kept
    exact hy7
  · exact hy7
  · apply foreignRefuse_kept
    exact hy7

theorem foreignAsk_kept (p : Packet) (s : State) (h : Kept s0 s) :
    Kept s0 (foreignAsk p s) := by
  unfold foreignAsk
  extract_lets +onlyGivenNames y5
  clear_value y5
  extract_lets +onlyGivenNames y6
  clear_value y6
  extract_lets +onlyGivenNames y7
  clear_value y7
  extract_lets +onlyGivenNames y8
  have hy8 : Kept s0 y8 := by
    subst y8
    exact kept_with h
  clear_value y8
  split
  · apply ifAdmitted_kept
    · intro x15 x16
      refine admitFlow_kept ?_ (by assumption)
      exact hy8
    · apply foreignRefuse_kept
      exact hy8
    · intro x15 h16
      apply foreignPower_kept
      exact h16
  · apply foreignRefuse_kept
    exact hy8

theorem foreignGranted_kept (f : ForeignShare) (s : State) (h : Kept s0 s) :
    Kept s0 (foreignGranted f s) := by
  unfold foreignGranted
  split
  · apply foreignGo_kept
    exact h
  · apply foreignRefuse_kept
    exact h

theorem foreignAccepted_kept (did id : Nat) (s : State) (h : Kept s0 s) :
    Kept s0 (foreignAccepted did id s) := by
  unfold foreignAccepted
  split
  · exact h
  · split
    · split
      · exact h
      · extract_lets +onlyGivenNames y17
        clear_value y17
        extract_lets +onlyGivenNames y18
        have hy18 : Kept s0 y18 := by
          subst y18
          apply setTask_kept
          apply limitOld_kept
          exact h
        clear_value y18
        extract_lets +onlyGivenNames y20
        clear_value y20
        apply send_kept
        exact hy18
    · exact h

theorem foreignStart_kept (task : Nat) (d : Data) (s : State) (h : Kept s0 s) :
    Kept s0 (foreignStart task d s) := by
  unfold foreignStart
  extract_lets +onlyGivenNames y6
  clear_value y6
  extract_lets +onlyGivenNames y7
  clear_value y7
  extract_lets +onlyGivenNames y8
  clear_value y8
  extract_lets +onlyGivenNames y9
  clear_value y9
  extract_lets +onlyGivenNames y10
  clear_value y10
  exact kept_with h

theorem foreignCancel_kept (task limit epoch : Nat) (s : State) (h : Kept s0 s) :
    Kept s0 (foreignCancel task limit epoch s) := by
  unfold foreignCancel
  extract_lets +onlyGivenNames y7
  clear_value y7
  extract_lets +onlyGivenNames y8
  have hy8 : Kept s0 y8 := by
    subst y8
    apply forL_kept
    · intro x8 x9 h10
      apply dropTask_kept
      exact h10
    · exact h
  clear_value y8
  split
  · apply forL_kept
    · intro x11 x12 h13
      apply dropForeign_kept
      exact h13
    · exact hy8
  · extract_lets +onlyGivenNames y11
    clear_value y11
    exact kept_with hy8

theorem foreignSource_kept (t : Task) (s : State) (h : Kept s0 s) :
    Kept s0 (foreignSource t s) := by
  unfold foreignSource
  split
  · extract_lets +onlyGivenNames y10
    clear_value y10
    extract_lets +onlyGivenNames y11
    have hy11 : Kept s0 y11.2 := by
      subst y11
      apply requestInternal_kept
      apply addShares_kept
      exact h
    clear_value y11
    split
    · apply splitTileGrants_kept
      exact hy11
    · apply dropTask_kept
      exact hy11
  · apply dropTask_kept
    exact h

theorem foreignSources_kept (p : Packet) (s : State) (h : Kept s0 s) :
    Kept s0 (foreignSources p s) := by
  unfold foreignSources
  extract_lets +onlyGivenNames y5
  clear_value y5
  extract_lets +onlyGivenNames y6
  clear_value y6
  extract_lets +onlyGivenNames y7
  clear_value y7
  extract_lets +onlyGivenNames y8
  clear_value y8
  extract_lets +onlyGivenNames y9
  clear_value y9
  extract_lets +onlyGivenNames y10
  clear_value y10
  extract_lets +onlyGivenNames y11
  clear_value y11
  extract_lets +onlyGivenNames y12
  clear_value y12
  apply forL_kept
  · intro x13 x14 h15
    split
    · exact h15
    · split
      · exact h15
      · extract_lets +onlyGivenNames y22
        have hy22 : Kept s0 y22.2 := by
          subst y22
          apply takeTaskId_kept
          exact h15
        clear_value y22
        extract_lets +onlyGivenNames y24
        clear_value y24
        extract_lets +onlyGivenNames y25
        clear_value y25
        extract_lets +onlyGivenNames y26
        have hy26 : Kept s0 y26 := by
          subst y26
          exact hy22
        clear_value y26
        extract_lets +onlyGivenNames y28
        have hy28 : Kept s0 y28 := by
          subst y28
          exact kept_with hy26
        clear_value y28
        apply ifAdmitted_kept
        · intro x30 x31
          refine reserveStore_kept ?_ (by assumption)
          exact hy28
        · apply dropTask_kept
          exact hy28
        · intro x30 h31
          apply foreignSource_kept
          exact h31
  · exact h

theorem applyCut_kept (n : Fin 16) (tc last : Nat) (s : State) (h : Kept s0 s) :
    Kept s0 (applyCut n tc last s) := by
  unfold applyCut
  extract_lets +onlyGivenNames y7
  clear_value y7
  extract_lets +onlyGivenNames y8
  clear_value y8
  extract_lets +onlyGivenNames y9
  clear_value y9
  extract_lets +onlyGivenNames y10
  clear_value y10
  extract_lets +onlyGivenNames y11
  clear_value y11
  extract_lets +onlyGivenNames y12
  have hy12 : Kept s0 y12 := by
    subst y12
    apply setStream_kept
    exact h
  clear_value y12
  apply reapAcqs_kept
  apply resendRecords_kept
  exact hy12

theorem peerStopped_kept (did id epoch : Nat) (d : Data) (s : State) (h : Kept s0 s) :
    Kept s0 (peerStopped did id epoch d s) := by
  unfold peerStopped
  split
  · exact h
  · extract_lets +onlyGivenNames y13
    clear_value y13
    extract_lets +onlyGivenNames y14
    clear_value y14
    split
    · exact h
    · apply publishTask_kept
      apply stopResidues_kept
      exact h

theorem foreignModify_kept (task epoch : Nat) (d : Data) (s : State) (h : Kept s0 s) :
    Kept s0 (foreignModify task epoch d s) := by
  unfold foreignModify
  extract_lets +onlyGivenNames y7
  clear_value y7
  exact kept_with h

theorem doPlacement_kept (p : Packet) (s : State) (h : Kept s0 s) : Kept s0 (doPlacement p s) := by
  unfold doPlacement
  refine if_kept h (if_kept (foreignAsk_kept _ _ h) (if_kept (foreignAccepted_kept _ _ _ h) (if_kept ?_ (if_kept (foreignStart_kept _ _ _ h)
    (if_kept (foreignCancel_kept _ _ _ _ h) (if_kept (foreignSources_kept _ _ h) (if_kept (foreignModify_kept _ _ _ _ h)
      (if_kept (peerStopped_kept _ _ _ _ _ h) (if_kept ?_ h)))))))))
  · split
    · exact if_kept (abortMigration_kept _ _ _ h) h
    · exact h
  · split
    · exact if_kept (applyCut_kept _ _ _ _ h) h
    · exact h

theorem doFlowLoss_kept (did : Nat) (s : State) (h : Kept s0 s) :
    Kept s0 (doFlowLoss did s) := by
  unfold doFlowLoss
  split
  · exact h
  · extract_lets +onlyGivenNames y6
    have hy6 : Kept s0 y6 := by
      subst y6
      apply waitUp_kept
      exact h
    clear_value y6
    extract_lets +onlyGivenNames y8
    have hy8 : Kept s0 y8 := by
      subst y8
      apply forL_kept
      · intro x8 x9 h10
        apply endFlow_kept
        exact h10
      · exact hy6
    clear_value y8
    extract_lets +onlyGivenNames y10
    have hy10 : Kept s0 y10 := by
      subst y10
      apply forL_kept
      · intro x10 x11 h12
        extract_lets +onlyGivenNames y13
        clear_value y13
        extract_lets +onlyGivenNames y14
        have hy14 : Kept s0 y14 := by
          subst y14
          exact kept_with h12
        clear_value y14
        split
        · apply complete_kept
          exact hy14
        · exact hy14
      · exact hy8
    clear_value y10
    split
    · exact hy10
    · extract_lets +onlyGivenNames y13
      clear_value y13
      extract_lets +onlyGivenNames y14
      have hy14 : Kept s0 y14 := by
        subst y14
        apply forL_kept
        · intro x14 x15 h16
          apply raise_kept
          exact h16
        · exact hy10
      clear_value y14
      extract_lets +onlyGivenNames y16
      clear_value y16
      exact kept_with hy14

theorem doSyncSend_kept (n : Fin 4) (s : State) (h : Kept s0 s) :
    Kept s0 (doSyncSend n s) := by
  unfold doSyncSend
  extract_lets +onlyGivenNames y5
  clear_value y5
  split
  · exact h
  · extract_lets +onlyGivenNames y7
    have hy7 : Kept s0 y7 := by
      subst y7
      apply waitUp_kept
      exact h
    clear_value y7
    extract_lets +onlyGivenNames y9
    have hy9 : Kept s0 y9.2 := by
      subst y9
      apply takeFree_kept
      exact hy7
    clear_value y9
    apply setPort_kept
    apply sendOn_kept
    exact hy9

theorem doSyncReceive_kept (n : Fin 4) (p : Packet) (frac : Nat) (s : State) (h : Kept s0 s) :
    Kept s0 (doSyncReceive n p frac s) := by
  unfold doSyncReceive
  split
  · exact h
  · extract_lets +onlyGivenNames y8
    have hy8 : Kept s0 y8 := by
      subst y8
      apply setPort_kept
      exact h
    clear_value y8
    split
    · exact hy8
    · extract_lets +onlyGivenNames y11
      clear_value y11
      extract_lets +onlyGivenNames y12
      have hy12 : Kept s0 y12 := by
        subst y12
        apply setPort_kept
        exact hy8
      clear_value y12
      split
      · apply loopUpdate_kept
        exact hy12
      · exact hy12

theorem doDelayMeasure_kept (n : Fin 4) (s : State) (h : Kept s0 s) :
    Kept s0 (doDelayMeasure n s) := by
  unfold doDelayMeasure
  extract_lets +onlyGivenNames y5
  clear_value y5
  split
  · exact h
  · extract_lets +onlyGivenNames y7
    have hy7 : Kept s0 y7 := by
      subst y7
      apply waitUp_kept
      exact h
    clear_value y7
    extract_lets +onlyGivenNames y9
    have hy9 : Kept s0 y9.2 := by
      subst y9
      apply takeFree_kept
      exact hy7
    clear_value y9
    extract_lets +onlyGivenNames y11
    clear_value y11
    extract_lets +onlyGivenNames y12
    have hy12 : Kept s0 y12 := by
      subst y12
      exact hy9
    clear_value y12
    apply setPort_kept
    apply sendOn_kept
    exact hy12

theorem doDelayReq_kept (n : Fin 4) (p : Packet) (frac : Nat) (s : State) (h : Kept s0 s) :
    Kept s0 (doDelayReq n p frac s) := by
  unfold doDelayReq
  split
  · exact h
  · extract_lets +onlyGivenNames y8
    clear_value y8
    extract_lets +onlyGivenNames y9
    have hy9 : Kept s0 y9.2 := by
      subst y9
      apply takeFree_kept
      exact h
    clear_value y9
    extract_lets +onlyGivenNames y11
    clear_value y11
    extract_lets +onlyGivenNames y12
    have hy12 : Kept s0 y12 := by
      subst y12
      exact hy9
    clear_value y12
    apply sendOn_kept
    exact hy12

theorem doDelayResp_kept (n : Fin 4) (p : Packet) (frac : Nat) (s : State) (h : Kept s0 s) :
    Kept s0 (doDelayResp n p frac s) := by
  unfold doDelayResp
  split
  · exact h
  · split
    · exact h
    · extract_lets +onlyGivenNames y13
      clear_value y13
      extract_lets +onlyGivenNames y14
      clear_value y14
      apply noteDelay_kept
      apply setPort_kept
      exact h

end Sys2Proof.Laws
end

