-- ==== Sys2Proof/Laws/KeptPower.lean ====
section
/-! SUPPORT. The operations of Machine/Power.lean keep what every command keeps. -/

namespace Sys2Proof.Laws

set_option Elab.async false

open Sys2Proof.Machine

variable {s0 : State}

theorem setEffective_kept (s : State) (h : Kept s0 s) :
    Kept s0 (setEffective s) := by
  unfold setEffective
  extract_lets +onlyGivenNames y4
  clear_value y4
  split
  · exact h
  · apply raise_kept
    apply setPower_kept
    exact h

theorem doThermalEvaluation_kept (s : State) (h : Kept s0 s) :
    Kept s0 (doThermalEvaluation s) := by
  unfold doThermalEvaluation
  split
  · exact h
  · extract_lets +onlyGivenNames y5
    have hy5 : Kept s0 y5 := by
      subst y5
      apply waitUp_kept
      exact h
    clear_value y5
    extract_lets +onlyGivenNames y7
    clear_value y7
    extract_lets +onlyGivenNames y8
    have hy8 : Kept s0 y8 := by
      subst y8
      exact kept_with hy5
    clear_value y8
    extract_lets +onlyGivenNames y10
    clear_value y10
    apply setEffective_kept
    apply setPower_kept
    exact hy8

theorem popPower_kept (s : State) (h : Kept s0 s) :
    Kept s0 (popPower s) := by
  unfold popPower
  split
  · exact h
  · apply setPower_kept
    exact h

theorem onIndex_kept {n : Nat} (k : Nat) (f : Fin n → State → State) (s : State) (hf : ∀ a0 s, Kept s0 s → Kept s0 (f a0 s)) (h : Kept s0 s) :
    Kept s0 (onIndex k f s) := by
  unfold onIndex
  split
  · apply hf
    exact h
  · exact h

theorem grantedCmd_kept (c : Cmd) (owner : Owner) (s : State) (h : Kept s0 s) :
    Kept s0 (grantedCmd c owner s) := by
  unfold grantedCmd
  split
  · apply onIndex_kept
    · intro x8 x9 h10
      apply beginInlet_kept
      exact h10
    · exact h
  · apply activateTask_kept
    exact h
  · apply activateRetro_kept
    exact h
  · apply activateXcorr_kept
    exact h
  · apply onIndex_kept
    · intro x8 x9 h10
      split
      · apply openNvme_kept
        exact h10
      · apply openStream_kept
        exact h10
    · exact h
  · split
    · apply sendAsk_kept
      exact h
    · apply startMigration_kept
      exact h
  · exact h

theorem replaceTask_kept (id : Nat) (s : State) (h : Kept s0 s) :
    Kept s0 (replaceTask id s) := by
  unfold replaceTask
  apply forL_kept
  · intro x5 x6 h7
    split
    · exact h7
    · apply forL_kept
      · intro x9 x10 h11
        apply replaceOne_kept
        exact h11
      · exact h7
  · exact h

theorem grantedInternal_kept (owner : Owner) (s : State) (h : Kept s0 s) :
    Kept s0 (grantedInternal owner s) := by
  unfold grantedInternal
  split
  · apply startBackfill_kept
    exact h
  · split
    · apply foreignGranted_kept
      exact h
    · apply replaceTask_kept
      apply rehome_kept
      exact h
  · apply onIndex_kept
    · intro x7 x8 h9
      apply portBegin_kept
      exact h9
    · exact h
  · exact h

theorem doPowerRequestGrant_kept (s : State) (h : Kept s0 s) :
    Kept s0 (doPowerRequestGrant s) := by
  unfold doPowerRequestGrant
  split
  · exact h
  · split
    · exact h
    · extract_lets +onlyGivenNames y11
      have hy11 : Kept s0 y11 := by
        subst y11
        apply grantItems_kept
        apply popPower_kept
        exact h
      clear_value y11
      extract_lets +onlyGivenNames y13
      have hy13 : Kept s0 y13 := by
        subst y13
        apply raise_kept
        exact hy11
      clear_value y13
      split
      · apply grantedInternal_kept
        exact hy13
      · split
        · apply grantedCmd_kept
          apply setCmd_kept
          exact hy13
        · exact hy13

theorem deniedCmd_kept (c : Cmd) (owner : Owner) (s : State) (h : Kept s0 s) :
    Kept s0 (deniedCmd c owner s) := by
  unfold deniedCmd
  split
  · apply onIndex_kept
    · intro x8 x9 h10
      apply dropStart_kept
      exact h10
    · exact h
  · apply dropTask_kept
    exact h
  · apply dropTask_kept
    exact h
  · apply dropXcorr_kept
    exact h
  · apply releaseFlow_kept
    apply releaseAll_kept
    exact h
  · apply dropPlacement_kept
    split
    · apply releasePlacement_kept
      exact h
    · exact h
  · apply denyRetrain_kept
    exact h
  · exact h

theorem replaceDenied_kept (id : Nat) (s : State) (h : Kept s0 s) :
    Kept s0 (replaceDenied id s) := by
  unfold replaceDenied
  apply forL_kept
  · intro x5 x6 h7
    split
    · exact h7
    · apply forL_kept
      · intro x9 x10 h11
        apply replaceShare_kept
        apply takeOff_kept
        exact h11
      · exact h7
  · exact h

theorem rehomeDenied_kept (id : Nat) (s : State) (h : Kept s0 s) :
    Kept s0 (rehomeDenied id s) := by
  unfold rehomeDenied
  split
  · exact h
  · split
    · exact h
    · apply rehomeOn_kept
      exact h

theorem deniedInternal_kept (owner : Owner) (s : State) (h : Kept s0 s) :
    Kept s0 (deniedInternal owner s) := by
  unfold deniedInternal
  split
  · split
    · apply loseFine_kept
      apply loseIndices_kept
      apply setTask_kept
      exact h
    · exact h
  · split
    · apply foreignRefuse_kept
      exact h
    · apply replaceDenied_kept
      apply rehomeDenied_kept
      exact h
  · apply endRetrainCmds_kept
    apply denyRetrain_kept
    exact h
  · apply onIndex_kept
    · intro x7 x8 h9
      apply trainFailed_kept
      exact h9
    · exact h
  · exact h

theorem doPowerRequestTimeout_kept (s : State) (h : Kept s0 s) :
    Kept s0 (doPowerRequestTimeout s) := by
  unfold doPowerRequestTimeout
  split
  · exact h
  · split
    · exact h
    · extract_lets +onlyGivenNames y11
      have hy11 : Kept s0 y11 := by
        subst y11
        apply popPower_kept
        apply waitUp_kept
        exact h
      clear_value y11
      extract_lets +onlyGivenNames y13
      have hy13 : Kept s0 y13 := by
        subst y13
        apply denyPower_kept
        exact hy11
      clear_value y13
      split
      · apply deniedInternal_kept
        exact hy13
      · split
        · apply complete_kept
          apply deniedCmd_kept
          exact hy13
        · exact hy13

theorem settleLife_kept (s : State) (h : Kept s0 s) :
    Kept s0 (settleLife s) := by
  unfold settleLife
  extract_lets +onlyGivenNames y4
  clear_value y4
  extract_lets +onlyGivenNames y5
  clear_value y5
  extract_lets +onlyGivenNames y6
  have hy6 : Kept s0 y6 := by
    subst y6
    split
    · apply raise_kept
      apply setLife_kept
      exact h
    · exact h
  clear_value y6
  split
  · apply raise_kept
    apply setLife_kept
    exact hy6
  · exact hy6

theorem outSecond_kept (tj : Int) (s : State) (h : Kept s0 s) :
    Kept s0 (outSecond tj s) := by
  unfold outSecond
  extract_lets +onlyGivenNames y5
  clear_value y5
  extract_lets +onlyGivenNames y6
  clear_value y6
  split
  · exact h
  · extract_lets +onlyGivenNames y8
    have hy8 : Kept s0 y8 := by
      subst y8
      apply setLife_kept
      exact h
    clear_value y8
    apply raise_kept
    exact hy8

theorem doLifeSample_kept (s : State) (h : Kept s0 s) :
    Kept s0 (doLifeSample s) := by
  unfold doLifeSample
  split
  · exact h
  · extract_lets +onlyGivenNames y5
    have hy5 : Kept s0 y5 := by
      subst y5
      apply waitUp_kept
      exact h
    clear_value y5
    extract_lets +onlyGivenNames y7
    clear_value y7
    extract_lets +onlyGivenNames y8
    clear_value y8
    extract_lets +onlyGivenNames y9
    clear_value y9
    extract_lets +onlyGivenNames y10
    have hy10 : Kept s0 y10 := by
      subst y10
      apply setLife_kept
      exact hy5
    clear_value y10
    apply settleLife_kept
    apply outSecond_kept
    exact hy10

theorem doWearDaily_kept (s : State) (h : Kept s0 s) :
    Kept s0 (doWearDaily s) := by
  unfold doWearDaily
  split
  · exact h
  · extract_lets +onlyGivenNames y5
    have hy5 : Kept s0 y5 := by
      subst y5
      apply waitUp_kept
      exact h
    clear_value y5
    apply settleLife_kept
    apply setLife_kept
    exact hy5

theorem doLifeWrite_kept (s : State) (h : Kept s0 s) :
    Kept s0 (doLifeWrite s) := by
  unfold doLifeWrite
  split
  · exact h
  · extract_lets +onlyGivenNames y5
    have hy5 : Kept s0 y5 := by
      subst y5
      split
      · exact h
      · apply waitUp_kept
        exact h
    clear_value y5
    extract_lets +onlyGivenNames y7
    clear_value y7
    extract_lets +onlyGivenNames y8
    have hy8 : Kept s0 y8 := by
      subst y8
      split
      · apply erase_kept
        exact hy5
      · exact hy5
    clear_value y8
    extract_lets +onlyGivenNames y10
    have hy10 : Kept s0 y10 := by
      subst y10
      apply setLife_kept
      exact hy8
    clear_value y10
    extract_lets +onlyGivenNames y12
    have hy12 : Kept s0 y12 := by
      subst y12
      apply program_kept
      exact hy10
    clear_value y12
    apply setLife_kept
    exact hy12

end Sys2Proof.Laws
end

