-- ==== Sys2Proof/Laws/KeptDevice.lean ====
section
/-! SUPPORT. The operations of Machine/Device.lean keep what every command keeps. -/

namespace Sys2Proof.Laws

set_option Elab.async false

open Sys2Proof.Machine

variable {s0 : State}

theorem doDevIdentify_kept (c : Cmd) (s : State) (h : Kept s0 s) :
    Kept s0 (doDevIdentify c s) := by
  unfold doDevIdentify
  apply checked_kept
  · intro x5 h6
    apply done_kept
    apply writeBlock_kept
    exact h6
  · exact h

theorem doDevStatus_kept (c : Cmd) (s : State) (h : Kept s0 s) :
    Kept s0 (doDevStatus c s) := by
  unfold doDevStatus
  apply checked_kept
  · intro x5 h6
    apply done_kept
    apply writeBlock_kept
    exact h6
  · exact h

theorem resetLater_kept (scope : Nat) (c : Cmd) (s : State) (h : Kept s0 s) :
    Kept s0 (resetLater scope c s) := by
  unfold resetLater
  apply checked_kept
  · intro x6 h7
    apply done_kept
    exact kept_with h7
  · exact h

theorem clearFenced_kept (n : Fin 20) (s : State) (h : Kept s0 s) :
    Kept s0 (clearFenced n s) := by
  unfold clearFenced
  extract_lets +onlyGivenNames y5
  have hy5 : Kept s0 y5 := by
    subst y5
    apply replaceTile_kept
    exact h
  clear_value y5
  apply forL_kept
  · intro x7 x8 h9
    apply replaceShare_kept
    apply takeOff_kept
    apply releasePower_kept
    exact h9
  · exact hy5

theorem tileSelfTest_kept (n : Fin 20) (passes : Bool) (s : State) (h : Kept s0 s) :
    Kept s0 (tileSelfTest n passes s) := by
  unfold tileSelfTest
  split
  · apply raise_kept
    apply setTile_kept
    exact h
  · apply raise_kept
    apply setTile_kept
    exact h

theorem doResetTile_kept (passes : Bool) (c : Cmd) (s : State) (h : Kept s0 s) :
    Kept s0 (doResetTile passes c s) := by
  unfold doResetTile
  extract_lets +onlyGivenNames y6
  apply checked_kept
  · intro x7 h8
    apply done_kept
    apply tileSelfTest_kept
    apply clearFenced_kept
    exact h8
  · exact h

theorem doResetChannel_kept (c : Cmd) (s : State) (h : Kept s0 s) :
    Kept s0 (doResetChannel c s) := by
  unfold doResetChannel
  extract_lets +onlyGivenNames y5
  clear_value y5
  apply checked_kept
  · intro x6 h7
    split
    · apply wait_kept
      exact h7
    · extract_lets +onlyGivenNames y9
      have hy9 : Kept s0 y9.2 := by
        subst y9
        apply requestPower_kept
        exact h7
      clear_value y9
      apply afterPower_kept
      · dsimp -zeta only
        split
        · apply denyRetrain_kept
          exact hy9
        · exact hy9
      · intro x11 h12
        apply wait_kept
        exact h12
      · intro x11 h12
        apply id_kept
        exact h12
      · intro x11 h12
        apply id_kept
        exact h12
  · exact h

theorem doResetPort_kept (c : Cmd) (s : State) (h : Kept s0 s) :
    Kept s0 (doResetPort c s) := by
  unfold doResetPort
  extract_lets +onlyGivenNames y5
  apply checked_kept
  · intro x6 h7
    extract_lets +onlyGivenNames y8
    have hy8 : Kept s0 y8 := by
      subst y8
      apply wait_kept
      apply portDown_kept
      exact h7
    clear_value y8
    apply trainStart_kept
    apply setPort_kept
    exact hy8
  · exact h

theorem doResetScan_kept (c : Cmd) (s : State) (h : Kept s0 s) :
    Kept s0 (doResetScan c s) := by
  unfold doResetScan
  apply checked_kept
  · intro x5 h6
    apply done_kept
    apply scanReset_kept
    exact h6
  · exact h

theorem doSetTolerance_kept (c : Cmd) (s : State) (h : Kept s0 s) :
    Kept s0 (doSetTolerance c s) := by
  unfold doSetTolerance
  extract_lets +onlyGivenNames y5
  clear_value y5
  apply checked_kept
  · intro x6 h7
    extract_lets +onlyGivenNames y8
    have hy8 : Kept s0 y8 := by
      subst y8
      apply setPower_kept
      exact h7
    clear_value y8
    extract_lets +onlyGivenNames y10
    have hy10 : Kept s0 y10 := by
      subst y10
      split
      · apply doSelfRefreshWake_kept
        exact hy8
      · exact hy8
    clear_value y10
    apply done_kept
    apply settleLull_kept
    exact hy10
  · exact h

theorem doSetLimit_kept (c : Cmd) (s : State) (h : Kept s0 s) :
    Kept s0 (doSetLimit c s) := by
  unfold doSetLimit
  extract_lets +onlyGivenNames y5
  clear_value y5
  apply checked_kept
  · intro x6 h7
    extract_lets +onlyGivenNames y8
    clear_value y8
    extract_lets +onlyGivenNames y9
    have hy9 : Kept s0 y9 := by
      subst y9
      apply setEffective_kept
      apply setPower_kept
      exact h7
    clear_value y9
    apply done_kept
    exact hy9
  · exact h

theorem doPowerQuery_kept (c : Cmd) (s : State) (h : Kept s0 s) :
    Kept s0 (doPowerQuery c s) := by
  unfold doPowerQuery
  apply checked_kept
  · intro x5 h6
    extract_lets +onlyGivenNames y7
    clear_value y7
    extract_lets +onlyGivenNames y8
    have hy8 : Kept s0 y8 := by
      subst y8
      split
      · exact h6
      · apply writeBlock_kept
        exact h6
    clear_value y8
    apply done_kept
    exact hy8
  · exact h

theorem doTimebaseSet_kept (c : Cmd) (s : State) (h : Kept s0 s) :
    Kept s0 (doTimebaseSet c s) := by
  unfold doTimebaseSet
  apply checked_kept
  · intro x5 h6
    split
    · apply wait_kept
      exact h6
    · apply takeTimeSet_kept
      exact h6
  · exact h

theorem selectSource_kept (source ptmMs : Nat) (s : State) (h : Kept s0 s) :
    Kept s0 (selectSource source ptmMs s) := by
  unfold selectSource
  extract_lets +onlyGivenNames y6
  have hy6 : Kept s0 y6 := by
    subst y6
    apply setLoop_kept
    exact h
  clear_value y6
  split
  · exact hy6
  · apply loopRestart_kept
    exact hy6

theorem doDiscipline_kept (c : Cmd) (s : State) (h : Kept s0 s) :
    Kept s0 (doDiscipline c s) := by
  unfold doDiscipline
  extract_lets +onlyGivenNames y5
  clear_value y5
  extract_lets +onlyGivenNames y6
  clear_value y6
  apply checked_kept
  · intro x7 h8
    extract_lets +onlyGivenNames y9
    have hy9 : Kept s0 y9 := by
      subst y9
      apply selectSource_kept
      exact h8
    clear_value y9
    apply done_kept
    exact hy9
  · exact h

end Sys2Proof.Laws
end

