-- ==== Sys2Proof/Laws/KeptEddy.lean ====
section
/-! SUPPORT. The operations of Machine/Eddy.lean keep what every command keeps. -/

namespace Sys2Proof.Laws

set_option Elab.async false

open Sys2Proof.Machine

variable {s0 : State}

theorem densityAdmit_kept (m : Fin 8) (g : MapCfg) (c : Cmd) (s : State) (h : Kept s0 s) :
    Kept s0 (densityAdmit m g c s) := by
  unfold densityAdmit
  extract_lets +onlyGivenNames y7
  clear_value y7
  split
  · apply ifAdmitted_kept
    · intro x16 x17
      refine reserveStore_kept ?_ (by assumption)
      exact h
    · apply complete_kept
      exact h
    · intro x16 h17
      apply done_kept
      apply setMap_kept
      exact h17
  · apply complete_kept
    exact h

theorem doDensityConfigure_kept (cmap : HostRead) (c : Cmd) (s : State) (h : Kept s0 s) :
    Kept s0 (doDensityConfigure cmap c s) := by
  unfold doDensityConfigure
  split
  · apply checked_kept
    · intro x10 h11
      apply id_kept
      exact h11
    · exact h
  · apply checked_kept
    · intro x11 h12
      split
      · apply densityAdmit_kept
        exact h12
      · apply withBuffer_kept
        · intro x14 x15 h16
          apply checked_kept
          · intro x17 h18
            apply densityAdmit_kept
            exact h18
          · exact h16
        · exact h12
    · exact h

theorem removeMap_kept (m : Fin 8) (s : State) (h : Kept s0 s) :
    Kept s0 (removeMap m s) := by
  unfold removeMap
  apply releaseStore_kept
  apply setMap_kept
  exact h

theorem doDensityRemove_kept (c : Cmd) (s : State) (h : Kept s0 s) :
    Kept s0 (doDensityRemove c s) := by
  unfold doDensityRemove
  split
  · apply checked_kept
    · intro x9 h10
      apply id_kept
      exact h10
    · exact h
  · apply checked_kept
    · intro x10 h11
      apply done_kept
      apply removeMap_kept
      exact h11
    · exact h

theorem doDensityQuery_kept (c : Cmd) (s : State) (h : Kept s0 s) :
    Kept s0 (doDensityQuery c s) := by
  unfold doDensityQuery
  split
  · apply checked_kept
    · intro x9 h10
      apply id_kept
      exact h10
    · exact h
  · extract_lets +onlyGivenNames y10
    have hy10 : Kept s0 y10 := by
      subst y10
      apply advanceSweep_kept
      exact h
    clear_value y10
    apply checked_kept
    · intro x12 h13
      apply done_kept
      apply writeBlock_kept
      exact h13
    · exact hy10

theorem doDensityClear_kept (c : Cmd) (s : State) (h : Kept s0 s) :
    Kept s0 (doDensityClear c s) := by
  unfold doDensityClear
  extract_lets +onlyGivenNames y5
  clear_value y5
  extract_lets +onlyGivenNames y6
  clear_value y6
  apply checked_kept
  · intro x7 h8
    extract_lets +onlyGivenNames y9
    have hy9 : Kept s0 y9 := by
      subst y9
      apply wait_kept
      exact h8
    clear_value y9
    exact kept_with hy9
  · exact h

theorem doDensityClearSweep_kept (s : State) (h : Kept s0 s) :
    Kept s0 (doDensityClearSweep s) := by
  unfold doDensityClearSweep
  split
  · exact h
  · extract_lets +onlyGivenNames y9
    have hy9 : Kept s0 y9 := by
      subst y9
      apply waitTick_kept
      exact h
    clear_value y9
    extract_lets +onlyGivenNames y11
    clear_value y11
    extract_lets +onlyGivenNames y12
    have hy12 : Kept s0 y12 := by
      subst y12
      exact kept_with hy9
    clear_value y12
    extract_lets +onlyGivenNames y14
    have hy14 : Kept s0 y14 := by
      subst y14
      apply forL_kept
      · intro x14 x15 h16
        split
        · exact h16
        · apply clearMap_kept
          apply finishSweep_kept
          split
          · apply mapBoundary_kept
            exact h16
          · apply advanceSweep_kept
            exact h16
      · exact hy12
    clear_value y14
    split
    · apply done_kept
      exact hy14
    · exact hy14

theorem doDensityExportBoundary_kept (m : Fin 8) (s : State) (h : Kept s0 s) :
    Kept s0 (doDensityExportBoundary m s) := by
  unfold doDensityExportBoundary
  split
  · exact h
  · extract_lets +onlyGivenNames y10
    clear_value y10
    apply mapBoundary_kept
    apply waitTick_kept
    exact h

theorem sweepOut_kept (m : Fin 8) (s : State) (h : Kept s0 s) :
    Kept s0 (sweepOut m s) := by
  unfold sweepOut
  split
  · apply finishSweep_kept
    apply waitUp_kept
    exact h
  · exact h

theorem doExportWritesAccepted_kept (m : Fin 8) (s : State) (h : Kept s0 s) :
    Kept s0 (doExportWritesAccepted m s) := by
  unfold doExportWritesAccepted
  split
  · exact h
  · extract_lets +onlyGivenNames y6
    have hy6 : Kept s0 y6 := by
      subst y6
      apply storeAsk_kept
      apply sweepOut_kept
      exact h
    clear_value y6
    split
    · apply exportAccepted_kept
      exact hy6
    · exact hy6

end Sys2Proof.Laws
end

