-- ==== Sys2Proof/Laws/KeptService.lean ====
section
/-! SUPPORT. The operations of Machine/Service.lean keep what every command keeps. -/

namespace Sys2Proof.Laws

set_option Elab.async false

open Sys2Proof.Machine

variable {s0 : State}

theorem addRoute_kept (r : EventRoute) (s : State) (h : Kept s0 s) :
    Kept s0 (addRoute r s) := by
  unfold addRoute
  exact kept_with h

theorem doEventRoute_kept (c : Cmd) (s : State) (h : Kept s0 s) :
    Kept s0 (doEventRoute c s) := by
  unfold doEventRoute
  extract_lets +onlyGivenNames y5
  clear_value y5
  extract_lets +onlyGivenNames y6
  clear_value y6
  apply checked_kept
  · intro x7 h8
    apply done_kept
    apply addRoute_kept
    exact h8
  · exact h

theorem maskRange_kept (on : Bool) (lo hi : Nat) (s : State) (h : Kept s0 s) :
    Kept s0 (maskRange on lo hi s) := by
  unfold maskRange
  apply forN_kept
  · intro x7 x8 h9
    extract_lets +onlyGivenNames y10
    clear_value y10
    split
    · exact h9
    · apply State_setMask_kept
      exact h9
  · exact h

theorem doEventMask_kept (on : Bool) (c : Cmd) (s : State) (h : Kept s0 s) :
    Kept s0 (doEventMask on c s) := by
  unfold doEventMask
  apply checked_kept
  · intro x6 h7
    apply done_kept
    apply maskRange_kept
    exact h7
  · exact h

theorem doEventMaskQuery_kept (c : Cmd) (s : State) (h : Kept s0 s) :
    Kept s0 (doEventMaskQuery c s) := by
  unfold doEventMaskQuery
  apply checked_kept
  · intro x5 h6
    apply done_kept
    apply writeBlock_kept
    exact h6
  · exact h

theorem doCalStatus_kept (c : Cmd) (s : State) (h : Kept s0 s) :
    Kept s0 (doCalStatus c s) := by
  unfold doCalStatus
  apply checked_kept
  · intro x5 h6
    apply done_kept
    exact h6
  · exact h

theorem doPathTest_kept (p : PathCodes) (c : Cmd) (s : State) (h : Kept s0 s) :
    Kept s0 (doPathTest p c s) := by
  unfold doPathTest
  extract_lets +onlyGivenNames y6
  clear_value y6
  extract_lets +onlyGivenNames y7
  clear_value y7
  apply checked_kept
  · intro x8 h9
    extract_lets +onlyGivenNames y10
    clear_value y10
    extract_lets +onlyGivenNames y11
    clear_value y11
    extract_lets +onlyGivenNames y12
    have hy12 : Kept s0 y12 := by
      subst y12
      exact kept_with h9
    clear_value y12
    extract_lets +onlyGivenNames y14
    have hy14 : Kept s0 y14 := by
      subst y14
      split
      · exact hy12
      · apply raise_kept
        exact hy12
    clear_value y14
    apply done_kept
    exact hy14
  · exact h

theorem doMonitorSummary_kept (c : Cmd) (s : State) (h : Kept s0 s) :
    Kept s0 (doMonitorSummary c s) := by
  unfold doMonitorSummary
  apply checked_kept
  · intro x5 h6
    apply done_kept
    apply writeBlock_kept
    exact h6
  · exact h

theorem openUpdate_kept (length : Nat) (monitor : Bool) (s : State) (h : Kept s0 s) :
    Kept s0 (openUpdate length monitor s) := by
  unfold openUpdate
  extract_lets +onlyGivenNames y6
  clear_value y6
  extract_lets +onlyGivenNames y7
  have hy7 : Kept s0 y7 := by
    subst y7
    apply erase_kept
    exact h
  clear_value y7
  extract_lets +onlyGivenNames y9
  have hy9 : Kept s0 y9 := by
    subst y9
    apply setBoot_kept
    · rfl
    · rfl
    · exact hy7
  clear_value y9
  apply raise_kept
  exact hy9

theorem failUpdate_kept (aux : Nat) (s : State) (h : Kept s0 s) :
    Kept s0 (failUpdate aux s) := by
  unfold failUpdate
  apply raise_kept
  apply setBoot_kept
  · rfl
  · rfl
  · exact h

theorem programNext_kept (u : UpdateSession) (d : Data) (s : State) (h : Kept s0 s) :
    Kept s0 (programNext u d s) := by
  unfold programNext
  apply setBoot_kept
  · rfl
  · rfl
  · apply program_kept
    exact h

theorem doUpdateBegin_kept (c : Cmd) (s : State) (h : Kept s0 s) :
    Kept s0 (doUpdateBegin c s) := by
  unfold doUpdateBegin
  extract_lets +onlyGivenNames y5
  clear_value y5
  apply checked_kept
  · intro x6 h7
    apply done_kept
    apply openUpdate_kept
    exact h7
  · exact h

theorem doUpdateData_kept (data : HostRead) (readBackOk : Bool) (c : Cmd) (s : State) (h : Kept s0 s) :
    Kept s0 (doUpdateData data readBackOk c s) := by
  unfold doUpdateData
  extract_lets +onlyGivenNames y7
  clear_value y7
  split
  · apply checked_kept
    · intro x12 h13
      apply id_kept
      exact h13
    · exact h
  · apply checked_kept
    · intro x13 h14
      apply withBuffer_kept
      · intro x15 x16 h17
        extract_lets +onlyGivenNames y18
        clear_value y18
        split
        · apply done_kept
          apply programNext_kept
          exact h17
        · extract_lets +onlyGivenNames y20
          have hy20 : Kept s0 y20.2 := by
            subst y20
            apply freeBytes_kept
            exact h17
          clear_value y20
          apply complete_kept
          apply failUpdate_kept
          apply programNext_kept
          exact hy20
      · exact h14
    · exact h

theorem doUpdateFinish_kept (checks : CryptoChecks) (c : Cmd) (s : State) (h : Kept s0 s) :
    Kept s0 (doUpdateFinish checks c s) := by
  unfold doUpdateFinish
  split
  · apply checked_kept
    · intro x10 h11
      apply id_kept
      exact h11
    · exact h
  · apply checked_kept
    · intro x11 h12
      split
      · apply complete_kept
        apply failUpdate_kept
        exact h12
      · extract_lets +onlyGivenNames y17
        clear_value y17
        apply done_kept
        apply switchSlot_kept
        apply setBoot_kept
        · rfl
        · rfl
        · exact h12
    · exact h

theorem quote_kept (nonce : Data) (s : State) (h : Kept s0 s) :
    Kept s0 (quote nonce s).2 := by
  unfold quote
  extract_lets +onlyGivenNames y5
  clear_value y5
  extract_lets +onlyGivenNames y6
  clear_value y6
  extract_lets +onlyGivenNames y7
  have hy7 : Kept s0 y7.2 := by
    subst y7
    apply freeBytes_kept
    exact h
  clear_value y7
  exact hy7

theorem doAttestQuote_kept (c : Cmd) (s : State) (h : Kept s0 s) :
    Kept s0 (doAttestQuote c s) := by
  unfold doAttestQuote
  extract_lets +onlyGivenNames y5
  clear_value y5
  apply checked_kept
  · intro x6 h7
    extract_lets +onlyGivenNames y8
    have hy8 : Kept s0 y8 := by
      subst y8
      apply setBoot_kept
      · rfl
      · rfl
      · exact h7
    clear_value y8
    extract_lets +onlyGivenNames y10
    have hy10 : Kept s0 y10.2 := by
      subst y10
      apply quote_kept
      exact hy8
    clear_value y10
    apply done_kept
    apply writeBlock_kept
    exact hy10
  · exact h

theorem tokenActs_kept (kind : Nat) (d : Data) (s : State) (h : Kept s0 s) : Kept s0 (tokenActs kind d s).2 := by
  unfold tokenActs
  split
  · exact program_kept _ _ (erase_kept _ _ _ h)
  · split
    · apply erase_kept
      exact ⟨h.regs, h.host, h.store, h.flash, h.tick, h.pending,
        FusesGrow_trans h.fuses ⟨rfl, rfl, id, Nat.le_refl _, Nat.le_succ _, rfl, rfl⟩, h.trims⟩
    · exact ⟨h.regs, h.host, h.store, h.flash, h.tick, h.pending,
        FusesGrow_trans h.fuses ⟨rfl, rfl, fun _ => rfl, Nat.le_refl _, Nat.le_refl _, rfl, rfl⟩, h.trims⟩

theorem tokenReject_kept (c : Cmd) (status aux : Nat) (s : State) (h : Kept s0 s) :
    Kept s0 (tokenReject c status aux s) := by
  unfold tokenReject
  apply complete_kept
  apply raise_kept
  exact h

theorem tokenUsed_kept (c : Cmd) (signatureOk : Bool) (d : Data) (s : State) (h : Kept s0 s) :
    Kept s0 (tokenUsed c signatureOk d s) := by
  unfold tokenUsed
  extract_lets +onlyGivenNames y7
  clear_value y7
  split
  · apply tokenReject_kept
    exact h
  · split
    · apply tokenReject_kept
      exact h
    · split
      · apply tokenReject_kept
        exact h
      · split
        · apply tokenReject_kept
          exact h
        · extract_lets +onlyGivenNames y12
          have hy12 : Kept s0 y12.2 := by
            subst y12
            apply tokenActs_kept
            exact h
          clear_value y12
          apply done_kept
          apply raise_kept
          exact hy12

theorem doLifecycle_kept (token : HostRead) (signatureOk : Bool) (c : Cmd) (s : State) (h : Kept s0 s) :
    Kept s0 (doLifecycle token signatureOk c s) := by
  unfold doLifecycle
  apply checked_kept
  · intro x7 h8
    apply withBuffer_kept
    · intro x9 x10 h11
      apply tokenUsed_kept
      exact h11
    · exact h8
  · exact h

end Sys2Proof.Laws
end

