-- ==== Sys2Proof/Laws/KeptFynal.lean ====
section
/-! SUPPORT. The operations of Machine/Fynal.lean keep what every command keeps. -/

namespace Sys2Proof.Laws

set_option Elab.async false

open Sys2Proof.Machine

variable {s0 : State}

theorem setFynal_kept (f : Fynal → Fynal) (s : State) (h : Kept s0 s) :
    Kept s0 (setFynal f s) := by
  unfold setFynal
  exact kept_with h

theorem say_kept (lines : List String) (s : State) (h : Kept s0 s) :
    Kept s0 (say lines s) := by
  unfold say
  apply setFynal_kept
  exact h

theorem answerOk_kept (lines : List String) (s : State) (h : Kept s0 s) :
    Kept s0 (answerOk lines s) := by
  unfold answerOk
  apply say_kept
  exact h

theorem answerErr_kept (n : Nat) (text : String) (s : State) (h : Kept s0 s) :
    Kept s0 (answerErr n text s) := by
  unfold answerErr
  apply say_kept
  exact h

theorem errArg_kept (s : State) (h : Kept s0 s) :
    Kept s0 (errArg s) := by
  unfold errArg
  apply answerErr_kept
  exact h

theorem errLifecycle_kept (s : State) (h : Kept s0 s) :
    Kept s0 (errLifecycle s) := by
  unfold errLifecycle
  apply answerErr_kept
  exact h

theorem errBusy_kept (s : State) (h : Kept s0 s) :
    Kept s0 (errBusy s) := by
  unfold errBusy
  apply answerErr_kept
  exact h

theorem errFailed_kept (aux : Nat) (s : State) (h : Kept s0 s) :
    Kept s0 (errFailed aux s) := by
  unfold errFailed
  apply answerErr_kept
  exact h

theorem monitorRow_kept (recovery : Bool) (f : State → State) (s : State) (hf : ∀ s, Kept s0 s → Kept s0 (f s)) (h : Kept s0 s) :
    Kept s0 (monitorRow recovery f s) := by
  unfold monitorRow
  split
  · apply hf
    apply wakeLull_kept
    exact h
  · exact h

theorem doFynalEvents_kept (n : Nat) (s : State) (h : Kept s0 s) :
    Kept s0 (doFynalEvents n s) := by
  unfold doFynalEvents
  split
  · apply errArg_kept
    exact h
  · apply answerOk_kept
    exact h

theorem doFynalTrace_kept (n : Fin 20) (s : State) (h : Kept s0 s) :
    Kept s0 (doFynalTrace n s) := by
  unfold doFynalTrace
  split
  · apply errLifecycle_kept
    exact h
  · apply answerOk_kept
    exact h

theorem doFynalUcode_kept (tile : Fin 20) (a n : Nat) (s : State) (h : Kept s0 s) :
    Kept s0 (doFynalUcode tile a n s) := by
  unfold doFynalUcode
  split
  · apply errLifecycle_kept
    exact h
  · split
    · apply errArg_kept
      exact h
    · apply answerOk_kept
      exact h

theorem doFynalPeek_kept (space a n : Nat) (s : State) (h : Kept s0 s) :
    Kept s0 (doFynalPeek space a n s) := by
  unfold doFynalPeek
  split
  · apply errArg_kept
    exact h
  · split
    · apply errLifecycle_kept
      exact h
    · extract_lets +onlyGivenNames y9
      have hy9 : Kept s0 y9 := by
        subst y9
        split
        · apply storeAwake_kept
          exact h
        · exact h
      clear_value y9
      split
      · apply errFailed_kept
        exact hy9
      · apply answerOk_kept
        exact hy9

theorem pokeWord_kept (space a : Nat) (v : U32) (s : State) (h : Kept s0 s) :
    Kept s0 (pokeWord space a v s) := by
  unfold pokeWord
  split
  · apply writeReg_kept
    exact h
  · split
    · apply writeBar_kept
      exact h
    · split
      · apply storeWrite_kept
        exact h
      · exact h

theorem doFynalPoke_kept (space a : Nat) (v : U32) (s : State) (h : Kept s0 s) :
    Kept s0 (doFynalPoke space a v s) := by
  unfold doFynalPoke
  split
  · apply errLifecycle_kept
    exact h
  · split
    · apply errArg_kept
      exact h
    · split
      · apply errLifecycle_kept
        exact h
      · extract_lets +onlyGivenNames y10
        have hy10 : Kept s0 y10 := by
          subst y10
          split
          · apply storeAwake_kept
            exact h
          · exact h
        clear_value y10
        split
        · apply errFailed_kept
          exact hy10
        · extract_lets +onlyGivenNames y13
          have hy13 : Kept s0 y13 := by
            subst y13
            apply setFynal_kept
            apply pokeWord_kept
            exact hy10
          clear_value y13
          apply answerOk_kept
          apply raise_kept
          exact hy13

theorem doFynalBaud_kept (rate : Nat) (s : State) (h : Kept s0 s) :
    Kept s0 (doFynalBaud rate s) := by
  unfold doFynalBaud
  split
  · apply errArg_kept
    exact h
  · apply setFynal_kept
    apply answerOk_kept
    exact h

theorem doBaudSwitch_kept (s : State) (h : Kept s0 s) :
    Kept s0 (doBaudSwitch s) := by
  unfold doBaudSwitch
  split
  · apply setFynal_kept
    apply waitUp_kept
    exact h
  · exact h

theorem askPiece_kept (offset : Nat) (s : State) (h : Kept s0 s) :
    Kept s0 (askPiece offset s) := by
  unfold askPiece
  apply say_kept
  exact h

theorem doFynalUpdate_kept (length : Nat) (s : State) (h : Kept s0 s) :
    Kept s0 (doFynalUpdate length s) := by
  unfold doFynalUpdate
  split
  · apply errBusy_kept
    exact h
  · split
    · apply errArg_kept
      exact h
    · apply askPiece_kept
      apply openUpdate_kept
      exact h

theorem finishMonitor_kept (u : UpdateSession) (checks : CryptoChecks) (s : State) (h : Kept s0 s) :
    Kept s0 (finishMonitor u checks s) := by
  unfold finishMonitor
  split
  · apply errFailed_kept
    apply failUpdate_kept
    exact h
  · extract_lets +onlyGivenNames y10
    have hy10 : Kept s0 y10 := by
      subst y10
      apply switchSlot_kept
      apply setBoot_kept
      · rfl
      · rfl
      · exact h
    clear_value y10
    apply answerOk_kept
    apply setFynal_kept
    exact hy10

theorem doFynalPiece_kept (piece : Data) (crcOk readBackOk : Bool) (checks : CryptoChecks) (s : State) (h : Kept s0 s) :
    Kept s0 (doFynalPiece piece crcOk readBackOk checks s) := by
  unfold doFynalPiece
  split
  · exact h
  · split
    · exact h
    · split
      · apply askPiece_kept
        exact h
      · extract_lets +onlyGivenNames y15
        clear_value y15
        extract_lets +onlyGivenNames y16
        have hy16 : Kept s0 y16.2 := by
          subst y16
          apply freeBytes_kept
          exact h
        clear_value y16
        extract_lets +onlyGivenNames y18
        have hy18 : Kept s0 y18.2 := by
          subst y18
          split
          · exact h
          · exact hy16
        clear_value y18
        extract_lets +onlyGivenNames y20
        have hy20 : Kept s0 y20 := by
          subst y20
          apply programNext_kept
          exact hy18
        clear_value y20
        split
        · apply errFailed_kept
          apply failUpdate_kept
          exact hy20
        · split
          · apply askPiece_kept
            exact hy20
          · apply finishMonitor_kept
            exact hy20

theorem doFynalRestart_kept (s : State) (h : Kept s0 s) :
    Kept s0 (doFynalRestart s) := by
  unfold doFynalRestart
  split
  · apply fullReset_kept
    apply waitUp_kept
    exact h
  · exact h

theorem losePins_kept (s : State) (h : Kept s0 s) :
    Kept s0 (losePins s) := by
  unfold losePins
  extract_lets +onlyGivenNames y4
  have hy4 : Kept s0 y4 := by
    subst y4
    apply forL_kept
    · intro x4 x5 h6
      apply forL_kept
      · intro x7 x8 h9
        apply doLaneSyncLoss_kept
        exact h9
      · exact h6
    · exact h
  clear_value y4
  extract_lets +onlyGivenNames y6
  have hy6 : Kept s0 y6 := by
    subst y6
    apply forL_kept
    · intro x6 x7 h8
      apply portDown_kept
      exact h8
    · exact hy4
  clear_value y6
  apply doHpdUnplug_kept
  apply doHotReset_kept
  exact hy6

theorem doJtagLoad_kept (code : Byte) (s : State) (h : Kept s0 s) :
    Kept s0 (doJtagLoad code s) := by
  unfold doJtagLoad
  extract_lets +onlyGivenNames y5
  extract_lets +onlyGivenNames y6
  extract_lets +onlyGivenNames y7
  have hy7 : Kept s0 y7 := by
    subst y7
    exact kept_with h
  split
  · exact hy7
  · apply losePins_kept
    apply raise_kept
    exact kept_with hy7

end Sys2Proof.Laws
end

