-- ==== Sys2Proof/Laws/KeptSequencer.lean ====
section
/-! SUPPORT. The operations of Machine/Sequencer.lean keep what every command keeps. -/

namespace Sys2Proof.Laws

set_option Elab.async false

open Sys2Proof.Machine

variable {s0 : State}

theorem clockTiles_kept (s : State) (h : Kept s0 s) :
    Kept s0 (clockTiles s) := by
  unfold clockTiles
  apply forL_kept
  · intro x4 x5 h6
    split
    · apply setTile_kept
      exact h6
    · exact h6
  · exact h

theorem idleCycle_kept (s : State) (h : Kept s0 s) :
    Kept s0 (idleCycle s) := by
  unfold idleCycle
  apply squallDue_kept
  apply idleWork_kept
  split
  · exact h
  · apply clockTiles_kept
    exact h

end Sys2Proof.Laws
end

