-- ==== Sys2Proof/Laws/State.lean ====
section
/-! SUPPORT. What each named update of the state changes, field by field: no proof need unfold a record update. -/

namespace Sys2Proof.Laws

open Sys2Proof.Machine

variable (s : State)

@[simp] theorem setClk_pending (f : Clock → Clock) : (setClk f s).pending = s.pending := rfl
@[simp] theorem setClk_free (f : Clock → Clock) : (setClk f s).free = s.free := rfl
@[simp] theorem setClk_clk (f : Clock → Clock) : (setClk f s).clk = f s.clk := rfl
@[simp] theorem setClk_pwr (f : Clock → Clock) : (setClk f s).pwr = s.pwr := rfl
@[simp] theorem setClk_mbx (f : Clock → Clock) : (setClk f s).mbx = s.mbx := rfl
@[simp] theorem setClk_evt (f : Clock → Clock) : (setClk f s).evt = s.evt := rfl
@[simp] theorem setClk_pcie (f : Clock → Clock) : (setClk f s).pcie = s.pcie := rfl
@[simp] theorem setClk_regs (f : Clock → Clock) : (setClk f s).regs = s.regs := rfl
@[simp] theorem setClk_host (f : Clock → Clock) : (setClk f s).host = s.host := rfl
@[simp] theorem setClk_store (f : Clock → Clock) : (setClk f s).store = s.store := rfl
@[simp] theorem setClk_inlets (f : Clock → Clock) : (setClk f s).inlets = s.inlets := rfl
@[simp] theorem setClk_tasks (f : Clock → Clock) : (setClk f s).tasks = s.tasks := rfl
@[simp] theorem setClk_nextTask (f : Clock → Clock) : (setClk f s).nextTask = s.nextTask := rfl
@[simp] theorem setClk_xcorrs (f : Clock → Clock) : (setClk f s).xcorrs = s.xcorrs := rfl
@[simp] theorem setClk_tiles (f : Clock → Clock) : (setClk f s).tiles = s.tiles := rfl
@[simp] theorem setClk_cs (f : Clock → Clock) : (setClk f s).cs = s.cs := rfl
@[simp] theorem setClk_squall (f : Clock → Clock) : (setClk f s).squall = s.squall := rfl
@[simp] theorem setClk_eddy (f : Clock → Clock) : (setClk f s).eddy = s.eddy := rfl
@[simp] theorem setClk_scn (f : Clock → Clock) : (setClk f s).scn = s.scn := rfl
@[simp] theorem setClk_tw (f : Clock → Clock) : (setClk f s).tw = s.tw := rfl
@[simp] theorem setClk_drt (f : Clock → Clock) : (setClk f s).drt = s.drt := rfl
@[simp] theorem setClk_link (f : Clock → Clock) : (setClk f s).link = s.link := rfl
@[simp] theorem setClk_cal (f : Clock → Clock) : (setClk f s).cal = s.cal := rfl
@[simp] theorem setClk_brz (f : Clock → Clock) : (setClk f s).brz = s.brz := rfl
@[simp] theorem setClk_boot (f : Clock → Clock) : (setClk f s).boot = s.boot := rfl
@[simp] theorem setClk_fynal (f : Clock → Clock) : (setClk f s).fynal = s.fynal := rfl
@[simp] theorem setClk_jtag (f : Clock → Clock) : (setClk f s).jtag = s.jtag := rfl
@[simp] theorem setClk_life (f : Clock → Clock) : (setClk f s).life = s.life := rfl
@[simp] theorem setClk_fw (f : Clock → Clock) : (setClk f s).fw = s.fw := rfl

@[simp] theorem setLoop_pending (f : Loop → Loop) : (setLoop f s).pending = s.pending := rfl
@[simp] theorem setLoop_free (f : Loop → Loop) : (setLoop f s).free = s.free := rfl
@[simp] theorem setLoop_clk (f : Loop → Loop) : (setLoop f s).clk = { s.clk with loop := f s.clk.loop } := rfl
@[simp] theorem setLoop_pwr (f : Loop → Loop) : (setLoop f s).pwr = s.pwr := rfl
@[simp] theorem setLoop_mbx (f : Loop → Loop) : (setLoop f s).mbx = s.mbx := rfl
@[simp] theorem setLoop_evt (f : Loop → Loop) : (setLoop f s).evt = s.evt := rfl
@[simp] theorem setLoop_pcie (f : Loop → Loop) : (setLoop f s).pcie = s.pcie := rfl
@[simp] theorem setLoop_regs (f : Loop → Loop) : (setLoop f s).regs = s.regs := rfl
@[simp] theorem setLoop_host (f : Loop → Loop) : (setLoop f s).host = s.host := rfl
@[simp] theorem setLoop_store (f : Loop → Loop) : (setLoop f s).store = s.store := rfl
@[simp] theorem setLoop_inlets (f : Loop → Loop) : (setLoop f s).inlets = s.inlets := rfl
@[simp] theorem setLoop_tasks (f : Loop → Loop) : (setLoop f s).tasks = s.tasks := rfl
@[simp] theorem setLoop_nextTask (f : Loop → Loop) : (setLoop f s).nextTask = s.nextTask := rfl
@[simp] theorem setLoop_xcorrs (f : Loop → Loop) : (setLoop f s).xcorrs = s.xcorrs := rfl
@[simp] theorem setLoop_tiles (f : Loop → Loop) : (setLoop f s).tiles = s.tiles := rfl
@[simp] theorem setLoop_cs (f : Loop → Loop) : (setLoop f s).cs = s.cs := rfl
@[simp] theorem setLoop_squall (f : Loop → Loop) : (setLoop f s).squall = s.squall := rfl
@[simp] theorem setLoop_eddy (f : Loop → Loop) : (setLoop f s).eddy = s.eddy := rfl
@[simp] theorem setLoop_scn (f : Loop → Loop) : (setLoop f s).scn = s.scn := rfl
@[simp] theorem setLoop_tw (f : Loop → Loop) : (setLoop f s).tw = s.tw := rfl
@[simp] theorem setLoop_drt (f : Loop → Loop) : (setLoop f s).drt = s.drt := rfl
@[simp] theorem setLoop_link (f : Loop → Loop) : (setLoop f s).link = s.link := rfl
@[simp] theorem setLoop_cal (f : Loop → Loop) : (setLoop f s).cal = s.cal := rfl
@[simp] theorem setLoop_brz (f : Loop → Loop) : (setLoop f s).brz = s.brz := rfl
@[simp] theorem setLoop_boot (f : Loop → Loop) : (setLoop f s).boot = s.boot := rfl
@[simp] theorem setLoop_fynal (f : Loop → Loop) : (setLoop f s).fynal = s.fynal := rfl
@[simp] theorem setLoop_jtag (f : Loop → Loop) : (setLoop f s).jtag = s.jtag := rfl
@[simp] theorem setLoop_life (f : Loop → Loop) : (setLoop f s).life = s.life := rfl
@[simp] theorem setLoop_fw (f : Loop → Loop) : (setLoop f s).fw = s.fw := rfl

@[simp] theorem setSynth_pending (k : Nat) (f : Synth → Synth) : (setSynth k f s).pending = s.pending := rfl
@[simp] theorem setSynth_free (k : Nat) (f : Synth → Synth) : (setSynth k f s).free = s.free := rfl
@[simp] theorem setSynth_clk (k : Nat) (f : Synth → Synth) : (setSynth k f s).clk = { s.clk with synths := vmodN s.clk.synths k f } := rfl
@[simp] theorem setSynth_pwr (k : Nat) (f : Synth → Synth) : (setSynth k f s).pwr = s.pwr := rfl
@[simp] theorem setSynth_mbx (k : Nat) (f : Synth → Synth) : (setSynth k f s).mbx = s.mbx := rfl
@[simp] theorem setSynth_evt (k : Nat) (f : Synth → Synth) : (setSynth k f s).evt = s.evt := rfl
@[simp] theorem setSynth_pcie (k : Nat) (f : Synth → Synth) : (setSynth k f s).pcie = s.pcie := rfl
@[simp] theorem setSynth_regs (k : Nat) (f : Synth → Synth) : (setSynth k f s).regs = s.regs := rfl
@[simp] theorem setSynth_host (k : Nat) (f : Synth → Synth) : (setSynth k f s).host = s.host := rfl
@[simp] theorem setSynth_store (k : Nat) (f : Synth → Synth) : (setSynth k f s).store = s.store := rfl
@[simp] theorem setSynth_inlets (k : Nat) (f : Synth → Synth) : (setSynth k f s).inlets = s.inlets := rfl
@[simp] theorem setSynth_tasks (k : Nat) (f : Synth → Synth) : (setSynth k f s).tasks = s.tasks := rfl
@[simp] theorem setSynth_nextTask (k : Nat) (f : Synth → Synth) : (setSynth k f s).nextTask = s.nextTask := rfl
@[simp] theorem setSynth_xcorrs (k : Nat) (f : Synth → Synth) : (setSynth k f s).xcorrs = s.xcorrs := rfl
@[simp] theorem setSynth_tiles (k : Nat) (f : Synth → Synth) : (setSynth k f s).tiles = s.tiles := rfl
@[simp] theorem setSynth_cs (k : Nat) (f : Synth → Synth) : (setSynth k f s).cs = s.cs := rfl
@[simp] theorem setSynth_squall (k : Nat) (f : Synth → Synth) : (setSynth k f s).squall = s.squall := rfl
@[simp] theorem setSynth_eddy (k : Nat) (f : Synth → Synth) : (setSynth k f s).eddy = s.eddy := rfl
@[simp] theorem setSynth_scn (k : Nat) (f : Synth → Synth) : (setSynth k f s).scn = s.scn := rfl
@[simp] theorem setSynth_tw (k : Nat) (f : Synth → Synth) : (setSynth k f s).tw = s.tw := rfl
@[simp] theorem setSynth_drt (k : Nat) (f : Synth → Synth) : (setSynth k f s).drt = s.drt := rfl
@[simp] theorem setSynth_link (k : Nat) (f : Synth → Synth) : (setSynth k f s).link = s.link := rfl
@[simp] theorem setSynth_cal (k : Nat) (f : Synth → Synth) : (setSynth k f s).cal = s.cal := rfl
@[simp] theorem setSynth_brz (k : Nat) (f : Synth → Synth) : (setSynth k f s).brz = s.brz := rfl
@[simp] theorem setSynth_boot (k : Nat) (f : Synth → Synth) : (setSynth k f s).boot = s.boot := rfl
@[simp] theorem setSynth_fynal (k : Nat) (f : Synth → Synth) : (setSynth k f s).fynal = s.fynal := rfl
@[simp] theorem setSynth_jtag (k : Nat) (f : Synth → Synth) : (setSynth k f s).jtag = s.jtag := rfl
@[simp] theorem setSynth_life (k : Nat) (f : Synth → Synth) : (setSynth k f s).life = s.life := rfl
@[simp] theorem setSynth_fw (k : Nat) (f : Synth → Synth) : (setSynth k f s).fw = s.fw := rfl

@[simp] theorem setPower_pending (f : Power → Power) : (setPower f s).pending = s.pending := rfl
@[simp] theorem setPower_free (f : Power → Power) : (setPower f s).free = s.free := rfl
@[simp] theorem setPower_clk (f : Power → Power) : (setPower f s).clk = s.clk := rfl
@[simp] theorem setPower_pwr (f : Power → Power) : (setPower f s).pwr = f s.pwr := rfl
@[simp] theorem setPower_mbx (f : Power → Power) : (setPower f s).mbx = s.mbx := rfl
@[simp] theorem setPower_evt (f : Power → Power) : (setPower f s).evt = s.evt := rfl
@[simp] theorem setPower_pcie (f : Power → Power) : (setPower f s).pcie = s.pcie := rfl
@[simp] theorem setPower_regs (f : Power → Power) : (setPower f s).regs = s.regs := rfl
@[simp] theorem setPower_host (f : Power → Power) : (setPower f s).host = s.host := rfl
@[simp] theorem setPower_store (f : Power → Power) : (setPower f s).store = s.store := rfl
@[simp] theorem setPower_inlets (f : Power → Power) : (setPower f s).inlets = s.inlets := rfl
@[simp] theorem setPower_tasks (f : Power → Power) : (setPower f s).tasks = s.tasks := rfl
@[simp] theorem setPower_nextTask (f : Power → Power) : (setPower f s).nextTask = s.nextTask := rfl
@[simp] theorem setPower_xcorrs (f : Power → Power) : (setPower f s).xcorrs = s.xcorrs := rfl
@[simp] theorem setPower_tiles (f : Power → Power) : (setPower f s).tiles = s.tiles := rfl
@[simp] theorem setPower_cs (f : Power → Power) : (setPower f s).cs = s.cs := rfl
@[simp] theorem setPower_squall (f : Power → Power) : (setPower f s).squall = s.squall := rfl
@[simp] theorem setPower_eddy (f : Power → Power) : (setPower f s).eddy = s.eddy := rfl
@[simp] theorem setPower_scn (f : Power → Power) : (setPower f s).scn = s.scn := rfl
@[simp] theorem setPower_tw (f : Power → Power) : (setPower f s).tw = s.tw := rfl
@[simp] theorem setPower_drt (f : Power → Power) : (setPower f s).drt = s.drt := rfl
@[simp] theorem setPower_link (f : Power → Power) : (setPower f s).link = s.link := rfl
@[simp] theorem setPower_cal (f : Power → Power) : (setPower f s).cal = s.cal := rfl
@[simp] theorem setPower_brz (f : Power → Power) : (setPower f s).brz = s.brz := rfl
@[simp] theorem setPower_boot (f : Power → Power) : (setPower f s).boot = s.boot := rfl
@[simp] theorem setPower_fynal (f : Power → Power) : (setPower f s).fynal = s.fynal := rfl
@[simp] theorem setPower_jtag (f : Power → Power) : (setPower f s).jtag = s.jtag := rfl
@[simp] theorem setPower_life (f : Power → Power) : (setPower f s).life = s.life := rfl
@[simp] theorem setPower_fw (f : Power → Power) : (setPower f s).fw = s.fw := rfl

@[simp] theorem setCmd_pending (id : Nat) (f : Cmd → Cmd) : (setCmd id f s).pending = s.pending := rfl
@[simp] theorem setCmd_free (id : Nat) (f : Cmd → Cmd) : (setCmd id f s).free = s.free := rfl
@[simp] theorem setCmd_clk (id : Nat) (f : Cmd → Cmd) : (setCmd id f s).clk = s.clk := rfl
@[simp] theorem setCmd_pwr (id : Nat) (f : Cmd → Cmd) : (setCmd id f s).pwr = s.pwr := rfl
@[simp] theorem setCmd_mbx (id : Nat) (f : Cmd → Cmd) : (setCmd id f s).mbx = { s.mbx with cmds := lmod s.mbx.cmds (·.id = id) f } := rfl
@[simp] theorem setCmd_evt (id : Nat) (f : Cmd → Cmd) : (setCmd id f s).evt = s.evt := rfl
@[simp] theorem setCmd_pcie (id : Nat) (f : Cmd → Cmd) : (setCmd id f s).pcie = s.pcie := rfl
@[simp] theorem setCmd_regs (id : Nat) (f : Cmd → Cmd) : (setCmd id f s).regs = s.regs := rfl
@[simp] theorem setCmd_host (id : Nat) (f : Cmd → Cmd) : (setCmd id f s).host = s.host := rfl
@[simp] theorem setCmd_store (id : Nat) (f : Cmd → Cmd) : (setCmd id f s).store = s.store := rfl
@[simp] theorem setCmd_inlets (id : Nat) (f : Cmd → Cmd) : (setCmd id f s).inlets = s.inlets := rfl
@[simp] theorem setCmd_tasks (id : Nat) (f : Cmd → Cmd) : (setCmd id f s).tasks = s.tasks := rfl
@[simp] theorem setCmd_nextTask (id : Nat) (f : Cmd → Cmd) : (setCmd id f s).nextTask = s.nextTask := rfl
@[simp] theorem setCmd_xcorrs (id : Nat) (f : Cmd → Cmd) : (setCmd id f s).xcorrs = s.xcorrs := rfl
@[simp] theorem setCmd_tiles (id : Nat) (f : Cmd → Cmd) : (setCmd id f s).tiles = s.tiles := rfl
@[simp] theorem setCmd_cs (id : Nat) (f : Cmd → Cmd) : (setCmd id f s).cs = s.cs := rfl
@[simp] theorem setCmd_squall (id : Nat) (f : Cmd → Cmd) : (setCmd id f s).squall = s.squall := rfl
@[simp] theorem setCmd_eddy (id : Nat) (f : Cmd → Cmd) : (setCmd id f s).eddy = s.eddy := rfl
@[simp] theorem setCmd_scn (id : Nat) (f : Cmd → Cmd) : (setCmd id f s).scn = s.scn := rfl
@[simp] theorem setCmd_tw (id : Nat) (f : Cmd → Cmd) : (setCmd id f s).tw = s.tw := rfl
@[simp] theorem setCmd_drt (id : Nat) (f : Cmd → Cmd) : (setCmd id f s).drt = s.drt := rfl
@[simp] theorem setCmd_link (id : Nat) (f : Cmd → Cmd) : (setCmd id f s).link = s.link := rfl
@[simp] theorem setCmd_cal (id : Nat) (f : Cmd → Cmd) : (setCmd id f s).cal = s.cal := rfl
@[simp] theorem setCmd_brz (id : Nat) (f : Cmd → Cmd) : (setCmd id f s).brz = s.brz := rfl
@[simp] theorem setCmd_boot (id : Nat) (f : Cmd → Cmd) : (setCmd id f s).boot = s.boot := rfl
@[simp] theorem setCmd_fynal (id : Nat) (f : Cmd → Cmd) : (setCmd id f s).fynal = s.fynal := rfl
@[simp] theorem setCmd_jtag (id : Nat) (f : Cmd → Cmd) : (setCmd id f s).jtag = s.jtag := rfl
@[simp] theorem setCmd_life (id : Nat) (f : Cmd → Cmd) : (setCmd id f s).life = s.life := rfl
@[simp] theorem setCmd_fw (id : Nat) (f : Cmd → Cmd) : (setCmd id f s).fw = s.fw := rfl

@[simp] theorem dropCmd_pending (id : Nat) : (dropCmd id s).pending = s.pending := rfl
@[simp] theorem dropCmd_free (id : Nat) : (dropCmd id s).free = s.free := rfl
@[simp] theorem dropCmd_clk (id : Nat) : (dropCmd id s).clk = s.clk := rfl
@[simp] theorem dropCmd_pwr (id : Nat) : (dropCmd id s).pwr = s.pwr := rfl
@[simp] theorem dropCmd_mbx (id : Nat) : (dropCmd id s).mbx = { s.mbx with cmds := s.mbx.cmds.filter (·.id ≠ id) } := rfl
@[simp] theorem dropCmd_evt (id : Nat) : (dropCmd id s).evt = s.evt := rfl
@[simp] theorem dropCmd_pcie (id : Nat) : (dropCmd id s).pcie = s.pcie := rfl
@[simp] theorem dropCmd_regs (id : Nat) : (dropCmd id s).regs = s.regs := rfl
@[simp] theorem dropCmd_host (id : Nat) : (dropCmd id s).host = s.host := rfl
@[simp] theorem dropCmd_store (id : Nat) : (dropCmd id s).store = s.store := rfl
@[simp] theorem dropCmd_inlets (id : Nat) : (dropCmd id s).inlets = s.inlets := rfl
@[simp] theorem dropCmd_tasks (id : Nat) : (dropCmd id s).tasks = s.tasks := rfl
@[simp] theorem dropCmd_nextTask (id : Nat) : (dropCmd id s).nextTask = s.nextTask := rfl
@[simp] theorem dropCmd_xcorrs (id : Nat) : (dropCmd id s).xcorrs = s.xcorrs := rfl
@[simp] theorem dropCmd_tiles (id : Nat) : (dropCmd id s).tiles = s.tiles := rfl
@[simp] theorem dropCmd_cs (id : Nat) : (dropCmd id s).cs = s.cs := rfl
@[simp] theorem dropCmd_squall (id : Nat) : (dropCmd id s).squall = s.squall := rfl
@[simp] theorem dropCmd_eddy (id : Nat) : (dropCmd id s).eddy = s.eddy := rfl
@[simp] theorem dropCmd_scn (id : Nat) : (dropCmd id s).scn = s.scn := rfl
@[simp] theorem dropCmd_tw (id : Nat) : (dropCmd id s).tw = s.tw := rfl
@[simp] theorem dropCmd_drt (id : Nat) : (dropCmd id s).drt = s.drt := rfl
@[simp] theorem dropCmd_link (id : Nat) : (dropCmd id s).link = s.link := rfl
@[simp] theorem dropCmd_cal (id : Nat) : (dropCmd id s).cal = s.cal := rfl
@[simp] theorem dropCmd_brz (id : Nat) : (dropCmd id s).brz = s.brz := rfl
@[simp] theorem dropCmd_boot (id : Nat) : (dropCmd id s).boot = s.boot := rfl
@[simp] theorem dropCmd_fynal (id : Nat) : (dropCmd id s).fynal = s.fynal := rfl
@[simp] theorem dropCmd_jtag (id : Nat) : (dropCmd id s).jtag = s.jtag := rfl
@[simp] theorem dropCmd_life (id : Nat) : (dropCmd id s).life = s.life := rfl
@[simp] theorem dropCmd_fw (id : Nat) : (dropCmd id s).fw = s.fw := rfl

@[simp] theorem setCplq_pending (n : Fin 8) (f : OutQueue → OutQueue) : (setCplq n f s).pending = s.pending := rfl
@[simp] theorem setCplq_free (n : Fin 8) (f : OutQueue → OutQueue) : (setCplq n f s).free = s.free := rfl
@[simp] theorem setCplq_clk (n : Fin 8) (f : OutQueue → OutQueue) : (setCplq n f s).clk = s.clk := rfl
@[simp] theorem setCplq_pwr (n : Fin 8) (f : OutQueue → OutQueue) : (setCplq n f s).pwr = s.pwr := rfl
@[simp] theorem setCplq_mbx (n : Fin 8) (f : OutQueue → OutQueue) : (setCplq n f s).mbx = { s.mbx with cplqs := vmod s.mbx.cplqs n f } := rfl
@[simp] theorem setCplq_evt (n : Fin 8) (f : OutQueue → OutQueue) : (setCplq n f s).evt = s.evt := rfl
@[simp] theorem setCplq_pcie (n : Fin 8) (f : OutQueue → OutQueue) : (setCplq n f s).pcie = s.pcie := rfl
@[simp] theorem setCplq_regs (n : Fin 8) (f : OutQueue → OutQueue) : (setCplq n f s).regs = s.regs := rfl
@[simp] theorem setCplq_host (n : Fin 8) (f : OutQueue → OutQueue) : (setCplq n f s).host = s.host := rfl
@[simp] theorem setCplq_store (n : Fin 8) (f : OutQueue → OutQueue) : (setCplq n f s).store = s.store := rfl
@[simp] theorem setCplq_inlets (n : Fin 8) (f : OutQueue → OutQueue) : (setCplq n f s).inlets = s.inlets := rfl
@[simp] theorem setCplq_tasks (n : Fin 8) (f : OutQueue → OutQueue) : (setCplq n f s).tasks = s.tasks := rfl
@[simp] theorem setCplq_nextTask (n : Fin 8) (f : OutQueue → OutQueue) : (setCplq n f s).nextTask = s.nextTask := rfl
@[simp] theorem setCplq_xcorrs (n : Fin 8) (f : OutQueue → OutQueue) : (setCplq n f s).xcorrs = s.xcorrs := rfl
@[simp] theorem setCplq_tiles (n : Fin 8) (f : OutQueue → OutQueue) : (setCplq n f s).tiles = s.tiles := rfl
@[simp] theorem setCplq_cs (n : Fin 8) (f : OutQueue → OutQueue) : (setCplq n f s).cs = s.cs := rfl
@[simp] theorem setCplq_squall (n : Fin 8) (f : OutQueue → OutQueue) : (setCplq n f s).squall = s.squall := rfl
@[simp] theorem setCplq_eddy (n : Fin 8) (f : OutQueue → OutQueue) : (setCplq n f s).eddy = s.eddy := rfl
@[simp] theorem setCplq_scn (n : Fin 8) (f : OutQueue → OutQueue) : (setCplq n f s).scn = s.scn := rfl
@[simp] theorem setCplq_tw (n : Fin 8) (f : OutQueue → OutQueue) : (setCplq n f s).tw = s.tw := rfl
@[simp] theorem setCplq_drt (n : Fin 8) (f : OutQueue → OutQueue) : (setCplq n f s).drt = s.drt := rfl
@[simp] theorem setCplq_link (n : Fin 8) (f : OutQueue → OutQueue) : (setCplq n f s).link = s.link := rfl
@[simp] theorem setCplq_cal (n : Fin 8) (f : OutQueue → OutQueue) : (setCplq n f s).cal = s.cal := rfl
@[simp] theorem setCplq_brz (n : Fin 8) (f : OutQueue → OutQueue) : (setCplq n f s).brz = s.brz := rfl
@[simp] theorem setCplq_boot (n : Fin 8) (f : OutQueue → OutQueue) : (setCplq n f s).boot = s.boot := rfl
@[simp] theorem setCplq_fynal (n : Fin 8) (f : OutQueue → OutQueue) : (setCplq n f s).fynal = s.fynal := rfl
@[simp] theorem setCplq_jtag (n : Fin 8) (f : OutQueue → OutQueue) : (setCplq n f s).jtag = s.jtag := rfl
@[simp] theorem setCplq_life (n : Fin 8) (f : OutQueue → OutQueue) : (setCplq n f s).life = s.life := rfl
@[simp] theorem setCplq_fw (n : Fin 8) (f : OutQueue → OutQueue) : (setCplq n f s).fw = s.fw := rfl

@[simp] theorem setEvq_pending (n : Fin 4) (f : OutQueue → OutQueue) : (setEvq n f s).pending = s.pending := rfl
@[simp] theorem setEvq_free (n : Fin 4) (f : OutQueue → OutQueue) : (setEvq n f s).free = s.free := rfl
@[simp] theorem setEvq_clk (n : Fin 4) (f : OutQueue → OutQueue) : (setEvq n f s).clk = s.clk := rfl
@[simp] theorem setEvq_pwr (n : Fin 4) (f : OutQueue → OutQueue) : (setEvq n f s).pwr = s.pwr := rfl
@[simp] theorem setEvq_mbx (n : Fin 4) (f : OutQueue → OutQueue) : (setEvq n f s).mbx = { s.mbx with evqs := vmod s.mbx.evqs n f } := rfl
@[simp] theorem setEvq_evt (n : Fin 4) (f : OutQueue → OutQueue) : (setEvq n f s).evt = s.evt := rfl
@[simp] theorem setEvq_pcie (n : Fin 4) (f : OutQueue → OutQueue) : (setEvq n f s).pcie = s.pcie := rfl
@[simp] theorem setEvq_regs (n : Fin 4) (f : OutQueue → OutQueue) : (setEvq n f s).regs = s.regs := rfl
@[simp] theorem setEvq_host (n : Fin 4) (f : OutQueue → OutQueue) : (setEvq n f s).host = s.host := rfl
@[simp] theorem setEvq_store (n : Fin 4) (f : OutQueue → OutQueue) : (setEvq n f s).store = s.store := rfl
@[simp] theorem setEvq_inlets (n : Fin 4) (f : OutQueue → OutQueue) : (setEvq n f s).inlets = s.inlets := rfl
@[simp] theorem setEvq_tasks (n : Fin 4) (f : OutQueue → OutQueue) : (setEvq n f s).tasks = s.tasks := rfl
@[simp] theorem setEvq_nextTask (n : Fin 4) (f : OutQueue → OutQueue) : (setEvq n f s).nextTask = s.nextTask := rfl
@[simp] theorem setEvq_xcorrs (n : Fin 4) (f : OutQueue → OutQueue) : (setEvq n f s).xcorrs = s.xcorrs := rfl
@[simp] theorem setEvq_tiles (n : Fin 4) (f : OutQueue → OutQueue) : (setEvq n f s).tiles = s.tiles := rfl
@[simp] theorem setEvq_cs (n : Fin 4) (f : OutQueue → OutQueue) : (setEvq n f s).cs = s.cs := rfl
@[simp] theorem setEvq_squall (n : Fin 4) (f : OutQueue → OutQueue) : (setEvq n f s).squall = s.squall := rfl
@[simp] theorem setEvq_eddy (n : Fin 4) (f : OutQueue → OutQueue) : (setEvq n f s).eddy = s.eddy := rfl
@[simp] theorem setEvq_scn (n : Fin 4) (f : OutQueue → OutQueue) : (setEvq n f s).scn = s.scn := rfl
@[simp] theorem setEvq_tw (n : Fin 4) (f : OutQueue → OutQueue) : (setEvq n f s).tw = s.tw := rfl
@[simp] theorem setEvq_drt (n : Fin 4) (f : OutQueue → OutQueue) : (setEvq n f s).drt = s.drt := rfl
@[simp] theorem setEvq_link (n : Fin 4) (f : OutQueue → OutQueue) : (setEvq n f s).link = s.link := rfl
@[simp] theorem setEvq_cal (n : Fin 4) (f : OutQueue → OutQueue) : (setEvq n f s).cal = s.cal := rfl
@[simp] theorem setEvq_brz (n : Fin 4) (f : OutQueue → OutQueue) : (setEvq n f s).brz = s.brz := rfl
@[simp] theorem setEvq_boot (n : Fin 4) (f : OutQueue → OutQueue) : (setEvq n f s).boot = s.boot := rfl
@[simp] theorem setEvq_fynal (n : Fin 4) (f : OutQueue → OutQueue) : (setEvq n f s).fynal = s.fynal := rfl
@[simp] theorem setEvq_jtag (n : Fin 4) (f : OutQueue → OutQueue) : (setEvq n f s).jtag = s.jtag := rfl
@[simp] theorem setEvq_life (n : Fin 4) (f : OutQueue → OutQueue) : (setEvq n f s).life = s.life := rfl
@[simp] theorem setEvq_fw (n : Fin 4) (f : OutQueue → OutQueue) : (setEvq n f s).fw = s.fw := rfl

@[simp] theorem setCmdq_pending (n : Fin 8) (f : CmdQueue → CmdQueue) : (setCmdq n f s).pending = s.pending := rfl
@[simp] theorem setCmdq_free (n : Fin 8) (f : CmdQueue → CmdQueue) : (setCmdq n f s).free = s.free := rfl
@[simp] theorem setCmdq_clk (n : Fin 8) (f : CmdQueue → CmdQueue) : (setCmdq n f s).clk = s.clk := rfl
@[simp] theorem setCmdq_pwr (n : Fin 8) (f : CmdQueue → CmdQueue) : (setCmdq n f s).pwr = s.pwr := rfl
@[simp] theorem setCmdq_mbx (n : Fin 8) (f : CmdQueue → CmdQueue) : (setCmdq n f s).mbx = { s.mbx with cmdqs := vmod s.mbx.cmdqs n f } := rfl
@[simp] theorem setCmdq_evt (n : Fin 8) (f : CmdQueue → CmdQueue) : (setCmdq n f s).evt = s.evt := rfl
@[simp] theorem setCmdq_pcie (n : Fin 8) (f : CmdQueue → CmdQueue) : (setCmdq n f s).pcie = s.pcie := rfl
@[simp] theorem setCmdq_regs (n : Fin 8) (f : CmdQueue → CmdQueue) : (setCmdq n f s).regs = s.regs := rfl
@[simp] theorem setCmdq_host (n : Fin 8) (f : CmdQueue → CmdQueue) : (setCmdq n f s).host = s.host := rfl
@[simp] theorem setCmdq_store (n : Fin 8) (f : CmdQueue → CmdQueue) : (setCmdq n f s).store = s.store := rfl
@[simp] theorem setCmdq_inlets (n : Fin 8) (f : CmdQueue → CmdQueue) : (setCmdq n f s).inlets = s.inlets := rfl
@[simp] theorem setCmdq_tasks (n : Fin 8) (f : CmdQueue → CmdQueue) : (setCmdq n f s).tasks = s.tasks := rfl
@[simp] theorem setCmdq_nextTask (n : Fin 8) (f : CmdQueue → CmdQueue) : (setCmdq n f s).nextTask = s.nextTask := rfl
@[simp] theorem setCmdq_xcorrs (n : Fin 8) (f : CmdQueue → CmdQueue) : (setCmdq n f s).xcorrs = s.xcorrs := rfl
@[simp] theorem setCmdq_tiles (n : Fin 8) (f : CmdQueue → CmdQueue) : (setCmdq n f s).tiles = s.tiles := rfl
@[simp] theorem setCmdq_cs (n : Fin 8) (f : CmdQueue → CmdQueue) : (setCmdq n f s).cs = s.cs := rfl
@[simp] theorem setCmdq_squall (n : Fin 8) (f : CmdQueue → CmdQueue) : (setCmdq n f s).squall = s.squall := rfl
@[simp] theorem setCmdq_eddy (n : Fin 8) (f : CmdQueue → CmdQueue) : (setCmdq n f s).eddy = s.eddy := rfl
@[simp] theorem setCmdq_scn (n : Fin 8) (f : CmdQueue → CmdQueue) : (setCmdq n f s).scn = s.scn := rfl
@[simp] theorem setCmdq_tw (n : Fin 8) (f : CmdQueue → CmdQueue) : (setCmdq n f s).tw = s.tw := rfl
@[simp] theorem setCmdq_drt (n : Fin 8) (f : CmdQueue → CmdQueue) : (setCmdq n f s).drt = s.drt := rfl
@[simp] theorem setCmdq_link (n : Fin 8) (f : CmdQueue → CmdQueue) : (setCmdq n f s).link = s.link := rfl
@[simp] theorem setCmdq_cal (n : Fin 8) (f : CmdQueue → CmdQueue) : (setCmdq n f s).cal = s.cal := rfl
@[simp] theorem setCmdq_brz (n : Fin 8) (f : CmdQueue → CmdQueue) : (setCmdq n f s).brz = s.brz := rfl
@[simp] theorem setCmdq_boot (n : Fin 8) (f : CmdQueue → CmdQueue) : (setCmdq n f s).boot = s.boot := rfl
@[simp] theorem setCmdq_fynal (n : Fin 8) (f : CmdQueue → CmdQueue) : (setCmdq n f s).fynal = s.fynal := rfl
@[simp] theorem setCmdq_jtag (n : Fin 8) (f : CmdQueue → CmdQueue) : (setCmdq n f s).jtag = s.jtag := rfl
@[simp] theorem setCmdq_life (n : Fin 8) (f : CmdQueue → CmdQueue) : (setCmdq n f s).life = s.life := rfl
@[simp] theorem setCmdq_fw (n : Fin 8) (f : CmdQueue → CmdQueue) : (setCmdq n f s).fw = s.fw := rfl

@[simp] theorem setPcie_pending (f : Pcie → Pcie) : (setPcie f s).pending = s.pending := rfl
@[simp] theorem setPcie_free (f : Pcie → Pcie) : (setPcie f s).free = s.free := rfl
@[simp] theorem setPcie_clk (f : Pcie → Pcie) : (setPcie f s).clk = s.clk := rfl
@[simp] theorem setPcie_pwr (f : Pcie → Pcie) : (setPcie f s).pwr = s.pwr := rfl
@[simp] theorem setPcie_mbx (f : Pcie → Pcie) : (setPcie f s).mbx = s.mbx := rfl
@[simp] theorem setPcie_evt (f : Pcie → Pcie) : (setPcie f s).evt = s.evt := rfl
@[simp] theorem setPcie_pcie (f : Pcie → Pcie) : (setPcie f s).pcie = f s.pcie := rfl
@[simp] theorem setPcie_regs (f : Pcie → Pcie) : (setPcie f s).regs = s.regs := rfl
@[simp] theorem setPcie_host (f : Pcie → Pcie) : (setPcie f s).host = s.host := rfl
@[simp] theorem setPcie_store (f : Pcie → Pcie) : (setPcie f s).store = s.store := rfl
@[simp] theorem setPcie_inlets (f : Pcie → Pcie) : (setPcie f s).inlets = s.inlets := rfl
@[simp] theorem setPcie_tasks (f : Pcie → Pcie) : (setPcie f s).tasks = s.tasks := rfl
@[simp] theorem setPcie_nextTask (f : Pcie → Pcie) : (setPcie f s).nextTask = s.nextTask := rfl
@[simp] theorem setPcie_xcorrs (f : Pcie → Pcie) : (setPcie f s).xcorrs = s.xcorrs := rfl
@[simp] theorem setPcie_tiles (f : Pcie → Pcie) : (setPcie f s).tiles = s.tiles := rfl
@[simp] theorem setPcie_cs (f : Pcie → Pcie) : (setPcie f s).cs = s.cs := rfl
@[simp] theorem setPcie_squall (f : Pcie → Pcie) : (setPcie f s).squall = s.squall := rfl
@[simp] theorem setPcie_eddy (f : Pcie → Pcie) : (setPcie f s).eddy = s.eddy := rfl
@[simp] theorem setPcie_scn (f : Pcie → Pcie) : (setPcie f s).scn = s.scn := rfl
@[simp] theorem setPcie_tw (f : Pcie → Pcie) : (setPcie f s).tw = s.tw := rfl
@[simp] theorem setPcie_drt (f : Pcie → Pcie) : (setPcie f s).drt = s.drt := rfl
@[simp] theorem setPcie_link (f : Pcie → Pcie) : (setPcie f s).link = s.link := rfl
@[simp] theorem setPcie_cal (f : Pcie → Pcie) : (setPcie f s).cal = s.cal := rfl
@[simp] theorem setPcie_brz (f : Pcie → Pcie) : (setPcie f s).brz = s.brz := rfl
@[simp] theorem setPcie_boot (f : Pcie → Pcie) : (setPcie f s).boot = s.boot := rfl
@[simp] theorem setPcie_fynal (f : Pcie → Pcie) : (setPcie f s).fynal = s.fynal := rfl
@[simp] theorem setPcie_jtag (f : Pcie → Pcie) : (setPcie f s).jtag = s.jtag := rfl
@[simp] theorem setPcie_life (f : Pcie → Pcie) : (setPcie f s).life = s.life := rfl
@[simp] theorem setPcie_fw (f : Pcie → Pcie) : (setPcie f s).fw = s.fw := rfl

@[simp] theorem setStore_pending (f : Store → Store) : (setStore f s).pending = s.pending := rfl
@[simp] theorem setStore_free (f : Store → Store) : (setStore f s).free = s.free := rfl
@[simp] theorem setStore_clk (f : Store → Store) : (setStore f s).clk = s.clk := rfl
@[simp] theorem setStore_pwr (f : Store → Store) : (setStore f s).pwr = s.pwr := rfl
@[simp] theorem setStore_mbx (f : Store → Store) : (setStore f s).mbx = s.mbx := rfl
@[simp] theorem setStore_evt (f : Store → Store) : (setStore f s).evt = s.evt := rfl
@[simp] theorem setStore_pcie (f : Store → Store) : (setStore f s).pcie = s.pcie := rfl
@[simp] theorem setStore_regs (f : Store → Store) : (setStore f s).regs = s.regs := rfl
@[simp] theorem setStore_host (f : Store → Store) : (setStore f s).host = s.host := rfl
@[simp] theorem setStore_store (f : Store → Store) : (setStore f s).store = f s.store := rfl
@[simp] theorem setStore_inlets (f : Store → Store) : (setStore f s).inlets = s.inlets := rfl
@[simp] theorem setStore_tasks (f : Store → Store) : (setStore f s).tasks = s.tasks := rfl
@[simp] theorem setStore_nextTask (f : Store → Store) : (setStore f s).nextTask = s.nextTask := rfl
@[simp] theorem setStore_xcorrs (f : Store → Store) : (setStore f s).xcorrs = s.xcorrs := rfl
@[simp] theorem setStore_tiles (f : Store → Store) : (setStore f s).tiles = s.tiles := rfl
@[simp] theorem setStore_cs (f : Store → Store) : (setStore f s).cs = s.cs := rfl
@[simp] theorem setStore_squall (f : Store → Store) : (setStore f s).squall = s.squall := rfl
@[simp] theorem setStore_eddy (f : Store → Store) : (setStore f s).eddy = s.eddy := rfl
@[simp] theorem setStore_scn (f : Store → Store) : (setStore f s).scn = s.scn := rfl
@[simp] theorem setStore_tw (f : Store → Store) : (setStore f s).tw = s.tw := rfl
@[simp] theorem setStore_drt (f : Store → Store) : (setStore f s).drt = s.drt := rfl
@[simp] theorem setStore_link (f : Store → Store) : (setStore f s).link = s.link := rfl
@[simp] theorem setStore_cal (f : Store → Store) : (setStore f s).cal = s.cal := rfl
@[simp] theorem setStore_brz (f : Store → Store) : (setStore f s).brz = s.brz := rfl
@[simp] theorem setStore_boot (f : Store → Store) : (setStore f s).boot = s.boot := rfl
@[simp] theorem setStore_fynal (f : Store → Store) : (setStore f s).fynal = s.fynal := rfl
@[simp] theorem setStore_jtag (f : Store → Store) : (setStore f s).jtag = s.jtag := rfl
@[simp] theorem setStore_life (f : Store → Store) : (setStore f s).life = s.life := rfl
@[simp] theorem setStore_fw (f : Store → Store) : (setStore f s).fw = s.fw := rfl

@[simp] theorem setInlet_pending (n : Fin 4) (f : Inlet → Inlet) : (setInlet n f s).pending = s.pending := rfl
@[simp] theorem setInlet_free (n : Fin 4) (f : Inlet → Inlet) : (setInlet n f s).free = s.free := rfl
@[simp] theorem setInlet_clk (n : Fin 4) (f : Inlet → Inlet) : (setInlet n f s).clk = s.clk := rfl
@[simp] theorem setInlet_pwr (n : Fin 4) (f : Inlet → Inlet) : (setInlet n f s).pwr = s.pwr := rfl
@[simp] theorem setInlet_mbx (n : Fin 4) (f : Inlet → Inlet) : (setInlet n f s).mbx = s.mbx := rfl
@[simp] theorem setInlet_evt (n : Fin 4) (f : Inlet → Inlet) : (setInlet n f s).evt = s.evt := rfl
@[simp] theorem setInlet_pcie (n : Fin 4) (f : Inlet → Inlet) : (setInlet n f s).pcie = s.pcie := rfl
@[simp] theorem setInlet_regs (n : Fin 4) (f : Inlet → Inlet) : (setInlet n f s).regs = s.regs := rfl
@[simp] theorem setInlet_host (n : Fin 4) (f : Inlet → Inlet) : (setInlet n f s).host = s.host := rfl
@[simp] theorem setInlet_store (n : Fin 4) (f : Inlet → Inlet) : (setInlet n f s).store = s.store := rfl
@[simp] theorem setInlet_inlets (n : Fin 4) (f : Inlet → Inlet) : (setInlet n f s).inlets = vmod s.inlets n f := rfl
@[simp] theorem setInlet_tasks (n : Fin 4) (f : Inlet → Inlet) : (setInlet n f s).tasks = s.tasks := rfl
@[simp] theorem setInlet_nextTask (n : Fin 4) (f : Inlet → Inlet) : (setInlet n f s).nextTask = s.nextTask := rfl
@[simp] theorem setInlet_xcorrs (n : Fin 4) (f : Inlet → Inlet) : (setInlet n f s).xcorrs = s.xcorrs := rfl
@[simp] theorem setInlet_tiles (n : Fin 4) (f : Inlet → Inlet) : (setInlet n f s).tiles = s.tiles := rfl
@[simp] theorem setInlet_cs (n : Fin 4) (f : Inlet → Inlet) : (setInlet n f s).cs = s.cs := rfl
@[simp] theorem setInlet_squall (n : Fin 4) (f : Inlet → Inlet) : (setInlet n f s).squall = s.squall := rfl
@[simp] theorem setInlet_eddy (n : Fin 4) (f : Inlet → Inlet) : (setInlet n f s).eddy = s.eddy := rfl
@[simp] theorem setInlet_scn (n : Fin 4) (f : Inlet → Inlet) : (setInlet n f s).scn = s.scn := rfl
@[simp] theorem setInlet_tw (n : Fin 4) (f : Inlet → Inlet) : (setInlet n f s).tw = s.tw := rfl
@[simp] theorem setInlet_drt (n : Fin 4) (f : Inlet → Inlet) : (setInlet n f s).drt = s.drt := rfl
@[simp] theorem setInlet_link (n : Fin 4) (f : Inlet → Inlet) : (setInlet n f s).link = s.link := rfl
@[simp] theorem setInlet_cal (n : Fin 4) (f : Inlet → Inlet) : (setInlet n f s).cal = s.cal := rfl
@[simp] theorem setInlet_brz (n : Fin 4) (f : Inlet → Inlet) : (setInlet n f s).brz = s.brz := rfl
@[simp] theorem setInlet_boot (n : Fin 4) (f : Inlet → Inlet) : (setInlet n f s).boot = s.boot := rfl
@[simp] theorem setInlet_fynal (n : Fin 4) (f : Inlet → Inlet) : (setInlet n f s).fynal = s.fynal := rfl
@[simp] theorem setInlet_jtag (n : Fin 4) (f : Inlet → Inlet) : (setInlet n f s).jtag = s.jtag := rfl
@[simp] theorem setInlet_life (n : Fin 4) (f : Inlet → Inlet) : (setInlet n f s).life = s.life := rfl
@[simp] theorem setInlet_fw (n : Fin 4) (f : Inlet → Inlet) : (setInlet n f s).fw = s.fw := rfl

@[simp] theorem setTask_pending (id : Nat) (f : Task → Task) : (setTask id f s).pending = s.pending := rfl
@[simp] theorem setTask_free (id : Nat) (f : Task → Task) : (setTask id f s).free = s.free := rfl
@[simp] theorem setTask_clk (id : Nat) (f : Task → Task) : (setTask id f s).clk = s.clk := rfl
@[simp] theorem setTask_pwr (id : Nat) (f : Task → Task) : (setTask id f s).pwr = s.pwr := rfl
@[simp] theorem setTask_mbx (id : Nat) (f : Task → Task) : (setTask id f s).mbx = s.mbx := rfl
@[simp] theorem setTask_evt (id : Nat) (f : Task → Task) : (setTask id f s).evt = s.evt := rfl
@[simp] theorem setTask_pcie (id : Nat) (f : Task → Task) : (setTask id f s).pcie = s.pcie := rfl
@[simp] theorem setTask_regs (id : Nat) (f : Task → Task) : (setTask id f s).regs = s.regs := rfl
@[simp] theorem setTask_host (id : Nat) (f : Task → Task) : (setTask id f s).host = s.host := rfl
@[simp] theorem setTask_store (id : Nat) (f : Task → Task) : (setTask id f s).store = s.store := rfl
@[simp] theorem setTask_inlets (id : Nat) (f : Task → Task) : (setTask id f s).inlets = s.inlets := rfl
@[simp] theorem setTask_tasks (id : Nat) (f : Task → Task) : (setTask id f s).tasks = lmod s.tasks (·.id = id) f := rfl
@[simp] theorem setTask_nextTask (id : Nat) (f : Task → Task) : (setTask id f s).nextTask = s.nextTask := rfl
@[simp] theorem setTask_xcorrs (id : Nat) (f : Task → Task) : (setTask id f s).xcorrs = s.xcorrs := rfl
@[simp] theorem setTask_tiles (id : Nat) (f : Task → Task) : (setTask id f s).tiles = s.tiles := rfl
@[simp] theorem setTask_cs (id : Nat) (f : Task → Task) : (setTask id f s).cs = s.cs := rfl
@[simp] theorem setTask_squall (id : Nat) (f : Task → Task) : (setTask id f s).squall = s.squall := rfl
@[simp] theorem setTask_eddy (id : Nat) (f : Task → Task) : (setTask id f s).eddy = s.eddy := rfl
@[simp] theorem setTask_scn (id : Nat) (f : Task → Task) : (setTask id f s).scn = s.scn := rfl
@[simp] theorem setTask_tw (id : Nat) (f : Task → Task) : (setTask id f s).tw = s.tw := rfl
@[simp] theorem setTask_drt (id : Nat) (f : Task → Task) : (setTask id f s).drt = s.drt := rfl
@[simp] theorem setTask_link (id : Nat) (f : Task → Task) : (setTask id f s).link = s.link := rfl
@[simp] theorem setTask_cal (id : Nat) (f : Task → Task) : (setTask id f s).cal = s.cal := rfl
@[simp] theorem setTask_brz (id : Nat) (f : Task → Task) : (setTask id f s).brz = s.brz := rfl
@[simp] theorem setTask_boot (id : Nat) (f : Task → Task) : (setTask id f s).boot = s.boot := rfl
@[simp] theorem setTask_fynal (id : Nat) (f : Task → Task) : (setTask id f s).fynal = s.fynal := rfl
@[simp] theorem setTask_jtag (id : Nat) (f : Task → Task) : (setTask id f s).jtag = s.jtag := rfl
@[simp] theorem setTask_life (id : Nat) (f : Task → Task) : (setTask id f s).life = s.life := rfl
@[simp] theorem setTask_fw (id : Nat) (f : Task → Task) : (setTask id f s).fw = s.fw := rfl

@[simp] theorem setXcorr_pending (id : Nat) (f : Xcorr → Xcorr) : (setXcorr id f s).pending = s.pending := rfl
@[simp] theorem setXcorr_free (id : Nat) (f : Xcorr → Xcorr) : (setXcorr id f s).free = s.free := rfl
@[simp] theorem setXcorr_clk (id : Nat) (f : Xcorr → Xcorr) : (setXcorr id f s).clk = s.clk := rfl
@[simp] theorem setXcorr_pwr (id : Nat) (f : Xcorr → Xcorr) : (setXcorr id f s).pwr = s.pwr := rfl
@[simp] theorem setXcorr_mbx (id : Nat) (f : Xcorr → Xcorr) : (setXcorr id f s).mbx = s.mbx := rfl
@[simp] theorem setXcorr_evt (id : Nat) (f : Xcorr → Xcorr) : (setXcorr id f s).evt = s.evt := rfl
@[simp] theorem setXcorr_pcie (id : Nat) (f : Xcorr → Xcorr) : (setXcorr id f s).pcie = s.pcie := rfl
@[simp] theorem setXcorr_regs (id : Nat) (f : Xcorr → Xcorr) : (setXcorr id f s).regs = s.regs := rfl
@[simp] theorem setXcorr_host (id : Nat) (f : Xcorr → Xcorr) : (setXcorr id f s).host = s.host := rfl
@[simp] theorem setXcorr_store (id : Nat) (f : Xcorr → Xcorr) : (setXcorr id f s).store = s.store := rfl
@[simp] theorem setXcorr_inlets (id : Nat) (f : Xcorr → Xcorr) : (setXcorr id f s).inlets = s.inlets := rfl
@[simp] theorem setXcorr_tasks (id : Nat) (f : Xcorr → Xcorr) : (setXcorr id f s).tasks = s.tasks := rfl
@[simp] theorem setXcorr_nextTask (id : Nat) (f : Xcorr → Xcorr) : (setXcorr id f s).nextTask = s.nextTask := rfl
@[simp] theorem setXcorr_xcorrs (id : Nat) (f : Xcorr → Xcorr) : (setXcorr id f s).xcorrs = lmod s.xcorrs (·.id = id) f := rfl
@[simp] theorem setXcorr_tiles (id : Nat) (f : Xcorr → Xcorr) : (setXcorr id f s).tiles = s.tiles := rfl
@[simp] theorem setXcorr_cs (id : Nat) (f : Xcorr → Xcorr) : (setXcorr id f s).cs = s.cs := rfl
@[simp] theorem setXcorr_squall (id : Nat) (f : Xcorr → Xcorr) : (setXcorr id f s).squall = s.squall := rfl
@[simp] theorem setXcorr_eddy (id : Nat) (f : Xcorr → Xcorr) : (setXcorr id f s).eddy = s.eddy := rfl
@[simp] theorem setXcorr_scn (id : Nat) (f : Xcorr → Xcorr) : (setXcorr id f s).scn = s.scn := rfl
@[simp] theorem setXcorr_tw (id : Nat) (f : Xcorr → Xcorr) : (setXcorr id f s).tw = s.tw := rfl
@[simp] theorem setXcorr_drt (id : Nat) (f : Xcorr → Xcorr) : (setXcorr id f s).drt = s.drt := rfl
@[simp] theorem setXcorr_link (id : Nat) (f : Xcorr → Xcorr) : (setXcorr id f s).link = s.link := rfl
@[simp] theorem setXcorr_cal (id : Nat) (f : Xcorr → Xcorr) : (setXcorr id f s).cal = s.cal := rfl
@[simp] theorem setXcorr_brz (id : Nat) (f : Xcorr → Xcorr) : (setXcorr id f s).brz = s.brz := rfl
@[simp] theorem setXcorr_boot (id : Nat) (f : Xcorr → Xcorr) : (setXcorr id f s).boot = s.boot := rfl
@[simp] theorem setXcorr_fynal (id : Nat) (f : Xcorr → Xcorr) : (setXcorr id f s).fynal = s.fynal := rfl
@[simp] theorem setXcorr_jtag (id : Nat) (f : Xcorr → Xcorr) : (setXcorr id f s).jtag = s.jtag := rfl
@[simp] theorem setXcorr_life (id : Nat) (f : Xcorr → Xcorr) : (setXcorr id f s).life = s.life := rfl
@[simp] theorem setXcorr_fw (id : Nat) (f : Xcorr → Xcorr) : (setXcorr id f s).fw = s.fw := rfl

@[simp] theorem setTile_pending (n : Fin 20) (f : Tile → Tile) : (setTile n f s).pending = s.pending := rfl
@[simp] theorem setTile_free (n : Fin 20) (f : Tile → Tile) : (setTile n f s).free = s.free := rfl
@[simp] theorem setTile_clk (n : Fin 20) (f : Tile → Tile) : (setTile n f s).clk = s.clk := rfl
@[simp] theorem setTile_pwr (n : Fin 20) (f : Tile → Tile) : (setTile n f s).pwr = s.pwr := rfl
@[simp] theorem setTile_mbx (n : Fin 20) (f : Tile → Tile) : (setTile n f s).mbx = s.mbx := rfl
@[simp] theorem setTile_evt (n : Fin 20) (f : Tile → Tile) : (setTile n f s).evt = s.evt := rfl
@[simp] theorem setTile_pcie (n : Fin 20) (f : Tile → Tile) : (setTile n f s).pcie = s.pcie := rfl
@[simp] theorem setTile_regs (n : Fin 20) (f : Tile → Tile) : (setTile n f s).regs = s.regs := rfl
@[simp] theorem setTile_host (n : Fin 20) (f : Tile → Tile) : (setTile n f s).host = s.host := rfl
@[simp] theorem setTile_store (n : Fin 20) (f : Tile → Tile) : (setTile n f s).store = s.store := rfl
@[simp] theorem setTile_inlets (n : Fin 20) (f : Tile → Tile) : (setTile n f s).inlets = s.inlets := rfl
@[simp] theorem setTile_tasks (n : Fin 20) (f : Tile → Tile) : (setTile n f s).tasks = s.tasks := rfl
@[simp] theorem setTile_nextTask (n : Fin 20) (f : Tile → Tile) : (setTile n f s).nextTask = s.nextTask := rfl
@[simp] theorem setTile_xcorrs (n : Fin 20) (f : Tile → Tile) : (setTile n f s).xcorrs = s.xcorrs := rfl
@[simp] theorem setTile_tiles (n : Fin 20) (f : Tile → Tile) : (setTile n f s).tiles = vmod s.tiles n f := rfl
@[simp] theorem setTile_cs (n : Fin 20) (f : Tile → Tile) : (setTile n f s).cs = s.cs := rfl
@[simp] theorem setTile_squall (n : Fin 20) (f : Tile → Tile) : (setTile n f s).squall = s.squall := rfl
@[simp] theorem setTile_eddy (n : Fin 20) (f : Tile → Tile) : (setTile n f s).eddy = s.eddy := rfl
@[simp] theorem setTile_scn (n : Fin 20) (f : Tile → Tile) : (setTile n f s).scn = s.scn := rfl
@[simp] theorem setTile_tw (n : Fin 20) (f : Tile → Tile) : (setTile n f s).tw = s.tw := rfl
@[simp] theorem setTile_drt (n : Fin 20) (f : Tile → Tile) : (setTile n f s).drt = s.drt := rfl
@[simp] theorem setTile_link (n : Fin 20) (f : Tile → Tile) : (setTile n f s).link = s.link := rfl
@[simp] theorem setTile_cal (n : Fin 20) (f : Tile → Tile) : (setTile n f s).cal = s.cal := rfl
@[simp] theorem setTile_brz (n : Fin 20) (f : Tile → Tile) : (setTile n f s).brz = s.brz := rfl
@[simp] theorem setTile_boot (n : Fin 20) (f : Tile → Tile) : (setTile n f s).boot = s.boot := rfl
@[simp] theorem setTile_fynal (n : Fin 20) (f : Tile → Tile) : (setTile n f s).fynal = s.fynal := rfl
@[simp] theorem setTile_jtag (n : Fin 20) (f : Tile → Tile) : (setTile n f s).jtag = s.jtag := rfl
@[simp] theorem setTile_life (n : Fin 20) (f : Tile → Tile) : (setTile n f s).life = s.life := rfl
@[simp] theorem setTile_fw (n : Fin 20) (f : Tile → Tile) : (setTile n f s).fw = s.fw := rfl

@[simp] theorem setAt_pending (m : Fin 16) (f : AcqTrigger → AcqTrigger) : (setAt m f s).pending = s.pending := rfl
@[simp] theorem setAt_free (m : Fin 16) (f : AcqTrigger → AcqTrigger) : (setAt m f s).free = s.free := rfl
@[simp] theorem setAt_clk (m : Fin 16) (f : AcqTrigger → AcqTrigger) : (setAt m f s).clk = s.clk := rfl
@[simp] theorem setAt_pwr (m : Fin 16) (f : AcqTrigger → AcqTrigger) : (setAt m f s).pwr = s.pwr := rfl
@[simp] theorem setAt_mbx (m : Fin 16) (f : AcqTrigger → AcqTrigger) : (setAt m f s).mbx = s.mbx := rfl
@[simp] theorem setAt_evt (m : Fin 16) (f : AcqTrigger → AcqTrigger) : (setAt m f s).evt = s.evt := rfl
@[simp] theorem setAt_pcie (m : Fin 16) (f : AcqTrigger → AcqTrigger) : (setAt m f s).pcie = s.pcie := rfl
@[simp] theorem setAt_regs (m : Fin 16) (f : AcqTrigger → AcqTrigger) : (setAt m f s).regs = s.regs := rfl
@[simp] theorem setAt_host (m : Fin 16) (f : AcqTrigger → AcqTrigger) : (setAt m f s).host = s.host := rfl
@[simp] theorem setAt_store (m : Fin 16) (f : AcqTrigger → AcqTrigger) : (setAt m f s).store = s.store := rfl
@[simp] theorem setAt_inlets (m : Fin 16) (f : AcqTrigger → AcqTrigger) : (setAt m f s).inlets = s.inlets := rfl
@[simp] theorem setAt_tasks (m : Fin 16) (f : AcqTrigger → AcqTrigger) : (setAt m f s).tasks = s.tasks := rfl
@[simp] theorem setAt_nextTask (m : Fin 16) (f : AcqTrigger → AcqTrigger) : (setAt m f s).nextTask = s.nextTask := rfl
@[simp] theorem setAt_xcorrs (m : Fin 16) (f : AcqTrigger → AcqTrigger) : (setAt m f s).xcorrs = s.xcorrs := rfl
@[simp] theorem setAt_tiles (m : Fin 16) (f : AcqTrigger → AcqTrigger) : (setAt m f s).tiles = s.tiles := rfl
@[simp] theorem setAt_cs (m : Fin 16) (f : AcqTrigger → AcqTrigger) : (setAt m f s).cs = s.cs := rfl
@[simp] theorem setAt_squall (m : Fin 16) (f : AcqTrigger → AcqTrigger) : (setAt m f s).squall = { s.squall with ats := vmod s.squall.ats m f } := rfl
@[simp] theorem setAt_eddy (m : Fin 16) (f : AcqTrigger → AcqTrigger) : (setAt m f s).eddy = s.eddy := rfl
@[simp] theorem setAt_scn (m : Fin 16) (f : AcqTrigger → AcqTrigger) : (setAt m f s).scn = s.scn := rfl
@[simp] theorem setAt_tw (m : Fin 16) (f : AcqTrigger → AcqTrigger) : (setAt m f s).tw = s.tw := rfl
@[simp] theorem setAt_drt (m : Fin 16) (f : AcqTrigger → AcqTrigger) : (setAt m f s).drt = s.drt := rfl
@[simp] theorem setAt_link (m : Fin 16) (f : AcqTrigger → AcqTrigger) : (setAt m f s).link = s.link := rfl
@[simp] theorem setAt_cal (m : Fin 16) (f : AcqTrigger → AcqTrigger) : (setAt m f s).cal = s.cal := rfl
@[simp] theorem setAt_brz (m : Fin 16) (f : AcqTrigger → AcqTrigger) : (setAt m f s).brz = s.brz := rfl
@[simp] theorem setAt_boot (m : Fin 16) (f : AcqTrigger → AcqTrigger) : (setAt m f s).boot = s.boot := rfl
@[simp] theorem setAt_fynal (m : Fin 16) (f : AcqTrigger → AcqTrigger) : (setAt m f s).fynal = s.fynal := rfl
@[simp] theorem setAt_jtag (m : Fin 16) (f : AcqTrigger → AcqTrigger) : (setAt m f s).jtag = s.jtag := rfl
@[simp] theorem setAt_life (m : Fin 16) (f : AcqTrigger → AcqTrigger) : (setAt m f s).life = s.life := rfl
@[simp] theorem setAt_fw (m : Fin 16) (f : AcqTrigger → AcqTrigger) : (setAt m f s).fw = s.fw := rfl

@[simp] theorem setMap_pending (m : Fin 8) (f : DensityMap → DensityMap) : (setMap m f s).pending = s.pending := rfl
@[simp] theorem setMap_free (m : Fin 8) (f : DensityMap → DensityMap) : (setMap m f s).free = s.free := rfl
@[simp] theorem setMap_clk (m : Fin 8) (f : DensityMap → DensityMap) : (setMap m f s).clk = s.clk := rfl
@[simp] theorem setMap_pwr (m : Fin 8) (f : DensityMap → DensityMap) : (setMap m f s).pwr = s.pwr := rfl
@[simp] theorem setMap_mbx (m : Fin 8) (f : DensityMap → DensityMap) : (setMap m f s).mbx = s.mbx := rfl
@[simp] theorem setMap_evt (m : Fin 8) (f : DensityMap → DensityMap) : (setMap m f s).evt = s.evt := rfl
@[simp] theorem setMap_pcie (m : Fin 8) (f : DensityMap → DensityMap) : (setMap m f s).pcie = s.pcie := rfl
@[simp] theorem setMap_regs (m : Fin 8) (f : DensityMap → DensityMap) : (setMap m f s).regs = s.regs := rfl
@[simp] theorem setMap_host (m : Fin 8) (f : DensityMap → DensityMap) : (setMap m f s).host = s.host := rfl
@[simp] theorem setMap_store (m : Fin 8) (f : DensityMap → DensityMap) : (setMap m f s).store = s.store := rfl
@[simp] theorem setMap_inlets (m : Fin 8) (f : DensityMap → DensityMap) : (setMap m f s).inlets = s.inlets := rfl
@[simp] theorem setMap_tasks (m : Fin 8) (f : DensityMap → DensityMap) : (setMap m f s).tasks = s.tasks := rfl
@[simp] theorem setMap_nextTask (m : Fin 8) (f : DensityMap → DensityMap) : (setMap m f s).nextTask = s.nextTask := rfl
@[simp] theorem setMap_xcorrs (m : Fin 8) (f : DensityMap → DensityMap) : (setMap m f s).xcorrs = s.xcorrs := rfl
@[simp] theorem setMap_tiles (m : Fin 8) (f : DensityMap → DensityMap) : (setMap m f s).tiles = s.tiles := rfl
@[simp] theorem setMap_cs (m : Fin 8) (f : DensityMap → DensityMap) : (setMap m f s).cs = s.cs := rfl
@[simp] theorem setMap_squall (m : Fin 8) (f : DensityMap → DensityMap) : (setMap m f s).squall = s.squall := rfl
@[simp] theorem setMap_eddy (m : Fin 8) (f : DensityMap → DensityMap) : (setMap m f s).eddy = { s.eddy with maps := vmod s.eddy.maps m f } := rfl
@[simp] theorem setMap_scn (m : Fin 8) (f : DensityMap → DensityMap) : (setMap m f s).scn = s.scn := rfl
@[simp] theorem setMap_tw (m : Fin 8) (f : DensityMap → DensityMap) : (setMap m f s).tw = s.tw := rfl
@[simp] theorem setMap_drt (m : Fin 8) (f : DensityMap → DensityMap) : (setMap m f s).drt = s.drt := rfl
@[simp] theorem setMap_link (m : Fin 8) (f : DensityMap → DensityMap) : (setMap m f s).link = s.link := rfl
@[simp] theorem setMap_cal (m : Fin 8) (f : DensityMap → DensityMap) : (setMap m f s).cal = s.cal := rfl
@[simp] theorem setMap_brz (m : Fin 8) (f : DensityMap → DensityMap) : (setMap m f s).brz = s.brz := rfl
@[simp] theorem setMap_boot (m : Fin 8) (f : DensityMap → DensityMap) : (setMap m f s).boot = s.boot := rfl
@[simp] theorem setMap_fynal (m : Fin 8) (f : DensityMap → DensityMap) : (setMap m f s).fynal = s.fynal := rfl
@[simp] theorem setMap_jtag (m : Fin 8) (f : DensityMap → DensityMap) : (setMap m f s).jtag = s.jtag := rfl
@[simp] theorem setMap_life (m : Fin 8) (f : DensityMap → DensityMap) : (setMap m f s).life = s.life := rfl
@[simp] theorem setMap_fw (m : Fin 8) (f : DensityMap → DensityMap) : (setMap m f s).fw = s.fw := rfl

@[simp] theorem setScn_pending (f : ScanOut → ScanOut) : (setScn f s).pending = s.pending := rfl
@[simp] theorem setScn_free (f : ScanOut → ScanOut) : (setScn f s).free = s.free := rfl
@[simp] theorem setScn_clk (f : ScanOut → ScanOut) : (setScn f s).clk = s.clk := rfl
@[simp] theorem setScn_pwr (f : ScanOut → ScanOut) : (setScn f s).pwr = s.pwr := rfl
@[simp] theorem setScn_mbx (f : ScanOut → ScanOut) : (setScn f s).mbx = s.mbx := rfl
@[simp] theorem setScn_evt (f : ScanOut → ScanOut) : (setScn f s).evt = s.evt := rfl
@[simp] theorem setScn_pcie (f : ScanOut → ScanOut) : (setScn f s).pcie = s.pcie := rfl
@[simp] theorem setScn_regs (f : ScanOut → ScanOut) : (setScn f s).regs = s.regs := rfl
@[simp] theorem setScn_host (f : ScanOut → ScanOut) : (setScn f s).host = s.host := rfl
@[simp] theorem setScn_store (f : ScanOut → ScanOut) : (setScn f s).store = s.store := rfl
@[simp] theorem setScn_inlets (f : ScanOut → ScanOut) : (setScn f s).inlets = s.inlets := rfl
@[simp] theorem setScn_tasks (f : ScanOut → ScanOut) : (setScn f s).tasks = s.tasks := rfl
@[simp] theorem setScn_nextTask (f : ScanOut → ScanOut) : (setScn f s).nextTask = s.nextTask := rfl
@[simp] theorem setScn_xcorrs (f : ScanOut → ScanOut) : (setScn f s).xcorrs = s.xcorrs := rfl
@[simp] theorem setScn_tiles (f : ScanOut → ScanOut) : (setScn f s).tiles = s.tiles := rfl
@[simp] theorem setScn_cs (f : ScanOut → ScanOut) : (setScn f s).cs = s.cs := rfl
@[simp] theorem setScn_squall (f : ScanOut → ScanOut) : (setScn f s).squall = s.squall := rfl
@[simp] theorem setScn_eddy (f : ScanOut → ScanOut) : (setScn f s).eddy = s.eddy := rfl
@[simp] theorem setScn_scn (f : ScanOut → ScanOut) : (setScn f s).scn = f s.scn := rfl
@[simp] theorem setScn_tw (f : ScanOut → ScanOut) : (setScn f s).tw = s.tw := rfl
@[simp] theorem setScn_drt (f : ScanOut → ScanOut) : (setScn f s).drt = s.drt := rfl
@[simp] theorem setScn_link (f : ScanOut → ScanOut) : (setScn f s).link = s.link := rfl
@[simp] theorem setScn_cal (f : ScanOut → ScanOut) : (setScn f s).cal = s.cal := rfl
@[simp] theorem setScn_brz (f : ScanOut → ScanOut) : (setScn f s).brz = s.brz := rfl
@[simp] theorem setScn_boot (f : ScanOut → ScanOut) : (setScn f s).boot = s.boot := rfl
@[simp] theorem setScn_fynal (f : ScanOut → ScanOut) : (setScn f s).fynal = s.fynal := rfl
@[simp] theorem setScn_jtag (f : ScanOut → ScanOut) : (setScn f s).jtag = s.jtag := rfl
@[simp] theorem setScn_life (f : ScanOut → ScanOut) : (setScn f s).life = s.life := rfl
@[simp] theorem setScn_fw (f : ScanOut → ScanOut) : (setScn f s).fw = s.fw := rfl

@[simp] theorem setStream_pending (n : Fin 16) (f : Stream → Stream) : (setStream n f s).pending = s.pending := rfl
@[simp] theorem setStream_free (n : Fin 16) (f : Stream → Stream) : (setStream n f s).free = s.free := rfl
@[simp] theorem setStream_clk (n : Fin 16) (f : Stream → Stream) : (setStream n f s).clk = s.clk := rfl
@[simp] theorem setStream_pwr (n : Fin 16) (f : Stream → Stream) : (setStream n f s).pwr = s.pwr := rfl
@[simp] theorem setStream_mbx (n : Fin 16) (f : Stream → Stream) : (setStream n f s).mbx = s.mbx := rfl
@[simp] theorem setStream_evt (n : Fin 16) (f : Stream → Stream) : (setStream n f s).evt = s.evt := rfl
@[simp] theorem setStream_pcie (n : Fin 16) (f : Stream → Stream) : (setStream n f s).pcie = s.pcie := rfl
@[simp] theorem setStream_regs (n : Fin 16) (f : Stream → Stream) : (setStream n f s).regs = s.regs := rfl
@[simp] theorem setStream_host (n : Fin 16) (f : Stream → Stream) : (setStream n f s).host = s.host := rfl
@[simp] theorem setStream_store (n : Fin 16) (f : Stream → Stream) : (setStream n f s).store = s.store := rfl
@[simp] theorem setStream_inlets (n : Fin 16) (f : Stream → Stream) : (setStream n f s).inlets = s.inlets := rfl
@[simp] theorem setStream_tasks (n : Fin 16) (f : Stream → Stream) : (setStream n f s).tasks = s.tasks := rfl
@[simp] theorem setStream_nextTask (n : Fin 16) (f : Stream → Stream) : (setStream n f s).nextTask = s.nextTask := rfl
@[simp] theorem setStream_xcorrs (n : Fin 16) (f : Stream → Stream) : (setStream n f s).xcorrs = s.xcorrs := rfl
@[simp] theorem setStream_tiles (n : Fin 16) (f : Stream → Stream) : (setStream n f s).tiles = s.tiles := rfl
@[simp] theorem setStream_cs (n : Fin 16) (f : Stream → Stream) : (setStream n f s).cs = s.cs := rfl
@[simp] theorem setStream_squall (n : Fin 16) (f : Stream → Stream) : (setStream n f s).squall = s.squall := rfl
@[simp] theorem setStream_eddy (n : Fin 16) (f : Stream → Stream) : (setStream n f s).eddy = s.eddy := rfl
@[simp] theorem setStream_scn (n : Fin 16) (f : Stream → Stream) : (setStream n f s).scn = s.scn := rfl
@[simp] theorem setStream_tw (n : Fin 16) (f : Stream → Stream) : (setStream n f s).tw = vmod s.tw n f := rfl
@[simp] theorem setStream_drt (n : Fin 16) (f : Stream → Stream) : (setStream n f s).drt = s.drt := rfl
@[simp] theorem setStream_link (n : Fin 16) (f : Stream → Stream) : (setStream n f s).link = s.link := rfl
@[simp] theorem setStream_cal (n : Fin 16) (f : Stream → Stream) : (setStream n f s).cal = s.cal := rfl
@[simp] theorem setStream_brz (n : Fin 16) (f : Stream → Stream) : (setStream n f s).brz = s.brz := rfl
@[simp] theorem setStream_boot (n : Fin 16) (f : Stream → Stream) : (setStream n f s).boot = s.boot := rfl
@[simp] theorem setStream_fynal (n : Fin 16) (f : Stream → Stream) : (setStream n f s).fynal = s.fynal := rfl
@[simp] theorem setStream_jtag (n : Fin 16) (f : Stream → Stream) : (setStream n f s).jtag = s.jtag := rfl
@[simp] theorem setStream_life (n : Fin 16) (f : Stream → Stream) : (setStream n f s).life = s.life := rfl
@[simp] theorem setStream_fw (n : Fin 16) (f : Stream → Stream) : (setStream n f s).fw = s.fw := rfl

@[simp] theorem setChan_pending (n : Fin 32) (f : DmaChan → DmaChan) : (setChan n f s).pending = s.pending := rfl
@[simp] theorem setChan_free (n : Fin 32) (f : DmaChan → DmaChan) : (setChan n f s).free = s.free := rfl
@[simp] theorem setChan_clk (n : Fin 32) (f : DmaChan → DmaChan) : (setChan n f s).clk = s.clk := rfl
@[simp] theorem setChan_pwr (n : Fin 32) (f : DmaChan → DmaChan) : (setChan n f s).pwr = s.pwr := rfl
@[simp] theorem setChan_mbx (n : Fin 32) (f : DmaChan → DmaChan) : (setChan n f s).mbx = s.mbx := rfl
@[simp] theorem setChan_evt (n : Fin 32) (f : DmaChan → DmaChan) : (setChan n f s).evt = s.evt := rfl
@[simp] theorem setChan_pcie (n : Fin 32) (f : DmaChan → DmaChan) : (setChan n f s).pcie = s.pcie := rfl
@[simp] theorem setChan_regs (n : Fin 32) (f : DmaChan → DmaChan) : (setChan n f s).regs = s.regs := rfl
@[simp] theorem setChan_host (n : Fin 32) (f : DmaChan → DmaChan) : (setChan n f s).host = s.host := rfl
@[simp] theorem setChan_store (n : Fin 32) (f : DmaChan → DmaChan) : (setChan n f s).store = s.store := rfl
@[simp] theorem setChan_inlets (n : Fin 32) (f : DmaChan → DmaChan) : (setChan n f s).inlets = s.inlets := rfl
@[simp] theorem setChan_tasks (n : Fin 32) (f : DmaChan → DmaChan) : (setChan n f s).tasks = s.tasks := rfl
@[simp] theorem setChan_nextTask (n : Fin 32) (f : DmaChan → DmaChan) : (setChan n f s).nextTask = s.nextTask := rfl
@[simp] theorem setChan_xcorrs (n : Fin 32) (f : DmaChan → DmaChan) : (setChan n f s).xcorrs = s.xcorrs := rfl
@[simp] theorem setChan_tiles (n : Fin 32) (f : DmaChan → DmaChan) : (setChan n f s).tiles = s.tiles := rfl
@[simp] theorem setChan_cs (n : Fin 32) (f : DmaChan → DmaChan) : (setChan n f s).cs = s.cs := rfl
@[simp] theorem setChan_squall (n : Fin 32) (f : DmaChan → DmaChan) : (setChan n f s).squall = s.squall := rfl
@[simp] theorem setChan_eddy (n : Fin 32) (f : DmaChan → DmaChan) : (setChan n f s).eddy = s.eddy := rfl
@[simp] theorem setChan_scn (n : Fin 32) (f : DmaChan → DmaChan) : (setChan n f s).scn = s.scn := rfl
@[simp] theorem setChan_tw (n : Fin 32) (f : DmaChan → DmaChan) : (setChan n f s).tw = s.tw := rfl
@[simp] theorem setChan_drt (n : Fin 32) (f : DmaChan → DmaChan) : (setChan n f s).drt = { s.drt with chans := vmod s.drt.chans n f } := rfl
@[simp] theorem setChan_link (n : Fin 32) (f : DmaChan → DmaChan) : (setChan n f s).link = s.link := rfl
@[simp] theorem setChan_cal (n : Fin 32) (f : DmaChan → DmaChan) : (setChan n f s).cal = s.cal := rfl
@[simp] theorem setChan_brz (n : Fin 32) (f : DmaChan → DmaChan) : (setChan n f s).brz = s.brz := rfl
@[simp] theorem setChan_boot (n : Fin 32) (f : DmaChan → DmaChan) : (setChan n f s).boot = s.boot := rfl
@[simp] theorem setChan_fynal (n : Fin 32) (f : DmaChan → DmaChan) : (setChan n f s).fynal = s.fynal := rfl
@[simp] theorem setChan_jtag (n : Fin 32) (f : DmaChan → DmaChan) : (setChan n f s).jtag = s.jtag := rfl
@[simp] theorem setChan_life (n : Fin 32) (f : DmaChan → DmaChan) : (setChan n f s).life = s.life := rfl
@[simp] theorem setChan_fw (n : Fin 32) (f : DmaChan → DmaChan) : (setChan n f s).fw = s.fw := rfl

@[simp] theorem setPort_pending (n : Fin 4) (f : Port → Port) : (setPort n f s).pending = s.pending := rfl
@[simp] theorem setPort_free (n : Fin 4) (f : Port → Port) : (setPort n f s).free = s.free := rfl
@[simp] theorem setPort_clk (n : Fin 4) (f : Port → Port) : (setPort n f s).clk = s.clk := rfl
@[simp] theorem setPort_pwr (n : Fin 4) (f : Port → Port) : (setPort n f s).pwr = s.pwr := rfl
@[simp] theorem setPort_mbx (n : Fin 4) (f : Port → Port) : (setPort n f s).mbx = s.mbx := rfl
@[simp] theorem setPort_evt (n : Fin 4) (f : Port → Port) : (setPort n f s).evt = s.evt := rfl
@[simp] theorem setPort_pcie (n : Fin 4) (f : Port → Port) : (setPort n f s).pcie = s.pcie := rfl
@[simp] theorem setPort_regs (n : Fin 4) (f : Port → Port) : (setPort n f s).regs = s.regs := rfl
@[simp] theorem setPort_host (n : Fin 4) (f : Port → Port) : (setPort n f s).host = s.host := rfl
@[simp] theorem setPort_store (n : Fin 4) (f : Port → Port) : (setPort n f s).store = s.store := rfl
@[simp] theorem setPort_inlets (n : Fin 4) (f : Port → Port) : (setPort n f s).inlets = s.inlets := rfl
@[simp] theorem setPort_tasks (n : Fin 4) (f : Port → Port) : (setPort n f s).tasks = s.tasks := rfl
@[simp] theorem setPort_nextTask (n : Fin 4) (f : Port → Port) : (setPort n f s).nextTask = s.nextTask := rfl
@[simp] theorem setPort_xcorrs (n : Fin 4) (f : Port → Port) : (setPort n f s).xcorrs = s.xcorrs := rfl
@[simp] theorem setPort_tiles (n : Fin 4) (f : Port → Port) : (setPort n f s).tiles = s.tiles := rfl
@[simp] theorem setPort_cs (n : Fin 4) (f : Port → Port) : (setPort n f s).cs = s.cs := rfl
@[simp] theorem setPort_squall (n : Fin 4) (f : Port → Port) : (setPort n f s).squall = s.squall := rfl
@[simp] theorem setPort_eddy (n : Fin 4) (f : Port → Port) : (setPort n f s).eddy = s.eddy := rfl
@[simp] theorem setPort_scn (n : Fin 4) (f : Port → Port) : (setPort n f s).scn = s.scn := rfl
@[simp] theorem setPort_tw (n : Fin 4) (f : Port → Port) : (setPort n f s).tw = s.tw := rfl
@[simp] theorem setPort_drt (n : Fin 4) (f : Port → Port) : (setPort n f s).drt = s.drt := rfl
@[simp] theorem setPort_link (n : Fin 4) (f : Port → Port) : (setPort n f s).link = { s.link with ports := vmod s.link.ports n f } := rfl
@[simp] theorem setPort_cal (n : Fin 4) (f : Port → Port) : (setPort n f s).cal = s.cal := rfl
@[simp] theorem setPort_brz (n : Fin 4) (f : Port → Port) : (setPort n f s).brz = s.brz := rfl
@[simp] theorem setPort_boot (n : Fin 4) (f : Port → Port) : (setPort n f s).boot = s.boot := rfl
@[simp] theorem setPort_fynal (n : Fin 4) (f : Port → Port) : (setPort n f s).fynal = s.fynal := rfl
@[simp] theorem setPort_jtag (n : Fin 4) (f : Port → Port) : (setPort n f s).jtag = s.jtag := rfl
@[simp] theorem setPort_life (n : Fin 4) (f : Port → Port) : (setPort n f s).life = s.life := rfl
@[simp] theorem setPort_fw (n : Fin 4) (f : Port → Port) : (setPort n f s).fw = s.fw := rfl

@[simp] theorem setConv_pending (x : Fin 2) (f : BrzConv → BrzConv) : (setConv x f s).pending = s.pending := rfl
@[simp] theorem setConv_free (x : Fin 2) (f : BrzConv → BrzConv) : (setConv x f s).free = s.free := rfl
@[simp] theorem setConv_clk (x : Fin 2) (f : BrzConv → BrzConv) : (setConv x f s).clk = s.clk := rfl
@[simp] theorem setConv_pwr (x : Fin 2) (f : BrzConv → BrzConv) : (setConv x f s).pwr = s.pwr := rfl
@[simp] theorem setConv_mbx (x : Fin 2) (f : BrzConv → BrzConv) : (setConv x f s).mbx = s.mbx := rfl
@[simp] theorem setConv_evt (x : Fin 2) (f : BrzConv → BrzConv) : (setConv x f s).evt = s.evt := rfl
@[simp] theorem setConv_pcie (x : Fin 2) (f : BrzConv → BrzConv) : (setConv x f s).pcie = s.pcie := rfl
@[simp] theorem setConv_regs (x : Fin 2) (f : BrzConv → BrzConv) : (setConv x f s).regs = s.regs := rfl
@[simp] theorem setConv_host (x : Fin 2) (f : BrzConv → BrzConv) : (setConv x f s).host = s.host := rfl
@[simp] theorem setConv_store (x : Fin 2) (f : BrzConv → BrzConv) : (setConv x f s).store = s.store := rfl
@[simp] theorem setConv_inlets (x : Fin 2) (f : BrzConv → BrzConv) : (setConv x f s).inlets = s.inlets := rfl
@[simp] theorem setConv_tasks (x : Fin 2) (f : BrzConv → BrzConv) : (setConv x f s).tasks = s.tasks := rfl
@[simp] theorem setConv_nextTask (x : Fin 2) (f : BrzConv → BrzConv) : (setConv x f s).nextTask = s.nextTask := rfl
@[simp] theorem setConv_xcorrs (x : Fin 2) (f : BrzConv → BrzConv) : (setConv x f s).xcorrs = s.xcorrs := rfl
@[simp] theorem setConv_tiles (x : Fin 2) (f : BrzConv → BrzConv) : (setConv x f s).tiles = s.tiles := rfl
@[simp] theorem setConv_cs (x : Fin 2) (f : BrzConv → BrzConv) : (setConv x f s).cs = s.cs := rfl
@[simp] theorem setConv_squall (x : Fin 2) (f : BrzConv → BrzConv) : (setConv x f s).squall = s.squall := rfl
@[simp] theorem setConv_eddy (x : Fin 2) (f : BrzConv → BrzConv) : (setConv x f s).eddy = s.eddy := rfl
@[simp] theorem setConv_scn (x : Fin 2) (f : BrzConv → BrzConv) : (setConv x f s).scn = s.scn := rfl
@[simp] theorem setConv_tw (x : Fin 2) (f : BrzConv → BrzConv) : (setConv x f s).tw = s.tw := rfl
@[simp] theorem setConv_drt (x : Fin 2) (f : BrzConv → BrzConv) : (setConv x f s).drt = s.drt := rfl
@[simp] theorem setConv_link (x : Fin 2) (f : BrzConv → BrzConv) : (setConv x f s).link = s.link := rfl
@[simp] theorem setConv_cal (x : Fin 2) (f : BrzConv → BrzConv) : (setConv x f s).cal = s.cal := rfl
@[simp] theorem setConv_brz (x : Fin 2) (f : BrzConv → BrzConv) : (setConv x f s).brz = { s.brz with convs := vmod s.brz.convs x f } := rfl
@[simp] theorem setConv_boot (x : Fin 2) (f : BrzConv → BrzConv) : (setConv x f s).boot = s.boot := rfl
@[simp] theorem setConv_fynal (x : Fin 2) (f : BrzConv → BrzConv) : (setConv x f s).fynal = s.fynal := rfl
@[simp] theorem setConv_jtag (x : Fin 2) (f : BrzConv → BrzConv) : (setConv x f s).jtag = s.jtag := rfl
@[simp] theorem setConv_life (x : Fin 2) (f : BrzConv → BrzConv) : (setConv x f s).life = s.life := rfl
@[simp] theorem setConv_fw (x : Fin 2) (f : BrzConv → BrzConv) : (setConv x f s).fw = s.fw := rfl

@[simp] theorem setBoot_pending (f : Boot → Boot) : (setBoot f s).pending = s.pending := rfl
@[simp] theorem setBoot_free (f : Boot → Boot) : (setBoot f s).free = s.free := rfl
@[simp] theorem setBoot_clk (f : Boot → Boot) : (setBoot f s).clk = s.clk := rfl
@[simp] theorem setBoot_pwr (f : Boot → Boot) : (setBoot f s).pwr = s.pwr := rfl
@[simp] theorem setBoot_mbx (f : Boot → Boot) : (setBoot f s).mbx = s.mbx := rfl
@[simp] theorem setBoot_evt (f : Boot → Boot) : (setBoot f s).evt = s.evt := rfl
@[simp] theorem setBoot_pcie (f : Boot → Boot) : (setBoot f s).pcie = s.pcie := rfl
@[simp] theorem setBoot_regs (f : Boot → Boot) : (setBoot f s).regs = s.regs := rfl
@[simp] theorem setBoot_host (f : Boot → Boot) : (setBoot f s).host = s.host := rfl
@[simp] theorem setBoot_store (f : Boot → Boot) : (setBoot f s).store = s.store := rfl
@[simp] theorem setBoot_inlets (f : Boot → Boot) : (setBoot f s).inlets = s.inlets := rfl
@[simp] theorem setBoot_tasks (f : Boot → Boot) : (setBoot f s).tasks = s.tasks := rfl
@[simp] theorem setBoot_nextTask (f : Boot → Boot) : (setBoot f s).nextTask = s.nextTask := rfl
@[simp] theorem setBoot_xcorrs (f : Boot → Boot) : (setBoot f s).xcorrs = s.xcorrs := rfl
@[simp] theorem setBoot_tiles (f : Boot → Boot) : (setBoot f s).tiles = s.tiles := rfl
@[simp] theorem setBoot_cs (f : Boot → Boot) : (setBoot f s).cs = s.cs := rfl
@[simp] theorem setBoot_squall (f : Boot → Boot) : (setBoot f s).squall = s.squall := rfl
@[simp] theorem setBoot_eddy (f : Boot → Boot) : (setBoot f s).eddy = s.eddy := rfl
@[simp] theorem setBoot_scn (f : Boot → Boot) : (setBoot f s).scn = s.scn := rfl
@[simp] theorem setBoot_tw (f : Boot → Boot) : (setBoot f s).tw = s.tw := rfl
@[simp] theorem setBoot_drt (f : Boot → Boot) : (setBoot f s).drt = s.drt := rfl
@[simp] theorem setBoot_link (f : Boot → Boot) : (setBoot f s).link = s.link := rfl
@[simp] theorem setBoot_cal (f : Boot → Boot) : (setBoot f s).cal = s.cal := rfl
@[simp] theorem setBoot_brz (f : Boot → Boot) : (setBoot f s).brz = s.brz := rfl
@[simp] theorem setBoot_boot (f : Boot → Boot) : (setBoot f s).boot = f s.boot := rfl
@[simp] theorem setBoot_fynal (f : Boot → Boot) : (setBoot f s).fynal = s.fynal := rfl
@[simp] theorem setBoot_jtag (f : Boot → Boot) : (setBoot f s).jtag = s.jtag := rfl
@[simp] theorem setBoot_life (f : Boot → Boot) : (setBoot f s).life = s.life := rfl
@[simp] theorem setBoot_fw (f : Boot → Boot) : (setBoot f s).fw = s.fw := rfl

@[simp] theorem setFynal_pending (f : Fynal → Fynal) : (setFynal f s).pending = s.pending := rfl
@[simp] theorem setFynal_free (f : Fynal → Fynal) : (setFynal f s).free = s.free := rfl
@[simp] theorem setFynal_clk (f : Fynal → Fynal) : (setFynal f s).clk = s.clk := rfl
@[simp] theorem setFynal_pwr (f : Fynal → Fynal) : (setFynal f s).pwr = s.pwr := rfl
@[simp] theorem setFynal_mbx (f : Fynal → Fynal) : (setFynal f s).mbx = s.mbx := rfl
@[simp] theorem setFynal_evt (f : Fynal → Fynal) : (setFynal f s).evt = s.evt := rfl
@[simp] theorem setFynal_pcie (f : Fynal → Fynal) : (setFynal f s).pcie = s.pcie := rfl
@[simp] theorem setFynal_regs (f : Fynal → Fynal) : (setFynal f s).regs = s.regs := rfl
@[simp] theorem setFynal_host (f : Fynal → Fynal) : (setFynal f s).host = s.host := rfl
@[simp] theorem setFynal_store (f : Fynal → Fynal) : (setFynal f s).store = s.store := rfl
@[simp] theorem setFynal_inlets (f : Fynal → Fynal) : (setFynal f s).inlets = s.inlets := rfl
@[simp] theorem setFynal_tasks (f : Fynal → Fynal) : (setFynal f s).tasks = s.tasks := rfl
@[simp] theorem setFynal_nextTask (f : Fynal → Fynal) : (setFynal f s).nextTask = s.nextTask := rfl
@[simp] theorem setFynal_xcorrs (f : Fynal → Fynal) : (setFynal f s).xcorrs = s.xcorrs := rfl
@[simp] theorem setFynal_tiles (f : Fynal → Fynal) : (setFynal f s).tiles = s.tiles := rfl
@[simp] theorem setFynal_cs (f : Fynal → Fynal) : (setFynal f s).cs = s.cs := rfl
@[simp] theorem setFynal_squall (f : Fynal → Fynal) : (setFynal f s).squall = s.squall := rfl
@[simp] theorem setFynal_eddy (f : Fynal → Fynal) : (setFynal f s).eddy = s.eddy := rfl
@[simp] theorem setFynal_scn (f : Fynal → Fynal) : (setFynal f s).scn = s.scn := rfl
@[simp] theorem setFynal_tw (f : Fynal → Fynal) : (setFynal f s).tw = s.tw := rfl
@[simp] theorem setFynal_drt (f : Fynal → Fynal) : (setFynal f s).drt = s.drt := rfl
@[simp] theorem setFynal_link (f : Fynal → Fynal) : (setFynal f s).link = s.link := rfl
@[simp] theorem setFynal_cal (f : Fynal → Fynal) : (setFynal f s).cal = s.cal := rfl
@[simp] theorem setFynal_brz (f : Fynal → Fynal) : (setFynal f s).brz = s.brz := rfl
@[simp] theorem setFynal_boot (f : Fynal → Fynal) : (setFynal f s).boot = s.boot := rfl
@[simp] theorem setFynal_fynal (f : Fynal → Fynal) : (setFynal f s).fynal = f s.fynal := rfl
@[simp] theorem setFynal_jtag (f : Fynal → Fynal) : (setFynal f s).jtag = s.jtag := rfl
@[simp] theorem setFynal_life (f : Fynal → Fynal) : (setFynal f s).life = s.life := rfl
@[simp] theorem setFynal_fw (f : Fynal → Fynal) : (setFynal f s).fw = s.fw := rfl

@[simp] theorem setLife_pending (f : Life → Life) : (setLife f s).pending = s.pending := rfl
@[simp] theorem setLife_free (f : Life → Life) : (setLife f s).free = s.free := rfl
@[simp] theorem setLife_clk (f : Life → Life) : (setLife f s).clk = s.clk := rfl
@[simp] theorem setLife_pwr (f : Life → Life) : (setLife f s).pwr = s.pwr := rfl
@[simp] theorem setLife_mbx (f : Life → Life) : (setLife f s).mbx = s.mbx := rfl
@[simp] theorem setLife_evt (f : Life → Life) : (setLife f s).evt = s.evt := rfl
@[simp] theorem setLife_pcie (f : Life → Life) : (setLife f s).pcie = s.pcie := rfl
@[simp] theorem setLife_regs (f : Life → Life) : (setLife f s).regs = s.regs := rfl
@[simp] theorem setLife_host (f : Life → Life) : (setLife f s).host = s.host := rfl
@[simp] theorem setLife_store (f : Life → Life) : (setLife f s).store = s.store := rfl
@[simp] theorem setLife_inlets (f : Life → Life) : (setLife f s).inlets = s.inlets := rfl
@[simp] theorem setLife_tasks (f : Life → Life) : (setLife f s).tasks = s.tasks := rfl
@[simp] theorem setLife_nextTask (f : Life → Life) : (setLife f s).nextTask = s.nextTask := rfl
@[simp] theorem setLife_xcorrs (f : Life → Life) : (setLife f s).xcorrs = s.xcorrs := rfl
@[simp] theorem setLife_tiles (f : Life → Life) : (setLife f s).tiles = s.tiles := rfl
@[simp] theorem setLife_cs (f : Life → Life) : (setLife f s).cs = s.cs := rfl
@[simp] theorem setLife_squall (f : Life → Life) : (setLife f s).squall = s.squall := rfl
@[simp] theorem setLife_eddy (f : Life → Life) : (setLife f s).eddy = s.eddy := rfl
@[simp] theorem setLife_scn (f : Life → Life) : (setLife f s).scn = s.scn := rfl
@[simp] theorem setLife_tw (f : Life → Life) : (setLife f s).tw = s.tw := rfl
@[simp] theorem setLife_drt (f : Life → Life) : (setLife f s).drt = s.drt := rfl
@[simp] theorem setLife_link (f : Life → Life) : (setLife f s).link = s.link := rfl
@[simp] theorem setLife_cal (f : Life → Life) : (setLife f s).cal = s.cal := rfl
@[simp] theorem setLife_brz (f : Life → Life) : (setLife f s).brz = s.brz := rfl
@[simp] theorem setLife_boot (f : Life → Life) : (setLife f s).boot = s.boot := rfl
@[simp] theorem setLife_fynal (f : Life → Life) : (setLife f s).fynal = s.fynal := rfl
@[simp] theorem setLife_jtag (f : Life → Life) : (setLife f s).jtag = s.jtag := rfl
@[simp] theorem setLife_life (f : Life → Life) : (setLife f s).life = f s.life := rfl
@[simp] theorem setLife_fw (f : Life → Life) : (setLife f s).fw = s.fw := rfl

@[simp] theorem State_setReg_pending (k : Nat) (v : U32) : (s.setReg k v).pending = s.pending := rfl
@[simp] theorem State_setReg_free (k : Nat) (v : U32) : (s.setReg k v).free = s.free := rfl
@[simp] theorem State_setReg_clk (k : Nat) (v : U32) : (s.setReg k v).clk = s.clk := rfl
@[simp] theorem State_setReg_pwr (k : Nat) (v : U32) : (s.setReg k v).pwr = s.pwr := rfl
@[simp] theorem State_setReg_mbx (k : Nat) (v : U32) : (s.setReg k v).mbx = s.mbx := rfl
@[simp] theorem State_setReg_evt (k : Nat) (v : U32) : (s.setReg k v).evt = s.evt := rfl
@[simp] theorem State_setReg_pcie (k : Nat) (v : U32) : (s.setReg k v).pcie = s.pcie := rfl
@[simp] theorem State_setReg_regs (k : Nat) (v : U32) : (s.setReg k v).regs = rfPut s.regs k v := rfl
@[simp] theorem State_setReg_host (k : Nat) (v : U32) : (s.setReg k v).host = s.host := rfl
@[simp] theorem State_setReg_store (k : Nat) (v : U32) : (s.setReg k v).store = s.store := rfl
@[simp] theorem State_setReg_inlets (k : Nat) (v : U32) : (s.setReg k v).inlets = s.inlets := rfl
@[simp] theorem State_setReg_tasks (k : Nat) (v : U32) : (s.setReg k v).tasks = s.tasks := rfl
@[simp] theorem State_setReg_nextTask (k : Nat) (v : U32) : (s.setReg k v).nextTask = s.nextTask := rfl
@[simp] theorem State_setReg_xcorrs (k : Nat) (v : U32) : (s.setReg k v).xcorrs = s.xcorrs := rfl
@[simp] theorem State_setReg_tiles (k : Nat) (v : U32) : (s.setReg k v).tiles = s.tiles := rfl
@[simp] theorem State_setReg_cs (k : Nat) (v : U32) : (s.setReg k v).cs = s.cs := rfl
@[simp] theorem State_setReg_squall (k : Nat) (v : U32) : (s.setReg k v).squall = s.squall := rfl
@[simp] theorem State_setReg_eddy (k : Nat) (v : U32) : (s.setReg k v).eddy = s.eddy := rfl
@[simp] theorem State_setReg_scn (k : Nat) (v : U32) : (s.setReg k v).scn = s.scn := rfl
@[simp] theorem State_setReg_tw (k : Nat) (v : U32) : (s.setReg k v).tw = s.tw := rfl
@[simp] theorem State_setReg_drt (k : Nat) (v : U32) : (s.setReg k v).drt = s.drt := rfl
@[simp] theorem State_setReg_link (k : Nat) (v : U32) : (s.setReg k v).link = s.link := rfl
@[simp] theorem State_setReg_cal (k : Nat) (v : U32) : (s.setReg k v).cal = s.cal := rfl
@[simp] theorem State_setReg_brz (k : Nat) (v : U32) : (s.setReg k v).brz = s.brz := rfl
@[simp] theorem State_setReg_boot (k : Nat) (v : U32) : (s.setReg k v).boot = s.boot := rfl
@[simp] theorem State_setReg_fynal (k : Nat) (v : U32) : (s.setReg k v).fynal = s.fynal := rfl
@[simp] theorem State_setReg_jtag (k : Nat) (v : U32) : (s.setReg k v).jtag = s.jtag := rfl
@[simp] theorem State_setReg_life (k : Nat) (v : U32) : (s.setReg k v).life = s.life := rfl
@[simp] theorem State_setReg_fw (k : Nat) (v : U32) : (s.setReg k v).fw = s.fw := rfl

@[simp] theorem pass_pending (n : Nat) : (pass n s).pending = s.pending := rfl
@[simp] theorem pass_free (n : Nat) : (pass n s).free = s.free := rfl
@[simp] theorem pass_clk (n : Nat) : (pass n s).clk = { s.clk with tick := mod64 (s.clk.tick + n), up := s.clk.up + n } := rfl
@[simp] theorem pass_pwr (n : Nat) : (pass n s).pwr = s.pwr := rfl
@[simp] theorem pass_mbx (n : Nat) : (pass n s).mbx = s.mbx := rfl
@[simp] theorem pass_evt (n : Nat) : (pass n s).evt = s.evt := rfl
@[simp] theorem pass_pcie (n : Nat) : (pass n s).pcie = s.pcie := rfl
@[simp] theorem pass_regs (n : Nat) : (pass n s).regs = s.regs := rfl
@[simp] theorem pass_host (n : Nat) : (pass n s).host = s.host := rfl
@[simp] theorem pass_store (n : Nat) : (pass n s).store = s.store := rfl
@[simp] theorem pass_inlets (n : Nat) : (pass n s).inlets = s.inlets := rfl
@[simp] theorem pass_tasks (n : Nat) : (pass n s).tasks = s.tasks := rfl
@[simp] theorem pass_nextTask (n : Nat) : (pass n s).nextTask = s.nextTask := rfl
@[simp] theorem pass_xcorrs (n : Nat) : (pass n s).xcorrs = s.xcorrs := rfl
@[simp] theorem pass_tiles (n : Nat) : (pass n s).tiles = s.tiles := rfl
@[simp] theorem pass_cs (n : Nat) : (pass n s).cs = s.cs := rfl
@[simp] theorem pass_squall (n : Nat) : (pass n s).squall = s.squall := rfl
@[simp] theorem pass_eddy (n : Nat) : (pass n s).eddy = s.eddy := rfl
@[simp] theorem pass_scn (n : Nat) : (pass n s).scn = s.scn := rfl
@[simp] theorem pass_tw (n : Nat) : (pass n s).tw = s.tw := rfl
@[simp] theorem pass_drt (n : Nat) : (pass n s).drt = s.drt := rfl
@[simp] theorem pass_link (n : Nat) : (pass n s).link = s.link := rfl
@[simp] theorem pass_cal (n : Nat) : (pass n s).cal = s.cal := rfl
@[simp] theorem pass_brz (n : Nat) : (pass n s).brz = s.brz := rfl
@[simp] theorem pass_boot (n : Nat) : (pass n s).boot = s.boot := rfl
@[simp] theorem pass_fynal (n : Nat) : (pass n s).fynal = s.fynal := rfl
@[simp] theorem pass_jtag (n : Nat) : (pass n s).jtag = s.jtag := rfl
@[simp] theorem pass_life (n : Nat) : (pass n s).life = s.life := rfl
@[simp] theorem pass_fw (n : Nat) : (pass n s).fw = s.fw := rfl

@[simp] theorem waitUp_pending (up : Nat) : (waitUp up s).pending = s.pending := rfl
@[simp] theorem waitUp_free (up : Nat) : (waitUp up s).free = s.free := rfl
@[simp] theorem waitUp_clk (up : Nat) : (waitUp up s).clk = { s.clk with tick := mod64 (s.clk.tick + (up - s.clk.up)), up := s.clk.up + (up - s.clk.up) } := rfl
@[simp] theorem waitUp_pwr (up : Nat) : (waitUp up s).pwr = s.pwr := rfl
@[simp] theorem waitUp_mbx (up : Nat) : (waitUp up s).mbx = s.mbx := rfl
@[simp] theorem waitUp_evt (up : Nat) : (waitUp up s).evt = s.evt := rfl
@[simp] theorem waitUp_pcie (up : Nat) : (waitUp up s).pcie = s.pcie := rfl
@[simp] theorem waitUp_regs (up : Nat) : (waitUp up s).regs = s.regs := rfl
@[simp] theorem waitUp_host (up : Nat) : (waitUp up s).host = s.host := rfl
@[simp] theorem waitUp_store (up : Nat) : (waitUp up s).store = s.store := rfl
@[simp] theorem waitUp_inlets (up : Nat) : (waitUp up s).inlets = s.inlets := rfl
@[simp] theorem waitUp_tasks (up : Nat) : (waitUp up s).tasks = s.tasks := rfl
@[simp] theorem waitUp_nextTask (up : Nat) : (waitUp up s).nextTask = s.nextTask := rfl
@[simp] theorem waitUp_xcorrs (up : Nat) : (waitUp up s).xcorrs = s.xcorrs := rfl
@[simp] theorem waitUp_tiles (up : Nat) : (waitUp up s).tiles = s.tiles := rfl
@[simp] theorem waitUp_cs (up : Nat) : (waitUp up s).cs = s.cs := rfl
@[simp] theorem waitUp_squall (up : Nat) : (waitUp up s).squall = s.squall := rfl
@[simp] theorem waitUp_eddy (up : Nat) : (waitUp up s).eddy = s.eddy := rfl
@[simp] theorem waitUp_scn (up : Nat) : (waitUp up s).scn = s.scn := rfl
@[simp] theorem waitUp_tw (up : Nat) : (waitUp up s).tw = s.tw := rfl
@[simp] theorem waitUp_drt (up : Nat) : (waitUp up s).drt = s.drt := rfl
@[simp] theorem waitUp_link (up : Nat) : (waitUp up s).link = s.link := rfl
@[simp] theorem waitUp_cal (up : Nat) : (waitUp up s).cal = s.cal := rfl
@[simp] theorem waitUp_brz (up : Nat) : (waitUp up s).brz = s.brz := rfl
@[simp] theorem waitUp_boot (up : Nat) : (waitUp up s).boot = s.boot := rfl
@[simp] theorem waitUp_fynal (up : Nat) : (waitUp up s).fynal = s.fynal := rfl
@[simp] theorem waitUp_jtag (up : Nat) : (waitUp up s).jtag = s.jtag := rfl
@[simp] theorem waitUp_life (up : Nat) : (waitUp up s).life = s.life := rfl
@[simp] theorem waitUp_fw (up : Nat) : (waitUp up s).fw = s.fw := rfl

@[simp] theorem waitTick_pending (t : Nat) : (waitTick t s).pending = s.pending := rfl
@[simp] theorem waitTick_free (t : Nat) : (waitTick t s).free = s.free := rfl
@[simp] theorem waitTick_clk (t : Nat) : (waitTick t s).clk = { s.clk with tick := mod64 (s.clk.tick + (t - s.clk.tick)), up := s.clk.up + (t - s.clk.tick) } := rfl
@[simp] theorem waitTick_pwr (t : Nat) : (waitTick t s).pwr = s.pwr := rfl
@[simp] theorem waitTick_mbx (t : Nat) : (waitTick t s).mbx = s.mbx := rfl
@[simp] theorem waitTick_evt (t : Nat) : (waitTick t s).evt = s.evt := rfl
@[simp] theorem waitTick_pcie (t : Nat) : (waitTick t s).pcie = s.pcie := rfl
@[simp] theorem waitTick_regs (t : Nat) : (waitTick t s).regs = s.regs := rfl
@[simp] theorem waitTick_host (t : Nat) : (waitTick t s).host = s.host := rfl
@[simp] theorem waitTick_store (t : Nat) : (waitTick t s).store = s.store := rfl
@[simp] theorem waitTick_inlets (t : Nat) : (waitTick t s).inlets = s.inlets := rfl
@[simp] theorem waitTick_tasks (t : Nat) : (waitTick t s).tasks = s.tasks := rfl
@[simp] theorem waitTick_nextTask (t : Nat) : (waitTick t s).nextTask = s.nextTask := rfl
@[simp] theorem waitTick_xcorrs (t : Nat) : (waitTick t s).xcorrs = s.xcorrs := rfl
@[simp] theorem waitTick_tiles (t : Nat) : (waitTick t s).tiles = s.tiles := rfl
@[simp] theorem waitTick_cs (t : Nat) : (waitTick t s).cs = s.cs := rfl
@[simp] theorem waitTick_squall (t : Nat) : (waitTick t s).squall = s.squall := rfl
@[simp] theorem waitTick_eddy (t : Nat) : (waitTick t s).eddy = s.eddy := rfl
@[simp] theorem waitTick_scn (t : Nat) : (waitTick t s).scn = s.scn := rfl
@[simp] theorem waitTick_tw (t : Nat) : (waitTick t s).tw = s.tw := rfl
@[simp] theorem waitTick_drt (t : Nat) : (waitTick t s).drt = s.drt := rfl
@[simp] theorem waitTick_link (t : Nat) : (waitTick t s).link = s.link := rfl
@[simp] theorem waitTick_cal (t : Nat) : (waitTick t s).cal = s.cal := rfl
@[simp] theorem waitTick_brz (t : Nat) : (waitTick t s).brz = s.brz := rfl
@[simp] theorem waitTick_boot (t : Nat) : (waitTick t s).boot = s.boot := rfl
@[simp] theorem waitTick_fynal (t : Nat) : (waitTick t s).fynal = s.fynal := rfl
@[simp] theorem waitTick_jtag (t : Nat) : (waitTick t s).jtag = s.jtag := rfl
@[simp] theorem waitTick_life (t : Nat) : (waitTick t s).life = s.life := rfl
@[simp] theorem waitTick_fw (t : Nat) : (waitTick t s).fw = s.fw := rfl

end Sys2Proof.Laws
end

