-- ==== Sys2Proof/Laws/Side.lean ====
section
/-! SUPPORT. What raising events, sending packets, completing commands and writing registers and host memory leave alone: every field
of the state but six. -/

namespace Sys2Proof.Laws

set_option Elab.async false

open Sys2Proof.Machine Sys2Proof.Safety

variable {s0 : State}

/-- A state that only these operations have changed. -/
def Side (s0 s : State) : Prop := s = sideOf s0 s

theorem Side_refl (s : State) : Side s s := rfl

theorem Side_trans {a b c : State} (h : Side a b) (g : Side b c) : Side a c := by
  unfold Side at *
  rw [g, h]
  rfl

theorem side_with {s : State} (h : Side s0 s) {evt mbx regs host pcie link} :
    Side s0 { s with evt := evt, mbx := mbx, regs := regs, host := host, pcie := pcie, link := link } := by
  unfold Side at *
  rw [h]
  rfl

theorem forL_side {s : State} {α : Type} {f : α → State → State} (l : List α) (hf : ∀ a s, Side s0 s → Side s0 (f a s)) (h : Side s0 s) :
    Side s0 (forL l f s) := by
  unfold forL
  induction l generalizing s with
  | nil => exact h
  | cons a l ih => exact ih (hf a s h)

theorem forN_side {s : State} {f : Nat → State → State} (n : Nat) (hf : ∀ a s, Side s0 s → Side s0 (f a s)) (h : Side s0 s) :
    Side s0 (forN n f s) := forL_side (f := f) (List.range n) hf h

theorem pair_side {t : State} {α : Type} {p : α × State} {a : α} (hp : p = (a, t)) (h : Side s0 p.2) : Side s0 t := by
  rw [hp] at h; exact h

theorem State_setReg_side {s : State} (k : Nat) (v : U32) (h : Side s0 s) : Side s0 (s.setReg k v) := side_with h

theorem State_setRegN_side (s : State) (k : Nat) (v : Nat) (h : Side s0 s) :
    Side s0 (State.setRegN s k v) := by
  unfold State.setRegN
  apply State_setReg_side
  exact h

theorem State_setReg64_side (s : State) (kLo kHi v : Nat) (h : Side s0 s) :
    Side s0 (State.setReg64 s kLo kHi v) := by
  unfold State.setReg64
  apply State_setRegN_side
  apply State_setRegN_side
  exact h

theorem State_setMask_side (s : State) (k : Nat) (mask v : U32) (h : Side s0 s) :
    Side s0 (State.setMask s k mask v) := by
  unfold State.setMask
  apply State_setReg_side
  exact h

theorem State_setField_side (s : State) (k hi lo v : Nat) (h : Side s0 s) :
    Side s0 (State.setField s k hi lo v) := by
  unfold State.setField
  apply State_setMask_side
  exact h

theorem State_countWrap_side (s : State) (k n : Nat) (h : Side s0 s) :
    Side s0 (State.countWrap s k n) := by
  unfold State.countWrap
  apply State_setReg_side
  exact h

theorem State_countSat_side (s : State) (k n : Nat) (h : Side s0 s) :
    Side s0 (State.countSat s k n) := by
  unfold State.countSat
  apply State_setRegN_side
  exact h




theorem setPort_side (n : Fin 4) (f : Port → Port) (s : State) (h : Side s0 s) :
    Side s0 (setPort n f s) := by
  unfold setPort
  exact side_with h

theorem pumpPort_side (n : Fin 4) (s : State) (h : Side s0 s) :
    Side s0 (pumpPort n s) := by
  unfold pumpPort
  apply setPort_side
  exact h

theorem sendOn_side (n : Fin 4) (p : Packet) (s : State) (h : Side s0 s) :
    Side s0 (sendOn n p s) := by
  unfold sendOn
  split
  · apply pumpPort_side
    apply setPort_side
    exact h
  · exact h

theorem discardPacket_side (s : State) (h : Side s0 s) :
    Side s0 (discardPacket s) := by
  unfold discardPacket
  exact side_with h

theorem send_side (p : Packet) (s : State) (h : Side s0 s) :
    Side s0 (send p s) := by
  unfold send
  split
  · apply sendOn_side
    exact h
  · apply discardPacket_side
    exact h

theorem broadcast_side (skip : Option (Fin 4)) (p : Packet) (s : State) (h : Side s0 s) :
    Side s0 (broadcast skip p s) := by
  unfold broadcast
  apply forL_side
  · intro x6 x7 h8
    split
    · exact h8
    · apply sendOn_side
      exact h8
  · exact h

theorem received_side (n : Fin 4) (p : Packet) (f : State → State) (s : State) (hf : ∀ s, Side s0 s → Side s0 (f s)) (h : Side s0 s) :
    Side s0 (received n p f s) := by
  unfold received
  extract_lets +onlyGivenNames y8
  clear_value y8
  split
  · split
    · apply hf
      exact h
    · exact h
  · split
    · apply hf
      exact h
    · exact h

theorem admitFlow_side {owner : Owner} {did tx rx : Nat} {s t : State} (h : Side s0 s) (ht : admitFlow owner did tx rx s = some t) :
    Side s0 t := by
  unfold admitFlow at ht
  split at ht
  · split at ht
    · cases ht; exact side_with h
    · cases ht
  · cases ht

theorem releaseFlow_side (owner : Owner) (s : State) (h : Side s0 s) :
    Side s0 (releaseFlow owner s) := by
  unfold releaseFlow
  exact side_with h

theorem sendBulk_side (subtype did addr info : Nat) (d : Data) (s : State) (h : Side s0 s) :
    Side s0 (sendBulk subtype did addr info d s) := by
  unfold sendBulk
  extract_lets +onlyGivenNames y9
  clear_value y9
  apply forN_side
  · intro x10 x11 h12
    apply send_side
    exact h12
  · exact h




theorem setPcie_side (f : Pcie → Pcie) (s : State) (h : Side s0 s) :
    Side s0 (setPcie f s) := by
  unfold setPcie
  exact side_with h

theorem setCfg_side (o : Nat) (v : U32) (s : State) (h : Side s0 s) :
    Side s0 (setCfg o v s) := by
  unfold setCfg
  apply setPcie_side
  exact h

theorem hostWrite_side {s : State} (a : Nat) (d : Data) (h : Side s0 s) : Side s0 (hostWrite a d s) := by
  unfold hostWrite
  split
  · exact side_with h
  · exact h

theorem hostData_side (relaxed noSnoop : Bool) (a : Nat) (d : Data) (s : State) (h : Side s0 s) :
    Side s0 (hostData relaxed noSnoop a d s) := by
  unfold hostData
  apply hostWrite_side
  apply setPcie_side
  exact h

theorem sendVector_side (v : Nat) (s : State) (h : Side s0 s) :
    Side s0 (sendVector v s) := by
  unfold sendVector
  exact side_with h

theorem signalVector_side (v : Nat) (s : State) (h : Side s0 s) :
    Side s0 (signalVector v s) := by
  unfold signalVector
  split
  · exact h
  · split
    · apply State_setField_side
      exact h
    · apply sendVector_side
      exact h

theorem setCplq_side (n : Fin 8) (f : OutQueue → OutQueue) (s : State) (h : Side s0 s) :
    Side s0 (setCplq n f s) := by
  unfold setCplq
  exact side_with h

theorem setEvq_side (n : Fin 4) (f : OutQueue → OutQueue) (s : State) (h : Side s0 s) :
    Side s0 (setEvq n f s) := by
  unfold setEvq
  exact side_with h

theorem setCmdq_side (n : Fin 8) (f : CmdQueue → CmdQueue) (s : State) (h : Side s0 s) :
    Side s0 (setCmdq n f s) := by
  unfold setCmdq
  exact side_with h

theorem evqPut_side (n : Fin 4) (e : Event) (vector : Nat) (s : State) (h : Side s0 s) :
    Side s0 (evqPut n e vector s) := by
  unfold evqPut
  extract_lets +onlyGivenNames y7
  clear_value y7
  extract_lets +onlyGivenNames y8
  have hy8 : Side s0 y8 := by
    subst y8
    apply hostWrite_side
    exact h
  clear_value y8
  extract_lets +onlyGivenNames y10
  have hy10 : Side s0 y10 := by
    subst y10
    apply setEvq_side
    exact hy8
  clear_value y10
  extract_lets +onlyGivenNames y12
  have hy12 : Side s0 y12 := by
    subst y12
    split
    · exact hy10
    · apply signalVector_side
      exact hy10
  clear_value y12
  split
  · apply signalVector_side
    apply setEvq_side
    exact hy12
  · exact hy12

theorem setEventStatus_side (ev tick : Nat) (s : State) (h : Side s0 s) :
    Side s0 (setEventStatus ev tick s) := by
  unfold setEventStatus
  extract_lets +onlyGivenNames y6
  clear_value y6
  split
  · exact h
  · extract_lets +onlyGivenNames y8
    have hy8 : Side s0 y8 := by
      subst y8
      apply State_setField_side
      exact h
    clear_value y8
    extract_lets +onlyGivenNames y10
    have hy10 : Side s0 y10 := by
      subst y10
      apply State_countWrap_side
      exact hy8
    clear_value y10
    split
    · apply State_setReg64_side
      apply State_setField_side
      exact hy10
    · exact hy10

theorem evqLost_side (n : Fin 4) (k : Nat) (s : State) (h : Side s0 s) :
    Side s0 (evqLost n k s) := by
  unfold evqLost
  apply State_countSat_side
  exact h

theorem evqResume_side (n : Fin 4) (s : State) (h : Side s0 s) :
    Side s0 (evqResume n s) := by
  unfold evqResume
  extract_lets +onlyGivenNames y5
  clear_value y5
  split
  · apply setEvq_side
    apply setEventStatus_side
    apply evqPut_side
    exact h
  · exact h

theorem evqDeliver_side (n : Fin 4) (e : Event) (vector : Nat) (s : State) (h : Side s0 s) :
    Side s0 (evqDeliver n e vector s).2 := by
  unfold evqDeliver
  extract_lets +onlyGivenNames y7
  have hy7 : Side s0 y7 := by
    subst y7
    apply evqResume_side
    exact h
  clear_value y7
  extract_lets +onlyGivenNames y9
  clear_value y9
  split
  · dsimp -zeta only
    apply evqLost_side
    apply setEvq_side
    exact hy7
  · split
    · dsimp -zeta only
      apply evqPut_side
      exact hy7
    · extract_lets +onlyGivenNames y12
      have hy12 : Side s0 y12 := by
        subst y12
        apply setEventStatus_side
        apply evqPut_side
        exact hy7
      clear_value y12
      dsimp -zeta only
      apply evqLost_side
      apply setEvq_side
      exact hy12

theorem evqLog_side (n : Fin 4) (e : Event) (s : State) (h : Side s0 s) :
    Side s0 (evqLog n e s) := by
  unfold evqLog
  extract_lets +onlyGivenNames y6
  clear_value y6
  split
  · exact side_with h
  · exact side_with h

theorem evqAccept_side (n : Fin 4) (e : Event) (vector : Nat) (s : State) (h : Side s0 s) :
    Side s0 (evqAccept n e vector s).2 := by
  unfold evqAccept
  split
  · apply evqDeliver_side
    exact h
  · dsimp -zeta only
    apply evqLog_side
    exact h

theorem forwardEvent_side (did : Nat) (r : EventRoute) (e : Event) (s : State) (h : Side s0 s) :
    Side s0 (forwardEvent did r e s) := by
  unfold forwardEvent
  extract_lets +onlyGivenNames y7
  clear_value y7
  apply send_side
  exact h

theorem routeEvent_side (e : Event) (s : State) (h : Side s0 s) :
    Side s0 (routeEvent e s).2 := by
  unfold routeEvent
  extract_lets +onlyGivenNames y5
  clear_value y5
  split
  · split
    · exact h
    · dsimp -zeta only
      apply forwardEvent_side
      exact h
  · split
    · apply evqAccept_side
      exact h
    · exact h

theorem raiseW_side (ev tick weight weight2 : Nat) (vals : List Val) (s : State) (h : Side s0 s) :
    Side s0 (raiseW ev tick weight weight2 vals s) := by
  unfold raiseW
  extract_lets +onlyGivenNames y9
  have hy9 : Side s0 y9 := by
    subst y9
    apply setEventStatus_side
    exact h
  clear_value y9
  extract_lets +onlyGivenNames y11
  clear_value y11
  extract_lets +onlyGivenNames y12
  clear_value y12
  extract_lets +onlyGivenNames y13
  clear_value y13
  extract_lets +onlyGivenNames y14
  clear_value y14
  extract_lets +onlyGivenNames y15
  clear_value y15
  extract_lets +onlyGivenNames y16
  have hy16 : Side s0 y16 := by
    subst y16
    exact side_with hy9
  clear_value y16
  extract_lets +onlyGivenNames y18
  clear_value y18
  extract_lets +onlyGivenNames y19
  clear_value y19
  extract_lets +onlyGivenNames y20
  have hy20 : Side s0 y20 := by
    subst y20
    split
    · exact side_with hy16
    · exact hy16
  clear_value y20
  extract_lets +onlyGivenNames y22
  clear_value y22
  split
  · exact hy20
  · extract_lets +onlyGivenNames y24
    have hy24 : Side s0 y24.2 := by
      subst y24
      apply routeEvent_side
      exact hy20
    clear_value y24
    split
    · extract_lets +onlyGivenNames y27
      have hy27 : Side s0 y27 := by
        subst y27
        exact hy24
      clear_value y27
      exact side_with hy27
    · exact hy24

theorem raiseAt_side (ev tick : Nat) (vals : List Val) (s : State) (h : Side s0 s) :
    Side s0 (raiseAt ev tick vals s) := by
  unfold raiseAt
  apply raiseW_side
  exact h

theorem raise_side (ev : Nat) (vals : List Val) (s : State) (h : Side s0 s) :
    Side s0 (raise ev vals s) := by
  unfold raise
  apply raiseW_side
  exact h

theorem deliverLog_side (n : Fin 4) (s : State) (h : Side s0 s) :
    Side s0 (deliverLog n s) := by
  unfold deliverLog
  extract_lets +onlyGivenNames y5
  clear_value y5
  extract_lets +onlyGivenNames y6
  clear_value y6
  extract_lets +onlyGivenNames y7
  clear_value y7
  extract_lets +onlyGivenNames y8
  have hy8 : Side s0 y8 := by
    subst y8
    exact side_with h
  clear_value y8
  extract_lets +onlyGivenNames y10
  have hy10 : Side s0 y10 := by
    subst y10
    split
    · exact hy8
    · apply evqLost_side
      apply evqDeliver_side
      apply setEventStatus_side
      exact hy8
  clear_value y10
  apply forL_side
  · intro x12 x13 h14
    apply evqDeliver_side
    exact h14
  · exact hy10

theorem aerLog_side (n : Nat) (s : State) (h : Side s0 s) :
    Side s0 (aerLog n s) := by
  unfold aerLog
  extract_lets +onlyGivenNames y5
  have hy5 : Side s0 y5 := by
    subst y5
    apply setCfg_side
    exact h
  clear_value y5
  extract_lets +onlyGivenNames y7
  clear_value y7
  split
  · exact hy5
  · extract_lets +onlyGivenNames y9
    clear_value y9
    apply raise_side
    apply setCfg_side
    apply setCfg_side
    exact hy5

theorem badWrite_side (s : State) (h : Side s0 s) :
    Side s0 (badWrite s) := by
  unfold badWrite
  apply raiseW_side
  apply State_countSat_side
  exact h

theorem refusedWrite_side (s : State) (h : Side s0 s) :
    Side s0 (refusedWrite s) := by
  unfold refusedWrite
  apply badWrite_side
  apply aerLog_side
  exact h

theorem refuseBar4_side (s : State) (h : Side s0 s) :
    Side s0 (refuseBar4 s) := by
  unfold refuseBar4
  apply raiseW_side
  apply State_countSat_side
  exact h




theorem dropCmd_side (id : Nat) (s : State) (h : Side s0 s) :
    Side s0 (dropCmd id s) := by
  unfold dropCmd
  exact side_with h

theorem setCmd_side (id : Nat) (f : Cmd → Cmd) (s : State) (h : Side s0 s) :
    Side s0 (setCmd id f s) := by
  unfold setCmd
  exact side_with h

theorem cplqWrite_side (q n : Fin 8) (noIrq : Bool) (tag status r0 r1 aux : Nat) (s : State) (h : Side s0 s) :
    Side s0 (cplqWrite q n noIrq tag status r0 r1 aux s) := by
  unfold cplqWrite
  extract_lets +onlyGivenNames y12
  clear_value y12
  split
  · apply State_countSat_side
    exact h
  · extract_lets +onlyGivenNames y14
    clear_value y14
    extract_lets +onlyGivenNames y15
    have hy15 : Side s0 y15 := by
      subst y15
      apply hostWrite_side
      exact h
    clear_value y15
    split
    · apply setCplq_side
      exact hy15
    · extract_lets +onlyGivenNames y18
      have hy18 : Side s0 y18 := by
        subst y18
        apply setCplq_side
        exact hy15
      clear_value y18
      split
      · apply signalVector_side
        apply setCplq_side
        exact hy18
      · exact hy18

theorem complete_side (c : Cmd) (status r0 r1 aux : Nat) (s : State) (h : Side s0 s) :
    Side s0 (complete c status r0 r1 aux s) := by
  unfold complete
  extract_lets +onlyGivenNames y9
  clear_value y9
  extract_lets +onlyGivenNames y10
  have hy10 : Side s0 y10 := by
    subst y10
    apply dropCmd_side
    exact h
  clear_value y10
  split
  · apply cplqWrite_side
    exact hy10
  · extract_lets +onlyGivenNames y18
    clear_value y18
    apply send_side
    exact hy10

theorem done_side (c : Cmd) (r0 r1 : Nat) (s : State) (h : Side s0 s) :
    Side s0 (done c r0 r1 s) := by
  unfold done
  apply complete_side
  exact h

theorem fail_side (c : Cmd) (f : Nat × Nat) (s : State) (h : Side s0 s) :
    Side s0 (fail c f s) := by
  unfold fail
  apply complete_side
  exact h

theorem writeBlock_side (c : Cmd) (a : Nat) (d : Data) (s : State) (h : Side s0 s) :
    Side s0 (writeBlock c a d s) := by
  unfold writeBlock
  split
  · apply hostWrite_side
    exact h
  · apply setCmd_side
    exact h

theorem wait_side (c : Cmd) (s : State) (h : Side s0 s) :
    Side s0 (wait c s) := by
  unfold wait
  apply setCmd_side
  exact h

theorem runCmd_side (id opcode : Nat) (sel : Cmd → Bool) (body : Cmd → State → State) (s : State) (hbody : ∀ a0 s, Side s0 s → Side s0 (body a0 s)) (h : Side s0 s) :
    Side s0 (runCmd id opcode sel body s) := by
  unfold runCmd
  split
  · split
    · apply hbody
      exact h
    · exact h
  · exact h

theorem checked_side (c : Cmd) (checks : List Check) (ok : State → State) (s : State) (hok : ∀ s, Side s0 s → Side s0 (ok s)) (h : Side s0 s) :
    Side s0 (checked c checks ok s) := by
  unfold checked
  split
  · apply fail_side
    exact h
  · apply hok
    exact h

theorem withBuffer_side (c : Cmd) (r : HostRead) (ok : Data → State → State) (s : State) (hok : ∀ a0 s, Side s0 s → Side s0 (ok a0 s)) (h : Side s0 s) :
    Side s0 (withBuffer c r ok s) := by
  unfold withBuffer
  split
  · apply hok
    exact h
  · apply complete_side
    exact h

/-! ## Field by field -/

theorem Side_pending {s : State} (h : Side s0 s) : s.pending = s0.pending := (congrArg State.pending h).trans rfl
theorem Side_free {s : State} (h : Side s0 s) : s.free = s0.free := (congrArg State.free h).trans rfl
theorem Side_clk {s : State} (h : Side s0 s) : s.clk = s0.clk := (congrArg State.clk h).trans rfl
theorem Side_pwr {s : State} (h : Side s0 s) : s.pwr = s0.pwr := (congrArg State.pwr h).trans rfl
theorem Side_store {s : State} (h : Side s0 s) : s.store = s0.store := (congrArg State.store h).trans rfl
theorem Side_inlets {s : State} (h : Side s0 s) : s.inlets = s0.inlets := (congrArg State.inlets h).trans rfl
theorem Side_tasks {s : State} (h : Side s0 s) : s.tasks = s0.tasks := (congrArg State.tasks h).trans rfl
theorem Side_nextTask {s : State} (h : Side s0 s) : s.nextTask = s0.nextTask := (congrArg State.nextTask h).trans rfl
theorem Side_xcorrs {s : State} (h : Side s0 s) : s.xcorrs = s0.xcorrs := (congrArg State.xcorrs h).trans rfl
theorem Side_tiles {s : State} (h : Side s0 s) : s.tiles = s0.tiles := (congrArg State.tiles h).trans rfl
theorem Side_cs {s : State} (h : Side s0 s) : s.cs = s0.cs := (congrArg State.cs h).trans rfl
theorem Side_squall {s : State} (h : Side s0 s) : s.squall = s0.squall := (congrArg State.squall h).trans rfl
theorem Side_eddy {s : State} (h : Side s0 s) : s.eddy = s0.eddy := (congrArg State.eddy h).trans rfl
theorem Side_scn {s : State} (h : Side s0 s) : s.scn = s0.scn := (congrArg State.scn h).trans rfl
theorem Side_tw {s : State} (h : Side s0 s) : s.tw = s0.tw := (congrArg State.tw h).trans rfl
theorem Side_drt {s : State} (h : Side s0 s) : s.drt = s0.drt := (congrArg State.drt h).trans rfl
theorem Side_cal {s : State} (h : Side s0 s) : s.cal = s0.cal := (congrArg State.cal h).trans rfl
theorem Side_brz {s : State} (h : Side s0 s) : s.brz = s0.brz := (congrArg State.brz h).trans rfl
theorem Side_boot {s : State} (h : Side s0 s) : s.boot = s0.boot := (congrArg State.boot h).trans rfl
theorem Side_fynal {s : State} (h : Side s0 s) : s.fynal = s0.fynal := (congrArg State.fynal h).trans rfl
theorem Side_jtag {s : State} (h : Side s0 s) : s.jtag = s0.jtag := (congrArg State.jtag h).trans rfl
theorem Side_life {s : State} (h : Side s0 s) : s.life = s0.life := (congrArg State.life h).trans rfl
theorem Side_fw {s : State} (h : Side s0 s) : s.fw = s0.fw := (congrArg State.fw h).trans rfl

variable (s : State)

@[simp] theorem raise_pending (ev : Nat) (vals : List Val) : (raise ev vals s).pending = s.pending := Side_pending (raise_side ev vals s (Side_refl s))
@[simp] theorem raise_free (ev : Nat) (vals : List Val) : (raise ev vals s).free = s.free := Side_free (raise_side ev vals s (Side_refl s))
@[simp] theorem raise_clk (ev : Nat) (vals : List Val) : (raise ev vals s).clk = s.clk := Side_clk (raise_side ev vals s (Side_refl s))
@[simp] theorem raise_pwr (ev : Nat) (vals : List Val) : (raise ev vals s).pwr = s.pwr := Side_pwr (raise_side ev vals s (Side_refl s))
@[simp] theorem raise_store (ev : Nat) (vals : List Val) : (raise ev vals s).store = s.store := Side_store (raise_side ev vals s (Side_refl s))
@[simp] theorem raise_inlets (ev : Nat) (vals : List Val) : (raise ev vals s).inlets = s.inlets := Side_inlets (raise_side ev vals s (Side_refl s))
@[simp] theorem raise_tasks (ev : Nat) (vals : List Val) : (raise ev vals s).tasks = s.tasks := Side_tasks (raise_side ev vals s (Side_refl s))
@[simp] theorem raise_nextTask (ev : Nat) (vals : List Val) : (raise ev vals s).nextTask = s.nextTask := Side_nextTask (raise_side ev vals s (Side_refl s))
@[simp] theorem raise_xcorrs (ev : Nat) (vals : List Val) : (raise ev vals s).xcorrs = s.xcorrs := Side_xcorrs (raise_side ev vals s (Side_refl s))
@[simp] theorem raise_tiles (ev : Nat) (vals : List Val) : (raise ev vals s).tiles = s.tiles := Side_tiles (raise_side ev vals s (Side_refl s))
@[simp] theorem raise_cs (ev : Nat) (vals : List Val) : (raise ev vals s).cs = s.cs := Side_cs (raise_side ev vals s (Side_refl s))
@[simp] theorem raise_squall (ev : Nat) (vals : List Val) : (raise ev vals s).squall = s.squall := Side_squall (raise_side ev vals s (Side_refl s))
@[simp] theorem raise_eddy (ev : Nat) (vals : List Val) : (raise ev vals s).eddy = s.eddy := Side_eddy (raise_side ev vals s (Side_refl s))
@[simp] theorem raise_scn (ev : Nat) (vals : List Val) : (raise ev vals s).scn = s.scn := Side_scn (raise_side ev vals s (Side_refl s))
@[simp] theorem raise_tw (ev : Nat) (vals : List Val) : (raise ev vals s).tw = s.tw := Side_tw (raise_side ev vals s (Side_refl s))
@[simp] theorem raise_drt (ev : Nat) (vals : List Val) : (raise ev vals s).drt = s.drt := Side_drt (raise_side ev vals s (Side_refl s))
@[simp] theorem raise_cal (ev : Nat) (vals : List Val) : (raise ev vals s).cal = s.cal := Side_cal (raise_side ev vals s (Side_refl s))
@[simp] theorem raise_brz (ev : Nat) (vals : List Val) : (raise ev vals s).brz = s.brz := Side_brz (raise_side ev vals s (Side_refl s))
@[simp] theorem raise_boot (ev : Nat) (vals : List Val) : (raise ev vals s).boot = s.boot := Side_boot (raise_side ev vals s (Side_refl s))
@[simp] theorem raise_fynal (ev : Nat) (vals : List Val) : (raise ev vals s).fynal = s.fynal := Side_fynal (raise_side ev vals s (Side_refl s))
@[simp] theorem raise_jtag (ev : Nat) (vals : List Val) : (raise ev vals s).jtag = s.jtag := Side_jtag (raise_side ev vals s (Side_refl s))
@[simp] theorem raise_life (ev : Nat) (vals : List Val) : (raise ev vals s).life = s.life := Side_life (raise_side ev vals s (Side_refl s))
@[simp] theorem raise_fw (ev : Nat) (vals : List Val) : (raise ev vals s).fw = s.fw := Side_fw (raise_side ev vals s (Side_refl s))

@[simp] theorem raiseAt_pending (ev tick : Nat) (vals : List Val) : (raiseAt ev tick vals s).pending = s.pending := Side_pending (raiseAt_side ev tick vals s (Side_refl s))
@[simp] theorem raiseAt_free (ev tick : Nat) (vals : List Val) : (raiseAt ev tick vals s).free = s.free := Side_free (raiseAt_side ev tick vals s (Side_refl s))
@[simp] theorem raiseAt_clk (ev tick : Nat) (vals : List Val) : (raiseAt ev tick vals s).clk = s.clk := Side_clk (raiseAt_side ev tick vals s (Side_refl s))
@[simp] theorem raiseAt_pwr (ev tick : Nat) (vals : List Val) : (raiseAt ev tick vals s).pwr = s.pwr := Side_pwr (raiseAt_side ev tick vals s (Side_refl s))
@[simp] theorem raiseAt_store (ev tick : Nat) (vals : List Val) : (raiseAt ev tick vals s).store = s.store := Side_store (raiseAt_side ev tick vals s (Side_refl s))
@[simp] theorem raiseAt_inlets (ev tick : Nat) (vals : List Val) : (raiseAt ev tick vals s).inlets = s.inlets := Side_inlets (raiseAt_side ev tick vals s (Side_refl s))
@[simp] theorem raiseAt_tasks (ev tick : Nat) (vals : List Val) : (raiseAt ev tick vals s).tasks = s.tasks := Side_tasks (raiseAt_side ev tick vals s (Side_refl s))
@[simp] theorem raiseAt_nextTask (ev tick : Nat) (vals : List Val) : (raiseAt ev tick vals s).nextTask = s.nextTask := Side_nextTask (raiseAt_side ev tick vals s (Side_refl s))
@[simp] theorem raiseAt_xcorrs (ev tick : Nat) (vals : List Val) : (raiseAt ev tick vals s).xcorrs = s.xcorrs := Side_xcorrs (raiseAt_side ev tick vals s (Side_refl s))
@[simp] theorem raiseAt_tiles (ev tick : Nat) (vals : List Val) : (raiseAt ev tick vals s).tiles = s.tiles := Side_tiles (raiseAt_side ev tick vals s (Side_refl s))
@[simp] theorem raiseAt_cs (ev tick : Nat) (vals : List Val) : (raiseAt ev tick vals s).cs = s.cs := Side_cs (raiseAt_side ev tick vals s (Side_refl s))
@[simp] theorem raiseAt_squall (ev tick : Nat) (vals : List Val) : (raiseAt ev tick vals s).squall = s.squall := Side_squall (raiseAt_side ev tick vals s (Side_refl s))
@[simp] theorem raiseAt_eddy (ev tick : Nat) (vals : List Val) : (raiseAt ev tick vals s).eddy = s.eddy := Side_eddy (raiseAt_side ev tick vals s (Side_refl s))
@[simp] theorem raiseAt_scn (ev tick : Nat) (vals : List Val) : (raiseAt ev tick vals s).scn = s.scn := Side_scn (raiseAt_side ev tick vals s (Side_refl s))
@[simp] theorem raiseAt_tw (ev tick : Nat) (vals : List Val) : (raiseAt ev tick vals s).tw = s.tw := Side_tw (raiseAt_side ev tick vals s (Side_refl s))
@[simp] theorem raiseAt_drt (ev tick : Nat) (vals : List Val) : (raiseAt ev tick vals s).drt = s.drt := Side_drt (raiseAt_side ev tick vals s (Side_refl s))
@[simp] theorem raiseAt_cal (ev tick : Nat) (vals : List Val) : (raiseAt ev tick vals s).cal = s.cal := Side_cal (raiseAt_side ev tick vals s (Side_refl s))
@[simp] theorem raiseAt_brz (ev tick : Nat) (vals : List Val) : (raiseAt ev tick vals s).brz = s.brz := Side_brz (raiseAt_side ev tick vals s (Side_refl s))
@[simp] theorem raiseAt_boot (ev tick : Nat) (vals : List Val) : (raiseAt ev tick vals s).boot = s.boot := Side_boot (raiseAt_side ev tick vals s (Side_refl s))
@[simp] theorem raiseAt_fynal (ev tick : Nat) (vals : List Val) : (raiseAt ev tick vals s).fynal = s.fynal := Side_fynal (raiseAt_side ev tick vals s (Side_refl s))
@[simp] theorem raiseAt_jtag (ev tick : Nat) (vals : List Val) : (raiseAt ev tick vals s).jtag = s.jtag := Side_jtag (raiseAt_side ev tick vals s (Side_refl s))
@[simp] theorem raiseAt_life (ev tick : Nat) (vals : List Val) : (raiseAt ev tick vals s).life = s.life := Side_life (raiseAt_side ev tick vals s (Side_refl s))
@[simp] theorem raiseAt_fw (ev tick : Nat) (vals : List Val) : (raiseAt ev tick vals s).fw = s.fw := Side_fw (raiseAt_side ev tick vals s (Side_refl s))

@[simp] theorem complete_pending (c : Cmd) (status r0 r1 aux : Nat) : (complete c status r0 r1 aux s).pending = s.pending := Side_pending (complete_side c status r0 r1 aux s (Side_refl s))
@[simp] theorem complete_free (c : Cmd) (status r0 r1 aux : Nat) : (complete c status r0 r1 aux s).free = s.free := Side_free (complete_side c status r0 r1 aux s (Side_refl s))
@[simp] theorem complete_clk (c : Cmd) (status r0 r1 aux : Nat) : (complete c status r0 r1 aux s).clk = s.clk := Side_clk (complete_side c status r0 r1 aux s (Side_refl s))
@[simp] theorem complete_pwr (c : Cmd) (status r0 r1 aux : Nat) : (complete c status r0 r1 aux s).pwr = s.pwr := Side_pwr (complete_side c status r0 r1 aux s (Side_refl s))
@[simp] theorem complete_store (c : Cmd) (status r0 r1 aux : Nat) : (complete c status r0 r1 aux s).store = s.store := Side_store (complete_side c status r0 r1 aux s (Side_refl s))
@[simp] theorem complete_inlets (c : Cmd) (status r0 r1 aux : Nat) : (complete c status r0 r1 aux s).inlets = s.inlets := Side_inlets (complete_side c status r0 r1 aux s (Side_refl s))
@[simp] theorem complete_tasks (c : Cmd) (status r0 r1 aux : Nat) : (complete c status r0 r1 aux s).tasks = s.tasks := Side_tasks (complete_side c status r0 r1 aux s (Side_refl s))
@[simp] theorem complete_nextTask (c : Cmd) (status r0 r1 aux : Nat) : (complete c status r0 r1 aux s).nextTask = s.nextTask := Side_nextTask (complete_side c status r0 r1 aux s (Side_refl s))
@[simp] theorem complete_xcorrs (c : Cmd) (status r0 r1 aux : Nat) : (complete c status r0 r1 aux s).xcorrs = s.xcorrs := Side_xcorrs (complete_side c status r0 r1 aux s (Side_refl s))
@[simp] theorem complete_tiles (c : Cmd) (status r0 r1 aux : Nat) : (complete c status r0 r1 aux s).tiles = s.tiles := Side_tiles (complete_side c status r0 r1 aux s (Side_refl s))
@[simp] theorem complete_cs (c : Cmd) (status r0 r1 aux : Nat) : (complete c status r0 r1 aux s).cs = s.cs := Side_cs (complete_side c status r0 r1 aux s (Side_refl s))
@[simp] theorem complete_squall (c : Cmd) (status r0 r1 aux : Nat) : (complete c status r0 r1 aux s).squall = s.squall := Side_squall (complete_side c status r0 r1 aux s (Side_refl s))
@[simp] theorem complete_eddy (c : Cmd) (status r0 r1 aux : Nat) : (complete c status r0 r1 aux s).eddy = s.eddy := Side_eddy (complete_side c status r0 r1 aux s (Side_refl s))
@[simp] theorem complete_scn (c : Cmd) (status r0 r1 aux : Nat) : (complete c status r0 r1 aux s).scn = s.scn := Side_scn (complete_side c status r0 r1 aux s (Side_refl s))
@[simp] theorem complete_tw (c : Cmd) (status r0 r1 aux : Nat) : (complete c status r0 r1 aux s).tw = s.tw := Side_tw (complete_side c status r0 r1 aux s (Side_refl s))
@[simp] theorem complete_drt (c : Cmd) (status r0 r1 aux : Nat) : (complete c status r0 r1 aux s).drt = s.drt := Side_drt (complete_side c status r0 r1 aux s (Side_refl s))
@[simp] theorem complete_cal (c : Cmd) (status r0 r1 aux : Nat) : (complete c status r0 r1 aux s).cal = s.cal := Side_cal (complete_side c status r0 r1 aux s (Side_refl s))
@[simp] theorem complete_brz (c : Cmd) (status r0 r1 aux : Nat) : (complete c status r0 r1 aux s).brz = s.brz := Side_brz (complete_side c status r0 r1 aux s (Side_refl s))
@[simp] theorem complete_boot (c : Cmd) (status r0 r1 aux : Nat) : (complete c status r0 r1 aux s).boot = s.boot := Side_boot (complete_side c status r0 r1 aux s (Side_refl s))
@[simp] theorem complete_fynal (c : Cmd) (status r0 r1 aux : Nat) : (complete c status r0 r1 aux s).fynal = s.fynal := Side_fynal (complete_side c status r0 r1 aux s (Side_refl s))
@[simp] theorem complete_jtag (c : Cmd) (status r0 r1 aux : Nat) : (complete c status r0 r1 aux s).jtag = s.jtag := Side_jtag (complete_side c status r0 r1 aux s (Side_refl s))
@[simp] theorem complete_life (c : Cmd) (status r0 r1 aux : Nat) : (complete c status r0 r1 aux s).life = s.life := Side_life (complete_side c status r0 r1 aux s (Side_refl s))
@[simp] theorem complete_fw (c : Cmd) (status r0 r1 aux : Nat) : (complete c status r0 r1 aux s).fw = s.fw := Side_fw (complete_side c status r0 r1 aux s (Side_refl s))

@[simp] theorem done_pending (c : Cmd) (r0 r1 : Nat) : (done c r0 r1 s).pending = s.pending := Side_pending (done_side c r0 r1 s (Side_refl s))
@[simp] theorem done_free (c : Cmd) (r0 r1 : Nat) : (done c r0 r1 s).free = s.free := Side_free (done_side c r0 r1 s (Side_refl s))
@[simp] theorem done_clk (c : Cmd) (r0 r1 : Nat) : (done c r0 r1 s).clk = s.clk := Side_clk (done_side c r0 r1 s (Side_refl s))
@[simp] theorem done_pwr (c : Cmd) (r0 r1 : Nat) : (done c r0 r1 s).pwr = s.pwr := Side_pwr (done_side c r0 r1 s (Side_refl s))
@[simp] theorem done_store (c : Cmd) (r0 r1 : Nat) : (done c r0 r1 s).store = s.store := Side_store (done_side c r0 r1 s (Side_refl s))
@[simp] theorem done_inlets (c : Cmd) (r0 r1 : Nat) : (done c r0 r1 s).inlets = s.inlets := Side_inlets (done_side c r0 r1 s (Side_refl s))
@[simp] theorem done_tasks (c : Cmd) (r0 r1 : Nat) : (done c r0 r1 s).tasks = s.tasks := Side_tasks (done_side c r0 r1 s (Side_refl s))
@[simp] theorem done_nextTask (c : Cmd) (r0 r1 : Nat) : (done c r0 r1 s).nextTask = s.nextTask := Side_nextTask (done_side c r0 r1 s (Side_refl s))
@[simp] theorem done_xcorrs (c : Cmd) (r0 r1 : Nat) : (done c r0 r1 s).xcorrs = s.xcorrs := Side_xcorrs (done_side c r0 r1 s (Side_refl s))
@[simp] theorem done_tiles (c : Cmd) (r0 r1 : Nat) : (done c r0 r1 s).tiles = s.tiles := Side_tiles (done_side c r0 r1 s (Side_refl s))
@[simp] theorem done_cs (c : Cmd) (r0 r1 : Nat) : (done c r0 r1 s).cs = s.cs := Side_cs (done_side c r0 r1 s (Side_refl s))
@[simp] theorem done_squall (c : Cmd) (r0 r1 : Nat) : (done c r0 r1 s).squall = s.squall := Side_squall (done_side c r0 r1 s (Side_refl s))
@[simp] theorem done_eddy (c : Cmd) (r0 r1 : Nat) : (done c r0 r1 s).eddy = s.eddy := Side_eddy (done_side c r0 r1 s (Side_refl s))
@[simp] theorem done_scn (c : Cmd) (r0 r1 : Nat) : (done c r0 r1 s).scn = s.scn := Side_scn (done_side c r0 r1 s (Side_refl s))
@[simp] theorem done_tw (c : Cmd) (r0 r1 : Nat) : (done c r0 r1 s).tw = s.tw := Side_tw (done_side c r0 r1 s (Side_refl s))
@[simp] theorem done_drt (c : Cmd) (r0 r1 : Nat) : (done c r0 r1 s).drt = s.drt := Side_drt (done_side c r0 r1 s (Side_refl s))
@[simp] theorem done_cal (c : Cmd) (r0 r1 : Nat) : (done c r0 r1 s).cal = s.cal := Side_cal (done_side c r0 r1 s (Side_refl s))
@[simp] theorem done_brz (c : Cmd) (r0 r1 : Nat) : (done c r0 r1 s).brz = s.brz := Side_brz (done_side c r0 r1 s (Side_refl s))
@[simp] theorem done_boot (c : Cmd) (r0 r1 : Nat) : (done c r0 r1 s).boot = s.boot := Side_boot (done_side c r0 r1 s (Side_refl s))
@[simp] theorem done_fynal (c : Cmd) (r0 r1 : Nat) : (done c r0 r1 s).fynal = s.fynal := Side_fynal (done_side c r0 r1 s (Side_refl s))
@[simp] theorem done_jtag (c : Cmd) (r0 r1 : Nat) : (done c r0 r1 s).jtag = s.jtag := Side_jtag (done_side c r0 r1 s (Side_refl s))
@[simp] theorem done_life (c : Cmd) (r0 r1 : Nat) : (done c r0 r1 s).life = s.life := Side_life (done_side c r0 r1 s (Side_refl s))
@[simp] theorem done_fw (c : Cmd) (r0 r1 : Nat) : (done c r0 r1 s).fw = s.fw := Side_fw (done_side c r0 r1 s (Side_refl s))

@[simp] theorem fail_pending (c : Cmd) (f : Nat × Nat) : (fail c f s).pending = s.pending := Side_pending (fail_side c f s (Side_refl s))
@[simp] theorem fail_free (c : Cmd) (f : Nat × Nat) : (fail c f s).free = s.free := Side_free (fail_side c f s (Side_refl s))
@[simp] theorem fail_clk (c : Cmd) (f : Nat × Nat) : (fail c f s).clk = s.clk := Side_clk (fail_side c f s (Side_refl s))
@[simp] theorem fail_pwr (c : Cmd) (f : Nat × Nat) : (fail c f s).pwr = s.pwr := Side_pwr (fail_side c f s (Side_refl s))
@[simp] theorem fail_store (c : Cmd) (f : Nat × Nat) : (fail c f s).store = s.store := Side_store (fail_side c f s (Side_refl s))
@[simp] theorem fail_inlets (c : Cmd) (f : Nat × Nat) : (fail c f s).inlets = s.inlets := Side_inlets (fail_side c f s (Side_refl s))
@[simp] theorem fail_tasks (c : Cmd) (f : Nat × Nat) : (fail c f s).tasks = s.tasks := Side_tasks (fail_side c f s (Side_refl s))
@[simp] theorem fail_nextTask (c : Cmd) (f : Nat × Nat) : (fail c f s).nextTask = s.nextTask := Side_nextTask (fail_side c f s (Side_refl s))
@[simp] theorem fail_xcorrs (c : Cmd) (f : Nat × Nat) : (fail c f s).xcorrs = s.xcorrs := Side_xcorrs (fail_side c f s (Side_refl s))
@[simp] theorem fail_tiles (c : Cmd) (f : Nat × Nat) : (fail c f s).tiles = s.tiles := Side_tiles (fail_side c f s (Side_refl s))
@[simp] theorem fail_cs (c : Cmd) (f : Nat × Nat) : (fail c f s).cs = s.cs := Side_cs (fail_side c f s (Side_refl s))
@[simp] theorem fail_squall (c : Cmd) (f : Nat × Nat) : (fail c f s).squall = s.squall := Side_squall (fail_side c f s (Side_refl s))
@[simp] theorem fail_eddy (c : Cmd) (f : Nat × Nat) : (fail c f s).eddy = s.eddy := Side_eddy (fail_side c f s (Side_refl s))
@[simp] theorem fail_scn (c : Cmd) (f : Nat × Nat) : (fail c f s).scn = s.scn := Side_scn (fail_side c f s (Side_refl s))
@[simp] theorem fail_tw (c : Cmd) (f : Nat × Nat) : (fail c f s).tw = s.tw := Side_tw (fail_side c f s (Side_refl s))
@[simp] theorem fail_drt (c : Cmd) (f : Nat × Nat) : (fail c f s).drt = s.drt := Side_drt (fail_side c f s (Side_refl s))
@[simp] theorem fail_cal (c : Cmd) (f : Nat × Nat) : (fail c f s).cal = s.cal := Side_cal (fail_side c f s (Side_refl s))
@[simp] theorem fail_brz (c : Cmd) (f : Nat × Nat) : (fail c f s).brz = s.brz := Side_brz (fail_side c f s (Side_refl s))
@[simp] theorem fail_boot (c : Cmd) (f : Nat × Nat) : (fail c f s).boot = s.boot := Side_boot (fail_side c f s (Side_refl s))
@[simp] theorem fail_fynal (c : Cmd) (f : Nat × Nat) : (fail c f s).fynal = s.fynal := Side_fynal (fail_side c f s (Side_refl s))
@[simp] theorem fail_jtag (c : Cmd) (f : Nat × Nat) : (fail c f s).jtag = s.jtag := Side_jtag (fail_side c f s (Side_refl s))
@[simp] theorem fail_life (c : Cmd) (f : Nat × Nat) : (fail c f s).life = s.life := Side_life (fail_side c f s (Side_refl s))
@[simp] theorem fail_fw (c : Cmd) (f : Nat × Nat) : (fail c f s).fw = s.fw := Side_fw (fail_side c f s (Side_refl s))

@[simp] theorem hostWrite_pending (a : Nat) (d : Data) : (hostWrite a d s).pending = s.pending := Side_pending (hostWrite_side a d (Side_refl s))
@[simp] theorem hostWrite_free (a : Nat) (d : Data) : (hostWrite a d s).free = s.free := Side_free (hostWrite_side a d (Side_refl s))
@[simp] theorem hostWrite_clk (a : Nat) (d : Data) : (hostWrite a d s).clk = s.clk := Side_clk (hostWrite_side a d (Side_refl s))
@[simp] theorem hostWrite_pwr (a : Nat) (d : Data) : (hostWrite a d s).pwr = s.pwr := Side_pwr (hostWrite_side a d (Side_refl s))
@[simp] theorem hostWrite_store (a : Nat) (d : Data) : (hostWrite a d s).store = s.store := Side_store (hostWrite_side a d (Side_refl s))
@[simp] theorem hostWrite_inlets (a : Nat) (d : Data) : (hostWrite a d s).inlets = s.inlets := Side_inlets (hostWrite_side a d (Side_refl s))
@[simp] theorem hostWrite_tasks (a : Nat) (d : Data) : (hostWrite a d s).tasks = s.tasks := Side_tasks (hostWrite_side a d (Side_refl s))
@[simp] theorem hostWrite_nextTask (a : Nat) (d : Data) : (hostWrite a d s).nextTask = s.nextTask := Side_nextTask (hostWrite_side a d (Side_refl s))
@[simp] theorem hostWrite_xcorrs (a : Nat) (d : Data) : (hostWrite a d s).xcorrs = s.xcorrs := Side_xcorrs (hostWrite_side a d (Side_refl s))
@[simp] theorem hostWrite_tiles (a : Nat) (d : Data) : (hostWrite a d s).tiles = s.tiles := Side_tiles (hostWrite_side a d (Side_refl s))
@[simp] theorem hostWrite_cs (a : Nat) (d : Data) : (hostWrite a d s).cs = s.cs := Side_cs (hostWrite_side a d (Side_refl s))
@[simp] theorem hostWrite_squall (a : Nat) (d : Data) : (hostWrite a d s).squall = s.squall := Side_squall (hostWrite_side a d (Side_refl s))
@[simp] theorem hostWrite_eddy (a : Nat) (d : Data) : (hostWrite a d s).eddy = s.eddy := Side_eddy (hostWrite_side a d (Side_refl s))
@[simp] theorem hostWrite_scn (a : Nat) (d : Data) : (hostWrite a d s).scn = s.scn := Side_scn (hostWrite_side a d (Side_refl s))
@[simp] theorem hostWrite_tw (a : Nat) (d : Data) : (hostWrite a d s).tw = s.tw := Side_tw (hostWrite_side a d (Side_refl s))
@[simp] theorem hostWrite_drt (a : Nat) (d : Data) : (hostWrite a d s).drt = s.drt := Side_drt (hostWrite_side a d (Side_refl s))
@[simp] theorem hostWrite_cal (a : Nat) (d : Data) : (hostWrite a d s).cal = s.cal := Side_cal (hostWrite_side a d (Side_refl s))
@[simp] theorem hostWrite_brz (a : Nat) (d : Data) : (hostWrite a d s).brz = s.brz := Side_brz (hostWrite_side a d (Side_refl s))
@[simp] theorem hostWrite_boot (a : Nat) (d : Data) : (hostWrite a d s).boot = s.boot := Side_boot (hostWrite_side a d (Side_refl s))
@[simp] theorem hostWrite_fynal (a : Nat) (d : Data) : (hostWrite a d s).fynal = s.fynal := Side_fynal (hostWrite_side a d (Side_refl s))
@[simp] theorem hostWrite_jtag (a : Nat) (d : Data) : (hostWrite a d s).jtag = s.jtag := Side_jtag (hostWrite_side a d (Side_refl s))
@[simp] theorem hostWrite_life (a : Nat) (d : Data) : (hostWrite a d s).life = s.life := Side_life (hostWrite_side a d (Side_refl s))
@[simp] theorem hostWrite_fw (a : Nat) (d : Data) : (hostWrite a d s).fw = s.fw := Side_fw (hostWrite_side a d (Side_refl s))

@[simp] theorem writeBlock_pending (c : Cmd) (a : Nat) (d : Data) : (writeBlock c a d s).pending = s.pending := Side_pending (writeBlock_side c a d s (Side_refl s))
@[simp] theorem writeBlock_free (c : Cmd) (a : Nat) (d : Data) : (writeBlock c a d s).free = s.free := Side_free (writeBlock_side c a d s (Side_refl s))
@[simp] theorem writeBlock_clk (c : Cmd) (a : Nat) (d : Data) : (writeBlock c a d s).clk = s.clk := Side_clk (writeBlock_side c a d s (Side_refl s))
@[simp] theorem writeBlock_pwr (c : Cmd) (a : Nat) (d : Data) : (writeBlock c a d s).pwr = s.pwr := Side_pwr (writeBlock_side c a d s (Side_refl s))
@[simp] theorem writeBlock_store (c : Cmd) (a : Nat) (d : Data) : (writeBlock c a d s).store = s.store := Side_store (writeBlock_side c a d s (Side_refl s))
@[simp] theorem writeBlock_inlets (c : Cmd) (a : Nat) (d : Data) : (writeBlock c a d s).inlets = s.inlets := Side_inlets (writeBlock_side c a d s (Side_refl s))
@[simp] theorem writeBlock_tasks (c : Cmd) (a : Nat) (d : Data) : (writeBlock c a d s).tasks = s.tasks := Side_tasks (writeBlock_side c a d s (Side_refl s))
@[simp] theorem writeBlock_nextTask (c : Cmd) (a : Nat) (d : Data) : (writeBlock c a d s).nextTask = s.nextTask := Side_nextTask (writeBlock_side c a d s (Side_refl s))
@[simp] theorem writeBlock_xcorrs (c : Cmd) (a : Nat) (d : Data) : (writeBlock c a d s).xcorrs = s.xcorrs := Side_xcorrs (writeBlock_side c a d s (Side_refl s))
@[simp] theorem writeBlock_tiles (c : Cmd) (a : Nat) (d : Data) : (writeBlock c a d s).tiles = s.tiles := Side_tiles (writeBlock_side c a d s (Side_refl s))
@[simp] theorem writeBlock_cs (c : Cmd) (a : Nat) (d : Data) : (writeBlock c a d s).cs = s.cs := Side_cs (writeBlock_side c a d s (Side_refl s))
@[simp] theorem writeBlock_squall (c : Cmd) (a : Nat) (d : Data) : (writeBlock c a d s).squall = s.squall := Side_squall (writeBlock_side c a d s (Side_refl s))
@[simp] theorem writeBlock_eddy (c : Cmd) (a : Nat) (d : Data) : (writeBlock c a d s).eddy = s.eddy := Side_eddy (writeBlock_side c a d s (Side_refl s))
@[simp] theorem writeBlock_scn (c : Cmd) (a : Nat) (d : Data) : (writeBlock c a d s).scn = s.scn := Side_scn (writeBlock_side c a d s (Side_refl s))
@[simp] theorem writeBlock_tw (c : Cmd) (a : Nat) (d : Data) : (writeBlock c a d s).tw = s.tw := Side_tw (writeBlock_side c a d s (Side_refl s))
@[simp] theorem writeBlock_drt (c : Cmd) (a : Nat) (d : Data) : (writeBlock c a d s).drt = s.drt := Side_drt (writeBlock_side c a d s (Side_refl s))
@[simp] theorem writeBlock_cal (c : Cmd) (a : Nat) (d : Data) : (writeBlock c a d s).cal = s.cal := Side_cal (writeBlock_side c a d s (Side_refl s))
@[simp] theorem writeBlock_brz (c : Cmd) (a : Nat) (d : Data) : (writeBlock c a d s).brz = s.brz := Side_brz (writeBlock_side c a d s (Side_refl s))
@[simp] theorem writeBlock_boot (c : Cmd) (a : Nat) (d : Data) : (writeBlock c a d s).boot = s.boot := Side_boot (writeBlock_side c a d s (Side_refl s))
@[simp] theorem writeBlock_fynal (c : Cmd) (a : Nat) (d : Data) : (writeBlock c a d s).fynal = s.fynal := Side_fynal (writeBlock_side c a d s (Side_refl s))
@[simp] theorem writeBlock_jtag (c : Cmd) (a : Nat) (d : Data) : (writeBlock c a d s).jtag = s.jtag := Side_jtag (writeBlock_side c a d s (Side_refl s))
@[simp] theorem writeBlock_life (c : Cmd) (a : Nat) (d : Data) : (writeBlock c a d s).life = s.life := Side_life (writeBlock_side c a d s (Side_refl s))
@[simp] theorem writeBlock_fw (c : Cmd) (a : Nat) (d : Data) : (writeBlock c a d s).fw = s.fw := Side_fw (writeBlock_side c a d s (Side_refl s))

@[simp] theorem send_pending (p : Packet) : (send p s).pending = s.pending := Side_pending (send_side p s (Side_refl s))
@[simp] theorem send_free (p : Packet) : (send p s).free = s.free := Side_free (send_side p s (Side_refl s))
@[simp] theorem send_clk (p : Packet) : (send p s).clk = s.clk := Side_clk (send_side p s (Side_refl s))
@[simp] theorem send_pwr (p : Packet) : (send p s).pwr = s.pwr := Side_pwr (send_side p s (Side_refl s))
@[simp] theorem send_store (p : Packet) : (send p s).store = s.store := Side_store (send_side p s (Side_refl s))
@[simp] theorem send_inlets (p : Packet) : (send p s).inlets = s.inlets := Side_inlets (send_side p s (Side_refl s))
@[simp] theorem send_tasks (p : Packet) : (send p s).tasks = s.tasks := Side_tasks (send_side p s (Side_refl s))
@[simp] theorem send_nextTask (p : Packet) : (send p s).nextTask = s.nextTask := Side_nextTask (send_side p s (Side_refl s))
@[simp] theorem send_xcorrs (p : Packet) : (send p s).xcorrs = s.xcorrs := Side_xcorrs (send_side p s (Side_refl s))
@[simp] theorem send_tiles (p : Packet) : (send p s).tiles = s.tiles := Side_tiles (send_side p s (Side_refl s))
@[simp] theorem send_cs (p : Packet) : (send p s).cs = s.cs := Side_cs (send_side p s (Side_refl s))
@[simp] theorem send_squall (p : Packet) : (send p s).squall = s.squall := Side_squall (send_side p s (Side_refl s))
@[simp] theorem send_eddy (p : Packet) : (send p s).eddy = s.eddy := Side_eddy (send_side p s (Side_refl s))
@[simp] theorem send_scn (p : Packet) : (send p s).scn = s.scn := Side_scn (send_side p s (Side_refl s))
@[simp] theorem send_tw (p : Packet) : (send p s).tw = s.tw := Side_tw (send_side p s (Side_refl s))
@[simp] theorem send_drt (p : Packet) : (send p s).drt = s.drt := Side_drt (send_side p s (Side_refl s))
@[simp] theorem send_cal (p : Packet) : (send p s).cal = s.cal := Side_cal (send_side p s (Side_refl s))
@[simp] theorem send_brz (p : Packet) : (send p s).brz = s.brz := Side_brz (send_side p s (Side_refl s))
@[simp] theorem send_boot (p : Packet) : (send p s).boot = s.boot := Side_boot (send_side p s (Side_refl s))
@[simp] theorem send_fynal (p : Packet) : (send p s).fynal = s.fynal := Side_fynal (send_side p s (Side_refl s))
@[simp] theorem send_jtag (p : Packet) : (send p s).jtag = s.jtag := Side_jtag (send_side p s (Side_refl s))
@[simp] theorem send_life (p : Packet) : (send p s).life = s.life := Side_life (send_side p s (Side_refl s))
@[simp] theorem send_fw (p : Packet) : (send p s).fw = s.fw := Side_fw (send_side p s (Side_refl s))

@[simp] theorem wait_pending (c : Cmd) : (wait c s).pending = s.pending := Side_pending (wait_side c s (Side_refl s))
@[simp] theorem wait_free (c : Cmd) : (wait c s).free = s.free := Side_free (wait_side c s (Side_refl s))
@[simp] theorem wait_clk (c : Cmd) : (wait c s).clk = s.clk := Side_clk (wait_side c s (Side_refl s))
@[simp] theorem wait_pwr (c : Cmd) : (wait c s).pwr = s.pwr := Side_pwr (wait_side c s (Side_refl s))
@[simp] theorem wait_store (c : Cmd) : (wait c s).store = s.store := Side_store (wait_side c s (Side_refl s))
@[simp] theorem wait_inlets (c : Cmd) : (wait c s).inlets = s.inlets := Side_inlets (wait_side c s (Side_refl s))
@[simp] theorem wait_tasks (c : Cmd) : (wait c s).tasks = s.tasks := Side_tasks (wait_side c s (Side_refl s))
@[simp] theorem wait_nextTask (c : Cmd) : (wait c s).nextTask = s.nextTask := Side_nextTask (wait_side c s (Side_refl s))
@[simp] theorem wait_xcorrs (c : Cmd) : (wait c s).xcorrs = s.xcorrs := Side_xcorrs (wait_side c s (Side_refl s))
@[simp] theorem wait_tiles (c : Cmd) : (wait c s).tiles = s.tiles := Side_tiles (wait_side c s (Side_refl s))
@[simp] theorem wait_cs (c : Cmd) : (wait c s).cs = s.cs := Side_cs (wait_side c s (Side_refl s))
@[simp] theorem wait_squall (c : Cmd) : (wait c s).squall = s.squall := Side_squall (wait_side c s (Side_refl s))
@[simp] theorem wait_eddy (c : Cmd) : (wait c s).eddy = s.eddy := Side_eddy (wait_side c s (Side_refl s))
@[simp] theorem wait_scn (c : Cmd) : (wait c s).scn = s.scn := Side_scn (wait_side c s (Side_refl s))
@[simp] theorem wait_tw (c : Cmd) : (wait c s).tw = s.tw := Side_tw (wait_side c s (Side_refl s))
@[simp] theorem wait_drt (c : Cmd) : (wait c s).drt = s.drt := Side_drt (wait_side c s (Side_refl s))
@[simp] theorem wait_cal (c : Cmd) : (wait c s).cal = s.cal := Side_cal (wait_side c s (Side_refl s))
@[simp] theorem wait_brz (c : Cmd) : (wait c s).brz = s.brz := Side_brz (wait_side c s (Side_refl s))
@[simp] theorem wait_boot (c : Cmd) : (wait c s).boot = s.boot := Side_boot (wait_side c s (Side_refl s))
@[simp] theorem wait_fynal (c : Cmd) : (wait c s).fynal = s.fynal := Side_fynal (wait_side c s (Side_refl s))
@[simp] theorem wait_jtag (c : Cmd) : (wait c s).jtag = s.jtag := Side_jtag (wait_side c s (Side_refl s))
@[simp] theorem wait_life (c : Cmd) : (wait c s).life = s.life := Side_life (wait_side c s (Side_refl s))
@[simp] theorem wait_fw (c : Cmd) : (wait c s).fw = s.fw := Side_fw (wait_side c s (Side_refl s))

@[simp] theorem signalVector_pending (v : Nat) : (signalVector v s).pending = s.pending := Side_pending (signalVector_side v s (Side_refl s))
@[simp] theorem signalVector_free (v : Nat) : (signalVector v s).free = s.free := Side_free (signalVector_side v s (Side_refl s))
@[simp] theorem signalVector_clk (v : Nat) : (signalVector v s).clk = s.clk := Side_clk (signalVector_side v s (Side_refl s))
@[simp] theorem signalVector_pwr (v : Nat) : (signalVector v s).pwr = s.pwr := Side_pwr (signalVector_side v s (Side_refl s))
@[simp] theorem signalVector_store (v : Nat) : (signalVector v s).store = s.store := Side_store (signalVector_side v s (Side_refl s))
@[simp] theorem signalVector_inlets (v : Nat) : (signalVector v s).inlets = s.inlets := Side_inlets (signalVector_side v s (Side_refl s))
@[simp] theorem signalVector_tasks (v : Nat) : (signalVector v s).tasks = s.tasks := Side_tasks (signalVector_side v s (Side_refl s))
@[simp] theorem signalVector_nextTask (v : Nat) : (signalVector v s).nextTask = s.nextTask := Side_nextTask (signalVector_side v s (Side_refl s))
@[simp] theorem signalVector_xcorrs (v : Nat) : (signalVector v s).xcorrs = s.xcorrs := Side_xcorrs (signalVector_side v s (Side_refl s))
@[simp] theorem signalVector_tiles (v : Nat) : (signalVector v s).tiles = s.tiles := Side_tiles (signalVector_side v s (Side_refl s))
@[simp] theorem signalVector_cs (v : Nat) : (signalVector v s).cs = s.cs := Side_cs (signalVector_side v s (Side_refl s))
@[simp] theorem signalVector_squall (v : Nat) : (signalVector v s).squall = s.squall := Side_squall (signalVector_side v s (Side_refl s))
@[simp] theorem signalVector_eddy (v : Nat) : (signalVector v s).eddy = s.eddy := Side_eddy (signalVector_side v s (Side_refl s))
@[simp] theorem signalVector_scn (v : Nat) : (signalVector v s).scn = s.scn := Side_scn (signalVector_side v s (Side_refl s))
@[simp] theorem signalVector_tw (v : Nat) : (signalVector v s).tw = s.tw := Side_tw (signalVector_side v s (Side_refl s))
@[simp] theorem signalVector_drt (v : Nat) : (signalVector v s).drt = s.drt := Side_drt (signalVector_side v s (Side_refl s))
@[simp] theorem signalVector_cal (v : Nat) : (signalVector v s).cal = s.cal := Side_cal (signalVector_side v s (Side_refl s))
@[simp] theorem signalVector_brz (v : Nat) : (signalVector v s).brz = s.brz := Side_brz (signalVector_side v s (Side_refl s))
@[simp] theorem signalVector_boot (v : Nat) : (signalVector v s).boot = s.boot := Side_boot (signalVector_side v s (Side_refl s))
@[simp] theorem signalVector_fynal (v : Nat) : (signalVector v s).fynal = s.fynal := Side_fynal (signalVector_side v s (Side_refl s))
@[simp] theorem signalVector_jtag (v : Nat) : (signalVector v s).jtag = s.jtag := Side_jtag (signalVector_side v s (Side_refl s))
@[simp] theorem signalVector_life (v : Nat) : (signalVector v s).life = s.life := Side_life (signalVector_side v s (Side_refl s))
@[simp] theorem signalVector_fw (v : Nat) : (signalVector v s).fw = s.fw := Side_fw (signalVector_side v s (Side_refl s))

@[simp] theorem badWrite_pending : (badWrite s).pending = s.pending := Side_pending (badWrite_side s (Side_refl s))
@[simp] theorem badWrite_free : (badWrite s).free = s.free := Side_free (badWrite_side s (Side_refl s))
@[simp] theorem badWrite_clk : (badWrite s).clk = s.clk := Side_clk (badWrite_side s (Side_refl s))
@[simp] theorem badWrite_pwr : (badWrite s).pwr = s.pwr := Side_pwr (badWrite_side s (Side_refl s))
@[simp] theorem badWrite_store : (badWrite s).store = s.store := Side_store (badWrite_side s (Side_refl s))
@[simp] theorem badWrite_inlets : (badWrite s).inlets = s.inlets := Side_inlets (badWrite_side s (Side_refl s))
@[simp] theorem badWrite_tasks : (badWrite s).tasks = s.tasks := Side_tasks (badWrite_side s (Side_refl s))
@[simp] theorem badWrite_nextTask : (badWrite s).nextTask = s.nextTask := Side_nextTask (badWrite_side s (Side_refl s))
@[simp] theorem badWrite_xcorrs : (badWrite s).xcorrs = s.xcorrs := Side_xcorrs (badWrite_side s (Side_refl s))
@[simp] theorem badWrite_tiles : (badWrite s).tiles = s.tiles := Side_tiles (badWrite_side s (Side_refl s))
@[simp] theorem badWrite_cs : (badWrite s).cs = s.cs := Side_cs (badWrite_side s (Side_refl s))
@[simp] theorem badWrite_squall : (badWrite s).squall = s.squall := Side_squall (badWrite_side s (Side_refl s))
@[simp] theorem badWrite_eddy : (badWrite s).eddy = s.eddy := Side_eddy (badWrite_side s (Side_refl s))
@[simp] theorem badWrite_scn : (badWrite s).scn = s.scn := Side_scn (badWrite_side s (Side_refl s))
@[simp] theorem badWrite_tw : (badWrite s).tw = s.tw := Side_tw (badWrite_side s (Side_refl s))
@[simp] theorem badWrite_drt : (badWrite s).drt = s.drt := Side_drt (badWrite_side s (Side_refl s))
@[simp] theorem badWrite_cal : (badWrite s).cal = s.cal := Side_cal (badWrite_side s (Side_refl s))
@[simp] theorem badWrite_brz : (badWrite s).brz = s.brz := Side_brz (badWrite_side s (Side_refl s))
@[simp] theorem badWrite_boot : (badWrite s).boot = s.boot := Side_boot (badWrite_side s (Side_refl s))
@[simp] theorem badWrite_fynal : (badWrite s).fynal = s.fynal := Side_fynal (badWrite_side s (Side_refl s))
@[simp] theorem badWrite_jtag : (badWrite s).jtag = s.jtag := Side_jtag (badWrite_side s (Side_refl s))
@[simp] theorem badWrite_life : (badWrite s).life = s.life := Side_life (badWrite_side s (Side_refl s))
@[simp] theorem badWrite_fw : (badWrite s).fw = s.fw := Side_fw (badWrite_side s (Side_refl s))

@[simp] theorem refuseBar4_pending : (refuseBar4 s).pending = s.pending := Side_pending (refuseBar4_side s (Side_refl s))
@[simp] theorem refuseBar4_free : (refuseBar4 s).free = s.free := Side_free (refuseBar4_side s (Side_refl s))
@[simp] theorem refuseBar4_clk : (refuseBar4 s).clk = s.clk := Side_clk (refuseBar4_side s (Side_refl s))
@[simp] theorem refuseBar4_pwr : (refuseBar4 s).pwr = s.pwr := Side_pwr (refuseBar4_side s (Side_refl s))
@[simp] theorem refuseBar4_store : (refuseBar4 s).store = s.store := Side_store (refuseBar4_side s (Side_refl s))
@[simp] theorem refuseBar4_inlets : (refuseBar4 s).inlets = s.inlets := Side_inlets (refuseBar4_side s (Side_refl s))
@[simp] theorem refuseBar4_tasks : (refuseBar4 s).tasks = s.tasks := Side_tasks (refuseBar4_side s (Side_refl s))
@[simp] theorem refuseBar4_nextTask : (refuseBar4 s).nextTask = s.nextTask := Side_nextTask (refuseBar4_side s (Side_refl s))
@[simp] theorem refuseBar4_xcorrs : (refuseBar4 s).xcorrs = s.xcorrs := Side_xcorrs (refuseBar4_side s (Side_refl s))
@[simp] theorem refuseBar4_tiles : (refuseBar4 s).tiles = s.tiles := Side_tiles (refuseBar4_side s (Side_refl s))
@[simp] theorem refuseBar4_cs : (refuseBar4 s).cs = s.cs := Side_cs (refuseBar4_side s (Side_refl s))
@[simp] theorem refuseBar4_squall : (refuseBar4 s).squall = s.squall := Side_squall (refuseBar4_side s (Side_refl s))
@[simp] theorem refuseBar4_eddy : (refuseBar4 s).eddy = s.eddy := Side_eddy (refuseBar4_side s (Side_refl s))
@[simp] theorem refuseBar4_scn : (refuseBar4 s).scn = s.scn := Side_scn (refuseBar4_side s (Side_refl s))
@[simp] theorem refuseBar4_tw : (refuseBar4 s).tw = s.tw := Side_tw (refuseBar4_side s (Side_refl s))
@[simp] theorem refuseBar4_drt : (refuseBar4 s).drt = s.drt := Side_drt (refuseBar4_side s (Side_refl s))
@[simp] theorem refuseBar4_cal : (refuseBar4 s).cal = s.cal := Side_cal (refuseBar4_side s (Side_refl s))
@[simp] theorem refuseBar4_brz : (refuseBar4 s).brz = s.brz := Side_brz (refuseBar4_side s (Side_refl s))
@[simp] theorem refuseBar4_boot : (refuseBar4 s).boot = s.boot := Side_boot (refuseBar4_side s (Side_refl s))
@[simp] theorem refuseBar4_fynal : (refuseBar4 s).fynal = s.fynal := Side_fynal (refuseBar4_side s (Side_refl s))
@[simp] theorem refuseBar4_jtag : (refuseBar4 s).jtag = s.jtag := Side_jtag (refuseBar4_side s (Side_refl s))
@[simp] theorem refuseBar4_life : (refuseBar4 s).life = s.life := Side_life (refuseBar4_side s (Side_refl s))
@[simp] theorem refuseBar4_fw : (refuseBar4 s).fw = s.fw := Side_fw (refuseBar4_side s (Side_refl s))

@[simp] theorem State_setField_pending (k hi lo v : Nat) : (s.setField k hi lo v).pending = s.pending := Side_pending (State_setField_side s k hi lo v (Side_refl s))
@[simp] theorem State_setField_free (k hi lo v : Nat) : (s.setField k hi lo v).free = s.free := Side_free (State_setField_side s k hi lo v (Side_refl s))
@[simp] theorem State_setField_clk (k hi lo v : Nat) : (s.setField k hi lo v).clk = s.clk := Side_clk (State_setField_side s k hi lo v (Side_refl s))
@[simp] theorem State_setField_pwr (k hi lo v : Nat) : (s.setField k hi lo v).pwr = s.pwr := Side_pwr (State_setField_side s k hi lo v (Side_refl s))
@[simp] theorem State_setField_store (k hi lo v : Nat) : (s.setField k hi lo v).store = s.store := Side_store (State_setField_side s k hi lo v (Side_refl s))
@[simp] theorem State_setField_inlets (k hi lo v : Nat) : (s.setField k hi lo v).inlets = s.inlets := Side_inlets (State_setField_side s k hi lo v (Side_refl s))
@[simp] theorem State_setField_tasks (k hi lo v : Nat) : (s.setField k hi lo v).tasks = s.tasks := Side_tasks (State_setField_side s k hi lo v (Side_refl s))
@[simp] theorem State_setField_nextTask (k hi lo v : Nat) : (s.setField k hi lo v).nextTask = s.nextTask := Side_nextTask (State_setField_side s k hi lo v (Side_refl s))
@[simp] theorem State_setField_xcorrs (k hi lo v : Nat) : (s.setField k hi lo v).xcorrs = s.xcorrs := Side_xcorrs (State_setField_side s k hi lo v (Side_refl s))
@[simp] theorem State_setField_tiles (k hi lo v : Nat) : (s.setField k hi lo v).tiles = s.tiles := Side_tiles (State_setField_side s k hi lo v (Side_refl s))
@[simp] theorem State_setField_cs (k hi lo v : Nat) : (s.setField k hi lo v).cs = s.cs := Side_cs (State_setField_side s k hi lo v (Side_refl s))
@[simp] theorem State_setField_squall (k hi lo v : Nat) : (s.setField k hi lo v).squall = s.squall := Side_squall (State_setField_side s k hi lo v (Side_refl s))
@[simp] theorem State_setField_eddy (k hi lo v : Nat) : (s.setField k hi lo v).eddy = s.eddy := Side_eddy (State_setField_side s k hi lo v (Side_refl s))
@[simp] theorem State_setField_scn (k hi lo v : Nat) : (s.setField k hi lo v).scn = s.scn := Side_scn (State_setField_side s k hi lo v (Side_refl s))
@[simp] theorem State_setField_tw (k hi lo v : Nat) : (s.setField k hi lo v).tw = s.tw := Side_tw (State_setField_side s k hi lo v (Side_refl s))
@[simp] theorem State_setField_drt (k hi lo v : Nat) : (s.setField k hi lo v).drt = s.drt := Side_drt (State_setField_side s k hi lo v (Side_refl s))
@[simp] theorem State_setField_cal (k hi lo v : Nat) : (s.setField k hi lo v).cal = s.cal := Side_cal (State_setField_side s k hi lo v (Side_refl s))
@[simp] theorem State_setField_brz (k hi lo v : Nat) : (s.setField k hi lo v).brz = s.brz := Side_brz (State_setField_side s k hi lo v (Side_refl s))
@[simp] theorem State_setField_boot (k hi lo v : Nat) : (s.setField k hi lo v).boot = s.boot := Side_boot (State_setField_side s k hi lo v (Side_refl s))
@[simp] theorem State_setField_fynal (k hi lo v : Nat) : (s.setField k hi lo v).fynal = s.fynal := Side_fynal (State_setField_side s k hi lo v (Side_refl s))
@[simp] theorem State_setField_jtag (k hi lo v : Nat) : (s.setField k hi lo v).jtag = s.jtag := Side_jtag (State_setField_side s k hi lo v (Side_refl s))
@[simp] theorem State_setField_life (k hi lo v : Nat) : (s.setField k hi lo v).life = s.life := Side_life (State_setField_side s k hi lo v (Side_refl s))
@[simp] theorem State_setField_fw (k hi lo v : Nat) : (s.setField k hi lo v).fw = s.fw := Side_fw (State_setField_side s k hi lo v (Side_refl s))

@[simp] theorem State_setRegN_pending (k v : Nat) : (s.setRegN k v).pending = s.pending := Side_pending (State_setRegN_side s k v (Side_refl s))
@[simp] theorem State_setRegN_free (k v : Nat) : (s.setRegN k v).free = s.free := Side_free (State_setRegN_side s k v (Side_refl s))
@[simp] theorem State_setRegN_clk (k v : Nat) : (s.setRegN k v).clk = s.clk := Side_clk (State_setRegN_side s k v (Side_refl s))
@[simp] theorem State_setRegN_pwr (k v : Nat) : (s.setRegN k v).pwr = s.pwr := Side_pwr (State_setRegN_side s k v (Side_refl s))
@[simp] theorem State_setRegN_store (k v : Nat) : (s.setRegN k v).store = s.store := Side_store (State_setRegN_side s k v (Side_refl s))
@[simp] theorem State_setRegN_inlets (k v : Nat) : (s.setRegN k v).inlets = s.inlets := Side_inlets (State_setRegN_side s k v (Side_refl s))
@[simp] theorem State_setRegN_tasks (k v : Nat) : (s.setRegN k v).tasks = s.tasks := Side_tasks (State_setRegN_side s k v (Side_refl s))
@[simp] theorem State_setRegN_nextTask (k v : Nat) : (s.setRegN k v).nextTask = s.nextTask := Side_nextTask (State_setRegN_side s k v (Side_refl s))
@[simp] theorem State_setRegN_xcorrs (k v : Nat) : (s.setRegN k v).xcorrs = s.xcorrs := Side_xcorrs (State_setRegN_side s k v (Side_refl s))
@[simp] theorem State_setRegN_tiles (k v : Nat) : (s.setRegN k v).tiles = s.tiles := Side_tiles (State_setRegN_side s k v (Side_refl s))
@[simp] theorem State_setRegN_cs (k v : Nat) : (s.setRegN k v).cs = s.cs := Side_cs (State_setRegN_side s k v (Side_refl s))
@[simp] theorem State_setRegN_squall (k v : Nat) : (s.setRegN k v).squall = s.squall := Side_squall (State_setRegN_side s k v (Side_refl s))
@[simp] theorem State_setRegN_eddy (k v : Nat) : (s.setRegN k v).eddy = s.eddy := Side_eddy (State_setRegN_side s k v (Side_refl s))
@[simp] theorem State_setRegN_scn (k v : Nat) : (s.setRegN k v).scn = s.scn := Side_scn (State_setRegN_side s k v (Side_refl s))
@[simp] theorem State_setRegN_tw (k v : Nat) : (s.setRegN k v).tw = s.tw := Side_tw (State_setRegN_side s k v (Side_refl s))
@[simp] theorem State_setRegN_drt (k v : Nat) : (s.setRegN k v).drt = s.drt := Side_drt (State_setRegN_side s k v (Side_refl s))
@[simp] theorem State_setRegN_cal (k v : Nat) : (s.setRegN k v).cal = s.cal := Side_cal (State_setRegN_side s k v (Side_refl s))
@[simp] theorem State_setRegN_brz (k v : Nat) : (s.setRegN k v).brz = s.brz := Side_brz (State_setRegN_side s k v (Side_refl s))
@[simp] theorem State_setRegN_boot (k v : Nat) : (s.setRegN k v).boot = s.boot := Side_boot (State_setRegN_side s k v (Side_refl s))
@[simp] theorem State_setRegN_fynal (k v : Nat) : (s.setRegN k v).fynal = s.fynal := Side_fynal (State_setRegN_side s k v (Side_refl s))
@[simp] theorem State_setRegN_jtag (k v : Nat) : (s.setRegN k v).jtag = s.jtag := Side_jtag (State_setRegN_side s k v (Side_refl s))
@[simp] theorem State_setRegN_life (k v : Nat) : (s.setRegN k v).life = s.life := Side_life (State_setRegN_side s k v (Side_refl s))
@[simp] theorem State_setRegN_fw (k v : Nat) : (s.setRegN k v).fw = s.fw := Side_fw (State_setRegN_side s k v (Side_refl s))

@[simp] theorem State_setReg64_pending (lo hi v : Nat) : (s.setReg64 lo hi v).pending = s.pending := Side_pending (State_setReg64_side s lo hi v (Side_refl s))
@[simp] theorem State_setReg64_free (lo hi v : Nat) : (s.setReg64 lo hi v).free = s.free := Side_free (State_setReg64_side s lo hi v (Side_refl s))
@[simp] theorem State_setReg64_clk (lo hi v : Nat) : (s.setReg64 lo hi v).clk = s.clk := Side_clk (State_setReg64_side s lo hi v (Side_refl s))
@[simp] theorem State_setReg64_pwr (lo hi v : Nat) : (s.setReg64 lo hi v).pwr = s.pwr := Side_pwr (State_setReg64_side s lo hi v (Side_refl s))
@[simp] theorem State_setReg64_store (lo hi v : Nat) : (s.setReg64 lo hi v).store = s.store := Side_store (State_setReg64_side s lo hi v (Side_refl s))
@[simp] theorem State_setReg64_inlets (lo hi v : Nat) : (s.setReg64 lo hi v).inlets = s.inlets := Side_inlets (State_setReg64_side s lo hi v (Side_refl s))
@[simp] theorem State_setReg64_tasks (lo hi v : Nat) : (s.setReg64 lo hi v).tasks = s.tasks := Side_tasks (State_setReg64_side s lo hi v (Side_refl s))
@[simp] theorem State_setReg64_nextTask (lo hi v : Nat) : (s.setReg64 lo hi v).nextTask = s.nextTask := Side_nextTask (State_setReg64_side s lo hi v (Side_refl s))
@[simp] theorem State_setReg64_xcorrs (lo hi v : Nat) : (s.setReg64 lo hi v).xcorrs = s.xcorrs := Side_xcorrs (State_setReg64_side s lo hi v (Side_refl s))
@[simp] theorem State_setReg64_tiles (lo hi v : Nat) : (s.setReg64 lo hi v).tiles = s.tiles := Side_tiles (State_setReg64_side s lo hi v (Side_refl s))
@[simp] theorem State_setReg64_cs (lo hi v : Nat) : (s.setReg64 lo hi v).cs = s.cs := Side_cs (State_setReg64_side s lo hi v (Side_refl s))
@[simp] theorem State_setReg64_squall (lo hi v : Nat) : (s.setReg64 lo hi v).squall = s.squall := Side_squall (State_setReg64_side s lo hi v (Side_refl s))
@[simp] theorem State_setReg64_eddy (lo hi v : Nat) : (s.setReg64 lo hi v).eddy = s.eddy := Side_eddy (State_setReg64_side s lo hi v (Side_refl s))
@[simp] theorem State_setReg64_scn (lo hi v : Nat) : (s.setReg64 lo hi v).scn = s.scn := Side_scn (State_setReg64_side s lo hi v (Side_refl s))
@[simp] theorem State_setReg64_tw (lo hi v : Nat) : (s.setReg64 lo hi v).tw = s.tw := Side_tw (State_setReg64_side s lo hi v (Side_refl s))
@[simp] theorem State_setReg64_drt (lo hi v : Nat) : (s.setReg64 lo hi v).drt = s.drt := Side_drt (State_setReg64_side s lo hi v (Side_refl s))
@[simp] theorem State_setReg64_cal (lo hi v : Nat) : (s.setReg64 lo hi v).cal = s.cal := Side_cal (State_setReg64_side s lo hi v (Side_refl s))
@[simp] theorem State_setReg64_brz (lo hi v : Nat) : (s.setReg64 lo hi v).brz = s.brz := Side_brz (State_setReg64_side s lo hi v (Side_refl s))
@[simp] theorem State_setReg64_boot (lo hi v : Nat) : (s.setReg64 lo hi v).boot = s.boot := Side_boot (State_setReg64_side s lo hi v (Side_refl s))
@[simp] theorem State_setReg64_fynal (lo hi v : Nat) : (s.setReg64 lo hi v).fynal = s.fynal := Side_fynal (State_setReg64_side s lo hi v (Side_refl s))
@[simp] theorem State_setReg64_jtag (lo hi v : Nat) : (s.setReg64 lo hi v).jtag = s.jtag := Side_jtag (State_setReg64_side s lo hi v (Side_refl s))
@[simp] theorem State_setReg64_life (lo hi v : Nat) : (s.setReg64 lo hi v).life = s.life := Side_life (State_setReg64_side s lo hi v (Side_refl s))
@[simp] theorem State_setReg64_fw (lo hi v : Nat) : (s.setReg64 lo hi v).fw = s.fw := Side_fw (State_setReg64_side s lo hi v (Side_refl s))

@[simp] theorem State_countSat_pending (k n : Nat) : (s.countSat k n).pending = s.pending := Side_pending (State_countSat_side s k n (Side_refl s))
@[simp] theorem State_countSat_free (k n : Nat) : (s.countSat k n).free = s.free := Side_free (State_countSat_side s k n (Side_refl s))
@[simp] theorem State_countSat_clk (k n : Nat) : (s.countSat k n).clk = s.clk := Side_clk (State_countSat_side s k n (Side_refl s))
@[simp] theorem State_countSat_pwr (k n : Nat) : (s.countSat k n).pwr = s.pwr := Side_pwr (State_countSat_side s k n (Side_refl s))
@[simp] theorem State_countSat_store (k n : Nat) : (s.countSat k n).store = s.store := Side_store (State_countSat_side s k n (Side_refl s))
@[simp] theorem State_countSat_inlets (k n : Nat) : (s.countSat k n).inlets = s.inlets := Side_inlets (State_countSat_side s k n (Side_refl s))
@[simp] theorem State_countSat_tasks (k n : Nat) : (s.countSat k n).tasks = s.tasks := Side_tasks (State_countSat_side s k n (Side_refl s))
@[simp] theorem State_countSat_nextTask (k n : Nat) : (s.countSat k n).nextTask = s.nextTask := Side_nextTask (State_countSat_side s k n (Side_refl s))
@[simp] theorem State_countSat_xcorrs (k n : Nat) : (s.countSat k n).xcorrs = s.xcorrs := Side_xcorrs (State_countSat_side s k n (Side_refl s))
@[simp] theorem State_countSat_tiles (k n : Nat) : (s.countSat k n).tiles = s.tiles := Side_tiles (State_countSat_side s k n (Side_refl s))
@[simp] theorem State_countSat_cs (k n : Nat) : (s.countSat k n).cs = s.cs := Side_cs (State_countSat_side s k n (Side_refl s))
@[simp] theorem State_countSat_squall (k n : Nat) : (s.countSat k n).squall = s.squall := Side_squall (State_countSat_side s k n (Side_refl s))
@[simp] theorem State_countSat_eddy (k n : Nat) : (s.countSat k n).eddy = s.eddy := Side_eddy (State_countSat_side s k n (Side_refl s))
@[simp] theorem State_countSat_scn (k n : Nat) : (s.countSat k n).scn = s.scn := Side_scn (State_countSat_side s k n (Side_refl s))
@[simp] theorem State_countSat_tw (k n : Nat) : (s.countSat k n).tw = s.tw := Side_tw (State_countSat_side s k n (Side_refl s))
@[simp] theorem State_countSat_drt (k n : Nat) : (s.countSat k n).drt = s.drt := Side_drt (State_countSat_side s k n (Side_refl s))
@[simp] theorem State_countSat_cal (k n : Nat) : (s.countSat k n).cal = s.cal := Side_cal (State_countSat_side s k n (Side_refl s))
@[simp] theorem State_countSat_brz (k n : Nat) : (s.countSat k n).brz = s.brz := Side_brz (State_countSat_side s k n (Side_refl s))
@[simp] theorem State_countSat_boot (k n : Nat) : (s.countSat k n).boot = s.boot := Side_boot (State_countSat_side s k n (Side_refl s))
@[simp] theorem State_countSat_fynal (k n : Nat) : (s.countSat k n).fynal = s.fynal := Side_fynal (State_countSat_side s k n (Side_refl s))
@[simp] theorem State_countSat_jtag (k n : Nat) : (s.countSat k n).jtag = s.jtag := Side_jtag (State_countSat_side s k n (Side_refl s))
@[simp] theorem State_countSat_life (k n : Nat) : (s.countSat k n).life = s.life := Side_life (State_countSat_side s k n (Side_refl s))
@[simp] theorem State_countSat_fw (k n : Nat) : (s.countSat k n).fw = s.fw := Side_fw (State_countSat_side s k n (Side_refl s))

@[simp] theorem State_countWrap_pending (k n : Nat) : (s.countWrap k n).pending = s.pending := Side_pending (State_countWrap_side s k n (Side_refl s))
@[simp] theorem State_countWrap_free (k n : Nat) : (s.countWrap k n).free = s.free := Side_free (State_countWrap_side s k n (Side_refl s))
@[simp] theorem State_countWrap_clk (k n : Nat) : (s.countWrap k n).clk = s.clk := Side_clk (State_countWrap_side s k n (Side_refl s))
@[simp] theorem State_countWrap_pwr (k n : Nat) : (s.countWrap k n).pwr = s.pwr := Side_pwr (State_countWrap_side s k n (Side_refl s))
@[simp] theorem State_countWrap_store (k n : Nat) : (s.countWrap k n).store = s.store := Side_store (State_countWrap_side s k n (Side_refl s))
@[simp] theorem State_countWrap_inlets (k n : Nat) : (s.countWrap k n).inlets = s.inlets := Side_inlets (State_countWrap_side s k n (Side_refl s))
@[simp] theorem State_countWrap_tasks (k n : Nat) : (s.countWrap k n).tasks = s.tasks := Side_tasks (State_countWrap_side s k n (Side_refl s))
@[simp] theorem State_countWrap_nextTask (k n : Nat) : (s.countWrap k n).nextTask = s.nextTask := Side_nextTask (State_countWrap_side s k n (Side_refl s))
@[simp] theorem State_countWrap_xcorrs (k n : Nat) : (s.countWrap k n).xcorrs = s.xcorrs := Side_xcorrs (State_countWrap_side s k n (Side_refl s))
@[simp] theorem State_countWrap_tiles (k n : Nat) : (s.countWrap k n).tiles = s.tiles := Side_tiles (State_countWrap_side s k n (Side_refl s))
@[simp] theorem State_countWrap_cs (k n : Nat) : (s.countWrap k n).cs = s.cs := Side_cs (State_countWrap_side s k n (Side_refl s))
@[simp] theorem State_countWrap_squall (k n : Nat) : (s.countWrap k n).squall = s.squall := Side_squall (State_countWrap_side s k n (Side_refl s))
@[simp] theorem State_countWrap_eddy (k n : Nat) : (s.countWrap k n).eddy = s.eddy := Side_eddy (State_countWrap_side s k n (Side_refl s))
@[simp] theorem State_countWrap_scn (k n : Nat) : (s.countWrap k n).scn = s.scn := Side_scn (State_countWrap_side s k n (Side_refl s))
@[simp] theorem State_countWrap_tw (k n : Nat) : (s.countWrap k n).tw = s.tw := Side_tw (State_countWrap_side s k n (Side_refl s))
@[simp] theorem State_countWrap_drt (k n : Nat) : (s.countWrap k n).drt = s.drt := Side_drt (State_countWrap_side s k n (Side_refl s))
@[simp] theorem State_countWrap_cal (k n : Nat) : (s.countWrap k n).cal = s.cal := Side_cal (State_countWrap_side s k n (Side_refl s))
@[simp] theorem State_countWrap_brz (k n : Nat) : (s.countWrap k n).brz = s.brz := Side_brz (State_countWrap_side s k n (Side_refl s))
@[simp] theorem State_countWrap_boot (k n : Nat) : (s.countWrap k n).boot = s.boot := Side_boot (State_countWrap_side s k n (Side_refl s))
@[simp] theorem State_countWrap_fynal (k n : Nat) : (s.countWrap k n).fynal = s.fynal := Side_fynal (State_countWrap_side s k n (Side_refl s))
@[simp] theorem State_countWrap_jtag (k n : Nat) : (s.countWrap k n).jtag = s.jtag := Side_jtag (State_countWrap_side s k n (Side_refl s))
@[simp] theorem State_countWrap_life (k n : Nat) : (s.countWrap k n).life = s.life := Side_life (State_countWrap_side s k n (Side_refl s))
@[simp] theorem State_countWrap_fw (k n : Nat) : (s.countWrap k n).fw = s.fw := Side_fw (State_countWrap_side s k n (Side_refl s))

end Sys2Proof.Laws
end

