-- ==== Sys2Proof/Laws/Runs.lean ====
section
/-! SUPPORT. How a mailbox row runs its command, and what its checks let through. -/

namespace Sys2Proof.Laws

set_option Elab.async false

open Sys2Proof.Machine Sys2Proof.Claims

/-- The row of a command in progress runs its body. -/
theorem runCmd_of_runs {s : State} {id opcode : Nat} {sel : Cmd → Bool} {c : Cmd} (h : Runs s id opcode sel c) (body : Cmd → State → State) :
    runCmd id opcode sel body s = body c s := by
  unfold runCmd
  rw [h.found]
  simp [h.started, h.notWaiting, h.opcode, h.selector]

/-- Checks pass where each passes. -/
theorem firstFail_cons_none (x : Check) (l : List Check) : firstFail (x :: l) = none ↔ x = none ∧ firstFail l = none := by
  cases x <;> simp [firstFail]

theorem passes_cons (x : Check) (l : List Check) : Passes (x :: l) ↔ x = none ∧ Passes l := firstFail_cons_none x l

theorem passes_nil : Passes [] := rfl

/-- Checks that pass let the command go on. -/
theorem checked_of_passes {checks : List Check} (h : Passes checks) (c : Cmd) (ok : State → State) (s : State) : checked c checks ok s = ok s := by
  unfold checked
  rw [h]

theorem need_none {ok : Bool} {status aux : Nat} : need ok status aux = none ↔ ok = true := by cases ok <;> simp [need]

theorem needState_none {ok : Bool} {aux : Nat} : needState ok aux = none ↔ ok = true := need_none

theorem params_none {l : List (Nat × Bool)} : params l = none ↔ ∀ x ∈ l, x.2 = true := by
  unfold params
  split
  · rename_i h
    simp only [List.map_eq_nil_iff, List.filter_eq_nil_iff, Bool.not_eq_true', Bool.not_eq_false] at h
    simpa using h
  · rename_i h
    simp only [reduceCtorEq, false_iff]
    intro hall
    rw [List.filter_eq_nil_iff.mpr (by intro x hx; simp [hall x hx])] at h
    simp at h

end Sys2Proof.Laws
end

