-- ==== Sys2Proof/WellFormed.lean ====
section
/-! DEFINITION. Well-formed commands: the operands that the outside can offer, read from the widths and ranges the manual gives
the fields. The meanings do not depend on it: a command that is not well formed has an outcome too (log 9). -/

namespace Sys2Proof

/-- A string of a given length, where the read delivered one (R411, R429). -/
def HostRead.lengthIs (n : Nat) : HostRead → Bool
  | some d => decide (d.length = n)
  | none => true

/-- A string of at most a given length. -/
def HostRead.lengthAtMost (n : Nat) : HostRead → Bool
  | some d => decide (d.length ≤ n)
  | none => true

/-- A packet as R344 lays it out: 8-bit type, 16-bit fields and at most 4,096 bytes of payload. -/
def Packet.wellFormed (p : Packet) : Bool :=
  decide (p.type < 256) && decide (p.dstDid < 65536) && decide (p.srcDid < 65536) && decide (p.subtype < 65536) &&
  decide (p.hops < 256) && decide (p.payload.length ≤ 4096)

/-- A packet of a type that R345 gives a row. -/
def Packet.isOf (t : Nat) (p : Packet) : Bool := p.wellFormed && decide (p.type = t)

/-- A flit has 256 bytes (R340). -/
def flitLength : Nat := 256

/-- An aligned offset below a bound (R389). -/
def dwordOffset (o bound : Nat) : Bool := decide (o % 4 = 0) && decide (o < bound)

/-- A doorbell write of 4 or 8 bytes whose value fits (R389). -/
def doorbellSize (value : U64) (size : Nat) : Bool := decide (size = 8) || (decide (size = 4) && decide (value.toNat < 2 ^ 32))

/-- The results of link training: rates and lanes of R337, a 16-bit DID (R338). -/
def TrainResult.wellFormed (r : TrainResult) : Bool := decide (r.rate < 8) && decide (r.peerDid < 65536)

/-- Raw codes of a 12-bit converter (R525, R528). -/
def PathCodes.wellFormed (c : PathCodes) : Bool :=
  [c.dac256, c.dac768, c.p1At256, c.p1At768, c.p2At256, c.p2At768, c.quiet].all fun x => decide (x < 4096)

/-- Lane arrivals of a link start: at most 32 lanes (R43, R47). -/
def IlasResult.wellFormed (r : IlasResult) : Bool := decide (r.badLane < 32) && decide (r.arrivals.length ≤ 32)

/-- A line of printable characters that the monitor can receive: numbers of at most 32 bits (R549, R550). -/
def monitorNumber (n : Nat) : Bool := decide (n < 2 ^ 32)

/-- What the outside can offer with a command. -/
def Instr.wellFormed : Instr → Bool
  | .specTaskCreate _ desc table | .specTaskModify _ desc table | .retroJobSubmit _ desc table =>
    HostRead.lengthIs 256 desc && HostRead.lengthAtMost 2097152 table
  | .xcorrCreate _ desc | .xcorrDestroy _ desc | .acqConfig _ desc => HostRead.lengthIs 256 desc
  | .trigUnitConfig _ points => HostRead.lengthAtMost 65536 points
  | .densityConfigure _ cmap => HostRead.lengthIs 1024 cmap
  | .nvmeDelegate _ desc => HostRead.lengthIs 128 desc
  | .monitorPathTest _ codes => codes.wellFormed
  | .imageUpdateData _ data _ => HostRead.lengthAtMost 65536 data
  | .lifecycleUnlock _ token _ => HostRead.lengthAtMost 4096 token
  | .cmdqTailDoorbell _ v n | .cplqHeadDoorbell _ v n | .evqHeadDoorbell _ v n | .streamHeadDoorbell _ v n => doorbellSize v n
  | .bar4Read _ n => decide (0 < n) && decide (n ≤ 4096)
  | .bar4Write _ bytes _ => decide (0 < bytes.length) && decide (bytes.length ≤ 4096)
  | .bitAliasWrite o _ _ => dwordOffset (o - 0x2000000) 0x2000000 && decide (0x2000000 ≤ o)
  | .registerWrite bar o _ _ _ => match bar with
    | .bar0 => decide (o < 0x10000)
    | .bar2 => decide (o < 0x4000000)
  | .configurationWrite o _ => dwordOffset o 4096
  | .pcieLinkUp gen width => decide (1 ≤ gen) && decide (gen ≤ 5) && [1, 2, 4, 8, 16].contains width
  | .calDomainComplete run1 run2 _ => decide (run1.length = run2.length)
  | .bootSectionVerified _ body turned => decide (body.length ≤ 20 * 4096 + 4 * 9) && turned.all fun x => decide (x.2.1 < 16384 ∧ x.2.2 < 2 ^ 168)
  | .ilasReceived _ r => r.wellFormed
  | .laneResyncComplete _ _ arrival => decide (arrival < 512)
  | .rowDisturbanceThreshold _ _ group _ => decide (group < 4096)
  | .uncorrectableRead addr _ _ | .firmwareCopyRestore addr _ => decide (addr < 2 ^ 35)
  | .routineAbandon _ causes x => decide (x.addr < 16384 ∧ x.got < 16384 ∧ x.flips < 2 ^ 168) && causes.all fun c => decide (1 ≤ c ∧ c ≤ 6)
  | .controlStoreScrubCheck _ addr got flips => decide (addr < 16384 ∧ got < 16384 ∧ flips < 2 ^ 168)
  | .auxReply code data => decide (code < 3) && decide (data.length ≤ 16)
  | .descriptorLoad desc => HostRead.lengthIs 64 desc
  | .draughtBusError cause _ _ space _ => decide (1 ≤ cause ∧ cause ≤ 5) && decide (space < 4)
  | .portTrainingComplete _ r => r.wellFormed
  | .flitReceive _ f => decide (f.length = flitLength)
  | .nakReceive _ ack => decide (ack < 4096)
  | .linkWriteReceive _ p => p.isOf 1
  | .linkReadReceive _ p => p.isOf 2
  | .linkCompletionReceive _ p | .forwardedCompletionReceive _ p => p.isOf 3
  | .linkPacketForward _ p | .forwardedCommandReceive _ p | .forwardedEventReceive _ p | .groupRegistrationReceive _ p
  | .healReceive _ p | .offerReceive _ p | .activateReceive _ p | .routeAddReceive _ p | .routeDelReceive _ p
  | .placementControlReceive _ p | .trigFireReceive _ p | .groupFireReceive _ p | .groupArmReceive _ p | .groupDisarmReceive _ p
  | .armConfirmReceive _ p | .timeSyncReceive _ p _ | .delayReqReceive _ p _ | .delayRespReceive _ p _
  | .enumAssignReceive _ p | .enumReportReceive _ p | .enumDoneReceive _ p => p.wellFormed
  | .flowLossTimeout did => decide (did < 65536)
  | .fynalBaud rate => monitorNumber rate
  | .fynalEvents n => monitorNumber n
  | .fynalUcode _ addr n => monitorNumber addr && monitorNumber n
  | .fynalPeek _ addr n => decide (addr < 2 ^ 64) && monitorNumber n
  | .fynalPoke _ addr _ => decide (addr < 2 ^ 64)
  | .fynalUpdate n => monitorNumber n
  | .fynalUpdatePiece piece _ _ _ => decide (piece.length ≤ 4096)
  | .frameRelease _ samples => samples.all fun x => decide (x.length ≤ 32)
  | .inletStartStepTimeout _ _ | .trigInEdge _ _ _ _
  | .devIdentify _ | .devStatus _ | .devResetDevice _ | .devResetTile _ _ | .devResetStoreChannel _ | .devResetLinkPort _
  | .devResetScanout _ | .devResetMailbox _ | .devResetDelayedAction | .setLatencyTolerance _ | .setPowerLimit _
  | .powerQuery _ | .timebaseSet _ | .timebaseDiscipline _ | .inletConfig _ | .inletStart _ | .inletStop _
  | .inletStopTickReached _ | .inletStatus _ | .storeRegionAlloc _ | .storeRegionFree _ | .storeMapQuery _
  | .specTaskDestroy _ | .specTaskPlace _ | .trigUnitQuery _ | .trigMatrixConfig _ | .trigMatrixQuery _
  | .groupRegistrationTimeout _ | .arm _ | .groupArmConfirmDeadline _ | .groupArmTick _ | .disarm _
  | .disarmDecisionBoundElapsed _ | .forceFireAt _ | .forceFireUnit _ | .forceFireTickReached | .densityRemove _
  | .densityQuery _ | .densityClear _ | .densityClearSweep | .streamOpen _ | .streamQuery _ | .streamClose _
  | .linkEnumerate _ | .linkStatusQuery _ | .linkPortUp _ | .linkPortDown _ | .linkPortRetrain _ | .linkRouteQuery _
  | .eventRoute _ | .eventUnmask _ | .eventMask _ | .eventMaskQuery _ | .calStatus _ | .monitorSummary _ | .cfgCommit _
  | .cfgWithdraw _ | .cfgQuery _ | .imageUpdateBegin _ | .imageUpdateFinish _ _ | .attestQuote _ | .commandFetch _ _
  | .fenceRelease _ | .cmdqEnable _ _ | .cmdqDisable _ _ | .cplqEnable _ _ | .cplqDisable _ _ | .evqEnable _ _
  | .evqDisable _ _ | .interruptModerationTimeout _ _ | .msixVectorUnmask _ | .bar4WindowApply _ | .quiesce _ | .nvmeQuiesced
  | .scnEnable _ | .timingApply _ _ | .scnShadowValid _ _ _ | .scnAuxGo _ | .drtShadowValid _ _ _ | .drtAbort _ _
  | .dmaHaltAck _ | .crcLearn _ | .crcCfgRefWrite _ _ | .crcEnable _ | .snap _ | .evtFirstWrite _ _ | .brzRun _ _
  | .brzRestart _ _ | .brzSlotConfigWrite _ _ _ _ | .d3hotEntry | .d0Return | .powerOn _ | .resetN _ | .perstNAssert
  | .hotReset | .dlDown | .flr | .supplyBrownout _ | .thermtrip | .watchdogExpiry | .watchdogRestartReady
  | .firmwareHeartbeat | .crystalStartTimeout | .mailboxReady | .regulatorStatusPoll _ | .refinLoss | .crystalLoss
  | .synthLockLoss _ | .synthRelock _ | .synthFrequencyDeparture _ | .ppsInEdge _ | .ppsMissedTimeout | .holdoverTimeout
  | .ptmDialogStart | .ptmResponse _ _ | .ptmCorrelationInvalid | .lullEntry | .lullWake | .thermalEvaluation
  | .powerRequestGrant | .powerRequestTimeout | .lifeLedgerSample | .wearMonitorDaily | .lifeLedgerWrite | .sysrefPulse _ _
  | .historyWriteCommit _ _ | .laneErrorDetected _ _ _ | .laneSyncLoss _ _ | .laneErrorWindow | .refreshDue _ _ _
  | .rowDisturbanceWindow | .throttleEnd _ | .edcBurstFailure _ _ | .patrolScrub _ _ | .storeRetrainStart _
  | .storeRetrainComplete _ | .selfRefreshIdleTimeout | .selfRefreshWake | .selfRefreshExitComplete | .tileReadIssue _
  | .tileBatchStart _ | .commitUnitAccept _ _ | .routineRestart _ | .tileWatchdogExpiry _ | .shareHandover _
  | .replacementComplete _ | .backfillComplete _ | .xcorrIndexTimeout _ | .trigOutPulse _ | .groupDecision _
  | .acqCopyChunk _ _ _ | .densityExportBoundary _ | .exportWritesAccepted _ | .scanoutFrameStart | .layerFetchStart _
  | .layerUnderrun _ | .hpdUnplug | .hpdPlug | .hpdIrq _ | .dpTrainingComplete _ _ | .dpTrainingRetry | .auxTimeout
  | .recordDeliver _ | .notifyTimeout _ | .nvmeCompletionEntry _ | .nvmeFlushTimer _ | .nvmeCommandTimeout _
  | .peerStreamAck _ _ | .peerStreamCut _ _ | .descriptorEnd _ | .portTrainingStart _ | .portRetryTimer _
  | .ackTimeoutReplay _ | .linkRetrainComplete _ _ | .noFlitTimeout _ | .blockLockLoss _ | .heartbeatSend _
  | .heartbeatMissing _ | .linkRequestTimeout _ | .healOfferTimeout | .timeSyncSend _ | .delayMeasure _ | .crcSweep
  | .breezeConversion _ _ _ | .fynalHelp | .fynalId | .fynalCal | .fynalChain | .fynalPower | .fynalLife | .fynalTiles _
  | .fynalTrace _ | .fynalUpdateRestart | .jtagInstructionLoad _ | .tapReset | .synthesizerLocked _ | .laneLockAchieved _ _ _
  | .ppsOutPulse | .baudSwitch | .monitorLineRejected _ => true

end Sys2Proof
end

