-- ==== Sys2Proof/Tests/Slice0.lean ====
section
/-! SUPPORT. Tests: small states, ill-formed commands that are refused, worked examples of the manual, and states and operands that
meet the hypotheses of each statement. -/

namespace Sys2Proof.Tests

open Sys2Proof Sys2Proof.Machine Sys2Proof.Safety Sys2Proof.Claims Sys2Proof.Laws

set_option maxRecDepth 20000
set_option linter.unusedVariables false
set_option Elab.async false

/-- A mailbox command in progress with the parameters that differ from zero. -/
def cmdOf (op : Nat) (p : List (Nat × Data)) : Cmd :=
  { id := 1, origin := .queue 0, cplq := 0, bytes := block 64 ((0, le 2 op ++ le 2 0 ++ le 4 7) :: p), started := true, waiting := false, blocks := [] }
/-- A small state in which it runs. -/
def cmdState (op : Nat) (p : List (Nat × Data)) (f : State → State) : State :=
  f { State.reset with mbx := { Mailbox.reset with state := .ready, cmds := [cmdOf op p], nextId := 2 }, boot := { Boot.reset with phase := .running } }
/-- A state in which the firmware runs. -/
def upState (f : State → State) : State :=
  f { State.reset with mbx := { Mailbox.reset with state := .ready }, boot := { Boot.reset with phase := .running }, fw := { Firmware.reset with runs := true } }

/-- The host reaches it. -/
def hostState (f : State → State) : State := upState fun s => f { s with pcie := { Pcie.reset with linkUp := true, cfg := [(0x04, 6)] } }
/-- CMDQ0 of 8 entries with three of them waiting, CPLQ0 and EVQ0 of 8 with three outstanding, and commands in progress. -/
def queueState (l : List Cmd) : State := hostState fun s =>
  { s with mbx := { s.mbx with cmds := l, nextId := 2,
                               cmdqs := Mailbox.reset.cmdqs.set 0 { CmdQueue.reset with enabled := true, size := 8, tail := 3 },
                               cplqs := Mailbox.reset.cplqs.set 0 { OutQueue.reset with enabled := true, size := 8, tail := 3 },
                               evqs := Mailbox.reset.evqs.set 0 { OutQueue.reset with enabled := true, size := 8, tail := 3 } } }

/-- The store is ready with its default regions. -/
def storeReady (s : State) : State :=
  { s with store := { Store.reset with state := .ready, pinRate := 24, regions := defaultRegions false }, pcie := { s.pcie with barSizeLog2 := 35 }, clk := { s.clk with synths := Vector.replicate 11 { Synth.reset with state := .locked } } }

/-- A page 0 for JESD204C at 1 GS/s on eight lanes and four converters, its page 1, and a page 2. -/
def goodPage0 : Data := block 64 [(0x09, [0]), (0x0A, [1, 1, 1, 8, 4, 0, 16, 16, 1, 0, 0, 1, 1]), (0x18, le 4 25), (0x1C, le 4 1)]
def goodPage1 : Data := block 64 [(0x09, [1]), (0x10, [0, 1, 2, 3, 4, 5, 6, 7]), (0x18, List.replicate 24 0xFF)]
def goodPage2 : Data := block 64 [(0x09, [2]), (0x0E, [1])]
/-- An inlet with these pages. -/
def goodInlet : Inlet := { Inlet.reset with page0 := some goodPage0, page1 := some goodPage1, page2 := some goodPage2 }
/-- Four of them, changed. -/
def inletState (f : Inlet → Inlet) (s : State) : State := { storeReady s with inlets := Vector.replicate 4 (f goodInlet) }

/-- A descriptor of a power spectrum of 1,024 points of channel 8, and one of a correlator of channels 8 and 9. -/
def taskRaw : Data := block 256 [(0x00, [1, 0, 0, 8, 10, 0, 1, 0]), (0x1C, le 4 1), (0x28, le 2 1), (0x2A, [0xFF])]
def xcorrRaw : Data := block 256 [(0x00, [1, 0, 0, 2]), (0x08, [10, 0, 0, 1]), (0x0E, [0xFF]), (0x10, le 4 1000), (0x2A, [8]), (0x3A, [9])]
/-- Inlets that run beside a task 1 of the first descriptor. -/
def runInlet : Inlet := { goodInlet with state := .running, ring := { goodInlet.ring with oldest := 5, newest := 20000000 } }
def runningInlets (s : State) : State := { storeReady s with inlets := Vector.replicate 4 runInlet }
def taskOne : Task := { freshTask 1 .live (taskDescOf taskRaw []) goodInlet with active := true }
def taskState (f : Task → Task) (s : State) : State := { runningInlets s with tasks := [f taskOne] }

/-- A correlator 5 whose inlets run. -/
def xcorrState (s : State) : State := { runningInlets s with xcorrs := [xcOf xcorrRaw 5 goodInlet] }
/-- A chain of two: this device has DID 5, and port 0 is active to the peer 9. -/
def linked (f : Port → Port) (s : State) : State :=
  { s with link := { Link.reset with assigned := true, did := 5, ports := Link.reset.ports.set 0 (f { Port.reset with state := .active, width := 8, rate := 7, peerDid := 9, peerAssigned := true, credits := Vector.replicate 4 16, entries := [(9, 9, 1)] }) } }
/-- A task 1 there. -/
def placeState (s : State) : State := linked id (taskState id s)

/-- A share of task 1, and tiles that hold or run it. -/
def shareOne : Share := { task := 1, sixteenths := 16, period := 1, residues := [0], idx := 0, from_ := 0, limit := none, epoch := 0, role := 0, ran := 0 }
def tileState (f : Tile → Tile) (s : State) : State := { s with tiles := Vector.replicate 20 (f Tile.reset) }
def tileRun (f : Tile → Tile) : State :=
  tileState (fun t => f { t with powered := true, state := .running, running := some shareOne.key, batch := [0], shares := [shareOne] }) (taskState id State.reset)
def tileReadyState : State :=
  tileState (fun t => { t with powered := true, shares := [shareOne] }) { taskState id (storeReady State.reset) with clk := { Clock.reset with tick := 1000000, synths := Vector.replicate 11 { Synth.reset with state := .locked } } }
def fencedTile : State :=
  { taskState id State.reset with tiles := (Vector.replicate 20 { Tile.reset with powered := true }).set 3 { Tile.reset with state := .fenced, shares := [shareOne] } }
/-- A share for a home device 9, and what this device holds of it. -/
def foreignShare : Share := { shareOne with task := 7, role := 5 }
def foreignOne : ForeignShare :=
  { home := 9, task := 7, sixteenths := 16, active := true, raw := taskRaw, complex := false, hist16 := false, epoch := 0, startIdx := 0, startTime := 0,
    stepNum := 65536, stepDen := 1, next := none }
def backOne : Backfill := ⟨[], [], false, 4⟩
def tileRedo : State :=
  tileState (fun t => { t with powered := true, state := .running, restarting := true, running := some shareOne.key, batch := [0], shares := [shareOne] }) tileReadyState

/-- A definition for AT 2 of the raw samples of channel 8, and ATs with it. -/
def acqRaw : Data := block 256 [(0, [1, 0, 2, 0, 1, 0, 0, 0xFF]), (0x08, le 4 256), (0x0C, le 4 1), (0x10, le 4 1), (0x20, le 8 100)]
def atWith (f : AcqTrigger → AcqTrigger) (s : State) : State :=
  { runningInlets s with squall := { Squall.reset with ats := Squall.reset.ats.set 2 (f { AcqTrigger.reset with def_ := some (acqDefOf acqRaw), matrix := some ⟨false, false, 0, 0, [1, 0, 0, 0], [0, 0, 0, 0], 0, 0, 0⟩ }) } }
def atReady (s : State) : State := atWith id s
def atArmed (s : State) : State := atWith (fun a => { a with armed := true }) s
def atGroupArmed (s : State) : State := linked id (atWith (fun a => { a with armed := true, def_ := some { acqDefOf acqRaw with armMode := 2 }, members := [⟨5, 0, true, 0⟩, ⟨9, 0, true, 1⟩] }) s)
/-- An acquisition of AT 2 in progress, 100 ticks before and after its trigger, whose source is changed; a hole holds its samples. -/
def acqRing (oldest : Nat) (s : State) : State :=
  { s with inlets := Vector.replicate 4 { runInlet with ring := { runInlet.ring with oldest := oldest, holes := [⟨600, 2000, 2⟩] } } }
def acqState (oldest : Nat) (f : SourceCopy → SourceCopy) : State :=
  (fun s => acqRing oldest { s with squall := { s.squall with acqs := s.squall.acqs.map fun q => { q with sources := q.sources.map f } } })
    (cutAcquisition 2 1000 0 5 0 (acqRing 5 (atWith (fun a => { a with armed := true, def_ := some { acqDefOf acqRaw with preTicks := 100 } }) State.reset)))
def noSource : SourceCopy := ⟨none, 0, 0, 0, false, 0, 0, 0, 0, 0, 0, 0, false, [], [], false, false⟩
def noAcq : Acquisition := ⟨0, 0, 0, 0, 0, 0, 0, acqDefOf acqRaw, 0, 0, 0, none, [], false⟩
def atGroup (s : State) : State := atWith (fun a => { a with def_ := some { acqDefOf acqRaw with armMode := 2 } }) s


/-- A scan-out that runs with its cursor layer enabled. -/
def scanLayer : Layer := { Layer.reset 3 with set := { (Layer.reset 3).set with ctrl := 1 } }
def scanState : State := (storeReady { State.reset with scn := { ScanOut.reset with running := true, layers := Vector.replicate 4 scanLayer } }).setReg (kScn 0) 1

/-- A scan-out that runs with a valid shadow set for its cursor layer. -/
def scnShadow : State := (((storeReady { State.reset with scn := { ScanOut.reset with running := true } }).setReg (kScn 0) 1).setReg (kLayer 3 0x24) 1).setReg (kLayer 3 0x0C) 1 |>.setReg (kLayer 3 0x10) (BitVec.ofNat 32 (15703474176 / 64))

/-- Stream 3 open to a host ring with one record of 64 bytes accepted, and changed. -/
def recOne : Accepted := ⟨7, zeros 64, none, 0, 9⟩
def streamBase : Stream := { Stream.reset with state := .open_, ringSize := 65536, backlogLimit := 1000000, queue := [recOne], backlog := 64 }
def streamState (f : Stream → Stream) : State := hostState fun s => { storeReady s with tw := Vector.replicate 16 (f streamBase) }
/-- A delegation of 2 entries each way, transfers of 4 KiB and a queue memory of 64 KiB in STAGE. -/
def nvmeRaw : Data := block 128 [(0x00, [1, 0, 3]), (0x04, le 4 100), (0x20, le 8 65536), (0x30, [2, 0, 2, 0]), (0x3C, le 4 4096), (0x48, le 8 64), (0x50, le 4 4096)]
def nvmeOne : Nvme := { nvmeOf nvmeRaw with slots := 8 }
def nvmeState (f : Nvme → Nvme) : State := streamState fun t => { t with dest := 1, nvme := some (f nvmeOne) }
/-- Channel 5 of Draught has a descriptor to load, or runs one. -/
def chanWith (f : DmaChan → DmaChan) (s : State) : State := { s with drt := { Draught.reset with chans := Draught.reset.chans.set 5 (f Draught.reset.chans[5]) } }
def fillRaw : Data := block 64 [(0x10, le 4 8), (0x16, [8]), (0x2C, [1, 2, 3, 4])]
def runChan (d : DmaDesc) : State := hostState fun s =>
  { storeReady s with drt := { Draught.reset with running := some 5, chans := Draught.reset.chans.set 5 { Draught.reset.chans[5] with state := .running, desc := some d } } }
def historyBase : Nat := match (storeReady State.reset).store.region rtHistory with | some r => r.base | none => 0

/-- A packet from the peer 9, and a device that it reaches. -/
def pk (t sub : Nat) (aux : U64) (d : Data) : Packet :=
  { type := t, bcast := false, ackReq := false, neighbour := false, dstDid := 5, srcDid := 9, tag := 0, subtype := sub, hops := 0, addr := 0, aux := aux, payload := d }
def linkState : State := upState (fun s => linked id (storeReady s))
/-- Port 0 is down, or trains with its power granted. -/
def portState (f : Port → Port) : State := upState fun s => { storeReady s with link := { Link.reset with ports := Link.reset.ports.set 0 (f Port.reset) } }
def trainState : State := { portState (fun p => { p with state := .training }) with pwr := { Power.reset with grants := [⟨.port 0, [(pcLink, 24)]⟩] } }
def trainGood : TrainResult := { ok := true, rate := 7, lanesHere := 255, lanesPeer := 255, delay := 900000, closesCycle := false, peerDid := 0, peerSerial := 6, peerAssigned := false }
def dmaBase : Nat := match linkState.store.region rtDma with | some r => r.base | none => 0
def fwdOne : ForwardedCmd := ⟨1, 9, true⟩
def migOne : Migration := ⟨1, 4, 0, some 9, false⟩
def migState : State := linked id (taskState (fun t => { t with migration := some migOne }) (upState id))
def oldInlet : Inlet := { goodInlet with ring := { goodInlet.ring with extents := 1, geometry := (goodInlet.bytes2, 1, 1), oldest := 100000, frames := [⟨0, 0, 0, 2097152, 1, List.replicate 100 [], [], false, false, false⟩] } }
def oldState : State := { linkState with inlets := Vector.replicate 4 oldInlet }

/-- AT 2 belongs to group 0 of a master; and it registers with one. -/
def grpDef (master : Nat) : AcqDef := { acqDefOf acqRaw with armMode := 2, masterDid := master }
def grpState (master : Nat) (f : AcqTrigger → AcqTrigger) : State := linked id (atWith (fun a => f { a with def_ := some (grpDef master) }) linkState)
def regState : State :=
  (fun s => { s with mbx := { s.mbx with cmds := [cmdOf 0x0402 []] } }) (linked id (atWith (fun a => { a with registerCmd := some 1, registering := some (acqDefOf acqRaw) }) linkState))

/-- Flash that holds a string of bytes; and one that holds an image in slot A or B that passes the checks of R537. -/
def cellsAt : Nat → Data → Memory
  | _, [] => []
  | a, b :: d => (a, b) :: cellsAt (a + 1) d
def goodImage : Data := block 0x700 [(0x000, le 4 0x584E4C4B ++ le 2 1 ++ le 2 2 ++ le 4 7), (0x010, le 4 0x2100 ++ [0, 255]),
  (0x040, le 4 1 ++ le 4 0x1000 ++ le 4 0x100), (0x090, le 4 2 ++ le 4 0x2000 ++ le 4 0x100)]
theorem cellsAt_skip (a b : Nat) (d : Data) (n x : Nat) (v : Byte) (h : x < a) : flashRead ((x, v) :: cellsAt b d) a n = flashRead (cellsAt b d) a n := by
  induction n generalizing a with
  | zero => rfl
  | succ n ih =>
    have e : flashByte ((x, v) :: cellsAt b d) a = flashByte (cellsAt b d) a := by
      have hx : a ≠ x := by omega
      simp only [flashByte, spGet, hx, if_false]
    simp only [flashRead, e, ih (a + 1) (by omega)]
theorem cellsAt_read (a : Nat) (d : Data) : flashRead (cellsAt a d) a d.length = d := by
  induction d generalizing a with
  | nil => rfl
  | cons b d ih =>
    simp only [List.length_cons, flashRead, cellsAt]
    rw [cellsAt_skip (a + 1) (a + 1) d d.length a b (by omega), ih (a + 1)]
    simp [flashByte, spGet]
def imageState (slot : Bool) (s : State) : State := { s with boot := { s.boot with flash := cellsAt (faSlot slot) goodImage } }
theorem image_ok (s : State) (b : Bool) (l : Option Nat) (hl : l = none ∨ l = some 0x2100) (hf : s.boot.flash = cellsAt (faSlot b) goodImage)
    (h1 : s.boot.fuses = Boot.reset.fuses) (h2 : s.boot.lifecycle = Boot.reset.lifecycle) : imageFailure s b l ⟨true, true, true, true, true⟩ = none := by
  have hh : imageHead s b = goodImage := by rw [imageHead, flashAt, hf]; exact cellsAt_read (faSlot b) goodImage
  simp only [imageFailure, hh, imageFits, h1, h2]
  rcases hl with h | h <;> subst h <;> decide
theorem image_layout (s : State) (b : Bool) (hf : s.boot.flash = cellsAt (faSlot b) goodImage) : imageLayout (imageHead s b) none = true := by
  have hh : imageHead s b = goodImage := by rw [imageHead, flashAt, hf]; exact cellsAt_read (faSlot b) goodImage
  rw [hh]; decide
def pathGood : PathCodes := { dac256 := 0, dac768 := 2048, p1At256 := 1024, p1At768 := 3072, p2At256 := 1024, p2At768 := 3072, quiet := 5 }
def tokenRaw : Data := block tokenSize [(0, le 4 0x4E4B4F54 ++ le 2 1)]

/-! ## The hypotheses of the general statements are met -/

/-- EVQ0 of 8 entries in use, changed, in a block that masters traffic. -/
def evqState (f : OutQueue → OutQueue) : State :=
  { queueState [] with mbx := { (queueState []).mbx with evqs := Mailbox.reset.evqs.set 0 (f { OutQueue.reset with enabled := true, size := 8, tail := 3 }) } }
/-- A command of CMDQ0 that completes into CPLQ0. -/
def completing (on : Bool) : State :=
  { queueState [cmdOf 0x0003 []] with mbx := { (queueState [cmdOf 0x0003 []]).mbx with cplqs := Mailbox.reset.cplqs.set 0 { OutQueue.reset with enabled := on, size := 8, tail := 7 } } }
/-- A power ledger with some grants and requests. -/
def powerState (f : Power → Power) : State := { State.reset with pwr := f Power.reset }
def limitState (l : Nat) : State := cmdState 0x0011 [(0x08, le 2 l)] id
def limitCmd (l : Nat) : Cmd := cmdOf 0x0011 [(0x08, le 2 l)]
def oneRing : Ring := { Inlet.reset.ring with holes := [⟨10, 20, 2⟩, ⟨20, 30, 9⟩], oldest := 5, newest := 100, poisoned := [⟨0, 40, 50⟩] }
def waitingReq : PowerReq := ⟨.task 1, [(1, 4)], 0, 0, 0, none⟩
def storeMasks (l : List Nat) : Store := { Store.reset with clamshell := true, cfg := { Store.reset.cfg with masks := l } }
def oneMask : List Nat := [256, 512, 1024, 2048, 4096, 8192, 16384, 32768]

theorem test_reset_canonical : Canonical State.reset := ⟨rfl, rfl, rfl, rfl, by decide⟩
theorem test_meets_StatesStayCanonical : ∃ s t : State, Canonical s ∧ step s = .next t :=
  ⟨{ State.reset with pending := [.thermalEvaluation] }, _, ⟨rfl, rfl, rfl, rfl, by decide⟩, rfl⟩
theorem test_meets_FusesOnlyBlowAndTrimsStay : ∃ s t : State, step s = .next t := ⟨{ State.reset with pending := [.thermalEvaluation] }, _, rfl⟩

theorem test_meets_WritesReadBack_1 : ∃ (s : State) (a : Nat) (d : Data) (i : Nat), Memory.wf s.host = true ∧ masters s = true ∧ i < d.length :=
  ⟨hostState id, 0, [1, 2], 1, by decide⟩
theorem test_meets_WritesReadBack_2 : ∃ (a : Nat) (d : Data) (x : Nat), x < a ∨ a + d.length ≤ x := ⟨5, [1, 2], 7, by decide⟩
theorem test_meets_WritesReadBack_3 : masters State.reset = false := by decide
theorem test_meets_WritesReadBack_4 : ∃ (s : State) (d : Data) (i : Nat), Memory.wf s.store.mem = true ∧ i < d.length := ⟨State.reset, [1], 0, by decide⟩
theorem test_meets_WritesReadBack_6 : ∃ (s : State) (d : Data) (i : Nat), spWf flashDefault s.boot.flash = true ∧ i < d.length := ⟨State.reset, [0xFF], 0, by decide⟩
theorem test_meets_WritesReadBack_10 : ∃ (s : State) (hi lo i : Nat), RegsCanonical s ∧ lo ≤ hi ∧ hi < 32 ∧ i < 32 := ⟨State.reset, 31, 0, 31, by decide⟩

theorem test_meets_PoisonFollowsWholeSectorWrites_3 : ∃ a n : Nat, a % 32 = 0 ∧ n % 32 = 0 := ⟨64, 32, by decide⟩
theorem test_poison_partial : ((storeWrite 33 (zeros 63) { State.reset with store := { Store.reset with poison := [1, 2] } }).store.poison) = [1] := by decide

theorem test_meets_GapsCarryTheHighestRankedCause_1 : ∃ a b : Nat, a ∈ ranks ∧ b ∈ ranks := ⟨10, 7, by decide⟩
theorem test_meets_GapsCarryTheHighestRankedCause_2 : spanGap oneRing 0 100 5 = some 9 := by decide
theorem test_gap_poison_over_overwrite : spanGap { oneRing with holes := [] } 0 100 5 = some 10 := by decide
theorem test_meets_GapsCarryTheHighestRankedCause_3 : spanGap oneRing 60 100 5 = none := by decide
theorem test_meets_GapsCarryTheHighestRankedCause_4 : ∃ (s : State) (t : Task) (n : Fin 4), t.inlet = some n ∧
    spanGap s.inlets[n].ring (t.frameTime 0 / 65536) (ceilDiv (t.frameStop 0) 65536) 5 = some 5 :=
  ⟨taskState id State.reset, taskOne, 1, by decide⟩
theorem test_meets_GapsCarryTheHighestRankedCause_6 : ∃ n h : Hole, n.cause ∈ ranks ∧ h.cause ∈ ranks ∧ n.start = h.start ∧ n.stop = h.stop ∧ n.start < n.stop :=
  ⟨⟨1, 2, 3⟩, ⟨1, 2, 2⟩, by decide⟩

theorem test_meets_PowerLimitIsSetWithoutRevokingGrants_2 : ∃ (s : State) (id : Nat) (c : Cmd), Runs s id 0x0011 anyCmd c ∧
    Passes [entryCheck c [(0x08, 2)] [], deviceCheck s c] ∧ 300 ≤ c.p16 0x08 ∧ c.p16 0x08 ≤ 1850 :=
  ⟨limitState 300, 1, limitCmd 300, ⟨rfl, rfl, rfl, rfl, rfl⟩, by decide, by decide, by decide⟩
theorem test_meets_PowerLimitIsSetWithoutRevokingGrants_3 : ∃ (s : State) (id : Nat) (c : Cmd), Runs s id 0x0011 anyCmd c ∧
    Passes [entryCheck c [(0x08, 2)] [], deviceCheck s c] ∧ (c.p16 0x08 < 300 ∨ 1850 < c.p16 0x08) :=
  ⟨limitState 1851, 1, limitCmd 1851, ⟨rfl, rfl, rfl, rfl, rfl⟩, by decide, by decide⟩
theorem test_limit_below_grants : 300 < (limitState 300).pwr.granted_ := by decide

theorem test_meets_CompletionsReachTheirQueue_1 : ∃ (s : State) (c : Cmd) (q : Fin 8), findCmd s c.id = some c ∧ c.origin = .queue q ∧ s.mbx.cplqs[c.cplq].enabled = true :=
  ⟨completing true, cmdOf 0x0003 [], 0, rfl, rfl, rfl⟩
theorem test_meets_CompletionsReachTheirQueue_2 : ∃ (s : State) (c : Cmd) (q : Fin 8), findCmd s c.id = some c ∧ c.origin = .queue q ∧ s.mbx.cplqs[c.cplq].enabled = false :=
  ⟨completing false, cmdOf 0x0003 [], 0, rfl, rfl, rfl⟩
theorem test_completion_wraps : ((complete (cmdOf 0x0003 []) 0 0 0 0 (completing true)).mbx.cplqs[0]).tail = 0 := by decide
theorem test_meets_CompletionsReachTheirQueue_3 : Passes [none, need true 3 0] := by decide
theorem test_meets_CompletionsReachTheirQueue_4 : ∀ c, ¬ Runs State.reset 1 0x0003 anyCmd c := fun _ h => nomatch (show (none : Option Cmd) = some _ from h.found)

theorem test_meets_EventsSetStatusAndReachTheirQueue_1 : RegsCanonical State.reset ∧ 4095 < 4096 := by decide
theorem test_meets_EventsSetStatusAndReachTheirQueue_3 : ∃ s : State, RegsCanonical s ∧ s.field kEvtFirst 15 0 ≠ 0xFFFF := ⟨State.reset.setReg kEvtFirst 5, by decide, by decide⟩
theorem test_meets_EventsSetStatusAndReachTheirQueue_4 : ∃ (s : State) (ev : Nat), RegsCanonical s ∧ ev < 4096 ∧ s.clk.tick < 2 ^ 64 ∧
    (s.reg (kEvtStatus (ev / 32))).getLsbD (ev % 32) = false ∧ s.field kEvtFirst 15 0 = 0xFFFF := ⟨State.reset, 0xB52, by decide⟩
theorem test_meets_EventsSetStatusAndReachTheirQueue_5 : ∃ (s : State) (ev : Nat), RegsCanonical s ∧ ev < 4096 ∧ eventMasked s ev = true :=
  ⟨State.reset.setReg (kEvtMask 0) 0x80000000, 31, by decide, by decide, by decide⟩
theorem test_meets_EventsSetStatusAndReachTheirQueue_6 : ∃ (s : State) (ev : Nat) (n : Fin 4), RegsCanonical s ∧ ev < 4096 ∧ eventMasked s ev = false ∧
    s.boot.phase ≠ .restarting ∧ eventPeriod ev = none ∧ (eventRouteOf s ev).proxy = none ∧ (eventRouteOf s ev).evq = n.val ∧
    ¬ (mbxReady s = true ∧ s.mbx.evqs[n].enabled = true) ∧ s.evt.logs[n].length ≤ 256 := ⟨State.reset, 0xB52, 0, by decide⟩
theorem test_meets_EventsSetStatusAndReachTheirQueue_7 : ∃ (s : State) (ev : Nat) (n : Fin 4), RegsCanonical s ∧ ev < 4096 ∧ eventMasked s ev = false ∧
    s.boot.phase ≠ .restarting ∧ eventPeriod ev = none ∧ (eventRouteOf s ev).proxy = none ∧ (eventRouteOf s ev).evq = n.val ∧
    mbxReady s = true ∧ s.mbx.evqs[n].enabled = true ∧ s.mbx.evqs[n].overflow = false ∧ 2 ≤ s.mbx.evqs[n].free :=
  ⟨evqState (fun q => { q with head := 6 }), 0xB52, 0, by decide⟩

theorem test_meets_OverflowKeepsOneEntryInReserve_1 : ∃ (s : State) (n : Fin 4), RegsCanonical s ∧ s.mbx.evqs[n].overflow = false ∧ s.mbx.evqs[n].free = 1 :=
  ⟨evqState (fun q => { q with tail := 6 }), 0, by decide⟩
theorem test_meets_OverflowKeepsOneEntryInReserve_2 : ∃ (s : State) (n : Fin 4), RegsCanonical s ∧ s.mbx.evqs[n].overflow = true ∧ s.mbx.evqs[n].free < 2 :=
  ⟨evqState (fun q => { q with tail := 6, overflow := true, lostNow := 1 }), 0, by decide⟩
theorem test_meets_OverflowKeepsOneEntryInReserve_3 : ∃ (s : State) (n : Fin 4), s.mbx.evqs[n].overflow = true ∧ 2 ≤ s.mbx.evqs[n].free :=
  ⟨evqState (fun q => { q with tail := 5, overflow := true, lostNow := 1 }), 0, by decide⟩
theorem test_meets_OverflowKeepsOneEntryInReserve_4 : ∃ (s : State) (n : Fin 4), s.mbx.evqs[n].overflow = false ∨ s.mbx.evqs[n].free < 2 := ⟨State.reset, 3, by decide⟩
theorem test_meets_OverflowKeepsOneEntryInReserve_6 : ∃ (s : State) (n : Fin 4) (h : Nat), s.mbx.evqs[n].takes h = true := ⟨evqState id, 0, 3, by decide⟩
theorem test_meets_OverflowKeepsOneEntryInReserve_7 : ∃ (s : State) (n : Fin 4), s.mbx.evqs[n].overflow = false ∧ 2 ≤ s.mbx.evqs[n].free :=
  ⟨evqState (fun q => { q with tail := 5 }), 0, by decide⟩

theorem test_meets_HashOutputsAreParitiesOfTheMasksInUse_2 : hashOutputs (storeMasks (List.replicate 8 0)) 0x80000F40 = [0, 1, 1, 1, 1, 0, 0, 1] := by decide
theorem test_meets_HashOutputsAreParitiesOfTheMasksInUse_5 : (blockMasks (storeMasks oneMask)).length = 8 ∧ masksInUse (storeMasks oneMask) = oneMask := by decide
theorem test_meets_HashOutputsAreParitiesOfTheMasksInUse_6 : ∃ st : Store, ¬ (blockMasks st).length = 8 := ⟨storeMasks [], by decide⟩
theorem test_meets_ChannelHashIsOneToOne : ∃ (st : Store) (a b : Nat), a < 2 ^ (topRowBit st.clamshell + 1) ∧ b < 2 ^ (topRowBit st.clamshell + 1) ∧
    channelOf st a = channelOf st b ∧ bankOf st a = bankOf st b ∧ rowOf st a = rowOf st b ∧ columnOf a = columnOf b :=
  ⟨Store.reset, 2 ^ 34 - 1, 2 ^ 34 - 1, by decide, by decide, rfl, rfl, rfl, rfl⟩

theorem test_meets_PowerRequestsAreDecided_4 : ∃ (l : List (Nat × Nat)) (s : State), s.pwr.effective < 380 + (l.map Prod.snd).sum ∨ s.pwr.effective ≤ 380 :=
  ⟨[], powerState (fun p => { p with effective := 380 }), by decide⟩
theorem test_meets_PowerRequestsAreDecided_5 : ∃ (l : List (Nat × Nat)) (s : State), 380 < s.pwr.effective ∧ s.pwr.queue = [] ∧
    s.pwr.granted_ + (l.map Prod.snd).sum ≤ s.pwr.effective := ⟨[(1, 1)], powerState (fun p => { p with effective := 381 }), by decide⟩
theorem test_meets_PowerRequestsAreDecided_6 : ∃ (l : List (Nat × Nat)) (s : State), 380 < s.pwr.effective ∧ 380 + (l.map Prod.snd).sum ≤ s.pwr.effective ∧
    (s.pwr.queue ≠ [] ∨ s.pwr.effective < s.pwr.granted_ + (l.map Prod.snd).sum) ∧ s.pwr.queue.length < 64 :=
  ⟨[(1, 1)], powerState (fun p => { p with effective := 381, queue := [waitingReq] }), by decide⟩
theorem test_meets_PowerRequestsAreDecided_6_full : ∃ (l : List (Nat × Nat)) (s : State), 380 < s.pwr.effective ∧ 380 + (l.map Prod.snd).sum ≤ s.pwr.effective ∧
    (s.pwr.queue ≠ [] ∨ s.pwr.effective < s.pwr.granted_ + (l.map Prod.snd).sum) ∧ 64 ≤ s.pwr.queue.length :=
  ⟨[(1, 1)], powerState (fun p => { p with effective := 381, queue := List.replicate 64 waitingReq }), by decide⟩

/-! ## Ill-formed commands are refused, one for each check -/

theorem test_ill_desc256 : (Instr.specTaskCreate 1 (some []) none).wellFormed = false := by decide
theorem test_ill_modify : (Instr.specTaskModify 1 (some [0]) none).wellFormed = false := by decide
theorem test_ill_retro : (Instr.retroJobSubmit 1 (some []) none).wellFormed = false := by decide
theorem test_ill_table (d : Data) (h : 2097152 < d.length) : (Instr.specTaskCreate 1 none (some d)).wellFormed = false := by
  simp [Instr.wellFormed, HostRead.lengthIs, HostRead.lengthAtMost]; exact h
theorem test_ill_xcorr_create : (Instr.xcorrCreate 1 (some [])).wellFormed = false := by decide
theorem test_ill_xcorr_destroy : (Instr.xcorrDestroy 1 (some [])).wellFormed = false := by decide
theorem test_ill_acq : (Instr.acqConfig 1 (some [])).wellFormed = false := by decide
theorem test_ill_points (d : Data) (h : 65536 < d.length) : (Instr.trigUnitConfig 1 (some d)).wellFormed = false := by
  simp [Instr.wellFormed, HostRead.lengthAtMost]; exact h
theorem test_ill_cmap : (Instr.densityConfigure 1 (some [])).wellFormed = false := by decide
theorem test_ill_delegation : (Instr.nvmeDelegate 1 (some [])).wellFormed = false := by decide
theorem test_ill_path_code : (Instr.monitorPathTest 1 ⟨0, 0, 0, 0, 0, 0, 4096⟩).wellFormed = false := by decide
theorem test_ill_update_data (d : Data) (h : 65536 < d.length) : (Instr.imageUpdateData 1 (some d) true).wellFormed = false := by
  simp [Instr.wellFormed, HostRead.lengthAtMost]; exact h
theorem test_ill_token (d : Data) (h : 4096 < d.length) : (Instr.lifecycleUnlock 1 (some d) true).wellFormed = false := by
  simp [Instr.wellFormed, HostRead.lengthAtMost]; exact h
theorem test_ill_doorbell_size : (Instr.cmdqTailDoorbell 0 1 2).wellFormed = false := by decide
theorem test_ill_doorbell_value : (Instr.cplqHeadDoorbell 0 0x100000000 4).wellFormed = false := by decide
theorem test_ill_evq_doorbell : (Instr.evqHeadDoorbell 0 1 16).wellFormed = false := by decide
theorem test_ill_stream_doorbell : (Instr.streamHeadDoorbell 0 1 1).wellFormed = false := by decide
theorem test_ill_bar4_read_empty : (Instr.bar4Read 0 0).wellFormed = false := by decide
theorem test_ill_bar4_read_long : (Instr.bar4Read 0 4097).wellFormed = false := by decide
theorem test_ill_bar4_write : (Instr.bar4Write 0 [] false).wellFormed = false := by decide
theorem test_ill_alias_low : (Instr.bitAliasWrite 0x1FFFFFC 0 .none).wellFormed = false := by decide
theorem test_ill_alias_odd : (Instr.bitAliasWrite 0x2000002 0 .none).wellFormed = false := by decide
theorem test_ill_bar0 : (Instr.registerWrite .bar0 0x10000 0 15 .none).wellFormed = false := by decide
theorem test_ill_bar2 : (Instr.registerWrite .bar2 0x4000000 0 15 .none).wellFormed = false := by decide
theorem test_ill_configuration : (Instr.configurationWrite 0x1002 0).wellFormed = false := by decide
theorem test_ill_link_gen : (Instr.pcieLinkUp 6 16).wellFormed = false := by decide
theorem test_ill_link_width : (Instr.pcieLinkUp 5 3).wellFormed = false := by decide
theorem test_ill_cal_runs : (Instr.calDomainComplete [none] [] 24).wellFormed = false := by decide
theorem test_ill_patch_word : ∀ c, (Instr.bootSectionVerified c [] [(0, 16384, 0)]).wellFormed = false := fun _ => rfl
theorem test_ill_ilas : (Instr.ilasReceived 0 ⟨true, 32, []⟩).wellFormed = false := by decide
theorem test_ill_resync : (Instr.laneResyncComplete 0 0 512).wellFormed = false := by decide
theorem test_ill_row_group : (Instr.rowDisturbanceThreshold 0 0 4096 []).wellFormed = false := by decide
theorem test_ill_sector (a b : SectorRead) : (Instr.uncorrectableRead (2 ^ 35) 0 ⟨a, b⟩).wellFormed = false := rfl
theorem test_ill_copy : (Instr.firmwareCopyRestore (2 ^ 35) true).wellFormed = false := by decide
theorem test_ill_abandon_cause : (Instr.routineAbandon 0 [7] ⟨0, 0, 0, 0⟩).wellFormed = false := by decide
theorem test_ill_abandon_addr : (Instr.routineAbandon 0 [1] ⟨0, 16384, 0, 0⟩).wellFormed = false := by decide
theorem test_ill_scrub_addr : (Instr.controlStoreScrubCheck 0 16384 0 0).wellFormed = false := by decide
theorem test_ill_aux_code : (Instr.auxReply 3 []).wellFormed = false := by decide
theorem test_ill_aux_data : (Instr.auxReply 0 (zeros 17)).wellFormed = false := by decide
theorem test_ill_descriptor : (Instr.descriptorLoad (some [])).wellFormed = false := by decide
theorem test_ill_bus_cause : (Instr.draughtBusError 6 0 0 0 0).wellFormed = false := by decide
theorem test_ill_bus_space : (Instr.draughtBusError 1 0 0 4 0).wellFormed = false := by decide
theorem test_ill_training : (Instr.portTrainingComplete 0 { trainGood with rate := 8 }).wellFormed = false := by decide
theorem test_ill_flit : (Instr.flitReceive 0 (zeros 255)).wellFormed = false := by decide
theorem test_ill_nak : (Instr.nakReceive 0 4096).wellFormed = false := by decide
theorem test_ill_write_type : (Instr.linkWriteReceive 0 (pk 2 0 0 [])).wellFormed = false := by decide
theorem test_ill_read_type : (Instr.linkReadReceive 0 (pk 1 0 0 [])).wellFormed = false := by decide
theorem test_ill_completion_type : (Instr.linkCompletionReceive 0 (pk 1 0 0 [])).wellFormed = false := by decide
theorem test_ill_forwarded_completion_type : (Instr.forwardedCompletionReceive 0 (pk 4 0 0 [])).wellFormed = false := by decide
theorem test_ill_packet_did : (Instr.linkPacketForward 0 { pk 1 0 0 [] with dstDid := 65536 }).wellFormed = false := by decide
theorem test_ill_packet_hops : (Instr.healReceive 0 { pk 7 0 0 [] with hops := 256 }).wellFormed = false := by decide
theorem test_ill_packet_type : (Instr.timeSyncReceive 0 (pk 256 0 0 []) 0).wellFormed = false := by decide
theorem test_ill_packet_payload (d : Data) (h : 4096 < d.length) : (Instr.forwardedCommandReceive 0 (pk 4 0 0 d)).wellFormed = false := by
  simp [Instr.wellFormed, Packet.wellFormed, pk, Nat.not_le.2 h]
theorem test_ill_flow_did : (Instr.flowLossTimeout 65536).wellFormed = false := by decide
theorem test_ill_baud : (Instr.fynalBaud (2 ^ 32)).wellFormed = false := by decide
theorem test_ill_events : (Instr.fynalEvents (2 ^ 32)).wellFormed = false := by decide
theorem test_ill_ucode : (Instr.fynalUcode 0 (2 ^ 32) 1).wellFormed = false := by decide
theorem test_ill_peek : (Instr.fynalPeek 0 (2 ^ 64) 1).wellFormed = false := by decide
theorem test_ill_poke : (Instr.fynalPoke 0 (2 ^ 64) 0).wellFormed = false := by decide
theorem test_ill_update_length : (Instr.fynalUpdate (2 ^ 32)).wellFormed = false := by decide
theorem test_ill_piece (d : Data) (h : 4096 < d.length) (c : CryptoChecks) : (Instr.fynalUpdatePiece d true true c).wellFormed = false := by
  simp [Instr.wellFormed]; exact h
theorem test_ill_frame : (Instr.frameRelease 0 [List.replicate 33 0]).wellFormed = false := by decide
theorem test_ill_patch_body (c : CryptoChecks) (d : Data) (h : 81956 < d.length) : (Instr.bootSectionVerified c d []).wellFormed = false := by
  simp [Instr.wellFormed]; omega
theorem test_ill_patch_flips : ∀ c, (Instr.bootSectionVerified c [] [(0, 0, 2 ^ 168)]).wellFormed = false := fun _ => rfl
theorem test_ill_ilas_arrivals : (Instr.ilasReceived 0 ⟨true, 0, List.replicate 33 0⟩).wellFormed = false := by decide
theorem test_ill_link_gen_zero : (Instr.pcieLinkUp 0 16).wellFormed = false := by decide
theorem test_ill_abandon_got : (Instr.routineAbandon 0 [1] ⟨0, 0, 16384, 0⟩).wellFormed = false := by decide
theorem test_ill_abandon_flips : (Instr.routineAbandon 0 [1] ⟨0, 0, 0, 2 ^ 168⟩).wellFormed = false := rfl
theorem test_ill_scrub_got : (Instr.controlStoreScrubCheck 0 0 16384 0).wellFormed = false := by decide
theorem test_ill_scrub_flips : (Instr.controlStoreScrubCheck 0 0 0 (2 ^ 168)).wellFormed = false := rfl
theorem test_ill_training_did : (Instr.portTrainingComplete 0 { trainGood with peerDid := 65536 }).wellFormed = false := by decide
theorem test_ill_packet_src : (Instr.linkPacketForward 0 { pk 1 0 0 [] with srcDid := 65536 }).wellFormed = false := by decide
theorem test_ill_packet_subtype : (Instr.linkPacketForward 0 { pk 1 0 0 [] with subtype := 65536 }).wellFormed = false := by decide
theorem test_ill_ucode_count : (Instr.fynalUcode 0 1 (2 ^ 32)).wellFormed = false := by decide
theorem test_ill_peek_count : (Instr.fynalPeek 0 1 (2 ^ 32)).wellFormed = false := by decide
theorem test_well_formed : (Instr.linkWriteReceive 0 (pk 1 0 0 [1])).wellFormed = true := by decide

/-! ## The table gives no row any bits -/

theorem test_no_word : decodeTableWord 32 5 = none := rfl
theorem test_front : (State.reset.withFetchWord 32 5).pending = [] := rfl

/-! ## Worked examples of the manual -/

/-- The CRC-32C check string (R466). -/
theorem test_crc32c : crc32c [0x31, 0x32, 0x33, 0x34, 0x35, 0x36, 0x37, 0x38, 0x39] = 0xE3069283 := by decide
/-- 102.3 °C under a limit of 1,650 leaves 1,500 (R507). -/
theorem test_effective_limit : effectiveLimit 1650 6547 = 1500 := by decide
/-- The second address of the example of R74: channel 14, group 1, bank 2. -/
theorem test_hash_example : channelOf (storeMasks (List.replicate 8 0)) 0x80000F40 = 14 ∧ columnOf 0x80000F40 = 64 ∧
    rowOf (storeMasks (List.replicate 8 0)) 0x80000F40 = 4096 := by decide

/-! ## The hypotheses of the statements about commands are met -/

theorem test_meets_DeviceCommandsAnswerAndReset_1 : ∃ (s : State) (id : Nat) (c : Cmd),
      Runs s id 0x0001 anyCmd c ∧
      Passes [entryCheck c [(0x10, 8)] [], deviceCheck s c, bufCheck c] :=
  ⟨(cmdState 0x0001 [] id : State), 1, cmdOf 0x0001 [], ⟨rfl, rfl, rfl, rfl, rfl⟩, by decide⟩

theorem test_meets_DeviceCommandsAnswerAndReset_2 : ∃ (s : State) (id : Nat) (c : Cmd),
      Runs s id 0x0002 anyCmd c ∧
      Passes [entryCheck c [(0x10, 8)] [], deviceCheck s c, bufCheck c] :=
  ⟨(cmdState 0x0002 [] id : State), 1, cmdOf 0x0002 [], ⟨rfl, rfl, rfl, rfl, rfl⟩, by decide⟩

theorem test_meets_DeviceCommandsAnswerAndReset_3 : ∃ (s : State) (id : Nat) (c : Cmd),
      Runs s id 0x0012 anyCmd c ∧
      Passes [entryCheck c [(0x10, 8)] [], deviceCheck s c, bufCheck c] :=
  ⟨(cmdState 0x0012 [] id : State), 1, cmdOf 0x0012 [], ⟨rfl, rfl, rfl, rfl, rfl⟩, by decide⟩

theorem test_meets_DeviceCommandsAnswerAndReset_4 : ∃ (s : State) (id : Nat) (c : Cmd),
      Runs s id 0x0900 anyCmd c ∧
      Passes [entryCheck c [] [], deviceCheck s c] :=
  ⟨(cmdState 0x0900 [] id : State), 1, cmdOf 0x0900 [], ⟨rfl, rfl, rfl, rfl, rfl⟩, by decide⟩

theorem test_meets_DeviceCommandsAnswerAndReset_5 : ∃ (s : State) (id : Nat) (c : Cmd),
      Runs s id 0x0901 (selByte 0x08 1) c ∧
      Passes [entryCheck c [(0x08, 2), (0x10, 8)] [], deviceCheck s c, bufCheck c] :=
  ⟨(cmdState 0x0901 [(0x08, [1])] id : State), 1, cmdOf 0x0901 [(0x08, [1])], ⟨rfl, rfl, rfl, rfl, rfl⟩, by decide⟩

theorem test_meets_DeviceCommandsAnswerAndReset_6 : ∃ (s : State) (id : Nat) (c : Cmd),
      Runs s id 0x0003 (selByte 0x08 0) c ∧
      Passes [resetEntry c 1, deviceCheck s c] :=
  ⟨(cmdState 0x0003 [] id : State), 1, cmdOf 0x0003 [], ⟨rfl, rfl, rfl, rfl, rfl⟩, by decide⟩

theorem test_meets_DeviceCommandsAnswerAndReset_7 : ∃ (s : State) (id : Nat) (c : Cmd),
      Runs s id 0x0003 (selByte 0x08 5) c ∧
      Passes [resetEntry c 1, deviceCheck s c] :=
  ⟨(cmdState 0x0003 [(0x08, [5])] id : State), 1, cmdOf 0x0003 [(0x08, [5])], ⟨rfl, rfl, rfl, rfl, rfl⟩, by decide⟩

theorem test_meets_DeviceCommandsAnswerAndReset_8 : ∃ (s : State) (id : Nat) (c : Cmd) (n : Fin 20) (passes : Bool),
      Runs s id 0x0003 (selByte 0x08 1) c ∧
      Passes [resetEntry c 20, deviceCheck s c] ∧
      c.p8 0x09 = n.val ∧
      s.tiles[n].state = .fenced :=
  ⟨(cmdState 0x0003 [(0x08, [1, 0])] (fun s => { s with tiles := Vector.replicate 20 { Tile.reset with state := .fenced } }) : State), 1, cmdOf 0x0003 [(0x08, [1, 0])], 0, true, ⟨rfl, rfl, rfl, rfl, rfl⟩, by decide, by decide, by decide⟩

theorem test_meets_DeviceCommandsAnswerAndReset_9 : ∃ (s : State) (id : Nat) (c : Cmd),
      Runs s id 0x0003 (selByte 0x08 2) c ∧
      Passes [resetEntry c 16, deviceCheck s c] ∧
      s.store.state = .ready ∧
      holdsPower s (.retrain (c.p8 0x09)) = false ∧
      waitsPower s (.retrain (c.p8 0x09)) = false ∧
      powerPossible s.pwr (cost retrainItems) = true ∧
      s.pwr.queue = [] ∧
      powerFits s.pwr (cost retrainItems) = true :=
  ⟨(cmdState 0x0003 [(0x08, [2])] (fun s => { s with store := { s.store with state := .ready } }) : State), 1, cmdOf 0x0003 [(0x08, [2])], ⟨rfl, rfl, rfl, rfl, rfl⟩, by decide, by decide, by decide, by decide, by decide, by decide, by decide⟩

theorem test_meets_DeviceCommandsAnswerAndReset_10 : ∃ (s : State) (id : Nat) (c : Cmd) (n : Fin 4),
      Runs s id 0x0003 (selByte 0x08 3) c ∧
      Passes [resetEntry c 4, deviceCheck s c] ∧
      c.p8 0x09 = n.val ∧
      s.link.ports[n].state ≠ .disabled ∧
      s.link.flows.any (·.port = n.val) = false :=
  ⟨(cmdState 0x0003 [(0x08, [3])] id : State), 1, cmdOf 0x0003 [(0x08, [3])], 0, ⟨rfl, rfl, rfl, rfl, rfl⟩, by decide, by decide, by decide, by decide⟩

theorem test_meets_DeviceCommandsAnswerAndReset_11 : ∃ (s : State) (id : Nat) (c : Cmd),
      Runs s id 0x0003 (selByte 0x08 4) c ∧
      Passes [resetEntry c 1, deviceCheck s c] :=
  ⟨(cmdState 0x0003 [(0x08, [4])] id : State), 1, cmdOf 0x0003 [(0x08, [4])], ⟨rfl, rfl, rfl, rfl, rfl⟩, by decide⟩

theorem test_meets_DeviceCommandsAnswerAndReset_12 : ∃ (s : State) (d : DelayedReset) (l : List DelayedReset),
      s.mbx.delayed = d :: l :=
  ⟨({ State.reset with mbx := { Mailbox.reset with delayed := [⟨5, 7⟩] } } : State), ⟨5, 7⟩, [], by decide⟩

theorem test_meets_PowerSettingsAndQueueTakeEffect_1 : ∃ (s : State) (id : Nat) (c : Cmd),
      Runs s id 0x0010 anyCmd c ∧
      Passes [entryCheck c [(0x08, 4)] [], deviceCheck s c] ∧
      s.store.state ≠ .selfRefresh :=
  ⟨(cmdState 0x0010 [] id : State), 1, cmdOf 0x0010 [], ⟨rfl, rfl, rfl, rfl, rfl⟩, by decide, by decide⟩

theorem test_meets_PowerSettingsAndQueueTakeEffect_2 : ∃ (s : State) (id : Nat) (c : Cmd),
      Runs s id 0x0011 anyCmd c ∧
      Passes [entryCheck c [(0x08, 2)] [], deviceCheck s c] ∧
      300 ≤ c.p16 0x08 ∧
      c.p16 0x08 ≤ 1850 :=
  ⟨(cmdState 0x0011 [(0x08, le 2 1500)] id : State), 1, cmdOf 0x0011 [(0x08, le 2 1500)], ⟨rfl, rfl, rfl, rfl, rfl⟩, by decide, by decide, by decide⟩

theorem test_meets_PowerSettingsAndQueueTakeEffect_3 : ∃ (s : State) (id : Nat) (c : Cmd),
      Runs s id 0x0020 anyCmd c ∧
      Passes [entryCheck c [(0x08, 1), (0x10, 8)] [], deviceCheck s c] ∧
      stepAllowed s = true ∧
      s.link.upstream = none ∧
      c.p8 0x08 ≤ 1 :=
  ⟨(cmdState 0x0020 [] id : State), 1, cmdOf 0x0020 [], ⟨rfl, rfl, rfl, rfl, rfl⟩, by decide, by decide, by decide, by decide⟩

theorem test_meets_PowerSettingsAndQueueTakeEffect_4 : ∃ (s : State) (id : Nat) (c : Cmd),
      Runs s id 0x0021 anyCmd c ∧
      Passes [entryCheck c [(0x08, 1), (0x0C, 2)] [], deviceCheck s c] ∧
      c.p8 0x08 ≤ 3 ∧
      ((c.p8 0x08 = 3 ↔ s.link.upstream.isSome = true)) ∧
      c.p16 0x0C ≤ 1000 :=
  ⟨(cmdState 0x0021 [] id : State), 1, cmdOf 0x0021 [], ⟨rfl, rfl, rfl, rfl, rfl⟩, by decide, by decide, by decide, by decide⟩

theorem test_meets_PowerSettingsAndQueueTakeEffect_5 : ∃ (s : State) (r : PowerReq) (l : List PowerReq),
      s.pwr.queue = r :: l ∧
      powerFits s.pwr (cost r.items) = true ∧
      s.boot.phase = .running ∧
      r.cmd = none :=
  ⟨(upState (fun s => { s with pwr := { s.pwr with queue := [⟨.inlet 0, [], 5, 0x0101, 0, none⟩] } }) : State), ⟨.inlet 0, [], 5, 0x0101, 0, none⟩, [], by decide, by decide, by decide, by decide⟩

theorem test_meets_PowerSettingsAndQueueTakeEffect_6 : ∃ (s : State) (r : PowerReq) (l : List PowerReq) (id : Nat) (c : Cmd),
      s.pwr.queue = r :: l ∧
      powerFits s.pwr (cost r.items) = true ∧
      s.boot.phase = .running ∧
      r.cmd = some id ∧
      findCmd (raise 0xB52 [.w r.tag.toNat, .w (cost r.items)] (grantItems r.owner r.items (popPower s))) id = some c :=
  ⟨(upState (fun s => { s with pwr := { s.pwr with queue := [⟨.inlet 0, [], 5, 0x0101, 0, some 1⟩] }, mbx := { s.mbx with cmds := [cmdOf 0x0101 []] } }) : State), ⟨.inlet 0, [], 5, 0x0101, 0, some 1⟩, [], 1, cmdOf 0x0101 [], by decide, by decide, by decide, by decide, by decide⟩

theorem test_meets_PowerSettingsAndQueueTakeEffect_7 : ∃ (s : State) (r : PowerReq) (l : List PowerReq),
      s.pwr.queue = r :: l ∧
      s.boot.phase = .running ∧
      r.cmd = none :=
  ⟨(upState (fun s => { s with pwr := { s.pwr with queue := [⟨.inlet 0, [], 5, 0x0101, 0, none⟩] } }) : State), ⟨.inlet 0, [], 5, 0x0101, 0, none⟩, [], by decide, by decide, by decide⟩

theorem test_meets_PowerSettingsAndQueueTakeEffect_8 : ∃ (s : State),
      s.boot.phase = .running :=
  ⟨(upState id : State), by decide⟩

theorem test_meets_ClockDomainsFollowTheirReferences_1 : ∃ (s : State),
      2 ≤ s.clk.refInUse ∧
      s.clk.refInUse ≤ 4 :=
  ⟨({ State.reset with clk := { Clock.reset with refInUse := 2 } } : State), by decide, by decide⟩

theorem test_meets_ClockDomainsFollowTheirReferences_2 : ∃ (s : State),
      s.clk.refInUse = 1 ∧
      s.clk.crystalLost = false :=
  ⟨(State.reset : State), by decide, by decide⟩

theorem test_meets_ClockDomainsFollowTheirReferences_3 : ∃ (s : State) (k : Fin 11),
      s.clk.synths[k].state = .locked ∧
      (k.val < 3 ∨ 7 ≤ k.val) :=
  ⟨({ State.reset with clk := { Clock.reset with synths := Vector.replicate 11 { Synth.reset with state := .locked } } } : State), 2, by decide, by decide⟩

theorem test_meets_ClockDomainsFollowTheirReferences_4 : ∃ (s : State) (n : Fin 4),
      s.clk.synths[(⟨n.val + 3, by omega⟩ : Fin 11)].state = .locked :=
  ⟨({ State.reset with clk := { Clock.reset with synths := Vector.replicate 11 { Synth.reset with state := .locked } } } : State), 1, by decide⟩

theorem test_meets_ClockDomainsFollowTheirReferences_5 : ∃ (s : State) (k : Fin 11),
      s.clk.synths[k].state = .holdover ∧
      k ≠ 1 ∧
      hasReference s k = true :=
  ⟨({ State.reset with clk := { Clock.reset with synths := Vector.replicate 11 { Synth.reset with state := .holdover } } } : State), 3, by decide, by decide, by decide⟩

theorem test_meets_ClockDomainsFollowTheirReferences_6 : ∃ (s : State),
      s.clk.synths[1].state = .holdover :=
  ⟨({ State.reset with clk := { Clock.reset with synths := Vector.replicate 11 { Synth.reset with state := .holdover } } } : State), by decide⟩

theorem test_meets_ClockDomainsFollowTheirReferences_7 : ∃ (s : State) (k : Fin 11),
      s.clk.synths[k].state = .bypass ∧
      hasReference s k = true :=
  ⟨({ State.reset with clk := { Clock.reset with synths := Vector.replicate 11 { Synth.reset with state := .bypass } } } : State), 3, by decide, by decide⟩

theorem test_meets_ClockDomainsFollowTheirReferences_8 : ∃ (s : State) (k : Fin 11),
      s.clk.synths[k].state = .locked ∧
      rootBypassed s = false ∧
      (s.clk.crystalLost = false ∨ k = 0) :=
  ⟨({ State.reset with clk := { Clock.reset with synths := Vector.replicate 11 { Synth.reset with state := .locked } } } : State), 3, by decide, by decide, by decide⟩

theorem test_meets_ClockDomainsFollowTheirReferences_9 : ∃ (s : State) (k : Fin 11),
      s.clk.synths[k].state = .acquiring ∧
      k.val ≠ 2 ∧
      ¬ (3 ≤ k.val ∧ k.val < 7) :=
  ⟨({ State.reset with clk := { Clock.reset with synths := Vector.replicate 11 { Synth.reset with state := .acquiring } } } : State), 8, by decide, by decide, by decide⟩

theorem test_meets_ClockDomainsFollowTheirReferences_10 : ∃ (s : State),
      s.clk.synths[2].state = .acquiring :=
  ⟨({ State.reset with clk := { Clock.reset with synths := Vector.replicate 11 { Synth.reset with state := .acquiring } } } : State), by decide⟩

theorem test_meets_ClockDomainsFollowTheirReferences_11 : ∃ (s : State) (n : Fin 4),
      s.clk.synths[(⟨n.val + 3, by omega⟩ : Fin 11)].state = .acquiring :=
  ⟨({ State.reset with clk := { Clock.reset with synths := Vector.replicate 11 { Synth.reset with state := .acquiring } } } : State), 1, by decide⟩

theorem test_meets_TimeSourcesAreServed_1 : ∃ (s : State) (frac : U16),
      RegsCanonical s ∧
      s.jtag.pinsTaken = false ∧
      ((∀ u, s.clk.ppsEdgeUp = some u → u + 640000000 ≤ s.clk.up)) ∧
      s.mbx.cmds.filter (fun c => c.waiting && c.opcode = 0x0020) = [] ∧
      s.clk.loop.source ≠ 1 :=
  ⟨(State.reset : State), 9, by decide, by decide, by decide, by decide, by decide⟩

theorem test_meets_TimeSourcesAreServed_2 : ∃ (s : State) (frac : U16),
      RegsCanonical s ∧
      s.jtag.pinsTaken = false ∧
      ((∀ u, s.clk.ppsEdgeUp = some u → u + 640000000 ≤ s.clk.up)) ∧
      s.mbx.cmds.filter (fun c => c.waiting && c.opcode = 0x0020) = [] ∧
      s.clk.loop.source = 1 :=
  ⟨(setLoop (fun l => { l with source := 1 }) State.reset : State), 9, by decide, by decide, by decide, by decide, by decide⟩

theorem test_meets_TimeSourcesAreServed_3 : ∃ (s : State),
      s.clk.loop.source = 1 ∧
      (s.clk.loop.state = 1 ∨ s.clk.loop.state = 2) :=
  ⟨(setLoop (fun l => { l with source := 1, state := 2 }) State.reset : State), by decide, by decide⟩

theorem test_meets_TimeSourcesAreServed_4 : ∃ (s : State),
      s.clk.loop.state = 3 :=
  ⟨(setLoop (fun l => { l with source := 1, state := 3 }) State.reset : State), by decide⟩

theorem test_meets_TimeSourcesAreServed_5 : ∃ (s : State),
      s.clk.cfg.ppsOutEn = true :=
  ⟨(setClk (fun c => { c with cfg := { c.cfg with ppsOutEn := true } }) State.reset : State), by decide⟩

theorem test_meets_TimeSourcesAreServed_6 : ∃ (s : State),
      ptmEnabled s = true ∧
      s.pcie.linkUp = true ∧
      s.pcie.d3 = false ∧
      s.pcie.ptmOpen = none ∧
      s.clk.lull < 2 :=
  ⟨({ State.reset with pcie := { Pcie.reset with linkUp := true, cfg := [(0x270, 1)] } } : State), by decide, by decide, by decide, by decide, by decide⟩

theorem test_meets_TimeSourcesAreServed_7 : ∃ (s : State) (masterNs : U64) (frac : U16),
      RegsCanonical s ∧
      s.pcie.ptmOpen.isSome = true ∧
      ptmEnabled s = true ∧
      s.clk.loop.source ≠ 2 :=
  ⟨({ State.reset with pcie := { Pcie.reset with ptmOpen := some 5, cfg := [(0x270, 1)] } } : State), 77, 9, by decide, by decide, by decide, by decide⟩

theorem test_meets_TimeSourcesAreServed_8 : ∃ (s : State),
      s.pcie.ptmValid = true ∧
      s.clk.loop.source ≠ 2 :=
  ⟨({ State.reset with pcie := { Pcie.reset with ptmValid := true } } : State), by decide, by decide⟩

theorem test_meets_LullAndLedgerFollowTime_1 : ∃ (s : State),
      s.boot.phase = .running ∧
      2 ≤ lullTarget s ∧
      s.clk.lull < 2 :=
  ⟨(upState (fun s => { s with pwr := { s.pwr with tolHost := 6000 }, pcie := { s.pcie with linkUp := false } }) : State), by decide, by decide, by decide⟩

theorem test_meets_LullAndLedgerFollowTime_2 : ∃ (s : State),
      2 ≤ s.clk.lull :=
  ⟨({ State.reset with clk := { Clock.reset with lull := 2 } } : State), by decide⟩

theorem test_meets_LullAndLedgerFollowTime_3 : ∃ (s : State),
      s.boot.phase = .running :=
  ⟨(upState id : State), by decide⟩

theorem test_meets_LullAndLedgerFollowTime_4 : ∃ (s : State),
      s.boot.phase = .running :=
  ⟨(upState id : State), by decide⟩

theorem test_meets_LullAndLedgerFollowTime_5 : ∃ (s : State) (k : Nat),
      s.boot.phase = .running ∧
      s.life.countsChanged = true ∧
      k = nextErased s 256 s.life.slot :=
  ⟨(upState (fun s => { s with life := { s.life with countsChanged := true } }) : State), 0, by decide, by decide, by rfl⟩

theorem test_meets_LullAndLedgerFollowTime_6 : ∃ (s : State) (k : Nat),
      s.boot.phase = .running ∧
      s.life.countsChanged = false ∧
      k = nextErased s 256 s.life.slot :=
  ⟨(upState id : State), 0, by decide, by decide, by rfl⟩

theorem test_meets_LullAndLedgerFollowTime_7 : ∃ (s : State),
      RegsCanonical s ∧
      s.fw.runs = true ∧
      s.clk.lull ≠ 3 :=
  ⟨(upState id : State), by decide, by decide, by decide⟩

theorem test_meets_CommandsAreFetchedAndQueuesSwitched_1 : ∃ (s : State) (q : Fin 8) (d : Data) (c : Cmd),
      mbxReady s = true ∧
      s.fw.runs = true ∧
      s.mbx.cmdqs[q].enabled = true ∧
      s.mbx.cmdqs[q].error = false ∧
      s.mbx.cmdqs[q].head ≠ s.mbx.cmdqs[q].tail ∧
      cplqRoom s s.mbx.cmdqs[q].cplq = true ∧
      s.mbx.cmds.length < 256 ∧
      c = { id := s.mbx.nextId, origin := .queue q, cplq := s.mbx.cmdqs[q].cplq, bytes := if s.mbx.cmdqs[q].remote then d else d.take 64, started := false, waiting := false, blocks := [] } :=
  ⟨(queueState [] : State), 0, zeros 64, { id := 2, origin := .queue 0, cplq := 0, bytes := zeros 64, started := false, waiting := false, blocks := [] }, by decide, by decide, by decide, by decide, by decide, by decide, by decide, by decide⟩

theorem test_meets_CommandsAreFetchedAndQueuesSwitched_2 : ∃ (s : State) (q : Fin 8),
      mbxReady s = true ∧
      s.fw.runs = true ∧
      s.mbx.cmdqs[q].enabled = true ∧
      s.mbx.cmdqs[q].error = false ∧
      s.mbx.cmdqs[q].head ≠ s.mbx.cmdqs[q].tail ∧
      cplqRoom s s.mbx.cmdqs[q].cplq = true :=
  ⟨(queueState [] : State), 0, by decide, by decide, by decide, by decide, by decide, by decide⟩

theorem test_meets_CommandsAreFetchedAndQueuesSwitched_3 : ∃ (s : State) (id : Nat) (c : Cmd),
      findCmd s id = some c ∧
      c.started = false ∧
      mayStart s c = true :=
  ⟨(queueState [{ cmdOf 0x0001 [] with started := false }] : State), 1, { cmdOf 0x0001 [] with started := false }, by decide, by decide, by decide⟩

theorem test_meets_CommandsAreFetchedAndQueuesSwitched_4 : ∃ (s : State) (q : Fin 8) (id : Nat) (c : Cmd),
      findCmd s id = some c ∧
      c.started = false ∧
      mayStart s c = true ∧
      c.origin = .queue q ∧
      s.mbx.cmdqs[q].remote = false ∧
      formCheck s c = none :=
  ⟨(queueState [{ cmdOf 0x0001 [] with started := false }] : State), 0, 1, { cmdOf 0x0001 [] with started := false }, by decide, by decide, by decide, by decide, by decide, by decide⟩

theorem test_meets_CommandsAreFetchedAndQueuesSwitched_5 : ∃ (s : State) (q : Fin 8) (ctrl : U32),
      Reaches s ∧
      mbxReady s = true ∧
      RegsCanonical s ∧
      s.mbx.cmdqs[q].enabled = false :=
  ⟨(hostState id : State), 2, 0x300, by decide, by decide, by decide, by decide⟩

theorem test_meets_CommandsAreFetchedAndQueuesSwitched_6 : ∃ (s : State) (q : Fin 8) (ctrl : U32),
      Reaches s ∧
      mbxReady s = true ∧
      RegsCanonical s ∧
      s.mbx.cmdqs[q].enabled = true :=
  ⟨(hostState fun s => { s with mbx := { s.mbx with state := .ready, cmdqs := Vector.replicate 8 { CmdQueue.reset with enabled := true } } } : State), 2, 0x300, by decide, by decide, by decide, by decide⟩

theorem test_meets_CommandsAreFetchedAndQueuesSwitched_7 : ∃ (s : State) (q : Fin 8) (ctrl : U32),
      Reaches s ∧
      mbxReady s = true ∧
      RegsCanonical s ∧
      s.mbx.cplqs[q].enabled = false :=
  ⟨(hostState id : State), 2, 0x300, by decide, by decide, by decide, by decide⟩

theorem test_meets_CommandsAreFetchedAndQueuesSwitched_8 : ∃ (s : State) (q : Fin 8) (ctrl : U32),
      Reaches s ∧
      mbxReady s = true ∧
      RegsCanonical s ∧
      s.mbx.cplqs[q].enabled = true :=
  ⟨(hostState fun s => { s with mbx := { s.mbx with state := .ready, cplqs := Vector.replicate 8 { OutQueue.reset with enabled := true } } } : State), 2, 0x300, by decide, by decide, by decide, by decide⟩

theorem test_meets_CommandsAreFetchedAndQueuesSwitched_9 : ∃ (s : State) (q : Fin 4) (ctrl : U32),
      Reaches s ∧
      mbxReady s = true ∧
      RegsCanonical s ∧
      s.mbx.evqs[q].enabled = false ∧
      s.evt.logs[q] = [] ∧
      s.evt.logLost[q] = 0 :=
  ⟨(hostState id : State), 2, 0x300, by decide, by decide, by decide, by decide, by decide, by decide⟩

theorem test_meets_CommandsAreFetchedAndQueuesSwitched_10 : ∃ (s : State) (q : Fin 4) (ctrl : U32),
      Reaches s ∧
      mbxReady s = true ∧
      RegsCanonical s ∧
      s.mbx.evqs[q].enabled = true :=
  ⟨(hostState fun s => { s with mbx := { s.mbx with state := .ready, evqs := Vector.replicate 4 { OutQueue.reset with enabled := true } } } : State), 2, 0x300, by decide, by decide, by decide, by decide⟩

theorem test_meets_DoorbellsMoveQueueIndices_1 : ∃ (s : State) (q : Fin 8) (value : U64),
      Reaches s ∧
      mbxReady s = true ∧
      s.mbx.cmdqs[q].enabled = true ∧
      value.toNat < s.mbx.cmdqs[q].size ∧
      (value.toNat + s.mbx.cmdqs[q].size - s.mbx.cmdqs[q].tail) % s.mbx.cmdqs[q].size ≤ s.mbx.cmdqs[q].size - 1 - s.mbx.cmdqs[q].waiting_ :=
  ⟨(queueState [] : State), 0, 5, by decide, by decide, by decide, by decide, by decide⟩

theorem test_meets_DoorbellsMoveQueueIndices_2 : ∃ (s : State) (q : Fin 8) (value : U64),
      Reaches s ∧
      mbxReady s = true ∧
      s.mbx.cmdqs[q].size ≤ value.toNat :=
  ⟨(queueState [] : State), 0, 9, by decide, by decide, by decide⟩

theorem test_meets_DoorbellsMoveQueueIndices_3 : ∃ (s : State) (q : Fin 8) (value : U64),
      Reaches s ∧
      mbxReady s = true ∧
      s.mbx.cplqs[q].takes value.toNat = true :=
  ⟨(queueState [] : State), 0, 2, by decide, by decide, by decide⟩

theorem test_meets_DoorbellsMoveQueueIndices_4 : ∃ (s : State) (q : Fin 8) (value : U64),
      Reaches s ∧
      mbxReady s = true ∧
      s.mbx.cplqs[q].takes (value.toNat % 2 ^ 32) = true :=
  ⟨(queueState [] : State), 0, 2, by decide, by decide, by decide⟩

theorem test_meets_DoorbellsMoveQueueIndices_5 : ∃ (s : State) (q : Fin 4) (value : U64),
      Reaches s ∧
      mbxReady s = true ∧
      s.mbx.evqs[q].takes value.toNat = true :=
  ⟨(queueState [] : State), 0, 2, by decide, by decide, by decide⟩

theorem test_meets_DoorbellsMoveQueueIndices_6 : ∃ (s : State) (n : Fin 16) (value : U64),
      Reaches s ∧
      mbxReady s = true ∧
      s.tw[n].dest = 0 ∧
      (s.tw[n].state = .open_ ∨ s.tw[n].state = .paused ∨ s.tw[n].state = .closing) ∧
      value.toNat % 64 = 0 ∧
      s.tw[n].head ≤ value.toNat ∧
      value.toNat ≤ s.tw[n].tail :=
  ⟨(hostState fun s => { s with tw := Vector.replicate 16 { Stream.reset with state := .open_, dest := 0, tail := 128 } } : State), 0, 64, by decide, by decide, by decide, by decide, by decide, by decide, by decide⟩

theorem test_meets_DoorbellsMoveQueueIndices_7 : ∃ (s : State) (n : Fin 16) (value : U64),
      Reaches s ∧
      mbxReady s = true :=
  ⟨(queueState [] : State), 0, 2, by decide, by decide⟩

theorem test_meets_RegisterWritesLand_1 : ∃ (s : State) (o : Nat) (v : U32) (same : SameClock) (i : RegInfo),
      Reaches s ∧
      o % 4 = 0 ∧
      o < 0x100000 ∧
      firmwareSlotReg o = false ∧
      regInfo o = some i :=
  ⟨(hostState id : State), 0x020, 5, .none, statReg 0 0xFFFFFFFF, by decide, by decide, by decide, by decide, by decide⟩

theorem test_meets_RegisterWritesLand_2 : ∃ (s : State) (o : Nat) (v : U32) (same : SameClock),
      Reaches s ∧
      o % 4 = 0 ∧
      o < 0x100000 ∧
      regInfo o = none :=
  ⟨(hostState id : State), 0x3000, 5, .none, by decide, by decide, by decide, by decide⟩

theorem test_meets_RegisterWritesLand_3 : ∃ (s : State) (o : Nat) (v : U32) (same : SameClock) (i : RegInfo),
      Reaches s ∧
      mbxReady s = true ∧
      o % 4 = 0 ∧
      o < 0x10000 ∧
      bar0Listed o = true ∧
      isDoorbell o = false ∧
      regInfo (bar0Key + o) = some i :=
  ⟨(hostState id : State), 0x800, 0x10000000, .none, cfgReg 0 0xF0000000, by decide, by decide, by decide, by decide, by decide, by decide, by decide⟩

theorem test_meets_RegisterWritesLand_4 : ∃ (s : State) (o : Nat) (v : U32) (en : BitVec 4) (same : SameClock),
      Reaches s ∧
      o < 0x4000000 ∧
      (o % 4 ≠ 0 ∨ en ≠ 15) :=
  ⟨(hostState id : State), 0x020, 5, 3, .none, by decide, by decide, by decide⟩

theorem test_meets_RegisterWritesLand_5 : ∃ (s : State) (o : Nat) (v : U32) (same : SameClock),
      Reaches s ∧
      mbxReady s = true ∧
      o % 4 = 0 ∧
      o < 0x10000 ∧
      bar0Listed o = true ∧
      isDoorbell o = true :=
  ⟨(hostState id : State), 0x1000, 1, .none, by decide, by decide, by decide, by decide, by decide, by decide⟩

theorem test_meets_RegisterWritesLand_6 : ∃ (s : State) (k : Nat) (n : Nat) (v : U32) (same : SameClock) (i : RegInfo) (w : RegWrite),
      Reaches s ∧
      k % 4 = 0 ∧
      k < 0x100000 ∧
      n < 32 ∧
      firmwareSlotReg k = false ∧
      regInfo k = some i ∧
      bitWrite i n (v.getLsbD 0) = some w :=
  ⟨(hostState id : State), 0x020, 3, 1, .none, statReg 0 0xFFFFFFFF, (bitWrite (statReg 0 0xFFFFFFFF) 3 true).getD ⟨0, 0, 0, 0, 0⟩, by decide, by decide, by decide, by decide, by decide, by decide, by decide⟩

theorem test_meets_RegisterWritesLand_7 : ∃ (s : State) (v : U32),
      Reaches s ∧
      RegsCanonical s ∧
      v.getLsbD 0 = true :=
  ⟨(hostState id : State), 1, by decide, by decide, by decide⟩

theorem test_meets_RegisterWritesLand_8 : ∃ (s : State) (v : U32),
      Reaches s ∧
      RegsCanonical s :=
  ⟨(hostState id : State), 0xFFFF, by decide, by decide⟩

theorem test_meets_RegisterWritesLand_9 : ∃ (s : State) (v : U32),
      Reaches s :=
  ⟨(hostState id : State), 0xFFFF, by decide⟩

theorem test_meets_RegisterWritesLand_10 : ∃ (s : State) (v : U32),
      Reaches s ∧
      RegsCanonical s :=
  ⟨(hostState id : State), 0xFFFF, by decide, by decide⟩

theorem test_meets_RegisterWritesLand_11 : ∃ (s : State) (v : U32),
      Reaches s :=
  ⟨(hostState id : State), 0xFFFF, by decide⟩

theorem test_meets_RegisterWritesLand_12 : ∃ (s : State) (v : U32),
      Reaches s ∧
      RegsCanonical s ∧
      v.getLsbD 0 = true :=
  ⟨(hostState id : State), 1, by decide, by decide, by decide⟩

theorem test_meets_RegisterWritesLand_13 : ∃ (s : State) (v : U32),
      Reaches s ∧
      RegsCanonical s ∧
      v.getLsbD 0 = false :=
  ⟨(hostState id : State), 0, by decide, by decide, by decide⟩

theorem test_meets_RegisterWritesLand_14 : ∃ (s : State) (v : U32),
      Reaches s ∧
      RegsCanonical s ∧
      v.getLsbD 0 = true ∧
      v.getLsbD 1 = true :=
  ⟨(hostState id : State), 3, by decide, by decide, by decide, by decide⟩

theorem test_meets_RegisterWritesLand_15 : ∃ (s : State) (n : Fin 2048),
      Reaches s ∧
      mbxReady s = true :=
  ⟨(hostState id : State), 5, by decide, by decide⟩

theorem test_meets_RegisterWritesLand_16 : ∃ (s : State) (v : U32),
      Reaches s ∧
      mbxReady s = true ∧
      v.getLsbD 0 = true :=
  ⟨(hostState id : State), 1, by decide, by decide, by decide⟩

theorem test_meets_RegisterWritesLand_17 : ∃ (s : State) (v : U32),
      Reaches s ∧
      mbxReady s = true ∧
      RegsCanonical s :=
  ⟨(hostState id : State), 1, by decide, by decide, by decide⟩

theorem test_meets_ControlBitsStartAndStopTheirBlocks_1 : ∃ (s : State) (v : U32),
      Reaches s ∧
      RegsCanonical s ∧
      domainCommitted s 7 = true ∧
      scnEnabled s = false ∧
      v.getLsbD 0 = true ∧
      v.getLsbD 1 = false :=
  ⟨(hostState fun s => { s with cal := { s.cal with committed := 2 ^ 18 - 1 } } : State), 1, by decide, by decide, by decide, by decide, by decide, by decide⟩

theorem test_meets_ControlBitsStartAndStopTheirBlocks_2 : ∃ (s : State) (v : U32),
      Reaches s ∧
      RegsCanonical s ∧
      domainCommitted s 7 = true ∧
      scnEnabled s = true ∧
      v.getLsbD 0 = false ∧
      v.getLsbD 1 = false :=
  ⟨((hostState fun s => { s with cal := { s.cal with committed := 2 ^ 18 - 1 } }).setReg (kScn 0) 1 : State), 0, by decide, by decide, by decide, by decide, by decide, by decide⟩

theorem test_meets_ControlBitsStartAndStopTheirBlocks_3 : ∃ (s : State) (v : U32),
      Reaches s ∧
      RegsCanonical s ∧
      domainCommitted s 7 = false :=
  ⟨(hostState id : State), 1, by decide, by decide, by decide⟩

theorem test_meets_ControlBitsStartAndStopTheirBlocks_4 : ∃ (s : State) (v : U32),
      Reaches s ∧
      RegsCanonical s ∧
      domainCommitted s 7 = true ∧
      scnEnabled s = false ∧
      v.getLsbD 0 = false ∧
      v.getLsbD 1 = true :=
  ⟨(hostState fun s => { s with cal := { s.cal with committed := 2 ^ 18 - 1 } } : State), 2, by decide, by decide, by decide, by decide, by decide, by decide⟩

theorem test_meets_ControlBitsStartAndStopTheirBlocks_5 : ∃ (s : State) (v : U32),
      Reaches s ∧
      RegsCanonical s ∧
      domainCommitted s 7 = true ∧
      scnEnabled s = true ∧
      v.getLsbD 0 = true ∧
      v.getLsbD 1 = true :=
  ⟨((hostState fun s => { s with cal := { s.cal with committed := 2 ^ 18 - 1 } }).setReg (kScn 0) 1 : State), 3, by decide, by decide, by decide, by decide, by decide, by decide⟩

theorem test_meets_ControlBitsStartAndStopTheirBlocks_6 : ∃ (s : State) (l : Fin 4) (v : U32),
      Reaches s ∧
      RegsCanonical s ∧
      v.getLsbD 0 = true :=
  ⟨(hostState id : State), 2, 1, by decide, by decide, by decide⟩

theorem test_meets_ControlBitsStartAndStopTheirBlocks_7 : ∃ (s : State) (v : U32),
      Reaches s ∧
      RegsCanonical s ∧
      domainCommitted s 7 = true ∧
      v.getLsbD 31 = true ∧
      s.scn.aux = none ∧
      s.scn.auxWaiting = false ∧
      s.scn.hpd = true ∧
      s.scn.link ≠ .training :=
  ⟨(hostState fun s => { s with cal := { s.cal with committed := 2 ^ 18 - 1 }, scn := { ScanOut.reset with hpd := true } } : State), 0x80000000, by decide, by decide, by decide, by decide, by decide, by decide, by decide, by decide⟩

theorem test_meets_ControlBitsStartAndStopTheirBlocks_8 : ∃ (s : State) (v : U32),
      Reaches s ∧
      RegsCanonical s ∧
      domainCommitted s 7 = true ∧
      v.getLsbD 31 = true ∧
      s.scn.aux = none ∧
      s.scn.auxWaiting = false ∧
      s.scn.hpd = false :=
  ⟨(hostState fun s => { s with cal := { s.cal with committed := 2 ^ 18 - 1 } } : State), 0x80000000, by decide, by decide, by decide, by decide, by decide, by decide, by decide⟩

theorem test_meets_ControlBitsStartAndStopTheirBlocks_9 : ∃ (s : State) (ch : Fin 32) (v : U32),
      Reaches s ∧
      RegsCanonical s ∧
      v.getLsbD 0 = true ∧
      s.drt.chans[ch].state = .idle ∧
      dmaHalted s = false :=
  ⟨(hostState id : State), 3, 1, by decide, by decide, by decide, by decide, by decide⟩

theorem test_meets_ControlBitsStartAndStopTheirBlocks_10 : ∃ (s : State) (ch : Fin 32) (v : U32),
      Reaches s ∧
      RegsCanonical s ∧
      v.getLsbD 0 = true ∧
      (s.drt.chans[ch].state ≠ .idle ∨ dmaHalted s = true) :=
  ⟨((hostState id).setReg kDrtGlb 0x80000000 : State), 3, 1, by decide, by decide, by decide, by decide⟩

theorem test_meets_ControlBitsStartAndStopTheirBlocks_11 : ∃ (s : State) (ch : Fin 32) (v : U32),
      Reaches s ∧
      RegsCanonical s ∧
      v.getLsbD 7 = true :=
  ⟨(hostState id : State), 3, 0x80, by decide, by decide, by decide⟩

theorem test_meets_ControlBitsStartAndStopTheirBlocks_12 : ∃ (s : State) (ch : Fin 32) (v : U32),
      Reaches s ∧
      RegsCanonical s ∧
      v.getLsbD 7 = true ∧
      s.drt.chans[ch].state = .idle :=
  ⟨(hostState id : State), 3, 0x80, by decide, by decide, by decide, by decide⟩

theorem test_meets_ControlBitsStartAndStopTheirBlocks_13 : ∃ (s : State) (v : U32),
      Reaches s ∧
      RegsCanonical s ∧
      dmaHalted s = true ∧
      v.getLsbD 31 = true :=
  ⟨((hostState id).setReg kDrtGlb 0x80000000 : State), 0x80000000, by decide, by decide, by decide, by decide⟩

theorem test_meets_ControlBitsStartAndStopTheirBlocks_14 : ∃ (s : State) (x : Fin 2) (v : U32),
      Reaches s ∧
      RegsCanonical s ∧
      s.brz.convs[x].state ≠ .cal ∧
      brzRun s x = false ∧
      v.getLsbD 0 = true :=
  ⟨(hostState fun s => { s with brz := { Breeze.reset with convs := Vector.replicate 2 { BrzConv.reset with state := .stopped } } } : State), 0, 0x21, by decide, by decide, by decide, by decide, by decide⟩

theorem test_meets_ControlBitsStartAndStopTheirBlocks_15 : ∃ (s : State) (v : U32),
      Reaches s ∧
      RegsCanonical s ∧
      s.brz.convs[0].state ≠ .cal ∧
      brzRun s 0 = true ∧
      v.getLsbD 0 = false :=
  ⟨((hostState fun s => { s with brz := { Breeze.reset with convs := Vector.replicate 2 { BrzConv.reset with state := .running } } }).setReg (kBrz 0 0) 1 : State), 0, by decide, by decide, by decide, by decide, by decide⟩

theorem test_meets_ControlBitsStartAndStopTheirBlocks_16 : ∃ (s : State) (x : Fin 2) (v : U32),
      Reaches s ∧
      RegsCanonical s ∧
      s.brz.convs[x].state = .running ∧
      brzRun s x = true ∧
      v.getLsbD 0 = true ∧
      v.getLsbD 1 = true :=
  ⟨((hostState fun s => { s with brz := { Breeze.reset with convs := Vector.replicate 2 { BrzConv.reset with state := .running } } }).setReg (kBrz 0 0) 1 : State), 0, 3, by decide, by decide, by decide, by decide, by decide, by decide⟩

theorem test_meets_ControlBitsStartAndStopTheirBlocks_17 : ∃ (s : State) (x : Fin 2) (i : Fin 32) (v : U32),
      Reaches s ∧
      RegsCanonical s ∧
      (x = 0 ∨ i.val < 28) ∧
      v.getLsbD 15 = true :=
  ⟨(hostState id : State), 1, 5, 0x8000, by decide, by decide, by decide, by decide⟩

theorem test_meets_ControlBitsStartAndStopTheirBlocks_18 : ∃ (s : State) (x : Fin 2) (i : Fin 32) (v : U32),
      Reaches s ∧
      RegsCanonical s ∧
      (x = 0 ∨ i.val < 28) ∧
      v.getLsbD 15 = false :=
  ⟨(hostState id : State), 1, 5, 0x7000, by decide, by decide, by decide, by decide⟩

theorem test_meets_ControlBitsStartAndStopTheirBlocks_19 : ∃ (s : State) (x : Fin 2) (i : Fin 32) (v : U32),
      Reaches s ∧
      RegsCanonical s ∧
      (x = 0 ∨ i.val < 28) :=
  ⟨(hostState id : State), 1, 5, 0x7000, by decide, by decide, by decide⟩

theorem test_meets_ControlBitsStartAndStopTheirBlocks_20 : ∃ (s : State) (x : Fin 2) (i : Fin 32) (r : Fin 4) (v : U32),
      Reaches s ∧
      RegsCanonical s ∧
      (x = 0 ∨ i.val < 28) ∧
      2 ≤ r.val :=
  ⟨(hostState id : State), 1, 5, 3, 0x7000, by decide, by decide, by decide, by decide⟩

theorem test_meets_ControlBitsStartAndStopTheirBlocks_21 : ∃ (s : State) (i : Fin 32) (r : Fin 4) (v : U32),
      Reaches s ∧
      RegsCanonical s ∧
      28 ≤ i.val :=
  ⟨(hostState id : State), 29, 3, 0x7000, by decide, by decide, by decide⟩

theorem test_meets_Bar4AndModerationServeTheHost_1 : ∃ (s : State) (o : Nat) (n : Nat),
      s.pcie.linkUp = true ∧
      s.pcie.d3 = false ∧
      memSpaceEnabled s = true ∧
      s.clk.lull < 2 ∧
      o + n ≤ apertureSize s ∧
      bar4Inside s (windowBase s + o) n = true ∧
      s.store.state = .ready ∧
      storeServes s = true ∧
      readPoisoned s (windowBase s + o) n = false :=
  ⟨(hostState storeReady : State), 0x40000000, 8, by decide, by decide, by decide, by decide, by decide, by decide, by decide, by decide, by decide⟩

theorem test_meets_Bar4AndModerationServeTheHost_2 : ∃ (s : State) (o : Nat) (n : Nat),
      s.pcie.linkUp = true ∧
      s.pcie.d3 = false ∧
      memSpaceEnabled s = true ∧
      s.clk.lull < 2 ∧
      o + n ≤ apertureSize s ∧
      bar4Inside s (windowBase s + o) n = true ∧
      s.store.state = .ready ∧
      storeServes s = true ∧
      readPoisoned s (windowBase s + o) n = true :=
  ⟨(hostState fun s => (fun s => { s with store := { s.store with poison := [0x2000000] } }) (storeReady s) : State), 0x40000000, 8, by decide, by decide, by decide, by decide, by decide, by decide, by decide, by decide, by decide⟩

theorem test_meets_Bar4AndModerationServeTheHost_3 : ∃ (s : State) (o : Nat) (n : Nat),
      s.pcie.linkUp = true ∧
      s.pcie.d3 = false ∧
      memSpaceEnabled s = true ∧
      s.clk.lull < 2 ∧
      o + n ≤ apertureSize s ∧
      bar4Inside s (windowBase s + o) n = false :=
  ⟨(hostState fun s => { s with pcie := { s.pcie with barSizeLog2 := 35 } } : State), 0x400000000, 8, by decide, by decide, by decide, by decide, by decide, by decide⟩

theorem test_meets_Bar4AndModerationServeTheHost_4 : ∃ (s : State) (o : Nat) (n : Nat),
      s.pcie.linkUp = true ∧
      s.pcie.d3 = false ∧
      memSpaceEnabled s = true ∧
      s.clk.lull < 2 ∧
      o + n ≤ apertureSize s ∧
      bar4Inside s (windowBase s + o) n = true ∧
      s.store.state ≠ .ready ∧
      s.store.state ≠ .selfRefresh :=
  ⟨(hostState fun s => (fun s => { s with store := { s.store with state := .limited } }) (storeReady s) : State), 0x40000000, 8, by decide, by decide, by decide, by decide, by decide, by decide, by decide, by decide⟩

theorem test_meets_Bar4AndModerationServeTheHost_5 : ∃ (s : State) (o : Nat) (n : Nat),
      s.pcie.linkUp = true ∧
      o + n ≤ apertureSize s ∧
      s.pcie.d3 = true :=
  ⟨(hostState fun s => { s with pcie := { s.pcie with d3 := true } } : State), 0x40, 8, by decide, by decide, by decide⟩

theorem test_meets_Bar4AndModerationServeTheHost_6 : ∃ (s : State) (o : Nat) (n : Nat),
      s.pcie.linkUp = true ∧
      s.pcie.d3 = false ∧
      memSpaceEnabled s = true ∧
      s.clk.lull < 2 ∧
      o + n ≤ apertureSize s ∧
      bar4Inside s (windowBase s + o) n = true ∧
      s.store.state = .selfRefresh :=
  ⟨(hostState fun s => (fun s => { s with store := { s.store with state := .selfRefresh } }) (storeReady s) : State), 0x40000000, 8, by decide, by decide, by decide, by decide, by decide, by decide, by decide⟩

theorem test_meets_Bar4AndModerationServeTheHost_7 : ∃ (s : State) (o : Nat) (d : List (Option Byte)),
      s.pcie.linkUp = true ∧
      s.pcie.d3 = false ∧
      memSpaceEnabled s = true ∧
      s.clk.lull < 2 ∧
      o + d.length ≤ apertureSize s ∧
      dmaReadable s (windowBase s + o) d.length = true ∧
      dmaWritable s (windowBase s + o) d.length = true ∧
      s.store.state = .ready ∧
      Memory.wf s.store.mem = true :=
  ⟨(hostState fun s => (fun s => { s with store := { s.store with regions := [⟨rtDma, 0, 0x1000000⟩] } }) (storeReady s) : State), 0x40, [some 1, none], by decide, by decide, by decide, by decide, by decide, by decide, by decide, by decide, by decide⟩

theorem test_meets_Bar4AndModerationServeTheHost_8 : ∃ (s : State) (o : Nat) (d : List (Option Byte)),
      s.pcie.linkUp = true ∧
      s.pcie.d3 = false ∧
      memSpaceEnabled s = true ∧
      s.clk.lull < 2 ∧
      o + d.length ≤ apertureSize s ∧
      dmaReadable s (windowBase s + o) d.length = true ∧
      dmaWritable s (windowBase s + o) d.length = true ∧
      s.store.state = .ready :=
  ⟨(hostState fun s => (fun s => { s with store := { s.store with regions := [⟨rtDma, 0, 0x1000000⟩] } }) (storeReady s) : State), 0x40, [some 1, none], by decide, by decide, by decide, by decide, by decide, by decide, by decide, by decide⟩

theorem test_meets_Bar4AndModerationServeTheHost_9 : ∃ (s : State) (o : Nat) (d : List (Option Byte)),
      s.pcie.linkUp = true ∧
      s.pcie.d3 = false ∧
      memSpaceEnabled s = true ∧
      s.clk.lull < 2 ∧
      o + d.length ≤ apertureSize s ∧
      (bar4Inside s (windowBase s + o) d.length = false ∨ bar4Writable s (windowBase s + o) d.length = false) :=
  ⟨(hostState storeReady : State), 0x40, [some 1, none], by decide, by decide, by decide, by decide, by decide, by decide⟩

theorem test_meets_Bar4AndModerationServeTheHost_10 : ∃ (s : State) (q : Fin 8),
      s.mbx.cplqs[q].enabled = true ∧
      0 < s.mbx.cplqs[q].unsignalled ∧
      0 < s.mbx.cplqs[q].modUs ∧
      0 < s.mbx.cplqs[q].modCount :=
  ⟨(hostState fun s => { s with mbx := { s.mbx with cplqs := Vector.replicate 8 { OutQueue.reset with enabled := true, unsignalled := 2, modUs := 5, modCount := 9 } } } : State), 1, by decide, by decide, by decide, by decide⟩

theorem test_meets_Bar4AndModerationServeTheHost_11 : ∃ (s : State) (q : Fin 4),
      s.mbx.evqs[q].enabled = true ∧
      0 < s.mbx.evqs[q].unsignalled ∧
      0 < s.mbx.evqs[q].modUs ∧
      0 < s.mbx.evqs[q].modCount :=
  ⟨(hostState fun s => { s with mbx := { s.mbx with evqs := Vector.replicate 4 { OutQueue.reset with enabled := true, unsignalled := 2, modUs := 5, modCount := 9 } } } : State), 1, by decide, by decide, by decide, by decide⟩

theorem test_meets_ThePortFollowsConfigurationAndPowerStates_1 : ∃ (s : State) (v : U32),
      s.pcie.linkUp = true ∧
      s.pcie.d3 = false ∧
      (busMaster s = true ∨ v.getLsbD 2 = false) :=
  ⟨(hostState id : State), 6, by decide, by decide, by decide⟩

theorem test_meets_ThePortFollowsConfigurationAndPowerStates_2 : ∃ (s : State) (v : U32),
      s.pcie.linkUp = true ∧
      busMaster s = false ∧
      v.getLsbD 2 = true :=
  ⟨(hostState fun s => { s with pcie := { s.pcie with cfg := [] } } : State), 6, by decide, by decide, by decide⟩

theorem test_meets_ThePortFollowsConfigurationAndPowerStates_3 : ∃ (s : State) (o : Nat) (v : U32),
      s.pcie.linkUp = true ∧
      (o = 0x10 ∨ o = 0x14 ∨ o = 0x18 ∨ o = 0x1C ∨ o = 0x20 ∨ o = 0x24) :=
  ⟨(hostState id : State), 0x14, 6, by decide, by decide⟩

theorem test_meets_ThePortFollowsConfigurationAndPowerStates_4 : ∃ (s : State) (o : Nat) (v : U32),
      s.pcie.linkUp = true ∧
      (o = 0x104 ∨ o = 0x110) :=
  ⟨(hostState id : State), 0x110, 6, by decide, by decide⟩

theorem test_meets_ThePortFollowsConfigurationAndPowerStates_5 : ∃ (s : State) (v : U32),
      s.pcie.linkUp = true :=
  ⟨(hostState id : State), 0x80000000, by decide⟩

theorem test_meets_ThePortFollowsConfigurationAndPowerStates_6 : ∃ (s : State) (o : Nat) (v : U32),
      s.pcie.linkUp = true ∧
      (o = 0x78 ∨ o = 0x80 ∨ o = 0x98) :=
  ⟨(hostState id : State), 0x98, 0x400, by decide, by decide⟩

theorem test_meets_ThePortFollowsConfigurationAndPowerStates_7 : ∃ (s : State) (o : Nat) (v : U32),
      s.pcie.linkUp = true ∧
      (o = 0x108 ∨ o = 0x10C ∨ o = 0x114 ∨ o = 0x254 ∨ o = 0x260 ∨ o = 0x264) :=
  ⟨(hostState id : State), 0x260, 4, by decide, by decide⟩

theorem test_meets_ThePortFollowsConfigurationAndPowerStates_8 : ∃ (s : State) (v : U32),
      s.pcie.linkUp = true :=
  ⟨(hostState id : State), 0x105, by decide⟩

theorem test_meets_ThePortFollowsConfigurationAndPowerStates_9 : ∃ (s : State) (v : U32),
      s.pcie.linkUp = true :=
  ⟨(hostState id : State), 3, by decide⟩

theorem test_meets_ThePortFollowsConfigurationAndPowerStates_10 : ∃ (s : State) (v : U32),
      s.pcie.linkUp = true ∧
      barSizeOffered s (bits v.toNat 13 8) = true ∧
      s.pcie.barSizeLog2 ≠ bits v.toNat 13 8 + 20 :=
  ⟨(hostState id : State), 0xA00, by decide, by decide, by decide⟩

theorem test_meets_ThePortFollowsConfigurationAndPowerStates_11 : ∃ (s : State) (v : U32),
      s.pcie.linkUp = true ∧
      v.getLsbD 0 = true :=
  ⟨(hostState id : State), 3, by decide, by decide⟩

theorem test_meets_ThePortFollowsConfigurationAndPowerStates_12 : ∃ (s : State) (v : U32),
      s.pcie.linkUp = true ∧
      v.getLsbD 0 = false :=
  ⟨(hostState id : State), 2, by decide, by decide⟩

theorem test_meets_ThePortFollowsConfigurationAndPowerStates_13 : ∃ (s : State) (o : Nat) (v : U32),
      s.pcie.linkUp = true ∧
      [0x04, 0x10, 0x14, 0x18, 0x1C, 0x20, 0x24, 0x3C, 0x44, 0x50, 0x78, 0x80, 0x98, 0x104, 0x108, 0x10C, 0x110, 0x114, 0x248, 0x254, 0x260, 0x264, 0x270].contains o = false :=
  ⟨(hostState id : State), 8, 6, by decide, by decide⟩

theorem test_meets_ThePortFollowsConfigurationAndPowerStates_14 : ∃ (s : State) (gen : Nat) (width : Nat),
      s.pcie.linkUp = false ∧
      s.jtag.pinsTaken = false ∧
      pcieReady s = true ∧
      1 ≤ gen ∧
      gen ≤ 5 ∧
      (width = 1 ∨ width = 2 ∨ width = 4 ∨ width = 8 ∨ width = 16) ∧
      (gen ≠ 5 ∨ width ≠ 16) :=
  ⟨({ State.reset with cal := { Calibration.reset with committed := 255 } } : State), 4, 16, by decide, by decide, by decide, by decide, by decide, by decide, by decide⟩

theorem test_meets_ThePortFollowsConfigurationAndPowerStates_15 : ∃ (s : State),
      s.pcie.linkUp = false ∧
      s.jtag.pinsTaken = false ∧
      pcieReady s = true :=
  ⟨({ State.reset with cal := { Calibration.reset with committed := 255 } } : State), by decide, by decide, by decide⟩

theorem test_meets_ThePortFollowsConfigurationAndPowerStates_16 : ∃ (s : State),
      s.pcie.linkUp = true ∧
      s.pcie.d3 = false :=
  ⟨(hostState id : State), by decide, by decide⟩

theorem test_meets_ThePortFollowsConfigurationAndPowerStates_17 : ∃ (s : State),
      s.pcie.d3 = true :=
  ⟨(hostState fun s => { s with pcie := { s.pcie with d3 := true } } : State), by decide⟩

theorem test_meets_ThePortFollowsConfigurationAndPowerStates_18 : ∃ (s : State),
      quiesceSet s = true ∧
      nvmeBusy s = false ∧
      s.pcie.quiesced = false :=
  ⟨((hostState id).setReg kHifCtrl 1 : State), by decide, by decide, by decide⟩

theorem test_meets_ThePortFollowsConfigurationAndPowerStates_19 : ∃ (s : State),
      (quiesceSet s = false ∨ nvmeBusy s = true) :=
  ⟨(hostState id : State), by decide⟩

theorem test_meets_DeviceResetsReturnToReset_3 : ∃ (s : State) (st : Straps),
      s.fw.thermtrip = false :=
  ⟨(State.reset : State), ⟨true, false, true⟩, by decide⟩

theorem test_meets_DeviceResetsReturnToReset_4 : ∃ (s : State),
      s.fw.thermtrip = false ∧
      s.boot.straps.perstScope = false ∧
      s.boot.phase ≠ .failed ∧
      s.clk.limp = false :=
  ⟨({ State.reset with boot := { Boot.reset with straps := { Boot.reset.straps with perstScope := false } } } : State), by decide, by decide, by decide, by decide⟩

theorem test_meets_DeviceResetsReturnToReset_5 : ∃ (s : State),
      s.fw.thermtrip = false ∧
      (s.boot.straps.perstScope = true ∨ s.boot.phase = .failed ∨ s.clk.limp = true) :=
  ⟨({ State.reset with boot := { Boot.reset with straps := { Boot.reset.straps with perstScope := true } } } : State), by decide, by decide⟩

theorem test_meets_DeviceResetsReturnToReset_6 : ∃ (s : State) (st : Straps),
      s.fw.thermtrip = true :=
  ⟨({ State.reset with fw := { Firmware.reset with thermtrip := true } } : State), ⟨true, false, true⟩, by decide⟩

theorem test_meets_HostInterfaceResetsAreLocal_1 : ∃ (s : State),
      s.pcie.linkUp = true :=
  ⟨(hostState id : State), by decide⟩

theorem test_meets_HostInterfaceResetsAreLocal_2 : ∃ (s : State),
      s.pcie.linkUp = true :=
  ⟨(hostState id : State), by decide⟩

theorem test_meets_HostInterfaceResetsAreLocal_3 : ∃ (s : State),
      s.pcie.linkUp = true :=
  ⟨(hostState id : State), by decide⟩

theorem test_meets_HostInterfaceResetsAreLocal_4 : ∃ (s : State),
      s.pcie.linkUp = false :=
  ⟨(State.reset : State), by decide⟩

theorem test_meets_HostInterfaceResetsAreLocal_5 : ∃ (s : State),
      s.pcie.linkUp = false :=
  ⟨(State.reset : State), by decide⟩

theorem test_meets_HostInterfaceResetsAreLocal_6 : ∃ (s : State),
      s.pcie.linkUp = false :=
  ⟨(State.reset : State), by decide⟩

theorem test_meets_WatchdogAndChecksRunOnTime_1 : ∃ (s : State),
      s.clk.lull ≠ 3 ∧
      s.fw.thermtrip = false ∧
      s.boot.phase = .running :=
  ⟨(upState id : State), by decide, by decide, by decide⟩

theorem test_meets_WatchdogAndChecksRunOnTime_2 : ∃ (s : State),
      s.clk.lull ≠ 3 ∧
      s.fw.thermtrip = false ∧
      s.boot.phase = .restarting :=
  ⟨({ State.reset with boot := { Boot.reset with phase := .restarting } } : State), by decide, by decide, by decide⟩

theorem test_meets_WatchdogAndChecksRunOnTime_3 : ∃ (s : State),
      s.boot.phase = .restarting :=
  ⟨({ State.reset with boot := { Boot.reset with phase := .restarting } } : State), by decide⟩

theorem test_meets_WatchdogAndChecksRunOnTime_4 : ∃ (s : State),
      s.clk.lull ≠ 3 ∧
      s.boot.phase ≠ .held ∧
      RegsCanonical s :=
  ⟨(State.reset : State), by decide, by decide, by decide⟩

theorem test_meets_WatchdogAndChecksRunOnTime_5 : ∃ (s : State) (x : Fin 2) (raws : List (BitVec 12)) (y : Int) (u : State),
      s.brz.convs[x].state = .running ∧
      (((x = 0 ∨ s.brz.convs[x].pos < s.brz.convs[x].len) → brzRun s x = true)) ∧
      s.brz.convs[x].pos + 1 < s.brz.convs[x].period x ∧
      (u = (if x = 0 ∨ s.brz.convs[x].pos < s.brz.convs[x].len then waitTick (s.brz.convs[x].roundTick + (s.brz.convs[x].pos + 1) * s.brz.convs[x].slotTicks - 1280) s else firmwareSlot (s.brz.convs[x].slotAt x s.brz.convs[x].pos) y (waitTick (s.brz.convs[x].roundTick + (s.brz.convs[x].pos + 1) * s.brz.convs[x].slotTicks - 1280) s))) :=
  ⟨((hostState fun s => { s with brz := { Breeze.reset with convs := Vector.replicate 2 { BrzConv.reset with state := .running, len := 4 } } }).setReg (kBrz 0 0) 0x21 : State), 0, [5, 6, 7, 8], 0, waitTick 0 ((hostState fun s => { s with brz := { Breeze.reset with convs := Vector.replicate 2 { BrzConv.reset with state := .running, len := 4 } } }).setReg (kBrz 0 0) 0x21 : State), by decide, by decide, by decide, rfl⟩

theorem test_meets_WatchdogAndChecksRunOnTime_6 : ∃ (s : State) (x : Fin 2) (raws : List (BitVec 12)) (y : Int) (u : State),
      s.brz.convs[x].state = .running ∧
      (((x = 0 ∨ s.brz.convs[x].pos < s.brz.convs[x].len) → brzRun s x = true)) ∧
      s.brz.convs[x].pos + 1 = s.brz.convs[x].period x ∧
      (u = (if x = 0 ∨ s.brz.convs[x].pos < s.brz.convs[x].len then waitTick (s.brz.convs[x].roundTick + (s.brz.convs[x].pos + 1) * s.brz.convs[x].slotTicks - 1280) s else firmwareSlot (s.brz.convs[x].slotAt x s.brz.convs[x].pos) y (waitTick (s.brz.convs[x].roundTick + (s.brz.convs[x].pos + 1) * s.brz.convs[x].slotTicks - 1280) s))) :=
  ⟨((hostState fun s => { s with brz := { Breeze.reset with convs := Vector.replicate 2 { BrzConv.reset with state := .running, len := 1 } } }).setReg (kBrz 0 0) 0x21 : State), 0, [5, 6, 7, 8], 0, waitTick 0 ((hostState fun s => { s with brz := { Breeze.reset with convs := Vector.replicate 2 { BrzConv.reset with state := .running, len := 1 } } }).setReg (kBrz 0 0) 0x21 : State), by decide, by decide, by decide, rfl⟩

theorem test_meets_WatchdogAndChecksRunOnTime_7 : ∃ (s : State) (x : Fin 2) (raws : List (BitVec 12)) (y : Int) (u : State),
      s.brz.convs[x].state = .priming ∧
      (((x = 0 ∨ s.brz.convs[x].pos < s.brz.convs[x].len) → brzRun s x = true)) ∧
      s.brz.convs[x].pos + 1 < s.brz.convs[x].period x ∧
      (u = (if x = 0 ∨ s.brz.convs[x].pos < s.brz.convs[x].len then waitTick (s.brz.convs[x].roundTick + (s.brz.convs[x].pos + 1) * s.brz.convs[x].slotTicks - 1280) s else firmwareSlot (s.brz.convs[x].slotAt x s.brz.convs[x].pos) y (waitTick (s.brz.convs[x].roundTick + (s.brz.convs[x].pos + 1) * s.brz.convs[x].slotTicks - 1280) s))) :=
  ⟨((hostState fun s => { s with brz := { Breeze.reset with convs := Vector.replicate 2 { BrzConv.reset with state := .priming, len := 4 } } }).setReg (kBrz 0 0) 0x21 : State), 0, [5, 6, 7, 8], 0, waitTick 3840 ((hostState fun s => { s with brz := { Breeze.reset with convs := Vector.replicate 2 { BrzConv.reset with state := .priming, len := 4 } } }).setReg (kBrz 0 0) 0x21 : State), by decide, by decide, by decide, rfl⟩

theorem test_meets_WatchdogAndChecksRunOnTime_8 : ∃ (s : State) (x : Fin 2) (raws : List (BitVec 12)) (y : Int),
      (s.brz.convs[x].state = .running ∨ s.brz.convs[x].state = .priming) ∧
      (x = 0 ∨ s.brz.convs[x].pos < s.brz.convs[x].len) ∧
      brzRun s x = false ∧
      s.brz.convs[x].pos + 1 < s.brz.convs[x].period x :=
  ⟨(hostState fun s => { s with brz := { Breeze.reset with convs := Vector.replicate 2 { BrzConv.reset with state := .running, len := 4 } } } : State), 1, [5], 0, by decide, by decide, by decide, by decide⟩

theorem test_meets_WatchdogAndChecksRunOnTime_9 : ∃ (s : State) (x : Fin 2) (raws : List (BitVec 12)) (y : Int),
      (s.brz.convs[x].state = .cal ∨ s.brz.convs[x].state = .stopped) :=
  ⟨(State.reset : State), 1, [5], 0, by decide⟩

theorem test_meets_BootSequenceReachesReady_1 : ∃ (s : State),
      s.boot.phase = .firmware ∧
      s.cal.next = 0 ∧
      s.cal.complete = false :=
  ⟨({ State.reset with boot := { Boot.reset with phase := .firmware } } : State), by decide, by decide, by decide⟩

theorem test_meets_BootSequenceReachesReady_2 : ∃ (s : State) (a : List (Option (BitVec 8))) (b : List (Option (BitVec 8))) (rate : Nat) (d : Nat) (rest : List Nat),
      s.boot.phase = .firmware ∧
      s.cal.complete = false ∧
      calOrder.drop s.cal.next = d :: rest :=
  ⟨({ State.reset with boot := { Boot.reset with phase := .firmware } } : State), [], [], 24, 0, [1, 6, 2, 5, 3, 4, 7], by decide, by decide, by decide⟩

theorem test_meets_BootSequenceReachesReady_3 : ∃ (s : State) (k : CryptoChecks) (w : Data) (e : List (Fin 20 × Nat × Nat)),
      s.boot.phase = .firmware ∧
      s.boot.sectionsOk = false ∧
      imageFailure s s.boot.slotB none k = none :=
  ⟨(imageState false { State.reset with boot := { Boot.reset with phase := .firmware } } : State), ⟨true, true, true, true, true⟩, [], [], by decide, by decide, image_ok _ false _ (.inl rfl) rfl rfl rfl⟩

theorem test_meets_BootSequenceReachesReady_4 : ∃ (s : State) (k : CryptoChecks) (w : Data) (e : List (Fin 20 × Nat × Nat)) (f : Nat),
      s.boot.phase = .firmware ∧
      s.boot.sectionsOk = false ∧
      imageFailure s s.boot.slotB none k = some f ∧
      s.boot.fellBack = some (0, 1) :=
  ⟨({ State.reset with boot := { Boot.reset with phase := .firmware, fellBack := some (0, 1) } } : State), ⟨true, true, true, true, true⟩, [], [], 1, by decide, by decide, by decide, by decide⟩

theorem test_meets_BootSequenceReachesReady_5 : ∃ (s : State) (k : CryptoChecks) (w : Data) (e : List (Fin 20 × Nat × Nat)) (f : Nat),
      s.boot.phase = .firmware ∧
      s.boot.sectionsOk = false ∧
      imageFailure s s.boot.slotB none k = some f ∧
      s.boot.fellBack = none ∧
      imageLayout (imageHead s (!s.boot.slotB)) none = true :=
  ⟨(imageState true { State.reset with boot := { Boot.reset with phase := .firmware } } : State), ⟨true, true, true, true, true⟩, [], [], 1, by decide, by decide, by decide, by decide, image_layout _ true rfl⟩

theorem test_meets_BootSequenceReachesReady_6 : ∃ (s : State),
      s.boot.phase = .firmware ∧
      s.boot.sectionsOk = true ∧
      s.cal.complete = true ∧
      s.clk.limp = false ∧
      s.store.state = .ready :=
  ⟨(storeReady { State.reset with boot := { Boot.reset with phase := .firmware, sectionsOk := true }, cal := { Calibration.reset with complete := true } } : State), by decide, by decide, by decide, by decide, by decide⟩

theorem test_meets_BootSequenceReachesReady_7 : ∃ (s : State),
      s.boot.phase = .running ∧
      s.mbx.state = .booting ∧
      s.pcie.linkUp = true :=
  ⟨(hostState fun s => { s with mbx := Mailbox.reset } : State), by decide, by decide, by decide⟩

theorem test_meets_BootSequenceReachesReady_8 : ∃ (s : State) (w : U16),
      s.fw.thermtrip = false :=
  ⟨(State.reset : State), 3, by decide⟩

theorem test_meets_BootSequenceReachesReady_9 : ∃ (s : State),
      s.fw.thermtrip = false ∧
      s.boot.phase ≠ .running :=
  ⟨(State.reset : State), by decide, by decide⟩

theorem test_meets_BootSequenceReachesReady_10 : ∃ (s : State),
      s.boot.phase = .running :=
  ⟨(upState id : State), by decide⟩

theorem test_meets_StoreCommandsManageRegions_1 : ∃ (s : State) (id : Nat) (c : Cmd) (base : Nat),
      Runs s id 0x0200 anyCmd c ∧
      (Passes [entryCheck c allocFields [(0x08, decide (c.p8 0x08 ≤ 6))], deviceCheck s c, needState (s.store.region (c.p8 0x08)).isNone,
        params [(0x09, decide (c.p8 0x09 ≤ 1)), (0x10, decide (c.p64 0x10 ≠ 0 ∧ c.p64 0x10 % extent = 0 ∧ (c.p8 0x08 ≠ rtHistory ∨ 256 * mib ≤ c.p64 0x10)))]]) ∧
      s.store.fit (c.p64 0x10) = some base :=
  ⟨(cmdState 0x0200 [(0x08, [5, 1]), (0x10, le 8 0x400000)] id : State), 1, cmdOf 0x0200 [(0x08, [5, 1]), (0x10, le 8 0x400000)], 0, ⟨rfl, rfl, rfl, rfl, rfl⟩, by decide, by decide⟩

theorem test_meets_StoreCommandsManageRegions_2 : ∃ (s : State) (id : Nat) (c : Cmd),
      Runs s id 0x0200 anyCmd c ∧
      (Passes [entryCheck c allocFields [(0x08, decide (c.p8 0x08 ≤ 6))], deviceCheck s c, needState (s.store.region (c.p8 0x08)).isNone,
        params [(0x09, decide (c.p8 0x09 ≤ 1)), (0x10, decide (c.p64 0x10 ≠ 0 ∧ c.p64 0x10 % extent = 0 ∧ (c.p8 0x08 ≠ rtHistory ∨ 256 * mib ≤ c.p64 0x10)))]]) ∧
      s.store.fit (c.p64 0x10) = none :=
  ⟨(cmdState 0x0200 [(0x08, [5, 1]), (0x10, le 8 0x4000000000)] id : State), 1, cmdOf 0x0200 [(0x08, [5, 1]), (0x10, le 8 0x4000000000)], ⟨rfl, rfl, rfl, rfl, rfl⟩, by decide, by decide⟩

theorem test_meets_StoreCommandsManageRegions_3 : ∃ (s : State) (id : Nat) (c : Cmd) (r : Region),
      Runs s id 0x0201 anyCmd c ∧
      Passes [entryCheck c [(0x08, 1)] [(0x08, decide (c.p8 0x08 ≤ 6))], deviceCheck s c] ∧
      s.store.region (c.p8 0x08) = some r ∧
      regionUsed s r = false :=
  ⟨(cmdState 0x0201 [(0x08, [5])] (storeReady) : State), 1, cmdOf 0x0201 [(0x08, [5])], ⟨5, 0x3A8000000, 256 * mib⟩, ⟨rfl, rfl, rfl, rfl, rfl⟩, by decide, by decide, by decide⟩

theorem test_meets_StoreCommandsManageRegions_4 : ∃ (s : State) (id : Nat) (c : Cmd),
      Runs s id 0x0201 anyCmd c ∧
      Passes [entryCheck c [(0x08, 1)] [(0x08, decide (c.p8 0x08 ≤ 6))], deviceCheck s c] ∧
      s.store.region (c.p8 0x08) = none :=
  ⟨(cmdState 0x0201 [(0x08, [5])] id : State), 1, cmdOf 0x0201 [(0x08, [5])], ⟨rfl, rfl, rfl, rfl, rfl⟩, by decide, by decide⟩

theorem test_meets_StoreCommandsManageRegions_5 : ∃ (s : State) (id : Nat) (c : Cmd),
      Runs s id 0x0202 anyCmd c ∧
      Passes [entryCheck c [(0x10, 8)] [], deviceCheck s c, params [(0x10, aligned64 (c.p64 0x10))]] :=
  ⟨(cmdState 0x0202 [] id : State), 1, cmdOf 0x0202 [], ⟨rfl, rfl, rfl, rfl, rfl⟩, by decide⟩

theorem test_meets_StoreStaysSoundAndRetrains_1 : ∃ (s : State) (ch : Fin 16) (bank : Fin 16) (hot : Bool) (due : Nat),
      refreshes s.store = true ∧
      due = max s.store.refreshBase (s.store.refreshed.at_ (bankKey ch.val bank.val)) + (if hot then 1216 else 2432) :=
  ⟨(storeReady State.reset : State), 1, 2, true, 1216, by decide, by decide⟩

theorem test_meets_StoreStaysSoundAndRetrains_2 : ∃ (s : State) (ch : Fin 16) (bank : Fin 16) (hot : Bool) (due : Nat),
      refreshes s.store = true ∧
      due = max s.store.refreshBase (s.store.refreshed.at_ (bankKey ch.val bank.val)) + (if hot then 1216 else 2432) ∧
      s.store.owed.at_ (bankKey ch.val bank.val) < 8 :=
  ⟨(storeReady State.reset : State), 1, 2, false, 2432, by decide, by decide, by decide⟩

theorem test_meets_StoreStaysSoundAndRetrains_3 : ∃ (s : State) (ch : Fin 16) (bank : Fin 16) (hot : Bool) (due : Nat),
      refreshes s.store = true ∧
      due = max s.store.refreshBase (s.store.refreshed.at_ (bankKey ch.val bank.val)) + (if hot then 1216 else 2432) ∧
      8 ≤ s.store.owed.at_ (bankKey ch.val bank.val) :=
  ⟨((fun s => { s with store := { s.store with owed := [(18, 8)] } }) (storeReady State.reset) : State), 1, 2, false, 2432, by decide, by decide, by decide⟩

theorem test_meets_StoreStaysSoundAndRetrains_4 : ∃ (s : State) (ch : Fin 16) (bank : Fin 16) (group : Nat) (acts : List (Fin 12 × Nat)) (w : State),
      s.store.state = .ready ∧
      group < rowGroups s.store.clamshell ∧
      spWf 0 s.store.rowCounts = true ∧
      w = paceActivations acts s ∧
      ((List.finRange 12).map (activationsOf s ch bank group acts)).sum < s.store.cfg.rdThreshold :=
  ⟨(storeReady State.reset : State), 1, 2, 3, [(4, 7)], (storeReady State.reset), by decide, by decide, by rfl, by rfl, by decide⟩

theorem test_meets_StoreStaysSoundAndRetrains_5 : ∃ (s : State) (ch : Fin 16) (bank : Fin 16) (group : Nat) (acts : List (Fin 12 × Nat)) (w : State) (rq : Fin 12),
      s.store.state = .ready ∧
      group < rowGroups s.store.clamshell ∧
      spWf 0 s.store.rowCounts = true ∧
      w = paceActivations acts s ∧
      s.store.cfg.rdThreshold ≤ ((List.finRange 12).map (activationsOf s ch bank group acts)).sum ∧
      ((∀ r : Fin 12, activationsOf s ch bank group acts r ≤ activationsOf s ch bank group acts rq ∧ (r < rq → activationsOf s ch bank group acts r < activationsOf s ch bank group acts rq))) :=
  ⟨((fun s => { s with store := { s.store with cfg := { s.store.cfg with rdThreshold := 5 } } }) (storeReady State.reset) : State), 1, 2, 3, [(4, 7)], ((fun s => { s with store := { s.store with cfg := { s.store.cfg with rdThreshold := 5 } } }) (storeReady State.reset) : State), 4, by decide, by decide, by rfl, by rfl, by decide, by decide⟩

theorem test_meets_StoreStaysSoundAndRetrains_7 : ∃ (s : State) (rq : Fin 12) (x : Throttle),
      s.store.throttles.find? (fun y => decide (y.requester = rq.val)) = some x :=
  ⟨({ State.reset with store := { Store.reset with throttles := [⟨4, 99, 0⟩] } } : State), 4, ⟨4, 99, 0⟩, by decide⟩

theorem test_meets_StoreStaysSoundAndRetrains_8 : ∃ (s : State) (ch : Fin 16) (ok : Bool),
      s.store.state = .ready :=
  ⟨(storeReady State.reset : State), 1, false, by decide⟩

theorem test_meets_StoreStaysSoundAndRetrains_9 : ∃ (s : State) (a : Nat) (rq : Fin 12) (first : SectorRead) (second : SectorRead) (v : State),
      v = storeAsk s ∧
      storeServes v = true ∧
      v.store.cfg.ecc = true ∧
      a / 32 * 32 < usable v.store ∧
      readPoisoned v (a / 32 * 32) 32 = false ∧
      eccDecode first.flips first.mismatch = .clean :=
  ⟨(storeReady State.reset : State), 0x12345, 3, ⟨[], false⟩, ⟨[], false⟩, (storeAsk (storeReady State.reset : State)), by rfl, by decide, by decide, by decide, by decide, by decide⟩

theorem test_meets_StoreStaysSoundAndRetrains_10 : ∃ (s : State) (a : Nat) (rq : Fin 12) (first : SectorRead) (second : SectorRead) (v : State),
      v = storeAsk s ∧
      storeServes v = true ∧
      v.store.cfg.ecc = true ∧
      a / 32 * 32 < usable v.store ∧
      readPoisoned v (a / 32 * 32) 32 = false ∧
      eccDecode first.flips first.mismatch = .corrected :=
  ⟨(storeReady State.reset : State), 0x12345, 3, ⟨[5], false⟩, ⟨[], false⟩, (storeAsk (storeReady State.reset : State)), by rfl, by decide, by decide, by decide, by decide, by decide⟩

theorem test_meets_StoreStaysSoundAndRetrains_11 : ∃ (s : State) (a : Nat) (rq : Fin 12) (first : SectorRead) (second : SectorRead) (v : State),
      v = storeAsk s ∧
      storeServes v = true ∧
      v.store.cfg.ecc = true ∧
      a / 32 * 32 < usable v.store ∧
      readPoisoned v (a / 32 * 32) 32 = false ∧
      eccDecode first.flips first.mismatch = .uncorrectable ∧
      eccDecode second.flips second.mismatch ≠ .uncorrectable :=
  ⟨(storeReady State.reset : State), 0x12345, 3, ⟨[5, 6], false⟩, ⟨[5], false⟩, (storeAsk (storeReady State.reset : State)), by rfl, by decide, by decide, by decide, by decide, by decide, by decide⟩

theorem test_meets_StoreStaysSoundAndRetrains_12 : ∃ (s : State) (a : Nat) (rq : Fin 12) (first : SectorRead) (second : SectorRead) (v : State),
      v = storeAsk s ∧
      storeServes v = true ∧
      v.store.cfg.ecc = true ∧
      a / 32 * 32 < usable v.store ∧
      readPoisoned v (a / 32 * 32) 32 = false ∧
      eccDecode first.flips first.mismatch = .uncorrectable ∧
      eccDecode second.flips second.mismatch = .uncorrectable ∧
      v.store.within rtHistory (a / 32 * 32) 32 = false :=
  ⟨(storeReady State.reset : State), 0x12345, 3, ⟨[5, 6], false⟩, ⟨[5, 7], false⟩, (storeAsk (storeReady State.reset : State)), by rfl, by decide, by decide, by decide, by decide, by decide, by decide, by decide⟩

theorem test_meets_StoreStaysSoundAndRetrains_13 : ∃ (s : State) (a : Nat) (rq : Fin 12) (first : SectorRead) (second : SectorRead) (v : State),
      v = storeAsk s ∧
      storeServes v = true ∧
      v.store.cfg.ecc = true ∧
      a / 32 * 32 < usable v.store ∧
      readPoisoned v (a / 32 * 32) 32 = true :=
  ⟨((fun s => { s with store := { s.store with poison := [0x12345 / 32] } }) (storeReady State.reset) : State), 0x12345, 3, ⟨[5, 6], false⟩, ⟨[5, 7], false⟩, (storeAsk ((fun s => { s with store := { s.store with poison := [0x12345 / 32] } }) (storeReady State.reset) : State)), by rfl, by decide, by decide, by decide, by decide⟩

theorem test_meets_StoreStaysSoundAndRetrains_14 : ∃ (s : State) (n : Nat) (k : Nat),
      s.store.state = .ready ∧
      s.store.cfg.ecc = true :=
  ⟨(storeReady State.reset : State), 5, 2, by decide, by decide⟩

theorem test_meets_StoreStaysSoundAndRetrains_15 : ∃ (s : State) (ch : Fin 16),
      s.store.state = .ready ∧
      holdsPower s (.retrain ch.val) = true ∧
      s.store.retraining = none ∧
      (List.range 16).all (fun b => decide (s.store.owed.at_ (bankKey ch.val b) ≤ 8)) = true :=
  ⟨((fun s => { s with pwr := { s.pwr with grants := [⟨.retrain 1, []⟩] } }) (storeReady State.reset) : State), 1, by decide, by decide, by decide, by decide⟩

theorem test_meets_StoreStaysSoundAndRetrains_16 : ∃ (s : State) (ch : Fin 16),
      s.store.state = .ready ∧
      holdsPower s (.retrain ch.val) = false :=
  ⟨(storeReady State.reset : State), 1, by decide, by decide⟩

theorem test_meets_StoreStaysSoundAndRetrains_17 : ∃ (s : State) (ch : Fin 16),
      s.store.retraining = some ch.val :=
  ⟨((fun s => { s with store := { s.store with retraining := some 1 } }) (storeReady State.reset) : State), 1, by decide⟩

theorem test_meets_StoreStaysSoundAndRetrains_18 : ∃ (s : State),
      storeIdle s = true ∧
      storeIdle (waitUp (s.store.idleSince.getD s.clk.up + s.store.cfg.idleDelay * 1280) s) = true :=
  ⟨((fun s => { s with pwr := { s.pwr with tolHost := 50 } }) (storeReady State.reset) : State), by decide, by decide⟩

theorem test_meets_StoreStaysSoundAndRetrains_19 : ∃ (s : State),
      s.store.state = .selfRefresh ∧
      s.store.srExiting = false :=
  ⟨({ State.reset with store := { Store.reset with state := .selfRefresh } } : State), by decide, by decide⟩

theorem test_meets_StoreStaysSoundAndRetrains_20 : ∃ (s : State),
      storeIdle s = true :=
  ⟨((fun s => { s with pwr := { s.pwr with tolHost := 50 } }) (storeReady State.reset) : State), by decide⟩

theorem test_meets_StoreStaysSoundAndRetrains_21 : ∃ (s : State),
      s.store.state = .selfRefresh ∧
      s.store.srExiting = true :=
  ⟨({ State.reset with store := { Store.reset with state := .selfRefresh, srExiting := true } } : State), by decide, by decide⟩

theorem test_meets_StoreStaysSoundAndRetrains_22 : ∃ (s : State) (a : Nat),
      s.store.within rtFirmware (a / 32 * 32) 32 = true ∧
      spanPoisoned s.store (a / 32 * 32) 32 = true :=
  ⟨((fun s => { s with store := { s.store with poison := [3] } }) (storeReady State.reset) : State), 0x64, by decide, by decide⟩

theorem test_meets_StoreStaysSoundAndRetrains_23 : ∃ (s : State) (a : Nat),
      s.store.within rtFirmware (a / 32 * 32) 32 = true ∧
      spanPoisoned s.store (a / 32 * 32) 32 = true :=
  ⟨((fun s => { s with store := { s.store with poison := [3] } }) (storeReady State.reset) : State), 0x64, by decide, by decide⟩

theorem test_meets_InletsStartAndStop_1 : ∃ (s : State) (id : Nat) (c : Cmd) (n : Fin 4),
      Runs s id 0x0100 anyCmd c ∧
      Passes [entryCheck c [(0x08, 15), (0x18, 11)] [], deviceCheck s c, needState (s.inlets[n].state = .stopped), params ((0x09, true) :: page0Checks c.bytes)] ∧
      c.p8 0x08 = n.val ∧
      c.p8 0x09 = 0 :=
  ⟨(cmdState 0x0100 [(0x08, [1, 0]), (0x0A, [1, 1, 1, 8, 4, 0, 16, 16, 1, 0, 0, 1, 1]), (0x18, le 4 25), (0x1C, le 4 1)] id : State), 1, cmdOf 0x0100 [(0x08, [1, 0]), (0x0A, [1, 1, 1, 8, 4, 0, 16, 16, 1, 0, 0, 1, 1]), (0x18, le 4 25), (0x1C, le 4 1)], 1, ⟨rfl, rfl, rfl, rfl, rfl⟩, by decide, by decide, by decide⟩

theorem test_meets_InletsStartAndStop_2 : ∃ (s : State) (id : Nat) (c : Cmd) (n : Fin 4),
      Runs s id 0x0100 anyCmd c ∧
      Passes [entryCheck c [(0x08, 2), (0x0C, 0x24)] [], deviceCheck s c, needState (s.inlets[n].state = .stopped), params ((0x09, true) :: page1Checks c.bytes)] ∧
      c.p8 0x08 = n.val ∧
      c.p8 0x09 = 1 :=
  ⟨(cmdState 0x0100 [(0x08, [1, 1]), (0x10, [0, 1, 2, 3, 4, 5, 6, 7]), (0x18, List.replicate 24 0xFF)] id : State), 1, cmdOf 0x0100 [(0x08, [1, 1]), (0x10, [0, 1, 2, 3, 4, 5, 6, 7]), (0x18, List.replicate 24 0xFF)], 1, ⟨rfl, rfl, rfl, rfl, rfl⟩, by decide, by decide, by decide⟩

theorem test_meets_InletsStartAndStop_3 : ∃ (s : State) (id : Nat) (c : Cmd) (n : Fin 4),
      Runs s id 0x0100 anyCmd c ∧
      Passes [entryCheck c [(0x08, 0x14)] [], deviceCheck s c, needState (s.inlets[n].state = .stopped), params ((0x09, true) :: page2Checks c.bytes)] ∧
      c.p8 0x08 = n.val ∧
      c.p8 0x09 = 2 :=
  ⟨(cmdState 0x0100 [(0x08, [1, 2]), (0x0E, [1])] id : State), 1, cmdOf 0x0100 [(0x08, [1, 2]), (0x0E, [1])], 1, ⟨rfl, rfl, rfl, rfl, rfl⟩, by decide, by decide, by decide⟩

theorem test_meets_InletsStartAndStop_4 : ∃ (s : State) (id : Nat) (c : Cmd) (n : Fin 4),
      Runs s id 0x0101 anyCmd c ∧
      Passes [entryCheck c [(0x08, 1)] [], deviceCheck s c, needState (s.inlets[n].state = .stopped && !waitsPower s (.inlet n.val)), pagesWritten s.inlets[n], pagesAgree s.inlets[n],
        need (s.store.region rtHistory).isSome stNoResource 0, need (historyFits s s.inlets[n]) stNoResource 0] ∧
      c.p8 0x08 = n.val ∧
      Admits s (.inlet n.val) [(lcHistory, s.inlets[n].historyKbs)] ∧
      GrantsAtOnce s (cost s.inlets[n].powerItems) :=
  ⟨(cmdState 0x0101 [(0x08, [1])] (inletState id) : State), 1, cmdOf 0x0101 [(0x08, [1])], 1, ⟨rfl, rfl, rfl, rfl, rfl⟩, by decide, by decide, by decide, by decide⟩

theorem test_meets_InletsStartAndStop_5 : ∃ (s : State) (id : Nat) (c : Cmd) (n : Fin 4),
      Runs s id 0x0101 anyCmd c ∧
      Passes [entryCheck c [(0x08, 1)] [], deviceCheck s c, needState (s.inlets[n].state = .stopped && !waitsPower s (.inlet n.val)), pagesWritten s.inlets[n], pagesAgree s.inlets[n],
        need (s.store.region rtHistory).isSome stNoResource 0, need (historyFits s s.inlets[n]) stNoResource 0] ∧
      c.p8 0x08 = n.val ∧
      Admits s (.inlet n.val) [(lcHistory, s.inlets[n].historyKbs)] ∧
      QueuesForPower s c (cost s.inlets[n].powerItems) :=
  ⟨(cmdState 0x0101 [(0x08, [1])] (fun s => { inletState id s with pwr := { s.pwr with queue := [⟨.inlet 3, [], 0, 0, 0, none⟩] } }) : State), 1, cmdOf 0x0101 [(0x08, [1])], 1, ⟨rfl, rfl, rfl, rfl, rfl⟩, by decide, by decide, by decide, by decide⟩

theorem test_meets_InletsStartAndStop_6 : ∃ (s : State) (id : Nat) (c : Cmd) (n : Fin 4),
      Runs s id 0x0101 anyCmd c ∧
      Passes [entryCheck c [(0x08, 1)] [], deviceCheck s c, needState (s.inlets[n].state = .stopped && !waitsPower s (.inlet n.val))] ∧
      c.p8 0x08 = n.val ∧
      s.inlets[n].page0 = none :=
  ⟨(cmdState 0x0101 [(0x08, [1])] id : State), 1, cmdOf 0x0101 [(0x08, [1])], 1, ⟨rfl, rfl, rfl, rfl, rfl⟩, by decide, by decide, by decide⟩

theorem test_meets_InletsStartAndStop_7 : ∃ (s : State) (n : Fin 4) (lane : Fin 32),
      s.inlets[n].state = .starting ∧
      2 ≤ s.inlets[n].step :=
  ⟨(inletState (fun i => { i with state := .starting, step := 3 }) State.reset : State), 1, 2, by decide, by decide⟩

theorem test_meets_InletsStartAndStop_8 : ∃ (s : State) (id : Nat) (c : Cmd) (n : Fin 4),
      Runs s id 0x0103 anyCmd c ∧
      Passes [entryCheck c [(0x08, 1), (0x10, 8)] [], deviceCheck s c, params [(0x10, aligned64 (c.p64 0x10))]] ∧
      c.p8 0x08 = n.val :=
  ⟨(cmdState 0x0103 [(0x08, [1])] id : State), 1, cmdOf 0x0103 [(0x08, [1])], 1, ⟨rfl, rfl, rfl, rfl, rfl⟩, by decide, by decide⟩

theorem test_meets_InletsStartAndStop_9 : ∃ (s : State) (id : Nat) (c : Cmd) (n : Fin 4),
      Runs s id 0x0102 anyCmd c ∧
      Passes [entryCheck c [(0x08, 2), (0x10, 8)] [], deviceCheck s c, needState (s.inlets[n].state ≠ .stopped && s.inlets[n].stop.isNone), params [(0x09, decide (c.p8 0x09 ≤ 1))]] ∧
      c.p8 0x08 = n.val ∧
      s.inlets[n].state = .starting ∧
      s.inlets[n].startCmd = none :=
  ⟨(cmdState 0x0102 [(0x08, [1])] (inletState (fun i => { i with state := .starting })) : State), 1, cmdOf 0x0102 [(0x08, [1])], 1, ⟨rfl, rfl, rfl, rfl, rfl⟩, by decide, by decide, by decide, by decide⟩

theorem test_meets_InletsStartAndStop_10 : ∃ (s : State) (id : Nat) (c : Cmd) (n : Fin 4) (k : Nat) (a : Cmd),
      Runs s id 0x0102 anyCmd c ∧
      Passes [entryCheck c [(0x08, 2), (0x10, 8)] [], deviceCheck s c, needState (s.inlets[n].state ≠ .stopped && s.inlets[n].stop.isNone), params [(0x09, decide (c.p8 0x09 ≤ 1))]] ∧
      c.p8 0x08 = n.val ∧
      s.inlets[n].state = .starting ∧
      s.inlets[n].startCmd = some k ∧
      findCmd (dropStart n s) k = some a :=
  ⟨(cmdState 0x0102 [(0x08, [1])] (inletState (fun i => { i with state := .starting, startCmd := some 1 })) : State), 1, cmdOf 0x0102 [(0x08, [1])], 1, 1, (cmdOf 0x0102 [(0x08, [1])] : Cmd), ⟨rfl, rfl, rfl, rfl, rfl⟩, by decide, by decide, by decide, by decide, rfl⟩

theorem test_meets_InletsStartAndStop_11 : ∃ (s : State) (id : Nat) (c : Cmd) (n : Fin 4),
      Runs s id 0x0102 anyCmd c ∧
      Passes [entryCheck c [(0x08, 2), (0x10, 8)] [], deviceCheck s c, needState (s.inlets[n].state ≠ .stopped && s.inlets[n].stop.isNone), params [(0x09, decide (c.p8 0x09 ≤ 1))]] ∧
      c.p8 0x08 = n.val ∧
      s.inlets[n].state ≠ .starting ∧
      c.p8 0x09 = 0 ∧
      inletUsed s n = false :=
  ⟨(cmdState 0x0102 [(0x08, [1])] (inletState (fun i => { i with state := .running })) : State), 1, cmdOf 0x0102 [(0x08, [1])], 1, ⟨rfl, rfl, rfl, rfl, rfl⟩, by decide, by decide, by decide, by decide, by decide⟩

theorem test_meets_InletsStartAndStop_12 : ∃ (s : State) (id : Nat) (c : Cmd) (n : Fin 4),
      Runs s id 0x0102 anyCmd c ∧
      Passes [entryCheck c [(0x08, 2), (0x10, 8)] [], deviceCheck s c, needState (s.inlets[n].state ≠ .stopped && s.inlets[n].stop.isNone), params [(0x09, decide (c.p8 0x09 ≤ 1))]] ∧
      c.p8 0x08 = n.val ∧
      s.inlets[n].state ≠ .starting ∧
      c.p8 0x09 = 1 :=
  ⟨(cmdState 0x0102 [(0x08, [1, 1])] (inletState (fun i => { i with state := .running })) : State), 1, cmdOf 0x0102 [(0x08, [1, 1])], 1, ⟨rfl, rfl, rfl, rfl, rfl⟩, by decide, by decide, by decide, by decide⟩

theorem test_meets_InletsStartAndStop_13 : ∃ (s : State) (n : Fin 4) (p : PendingStop),
      s.inlets[n].stop = some p ∧
      releasesBefore s.inlets[n] p.tick = false :=
  ⟨(inletState (fun i => { i with state := .running, nextNum := 1000, stop := some ⟨1, 77, false⟩ }) State.reset : State), 1, ⟨1, 77, false⟩, by decide, by decide⟩

theorem test_meets_InletsStartAndStop_14 : ∃ (s : State) (n : Fin 4) (p : PendingStop),
      s.inlets[n].stop = some p ∧
      releasesBefore s.inlets[n] p.tick = true :=
  ⟨(inletState (fun i => { i with state := .running, stop := some ⟨1, 77, false⟩ }) State.reset : State), 1, ⟨1, 77, false⟩, by decide, by decide⟩

theorem test_meets_SamplesReachHistory_1 : ∃ (s : State) (n : Fin 4) (half : Bool),
      s.inlets[n].state = .starting ∧
      s.inlets[n].step = 5 ∧
      s.inlets[n].qualified = 0 :=
  ⟨(inletState (fun i => { i with state := .starting, step := 5 }) State.reset : State), 1, true, by decide, by decide, by decide⟩

theorem test_meets_SamplesReachHistory_2 : ∃ (s : State) (n : Fin 4) (half : Bool),
      s.inlets[n].state = .running ∧
      (s.inlets[n].phaseOf (s.clk.tick * 65536 + (if half then 32768 else 0))).natAbs ≤ s.inlets[n].sysrefWindow * 65536 * s.inlets[n].fsNum :=
  ⟨(inletState (fun i => { i with state := .running }) State.reset : State), 1, false, by decide, by decide⟩

theorem test_meets_SamplesReachHistory_3 : ∃ (s : State) (n : Fin 4) (half : Bool),
      s.inlets[n].state = .running ∧
      s.inlets[n].sysrefWindow * 65536 * s.inlets[n].fsNum < (s.inlets[n].phaseOf (s.clk.tick * 65536 + (if half then 32768 else 0))).natAbs :=
  ⟨(inletState (fun i => { i with state := .running, edge := 6553600 }) State.reset : State), 1, true, by decide, by decide⟩

theorem test_meets_SamplesReachHistory_4 : ∃ (s : State) (n : Fin 4) (d : List (List U16)) (u : State),
      s.inlets[n].state = .running ∧
      s.inlets[n].stop = none ∧
      s.inlets[n].periodSamples ≠ 0 ∧
      d.length = s.inlets[n].periodSamples ∧
      u = squallDue (waitTick s.inlets[n].releaseDue s) :=
  ⟨(inletState (fun i => { i with state := .running }) State.reset : State), 1, List.replicate 256 [1, 2, 3, 4], squallDue (waitTick (inletState (fun i => { i with state := .running }) State.reset : State).inlets[1].releaseDue (inletState (fun i => { i with state := .running }) State.reset : State)), by decide, by decide, by decide, List.length_replicate.trans (by decide), rfl⟩

theorem test_meets_SamplesReachHistory_5 : ∃ (s : State) (n : Fin 4) (d : List (List U16)),
      s.inlets[n].state = .running ∧
      s.inlets[n].stop = none ∧
      s.inlets[n].periodSamples ≠ 0 ∧
      d.length = s.inlets[n].periodSamples ∧
      d.length ≤ elasticRoom s.inlets[n] ∧
      s.inlets[n].realignHole = none ∧
      s.inlets[n].unlocked = false ∧
      s.clk.uncertain = false ∧
      s.clk.synths[3 + n.val].state ≠ .holdover ∧
      s.squall.units.toList.all (fun u => u.cfg.kind = 0) = true ∧
      s.squall.pendingEdges = [] ∧
      s.squall.pendingDisarms.all (·.cmd.isSome) = true :=
  ⟨(inletState (fun i => { i with state := .running }) State.reset : State), 1, List.replicate 256 [1, 2, 3, 4], by decide, by decide, by decide, List.length_replicate.trans (by decide), (le_of_eq List.length_replicate).trans (by decide), by decide, by decide, by decide, by decide, by decide, by decide, by decide⟩

theorem test_meets_SamplesReachHistory_6 : ∃ (s : State) (n : Fin 4) (k : Nat) (v : State),
      v = (if min k s.inlets[n].elastic.length = 0 then s else storeAsk s) ∧
      storeServes v = true :=
  ⟨(inletState (fun i => { i with state := .running }) State.reset : State), 1, 3, (inletState (fun i => { i with state := .running }) State.reset : State), rfl, by decide⟩

theorem test_meets_SamplesReachHistory_7 : ∃ (s : State) (n : Fin 4) (k : Nat) (v : State),
      v = (if min k s.inlets[n].elastic.length = 0 then s else storeAsk s) ∧
      storeServes v = false :=
  ⟨(State.reset : State), 1, 3, State.reset, rfl, by decide⟩

theorem test_meets_SamplesReachHistory_8 : ∃ (s : State) (n : Fin 4) (k : Fin 32) (e : LaneErrorKind) (o : Nat) (g : Nat),
      s.inlets[n].state ≠ .stopped ∧
      s.inlets[n].state ≠ .starting ∧
      k.val < s.inlets[n].lanesUsed ∧
      kindOf204C e = s.inlets[n].is204C ∧
      octetCurrent s.inlets[n] e o = true ∧
      g = o / granule s.inlets[n] e * granule s.inlets[n] e :=
  ⟨(inletState (fun i => { i with state := .running, nextNum := 1000 }) State.reset : State), 1, 2, .crc12, 300, 256, by decide, by decide, by decide, by decide, by decide, by decide⟩

theorem test_meets_SamplesReachHistory_9 : ∃ (s : State) (n : Fin 4) (k : Fin 32) (e : LaneErrorKind) (o : Nat),
      s.inlets[n].state ≠ .stopped ∧
      k.val < s.inlets[n].lanesUsed ∧
      kindOf204C e = s.inlets[n].is204C ∧
      (s.inlets[n].state = .starting ∨ octetCurrent s.inlets[n] e o = false) :=
  ⟨(inletState (fun i => { i with state := .starting }) State.reset : State), 1, 2, .crc12, 5, by decide, by decide, by decide, by decide⟩

theorem test_meets_SamplesReachHistory_10 : ∃ (s : State) (n : Fin 4) (k : Fin 32) (o : Nat),
      s.inlets[n].state = .running ∧
      k.val < s.inlets[n].lanesUsed ∧
      s.inlets[n].lanes[k].locked = true ∧
      s.inlets[n].realigns = true :=
  ⟨(inletState (fun i => { i with state := .running, lanes := Vector.replicate 32 { Lane.reset with locked := true }, page2 := some (block 64 [(0x09, [2]), (0x0E, [1]), (0x19, [1])]) }) State.reset : State), 1, 2, 0, by decide, by decide, by decide, by decide⟩

theorem test_meets_SamplesReachHistory_11 : ∃ (s : State) (n : Fin 4) (k : Fin 32) (o : Nat),
      s.inlets[n].state = .running ∧
      k.val < s.inlets[n].lanesUsed ∧
      s.inlets[n].lanes[k].locked = true ∧
      s.inlets[n].realigns = false :=
  ⟨(inletState (fun i => { i with state := .running, lanes := Vector.replicate 32 { Lane.reset with locked := true } }) State.reset : State), 1, 2, 0, by decide, by decide, by decide, by decide⟩

theorem test_meets_SamplesReachHistory_12 : ∃ (s : State) (n : Fin 4) (k : Fin 32) (at_ : Nat),
      s.inlets[n].state = .realigning ∧
      k.val < s.inlets[n].lanesUsed ∧
      s.inlets[n].lanes[k].locked = false ∧
      s.jtag.pinsTaken = false ∧
      at_ ≤ (s.inlets[n].release + max 1 s.inlets[n].periodOctets - 8) % max 1 s.inlets[n].periodOctets :=
  ⟨(inletState (fun i => { i with state := .realigning, release := 100 }) State.reset : State), 1, 2, 5, by decide, by decide, by decide, by decide, by decide⟩

theorem test_meets_SamplesReachHistory_13 : ∃ (s : State) (n : Fin 4) (k : Fin 32) (at_ : Nat),
      s.inlets[n].state = .realigning ∧
      k.val < s.inlets[n].lanesUsed ∧
      s.inlets[n].lanes[k].locked = false ∧
      s.jtag.pinsTaken = false ∧
      (s.inlets[n].release + max 1 s.inlets[n].periodOctets - 8) % max 1 s.inlets[n].periodOctets < at_ :=
  ⟨(inletState (fun i => { i with state := .realigning, release := 100 }) State.reset : State), 1, 2, 500, by decide, by decide, by decide, by decide, by decide⟩

theorem test_meets_SamplesReachHistory_15 : ∃ (s : State) (n : Fin 4) (k : Fin 32),
      s.inlets[n].state = .starting ∧
      k.val < s.inlets[n].lanesUsed ∧
      s.jtag.pinsTaken = false ∧
      s.inlets[n].step = 4 :=
  ⟨(inletState (fun i => { i with state := .starting, step := 4 }) State.reset : State), 1, 2, by decide, by decide, by decide, by decide⟩

theorem test_meets_SamplesReachHistory_16 : ∃ (s : State) (n : Fin 4) (k : Fin 32),
      s.inlets[n].state = .starting ∧
      k.val < s.inlets[n].lanesUsed ∧
      s.jtag.pinsTaken = false ∧
      s.inlets[n].step = 3 :=
  ⟨(inletState (fun i => { i with state := .starting, step := 3 }) State.reset : State), 1, 2, by decide, by decide, by decide, by decide⟩

theorem test_meets_SamplesReachHistory_17 : ∃ (s : State) (n : Fin 4) (r : IlasResult),
      s.inlets[n].state = .starting ∧
      s.inlets[n].step = 6 ∧
      (s.inlets[n].is204C = true ∨ r.parametersMatch = true) ∧
      (releaseWindow s.inlets[n] r.arrivals).2.2 = true :=
  ⟨(inletState (fun i => { i with state := .starting, step := 6 }) State.reset : State), 1, ⟨true, 0, [9, 9, 9, 9, 9, 9, 9, 9]⟩, by decide, by decide, by decide, by decide⟩

theorem test_meets_SamplesReachHistory_18 : ∃ (s : State) (n : Fin 4) (r : IlasResult),
      s.inlets[n].state = .starting ∧
      s.inlets[n].step = 6 ∧
      s.inlets[n].is204C = false ∧
      r.parametersMatch = false :=
  ⟨(inletState (fun i => { i with state := .starting, step := 6, page0 := some (putAt goodPage0 0x0A [0]) }) State.reset : State), 1, ⟨false, 3, [9, 9, 9, 9, 9, 9, 9, 9]⟩, by decide, by decide, by decide, by decide⟩

theorem test_meets_SamplesReachHistory_19 : ∃ (s : State) (n : Fin 4) (r : IlasResult),
      s.inlets[n].state = .starting ∧
      s.inlets[n].step = 6 ∧
      (s.inlets[n].is204C = true ∨ r.parametersMatch = true) ∧
      (releaseWindow s.inlets[n] r.arrivals).2.2 = false :=
  ⟨(inletState (fun i => { i with state := .starting, step := 6 }) State.reset : State), 1, ⟨true, 0, [9, 709, 9, 9, 9, 9, 9, 9]⟩, by decide, by decide, by decide, by decide⟩

theorem test_meets_TasksAndCorrelatorsAreAdmitted_1 : ∃ (s : State) (id : Nat) (c : Cmd) (n : Fin 4) (raw : Data) (table : HostRead) (l : List (Nat × Share)),
      Runs s id 0x0300 anyCmd c ∧
      Passes [entryCheck c [(0x08, 4), (0x10, 8)] [], deviceCheck s c, params [(0x08, decide (c.p32 0x08 = 256)), (0x10, aligned64 (c.p64 0x10))]] ∧
      Passes [descParams [(0x00, decide (u16At raw 0 = 1)), (0x02, decide (u8At raw 2 ≤ 1)), (0x03, channelNamed s (u8At raw 3))], descParams (taskFields (taskDescOf raw []) s.inlets[n].complex false s.clk.tick)] ∧
      inletOfChannel (u8At raw 3) = some n ∧
      s.inlets[n].state = .running ∧
      u8At raw 7 ≠ 6 ∧
      s.tasks.length < 64 ∧
      spectraRoom s (taskDescOf raw []) = true ∧
      Admits (takeTaskId s).2 (.task (newTask s (taskDescOf raw []) s.inlets[n]).id) [(lcTileRead, (newTask s (taskDescOf raw []) s.inlets[n]).reserveKbs)] ∧
      placeShares (newTask s (taskDescOf raw []) s.inlets[n]) (2 ^ 20 - 1) 0 0 (withNewTask s (taskDescOf raw []) s.inlets[n]) = some l ∧
      GrantsAtOnce (addShares l (withNewTask s (taskDescOf raw []) s.inlets[n])) (cost ((pcTask, 10 * (gatedAmong (withNewTask s (taskDescOf raw []) s.inlets[n]) (l.map Prod.fst).dedup).length) :: (newTask s (taskDescOf raw []) s.inlets[n]).powerItems pcTask)) :=
  ⟨(cmdState 0x0300 [(0x08, le 4 256)] (runningInlets) : State), 1, cmdOf 0x0300 [(0x08, le 4 256)], 1, taskRaw, none, (placeShares (newTask (cmdState 0x0300 [(0x08, le 4 256)] runningInlets) (taskDescOf taskRaw []) runInlet) (2 ^ 20 - 1) 0 0 (withNewTask (cmdState 0x0300 [(0x08, le 4 256)] runningInlets) (taskDescOf taskRaw []) runInlet)).getD [], ⟨rfl, rfl, rfl, rfl, rfl⟩, by decide, by decide, by decide, by decide, by decide, by decide, by decide, by decide, rfl, by decide⟩

theorem test_meets_TasksAndCorrelatorsAreAdmitted_2 : ∃ (s : State) (id : Nat) (c : Cmd) (t : Task) (new : Data) (table : HostRead),
      Runs s id 0x0301 anyCmd c ∧
      Passes [entryCheck c [(0x08, 0x18)] [], deviceCheck s c, needState (t.migration.isNone && t.modify.isNone && t.destroy.isNone && t.stopIndex.isNone || (t.kind = .retro && t.modify.isNone && t.destroy.isNone)),
        params [(0x0C, decide (c.p32 0x0C &&& 0x83FF = c.p32 0x0C)), (0x18, c.p32 0x0C &&& 0x3FF = 0 || aligned64 (c.p64 0x18))]] ∧
      namedTask s (c.p32 0x08) = some t ∧
      c.p32 0x0C &&& 0x3FF ≠ 0 ∧
      bit (c.p32 0x0C) 0 = false ∧
      t.placedPeer = none ∧
      Passes [descParams (taskFields (taskDescOf (mergeDesc (c.p32 0x0C) t.desc.raw new) t.desc.table) t.complex true s.clk.tick)] :=
  ⟨(cmdState 0x0301 [(0x08, le 4 1), (0x0C, le 4 0x10)] (taskState id) : State), 1, cmdOf 0x0301 [(0x08, le 4 1), (0x0C, le 4 0x10)], taskOne, taskRaw, none, ⟨rfl, rfl, rfl, rfl, rfl⟩, by decide, rfl, by decide, by decide, by decide, by decide⟩

theorem test_meets_TasksAndCorrelatorsAreAdmitted_3 : ∃ (s : State) (id : Nat) (c : Cmd) (t : Task) (new : Data) (table : HostRead),
      Runs s id 0x0301 anyCmd c ∧
      Passes [entryCheck c [(0x08, 0x18)] [], deviceCheck s c, needState (t.migration.isNone && t.modify.isNone && t.destroy.isNone && t.stopIndex.isNone || (t.kind = .retro && t.modify.isNone && t.destroy.isNone)),
        params [(0x0C, decide (c.p32 0x0C &&& 0x83FF = c.p32 0x0C)), (0x18, c.p32 0x0C &&& 0x3FF = 0 || aligned64 (c.p64 0x18))]] ∧
      namedTask s (c.p32 0x08) = some t ∧
      bit (c.p32 0x0C) 0 = true ∧
      t.placedPeer = none ∧
      Passes [descParams (taskFields (taskDescOf (mergeDesc (c.p32 0x0C) t.desc.raw new) t.desc.table) t.complex true s.clk.tick)] ∧
      u8At (mergeDesc (c.p32 0x0C) t.desc.raw new) 7 ≠ 6 ∧
      stageable s t = true :=
  ⟨(cmdState 0x0301 [(0x08, le 4 1), (0x0C, le 4 1)] (taskState id) : State), 1, cmdOf 0x0301 [(0x08, le 4 1), (0x0C, le 4 1)], taskOne, taskRaw, none, ⟨rfl, rfl, rfl, rfl, rfl⟩, by decide, rfl, by decide, by decide, by decide, by decide, by decide⟩

theorem test_meets_TasksAndCorrelatorsAreAdmitted_4 : ∃ (s : State) (id : Nat) (c : Cmd) (t : Task) (new : HostRead) (table : HostRead),
      Runs s id 0x0301 anyCmd c ∧
      Passes [entryCheck c [(0x08, 0x18)] [], deviceCheck s c, needState (t.migration.isNone && t.modify.isNone && t.destroy.isNone && t.stopIndex.isNone || (t.kind = .retro && t.modify.isNone && t.destroy.isNone)),
        params [(0x0C, decide (c.p32 0x0C &&& 0x83FF = c.p32 0x0C)), (0x18, c.p32 0x0C &&& 0x3FF = 0 || aligned64 (c.p64 0x18))]] ∧
      namedTask s (c.p32 0x08) = some t ∧
      c.p32 0x0C = 0x8000 ∧
      t.placedPeer = none ∧
      Passes [descParams (taskFields (taskDescOf t.desc.raw t.desc.table) t.complex true s.clk.tick)] :=
  ⟨(cmdState 0x0301 [(0x08, le 4 1), (0x0C, le 4 0x8000)] (taskState id) : State), 1, cmdOf 0x0301 [(0x08, le 4 1), (0x0C, le 4 0x8000)], taskOne, none, none, ⟨rfl, rfl, rfl, rfl, rfl⟩, by decide, rfl, by decide, by decide, by decide⟩

theorem test_meets_TasksAndCorrelatorsAreAdmitted_5 : ∃ (s : State) (id : Nat) (c : Cmd) (t : Task) (new : Data) (table : HostRead) (did : Nat),
      Runs s id 0x0301 anyCmd c ∧
      Passes [entryCheck c [(0x08, 0x18)] [], deviceCheck s c, needState (t.migration.isNone && t.modify.isNone && t.destroy.isNone && t.stopIndex.isNone || (t.kind = .retro && t.modify.isNone && t.destroy.isNone)),
        params [(0x0C, decide (c.p32 0x0C &&& 0x83FF = c.p32 0x0C)), (0x18, c.p32 0x0C &&& 0x3FF = 0 || aligned64 (c.p64 0x18))]] ∧
      namedTask s (c.p32 0x08) = some t ∧
      c.p32 0x0C &&& 0x3FF ≠ 0 ∧
      bit (c.p32 0x0C) 0 = false ∧
      t.placedPeer = some did ∧
      Passes [descParams (taskFields (taskDescOf (mergeDesc (c.p32 0x0C) t.desc.raw new) t.desc.table) t.complex true s.clk.tick)] :=
  ⟨(cmdState 0x0301 [(0x08, le 4 1), (0x0C, le 4 0x10)] (taskState (fun t => { t with placedPeer := some 9 })) : State), 1, cmdOf 0x0301 [(0x08, le 4 1), (0x0C, le 4 0x10)], { taskOne with placedPeer := some 9 }, taskRaw, none, 9, ⟨rfl, rfl, rfl, rfl, rfl⟩, by decide, rfl, by decide, by decide, by decide, by decide⟩

theorem test_meets_TasksAndCorrelatorsAreAdmitted_6 : ∃ (s : State) (id : Nat) (c : Cmd) (t : Task),
      Runs s id 0x0302 anyCmd c ∧
      Passes [entryCheck c [(0x08, 4), (0x10, 8)] [], deviceCheck s c, needState t.destroy.isNone] ∧
      namedTask s (c.p32 0x08) = some t :=
  ⟨(cmdState 0x0302 [(0x08, le 4 1)] (taskState id) : State), 1, cmdOf 0x0302 [(0x08, le 4 1)], taskOne, ⟨rfl, rfl, rfl, rfl, rfl⟩, by decide, rfl⟩

theorem test_meets_TasksAndCorrelatorsAreAdmitted_7 : ∃ (s : State) (id : Nat) (c : Cmd) (t : Task) (l : List (Nat × Share)),
      Runs s id 0x0303 anyCmd c ∧
      (Passes [entryCheck c placeFields [], deviceCheck s c, needState (t.modify.isNone && t.destroy.isNone && t.migration.isNone && t.backfill.isNone && t.stopIndex.isNone), params [(0x0C, decide (c.p8 0x0C ≤ 1)), (0x0E, decide (c.p16 0x0E = 0)), (0x10, decide (c.p32 0x10 < 2 ^ 20))],
        params [(0x14, decide (c.p16 0x14 = 0 ∨ (16 ≤ c.p16 0x14 ∧ c.p16 0x14 ≤ 4096))), (0x18, decide (c.p64 0x18 = 0) || !t.passed (c.p64 0x18))]]) ∧
      liveTask s (c.p32 0x08) = some t ∧
      c.p8 0x0C = 0 ∧
      placeShares t (if c.p32 0x10 = 0 then 2 ^ 20 - 1 else c.p32 0x10) 0 ((t.epoch + 1) % 256) s = some l ∧
      gatedAmong s (l.map Prod.fst).dedup = [] :=
  ⟨(cmdState 0x0303 [(0x08, le 4 1)] (fun s => { taskState id s with tiles := Vector.replicate 20 { Tile.reset with powered := true } }) : State), 1, cmdOf 0x0303 [(0x08, le 4 1)], taskOne, (placeShares taskOne (2 ^ 20 - 1) 0 1 (cmdState 0x0303 [(0x08, le 4 1)] (fun s => { taskState id s with tiles := Vector.replicate 20 { Tile.reset with powered := true } }))).getD [], ⟨rfl, rfl, rfl, rfl, rfl⟩, by decide, rfl, by decide, rfl, by decide⟩

theorem test_meets_TasksAndCorrelatorsAreAdmitted_8 : ∃ (s : State) (id : Nat) (c : Cmd) (t0 : Task) (l : List (Nat × Share)) (k0 : Nat),
      Runs s id 0x0303 anyCmd c ∧
      (Passes [entryCheck c placeFields [], deviceCheck s c, needState (t0.modify.isNone && t0.destroy.isNone && t0.migration.isNone && t0.backfill.isNone && t0.stopIndex.isNone), params [(0x0C, decide (c.p8 0x0C ≤ 1)), (0x0E, decide (c.p16 0x0E = 0)), (0x10, decide (c.p32 0x10 < 2 ^ 20))],
        params [(0x14, decide (c.p16 0x14 = 0 ∨ (16 ≤ c.p16 0x14 ∧ c.p16 0x14 ≤ 4096))), (0x18, decide (c.p64 0x18 = 0) || !t0.passed (c.p64 0x18))]]) ∧
      liveTask s (c.p32 0x08) = some t0 ∧
      c.p8 0x0C = 0 ∧
      placeShares t0 (if c.p32 0x10 = 0 then 2 ^ 20 - 1 else c.p32 0x10) 0 ((t0.epoch + 1) % 256) s = some l ∧
      gatedAmong s (l.map Prod.fst).dedup = [] ∧
      k0 = max t0.kPub (placeIndex c t0 s.clk.tick) :=
  ⟨(cmdState 0x0303 [(0x08, le 4 1)] (fun s => { taskState id s with tiles := Vector.replicate 20 { Tile.reset with powered := true } }) : State), 1, cmdOf 0x0303 [(0x08, le 4 1)], taskOne, (placeShares taskOne (2 ^ 20 - 1) 0 1 (cmdState 0x0303 [(0x08, le 4 1)] (fun s => { taskState id s with tiles := Vector.replicate 20 { Tile.reset with powered := true } }))).getD [], max taskOne.kPub (placeIndex (cmdOf 0x0303 [(0x08, le 4 1)]) taskOne 0), ⟨rfl, rfl, rfl, rfl, rfl⟩, by decide, rfl, by decide, rfl, by decide, rfl⟩

theorem test_meets_TasksAndCorrelatorsAreAdmitted_9 : ∃ (s : State) (id : Nat) (c : Cmd) (t : Task) (l : List (Nat × Share)),
      Runs s id 0x0303 anyCmd c ∧
      (Passes [entryCheck c placeFields [], deviceCheck s c, needState (t.modify.isNone && t.destroy.isNone && t.migration.isNone && t.backfill.isNone && t.stopIndex.isNone), params [(0x0C, decide (c.p8 0x0C ≤ 1)), (0x0E, decide (c.p16 0x0E = 0)), (0x10, decide (c.p32 0x10 < 2 ^ 20))],
        params [(0x14, decide (c.p16 0x14 = 0 ∨ (16 ≤ c.p16 0x14 ∧ c.p16 0x14 ≤ 4096))), (0x18, decide (c.p64 0x18 = 0) || !t.passed (c.p64 0x18))]]) ∧
      liveTask s (c.p32 0x08) = some t ∧
      c.p8 0x0C = 0 ∧
      placeShares t (if c.p32 0x10 = 0 then 2 ^ 20 - 1 else c.p32 0x10) 0 ((t.epoch + 1) % 256) s = some l ∧
      gatedAmong s (l.map Prod.fst).dedup ≠ [] ∧
      GrantsAtOnce (withPlacement s c t l) (cost [(pcTask, 10 * (gatedAmong s (l.map Prod.fst).dedup).length)]) :=
  ⟨(cmdState 0x0303 [(0x08, le 4 1)] (taskState id) : State), 1, cmdOf 0x0303 [(0x08, le 4 1)], taskOne, (placeShares taskOne (2 ^ 20 - 1) 0 1 (cmdState 0x0303 [(0x08, le 4 1)] (taskState id))).getD [], ⟨rfl, rfl, rfl, rfl, rfl⟩, by decide, rfl, by decide, rfl, by decide, by decide⟩

theorem test_meets_TasksAndCorrelatorsAreAdmitted_10 : ∃ (s : State) (id : Nat) (c : Cmd) (t : Task),
      Runs s id 0x0303 anyCmd c ∧
      (Passes [entryCheck c placeFields [], deviceCheck s c, needState (t.modify.isNone && t.destroy.isNone && t.migration.isNone && t.backfill.isNone && t.stopIndex.isNone), params [(0x0C, decide (c.p8 0x0C ≤ 1)), (0x0E, decide (c.p16 0x0E = 0)), (0x10, decide (c.p32 0x10 < 2 ^ 20))],
        params [(0x14, decide (c.p16 0x14 = 0 ∨ (16 ≤ c.p16 0x14 ∧ c.p16 0x14 ≤ 4096))), (0x18, decide (c.p64 0x18 = 0) || !t.passed (c.p64 0x18))]]) ∧
      liveTask s (c.p32 0x08) = some t ∧
      c.p8 0x0C = 0 ∧
      placeShares t (if c.p32 0x10 = 0 then 2 ^ 20 - 1 else c.p32 0x10) 0 ((t.epoch + 1) % 256) s = none :=
  ⟨(cmdState 0x0303 [(0x08, le 4 1)] (fun s => { taskState id s with tiles := Vector.replicate 20 { Tile.reset with state := .fenced } }) : State), 1, cmdOf 0x0303 [(0x08, le 4 1)], taskOne, ⟨rfl, rfl, rfl, rfl, rfl⟩, by decide, rfl, by decide, by decide⟩

theorem test_meets_TasksAndCorrelatorsAreAdmitted_11 : ∃ (s : State) (id : Nat) (c : Cmd) (t : Task) (u : State) (v : State),
      Runs s id 0x0303 anyCmd c ∧
      (Passes [entryCheck c placeFields [], deviceCheck s c, needState (t.modify.isNone && t.destroy.isNone && t.migration.isNone && t.backfill.isNone && t.stopIndex.isNone), params [(0x10, decide (c.p32 0x10 < 1))],
        params [(0x14, decide (c.p16 0x14 = 0 ∨ (16 ≤ c.p16 0x14 ∧ c.p16 0x14 ≤ 4096))), (0x18, decide (c.p64 0x18 = 0) || !t.passed (c.p64 0x18))], need (reachable s.link (c.p16 0x0E)) stLink 0]) ∧
      liveTask s (c.p32 0x08) = some t ∧
      c.p8 0x0C = 1 ∧
      admitFlow (.placement t.id) (c.p16 0x0E) t.linkTx t.linkRx s = some u ∧
      Admits u (.placement t.id) [(lcLinks, t.placementKbs)] ∧
      v = setTask t.id (fun x => { x with migration := some ⟨c.id, 2 ^ 64, placeOverlap c, some (c.p16 0x0E), false⟩ }) (addReservations (.placement t.id) [(lcLinks, t.placementKbs)] u) ∧
      GrantsAtOnce v t.placementUnits :=
  ⟨(cmdState 0x0303 [(0x08, le 4 1), (0x0C, [1]), (0x0E, [9])] (placeState) : State), 1, cmdOf 0x0303 [(0x08, le 4 1), (0x0C, [1]), (0x0E, [9])], taskOne, (admitFlow (.placement 1) 9 taskOne.linkTx taskOne.linkRx (cmdState 0x0303 [(0x08, le 4 1), (0x0C, [1]), (0x0E, [9])] placeState)).getD State.reset, setTask 1 (fun x => { x with migration := some ⟨1, 2 ^ 64, 64, some 9, false⟩ }) (addReservations (.placement 1) [(lcLinks, taskOne.placementKbs)] ((admitFlow (.placement 1) 9 taskOne.linkTx taskOne.linkRx (cmdState 0x0303 [(0x08, le 4 1), (0x0C, [1]), (0x0E, [9])] placeState)).getD State.reset : State)), ⟨rfl, rfl, rfl, rfl, rfl⟩, by decide, rfl, by decide, rfl, by decide, rfl, by decide⟩

theorem test_meets_TasksAndCorrelatorsAreAdmitted_12 : ∃ (s : State) (id : Nat) (c : Cmd) (n : Fin 4) (raw : Data) (table : HostRead) (k : Nat) (x : Nat) (rest : List (Nat × Nat)),
      Runs s id 0x0310 anyCmd c ∧
      Passes [entryCheck c [(0x08, 4), (0x10, 24)] [], deviceCheck s c, params [(0x08, decide (c.p32 0x08 = 256)), (0x10, aligned64 (c.p64 0x10))], params [(0x18, decide (c.p64 0x18 < c.p64 0x20))]] ∧
      Passes [params (retroSpan s.inlets[n] (c.p64 0x18) (c.p64 0x20)), descParams [(0x00, decide (u16At raw 0 = 1)), (0x02, decide (u8At raw 2 = 0)), (0x03, channelNamed s (u8At raw 3))], descParams (taskFields ({ taskDescOf raw [] with startTick := 0 } : TaskDesc) s.inlets[n].complex true s.clk.tick)] ∧
      inletOfChannel (u8At raw 3) = some n ∧
      channelNamed s (u8At raw 3) = true ∧
      u8At raw 7 ≠ 6 ∧
      s.tasks.length < 64 ∧
      retroCount s < 16 ∧
      spectraRoom s ({ taskDescOf raw [] with startTick := 0 } : TaskDesc) = true ∧
      (openTiles (withNewRetro s ({ taskDescOf raw [] with startTick := 0 } : TaskDesc) s.inlets[n] c) (2 ^ 20 - 1) (newRetro s ({ taskDescOf raw [] with startTick := 0 } : TaskDesc) s.inlets[n] c).footprint true = (k, x) :: rest ∨ (openTiles (withNewRetro s ({ taskDescOf raw [] with startTick := 0 } : TaskDesc) s.inlets[n] c) (2 ^ 20 - 1) (newRetro s ({ taskDescOf raw [] with startTick := 0 } : TaskDesc) s.inlets[n] c).footprint true = [] ∧ openTiles (withNewRetro s ({ taskDescOf raw [] with startTick := 0 } : TaskDesc) s.inlets[n] c) (2 ^ 20 - 1) (newRetro s ({ taskDescOf raw [] with startTick := 0 } : TaskDesc) s.inlets[n] c).footprint false = (k, x) :: rest)) ∧
      GrantsAtOnce (addShares [(k, retroShare (newRetro s ({ taskDescOf raw [] with startTick := 0 } : TaskDesc) s.inlets[n] c))] (withNewRetro s ({ taskDescOf raw [] with startTick := 0 } : TaskDesc) s.inlets[n] c)) (cost [(pcRetro, 10 * (gatedAmong (withNewRetro s ({ taskDescOf raw [] with startTick := 0 } : TaskDesc) s.inlets[n] c) [k]).length), (pcRetro, ceilDiv (2 * (newRetro s ({ taskDescOf raw [] with startTick := 0 } : TaskDesc) s.inlets[n] c).demand) 16), (pcRetro, storeUnits (newRetro s ({ taskDescOf raw [] with startTick := 0 } : TaskDesc) s.inlets[n] c).readKbs)]) :=
  ⟨(cmdState 0x0310 [(0x08, le 4 256), (0x18, le 8 6), (0x20, le 8 60000)] (runningInlets) : State), 1, cmdOf 0x0310 [(0x08, le 4 256), (0x18, le 8 6), (0x20, le 8 60000)], 1, taskRaw, none, 0, 240, ((openTiles (withNewRetro (cmdState 0x0310 [(0x08, le 4 256), (0x18, le 8 6), (0x20, le 8 60000)] runningInlets) (taskDescOf taskRaw []) runInlet (cmdOf 0x0310 [(0x08, le 4 256), (0x18, le 8 6), (0x20, le 8 60000)])) (2 ^ 20 - 1) (newRetro (cmdState 0x0310 [(0x08, le 4 256), (0x18, le 8 6), (0x20, le 8 60000)] runningInlets) (taskDescOf taskRaw []) runInlet (cmdOf 0x0310 [(0x08, le 4 256), (0x18, le 8 6), (0x20, le 8 60000)])).footprint false).drop 1), ⟨rfl, rfl, rfl, rfl, rfl⟩, by decide, by decide, by decide, by decide, by decide, by decide, by decide, by decide, by decide, by decide⟩

def test_meets_TasksAndCorrelatorsAreAdmitted_13_s : State := cmdState 0x0311 [(0x08, le 4 256)] (runningInlets)
def test_meets_TasksAndCorrelatorsAreAdmitted_13_id : Nat := 1
def test_meets_TasksAndCorrelatorsAreAdmitted_13_c : Cmd := cmdOf 0x0311 [(0x08, le 4 256)]
def test_meets_TasksAndCorrelatorsAreAdmitted_13_raw : Data := xcorrRaw
def test_meets_TasksAndCorrelatorsAreAdmitted_13_i : Inlet := runInlet
def test_meets_TasksAndCorrelatorsAreAdmitted_13_u : State := (admitRemotes (newXcorr test_meets_TasksAndCorrelatorsAreAdmitted_13_s test_meets_TasksAndCorrelatorsAreAdmitted_13_raw test_meets_TasksAndCorrelatorsAreAdmitted_13_i) test_meets_TasksAndCorrelatorsAreAdmitted_13_i (withNewXcorr test_meets_TasksAndCorrelatorsAreAdmitted_13_s test_meets_TasksAndCorrelatorsAreAdmitted_13_raw test_meets_TasksAndCorrelatorsAreAdmitted_13_i)).getD State.reset
def test_meets_TasksAndCorrelatorsAreAdmitted_13_v : State := (placeXcorr (newXcorr test_meets_TasksAndCorrelatorsAreAdmitted_13_s test_meets_TasksAndCorrelatorsAreAdmitted_13_raw test_meets_TasksAndCorrelatorsAreAdmitted_13_i).id (crossDemand (newXcorr test_meets_TasksAndCorrelatorsAreAdmitted_13_s test_meets_TasksAndCorrelatorsAreAdmitted_13_raw test_meets_TasksAndCorrelatorsAreAdmitted_13_i) test_meets_TasksAndCorrelatorsAreAdmitted_13_i) (addReservations (.xcorr (newXcorr test_meets_TasksAndCorrelatorsAreAdmitted_13_s test_meets_TasksAndCorrelatorsAreAdmitted_13_raw test_meets_TasksAndCorrelatorsAreAdmitted_13_i).id) (xcorrTraffic (newXcorr test_meets_TasksAndCorrelatorsAreAdmitted_13_s test_meets_TasksAndCorrelatorsAreAdmitted_13_raw test_meets_TasksAndCorrelatorsAreAdmitted_13_i) test_meets_TasksAndCorrelatorsAreAdmitted_13_i (sourceTasks (withNewXcorr test_meets_TasksAndCorrelatorsAreAdmitted_13_s test_meets_TasksAndCorrelatorsAreAdmitted_13_raw test_meets_TasksAndCorrelatorsAreAdmitted_13_i) (newXcorr test_meets_TasksAndCorrelatorsAreAdmitted_13_s test_meets_TasksAndCorrelatorsAreAdmitted_13_raw test_meets_TasksAndCorrelatorsAreAdmitted_13_i).id)) test_meets_TasksAndCorrelatorsAreAdmitted_13_u)).getD State.reset
theorem test_meets_TasksAndCorrelatorsAreAdmitted_13_h1 : (fun (s : State) (id : Nat) (c : Cmd) (raw : Data) (i : Inlet) (u : State) (v : State) => Passes [entryCheck c [(0x08, 4), (0x10, 8)] [], deviceCheck s c, params [(0x08, decide (c.p32 0x08 = 256)), (0x10, aligned64 (c.p64 0x10))]]) test_meets_TasksAndCorrelatorsAreAdmitted_13_s test_meets_TasksAndCorrelatorsAreAdmitted_13_id test_meets_TasksAndCorrelatorsAreAdmitted_13_c test_meets_TasksAndCorrelatorsAreAdmitted_13_raw test_meets_TasksAndCorrelatorsAreAdmitted_13_i test_meets_TasksAndCorrelatorsAreAdmitted_13_u test_meets_TasksAndCorrelatorsAreAdmitted_13_v := by
  beta_reduce
  decide
theorem test_meets_TasksAndCorrelatorsAreAdmitted_13_h2 : (fun (s : State) (id : Nat) (c : Cmd) (raw : Data) (i : Inlet) (u : State) (v : State) => u8At raw 2 ≠ 1) test_meets_TasksAndCorrelatorsAreAdmitted_13_s test_meets_TasksAndCorrelatorsAreAdmitted_13_id test_meets_TasksAndCorrelatorsAreAdmitted_13_c test_meets_TasksAndCorrelatorsAreAdmitted_13_raw test_meets_TasksAndCorrelatorsAreAdmitted_13_i test_meets_TasksAndCorrelatorsAreAdmitted_13_u test_meets_TasksAndCorrelatorsAreAdmitted_13_v := by
  beta_reduce
  decide
theorem test_meets_TasksAndCorrelatorsAreAdmitted_13_h3 : (fun (s : State) (id : Nat) (c : Cmd) (raw : Data) (i : Inlet) (u : State) (v : State) => Passes [descParams (xcFields s raw), needState ((xcSources raw).all fun x => x.remote || (match inletOfChannel x.channel with | some n => s.inlets[n].state = .running | none => false)), need ((xcSources raw).all fun x => !x.remote || reachable s.link x.did) stLink 0]) test_meets_TasksAndCorrelatorsAreAdmitted_13_s test_meets_TasksAndCorrelatorsAreAdmitted_13_id test_meets_TasksAndCorrelatorsAreAdmitted_13_c test_meets_TasksAndCorrelatorsAreAdmitted_13_raw test_meets_TasksAndCorrelatorsAreAdmitted_13_i test_meets_TasksAndCorrelatorsAreAdmitted_13_u test_meets_TasksAndCorrelatorsAreAdmitted_13_v := by
  beta_reduce
  decide
theorem test_meets_TasksAndCorrelatorsAreAdmitted_13_h4 : (fun (s : State) (id : Nat) (c : Cmd) (raw : Data) (i : Inlet) (u : State) (v : State) => xcInlet s raw = some i) test_meets_TasksAndCorrelatorsAreAdmitted_13_s test_meets_TasksAndCorrelatorsAreAdmitted_13_id test_meets_TasksAndCorrelatorsAreAdmitted_13_c test_meets_TasksAndCorrelatorsAreAdmitted_13_raw test_meets_TasksAndCorrelatorsAreAdmitted_13_i test_meets_TasksAndCorrelatorsAreAdmitted_13_u test_meets_TasksAndCorrelatorsAreAdmitted_13_v := by
  beta_reduce
  exact rfl
theorem test_meets_TasksAndCorrelatorsAreAdmitted_13_h5 : (fun (s : State) (id : Nat) (c : Cmd) (raw : Data) (i : Inlet) (u : State) (v : State) => (withNewXcorr s raw i).tasks.length ≤ 64) test_meets_TasksAndCorrelatorsAreAdmitted_13_s test_meets_TasksAndCorrelatorsAreAdmitted_13_id test_meets_TasksAndCorrelatorsAreAdmitted_13_c test_meets_TasksAndCorrelatorsAreAdmitted_13_raw test_meets_TasksAndCorrelatorsAreAdmitted_13_i test_meets_TasksAndCorrelatorsAreAdmitted_13_u test_meets_TasksAndCorrelatorsAreAdmitted_13_v := by
  beta_reduce
  decide
theorem test_meets_TasksAndCorrelatorsAreAdmitted_13_h6 : (fun (s : State) (id : Nat) (c : Cmd) (raw : Data) (i : Inlet) (u : State) (v : State) => (s.store.region rtSpectra).isSome = true) test_meets_TasksAndCorrelatorsAreAdmitted_13_s test_meets_TasksAndCorrelatorsAreAdmitted_13_id test_meets_TasksAndCorrelatorsAreAdmitted_13_c test_meets_TasksAndCorrelatorsAreAdmitted_13_raw test_meets_TasksAndCorrelatorsAreAdmitted_13_i test_meets_TasksAndCorrelatorsAreAdmitted_13_u test_meets_TasksAndCorrelatorsAreAdmitted_13_v := by
  beta_reduce
  decide
theorem test_meets_TasksAndCorrelatorsAreAdmitted_13_h7 : (fun (s : State) (id : Nat) (c : Cmd) (raw : Data) (i : Inlet) (u : State) (v : State) => admitRemotes (newXcorr s raw i) i (withNewXcorr s raw i) = some u) test_meets_TasksAndCorrelatorsAreAdmitted_13_s test_meets_TasksAndCorrelatorsAreAdmitted_13_id test_meets_TasksAndCorrelatorsAreAdmitted_13_c test_meets_TasksAndCorrelatorsAreAdmitted_13_raw test_meets_TasksAndCorrelatorsAreAdmitted_13_i test_meets_TasksAndCorrelatorsAreAdmitted_13_u test_meets_TasksAndCorrelatorsAreAdmitted_13_v := by
  beta_reduce
  exact rfl
theorem test_meets_TasksAndCorrelatorsAreAdmitted_13_h8 : (fun (s : State) (id : Nat) (c : Cmd) (raw : Data) (i : Inlet) (u : State) (v : State) => Admits u (.xcorr (newXcorr s raw i).id) (xcorrTraffic (newXcorr s raw i) i (sourceTasks (withNewXcorr s raw i) (newXcorr s raw i).id))) test_meets_TasksAndCorrelatorsAreAdmitted_13_s test_meets_TasksAndCorrelatorsAreAdmitted_13_id test_meets_TasksAndCorrelatorsAreAdmitted_13_c test_meets_TasksAndCorrelatorsAreAdmitted_13_raw test_meets_TasksAndCorrelatorsAreAdmitted_13_i test_meets_TasksAndCorrelatorsAreAdmitted_13_u test_meets_TasksAndCorrelatorsAreAdmitted_13_v := by
  beta_reduce
  decide
theorem test_meets_TasksAndCorrelatorsAreAdmitted_13_h9 : (fun (s : State) (id : Nat) (c : Cmd) (raw : Data) (i : Inlet) (u : State) (v : State) => placeXcorr (newXcorr s raw i).id (crossDemand (newXcorr s raw i) i) (addReservations (.xcorr (newXcorr s raw i).id) (xcorrTraffic (newXcorr s raw i) i (sourceTasks (withNewXcorr s raw i) (newXcorr s raw i).id)) u) = some v) test_meets_TasksAndCorrelatorsAreAdmitted_13_s test_meets_TasksAndCorrelatorsAreAdmitted_13_id test_meets_TasksAndCorrelatorsAreAdmitted_13_c test_meets_TasksAndCorrelatorsAreAdmitted_13_raw test_meets_TasksAndCorrelatorsAreAdmitted_13_i test_meets_TasksAndCorrelatorsAreAdmitted_13_u test_meets_TasksAndCorrelatorsAreAdmitted_13_v := by
  beta_reduce
  exact rfl
theorem test_meets_TasksAndCorrelatorsAreAdmitted_13_h10 : (fun (s : State) (id : Nat) (c : Cmd) (raw : Data) (i : Inlet) (u : State) (v : State) => GrantsAtOnce v (cost (xcorrItems (addReservations (.xcorr (newXcorr s raw i).id) (xcorrTraffic (newXcorr s raw i) i (sourceTasks (withNewXcorr s raw i) (newXcorr s raw i).id)) u) v (crossDemand (newXcorr s raw i) i) (sourceTasks (withNewXcorr s raw i) (newXcorr s raw i).id)))) test_meets_TasksAndCorrelatorsAreAdmitted_13_s test_meets_TasksAndCorrelatorsAreAdmitted_13_id test_meets_TasksAndCorrelatorsAreAdmitted_13_c test_meets_TasksAndCorrelatorsAreAdmitted_13_raw test_meets_TasksAndCorrelatorsAreAdmitted_13_i test_meets_TasksAndCorrelatorsAreAdmitted_13_u test_meets_TasksAndCorrelatorsAreAdmitted_13_v := by
  beta_reduce
  decide
theorem test_meets_TasksAndCorrelatorsAreAdmitted_13 : ∃ (s : State) (id : Nat) (c : Cmd) (raw : Data) (i : Inlet) (u : State) (v : State),
      Runs s id 0x0311 anyCmd c ∧
      Passes [entryCheck c [(0x08, 4), (0x10, 8)] [], deviceCheck s c, params [(0x08, decide (c.p32 0x08 = 256)), (0x10, aligned64 (c.p64 0x10))]] ∧
      u8At raw 2 ≠ 1 ∧
      Passes [descParams (xcFields s raw), needState ((xcSources raw).all fun x => x.remote || (match inletOfChannel x.channel with | some n => s.inlets[n].state = .running | none => false)), need ((xcSources raw).all fun x => !x.remote || reachable s.link x.did) stLink 0] ∧
      xcInlet s raw = some i ∧
      (withNewXcorr s raw i).tasks.length ≤ 64 ∧
      (s.store.region rtSpectra).isSome = true ∧
      admitRemotes (newXcorr s raw i) i (withNewXcorr s raw i) = some u ∧
      Admits u (.xcorr (newXcorr s raw i).id) (xcorrTraffic (newXcorr s raw i) i (sourceTasks (withNewXcorr s raw i) (newXcorr s raw i).id)) ∧
      placeXcorr (newXcorr s raw i).id (crossDemand (newXcorr s raw i) i) (addReservations (.xcorr (newXcorr s raw i).id) (xcorrTraffic (newXcorr s raw i) i (sourceTasks (withNewXcorr s raw i) (newXcorr s raw i).id)) u) = some v ∧
      GrantsAtOnce v (cost (xcorrItems (addReservations (.xcorr (newXcorr s raw i).id) (xcorrTraffic (newXcorr s raw i) i (sourceTasks (withNewXcorr s raw i) (newXcorr s raw i).id)) u) v (crossDemand (newXcorr s raw i) i) (sourceTasks (withNewXcorr s raw i) (newXcorr s raw i).id))) :=
  ⟨test_meets_TasksAndCorrelatorsAreAdmitted_13_s, test_meets_TasksAndCorrelatorsAreAdmitted_13_id, test_meets_TasksAndCorrelatorsAreAdmitted_13_c, test_meets_TasksAndCorrelatorsAreAdmitted_13_raw, test_meets_TasksAndCorrelatorsAreAdmitted_13_i, test_meets_TasksAndCorrelatorsAreAdmitted_13_u, test_meets_TasksAndCorrelatorsAreAdmitted_13_v, ⟨rfl, rfl, rfl, rfl, rfl⟩, test_meets_TasksAndCorrelatorsAreAdmitted_13_h1, test_meets_TasksAndCorrelatorsAreAdmitted_13_h2, test_meets_TasksAndCorrelatorsAreAdmitted_13_h3, test_meets_TasksAndCorrelatorsAreAdmitted_13_h4, test_meets_TasksAndCorrelatorsAreAdmitted_13_h5, test_meets_TasksAndCorrelatorsAreAdmitted_13_h6, test_meets_TasksAndCorrelatorsAreAdmitted_13_h7, test_meets_TasksAndCorrelatorsAreAdmitted_13_h8, test_meets_TasksAndCorrelatorsAreAdmitted_13_h9, test_meets_TasksAndCorrelatorsAreAdmitted_13_h10⟩

theorem test_meets_TasksAndCorrelatorsAreAdmitted_14 : ∃ (s : State) (id : Nat) (c : Cmd) (raw : Data),
      Runs s id 0x0311 anyCmd c ∧
      Passes [entryCheck c [(0x08, 4), (0x10, 8)] [], deviceCheck s c, params [(0x08, decide (c.p32 0x08 = 256)), (0x10, aligned64 (c.p64 0x10))]] ∧
      u8At raw 2 = 1 ∧
      Passes [descParams ([(0x00, decide (u16At raw 0 = 1)), (0x04, (findXcorr s (u32At raw 4)).isSome)] ++ (0x0F :: (List.range 4).map (0x1C + ·) ++ (List.range 88).map (0xA8 + ·)).map (fun o => (o, decide (u8At raw o = 0))))] :=
  ⟨(cmdState 0x0311 [(0x08, le 4 256)] (xcorrState) : State), 1, cmdOf 0x0311 [(0x08, le 4 256)], block 256 [(0, [1, 0, 1]), (4, le 4 5)], ⟨rfl, rfl, rfl, rfl, rfl⟩, by decide, by decide, by decide⟩

theorem test_meets_TilesRunTheirBatches_1 : ∃ (s : State) (n : Fin 20),
      s.tiles[n].healthy = true ∧
      s.tiles[n].powered = true ∧
      s.tiles[n].running = none ∧
      rootBypassed s = false ∧
      nextShare s s.tiles[n] = none :=
  ⟨(tileState (fun t => { t with powered := true }) State.reset : State), 3, by decide, by decide, by decide, by decide, by decide⟩

theorem test_meets_TilesRunTheirBatches_2 : ∃ (s : State) (n : Fin 20) (x : Share) (b : List Nat),
      s.tiles[n].healthy = true ∧
      s.tiles[n].powered = true ∧
      s.tiles[n].running = none ∧
      rootBypassed s = false ∧
      nextShare s s.tiles[n] = some (x, b) ∧
      s.tiles[n].pendingCauses = [] :=
  ⟨(tileReadyState : State), 3, shareOne, ((nextShare tileReadyState tileReadyState.tiles[3]).map Prod.snd).getD [], by decide, by decide, by decide, by decide, rfl, by decide⟩

theorem test_meets_TilesRunTheirBatches_3 : ∃ (s : State) (n : Fin 20) (x : Share) (b : List Nat),
      s.tiles[n].healthy = true ∧
      s.tiles[n].powered = true ∧
      s.tiles[n].running = none ∧
      rootBypassed s = false ∧
      nextShare s s.tiles[n] = some (x, b) ∧
      s.tiles[n].pendingCauses ≠ [] :=
  ⟨(tileState (fun t => { t with powered := true, shares := [shareOne], pendingCauses := [2] }) tileReadyState : State), 3, shareOne, ((nextShare tileReadyState tileReadyState.tiles[3]).map Prod.snd).getD [], by decide, by decide, by decide, by decide, rfl, by decide⟩

theorem test_meets_TilesRunTheirBatches_4 : ∃ (s : State) (n : Fin 20) (x : Share) (k : Nat) (tk : Task) (v : State),
      s.tiles[n].runningShare = some x ∧
      (s.tiles[n].batch.drop s.tiles[n].readIssued).head? = some k ∧
      s.tiles[n].restarting = false ∧
      x.role ≠ srCross ∧
      x.role ≠ srForeign ∧
      findTask s x.task = some tk ∧
      v = storeAsk (waitTick (issueTick tk x k) s) ∧
      (x.role = srFine ∨ x.role = srBackFine ∨ frameCommitted v tk k = true) ∧
      storeServes v = true ∧
      poisonMet v tk x.role k = [] :=
  ⟨(storeReady (tileRun id) : State), 3, shareOne, 0, taskOne, storeAsk (waitTick (issueTick taskOne shareOne 0) (storeReady (tileRun id))), by decide, by decide, by decide, by decide, by decide, rfl, rfl, by decide, by decide, by decide⟩

theorem test_meets_TilesRunTheirBatches_5 : ∃ (s : State) (n : Fin 20) (x : Share) (k : Nat) (tk : Task) (v : State),
      s.tiles[n].runningShare = some x ∧
      (s.tiles[n].batch.drop s.tiles[n].readIssued).head? = some k ∧
      s.tiles[n].restarting = false ∧
      x.role ≠ srCross ∧
      x.role ≠ srForeign ∧
      findTask s x.task = some tk ∧
      v = storeAsk (waitTick (issueTick tk x k) s) ∧
      ((x.role ≠ srFine ∧ x.role ≠ srBackFine ∧ frameCommitted v tk k = false) ∨ storeServes v = false) :=
  ⟨({ storeReady (tileRun id) with inlets := Vector.replicate 4 { runInlet with ring := { runInlet.ring with newest := 0 } } } : State), 3, shareOne, 0, taskOne, storeAsk (waitTick (issueTick taskOne shareOne 0) ({ storeReady (tileRun id) with inlets := Vector.replicate 4 { runInlet with ring := { runInlet.ring with newest := 0 } } })), by decide, by decide, by decide, by decide, by decide, rfl, rfl, by decide⟩

def test_meets_TilesRunTheirBatches_6_s : State := { storeReady (tileRun id) with inlets := Vector.replicate 4 { runInlet with ring := { runInlet.ring with poisoned := [⟨0, 100, 64⟩] } } }
def test_meets_TilesRunTheirBatches_6_n : Fin 20 := 3
def test_meets_TilesRunTheirBatches_6_x : Share := shareOne
def test_meets_TilesRunTheirBatches_6_k : Nat := 0
def test_meets_TilesRunTheirBatches_6_tk : Task := taskOne
def test_meets_TilesRunTheirBatches_6_v : State := storeAsk (waitTick (issueTick taskOne shareOne 0) ({ storeReady (tileRun id) with inlets := Vector.replicate 4 { runInlet with ring := { runInlet.ring with poisoned := [⟨0, 100, 64⟩] } } }))
def test_meets_TilesRunTheirBatches_6_u : State := forL (poisonMet test_meets_TilesRunTheirBatches_6_v taskOne 0 0) (fun p w => raise 0x304 [.q p.1, .h (roleRequester 0)] w) test_meets_TilesRunTheirBatches_6_v
theorem test_meets_TilesRunTheirBatches_6_h0 : (fun (s : State) (n : Fin 20) (x : Share) (k : Nat) (tk : Task) (v : State) (u : State) => s.tiles[n].runningShare = some x) test_meets_TilesRunTheirBatches_6_s test_meets_TilesRunTheirBatches_6_n test_meets_TilesRunTheirBatches_6_x test_meets_TilesRunTheirBatches_6_k test_meets_TilesRunTheirBatches_6_tk test_meets_TilesRunTheirBatches_6_v test_meets_TilesRunTheirBatches_6_u := by
  beta_reduce
  decide
theorem test_meets_TilesRunTheirBatches_6_h1 : (fun (s : State) (n : Fin 20) (x : Share) (k : Nat) (tk : Task) (v : State) (u : State) => (s.tiles[n].batch.drop s.tiles[n].readIssued).head? = some k) test_meets_TilesRunTheirBatches_6_s test_meets_TilesRunTheirBatches_6_n test_meets_TilesRunTheirBatches_6_x test_meets_TilesRunTheirBatches_6_k test_meets_TilesRunTheirBatches_6_tk test_meets_TilesRunTheirBatches_6_v test_meets_TilesRunTheirBatches_6_u := by
  beta_reduce
  decide
theorem test_meets_TilesRunTheirBatches_6_h2 : (fun (s : State) (n : Fin 20) (x : Share) (k : Nat) (tk : Task) (v : State) (u : State) => s.tiles[n].restarting = false) test_meets_TilesRunTheirBatches_6_s test_meets_TilesRunTheirBatches_6_n test_meets_TilesRunTheirBatches_6_x test_meets_TilesRunTheirBatches_6_k test_meets_TilesRunTheirBatches_6_tk test_meets_TilesRunTheirBatches_6_v test_meets_TilesRunTheirBatches_6_u := by
  beta_reduce
  decide
theorem test_meets_TilesRunTheirBatches_6_h3 : (fun (s : State) (n : Fin 20) (x : Share) (k : Nat) (tk : Task) (v : State) (u : State) => x.role ≠ srCross) test_meets_TilesRunTheirBatches_6_s test_meets_TilesRunTheirBatches_6_n test_meets_TilesRunTheirBatches_6_x test_meets_TilesRunTheirBatches_6_k test_meets_TilesRunTheirBatches_6_tk test_meets_TilesRunTheirBatches_6_v test_meets_TilesRunTheirBatches_6_u := by
  beta_reduce
  decide
theorem test_meets_TilesRunTheirBatches_6_h4 : (fun (s : State) (n : Fin 20) (x : Share) (k : Nat) (tk : Task) (v : State) (u : State) => x.role ≠ srForeign) test_meets_TilesRunTheirBatches_6_s test_meets_TilesRunTheirBatches_6_n test_meets_TilesRunTheirBatches_6_x test_meets_TilesRunTheirBatches_6_k test_meets_TilesRunTheirBatches_6_tk test_meets_TilesRunTheirBatches_6_v test_meets_TilesRunTheirBatches_6_u := by
  beta_reduce
  decide
theorem test_meets_TilesRunTheirBatches_6_h5 : (fun (s : State) (n : Fin 20) (x : Share) (k : Nat) (tk : Task) (v : State) (u : State) => findTask s x.task = some tk) test_meets_TilesRunTheirBatches_6_s test_meets_TilesRunTheirBatches_6_n test_meets_TilesRunTheirBatches_6_x test_meets_TilesRunTheirBatches_6_k test_meets_TilesRunTheirBatches_6_tk test_meets_TilesRunTheirBatches_6_v test_meets_TilesRunTheirBatches_6_u := by
  beta_reduce
  exact rfl
theorem test_meets_TilesRunTheirBatches_6_h6 : (fun (s : State) (n : Fin 20) (x : Share) (k : Nat) (tk : Task) (v : State) (u : State) => v = storeAsk (waitTick (issueTick tk x k) s)) test_meets_TilesRunTheirBatches_6_s test_meets_TilesRunTheirBatches_6_n test_meets_TilesRunTheirBatches_6_x test_meets_TilesRunTheirBatches_6_k test_meets_TilesRunTheirBatches_6_tk test_meets_TilesRunTheirBatches_6_v test_meets_TilesRunTheirBatches_6_u := by
  beta_reduce
  exact rfl
theorem test_meets_TilesRunTheirBatches_6_h7 : (fun (s : State) (n : Fin 20) (x : Share) (k : Nat) (tk : Task) (v : State) (u : State) => x.role = srFine ∨ x.role = srBackFine ∨ frameCommitted v tk k = true) test_meets_TilesRunTheirBatches_6_s test_meets_TilesRunTheirBatches_6_n test_meets_TilesRunTheirBatches_6_x test_meets_TilesRunTheirBatches_6_k test_meets_TilesRunTheirBatches_6_tk test_meets_TilesRunTheirBatches_6_v test_meets_TilesRunTheirBatches_6_u := by
  beta_reduce
  decide
theorem test_meets_TilesRunTheirBatches_6_h8 : (fun (s : State) (n : Fin 20) (x : Share) (k : Nat) (tk : Task) (v : State) (u : State) => storeServes v = true) test_meets_TilesRunTheirBatches_6_s test_meets_TilesRunTheirBatches_6_n test_meets_TilesRunTheirBatches_6_x test_meets_TilesRunTheirBatches_6_k test_meets_TilesRunTheirBatches_6_tk test_meets_TilesRunTheirBatches_6_v test_meets_TilesRunTheirBatches_6_u := by
  beta_reduce
  decide
theorem test_meets_TilesRunTheirBatches_6_h9 : (fun (s : State) (n : Fin 20) (x : Share) (k : Nat) (tk : Task) (v : State) (u : State) => u = forL (poisonMet v tk x.role k) (fun p w => raise 0x304 [.q p.1, .h (roleRequester x.role)] w) v) test_meets_TilesRunTheirBatches_6_s test_meets_TilesRunTheirBatches_6_n test_meets_TilesRunTheirBatches_6_x test_meets_TilesRunTheirBatches_6_k test_meets_TilesRunTheirBatches_6_tk test_meets_TilesRunTheirBatches_6_v test_meets_TilesRunTheirBatches_6_u := by
  beta_reduce
  exact rfl
theorem test_meets_TilesRunTheirBatches_6_h10 : (fun (s : State) (n : Fin 20) (x : Share) (k : Nat) (tk : Task) (v : State) (u : State) => (poisonMet v tk x.role k).filter (fun p => !s.tiles[n].reread.contains p) ≠ []) test_meets_TilesRunTheirBatches_6_s test_meets_TilesRunTheirBatches_6_n test_meets_TilesRunTheirBatches_6_x test_meets_TilesRunTheirBatches_6_k test_meets_TilesRunTheirBatches_6_tk test_meets_TilesRunTheirBatches_6_v test_meets_TilesRunTheirBatches_6_u := by
  beta_reduce
  decide
theorem test_meets_TilesRunTheirBatches_6 : ∃ (s : State) (n : Fin 20) (x : Share) (k : Nat) (tk : Task) (v : State) (u : State),
      s.tiles[n].runningShare = some x ∧
      (s.tiles[n].batch.drop s.tiles[n].readIssued).head? = some k ∧
      s.tiles[n].restarting = false ∧
      x.role ≠ srCross ∧
      x.role ≠ srForeign ∧
      findTask s x.task = some tk ∧
      v = storeAsk (waitTick (issueTick tk x k) s) ∧
      (x.role = srFine ∨ x.role = srBackFine ∨ frameCommitted v tk k = true) ∧
      storeServes v = true ∧
      u = forL (poisonMet v tk x.role k) (fun p w => raise 0x304 [.q p.1, .h (roleRequester x.role)] w) v ∧
      (poisonMet v tk x.role k).filter (fun p => !s.tiles[n].reread.contains p) ≠ [] :=
  ⟨test_meets_TilesRunTheirBatches_6_s, test_meets_TilesRunTheirBatches_6_n, test_meets_TilesRunTheirBatches_6_x, test_meets_TilesRunTheirBatches_6_k, test_meets_TilesRunTheirBatches_6_tk, test_meets_TilesRunTheirBatches_6_v, test_meets_TilesRunTheirBatches_6_u, test_meets_TilesRunTheirBatches_6_h0, test_meets_TilesRunTheirBatches_6_h1, test_meets_TilesRunTheirBatches_6_h2, test_meets_TilesRunTheirBatches_6_h3, test_meets_TilesRunTheirBatches_6_h4, test_meets_TilesRunTheirBatches_6_h5, test_meets_TilesRunTheirBatches_6_h6, test_meets_TilesRunTheirBatches_6_h7, test_meets_TilesRunTheirBatches_6_h8, test_meets_TilesRunTheirBatches_6_h9, test_meets_TilesRunTheirBatches_6_h10⟩

theorem test_meets_TilesRunTheirBatches_7 : ∃ (s : State) (n : Fin 20) (x : Share) (k : Nat) (tk : Task) (v : State) (u : State),
      s.tiles[n].runningShare = some x ∧
      (s.tiles[n].batch.drop s.tiles[n].readIssued).head? = some k ∧
      s.tiles[n].restarting = false ∧
      x.role ≠ srCross ∧
      x.role ≠ srForeign ∧
      findTask s x.task = some tk ∧
      v = storeAsk (waitTick (issueTick tk x k) s) ∧
      (x.role = srFine ∨ x.role = srBackFine ∨ frameCommitted v tk k = true) ∧
      storeServes v = true ∧
      u = forL (poisonMet v tk x.role k) (fun p w => raise 0x304 [.q p.1, .h (roleRequester x.role)] w) v ∧
      (∀ p ∈ poisonMet v tk x.role k, p ∈ s.tiles[n].reread) :=
  ⟨(storeReady (tileRun id) : State), 3, shareOne, 0, taskOne, storeAsk (waitTick (issueTick taskOne shareOne 0) (storeReady (tileRun id))), storeAsk (waitTick (issueTick taskOne shareOne 0) (storeReady (tileRun id))), by decide, by decide, by decide, by decide, by decide, rfl, rfl, by decide, by decide, rfl, by decide⟩

theorem test_meets_TilesRunTheirBatches_8 : ∃ (s : State) (n : Fin 20) (x : Share) (k : Nat),
      s.tiles[n].runningShare = some x ∧
      (s.tiles[n].batch.drop s.tiles[n].readIssued).head? = some k ∧
      s.tiles[n].restarting = false ∧
      x.role = srCross :=
  ⟨(tileRun (fun t => { t with running := some { shareOne with role := 4 }.key, shares := [{ shareOne with role := 4 }] }) : State), 3, { shareOne with role := 4 }, 0, by decide, by decide, by decide, by decide⟩

theorem test_meets_TilesRunTheirBatches_9 : ∃ (s : State) (n : Fin 20) (x : Share) (k : Nat) (f : ForeignShare),
      s.tiles[n].runningShare = some x ∧
      (s.tiles[n].batch.drop s.tiles[n].readIssued).head? = some k ∧
      s.tiles[n].restarting = false ∧
      x.role = srForeign ∧
      findForeign s x.task x.epoch = some f ∧
      s.link.remoteReads.find? (·.tile = n.val) = none :=
  ⟨((fun s => { s with link := { s.link with foreign := [foreignOne] } }) (tileRun (fun t => { t with running := some foreignShare.key, shares := [foreignShare] })) : State), 3, foreignShare, 0, foreignOne, by decide, by decide, by decide, by decide, by decide, by decide⟩

theorem test_meets_TilesRunTheirBatches_10 : ∃ (s : State) (n : Fin 20) (x : Share) (k : Nat) (f : ForeignShare) (r : RemoteRead),
      s.tiles[n].runningShare = some x ∧
      (s.tiles[n].batch.drop s.tiles[n].readIssued).head? = some k ∧
      s.tiles[n].restarting = false ∧
      x.role = srForeign ∧
      findForeign s x.task x.epoch = some f ∧
      s.link.remoteReads.find? (·.tile = n.val) = some r ∧
      r.left = 0 :=
  ⟨((fun s => { s with link := { s.link with remoteReads := [⟨3, 0, none⟩] } }) ((fun s => { s with link := { s.link with foreign := [foreignOne] } }) (tileRun (fun t => { t with running := some foreignShare.key, shares := [foreignShare] }))) : State), 3, foreignShare, 0, foreignOne, ⟨3, 0, none⟩, by decide, by decide, by decide, by decide, by decide, by decide, by decide⟩

theorem test_meets_TilesRunTheirBatches_11 : ∃ (s : State) (n : Fin 20) (good : Bool) (x : Share) (u : CommitUnit) (l : List CommitUnit),
      s.tiles[n].runningShare = some x ∧
      s.tiles[n].units = u :: l ∧
      s.tiles[n].restarting = false ∧
      s.tiles[n].drained = false :=
  ⟨(tileRun (fun t => { t with units := [gapUnit 1 0 0 0 false], seq := { t.seq with writes := 1 } }) : State), 3, true, shareOne, gapUnit 1 0 0 0 false, [], by decide, by decide, by decide, by decide⟩

theorem test_meets_TilesRunTheirBatches_12 : ∃ (s : State) (n : Fin 20) (x : Share) (u : CommitUnit) (l : List CommitUnit),
      s.tiles[n].runningShare = some x ∧
      s.tiles[n].units = u :: l ∧
      s.tiles[n].restarting = false ∧
      s.tiles[n].drained = true ∧
      windowOpen s x u = true ∧
      x.back = false ∧
      x.role ≠ srCross ∧
      x.role ≠ srForeign ∧
      (s.tiles[n].seq.events = 0 ∨ u.saturated ≠ 0) :=
  ⟨(tileRun (fun t => { t with units := [gapUnit 1 0 0 0 false] }) : State), 3, shareOne, gapUnit 1 0 0 0 false, [], by decide, by decide, by decide, by decide, by decide, by decide, by decide, by decide, by decide⟩

theorem test_meets_TilesRunTheirBatches_13 : ∃ (s : State) (n : Fin 20) (x : Share) (u : CommitUnit) (l : List CommitUnit),
      s.tiles[n].runningShare = some x ∧
      s.tiles[n].units = u :: l ∧
      s.tiles[n].restarting = false ∧
      s.tiles[n].drained = true ∧
      windowOpen s x u = true ∧
      x.back = true ∧
      (s.tiles[n].seq.events = 0 ∨ u.saturated ≠ 0) :=
  ⟨(tileRun (fun t => { t with running := some { shareOne with role := 1 }.key, shares := [{ shareOne with role := 1 }], units := [gapUnit 1 0 0 0 false] }) : State), 3, { shareOne with role := 1 }, gapUnit 1 0 0 0 false, [], by decide, by decide, by decide, by decide, by decide, by decide, by decide⟩

theorem test_meets_TilesRunTheirBatches_14 : ∃ (s : State) (n : Fin 20) (x : Share) (u : CommitUnit) (l : List CommitUnit),
      s.tiles[n].runningShare = some x ∧
      s.tiles[n].units = u :: l ∧
      s.tiles[n].restarting = false ∧
      s.tiles[n].drained = true ∧
      windowOpen s x u = true ∧
      x.role = srCross :=
  ⟨(tileRun (fun t => { t with running := some { shareOne with role := 4 }.key, shares := [{ shareOne with role := 4 }], units := [gapUnit 1 0 0 0 false] }) : State), 3, { shareOne with role := 4 }, gapUnit 1 0 0 0 false, [], by decide, by decide, by decide, by decide, by decide, by decide⟩

theorem test_meets_TilesRunTheirBatches_15 : ∃ (s : State) (n : Fin 20) (x : Share) (u : CommitUnit) (l : List CommitUnit),
      s.tiles[n].runningShare = some x ∧
      s.tiles[n].units = u :: l ∧
      s.tiles[n].restarting = false ∧
      s.tiles[n].drained = true ∧
      windowOpen s x u = true ∧
      x.role = srForeign :=
  ⟨(tileState (fun t => { (tileRun id).tiles[0] with running := some foreignShare.key, shares := [foreignShare], units := [gapUnit 7 0 0 0 false] }) ((fun s => { s with link := { s.link with foreign := [foreignOne] } }) (tileRun (fun t => { t with running := some foreignShare.key, shares := [foreignShare] }))) : State), 3, foreignShare, gapUnit 7 0 0 0 false, [], by decide, by decide, by decide, by decide, by decide, by decide⟩

theorem test_meets_TilesRunTheirBatches_16 : ∃ (s : State) (n : Fin 20) (x : Share) (u : CommitUnit) (l : List CommitUnit),
      s.tiles[n].runningShare = some x ∧
      s.tiles[n].units = u :: l ∧
      s.tiles[n].restarting = false ∧
      s.tiles[n].drained = true ∧
      windowOpen s x u = true :=
  ⟨(tileRun (fun t => { t with units := [gapUnit 1 0 0 0 false] }) : State), 3, shareOne, gapUnit 1 0 0 0 false, [], by decide, by decide, by decide, by decide, by decide⟩

theorem test_meets_TilesRunTheirBatches_17 : ∃ (s : State) (n : Fin 20) (good : Bool) (x : Share) (u : CommitUnit) (l : List CommitUnit),
      s.tiles[n].runningShare = some x ∧
      s.tiles[n].units = u :: l ∧
      s.tiles[n].restarting = false ∧
      s.tiles[n].drained = true ∧
      windowOpen s x u = false ∧
      s.tiles[n].waitReason = 3 :=
  ⟨(tileRun (fun t => { t with waitReason := 3, units := [gapUnit 1 9999999 0 0 false] }) : State), 3, true, shareOne, gapUnit 1 9999999 0 0 false, [], by decide, by decide, by decide, by decide, by decide, by decide⟩

theorem test_meets_TilesRunTheirBatches_18 : ∃ (s : State) (n : Fin 20) (good : Bool) (x : Share) (u : CommitUnit) (l : List CommitUnit),
      s.tiles[n].runningShare = some x ∧
      s.tiles[n].units = u :: l ∧
      s.tiles[n].restarting = false ∧
      s.tiles[n].drained = true ∧
      windowOpen s x u = false ∧
      s.tiles[n].waitReason ≠ 3 :=
  ⟨(tileRun (fun t => { t with units := [gapUnit 1 9999999 0 0 false] }) : State), 3, true, shareOne, gapUnit 1 9999999 0 0 false, [], by decide, by decide, by decide, by decide, by decide, by decide⟩

theorem test_meets_TilesRunTheirBatches_19 : ∃ (s : State) (n : Fin 20) (l : List Share),
      s.tiles[n].staged.isSome = true ∧
      s.tiles[n].healthy = true ∧
      s.tiles[n].running = none ∧
      l = s.tiles[n].merged.map (fun x => { x with idx := nextOwn x.period x.residues x.idx }) :=
  ⟨(tileState (fun t => { t with staged := some [shareOne] }) State.reset : State), 3, [shareOne], by decide, by decide, by decide, by decide⟩

theorem test_meets_TilesRunTheirBatches_20 : ∃ (s : State) (n : Fin 20) (l : List Share),
      s.tiles[n].staged.isSome = true ∧
      s.tiles[n].healthy = true ∧
      s.tiles[n].running.isSome = true ∧
      s.tiles[n].restarting = false ∧
      l = s.tiles[n].merged.map (fun x => { x with idx := nextOwn x.period x.residues x.idx }) :=
  ⟨(tileRun (fun t => { t with staged := some [shareOne] }) : State), 3, [shareOne], by decide, by decide, by decide, by decide, by decide⟩

theorem test_meets_TilesRunTheirBatches_21 : ∃ (s : State) (n : Fin 20) (l : List Share),
      s.tiles[n].staged.isSome = true ∧
      s.tiles[n].healthy = true ∧
      s.tiles[n].running.isSome = true ∧
      s.tiles[n].restarting = true ∧
      l = s.tiles[n].merged.map (fun x => { x with idx := nextOwn x.period x.residues x.idx }) :=
  ⟨(tileRun (fun t => { t with restarting := true, staged := some [shareOne] }) : State), 3, [shareOne], by decide, by decide, by decide, by decide, by decide⟩

theorem test_meets_TilesRunTheirBatches_22 : ∃ (s : State) (xc : U32) (x : Xcorr) (w : XcIndex) (l : List XcIndex),
      findXcorr s xc.toNat = some x ∧
      sortBy (·.index) x.waiting = w :: l ∧
      (w.values.length ≠ x.sources.length ∨ x.stopped w.index = true) :=
  ⟨({ State.reset with xcorrs := [{ xcOf xcorrRaw 5 goodInlet with waiting := [⟨2, 7, [], 0⟩] }] } : State), 5, { xcOf xcorrRaw 5 goodInlet with waiting := [⟨2, 7, [], 0⟩] }, ⟨2, 7, [], 0⟩, [], rfl, rfl, by decide⟩

theorem test_meets_TilesRunTheirBatches_23 : ∃ (s : State) (xc : U32) (x : Xcorr) (w : XcIndex) (l : List XcIndex),
      findXcorr s xc.toNat = some x ∧
      sortBy (·.index) x.waiting = w :: l ∧
      w.values.length = x.sources.length ∧
      x.stopped w.index = false ∧
      w.index ≠ x.nextIndex :=
  ⟨({ State.reset with xcorrs := [{ xcOf xcorrRaw 5 goodInlet with waiting := [⟨2, 7, [(0, []), (1, [])], 0⟩] }] } : State), 5, { xcOf xcorrRaw 5 goodInlet with waiting := [⟨2, 7, [(0, []), (1, [])], 0⟩] }, ⟨2, 7, [(0, []), (1, [])], 0⟩, [], rfl, rfl, by decide, by decide, by decide⟩

theorem test_meets_TilesRecoverOrAreFenced_1 : ∃ (s : State) (n : Fin 20) (causes : List Nat) (all : List Nat) (offset : Nat) (addr : Nat) (got : Nat) (flips : Nat) (v : State),
      (v = (if flips = 0 ∨ controlWords ≤ got then s else upsetWord n got flips s)) ∧
      s.tiles[n].healthy = true ∧
      s.tiles[n].restarting = false ∧
      s.tiles[n].seq.faults = [] ∧
      all = (causes.filter fun c => decide (1 ≤ c ∧ c ≤ 6) && (c ≠ 5 || !fetchPasses v n addr got)) ∧
      all ≠ [] ∧
      s.tiles[n].running.isSome = true ∧
      5 ∉ all :=
  ⟨(tileRun id : State), 3, [2], [2], 0, 7, 7, 0, tileRun id, rfl, by decide, by decide, by decide, rfl, by decide, by decide, by decide⟩

def test_meets_TilesRecoverOrAreFenced_2_s : State := tileRun id
def test_meets_TilesRecoverOrAreFenced_2_n : Fin 20 := 3
def test_meets_TilesRecoverOrAreFenced_2_causes : List Nat := [5]
def test_meets_TilesRecoverOrAreFenced_2_all : List Nat := [5]
def test_meets_TilesRecoverOrAreFenced_2_offset : Nat := 0
def test_meets_TilesRecoverOrAreFenced_2_addr : Nat := 5000
def test_meets_TilesRecoverOrAreFenced_2_got : Nat := 5000
def test_meets_TilesRecoverOrAreFenced_2_flips : Nat := 1
def test_meets_TilesRecoverOrAreFenced_2_v : State := (upsetWord 3 5000 1 (tileRun id))
theorem test_meets_TilesRecoverOrAreFenced_2_h0 : (fun (s : State) (n : Fin 20) (causes : List Nat) (all : List Nat) (offset : Nat) (addr : Nat) (got : Nat) (flips : Nat) (v : State) => v = (if flips = 0 ∨ controlWords ≤ got then s else upsetWord n got flips s)) test_meets_TilesRecoverOrAreFenced_2_s test_meets_TilesRecoverOrAreFenced_2_n test_meets_TilesRecoverOrAreFenced_2_causes test_meets_TilesRecoverOrAreFenced_2_all test_meets_TilesRecoverOrAreFenced_2_offset test_meets_TilesRecoverOrAreFenced_2_addr test_meets_TilesRecoverOrAreFenced_2_got test_meets_TilesRecoverOrAreFenced_2_flips test_meets_TilesRecoverOrAreFenced_2_v := by
  beta_reduce
  exact rfl
theorem test_meets_TilesRecoverOrAreFenced_2_h1 : (fun (s : State) (n : Fin 20) (causes : List Nat) (all : List Nat) (offset : Nat) (addr : Nat) (got : Nat) (flips : Nat) (v : State) => s.tiles[n].healthy = true) test_meets_TilesRecoverOrAreFenced_2_s test_meets_TilesRecoverOrAreFenced_2_n test_meets_TilesRecoverOrAreFenced_2_causes test_meets_TilesRecoverOrAreFenced_2_all test_meets_TilesRecoverOrAreFenced_2_offset test_meets_TilesRecoverOrAreFenced_2_addr test_meets_TilesRecoverOrAreFenced_2_got test_meets_TilesRecoverOrAreFenced_2_flips test_meets_TilesRecoverOrAreFenced_2_v := by
  beta_reduce
  decide
theorem test_meets_TilesRecoverOrAreFenced_2_h2 : (fun (s : State) (n : Fin 20) (causes : List Nat) (all : List Nat) (offset : Nat) (addr : Nat) (got : Nat) (flips : Nat) (v : State) => s.tiles[n].restarting = false) test_meets_TilesRecoverOrAreFenced_2_s test_meets_TilesRecoverOrAreFenced_2_n test_meets_TilesRecoverOrAreFenced_2_causes test_meets_TilesRecoverOrAreFenced_2_all test_meets_TilesRecoverOrAreFenced_2_offset test_meets_TilesRecoverOrAreFenced_2_addr test_meets_TilesRecoverOrAreFenced_2_got test_meets_TilesRecoverOrAreFenced_2_flips test_meets_TilesRecoverOrAreFenced_2_v := by
  beta_reduce
  decide
theorem test_meets_TilesRecoverOrAreFenced_2_h3 : (fun (s : State) (n : Fin 20) (causes : List Nat) (all : List Nat) (offset : Nat) (addr : Nat) (got : Nat) (flips : Nat) (v : State) => s.tiles[n].seq.faults = []) test_meets_TilesRecoverOrAreFenced_2_s test_meets_TilesRecoverOrAreFenced_2_n test_meets_TilesRecoverOrAreFenced_2_causes test_meets_TilesRecoverOrAreFenced_2_all test_meets_TilesRecoverOrAreFenced_2_offset test_meets_TilesRecoverOrAreFenced_2_addr test_meets_TilesRecoverOrAreFenced_2_got test_meets_TilesRecoverOrAreFenced_2_flips test_meets_TilesRecoverOrAreFenced_2_v := by
  beta_reduce
  decide
theorem test_meets_TilesRecoverOrAreFenced_2_h4 : (fun (s : State) (n : Fin 20) (causes : List Nat) (all : List Nat) (offset : Nat) (addr : Nat) (got : Nat) (flips : Nat) (v : State) => all = (causes.filter fun c => decide (1 ≤ c ∧ c ≤ 6) && (c ≠ 5 || !fetchPasses v n addr got))) test_meets_TilesRecoverOrAreFenced_2_s test_meets_TilesRecoverOrAreFenced_2_n test_meets_TilesRecoverOrAreFenced_2_causes test_meets_TilesRecoverOrAreFenced_2_all test_meets_TilesRecoverOrAreFenced_2_offset test_meets_TilesRecoverOrAreFenced_2_addr test_meets_TilesRecoverOrAreFenced_2_got test_meets_TilesRecoverOrAreFenced_2_flips test_meets_TilesRecoverOrAreFenced_2_v := by
  beta_reduce
  decide
theorem test_meets_TilesRecoverOrAreFenced_2_h5 : (fun (s : State) (n : Fin 20) (causes : List Nat) (all : List Nat) (offset : Nat) (addr : Nat) (got : Nat) (flips : Nat) (v : State) => all ≠ []) test_meets_TilesRecoverOrAreFenced_2_s test_meets_TilesRecoverOrAreFenced_2_n test_meets_TilesRecoverOrAreFenced_2_causes test_meets_TilesRecoverOrAreFenced_2_all test_meets_TilesRecoverOrAreFenced_2_offset test_meets_TilesRecoverOrAreFenced_2_addr test_meets_TilesRecoverOrAreFenced_2_got test_meets_TilesRecoverOrAreFenced_2_flips test_meets_TilesRecoverOrAreFenced_2_v := by
  beta_reduce
  decide
theorem test_meets_TilesRecoverOrAreFenced_2_h6 : (fun (s : State) (n : Fin 20) (causes : List Nat) (all : List Nat) (offset : Nat) (addr : Nat) (got : Nat) (flips : Nat) (v : State) => s.tiles[n].running.isSome = true) test_meets_TilesRecoverOrAreFenced_2_s test_meets_TilesRecoverOrAreFenced_2_n test_meets_TilesRecoverOrAreFenced_2_causes test_meets_TilesRecoverOrAreFenced_2_all test_meets_TilesRecoverOrAreFenced_2_offset test_meets_TilesRecoverOrAreFenced_2_addr test_meets_TilesRecoverOrAreFenced_2_got test_meets_TilesRecoverOrAreFenced_2_flips test_meets_TilesRecoverOrAreFenced_2_v := by
  beta_reduce
  decide
theorem test_meets_TilesRecoverOrAreFenced_2_h7 : (fun (s : State) (n : Fin 20) (causes : List Nat) (all : List Nat) (offset : Nat) (addr : Nat) (got : Nat) (flips : Nat) (v : State) => 5 ∈ all) test_meets_TilesRecoverOrAreFenced_2_s test_meets_TilesRecoverOrAreFenced_2_n test_meets_TilesRecoverOrAreFenced_2_causes test_meets_TilesRecoverOrAreFenced_2_all test_meets_TilesRecoverOrAreFenced_2_offset test_meets_TilesRecoverOrAreFenced_2_addr test_meets_TilesRecoverOrAreFenced_2_got test_meets_TilesRecoverOrAreFenced_2_flips test_meets_TilesRecoverOrAreFenced_2_v := by
  beta_reduce
  decide
theorem test_meets_TilesRecoverOrAreFenced_2_h8 : (fun (s : State) (n : Fin 20) (causes : List Nat) (all : List Nat) (offset : Nat) (addr : Nat) (got : Nat) (flips : Nat) (v : State) => s.tiles[n].lastFailAddr ≠ some addr) test_meets_TilesRecoverOrAreFenced_2_s test_meets_TilesRecoverOrAreFenced_2_n test_meets_TilesRecoverOrAreFenced_2_causes test_meets_TilesRecoverOrAreFenced_2_all test_meets_TilesRecoverOrAreFenced_2_offset test_meets_TilesRecoverOrAreFenced_2_addr test_meets_TilesRecoverOrAreFenced_2_got test_meets_TilesRecoverOrAreFenced_2_flips test_meets_TilesRecoverOrAreFenced_2_v := by
  beta_reduce
  decide
theorem test_meets_TilesRecoverOrAreFenced_2 : ∃ (s : State) (n : Fin 20) (causes : List Nat) (all : List Nat) (offset : Nat) (addr : Nat) (got : Nat) (flips : Nat) (v : State),
      (v = (if flips = 0 ∨ controlWords ≤ got then s else upsetWord n got flips s)) ∧
      s.tiles[n].healthy = true ∧
      s.tiles[n].restarting = false ∧
      s.tiles[n].seq.faults = [] ∧
      all = (causes.filter fun c => decide (1 ≤ c ∧ c ≤ 6) && (c ≠ 5 || !fetchPasses v n addr got)) ∧
      all ≠ [] ∧
      s.tiles[n].running.isSome = true ∧
      5 ∈ all ∧
      s.tiles[n].lastFailAddr ≠ some addr :=
  ⟨test_meets_TilesRecoverOrAreFenced_2_s, test_meets_TilesRecoverOrAreFenced_2_n, test_meets_TilesRecoverOrAreFenced_2_causes, test_meets_TilesRecoverOrAreFenced_2_all, test_meets_TilesRecoverOrAreFenced_2_offset, test_meets_TilesRecoverOrAreFenced_2_addr, test_meets_TilesRecoverOrAreFenced_2_got, test_meets_TilesRecoverOrAreFenced_2_flips, test_meets_TilesRecoverOrAreFenced_2_v, test_meets_TilesRecoverOrAreFenced_2_h0, test_meets_TilesRecoverOrAreFenced_2_h1, test_meets_TilesRecoverOrAreFenced_2_h2, test_meets_TilesRecoverOrAreFenced_2_h3, test_meets_TilesRecoverOrAreFenced_2_h4, test_meets_TilesRecoverOrAreFenced_2_h5, test_meets_TilesRecoverOrAreFenced_2_h6, test_meets_TilesRecoverOrAreFenced_2_h7, test_meets_TilesRecoverOrAreFenced_2_h8⟩

def test_meets_TilesRecoverOrAreFenced_3_s : State := tileRun (fun t => { t with lastFailAddr := some 5000 })
def test_meets_TilesRecoverOrAreFenced_3_n : Fin 20 := 3
def test_meets_TilesRecoverOrAreFenced_3_causes : List Nat := [5]
def test_meets_TilesRecoverOrAreFenced_3_all : List Nat := [5]
def test_meets_TilesRecoverOrAreFenced_3_offset : Nat := 0
def test_meets_TilesRecoverOrAreFenced_3_addr : Nat := 5000
def test_meets_TilesRecoverOrAreFenced_3_got : Nat := 5000
def test_meets_TilesRecoverOrAreFenced_3_flips : Nat := 1
def test_meets_TilesRecoverOrAreFenced_3_v : State := upsetWord 3 5000 1 (tileRun (fun t => { t with lastFailAddr := some 5000 }))
theorem test_meets_TilesRecoverOrAreFenced_3_h0 : (fun (s : State) (n : Fin 20) (causes : List Nat) (all : List Nat) (offset : Nat) (addr : Nat) (got : Nat) (flips : Nat) (v : State) => v = (if flips = 0 ∨ controlWords ≤ got then s else upsetWord n got flips s)) test_meets_TilesRecoverOrAreFenced_3_s test_meets_TilesRecoverOrAreFenced_3_n test_meets_TilesRecoverOrAreFenced_3_causes test_meets_TilesRecoverOrAreFenced_3_all test_meets_TilesRecoverOrAreFenced_3_offset test_meets_TilesRecoverOrAreFenced_3_addr test_meets_TilesRecoverOrAreFenced_3_got test_meets_TilesRecoverOrAreFenced_3_flips test_meets_TilesRecoverOrAreFenced_3_v := by
  beta_reduce
  exact rfl
theorem test_meets_TilesRecoverOrAreFenced_3_h1 : (fun (s : State) (n : Fin 20) (causes : List Nat) (all : List Nat) (offset : Nat) (addr : Nat) (got : Nat) (flips : Nat) (v : State) => s.tiles[n].healthy = true) test_meets_TilesRecoverOrAreFenced_3_s test_meets_TilesRecoverOrAreFenced_3_n test_meets_TilesRecoverOrAreFenced_3_causes test_meets_TilesRecoverOrAreFenced_3_all test_meets_TilesRecoverOrAreFenced_3_offset test_meets_TilesRecoverOrAreFenced_3_addr test_meets_TilesRecoverOrAreFenced_3_got test_meets_TilesRecoverOrAreFenced_3_flips test_meets_TilesRecoverOrAreFenced_3_v := by
  beta_reduce
  decide
theorem test_meets_TilesRecoverOrAreFenced_3_h2 : (fun (s : State) (n : Fin 20) (causes : List Nat) (all : List Nat) (offset : Nat) (addr : Nat) (got : Nat) (flips : Nat) (v : State) => s.tiles[n].restarting = false) test_meets_TilesRecoverOrAreFenced_3_s test_meets_TilesRecoverOrAreFenced_3_n test_meets_TilesRecoverOrAreFenced_3_causes test_meets_TilesRecoverOrAreFenced_3_all test_meets_TilesRecoverOrAreFenced_3_offset test_meets_TilesRecoverOrAreFenced_3_addr test_meets_TilesRecoverOrAreFenced_3_got test_meets_TilesRecoverOrAreFenced_3_flips test_meets_TilesRecoverOrAreFenced_3_v := by
  beta_reduce
  decide
theorem test_meets_TilesRecoverOrAreFenced_3_h3 : (fun (s : State) (n : Fin 20) (causes : List Nat) (all : List Nat) (offset : Nat) (addr : Nat) (got : Nat) (flips : Nat) (v : State) => s.tiles[n].seq.faults = []) test_meets_TilesRecoverOrAreFenced_3_s test_meets_TilesRecoverOrAreFenced_3_n test_meets_TilesRecoverOrAreFenced_3_causes test_meets_TilesRecoverOrAreFenced_3_all test_meets_TilesRecoverOrAreFenced_3_offset test_meets_TilesRecoverOrAreFenced_3_addr test_meets_TilesRecoverOrAreFenced_3_got test_meets_TilesRecoverOrAreFenced_3_flips test_meets_TilesRecoverOrAreFenced_3_v := by
  beta_reduce
  decide
theorem test_meets_TilesRecoverOrAreFenced_3_h4 : (fun (s : State) (n : Fin 20) (causes : List Nat) (all : List Nat) (offset : Nat) (addr : Nat) (got : Nat) (flips : Nat) (v : State) => all = (causes.filter fun c => decide (1 ≤ c ∧ c ≤ 6) && (c ≠ 5 || !fetchPasses v n addr got))) test_meets_TilesRecoverOrAreFenced_3_s test_meets_TilesRecoverOrAreFenced_3_n test_meets_TilesRecoverOrAreFenced_3_causes test_meets_TilesRecoverOrAreFenced_3_all test_meets_TilesRecoverOrAreFenced_3_offset test_meets_TilesRecoverOrAreFenced_3_addr test_meets_TilesRecoverOrAreFenced_3_got test_meets_TilesRecoverOrAreFenced_3_flips test_meets_TilesRecoverOrAreFenced_3_v := by
  beta_reduce
  decide
theorem test_meets_TilesRecoverOrAreFenced_3_h5 : (fun (s : State) (n : Fin 20) (causes : List Nat) (all : List Nat) (offset : Nat) (addr : Nat) (got : Nat) (flips : Nat) (v : State) => all ≠ []) test_meets_TilesRecoverOrAreFenced_3_s test_meets_TilesRecoverOrAreFenced_3_n test_meets_TilesRecoverOrAreFenced_3_causes test_meets_TilesRecoverOrAreFenced_3_all test_meets_TilesRecoverOrAreFenced_3_offset test_meets_TilesRecoverOrAreFenced_3_addr test_meets_TilesRecoverOrAreFenced_3_got test_meets_TilesRecoverOrAreFenced_3_flips test_meets_TilesRecoverOrAreFenced_3_v := by
  beta_reduce
  decide
theorem test_meets_TilesRecoverOrAreFenced_3_h6 : (fun (s : State) (n : Fin 20) (causes : List Nat) (all : List Nat) (offset : Nat) (addr : Nat) (got : Nat) (flips : Nat) (v : State) => s.tiles[n].running.isSome = true) test_meets_TilesRecoverOrAreFenced_3_s test_meets_TilesRecoverOrAreFenced_3_n test_meets_TilesRecoverOrAreFenced_3_causes test_meets_TilesRecoverOrAreFenced_3_all test_meets_TilesRecoverOrAreFenced_3_offset test_meets_TilesRecoverOrAreFenced_3_addr test_meets_TilesRecoverOrAreFenced_3_got test_meets_TilesRecoverOrAreFenced_3_flips test_meets_TilesRecoverOrAreFenced_3_v := by
  beta_reduce
  decide
theorem test_meets_TilesRecoverOrAreFenced_3_h7 : (fun (s : State) (n : Fin 20) (causes : List Nat) (all : List Nat) (offset : Nat) (addr : Nat) (got : Nat) (flips : Nat) (v : State) => 5 ∈ all) test_meets_TilesRecoverOrAreFenced_3_s test_meets_TilesRecoverOrAreFenced_3_n test_meets_TilesRecoverOrAreFenced_3_causes test_meets_TilesRecoverOrAreFenced_3_all test_meets_TilesRecoverOrAreFenced_3_offset test_meets_TilesRecoverOrAreFenced_3_addr test_meets_TilesRecoverOrAreFenced_3_got test_meets_TilesRecoverOrAreFenced_3_flips test_meets_TilesRecoverOrAreFenced_3_v := by
  beta_reduce
  decide
theorem test_meets_TilesRecoverOrAreFenced_3_h8 : (fun (s : State) (n : Fin 20) (causes : List Nat) (all : List Nat) (offset : Nat) (addr : Nat) (got : Nat) (flips : Nat) (v : State) => s.tiles[n].lastFailAddr = some addr) test_meets_TilesRecoverOrAreFenced_3_s test_meets_TilesRecoverOrAreFenced_3_n test_meets_TilesRecoverOrAreFenced_3_causes test_meets_TilesRecoverOrAreFenced_3_all test_meets_TilesRecoverOrAreFenced_3_offset test_meets_TilesRecoverOrAreFenced_3_addr test_meets_TilesRecoverOrAreFenced_3_got test_meets_TilesRecoverOrAreFenced_3_flips test_meets_TilesRecoverOrAreFenced_3_v := by
  beta_reduce
  decide
theorem test_meets_TilesRecoverOrAreFenced_3 : ∃ (s : State) (n : Fin 20) (causes : List Nat) (all : List Nat) (offset : Nat) (addr : Nat) (got : Nat) (flips : Nat) (v : State),
      (v = (if flips = 0 ∨ controlWords ≤ got then s else upsetWord n got flips s)) ∧
      s.tiles[n].healthy = true ∧
      s.tiles[n].restarting = false ∧
      s.tiles[n].seq.faults = [] ∧
      all = (causes.filter fun c => decide (1 ≤ c ∧ c ≤ 6) && (c ≠ 5 || !fetchPasses v n addr got)) ∧
      all ≠ [] ∧
      s.tiles[n].running.isSome = true ∧
      5 ∈ all ∧
      s.tiles[n].lastFailAddr = some addr :=
  ⟨test_meets_TilesRecoverOrAreFenced_3_s, test_meets_TilesRecoverOrAreFenced_3_n, test_meets_TilesRecoverOrAreFenced_3_causes, test_meets_TilesRecoverOrAreFenced_3_all, test_meets_TilesRecoverOrAreFenced_3_offset, test_meets_TilesRecoverOrAreFenced_3_addr, test_meets_TilesRecoverOrAreFenced_3_got, test_meets_TilesRecoverOrAreFenced_3_flips, test_meets_TilesRecoverOrAreFenced_3_v, test_meets_TilesRecoverOrAreFenced_3_h0, test_meets_TilesRecoverOrAreFenced_3_h1, test_meets_TilesRecoverOrAreFenced_3_h2, test_meets_TilesRecoverOrAreFenced_3_h3, test_meets_TilesRecoverOrAreFenced_3_h4, test_meets_TilesRecoverOrAreFenced_3_h5, test_meets_TilesRecoverOrAreFenced_3_h6, test_meets_TilesRecoverOrAreFenced_3_h7, test_meets_TilesRecoverOrAreFenced_3_h8⟩

theorem test_meets_TilesRecoverOrAreFenced_4 : ∃ (s : State) (n : Fin 20) (causes : List Nat) (all : List Nat) (offset : Nat) (addr : Nat) (got : Nat) (flips : Nat) (v : State),
      (v = (if flips = 0 ∨ controlWords ≤ got then s else upsetWord n got flips s)) ∧
      s.tiles[n].healthy = true ∧
      s.tiles[n].restarting = false ∧
      s.tiles[n].seq.faults = [] ∧
      all = (causes.filter fun c => decide (1 ≤ c ∧ c ≤ 6) && (c ≠ 5 || !fetchPasses v n addr got)) ∧
      all ≠ [] ∧
      s.tiles[n].running = none ∧
      5 ∉ all :=
  ⟨(tileState (fun t => { t with powered := true }) State.reset : State), 3, [2], [2], 0, 7, 7, 0, tileState (fun t => { t with powered := true }) State.reset, rfl, by decide, by decide, by decide, rfl, by decide, by decide, by decide⟩

def test_meets_TilesRecoverOrAreFenced_5_s : State := tileState (fun t => { t with powered := true }) State.reset
def test_meets_TilesRecoverOrAreFenced_5_n : Fin 20 := 3
def test_meets_TilesRecoverOrAreFenced_5_causes : List Nat := [5]
def test_meets_TilesRecoverOrAreFenced_5_all : List Nat := [5]
def test_meets_TilesRecoverOrAreFenced_5_offset : Nat := 0
def test_meets_TilesRecoverOrAreFenced_5_addr : Nat := 5000
def test_meets_TilesRecoverOrAreFenced_5_got : Nat := 5000
def test_meets_TilesRecoverOrAreFenced_5_flips : Nat := 1
def test_meets_TilesRecoverOrAreFenced_5_v : State := upsetWord 3 5000 1 (tileState (fun t => { t with powered := true }) State.reset)
theorem test_meets_TilesRecoverOrAreFenced_5_h0 : (fun (s : State) (n : Fin 20) (causes : List Nat) (all : List Nat) (offset : Nat) (addr : Nat) (got : Nat) (flips : Nat) (v : State) => v = (if flips = 0 ∨ controlWords ≤ got then s else upsetWord n got flips s)) test_meets_TilesRecoverOrAreFenced_5_s test_meets_TilesRecoverOrAreFenced_5_n test_meets_TilesRecoverOrAreFenced_5_causes test_meets_TilesRecoverOrAreFenced_5_all test_meets_TilesRecoverOrAreFenced_5_offset test_meets_TilesRecoverOrAreFenced_5_addr test_meets_TilesRecoverOrAreFenced_5_got test_meets_TilesRecoverOrAreFenced_5_flips test_meets_TilesRecoverOrAreFenced_5_v := by
  beta_reduce
  exact rfl
theorem test_meets_TilesRecoverOrAreFenced_5_h1 : (fun (s : State) (n : Fin 20) (causes : List Nat) (all : List Nat) (offset : Nat) (addr : Nat) (got : Nat) (flips : Nat) (v : State) => s.tiles[n].healthy = true) test_meets_TilesRecoverOrAreFenced_5_s test_meets_TilesRecoverOrAreFenced_5_n test_meets_TilesRecoverOrAreFenced_5_causes test_meets_TilesRecoverOrAreFenced_5_all test_meets_TilesRecoverOrAreFenced_5_offset test_meets_TilesRecoverOrAreFenced_5_addr test_meets_TilesRecoverOrAreFenced_5_got test_meets_TilesRecoverOrAreFenced_5_flips test_meets_TilesRecoverOrAreFenced_5_v := by
  beta_reduce
  decide
theorem test_meets_TilesRecoverOrAreFenced_5_h2 : (fun (s : State) (n : Fin 20) (causes : List Nat) (all : List Nat) (offset : Nat) (addr : Nat) (got : Nat) (flips : Nat) (v : State) => s.tiles[n].restarting = false) test_meets_TilesRecoverOrAreFenced_5_s test_meets_TilesRecoverOrAreFenced_5_n test_meets_TilesRecoverOrAreFenced_5_causes test_meets_TilesRecoverOrAreFenced_5_all test_meets_TilesRecoverOrAreFenced_5_offset test_meets_TilesRecoverOrAreFenced_5_addr test_meets_TilesRecoverOrAreFenced_5_got test_meets_TilesRecoverOrAreFenced_5_flips test_meets_TilesRecoverOrAreFenced_5_v := by
  beta_reduce
  decide
theorem test_meets_TilesRecoverOrAreFenced_5_h3 : (fun (s : State) (n : Fin 20) (causes : List Nat) (all : List Nat) (offset : Nat) (addr : Nat) (got : Nat) (flips : Nat) (v : State) => s.tiles[n].seq.faults = []) test_meets_TilesRecoverOrAreFenced_5_s test_meets_TilesRecoverOrAreFenced_5_n test_meets_TilesRecoverOrAreFenced_5_causes test_meets_TilesRecoverOrAreFenced_5_all test_meets_TilesRecoverOrAreFenced_5_offset test_meets_TilesRecoverOrAreFenced_5_addr test_meets_TilesRecoverOrAreFenced_5_got test_meets_TilesRecoverOrAreFenced_5_flips test_meets_TilesRecoverOrAreFenced_5_v := by
  beta_reduce
  decide
theorem test_meets_TilesRecoverOrAreFenced_5_h4 : (fun (s : State) (n : Fin 20) (causes : List Nat) (all : List Nat) (offset : Nat) (addr : Nat) (got : Nat) (flips : Nat) (v : State) => all = (causes.filter fun c => decide (1 ≤ c ∧ c ≤ 6) && (c ≠ 5 || !fetchPasses v n addr got))) test_meets_TilesRecoverOrAreFenced_5_s test_meets_TilesRecoverOrAreFenced_5_n test_meets_TilesRecoverOrAreFenced_5_causes test_meets_TilesRecoverOrAreFenced_5_all test_meets_TilesRecoverOrAreFenced_5_offset test_meets_TilesRecoverOrAreFenced_5_addr test_meets_TilesRecoverOrAreFenced_5_got test_meets_TilesRecoverOrAreFenced_5_flips test_meets_TilesRecoverOrAreFenced_5_v := by
  beta_reduce
  decide
theorem test_meets_TilesRecoverOrAreFenced_5_h5 : (fun (s : State) (n : Fin 20) (causes : List Nat) (all : List Nat) (offset : Nat) (addr : Nat) (got : Nat) (flips : Nat) (v : State) => all ≠ []) test_meets_TilesRecoverOrAreFenced_5_s test_meets_TilesRecoverOrAreFenced_5_n test_meets_TilesRecoverOrAreFenced_5_causes test_meets_TilesRecoverOrAreFenced_5_all test_meets_TilesRecoverOrAreFenced_5_offset test_meets_TilesRecoverOrAreFenced_5_addr test_meets_TilesRecoverOrAreFenced_5_got test_meets_TilesRecoverOrAreFenced_5_flips test_meets_TilesRecoverOrAreFenced_5_v := by
  beta_reduce
  decide
theorem test_meets_TilesRecoverOrAreFenced_5_h6 : (fun (s : State) (n : Fin 20) (causes : List Nat) (all : List Nat) (offset : Nat) (addr : Nat) (got : Nat) (flips : Nat) (v : State) => s.tiles[n].running = none) test_meets_TilesRecoverOrAreFenced_5_s test_meets_TilesRecoverOrAreFenced_5_n test_meets_TilesRecoverOrAreFenced_5_causes test_meets_TilesRecoverOrAreFenced_5_all test_meets_TilesRecoverOrAreFenced_5_offset test_meets_TilesRecoverOrAreFenced_5_addr test_meets_TilesRecoverOrAreFenced_5_got test_meets_TilesRecoverOrAreFenced_5_flips test_meets_TilesRecoverOrAreFenced_5_v := by
  beta_reduce
  decide
theorem test_meets_TilesRecoverOrAreFenced_5_h7 : (fun (s : State) (n : Fin 20) (causes : List Nat) (all : List Nat) (offset : Nat) (addr : Nat) (got : Nat) (flips : Nat) (v : State) => 5 ∈ all) test_meets_TilesRecoverOrAreFenced_5_s test_meets_TilesRecoverOrAreFenced_5_n test_meets_TilesRecoverOrAreFenced_5_causes test_meets_TilesRecoverOrAreFenced_5_all test_meets_TilesRecoverOrAreFenced_5_offset test_meets_TilesRecoverOrAreFenced_5_addr test_meets_TilesRecoverOrAreFenced_5_got test_meets_TilesRecoverOrAreFenced_5_flips test_meets_TilesRecoverOrAreFenced_5_v := by
  beta_reduce
  decide
theorem test_meets_TilesRecoverOrAreFenced_5 : ∃ (s : State) (n : Fin 20) (causes : List Nat) (all : List Nat) (offset : Nat) (addr : Nat) (got : Nat) (flips : Nat) (v : State),
      (v = (if flips = 0 ∨ controlWords ≤ got then s else upsetWord n got flips s)) ∧
      s.tiles[n].healthy = true ∧
      s.tiles[n].restarting = false ∧
      s.tiles[n].seq.faults = [] ∧
      all = (causes.filter fun c => decide (1 ≤ c ∧ c ≤ 6) && (c ≠ 5 || !fetchPasses v n addr got)) ∧
      all ≠ [] ∧
      s.tiles[n].running = none ∧
      5 ∈ all :=
  ⟨test_meets_TilesRecoverOrAreFenced_5_s, test_meets_TilesRecoverOrAreFenced_5_n, test_meets_TilesRecoverOrAreFenced_5_causes, test_meets_TilesRecoverOrAreFenced_5_all, test_meets_TilesRecoverOrAreFenced_5_offset, test_meets_TilesRecoverOrAreFenced_5_addr, test_meets_TilesRecoverOrAreFenced_5_got, test_meets_TilesRecoverOrAreFenced_5_flips, test_meets_TilesRecoverOrAreFenced_5_v, test_meets_TilesRecoverOrAreFenced_5_h0, test_meets_TilesRecoverOrAreFenced_5_h1, test_meets_TilesRecoverOrAreFenced_5_h2, test_meets_TilesRecoverOrAreFenced_5_h3, test_meets_TilesRecoverOrAreFenced_5_h4, test_meets_TilesRecoverOrAreFenced_5_h5, test_meets_TilesRecoverOrAreFenced_5_h6, test_meets_TilesRecoverOrAreFenced_5_h7⟩

theorem test_meets_TilesRecoverOrAreFenced_6 : ∃ (s : State) (n : Fin 20) (x : Share) (u : State),
      s.tiles[n].runningShare = some x ∧
      s.tiles[n].restarting = true ∧
      u = setTile n (fun t => { t with batch := [] }) (Machine.pass 2 s) ∧
      batchOf u x ≠ [] ∧
      s.tiles[n].lastFailIndex = none :=
  ⟨(tileRedo : State), 3, shareOne, setTile 3 (fun t => { t with batch := [] }) (Machine.pass 2 tileRedo), by decide, by decide, rfl, by decide, by decide⟩

theorem test_meets_TilesRecoverOrAreFenced_7 : ∃ (s : State) (n : Fin 20) (x : Share) (u : State) (k : Nat),
      s.tiles[n].runningShare = some x ∧
      s.tiles[n].restarting = true ∧
      u = setTile n (fun t => { t with batch := [] }) (Machine.pass 2 s) ∧
      batchOf u x ≠ [] ∧
      s.tiles[n].lastFailIndex = some k :=
  ⟨(tileState (fun t => { tileRedo.tiles[0] with lastFailIndex := some 0 }) tileRedo : State), 3, shareOne, setTile 3 (fun t => { t with batch := [] }) (Machine.pass 2 (tileState (fun t => { tileRedo.tiles[0] with lastFailIndex := some 0 }) tileRedo)), 0, by decide, by decide, rfl, by decide, by decide⟩

theorem test_meets_TilesRecoverOrAreFenced_8 : ∃ (s : State) (n : Fin 20) (x : Share) (u : State),
      s.tiles[n].runningShare = some x ∧
      s.tiles[n].restarting = true ∧
      u = setTile n (fun t => { t with batch := [] }) (Machine.pass 2 s) ∧
      batchOf u x = [] :=
  ⟨(tileRun (fun t => { t with restarting := true }) : State), 3, shareOne, setTile 3 (fun t => { t with batch := [] }) (Machine.pass 2 (tileRun (fun t => { t with restarting := true }))), by decide, by decide, rfl, by decide⟩

theorem test_meets_TilesRecoverOrAreFenced_9 : ∃ (s : State) (n : Fin 20),
      s.tiles[n].running.isSome = true ∧
      s.tiles[n].restarting = false :=
  ⟨(tileRun id : State), 3, by decide, by decide⟩

theorem test_meets_TilesRecoverOrAreFenced_10 : ∃ (s : State) (n : Fin 20) (addr : Nat) (got : Nat) (flips : Nat) (v : State),
      s.tiles[n].healthy = true ∧
      addr < 8192 ∧
      (v = (if flips = 0 ∨ controlWords ≤ got then s else upsetWord n got flips s)) ∧
      fetchPasses v n addr got = false ∧
      addr ∉ s.tiles[n].scrubFails :=
  ⟨(State.reset : State), 3, 5000, 5000, 1, upsetWord 3 5000 1 State.reset, by decide, by decide, rfl, by decide, by decide⟩

theorem test_meets_TilesRecoverOrAreFenced_11 : ∃ (s : State) (n : Fin 20) (addr : Nat) (got : Nat) (flips : Nat) (v : State),
      s.tiles[n].healthy = true ∧
      addr < 8192 ∧
      (v = (if flips = 0 ∨ controlWords ≤ got then s else upsetWord n got flips s)) ∧
      fetchPasses v n addr got = false ∧
      addr ∈ s.tiles[n].scrubFails :=
  ⟨(tileState (fun t => { t with scrubFails := [5000] }) State.reset : State), 3, 5000, 5000, 1, upsetWord 3 5000 1 (tileState (fun t => { t with scrubFails := [5000] }) State.reset), by decide, by decide, rfl, by decide, by decide⟩

theorem test_meets_TilesRecoverOrAreFenced_12 : ∃ (s : State) (n : Fin 20) (addr : Nat) (got : Nat) (flips : Nat) (v : State),
      s.tiles[n].healthy = true ∧
      addr < 8192 ∧
      (v = (if flips = 0 ∨ controlWords ≤ got then s else upsetWord n got flips s)) ∧
      fetchPasses v n addr got = true :=
  ⟨(State.reset : State), 3, 5000, 5000, 0, State.reset, by decide, by decide, rfl, by decide⟩

theorem test_meets_TilesRecoverOrAreFenced_13 : ∃ (s : State) (n : Fin 20),
      s.tiles[n].state = .fenced :=
  ⟨(tileState (fun t => { t with state := .fenced }) State.reset : State), 3, by decide⟩

theorem test_meets_TilesRecoverOrAreFenced_14 : ∃ (s : State) (n : Fin 20) (x : Share) (tk : Task),
      s.tiles[n].state = .fenced ∧
      s.tiles[n].shares = [x] ∧
      x.role = srMain ∧
      findTask s x.task = some tk ∧
      x.sixteenths ≤ ((chooseWhat s x.sixteenths tk.footprint true).map Prod.snd).sum :=
  ⟨(fencedTile : State), 3, shareOne, taskOne, by decide, by decide, by decide, rfl, by decide⟩

theorem test_meets_TilesRecoverOrAreFenced_15 : ∃ (s : State) (n : Fin 20) (x : Share),
      s.tiles[n].state = .fenced ∧
      s.tiles[n].shares = [x] ∧
      x.role = srRetro ∧
      openTiles s (2 ^ 20 - 1) (shareFoot s x) false = [] :=
  ⟨({ fencedTile with tiles := Vector.replicate 20 { Tile.reset with state := .fenced, shares := [{ shareOne with role := 2 }] } } : State), 3, { shareOne with role := 2 }, by decide, by decide, by decide, by decide⟩

theorem test_meets_TilesRecoverOrAreFenced_16 : ∃ (s : State) (id : U32) (k : Task) (b : Backfill),
      findTask s id.toNat = some k ∧
      k.backfill = some b ∧
      b.indices = [] ∧
      b.fine = [] :=
  ⟨(taskState (fun t => { t with backfill := some backOne }) State.reset : State), 1, { taskOne with backfill := some backOne }, backOne, rfl, by decide, by decide, by decide⟩

theorem test_meets_TriggersAndAcquisitionsAreConfigured_1 : ∃ (s : State) (id : Nat) (c : Cmd) (k : Fin 32) (points : HostRead) (u : State),
      Runs s id 0x0400 (fun c => !unitQuery c) c ∧
      Passes [entryCheck c ([(0x08, 1), (0x09, 1), (0x0A, 2), (0x0C, 4), (0x10, 8), (0x18, 2), (0x1C, 4)] ++ kindFields (c.p8 0x09)) [(0x0A, decide (c.p16 0x0A = 0)), (0x08, true)], deviceCheck u c, needState (!unitInUse u k), unitParams u k c] ∧
      u = squallDue s ∧
      c.p8 0x08 = k.val ∧
      (unitCfgOf c).kind ≠ tkFmask :=
  ⟨(cmdState 0x0400 [(0x08, [3, 0])] id : State), 1, cmdOf 0x0400 [(0x08, [3, 0])], 3, none, (squallDue (cmdState 0x0400 [(0x08, [3, 0])] id : State)), ⟨rfl, rfl, rfl, rfl, rfl⟩, by decide, rfl, by decide, by decide⟩

theorem test_meets_TriggersAndAcquisitionsAreConfigured_2 : ∃ (s : State) (id : Nat) (c : Cmd) (k : Fin 32) (d : Data) (t : Task) (u : State),
      Runs s id 0x0400 (fun c => !unitQuery c) c ∧
      Passes [entryCheck c ([(0x08, 1), (0x09, 1), (0x0A, 2), (0x0C, 4), (0x10, 8), (0x18, 2), (0x1C, 4)] ++ kindFields (c.p8 0x09)) [(0x0A, decide (c.p16 0x0A = 0)), (0x08, true)], deviceCheck u c, needState (!unitInUse u k), unitParams u k c] ∧
      u = squallDue s ∧
      c.p8 0x08 = k.val ∧
      (unitCfgOf c).kind = tkFmask ∧
      findTask u (unitCfgOf c).source = some t ∧
      Passes [pointChecks t.coarseBins (c.p16 0x20) (c.p16 0x22) d] :=
  ⟨(cmdState 0x0400 [(0x08, [3, 1]), (0x0C, le 4 1), (0x20, [1, 0, 0, 0, 1, 0, 3])] (taskState id) : State), 1, cmdOf 0x0400 [(0x08, [3, 1]), (0x0C, le 4 1), (0x20, [1, 0, 0, 0, 1, 0, 3])], 3, zeros 8, taskOne, (squallDue (cmdState 0x0400 [(0x08, [3, 1]), (0x0C, le 4 1), (0x20, [1, 0, 0, 0, 1, 0, 3])] (taskState id) : State)), ⟨rfl, rfl, rfl, rfl, rfl⟩, by decide, rfl, by decide, by decide, rfl, by decide⟩

theorem test_meets_TriggersAndAcquisitionsAreConfigured_3 : ∃ (s : State) (id : Nat) (c : Cmd) (k : Fin 32),
      Runs s id 0x0400 unitQuery c ∧
      Passes [params [(0x08, true), (0x10, aligned64 (c.p64 0x10))], deviceCheck s c] ∧
      c.p8 0x08 = k.val :=
  ⟨(cmdState 0x0400 [(0x08, [3, 0, 1])] id : State), 1, cmdOf 0x0400 [(0x08, [3, 0, 1])], 3, ⟨rfl, rfl, rfl, rfl, rfl⟩, by decide, by decide⟩

theorem test_meets_TriggersAndAcquisitionsAreConfigured_4 : ∃ (s : State) (id : Nat) (c : Cmd) (m : Fin 16) (u : State),
      Runs s id 0x0401 (fun c => !matrixQuery c) c ∧
      Passes [entryCheck c [(0x08, 1), (0x09, 1), (0x0A, 1), (0x0C, 4), (0x10, 32), (0x30, 4), (0x34, 2), (0x38, 4)] [(0x08, true), (0x09, decide (c.p8 0x09 % 128 < 4))], deviceCheck u c, needState (!u.squall.ats[m].armed),
        params [(0x09, bit (c.p8 0x09) 0 || (fourWords c 0x20).all (· = 0)), (0x0A, decide (c.p8 0x0A < 16)), (0x0C, decide (c.p32 0x0C ≤ 1048576)),
          (0x30, !bit (c.p8 0x09) 0 || decide (1 ≤ c.p32 0x30))]] ∧
      u = squallDue s ∧
      c.p8 0x08 = m.val :=
  ⟨(cmdState 0x0401 [(0x08, [2])] id : State), 1, cmdOf 0x0401 [(0x08, [2])], 2, (squallDue (cmdState 0x0401 [(0x08, [2])] id : State)), ⟨rfl, rfl, rfl, rfl, rfl⟩, by decide, rfl, by decide⟩

theorem test_meets_TriggersAndAcquisitionsAreConfigured_5 : ∃ (s : State) (id : Nat) (c : Cmd) (m : Fin 16) (u : State),
      Runs s id 0x0401 matrixQuery c ∧
      Passes [params [(0x08, true), (0x10, aligned64 (c.p64 0x10))], deviceCheck u c] ∧
      u = squallDue s ∧
      c.p8 0x08 = m.val :=
  ⟨(cmdState 0x0401 [(0x08, [2, 128])] id : State), 1, cmdOf 0x0401 [(0x08, [2, 128])], 2, (squallDue (cmdState 0x0401 [(0x08, [2, 128])] id : State)), ⟨rfl, rfl, rfl, rfl, rfl⟩, by decide, rfl, by decide⟩

theorem test_meets_TriggersAndAcquisitionsAreConfigured_6 : ∃ (s : State) (id : Nat) (c : Cmd) (m : Fin 16) (d : Data) (u : State),
      Runs s id 0x0402 anyCmd c ∧
      Passes [entryCheck c [(0x08, 4), (0x10, 8)] [], deviceCheck u c, params [(0x08, decide (c.p32 0x08 = 256)), (0x10, aligned64 (c.p64 0x10))]] ∧
      u = squallDue s ∧
      u8At d 2 = m.val ∧
      u8At d 3 = 255 ∧
      Passes [descParams ([(0x00, decide (u16At d 0 = 1)), (0x02, true)] ++ strayBytes d 0x42 0x44 [] ++ strayBytes d 0x50 0x100 []), needState (!u.squall.ats[m].armed && u.squall.ats[m].registerCmd.isNone)] :=
  ⟨(cmdState 0x0402 [(0x08, le 4 256)] id : State), 1, cmdOf 0x0402 [(0x08, le 4 256)], 2, block 256 [(0, [1, 0, 2, 255])], (squallDue (cmdState 0x0402 [(0x08, le 4 256)] id : State)), ⟨rfl, rfl, rfl, rfl, rfl⟩, by decide, rfl, by decide, by decide, by decide⟩

theorem test_meets_TriggersAndAcquisitionsAreConfigured_7 : ∃ (s : State) (id : Nat) (c : Cmd) (m : Fin 16) (d : Data) (u : State),
      Runs s id 0x0402 anyCmd c ∧
      Passes [entryCheck c [(0x08, 4), (0x10, 8)] [], deviceCheck u c, params [(0x08, decide (c.p32 0x08 = 256)), (0x10, aligned64 (c.p64 0x10))]] ∧
      u = squallDue s ∧
      u8At d 2 = m.val ∧
      u8At d 3 < 2 ∧
      Passes [descParams ([(0x00, decide (u16At d 0 = 1)), (0x02, true)] ++ strayBytes d 0x42 0x44 [] ++ strayBytes d 0x50 0x100 []), needState (!u.squall.ats[m].armed && u.squall.ats[m].registerCmd.isNone), acqChecks u (acqDefOf d), need (retentionFits u m (acqDefOf d)) stNoResource 0] :=
  ⟨(cmdState 0x0402 [(0x08, le 4 256)] (runningInlets) : State), 1, cmdOf 0x0402 [(0x08, le 4 256)], 2, acqRaw, (squallDue (cmdState 0x0402 [(0x08, le 4 256)] (runningInlets) : State)), ⟨rfl, rfl, rfl, rfl, rfl⟩, by decide, rfl, by decide, by decide, by decide⟩

theorem test_meets_TriggersAndAcquisitionsAreConfigured_8 : ∃ (s : State) (id : Nat) (c : Cmd) (m : Fin 16) (d : Data) (u : State) (v : State),
      Runs s id 0x0402 anyCmd c ∧
      Passes [entryCheck c [(0x08, 4), (0x10, 8)] [], deviceCheck u c, params [(0x08, decide (c.p32 0x08 = 256)), (0x10, aligned64 (c.p64 0x10))]] ∧
      u = squallDue s ∧
      u8At d 2 = m.val ∧
      2 ≤ u8At d 3 ∧
      u8At d 3 ≠ 255 ∧
      u16At d 0x40 = u.link.did ∧
      Passes [descParams ([(0x00, decide (u16At d 0 = 1)), (0x02, true)] ++ strayBytes d 0x42 0x44 [] ++ strayBytes d 0x50 0x100 []), needState (!u.squall.ats[m].armed && u.squall.ats[m].registerCmd.isNone), acqChecks u (acqDefOf d), need (retentionFits u m (acqDefOf d)) stNoResource 0] ∧
      v = putDefinition m (acqDefOf d) u :=
  ⟨(cmdState 0x0402 [(0x08, le 4 256)] (fun s => linked id (runningInlets s)) : State), 1, cmdOf 0x0402 [(0x08, le 4 256)], 2, putAt (putAt acqRaw 3 [2]) 0x40 [5], (squallDue (cmdState 0x0402 [(0x08, le 4 256)] (fun s => linked id (runningInlets s)) : State)), (putDefinition 2 (acqDefOf (putAt (putAt acqRaw 3 [2]) 0x40 [5] : Data)) ((squallDue (cmdState 0x0402 [(0x08, le 4 256)] (fun s => linked id (runningInlets s)) : State)) : State)), ⟨rfl, rfl, rfl, rfl, rfl⟩, by decide, rfl, by decide, by decide, by decide, by decide, by decide, rfl⟩

theorem test_meets_TriggersAndAcquisitionsAreConfigured_9 : ∃ (s : State) (id : Nat) (c : Cmd) (m : Fin 16) (d : Data) (u : State),
      Runs s id 0x0402 anyCmd c ∧
      Passes [entryCheck c [(0x08, 4), (0x10, 8)] [], deviceCheck u c, params [(0x08, decide (c.p32 0x08 = 256)), (0x10, aligned64 (c.p64 0x10))]] ∧
      u = squallDue s ∧
      u8At d 2 = m.val ∧
      2 ≤ u8At d 3 ∧
      u8At d 3 ≠ 255 ∧
      u16At d 0x40 ≠ u.link.did ∧
      Passes [descParams ([(0x00, decide (u16At d 0 = 1)), (0x02, true)] ++ strayBytes d 0x42 0x44 [] ++ strayBytes d 0x50 0x100 []), needState (!u.squall.ats[m].armed && u.squall.ats[m].registerCmd.isNone), acqChecks u (acqDefOf d), need (retentionFits u m (acqDefOf d)) stNoResource 0] :=
  ⟨(cmdState 0x0402 [(0x08, le 4 256)] (runningInlets) : State), 1, cmdOf 0x0402 [(0x08, le 4 256)], 2, putAt (putAt acqRaw 3 [2]) 0x40 [9], (squallDue (cmdState 0x0402 [(0x08, le 4 256)] (runningInlets) : State)), ⟨rfl, rfl, rfl, rfl, rfl⟩, by decide, rfl, by decide, by decide, by decide, by decide, by decide⟩

theorem test_meets_AcquisitionTriggersArmFireAndDisarm_1 : ∃ (s : State) (id : Nat) (c : Cmd) (u : State),
      Runs s id 0x0403 anyCmd c ∧
      Passes [entryCheck c [(0x08, 2)] [], deviceCheck u c, needState ((atsOf (c.p16 0x08)).all (armable u))] ∧
      u = squallDue s ∧
      (atsOf (c.p16 0x08)).all (recordFits u) = true ∧
      (atsOf (c.p16 0x08)).any (fun m => u.squall.ats[m].group) = false :=
  ⟨(cmdState 0x0403 [(0x08, [4])] (atReady) : State), 1, cmdOf 0x0403 [(0x08, [4])], (squallDue (cmdState 0x0403 [(0x08, [4])] (atReady) : State)), ⟨rfl, rfl, rfl, rfl, rfl⟩, by decide, rfl, by decide, by decide⟩

theorem test_meets_AcquisitionTriggersArmFireAndDisarm_2 : ∃ (s : State) (id : Nat) (c : Cmd) (u : State),
      Runs s id 0x0403 anyCmd c ∧
      Passes [entryCheck c [(0x08, 2)] [], deviceCheck u c, needState ((atsOf (c.p16 0x08)).all (armable u))] ∧
      u = squallDue s ∧
      (atsOf (c.p16 0x08)).all (recordFits u) = true ∧
      (atsOf (c.p16 0x08)).any (fun m => u.squall.ats[m].group) = true :=
  ⟨(cmdState 0x0403 [(0x08, [4])] (atGroup) : State), 1, cmdOf 0x0403 [(0x08, [4])], (squallDue (cmdState 0x0403 [(0x08, [4])] (atGroup) : State)), ⟨rfl, rfl, rfl, rfl, rfl⟩, by decide, rfl, by decide, by decide⟩

theorem test_meets_AcquisitionTriggersArmFireAndDisarm_3 : ∃ (s : State) (id : Nat) (c : Cmd) (m : Fin 16) (u : State),
      Runs s id 0x0403 anyCmd c ∧
      Passes [entryCheck c [(0x08, 2)] [], deviceCheck u c, needState ((atsOf (c.p16 0x08)).all (armable u))] ∧
      u = squallDue s ∧
      (atsOf (c.p16 0x08)).all (recordFits u) = true ∧
      atsOf (c.p16 0x08) = [m] ∧
      u.squall.ats[m].group = false :=
  ⟨(cmdState 0x0403 [(0x08, [4])] (atReady) : State), 1, cmdOf 0x0403 [(0x08, [4])], 2, (squallDue (cmdState 0x0403 [(0x08, [4])] (atReady) : State)), ⟨rfl, rfl, rfl, rfl, rfl⟩, by decide, rfl, by decide, by decide, by decide⟩

theorem test_meets_AcquisitionTriggersArmFireAndDisarm_4 : ∃ (s : State) (id : Nat) (c : Cmd) (m : Fin 16) (u : State),
      Runs s id 0x0404 anyCmd c ∧
      Passes [entryCheck c [(0x08, 2), (0x0A, 1)] [(0x0A, decide (c.p8 0x0A < 2))], deviceCheck u c] ∧
      u = squallDue s ∧
      atsOf (c.p16 0x08) = [m] ∧
      u.squall.ats[m].armed = true ∧
      u.squall.ats[m].disarmTick = none ∧
      u.squall.ats[m].group = false :=
  ⟨(cmdState 0x0404 [(0x08, [4])] (atArmed) : State), 1, cmdOf 0x0404 [(0x08, [4])], 2, (squallDue (cmdState 0x0404 [(0x08, [4])] (atArmed) : State)), ⟨rfl, rfl, rfl, rfl, rfl⟩, by decide, rfl, by decide, by decide, by decide, by decide⟩

theorem test_meets_AcquisitionTriggersArmFireAndDisarm_5 : ∃ (s : State) (id : Nat) (c : Cmd) (m : Fin 16) (u : State) (w : State),
      Runs s id 0x0404 anyCmd c ∧
      Passes [entryCheck c [(0x08, 2), (0x0A, 1)] [(0x0A, decide (c.p8 0x0A < 2))], deviceCheck u c] ∧
      u = squallDue s ∧
      w = beginDisarm m (u.clk.tick + 128000) (bit (c.p8 0x0A) 0) u ∧
      atsOf (c.p16 0x08) = [m] ∧
      u.squall.ats[m].armed = true ∧
      u.squall.ats[m].disarmTick = none ∧
      u.squall.ats[m].group = true ∧
      w.squall.ats[m].group = true :=
  ⟨(cmdState 0x0404 [(0x08, [4])] (atGroupArmed) : State), 1, cmdOf 0x0404 [(0x08, [4])], 2, (squallDue (cmdState 0x0404 [(0x08, [4])] (atGroupArmed) : State)), (beginDisarm 2 ((squallDue (cmdState 0x0404 [(0x08, [4])] (atGroupArmed) : State)).clk.tick + 128000) false (squallDue (cmdState 0x0404 [(0x08, [4])] (atGroupArmed) : State))), ⟨rfl, rfl, rfl, rfl, rfl⟩, by decide, rfl, rfl, by decide, by decide, by decide, by decide, by decide⟩

theorem test_meets_AcquisitionTriggersArmFireAndDisarm_6 : ∃ (s : State) (id : Nat) (c : Cmd) (m : Fin 16) (u : State),
      Runs s id 0x0404 anyCmd c ∧
      Passes [entryCheck c [(0x08, 2), (0x0A, 1)] [(0x0A, decide (c.p8 0x0A < 2))], deviceCheck u c] ∧
      u = squallDue s ∧
      atsOf (c.p16 0x08) = [m] ∧
      u.squall.ats[m].armed = false :=
  ⟨(cmdState 0x0404 [(0x08, [4])] id : State), 1, cmdOf 0x0404 [(0x08, [4])], 2, (squallDue (cmdState 0x0404 [(0x08, [4])] id : State)), ⟨rfl, rfl, rfl, rfl, rfl⟩, by decide, rfl, by decide, by decide⟩

def test_meets_AcquisitionTriggersArmFireAndDisarm_7_s : State := { atArmed State.reset with mbx := { State.reset.mbx with cmds := [cmdOf 0x0404 []] }, squall := { (atArmed State.reset).squall with pendingDisarms := [⟨some 1, 4, 5, 9, 0⟩] } }
def test_meets_AcquisitionTriggersArmFireAndDisarm_7_id : Nat := 1
def test_meets_AcquisitionTriggersArmFireAndDisarm_7_d : PendingDisarm := ⟨some 1, 4, 5, 9, 0⟩
def test_meets_AcquisitionTriggersArmFireAndDisarm_7_c : Cmd := cmdOf 0x0404 []
def test_meets_AcquisitionTriggersArmFireAndDisarm_7_v : State := (squallDue (waitTick 9 test_meets_AcquisitionTriggersArmFireAndDisarm_7_s))
def test_meets_AcquisitionTriggersArmFireAndDisarm_7_w : State := (endDisarms ⟨some 1, 4, 5, 9, 0⟩ { test_meets_AcquisitionTriggersArmFireAndDisarm_7_v with squall := { test_meets_AcquisitionTriggersArmFireAndDisarm_7_v.squall with pendingDisarms := test_meets_AcquisitionTriggersArmFireAndDisarm_7_v.squall.pendingDisarms.filter (· ≠ ⟨some 1, 4, 5, 9, 0⟩) } })
theorem test_meets_AcquisitionTriggersArmFireAndDisarm_7_h0 : (fun (s : State) (id : Nat) (d : PendingDisarm) (c : Cmd) (v : State) (w : State) => s.squall.pendingDisarms.find? (fun d => d.cmd = some id) = some d) test_meets_AcquisitionTriggersArmFireAndDisarm_7_s test_meets_AcquisitionTriggersArmFireAndDisarm_7_id test_meets_AcquisitionTriggersArmFireAndDisarm_7_d test_meets_AcquisitionTriggersArmFireAndDisarm_7_c test_meets_AcquisitionTriggersArmFireAndDisarm_7_v test_meets_AcquisitionTriggersArmFireAndDisarm_7_w := by
  beta_reduce
  decide
theorem test_meets_AcquisitionTriggersArmFireAndDisarm_7_h1 : (fun (s : State) (id : Nat) (d : PendingDisarm) (c : Cmd) (v : State) (w : State) => v = squallDue (waitTick d.due s)) test_meets_AcquisitionTriggersArmFireAndDisarm_7_s test_meets_AcquisitionTriggersArmFireAndDisarm_7_id test_meets_AcquisitionTriggersArmFireAndDisarm_7_d test_meets_AcquisitionTriggersArmFireAndDisarm_7_c test_meets_AcquisitionTriggersArmFireAndDisarm_7_v test_meets_AcquisitionTriggersArmFireAndDisarm_7_w := by
  beta_reduce
  exact rfl
theorem test_meets_AcquisitionTriggersArmFireAndDisarm_7_h2 : (fun (s : State) (id : Nat) (d : PendingDisarm) (c : Cmd) (v : State) (w : State) => w = endDisarms d { v with squall := { v.squall with pendingDisarms := v.squall.pendingDisarms.filter (· ≠ d) } }) test_meets_AcquisitionTriggersArmFireAndDisarm_7_s test_meets_AcquisitionTriggersArmFireAndDisarm_7_id test_meets_AcquisitionTriggersArmFireAndDisarm_7_d test_meets_AcquisitionTriggersArmFireAndDisarm_7_c test_meets_AcquisitionTriggersArmFireAndDisarm_7_v test_meets_AcquisitionTriggersArmFireAndDisarm_7_w := by
  beta_reduce
  exact rfl
theorem test_meets_AcquisitionTriggersArmFireAndDisarm_7_h3 : (fun (s : State) (id : Nat) (d : PendingDisarm) (c : Cmd) (v : State) (w : State) => findCmd w id = some c) test_meets_AcquisitionTriggersArmFireAndDisarm_7_s test_meets_AcquisitionTriggersArmFireAndDisarm_7_id test_meets_AcquisitionTriggersArmFireAndDisarm_7_d test_meets_AcquisitionTriggersArmFireAndDisarm_7_c test_meets_AcquisitionTriggersArmFireAndDisarm_7_v test_meets_AcquisitionTriggersArmFireAndDisarm_7_w := by
  beta_reduce
  decide
theorem test_meets_AcquisitionTriggersArmFireAndDisarm_7 : ∃ (s : State) (id : Nat) (d : PendingDisarm) (c : Cmd) (v : State) (w : State),
      s.squall.pendingDisarms.find? (fun d => d.cmd = some id) = some d ∧
      v = squallDue (waitTick d.due s) ∧
      w = endDisarms d { v with squall := { v.squall with pendingDisarms := v.squall.pendingDisarms.filter (· ≠ d) } } ∧
      findCmd w id = some c :=
  ⟨test_meets_AcquisitionTriggersArmFireAndDisarm_7_s, test_meets_AcquisitionTriggersArmFireAndDisarm_7_id, test_meets_AcquisitionTriggersArmFireAndDisarm_7_d, test_meets_AcquisitionTriggersArmFireAndDisarm_7_c, test_meets_AcquisitionTriggersArmFireAndDisarm_7_v, test_meets_AcquisitionTriggersArmFireAndDisarm_7_w, test_meets_AcquisitionTriggersArmFireAndDisarm_7_h0, test_meets_AcquisitionTriggersArmFireAndDisarm_7_h1, test_meets_AcquisitionTriggersArmFireAndDisarm_7_h2, test_meets_AcquisitionTriggersArmFireAndDisarm_7_h3⟩

theorem test_meets_AcquisitionTriggersArmFireAndDisarm_8 : ∃ (s : State) (id : Nat) (c : Cmd) (m : Fin 16) (u : State),
      Runs s id 0x0405 (fun c => c.p8 0x08 ≠ 1) c ∧
      Passes [entryCheck c forceUsed [(0x08, decide (c.p8 0x08 < 2)), (0x09, true)], deviceCheck u c, needState u.squall.ats[m].armed,
        params [(0x10, decide (u.squall.ats[m].armTick ≤ forceTick c u ∧ forceTick c u ≤ u.clk.tick + 2 ^ 30))]] ∧
      u = squallDue s ∧
      c.p8 0x09 = m.val ∧
      forceTick c u ≤ u.clk.tick :=
  ⟨(cmdState 0x0405 [(0x08, [0, 2])] (atArmed) : State), 1, cmdOf 0x0405 [(0x08, [0, 2])], 2, (squallDue (cmdState 0x0405 [(0x08, [0, 2])] (atArmed) : State)), ⟨rfl, rfl, rfl, rfl, rfl⟩, by decide, rfl, by decide, by decide⟩

theorem test_meets_AcquisitionTriggersArmFireAndDisarm_9 : ∃ (s : State) (id : Nat) (c : Cmd) (m : Fin 16) (u : State),
      Runs s id 0x0405 (fun c => c.p8 0x08 ≠ 1) c ∧
      Passes [entryCheck c forceUsed [(0x08, decide (c.p8 0x08 < 2)), (0x09, true)], deviceCheck u c, needState u.squall.ats[m].armed,
        params [(0x10, decide (u.squall.ats[m].armTick ≤ forceTick c u ∧ forceTick c u ≤ u.clk.tick + 2 ^ 30))]] ∧
      u = squallDue s ∧
      c.p8 0x09 = m.val ∧
      u.clk.tick < forceTick c u :=
  ⟨(cmdState 0x0405 [(0x08, [0, 2]), (0x10, [5])] (atArmed) : State), 1, cmdOf 0x0405 [(0x08, [0, 2]), (0x10, [5])], 2, (squallDue (cmdState 0x0405 [(0x08, [0, 2]), (0x10, [5])] (atArmed) : State)), ⟨rfl, rfl, rfl, rfl, rfl⟩, by decide, rfl, by decide, by decide⟩

theorem test_meets_AcquisitionTriggersArmFireAndDisarm_10 : ∃ (s : State) (id : Nat) (c : Cmd) (k : Fin 32) (u : State),
      Runs s id 0x0405 (selByte 0x08 1) c ∧
      Passes [entryCheck c forceUsed [(0x08, true), (0x09, true)], deviceCheck u c, params [(0x08, decide (u.squall.units[k].cfg.kind = tkSoftware))]] ∧
      u = squallDue s ∧
      c.p8 0x09 = k.val ∧
      forceTick c u ≤ u.clk.tick :=
  ⟨(cmdState 0x0405 [(0x08, [1, 3])] (fun s => { s with squall := { Squall.reset with units := Vector.replicate 32 { TrigUnit.reset with cfg := { UnitCfg.reset with kind := tkSoftware } } } }) : State), 1, cmdOf 0x0405 [(0x08, [1, 3])], 3, (squallDue (cmdState 0x0405 [(0x08, [1, 3])] (fun s => { s with squall := { Squall.reset with units := Vector.replicate 32 { TrigUnit.reset with cfg := { UnitCfg.reset with kind := tkSoftware } } } }) : State)), ⟨rfl, rfl, rfl, rfl, rfl⟩, by decide, rfl, by decide, by decide⟩

theorem test_meets_AcquisitionTriggersArmFireAndDisarm_11 : ∃ (s : State) (id : Nat) (c : Cmd) (k : Fin 32) (u : State),
      Runs s id 0x0405 (selByte 0x08 1) c ∧
      Passes [entryCheck c forceUsed [(0x08, true), (0x09, true)], deviceCheck u c, params [(0x08, decide (u.squall.units[k].cfg.kind = tkSoftware))]] ∧
      u = squallDue s ∧
      c.p8 0x09 = k.val ∧
      u.clk.tick < forceTick c u :=
  ⟨(cmdState 0x0405 [(0x08, [1, 3]), (0x10, [5])] (fun s => { s with squall := { Squall.reset with units := Vector.replicate 32 { TrigUnit.reset with cfg := { UnitCfg.reset with kind := tkSoftware } } } }) : State), 1, cmdOf 0x0405 [(0x08, [1, 3]), (0x10, [5])], 3, (squallDue (cmdState 0x0405 [(0x08, [1, 3]), (0x10, [5])] (fun s => { s with squall := { Squall.reset with units := Vector.replicate 32 { TrigUnit.reset with cfg := { UnitCfg.reset with kind := tkSoftware } } } }) : State)), ⟨rfl, rfl, rfl, rfl, rfl⟩, by decide, rfl, by decide, by decide⟩

theorem test_meets_AcquisitionTriggersArmFireAndDisarm_12 : ∃ (s : State) (p : PendingForce) (l : List PendingForce),
      sortBy (·.tick) s.squall.pendingForces = p :: l :=
  ⟨({ State.reset with squall := { Squall.reset with pendingForces := [⟨1, 3, 77, 0⟩] } } : State), ⟨1, 3, 77, 0⟩, [], by decide⟩

theorem test_meets_GroupsPinsAndCopiesGoOn_1 : ∃ (s : State) (m : Fin 16) (id : Nat) (c : Cmd) (g : AcqDef),
      s.squall.ats[m].registerCmd = some id ∧
      s.squall.ats[m].registering = some g ∧
      findCmd s id = some c :=
  ⟨((fun s => { s with mbx := { s.mbx with cmds := [cmdOf 0x0402 []] } }) (atWith (fun a => { a with registerCmd := some 1, registering := some (acqDefOf acqRaw) }) State.reset) : State), 2, 1, cmdOf 0x0402 [], acqDefOf acqRaw, by decide, rfl, by decide⟩

theorem test_meets_GroupsPinsAndCopiesGoOn_2 : ∃ (s : State) (m : Fin 16) (p : PendingArm) (id : Nat),
      pendingArmOf s m = some p ∧
      p.cmd = some id ∧
      unconfirmed (groupsOf p.mask s) s = [] :=
  ⟨((fun s => { s with squall := { s.squall with pendingArms := [⟨some 1, 4, 50000, false⟩] } }) (atGroup State.reset) : State), 2, ⟨some 1, 4, 50000, false⟩, 1, by decide, by decide, by decide⟩

def test_meets_GroupsPinsAndCopiesGoOn_3_s : State := (fun s => { s with mbx := { s.mbx with cmds := [cmdOf 0x0403 []] }, squall := { s.squall with pendingArms := [⟨some 1, 4, 50000, false⟩] } }) (atWith (fun a => { a with def_ := some { acqDefOf acqRaw with armMode := 2 }, members := [⟨9, 0, false, 1⟩] }) State.reset)
def test_meets_GroupsPinsAndCopiesGoOn_3_m : Fin 16 := 2
def test_meets_GroupsPinsAndCopiesGoOn_3_p : PendingArm := ⟨some 1, 4, 50000, false⟩
def test_meets_GroupsPinsAndCopiesGoOn_3_id : Nat := 1
def test_meets_GroupsPinsAndCopiesGoOn_3_d : Nat := 9
def test_meets_GroupsPinsAndCopiesGoOn_3_l : List Nat := []
def test_meets_GroupsPinsAndCopiesGoOn_3_c : Cmd := cmdOf 0x0403 []
def test_meets_GroupsPinsAndCopiesGoOn_3_w : State := forL (groupsOf 4 test_meets_GroupsPinsAndCopiesGoOn_3_s) (fun g v => forL (v.squall.ats[g].members.filter (·.did ≠ v.link.did)) (fun x v => sendTrig g 4 x.did v.squall.ats[g].armSeq v.clk.tick 0 [] v) v) (waitTick (50000 - 12800) { test_meets_GroupsPinsAndCopiesGoOn_3_s with squall := { test_meets_GroupsPinsAndCopiesGoOn_3_s.squall with pendingArms := test_meets_GroupsPinsAndCopiesGoOn_3_s.squall.pendingArms.filter (· ≠ ⟨some 1, 4, 50000, false⟩) } })
theorem test_meets_GroupsPinsAndCopiesGoOn_3_h0 : (fun (s : State) (m : Fin 16) (p : PendingArm) (id : Nat) (d : Nat) (l : List Nat) (c : Cmd) (w : State) => pendingArmOf s m = some p) test_meets_GroupsPinsAndCopiesGoOn_3_s test_meets_GroupsPinsAndCopiesGoOn_3_m test_meets_GroupsPinsAndCopiesGoOn_3_p test_meets_GroupsPinsAndCopiesGoOn_3_id test_meets_GroupsPinsAndCopiesGoOn_3_d test_meets_GroupsPinsAndCopiesGoOn_3_l test_meets_GroupsPinsAndCopiesGoOn_3_c test_meets_GroupsPinsAndCopiesGoOn_3_w := by
  beta_reduce
  decide
theorem test_meets_GroupsPinsAndCopiesGoOn_3_h1 : (fun (s : State) (m : Fin 16) (p : PendingArm) (id : Nat) (d : Nat) (l : List Nat) (c : Cmd) (w : State) => p.cmd = some id) test_meets_GroupsPinsAndCopiesGoOn_3_s test_meets_GroupsPinsAndCopiesGoOn_3_m test_meets_GroupsPinsAndCopiesGoOn_3_p test_meets_GroupsPinsAndCopiesGoOn_3_id test_meets_GroupsPinsAndCopiesGoOn_3_d test_meets_GroupsPinsAndCopiesGoOn_3_l test_meets_GroupsPinsAndCopiesGoOn_3_c test_meets_GroupsPinsAndCopiesGoOn_3_w := by
  beta_reduce
  decide
theorem test_meets_GroupsPinsAndCopiesGoOn_3_h2 : (fun (s : State) (m : Fin 16) (p : PendingArm) (id : Nat) (d : Nat) (l : List Nat) (c : Cmd) (w : State) => unconfirmed (groupsOf p.mask s) s = d :: l) test_meets_GroupsPinsAndCopiesGoOn_3_s test_meets_GroupsPinsAndCopiesGoOn_3_m test_meets_GroupsPinsAndCopiesGoOn_3_p test_meets_GroupsPinsAndCopiesGoOn_3_id test_meets_GroupsPinsAndCopiesGoOn_3_d test_meets_GroupsPinsAndCopiesGoOn_3_l test_meets_GroupsPinsAndCopiesGoOn_3_c test_meets_GroupsPinsAndCopiesGoOn_3_w := by
  beta_reduce
  decide
theorem test_meets_GroupsPinsAndCopiesGoOn_3_h3 : (fun (s : State) (m : Fin 16) (p : PendingArm) (id : Nat) (d : Nat) (l : List Nat) (c : Cmd) (w : State) => w = forL (groupsOf p.mask s) (fun g v => forL (v.squall.ats[g].members.filter (·.did ≠ v.link.did)) (fun x v => sendTrig g 4 x.did v.squall.ats[g].armSeq v.clk.tick 0 [] v) v)
        (waitTick (p.tick - 12800) { s with squall := { s.squall with pendingArms := s.squall.pendingArms.filter (· ≠ p) } })) test_meets_GroupsPinsAndCopiesGoOn_3_s test_meets_GroupsPinsAndCopiesGoOn_3_m test_meets_GroupsPinsAndCopiesGoOn_3_p test_meets_GroupsPinsAndCopiesGoOn_3_id test_meets_GroupsPinsAndCopiesGoOn_3_d test_meets_GroupsPinsAndCopiesGoOn_3_l test_meets_GroupsPinsAndCopiesGoOn_3_c test_meets_GroupsPinsAndCopiesGoOn_3_w := by
  beta_reduce
  exact rfl
theorem test_meets_GroupsPinsAndCopiesGoOn_3_h4 : (fun (s : State) (m : Fin 16) (p : PendingArm) (id : Nat) (d : Nat) (l : List Nat) (c : Cmd) (w : State) => findCmd w id = some c) test_meets_GroupsPinsAndCopiesGoOn_3_s test_meets_GroupsPinsAndCopiesGoOn_3_m test_meets_GroupsPinsAndCopiesGoOn_3_p test_meets_GroupsPinsAndCopiesGoOn_3_id test_meets_GroupsPinsAndCopiesGoOn_3_d test_meets_GroupsPinsAndCopiesGoOn_3_l test_meets_GroupsPinsAndCopiesGoOn_3_c test_meets_GroupsPinsAndCopiesGoOn_3_w := by
  beta_reduce
  exact rfl
theorem test_meets_GroupsPinsAndCopiesGoOn_3 : ∃ (s : State) (m : Fin 16) (p : PendingArm) (id : Nat) (d : Nat) (l : List Nat) (c : Cmd) (w : State),
      pendingArmOf s m = some p ∧
      p.cmd = some id ∧
      unconfirmed (groupsOf p.mask s) s = d :: l ∧
      w = forL (groupsOf p.mask s) (fun g v => forL (v.squall.ats[g].members.filter (·.did ≠ v.link.did)) (fun x v => sendTrig g 4 x.did v.squall.ats[g].armSeq v.clk.tick 0 [] v) v)
        (waitTick (p.tick - 12800) { s with squall := { s.squall with pendingArms := s.squall.pendingArms.filter (· ≠ p) } }) ∧
      findCmd w id = some c :=
  ⟨test_meets_GroupsPinsAndCopiesGoOn_3_s, test_meets_GroupsPinsAndCopiesGoOn_3_m, test_meets_GroupsPinsAndCopiesGoOn_3_p, test_meets_GroupsPinsAndCopiesGoOn_3_id, test_meets_GroupsPinsAndCopiesGoOn_3_d, test_meets_GroupsPinsAndCopiesGoOn_3_l, test_meets_GroupsPinsAndCopiesGoOn_3_c, test_meets_GroupsPinsAndCopiesGoOn_3_w, test_meets_GroupsPinsAndCopiesGoOn_3_h0, test_meets_GroupsPinsAndCopiesGoOn_3_h1, test_meets_GroupsPinsAndCopiesGoOn_3_h2, test_meets_GroupsPinsAndCopiesGoOn_3_h3, test_meets_GroupsPinsAndCopiesGoOn_3_h4⟩

theorem test_meets_GroupsPinsAndCopiesGoOn_4 : ∃ (s : State) (m : Fin 16) (p : PendingArm),
      pendingArmOf s m = some p ∧
      p.cmd = none :=
  ⟨((fun s => { s with squall := { s.squall with pendingArms := [⟨none, 4, 500, false⟩] } }) (atGroup State.reset) : State), 2, ⟨none, 4, 500, false⟩, by decide, by decide⟩

def test_meets_GroupsPinsAndCopiesGoOn_5_s : State := (fun s => { s with mbx := { s.mbx with cmds := [cmdOf 0x0403 []] }, squall := { s.squall with pendingArms := [⟨some 1, 4, 500, true⟩] } }) (atGroup State.reset)
def test_meets_GroupsPinsAndCopiesGoOn_5_m : Fin 16 := 2
def test_meets_GroupsPinsAndCopiesGoOn_5_p : PendingArm := ⟨some 1, 4, 500, true⟩
def test_meets_GroupsPinsAndCopiesGoOn_5_id : Nat := 1
def test_meets_GroupsPinsAndCopiesGoOn_5_c : Cmd := cmdOf 0x0403 []
def test_meets_GroupsPinsAndCopiesGoOn_5_w : State := forL (atsOf 4) (fun g v => armOne g (if v.squall.ats[g].group then v.squall.ats[g].armSeq else (v.squall.ats[g].armSeq + 1) % 2 ^ 32) 500 v) (dropPendingArm ⟨some 1, 4, 500, true⟩ (waitTick 500 test_meets_GroupsPinsAndCopiesGoOn_5_s))
theorem test_meets_GroupsPinsAndCopiesGoOn_5_h0 : (fun (s : State) (m : Fin 16) (p : PendingArm) (id : Nat) (c : Cmd) (w : State) => pendingArmOf s m = some p) test_meets_GroupsPinsAndCopiesGoOn_5_s test_meets_GroupsPinsAndCopiesGoOn_5_m test_meets_GroupsPinsAndCopiesGoOn_5_p test_meets_GroupsPinsAndCopiesGoOn_5_id test_meets_GroupsPinsAndCopiesGoOn_5_c test_meets_GroupsPinsAndCopiesGoOn_5_w := by
  beta_reduce
  decide
theorem test_meets_GroupsPinsAndCopiesGoOn_5_h1 : (fun (s : State) (m : Fin 16) (p : PendingArm) (id : Nat) (c : Cmd) (w : State) => p.cmd = some id) test_meets_GroupsPinsAndCopiesGoOn_5_s test_meets_GroupsPinsAndCopiesGoOn_5_m test_meets_GroupsPinsAndCopiesGoOn_5_p test_meets_GroupsPinsAndCopiesGoOn_5_id test_meets_GroupsPinsAndCopiesGoOn_5_c test_meets_GroupsPinsAndCopiesGoOn_5_w := by
  beta_reduce
  decide
theorem test_meets_GroupsPinsAndCopiesGoOn_5_h2 : (fun (s : State) (m : Fin 16) (p : PendingArm) (id : Nat) (c : Cmd) (w : State) => p.deadlinePassed = true) test_meets_GroupsPinsAndCopiesGoOn_5_s test_meets_GroupsPinsAndCopiesGoOn_5_m test_meets_GroupsPinsAndCopiesGoOn_5_p test_meets_GroupsPinsAndCopiesGoOn_5_id test_meets_GroupsPinsAndCopiesGoOn_5_c test_meets_GroupsPinsAndCopiesGoOn_5_w := by
  beta_reduce
  decide
theorem test_meets_GroupsPinsAndCopiesGoOn_5_h3 : (fun (s : State) (m : Fin 16) (p : PendingArm) (id : Nat) (c : Cmd) (w : State) => w = forL (atsOf p.mask) (fun g v => armOne g (if v.squall.ats[g].group then v.squall.ats[g].armSeq else (v.squall.ats[g].armSeq + 1) % 2 ^ 32) p.tick v) (dropPendingArm p (waitTick p.tick s))) test_meets_GroupsPinsAndCopiesGoOn_5_s test_meets_GroupsPinsAndCopiesGoOn_5_m test_meets_GroupsPinsAndCopiesGoOn_5_p test_meets_GroupsPinsAndCopiesGoOn_5_id test_meets_GroupsPinsAndCopiesGoOn_5_c test_meets_GroupsPinsAndCopiesGoOn_5_w := by
  beta_reduce
  exact rfl
theorem test_meets_GroupsPinsAndCopiesGoOn_5_h4 : (fun (s : State) (m : Fin 16) (p : PendingArm) (id : Nat) (c : Cmd) (w : State) => findCmd w id = some c) test_meets_GroupsPinsAndCopiesGoOn_5_s test_meets_GroupsPinsAndCopiesGoOn_5_m test_meets_GroupsPinsAndCopiesGoOn_5_p test_meets_GroupsPinsAndCopiesGoOn_5_id test_meets_GroupsPinsAndCopiesGoOn_5_c test_meets_GroupsPinsAndCopiesGoOn_5_w := by
  beta_reduce
  exact rfl
theorem test_meets_GroupsPinsAndCopiesGoOn_5 : ∃ (s : State) (m : Fin 16) (p : PendingArm) (id : Nat) (c : Cmd) (w : State),
      pendingArmOf s m = some p ∧
      p.cmd = some id ∧
      p.deadlinePassed = true ∧
      w = forL (atsOf p.mask) (fun g v => armOne g (if v.squall.ats[g].group then v.squall.ats[g].armSeq else (v.squall.ats[g].armSeq + 1) % 2 ^ 32) p.tick v) (dropPendingArm p (waitTick p.tick s)) ∧
      findCmd w id = some c :=
  ⟨test_meets_GroupsPinsAndCopiesGoOn_5_s, test_meets_GroupsPinsAndCopiesGoOn_5_m, test_meets_GroupsPinsAndCopiesGoOn_5_p, test_meets_GroupsPinsAndCopiesGoOn_5_id, test_meets_GroupsPinsAndCopiesGoOn_5_c, test_meets_GroupsPinsAndCopiesGoOn_5_w, test_meets_GroupsPinsAndCopiesGoOn_5_h0, test_meets_GroupsPinsAndCopiesGoOn_5_h1, test_meets_GroupsPinsAndCopiesGoOn_5_h2, test_meets_GroupsPinsAndCopiesGoOn_5_h3, test_meets_GroupsPinsAndCopiesGoOn_5_h4⟩

theorem test_meets_GroupsPinsAndCopiesGoOn_6 : ∃ (s : State) (m : Fin 16) (g : AcqDef) (w0 : GroupFire) (w : GroupFire) (u : State) (rearm : Nat) (lost : List GroupFire),
      winnerOf s.squall.ats[m].round = some w0 ∧
      u = squallDue (waitTick (w0.tick + s.squall.ats[m].settle) s) ∧
      u.squall.ats[m].def_ = some g ∧
      winnerOf u.squall.ats[m].round = some w ∧
      rearm = w.tick + (if g.holdoffKind = 1 then g.holdoff else u.squall.ats[m].settle) ∧
      g.armMode = 3 ∧
      lost = u.squall.ats[m].round.filter (fun f => decide (f ≠ w ∧ f.did = u.link.did ∧ f.tick < rearm)) :=
  ⟨(atWith (fun a => { a with def_ := some { acqDefOf acqRaw with armMode := 3 }, round := [⟨70, 0, 9, false⟩, ⟨72, 0, 0, false⟩], settle := 5 }) State.reset : State), 2, { acqDefOf acqRaw with armMode := 3 }, ⟨70, 0, 9, false⟩, ⟨70, 0, 9, false⟩, squallDue (waitTick 75 (atWith (fun a => { a with def_ := some { acqDefOf acqRaw with armMode := 3 }, round := [⟨70, 0, 9, false⟩, ⟨72, 0, 0, false⟩], settle := 5 }) State.reset)), 75, [⟨72, 0, 0, false⟩], by decide, rfl, rfl, by decide, by decide, by decide, by decide⟩

theorem test_meets_GroupsPinsAndCopiesGoOn_7 : ∃ (s : State) (m : Fin 16) (g : AcqDef) (w0 : GroupFire) (w : GroupFire) (u : State) (rearm : Nat) (lost : List GroupFire),
      winnerOf s.squall.ats[m].round = some w0 ∧
      u = squallDue (waitTick (w0.tick + s.squall.ats[m].settle) s) ∧
      u.squall.ats[m].def_ = some g ∧
      winnerOf u.squall.ats[m].round = some w ∧
      rearm = w.tick + (if g.holdoffKind = 1 then g.holdoff else u.squall.ats[m].settle) ∧
      g.armMode = 2 ∧
      lost = u.squall.ats[m].round.filter (fun f => decide (f ≠ w ∧ f.did = u.link.did)) :=
  ⟨(atWith (fun a => { a with def_ := some { acqDefOf acqRaw with armMode := 2 }, round := [⟨70, 0, 9, false⟩, ⟨72, 0, 0, false⟩], settle := 5 }) State.reset : State), 2, { acqDefOf acqRaw with armMode := 2 }, ⟨70, 0, 9, false⟩, ⟨70, 0, 9, false⟩, squallDue (waitTick 75 (atWith (fun a => { a with def_ := some { acqDefOf acqRaw with armMode := 2 }, round := [⟨70, 0, 9, false⟩, ⟨72, 0, 0, false⟩], settle := 5 }) State.reset)), 75, [⟨72, 0, 0, false⟩], by decide, rfl, rfl, by decide, by decide, by decide, by decide⟩

def test_meets_GroupsPinsAndCopiesGoOn_8_s : State := { State.reset with squall := { Squall.reset with units := Vector.replicate 32 { TrigUnit.reset with cfg := { UnitCfg.reset with kind := tkExternal, source := 1 } } } }
def test_meets_GroupsPinsAndCopiesGoOn_8_pin : Fin 4 := 1
def test_meets_GroupsPinsAndCopiesGoOn_8_rising : Bool := true
def test_meets_GroupsPinsAndCopiesGoOn_8_frac : U16 := 9
def test_meets_GroupsPinsAndCopiesGoOn_8_held : Nat := 100
def test_meets_GroupsPinsAndCopiesGoOn_8_v : State := squallDue (if test_meets_GroupsPinsAndCopiesGoOn_8_s.squall.units.toList.any (fun t => decide (t.cfg.kind = tkExternal ∧ t.cfg.source = 1) && !t.detached) then wakeLull test_meets_GroupsPinsAndCopiesGoOn_8_s else test_meets_GroupsPinsAndCopiesGoOn_8_s)
def test_meets_GroupsPinsAndCopiesGoOn_8_half : Nat := ceilDiv (test_meets_GroupsPinsAndCopiesGoOn_8_v.clk.tick * 65536 + 9) 32768
def test_meets_GroupsPinsAndCopiesGoOn_8_l : List (Fin 32) := (List.finRange 32).filter (fun k => test_meets_GroupsPinsAndCopiesGoOn_8_v.squall.units[k].takesEdge 1 true 100)
def test_meets_GroupsPinsAndCopiesGoOn_8_u : State := { test_meets_GroupsPinsAndCopiesGoOn_8_v with squall := { test_meets_GroupsPinsAndCopiesGoOn_8_v.squall with pendingEdges := test_meets_GroupsPinsAndCopiesGoOn_8_v.squall.pendingEdges ++ test_meets_GroupsPinsAndCopiesGoOn_8_l.map fun k => ⟨k.val, ceilDiv test_meets_GroupsPinsAndCopiesGoOn_8_half 2 + test_meets_GroupsPinsAndCopiesGoOn_8_v.squall.units[k].cfg.minWidth, codeOf 64 ((((test_meets_GroupsPinsAndCopiesGoOn_8_half * 32768 : Nat) : Int) - test_meets_GroupsPinsAndCopiesGoOn_8_v.squall.units[k].cfg.delay).fdiv 65536), codeOf 16 (((test_meets_GroupsPinsAndCopiesGoOn_8_half * 32768 : Nat) : Int) - test_meets_GroupsPinsAndCopiesGoOn_8_v.squall.units[k].cfg.delay)⟩ } }
theorem test_meets_GroupsPinsAndCopiesGoOn_8_h0 : (fun (s : State) (pin : Fin 4) (rising : Bool) (frac : U16) (held : Nat) (half : Nat) (l : List (Fin 32)) (u : State) (v : State) => s.jtag.pinsTaken = false) test_meets_GroupsPinsAndCopiesGoOn_8_s test_meets_GroupsPinsAndCopiesGoOn_8_pin test_meets_GroupsPinsAndCopiesGoOn_8_rising test_meets_GroupsPinsAndCopiesGoOn_8_frac test_meets_GroupsPinsAndCopiesGoOn_8_held test_meets_GroupsPinsAndCopiesGoOn_8_half test_meets_GroupsPinsAndCopiesGoOn_8_l test_meets_GroupsPinsAndCopiesGoOn_8_u test_meets_GroupsPinsAndCopiesGoOn_8_v := by
  beta_reduce
  decide
theorem test_meets_GroupsPinsAndCopiesGoOn_8_h1 : (fun (s : State) (pin : Fin 4) (rising : Bool) (frac : U16) (held : Nat) (half : Nat) (l : List (Fin 32)) (u : State) (v : State) => v = squallDue (if s.squall.units.toList.any (fun t => decide (t.cfg.kind = tkExternal ∧ t.cfg.source = pin.val) && !t.detached) then wakeLull s else s)) test_meets_GroupsPinsAndCopiesGoOn_8_s test_meets_GroupsPinsAndCopiesGoOn_8_pin test_meets_GroupsPinsAndCopiesGoOn_8_rising test_meets_GroupsPinsAndCopiesGoOn_8_frac test_meets_GroupsPinsAndCopiesGoOn_8_held test_meets_GroupsPinsAndCopiesGoOn_8_half test_meets_GroupsPinsAndCopiesGoOn_8_l test_meets_GroupsPinsAndCopiesGoOn_8_u test_meets_GroupsPinsAndCopiesGoOn_8_v := by
  beta_reduce
  exact rfl
theorem test_meets_GroupsPinsAndCopiesGoOn_8_h2 : (fun (s : State) (pin : Fin 4) (rising : Bool) (frac : U16) (held : Nat) (half : Nat) (l : List (Fin 32)) (u : State) (v : State) => half = ceilDiv (v.clk.tick * 65536 + frac.toNat) 32768) test_meets_GroupsPinsAndCopiesGoOn_8_s test_meets_GroupsPinsAndCopiesGoOn_8_pin test_meets_GroupsPinsAndCopiesGoOn_8_rising test_meets_GroupsPinsAndCopiesGoOn_8_frac test_meets_GroupsPinsAndCopiesGoOn_8_held test_meets_GroupsPinsAndCopiesGoOn_8_half test_meets_GroupsPinsAndCopiesGoOn_8_l test_meets_GroupsPinsAndCopiesGoOn_8_u test_meets_GroupsPinsAndCopiesGoOn_8_v := by
  beta_reduce
  exact rfl
theorem test_meets_GroupsPinsAndCopiesGoOn_8_h3 : (fun (s : State) (pin : Fin 4) (rising : Bool) (frac : U16) (held : Nat) (half : Nat) (l : List (Fin 32)) (u : State) (v : State) => l = (List.finRange 32).filter (fun k => v.squall.units[k].takesEdge pin rising held)) test_meets_GroupsPinsAndCopiesGoOn_8_s test_meets_GroupsPinsAndCopiesGoOn_8_pin test_meets_GroupsPinsAndCopiesGoOn_8_rising test_meets_GroupsPinsAndCopiesGoOn_8_frac test_meets_GroupsPinsAndCopiesGoOn_8_held test_meets_GroupsPinsAndCopiesGoOn_8_half test_meets_GroupsPinsAndCopiesGoOn_8_l test_meets_GroupsPinsAndCopiesGoOn_8_u test_meets_GroupsPinsAndCopiesGoOn_8_v := by
  beta_reduce
  exact rfl
theorem test_meets_GroupsPinsAndCopiesGoOn_8_h4 : (fun (s : State) (pin : Fin 4) (rising : Bool) (frac : U16) (held : Nat) (half : Nat) (l : List (Fin 32)) (u : State) (v : State) => l ≠ []) test_meets_GroupsPinsAndCopiesGoOn_8_s test_meets_GroupsPinsAndCopiesGoOn_8_pin test_meets_GroupsPinsAndCopiesGoOn_8_rising test_meets_GroupsPinsAndCopiesGoOn_8_frac test_meets_GroupsPinsAndCopiesGoOn_8_held test_meets_GroupsPinsAndCopiesGoOn_8_half test_meets_GroupsPinsAndCopiesGoOn_8_l test_meets_GroupsPinsAndCopiesGoOn_8_u test_meets_GroupsPinsAndCopiesGoOn_8_v := by
  beta_reduce
  decide
theorem test_meets_GroupsPinsAndCopiesGoOn_8_h5 : (fun (s : State) (pin : Fin 4) (rising : Bool) (frac : U16) (held : Nat) (half : Nat) (l : List (Fin 32)) (u : State) (v : State) => u = { v with squall := { v.squall with pendingEdges := v.squall.pendingEdges ++ l.map fun k =>
        ⟨k.val, ceilDiv half 2 + v.squall.units[k].cfg.minWidth, codeOf 64 ((((half * 32768 : Nat) : Int) - v.squall.units[k].cfg.delay).fdiv 65536), codeOf 16 (((half * 32768 : Nat) : Int) - v.squall.units[k].cfg.delay)⟩ } }) test_meets_GroupsPinsAndCopiesGoOn_8_s test_meets_GroupsPinsAndCopiesGoOn_8_pin test_meets_GroupsPinsAndCopiesGoOn_8_rising test_meets_GroupsPinsAndCopiesGoOn_8_frac test_meets_GroupsPinsAndCopiesGoOn_8_held test_meets_GroupsPinsAndCopiesGoOn_8_half test_meets_GroupsPinsAndCopiesGoOn_8_l test_meets_GroupsPinsAndCopiesGoOn_8_u test_meets_GroupsPinsAndCopiesGoOn_8_v := by
  beta_reduce
  exact rfl
theorem test_meets_GroupsPinsAndCopiesGoOn_8 : ∃ (s : State) (pin : Fin 4) (rising : Bool) (frac : U16) (held : Nat) (half : Nat) (l : List (Fin 32)) (u : State) (v : State),
      s.jtag.pinsTaken = false ∧
      v = squallDue (if s.squall.units.toList.any (fun t => decide (t.cfg.kind = tkExternal ∧ t.cfg.source = pin.val) && !t.detached) then wakeLull s else s) ∧
      half = ceilDiv (v.clk.tick * 65536 + frac.toNat) 32768 ∧
      l = (List.finRange 32).filter (fun k => v.squall.units[k].takesEdge pin rising held) ∧
      l ≠ [] ∧
      u = { v with squall := { v.squall with pendingEdges := v.squall.pendingEdges ++ l.map fun k =>
        ⟨k.val, ceilDiv half 2 + v.squall.units[k].cfg.minWidth, codeOf 64 ((((half * 32768 : Nat) : Int) - v.squall.units[k].cfg.delay).fdiv 65536), codeOf 16 (((half * 32768 : Nat) : Int) - v.squall.units[k].cfg.delay)⟩ } } :=
  ⟨test_meets_GroupsPinsAndCopiesGoOn_8_s, test_meets_GroupsPinsAndCopiesGoOn_8_pin, test_meets_GroupsPinsAndCopiesGoOn_8_rising, test_meets_GroupsPinsAndCopiesGoOn_8_frac, test_meets_GroupsPinsAndCopiesGoOn_8_held, test_meets_GroupsPinsAndCopiesGoOn_8_half, test_meets_GroupsPinsAndCopiesGoOn_8_l, test_meets_GroupsPinsAndCopiesGoOn_8_u, test_meets_GroupsPinsAndCopiesGoOn_8_v, test_meets_GroupsPinsAndCopiesGoOn_8_h0, test_meets_GroupsPinsAndCopiesGoOn_8_h1, test_meets_GroupsPinsAndCopiesGoOn_8_h2, test_meets_GroupsPinsAndCopiesGoOn_8_h3, test_meets_GroupsPinsAndCopiesGoOn_8_h4, test_meets_GroupsPinsAndCopiesGoOn_8_h5⟩

theorem test_meets_GroupsPinsAndCopiesGoOn_9 : ∃ (s : State) (pin : Fin 4) (rising : Bool) (frac : U16) (held : Nat) (v : State),
      s.jtag.pinsTaken = false ∧
      v = squallDue (if s.squall.units.toList.any (fun t => decide (t.cfg.kind = tkExternal ∧ t.cfg.source = pin.val) && !t.detached) then wakeLull s else s) ∧
      (List.finRange 32).filter (fun k => v.squall.units[k].takesEdge pin rising held) = [] :=
  ⟨(State.reset : State), 1, true, 9, 100, squallDue State.reset, by decide, rfl, by decide⟩

theorem test_meets_GroupsPinsAndCopiesGoOn_10 : ∃ (s : State) (pin : Fin 4) (rising : Bool) (frac : U16) (held : Nat),
      s.jtag.pinsTaken = true :=
  ⟨({ State.reset with jtag := { State.reset.jtag with pinsTaken := true } } : State), 1, true, 9, 100, by decide⟩

theorem test_meets_GroupsPinsAndCopiesGoOn_11 : ∃ (s : State) (m : Fin 16) (p : OutPulse),
      s.squall.pulses.find? (fun x => decide (x.at_ = m.val)) = some p ∧
      p.late = false :=
  ⟨({ State.reset with squall := { Squall.reset with pulses := [⟨2, 3, 50, 90, false⟩] } } : State), 2, ⟨2, 3, 50, 90, false⟩, by decide, by decide⟩

theorem test_meets_GroupsPinsAndCopiesGoOn_12 : ∃ (s : State) (m : Fin 16) (p : OutPulse),
      s.squall.pulses.find? (fun x => decide (x.at_ = m.val)) = some p ∧
      p.late = true :=
  ⟨({ State.reset with squall := { Squall.reset with pulses := [⟨2, 3, 50, 90, true⟩] } } : State), 2, ⟨2, 3, 50, 90, true⟩, by decide, by decide⟩

def test_meets_GroupsPinsAndCopiesGoOn_14_s : State := acqState 5 id
def test_meets_GroupsPinsAndCopiesGoOn_14_no : U32 := 1
def test_meets_GroupsPinsAndCopiesGoOn_14_i : Nat := 0
def test_meets_GroupsPinsAndCopiesGoOn_14_q : Acquisition := (findAcq (acqState 5 id) 1).getD noAcq
def test_meets_GroupsPinsAndCopiesGoOn_14_c : SourceCopy := (test_meets_GroupsPinsAndCopiesGoOn_14_q.sources.drop 0).headD noSource
def test_meets_GroupsPinsAndCopiesGoOn_14_x : CopyItem := (match test_meets_GroupsPinsAndCopiesGoOn_14_c.read (acqState 5 id) test_meets_GroupsPinsAndCopiesGoOn_14_q.def_ test_meets_GroupsPinsAndCopiesGoOn_14_c.low with | .item x => x | _ => ⟨none, 0, 0, 0, 0, 0, 0, 0, [], []⟩)
theorem test_meets_GroupsPinsAndCopiesGoOn_14_h0 : (fun (s : State) (no : U32) (i : Nat) (q : Acquisition) (c : SourceCopy) (x : CopyItem) => findAcq s no.toNat = some q) test_meets_GroupsPinsAndCopiesGoOn_14_s test_meets_GroupsPinsAndCopiesGoOn_14_no test_meets_GroupsPinsAndCopiesGoOn_14_i test_meets_GroupsPinsAndCopiesGoOn_14_q test_meets_GroupsPinsAndCopiesGoOn_14_c test_meets_GroupsPinsAndCopiesGoOn_14_x := by
  beta_reduce
  exact rfl
theorem test_meets_GroupsPinsAndCopiesGoOn_14_h1 : (fun (s : State) (no : U32) (i : Nat) (q : Acquisition) (c : SourceCopy) (x : CopyItem) => (q.sources.drop i).head? = some c) test_meets_GroupsPinsAndCopiesGoOn_14_s test_meets_GroupsPinsAndCopiesGoOn_14_no test_meets_GroupsPinsAndCopiesGoOn_14_i test_meets_GroupsPinsAndCopiesGoOn_14_q test_meets_GroupsPinsAndCopiesGoOn_14_c test_meets_GroupsPinsAndCopiesGoOn_14_x := by
  beta_reduce
  exact rfl
theorem test_meets_GroupsPinsAndCopiesGoOn_14_h2 : (fun (s : State) (no : U32) (i : Nat) (q : Acquisition) (c : SourceCopy) (x : CopyItem) => c.done = false) test_meets_GroupsPinsAndCopiesGoOn_14_s test_meets_GroupsPinsAndCopiesGoOn_14_no test_meets_GroupsPinsAndCopiesGoOn_14_i test_meets_GroupsPinsAndCopiesGoOn_14_q test_meets_GroupsPinsAndCopiesGoOn_14_c test_meets_GroupsPinsAndCopiesGoOn_14_x := by
  beta_reduce
  decide
theorem test_meets_GroupsPinsAndCopiesGoOn_14_h3 : (fun (s : State) (no : U32) (i : Nat) (q : Acquisition) (c : SourceCopy) (x : CopyItem) => c.newestFirst = false) test_meets_GroupsPinsAndCopiesGoOn_14_s test_meets_GroupsPinsAndCopiesGoOn_14_no test_meets_GroupsPinsAndCopiesGoOn_14_i test_meets_GroupsPinsAndCopiesGoOn_14_q test_meets_GroupsPinsAndCopiesGoOn_14_c test_meets_GroupsPinsAndCopiesGoOn_14_x := by
  beta_reduce
  decide
theorem test_meets_GroupsPinsAndCopiesGoOn_14_h4 : (fun (s : State) (no : U32) (i : Nat) (q : Acquisition) (c : SourceCopy) (x : CopyItem) => c.low < min c.trig (sourceStop s q c c.stop)) test_meets_GroupsPinsAndCopiesGoOn_14_s test_meets_GroupsPinsAndCopiesGoOn_14_no test_meets_GroupsPinsAndCopiesGoOn_14_i test_meets_GroupsPinsAndCopiesGoOn_14_q test_meets_GroupsPinsAndCopiesGoOn_14_c test_meets_GroupsPinsAndCopiesGoOn_14_x := by
  beta_reduce
  decide
theorem test_meets_GroupsPinsAndCopiesGoOn_14_h5 : (fun (s : State) (no : U32) (i : Nat) (q : Acquisition) (c : SourceCopy) (x : CopyItem) => c.read s q.def_ c.low = .item x) test_meets_GroupsPinsAndCopiesGoOn_14_s test_meets_GroupsPinsAndCopiesGoOn_14_no test_meets_GroupsPinsAndCopiesGoOn_14_i test_meets_GroupsPinsAndCopiesGoOn_14_q test_meets_GroupsPinsAndCopiesGoOn_14_c test_meets_GroupsPinsAndCopiesGoOn_14_x := by
  beta_reduce
  decide
theorem test_meets_GroupsPinsAndCopiesGoOn_14 : ∃ (s : State) (no : U32) (i : Nat) (q : Acquisition) (c : SourceCopy) (x : CopyItem),
      findAcq s no.toNat = some q ∧
      (q.sources.drop i).head? = some c ∧
      c.done = false ∧
      c.newestFirst = false ∧
      c.low < min c.trig (sourceStop s q c c.stop) ∧
      c.read s q.def_ c.low = .item x :=
  ⟨test_meets_GroupsPinsAndCopiesGoOn_14_s, test_meets_GroupsPinsAndCopiesGoOn_14_no, test_meets_GroupsPinsAndCopiesGoOn_14_i, test_meets_GroupsPinsAndCopiesGoOn_14_q, test_meets_GroupsPinsAndCopiesGoOn_14_c, test_meets_GroupsPinsAndCopiesGoOn_14_x, test_meets_GroupsPinsAndCopiesGoOn_14_h0, test_meets_GroupsPinsAndCopiesGoOn_14_h1, test_meets_GroupsPinsAndCopiesGoOn_14_h2, test_meets_GroupsPinsAndCopiesGoOn_14_h3, test_meets_GroupsPinsAndCopiesGoOn_14_h4, test_meets_GroupsPinsAndCopiesGoOn_14_h5⟩

def test_meets_GroupsPinsAndCopiesGoOn_15_s : State := acqState 1500 id
def test_meets_GroupsPinsAndCopiesGoOn_15_no : U32 := 1
def test_meets_GroupsPinsAndCopiesGoOn_15_i : Nat := 0
def test_meets_GroupsPinsAndCopiesGoOn_15_q : Acquisition := (findAcq (acqState 1500 id) 1).getD noAcq
def test_meets_GroupsPinsAndCopiesGoOn_15_c : SourceCopy := (test_meets_GroupsPinsAndCopiesGoOn_15_q.sources.drop 0).headD noSource
theorem test_meets_GroupsPinsAndCopiesGoOn_15_h0 : (fun (s : State) (no : U32) (i : Nat) (q : Acquisition) (c : SourceCopy) => findAcq s no.toNat = some q) test_meets_GroupsPinsAndCopiesGoOn_15_s test_meets_GroupsPinsAndCopiesGoOn_15_no test_meets_GroupsPinsAndCopiesGoOn_15_i test_meets_GroupsPinsAndCopiesGoOn_15_q test_meets_GroupsPinsAndCopiesGoOn_15_c := by
  beta_reduce
  exact rfl
theorem test_meets_GroupsPinsAndCopiesGoOn_15_h1 : (fun (s : State) (no : U32) (i : Nat) (q : Acquisition) (c : SourceCopy) => (q.sources.drop i).head? = some c) test_meets_GroupsPinsAndCopiesGoOn_15_s test_meets_GroupsPinsAndCopiesGoOn_15_no test_meets_GroupsPinsAndCopiesGoOn_15_i test_meets_GroupsPinsAndCopiesGoOn_15_q test_meets_GroupsPinsAndCopiesGoOn_15_c := by
  beta_reduce
  exact rfl
theorem test_meets_GroupsPinsAndCopiesGoOn_15_h2 : (fun (s : State) (no : U32) (i : Nat) (q : Acquisition) (c : SourceCopy) => c.done = false) test_meets_GroupsPinsAndCopiesGoOn_15_s test_meets_GroupsPinsAndCopiesGoOn_15_no test_meets_GroupsPinsAndCopiesGoOn_15_i test_meets_GroupsPinsAndCopiesGoOn_15_q test_meets_GroupsPinsAndCopiesGoOn_15_c := by
  beta_reduce
  decide
theorem test_meets_GroupsPinsAndCopiesGoOn_15_h3 : (fun (s : State) (no : U32) (i : Nat) (q : Acquisition) (c : SourceCopy) => c.newestFirst = false) test_meets_GroupsPinsAndCopiesGoOn_15_s test_meets_GroupsPinsAndCopiesGoOn_15_no test_meets_GroupsPinsAndCopiesGoOn_15_i test_meets_GroupsPinsAndCopiesGoOn_15_q test_meets_GroupsPinsAndCopiesGoOn_15_c := by
  beta_reduce
  decide
theorem test_meets_GroupsPinsAndCopiesGoOn_15_h4 : (fun (s : State) (no : U32) (i : Nat) (q : Acquisition) (c : SourceCopy) => c.low < min c.trig (sourceStop s q c c.stop)) test_meets_GroupsPinsAndCopiesGoOn_15_s test_meets_GroupsPinsAndCopiesGoOn_15_no test_meets_GroupsPinsAndCopiesGoOn_15_i test_meets_GroupsPinsAndCopiesGoOn_15_q test_meets_GroupsPinsAndCopiesGoOn_15_c := by
  beta_reduce
  decide
theorem test_meets_GroupsPinsAndCopiesGoOn_15_h5 : (fun (s : State) (no : U32) (i : Nat) (q : Acquisition) (c : SourceCopy) => c.read s q.def_ c.low = .front) test_meets_GroupsPinsAndCopiesGoOn_15_s test_meets_GroupsPinsAndCopiesGoOn_15_no test_meets_GroupsPinsAndCopiesGoOn_15_i test_meets_GroupsPinsAndCopiesGoOn_15_q test_meets_GroupsPinsAndCopiesGoOn_15_c := by
  beta_reduce
  decide
theorem test_meets_GroupsPinsAndCopiesGoOn_15 : ∃ (s : State) (no : U32) (i : Nat) (q : Acquisition) (c : SourceCopy),
      findAcq s no.toNat = some q ∧
      (q.sources.drop i).head? = some c ∧
      c.done = false ∧
      c.newestFirst = false ∧
      c.low < min c.trig (sourceStop s q c c.stop) ∧
      c.read s q.def_ c.low = .front :=
  ⟨test_meets_GroupsPinsAndCopiesGoOn_15_s, test_meets_GroupsPinsAndCopiesGoOn_15_no, test_meets_GroupsPinsAndCopiesGoOn_15_i, test_meets_GroupsPinsAndCopiesGoOn_15_q, test_meets_GroupsPinsAndCopiesGoOn_15_c, test_meets_GroupsPinsAndCopiesGoOn_15_h0, test_meets_GroupsPinsAndCopiesGoOn_15_h1, test_meets_GroupsPinsAndCopiesGoOn_15_h2, test_meets_GroupsPinsAndCopiesGoOn_15_h3, test_meets_GroupsPinsAndCopiesGoOn_15_h4, test_meets_GroupsPinsAndCopiesGoOn_15_h5⟩

def test_meets_GroupsPinsAndCopiesGoOn_16_s : State := acqState 5 (fun c => { c with newestFirst := true })
def test_meets_GroupsPinsAndCopiesGoOn_16_no : U32 := 1
def test_meets_GroupsPinsAndCopiesGoOn_16_i : Nat := 0
def test_meets_GroupsPinsAndCopiesGoOn_16_q : Acquisition := (findAcq (acqState 5 (fun c => { c with newestFirst := true })) 1).getD noAcq
def test_meets_GroupsPinsAndCopiesGoOn_16_c : SourceCopy := (test_meets_GroupsPinsAndCopiesGoOn_16_q.sources.drop 0).headD noSource
def test_meets_GroupsPinsAndCopiesGoOn_16_x : CopyItem := (match test_meets_GroupsPinsAndCopiesGoOn_16_c.read (acqState 5 (fun c => { c with newestFirst := true })) test_meets_GroupsPinsAndCopiesGoOn_16_q.def_ (test_meets_GroupsPinsAndCopiesGoOn_16_c.high - 1) with | .item x => x | _ => ⟨none, 0, 0, 0, 0, 0, 0, 0, [], []⟩)
theorem test_meets_GroupsPinsAndCopiesGoOn_16_h0 : (fun (s : State) (no : U32) (i : Nat) (q : Acquisition) (c : SourceCopy) (x : CopyItem) => findAcq s no.toNat = some q) test_meets_GroupsPinsAndCopiesGoOn_16_s test_meets_GroupsPinsAndCopiesGoOn_16_no test_meets_GroupsPinsAndCopiesGoOn_16_i test_meets_GroupsPinsAndCopiesGoOn_16_q test_meets_GroupsPinsAndCopiesGoOn_16_c test_meets_GroupsPinsAndCopiesGoOn_16_x := by
  beta_reduce
  exact rfl
theorem test_meets_GroupsPinsAndCopiesGoOn_16_h1 : (fun (s : State) (no : U32) (i : Nat) (q : Acquisition) (c : SourceCopy) (x : CopyItem) => (q.sources.drop i).head? = some c) test_meets_GroupsPinsAndCopiesGoOn_16_s test_meets_GroupsPinsAndCopiesGoOn_16_no test_meets_GroupsPinsAndCopiesGoOn_16_i test_meets_GroupsPinsAndCopiesGoOn_16_q test_meets_GroupsPinsAndCopiesGoOn_16_c test_meets_GroupsPinsAndCopiesGoOn_16_x := by
  beta_reduce
  exact rfl
theorem test_meets_GroupsPinsAndCopiesGoOn_16_h2 : (fun (s : State) (no : U32) (i : Nat) (q : Acquisition) (c : SourceCopy) (x : CopyItem) => c.done = false) test_meets_GroupsPinsAndCopiesGoOn_16_s test_meets_GroupsPinsAndCopiesGoOn_16_no test_meets_GroupsPinsAndCopiesGoOn_16_i test_meets_GroupsPinsAndCopiesGoOn_16_q test_meets_GroupsPinsAndCopiesGoOn_16_c test_meets_GroupsPinsAndCopiesGoOn_16_x := by
  beta_reduce
  decide
theorem test_meets_GroupsPinsAndCopiesGoOn_16_h3 : (fun (s : State) (no : U32) (i : Nat) (q : Acquisition) (c : SourceCopy) (x : CopyItem) => c.newestFirst = true) test_meets_GroupsPinsAndCopiesGoOn_16_s test_meets_GroupsPinsAndCopiesGoOn_16_no test_meets_GroupsPinsAndCopiesGoOn_16_i test_meets_GroupsPinsAndCopiesGoOn_16_q test_meets_GroupsPinsAndCopiesGoOn_16_c test_meets_GroupsPinsAndCopiesGoOn_16_x := by
  beta_reduce
  decide
theorem test_meets_GroupsPinsAndCopiesGoOn_16_h4 : (fun (s : State) (no : U32) (i : Nat) (q : Acquisition) (c : SourceCopy) (x : CopyItem) => c.low < c.high) test_meets_GroupsPinsAndCopiesGoOn_16_s test_meets_GroupsPinsAndCopiesGoOn_16_no test_meets_GroupsPinsAndCopiesGoOn_16_i test_meets_GroupsPinsAndCopiesGoOn_16_q test_meets_GroupsPinsAndCopiesGoOn_16_c test_meets_GroupsPinsAndCopiesGoOn_16_x := by
  beta_reduce
  decide
theorem test_meets_GroupsPinsAndCopiesGoOn_16_h5 : (fun (s : State) (no : U32) (i : Nat) (q : Acquisition) (c : SourceCopy) (x : CopyItem) => c.read s q.def_ (c.high - max 1 q.def_.d) = .item x) test_meets_GroupsPinsAndCopiesGoOn_16_s test_meets_GroupsPinsAndCopiesGoOn_16_no test_meets_GroupsPinsAndCopiesGoOn_16_i test_meets_GroupsPinsAndCopiesGoOn_16_q test_meets_GroupsPinsAndCopiesGoOn_16_c test_meets_GroupsPinsAndCopiesGoOn_16_x := by
  beta_reduce
  decide
theorem test_meets_GroupsPinsAndCopiesGoOn_16 : ∃ (s : State) (no : U32) (i : Nat) (q : Acquisition) (c : SourceCopy) (x : CopyItem),
      findAcq s no.toNat = some q ∧
      (q.sources.drop i).head? = some c ∧
      c.done = false ∧
      c.newestFirst = true ∧
      c.low < c.high ∧
      c.read s q.def_ (c.high - max 1 q.def_.d) = .item x :=
  ⟨test_meets_GroupsPinsAndCopiesGoOn_16_s, test_meets_GroupsPinsAndCopiesGoOn_16_no, test_meets_GroupsPinsAndCopiesGoOn_16_i, test_meets_GroupsPinsAndCopiesGoOn_16_q, test_meets_GroupsPinsAndCopiesGoOn_16_c, test_meets_GroupsPinsAndCopiesGoOn_16_x, test_meets_GroupsPinsAndCopiesGoOn_16_h0, test_meets_GroupsPinsAndCopiesGoOn_16_h1, test_meets_GroupsPinsAndCopiesGoOn_16_h2, test_meets_GroupsPinsAndCopiesGoOn_16_h3, test_meets_GroupsPinsAndCopiesGoOn_16_h4, test_meets_GroupsPinsAndCopiesGoOn_16_h5⟩

def test_meets_GroupsPinsAndCopiesGoOn_17_s : State := acqState 5 (fun c => { c with low := c.trig })
def test_meets_GroupsPinsAndCopiesGoOn_17_no : U32 := 1
def test_meets_GroupsPinsAndCopiesGoOn_17_i : Nat := 0
def test_meets_GroupsPinsAndCopiesGoOn_17_q : Acquisition := (findAcq (acqState 5 (fun c => { c with low := c.trig })) 1).getD noAcq
def test_meets_GroupsPinsAndCopiesGoOn_17_c : SourceCopy := (test_meets_GroupsPinsAndCopiesGoOn_17_q.sources.drop 0).headD noSource
def test_meets_GroupsPinsAndCopiesGoOn_17_x : CopyItem := (match test_meets_GroupsPinsAndCopiesGoOn_17_c.read (acqState 5 (fun c => { c with low := c.trig })) test_meets_GroupsPinsAndCopiesGoOn_17_q.def_ test_meets_GroupsPinsAndCopiesGoOn_17_c.post with | .item x => x | _ => ⟨none, 0, 0, 0, 0, 0, 0, 0, [], []⟩)
theorem test_meets_GroupsPinsAndCopiesGoOn_17_h0 : (fun (s : State) (no : U32) (i : Nat) (q : Acquisition) (c : SourceCopy) (x : CopyItem) => findAcq s no.toNat = some q) test_meets_GroupsPinsAndCopiesGoOn_17_s test_meets_GroupsPinsAndCopiesGoOn_17_no test_meets_GroupsPinsAndCopiesGoOn_17_i test_meets_GroupsPinsAndCopiesGoOn_17_q test_meets_GroupsPinsAndCopiesGoOn_17_c test_meets_GroupsPinsAndCopiesGoOn_17_x := by
  beta_reduce
  exact rfl
theorem test_meets_GroupsPinsAndCopiesGoOn_17_h1 : (fun (s : State) (no : U32) (i : Nat) (q : Acquisition) (c : SourceCopy) (x : CopyItem) => (q.sources.drop i).head? = some c) test_meets_GroupsPinsAndCopiesGoOn_17_s test_meets_GroupsPinsAndCopiesGoOn_17_no test_meets_GroupsPinsAndCopiesGoOn_17_i test_meets_GroupsPinsAndCopiesGoOn_17_q test_meets_GroupsPinsAndCopiesGoOn_17_c test_meets_GroupsPinsAndCopiesGoOn_17_x := by
  beta_reduce
  exact rfl
theorem test_meets_GroupsPinsAndCopiesGoOn_17_h2 : (fun (s : State) (no : U32) (i : Nat) (q : Acquisition) (c : SourceCopy) (x : CopyItem) => c.done = false) test_meets_GroupsPinsAndCopiesGoOn_17_s test_meets_GroupsPinsAndCopiesGoOn_17_no test_meets_GroupsPinsAndCopiesGoOn_17_i test_meets_GroupsPinsAndCopiesGoOn_17_q test_meets_GroupsPinsAndCopiesGoOn_17_c test_meets_GroupsPinsAndCopiesGoOn_17_x := by
  beta_reduce
  decide
theorem test_meets_GroupsPinsAndCopiesGoOn_17_h3 : (fun (s : State) (no : U32) (i : Nat) (q : Acquisition) (c : SourceCopy) (x : CopyItem) => (if c.newestFirst then c.high else min c.trig (sourceStop s q c c.stop)) ≤ c.low) test_meets_GroupsPinsAndCopiesGoOn_17_s test_meets_GroupsPinsAndCopiesGoOn_17_no test_meets_GroupsPinsAndCopiesGoOn_17_i test_meets_GroupsPinsAndCopiesGoOn_17_q test_meets_GroupsPinsAndCopiesGoOn_17_c test_meets_GroupsPinsAndCopiesGoOn_17_x := by
  beta_reduce
  decide
theorem test_meets_GroupsPinsAndCopiesGoOn_17_h4 : (fun (s : State) (no : U32) (i : Nat) (q : Acquisition) (c : SourceCopy) (x : CopyItem) => c.post < min (sourceStop s q c c.stop) (if c.headOut then c.stop else c.headStop)) test_meets_GroupsPinsAndCopiesGoOn_17_s test_meets_GroupsPinsAndCopiesGoOn_17_no test_meets_GroupsPinsAndCopiesGoOn_17_i test_meets_GroupsPinsAndCopiesGoOn_17_q test_meets_GroupsPinsAndCopiesGoOn_17_c test_meets_GroupsPinsAndCopiesGoOn_17_x := by
  beta_reduce
  decide
theorem test_meets_GroupsPinsAndCopiesGoOn_17_h5 : (fun (s : State) (no : U32) (i : Nat) (q : Acquisition) (c : SourceCopy) (x : CopyItem) => c.read s q.def_ c.post = .item x) test_meets_GroupsPinsAndCopiesGoOn_17_s test_meets_GroupsPinsAndCopiesGoOn_17_no test_meets_GroupsPinsAndCopiesGoOn_17_i test_meets_GroupsPinsAndCopiesGoOn_17_q test_meets_GroupsPinsAndCopiesGoOn_17_c test_meets_GroupsPinsAndCopiesGoOn_17_x := by
  beta_reduce
  decide
theorem test_meets_GroupsPinsAndCopiesGoOn_17 : ∃ (s : State) (no : U32) (i : Nat) (q : Acquisition) (c : SourceCopy) (x : CopyItem),
      findAcq s no.toNat = some q ∧
      (q.sources.drop i).head? = some c ∧
      c.done = false ∧
      (if c.newestFirst then c.high else min c.trig (sourceStop s q c c.stop)) ≤ c.low ∧
      c.post < min (sourceStop s q c c.stop) (if c.headOut then c.stop else c.headStop) ∧
      c.read s q.def_ c.post = .item x :=
  ⟨test_meets_GroupsPinsAndCopiesGoOn_17_s, test_meets_GroupsPinsAndCopiesGoOn_17_no, test_meets_GroupsPinsAndCopiesGoOn_17_i, test_meets_GroupsPinsAndCopiesGoOn_17_q, test_meets_GroupsPinsAndCopiesGoOn_17_c, test_meets_GroupsPinsAndCopiesGoOn_17_x, test_meets_GroupsPinsAndCopiesGoOn_17_h0, test_meets_GroupsPinsAndCopiesGoOn_17_h1, test_meets_GroupsPinsAndCopiesGoOn_17_h2, test_meets_GroupsPinsAndCopiesGoOn_17_h3, test_meets_GroupsPinsAndCopiesGoOn_17_h4, test_meets_GroupsPinsAndCopiesGoOn_17_h5⟩

theorem test_meets_DensityMapsAreManagedAndExport_1 : ∃ (s : State) (id : Nat) (c : Cmd) (m : Fin 8) (t : Task) (p : Nat × Nat) (cmap : HostRead),
      Runs s id 0x0500 (selByte 0x09 0) c ∧
      Passes [densityEntry c, deviceCheck s c] ∧
      c.p8 0x08 = m.val ∧
      c.p64 0x28 = 0 ∧
      Passes (densityChecks s m c) ∧
      liveTask s (mapCfgOf c).task = some t ∧
      placeBuffers s (mapCfgOf c) = some p ∧
      mapsSram s + (mapCfgOf c).sram ≤ 33554432 ∧
      costsFit ((mapCfgOf c).exportCost :: mapCosts s) = true ∧
      updatesFit t (mapCfgOf c).columns = true ∧
      Admits s (.density m) [(lcDensity, ceilDiv (mapCfgOf c).exportCost.1 ((mapCfgOf c).exportCost.2 * 1000))] :=
  ⟨(cmdState 0x0500 [(0x08, [3, 0, 4, 255]), (0x0C, le 4 1), (0x14, le 2 8), (0x16, le 2 4), (0x19, [0xFF]), (0x1C, le 2 256), (0x20, le 4 1280000)] (taskState id) : State), 1, cmdOf 0x0500 [(0x08, [3, 0, 4, 255]), (0x0C, le 4 1), (0x14, le 2 8), (0x16, le 2 4), (0x19, [0xFF]), (0x1C, le 2 256), (0x20, le 4 1280000)], 3, taskOne, (placeBuffers (cmdState 0x0500 [(0x08, [3, 0, 4, 255]), (0x0C, le 4 1), (0x14, le 2 8), (0x16, le 2 4), (0x19, [0xFF]), (0x1C, le 2 256), (0x20, le 4 1280000)] (taskState id) : State) (mapCfgOf (cmdOf 0x0500 [(0x08, [3, 0, 4, 255]), (0x0C, le 4 1), (0x14, le 2 8), (0x16, le 2 4), (0x19, [0xFF]), (0x1C, le 2 256), (0x20, le 4 1280000)] : Cmd))).getD (0, 0), none, ⟨rfl, rfl, rfl, rfl, rfl⟩, by decide, by decide, by decide, by decide, rfl, rfl, by decide, by decide, by decide, by decide⟩

theorem test_meets_DensityMapsAreManagedAndExport_2 : ∃ (s : State) (id : Nat) (c : Cmd) (m : Fin 8) (t : Task) (p : Nat × Nat) (d : Data),
      Runs s id 0x0500 (selByte 0x09 0) c ∧
      Passes [densityEntry c, deviceCheck s c] ∧
      c.p8 0x08 = m.val ∧
      c.p64 0x28 ≠ 0 ∧
      Passes [cmapCheck d] ∧
      Passes (densityChecks s m c) ∧
      liveTask s (mapCfgOf c).task = some t ∧
      placeBuffers s (mapCfgOf c) = some p ∧
      mapsSram s + (mapCfgOf c).sram ≤ 33554432 ∧
      costsFit ((mapCfgOf c).exportCost :: mapCosts s) = true ∧
      updatesFit t (mapCfgOf c).columns = true ∧
      Admits s (.density m) [(lcDensity, ceilDiv (mapCfgOf c).exportCost.1 ((mapCfgOf c).exportCost.2 * 1000))] :=
  ⟨(cmdState 0x0500 [(0x08, [3, 0, 4, 255]), (0x0C, le 4 1), (0x14, le 2 8), (0x16, le 2 4), (0x19, [0xFF]), (0x1C, le 2 256), (0x20, le 4 1280000), (0x28, le 8 4096)] (taskState id) : State), 1, cmdOf 0x0500 [(0x08, [3, 0, 4, 255]), (0x0C, le 4 1), (0x14, le 2 8), (0x16, le 2 4), (0x19, [0xFF]), (0x1C, le 2 256), (0x20, le 4 1280000), (0x28, le 8 4096)], 3, taskOne, (placeBuffers (cmdState 0x0500 [(0x08, [3, 0, 4, 255]), (0x0C, le 4 1), (0x14, le 2 8), (0x16, le 2 4), (0x19, [0xFF]), (0x1C, le 2 256), (0x20, le 4 1280000), (0x28, le 8 4096)] (taskState id) : State) (mapCfgOf (cmdOf 0x0500 [(0x08, [3, 0, 4, 255]), (0x0C, le 4 1), (0x14, le 2 8), (0x16, le 2 4), (0x19, [0xFF]), (0x1C, le 2 256), (0x20, le 4 1280000), (0x28, le 8 4096)] : Cmd))).getD (0, 0), zeros 1024, ⟨rfl, rfl, rfl, rfl, rfl⟩, by decide, by decide, by decide, by decide, by decide, rfl, rfl, by decide, by decide, by decide, by decide⟩

theorem test_meets_DensityMapsAreManagedAndExport_3 : ∃ (s : State) (id : Nat) (c : Cmd) (m : Fin 8),
      Runs s id 0x0500 (selByte 0x09 1) c ∧
      Passes [densityEntry c, deviceCheck s c] ∧
      c.p8 0x08 = m.val ∧
      s.eddy.maps[m].cfg.isSome = true :=
  ⟨(cmdState 0x0500 [(0x08, [3, 1])] (fun s => setMap 3 (fun d => { d with cfg := some (mapCfgOf (cmdOf 0x0500 [(0x08, [3, 0, 4, 255]), (0x0C, le 4 1), (0x14, le 2 8), (0x16, le 2 4), (0x19, [0xFF]), (0x1C, le 2 256), (0x20, le 4 1280000)])) }) s) : State), 1, cmdOf 0x0500 [(0x08, [3, 1])], 3, ⟨rfl, rfl, rfl, rfl, rfl⟩, by decide, by decide, by decide⟩

theorem test_meets_DensityMapsAreManagedAndExport_4 : ∃ (s : State) (id : Nat) (c : Cmd) (m : Fin 8) (v : State),
      Runs s id 0x0500 (selByte 0x09 2) c ∧
      Passes [densityEntry c, deviceCheck v c] ∧
      v = advanceSweep m s ∧
      c.p8 0x08 = m.val ∧
      v.eddy.maps[m].cfg.isSome = true ∧
      aligned64 (c.p64 0x30) = true :=
  ⟨(cmdState 0x0500 [(0x08, [3, 2]), (0x30, le 8 4096)] (fun s => setMap 3 (fun d => { d with cfg := some (mapCfgOf (cmdOf 0x0500 [(0x08, [3, 0, 4, 255]), (0x0C, le 4 1), (0x14, le 2 8), (0x16, le 2 4), (0x19, [0xFF]), (0x1C, le 2 256), (0x20, le 4 1280000)])) }) s) : State), 1, cmdOf 0x0500 [(0x08, [3, 2]), (0x30, le 8 4096)], 3, (advanceSweep 3 (cmdState 0x0500 [(0x08, [3, 2]), (0x30, le 8 4096)] (fun s => setMap 3 (fun d => { d with cfg := some (mapCfgOf (cmdOf 0x0500 [(0x08, [3, 0, 4, 255]), (0x0C, le 4 1), (0x14, le 2 8), (0x16, le 2 4), (0x19, [0xFF]), (0x1C, le 2 256), (0x20, le 4 1280000)])) }) s) : State)), ⟨rfl, rfl, rfl, rfl, rfl⟩, by decide, rfl, by decide, by decide, by decide⟩

theorem test_meets_DensityMapsAreManagedAndExport_5 : ∃ (s : State) (id : Nat) (c : Cmd),
      Runs s id 0x0501 anyCmd c ∧
      Passes [entryCheck c [(0x08, 1), (0x10, 8)] [], deviceCheck s c, needState ((mapsOf (c.p8 0x08)).all fun m => s.eddy.maps[m].cfg.isSome), params [(0x10, decide (c.p64 0x10 ≤ s.clk.tick + 2 ^ 30))]] :=
  ⟨(cmdState 0x0501 [(0x08, [8]), (0x10, le 8 50)] (fun s => setMap 3 (fun d => { d with cfg := some (mapCfgOf (cmdOf 0x0500 [(0x08, [3, 0, 4, 255]), (0x0C, le 4 1), (0x14, le 2 8), (0x16, le 2 4), (0x19, [0xFF]), (0x1C, le 2 256), (0x20, le 4 1280000)])) }) s) : State), 1, cmdOf 0x0501 [(0x08, [8]), (0x10, le 8 50)], ⟨rfl, rfl, rfl, rfl, rfl⟩, by decide⟩

theorem test_meets_DensityMapsAreManagedAndExport_6 : ∃ (s : State) (p : PendingClear) (m : Fin 8) (g : MapCfg) (c : Cmd) (v : State),
      firstClear s.eddy.clears = some p ∧
      mapsOf p.mask = [m] ∧
      v = { waitTick p.tick s with eddy := { (waitTick p.tick s).eddy with clears := s.eddy.clears.erase p } } ∧
      v.eddy.maps[m].cfg = some g ∧
      findCmd v p.cmd = some c ∧
      g.nextBoundary v.eddy.maps[m] ≠ p.tick ∧
      v.eddy.maps[m].sweep = none :=
  ⟨((fun s => { s with eddy := { s.eddy with clears := [⟨1, 8, 50⟩] } }) (setMap 3 (fun d => { d with cfg := some (mapCfgOf (cmdOf 0x0500 [(0x08, [3, 0, 4, 255]), (0x0C, le 4 1), (0x14, le 2 8), (0x16, le 2 4), (0x19, [0xFF]), (0x1C, le 2 256), (0x20, le 4 1280000)])), counts := [(1, 7)] }) (cmdState 0x0501 [(0x08, [8])] id)) : State), ⟨1, 8, 50⟩, 3, mapCfgOf (cmdOf 0x0500 [(0x08, [3, 0, 4, 255]), (0x0C, le 4 1), (0x14, le 2 8), (0x16, le 2 4), (0x19, [0xFF]), (0x1C, le 2 256), (0x20, le 4 1280000)]), cmdOf 0x0501 [(0x08, [8])], { waitTick 50 ((fun s => { s with eddy := { s.eddy with clears := [⟨1, 8, 50⟩] } }) (setMap 3 (fun d => { d with cfg := some (mapCfgOf (cmdOf 0x0500 [(0x08, [3, 0, 4, 255]), (0x0C, le 4 1), (0x14, le 2 8), (0x16, le 2 4), (0x19, [0xFF]), (0x1C, le 2 256), (0x20, le 4 1280000)])), counts := [(1, 7)] }) (cmdState 0x0501 [(0x08, [8])] id)) : State) with eddy := { (waitTick 50 ((fun s => { s with eddy := { s.eddy with clears := [⟨1, 8, 50⟩] } }) (setMap 3 (fun d => { d with cfg := some (mapCfgOf (cmdOf 0x0500 [(0x08, [3, 0, 4, 255]), (0x0C, le 4 1), (0x14, le 2 8), (0x16, le 2 4), (0x19, [0xFF]), (0x1C, le 2 256), (0x20, le 4 1280000)])), counts := [(1, 7)] }) (cmdState 0x0501 [(0x08, [8])] id)) : State)).eddy with clears := ((fun s => { s with eddy := { s.eddy with clears := [⟨1, 8, 50⟩] } }) (setMap 3 (fun d => { d with cfg := some (mapCfgOf (cmdOf 0x0500 [(0x08, [3, 0, 4, 255]), (0x0C, le 4 1), (0x14, le 2 8), (0x16, le 2 4), (0x19, [0xFF]), (0x1C, le 2 256), (0x20, le 4 1280000)])), counts := [(1, 7)] }) (cmdState 0x0501 [(0x08, [8])] id)) : State).eddy.clears.erase ⟨1, 8, 50⟩ } }, by decide, by decide, rfl, rfl, by decide, by decide, by decide⟩

def test_meets_DensityMapsAreManagedAndExport_7_s : State := (fun s => { s with eddy := { s.eddy with clears := [⟨1, 8, 50⟩] } }) (setMap 3 (fun d => { d with cfg := some (mapCfgOf (cmdOf 0x0500 [(0x08, [3, 0, 4, 255]), (0x0C, le 4 1), (0x14, le 2 8), (0x16, le 2 4), (0x19, [0xFF]), (0x1C, le 2 256), (0x20, le 4 1280000)])), counts := [(1, 7)], sweep := some ⟨0, 0, 100000, [], [], 0, 0, 0⟩ }) (cmdState 0x0501 [(0x08, [8])] id))
def test_meets_DensityMapsAreManagedAndExport_7_p : PendingClear := ⟨1, 8, 50⟩
def test_meets_DensityMapsAreManagedAndExport_7_m : Fin 8 := 3
def test_meets_DensityMapsAreManagedAndExport_7_g : MapCfg := mapCfgOf (cmdOf 0x0500 [(0x08, [3, 0, 4, 255]), (0x0C, le 4 1), (0x14, le 2 8), (0x16, le 2 4), (0x19, [0xFF]), (0x1C, le 2 256), (0x20, le 4 1280000)])
def test_meets_DensityMapsAreManagedAndExport_7_c : Cmd := cmdOf 0x0501 [(0x08, [8])]
def test_meets_DensityMapsAreManagedAndExport_7_v : State := { waitTick 50 test_meets_DensityMapsAreManagedAndExport_7_s with eddy := { (waitTick 50 test_meets_DensityMapsAreManagedAndExport_7_s).eddy with clears := test_meets_DensityMapsAreManagedAndExport_7_s.eddy.clears.erase ⟨1, 8, 50⟩ } }
def test_meets_DensityMapsAreManagedAndExport_7_u : State := finishSweep 3 (advanceSweep 3 test_meets_DensityMapsAreManagedAndExport_7_v)
theorem test_meets_DensityMapsAreManagedAndExport_7_h0 : (fun (s : State) (p : PendingClear) (m : Fin 8) (g : MapCfg) (c : Cmd) (v : State) (u : State) => firstClear s.eddy.clears = some p) test_meets_DensityMapsAreManagedAndExport_7_s test_meets_DensityMapsAreManagedAndExport_7_p test_meets_DensityMapsAreManagedAndExport_7_m test_meets_DensityMapsAreManagedAndExport_7_g test_meets_DensityMapsAreManagedAndExport_7_c test_meets_DensityMapsAreManagedAndExport_7_v test_meets_DensityMapsAreManagedAndExport_7_u := by
  beta_reduce
  decide
theorem test_meets_DensityMapsAreManagedAndExport_7_h1 : (fun (s : State) (p : PendingClear) (m : Fin 8) (g : MapCfg) (c : Cmd) (v : State) (u : State) => mapsOf p.mask = [m]) test_meets_DensityMapsAreManagedAndExport_7_s test_meets_DensityMapsAreManagedAndExport_7_p test_meets_DensityMapsAreManagedAndExport_7_m test_meets_DensityMapsAreManagedAndExport_7_g test_meets_DensityMapsAreManagedAndExport_7_c test_meets_DensityMapsAreManagedAndExport_7_v test_meets_DensityMapsAreManagedAndExport_7_u := by
  beta_reduce
  decide
theorem test_meets_DensityMapsAreManagedAndExport_7_h2 : (fun (s : State) (p : PendingClear) (m : Fin 8) (g : MapCfg) (c : Cmd) (v : State) (u : State) => v = { waitTick p.tick s with eddy := { (waitTick p.tick s).eddy with clears := s.eddy.clears.erase p } }) test_meets_DensityMapsAreManagedAndExport_7_s test_meets_DensityMapsAreManagedAndExport_7_p test_meets_DensityMapsAreManagedAndExport_7_m test_meets_DensityMapsAreManagedAndExport_7_g test_meets_DensityMapsAreManagedAndExport_7_c test_meets_DensityMapsAreManagedAndExport_7_v test_meets_DensityMapsAreManagedAndExport_7_u := by
  beta_reduce
  exact rfl
theorem test_meets_DensityMapsAreManagedAndExport_7_h3 : (fun (s : State) (p : PendingClear) (m : Fin 8) (g : MapCfg) (c : Cmd) (v : State) (u : State) => v.eddy.maps[m].cfg = some g) test_meets_DensityMapsAreManagedAndExport_7_s test_meets_DensityMapsAreManagedAndExport_7_p test_meets_DensityMapsAreManagedAndExport_7_m test_meets_DensityMapsAreManagedAndExport_7_g test_meets_DensityMapsAreManagedAndExport_7_c test_meets_DensityMapsAreManagedAndExport_7_v test_meets_DensityMapsAreManagedAndExport_7_u := by
  beta_reduce
  exact rfl
theorem test_meets_DensityMapsAreManagedAndExport_7_h4 : (fun (s : State) (p : PendingClear) (m : Fin 8) (g : MapCfg) (c : Cmd) (v : State) (u : State) => u = finishSweep m (advanceSweep m v)) test_meets_DensityMapsAreManagedAndExport_7_s test_meets_DensityMapsAreManagedAndExport_7_p test_meets_DensityMapsAreManagedAndExport_7_m test_meets_DensityMapsAreManagedAndExport_7_g test_meets_DensityMapsAreManagedAndExport_7_c test_meets_DensityMapsAreManagedAndExport_7_v test_meets_DensityMapsAreManagedAndExport_7_u := by
  beta_reduce
  exact rfl
theorem test_meets_DensityMapsAreManagedAndExport_7_h5 : (fun (s : State) (p : PendingClear) (m : Fin 8) (g : MapCfg) (c : Cmd) (v : State) (u : State) => findCmd u p.cmd = some c) test_meets_DensityMapsAreManagedAndExport_7_s test_meets_DensityMapsAreManagedAndExport_7_p test_meets_DensityMapsAreManagedAndExport_7_m test_meets_DensityMapsAreManagedAndExport_7_g test_meets_DensityMapsAreManagedAndExport_7_c test_meets_DensityMapsAreManagedAndExport_7_v test_meets_DensityMapsAreManagedAndExport_7_u := by
  beta_reduce
  decide
theorem test_meets_DensityMapsAreManagedAndExport_7_h6 : (fun (s : State) (p : PendingClear) (m : Fin 8) (g : MapCfg) (c : Cmd) (v : State) (u : State) => g.nextBoundary v.eddy.maps[m] ≠ p.tick) test_meets_DensityMapsAreManagedAndExport_7_s test_meets_DensityMapsAreManagedAndExport_7_p test_meets_DensityMapsAreManagedAndExport_7_m test_meets_DensityMapsAreManagedAndExport_7_g test_meets_DensityMapsAreManagedAndExport_7_c test_meets_DensityMapsAreManagedAndExport_7_v test_meets_DensityMapsAreManagedAndExport_7_u := by
  beta_reduce
  decide
theorem test_meets_DensityMapsAreManagedAndExport_7 : ∃ (s : State) (p : PendingClear) (m : Fin 8) (g : MapCfg) (c : Cmd) (v : State) (u : State),
      firstClear s.eddy.clears = some p ∧
      mapsOf p.mask = [m] ∧
      v = { waitTick p.tick s with eddy := { (waitTick p.tick s).eddy with clears := s.eddy.clears.erase p } } ∧
      v.eddy.maps[m].cfg = some g ∧
      u = finishSweep m (advanceSweep m v) ∧
      findCmd u p.cmd = some c ∧
      g.nextBoundary v.eddy.maps[m] ≠ p.tick :=
  ⟨test_meets_DensityMapsAreManagedAndExport_7_s, test_meets_DensityMapsAreManagedAndExport_7_p, test_meets_DensityMapsAreManagedAndExport_7_m, test_meets_DensityMapsAreManagedAndExport_7_g, test_meets_DensityMapsAreManagedAndExport_7_c, test_meets_DensityMapsAreManagedAndExport_7_v, test_meets_DensityMapsAreManagedAndExport_7_u, test_meets_DensityMapsAreManagedAndExport_7_h0, test_meets_DensityMapsAreManagedAndExport_7_h1, test_meets_DensityMapsAreManagedAndExport_7_h2, test_meets_DensityMapsAreManagedAndExport_7_h3, test_meets_DensityMapsAreManagedAndExport_7_h4, test_meets_DensityMapsAreManagedAndExport_7_h5, test_meets_DensityMapsAreManagedAndExport_7_h6⟩

def test_meets_DensityMapsAreManagedAndExport_8_s : State := (fun s => { s with eddy := { s.eddy with clears := [⟨1, 8, 1280000⟩] } }) (setMap 3 (fun d => { d with cfg := some (mapCfgOf (cmdOf 0x0500 [(0x08, [3, 0, 4, 255]), (0x0C, le 4 1), (0x14, le 2 8), (0x16, le 2 4), (0x19, [0xFF]), (0x1C, le 2 256), (0x20, le 4 1280000)])), counts := [(1, 7)] }) (cmdState 0x0501 [(0x08, [8])] id))
def test_meets_DensityMapsAreManagedAndExport_8_p : PendingClear := ⟨1, 8, 1280000⟩
def test_meets_DensityMapsAreManagedAndExport_8_m : Fin 8 := 3
def test_meets_DensityMapsAreManagedAndExport_8_g : MapCfg := mapCfgOf (cmdOf 0x0500 [(0x08, [3, 0, 4, 255]), (0x0C, le 4 1), (0x14, le 2 8), (0x16, le 2 4), (0x19, [0xFF]), (0x1C, le 2 256), (0x20, le 4 1280000)])
def test_meets_DensityMapsAreManagedAndExport_8_c : Cmd := cmdOf 0x0501 [(0x08, [8])]
def test_meets_DensityMapsAreManagedAndExport_8_v : State := { waitTick 1280000 test_meets_DensityMapsAreManagedAndExport_8_s with eddy := { (waitTick 1280000 test_meets_DensityMapsAreManagedAndExport_8_s).eddy with clears := test_meets_DensityMapsAreManagedAndExport_8_s.eddy.clears.erase ⟨1, 8, 1280000⟩ } }
def test_meets_DensityMapsAreManagedAndExport_8_u : State := finishSweep 3 (mapBoundary 3 1280000 test_meets_DensityMapsAreManagedAndExport_8_v)
theorem test_meets_DensityMapsAreManagedAndExport_8_h0 : (fun (s : State) (p : PendingClear) (m : Fin 8) (g : MapCfg) (c : Cmd) (v : State) (u : State) => firstClear s.eddy.clears = some p) test_meets_DensityMapsAreManagedAndExport_8_s test_meets_DensityMapsAreManagedAndExport_8_p test_meets_DensityMapsAreManagedAndExport_8_m test_meets_DensityMapsAreManagedAndExport_8_g test_meets_DensityMapsAreManagedAndExport_8_c test_meets_DensityMapsAreManagedAndExport_8_v test_meets_DensityMapsAreManagedAndExport_8_u := by
  beta_reduce
  decide
theorem test_meets_DensityMapsAreManagedAndExport_8_h1 : (fun (s : State) (p : PendingClear) (m : Fin 8) (g : MapCfg) (c : Cmd) (v : State) (u : State) => mapsOf p.mask = [m]) test_meets_DensityMapsAreManagedAndExport_8_s test_meets_DensityMapsAreManagedAndExport_8_p test_meets_DensityMapsAreManagedAndExport_8_m test_meets_DensityMapsAreManagedAndExport_8_g test_meets_DensityMapsAreManagedAndExport_8_c test_meets_DensityMapsAreManagedAndExport_8_v test_meets_DensityMapsAreManagedAndExport_8_u := by
  beta_reduce
  decide
theorem test_meets_DensityMapsAreManagedAndExport_8_h2 : (fun (s : State) (p : PendingClear) (m : Fin 8) (g : MapCfg) (c : Cmd) (v : State) (u : State) => v = { waitTick p.tick s with eddy := { (waitTick p.tick s).eddy with clears := s.eddy.clears.erase p } }) test_meets_DensityMapsAreManagedAndExport_8_s test_meets_DensityMapsAreManagedAndExport_8_p test_meets_DensityMapsAreManagedAndExport_8_m test_meets_DensityMapsAreManagedAndExport_8_g test_meets_DensityMapsAreManagedAndExport_8_c test_meets_DensityMapsAreManagedAndExport_8_v test_meets_DensityMapsAreManagedAndExport_8_u := by
  beta_reduce
  exact rfl
theorem test_meets_DensityMapsAreManagedAndExport_8_h3 : (fun (s : State) (p : PendingClear) (m : Fin 8) (g : MapCfg) (c : Cmd) (v : State) (u : State) => v.eddy.maps[m].cfg = some g) test_meets_DensityMapsAreManagedAndExport_8_s test_meets_DensityMapsAreManagedAndExport_8_p test_meets_DensityMapsAreManagedAndExport_8_m test_meets_DensityMapsAreManagedAndExport_8_g test_meets_DensityMapsAreManagedAndExport_8_c test_meets_DensityMapsAreManagedAndExport_8_v test_meets_DensityMapsAreManagedAndExport_8_u := by
  beta_reduce
  exact rfl
theorem test_meets_DensityMapsAreManagedAndExport_8_h4 : (fun (s : State) (p : PendingClear) (m : Fin 8) (g : MapCfg) (c : Cmd) (v : State) (u : State) => u = finishSweep m (mapBoundary m p.tick v)) test_meets_DensityMapsAreManagedAndExport_8_s test_meets_DensityMapsAreManagedAndExport_8_p test_meets_DensityMapsAreManagedAndExport_8_m test_meets_DensityMapsAreManagedAndExport_8_g test_meets_DensityMapsAreManagedAndExport_8_c test_meets_DensityMapsAreManagedAndExport_8_v test_meets_DensityMapsAreManagedAndExport_8_u := by
  beta_reduce
  exact rfl
theorem test_meets_DensityMapsAreManagedAndExport_8_h5 : (fun (s : State) (p : PendingClear) (m : Fin 8) (g : MapCfg) (c : Cmd) (v : State) (u : State) => findCmd u p.cmd = some c) test_meets_DensityMapsAreManagedAndExport_8_s test_meets_DensityMapsAreManagedAndExport_8_p test_meets_DensityMapsAreManagedAndExport_8_m test_meets_DensityMapsAreManagedAndExport_8_g test_meets_DensityMapsAreManagedAndExport_8_c test_meets_DensityMapsAreManagedAndExport_8_v test_meets_DensityMapsAreManagedAndExport_8_u := by
  beta_reduce
  decide
theorem test_meets_DensityMapsAreManagedAndExport_8_h6 : (fun (s : State) (p : PendingClear) (m : Fin 8) (g : MapCfg) (c : Cmd) (v : State) (u : State) => g.nextBoundary v.eddy.maps[m] = p.tick) test_meets_DensityMapsAreManagedAndExport_8_s test_meets_DensityMapsAreManagedAndExport_8_p test_meets_DensityMapsAreManagedAndExport_8_m test_meets_DensityMapsAreManagedAndExport_8_g test_meets_DensityMapsAreManagedAndExport_8_c test_meets_DensityMapsAreManagedAndExport_8_v test_meets_DensityMapsAreManagedAndExport_8_u := by
  beta_reduce
  decide
theorem test_meets_DensityMapsAreManagedAndExport_8 : ∃ (s : State) (p : PendingClear) (m : Fin 8) (g : MapCfg) (c : Cmd) (v : State) (u : State),
      firstClear s.eddy.clears = some p ∧
      mapsOf p.mask = [m] ∧
      v = { waitTick p.tick s with eddy := { (waitTick p.tick s).eddy with clears := s.eddy.clears.erase p } } ∧
      v.eddy.maps[m].cfg = some g ∧
      u = finishSweep m (mapBoundary m p.tick v) ∧
      findCmd u p.cmd = some c ∧
      g.nextBoundary v.eddy.maps[m] = p.tick :=
  ⟨test_meets_DensityMapsAreManagedAndExport_8_s, test_meets_DensityMapsAreManagedAndExport_8_p, test_meets_DensityMapsAreManagedAndExport_8_m, test_meets_DensityMapsAreManagedAndExport_8_g, test_meets_DensityMapsAreManagedAndExport_8_c, test_meets_DensityMapsAreManagedAndExport_8_v, test_meets_DensityMapsAreManagedAndExport_8_u, test_meets_DensityMapsAreManagedAndExport_8_h0, test_meets_DensityMapsAreManagedAndExport_8_h1, test_meets_DensityMapsAreManagedAndExport_8_h2, test_meets_DensityMapsAreManagedAndExport_8_h3, test_meets_DensityMapsAreManagedAndExport_8_h4, test_meets_DensityMapsAreManagedAndExport_8_h5, test_meets_DensityMapsAreManagedAndExport_8_h6⟩

theorem test_meets_DensityMapsAreManagedAndExport_9 : ∃ (s : State) (m : Fin 8) (g : MapCfg) (v : State),
      s.eddy.maps[m].cfg = some g ∧
      v = advanceSweep m (waitTick (g.nextBoundary s.eddy.maps[m]) s) ∧
      v.eddy.maps[m].exporting = true :=
  ⟨((setMap 3 (fun d => { d with cfg := some (mapCfgOf (cmdOf 0x0500 [(0x08, [3, 0, 4, 255]), (0x0C, le 4 1), (0x14, le 2 8), (0x16, le 2 4), (0x19, [0xFF]), (0x1C, le 2 256), (0x20, le 4 1280000)])), writing := some 1 }) (taskState id State.reset)) : State), 3, mapCfgOf (cmdOf 0x0500 [(0x08, [3, 0, 4, 255]), (0x0C, le 4 1), (0x14, le 2 8), (0x16, le 2 4), (0x19, [0xFF]), (0x1C, le 2 256), (0x20, le 4 1280000)]), advanceSweep 3 (waitTick ((mapCfgOf (cmdOf 0x0500 [(0x08, [3, 0, 4, 255]), (0x0C, le 4 1), (0x14, le 2 8), (0x16, le 2 4), (0x19, [0xFF]), (0x1C, le 2 256), (0x20, le 4 1280000)])).nextBoundary ((setMap 3 (fun d => { d with cfg := some (mapCfgOf (cmdOf 0x0500 [(0x08, [3, 0, 4, 255]), (0x0C, le 4 1), (0x14, le 2 8), (0x16, le 2 4), (0x19, [0xFF]), (0x1C, le 2 256), (0x20, le 4 1280000)])), writing := some 1 }) (taskState id State.reset)) : State).eddy.maps[3]) ((setMap 3 (fun d => { d with cfg := some (mapCfgOf (cmdOf 0x0500 [(0x08, [3, 0, 4, 255]), (0x0C, le 4 1), (0x14, le 2 8), (0x16, le 2 4), (0x19, [0xFF]), (0x1C, le 2 256), (0x20, le 4 1280000)])), writing := some 1 }) (taskState id State.reset)) : State)), rfl, rfl, by decide⟩

theorem test_meets_DensityMapsAreManagedAndExport_10 : ∃ (s : State) (m : Fin 8) (g : MapCfg) (v : State),
      s.eddy.maps[m].cfg = some g ∧
      v = advanceSweep m (waitTick (g.nextBoundary s.eddy.maps[m]) s) ∧
      v.eddy.maps[m].exporting = false :=
  ⟨((setMap 3 (fun d => { d with cfg := some (mapCfgOf (cmdOf 0x0500 [(0x08, [3, 0, 4, 255]), (0x0C, le 4 1), (0x14, le 2 8), (0x16, le 2 4), (0x19, [0xFF]), (0x1C, le 2 256), (0x20, le 4 1280000)])), counts := [(1, 7)] }) (taskState id State.reset)) : State), 3, mapCfgOf (cmdOf 0x0500 [(0x08, [3, 0, 4, 255]), (0x0C, le 4 1), (0x14, le 2 8), (0x16, le 2 4), (0x19, [0xFF]), (0x1C, le 2 256), (0x20, le 4 1280000)]), advanceSweep 3 (waitTick ((mapCfgOf (cmdOf 0x0500 [(0x08, [3, 0, 4, 255]), (0x0C, le 4 1), (0x14, le 2 8), (0x16, le 2 4), (0x19, [0xFF]), (0x1C, le 2 256), (0x20, le 4 1280000)])).nextBoundary ((setMap 3 (fun d => { d with cfg := some (mapCfgOf (cmdOf 0x0500 [(0x08, [3, 0, 4, 255]), (0x0C, le 4 1), (0x14, le 2 8), (0x16, le 2 4), (0x19, [0xFF]), (0x1C, le 2 256), (0x20, le 4 1280000)])), counts := [(1, 7)] }) (taskState id State.reset)) : State).eddy.maps[3]) ((setMap 3 (fun d => { d with cfg := some (mapCfgOf (cmdOf 0x0500 [(0x08, [3, 0, 4, 255]), (0x0C, le 4 1), (0x14, le 2 8), (0x16, le 2 4), (0x19, [0xFF]), (0x1C, le 2 256), (0x20, le 4 1280000)])), counts := [(1, 7)] }) (taskState id State.reset)) : State)), rfl, rfl, by decide⟩

theorem test_meets_DensityMapsAreManagedAndExport_11 : ∃ (s : State) (m : Fin 8) (g : MapCfg) (w : Sweep) (n : Nat) (k : Nat) (cs : Counts) (ys : Counts),
      s.eddy.maps[m].cfg = some g ∧
      s.eddy.maps[m].sweep = some w ∧
      w.cells = 0 ∧
      w.counts = [] ∧
      w.youth = [] ∧
      s.eddy.maps[m].record = none ∧
      g.planes = true ∧
      g.raw = false ∧
      s.store.state = .ready ∧
      storeServes s = true ∧
      n = g.columns * g.rows ∧
      k = exportBuffer s m g ∧
      cs = s.eddy.maps[m].counts.filter (fun x => decide (x.1 < n)) ∧
      ys = s.eddy.maps[m].youth.filter (fun x => decide (x.1 < n)) :=
  ⟨((fun s => { s with eddy := (setMap 3 (fun d => { d with cfg := some (mapCfgOf (cmdOf 0x0500 [(0x08, [3, 0, 4, 255]), (0x0C, le 4 1), (0x14, le 2 8), (0x16, le 2 4), (0x19, [0xFF]), (0x1C, le 2 256), (0x20, le 4 1280000)])), counts := [(1, 7)], sweep := some ⟨1280000, 0, 0, [], [], 0, 0, 0⟩ }) s).eddy }) (storeReady State.reset) : State), 3, mapCfgOf (cmdOf 0x0500 [(0x08, [3, 0, 4, 255]), (0x0C, le 4 1), (0x14, le 2 8), (0x16, le 2 4), (0x19, [0xFF]), (0x1C, le 2 256), (0x20, le 4 1280000)]), ⟨1280000, 0, 0, [], [], 0, 0, 0⟩, 32, 0, [(1, 7)], [], rfl, by decide, by decide, by decide, by decide, by decide, by decide, by decide, by decide, by decide, by decide, by decide, rfl, rfl⟩

theorem test_meets_DensityMapsAreManagedAndExport_12 : ∃ (s : State) (m : Fin 8) (g : MapCfg) (k : Nat) (u : State),
      s.eddy.maps[m].cfg = some g ∧
      s.eddy.maps[m].sweep = none ∧
      s.eddy.maps[m].writing = some k ∧
      s.eddy.maps[m].record = none ∧
      u = storeAsk s ∧
      storeServes u = true :=
  ⟨((setMap 3 (fun d => { d with cfg := some (mapCfgOf (cmdOf 0x0500 [(0x08, [3, 0, 4, 255]), (0x0C, le 4 1), (0x14, le 2 8), (0x16, le 2 4), (0x19, [0xFF]), (0x1C, le 2 256), (0x20, le 4 1280000)])), writing := some 1 }) (taskState id State.reset)) : State), 3, mapCfgOf (cmdOf 0x0500 [(0x08, [3, 0, 4, 255]), (0x0C, le 4 1), (0x14, le 2 8), (0x16, le 2 4), (0x19, [0xFF]), (0x1C, le 2 256), (0x20, le 4 1280000)]), 1, storeAsk ((setMap 3 (fun d => { d with cfg := some (mapCfgOf (cmdOf 0x0500 [(0x08, [3, 0, 4, 255]), (0x0C, le 4 1), (0x14, le 2 8), (0x16, le 2 4), (0x19, [0xFF]), (0x1C, le 2 256), (0x20, le 4 1280000)])), writing := some 1 }) (taskState id State.reset)) : State), rfl, by decide, by decide, by decide, rfl, by decide⟩

theorem test_meets_DensityMapsAreManagedAndExport_13 : ∃ (s : State) (m : Fin 8) (g : MapCfg) (r : RawExport) (u : State),
      s.eddy.maps[m].cfg = some g ∧
      s.eddy.maps[m].sweep = none ∧
      s.eddy.maps[m].record = some r ∧
      u = storeAsk s ∧
      storeServes u = true :=
  ⟨((setMap 3 (fun d => { d with cfg := some (mapCfgOf (cmdOf 0x0500 [(0x08, [3, 0, 4, 255]), (0x0C, le 4 1), (0x14, le 2 8), (0x16, le 2 4), (0x19, [0xFF]), (0x1C, le 2 256), (0x20, le 4 1280000)])), record := some ⟨zeros 64, none, 9⟩ }) (taskState id State.reset)) : State), 3, mapCfgOf (cmdOf 0x0500 [(0x08, [3, 0, 4, 255]), (0x0C, le 4 1), (0x14, le 2 8), (0x16, le 2 4), (0x19, [0xFF]), (0x1C, le 2 256), (0x20, le 4 1280000)]), ⟨zeros 64, none, 9⟩, storeAsk ((setMap 3 (fun d => { d with cfg := some (mapCfgOf (cmdOf 0x0500 [(0x08, [3, 0, 4, 255]), (0x0C, le 4 1), (0x14, le 2 8), (0x16, le 2 4), (0x19, [0xFF]), (0x1C, le 2 256), (0x20, le 4 1280000)])), record := some ⟨zeros 64, none, 9⟩ }) (taskState id State.reset)) : State), rfl, by decide, by decide, rfl, by decide⟩

theorem test_meets_DensityMapsAreManagedAndExport_14 : ∃ (s : State) (m : Fin 8) (u : State),
      s.eddy.maps[m].sweep = none ∧
      s.eddy.maps[m].exporting = true ∧
      u = storeAsk s ∧
      storeServes u = false :=
  ⟨({ (setMap 3 (fun d => { d with cfg := some (mapCfgOf (cmdOf 0x0500 [(0x08, [3, 0, 4, 255]), (0x0C, le 4 1), (0x14, le 2 8), (0x16, le 2 4), (0x19, [0xFF]), (0x1C, le 2 256), (0x20, le 4 1280000)])), writing := some 1 }) (taskState id State.reset)) with store := { (storeReady State.reset).store with state := .halted } } : State), 3, storeAsk ({ (setMap 3 (fun d => { d with cfg := some (mapCfgOf (cmdOf 0x0500 [(0x08, [3, 0, 4, 255]), (0x0C, le 4 1), (0x14, le 2 8), (0x16, le 2 4), (0x19, [0xFF]), (0x1C, le 2 256), (0x20, le 4 1280000)])), writing := some 1 }) (taskState id State.reset)) with store := { (storeReady State.reset).store with state := .halted } } : State), by decide, by decide, rfl, by decide⟩

theorem test_meets_ScanOutFetchesAndTheSinkAnswers_1 : ∃ (s : State) (v : State),
      s.scn.running = true ∧
      s.scn.pixelPaused = false ∧
      v = waitUp (s.scn.frameAt + frameTicks s.scn.timing) s ∧
      scnEnabled v = true :=
  ⟨((storeReady { State.reset with scn := { ScanOut.reset with running := true } }).setReg (kScn 0) 1 : State), waitUp (((storeReady { State.reset with scn := { ScanOut.reset with running := true } }).setReg (kScn 0) 1 : State).scn.frameAt + frameTicks ((storeReady { State.reset with scn := { ScanOut.reset with running := true } }).setReg (kScn 0) 1 : State).scn.timing) ((storeReady { State.reset with scn := { ScanOut.reset with running := true } }).setReg (kScn 0) 1 : State), by decide, by decide, rfl, by decide⟩

theorem test_meets_ScanOutFetchesAndTheSinkAnswers_2 : ∃ (s : State) (v : State),
      s.scn.running = true ∧
      s.scn.pixelPaused = false ∧
      v = waitUp (s.scn.frameAt + frameTicks s.scn.timing) s ∧
      scnEnabled v = true ∧
      timingApplied v = false ∧
      (∀ l : Fin 4, (v.reg (kLayer l.val 0x24)).getLsbD 0 = false) :=
  ⟨((storeReady { State.reset with scn := { ScanOut.reset with running := true } }).setReg (kScn 0) 1 : State), waitUp (((storeReady { State.reset with scn := { ScanOut.reset with running := true } }).setReg (kScn 0) 1 : State).scn.frameAt + frameTicks ((storeReady { State.reset with scn := { ScanOut.reset with running := true } }).setReg (kScn 0) 1 : State).scn.timing) ((storeReady { State.reset with scn := { ScanOut.reset with running := true } }).setReg (kScn 0) 1 : State), by decide, by decide, rfl, by decide, by decide, by decide⟩

theorem test_meets_ScanOutFetchesAndTheSinkAnswers_3 : ∃ (s : State) (v : State) (p : List Nat),
      s.scn.running = true ∧
      s.scn.pixelPaused = false ∧
      v = waitUp (s.scn.frameAt + frameTicks s.scn.timing) s ∧
      scnEnabled v = true ∧
      timingApplied v = false ∧
      (∀ l : Fin 4, (v.reg (kLayer l.val 0x24)).getLsbD 0 = false) ∧
      s.scn.layers[0].set.en = true ∧
      s.scn.layers[0].set.follow = true ∧
      followedPlanes v v.scn.layers[0].set = some p :=
  ⟨((setMap 0 (fun d => { d with cfg := some (mapCfgOf (cmdOf 0x0500 [(0x08, [3, 0, 4, 255]), (0x0C, le 4 1), (0x14, le 2 8), (0x16, le 2 4), (0x19, [0xFF]), (0x1C, le 2 256), (0x20, le 4 1280000)])), newest := some 0, planeBase := 4096 }) { storeReady State.reset with scn := { ScanOut.reset with running := true, layers := Vector.replicate 4 { Layer.reset 0 with set := { (Layer.reset 0).set with ctrl := 3 } } } }).setReg (kScn 0) 1 : State), waitUp (((setMap 0 (fun d => { d with cfg := some (mapCfgOf (cmdOf 0x0500 [(0x08, [3, 0, 4, 255]), (0x0C, le 4 1), (0x14, le 2 8), (0x16, le 2 4), (0x19, [0xFF]), (0x1C, le 2 256), (0x20, le 4 1280000)])), newest := some 0, planeBase := 4096 }) { storeReady State.reset with scn := { ScanOut.reset with running := true, layers := Vector.replicate 4 { Layer.reset 0 with set := { (Layer.reset 0).set with ctrl := 3 } } } }).setReg (kScn 0) 1 : State).scn.frameAt + frameTicks ((setMap 0 (fun d => { d with cfg := some (mapCfgOf (cmdOf 0x0500 [(0x08, [3, 0, 4, 255]), (0x0C, le 4 1), (0x14, le 2 8), (0x16, le 2 4), (0x19, [0xFF]), (0x1C, le 2 256), (0x20, le 4 1280000)])), newest := some 0, planeBase := 4096 }) { storeReady State.reset with scn := { ScanOut.reset with running := true, layers := Vector.replicate 4 { Layer.reset 0 with set := { (Layer.reset 0).set with ctrl := 3 } } } }).setReg (kScn 0) 1 : State).scn.timing) ((setMap 0 (fun d => { d with cfg := some (mapCfgOf (cmdOf 0x0500 [(0x08, [3, 0, 4, 255]), (0x0C, le 4 1), (0x14, le 2 8), (0x16, le 2 4), (0x19, [0xFF]), (0x1C, le 2 256), (0x20, le 4 1280000)])), newest := some 0, planeBase := 4096 }) { storeReady State.reset with scn := { ScanOut.reset with running := true, layers := Vector.replicate 4 { Layer.reset 0 with set := { (Layer.reset 0).set with ctrl := 3 } } } }).setReg (kScn 0) 1 : State), [4096, 5120], by decide, by decide, rfl, by decide, by decide, by decide, by decide, rfl, by decide⟩

theorem test_meets_ScanOutFetchesAndTheSinkAnswers_4 : ∃ (s : State) (v : State) (k : Fin 4),
      s.scn.running = true ∧
      s.scn.pixelPaused = false ∧
      v = waitUp (s.scn.frameAt + frameTicks s.scn.timing) s ∧
      scnEnabled v = true ∧
      timingApplied v = false ∧
      (∀ l : Fin 4, l ≠ k → (v.reg (kLayer l.val 0x24)).getLsbD 0 = false) ∧
      (v.reg (kLayer k.val 0x24)).getLsbD 0 = true ∧
      layerCause v k (layerShadow v k) = 0 :=
  ⟨(scnShadow : State), waitUp ((scnShadow : State).scn.frameAt + frameTicks (scnShadow : State).scn.timing) (scnShadow : State), 3, by decide, by decide, rfl, by decide, by decide, by decide, by decide, by decide⟩

theorem test_meets_ScanOutFetchesAndTheSinkAnswers_5 : ∃ (s : State) (v : State),
      s.scn.running = true ∧
      s.scn.pixelPaused = false ∧
      v = waitUp (s.scn.frameAt + frameTicks s.scn.timing) s ∧
      scnEnabled v = false :=
  ⟨({ State.reset with scn := { ScanOut.reset with running := true } } : State), waitUp (({ State.reset with scn := { ScanOut.reset with running := true } } : State).scn.frameAt + frameTicks ({ State.reset with scn := { ScanOut.reset with running := true } } : State).scn.timing) ({ State.reset with scn := { ScanOut.reset with running := true } } : State), by decide, by decide, rfl, by decide⟩

def test_meets_ScanOutFetchesAndTheSinkAnswers_6_s : State := scanState
def test_meets_ScanOutFetchesAndTheSinkAnswers_6_l : Fin 4 := 3
def test_meets_ScanOutFetchesAndTheSinkAnswers_6_f : Nat := 16384
def test_meets_ScanOutFetchesAndTheSinkAnswers_6_v : State := waitUp (layerDeadline test_meets_ScanOutFetchesAndTheSinkAnswers_6_s 3 - (max 38 (test_meets_ScanOutFetchesAndTheSinkAnswers_6_s.field (kScn 0x18) 15 0) + 16) * usTicks) test_meets_ScanOutFetchesAndTheSinkAnswers_6_s
def test_meets_ScanOutFetchesAndTheSinkAnswers_6_u : State := storeAsk test_meets_ScanOutFetchesAndTheSinkAnswers_6_v
theorem test_meets_ScanOutFetchesAndTheSinkAnswers_6_h0 : (fun (s : State) (l : Fin 4) (f : Nat) (v : State) (u : State) => scnEnabled s = true) test_meets_ScanOutFetchesAndTheSinkAnswers_6_s test_meets_ScanOutFetchesAndTheSinkAnswers_6_l test_meets_ScanOutFetchesAndTheSinkAnswers_6_f test_meets_ScanOutFetchesAndTheSinkAnswers_6_v test_meets_ScanOutFetchesAndTheSinkAnswers_6_u := by
  beta_reduce
  decide
theorem test_meets_ScanOutFetchesAndTheSinkAnswers_6_h1 : (fun (s : State) (l : Fin 4) (f : Nat) (v : State) (u : State) => s.scn.running = true) test_meets_ScanOutFetchesAndTheSinkAnswers_6_s test_meets_ScanOutFetchesAndTheSinkAnswers_6_l test_meets_ScanOutFetchesAndTheSinkAnswers_6_f test_meets_ScanOutFetchesAndTheSinkAnswers_6_v test_meets_ScanOutFetchesAndTheSinkAnswers_6_u := by
  beta_reduce
  decide
theorem test_meets_ScanOutFetchesAndTheSinkAnswers_6_h2 : (fun (s : State) (l : Fin 4) (f : Nat) (v : State) (u : State) => s.scn.pixelPaused = false) test_meets_ScanOutFetchesAndTheSinkAnswers_6_s test_meets_ScanOutFetchesAndTheSinkAnswers_6_l test_meets_ScanOutFetchesAndTheSinkAnswers_6_f test_meets_ScanOutFetchesAndTheSinkAnswers_6_v test_meets_ScanOutFetchesAndTheSinkAnswers_6_u := by
  beta_reduce
  decide
theorem test_meets_ScanOutFetchesAndTheSinkAnswers_6_h3 : (fun (s : State) (l : Fin 4) (f : Nat) (v : State) (u : State) => layerLive s l = true) test_meets_ScanOutFetchesAndTheSinkAnswers_6_s test_meets_ScanOutFetchesAndTheSinkAnswers_6_l test_meets_ScanOutFetchesAndTheSinkAnswers_6_f test_meets_ScanOutFetchesAndTheSinkAnswers_6_v test_meets_ScanOutFetchesAndTheSinkAnswers_6_u := by
  beta_reduce
  decide
theorem test_meets_ScanOutFetchesAndTheSinkAnswers_6_h4 : (fun (s : State) (l : Fin 4) (f : Nat) (v : State) (u : State) => s.scn.layers[l].fetching = false) test_meets_ScanOutFetchesAndTheSinkAnswers_6_s test_meets_ScanOutFetchesAndTheSinkAnswers_6_l test_meets_ScanOutFetchesAndTheSinkAnswers_6_f test_meets_ScanOutFetchesAndTheSinkAnswers_6_v test_meets_ScanOutFetchesAndTheSinkAnswers_6_u := by
  beta_reduce
  decide
theorem test_meets_ScanOutFetchesAndTheSinkAnswers_6_h5 : (fun (s : State) (l : Fin 4) (f : Nat) (v : State) (u : State) => s.scn.layers[l].fetched < s.scn.layers[l].set.frameBytes l) test_meets_ScanOutFetchesAndTheSinkAnswers_6_s test_meets_ScanOutFetchesAndTheSinkAnswers_6_l test_meets_ScanOutFetchesAndTheSinkAnswers_6_f test_meets_ScanOutFetchesAndTheSinkAnswers_6_v test_meets_ScanOutFetchesAndTheSinkAnswers_6_u := by
  beta_reduce
  decide
theorem test_meets_ScanOutFetchesAndTheSinkAnswers_6_h6 : (fun (s : State) (l : Fin 4) (f : Nat) (v : State) (u : State) => v = waitUp (layerDeadline s l - (max 38 (s.field (kScn 0x18) 15 0) + 16) * usTicks) s) test_meets_ScanOutFetchesAndTheSinkAnswers_6_s test_meets_ScanOutFetchesAndTheSinkAnswers_6_l test_meets_ScanOutFetchesAndTheSinkAnswers_6_f test_meets_ScanOutFetchesAndTheSinkAnswers_6_v test_meets_ScanOutFetchesAndTheSinkAnswers_6_u := by
  beta_reduce
  exact rfl
theorem test_meets_ScanOutFetchesAndTheSinkAnswers_6_h7 : (fun (s : State) (l : Fin 4) (f : Nat) (v : State) (u : State) => u = storeAsk v) test_meets_ScanOutFetchesAndTheSinkAnswers_6_s test_meets_ScanOutFetchesAndTheSinkAnswers_6_l test_meets_ScanOutFetchesAndTheSinkAnswers_6_f test_meets_ScanOutFetchesAndTheSinkAnswers_6_v test_meets_ScanOutFetchesAndTheSinkAnswers_6_u := by
  beta_reduce
  exact rfl
theorem test_meets_ScanOutFetchesAndTheSinkAnswers_6_h8 : (fun (s : State) (l : Fin 4) (f : Nat) (v : State) (u : State) => f = u.scn.layers[l].set.frameBytes l) test_meets_ScanOutFetchesAndTheSinkAnswers_6_s test_meets_ScanOutFetchesAndTheSinkAnswers_6_l test_meets_ScanOutFetchesAndTheSinkAnswers_6_f test_meets_ScanOutFetchesAndTheSinkAnswers_6_v test_meets_ScanOutFetchesAndTheSinkAnswers_6_u := by
  beta_reduce
  decide
theorem test_meets_ScanOutFetchesAndTheSinkAnswers_6_h9 : (fun (s : State) (l : Fin 4) (f : Nat) (v : State) (u : State) => storeServes u = true) test_meets_ScanOutFetchesAndTheSinkAnswers_6_s test_meets_ScanOutFetchesAndTheSinkAnswers_6_l test_meets_ScanOutFetchesAndTheSinkAnswers_6_f test_meets_ScanOutFetchesAndTheSinkAnswers_6_v test_meets_ScanOutFetchesAndTheSinkAnswers_6_u := by
  beta_reduce
  decide
theorem test_meets_ScanOutFetchesAndTheSinkAnswers_6 : ∃ (s : State) (l : Fin 4) (f : Nat) (v : State) (u : State),
      scnEnabled s = true ∧
      s.scn.running = true ∧
      s.scn.pixelPaused = false ∧
      layerLive s l = true ∧
      s.scn.layers[l].fetching = false ∧
      s.scn.layers[l].fetched < s.scn.layers[l].set.frameBytes l ∧
      v = waitUp (layerDeadline s l - (max 38 (s.field (kScn 0x18) 15 0) + 16) * usTicks) s ∧
      u = storeAsk v ∧
      f = u.scn.layers[l].set.frameBytes l ∧
      storeServes u = true :=
  ⟨test_meets_ScanOutFetchesAndTheSinkAnswers_6_s, test_meets_ScanOutFetchesAndTheSinkAnswers_6_l, test_meets_ScanOutFetchesAndTheSinkAnswers_6_f, test_meets_ScanOutFetchesAndTheSinkAnswers_6_v, test_meets_ScanOutFetchesAndTheSinkAnswers_6_u, test_meets_ScanOutFetchesAndTheSinkAnswers_6_h0, test_meets_ScanOutFetchesAndTheSinkAnswers_6_h1, test_meets_ScanOutFetchesAndTheSinkAnswers_6_h2, test_meets_ScanOutFetchesAndTheSinkAnswers_6_h3, test_meets_ScanOutFetchesAndTheSinkAnswers_6_h4, test_meets_ScanOutFetchesAndTheSinkAnswers_6_h5, test_meets_ScanOutFetchesAndTheSinkAnswers_6_h6, test_meets_ScanOutFetchesAndTheSinkAnswers_6_h7, test_meets_ScanOutFetchesAndTheSinkAnswers_6_h8, test_meets_ScanOutFetchesAndTheSinkAnswers_6_h9⟩

def test_meets_ScanOutFetchesAndTheSinkAnswers_7_s : State := { scanState with store := { scanState.store with state := .selfRefresh } }
def test_meets_ScanOutFetchesAndTheSinkAnswers_7_l : Fin 4 := 3
def test_meets_ScanOutFetchesAndTheSinkAnswers_7_v : State := waitUp (layerDeadline test_meets_ScanOutFetchesAndTheSinkAnswers_7_s 3 - (max 38 (test_meets_ScanOutFetchesAndTheSinkAnswers_7_s.field (kScn 0x18) 15 0) + 16) * usTicks) test_meets_ScanOutFetchesAndTheSinkAnswers_7_s
def test_meets_ScanOutFetchesAndTheSinkAnswers_7_u : State := storeAsk test_meets_ScanOutFetchesAndTheSinkAnswers_7_v
theorem test_meets_ScanOutFetchesAndTheSinkAnswers_7_h0 : (fun (s : State) (l : Fin 4) (v : State) (u : State) => scnEnabled s = true) test_meets_ScanOutFetchesAndTheSinkAnswers_7_s test_meets_ScanOutFetchesAndTheSinkAnswers_7_l test_meets_ScanOutFetchesAndTheSinkAnswers_7_v test_meets_ScanOutFetchesAndTheSinkAnswers_7_u := by
  beta_reduce
  decide
theorem test_meets_ScanOutFetchesAndTheSinkAnswers_7_h1 : (fun (s : State) (l : Fin 4) (v : State) (u : State) => s.scn.running = true) test_meets_ScanOutFetchesAndTheSinkAnswers_7_s test_meets_ScanOutFetchesAndTheSinkAnswers_7_l test_meets_ScanOutFetchesAndTheSinkAnswers_7_v test_meets_ScanOutFetchesAndTheSinkAnswers_7_u := by
  beta_reduce
  decide
theorem test_meets_ScanOutFetchesAndTheSinkAnswers_7_h2 : (fun (s : State) (l : Fin 4) (v : State) (u : State) => s.scn.pixelPaused = false) test_meets_ScanOutFetchesAndTheSinkAnswers_7_s test_meets_ScanOutFetchesAndTheSinkAnswers_7_l test_meets_ScanOutFetchesAndTheSinkAnswers_7_v test_meets_ScanOutFetchesAndTheSinkAnswers_7_u := by
  beta_reduce
  decide
theorem test_meets_ScanOutFetchesAndTheSinkAnswers_7_h3 : (fun (s : State) (l : Fin 4) (v : State) (u : State) => layerLive s l = true) test_meets_ScanOutFetchesAndTheSinkAnswers_7_s test_meets_ScanOutFetchesAndTheSinkAnswers_7_l test_meets_ScanOutFetchesAndTheSinkAnswers_7_v test_meets_ScanOutFetchesAndTheSinkAnswers_7_u := by
  beta_reduce
  decide
theorem test_meets_ScanOutFetchesAndTheSinkAnswers_7_h4 : (fun (s : State) (l : Fin 4) (v : State) (u : State) => s.scn.layers[l].fetching = false) test_meets_ScanOutFetchesAndTheSinkAnswers_7_s test_meets_ScanOutFetchesAndTheSinkAnswers_7_l test_meets_ScanOutFetchesAndTheSinkAnswers_7_v test_meets_ScanOutFetchesAndTheSinkAnswers_7_u := by
  beta_reduce
  decide
theorem test_meets_ScanOutFetchesAndTheSinkAnswers_7_h5 : (fun (s : State) (l : Fin 4) (v : State) (u : State) => s.scn.layers[l].fetched < s.scn.layers[l].set.frameBytes l) test_meets_ScanOutFetchesAndTheSinkAnswers_7_s test_meets_ScanOutFetchesAndTheSinkAnswers_7_l test_meets_ScanOutFetchesAndTheSinkAnswers_7_v test_meets_ScanOutFetchesAndTheSinkAnswers_7_u := by
  beta_reduce
  decide
theorem test_meets_ScanOutFetchesAndTheSinkAnswers_7_h6 : (fun (s : State) (l : Fin 4) (v : State) (u : State) => v = waitUp (layerDeadline s l - (max 38 (s.field (kScn 0x18) 15 0) + 16) * usTicks) s) test_meets_ScanOutFetchesAndTheSinkAnswers_7_s test_meets_ScanOutFetchesAndTheSinkAnswers_7_l test_meets_ScanOutFetchesAndTheSinkAnswers_7_v test_meets_ScanOutFetchesAndTheSinkAnswers_7_u := by
  beta_reduce
  exact rfl
theorem test_meets_ScanOutFetchesAndTheSinkAnswers_7_h7 : (fun (s : State) (l : Fin 4) (v : State) (u : State) => u = storeAsk v) test_meets_ScanOutFetchesAndTheSinkAnswers_7_s test_meets_ScanOutFetchesAndTheSinkAnswers_7_l test_meets_ScanOutFetchesAndTheSinkAnswers_7_v test_meets_ScanOutFetchesAndTheSinkAnswers_7_u := by
  beta_reduce
  exact rfl
theorem test_meets_ScanOutFetchesAndTheSinkAnswers_7_h8 : (fun (s : State) (l : Fin 4) (v : State) (u : State) => storeServes u = false) test_meets_ScanOutFetchesAndTheSinkAnswers_7_s test_meets_ScanOutFetchesAndTheSinkAnswers_7_l test_meets_ScanOutFetchesAndTheSinkAnswers_7_v test_meets_ScanOutFetchesAndTheSinkAnswers_7_u := by
  beta_reduce
  decide
theorem test_meets_ScanOutFetchesAndTheSinkAnswers_7 : ∃ (s : State) (l : Fin 4) (v : State) (u : State),
      scnEnabled s = true ∧
      s.scn.running = true ∧
      s.scn.pixelPaused = false ∧
      layerLive s l = true ∧
      s.scn.layers[l].fetching = false ∧
      s.scn.layers[l].fetched < s.scn.layers[l].set.frameBytes l ∧
      v = waitUp (layerDeadline s l - (max 38 (s.field (kScn 0x18) 15 0) + 16) * usTicks) s ∧
      u = storeAsk v ∧
      storeServes u = false :=
  ⟨test_meets_ScanOutFetchesAndTheSinkAnswers_7_s, test_meets_ScanOutFetchesAndTheSinkAnswers_7_l, test_meets_ScanOutFetchesAndTheSinkAnswers_7_v, test_meets_ScanOutFetchesAndTheSinkAnswers_7_u, test_meets_ScanOutFetchesAndTheSinkAnswers_7_h0, test_meets_ScanOutFetchesAndTheSinkAnswers_7_h1, test_meets_ScanOutFetchesAndTheSinkAnswers_7_h2, test_meets_ScanOutFetchesAndTheSinkAnswers_7_h3, test_meets_ScanOutFetchesAndTheSinkAnswers_7_h4, test_meets_ScanOutFetchesAndTheSinkAnswers_7_h5, test_meets_ScanOutFetchesAndTheSinkAnswers_7_h6, test_meets_ScanOutFetchesAndTheSinkAnswers_7_h7, test_meets_ScanOutFetchesAndTheSinkAnswers_7_h8⟩

theorem test_meets_ScanOutFetchesAndTheSinkAnswers_8 : ∃ (s : State) (l : Fin 4) (u : State),
      scnEnabled s = true ∧
      s.scn.running = true ∧
      s.scn.pixelPaused = false ∧
      layerLive s l = true ∧
      s.scn.layers[l].fetching = true ∧
      u = storeAsk s ∧
      storeServes u = true :=
  ⟨({ scanState with scn := { scanState.scn with layers := Vector.replicate 4 { scanLayer with fetching := true } } } : State), 3, storeAsk ({ scanState with scn := { scanState.scn with layers := Vector.replicate 4 { scanLayer with fetching := true } } } : State), by decide, by decide, by decide, by decide, by decide, rfl, by decide⟩

theorem test_meets_ScanOutFetchesAndTheSinkAnswers_9 : ∃ (s : State) (l : Fin 4),
      scnEnabled s = true ∧
      s.scn.running = true ∧
      s.scn.pixelPaused = false ∧
      layerLive s l = true ∧
      s.scn.layers[l].underrunNow = false ∧
      s.scn.layers[l].fetched < s.scn.layers[l].set.frameBytes l :=
  ⟨(scanState : State), 3, by decide, by decide, by decide, by decide, by decide, by decide⟩

theorem test_meets_ScanOutFetchesAndTheSinkAnswers_10 : ∃ (s : State) (d : DpState),
      s.scn.hpd = true ∧
      s.scn.auxWaiting = false ∧
      s.scn.link = d ∧
      d ≠ .off :=
  ⟨({ State.reset with scn := { ScanOut.reset with hpd := true, link := .active } } : State), .active, by decide, by decide, by decide, by decide⟩

theorem test_meets_ScanOutFetchesAndTheSinkAnswers_11 : ∃ (s : State),
      s.scn.hpd = false ∧
      s.jtag.pinsTaken = false ∧
      scnEnabled s = true :=
  ⟨((storeReady { State.reset with scn := { ScanOut.reset with hpd := false } }).setReg (kScn 0) 1 : State), by decide, by decide, by decide⟩

theorem test_meets_ScanOutFetchesAndTheSinkAnswers_12 : ∃ (s : State),
      s.scn.hpd = false ∧
      s.jtag.pinsTaken = false ∧
      scnEnabled s = false :=
  ⟨({ State.reset with scn := { ScanOut.reset with hpd := false } } : State), by decide, by decide, by decide⟩

theorem test_meets_ScanOutFetchesAndTheSinkAnswers_13 : ∃ (s : State) (lost : Bool),
      s.scn.hpd = true ∧
      (lost = false ∨ scnEnabled s = false) :=
  ⟨({ State.reset with scn := { ScanOut.reset with hpd := true } } : State), true, by decide, by decide⟩

theorem test_meets_ScanOutFetchesAndTheSinkAnswers_14 : ∃ (s : State),
      s.scn.hpd = true ∧
      scnEnabled s = true ∧
      (s.scn.link = .active ∨ s.scn.link = .training) :=
  ⟨(({ State.reset with scn := { ScanOut.reset with hpd := true, link := .active } } : State).setReg (kScn 0) 1 : State), by decide, by decide, by decide⟩

theorem test_meets_ScanOutFetchesAndTheSinkAnswers_15 : ∃ (s : State) (down : Bool),
      s.scn.link = .training ∧
      s.clk.synths[2].state ≠ .bypass ∧
      rootBypassed s = false ∧
      s.scn.auxWaiting = false :=
  ⟨(storeReady { State.reset with scn := { ScanOut.reset with hpd := true, link := .training } } : State), true, by decide, by decide, by decide, by decide⟩

theorem test_meets_ScanOutFetchesAndTheSinkAnswers_16 : ∃ (s : State) (down : Bool),
      s.scn.link = .training ∧
      s.clk.synths[2].state ≠ .bypass ∧
      rootBypassed s = false ∧
      s.scn.auxWaiting = false :=
  ⟨(storeReady { State.reset with scn := { ScanOut.reset with hpd := true, link := .training } } : State), true, by decide, by decide, by decide, by decide⟩

theorem test_meets_ScanOutFetchesAndTheSinkAnswers_17 : ∃ (s : State),
      s.scn.link = .failed ∧
      s.scn.hpd = true :=
  ⟨(storeReady { State.reset with scn := { ScanOut.reset with hpd := true, link := .failed } } : State), by decide, by decide⟩

theorem test_meets_ScanOutFetchesAndTheSinkAnswers_18 : ∃ (s : State) (x : AuxOp) (d : Data),
      s.scn.aux = some x :=
  ⟨({ State.reset with scn := { ScanOut.reset with aux := some ⟨9, 0, 4, 7, 0⟩ } } : State), ⟨9, 0, 4, 7, 0⟩, [1, 2], by decide⟩

theorem test_meets_ScanOutFetchesAndTheSinkAnswers_19 : ∃ (s : State) (x : AuxOp) (d : Data),
      s.scn.aux = some x :=
  ⟨({ State.reset with scn := { ScanOut.reset with aux := some ⟨9, 0, 4, 7, 0⟩ } } : State), ⟨9, 0, 4, 7, 0⟩, [1, 2], by decide⟩

theorem test_meets_ScanOutFetchesAndTheSinkAnswers_20 : ∃ (s : State) (x : AuxOp) (d : Data),
      s.scn.aux = some x ∧
      x.defers < 7 :=
  ⟨({ State.reset with scn := { ScanOut.reset with aux := some ⟨9, 0, 4, 6, 0⟩ } } : State), ⟨9, 0, 4, 6, 0⟩, [], by decide, by decide⟩

theorem test_meets_ScanOutFetchesAndTheSinkAnswers_21 : ∃ (s : State) (x : AuxOp) (d : Data),
      s.scn.aux = some x ∧
      7 ≤ x.defers :=
  ⟨({ State.reset with scn := { ScanOut.reset with aux := some ⟨9, 0, 4, 7, 0⟩ } } : State), ⟨9, 0, 4, 7, 0⟩, [], by decide, by decide⟩

theorem test_meets_ScanOutFetchesAndTheSinkAnswers_22 : ∃ (s : State) (x : AuxOp),
      s.scn.aux = some x :=
  ⟨({ State.reset with scn := { ScanOut.reset with aux := some ⟨9, 0, 4, 7, 0⟩ } } : State), ⟨9, 0, 4, 7, 0⟩, by decide⟩

theorem test_meets_StreamsOpenAndClose_1 : ∃ (s : State) (id : Nat) (c : Cmd) (n : Fin 16),
      Runs s id 0x0600 (fun c => !bit (c.p16 0x0A) 15) c ∧
      Passes [entryCheck c streamUsed [], deviceCheck s c, needState (s.tw[n].state = .closed && !waitsPower s (.stream n.val)), params (streamParams s c),
        needState ((iqChannels (c.p32 0x30)).all fun x => s.inlets[x.2].state = .running), params (iqParams s c)] ∧
      c.p8 0x08 = n.val ∧
      streamDest c = 0 ∧
      declaredRates s + streamRate c ≤ streamLimit s ∧
      stageFits s mib = true ∧
      Admits s (.stream n.val) [(lcRecords, 2000 * streamRate c)] ∧
      GrantsAtOnce (addReservations (.stream n.val) [(lcRecords, 2000 * streamRate c)] s) (cost [(pcStream, storeUnits (2000 * streamRate c))]) :=
  ⟨(cmdState 0x0600 [(0x08, [3]), (0x0C, le 4 100), (0x18, le 8 65536)] (storeReady) : State), 1, cmdOf 0x0600 [(0x08, [3]), (0x0C, le 4 100), (0x18, le 8 65536)], 3, ⟨rfl, rfl, rfl, rfl, rfl⟩, by decide, by decide, by decide, by decide, by decide, by decide, by decide⟩

theorem test_meets_StreamsOpenAndClose_2 : ∃ (s : State) (id : Nat) (c : Cmd) (n : Fin 16) (u : State),
      Runs s id 0x0600 (fun c => !bit (c.p16 0x0A) 15) c ∧
      Passes [entryCheck c streamUsed [], deviceCheck s c, needState (s.tw[n].state = .closed && !waitsPower s (.stream n.val)), params (streamParams s c),
        needState ((iqChannels (c.p32 0x30)).all fun x => s.inlets[x.2].state = .running), params (iqParams s c), need (reachable s.link (c.p64 0x10 % 65536)) stLink 0] ∧
      c.p8 0x08 = n.val ∧
      streamDest c = 2 ∧
      stageFits s mib = true ∧
      admitFlow (.stream n.val) (c.p64 0x10 % 65536) (streamRate c) 0 s = some u ∧
      Admits u (.stream n.val) [(lcRecords, 2000 * streamRate c), (lcLinks, 1000 * streamRate c)] ∧
      GrantsAtOnce (addReservations (.stream n.val) [(lcRecords, 2000 * streamRate c), (lcLinks, 1000 * streamRate c)] u) (cost [(pcStream, storeUnits (3000 * streamRate c))]) :=
  ⟨(cmdState 0x0600 [(0x08, [3, 2]), (0x0C, le 4 100), (0x10, le 8 9)] (fun s => linked id (storeReady s)) : State), 1, cmdOf 0x0600 [(0x08, [3, 2]), (0x0C, le 4 100), (0x10, le 8 9)], 3, (admitFlow (.stream 3) 9 100 0 (cmdState 0x0600 [(0x08, [3, 2]), (0x0C, le 4 100), (0x10, le 8 9)] (fun s => linked id (storeReady s)) : State)).getD State.reset, ⟨rfl, rfl, rfl, rfl, rfl⟩, by decide, by decide, by decide, by decide, rfl, by decide, by decide⟩

theorem test_meets_StreamsOpenAndClose_3 : ∃ (s : State) (id : Nat) (c : Cmd) (n : Fin 16),
      Runs s id 0x0600 (fun c => bit (c.p16 0x0A) 15) c ∧
      Passes [deviceCheck s c, params [(0x10, aligned64 (c.p64 0x10))]] ∧
      c.p8 0x08 = n.val :=
  ⟨(cmdState 0x0600 [(0x08, [3]), (0x0A, le 2 32768)] id : State), 1, cmdOf 0x0600 [(0x08, [3]), (0x0A, le 2 32768)], 3, ⟨rfl, rfl, rfl, rfl, rfl⟩, by decide, by decide⟩

theorem test_meets_StreamsOpenAndClose_4 : ∃ (s : State) (id : Nat) (c : Cmd) (n : Fin 16),
      Runs s id 0x0601 anyCmd c ∧
      Passes [entryCheck c [(0x08, 1)] [], deviceCheck s c] ∧
      c.p8 0x08 = n.val ∧
      (s.tw[n].state = .open_ ∨ s.tw[n].state = .paused) :=
  ⟨(cmdState 0x0601 [(0x08, [3])] (fun s => { s with tw := Vector.replicate 16 streamBase }) : State), 1, cmdOf 0x0601 [(0x08, [3])], 3, ⟨rfl, rfl, rfl, rfl, rfl⟩, by decide, by decide, by decide⟩

theorem test_meets_StreamsOpenAndClose_5 : ∃ (s : State) (id : Nat) (c : Cmd) (n : Fin 16),
      Runs s id 0x0601 anyCmd c ∧
      Passes [entryCheck c [(0x08, 1)] [], deviceCheck s c] ∧
      c.p8 0x08 = n.val ∧
      s.tw[n].state = .failed :=
  ⟨(cmdState 0x0601 [(0x08, [3])] (fun s => { s with tw := Vector.replicate 16 { streamBase with state := .failed } }) : State), 1, cmdOf 0x0601 [(0x08, [3])], 3, ⟨rfl, rfl, rfl, rfl, rfl⟩, by decide, by decide, by decide⟩

theorem test_meets_RecordsAreDelivered_1 : ∃ (s : State) (n : Fin 16) (r : Accepted) (l : List Accepted) (v : State) (w : State),
      s.tw[n].state = .open_ ∧
      v = storeAsk s ∧
      storeServes v = true ∧
      s.tw[n].dest = 0 ∧
      s.tw[n].queue = r :: l ∧
      masters v = true ∧
      r.producer ≠ prodEnd ∧
      s.tw[n].tail - s.tw[n].head + (placed r (deliverable v r) s.tw[n].seqNext).length ≤ s.tw[n].ringSize ∧
      w = setStream n (fun t => { t with tail := t.tail + (placed r (deliverable v r) s.tw[n].seqNext).length }) (setStream n (fun t => { t with queue := l, backlog := t.backlog - r.bytes.length, seqNext := t.seqNext + 1, delivered := t.delivered + (placed r (deliverable v r) s.tw[n].seqNext).length, records := t.records + 1, gapRecords := t.gapRecords + b2n (decide (recType (placed r (deliverable v r) s.tw[n].seqNext) = rtGap ∧ recCause (placed r (deliverable v r) s.tw[n].seqNext) = 1)) }) (ringWrite s.tw[n].noSnoop s.tw[n].ringBase s.tw[n].ringSize s.tw[n].tail (placed r (deliverable v r) s.tw[n].seqNext) (reportRead r v))) :=
  ⟨(streamState id : State), 3, recOne, [], storeAsk (streamState id : State), (fun (v s : State) (r : Accepted) (l : List Accepted) (n : Fin 16) => setStream n (fun t => { t with tail := t.tail + (placed r (deliverable v r) s.tw[n].seqNext).length }) (setStream n (fun t => { t with queue := l, backlog := t.backlog - r.bytes.length, seqNext := t.seqNext + 1, delivered := t.delivered + (placed r (deliverable v r) s.tw[n].seqNext).length, records := t.records + 1, gapRecords := t.gapRecords + b2n (decide (recType (placed r (deliverable v r) s.tw[n].seqNext) = rtGap ∧ recCause (placed r (deliverable v r) s.tw[n].seqNext) = 1)) }) (ringWrite s.tw[n].noSnoop s.tw[n].ringBase s.tw[n].ringSize s.tw[n].tail (placed r (deliverable v r) s.tw[n].seqNext) (reportRead r v)))) (storeAsk (streamState id : State)) (streamState id : State) recOne [] 3, by decide, rfl, by decide, by decide, by decide, by decide, by decide, by decide, rfl⟩

theorem test_meets_RecordsAreDelivered_2 : ∃ (s : State) (n : Fin 16) (r : Accepted) (l : List Accepted) (v : State),
      s.tw[n].state = .open_ ∧
      v = storeAsk s ∧
      storeServes v = true ∧
      s.tw[n].dest = 0 ∧
      s.tw[n].queue = r :: l ∧
      s.tw[n].ringSize < s.tw[n].tail - s.tw[n].head + (placed r (deliverable v r) s.tw[n].seqNext).length :=
  ⟨(streamState (fun t => { t with tail := 65500 }) : State), 3, recOne, [], storeAsk (streamState (fun t => { t with tail := 65500 }) : State), by decide, rfl, by decide, by decide, by decide, by decide⟩

theorem test_meets_RecordsAreDelivered_3 : ∃ (s : State) (n : Fin 16) (r : Accepted) (l : List Accepted) (v : State) (x : Nvme),
      s.tw[n].state = .open_ ∧
      v = storeAsk s ∧
      storeServes v = true ∧
      s.tw[n].dest = 1 ∧
      s.tw[n].queue = r :: l ∧
      s.tw[n].nvme = some x ∧
      r.producer ≠ prodEnd ∧
      nvmeIssues v s.tw[n] = true ∧
      logTakes x = true ∧
      x.finalFlush = false ∧
      logFits x (placed r (deliverable v r) s.tw[n].seqNext) false = true :=
  ⟨(nvmeState id : State), 3, recOne, [], storeAsk (nvmeState id : State), nvmeOne, by decide, rfl, by decide, by decide, by decide, by decide, by decide, by decide, by decide, by decide, by decide⟩

theorem test_meets_RecordsAreDelivered_4 : ∃ (s : State) (n : Fin 16) (r : Accepted) (l : List Accepted) (v : State) (x : Nvme),
      s.tw[n].state = .open_ ∧
      v = storeAsk s ∧
      storeServes v = true ∧
      s.tw[n].dest = 1 ∧
      s.tw[n].queue = r :: l ∧
      s.tw[n].nvme = some x ∧
      r.producer ≠ prodEnd ∧
      nvmeIssues v s.tw[n] = true ∧
      logTakes x = true ∧
      x.finalFlush = false ∧
      logFits x (placed r (deliverable v r) s.tw[n].seqNext) false = false :=
  ⟨(nvmeState (fun v => { v with logSlot := 64 }) : State), 3, recOne, [], storeAsk (nvmeState (fun v => { v with logSlot := 64 }) : State), { nvmeOne with logSlot := 64 }, by decide, rfl, by decide, by decide, by decide, by decide, by decide, by decide, by decide, by decide, by decide⟩

theorem test_meets_RecordsAreDelivered_5 : ∃ (s : State) (n : Fin 16) (r : Accepted) (l : List Accepted) (m : List Accepted) (v : State),
      s.tw[n].state = .open_ ∧
      v = storeAsk s ∧
      storeServes v = true ∧
      s.tw[n].dest = 2 ∧
      s.tw[n].queue = m ++ r :: l ∧
      (m.all fun x => x.linkSeq ≠ 0) = true ∧
      r.linkSeq = 0 ∧
      reachable v.link s.tw[n].peerDid = true :=
  ⟨(linked id (streamState fun t => { t with dest := 2, peerDid := 9, linkSeq := 1, queue := [{ recOne with linkSeq := 1 }, recOne] }) : State), 3, recOne, [], [{ recOne with linkSeq := 1 }], storeAsk (linked id (streamState fun t => { t with dest := 2, peerDid := 9, linkSeq := 1, queue := [{ recOne with linkSeq := 1 }, recOne] }) : State), by decide, rfl, by decide, by decide, by decide, by decide, by decide, by decide⟩

theorem test_meets_RecordsAreDelivered_6 : ∃ (s : State) (n : Fin 16) (u : Nat),
      s.tw[n].firstUnannounced = some u ∧
      s.tw[n].notifyUs ≠ 0 :=
  ⟨(streamState (fun t => { t with firstUnannounced := some 5, notifyUs := 2 }) : State), 3, 5, by decide, by decide⟩

theorem test_meets_RecordsAreDelivered_7 : ∃ (s : State) (n : Fin 16) (seq : U64),
      s.tw[n].dest = 2 ∧
      s.tw[n].state = .open_ ∧
      seq.toNat ≤ s.tw[n].linkSeq ∧
      (s.tw[n].queue.all fun r => r.producer ≠ prodEnd) = true :=
  ⟨(streamState (fun t => { t with dest := 2, linkSeq := 1, queue := [{ recOne with linkSeq := 1 }] }) : State), 3, 1, by decide, by decide, by decide, by decide⟩

theorem test_meets_RecordsAreDelivered_8 : ∃ (s : State) (n : Fin 16) (seq : U64) (r : Accepted),
      s.tw[n].dest = 2 ∧
      s.tw[n].state = .closing ∧
      seq.toNat ≤ s.tw[n].linkSeq ∧
      s.tw[n].queue = [r] ∧
      r.producer = prodEnd ∧
      r.linkSeq ≠ 0 ∧
      r.linkSeq ≤ seq.toNat :=
  ⟨(streamState (fun t => { t with state := .closing, dest := 2, linkSeq := 1, queue := [{ recOne with linkSeq := 1, producer := prodEnd }] }) : State), 3, 1, { recOne with linkSeq := 1, producer := prodEnd }, by decide, by decide, by decide, by decide, by decide, by decide, by decide⟩

def test_meets_RecordsAreDelivered_9_s : State := streamState (fun t => { t with fromPeers := [⟨9, 2, 4, [], some 5⟩], fromProducers := [(9, 1, 3, zeros 64)] })
def test_meets_RecordsAreDelivered_9_n : Fin 16 := 3
def test_meets_RecordsAreDelivered_9_did : Nat := 9
def test_meets_RecordsAreDelivered_9_f : PeerFeed := ⟨9, 2, 4, [], some 5⟩
def test_meets_RecordsAreDelivered_9_v : State := waitUp (5 + test_meets_RecordsAreDelivered_9_s.link.cfg.linkHoldMs * msTicks) test_meets_RecordsAreDelivered_9_s
def test_meets_RecordsAreDelivered_9_w : State := forL (test_meets_RecordsAreDelivered_9_v.tw[3].fromProducers.filter (·.1 = 9)) (fun x s => enqueueRecord 3 (prodPeer 9 2 x.2.1) (cutGap x.2.2.2 x.2.2.1 test_meets_RecordsAreDelivered_9_v.clk.tick) none test_meets_RecordsAreDelivered_9_v.clk.tick s) test_meets_RecordsAreDelivered_9_v
theorem test_meets_RecordsAreDelivered_9_h0 : (fun (s : State) (n : Fin 16) (did : Nat) (f : PeerFeed) (v : State) (w : State) => (s.tw[n].fromPeers.find? fun f => decide (f.did = did) && f.lostSince.isSome) = some f) test_meets_RecordsAreDelivered_9_s test_meets_RecordsAreDelivered_9_n test_meets_RecordsAreDelivered_9_did test_meets_RecordsAreDelivered_9_f test_meets_RecordsAreDelivered_9_v test_meets_RecordsAreDelivered_9_w := by
  beta_reduce
  decide
theorem test_meets_RecordsAreDelivered_9_h1 : (fun (s : State) (n : Fin 16) (did : Nat) (f : PeerFeed) (v : State) (w : State) => v = waitUp (f.lostSince.getD 0 + s.link.cfg.linkHoldMs * msTicks) s) test_meets_RecordsAreDelivered_9_s test_meets_RecordsAreDelivered_9_n test_meets_RecordsAreDelivered_9_did test_meets_RecordsAreDelivered_9_f test_meets_RecordsAreDelivered_9_v test_meets_RecordsAreDelivered_9_w := by
  beta_reduce
  exact rfl
theorem test_meets_RecordsAreDelivered_9_h2 : (fun (s : State) (n : Fin 16) (did : Nat) (f : PeerFeed) (v : State) (w : State) => w = forL (v.tw[n].fromProducers.filter (·.1 = did)) (fun x s => enqueueRecord n (prodPeer did f.stream x.2.1) (gapRecord { recHdr x.2.2.2 with flags := 0, itemIndex := x.2.2.1, itemCount := 2 ^ 32 - 1 } 6 v.clk.tick 0) none v.clk.tick s) v) test_meets_RecordsAreDelivered_9_s test_meets_RecordsAreDelivered_9_n test_meets_RecordsAreDelivered_9_did test_meets_RecordsAreDelivered_9_f test_meets_RecordsAreDelivered_9_v test_meets_RecordsAreDelivered_9_w := by
  beta_reduce
  exact rfl
theorem test_meets_RecordsAreDelivered_9 : ∃ (s : State) (n : Fin 16) (did : Nat) (f : PeerFeed) (v : State) (w : State),
      (s.tw[n].fromPeers.find? fun f => decide (f.did = did) && f.lostSince.isSome) = some f ∧
      v = waitUp (f.lostSince.getD 0 + s.link.cfg.linkHoldMs * msTicks) s ∧
      w = forL (v.tw[n].fromProducers.filter (·.1 = did)) (fun x s => enqueueRecord n (prodPeer did f.stream x.2.1) (gapRecord { recHdr x.2.2.2 with flags := 0, itemIndex := x.2.2.1, itemCount := 2 ^ 32 - 1 } 6 v.clk.tick 0) none v.clk.tick s) v :=
  ⟨test_meets_RecordsAreDelivered_9_s, test_meets_RecordsAreDelivered_9_n, test_meets_RecordsAreDelivered_9_did, test_meets_RecordsAreDelivered_9_f, test_meets_RecordsAreDelivered_9_v, test_meets_RecordsAreDelivered_9_w, test_meets_RecordsAreDelivered_9_h0, test_meets_RecordsAreDelivered_9_h1, test_meets_RecordsAreDelivered_9_h2⟩

theorem test_meets_DelegatedQueuesRun_1 : ∃ (s : State) (id : Nat) (c : Cmd) (n : Fin 16) (d : Data),
      Runs s id 0x0602 anyCmd c ∧
      Passes [entryCheck c [(0x08, 4), (0x10, 8)] [], deviceCheck s c, params [(0x08, decide (c.p32 0x08 = 128)), (0x10, aligned64 (c.p64 0x10))]] ∧
      u8At d 2 = n.val ∧
      Passes [descParams [(0x00, decide (u16At d 0 = 1))], needState (s.tw[n].state = .closed && !waitsPower s (.stream n.val)), descParams (nvmeFields1 s d), needState (windowCovers s (windowBase s) (u64At d 0x18) (u64At d 0x20)), descParams (nvmeFields2 d)] ∧
      declaredRates s + u32At d 4 ≤ streamLimit s ∧
      stageFits s (mib + u64At d 0x20) = true ∧
      Admits s (.stream n.val) [(lcRecords, 4000 * u32At d 4)] ∧
      GrantsAtOnce (setCmd c.id (fun c => { c with bytes := c.bytes ++ d }) (addReservations (.stream n.val) [(lcRecords, 4000 * u32At d 4)] s)) (cost [(pcStream, storeUnits (4000 * u32At d 4))]) :=
  ⟨(cmdState 0x0602 [(0x08, le 4 128)] (storeReady) : State), 1, cmdOf 0x0602 [(0x08, le 4 128)], 3, putAt nvmeRaw 0x18 (le 8 ((match ((cmdState 0x0602 [(0x08, le 4 128)] (storeReady) : State) : State).store.region rtStage with | some r => r.base | none => 0))), ⟨rfl, rfl, rfl, rfl, rfl⟩, by decide, by decide, by decide, by decide, by decide, by decide, by decide⟩

theorem test_meets_DelegatedQueuesRun_2 : ∃ (s : State) (n : Fin 16) (v : Nvme) (q : State) (e : Data),
      s.tw[n].nvme = some v ∧
      s.tw[n].dest = 1 ∧
      s.tw[n].state = .open_ ∧
      q = storeAsk s ∧
      storeServes q = true ∧
      e = storeRead q (v.cqAt + 16 * v.cqHead) 16 ∧
      bit (u16At e 14) 0 ≠ v.cqPhase :=
  ⟨((fun s => storeWrite (nvmeOne.cqAt) (zeros 14 ++ le 2 0) s) (nvmeState fun v => { v with commands := [(0, 4, false, 7)], slotBusy := [4] }) : State), 3, { nvmeOne with commands := [(0, 4, false, 7)], slotBusy := [4] }, storeAsk ((fun s => storeWrite (nvmeOne.cqAt) (zeros 14 ++ le 2 0) s) (nvmeState fun v => { v with commands := [(0, 4, false, 7)], slotBusy := [4] }) : State), storeRead (storeAsk ((fun s => storeWrite (nvmeOne.cqAt) (zeros 14 ++ le 2 0) s) (nvmeState fun v => { v with commands := [(0, 4, false, 7)], slotBusy := [4] }) : State) : State) nvmeOne.cqAt 16, by decide, by decide, by decide, rfl, by decide, rfl, by decide⟩

theorem test_meets_DelegatedQueuesRun_3 : ∃ (s : State) (n : Fin 16) (v : Nvme) (q : State) (e : Data) (h : Nat) (x : Nat × Nat × Bool × Nat) (w : State),
      s.tw[n].nvme = some v ∧
      s.tw[n].dest = 1 ∧
      s.tw[n].state = .open_ ∧
      q = storeAsk s ∧
      storeServes q = true ∧
      e = storeRead q (v.cqAt + 16 * v.cqHead) 16 ∧
      bit (u16At e 14) 0 = v.cqPhase ∧
      v.commands.find? (·.1 = u16At e 12) = some x ∧
      x.2.2.1 = false ∧
      u16At e 14 / 2 = 0 ∧
      h = (if v.cqHead + 1 = v.cqEntries then 0 else v.cqHead + 1) ∧
      w = setNvme n (fun w => { w with cqHead := h, cqPhase := if h = 0 then !v.cqPhase else v.cqPhase, commands := w.commands.filter (·.1 ≠ u16At e 12), flushAwaits := w.flushAwaits.filter (· ≠ u16At e 12), slotBusy := if x.2.2.1 then w.slotBusy else w.slotBusy.filter (· ≠ x.2.1) }) (hostWrite v.cqDoorbell (le 4 h) q) :=
  ⟨((fun s => storeWrite (nvmeOne.cqAt) (zeros 14 ++ le 2 1) s) (nvmeState fun v => { v with commands := [(0, 4, false, 7)], slotBusy := [4] }) : State), 3, { nvmeOne with commands := [(0, 4, false, 7)], slotBusy := [4] }, storeAsk ((fun s => storeWrite (nvmeOne.cqAt) (zeros 14 ++ le 2 1) s) (nvmeState fun v => { v with commands := [(0, 4, false, 7)], slotBusy := [4] }) : State), storeRead (storeAsk ((fun s => storeWrite (nvmeOne.cqAt) (zeros 14 ++ le 2 1) s) (nvmeState fun v => { v with commands := [(0, 4, false, 7)], slotBusy := [4] }) : State) : State) nvmeOne.cqAt 16, 1, (0, 4, false, 7), setNvme 3 (fun w => { w with cqHead := 1, cqPhase := true, commands := w.commands.filter (·.1 ≠ u16At (storeRead (storeAsk ((fun s => storeWrite (nvmeOne.cqAt) (zeros 14 ++ le 2 1) s) (nvmeState fun v => { v with commands := [(0, 4, false, 7)], slotBusy := [4] }) : State) : State) nvmeOne.cqAt 16 : Data) 12), flushAwaits := w.flushAwaits.filter (· ≠ u16At (storeRead (storeAsk ((fun s => storeWrite (nvmeOne.cqAt) (zeros 14 ++ le 2 1) s) (nvmeState fun v => { v with commands := [(0, 4, false, 7)], slotBusy := [4] }) : State) : State) nvmeOne.cqAt 16 : Data) 12), slotBusy := w.slotBusy.filter (· ≠ 4) }) (hostWrite 0 (le 4 1) (storeAsk ((fun s => storeWrite (nvmeOne.cqAt) (zeros 14 ++ le 2 1) s) (nvmeState fun v => { v with commands := [(0, 4, false, 7)], slotBusy := [4] }) : State) : State)), by decide, by decide, by decide, rfl, by decide, rfl, by decide, by decide, by decide, by decide, by decide, rfl⟩

theorem test_meets_DelegatedQueuesRun_4 : ∃ (s : State) (n : Fin 16) (v : Nvme) (q : State) (e : Data) (h : Nat) (x : Nat × Nat × Bool × Nat) (w : State),
      s.tw[n].nvme = some v ∧
      s.tw[n].dest = 1 ∧
      s.tw[n].state = .open_ ∧
      q = storeAsk s ∧
      storeServes q = true ∧
      e = storeRead q (v.cqAt + 16 * v.cqHead) 16 ∧
      bit (u16At e 14) 0 = v.cqPhase ∧
      v.commands.find? (·.1 = u16At e 12) = some x ∧
      x.2.2.1 = true ∧
      v.finalFlush = false ∧
      u16At e 14 / 2 = 0 ∧
      h = (if v.cqHead + 1 = v.cqEntries then 0 else v.cqHead + 1) ∧
      w = setNvme n (fun w => { w with cqHead := h, cqPhase := if h = 0 then !v.cqPhase else v.cqPhase, commands := w.commands.filter (·.1 ≠ u16At e 12), flushAwaits := w.flushAwaits.filter (· ≠ u16At e 12), slotBusy := if x.2.2.1 then w.slotBusy else w.slotBusy.filter (· ≠ x.2.1) }) (hostWrite v.cqDoorbell (le 4 h) q) :=
  ⟨((fun s => storeWrite (nvmeOne.cqAt) (zeros 14 ++ le 2 1) s) (nvmeState fun v => { v with commands := [(0, 64, true, 7)], slotBusy := [4] }) : State), 3, { nvmeOne with commands := [(0, 64, true, 7)], slotBusy := [4] }, storeAsk ((fun s => storeWrite (nvmeOne.cqAt) (zeros 14 ++ le 2 1) s) (nvmeState fun v => { v with commands := [(0, 64, true, 7)], slotBusy := [4] }) : State), storeRead (storeAsk ((fun s => storeWrite (nvmeOne.cqAt) (zeros 14 ++ le 2 1) s) (nvmeState fun v => { v with commands := [(0, 64, true, 7)], slotBusy := [4] }) : State) : State) nvmeOne.cqAt 16, 1, (0, 64, true, 7), setNvme 3 (fun w => { w with cqHead := 1, cqPhase := true, commands := w.commands.filter (·.1 ≠ u16At (storeRead (storeAsk ((fun s => storeWrite (nvmeOne.cqAt) (zeros 14 ++ le 2 1) s) (nvmeState fun v => { v with commands := [(0, 64, true, 7)], slotBusy := [4] }) : State) : State) nvmeOne.cqAt 16 : Data) 12), flushAwaits := w.flushAwaits.filter (· ≠ u16At (storeRead (storeAsk ((fun s => storeWrite (nvmeOne.cqAt) (zeros 14 ++ le 2 1) s) (nvmeState fun v => { v with commands := [(0, 64, true, 7)], slotBusy := [4] }) : State) : State) nvmeOne.cqAt 16 : Data) 12), slotBusy := w.slotBusy }) (hostWrite 0 (le 4 1) (storeAsk ((fun s => storeWrite (nvmeOne.cqAt) (zeros 14 ++ le 2 1) s) (nvmeState fun v => { v with commands := [(0, 64, true, 7)], slotBusy := [4] }) : State) : State)), by decide, by decide, by decide, rfl, by decide, rfl, by decide, by decide, by decide, by decide, by decide, by decide, rfl⟩

theorem test_meets_DelegatedQueuesRun_5 : ∃ (s : State) (n : Fin 16) (v : Nvme) (q : State) (e : Data) (h : Nat) (x : Nat × Nat × Bool × Nat) (w : State),
      s.tw[n].nvme = some v ∧
      s.tw[n].dest = 1 ∧
      s.tw[n].state = .closing ∧
      q = storeAsk s ∧
      storeServes q = true ∧
      e = storeRead q (v.cqAt + 16 * v.cqHead) 16 ∧
      bit (u16At e 14) 0 = v.cqPhase ∧
      v.commands = [x] ∧
      x.1 = u16At e 12 ∧
      x.2.2.1 = true ∧
      v.finalFlush = true ∧
      v.flushWaiting = false ∧
      v.buffer = [] ∧
      u16At e 14 / 2 = 0 ∧
      h = (if v.cqHead + 1 = v.cqEntries then 0 else v.cqHead + 1) ∧
      w = setNvme n (fun w => { w with cqHead := h, cqPhase := if h = 0 then !v.cqPhase else v.cqPhase, commands := w.commands.filter (·.1 ≠ u16At e 12), flushAwaits := w.flushAwaits.filter (· ≠ u16At e 12), slotBusy := if x.2.2.1 then w.slotBusy else w.slotBusy.filter (· ≠ x.2.1) }) (hostWrite v.cqDoorbell (le 4 h) q) :=
  ⟨((fun s => setStream 3 (fun t => { t with state := .closing }) s) ((fun s => storeWrite (nvmeOne.cqAt) (zeros 14 ++ le 2 1) s) (nvmeState fun v => { v with commands := [(0, 64, true, 7)], slotBusy := [4], finalFlush := true })) : State), 3, { nvmeOne with commands := [(0, 64, true, 7)], slotBusy := [4], finalFlush := true }, storeAsk ((fun s => setStream 3 (fun t => { t with state := .closing }) s) ((fun s => storeWrite (nvmeOne.cqAt) (zeros 14 ++ le 2 1) s) (nvmeState fun v => { v with commands := [(0, 64, true, 7)], slotBusy := [4], finalFlush := true })) : State), storeRead (storeAsk ((fun s => setStream 3 (fun t => { t with state := .closing }) s) ((fun s => storeWrite (nvmeOne.cqAt) (zeros 14 ++ le 2 1) s) (nvmeState fun v => { v with commands := [(0, 64, true, 7)], slotBusy := [4], finalFlush := true })) : State) : State) nvmeOne.cqAt 16, 1, (0, 64, true, 7), setNvme 3 (fun w => { w with cqHead := 1, cqPhase := true, commands := w.commands.filter (·.1 ≠ u16At (storeRead (storeAsk ((fun s => setStream 3 (fun t => { t with state := .closing }) s) ((fun s => storeWrite (nvmeOne.cqAt) (zeros 14 ++ le 2 1) s) (nvmeState fun v => { v with commands := [(0, 64, true, 7)], slotBusy := [4], finalFlush := true })) : State) : State) nvmeOne.cqAt 16 : Data) 12), flushAwaits := w.flushAwaits.filter (· ≠ u16At (storeRead (storeAsk ((fun s => setStream 3 (fun t => { t with state := .closing }) s) ((fun s => storeWrite (nvmeOne.cqAt) (zeros 14 ++ le 2 1) s) (nvmeState fun v => { v with commands := [(0, 64, true, 7)], slotBusy := [4], finalFlush := true })) : State) : State) nvmeOne.cqAt 16 : Data) 12), slotBusy := w.slotBusy }) (hostWrite 0 (le 4 1) (storeAsk ((fun s => setStream 3 (fun t => { t with state := .closing }) s) ((fun s => storeWrite (nvmeOne.cqAt) (zeros 14 ++ le 2 1) s) (nvmeState fun v => { v with commands := [(0, 64, true, 7)], slotBusy := [4], finalFlush := true })) : State) : State)), by decide, by decide, by decide, rfl, by decide, rfl, by decide, by decide, by decide, by decide, by decide, by decide, by decide, by decide, by decide, rfl⟩

theorem test_meets_DelegatedQueuesRun_6 : ∃ (s : State) (n : Fin 16) (v : Nvme) (q : State) (e : Data) (h : Nat) (x : Nat × Nat × Bool × Nat) (w : State),
      s.tw[n].nvme = some v ∧
      s.tw[n].dest = 1 ∧
      s.tw[n].state = .open_ ∧
      q = storeAsk s ∧
      storeServes q = true ∧
      e = storeRead q (v.cqAt + 16 * v.cqHead) 16 ∧
      bit (u16At e 14) 0 = v.cqPhase ∧
      v.commands.find? (·.1 = u16At e 12) = some x ∧
      u16At e 14 / 2 ≠ 0 ∧
      h = (if v.cqHead + 1 = v.cqEntries then 0 else v.cqHead + 1) ∧
      w = setNvme n (fun w => { w with cqHead := h, cqPhase := if h = 0 then !v.cqPhase else v.cqPhase, commands := w.commands.filter (·.1 ≠ u16At e 12), flushAwaits := w.flushAwaits.filter (· ≠ u16At e 12), slotBusy := if x.2.2.1 then w.slotBusy else w.slotBusy.filter (· ≠ x.2.1) }) (hostWrite v.cqDoorbell (le 4 h) q) :=
  ⟨((fun s => storeWrite (nvmeOne.cqAt) (zeros 14 ++ le 2 7) s) (nvmeState fun v => { v with commands := [(0, 4, false, 7)], slotBusy := [4] }) : State), 3, { nvmeOne with commands := [(0, 4, false, 7)], slotBusy := [4] }, storeAsk ((fun s => storeWrite (nvmeOne.cqAt) (zeros 14 ++ le 2 7) s) (nvmeState fun v => { v with commands := [(0, 4, false, 7)], slotBusy := [4] }) : State), storeRead (storeAsk ((fun s => storeWrite (nvmeOne.cqAt) (zeros 14 ++ le 2 7) s) (nvmeState fun v => { v with commands := [(0, 4, false, 7)], slotBusy := [4] }) : State) : State) nvmeOne.cqAt 16, 1, (0, 4, false, 7), setNvme 3 (fun w => { w with cqHead := 1, cqPhase := true, commands := w.commands.filter (·.1 ≠ u16At (storeRead (storeAsk ((fun s => storeWrite (nvmeOne.cqAt) (zeros 14 ++ le 2 7) s) (nvmeState fun v => { v with commands := [(0, 4, false, 7)], slotBusy := [4] }) : State) : State) nvmeOne.cqAt 16 : Data) 12), flushAwaits := w.flushAwaits.filter (· ≠ u16At (storeRead (storeAsk ((fun s => storeWrite (nvmeOne.cqAt) (zeros 14 ++ le 2 7) s) (nvmeState fun v => { v with commands := [(0, 4, false, 7)], slotBusy := [4] }) : State) : State) nvmeOne.cqAt 16 : Data) 12), slotBusy := w.slotBusy.filter (· ≠ 4) }) (hostWrite 0 (le 4 1) (storeAsk ((fun s => storeWrite (nvmeOne.cqAt) (zeros 14 ++ le 2 7) s) (nvmeState fun v => { v with commands := [(0, 4, false, 7)], slotBusy := [4] }) : State) : State)), by decide, by decide, by decide, rfl, by decide, rfl, by decide, by decide, by decide, by decide, rfl⟩

theorem test_meets_DelegatedQueuesRun_7 : ∃ (s : State) (n : Fin 16) (v : Nvme) (q : State),
      s.tw[n].nvme = some v ∧
      v.flushMs ≠ 0 ∧
      s.tw[n].state = .open_ ∧
      s.tw[n].dest = 1 ∧
      v.flushWaiting = false ∧
      q = waitUp (v.lastFlush + v.flushMs * msTicks) s :=
  ⟨(nvmeState (fun v => { v with flushMs := 3 }) : State), 3, { nvmeOne with flushMs := 3 }, waitUp (0 + 3 * msTicks) (nvmeState (fun v => { v with flushMs := 3 }) : State), by decide, by decide, by decide, by decide, by decide, rfl⟩

theorem test_meets_DelegatedQueuesRun_8 : ∃ (s : State) (n : Fin 16) (v : Nvme) (x : Nat × Nat × Bool × Nat) (l : List (Nat × Nat × Bool × Nat)),
      s.tw[n].nvme = some v ∧
      v.commands = x :: l ∧
      s.tw[n].state = .open_ ∧
      s.tw[n].dest = 1 :=
  ⟨(nvmeState (fun v => { v with commands := [(0, 4, false, 7)] }) : State), 3, { nvmeOne with commands := [(0, 4, false, 7)] }, (0, 4, false, 7), [], by decide, by decide, by decide, by decide⟩

theorem test_meets_DraughtMovesDescriptors_1 : ∃ (s : State) (n : Fin 32) (b : Data) (u : State),
      dmaHalted s = false ∧
      s.drt.running = none ∧
      nextChan s = some n ∧
      s.drt.chans[n].descSpace = 0 ∧
      masters s = true ∧
      u = { s with drt := { s.drt with active := n.val, lastChosen := vmodN s.drt.lastChosen (chanPrio s n) (fun _ => n.val) } } ∧
      dmaCheck u (dmaDescOf b) = 0 :=
  ⟨(hostState fun s => chanWith (fun c => { c with state := .ready }) (storeReady s) : State), 5, fillRaw, { (hostState fun s => chanWith (fun c => { c with state := .ready }) (storeReady s) : State) with drt := { (hostState fun s => chanWith (fun c => { c with state := .ready }) (storeReady s) : State).drt with active := 5, lastChosen := vmodN (hostState fun s => chanWith (fun c => { c with state := .ready }) (storeReady s) : State).drt.lastChosen (chanPrio (hostState fun s => chanWith (fun c => { c with state := .ready }) (storeReady s) : State) 5) (fun _ => 5) } }, by decide, by decide, by decide, by decide, by decide, rfl, by decide⟩

theorem test_meets_DraughtMovesDescriptors_2 : ∃ (s : State) (n : Fin 32) (b : Data) (u : State),
      dmaHalted s = false ∧
      s.drt.running = none ∧
      nextChan s = some n ∧
      s.drt.chans[n].descSpace = 0 ∧
      masters s = true ∧
      u = { s with drt := { s.drt with active := n.val, lastChosen := vmodN s.drt.lastChosen (chanPrio s n) (fun _ => n.val) } } ∧
      dmaCheck u (dmaDescOf b) ≠ 0 :=
  ⟨(hostState fun s => chanWith (fun c => { c with state := .ready }) (storeReady s) : State), 5, putAt fillRaw 0x15 [16], { (hostState fun s => chanWith (fun c => { c with state := .ready }) (storeReady s) : State) with drt := { (hostState fun s => chanWith (fun c => { c with state := .ready }) (storeReady s) : State).drt with active := 5, lastChosen := vmodN (hostState fun s => chanWith (fun c => { c with state := .ready }) (storeReady s) : State).drt.lastChosen (chanPrio (hostState fun s => chanWith (fun c => { c with state := .ready }) (storeReady s) : State) 5) (fun _ => 5) } }, by decide, by decide, by decide, by decide, by decide, rfl, by decide⟩

theorem test_meets_DraughtMovesDescriptors_3 : ∃ (s : State) (n : Fin 32),
      dmaHalted s = false ∧
      s.drt.running = none ∧
      nextChan s = some n ∧
      s.drt.chans[n].descSpace = 0 ∧
      masters s = true :=
  ⟨(hostState fun s => chanWith (fun c => { c with state := .ready }) (storeReady s) : State), 5, by decide, by decide, by decide, by decide, by decide⟩

theorem test_meets_DraughtMovesDescriptors_4 : ∃ (s : State) (n : Fin 32) (h : HostRead) (u : State) (v : State),
      dmaHalted s = false ∧
      s.drt.running = none ∧
      nextChan s = some n ∧
      s.drt.chans[n].descSpace = 1 ∧
      v = storeAwake s ∧
      storeServes v = true ∧
      v.drt.chans[n].descAddr + 64 ≤ usable v.store ∧
      readPoisoned v v.drt.chans[n].descAddr 64 = false ∧
      u = { v with drt := { v.drt with active := n.val, lastChosen := vmodN v.drt.lastChosen (chanPrio v n) (fun _ => n.val) } } ∧
      dmaCheck u (dmaDescOf (rawRead v v.drt.chans[n].descAddr 64)) ≠ 0 :=
  ⟨(storeWrite 0 (putAt fillRaw 0x15 [16]) (hostState fun s => chanWith (fun c => { c with state := .ready, descSpace := 1 }) (storeReady s)) : State), 5, none, { (storeAwake (storeWrite 0 (putAt fillRaw 0x15 [16]) (hostState fun s => chanWith (fun c => { c with state := .ready, descSpace := 1 }) (storeReady s)) : State) : State) with drt := { (storeAwake (storeWrite 0 (putAt fillRaw 0x15 [16]) (hostState fun s => chanWith (fun c => { c with state := .ready, descSpace := 1 }) (storeReady s)) : State) : State).drt with active := 5, lastChosen := vmodN (storeAwake (storeWrite 0 (putAt fillRaw 0x15 [16]) (hostState fun s => chanWith (fun c => { c with state := .ready, descSpace := 1 }) (storeReady s)) : State) : State).drt.lastChosen (chanPrio (storeAwake (storeWrite 0 (putAt fillRaw 0x15 [16]) (hostState fun s => chanWith (fun c => { c with state := .ready, descSpace := 1 }) (storeReady s)) : State) : State) 5) (fun _ => 5) } }, storeAwake (storeWrite 0 (putAt fillRaw 0x15 [16]) (hostState fun s => chanWith (fun c => { c with state := .ready, descSpace := 1 }) (storeReady s)) : State), by decide, by decide, by decide, by decide, rfl, by decide, by decide, by decide, rfl, by decide⟩

theorem test_meets_DraughtMovesDescriptors_5 : ∃ (s : State) (n : Fin 32) (h : HostRead) (v : State),
      dmaHalted s = false ∧
      s.drt.running = none ∧
      nextChan s = some n ∧
      s.drt.chans[n].descSpace = 1 ∧
      v = storeAwake s ∧
      storeServes v = true ∧
      v.drt.chans[n].descAddr + 64 ≤ usable v.store ∧
      readPoisoned v v.drt.chans[n].descAddr 64 = true :=
  ⟨((fun s : State => { s with store := { s.store with poison := [0] } }) (hostState fun s => chanWith (fun c => { c with state := .ready, descSpace := 1 }) (storeReady s)) : State), 5, none, storeAwake ((fun s : State => { s with store := { s.store with poison := [0] } }) (hostState fun s => chanWith (fun c => { c with state := .ready, descSpace := 1 }) (storeReady s)) : State), by decide, by decide, by decide, by decide, rfl, by decide, by decide, by decide⟩

theorem test_meets_DraughtMovesDescriptors_6 : ∃ (s : State) (n : Fin 32) (d : DmaDesc) (b : Data),
      s.drt.running = some n ∧
      s.drt.chans[n].desc = some d ∧
      dmaHalted s = false ∧
      s.drt.chans[n].writesSent = false ∧
      d.from_ = some 0 ∧
      d.to_ = 0 ∧
      b.length = d.length ∧
      masters s = true :=
  ⟨(runChan { dmaDescOf fillRaw with ctrl := 0 } : State), 5, { dmaDescOf fillRaw with ctrl := 0 }, zeros 8, by decide, by decide, by decide, by decide, by decide, by decide, by decide, by decide⟩

theorem test_meets_DraughtMovesDescriptors_7 : ∃ (s : State) (n : Fin 32) (d : DmaDesc) (h : HostRead) (v : State),
      s.drt.running = some n ∧
      s.drt.chans[n].desc = some d ∧
      dmaHalted s = false ∧
      s.drt.chans[n].writesSent = false ∧
      d.from_ = none ∧
      d.to_ = 1 ∧
      v = storeAwake s ∧
      storeServes v = true :=
  ⟨(runChan { dmaDescOf fillRaw with dstSpace := 1 } : State), 5, { dmaDescOf fillRaw with dstSpace := 1 }, none, storeAwake (runChan { dmaDescOf fillRaw with dstSpace := 1 } : State), by decide, by decide, by decide, by decide, by decide, by decide, rfl, by decide⟩

theorem test_meets_DraughtMovesDescriptors_8 : ∃ (s : State) (n : Fin 32) (d : DmaDesc) (h : HostRead),
      s.drt.running = some n ∧
      s.drt.chans[n].desc = some d ∧
      dmaHalted s = false ∧
      s.drt.chans[n].writesSent = false ∧
      d.from_ = none ∧
      d.to_ = 2 :=
  ⟨(runChan { dmaDescOf fillRaw with dstSpace := 2 } : State), 5, { dmaDescOf fillRaw with dstSpace := 2 }, none, by decide, by decide, by decide, by decide, by decide, by decide⟩

theorem test_meets_DraughtMovesDescriptors_9 : ∃ (s : State) (n : Fin 32) (d : DmaDesc) (h : HostRead),
      s.drt.running = some n ∧
      s.drt.chans[n].desc = some d ∧
      dmaHalted s = false ∧
      s.drt.chans[n].writesSent = false ∧
      d.from_ = some 2 ∧
      d.to_ = 0 ∧
      masters s = true :=
  ⟨(runChan { dmaDescOf fillRaw with ctrl := 0, srcSpace := 2 } : State), 5, { dmaDescOf fillRaw with ctrl := 0, srcSpace := 2 }, none, by decide, by decide, by decide, by decide, by decide, by decide, by decide⟩

theorem test_meets_DraughtMovesDescriptors_10 : ∃ (s : State) (n : Fin 32) (d : DmaDesc) (h : HostRead),
      s.drt.running = some n ∧
      s.drt.chans[n].desc = some d ∧
      dmaHalted s = false ∧
      s.drt.chans[n].writesSent = false ∧
      d.from_ = none ∧
      d.to_ = 3 :=
  ⟨(linked id (runChan { dmaDescOf fillRaw with dstSpace := 3, dstDid := 9 }) : State), 5, { dmaDescOf fillRaw with dstSpace := 3, dstDid := 9 }, none, by decide, by decide, by decide, by decide, by decide, by decide⟩

theorem test_meets_DraughtMovesDescriptors_11 : ∃ (s : State) (n : Fin 32) (d : DmaDesc) (h : HostRead),
      s.drt.running = some n ∧
      s.drt.chans[n].desc = some d ∧
      dmaHalted s = false ∧
      s.drt.chans[n].writesSent = true ∧
      draughtWaits s = false :=
  ⟨((fun s => setChan 5 (fun c => { c with writesSent := true }) s) (runChan { dmaDescOf fillRaw with dstSpace := 3 }) : State), 5, { dmaDescOf fillRaw with dstSpace := 3 }, none, by decide, by decide, by decide, by decide, by decide⟩

theorem test_meets_DraughtMovesDescriptors_12 : ∃ (s : State) (n : Fin 32) (d : DmaDesc) (h : HostRead) (v : State),
      s.drt.running = some n ∧
      s.drt.chans[n].desc = some d ∧
      dmaHalted s = false ∧
      s.drt.chans[n].writesSent = false ∧
      d.from_ = some 1 ∧
      d.to_ = 0 ∧
      v = storeAwake s ∧
      storeServes v = true ∧
      masters v = true ∧
      readPoisoned v d.src d.length = true :=
  ⟨((fun s : State => { s with store := { s.store with poison := [0] } }) (runChan { dmaDescOf fillRaw with ctrl := 0, srcSpace := 1 }) : State), 5, { dmaDescOf fillRaw with ctrl := 0, srcSpace := 1 }, none, storeAwake ((fun s : State => { s with store := { s.store with poison := [0] } }) (runChan { dmaDescOf fillRaw with ctrl := 0, srcSpace := 1 }) : State), by decide, by decide, by decide, by decide, by decide, by decide, rfl, by decide, by decide, by decide⟩

theorem test_meets_DraughtMovesDescriptors_13 : ∃ (s : State) (n : Fin 32) (d : DmaDesc) (h : HostRead) (v : State),
      s.drt.running = some n ∧
      s.drt.chans[n].desc = some d ∧
      dmaHalted s = false ∧
      s.drt.chans[n].writesSent = false ∧
      d.from_ = some 1 ∧
      d.to_ = 0 ∧
      v = storeAwake s ∧
      storeServes v = true ∧
      masters v = true ∧
      readPoisoned v d.src d.length = false ∧
      historyOverwritten v d = true :=
  ⟨(runChan { dmaDescOf fillRaw with ctrl := 0, srcSpace := 1, src := historyBase } : State), 5, { dmaDescOf fillRaw with ctrl := 0, srcSpace := 1, src := historyBase }, none, storeAwake (runChan { dmaDescOf fillRaw with ctrl := 0, srcSpace := 1, src := historyBase } : State), by decide, by decide, by decide, by decide, by decide, by decide, rfl, by decide, by decide, by decide, by decide⟩

theorem test_meets_DraughtMovesDescriptors_14 : ∃ (s : State) (cause : Nat) (ch : Fin 32) (addr : U64) (space : Nat) (written : Nat),
      dmaHalted s = false ∧
      1 ≤ cause ∧
      cause ≤ 5 ∧
      chanActive s.drt.chans[ch] = true ∧
      s.drt.running = none :=
  ⟨(hostState fun s => chanWith (fun c => { c with state := .ready }) (storeReady s) : State), 2, 5, 4096, 0, 0, by decide, by decide, by decide, by decide, by decide⟩

theorem test_meets_DraughtMovesDescriptors_15 : ∃ (s : State) (cause : Nat) (ch : Fin 32) (n : Fin 32) (addr : U64) (space : Nat) (written : Nat) (d : DmaDesc),
      dmaHalted s = false ∧
      1 ≤ cause ∧
      cause ≤ 5 ∧
      chanActive s.drt.chans[ch] = true ∧
      s.drt.running = some n ∧
      s.drt.chans[n].desc = some d :=
  ⟨(runChan (dmaDescOf fillRaw) : State), 2, 5, 5, 4096, 0, 3, dmaDescOf fillRaw, by decide, by decide, by decide, by decide, by decide, by decide⟩

theorem test_meets_LinkCommandsAct_1 : ∃ (s : State) (id : Nat) (c : Cmd),
      Runs s id 0x0700 anyCmd c ∧
      Passes [entryCheck c [(0x08, 3)] [(0x0A, decide (c.p8 0x0A < 2))], deviceCheck s c,
        needState (s.link.enumeration.isNone && (!(decide (c.p8 0x0A = 1) && (s.link.enumerated || (s.link.assigned && s.link.enumeration.isNone))) || !peersBound s))] ∧
      (s.link.enumerated || (s.link.assigned && s.link.enumeration.isNone)) = true ∧
      c.p8 0x0A = 0 :=
  ⟨(cmdState 0x0700 [] (fun s => { s with link := { s.link with enumerated := true } }) : State), 1, cmdOf 0x0700 [], ⟨rfl, rfl, rfl, rfl, rfl⟩, by decide, by decide, by decide⟩

theorem test_meets_LinkCommandsAct_2 : ∃ (s : State) (id : Nat) (c : Cmd),
      Runs s id 0x0700 anyCmd c ∧
      Passes [entryCheck c [(0x08, 3)] [(0x0A, decide (c.p8 0x0A < 2))], deviceCheck s c,
        needState (s.link.enumeration.isNone && (!(decide (c.p8 0x0A = 1) && (s.link.enumerated || (s.link.assigned && s.link.enumeration.isNone))) || !peersBound s))] ∧
      ((s.link.enumerated || (s.link.assigned && s.link.enumeration.isNone)) = false ∨ c.p8 0x0A = 1) :=
  ⟨(cmdState 0x0700 [(0x08, [7])] (storeReady) : State), 1, cmdOf 0x0700 [(0x08, [7])], ⟨rfl, rfl, rfl, rfl, rfl⟩, by decide, by decide⟩

theorem test_meets_LinkCommandsAct_3 : ∃ (s : State) (id : Nat) (c : Cmd),
      Runs s id 0x0701 (selByte 0x09 0) c ∧
      Passes [entryCheck c [(0x08, 2), (0x10, 8)] [(0x08, decide (c.p8 0x08 < 4))], deviceCheck s c, params [(0x10, aligned64 (c.p64 0x10))]] :=
  ⟨(cmdState 0x0701 [] id : State), 1, cmdOf 0x0701 [], ⟨rfl, rfl, rfl, rfl, rfl⟩, by decide⟩

theorem test_meets_LinkCommandsAct_4 : ∃ (s : State) (id : Nat) (c : Cmd) (n : Fin 4),
      Runs s id 0x0701 (selByte 0x09 1) c ∧
      Passes [entryCheck c [(0x08, 2), (0x10, 8)] [(0x08, decide (c.p8 0x08 < 4))], deviceCheck s c] ∧
      c.p8 0x08 = n.val ∧
      s.link.ports[n].state = .down :=
  ⟨(cmdState 0x0701 [(0x08, [2, 1])] id : State), 1, cmdOf 0x0701 [(0x08, [2, 1])], 2, ⟨rfl, rfl, rfl, rfl, rfl⟩, by decide, by decide, by decide⟩

theorem test_meets_LinkCommandsAct_5 : ∃ (s : State) (id : Nat) (c : Cmd) (n : Fin 4),
      Runs s id 0x0701 (selByte 0x09 1) c ∧
      Passes [entryCheck c [(0x08, 2), (0x10, 8)] [(0x08, decide (c.p8 0x08 < 4))], deviceCheck s c] ∧
      c.p8 0x08 = n.val ∧
      s.link.ports[n].state ≠ .down ∧
      s.link.ports[n].state ≠ .disabled :=
  ⟨(cmdState 0x0701 [(0x08, [0, 1])] (linked id) : State), 1, cmdOf 0x0701 [(0x08, [0, 1])], 0, ⟨rfl, rfl, rfl, rfl, rfl⟩, by decide, by decide, by decide, by decide⟩

theorem test_meets_LinkCommandsAct_6 : ∃ (s : State) (id : Nat) (c : Cmd) (n : Fin 4),
      Runs s id 0x0701 (selByte 0x09 2) c ∧
      Passes [entryCheck c [(0x08, 3), (0x10, 8)] [(0x08, decide (c.p8 0x08 < 4))], deviceCheck s c, params [(0x0A, decide (c.p8 0x0A < 2))]] ∧
      c.p8 0x08 = n.val ∧
      (c.p8 0x0A = 1 ∨ (s.link.flows.all fun f => decide (f.port ≠ n.val)) = true) :=
  ⟨(cmdState 0x0701 [(0x08, [0, 2])] (linked id) : State), 1, cmdOf 0x0701 [(0x08, [0, 2])], 0, ⟨rfl, rfl, rfl, rfl, rfl⟩, by decide, by decide, by decide⟩

theorem test_meets_LinkCommandsAct_7 : ∃ (s : State) (id : Nat) (c : Cmd) (n : Fin 4),
      Runs s id 0x0701 (selByte 0x09 3) c ∧
      Passes [entryCheck c [(0x08, 2), (0x10, 8)] [(0x08, decide (c.p8 0x08 < 4))], deviceCheck s c] ∧
      c.p8 0x08 = n.val ∧
      s.link.ports[n].isUp = true ∧
      s.link.ports[n].retraining = false ∧
      s.link.ports[n].lastRetrain = none :=
  ⟨(cmdState 0x0701 [(0x08, [0, 3])] (linked id) : State), 1, cmdOf 0x0701 [(0x08, [0, 3])], 0, ⟨rfl, rfl, rfl, rfl, rfl⟩, by decide, by decide, by decide, by decide, by decide⟩

theorem test_meets_LinkCommandsAct_8 : ∃ (s : State) (id : Nat) (c : Cmd),
      Runs s id 0x0702 anyCmd c ∧
      Passes [entryCheck c [(0x08, 2), (0x10, 8)] [], deviceCheck s c, params [(0x10, aligned64 (c.p64 0x10))]] ∧
      c.p64 0x10 = 0 :=
  ⟨(cmdState 0x0702 [(0x08, [9])] (linked id) : State), 1, cmdOf 0x0702 [(0x08, [9])], ⟨rfl, rfl, rfl, rfl, rfl⟩, by decide, by decide⟩

theorem test_meets_LinkCommandsAct_9 : ∃ (s : State) (id : Nat) (c : Cmd) (v : State),
      Runs s id 0x0702 anyCmd c ∧
      Passes [entryCheck c [(0x08, 2), (0x10, 8)] [], deviceCheck s c, params [(0x10, aligned64 (c.p64 0x10))]] ∧
      c.p64 0x10 ≠ 0 ∧
      v = writeBlock c (c.p64 0x10) (routeTable s.link) s :=
  ⟨(cmdState 0x0702 [(0x08, [9]), (0x10, le 8 64)] (linked id) : State), 1, cmdOf 0x0702 [(0x08, [9]), (0x10, le 8 64)], writeBlock (cmdOf 0x0702 [(0x08, [9]), (0x10, le 8 64)] : Cmd) ((cmdOf 0x0702 [(0x08, [9]), (0x10, le 8 64)] : Cmd).p64 0x10) (routeTable (cmdState 0x0702 [(0x08, [9]), (0x10, le 8 64)] (linked id) : State).link) (cmdState 0x0702 [(0x08, [9]), (0x10, le 8 64)] (linked id) : State), ⟨rfl, rfl, rfl, rfl, rfl⟩, by decide, by decide, rfl⟩

theorem test_meets_PortsTrainAndRetrain_1 : ∃ (s : State) (n : Fin 4),
      s.link.ports[n].state = .down ∧
      s.link.ports[n].hostDown = false ∧
      s.boot.phase = .running ∧
      rootBypassed s = false ∧
      s.clk.lull ≠ 3 ∧
      GrantsAtOnce s (cost (portItems 8 s.link.cfg.maxRate)) ∧
      s.link.ports[n].retryAt ≤ s.clk.up :=
  ⟨(portState id : State), 0, by decide, by decide, by decide, by decide, by decide, by decide, by decide⟩

theorem test_meets_PortsTrainAndRetrain_2 : ∃ (s : State) (n : Fin 4),
      s.link.ports[n].state = .down ∧
      s.link.ports[n].hostDown = false ∧
      s.boot.phase = .running ∧
      rootBypassed s = false ∧
      s.clk.lull ≠ 3 ∧
      s.link.ports[n].retryAt ≤ s.clk.up ∧
      powerPossible s.pwr (cost (portItems 8 s.link.cfg.maxRate)) = false :=
  ⟨({ portState id with pwr := { Power.reset with effective := 5 } } : State), 0, by decide, by decide, by decide, by decide, by decide, by decide, by decide⟩

theorem test_meets_PortsTrainAndRetrain_3 : ∃ (s : State) (n : Fin 4) (u : State),
      u = waitUp s.link.ports[n].retryAt s ∧
      u.link.ports[n].state = .down ∧
      u.link.ports[n].hostDown = false ∧
      u.boot.phase = .running ∧
      rootBypassed u = false ∧
      u.clk.lull ≠ 3 ∧
      GrantsAtOnce u (cost (portItems 8 u.link.cfg.maxRate)) ∧
      s.link.ports[n].state = .down ∧
      s.link.ports[n].hostDown = false :=
  ⟨(portState (fun p => { p with retryAt := 100 }) : State), 0, waitUp 100 (portState (fun p => { p with retryAt := 100 }) : State), rfl, by decide, by decide, by decide, by decide, by decide, by decide, by decide, by decide⟩

def test_meets_PortsTrainAndRetrain_4_s : State := trainState
def test_meets_PortsTrainAndRetrain_4_n : Fin 4 := 0
def test_meets_PortsTrainAndRetrain_4_r : TrainResult := trainGood
def test_meets_PortsTrainAndRetrain_4_w : Nat := 8
def test_meets_PortsTrainAndRetrain_4_u : State := setSynth 7 (fun y => { y with state := .locked }) (setPower (fun g => { g with grants := lmod g.grants (·.owner = .port 0) fun x => { x with items := portItems 8 7 } }) test_meets_PortsTrainAndRetrain_4_s)
def test_meets_PortsTrainAndRetrain_4_v : State := noteDelay 0 900000 (setPort 0 (trainedPort trainGood 8 test_meets_PortsTrainAndRetrain_4_u.clk.up) test_meets_PortsTrainAndRetrain_4_u)
theorem test_meets_PortsTrainAndRetrain_4_h0 : (fun (s : State) (n : Fin 4) (r : TrainResult) (w : Nat) (u : State) (v : State) => s.link.ports[n].state = .training) test_meets_PortsTrainAndRetrain_4_s test_meets_PortsTrainAndRetrain_4_n test_meets_PortsTrainAndRetrain_4_r test_meets_PortsTrainAndRetrain_4_w test_meets_PortsTrainAndRetrain_4_u test_meets_PortsTrainAndRetrain_4_v := by
  beta_reduce
  decide
theorem test_meets_PortsTrainAndRetrain_4_h1 : (fun (s : State) (n : Fin 4) (r : TrainResult) (w : Nat) (u : State) (v : State) => holdsPower s (.port n.val) = true) test_meets_PortsTrainAndRetrain_4_s test_meets_PortsTrainAndRetrain_4_n test_meets_PortsTrainAndRetrain_4_r test_meets_PortsTrainAndRetrain_4_w test_meets_PortsTrainAndRetrain_4_u test_meets_PortsTrainAndRetrain_4_v := by
  beta_reduce
  decide
theorem test_meets_PortsTrainAndRetrain_4_h2 : (fun (s : State) (n : Fin 4) (r : TrainResult) (w : Nat) (u : State) (v : State) => agreedWidth s.link.cfg.noNarrow r.lanesHere r.lanesPeer = some w) test_meets_PortsTrainAndRetrain_4_s test_meets_PortsTrainAndRetrain_4_n test_meets_PortsTrainAndRetrain_4_r test_meets_PortsTrainAndRetrain_4_w test_meets_PortsTrainAndRetrain_4_u test_meets_PortsTrainAndRetrain_4_v := by
  beta_reduce
  decide
theorem test_meets_PortsTrainAndRetrain_4_h3 : (fun (s : State) (n : Fin 4) (r : TrainResult) (w : Nat) (u : State) (v : State) => r.ok = true) test_meets_PortsTrainAndRetrain_4_s test_meets_PortsTrainAndRetrain_4_n test_meets_PortsTrainAndRetrain_4_r test_meets_PortsTrainAndRetrain_4_w test_meets_PortsTrainAndRetrain_4_u test_meets_PortsTrainAndRetrain_4_v := by
  beta_reduce
  decide
theorem test_meets_PortsTrainAndRetrain_4_h4 : (fun (s : State) (n : Fin 4) (r : TrainResult) (w : Nat) (u : State) (v : State) => s.jtag.pinsTaken = false) test_meets_PortsTrainAndRetrain_4_s test_meets_PortsTrainAndRetrain_4_n test_meets_PortsTrainAndRetrain_4_r test_meets_PortsTrainAndRetrain_4_w test_meets_PortsTrainAndRetrain_4_u test_meets_PortsTrainAndRetrain_4_v := by
  beta_reduce
  decide
theorem test_meets_PortsTrainAndRetrain_4_h5 : (fun (s : State) (n : Fin 4) (r : TrainResult) (w : Nat) (u : State) (v : State) => r.rate ≠ 0) test_meets_PortsTrainAndRetrain_4_s test_meets_PortsTrainAndRetrain_4_n test_meets_PortsTrainAndRetrain_4_r test_meets_PortsTrainAndRetrain_4_w test_meets_PortsTrainAndRetrain_4_u test_meets_PortsTrainAndRetrain_4_v := by
  beta_reduce
  decide
theorem test_meets_PortsTrainAndRetrain_4_h6 : (fun (s : State) (n : Fin 4) (r : TrainResult) (w : Nat) (u : State) (v : State) => r.rate ≤ s.link.cfg.maxRate) test_meets_PortsTrainAndRetrain_4_s test_meets_PortsTrainAndRetrain_4_n test_meets_PortsTrainAndRetrain_4_r test_meets_PortsTrainAndRetrain_4_w test_meets_PortsTrainAndRetrain_4_u test_meets_PortsTrainAndRetrain_4_v := by
  beta_reduce
  decide
theorem test_meets_PortsTrainAndRetrain_4_h7 : (fun (s : State) (n : Fin 4) (r : TrainResult) (w : Nat) (u : State) (v : State) => u = setSynth (7 + n.val) (fun y => { y with state := .locked }) (setPower (fun g => { g with grants := lmod g.grants (·.owner = .port n.val) fun x => { x with items := portItems w r.rate } }) s)) test_meets_PortsTrainAndRetrain_4_s test_meets_PortsTrainAndRetrain_4_n test_meets_PortsTrainAndRetrain_4_r test_meets_PortsTrainAndRetrain_4_w test_meets_PortsTrainAndRetrain_4_u test_meets_PortsTrainAndRetrain_4_v := by
  beta_reduce
  exact rfl
theorem test_meets_PortsTrainAndRetrain_4_h8 : (fun (s : State) (n : Fin 4) (r : TrainResult) (w : Nat) (u : State) (v : State) => v = noteDelay n r.delay (setPort n (trainedPort r w u.clk.up) u)) test_meets_PortsTrainAndRetrain_4_s test_meets_PortsTrainAndRetrain_4_n test_meets_PortsTrainAndRetrain_4_r test_meets_PortsTrainAndRetrain_4_w test_meets_PortsTrainAndRetrain_4_u test_meets_PortsTrainAndRetrain_4_v := by
  beta_reduce
  exact rfl
theorem test_meets_PortsTrainAndRetrain_4 : ∃ (s : State) (n : Fin 4) (r : TrainResult) (w : Nat) (u : State) (v : State),
      s.link.ports[n].state = .training ∧
      holdsPower s (.port n.val) = true ∧
      agreedWidth s.link.cfg.noNarrow r.lanesHere r.lanesPeer = some w ∧
      r.ok = true ∧
      s.jtag.pinsTaken = false ∧
      r.rate ≠ 0 ∧
      r.rate ≤ s.link.cfg.maxRate ∧
      u = setSynth (7 + n.val) (fun y => { y with state := .locked }) (setPower (fun g => { g with grants := lmod g.grants (·.owner = .port n.val) fun x => { x with items := portItems w r.rate } }) s) ∧
      v = noteDelay n r.delay (setPort n (trainedPort r w u.clk.up) u) :=
  ⟨test_meets_PortsTrainAndRetrain_4_s, test_meets_PortsTrainAndRetrain_4_n, test_meets_PortsTrainAndRetrain_4_r, test_meets_PortsTrainAndRetrain_4_w, test_meets_PortsTrainAndRetrain_4_u, test_meets_PortsTrainAndRetrain_4_v, test_meets_PortsTrainAndRetrain_4_h0, test_meets_PortsTrainAndRetrain_4_h1, test_meets_PortsTrainAndRetrain_4_h2, test_meets_PortsTrainAndRetrain_4_h3, test_meets_PortsTrainAndRetrain_4_h4, test_meets_PortsTrainAndRetrain_4_h5, test_meets_PortsTrainAndRetrain_4_h6, test_meets_PortsTrainAndRetrain_4_h7, test_meets_PortsTrainAndRetrain_4_h8⟩

theorem test_meets_PortsTrainAndRetrain_5 : ∃ (s : State) (n : Fin 4) (r : TrainResult),
      s.link.ports[n].state = .training ∧
      holdsPower s (.port n.val) = true ∧
      (r.ok = false ∨ agreedWidth s.link.cfg.noNarrow r.lanesHere r.lanesPeer = none) :=
  ⟨(trainState : State), 0, { trainGood with lanesHere := 0x7F, ok := false }, by decide, by decide, by decide⟩

theorem test_meets_PortsTrainAndRetrain_6 : ∃ (s : State) (n : Fin 4),
      s.link.ports[n].retraining = true ∧
      s.clk.up ≤ s.link.ports[n].retrainSince + 3200000 :=
  ⟨(linked (fun p => { p with retraining := true }) State.reset : State), 0, by decide, by decide⟩

theorem test_meets_PortsTrainAndRetrain_7 : ∃ (s : State) (n : Fin 4),
      s.link.ports[n].retraining = true :=
  ⟨(linked (fun p => { p with retraining := true }) State.reset : State), 0, by decide⟩

theorem test_meets_FlitsAreTakenAndReplayed_1 : ∃ (s : State) (n : Fin 4) (d : Data),
      s.link.ports[n].isUp = true ∧
      s.link.ports[n].retraining = false ∧
      (flitOf d).crcOk = false ∧
      (flitOf d).isData = false :=
  ⟨(linked id State.reset : State), 0, (0 :: zeros 251) ++ le 4 (~~~(crc32 (0 :: zeros 251))).toNat, by decide, by decide, flit_crc_bad _ _ rfl (not_ne _), by decide⟩

theorem test_meets_FlitsAreTakenAndReplayed_2 : ∃ (s : State) (n : Fin 4) (d : Data),
      s.link.ports[n].isUp = true ∧
      s.link.ports[n].retraining = false ∧
      (flitOf d).crcOk = false ∧
      (flitOf d).isData = true ∧
      s.link.ports[n].nakSent = false :=
  ⟨(linked id State.reset : State), 0, (1 :: zeros 251) ++ le 4 (~~~(crc32 (1 :: zeros 251))).toNat, by decide, by decide, flit_crc_bad _ _ rfl (not_ne _), by decide, by decide⟩

theorem test_meets_FlitsAreTakenAndReplayed_3 : ∃ (s : State) (n : Fin 4) (d : Data) (f : Flit) (u : State),
      f = flitOf d ∧
      s.link.ports[n].isUp = true ∧
      s.link.ports[n].retraining = false ∧
      f.crcOk = true ∧
      u = setPort n (fun p => { p with lastGood := s.clk.up, credits := vmodN p.credits f.creditVc (· + f.credit) }.acked f.ack s.clk.up) s ∧
      f.nak = false ∧
      f.isData = true ∧
      f.seq = u.link.ports[n].rxSeq :=
  ⟨(linked (fun p => { p with nakSent := true, txSeq := 3, ackedSeq := 1, replay := [⟨2, 0, true, zeros 244⟩] }) State.reset : State), 0, flitBytes ⟨true, 0, false, false, 1, 0, 2, 5, zeros 244, true⟩, flitOf (flitBytes ⟨true, 0, false, false, 1, 0, 2, 5, zeros 244, true⟩), setPort 0 (fun p => { p with lastGood := (linked (fun p => { p with nakSent := true, txSeq := 3, ackedSeq := 1, replay := [⟨2, 0, true, zeros 244⟩] }) State.reset : State).clk.up, credits := vmodN p.credits ((flitOf (flitBytes ⟨true, 0, false, false, 1, 0, 2, 5, zeros 244, true⟩) : Flit)).creditVc (· + ((flitOf (flitBytes ⟨true, 0, false, false, 1, 0, 2, 5, zeros 244, true⟩) : Flit)).credit) }.acked ((flitOf (flitBytes ⟨true, 0, false, false, 1, 0, 2, 5, zeros 244, true⟩) : Flit)).ack (linked (fun p => { p with nakSent := true, txSeq := 3, ackedSeq := 1, replay := [⟨2, 0, true, zeros 244⟩] }) State.reset : State).clk.up) (linked (fun p => { p with nakSent := true, txSeq := 3, ackedSeq := 1, replay := [⟨2, 0, true, zeros 244⟩] }) State.reset : State), rfl, by decide, by decide, flitBytes_crc_ok _, rfl, by decide, by decide, by decide⟩

theorem test_meets_FlitsAreTakenAndReplayed_4 : ∃ (s : State) (n : Fin 4) (d : Data) (f : Flit) (u : State),
      f = flitOf d ∧
      s.link.ports[n].isUp = true ∧
      s.link.ports[n].retraining = false ∧
      f.crcOk = true ∧
      u = setPort n (fun p => { p with lastGood := s.clk.up, credits := vmodN p.credits f.creditVc (· + f.credit) }.acked f.ack s.clk.up) s ∧
      f.nak = false ∧
      f.isData = true ∧
      f.seq ≠ u.link.ports[n].rxSeq ∧
      u.link.ports[n].nakSent = false :=
  ⟨(linked id State.reset : State), 0, flitBytes ⟨true, 0, false, false, 1, 7, 0, 5, zeros 244, true⟩, flitOf (flitBytes ⟨true, 0, false, false, 1, 7, 0, 5, zeros 244, true⟩), setPort 0 (fun p => { p with lastGood := (linked id State.reset : State).clk.up, credits := vmodN p.credits ((flitOf (flitBytes ⟨true, 0, false, false, 1, 7, 0, 5, zeros 244, true⟩) : Flit)).creditVc (· + ((flitOf (flitBytes ⟨true, 0, false, false, 1, 7, 0, 5, zeros 244, true⟩) : Flit)).credit) }.acked ((flitOf (flitBytes ⟨true, 0, false, false, 1, 7, 0, 5, zeros 244, true⟩) : Flit)).ack (linked id State.reset : State).clk.up) (linked id State.reset : State), rfl, by decide, by decide, flitBytes_crc_ok _, rfl, by decide, by decide, by decide, by decide⟩

theorem test_meets_FlitsAreTakenAndReplayed_5 : ∃ (s : State) (n : Fin 4) (d : Data) (f : Flit) (u : State),
      f = flitOf d ∧
      s.link.ports[n].isUp = true ∧
      s.link.ports[n].retraining = false ∧
      f.crcOk = true ∧
      u = setPort n (fun p => { p with lastGood := s.clk.up, credits := vmodN p.credits f.creditVc (· + f.credit) }.acked f.ack s.clk.up) s ∧
      f.nak = false ∧
      f.isData = true ∧
      f.seq ≠ u.link.ports[n].rxSeq ∧
      u.link.ports[n].nakSent = true :=
  ⟨(linked (fun p => { p with nakSent := true }) State.reset : State), 0, flitBytes ⟨true, 0, false, false, 1, 7, 0, 5, zeros 244, true⟩, flitOf (flitBytes ⟨true, 0, false, false, 1, 7, 0, 5, zeros 244, true⟩), setPort 0 (fun p => { p with lastGood := (linked (fun p => { p with nakSent := true }) State.reset : State).clk.up, credits := vmodN p.credits ((flitOf (flitBytes ⟨true, 0, false, false, 1, 7, 0, 5, zeros 244, true⟩) : Flit)).creditVc (· + ((flitOf (flitBytes ⟨true, 0, false, false, 1, 7, 0, 5, zeros 244, true⟩) : Flit)).credit) }.acked ((flitOf (flitBytes ⟨true, 0, false, false, 1, 7, 0, 5, zeros 244, true⟩) : Flit)).ack (linked (fun p => { p with nakSent := true }) State.reset : State).clk.up) (linked (fun p => { p with nakSent := true }) State.reset : State), rfl, by decide, by decide, flitBytes_crc_ok _, rfl, by decide, by decide, by decide, by decide⟩

theorem test_meets_FlitsAreTakenAndReplayed_6 : ∃ (s : State) (n : Fin 4) (d : Data) (f : Flit) (u : State),
      f = flitOf d ∧
      s.link.ports[n].isUp = true ∧
      s.link.ports[n].retraining = false ∧
      f.crcOk = true ∧
      u = setPort n (fun p => { p with lastGood := s.clk.up, credits := vmodN p.credits f.creditVc (· + f.credit) }.acked f.ack s.clk.up) s ∧
      f.nak = false ∧
      f.isData = false :=
  ⟨(linked id State.reset : State), 0, flitBytes ⟨false, 0, false, false, 1, 0, 0, 5, zeros 244, true⟩, flitOf (flitBytes ⟨false, 0, false, false, 1, 0, 0, 5, zeros 244, true⟩), setPort 0 (fun p => { p with lastGood := (linked id State.reset : State).clk.up, credits := vmodN p.credits ((flitOf (flitBytes ⟨false, 0, false, false, 1, 0, 0, 5, zeros 244, true⟩) : Flit)).creditVc (· + ((flitOf (flitBytes ⟨false, 0, false, false, 1, 0, 0, 5, zeros 244, true⟩) : Flit)).credit) }.acked ((flitOf (flitBytes ⟨false, 0, false, false, 1, 0, 0, 5, zeros 244, true⟩) : Flit)).ack (linked id State.reset : State).clk.up) (linked id State.reset : State), rfl, by decide, by decide, flitBytes_crc_ok _, rfl, by decide, by decide⟩

theorem test_meets_FlitsAreTakenAndReplayed_7 : ∃ (s : State) (n : Fin 4) (d : Data) (f : Flit) (u : State),
      f = flitOf d ∧
      s.link.ports[n].isUp = true ∧
      s.link.ports[n].retraining = false ∧
      f.crcOk = true ∧
      u = setPort n (fun p => { p with lastGood := s.clk.up, credits := vmodN p.credits f.creditVc (· + f.credit) }.acked f.ack s.clk.up) s ∧
      f.nak = true ∧
      f.isData = false ∧
      u.link.ports[n].replay ≠ [] ∧
      u.link.ports[n].replaysHere < 4 :=
  ⟨(linked (fun p => { p with txSeq := 3, ackedSeq := 1, replay := [⟨2, 0, true, zeros 244⟩] }) State.reset : State), 0, flitBytes ⟨false, 0, false, true, 1, 0, 1, 5, zeros 244, true⟩, flitOf (flitBytes ⟨false, 0, false, true, 1, 0, 1, 5, zeros 244, true⟩), setPort 0 (fun p => { p with lastGood := (linked (fun p => { p with txSeq := 3, ackedSeq := 1, replay := [⟨2, 0, true, zeros 244⟩] }) State.reset : State).clk.up, credits := vmodN p.credits ((flitOf (flitBytes ⟨false, 0, false, true, 1, 0, 1, 5, zeros 244, true⟩) : Flit)).creditVc (· + ((flitOf (flitBytes ⟨false, 0, false, true, 1, 0, 1, 5, zeros 244, true⟩) : Flit)).credit) }.acked ((flitOf (flitBytes ⟨false, 0, false, true, 1, 0, 1, 5, zeros 244, true⟩) : Flit)).ack (linked (fun p => { p with txSeq := 3, ackedSeq := 1, replay := [⟨2, 0, true, zeros 244⟩] }) State.reset : State).clk.up) (linked (fun p => { p with txSeq := 3, ackedSeq := 1, replay := [⟨2, 0, true, zeros 244⟩] }) State.reset : State), rfl, by decide, by decide, flitBytes_crc_ok _, rfl, by decide, by decide, by decide, by decide⟩

theorem test_meets_FlitsAreTakenAndReplayed_8 : ∃ (s : State) (n : Fin 4) (ack : Nat),
      s.link.ports[n].isUp = true :=
  ⟨(linked id State.reset : State), 0, 4, by decide⟩

theorem test_meets_FlitsAreTakenAndReplayed_9 : ∃ (s : State) (n : Fin 4) (u : State),
      s.link.ports[n].isUp = true ∧
      s.link.ports[n].replay ≠ [] ∧
      s.link.ports[n].retraining = false ∧
      s.link.ports[n].replaysHere < 4 ∧
      u = waitUp (s.link.ports[n].ackProgress + 2560) s :=
  ⟨(linked (fun p => { p with replay := [⟨2, 0, true, zeros 244⟩] }) State.reset : State), 0, waitUp ((linked (fun p => { p with replay := [⟨2, 0, true, zeros 244⟩] }) State.reset : State).link.ports[0].ackProgress + 2560) (linked (fun p => { p with replay := [⟨2, 0, true, zeros 244⟩] }) State.reset : State), by decide, by decide, by decide, by decide, rfl⟩

theorem test_meets_FlitsAreTakenAndReplayed_10 : ∃ (s : State) (n : Fin 4) (u : State),
      s.link.ports[n].isUp = true ∧
      s.link.ports[n].replay ≠ [] ∧
      s.link.ports[n].retraining = false ∧
      4 ≤ s.link.ports[n].replaysHere ∧
      u = waitUp (s.link.ports[n].ackProgress + 2560) s :=
  ⟨(linked (fun p => { p with replay := [⟨2, 0, true, zeros 244⟩], replaysHere := 4 }) State.reset : State), 0, waitUp ((linked (fun p => { p with replay := [⟨2, 0, true, zeros 244⟩], replaysHere := 4 }) State.reset : State).link.ports[0].ackProgress + 2560) (linked (fun p => { p with replay := [⟨2, 0, true, zeros 244⟩], replaysHere := 4 }) State.reset : State), by decide, by decide, by decide, by decide, rfl⟩

theorem test_meets_FlitsAreTakenAndReplayed_11 : ∃ (s : State) (n : Fin 4) (u : State),
      s.link.ports[n].isUp = true ∧
      s.fw.runs = true ∧
      u = waitUp (s.link.ports[n].heartbeatSent + s.link.cfg.heartbeatMs * msTicks) s :=
  ⟨(linkState : State), 0, waitUp ((linkState : State).link.ports[0].heartbeatSent + (linkState : State).link.cfg.heartbeatMs * msTicks) (linkState : State), by decide, by decide, rfl⟩

theorem test_meets_FlitsAreTakenAndReplayed_12 : ∃ (s : State) (n : Fin 4) (u : State),
      s.link.ports[n].watched = true ∧
      u = portDown n 4 (waitUp (s.link.ports[n].heartbeatSeen + 10 * s.link.cfg.heartbeatMs * msTicks) s) :=
  ⟨(linked id State.reset : State), 0, portDown 0 4 (waitUp ((linked id State.reset : State).link.ports[0].heartbeatSeen + 10 * (linked id State.reset : State).link.cfg.heartbeatMs * msTicks) (linked id State.reset : State)), by decide, rfl⟩

theorem test_meets_FlitsAreTakenAndReplayed_13 : ∃ (s : State) (n : Fin 4),
      s.link.ports[n].watched = true :=
  ⟨(linked id State.reset : State), 0, by decide⟩

theorem test_meets_FlitsAreTakenAndReplayed_14 : ∃ (s : State) (n : Fin 4),
      s.link.ports[n].watched = true :=
  ⟨(linked id State.reset : State), 0, by decide⟩

theorem test_meets_PacketsGoOnAndReachTheStore_1 : ∃ (s : State) (n : Fin 4) (e : Fin 4) (p : Packet),
      s.link.ports[n].carries = true ∧
      s.link.assigned = true ∧
      p.neighbour = false ∧
      p.dstDid ≠ s.link.did ∧
      p.hops < 65534 ∧
      p.bcast = false ∧
      routePort s.link p.dstDid = some e ∧
      e ≠ n :=
  ⟨({ linkState with link := { linkState.link with ports := linkState.link.ports.set 1 { Port.reset with state := .active, width := 8, rate := 7, peerDid := 12, entries := [(12, 12, 1)] } } } : State), 0, 1, { pk 4 5 0 [] with dstDid := 12 }, by decide, by decide, by decide, by decide, by decide, by decide, by decide, by decide⟩

theorem test_meets_PacketsGoOnAndReachTheStore_2 : ∃ (s : State) (n : Fin 4) (p : Packet),
      s.link.ports[n].carries = true ∧
      s.link.assigned = true ∧
      p.neighbour = false ∧
      p.dstDid ≠ s.link.did ∧
      p.hops < 65534 ∧
      p.bcast = false ∧
      routePort s.link p.dstDid = some n :=
  ⟨({ linkState with link := { linkState.link with ports := linkState.link.ports.set 1 { Port.reset with state := .active, width := 8, rate := 7, peerDid := 12, entries := [(12, 12, 1)] } } } : State), 1, { pk 4 5 0 [] with dstDid := 12 }, by decide, by decide, by decide, by decide, by decide, by decide, by decide⟩

theorem test_meets_PacketsGoOnAndReachTheStore_3 : ∃ (s : State) (n : Fin 4) (p : Packet),
      s.link.ports[n].carries = true ∧
      s.link.assigned = true ∧
      p.neighbour = false ∧
      p.dstDid ≠ s.link.did ∧
      p.hops < 65534 ∧
      p.bcast = false ∧
      routePort s.link p.dstDid = none ∧
      p.type ≠ ptRead :=
  ⟨(linkState : State), 0, { pk 4 5 0 [] with dstDid := 12 }, by decide, by decide, by decide, by decide, by decide, by decide, by decide, by decide⟩

theorem test_meets_PacketsGoOnAndReachTheStore_4 : ∃ (s : State) (n : Fin 4) (p : Packet),
      s.link.ports[n].carries = true ∧
      s.link.assigned = true ∧
      p.neighbour = false ∧
      p.dstDid ≠ s.link.did ∧
      p.hops < 65534 ∧
      p.bcast = false ∧
      routePort s.link p.dstDid = none ∧
      p.type = ptRead :=
  ⟨(linkState : State), 0, { pk 2 0 0 [] with dstDid := 12 }, by decide, by decide, by decide, by decide, by decide, by decide, by decide, by decide⟩

theorem test_meets_PacketsGoOnAndReachTheStore_5 : ∃ (s : State) (n : Fin 4) (p : Packet),
      s.link.ports[n].carries = true ∧
      s.link.assigned = true ∧
      p.neighbour = false ∧
      p.hops < 65534 ∧
      p.bcast = true :=
  ⟨(linkState : State), 0, { pk 4 5 0 [] with bcast := true }, by decide, by decide, by decide, by decide, by decide⟩

theorem test_meets_PacketsGoOnAndReachTheStore_6 : ∃ (s : State) (n : Fin 4) (p : Packet) (u : State),
      Arrives s u n p ∧
      p.type = ptWrite ∧
      p.subtype = 0 ∧
      p.ackReq = true ∧
      dmaWritable u p.addr.toNat p.payload.length = false :=
  ⟨(linkState : State), 0, { pk 1 0 0 [7] with ackReq := true }, wakeLull (linkState : State), ⟨rfl, by decide, by decide⟩, by decide, by decide, by decide, by decide⟩

theorem test_meets_PacketsGoOnAndReachTheStore_7 : ∃ (s : State) (n : Fin 4) (p : Packet) (u : State) (v : State),
      Arrives s u n p ∧
      p.type = ptWrite ∧
      p.subtype = 0 ∧
      dmaWritable u p.addr.toNat p.payload.length = true ∧
      v = storeAwake u ∧
      storeServes v = true :=
  ⟨(linkState : State), 0, { pk 1 0 0 [7] with addr := BitVec.ofNat 64 dmaBase }, wakeLull (linkState : State), storeAwake (wakeLull (linkState : State) : State), ⟨rfl, by decide, by decide⟩, by decide, by decide, by decide, rfl, by decide⟩

theorem test_meets_PacketsGoOnAndReachTheStore_8 : ∃ (s : State) (n : Fin 4) (p : Packet) (u : State),
      Arrives s u n p ∧
      p.type = ptWrite ∧
      p.subtype = 1 :=
  ⟨(linkState : State), 0, pk 1 1 0 [7], wakeLull (linkState : State), ⟨rfl, by decide, by decide⟩, by decide, by decide⟩

theorem test_meets_PacketsGoOnAndReachTheStore_9 : ∃ (s : State) (n : Fin 4) (p : Packet) (u : State),
      Arrives s u n p ∧
      p.type = ptWrite ∧
      (p.subtype = 2 ∨ p.subtype = 3) :=
  ⟨(linkState : State), 0, pk 1 2 0 [7], wakeLull (linkState : State), ⟨rfl, by decide, by decide⟩, by decide, by decide⟩

theorem test_meets_PacketsGoOnAndReachTheStore_10 : ∃ (s : State) (n : Fin 4) (p : Packet) (u : State),
      Arrives s u n p ∧
      p.type = ptRead ∧
      (p.aux.toNat % 4294967296 = 0 ∨ 4096 < p.aux.toNat % 4294967296 ∨ readAllowed u p (p.aux.toNat % 4294967296) = false) :=
  ⟨(linkState : State), 0, pk 2 0 5000 [], wakeLull (linkState : State), ⟨rfl, by decide, by decide⟩, by decide, by decide⟩

theorem test_meets_PacketsGoOnAndReachTheStore_11 : ∃ (s : State) (n : Fin 4) (p : Packet) (u : State) (k : Nat) (v : State),
      Arrives s u n p ∧
      p.type = ptRead ∧
      p.aux.toNat % 4294967296 = k ∧
      1 ≤ k ∧
      k ≤ 4096 ∧
      readAllowed u p k = true ∧
      v = storeAwake u ∧
      storeServes v = true ∧
      v.store.within rtHistory p.addr.toNat k = false ∧
      readPoisoned v p.addr.toNat k = false :=
  ⟨(linkState : State), 0, { pk 2 0 64 [] with addr := BitVec.ofNat 64 dmaBase }, wakeLull (linkState : State), 64, storeAwake (wakeLull (linkState : State) : State), ⟨rfl, by decide, by decide⟩, by decide, by decide, by decide, by decide, by decide, rfl, by decide, by decide, by decide⟩

theorem test_meets_PacketsGoOnAndReachTheStore_12 : ∃ (s : State) (n : Fin 4) (p : Packet) (u : State) (k : Nat) (v : State),
      Arrives s u n p ∧
      p.type = ptRead ∧
      p.aux.toNat % 4294967296 = k ∧
      1 ≤ k ∧
      k ≤ 4096 ∧
      readAllowed u p k = true ∧
      v = storeAwake u ∧
      storeServes v = true ∧
      v.store.within rtHistory p.addr.toNat k = false ∧
      readPoisoned v p.addr.toNat k = true :=
  ⟨({ linkState with store := { linkState.store with poison := [sectorOf dmaBase] } } : State), 0, { pk 2 0 64 [] with addr := BitVec.ofNat 64 dmaBase }, wakeLull ({ linkState with store := { linkState.store with poison := [sectorOf dmaBase] } } : State), 64, storeAwake (wakeLull ({ linkState with store := { linkState.store with poison := [sectorOf dmaBase] } } : State) : State), ⟨rfl, by decide, by decide⟩, by decide, by decide, by decide, by decide, by decide, rfl, by decide, by decide, by decide⟩

theorem test_meets_PacketsGoOnAndReachTheStore_13 : ∃ (s : State) (n : Fin 4) (p : Packet) (u : State) (k : Nat) (st : Nat) (cause : Nat) (v : State),
      Arrives s u n p ∧
      p.type = ptRead ∧
      p.aux.toNat % 4294967296 = k ∧
      1 ≤ k ∧
      k ≤ 4096 ∧
      readAllowed u p k = true ∧
      v = storeAwake u ∧
      storeServes v = true ∧
      v.store.within rtHistory p.addr.toNat k = true ∧
      historyStatus v p.addr.toNat k = some (st, cause) ∧
      st ≠ 0 :=
  ⟨(oldState : State), 0, { pk 2 0 64 [] with addr := BitVec.ofNat 64 historyBase }, wakeLull (oldState : State), 64, 6, 0, storeAwake (wakeLull (oldState : State) : State), ⟨rfl, by decide, by decide⟩, by decide, by decide, by decide, by decide, by decide, rfl, by decide, by decide, by decide, by decide⟩

theorem test_meets_PacketsGoOnAndReachTheStore_14 : ∃ (s : State) (n : Fin 4) (p : Packet) (u : State) (r : LinkRequest),
      Arrives s u n p ∧
      p.type = ptCompletion ∧
      p.subtype = 0 ∧
      u.link.requests.find? (fun r => decide (r.tag = p.tag ∧ r.did = p.srcDid)) = some r :=
  ⟨({ linkState with link := { linkState.link with requests := [⟨3, 9, true, 4, 1, true, 0, none⟩] } } : State), 0, { pk 3 0 0 [7] with tag := 3 }, wakeLull ({ linkState with link := { linkState.link with requests := [⟨3, 9, true, 4, 1, true, 0, none⟩] } } : State), ⟨3, 9, true, 4, 1, true, 0, none⟩, ⟨rfl, by decide, by decide⟩, by decide, by decide, by decide⟩

theorem test_meets_PacketsGoOnAndReachTheStore_15 : ∃ (s : State) (n : Fin 4) (p : Packet) (u : State),
      Arrives s u n p ∧
      p.type = ptCompletion ∧
      p.subtype = 0 ∧
      u.link.requests.find? (fun r => decide (r.tag = p.tag ∧ r.did = p.srcDid)) = none :=
  ⟨(linkState : State), 0, { pk 3 0 0 [7] with tag := 3 }, wakeLull (linkState : State), ⟨rfl, by decide, by decide⟩, by decide, by decide, by decide⟩

theorem test_meets_PacketsGoOnAndReachTheStore_16 : ∃ (s : State) (n : Fin 4) (p : Packet) (u : State) (k : Fin 16),
      Arrives s u n p ∧
      p.type = ptCompletion ∧
      p.subtype = 1 ∧
      streamIndex (bits p.aux.toNat 11 8) = some k ∧
      u.tw[k].peerDid = p.srcDid :=
  ⟨(linked id (streamState fun t => { t with dest := 2, peerDid := 9 }) : State), 0, pk 3 1 0x300 [], wakeLull (linked id (streamState fun t => { t with dest := 2, peerDid := 9 }) : State), 3, ⟨rfl, by decide, by decide⟩, by decide, by decide, by decide, by decide⟩

theorem test_meets_PacketsGoOnAndReachTheStore_17 : ∃ (s : State) (n : Fin 4) (p : Packet) (u : State),
      Arrives s u n p ∧
      p.type = ptCompletion ∧
      p.subtype = 2 :=
  ⟨(linkState : State), 0, pk 3 2 0 [], wakeLull (linkState : State), ⟨rfl, by decide, by decide⟩, by decide, by decide⟩

theorem test_meets_PacketsGoOnAndReachTheStore_18 : ∃ (s : State) (tag : U32) (r : LinkRequest),
      s.link.requests.find? (·.tag = tag) = some r :=
  ⟨({ linkState with link := { linkState.link with requests := [⟨3, 9, true, 4, 1, true, 0, none⟩] } } : State), 3, ⟨3, 9, true, 4, 1, true, 0, none⟩, by decide⟩

theorem test_meets_ForwardedWorkIsDone_1 : ∃ (s : State) (n : Fin 4) (p : Packet) (u : State) (v : State) (c : Cmd),
      Arrives s u n p ∧
      isPacket p ptMsg 1 = true ∧
      u.fw.runs = true ∧
      v = (if p.ackReq then send (mkPacket u ptCompletion 2 p.srcDid p.tag 0 0) u else u) ∧
      c = ({ id := v.mbx.nextId, origin := .peer p.srcDid p.tag, cplq := 0, bytes := p.payload.take 64, started := true, waiting := false, blocks := [] } : Cmd) ∧
      v.mbx.cmds.length < cmdLimit ∧
      namesOwnMemory c = false :=
  ⟨(linkState : State), 0, pk 4 1 0 (zeros 64), wakeLull (linkState : State), (wakeLull (linkState : State) : State), ({ id := 0, origin := .peer 9 0, cplq := 0, bytes := zeros 64, started := true, waiting := false, blocks := [] } : Cmd), ⟨rfl, by decide, by decide⟩, by decide, by decide, rfl, rfl, by decide, by decide⟩

theorem test_meets_ForwardedWorkIsDone_2 : ∃ (s : State) (n : Fin 4) (p : Packet) (u : State) (v : State) (c : Cmd),
      Arrives s u n p ∧
      isPacket p ptMsg 1 = true ∧
      u.fw.runs = true ∧
      v = (if p.ackReq then send (mkPacket u ptCompletion 2 p.srcDid p.tag 0 0) u else u) ∧
      c = ({ id := v.mbx.nextId, origin := .peer p.srcDid p.tag, cplq := 0, bytes := p.payload.take 64, started := true, waiting := false, blocks := [] } : Cmd) ∧
      v.mbx.cmds.length < cmdLimit ∧
      namesOwnMemory c = true :=
  ⟨(linkState : State), 0, pk 4 1 0 (block 64 [(0, [2, 6])]), wakeLull (linkState : State), (wakeLull (linkState : State) : State), ({ id := 0, origin := .peer 9 0, cplq := 0, bytes := block 64 [(0, [2, 6])], started := true, waiting := false, blocks := [] } : Cmd), ⟨rfl, by decide, by decide⟩, by decide, by decide, rfl, rfl, by decide, by decide⟩

theorem test_meets_ForwardedWorkIsDone_3 : ∃ (s : State) (n : Fin 4) (p : Packet) (u : State) (v : State) (c : Cmd),
      Arrives s u n p ∧
      isPacket p ptMsg 1 = true ∧
      u.fw.runs = true ∧
      v = (if p.ackReq then send (mkPacket u ptCompletion 2 p.srcDid p.tag 0 0) u else u) ∧
      c = ({ id := v.mbx.nextId, origin := .peer p.srcDid p.tag, cplq := 0, bytes := p.payload.take 64, started := true, waiting := false, blocks := [] } : Cmd) ∧
      cmdLimit ≤ v.mbx.cmds.length :=
  ⟨({ linkState with mbx := { linkState.mbx with cmds := List.replicate 256 (cmdOf 3 []) } } : State), 0, pk 4 1 0 (zeros 64), wakeLull ({ linkState with mbx := { linkState.mbx with cmds := List.replicate 256 (cmdOf 3 []) } } : State), (wakeLull ({ linkState with mbx := { linkState.mbx with cmds := List.replicate 256 (cmdOf 3 []) } } : State) : State), ({ id := 0, origin := .peer 9 0, cplq := 0, bytes := zeros 64, started := true, waiting := false, blocks := [] } : Cmd), ⟨rfl, by decide, by decide⟩, by decide, by decide, rfl, rfl, by decide⟩

theorem test_meets_ForwardedWorkIsDone_4 : ∃ (s : State) (n : Fin 4) (p : Packet) (u : State) (v : State) (c : Cmd),
      Arrives s u n p ∧
      isPacket p ptMsg 2 = true ∧
      u.mbx.forwarded.any (fun f => decide (f.cmd = p.tag.toNat ∧ f.did = p.srcDid)) = true ∧
      v = { u with mbx := { u.mbx with forwarded := u.mbx.forwarded.filter (·.cmd ≠ p.tag.toNat) } } ∧
      findCmd v p.tag.toNat = some c :=
  ⟨({ linkState with mbx := { linkState.mbx with cmds := [cmdOf 3 []], forwarded := [fwdOne] } } : State), 0, { pk 4 2 0 (zeros 32) with tag := 1 }, wakeLull ({ linkState with mbx := { linkState.mbx with cmds := [cmdOf 3 []], forwarded := [fwdOne] } } : State), { (wakeLull ({ linkState with mbx := { linkState.mbx with cmds := [cmdOf 3 []], forwarded := [fwdOne] } } : State) : State) with mbx := { (wakeLull ({ linkState with mbx := { linkState.mbx with cmds := [cmdOf 3 []], forwarded := [fwdOne] } } : State) : State).mbx with forwarded := (wakeLull ({ linkState with mbx := { linkState.mbx with cmds := [cmdOf 3 []], forwarded := [fwdOne] } } : State) : State).mbx.forwarded.filter (·.cmd ≠ 1) } }, cmdOf 3 [], ⟨rfl, by decide, by decide⟩, by decide, by decide, rfl, by decide⟩

theorem test_meets_ForwardedWorkIsDone_5 : ∃ (s : State) (n : Fin 4) (p : Packet) (u : State) (q : Fin 4),
      Arrives s u n p ∧
      isPacket p ptMsg 3 = true ∧
      evqIndex (p.aux.toNat % 65536) = some q :=
  ⟨(linkState : State), 0, pk 4 3 0 (zeros 32), wakeLull (linkState : State), 0, ⟨rfl, by decide, by decide⟩, by decide, by decide⟩

theorem test_meets_ForwardedWorkIsDone_6 : ∃ (s : State) (n : Fin 4) (p : Packet) (u : State),
      Arrives s u n p ∧
      isPacket p ptMsg 7 = true ∧
      p.aux.toNat % 256 = 0 :=
  ⟨(linkState : State), 0, pk 4 7 0 (zeros 266), wakeLull (linkState : State), ⟨rfl, by decide, by decide⟩, by decide, by decide⟩

theorem test_meets_ForwardedWorkIsDone_7 : ∃ (s : State) (n : Fin 4) (p : Packet) (u : State),
      Arrives s u n p ∧
      isPacket p ptMsg 7 = true ∧
      p.aux.toNat % 256 = 1 :=
  ⟨(linkState : State), 0, pk 4 7 1 [], wakeLull (linkState : State), ⟨rfl, by decide, by decide⟩, by decide, by decide⟩

theorem test_meets_ForwardedWorkIsDone_8 : ∃ (s : State) (n : Fin 4) (p : Packet) (u : State) (t : Task) (m : Migration),
      Arrives s u n p ∧
      isPacket p ptMsg 7 = true ∧
      p.aux.toNat % 256 = 2 ∧
      findTask u p.addr.toNat = some t ∧
      t.migration = some m ∧
      m.peer = some p.srcDid :=
  ⟨(migState : State), 0, { pk 4 7 2 [] with addr := 1 }, wakeLull (migState : State), { taskOne with migration := some migOne }, migOne, ⟨rfl, by decide, by decide⟩, by decide, by decide, rfl, rfl, by decide⟩

theorem test_meets_ForwardedWorkIsDone_9 : ∃ (s : State) (n : Fin 4) (p : Packet) (u : State),
      Arrives s u n p ∧
      isPacket p ptMsg 7 = true ∧
      p.aux.toNat % 256 = 3 :=
  ⟨(linkState : State), 0, pk 4 7 3 [], wakeLull (linkState : State), ⟨rfl, by decide, by decide⟩, by decide, by decide⟩

theorem test_meets_ForwardedWorkIsDone_10 : ∃ (s : State) (n : Fin 4) (p : Packet) (u : State),
      Arrives s u n p ∧
      isPacket p ptMsg 7 = true ∧
      p.aux.toNat % 256 = 4 :=
  ⟨(linkState : State), 0, pk 4 7 4 [], wakeLull (linkState : State), ⟨rfl, by decide, by decide⟩, by decide, by decide⟩

theorem test_meets_ForwardedWorkIsDone_11 : ∃ (s : State) (n : Fin 4) (p : Packet) (u : State),
      Arrives s u n p ∧
      isPacket p ptMsg 7 = true ∧
      p.aux.toNat % 256 = 5 :=
  ⟨(linkState : State), 0, pk 4 7 5 (zeros 256), wakeLull (linkState : State), ⟨rfl, by decide, by decide⟩, by decide, by decide⟩

theorem test_meets_ForwardedWorkIsDone_12 : ∃ (s : State) (n : Fin 4) (p : Packet) (u : State),
      Arrives s u n p ∧
      isPacket p ptMsg 7 = true ∧
      p.aux.toNat % 256 = 7 :=
  ⟨(linkState : State), 0, pk 4 7 7 (zeros 16), wakeLull (linkState : State), ⟨rfl, by decide, by decide⟩, by decide, by decide⟩

theorem test_meets_ForwardedWorkIsDone_13 : ∃ (s : State) (n : Fin 4) (p : Packet) (u : State),
      Arrives s u n p ∧
      isPacket p ptMsg 7 = true ∧
      p.aux.toNat % 256 = 8 :=
  ⟨(linkState : State), 0, pk 4 7 8 (zeros 264), wakeLull (linkState : State), ⟨rfl, by decide, by decide⟩, by decide, by decide⟩

theorem test_meets_ForwardedWorkIsDone_14 : ∃ (s : State) (n : Fin 4) (p : Packet) (u : State) (k : Fin 16),
      Arrives s u n p ∧
      isPacket p ptMsg 7 = true ∧
      p.aux.toNat % 256 = 6 ∧
      streamIndex p.addr.toNat = some k ∧
      u.tw[k].dest = 2 ∧
      u.tw[k].isOpen = true ∧
      u.tw[k].peerDid = p.srcDid :=
  ⟨(linked id (streamState fun t => { t with dest := 2, peerDid := 9 }) : State), 0, { pk 4 7 6 (zeros 16) with addr := 3 }, wakeLull (linked id (streamState fun t => { t with dest := 2, peerDid := 9 }) : State), 3, ⟨rfl, by decide, by decide⟩, by decide, by decide, by decide, by decide, by decide, by decide⟩

def test_meets_ForwardedWorkIsDone_15_s : State := linkState
def test_meets_ForwardedWorkIsDone_15_did : Nat := 77
def test_meets_ForwardedWorkIsDone_15_u : State := waitUp (lossTime test_meets_ForwardedWorkIsDone_15_s 77 + msTicks) test_meets_ForwardedWorkIsDone_15_s
def test_meets_ForwardedWorkIsDone_15_v : State := forL (test_meets_ForwardedWorkIsDone_15_u.link.flows.filter fun f => decide (f.did = 77) && f.lostSince.isSome) endFlow test_meets_ForwardedWorkIsDone_15_u
theorem test_meets_ForwardedWorkIsDone_15_h0 : (fun (s : State) (did : Nat) (u : State) (v : State) => reachable s.link did = false) test_meets_ForwardedWorkIsDone_15_s test_meets_ForwardedWorkIsDone_15_did test_meets_ForwardedWorkIsDone_15_u test_meets_ForwardedWorkIsDone_15_v := by
  beta_reduce
  decide
theorem test_meets_ForwardedWorkIsDone_15_h1 : (fun (s : State) (did : Nat) (u : State) (v : State) => s.link.assigned = false ∨ did ≠ s.link.did) test_meets_ForwardedWorkIsDone_15_s test_meets_ForwardedWorkIsDone_15_did test_meets_ForwardedWorkIsDone_15_u test_meets_ForwardedWorkIsDone_15_v := by
  beta_reduce
  decide
theorem test_meets_ForwardedWorkIsDone_15_h2 : (fun (s : State) (did : Nat) (u : State) (v : State) => u = waitUp (lossTime s did + msTicks) s) test_meets_ForwardedWorkIsDone_15_s test_meets_ForwardedWorkIsDone_15_did test_meets_ForwardedWorkIsDone_15_u test_meets_ForwardedWorkIsDone_15_v := by
  beta_reduce
  exact rfl
theorem test_meets_ForwardedWorkIsDone_15_h3 : (fun (s : State) (did : Nat) (u : State) (v : State) => v = forL (u.link.flows.filter fun f => decide (f.did = did) && f.lostSince.isSome) endFlow u) test_meets_ForwardedWorkIsDone_15_s test_meets_ForwardedWorkIsDone_15_did test_meets_ForwardedWorkIsDone_15_u test_meets_ForwardedWorkIsDone_15_v := by
  beta_reduce
  exact rfl
theorem test_meets_ForwardedWorkIsDone_15_h4 : (fun (s : State) (did : Nat) (u : State) (v : State) => v.link.isRoot = false) test_meets_ForwardedWorkIsDone_15_s test_meets_ForwardedWorkIsDone_15_did test_meets_ForwardedWorkIsDone_15_u test_meets_ForwardedWorkIsDone_15_v := by
  beta_reduce
  decide
theorem test_meets_ForwardedWorkIsDone_15 : ∃ (s : State) (did : Nat) (u : State) (v : State),
      reachable s.link did = false ∧
      (s.link.assigned = false ∨ did ≠ s.link.did) ∧
      u = waitUp (lossTime s did + msTicks) s ∧
      v = forL (u.link.flows.filter fun f => decide (f.did = did) && f.lostSince.isSome) endFlow u ∧
      v.link.isRoot = false :=
  ⟨test_meets_ForwardedWorkIsDone_15_s, test_meets_ForwardedWorkIsDone_15_did, test_meets_ForwardedWorkIsDone_15_u, test_meets_ForwardedWorkIsDone_15_v, test_meets_ForwardedWorkIsDone_15_h0, test_meets_ForwardedWorkIsDone_15_h1, test_meets_ForwardedWorkIsDone_15_h2, test_meets_ForwardedWorkIsDone_15_h3, test_meets_ForwardedWorkIsDone_15_h4⟩

def test_meets_ForwardedWorkIsDone_16_s : State := { linkState with link := { linkState.link with isRoot := true, unreachable := [⟨70, 80, 4, false⟩] } }
def test_meets_ForwardedWorkIsDone_16_did : Nat := 77
def test_meets_ForwardedWorkIsDone_16_u : State := waitUp (lossTime test_meets_ForwardedWorkIsDone_16_s 77 + msTicks) test_meets_ForwardedWorkIsDone_16_s
def test_meets_ForwardedWorkIsDone_16_v : State := forL (test_meets_ForwardedWorkIsDone_16_u.link.flows.filter fun f => decide (f.did = 77) && f.lostSince.isSome) endFlow test_meets_ForwardedWorkIsDone_16_u
theorem test_meets_ForwardedWorkIsDone_16_h0 : (fun (s : State) (did : Nat) (u : State) (v : State) => reachable s.link did = false) test_meets_ForwardedWorkIsDone_16_s test_meets_ForwardedWorkIsDone_16_did test_meets_ForwardedWorkIsDone_16_u test_meets_ForwardedWorkIsDone_16_v := by
  beta_reduce
  decide
theorem test_meets_ForwardedWorkIsDone_16_h1 : (fun (s : State) (did : Nat) (u : State) (v : State) => s.link.assigned = false ∨ did ≠ s.link.did) test_meets_ForwardedWorkIsDone_16_s test_meets_ForwardedWorkIsDone_16_did test_meets_ForwardedWorkIsDone_16_u test_meets_ForwardedWorkIsDone_16_v := by
  beta_reduce
  decide
theorem test_meets_ForwardedWorkIsDone_16_h2 : (fun (s : State) (did : Nat) (u : State) (v : State) => u = waitUp (lossTime s did + msTicks) s) test_meets_ForwardedWorkIsDone_16_s test_meets_ForwardedWorkIsDone_16_did test_meets_ForwardedWorkIsDone_16_u test_meets_ForwardedWorkIsDone_16_v := by
  beta_reduce
  exact rfl
theorem test_meets_ForwardedWorkIsDone_16_h3 : (fun (s : State) (did : Nat) (u : State) (v : State) => v = forL (u.link.flows.filter fun f => decide (f.did = did) && f.lostSince.isSome) endFlow u) test_meets_ForwardedWorkIsDone_16_s test_meets_ForwardedWorkIsDone_16_did test_meets_ForwardedWorkIsDone_16_u test_meets_ForwardedWorkIsDone_16_v := by
  beta_reduce
  exact rfl
theorem test_meets_ForwardedWorkIsDone_16_h4 : (fun (s : State) (did : Nat) (u : State) (v : State) => v.link.isRoot = true) test_meets_ForwardedWorkIsDone_16_s test_meets_ForwardedWorkIsDone_16_did test_meets_ForwardedWorkIsDone_16_u test_meets_ForwardedWorkIsDone_16_v := by
  beta_reduce
  decide
theorem test_meets_ForwardedWorkIsDone_16 : ∃ (s : State) (did : Nat) (u : State) (v : State),
      reachable s.link did = false ∧
      (s.link.assigned = false ∨ did ≠ s.link.did) ∧
      u = waitUp (lossTime s did + msTicks) s ∧
      v = forL (u.link.flows.filter fun f => decide (f.did = did) && f.lostSince.isSome) endFlow u ∧
      v.link.isRoot = true :=
  ⟨test_meets_ForwardedWorkIsDone_16_s, test_meets_ForwardedWorkIsDone_16_did, test_meets_ForwardedWorkIsDone_16_u, test_meets_ForwardedWorkIsDone_16_v, test_meets_ForwardedWorkIsDone_16_h0, test_meets_ForwardedWorkIsDone_16_h1, test_meets_ForwardedWorkIsDone_16_h2, test_meets_ForwardedWorkIsDone_16_h3, test_meets_ForwardedWorkIsDone_16_h4⟩

theorem test_meets_ForwardedWorkIsDone_17 : ∃ (s : State) (did : Nat),
      reachable s.link did = true :=
  ⟨(linkState : State), 9, by decide⟩

theorem test_meets_DevicesAreNumberedAndHealed_1 : ∃ (s : State) (n : Fin 4) (p : Packet) (u : State),
      Arrives s u n p ∧
      isPacket p 7 1 = true ∧
      assignRelay p = true :=
  ⟨(linkState : State), 0, pk 7 1 0x40000 [], wakeLull (linkState : State), ⟨rfl, by decide, by decide⟩, by decide, by decide⟩

theorem test_meets_DevicesAreNumberedAndHealed_2 : ∃ (s : State) (n : Fin 4) (p : Packet) (u : State),
      Arrives s u n p ∧
      isPacket p 7 1 = true ∧
      assignRelay p = false ∧
      u.link.assigned = false :=
  ⟨({ linkState with link := { linkState.link with assigned := false } } : State), 0, { pk 7 1 7 [] with neighbour := true }, wakeLull ({ linkState with link := { linkState.link with assigned := false } } : State), ⟨rfl, by decide, by decide⟩, by decide, by decide, by decide⟩

theorem test_meets_DevicesAreNumberedAndHealed_3 : ∃ (s : State) (n : Fin 4) (p : Packet) (u : State),
      Arrives s u n p ∧
      isPacket p 7 1 = true ∧
      assignRelay p = false ∧
      u.link.isRoot = false ∧
      u.link.assigned = true ∧
      u.link.enumNo = p.tag ∧
      u.link.rootSerial = p.addr ∧
      u.link.upstream ≠ some n.val :=
  ⟨(linkState : State), 0, { pk 7 1 7 [] with neighbour := true }, wakeLull (linkState : State), ⟨rfl, by decide, by decide⟩, by decide, by decide, by decide, by decide, by decide, by decide, by decide⟩

theorem test_meets_DevicesAreNumberedAndHealed_4 : ∃ (s : State) (n : Fin 4) (p : Packet) (u : State),
      Arrives s u n p ∧
      isPacket p 7 1 = true ∧
      assignRelay p = false ∧
      u.link.isRoot = true ∧
      u.link.rootSerial ≠ p.addr ∧
      u.boot.fuses.serial.toNat ≤ p.addr.toNat :=
  ⟨({ linkState with link := { linkState.link with isRoot := true } } : State), 0, { pk 7 1 7 [] with neighbour := true, addr := 99 }, wakeLull ({ linkState with link := { linkState.link with isRoot := true } } : State), ⟨rfl, by decide, by decide⟩, by decide, by decide, by decide, by decide, by decide⟩

theorem test_meets_DevicesAreNumberedAndHealed_5 : ∃ (s : State) (n : Fin 4) (p : Packet) (u : State),
      Arrives s u n p ∧
      isPacket p 7 2 = true ∧
      u.link.isRoot = true ∧
      bit p.aux.toNat 20 = false :=
  ⟨({ linkState with link := { linkState.link with isRoot := true } } : State), 0, pk 7 2 0x10000 [], wakeLull ({ linkState with link := { linkState.link with isRoot := true } } : State), ⟨rfl, by decide, by decide⟩, by decide, by decide, by decide⟩

def test_meets_DevicesAreNumberedAndHealed_6_s : State := { linkState with link := { linkState.link with isRoot := true, enumeration := some ⟨none, 1, 0, []⟩ } }
def test_meets_DevicesAreNumberedAndHealed_6_n : Fin 4 := 0
def test_meets_DevicesAreNumberedAndHealed_6_p : Packet := { pk 7 2 0x100100000 (zeros 3) with hops := 1 }
def test_meets_DevicesAreNumberedAndHealed_6_u : State := wakeLull test_meets_DevicesAreNumberedAndHealed_6_s
def test_meets_DevicesAreNumberedAndHealed_6_v : State := restoreRanges [(9, 9)] (noteDevice { pk 7 2 0x100100000 (zeros 3) with hops := 1 } (addDid 0 9 test_meets_DevicesAreNumberedAndHealed_6_u))
def test_meets_DevicesAreNumberedAndHealed_6_e : Enumeration := ⟨none, 1, 0, []⟩
theorem test_meets_DevicesAreNumberedAndHealed_6_h0 : (fun (s : State) (n : Fin 4) (p : Packet) (u : State) (v : State) (e : Enumeration) => Arrives s u n p) test_meets_DevicesAreNumberedAndHealed_6_s test_meets_DevicesAreNumberedAndHealed_6_n test_meets_DevicesAreNumberedAndHealed_6_p test_meets_DevicesAreNumberedAndHealed_6_u test_meets_DevicesAreNumberedAndHealed_6_v test_meets_DevicesAreNumberedAndHealed_6_e := by
  beta_reduce
  exact ⟨rfl, by decide, by decide⟩
theorem test_meets_DevicesAreNumberedAndHealed_6_h1 : (fun (s : State) (n : Fin 4) (p : Packet) (u : State) (v : State) (e : Enumeration) => isPacket p 7 2 = true) test_meets_DevicesAreNumberedAndHealed_6_s test_meets_DevicesAreNumberedAndHealed_6_n test_meets_DevicesAreNumberedAndHealed_6_p test_meets_DevicesAreNumberedAndHealed_6_u test_meets_DevicesAreNumberedAndHealed_6_v test_meets_DevicesAreNumberedAndHealed_6_e := by
  beta_reduce
  decide
theorem test_meets_DevicesAreNumberedAndHealed_6_h2 : (fun (s : State) (n : Fin 4) (p : Packet) (u : State) (v : State) (e : Enumeration) => u.link.isRoot = true) test_meets_DevicesAreNumberedAndHealed_6_s test_meets_DevicesAreNumberedAndHealed_6_n test_meets_DevicesAreNumberedAndHealed_6_p test_meets_DevicesAreNumberedAndHealed_6_u test_meets_DevicesAreNumberedAndHealed_6_v test_meets_DevicesAreNumberedAndHealed_6_e := by
  beta_reduce
  decide
theorem test_meets_DevicesAreNumberedAndHealed_6_h3 : (fun (s : State) (n : Fin 4) (p : Packet) (u : State) (v : State) (e : Enumeration) => bit p.aux.toNat 20 = true) test_meets_DevicesAreNumberedAndHealed_6_s test_meets_DevicesAreNumberedAndHealed_6_n test_meets_DevicesAreNumberedAndHealed_6_p test_meets_DevicesAreNumberedAndHealed_6_u test_meets_DevicesAreNumberedAndHealed_6_v test_meets_DevicesAreNumberedAndHealed_6_e := by
  beta_reduce
  decide
theorem test_meets_DevicesAreNumberedAndHealed_6_h4 : (fun (s : State) (n : Fin 4) (p : Packet) (u : State) (v : State) (e : Enumeration) => p.hops ≠ 0) test_meets_DevicesAreNumberedAndHealed_6_s test_meets_DevicesAreNumberedAndHealed_6_n test_meets_DevicesAreNumberedAndHealed_6_p test_meets_DevicesAreNumberedAndHealed_6_u test_meets_DevicesAreNumberedAndHealed_6_v test_meets_DevicesAreNumberedAndHealed_6_e := by
  beta_reduce
  decide
theorem test_meets_DevicesAreNumberedAndHealed_6_h5 : (fun (s : State) (n : Fin 4) (p : Packet) (u : State) (v : State) (e : Enumeration) => v = restoreRanges [(p.srcDid, p.srcDid)] (noteDevice p (addDid n p.srcDid u))) test_meets_DevicesAreNumberedAndHealed_6_s test_meets_DevicesAreNumberedAndHealed_6_n test_meets_DevicesAreNumberedAndHealed_6_p test_meets_DevicesAreNumberedAndHealed_6_u test_meets_DevicesAreNumberedAndHealed_6_v test_meets_DevicesAreNumberedAndHealed_6_e := by
  beta_reduce
  exact rfl
theorem test_meets_DevicesAreNumberedAndHealed_6_h6 : (fun (s : State) (n : Fin 4) (p : Packet) (u : State) (v : State) (e : Enumeration) => v.link.enumeration = some e) test_meets_DevicesAreNumberedAndHealed_6_s test_meets_DevicesAreNumberedAndHealed_6_n test_meets_DevicesAreNumberedAndHealed_6_p test_meets_DevicesAreNumberedAndHealed_6_u test_meets_DevicesAreNumberedAndHealed_6_v test_meets_DevicesAreNumberedAndHealed_6_e := by
  beta_reduce
  decide
theorem test_meets_DevicesAreNumberedAndHealed_6 : ∃ (s : State) (n : Fin 4) (p : Packet) (u : State) (v : State) (e : Enumeration),
      Arrives s u n p ∧
      isPacket p 7 2 = true ∧
      u.link.isRoot = true ∧
      bit p.aux.toNat 20 = true ∧
      p.hops ≠ 0 ∧
      v = restoreRanges [(p.srcDid, p.srcDid)] (noteDevice p (addDid n p.srcDid u)) ∧
      v.link.enumeration = some e :=
  ⟨test_meets_DevicesAreNumberedAndHealed_6_s, test_meets_DevicesAreNumberedAndHealed_6_n, test_meets_DevicesAreNumberedAndHealed_6_p, test_meets_DevicesAreNumberedAndHealed_6_u, test_meets_DevicesAreNumberedAndHealed_6_v, test_meets_DevicesAreNumberedAndHealed_6_e, test_meets_DevicesAreNumberedAndHealed_6_h0, test_meets_DevicesAreNumberedAndHealed_6_h1, test_meets_DevicesAreNumberedAndHealed_6_h2, test_meets_DevicesAreNumberedAndHealed_6_h3, test_meets_DevicesAreNumberedAndHealed_6_h4, test_meets_DevicesAreNumberedAndHealed_6_h5, test_meets_DevicesAreNumberedAndHealed_6_h6⟩

def test_meets_DevicesAreNumberedAndHealed_7_s : State := { linkState with link := { linkState.link with isRoot := true } }
def test_meets_DevicesAreNumberedAndHealed_7_n : Fin 4 := 0
def test_meets_DevicesAreNumberedAndHealed_7_p : Packet := pk 7 2 0x100100000 (zeros 3)
def test_meets_DevicesAreNumberedAndHealed_7_u : State := wakeLull test_meets_DevicesAreNumberedAndHealed_7_s
def test_meets_DevicesAreNumberedAndHealed_7_v : State := restoreRanges [(9, 9)] (noteDevice (pk 7 2 0x100100000 (zeros 3)) (addDid 0 9 test_meets_DevicesAreNumberedAndHealed_7_u))
theorem test_meets_DevicesAreNumberedAndHealed_7_h0 : (fun (s : State) (n : Fin 4) (p : Packet) (u : State) (v : State) => Arrives s u n p) test_meets_DevicesAreNumberedAndHealed_7_s test_meets_DevicesAreNumberedAndHealed_7_n test_meets_DevicesAreNumberedAndHealed_7_p test_meets_DevicesAreNumberedAndHealed_7_u test_meets_DevicesAreNumberedAndHealed_7_v := by
  beta_reduce
  exact ⟨rfl, by decide, by decide⟩
theorem test_meets_DevicesAreNumberedAndHealed_7_h1 : (fun (s : State) (n : Fin 4) (p : Packet) (u : State) (v : State) => isPacket p 7 2 = true) test_meets_DevicesAreNumberedAndHealed_7_s test_meets_DevicesAreNumberedAndHealed_7_n test_meets_DevicesAreNumberedAndHealed_7_p test_meets_DevicesAreNumberedAndHealed_7_u test_meets_DevicesAreNumberedAndHealed_7_v := by
  beta_reduce
  decide
theorem test_meets_DevicesAreNumberedAndHealed_7_h2 : (fun (s : State) (n : Fin 4) (p : Packet) (u : State) (v : State) => u.link.isRoot = true) test_meets_DevicesAreNumberedAndHealed_7_s test_meets_DevicesAreNumberedAndHealed_7_n test_meets_DevicesAreNumberedAndHealed_7_p test_meets_DevicesAreNumberedAndHealed_7_u test_meets_DevicesAreNumberedAndHealed_7_v := by
  beta_reduce
  decide
theorem test_meets_DevicesAreNumberedAndHealed_7_h3 : (fun (s : State) (n : Fin 4) (p : Packet) (u : State) (v : State) => bit p.aux.toNat 20 = true) test_meets_DevicesAreNumberedAndHealed_7_s test_meets_DevicesAreNumberedAndHealed_7_n test_meets_DevicesAreNumberedAndHealed_7_p test_meets_DevicesAreNumberedAndHealed_7_u test_meets_DevicesAreNumberedAndHealed_7_v := by
  beta_reduce
  decide
theorem test_meets_DevicesAreNumberedAndHealed_7_h4 : (fun (s : State) (n : Fin 4) (p : Packet) (u : State) (v : State) => p.hops = 0) test_meets_DevicesAreNumberedAndHealed_7_s test_meets_DevicesAreNumberedAndHealed_7_n test_meets_DevicesAreNumberedAndHealed_7_p test_meets_DevicesAreNumberedAndHealed_7_u test_meets_DevicesAreNumberedAndHealed_7_v := by
  beta_reduce
  decide
theorem test_meets_DevicesAreNumberedAndHealed_7_h5 : (fun (s : State) (n : Fin 4) (p : Packet) (u : State) (v : State) => v = restoreRanges [(p.srcDid, p.srcDid)] (noteDevice p (addDid n p.srcDid u))) test_meets_DevicesAreNumberedAndHealed_7_s test_meets_DevicesAreNumberedAndHealed_7_n test_meets_DevicesAreNumberedAndHealed_7_p test_meets_DevicesAreNumberedAndHealed_7_u test_meets_DevicesAreNumberedAndHealed_7_v := by
  beta_reduce
  exact rfl
theorem test_meets_DevicesAreNumberedAndHealed_7_h6 : (fun (s : State) (n : Fin 4) (p : Packet) (u : State) (v : State) => v.link.enumeration = none) test_meets_DevicesAreNumberedAndHealed_7_s test_meets_DevicesAreNumberedAndHealed_7_n test_meets_DevicesAreNumberedAndHealed_7_p test_meets_DevicesAreNumberedAndHealed_7_u test_meets_DevicesAreNumberedAndHealed_7_v := by
  beta_reduce
  decide
theorem test_meets_DevicesAreNumberedAndHealed_7 : ∃ (s : State) (n : Fin 4) (p : Packet) (u : State) (v : State),
      Arrives s u n p ∧
      isPacket p 7 2 = true ∧
      u.link.isRoot = true ∧
      bit p.aux.toNat 20 = true ∧
      p.hops = 0 ∧
      v = restoreRanges [(p.srcDid, p.srcDid)] (noteDevice p (addDid n p.srcDid u)) ∧
      v.link.enumeration = none :=
  ⟨test_meets_DevicesAreNumberedAndHealed_7_s, test_meets_DevicesAreNumberedAndHealed_7_n, test_meets_DevicesAreNumberedAndHealed_7_p, test_meets_DevicesAreNumberedAndHealed_7_u, test_meets_DevicesAreNumberedAndHealed_7_v, test_meets_DevicesAreNumberedAndHealed_7_h0, test_meets_DevicesAreNumberedAndHealed_7_h1, test_meets_DevicesAreNumberedAndHealed_7_h2, test_meets_DevicesAreNumberedAndHealed_7_h3, test_meets_DevicesAreNumberedAndHealed_7_h4, test_meets_DevicesAreNumberedAndHealed_7_h5, test_meets_DevicesAreNumberedAndHealed_7_h6⟩

theorem test_meets_DevicesAreNumberedAndHealed_8 : ∃ (s : State) (n : Fin 4) (p : Packet) (u : State),
      Arrives s u n p ∧
      isPacket p 7 3 = true ∧
      u.link.isRoot = true ∧
      p.neighbour = false :=
  ⟨({ linkState with link := { linkState.link with isRoot := true } } : State), 0, pk 7 3 0 [], wakeLull ({ linkState with link := { linkState.link with isRoot := true } } : State), ⟨rfl, by decide, by decide⟩, by decide, by decide, by decide⟩

theorem test_meets_DevicesAreNumberedAndHealed_9 : ∃ (s : State) (n : Fin 4) (p : Packet) (u : State),
      Arrives s u n p ∧
      isPacket p 7 3 = true ∧
      u.link.isRoot = false ∧
      p.neighbour = true ∧
      p.aux = 1 :=
  ⟨(linkState : State), 0, { pk 7 3 1 [] with neighbour := true }, wakeLull (linkState : State), ⟨rfl, by decide, by decide⟩, by decide, by decide, by decide, by decide⟩

theorem test_meets_DevicesAreNumberedAndHealed_10 : ∃ (s : State) (n : Fin 4) (p : Packet) (u : State) (l : List (Fin 4)),
      Arrives s u n p ∧
      isHeal p rcHeal = true ∧
      u.link.upstream = some n.val ∧
      l = ((List.finRange 4).filter fun k => decide (u.link.ports[k].state = .standby) && !inRanges (healRanges p) u.link.ports[k].peerDid) :=
  ⟨({ linkState with link := { linkState.link with upstream := some 0 } } : State), 0, pk 4 6 0 [], wakeLull ({ linkState with link := { linkState.link with upstream := some 0 } } : State), [], ⟨rfl, by decide, by decide⟩, by decide, by decide, by decide⟩

theorem test_meets_DevicesAreNumberedAndHealed_11 : ∃ (s : State) (n : Fin 4) (p : Packet) (u : State) (h : Heal),
      Arrives s u n p ∧
      isHeal p rcOffer = true ∧
      u.link.heal = some h :=
  ⟨({ linkState with link := { linkState.link with heal := some ⟨4, [], []⟩ } } : State), 0, pk 4 6 1 [], wakeLull ({ linkState with link := { linkState.link with heal := some ⟨4, [], []⟩ } } : State), ⟨4, [], []⟩, ⟨rfl, by decide, by decide⟩, by decide, by decide⟩

theorem test_meets_DevicesAreNumberedAndHealed_12 : ∃ (s : State) (h : Heal),
      s.link.heal = some h ∧
      h.offers = [] :=
  ⟨({ linkState with link := { linkState.link with heal := some ⟨4, [], []⟩ } } : State), ⟨4, [], []⟩, by decide, by decide⟩

theorem test_meets_DevicesAreNumberedAndHealed_13 : ∃ (s : State) (h : Heal) (v : State) (o : Offer),
      s.link.heal = some h ∧
      v = { waitUp (h.since + s.link.cfg.healOfferUs * usTicks) s with link := { (waitUp (h.since + s.link.cfg.healOfferUs * usTicks) s).link with heal := none } } ∧
      (sortBy (fun o => o.hops * 65536 + o.did) h.offers).head? = some o ∧
      o.did = v.link.did :=
  ⟨({ linkState with link := { linkState.link with heal := some ⟨4, [⟨5, 2, 0⟩], []⟩ } } : State), ⟨4, [⟨5, 2, 0⟩], []⟩, { waitUp (4 + ({ linkState with link := { linkState.link with heal := some ⟨4, [⟨5, 2, 0⟩], []⟩ } } : State).link.cfg.healOfferUs * usTicks) ({ linkState with link := { linkState.link with heal := some ⟨4, [⟨5, 2, 0⟩], []⟩ } } : State) with link := { (waitUp (4 + ({ linkState with link := { linkState.link with heal := some ⟨4, [⟨5, 2, 0⟩], []⟩ } } : State).link.cfg.healOfferUs * usTicks) ({ linkState with link := { linkState.link with heal := some ⟨4, [⟨5, 2, 0⟩], []⟩ } } : State)).link with heal := none } }, ⟨5, 2, 0⟩, by decide, rfl, by decide, by decide⟩

def test_meets_DevicesAreNumberedAndHealed_14_s : State := { linkState with link := { linkState.link with heal := some ⟨4, [⟨9, 2, 0⟩], []⟩ } }
def test_meets_DevicesAreNumberedAndHealed_14_h : Heal := ⟨4, [⟨9, 2, 0⟩], []⟩
def test_meets_DevicesAreNumberedAndHealed_14_v : State := { waitUp (4 + test_meets_DevicesAreNumberedAndHealed_14_s.link.cfg.healOfferUs * usTicks) test_meets_DevicesAreNumberedAndHealed_14_s with link := { (waitUp (4 + test_meets_DevicesAreNumberedAndHealed_14_s.link.cfg.healOfferUs * usTicks) test_meets_DevicesAreNumberedAndHealed_14_s).link with heal := none } }
def test_meets_DevicesAreNumberedAndHealed_14_o : Offer := ⟨9, 2, 0⟩
def test_meets_DevicesAreNumberedAndHealed_14_e : Fin 4 := 0
def test_meets_DevicesAreNumberedAndHealed_14_w : State := send (healMsg test_meets_DevicesAreNumberedAndHealed_14_v 9 rcActivate 2 0 0 []) test_meets_DevicesAreNumberedAndHealed_14_v
theorem test_meets_DevicesAreNumberedAndHealed_14_h0 : (fun (s : State) (h : Heal) (v : State) (o : Offer) (e : Fin 4) (w : State) => s.link.heal = some h) test_meets_DevicesAreNumberedAndHealed_14_s test_meets_DevicesAreNumberedAndHealed_14_h test_meets_DevicesAreNumberedAndHealed_14_v test_meets_DevicesAreNumberedAndHealed_14_o test_meets_DevicesAreNumberedAndHealed_14_e test_meets_DevicesAreNumberedAndHealed_14_w := by
  beta_reduce
  decide
theorem test_meets_DevicesAreNumberedAndHealed_14_h1 : (fun (s : State) (h : Heal) (v : State) (o : Offer) (e : Fin 4) (w : State) => v = { waitUp (h.since + s.link.cfg.healOfferUs * usTicks) s with link := { (waitUp (h.since + s.link.cfg.healOfferUs * usTicks) s).link with heal := none } }) test_meets_DevicesAreNumberedAndHealed_14_s test_meets_DevicesAreNumberedAndHealed_14_h test_meets_DevicesAreNumberedAndHealed_14_v test_meets_DevicesAreNumberedAndHealed_14_o test_meets_DevicesAreNumberedAndHealed_14_e test_meets_DevicesAreNumberedAndHealed_14_w := by
  beta_reduce
  exact rfl
theorem test_meets_DevicesAreNumberedAndHealed_14_h2 : (fun (s : State) (h : Heal) (v : State) (o : Offer) (e : Fin 4) (w : State) => (sortBy (fun o => o.hops * 65536 + o.did) h.offers).head? = some o) test_meets_DevicesAreNumberedAndHealed_14_s test_meets_DevicesAreNumberedAndHealed_14_h test_meets_DevicesAreNumberedAndHealed_14_v test_meets_DevicesAreNumberedAndHealed_14_o test_meets_DevicesAreNumberedAndHealed_14_e test_meets_DevicesAreNumberedAndHealed_14_w := by
  beta_reduce
  decide
theorem test_meets_DevicesAreNumberedAndHealed_14_h3 : (fun (s : State) (h : Heal) (v : State) (o : Offer) (e : Fin 4) (w : State) => o.did ≠ v.link.did) test_meets_DevicesAreNumberedAndHealed_14_s test_meets_DevicesAreNumberedAndHealed_14_h test_meets_DevicesAreNumberedAndHealed_14_v test_meets_DevicesAreNumberedAndHealed_14_o test_meets_DevicesAreNumberedAndHealed_14_e test_meets_DevicesAreNumberedAndHealed_14_w := by
  beta_reduce
  decide
theorem test_meets_DevicesAreNumberedAndHealed_14_h4 : (fun (s : State) (h : Heal) (v : State) (o : Offer) (e : Fin 4) (w : State) => routePort v.link o.did = some e) test_meets_DevicesAreNumberedAndHealed_14_s test_meets_DevicesAreNumberedAndHealed_14_h test_meets_DevicesAreNumberedAndHealed_14_v test_meets_DevicesAreNumberedAndHealed_14_o test_meets_DevicesAreNumberedAndHealed_14_e test_meets_DevicesAreNumberedAndHealed_14_w := by
  beta_reduce
  decide
theorem test_meets_DevicesAreNumberedAndHealed_14_h5 : (fun (s : State) (h : Heal) (v : State) (o : Offer) (e : Fin 4) (w : State) => w = send (healMsg v o.did rcActivate o.port 0 0 h.ranges) v) test_meets_DevicesAreNumberedAndHealed_14_s test_meets_DevicesAreNumberedAndHealed_14_h test_meets_DevicesAreNumberedAndHealed_14_v test_meets_DevicesAreNumberedAndHealed_14_o test_meets_DevicesAreNumberedAndHealed_14_e test_meets_DevicesAreNumberedAndHealed_14_w := by
  beta_reduce
  exact rfl
theorem test_meets_DevicesAreNumberedAndHealed_14 : ∃ (s : State) (h : Heal) (v : State) (o : Offer) (e : Fin 4) (w : State),
      s.link.heal = some h ∧
      v = { waitUp (h.since + s.link.cfg.healOfferUs * usTicks) s with link := { (waitUp (h.since + s.link.cfg.healOfferUs * usTicks) s).link with heal := none } } ∧
      (sortBy (fun o => o.hops * 65536 + o.did) h.offers).head? = some o ∧
      o.did ≠ v.link.did ∧
      routePort v.link o.did = some e ∧
      w = send (healMsg v o.did rcActivate o.port 0 0 h.ranges) v :=
  ⟨test_meets_DevicesAreNumberedAndHealed_14_s, test_meets_DevicesAreNumberedAndHealed_14_h, test_meets_DevicesAreNumberedAndHealed_14_v, test_meets_DevicesAreNumberedAndHealed_14_o, test_meets_DevicesAreNumberedAndHealed_14_e, test_meets_DevicesAreNumberedAndHealed_14_w, test_meets_DevicesAreNumberedAndHealed_14_h0, test_meets_DevicesAreNumberedAndHealed_14_h1, test_meets_DevicesAreNumberedAndHealed_14_h2, test_meets_DevicesAreNumberedAndHealed_14_h3, test_meets_DevicesAreNumberedAndHealed_14_h4, test_meets_DevicesAreNumberedAndHealed_14_h5⟩

theorem test_meets_DevicesAreNumberedAndHealed_15 : ∃ (s : State) (n : Fin 4) (p : Packet) (u : State),
      Arrives s u n p ∧
      isHeal p rcActivate = true ∧
      p.neighbour = true ∧
      u.link.ports[n].state = .standby :=
  ⟨({ linkState with link := { linkState.link with ports := Vector.replicate 4 { Port.reset with state := .standby } } } : State), 0, { pk 4 6 2 [] with neighbour := true }, wakeLull ({ linkState with link := { linkState.link with ports := Vector.replicate 4 { Port.reset with state := .standby } } } : State), ⟨rfl, by decide, by decide⟩, by decide, by decide, by decide⟩

theorem test_meets_DevicesAreNumberedAndHealed_16 : ∃ (s : State) (n : Fin 4) (p : Packet) (u : State),
      Arrives s u n p ∧
      isHeal p rcActivate = true ∧
      p.neighbour = false :=
  ⟨(linkState : State), 0, pk 4 6 2 [], wakeLull (linkState : State), ⟨rfl, by decide, by decide⟩, by decide, by decide⟩

theorem test_meets_DevicesAreNumberedAndHealed_17 : ∃ (s : State) (n : Fin 4) (p : Packet) (u : State),
      Arrives s u n p ∧
      isHeal p rcAdd = true :=
  ⟨(linkState : State), 0, pk 4 6 3 [], wakeLull (linkState : State), ⟨rfl, by decide, by decide⟩, by decide⟩

theorem test_meets_DevicesAreNumberedAndHealed_18 : ∃ (s : State) (n : Fin 4) (p : Packet) (u : State) (v : State),
      Arrives s u n p ∧
      isHeal p rcDel = true ∧
      v = setPort n (Port.without (healRanges p) (healNumber p)) u :=
  ⟨(linkState : State), 0, pk 4 6 4 [], wakeLull (linkState : State), setPort 0 (Port.without (healRanges (pk 4 6 4 [])) (healNumber (pk 4 6 4 []))) (wakeLull (linkState : State) : State), ⟨rfl, by decide, by decide⟩, by decide, rfl⟩

theorem test_meets_GroupMessagesAreTaken_1 : ∃ (s : State) (n : Fin 4) (p : Packet) (u : State) (m : Fin 16) (v : State),
      Arrives s u n p ∧
      isPacket p ptMsg 5 = true ∧
      bit p.aux.toNat 20 = false ∧
      groupAt u (p.aux.toNat % 65536) (fun d => d.masterDid = u.link.did) = some m ∧
      v = raise 0x701 [.h (p.aux.toNat % 65536), .h p.srcDid] (setAt m (fun a => { a with members := a.members.filter (·.did ≠ p.srcDid) ++ [⟨p.srcDid, p.addr.toNat, false, p.hops + portHops u.link.ports[n]⟩] }) u) :=
  ⟨(grpState 5 id : State), 0, pk 4 5 0 [], wakeLull (grpState 5 id : State), 2, raise 0x701 [.h 0, .h 9] (registerMember 2 9 0 (0 + portHops (wakeLull (grpState 5 id : State) : State).link.ports[0]) (wakeLull (grpState 5 id : State) : State)), ⟨rfl, by decide, by decide⟩, by decide, by decide, by decide, rfl⟩

def test_meets_GroupMessagesAreTaken_2_s : State := regState
def test_meets_GroupMessagesAreTaken_2_n : Fin 4 := 0
def test_meets_GroupMessagesAreTaken_2_p : Packet := { pk 4 5 0x100000 [] with tag := 1 }
def test_meets_GroupMessagesAreTaken_2_u : State := wakeLull test_meets_GroupMessagesAreTaken_2_s
def test_meets_GroupMessagesAreTaken_2_m : Fin 16 := 2
def test_meets_GroupMessagesAreTaken_2_c : Cmd := cmdOf 0x0402 []
def test_meets_GroupMessagesAreTaken_2_g : AcqDef := acqDefOf acqRaw
def test_meets_GroupMessagesAreTaken_2_v : State := putDefinition 2 (acqDefOf acqRaw) (setAt 2 (fun a => { a with registerCmd := none }) test_meets_GroupMessagesAreTaken_2_u)
theorem test_meets_GroupMessagesAreTaken_2_h0 : (fun (s : State) (n : Fin 4) (p : Packet) (u : State) (m : Fin 16) (c : Cmd) (g : AcqDef) (v : State) => Arrives s u n p) test_meets_GroupMessagesAreTaken_2_s test_meets_GroupMessagesAreTaken_2_n test_meets_GroupMessagesAreTaken_2_p test_meets_GroupMessagesAreTaken_2_u test_meets_GroupMessagesAreTaken_2_m test_meets_GroupMessagesAreTaken_2_c test_meets_GroupMessagesAreTaken_2_g test_meets_GroupMessagesAreTaken_2_v := by
  beta_reduce
  exact ⟨rfl, by decide, by decide⟩
theorem test_meets_GroupMessagesAreTaken_2_h1 : (fun (s : State) (n : Fin 4) (p : Packet) (u : State) (m : Fin 16) (c : Cmd) (g : AcqDef) (v : State) => isPacket p ptMsg 5 = true) test_meets_GroupMessagesAreTaken_2_s test_meets_GroupMessagesAreTaken_2_n test_meets_GroupMessagesAreTaken_2_p test_meets_GroupMessagesAreTaken_2_u test_meets_GroupMessagesAreTaken_2_m test_meets_GroupMessagesAreTaken_2_c test_meets_GroupMessagesAreTaken_2_g test_meets_GroupMessagesAreTaken_2_v := by
  beta_reduce
  decide
theorem test_meets_GroupMessagesAreTaken_2_h2 : (fun (s : State) (n : Fin 4) (p : Packet) (u : State) (m : Fin 16) (c : Cmd) (g : AcqDef) (v : State) => bit p.aux.toNat 20 = true) test_meets_GroupMessagesAreTaken_2_s test_meets_GroupMessagesAreTaken_2_n test_meets_GroupMessagesAreTaken_2_p test_meets_GroupMessagesAreTaken_2_u test_meets_GroupMessagesAreTaken_2_m test_meets_GroupMessagesAreTaken_2_c test_meets_GroupMessagesAreTaken_2_g test_meets_GroupMessagesAreTaken_2_v := by
  beta_reduce
  decide
theorem test_meets_GroupMessagesAreTaken_2_h3 : (fun (s : State) (n : Fin 4) (p : Packet) (u : State) (m : Fin 16) (c : Cmd) (g : AcqDef) (v : State) => ((List.finRange 16).find? fun m => u.squall.ats[m].registerCmd = some p.tag.toNat) = some m) test_meets_GroupMessagesAreTaken_2_s test_meets_GroupMessagesAreTaken_2_n test_meets_GroupMessagesAreTaken_2_p test_meets_GroupMessagesAreTaken_2_u test_meets_GroupMessagesAreTaken_2_m test_meets_GroupMessagesAreTaken_2_c test_meets_GroupMessagesAreTaken_2_g test_meets_GroupMessagesAreTaken_2_v := by
  beta_reduce
  decide
theorem test_meets_GroupMessagesAreTaken_2_h4 : (fun (s : State) (n : Fin 4) (p : Packet) (u : State) (m : Fin 16) (c : Cmd) (g : AcqDef) (v : State) => findCmd u p.tag.toNat = some c) test_meets_GroupMessagesAreTaken_2_s test_meets_GroupMessagesAreTaken_2_n test_meets_GroupMessagesAreTaken_2_p test_meets_GroupMessagesAreTaken_2_u test_meets_GroupMessagesAreTaken_2_m test_meets_GroupMessagesAreTaken_2_c test_meets_GroupMessagesAreTaken_2_g test_meets_GroupMessagesAreTaken_2_v := by
  beta_reduce
  decide
theorem test_meets_GroupMessagesAreTaken_2_h5 : (fun (s : State) (n : Fin 4) (p : Packet) (u : State) (m : Fin 16) (c : Cmd) (g : AcqDef) (v : State) => u.squall.ats[m].registering = some g) test_meets_GroupMessagesAreTaken_2_s test_meets_GroupMessagesAreTaken_2_n test_meets_GroupMessagesAreTaken_2_p test_meets_GroupMessagesAreTaken_2_u test_meets_GroupMessagesAreTaken_2_m test_meets_GroupMessagesAreTaken_2_c test_meets_GroupMessagesAreTaken_2_g test_meets_GroupMessagesAreTaken_2_v := by
  beta_reduce
  exact rfl
theorem test_meets_GroupMessagesAreTaken_2_h6 : (fun (s : State) (n : Fin 4) (p : Packet) (u : State) (m : Fin 16) (c : Cmd) (g : AcqDef) (v : State) => v = setAt m (fun a => { a with registerCmd := none, def_ := some g, registering := none, heldFrom := none, rearmTick := 0, round := [], decided := none, members := [] }) u) test_meets_GroupMessagesAreTaken_2_s test_meets_GroupMessagesAreTaken_2_n test_meets_GroupMessagesAreTaken_2_p test_meets_GroupMessagesAreTaken_2_u test_meets_GroupMessagesAreTaken_2_m test_meets_GroupMessagesAreTaken_2_c test_meets_GroupMessagesAreTaken_2_g test_meets_GroupMessagesAreTaken_2_v := by
  beta_reduce
  exact rfl
theorem test_meets_GroupMessagesAreTaken_2 : ∃ (s : State) (n : Fin 4) (p : Packet) (u : State) (m : Fin 16) (c : Cmd) (g : AcqDef) (v : State),
      Arrives s u n p ∧
      isPacket p ptMsg 5 = true ∧
      bit p.aux.toNat 20 = true ∧
      ((List.finRange 16).find? fun m => u.squall.ats[m].registerCmd = some p.tag.toNat) = some m ∧
      findCmd u p.tag.toNat = some c ∧
      u.squall.ats[m].registering = some g ∧
      v = setAt m (fun a => { a with registerCmd := none, def_ := some g, registering := none, heldFrom := none, rearmTick := 0, round := [], decided := none, members := [] }) u :=
  ⟨test_meets_GroupMessagesAreTaken_2_s, test_meets_GroupMessagesAreTaken_2_n, test_meets_GroupMessagesAreTaken_2_p, test_meets_GroupMessagesAreTaken_2_u, test_meets_GroupMessagesAreTaken_2_m, test_meets_GroupMessagesAreTaken_2_c, test_meets_GroupMessagesAreTaken_2_g, test_meets_GroupMessagesAreTaken_2_v, test_meets_GroupMessagesAreTaken_2_h0, test_meets_GroupMessagesAreTaken_2_h1, test_meets_GroupMessagesAreTaken_2_h2, test_meets_GroupMessagesAreTaken_2_h3, test_meets_GroupMessagesAreTaken_2_h4, test_meets_GroupMessagesAreTaken_2_h5, test_meets_GroupMessagesAreTaken_2_h6⟩

theorem test_meets_GroupMessagesAreTaken_3 : ∃ (s : State) (n : Fin 4) (p : Packet) (u : State),
      Arrives s u n p ∧
      isPacket p ptTrig 1 = true :=
  ⟨(linkState : State), 0, pk 5 1 0 [], wakeLull (linkState : State), ⟨rfl, by decide, by decide⟩, by decide⟩

theorem test_meets_GroupMessagesAreTaken_4 : ∃ (s : State) (n : Fin 4) (p : Packet) (u : State) (m : Fin 16),
      Arrives s u n p ∧
      isPacket p ptTrig 2 = true ∧
      groupAt u (trigGroup p) (fun _ => true) = some m ∧
      u.squall.ats[m].armSeq = p.tag.toNat ∧
      u.squall.ats[m].armed = true ∧
      u.squall.ats[m].decided = none :=
  ⟨(grpState 9 (fun a => { a with armed := true }) : State), 0, pk 5 2 0 [], wakeLull (grpState 9 (fun a => { a with armed := true }) : State), 2, ⟨rfl, by decide, by decide⟩, by decide, by decide, by decide, by decide, by decide⟩

theorem test_meets_GroupMessagesAreTaken_5 : ∃ (s : State) (n : Fin 4) (p : Packet) (u : State) (m : Fin 16),
      Arrives s u n p ∧
      isPacket p ptTrig 2 = true ∧
      groupAt u (trigGroup p) (fun _ => true) = some m ∧
      (u.squall.ats[m].armSeq ≠ p.tag.toNat ∨ (u.squall.ats[m].armed = false ∧ u.squall.ats[m].decided = none)) :=
  ⟨(grpState 9 id : State), 0, pk 5 2 0 [], wakeLull (grpState 9 id : State), 2, ⟨rfl, by decide, by decide⟩, by decide, by decide, by decide⟩

theorem test_meets_GroupMessagesAreTaken_6 : ∃ (s : State) (n : Fin 4) (p : Packet) (u : State) (m : Fin 16) (w : GroupFire),
      Arrives s u n p ∧
      isPacket p ptTrig 2 = true ∧
      groupAt u (trigGroup p) (fun _ => true) = some m ∧
      u.squall.ats[m].armSeq = p.tag.toNat ∧
      u.squall.ats[m].decided = some w ∧
      (u.squall.ats[m].armed = false ∨ p.addr.toNat < u.squall.ats[m].rearmTick) ∧
      (p.addr.toNat < w.tick ∨ (p.addr.toNat = w.tick ∧ p.srcDid < w.did)) :=
  ⟨(grpState 9 (fun a => { a with decided := some ⟨6, 0, 5, false⟩ }) : State), 0, pk 5 2 0 [], wakeLull (grpState 9 (fun a => { a with decided := some ⟨6, 0, 5, false⟩ }) : State), 2, ⟨6, 0, 5, false⟩, ⟨rfl, by decide, by decide⟩, by decide, by decide, by decide, by decide, by decide, by decide⟩

theorem test_meets_GroupMessagesAreTaken_7 : ∃ (s : State) (n : Fin 4) (p : Packet) (u : State) (m : Fin 16) (g : AcqDef) (x : MatrixCfg) (v : State),
      Arrives s u n p ∧
      isPacket p ptTrig 3 = true ∧
      groupAt u (trigGroup p) (fun d => d.masterDid = p.srcDid) = some m ∧
      u.squall.ats[m].armed = false ∧
      recordFits u m = true ∧
      u.squall.ats[m].def_ = some g ∧
      u.squall.ats[m].matrix = some x ∧
      x.term1.any (· ≠ 0) = true ∧
      sourcesReady u g = true ∧
      u.clk.tick < p.addr.toNat ∧
      v = setAt m (fun a => { a with armSeq := p.tag.toNat, settle := u32At p.payload 0, hops := u16At p.payload 4, members := (List.range (u16At p.payload 6)).map fun i => (⟨u16At p.payload (8 + 2 * i), 0, true, 0⟩ : Member) }) u :=
  ⟨(grpState 9 id : State), 0, { pk 5 3 0 [9, 0, 0, 0, 1, 0, 1, 0, 9, 0] with addr := 500 }, wakeLull (grpState 9 id : State), 2, grpDef 9, ⟨false, false, 0, 0, [1, 0, 0, 0], [0, 0, 0, 0], 0, 0, 0⟩, setAt 2 (fun a => { a with armSeq := 0, settle := u32At (({ pk 5 3 0 [9, 0, 0, 0, 1, 0, 1, 0, 9, 0] with addr := 500 } : Packet) : Packet).payload 0, hops := u16At (({ pk 5 3 0 [9, 0, 0, 0, 1, 0, 1, 0, 9, 0] with addr := 500 } : Packet) : Packet).payload 4, members := (List.range (u16At (({ pk 5 3 0 [9, 0, 0, 0, 1, 0, 1, 0, 9, 0] with addr := 500 } : Packet) : Packet).payload 6)).map fun i => (⟨u16At (({ pk 5 3 0 [9, 0, 0, 0, 1, 0, 1, 0, 9, 0] with addr := 500 } : Packet) : Packet).payload (8 + 2 * i), 0, true, 0⟩ : Member) }) (wakeLull (grpState 9 id : State) : State), ⟨rfl, by decide, by decide⟩, by decide, by decide, by decide, by decide, rfl, rfl, by decide, by decide, by decide, rfl⟩

theorem test_meets_GroupMessagesAreTaken_8 : ∃ (s : State) (n : Fin 4) (p : Packet) (u : State) (m : Fin 16) (v : State),
      Arrives s u n p ∧
      isPacket p ptTrig 4 = true ∧
      groupAt u (trigGroup p) (fun d => d.masterDid = p.srcDid) = some m ∧
      u.squall.ats[m].armSeq = p.tag.toNat ∧
      u.squall.ats[m].armed = true ∧
      v = beginDisarm m p.addr.toNat (bit (u8At p.payload 0) 0) { u with squall := { u.squall with pendingArms := u.squall.pendingArms.filter fun x => !bit x.mask m.val } } :=
  ⟨(grpState 9 (fun a => { a with armed := true }) : State), 0, pk 5 4 0 [0], wakeLull (grpState 9 (fun a => { a with armed := true }) : State), 2, beginDisarm 2 0 false { (wakeLull (grpState 9 (fun a => { a with armed := true }) : State) : State) with squall := { (wakeLull (grpState 9 (fun a => { a with armed := true }) : State) : State).squall with pendingArms := (wakeLull (grpState 9 (fun a => { a with armed := true }) : State) : State).squall.pendingArms.filter fun x => !bit x.mask 2 } }, ⟨rfl, by decide, by decide⟩, by decide, by decide, by decide, by decide, rfl⟩

theorem test_meets_GroupMessagesAreTaken_9 : ∃ (s : State) (n : Fin 4) (p : Packet) (u : State) (m : Fin 16),
      Arrives s u n p ∧
      isPacket p ptTrig 5 = true ∧
      groupAt u (trigGroup p) (fun d => d.masterDid = u.link.did) = some m ∧
      u.squall.ats[m].armSeq = p.tag.toNat :=
  ⟨(grpState 5 (fun a => { a with members := [⟨9, 0, false, 1⟩] }) : State), 0, pk 5 5 0 [], wakeLull (grpState 5 (fun a => { a with members := [⟨9, 0, false, 1⟩] }) : State), 2, ⟨rfl, by decide, by decide⟩, by decide, by decide, by decide⟩

def test_meets_TimeCrossesTheLinks_1_s : State := linkState
def test_meets_TimeCrossesTheLinks_1_n : Fin 4 := 0
def test_meets_TimeCrossesTheLinks_1_u : State := waitUp (test_meets_TimeCrossesTheLinks_1_s.link.ports[0].syncSent + 1280000) test_meets_TimeCrossesTheLinks_1_s
def test_meets_TimeCrossesTheLinks_1_v : State := (takeFree test_meets_TimeCrossesTheLinks_1_u).2
def test_meets_TimeCrossesTheLinks_1_k : Nat := (takeFree test_meets_TimeCrossesTheLinks_1_u).1
theorem test_meets_TimeCrossesTheLinks_1_h0 : (fun (s : State) (n : Fin 4) (u : State) (v : State) (k : Nat) => s.link.ports[n].isUp = true) test_meets_TimeCrossesTheLinks_1_s test_meets_TimeCrossesTheLinks_1_n test_meets_TimeCrossesTheLinks_1_u test_meets_TimeCrossesTheLinks_1_v test_meets_TimeCrossesTheLinks_1_k := by
  beta_reduce
  decide
theorem test_meets_TimeCrossesTheLinks_1_h1 : (fun (s : State) (n : Fin 4) (u : State) (v : State) (k : Nat) => s.link.upstream ≠ some n.val) test_meets_TimeCrossesTheLinks_1_s test_meets_TimeCrossesTheLinks_1_n test_meets_TimeCrossesTheLinks_1_u test_meets_TimeCrossesTheLinks_1_v test_meets_TimeCrossesTheLinks_1_k := by
  beta_reduce
  decide
theorem test_meets_TimeCrossesTheLinks_1_h2 : (fun (s : State) (n : Fin 4) (u : State) (v : State) (k : Nat) => s.link.assigned = true) test_meets_TimeCrossesTheLinks_1_s test_meets_TimeCrossesTheLinks_1_n test_meets_TimeCrossesTheLinks_1_u test_meets_TimeCrossesTheLinks_1_v test_meets_TimeCrossesTheLinks_1_k := by
  beta_reduce
  decide
theorem test_meets_TimeCrossesTheLinks_1_h3 : (fun (s : State) (n : Fin 4) (u : State) (v : State) (k : Nat) => u = waitUp (s.link.ports[n].syncSent + 1280000) s) test_meets_TimeCrossesTheLinks_1_s test_meets_TimeCrossesTheLinks_1_n test_meets_TimeCrossesTheLinks_1_u test_meets_TimeCrossesTheLinks_1_v test_meets_TimeCrossesTheLinks_1_k := by
  beta_reduce
  exact rfl
theorem test_meets_TimeCrossesTheLinks_1_h4 : (fun (s : State) (n : Fin 4) (u : State) (v : State) (k : Nat) => k = (takeFree u).1) test_meets_TimeCrossesTheLinks_1_s test_meets_TimeCrossesTheLinks_1_n test_meets_TimeCrossesTheLinks_1_u test_meets_TimeCrossesTheLinks_1_v test_meets_TimeCrossesTheLinks_1_k := by
  beta_reduce
  exact rfl
theorem test_meets_TimeCrossesTheLinks_1_h5 : (fun (s : State) (n : Fin 4) (u : State) (v : State) (k : Nat) => v = (takeFree u).2) test_meets_TimeCrossesTheLinks_1_s test_meets_TimeCrossesTheLinks_1_n test_meets_TimeCrossesTheLinks_1_u test_meets_TimeCrossesTheLinks_1_v test_meets_TimeCrossesTheLinks_1_k := by
  beta_reduce
  exact rfl
theorem test_meets_TimeCrossesTheLinks_1 : ∃ (s : State) (n : Fin 4) (u : State) (v : State) (k : Nat),
      s.link.ports[n].isUp = true ∧
      s.link.upstream ≠ some n.val ∧
      s.link.assigned = true ∧
      u = waitUp (s.link.ports[n].syncSent + 1280000) s ∧
      k = (takeFree u).1 ∧
      v = (takeFree u).2 :=
  ⟨test_meets_TimeCrossesTheLinks_1_s, test_meets_TimeCrossesTheLinks_1_n, test_meets_TimeCrossesTheLinks_1_u, test_meets_TimeCrossesTheLinks_1_v, test_meets_TimeCrossesTheLinks_1_k, test_meets_TimeCrossesTheLinks_1_h0, test_meets_TimeCrossesTheLinks_1_h1, test_meets_TimeCrossesTheLinks_1_h2, test_meets_TimeCrossesTheLinks_1_h3, test_meets_TimeCrossesTheLinks_1_h4, test_meets_TimeCrossesTheLinks_1_h5⟩

theorem test_meets_TimeCrossesTheLinks_2 : ∃ (s : State) (n : Fin 4) (p : Packet) (x : U16),
      s.link.ports[n].isUp = true ∧
      p.neighbour = true ∧
      p.type = ptTime ∧
      p.subtype = 1 ∧
      s.link.upstream ≠ some n.val :=
  ⟨(linkState : State), 0, { pk 6 1 0 (zeros 30) with neighbour := true }, 7, by decide, by decide, by decide, by decide, by decide⟩

theorem test_meets_TimeCrossesTheLinks_3 : ∃ (s : State) (n : Fin 4) (p : Packet) (x : U16) (off : Int) (v : State),
      s.link.ports[n].isUp = true ∧
      p.neighbour = true ∧
      p.type = ptTime ∧
      p.subtype = 1 ∧
      s.link.upstream = some n.val ∧
      off = (fineNow s x.toNat : Int) - ((p.addr.toNat * 65536 + p.aux.toNat % 65536 : Nat) + transmitDelay s n) ∧
      v = setPort n (fun q => { q with peerDid := p.srcDid, offset := off }) s :=
  ⟨({ linkState with link := { linkState.link with upstream := some 0 } } : State), 0, { pk 6 1 0 (zeros 30) with neighbour := true }, 7, (fineNow ({ linkState with link := { linkState.link with upstream := some 0 } } : State) 7 : Int) - transmitDelay ({ linkState with link := { linkState.link with upstream := some 0 } } : State) 0, setPort 0 (fun q => { q with peerDid := 9, offset := (fineNow ({ linkState with link := { linkState.link with upstream := some 0 } } : State) 7 : Int) - transmitDelay ({ linkState with link := { linkState.link with upstream := some 0 } } : State) 0 }) ({ linkState with link := { linkState.link with upstream := some 0 } } : State), by decide, by decide, by decide, by decide, by decide, by decide, rfl⟩

def test_meets_TimeCrossesTheLinks_4_s : State := linkState
def test_meets_TimeCrossesTheLinks_4_n : Fin 4 := 0
def test_meets_TimeCrossesTheLinks_4_u : State := waitUp (test_meets_TimeCrossesTheLinks_4_s.link.ports[0].delayMeasured + 1280000000) test_meets_TimeCrossesTheLinks_4_s
def test_meets_TimeCrossesTheLinks_4_v : State := (takeFree test_meets_TimeCrossesTheLinks_4_u).2
def test_meets_TimeCrossesTheLinks_4_k : Nat := (takeFree test_meets_TimeCrossesTheLinks_4_u).1
theorem test_meets_TimeCrossesTheLinks_4_h0 : (fun (s : State) (n : Fin 4) (u : State) (v : State) (k : Nat) => s.link.ports[n].isUp = true) test_meets_TimeCrossesTheLinks_4_s test_meets_TimeCrossesTheLinks_4_n test_meets_TimeCrossesTheLinks_4_u test_meets_TimeCrossesTheLinks_4_v test_meets_TimeCrossesTheLinks_4_k := by
  beta_reduce
  decide
theorem test_meets_TimeCrossesTheLinks_4_h1 : (fun (s : State) (n : Fin 4) (u : State) (v : State) (k : Nat) => u = waitUp (s.link.ports[n].delayMeasured + 1280000000) s) test_meets_TimeCrossesTheLinks_4_s test_meets_TimeCrossesTheLinks_4_n test_meets_TimeCrossesTheLinks_4_u test_meets_TimeCrossesTheLinks_4_v test_meets_TimeCrossesTheLinks_4_k := by
  beta_reduce
  exact rfl
theorem test_meets_TimeCrossesTheLinks_4_h2 : (fun (s : State) (n : Fin 4) (u : State) (v : State) (k : Nat) => k = (takeFree u).1) test_meets_TimeCrossesTheLinks_4_s test_meets_TimeCrossesTheLinks_4_n test_meets_TimeCrossesTheLinks_4_u test_meets_TimeCrossesTheLinks_4_v test_meets_TimeCrossesTheLinks_4_k := by
  beta_reduce
  exact rfl
theorem test_meets_TimeCrossesTheLinks_4_h3 : (fun (s : State) (n : Fin 4) (u : State) (v : State) (k : Nat) => v = (takeFree u).2) test_meets_TimeCrossesTheLinks_4_s test_meets_TimeCrossesTheLinks_4_n test_meets_TimeCrossesTheLinks_4_u test_meets_TimeCrossesTheLinks_4_v test_meets_TimeCrossesTheLinks_4_k := by
  beta_reduce
  exact rfl
theorem test_meets_TimeCrossesTheLinks_4 : ∃ (s : State) (n : Fin 4) (u : State) (v : State) (k : Nat),
      s.link.ports[n].isUp = true ∧
      u = waitUp (s.link.ports[n].delayMeasured + 1280000000) s ∧
      k = (takeFree u).1 ∧
      v = (takeFree u).2 :=
  ⟨test_meets_TimeCrossesTheLinks_4_s, test_meets_TimeCrossesTheLinks_4_n, test_meets_TimeCrossesTheLinks_4_u, test_meets_TimeCrossesTheLinks_4_v, test_meets_TimeCrossesTheLinks_4_k, test_meets_TimeCrossesTheLinks_4_h0, test_meets_TimeCrossesTheLinks_4_h1, test_meets_TimeCrossesTheLinks_4_h2, test_meets_TimeCrossesTheLinks_4_h3⟩

theorem test_meets_TimeCrossesTheLinks_5 : ∃ (s : State) (n : Fin 4) (p : Packet) (x : U16) (v : State) (k : Nat),
      s.link.ports[n].isUp = true ∧
      p.neighbour = true ∧
      p.type = ptTime ∧
      p.subtype = 2 ∧
      k = (takeFree s).1 ∧
      v = (takeFree s).2 :=
  ⟨(linkState : State), 0, { pk 6 2 0 (zeros 30) with neighbour := true }, 7, (takeFree (linkState : State)).2, (takeFree (linkState : State)).1, by decide, by decide, by decide, by decide, rfl, rfl⟩

theorem test_meets_TimeCrossesTheLinks_6 : ∃ (s : State) (n : Fin 4) (p : Packet) (x : U16) (t1 : Nat) (d : Int),
      s.link.ports[n].isUp = true ∧
      p.neighbour = true ∧
      p.type = ptTime ∧
      p.subtype = 3 ∧
      s.link.ports[n].delayReqSent = some t1 ∧
      d = (((fineNow s x.toNat : Int) - t1) - ((unle ((p.payload.drop 20).take 10) : Int) - unle ((p.payload.drop 10).take 10))) / 2 :=
  ⟨(linked (fun p => { p with delayReqSent := some 3 }) State.reset : State), 0, { pk 6 3 0 (zeros 30) with neighbour := true }, 7, 3, 2, by decide, by decide, by decide, by decide, by decide, by decide⟩

theorem test_meets_TimeCrossesTheLinks_7 : ∃ (s : State) (n : Fin 4) (p : Packet) (x : U16),
      s.link.ports[n].isUp = true ∧
      p.neighbour = true ∧
      p.type = ptTime ∧
      p.subtype = 3 ∧
      s.link.ports[n].delayReqSent = none :=
  ⟨(linkState : State), 0, { pk 6 3 0 (zeros 30) with neighbour := true }, 7, by decide, by decide, by decide, by decide, by decide⟩

theorem test_meets_EventMonitorAndConfigurationCommandsAct_1 : ∃ (s : State) (id : Nat) (c : Cmd),
      Runs s id 0x0800 anyCmd c ∧
      (Passes [entryCheck c [(0x08, 5), (0x0E, 2)] [], deviceCheck s c, params (evRange c ++ [(0x0C, decide (c.p8 0x0C ≤ 3 ∨ c.p8 0x0C = 0xFF)), (0x0E, decide (c.p16 0x0E < 2048 ∨ c.p16 0x0E = 0xFFFF))])]) :=
  ⟨(cmdState 0x0800 [(0x08, le 2 7), (0x0A, le 2 9)] id : State), 1, cmdOf 0x0800 [(0x08, le 2 7), (0x0A, le 2 9)], ⟨rfl, rfl, rfl, rfl, rfl⟩, by decide⟩

theorem test_meets_EventMonitorAndConfigurationCommandsAct_2 : ∃ (s : State) (id : Nat) (c : Cmd),
      Runs s id 0x0801 (selByte 0x0C 0) c ∧
      Passes [entryCheck c [(0x08, 5)] [], deviceCheck s c, params (evRange c)] :=
  ⟨(cmdState 0x0801 [(0x08, le 2 7), (0x0A, le 2 9)] id : State), 1, cmdOf 0x0801 [(0x08, le 2 7), (0x0A, le 2 9)], ⟨rfl, rfl, rfl, rfl, rfl⟩, by decide⟩

theorem test_meets_EventMonitorAndConfigurationCommandsAct_3 : ∃ (s : State) (id : Nat) (c : Cmd),
      Runs s id 0x0801 (selByte 0x0C 1) c ∧
      Passes [entryCheck c [(0x08, 5)] [], deviceCheck s c, params (evRange c)] :=
  ⟨(cmdState 0x0801 [(0x08, le 2 7), (0x0A, le 2 9), (0x0C, [1])] id : State), 1, cmdOf 0x0801 [(0x08, le 2 7), (0x0A, le 2 9), (0x0C, [1])], ⟨rfl, rfl, rfl, rfl, rfl⟩, by decide⟩

theorem test_meets_EventMonitorAndConfigurationCommandsAct_4 : ∃ (s : State) (id : Nat) (c : Cmd),
      Runs s id 0x0801 (selByte 0x0C 2) c ∧
      Passes [params [(0x02, decide (c.flags < 8))], deviceCheck s c, bufCheck c] :=
  ⟨(cmdState 0x0801 [(0x0C, [2]), (0x10, le 8 64)] id : State), 1, cmdOf 0x0801 [(0x0C, [2]), (0x10, le 8 64)], ⟨rfl, rfl, rfl, rfl, rfl⟩, by decide⟩

theorem test_meets_EventMonitorAndConfigurationCommandsAct_5 : ∃ (s : State) (id : Nat) (c : Cmd) (p : PathCodes),
      Runs s id 0x0901 (selByte 0x08 0) c ∧
      Passes [entryCheck c [(0x08, 2)] [(0x09, decide (c.p8 0x09 < 32))], deviceCheck s c, needState (!([(0 : Fin 2), 1].any fun x => slotNames s x (c.p8 0x09) || slotNames s x 0x71))] ∧
      pathVerdict p = 0 :=
  ⟨(cmdState 0x0901 [] id : State), 1, cmdOf 0x0901 [], pathGood, ⟨rfl, rfl, rfl, rfl, rfl⟩, by decide, by decide⟩

theorem test_meets_EventMonitorAndConfigurationCommandsAct_6 : ∃ (s : State) (id : Nat) (c : Cmd) (p : PathCodes) (v : Nat),
      Runs s id 0x0901 (selByte 0x08 0) c ∧
      Passes [entryCheck c [(0x08, 2)] [(0x09, decide (c.p8 0x09 < 32))], deviceCheck s c, needState (!([(0 : Fin 2), 1].any fun x => slotNames s x (c.p8 0x09) || slotNames s x 0x71))] ∧
      pathVerdict p = v ∧
      v ≠ 0 :=
  ⟨(cmdState 0x0901 [] id : State), 1, cmdOf 0x0901 [], { pathGood with p1At768 := 0 }, 1, ⟨rfl, rfl, rfl, rfl, rfl⟩, by decide, by decide, by decide⟩

theorem test_meets_EventMonitorAndConfigurationCommandsAct_7 : ∃ (s : State) (id : Nat) (c : Cmd),
      Runs s id 0x0A00 (selByte 0x08 0) c ∧
      Passes [entryCheck c [(0x08, 1), (0x09, 1)] [], deviceCheck s c, params [(0x09, decide (c.p8 0x09 < 8))]] :=
  ⟨(cmdState 0x0A00 [(0x09, [2])] id : State), 1, cmdOf 0x0A00 [(0x09, [2])], ⟨rfl, rfl, rfl, rfl, rfl⟩, by decide⟩

theorem test_meets_EventMonitorAndConfigurationCommandsAct_8 : ∃ (s : State) (id : Nat) (c : Cmd),
      Runs s id 0x0A00 (selByte 0x08 1) c ∧
      Passes [entryCheck c [(0x08, 1), (0x09, 1)] [], deviceCheck s c, params [(0x09, decide (c.p8 0x09 < 8))]] :=
  ⟨(cmdState 0x0A00 [(0x08, [1])] id : State), 1, cmdOf 0x0A00 [(0x08, [1])], ⟨rfl, rfl, rfl, rfl, rfl⟩, by decide⟩

theorem test_meets_EventMonitorAndConfigurationCommandsAct_9 : ∃ (s : State) (id : Nat) (c : Cmd),
      Runs s id 0x0A00 (selByte 0x08 2) c ∧
      Passes [deviceCheck s c] :=
  ⟨(cmdState 0x0A00 [(0x08, [2])] id : State), 1, cmdOf 0x0A00 [(0x08, [2])], ⟨rfl, rfl, rfl, rfl, rfl⟩, by decide⟩

theorem test_meets_ImagesQuotesAndTokensAreHandled_1 : ∃ (s : State) (id : Nat) (c : Cmd),
      Runs s id 0x0B00 anyCmd c ∧
      Passes [entryCheck c [(0x08, 4)] [], deviceCheck s c, needState s.boot.session.isNone, params [(0x08, decide (c.p32 0x08 ≤ slotSize))]] :=
  ⟨(cmdState 0x0B00 [(0x08, le 4 100)] id : State), 1, cmdOf 0x0B00 [(0x08, le 4 100)], ⟨rfl, rfl, rfl, rfl, rfl⟩, by decide⟩

theorem test_meets_ImagesQuotesAndTokensAreHandled_2 : ∃ (s : State) (id : Nat) (c : Cmd) (u : UpdateSession) (d : Data),
      Runs s id 0x0B01 anyCmd c ∧
      Passes [entryCheck c [(0x08, 16)] [], deviceCheck s c, params [(0x08, decide (c.p32 0x08 = u.received)), (0x0C, decide (1 ≤ c.p32 0x0C ∧ c.p32 0x0C ≤ 2 ^ 20 ∧ u.received + c.p32 0x0C ≤ u.length)), (0x10, aligned64 (c.p64 0x10))]] ∧
      s.boot.session = some u ∧
      u.monitor = false :=
  ⟨(cmdState 0x0B01 [(0x0C, le 4 8)] (fun s => { s with boot := { s.boot with session := some ⟨true, 64, 0, false⟩ } }) : State), 1, cmdOf 0x0B01 [(0x0C, le 4 8)], ⟨true, 64, 0, false⟩, zeros 8, ⟨rfl, rfl, rfl, rfl, rfl⟩, by decide, by decide, by decide⟩

theorem test_meets_ImagesQuotesAndTokensAreHandled_3 : ∃ (s : State) (id : Nat) (c : Cmd) (u : UpdateSession) (d : Data),
      Runs s id 0x0B01 anyCmd c ∧
      Passes [entryCheck c [(0x08, 16)] [], deviceCheck s c, params [(0x08, decide (c.p32 0x08 = u.received)), (0x0C, decide (1 ≤ c.p32 0x0C ∧ c.p32 0x0C ≤ 2 ^ 20 ∧ u.received + c.p32 0x0C ≤ u.length)), (0x10, aligned64 (c.p64 0x10))]] ∧
      s.boot.session = some u ∧
      u.monitor = false :=
  ⟨(cmdState 0x0B01 [(0x0C, le 4 8)] (fun s => { s with boot := { s.boot with session := some ⟨true, 64, 0, false⟩ } }) : State), 1, cmdOf 0x0B01 [(0x0C, le 4 8)], ⟨true, 64, 0, false⟩, zeros 8, ⟨rfl, rfl, rfl, rfl, rfl⟩, by decide, by decide, by decide⟩

theorem test_meets_ImagesQuotesAndTokensAreHandled_4 : ∃ (s : State) (id : Nat) (c : Cmd) (u : UpdateSession) (k : CryptoChecks),
      Runs s id 0x0B02 anyCmd c ∧
      Passes [entryCheck c [] [], deviceCheck s c] ∧
      s.boot.session = some u ∧
      u.monitor = false ∧
      imageFailure s u.slotB (some u.length) k = none :=
  ⟨(cmdState 0x0B02 [] (fun s => imageState true { s with boot := { s.boot with session := some ⟨true, 0x2100, 0x2100, false⟩ } }) : State), 1, cmdOf 0x0B02 [], ⟨true, 0x2100, 0x2100, false⟩, ⟨true, true, true, true, true⟩, ⟨rfl, rfl, rfl, rfl, rfl⟩, by decide, by decide, by decide, image_ok _ true _ (.inr rfl) rfl rfl rfl⟩

theorem test_meets_ImagesQuotesAndTokensAreHandled_5 : ∃ (s : State) (id : Nat) (c : Cmd) (u : UpdateSession) (k : CryptoChecks) (e : Nat),
      Runs s id 0x0B02 anyCmd c ∧
      Passes [entryCheck c [] [], deviceCheck s c] ∧
      s.boot.session = some u ∧
      u.monitor = false ∧
      imageFailure s u.slotB (some u.length) k = some e :=
  ⟨(cmdState 0x0B02 [] (fun s => { s with boot := { s.boot with session := some ⟨true, 64, 0, false⟩ } }) : State), 1, cmdOf 0x0B02 [], ⟨true, 64, 0, false⟩, ⟨true, true, true, true, true⟩, 1, ⟨rfl, rfl, rfl, rfl, rfl⟩, by decide, by decide, by decide, rfl⟩

def test_meets_ImagesQuotesAndTokensAreHandled_6_s : State := cmdState 0x0B10 [(0x08, le 4 4096)] id
def test_meets_ImagesQuotesAndTokensAreHandled_6_id : Nat := 1
def test_meets_ImagesQuotesAndTokensAreHandled_6_c : Cmd := cmdOf 0x0B10 [(0x08, le 4 4096)]
def test_meets_ImagesQuotesAndTokensAreHandled_6_q : Data × State := quote ((test_meets_ImagesQuotesAndTokensAreHandled_6_c.bytes.drop 0x20).take 32) { test_meets_ImagesQuotesAndTokensAreHandled_6_s with boot := { test_meets_ImagesQuotesAndTokensAreHandled_6_s.boot with quoteCount := satN 32 (test_meets_ImagesQuotesAndTokensAreHandled_6_s.boot.quoteCount + 1) } }
theorem test_meets_ImagesQuotesAndTokensAreHandled_6_h1 : (fun (s : State) (id : Nat) (c : Cmd) (q : Data × State) => Passes [entryCheck c [(0x08, 4), (0x10, 8), (0x20, 32)] [], deviceCheck s c, need (s.boot.lifecycle ≠ .retired) stAuth 4, params [(0x08, decide (0x484 + chainLen s ≤ c.p32 0x08)), (0x10, aligned64 (c.p64 0x10))]]) test_meets_ImagesQuotesAndTokensAreHandled_6_s test_meets_ImagesQuotesAndTokensAreHandled_6_id test_meets_ImagesQuotesAndTokensAreHandled_6_c test_meets_ImagesQuotesAndTokensAreHandled_6_q := by
  beta_reduce
  decide
theorem test_meets_ImagesQuotesAndTokensAreHandled_6_h2 : (fun (s : State) (id : Nat) (c : Cmd) (q : Data × State) => q = quote ((c.bytes.drop 0x20).take 32) { s with boot := { s.boot with quoteCount := satN 32 (s.boot.quoteCount + 1) } }) test_meets_ImagesQuotesAndTokensAreHandled_6_s test_meets_ImagesQuotesAndTokensAreHandled_6_id test_meets_ImagesQuotesAndTokensAreHandled_6_c test_meets_ImagesQuotesAndTokensAreHandled_6_q := by
  beta_reduce
  exact rfl
theorem test_meets_ImagesQuotesAndTokensAreHandled_6 : ∃ (s : State) (id : Nat) (c : Cmd) (q : Data × State),
      Runs s id 0x0B10 anyCmd c ∧
      Passes [entryCheck c [(0x08, 4), (0x10, 8), (0x20, 32)] [], deviceCheck s c, need (s.boot.lifecycle ≠ .retired) stAuth 4, params [(0x08, decide (0x484 + chainLen s ≤ c.p32 0x08)), (0x10, aligned64 (c.p64 0x10))]] ∧
      q = quote ((c.bytes.drop 0x20).take 32) { s with boot := { s.boot with quoteCount := satN 32 (s.boot.quoteCount + 1) } } :=
  ⟨test_meets_ImagesQuotesAndTokensAreHandled_6_s, test_meets_ImagesQuotesAndTokensAreHandled_6_id, test_meets_ImagesQuotesAndTokensAreHandled_6_c, test_meets_ImagesQuotesAndTokensAreHandled_6_q, ⟨rfl, rfl, rfl, rfl, rfl⟩, test_meets_ImagesQuotesAndTokensAreHandled_6_h1, test_meets_ImagesQuotesAndTokensAreHandled_6_h2⟩

theorem test_meets_ImagesQuotesAndTokensAreHandled_7 : ∃ (s : State) (id : Nat) (c : Cmd) (t : Data) (ok : Bool),
      Runs s id 0x0B11 anyCmd c ∧
      Passes [entryCheck c [(0x08, 4), (0x10, 8)] [], deviceCheck s c, params [(0x08, decide (1 ≤ c.p32 0x08 ∧ c.p32 0x08 ≤ 4096)), (0x10, aligned64 (c.p64 0x10))]] ∧
      (ok = false ∨ tokenSound s (t.take (c.p32 0x08)) = false) :=
  ⟨(cmdState 0x0B11 [(0x08, le 4 8)] id : State), 1, cmdOf 0x0B11 [(0x08, le 4 8)], zeros 8, true, ⟨rfl, rfl, rfl, rfl, rfl⟩, by decide, by decide⟩

theorem test_meets_ImagesQuotesAndTokensAreHandled_8 : ∃ (s : State) (id : Nat) (c : Cmd) (t : Data) (d : Data),
      Runs s id 0x0B11 anyCmd c ∧
      Passes [entryCheck c [(0x08, 4), (0x10, 8)] [], deviceCheck s c, params [(0x08, decide (1 ≤ c.p32 0x08 ∧ c.p32 0x08 ≤ 4096)), (0x10, aligned64 (c.p64 0x10))]] ∧
      d = t.take (c.p32 0x08) ∧
      tokenSound s d = true ∧
      u16At d 6 = 1 ∧
      u32At d 0x10 = s.boot.fuses.relock ∧
      s.boot.fuses.relock < 16 ∧
      (s.boot.lifecycle = .production ∨ s.boot.lifecycle = .unlocked) :=
  ⟨(cmdState 0x0B11 [(0x08, le 4 (tokenSize))] (fun s => { s with boot := { s.boot with lifecycle := .production } }) : State), 1, cmdOf 0x0B11 [(0x08, le 4 (tokenSize))], putAt tokenRaw 6 [1], putAt tokenRaw 6 [1], ⟨rfl, rfl, rfl, rfl, rfl⟩, by decide, by decide, by decide, by decide, by decide, by decide, by decide⟩

theorem test_meets_ImagesQuotesAndTokensAreHandled_9 : ∃ (s : State) (id : Nat) (c : Cmd) (t : Data) (d : Data),
      Runs s id 0x0B11 anyCmd c ∧
      Passes [entryCheck c [(0x08, 4), (0x10, 8)] [], deviceCheck s c, params [(0x08, decide (1 ≤ c.p32 0x08 ∧ c.p32 0x08 ≤ 4096)), (0x10, aligned64 (c.p64 0x10))]] ∧
      d = t.take (c.p32 0x08) ∧
      tokenSound s d = true ∧
      u16At d 6 = 2 ∧
      u32At d 0x10 = s.boot.fuses.relock ∧
      s.boot.lifecycle = .unlocked :=
  ⟨(cmdState 0x0B11 [(0x08, le 4 (tokenSize))] (fun s => { s with boot := { s.boot with lifecycle := .unlocked } }) : State), 1, cmdOf 0x0B11 [(0x08, le 4 (tokenSize))], putAt tokenRaw 6 [2], putAt tokenRaw 6 [2], ⟨rfl, rfl, rfl, rfl, rfl⟩, by decide, by decide, by decide, by decide, by decide, by decide⟩

theorem test_meets_ImagesQuotesAndTokensAreHandled_10 : ∃ (s : State) (id : Nat) (c : Cmd) (t : Data) (d : Data),
      Runs s id 0x0B11 anyCmd c ∧
      Passes [entryCheck c [(0x08, 4), (0x10, 8)] [], deviceCheck s c, params [(0x08, decide (1 ≤ c.p32 0x08 ∧ c.p32 0x08 ≤ 4096)), (0x10, aligned64 (c.p64 0x10))]] ∧
      d = t.take (c.p32 0x08) ∧
      tokenSound s d = true ∧
      u16At d 6 = 3 ∧
      u32At d 0x10 = s.boot.fuses.relock ∧
      (s.boot.lifecycle = .production ∨ s.boot.lifecycle = .unlocked) :=
  ⟨(cmdState 0x0B11 [(0x08, le 4 (tokenSize))] (fun s => { s with boot := { s.boot with lifecycle := .production } }) : State), 1, cmdOf 0x0B11 [(0x08, le 4 (tokenSize))], putAt tokenRaw 6 [3], putAt tokenRaw 6 [3], ⟨rfl, rfl, rfl, rfl, rfl⟩, by decide, by decide, by decide, by decide, by decide, by decide⟩

theorem test_meets_ImagesQuotesAndTokensAreHandled_11 : ∃ (s : State) (id : Nat) (c : Cmd) (t : Data) (d : Data),
      Runs s id 0x0B11 anyCmd c ∧
      Passes [entryCheck c [(0x08, 4), (0x10, 8)] [], deviceCheck s c, params [(0x08, decide (1 ≤ c.p32 0x08 ∧ c.p32 0x08 ≤ 4096)), (0x10, aligned64 (c.p64 0x10))]] ∧
      d = t.take (c.p32 0x08) ∧
      tokenSound s d = true ∧
      u32At d 0x10 = s.boot.fuses.relock ∧
      (s.boot.lifecycle = .development ∨ s.boot.lifecycle = .retired) :=
  ⟨(cmdState 0x0B11 [(0x08, le 4 (tokenSize))] (fun s => { s with boot := { s.boot with lifecycle := .retired } }) : State), 1, cmdOf 0x0B11 [(0x08, le 4 (tokenSize))], putAt tokenRaw 6 [3], putAt tokenRaw 6 [3], ⟨rfl, rfl, rfl, rfl, rfl⟩, by decide, by decide, by decide, by decide, by decide⟩

theorem test_meets_TheMonitorAnswers_1 : ∃ (s : State) (u : State),
      u = wakeLull s ∧
      (s.boot.phase = .running ∨ s.boot.phase = .failed) :=
  ⟨(upState id : State), wakeLull (upState id : State), rfl, by decide⟩

theorem test_meets_TheMonitorAnswers_2 : ∃ (s : State) (u : State),
      u = wakeLull s ∧
      (s.boot.phase = .running ∨ s.boot.phase = .failed) :=
  ⟨(upState id : State), wakeLull (upState id : State), rfl, by decide⟩

theorem test_meets_TheMonitorAnswers_3 : ∃ (s : State) (u : State) (n : Nat),
      u = wakeLull s ∧
      s.boot.phase = .running ∧
      n ≤ 256 :=
  ⟨(upState id : State), wakeLull (upState id : State), 4, rfl, by decide, by decide⟩

theorem test_meets_TheMonitorAnswers_4 : ∃ (s : State) (u : State) (n : Nat),
      u = wakeLull s ∧
      s.boot.phase = .running ∧
      256 < n :=
  ⟨(upState id : State), wakeLull (upState id : State), 400, rfl, by decide, by decide⟩

theorem test_meets_TheMonitorAnswers_5 : ∃ (s : State) (u : State),
      u = wakeLull s ∧
      s.boot.phase = .running :=
  ⟨(upState id : State), wakeLull (upState id : State), rfl, by decide⟩

theorem test_meets_TheMonitorAnswers_6 : ∃ (s : State) (u : State),
      u = wakeLull s ∧
      s.boot.phase = .running :=
  ⟨(upState id : State), wakeLull (upState id : State), rfl, by decide⟩

theorem test_meets_TheMonitorAnswers_7 : ∃ (s : State) (u : State),
      u = wakeLull s ∧
      s.boot.phase = .running :=
  ⟨(upState id : State), wakeLull (upState id : State), rfl, by decide⟩

theorem test_meets_TheMonitorAnswers_8 : ∃ (s : State) (u : State),
      u = wakeLull s ∧
      s.boot.phase = .running :=
  ⟨(upState id : State), wakeLull (upState id : State), rfl, by decide⟩

theorem test_meets_TheMonitorAnswers_9 : ∃ (s : State) (u : State) (n : Fin 20),
      u = wakeLull s ∧
      s.boot.phase = .running :=
  ⟨(upState id : State), wakeLull (upState id : State), 3, rfl, by decide⟩

theorem test_meets_TheMonitorAnswers_10 : ∃ (s : State) (u : State),
      u = wakeLull s ∧
      s.boot.phase = .running :=
  ⟨(upState id : State), wakeLull (upState id : State), rfl, by decide⟩

theorem test_meets_TheMonitorAnswers_11 : ∃ (s : State) (u : State) (n : Fin 20),
      u = wakeLull s ∧
      s.boot.phase = .running ∧
      debugOpen u = false :=
  ⟨({ upState id with boot := { (upState id).boot with lifecycle := .production } } : State), wakeLull ({ upState id with boot := { (upState id).boot with lifecycle := .production } } : State), 3, rfl, by decide, by decide⟩

theorem test_meets_TheMonitorAnswers_12 : ∃ (s : State) (u : State) (n : Fin 20),
      u = wakeLull s ∧
      s.boot.phase = .running ∧
      debugOpen u = true :=
  ⟨({ upState id with boot := { (upState id).boot with lifecycle := .development } } : State), wakeLull ({ upState id with boot := { (upState id).boot with lifecycle := .development } } : State), 3, rfl, by decide, by decide⟩

theorem test_meets_TheMonitorAnswers_13 : ∃ (s : State) (u : State) (n : Fin 20) (a : Nat) (k : Nat),
      u = wakeLull s ∧
      s.boot.phase = .running ∧
      debugOpen u = false :=
  ⟨({ upState id with boot := { (upState id).boot with lifecycle := .production } } : State), wakeLull ({ upState id with boot := { (upState id).boot with lifecycle := .production } } : State), 3, 0x1000, 2, rfl, by decide, by decide⟩

theorem test_meets_TheMonitorAnswers_14 : ∃ (s : State) (u : State) (n : Fin 20) (a : Nat) (k : Nat),
      u = wakeLull s ∧
      s.boot.phase = .running ∧
      debugOpen u = true ∧
      k ≤ 64 ∧
      4096 ≤ a ∧
      a + k ≤ 8192 :=
  ⟨({ upState id with boot := { (upState id).boot with lifecycle := .development } } : State), wakeLull ({ upState id with boot := { (upState id).boot with lifecycle := .development } } : State), 3, 0x1000, 2, rfl, by decide, by decide, by decide, by decide, by decide⟩

theorem test_meets_TheMonitorAnswers_15 : ∃ (s : State) (u : State) (n : Fin 20) (a : Nat) (k : Nat),
      u = wakeLull s ∧
      s.boot.phase = .running ∧
      debugOpen u = true ∧
      (64 < k ∨ a < 4096 ∨ 8192 < a + k) :=
  ⟨({ upState id with boot := { (upState id).boot with lifecycle := .development } } : State), wakeLull ({ upState id with boot := { (upState id).boot with lifecycle := .development } } : State), 3, 0, 2, rfl, by decide, by decide, by decide⟩

theorem test_meets_TheMonitorAnswers_16 : ∃ (s : State) (u : State) (x : Nat) (a : Nat) (n : Nat),
      u = wakeLull s ∧
      s.boot.phase = .running ∧
      (3 < x ∨ 256 < n ∨ a % 4 ≠ 0 ∨ spaceSize u x < a + 4 * n) :=
  ⟨(upState id : State), wakeLull (upState id : State), 4, 0, 1, rfl, by decide, by decide⟩

theorem test_meets_TheMonitorAnswers_17 : ∃ (s : State) (u : State) (x : Nat) (a : Nat) (n : Nat),
      u = wakeLull s ∧
      s.boot.phase = .running ∧
      debugOpen u = false ∧
      2 ≤ x ∧
      x ≤ 3 ∧
      n ≤ 256 ∧
      a % 4 = 0 ∧
      a + 4 * n ≤ spaceSize u x :=
  ⟨({ upState id with boot := { (upState id).boot with lifecycle := .production } } : State), wakeLull ({ upState id with boot := { (upState id).boot with lifecycle := .production } } : State), 2, 0, 1, rfl, by decide, by decide, by decide, by decide, by decide, by decide, by decide⟩

theorem test_meets_TheMonitorAnswers_18 : ∃ (s : State) (u : State) (x : Nat) (a : Nat) (n : Nat),
      u = wakeLull s ∧
      s.boot.phase = .running ∧
      (x ≤ 1 ∨ (x = 3 ∧ debugOpen u = true)) ∧
      n ≤ 256 ∧
      a % 4 = 0 ∧
      a + 4 * n ≤ spaceSize u x :=
  ⟨({ upState id with boot := { (upState id).boot with lifecycle := .production } } : State), wakeLull ({ upState id with boot := { (upState id).boot with lifecycle := .production } } : State), 1, 0, 1, rfl, by decide, by decide, by decide, by decide, by decide⟩

theorem test_meets_TheMonitorAnswers_19 : ∃ (s : State) (u : State) (a : Nat) (n : Nat) (v : State),
      u = wakeLull s ∧
      s.boot.phase = .running ∧
      debugOpen u = true ∧
      n ≤ 256 ∧
      a % 4 = 0 ∧
      a + 4 * n ≤ spaceSize u 2 ∧
      v = storeAwake u ∧
      storeServes v = true ∧
      readPoisoned v a (4 * n) = false :=
  ⟨({ upState storeReady with boot := { (upState storeReady).boot with lifecycle := .development } } : State), wakeLull ({ upState storeReady with boot := { (upState storeReady).boot with lifecycle := .development } } : State), 0, 1, storeAwake (wakeLull ({ upState storeReady with boot := { (upState storeReady).boot with lifecycle := .development } } : State) : State), rfl, by decide, by decide, by decide, by decide, by decide, rfl, by decide, by decide⟩

theorem test_meets_TheMonitorAnswers_20 : ∃ (s : State) (u : State) (a : Nat) (n : Nat) (v : State),
      u = wakeLull s ∧
      s.boot.phase = .running ∧
      debugOpen u = true ∧
      n ≤ 256 ∧
      a % 4 = 0 ∧
      a + 4 * n ≤ spaceSize u 2 ∧
      v = storeAwake u ∧
      (storeServes v = false ∨ readPoisoned v a (4 * n) = true) :=
  ⟨({ upState id with boot := { (upState id).boot with lifecycle := .development } } : State), wakeLull ({ upState id with boot := { (upState id).boot with lifecycle := .development } } : State), 0, 1, storeAwake (wakeLull ({ upState id with boot := { (upState id).boot with lifecycle := .development } } : State) : State), rfl, by decide, by decide, by decide, by decide, by decide, rfl, by decide⟩

theorem test_meets_TheMonitorAnswers_21 : ∃ (s : State) (u : State) (x : Nat) (a : Nat) (v : U32),
      u = wakeLull s ∧
      s.boot.phase = .running ∧
      debugOpen u = false :=
  ⟨({ upState id with boot := { (upState id).boot with lifecycle := .production } } : State), wakeLull ({ upState id with boot := { (upState id).boot with lifecycle := .production } } : State), 1, 0, 7, rfl, by decide, by decide⟩

theorem test_meets_TheMonitorAnswers_22 : ∃ (s : State) (u : State) (x : Nat) (a : Nat) (v : U32),
      u = wakeLull s ∧
      s.boot.phase = .running ∧
      debugOpen u = true ∧
      (3 < x ∨ a % 4 ≠ 0 ∨ spaceSize u x < a + 4) :=
  ⟨({ upState id with boot := { (upState id).boot with lifecycle := .development } } : State), wakeLull ({ upState id with boot := { (upState id).boot with lifecycle := .development } } : State), 4, 0, 7, rfl, by decide, by decide, by decide⟩

theorem test_meets_TheMonitorAnswers_23 : ∃ (s : State) (u : State) (x : Nat) (a : Nat) (v : U32),
      u = wakeLull s ∧
      s.boot.phase = .running ∧
      debugOpen u = true ∧
      x ≤ 3 ∧
      a % 4 = 0 ∧
      a + 4 ≤ spaceSize u x ∧
      pokeAllowed u x a = false :=
  ⟨({ upState id with boot := { (upState id).boot with lifecycle := .unlocked } } : State), wakeLull ({ upState id with boot := { (upState id).boot with lifecycle := .unlocked } } : State), 2, 0, 7, rfl, by decide, by decide, by decide, by decide, by decide, by decide⟩

theorem test_meets_TheMonitorAnswers_24 : ∃ (s : State) (u : State) (x : Nat) (a : Nat) (v : U32) (w : State),
      u = wakeLull s ∧
      s.boot.phase = .running ∧
      debugOpen u = true ∧
      x ≤ 3 ∧
      x ≠ 2 ∧
      a % 4 = 0 ∧
      a + 4 ≤ spaceSize u x ∧
      pokeAllowed u x a = true ∧
      w = pokeWord x a v u :=
  ⟨({ upState id with boot := { (upState id).boot with lifecycle := .development } } : State), wakeLull ({ upState id with boot := { (upState id).boot with lifecycle := .development } } : State), 1, 0, 7, pokeWord 1 0 7 (wakeLull ({ upState id with boot := { (upState id).boot with lifecycle := .development } } : State) : State), rfl, by decide, by decide, by decide, by decide, by decide, by decide, by decide, rfl⟩

theorem test_meets_TheMonitorAnswers_25 : ∃ (s : State) (u : State) (a : Nat) (v : U32) (w : State),
      u = wakeLull s ∧
      s.boot.phase = .running ∧
      debugOpen u = true ∧
      a % 4 = 0 ∧
      a + 4 ≤ spaceSize u 2 ∧
      pokeAllowed u 2 a = true ∧
      storeServes (storeAwake u) = true ∧
      w = storeWrite a (le 4 v.toNat) (storeAwake u) :=
  ⟨({ upState storeReady with boot := { (upState storeReady).boot with lifecycle := .development } } : State), wakeLull ({ upState storeReady with boot := { (upState storeReady).boot with lifecycle := .development } } : State), 0, 7, storeWrite 0 (le 4 7) (storeAwake (wakeLull ({ upState storeReady with boot := { (upState storeReady).boot with lifecycle := .development } } : State) : State)), rfl, by decide, by decide, by decide, by decide, by decide, by decide, rfl⟩

theorem test_meets_TheMonitorAnswers_26 : ∃ (s : State) (u : State) (r : Nat),
      u = wakeLull s ∧
      (s.boot.phase = .running ∨ s.boot.phase = .failed) ∧
      baudRates.contains r = true :=
  ⟨(upState id : State), wakeLull (upState id : State), 230400, rfl, by decide, by decide⟩

theorem test_meets_TheMonitorAnswers_27 : ∃ (s : State) (u : State) (r : Nat),
      u = wakeLull s ∧
      (s.boot.phase = .running ∨ s.boot.phase = .failed) ∧
      baudRates.contains r = false :=
  ⟨(upState id : State), wakeLull (upState id : State), 9600, rfl, by decide, by decide⟩

theorem test_meets_TheMonitorAnswers_28 : ∃ (s : State) (r : Nat) (d : Nat),
      s.fynal.newBaud = some (r, d) :=
  ⟨({ State.reset with fynal := { State.reset.fynal with newBaud := some (230400, 9) } } : State), 230400, 9, by decide⟩

theorem test_meets_TheMonitorAnswers_29 : ∃ (s : State) (u : State),
      u = wakeLull s ∧
      (s.boot.phase = .running ∨ s.boot.phase = .failed) :=
  ⟨(upState id : State), wakeLull (upState id : State), rfl, by decide⟩

theorem test_meets_TheMonitorAnswers_30 : ∃ (s : State) (u : State),
      u = wakeLull s ∧
      (s.boot.phase = .running ∨ s.boot.phase = .failed) :=
  ⟨(upState id : State), wakeLull (upState id : State), rfl, by decide⟩

theorem test_meets_TheMonitorUpdatesAndPinsAreTested_1 : ∃ (s : State) (u : State) (n : Nat),
      u = wakeLull s ∧
      (s.boot.phase = .running ∨ s.boot.phase = .failed) ∧
      u.boot.session = none ∧
      1 ≤ n ∧
      n ≤ slotSize :=
  ⟨(upState id : State), wakeLull (upState id : State), 8, rfl, by decide, by decide, by decide, by decide⟩

theorem test_meets_TheMonitorUpdatesAndPinsAreTested_2 : ∃ (s : State) (u : State) (n : Nat),
      u = wakeLull s ∧
      (s.boot.phase = .running ∨ s.boot.phase = .failed) ∧
      u.boot.session.isSome = true :=
  ⟨({ upState id with boot := { (upState id).boot with session := some ⟨true, 8, 0, true⟩ } } : State), wakeLull ({ upState id with boot := { (upState id).boot with session := some ⟨true, 8, 0, true⟩ } } : State), 8, rfl, by decide, by decide⟩

theorem test_meets_TheMonitorUpdatesAndPinsAreTested_3 : ∃ (s : State) (u : State) (n : Nat),
      u = wakeLull s ∧
      (s.boot.phase = .running ∨ s.boot.phase = .failed) ∧
      u.boot.session = none ∧
      (n = 0 ∨ slotSize < n) :=
  ⟨(upState id : State), wakeLull (upState id : State), 0, rfl, by decide, by decide, by decide⟩

theorem test_meets_TheMonitorUpdatesAndPinsAreTested_4 : ∃ (s : State) (u : State) (x : UpdateSession) (piece : Data) (rb : Bool) (k : CryptoChecks),
      u = wakeLull s ∧
      (s.boot.phase = .running ∨ s.boot.phase = .failed) ∧
      u.boot.session = some x ∧
      x.monitor = true :=
  ⟨({ upState id with boot := { (upState id).boot with session := some ⟨true, 8, 0, true⟩ } } : State), wakeLull ({ upState id with boot := { (upState id).boot with session := some ⟨true, 8, 0, true⟩ } } : State), ⟨true, 8, 0, true⟩, [], true, ⟨true, true, true, true, true⟩, rfl, by decide, by decide, by decide⟩

theorem test_meets_TheMonitorUpdatesAndPinsAreTested_5 : ∃ (s : State) (u : State) (x : UpdateSession) (piece : Data) (k : CryptoChecks),
      u = wakeLull s ∧
      (s.boot.phase = .running ∨ s.boot.phase = .failed) ∧
      u.boot.session = some x ∧
      x.monitor = true ∧
      x.received + min 4096 (x.length - x.received) < x.length :=
  ⟨({ upState id with boot := { (upState id).boot with session := some ⟨true, 8192, 0, true⟩ } } : State), wakeLull ({ upState id with boot := { (upState id).boot with session := some ⟨true, 8192, 0, true⟩ } } : State), ⟨true, 8192, 0, true⟩, [], ⟨true, true, true, true, true⟩, rfl, by decide, by decide, by decide, by decide⟩

theorem test_meets_TheMonitorUpdatesAndPinsAreTested_6 : ∃ (s : State) (u : State) (x : UpdateSession) (piece : Data) (k : CryptoChecks),
      u = wakeLull s ∧
      (s.boot.phase = .running ∨ s.boot.phase = .failed) ∧
      u.boot.session = some x ∧
      x.monitor = true ∧
      x.length ≤ x.received + min 4096 (x.length - x.received) :=
  ⟨({ upState id with boot := { (upState id).boot with session := some ⟨true, 8, 0, true⟩ } } : State), wakeLull ({ upState id with boot := { (upState id).boot with session := some ⟨true, 8, 0, true⟩ } } : State), ⟨true, 8, 0, true⟩, [], ⟨true, true, true, true, true⟩, rfl, by decide, by decide, by decide, by decide⟩

def test_meets_TheMonitorUpdatesAndPinsAreTested_7_s : State := { upState id with boot := { (upState id).boot with session := some ⟨true, 8, 0, true⟩ } }
def test_meets_TheMonitorUpdatesAndPinsAreTested_7_u : State := wakeLull test_meets_TheMonitorUpdatesAndPinsAreTested_7_s
def test_meets_TheMonitorUpdatesAndPinsAreTested_7_x : UpdateSession := ⟨true, 8, 0, true⟩
def test_meets_TheMonitorUpdatesAndPinsAreTested_7_piece : Data := []
def test_meets_TheMonitorUpdatesAndPinsAreTested_7_k : CryptoChecks := ⟨true, true, true, true, true⟩
def test_meets_TheMonitorUpdatesAndPinsAreTested_7_f : Data × State := freeBytes 8 test_meets_TheMonitorUpdatesAndPinsAreTested_7_u
theorem test_meets_TheMonitorUpdatesAndPinsAreTested_7_h0 : (fun (s : State) (u : State) (x : UpdateSession) (piece : Data) (k : CryptoChecks) (f : Data × State) => u = wakeLull s) test_meets_TheMonitorUpdatesAndPinsAreTested_7_s test_meets_TheMonitorUpdatesAndPinsAreTested_7_u test_meets_TheMonitorUpdatesAndPinsAreTested_7_x test_meets_TheMonitorUpdatesAndPinsAreTested_7_piece test_meets_TheMonitorUpdatesAndPinsAreTested_7_k test_meets_TheMonitorUpdatesAndPinsAreTested_7_f := by
  beta_reduce
  exact rfl
theorem test_meets_TheMonitorUpdatesAndPinsAreTested_7_h1 : (fun (s : State) (u : State) (x : UpdateSession) (piece : Data) (k : CryptoChecks) (f : Data × State) => s.boot.phase = .running ∨ s.boot.phase = .failed) test_meets_TheMonitorUpdatesAndPinsAreTested_7_s test_meets_TheMonitorUpdatesAndPinsAreTested_7_u test_meets_TheMonitorUpdatesAndPinsAreTested_7_x test_meets_TheMonitorUpdatesAndPinsAreTested_7_piece test_meets_TheMonitorUpdatesAndPinsAreTested_7_k test_meets_TheMonitorUpdatesAndPinsAreTested_7_f := by
  beta_reduce
  decide
theorem test_meets_TheMonitorUpdatesAndPinsAreTested_7_h2 : (fun (s : State) (u : State) (x : UpdateSession) (piece : Data) (k : CryptoChecks) (f : Data × State) => u.boot.session = some x) test_meets_TheMonitorUpdatesAndPinsAreTested_7_s test_meets_TheMonitorUpdatesAndPinsAreTested_7_u test_meets_TheMonitorUpdatesAndPinsAreTested_7_x test_meets_TheMonitorUpdatesAndPinsAreTested_7_piece test_meets_TheMonitorUpdatesAndPinsAreTested_7_k test_meets_TheMonitorUpdatesAndPinsAreTested_7_f := by
  beta_reduce
  decide
theorem test_meets_TheMonitorUpdatesAndPinsAreTested_7_h3 : (fun (s : State) (u : State) (x : UpdateSession) (piece : Data) (k : CryptoChecks) (f : Data × State) => x.monitor = true) test_meets_TheMonitorUpdatesAndPinsAreTested_7_s test_meets_TheMonitorUpdatesAndPinsAreTested_7_u test_meets_TheMonitorUpdatesAndPinsAreTested_7_x test_meets_TheMonitorUpdatesAndPinsAreTested_7_piece test_meets_TheMonitorUpdatesAndPinsAreTested_7_k test_meets_TheMonitorUpdatesAndPinsAreTested_7_f := by
  beta_reduce
  decide
theorem test_meets_TheMonitorUpdatesAndPinsAreTested_7_h4 : (fun (s : State) (u : State) (x : UpdateSession) (piece : Data) (k : CryptoChecks) (f : Data × State) => f = freeBytes (min 4096 (x.length - x.received)) u) test_meets_TheMonitorUpdatesAndPinsAreTested_7_s test_meets_TheMonitorUpdatesAndPinsAreTested_7_u test_meets_TheMonitorUpdatesAndPinsAreTested_7_x test_meets_TheMonitorUpdatesAndPinsAreTested_7_piece test_meets_TheMonitorUpdatesAndPinsAreTested_7_k test_meets_TheMonitorUpdatesAndPinsAreTested_7_f := by
  beta_reduce
  exact rfl
theorem test_meets_TheMonitorUpdatesAndPinsAreTested_7 : ∃ (s : State) (u : State) (x : UpdateSession) (piece : Data) (k : CryptoChecks) (f : Data × State),
      u = wakeLull s ∧
      (s.boot.phase = .running ∨ s.boot.phase = .failed) ∧
      u.boot.session = some x ∧
      x.monitor = true ∧
      f = freeBytes (min 4096 (x.length - x.received)) u :=
  ⟨test_meets_TheMonitorUpdatesAndPinsAreTested_7_s, test_meets_TheMonitorUpdatesAndPinsAreTested_7_u, test_meets_TheMonitorUpdatesAndPinsAreTested_7_x, test_meets_TheMonitorUpdatesAndPinsAreTested_7_piece, test_meets_TheMonitorUpdatesAndPinsAreTested_7_k, test_meets_TheMonitorUpdatesAndPinsAreTested_7_f, test_meets_TheMonitorUpdatesAndPinsAreTested_7_h0, test_meets_TheMonitorUpdatesAndPinsAreTested_7_h1, test_meets_TheMonitorUpdatesAndPinsAreTested_7_h2, test_meets_TheMonitorUpdatesAndPinsAreTested_7_h3, test_meets_TheMonitorUpdatesAndPinsAreTested_7_h4⟩

theorem test_meets_TheMonitorUpdatesAndPinsAreTested_8 : ∃ (s : State) (due : Nat),
      s.fynal.restartAt = some due :=
  ⟨({ State.reset with fynal := { State.reset.fynal with restartAt := some 9 } } : State), 9, by decide⟩

theorem test_meets_TheMonitorUpdatesAndPinsAreTested_9 : ∃ (s : State) (code : Byte),
      (takesPins (jtagCode s code) = false ∨ s.jtag.pinsTaken = true) :=
  ⟨(State.reset : State), 2, by decide⟩

theorem test_meets_TheMonitorUpdatesAndPinsAreTested_10 : ∃ (s : State) (code : Byte),
      takesPins (jtagCode s code) = true ∧
      s.jtag.pinsTaken = false :=
  ⟨(State.reset : State), 4, by decide, by decide⟩

end Sys2Proof.Tests
end

section
/-! The poison of the store: which sectors each kind of write covers whole, and that exactly those lose their poison (R75, R77, R80). -/

namespace Sys2Proof.StorePoison

open Sys2Proof Sys2Proof.Machine Sys2Proof.Safety Sys2Proof.Claims Sys2Proof.Laws

/-! ## The sectors of a span -/

theorem mem_sectorsOf {a n k : Nat} : k ∈ sectorsOf a n ↔ n ≠ 0 ∧ a / 32 ≤ k ∧ k ≤ (a + n - 1) / 32 := by
  unfold sectorsOf sectorOf
  by_cases hn : n = 0
  · simp [hn]
  · simp only [if_neg hn, List.mem_map, List.mem_range]
    constructor
    · rintro ⟨i, hi, rfl⟩
      exact ⟨hn, by omega⟩
    · rintro ⟨-, hlo, hhi⟩
      exact ⟨k - a / 32, by omega, by omega⟩

/-- A sector that lies whole in a span is among those the span touches, so the list of whole sectors misses none. -/
theorem mem_wholeSectors {a n k : Nat} : k ∈ wholeSectors a n ↔ CoversSector a n k := by
  have touched : CoversSector a n k → k ∈ sectorsOf a n := fun ⟨hlo, hhi⟩ =>
    mem_sectorsOf.2 ⟨by omega, by omega, by omega⟩
  simp only [wholeSectors, List.mem_filter, decide_eq_true_eq]
  exact and_iff_right_of_imp touched

/-- On a span of whole sectors, a sector lies outside exactly where the span does not cover it. -/
theorem outside_aligned_iff {a n k : Nat} (ha : a % 32 = 0) (hn : n % 32 = 0) :
    (k * 32 < a ∨ a + n ≤ k * 32) ↔ ¬ CoversSector a n k := by
  unfold CoversSector
  omega

/-! ## The byte enables of a sector -/

/-- The enables of a run of bytes within a write are all set exactly where each of them holds a byte. -/
theorem all_isSome_take_drop {α : Type} {l : List (Option α)} {o m : Nat} (h : o + m ≤ l.length) :
    ((l.drop o).take m).all Option.isSome = true ↔ ∀ i < m, ∃ b, l[o + i]? = some (some b) := by
  have hlen : ((l.drop o).take m).length = m := by
    rw [List.length_take, List.length_drop]
    omega
  rw [List.all_eq_true, List.forall_mem_iff_getElem]
  constructor
  · intro hall i hi
    obtain ⟨b, hb⟩ := Option.isSome_iff_exists.1 (hall i (hlen.symm ▸ hi))
    refine ⟨b, ?_⟩
    rw [List.getElem_take, List.getElem_drop] at hb
    rw [List.getElem?_eq_getElem (by omega), hb]
  · intro hsome i hi
    obtain ⟨b, hb⟩ := hsome i (hlen ▸ hi)
    rw [List.getElem_take, List.getElem_drop]
    simp [(List.getElem?_eq_some_iff.1 hb).2]

/-! ## What each write leaves poisoned -/

theorem mem_filter_not_contains {l w : List Nat} {k : Nat} : k ∈ l.filter (fun k => !w.contains k) ↔ k ∈ l ∧ k ∉ w := by
  simp

theorem mem_poison_storeWrite (s : State) (a : Nat) (d : Data) (k : Nat) :
    k ∈ (storeWrite a d s).store.poison ↔ k ∈ s.store.poison ∧ ¬ CoversSector a d.length k := by
  simp only [storeWrite, setStore_store, mem_filter_not_contains, mem_wholeSectors]

theorem mem_poison_writeEnabled (s : State) (a : Nat) (l : List (Option Byte)) (k : Nat) :
    k ∈ (writeEnabled a l s).store.poison ↔
      k ∈ s.store.poison ∧ ¬ (CoversSector a l.length k ∧ ∀ i < 32, ∃ b, l[k * 32 - a + i]? = some (some b)) := by
  have enabled : CoversSector a l.length k →
      (((l.drop (k * 32 - a)).take 32).all Option.isSome = true ↔ ∀ i < 32, ∃ b, l[k * 32 - a + i]? = some (some b)) :=
    fun ⟨hlo, hhi⟩ => all_isSome_take_drop (by omega)
  refine mem_filter_not_contains.trans (and_congr_right' (not_congr ?_))
  rw [List.mem_filter, mem_wholeSectors, and_congr_right enabled]

theorem mem_poison_clearSpan (s : State) {a n : Nat} (k : Nat) (ha : a % 32 = 0) (hn : n % 32 = 0) :
    k ∈ (clearSpan a n s).store.poison ↔ k ∈ s.store.poison ∧ ¬ CoversSector a n k := by
  simp only [clearSpan, setStore_store, List.mem_filter, decide_eq_true_eq, outside_aligned_iff ha hn]

/-- Settles O52: of each of the three writes, the poison that stays is that of the sectors it does not cover whole. -/
theorem poisonFollowsWholeSectorWrites : Obligations.PoisonFollowsWholeSectorWrites :=
  ⟨mem_poison_storeWrite, mem_poison_writeEnabled, fun s _ _ k ha hn => mem_poison_clearSpan s k ha hn⟩

end Sys2Proof.StorePoison
end

section
/-! The channel hash: its outputs as parities, the fields of an address, and which masks are in use (R72 to R74). -/

namespace Sys2Proof.ChannelHash

open Sys2Proof Sys2Proof.Machine Sys2Proof.Safety Sys2Proof.Claims

/-! ## The outputs and the fields -/

theorem popCount_eq_length_filter (x n : Nat) : popCount x n = ((List.range n).filter (x.testBit ·)).length := by
  induction n with
  | zero => rfl
  | succ n ih =>
    rw [popCount, ih, List.range_succ, List.filter_append, List.length_append]
    cases h : x.testBit n <;> simp [b2n, h]

theorem parity_and (a m n : Nat) :
    parity (a &&& m) n = ((List.range n).filter fun b => a.testBit b && m.testBit b).length % 2 := by
  simp only [parity, popCount_eq_length_filter, Nat.testBit_and]

theorem hashOutputs_eq (st : Store) (a : Nat) : hashOutputs st a =
    (masksInUse st).map fun m => ((List.range 35).filter fun b => a.testBit b && m.testBit b).length % 2 := by
  simp only [hashOutputs, parity_and]

theorem channelOf_bankOf_eq {st : Store} {a c0 c1 c2 c3 g0 g1 b0 b1 : Nat}
    (h : hashOutputs st a = [c0, c1, c2, c3, g0, g1, b0, b1]) :
    channelOf st a = c0 + 2 * c1 + 4 * c2 + 8 * c3 ∧ bankOf st a = (b0 + 2 * b1) + 4 * (g0 + 2 * g1) := by
  simp only [channelOf, bankOf, h, true_and]
  omega

theorem testBit_bits (x hi lo b : Nat) : (bits x hi lo).testBit b = (decide (b < hi + 1 - lo) && x.testBit (b + lo)) := by
  rw [bits, Nat.testBit_mod_two_pow, Nat.testBit_div_two_pow]

theorem testBit_rowOf (st : Store) (a b : Nat) :
    (rowOf st a).testBit b = (decide (b + 19 ≤ if st.clamshell then 34 else 33) && a.testBit (b + 19)) := by
  rw [rowOf, testBit_bits]
  congr 2
  unfold topRowBit
  exact propext (by omega)

theorem columnOf_eq (a : Nat) : columnOf a = a / 65536 % 8 * 256 + a / 64 % 4 * 64 + a % 64 := by
  simp [columnOf, bits]

/-! ## The validity of a mask (R74) -/

/-- The lowest n bits of a number are clear exactly where 2^n divides it. -/
theorem mod_two_pow_eq_zero_iff_testBit {m n : Nat} : m % 2 ^ n = 0 ↔ ∀ b < n, m.testBit b = false := by
  constructor
  · intro h b hb
    have := Nat.testBit_mod_two_pow m n b
    simpa [h, hb] using this.symm
  · intro h
    refine Nat.eq_of_testBit_eq fun b => ?_
    rw [Nat.testBit_mod_two_pow, Nat.zero_testBit]
    by_cases hb : b < n
    · simp [h b hb]
    · simp [hb]

/-- A number lies below 2^(n+1) exactly where no bit above n is set. -/
theorem lt_two_pow_succ_iff_testBit {m n : Nat} : m < 2 ^ (n + 1) ↔ ∀ b, n < b → m.testBit b = false :=
  ⟨fun h _ hb => Nat.testBit_lt_two_pow (h.trans_le (Nat.pow_le_pow_right (by decide) hb)),
    fun h => Nat.lt_pow_two_of_testBit m fun b hb => h b hb⟩

/-- The model's test of a mask is the validity of R74, bit by bit. -/
theorem maskValid_iff {clamshell : Bool} {p m : Nat} : maskValid clamshell p m = true ↔ ValidMask clamshell p m := by
  have others : pivots.all (fun q => decide (q = p) || !m.testBit q) = true ↔
      ∀ q ∈ [8, 9, 10, 11, 12, 13, 14, 15], q ≠ p → m.testBit q = false := by
    simp only [List.all_eq_true, Bool.or_eq_true, decide_eq_true_eq, Bool.not_eq_true', or_iff_not_imp_left, pivots, ne_eq]
  have low : m % 64 = 0 ↔ ∀ b < 6, m.testBit b = false := mod_two_pow_eq_zero_iff_testBit (n := 6)
  have high : m < 2 ^ (topRowBit clamshell + 1) ↔ ∀ b, (if clamshell then 34 else 33) < b → m.testBit b = false :=
    lt_two_pow_succ_iff_testBit
  simp only [maskValid, ValidMask, Bool.and_eq_true, decide_eq_true_eq, others, low, high, and_assoc]

/-! ## The masks in use -/

/-- The model's test of a list of masks: there are eight, and the one paired with each pivot is valid for it. -/
abbrev PassesTest (clamshell : Bool) (l : List Nat) : Prop :=
  (List.zip pivots l).all (fun x => maskValid clamshell x.1 x.2) ∧ l.length = 8

/-- The masks are eight, and each is valid for the pivot of its output: output i has pivot bit 8 + i. -/
abbrev AllValid (clamshell : Bool) (l : List Nat) : Prop :=
  l.length = 8 ∧ ∀ i < 8, ValidMask clamshell (8 + i) (l.getD i 0)

theorem masksInUse_eq (st : Store) : masksInUse st =
    if PassesTest st.clamshell (blockMasks st) then blockMasks st else defaultMasks st.clamshell :=
  apply_ite Prod.fst _ _ _

theorem zip_pivots_all_iff {clamshell : Bool} {l : List Nat} (h : l.length = 8) :
    (List.zip pivots l).all (fun x => maskValid clamshell x.1 x.2) = true ↔
      ∀ i < 8, ValidMask clamshell (8 + i) (l.getD i 0) := by
  have pivot : ∀ i (hi : i < pivots.length), pivots[i] = 8 + i := by decide
  have hlen : (List.zip pivots l).length = 8 := by simp [h, pivots]
  have entry : ∀ i (hi : i < (List.zip pivots l).length),
      maskValid clamshell (List.zip pivots l)[i].1 (List.zip pivots l)[i].2 = true ↔
        ValidMask clamshell (8 + i) (l.getD i 0) := fun i hi => by
    rw [maskValid_iff, List.getElem_zip, pivot, List.getD_eq_getElem l 0 (by omega)]
  rw [List.all_eq_true, List.forall_mem_iff_getElem]
  exact ⟨fun hall i hi => (entry i (by omega)).1 (hall i _), fun hall i hi => (entry i hi).2 (hall i (by omega))⟩

theorem passesTest_iff {clamshell : Bool} {l : List Nat} : PassesTest clamshell l ↔ AllValid clamshell l :=
  and_comm.trans (and_congr_right zip_pivots_all_iff)

theorem masksInUse_of_allValid {st : Store} (h : AllValid st.clamshell (blockMasks st)) : masksInUse st = blockMasks st := by
  rw [masksInUse_eq, if_pos (passesTest_iff.2 h)]

theorem masksInUse_of_not_allValid {st : Store} (h : ¬ AllValid st.clamshell (blockMasks st)) :
    masksInUse st = defaultMasks st.clamshell := by
  rw [masksInUse_eq, if_neg (mt passesTest_iff.1 h)]

theorem blockMasks_of_zeros {st : Store} (h : st.cfg.masks = List.replicate 8 0) :
    blockMasks st = defaultMasks st.clamshell := by
  unfold blockMasks
  rw [h]
  cases st.clamshell <;> rfl

/-- A block that names no mask leaves the defaults in use, valid or not. -/
theorem masksInUse_of_zeros {st : Store} (h : st.cfg.masks = List.replicate 8 0) :
    masksInUse st = defaultMasks st.clamshell := by
  rw [masksInUse_eq, blockMasks_of_zeros h, ite_self]

/-! ## The defaults (R73) -/

theorem defaultMasks_valid (clamshell : Bool) : ∀ i < 8, ValidMask clamshell (8 + i) ((defaultMasks clamshell).getD i 0) := by
  have tested : PassesTest clamshell (defaultMasks clamshell) := by
    cases clamshell <;> decide
  exact (passesTest_iff.1 tested).2

theorem defaultMasks_clamshell : defaultMasks true =
    [[8, 19, 23, 27, 31], [9, 20, 24, 28, 32], [10, 21, 25, 29, 33], [11, 22, 26, 30, 34], [12, 19, 22, 25, 28, 31],
      [13, 20, 23, 26, 29, 32], [14, 21, 24, 27, 30, 33], [15, 21, 26, 31, 34]].map ofBits := by
  decide

theorem defaultMasks_standard : defaultMasks false =
    [[8, 19, 23, 27, 31], [9, 20, 24, 28, 32], [10, 21, 25, 29, 33], [11, 22, 26, 30], [12, 19, 22, 25, 28, 31],
      [13, 20, 23, 26, 29, 32], [14, 21, 24, 27, 30, 33], [15, 21, 26, 31]].map ofBits := by
  decide

/-- Settles O58: the outputs are parities, the fields are read off the address, and the masks in use are the block's exactly where all
eight of them are valid. -/
theorem hashOutputsAreParitiesOfTheMasksInUse : Obligations.HashOutputsAreParitiesOfTheMasksInUse := by
  refine ⟨hashOutputs_eq, ?channelAndBank, testBit_rowOf, columnOf_eq, ?blockValid, ?blockInvalid, ?blockUnset,
    defaultMasks_clamshell, defaultMasks_standard, defaultMasks_valid⟩
  case channelAndBank => exact fun _ _ _ _ _ _ _ _ _ _ => channelOf_bankOf_eq
  case blockValid => exact fun _ hlen hvalid => masksInUse_of_allValid ⟨hlen, hvalid⟩
  case blockInvalid => exact fun _ => masksInUse_of_not_allValid
  case blockUnset => exact fun _ => masksInUse_of_zeros

end Sys2Proof.ChannelHash
end

section
/-! SET_POWER_LIMIT: the limit and the effective limit that follows it, and what a limit below the granted total refuses (R443). -/

namespace Sys2Proof.PowerLimit

open Sys2Proof Sys2Proof.Machine Sys2Proof.Safety Sys2Proof.Claims Sys2Proof.Laws

/-! ## The effective limit (R505) -/

/-- Derating takes units off the limit down to its floor of 300, so it never raises a limit that lies above the floor. -/
theorem effectiveLimit_le {limit : Nat} (tj : Int) (h : 300 ≤ limit) : effectiveLimit limit tj ≤ limit := by
  unfold effectiveLimit
  split
  · exact le_rfl
  · exact max_le h (Nat.sub_le _ _)

/-- Setting the effective limit anew changes that figure of the ledger and, but for its event, nothing else. -/
theorem setEffective_side (s : State) :
    Side (setPower (fun p => { p with effective := effectiveLimit s.pwr.limit s.fw.tjEval }) s) (setEffective s) := by
  dsimp only [setEffective]
  split
  next unchanged =>
    rw [unchanged]
    exact Side_refl s
  next => exact raise_side _ _ _ (Side_refl _)

theorem setEffective_pwr (s : State) :
    (setEffective s).pwr = { s.pwr with effective := effectiveLimit s.pwr.limit s.fw.tjEval } :=
  Side_pwr (setEffective_side s)

/-! ## Requests that find no room -/

/-- A command's request that does not fit under the effective limit is not granted, whoever asks and whatever it costs. -/
theorem requestPower_ne_granted {c : Cmd} {o : Owner} {items : List (Nat × Nat)} {s : State}
    (h : powerFits s.pwr (cost items) = false) : (requestPower c o items s).1 ≠ .granted := by
  unfold requestPower
  split_ifs <;> simp_all

/-- Once the granted total exceeds the effective limit, no cost fits, not even none. -/
theorem powerFits_eq_false {p : Power} (h : p.effective < p.granted_) (units : Nat) : powerFits p units = false :=
  decide_eq_false (by omega)

/-! ## The command (R443) -/

theorem firstFail_append_of_passes {before : List Check} (h : Passes before) (after : List Check) :
    firstFail (before ++ after) = firstFail after := by
  induction before with
  | nil => rfl
  | cons x before ih =>
    obtain ⟨rfl, h⟩ := (passes_cons x before).1 h
    exact ih h

/-- The state that a new limit leaves: the limit in force, and the effective limit set from it. -/
def withLimit (limit : Nat) (s : State) : State := setEffective (setPower (fun p => { p with limit := limit }) s)

theorem withLimit_pwr (limit : Nat) (s : State) :
    (withLimit limit s).pwr = { s.pwr with limit := limit, effective := effectiveLimit limit s.fw.tjEval } :=
  setEffective_pwr _

theorem withLimit_limit (limit : Nat) (s : State) : (withLimit limit s).pwr.limit = limit :=
  congrArg Power.limit (withLimit_pwr limit s)

theorem withLimit_granted (limit : Nat) (s : State) : (withLimit limit s).pwr.granted_ = s.pwr.granted_ := by
  rw [withLimit_pwr]
  rfl

theorem withLimit_side (limit : Nat) (s : State) :
    withLimit limit s = sideOf { s with pwr := (withLimit limit s).pwr } (withLimit limit s) := by
  rw [withLimit_pwr]
  exact setEffective_side _

/-- No grant is revoked, and with the limit below what they total nothing more is granted at once. -/
theorem requestPower_ne_granted_of_limit_lt {limit : Nat} {s v : State} (floor : 300 ≤ limit)
    (hv : v.pwr = (withLimit limit s).pwr) (low : limit < s.pwr.granted_) (c : Cmd) (o : Owner) (items : List (Nat × Nat)) :
    (requestPower c o items v).1 ≠ .granted := by
  have exceeded : v.pwr.effective < v.pwr.granted_ := by
    rw [hv, withLimit_granted, withLimit_pwr]
    exact (effectiveLimit_le s.fw.tjEval floor).trans_lt low
  exact requestPower_ne_granted (powerFits_eq_false exceeded _)

section
variable {s : State} {id : Nat} {c : Cmd} (hc : Runs s id 0x0011 anyCmd c)
  (hp : Passes [entryCheck c [(0x08, 2)] [], deviceCheck s c])
include hc hp

/-- Past the checks of entry and device state, only that of the limit's range decides. -/
theorem exec_setPowerLimit : exec (.setPowerLimit id) s = .next (checked c [params [(0x08, decide (300 ≤ c.p16 0x08 ∧ c.p16 0x08 ≤ 1850))]]
    (fun s => done c s.pwr.limit (withLimit (c.p16 0x08) s).pwr.granted_ (withLimit (c.p16 0x08) s)) s) := by
  have body : exec (.setPowerLimit id) s = .next (doSetLimit c s) := congrArg _ (runCmd_of_runs hc doSetLimit)
  have range := firstFail_append_of_passes hp [params [(0x08, decide (300 ≤ c.p16 0x08 ∧ c.p16 0x08 ≤ 1850))]]
  rw [body]
  unfold doSetLimit checked
  rw [← range]
  rfl

theorem exec_setPowerLimit_of_inRange (lo : 300 ≤ c.p16 0x08) (hi : c.p16 0x08 ≤ 1850) :
    exec (.setPowerLimit id) s = .next (done c s.pwr.limit s.pwr.granted_ (withLimit (c.p16 0x08) s)) := by
  have range : Passes [params [(0x08, decide (300 ≤ c.p16 0x08 ∧ c.p16 0x08 ≤ 1850))]] :=
    (passes_cons _ []).2 ⟨params_none.2 (by simp [lo, hi]), passes_nil⟩
  rw [exec_setPowerLimit hc hp, checked_of_passes range, withLimit_granted]

theorem exec_setPowerLimit_of_outOfRange (h : c.p16 0x08 < 300 ∨ 1850 < c.p16 0x08) :
    exec (.setPowerLimit id) s = .next (complete c stBadParam 0 0 8 s) := by
  have out : decide (300 ≤ c.p16 0x08 ∧ c.p16 0x08 ≤ 1850) = false := decide_eq_false (by omega)
  rw [exec_setPowerLimit hc hp, out]
  rfl

end

/-- Settles O54: the effective limit never exceeds the limit, so a limit below the granted total, which keeps every grant, leaves no
room for any request. -/
theorem powerLimitIsSetWithoutRevokingGrants : Obligations.PowerLimitIsSetWithoutRevokingGrants := by
  refine ⟨rfl, fun s id c hc hp lo hi => ?_, fun s id c hc hp => exec_setPowerLimit_of_outOfRange hc hp⟩
  refine ⟨withLimit (c.p16 0x08) s, exec_setPowerLimit_of_inRange hc hp lo hi, withLimit_pwr _ s, withLimit_side _ s, ?_⟩
  rw [withLimit_limit]
  exact fun low d o items v hv => requestPower_ne_granted_of_limit_lt lo hv low d o items

end Sys2Proof.PowerLimit
end

section
/-! The overflow of an event queue: what writing an entry, ending an overflow and delivering an event do to the queue, to LOST and to
the status registers (R431, R473). -/

namespace Sys2Proof.EventOverflow

open Sys2Proof Sys2Proof.Machine Sys2Proof.Safety Sys2Proof.Claims Sys2Proof.Laws

/-! ## Registers -/

theorem reg_setReg_self {s : State} (h : RegsCanonical s) (k : Nat) (v : U32) : (s.setReg k v).reg k = v :=
  rfGet_rfPut_self k v h

theorem reg_setReg_of_ne {k j : Nat} (h : j ≠ k) (s : State) (v : U32) : (s.setReg k v).reg j = s.reg j :=
  rfGet_rfPut_other k j v h

theorem reg_setRegN_of_ne {k j : Nat} (h : j ≠ k) (s : State) (v : Nat) : (s.setRegN k v).reg j = s.reg j :=
  reg_setReg_of_ne h s _

theorem reg_setReg64_of_ne {kLo kHi j : Nat} (hLo : j ≠ kLo) (hHi : j ≠ kHi) (s : State) (v : Nat) :
    (s.setReg64 kLo kHi v).reg j = s.reg j :=
  (reg_setRegN_of_ne hHi _ _).trans (reg_setRegN_of_ne hLo _ _)

theorem reg_setField_of_ne {k j : Nat} (h : j ≠ k) (s : State) (hi lo v : Nat) : (s.setField k hi lo v).reg j = s.reg j :=
  reg_setReg_of_ne h s _

theorem reg_countWrap_of_ne {k j : Nat} (h : j ≠ k) (s : State) (n : Nat) : (s.countWrap k n).reg j = s.reg j :=
  reg_setReg_of_ne h s _

theorem reg_countSat_of_ne {k j : Nat} (h : j ≠ k) (s : State) (n : Nat) : (s.countSat k n).reg j = s.reg j :=
  reg_setReg_of_ne h s _

/-- A saturating counter stops at the greatest value of 32 bits. -/
theorem toNat_reg_countSat {s : State} (h : RegsCanonical s) (k n : Nat) :
    ((s.countSat k n).reg k).toNat = min ((s.reg k).toNat + n) (2 ^ 32 - 1) := by
  have small : satN 32 ((s.reg k).toNat + n) < 2 ^ 32 := by
    unfold satN
    omega
  exact (congrArg BitVec.toNat (reg_setReg_self h k _)).trans (BitVec.toNat_ofNat .. ▸ Nat.mod_eq_of_lt small)

/-- Setting a field of one bit sets that bit and leaves the others. -/
theorem getLsbD_reg_setField_one {s : State} (h : RegsCanonical s) (k : Nat) {b : Nat} (hb : b < 32) (i : Nat) :
    ((s.setField k b b 1).reg k).getLsbD i = ((s.reg k).getLsbD i || decide (i = b)) := by
  have width : b + 1 - b = 1 := by omega
  have stored : (s.setField k b b 1).reg k =
      (s.reg k &&& ~~~BitVec.twoPow 32 b) ||| (BitVec.twoPow 32 b &&& BitVec.twoPow 32 b) := by
    have bit : BitVec.ofNat 32 (2 ^ b) = BitVec.twoPow 32 b := BitVec.eq_of_toNat_eq (by simp)
    rw [State.setField, State.setMask, reg_setReg_self h, width, ← bit]
    norm_num
  rw [stored, BitVec.and_self, BitVec.getLsbD_or, BitVec.getLsbD_and, BitVec.getLsbD_not, BitVec.getLsbD_twoPow]
  by_cases hi : i = b
  · simp [hi, hb]
  · simpa [hi, Ne.symm hi] using fun h => BitVec.lt_of_getLsbD h

/-! ## The status of an event (R473) -/

/-- The capture of an event and its tick, where none stands yet. -/
def captureFirst (ev tick : Nat) (s : State) : State :=
  if s.field kEvtFirst 15 0 = 0xFFFF then (s.setField kEvtFirst 15 0 ev).setReg64 kEvtFirstLo kEvtFirstHi tick else s

theorem setEventStatus_eq (ev tick : Nat) (s : State) : setEventStatus ev tick s =
    if (s.reg (kEvtStatus (ev / 32))).getLsbD (ev % 32) then s
    else captureFirst ev tick ((s.setField (kEvtStatus (ev / 32)) (ev % 32) (ev % 32) 1).countWrap kEvtSets 1) := rfl

/-- A register outside EVT_FIRST, its tick and EVT_SETS. -/
abbrev OutsideCapture (k : Nat) : Prop := k < kEvtFirst ∨ kEvtSets < k

theorem captureFirst_reg {k : Nat} (h : OutsideCapture k) (ev tick : Nat) (s : State) : (captureFirst ev tick s).reg k = s.reg k := by
  simp only [OutsideCapture, kEvtFirst, kEvtSets] at h
  have hFirst : k ≠ kEvtFirst := by unfold kEvtFirst; omega
  have hLo : k ≠ kEvtFirstLo := by unfold kEvtFirstLo; omega
  have hHi : k ≠ kEvtFirstHi := by unfold kEvtFirstHi; omega
  unfold captureFirst
  split
  · rw [reg_setReg64_of_ne hLo hHi, reg_setField_of_ne hFirst]
  · rfl

theorem captureFirst_countWrap_reg {k : Nat} (h : OutsideCapture k) (ev tick : Nat) (s : State) :
    (captureFirst ev tick (s.countWrap kEvtSets 1)).reg k = s.reg k := by
  have hSets : k ≠ kEvtSets := by
    simp only [OutsideCapture, kEvtFirst, kEvtSets] at h ⊢
    omega
  rw [captureFirst_reg h, reg_countWrap_of_ne hSets]

theorem setEventStatus_reg {k ev : Nat} (h : OutsideCapture k) (hk : k ≠ kEvtStatus (ev / 32)) (tick : Nat) (s : State) :
    (setEventStatus ev tick s).reg k = s.reg k := by
  rw [setEventStatus_eq]
  split
  · rfl
  · rw [captureFirst_countWrap_reg h, reg_setField_of_ne hk]

/-- Of all status bits, setting the status of an event sets its own and leaves the others. -/
theorem getLsbD_reg_setEventStatus {s : State} (h : RegsCanonical s) {ev i b : Nat} (hi : i < 128) (tick : Nat) :
    ((setEventStatus ev tick s).reg (kEvtStatus i)).getLsbD b =
      ((s.reg (kEvtStatus i)).getLsbD b || decide (i = ev / 32 ∧ b = ev % 32)) := by
  have outside : OutsideCapture (kEvtStatus i) := by
    simp only [OutsideCapture, kEvtStatus, kEvtFirst]
    omega
  by_cases word : i = ev / 32
  · subst word
    rw [setEventStatus_eq]
    split
    next already =>
      by_cases hb : b = ev % 32
      · simp [hb, already]
      · simp [hb]
    next =>
      rw [captureFirst_countWrap_reg outside, getLsbD_reg_setField_one h _ (Nat.mod_lt _ (by decide))]
      simp
  · have other : kEvtStatus i ≠ kEvtStatus (ev / 32) := by
      unfold kEvtStatus
      omega
    simp [setEventStatus_reg outside other, word]

@[simp] theorem captureFirst_host (ev tick : Nat) (s : State) : (captureFirst ev tick s).host = s.host := by
  unfold captureFirst
  split <;> rfl

@[simp] theorem captureFirst_mbx (ev tick : Nat) (s : State) : (captureFirst ev tick s).mbx = s.mbx := by
  unfold captureFirst
  split <;> rfl

@[simp] theorem setEventStatus_host (ev tick : Nat) (s : State) : (setEventStatus ev tick s).host = s.host := by
  rw [setEventStatus_eq]
  split
  · rfl
  · exact captureFirst_host _ _ _

@[simp] theorem setEventStatus_mbx (ev tick : Nat) (s : State) : (setEventStatus ev tick s).mbx = s.mbx := by
  rw [setEventStatus_eq]
  split
  · rfl
  · exact captureFirst_mbx _ _ _

/-! ## Signalling a vector (R396) -/

@[simp] theorem signalVector_host (v : Nat) (s : State) : (signalVector v s).host = s.host := by
  unfold signalVector
  split_ifs <;> rfl

@[simp] theorem signalVector_mbx (v : Nat) (s : State) : (signalVector v s).mbx = s.mbx := by
  unfold signalVector
  split_ifs <;> rfl

theorem signalVector_reg {k : Nat} (h : k < kPba 0) (v : Nat) (s : State) : (signalVector v s).reg k = s.reg k := by
  have hk : k ≠ kPba (v / 32) := by
    simp only [kPba] at h ⊢
    omega
  unfold signalVector
  split_ifs
  · rfl
  · exact reg_setField_of_ne hk _ _ _ _
  · rfl

/-! ## Writing an entry (R430, R434) -/

@[simp] theorem evqs_setEvq (n : Fin 4) (f : OutQueue → OutQueue) (s : State) :
    (setEvq n f s).mbx.evqs[n] = f s.mbx.evqs[n] :=
  Vector.getElem_set_self _

/-- The announcement of a queue's unsignalled entries where their count is due. -/
def announceDue (q : OutQueue) : OutQueue := if q.due then q.announced else q

/-- A queue with an entry more, counted toward moderation and announced where the count is due. -/
def entryAdded (q : OutQueue) (up : Nat) : OutQueue := announceDue (q.advance.count up)

@[simp] theorem entryAdded_tail (q : OutQueue) (up : Nat) : (entryAdded q up).tail = q.advance.tail := by
  unfold entryAdded announceDue
  split <;> rfl

@[simp] theorem entryAdded_phase (q : OutQueue) (up : Nat) : (entryAdded q up).phase = q.advance.phase := by
  unfold entryAdded announceDue
  split <;> rfl

@[simp] theorem entryAdded_overflow (q : OutQueue) (up : Nat) : (entryAdded q up).overflow = q.overflow := by
  unfold entryAdded announceDue OutQueue.advance
  split_ifs <;> rfl

/-- The entry of an event at the tail of a queue, which moves on. -/
def withEntry (n : Fin 4) (e : Event) (s : State) : State :=
  setEvq n (fun q => q.advance.count s.clk.up)
    (hostWrite (s.mbx.evqs[n].base + s.mbx.evqs[n].tail * 32) (eventEntry e s.mbx.evqs[n].phase) s)

/-- The signal of a vector that an event may have of its own. -/
def signalOwn (v : Nat) (s : State) : State := if v = 0xFFFF then s else signalVector v s

/-- The moderation of a queue. -/
def moderate (n : Fin 4) (s : State) : State :=
  if s.mbx.evqs[n].due then signalVector s.mbx.evqs[n].vector (setEvq n OutQueue.announced s) else s

theorem hostWrite_mbx (a : Nat) (d : Data) (s : State) : (hostWrite a d s).mbx = s.mbx := by
  unfold hostWrite
  split <;> rfl

theorem hostWrite_regs (a : Nat) (d : Data) (s : State) : (hostWrite a d s).regs = s.regs := by
  unfold hostWrite
  split <;> rfl

/-- An entry is written, then the event's own vector is signalled, then the queue is moderated. -/
theorem evqPut_eq (n : Fin 4) (e : Event) (v : Nat) (s : State) : evqPut n e v s = moderate n (signalOwn v (withEntry n e s)) := by
  unfold withEntry
  rw [← hostWrite_clk s (s.mbx.evqs[n].base + s.mbx.evqs[n].tail * 32) (eventEntry e s.mbx.evqs[n].phase)]
  rfl

@[simp] theorem signalOwn_host (v : Nat) (s : State) : (signalOwn v s).host = s.host := by
  unfold signalOwn
  split <;> simp

@[simp] theorem signalOwn_mbx (v : Nat) (s : State) : (signalOwn v s).mbx = s.mbx := by
  unfold signalOwn
  split <;> simp

theorem signalOwn_reg {k : Nat} (h : k < kPba 0) (v : Nat) (s : State) : (signalOwn v s).reg k = s.reg k := by
  unfold signalOwn
  split
  · rfl
  · exact signalVector_reg h v s

@[simp] theorem moderate_host (n : Fin 4) (s : State) : (moderate n s).host = s.host := by
  unfold moderate
  split <;> simp

theorem moderate_evq (n : Fin 4) (s : State) : (moderate n s).mbx.evqs[n] = announceDue s.mbx.evqs[n] := by
  unfold moderate announceDue
  split
  · simp only [signalVector_mbx, evqs_setEvq]
  · rfl

theorem moderate_reg {k : Nat} (h : k < kPba 0) (n : Fin 4) (s : State) : (moderate n s).reg k = s.reg k := by
  unfold moderate
  split
  · exact signalVector_reg h _ _
  · rfl

@[simp] theorem evqPut_host (n : Fin 4) (e : Event) (v : Nat) (s : State) : (evqPut n e v s).host =
    (hostWrite (s.mbx.evqs[n].base + s.mbx.evqs[n].tail * 32) (eventEntry e s.mbx.evqs[n].phase) s).host := by
  rw [evqPut_eq, moderate_host, signalOwn_host]
  rfl

@[simp] theorem evqPut_evq (n : Fin 4) (e : Event) (v : Nat) (s : State) :
    (evqPut n e v s).mbx.evqs[n] = entryAdded s.mbx.evqs[n] s.clk.up := by
  rw [evqPut_eq, moderate_evq, signalOwn_mbx, withEntry, evqs_setEvq, hostWrite_mbx]
  rfl

theorem evqPut_reg {k : Nat} (h : k < kPba 0) (n : Fin 4) (e : Event) (v : Nat) (s : State) :
    (evqPut n e v s).reg k = s.reg k := by
  rw [evqPut_eq, moderate_reg h, signalOwn_reg h]
  exact congrArg (rfGet · k) (hostWrite_regs _ _ s)

/-! ## Ending an overflow -/

/-- The engine's own entry of an overflow and its status (R431). -/
def overflowNoted (n : Fin 4) (lost : Nat) (s : State) : State :=
  setEventStatus 0x012 s.clk.tick (evqPut n (overflowEntry s lost) 0xFFFF s)

@[simp] theorem overflowNoted_host (n : Fin 4) (lost : Nat) (s : State) : (overflowNoted n lost s).host =
    (hostWrite (s.mbx.evqs[n].base + s.mbx.evqs[n].tail * 32) (eventEntry (overflowEntry s lost) s.mbx.evqs[n].phase) s).host := by
  rw [overflowNoted, setEventStatus_host, evqPut_host]

@[simp] theorem overflowNoted_evq (n : Fin 4) (lost : Nat) (s : State) :
    (overflowNoted n lost s).mbx.evqs[n] = entryAdded s.mbx.evqs[n] s.clk.up := by
  rw [overflowNoted, setEventStatus_mbx, evqPut_evq]

theorem overflowNoted_kept (n : Fin 4) (lost : Nat) (s : State) : Kept s (overflowNoted n lost s) :=
  setEventStatus_kept _ _ _ (evqPut_kept _ _ _ _ (Kept_refl s))

theorem evqResume_of_room {n : Fin 4} {s : State} (ho : s.mbx.evqs[n].overflow = true) (hf : 2 ≤ s.mbx.evqs[n].free) :
    evqResume n s = setEvq n (fun q => { q with overflow := false, lostNow := 0 }) (overflowNoted n s.mbx.evqs[n].lostNow s) :=
  if_pos ⟨ho, hf⟩

theorem evqResume_eq_self {n : Fin 4} {s : State} (h : s.mbx.evqs[n].overflow = false ∨ s.mbx.evqs[n].free < 2) :
    evqResume n s = s := by
  refine if_neg fun ⟨ho, hf⟩ => ?_
  rcases h with h | h
  · exact ne_true_of_eq_false h ho
  · omega

/-- A queue that could resume has resumed. -/
theorem evqResume_evqResume (n : Fin 4) (s : State) : evqResume n (evqResume n s) = evqResume n s := by
  by_cases h : s.mbx.evqs[n].overflow = true ∧ 2 ≤ s.mbx.evqs[n].free
  · refine evqResume_eq_self (.inl ?_)
    rw [evqResume_of_room h.1 h.2, evqs_setEvq]
  · have stays : s.mbx.evqs[n].overflow = false ∨ s.mbx.evqs[n].free < 2 := by
      simpa [imp_iff_not_or] using h
    rw [evqResume_eq_self stays, evqResume_eq_self stays]

/-! ## Delivering an event (R431) -/

theorem evqDeliver_evqResume (n : Fin 4) (e : Event) (v : Nat) (s : State) :
    evqDeliver n e v (evqResume n s) = evqDeliver n e v s := by
  unfold evqDeliver
  rw [evqResume_evqResume]

theorem evqDeliver_of_overflow {n : Fin 4} {s : State} (ho : s.mbx.evqs[n].overflow = true) (hf : s.mbx.evqs[n].free < 2)
    (e : Event) (v : Nat) :
    evqDeliver n e v s = (false, evqLost n 1 (setEvq n (fun q => { q with lostNow := q.lostNow + 1 }) s)) := by
  unfold evqDeliver
  rw [evqResume_eq_self (.inr hf)]
  exact if_pos ho

theorem evqDeliver_of_room {n : Fin 4} {s : State} (ho : s.mbx.evqs[n].overflow = false) (hf : 2 ≤ s.mbx.evqs[n].free)
    (e : Event) (v : Nat) : evqDeliver n e v s = (true, evqPut n e v s) := by
  unfold evqDeliver
  rw [evqResume_eq_self (.inl ho)]
  exact (if_neg (ne_true_of_eq_false ho)).trans (if_pos hf)

theorem evqDeliver_of_reserve {n : Fin 4} {s : State} (ho : s.mbx.evqs[n].overflow = false) (hf : s.mbx.evqs[n].free < 2)
    (e : Event) (v : Nat) :
    evqDeliver n e v s =
      (false, evqLost n 1 (setEvq n (fun q => { q with overflow := true, lostNow := 1 }) (overflowNoted n 0 s))) := by
  unfold evqDeliver
  rw [evqResume_eq_self (.inl ho)]
  exact (if_neg (ne_true_of_eq_false ho)).trans (if_neg (by omega))

/-! ## What is lost -/

theorem overflowNoted_reg_lost (n : Fin 4) (lost : Nat) (s : State) :
    (overflowNoted n lost s).reg (kEvq n 0x14) = s.reg (kEvq n 0x14) := by
  have outside : OutsideCapture (kEvq n 0x14) := by
    simp only [OutsideCapture, kEvq, kEvtSets, bar0Key]
    omega
  have status : kEvq n 0x14 ≠ kEvtStatus (0x012 / 32) := by
    simp only [kEvq, kEvtStatus, bar0Key]
    omega
  have pending : kEvq n 0x14 < kPba 0 := by
    simp only [kEvq, kPba]
    omega
  rw [overflowNoted, setEventStatus_reg outside status, evqPut_reg pending]

theorem toNat_reg_evqLost {s : State} (h : RegsCanonical s) (n : Fin 4) (f : OutQueue → OutQueue) :
    ((evqLost n 1 (setEvq n f s)).reg (kEvq n 0x14)).toNat = min ((s.reg (kEvq n 0x14)).toNat + 1) (2 ^ 32 - 1) :=
  toNat_reg_countSat (s := setEvq n f s) h _ 1

theorem evqLost_evq (n : Fin 4) (k : Nat) (f : OutQueue → OutQueue) (s : State) :
    (evqLost n k (setEvq n f s)).mbx.evqs[n] = f s.mbx.evqs[n] :=
  evqs_setEvq n f s

/-- An event that finds only the reserve free begins an overflow there and is the first to be lost. -/
theorem reserve_begins_overflow {s : State} {n : Fin 4} (hc : RegsCanonical s) (ho : s.mbx.evqs[n].overflow = false)
    (hf : s.mbx.evqs[n].free = 1) (e : Event) (v : Nat) :
    (evqDeliver n e v s).1 = false ∧
    (evqDeliver n e v s).2.host = (hostWrite (s.mbx.evqs[n].base + s.mbx.evqs[n].tail * 32)
      (eventEntry ⟨0x012, s.clk.tick, 0, 0, false, s.link.did⟩ s.mbx.evqs[n].phase) s).host ∧
    (evqDeliver n e v s).2.mbx.evqs[n].overflow = true ∧ (evqDeliver n e v s).2.mbx.evqs[n].lostNow = 1 ∧
    (evqDeliver n e v s).2.mbx.evqs[n].tail = s.mbx.evqs[n].advance.tail ∧
    ((evqDeliver n e v s).2.reg (kEvq n 0x14)).toNat = min ((s.reg (kEvq n 0x14)).toNat + 1) (2 ^ 32 - 1) := by
  rw [evqDeliver_of_reserve ho (by omega)]
  have queue := evqLost_evq n 1 (fun q => { q with overflow := true, lostNow := 1 }) (overflowNoted n 0 s)
  refine ⟨rfl, overflowNoted_host n 0 s, ?_, ?_, ?_, ?_⟩
  · rw [queue]
  · rw [queue]
  · rw [queue, overflowNoted_evq, entryAdded_tail]
  · rw [toNat_reg_evqLost ((overflowNoted_kept n 0 s).regs hc), overflowNoted_reg_lost]

/-- While the overflow lasts, an event is only counted. -/
theorem overflow_counts_lost {s : State} {n : Fin 4} (hc : RegsCanonical s) (ho : s.mbx.evqs[n].overflow = true)
    (hf : s.mbx.evqs[n].free < 2) (e : Event) (v : Nat) :
    (evqDeliver n e v s).1 = false ∧ (evqDeliver n e v s).2.host = s.host ∧
    (evqDeliver n e v s).2.mbx.evqs[n] = { s.mbx.evqs[n] with lostNow := s.mbx.evqs[n].lostNow + 1 } ∧
    ((evqDeliver n e v s).2.reg (kEvq n 0x14)).toNat = min ((s.reg (kEvq n 0x14)).toNat + 1) (2 ^ 32 - 1) := by
  rw [evqDeliver_of_overflow ho hf]
  exact ⟨rfl, rfl, evqLost_evq n 1 _ s, toNat_reg_evqLost hc n _⟩

/-- With two entries free, the end of an overflow is written with what it lost. -/
theorem room_ends_overflow {s : State} {n : Fin 4} (ho : s.mbx.evqs[n].overflow = true) (hf : 2 ≤ s.mbx.evqs[n].free) :
    (evqResume n s).host = (hostWrite (s.mbx.evqs[n].base + s.mbx.evqs[n].tail * 32)
      (eventEntry ⟨0x012, s.clk.tick, s.mbx.evqs[n].lostNow, 0, false, s.link.did⟩ s.mbx.evqs[n].phase) s).host ∧
    (evqResume n s).mbx.evqs[n].overflow = false ∧ (evqResume n s).mbx.evqs[n].lostNow = 0 ∧
    (evqResume n s).mbx.evqs[n].tail = s.mbx.evqs[n].advance.tail ∧ (evqResume n s).mbx.evqs[n].phase = s.mbx.evqs[n].advance.phase := by
  rw [evqResume_of_room ho hf, evqs_setEvq]
  refine ⟨overflowNoted_host n _ s, rfl, rfl, ?_, ?_⟩
  · rw [overflowNoted_evq, entryAdded_tail]
  · rw [overflowNoted_evq, entryAdded_phase]

theorem room_takes_event {s : State} {n : Fin 4} (ho : s.mbx.evqs[n].overflow = false) (hf : 2 ≤ s.mbx.evqs[n].free)
    (e : Event) (v : Nat) :
    (evqDeliver n e v s).1 = true ∧
    (evqDeliver n e v s).2.host = (hostWrite (s.mbx.evqs[n].base + s.mbx.evqs[n].tail * 32) (eventEntry e s.mbx.evqs[n].phase) s).host ∧
    (evqDeliver n e v s).2.mbx.evqs[n].tail = s.mbx.evqs[n].advance.tail ∧ (evqDeliver n e v s).2.mbx.evqs[n].overflow = false := by
  rw [evqDeliver_of_room ho hf, evqPut_evq]
  exact ⟨rfl, evqPut_host n e v s, entryAdded_tail _ _, (entryAdded_overflow _ _).trans ho⟩

/-! ## An event's status outlasts its delivery (R473) -/

/-- The status bit of an event is set, in a register file in canonical form. -/
structure Reported (ev : Nat) (s : State) : Prop where
  canonical : RegsCanonical s
  bitSet : (s.reg (kEvtStatus (ev / 32))).getLsbD (ev % 32) = true

section
variable {ev : Nat} {s : State}

theorem Reported.of_regs_eq {t : State} (h : Reported ev s) (hr : t.regs = s.regs) : Reported ev t := by
  obtain ⟨canonical, bitSet⟩ := h
  constructor
  · rwa [RegsCanonical, hr]
  · rwa [State.reg, hr]

theorem Reported.of_reg_eq {t : State} (h : Reported ev s) (hk : Kept s t)
    (hr : t.reg (kEvtStatus (ev / 32)) = s.reg (kEvtStatus (ev / 32))) : Reported ev t :=
  ⟨hk.regs h.canonical, hr ▸ h.bitSet⟩

theorem reported_setEventStatus_self (hev : ev < 4096) (hc : RegsCanonical s) (tick : Nat) :
    Reported ev (setEventStatus ev tick s) :=
  ⟨(setEventStatus_kept _ _ _ (Kept_refl s)).regs hc, by simp [getLsbD_reg_setEventStatus hc (show ev / 32 < 128 by omega)]⟩

variable (hev : ev < 4096) (h : Reported ev s)
include hev h

theorem reported_setEventStatus (other tick : Nat) : Reported ev (setEventStatus other tick s) :=
  ⟨(setEventStatus_kept _ _ _ (Kept_refl s)).regs h.canonical,
    by simp [getLsbD_reg_setEventStatus h.canonical (show ev / 32 < 128 by omega), h.bitSet]⟩

theorem reported_evqPut (n : Fin 4) (e : Event) (v : Nat) : Reported ev (evqPut n e v s) := by
  have status : kEvtStatus (ev / 32) < kPba 0 := by
    simp only [kEvtStatus, kPba, bar0Key]
    omega
  exact h.of_reg_eq (evqPut_kept _ _ _ _ (Kept_refl s)) (evqPut_reg status n e v s)

theorem reported_overflowNoted (n : Fin 4) (lost : Nat) : Reported ev (overflowNoted n lost s) :=
  reported_setEventStatus hev (reported_evqPut hev h n _ _) _ _

theorem reported_evqLost (n : Fin 4) (k : Nat) (f : OutQueue → OutQueue) : Reported ev (evqLost n k (setEvq n f s)) := by
  have status : kEvtStatus (ev / 32) ≠ kEvq n 0x14 := by
    simp only [kEvtStatus, kEvq, bar0Key]
    omega
  exact h.of_reg_eq (evqLost_kept _ _ _ (setEvq_kept _ _ _ (Kept_refl s))) (reg_countSat_of_ne status _ _)

theorem reported_evqResume (n : Fin 4) : Reported ev (evqResume n s) := by
  dsimp only [evqResume]
  split
  · exact (reported_overflowNoted hev h n _).of_regs_eq rfl
  · exact h

theorem reported_evqDeliver (n : Fin 4) (e : Event) (v : Nat) : Reported ev (evqDeliver n e v s).2 := by
  have resumed := reported_evqResume hev h n
  dsimp only [evqDeliver]
  split_ifs
  · exact reported_evqLost hev resumed n 1 _
  · exact reported_evqPut hev resumed n e v
  · exact reported_evqLost hev (reported_overflowNoted hev resumed n 0) n 1 _

omit hev in
theorem reported_evqLog (n : Fin 4) (e : Event) : Reported ev (evqLog n e s) := by
  dsimp only [evqLog]
  split <;> exact h.of_regs_eq rfl

theorem reported_evqAccept (n : Fin 4) (e : Event) (v : Nat) : Reported ev (evqAccept n e v s).2 := by
  unfold evqAccept
  split
  · exact reported_evqDeliver hev h n e v
  · exact reported_evqLog h n e

omit hev in
theorem reported_send (p : Packet) : Reported ev (send p s) := by
  unfold send sendOn
  split
  · split
    · exact h.of_regs_eq rfl
    · exact h
  · exact h.of_regs_eq rfl

theorem reported_routeEvent (e : Event) : Reported ev (routeEvent e s).2 := by
  dsimp only [routeEvent]
  split
  · split
    · exact h
    · exact reported_send h _
  · split
    · exact reported_evqAccept hev h _ e _
    · exact h

end

/-- Whatever becomes of an event's entry, its status is set. -/
theorem reported_raise {s : State} {ev : Nat} (hc : RegsCanonical s) (hev : ev < 4096) (vals : List Val) :
    Reported ev (raise ev vals s) := by
  unfold raise raiseW
  extract_lets +onlyGivenNames withStatus a b d e _ _ counted _ counting held
  have status : Reported ev withStatus := reported_setEventStatus_self hev hc s.clk.tick
  have before : Reported ev counting := by
    unfold counting
    split <;> exact status.of_regs_eq rfl
  split
  · exact before
  · extract_lets r
    have after : Reported ev r.2 := reported_routeEvent hev before e
    split
    · exact after.of_regs_eq rfl
    · exact after

/-- Settles O57: by the three states of a queue in which an event can find it, overflowing, with room, and down to its reserve. -/
theorem overflowKeepsOneEntryInReserve : Obligations.OverflowKeepsOneEntryInReserve := by
  refine ⟨?reserve, ?overflowing, ?ends, ?stays, ?deliveryResumes, ?headMoves, ?room, ?status⟩
  case reserve => exact fun _ _ e v hc ho hf => reserve_begins_overflow hc ho hf e v
  case overflowing => exact fun _ _ e v hc ho hf => overflow_counts_lost hc ho hf e v
  case ends => exact fun _ _ => room_ends_overflow
  case stays => exact fun _ _ => evqResume_eq_self
  case deliveryResumes => exact fun s n e v => (evqDeliver_evqResume n e v s).symm
  case headMoves => exact fun _ _ _ taken => if_pos taken
  case room => exact fun _ _ e v ho hf => room_takes_event ho hf e v
  case status => exact fun _ _ vals hc hev => (reported_raise hc hev vals).bitSet

end Sys2Proof.EventOverflow
end

section
/-! Power requests: the derated limit, and what a request of a command or of an engine comes to (R502, R503, R505). -/

namespace Sys2Proof.PowerRequests

open Sys2Proof Sys2Proof.Machine Sys2Proof.Claims Sys2Proof.Laws Sys2Proof.PowerLimit

/-! ## The effective limit (R505) -/

/-- The started degrees above 100.0 °C, rounded up by the model before it divides, are the whole degrees that the negated distance
rounds down to. -/
theorem startedDegrees_eq {tj : Int} (hot : 6400 < tj) : (tj - 6400 + 63).toNat / 64 = (-((6400 - tj) / 64)).toNat := by
  omega

theorem effectiveLimit_eq (limit : Nat) (tj : Int) :
    effectiveLimit limit tj = if tj ≤ 6400 then limit else max 300 (limit - 50 * (-((6400 - tj) / 64)).toNat) := by
  unfold effectiveLimit
  split
  next => rfl
  next hot => rw [startedDegrees_eq (not_le.1 hot)]

/-! ## The power ledger after each way a request can end -/

/-- A denial's event leaves the ledger alone, so its counter is all that changes there. -/
theorem denyPower_pwr (tag : U32) (units : Nat) (s : State) :
    (denyPower tag units s).pwr = { s.pwr with denied := satN 32 (s.pwr.denied + 1) } :=
  Side_pwr (raise_side _ _ _ (Side_refl _))

theorem queuePower_pwr (r : PowerReq) (s : State) : (queuePower r s).pwr =
    { s.pwr with queue := s.pwr.queue ++ [r], deferrals := satN 32 (s.pwr.deferrals + 1) } :=
  Side_pwr (raise_side _ _ _ (Side_refl _))

theorem denyPower_grants (tag : U32) (units : Nat) (s : State) : (denyPower tag units s).pwr.grants = s.pwr.grants := by
  rw [denyPower_pwr]

theorem denyPower_queue (tag : U32) (units : Nat) (s : State) : (denyPower tag units s).pwr.queue = s.pwr.queue := by
  rw [denyPower_pwr]

theorem queuePower_grants (r : PowerReq) (s : State) : (queuePower r s).pwr.grants = s.pwr.grants := by
  rw [queuePower_pwr]

theorem queuePower_queue (r : PowerReq) (s : State) : (queuePower r s).pwr.queue = s.pwr.queue ++ [r] := by
  rw [queuePower_pwr]

theorem grantItems_granted (o : Owner) (l : List (Nat × Nat)) (s : State) :
    (grantItems o l s).pwr.granted_ = s.pwr.granted_ + cost l := by
  simp [grantItems, setPower, Power.granted_, Nat.add_assoc]

/-! ## What decides a request (R502) -/

/-- The base is part of the granted total. -/
theorem powerBase_le_granted (p : Power) : 380 ≤ p.granted_ := Nat.le_add_right _ _

theorem powerPossible_iff {p : Power} {units : Nat} :
    powerPossible p units = true ↔ 380 < p.effective ∧ 380 + units ≤ p.effective :=
  decide_eq_true_iff.trans (and_congr_right fun base => Nat.le_sub_iff_add_le' base.le)

theorem not_powerPossible {p : Power} {units : Nat} (h : p.effective < 380 + units ∨ p.effective ≤ 380) :
    ¬ powerPossible p units = true := by
  rw [powerPossible_iff]
  omega

theorem powerPossible_of_fits {p : Power} {units : Nat} (base : 380 < p.effective) (fits : p.granted_ + units ≤ p.effective) :
    powerPossible p units = true :=
  powerPossible_iff.2 ⟨base, (Nat.add_le_add_right (powerBase_le_granted p) units).trans fits⟩

/-- A request waits behind those queued before it, and for the units it lacks. -/
theorem not_grantable {p : Power} {units : Nat} (h : p.queue ≠ [] ∨ p.effective < p.granted_ + units) :
    ¬ (p.queue = [] ∧ powerFits p units = true) := by
  rintro ⟨empty, fits⟩
  exact h.elim (absurd empty) (not_lt.2 (of_decide_eq_true fits))

section
variable {s : State} {l : List (Nat × Nat)}

/-! ## A command's request -/

theorem requestPower_of_not_possible (h : ¬ powerPossible s.pwr (cost l) = true) (c : Cmd) (o : Owner) :
    requestPower c o l s = (.denied, denyPower (BitVec.ofNat 32 c.tag) (cost l) s) :=
  if_pos h

theorem requestPower_of_fits (possible : powerPossible s.pwr (cost l) = true) (empty : s.pwr.queue = [])
    (fits : s.pwr.granted_ + cost l ≤ s.pwr.effective) (c : Cmd) (o : Owner) :
    requestPower c o l s = (.granted, grantItems o l s) :=
  (if_neg (not_not_intro possible)).trans (if_pos ⟨empty, decide_eq_true fits⟩)

section
variable (possible : powerPossible s.pwr (cost l) = true)
  (waits : s.pwr.queue ≠ [] ∨ s.pwr.effective < s.pwr.granted_ + cost l)
include possible waits

/-- A possible request that cannot be granted now is deferred under NO_WAIT, and otherwise queued where the queue has room. -/
theorem requestPower_of_waits (c : Cmd) (o : Owner) : requestPower c o l s =
    if c.noWait then (.deferred, setPower (fun p => { p with nowait := satN 32 (p.nowait + 1) }) s)
    else if 64 ≤ s.pwr.queue.length then (.busy, s)
    else (.queued, queuePower ⟨o, l, BitVec.ofNat 32 c.tag, c.opcode, s.clk.up, some c.id⟩ s) :=
  (if_neg (not_not_intro possible)).trans (if_neg (not_grantable waits))

theorem requestPower_grants_of_waits (c : Cmd) (o : Owner) : (requestPower c o l s).2.pwr.grants = s.pwr.grants := by
  rw [requestPower_of_waits possible waits]
  split_ifs with noWait full
  · rfl
  · rfl
  · exact queuePower_grants _ s

theorem requestPower_of_noWait {c : Cmd} (h : c.noWait = true) (o : Owner) :
    requestPower c o l s = (.deferred, setPower (fun p => { p with nowait := satN 32 (p.nowait + 1) }) s) :=
  (requestPower_of_waits possible waits c o).trans (if_pos h)

theorem requestPower_of_full {c : Cmd} (h : c.noWait = false) (full : 64 ≤ s.pwr.queue.length) (o : Owner) :
    requestPower c o l s = (.busy, s) := by
  rw [requestPower_of_waits possible waits, if_neg (ne_true_of_eq_false h), if_pos full]

theorem requestPower_of_room {c : Cmd} (h : c.noWait = false) (room : s.pwr.queue.length < 64) (o : Owner) :
    requestPower c o l s = (.queued, queuePower ⟨o, l, BitVec.ofNat 32 c.tag, c.opcode, s.clk.up, some c.id⟩ s) := by
  rw [requestPower_of_waits possible waits, if_neg (ne_true_of_eq_false h), if_neg (not_le.2 room)]

end

/-! ## An engine's request -/

theorem requestInternal_of_not_possible (h : ¬ powerPossible s.pwr (cost l) = true) (tag : Nat) (o : Owner) :
    requestInternal tag o l s = (.denied, denyPower (BitVec.ofNat 32 tag) (cost l) s) :=
  if_pos h

theorem requestInternal_of_fits (possible : powerPossible s.pwr (cost l) = true) (empty : s.pwr.queue = [])
    (fits : s.pwr.granted_ + cost l ≤ s.pwr.effective) (tag : Nat) (o : Owner) :
    requestInternal tag o l s = (.granted, grantItems o l s) :=
  (if_neg (not_not_intro possible)).trans (if_pos ⟨empty, decide_eq_true fits⟩)

section
variable (possible : powerPossible s.pwr (cost l) = true)
  (waits : s.pwr.queue ≠ [] ∨ s.pwr.effective < s.pwr.granted_ + cost l)
include possible waits

/-- An engine's request is never deferred: it is queued, or denied where the queue is full (R503). -/
theorem requestInternal_of_waits (tag : Nat) (o : Owner) : requestInternal tag o l s =
    if 64 ≤ s.pwr.queue.length then (.denied, denyPower (BitVec.ofNat 32 tag) (cost l) s)
    else (.queued, queuePower ⟨o, l, BitVec.ofNat 32 tag, 0, s.clk.up, none⟩ s) :=
  (if_neg (not_not_intro possible)).trans (if_neg (not_grantable waits))

theorem requestInternal_grants_of_waits (tag : Nat) (o : Owner) :
    (requestInternal tag o l s).2.pwr.grants = s.pwr.grants := by
  rw [requestInternal_of_waits possible waits]
  split_ifs with full
  · exact denyPower_grants _ _ s
  · exact queuePower_grants _ s

theorem requestInternal_of_full (full : 64 ≤ s.pwr.queue.length) (tag : Nat) (o : Owner) :
    requestInternal tag o l s = (.denied, denyPower (BitVec.ofNat 32 tag) (cost l) s) :=
  (requestInternal_of_waits possible waits tag o).trans (if_pos full)

theorem requestInternal_of_room (room : s.pwr.queue.length < 64) (tag : Nat) (o : Owner) :
    requestInternal tag o l s = (.queued, queuePower ⟨o, l, BitVec.ofNat 32 tag, 0, s.clk.up, none⟩ s) :=
  (requestInternal_of_waits possible waits tag o).trans (if_neg (not_le.2 room))

end
end

/-- Settles O60: by whether the cost is possible at all, whether it can be granted now, and whether the queue has room. -/
theorem powerRequestsAreDecided : Obligations.PowerRequestsAreDecided := by
  refine ⟨rfl, effectiveLimit_eq, setEffective_pwr, ?denied, ?granted, ?waits, ?internalDenied, ?internalGranted, ?internalWaits,
    fun _ _ _ _ _ _ => ⟨rfl, rfl⟩⟩
  case denied =>
    intro c o l s h
    rw [requestPower_of_not_possible (not_powerPossible h)]
    exact ⟨rfl, denyPower_pwr _ _ s⟩
  case granted =>
    intro c o l s base empty fits
    rw [requestPower_of_fits (powerPossible_of_fits base fits) empty fits]
    exact ⟨rfl, rfl, grantItems_granted o l s, empty⟩
  case waits =>
    intro c o l s base cost_le waits
    have possible : powerPossible s.pwr (cost l) = true := powerPossible_iff.2 ⟨base, cost_le⟩
    refine ⟨requestPower_grants_of_waits possible waits c o, fun noWait => ?_,
      fun wait full => requestPower_of_full possible waits wait full o, fun wait room => ?_⟩
    · rw [requestPower_of_noWait possible waits noWait]
      exact ⟨rfl, rfl⟩
    · rw [requestPower_of_room possible waits wait room]
      exact ⟨rfl, queuePower_queue _ s⟩
  case internalDenied =>
    intro tag o l s h
    rw [requestInternal_of_not_possible (not_powerPossible h)]
    exact ⟨rfl, denyPower_grants _ _ s, denyPower_queue _ _ s⟩
  case internalGranted =>
    intro tag o l s base empty fits
    rw [requestInternal_of_fits (powerPossible_of_fits base fits) empty fits]
    exact ⟨rfl, rfl⟩
  case internalWaits =>
    intro tag o l s base cost_le waits
    have possible : powerPossible s.pwr (cost l) = true := powerPossible_iff.2 ⟨base, cost_le⟩
    refine ⟨requestInternal_grants_of_waits possible waits tag o, fun full => ?_, fun room => ?_⟩
    · rw [requestInternal_of_full possible waits full]
      exact ⟨rfl, denyPower_queue _ _ s⟩
    · rw [requestInternal_of_room possible waits room]
      exact ⟨rfl, queuePower_queue _ s⟩

end Sys2Proof.PowerRequests
end

section
/-! Ranked GAP causes: the order of R559, what a lost span of a ring carries, and what a merge (R91) and an overlap (R65) of holes keep. -/

namespace Sys2Proof.GapCauses

open Sys2Proof Sys2Proof.Machine Sys2Proof.Claims

/-! ## The order of the causes (R559) -/

/-- A cause's rank counts its place in the order from the end; what is no cause has rank 0 and stands behind the last. -/
theorem causeRank_add_idxOf_ranks (c : Nat) : causeRank c + ranks.idxOf c = 10 := by
  unfold causeRank
  split
  case h_11 => rw [List.idxOf_of_notMem (by simp_all [ranks])]; rfl
  all_goals rfl

theorem idxOf_ranks_le_iff {a b : Nat} : ranks.idxOf a ≤ ranks.idxOf b ↔ causeRank b ≤ causeRank a := by
  have ha := causeRank_add_idxOf_ranks a
  have hb := causeRank_add_idxOf_ranks b
  omega

theorem highestOf_iff {c : Nat} {l : List Nat} : HighestOf c l ↔ c ∈ l ∧ ∀ d ∈ l, causeRank d ≤ causeRank c := by
  simp only [HighestOf, idxOf_ranks_le_iff]

theorem highestOf_singleton (c : Nat) : HighestOf c [c] := by
  simp [HighestOf]

theorem highestOf_pair_comm {c a b : Nat} : HighestOf c [a, b] ↔ HighestOf c [b, a] := by
  simp only [highestOf_iff, (List.Perm.swap b a []).mem_iff]

theorem worseCause_of_lt {a b : Nat} (h : causeRank a < causeRank b) : worseCause a b = b := if_pos h

theorem worseCause_of_le {a b : Nat} (h : causeRank b ≤ causeRank a) : worseCause a b = a := if_neg (not_lt.2 h)

theorem worseCause_mem_pair (a b : Nat) : worseCause a b ∈ [a, b] := by
  unfold worseCause
  split <;> simp

@[simp] theorem causeRank_worseCause (a b : Nat) : causeRank (worseCause a b) = max (causeRank a) (causeRank b) := by
  obtain h | h := lt_or_ge (causeRank a) (causeRank b)
  · rw [worseCause_of_lt h, max_eq_right h.le]
  · rw [worseCause_of_le h, max_eq_left h]

/-- The higher of two causes stands for both of them. -/
theorem highestOf_of_worseCause_cons {c a b : Nat} {l : List Nat} (h : HighestOf c (worseCause a b :: l)) :
    HighestOf c (a :: b :: l) := by
  obtain ⟨mem, top⟩ := highestOf_iff.1 h
  obtain ⟨top_pair, top_rest⟩ := List.forall_mem_cons.1 top
  rw [causeRank_worseCause, max_le_iff] at top_pair
  refine highestOf_iff.2 ⟨?_, List.forall_mem_cons.2 ⟨top_pair.1, List.forall_mem_cons.2 ⟨top_pair.2, top_rest⟩⟩⟩
  obtain rfl | mem := List.mem_cons.1 mem
  · exact List.mem_append_left l (worseCause_mem_pair a b)
  · exact List.mem_append_right [a, b] mem

theorem highestOf_foldl_worseCause (cs : List Nat) (c : Nat) : HighestOf (cs.foldl worseCause c) (c :: cs) := by
  induction cs generalizing c with
  | nil => exact highestOf_singleton c
  | cons d ds ih => exact highestOf_of_worseCause_cons (ih (worseCause c d))

theorem highestOf_worseCause (a b : Nat) : HighestOf (worseCause a b) [a, b] := highestOf_foldl_worseCause [b] a

/-! ## A lost span of a ring (R13, R16, R559) -/

theorem highestOf_of_spanGap_eq_some {r : Ring} {t0 t1 o c : Nat} (h : spanGap r t0 t1 o = some c) :
    HighestOf c (spanCauses r t0 t1 o) := by
  unfold spanGap at h
  split at h
  next => nomatch h
  next d ds causes =>
    obtain rfl := Option.some.inj h
    rw [causes]
    exact highestOf_foldl_worseCause ds d

theorem spanGap_eq_none_iff {r : Ring} {t0 t1 o : Nat} : spanGap r t0 t1 o = none ↔ spanCauses r t0 t1 o = [] := by
  unfold spanGap
  split
  next causes => simp [causes]
  next causes => simp [causes]

theorem spanCauses_eq_nil_iff {r : Ring} {t0 t1 o : Nat} : spanCauses r t0 t1 o = [] ↔
    (∀ h ∈ r.holes, ¬ (h.start < t1 ∧ t0 < h.stop)) ∧ r.oldest ≤ t0 ∧ ∀ p ∈ r.poisoned, ¬ (p.start < t1 ∧ t0 < p.stop) := by
  simp [spanCauses, holesIn]

theorem frameUnit_gap_of_spanGap {s : State} {t : Task} {k e o c : Nat} {b : Bool} {l : List (Nat × Nat)} {n : Fin 4}
    (inlet : t.inlet = some n)
    (lost : spanGap s.inlets[n].ring (t.frameTime k / 65536) (ceilDiv (t.frameStop k) 65536) o = some c) :
    (frameUnit s t k e o b l).gap = some c := by
  simp only [frameUnit, inlet, lost, gapUnit]

/-! ## A hole over a hole of the same span (R65) -/

/-- A hole leaves nothing of a span that it covers. -/
theorem cutSpan_eq_nil {h x : Hole} (start : h.start = x.start) (stop : h.stop = x.stop) (pos : x.start < x.stop) : cutSpan h x = [] := by
  simp [cutSpan, start, stop, pos]

theorem insertHole_of_higher {n h : Hole} (start : n.start = h.start) (stop : n.stop = h.stop) (pos : n.start < n.stop)
    (higher : causeRank h.cause < causeRank n.cause) : insertHole n [h] = [n] := by
  have covered : cutSpan n h = [] := cutSpan_eq_nil start stop (by omega)
  simp [insertHole, newParts, higher, covered, sortBy, sortBy.put, joinHoles]

theorem insertHole_of_not_higher {n h : Hole} (start : n.start = h.start) (stop : n.stop = h.stop) (pos : n.start < n.stop)
    (notHigher : causeRank n.cause ≤ causeRank h.cause) : insertHole n [h] = [h] := by
  have covered : cutSpan h n = [] := cutSpan_eq_nil start.symm stop.symm pos
  simp [insertHole, newParts, not_lt.2 notHigher, covered, sortBy, sortBy.put, joinHoles]

/-- Where the ranks are equal the listed hole stands. -/
theorem insertHole_of_same_span {n h : Hole} (start : n.start = h.start) (stop : n.stop = h.stop) (pos : n.start < n.stop) :
    insertHole n [h] = [⟨n.start, n.stop, worseCause h.cause n.cause⟩] := by
  obtain higher | notHigher := lt_or_ge (causeRank h.cause) (causeRank n.cause)
  · rw [insertHole_of_higher start stop pos higher, worseCause_of_lt higher]
  · rw [insertHole_of_not_higher start stop pos notHigher, worseCause_of_le notHigher, start, stop]

/-- Settles O53: every cause that the model keeps is a fold of `worseCause` over the causes it stands for. -/
theorem gapsCarryTheHighestRankedCause : Obligations.GapsCarryTheHighestRankedCause := by
  refine ⟨?pair, ?lostSpan, ?wholeSpan, ?frame, ?merge, ?overlap⟩
  case pair => exact fun a b _ _ => highestOf_worseCause a b
  case lostSpan => exact fun _ _ _ _ _ => highestOf_of_spanGap_eq_some
  case wholeSpan => exact fun _ _ _ _ => spanGap_eq_none_iff.trans spanCauses_eq_nil_iff
  case frame => exact fun _ _ _ _ _ _ _ _ _ => frameUnit_gap_of_spanGap
  case merge => exact fun a b l _ _ => ⟨_, rfl, rfl, rfl, highestOf_worseCause a.cause b.cause⟩
  case overlap =>
    intro n h _ _ start stop pos
    exact ⟨_, insertHole_of_same_span start stop pos, rfl, rfl, highestOf_pair_comm.1 (highestOf_worseCause h.cause n.cause)⟩

end Sys2Proof.GapCauses
end

section
/-! What every command and every step keeps: exec never stops, leaves the waiting commands, and keeps what `Kept` names; the three
obligations about all commands follow. -/

namespace Sys2Proof.EveryCommand

open Sys2Proof Sys2Proof.Machine Sys2Proof.Safety Sys2Proof.Claims Sys2Proof.Laws

/-! ## The four ways in: a mailbox row, a packet, a BAR access, a line of the monitor -/

section

variable {s : State}

theorem command_kept {id opcode : Nat} {sel : Cmd → Bool} {body : Cmd → State → State}
    (keeps : ∀ c u, Kept s u → Kept s (body c u)) : Kept s (runCmd id opcode sel body s) := runCmd_kept _ _ _ _ s keeps (Kept_refl s)

theorem arrival_kept {n : Fin 4} {p : Packet} {f : State → State} (keeps : ∀ u, Kept s u → Kept s (f u)) : Kept s (arrives n p f s) :=
  arrives_kept _ _ _ s keeps (Kept_refl s)

theorem access_kept {f : State → State} (keeps : ∀ u, Kept s u → Kept s (f u)) : Kept s (barAccess f s) :=
  barAccess_kept _ s keeps (Kept_refl s)

theorem doorbellWrite_kept {small : Bool} {size value : Nat} {f : Nat → State → State} (keeps : ∀ n u, Kept s u → Kept s (f n u)) :
    Kept s (barAccess (doorbell small size value f) s) := access_kept fun u => doorbell_kept _ _ _ _ u keeps

theorem line_kept {recovery : Bool} {f : State → State} (keeps : ∀ u, Kept s u → Kept s (f u)) : Kept s (monitorRow recovery f s) :=
  monitorRow_kept _ _ s keeps (Kept_refl s)

theorem lineRejected_kept (overflow : Bool) (u : State) (h : Kept s u) :
    Kept s (if overflow = true then errArg u else answerErr 1 "unknown command" u) := by
  split
  · exact errArg_kept u h
  · exact answerErr_kept _ _ u h

end

/-- Every command answers a next state, and that state keeps what commands keep: row by row of the dispatch. -/
theorem exec_kept : ∀ (c : Instr) (s : State), Gives c s (Kept s)
  | .devIdentify .., _ => ⟨_, rfl, command_kept doDevIdentify_kept⟩
  | .devStatus .., _ => ⟨_, rfl, command_kept doDevStatus_kept⟩
  | .devResetDevice .., _ => ⟨_, rfl, command_kept (resetLater_kept _)⟩
  | .devResetTile .., _ => ⟨_, rfl, command_kept (doResetTile_kept _)⟩
  | .devResetStoreChannel .., _ => ⟨_, rfl, command_kept doResetChannel_kept⟩
  | .devResetLinkPort .., _ => ⟨_, rfl, command_kept doResetPort_kept⟩
  | .devResetScanout .., _ => ⟨_, rfl, command_kept doResetScan_kept⟩
  | .devResetMailbox .., _ => ⟨_, rfl, command_kept (resetLater_kept _)⟩
  | .devResetDelayedAction, s => ⟨_, rfl, doDelayedReset_kept s (Kept_refl s)⟩
  | .setLatencyTolerance .., _ => ⟨_, rfl, command_kept doSetTolerance_kept⟩
  | .setPowerLimit .., _ => ⟨_, rfl, command_kept doSetLimit_kept⟩
  | .powerQuery .., _ => ⟨_, rfl, command_kept doPowerQuery_kept⟩
  | .timebaseSet .., _ => ⟨_, rfl, command_kept doTimebaseSet_kept⟩
  | .timebaseDiscipline .., _ => ⟨_, rfl, command_kept doDiscipline_kept⟩
  | .inletConfig .., _ => ⟨_, rfl, command_kept doInletConfig_kept⟩
  | .inletStart .., _ => ⟨_, rfl, command_kept doInletStart_kept⟩
  | .inletStartStepTimeout .., s => ⟨_, rfl, doInletStartStepTimeout_kept _ _ s (Kept_refl s)⟩
  | .inletStop .., _ => ⟨_, rfl, command_kept doInletStop_kept⟩
  | .inletStopTickReached .., s => ⟨_, rfl, doInletStopTick_kept _ s (Kept_refl s)⟩
  | .inletStatus .., _ => ⟨_, rfl, command_kept doInletStatus_kept⟩
  | .storeRegionAlloc .., _ => ⟨_, rfl, command_kept doStoreRegionAlloc_kept⟩
  | .storeRegionFree .., _ => ⟨_, rfl, command_kept doStoreRegionFree_kept⟩
  | .storeMapQuery .., _ => ⟨_, rfl, command_kept doStoreMapQuery_kept⟩
  | .specTaskCreate .., _ => ⟨_, rfl, command_kept (doSpecTaskCreate_kept _ _)⟩
  | .specTaskModify .., _ => ⟨_, rfl, command_kept (doSpecTaskModify_kept _ _)⟩
  | .specTaskDestroy .., _ => ⟨_, rfl, command_kept doSpecTaskDestroy_kept⟩
  | .specTaskPlace .., _ => ⟨_, rfl, command_kept doSpecTaskPlace_kept⟩
  | .retroJobSubmit .., _ => ⟨_, rfl, command_kept (doRetroJobSubmit_kept _ _)⟩
  | .xcorrCreate .., _ => ⟨_, rfl, command_kept (doXcorrCreate_kept _)⟩
  | .xcorrDestroy .., _ => ⟨_, rfl, command_kept (doXcorrDestroy_kept _)⟩
  | .trigUnitConfig .., _ => ⟨_, rfl, command_kept (doTrigUnitConfig_kept _)⟩
  | .trigUnitQuery .., _ => ⟨_, rfl, command_kept doTrigUnitQuery_kept⟩
  | .trigMatrixConfig .., _ => ⟨_, rfl, command_kept doTrigMatrixConfig_kept⟩
  | .trigMatrixQuery .., _ => ⟨_, rfl, command_kept doTrigMatrixQuery_kept⟩
  | .acqConfig .., _ => ⟨_, rfl, command_kept (doAcqConfig_kept _)⟩
  | .groupRegistrationTimeout .., s => ⟨_, rfl, doGroupRegistrationTimeout_kept _ s (Kept_refl s)⟩
  | .arm .., _ => ⟨_, rfl, command_kept doArm_kept⟩
  | .groupArmConfirmDeadline .., s => ⟨_, rfl, doArmDeadline_kept _ s (Kept_refl s)⟩
  | .groupArmTick .., s => ⟨_, rfl, doGroupArmTick_kept _ s (Kept_refl s)⟩
  | .disarm .., _ => ⟨_, rfl, command_kept doDisarm_kept⟩
  | .disarmDecisionBoundElapsed .., s => ⟨_, rfl, doDisarmBound_kept _ s (Kept_refl s)⟩
  | .forceFireAt .., _ => ⟨_, rfl, command_kept doForceFireAt_kept⟩
  | .forceFireUnit .., _ => ⟨_, rfl, command_kept doForceFireUnit_kept⟩
  | .forceFireTickReached, s => ⟨_, rfl, doForceTick_kept s (Kept_refl s)⟩
  | .densityConfigure .., _ => ⟨_, rfl, command_kept (doDensityConfigure_kept _)⟩
  | .densityRemove .., _ => ⟨_, rfl, command_kept doDensityRemove_kept⟩
  | .densityQuery .., _ => ⟨_, rfl, command_kept doDensityQuery_kept⟩
  | .densityClear .., _ => ⟨_, rfl, command_kept doDensityClear_kept⟩
  | .densityClearSweep, s => ⟨_, rfl, doDensityClearSweep_kept s (Kept_refl s)⟩
  | .streamOpen .., _ => ⟨_, rfl, command_kept doStreamOpen_kept⟩
  | .streamQuery .., _ => ⟨_, rfl, command_kept doStreamQuery_kept⟩
  | .streamClose .., _ => ⟨_, rfl, command_kept doStreamClose_kept⟩
  | .nvmeDelegate .., _ => ⟨_, rfl, command_kept (doNvmeDelegate_kept _)⟩
  | .linkEnumerate .., _ => ⟨_, rfl, command_kept doLinkEnumerate_kept⟩
  | .linkStatusQuery .., _ => ⟨_, rfl, command_kept doLinkStatusQuery_kept⟩
  | .linkPortUp .., _ => ⟨_, rfl, command_kept doLinkPortUp_kept⟩
  | .linkPortDown .., _ => ⟨_, rfl, command_kept doLinkPortDown_kept⟩
  | .linkPortRetrain .., _ => ⟨_, rfl, command_kept doLinkPortRetrain_kept⟩
  | .linkRouteQuery .., _ => ⟨_, rfl, command_kept doLinkRouteQuery_kept⟩
  | .eventRoute .., _ => ⟨_, rfl, command_kept doEventRoute_kept⟩
  | .eventUnmask .., _ => ⟨_, rfl, command_kept (doEventMask_kept _)⟩
  | .eventMask .., _ => ⟨_, rfl, command_kept (doEventMask_kept _)⟩
  | .eventMaskQuery .., _ => ⟨_, rfl, command_kept doEventMaskQuery_kept⟩
  | .calStatus .., _ => ⟨_, rfl, command_kept doCalStatus_kept⟩
  | .monitorPathTest .., _ => ⟨_, rfl, command_kept (doPathTest_kept _)⟩
  | .monitorSummary .., _ => ⟨_, rfl, command_kept doMonitorSummary_kept⟩
  | .cfgCommit .., _ => ⟨_, rfl, command_kept doCfgCommit_kept⟩
  | .cfgWithdraw .., _ => ⟨_, rfl, command_kept doCfgWithdraw_kept⟩
  | .cfgQuery .., _ => ⟨_, rfl, command_kept doCfgQuery_kept⟩
  | .imageUpdateBegin .., _ => ⟨_, rfl, command_kept doUpdateBegin_kept⟩
  | .imageUpdateData .., _ => ⟨_, rfl, command_kept (doUpdateData_kept _ _)⟩
  | .imageUpdateFinish .., _ => ⟨_, rfl, command_kept (doUpdateFinish_kept _)⟩
  | .attestQuote .., _ => ⟨_, rfl, command_kept doAttestQuote_kept⟩
  | .lifecycleUnlock .., _ => ⟨_, rfl, command_kept (doLifecycle_kept _ _)⟩
  | .commandFetch .., s => ⟨_, rfl, doCommandFetch_kept _ _ s (Kept_refl s)⟩
  | .fenceRelease .., s => ⟨_, rfl, doFenceRelease_kept _ s (Kept_refl s)⟩
  | .cmdqTailDoorbell .., _ => ⟨_, rfl, doorbellWrite_kept (tailDoorbell_kept _)⟩
  | .cplqHeadDoorbell .., _ => ⟨_, rfl, doorbellWrite_kept (cplqDoorbell_kept _)⟩
  | .evqHeadDoorbell .., _ => ⟨_, rfl, doorbellWrite_kept (evqDoorbell_kept _)⟩
  | .streamHeadDoorbell .., _ => ⟨_, rfl, doorbellWrite_kept (streamHead_kept _)⟩
  | .cmdqEnable .., _ => ⟨_, rfl, access_kept (writeReg_kept _ _ _)⟩
  | .cmdqDisable .., _ => ⟨_, rfl, access_kept (writeReg_kept _ _ _)⟩
  | .cplqEnable .., _ => ⟨_, rfl, access_kept (writeReg_kept _ _ _)⟩
  | .cplqDisable .., _ => ⟨_, rfl, access_kept (writeReg_kept _ _ _)⟩
  | .evqEnable .., _ => ⟨_, rfl, access_kept (writeReg_kept _ _ _)⟩
  | .evqDisable .., _ => ⟨_, rfl, access_kept (writeReg_kept _ _ _)⟩
  | .interruptModerationTimeout .., s => ⟨_, rfl, doModerationTimeout_kept _ _ s (Kept_refl s)⟩
  | .msixVectorUnmask .., _ => ⟨_, rfl, access_kept (writeReg_kept _ _ _)⟩
  | .bar4WindowApply .., _ => ⟨_, rfl, access_kept (writeReg_kept _ _ _)⟩
  | .quiesce .., _ => ⟨_, rfl, access_kept (writeReg_kept _ _ _)⟩
  | .nvmeQuiesced, s => ⟨_, rfl, settleQuiesce_kept s (Kept_refl s)⟩
  | .bar4Read .., s => ⟨_, rfl, doBar4Read_kept _ _ s (Kept_refl s)⟩
  | .bar4Write .., s => ⟨_, rfl, doBar4Write_kept _ _ _ s (Kept_refl s)⟩
  | .bitAliasWrite .., _ => ⟨_, rfl, access_kept (doBitAlias_kept _ _ _)⟩
  | .registerWrite .., _ => ⟨_, rfl, access_kept (writeBar_kept _ _ _ _ _)⟩
  | .scnEnable .., _ => ⟨_, rfl, access_kept (writeReg_kept _ _ _)⟩
  | .timingApply .., _ => ⟨_, rfl, access_kept (writeReg_kept _ _ _)⟩
  | .scnShadowValid .., _ => ⟨_, rfl, access_kept (writeReg_kept _ _ _)⟩
  | .scnAuxGo .., _ => ⟨_, rfl, access_kept (writeReg_kept _ _ _)⟩
  | .drtShadowValid .., _ => ⟨_, rfl, access_kept (writeReg_kept _ _ _)⟩
  | .drtAbort .., _ => ⟨_, rfl, access_kept (writeReg_kept _ _ _)⟩
  | .dmaHaltAck .., _ => ⟨_, rfl, access_kept (writeReg_kept _ _ _)⟩
  | .crcLearn .., _ => ⟨_, rfl, access_kept (writeReg_kept _ _ _)⟩
  | .crcCfgRefWrite .., _ => ⟨_, rfl, access_kept (writeReg_kept _ _ _)⟩
  | .crcEnable .., _ => ⟨_, rfl, access_kept (writeReg_kept _ _ _)⟩
  | .snap .., _ => ⟨_, rfl, access_kept (writeReg_kept _ _ _)⟩
  | .evtFirstWrite .., _ => ⟨_, rfl, access_kept (writeReg_kept _ _ _)⟩
  | .brzRun .., _ => ⟨_, rfl, access_kept (writeReg_kept _ _ _)⟩
  | .brzRestart .., _ => ⟨_, rfl, access_kept (writeReg_kept _ _ _)⟩
  | .brzSlotConfigWrite .., _ => ⟨_, rfl, access_kept (writeReg_kept _ _ _)⟩
  | .pcieLinkUp .., s => ⟨_, rfl, doPcieLinkUp_kept _ _ s (Kept_refl s)⟩
  | .d3hotEntry, s => ⟨_, rfl, enterD3_kept s (Kept_refl s)⟩
  | .d0Return, s => ⟨_, rfl, leaveD3_kept s (Kept_refl s)⟩
  | .powerOn .., s => ⟨_, rfl, fullReset_kept _ _ _ s (Kept_refl s)⟩
  | .resetN .., s => ⟨_, rfl, fullReset_kept _ _ _ s (Kept_refl s)⟩
  | .perstNAssert, s => ⟨_, rfl, doPerst_kept s (Kept_refl s)⟩
  | .hotReset, s => ⟨_, rfl, doHotReset_kept s (Kept_refl s)⟩
  | .dlDown, s => ⟨_, rfl, doHotReset_kept s (Kept_refl s)⟩
  | .flr, s => ⟨_, rfl, doFlr_kept s (Kept_refl s)⟩
  | .supplyBrownout .., s => ⟨_, rfl, fullReset_kept _ _ _ s (Kept_refl s)⟩
  | .thermtrip, s => ⟨_, rfl, doThermtrip_kept s (Kept_refl s)⟩
  | .watchdogExpiry, s => ⟨_, rfl, doWatchdogExpiry_kept s (Kept_refl s)⟩
  | .watchdogRestartReady, s => ⟨_, rfl, doWatchdogReady_kept s (Kept_refl s)⟩
  | .firmwareHeartbeat, s => ⟨_, rfl, doHeartbeat_kept s (Kept_refl s)⟩
  | .crystalStartTimeout, s => ⟨_, rfl, doCrystalTimeout_kept s (Kept_refl s)⟩
  | .calDomainComplete .., s => ⟨_, rfl, doCalDomain_kept _ _ _ s (Kept_refl s)⟩
  | .bootSectionVerified .., s => ⟨_, rfl, doSectionVerified_kept _ _ _ s (Kept_refl s)⟩
  | .mailboxReady, s => ⟨_, rfl, doMailboxReady_kept s (Kept_refl s)⟩
  | .regulatorStatusPoll .., s => ⟨_, rfl, doRegulatorPoll_kept _ s (Kept_refl s)⟩
  | .refinLoss, s => ⟨_, rfl, doRefinLoss_kept s (Kept_refl s)⟩
  | .crystalLoss, s => ⟨_, rfl, doCrystalLoss_kept s (Kept_refl s)⟩
  | .synthLockLoss .., s => ⟨_, rfl, toHoldover_kept _ s (Kept_refl s)⟩
  | .synthRelock .., s => ⟨_, rfl, doSynthRelock_kept _ s (Kept_refl s)⟩
  | .synthFrequencyDeparture .., s => ⟨_, rfl, doDeparture_kept _ s (Kept_refl s)⟩
  | .ppsInEdge .., s => ⟨_, rfl, doPpsEdge_kept _ s (Kept_refl s)⟩
  | .ppsMissedTimeout, s => ⟨_, rfl, doPpsMissed_kept s (Kept_refl s)⟩
  | .holdoverTimeout, s => ⟨_, rfl, doHoldoverTimeout_kept s (Kept_refl s)⟩
  | .ptmDialogStart, s => ⟨_, rfl, doPtmStart_kept s (Kept_refl s)⟩
  | .ptmResponse .., s => ⟨_, rfl, doPtmResponse_kept _ _ s (Kept_refl s)⟩
  | .ptmCorrelationInvalid, s => ⟨_, rfl, ptmInvalid_kept s (Kept_refl s)⟩
  | .lullEntry, s => ⟨_, rfl, doLullEntry_kept s (Kept_refl s)⟩
  | .lullWake, s => ⟨_, rfl, wakeLull_kept s (Kept_refl s)⟩
  | .thermalEvaluation, s => ⟨_, rfl, doThermalEvaluation_kept s (Kept_refl s)⟩
  | .powerRequestGrant, s => ⟨_, rfl, doPowerRequestGrant_kept s (Kept_refl s)⟩
  | .powerRequestTimeout, s => ⟨_, rfl, doPowerRequestTimeout_kept s (Kept_refl s)⟩
  | .lifeLedgerSample, s => ⟨_, rfl, doLifeSample_kept s (Kept_refl s)⟩
  | .wearMonitorDaily, s => ⟨_, rfl, doWearDaily_kept s (Kept_refl s)⟩
  | .lifeLedgerWrite, s => ⟨_, rfl, doLifeWrite_kept s (Kept_refl s)⟩
  | .sysrefPulse .., s => ⟨_, rfl, doSysrefPulse_kept _ _ s (Kept_refl s)⟩
  | .frameRelease .., s => ⟨_, rfl, doFrameRelease_kept _ _ s (Kept_refl s)⟩
  | .historyWriteCommit .., s => ⟨_, rfl, doHistoryWriteCommit_kept _ _ s (Kept_refl s)⟩
  | .laneErrorDetected .., s => ⟨_, rfl, doLaneError_kept _ _ _ _ s (Kept_refl s)⟩
  | .laneSyncLoss .., s => ⟨_, rfl, doLaneSyncLoss_kept _ _ _ s (Kept_refl s)⟩
  | .laneResyncComplete .., s => ⟨_, rfl, doLaneResync_kept _ _ _ s (Kept_refl s)⟩
  | .laneErrorWindow, s => ⟨_, rfl, doLaneErrorWindow_kept s (Kept_refl s)⟩
  | .refreshDue .., s => ⟨_, rfl, doRefreshDue_kept _ _ _ _ s (Kept_refl s)⟩
  | .rowDisturbanceThreshold .., s => ⟨_, rfl, doRowThreshold_kept _ _ _ _ s (Kept_refl s)⟩
  | .rowDisturbanceWindow, s => ⟨_, rfl, doRowWindow_kept s (Kept_refl s)⟩
  | .throttleEnd .., s => ⟨_, rfl, doThrottleEnd_kept _ s (Kept_refl s)⟩
  | .edcBurstFailure .., s => ⟨_, rfl, doEdcBurst_kept _ _ s (Kept_refl s)⟩
  | .uncorrectableRead .., s => ⟨_, rfl, doUncorrectableRead_kept _ _ _ _ _ (storeAsk_kept s (Kept_refl s))⟩
  | .patrolScrub .., s => ⟨_, rfl, doPatrolScrub_kept _ _ s (Kept_refl s)⟩
  | .storeRetrainStart .., s => ⟨_, rfl, doRetrainStart_kept _ s (Kept_refl s)⟩
  | .storeRetrainComplete .., s => ⟨_, rfl, doRetrainComplete_kept _ s (Kept_refl s)⟩
  | .selfRefreshIdleTimeout, s => ⟨_, rfl, doSelfRefreshIdle_kept s (Kept_refl s)⟩
  | .selfRefreshWake, s => ⟨_, rfl, doSelfRefreshWake_kept s (Kept_refl s)⟩
  | .selfRefreshExitComplete, s => ⟨_, rfl, doSelfRefreshExit_kept s (Kept_refl s)⟩
  | .tileReadIssue .., s => ⟨_, rfl, doTileReadIssue_kept _ s (Kept_refl s)⟩
  | .tileBatchStart .., s => ⟨_, rfl, doTileBatchStart_kept _ s (Kept_refl s)⟩
  | .commitUnitAccept .., s => ⟨_, rfl, doCommitUnitAccept_kept _ _ s (Kept_refl s)⟩
  | .routineAbandon .., s => ⟨_, rfl, doRoutineAbandon_kept _ _ _ _ _ _ s (Kept_refl s)⟩
  | .routineRestart .., s => ⟨_, rfl, doRoutineRestart_kept _ s (Kept_refl s)⟩
  | .tileWatchdogExpiry .., s => ⟨_, rfl, doTileWatchdogExpiry_kept _ s (Kept_refl s)⟩
  | .controlStoreScrubCheck .., s => ⟨_, rfl, doControlStoreScrubCheck_kept _ _ _ _ s (Kept_refl s)⟩
  | .shareHandover .., s => ⟨_, rfl, doShareHandover_kept _ s (Kept_refl s)⟩
  | .replacementComplete .., s => ⟨_, rfl, replaceTile_kept _ s (Kept_refl s)⟩
  | .backfillComplete .., s => ⟨_, rfl, doBackfillComplete_kept _ s (Kept_refl s)⟩
  | .xcorrIndexTimeout .., s => ⟨_, rfl, doXcorrIndexTimeout_kept _ s (Kept_refl s)⟩
  | .trigInEdge .., s => ⟨_, rfl, trigInEdge_kept _ _ _ _ s (Kept_refl s)⟩
  | .trigOutPulse .., s => ⟨_, rfl, doTrigOutPulse_kept _ s (Kept_refl s)⟩
  | .groupDecision .., s => ⟨_, rfl, doGroupDecision_kept _ s (Kept_refl s)⟩
  | .acqCopyChunk .., s => ⟨_, rfl, copyChunk_kept _ _ _ s (Kept_refl s)⟩
  | .densityExportBoundary .., s => ⟨_, rfl, doDensityExportBoundary_kept _ s (Kept_refl s)⟩
  | .exportWritesAccepted .., s => ⟨_, rfl, doExportWritesAccepted_kept _ s (Kept_refl s)⟩
  | .scanoutFrameStart, s => ⟨_, rfl, doScanoutFrameStart_kept s (Kept_refl s)⟩
  | .layerFetchStart .., s => ⟨_, rfl, doLayerFetchStart_kept _ s (Kept_refl s)⟩
  | .layerUnderrun .., s => ⟨_, rfl, doLayerUnderrun_kept _ s (Kept_refl s)⟩
  | .hpdUnplug, s => ⟨_, rfl, doHpdUnplug_kept s (Kept_refl s)⟩
  | .hpdPlug, s => ⟨_, rfl, doHpdPlug_kept s (Kept_refl s)⟩
  | .hpdIrq .., s => ⟨_, rfl, doHpdIrq_kept _ s (Kept_refl s)⟩
  | .dpTrainingComplete .., s => ⟨_, rfl, doDpTrainingComplete_kept _ _ s (Kept_refl s)⟩
  | .dpTrainingRetry, s => ⟨_, rfl, doDpTrainingRetry_kept s (Kept_refl s)⟩
  | .auxReply .., s => ⟨_, rfl, doAuxReply_kept _ _ s (Kept_refl s)⟩
  | .auxTimeout, s => ⟨_, rfl, doAuxTimeout_kept s (Kept_refl s)⟩
  | .recordDeliver .., s => ⟨_, rfl, doRecordDeliver_kept _ s (Kept_refl s)⟩
  | .notifyTimeout .., s => ⟨_, rfl, doNotifyTimeout_kept _ s (Kept_refl s)⟩
  | .nvmeCompletionEntry .., s => ⟨_, rfl, doNvmeCompletionEntry_kept _ s (Kept_refl s)⟩
  | .nvmeFlushTimer .., s => ⟨_, rfl, doNvmeFlushTimer_kept _ s (Kept_refl s)⟩
  | .nvmeCommandTimeout .., s => ⟨_, rfl, doNvmeCommandTimeout_kept _ s (Kept_refl s)⟩
  | .peerStreamAck .., s => ⟨_, rfl, doPeerStreamAck_kept _ _ s (Kept_refl s)⟩
  | .peerStreamCut .., s => ⟨_, rfl, doPeerStreamCut_kept _ _ s (Kept_refl s)⟩
  | .descriptorLoad .., s => ⟨_, rfl, doDescriptorLoad_kept _ s (Kept_refl s)⟩
  | .descriptorEnd .., s => ⟨_, rfl, doDescriptorEnd_kept _ s (Kept_refl s)⟩
  | .draughtBusError .., s => ⟨_, rfl, doBusError_kept _ _ _ _ _ s (Kept_refl s)⟩
  | .portTrainingStart .., s => ⟨_, rfl, doTrainingStart_kept _ s (Kept_refl s)⟩
  | .portTrainingComplete .., s => ⟨_, rfl, doTrainingComplete_kept _ _ s (Kept_refl s)⟩
  | .portRetryTimer .., s => ⟨_, rfl, doRetryTimer_kept _ s (Kept_refl s)⟩
  | .flitReceive .., s => ⟨_, rfl, doFlit_kept _ _ s (Kept_refl s)⟩
  | .nakReceive .., s => ⟨_, rfl, doNak_kept _ _ s (Kept_refl s)⟩
  | .ackTimeoutReplay .., s => ⟨_, rfl, doAckTimeout_kept _ s (Kept_refl s)⟩
  | .linkRetrainComplete .., s => ⟨_, rfl, doRetrainDone_kept _ _ s (Kept_refl s)⟩
  | .noFlitTimeout .., s => ⟨_, rfl, doNoFlit_kept _ s (Kept_refl s)⟩
  | .blockLockLoss .., s => ⟨_, rfl, doBlockLock_kept _ s (Kept_refl s)⟩
  | .heartbeatSend .., s => ⟨_, rfl, doHeartbeatSend_kept _ s (Kept_refl s)⟩
  | .heartbeatMissing .., s => ⟨_, rfl, doHeartbeatMissing_kept _ s (Kept_refl s)⟩
  | .linkPacketForward .., s => ⟨_, rfl, doForward_kept _ _ s (Kept_refl s)⟩
  | .linkWriteReceive .., _ => ⟨_, rfl, arrival_kept (doLinkWrite_kept _)⟩
  | .linkReadReceive .., _ => ⟨_, rfl, arrival_kept (doLinkRead_kept _)⟩
  | .linkCompletionReceive .., _ => ⟨_, rfl, arrival_kept (doLinkCompletion_kept _)⟩
  | .linkRequestTimeout .., s => ⟨_, rfl, doRequestTimeout_kept _ s (Kept_refl s)⟩
  | .forwardedCommandReceive .., _ => ⟨_, rfl, arrival_kept (doForwardedCommand_kept _)⟩
  | .forwardedCompletionReceive .., _ => ⟨_, rfl, arrival_kept (doForwardedCompletion_kept _)⟩
  | .forwardedEventReceive .., _ => ⟨_, rfl, arrival_kept (doForwardedEvent_kept _)⟩
  | .groupRegistrationReceive .., _ => ⟨_, rfl, arrival_kept (doGroupRegistration_kept _ _)⟩
  | .healReceive .., _ => ⟨_, rfl, arrival_kept (doHeal_kept _ _)⟩
  | .offerReceive .., _ => ⟨_, rfl, arrival_kept (doOffer_kept _)⟩
  | .healOfferTimeout, s => ⟨_, rfl, doHealTimeout_kept s (Kept_refl s)⟩
  | .activateReceive .., _ => ⟨_, rfl, arrival_kept (doActivate_kept _ _)⟩
  | .routeAddReceive .., _ => ⟨_, rfl, arrival_kept (doRouteAdd_kept _ _)⟩
  | .routeDelReceive .., _ => ⟨_, rfl, arrival_kept (doRouteDel_kept _ _)⟩
  | .placementControlReceive .., _ => ⟨_, rfl, arrival_kept (doPlacement_kept _)⟩
  | .flowLossTimeout .., s => ⟨_, rfl, doFlowLoss_kept _ s (Kept_refl s)⟩
  | .trigFireReceive .., _ => ⟨_, rfl, arrival_kept (doTrigFire_kept _)⟩
  | .groupFireReceive .., _ => ⟨_, rfl, arrival_kept (doGroupFireReceive_kept _)⟩
  | .groupArmReceive .., _ => ⟨_, rfl, arrival_kept (doGroupArmReceive_kept _)⟩
  | .groupDisarmReceive .., _ => ⟨_, rfl, arrival_kept (doGroupDisarmReceive_kept _)⟩
  | .armConfirmReceive .., _ => ⟨_, rfl, arrival_kept (doArmConfirm_kept _)⟩
  | .timeSyncSend .., s => ⟨_, rfl, doSyncSend_kept _ s (Kept_refl s)⟩
  | .timeSyncReceive .., _ => ⟨_, rfl, arrival_kept (doSyncReceive_kept _ _ _)⟩
  | .delayMeasure .., s => ⟨_, rfl, doDelayMeasure_kept _ s (Kept_refl s)⟩
  | .delayReqReceive .., _ => ⟨_, rfl, arrival_kept (doDelayReq_kept _ _ _)⟩
  | .delayRespReceive .., _ => ⟨_, rfl, arrival_kept (doDelayResp_kept _ _ _)⟩
  | .enumAssignReceive .., _ => ⟨_, rfl, arrival_kept (doAssign_kept _ _)⟩
  | .enumReportReceive .., _ => ⟨_, rfl, arrival_kept (doReport_kept _ _)⟩
  | .enumDoneReceive .., _ => ⟨_, rfl, arrival_kept (doEnumDone_kept _ _)⟩
  | .crcSweep, s => ⟨_, rfl, doCrcSweep_kept s (Kept_refl s)⟩
  | .breezeConversion .., s => ⟨_, rfl, doBreezeConversion_kept _ _ _ s (Kept_refl s)⟩
  | .firmwareCopyRestore .., s => ⟨_, rfl, doFirmwareCopyRestore_kept _ _ s (Kept_refl s)⟩
  | .fynalHelp, _ => ⟨_, rfl, line_kept fun u => answerOk_kept _ u⟩
  | .fynalId, _ => ⟨_, rfl, line_kept fun u => answerOk_kept _ u⟩
  | .fynalBaud .., _ => ⟨_, rfl, line_kept (doFynalBaud_kept _)⟩
  | .fynalEvents .., _ => ⟨_, rfl, line_kept (doFynalEvents_kept _)⟩
  | .fynalCal, _ => ⟨_, rfl, line_kept fun u => answerOk_kept _ u⟩
  | .fynalChain, _ => ⟨_, rfl, line_kept fun u => answerOk_kept _ u⟩
  | .fynalPower, _ => ⟨_, rfl, line_kept fun u => answerOk_kept _ u⟩
  | .fynalLife, _ => ⟨_, rfl, line_kept fun u => answerOk_kept _ u⟩
  | .fynalTiles .., _ => ⟨_, rfl, line_kept fun u => answerOk_kept _ u⟩
  | .fynalTrace .., _ => ⟨_, rfl, line_kept (doFynalTrace_kept _)⟩
  | .fynalUcode .., _ => ⟨_, rfl, line_kept (doFynalUcode_kept _ _ _)⟩
  | .fynalPeek .., _ => ⟨_, rfl, line_kept (doFynalPeek_kept _ _ _)⟩
  | .fynalPoke .., _ => ⟨_, rfl, line_kept (doFynalPoke_kept _ _ _)⟩
  | .fynalUpdate .., _ => ⟨_, rfl, line_kept (doFynalUpdate_kept _)⟩
  | .fynalUpdatePiece .., _ => ⟨_, rfl, line_kept (doFynalPiece_kept _ _ _ _)⟩
  | .fynalUpdateRestart, s => ⟨_, rfl, doFynalRestart_kept s (Kept_refl s)⟩
  | .jtagInstructionLoad .., s => ⟨_, rfl, doJtagLoad_kept _ s (Kept_refl s)⟩
  | .tapReset, s => ⟨_, rfl, kept_with (Kept_refl s)⟩
  | .synthesizerLocked .., s => ⟨_, rfl, doSynthLocked_kept _ s (Kept_refl s)⟩
  | .laneLockAchieved .., s => ⟨_, rfl, doLaneLock_kept _ _ _ s (Kept_refl s)⟩
  | .ilasReceived .., s => ⟨_, rfl, doIlasReceived_kept _ _ s (Kept_refl s)⟩
  | .configurationWrite .., s => ⟨_, rfl, doConfigurationWrite_kept _ _ s (Kept_refl s)⟩
  | .ppsOutPulse, s => ⟨_, rfl, doPpsOut_kept s (Kept_refl s)⟩
  | .baudSwitch, s => ⟨_, rfl, doBaudSwitch_kept s (Kept_refl s)⟩
  | .monitorLineRejected overflow, _ => ⟨_, rfl, line_kept (lineRejected_kept overflow)⟩

/-! ## Steps -/

theorem idle_kept (s : State) : Kept s (idle s) := idleCycle_kept s (Kept_refl s)

/-- A step keeps all of this but for the queue: the command that it takes leaves it. -/
theorem step_kept {s t : State} (h : step s = .next t) : ∃ q, Kept { s with pending := q } t := by
  unfold step at h
  split at h
  case h_1 =>
    cases h
    exact ⟨s.pending, idle_kept s⟩
  case h_2 c rest _ =>
    obtain ⟨u, next, kept⟩ := exec_kept c { s with pending := rest }
    cases next.symm.trans h
    exact ⟨rest, kept⟩

theorem canonical_withPending {s : State} (c : Canonical s) (q : List Instr) : Canonical { s with pending := q } :=
  ⟨c.regs, c.host, c.store, c.flash, c.tick⟩

/-- Settles O47: a step is kept from a state that differs in its queue alone. -/
theorem statesStayCanonical : Obligations.StatesStayCanonical := by
  intro s t canonical h
  obtain ⟨q, kept⟩ := step_kept h
  exact Kept_canonical kept (canonical_withPending canonical q)

/-- Settles O50: a step is kept from a state that differs in its queue alone, which holds neither fuses nor trims. -/
theorem fusesOnlyBlowAndTrimsStay : Obligations.FusesOnlyBlowAndTrimsStay := by
  intro s t h
  obtain ⟨_, kept⟩ := step_kept h
  exact ⟨kept.fuses, kept.trims⟩

/-- Settles O49: what every command keeps holds the queue of waiting commands. -/
theorem everyCommandCompletesAndLeavesTheQueue : Obligations.EveryCommandCompletesAndLeavesTheQueue := by
  intro c s
  obtain ⟨t, next, kept⟩ := exec_kept c s
  exact ⟨t, next, kept.pending⟩

/-- Settles O1: a step takes its command from the front. -/
theorem stepRunsFront : Obligations.StepRunsFront := fun _ _ _ => rfl

end Sys2Proof.EveryCommand
end

section
/-! The channel hash is one to one: masks that are valid each carry their own pivot bit and no other, so equal outputs make equal pivot
bits once every other bit is equal (R74). -/

namespace Sys2Proof.ChannelHash

open Sys2Proof Sys2Proof.Machine Sys2Proof.Safety Sys2Proof.Claims

/-- Whatever the block holds, the masks in use are valid: the defaults stand in for masks that are not. -/
theorem masksInUse_allValid (st : Store) : AllValid st.clamshell (masksInUse st) := by
  by_cases valid : AllValid st.clamshell (blockMasks st)
  · rwa [masksInUse_of_allValid valid]
  · rw [masksInUse_of_not_allValid valid]
    exact ⟨rfl, defaultMasks_valid _⟩

/-! ## Parities -/

theorem popCount_congr {x y n : Nat} (agree : ∀ i < n, x.testBit i = y.testBit i) : popCount x n = popCount y n := by
  rw [popCount_eq_length_filter, popCount_eq_length_filter]
  exact congrArg _ (List.filter_congr fun i hi => agree i (List.mem_range.1 hi))

/-- Numbers of one parity that agree on every bit but one agree on that one. -/
theorem testBit_eq_of_parity_eq {x y n p : Nat} (hp : p < n) (agree : ∀ i < n, i ≠ p → x.testBit i = y.testBit i)
    (h : parity x n = parity y n) : x.testBit p = y.testBit p := by
  induction n with
  | zero => omega
  | succ n ih =>
    unfold parity at h ih
    simp only [popCount] at h
    by_cases top : p = n
    · subst top
      rw [popCount_congr fun i hi => agree i (by omega) (by omega)] at h
      cases hx : x.testBit p <;> cases hy : y.testBit p <;> simp [hx, hy, b2n] at h ⊢ <;> omega
    · rw [agree n (by omega) (Ne.symm top)] at h
      exact ih (by omega) (fun i hi => agree i (by omega)) (by omega)

theorem parity_lt_two (x n : Nat) : parity x n < 2 := Nat.mod_lt _ (by decide)

/-! ## Equal cells -/

theorem hashOutputs_length (st : Store) (a : Nat) : (hashOutputs st a).length = 8 := by
  rw [hashOutputs, List.length_map, (masksInUse_allValid st).1]

theorem eight_of_length {l : List Nat} (h : l.length = 8) : ∃ a b c d e f g i, l = [a, b, c, d, e, f, g, i] := by
  match l, h with
  | [a, b, c, d, e, f, g, i], _ => exact ⟨a, b, c, d, e, f, g, i, rfl⟩

/-- Channel and bank hold all eight outputs. -/
theorem hashOutputs_eq_of_channelOf_bankOf {st : Store} {a b : Nat} (hc : channelOf st a = channelOf st b)
    (hb : bankOf st a = bankOf st b) : hashOutputs st a = hashOutputs st b := by
  have bit : ∀ x, ∀ o ∈ hashOutputs st x, o < 2 := by
    intro x o ho
    obtain ⟨m, -, rfl⟩ := List.mem_map.1 ho
    exact parity_lt_two _ _
  have bitA := bit a
  have bitB := bit b
  obtain ⟨x0, x1, x2, x3, x4, x5, x6, x7, hx⟩ := eight_of_length (hashOutputs_length st a)
  obtain ⟨y0, y1, y2, y3, y4, y5, y6, y7, hy⟩ := eight_of_length (hashOutputs_length st b)
  rw [(channelOf_bankOf_eq hx).1, (channelOf_bankOf_eq hy).1] at hc
  rw [(channelOf_bankOf_eq hx).2, (channelOf_bankOf_eq hy).2] at hb
  rw [hx] at bitA
  rw [hy] at bitB
  simp only [List.forall_mem_cons, List.not_mem_nil, false_implies, implies_true, and_true] at bitA bitB
  rw [hx, hy]
  simp only [List.cons.injEq, and_true]
  omega

/-- The row and the byte column hold every bit that is no pivot. -/
theorem testBit_eq_of_row_column {st : Store} {a b : Nat} (ha : a < 2 ^ (topRowBit st.clamshell + 1))
    (hb : b < 2 ^ (topRowBit st.clamshell + 1)) (row : rowOf st a = rowOf st b) (column : columnOf a = columnOf b) {j : Nat}
    (hj : j < 8 ∨ 16 ≤ j) : a.testBit j = b.testBit j := by
  rw [columnOf_eq, columnOf_eq] at column
  have low : a % 2 ^ 8 = b % 2 ^ 8 := by omega
  have high : a / 2 ^ 16 % 2 ^ 3 = b / 2 ^ 16 % 2 ^ 3 := by omega
  obtain hj | ⟨hj, hj'⟩ | hj : j < 8 ∨ (16 ≤ j ∧ j < 19) ∨ 19 ≤ j := by omega
  · have same := congrArg (·.testBit j) low
    simp only [Nat.testBit_mod_two_pow, hj, decide_true, Bool.true_and] at same
    exact same
  · have same := congrArg (·.testBit (j - 16)) high
    simp only [Nat.testBit_mod_two_pow, Nat.testBit_div_two_pow, show j - 16 < 3 by omega, decide_true, Bool.true_and,
      show j - 16 + 16 = j by omega] at same
    exact same
  · by_cases top : j ≤ topRowBit st.clamshell
    · have same := congrArg (·.testBit (j - 19)) row
      simp only [rowOf, testBit_bits, show j - 19 < topRowBit st.clamshell + 1 - 19 by omega, decide_true, Bool.true_and,
        show j - 19 + 19 = j by omega] at same
      exact same
    · rw [lt_two_pow_succ_iff_testBit.1 ha j (by omega), lt_two_pow_succ_iff_testBit.1 hb j (by omega)]

/-- An output with its mask gives its pivot bit, once the bits that are no pivot are equal. -/
theorem pivotBit_eq {clamshell : Bool} {a b p m : Nat} (valid : ValidMask clamshell p m) (hp : 8 ≤ p ∧ p < 16)
    (others : ∀ j, j < 8 ∨ 16 ≤ j → a.testBit j = b.testBit j) (h : parity (a &&& m) 35 = parity (b &&& m) 35) :
    a.testBit p = b.testBit p := by
  obtain ⟨own, noOther, -, -⟩ := valid
  have agree : ∀ i < 35, i ≠ p → (a &&& m).testBit i = (b &&& m).testBit i := by
    intro i _ ne
    rw [Nat.testBit_and, Nat.testBit_and]
    by_cases pivot : 8 ≤ i ∧ i < 16
    · have clear : m.testBit i = false := noOther i (by simp; omega) ne
      simp [clear]
    · rw [others i (by omega)]
  have := testBit_eq_of_parity_eq (by omega) agree h
  simpa [own] using this

/-- Settles O59: row and column give the bits that are no pivot, and with them the outputs give the pivots. -/
theorem channelHashIsOneToOne : Obligations.ChannelHashIsOneToOne := by
  intro st a b ha hb channel bank row column
  have others : ∀ j, j < 8 ∨ 16 ≤ j → a.testBit j = b.testBit j := fun _ => testBit_eq_of_row_column ha hb row column
  have outputs := hashOutputs_eq_of_channelOf_bankOf channel bank
  obtain ⟨eight, valid⟩ := masksInUse_allValid st
  refine Nat.eq_of_testBit_eq fun j => ?_
  by_cases pivot : 8 ≤ j ∧ j < 16
  · have own := valid (j - 8) (by omega)
    rw [show 8 + (j - 8) = j by omega] at own
    refine pivotBit_eq own pivot others ?_
    have := congrArg (·[j - 8]?) outputs
    simpa [hashOutputs, show j - 8 < (masksInUse st).length by omega] using this
  · exact others j (by omega)

end Sys2Proof.ChannelHash
end

section
/-! Writes read back (R7, R396, R405): the bits of a register write and of a field, and the bytes of host memory, the store and flash. -/

namespace Sys2Proof.ReadBack

open Sys2Proof Sys2Proof.Machine Sys2Proof.Safety Sys2Proof.Claims Sys2Proof.Laws Sys2Proof.EventOverflow

/-! ## Access codes -/

/-- The bit that a word write leaves: set by its set mask, else cleared by its clear mask, else new where it is plain and old where not. -/
theorem getLsbD_apply_wordWrite (i : RegInfo) (v old : U32) {n : Nat} (hn : n < 32) :
    ((wordWrite i v).apply old).getLsbD n =
      (((if i.w1c.getLsbD n || i.w1s.getLsbD n || i.sc.getLsbD n || i.ro.getLsbD n then old.getLsbD n else v.getLsbD n) &&
        !(v.getLsbD n && i.w1c.getLsbD n)) || (v.getLsbD n && (i.w1s.getLsbD n || i.sc.getLsbD n))) := by
  simp only [RegWrite.apply, wordWrite, BitVec.getLsbD_or, BitVec.getLsbD_and, BitVec.getLsbD_not, hn, decide_true, Bool.true_and]
  cases i.w1c.getLsbD n || i.w1s.getLsbD n || i.sc.getLsbD n || i.ro.getLsbD n <;> simp

/-- Settles O11: each code decides the masks that its bit stands in. -/
theorem accessCodesDecideEachBit : Obligations.AccessCodesDecideEachBit := by
  intro i v old n hn new
  have leaves : new.getLsbD n = _ := getLsbD_apply_wordWrite i v old hn
  refine ⟨?plain, ?clearedByOne, ?setByOne, ?readOnly⟩
  case plain =>
    intro hc hs hsc hro
    simp [leaves, hc, hs, hsc, hro]
  case clearedByOne =>
    intro hc hs hsc
    simp [leaves, hc, hs, hsc]
  case setByOne =>
    rintro hc (hs | hsc)
    · simp [leaves, hc, hs]
    · simp [leaves, hc, hsc]
  case readOnly =>
    intro hro hc hs hsc
    simp [leaves, hc, hs, hsc, hro]

/-! ## Fields -/

theorem testBit_shifted {x hi lo i : Nat} (order : lo ≤ hi) :
    (x % 2 ^ (hi + 1 - lo) * 2 ^ lo).testBit i = (decide (lo ≤ i ∧ i ≤ hi) && x.testBit (i - lo)) := by
  rw [Nat.testBit_mul_two_pow, Nat.testBit_mod_two_pow]
  by_cases h : lo ≤ i
  · simp [h, show i - lo < hi + 1 - lo ↔ i ≤ hi by omega]
  · simp [h]

/-- The bits of a field of a register after a write of it: those of the value within the field, the old ones outside. -/
theorem getLsbD_reg_setField {s : State} (canonical : RegsCanonical s) (k : Nat) {hi lo : Nat} (order : lo ≤ hi) (v : Nat) {i : Nat}
    (hi32 : i < 32) :
    ((s.setField k hi lo v).reg k).getLsbD i = if lo ≤ i ∧ i ≤ hi then v.testBit (i - lo) else (s.reg k).getLsbD i := by
  have ones : 2 ^ (hi + 1 - lo) - 1 = (2 ^ (hi + 1 - lo) - 1) % 2 ^ (hi + 1 - lo) :=
    (Nat.mod_eq_of_lt (Nat.sub_lt (Nat.two_pow_pos _) one_pos)).symm
  have mask : (BitVec.ofNat 32 ((2 ^ (hi + 1 - lo) - 1) * 2 ^ lo)).getLsbD i = decide (lo ≤ i ∧ i ≤ hi) := by
    rw [BitVec.getLsbD_ofNat, ones, testBit_shifted order, Nat.testBit_two_pow_sub_one]
    by_cases h : lo ≤ i ∧ i ≤ hi
    · simp [h, hi32, show i - lo < hi + 1 - lo by omega]
    · simp [h]
  have value : (BitVec.ofNat 32 (v % 2 ^ (hi + 1 - lo) * 2 ^ lo)).getLsbD i = (decide (lo ≤ i ∧ i ≤ hi) && v.testBit (i - lo)) := by
    rw [BitVec.getLsbD_ofNat, testBit_shifted order]
    simp [hi32]
  rw [State.setField, State.setMask, reg_setReg_self canonical]
  simp only [BitVec.getLsbD_or, BitVec.getLsbD_and, BitVec.getLsbD_not, mask, value, hi32, decide_true, Bool.true_and]
  by_cases h : lo ≤ i ∧ i ≤ hi
  · simp [h]
  · simp [h]

/-! ## Bytes -/

theorem byte_write_getElem? {m : Memory} (h : Memory.wf m = true) (a : Nat) {d : Data} {i : Nat} (hi : i < d.length) :
    some ((Memory.write m a d).byte (a + i)) = d[i]? := by
  rw [Memory.byte_write_self a d h i hi, List.getElem?_eq_getElem hi]

theorem flashByte_flashWrite_of_outside (m : Memory) (a : Nat) (d : Data) {x : Nat} (hx : x < a ∨ a + d.length ≤ x) :
    flashByte (flashWrite m a d) x = flashByte m x := by
  induction d generalizing m a with
  | nil => rfl
  | cons b bs ih =>
    rw [List.length_cons] at hx
    rw [flashWrite, ih _ (a + 1) (by omega)]
    exact spGet_spPut_other a x b (by omega)

theorem flashByte_flashWrite_getElem? {m : Memory} (h : spWf flashDefault m = true) (a : Nat) {d : Data} {i : Nat} (hi : i < d.length) :
    some (flashByte (flashWrite m a d) (a + i)) = d[i]? := by
  induction d generalizing m a i with
  | nil => exact absurd hi (Nat.not_lt_zero i)
  | cons b bs ih =>
    rw [flashWrite]
    cases i with
    | zero =>
      rw [flashByte_flashWrite_of_outside _ (a + 1) bs (by omega)]
      exact congrArg some (spGet_spPut_self (l := none) a b h)
    | succ i =>
      rw [List.length_cons] at hi
      rw [List.getElem?_cons_succ, ← ih (spPut_wf a b h) (a + 1) (by omega), show a + 1 + i = a + (i + 1) by omega]

theorem hostWrite_of_masters {s : State} (h : masters s = true) (a : Nat) (d : Data) :
    hostWrite a d s = { s with host := Memory.write s.host a d } := if_pos h

theorem hostWrite_of_not_masters {s : State} (h : masters s = false) (a : Nat) (d : Data) : hostWrite a d s = s := by
  simp [hostWrite, h]

theorem byte_hostWrite_of_outside (s : State) (a : Nat) (d : Data) {x : Nat} (hx : x < a ∨ a + d.length ≤ x) :
    (hostWrite a d s).host.byte x = s.host.byte x := by
  cases h : masters s
  · rw [hostWrite_of_not_masters h]
  · rw [hostWrite_of_masters h]
    exact Memory.byte_write_other a d x hx

/-- Settles O51. -/
theorem writesReadBack : Obligations.WritesReadBack := by
  refine ⟨?hostSelf, ?hostOther, ?hostSilent, ?storeSelf, ?storeOther, ?flashSelf, ?flashOther, ?regSelf, ?regOther, ?field⟩
  case hostSelf =>
    intro s a d i canonical mastering hi
    rw [hostWrite_of_masters mastering]
    exact byte_write_getElem? canonical a hi
  case hostOther => exact fun s a d _ => byte_hostWrite_of_outside s a d
  case hostSilent => exact fun _ a d silent => hostWrite_of_not_masters silent a d
  case storeSelf => exact fun _ a _ _ canonical => byte_write_getElem? canonical a
  case storeOther => exact fun _ a d x => Memory.byte_write_other a d x
  case flashSelf => exact fun _ a _ _ canonical => flashByte_flashWrite_getElem? canonical a
  case flashOther => exact fun s a d _ => flashByte_flashWrite_of_outside s.boot.flash a d
  case regSelf => exact fun _ k v canonical => reg_setReg_self canonical k v
  case regOther => exact fun s _ _ v other => reg_setReg_of_ne other s v
  case field => exact fun _ k _ _ v _ canonical order _ => getLsbD_reg_setField canonical k order v

end Sys2Proof.ReadBack
end

section
/-! Completions at their queue (R416, R418, R419, R428), and an identifier beyond those of R430 that reaches EVT_FIRST itself. -/

namespace Sys2Proof.QueueEntries

open Sys2Proof Sys2Proof.Machine Sys2Proof.Safety Sys2Proof.Claims Sys2Proof.Laws Sys2Proof.EventOverflow

/-! ## Entries of a vector -/

@[simp] theorem vmod_self {α : Type} {n : Nat} (v : Vector α n) (i : Fin n) (f : α → α) : (vmod v i f)[i] = f v[i] :=
  Vector.getElem_set_self i.isLt

theorem vmod_of_ne {α : Type} {n : Nat} (v : Vector α n) {i j : Fin n} (f : α → α) (h : j ≠ i) : (vmod v i f)[j] = v[j] :=
  Vector.getElem_set_ne i.isLt j.isLt (fun e => h (Fin.ext e.symm))

theorem vmod_vmod {α : Type} {n : Nat} (v : Vector α n) (i : Fin n) (f g : α → α) : vmod (vmod v i f) i g = vmod v i (g ∘ f) := by
  simp [vmod]

/-! ## A completion in its queue -/

theorem advance_tail (q : OutQueue) : q.advance.tail = if q.tail + 1 = q.size then 0 else q.tail + 1 := by
  unfold OutQueue.advance
  split <;> rfl

theorem advance_phase (q : OutQueue) : q.advance.phase = (q.phase ^^ decide (q.tail + 1 = q.size)) := by
  unfold OutQueue.advance
  split <;> simp [*]

theorem advance_head (q : OutQueue) : q.advance.head = q.head := by
  unfold OutQueue.advance
  split <;> rfl

/-- A queue that has moved on by an entry, whatever has been counted and announced of it. -/
structure MovedOn (q r : OutQueue) : Prop where
  tail : r.tail = q.advance.tail
  phase : r.phase = q.advance.phase
  head : r.head = q.advance.head

/-- The entry of a completion at the tail of a queue as it stands (R418, R419). -/
def withCompletion (q n : Fin 8) (tag status r0 r1 aux : Nat) (s : State) : State :=
  hostWrite (s.mbx.cplqs[n].base + s.mbx.cplqs[n].tail * 32)
    (completionEntry tag status (completionFlags s.mbx.cplqs[n].phase q s.mbx.cmdqs[q].head) r0 r1 aux) s

theorem withCompletion_mbx (q n : Fin 8) (tag status r0 r1 aux : Nat) (s : State) :
    (withCompletion q n tag status r0 r1 aux s).mbx = s.mbx := hostWrite_mbx _ _ _

/-- Into an enabled queue a completion is one entry at its tail, and of the mailbox that queue alone changes. -/
theorem cplqWrite_of_enabled {s : State} {n : Fin 8} (enabled : s.mbx.cplqs[n].enabled = true) (q : Fin 8) (noIrq : Bool)
    (tag status r0 r1 aux : Nat) : ∃ f : OutQueue → OutQueue, (∀ o, MovedOn o (f o)) ∧
    (cplqWrite q n noIrq tag status r0 r1 aux s).host = (withCompletion q n tag status r0 r1 aux s).host ∧
    (cplqWrite q n noIrq tag status r0 r1 aux s).mbx = { s.mbx with cplqs := vmod s.mbx.cplqs n f } := by
  rw [← withCompletion_mbx q n tag status r0 r1 aux s]
  have eq : cplqWrite q n noIrq tag status r0 r1 aux s =
      let u := withCompletion q n tag status r0 r1 aux s
      if noIrq then setCplq n OutQueue.advance u
      else
        let v := setCplq n (fun o => o.advance.count u.clk.up) u
        if v.mbx.cplqs[n].due then signalVector v.mbx.cplqs[n].vector (setCplq n OutQueue.announced v) else v :=
    if_neg (not_not.2 enabled)
  rw [eq]
  generalize withCompletion q n tag status r0 r1 aux s = u
  dsimp only
  split_ifs with quiet due
  · exact ⟨OutQueue.advance, fun _ => ⟨rfl, rfl, rfl⟩, rfl, rfl⟩
  · refine ⟨OutQueue.announced ∘ fun o => o.advance.count u.clk.up, fun _ => ⟨rfl, rfl, rfl⟩, signalVector_host _ _, ?_⟩
    rw [signalVector_mbx, setCplq_mbx, setCplq_mbx, ← vmod_vmod]
  · exact ⟨fun o => o.advance.count u.clk.up, fun _ => ⟨rfl, rfl, rfl⟩, rfl, rfl⟩

theorem complete_of_queue {s : State} {c : Cmd} {q : Fin 8} (found : findCmd s c.id = some c) (origin : c.origin = .queue q)
    (status r0 r1 aux : Nat) :
    complete c status r0 r1 aux s = cplqWrite q c.cplq c.noIrq c.tag status r0 r1 aux (dropCmd c.id s) := by
  simp [complete, found, origin]

theorem hostWrite_dropCmd_host (a : Nat) (d : Data) (id : Nat) (s : State) :
    (hostWrite a d (dropCmd id s)).host = (hostWrite a d s).host := by
  unfold hostWrite
  have same : masters (dropCmd id s) = masters s := rfl
  rw [same]
  split <;> rfl

theorem checked_of_firstFail {before after : List Check} (passes : Passes before) (c : Cmd) (f : Nat × Nat) (ok : State → State) (s : State) :
    checked c (before ++ some f :: after) ok s = complete c f.1 0 0 f.2 s := by
  have first : firstFail (before ++ some f :: after) = some f := by
    rw [PowerLimit.firstFail_append_of_passes passes]
    rfl
  rw [checked, first]
  rfl

theorem runCmd_of_not_runs {s : State} {id opcode : Nat} {sel : Cmd → Bool} (none : ∀ c, ¬ Runs s id opcode sel c)
    (body : Cmd → State → State) : runCmd id opcode sel body s = s := by
  unfold runCmd
  split
  next c found =>
    exact if_neg fun ⟨started, notWaiting, opcode, selector⟩ =>
      none c ⟨found, started, Bool.eq_false_iff.2 notWaiting, opcode, selector⟩
  next => rfl

/-- Settles O55. -/
theorem completionsReachTheirQueue : Obligations.CompletionsReachTheirQueue := by
  refine ⟨?enabled, ?disabled, ?firstFailure, ?notInProgress⟩
  case enabled =>
    intro s c q status r0 r1 aux found origin enabled
    refine ⟨_, rfl, complete_side _ _ _ _ _ _ (Side_refl s), ?_⟩
    rw [complete_of_queue found origin]
    obtain ⟨f, moved, host, mbx⟩ := cplqWrite_of_enabled (s := dropCmd c.id s) enabled q c.noIrq c.tag status r0 r1 aux
    rw [mbx, host]
    obtain ⟨tail, phase, head⟩ := moved s.mbx.cplqs[c.cplq]
    have self : (vmod s.mbx.cplqs c.cplq f)[c.cplq] = f s.mbx.cplqs[c.cplq] := vmod_self _ _ _
    refine ⟨rfl, hostWrite_dropCmd_host _ _ _ s, ?_, ?_, ?_, fun n other => vmod_of_ne s.mbx.cplqs f other, rfl, rfl⟩
    · exact (congrArg _ self).trans (tail.trans (advance_tail _))
    · exact (congrArg _ self).trans (phase.trans (advance_phase _))
    · exact (congrArg _ self).trans (head.trans (advance_head _))
  case disabled =>
    intro s c q status r0 r1 aux found origin disabled
    rw [complete_of_queue found origin]
    exact if_pos (ne_true_of_eq_false disabled)
  case firstFailure => exact fun c _ _ f ok s passes => checked_of_firstFail passes c f ok s
  case notInProgress => exact fun _ _ _ _ body none => runCmd_of_not_runs none body

/-! ## An identifier beyond the 4,096 of EVT_STATUS -/

/-- EVT_FIRST holds identifier 0. -/
def firstHoldsZero : State := State.reset.setReg kEvtFirst 0

/-- Refutes O56: its clause on EVT_FIRST takes every number for an identifier, and the status bit that the model gives 8,320 is bit 0 of
EVT_FIRST itself. -/
theorem not_eventsSetStatusAndReachTheirQueue : ¬ Obligations.EventsSetStatusAndReachTheirQueue := by
  rintro ⟨-, -, firstStands, -⟩
  have canonical : RegsCanonical firstHoldsZero := by decide
  have before : firstHoldsZero.field kEvtFirst 15 0 = 0 := by decide
  have after : (raise 8320 [] firstHoldsZero).field kEvtFirst 15 0 = 1 := by decide
  have stands := (firstStands firstHoldsZero 8320 [] canonical (by rw [before]; decide)).1
  rw [before, after] at stands
  exact absurd stands (by decide)

end Sys2Proof.QueueEntries
end

section
/-! Resets of the whole device (R407, R489, R538, R558, R563, R576, R580): what a start keeps, clears and samples. -/

namespace Sys2Proof.DeviceResets

open Sys2Proof Sys2Proof.Machine Sys2Proof.Safety Sys2Proof.Claims Sys2Proof.Laws

/-! ## Events before the mailbox opens -/

/-- The mailbox does not answer, and no route is set: an event can only be noted and logged. -/
structure Closed (s : State) : Prop where
  notReady : mbxReady s = false
  noRoutes : s.evt.routes = []

theorem evqLog_evtOnly (n : Fin 4) (e : Event) (s : State) :
    ∃ evt, evqLog n e s = { s with evt := evt } ∧ evt.routes = s.evt.routes := by
  dsimp only [evqLog]
  split <;> exact ⟨_, rfl, rfl⟩

theorem routeEvent_of_closed {s : State} (closed : Closed s) (e : Event) :
    ∃ evt, (routeEvent e s).2 = { s with evt := evt } ∧ evt.routes = s.evt.routes := by
  have route : eventRouteOf s e.ev = ⟨0, 0xFFF, 0, 0xFFFF, none⟩ := by
    rw [eventRouteOf, closed.noRoutes]
    rfl
  have logs : evqAccept 0 e 0xFFFF s = (true, evqLog 0 e s) := if_neg (by simp [closed.notReady])
  have eq : routeEvent e s = evqAccept 0 e 0xFFFF s := by
    unfold routeEvent
    rw [route]
    rfl
  rw [eq, logs]
  exact evqLog_evtOnly 0 e s

theorem setEventStatus_regsOnly (ev tick : Nat) (s : State) :
    setEventStatus ev tick s = { s with regs := (setEventStatus ev tick s).regs } := by
  rw [EventOverflow.setEventStatus_eq]
  unfold EventOverflow.captureFirst
  split_ifs <;> rfl

/-- The state in which a raised event looks for its queue: its status is set, and it stands among the recent ones and the counts. -/
def noted (ev : Nat) (vals : List Val) (s : State) : State :=
  { s with
    regs := (setEventStatus ev s.clk.tick s).regs
    evt := { s.evt with
      recent := (s.evt.recent ++ [eventOf s ev vals]).drop (s.evt.recent.length + 1 - recentKept)
      sinceEntry := if (eventPeriod ev).isSome then
          (s.evt.sinceEntry.put ev (s.evt.sinceEntry.at_ ev + 1)).put (ev + 0x1000) (s.evt.sinceEntry.at_ (ev + 0x1000))
        else s.evt.sinceEntry } }

/-- The counts of a rate limit begin afresh with an entry (R592). -/
def entryNoted (ev up : Nat) (s : State) : State :=
  { s with evt := { s.evt with lastEntry := s.evt.lastEntry.put ev (up + 1),
                               sinceEntry := (s.evt.sinceEntry.put ev 0).put (ev + 0x1000) 0 } }

/-- Raising an event notes it, and then routes it unless it is masked, held back by its rate limit, or of a watchdog restart. -/
theorem raise_eq (ev : Nat) (vals : List Val) (s : State) : ∃ held : Bool, (eventPeriod ev = none → held = false) ∧
    raise ev vals s = if eventMasked (noted ev vals s) ev ∨ held ∨ s.boot.phase = .restarting then noted ev vals s
      else
        let r := routeEvent (eventOf s ev vals) (noted ev vals s)
        if r.1 ∧ (eventPeriod ev).isSome then entryNoted ev s.clk.up r.2 else r.2 := by
  unfold raise raiseW
  rw [setEventStatus_regsOnly]
  refine ⟨match eventPeriod ev with
    | none => false
    | some p => match s.evt.lastEntry.at_ ev with
      | 0 => false
      | t => decide (s.clk.up < t - 1 + p), fun unlimited => by rw [unlimited], ?_⟩
  cases h : eventPeriod ev <;> simp only [noted, h] <;> rfl

/-- While the mailbox is closed an event changes registers and event state alone, and no route. -/
theorem raise_of_closed {s : State} (closed : Closed s) (ev : Nat) (vals : List Val) :
    ∃ evt regs, raise ev vals s = { s with evt := evt, regs := regs } ∧ evt.routes = s.evt.routes := by
  have still : Closed (noted ev vals s) := ⟨closed.notReady, closed.noRoutes⟩
  obtain ⟨evt, routed, routes⟩ := routeEvent_of_closed still (eventOf s ev vals)
  obtain ⟨_, -, eq⟩ := raise_eq ev vals s
  rw [eq]
  dsimp only
  rw [routed]
  split_ifs
  · exact ⟨_, _, rfl, rfl⟩
  · exact ⟨(entryNoted ev s.clk.up { noted ev vals s with evt := evt }).evt, _, rfl, routes⟩
  · exact ⟨evt, _, rfl, routes⟩

/-! ## The state of a start -/

/-- What a start leaves of a state: reset values but for what outlives a reset, the code of the reset and its straps. -/
structure Started (s0 : State) (code : Nat) (straps : Straps) (s : State) : Prop where
  lastReset : s.pcie.lastReset = code
  straps : s.boot.straps = straps
  fuses : s.boot.fuses = s0.boot.fuses
  flash : s.boot.flash = s0.boot.flash
  host : s.host = s0.host
  trims : factoryTrims s = factoryTrims s0
  tick : s.clk.tick = 0
  up : s.clk.up = 0
  tasks : s.tasks = []
  streams : s.tw = Vector.replicate 16 Stream.reset
  cmds : s.mbx.cmds = []
  squall : s.squall = Squall.reset
  fw : s.fw = Firmware.reset
  closed : Closed s

section

variable {s0 : State} {code : Nat} {straps : Straps} {s : State} (h : Started s0 code straps s)
include h

theorem started_raise (ev : Nat) (vals : List Val) : Started s0 code straps (raise ev vals s) := by
  obtain ⟨evt, regs, eq, routes⟩ := raise_of_closed h.closed ev vals
  rw [eq]
  exact { h with closed := ⟨h.closed.notReady, routes.trans h.closed.noRoutes⟩ }

theorem started_raise_if (ev : Nat) (on : Bool) : Started s0 code straps (if on = true then raise ev [] s else s) := by
  split
  · exact started_raise h ev []
  · exact h

theorem started_applyConfig (kind : Nat) : Started s0 code straps (applyConfig kind s) := by
  unfold applyConfig
  extract_lets +onlyGivenNames st lk ck tol rec_ prev lf life _ _ _ _ _ _ configured note noted last
  have configuredStarted : Started s0 code straps configured := { h with closed := ⟨h.closed.notReady, h.closed.noRoutes⟩ }
  have lastStarted : Started s0 code straps last :=
    started_raise_if (started_raise_if (started_raise_if (started_raise_if (started_raise_if configuredStarted _ _) _ _) _ _) _ _) _ _
  split
  · exact started_raise lastStarted _ _
  · exact lastStarted

theorem started_runSlot (slotB : Bool) : Started s0 code straps (runSlot slotB s) :=
  { h with closed := ⟨h.closed.notReady, h.closed.noRoutes⟩ }

theorem started_bootFailed : Started s0 code straps (bootFailed s) := { h with closed := ⟨rfl, h.closed.noRoutes⟩ }

theorem started_bootRom (kind : Nat) : Started s0 code straps (bootRom kind s) ∧
    ((bootRom kind s).boot.phase = .firmware ∨ (bootRom kind s).boot.phase = .failed) := by
  unfold bootRom
  extract_lets a fallBack
  have runs := started_runSlot (started_applyConfig h kind) (!a)
  split_ifs
  · exact ⟨started_runSlot (started_applyConfig h kind) a, .inl rfl⟩
  · exact ⟨{ runs with closed := ⟨runs.closed.notReady, runs.closed.noRoutes⟩ }, .inl rfl⟩
  · have failed : Started s0 code straps (bootFailed { s with life := countStart kind (loadLife s).1 }) :=
      started_bootFailed { h with closed := ⟨h.closed.notReady, h.closed.noRoutes⟩ }
    exact ⟨failed, .inr rfl⟩

end

/-- A reset of the whole device that is not held off by a thermal trip starts it. -/
theorem started_fullReset {s : State} {code kind : Nat} (notHeld : s.fw.thermtrip = false ∨ kind = 0) (straps : Straps) :
    Started s code straps (fullReset code kind straps s) ∧
    ((fullReset code kind straps s).boot.phase = .firmware ∨ (fullReset code kind straps s).boot.phase = .failed) := by
  have acts : ¬ (s.fw.thermtrip = true ∧ kind ≠ 0) := by
    rintro ⟨held, notPowerOn⟩
    rcases notHeld with h | h
    · exact ne_true_of_eq_false h held
    · exact notPowerOn h
  rw [fullReset, if_neg acts]
  refine started_bootRom ?_ kind
  exact ⟨rfl, rfl, rfl, rfl, rfl, rfl, rfl, rfl, rfl, rfl, rfl, rfl, rfl, ⟨rfl, rfl⟩⟩

/-- A start, as the obligation lists it. -/
theorem gives_started {c : Instr} {s t : State} {code : Nat} {straps : Straps} (next : exec c s = .next t)
    (started : Started s code straps t ∧ (t.boot.phase = .firmware ∨ t.boot.phase = .failed)) :
    Gives c s fun t => t.pcie.lastReset = code ∧ t.boot.straps = straps ∧ t.boot.fuses = s.boot.fuses ∧ t.boot.flash = s.boot.flash ∧
      t.host = s.host ∧ factoryTrims t = factoryTrims s ∧ t.clk.tick = 0 ∧ t.clk.up = 0 ∧ t.tasks = [] ∧
      t.tw = Vector.replicate 16 Stream.reset ∧ t.mbx.cmds = [] ∧ t.squall = Squall.reset ∧
      (t.boot.phase = .firmware ∨ t.boot.phase = .failed) ∧ t.fw = Firmware.reset := by
  obtain ⟨h, phase⟩ := started
  exact ⟨t, next, h.lastReset, h.straps, h.fuses, h.flash, h.host, h.trims, h.tick, h.up, h.tasks, h.streams, h.cmds, h.squall, phase, h.fw⟩

/-- Settles O15. -/
theorem deviceResetsReturnToReset : Obligations.DeviceResetsReturnToReset := by
  refine ⟨?powerOn, ?brownout, ?resetN, ?perst, ?perstHostOnly, ?held, ?thermtrip⟩
  case powerOn => exact fun _ st => gives_started rfl (started_fullReset (.inr rfl) st)
  case brownout => exact fun _ st => gives_started rfl (started_fullReset (.inr rfl) st)
  case resetN => exact fun _ st notHeld => gives_started rfl (started_fullReset (.inl notHeld) st)
  case perst =>
    intro s notHeld wholeDevice booted notLimp
    have acts : doPerst s = fullReset 2 2 s.boot.straps s := by simp [doPerst, notHeld, wholeDevice, booted, notLimp]
    exact gives_started (congrArg Host.Outcome.next acts) (started_fullReset (.inl notHeld) _)
  case perstHostOnly =>
    intro s notHeld hostOnly
    have acts : doPerst s = hostReset 3 true s := by simp [doPerst, notHeld, hostOnly]
    exact congrArg Host.Outcome.next acts
  case held =>
    intro s st held
    have stays : fullReset 1 1 st s = s := if_pos ⟨held, by decide⟩
    exact congrArg Host.Outcome.next stays
  case thermtrip => exact fun s => ⟨_, rfl, rfl, rfl, rfl, rfl, rfl, rfl, rfl, rfl, rfl⟩

end Sys2Proof.DeviceResets
end

section
/-! Host-interface resets (R407, R408): a register file that is not in canonical form keeps QUIESCE. -/

namespace Sys2Proof.HostInterfaceResets

open Sys2Proof Sys2Proof.Machine Sys2Proof.Safety Sys2Proof.Claims

/-- The link is up, and the register file lists QUIESCE set behind a higher key: a write of the reset value, which drops the entry of a
canonical file, stops at the higher key. -/
def quiesceOutOfOrder : State :=
  { State.reset with pcie := { State.reset.pcie with linkUp := true }, regs := [(kHifCtrl + 1, 1), (kHifCtrl, 1)] }

/-- Refutes O16: its clauses hold of every register file, and in one that is not canonical QUIESCE is still set after a hot reset. -/
theorem not_hostInterfaceResetsAreLocal : ¬ Obligations.HostInterfaceResetsAreLocal := by
  rintro ⟨hotReset, -⟩
  obtain ⟨t, next, clauses⟩ := hotReset quiesceOutOfOrder rfl
  have result : doHotReset quiesceOutOfOrder = t := Host.Outcome.next.inj next
  obtain ⟨-, -, -, -, -, -, -, -, -, -, -, quiesceClear, -⟩ := clauses
  have quiesceStands : quiesceSet (doHotReset quiesceOutOfOrder) = true := by decide +kernel
  rw [result, quiesceClear] at quiesceStands
  exact absurd quiesceStands (by decide)

end Sys2Proof.HostInterfaceResets
end

section
/-! How the rows of the mailbox go on: the body of a command in progress, checks that pass, admissions that admit and power that is
granted at once. -/

namespace Sys2Proof.Rows

open Sys2Proof Sys2Proof.Machine Sys2Proof.Claims Sys2Proof.Laws

/-- A mailbox row answers what the body of its command does. -/
theorem next_runCmd {s t : State} {id opcode : Nat} {sel : Cmd → Bool} {c : Cmd} {body : Cmd → State → State}
    (runs : Runs s id opcode sel c) (does : body c s = t) :
    (Host.Outcome.next (runCmd id opcode sel body s) : Host.Outcome State Fault Refusal) = .next t := by
  rw [runCmd_of_runs runs, does]

/-- A body whose checks pass is what it goes on with. -/
theorem checked_eq {c : Cmd} {checks : List Check} {ok : State → State} {s t : State} (passes : Passes checks) (does : ok s = t) :
    checked c checks ok s = t := (checked_of_passes passes c ok s).trans does

/-- One check more that passes. -/
theorem passes_snoc {x : Check} {l : List Check} (passes : Passes l) (last : x = none) : Passes (l ++ [x]) :=
  (PowerLimit.firstFail_append_of_passes passes [x]).trans (by rw [last]; rfl)

@[simp] theorem withBuffer_some (c : Cmd) (d : Data) (ok : Data → State → State) (s : State) : withBuffer c (some d) ok s = ok d s := rfl

theorem bEff_addReservations (owner : Owner) (items : List (Nat × Nat)) (s : State) :
    bEff (addReservations owner items s).store = bEff s.store := by
  unfold bEff
  rw [show (addReservations owner items s).store.cfg = s.store.cfg from rfl,
    show (addReservations owner items s).store.pinRate = s.store.pinRate from rfl]

theorem reserveStore_of_admits {s : State} {owner : Owner} {items : List (Nat × Nat)} (admits : Admits s owner items) :
    reserveStore owner items s = some (addReservations owner items s) := by
  unfold reserveStore
  extract_lets s'
  rw [if_pos]
  rw [bEff_addReservations]
  exact admits

theorem ifAdmitted_some (s short : State) (go : State → State) : ifAdmitted (some s) short go = go s := rfl

theorem ifAdmitted_reserveStore {s : State} {owner : Owner} {items : List (Nat × Nat)} (admits : Admits s owner items) (short : State)
    (go : State → State) : ifAdmitted (reserveStore owner items s) short go = go (addReservations owner items s) := by
  rw [reserveStore_of_admits admits, ifAdmitted_some]

theorem afterPower_requestPower {s : State} {owner : Owner} {items : List (Nat × Nat)} (grants : GrantsAtOnce s (cost items)) (c : Cmd)
    (units : Nat) (granted queued released : State → State) :
    afterPower c units (requestPower c owner items s) granted queued released = granted (grantItems owner items s) := by
  obtain ⟨possible, nobodyWaits, fits⟩ := grants
  simp [requestPower, possible, nobodyWaits, fits, afterPower]

/-! ## Waiting for an uptime -/

theorem up_waitUp (up : Nat) (s : State) : (waitUp up s).clk.up = max s.clk.up up := by
  rw [show (waitUp up s).clk.up = s.clk.up + (up - s.clk.up) from rfl]
  omega

/-- Waiting changes the clock alone, and the uptime is not before the one that is due. -/
theorem waitUp_eq (up : Nat) (s : State) : ∃ k : Clock, waitUp up s = { s with clk := k } ∧
    k = { s.clk with tick := k.tick, up := k.up } ∧ k.up = max s.clk.up up := ⟨_, rfl, rfl, up_waitUp up s⟩

/-! ## Objects named by their numbers -/

theorem streamIndex_val (n : Fin 16) : streamIndex n.val = some n := dif_pos n.isLt
theorem mapIndex_val (m : Fin 8) : mapIndex m.val = some m := dif_pos m.isLt
theorem atIndex_val (m : Fin 16) : atIndex m.val = some m := dif_pos m.isLt
theorem unitIndex_val (k : Fin 32) : unitIndex k.val = some k := dif_pos k.isLt

end Sys2Proof.Rows
end

section
/-! Modifications of a task (R138): where two tasks bear one number, each counts its own modifications. -/

namespace Sys2Proof.TaskAdmission

open Sys2Proof Sys2Proof.Machine Sys2Proof.Claims

/-- SPEC_TASK_MODIFY of task 1 that changes no descriptor field. -/
def modifyCmd : Cmd :=
  { id := 1, origin := .queue 0, cplq := 0, bytes := block 64 [(0x00, le 2 0x0301), (0x08, le 4 1), (0x0C, le 4 0x8000)],
    started := true, waiting := false, blocks := [] }

/-- A live task 1 of a sound descriptor: 1,024 points, one tap, one spectrum a cell. -/
def liveOne : Task :=
  { freshTask 1 .live (taskDescOf (block 256 [(0x00, [1, 0, 0, 8, 10, 0, 1, 0]), (0x1C, le 4 1), (0x28, le 2 1), (0x2A, [0xFF])]) [])
      Inlet.reset with active := true }

/-- The modification is in progress, and two tasks bear the number 1: the first was never modified, the second five times. -/
def numberedTwice : State :=
  { State.reset with mbx := { State.reset.mbx with cmds := [modifyCmd] }, tasks := [liveOne, { liveOne with modNo := 5 }] }

/-- The modification numbers that the tasks have after a row. -/
def modNumbers : Host.Outcome State Fault Refusal → List Nat
  | .next t => t.tasks.map (·.modNo)
  | _ => []

/-- Refutes O23: a modification reaches both tasks of one number, and the second goes on from its own count of modifications and not
from that of the first. -/
theorem not_tasksAndCorrelatorsAreAdmitted : ¬ Obligations.TasksAndCorrelatorsAreAdmitted := by
  rintro ⟨-, -, -, modifies, -⟩
  have answer := modifies numberedTwice 1 modifyCmd liveOne none none ⟨rfl, rfl, rfl, rfl, rfl⟩ (by decide +kernel) rfl rfl rfl (by decide +kernel)
  have numbers := congrArg modNumbers answer
  exact absurd numbers (by decide +kernel)

end Sys2Proof.TaskAdmission
end

section
/-! Arming, disarming and forced fires (R217, R219, R221, R224). -/

namespace Sys2Proof.ArmAndDisarm

open Sys2Proof Sys2Proof.Machine Sys2Proof.Claims Sys2Proof.Laws Sys2Proof.QueueEntries Sys2Proof.Rows

/-! ## ARM -/

/-- The checks of ARM pass where the first three do and every record fits (R217, R237). -/
theorem armChecks_pass {s : State} {a b d : Check} {l : List (Fin 16)} (passes : Passes [a, b, d]) (fits : l.all (recordFits s) = true) :
    Passes [a, b, d, match l.find? (fun m => !recordFits s m) with | some m => some (stRecordTooLarge, m.val) | none => none] := by
  have none_short : l.find? (fun m => !recordFits s m) = none := by
    simpa using fits
  simp only [passes_cons] at passes ⊢
  obtain ⟨ha, hb, hd, -⟩ := passes
  exact ⟨ha, hb, hd, by rw [none_short], passes_nil⟩

theorem doArm_of_local {s u : State} {c : Cmd} (due : u = squallDue s)
    (passes : Passes [entryCheck c [(0x08, 2)] [], deviceCheck u c, needState ((atsOf (c.p16 0x08)).all (armable u))])
    (fits : (atsOf (c.p16 0x08)).all (recordFits u) = true) (alone : (atsOf (c.p16 0x08)).any (fun m => u.squall.ats[m].group) = false) :
    doArm c s = done c u.clk.tick 0
      (forL (atsOf (c.p16 0x08)) (fun m v => armOne m ((v.squall.ats[m].armSeq + 1) % 2 ^ 32) u.clk.tick v) u) := by
  subst due
  unfold doArm
  refine checked_eq (armChecks_pass passes fits) ?_
  exact if_neg (by rw [alone]; decide)

theorem doArm_of_group {s u : State} {c : Cmd} (due : u = squallDue s)
    (passes : Passes [entryCheck c [(0x08, 2)] [], deviceCheck u c, needState ((atsOf (c.p16 0x08)).all (armable u))])
    (fits : (atsOf (c.p16 0x08)).all (recordFits u) = true) (group : (atsOf (c.p16 0x08)).any (fun m => u.squall.ats[m].group) = true) :
    doArm c s = wait c ((fun v => { v with squall := { v.squall with pendingArms := v.squall.pendingArms ++ [⟨some c.id, c.p16 0x08, u.clk.tick + 128000, false⟩] } })
      (forL ((atsOf (c.p16 0x08)).filter fun m => u.squall.ats[m].group) (fun m v => announceArm m (u.clk.tick + 128000) v) u)) := by
  subst due
  unfold doArm
  refine checked_eq (armChecks_pass passes fits) ?_
  exact if_pos group

/-- What an arming leaves of Squall: the one AT armed afresh. -/
theorem armOne_squall (m : Fin 16) (seq tick : Nat) (s : State) :
    (armOne m seq tick s).squall = { s.squall with ats := vmod s.squall.ats m fun a =>
      { a with armed := true, partial_ := false, armSeq := seq, armTick := tick, disarmTick := none, disarmAbort := false,
               heldFrom := none, holdCount := 0, holdDone := none, rearmTick := 0, round := [], decided := none } } := by
  unfold armOne
  rw [raiseAt_squall, setAt_squall]

/-! ## DISARM -/

/-- Beginning a disarm notes its tick at the AT, and an abort cuts the acquisitions: the AT stays in its group. -/
theorem beginDisarm_group (m : Fin 16) (tick : Nat) (abort : Bool) (s : State) :
    (beginDisarm m tick abort s).squall.ats[m].group = s.squall.ats[m].group := by
  have noted : (setAt m (fun a => { a with disarmTick := some tick, disarmAbort := abort }) s).squall.ats[m].group = s.squall.ats[m].group := by
    rw [setAt_squall]
    simp only [vmod_self]
    rfl
  cases abort <;> exact noted

theorem ofBits_singleton (n : Nat) : ofBits [n] = 2 ^ n := by simp [ofBits]

theorem largestBound_nil (s : State) : largestBound s [] = 0 := rfl

theorem largestBound_singleton (s : State) (m : Fin 16) : largestBound s [m] = decisionBound s s.squall.ats[m] := by simp [largestBound]

theorem doDisarm_of_local {s u : State} {c : Cmd} {m : Fin 16} (due : u = squallDue s)
    (passes : Passes [entryCheck c [(0x08, 2), (0x0A, 1)] [(0x0A, decide (c.p8 0x0A < 2))], deviceCheck u c])
    (one : atsOf (c.p16 0x08) = [m]) (armed : u.squall.ats[m].armed = true) (standing : u.squall.ats[m].disarmTick = none)
    (alone : u.squall.ats[m].group = false) :
    doDisarm c s = wait c ((fun v => { v with squall := { v.squall with pendingDisarms := v.squall.pendingDisarms ++
        [⟨some c.id, 2 ^ m.val, u.clk.tick, u.clk.tick + decisionBound u u.squall.ats[m], 0⟩] } })
      (beginDisarm m u.clk.tick (bit (c.p8 0x0A) 0) u)) := by
  subst due
  unfold doDisarm
  refine checked_eq passes ?_
  have still := (beginDisarm_group m (squallDue s).clk.tick (bit (c.p8 0x0A) 0) (squallDue s)).trans alone
  simp only [Fin.getElem_fin] at armed standing alone still
  simp [one, armed, standing, alone, still, forL, disarmTickOf, pendDisarm, largestBound_singleton, ofBits_singleton]

theorem doDisarm_of_group {s u w : State} {c : Cmd} {m : Fin 16} (due : u = squallDue s)
    (begun : w = beginDisarm m (u.clk.tick + 128000) (bit (c.p8 0x0A) 0) u)
    (passes : Passes [entryCheck c [(0x08, 2), (0x0A, 1)] [(0x0A, decide (c.p8 0x0A < 2))], deviceCheck u c])
    (one : atsOf (c.p16 0x08) = [m]) (armed : u.squall.ats[m].armed = true) (standing : u.squall.ats[m].disarmTick = none)
    (group : u.squall.ats[m].group = true) (still : w.squall.ats[m].group = true) :
    doDisarm c s = wait c ((fun v => { v with squall := { v.squall with pendingDisarms := v.squall.pendingDisarms ++
        [⟨some c.id, 2 ^ m.val, u.clk.tick + 128000, u.clk.tick + 128000 + decisionBound u u.squall.ats[m], 0⟩] } })
      (forL (w.squall.ats[m].members.filter (·.did ≠ w.link.did)) (fun x v =>
        sendTrig m 4 x.did v.squall.ats[m].armSeq (u.clk.tick + 128000) 0 (le 1 (c.p8 0x0A)) v) w)) := by
  subst due begun
  unfold doDisarm
  refine checked_eq passes ?_
  have ahead : 100 * usTicks = 128000 := rfl
  have bound : max (squallDue s).clk.tick ((squallDue s).clk.tick + 128000 + decisionBound (squallDue s) (squallDue s).squall.ats[m]) =
      (squallDue s).clk.tick + 128000 + decisionBound (squallDue s) (squallDue s).squall.ats[m] := by omega
  simp only [Fin.getElem_fin] at armed standing group still bound
  simp [one, armed, standing, group, still, forL, disarmTickOf, pendDisarm, largestBound_nil, largestBound_singleton, ofBits_singleton, ahead, bound]

theorem doDisarm_of_not_armed {s u : State} {c : Cmd} {m : Fin 16} (due : u = squallDue s)
    (passes : Passes [entryCheck c [(0x08, 2), (0x0A, 1)] [(0x0A, decide (c.p8 0x0A < 2))], deviceCheck u c])
    (one : atsOf (c.p16 0x08) = [m]) (idle : u.squall.ats[m].armed = false) : doDisarm c s = complete c stState 0 0 0 u := by
  subst due
  unfold doDisarm
  refine checked_eq passes ?_
  simp only [Fin.getElem_fin] at idle
  simp [one, idle, forL, pendDisarm]

/-! ## FORCE_FIRE -/

theorem forceAt_of_come {p : PendingForce} {s : State} (come : p.tick ≤ s.clk.tick) : forceAt p s = applyForce p s := if_pos come

theorem forceAt_of_ahead {p : PendingForce} {s : State} (ahead : s.clk.tick < p.tick) :
    forceAt p s = { s with squall := { s.squall with pendingForces := s.squall.pendingForces ++ [p] } } := if_neg (by omega)

theorem doForceFireAt_of_named {s u : State} {c : Cmd} {m : Fin 16} (due : u = squallDue s) (named : c.p8 0x09 = m.val)
    (passes : Passes [entryCheck c forceUsed [(0x08, decide (c.p8 0x08 < 2)), (0x09, true)], deviceCheck u c, needState u.squall.ats[m].armed,
      params [(0x10, decide (u.squall.ats[m].armTick ≤ forceTick c u ∧ forceTick c u ≤ u.clk.tick + 2 ^ 30))]]) :
    doForceFireAt c s = done c (forceTick c u) 0 (forceAt ⟨0, m.val, forceTick c u, u.squall.ats[m].armSeq⟩ u) := by
  subst due
  rw [passes_cons, passes_cons] at passes
  obtain ⟨entry, device, armed⟩ := passes
  have inRange : decide (c.p8 0x09 < 16) = true := by simp [named]
  unfold doForceFireAt
  refine checked_eq ?_ ?_
  · rw [inRange, passes_cons, passes_cons]
    exact ⟨entry, device, passes_nil⟩
  · rw [named, atIndex_val]
    exact checked_eq armed rfl

theorem doForceFireUnit_of_named {s u : State} {c : Cmd} {k : Fin 32} (due : u = squallDue s) (named : c.p8 0x09 = k.val) (target : c.p8 0x08 = 1)
    (passes : Passes [entryCheck c forceUsed [(0x08, true), (0x09, true)], deviceCheck u c,
      params [(0x08, decide (u.squall.units[k].cfg.kind = tkSoftware))]]) :
    doForceFireUnit c s = done c (forceTick c u) 0 (forceAt ⟨1, k.val, forceTick c u, 0⟩ u) := by
  subst due
  rw [passes_cons, passes_cons] at passes
  obtain ⟨entry, device, software⟩ := passes
  have inRange : decide (c.p8 0x09 < 32) = true := by simp [named]
  have isUnit : decide (c.p8 0x08 < 2) = true := by simp [target]
  unfold doForceFireUnit
  refine checked_eq ?_ ?_
  · rw [inRange, isUnit, passes_cons, passes_cons]
    exact ⟨entry, device, passes_nil⟩
  · rw [named, unitIndex_val]
    exact checked_eq software rfl

theorem p8_of_selByte {o v : Nat} {c : Cmd} (sel : selByte o v c = true) : c.p8 o = v := by simpa [selByte] using sel

/-- Settles O27: a clause for each row and case, the disarm bound and the forced tick as their rows are written. -/
theorem acquisitionTriggersArmFireAndDisarm : Obligations.AcquisitionTriggersArmFireAndDisarm := by
  refine ⟨?_, ?_, ?_, ?_, ?_, ?_, ?_, ?_, ?_, ?_, ?_, ?_⟩
  · intro s id c u runs passes due fits alone
    exact next_runCmd runs (doArm_of_local due passes fits alone)
  · intro s id c u runs passes due fits group
    exact next_runCmd runs (doArm_of_group due passes fits group)
  · intro s id c m u runs passes due fits one alone
    refine ⟨_, next_runCmd runs (doArm_of_local due passes fits (by simpa [one] using alone)), ?_⟩
    have squall : (done c u.clk.tick 0 (armOne m ((u.squall.ats[m].armSeq + 1) % 2 ^ 32) u.clk.tick u)).squall = _ :=
      (done_squall _ c u.clk.tick 0).trans (armOne_squall m _ _ u)
    simp only [one, forL, List.foldl_cons, List.foldl_nil, squall, vmod_self]
    exact ⟨trivial, trivial, trivial, trivial, trivial, trivial, trivial, fun x other => vmod_of_ne _ _ other, trivial⟩
  · intro s id c m u runs passes due one armed standing alone
    exact next_runCmd runs (doDisarm_of_local due passes one armed standing alone)
  · intro s id c m u w runs passes due begun one armed standing group still
    exact next_runCmd runs (doDisarm_of_group due begun passes one armed standing group still)
  · intro s id c m u runs passes due one idle
    exact next_runCmd runs (doDisarm_of_not_armed due passes one idle)
  · intro s id d c v w pending reached ended found
    subst reached ended
    refine congrArg Host.Outcome.next ?_
    unfold doDisarmBound
    simp only [pending, found]
  · intro s id c m u runs passes due named come
    exact next_runCmd runs ((doForceFireAt_of_named due named passes).trans (congrArg _ (forceAt_of_come come)))
  · intro s id c m u runs passes due named ahead
    exact next_runCmd runs ((doForceFireAt_of_named due named passes).trans (congrArg _ (forceAt_of_ahead ahead)))
  · intro s id c k u runs passes due named come
    exact next_runCmd runs ((doForceFireUnit_of_named due named (p8_of_selByte runs.selector) passes).trans (congrArg _ (forceAt_of_come come)))
  · intro s id c k u runs passes due named ahead
    exact next_runCmd runs ((doForceFireUnit_of_named due named (p8_of_selByte runs.selector) passes).trans (congrArg _ (forceAt_of_ahead ahead)))
  · intro s p l first
    refine congrArg Host.Outcome.next ?_
    unfold doForceTick
    rw [first]

end Sys2Proof.ArmAndDisarm
end

section
/-! What a request to the store leaves alone (R105 to R107): it changes the store, the clocks and what a raised event may change. -/

namespace Sys2Proof.StoreRequests

open Sys2Proof Sys2Proof.Machine Sys2Proof.Safety Sys2Proof.Laws

/-- A state with all that a request to the store may change taken from a later one. -/
def askOf (s t : State) : State := { sideOf s t with clk := t.clk, store := t.store }

/-- A state that only requests to the store have changed. -/
def Asked (s t : State) : Prop := t = askOf s t

theorem asked_of_side {s u t : State} (asked : Asked s u) (side : Side u t) : Asked s t := by
  unfold Asked Side at *
  rw [side, asked]
  rfl

theorem asked_raise {s u : State} (asked : Asked s u) (ev : Nat) (vals : List Val) : Asked s (raise ev vals u) :=
  asked_of_side asked (raise_side ev vals u (Side_refl u))

theorem asked_with {s u : State} (asked : Asked s u) (clk : Clock) (store : Store) : Asked s { u with clk := clk, store := store } := by
  unfold Asked at *
  rw [asked]
  rfl

theorem startExit_asked (s : State) : Asked s (startExit s) := by
  unfold startExit
  split
  · exact rfl
  · exact asked_with (u := s) rfl _ _

theorem storeAsk_asked (s : State) : Asked s (storeAsk s) := by
  unfold storeAsk
  split_ifs
  · exact startExit_asked s
  · exact rfl
  · exact asked_raise (asked_with (u := s) rfl _ _) _ _
  · exact asked_with (u := s) rfl _ _

theorem storeAwake_asked (s : State) : Asked s (storeAwake s) := by
  unfold storeAwake
  extract_lets u
  split
  · exact asked_raise (asked_with (storeAsk_asked s) _ _) _ _
  · exact storeAsk_asked s

@[simp] theorem storeAsk_eddy (s : State) : (storeAsk s).eddy = s.eddy := (congrArg State.eddy (storeAsk_asked s)).trans rfl
@[simp] theorem storeAsk_tw (s : State) : (storeAsk s).tw = s.tw := (congrArg State.tw (storeAsk_asked s)).trans rfl
@[simp] theorem storeAwake_drt (s : State) : (storeAwake s).drt = s.drt := (congrArg State.drt (storeAwake_asked s)).trans rfl
@[simp] theorem storeAwake_tw (s : State) : (storeAwake s).tw = s.tw := (congrArg State.tw (storeAwake_asked s)).trans rfl

end Sys2Proof.StoreRequests
end

section
/-! Density maps (R248 to R265): configuration, removal and query, clears, boundaries, and the sweep and the planes that it writes. -/

namespace Sys2Proof.DensityMaps

open Sys2Proof Sys2Proof.Machine Sys2Proof.Claims Sys2Proof.Laws Sys2Proof.QueueEntries Sys2Proof.Rows Sys2Proof.StoreRequests

/-! ## Changes of one map -/

theorem setMap_maps_self (m : Fin 8) (f : DensityMap → DensityMap) (s : State) : (setMap m f s).eddy.maps[m] = f s.eddy.maps[m] :=
  vmod_self s.eddy.maps m f

theorem setMap_maps_of_ne {m j : Fin 8} (other : j ≠ m) (f : DensityMap → DensityMap) (s : State) : (setMap m f s).eddy.maps[j] = s.eddy.maps[j] :=
  vmod_of_ne s.eddy.maps f other

theorem setMap_setMap (m : Fin 8) (f g : DensityMap → DensityMap) (s : State) : setMap m f (setMap m g s) = setMap m (f ∘ g) s := by
  simp [setMap, vmod_vmod]

theorem setMap_congr {m : Fin 8} {f g : DensityMap → DensityMap} {s : State} (same : f s.eddy.maps[m] = g s.eddy.maps[m]) :
    setMap m f s = setMap m g s := by
  simp only [setMap, vmod, same]

theorem findTask_setMap (m : Fin 8) (f : DensityMap → DensityMap) (s : State) (id : Nat) : findTask (setMap m f s) id = findTask s id := rfl

theorem advanceSweep_of_none {m : Fin 8} {s : State} (idle : s.eddy.maps[m].sweep = none) : advanceSweep m s = s := by
  unfold advanceSweep
  rw [idle]

theorem finishSweep_of_none {m : Fin 8} {s : State} (idle : s.eddy.maps[m].sweep = none) : finishSweep m s = s := by
  unfold finishSweep
  split
  next g cfg => simp only [sweepOn, idle, cfg]
  · rfl

/-! ## Configuration -/

theorem densityAdmit_of_fits {m : Fin 8} {g : MapCfg} {c : Cmd} {s : State} {t : Task} {p : Nat × Nat} (task : liveTask s g.task = some t)
    (placed : placeBuffers s g = some p) (sram : mapsSram s + g.sram ≤ 33554432) (costs : costsFit (g.exportCost :: mapCosts s) = true)
    (updates : updatesFit t g.columns = true) (admits : Admits s (.density m) [(lcDensity, ceilDiv g.exportCost.1 (g.exportCost.2 * 1000))]) :
    densityAdmit m g c s = done c (if g.planes then p.1 else 0) (if g.raw then p.2 else 0)
      (setMap m (fun _ => { DensityMap.reset with cfg := some g, planeBase := p.1, rawBase := p.2, lastBoundary := s.clk.tick })
        (addReservations (.density m) [(lcDensity, ceilDiv g.exportCost.1 (g.exportCost.2 * 1000))] s)) := by
  unfold densityAdmit
  simp only [placed, task, updates, costs, sram, decide_true, Bool.and_self]
  exact ifAdmitted_reserveStore admits _ _

theorem densityChecks_pass {s : State} {m : Fin 8} {c : Cmd} (entry : Passes [densityEntry c, deviceCheck s c]) (checks : Passes (densityChecks s m c)) :
    Passes (densityEntry c :: deviceCheck s c :: densityChecks s m c) := by
  rw [passes_cons, passes_cons] at entry ⊢
  exact ⟨entry.1, entry.2.1, checks⟩

theorem doDensityConfigure_of_passes {s : State} {m : Fin 8} {c : Cmd} {cmap : HostRead} (named : c.p8 0x08 = m.val)
    (entry : Passes [densityEntry c, deviceCheck s c]) (checks : Passes (densityChecks s m c)) :
    doDensityConfigure cmap c s = if c.p64 0x28 = 0 then densityAdmit m (mapCfgOf c) c s
      else withBuffer c cmap (fun d s => checked c [cmapCheck d] (densityAdmit m { mapCfgOf c with cmap := readCmap d } c) s) s := by
  unfold doDensityConfigure
  rw [named, mapIndex_val]
  exact checked_eq (densityChecks_pass entry checks) rfl

theorem doDensityRemove_of_passes {s : State} {m : Fin 8} {c : Cmd} (named : c.p8 0x08 = m.val) (entry : Passes [densityEntry c, deviceCheck s c])
    (configured : s.eddy.maps[m].cfg.isSome = true) : doDensityRemove c s = done c 0 0 (removeMap m s) := by
  unfold doDensityRemove
  rw [named, mapIndex_val]
  refine checked_eq ?_ rfl
  rw [passes_cons, passes_cons] at entry ⊢
  exact ⟨entry.1, entry.2.1, by rw [passes_cons]; exact ⟨needState_none.2 configured, passes_nil⟩⟩

theorem doDensityQuery_of_passes {s v : State} {m : Fin 8} {c : Cmd} (named : c.p8 0x08 = m.val) (advanced : v = advanceSweep m s)
    (entry : Passes [densityEntry c, deviceCheck v c]) (configured : v.eddy.maps[m].cfg.isSome = true) (buffer : aligned64 (c.p64 0x30) = true) :
    doDensityQuery c s = done c 0 0 (writeBlock c (c.p64 0x30) (mapStatus m v.eddy.maps[m]) v) := by
  subst advanced
  unfold doDensityQuery
  rw [named, mapIndex_val]
  refine checked_eq ?_ rfl
  rw [passes_cons, passes_cons] at entry ⊢
  refine ⟨entry.1, entry.2.1, ?_⟩
  rw [passes_cons, passes_cons]
  exact ⟨needState_none.2 configured, params_none.2 (by simpa using buffer), passes_nil⟩

/-! ## Clears -/

theorem doDensityClearSweep_of_one {s v u : State} {p : PendingClear} {m : Fin 8} {g : MapCfg} {c : Cmd} (first : firstClear s.eddy.clears = some p)
    (one : mapsOf p.mask = [m])
    (waited : v = { waitTick p.tick s with eddy := { (waitTick p.tick s).eddy with clears := s.eddy.clears.erase p } })
    (cfg : v.eddy.maps[m].cfg = some g)
    (swept : u = finishSweep m (if g.nextBoundary v.eddy.maps[m] = p.tick then mapBoundary m p.tick v else advanceSweep m v))
    (found : findCmd u p.cmd = some c) :
    doDensityClearSweep s = done c p.tick 0 (setMap m (fun d => { d with counts := [], youth := [] }) u) := by
  have cleared : findCmd (clearMap m u) p.cmd = some c := found
  unfold doDensityClearSweep
  simp -zeta only [first]
  extract_lets s1 _ s2 s3
  have erased : s2 = v := waited.symm
  have all : s3 = clearMap m u := by
    simp only [s3, erased, one, forL, List.foldl_cons, List.foldl_nil, cfg, swept]
  rw [all, cleared]
  rfl

/-! ## Boundaries -/

theorem mapBoundary_of_exporting {s v : State} {m : Fin 8} {g : MapCfg} {tick : Nat} (cfg : s.eddy.maps[m].cfg = some g) (advanced : v = advanceSweep m s)
    (exporting : v.eddy.maps[m].exporting = true) :
    mapBoundary m tick s =
      raise (evMap m 0) [.h m.val] (setMap m (fun d => { d with lastBoundary := tick, skipped := satN 32 (d.skipped + 1), skippedLast := true }) v) := by
  subst advanced
  unfold mapBoundary
  simp only [cfg, exporting, if_true, setMap_setMap]
  rfl

theorem mapBoundary_of_idle {s v : State} {m : Fin 8} {g : MapCfg} {tick : Nat} (cfg : s.eddy.maps[m].cfg = some g) (advanced : v = advanceSweep m s)
    (idle : v.eddy.maps[m].exporting = false) :
    mapBoundary m tick s = setMap m (fun d => { d with
      lastBoundary := tick, spectraInterval := 0, marks := 0,
      sweep := some ⟨tick, 0, v.clk.up, [], [], v.eddy.maps[m].spectraInterval, v.eddy.maps[m].marks, ((findTask v g.task).map (·.epoch)).getD 0⟩ }) v := by
  subst advanced
  unfold mapBoundary
  simp only [cfg, idle, Bool.false_eq_true, if_false, setMap_setMap, findTask_setMap]
  refine setMap_congr ?_
  cases findTask (advanceSweep m s) g.task <;> rfl

/-! ## Exports -/

theorem storeAsk_of_ready {s : State} (ready : s.store.state = .ready) :
    (storeAsk s).clk = s.clk ∧ (storeAsk s).store.state = .ready ∧ (storeAsk s).store.mem = s.store.mem := by
  unfold storeAsk
  rw [if_neg (by simp [ready]), if_neg (by simp [ready])]
  split
  · unfold abortEntry
    rw [raise_clk, raise_store]
    exact ⟨rfl, ready, rfl⟩
  · exact ⟨rfl, ready, rfl⟩

theorem storeServes_storeAsk_of_ready {s : State} (ready : s.store.state = .ready) (serves : storeServes s = true) : storeServes (storeAsk s) = true := by
  obtain ⟨clk, state, -⟩ := storeAsk_of_ready ready
  unfold storeServes memoryUnlocked at serves ⊢
  rw [clk, state]
  rw [ready] at serves
  exact serves

/-- A map whose writes are accepted: the buffer that they went to is the newest (R259). -/
def accepted (d : DensityMap) : DensityMap :=
  { d with newest := if d.writing.isSome then d.writing else d.newest, writing := none, record := none, interval := d.number }

/-- A map whose sweep has ended and whose planes are on their way to a buffer (R253, R259). -/
def withPlanes (g : MapCfg) (w : Sweep) (k : Nat) (d : DensityMap) : DensityMap :=
  { d with writing := some k, sweep := none, number := w.tick / g.exportTicks, skippedLast := false, completedAt := w.tick,
           saturated := (w.counts.filter (·.2 = 65535)).length }

theorem exportAccepted_of_record_none {s : State} {m : Fin 8} {g : MapCfg} (cfg : s.eddy.maps[m].cfg = some g) (noRecord : s.eddy.maps[m].record = none) :
    exportAccepted m s = setMap m accepted s := by
  unfold exportAccepted
  simp only [cfg, noRecord]
  rfl

/-- The end of a sweep whose map exports planes and no record: the planes go to their buffer, which then waits for its writes. -/
theorem endSweep_of_planes {s : State} {m : Fin 8} {g : MapCfg} {w : Sweep} (cfg : s.eddy.maps[m].cfg = some g) (sweep : s.eddy.maps[m].sweep = some w)
    (planes : g.planes = true) (noRaw : g.raw = false) :
    endSweep m s = setMap m (withPlanes g w (exportBuffer s m g))
      (storeWrite (s.eddy.maps[m].planeBase + exportBuffer s m g * g.planeSize)
        (lumaPlane g { s.eddy.maps[m] with counts := w.counts, youth := w.youth } ++ chromaPlane g { s.eddy.maps[m] with counts := w.counts, youth := w.youth }) s) := by
  unfold endSweep exportRaw exportPlanes
  simp only [cfg, sweep, planes, noRaw, not_true_eq_false, if_false, Bool.false_eq_true, not_false_eq_true, if_true, setMap_setMap]
  exact if_pos (by rw [setMap_maps_self]; rfl)

/-- What the sweep of a map takes and leaves, from its first cell to its last, in the map that its planes are drawn from. -/
theorem sweepOut_of_begun {s : State} {m : Fin 8} {g : MapCfg} {w : Sweep} (cfg : s.eddy.maps[m].cfg = some g) (sweep : s.eddy.maps[m].sweep = some w)
    (begun : w.cells = 0) :
    sweepOut m s = endSweep m (setMap m (sweepTo g (g.columns * g.rows) { w with since := (waitUp (w.since + ceilDiv (g.columns * g.rows) 64) s).clk.up })
      (waitUp (w.since + ceilDiv (g.columns * g.rows) 64) s)) := by
  have cfg' : (waitUp (w.since + ceilDiv (g.columns * g.rows) 64) s).eddy.maps[m].cfg = some g := cfg
  have sweep' : (waitUp (w.since + ceilDiv (g.columns * g.rows) 64) s).eddy.maps[m].sweep = some w := sweep
  unfold sweepOut
  simp only [cfg, sweep, begun, Nat.sub_zero, finishSweep, cfg', sweepOn, sweep', Nat.min_self, if_true]

/-- A map that writes out a sweep that has ended: once the store serves, its writes are accepted. -/
theorem doExportWritesAccepted_of_ready {s e : State} {m : Fin 8} {g : MapCfg} (exporting : s.eddy.maps[m].exporting = true) (out : sweepOut m s = e)
    (ready : e.store.state = .ready) (serves : storeServes e = true) (still : e.eddy.maps[m].exporting = true) (cfg : e.eddy.maps[m].cfg = some g)
    (noRecord : e.eddy.maps[m].record = none) :
    doExportWritesAccepted m s = setMap m accepted (storeAsk e) := by
  have serves' := storeServes_storeAsk_of_ready ready serves
  unfold doExportWritesAccepted
  rw [if_neg (by simp only [exporting, not_true_eq_false, not_false_eq_true]), out, if_pos ⟨serves', by rw [storeAsk_eddy]; exact still⟩]
  exact exportAccepted_of_record_none (by rw [storeAsk_eddy]; exact cfg) (by rw [storeAsk_eddy]; exact noRecord)

theorem sweepOut_of_none {s : State} {m : Fin 8} (idle : s.eddy.maps[m].sweep = none) : sweepOut m s = s := by
  unfold sweepOut
  cases cfg : s.eddy.maps[m].cfg <;> simp only [idle]

/-- A map that writes out without a sweep, once the store serves. -/
theorem doExportWritesAccepted_of_swept {s u : State} {m : Fin 8} (exporting : s.eddy.maps[m].exporting = true) (idle : s.eddy.maps[m].sweep = none)
    (asked : u = storeAsk s) : doExportWritesAccepted m s = if storeServes u = true then exportAccepted m u else u := by
  subst asked
  unfold doExportWritesAccepted
  rw [if_neg (by simp only [exporting, not_true_eq_false, not_false_eq_true]), sweepOut_of_none idle]
  simp only [storeAsk_eddy, exporting, and_true]

theorem exporting_iff (d : DensityMap) : d.exporting = true ↔ d.sweep.isSome = true ∨ d.writing.isSome = true ∨ d.record.isSome = true := by
  simp [DensityMap.exporting, or_assoc]

/-- A sweep from its first cell, with planes and no record: the planes drawn from what the sweep met are the newest, every cell has
decayed and aged, and the other maps stand. -/
theorem exportWritesAccepted_of_begun {s : State} {m : Fin 8} {g : MapCfg} {w : Sweep} {k : Nat} (cfg : s.eddy.maps[m].cfg = some g)
    (sweep : s.eddy.maps[m].sweep = some w) (begun : w.cells = 0) (noCounts : w.counts = []) (noYouth : w.youth = [])
    (noRecord : s.eddy.maps[m].record = none) (planes : g.planes = true) (noRaw : g.raw = false) (ready : s.store.state = .ready)
    (serves : storeServes s = true) (buffer : k = exportBuffer s m g) :
    let n := g.columns * g.rows
    let cs := s.eddy.maps[m].counts.filter (fun x => decide (x.1 < n))
    let ys := s.eddy.maps[m].youth.filter (fun x => decide (x.1 < n))
    let t := doExportWritesAccepted m s
    t.clk = (waitUp (w.since + ceilDiv n 64) s).clk ∧ t.eddy.maps[m].newest = some k ∧ t.eddy.maps[m].sweep = none ∧ t.eddy.maps[m].writing = none ∧
      t.eddy.maps[m].interval = w.tick / g.exportTicks ∧ t.eddy.maps[m].counts = cs.foldl (fun m x => m.put x.1 (g.decayed x.2)) s.eddy.maps[m].counts ∧
      t.eddy.maps[m].youth = (if g.age then ys.foldl (fun m x => m.put x.1 (x.2 - 1)) s.eddy.maps[m].youth else s.eddy.maps[m].youth) ∧
      t.eddy.maps[m].saturated = (cs.filter (·.2 = 65535)).length ∧ (∀ j : Fin 8, j ≠ m → t.eddy.maps[j] = s.eddy.maps[j]) ∧
      t.store.mem = (storeWrite (s.eddy.maps[m].planeBase + k * g.planeSize)
        (lumaPlane g { s.eddy.maps[m] with counts := cs, youth := ys } ++ chromaPlane g { s.eddy.maps[m] with counts := cs, youth := ys }) s).store.mem := by
  intro n cs ys t
  -- the sweep meets every cell after the clocks that it takes
  let a := waitUp (w.since + ceilDiv n 64) s
  let swept := sweepTo g n { w with since := a.clk.up }
  have cfg' : (setMap m swept a).eddy.maps[m].cfg = some g := by rw [setMap_maps_self]; exact cfg
  have met : (setMap m swept a).eddy.maps[m].sweep = some { w with since := a.clk.up, cells := n, counts := cs, youth := ys } := by
    rw [setMap_maps_self]
    simp only [swept, sweepTo, begun, noCounts, noYouth, List.nil_append, Nat.zero_le, true_and]
    rfl
  have out := (sweepOut_of_begun cfg sweep begun).trans (endSweep_of_planes cfg' met planes noRaw)
  have sameBuffer : exportBuffer (setMap m swept a) m g = k := by
    rw [buffer]
    unfold exportBuffer
    rw [setMap_maps_self]
    rfl
  rw [sameBuffer] at out
  have settled : t = _ := doExportWritesAccepted_of_ready ((exporting_iff _).2 (.inl (by rw [sweep]; rfl))) out ready serves
    ((exporting_iff _).2 (.inr (.inl (by rw [setMap_maps_self]; rfl)))) (by rw [setMap_maps_self]; exact cfg')
    (by rw [setMap_maps_self]; exact (congrArg DensityMap.record (setMap_maps_self m swept a)).trans noRecord)
  obtain ⟨clk, -, mem⟩ := storeAsk_of_ready (s := setMap m (withPlanes g _ k) (storeWrite _ _ (setMap m swept a))) ready
  have drawn : (setMap m swept a).eddy.maps[m] = swept s.eddy.maps[m] := setMap_maps_self m swept a
  have map : t.eddy.maps[m] = accepted (withPlanes g { w with since := a.clk.up, cells := n, counts := cs, youth := ys } k (swept s.eddy.maps[m])) := by
    rw [settled, setMap_maps_self, storeAsk_eddy, setMap_maps_self]
    exact congrArg (accepted ∘ withPlanes g _ k) drawn
  have others : ∀ j : Fin 8, j ≠ m → t.eddy.maps[j] = s.eddy.maps[j] := by
    intro j other
    rw [settled, setMap_maps_of_ne other, storeAsk_eddy, setMap_maps_of_ne other]
    exact setMap_maps_of_ne other swept a
  have fromFirst : ∀ x : Nat × Nat, decide (w.cells ≤ x.1 ∧ x.1 < n) = decide (x.1 < n) := by simp [begun]
  rw [map]
  refine ⟨settled ▸ clk, rfl, rfl, rfl, rfl, ?_, ?_, rfl, others, ?_⟩
  · show ((s.eddy.maps[m].counts.filter fun x => decide (w.cells ≤ x.1 ∧ x.1 < n)).foldl _ _) = _
    simp only [fromFirst]
    rfl
  · show (if g.age then (s.eddy.maps[m].youth.filter fun x => decide (w.cells ≤ x.1 ∧ x.1 < n)).foldl _ _ else _) = _
    simp only [fromFirst]
    rfl
  · rw [settled]
    refine mem.trans ?_
    rw [drawn]
    rfl

/-- Settles O29, with a clause for each row and case. -/
theorem densityMapsAreManagedAndExport : Obligations.DensityMapsAreManagedAndExport := by
  refine ⟨?_, ?_, ?_, ?_, ?_, ?_, ?_, ?_, ?_, ?_, ?_, ?_, ?_, ?_⟩
  · intro s id c m t p cmap runs entry named noMap checks task placed sram costs updates admits
    refine next_runCmd runs ((doDensityConfigure_of_passes named entry checks).trans ?_)
    rw [if_pos noMap]
    exact densityAdmit_of_fits task placed sram costs updates admits
  · intro s id c m t p d runs entry named map sound checks task placed sram costs updates admits
    refine next_runCmd runs ((doDensityConfigure_of_passes named entry checks).trans ?_)
    rw [if_neg map, withBuffer_some]
    exact checked_eq sound (densityAdmit_of_fits (g := { mapCfgOf c with cmap := readCmap d }) task placed sram costs updates admits)
  · intro s id c m runs entry named configured
    exact next_runCmd runs (doDensityRemove_of_passes named entry configured)
  · intro s id c m v runs entry advanced named configured buffer
    exact next_runCmd runs (doDensityQuery_of_passes named advanced entry configured buffer)
  · intro s id c runs passes
    refine next_runCmd runs ?_
    unfold doDensityClear
    exact checked_eq passes rfl
  · intro s p m g c v first one waited cfg found elsewhere idle
    refine congrArg Host.Outcome.next (doDensityClearSweep_of_one first one waited cfg ?_ found)
    rw [if_neg elsewhere, advanceSweep_of_none idle, finishSweep_of_none idle]
  · intro s p m g c v u first one waited cfg swept found elsewhere
    exact congrArg Host.Outcome.next (doDensityClearSweep_of_one first one waited cfg (by rw [if_neg elsewhere]; exact swept) found)
  · intro s p m g c v u first one waited cfg swept found here
    exact congrArg Host.Outcome.next (doDensityClearSweep_of_one first one waited cfg (by rw [if_pos here]; exact swept) found)
  · intro s m g v cfg advanced exporting
    refine congrArg Host.Outcome.next ?_
    unfold doDensityExportBoundary
    simp only [cfg]
    exact mapBoundary_of_exporting (s := waitTick (g.nextBoundary s.eddy.maps[m]) s) cfg advanced exporting
  · intro s m g v cfg advanced idle
    refine congrArg Host.Outcome.next ?_
    unfold doDensityExportBoundary
    simp only [cfg]
    exact mapBoundary_of_idle (s := waitTick (g.nextBoundary s.eddy.maps[m]) s) cfg advanced idle
  · intro s m g w n k cs ys cfg sweep begun noCounts noYouth noRecord planes noRaw ready serves cells buffer counts youth
    subst cells counts youth
    refine ⟨_, congrArg Host.Outcome.next rfl, ?_⟩
    exact exportWritesAccepted_of_begun cfg sweep begun noCounts noYouth noRecord planes noRaw ready serves buffer
  · intro s m g k u cfg idle writing noRecord asked serves
    refine congrArg Host.Outcome.next ((doExportWritesAccepted_of_swept ((exporting_iff _).2 (.inr (.inl (by rw [writing]; rfl)))) idle asked).trans ?_)
    subst asked
    rw [if_pos serves, exportAccepted_of_record_none (by rw [storeAsk_eddy]; exact cfg) (by rw [storeAsk_eddy]; exact noRecord)]
    refine setMap_congr ?_
    simp only [storeAsk_eddy, accepted, writing, Option.isSome_some, if_true]
  · intro s m g r u cfg idle record asked serves
    refine congrArg Host.Outcome.next ((doExportWritesAccepted_of_swept ((exporting_iff _).2 (.inr (.inr (by rw [record]; rfl)))) idle asked).trans ?_)
    subst asked
    rw [if_pos serves]
    unfold exportAccepted
    simp only [storeAsk_eddy, cfg, record]
  · intro s m u idle exporting asked serves
    refine congrArg Host.Outcome.next ((doExportWritesAccepted_of_swept exporting idle asked).trans ?_)
    rw [if_neg (by simp [serves])]

end Sys2Proof.DensityMaps
end

section
/-! Streams (R296 to R305): opening to a host ring and to a peer, the query, and closing. -/

namespace Sys2Proof.Streams

open Sys2Proof Sys2Proof.Machine Sys2Proof.Claims Sys2Proof.Laws Sys2Proof.Rows

theorem admitStream_of_host {c : Cmd} {n : Fin 16} {s : State} (host : streamDest c = 0) (rates : declaredRates s + streamRate c ≤ streamLimit s)
    (stage : stageFits s mib = true) (admits : Admits s (.stream n.val) [(lcRecords, 2000 * streamRate c)])
    (grants : GrantsAtOnce (addReservations (.stream n.val) [(lcRecords, 2000 * streamRate c)] s) (cost [(pcStream, storeUnits (2000 * streamRate c))])) :
    admitStream c n s = openStream c n (grantItems (.stream n.val) [(pcStream, storeUnits (2000 * streamRate c))]
      (addReservations (.stream n.val) [(lcRecords, 2000 * streamRate c)] s)) := by
  unfold admitStream
  extract_lets rate peer short
  have toHost : peer = false := by simp only [peer, host]; decide
  clear_value peer
  subst toHost
  rw [if_neg]
  · rw [if_neg Bool.false_ne_true, ifAdmitted_some, if_neg Bool.false_ne_true, ifAdmitted_reserveStore admits]
    rename_i items
    have plain : items = [(pcStream, storeUnits (2000 * streamRate c))] := by simp only [items, Bool.false_eq_true, if_false, rate]
    rw [plain, afterPower_requestPower grants]
  · rintro (⟨-, short⟩ | short)
    · exact absurd short (not_lt.mpr rates)
    · exact short stage

theorem admitStream_of_peer {c : Cmd} {n : Fin 16} {s u : State} (toPeer : streamDest c = 2) (stage : stageFits s mib = true)
    (flow : admitFlow (.stream n.val) (c.p64 0x10 % 65536) (streamRate c) 0 s = some u)
    (admits : Admits u (.stream n.val) [(lcRecords, 2000 * streamRate c), (lcLinks, 1000 * streamRate c)])
    (grants : GrantsAtOnce (addReservations (.stream n.val) [(lcRecords, 2000 * streamRate c), (lcLinks, 1000 * streamRate c)] u)
      (cost [(pcStream, storeUnits (3000 * streamRate c))])) :
    admitStream c n s = openStream c n (grantItems (.stream n.val) [(pcStream, storeUnits (3000 * streamRate c))]
      (addReservations (.stream n.val) [(lcRecords, 2000 * streamRate c), (lcLinks, 1000 * streamRate c)] u)) := by
  unfold admitStream
  extract_lets rate peer short
  have notHost : peer = true := by simp only [peer, toPeer]; decide
  clear_value peer
  subst notHost
  rw [if_neg]
  · rw [if_pos rfl, flow, ifAdmitted_some, if_pos rfl, ifAdmitted_reserveStore admits]
    rename_i items
    have both : items = [(pcStream, storeUnits (3000 * streamRate c))] := by simp only [items, if_true, rate]
    rw [both, afterPower_requestPower grants]
  · rintro (⟨short, -⟩ | short)
    · exact short rfl
    · exact short stage

theorem doStreamOpen_of_passes {s : State} {c : Cmd} {n : Fin 16} (named : c.p8 0x08 = n.val)
    (passes : Passes [entryCheck c streamUsed [], deviceCheck s c, needState (s.tw[n].state = .closed && !waitsPower s (.stream n.val)), params (streamParams s c),
      needState ((iqChannels (c.p32 0x30)).all fun x => s.inlets[x.2].state = .running), params (iqParams s c)])
    (route : need (streamDest c = 0 || reachable s.link (c.p64 0x10 % 65536)) stLink 0 = none) : doStreamOpen c s = admitStream c n s := by
  unfold doStreamOpen
  rw [named, streamIndex_val]
  exact checked_eq (passes_snoc passes route) rfl

/-- Settles O31, with a clause for each row and case. -/
theorem streamsOpenAndClose : Obligations.StreamsOpenAndClose := by
  refine ⟨?_, ?_, ?_, ?_, ?_⟩
  · intro s id c n runs passes named host rates stage admits grants
    refine next_runCmd runs ((doStreamOpen_of_passes named passes ?_).trans (admitStream_of_host host rates stage admits grants))
    rw [need_none, host]
    rfl
  · intro s id c n u runs passes named toPeer stage flow admits grants
    rw [passes_cons, passes_cons, passes_cons, passes_cons, passes_cons, passes_cons, passes_cons] at passes
    obtain ⟨entry, device, closed, fields, running, iq, route, -⟩ := passes
    refine next_runCmd runs ((doStreamOpen_of_passes named ?_ ?_).trans (admitStream_of_peer toPeer stage flow admits grants))
    · rw [passes_cons, passes_cons, passes_cons, passes_cons, passes_cons, passes_cons]
      exact ⟨entry, device, closed, fields, running, iq, passes_nil⟩
    · rw [need_none] at route ⊢
      rw [route, Bool.or_true]
  · intro s id c n runs passes named
    refine next_runCmd runs ?_
    unfold doStreamQuery
    rw [named, streamIndex_val]
    exact checked_eq passes rfl
  · intro s id c n runs passes named live
    refine next_runCmd runs ?_
    unfold doStreamClose
    rw [named, streamIndex_val]
    refine checked_eq (passes_snoc passes (needState_none.2 ?_)) (if_neg ?_)
    all_goals rcases live with live | live <;> rw [live] <;> decide
  · intro s id c n runs passes named failed
    refine next_runCmd runs ?_
    unfold doStreamClose
    rw [named, streamIndex_val]
    exact checked_eq (passes_snoc passes (needState_none.2 (by rw [failed]; decide))) (if_pos failed)

end Sys2Proof.Streams
end

section
/-! Delegated queue pairs (R296, R308, R312, R313): admission, completion entries, the Flush timer and the command time-out. -/

namespace Sys2Proof.DelegatedQueues

open Sys2Proof Sys2Proof.Machine Sys2Proof.Claims Sys2Proof.Laws Sys2Proof.Rows Sys2Proof.StoreRequests

theorem admitNvme_of_admitted {c : Cmd} {n : Fin 16} {d : Data} {s : State} (rates : declaredRates s + u32At d 4 ≤ streamLimit s)
    (stage : stageFits s (mib + u64At d 0x20) = true) (admits : Admits s (.stream n.val) [(lcRecords, 4000 * u32At d 4)])
    (grants : GrantsAtOnce (setCmd c.id (fun c => { c with bytes := c.bytes ++ d }) (addReservations (.stream n.val) [(lcRecords, 4000 * u32At d 4)] s))
      (cost [(pcStream, storeUnits (4000 * u32At d 4))])) :
    admitNvme c n d s = openNvme c n d (grantItems (.stream n.val) [(pcStream, storeUnits (4000 * u32At d 4))]
      (setCmd c.id (fun c => { c with bytes := c.bytes ++ d }) (addReservations (.stream n.val) [(lcRecords, 4000 * u32At d 4)] s))) := by
  unfold admitNvme
  extract_lets rate short
  rw [if_neg]
  · rw [ifAdmitted_reserveStore admits]
    exact afterPower_requestPower grants _ _ _ _ _
  · rintro (over_ | over_)
    · exact absurd over_ (not_lt.mpr rates)
    · exact over_ stage

theorem isOpen_of_live {t : Stream} (live : t.state = .open_ ∨ t.state = .closing) : t.isOpen = true ∧ t.state ≠ .failed := by
  rcases live with live | live <;> simp [Stream.isOpen, live]

section
variable {s q : State} {n : Fin 16} {v : Nvme} {e : Data} (nvme : s.tw[n].nvme = some v) (dest : s.tw[n].dest = 1)
  (live : s.tw[n].state = .open_ ∨ s.tw[n].state = .closing) (asked : q = storeAsk s) (serves : storeServes q = true)
  (read : e = storeRead q (v.cqAt + 16 * v.cqHead) 16)
include nvme dest live asked serves read

/-- An entry without the phase expected is left alone. -/
theorem completionEntry_of_other_phase (other : bit (u16At e 14) 0 ≠ v.cqPhase) : doNvmeCompletionEntry n s = q := by
  subst asked read
  obtain ⟨isOpen, notFailed⟩ := isOpen_of_live live
  unfold doNvmeCompletionEntry
  simp only [nvme]
  rw [if_neg (by simp only [dest, isOpen, notFailed, and_self, not_true_eq_false, or_self, not_false_eq_true]), if_neg (by simp [serves])]
  exact if_pos other

/-- An entry with the phase expected, of a command outstanding: its effects on the queue pair, then what its status and kind call for. -/
theorem completionEntry_of_found {h : Nat} {x : Nat × Nat × Bool × Nat} {w : State} (phase : bit (u16At e 14) 0 = v.cqPhase)
    (found : v.commands.find? (·.1 = u16At e 12) = some x) (head : h = if v.cqHead + 1 = v.cqEntries then 0 else v.cqHead + 1)
    (taken : w = setNvme n (fun w =>
      { w with cqHead := h, cqPhase := if h = 0 then !v.cqPhase else v.cqPhase, commands := w.commands.filter (·.1 ≠ u16At e 12),
               flushAwaits := w.flushAwaits.filter (· ≠ u16At e 12),
               slotBusy := if x.2.2.1 then w.slotBusy else w.slotBusy.filter (· ≠ x.2.1) }) (hostWrite v.cqDoorbell (le 4 h) q)) :
    doNvmeCompletionEntry n s =
      if u16At e 14 / 2 ≠ 0 then nvmeError n (u16At e 14 / 2) w
      else if x.2.2.1 = true ∧ v.finalFlush = true ∧ ¬ v.flushWaiting = true ∧ v.buffer = [] ∧ v.commands.all (·.1 = u16At e 12) = true then
        finishClose n (if x.2.2.1 = true then setNvme n (fun w => { w with durable := x.2.1 }) w else w)
      else nvmeAdvance n (if x.2.2.1 = true then setNvme n (fun w => { w with durable := x.2.1 }) w else w) := by
  subst asked read head taken
  obtain ⟨isOpen, notFailed⟩ := isOpen_of_live live
  unfold doNvmeCompletionEntry
  simp only [nvme]
  rw [if_neg (by simp only [dest, isOpen, notFailed, and_self, not_true_eq_false, or_self, not_false_eq_true]), if_neg (by simp [serves]),
    if_neg (fun other => other phase)]
  simp only [found]

end

/-- Settles O33, with a clause for each row and case. -/
theorem delegatedQueuesRun : Obligations.DelegatedQueuesRun := by
  refine ⟨?_, ?_, ?_, ?_, ?_, ?_, ?_, ?_⟩
  · intro s id c n d runs passes named sound rates stage admits grants
    refine next_runCmd runs (checked_eq passes ?_)
    rw [withBuffer_some]
    simp only [named, streamIndex_val]
    exact checked_eq sound (admitNvme_of_admitted rates stage admits grants)
  · intro s n v q e nvme dest opened asked serves read other
    exact congrArg Host.Outcome.next (completionEntry_of_other_phase nvme dest (.inl opened) asked serves read other)
  · intro s n v q e h x w nvme dest opened asked serves read phase found write ok head taken
    refine congrArg Host.Outcome.next ((completionEntry_of_found nvme dest (.inl opened) asked serves read phase found head taken).trans ?_)
    simp [ok, write]
  · intro s n v q e h x w nvme dest opened asked serves read phase found flush notFinal ok head taken
    refine congrArg Host.Outcome.next ((completionEntry_of_found nvme dest (.inl opened) asked serves read phase found head taken).trans ?_)
    simp [ok, flush, notFinal]
  · intro s n v q e h x w nvme dest closing asked serves read phase only number flush final idle drained ok head taken
    have found : v.commands.find? (·.1 = u16At e 12) = some x := by simp [only, number]
    refine congrArg Host.Outcome.next ((completionEntry_of_found nvme dest (.inr closing) asked serves read phase found head taken).trans ?_)
    simp [ok, flush, final, idle, drained, only, number]
  · intro s n v q e h x w nvme dest opened asked serves read phase found failed head taken
    refine congrArg Host.Outcome.next ((completionEntry_of_found nvme dest (.inl opened) asked serves read phase found head taken).trans ?_)
    exact if_pos failed
  · intro s n v q nvme period opened dest idle waited
    subst waited
    refine congrArg Host.Outcome.next ?_
    unfold doNvmeFlushTimer
    simp only [nvme]
    rw [if_neg (by simp only [period, opened, dest, idle, ne_eq, not_true_eq_false, Bool.false_eq_true, or_self, not_false_eq_true])]
    rfl
  · intro s n v x l nvme oldest opened dest
    refine congrArg Host.Outcome.next ?_
    unfold doNvmeCommandTimeout
    simp only [nvme, oldest]
    rw [if_neg (by simp only [opened, dest, Stream.isOpen]; decide)]

end Sys2Proof.DelegatedQueues
end

section
/-! What raising an event leaves alone: every part of the state that the four ways of an entry leave alone (its queue, host memory, a
message, a packet). Of the links that is all but the ports, by which a forwarded event may leave, and the count of packets that found no
route. -/

namespace Sys2Proof.EventLinks

open Sys2Proof Sys2Proof.Machine Sys2Proof.Claims Sys2Proof.Laws Sys2Proof.DeviceResets

/-- A part of the state that neither registers and event state nor the delivery of an entry touch. -/
structure Unmoved {α : Type} (f : State → α) : Prop where
  noted : ∀ (s : State) (regs : RegFile) (evt : Events), f { s with regs := regs, evt := evt } = f s
  queued : ∀ (n : Fin 4) (g : OutQueue → OutQueue) (s : State), f (setEvq n g s) = f s
  stored : ∀ (a : Nat) (d : Data) (s : State), f (hostWrite a d s) = f s
  signalled : ∀ (v : Nat) (s : State), f (signalVector v s) = f s
  sent : ∀ (p : Packet) (s : State), f (send p s) = f s

section
variable {α : Type} {f : State → α} (unmoved : Unmoved f)
include unmoved

theorem unmoved_setEventStatus (ev tick : Nat) (s : State) : f (setEventStatus ev tick s) = f s := by
  rw [setEventStatus_regsOnly]
  exact unmoved.noted s _ s.evt

theorem unmoved_evqPut (n : Fin 4) (e : Event) (vector : Nat) (s : State) : f (evqPut n e vector s) = f s := by
  have announced : ∀ u : State, f u = f s →
      f (if u.mbx.evqs[n].due then signalVector u.mbx.evqs[n].vector (setEvq n OutQueue.announced u) else u) = f s := by
    intro u same
    split
    · exact (unmoved.signalled _ _).trans ((unmoved.queued _ _ _).trans same)
    · exact same
  refine announced _ ?_
  split
  · exact (unmoved.queued _ _ _).trans (unmoved.stored _ _ s)
  · exact (unmoved.signalled _ _).trans ((unmoved.queued _ _ _).trans (unmoved.stored _ _ s))

theorem unmoved_evqResume (n : Fin 4) (s : State) : f (evqResume n s) = f s := by
  dsimp only [evqResume]
  split
  · exact (unmoved.queued _ _ _).trans ((unmoved_setEventStatus unmoved _ _ _).trans (unmoved_evqPut unmoved _ _ _ s))
  · rfl

theorem unmoved_evqLost (n : Fin 4) (k : Nat) (s : State) : f (evqLost n k s) = f s := unmoved.noted s _ s.evt

theorem unmoved_evqDeliver (n : Fin 4) (e : Event) (vector : Nat) (s : State) : f (evqDeliver n e vector s).2 = f s := by
  dsimp only [evqDeliver]
  split_ifs
  · exact (unmoved_evqLost unmoved _ _ _).trans ((unmoved.queued _ _ _).trans (unmoved_evqResume unmoved n s))
  · exact (unmoved_evqPut unmoved _ _ _ _).trans (unmoved_evqResume unmoved n s)
  · exact (unmoved_evqLost unmoved _ _ _).trans ((unmoved.queued _ _ _).trans ((unmoved_setEventStatus unmoved _ _ _).trans
      ((unmoved_evqPut unmoved _ _ _ _).trans (unmoved_evqResume unmoved n s))))

theorem unmoved_evqLog (n : Fin 4) (e : Event) (s : State) : f (evqLog n e s) = f s := by
  dsimp only [evqLog]
  split
  · exact unmoved.noted s s.regs _
  · exact unmoved.noted s s.regs _

theorem unmoved_routeEvent (e : Event) (s : State) : f (routeEvent e s).2 = f s := by
  dsimp only [routeEvent]
  split
  · split
    · rfl
    · exact unmoved.sent _ s
  · split
    · dsimp only [evqAccept]
      split
      · exact unmoved_evqDeliver unmoved _ _ _ s
      · exact unmoved_evqLog unmoved _ _ s
    · rfl

theorem unmoved_raiseW (ev tick weight weight2 : Nat) (vals : List Val) (s : State) : f (raiseW ev tick weight weight2 vals s) = f s := by
  have status : ∀ evt : Events, f { setEventStatus ev tick s with evt := evt } = f s := fun evt =>
    (unmoved.noted (setEventStatus ev tick s) (setEventStatus ev tick s).regs evt).trans (unmoved_setEventStatus unmoved ev tick s)
  have evtOnly : ∀ (t : State) (evt : Events), f { t with evt := evt } = f t := fun t evt => unmoved.noted t t.regs evt
  unfold raiseW
  extract_lets u a b d e events kept counted events' noted held r
  have note : f noted = f s := by
    unfold noted
    split
    · exact (evtOnly kept _).trans (status _)
    · exact status _
  split
  · exact note
  · split
    · exact (evtOnly r.2 _).trans ((unmoved_routeEvent unmoved e noted).trans note)
    · exact (unmoved_routeEvent unmoved e noted).trans note

theorem unmoved_raise (ev : Nat) (vals : List Val) (s : State) : f (raise ev vals s) = f s := unmoved_raiseW unmoved _ _ _ _ _ s

end

/-! ## The links -/

/-- The links apart from their ports and the count of discarded packets. -/
def linkRest (s : State) : Link := { s.link with ports := Link.reset.ports, discarded := 0 }

theorem send_linkRest (p : Packet) (s : State) : linkRest (send p s) = linkRest s := by
  unfold send
  split
  · unfold sendOn
    split <;> rfl
  · rfl

theorem unmoved_linkRest : Unmoved linkRest where
  noted _ _ _ := rfl
  queued _ _ _ := rfl
  stored a d s := by
    unfold hostWrite
    split <;> rfl
  signalled v s := by
    unfold signalVector
    split_ifs <;> rfl
  sent := send_linkRest

theorem raise_linkRest (ev : Nat) (vals : List Val) (s : State) : linkRest (raise ev vals s) = linkRest s :=
  unmoved_raise unmoved_linkRest ev vals s

@[simp] theorem raise_lostDids (ev : Nat) (vals : List Val) (s : State) : (raise ev vals s).link.lostDids = s.link.lostDids := by
  have rest := congrArg Link.lostDids (raise_linkRest ev vals s)
  exact rest

/-! ## The mailbox -/

/-- The mailbox apart from the event queues. -/
def mbxRest (s : State) : Mailbox := { s.mbx with evqs := Mailbox.reset.evqs }

theorem send_mbx (p : Packet) (s : State) : (send p s).mbx = s.mbx := by
  unfold send
  split
  · unfold sendOn
    split <;> rfl
  · rfl

theorem unmoved_mbxRest : Unmoved mbxRest where
  noted _ _ _ := rfl
  queued _ _ _ := rfl
  stored a d s := by
    unfold hostWrite
    split <;> rfl
  signalled v s := by
    unfold signalVector
    split_ifs <;> rfl
  sent p s := congrArg (fun m : Mailbox => { m with evqs := Mailbox.reset.evqs }) (send_mbx p s)

theorem raise_mbxRest (ev : Nat) (vals : List Val) (s : State) : mbxRest (raise ev vals s) = mbxRest s :=
  unmoved_raise unmoved_mbxRest ev vals s

theorem raise_cmdqs (ev : Nat) (vals : List Val) (s : State) : (raise ev vals s).mbx.cmdqs = s.mbx.cmdqs := by
  have rest := congrArg Mailbox.cmdqs (raise_mbxRest ev vals s)
  exact rest

theorem raise_cmds (ev : Nat) (vals : List Val) (s : State) : (raise ev vals s).mbx.cmds = s.mbx.cmds := by
  have rest := congrArg Mailbox.cmds (raise_mbxRest ev vals s)
  exact rest

/-! ## The PCI Express port -/

/-- The port apart from the messages that left it. -/
def portRest (s : State) : Pcie := { s.pcie with msix := [] }

theorem send_pcie (p : Packet) (s : State) : (send p s).pcie = s.pcie := by
  unfold send
  split
  · unfold sendOn
    split <;> rfl
  · rfl

theorem unmoved_portRest : Unmoved portRest where
  noted _ _ _ := rfl
  queued _ _ _ := rfl
  stored a d s := by
    unfold hostWrite
    split <;> rfl
  signalled v s := by
    unfold signalVector
    split_ifs <;> rfl
  sent p s := congrArg (fun q : Pcie => { q with msix := [] }) (send_pcie p s)

theorem raise_portRest (ev : Nat) (vals : List Val) (s : State) : portRest (raise ev vals s) = portRest s :=
  unmoved_raise unmoved_portRest ev vals s

end Sys2Proof.EventLinks
end

section
/-! Delivery of records (R299 to R303, R310 to R314, R317, R368, R369). -/

namespace Sys2Proof.Delivery

open Sys2Proof Sys2Proof.Machine Sys2Proof.Safety Sys2Proof.Claims Sys2Proof.Laws Sys2Proof.QueueEntries Sys2Proof.Rows Sys2Proof.StoreRequests Sys2Proof.EventLinks

/-! ## Changes of one stream -/

theorem setStream_self (n : Fin 16) (f : Stream → Stream) (s : State) : (setStream n f s).tw[n] = f s.tw[n] := vmod_self s.tw n f

theorem setStream_congr {n : Fin 16} {f g : Stream → Stream} {s : State} (same : f s.tw[n] = g s.tw[n]) : setStream n f s = setStream n g s := by
  simp only [setStream, vmod, same]

theorem setNvme_congr {n : Fin 16} {f g : Nvme → Nvme} {s : State} {x : Nvme} (nvme : s.tw[n].nvme = some x) (same : f x = g x) :
    setNvme n f s = setNvme n g s := by
  refine setStream_congr ?_
  simp only [nvme, Option.map_some, same]

theorem setNvme_nvme {n : Fin 16} (f : Nvme → Nvme) {s : State} {x : Nvme} (nvme : s.tw[n].nvme = some x) :
    (setNvme n f s).tw[n].nvme = some (f x) := by
  unfold setNvme
  rw [setStream_self]
  simp only [nvme, Option.map_some]

/-- The record at the head of a stream leaves it as delivered. -/
theorem popRecord_eq {n : Fin 16} {s : State} {r : Accepted} {l : List Accepted} (queue : s.tw[n].queue = r :: l) (d : Data) :
    popRecord n d s = setStream n (fun t =>
      { t with queue := l, backlog := t.backlog - r.bytes.length, seqNext := t.seqNext + 1, delivered := t.delivered + d.length, records := t.records + 1,
               gapRecords := t.gapRecords + b2n (decide (recType d = rtGap ∧ recCause d = 1)) }) s := by
  refine setStream_congr ?_
  simp only [queue, List.drop_succ_cons, List.drop_zero, List.head?_cons, Option.map_some, Option.getD_some]

/-! ## What a delivery reads and writes beside its stream -/

theorem reportRead_tw (r : Accepted) (s : State) : (reportRead r s).tw = s.tw :=
  Side_tw (forL_side _ (fun _ u side => raise_side _ _ u side) (Side_refl s))

theorem ringWrite_tw (noSnoop : Bool) (base size at_ : Nat) (d : Data) (s : State) : (ringWrite noSnoop base size at_ d s).tw = s.tw := by
  unfold ringWrite hostData
  simp only [hostWrite_tw, setPcie_tw]

/-! ## Delivery -/

/-- A stream with a record delivers it to its destination once the store serves (R292). -/
theorem doRecordDeliver_of_serves {s v : State} {n : Fin 16} {r : Accepted} {l : List Accepted} (opened : s.tw[n].state = .open_)
    (queue : s.tw[n].queue = r :: l) (asked : v = storeAsk s) (serves : storeServes v = true) :
    doRecordDeliver n s = if s.tw[n].dest = 2 then deliverPeer n v else if s.tw[n].dest = 0 then deliverRing n r v else deliverLogRecord n r v := by
  subst asked
  unfold doRecordDeliver
  rw [if_neg (not_not_intro (.inl opened))]
  simp only [queue]
  exact if_neg (not_not_intro serves)

/-- Of the records of a peer stream, the first that was not sent takes the next link number. -/
theorem mark_append {r : Accepted} {l : List Accepted} (seq : Nat) (bytes : Data) (unsent : r.linkSeq = 0) : ∀ m : List Accepted, (m.all fun x => x.linkSeq ≠ 0) = true →
    deliverPeer.mark seq bytes (m ++ r :: l) = m ++ { r with linkSeq := seq, bytes := bytes } :: l
  | [], _ => by simp only [List.nil_append, deliverPeer.mark, unsent, if_true]
  | x :: m, sent => by
    rw [List.all_cons, Bool.and_eq_true, decide_eq_true_eq] at sent
    rw [List.cons_append, deliverPeer.mark, if_neg sent.1, mark_append seq bytes unsent m sent.2]
    rfl

theorem find_unsent {r : Accepted} {m l : List Accepted} (unsent : r.linkSeq = 0) (sent : (m.all fun x => x.linkSeq ≠ 0) = true) :
    (m ++ r :: l).find? (·.linkSeq = 0) = some r := by
  rw [List.find?_append, List.find?_eq_none.2 (by simpa using sent)]
  simp [unsent]

section
variable {v : State} {n : Fin 16} {t : Stream} {r : Accepted} {l : List Accepted} {d : Data} (stream : v.tw[n] = t)
  (record : d = placed r (deliverable v r) t.seqNext)
include stream record

theorem deliverRing_of_room {w : State} (queue : t.queue = r :: l) (mastering : masters v = true) (notEnd : r.producer ≠ prodEnd)
    (room : t.tail - t.head + d.length ≤ t.ringSize)
    (taken : w = setStream n (fun t => { t with tail := t.tail + d.length }) (setStream n (fun t =>
      { t with queue := l, backlog := t.backlog - r.bytes.length, seqNext := t.seqNext + 1, delivered := t.delivered + d.length, records := t.records + 1,
               gapRecords := t.gapRecords + b2n (decide (recType d = rtGap ∧ recCause d = 1)) })
      (ringWrite t.noSnoop t.ringBase t.ringSize t.tail d (reportRead r v)))) :
    deliverRing n r v = reapAcqs (afterDelivery n (hostWrite t.statusAddr (ringStatus w.tw[n] w.clk.tick) w)) := by
  subst stream record taken
  unfold deliverRing
  rw [if_neg (by rw [not_or]; exact ⟨not_not_intro mastering, not_lt.mpr room⟩)]
  rw [← popRecord_eq (r := r) (by rw [ringWrite_tw, reportRead_tw]; exact queue)]
  exact if_neg notEnd

theorem deliverRing_of_full (full : t.ringSize < t.tail - t.head + d.length) : deliverRing n r v = v := by
  subst stream record
  unfold deliverRing
  exact if_pos (.inr full)

section
variable {x : Nvme} (nvme : t.nvme = some x) (notEnd : r.producer ≠ prodEnd) (issues : nvmeIssues v t = true) (takes : logTakes x = true)
  (notFinal : x.finalFlush = false)
include nvme notEnd issues takes notFinal

theorem deliverLogRecord_of_room (queue : t.queue = r :: l) (fits : logFits x d false = true) :
    deliverLogRecord n r v = reapAcqs (nvmeFlushNow n (nvmeSubmitAll n ((logAppend x d).length / max 1 x.maxXfer)
      (setNvme n (fun y => { y with buffer := logAppend x d }) (setStream n (fun t =>
        { t with queue := l, backlog := t.backlog - r.bytes.length, seqNext := t.seqNext + 1, delivered := t.delivered + d.length, records := t.records + 1,
                 gapRecords := t.gapRecords + b2n (decide (recType d = rtGap ∧ recCause d = 1)) }) (reportRead r v))))) := by
  subst stream record
  have still : (popRecord n (placed r (deliverable v r) v.tw[n].seqNext) (reportRead r v)).tw[n].nvme = some x := by
    unfold popRecord
    rw [setStream_self, reportRead_tw]
    exact nvme
  unfold deliverLogRecord
  simp only [nvme, notEnd, decide_false, issues, takes, notFinal, fits, not_true_eq_false, Bool.false_eq_true, or_self, if_false]
  rw [setNvme_nvme _ still, setNvme_congr (g := fun y => { y with buffer := logAppend x (placed r (deliverable v r) v.tw[n].seqNext) }) still rfl,
    popRecord_eq (r := r) (l := l) (by rw [reportRead_tw]; exact queue)]

theorem deliverLogRecord_of_full (queue : t.queue = r :: l) (full : logFits x d false = false) :
    deliverLogRecord n r v = setStream n (fun t => { t with queue := l, backlog := t.backlog - r.bytes.length, dropped := t.dropped + 1 }) v := by
  subst stream record
  unfold deliverLogRecord
  simp only [nvme, notEnd, decide_false, issues, takes, notFinal, full, not_true_eq_false, Bool.false_eq_true, or_self, if_false, not_false_eq_true, if_true]
  refine setStream_congr ?_
  simp only [queue, List.drop_succ_cons, List.drop_zero]

end

theorem deliverPeer_of_unsent {m : List Accepted} (queue : t.queue = m ++ r :: l) (sent : (m.all fun x => x.linkSeq ≠ 0) = true)
    (unsent : r.linkSeq = 0) (route : reachable v.link t.peerDid = true) :
    deliverPeer n v = sendRecord n t (t.linkSeq + 1) r.stop d (reportRead r (setStream n (fun t =>
      { t with queue := m ++ { r with linkSeq := t.linkSeq + 1, bytes := d } :: l, linkSeq := t.linkSeq + 1, seqNext := t.seqNext + 1,
               delivered := t.delivered + d.length, records := t.records + 1,
               gapRecords := t.gapRecords + b2n (decide (recType d = rtGap ∧ recCause d = 1)) }) v)) := by
  subst stream record
  unfold deliverPeer
  have found := find_unsent (l := l) unsent sent
  rw [← queue] at found
  simp only [found]
  rw [if_neg (not_not_intro route)]
  refine congrArg (fun u => sendRecord n _ _ _ _ (reportRead r u)) (setStream_congr ?_)
  simp only [queue, mark_append _ _ unsent m sent]

end

/-! ## Acknowledgements and cuts -/

/-- A stream that closes is closed and empty. -/
theorem finishClose_stream (n : Fin 16) (s : State) :
    (finishClose n s).tw[n].state = .closed ∧ (finishClose n s).tw[n].queue = [] ∧ (finishClose n s).tw[n].stagePart = false := by
  unfold finishClose
  extract_lets t s1 s2 s3 s4
  have closed : s4.tw = s2.tw := by
    simp only [s4]
    split
    · split
      · rw [done_tw, raise_tw]
      · rw [raise_tw]
    · rw [raise_tw]
  show s4.tw[n].state = .closed ∧ s4.tw[n].queue = [] ∧ s4.tw[n].stagePart = false
  rw [closed, setStream_self]
  exact ⟨rfl, rfl, rfl⟩

theorem doPeerStreamAck_of_open {s : State} {n : Fin 16} {seq : Nat} (peer : s.tw[n].dest = 2) (opened : s.tw[n].state = .open_)
    (known : seq ≤ s.tw[n].linkSeq) (goesOn : (s.tw[n].queue.all fun r => r.producer ≠ prodEnd) = true) :
    doPeerStreamAck n seq s = reapAcqs (setStream n (fun t =>
      { t with queue := t.queue.filter (fun r => !decide (r.linkSeq ≠ 0 ∧ r.linkSeq ≤ seq)), acked := max t.acked seq,
               backlog := t.backlog - ((t.queue.filter fun r => decide (r.linkSeq ≠ 0 ∧ r.linkSeq ≤ seq)).map (·.bytes.length)).sum }) s) := by
  have noEnd : ¬ ((s.tw[n].queue.filter fun r => decide (r.linkSeq ≠ 0 ∧ r.linkSeq ≤ seq)).any (·.producer = prodEnd)) = true := by
    rw [List.any_eq_true]
    rintro ⟨r, among, isEnd⟩
    have notEnd := List.all_eq_true.1 goesOn r (List.mem_filter.1 among).1
    exact absurd (of_decide_eq_true isEnd) (of_decide_eq_true notEnd)
  unfold doPeerStreamAck
  extract_lets t gone u
  rw [if_neg (by simp only [t, peer, opened, Stream.isOpen, not_lt.mpr known]; decide), if_neg noEnd]
  exact congrArg reapAcqs (setStream_congr rfl)

theorem doPeerStreamAck_of_end {s : State} {n : Fin 16} {seq : Nat} {r : Accepted} (peer : s.tw[n].dest = 2) (closing : s.tw[n].state = .closing)
    (known : seq ≤ s.tw[n].linkSeq) (queue : s.tw[n].queue = [r]) (isEnd : r.producer = prodEnd) (sent : r.linkSeq ≠ 0) (covered : r.linkSeq ≤ seq) :
    ∃ u, doPeerStreamAck n seq s = finishClose n u := by
  unfold doPeerStreamAck
  extract_lets t gone u
  rw [if_neg (by simp only [t, peer, closing, Stream.isOpen, not_lt.mpr known]; decide), if_pos (by simp [-Fin.getElem_fin, gone, t, queue, isEnd, sent, covered])]
  exact ⟨u, rfl⟩

/-- The cut of a sender out of reach: GAPs for its producers, then its feeds start afresh and the event names it. -/
theorem doPeerStreamCut_of_lost {s v w : State} {n : Fin 16} {did : Nat} {f : PeerFeed}
    (lost : (s.tw[n].fromPeers.find? fun f => decide (f.did = did) && f.lostSince.isSome) = some f)
    (waited : v = waitUp (f.lostSince.getD 0 + s.link.cfg.linkHoldMs * msTicks) s)
    (cut : w = forL (v.tw[n].fromProducers.filter (·.1 = did)) (fun x s => enqueueRecord n (prodPeer did f.stream x.2.1)
      (gapRecord { recHdr x.2.2.2 with flags := 0, itemIndex := x.2.2.1, itemCount := 2 ^ 32 - 1 } 6 v.clk.tick 0) none v.clk.tick s) v) :
    doPeerStreamCut n did s =
      let u := raise 0xA48 [.h did]
        (setStream n (fun t => { t with fromPeers := t.fromPeers.map fun x => if x.did = did then { x with partial_ := [], lostSince := none } else x }) w)
      { u with link := { u.link with lostDids := u.link.lostDids ++ [(did, v.clk.tick)] } } := by
  subst waited cut
  unfold doPeerStreamCut
  simp only [lost]
  rfl

theorem enqueueRecord_rest (n : Fin 16) (producer : Nat) (bytes : Data) (addr : Option Nat) (stop : Nat) (s : State) :
    ∃ tw, enqueueRecord n producer bytes addr stop s = { s with tw := tw } := ⟨_, rfl⟩

/-- Records that join a queue change the streams alone. -/
theorem forL_enqueueRecord_rest {α : Type} {f : α → State → State} (joins : ∀ a s, ∃ tw, f a s = { s with tw := tw }) (l : List α) (s : State) :
    ∃ tw, forL l f s = { s with tw := tw } := by
  unfold forL
  induction l generalizing s with
  | nil => exact ⟨s.tw, rfl⟩
  | cons x l ih =>
    obtain ⟨tw, first⟩ := joins x s
    obtain ⟨tw', rest⟩ := ih (f x s)
    exact ⟨tw', by rw [List.foldl_cons, rest, first]⟩

/-- Settles O32, with a clause for each row and case. -/
theorem recordsAreDelivered : Obligations.RecordsAreDelivered := by
  refine ⟨?_, ?_, ?_, ?_, ?_, ?_, ?_, ?_, ?_⟩
  · intro s n r l v w opened asked serves host queue mastering notEnd room taken
    have same : v.tw[n] = s.tw[n] := by rw [asked, storeAsk_tw]
    refine congrArg Host.Outcome.next ((doRecordDeliver_of_serves opened queue asked serves).trans ?_)
    rw [host, if_neg (by decide), if_pos rfl]
    exact deliverRing_of_room same rfl queue mastering notEnd room taken
  · intro s n r l v opened asked serves host queue full
    have same : v.tw[n] = s.tw[n] := by rw [asked, storeAsk_tw]
    refine congrArg Host.Outcome.next ((doRecordDeliver_of_serves opened queue asked serves).trans ?_)
    rw [host, if_neg (by decide), if_pos rfl]
    exact deliverRing_of_full same rfl full
  · intro s n r l v x opened asked serves log queue nvme notEnd issues takes notFinal fits
    have same : v.tw[n] = s.tw[n] := by rw [asked, storeAsk_tw]
    refine congrArg Host.Outcome.next ((doRecordDeliver_of_serves opened queue asked serves).trans ?_)
    rw [log, if_neg (by decide), if_neg (by decide)]
    exact deliverLogRecord_of_room same rfl nvme notEnd issues takes notFinal queue fits
  · intro s n r l v x opened asked serves log queue nvme notEnd issues takes notFinal full
    have same : v.tw[n] = s.tw[n] := by rw [asked, storeAsk_tw]
    refine congrArg Host.Outcome.next ((doRecordDeliver_of_serves opened queue asked serves).trans ?_)
    rw [log, if_neg (by decide), if_neg (by decide)]
    exact deliverLogRecord_of_full same rfl nvme notEnd issues takes notFinal queue full
  · intro s n r l m v opened asked serves peer queue sent unsent route
    have same : v.tw[n] = s.tw[n] := by rw [asked, storeAsk_tw]
    obtain ⟨r', l', head⟩ : ∃ r' l', s.tw[n].queue = r' :: l' := by
      rw [queue]
      cases m <;> exact ⟨_, _, rfl⟩
    refine congrArg Host.Outcome.next ((doRecordDeliver_of_serves opened head asked serves).trans ?_)
    rw [if_pos peer]
    exact deliverPeer_of_unsent same rfl queue sent unsent route
  · intro s n u since announces
    refine congrArg Host.Outcome.next ?_
    unfold doNotifyTimeout
    simp only [since]
    exact if_neg announces
  · intro s n seq peer opened known goesOn
    exact congrArg Host.Outcome.next (doPeerStreamAck_of_open peer opened known goesOn)
  · intro s n seq r peer closing known queue isEnd sent covered
    obtain ⟨u, ends⟩ := doPeerStreamAck_of_end peer closing known queue isEnd sent covered
    refine ⟨_, congrArg Host.Outcome.next ends, ?_⟩
    exact finishClose_stream n u
  · intro s n did f v w lost waited cut
    refine ⟨_, rfl, ?_⟩
    obtain ⟨tw, joined⟩ : ∃ tw, w = { v with tw := tw } := by
      rw [cut]
      exact forL_enqueueRecord_rest (fun x u => enqueueRecord_rest n _ _ _ _ u) _ v
    rw [doPeerStreamCut_of_lost lost waited cut]
    dsimp only
    rw [raise_tw, raise_clk, raise_lostDids, setStream_self]
    refine ⟨rfl, rfl, ?_, ?_⟩
    · show w.link.lostDids ++ _ = _
      rw [joined]
    · show w.clk.tick = _
      rw [joined]

end Sys2Proof.Delivery
end

section
/-! Draught's rows (R319 to R331): a descriptor is loaded, ends, or meets a bus error. -/

namespace Sys2Proof.DraughtRows

open Sys2Proof Sys2Proof.Machine Sys2Proof.Claims Sys2Proof.Laws Sys2Proof.Rows Sys2Proof.StoreRequests

/-! ## DESCRIPTOR_LOAD -/

section
variable {s v : State} {n : Fin 32} {host : HostRead} (running : dmaHalted s = false) (idle : s.drt.running = none) (next : nextChan s = some n)
  (awake : v = if s.drt.chans[n].descSpace = 1 then storeAwake s else s)
include running idle next awake

theorem doDescriptorLoad_of_bytes {u : State} {b : Data} (read : readDesc v v.drt.chans[n] host = .bytes b)
    (chosen : u = { v with drt := { v.drt with active := n.val, lastChosen := vmodN v.drt.lastChosen (chanPrio v n) (fun _ => n.val) } }) :
    doDescriptorLoad host s =
      if dmaCheck u (dmaDescOf b) ≠ 0 then endBad n (dmaDescOf b) endDescError (dmaCheck u (dmaDescOf b)) (dmaDescOf b).length u
      else startDesc n (dmaDescOf b) u := by
  subst awake chosen
  unfold doDescriptorLoad
  rw [if_neg (by simp [running, idle])]
  simp only [next, read]

theorem doDescriptorLoad_of_error {cause : Nat} (read : readDesc v v.drt.chans[n] host = .error cause) :
    doDescriptorLoad host s = dmaHalt cause n v.drt.chans[n].descAddr v.drt.chans[n].descSpace 0
      (if cause = 4 then reportSpan v.drt.chans[n].descAddr 64 rqDma v else v) := by
  subst awake
  unfold doDescriptorLoad
  rw [if_neg (by simp [running, idle])]
  simp only [next, read]

end

theorem readDesc_of_host {s : State} {c : DmaChan} (space : c.descSpace = 0) (mastering : masters s = true) (host : HostRead) :
    readDesc s c host = host.elim (.error 1) .bytes := by
  unfold readDesc
  rw [if_pos space, if_neg (not_not_intro mastering)]
  cases host <;> rfl

theorem readDesc_of_store {s : State} {c : DmaChan} (space : c.descSpace = 1) (serves : storeServes s = true) (within : c.descAddr + 64 ≤ usable s.store)
    (host : HostRead) :
    readDesc s c host = if readPoisoned s c.descAddr 64 = true then .error 4 else .bytes (rawRead s c.descAddr 64) := by
  unfold readDesc
  rw [if_neg (by rw [space]; decide), if_neg (not_lt.mpr within), if_neg (not_not_intro serves)]

/-! ## DESCRIPTOR_END -/

section
variable {s v : State} {n : Fin 32} {d : DmaDesc} {host : HostRead} (running : s.drt.running = some n) (desc : s.drt.chans[n].desc = some d)
  (notHalted : dmaHalted s = false)
include running desc notHalted

theorem doDescriptorEnd_of_sent (sent : s.drt.chans[n].writesSent = true) (acknowledged : draughtWaits s = false) :
    doDescriptorEnd host s = endOk n d s := by
  unfold doDescriptorEnd
  simp only [running, desc]
  rw [if_neg (by simp [notHalted]), if_pos sent, if_neg (by simp [acknowledged])]

section
variable (unsent : s.drt.chans[n].writesSent = false) (awake : v = if d.from_ = some 1 ∨ d.to_ = 1 then storeAwake s else s)
  (ready : destReady v d = true)
include unsent awake ready

/-- What a descriptor's end does with its source as it is read. -/
theorem doDescriptorEnd_of_ready : doDescriptorEnd host s = match readSource v v.drt.chans[n] d host with
    | .waits => v
    | .error cause => dmaHalt cause n d.src (d.srcSpace % 4) 0 (writeMaybe d 0 (if cause = 4 then reportSpan d.src d.length rqDma v else v))
    | .overwritten => endBad n d 5 0 0 (putTransfer d 0 (freeBytes d.length v).1 (freeBytes d.length v).2)
    | .bytes b => deliver n d b (noteSnoop d v) := by
  subst awake
  unfold doDescriptorEnd
  simp only [running, desc]
  rw [if_neg (by simp [notHalted]), if_neg (by rw [unsent]; decide), if_neg (not_not_intro ready)] <;> rfl

end
end

theorem noteSnoop_of_not_host {d : DmaDesc} (other : d.from_ ≠ some 0) (s : State) : noteSnoop d s = s := if_neg other

/-- Bytes for host memory, the store, the registers or a peer (R322, R324). -/
theorem deliver_host {d : DmaDesc} (space : d.to_ = 0) (n : Fin 32) (b : Data) (s : State) :
    deliver n d b s = endOk n d (hostData (bit d.dstSpace 3) (bit d.dstSpace 2) d.dst b s) := by
  unfold deliver putTransfer
  rw [space, if_neg (by decide), if_neg (by decide), if_pos rfl, Nat.add_zero]

theorem deliver_store {d : DmaDesc} (space : d.to_ = 1) (n : Fin 32) (b : Data) (s : State) :
    deliver n d b s = endOk n d (storeWrite d.dst b s) := by
  unfold deliver putTransfer
  rw [space, if_neg (by decide), if_neg (by decide), if_neg (by decide), if_pos rfl, Nat.add_zero]

theorem deliver_registers {d : DmaDesc} (space : d.to_ = 2) (n : Fin 32) (b : Data) (s : State) :
    deliver n d b s = endOk n d (writeRegs d.dst b s) := if_pos space

theorem deliver_peer {d : DmaDesc} (space : d.to_ = 3) (n : Fin 32) (b : Data) (s : State) :
    deliver n d b s = setChan n (fun c => { c with writesSent := true })
      (forL (spanParts d.dst d.length) (fun p s => sendWrite d.dstDid p.1 ((b.drop p.2.2).take p.2.1) p.2.2 s) s) := by
  unfold deliver
  rw [space, if_neg (by decide), if_pos rfl]

theorem destReady_of_to {s : State} {d : DmaDesc} (host : d.to_ = 0 → masters s = true) (store : d.to_ = 1 → storeServes s = true) :
    destReady s d = true := by
  unfold destReady
  split_ifs with toHost toStore
  · exact host toHost
  · exact store toStore
  · rfl

/-- The space of a descriptor whose source is the store. -/
theorem srcSpace_of_store {d : DmaDesc} (source : d.from_ = some 1) : d.srcSpace % 4 = 1 := by
  unfold DmaDesc.from_ at source
  split at source
  · exact absurd source (by decide)
  · exact Option.some.inj source

theorem readSource_fill {s : State} {c : DmaChan} {d : DmaDesc} (fill : d.from_ = none) (host : HostRead) :
    readSource s c d host = .bytes (fillData d.fill d.length) := by
  unfold readSource
  rw [fill]

theorem readSource_host {s : State} {c : DmaChan} {d : DmaDesc} {b : Data} (source : d.from_ = some 0) (mastering : masters s = true)
    (whole : b.length = d.length) : readSource s c d (some b) = .bytes b := by
  unfold readSource
  rw [source]
  simp [mastering, zeros, ← whole]

theorem readSource_registers {s : State} {c : DmaChan} {d : DmaDesc} (source : d.from_ = some 2) (host : HostRead) :
    readSource s c d host = .bytes (readRegs s d.src (d.length / 4)) := by
  unfold readSource
  rw [source]
  rfl

theorem readSource_store {s : State} {c : DmaChan} {d : DmaDesc} (source : d.from_ = some 1) (serves : storeServes s = true) (host : HostRead) :
    readSource s c d host = if readPoisoned s d.src d.length = true then .error 4 else if historyOverwritten s d = true then .overwritten
      else .bytes (rawRead s d.src d.length) := by
  unfold readSource
  rw [source]
  exact if_neg (not_not_intro serves)

/-! ## DRAUGHT_BUS_ERROR -/

theorem doBusError_of_active {s : State} {cause : Nat} {ch : Fin 32} (notHalted : dmaHalted s = false) (least : 1 ≤ cause) (most : cause ≤ 5)
    (active : chanActive s.drt.chans[ch] = true) (addr space written : Nat) :
    doBusError cause ch addr space written s =
      let desc := match s.drt.running with | some n => s.drt.chans[n].desc | none => none
      let k := match desc with | some d => min written d.length | none => 0
      dmaHalt cause ch addr space k (match desc with | some d => writeMaybe d k (writePrefix d k s) | none => s) := by
  unfold doBusError
  rw [if_neg (by simp only [notHalted, least, most, active]; decide)] <;> rfl

/-- Settles O34, with a clause for each row and case. -/
theorem draughtMovesDescriptors : Obligations.DraughtMovesDescriptors := by
  refine ⟨?_, ?_, ?_, ?_, ?_, ?_, ?_, ?_, ?_, ?_, ?_, ?_, ?_, ?_, ?_⟩
  · intro s n b u running idle next space mastering chosen sound
    have awake : s = if s.drt.chans[n].descSpace = 1 then storeAwake s else s := (if_neg (by rw [space]; decide)).symm
    refine congrArg Host.Outcome.next ((doDescriptorLoad_of_bytes running idle next awake (readDesc_of_host space mastering (some b)) chosen).trans ?_)
    exact if_neg (not_not_intro sound)
  · intro s n b u running idle next space mastering chosen unsound
    have awake : s = if s.drt.chans[n].descSpace = 1 then storeAwake s else s := (if_neg (by rw [space]; decide)).symm
    refine congrArg Host.Outcome.next ((doDescriptorLoad_of_bytes running idle next awake (readDesc_of_host space mastering (some b)) chosen).trans ?_)
    exact if_pos unsound
  · intro s n running idle next space mastering
    have awake : s = if s.drt.chans[n].descSpace = 1 then storeAwake s else s := (if_neg (by rw [space]; decide)).symm
    refine congrArg Host.Outcome.next ((doDescriptorLoad_of_error running idle next awake (readDesc_of_host space mastering none)).trans ?_)
    rw [space, if_neg (by decide)]
  · intro s n h u v running idle next space asked serves within clean chosen unsound
    have awake : v = if s.drt.chans[n].descSpace = 1 then storeAwake s else s := asked.trans (if_pos space).symm
    have read := (readDesc_of_store (c := v.drt.chans[n]) (by rw [asked, storeAwake_drt]; exact space) serves within h).trans (if_neg (by rw [clean]; decide))
    exact congrArg Host.Outcome.next ((doDescriptorLoad_of_bytes running idle next awake read chosen).trans (if_pos unsound))
  · intro s n h v running idle next space asked serves within poisoned
    have awake : v = if s.drt.chans[n].descSpace = 1 then storeAwake s else s := asked.trans (if_pos space).symm
    have space' : v.drt.chans[n].descSpace = 1 := by rw [asked, storeAwake_drt]; exact space
    have read := (readDesc_of_store space' serves within h).trans (if_pos poisoned)
    refine congrArg Host.Outcome.next ((doDescriptorLoad_of_error running idle next awake read).trans ?_)
    rw [space', if_pos rfl]
  · intro s n d b running desc notHalted unsent source dest whole mastering
    have awake : s = if d.from_ = some 1 ∨ d.to_ = 1 then storeAwake s else s := (if_neg (by rw [source, dest]; decide)).symm
    have ready : destReady s d = true := destReady_of_to (fun _ => mastering) (fun toStore => absurd (dest.symm.trans toStore) (by decide))
    refine congrArg Host.Outcome.next ((doDescriptorEnd_of_ready running desc notHalted unsent awake ready).trans ?_)
    rw [readSource_host source mastering whole]
    exact (deliver_host dest n b _).trans (by rw [noteSnoop, if_pos source])
  · intro s n d h v running desc notHalted unsent source dest asked serves
    have awake : v = if d.from_ = some 1 ∨ d.to_ = 1 then storeAwake s else s := asked.trans (if_pos (.inr dest)).symm
    have ready : destReady v d = true := destReady_of_to (fun toHost => absurd (dest.symm.trans toHost) (by decide)) (fun _ => serves)
    refine congrArg Host.Outcome.next ((doDescriptorEnd_of_ready running desc notHalted unsent awake ready).trans ?_)
    rw [readSource_fill source]
    exact (deliver_store dest n _ _).trans (by rw [noteSnoop_of_not_host (by rw [source]; decide)])
  · intro s n d h running desc notHalted unsent source dest
    have awake : s = if d.from_ = some 1 ∨ d.to_ = 1 then storeAwake s else s := (if_neg (by rw [source, dest]; decide)).symm
    have ready : destReady s d = true := destReady_of_to (fun toHost => absurd (dest.symm.trans toHost) (by decide)) (fun toStore => absurd (dest.symm.trans toStore) (by decide))
    refine congrArg Host.Outcome.next ((doDescriptorEnd_of_ready running desc notHalted unsent awake ready).trans ?_)
    rw [readSource_fill source]
    exact (deliver_registers dest n _ _).trans (by rw [noteSnoop_of_not_host (by rw [source]; decide)])
  · intro s n d h running desc notHalted unsent source dest mastering
    have awake : s = if d.from_ = some 1 ∨ d.to_ = 1 then storeAwake s else s := (if_neg (by rw [source, dest]; decide)).symm
    have ready : destReady s d = true := destReady_of_to (fun _ => mastering) (fun toStore => absurd (dest.symm.trans toStore) (by decide))
    refine congrArg Host.Outcome.next ((doDescriptorEnd_of_ready running desc notHalted unsent awake ready).trans ?_)
    rw [readSource_registers source]
    exact (deliver_host dest n _ _).trans (by rw [noteSnoop_of_not_host (by rw [source]; decide)])
  · intro s n d h running desc notHalted unsent source dest
    have awake : s = if d.from_ = some 1 ∨ d.to_ = 1 then storeAwake s else s := (if_neg (by rw [source, dest]; decide)).symm
    have ready : destReady s d = true := destReady_of_to (fun toHost => absurd (dest.symm.trans toHost) (by decide)) (fun toStore => absurd (dest.symm.trans toStore) (by decide))
    refine congrArg Host.Outcome.next ((doDescriptorEnd_of_ready running desc notHalted unsent awake ready).trans ?_)
    rw [readSource_fill source]
    exact (deliver_peer dest n _ _).trans (by rw [noteSnoop_of_not_host (by rw [source]; decide)])
  · intro s n d h running desc notHalted sent acknowledged
    exact congrArg Host.Outcome.next (doDescriptorEnd_of_sent running desc notHalted sent acknowledged)
  · intro s n d h v running desc notHalted unsent source dest asked serves mastering poisoned
    have awake : v = if d.from_ = some 1 ∨ d.to_ = 1 then storeAwake s else s := asked.trans (if_pos (.inl source)).symm
    have ready : destReady v d = true := destReady_of_to (fun _ => mastering) (fun _ => serves)
    refine congrArg Host.Outcome.next ((doDescriptorEnd_of_ready running desc notHalted unsent awake ready).trans ?_)
    rw [(readSource_store source serves h).trans (if_pos poisoned)]
    dsimp only
    rw [srcSpace_of_store source, if_pos rfl]
  · intro s n d h v running desc notHalted unsent source dest asked serves mastering clean overwritten
    have awake : v = if d.from_ = some 1 ∨ d.to_ = 1 then storeAwake s else s := asked.trans (if_pos (.inl source)).symm
    have ready : destReady v d = true := destReady_of_to (fun _ => mastering) (fun _ => serves)
    refine congrArg Host.Outcome.next ((doDescriptorEnd_of_ready running desc notHalted unsent awake ready).trans ?_)
    rw [(readSource_store source serves h).trans ((if_neg (by rw [clean]; decide)).trans (if_pos overwritten))]
    dsimp only
    rw [putTransfer, if_pos dest, Nat.add_zero]
  · intro s cause ch addr space written notHalted least most active idle
    refine congrArg Host.Outcome.next ((doBusError_of_active notHalted least most active _ _ _).trans ?_)
    simp only [idle]
  · intro s cause ch n addr space written d notHalted least most active running desc
    refine congrArg Host.Outcome.next ((doBusError_of_active notHalted least most active _ _ _).trans ?_)
    simp only [running, desc]

end Sys2Proof.DraughtRows
end

section
/-! Training and retraining of the link ports (R338, R339, R342, R354). -/

namespace Sys2Proof.PortTraining

open Sys2Proof Sys2Proof.Machine Sys2Proof.Claims Sys2Proof.Laws Sys2Proof.Rows Sys2Proof.PowerRequests

theorem setPort_self (n : Fin 4) (f : Port → Port) (s : State) : (setPort n f s).link.ports[n] = f s.link.ports[n] :=
  QueueEntries.vmod_self _ _ _

theorem setPort_setPort (n : Fin 4) (f g : Port → Port) (s : State) : setPort n f (setPort n g s) = setPort n (fun p => f (g p)) s :=
  congrArg (fun ports => { s with link := { s.link with ports := ports } }) (QueueEntries.vmod_vmod _ _ _ _)

/-- A change of a port is what it makes of that port as it stands. -/
theorem setPort_congr {n : Fin 4} {f g : Port → Port} {s : State} (same : f s.link.ports[n] = g s.link.ports[n]) : setPort n f s = setPort n g s :=
  congrArg (fun p => { s with link := { s.link with ports := s.link.ports.set n p } }) same

theorem setPort_of_fixed {n : Fin 4} {f : Port → Port} {s : State} (fixed : f s.link.ports[n] = s.link.ports[n]) : setPort n f s = s :=
  congrArg (fun ports => { s with link := { s.link with ports := ports } }) ((congrArg (s.link.ports.set n) fixed).trans (Vector.set_getElem_self n.isLt))

/-- A request that is granted at once, asked in a state with the same power. -/
theorem requestInternal_of_grants {s t : State} {l : List (Nat × Nat)} (same : t.pwr = s.pwr) (grants : GrantsAtOnce s (cost l)) (tag : Nat)
    (o : Owner) : requestInternal tag o l t = (.granted, grantItems o l t) := by
  obtain ⟨possible, empty, fits⟩ := grants
  rw [← same] at possible empty fits
  exact requestInternal_of_fits possible empty (of_decide_eq_true fits) tag o

theorem portBegin_of_training {s : State} {n : Fin 4} (trains : s.link.ports[n].state = .training) : portBegin n s = startSynth (7 + n.val) s :=
  if_pos trains

section
variable {s : State} {n : Fin 4} (down : s.link.ports[n].state = .down) (enabled : s.link.ports[n].hostDown = false)

section
variable (runs : s.boot.phase = .running) (root : rootBypassed s = false) (awake : s.clk.lull ≠ 3)
include down enabled runs root awake

/-- A port that may train asks for its power. -/
theorem trainStart_of_may {r : PowerOutcome × State}
    (asked : requestInternal 4 (.port n.val) (portItems 8 s.link.cfg.maxRate) (setPort n (fun p => { p with state := .training }) s) = r) :
    trainStart n s = match r.1 with
      | .granted => portBegin n r.2
      | .queued => r.2
      | _ => trainFailed n r.2 := by
  unfold trainStart
  rw [if_neg]
  · subst asked
    rfl
  · rintro (up | hostDown | boots | bypassed | deep)
    · exact up down
    · exact absurd (enabled.symm.trans hostDown) (by decide)
    · exact boots runs
    · exact absurd (root.symm.trans bypassed) (by decide)
    · exact awake deep

theorem trainStart_of_granted (grants : GrantsAtOnce s (cost (portItems 8 s.link.cfg.maxRate))) : trainStart n s =
    startSynth (7 + n.val) (grantItems (.port n.val) (portItems 8 s.link.cfg.maxRate) (setPort n (fun p => { p with state := .training }) s)) := by
  have trains := congrArg Port.state (setPort_self n (fun p => { p with state := .training }) s)
  have same : (setPort n (fun p => { p with state := .training }) s).pwr = s.pwr := rfl
  refine (trainStart_of_may down enabled runs root awake (requestInternal_of_grants same grants 4 _)).trans ?_
  generalize setPort n (fun p => { p with state := .training }) s = v at trains ⊢
  exact portBegin_of_training trains

theorem trainStart_of_not_possible (impossible : powerPossible s.pwr (cost (portItems 8 s.link.cfg.maxRate)) = false) : trainStart n s =
    trainFailed n (denyPower 4 (cost (portItems 8 s.link.cfg.maxRate)) (setPort n (fun p => { p with state := .training }) s)) := by
  have same : (setPort n (fun p => { p with state := .training }) s).pwr = s.pwr := rfl
  exact trainStart_of_may down enabled runs root awake (requestInternal_of_not_possible (by rw [same]; exact ne_true_of_eq_false impossible) 4 _)

end

theorem doRetryTimer_of_down (down : s.link.ports[n].state = .down) (enabled : s.link.ports[n].hostDown = false) :
    doRetryTimer n s = trainStart n (waitUp s.link.ports[n].retryAt s) := by
  unfold doRetryTimer
  rw [if_neg]
  rintro (up | hostDown)
  · exact up down
  · exact absurd (enabled.symm.trans hostDown) (by decide)

end

section
variable {s : State} {n : Fin 4} {r : TrainResult} (trains : s.link.ports[n].state = .training) (granted : holdsPower s (.port n.val) = true)
include trains granted

theorem doTrainingComplete_of_failed (fails : r.ok = false ∨ agreedWidth s.link.cfg.noNarrow r.lanesHere r.lanesPeer = none) :
    doTrainingComplete n r s = trainFailed n s := by
  unfold doTrainingComplete
  rw [if_neg (not_or.2 ⟨not_not_intro trains, not_not_intro granted⟩)]
  split
  next => rfl
  next w agreed =>
    refine if_pos (.inl (ne_true_of_eq_false (fails.resolve_right ?_)))
    rw [agreed]
    exact Option.some_ne_none w

theorem doTrainingComplete_of_agreed {w : Nat} {u v : State} (agreed : agreedWidth s.link.cfg.noNarrow r.lanesHere r.lanesPeer = some w)
    (ok : r.ok = true) (pins : s.jtag.pinsTaken = false) (named : r.rate ≠ 0) (most : r.rate ≤ s.link.cfg.maxRate)
    (locked : u = setSynth (7 + n.val) (fun y => { y with state := .locked })
      (setPower (fun g => { g with grants := lmod g.grants (·.owner = .port n.val) fun x => { x with items := portItems w r.rate } }) s))
    (measured : v = noteDelay n r.delay (setPort n (trainedPort r w u.clk.up) u)) :
    doTrainingComplete n r s = strapRoot (reportNeighbour n (settleRoutes (endUnfit n (endPortResets n
      (raise (evPort n 0) [.h r.rate, .h w] (if w = 4 then raise (evPort n 3) [] v else v)))))) := by
  subst locked measured
  unfold doTrainingComplete
  rw [if_neg (not_or.2 ⟨not_not_intro trains, not_not_intro granted⟩)]
  simp only [agreed]
  rw [if_neg]
  · rfl
  · rintro (failed | taken | none | above)
    · exact failed ok
    · exact absurd (pins.symm.trans taken) (by decide)
    · exact named none
    · exact absurd above (not_lt.2 most)

end

/-- A retrain ends in time within 2.5 ms (R342). -/
theorem doRetrainDone_of_retraining {s : State} {n : Fin 4} (retrains : s.link.ports[n].retraining = true) (ok : Bool) :
    doRetrainDone n ok s = if ok = true ∧ s.clk.up ≤ s.link.ports[n].retrainSince + 3200000 then pumpPort n
        (setPort n (fun p => { p with retraining := false, lastGood := s.clk.up, heartbeatSeen := s.clk.up, ackProgress := s.clk.up }) s)
      else portDown n 3 (waitUp (s.link.ports[n].retrainSince + 3200000) s) := by
  have limit : s.link.ports[n].retrainSince + 2 * msTicks + 500 * usTicks = s.link.ports[n].retrainSince + 3200000 :=
    Nat.add_assoc _ (2 * msTicks) (500 * usTicks)
  unfold doRetrainDone
  simp only [limit]
  rw [if_neg (not_not_intro retrains)]

/-- Settles O36, with a clause for each row and case. -/
theorem portsTrainAndRetrain : Obligations.PortsTrainAndRetrain := by
  refine ⟨?_, ?_, ?_, ?_, ?_, ?_, ?_⟩
  · intro s n down enabled runs root awake grants due
    exact congrArg Host.Outcome.next ((if_neg (not_lt.2 due)).trans (trainStart_of_granted down enabled runs root awake grants))
  · intro s n down enabled runs root awake due impossible
    exact congrArg Host.Outcome.next ((if_neg (not_lt.2 due)).trans (trainStart_of_not_possible down enabled runs root awake impossible))
  · intro s n u waited down' enabled' runs root awake grants down enabled
    refine congrArg Host.Outcome.next ((doRetryTimer_of_down down enabled).trans ?_)
    rw [← waited]
    exact trainStart_of_granted down' enabled' runs root awake grants
  · intro s n r w u v trains granted agreed ok pins named most locked measured
    exact congrArg Host.Outcome.next (doTrainingComplete_of_agreed trains granted agreed ok pins named most locked measured)
  · intro s n r trains granted fails
    exact congrArg Host.Outcome.next (doTrainingComplete_of_failed trains granted fails)
  · intro s n retrains inTime
    exact congrArg Host.Outcome.next ((doRetrainDone_of_retraining retrains true).trans (if_pos ⟨rfl, inTime⟩))
  · intro s n retrains
    exact congrArg Host.Outcome.next ((doRetrainDone_of_retraining retrains false).trans (if_neg fun inTime => absurd inTime.1 (by decide)))

end Sys2Proof.PortTraining
end

section
/-! Image updates, quotes and lifecycle tokens (R450 to R452, R541, R542, R545, R546). -/

namespace Sys2Proof.ImagesAndTokens

open Sys2Proof Sys2Proof.Machine Sys2Proof.Claims Sys2Proof.Laws Sys2Proof.Rows

theorem mailSession_of_open {s : State} {u : UpdateSession} (session : s.boot.session = some u) (mailbox : u.monitor = false) :
    mailSession s = some u := by
  unfold mailSession
  rw [session]
  exact if_neg (ne_true_of_eq_false mailbox)

/-! ## IMAGE_UPDATE_DATA and IMAGE_UPDATE_FINISH -/

section
variable {s : State} {c : Cmd} {u : UpdateSession} (session : s.boot.session = some u) (mailbox : u.monitor = false)
include session mailbox

theorem doUpdateData_of_passes {t : State} (d : Data) (readBackOk : Bool)
    (passes : Passes [entryCheck c [(0x08, 16)] [], deviceCheck s c, params [(0x08, decide (c.p32 0x08 = u.received)),
      (0x0C, decide (1 ≤ c.p32 0x0C ∧ c.p32 0x0C ≤ 2 ^ 20 ∧ u.received + c.p32 0x0C ≤ u.length)), (0x10, aligned64 (c.p64 0x10))]])
    (does : (if readBackOk then done c (u.received + c.p32 0x0C) 0 (programNext u ((d ++ zeros (c.p32 0x0C)).take (c.p32 0x0C)) s)
      else complete c stInternal 0 0 0 (failUpdate 0 (programNext u (freeBytes (c.p32 0x0C) s).1 (freeBytes (c.p32 0x0C) s).2))) = t) :
    doUpdateData (some d) readBackOk c s = t := by
  unfold doUpdateData
  rw [mailSession_of_open session mailbox]
  exact checked_eq passes does

theorem doUpdateFinish_of_passes {t : State} (checks : CryptoChecks) (passes : Passes [entryCheck c [] [], deviceCheck s c])
    (does : (match imageFailure s u.slotB (some u.length) checks with
      | some k => complete c stAuth 0 0 (imageAux k) (failUpdate (imageAux k) s)
      | none => done c (imageVersion (imageHead s u.slotB)) (b2n u.slotB)
          (switchSlot u.slotB { s with boot := { s.boot with session := none } })) = t) :
    doUpdateFinish checks c s = t := by
  unfold doUpdateFinish
  rw [mailSession_of_open session mailbox]
  refine checked_eq passes (Eq.trans ?_ does)
  cases imageFailure s u.slotB (some u.length) checks <;> rfl

end

/-! ## LIFECYCLE_UNLOCK -/

theorem doLifecycle_of_passes {s t : State} {c : Cmd} (token : Data) (signatureOk : Bool)
    (passes : Passes [entryCheck c [(0x08, 4), (0x10, 8)] [], deviceCheck s c,
      params [(0x08, decide (1 ≤ c.p32 0x08 ∧ c.p32 0x08 ≤ 4096)), (0x10, aligned64 (c.p64 0x10))]])
    (does : tokenUsed c signatureOk (token.take (c.p32 0x08)) s = t) : doLifecycle (some token) signatureOk c s = t :=
  checked_eq passes does

theorem tokenUsed_of_unsound {s : State} {c : Cmd} {d : Data} {signatureOk : Bool} (unsound : signatureOk = false ∨ tokenSound s d = false) :
    tokenUsed c signatureOk d s = tokenReject c stAuth 5 s :=
  if_pos (unsound.symm.imp ne_true_of_eq_false ne_true_of_eq_false)

section
variable {s : State} {c : Cmd} {d : Data} (sound : tokenSound s d = true) (generation : u32At d 0x10 = s.boot.fuses.relock)
include sound generation

theorem tokenUsed_of_allowed (notSpent : ¬ (u16At d 6 = 1 ∧ 16 ≤ s.boot.fuses.relock)) (allowed : kindAllowed s.boot.lifecycle (u16At d 6) = true) :
    tokenUsed c true d s = done c (tokenActs (u16At d 6) d s).1 0 (raise 0xD07 [.h (u16At d 6)] (tokenActs (u16At d 6) d s).2) := by
  unfold tokenUsed
  rw [if_neg (not_or.2 ⟨not_not_intro sound, not_not_intro rfl⟩), if_neg notSpent, if_neg (not_not_intro generation),
    if_neg (not_not_intro allowed)]

theorem tokenUsed_of_not_allowed (refused : kindAllowed s.boot.lifecycle (u16At d 6) = false) :
    tokenUsed c true d s = tokenReject c stState 0 s := by
  unfold tokenUsed
  rw [if_neg (not_or.2 ⟨not_not_intro sound, not_not_intro rfl⟩)]
  split
  · rfl
  · rw [if_neg (not_not_intro generation), if_pos (ne_true_of_eq_false refused)]

end

/-- In production and unlocked, unlocking and retiring are allowed. -/
theorem kindAllowed_of_locked {l : Lifecycle} (locked : l = .production ∨ l = .unlocked) : kindAllowed l 1 = true ∧ kindAllowed l 3 = true := by
  rcases locked with rfl | rfl <;> decide

theorem kindAllowed_of_closed {l : Lifecycle} (closed : l = .development ∨ l = .retired) (kind : Nat) : kindAllowed l kind = false := by
  rcases closed with rfl | rfl <;> rfl

/-- Settles O44, with a clause for each row and case. -/
theorem imagesQuotesAndTokensAreHandled : Obligations.ImagesQuotesAndTokensAreHandled := by
  refine ⟨?_, ?_, ?_, ?_, ?_, ?_, ?_, ?_, ?_, ?_, ?_⟩
  · intro s id c runs passes
    refine next_runCmd runs ?_
    unfold doUpdateBegin
    exact checked_eq passes rfl
  · intro s id c u d runs passes session mailbox
    exact next_runCmd runs (doUpdateData_of_passes session mailbox d true passes rfl)
  · intro s id c u d runs passes session mailbox
    exact next_runCmd runs (doUpdateData_of_passes session mailbox d false passes rfl)
  · intro s id c u k runs passes session mailbox sound
    exact next_runCmd runs (doUpdateFinish_of_passes session mailbox k passes (by rw [sound]))
  · intro s id c u k e runs passes session mailbox fails
    exact next_runCmd runs (doUpdateFinish_of_passes session mailbox k passes (by rw [fails]))
  · intro s id c q runs passes quoted
    subst quoted
    refine next_runCmd runs ?_
    unfold doAttestQuote
    exact checked_eq passes rfl
  · intro s id c t ok runs passes unsound
    exact next_runCmd runs (doLifecycle_of_passes t ok passes (tokenUsed_of_unsound unsound))
  · intro s id c t d runs passes read sound kind generation unspent locked
    subst read
    refine next_runCmd runs (doLifecycle_of_passes t true passes ((tokenUsed_of_allowed sound generation ?_ ?_).trans ?_))
    · exact fun spent => absurd spent.2 (not_le.2 unspent)
    · rw [kind]
      exact (kindAllowed_of_locked locked).1
    · rw [kind]
      rfl
  · intro s id c t d runs passes read sound kind generation unlocked
    subst read
    refine next_runCmd runs (doLifecycle_of_passes t true passes ((tokenUsed_of_allowed sound generation ?_ ?_).trans ?_))
    · exact fun spent => absurd (kind.symm.trans spent.1) (by decide)
    · rw [kind, unlocked]
      rfl
    · rw [kind]
      rfl
  · intro s id c t d runs passes read sound kind generation locked
    subst read
    refine next_runCmd runs (doLifecycle_of_passes t true passes ((tokenUsed_of_allowed sound generation ?_ ?_).trans ?_))
    · exact fun spent => absurd (kind.symm.trans spent.1) (by decide)
    · rw [kind]
      exact (kindAllowed_of_locked locked).2
    · rw [kind]
      rfl
  · intro s id c t d runs passes read sound generation closed
    subst read
    exact next_runCmd runs (doLifecycle_of_passes t true passes (tokenUsed_of_not_allowed sound generation (kindAllowed_of_closed closed _)))

end Sys2Proof.ImagesAndTokens
end

section
/-! What an idle step lets pass (R169, R203, R219, R406, R489). -/

namespace Sys2Proof.IdleSteps

open Sys2Proof Sys2Proof.Machine Sys2Proof.Claims Sys2Proof.Laws

/-! ## The sequencers -/

/-- A tile changed in nothing but its sequencer, its state and its wait reason. -/
def RunsOnly (t t' : Tile) : Prop := t' = { t with state := t'.state, waitReason := t'.waitReason, seq := t'.seq }

theorem RunsOnly.refl (t : Tile) : RunsOnly t t := rfl

theorem RunsOnly.trans {a b c : Tile} (first : RunsOnly a b) (second : RunsOnly b c) : RunsOnly a c := by
  rw [RunsOnly] at first second ⊢
  rw [second, first]

theorem clockTile_runsOnly (s : State) (n : Fin 20) (t : Tile) : RunsOnly t (clockTile s n t) := by
  unfold clockTile
  split
  next => rfl
  next x running =>
    extract_lets w m
    cases holdReason s n x m <;> split_ifs <;> rfl

/-- The tiles after one clock: what executed ran on, and the rest stayed. -/
def Clocked (s u : State) : Prop :=
  u = { s with tiles := u.tiles } ∧ ∀ n : Fin 20, RunsOnly s.tiles[n] u.tiles[n] ∧ (s.tiles[n].executes = false → u.tiles[n] = s.tiles[n])

theorem Clocked.refl (s : State) : Clocked s s := ⟨rfl, fun n => ⟨RunsOnly.refl s.tiles[n], fun _ => rfl⟩⟩

theorem setTile_self (n : Fin 20) (f : Tile → Tile) (s : State) : (setTile n f s).tiles[n] = f s.tiles[n] := QueueEntries.vmod_self _ _ _

theorem setTile_of_ne {n m : Fin 20} (other : m ≠ n) (f : Tile → Tile) (s : State) : (setTile n f s).tiles[m] = s.tiles[m] :=
  QueueEntries.vmod_of_ne s.tiles f other

theorem Clocked.clock {s u : State} (clocked : Clocked s u) (n : Fin 20) :
    Clocked s (if u.tiles[n].executes then setTile n (clockTile u n) u else u) := by
  split_ifs with executes
  swap
  · exact clocked
  obtain ⟨rest, tiles⟩ := clocked
  refine ⟨congrArg (fun v : State => { v with tiles := (setTile n (clockTile u n) u).tiles }) rest, fun m => ?_⟩
  obtain ⟨ran, stayed⟩ := tiles m
  by_cases here : m = n
  · subst here
    rw [setTile_self]
    refine ⟨ran.trans (clockTile_runsOnly u m _), fun halted => ?_⟩
    rw [stayed halted, halted] at executes
    exact absurd executes Bool.false_ne_true
  · rw [setTile_of_ne here]
    exact ⟨ran, stayed⟩

theorem clockTiles_clocked (s : State) : Clocked s (clockTiles s) :=
  List.foldlRecOn _ _ (Clocked.refl s) fun _ clocked n _ => clocked.clock n

/-! ## What falls due -/

theorem settleLtr_eq (s : State) : ∃ l, settleLtr s = { s with pcie := { s.pcie with messages := s.pcie.messages ++ l } } ∧ l.length ≤ 1 := by
  unfold settleLtr
  split_ifs
  · exact ⟨_, rfl, le_refl 1⟩
  · exact ⟨[], by rw [List.append_nil], Nat.zero_le 1⟩

theorem qualifyEdges_of_none {s : State} (none : s.squall.pendingEdges = []) : qualifyEdges s = s := by
  have due : ((sortBy (·.due) s.squall.pendingEdges).filter fun e => decide (e.due ≤ s.clk.tick)) = [] := by
    rw [none]
    rfl
  have stay : (s.squall.pendingEdges.filter fun e => !decide (e.due ≤ s.clk.tick)) = s.squall.pendingEdges := by
    rw [none]
    rfl
  unfold qualifyEdges
  rw [due, stay]
  rfl

theorem expireDisarms_of_commanded {s : State} (commanded : ∀ d ∈ s.squall.pendingDisarms, d.cmd ≠ none) : expireDisarms s = s := by
  have asked : ∀ d ∈ s.squall.pendingDisarms, (d.cmd.isNone && decide (d.due ≤ s.clk.tick)) = false := by
    intro d mem
    rw [Option.isNone_eq_false_iff.2 (Option.isSome_iff_ne_none.2 (commanded d mem)), Bool.false_and]
  have due : (s.squall.pendingDisarms.filter fun d => d.cmd.isNone && decide (d.due ≤ s.clk.tick)) = [] :=
    List.filter_eq_nil_iff.2 fun d mem => ne_true_of_eq_false (asked d mem)
  have stay : (s.squall.pendingDisarms.filter fun d => !(d.cmd.isNone && decide (d.due ≤ s.clk.tick))) = s.squall.pendingDisarms :=
    List.filter_eq_self.2 fun d mem => by rw [asked d mem, Bool.not_false]
  unfold expireDisarms
  rw [due, stay]
  rfl

theorem squallDue_of_nothing {s : State} (noEdges : s.squall.pendingEdges = []) (commanded : ∀ d ∈ s.squall.pendingDisarms, d.cmd ≠ none) :
    squallDue s = s := by
  unfold squallDue
  rw [qualifyEdges_of_none noEdges, expireDisarms_of_commanded commanded]

/-- The tiles that one cycle leaves, before time passes. -/
theorem clocked_of_cycle (s : State) : Clocked s (if rootBypassed s then s else clockTiles s) := by
  split_ifs
  · exact Clocked.refl s
  · exact clockTiles_clocked s

/-- Settles O2: the sequencers run one clock, time passes and a latency message may leave; what falls due in Squall comes last. -/
theorem idleStepPassesOneCoreCycle : Obligations.IdleStepPassesOneCoreCycle := by
  intro s empty
  have bypassed : rootBypassed s = true → (if rootBypassed s then s else clockTiles s) = s := fun bypass => if_pos bypass
  obtain ⟨rest, tiles⟩ := clocked_of_cycle s
  have stepped : step s = .next (squallDue (idleWork (if rootBypassed s then s else clockTiles s))) := by
    unfold step
    rw [empty]
    rfl
  generalize (if rootBypassed s then s else clockTiles s) = v at *
  obtain ⟨ts, rest⟩ : ∃ ts, v = { s with tiles := ts } := ⟨_, rest⟩
  subst rest
  obtain ⟨l, sent, most⟩ := settleLtr_eq (idleTick { s with tiles := ts })
  rw [idleWork, sent] at stepped
  refine ⟨_, stepped, rfl, rfl, rfl, fun n => (tiles n).1, fun n stays => ?_, ⟨l, rfl, most⟩,
    fun noEdges commanded => squallDue_of_nothing noEdges commanded⟩
  rcases stays with halted | bypass
  · exact (tiles n).2 halted
  · have stayed : ts = s.tiles := congrArg State.tiles (bypassed bypass)
    exact congrArg (·[n]) stayed

end Sys2Proof.IdleSteps
end

section
/-! The device queries and DEV_RESET (R439 to R441, R444, R447, R448, R564). -/

namespace Sys2Proof.DeviceCommands

open Sys2Proof Sys2Proof.Machine Sys2Proof.Claims Sys2Proof.Laws Sys2Proof.Rows

/-! ## The queries -/

section
variable {s : State} {c : Cmd} (passes : Passes [entryCheck c [(0x10, 8)] [], deviceCheck s c, bufCheck c])
include passes

theorem doDevIdentify_of_passes : doDevIdentify c s = done c s.boot.fuses.serial.toNat
    (s.boot.ifMinor + 2 ^ 8 * s.boot.ifMajor + 2 ^ 16 * s.link.did) (writeBlock c (c.p64 0x10) (identityBlock s) s) := by
  unfold doDevIdentify
  exact checked_eq passes rfl

theorem doDevStatus_of_passes : doDevStatus c s = done c s.clk.tick s.clk.lull (writeBlock c (c.p64 0x10) (statusBlock s) s) := by
  unfold doDevStatus
  exact checked_eq passes rfl

theorem doPowerQuery_of_passes : doPowerQuery c s = done c (s.pwr.granted_ + 2 ^ 16 * s.pwr.limit + 2 ^ 32 * s.pwr.effective)
    (s.clk.lull + 2 ^ 8 * s.pwr.queue.length) (if c.p64 0x10 = 0 then s else writeBlock c (c.p64 0x10) (powerBlock s) s) := by
  unfold doPowerQuery
  exact checked_eq passes rfl

end

theorem doCalStatus_of_passes {s : State} {c : Cmd} (passes : Passes [entryCheck c [] [], deviceCheck s c]) :
    doCalStatus c s = done c s.cal.word s.cal.endTick s := by
  unfold doCalStatus
  exact checked_eq passes rfl

theorem doMonitorSummary_of_passes {s : State} {c : Cmd} (passes : Passes [entryCheck c [(0x08, 2), (0x10, 8)] [], deviceCheck s c, bufCheck c]) :
    doMonitorSummary c s = done c 0 0 (writeBlock c (c.p64 0x10) (summaryBlock s) s) := by
  unfold doMonitorSummary
  exact checked_eq passes rfl

/-! ## DEV_RESET -/

theorem resetLater_of_passes {s : State} {c : Cmd} (passes : Passes [resetEntry c 1, deviceCheck s c]) (scope : Nat) :
    resetLater scope c s = done c 0 0 { s with mbx := { s.mbx with delayed := s.mbx.delayed ++ [⟨scope, s.clk.up + 1280000⟩] } } := by
  unfold resetLater
  exact checked_eq passes rfl

theorem doResetTile_of_fenced {s : State} {c : Cmd} {n : Fin 20} (named : c.p8 0x09 = n.val) (passes : Passes [resetEntry c 20, deviceCheck s c])
    (fenced : s.tiles[n].state = .fenced) (selfTest : Bool) :
    doResetTile selfTest c s = done c 0 0 (tileSelfTest n selfTest (clearFenced n s)) := by
  obtain rfl : n = Fin.ofNat 20 (c.p8 0x09) := by rw [named, Fin.ofNat_val_eq_self]
  unfold doResetTile
  exact checked_eq (passes_snoc passes (needState_none.2 (decide_eq_true fenced))) rfl

theorem doResetChannel_of_granted {s : State} {c : Cmd} (passes : Passes [resetEntry c 16, deviceCheck s c]) (ready : s.store.state = .ready)
    (notHeld : holdsPower s (.retrain (c.p8 0x09)) = false) (notWaiting : waitsPower s (.retrain (c.p8 0x09)) = false)
    (grants : GrantsAtOnce s (cost retrainItems)) :
    doResetChannel c s = wait c (grantItems (.retrain (c.p8 0x09)) retrainItems s) := by
  have request : requestPower c (.retrain (c.p8 0x09)) retrainItems s = (.granted, grantItems (.retrain (c.p8 0x09)) retrainItems s) := by
    obtain ⟨possible, empty, fits⟩ := grants
    exact PowerRequests.requestPower_of_fits possible empty (of_decide_eq_true fits) c _
  unfold doResetChannel
  refine checked_eq (passes_snoc passes (needState_none.2 (by rw [ready]; decide))) ?_
  rw [if_neg (by rw [notHeld, notWaiting]; decide), request]
  rfl

theorem doResetPort_of_passes {s : State} {c : Cmd} {n : Fin 4} (named : c.p8 0x09 = n.val) (passes : Passes [resetEntry c 4, deviceCheck s c])
    (enabled : s.link.ports[n].state ≠ .disabled) (noFlows : s.link.flows.any (·.port = n.val) = false) :
    doResetPort c s = trainStart n (setPort n (fun p => { p with hostDown := false, retryAt := (wait c (portDown n 5 s)).clk.up })
      (wait c (portDown n 5 s))) := by
  obtain rfl : n = Fin.ofNat 4 (c.p8 0x09) := by rw [named, Fin.ofNat_val_eq_self]
  unfold doResetPort
  refine checked_eq (passes_snoc passes (needState_none.2 ?_)) rfl
  rw [noFlows, decide_eq_true enabled]
  rfl

theorem doResetScan_of_passes {s : State} {c : Cmd} (passes : Passes [resetEntry c 1, deviceCheck s c]) :
    doResetScan c s = done c 0 0 (scanReset s) := by
  unfold doResetScan
  exact checked_eq passes rfl

/-- Settles O3, with a clause for each row and case. -/
theorem deviceCommandsAnswerAndReset : Obligations.DeviceCommandsAnswerAndReset := by
  refine ⟨?_, ?_, ?_, ?_, ?_, ?_, ?_, ?_, ?_, ?_, ?_, ?_⟩
  · exact fun s id c runs passes => next_runCmd runs (doDevIdentify_of_passes passes)
  · exact fun s id c runs passes => next_runCmd runs (doDevStatus_of_passes passes)
  · exact fun s id c runs passes => next_runCmd runs (doPowerQuery_of_passes passes)
  · exact fun s id c runs passes => next_runCmd runs (doCalStatus_of_passes passes)
  · exact fun s id c runs passes => next_runCmd runs (doMonitorSummary_of_passes passes)
  · exact fun s id c runs passes => next_runCmd runs (resetLater_of_passes passes 0)
  · exact fun s id c runs passes => next_runCmd runs (resetLater_of_passes passes 5)
  · exact fun s id c n selfTest runs passes named fenced => next_runCmd runs (doResetTile_of_fenced named passes fenced selfTest)
  · exact fun s id c runs passes ready notHeld notWaiting possible empty fits =>
      next_runCmd runs (doResetChannel_of_granted passes ready notHeld notWaiting ⟨possible, empty, fits⟩)
  · exact fun s id c n runs passes named enabled noFlows => next_runCmd runs (doResetPort_of_passes named passes enabled noFlows)
  · exact fun s id c runs passes => next_runCmd runs (doResetScan_of_passes passes)
  · intro s d l due
    refine congrArg Host.Outcome.next ?_
    unfold doDelayedReset
    rw [due]

end Sys2Proof.DeviceCommands
end

section
/-! Latency tolerance, power limit, time base settings, the power queue and the thermal evaluation (R442 to R446, R502, R503, R505, R507). -/

namespace Sys2Proof.PowerSettings

open Sys2Proof Sys2Proof.Machine Sys2Proof.Safety Sys2Proof.Claims Sys2Proof.Laws Sys2Proof.Rows

/-! ## The settings -/

theorem doSetTolerance_of_awake {s : State} {c : Cmd} (passes : Passes [entryCheck c [(0x08, 4)] [], deviceCheck s c])
    (awake : s.store.state ≠ .selfRefresh) :
    doSetTolerance c s = done c (lullAllowed (c.p32 0x08)) 0 (settleLull { s with pwr := { s.pwr with tolHost := c.p32 0x08 } }) := by
  unfold doSetTolerance
  refine checked_eq passes ?_
  dsimp only
  rw [if_neg fun sleeps => awake sleeps.1]
  rfl

theorem doTimebaseSet_of_allowed {s : State} {c : Cmd} (passes : Passes [entryCheck c [(0x08, 1), (0x10, 8)] [], deviceCheck s c])
    (allowed : stepAllowed s = true) (root : s.link.upstream = none) (trigger : c.p8 0x08 ≤ 1) :
    doTimebaseSet c s = if c.p8 0x08 = 1 then wait c s else done c s.clk.tick (c.p64 0x10) (setTime (c.p64 0x10) s) := by
  unfold doTimebaseSet
  refine checked_eq (passes_snoc (passes_snoc (passes_snoc passes (needState_none.2 allowed)) (needState_none.2 ?_)) (params_none.2 ?_)) ?_
  · rw [root]
    rfl
  · intro x mem
    rw [List.mem_singleton.1 mem]
    exact decide_eq_true trigger
  · rw [takeTimeSet, if_neg (not_not_intro allowed), root, Option.isSome_none, if_neg Bool.false_ne_true]

theorem doDiscipline_of_source {s : State} {c : Cmd} (passes : Passes [entryCheck c [(0x08, 1), (0x0C, 2)] [], deviceCheck s c])
    (source : c.p8 0x08 ≤ 3) (upstream : c.p8 0x08 = 3 ↔ s.link.upstream.isSome = true) (interval : c.p16 0x0C ≤ 1000) :
    doDiscipline c s = done c (selectSource (c.p8 0x08) (if c.p16 0x0C = 0 then 10 else c.p16 0x0C) s).clk.loop.state 0
      (selectSource (c.p8 0x08) (if c.p16 0x0C = 0 then 10 else c.p16 0x0C) s) := by
  unfold doDiscipline
  refine checked_eq (passes_snoc (passes_snoc passes (needState_none.2 ?_)) (params_none.2 ?_)) rfl
  · have agrees : decide (c.p8 0x08 = 3) = s.link.upstream.isSome := Bool.eq_iff_iff.2 (decide_eq_true_iff.trans upstream)
    rw [agrees, beq_self_eq_true, Bool.or_true]
  · intro x mem
    rcases List.mem_cons.1 mem with here | mem
    · rw [here]
      exact decide_eq_true source
    · rw [List.mem_singleton.1 mem]
      exact decide_eq_true interval

/-! ## The power queue -/

theorem popPower_of_cons {s : State} {r : PowerReq} {l : List PowerReq} (queue : s.pwr.queue = r :: l) :
    popPower s = setPower (fun p => { p with queue := l, waitTicks := satN 64 (p.waitTicks + (s.clk.up - r.since)) }) s := by
  unfold popPower
  rw [queue]

section
variable {s : State} {r : PowerReq} {l : List PowerReq} (queue : s.pwr.queue = r :: l) (runs : s.boot.phase = .running)
include queue runs

/-- A request at the head that fits is granted, and its operation goes on. -/
theorem doPowerRequestGrant_of_internal (fits : powerFits s.pwr (cost r.items) = true) (engine : r.cmd = none) : doPowerRequestGrant s =
    grantedInternal r.owner (raise 0xB52 [.w r.tag.toNat, .w (cost r.items)] (grantItems r.owner r.items (popPower s))) := by
  unfold doPowerRequestGrant
  simp only [queue, engine]
  rw [if_neg (not_or.2 ⟨not_not_intro fits, not_not_intro runs⟩)]

theorem doPowerRequestGrant_of_command {id : Nat} {c : Cmd} (fits : powerFits s.pwr (cost r.items) = true) (command : r.cmd = some id)
    (found : findCmd (raise 0xB52 [.w r.tag.toNat, .w (cost r.items)] (grantItems r.owner r.items (popPower s))) id = some c) :
    doPowerRequestGrant s = grantedCmd { c with waiting := false } r.owner (setCmd id (fun c => { c with waiting := false })
      (raise 0xB52 [.w r.tag.toNat, .w (cost r.items)] (grantItems r.owner r.items (popPower s)))) := by
  unfold doPowerRequestGrant
  simp only [queue, command, found]
  rw [if_neg (not_or.2 ⟨not_not_intro fits, not_not_intro runs⟩)]

/-- A request of the engine that has waited 10 s is denied. -/
theorem doPowerRequestTimeout_of_internal (engine : r.cmd = none) : doPowerRequestTimeout s =
    deniedInternal r.owner (denyPower r.tag (cost r.items) (popPower (waitUp (r.since + 12800000000) s))) := by
  unfold doPowerRequestTimeout
  rw [queue]
  dsimp only
  rw [if_neg (not_not_intro runs), engine, show 10 * secTicks = 12800000000 from rfl]

end

/-! ## The thermal evaluation -/

/-- The state whose effective limit an evaluation sets, once the time has come: the junction is read, and a change is counted. -/
def evaluated (v : State) : State :=
  let w := { v with fw := { v.fw with tjEval := tjMax v, lastEval := v.clk.up } }
  setPower (fun p => { p with thermalChanges := satN 32 (p.thermalChanges +
    b2n (decide (effectiveLimit w.pwr.limit w.fw.tjEval ≠ w.pwr.effective))) }) w

theorem evaluated_clk (v : State) : (evaluated v).clk = v.clk := by rw [evaluated, setPower_clk]

theorem evaluated_fw (v : State) : (evaluated v).fw = { v.fw with tjEval := tjMax v, lastEval := v.clk.up } := by rw [evaluated, setPower_fw]

theorem evaluated_limit (v : State) : (evaluated v).pwr.limit = v.pwr.limit := by rw [evaluated, setPower_pwr]

theorem tjMax_withClk (s : State) (k : Clock) : tjMax { s with clk := k } = tjMax s := rfl

theorem doThermalEvaluation_eq {s v : State} (runs : s.boot.phase = .running) (waited : waitUp (s.fw.lastEval + 10 * msTicks) s = v) :
    doThermalEvaluation s = setEffective (evaluated v) := by
  unfold doThermalEvaluation
  rw [if_neg (not_not_intro runs), waited]
  rfl

/-- Settles O4, with a clause for each row and case. -/
theorem powerSettingsAndQueueTakeEffect : Obligations.PowerSettingsAndQueueTakeEffect := by
  refine ⟨?_, ?_, ?_, ?_, ?_, ?_, ?_, ?_⟩
  · exact fun s id c runs passes awake => next_runCmd runs (doSetTolerance_of_awake passes awake)
  · exact fun s id c runs passes least most => PowerLimit.exec_setPowerLimit_of_inRange runs passes least most
  · exact fun s id c runs passes allowed root trigger => next_runCmd runs (doTimebaseSet_of_allowed passes allowed root trigger)
  · exact fun s id c runs passes source upstream interval => next_runCmd runs (doDiscipline_of_source passes source upstream interval)
  · intro s r l queue fits runs engine
    refine ⟨_, congrArg Host.Outcome.next (doPowerRequestGrant_of_internal queue runs fits engine), rfl, ?_, ?_, ?_⟩
    · rw [popPower_of_cons queue, setPower_pwr]
    · rw [popPower_of_cons queue, setPower_pwr]
    · rw [popPower_of_cons queue, grantItems, setPower_pwr, setPower_pwr]
  · intro s r l id c queue fits runs command found
    exact ⟨_, congrArg Host.Outcome.next (doPowerRequestGrant_of_command queue runs fits command found), rfl⟩
  · intro s r l queue runs engine
    refine ⟨_, congrArg Host.Outcome.next (doPowerRequestTimeout_of_internal queue runs engine), rfl, ?_⟩
    rw [popPower_of_cons (s := waitUp (r.since + 12800000000) s) (l := l) (r := r) (by rw [waitUp_pwr]; exact queue), setPower_pwr]
  · intro s runs
    obtain ⟨k, waited, -, up⟩ := waitUp_eq (s.fw.lastEval + 10 * msTicks) s
    have side := PowerLimit.setEffective_side (evaluated { s with clk := k })
    refine ⟨setEffective (evaluated { s with clk := k }), ?_, ?_, ?_, ?_, ?_, ?_⟩
    · exact congrArg Host.Outcome.next (doThermalEvaluation_eq runs waited)
    · rw [Side_fw side, setPower_fw, evaluated_fw, tjMax_withClk]
    · rw [Side_pwr side, setPower_pwr, evaluated_limit, evaluated_fw, tjMax_withClk]
    · rw [Side_clk side, setPower_clk, evaluated_clk]
      exact up.trans (by rw [show 10 * msTicks = 12800000 from rfl])
    · rw [Side_fw side, Side_clk side, setPower_fw, setPower_clk, evaluated_fw, evaluated_clk]
    · rw [Side_fw side, Side_clk side, Side_pwr side]
      exact side

end Sys2Proof.PowerSettings
end

section
/-! References, lock, holdover, relock and departures of the synthesizers (R65, R104, R478, R479, R484, R486, R487). -/

namespace Sys2Proof.ClockDomains

open Sys2Proof Sys2Proof.Machine Sys2Proof.Safety Sys2Proof.Claims Sys2Proof.Laws Sys2Proof.Rows

/-! ## What changes the clock alone -/

/-- A later state that differs in its clock and in what raising events may change. -/
def ClockSide (s t : State) : Prop := t = { sideOf s t with clk := t.clk }

theorem ClockSide.trans {s t u : State} (first : ClockSide s t) (second : ClockSide t u) : ClockSide s u :=
  Eq.trans second (congrArg (fun v => { sideOf v u with clk := u.clk }) first)

theorem clockSide_of_clk (s : State) (k : Clock) : ClockSide s { s with clk := k } := rfl

theorem clockSide_raise (ev : Nat) (vals : List Val) (s : State) : ClockSide s (raise ev vals s) := by
  rw [ClockSide, raise_clk]
  exact raise_side ev vals s (Side_refl s)

theorem settleUncertain_clk (s : State) : (settleUncertain s).clk = { s.clk with uncertain := uncertainNow s } := by
  dsimp only [settleUncertain]
  split
  next unchanged => rw [unchanged]
  next => rw [raise_clk, setClk_clk]

theorem clockSide_settleUncertain (s : State) : ClockSide s (settleUncertain s) := by
  dsimp only [settleUncertain]
  split
  · exact clockSide_of_clk s s.clk
  · exact (clockSide_of_clk s _).trans (clockSide_raise _ _ _)

theorem setSynth_self (k : Fin 11) (f : Synth → Synth) (s : State) : (setSynth k.val f s).clk.synths[k] = f s.clk.synths[k] := by
  rw [show (setSynth k.val f s).clk.synths = vmod s.clk.synths k f from dif_pos k.isLt]
  exact QueueEntries.vmod_self _ _ _

theorem setSynth_of_ne {k j : Fin 11} (other : j ≠ k) (f : Synth → Synth) (s : State) :
    (setSynth k.val f s).clk.synths[j] = s.clk.synths[j] := by
  rw [show (setSynth k.val f s).clk.synths = vmod s.clk.synths k f from dif_pos k.isLt]
  exact QueueEntries.vmod_of_ne _ _ other

/-! ## Lock lost -/

/-- A synthesizer that has lost lock. -/
def heldOver (k : Fin 11) (s : State) : State :=
  setSynth k.val (fun y => { y with state := .holdover, since := s.clk.up, unlocks := satN 16 (y.unlocks + 1) }) s

theorem toHoldover_of_plain {s : State} {k : Fin 11} (locked : s.clk.synths[k].state = .locked) (plain : k.val < 3 ∨ 7 ≤ k.val) :
    toHoldover k s = settleUncertain (raise (evSynth k 1) [] (heldOver k s)) := by
  unfold toHoldover
  rw [if_neg (not_not_intro locked)]
  dsimp only
  rw [dif_neg (by omega)]
  rfl

theorem toHoldover_of_not_locked {s : State} {k : Fin 11} (unlocked : s.clk.synths[k].state ≠ .locked) : toHoldover k s = s := if_pos unlocked

theorem toHoldover_of_inlet {s : State} {n : Fin 4} (locked : s.clk.synths[(⟨n.val + 3, by omega⟩ : Fin 11)].state = .locked) :
    toHoldover ⟨n.val + 3, by omega⟩ s =
      settleUncertain (raise (evSynth ⟨n.val + 3, by omega⟩ 1) [] (inletUnlocked n (heldOver ⟨n.val + 3, by omega⟩ s))) := by
  unfold toHoldover
  rw [if_neg (not_not_intro locked)]
  dsimp only
  rw [dif_pos (by omega)]
  rfl

/-- What a lost lock of a synthesizer other than an inlet's does to the clock. -/
theorem toHoldover_clk {s : State} {k : Fin 11} (locked : s.clk.synths[k].state = .locked) (plain : k.val < 3 ∨ 7 ≤ k.val) :
    ∃ u, (toHoldover k s).clk = { (heldOver k s).clk with uncertain := u } := by
  rw [toHoldover_of_plain locked plain, settleUncertain_clk, raise_clk]
  exact ⟨_, rfl⟩

theorem clockSide_toHoldover {s : State} {k : Fin 11} (plain : k.val < 3 ∨ 7 ≤ k.val) : ClockSide s (toHoldover k s) := by
  by_cases locked : s.clk.synths[k].state = .locked
  · rw [toHoldover_of_plain locked plain]
    exact ((clockSide_of_clk s _).trans (clockSide_raise _ _ _)).trans (clockSide_settleUncertain _)
  · rw [toHoldover_of_not_locked locked]
    exact clockSide_of_clk s s.clk

/-- What a lost reference does to the root: where it was locked it holds over, and nothing else of the synthesizers changes. -/
theorem toHoldover_root (s : State) : (s.clk.synths[0].state = .locked → (toHoldover 0 s).clk.synths[0].state = .holdover) ∧
    (∀ k : Fin 11, k ≠ 0 → (toHoldover 0 s).clk.synths[k] = s.clk.synths[k]) ∧ (toHoldover 0 s).clk.refInUse = s.clk.refInUse := by
  by_cases locked : s.clk.synths[0].state = .locked
  · obtain ⟨u, clk⟩ := toHoldover_clk (k := 0) locked (.inl (by decide))
    rw [clk]
    exact ⟨fun _ => congrArg Synth.state (setSynth_self 0 _ s), fun k other => setSynth_of_ne other _ s, rfl⟩
  · rw [toHoldover_of_not_locked (k := 0) locked]
    exact ⟨fun here => absurd here locked, fun _ _ => rfl, rfl⟩

/-! ## An inlet's lock lost -/

/-- A later state in which inlet n may have new holes: whether it is unlocked, the clock and the other inlets are as they were. -/
structure Holed (n : Fin 4) (s t : State) : Prop where
  side : Side { s with inlets := t.inlets, store := t.store } t
  others : ∀ j : Fin 4, j ≠ n → t.inlets[j] = s.inlets[j]
  unlocked : t.inlets[n].unlocked = s.inlets[n].unlocked

theorem Holed.refl (n : Fin 4) (s : State) : Holed n s s := ⟨rfl, fun _ _ => rfl, rfl⟩

theorem Holed.trans {n : Fin 4} {s t u : State} (first : Holed n s t) (second : Holed n t u) : Holed n s u where
  side := Eq.trans second.side (congrArg (fun v => sideOf { v with inlets := u.inlets, store := u.store } u) first.side)
  others := fun j other => (second.others j other).trans (first.others j other)
  unlocked := second.unlocked.trans first.unlocked

theorem holed_setStore (n : Fin 4) (f : Store → Store) (s : State) : Holed n s (setStore f s) := ⟨rfl, fun _ _ => rfl, rfl⟩

theorem holed_setInlet {n : Fin 4} {f : Inlet → Inlet} (keeps : ∀ i, (f i).unlocked = i.unlocked) (s : State) : Holed n s (setInlet n f s) where
  side := rfl
  others := fun _ other => QueueEntries.vmod_of_ne s.inlets f other
  unlocked := (congrArg Inlet.unlocked (QueueEntries.vmod_self s.inlets n f)).trans (keeps _)

theorem holed_raiseAt (n : Fin 4) (ev tick : Nat) (vals : List Val) (s : State) : Holed n s (raiseAt ev tick vals s) := by
  have side := raiseAt_side ev tick vals s (Side_refl s)
  refine ⟨?_, fun j _ => ?_, ?_⟩
  · rw [Side_inlets side, Side_store side]
    exact side
  · rw [Side_inlets side]
  · rw [Side_inlets side]

theorem holed_foldl {n : Fin 4} {α : Type} {f : State → α → State} (step : ∀ s a, Holed n s (f s a)) (l : List α) (s : State) :
    Holed n s (l.foldl f s) :=
  List.foldlRecOn l f (Holed.refl n s) fun _ holed a _ => holed.trans (step _ a)

theorem holed_scrambleHistory (n : Fin 4) (s : State) : Holed n s (scrambleHistory s) := by
  unfold scrambleHistory
  split
  · split
    · exact Holed.refl n s
    · exact holed_setStore n _ s
  · exact Holed.refl n s

theorem holed_mergeClosest (n : Fin 4) (s : State) : Holed n s (mergeClosest n s) := by
  dsimp only [mergeClosest]
  split
  · refine (Holed.trans (t := setInlet n _ s) (holed_setInlet ?_ s) (holed_setStore n _ _)).trans (holed_raiseAt n _ _ _ _)
    exact fun _ => rfl
  · exact Holed.refl n s

theorem holed_enterHole (n : Fin 4) (start stop cause : Nat) (s : State) : Holed n s (enterHole n start stop cause s) := by
  dsimp only [enterHole]
  split
  · exact Holed.refl n s
  · refine Holed.trans ?_ (holed_foldl (fun s _ => holed_mergeClosest n s) _ _)
    refine Holed.trans ?_ (holed_foldl (fun s p => holed_raiseAt n _ _ _ s) _ _)
    refine (holed_scrambleHistory n s).trans (holed_setInlet ?_ _)
    exact fun _ => rfl

/-- What a lost lock of an inlet's synthesizer does to its inlet. -/
theorem inletUnlocked_holed (n : Fin 4) (s : State) : ∃ u, Holed n { s with inlets := vmod s.inlets n u } (inletUnlocked n s) ∧
    (s.inlets[n].state ≠ .stopped → s.inlets[n].state ≠ .starting → ∀ i, (u i).unlocked = true) := by
  dsimp only [inletUnlocked]
  split
  next quiet =>
    refine ⟨id, ?_, fun notStopped notStarting => absurd quiet (not_or.2 ⟨notStopped, notStarting⟩)⟩
    rw [show vmod s.inlets n id = s.inlets from Vector.set_getElem_self _]
    exact Holed.refl n s
  next => exact ⟨fun i => { i with unlocked := true }, holed_enterHole n _ _ _ _, fun _ _ _ => rfl⟩

/-- What an inlet's lost lock leaves as it was. -/
theorem rest_of_holed {s v t : State} {n : Fin 4} {k : Clock} {inlets : Vector Inlet 4} (holed : Holed n { s with clk := k, inlets := inlets } v)
    (clockSide : ClockSide v t) : t.inlets = v.inlets ∧ t = { sideOf s t with clk := t.clk, inlets := t.inlets, store := t.store } := by
  have later : t = { sideOf v t with clk := t.clk } := clockSide
  have sameInlets : t.inlets = v.inlets := (congrArg State.inlets later).trans rfl
  have sameStore : t.store = v.store := (congrArg State.store later).trans rfl
  refine ⟨sameInlets, ?_⟩
  rw [sameInlets, sameStore]
  exact Eq.trans clockSide (congrArg (fun x => { sideOf x t with clk := t.clk }) holed.side)

/-! ## Lock gained -/

theorem clockSide_locked (k : Fin 11) (s : State) :
    ClockSide s (settleUncertain (raise (evSynth k 0) [] (setSynth k.val (fun y => { y with state := .locked }) (waitLock k s)))) :=
  (((clockSide_of_clk s _).trans (clockSide_of_clk (waitLock k s) _)).trans (clockSide_raise _ _ _)).trans (clockSide_settleUncertain _)

/-- The clock once a synthesizer has qualified its lock. -/
theorem locked_clk (k : Fin 11) (s : State) :
    ∃ u, (settleUncertain (raise (evSynth k 0) [] (setSynth k.val (fun y => { y with state := .locked }) (waitLock k s)))).clk =
      { (setSynth k.val (fun y => { y with state := .locked }) (waitLock k s)).clk with uncertain := u } := by
  rw [settleUncertain_clk, raise_clk]
  exact ⟨_, rfl⟩

/-- The state in which a synthesizer has qualified its lock. -/
def lockedAt (k : Fin 11) (s : State) : State :=
  settleUncertain (raise (evSynth k 0) [] (setSynth k.val (fun y => { y with state := .locked }) (waitLock k s)))

theorem lockedAt_synth (k : Fin 11) (s : State) : (lockedAt k s).clk.synths[k] = { s.clk.synths[k] with state := .locked } := by
  obtain ⟨u, clk⟩ := locked_clk k s
  rw [lockedAt, clk]
  exact setSynth_self k _ (waitLock k s)

theorem lockedAt_other {k j : Fin 11} (other : j ≠ k) (s : State) : (lockedAt k s).clk.synths[j] = s.clk.synths[j] := by
  obtain ⟨u, clk⟩ := locked_clk k s
  rw [lockedAt, clk]
  exact setSynth_of_ne other _ (waitLock k s)

theorem lockedAt_up (k : Fin 11) (s : State) :
    (lockedAt k s).clk.up = max s.clk.up (s.clk.synths[k].since + lockCycles s k.val * phaseTicks s k.val) := by
  obtain ⟨u, clk⟩ := locked_clk k s
  rw [lockedAt, clk]
  exact up_waitUp _ s

theorem doSynthRelock_of_holdover {s : State} {k : Fin 11} (holds : s.clk.synths[k].state = .holdover) (reference : hasReference s k = true) :
    doSynthRelock k s = if k = 1 then resumeStore (lockedAt k s) else lockedAt k s := by
  unfold doSynthRelock
  rw [if_pos reference, holds]
  rfl

theorem doSynthRelock_of_bypass {s : State} {k : Fin 11} (bypassed : s.clk.synths[k].state = .bypass) (reference : hasReference s k = true) :
    doSynthRelock k s = afterBypass k (raise (evSynth k 3) [] (setSynth k.val (fun y => { y with state := .locked }) (waitLock k s))) := by
  unfold doSynthRelock
  rw [if_pos reference, bypassed]

section
variable {s : State} {k : Fin 11} (acquires : s.clk.synths[k].state = .acquiring)
include acquires

theorem doSynthLocked_of_plain (notPixel : k.val ≠ 2) (notInlet : ¬ (3 ≤ k.val ∧ k.val < 7)) : doSynthLocked k s = lockedAt k s := by
  unfold doSynthLocked
  rw [if_neg (not_not_intro acquires)]
  dsimp only
  rw [if_neg fun pixel => notPixel (congrArg Fin.val pixel), dif_neg notInlet]
  rfl

end

theorem doSynthLocked_of_pixel {s : State} (acquires : s.clk.synths[2].state = .acquiring) : doSynthLocked 2 s = pixelLocked (lockedAt 2 s) :=
  (if_neg (not_not_intro acquires)).trans (if_pos rfl)

theorem doSynthLocked_of_inlet {s : State} {n : Fin 4} (acquires : s.clk.synths[(⟨n.val + 3, by omega⟩ : Fin 11)].state = .acquiring) :
    doSynthLocked ⟨n.val + 3, by omega⟩ s = inletPllLocked n (lockedAt ⟨n.val + 3, by omega⟩ s) := by
  unfold doSynthLocked
  rw [if_neg (not_not_intro acquires)]
  dsimp only
  rw [if_neg (fun pixel => absurd (congrArg Fin.val pixel) (by change n.val + 3 ≠ 2; omega)), dif_pos (by omega)]
  rfl

theorem doDeparture_of_locked {s : State} {k : Fin 11} (locked : s.clk.synths[k].state = .locked) (root : rootBypassed s = false)
    (crystal : s.clk.crystalLost = false ∨ k = 0) : ∃ f : Synth → Synth, (∀ y, (f y).state = .bypass) ∧
      doDeparture k s = safeState k (raise (evSynth k 2) []
        { setSynth k.val f s with life := { s.life with bypasses := satN 32 (s.life.bypasses + 1) } }) := by
  refine ⟨fun y => { y with state := .bypass, since := s.clk.up, unlocks := if y.state = .locked then satN 16 (y.unlocks + 1) else y.unlocks },
    fun _ => rfl, if_neg ?_⟩
  rintro (off | bypass | root' | ⟨lost, notRoot⟩)
  · exact absurd (locked.symm.trans off) (by decide)
  · exact absurd (locked.symm.trans bypass) (by decide)
  · exact absurd (root.symm.trans root') (by decide)
  · rcases crystal with crystal | isRoot
    · exact absurd (crystal.symm.trans lost) (by decide)
    · exact notRoot isRoot

/-- Settles O5, with a clause for each event and case. -/
theorem clockDomainsFollowTheirReferences : Obligations.ClockDomainsFollowTheirReferences := by
  refine ⟨?_, ?_, ?_, ?_, ?_, ?_, ?_, ?_, ?_, ?_, ?_⟩
  · intro s least most
    obtain ⟨holds, others, -⟩ := toHoldover_root s
    refine ⟨_, congrArg Host.Outcome.next (if_neg (not_not_intro ⟨least, most⟩)), ?_, ?_, ?_, ?_⟩
    · rw [raise_clk]
      rfl
    · rw [raise_clk]
      exact holds
    · rw [raise_clk]
      exact others
    · exact ((clockSide_toHoldover (.inl (by decide))).trans (clockSide_of_clk _ _)).trans (clockSide_raise _ _ _)
  · intro s onCrystal lives
    obtain ⟨holds, -, sameRef⟩ := toHoldover_root s
    refine ⟨_, congrArg Host.Outcome.next (if_neg (not_or.2 ⟨not_not_intro onCrystal, ne_true_of_eq_false lives⟩)), ?_, ?_, ?_, ?_⟩
    · rw [raise_clk]
      rfl
    · rw [raise_clk]
      exact holds
    · rw [raise_clk]
      exact sameRef.trans onCrystal
    · exact ((clockSide_toHoldover (.inl (by decide))).trans (clockSide_of_clk _ _)).trans (clockSide_raise _ _ _)
  · intro s k locked plain
    obtain ⟨u, clk⟩ := toHoldover_clk locked plain
    have self := setSynth_self k (fun y => { y with state := .holdover, since := s.clk.up, unlocks := satN 16 (y.unlocks + 1) }) s
    refine ⟨_, rfl, ?_, ?_, fun j other => ?_, clockSide_toHoldover plain⟩
    · rw [clk]
      exact congrArg Synth.state self
    · rw [clk]
      exact congrArg Synth.unlocks self
    · rw [clk]
      exact setSynth_of_ne other _ s
  · intro s n locked
    have self := setSynth_self ⟨n.val + 3, by omega⟩ (fun y => { y with state := .holdover, since := s.clk.up, unlocks := satN 16 (y.unlocks + 1) }) s
    obtain ⟨f, holed, unlocks⟩ := inletUnlocked_holed n (heldOver ⟨n.val + 3, by omega⟩ s)
    have clk := (settleUncertain_clk (raise (evSynth ⟨n.val + 3, by omega⟩ 1) [] (inletUnlocked n (heldOver ⟨n.val + 3, by omega⟩ s))))
    rw [raise_clk, Side_clk holed.side] at clk
    obtain ⟨inlets, rest⟩ := rest_of_holed (s := s) holed ((clockSide_raise (evSynth ⟨n.val + 3, by omega⟩ 1) [] _).trans (clockSide_settleUncertain _))
    refine ⟨_, congrArg Host.Outcome.next (toHoldover_of_inlet locked), ?_, ?_, fun notStopped notStarting => ?_, fun j other => ?_, rest⟩
    · rw [clk]
      exact congrArg Synth.state self
    · rw [clk]
      exact congrArg Synth.unlocks self
    · rw [inlets, holed.unlocked]
      exact (congrArg Inlet.unlocked (QueueEntries.vmod_self s.inlets n f)).trans (unlocks notStopped notStarting _)
    · rw [inlets, holed.others j other]
      exact QueueEntries.vmod_of_ne s.inlets f other
  · intro s k holds notMemory reference
    refine ⟨_, congrArg Host.Outcome.next ((doSynthRelock_of_holdover holds reference).trans (if_neg notMemory)), ?_, ?_, lockedAt_up k s,
      fun j other => lockedAt_other other s, clockSide_locked k s⟩
    · rw [lockedAt_synth]
    · rw [lockedAt_synth]
  · intro s holds
    refine ⟨_, congrArg Host.Outcome.next ((doSynthRelock_of_holdover holds rfl).trans (if_pos rfl)), _, rfl, ?_, clockSide_locked 1 s⟩
    exact congrArg Synth.state (lockedAt_synth 1 s)
  · intro s k bypassed reference
    exact congrArg Host.Outcome.next (doSynthRelock_of_bypass bypassed reference)
  · intro s k locked root crystal
    obtain ⟨f, bypassed, does⟩ := doDeparture_of_locked locked root crystal
    refine ⟨_, congrArg Host.Outcome.next does, _, rfl, ?_, rfl, fun j other => setSynth_of_ne other f s, rfl⟩
    exact (congrArg Synth.state (setSynth_self k f s)).trans (bypassed _)
  · intro s k acquires notPixel notInlet
    refine ⟨_, congrArg Host.Outcome.next (doSynthLocked_of_plain acquires notPixel notInlet), ?_, lockedAt_up k s,
      fun j other => lockedAt_other other s, clockSide_locked k s⟩
    rw [lockedAt_synth]
  · intro s acquires
    exact ⟨_, congrArg Host.Outcome.next (doSynthLocked_of_pixel acquires), _, rfl, congrArg Synth.state (lockedAt_synth 2 s), clockSide_locked 2 s⟩
  · intro s n acquires
    refine ⟨_, congrArg Host.Outcome.next (doSynthLocked_of_inlet acquires), _, rfl, ?_, clockSide_locked _ s⟩
    rw [lockedAt_synth]

end Sys2Proof.ClockDomains
end

section
/-! PPS_IN, PPS_OUT, holdover and PTM (R403, R404, R471, R490 to R496, R590). -/

namespace Sys2Proof.TimeSources

open Sys2Proof Sys2Proof.Machine Sys2Proof.Safety Sys2Proof.Claims Sys2Proof.Laws Sys2Proof.Rows Sys2Proof.ClockDomains Sys2Proof.EventOverflow

/-! ## Registers -/

theorem canonical_setReg {s : State} (canonical : RegsCanonical s) (k : Nat) (v : U32) : RegsCanonical (s.setReg k v) := rfPut_wf k v canonical

theorem canonical_setReg64 {s : State} (canonical : RegsCanonical s) (lo hi v : Nat) : RegsCanonical (s.setReg64 lo hi v) :=
  canonical_setReg (canonical_setReg canonical _ _) _ _

theorem toNat_reg_setRegN {s : State} (canonical : RegsCanonical s) (k v : Nat) : ((s.setRegN k v).reg k).toNat = v % 2 ^ 32 := by
  rw [State.setRegN, reg_setReg_self canonical, BitVec.toNat_ofNat]

theorem reg64_setReg64 {s : State} (canonical : RegsCanonical s) {lo hi : Nat} (distinct : lo ≠ hi) (v : Nat) :
    (s.setReg64 lo hi v).reg64 lo hi = v % 2 ^ 64 := by
  have high : ((s.setReg64 lo hi v).reg hi).toNat = v / 2 ^ 32 % 2 ^ 32 := toNat_reg_setRegN (canonical_setReg canonical _ _) _ _
  have low : ((s.setReg64 lo hi v).reg lo).toNat = v % 2 ^ 32 := by
    rw [State.setReg64, reg_setRegN_of_ne distinct, toNat_reg_setRegN canonical]
  rw [State.reg64, high, low]
  omega

theorem reg64_of_regs {s t : State} {lo hi : Nat} (low : t.reg lo = s.reg lo) (high : t.reg hi = s.reg hi) : t.reg64 lo hi = s.reg64 lo hi := by
  rw [State.reg64, State.reg64, low, high]

/-! ## PPS_IN -/

/-- An edge of PPS_IN that is captured. -/
def captured (frac : Nat) (s : State) : State :=
  setClk (fun c => { c with ppsEdgeUp := some c.up }) ((s.setReg64 kPpsLo kPpsHi s.clk.tick).setRegN kPpsFrac frac)

theorem captured_rest (frac : Nat) (s : State) :
    captured frac s = { s with regs := (captured frac s).regs, clk := { s.clk with ppsEdgeUp := some s.clk.up } } := (rfl)

theorem captured_tick {s : State} (canonical : RegsCanonical s) (frac : Nat) : (captured frac s).reg64 kPpsLo kPpsHi = s.clk.tick % 2 ^ 64 := by
  refine Eq.trans (reg64_of_regs (s := s.setReg64 kPpsLo kPpsHi s.clk.tick) ?_ ?_) (reg64_setReg64 canonical (by decide) _)
  · exact reg_setRegN_of_ne (by decide) _ _
  · exact reg_setRegN_of_ne (by decide) _ _

theorem captured_frac {s : State} (canonical : RegsCanonical s) (frac : Nat) : ((captured frac s).reg kPpsFrac).toNat = frac % 2 ^ 32 :=
  toNat_reg_setRegN (canonical_setReg64 canonical _ _ _) _ _

theorem doPpsEdge_of_taken {s : State} (pins : s.jtag.pinsTaken = false) (apart : ∀ u, s.clk.ppsEdgeUp = some u → u + 640000000 ≤ s.clk.up)
    (noSets : s.mbx.cmds.filter (fun c => c.waiting && c.opcode = 0x0020) = []) (frac : Nat) :
    doPpsEdge frac s = if s.clk.loop.source = 1 then loopUpdate (ppsError s.clk.tick frac) (captured frac s) else captured frac s := by
  have none : pendingSets (captured frac s) = [] := noSets
  unfold doPpsEdge
  rw [if_neg]
  · change (if (forL (pendingSets (captured frac s)) takeTimeSet (captured frac s)).clk.loop.source = 1 then
      loopUpdate (ppsError (forL (pendingSets (captured frac s)) takeTimeSet (captured frac s)).clk.tick frac)
        (forL (pendingSets (captured frac s)) takeTimeSet (captured frac s)) else forL (pendingSets (captured frac s)) takeTimeSet (captured frac s)) = _
    rw [none]
    rfl
  · rw [pins, Bool.false_or]
    split
    next u edge => exact fun early => absurd (apart u edge) (not_le.2 (of_decide_eq_true early))
    next => exact Bool.false_ne_true

/-! ## The loop loses its source, and holdover ends -/

theorem clockSide_of_side {s t : State} (side : Side s t) : ClockSide s t := by
  rw [ClockSide, Side_clk side]
  exact side

theorem loopTo_of_ne {s : State} {state : Nat} (changes : state ≠ s.clk.loop.state) : ∃ u,
    (loopTo state s).clk = { s.clk with
      loop := { s.clk.loop with state := state, since := s.clk.up, within := 0, beyond := 0, stepped := false }
      uncertain := u } ∧ ClockSide s (loopTo state s) := by
  have eq : loopTo state s = settleUncertain (raise 0xB40 [.h s.clk.loop.state, .h state]
      (setLoop (fun l => { l with state := state, since := s.clk.up, within := 0, beyond := 0, stepped := false }) s)) := if_neg changes
  rw [eq, settleUncertain_clk, raise_clk]
  exact ⟨_, rfl, ((clockSide_of_clk s _).trans (clockSide_raise _ _ _)).trans (clockSide_settleUncertain _)⟩

theorem loopLost_of_tracking {s : State} (source : s.clk.loop.source = 1) (tracks : s.clk.loop.state = 1 ∨ s.clk.loop.state = 2) :
    (loopLost s).clk.loop.state = 3 ∧ (loopLost s).clk.up = s.clk.up ∧ ClockSide s (loopLost s) := by
  have eq : loopLost s = loopTo 3 s := if_neg (by omega)
  obtain ⟨u, clk, side⟩ := loopTo_of_ne (s := s) (state := 3) (by omega)
  rw [eq, clk]
  exact ⟨rfl, rfl, side⟩

theorem uncertainNow_of_overdue {s : State} (holds : s.clk.loop.state = 3) (late : s.clk.loop.since + s.clk.cfg.holdoverS * secTicks < s.clk.up) :
    uncertainNow s = true := by
  rw [uncertainNow, holds, decide_eq_true late, Bool.and_true, decide_eq_true rfl, Bool.or_true]

/-! ## PPS_OUT -/

theorem tick_waitTick (t : Nat) (s : State) : (waitTick t s).clk.tick = max s.clk.tick t % 2 ^ 64 := by
  rw [show (waitTick t s).clk.tick = (s.clk.tick + (t - s.clk.tick)) % 2 ^ 64 from rfl]
  congr 1
  omega

theorem doPpsOut_of_high {s : State} (enabled : s.clk.cfg.ppsOutEn = true) (high : s.clk.ppsOut = true) :
    doPpsOut s = setClk (fun c => { c with ppsOut := false }) (waitTick (s.clk.tick / secTicks * secTicks + secTicks / 10) s) :=
  (if_neg (not_not_intro enabled)).trans (if_pos high)

theorem doPpsOut_of_low {s : State} (enabled : s.clk.cfg.ppsOutEn = true) (low : s.clk.ppsOut = false) :
    doPpsOut s = setClk (fun c => { c with ppsOut := true }) (waitTick (ceilDiv s.clk.tick secTicks * secTicks) s) :=
  (if_neg (not_not_intro enabled)).trans (if_neg (ne_true_of_eq_false low))

/-- Waiting for a tick changes the clock alone. -/
theorem waitTick_eq (t : Nat) (s : State) : ∃ k : Clock, waitTick t s = { s with clk := k } ∧ k = { s.clk with tick := k.tick, up := k.up } ∧
    k.tick = max s.clk.tick t % 2 ^ 64 := ⟨_, rfl, rfl, tick_waitTick t s⟩

/-! ## PTM -/

theorem wakeLull_of_awake {s : State} (awake : s.clk.lull < 2) : wakeLull s = s := if_pos awake

/-- A dialog that opens with a request at a fraction of a tick. -/
def asked (frac : Nat) (s : State) : State :=
  setPcie (fun p => { p with ptmOpen := some (s.clk.tick * 65536 + frac), ptmLast := s.clk.up, messages := p.messages ++ [.ptmRequest s.clk.tick frac] })
    { s with free := s.free + 1 }

theorem doPtmStart_of_enabled {s v : State} (enabled : ptmEnabled s = true) (link : s.pcie.linkUp = true) (d0 : s.pcie.d3 = false)
    (noDialog : s.pcie.ptmOpen = none) (awake : s.clk.lull < 2)
    (waited : waitUp (if s.pcie.ptmLast = 0 then s.clk.up else s.pcie.ptmLast + s.clk.loop.ptmMs * msTicks) s = v) :
    doPtmStart s = asked ((Config.freeWord v.free).toNat % 65536) v := by
  unfold doPtmStart
  rw [if_neg, wakeLull_of_awake awake, waited]
  · rfl
  · rintro (disabled | noLink | asleep | opened)
    · exact disabled enabled
    · exact noLink link
    · exact absurd (d0.symm.trans asleep) (by decide)
    · rw [noDialog] at opened
      exact absurd opened (by decide)

/-- The local time of a response that completes a dialog. -/
def answered (frac : Nat) (s : State) : State :=
  (((setPcie (fun p => { p with ptmOpen := none, ptmValid := true }) s).countWrap kPtmSeq 1).setReg64 kPtmLocalLo kPtmLocalHi s.clk.tick).setRegN
    kPtmLocalFrac frac
/-- A response that completes a dialog. -/
def responded (master frac : Nat) (s : State) : State := (answered frac s).setReg64 kPtmMasterLo kPtmMasterHi master

theorem doPtmResponse_of_open {s : State} (dialog : s.pcie.ptmOpen.isSome = true) (enabled : ptmEnabled s = true) (other : s.clk.loop.source ≠ 2)
    (master frac : Nat) : doPtmResponse master frac s = responded master frac s := by
  unfold doPtmResponse
  rw [if_neg]
  · exact if_pos other
  · rintro (none | disabled)
    · rw [Option.isNone_iff_eq_none.1 none] at dialog
      exact absurd dialog (by decide)
    · exact disabled enabled

section
variable {s : State} (canonical : RegsCanonical s) (master frac : Nat)
include canonical

theorem canonical_answered : RegsCanonical (answered frac s) :=
  rfPut_wf _ _ (rfPut_wf _ _ (rfPut_wf _ _ (rfPut_wf _ _ canonical)))

theorem responded_master : (responded master frac s).reg64 kPtmMasterLo kPtmMasterHi = master % 2 ^ 64 :=
  reg64_setReg64 (canonical_answered canonical frac) (by decide) master

theorem responded_local : (responded master frac s).reg64 kPtmLocalLo kPtmLocalHi = s.clk.tick % 2 ^ 64 := by
  have counted : RegsCanonical ((setPcie (fun p => { p with ptmOpen := none, ptmValid := true }) s).countWrap kPtmSeq 1) := rfPut_wf _ _ canonical
  refine (reg64_of_regs ?_ ?_).trans (reg64_setReg64 counted (by decide) s.clk.tick)
  · rw [responded, reg_setReg64_of_ne (by decide) (by decide), answered, reg_setRegN_of_ne (by decide)]
  · rw [responded, reg_setReg64_of_ne (by decide) (by decide), answered, reg_setRegN_of_ne (by decide)]

theorem responded_frac : ((responded master frac s).reg kPtmLocalFrac).toNat = frac % 2 ^ 32 := by
  have counted : RegsCanonical ((setPcie (fun p => { p with ptmOpen := none, ptmValid := true }) s).countWrap kPtmSeq 1) := rfPut_wf _ _ canonical
  rw [responded, reg_setReg64_of_ne (by decide) (by decide)]
  exact toNat_reg_setRegN (canonical_setReg64 counted _ _ _) _ _

end

theorem responded_rest (master frac : Nat) (s : State) : responded master frac s =
    { s with regs := (responded master frac s).regs, pcie := { s.pcie with ptmOpen := none, ptmValid := true } } := by
  dsimp only [responded, answered, State.setReg64, State.setRegN, State.setReg, State.countWrap, setPcie]

/-- Settles O6, with a clause for each event and case. -/
theorem timeSourcesAreServed : Obligations.TimeSourcesAreServed := by
  refine ⟨?_, ?_, ?_, ?_, ?_, ?_, ?_, ?_⟩
  · intro s frac canonical pins apart noSets other
    have fits : frac.toNat % 2 ^ 32 = frac.toNat := Nat.mod_eq_of_lt (by omega)
    exact ⟨_, congrArg Host.Outcome.next ((doPpsEdge_of_taken pins apart noSets _).trans (if_neg other)), captured_tick canonical _,
      (captured_frac canonical _).trans fits, captured_rest _ s⟩
  · intro s frac canonical pins apart noSets source
    exact ⟨_, congrArg Host.Outcome.next ((doPpsEdge_of_taken pins apart noSets _).trans (if_pos source)), _, rfl, captured_rest _ s,
      captured_tick canonical _⟩
  · intro s source tracks
    obtain ⟨k, waited, clk, up⟩ := waitUp_eq (max (s.clk.ppsEdgeUp.getD 0) s.clk.loop.since + 1408000000) s
    have loop : k.loop = s.clk.loop := (congrArg Clock.loop clk).trans rfl
    obtain ⟨v, noted, same⟩ : ∃ v, v = raise 0xB41 [] (State.setField { s with clk := k } kTmbStatus 10 10 1) ∧ v.clk = k :=
      ⟨_, rfl, raise_clk _ _ _⟩
    obtain ⟨lost, sameUp, side⟩ := loopLost_of_tracking (s := v) (by rw [same, loop]; exact source) (by rw [same, loop]; exact tracks)
    refine ⟨loopLost v, ?_, lost, ?_, ?_⟩
    · refine congrArg Host.Outcome.next ?_
      unfold doPpsMissed
      rw [if_neg (not_or.2 ⟨not_not_intro source, not_not_intro tracks⟩), show 1100 * msTicks = 1408000000 from rfl]
      dsimp only
      rw [waited, noted]
    · rw [sameUp, same]
      exact up
    · refine ClockSide.trans ?_ side
      rw [noted]
      exact ((clockSide_of_clk s k).trans (clockSide_of_side (State_setField_side _ _ _ _ _ (Side_refl _)))).trans (clockSide_raise _ _ _)
  · intro s holds
    obtain ⟨k, waited, clk, up⟩ := waitUp_eq (s.clk.loop.since + s.clk.cfg.holdoverS * secTicks + 1) s
    have loop : k.loop = s.clk.loop := (congrArg Clock.loop clk).trans rfl
    have cfg : k.cfg = s.clk.cfg := (congrArg Clock.cfg clk).trans rfl
    have late : s.clk.loop.since + s.clk.cfg.holdoverS * secTicks < k.up := by
      rw [up]
      exact Nat.lt_of_lt_of_le (Nat.lt_succ_self _) (le_max_right _ _)
    refine ⟨settleUncertain { s with clk := k }, ?_, ?_, ?_, (clockSide_of_clk s k).trans (clockSide_settleUncertain _)⟩
    · refine congrArg Host.Outcome.next ?_
      unfold doHoldoverTimeout
      rw [if_neg (not_not_intro holds), waited]
    · rw [settleUncertain_clk]
      refine uncertainNow_of_overdue ?_ ?_
      · exact (congrArg Loop.state loop).trans holds
      · rw [loop, cfg]
        exact late
    · rw [settleUncertain_clk]
      exact late
  · intro s enabled
    cases level : s.clk.ppsOut with
    | true =>
      obtain ⟨k, waited, clk, tick⟩ := waitTick_eq (s.clk.tick / secTicks * secTicks + secTicks / 10) s
      have falls := doPpsOut_of_high enabled level
      rw [waited] at falls
      refine ⟨_, congrArg Host.Outcome.next falls, rfl, rfl, fun low => absurd low (by decide), fun _ => ?_⟩
      exact (congrArg (· % 2 ^ 64) tick).trans (Nat.mod_mod _ _)
    | false =>
      obtain ⟨k, waited, clk, tick⟩ := waitTick_eq (ceilDiv s.clk.tick secTicks * secTicks) s
      have rises := doPpsOut_of_low enabled level
      rw [waited] at rises
      refine ⟨_, congrArg Host.Outcome.next rises, rfl, rfl, fun _ => tick.trans ?_, fun high => absurd high (by decide)⟩
      rw [ceilDiv, secTicks]
      congr 1
      omega
  · intro s enabled link d0 noDialog awake
    obtain ⟨k, waited, -, -⟩ := waitUp_eq (if s.pcie.ptmLast = 0 then s.clk.up else s.pcie.ptmLast + s.clk.loop.ptmMs * msTicks) s
    exact ⟨_, congrArg Host.Outcome.next (doPtmStart_of_enabled enabled link d0 noDialog awake waited), _, Nat.mod_lt _ (by decide), rfl, rfl, rfl, rfl⟩
  · intro s master frac canonical dialog enabled other
    refine ⟨_, congrArg Host.Outcome.next (doPtmResponse_of_open dialog enabled other _ _), rfl, rfl, ?_, responded_local canonical _ _, ?_, responded_rest _ _ s⟩
    · exact (responded_master canonical _ _).trans (Nat.mod_eq_of_lt master.isLt)
    · exact (responded_frac canonical _ _).trans (Nat.mod_eq_of_lt (by omega))
  · intro s valid other
    refine ⟨_, congrArg Host.Outcome.next ?_, rfl⟩
    unfold ptmInvalid
    rw [if_neg (not_not_intro valid)]
    refine if_neg ?_
    rw [raise_clk]
    exact other

end Sys2Proof.TimeSources
end

section
/-! The life ledger's writes do not read back on a flash that is not in canonical form (R570). -/

namespace Sys2Proof.LedgerFlash

open Sys2Proof Sys2Proof.Machine Sys2Proof.Claims Sys2Proof.Laws

/-- The byte of slot 1 in which the low byte of the sequence number lies. -/
def seqByte : Nat := ledgerAt 1 + 8

/-- A flash that lists one address twice, which no canonical flash does: first as erased, then as zero. -/
def twiceListed : Memory := [(seqByte, 0xFF), (seqByte, 0)]

/-- The sequence number of the next entry ends in 0xFF; slot 1 reads as erased. -/
def ledgerState : State :=
  { State.reset with
    boot := { Boot.reset with phase := .running, flash := twiceListed }
    life := { Life.reset with seq := 254, slot := 1, countsChanged := true } }

/-- The entry asks for 0xFF, and writing it takes away the first listing alone. -/
theorem readBack_ne_entry : (flashRead (doLifeWrite ledgerState).boot.flash (ledgerAt 1) 256)[8]? ≠
    (lifeEntry { ledgerState with life := { ledgerState.life with seq := ledgerState.life.seq + 1 } })[8]? := by
  decide +kernel

/-- Refutes O7: no premise makes the flash canonical, and in one that lists an address twice a byte 0xFF of the ledger's entry does not
read back. -/
theorem not_lullAndLedgerFollowTime : ¬ Obligations.LullAndLedgerFollowTime := by
  rintro ⟨-, -, -, -, writes, -, -⟩
  obtain ⟨t, next, -, -, -, -, -, reads, -⟩ := writes ledgerState 1 rfl rfl (by decide +kernel)
  have same : doLifeWrite ledgerState = t := Host.Outcome.next.inj next
  subst same
  exact readBack_ne_entry (congrArg (·[8]?) reads)

end Sys2Proof.LedgerFlash
end

section
/-! BAR accesses that reach the engine: the doorbells (R301, R389, R420), and how a register write lands (R7, R455, R458). -/

namespace Sys2Proof.BarAccesses

open Sys2Proof Sys2Proof.Machine Sys2Proof.Claims Sys2Proof.Laws Sys2Proof.TimeSources

theorem barAccess_of_reaches {s : State} (reaches : Reaches s) (f : State → State) : barAccess f s = f s := by
  obtain ⟨link, d0, space, awake⟩ := reaches
  rw [barAccess, if_pos ⟨link, ne_true_of_eq_false d0, space⟩, wakeLull_of_awake awake]

/-! ## Register writes -/

/-- A write with nothing of hardware in its clock stores what the access codes give, and starts what its register starts. -/
theorem landWrite_none (k : Nat) (w : RegWrite) (s : State) :
    landWrite k w .none s = afterWrite k (s.reg k) w (s.setReg k (w.apply (s.reg k))) := by
  unfold landWrite
  cases capturedBlock k <;> rfl

theorem writeReg_of_listed {s : State} {k : Nat} {i : RegInfo} (opened : mailboxClosed s k = false) (hostSlot : firmwareSlotReg k = false)
    (listed : regInfo k = some i) (v : U32) (same : SameClock) : writeReg k v same s = landWrite k (wordWrite i v) same s := by
  unfold writeReg
  rw [if_neg (ne_true_of_eq_false opened), if_neg (ne_true_of_eq_false hostSlot), listed]

theorem mailboxClosed_of_ready {s : State} (ready : mbxReady s = true) (k : Nat) : mailboxClosed s k = false := by
  rw [mailboxClosed, ready, Bool.not_true, Bool.and_false]

theorem mailboxClosed_of_bar2 {k : Nat} (window : k < 0x100000) (s : State) : mailboxClosed s k = false := by
  have outside : ¬ (bar0Key ≤ k ∧ k < bar0Key + 0x800) := by
    unfold bar0Key
    omega
  rw [mailboxClosed, decide_eq_false outside, Bool.false_and]

/-- A named register's write that reaches the engine. -/
theorem named_of_reaches {s : State} {k : Nat} {i : RegInfo} (reaches : Reaches s) (opened : mailboxClosed s k = false)
    (hostSlot : firmwareSlotReg k = false) (listed : regInfo k = some i) (v : U32) (same : SameClock) :
    named k v same s = .next (landWrite k (wordWrite i v) same s) := by
  rw [named, barAccess_of_reaches reaches, writeReg_of_listed opened hostSlot listed]

/-- A register of plain bits takes the value written. -/
theorem apply_of_plain {i : RegInfo} (w1c : i.w1c = 0) (w1s : i.w1s = 0) (sc : i.sc = 0) (ro : i.ro = 0) (v old : U32) :
    (wordWrite i v).apply old = v := by
  refine BitVec.eq_of_getLsbD_eq fun n bit => ?_
  rw [ReadBack.getLsbD_apply_wordWrite i v old bit, w1c, w1s, sc, ro]
  simp

/-! ## Doorbells -/

theorem doorbell_of_qword {s : State} (ready : mbxReady s = true) (small : Bool) (value : Nat) (f : Nat → State → State) :
    doorbell small 8 value f s = f value s := by
  rw [doorbell, if_neg (not_not_intro ready), if_pos rfl]

theorem doorbell_of_dword {s : State} (ready : mbxReady s = true) (value : Nat) (f : Nat → State → State) :
    doorbell true 4 value f s = f (value % 2 ^ 32) s := by
  rw [doorbell, if_neg (not_not_intro ready), if_neg (by decide), if_pos ⟨rfl, rfl⟩]

theorem doorbell_of_refused {s : State} (ready : mbxReady s = true) (value : Nat) (f : Nat → State → State) :
    doorbell false 4 value f s = refusedWrite s := by
  rw [doorbell, if_neg (not_not_intro ready), if_neg (by decide), if_neg (by decide)]

/-- Settles O9, with a clause for each doorbell and case. -/
theorem doorbellsMoveQueueIndices : Obligations.DoorbellsMoveQueueIndices := by
  refine ⟨?_, ?_, ?_, ?_, ?_, ?_, ?_⟩
  · intro s q value reaches ready enabled within room
    refine congrArg Host.Outcome.next ((barAccess_of_reaches reaches _).trans ?_)
    rw [doorbell_of_qword ready, tailDoorbell]
    exact if_pos ⟨enabled, within, room⟩
  · intro s q value reaches ready beyond
    refine congrArg Host.Outcome.next ((barAccess_of_reaches reaches _).trans ?_)
    rw [doorbell_of_qword ready, tailDoorbell]
    exact if_neg fun taken => absurd taken.2.1 (not_lt.2 beyond)
  · intro s q value reaches ready takes
    refine congrArg Host.Outcome.next ((barAccess_of_reaches reaches _).trans ?_)
    rw [doorbell_of_qword ready]
    exact if_pos takes
  · intro s q value reaches ready takes
    refine congrArg Host.Outcome.next ((barAccess_of_reaches reaches _).trans ?_)
    rw [doorbell_of_dword ready]
    exact if_pos takes
  · intro s q value reaches ready takes
    refine congrArg Host.Outcome.next ((barAccess_of_reaches reaches _).trans ?_)
    rw [doorbell_of_qword ready]
    exact if_pos takes
  · intro s n value reaches ready host live aligned least most
    refine congrArg Host.Outcome.next ((barAccess_of_reaches reaches _).trans ?_)
    rw [doorbell_of_qword ready]
    exact if_pos ⟨host, live, aligned, least, most⟩
  · intro s n value reaches ready
    refine congrArg Host.Outcome.next ((barAccess_of_reaches reaches _).trans ?_)
    exact doorbell_of_refused ready _ _

end Sys2Proof.BarAccesses
end

section
/-! Register writes through BAR0, BAR2 and the bit aliases, and the named writes of the host, event, CRC and time-base blocks (R389, R392,
R396, R410, R455, R458, R462 to R464, R472). -/

namespace Sys2Proof.RegisterRows

open Sys2Proof Sys2Proof.Machine Sys2Proof.Safety Sys2Proof.Claims Sys2Proof.Laws Sys2Proof.EventOverflow Sys2Proof.ReadBack Sys2Proof.TimeSources Sys2Proof.BarAccesses

/-! ## Writes through the BARs -/

theorem writeBar_bar2 {o : Nat} (aligned : o % 4 = 0) (window : o < 0x100000) (v : U32) (same : SameClock) (s : State) :
    writeBar .bar2 o v 15 same s = writeReg o v same s := by
  unfold writeBar
  dsimp only
  rw [if_neg (by omega), if_neg (by rw [aligned]; decide), if_neg (by omega), Nat.mod_eq_of_lt window]

section
variable {o : Nat} (window : o < 0x10000) (listed : bar0Listed o = true) (aligned : o % 4 = 0)
include window listed aligned

theorem writeBar_bar0 (register : isDoorbell o = false) (v : U32) (same : SameClock) (s : State) :
    writeBar .bar0 o v 15 same s = writeReg (bar0Key + o) v same s := by
  unfold writeBar
  dsimp only
  rw [if_neg (not_or.2 ⟨not_le.2 window, not_not_intro listed⟩), if_neg (by rw [aligned]; decide), if_neg (ne_true_of_eq_false register)]

theorem writeBar_doorbell (bell : isDoorbell o = true) (v : U32) (same : SameClock) (s : State) :
    writeBar .bar0 o v 15 same s = doorbellDword o v.toNat s := by
  unfold writeBar
  dsimp only
  rw [if_neg (not_or.2 ⟨not_le.2 window, not_not_intro listed⟩), if_neg (by rw [aligned]; decide), if_pos bell]

end

theorem firmwareSlotReg_of_bar0 {o : Nat} : firmwareSlotReg (bar0Key + o) = false := by
  refine decide_eq_false ?_
  unfold bar0Key
  omega

theorem aliasKey_of_bit {k n : Nat} (aligned : k % 4 = 0) (bit : n < 32) : aliasKey (0x2000000 + k / 4 * 128 + 4 * n) = (k, n) := by
  unfold aliasKey
  ext <;> dsimp only <;> omega

theorem doBitAlias_of_bit {k n : Nat} (aligned : k % 4 = 0) (window : k < 0x100000) (bit : n < 32) {i : RegInfo} {w : RegWrite} {v : U32}
    (hostSlot : firmwareSlotReg k = false) (listed : regInfo k = some i) (write : bitWrite i n (v.getLsbD 0) = some w) (same : SameClock)
    (s : State) : doBitAlias (0x2000000 + k / 4 * 128 + 4 * n) v same s = landWrite k w same s := by
  unfold doBitAlias
  rw [if_neg (by omega), if_neg (by omega)]
  unfold writeAlias
  rw [aliasKey_of_bit aligned bit]
  dsimp only
  rw [if_neg (ne_true_of_eq_false hostSlot), listed, Option.bind_some, write]
  rfl

/-! ## What the named writes start -/

theorem afterWrite_snap {w : RegWrite} (snap : w.set.getLsbD 0 = true) (was : U32) (s : State) : afterWrite kSnapCtrl was w s = snapTick s := by
  rw [afterWrite, if_neg (by decide), if_pos ⟨rfl, snap⟩]

theorem afterWrite_crc (was : U32) (w : RegWrite) (s : State) : afterWrite kCrcCtrl was w s = crcCtrlWritten s := by
  rw [afterWrite, if_neg (by decide), if_neg fun snap => absurd snap.1 (by decide), if_pos rfl]

/-- A register below the windows of the blocks starts nothing. -/
theorem afterWrite_of_low {k : Nat} (low : k < 0x10000) (notSnap : k ≠ kSnapCtrl) (notCrc : k ≠ kCrcCtrl) (was : U32) (w : RegWrite) (s : State) :
    afterWrite k was w s = s := by
  rw [afterWrite, if_neg (by unfold bar0Key; omega), if_neg fun snap => notSnap snap.1, if_neg notCrc, if_neg (by omega), if_neg (by omega),
    if_neg (by omega), if_neg (by omega)]

theorem afterWrite_bar0 (o : Nat) (was : U32) (w : RegWrite) (s : State) : afterWrite (bar0Key + o) was w s = bar0Written o w s := by
  rw [afterWrite, if_pos (Nat.le_add_right _ _), Nat.add_sub_cancel_left]

theorem bar0Written_window {w : RegWrite} (apply : w.set.getLsbD 0 = true) (s : State) : bar0Written 0x0808 w s = moveWindow s := by
  rw [bar0Written, if_neg (by decide), if_neg (by decide), if_neg (by decide), if_pos ⟨rfl, apply⟩]

theorem bar0Written_quiesce (w : RegWrite) (s : State) : bar0Written 0x0814 w s = quiesceWritten s := by
  rw [bar0Written, if_neg (by decide), if_neg (by decide), if_neg (by decide), if_neg fun window => absurd window.1 (by decide), if_pos rfl]

theorem bar0Written_vector (n : Fin 2048) (w : RegWrite) (s : State) : bar0Written (0x8000 + n.val * 16 + 12) w s = releaseVector n.val s := by
  have place : (0x8000 + n.val * 16 + 12 - 0x8000) / 16 = n.val := by omega
  rw [bar0Written, if_neg (by omega), if_neg (by omega), if_neg (by omega), if_neg fun window => absurd window.1 (by omega), if_neg (by omega),
    if_pos (by omega), place]

/-! ## SNAP and the CRC block -/

theorem snapTick_reads {s : State} (canonical : RegsCanonical s) : (snapTick s).reg64 kSnapLo kSnapHi = s.clk.tick % 2 ^ 64 :=
  (reg64_of_regs (reg_setField_of_ne (by decide) _ _ _ _) (reg_setField_of_ne (by decide) _ _ _ _)).trans
    (reg64_setReg64 canonical (by decide) s.clk.tick)

/-- A field of one bit is its bit. -/
theorem field_eq_one_iff (s : State) (k b : Nat) : s.field k b b = 1 ↔ (s.reg k).getLsbD b = true := by
  rw [State.field, bits, show b + 1 - b = 1 by omega, BitVec.getLsbD, Nat.testBit_eq_decide_div_mod_eq, decide_eq_true_iff, pow_one]

/-- The bit of CRC_CTRL that a write of it leaves. -/
theorem crcCtrl_bit {s : State} (canonical : RegsCanonical s) (v : U32) (n : Nat) (low : n < 32) :
    ((s.setReg kCrcCtrl ((wordWrite ⟨0, 0x71, 0, 0, 0x2, 0, false⟩ v).apply (s.reg kCrcCtrl))).reg kCrcCtrl).getLsbD n =
      if n = 1 then (s.reg kCrcCtrl).getLsbD n || v.getLsbD n else v.getLsbD n := by
  rw [reg_setReg_self canonical, getLsbD_apply_wordWrite _ _ _ low]
  by_cases here : n = 1
  · subst here
    simp
  · have other : (2#32).getLsbD n = false := by
      rw [show (2#32) = BitVec.twoPow 32 1 from rfl, BitVec.getLsbD_twoPow]
      simp [Ne.symm here]
    simp [here, other]

theorem crcCtrlWritten_of_enabled {t : State} (enabled : (t.reg kCrcCtrl).getLsbD 0 = true) : crcCtrlWritten t = t :=
  if_pos ((field_eq_one_iff t kCrcCtrl 0).2 enabled)

theorem crcCtrlWritten_of_disabled {t : State} (disabled : (t.reg kCrcCtrl).getLsbD 0 = false) :
    crcCtrlWritten t = setScn (fun c => { c with crcBlank := c.crcBlank / 2 * 2 }) (t.setField kCrcStatus 0 0 0) :=
  if_neg fun enabled => absurd ((field_eq_one_iff t kCrcCtrl 0).1 enabled) (ne_true_of_eq_false disabled)

section
variable {s : State} (v : U32) (reaches : Reaches s)
include reaches

/-- A write of CRC_CTRL. -/
theorem named_crcCtrl : named kCrcCtrl v .none s = .next (crcCtrlWritten (s.setReg kCrcCtrl
    ((wordWrite ⟨0, 0x71, 0, 0, 0x2, 0, false⟩ v).apply (s.reg kCrcCtrl)))) := by
  rw [named_of_reaches reaches (mailboxClosed_of_bar2 (by decide) s) (by decide) (show regInfo kCrcCtrl = _ from rfl), landWrite_none, afterWrite_crc]

end

/-! ## MSI-X -/

/-- A value other than the reset value reads back, whatever the register file. -/
theorem rfGet_rfPut_of_ne_reset {k : Nat} {x : U32} (differs : x ≠ regReset k) (m : RegFile) : rfGet (rfPut m k x) k = x := by
  induction m with
  | nil => rw [rfPut, if_neg differs, rfGet, if_pos rfl]
  | cons e m ih =>
    obtain ⟨j, v⟩ := e
    rw [rfPut]
    split_ifs with before here
    · rw [rfGet, if_pos rfl]
    · rw [rfGet, if_pos rfl]
    · rw [rfGet, if_neg here, ih]

theorem releaseVector_reg {k : Nat} (v : Nat) (other : k ≠ kPba (v / 32)) (s : State) : (releaseVector v s).reg k = s.reg k := by
  unfold releaseVector
  split
  · exact reg_setField_of_ne other _ _ _ _
  · rfl

theorem regBar0_msixControl (n : Fin 2048) : regBar0 (0x8000 + n.val * 16 + 12) = some (statReg 1 1) := by
  have bound := n.isLt
  generalize place : 0x8000 + n.val * 16 + 12 = o
  unfold regBar0
  dsimp only
  rw [if_neg (by omega), if_neg (by omega), if_neg (by omega), if_neg (by omega), if_neg (by omega), if_neg (by omega), if_neg (by omega),
    if_neg (by omega), if_neg (by omega), if_neg (by omega), if_neg (by omega), if_neg (by omega), if_neg (by omega), if_neg (by omega),
    if_pos (by omega), if_neg (by omega), if_pos (by omega)]

theorem kMsix_control (n : Nat) : kMsix n 12 = bar0Key + (0x8000 + n * 16 + 12) := by
  rw [kMsix, Nat.add_assoc, Nat.add_assoc, Nat.add_assoc]

theorem regInfo_bar0 (o : Nat) : regInfo (bar0Key + o) = regBar0 o := by
  rw [regInfo, if_pos (Nat.le_add_right _ _), Nat.add_sub_cancel_left]

/-- Clearing a vector's mask stores the word and lets its pending message go. -/
theorem named_vectorUnmask {s : State} (reaches : Reaches s) (ready : mbxReady s = true) (n : Fin 2048) (v : U32) :
    named (kMsix n.val 12) v .none s = .next (releaseVector n.val (s.setReg (kMsix n.val 12) v)) := by
  have listed : regInfo (kMsix n.val 12) = some (statReg 1 1) := by rw [kMsix_control, regInfo_bar0, regBar0_msixControl]
  have hostSlot : firmwareSlotReg (kMsix n.val 12) = false := by rw [kMsix_control, firmwareSlotReg_of_bar0]
  rw [named_of_reaches reaches (mailboxClosed_of_ready ready _) hostSlot listed, landWrite_none, apply_of_plain rfl rfl rfl rfl,
    kMsix_control, afterWrite_bar0, bar0Written_vector]

/-- An unmasked word reads back, since a vector is masked at reset. -/
theorem reg_setReg_vectorUnmasked (n : Fin 2048) (s : State) (old : U32) :
    (s.setReg (kMsix n.val 12) (old &&& ~~~1#32)).reg (kMsix n.val 12) = old &&& ~~~1#32 := by
  refine rfGet_rfPut_of_ne_reset (fun same => ?_) s.regs
  have reset : regReset (kMsix n.val 12) = 1 := by
    rw [regReset, kMsix_control, regInfo_bar0, regBar0_msixControl]
    rfl
  have bit := congrArg (·.getLsbD 0) (same.trans reset)
  simp at bit

/-! ## The obligation -/

/-- Settles O10, with a clause for each named write. -/
theorem registerWritesLand : Obligations.RegisterWritesLand := by
  refine ⟨?_, ?_, ?_, ?_, ?_, ?_, ?_, ?_, ?_, ?_, ?_, ?_, ?_, ?_, ?_, ?_, ?_⟩
  · intro s o v same i reaches aligned window hostSlot listed
    refine congrArg Host.Outcome.next ((barAccess_of_reaches reaches _).trans ?_)
    rw [writeBar_bar2 aligned window, writeReg_of_listed (mailboxClosed_of_bar2 window s) hostSlot listed]
  · intro s o v same reaches aligned window unlisted
    refine congrArg Host.Outcome.next ((barAccess_of_reaches reaches _).trans ?_)
    rw [writeBar_bar2 aligned window, writeReg, if_neg (ne_true_of_eq_false (mailboxClosed_of_bar2 window s)), unlisted]
    exact ite_self _
  · intro s o v same i reaches ready aligned window listed register info
    refine congrArg Host.Outcome.next ((barAccess_of_reaches reaches _).trans ?_)
    rw [writeBar_bar0 window listed aligned register, writeReg_of_listed (mailboxClosed_of_ready ready _) firmwareSlotReg_of_bar0 info]
  · intro s o v en same reaches window partly
    refine congrArg Host.Outcome.next ((barAccess_of_reaches reaches _).trans ?_)
    unfold writeBar
    exact (if_neg (not_le.2 window)).trans (if_pos partly)
  · intro s o v same reaches ready aligned window listed bell
    refine congrArg Host.Outcome.next ((barAccess_of_reaches reaches _).trans ?_)
    exact writeBar_doorbell window listed aligned bell v same s
  · intro s k n v same i w reaches aligned window bit hostSlot listed write
    refine congrArg Host.Outcome.next ((barAccess_of_reaches reaches _).trans ?_)
    exact doBitAlias_of_bit aligned window bit hostSlot listed write same s
  · intro s v reaches canonical snap
    have set : (wordWrite ((regInfo kSnapCtrl).getD (roReg 0)) v).set.getLsbD 0 = true := by
      rw [show regInfo kSnapCtrl = some _ from rfl]
      simp [wordWrite, snap]
    refine ⟨_, (named_of_reaches reaches (mailboxClosed_of_bar2 (by decide) s) (by decide) rfl v .none).trans
      (congrArg Host.Outcome.next ((landWrite_none _ _ s).trans (afterWrite_snap set _ _))), ?_, rfl⟩
    exact snapTick_reads (canonical_setReg canonical _ _)
  · intro s v reaches canonical
    refine ⟨_, (named_of_reaches reaches (mailboxClosed_of_bar2 (by decide) s) (by decide) rfl v .none).trans
      (congrArg Host.Outcome.next ((landWrite_none _ _ s).trans (afterWrite_of_low (by decide) (by decide) (by decide) _ _ _))), ?_, rfl⟩
    exact reg_setReg_self canonical _ _
  · intro s v reaches
    exact named_of_reaches reaches (mailboxClosed_of_bar2 (by decide) s) (by decide) rfl v .hwCapture
  · intro s v reaches canonical
    refine ⟨_, (named_of_reaches reaches (mailboxClosed_of_bar2 (by decide) s) (by decide) rfl v .none).trans
      (congrArg Host.Outcome.next ((landWrite_none _ _ s).trans (afterWrite_of_low (by decide) (by decide) (by decide) _ _ _))), ?_, rfl⟩
    exact (reg_setReg_self canonical _ _).trans (apply_of_plain rfl rfl rfl rfl v _)
  · intro s v reaches
    exact named_of_reaches reaches (mailboxClosed_of_bar2 (by decide) s) (by decide) rfl v .hwCapture
  · intro s v reaches canonical on
    have enabled := (crcCtrl_bit canonical v 0 (by decide)).trans ((if_neg (by decide)).trans on)
    exact ⟨_, (named_crcCtrl v reaches).trans (congrArg Host.Outcome.next (crcCtrlWritten_of_enabled enabled)), enabled, rfl⟩
  · intro s v reaches canonical off
    have disabled := (crcCtrl_bit canonical v 0 (by decide)).trans ((if_neg (by decide)).trans off)
    refine ⟨_, (named_crcCtrl v reaches).trans (congrArg Host.Outcome.next (crcCtrlWritten_of_disabled disabled)), ?_, ?_, rfl⟩
    · exact (congrArg (·.getLsbD 0) (reg_setField_of_ne (show kCrcCtrl ≠ kCrcStatus by decide) _ 0 0 0)).trans disabled
    · exact getLsbD_reg_setField (canonical_setReg canonical _ _) _ le_rfl 0 (by decide)
  · intro s v reaches canonical on learn
    have enabled := (crcCtrl_bit canonical v 0 (by decide)).trans ((if_neg (by decide)).trans on)
    refine ⟨_, (named_crcCtrl v reaches).trans (congrArg Host.Outcome.next (crcCtrlWritten_of_enabled enabled)), ?_, rfl⟩
    rw [crcCtrl_bit canonical v 1 (by decide), if_pos rfl, learn, Bool.or_true]
  · intro s n reaches ready
    refine ⟨_, named_vectorUnmask reaches ready n _, ?_⟩
    have bound := n.isLt
    have other : kMsix n.val 12 ≠ kPba (n.val / 32) := by
      unfold kMsix kPba
      omega
    exact congrArg (fun x => releaseVector n.val (s.setReg (kMsix n.val 12) x))
      ((releaseVector_reg _ other _).trans (reg_setReg_vectorUnmasked n s _)).symm
  · intro s v reaches ready apply
    have set : (wordWrite ((regInfo kB4Ctrl).getD (roReg 0)) v).set.getLsbD 0 = true := by
      rw [show regInfo kB4Ctrl = some _ from rfl]
      simp [wordWrite, apply]
    exact ⟨_, (named_of_reaches reaches (mailboxClosed_of_ready ready _) (by decide) rfl v .none).trans (congrArg Host.Outcome.next
      ((landWrite_none _ _ s).trans ((afterWrite_bar0 0x808 _ _ _).trans (bar0Written_window set _)))), rfl⟩
  · intro s v reaches ready canonical
    refine ⟨_, (named_of_reaches reaches (mailboxClosed_of_ready ready _) (by decide) rfl v .none).trans (congrArg Host.Outcome.next
      ((landWrite_none _ _ s).trans ((afterWrite_bar0 0x814 _ _ _).trans (bar0Written_quiesce _ _)))), ?_⟩
    exact congrArg (fun x => quiesceWritten (s.setReg kHifCtrl x)) (apply_of_plain rfl rfl rfl rfl v _)

end Sys2Proof.RegisterRows
end

section
/-! Fetching and starting commands, and ENABLE of the queues (R415 to R417, R422, R423, R429). -/

namespace Sys2Proof.QueueControl

open Sys2Proof Sys2Proof.Machine Sys2Proof.Safety Sys2Proof.Claims Sys2Proof.Laws Sys2Proof.EventOverflow Sys2Proof.DeviceResets
  Sys2Proof.QueueEntries Sys2Proof.TimeSources Sys2Proof.BarAccesses Sys2Proof.RegisterRows Sys2Proof.EventLinks

/-! ## Fetching and starting -/

section
variable {s : State} {q : Fin 8} (ready : mbxReady s = true) (runs : s.fw.runs = true) (enabled : s.mbx.cmdqs[q].enabled = true)
  (fetching : s.mbx.cmdqs[q].error = false) (waiting : s.mbx.cmdqs[q].head ≠ s.mbx.cmdqs[q].tail)
  (room : cplqRoom s s.mbx.cmdqs[q].cplq = true)
include ready runs enabled fetching waiting room

theorem fetches : ¬ (¬ mbxReady s ∨ ¬ s.fw.runs ∨ ¬ s.mbx.cmdqs[q].enabled ∨ s.mbx.cmdqs[q].error ∨
    s.mbx.cmdqs[q].head = s.mbx.cmdqs[q].tail ∨ ¬ cplqRoom s s.mbx.cmdqs[q].cplq) := by
  rintro (closed | stopped | disabled | failed | empty | full)
  · exact closed ready
  · exact stopped runs
  · exact disabled enabled
  · exact absurd failed (ne_true_of_eq_false fetching)
  · exact waiting empty
  · exact full room

theorem doCommandFetch_of_failed : doCommandFetch q none s = queueError q (if masters s then 1 else 2) s :=
  if_neg (fetches ready runs enabled fetching waiting room)

theorem doCommandFetch_of_read {d : Data} {c : Cmd} (few : s.mbx.cmds.length < 256)
    (entry : c = { id := s.mbx.nextId, origin := .queue q, cplq := s.mbx.cmdqs[q].cplq,
                   bytes := if s.mbx.cmdqs[q].remote then d else d.take 64, started := false, waiting := false, blocks := [] }) :
    doCommandFetch q (some d) s = (fun u => if mayStart u c then beginCmd c u else u)
      { s with mbx := { s.mbx with cmdqs := vmod s.mbx.cmdqs q (fun x => { x with head := (x.head + 1) % x.size }), nextId := s.mbx.nextId + 1,
                                   cmds := s.mbx.cmds ++ [c] } } := by
  subst entry
  have notFull : decide (cmdLimit ≤ s.mbx.cmds.length) = false := decide_eq_false (not_le.2 few)
  exact (if_neg (fetches ready runs enabled fetching waiting room)).trans (if_neg (ne_true_of_eq_false notFull))

end

theorem queueError_queue (q : Fin 8) (cause : Nat) (s : State) : (queueError q cause s).mbx.cmdqs[q] = { s.mbx.cmdqs[q] with error := true } := by
  have kept : (queueError q cause s).mbx.cmdqs = vmod s.mbx.cmdqs q fun x => { x with error := true } := raise_cmdqs _ _ _
  rw [kept, vmod_self]

theorem queueError_side (q : Fin 8) (cause : Nat) (s : State) : Side s (queueError q cause s) :=
  raise_side _ _ _ rfl

theorem doFenceRelease_of_may {s : State} {id : Nat} {c : Cmd} (found : findCmd s id = some c) (held : c.started = false)
    (may : mayStart s c = true) : doFenceRelease id s = beginCmd c s := by
  unfold doFenceRelease
  rw [found]
  exact if_pos ⟨ne_true_of_eq_false held, may⟩

theorem findCmd_id {s : State} {id : Nat} {c : Cmd} (found : findCmd s id = some c) : c.id = id := by
  have here := List.find?_some found
  exact of_decide_eq_true here

theorem formCheck_setCmd (id : Nat) (f : Cmd → Cmd) (s : State) (c : Cmd) : formCheck (setCmd id f s) c = formCheck s c := rfl

/-- A command of a known form in a queue of this device starts. -/
theorem beginCmd_of_local {s : State} {q : Fin 8} {c : Cmd} (queue : c.origin = .queue q) (here : s.mbx.cmdqs[q].remote = false)
    (known : formCheck s c = none) : beginCmd c s = setCmd c.id (fun c => { c with started := true }) s := by
  unfold beginCmd
  rw [queue]
  dsimp only
  rw [here, if_neg (by decide)]
  unfold startCmd
  dsimp only
  rw [formCheck_setCmd, known]

/-! ## The CTRL registers -/

theorem enable_bit (v : U32) : (v ||| 1#32).getLsbD 0 = true := by simp

theorem disable_bit (v : U32) : (v &&& ~~~1#32).getLsbD 0 = false := by simp

/-- Bit 0 is no part of a field above it. -/
theorem bits_enable (v : U32) {hi lo : Nat} (above : 0 < lo) : bits (v ||| 1#32).toNat hi lo = bits v.toNat hi lo := by
  obtain ⟨n, rfl⟩ : ∃ n, lo = n + 1 := ⟨lo - 1, by omega⟩
  have shifted : (v ||| 1#32).toNat / 2 ^ (n + 1) = v.toNat / 2 ^ (n + 1) := by
    refine Nat.eq_of_testBit_eq fun i => ?_
    rw [Nat.testBit_div_two_pow, Nat.testBit_div_two_pow, BitVec.toNat_or, Nat.testBit_or]
    have clear : Nat.testBit 1 (i + (n + 1)) = false := Nat.testBit_lt_two_pow (Nat.one_lt_two_pow (by omega))
    rw [show (1#32).toNat = 1 from rfl, clear, Bool.or_false]
  rw [bits, bits, shifted]

theorem kCmdq_ctrl (q : Nat) : kCmdq q 8 = bar0Key + (0x100 + q * 0x20 + 8) := by
  rw [kCmdq, Nat.add_assoc, Nat.add_assoc, Nat.add_assoc]

theorem kCplq_ctrl (q : Nat) : kCplq q 8 = bar0Key + (0x200 + q * 0x20 + 8) := by
  rw [kCplq, Nat.add_assoc, Nat.add_assoc, Nat.add_assoc]

theorem kEvq_ctrl (q : Nat) : kEvq q 8 = bar0Key + (0x300 + q * 0x20 + 8) := by
  rw [kEvq, Nat.add_assoc, Nat.add_assoc, Nat.add_assoc]

theorem regBar0_cmdqCtrl (q : Fin 8) : regBar0 (0x100 + q.val * 0x20 + 8) = some (cfgReg 0 0xFFFF8701) := by
  revert q
  decide

theorem regBar0_cplqCtrl (q : Fin 8) : regBar0 (0x200 + q.val * 0x20 + 8) = some (cfgReg 0x2000 0xFFFFFFF9) := by
  revert q
  decide

theorem regBar0_evqCtrl (q : Fin 4) : regBar0 (0x300 + q.val * 0x20 + 8) = some (cfgReg 0x2000 0xFFFFFFF9) := by
  revert q
  decide

/-- A write of a plain register of BAR0 stores its value and starts what the register starts. -/
theorem named_bar0_of_cfgReg {s : State} {o : Nat} {reset mask : U32} (reaches : Reaches s) (ready : mbxReady s = true)
    (listed : regBar0 o = some (cfgReg reset mask)) (v : U32) :
    named (bar0Key + o) v .none s = .next (bar0Written o (wordWrite (cfgReg reset mask) v) (s.setReg (bar0Key + o) v)) := by
  rw [named_of_reaches reaches (mailboxClosed_of_ready ready _) firmwareSlotReg_of_bar0 ((regInfo_bar0 o).trans listed), landWrite_none,
    afterWrite_bar0, apply_of_plain rfl rfl rfl rfl]

section
variable {s : State} (reaches : Reaches s) (ready : mbxReady s = true) (v : U32)
include reaches ready

theorem named_cmdqCtrl (q : Fin 8) : named (kCmdq q.val 8) v .none s = .next (cmdqCtrl q (s.setReg (kCmdq q.val 8) v)) := by
  have place : Fin.ofNat 8 ((0x100 + q.val * 0x20 + 8 - 0x100) / 0x20) = q := Fin.ext (by rw [Fin.val_ofNat]; omega)
  rw [kCmdq_ctrl, named_bar0_of_cfgReg reaches ready (regBar0_cmdqCtrl q), bar0Written, if_pos (by omega), place]

theorem named_cplqCtrl (q : Fin 8) : named (kCplq q.val 8) v .none s = .next (cplqCtrl q (s.setReg (kCplq q.val 8) v)) := by
  have place : Fin.ofNat 8 ((0x200 + q.val * 0x20 + 8 - 0x200) / 0x20) = q := Fin.ext (by rw [Fin.val_ofNat]; omega)
  rw [kCplq_ctrl, named_bar0_of_cfgReg reaches ready (regBar0_cplqCtrl q), bar0Written, if_neg (by omega), if_pos (by omega), place]

theorem named_evqCtrl (q : Fin 4) : named (kEvq q.val 8) v .none s = .next (evqCtrl q (s.setReg (kEvq q.val 8) v)) := by
  have place : Fin.ofNat 4 ((0x300 + q.val * 0x20 + 8 - 0x300) / 0x20) = q := Fin.ext (by rw [Fin.val_ofNat]; omega)
  rw [kEvq_ctrl, named_bar0_of_cfgReg reaches ready (regBar0_evqCtrl q), bar0Written, if_neg (by omega), if_neg (by omega),
    if_pos (by omega), place]

end

/-- An event queue with nothing in its log receives nothing. -/
theorem deliverLog_of_empty {s : State} {q : Fin 4} (empty : s.evt.logs[q] = []) (none_ : s.evt.logLost[q] = 0) : deliverLog q s = s := by
  have logs : s.evt.logs.set q [] = s.evt.logs := by
    rw [← empty]
    exact Vector.set_getElem_self q.isLt
  have lost : s.evt.logLost.set q 0 = s.evt.logLost := by
    rw [← none_]
    exact Vector.set_getElem_self q.isLt
  unfold deliverLog
  dsimp only
  rw [empty, none_, if_pos rfl, logs, lost]
  rfl

/-! ## The obligation -/

/-- Settles O8, with a clause for each row and case. -/
theorem commandsAreFetchedAndQueuesSwitched : Obligations.CommandsAreFetchedAndQueuesSwitched := by
  refine ⟨?_, ?_, ?_, ?_, ?_, ?_, ?_, ?_, ?_, ?_⟩
  · intro s q d c ready runs enabled fetching waiting room few entry
    exact congrArg Host.Outcome.next (doCommandFetch_of_read ready runs enabled fetching waiting room few entry)
  · intro s q ready runs enabled fetching waiting room
    refine ⟨_, congrArg Host.Outcome.next (doCommandFetch_of_failed ready runs enabled fetching waiting room), ?_, ?_, ?_, queueError_side _ _ _⟩
    · rw [queueError_queue]
    · rw [queueError_queue]
    · exact raise_cmds _ _ _
  · intro s id c found held may
    exact congrArg Host.Outcome.next (doFenceRelease_of_may found held may)
  · intro s q id c found held may queue here known
    refine congrArg Host.Outcome.next ((doFenceRelease_of_may found held may).trans ?_)
    rw [beginCmd_of_local queue here known, findCmd_id found]
  · intro s q ctrl reaches ready canonical disabled
    have stored : (s.setReg (kCmdq q.val 8) (ctrl ||| 1)).reg (kCmdq q.val 8) = ctrl ||| 1 := reg_setReg_self canonical _ _
    have on : ¬ (ctrl ||| 1).getLsbD 0 = s.mbx.cmdqs[q].enabled := by
      rw [disabled]
      exact ne_false_of_eq_true (enable_bit ctrl)
    have done : cmdqCtrl q (s.setReg (kCmdq q.val 8) (ctrl ||| 1)) = enableCmdq q (s.setReg (kCmdq q.val 8) (ctrl ||| 1)) := by
      unfold cmdqCtrl
      rw [stored]
      exact (if_neg on).trans (if_pos (enable_bit ctrl))
    have size : (s.setReg (kCmdq q.val 8) (ctrl ||| 1)).field (kCmdq q.val 0x0C) 11 0 = s.field (kCmdq q.val 0x0C) 11 0 := by
      rw [State.field, State.field, reg_setReg_of_ne (by unfold kCmdq; omega)]
    refine ⟨_, (named_cmdqCtrl reaches ready _ q).trans (congrArg Host.Outcome.next done), ?_, ?_, ?_, ?_, ?_, ?_, ?_, rfl⟩
    · exact congrArg CmdQueue.enabled (vmod_self _ q _)
    · exact congrArg CmdQueue.error (vmod_self _ q _)
    · exact congrArg CmdQueue.head (vmod_self _ q _)
    · exact congrArg CmdQueue.tail (vmod_self _ q _)
    · exact (congrArg CmdQueue.size (vmod_self _ q _)).trans (congrArg (· + 1) size)
    · refine (congrArg (fun x : CmdQueue => x.cplq.val) (vmod_self _ q _)).trans ?_
      have bound : bits ctrl.toNat 10 8 < 8 := Nat.mod_lt _ (by decide)
      refine (congrArg (fun x : U32 => bits x.toNat 10 8 % 8) stored).trans ?_
      exact (congrArg (· % 8) (bits_enable ctrl (by decide))).trans (Nat.mod_eq_of_lt bound)
    · exact fun j other => vmod_of_ne _ _ other
  · intro s q ctrl reaches ready canonical enabled
    have stored : (s.setReg (kCmdq q.val 8) (ctrl &&& ~~~1#32)).reg (kCmdq q.val 8) = ctrl &&& ~~~1#32 := reg_setReg_self canonical _ _
    have off : ¬ (ctrl &&& ~~~1#32).getLsbD 0 = s.mbx.cmdqs[q].enabled := by
      rw [enabled]
      exact ne_true_of_eq_false (disable_bit ctrl)
    have done : cmdqCtrl q (s.setReg (kCmdq q.val 8) (ctrl &&& ~~~1#32)) = disableCmdq q (s.setReg (kCmdq q.val 8) (ctrl &&& ~~~1#32)) := by
      unfold cmdqCtrl
      rw [stored]
      exact (if_neg off).trans (if_neg (ne_true_of_eq_false (disable_bit ctrl)))
    refine ⟨_, (named_cmdqCtrl reaches ready _ q).trans (congrArg Host.Outcome.next done), _, rfl, rfl, ?_, ?_, rfl⟩
    · exact congrArg CmdQueue.enabled (vmod_self _ q _)
    · exact fun j other => vmod_of_ne _ _ other
  · intro s q ctrl reaches ready canonical disabled
    have stored : (s.setReg (kCplq q.val 8) (ctrl ||| 1)).reg (kCplq q.val 8) = ctrl ||| 1 := reg_setReg_self canonical _ _
    have on : ¬ (ctrl ||| 1).getLsbD 0 = s.mbx.cplqs[q].enabled := by
      rw [disabled]
      exact ne_false_of_eq_true (enable_bit ctrl)
    have done : cplqCtrl q (s.setReg (kCplq q.val 8) (ctrl ||| 1)) = enableCplq q (s.setReg (kCplq q.val 8) (ctrl ||| 1)) := by
      unfold cplqCtrl
      rw [stored]
      exact (if_neg on).trans (if_pos (enable_bit ctrl))
    have size : (s.setReg (kCplq q.val 8) (ctrl ||| 1)).field (kCplq q.val 0x0C) 11 0 = s.field (kCplq q.val 0x0C) 11 0 := by
      rw [State.field, State.field, reg_setReg_of_ne (by unfold kCplq; omega)]
    refine ⟨_, (named_cplqCtrl reaches ready _ q).trans (congrArg Host.Outcome.next done), ?_, ?_, ?_, ?_, ?_, ?_, rfl⟩
    · exact congrArg OutQueue.enabled (vmod_self _ q _)
    · exact congrArg OutQueue.head (vmod_self _ q _)
    · exact congrArg OutQueue.tail (vmod_self _ q _)
    · exact congrArg OutQueue.phase (vmod_self _ q _)
    · exact (congrArg OutQueue.size (vmod_self _ q _)).trans (congrArg (· + 1) size)
    · exact fun j other => vmod_of_ne _ _ other
  · intro s q ctrl reaches ready canonical enabled
    have stored : (s.setReg (kCplq q.val 8) (ctrl &&& ~~~1#32)).reg (kCplq q.val 8) = ctrl &&& ~~~1#32 := reg_setReg_self canonical _ _
    have off : ¬ (ctrl &&& ~~~1#32).getLsbD 0 = s.mbx.cplqs[q].enabled := by
      rw [enabled]
      exact ne_true_of_eq_false (disable_bit ctrl)
    have done : cplqCtrl q (s.setReg (kCplq q.val 8) (ctrl &&& ~~~1#32)) = disableCplq q (s.setReg (kCplq q.val 8) (ctrl &&& ~~~1#32)) := by
      unfold cplqCtrl
      rw [stored]
      exact (if_neg off).trans (if_neg (ne_true_of_eq_false (disable_bit ctrl)))
    exact ⟨_, (named_cplqCtrl reaches ready _ q).trans (congrArg Host.Outcome.next done), rfl, rfl⟩
  · intro s q ctrl reaches ready canonical disabled empty noneLost
    have stored : (s.setReg (kEvq q.val 8) (ctrl ||| 1)).reg (kEvq q.val 8) = ctrl ||| 1 := reg_setReg_self canonical _ _
    have on : ¬ (ctrl ||| 1).getLsbD 0 = s.mbx.evqs[q].enabled := by
      rw [disabled]
      exact ne_false_of_eq_true (enable_bit ctrl)
    have done : evqCtrl q (s.setReg (kEvq q.val 8) (ctrl ||| 1)) = setEvq q (fun _ => sampleOut (s.setReg (kEvq q.val 8) (ctrl ||| 1)) (kEvq q.val 0))
        (s.setReg (kEvq q.val 8) (ctrl ||| 1)) := by
      unfold evqCtrl
      rw [stored]
      exact ((if_neg on).trans (if_pos (enable_bit ctrl))).trans (deliverLog_of_empty empty noneLost)
    have size : (s.setReg (kEvq q.val 8) (ctrl ||| 1)).field (kEvq q.val 0x0C) 11 0 = s.field (kEvq q.val 0x0C) 11 0 := by
      rw [State.field, State.field, reg_setReg_of_ne (by unfold kEvq; omega)]
    refine ⟨_, (named_evqCtrl reaches ready _ q).trans (congrArg Host.Outcome.next done), ?_, ?_, ?_, ?_, ?_, ?_, rfl⟩
    · exact congrArg OutQueue.enabled (vmod_self _ q _)
    · exact congrArg OutQueue.head (vmod_self _ q _)
    · exact congrArg OutQueue.tail (vmod_self _ q _)
    · exact congrArg OutQueue.overflow (vmod_self _ q _)
    · exact (congrArg OutQueue.size (vmod_self _ q _)).trans (congrArg (· + 1) size)
    · exact fun j other => vmod_of_ne _ _ other
  · intro s q ctrl reaches ready canonical enabled
    have stored : (s.setReg (kEvq q.val 8) (ctrl &&& ~~~1#32)).reg (kEvq q.val 8) = ctrl &&& ~~~1#32 := reg_setReg_self canonical _ _
    have off : ¬ (ctrl &&& ~~~1#32).getLsbD 0 = s.mbx.evqs[q].enabled := by
      rw [enabled]
      exact ne_true_of_eq_false (disable_bit ctrl)
    have done : evqCtrl q (s.setReg (kEvq q.val 8) (ctrl &&& ~~~1#32)) = disableEvq q (s.setReg (kEvq q.val 8) (ctrl &&& ~~~1#32)) := by
      unfold evqCtrl
      rw [stored]
      exact (if_neg off).trans (if_neg (ne_true_of_eq_false (disable_bit ctrl)))
    exact ⟨_, (named_evqCtrl reaches ready _ q).trans (congrArg Host.Outcome.next done), rfl, rfl⟩

end Sys2Proof.QueueControl
end

section
/-! Register writes that start, stop and hand over in scan-out, Draught and Breeze (R272, R274, R277, R282, R325, R329, R331, R332, R516,
R523, R524, R526, R527). -/

namespace Sys2Proof.ControlWrites

open Sys2Proof Sys2Proof.Machine Sys2Proof.Safety Sys2Proof.Claims Sys2Proof.Laws Sys2Proof.EventOverflow Sys2Proof.ReadBack
  Sys2Proof.TimeSources Sys2Proof.BarAccesses Sys2Proof.RegisterRows

/-! ## The register that is written -/

theorem written_of_listed {k : Nat} {i : RegInfo} (listed : regInfo k = some i) (v : U32) (s : State) :
    written k v s = s.setReg k ((wordWrite i v).apply (s.reg k)) := by rw [written, listed, Option.getD_some]

theorem reg_written {s : State} (canonical : RegsCanonical s) {k : Nat} {i : RegInfo} (listed : regInfo k = some i) (v : U32) :
    (written k v s).reg k = (wordWrite i v).apply (s.reg k) := by rw [written_of_listed listed, reg_setReg_self canonical]

theorem reg_written_of_ne {k j : Nat} (other : j ≠ k) (v : U32) (s : State) : (written k v s).reg j = s.reg j := reg_setReg_of_ne other s _

theorem canonical_written {s : State} (canonical : RegsCanonical s) (k : Nat) (v : U32) : RegsCanonical (written k v s) :=
  canonical_setReg canonical k _

section
variable {s : State} (canonical : RegsCanonical s) {k : Nat} {i : RegInfo} (listed : regInfo k = some i) (v : U32) {n : Nat} (bit : n < 32)
include canonical listed bit

/-- A bit without an access code of its own takes the value written. -/
theorem bit_written_of_plain (free : (i.w1c ||| i.w1s ||| i.sc ||| i.ro).getLsbD n = false) :
    ((written k v s).reg k).getLsbD n = v.getLsbD n := by
  rw [BitVec.getLsbD_or, BitVec.getLsbD_or, BitVec.getLsbD_or, Bool.or_eq_false_iff, Bool.or_eq_false_iff, Bool.or_eq_false_iff] at free
  obtain ⟨⟨⟨w1c, w1s⟩, sc⟩, ro⟩ := free
  rw [reg_written canonical listed]
  exact (accessCodesDecideEachBit i v (s.reg k) n bit).1 w1c w1s sc ro

/-- A bit that 1 sets is set by 1. -/
theorem bit_written_of_set (w1c : i.w1c.getLsbD n = false) (starts : i.w1s.getLsbD n = true ∨ i.sc.getLsbD n = true)
    (one : v.getLsbD n = true) : ((written k v s).reg k).getLsbD n = true := by
  rw [reg_written canonical listed, (accessCodesDecideEachBit i v (s.reg k) n bit).2.2.1 w1c starts, one, Bool.or_true]

/-- A bit that 1 clears is cleared by 1. -/
theorem bit_written_of_clear (w1c : i.w1c.getLsbD n = true) (w1s : i.w1s.getLsbD n = false) (sc : i.sc.getLsbD n = false)
    (one : v.getLsbD n = true) : ((written k v s).reg k).getLsbD n = false := by
  rw [reg_written canonical listed, (accessCodesDecideEachBit i v (s.reg k) n bit).2.1 w1c w1s sc, one, Bool.not_true, Bool.and_false]

end

/-- A field whose bits agree with a word is that word's field. -/
theorem field_eq_bits {s : State} {k : Nat} {v : U32} {hi lo : Nat} (agree : ∀ n, lo ≤ n → n ≤ hi → (s.reg k).getLsbD n = v.getLsbD n) :
    s.field k hi lo = bits v.toNat hi lo := by
  rw [State.field, bits, bits]
  refine Nat.eq_of_testBit_eq fun j => ?_
  rw [Nat.testBit_mod_two_pow, Nat.testBit_mod_two_pow, Nat.testBit_div_two_pow, Nat.testBit_div_two_pow]
  by_cases inside : j < hi + 1 - lo
  · rw [decide_eq_true inside, Bool.true_and, Bool.true_and]
    exact agree (j + lo) (Nat.le_add_left _ _) (by omega)
  · rw [decide_eq_false inside, Bool.false_and, Bool.false_and]

theorem testBit_field (s : State) (k hi lo j : Nat) : (s.field k hi lo).testBit j = (decide (j < hi + 1 - lo) && (s.reg k).getLsbD (j + lo)) := by
  rw [State.field, bits, Nat.testBit_mod_two_pow, Nat.testBit_div_two_pow, BitVec.getLsbD]

/-- A field reads back. -/
theorem field_setField_self {s : State} (canonical : RegsCanonical s) (k : Nat) {hi lo : Nat} (order : lo ≤ hi) (within : hi < 32) (v : Nat) :
    (s.setField k hi lo v).field k hi lo = v % 2 ^ (hi + 1 - lo) := by
  refine Nat.eq_of_testBit_eq fun j => ?_
  rw [testBit_field, Nat.testBit_mod_two_pow]
  by_cases inside : j < hi + 1 - lo
  · rw [getLsbD_reg_setField canonical k order v (by omega), if_pos (by omega), Nat.add_sub_cancel]
  · rw [decide_eq_false inside, Bool.false_and, Bool.false_and]

/-- A field apart from the one that is written stays. -/
theorem field_setField_apart {s : State} (canonical : RegsCanonical s) (k : Nat) {hi lo hi' lo' : Nat} (order : lo ≤ hi) (within : hi' < 32)
    (apart : hi < lo' ∨ hi' < lo) (v : Nat) : (s.setField k hi lo v).field k hi' lo' = s.field k hi' lo' := by
  refine Nat.eq_of_testBit_eq fun j => ?_
  rw [testBit_field, testBit_field]
  by_cases inside : j < hi' + 1 - lo'
  · rw [getLsbD_reg_setField canonical k order v (by omega), if_neg (by omega)]
  · rw [decide_eq_false inside, Bool.false_and, Bool.false_and]

/-! ## What a write starts -/

theorem afterWrite_breeze (x : Fin 2) {o : Nat} (low : o < 0x1000) (was : U32) (w : RegWrite) (s : State) :
    afterWrite (kBrz x.val o) was w s = brzWritten x o w.mask was s := by
  have converter : x.val < 2 := x.isLt
  rw [afterWrite, if_neg (by unfold kBrz bar0Key; omega), if_neg fun snap => absurd snap.1 (by unfold kBrz kSnapCtrl; omega),
    if_neg (by unfold kBrz kCrcCtrl; omega), if_neg (by unfold kBrz; omega), if_neg (by unfold kBrz; omega)]
  rcases (show x = 0 ∨ x = 1 by omega) with rfl | rfl
  · have key : kBrz (0 : Fin 2).val o = 0x30000 + o := by simp [kBrz]
    rw [key, if_pos (by omega), Nat.add_sub_cancel_left]
  · have key : kBrz (1 : Fin 2).val o = 0x31000 + o := by simp [kBrz]
    rw [key, if_neg (by omega), if_pos (by omega), Nat.add_sub_cancel_left]

section
variable {s : State} (reaches : Reaches s) (v : U32)
include reaches

/-- A named write below the windows of BAR0 leaves the register as written, and starts what the register starts. -/
theorem named_written {k : Nat} {i : RegInfo} (listed : regInfo k = some i) (low : k < 0x100000) (hostSlot : firmwareSlotReg k = false) :
    named k v .none s = .next (afterWrite k (s.reg k) (wordWrite i v) (written k v s)) := by
  rw [named_of_reaches reaches (mailboxClosed_of_bar2 low s) hostSlot listed, landWrite_none, written_of_listed listed]

theorem named_scanOut {o : Nat} {i : RegInfo} (listed : regInfo (kScn o) = some i) (low : o < 0x10000) :
    named (kScn o) v .none s = .next (scnWritten o (s.reg (kScn o)) (wordWrite i v) (written (kScn o) v s)) := by
  have hostSlot : firmwareSlotReg (kScn o) = false := decide_eq_false (by unfold kScn; omega)
  have place : kScn o - 0x20000 = o := by unfold kScn; omega
  rw [named_written reaches v listed (by unfold kScn; omega) hostSlot, afterWrite, if_neg (by unfold kScn bar0Key; omega),
    if_neg fun snap => absurd snap.1 (by unfold kScn kSnapCtrl; omega), if_neg (by unfold kScn kCrcCtrl; omega),
    if_neg (by unfold kScn; omega), if_pos (by unfold kScn; omega), place]

theorem named_draught {o : Nat} {i : RegInfo} (listed : regInfo (0x10000 + o) = some i) (low : o < 0x10000) :
    named (0x10000 + o) v .none s = .next (drtWritten o (s.reg (0x10000 + o)) (written (0x10000 + o) v s)) := by
  have hostSlot : firmwareSlotReg (0x10000 + o) = false := decide_eq_false (by omega)
  rw [named_written reaches v listed (by omega) hostSlot, afterWrite, if_neg (by unfold bar0Key; omega),
    if_neg fun snap => absurd snap.1 (by unfold kSnapCtrl; omega), if_neg (by unfold kCrcCtrl; omega), if_pos (by omega), Nat.add_sub_cancel_left]

theorem named_breeze (x : Fin 2) {o : Nat} {i : RegInfo} (listed : regInfo (kBrz x.val o) = some i) (low : o < 0x1000)
    (hostSlot : firmwareSlotReg (kBrz x.val o) = false) :
    named (kBrz x.val o) v .none s = .next (brzWritten x o 0xFFFFFFFF (s.reg (kBrz x.val o)) (written (kBrz x.val o) v s)) := by
  have converter : x.val < 2 := x.isLt
  rw [named_written reaches v listed (by unfold kBrz; omega) hostSlot, afterWrite_breeze x low]
  rfl

end

/-! ## Scan-out -/

theorem scnWritten_of_uncommitted {s : State} (early : domainCommitted s 7 = false) (o : Nat) (was : U32) (w : RegWrite) : scnWritten o was w s = s :=
  if_pos (ne_true_of_eq_false early)

section
variable {s : State} (reaches : Reaches s) (canonical : RegsCanonical s) (v : U32)

theorem listed_scnCtrl : regInfo (kScn 0) = some ⟨0, 0x1, 0, 0, 0x2, 0, true⟩ := rfl

theorem listed_aux : regInfo (kScn 0x20) = some ⟨0, 0x000F000F, 0, 0, 0x80000000, 0x0F000000, false⟩ := rfl

include canonical in
theorem scnEnabled_written : scnEnabled (written (kScn 0) v s) = v.getLsbD 0 :=
  bit_written_of_plain canonical listed_scnCtrl v (by decide) (by decide)

include canonical in
theorem timingApplied_written (apply : v.getLsbD 1 = true) : timingApplied (written (kScn 0) v s) = true :=
  bit_written_of_set canonical listed_scnCtrl v (by decide) (by decide) (Or.inr (by decide)) apply

theorem startsBit (apply : v.getLsbD 1 = true) : (wordWrite ⟨0, 0x1, 0, 0, 0x2, 0, true⟩ v).set.getLsbD 1 = true := by
  simp [wordWrite, apply]

theorem noStartBit (apply : v.getLsbD 1 = false) : ¬ (wordWrite ⟨0, 0x1, 0, 0, 0x2, 0, true⟩ v).set.getLsbD 1 = true := by
  rw [wordWrite, BitVec.getLsbD_and, apply]
  exact Bool.false_ne_true

include reaches

/-- A write of SCN_CTRL without TIMING_APPLY. -/
theorem named_scnEnable (committed : domainCommitted s 7 = true) (apply : v.getLsbD 1 = false) :
    named (kScn 0) v .none s = .next (scnEnableChanged (scnEnabled s) (written (kScn 0) v s)) := by
  rw [named_scanOut reaches v listed_scnCtrl (by decide)]
  exact congrArg Host.Outcome.next ((if_neg (not_not_intro committed)).trans ((if_pos rfl).trans (if_neg (noStartBit v apply))))

/-- A write of SCN_CTRL with TIMING_APPLY. -/
theorem named_timingApply (committed : domainCommitted s 7 = true) (apply : v.getLsbD 1 = true) :
    named (kScn 0) v .none s = .next (timingApply (scnEnableChanged (scnEnabled s) (written (kScn 0) v s))) := by
  rw [named_scanOut reaches v listed_scnCtrl (by decide)]
  exact congrArg Host.Outcome.next ((if_neg (not_not_intro committed)).trans ((if_pos rfl).trans (if_pos (startsBit v apply))))

/-- GO of the AUX channel with nothing running or waiting. -/
theorem named_auxGo (committed : domainCommitted s 7 = true) (go : v.getLsbD 31 = true) (idle : s.scn.aux = none) (free : s.scn.auxWaiting = false) :
    named (kScn 0x20) v .none s = .next (auxBegin (written (kScn 0x20) v s)) := by
  have set : (wordWrite ⟨0, 0x000F000F, 0, 0, 0x80000000, 0x0F000000, false⟩ v).set.getLsbD 31 = true := by simp [wordWrite, go]
  have none_ : ¬ ((written (kScn 0x20) v s).scn.aux.isSome = true ∨ (written (kScn 0x20) v s).scn.auxWaiting = true) :=
    not_or.2 ⟨fun busy => by rw [show (written (kScn 0x20) v s).scn.aux = none from idle] at busy; exact absurd busy (by decide),
      ne_true_of_eq_false free⟩
  rw [named_scanOut reaches v listed_aux (by decide)]
  exact congrArg Host.Outcome.next ((if_neg (not_not_intro committed)).trans ((if_neg (by decide)).trans
    ((if_pos ⟨rfl, set⟩).trans (if_neg none_))))

end

theorem auxBegin_of_sink {s : State} (sink : s.scn.hpd = true) (link : s.scn.link ≠ .training) :
    auxBegin s = setScn (fun c => { c with auxWaiting := false, aux := some ⟨s.field (kScn 0x20) 3 0, s.field (kScn 0x24) 19 0, s.field (kScn 0x20) 19 16 + 1, 0,
      s.clk.up⟩ }) s :=
  (if_neg (not_not_intro sink)).trans (if_neg link)

theorem auxBegin_of_noSink {s : State} (sink : s.scn.hpd = false) :
    auxBegin s = setScn (fun c => { c with auxWaiting := false }) (auxResult 4 s) :=
  if_pos (ne_true_of_eq_false sink)

/-- The command and the length of an AUX transaction are those written. -/
theorem aux_field_written {s : State} (canonical : RegsCanonical s) (v : U32) {hi lo : Nat} (plain : hi < 20) :
    (written (kScn 0x20) v s).field (kScn 0x20) hi lo = bits v.toNat hi lo := by
  refine field_eq_bits fun n _ most => bit_written_of_plain canonical listed_aux v (by omega) ?_
  have low : n < 20 := by omega
  interval_cases n <;> decide

/-- Past the control words a write waits for the next frame start. -/
theorem scnWritten_of_layer {o : Nat} (layer : 0x20 < o) (was : U32) (w : RegWrite) (s : State) : scnWritten o was w s = s := by
  have notCtrl : ¬ o = 0 := by omega
  have notAux : ¬ (o = 0x20 ∧ w.set.getLsbD 31 = true) := fun aux => by omega
  rw [scnWritten, if_neg notCtrl, if_neg notAux, ite_self]

/-! ## Draught -/

theorem kDrt_eq (n r : Nat) : kDrt n r = 0x10000 + (n * 0x100 + r) := Nat.add_assoc _ _ _

theorem listed_chanCtrl (ch : Fin 32) : regInfo (kDrt ch.val 0) = some ⟨3, 3, 0, 0, 0x80, 0, true⟩ := by
  revert ch
  decide

theorem listed_shadowCtrl (ch : Fin 32) : regInfo (kDrt ch.val 0x04) = some ⟨0, 0, 0x6, 0x1, 0, 0xFFFF0000, false⟩ := by
  revert ch
  decide

theorem listed_drtGlb : regInfo kDrtGlb = some ⟨0, 0, 0x80000000, 0, 0, 0x0F1F1F01, false⟩ := rfl

theorem chanIndex_val (ch : Fin 32) : chanIndex ch.val = some ch := dif_pos ch.isLt

section
variable {s : State} (reaches : Reaches s) (v : U32)
include reaches

/-- A write of a register of a channel. -/
theorem named_channel (ch : Fin 32) {r : Nat} (within : r < 0x100) {i : RegInfo} (listed : regInfo (kDrt ch.val r) = some i) :
    named (kDrt ch.val r) v .none s = .next (
      let t := written (kDrt ch.val r) v s
      if r = 0 then if t.field (kDrt ch.val 0) 7 7 = 1 then (abortChan false ch t).setField (kDrt ch.val 0) 7 7 0 else t
      else if r = 4 then tryHandOver ch t
      else t) := by
  have channel := ch.isLt
  have place : (ch.val * 0x100 + r) / 0x100 = ch.val := by omega
  have offset : (ch.val * 0x100 + r) % 0x100 = r := by omega
  rw [kDrt_eq] at listed
  rw [kDrt_eq ch.val r, named_draught reaches v listed (by omega), drtWritten, if_neg (by omega), place, chanIndex_val, offset]

/-- ABORT ends the chain of its channel and clears again. -/
theorem named_abort (canonical : RegsCanonical s) (ch : Fin 32) (abort : v.getLsbD 7 = true) :
    named (kDrt ch.val 0) v .none s = .next ((abortChan false ch (written (kDrt ch.val 0) v s)).setField (kDrt ch.val 0) 7 7 0) := by
  have asked := (field_eq_one_iff (written (kDrt ch.val 0) v s) (kDrt ch.val 0) 7).2
    (bit_written_of_set canonical (listed_chanCtrl ch) v (by decide) (by decide) (Or.inr (by decide)) abort)
  exact (named_channel reaches v ch (by decide) (listed_chanCtrl ch)).trans (congrArg Host.Outcome.next ((if_pos rfl).trans (if_pos asked)))

/-- Writing 1 to DMA_HALT resumes every channel. -/
theorem named_dmaHalt (canonical : RegsCanonical s) (halted : dmaHalted s = true) (ack : v.getLsbD 31 = true) :
    named kDrtGlb v .none s = .next (dmaResume (written kDrtGlb v s)) := by
  have cleared : dmaHalted (written kDrtGlb v s) = false :=
    bit_written_of_clear canonical listed_drtGlb v (by decide) (by decide) (by decide) (by decide) ack
  have eq := named_draught reaches v (o := 0x2000) listed_drtGlb (by decide)
  exact eq.trans (congrArg Host.Outcome.next ((if_pos rfl).trans (if_pos ⟨halted, ne_true_of_eq_false cleared⟩)))

end

/-! ## Breeze -/

theorem listed_brzCtrl (x : Fin 2) : regInfo (kBrz x.val 0) = some ⟨0x1000, 0xF1F9, 0, 0, 0x2, 0, true⟩ := by
  revert x
  decide

/-- The registers of a slot that the host owns are plain. -/
theorem listed_slot (x : Fin 2) (i : Fin 32) (r : Fin 4) (owned : x = 0 ∨ i.val < 28) :
    regInfo (kBrzSlot x.val i.val (4 * r.val)) = some (cfgReg (regReset (kBrzSlot x.val i.val (4 * r.val))) 0xFFFFFFFF) := by
  revert x i r
  decide +kernel

theorem kBrzSlot_eq (x i r : Nat) : kBrzSlot x i r = kBrz x (0x100 + i * 0x20 + r) := by
  unfold kBrzSlot kBrz
  omega

theorem unsettleAll_side (x : Fin 2) (s : State) : ∃ convs : Vector BrzConv 2, unsettleAll x s = { s with brz := { s.brz with convs := convs } } ∧
    ∀ j : Fin 2, convs[j].state = s.brz.convs[j].state := by
  have folded : ∀ (l : List (Fin 32)) (u : State), ∃ convs : Vector BrzConv 2,
      forL l (unsettle x) u = { u with brz := { u.brz with convs := convs } } ∧ ∀ j : Fin 2, convs[j].state = u.brz.convs[j].state := by
    intro l
    induction l with
    | nil => exact fun u => ⟨u.brz.convs, rfl, fun _ => rfl⟩
    | cons i l ih =>
      intro u
      obtain ⟨convs, eq, states⟩ := ih (unsettle x i u)
      refine ⟨convs, eq, fun j => (states j).trans ?_⟩
      by_cases here : j = x
      · subst here
        exact (congrArg BrzConv.state (QueueEntries.vmod_self u.brz.convs j _)).trans (by rfl)
      · exact congrArg BrzConv.state (QueueEntries.vmod_of_ne u.brz.convs _ here)
  exact folded _ s

theorem brzRun_unsettleAll (x : Fin 2) (s : State) (j : Fin 2) : brzRun (unsettleAll x s) j = brzRun s j := by
  obtain ⟨convs, eq, -⟩ := unsettleAll_side x s
  rw [eq]
  rfl

theorem brzRestartBit_unsettleAll (x : Fin 2) (s : State) (j : Fin 2) : brzRestartBit (unsettleAll x s) j = brzRestartBit s j := by
  obtain ⟨convs, eq, -⟩ := unsettleAll_side x s
  rw [eq]
  rfl

theorem state_unsettleAll (x : Fin 2) (s : State) (j : Fin 2) : (unsettleAll x s).brz.convs[j].state = s.brz.convs[j].state := by
  obtain ⟨convs, eq, states⟩ := unsettleAll_side x s
  rw [eq]
  exact states j

section
variable {x : Fin 2} {was : U32} {s : State} (out : s.brz.convs[x].state ≠ .cal)
include out

theorem brzCtrlChanged_of_start (off : was.getLsbD 0 = false) (on : brzRun s x = true) : brzCtrlChanged x was s = brzStart x s :=
  (if_neg out).trans (if_pos ⟨ne_true_of_eq_false off, on⟩)

theorem brzCtrlChanged_of_stop (converter : x = 0) (on : was.getLsbD 0 = true) (off : brzRun s x = false) :
    brzCtrlChanged x was s = setConv x (fun c => { c with state := .stopped, pos := 0 }) s :=
  (if_neg out).trans ((if_neg fun starts => starts.1 on).trans ((if_pos ⟨on, ne_true_of_eq_false off⟩).trans (if_pos converter)))

theorem brzCtrlChanged_of_running (running : s.brz.convs[x].state ≠ .stopped) (on : was.getLsbD 0 = true) (still : brzRun s x = true) :
    brzCtrlChanged x was s = s :=
  (if_neg out).trans ((if_neg fun starts => starts.1 on).trans ((if_neg fun stops => stops.2 still).trans
    (if_neg fun stopped => running stopped.2.2.1)))

end

section
variable {s : State} (reaches : Reaches s) (v : U32)
include reaches

/-- A write of a converter's control word. -/
theorem named_brzCtrl (x : Fin 2) :
    named (kBrz x.val 0) v .none s = .next (brzCtrlChanged x (s.reg (kBrz x.val 0)) (unsettleAll x (written (kBrz x.val 0) v s))) := by
  have converter : x.val < 2 := x.isLt
  have hostSlot : firmwareSlotReg (kBrz x.val 0) = false := decide_eq_false (by unfold kBrz; omega)
  rw [named_breeze reaches v x (listed_brzCtrl x) (by decide) hostSlot, brzWritten, if_pos rfl]
  dsimp only
  rw [if_pos (by decide)]

/-- A write of a register of a slot that the host owns. -/
theorem named_slot (x : Fin 2) (i : Fin 32) (r : Fin 4) (owned : x = 0 ∨ i.val < 28) :
    named (kBrzSlot x.val i.val (4 * r.val)) v .none s = .next (
      let t := written (kBrzSlot x.val i.val (4 * r.val)) v s
      if r.val = 0 then
        if (t.reg (kBrzSlot x.val i.val 0)).getLsbD 15 then unsettle x i t else setSlot x i (fun y => { y with alarm := false }) (unsettle x i t)
      else if r.val = 1 then unsettle x i t else t) := by
  have converter : x.val < 2 := x.isLt
  have slot := i.isLt
  have hostSlot : firmwareSlotReg (kBrzSlot x.val i.val (4 * r.val)) = false := by
    refine decide_eq_false ?_
    unfold kBrzSlot
    rcases owned with rfl | host
    · simp
      omega
    · omega
  have place : Fin.ofNat 32 ((0x100 + i.val * 0x20 + 4 * r.val - 0x100) / 0x20) = i := Fin.ext (by rw [Fin.val_ofNat]; omega)
  have listed := listed_slot x i r owned
  rw [kBrzSlot_eq] at listed hostSlot
  rw [kBrzSlot_eq x.val i.val (4 * r.val), named_breeze reaches v x listed (by omega) hostSlot, brzWritten, if_neg (by omega), if_neg (by omega),
    if_pos (by omega), place]
  dsimp only
  by_cases config : r.val = 0
  · have restarts : ((0xFFFFFFFF : U32) &&& settleBits) ≠ 0 := by decide
    rw [if_pos (by omega), if_pos config, if_pos restarts]
    by_cases alarm : ((written (kBrz x.val (0x100 + i.val * 0x20 + 4 * r.val)) v s).reg (kBrzSlot x.val i.val 0)).getLsbD 15 = true
    · rw [if_pos alarm]
      exact congrArg Host.Outcome.next (if_pos alarm)
    · rw [if_neg alarm]
      exact congrArg Host.Outcome.next (if_neg alarm)
  · rw [if_neg (by omega), if_neg config]
    by_cases gain : r.val = 1
    · rw [if_pos ⟨by omega, by decide⟩, if_pos gain]
    · rw [if_neg (fun here => by omega), if_neg gain]

end

/-! ## The obligation -/

/-- Settles O12, with a clause for each row and case. -/
theorem controlBitsStartAndStopTheirBlocks : Obligations.ControlBitsStartAndStopTheirBlocks := by
  refine ⟨?_, ?_, ?_, ?_, ?_, ?_, ?_, ?_, ?_, ?_, ?_, ?_, ?_, ?_, ?_, ?_, ?_, ?_, ?_, ?_, ?_⟩
  · intro s v reaches canonical committed disabled on apply
    have enabled : scnEnabled (written (kScn 0) v s) = true := (scnEnabled_written canonical v).trans on
    refine (named_scnEnable reaches v committed apply).trans (congrArg Host.Outcome.next ?_)
    rw [scnEnableChanged, enabled, disabled, if_neg (by decide), if_pos rfl]
  · intro s v reaches canonical committed enabled off apply
    have disabled : scnEnabled (written (kScn 0) v s) = false := (scnEnabled_written canonical v).trans off
    refine (named_scnEnable reaches v committed apply).trans (congrArg Host.Outcome.next ?_)
    rw [scnEnableChanged, enabled, disabled, if_neg (by decide), if_neg (by decide)]
  · intro s v reaches canonical early
    exact (named_scanOut reaches v listed_scnCtrl (by decide)).trans (congrArg Host.Outcome.next (scnWritten_of_uncommitted (s := written (kScn 0) v s) early _ _ _))
  · intro s v reaches canonical committed disabled off apply
    have still : scnEnabled (written (kScn 0) v s) = false := (scnEnabled_written canonical v).trans off
    refine (named_timingApply reaches v committed apply).trans (congrArg Host.Outcome.next ?_)
    rw [scnEnableChanged, still, disabled, if_pos rfl, timingApply, still, if_neg (by decide)]
  · intro s v reaches canonical committed enabled on apply
    have still : scnEnabled (written (kScn 0) v s) = true := (scnEnabled_written canonical v).trans on
    refine ⟨written (kScn 0) v s, (named_timingApply reaches v committed apply).trans (congrArg Host.Outcome.next ?_), rfl,
      timingApplied_written canonical v apply, rfl⟩
    rw [scnEnableChanged, still, enabled, if_pos rfl, timingApply, still, if_pos rfl]
  · intro s l v reaches canonical valid
    have listed : regInfo (kLayer l.val 0x24) = some ⟨0, 0, 0x2, 0x1, 0, 0x4, false⟩ := by
      revert l
      decide
    have place : kLayer l.val 0x24 = kScn (0x200 + l.val * 0x40 + 0x24) := by
      unfold kLayer kScn
      omega
    refine ⟨written (kLayer l.val 0x24) v s, ?_, rfl, ?_, rfl⟩
    · rw [place] at listed
      have layer := l.isLt
      have start := scnWritten_of_layer (o := 0x200 + l.val * 0x40 + 0x24) (by omega) (s.reg (kScn (0x200 + l.val * 0x40 + 0x24)))
        (wordWrite ⟨0, 0, 0x2, 0x1, 0, 0x4, false⟩ v) (written (kScn (0x200 + l.val * 0x40 + 0x24)) v s)
      have done := (named_scanOut reaches v listed (by omega)).trans (congrArg Host.Outcome.next start)
      rw [← place] at done
      exact done
    · exact bit_written_of_set canonical listed v (by decide) (by decide) (Or.inl (by decide)) valid
  · intro s v reaches canonical committed go idle free sink link
    have begins := auxBegin_of_sink (s := written (kScn 0x20) v s) sink link
    refine ⟨_, (named_auxGo reaches v committed go idle free).trans (congrArg Host.Outcome.next begins), _, rfl, ?_, ?_, ?_, rfl, rfl, rfl⟩
    · exact aux_field_written canonical v (by decide)
    · exact congrArg (fun r : U32 => bits r.toNat 19 0) (reg_written_of_ne (show kScn 0x24 ≠ kScn 0x20 by decide) v s)
    · exact congrArg (· + 1) (aux_field_written canonical v (by decide))
  · intro s v reaches canonical committed go idle free sink
    have begins := auxBegin_of_noSink (s := written (kScn 0x20) v s) sink
    have wellFormed : RegsCanonical ((written (kScn 0x20) v s).setField (kScn 0x20) 27 24 4) := canonical_setReg (canonical_written canonical _ v) _ _
    refine ⟨_, (named_auxGo reaches v committed go idle free).trans (congrArg Host.Outcome.next begins), ?_, ?_, rfl⟩
    · refine (field_setField_apart wellFormed _ (by decide) (by decide) (by decide) 0).trans ?_
      exact field_setField_self (canonical_written canonical _ v) _ (by decide) (by decide) 4
    · exact field_setField_self wellFormed _ (by decide) (by decide) 0
  · intro s ch v reaches canonical valid idle running
    have shadow : shadowValid (written (kDrt ch.val 0x04) v s) ch = true :=
      bit_written_of_set canonical (listed_shadowCtrl ch) v (by decide) (by decide) (Or.inl (by decide)) valid
    have apart : kDrtGlb ≠ kDrt ch.val 0x04 := by
      have channel := ch.isLt
      unfold kDrtGlb kDrt
      omega
    have still : dmaHalted (written (kDrt ch.val 0x04) v s) = false := by rw [dmaHalted, reg_written_of_ne apart, ← dmaHalted, running]
    refine (named_channel reaches v ch (by decide) (listed_shadowCtrl ch)).trans (congrArg Host.Outcome.next ?_)
    exact ((if_neg (by decide)).trans (if_pos rfl)).trans (if_pos ⟨idle, shadow, ne_true_of_eq_false still⟩)
  · intro s ch v reaches canonical valid busy
    have shadow : shadowValid (written (kDrt ch.val 0x04) v s) ch = true :=
      bit_written_of_set canonical (listed_shadowCtrl ch) v (by decide) (by decide) (Or.inl (by decide)) valid
    have apart : kDrtGlb ≠ kDrt ch.val 0x04 := by
      have channel := ch.isLt
      unfold kDrtGlb kDrt
      omega
    have still : dmaHalted (written (kDrt ch.val 0x04) v s) = dmaHalted s := by rw [dmaHalted, reg_written_of_ne apart, ← dmaHalted]
    refine ⟨_, (named_channel reaches v ch (by decide) (listed_shadowCtrl ch)).trans (congrArg Host.Outcome.next
      (((if_neg (by decide)).trans (if_pos rfl)).trans (if_neg ?_))), rfl, shadow⟩
    rintro ⟨idle, -, running⟩
    rw [still] at running
    exact busy.elim (absurd idle) running
  · intro s ch v reaches canonical abort
    exact named_abort reaches v canonical ch abort
  · intro s ch v reaches canonical abort idle
    have nothing : abortChan false ch (written (kDrt ch.val 0) v s) = written (kDrt ch.val 0) v s := if_pos (Or.inl idle)
    refine ⟨_, (named_abort reaches v canonical ch abort).trans
      (congrArg (fun u : State => Host.Outcome.next (u.setField (kDrt ch.val 0) 7 7 0)) nothing), rfl, ?_, rfl⟩
    exact field_setField_self (canonical_written canonical _ v) _ (by decide) (by decide) 0
  · intro s v reaches canonical halted ack
    exact named_dmaHalt reaches v canonical halted ack
  · intro s x v reaches canonical out stopped on
    have runs : brzRun (unsettleAll x (written (kBrz x.val 0) v s)) x = true := (brzRun_unsettleAll _ _ _).trans
      ((bit_written_of_plain canonical (listed_brzCtrl x) v (by decide) (by decide)).trans on)
    have notCal : (unsettleAll x (written (kBrz x.val 0) v s)).brz.convs[x].state ≠ .cal := by rwa [state_unsettleAll]
    exact (named_brzCtrl reaches v x).trans (congrArg Host.Outcome.next (brzCtrlChanged_of_start notCal stopped runs))
  · intro s v reaches canonical out running off
    have stops : brzRun (unsettleAll 0 (written (kBrz 0 0) v s)) 0 = false := (brzRun_unsettleAll _ _ _).trans
      ((bit_written_of_plain canonical (listed_brzCtrl 0) v (by decide) (by decide)).trans off)
    have notCal : (unsettleAll 0 (written (kBrz 0 0) v s)).brz.convs[(0 : Fin 2)].state ≠ .cal := by
      rw [state_unsettleAll]
      exact out
    exact (named_brzCtrl reaches v 0).trans (congrArg Host.Outcome.next (brzCtrlChanged_of_stop notCal rfl running stops))
  · intro s x v reaches canonical steady running on restart
    have runs : brzRun (unsettleAll x (written (kBrz x.val 0) v s)) x = true := (brzRun_unsettleAll _ _ _).trans
      ((bit_written_of_plain canonical (listed_brzCtrl x) v (by decide) (by decide)).trans on)
    have state : (unsettleAll x (written (kBrz x.val 0) v s)).brz.convs[x].state = .running := by rwa [state_unsettleAll]
    have notCal : (unsettleAll x (written (kBrz x.val 0) v s)).brz.convs[x].state ≠ .cal := by
      rw [state]
      decide
    have notStopped : (unsettleAll x (written (kBrz x.val 0) v s)).brz.convs[x].state ≠ .stopped := by
      rw [state]
      decide
    refine ⟨_, (named_brzCtrl reaches v x).trans (congrArg Host.Outcome.next
      (brzCtrlChanged_of_running notCal notStopped running runs)), rfl, ?_⟩
    exact (brzRestartBit_unsettleAll _ _ _).trans
      (bit_written_of_set canonical (listed_brzCtrl x) v (by decide) (by decide) (Or.inr (by decide)) restart)
  · intro s x i v reaches canonical owned alarm
    have noCode : (0#32 ||| 0#32 ||| 0#32 ||| 0#32).getLsbD 15 = false := by decide
    have armed := (bit_written_of_plain canonical (listed_slot x i 0 owned) v (n := 15) (by decide) noCode).trans alarm
    exact (named_slot reaches v x i 0 owned).trans (congrArg Host.Outcome.next ((if_pos rfl).trans (if_pos armed)))
  · intro s x i v reaches canonical owned alarm
    have noCode : (0#32 ||| 0#32 ||| 0#32 ||| 0#32).getLsbD 15 = false := by decide
    have disarmed := (bit_written_of_plain canonical (listed_slot x i 0 owned) v (n := 15) (by decide) noCode).trans alarm
    exact (named_slot reaches v x i 0 owned).trans (congrArg Host.Outcome.next ((if_pos rfl).trans (if_neg (ne_true_of_eq_false disarmed))))
  · intro s x i v reaches canonical owned
    exact (named_slot reaches v x i 1 owned).trans (congrArg Host.Outcome.next ((if_neg (by decide)).trans (if_pos rfl)))
  · intro s x i r v reaches canonical owned limit
    exact (named_slot reaches v x i r owned).trans (congrArg Host.Outcome.next ((if_neg (by omega)).trans (if_neg (by omega))))
  · intro s i r v reaches canonical firmware
    have slot := i.isLt
    have register := r.isLt
    have hostSlot : firmwareSlotReg (kBrzSlot 1 i.val (4 * r.val)) = true := decide_eq_true (by unfold kBrzSlot; omega)
    refine congrArg Host.Outcome.next ((barAccess_of_reaches reaches _).trans ?_)
    exact (if_neg (ne_true_of_eq_false (mailboxClosed_of_bar2 (by unfold kBrzSlot; omega) s))).trans (if_pos hostSlot)

end Sys2Proof.ControlWrites
end

section
/-! A write of PTM control does not read back on a configuration space that is not in canonical form (R404). -/

namespace Sys2Proof.PtmControl

open Sys2Proof Sys2Proof.Machine Sys2Proof.Claims Sys2Proof.Laws

/-- A configuration space that lists PTM control twice, which no canonical one does: first as 0, then with PTM Enable set. -/
def twiceListed : List (Nat × U32) := [(0x270, 0), (0x270, 1)]

/-- The link is up and a PTM dialog is open. -/
def ptmState : State :=
  { State.reset with pcie := { State.reset.pcie with linkUp := true, cfg := twiceListed, ptmOpen := some 1 } }

/-- Writing 0 takes away the first listing alone, so PTM Enable reads as set and the dialog stays open. -/
theorem dialog_stays_open : (doConfigurationWrite 0x270 0 ptmState).pcie.ptmOpen = some 1 := by decide +kernel

/-- Refutes O14: no premise makes configuration space canonical, and in one that lists PTM control twice, a write without PTM Enable leaves
the enable as it reads, and the correlation goes on. -/
theorem not_thePortFollowsConfigurationAndPowerStates : ¬ Obligations.ThePortFollowsConfigurationAndPowerStates := by
  rintro ⟨-, -, -, -, -, -, -, -, -, -, -, disables, -⟩
  have ends : doConfigurationWrite 0x270 0 ptmState = ptmInvalid (setCfg 0x270 (0 &&& 0xFF03) ptmState) :=
    Host.Outcome.next.inj (disables ptmState 0 rfl rfl)
  have closed : (ptmInvalid (setCfg 0x270 (0 &&& 0xFF03) ptmState)).pcie.ptmOpen = none := by decide +kernel
  rw [← ends, dialog_stays_open] at closed
  exact Option.some_ne_none 1 closed

end Sys2Proof.PtmControl
end

section
/-! Reads and writes through BAR4 (R79, R80, R390, R391, R405), and interrupt moderation (R414). -/

namespace Sys2Proof.WindowAccesses

open Sys2Proof Sys2Proof.Machine Sys2Proof.Safety Sys2Proof.Claims Sys2Proof.Laws Sys2Proof.Rows Sys2Proof.TimeSources
  Sys2Proof.StoreRequests Sys2Proof.EventLinks Sys2Proof.BarAccesses

/-! ## A request that the store serves at once -/

/-- Asking a store that serves restarts its idle time, and gives up an entry that is due (R106). -/
theorem storeAsk_of_ready {s : State} (ready : s.store.state = .ready) :
    storeAsk s = { sideOf s (storeAsk s) with
      store := { s.store with idleSince := some s.clk.up, srAborts := (storeAsk s).store.srAborts } } := by
  have awake : ¬ s.store.state = .selfRefresh := by
    rw [ready]
    decide
  unfold storeAsk
  rw [if_neg awake, if_neg (not_not_intro ready)]
  split
  · have side := raise_side (s0 := setStore (fun st => { st with srAborts := satN 32 (st.srAborts + 1), idleSince := some s.clk.up }) s)
      0x30A [] _ (Side_refl _)
    refine Eq.trans side ?_
    rw [abortEntry, raise_store]
    rfl
  · rfl

theorem storeAwake_of_ready {s : State} (ready : s.store.state = .ready) : storeAwake s = storeAsk s := by
  have still : (storeAsk s).store.state = .ready := by
    rw [storeAsk_of_ready ready]
    exact ready
  exact if_neg (by rw [still]; decide)

theorem historySpan_of_same {s t : State} (regions : t.store.regions = s.store.regions) (inlets : t.inlets = s.inlets) (a : Nat) :
    historySpan t a = historySpan s a := by
  unfold historySpan Store.region
  rw [regions, inlets]

/-- Poison is met by the ECC setting, the poisoned sectors, and the rings of HISTORY. -/
theorem readPoisoned_of_same {s t : State} (cfg : t.store.cfg = s.store.cfg) (poison : t.store.poison = s.store.poison)
    (regions : t.store.regions = s.store.regions) (inlets : t.inlets = s.inlets) (a n : Nat) : readPoisoned t a n = readPoisoned s a n := by
  have span : spanPoisoned t.store a n = spanPoisoned s.store a n := by rw [spanPoisoned, spanPoisoned, poison]
  have within : t.store.within rtHistory a n = s.store.within rtHistory a n := by
    unfold Store.within Store.region
    rw [regions]
  have history : historyPoisoned t a n = historyPoisoned s a n := by
    unfold historyPoisoned
    rw [inlets, funext (historySpan_of_same regions inlets)]
  rw [readPoisoned, readPoisoned, cfg, span, within, history]

section
variable {s : State} (ready : s.store.state = .ready)
include ready

theorem state_storeAsk : (storeAsk s).store.state = .ready := by
  rw [storeAsk_of_ready ready]
  exact ready

theorem mem_storeAsk : (storeAsk s).store.mem = s.store.mem := by rw [storeAsk_of_ready ready]

theorem storeServes_storeAsk : storeServes (storeAsk s) = storeServes s := by
  rw [storeAsk_of_ready ready]
  rfl

theorem readPoisoned_storeAsk (a n : Nat) : readPoisoned (storeAsk s) a n = readPoisoned s a n := by
  have eq := storeAsk_of_ready ready
  exact readPoisoned_of_same (by rw [eq]) (by rw [eq]) (by rw [eq]) (by rw [eq]; rfl) a n

theorem rawByte_storeAsk (a : Nat) : rawByte (storeAsk s) a = rawByte s a := by
  rw [storeAsk_of_ready ready]
  rfl

theorem rawRead_storeAsk (a n : Nat) : rawRead (storeAsk s) a n = rawRead s a n := by
  induction n generalizing a with
  | zero => rfl
  | succ n ih => rw [rawRead, rawRead, rawByte_storeAsk ready, ih]

end

/-! ## BAR4 reads -/

section
variable {s : State} {o n : Nat} (link : s.pcie.linkUp = true) (inside : o + n ≤ apertureSize s)
include link inside

theorem doBar4Read_of_d3 (d3 : s.pcie.d3 = true) : doBar4Read o n s = readResult .unsupported s := by
  refine (if_neg (not_or.2 ⟨not_not_intro link, not_lt.2 inside⟩)).trans (if_pos (Or.inl d3))

variable (d0 : s.pcie.d3 = false) (space : memSpaceEnabled s = true) (awake : s.clk.lull < 2)
include d0 space awake

theorem doBar4Read_of_reaches : doBar4Read o n s = bar4Read o n s := by
  refine (if_neg (not_or.2 ⟨not_not_intro link, not_lt.2 inside⟩)).trans
    ((if_neg (not_or.2 ⟨ne_true_of_eq_false d0, not_not_intro space⟩)).trans ?_)
  rw [wakeLull_of_awake awake]

end

section
variable {s : State} {o n : Nat}

theorem bar4Read_of_outside (outside : bar4Inside s (windowBase s + o) n = false) :
    bar4Read o n s = refuseBar4 (readResult .unsupported s) := if_pos (ne_true_of_eq_false outside)

variable (listed : bar4Inside s (windowBase s + o) n = true)
include listed

theorem bar4Read_of_stopped (notReady : s.store.state ≠ .ready) (notResting : s.store.state ≠ .selfRefresh) :
    bar4Read o n s = refuseBar4 (readResult .completerAbort s) := by
  have still : storeAwake s = s := by
    have asked : storeAsk s = s := (if_neg notResting).trans (if_pos notReady)
    unfold storeAwake
    rw [asked]
    exact if_neg notResting
  unfold bar4Read
  dsimp only
  rw [if_neg (not_not_intro listed), still, if_pos notReady]

theorem bar4Read_of_clean (ready : s.store.state = .ready) (serves : storeServes s = true) (clean : readPoisoned s (windowBase s + o) n = false) :
    bar4Read o n s = readResult (.data (rawRead s (windowBase s + o) n)) (storeAsk s) := by
  unfold bar4Read
  dsimp only
  rw [if_neg (not_not_intro listed), storeAwake_of_ready ready, if_neg (not_not_intro (state_storeAsk ready)), storeServes_storeAsk ready,
    if_neg (not_not_intro serves), readPoisoned_storeAsk ready, if_neg (ne_true_of_eq_false clean), rawRead_storeAsk ready]

theorem bar4Read_of_poisoned (ready : s.store.state = .ready) (serves : storeServes s = true) (poisoned : readPoisoned s (windowBase s + o) n = true) :
    bar4Read o n s = reportSpan (windowBase s + o) n rqHost (readResult (.poisoned n) (storeAsk s)) := by
  unfold bar4Read
  dsimp only
  rw [if_neg (not_not_intro listed), storeAwake_of_ready ready, if_neg (not_not_intro (state_storeAsk ready)), storeServes_storeAsk ready,
    if_neg (not_not_intro serves), readPoisoned_storeAsk ready, if_pos poisoned]

end

theorem readResult_side (r : ReadOutcome) (s : State) : Side s (readResult r s) := by rfl

theorem reportSpan_side (a n rq : Nat) (s : State) : Side s (reportSpan a n rq s) := by
  unfold reportSpan
  split
  · exact raise_side _ _ s (Side_refl s)
  · exact raise_side _ _ s (Side_refl s)

theorem lastRead_raise (ev : Nat) (vals : List Val) (s : State) : (raise ev vals s).pcie.lastRead = s.pcie.lastRead := by
  have rest := congrArg Pcie.lastRead (raise_portRest ev vals s)
  exact rest

theorem lastRead_reportSpan (a n rq : Nat) (s : State) : (reportSpan a n rq s).pcie.lastRead = s.pcie.lastRead := by
  unfold reportSpan
  split
  · exact lastRead_raise _ _ s
  · exact lastRead_raise _ _ s

/-! ## What a write through BAR4 stores -/

theorem writeMasked_other (m : Memory) (a : Nat) (d : List (Option Byte)) (x : Nat)
    (free : ∀ k < d.length, x = a + k → d[k]? = some none) : (writeMasked m a d).byte x = m.byte x := by
  induction d generalizing m a with
  | nil => rfl
  | cons e d ih =>
    have rest : ∀ k < d.length, x = a + 1 + k → d[k]? = some none := fun k within place =>
      free (k + 1) (Nat.succ_lt_succ within) (by omega)
    cases e with
    | none => exact ih m (a + 1) rest
    | some b =>
      have elsewhere : x ≠ a := fun here => by simpa using free 0 (Nat.succ_pos _) here
      exact (ih _ (a + 1) rest).trans (spGet_spPut_other a x b elsewhere)

theorem writeMasked_self {m : Memory} (wf : Memory.wf m = true) (a : Nat) (d : List (Option Byte)) {k : Nat} {b : Byte}
    (enabled : d[k]? = some (some b)) : (writeMasked m a d).byte (a + k) = b := by
  induction d generalizing m a k with
  | nil => simp at enabled
  | cons e d ih =>
    cases k with
    | zero =>
      obtain rfl : e = some b := by simpa using enabled
      exact (writeMasked_other _ (a + 1) d (a + 0) fun k _ place => by omega).trans (spGet_spPut_self (l := none) a b wf)
    | succ k =>
      have later : d[k]? = some (some b) := by simpa using enabled
      rw [show a + (k + 1) = a + 1 + k by omega]
      cases e with
      | none => exact ih wf (a + 1) later
      | some e => exact ih (Memory.setByte_wf a e wf) (a + 1) later

/-! ## The AER status -/

theorem cfg_raise (ev : Nat) (vals : List Val) (s : State) : (raise ev vals s).pcie.cfg = s.pcie.cfg := by
  have rest := congrArg Pcie.cfg (raise_portRest ev vals s)
  exact rest

/-- A value other than the default reads back, whatever the list. -/
theorem spGet_spPut_of_ne {V : Type} [DecidableEq V] {d x : V} (differs : x ≠ d) (m : List (Nat × V)) (k : Nat) : spGet d (spPut d m k x) k = x := by
  induction m with
  | nil => rw [spPut, if_neg differs, spGet, if_pos rfl]
  | cons e m ih =>
    obtain ⟨j, v⟩ := e
    rw [spPut]
    split_ifs with before here
    · rw [spGet, if_pos rfl]
    · rw [spGet, if_pos rfl]
    · rw [spGet, if_neg here, ih]

/-- The dword of the AER status is stored as it reads. -/
theorem cfgDword_aer (s : State) : cfgDword s 0x104 = spGet 0#32 s.pcie.cfg 0x104 := by
  have free : cfgFixed s 0x104 = (0#32, 0#32) := rfl
  have reset : cfgReset 0x104 = 0#32 := rfl
  rw [cfgDword, free, reset]
  simp only [BitVec.xor_zero, BitVec.and_zero, BitVec.or_zero]
  exact BitVec.and_allOnes

/-- The AER status after an error. -/
theorem aerLog_bit {n : Nat} (bit : n < 32) (s : State) : (cfgDword (aerLog n s) 0x104).getLsbD n = true := by
  have single : (BitVec.ofNat 32 (2 ^ n)).getLsbD n = true := by
    rw [BitVec.getLsbD_ofNat, decide_eq_true bit, Bool.true_and, Nat.testBit_two_pow_self]
  unfold aerLog
  extract_lets u v first
  split
  · assumption
  · have set : (v ||| BitVec.ofNat 32 (2 ^ n)).getLsbD n = true := by rw [BitVec.getLsbD_or, single, Bool.or_true]
    have some_ : v ||| BitVec.ofNat 32 (2 ^ n) ≠ 0#32 := fun none_ => by
      rw [none_, BitVec.getLsbD_zero] at set
      exact Bool.false_ne_true set
    rw [cfgDword_aer, cfg_raise]
    have status : spGet 0#32 (setCfg 0x118 (BitVec.ofNat 32 first) (setCfg 0x104 (v ||| BitVec.ofNat 32 (2 ^ n)) u)).pcie.cfg 0x104 =
        v ||| BitVec.ofNat 32 (2 ^ n) := by
      refine (spGet_spPut_other 0x118 0x104 _ (by decide)).trans ?_
      rw [setCfg, show cfgReset 0x104 = 0#32 from rfl, BitVec.xor_zero]
      exact spGet_spPut_of_ne some_ _ _
    rw [status]
    exact set

/-! ## BAR4 writes -/

theorem cfgDword_aer_storeAsk {s : State} (ready : s.store.state = .ready) : cfgDword (storeAsk s) 0x104 = cfgDword s 0x104 := by
  have same : (storeAsk s).pcie.cfg = s.pcie.cfg := by
    unfold storeAsk
    rw [if_neg (by rw [ready]; decide), if_neg (not_not_intro ready)]
    split
    · exact cfg_raise _ _ _
    · rfl
  rw [cfgDword_aer, cfgDword_aer, same]

section
variable {s : State} {o : Nat} {d : List (Option Byte)} (reaches : Reaches s) (within : o + d.length ≤ apertureSize s)
include reaches within

theorem doBar4Write_of_reaches (poisoned : Bool) : doBar4Write o d poisoned s = bar4Write o d poisoned s :=
  (if_neg (not_lt.2 within)).trans (barAccess_of_reaches reaches _)

end

section
variable {s : State} {o : Nat} {d : List (Option Byte)} (inside : bar4Inside s (windowBase s + o) d.length = true)
  (target : dmaWritable s (windowBase s + o) d.length = true) (ready : s.store.state = .ready)
include inside target ready

theorem bar4Write_of_target : bar4Write o d false s = writeEnabled (windowBase s + o) d (storeAsk s) := by
  have writable : bar4Writable s (windowBase s + o) d.length = true := by rw [bar4Writable, target, Bool.true_or]
  unfold bar4Write
  dsimp only
  rw [if_neg Bool.false_ne_true, if_neg (not_or.2 ⟨not_not_intro inside, not_not_intro writable⟩), storeAwake_of_ready ready,
    if_neg (not_not_intro (state_storeAsk ready)), if_neg Bool.false_ne_true]

theorem bar4Write_of_poisoned :
    bar4Write o d true s = poisonSpan (windowBase s + o) d.length rqHost (storeAsk (aerLog aerPoisoned s)) := by
  have store : (aerLog aerPoisoned s).store = s.store := Side_store (aerLog_side _ s (Side_refl s))
  have logged : (aerLog aerPoisoned s).store.state = .ready := by rw [store, ready]
  have still : bar4Inside (aerLog aerPoisoned s) (windowBase s + o) d.length = true := by
    rw [bar4Inside, dmaReadable, store, ← dmaReadable, ← bar4Inside, inside]
  have writable : bar4Writable (aerLog aerPoisoned s) (windowBase s + o) d.length = true := by
    rw [bar4Writable, dmaWritable, store, ← dmaWritable, target, Bool.true_or]
  unfold bar4Write
  dsimp only
  rw [if_pos rfl, if_neg (not_or.2 ⟨not_not_intro still, not_not_intro writable⟩), storeAwake_of_ready logged,
    if_neg (not_not_intro (state_storeAsk logged)), if_pos rfl]

end

theorem bar4Write_of_refused {s : State} {o : Nat} {d : List (Option Byte)}
    (refused : bar4Inside s (windowBase s + o) d.length = false ∨ bar4Writable s (windowBase s + o) d.length = false) :
    bar4Write o d false s = refuseBar4 (aerLog aerUnsupported s) := by
  unfold bar4Write
  dsimp only
  rw [if_neg Bool.false_ne_true, if_pos (refused.imp ne_true_of_eq_false ne_true_of_eq_false)]

/-- What asking the store changes, seen from a state before an event. -/
theorem asked_of_event {s v u : State} (side : Side s v)
    (asked : u = { sideOf v u with store := { v.store with idleSince := some v.clk.up, srAborts := u.store.srAborts } }) :
    u = { sideOf s u with store := { s.store with idleSince := some s.clk.up, srAborts := u.store.srAborts } } := by
  unfold Side at side
  rw [side] at asked
  exact asked

/-! ## A store in self-refresh -/

theorem storeAwake_of_selfRefresh {s : State} (resting : s.store.state = .selfRefresh) : storeAwake s = leaveSelfRefresh (storeAsk s) := by
  have still : (storeAsk s).store.state = .selfRefresh := by
    unfold storeAsk
    rw [if_pos resting]
    unfold startExit
    split
    · exact resting
    · exact resting
  exact if_pos still

theorem state_leaveSelfRefresh (s : State) : (leaveSelfRefresh s).store.state = .ready := by
  unfold leaveSelfRefresh
  dsimp only
  rw [raise_store]
  rfl

/-- A read of a span, once the store is READY, answers, or waits for the lock of the memory synthesizer. -/
theorem bar4Read_of_selfRefresh {s : State} {o n : Nat} (inside : bar4Inside s (windowBase s + o) n = true) (resting : s.store.state = .selfRefresh) :
    Side (leaveSelfRefresh (storeAsk s)) (bar4Read o n s) ∧ (bar4Read o n s).pcie.lastRead ≠ none := by
  unfold bar4Read
  dsimp only
  rw [if_neg (not_not_intro inside), storeAwake_of_selfRefresh resting, if_neg (not_not_intro (state_leaveSelfRefresh _))]
  split_ifs
  · refine ⟨Side_trans (readResult_side _ _) (reportSpan_side _ _ _ _), ?_⟩
    rw [lastRead_reportSpan]
    exact Option.some_ne_none _
  · exact ⟨readResult_side _ _, Option.some_ne_none _⟩
  · exact ⟨readResult_side _ _, Option.some_ne_none _⟩

/-! ## Moderation -/

theorem evqIndex_val (q : Fin 4) : evqIndex q.val = some q := dif_pos q.isLt

theorem moderate_of_waiting {q : OutQueue} (enabled : q.enabled = true) (some_ : 0 < q.unsignalled) (time : 0 < q.modUs) (count : 0 < q.modCount)
    (announce : State → State) (s : State) :
    moderate q announce s = signalVector q.vector (announce (waitUp (q.firstUnsignalled + q.modUs * 1280) s)) := by
  refine if_neg ?_
  rintro (off | none_ | noTime | noCount)
  · exact off enabled
  · omega
  · omega
  · omega

/-! ## The obligation -/

/-- Settles O13, with a clause for each row and case. -/
theorem bar4AndModerationServeTheHost : Obligations.Bar4AndModerationServeTheHost := by
  refine ⟨?_, ?_, ?_, ?_, ?_, ?_, ?_, ?_, ?_, ?_, ?_⟩
  · intro s o n link d0 space awake within inside ready serves clean
    refine ⟨_, congrArg Host.Outcome.next ((doBar4Read_of_reaches link within d0 space awake).trans (bar4Read_of_clean inside ready serves clean)),
      rfl, ?_⟩
    exact congrArg (readResult (.data (rawRead s (windowBase s + o) n))) (storeAsk_of_ready ready)
  · intro s o n link d0 space awake within inside ready serves poisoned
    refine ⟨_, congrArg Host.Outcome.next ((doBar4Read_of_reaches link within d0 space awake).trans
      (bar4Read_of_poisoned inside ready serves poisoned)), _, rfl, rfl, ?_, ?_⟩
    · rw [Side_store (reportSpan_side _ _ _ _)]
      exact mem_storeAsk ready
    · exact congrArg (readResult (.poisoned n)) (storeAsk_of_ready ready)
  · intro s o n link d0 space awake within outside
    exact congrArg Host.Outcome.next ((doBar4Read_of_reaches link within d0 space awake).trans (bar4Read_of_outside outside))
  · intro s o n link d0 space awake within inside notReady notResting
    exact congrArg Host.Outcome.next ((doBar4Read_of_reaches link within d0 space awake).trans (bar4Read_of_stopped inside notReady notResting))
  · intro s o n link within d3
    exact congrArg Host.Outcome.next (doBar4Read_of_d3 link within d3)
  · intro s o n link d0 space awake within inside resting
    obtain ⟨side, answered⟩ := bar4Read_of_selfRefresh inside resting
    have store := Side_store side
    refine ⟨_, congrArg Host.Outcome.next (doBar4Read_of_reaches link within d0 space awake), _, rfl, ?_, answered, congrArg Store.mem store⟩
    rw [store]
    exact side
  · intro s o d link d0 space awake within inside target ready wf
    refine ⟨_, congrArg Host.Outcome.next ((doBar4Write_of_reaches ⟨link, d0, space, awake⟩ within false).trans
      (bar4Write_of_target inside target ready)), rfl, ?_, ?_⟩
    · intro k _ b enabled
      refine writeMasked_self ?_ _ d enabled
      rw [mem_storeAsk ready]
      exact wf
    · intro x free
      refine (writeMasked_other _ _ d x free).trans ?_
      rw [mem_storeAsk ready]
  · intro s o d link d0 space awake within inside target ready
    have side := aerLog_side aerPoisoned s (Side_refl s)
    have logged : (aerLog aerPoisoned s).store.state = .ready := by rw [Side_store side, ready]
    refine ⟨_, congrArg Host.Outcome.next ((doBar4Write_of_reaches ⟨link, d0, space, awake⟩ within true).trans
      (bar4Write_of_poisoned inside target ready)), _, rfl, ?_, asked_of_event side (storeAsk_of_ready logged)⟩
    rw [cfgDword_aer_storeAsk logged]
    exact aerLog_bit (by decide) s
  · intro s o d link d0 space awake within refused
    have side := aerLog_side aerUnsupported s (Side_refl s)
    exact ⟨_, congrArg Host.Outcome.next ((doBar4Write_of_reaches ⟨link, d0, space, awake⟩ within false).trans (bar4Write_of_refused refused)), _, rfl,
      Side_store side, aerLog_bit (by decide) s, Side_store (refuseBar4_side _ side)⟩
  · intro s q enabled some_ time count
    exact congrArg Host.Outcome.next (moderate_of_waiting enabled some_ time count _ s)
  · intro s q enabled some_ time count
    refine congrArg Host.Outcome.next (Eq.trans ?_ (moderate_of_waiting enabled some_ time count (setEvq q OutQueue.announced) s))
    unfold doModerationTimeout
    dsimp only
    rw [evqIndex_val]

end Sys2Proof.WindowAccesses
end

section
/-! The watchdog's restart (R565, R566), the configuration CRC sweep (R466), and the conversions of Breeze (R523, R524, R529, R531). -/

namespace Sys2Proof.RestartAndChecks

open Sys2Proof Sys2Proof.Machine Sys2Proof.Safety Sys2Proof.Claims Sys2Proof.Laws Sys2Proof.EventOverflow Sys2Proof.Rows
  Sys2Proof.TimeSources Sys2Proof.DeviceResets Sys2Proof.QueueEntries Sys2Proof.EventLinks Sys2Proof.WindowAccesses

/-! ## What stopping the hardware leaves -/

/-- What stopping inlets and Draught leaves of a state: the time, the regions, the DID, the code of the last reset, and everything beside
inlets, store, clocks, Draught and what an event may change. An inlet that was stopped stays so. -/
structure Halting (v t : State) : Prop where
  rest : t = { sideOf v t with inlets := t.inlets, store := t.store, clk := t.clk, drt := t.drt, free := t.free }
  tick : t.clk.tick = v.clk.tick
  up : t.clk.up = v.clk.up
  regions : t.store.regions = v.store.regions
  did : t.link.did = v.link.did
  lastReset : t.pcie.lastReset = v.pcie.lastReset
  stopped : ∀ j : Fin 4, v.inlets[j].state = .stopped → t.inlets[j].state = .stopped

theorem Halting.refl (s : State) : Halting s s := ⟨rfl, rfl, rfl, rfl, rfl, rfl, fun _ => id⟩

theorem Halting.trans {a b c : State} (h : Halting a b) (g : Halting b c) : Halting a c where
  rest := by
    have rest := g.rest
    rw [h.rest] at rest
    exact rest
  tick := g.tick.trans h.tick
  up := g.up.trans h.up
  regions := g.regions.trans h.regions
  did := g.did.trans h.did
  lastReset := g.lastReset.trans h.lastReset
  stopped j held := g.stopped j (h.stopped j held)

theorem halting_raiseW (ev tick weight weight2 : Nat) (vals : List Val) (s : State) : Halting s (raiseW ev tick weight weight2 vals s) := by
  have side := raiseW_side ev tick weight weight2 vals s (Side_refl s)
  refine ⟨?_, ?_, ?_, ?_, ?_, ?_, ?_⟩
  · rw [Side_inlets side, Side_store side, Side_clk side, Side_drt side, Side_free side]
    exact side
  · rw [Side_clk side]
  · rw [Side_clk side]
  · rw [Side_store side]
  · exact (congrArg Link.did (unmoved_raiseW unmoved_linkRest ev tick weight weight2 vals s)).trans (by rfl)
  · exact (congrArg Pcie.lastReset (unmoved_raiseW unmoved_portRest ev tick weight weight2 vals s)).trans (by rfl)
  · intro j held
    rw [Side_inlets side]
    exact held

theorem halting_raise (ev : Nat) (vals : List Val) (s : State) : Halting s (raise ev vals s) := halting_raiseW _ _ _ _ _ s

theorem halting_regs (regs : RegFile) (s : State) : Halting s { s with regs := regs } := ⟨rfl, rfl, rfl, rfl, rfl, rfl, fun _ => id⟩

theorem halting_setReg64 (lo hi v : Nat) (s : State) : Halting s (s.setReg64 lo hi v) := halting_regs _ s

theorem halting_setField (k hi lo v : Nat) (s : State) : Halting s (s.setField k hi lo v) := halting_regs _ s

theorem halting_drt (drt : Draught) (s : State) : Halting s { s with drt := drt } := ⟨rfl, rfl, rfl, rfl, rfl, rfl, fun _ => id⟩

theorem halting_free (free : Nat) (s : State) : Halting s { s with free := free } := ⟨rfl, rfl, rfl, rfl, rfl, rfl, fun _ => id⟩

theorem halting_setStore {f : Store → Store} (regions : ∀ st, (f st).regions = st.regions) (s : State) : Halting s (setStore f s) :=
  ⟨rfl, rfl, rfl, regions _, rfl, rfl, fun _ => id⟩

theorem halting_setInlet (n : Fin 4) {f : Inlet → Inlet} (stops : ∀ i : Inlet, i.state = .stopped → (f i).state = .stopped) (s : State) :
    Halting s (setInlet n f s) := by
  refine ⟨rfl, rfl, rfl, rfl, rfl, rfl, fun j held => ?_⟩
  by_cases here : j = n
  · subst here
    refine (congrArg Inlet.state (vmod_self s.inlets j f)).trans (stops _ held)
  · exact (congrArg Inlet.state (vmod_of_ne s.inlets f here)).trans held

theorem halting_setSynth (k : Nat) (f : Synth → Synth) (s : State) : Halting s (setSynth k f s) := ⟨rfl, rfl, rfl, rfl, rfl, rfl, fun _ => id⟩

theorem halting_hostWrite (a : Nat) (d : Data) (s : State) : Halting s (hostWrite a d s) := by
  unfold hostWrite
  split
  · exact ⟨rfl, rfl, rfl, rfl, rfl, rfl, fun _ => id⟩
  · exact Halting.refl s

theorem halting_storeWrite (a : Nat) (d : Data) (s : State) : Halting s (storeWrite a d s) := halting_setStore (by intro st; rfl) s

/-! ## Inlets -/

/-- No object of the firmware is left. -/
structure Bare (s : State) : Prop where
  tasks : s.tasks = []
  shares : ∀ m : Fin 20, s.tiles[m].shares = []
  streams : ∀ n : Fin 16, s.tw[n].iq = none
  acqs : acqsInFlight s = []

theorem Bare.of_halting {s t : State} (bare : Bare s) (h : Halting s t) : Bare t := by
  rw [h.rest]
  exact ⟨bare.tasks, bare.shares, bare.streams, bare.acqs⟩

theorem forL_eq_self {α : Type} {f : α → State → State} {l : List α} {s : State} (still : ∀ a ∈ l, f a s = s) : forL l f s = s := by
  induction l with
  | nil => rfl
  | cons a l ih =>
    have first : forL (a :: l) f s = forL l f (f a s) := rfl
    rw [first, still a List.mem_cons_self, ih fun b mem => still b (List.mem_cons_of_mem a mem)]

section
variable {s : State} (bare : Bare s)
include bare

theorem overtaken_of_bare (n : Fin 4) : overtaken n s = s := by
  have shares : overtakenShares s.inlets[n].ring.oldest n s = s := by
    refine forL_eq_self fun m _ => ?_
    dsimp only
    rw [bare.shares m]
    exact ite_self s
  have tasks : forL ((s.tasks.filter fun t => t.inlet = some n).map (·.id)) (fun id s' => overtakenBackfill id s.inlets[n].ring.oldest s') s = s := by
    rw [bare.tasks]
    rfl
  unfold overtaken
  dsimp only
  rw [tasks, shares]

theorem publishInlet_of_bare (n : Fin 4) : publishInlet n s = s := by
  have iq : publishIq n s = s := by
    refine forL_eq_self fun m _ => ?_
    rw [bare.streams m]
  unfold publishInlet
  dsimp only
  rw [iq, bare.tasks]
  rfl

theorem advanceTails_of_bare : advanceTails s = s := by
  unfold advanceTails
  rw [bare.acqs]
  rfl

end

theorem halting_commitFrame (n : Fin 4) (s : State) : Halting s (commitFrame n s) := by
  unfold commitFrame
  split
  · exact Halting.refl s
  · exact halting_setInlet n (by exact fun _ held => held) s

theorem halting_rewriteHistory (s : State) : Halting s (rewriteHistory s) := by
  unfold rewriteHistory
  split
  · exact Halting.refl s
  · exact halting_setStore (by intro st; rfl) s

theorem halting_scrambleHistory (s : State) : Halting s (scrambleHistory s) := by
  unfold scrambleHistory
  split
  · split
    · exact Halting.refl s
    · exact halting_setStore (by intro st; rfl) s
  · exact Halting.refl s

theorem halting_foldl {α : Type} {f : State → α → State} (step : ∀ s a, Halting s (f s a)) (l : List α) (s : State) : Halting s (l.foldl f s) := by
  induction l generalizing s with
  | nil => exact Halting.refl s
  | cons a l ih => exact (step s a).trans (ih (f s a))

theorem halting_forL {α : Type} {f : α → State → State} (step : ∀ a s, Halting s (f a s)) (l : List α) (s : State) : Halting s (forL l f s) :=
  halting_foldl (fun s a => step a s) l s

/-- With nothing of the firmware left, a burst into HISTORY has no reader. -/
theorem halting_commitFrames {s : State} (bare : Bare s) (n : Fin 4) (frames : Nat) : Halting s (commitFrames n frames s) := by
  have taken : Halting s ((List.range frames).foldl (fun s _ => commitFrame n s) s) := halting_foldl (fun s _ => halting_commitFrame n s) _ s
  unfold commitFrames
  extract_lets u w
  have written : Halting s w := by
    unfold w
    split
    · exact taken
    · exact taken.trans ((halting_scrambleHistory u).trans (halting_rewriteHistory _))
  have still := bare.of_halting written
  rw [overtaken_of_bare still, advanceTails_of_bare still, publishInlet_of_bare still]
  exact written

theorem halting_haltInlet {s : State} (bare : Bare s) (n : Fin 4) : Halting s (haltInlet n s) ∧ (haltInlet n s).inlets[n].state = .stopped := by
  unfold haltInlet
  extract_lets i t cut burst u
  have flushed : Halting s u := by
    unfold u
    split
    · have shortened : Halting s cut := halting_setInlet n (by exact fun _ held => held) s
      exact (shortened.trans (halting_commitFrames (bare.of_halting shortened) n _)).trans (halting_raiseW _ _ _ _ _ _)
    · exact Halting.refl s
  refine ⟨(flushed.trans (halting_setInlet n (by exact fun _ _ => rfl) u)).trans (halting_setSynth _ _ _), ?_⟩
  exact (congrArg Inlet.state (vmod_self u.inlets n fun i => haltedInlet u.clk.tick i)).trans rfl

/-! ## Draught -/

theorem halting_chainDesc (c : DmaChan) (s : State) : Halting s (chainDesc c s).2 := by
  unfold chainDesc
  split
  · exact Halting.refl s
  · split
    · exact Halting.refl s
    · exact halting_free _ s

theorem halting_writePrefix (d : DmaDesc) (k : Nat) (s : State) : Halting s (writePrefix d k s) := by
  have data : Halting s (transferData d 0 k s).2 := by
    unfold transferData
    split_ifs
    · exact Halting.refl s
    · exact Halting.refl s
    · exact halting_free _ s
  unfold writePrefix
  split
  · exact Halting.refl s
  · refine data.trans ?_
    unfold putTransfer
    split_ifs
    · have noted : ∀ u : State, ∀ w : Bool × Bool, Halting u (setPcie (fun p => { p with dataWrite := w }) u) := fun u w =>
        ⟨rfl, rfl, rfl, rfl, rfl, rfl, fun _ => id⟩
      exact (noted _ _).trans (halting_hostWrite _ _ _)
    · exact halting_storeWrite _ _ _
    · exact Halting.refl _

theorem halting_showPlace (n : Fin 32) (d : DmaDesc) (k : Nat) (s : State) : Halting s (showPlace n d k s) :=
  (halting_setReg64 _ _ _ s).trans (halting_setReg64 _ _ _ _)

theorem halting_idleChan (n : Fin 32) (s : State) : Halting s (idleChan n s) := halting_drt _ s

theorem halting_endRegs (n : Fin 32) (code err residue : Nat) (s : State) : Halting s (endRegs n code err residue s) := by
  dsimp only [endRegs]
  split
  · exact halting_regs _ s
  · exact halting_regs _ s

theorem halting_putStatus (n : Fin 32) (d : DmaDesc) (code err residue : Nat) (noHost : Bool) (s : State) :
    Halting s (putStatus n d code err residue noHost s) := by
  unfold putStatus
  extract_lets r
  split_ifs
  · exact Halting.refl s
  · exact Halting.refl s
  · exact halting_hostWrite _ _ s
  · exact halting_storeWrite _ _ s
  · exact Halting.refl s

theorem halting_abortChan (noHost : Bool) (n : Fin 32) (s : State) : Halting s (abortChan noHost n s) := by
  unfold abortChan
  extract_lets c r d f k placed ended noted cleared
  split
  · exact Halting.refl s
  · have dropped : Halting s (if c.state = .running then dropDraughtRequests s else s) := by
      split
      · exact ⟨rfl, rfl, rfl, rfl, rfl, rfl, fun _ => id⟩
      · exact Halting.refl s
    have chained : Halting s f.2 := (dropped.trans (halting_chainDesc c _)).trans (halting_free _ _)
    have put : Halting s ended := ((chained.trans (halting_writePrefix d k f.2)).trans (halting_showPlace n d k _)).trans (halting_endRegs _ _ _ _ _)
    have status : Halting s noted := (put.trans (halting_setReg64 _ _ _ _)).trans (halting_putStatus _ _ _ _ _ _ _)
    exact ((status.trans (halting_setField _ _ _ _ _)).trans (halting_idleChan n _)).trans (halting_raise _ _ _)

/-! ## The firmware's objects are discarded -/

/-- The state once the firmware's objects are gone, before the hardware stops. -/
def withoutObjects (s : State) : State :=
  { s with tasks := [], xcorrs := [], tw := Vector.replicate 16 Stream.reset,
           eddy := { maps := Vector.replicate 8 DensityMap.reset, clears := [] },
           squall := { Squall.reset with acqs := s.squall.acqs.filter (·.complete), nextAcq := s.squall.nextAcq, acqHead := s.squall.acqHead },
           tiles := s.tiles.map haltTile }

/-- The state once inlets and Draught have stopped too. -/
def hardwareStopped (s : State) : State := abortAll false (forL (List.finRange 4) haltInlet (withoutObjects s))

theorem haltTile_shares (t : Tile) : (haltTile t).shares = [] := by
  unfold haltTile
  extract_lets u
  split <;> rfl

theorem haltTile_fenced (t : Tile) : (haltTile t).state = .fenced ↔ t.state = .fenced := by
  unfold haltTile
  extract_lets u
  have same : u.state = t.state := rfl
  split
  · rw [same]
  · rename_i running
    rw [same] at running
    have idles : ¬ TileState.idle = .fenced := by decide
    exact iff_of_false idles running

theorem bare_withoutObjects (s : State) : Bare (withoutObjects s) where
  tasks := rfl
  shares m := by
    refine (congrArg Tile.shares (Vector.getElem_map haltTile m.isLt)).trans (haltTile_shares _)
  streams n := by
    refine (congrArg Stream.iq (Vector.getElem_replicate n.isLt)).trans rfl
  acqs := List.filter_eq_nil_iff.2 fun q mem => by
    have complete := (List.mem_filter.1 mem).2
    rw [complete]
    decide

theorem halting_hardwareStopped (s : State) :
    Halting (withoutObjects s) (hardwareStopped s) ∧ ∀ n : Fin 4, (hardwareStopped s).inlets[n].state = .stopped := by
  have bare := bare_withoutObjects s
  obtain ⟨h0, stopped0⟩ := halting_haltInlet bare 0
  obtain ⟨h1, stopped1⟩ := halting_haltInlet (bare.of_halting h0) 1
  obtain ⟨h2, stopped2⟩ := halting_haltInlet (bare.of_halting (h0.trans h1)) 2
  obtain ⟨h3, stopped3⟩ := halting_haltInlet (bare.of_halting ((h0.trans h1).trans h2)) 3
  have aborted := halting_forL (fun n s => halting_abortChan false n s) (List.finRange 32)
    (haltInlet 3 (haltInlet 2 (haltInlet 1 (haltInlet 0 (withoutObjects s)))))
  have unrolled : hardwareStopped s = abortAll false (haltInlet 3 (haltInlet 2 (haltInlet 1 (haltInlet 0 (withoutObjects s))))) := by
    rw [hardwareStopped, show List.finRange 4 = [0, 1, 2, 3] by decide]
    simp only [forL, List.foldl_cons, List.foldl_nil]
  rw [unrolled]
  refine ⟨(((h0.trans h1).trans h2).trans h3).trans aborted, fun n => ?_⟩
  rcases (show n = 0 ∨ n = 1 ∨ n = 2 ∨ n = 3 by omega) with rfl | rfl | rfl | rfl
  · exact ((h1.trans h2).trans h3).trans aborted |>.stopped 0 stopped0
  · exact (h2.trans h3).trans aborted |>.stopped 1 stopped1
  · exact h3.trans aborted |>.stopped 2 stopped2
  · exact aborted.stopped 3 stopped3

theorem forN_regs {f : Nat → State → State} (step : ∀ i s, ∃ regs, f i s = { s with regs := regs }) (n : Nat) (s : State) :
    ∃ regs, forN n f s = { s with regs := regs } := by
  unfold forN
  induction List.range n generalizing s with
  | nil => exact ⟨s.regs, rfl⟩
  | cons i l ih =>
    obtain ⟨first, eq⟩ := step i s
    obtain ⟨regs, rest⟩ := ih (f i s)
    refine ⟨regs, rest.trans ?_⟩
    rw [eq]

/-- Of the mailbox, disabling the queues drops what has not started. -/
theorem disableQueues_eq (s : State) : ∃ regs cmds, disableQueues s = { s with
    mbx := { s.mbx with
      cmds := cmds
      cmdqs := s.mbx.cmdqs.map fun q => { q with enabled := false, error := false, bound := false }
      cplqs := s.mbx.cplqs.map fun q => { q with enabled := false }
      evqs := s.mbx.evqs.map fun q => { q with enabled := false } }
    regs := regs } := by
  unfold disableQueues
  extract_lets mbx u clear
  obtain ⟨first, eq1⟩ := forN_regs (f := fun n s => clear (kCplq n 8) (clear (kCmdq n 8) s)) (fun n s => ⟨_, rfl⟩) 8 u
  obtain ⟨regs, eq2⟩ := forN_regs (f := fun n => clear (kEvq n 8)) (fun n s => ⟨_, rfl⟩) 4 { u with regs := first }
  rw [eq1, eq2]
  exact ⟨regs, _, rfl⟩

/-- The queues are empty, and the limits, grants and requests of the firmware are those of a start. -/
def firmwareEmptied (s : State) : State :=
  { s with mbx := { Mailbox.reset with cmdqs := s.mbx.cmdqs, cplqs := s.mbx.cplqs, evqs := s.mbx.evqs, nextId := s.mbx.nextId },
           evt := { s.evt with logs := Vector.replicate 4 [], logLost := Vector.replicate 4 0 },
           pwr := { s.pwr with limit := 1650, effective := effectiveLimit 1650 s.fw.tjEval, grants := [], queue := [], tolHost := 0 },
           store := { s.store with ledger := [], retraining := none },
           link := { s.link with ports := s.link.ports.map haltPort, flows := [], requests := [], foreign := [], heal := none, enumeration := none,
                                 lostDids := [], toCancel := [], arriving := [], remoteReads := [] },
           boot := { s.boot with session := none },
           fynal := { s.fynal with newBaud := none, restartAt := none } }

theorem discardObjects_eq (s : State) : discardObjects s = firmwareEmptied (withdrawRef (disableQueues (hardwareStopped s))) := by
  unfold discardObjects firmwareEmptied hardwareStopped withoutObjects
  rfl

/-- What is left of a state when the firmware's objects are discarded. -/
structure Discarded (s t : State) : Prop where
  phase : t.boot.phase = s.boot.phase
  lastReset : t.pcie.lastReset = s.pcie.lastReset
  tick : t.clk.tick = s.clk.tick
  up : t.clk.up = s.clk.up
  fw : t.fw = s.fw
  tasks : t.tasks = []
  xcorrs : t.xcorrs = []
  cmds : t.mbx.cmds = []
  streams : t.tw = Vector.replicate 16 Stream.reset
  ats : t.squall.ats = Squall.reset.ats
  units : t.squall.units = Squall.reset.units
  maps : ∀ n : Fin 8, t.eddy.maps[n] = DensityMap.reset
  queues : ∀ q : Fin 8, t.mbx.cmdqs[q].enabled = false ∧ t.mbx.cplqs[q].enabled = false
  evqs : ∀ q : Fin 4, t.mbx.evqs[q].enabled = false
  tiles : ∀ n : Fin 20, t.tiles[n].shares = [] ∧ (t.tiles[n].state = .fenced ↔ s.tiles[n].state = .fenced)
  inlets : ∀ n : Fin 4, t.inlets[n].state = .stopped
  regions : t.store.regions = s.store.regions
  flash : t.boot.flash = s.boot.flash
  fwVersion : t.boot.fwVersion = s.boot.fwVersion
  did : t.link.did = s.link.did

theorem discarded_discardObjects (s : State) : Discarded s (discardObjects s) := by
  obtain ⟨h, stopped⟩ := halting_hardwareStopped s
  obtain ⟨regs, cmds, closed⟩ := disableQueues_eq (hardwareStopped s)
  rw [discardObjects_eq, closed]
  generalize hardwareStopped s = z at h stopped ⊢
  have boot : z.boot = s.boot := (congrArg State.boot h.rest).trans rfl
  have tiles : z.tiles = s.tiles.map haltTile := (congrArg State.tiles h.rest).trans rfl
  have maps : z.eddy.maps = Vector.replicate 8 DensityMap.reset := (congrArg (fun u : State => u.eddy.maps) h.rest).trans rfl
  exact {
    phase := (congrArg Boot.phase boot :)
    lastReset := h.lastReset
    tick := h.tick
    up := h.up
    fw := (congrArg State.fw h.rest).trans rfl
    tasks := (congrArg State.tasks h.rest).trans rfl
    xcorrs := (congrArg State.xcorrs h.rest).trans rfl
    cmds := rfl
    streams := (congrArg State.tw h.rest).trans rfl
    ats := (congrArg (fun u : State => u.squall.ats) h.rest).trans rfl
    units := (congrArg (fun u : State => u.squall.units) h.rest).trans rfl
    maps := fun n => (congrArg (·[n]) maps).trans (Vector.getElem_replicate n.isLt)
    queues := fun q => ⟨congrArg CmdQueue.enabled (Vector.getElem_map _ q.isLt), congrArg OutQueue.enabled (Vector.getElem_map _ q.isLt)⟩
    evqs := fun q => congrArg OutQueue.enabled (Vector.getElem_map _ q.isLt)
    tiles := fun n => by
      have tile : z.tiles[n] = haltTile s.tiles[n] := (congrArg (·[n]) tiles).trans (Vector.getElem_map _ n.isLt)
      exact ⟨(congrArg Tile.shares tile).trans (haltTile_shares _), by rw [← haltTile_fenced s.tiles[n], ← tile]; rfl⟩
    inlets := stopped
    regions := h.regions
    flash := (congrArg Boot.flash boot :)
    fwVersion := (congrArg Boot.fwVersion boot :)
    did := h.did }

/-! ## The watchdog -/

theorem doWatchdogExpiry_of_running {s : State} (awake : s.clk.lull ≠ 3) (cool : s.fw.thermtrip = false) (running : s.boot.phase = .running) :
    doWatchdogExpiry s = discardObjects (restartProcessor (waitUp (s.fw.lastService + 320000000) s)) := by
  have ticks : watchdogTicks = 320000000 := rfl
  unfold doWatchdogExpiry
  rw [ticks, if_neg (not_or.2 ⟨awake, ne_true_of_eq_false cool⟩), running, if_neg (by decide), if_neg (by decide)]

theorem doWatchdogExpiry_of_restarting {s : State} (awake : s.clk.lull ≠ 3) (cool : s.fw.thermtrip = false) (restarting : s.boot.phase = .restarting) :
    doWatchdogExpiry s = fullReset 6 5 s.boot.straps (waitUp (s.fw.lastService + watchdogTicks) s) := by
  unfold doWatchdogExpiry
  rw [if_neg (not_or.2 ⟨awake, ne_true_of_eq_false cool⟩), if_pos restarting]

/-! ## The sweep -/

theorem sweepDue_bounds (s : State) : sweepDue s % 2560000 = 0 ∧ s.clk.tick ≤ sweepDue s ∧ sweepDue s < s.clk.tick + 5120000 := by
  unfold sweepDue ceilDiv sweepTicks
  dsimp only
  generalize s.clk.tick = tick
  split
  · refine ⟨?_, ?_, ?_⟩ <;> omega
  · refine ⟨?_, ?_, ?_⟩ <;> omega

/-- Both results of a sweep are kept, and it is counted. -/
theorem sweep_regs {u : State} (canonical : RegsCanonical u) (host fw : U32) :
    let w := ((u.setReg kCrcLast host).setReg kCrcFwLast fw).countWrap kCrcSweeps 1
    w.reg kCrcLast = host ∧ w.reg kCrcFwLast = fw ∧ w.reg kCrcSweeps = u.reg kCrcSweeps + 1 := by
  have first := canonical_setReg canonical kCrcLast host
  refine ⟨?_, ?_, ?_⟩
  · rw [reg_countWrap_of_ne (by decide), reg_setReg_of_ne (by decide), reg_setReg_self canonical]
  · rw [reg_countWrap_of_ne (by decide), reg_setReg_self first]
  · refine (reg_setReg_self (canonical_setReg first kCrcFwLast fw) kCrcSweeps _).trans ?_
    rw [reg_setReg_of_ne (by decide), reg_setReg_of_ne (by decide)]
    rfl

/-! ## Conversions -/

/-- The state in which the slot at hand converts: its time has come, and a firmware slot has its source and its reading. -/
def slotSource (s : State) (x : Fin 2) (y : Int) : State :=
  if x = 0 ∨ s.brz.convs[x].pos < s.brz.convs[x].len then
    waitTick (s.brz.convs[x].roundTick + (s.brz.convs[x].pos + 1) * s.brz.convs[x].slotTicks - 1280) s
  else firmwareSlot (s.brz.convs[x].slotAt x s.brz.convs[x].pos) y
    (waitTick (s.brz.convs[x].roundTick + (s.brz.convs[x].pos + 1) * s.brz.convs[x].slotTicks - 1280) s)

section
variable {s : State} {x : Fin 2} {raws : List (BitVec 12)} {y : Int}

theorem slotSource_of_host (host : x = 0 ∨ s.brz.convs[x].pos < s.brz.convs[x].len) : slotSource s x y =
    waitTick (s.brz.convs[x].roundTick + (s.brz.convs[x].pos + 1) * s.brz.convs[x].slotTicks - 1280) s := if_pos host

theorem brzRun_slotSource (host : x = 0 ∨ s.brz.convs[x].pos < s.brz.convs[x].len) : brzRun (slotSource s x y) x = brzRun s x := by
  rw [slotSource_of_host host, brzRun, State.reg, waitTick_regs]
  rfl

theorem doBreezeConversion_of_idle (idle : s.brz.convs[x].state = .cal ∨ s.brz.convs[x].state = .stopped) :
    doBreezeConversion x raws y s = s := if_pos idle.symm

/-- The slot at hand converts from its source, and the last one ends the round. -/
theorem doBreezeConversion_of_active (active : s.brz.convs[x].state = .running ∨ s.brz.convs[x].state = .priming) :
    doBreezeConversion x raws y s = (fun v => if s.brz.convs[x].period x ≤ s.brz.convs[x].pos + 1 then brzRoundEnd x v else v)
      (setConv x (fun c => { c with pos := c.pos + 1 })
        (if (x = 0 ∨ s.brz.convs[x].pos < s.brz.convs[x].len) ∧ ¬ brzRun (slotSource s x y) x then slotSource s x y
         else if s.brz.convs[x].state = .priming then
           primeSlot x (s.brz.convs[x].slotAt x s.brz.convs[x].pos) ((raws.map BitVec.toNat ++ List.replicate 4 0).take 4) (slotSource s x y)
         else brzAlarm x (s.brz.convs[x].slotAt x s.brz.convs[x].pos)
           (convertSlot x (s.brz.convs[x].slotAt x s.brz.convs[x].pos) ((raws.map BitVec.toNat).headD 0) (slotSource s x y)))) := by
  have runs : ¬ (s.brz.convs[x].state = .stopped ∨ s.brz.convs[x].state = .cal) := by
    rcases active with state | state <;> rw [state] <;> decide
  unfold doBreezeConversion slotSource
  dsimp only [usTicks]
  exact if_neg runs

theorem doBreezeConversion_of_stopped (active : s.brz.convs[x].state = .running ∨ s.brz.convs[x].state = .priming)
    (host : x = 0 ∨ s.brz.convs[x].pos < s.brz.convs[x].len) (stopped : brzRun s x = false)
    (more : s.brz.convs[x].pos + 1 < s.brz.convs[x].period x) : doBreezeConversion x raws y s = setConv x (fun c => { c with pos := c.pos + 1 })
      (waitTick (s.brz.convs[x].roundTick + (s.brz.convs[x].pos + 1) * s.brz.convs[x].slotTicks - 1280) s) := by
  have off : ¬ brzRun (slotSource s x y) x = true := by
    rw [brzRun_slotSource host, stopped]
    decide
  rw [doBreezeConversion_of_active active, if_pos ⟨host, off⟩, slotSource_of_host host]
  exact if_neg (not_le.2 more)

theorem converts (run : (x = 0 ∨ s.brz.convs[x].pos < s.brz.convs[x].len) → brzRun s x = true) :
    ¬ ((x = 0 ∨ s.brz.convs[x].pos < s.brz.convs[x].len) ∧ ¬ brzRun (slotSource s x y) x = true) := by
  rintro ⟨host, off⟩
  rw [brzRun_slotSource host] at off
  exact off (run host)

theorem doBreezeConversion_of_steady (run : (x = 0 ∨ s.brz.convs[x].pos < s.brz.convs[x].len) → brzRun s x = true)
    (steady : s.brz.convs[x].state = .running) :
    doBreezeConversion x raws y s = (fun v => if s.brz.convs[x].period x ≤ s.brz.convs[x].pos + 1 then brzRoundEnd x v else v)
      (setConv x (fun c => { c with pos := c.pos + 1 }) (brzAlarm x (s.brz.convs[x].slotAt x s.brz.convs[x].pos)
        (convertSlot x (s.brz.convs[x].slotAt x s.brz.convs[x].pos) ((raws.map BitVec.toNat).headD 0) (slotSource s x y)))) := by
  rw [doBreezeConversion_of_active (.inl steady), if_neg (converts run), steady, if_neg (by decide)]

theorem doBreezeConversion_of_priming (run : (x = 0 ∨ s.brz.convs[x].pos < s.brz.convs[x].len) → brzRun s x = true)
    (priming : s.brz.convs[x].state = .priming) (more : s.brz.convs[x].pos + 1 < s.brz.convs[x].period x) :
    doBreezeConversion x raws y s = setConv x (fun c => { c with pos := c.pos + 1 })
      (primeSlot x (s.brz.convs[x].slotAt x s.brz.convs[x].pos) ((raws.map BitVec.toNat ++ List.replicate 4 0).take 4) (slotSource s x y)) := by
  rw [doBreezeConversion_of_active (.inr priming), if_neg (converts run), if_pos priming]
  exact if_neg (not_le.2 more)

end

/-! ## The obligation -/

/-- Settles O17, with a clause for each row and case. -/
theorem watchdogAndChecksRunOnTime : Obligations.WatchdogAndChecksRunOnTime := by
  refine ⟨?_, ?_, ?_, ?_, ?_, ?_, ?_, ?_, ?_⟩
  · intro s awake cool running
    obtain ⟨k, waited, -, up⟩ := waitUp_eq (s.fw.lastService + 320000000) s
    have d := discarded_discardObjects (restartProcessor { s with clk := k })
    have expired := doWatchdogExpiry_of_running awake cool running
    rw [waited] at expired
    refine ⟨_, congrArg Host.Outcome.next expired, ?_, d.phase, d.lastReset, d.up.trans up, ?_, ?_, d.tasks, d.xcorrs, d.cmds, d.streams, d.ats,
      d.units, d.maps, d.queues, d.evqs, d.tiles, d.inlets, d.regions, d.flash, d.fwVersion, d.did⟩
    · rw [waited]
    · rw [d.fw, d.tick]
      rfl
    · rw [d.fw]
      rfl
  · intro s awake cool restarting
    obtain ⟨k, waited, -, -⟩ := waitUp_eq (s.fw.lastService + watchdogTicks) s
    have again := doWatchdogExpiry_of_restarting awake cool restarting
    rw [waited] at again
    obtain ⟨h, phase⟩ := started_fullReset (s := { s with clk := k }) (code := 6) (kind := 5) (.inl cool) s.boot.straps
    exact ⟨_, congrArg Host.Outcome.next again, h.lastReset, h.straps, h.fuses, h.flash, h.host, h.trims, h.tick, h.up, h.tasks, h.streams, h.cmds,
      h.squall, phase, h.fw⟩
  · intro s restarting
    refine ⟨_, congrArg Host.Outcome.next (if_neg (not_not_intro restarting)), firmwareUp s, rfl, rfl, rfl, rfl, ?_, rfl⟩
    intro notLimp notLimited
    exact if_neg (not_or.2 ⟨ne_true_of_eq_false notLimp, notLimited⟩)
  · intro s awake notHeld canonical
    obtain ⟨multiple, least, most⟩ := sweepDue_bounds s
    obtain ⟨k, waited, -, -⟩ := waitTick_eq (sweepDue s) s
    have swept : doCrcSweep s = sweepAt (sweepDue s) s := if_neg (not_or.2 ⟨awake, notHeld⟩)
    rw [sweepAt, waited] at swept
    have kept : RegsCanonical { s with clk := k, fw := { s.fw with lastSweep := sweepDue s } } := canonical
    obtain ⟨host, fw, count⟩ := sweep_regs kept (hostCheck { s with clk := k, fw := { s.fw with lastSweep := sweepDue s } })
      (firmwareCheck { s with clk := k, fw := { s.fw with lastSweep := sweepDue s } })
    refine ⟨_, congrArg Host.Outcome.next swept, sweepDue s, { s with clk := k, fw := { s.fw with lastSweep := sweepDue s } }, _, multiple, least, most,
      ?_, rfl, host, fw, count, rfl⟩
    rw [waited]
  · intro s x raws y u steady run more source
    rw [source]
    refine congrArg Host.Outcome.next ((doBreezeConversion_of_steady run steady).trans ?_)
    exact if_neg (not_le.2 more)
  · intro s x raws y u steady run last source
    rw [source]
    refine congrArg Host.Outcome.next ((doBreezeConversion_of_steady run steady).trans ?_)
    exact if_pos last.ge
  · intro s x raws y u priming run more source
    rw [source]
    exact congrArg Host.Outcome.next (doBreezeConversion_of_priming run priming more)
  · intro s x raws y active host stopped more
    exact congrArg Host.Outcome.next (doBreezeConversion_of_stopped active host stopped more)
  · intro s x raws y idle
    exact congrArg Host.Outcome.next (doBreezeConversion_of_idle idle)

end Sys2Proof.RestartAndChecks
end

section
/-! The boot sequence: power-up calibration, the image checks, the mailbox ready report and the regulator (R414, R477, R509 to R519, R538 to
R541, R548, R574). -/

namespace Sys2Proof.BootSequence

open Sys2Proof Sys2Proof.Machine Sys2Proof.Safety Sys2Proof.Claims Sys2Proof.Laws Sys2Proof.Rows Sys2Proof.TimeSources
  Sys2Proof.DeviceResets Sys2Proof.EventLinks

/-! ## What a commit leaves of the calibration -/

/-- The calibration and the tick are as they were. -/
structure CalStill (v t : State) : Prop where
  cal : t.cal = v.cal
  tick : t.clk.tick = v.clk.tick

theorem CalStill.refl (s : State) : CalStill s s := ⟨rfl, rfl⟩

theorem CalStill.trans {a b c : State} (h : CalStill a b) (g : CalStill b c) : CalStill a c := ⟨g.cal.trans h.cal, g.tick.trans h.tick⟩

theorem calStill_raise (ev : Nat) (vals : List Val) (s : State) : CalStill s (raise ev vals s) :=
  ⟨raise_cal s ev vals, congrArg Clock.tick (raise_clk s ev vals)⟩

theorem calStill_forL {α : Type} {f : α → State → State} (step : ∀ a s, CalStill s (f a s)) (l : List α) (s : State) : CalStill s (forL l f s) := by
  induction l generalizing s with
  | nil => exact CalStill.refl s
  | cons a l ih => exact (step a s).trans (ih (f a s))

theorem calStill_setField (k hi lo v : Nat) (s : State) : CalStill s (s.setField k hi lo v) := ⟨rfl, rfl⟩

theorem calStill_setScn (f : ScanOut → ScanOut) (s : State) : CalStill s (setScn f s) := ⟨rfl, rfl⟩

theorem calStill_setConv (x : Fin 2) (f : BrzConv → BrzConv) (s : State) : CalStill s (setConv x f s) := ⟨rfl, rfl⟩

theorem calStill_setStore (f : Store → Store) (s : State) : CalStill s (setStore f s) := ⟨rfl, rfl⟩

theorem calStill_setInlet (n : Fin 4) (f : Inlet → Inlet) (s : State) : CalStill s (setInlet n f s) := ⟨rfl, rfl⟩

theorem calStill_setSynth (k : Nat) (f : Synth → Synth) (s : State) : CalStill s (setSynth k f s) := ⟨rfl, rfl⟩

theorem calStill_ite {p : Prop} [Decidable p] {s a b : State} (yes : CalStill s a) (no : CalStill s b) : CalStill s (if p then a else b) := by
  split
  · exact yes
  · exact no

theorem calStill_brzRound (x : Fin 2) (tick : Nat) (s : State) : CalStill s (brzRound x tick s) :=
  calStill_ite (calStill_setConv x _ s) ((calStill_setField _ _ _ _ s).trans (calStill_setConv x _ _))

theorem calStill_brzStart (x : Fin 2) (s : State) : CalStill s (brzStart x s) :=
  calStill_ite (CalStill.refl s) (calStill_ite ((calStill_setConv x _ s).trans (calStill_brzRound x _ _)) (calStill_setConv x _ s))

theorem calStill_brzLeaveCal (s : State) : CalStill s (brzLeaveCal s) :=
  calStill_forL (fun x u => calStill_ite ((calStill_setConv x _ u).trans (calStill_brzStart x _)) (CalStill.refl u)) _ s

theorem calStill_divideHistory (s : State) : CalStill s (divideHistory s) := by
  unfold divideHistory
  split
  · exact CalStill.refl s
  · exact calStill_forL (fun _ u => calStill_setInlet _ _ u) _ s

theorem calStill_storeFilled (rate : Nat) (s : State) : CalStill s (storeFilled rate s) := calStill_setStore _ s

theorem calStill_trainStore (rate : Nat) (s : State) : CalStill s (trainStore rate s) := by
  have locked : CalStill s (raise 0xB04 [] (setSynth 1 (fun y => { y with state := .locked }) (startSynth 1 s))) :=
    ((calStill_setSynth 1 _ s).trans (calStill_setSynth 1 _ _)).trans (calStill_raise _ _ _)
  have filled := locked.trans (calStill_storeFilled rate _)
  refine calStill_ite ?_ ((calStill_setStore _ s).trans (calStill_raise _ _ _))
  exact ((calStill_ite (filled.trans (calStill_raise 0x301 [] _)) filled).trans (calStill_divideHistory _)).trans (calStill_raise _ _ _)

theorem calStill_trainLink (s : State) : CalStill s (trainLink s) := calStill_setScn _ s

theorem calStill_takeTiming (s : State) : CalStill s (takeTiming s) := by
  have cleared := calStill_setField (kScn 0) 1 1 0 s
  have taken := cleared.trans (calStill_setScn (fun c => { c with timing := timingShadow s }) _)
  refine calStill_ite ((cleared.trans (calStill_setField _ _ _ _ _)).trans (calStill_setField _ _ _ _ _)) (calStill_ite taken ?_)
  have trained := calStill_ite (p := tRate (timingShadow s) ≠ tRate (s.setField (kScn 0) 1 1 0).scn.timing ∨
    tLanes (timingShadow s) ≠ tLanes (s.setField (kScn 0) 1 1 0).scn.timing) (taken.trans (calStill_trainLink _)) taken
  exact calStill_ite trained ((trained.trans (calStill_setScn _ _)).trans (calStill_setSynth _ _ _))

theorem calStill_timingApply (s : State) : CalStill s (timingApply s) := calStill_ite (CalStill.refl s) (calStill_takeTiming s)

theorem calStill_startScan (s : State) : CalStill s (startScan s) := by
  have trained := (calStill_trainLink s).trans (calStill_setScn (fun c => { c with blackRest := false }) _)
  exact calStill_ite trained (calStill_ite (trained.trans (calStill_setScn _ _)) (trained.trans (calStill_setSynth _ _ _)))

theorem calStill_auxGo (s : State) : CalStill s (auxGo s) := by
  have none_ : CalStill s (setScn (fun c => { c with auxWaiting := false }) (auxResult 4 s)) :=
    (((calStill_setField _ _ _ _ s).trans (calStill_setField _ _ _ _ _)).trans (calStill_setScn _ _)).trans (calStill_setScn _ _)
  exact calStill_ite (CalStill.refl s) (calStill_ite none_ (calStill_ite (calStill_setScn _ s) (calStill_setScn _ s)))

theorem calStill_commitEffect (d rate : Nat) (s : State) : CalStill s (commitEffect d rate s) := by
  have timing : CalStill s (if timingApplied s then timingApply s else s) := calStill_ite (calStill_timingApply s) (CalStill.refl s)
  have scan := calStill_ite (p := scnEnabled (if timingApplied s then timingApply s else s) = true) (timing.trans (calStill_startScan _)) timing
  exact calStill_ite (calStill_setSynth 0 _ s) (calStill_ite (calStill_brzLeaveCal s) (calStill_ite (calStill_trainStore rate s)
    (calStill_ite (calStill_ite (scan.trans (calStill_auxGo _)) scan) (CalStill.refl s))))

/-! ## Domains -/

theorem failDomain_cal (d cause disagree implausible : Nat) (s : State) :
    (failDomain d cause disagree implausible s).cal = { s.cal with causes := s.cal.causes ++ [(d, cause)] } := raise_cal _ _ _

theorem failDomain_clk (d cause disagree implausible : Nat) (s : State) : (failDomain d cause disagree implausible s).clk = s.clk := raise_clk _ _ _

/-- The end of the sequence: the sequence is complete at the tick, and commits and trims stand. -/
theorem calibrationEnds_cal (s : State) : (calibrationEnds s).cal.next = s.cal.next ∧ (calibrationEnds s).cal.committed = s.cal.committed ∧
    (calibrationEnds s).cal.complete = true ∧ (calibrationEnds s).cal.endTick = s.clk.tick ∧ (calibrationEnds s).cal.trims = s.cal.trims := by
  unfold calibrationEnds writeRecord
  extract_lets
  split
  · exact ⟨rfl, rfl, rfl, rfl, rfl⟩
  · rw [raise_cal]
    exact ⟨rfl, rfl, rfl, rfl, rfl⟩

/-- A domain has been judged: it has committed, and its trims are the new ones or those it had. -/
structure Judged (s : State) (d : Nat) (t : State) : Prop where
  next : t.cal.next = s.cal.next + 1
  committed : t.cal.committed = s.cal.committed ||| 2 ^ d
  complete : t.cal.complete = s.cal.complete
  trims : t.cal.trims = s.cal.trims ∨ ∃ l, t.cal.trims = s.cal.trims.set d l
  tick : t.clk.tick = s.clk.tick

/-- Whether its runs agree or not, a domain that has committed is judged. -/
theorem judged_outcome {s w : State} {d : Nat} (next : w.cal.next = s.cal.next + 1) (committed : w.cal.committed = s.cal.committed ||| 2 ^ d)
    (complete : w.cal.complete = s.cal.complete) (trims : w.cal.trims = s.cal.trims) (tick : w.clk.tick = s.clk.tick) {p : Prop} [Decidable p]
    (new : List (BitVec 8)) (word cause disagree implausible : Nat) :
    Judged s d (if p then { w with cal := { w.cal with trims := w.cal.trims.set d new, word := word } } else failDomain d cause disagree implausible w) := by
  split
  · exact ⟨next, committed, complete, .inr ⟨new, congrArg (List.set · d new) trims⟩, tick⟩
  · have cal := failDomain_cal d cause disagree implausible w
    refine ⟨(congrArg Calibration.next cal).trans next, (congrArg Calibration.committed cal).trans committed,
      (congrArg Calibration.complete cal).trans complete, .inl ((congrArg Calibration.trims cal).trans trims), ?_⟩
    rw [failDomain_clk, tick]

theorem doCalDomain_judged {s : State} {d : Nat} {rest : List Nat} (booting : s.boot.phase = .firmware) (running : s.cal.complete = false)
    (order : calOrder.drop s.cal.next = d :: rest) (run1 run2 : List (Option (BitVec 8))) (rate : Nat) :
    ∃ u, Judged s d u ∧ doCalDomain run1 run2 rate s = if rest = [] then calibrationEnds u else u := by
  have acts : ¬ (s.boot.phase ≠ .firmware ∨ s.cal.complete = true) := not_or.2 ⟨not_not_intro booting, ne_true_of_eq_false running⟩
  unfold doCalDomain
  rw [order]
  dsimp only
  rw [if_neg acts]
  refine ⟨_, ?_, rfl⟩
  generalize hw : commitEffect d _ _ = w
  obtain ⟨cal, tick⟩ : CalStill _ w := hw ▸ calStill_commitEffect d _ _
  apply judged_outcome
  · exact (congrArg Calibration.next cal).trans rfl
  · exact (congrArg Calibration.committed cal).trans rfl
  · exact (congrArg Calibration.complete cal).trans rfl
  · exact (congrArg Calibration.trims cal).trans rfl
  · exact tick.trans rfl

/-- Every domain fails with cause 3 where the crystal does not start. -/
theorem doCrystalTimeout_of_booting {s : State} (booting : s.boot.phase = .firmware) (first : s.cal.next = 0) (running : s.cal.complete = false) :
    ∃ u : State, doCrystalTimeout s = { u with cal := { u.cal with next := 8, complete := true, word := 0, endTick := u.clk.tick } } ∧
      u.clk = { s.clk with limp := true, refInUse := 5 } ∧
      u.cal = { s.cal with causes := s.cal.causes ++ [(0, 3), (1, 3), (6, 3), (2, 3), (5, 3), (3, 3), (4, 3), (7, 3)] } := by
  have acts : ¬ (s.boot.phase ≠ .firmware ∨ s.cal.next ≠ 0 ∨ s.cal.complete = true) :=
    not_or.2 ⟨not_not_intro booting, not_or.2 ⟨not_not_intro first, ne_true_of_eq_false running⟩⟩
  refine ⟨forL calOrder (fun d s => failDomain d 3 0 0 s) (setClk (fun c => { c with limp := true, refInUse := 5 }) s), if_neg acts, ?_, ?_⟩
  · simp only [calOrder, forL, List.foldl_cons, List.foldl_nil, failDomain_clk]
    rfl
  · simp only [calOrder, forL, List.foldl_cons, List.foldl_nil, failDomain_cal, List.append_assoc, List.cons_append, List.nil_append]
    rfl

/-! ## The image -/

section
variable {s : State} {k : CryptoChecks} {w : Data} {e : List (Fin 20 × Nat × Nat)} (booting : s.boot.phase = .firmware)
  (unchecked : s.boot.sectionsOk = false)
include booting unchecked

theorem checksImage : ¬ (s.boot.phase ≠ .firmware ∨ s.boot.sectionsOk = true) :=
  not_or.2 ⟨not_not_intro booting, ne_true_of_eq_false unchecked⟩

theorem doSectionVerified_of_passed (passed : imageFailure s s.boot.slotB none k = none) :
    doSectionVerified k w e s = (fun u => { u with boot := { u.boot with sectionsOk := true, measurements := measure u, quoteCount := 0 } })
      (loadPatch k w e { s with boot := { s.boot with patchFailStep := none } }) := by
  unfold doSectionVerified
  rw [if_neg (checksImage booting unchecked), passed]

theorem doSectionVerified_of_second {f : Nat} (failed : imageFailure s s.boot.slotB none k = some f) (second : s.boot.fellBack.isSome = true) :
    doSectionVerified k w e s = bootFailed s := by
  unfold doSectionVerified
  rw [if_neg (checksImage booting unchecked), failed]
  exact if_pos (.inl second)

theorem doSectionVerified_of_first {f : Nat} (failed : imageFailure s s.boot.slotB none k = some f) (first : s.boot.fellBack = none)
    (other : imageLayout (imageHead s (!s.boot.slotB)) none = true) :
    doSectionVerified k w e s = (fun u => storeUntrained { u with boot := { u.boot with fellBack := some (b2n s.boot.slotB, f) }, brz := Breeze.reset })
      (runSlot (!s.boot.slotB) { s with clk := { s.clk with limp := false, refInUse := s.clk.cfg.refSel, synths := Clock.reset.synths } }) := by
  have again : ¬ (s.boot.fellBack.isSome = true ∨ ¬ imageLayout (imageHead s (!s.boot.slotB)) none = true) := by
    rw [first, other]
    decide
  unfold doSectionVerified
  rw [if_neg (checksImage booting unchecked), failed]
  exact if_neg again

end

/-! ## Mailbox ready -/

/-- What boot reports leave: events alone. -/
structure Reported (v t : State) : Prop where
  side : Side v t
  state : t.mbx.state = v.mbx.state

theorem reported_raise {v t : State} (h : Reported v t) (ev : Nat) (vals : List Val) : Reported v (raise ev vals t) where
  side := raise_side ev vals t h.side
  state := (congrArg Mailbox.state (raise_mbxRest ev vals t)).trans h.state

theorem reported_ite {v t : State} (h : Reported v t) {p : Prop} [Decidable p] (ev : Nat) (vals : List Val) :
    Reported v (if p then raise ev vals t else t) := by
  split
  · exact reported_raise h ev vals
  · exact h

/-- Boot completes with the firmware up, its reports, and the rollback fuses at the running image. -/
theorem doMailboxReady_of_booted {s : State} (booting : s.boot.phase = .firmware) (checked : s.boot.sectionsOk = true)
    (calibrated : s.cal.complete = true) : ∃ v, Reported (firmwareUp s) v ∧
      doMailboxReady s = blowRollback { v with life := { v.life with lastSample := v.clk.up, lastWrite := v.clk.up, lastDaily := v.clk.up } } := by
  have up : Reported (firmwareUp s) (firmwareUp s) := ⟨Side_refl _, rfl⟩
  refine ⟨_, ?_, if_pos ⟨booting, checked, calibrated⟩⟩
  have opened : ∀ entry slot, Reported (firmwareUp s) (raise 0xD00 slot (raise 0x010 entry (raise 0xC08 [.w s.cal.word] (firmwareUp s)))) :=
    fun _ _ => reported_raise (reported_raise (reported_raise up _ _) _ _) _ _
  refine reported_ite (reported_ite ?_ _ _) _ _
  split
  · refine reported_raise ?_ _ _
    split
    · exact reported_raise (opened _ _) _ _
    · exact opened _ _
  · split
    · exact reported_raise (opened _ _) _ _
    · exact opened _ _

/-- The rollback fuses only rise, and nothing of what boot has set up changes with them. -/
structure RolledBack (v t : State) : Prop where
  rollback : t.boot.fuses.rollback = max v.boot.fuses.rollback v.boot.fwRollback
  phase : t.boot.phase = v.boot.phase
  state : t.mbx.state = v.mbx.state
  fw : t.fw = v.fw
  life : t.life = v.life
  clk : t.clk = v.clk
  tasks : t.tasks = v.tasks

theorem rolledBack_blowRollback (v : State) : RolledBack v (blowRollback v) := by
  unfold blowRollback
  split
  · rename_i least
    exact ⟨(Nat.max_eq_left least).symm, rfl, rfl, rfl, rfl, rfl, rfl⟩
  · rename_i less
    have raised := reported_raise (v := setBoot (fun b => { b with fuses := { b.fuses with rollback := b.fwRollback } }) v)
      ⟨Side_refl _, rfl⟩ 0xD03 [.h v.boot.fwRollback]
    have boot := Side_boot raised.side
    have fw := Side_fw raised.side
    have life := Side_life raised.side
    have clk := Side_clk raised.side
    have tasks := Side_tasks raised.side
    refine ⟨?_, (congrArg Boot.phase boot).trans rfl, raised.state.trans rfl, fw.trans rfl, life.trans rfl, clk.trans rfl, tasks.trans rfl⟩
    exact (congrArg (fun b : Boot => b.fuses.rollback) boot).trans (Nat.max_eq_right (le_of_not_ge less)).symm

/-! ## The obligation -/

/-- Settles O18, with a clause for each row and case. -/
theorem bootSequenceReachesReady : Obligations.BootSequenceReachesReady := by
  refine ⟨?_, ?_, ?_, ?_, ?_, ?_, ?_, ?_, ?_, ?_⟩
  · intro s booting first running
    obtain ⟨u, done, clk, cal⟩ := doCrystalTimeout_of_booting booting first running
    refine ⟨_, congrArg Host.Outcome.next done, (congrArg Clock.limp clk).trans rfl, (congrArg Clock.refInUse clk).trans rfl, rfl, rfl, rfl, (congrArg Clock.tick clk).trans rfl,
      (congrArg Calibration.causes cal).trans rfl, (congrArg Calibration.trims cal).trans rfl⟩
  · intro s a b rate d rest booting running order
    obtain ⟨u, judged, done⟩ := doCalDomain_judged booting running order a b rate
    obtain ⟨next, committed, complete, endTick, trims⟩ := calibrationEnds_cal u
    by_cases last : rest = []
    · rw [if_pos last] at done
      refine ⟨_, congrArg Host.Outcome.next done, next.trans judged.next, committed.trans judged.committed, ?_, fun _ => endTick.trans judged.tick, ?_⟩
      · rw [complete, decide_eq_true last]
      · rw [trims]
        exact judged.trims
    · rw [if_neg last] at done
      refine ⟨_, congrArg Host.Outcome.next done, judged.next, judged.committed, ?_, fun ends => absurd ends last, judged.trims⟩
      rw [judged.complete, running, decide_eq_false last]
  · intro s k w e booting unchecked passed
    exact ⟨_, congrArg Host.Outcome.next (doSectionVerified_of_passed booting unchecked passed), _, rfl, rfl⟩
  · intro s k w e f booting unchecked failed second
    have again : s.boot.fellBack.isSome = true := by
      rw [second]
      rfl
    exact ⟨_, congrArg Host.Outcome.next (doSectionVerified_of_second booting unchecked failed again), rfl, rfl, rfl⟩
  · intro s k w e f booting unchecked failed first other
    exact ⟨_, congrArg Host.Outcome.next (doSectionVerified_of_first booting unchecked failed first other), rfl, rfl, rfl, rfl, rfl, rfl, rfl, rfl, rfl⟩
  · intro s booting checked calibrated notLimp store
    obtain ⟨v, reported, done⟩ := doMailboxReady_of_booted booting checked calibrated
    have r := rolledBack_blowRollback { v with life := { v.life with lastSample := v.clk.up, lastWrite := v.clk.up, lastDaily := v.clk.up } }
    have clk : v.clk = s.clk := (Side_clk reported.side).trans rfl
    have boot : v.boot = (firmwareUp s).boot := Side_boot reported.side
    have fw : v.fw = (firmwareUp s).fw := Side_fw reported.side
    have opens : openState s = .ready := if_neg (not_or.2 ⟨ne_true_of_eq_false notLimp, by rw [store]; decide⟩)
    refine ⟨_, congrArg Host.Outcome.next done, ?_, ?_, ?_, ?_, ?_, ?_, ?_, ?_⟩
    · exact r.phase.trans ((congrArg Boot.phase boot).trans rfl)
    · exact r.state.trans (reported.state.trans opens)
    · exact (congrArg Firmware.runs r.fw).trans ((congrArg Firmware.runs fw).trans rfl)
    · exact (congrArg Firmware.lastService r.fw).trans ((congrArg Firmware.lastService fw).trans rfl)
    · exact (congrArg Life.lastSample r.life).trans ((congrArg Clock.up clk).trans rfl)
    · exact r.rollback.trans ((congrArg (fun b : Boot => max b.fuses.rollback b.fwRollback) boot).trans rfl)
    · exact (congrArg Clock.up r.clk).trans ((congrArg Clock.up clk).trans rfl)
    · exact r.tasks.trans ((Side_tasks reported.side).trans rfl)
  · intro s running booting link
    have notBooting : ¬ (s.boot.phase = .firmware ∧ s.boot.sectionsOk = true ∧ s.cal.complete = true) := by
      rw [running]
      exact fun boots => absurd boots.1 (by decide)
    exact congrArg Host.Outcome.next ((if_neg notBooting).trans (if_pos ⟨running, booting, link⟩))
  · intro s w cool
    obtain ⟨k, waited, -, -⟩ := waitUp_eq (s.boot.regulator.lastPoll + 1280000000) s
    have polled : doRegulatorPoll (some w) s = (fun u => if w = 0 then u else raise 0x041 [.h w.toNat] u)
        (setBoot (fun b => { b with regulator := { b.regulator with lastPoll := (waitUp (s.boot.regulator.lastPoll + 1280000000) s).clk.up } })
          (waitUp (s.boot.regulator.lastPoll + 1280000000) s)) := if_neg (ne_true_of_eq_false cool)
    rw [waited] at polled
    refine ⟨_, congrArg Host.Outcome.next polled, _, rfl, ?_, rfl, rfl⟩
    rw [waited]
    rfl
  · intro s cool notRunning
    exact congrArg Host.Outcome.next ((if_neg (ne_true_of_eq_false cool)).trans (if_neg notRunning))
  · intro s running
    exact congrArg Host.Outcome.next ((ite_congr rfl (fun _ => rfl) fun _ => if_pos running).trans (ite_self s))

end Sys2Proof.BootSequence
end

section
/-! Store regions: allocation, freeing and the map (R86 to R88, R110). -/

namespace Sys2Proof.StoreRegions

open Sys2Proof Sys2Proof.Machine Sys2Proof.Claims Sys2Proof.Laws Sys2Proof.Rows Sys2Proof.QueueEntries

/-- Settles O19, with a clause for each row and case. -/
theorem storeCommandsManageRegions : Obligations.StoreCommandsManageRegions := by
  refine ⟨?_, ?_, ?_, ?_, ?_⟩
  · intro s id c base runs passes fits
    have fitting : need (s.store.fit (c.p64 0x10)).isSome stNoResource 0 = none := by
      rw [fits]
      rfl
    refine next_runCmd runs ?_
    unfold doStoreRegionAlloc
    refine checked_eq (passes_snoc passes fitting) ?_
    rw [fits]
    rfl
  · intro s id c runs passes none_fits
    have full : need (s.store.fit (c.p64 0x10)).isSome stNoResource 0 = some (stNoResource, 0) := by
      rw [none_fits]
      rfl
    refine next_runCmd runs ?_
    unfold doStoreRegionAlloc
    extract_lets type size
    rw [show need (s.store.fit size).isSome stNoResource 0 = _ from full]
    exact checked_of_firstFail (after := []) passes c (stNoResource, 0) _ s
  · intro s id c r runs passes found unused
    refine next_runCmd runs ?_
    unfold doStoreRegionFree
    extract_lets type
    rw [show s.store.region type = some r from found]
    have free : needState (!regionUsed s r) = none := by
      rw [unused]
      rfl
    exact checked_eq (passes_snoc passes free) rfl
  · intro s id c runs passes unknown
    refine next_runCmd runs ?_
    unfold doStoreRegionFree
    extract_lets type
    rw [show s.store.region type = none from unknown]
    exact checked_of_firstFail (after := []) passes c (stState, 0) _ s
  · intro s id c runs passes
    exact next_runCmd runs (checked_eq passes rfl)

end Sys2Proof.StoreRegions
end

section
/-! The store's background work: refresh, row disturbance, corrections, scrub, retraining, self-refresh and firmware copies (R75, R79,
R82, R95 to R107, R561). -/

namespace Sys2Proof.StoreUpkeep

open Sys2Proof Sys2Proof.Machine Sys2Proof.Claims Sys2Proof.Laws Sys2Proof.Rows

/-! ## Counts under several keys -/

theorem wf_put {m : Counts} (wf : spWf 0 m = true) (k x : Nat) : spWf 0 (m.put k x) = true := spPut_wf k x wf
theorem at_put_self {m : Counts} (wf : spWf 0 m = true) (k x : Nat) : (m.put k x).at_ k = x := spGet_spPut_self k x wf
theorem at_put_of_ne (m : Counts) {j k : Nat} (other : j ≠ k) (x : Nat) : (m.put k x).at_ j = m.at_ j := spGet_spPut_other k j x other

/-- Additions to a counter map, one after another. -/
def addCounts (key : Fin 12 → Nat) (acts : List (Fin 12 × Nat)) (m : Counts) : Counts :=
  acts.foldl (fun c x => c.put (key x.1) (c.at_ (key x.1) + x.2)) m

section
variable {key : Fin 12 → Nat} (apart : Function.Injective key)
include apart

/-- A counter holds what it held and the sum of its own additions. -/
theorem at_addCounts (acts : List (Fin 12 × Nat)) {m : Counts} (wf : spWf 0 m = true) (r : Fin 12) :
    (addCounts key acts m).at_ (key r) = m.at_ (key r) + ((acts.filter (fun x => decide (x.1 = r))).map (·.2)).sum := by
  induction acts generalizing m with
  | nil => rfl
  | cons x acts ih =>
    refine (ih (wf_put wf (key x.1) (m.at_ (key x.1) + x.2))).trans ?_
    by_cases own : x.1 = r
    · subst own
      rw [at_put_self wf, List.filter_cons_of_pos (by simp), List.map_cons, List.sum_cons, Nat.add_assoc]
    · rw [at_put_of_ne m fun same => own (apart same).symm, List.filter_cons_of_neg (by simpa using own)]

omit apart in
theorem wf_addCounts (acts : List (Fin 12 × Nat)) {m : Counts} (wf : spWf 0 m = true) : spWf 0 (addCounts key acts m) = true := by
  induction acts generalizing m with
  | nil => exact wf
  | cons x acts ih => exact ih (wf_put wf _ _)

end

/-- Clearing counters one after another leaves each of them 0. -/
theorem at_foldl_put_zero (key : Nat → Nat) (l : List Nat) {m : Counts} (wf : spWf 0 m = true) {r : Nat}
    (cleared : r ∈ l ∨ m.at_ (key r) = 0) : (l.foldl (fun c k => c.put (key k) 0) m).at_ (key r) = 0 := by
  induction l generalizing m with
  | nil => exact cleared.resolve_left List.not_mem_nil
  | cons k l ih =>
    refine ih (wf_put wf (key k) 0) ?_
    by_cases same : key r = key k
    · rw [same]
      exact .inr (at_put_self wf _ _)
    · refine (cleared.imp (fun mem => (List.mem_cons.1 mem).resolve_left fun h => same (congrArg key h)) fun zero => ?_)
      exact (at_put_of_ne m same 0).trans zero

/-! ## Row groups -/

theorem rowKey_injective (ch bank group : Nat) : Function.Injective fun r : Fin 12 => rowKey ch bank group r.val := by
  intro a b same
  have := a.isLt
  have := b.isLt
  dsimp only [rowKey] at same
  exact Fin.ext (by omega)

/-- Pacing throttled requesters lets time pass and notes where they are paced to. -/
theorem store_paceActivations (acts : List (Fin 12 × Nat)) (s : State) :
    ∃ l, (paceActivations acts s).store = { s.store with throttles := l } := by
  induction acts generalizing s with
  | nil => exact ⟨_, rfl⟩
  | cons x acts ih =>
    have step : ∀ u : State, (∃ l, u.store = { s.store with throttles := l }) →
        ∃ l, (paceActivations acts u).store = { s.store with throttles := l } := by
      rintro u ⟨l, store⟩
      obtain ⟨l', rest⟩ := ih u
      exact ⟨l', by rw [rest, store]⟩
    refine step _ ?_
    dsimp only
    split
    · exact ⟨_, rfl⟩
    · exact ⟨_, rfl⟩

theorem rowCounts_paceActivations (acts : List (Fin 12 × Nat)) (s : State) : (paceActivations acts s).store.rowCounts = s.store.rowCounts := by
  obtain ⟨l, store⟩ := store_paceActivations acts s
  rw [store]

theorem cfg_paceActivations (acts : List (Fin 12 × Nat)) (s : State) : (paceActivations acts s).store.cfg = s.store.cfg := by
  obtain ⟨l, store⟩ := store_paceActivations acts s
  rw [store]

/-- Once the first of the largest counts has been taken, nothing later displaces it. -/
theorem foldl_top_of_le {l : List (Nat × Nat)} {b : Nat × Nat} (least : ∀ x ∈ l, x.2 ≤ b.2) :
    l.foldl (fun b x => if b.2 < x.2 then x else b) b = b := by
  induction l with
  | nil => rfl
  | cons x l ih =>
    rw [List.foldl_cons, if_neg (not_lt.2 (least x List.mem_cons_self))]
    exact ih fun y mem => least y (List.mem_cons_of_mem x mem)

/-- While every count is below a bound, so is the count taken. -/
theorem foldl_top_lt {n : Nat} {l : List (Nat × Nat)} {b : Nat × Nat} (below : ∀ x ∈ l, x.2 < n) (start : b.2 < n) :
    (l.foldl (fun b x => if b.2 < x.2 then x else b) b).2 < n := by
  induction l generalizing b with
  | nil => exact start
  | cons x l ih =>
    refine ih (fun y mem => below y (List.mem_cons_of_mem x mem)) ?_
    dsimp only
    split
    · exact below x List.mem_cons_self
    · exact start

/-- The requester with the most activations, of several the lowest, is the one that the throttle falls on. -/
theorem topRequester_eq (f : Fin 12 → Nat) (rq : Fin 12) (most : ∀ r, f r ≤ f rq ∧ (r < rq → f r < f rq)) :
    topRequester ((List.finRange 12).map fun r => (r.val, f r)) = rq.val := by
  unfold topRequester
  obtain ⟨before, after, split⟩ := List.append_of_mem (List.mem_finRange rq)
  have sorted : (before ++ rq :: after).Pairwise (· < ·) := split ▸ List.pairwise_lt_finRange 12
  have early : ∀ x ∈ before.map fun r => (r.val, f r), x.2 < f rq := by
    intro x mem
    obtain ⟨r, inBefore, rfl⟩ := List.mem_map.1 mem
    exact (most r).2 ((List.pairwise_append.1 sorted).2.2 r inBefore rq List.mem_cons_self)
  have late : ∀ x ∈ after.map fun r => (r.val, f r), x.2 ≤ f rq := by
    intro x mem
    obtain ⟨r, -, rfl⟩ := List.mem_map.1 mem
    exact (most r).1
  rw [split, List.map_append, List.foldl_append, List.map_cons, List.foldl_cons]
  by_cases none : f rq = 0
  · have first : rq.val = 0 := by
      by_contra later
      have := (most 0).2 (Fin.lt_def.2 (Nat.pos_of_ne_zero later))
      omega
    have empty : before = [] := by
      by_contra some
      obtain ⟨r, mem⟩ := List.exists_mem_of_ne_nil before some
      have := early _ (List.mem_map_of_mem mem)
      omega
    rw [empty, List.map_nil, List.foldl_nil, if_neg (by rw [none]; exact lt_irrefl 0),
      foldl_top_of_le fun x mem => (late x mem).trans_eq none, first]
  · rw [if_pos (foldl_top_lt early (Nat.pos_of_ne_zero none)), foldl_top_of_le late]

theorem range_twelve : List.range 12 = (List.finRange 12).map Fin.val := by decide

section
variable {s : State} {ch bank : Fin 16} {group : Nat} {acts : List (Fin 12 × Nat)} (wf : spWf 0 s.store.rowCounts = true)
include wf

/-- The counts of a row group after its activations. -/
theorem groupCounts_addCounts (st : Store) (counts : st.rowCounts = addCounts (fun r => rowKey ch.val bank.val group r.val) acts s.store.rowCounts) :
    groupCounts st ch.val bank.val group = (List.finRange 12).map fun r => (r.val, activationsOf s ch bank group acts r) := by
  unfold groupCounts
  rw [range_twelve, List.map_map]
  refine List.map_congr_left fun r _ => Prod.ext rfl ?_
  rw [Function.comp_apply, counts]
  exact at_addCounts (rowKey_injective ch.val bank.val group) acts wf r

end

/-- A state with other counts. -/
def withCounts (c : Counts) (w : State) : State := { w with store := { w.store with rowCounts := c } }

/-- The counts of a group with its activations. -/
def counted (ch bank : Fin 16) (group : Nat) (acts : List (Fin 12 × Nat)) (w : State) : State :=
  withCounts (addCounts (fun r => rowKey ch.val bank.val group r.val) acts w.store.rowCounts) w

/-- The counts of a group cleared. -/
def clearCounts (ch bank : Fin 16) (group : Nat) (c : Counts) : Counts :=
  (List.range 12).foldl (fun c r => c.put (rowKey ch.val bank.val group r) 0) c

theorem at_clearCounts {c : Counts} (wf : spWf 0 c = true) (ch bank : Fin 16) (group : Nat) (r : Fin 12) :
    (clearCounts ch bank group c).at_ (rowKey ch.val bank.val group r.val) = 0 :=
  at_foldl_put_zero (rowKey ch.val bank.val group) _ wf (.inl (List.mem_range.2 r.isLt))

theorem throttleFor_withCounts (ch bank group rq : Nat) (c : Counts) (w : State) :
    throttleFor ch bank group rq (withCounts c w) = raise 0x305 [.h ch, .h bank, .h group, .h rq]
      { w with store := { w.store with
        rowCounts := c, throttleCount := satN 32 (w.store.throttleCount + 1),
        throttles := w.store.throttles.filter (·.requester ≠ rq) ++ [⟨rq, w.clk.up + w.store.cfg.throttleMs * 1280000, w.clk.up⟩] } } := rfl

section
variable {s : State} {ch bank : Fin 16} {group : Nat} {acts : List (Fin 12 × Nat)} (ready : s.store.state = .ready)
  (known : group < rowGroups s.store.clamshell) (wf : spWf 0 s.store.rowCounts = true)
include wf

theorem groupCounts_counted : groupCounts (counted ch bank group acts (paceActivations acts s)).store ch.val bank.val group =
    (List.finRange 12).map fun r => (r.val, activationsOf s ch bank group acts r) := by
  refine groupCounts_addCounts wf _ ?_
  dsimp only [counted, withCounts]
  rw [rowCounts_paceActivations]

theorem wf_counted : spWf 0 (counted ch bank group acts (paceActivations acts s)).store.rowCounts = true := by
  dsimp only [counted, withCounts]
  rw [rowCounts_paceActivations]
  exact wf_addCounts acts wf

theorem at_counted (r : Fin 12) : (counted ch bank group acts (paceActivations acts s)).store.rowCounts.at_ (rowKey ch.val bank.val group r.val) =
    activationsOf s ch bank group acts r := by
  dsimp only [counted, withCounts]
  rw [rowCounts_paceActivations]
  exact at_addCounts (rowKey_injective ch.val bank.val group) acts wf r

include ready known

theorem doRowThreshold_counted : doRowThreshold ch bank group acts s =
    if ((List.finRange 12).map (activationsOf s ch bank group acts)).sum < s.store.cfg.rdThreshold then counted ch bank group acts (paceActivations acts s)
    else throttleFor ch.val bank.val group (topRequester ((List.finRange 12).map fun r => (r.val, activationsOf s ch bank group acts r)))
      (withCounts (clearCounts ch bank group (counted ch bank group acts (paceActivations acts s)).store.rowCounts) (paceActivations acts s)) := by
  have counts := groupCounts_counted (ch := ch) (bank := bank) (group := group) (acts := acts) wf
  have threshold : (counted ch bank group acts (paceActivations acts s)).store.cfg.rdThreshold = s.store.cfg.rdThreshold :=
    congrArg StoreCfg.rdThreshold (cfg_paceActivations acts s)
  refine (if_neg (not_or.2 ⟨not_not_intro ready, not_le.2 known⟩)).trans ?_
  refine ite_congr (propext ?_) (fun _ => rfl) fun _ => ?_
  · refine (congrArg (fun l => (l.map Prod.snd).sum < _) counts).to_iff.trans ?_
    rw [List.map_map]
    exact (congrArg (_ < ·) threshold).to_iff
  · exact congrArg (fun l => throttleFor ch.val bank.val group (topRequester l) _) counts

end

theorem doRowWindow_eq (s : State) : doRowWindow s = withCounts [] (waitUp (ceilDiv s.clk.up 40960000 * 40960000) s) := by
  have window : 32 * msTicks = 40960000 := rfl
  unfold doRowWindow
  rw [window]
  rfl

/-! ## Poison, scrub, self-refresh -/

theorem sectorsOf_sector (a : Nat) : sectorsOf (a / 32 * 32) 32 = [a / 32] := by
  have first : sectorOf (a / 32 * 32) = a / 32 := Nat.mul_div_cancel _ (by decide)
  have last : sectorOf (a / 32 * 32 + 32 - 1) = a / 32 := by
    unfold sectorOf
    omega
  unfold sectorsOf
  rw [if_neg (by decide), first, last, Nat.add_sub_cancel_left]
  simp

theorem poisonSector_of_not_history {s : State} {a : Nat} (outside : s.store.within rtHistory a 32 = false) (rq : Nat) :
    poisonSector a rq s = poisonSpan a 32 rq s := by
  unfold poisonSector
  rw [if_neg (ne_true_of_eq_false outside)]

/-- A sector that a failed read poisons is poisoned, and its bytes stay. -/
theorem store_poisonSpan {s : State} (ecc : s.store.cfg.ecc = true) (a rq : Nat) :
    (poisonSpan (a / 32 * 32) 32 rq s).store.poison.contains (a / 32) = true ∧ (poisonSpan (a / 32 * 32) 32 rq s).store.mem = s.store.mem := by
  unfold poisonSpan
  rw [if_neg (not_not_intro ecc), sectorsOf_sector]
  dsimp only [forL, List.foldl_cons, List.foldl_nil]
  rw [raise_store]
  refine ⟨?_, rfl⟩
  refine (List.contains_iff_mem).2 (List.mem_append.2 ?_)
  by_cases already : s.store.poison.contains (a / 32) = true
  · exact .inl (List.contains_iff_mem.1 already)
  · exact .inr (List.mem_filter.2 ⟨List.mem_singleton_self _, by rw [Bool.not_eq_true] at already; rw [already]; rfl⟩)

section
variable {v : State} {a : Nat} {rq : Fin 12} {first second : SectorRead} (serves : storeServes v = true) (ecc : v.store.cfg.ecc = true)
  (fitted : a / 32 * 32 < usable v.store)
include serves ecc fitted

theorem doUncorrectableRead_of_poisoned (poisoned : readPoisoned v (a / 32 * 32) 32 = true) :
    doUncorrectableRead a rq first second v = reportUncorrectable (a / 32 * 32) rq.val v :=
  (if_neg (not_or.2 ⟨not_not_intro serves, not_or.2 ⟨not_not_intro ecc, not_le.2 fitted⟩⟩)).trans (if_pos poisoned)

theorem doUncorrectableRead_of_clean (clean : readPoisoned v (a / 32 * 32) 32 = false) : doUncorrectableRead a rq first second v =
    match eccDecode first.flips first.mismatch with
    | .clean => v
    | .corrected => noteCorrections 1 v
    | .uncorrectable => if eccDecode second.flips second.mismatch = .uncorrectable then poisonSector (a / 32 * 32) rq.val v else noteCorrections 1 v :=
  (if_neg (not_or.2 ⟨not_not_intro serves, not_or.2 ⟨not_not_intro ecc, not_le.2 fitted⟩⟩)).trans
    ((if_neg (ne_true_of_eq_false clean)).trans (by cases eccDecode first.flips first.mismatch <;> rfl))

end

theorem ready_of_storeIdle {s : State} (idle : storeIdle s = true) : s.store.state = .ready := by
  simp only [storeIdle, Bool.and_eq_true, decide_eq_true_eq] at idle
  exact idle.1.1.1

/-- The store in self-refresh: what it enters with, and the memory synthesizer off. -/
structure Resting (s t : State) (entry : Nat) : Prop where
  state : t.store.state = .selfRefresh
  synth : t.clk.synths[1].state = .off
  entries : t.store.srEntries = satN 32 (s.store.srEntries + 1)
  since : t.store.srSince = entry
  mem : t.store.mem = s.store.mem
  up : t.clk.up = entry

theorem doSelfRefreshIdle_of_idle {s : State} (idle : storeIdle s = true)
    (stays : storeIdle (waitUp (s.store.idleSince.getD s.clk.up + s.store.cfg.idleDelay * 1280) s) = true) :
    Resting s (doSelfRefreshIdle s) (max s.clk.up (s.store.idleSince.getD s.clk.up + s.store.cfg.idleDelay * 1280)) := by
  have us : s.store.cfg.idleDelay * usTicks = s.store.cfg.idleDelay * 1280 := rfl
  unfold doSelfRefreshIdle
  rw [if_neg (not_not_intro idle), us]
  generalize s.store.idleSince.getD s.clk.up + s.store.cfg.idleDelay * 1280 = due at *
  dsimp only
  rw [if_neg (not_not_intro stays)]
  obtain ⟨k, waited, -, up⟩ := waitUp_eq due s
  rw [waited]
  refine ⟨?_, ?_, ?_, ?_, ?_, ?_⟩
  · rw [raise_store]
    rfl
  · rw [raise_clk]
    exact congrArg Synth.state (ClockDomains.setSynth_self 1 _ _)
  · rw [raise_store]
    rfl
  · rw [raise_store]
    exact up
  · rw [raise_store]
    rfl
  · rw [raise_clk]
    exact up

theorem doSelfRefreshExit_of_exiting {s : State} (resting : s.store.state = .selfRefresh) (exiting : s.store.srExiting = true) :
    doSelfRefreshExit s = leaveSelfRefresh s := if_pos ⟨resting, exiting⟩

/-! ## The obligation -/

/-- Settles O20, with a clause for each row and case. -/
theorem storeStaysSoundAndRetrains : Obligations.StoreStaysSoundAndRetrains := by
  refine ⟨?_, ?_, ?_, ?_, ?_, ?_, ?_, ?_, ?_, ?_, ?_, ?_, ?_, ?_, ?_, ?_, ?_, ?_, ?_, ?_, ?_, ?_, ?_⟩
  · rintro s ch bank hot due awake rfl
    exact congrArg Host.Outcome.next (if_neg (not_not_intro awake))
  · rintro s ch bank hot due awake rfl few
    exact congrArg Host.Outcome.next ((if_neg (not_not_intro awake)).trans (if_pos few))
  · rintro s ch bank hot due awake rfl many
    exact congrArg Host.Outcome.next ((if_neg (not_not_intro awake)).trans (if_neg (not_lt.2 many)))
  · rintro s ch bank group acts w ready known wf rfl few
    exact ⟨_, congrArg Host.Outcome.next ((doRowThreshold_counted ready known wf).trans (if_pos few)), rfl, at_counted wf⟩
  · rintro s ch bank group acts w rq ready known wf rfl many most
    have throttles := (doRowThreshold_counted ready known wf).trans (if_neg (not_lt.2 many))
    rw [topRequester_eq _ rq most, throttleFor_withCounts, cfg_paceActivations] at throttles
    have zero := at_clearCounts (wf_counted (ch := ch) (bank := bank) (group := group) (acts := acts) wf) ch bank group
    generalize clearCounts ch bank group _ = counts at throttles zero
    exact ⟨_, congrArg Host.Outcome.next throttles, _, rfl, rfl, zero⟩
  · intro s
    refine congrArg Host.Outcome.next ((doRowWindow_eq s).trans ?_)
    obtain ⟨k, waited, -, -⟩ := waitUp_eq (ceilDiv s.clk.up 40960000 * 40960000) s
    rw [waited]
    rfl
  · intro s rq x found
    refine congrArg Host.Outcome.next ?_
    unfold doThrottleEnd
    rw [found]
    rfl
  · intro s ch ok ready
    refine congrArg Host.Outcome.next ((if_neg (not_not_intro ready)).trans ?_)
    rfl
  · rintro s a rq first second v rfl serves ecc fitted clean decoded
    refine congrArg Host.Outcome.next ((doUncorrectableRead_of_clean serves ecc fitted clean).trans ?_)
    rw [decoded]
  · rintro s a rq first second v rfl serves ecc fitted clean decoded
    refine congrArg Host.Outcome.next ((doUncorrectableRead_of_clean serves ecc fitted clean).trans ?_)
    rw [decoded]
  · rintro s a rq first second v rfl serves ecc fitted clean decoded again
    refine congrArg Host.Outcome.next ((doUncorrectableRead_of_clean serves ecc fitted clean).trans ?_)
    rw [decoded]
    exact if_neg again
  · rintro s a rq first second v rfl serves ecc fitted clean decoded again outside
    obtain ⟨poisoned, mem⟩ := store_poisonSpan ecc a rq.val
    refine ⟨_, congrArg Host.Outcome.next ((doUncorrectableRead_of_clean serves ecc fitted clean).trans ?_), rfl, poisoned, mem⟩
    rw [decoded]
    exact (if_pos again).trans (poisonSector_of_not_history outside rq.val)
  · rintro s a rq first second v rfl serves ecc fitted poisoned
    exact congrArg Host.Outcome.next (doUncorrectableRead_of_poisoned serves ecc fitted poisoned)
  · intro s n k ready ecc
    have scrubs : ¬ (s.store.state ≠ .ready ∨ ¬ s.store.cfg.ecc = true) := not_or.2 ⟨not_not_intro ready, not_not_intro ecc⟩
    exact ⟨_, congrArg Host.Outcome.next (if_neg scrubs), _, rfl, rfl, rfl⟩
  · intro s ch ready holds idle owed
    refine congrArg Host.Outcome.next ?_
    unfold doRetrainStart
    have awake : ¬ (holdsPower s (.retrain ch.val) = true ∧ s.store.state = .selfRefresh) := fun h => by
      rw [ready] at h
      exact absurd h.2 (by decide)
    rw [if_neg awake]
    refine (if_neg (not_not_intro ready)).trans ((if_neg (not_not_intro holds)).trans (if_neg (not_or.2 ⟨?_, ?_⟩)))
    · rw [idle]
      decide
    · rw [Bool.not_eq_true, List.any_eq_false]
      intro b mem
      have := List.all_eq_true.1 owed b mem
      simpa using this
  · intro s ch ready lacks
    refine congrArg Host.Outcome.next ?_
    unfold doRetrainStart
    have awake : ¬ (holdsPower s (.retrain ch.val) = true ∧ s.store.state = .selfRefresh) := fun h => ne_true_of_eq_false lacks h.1
    rw [if_neg awake]
    exact (if_neg (not_not_intro ready)).trans (if_pos (ne_true_of_eq_false lacks))
  · intro s ch retraining
    exact congrArg Host.Outcome.next (if_neg (not_not_intro retraining))
  · intro s idle stays
    obtain ⟨state, synth, entries, since, mem, up⟩ := doSelfRefreshIdle_of_idle idle stays
    exact ⟨_, rfl, state, synth, entries, since, mem, up.trans since.symm⟩
  · intro s resting staying
    exact congrArg Host.Outcome.next ((if_pos resting).trans (if_neg (ne_true_of_eq_false staying)))
  · intro s idle
    have awake : ¬ s.store.state = .selfRefresh := by
      rw [ready_of_storeIdle idle]
      decide
    exact congrArg Host.Outcome.next ((if_neg awake).trans (if_pos idle))
  · intro s resting exiting
    exact ⟨_, congrArg Host.Outcome.next (if_pos ⟨resting, exiting⟩), _, rfl, rfl, congrArg Synth.state (ClockDomains.setSynth_self 1 _ _), rfl, rfl, rfl⟩
  · intro s a firmware poisoned
    exact congrArg Host.Outcome.next ((if_neg (not_or.2 ⟨not_not_intro firmware, not_not_intro poisoned⟩)).trans (if_neg Bool.false_ne_true))
  · intro s a firmware poisoned
    exact congrArg Host.Outcome.next ((if_neg (not_or.2 ⟨not_not_intro firmware, not_not_intro poisoned⟩)).trans (if_pos rfl))

end Sys2Proof.StoreUpkeep
end

section
/-! The state after reset holds the values that the specification states (R7, R70, R85, R415, R433, R443, R489, R501). -/

namespace Sys2Proof.ResetState

open Sys2Proof Sys2Proof.Machine Sys2Proof.Safety

theorem canonical_reset : Canonical State.reset where
  regs := rfl
  host := rfl
  store := rfl
  flash := rfl
  tick := Nat.two_pow_pos 64

/-- The mask registers reset to 0 (R433). -/
theorem regReset_mask {n : Nat} (known : n < 128) : regReset (kEvtMask n) = 0 := by
  have bar0 : bar0Key = 0x100000 := rfl
  have offset : kEvtMask n - 0x4000 = 0x200 + n * 4 := by unfold kEvtMask; omega
  have listed : regInfo (kEvtMask n) = some (cfgReg 0 0xFFFFFFFF) := by
    unfold regInfo
    rw [offset]
    unfold kEvtMask regEvt
    rw [if_neg (by omega), if_neg (by omega), if_neg (by omega), if_neg (by omega), if_pos (by omega), if_neg (by omega), if_neg (by omega),
      if_pos (by omega)]
  rw [regReset, listed]
  rfl

theorem eventMasked_reset {ev : Nat} (known : ev < 4096) : eventMasked State.reset ev = false := by
  unfold eventMasked
  rw [show State.reset.reg (kEvtMask (ev / 32)) = 0 from regReset_mask (by omega)]
  exact BitVec.getLsbD_zero

/-- Settles O48. -/
theorem resetStateHoldsStatedValues : Obligations.ResetStateHoldsStatedValues :=
  ⟨canonical_reset, rfl, rfl, rfl, rfl, fun _ => ⟨rfl, rfl, rfl⟩, fun _ known => eventMasked_reset known, fun _ => rfl, rfl, rfl, by decide, by decide, rfl⟩

end Sys2Proof.ResetState
end

section
/-! The Fynal monitor and the boundary-scan port (R193, R549 to R554). -/

namespace Sys2Proof.MonitorLines

open Sys2Proof Sys2Proof.Machine Sys2Proof.Claims Sys2Proof.Laws Sys2Proof.Rows

/-- While the firmware runs every command answers. -/
theorem monitorRow_of_running {s : State} (running : s.boot.phase = .running) (recovery : Bool) (f : State → State) :
    monitorRow recovery f s = f (wakeLull s) := if_pos (.inl running)

/-- The recovery commands answer in a failed boot too (R540). -/
theorem monitorRow_of_up {s : State} (up : s.boot.phase = .running ∨ s.boot.phase = .failed) (f : State → State) :
    monitorRow true f s = f (wakeLull s) := if_pos (up.imp_right fun failed => ⟨rfl, failed⟩)

theorem next_running {s t : State} (running : s.boot.phase = .running) {f : State → State} (does : f (wakeLull s) = t) :
    (Host.Outcome.next (monitorRow false f s) : Host.Outcome State Fault Refusal) = .next t :=
  congrArg Host.Outcome.next ((monitorRow_of_running running false f).trans does)

theorem next_up {s t : State} (up : s.boot.phase = .running ∨ s.boot.phase = .failed) {f : State → State} (does : f (wakeLull s) = t) :
    (Host.Outcome.next (monitorRow true f s) : Host.Outcome State Fault Refusal) = .next t :=
  congrArg Host.Outcome.next ((monitorRow_of_up up f).trans does)

/-! ## peek and poke -/

section
variable {s : State} {space a : Nat}

theorem doFynalPeek_of_bad {n : Nat} (bad : 3 < space ∨ 256 < n ∨ a % 4 ≠ 0 ∨ spaceSize s space < a + 4 * n) : doFynalPeek space a n s = errArg s :=
  if_pos bad

section
variable {n : Nat} (space_le : space ≤ 3) (few : n ≤ 256) (aligned : a % 4 = 0) (fits : a + 4 * n ≤ spaceSize s space)
include space_le few aligned fits

theorem peek_sound : ¬ (3 < space ∨ 256 < n ∨ a % 4 ≠ 0 ∨ spaceSize s space < a + 4 * n) := by
  simp only [not_or, not_lt, ne_eq, not_not]
  exact ⟨space_le, few, aligned, fits⟩

theorem doFynalPeek_of_locked (locked : debugOpen s = false) (inner : 2 ≤ space) : doFynalPeek space a n s = errLifecycle s :=
  (if_neg (peek_sound space_le few aligned fits)).trans (if_pos ⟨ne_true_of_eq_false locked, inner⟩)

theorem doFynalPeek_of_outer (allowed : space ≤ 1 ∨ debugOpen s = true) (other : space ≠ 2) : doFynalPeek space a n s =
    answerOk ((List.range n).map fun k => showNats "peek" [a + 4 * k, peekWord s space (a + 4 * k)]) s := by
  unfold doFynalPeek
  rw [if_neg (peek_sound space_le few aligned fits), if_neg, if_neg other]
  · exact if_neg fun h => other h.1
  · rintro ⟨locked, inner⟩
    exact allowed.elim (fun outer => absurd inner (by omega)) locked

end

section
variable {n : Nat} (unlocked : debugOpen s = true) (few : n ≤ 256) (aligned : a % 4 = 0) (fits : a + 4 * n ≤ spaceSize s 2)
include unlocked few aligned fits

theorem doFynalPeek_store : doFynalPeek 2 a n s =
    if 2 = 2 ∧ (¬ storeServes (storeAwake s) = true ∨ readPoisoned (storeAwake s) a (4 * n) = true) then errFailed 0 (storeAwake s)
    else answerOk ((List.range n).map fun k => showNats "peek" [a + 4 * k, peekWord (storeAwake s) 2 (a + 4 * k)]) (storeAwake s) := by
  unfold doFynalPeek
  rw [if_neg (peek_sound (by decide) few aligned fits), if_neg fun h => h.1 unlocked, if_pos rfl]

end

section
variable {v : U32} (unlocked : debugOpen s = true)
include unlocked

theorem doFynalPoke_of_bad (bad : 3 < space ∨ a % 4 ≠ 0 ∨ spaceSize s space < a + 4) : doFynalPoke space a v s = errArg s :=
  (if_neg (not_not_intro unlocked)).trans (if_pos bad)

variable (space_le : space ≤ 3) (aligned : a % 4 = 0) (fits : a + 4 ≤ spaceSize s space)
include space_le aligned fits

omit unlocked in
theorem poke_sound : ¬ (3 < space ∨ a % 4 ≠ 0 ∨ spaceSize s space < a + 4) := by
  simp only [not_or, not_lt, ne_eq, not_not]
  exact ⟨space_le, aligned, fits⟩

theorem doFynalPoke_of_barred (barred : pokeAllowed s space a = false) : doFynalPoke space a v s = errLifecycle s :=
  (if_neg (not_not_intro unlocked)).trans ((if_neg (poke_sound space_le aligned fits)).trans (if_pos (ne_true_of_eq_false barred)))

variable (allowed : pokeAllowed s space a = true)
include allowed

theorem doFynalPoke_of_outer (other : space ≠ 2) : doFynalPoke space a v s =
    answerOk [] (raise 0xD0A [.h space, .q a] (setFynal (fun y => { y with lastPoke := a }) (pokeWord space a v s))) := by
  unfold doFynalPoke
  rw [if_neg (not_not_intro unlocked), if_neg (poke_sound space_le aligned fits), if_neg (not_not_intro allowed), if_neg other]
  exact if_neg fun h => other h.1

end

theorem doFynalPoke_store {v : U32} (unlocked : debugOpen s = true) (aligned : a % 4 = 0) (fits : a + 4 ≤ spaceSize s 2)
    (allowed : pokeAllowed s 2 a = true) (serves : storeServes (storeAwake s) = true) : doFynalPoke 2 a v s =
      answerOk [] (raise 0xD0A [.h 2, .q a] (setFynal (fun y => { y with lastPoke := a }) (storeWrite a (le 4 v.toNat) (storeAwake s)))) := by
  unfold doFynalPoke
  rw [if_neg (not_not_intro unlocked), if_neg (poke_sound (by decide) aligned fits), if_neg (not_not_intro allowed), if_pos rfl]
  exact if_neg fun h => h.2 serves

end

theorem doFynalBaud_of_known {s : State} {r : Nat} (known : baudRates.contains r = true) :
    doFynalBaud r s = { answerOk [] s with fynal := { (answerOk [] s).fynal with newBaud := some (r, s.clk.up + 12800000) } } := by
  have delay : 10 * msTicks = 12800000 := rfl
  unfold doFynalBaud
  rw [if_neg (not_not_intro known), delay]
  rfl

theorem doBaudSwitch_of_new {s : State} {r d : Nat} (new : s.fynal.newBaud = some (r, d)) :
    doBaudSwitch s = { waitUp d s with fynal := { s.fynal with baud := r, newBaud := none } } := by
  obtain ⟨k, waited, -, -⟩ := waitUp_eq d s
  unfold doBaudSwitch
  rw [new]
  dsimp only
  rw [waited]
  rfl

/-- Settles O45, with a clause for each row and case. -/
theorem theMonitorAnswers : Obligations.TheMonitorAnswers := by
  refine ⟨?_, ?_, ?_, ?_, ?_, ?_, ?_, ?_, ?_, ?_, ?_, ?_, ?_, ?_, ?_, ?_, ?_, ?_, ?_, ?_, ?_, ?_, ?_, ?_, ?_, ?_, ?_, ?_, ?_, ?_⟩
  · rintro s u rfl up
    exact next_up up rfl
  · rintro s u rfl up
    exact next_up up rfl
  · rintro s u n rfl running few
    exact next_running running (if_neg (not_lt.2 few))
  · rintro s u n rfl running many
    exact next_running running (if_pos many)
  · rintro s u rfl running
    exact next_running running rfl
  · rintro s u rfl running
    exact next_running running rfl
  · rintro s u rfl running
    exact next_running running rfl
  · rintro s u rfl running
    exact next_running running rfl
  · rintro s u n rfl running
    exact next_running running rfl
  · rintro s u rfl running
    exact next_running running rfl
  · rintro s u n rfl running locked
    exact next_running running (if_pos (ne_true_of_eq_false locked))
  · rintro s u n rfl running unlocked
    exact next_running running (if_neg (not_not_intro unlocked))
  · rintro s u n a k rfl running locked
    exact next_running running (if_pos (ne_true_of_eq_false locked))
  · rintro s u n a k rfl running unlocked few first last
    exact next_running running ((if_neg (not_not_intro unlocked)).trans (if_neg (by omega)))
  · rintro s u n a k rfl running unlocked bad
    exact next_running running ((if_neg (not_not_intro unlocked)).trans (if_pos bad))
  · rintro s u x a n rfl running bad
    exact next_running running (doFynalPeek_of_bad bad)
  · rintro s u x a n rfl running locked inner known few aligned fits
    exact next_running running (doFynalPeek_of_locked known few aligned fits locked inner)
  · rintro s u x a n rfl running allowed few aligned fits
    exact next_running running (doFynalPeek_of_outer (by omega) few aligned fits (allowed.imp_right And.right) (by omega))
  · rintro s u a n v rfl running unlocked few aligned fits rfl serves clean
    refine next_running running ((doFynalPeek_store unlocked few aligned fits).trans (if_neg ?_))
    exact fun h => h.2.elim (fun waits => waits serves) (ne_true_of_eq_false clean)
  · rintro s u a n v rfl running unlocked few aligned fits rfl fails
    exact next_running running ((doFynalPeek_store unlocked few aligned fits).trans (if_pos ⟨rfl, fails.imp_left ne_true_of_eq_false⟩))
  · rintro s u x a v rfl running locked
    exact next_running running (if_pos (ne_true_of_eq_false locked))
  · rintro s u x a v rfl running unlocked bad
    exact next_running running (doFynalPoke_of_bad unlocked bad)
  · rintro s u x a v rfl running unlocked known aligned fits barred
    exact next_running running (doFynalPoke_of_barred unlocked known aligned fits barred)
  · rintro s u x a v w rfl running unlocked known other aligned fits allowed rfl
    exact next_running running (doFynalPoke_of_outer unlocked known aligned fits allowed other)
  · rintro s u a v w rfl running unlocked aligned fits allowed serves rfl
    exact next_running running (doFynalPoke_store unlocked aligned fits allowed serves)
  · rintro s u r rfl up known
    exact next_up up (doFynalBaud_of_known known)
  · rintro s u r rfl up unknown
    exact next_up up (if_pos (ne_true_of_eq_false unknown))
  · rintro s r d new
    exact congrArg Host.Outcome.next (doBaudSwitch_of_new new)
  · rintro s u rfl up
    exact next_up up (if_pos rfl)
  · rintro s u rfl up
    exact next_up up (if_neg Bool.false_ne_true)

/-! ## update and the pins -/

section
variable {s : State} {x : UpdateSession} (session : s.boot.session = some x) (monitor : x.monitor = true) (piece : Data) (k : CryptoChecks)
include session monitor

theorem doFynalPiece_of_session (crcOk readBackOk : Bool) : doFynalPiece piece crcOk readBackOk k s =
    if ¬ crcOk = true then askPiece x.received s
    else
      let n := min 4096 (x.length - x.received)
      let f := freeBytes n s
      let r := if readBackOk then ((piece ++ List.replicate n 0xFF).take n, s) else f
      let s := programNext x r.1 r.2
      if ¬ readBackOk = true then errFailed 0 (failUpdate 0 s)
      else if x.received + n < x.length then askPiece (x.received + n) s
      else finishMonitor x k s := by
  unfold doFynalPiece
  rw [session]
  exact if_neg (not_not_intro monitor)

theorem doFynalPiece_of_good : doFynalPiece piece true true k s =
    let n := min 4096 (x.length - x.received)
    let s := programNext x ((piece ++ List.replicate n 0xFF).take n) s
    if x.received + n < x.length then askPiece (x.received + n) s else finishMonitor x k s := by
  rw [doFynalPiece_of_session session monitor]
  exact (if_neg (not_not_intro rfl)).trans (if_neg (not_not_intro rfl))

end

/-- Settles O46, with a clause for each row and case. -/
theorem theMonitorUpdatesAndPinsAreTested : Obligations.TheMonitorUpdatesAndPinsAreTested := by
  refine ⟨?_, ?_, ?_, ?_, ?_, ?_, ?_, ?_, ?_, ?_, ?_⟩
  · rintro s u n rfl up closed least most
    have idle : ¬ (wakeLull s).boot.session.isSome = true := by
      rw [closed]
      exact Bool.false_ne_true
    exact next_up up ((if_neg idle).trans (if_neg (by omega)))
  · rintro s u n rfl up opened
    exact next_up up (if_pos opened)
  · rintro s u n rfl up closed bad
    have idle : ¬ (wakeLull s).boot.session.isSome = true := by
      rw [closed]
      exact Bool.false_ne_true
    exact next_up up ((if_neg idle).trans (if_pos bad))
  · rintro s u x piece rb k rfl up session monitor
    exact next_up up ((doFynalPiece_of_session session monitor piece k false rb).trans (if_pos Bool.false_ne_true))
  · rintro s u x piece k rfl up session monitor more
    exact next_up up ((doFynalPiece_of_good session monitor piece k).trans (if_pos more))
  · rintro s u x piece k rfl up session monitor last
    exact next_up up ((doFynalPiece_of_good session monitor piece k).trans (if_neg (not_lt.2 last)))
  · rintro s u x piece k f rfl up session monitor rfl
    refine next_up up ((doFynalPiece_of_session session monitor piece k true false).trans ?_)
    exact (if_neg (not_not_intro rfl)).trans (if_pos Bool.false_ne_true)
  · intro s due restarts
    refine congrArg Host.Outcome.next ?_
    unfold doFynalRestart
    rw [restarts]
  · intro s code stays
    exact congrArg Host.Outcome.next (if_pos (stays.imp_left ne_true_of_eq_false))
  · intro s code takes free
    exact congrArg Host.Outcome.next (if_neg (not_or.2 ⟨not_not_intro takes, ne_true_of_eq_false free⟩))
  · intro s
    rfl

end Sys2Proof.MonitorLines
end

section
/-! Event routes and masks, the analogue path test and the configuration check (R434, R435, R448, R466, R467, R528). -/

namespace Sys2Proof.ServiceCommands

open Sys2Proof Sys2Proof.Machine Sys2Proof.Claims Sys2Proof.Laws Sys2Proof.Rows

/-- A path test counts itself and what did not pass, and reports the verdict of one that did not. -/
def tested (v i : Nat) (s : State) : State :=
  let s := { s with brz := { s.brz with pathTests := satN 32 (s.brz.pathTests + 1), pathNotPassed := satN 32 (s.brz.pathNotPassed + b2n (decide (v ≠ 0))) } }
  if v = 0 then s else raise 0xC80 [.h i, .h v] s

theorem doPathTest_of_passes {s : State} {c : Cmd} (p : PathCodes)
    (passes : Passes [entryCheck c [(0x08, 2)] [(0x09, decide (c.p8 0x09 < 32))], deviceCheck s c,
      needState (!([(0 : Fin 2), 1].any fun x => slotNames s x (c.p8 0x09) || slotNames s x 0x71))]) :
    doPathTest p c s = done c (pathVerdict p + 2 ^ 16 * (p.p2At768 % 65536))
      (slopeCode p.p1At768 p.p1At256 + 2 ^ 16 * slopeCode p.p2At768 p.p2At256 + 2 ^ 32 * (p.quiet % 65536)) (tested (pathVerdict p) (c.p8 0x09) s) := by
  unfold doPathTest
  exact checked_eq passes rfl

/-- Settles O43, with a clause for each row and case. -/
theorem eventMonitorAndConfigurationCommandsAct : Obligations.EventMonitorAndConfigurationCommandsAct := by
  refine ⟨?_, ?_, ?_, ?_, ?_, ?_, ?_, ?_, ?_⟩
  · intro s id c runs passes
    refine next_runCmd runs ?_
    unfold doEventRoute
    exact checked_eq passes rfl
  · intro s id c runs passes
    exact next_runCmd runs (checked_eq passes rfl)
  · intro s id c runs passes
    exact next_runCmd runs (checked_eq passes rfl)
  · intro s id c runs passes
    exact next_runCmd runs (checked_eq passes rfl)
  · intro s id c p runs passes passed
    have row := doPathTest_of_passes p passes
    rw [passed] at row
    exact next_runCmd runs row
  · intro s id c p v runs passes verdict failed
    have row := doPathTest_of_passes p passes
    have counts : b2n (decide (v ≠ 0)) = 1 := by
      rw [decide_eq_true failed]
      rfl
    have reports : tested v (c.p8 0x09) s = raise 0xC80 [.h (c.p8 0x09), .h v]
        { s with brz := { s.brz with pathTests := satN 32 (s.brz.pathTests + 1), pathNotPassed := satN 32 (s.brz.pathNotPassed + 1) } } := by
      unfold tested
      rw [counts]
      exact if_neg failed
    rw [verdict, reports] at row
    exact next_runCmd runs row
  · intro s id c runs passes
    exact next_runCmd runs (checked_eq passes rfl)
  · intro s id c runs passes
    exact next_runCmd runs (checked_eq passes rfl)
  · intro s id c runs passes
    exact next_runCmd runs (checked_eq passes rfl)

end Sys2Proof.ServiceCommands
end

section
/-! Time across the links: SYNC packets and the measurement of a link's delay (R357, R358, R491). -/

namespace Sys2Proof.LinkTime

open Sys2Proof Sys2Proof.Machine Sys2Proof.Claims Sys2Proof.Laws Sys2Proof.Rows

section
variable {s : State} {n : Fin 4} {p : Packet} (up : s.link.ports[n].isUp = true) (neighbour : p.neighbour = true) (time : p.type = ptTime)
include up neighbour time

/-- A time packet is taken from a neighbour with or without a DID, and wakes no link. -/
theorem arrives_time (f : State → State) : arrives n p f s = f s := by
  have admitted : (if s.link.assigned then p.neighbour || (s.link.ports[n].carries && (p.bcast || decide (p.dstDid = s.link.did))) else beforeDid p) = true := by
    rw [beforeDid, neighbour, time]
    split <;> rfl
  unfold arrives
  rw [if_pos time]
  exact if_pos ⟨up, admitted⟩

end

theorem isPacket_time {p : Packet} {k : Nat} (time : p.type = ptTime) (sub : p.subtype = k) : isPacket p ptTime k = true :=
  decide_eq_true ⟨time, sub⟩

theorem doSyncReceive_of_elsewhere {s : State} {n : Fin 4} {p : Packet} (sync : isPacket p ptTime 1 = true)
    (elsewhere : s.link.upstream ≠ some n.val) (frac : Nat) : doSyncReceive n p frac s = setPort n (fun q => { q with peerDid := p.srcDid }) s :=
  (if_neg (not_not_intro sync)).trans (if_pos elsewhere)

theorem doSyncReceive_of_upstream {s : State} {n : Fin 4} {p : Packet} (sync : isPacket p ptTime 1 = true)
    (upstream : s.link.upstream = some n.val) {frac : Nat} {off : Int}
    (offset : off = (fineNow s frac : Int) - ((p.addr.toNat * 65536 + p.aux.toNat % 65536 : Nat) + transmitDelay s n)) :
    doSyncReceive n p frac s = (fun v => if s.clk.loop.source = 3 then loopUpdate off v else v)
      (setPort n (fun q => { q with peerDid := p.srcDid, offset := off }) s) := by
  have delay : transmitDelay (setPort n (fun q => { q with peerDid := p.srcDid }) s) n = transmitDelay s n := by
    unfold transmitDelay
    rw [PortTraining.setPort_self]
    rfl
  refine (if_neg (not_not_intro sync)).trans ((if_neg (not_not_intro upstream)).trans ?_)
  dsimp only
  rw [delay, PortTraining.setPort_setPort, show fineNow (setPort n (fun q => { q with peerDid := p.srcDid }) s) frac = fineNow s frac from rfl, ← offset]
  rfl

/-- Settles O42, with a clause for each row and case. -/
theorem timeCrossesTheLinks : Obligations.TimeCrossesTheLinks := by
  refine ⟨?_, ?_, ?_, ?_, ?_, ?_, ?_⟩
  · rintro s n u v k up elsewhere assigned rfl rfl rfl
    refine congrArg Host.Outcome.next (if_neg ?_)
    rintro (down | upstream | unassigned)
    · exact down up
    · exact elsewhere upstream
    · exact unassigned assigned
  · intro s n p x up neighbour time sub elsewhere
    exact congrArg Host.Outcome.next ((arrives_time up neighbour time _).trans (doSyncReceive_of_elsewhere (isPacket_time time sub) elsewhere _))
  · rintro s n p x off v up neighbour time sub upstream offset rfl
    exact congrArg Host.Outcome.next ((arrives_time up neighbour time _).trans (doSyncReceive_of_upstream (isPacket_time time sub) upstream offset))
  · rintro s n u v k up rfl rfl rfl
    exact congrArg Host.Outcome.next (if_neg (not_not_intro up))
  · rintro s n p x v k up neighbour time sub rfl rfl
    exact congrArg Host.Outcome.next ((arrives_time up neighbour time _).trans (if_neg (not_not_intro (isPacket_time time sub))))
  · rintro s n p x t1 d up neighbour time sub sent rfl
    refine congrArg Host.Outcome.next ((arrives_time up neighbour time _).trans ((if_neg (not_not_intro (isPacket_time time sub))).trans ?_))
    rw [sent]
  · intro s n p x up neighbour time sub idle
    refine congrArg Host.Outcome.next ((arrives_time up neighbour time _).trans ((if_neg (not_not_intro (isPacket_time time sub))).trans ?_))
    rw [idle]

end Sys2Proof.LinkTime
end

section
/-! The link commands: enumeration, the status and route blocks, and the operations on a port (R342, R349, R350, R378 to R380). -/

namespace Sys2Proof.LinkCommands

open Sys2Proof Sys2Proof.Machine Sys2Proof.Claims Sys2Proof.Laws Sys2Proof.Rows

theorem portNumber {c : Cmd} {n : Fin 4} (named : c.p8 0x08 = n.val) : Fin.ofNat 4 (c.p8 0x08) = n :=
  Fin.ext (by rw [named]; exact Nat.mod_eq_of_lt n.isLt)

theorem port_named {c : Cmd} {n : Fin 4} (named : c.p8 0x08 = n.val) (s : State) : s.link.ports[Fin.ofNat 4 (c.p8 0x08)] = s.link.ports[n] :=
  congrArg (fun k : Fin 4 => s.link.ports[k]) (portNumber named)

/-- An operation on a port acts on the port that its entry names. -/
theorem linkOp_of_passes {c : Cmd} {used : List (Nat × Nat)} {more : List Check} {ok : Fin 4 → State → State} {s t : State} {n : Fin 4}
    (named : c.p8 0x08 = n.val) (passes : Passes ([entryCheck c used [(0x08, decide (c.p8 0x08 < 4))], deviceCheck s c] ++ more)) (does : ok n s = t) :
    linkOp c used more ok s = t :=
  checked_eq passes ((congrArg (fun k => ok k s) (portNumber named)).trans does)

theorem startRetrain_of_up {s : State} {n : Fin 4} (up : s.link.ports[n].isUp = true) (steady : s.link.ports[n].retraining = false)
    (first : s.link.ports[n].lastRetrain = none) : startRetrain n s = setPort n (fun p =>
      { p with retraining := true, retrainSince := s.clk.up, lastRetrain := some s.clk.up, retrains := satN 32 (p.retrains + 1), replaysHere := 0 }) s := by
  unfold startRetrain
  rw [if_neg (not_or.2 ⟨not_not_intro up, ne_true_of_eq_false steady⟩), first]
  exact if_neg Bool.false_ne_true

/-- Settles O35, with a clause for each row and case. -/
theorem linkCommandsAct : Obligations.LinkCommandsAct := by
  refine ⟨?_, ?_, ?_, ?_, ?_, ?_, ?_, ?_, ?_⟩
  · intro s id c runs passes known unforced
    refine next_runCmd runs ?_
    unfold doLinkEnumerate
    refine checked_eq passes (if_pos ⟨known, ?_⟩)
    rw [unforced]
    decide
  · intro s id c runs passes fresh
    refine next_runCmd runs ?_
    unfold doLinkEnumerate
    refine checked_eq passes (if_neg ?_)
    rintro ⟨known, unforced⟩
    exact fresh.elim (fun unknown => absurd known (ne_true_of_eq_false unknown)) fun forced => unforced (decide_eq_true forced)
  · intro s id c runs passes
    refine next_runCmd runs ?_
    unfold doLinkStatusQuery linkOp
    exact checked_eq passes rfl
  · intro s id c n runs passes named down
    refine next_runCmd runs (linkOp_of_passes named (passes_snoc passes ?_) ?_)
    · rw [port_named named, down]
      rfl
    · dsimp only
      rw [if_pos down]
  · intro s id c n runs passes named notDown enabled
    refine next_runCmd runs (linkOp_of_passes named (passes_snoc passes ?_) ?_)
    · rw [port_named named, decide_eq_true enabled]
      rfl
    · dsimp only
      rw [if_neg notDown]
  · intro s id c n runs passes named free
    refine next_runCmd runs (linkOp_of_passes named (passes_snoc passes ?_) rfl)
    have allowed : (decide (c.p8 0x0A = 1) || s.link.flows.all fun f => decide (f.port ≠ c.p8 0x08)) = true := by
      rw [named, Bool.or_eq_true, decide_eq_true_eq]
      exact free
    rw [allowed]
    rfl
  · intro s id c n runs passes named up steady first
    refine next_runCmd runs (linkOp_of_passes named (passes_snoc passes ?_) ?_)
    · rw [port_named named, up, steady]
      rfl
    · rw [startRetrain_of_up up steady first]
  · intro s id c runs passes nowhere
    refine next_runCmd runs ?_
    unfold doLinkRouteQuery
    refine checked_eq passes ?_
    dsimp only
    rw [if_pos nowhere]
  · rintro s id c v runs passes named rfl
    refine next_runCmd runs ?_
    unfold doLinkRouteQuery
    refine checked_eq passes ?_
    dsimp only
    rw [if_neg named]

end Sys2Proof.LinkCommands
end

section
/-! Flits, acknowledgements and replay, and what takes a port down (R340 to R343, R370). -/

namespace Sys2Proof.FlitRows

open Sys2Proof Sys2Proof.Machine Sys2Proof.Claims Sys2Proof.Laws Sys2Proof.Rows Sys2Proof.PortTraining

/-! ## Replay -/

/-- The flits of the replay buffer sent again, with the event (R342). -/
def replayed (n : Fin 4) (s : State) : State :=
  raise (evPort n 4) [.since] (setPort n (fun p => { p.resend with replays := satN 32 (p.replays + 1), replaysHere := p.replaysHere + 1, ackProgress := s.clk.up }) s)

section
variable {s : State} {n : Fin 4} (up : s.link.ports[n].isUp = true) (waits : s.link.ports[n].replay ≠ []) (steady : s.link.ports[n].retraining = false)
include up waits steady

theorem replay_sound : ¬ (s.link.ports[n].replay.isEmpty = true ∨ s.link.ports[n].retraining = true ∨ ¬ s.link.ports[n].isUp = true) := by
  rintro (empty | retrains | down)
  · exact waits (List.isEmpty_iff.1 empty)
  · exact absurd retrains (ne_true_of_eq_false steady)
  · exact down up

theorem replayFlits_of_few (few : s.link.ports[n].replaysHere < 4) : replayFlits n s = replayed n s :=
  (if_neg (replay_sound up waits steady)).trans (if_neg (not_le.2 few))

theorem replayFlits_of_many (many : 4 ≤ s.link.ports[n].replaysHere) : replayFlits n s = startRetrain n s :=
  (if_neg (replay_sound up waits steady)).trans (if_pos many)

theorem doAckTimeout_eq : doAckTimeout n s = replayFlits n (waitUp (s.link.ports[n].ackProgress + 2560) s) :=
  if_neg (replay_sound up waits steady)

end

/-! ## A flit that arrives -/

/-- The acknowledgement and the credit of a flit taken (R341, R343). -/
def credited (n : Fin 4) (f : Flit) (s : State) : State :=
  setPort n (fun p => { p with lastGood := s.clk.up, credits := vmodN p.credits f.creditVc (· + f.credit) }.acked f.ack s.clk.up) s

/-- An acknowledgement brings a port neither down nor into a retrain. -/
theorem acked_up (p : Port) (ack up : Nat) : (p.acked ack up).isUp = p.isUp ∧ (p.acked ack up).retraining = p.retraining := by
  unfold Port.acked
  extract_lets k
  split <;> exact ⟨rfl, rfl⟩

section
variable {s : State} {n : Fin 4} {d : Data} (up : s.link.ports[n].isUp = true) (steady : s.link.ports[n].retraining = false)
include up steady

theorem doFlit_of_up : doFlit n d s =
    let s := if (flitOf d).crcOk = true then credited n (flitOf d) s else setPort n (fun p => { p with crcErrors := satN 32 (p.crcErrors + 1) }) s
    let s := if (flitOf d).isData = true then setPort n (·.takeData (flitOf d) s.clk.up) s else s
    pumpPort n (if (flitOf d).crcOk = true ∧ (flitOf d).nak = true then replayFlits n s else s) :=
  if_neg (not_or.2 ⟨not_not_intro up, ne_true_of_eq_false steady⟩)

theorem doFlit_of_bad (bad : (flitOf d).crcOk = false) : doFlit n d s =
    let s := setPort n (fun p => { p with crcErrors := satN 32 (p.crcErrors + 1) }) s
    pumpPort n (if (flitOf d).isData = true then setPort n (·.takeData (flitOf d) s.clk.up) s else s) := by
  rw [doFlit_of_up up steady, bad]
  rfl

theorem doFlit_of_good (good : (flitOf d).crcOk = true) (plain : (flitOf d).nak = false) : doFlit n d s =
    let s := credited n (flitOf d) s
    pumpPort n (if (flitOf d).isData = true then setPort n (·.takeData (flitOf d) s.clk.up) s else s) := by
  rw [doFlit_of_up up steady, good, plain]
  rfl

theorem doFlit_of_nak (good : (flitOf d).crcOk = true) (nak : (flitOf d).nak = true) (idle : (flitOf d).isData = false) :
    doFlit n d s = pumpPort n (replayFlits n (credited n (flitOf d) s)) := by
  rw [doFlit_of_up up steady, good, nak, idle]
  rfl

theorem credited_up (f : Flit) : (credited n f s).link.ports[n].isUp = true ∧ (credited n f s).link.ports[n].retraining = false := by
  unfold credited
  rw [setPort_self]
  obtain ⟨isUp, retraining⟩ := acked_up { s.link.ports[n] with lastGood := s.clk.up, credits := vmodN s.link.ports[n].credits f.creditVc (· + f.credit) } f.ack s.clk.up
  exact ⟨isUp.trans up, retraining.trans steady⟩

end

section
variable {p : Port} {f : Flit} {now : Nat}

theorem takeData_of_expected (good : f.crcOk = true) (expected : f.seq = p.rxSeq) : p.takeData f now = (p.accept f now).report false :=
  if_pos ⟨good, expected⟩

theorem takeData_of_first (discarded : ¬ (f.crcOk = true ∧ f.seq = p.rxSeq)) (first : p.nakSent = false) :
    p.takeData f now = { p.report true with nakSent := true } :=
  (if_neg discarded).trans (if_neg (ne_true_of_eq_false first))

theorem takeData_of_later (discarded : ¬ (f.crcOk = true ∧ f.seq = p.rxSeq)) (later : p.nakSent = true) : p.takeData f now = p :=
  (if_neg discarded).trans (if_pos later)

end

/-! ## The obligation -/

/-- Settles O37, with a clause for each row and case. -/
theorem flitsAreTakenAndReplayed : Obligations.FlitsAreTakenAndReplayed := by
  refine ⟨?_, ?_, ?_, ?_, ?_, ?_, ?_, ?_, ?_, ?_, ?_, ?_, ?_, ?_⟩
  · intro s n d up steady bad idle
    refine congrArg Host.Outcome.next ((doFlit_of_bad up steady bad).trans ?_)
    rw [idle]
    rfl
  · intro s n d up steady bad data first
    refine congrArg Host.Outcome.next ((doFlit_of_bad up steady bad).trans ?_)
    dsimp only
    rw [if_pos data, setPort_setPort]
    refine congrArg (pumpPort n) (setPort_congr ?_)
    exact takeData_of_first (fun h => ne_true_of_eq_false bad h.1) first
  · rintro s n d f u rfl up steady good rfl plain data expected
    refine congrArg Host.Outcome.next ((doFlit_of_good up steady good plain).trans ?_)
    dsimp only
    rw [if_pos data]
    exact congrArg (pumpPort n) (setPort_congr (takeData_of_expected good expected))
  · rintro s n d f u rfl up steady good rfl plain data other first
    refine congrArg Host.Outcome.next ((doFlit_of_good up steady good plain).trans ?_)
    dsimp only
    rw [if_pos data]
    exact congrArg (pumpPort n) (setPort_congr (takeData_of_first (fun h => other h.2) first))
  · rintro s n d f u rfl up steady good rfl plain data other later
    refine congrArg Host.Outcome.next ((doFlit_of_good up steady good plain).trans ?_)
    dsimp only
    rw [if_pos data]
    exact congrArg (pumpPort n) (setPort_of_fixed (takeData_of_later (fun h => other h.2) later))
  · rintro s n d f u rfl up steady good rfl plain idle
    refine congrArg Host.Outcome.next ((doFlit_of_good up steady good plain).trans ?_)
    dsimp only
    rw [if_neg (ne_true_of_eq_false idle)]
    rfl
  · rintro s n d f u rfl up steady good rfl nak idle waits few
    obtain ⟨stillUp, stillSteady⟩ := credited_up up steady (flitOf d)
    exact congrArg Host.Outcome.next ((doFlit_of_nak up steady good nak idle).trans
      (congrArg (pumpPort n) (replayFlits_of_few stillUp waits stillSteady few)))
  · intro s n ack up
    exact congrArg Host.Outcome.next (if_neg (not_not_intro up))
  · rintro s n u up waits steady few rfl
    exact congrArg Host.Outcome.next ((doAckTimeout_eq up waits steady).trans
      (replayFlits_of_few (s := waitUp (s.link.ports[n].ackProgress + 2560) s) up waits steady few))
  · rintro s n u up waits steady many rfl
    exact congrArg Host.Outcome.next ((doAckTimeout_eq up waits steady).trans
      (replayFlits_of_many (s := waitUp (s.link.ports[n].ackProgress + 2560) s) up waits steady many))
  · rintro s n u up runs rfl
    exact congrArg Host.Outcome.next (if_neg (not_or.2 ⟨not_not_intro up, not_not_intro runs⟩))
  · rintro s n u watched rfl
    exact congrArg Host.Outcome.next (if_neg (not_not_intro watched))
  · intro s n watched
    exact congrArg Host.Outcome.next (if_neg (not_not_intro watched))
  · intro s n watched
    exact congrArg Host.Outcome.next (if_neg (not_not_intro watched))

end Sys2Proof.FlitRows
end

section
/-! Packets that arrive: forwarding, writes, reads and completions (R346, R353, R363, R364, R368, R373). -/

namespace Sys2Proof.LinkPackets

open Sys2Proof Sys2Proof.Machine Sys2Proof.Claims Sys2Proof.Laws Sys2Proof.Rows

/-- A packet that arrives is taken by its row. -/
theorem arrives_eq {s u : State} {n : Fin 4} {p : Packet} (comes : Arrives s u n p) (f : State → State) : arrives n p f s = f u := by
  obtain ⟨rfl, up, admitted⟩ := comes
  refine if_pos ⟨up, ?_⟩
  rcases admitted with ⟨assigned, forUs⟩ | ⟨unassigned, neighbour, kind⟩
  · rw [if_pos assigned]
    simpa using forUs
  · rw [if_neg (ne_true_of_eq_false unassigned), beforeDid, neighbour]
    simpa [or_assoc] using kind

/-- A row of an arriving packet answers what it does with it. -/
theorem next_arrives {s u t : State} {n : Fin 4} {p : Packet} {f : State → State} (comes : Arrives s u n p) (does : f u = t) :
    (Host.Outcome.next (arrives n p f s) : Host.Outcome State Fault Refusal) = .next t :=
  congrArg Host.Outcome.next ((arrives_eq comes f).trans does)

/-! ## Forwarding -/

section
variable {s : State} {n : Fin 4} {p : Packet} (carries : s.link.ports[n].carries = true) (assigned : s.link.assigned = true)
  (far : p.neighbour = false) (young : p.hops < 65534)
include carries assigned far young

theorem doForward_of_broadcast (all : p.bcast = true) : doForward n p s = broadcast (some n) { p with hops := p.hops + 1 } s := by
  have goesOn : ¬ (¬ s.link.ports[n].carries = true ∨ ¬ s.link.assigned = true ∨ p.neighbour = true ∨ (¬ p.bcast = true ∧ p.dstDid = s.link.did)) :=
    not_or.2 ⟨not_not_intro carries, not_or.2 ⟨not_not_intro assigned, not_or.2 ⟨ne_true_of_eq_false far, fun h => h.1 all⟩⟩⟩
  exact (if_neg goesOn).trans ((if_neg (by omega)).trans (if_pos all))

variable (elsewhere : p.dstDid ≠ s.link.did) (one : p.bcast = false)
include elsewhere one

theorem doForward_of_one : doForward n p s = match routePort s.link p.dstDid with
    | some e => if e = n then discardPacket s else sendOn e { p with hops := p.hops + 1 } (passing n e p s)
    | none => noRoute p s := by
  have goesOn : ¬ (¬ s.link.ports[n].carries = true ∨ ¬ s.link.assigned = true ∨ p.neighbour = true ∨ (¬ p.bcast = true ∧ p.dstDid = s.link.did)) :=
    not_or.2 ⟨not_not_intro carries, not_or.2 ⟨not_not_intro assigned, not_or.2 ⟨ne_true_of_eq_false far, fun h => elsewhere h.2⟩⟩⟩
  refine (if_neg goesOn).trans ((if_neg (by omega)).trans ((if_neg (ne_true_of_eq_false one)).trans ?_))
  cases routePort s.link p.dstDid <;> rfl

end

/-! ## Writes, reads and completions -/

section
variable {u : State} {p : Packet}

theorem doLinkWrite_of_subtype {k : Nat} (write : p.type = ptWrite) (sub : p.subtype = k) : doLinkWrite p u =
    if k = 0 then storeWriteFrom p u else if k = 1 then streamPart p u else if k = 2 ∨ k = 3 then bulkPart p u
    else if p.ackReq then answer p 1 [] u else u := by
  unfold doLinkWrite
  rw [if_neg (not_not_intro write), sub]

theorem storeWriteFrom_of_refused (refused : dmaWritable u p.addr.toNat p.payload.length = false) (asked : p.ackReq = true) :
    storeWriteFrom p u = answer p 1 [] u :=
  (if_pos (ne_true_of_eq_false refused)).trans (if_pos asked)

theorem storeWriteFrom_of_taken (taken : dmaWritable u p.addr.toNat p.payload.length = true) (serves : storeServes (storeAwake u) = true) :
    storeWriteFrom p u = if p.ackReq then answer p 0 [] (storeWrite p.addr.toNat p.payload (storeAwake u))
      else storeWrite p.addr.toNat p.payload (storeAwake u) :=
  (if_neg (not_not_intro taken)).trans (if_neg (not_not_intro serves))

theorem doLinkRead_of_refused (read : p.type = ptRead)
    (refused : p.aux.toNat % 4294967296 = 0 ∨ 4096 < p.aux.toNat % 4294967296 ∨ readAllowed u p (p.aux.toNat % 4294967296) = false) :
    doLinkRead p u = answer p 1 [] u :=
  (if_neg (not_not_intro read)).trans (if_pos (refused.imp_right (Or.imp_right ne_true_of_eq_false)))

theorem doLinkRead_of_allowed {k : Nat} (read : p.type = ptRead) (size : p.aux.toNat % 4294967296 = k) (least : 1 ≤ k) (most : k ≤ 4096)
    (allowed : readAllowed u p k = true) (serves : storeServes (storeAwake u) = true) :
    doLinkRead p u = match (if (storeAwake u).store.within rtHistory p.addr.toNat k then historyStatus (storeAwake u) p.addr.toNat k else some (0, 0)) with
      | none => storeAwake u
      | some (st, cause) =>
        if st ≠ 0 then answer p (st + cause * 256) [] (storeAwake u)
        else if readPoisoned (storeAwake u) p.addr.toNat k then answer p 2 [] (reportSpan p.addr.toNat k rqLink (storeAwake u))
        else answer p 0 (rawRead (storeAwake u) p.addr.toNat k) (storeAwake u) := by
  subst size
  have sound : ¬ (p.aux.toNat % 2 ^ 32 = 0 ∨ 4096 < p.aux.toNat % 2 ^ 32 ∨ ¬ readAllowed u p (p.aux.toNat % 2 ^ 32) = true) := by
    rintro (zero | long | barred)
    · exact absurd zero (Nat.one_le_iff_ne_zero.1 least)
    · exact absurd long (not_lt.2 most)
    · exact barred allowed
  refine (if_neg (not_not_intro read)).trans ((if_neg sound).trans ((if_neg (not_not_intro serves)).trans ?_))
  generalize (if (storeAwake u).store.within rtHistory p.addr.toNat (p.aux.toNat % 4294967296) then _ else _) = status
  rcases status with _ | ⟨st, cause⟩ <;> rfl

theorem doLinkCompletion_of_request (completion : p.type = ptCompletion) (sub : p.subtype = 0) : doLinkCompletion p u =
    match u.link.requests.find? (fun r => decide (r.tag = p.tag ∧ r.did = p.srcDid)) with
    | some r => endRequest r (p.aux.toNat % 256) (bits p.aux.toNat 15 8) p.payload u
    | none => u := by
  have notRecord : ¬ p.subtype = 1 := by omega
  have notReceipt : ¬ p.subtype = 2 := by omega
  exact (if_neg (not_not_intro completion)).trans ((if_neg notRecord).trans (if_neg notReceipt))

end

/-! ## The obligation -/

/-- Settles O38, with a clause for each row and case. -/
theorem packetsGoOnAndReachTheStore : Obligations.PacketsGoOnAndReachTheStore := by
  refine ⟨?_, ?_, ?_, ?_, ?_, ?_, ?_, ?_, ?_, ?_, ?_, ?_, ?_, ?_, ?_, ?_, ?_, ?_⟩
  · intro s n e p carries assigned far elsewhere young one route other
    refine congrArg Host.Outcome.next ((doForward_of_one carries assigned far young elsewhere one).trans ?_)
    rw [route]
    exact if_neg other
  · intro s n p carries assigned far elsewhere young one route
    refine congrArg Host.Outcome.next ((doForward_of_one carries assigned far young elsewhere one).trans ?_)
    rw [route]
    exact if_pos rfl
  · intro s n p carries assigned far elsewhere young one route notRead
    refine congrArg Host.Outcome.next ((doForward_of_one carries assigned far young elsewhere one).trans ?_)
    rw [route]
    exact if_neg notRead
  · intro s n p carries assigned far elsewhere young one route read
    refine congrArg Host.Outcome.next ((doForward_of_one carries assigned far young elsewhere one).trans ?_)
    rw [route]
    exact if_pos read
  · intro s n p carries assigned far young all
    exact congrArg Host.Outcome.next (doForward_of_broadcast carries assigned far young all)
  · intro s n p u comes write sub asked refused
    exact next_arrives comes ((doLinkWrite_of_subtype write sub).trans (storeWriteFrom_of_refused refused asked))
  · rintro s n p u v comes write sub taken rfl serves
    exact next_arrives comes ((doLinkWrite_of_subtype write sub).trans (storeWriteFrom_of_taken taken serves))
  · intro s n p u comes write sub
    exact next_arrives comes (doLinkWrite_of_subtype write sub)
  · intro s n p u comes write sub
    refine next_arrives comes ((doLinkWrite_of_subtype write rfl).trans ?_)
    rw [if_neg (by omega), if_neg (by omega), if_pos sub]
  · intro s n p u comes read refused
    exact next_arrives comes (doLinkRead_of_refused read refused)
  · rintro s n p u k v comes read size least most allowed rfl serves outside clean
    refine next_arrives comes ((doLinkRead_of_allowed read size least most allowed serves).trans ?_)
    rw [if_neg (ne_true_of_eq_false outside)]
    exact (if_neg (not_not_intro rfl)).trans (if_neg (ne_true_of_eq_false clean))
  · rintro s n p u k v comes read size least most allowed rfl serves outside poisoned
    refine next_arrives comes ((doLinkRead_of_allowed read size least most allowed serves).trans ?_)
    rw [if_neg (ne_true_of_eq_false outside)]
    exact (if_neg (not_not_intro rfl)).trans (if_pos poisoned)
  · rintro s n p u k st cause v comes read size least most allowed rfl serves inside status fails
    refine next_arrives comes ((doLinkRead_of_allowed read size least most allowed serves).trans ?_)
    rw [if_pos inside, status]
    exact if_pos fails
  · intro s n p u r comes completion sub found
    refine next_arrives comes ((doLinkCompletion_of_request completion sub).trans ?_)
    rw [found]
  · intro s n p u comes completion sub unknown
    refine next_arrives comes ((doLinkCompletion_of_request completion sub).trans ?_)
    rw [unknown]
  · intro s n p u k comes completion sub stream peer
    refine next_arrives comes ((if_neg (not_not_intro completion)).trans ((if_pos sub).trans ?_))
    rw [stream]
    exact if_pos peer
  · intro s n p u comes completion sub
    refine next_arrives comes ((if_neg (not_not_intro completion)).trans ((if_neg ?_).trans (if_pos sub)))
    omega
  · intro s tag r found
    refine congrArg Host.Outcome.next ?_
    have late : r.sent + msTicks + 4 * usTicks * r.hops = r.sent + 1280000 + 5120 * r.hops := rfl
    unfold doRequestTimeout
    rw [found, ← late]

end Sys2Proof.LinkPackets
end

section
/-! Work for other devices: forwarded commands and events, placement control and the loss of flows (R23, R138, R366 to R375). -/

namespace Sys2Proof.ForwardedWork

open Sys2Proof Sys2Proof.Machine Sys2Proof.Claims Sys2Proof.Laws Sys2Proof.Rows Sys2Proof.EventLinks Sys2Proof.LinkPackets

/-! ## Completions leave the links alone but for their ports -/

theorem cplqWrite_linkRest (q n : Fin 8) (noIrq : Bool) (tag status r0 r1 aux : Nat) (s : State) :
    linkRest (cplqWrite q n noIrq tag status r0 r1 aux s) = linkRest s := by
  unfold cplqWrite
  extract_lets o e u v
  have stored : linkRest u = linkRest s := unmoved_linkRest.stored _ _ s
  split
  · rfl
  · split
    · exact stored
    · split
      · exact (unmoved_linkRest.signalled _ _).trans stored
      · exact stored

theorem complete_linkRest (c : Cmd) (status r0 r1 aux : Nat) (s : State) : linkRest (complete c status r0 r1 aux s) = linkRest s := by
  unfold complete
  extract_lets c' u
  split
  · exact cplqWrite_linkRest _ _ _ _ _ _ _ _ u
  · exact unmoved_linkRest.sent _ u

/-- What each step of a sequence leaves alone, the sequence does. -/
theorem forL_unchanged {α β : Type} {g : State → β} {f : α → State → State} (step : ∀ a s, g (f a s) = g s) (l : List α) (s : State) :
    g (forL l f s) = g s := by
  induction l generalizing s with
  | nil => rfl
  | cons a l ih => exact (ih _).trans (step a s)

/-! ## The loss of flows -/

/-- The commands forwarded to a peer complete with E_LINK (R374). -/
def endForwarded (did : Nat) (s : State) : State :=
  forL (s.mbx.forwarded.filter (·.did = did)) (fun f s =>
    let s := { s with mbx := { s.mbx with forwarded := s.mbx.forwarded.filter (·.cmd ≠ f.cmd) } }
    match findCmd s f.cmd with | some c => complete c stLink 0 0 (b2n f.acknowledged) s | none => s) s

theorem endForwarded_isRoot (did : Nat) (s : State) : (endForwarded did s).link.isRoot = s.link.isRoot := by
  have rest : linkRest (endForwarded did s) = linkRest s := by
    refine forL_unchanged (fun f u => ?_) _ s
    dsimp only
    split
    · exact complete_linkRest _ _ _ _ _ _
    · rfl
  exact (congrArg Link.isRoot rest :)

theorem doFlowLoss_of_lost {s : State} {did : Nat} (lost : reachable s.link did = false) (elsewhere : s.link.assigned = false ∨ did ≠ s.link.did) :
    doFlowLoss did s = (fun u => (fun v => if ¬ v.link.isRoot = true then endForwarded did v else reportLoss did (endForwarded did v))
      (forL (u.link.flows.filter fun f => decide (f.did = did) && f.lostSince.isSome) endFlow u)) (waitUp (lossTime s did + msTicks) s) := by
  have away : ¬ (s.link.assigned = true ∧ did = s.link.did) := fun h => elsewhere.elim (fun un => absurd h.1 (ne_true_of_eq_false un)) fun ne => ne h.2
  refine (if_neg (not_or.2 ⟨ne_true_of_eq_false lost, away⟩)).trans ?_
  exact ite_congr (congrArg (fun root => ¬ root = true) (endForwarded_isRoot did _)) (fun _ => rfl) fun _ => rfl

/-! ## Forwarded commands -/

/-- A peer's command noted as in progress. -/
def noted (c : Cmd) (s : State) : State := { s with mbx := { s.mbx with nextId := s.mbx.nextId + 1, cmds := s.mbx.cmds ++ [c] } }

/-- The command that a packet brings. -/
def broughtBy (p : Packet) (s : State) : Cmd :=
  { id := s.mbx.nextId, origin := .peer p.srcDid p.tag, cplq := 0, bytes := p.payload.take 64, started := true, waiting := false, blocks := [] }

theorem doForwardedCommand_of_message {u v : State} {p : Packet} (message : isPacket p ptMsg 1 = true) (runs : u.fw.runs = true)
    (acknowledged : v = if p.ackReq then send (mkPacket u ptCompletion 2 p.srcDid p.tag 0 0) u else u) : doForwardedCommand p u =
      if cmdLimit ≤ v.mbx.cmds.length then complete (broughtBy p v) stBusy 0 0 0 (noted (broughtBy p v) v)
      else if namesOwnMemory (broughtBy p v) = true then complete (broughtBy p v) stState 0 0 0 (noted (broughtBy p v) v)
      else startCmd (broughtBy p v) (noted (broughtBy p v) v) := by
  subst acknowledged
  refine (if_neg (not_or.2 ⟨not_not_intro message, not_not_intro runs⟩)).trans ?_
  exact ite_congr (propext decide_eq_true_iff) (fun _ => rfl) fun _ => rfl

/-- Placement control, by its operation. -/
theorem doPlacement_of_message {u : State} {p : Packet} {k : Nat} (message : isPacket p ptMsg 7 = true) (op : p.aux.toNat % 256 = k) :
    doPlacement p u =
      if k = 0 then foreignAsk p u
      else if k = 1 then foreignAccepted p.srcDid p.addr.toNat u
      else if k = 2 then (match findTask u p.addr.toNat with
        | some t => if (match t.migration with | some m => decide (m.peer = some p.srcDid) | none => false) then abortMigration p.addr.toNat 1 u else u
        | none => u)
      else if k = 3 then foreignStart p.addr.toNat p.payload u
      else if k = 4 then foreignCancel p.addr.toNat (u64At p.payload 0) (u16At p.payload 8) u
      else if k = 5 then foreignSources p u
      else if k = 8 then foreignModify p.addr.toNat (p.aux.toNat / 2 ^ 32) p.payload u
      else if k = 7 then peerStopped p.srcDid p.addr.toNat (p.aux.toNat / 2 ^ 32) p.payload u
      else if k = 6 then (match streamIndex p.addr.toNat with
        | some n => if u.tw[n].dest = 2 ∧ u.tw[n].isOpen ∧ u.tw[n].peerDid = p.srcDid then applyCut n (u64At p.payload 0) (u64At p.payload 8) u else u
        | none => u)
      else u := by
  subst op
  exact if_neg (not_not_intro message)

/-! ## The obligation -/

/-- Settles O39, with a clause for each row and case. -/
theorem forwardedWorkIsDone : Obligations.ForwardedWorkIsDone := by
  refine ⟨?_, ?_, ?_, ?_, ?_, ?_, ?_, ?_, ?_, ?_, ?_, ?_, ?_, ?_, ?_, ?_, ?_⟩
  · rintro s n p u v c comes message runs acknowledged rfl few known
    exact next_arrives comes ((doForwardedCommand_of_message message runs acknowledged).trans
      ((if_neg (not_le.2 few)).trans (if_neg (ne_true_of_eq_false known))))
  · rintro s n p u v c comes message runs acknowledged rfl few own
    exact next_arrives comes ((doForwardedCommand_of_message message runs acknowledged).trans ((if_neg (not_le.2 few)).trans (if_pos own)))
  · rintro s n p u v c comes message runs acknowledged rfl full
    exact next_arrives comes ((doForwardedCommand_of_message message runs acknowledged).trans (if_pos full))
  · rintro s n p u v c comes message waits rfl found
    refine next_arrives comes ((if_neg (not_or.2 ⟨not_not_intro message, not_not_intro waits⟩)).trans ?_)
    dsimp only
    rw [found]
  · intro s n p u q comes message queue
    refine next_arrives comes ((if_neg (not_not_intro message)).trans ?_)
    rw [queue]
  · intro s n p u comes message op
    exact next_arrives comes (doPlacement_of_message message op)
  · intro s n p u comes message op
    exact next_arrives comes (doPlacement_of_message message op)
  · intro s n p u t m comes message op task migration peer
    refine next_arrives comes ((doPlacement_of_message message op).trans ?_)
    have ours : (match t.migration with | some m => decide (m.peer = some p.srcDid) | none => false) = true := by
      rw [migration]
      exact decide_eq_true peer
    rw [if_neg (by decide), if_neg (by decide), if_pos rfl, task]
    exact if_pos ours
  · intro s n p u comes message op
    exact next_arrives comes (doPlacement_of_message message op)
  · intro s n p u comes message op
    exact next_arrives comes (doPlacement_of_message message op)
  · intro s n p u comes message op
    exact next_arrives comes (doPlacement_of_message message op)
  · intro s n p u comes message op
    exact next_arrives comes (doPlacement_of_message message op)
  · intro s n p u comes message op
    exact next_arrives comes (doPlacement_of_message message op)
  · intro s n p u k comes message op stream peerStream opened peer
    refine next_arrives comes ((doPlacement_of_message message op).trans ?_)
    rw [if_neg (by decide), if_neg (by decide), if_neg (by decide), if_neg (by decide), if_neg (by decide), if_neg (by decide), if_neg (by decide),
      if_neg (by decide), if_pos rfl, stream]
    exact if_pos ⟨peerStream, opened, peer⟩
  · rintro s did u v lost elsewhere rfl rfl notRoot
    exact congrArg Host.Outcome.next ((doFlowLoss_of_lost lost elsewhere).trans (if_pos (ne_true_of_eq_false notRoot)))
  · rintro s did u v lost elsewhere rfl rfl root
    exact congrArg Host.Outcome.next ((doFlowLoss_of_lost lost elsewhere).trans (if_neg (not_not_intro root)))
  · intro s did reached
    exact congrArg Host.Outcome.next (if_pos (.inl reached))

end Sys2Proof.ForwardedWork
end

section
/-! Group messages between devices: registrations, fires, arms, disarms and confirmations (R204, R219, R222, R224, R225, R362). -/

namespace Sys2Proof.GroupMessages

open Sys2Proof Sys2Proof.Machine Sys2Proof.Claims Sys2Proof.Laws Sys2Proof.Rows Sys2Proof.LinkPackets

theorem setAt_setAt (m : Fin 16) (f g : AcqTrigger → AcqTrigger) (s : State) : setAt m f (setAt m g s) = setAt m (fun a => f (g a)) s :=
  congrArg (fun ats => { s with squall := { s.squall with ats := ats } }) (QueueEntries.vmod_vmod _ _ _ _)

theorem ofBits_one (m : Fin 16) : ofBits [m.val] = 2 ^ m.val := by
  simp [ofBits]

/-! ## Registrations -/

section
variable {n : Fin 4} {u : State} {p : Packet} {m : Fin 16} (message : isPacket p ptMsg 5 = true)
include message

theorem doGroupRegistration_of_request (request : bit p.aux.toNat 20 = false)
    (master : groupAt u (p.aux.toNat % 65536) (fun d => d.masterDid = u.link.did) = some m) : doGroupRegistration n p u =
      sendRegistration p.srcDid (p.aux.toNat % 65536) m.val 0 p.tag true (raise 0x701 [.h (p.aux.toNat % 65536), .h p.srcDid]
        (registerMember m p.srcDid p.addr.toNat (p.hops + portHops u.link.ports[n]) u)) := by
  refine (if_neg (not_not_intro message)).trans ((if_neg (ne_true_of_eq_false request)).trans ?_)
  rw [master]

theorem doGroupRegistration_of_answer {c : Cmd} {g : AcqDef} (answer : bit p.aux.toNat 20 = true)
    (asked : ((List.finRange 16).find? fun m => u.squall.ats[m].registerCmd = some p.tag.toNat) = some m) (found : findCmd u p.tag.toNat = some c)
    (registering : u.squall.ats[m].registering = some g) : doGroupRegistration n p u =
      (fun v => done c (acqNeed v g) (acqReach v g) v) (putDefinition m g (setAt m (fun a => { a with registerCmd := none }) u)) := by
  refine (if_neg (not_not_intro message)).trans ((if_pos answer).trans ?_)
  rw [asked]
  dsimp only
  rw [registering]
  dsimp only
  rw [show findCmd (putDefinition m g (setAt m (fun a => { a with registerCmd := none }) u)) p.tag.toNat = some c from found]

end

/-! ## Fires, arms and disarms -/

/-- A fire that came too late is counted. -/
def late (m : Fin 16) (u : State) : State := setAt m (fun a => { a with lateGroupFires := a.lateGroupFires + 1 }) u

section
variable {u : State} {p : Packet} {m : Fin 16} (message : isPacket p ptTrig 2 = true) (group : groupAt u (trigGroup p) (fun _ => true) = some m)
include message group

theorem doGroupFireReceive_of_other (other : u.squall.ats[m].armSeq ≠ p.tag.toNat) : doGroupFireReceive p u = late m u := by
  refine (if_neg (not_not_intro message)).trans ?_
  rw [group]
  exact if_pos other

section
variable (arming : u.squall.ats[m].armSeq = p.tag.toNat)
include arming

theorem doGroupFireReceive_of_undecided (undecided : u.squall.ats[m].decided = none) : doGroupFireReceive p u =
    if ¬ u.squall.ats[m].armed = true then late m u
    else setAt m (fun a => { a with round := a.round ++ [⟨p.addr.toNat, trigFrac p, p.srcDid, false⟩] }) u := by
  refine (if_neg (not_not_intro message)).trans ?_
  rw [group]
  refine (if_neg (not_not_intro arming)).trans ?_
  rw [undecided]
  exact if_neg Bool.false_ne_true

theorem doGroupFireReceive_of_decided {w : GroupFire} (decided : u.squall.ats[m].decided = some w)
    (after : u.squall.ats[m].armed = false ∨ p.addr.toNat < u.squall.ats[m].rearmTick)
    (wins : p.addr.toNat < w.tick ∨ (p.addr.toNat = w.tick ∧ p.srcDid < w.did)) : doGroupFireReceive p u =
      raise (evAt m 7) [.h m.val, .h p.srcDid] (setAt m (fun a => { a with partial_ := true }) (raise 0xA49 [.h m.val, .h p.srcDid, .q p.addr.toNat] (late m u))) := by
  have closed : (!u.squall.ats[m].armed || decide (p.addr.toNat < u.squall.ats[m].rearmTick)) = true := by
    rw [Bool.or_eq_true, Bool.not_eq_true', decide_eq_true_eq]
    exact after
  refine (if_neg (not_not_intro message)).trans ?_
  rw [group]
  refine (if_neg (not_not_intro arming)).trans ?_
  rw [decided]
  exact (if_pos closed).trans (if_pos wins)

end
end

/-- A member that can arm confirms, and arms at the tick. -/
theorem doGroupArmReceive_of_ready {u : State} {p : Packet} {m : Fin 16} {g : AcqDef} {x : MatrixCfg} (message : isPacket p ptTrig 3 = true)
    (group : groupAt u (trigGroup p) (fun d => d.masterDid = p.srcDid) = some m) (idle : u.squall.ats[m].armed = false) (fits : recordFits u m = true)
    (def_ : u.squall.ats[m].def_ = some g) (matrix : u.squall.ats[m].matrix = some x) (term : x.term1.any (· ≠ 0) = true)
    (ready : sourcesReady u g = true) (ahead : u.clk.tick < p.addr.toNat) : doGroupArmReceive p u =
      (fun v => sendTrig m 5 p.srcDid p.tag.toNat p.addr.toNat 0 [] { v with squall := { v.squall with pendingArms := v.squall.pendingArms ++ [⟨none, 2 ^ m.val, p.addr.toNat, false⟩] } })
        (setAt m (fun a => { a with armSeq := p.tag.toNat, settle := u32At p.payload 0, hops := u16At p.payload 4, members := (List.range (u16At p.payload 6)).map fun i => (⟨u16At p.payload (8 + 2 * i), 0, true, 0⟩ : Member) }) u) := by
  refine (if_neg (not_not_intro message)).trans ?_
  rw [group]
  refine if_neg (not_or.2 ⟨not_not_intro ?_, not_le.2 ahead⟩)
  rw [idle, fits, def_, matrix]
  dsimp only
  rw [term, ready]
  rfl

theorem doGroupDisarmReceive_of_armed {u : State} {p : Packet} {m : Fin 16} (message : isPacket p ptTrig 4 = true)
    (group : groupAt u (trigGroup p) (fun d => d.masterDid = p.srcDid) = some m) (arming : u.squall.ats[m].armSeq = p.tag.toNat)
    (armed : u.squall.ats[m].armed = true) : doGroupDisarmReceive p u =
      (fun v => { v with squall := { v.squall with pendingDisarms := v.squall.pendingDisarms ++ [⟨none, 2 ^ m.val, p.addr.toNat, p.addr.toNat + decisionBound v u.squall.ats[m], 0⟩] } })
        (beginDisarm m p.addr.toNat (bit (u8At p.payload 0) 0) { u with squall := { u.squall with pendingArms := u.squall.pendingArms.filter fun x => !bit x.mask m.val } }) := by
  refine (if_neg (not_not_intro message)).trans ?_
  rw [group]
  refine (if_neg (not_not_intro arming)).trans ((if_pos armed).trans ((if_neg (List.cons_ne_nil m [])).trans ?_))
  rw [← ofBits_one]
  rfl

/-- Settles O41, with a clause for each row and case. -/
theorem groupMessagesAreTaken : Obligations.GroupMessagesAreTaken := by
  refine ⟨?_, ?_, ?_, ?_, ?_, ?_, ?_, ?_, ?_⟩
  · rintro s n p u m v comes message request master rfl
    exact next_arrives comes (doGroupRegistration_of_request message request master)
  · rintro s n p u m c g v comes message answer asked found registering rfl
    refine next_arrives comes ((doGroupRegistration_of_answer message answer asked found registering).trans ?_)
    unfold putDefinition
    rw [setAt_setAt]
  · intro s n p u comes message
    exact next_arrives comes (if_neg (not_not_intro message))
  · intro s n p u m comes message group arming armed undecided
    exact next_arrives comes ((doGroupFireReceive_of_undecided message group arming undecided).trans (if_neg (not_not_intro armed)))
  · intro s n p u m comes message group tooLate
    refine next_arrives comes ?_
    by_cases arming : u.squall.ats[m].armSeq = p.tag.toNat
    · obtain ⟨idle, undecided⟩ := tooLate.resolve_left (not_not_intro arming)
      exact (doGroupFireReceive_of_undecided message group arming undecided).trans (if_pos (ne_true_of_eq_false idle))
    · exact doGroupFireReceive_of_other message group arming
  · intro s n p u m w comes message group arming decided after wins
    exact next_arrives comes (doGroupFireReceive_of_decided message group arming decided after wins)
  · rintro s n p u m g x v comes message group idle fits def_ matrix term ready ahead rfl
    exact next_arrives comes (doGroupArmReceive_of_ready message group idle fits def_ matrix term ready ahead)
  · rintro s n p u m v comes message group arming armed rfl
    exact next_arrives comes (doGroupDisarmReceive_of_armed message group arming armed)
  · intro s n p u m comes message group arming
    refine next_arrives comes ((if_neg (not_not_intro message)).trans ?_)
    rw [group]
    exact if_pos arming

end Sys2Proof.GroupMessages
end

section
/-! A root without a DID keeps its numbering when a neighbour assigns it one (R350, R351). -/

namespace Sys2Proof.UnassignedRoot

open Sys2Proof Sys2Proof.Machine Sys2Proof.Claims Sys2Proof.Laws

/-- A device that is marked as root but UNASSIGNED, with one port that is up. -/
def rootState : State :=
  { State.reset with link := { Link.reset with isRoot := true, ports := Link.reset.ports.set 0 { Port.reset with state := .active } } }

/-- ASSIGN from a neighbour, of an enumeration whose root has the serial number 1. -/
def assign : Packet :=
  { type := 7, bcast := false, ackReq := false, neighbour := true, dstDid := 0, srcDid := 0, tag := 0, subtype := 1, hops := 0, addr := 1, aux := 0, payload := [] }

/-- The conflict of two roots comes before the question whether the device has a DID: its own serial number is lower, so nothing changes. -/
theorem doAssign_root : doAssign 0 assign rootState = rootState := by rfl

theorem takeAssign_assigned : (takeAssign 0 assign rootState).link.assigned = true := by decide +kernel

/-- Refutes O40: the clause of an UNASSIGNED device does not say that it is no root, and a root without a DID whose serial number is the
lower keeps its state. -/
theorem not_devicesAreNumberedAndHealed : ¬ Obligations.DevicesAreNumberedAndHealed := by
  rintro ⟨-, takes, -⟩
  have comes : Arrives rootState rootState 0 assign := ⟨rfl, rfl, .inr ⟨rfl, rfl, .inr (.inl rfl)⟩⟩
  have taken : arrives 0 assign (doAssign 0 assign) rootState = takeAssign 0 assign rootState :=
    Host.Outcome.next.inj (takes rootState 0 assign rootState comes rfl rfl rfl)
  rw [LinkPackets.arrives_eq comes, doAssign_root] at taken
  have unassigned := congrArg (fun t : State => t.link.assigned) taken
  exact absurd (unassigned.trans takeAssign_assigned) (by decide)

end Sys2Proof.UnassignedRoot
end

section
/-! Tiles that fail: abandon, restart, watchdog, scrub, re-placement and backfill (R157 to R161, R168, R170, R171, R184 to R186). -/

namespace Sys2Proof.TileRecovery

open Sys2Proof Sys2Proof.Machine Sys2Proof.Claims Sys2Proof.Laws Sys2Proof.Rows

/-! ## Abandon -/

theorem notNone_of_isSome {α : Type} {o : Option α} (there : o.isSome = true) : ¬ o.isNone = true :=
  fun gone => Option.isSome_iff_ne_none.1 there (Option.isNone_iff_eq_none.1 gone)

/-- A control-store word that flips on its way. -/
def upset (n : Fin 20) (got flips : Nat) (s : State) : State := if flips = 0 ∨ controlWords ≤ got then s else upsetWord n got flips s

/-- Flipped bits change the tile's error counts alone. -/
theorem upset_tile (n : Fin 20) (got flips : Nat) (s : State) : ∃ e, (upset n got flips s).tiles[n] = { s.tiles[n] with csErrors := e } := by
  unfold upset
  split
  · exact ⟨_, rfl⟩
  · exact ⟨_, QueueEntries.vmod_self _ _ _⟩

section
variable {s : State} {n : Fin 20} {causes all : List Nat} {offset addr got flips : Nat} (healthy : s.tiles[n].healthy = true)
  (steady : s.tiles[n].restarting = false) (faultless : s.tiles[n].seq.faults = [])
  (raised : all = causes.filter fun c => decide (1 ≤ c ∧ c ≤ 6) && (c ≠ 5 || !fetchPasses (upset n got flips s) n addr got)) (some_ : all ≠ [])
include healthy steady faultless raised some_

/-- An abandon goes by its causes and by whether the tile runs. -/
theorem doRoutineAbandon_eq : doRoutineAbandon n causes offset addr got flips s =
    if s.tiles[n].running.isNone = true then
      setTile n (fun t => { t with pendingCauses := t.pendingCauses ++ all }) (if all.contains 5 = true then repairWord n got (upset n got flips s) else upset n got flips s)
    else if all.contains 5 = true ∧ s.tiles[n].lastFailAddr = some addr then fenceTile n 4 (setTile n (·.counted all) (upset n got flips s))
    else abandonRun n all (s.tiles[n].failIndex offset) (setTile n (fun t => { t with lastFailAddr := if all.contains 5 then some addr else none })
      (if all.contains 5 = true then repairWord n got (upset n got flips s) else upset n got flips s)) := by
  obtain ⟨e, tile⟩ := upset_tile n got flips s
  have causes_eq : abandonCauses (upset n got flips s) n causes addr got = all := by
    unfold abandonCauses
    rw [tile]
    dsimp only
    rw [faultless, List.append_nil, raised]
  unfold doRoutineAbandon
  rw [show (if flips = 0 ∨ controlWords ≤ got then s else upsetWord n got flips s) = upset n got flips s from rfl]
  dsimp only
  rw [causes_eq, tile]
  dsimp only
  rw [faultless]
  refine if_neg ?_
  rintro (ill | restarts | none)
  · exact ill healthy
  · exact absurd restarts (ne_true_of_eq_false steady)
  · exact some_ none

end

/-! ## Restart -/

section
variable {s u : State} {n : Fin 20} {x : Share} (runs : s.tiles[n].runningShare = some x) (restarts : s.tiles[n].restarting = true)
  (fresh : u = setTile n (fun t => { t with batch := [] }) (Machine.pass 2 s))
include runs restarts fresh

theorem doRoutineRestart_eq : doRoutineRestart n s =
    if batchOf u x = [] then setTile n (fun t => { t.stopRun with state := .idle }) u
    else if s.tiles[n].lastFailIndex.isSome = true then raise (0x401 + n.val * 0x10) [.h n.val, .q (s.tiles[n].lastFailIndex.getD 0)] (startRun n x (batchOf u x) u)
    else startRun n x (batchOf u x) u := by
  subst fresh
  unfold doRoutineRestart
  extract_lets t
  rw [show t.runningShare = some x from runs]
  exact if_neg (not_not_intro restarts)

end

/-- A restarted run: its batch begins afresh at the routine's entry, and nothing but the clock and the tile has changed. -/
theorem restarted_of_startRun (s : State) (n : Fin 20) (x : Share) (batch : List Nat) :
    let t := startRun n x batch (setTile n (fun t => { t with batch := [] }) (Machine.pass 2 s))
    t.clk = (Machine.pass 2 s).clk ∧ t.tiles[n].restarting = false ∧ t.tiles[n].batch = batch ∧ t.tiles[n].units = [] ∧
      t.tiles[n].readIssued = 0 ∧ t.tiles[n].state = .running ∧ t.tiles[n].seq.upc = entryOf s (routineOfShare s x) ∧
      t.tiles[n].shares = s.tiles[n].shares ∧ (∀ m : Fin 20, m ≠ n → t.tiles[m] = s.tiles[m]) ∧ t = { s with clk := t.clk, tiles := t.tiles } := by
  extract_lets t
  have others : ∀ m : Fin 20, m ≠ n → t.tiles[m] = s.tiles[m] := fun m other =>
    (IdleSteps.setTile_of_ne other _ _).trans (IdleSteps.setTile_of_ne other _ _)
  have before := IdleSteps.setTile_self n (fun t => { t with batch := [] }) (Machine.pass 2 s)
  have own : t.tiles[n] = _ := IdleSteps.setTile_self n _ (setTile n (fun t => { t with batch := [] }) (Machine.pass 2 s))
  have shares : t.tiles[n].shares = s.tiles[n].shares := by
    rw [own]
    exact (congrArg Tile.shares before :)
  exact ⟨rfl, congrArg Tile.restarting own, congrArg Tile.batch own, congrArg Tile.units own, congrArg Tile.readIssued own, congrArg Tile.state own,
    (congrArg (fun q : Tile => q.seq.upc) own).trans rfl, shares, others, rfl⟩

/-! ## The background check -/

theorem doControlStoreScrubCheck_eq {s : State} {n : Fin 20} {addr got flips : Nat} (healthy : s.tiles[n].healthy = true) (known : addr < 8192) :
    doControlStoreScrubCheck n addr got flips s =
      if fetchPasses (upset n got flips s) n addr got = true then
        setTile n (fun t => { t with scrubFails := t.scrubFails.filter (· ≠ addr) }) (upset n got flips s)
      else if s.tiles[n].scrubFails.contains addr = true then
        fenceTile n 4 (setTile n (fun t => { t with scrubFails := t.scrubFails.filter (· ≠ addr) }) (upset n got flips s))
      else repairWord n got (setTile n (fun t => { t with scrubFails := t.scrubFails ++ [addr] }) (upset n got flips s)) := by
  obtain ⟨e, tile⟩ := upset_tile n got flips s
  have size : controlWords = 8192 := rfl
  unfold doControlStoreScrubCheck
  rw [if_neg (not_or.2 ⟨not_not_intro healthy, by rw [size]; omega⟩),
    show (if flips = 0 ∨ controlWords ≤ got then s else upsetWord n got flips s) = upset n got flips s from rfl]
  dsimp only
  rw [tile]

/-! ## Re-placement -/

theorem replaceTile_of_one {s : State} {n : Fin 20} {x : Share} (fenced : s.tiles[n].state = .fenced) (one : s.tiles[n].shares = [x]) :
    replaceTile n s = replaceOne n x s := by
  refine (if_neg (not_not_intro fenced)).trans ?_
  rw [one]
  rfl

theorem takeOff_of_one {s : State} {n : Fin 20} {x : Share} (one : s.tiles[n].shares = [x]) :
    takeOff n x s = setTile n (fun t => { t with shares := [] }) s := by
  have none_left : s.tiles[n].shares.erase x = [] := by
    rw [one]
    exact List.erase_cons_head x []
  exact congrArg (fun l => { s with tiles := s.tiles.set n { s.tiles[n] with shares := l } }) none_left

/-- A fenced tile is open to no share, whatever it holds. -/
theorem openTiles_takeOff {s : State} {n : Fin 20} (fenced : s.tiles[n].state = .fenced) (x : Share) (mask foot : Nat) (poweredOnly : Bool) :
    openTiles (takeOff n x s) mask foot poweredOnly = openTiles s mask foot poweredOnly := by
  unfold openTiles
  refine List.filterMap_congr fun m _ => ?_
  by_cases own : m = n
  · subst own
    have tile : (takeOff m x s).tiles[m] = { s.tiles[m] with shares := s.tiles[m].shares.erase x } := QueueEntries.vmod_self _ _ _
    have ill : ∀ t : Tile, t.state = .fenced → t.healthy = false := fun t h => by
      unfold Tile.healthy
      rw [h]
      rfl
    dsimp only
    rw [if_neg, if_neg]
    · rintro ⟨-, healthy, -⟩
      exact absurd healthy (ne_true_of_eq_false (ill _ fenced))
    · rintro ⟨-, healthy, -⟩
      rw [tile] at healthy
      exact absurd healthy (ne_true_of_eq_false (ill _ fenced))
  · have tile : (takeOff n x s).tiles[m] = s.tiles[m] := QueueEntries.vmod_of_ne _ _ own
    rw [tile]
    rfl

theorem replaceOne_of_main {s : State} {n : Fin 20} {x : Share} {tk : Task} (main : x.role = srMain) (task : findTask s x.task = some tk)
    (room : x.sixteenths ≤ ((chooseWhat s x.sixteenths tk.footprint true).map Prod.snd).sum) : replaceOne n x s =
      replaceShare x (chooseWhat s x.sixteenths tk.footprint true) 4 ((tk.backfill.map (·.cause)).getD 4) (takeOff n x s) := by
  have foot : shareFoot s x = tk.footprint := by
    unfold shareFoot
    rw [main, if_neg (by decide), if_neg (by decide), task]
    exact if_neg (by decide)
  have forward : ¬ x.back = true := by
    unfold Share.back
    rw [main]
    decide
  have cause : (match tk.backfill with | some b => b.cause | none => 4) = (tk.backfill.map (·.cause)).getD 4 := by
    cases tk.backfill <;> rfl
  unfold replaceOne
  rw [if_neg forward, main, if_neg (by decide), if_neg (by decide), if_neg (by decide), task, foot]
  exact (if_pos (.inl room)).trans (congrArg (fun c => replaceShare x _ 4 c _) cause)

theorem replaceOne_of_retro {s : State} {n : Fin 20} {x : Share} (fenced : s.tiles[n].state = .fenced) (retro : x.role = srRetro)
    (closed : openTiles s (2 ^ 20 - 1) (shareFoot s x) false = []) :
    replaceOne n x s = publishTask x.task (stopResidues x.task x [0] 4 none (takeOff n x s)) := by
  have forward : ¬ x.back = true := by
    unfold Share.back
    rw [retro]
    decide
  unfold replaceOne
  rw [if_neg forward, retro, if_neg (by decide), if_neg (by decide), if_pos rfl]
  dsimp only
  rw [openTiles_takeOff fenced, closed]

/-! ## The obligation -/

/-- Settles O25, with a clause for each row and case. -/
theorem tilesRecoverOrAreFenced : Obligations.TilesRecoverOrAreFenced := by
  refine ⟨?_, ?_, ?_, ?_, ?_, ?_, ?_, ?_, ?_, ?_, ?_, ?_, ?_, ?_, ?_, ?_⟩
  · rintro s n causes all offset addr got flips v rfl healthy steady faultless raised some_ runs plain
    refine congrArg Host.Outcome.next ((doRoutineAbandon_eq healthy steady faultless raised some_).trans ?_)
    have notFive : ¬ all.contains 5 = true := fun h => plain (List.contains_iff_mem.1 h)
    rw [if_neg (notNone_of_isSome runs), if_neg fun h => notFive h.1, if_neg notFive, if_neg notFive]
    rfl
  · rintro s n causes all offset addr got flips v rfl healthy steady faultless raised some_ runs five other
    refine congrArg Host.Outcome.next ((doRoutineAbandon_eq healthy steady faultless raised some_).trans ?_)
    have isFive : all.contains 5 = true := List.contains_iff_mem.2 five
    rw [if_neg (notNone_of_isSome runs), if_neg fun h => other h.2, if_pos isFive, if_pos isFive]
    rfl
  · rintro s n causes all offset addr got flips v rfl healthy steady faultless raised some_ runs five again
    refine congrArg Host.Outcome.next ((doRoutineAbandon_eq healthy steady faultless raised some_).trans ?_)
    exact (if_neg (notNone_of_isSome runs)).trans (if_pos ⟨List.contains_iff_mem.2 five, again⟩)
  · rintro s n causes all offset addr got flips v rfl healthy steady faultless raised some_ idle plain
    refine congrArg Host.Outcome.next ((doRoutineAbandon_eq healthy steady faultless raised some_).trans ?_)
    rw [if_pos (Option.isNone_iff_eq_none.2 idle), if_neg fun h => plain (List.contains_iff_mem.1 h)]
    rfl
  · rintro s n causes all offset addr got flips v rfl healthy steady faultless raised some_ idle five
    refine congrArg Host.Outcome.next ((doRoutineAbandon_eq healthy steady faultless raised some_).trans ?_)
    rw [if_pos (Option.isNone_iff_eq_none.2 idle), if_pos (List.contains_iff_mem.2 five)]
    rfl
  · rintro s n x u runs restarts rfl some_ fresh
    have first : ¬ s.tiles[n].lastFailIndex.isSome = true := by
      rw [fresh]
      exact Bool.false_ne_true
    exact ⟨_, congrArg Host.Outcome.next ((doRoutineRestart_eq runs restarts rfl).trans ((if_neg some_).trans (if_neg first))), restarted_of_startRun s n x _⟩
  · rintro s n x u k runs restarts rfl some_ again
    refine congrArg Host.Outcome.next ((doRoutineRestart_eq runs restarts rfl).trans ((if_neg some_).trans ?_))
    rw [again]
    exact if_pos rfl
  · rintro s n x u runs restarts rfl none_
    exact congrArg Host.Outcome.next ((doRoutineRestart_eq runs restarts rfl).trans (if_pos none_))
  · intro s n runs steady
    exact congrArg Host.Outcome.next (if_pos ⟨runs, ne_true_of_eq_false steady⟩)
  · rintro s n addr got flips v healthy known rfl fails first
    exact congrArg Host.Outcome.next ((doControlStoreScrubCheck_eq healthy known).trans
      ((if_neg (ne_true_of_eq_false fails)).trans (if_neg fun h => first (List.contains_iff_mem.1 h))))
  · rintro s n addr got flips v healthy known rfl fails again
    exact congrArg Host.Outcome.next ((doControlStoreScrubCheck_eq healthy known).trans
      ((if_neg (ne_true_of_eq_false fails)).trans (if_pos (List.contains_iff_mem.2 again))))
  · rintro s n addr got flips v healthy known rfl passes
    exact congrArg Host.Outcome.next ((doControlStoreScrubCheck_eq healthy known).trans (if_pos passes))
  · intro s n fenced
    exact congrArg Host.Outcome.next (if_neg (not_not_intro fenced))
  · intro s n x tk fenced one main task room
    refine congrArg Host.Outcome.next ((replaceTile_of_one fenced one).trans ?_)
    rw [replaceOne_of_main main task room, takeOff_of_one one]
  · intro s n x fenced one retro closed
    refine congrArg Host.Outcome.next ((replaceTile_of_one fenced one).trans ?_)
    rw [replaceOne_of_retro fenced retro closed, takeOff_of_one one]
  · intro s id k b task backfill indices fine
    refine congrArg Host.Outcome.next ?_
    unfold doBackfillComplete
    rw [task]
    dsimp only
    rw [backfill]
    exact if_neg (not_or.2 ⟨not_not_intro indices, not_not_intro fine⟩)

end Sys2Proof.TileRecovery
end

section
/-! Groups, the TRIG pins and the copier: time-outs, the deadline and the tick of a group arm, the decision, edges, pulses and copied items
(R203, R214, R222, R224, R226, R227, R241, R242). -/

namespace Sys2Proof.GroupsAndCopies

open Sys2Proof Sys2Proof.Machine Sys2Proof.Claims Sys2Proof.Laws Sys2Proof.Rows Sys2Proof.EventLinks

/-! ## The winner of a round -/

/-- One fire is before another: earlier, or at one tick from a DID that is not higher. -/
def Beats (a b : GroupFire) : Prop := a.tick < b.tick ∨ (a.tick = b.tick ∧ a.did ≤ b.did)

/-- The better of two fires. -/
def better (a b : GroupFire) : GroupFire := if b.tick < a.tick ∨ (b.tick = a.tick ∧ b.did < a.did) then b else a

theorem Beats.refl (a : GroupFire) : Beats a a := .inr ⟨rfl, Nat.le_refl _⟩

theorem Beats.trans {a b c : GroupFire} (h : Beats a b) (g : Beats b c) : Beats a c := by
  unfold Beats at *
  omega

theorem better_beats (a b : GroupFire) : Beats (better a b) a ∧ Beats (better a b) b := by
  unfold better Beats
  split <;> omega

theorem better_mem (a b : GroupFire) : better a b = a ∨ better a b = b := by
  unfold better
  split
  · exact .inr rfl
  · exact .inl rfl

theorem foldl_better (l : List GroupFire) (x : GroupFire) :
    (l.foldl better x = x ∨ l.foldl better x ∈ l) ∧ Beats (l.foldl better x) x ∧ ∀ f ∈ l, Beats (l.foldl better x) f := by
  induction l generalizing x with
  | nil => exact ⟨.inl rfl, Beats.refl x, fun f h => absurd h List.not_mem_nil⟩
  | cons y l ih =>
    obtain ⟨from_, first, all⟩ := ih (better x y)
    obtain ⟨beatsX, beatsY⟩ := better_beats x y
    refine ⟨?_, first.trans beatsX, fun f mem => ?_⟩
    · rcases from_ with same | mem
      · rcases better_mem x y with isX | isY
        · exact .inl (same.trans isX)
        · exact .inr (List.mem_cons.2 (.inl (same.trans isY)))
      · exact .inr (List.mem_cons_of_mem y mem)
    · rcases List.mem_cons.1 mem with rfl | mem
      · exact first.trans beatsY
      · exact all f mem

/-- The winner of a round is one of its fires, and no fire is before it. -/
theorem winnerOf_spec {round : List GroupFire} {w : GroupFire} (wins : winnerOf round = some w) : w ∈ round ∧ ∀ f ∈ round, Beats w f := by
  cases round with
  | nil => exact absurd wins (by simp [winnerOf])
  | cons x l =>
    have value : l.foldl better x = w := Option.some.inj wins
    obtain ⟨from_, first, all⟩ := foldl_better l x
    rw [value] at from_ first all
    refine ⟨List.mem_cons.2 from_, fun f mem => ?_⟩
    rcases List.mem_cons.1 mem with rfl | mem
    · exact first
    · exact all f mem

/-- Reporting suppressed fires leaves the DID. -/
theorem did_suppressed (m : Fin 16) (w : GroupFire) (lost : List GroupFire) (s : State) :
    (forL lost (fun f v => raiseAt (evAt m 5) f.tick [.h m.val, .h w.did, .q w.tick] v) s).link.did = s.link.did := by
  induction lost generalizing s with
  | nil => rfl
  | cons f lost ih =>
    have one : (raiseAt (evAt m 5) f.tick [.h m.val, .h w.did, .q w.tick] s).link.did = s.link.did :=
      (congrArg Link.did (unmoved_raiseW unmoved_linkRest _ f.tick 1 0 _ s)).trans rfl
    exact (ih _).trans one

/-! ## A registration -/

theorem doGroupRegistrationTimeout_eq {s : State} {m : Fin 16} {id : Nat} {c : Cmd} {g : AcqDef} (waits : s.squall.ats[m].registerCmd = some id)
    (def_ : s.squall.ats[m].registering = some g) (found : findCmd s id = some c) :
    doGroupRegistrationTimeout m s = complete c stLink 0 0 g.masterDid (setAt m (fun a => { a with registerCmd := none, registering := none })
      (waitUp (s.squall.ats[m].registerAt + 1280000) s)) := by
  have ms : msTicks = 1280000 := rfl
  unfold doGroupRegistrationTimeout
  rw [waits, ms]
  obtain ⟨k, value, -, -⟩ := waitUp_eq (s.squall.ats[m].registerAt + 1280000) s
  rw [value]
  dsimp only
  rw [def_]
  have kept : findCmd (setAt m (fun a => { a with registerCmd := none, registering := none }) { s with clk := k }) id = some c := found
  rw [kept]

/-! ## A group arm -/

/-- Waiting changes the clock alone, and in the same way whatever Squall holds. -/
theorem waitTick_squall (at_ : Nat) (s : State) :
    ∃ k, waitTick at_ s = { s with clk := k } ∧ ∀ q, waitTick at_ { s with squall := q } = { s with clk := k, squall := q } :=
  ⟨(waitTick at_ s).clk, rfl, fun _ => rfl⟩

theorem deadline_eq (p : PendingArm) : p.deadline = p.tick - 12800 := rfl

theorem armDeadline_of_confirmed {p : PendingArm} {id : Nat} {s : State} (confirmed : unconfirmed (groupsOf p.mask s) s = []) :
    armDeadline p id s = passDeadline p s := by
  unfold armDeadline
  dsimp only
  rw [confirmed]

theorem armDeadline_of_missing {p : PendingArm} {id d : Nat} {l : List Nat} {s : State} (missing : unconfirmed (groupsOf p.mask s) s = d :: l) :
    armDeadline p id s = rejectArm p (groupsOf p.mask s) id d s := by
  unfold armDeadline
  dsimp only
  rw [missing]

/-- An arm that is given up tells the other members, and fails its command. -/
theorem rejectArm_of_found {p : PendingArm} {groups : List (Fin 16)} {id d : Nat} {s : State} {c : Cmd}
    (found : findCmd (forL groups (fun g v => forL (v.squall.ats[g].members.filter (·.did ≠ v.link.did)) (fun x v =>
      sendTrig g 4 x.did v.squall.ats[g].armSeq v.clk.tick 0 [] v) v) (dropPendingArm p s)) id = some c) :
    rejectArm p groups id d s = complete c stLink 0 0 d (forL groups (fun g v => forL (v.squall.ats[g].members.filter (·.did ≠ v.link.did))
      (fun x v => sendTrig g 4 x.did v.squall.ats[g].armSeq v.clk.tick 0 [] v) v) (dropPendingArm p s)) := by
  unfold rejectArm
  dsimp only
  rw [found]

/-! ## The pins -/

/-- A pulse that rises puts its edges on its pins, and changes nothing else. -/
theorem forL_mergePulse (p : OutPulse) (l : List Nat) (s : State) :
    forL l (fun b s => { s with squall := { s.squall with outEdges := mergePulse ⟨0, 2 ^ b, p.rise, p.fall, false⟩ s.squall.outEdges } }) s =
      { s with squall := { s.squall with outEdges := l.foldl (fun e b => mergePulse ⟨0, 2 ^ b, p.rise, p.fall, false⟩ e) s.squall.outEdges } } := by
  induction l generalizing s with
  | nil => rfl
  | cons b l ih => exact ih _

/-- A pulse that has risen: it has left the schedule, and its edges are on its pins. -/
def risen (p : OutPulse) (s : State) : State :=
  let u := waitTick p.rise { s with squall := { s.squall with pulses := s.squall.pulses.erase p } }
  { u with squall := { u.squall with
      outEdges := (setBits p.mask 4).foldl (fun e b => mergePulse ⟨0, 2 ^ b, p.rise, p.fall, false⟩ e) s.squall.outEdges } }

theorem doTrigOutPulse_eq {s : State} {m : Fin 16} {p : OutPulse} (pulse : s.squall.pulses.find? (fun x => decide (x.at_ = m.val)) = some p) :
    doTrigOutPulse m s = if p.late then raise 0x700 [.h m.val, .since] (setAt m (fun a => { a with outLate := satN 32 (a.outLate + 1) }) (risen p s))
      else risen p s := by
  unfold doTrigOutPulse
  rw [pulse]
  dsimp only
  rw [forL_mergePulse]
  rfl

/-! ## The copier -/

/-- One chunk of one item of a source that has one to move. -/
theorem copyChunk_one {s t : State} {no i : Nat} (moved : moveCopy no i s = t) : copyChunk no i 0 s = acqCheckComplete no (publishFinal no i t) :=
  congrArg (fun t => acqCheckComplete no (publishFinal no i t)) moved

section
variable {s : State} {no i : Nat} {q : Acquisition} {c : SourceCopy} (found : findAcq s no = some q) (source : (q.sources.drop i).head? = some c)
  (open_ : c.done = false)
include found source open_

/-- A source before its trigger, oldest first, that has an item. -/
theorem moveCopy_oldest_item {x : CopyItem} (forward : c.newestFirst = false) (before : c.low < min c.trig (sourceStop s q c c.stop))
    (item : c.read s q.def_ c.low = .item x) : moveCopy no i s = takeItem no i x (fun c => { c with low := c.low + max 1 q.def_.d }) s := by
  obtain ⟨tail, split⟩ : ∃ tail, q.sources.drop i = c :: tail := List.head?_eq_some_iff.1 source
  unfold moveCopy
  rw [found]
  dsimp only
  rw [split]
  dsimp only
  rw [if_neg (ne_true_of_eq_false open_), if_pos ⟨ne_true_of_eq_false forward, before⟩, item]

/-- A source before its trigger that the overwrite front has caught goes on newest first. -/
theorem moveCopy_oldest_front (forward : c.newestFirst = false) (before : c.low < min c.trig (sourceStop s q c c.stop))
    (front : c.read s q.def_ c.low = .front) : moveCopy no i s = setSource no i (fun c => { c with newestFirst := true }) s := by
  obtain ⟨tail, split⟩ : ∃ tail, q.sources.drop i = c :: tail := List.head?_eq_some_iff.1 source
  unfold moveCopy
  rw [found]
  dsimp only
  rw [split]
  dsimp only
  rw [if_neg (ne_true_of_eq_false open_), if_pos ⟨ne_true_of_eq_false forward, before⟩, front]

/-- A source before its trigger, newest first, that has an item. -/
theorem moveCopy_newest_item {x : CopyItem} (backward : c.newestFirst = true) (left : c.low < c.high)
    (item : c.read s q.def_ (c.high - max 1 q.def_.d) = .item x) :
    moveCopy no i s = takeItem no i x (fun c => { c with high := c.high - max 1 q.def_.d }) s := by
  obtain ⟨tail, split⟩ : ∃ tail, q.sources.drop i = c :: tail := List.head?_eq_some_iff.1 source
  unfold moveCopy
  rw [found]
  dsimp only
  rw [split]
  dsimp only
  rw [if_neg (ne_true_of_eq_false open_), if_neg fun h => h.1 backward, if_pos ⟨backward, left⟩, item]

/-- A source after its trigger that has an item. -/
theorem moveCopy_post_item {x : CopyItem} (past : (if c.newestFirst then c.high else min c.trig (sourceStop s q c c.stop)) ≤ c.low)
    (left : c.post < min (sourceStop s q c c.stop) (if c.headOut then c.stop else c.headStop)) (item : c.read s q.def_ c.post = .item x) :
    moveCopy no i s = takeItem no i x (fun c => { c with post := c.post + max 1 q.def_.d }) s := by
  obtain ⟨tail, split⟩ : ∃ tail, q.sources.drop i = c :: tail := List.head?_eq_some_iff.1 source
  have notBefore : ¬ (¬ c.newestFirst = true ∧ c.low < min c.trig (sourceStop s q c c.stop)) := by
    rintro ⟨forward, before⟩
    rw [if_neg forward] at past
    omega
  have notNewest : ¬ (c.newestFirst = true ∧ c.low < c.high) := by
    rintro ⟨backward, before⟩
    rw [if_pos backward] at past
    omega
  unfold moveCopy
  rw [found]
  dsimp only
  rw [split]
  dsimp only
  rw [if_neg (ne_true_of_eq_false open_), if_neg notBefore, if_neg notNewest, if_pos left, item]

end

/-! ## The obligation -/

/-- Settles O28, with a clause for each row and case. -/
theorem groupsPinsAndCopiesGoOn : Obligations.GroupsPinsAndCopiesGoOn := by
  refine ⟨?_, ?_, ?_, ?_, ?_, ?_, ?_, ?_, ?_, ?_, ?_, ?_, ?_, ?_, ?_, ?_, ?_⟩
  · intro s m id c g waits def_ found
    refine congrArg Host.Outcome.next ?_
    exact doGroupRegistrationTimeout_eq waits def_ found
  · intro s m p id pending cmd confirmed
    refine congrArg Host.Outcome.next ?_
    unfold doArmDeadline
    rw [pending]
    dsimp only
    rw [cmd]
    rw [deadline_eq]
    obtain ⟨k, value, with_⟩ := waitTick_squall (p.tick - 12800) s
    rw [value, with_]
    exact armDeadline_of_confirmed confirmed
  · rintro s m p id d l c w pending cmd missing rfl found
    refine congrArg Host.Outcome.next ?_
    unfold doArmDeadline
    rw [pending]
    dsimp only
    rw [cmd]
    rw [deadline_eq]
    obtain ⟨k, value, with_⟩ := waitTick_squall (p.tick - 12800) s
    rw [value, with_]
    rw [with_] at found
    exact (armDeadline_of_missing (s := { s with clk := k }) missing).trans (rejectArm_of_found (s := { s with clk := k }) found)
  · intro s m p pending own
    refine congrArg Host.Outcome.next ?_
    unfold doGroupArmTick
    rw [pending]
    dsimp only
    rw [own]
    rfl
  · rintro s m p id c w pending cmd passed rfl found
    refine congrArg Host.Outcome.next ?_
    unfold doGroupArmTick
    rw [pending]
    dsimp only
    rw [if_neg fun h => h.2 passed, cmd]
    dsimp only
    rw [found]
  · rintro s m g w0 w u rearm lost first rfl def_ wins rfl mode rfl
    refine ⟨_, rfl, ?_, winnerOf_spec wins⟩
    unfold doGroupDecision
    rw [first]
    dsimp only
    rw [def_, wins]
    simp only [mode, Nat.reduceEqDiff, ↓reduceIte, false_or, did_suppressed]
    rfl
  · rintro s m g w0 w u rearm lost first rfl def_ wins rfl mode rfl
    refine ⟨_, rfl, ?_, winnerOf_spec wins⟩
    unfold doGroupDecision
    rw [first]
    dsimp only
    rw [def_, wins]
    simp only [mode, Nat.reduceEqDiff, ↓reduceIte, true_or, and_true, did_suppressed]
    rfl
  · rintro s pin rising frac held half l u v free rfl rfl rfl some_ rfl
    refine congrArg Host.Outcome.next ?_
    unfold trigInEdge
    rw [if_neg (ne_true_of_eq_false free)]
    unfold doTrigInEdge
    dsimp only
    rw [if_neg fun h => some_ (List.map_eq_nil_iff.1 h)]
    rfl
  · rintro s pin rising frac held v free rfl none_
    refine congrArg Host.Outcome.next ?_
    unfold trigInEdge
    rw [if_neg (ne_true_of_eq_false free)]
    unfold doTrigInEdge
    dsimp only
    rw [none_]
    simp only [List.map_nil, List.append_nil, ↓reduceIte]
  · intro s pin rising frac held taken
    exact congrArg Host.Outcome.next (if_pos taken)
  · intro s m p pulse onTime
    exact ⟨_, congrArg Host.Outcome.next ((doTrigOutPulse_eq pulse).trans (if_neg (ne_true_of_eq_false onTime))), rfl, rfl, rfl, rfl⟩
  · intro s m p pulse late
    exact ⟨_, congrArg Host.Outcome.next ((doTrigOutPulse_eq pulse).trans (if_pos late)), risen p s, rfl, rfl, rfl, rfl⟩
  · intro s no i n
    rfl
  · intro s no i q c x found source open_ forward before item
    exact congrArg Host.Outcome.next (copyChunk_one (moveCopy_oldest_item found source open_ forward before item))
  · intro s no i q c found source open_ forward before front
    exact congrArg Host.Outcome.next (copyChunk_one (moveCopy_oldest_front found source open_ forward before front))
  · intro s no i q c x found source open_ backward left item
    exact congrArg Host.Outcome.next (copyChunk_one (moveCopy_newest_item found source open_ backward left item))
  · intro s no i q c x found source open_ past left item
    exact congrArg Host.Outcome.next (copyChunk_one (moveCopy_post_item found source open_ past left item))

end Sys2Proof.GroupsAndCopies
end

section
/-! Trigger units, matrices and acquisition triggers are configured, and the queries answer (R207 to R213, R222, R229, R230, R245, R246). -/

namespace Sys2Proof.TriggerConfig

open Sys2Proof Sys2Proof.Machine Sys2Proof.Claims Sys2Proof.Laws Sys2Proof.Rows

/-- Checks that pass in a row pass in two parts. -/
theorem passes_append {l r : List Check} (passes : Passes (l ++ r)) : Passes l ∧ Passes r := by
  induction l with
  | nil => exact ⟨rfl, passes⟩
  | cons x l ih =>
    cases x with
    | none => exact ih passes
    | some f => exact absurd passes (by simp [Passes, firstFail])

section
variable {s u : State} {c : Cmd}

/-! ## Units -/

section
variable {k : Fin 32} (due : u = squallDue s) (unit : c.p8 0x08 = k.val)
  (passes : Passes [entryCheck c ([(0x08, 1), (0x09, 1), (0x0A, 2), (0x0C, 4), (0x10, 8), (0x18, 2), (0x1C, 4)] ++ kindFields (c.p8 0x09))
    [(0x0A, decide (c.p16 0x0A = 0)), (0x08, true)], deviceCheck u c, needState (!unitInUse u k), unitParams u k c])
include due unit passes

/-- A unit's entry that passes its checks goes on by its kind. -/
theorem doTrigUnitConfig_eq (points : HostRead) : doTrigUnitConfig points c s =
    if (unitCfgOf c).kind = tkFmask then withBuffer c points (fun d s =>
      checked c [pointChecks (match findTask s (unitCfgOf c).source with | some t => t.coarseBins | none => 0) (c.p16 0x20) (c.p16 0x22) d] (fun s =>
        done c 0 0 (configureUnit k { unitCfgOf c with
          upperMask := maskPoints d 0 (c.p16 0x20), lowerMask := maskPoints d (c.p16 0x20) (c.p16 0x22) } s)) s) u
    else done c 0 0 (configureUnit k (unitCfgOf c) u) := by
  subst due
  obtain ⟨entry, own⟩ := passes_append (l := [_, _]) passes
  have inRange : decide (k.val < 32) = true := decide_eq_true k.isLt
  unfold doTrigUnitConfig
  dsimp only
  rw [unit, inRange, show firstFail _ = none from entry]
  dsimp only
  rw [unitIndex_val]
  exact checked_eq own rfl

end

theorem doTrigUnitQuery_eq {k : Fin 32} (unit : c.p8 0x08 = k.val)
    (passes : Passes [params [(0x08, true), (0x10, aligned64 (c.p64 0x10))], deviceCheck s c]) :
    doTrigUnitQuery c s = done c 0 0 (writeBlock c (c.p64 0x10) (unitStatus k s.squall.units[k]) s) := by
  have inRange : decide (k.val < 32) = true := decide_eq_true k.isLt
  unfold doTrigUnitQuery
  rw [unit, inRange]
  refine checked_eq passes ?_
  rw [unitIndex_val]

/-! ## Matrices -/

theorem doTrigMatrixConfig_eq {m : Fin 16} (due : u = squallDue s) (at_ : c.p8 0x08 = m.val)
    (passes : Passes [entryCheck c [(0x08, 1), (0x09, 1), (0x0A, 1), (0x0C, 4), (0x10, 32), (0x30, 4), (0x34, 2), (0x38, 4)]
        [(0x08, true), (0x09, decide (c.p8 0x09 % 128 < 4))], deviceCheck u c, needState (!u.squall.ats[m].armed),
      params [(0x09, bit (c.p8 0x09) 0 || (fourWords c 0x20).all (· = 0)), (0x0A, decide (c.p8 0x0A < 16)), (0x0C, decide (c.p32 0x0C ≤ 1048576)),
        (0x30, !bit (c.p8 0x09) 0 || decide (1 ≤ c.p32 0x30))]]) :
    doTrigMatrixConfig c s = done c 0 0 (forL (List.finRange 32) (fun q v => setUnit q (fun x => x.newTerms q.val m.val
        ((u.squall.ats[m].matrix.map (·.slots)).getD [])
        (⟨bit (c.p8 0x09) 0, bit (c.p8 0x09) 1, c.p8 0x0A, c.p32 0x0C, fourWords c 0x10, fourWords c 0x20, c.p32 0x30, c.p16 0x34, c.p32 0x38⟩ : MatrixCfg).slots) v)
      (setAt m (fun a => { a with matrix := some (⟨bit (c.p8 0x09) 0, bit (c.p8 0x09) 1, c.p8 0x0A, c.p32 0x0C, fourWords c 0x10, fourWords c 0x20,
        c.p32 0x30, c.p16 0x34, c.p32 0x38⟩ : MatrixCfg), firstSteps := [], secondSteps := [] }) u)) := by
  subst due
  obtain ⟨entry, own⟩ := passes_append (l := [_, _]) passes
  have inRange : decide (m.val < 16) = true := decide_eq_true m.isLt
  unfold doTrigMatrixConfig
  dsimp only
  rw [at_, inRange, show firstFail _ = none from entry]
  dsimp only
  rw [atIndex_val]
  refine checked_eq own ?_
  cases (squallDue s).squall.ats[m].matrix <;> rfl

theorem doTrigMatrixQuery_eq {m : Fin 16} (due : u = squallDue s) (at_ : c.p8 0x08 = m.val)
    (passes : Passes [params [(0x08, true), (0x10, aligned64 (c.p64 0x10))], deviceCheck u c]) :
    doTrigMatrixQuery c s = done c 0 0 (writeBlock c (c.p64 0x10) (atStatus u m) u) := by
  subst due
  have inRange : decide (m.val < 16) = true := decide_eq_true m.isLt
  unfold doTrigMatrixQuery
  dsimp only
  rw [at_, inRange]
  refine checked_eq passes ?_
  rw [atIndex_val]

/-! ## Definitions -/

section
variable {m : Fin 16} {d : Data} (due : u = squallDue s) (at_ : u8At d 2 = m.val)
  (passes : Passes [entryCheck c [(0x08, 4), (0x10, 8)] [], deviceCheck u c, params [(0x08, decide (c.p32 0x08 = 256)), (0x10, aligned64 (c.p64 0x10))]])
  (sound : Passes [descParams ([(0x00, decide (u16At d 0 = 1)), (0x02, true)] ++ strayBytes d 0x42 0x44 [] ++ strayBytes d 0x50 0x100 []),
    needState (!u.squall.ats[m].armed && u.squall.ats[m].registerCmd.isNone)])
include due at_ passes sound

/-- A descriptor for an AT that is free clears it, or goes on to the checks of a definition. -/
theorem doAcqConfig_eq : doAcqConfig (some d) c s =
    if (acqDefOf d).armMode = 0xFF then done c 0 0 (setAt m (fun a => { a with def_ := none, members := [], round := [], decided := none }) u)
    else checked c [acqChecks u (acqDefOf d), need (retentionFits u m (acqDefOf d)) stNoResource 0] (setDefinition m (acqDefOf d) c) u := by
  subst due
  obtain ⟨desc, free⟩ := passes_append (l := [_]) sound
  have inRange : decide (m.val < 16) = true := decide_eq_true m.isLt
  unfold doAcqConfig
  refine checked_eq passes ?_
  rw [withBuffer_some]
  dsimp only
  rw [at_, inRange, show firstFail _ = none from desc]
  dsimp only
  rw [atIndex_val]
  exact checked_eq free rfl

end

/-- A definition whose checks pass takes effect as its arm mode and its master say. -/
theorem doAcqConfig_of_definition {m : Fin 16} {d : Data} (due : u = squallDue s) (at_ : u8At d 2 = m.val) (some_ : u8At d 3 ≠ 255)
    (passes : Passes [entryCheck c [(0x08, 4), (0x10, 8)] [], deviceCheck u c, params [(0x08, decide (c.p32 0x08 = 256)), (0x10, aligned64 (c.p64 0x10))]])
    (sound : Passes [descParams ([(0x00, decide (u16At d 0 = 1)), (0x02, true)] ++ strayBytes d 0x42 0x44 [] ++ strayBytes d 0x50 0x100 []),
      needState (!u.squall.ats[m].armed && u.squall.ats[m].registerCmd.isNone), acqChecks u (acqDefOf d),
      need (retentionFits u m (acqDefOf d)) stNoResource 0]) :
    doAcqConfig (some d) c s = setDefinition m (acqDefOf d) c u := by
  obtain ⟨desc, own⟩ := passes_append (l := [_, _]) sound
  refine (doAcqConfig_eq due at_ passes desc).trans ((if_neg ?_).trans (checked_eq own rfl))
  exact some_

end

theorem setDefinition_of_local {u : State} {c : Cmd} {m : Fin 16} {g : AcqDef} (local_ : g.armMode < 2) :
    setDefinition m g c u = done c (acqNeed u g) (acqReach u g) (putDefinition m g u) := by
  have alone : g.registers u = false := decide_eq_false fun h => absurd h.1 (by omega)
  exact (if_neg (ne_true_of_eq_false alone)).trans (if_pos local_)

theorem setDefinition_of_master {u : State} {c : Cmd} {m : Fin 16} {g : AcqDef} (group : 2 ≤ g.armMode) (own : g.masterDid = u.link.did) :
    setDefinition m g c u = done c (acqNeed u g) (acqReach u g)
      (registerMember m u.link.did (decisionBound (putDefinition m g u) (putDefinition m g u).squall.ats[m]) 0 (putDefinition m g u)) := by
  have alone : g.registers u = false := decide_eq_false fun h => h.2 own
  refine ((if_neg (ne_true_of_eq_false alone)).trans (if_neg (not_lt.2 group))).trans ?_
  rw [own]

theorem setDefinition_of_member {u : State} {c : Cmd} {m : Fin 16} {g : AcqDef} (group : 2 ≤ g.armMode) (other : g.masterDid ≠ u.link.did) :
    setDefinition m g c u = wait c (sendRegistration g.masterDid g.groupId m.val (decisionBound u u.squall.ats[m]) (BitVec.ofNat 32 c.id) false
      (setAt m (fun a => { a with registerCmd := some c.id, registerAt := u.clk.up, registering := some g }) u)) := by
  have registers : g.registers u = true := decide_eq_true ⟨group, other⟩
  exact if_pos registers

/-! ## The obligation -/

/-- Settles O26, with a clause for each row and case. -/
theorem triggersAndAcquisitionsAreConfigured : Obligations.TriggersAndAcquisitionsAreConfigured := by
  refine ⟨?_, ?_, ?_, ?_, ?_, ?_, ?_, ?_, ?_⟩
  · intro s id c k points u runs passes due unit plain
    exact next_runCmd runs ((doTrigUnitConfig_eq due unit passes points).trans (if_neg plain))
  · intro s id c k d t u runs passes due unit mask task sound
    refine next_runCmd runs ((doTrigUnitConfig_eq due unit passes (some d)).trans ((if_pos mask).trans ?_))
    rw [withBuffer_some, task]
    exact checked_eq sound rfl
  · intro s id c k runs passes unit
    exact next_runCmd runs (doTrigUnitQuery_eq unit passes)
  · intro s id c m u runs passes due at_
    exact next_runCmd runs (doTrigMatrixConfig_eq due at_ passes)
  · intro s id c m u runs passes due at_
    exact next_runCmd runs (doTrigMatrixQuery_eq due at_ passes)
  · intro s id c m d u runs passes due at_ clears sound
    exact next_runCmd runs ((doAcqConfig_eq due at_ passes sound).trans (if_pos clears))
  · intro s id c m d u runs passes due at_ local_ sound
    exact next_runCmd runs ((doAcqConfig_of_definition due at_ (by omega) passes sound).trans (setDefinition_of_local local_))
  · rintro s id c m d u v runs passes due at_ group notClear own sound rfl
    exact next_runCmd runs ((doAcqConfig_of_definition due at_ notClear passes sound).trans (setDefinition_of_master group own))
  · intro s id c m d u runs passes due at_ group notClear other sound
    exact next_runCmd runs ((doAcqConfig_of_definition due at_ notClear passes sound).trans (setDefinition_of_member group other))

end Sys2Proof.TriggerConfig
end

section
/-! What leaves the inlets alone: publication, copies, triggers and acquisitions, density maps, tasks and correlators. Each function's
lemma goes through those of the functions that it calls. -/

namespace Sys2Proof.InletFrame

open Sys2Proof Sys2Proof.Machine Sys2Proof.Claims Sys2Proof.Laws

/-! ## Choices and loops -/

@[simp] theorem inlets_ite {c : Prop} [Decidable c] (a b : State) : (if c then a else b).inlets = if c then a.inlets else b.inlets :=
  apply_ite State.inlets c a b

@[simp] theorem foldl_inlets {α : Type} {f : State → α → State} (step : ∀ s a, (f s a).inlets = s.inlets) (l : List α) (s : State) :
    (l.foldl f s).inlets = s.inlets := by
  induction l generalizing s with
  | nil => rfl
  | cons a l ih => exact (ih (f s a)).trans (step s a)

@[simp] theorem forL_inlets {α : Type} {f : α → State → State} (step : ∀ a s, (f a s).inlets = s.inlets) (l : List α) (s : State) :
    (forL l f s).inlets = s.inlets := foldl_inlets (fun s a => step a s) l s

@[simp] theorem forN_inlets {f : Nat → State → State} (step : ∀ a s, (f a s).inlets = s.inlets) (n : Nat) (s : State) :
    (forN n f s).inlets = s.inlets := forL_inlets step _ s

/-! ## Events, packets, power and the store -/

@[simp] theorem raiseW_inlets (ev tick weight weight2 : Nat) (vals : List Val) (s : State) :
    (raiseW ev tick weight weight2 vals s).inlets = s.inlets := Side_inlets (raiseW_side ev tick weight weight2 vals s (Side_refl s))

@[simp] theorem broadcast_inlets (skip : Option (Fin 4)) (p : Packet) (s : State) : (broadcast skip p s).inlets = s.inlets :=
  Side_inlets (broadcast_side skip p s (Side_refl s))

@[simp] theorem releaseFlow_inlets (owner : Owner) (s : State) : (releaseFlow owner s).inlets = s.inlets :=
  Side_inlets (releaseFlow_side owner s (Side_refl s))

@[simp] theorem takeFree_inlets (s : State) : (takeFree s).2.inlets = s.inlets := rfl

@[simp] theorem scramble_inlets (a n : Nat) (version : Option Nat) (s : State) : (scramble a n version s).inlets = s.inlets := rfl

@[simp] theorem storeWrite_inlets (a : Nat) (d : Data) (s : State) : (storeWrite a d s).inlets = s.inlets := rfl

@[simp] theorem releasePower_inlets (owner : Owner) (s : State) : (releasePower owner s).inlets = s.inlets := by
  unfold releasePower
  simp

@[simp] theorem releaseStore_inlets (owner : Owner) (s : State) : (releaseStore owner s).inlets = s.inlets := by
  unfold releaseStore
  simp

@[simp] theorem releaseAll_inlets (owner : Owner) (s : State) : (releaseAll owner s).inlets = s.inlets := by
  unfold releaseAll
  simp

@[simp] theorem scrambleHistory_inlets (s : State) : (scrambleHistory s).inlets = s.inlets := by
  unfold scrambleHistory
  split <;> simp

/-! ## Streams -/

@[simp] theorem enqueueRecord_inlets (n : Fin 16) (producer : Nat) (rec_ : Data) (addr : Option Nat) (stop : Nat) (s : State) :
    (enqueueRecord n producer rec_ addr stop s).inlets = s.inlets := by
  unfold enqueueRecord
  simp

@[simp] theorem flushGap_inlets (n : Fin 16) (producer : Nat) (s : State) : (flushGap n producer s).inlets = s.inlets := by
  unfold flushGap
  split <;> simp

@[simp] theorem discardRecord_inlets (n : Fin 16) (producer : Nat) (rec_ : Data) (tEnd : Nat) (s : State) :
    (discardRecord n producer rec_ tEnd s).inlets = s.inlets := by
  unfold discardRecord
  simp

@[simp] theorem offerRecord_inlets (n : Fin 16) (producer : Nat) (rec_ : Data) (tEnd : Nat) (addr : Option Nat) (room : Bool) (s : State) :
    (offerRecord n producer rec_ tEnd addr room s).inlets = s.inlets := by
  unfold offerRecord
  simp

@[simp] theorem publish_inlets (stream producer : Nat) (rec_ : Data) (tEnd : Nat) (addr : Option Nat) (room : Bool) (s : State) :
    (publish stream producer rec_ tEnd addr room s).inlets = s.inlets := by
  unfold publish
  split <;> simp

@[simp] theorem overwriteRecords_inlets (a n : Nat) (s : State) : (overwriteRecords a n s).inlets = s.inlets := by
  unfold overwriteRecords
  simp

@[simp] theorem publishSpectra_inlets (stream producer : Nat) (rec_ : Data) (tEnd : Nat) (s : State) :
    (publishSpectra stream producer rec_ tEnd s).inlets = s.inlets := by
  unfold publishSpectra
  split <;> simp

@[simp] theorem beginClose_inlets (n : Fin 16) (reason : Nat) (cmd : Option Nat) (s : State) : (beginClose n reason cmd s).inlets = s.inlets := by
  unfold beginClose
  simp

@[simp] theorem taskEvent_inlets (o : Nat) (vals : List Val) (s : State) : (taskEvent o vals s).inlets = s.inlets := by
  unfold taskEvent
  simp

/-! ## Acquisitions and their copies -/

@[simp] theorem setAcq_inlets (no : Nat) (f : Acquisition → Acquisition) (s : State) : (setAcq no f s).inlets = s.inlets := by
  unfold setAcq
  simp

@[simp] theorem setSource_inlets (no idx : Nat) (f : SourceCopy → SourceCopy) (s : State) : (setSource no idx f s).inlets = s.inlets := by
  unfold setSource
  simp

theorem reclaim_inlets {n a len : Nat} {s t : State} (made : reclaim n a len s = some t) : t.inlets = s.inlets := by
  induction n generalizing s with
  | zero => exact absurd made (by simp [reclaim])
  | succ n ih =>
    unfold reclaim at made
    split at made
    · split at made
      · split at made
        · exact (ih made).trans rfl
        · exact absurd made (by simp)
      · exact absurd made (by simp)
    · exact congrArg State.inlets (Option.some.inj made).symm

theorem allocateAcq_inlets {need a : Nat} {s t : State} (made : allocateAcq need s = some (a, t)) : t.inlets = s.inlets := by
  unfold allocateAcq at made
  split at made
  · exact absurd made (by simp)
  · split at made
    · exact absurd made (by simp)
    · dsimp only at made
      split at made
      next u freed =>
        have same := congrArg Prod.snd (Option.some.inj made)
        have taken := reclaim_inlets freed
        exact (congrArg State.inlets same.symm).trans taken
      next => exact absurd made (by simp)

@[simp] theorem reapAcqs_inlets (s : State) : (reapAcqs s).inlets = s.inlets := by
  unfold reapAcqs
  simp

@[simp] theorem acqPut_inlets (no : Nat) (srcCh : Nat) (rec_ : Data) (stop : Nat) (tail : Bool) (s : State) :
    (acqPut no srcCh rec_ stop tail s).inlets = s.inlets := by
  unfold acqPut
  split <;> simp

@[simp] theorem nextSegment_inlets (no idx srcCh : Nat) (s : State) : (nextSegment no idx srcCh s).inlets = s.inlets := by
  unfold nextSegment
  simp

@[simp] theorem acqPieces_inlets (no idx srcCh : Nat) (h : RecHdr) (q : Acquisition) (c : SourceCopy) (fmt items stop element : Nat) (tail final : Bool) (body : Data) (s : State) :
    (acqPieces no idx srcCh h q c fmt items stop element tail final body s).inlets = s.inlets := by
  unfold acqPieces
  simp

@[simp] theorem acqRun_inlets (no idx srcCh fmt element : Nat) (enc : List CopyItem → Data) (tail final : Bool) (run : List CopyItem) (s : State) :
    (acqRun no idx srcCh fmt element enc tail final run s).inlets = s.inlets := by
  unfold acqRun
  (repeat' split) <;> simp

@[simp] theorem acqSeries_inlets (no idx srcCh fmt element per : Nat) (enc : List CopyItem → Data) (tail final : Bool) (items : List CopyItem) (s : State) :
    (acqSeries no idx srcCh fmt element per enc tail final items s).inlets = s.inlets := by
  unfold acqSeries
  dsimp only
  (repeat' split) <;> simp

@[simp] theorem acqPublish_inlets (no idx : Nat) (tail final : Bool) (items : List CopyItem) (s : State) :
    (acqPublish no idx tail final items s).inlets = s.inlets := by
  unfold acqPublish
  (repeat' split) <;> simp

@[simp] theorem acqCheckComplete_inlets (no : Nat) (s : State) : (acqCheckComplete no s).inlets = s.inlets := by
  unfold acqCheckComplete
  (repeat' split) <;> simp

@[simp] theorem takeItem_inlets (no idx : Nat) (x : CopyItem) (f : SourceCopy → SourceCopy) (s : State) : (takeItem no idx x f s).inlets = s.inlets := by
  unfold takeItem
  simp

@[simp] theorem frontGap_inlets (no idx : Nat) (q : Acquisition) (c : SourceCopy) (a b : Nat) (f : SourceCopy → SourceCopy) (s : State) :
    (frontGap no idx q c a b f s).inlets = s.inlets := by
  unfold frontGap
  split <;> simp

@[simp] theorem headDone_inlets (no idx : Nat) (s : State) : (headDone no idx s).inlets = s.inlets := by
  unfold headDone
  (repeat' split) <;> simp

@[simp] theorem publishFinal_inlets (no idx : Nat) (s : State) : (publishFinal no idx s).inlets = s.inlets := by
  unfold publishFinal
  (repeat' split) <;> simp

@[simp] theorem moveCopy_inlets (no idx : Nat) (s : State) : (moveCopy no idx s).inlets = s.inlets := by
  unfold moveCopy
  dsimp only
  (repeat' split) <;> simp

@[simp] theorem copyStep_inlets (no idx : Nat) (s : State) : (copyStep no idx s).inlets = s.inlets := by
  unfold copyStep
  simp

@[simp] theorem copyChunk_inlets (no idx items : Nat) (s : State) : (copyChunk no idx items s).inlets = s.inlets := by
  unfold copyChunk
  simp

@[simp] theorem advanceTails_inlets (s : State) : (advanceTails s).inlets = s.inlets := by
  unfold advanceTails
  simp

@[simp] theorem dropFire_inlets (q : Acquisition) (s : State) : (dropFire q s).inlets = s.inlets := by
  unfold dropFire
  refine forL_inlets (fun a s => ?_) _ _
  split <;> simp

@[simp] theorem cutAcquisition_inlets (m : Fin 16) (tick frac winner flags : Nat) (s : State) :
    (cutAcquisition m tick frac winner flags s).inlets = s.inlets := by
  unfold cutAcquisition
  split
  · rfl
  · extract_lets no squall u q space v
    have given : ∀ {a : Nat} {t : State}, space = some (a, t) → t.inlets = s.inlets := fun h => by
      unfold space at h
      split at h
      · exact absurd h (by simp)
      · exact (allocateAcq_inlets h).trans rfl
    clear_value space
    rcases space with _ | ⟨a, t⟩
    · exact (dropFire_inlets _ _).trans (by simp [v, u])
    · have placed := given (a := a) (t := t) rfl
      exact (acqCheckComplete_inlets _ _).trans placed

@[simp] theorem endSpectral_inlets (id : Nat) (s : State) : (endSpectral id s).inlets = s.inlets := by
  unfold endSpectral
  refine forL_inlets (fun q s => forL_inlets (fun x s => ?_) _ s) _ s
  dsimp only
  (repeat' split) <;> simp

/-! ## Triggers -/

@[simp] theorem truncateAcqs_inlets (m : Fin 16) (t : Nat) (s : State) : (truncateAcqs m t s).inlets = s.inlets := by
  unfold truncateAcqs
  simp

@[simp] theorem setUnit_inlets (u : Fin 32) (f : TrigUnit → TrigUnit) (s : State) : (setUnit u f s).inlets = s.inlets := by
  unfold setUnit
  simp

@[simp] theorem schedulePulse_inlets (m : Fin 16) (tick : Nat) (s : State) : (schedulePulse m tick s).inlets = s.inlets := by
  unfold schedulePulse
  split <;> simp

@[simp] theorem exportFire_inlets (m : Fin 16) (tick frac : Nat) (s : State) : (exportFire m tick frac s).inlets = s.inlets := by
  unfold exportFire
  split <;> simp

@[simp] theorem disarmAt_inlets (m : Fin 16) (cause : Nat) (s : State) : (disarmAt m cause s).inlets = s.inlets := by
  unfold disarmAt
  simp

@[simp] theorem endDisarms_inlets (d : PendingDisarm) (s : State) : (endDisarms d s).inlets = s.inlets := by
  unfold endDisarms
  simp

@[simp] theorem expireDisarms_inlets (s : State) : (expireDisarms s).inlets = s.inlets := by
  unfold expireDisarms
  simp

@[simp] theorem countSource_inlets (src tick : Nat) (s : State) : (countSource src tick s).inlets = s.inlets := by
  unfold countSource
  refine forL_inlets (fun m s => ?_) _ s
  dsimp only
  (repeat' split) <;> simp

@[simp] theorem fireEffects_inlets (m : Fin 16) (tick frac winner : Nat) (late forced : Bool) (s : State) :
    (fireEffects m tick frac winner late forced s).inlets = s.inlets := by
  unfold fireEffects
  dsimp only
  (repeat' split) <;> simp

@[simp] theorem fireAt_inlets (m : Fin 16) (tick frac : Nat) (late forced : Bool) (s : State) : (fireAt m tick frac late forced s).inlets = s.inlets := by
  unfold fireAt
  simp

@[simp] theorem sendTrig_inlets (m : Fin 16) (subtype did seq tick frac : Nat) (payload : Data) (s : State) :
    (sendTrig m subtype did seq tick frac payload s).inlets = s.inlets := by
  unfold sendTrig
  simp

@[simp] theorem groupFire_inlets (m : Fin 16) (tick frac : Nat) (forced : Bool) (s : State) : (groupFire m tick frac forced s).inlets = s.inlets := by
  unfold groupFire
  simp

@[simp] theorem satisfy_inlets (m : Fin 16) (tick frac : Nat) (late : Bool) (s : State) : (satisfy m tick frac late s).inlets = s.inlets := by
  unfold satisfy
  simp

@[simp] theorem stepSatisfied_inlets (m : Fin 16) (second : Bool) (f : Fire) (s : State) : (stepSatisfied m second f s).inlets = s.inlets := by
  unfold stepSatisfied
  dsimp only
  (repeat' split) <;> simp

@[simp] theorem matchTerm_inlets (m : Fin 16) (second : Bool) (units : List (Fin 32)) (slot coinc : Nat) (cnt : Nat) (s : State) :
    (matchTerm m second units slot coinc cnt s).inlets = s.inlets := by
  induction cnt generalizing s with
  | zero => rfl
  | succ cnt ih =>
    unfold matchTerm
    (repeat' split) <;> simp [ih]

@[simp] theorem matrixFire_inlets (u : Fin 32) (f : Fire) (s : State) : (matrixFire u f s).inlets = s.inlets := by
  unfold matrixFire
  refine (forL_inlets (fun m s => ?_) _ _).trans (by simp)
  split
  · rfl
  · refine forL_inlets (fun x s => ?_) _ s
    split <;> simp

@[simp] theorem unitFires_inlets (u : Fin 32) (f : Fire) (s : State) : (unitFires u f s).inlets = s.inlets := by
  unfold unitFires
  simp

@[simp] theorem stepAt_inlets (now : Nat) (u : Fin 32) (cond gap : Bool) (tick frac last : Nat) (bound : Option Nat) (s : State) :
    (stepAt now u cond gap tick frac last bound s).inlets = s.inlets := by
  unfold stepAt
  simp

@[simp] theorem unitStep_inlets (u : Fin 32) (cond gap : Bool) (tick frac last : Nat) (bound : Option Nat) (s : State) :
    (unitStep u cond gap tick frac last bound s).inlets = s.inlets := by
  unfold unitStep
  simp

@[simp] theorem ownStepAt_inlets (now : Nat) (u : Fin 32) (tick frac : Nat) (s : State) : (ownStepAt now u tick frac s).inlets = s.inlets := by
  unfold ownStepAt
  simp

@[simp] theorem qualifyEdges_inlets (s : State) : (qualifyEdges s).inlets = s.inlets := by
  unfold qualifyEdges
  refine forL_inlets (fun a s => ?_) _ _
  split <;> simp

@[simp] theorem squallDue_inlets (s : State) : (squallDue s).inlets = s.inlets := by
  unfold squallDue
  simp

@[simp] theorem takeStep_inlets (u : Fin 32) (h : HeldStep) (last bound : Nat) (s : State) : (takeStep u h last bound s).inlets = s.inlets := by
  unfold takeStep
  simp

@[simp] theorem advanceUnit_inlets (u : Fin 32) (passed : Nat → Bool) (lastOf : Nat → Nat) (bound : Nat) (cnt : Nat) (s : State) :
    (advanceUnit u passed lastOf bound cnt s).inlets = s.inlets := by
  induction cnt generalizing s with
  | zero => rfl
  | succ cnt ih =>
    unfold advanceUnit
    dsimp only
    (repeat' split) <;> simp [ih]

@[simp] theorem offerSpectrum_inlets (t : Task) (index : Nat) (power : Option (List U32)) (s : State) :
    (offerSpectrum t index power s).inlets = s.inlets := by
  unfold offerSpectrum
  simp

@[simp] theorem offerSkBlock_inlets (t : Task) (block : Nat) (b : Option SkBlock) (s : State) : (offerSkBlock t block b s).inlets = s.inlets := by
  unfold offerSkBlock
  simp

@[simp] theorem detachUnits_inlets (p : TrigUnit → Bool) (s : State) : (detachUnits p s).inlets = s.inlets := by
  unfold detachUnits
  simp

@[simp] theorem detachTask_inlets (id : Nat) (s : State) : (detachTask id s).inlets = s.inlets := by
  unfold detachTask
  refine (forL_inlets (fun m s => ?_) _ _).trans (by simp)
  (repeat' split) <;> simp

@[simp] theorem detachInlet_inlets (n : Fin 4) (s : State) : (detachInlet n s).inlets = s.inlets := by
  unfold detachInlet
  simp

@[simp] theorem disarmInlet_inlets (n : Fin 4) (s : State) : (disarmInlet n s).inlets = s.inlets := by
  unfold disarmInlet
  refine forL_inlets (fun a s => ?_) _ _
  split <;> simp

/-! ## Density maps -/

@[simp] theorem exportPlanes_inlets (m : Fin 8) (c : MapCfg) (d : DensityMap) (s : State) : (exportPlanes m c d s).inlets = s.inlets := by
  unfold exportPlanes
  simp

@[simp] theorem exportRaw_inlets (m : Fin 8) (c : MapCfg) (d : DensityMap) (w : Sweep) (s : State) : (exportRaw m c d w s).inlets = s.inlets := by
  unfold exportRaw
  simp

@[simp] theorem exportAccepted_inlets (m : Fin 8) (s : State) : (exportAccepted m s).inlets = s.inlets := by
  unfold exportAccepted
  dsimp only
  (repeat' split) <;> simp

@[simp] theorem endSweep_inlets (m : Fin 8) (s : State) : (endSweep m s).inlets = s.inlets := by
  unfold endSweep
  dsimp only
  (repeat' split) <;> simp

@[simp] theorem sweepOn_inlets (m : Fin 8) (stop : Nat) (s : State) : (sweepOn m stop s).inlets = s.inlets := by
  unfold sweepOn
  split <;> simp

@[simp] theorem advanceSweep_inlets (m : Fin 8) (s : State) : (advanceSweep m s).inlets = s.inlets := by
  unfold advanceSweep
  split <;> simp

@[simp] theorem mapSpectrum_inlets (m : Fin 8) (power : List U32) (marks : Nat) (s : State) : (mapSpectrum m power marks s).inlets = s.inlets := by
  unfold mapSpectrum
  dsimp only
  (repeat' split) <;> simp

@[simp] theorem offerMaps_inlets (task : Nat) (power : List U32) (marks : Nat) (s : State) : (offerMaps task power marks s).inlets = s.inlets := by
  unfold offerMaps
  refine forL_inlets (fun a s => ?_) _ _
  split <;> simp

@[simp] theorem detachMaps_inlets (task : Nat) (s : State) : (detachMaps task s).inlets = s.inlets := by
  unfold detachMaps
  refine forL_inlets (fun a s => ?_) _ _
  split <;> simp

/-! ## Records of a task -/

@[simp] theorem noteRecord_inlets (id : Nat) (rec_ : Data) (place : Option Nat) (s : State) : (noteRecord id rec_ place s).inlets = s.inlets := by
  unfold noteRecord
  simp

@[simp] theorem putTaskRecord_inlets (id : Nat) (rec_ : Data) (tEnd : Nat) (s : State) : (putTaskRecord id rec_ tEnd s).inlets = s.inlets := by
  unfold putTaskRecord
  split <;> simp

@[simp] theorem putMarker_inlets (id code index epoch flags : Nat) (s : State) : (putMarker id code index epoch flags s).inlets = s.inlets := by
  unfold putMarker
  split <;> simp

@[simp] theorem putCovering_inlets (id last : Nat) (rec_ : Data) (s : State) : (putCovering id last rec_ s).inlets = s.inlets := by
  unfold putCovering
  split <;> simp

@[simp] theorem closeRecord_inlets (id : Nat) (final : Bool) (s : State) : (closeRecord id final s).inlets = s.inlets := by
  unfold closeRecord
  (repeat' split) <;> simp

@[simp] theorem flushTaskGap_inlets (id : Nat) (final : Bool) (s : State) : (flushTaskGap id final s).inlets = s.inlets := by
  unfold flushTaskGap
  (repeat' split) <;> simp

@[simp] theorem addGap_inlets (id first last cause : Nat) (s : State) : (addGap id first last cause s).inlets = s.inlets := by
  unfold addGap
  dsimp only
  (repeat' split) <;> simp

@[simp] theorem putSplit_inlets (id first last epoch flags : Nat) (final : Bool) (points : Data) (s : State) :
    (putSplit id first last epoch flags final points s).inlets = s.inlets := by
  unfold putSplit
  split <;> simp

@[simp] theorem addVector_inlets (id first last flags : Nat) (points : Data) (s : State) : (addVector id first last flags points s).inlets = s.inlets := by
  unfold addVector
  dsimp only
  (repeat' split) <;> simp

@[simp] theorem keepVector_inlets (id : Nat) (v : OutVector) (s : State) : (keepVector id v s).inlets = s.inlets := by
  unfold keepVector
  simp

@[simp] theorem endCell_inlets (id last : Nat) (s : State) : (endCell id last s).inlets = s.inlets := by
  unfold endCell
  (repeat' split) <;> simp

@[simp] theorem applyModify_inlets (id k : Nat) (m : PendingModify) (s : State) : (applyModify id k m s).inlets = s.inlets := by
  unfold applyModify
  dsimp only
  (repeat' split) <;> simp

@[simp] theorem putFlags_inlets (t : Task) (last : Nat) (rec_ : Data) (s : State) : (putFlags t last rec_ s).inlets = s.inlets := by
  unfold putFlags
  simp

@[simp] theorem skStep_inlets (id k : Nat) (u : CommitUnit) (s : State) : (skStep id k u s).inlets = s.inlets := by
  unfold skStep
  split <;> simp

@[simp] theorem processUnit_inlets (id : Nat) (u : CommitUnit) (s : State) : (processUnit id u s).inlets = s.inlets := by
  unfold processUnit
  dsimp only
  (repeat' split) <;> simp

/-! ## The placement of a task -/

@[simp] theorem dropShares_inlets (id : Nat) (p : Share → Bool) (s : State) : (dropShares id p s).inlets = s.inlets := by
  unfold dropShares
  simp

@[simp] theorem changeShares_inlets (id : Nat) (p : Share → Bool) (f : Share → Share) (s : State) : (changeShares id p f s).inlets = s.inlets := by
  unfold changeShares
  simp

@[simp] theorem cancelShares_inlets (did id epoch limit : Nat) (s : State) : (cancelShares did id epoch limit s).inlets = s.inlets := by
  unfold cancelShares
  simp

@[simp] theorem cancelPeers_inlets (t : Task) (s : State) : (cancelPeers t s).inlets = s.inlets := by
  unfold cancelPeers
  (repeat' split) <;> simp

@[simp] theorem releasePlacement_inlets (id : Nat) (older : Bool) (s : State) : (releasePlacement id older s).inlets = s.inlets := by
  unfold releasePlacement
  simp

@[simp] theorem endTask_inlets (id : Nat) (s : State) : (endTask id s).inlets = s.inlets := by
  unfold endTask
  dsimp only
  (repeat' split) <;> simp

/-! ## Results of a task -/

@[simp] theorem addOpenBlock_inlets (id : Nat) (s : State) : (addOpenBlock id s).inlets = s.inlets := by
  unfold addOpenBlock
  split <;> simp

@[simp] theorem finishTask_inlets (id : Nat) (s : State) : (finishTask id s).inlets = s.inlets := by
  unfold finishTask
  dsimp only
  (repeat' split) <;> simp

@[simp] theorem advanceTask_inlets (id : Nat) (cnt : Nat) (s : State) : (advanceTask id cnt s).inlets = s.inlets := by
  induction cnt generalizing s with
  | zero => rfl
  | succ cnt ih =>
    unfold advanceTask
    dsimp only
    (repeat' split) <;> simp [ih]

@[simp] theorem publishTask_inlets (id : Nat) (s : State) : (publishTask id s).inlets = s.inlets := by
  unfold publishTask
  split <;> simp

@[simp] theorem catchUp_inlets (id k released : Nat) (s : State) : (catchUp id k released s).inlets = s.inlets := by
  unfold catchUp
  split <;> simp

@[simp] theorem offerUnit_inlets (t : Task) (u : CommitUnit) (s : State) : (offerUnit t u s).inlets = s.inlets := by
  unfold offerUnit
  simp

@[simp] theorem abortMigration_inlets (id reason : Nat) (s : State) : (abortMigration id reason s).inlets = s.inlets := by
  unfold abortMigration
  dsimp only
  (repeat' split) <;> simp

@[simp] theorem completeMigration_inlets (id : Nat) (s : State) : (completeMigration id s).inlets = s.inlets := by
  unfold completeMigration
  dsimp only
  (repeat' split) <;> simp

@[simp] theorem migrationStep_inlets (id : Nat) (u : CommitUnit) (s : State) : (migrationStep id u s).inlets = s.inlets := by
  unfold migrationStep
  (repeat' split) <;> simp

@[simp] theorem laterResult_inlets (t : Task) (u : CommitUnit) (s : State) : (laterResult t u s).inlets = s.inlets := by
  unfold laterResult
  split <;> simp

@[simp] theorem lostSpan_inlets (t : Task) (u : CommitUnit) (s : State) : (lostSpan t u s).inlets = s.inlets := by
  unfold lostSpan
  simp

@[simp] theorem acceptMain_inlets (t : Task) (u : CommitUnit) (s : State) : (acceptMain t u s).inlets = s.inlets := by
  unfold acceptMain
  dsimp only
  (repeat' split) <;> simp

@[simp] theorem advanceCoarse_inlets (id : Nat) (cnt : Nat) (s : State) : (advanceCoarse id cnt s).inlets = s.inlets := by
  induction cnt generalizing s with
  | zero => rfl
  | succ cnt ih =>
    unfold advanceCoarse
    (repeat' split) <;> simp [ih]

@[simp] theorem acceptCoarse_inlets (t : Task) (u : CommitUnit) (s : State) : (acceptCoarse t u s).inlets = s.inlets := by
  unfold acceptCoarse
  simp

/-! ## What HISTORY no longer holds, and correlators -/

@[simp] theorem setShare_inlets (n : Fin 20) (k : ShareKey) (f : Share → Share) (s : State) : (setShare n k f s).inlets = s.inlets := by
  unfold setShare
  simp

@[simp] theorem loseIndices_inlets (id cause : Nat) (l : List Nat) (s : State) : (loseIndices id cause l s).inlets = s.inlets := by
  unfold loseIndices
  extract_lets u
  have lost : u.inlets = s.inlets := by
    refine forL_inlets (fun k s => ?_) _ s
    (repeat' split) <;> simp
  (repeat' split) <;> simp [lost]

@[simp] theorem dropTask_inlets (id : Nat) (s : State) : (dropTask id s).inlets = s.inlets := by
  unfold dropTask
  simp

@[simp] theorem dropXcorr_inlets (xc : Nat) (s : State) : (dropXcorr xc s).inlets = s.inlets := by
  unfold dropXcorr
  simp

@[simp] theorem endXcorr_inlets (xc : Nat) (s : State) : (endXcorr xc s).inlets = s.inlets := by
  unfold endXcorr
  split <;> simp

/-! ## IQ sources -/

@[simp] theorem iqAdvance_inlets (n : Fin 16) (m : Fin 4) (cnt : Nat) (s : State) : (iqAdvance n m cnt s).inlets = s.inlets := by
  induction cnt generalizing s with
  | zero => rfl
  | succ cnt ih =>
    unfold iqAdvance
    split <;> simp [ih]

@[simp] theorem publishIq_inlets (m : Fin 4) (s : State) : (publishIq m s).inlets = s.inlets := by
  unfold publishIq
  refine forL_inlets (fun a s => ?_) _ _
  split <;> simp

@[simp] theorem publishInlet_inlets (n : Fin 4) (s : State) : (publishInlet n s).inlets = s.inlets := by
  unfold publishInlet
  simp

@[simp] theorem overtakenBackfill_inlets (id oldest : Nat) (s : State) : (overtakenBackfill id oldest s).inlets = s.inlets := by
  unfold overtakenBackfill
  (repeat' split) <;> simp

@[simp] theorem overtakenShares_inlets (oldest : Nat) (n : Fin 4) (s : State) : (overtakenShares oldest n s).inlets = s.inlets := by
  unfold overtakenShares
  refine forL_inlets (fun m s => ?_) _ s
  split
  · rfl
  · refine forL_inlets (fun x s => ?_) _ s
    dsimp only
    (repeat' split) <;> simp

@[simp] theorem overtaken_inlets (n : Fin 4) (s : State) : (overtaken n s).inlets = s.inlets := by
  unfold overtaken
  simp

@[simp] theorem rewriteHistory_inlets (s : State) : (rewriteHistory s).inlets = s.inlets := by
  unfold rewriteHistory
  simp

end Sys2Proof.InletFrame
end

section
/-! Samples reach HISTORY: SYSREF, the release of frames, the commit of bursts, and lane events (R14, R45 to R48, R54 to R57, R62 to R66). -/

namespace Sys2Proof.SampleFlow

open Sys2Proof Sys2Proof.Machine Sys2Proof.Claims Sys2Proof.Safety Sys2Proof.Laws Sys2Proof.QueueEntries Sys2Proof.InletFrame

/-! ## One inlet -/

theorem setInlet_self (n : Fin 4) (f : Inlet → Inlet) (s : State) : (setInlet n f s).inlets[n] = f s.inlets[n] := vmod_self _ _ _

theorem setInlet_of_ne {n m : Fin 4} (other : m ≠ n) (f : Inlet → Inlet) (s : State) : (setInlet n f s).inlets[m] = s.inlets[m] :=
  vmod_of_ne _ _ other

theorem setInlet_setInlet (n : Fin 4) (f g : Inlet → Inlet) (s : State) : setInlet n g (setInlet n f s) = setInlet n (fun i => g (f i)) s :=
  congrArg (fun v => { s with inlets := v }) (vmod_vmod s.inlets n f g)

theorem vmodN_fin {α : Type} {n : Nat} (v : Vector α n) (k : Fin n) (f : α → α) : vmodN v k.val f = vmod v k f := dif_pos k.isLt

/-- What changing a lane leaves of the inlet. -/
theorem setLane_self (n : Fin 4) (k : Nat) (f : Lane → Lane) (s : State) :
    (setLane n k f s).inlets[n] = { s.inlets[n] with lanes := vmodN s.inlets[n].lanes k f } := setInlet_self _ _ _

theorem nextStep_self (n : Fin 4) (step : Nat) (s : State) :
    (nextStep n step s).inlets[n] = { s.inlets[n] with step := step, stepSince := s.clk.up } := setInlet_self _ _ _

/-! ## Holes -/

/-- An inlet with another list of holes and their counts. -/
def withHoles (holes : List Hole) (count ticks : Nat) (i : Inlet) : Inlet :=
  { i with ring := { i.ring with holes := holes }, holeCount := count, holeTicks := ticks }

/-- Of the inlets, n alone may have changed, and of it the list and the counts of its holes. -/
structure Flawed (n : Fin 4) (s t : State) : Prop where
  others : ∀ m : Fin 4, m ≠ n → t.inlets[m] = s.inlets[m]
  own : ∃ holes count ticks, t.inlets[n] = withHoles holes count ticks s.inlets[n]

theorem Flawed.of_inlets {n : Fin 4} {s t : State} (same : t.inlets = s.inlets) : Flawed n s t where
  others m _ := by rw [same]
  own := ⟨_, _, _, by rw [same]; rfl⟩

theorem Flawed.trans {n : Fin 4} {s t u : State} (first : Flawed n s t) (second : Flawed n t u) : Flawed n s u where
  others m other := (second.others m other).trans (first.others m other)
  own := by
    obtain ⟨_, _, _, before⟩ := first.own
    obtain ⟨holes, count, ticks, after⟩ := second.own
    rw [before] at after
    exact ⟨holes, count, ticks, after⟩

theorem Flawed.of_setInlet {n : Fin 4} {f : Inlet → Inlet} {s t : State} (set : t.inlets = vmod s.inlets n f)
    (keeps : ∀ i, ∃ holes count ticks, f i = withHoles holes count ticks i) : Flawed n s t where
  others m other := by
    rw [set]
    exact vmod_of_ne _ _ other
  own := by
    rw [set, vmod_self]
    exact keeps _

theorem flawed_mergeClosest (n : Fin 4) (s : State) : Flawed n s (mergeClosest n s) := by
  unfold mergeClosest
  dsimp only
  split
  · refine Flawed.of_setInlet (((raiseAt_inlets _ _ _ _).trans (setStore_inlets _ _)).trans (setInlet_inlets _ _ _)) ?_
    exact fun i => ⟨_, _, _, rfl⟩
  · exact .of_inlets rfl

theorem flawed_enterHole (n : Fin 4) (start stop cause : Nat) (s : State) : Flawed n s (enterHole n start stop cause s) := by
  unfold enterHole
  split
  · exact .of_inlets rfl
  · dsimp only
    refine Flawed.trans ?_ (List.foldlRecOn _ _ (.of_inlets rfl) fun _ flawed a _ => flawed.trans (flawed_mergeClosest n _))
    refine Flawed.trans (.of_inlets (scrambleHistory_inlets s))
      (Flawed.of_setInlet ((forL_inlets (fun p s => raiseAt_inlets _ _ _ _) _ _).trans (setInlet_inlets _ _ _)) ?_)
    exact fun i => ⟨_, _, _, rfl⟩

/-! ## A later value of one inlet -/

/-- A later state in which inlet n is i; the other inlets are as they were. -/
structure Only (n : Fin 4) (s t : State) (i : Inlet) : Prop where
  own : t.inlets[n] = i
  others : ∀ m : Fin 4, m ≠ n → t.inlets[m] = s.inlets[m]

section
variable {n : Fin 4} {s t u : State} {i : Inlet}

theorem Only.refl (n : Fin 4) (s : State) : Only n s s s.inlets[n] := ⟨rfl, fun _ _ => rfl⟩

theorem Only.of_inlets (only : Only n s t i) (same : u.inlets = t.inlets) : Only n s u i where
  own := by
    rw [same]
    exact only.own
  others m other := by
    rw [same]
    exact only.others m other

theorem Only.set (only : Only n s t i) (f : Inlet → Inlet) : Only n s (setInlet n f t) (f i) where
  own := by rw [setInlet_self, only.own]
  others m other := (setInlet_of_ne other f t).trans (only.others m other)

theorem Only.lane (only : Only n s t i) (k : Fin 32) (f : Lane → Lane) : Only n s (setLane n k.val f t) { i with lanes := vmod i.lanes k f } := by
  have changed := only.set fun i => { i with lanes := vmodN i.lanes k.val f }
  rw [vmodN_fin] at changed
  exact changed

theorem Only.flawed (only : Only n s t i) (flawed : Flawed n t u) : ∃ holes count ticks, Only n s u (withHoles holes count ticks i) := by
  obtain ⟨holes, count, ticks, own⟩ := flawed.own
  rw [only.own] at own
  exact ⟨holes, count, ticks, own, fun m other => (flawed.others m other).trans (only.others m other)⟩

theorem vmod_of_fixed {α : Type} {n : Nat} {v : Vector α n} {i : Fin n} {f : α → α} (fixed : f v[i] = v[i]) : vmod v i f = v := by
  unfold vmod
  rw [fixed]
  exact Vector.set_getElem_self _

/-- A lane event notes at most that it was raised. -/
theorem Only.laneEvent (only : Only n s t i) (k : Fin 32) (lost : Bool) :
    ∃ raised, Only n s (laneEvent n k lost t) { i with lanes := vmod i.lanes k fun l => { l with windowRaised := raised } } := by
  unfold Machine.laneEvent
  dsimp only
  split
  · refine ⟨i.lanes[k].windowRaised, ?_⟩
    rw [vmod_of_fixed rfl]
    exact only
  · exact ⟨true, (only.lane k fun l => { l with windowRaised := true }).of_inlets (raise_inlets _ _ _)⟩

theorem Only.loseFrom (only : Only n s t i) (kind : LaneErrorKind) (o : Nat) : ∃ elastic fill hole holes count ticks,
    Only n s (loseFrom n kind o t) (withHoles holes count ticks { i with elastic := elastic, elasticFill := fill, realignHole := some hole }) := by
  unfold Machine.loseFrom
  extract_lets j g first start keep u
  have lost : Only n s u _ := only.set _
  obtain ⟨holes, count, ticks, flawed⟩ := lost.flawed (flawed_enterHole n start (j.timeOf j.nextNum / 65536) 3 u)
  exact ⟨_, _, _, holes, count, ticks, flawed⟩

end

/-! ## The lanes of a link -/

/-- A lane that has lost its lock. -/
def unlock (l : Lane) : Lane := { l with locked := false }

/-- Lanes after those of a list have lost their lock. -/
def unlockAll (lanes : Vector Lane 32) (l : List Nat) : Vector Lane 32 := l.foldl (fun v j => vmodN v j unlock) lanes

theorem vmodN_getElem {α : Type} {n : Nat} (v : Vector α n) (j : Nat) (k : Fin n) (f : α → α) : (vmodN v j f)[k] = if j = k.val then f v[k] else v[k] := by
  unfold vmodN
  split
  next inside =>
    split
    next same =>
      subst same
      exact Vector.getElem_set_self _
    next other => exact Vector.getElem_set_ne _ _ other
  next outside =>
    have other : ¬ j = k.val := fun same => outside (by omega)
    exact (if_neg other).symm

theorem unlockAll_lane (l : List Nat) (lanes : Vector Lane 32) (k : Fin 32) :
    (unlockAll lanes l)[k] = if k.val ∈ l then unlock lanes[k] else lanes[k] := by
  induction l generalizing lanes with
  | nil => rfl
  | cons j l ih =>
    refine (ih (vmodN lanes j unlock)).trans ?_
    rw [vmodN_getElem]
    by_cases first : j = k.val
    · subst first
      simp [unlock]
    · have notFirst : ¬ k.val = j := fun h => first h.symm
      simp [first, notFirst]

theorem Only.unlockLink {n : Fin 4} {s t : State} {i : Inlet} (only : Only n s t i) (k : Nat) :
    Only n s (unlockLink n k t) { i with lanes := unlockAll i.lanes ((List.range i.l).map fun j => linkOf i k * i.l + j) } := by
  have each : ∀ (l : List Nat) (u : State) (j : Inlet) (link : Nat), Only n s u j →
      Only n s (forL l (fun x u => setLane n (link + x) unlock u) u) { j with lanes := unlockAll j.lanes (l.map fun x => link + x) } := by
    intro l
    induction l with
    | nil => exact fun u j link held => held
    | cons x l ih => exact fun u j link held => ih _ _ link (held.set fun i => { i with lanes := vmodN i.lanes (link + x) unlock })
  unfold Machine.unlockLink
  dsimp only
  rw [only.own]
  exact each _ t i _ only

/-- A lane of a link is among those that lose their lock with it. -/
theorem mem_link {i : Inlet} {j k : Nat} (used : k < i.lanesUsed) (same : linkOf i j = linkOf i k) :
    j ∈ (List.range i.l).map fun x => linkOf i k * i.l + x := by
  have some_ : 0 < i.l := by
    rcases Nat.eq_zero_or_pos i.l with none_ | some_
    · have unused : i.lanesUsed = 0 := by
        unfold Inlet.lanesUsed
        rw [none_, Nat.mul_zero]
      omega
    · exact some_
  have width : max 1 i.l = i.l := max_eq_right some_
  refine List.mem_map.2 ⟨j % i.l, List.mem_range.2 (Nat.mod_lt _ some_), ?_⟩
  rw [← same]
  unfold linkOf
  rw [width]
  exact Nat.div_add_mod' j i.l

/-! ## The commit of a burst -/

theorem commitFrame_nil {n : Fin 4} {s : State} (nothing : s.inlets[n].elastic = []) : commitFrame n s = s := by
  unfold commitFrame
  rw [nothing]

theorem commitFrame_cons {n : Fin 4} {s : State} {f : Frame} {rest : List Frame} (holds : s.inlets[n].elastic = f :: rest) :
    (commitFrame n s).inlets[n].elastic = rest ∧ (commitFrame n s).inlets[n].samplesWritten = s.inlets[n].samplesWritten + f.values.length := by
  unfold commitFrame
  rw [holds]
  exact ⟨(congrArg Inlet.elastic (setInlet_self n _ s)).trans rfl, (congrArg Inlet.samplesWritten (setInlet_self n _ s)).trans rfl⟩

/-- Frames leave the elastic buffer one by one, and their samples are counted. -/
theorem foldl_commitFrame (n : Fin 4) (l : List Nat) (s : State) :
    (l.foldl (fun s _ => commitFrame n s) s).inlets[n].elastic = s.inlets[n].elastic.drop l.length ∧
      (l.foldl (fun s _ => commitFrame n s) s).inlets[n].samplesWritten =
        s.inlets[n].samplesWritten + ((s.inlets[n].elastic.take l.length).map (·.values.length)).sum := by
  induction l generalizing s with
  | nil => exact ⟨rfl, rfl⟩
  | cons x l ih =>
    obtain ⟨elastic, written⟩ := ih (commitFrame n s)
    rw [List.foldl_cons, elastic, written, List.length_cons]
    cases holds : s.inlets[n].elastic with
    | nil =>
      rw [commitFrame_nil holds, holds]
      simp
    | cons f rest =>
      obtain ⟨left, counted⟩ := commitFrame_cons holds
      rw [left, counted]
      simp [Nat.add_assoc]

/-- Of the inlets, a burst changes what its frames change. -/
theorem commitFrames_inlets (n : Fin 4) (k : Nat) (s : State) :
    (commitFrames n k s).inlets = ((List.range k).foldl (fun s _ => commitFrame n s) s).inlets := by
  unfold commitFrames
  simp

theorem commitFrames_inlet (n : Fin 4) (k : Nat) (s : State) : (commitFrames n k s).inlets[n].elastic = s.inlets[n].elastic.drop k ∧
    (commitFrames n k s).inlets[n].samplesWritten = s.inlets[n].samplesWritten + ((s.inlets[n].elastic.take k).map (·.values.length)).sum := by
  have committed := foldl_commitFrame n (List.range k) s
  rw [List.length_range] at committed
  rw [commitFrames_inlets]
  exact committed

/-! ## The release of a frame -/

/-- A later state in which events and inlet n may have changed. -/
structure Entered (n : Fin 4) (s t : State) (i : Inlet) : Prop where
  rest : t = { sideOf s t with inlets := t.inlets }
  only : Only n s t i

section
variable {n : Fin 4} {s t : State} {i : Inlet}

theorem Entered.refl (n : Fin 4) (s : State) : Entered n s s s.inlets[n] := ⟨rfl, Only.refl n s⟩

theorem Entered.set (entered : Entered n s t i) (f : Inlet → Inlet) : Entered n s (setInlet n f t) (f i) where
  rest := (congrArg (setInlet n f) entered.rest).trans rfl
  only := entered.only.set f

theorem Entered.raiseW (entered : Entered n s t i) (ev tick weight weight2 : Nat) (vals : List Val) :
    Entered n s (raiseW ev tick weight weight2 vals t) i where
  rest := by
    have side := raiseW_side ev tick weight weight2 vals t (Side_refl t)
    refine side.trans ?_
    rw [Side_inlets side]
    exact (congrArg (fun u => sideOf u (Machine.raiseW ev tick weight weight2 vals t)) entered.rest).trans rfl
  only := entered.only.of_inlets (raiseW_inlets _ _ _ _ _ _)

/-- New clips are noted; nothing of the inlet's data changes. -/
theorem Entered.noteClips (entered : Entered n s t i) (f : Frame) : ∃ seen blocks last,
    Entered n s (noteClips n f t) { i with clipSeen := seen, clipBlocks := blocks, lastClipBlock := last } := by
  unfold Machine.noteClips
  dsimp only
  split
  · exact ⟨_, _, _, entered⟩
  · exact ⟨_, _, _, (entered.set _).raiseW _ _ _ _ _⟩

theorem Entered.acceptFrame (entered : Entered n s t i) (f : Frame) : ∃ peak urgent seen drains, Entered n s (acceptFrame n f t)
    { i with elastic := i.elastic ++ [f], elasticFill := i.elasticFill + i.bytesOf f.values.length, elasticPeak := peak, urgent := urgent,
             urgentSeen := seen, urgentDrains := drains } := by
  have own := entered.only.own
  subst own
  unfold Machine.acceptFrame
  extract_lets j fill rises u
  have accepted : Entered n s u _ := entered.set _
  split
  · exact ⟨_, _, _, _, accepted.raiseW (evInlet n 0x04) u.clk.tick 1 0 [.w fill, .w u.inlets[n].urgentDrains]⟩
  · exact ⟨_, _, _, _, accepted⟩

end

theorem enterHole_empty (n : Fin 4) (a cause : Nat) (s : State) : enterHole n a a cause s = s := if_pos le_rfl

theorem clockHole_of_locked {n : Fin 4} {f : Frame} {s : State} (locked : s.inlets[n].unlocked = false)
    (held : s.clk.synths[3 + n.val].state ≠ .holdover) (certain : s.clk.uncertain = false) : clockHole n f s = s := by
  unfold clockHole
  rw [if_neg, if_neg (ne_true_of_eq_false certain)]
  rintro (lost | holds)
  · exact absurd lost (ne_true_of_eq_false locked)
  · exact held holds

/-- A frame that fits, and that no unit watches, is noted and enters the elastic buffer. -/
theorem pushFrame_of_fits {n : Fin 4} {f : Frame} {samples : List (List U16)} {s : State} (some_ : f.values ≠ [])
    (fits : f.values.length ≤ elasticRoom s.inlets[n]) (idle : s.squall.units.toList.all (fun u => u.cfg.kind = 0) = true) :
    pushFrame n f samples s = acceptFrame n f (noteClips n f s) := by
  have all : f.values.take (elasticRoom s.inlets[n]) = f.values := List.take_of_length_le fits
  have unseen : evaluateFrame n s.inlets[n] samples s = s := if_pos idle
  unfold pushFrame
  dsimp only
  rw [all, unseen, if_neg some_, if_neg (lt_irrefl _)]

/-- A period of a running inlet in order goes into the elastic buffer and nowhere else. -/
theorem releaseFrame_entered {n : Fin 4} {f : Frame} {samples : List (List U16)} {s : State} (running : s.inlets[n].state = .running)
    (whole : s.inlets[n].realignHole = none) (locked : s.inlets[n].unlocked = false) (held : s.clk.synths[3 + n.val].state ≠ .holdover)
    (certain : s.clk.uncertain = false) (some_ : f.values ≠ []) (fits : f.values.length ≤ elasticRoom s.inlets[n])
    (idle : s.squall.units.toList.all (fun u => u.cfg.kind = 0) = true) :
    ∃ i, Entered n s (releaseFrame n f samples s) i ∧ i.elastic = s.inlets[n].elastic ++ [f] ∧ i.nextNum = s.inlets[n].nextNum ∧
      i.periodSamples = s.inlets[n].periodSamples ∧ i.elasticFill = s.inlets[n].elasticFill + s.inlets[n].bytesOf f.values.length ∧
      i.ring = s.inlets[n].ring := by
  have own := setInlet_self n (fun i => { i with realignHole := none }) s
  have begun := (Entered.refl n s).set fun i => { i with realignHole := none }
  obtain ⟨_, _, _, noted⟩ := begun.noteClips f
  obtain ⟨_, _, _, _, accepted⟩ := noted.acceptFrame f
  have path : releaseFrame n f samples s = acceptFrame n f (noteClips n f (setInlet n (fun i => { i with realignHole := none }) s)) := by
    unfold releaseFrame
    dsimp only
    rw [if_pos running, whole]
    dsimp only [Option.getD_none]
    rw [enterHole_empty, clockHole_of_locked ((congrArg Inlet.unlocked own).trans locked) held certain]
    refine pushFrame_of_fits some_ ?_ idle
    rw [own]
    exact fits
  rw [path]
  exact ⟨_, accepted, rfl, rfl, rfl, rfl, rfl⟩

/-- A period of a running inlet is released once due, whatever Squall has to do first. -/
theorem doFrameRelease_eq {s : State} {n : Fin 4} {d : List (List U16)} {u : State} (running : s.inlets[n].state = .running)
    (stays : s.inlets[n].stop = none) (some_ : s.inlets[n].periodSamples ≠ 0) (whole : d.length = s.inlets[n].periodSamples)
    (due : u = squallDue (waitTick s.inlets[n].releaseDue s)) :
    doFrameRelease n d s = setInlet n (fun i => { i with nextNum := i.nextNum + i.periodSamples, unlocked := false })
      (releaseFrame n (frameOf u.inlets[n] (u.clk.uncertain || u.clk.synths[3 + n.val].state = .holdover) d) d u) := by
  have inlets : u.inlets = s.inlets := by
    rw [due]
    exact (squallDue_inlets _).trans rfl
  have started : ¬ s.inlets[n].state = .starting := by
    rw [running]
    decide
  have before : beforeStop u.inlets[n] d = d := by
    unfold beforeStop
    rw [inlets, stays]
  have data : ¬ d = [] := fun none_ => some_ (whole.symm.trans (congrArg List.length none_))
  unfold doFrameRelease
  rw [if_neg]
  · dsimp only
    rw [if_neg started, ← due, before, if_neg data]
  · rintro (stopped | ⟨starting, -⟩ | none_ | other)
    · exact absurd (running.symm.trans stopped) (by decide)
    · exact started starting
    · exact some_ none_
    · exact other whole

/-! ## Lanes that lose and regain synchronisation -/

/-- A running inlet's lane that loses its lock: the loss is counted, the lane is unlocked, and what is released from then on is a hole. -/
theorem lost_lane {n : Fin 4} {k : Fin 32} {s : State} (kind : LaneErrorKind) (o : Nat) : ∃ i,
    Only n s (loseFrom n kind o (laneEvent n k true (setLane n k.val
      (fun l => { l with locked := false, syncLosses := satN 16 (l.syncLosses + 1) }) s))) i ∧
    i.state = s.inlets[n].state ∧ i.realignHole.isSome = true ∧ i.syncN = s.inlets[n].syncN ∧ i.lanesUsed = s.inlets[n].lanesUsed ∧
    (∀ j, linkOf i j = linkOf s.inlets[n] j) ∧ (∀ j, syncBit i j = syncBit s.inlets[n] j) ∧ i.lanes[k].locked = false ∧
    i.lanes[k].syncLosses = satN 16 (s.inlets[n].lanes[k].syncLosses + 1) := by
  obtain ⟨raised, event⟩ := ((Only.refl n s).lane k fun l => { l with locked := false, syncLosses := satN 16 (l.syncLosses + 1) }).laneEvent k true
  obtain ⟨lanes, value⟩ : ∃ lanes, lanes = vmod (vmod s.inlets[n].lanes k fun l => { l with locked := false, syncLosses := satN 16 (l.syncLosses + 1) }) k
    fun l => { l with windowRaised := raised } := ⟨_, rfl⟩
  have lane : lanes[k] = { s.inlets[n].lanes[k] with locked := false, syncLosses := satN 16 (s.inlets[n].lanes[k].syncLosses + 1), windowRaised := raised } := by
    rw [value, vmod_self, vmod_self]
  rw [← value] at event
  obtain ⟨_, _, _, _, _, _, lost⟩ := event.loseFrom kind o
  exact ⟨_, lost, rfl, rfl, rfl, rfl, fun j => rfl, fun j => rfl, congrArg Lane.locked lane, congrArg Lane.syncLosses lane⟩

theorem doLaneSyncLoss_eq {n : Fin 4} {k : Fin 32} {o : Nat} {s : State} (running : s.inlets[n].state = .running)
    (used : k.val < s.inlets[n].lanesUsed) (locked : s.inlets[n].lanes[k].locked = true) : ∃ at_, doLaneSyncLoss n k o s =
      let u := loseFrom n (lossKind s.inlets[n]) at_ (laneEvent n k true (setLane n k.val
        (fun l => { l with locked := false, syncLosses := satN 16 (l.syncLosses + 1) }) s))
      if ¬ s.inlets[n].realigns = true then faultInlet n 1 k.val u
      else unlockLink n k.val (setInlet n (fun i => { i with state := .realigning, syncN := i.syncN ||| syncBit i k.val }) u) := by
  have notStarting : ¬ s.inlets[n].state = .starting := by
    rw [running]
    decide
  refine ⟨if octetCurrent s.inlets[n] (lossKind s.inlets[n]) o then o else s.inlets[n].periodOctets, ?_⟩
  unfold doLaneSyncLoss
  rw [if_neg]
  · dsimp only
    rw [if_neg notStarting]
  · rintro (unused | stopped | faulty | free)
    · omega
    · exact absurd (running.symm.trans stopped) (by decide)
    · exact absurd (running.symm.trans faulty) (by decide)
    · exact free locked

/-- A lane that has locked again in time. -/
theorem relocked_lane {n : Fin 4} {s : State} (k : Fin 32) (at_ : Nat) : ∃ i,
    Only n s (raise (evInlet n 0x09) [.h k.val, .h at_] (setLane n k.val (fun l => { l with locked := true, realigns := satN 16 (l.realigns + 1) })
      (setLane n k.val (fun l => { l with arrival := at_ }) s))) i ∧ i.state = s.inlets[n].state ∧
    i.lanes[k] = { s.inlets[n].lanes[k] with arrival := at_, locked := true, realigns := satN 16 (s.inlets[n].lanes[k].realigns + 1) } := by
  refine ⟨_, (((Only.refl n s).lane k fun l => { l with arrival := at_ }).lane k fun l =>
    { l with locked := true, realigns := satN 16 (l.realigns + 1) }).of_inlets (raise_inlets _ _ _), rfl, ?_⟩
  dsimp only
  rw [vmod_self, vmod_self]

section
variable {n : Fin 4} {s u : State} {i : Inlet}

/-- A link whose lanes are locked gives up its request for synchronisation. -/
theorem Only.linkUp (only : Only n s u i) (k : Nat) : ∃ j, Only n s
    (if (List.range u.inlets[n].l).all fun j =>
        ((u.inlets[n].lanes.toList.drop (linkOf u.inlets[n] k * u.inlets[n].l + j)).head?.map (·.locked)).getD true then
      setInlet n (fun i => { i with syncN := i.syncN &&& ~~~syncBit i k }) u else u) j ∧ j.state = i.state ∧ j.lanes = i.lanes := by
  split
  · exact ⟨_, only.set fun i => { i with syncN := i.syncN &&& ~~~syncBit i k }, rfl, rfl⟩
  · exact ⟨i, only, rfl, rfl⟩

/-- An inlet whose lanes are all locked runs on. -/
theorem Only.runs (only : Only n s u i) (realigning : i.state = .realigning) : ∃ j,
    Only n s (if allLanes u.inlets[n] (·.locked) then setInlet n (fun i => { i with state := .running }) u else u) j ∧ j.lanes = i.lanes ∧
      (j.state = .running ↔ allLanes j (·.locked) = true) := by
  rw [only.own]
  split
  next all => exact ⟨_, only.set fun i => { i with state := .running }, rfl, fun _ => all, fun _ => rfl⟩
  next some_ => exact ⟨i, only, rfl, fun runs => absurd (realigning.symm.trans runs) (by decide), fun all => absurd all some_⟩

end

theorem doLaneResync_eq {n : Fin 4} {k : Fin 32} {at_ : Nat} {s : State} (realigning : s.inlets[n].state = .realigning)
    (used : k.val < s.inlets[n].lanesUsed) (unlocked : s.inlets[n].lanes[k].locked = false) (free : s.jtag.pinsTaken = false) :
    doLaneResync n k at_ s = if (s.inlets[n].release + max 1 s.inlets[n].periodOctets - 8) % max 1 s.inlets[n].periodOctets < at_ then
        faultInlet n 2 k.val (setLane n k.val (fun l => { l with arrival := at_ }) s)
      else
        let s := raise (evInlet n 0x09) [.h k.val, .h at_] (setLane n k.val (fun l => { l with locked := true, realigns := satN 16 (l.realigns + 1) })
          (setLane n k.val (fun l => { l with arrival := at_ }) s))
        let s := if (List.range s.inlets[n].l).all fun j =>
            ((s.inlets[n].lanes.toList.drop (linkOf s.inlets[n] k.val * s.inlets[n].l + j)).head?.map (·.locked)).getD true then
          setInlet n (fun i => { i with syncN := i.syncN &&& ~~~syncBit i k.val }) s else s
        if allLanes s.inlets[n] (·.locked) then setInlet n (fun i => { i with state := .running }) s else s := by
  refine if_neg ?_
  rintro (other | unused | locked | taken)
  · exact other realigning
  · omega
  · exact absurd locked (ne_true_of_eq_false unlocked)
  · exact absurd taken (ne_true_of_eq_false free)

theorem not_qualifying {i : Inlet} (running : i.state = .running) : ¬ (i.state = .starting ∧ i.step = 5) := by
  rw [running]
  exact fun h => absurd h.1 (by decide)

theorem active_of_running {i : Inlet} (running : i.state = .running) : ¬ (i.state = .stopped ∨ (i.state = .starting ∧ i.step < 6)) := by
  rw [running]
  exact fun h => h.elim (by decide) fun h => absurd h.1 (by decide)

/-! ## Bring-up -/

section
variable {n : Fin 4} {k : Fin 32} {s : State} (starting : s.inlets[n].state = .starting) (used : k.val < s.inlets[n].lanesUsed)
  (free : s.jtag.pinsTaken = false)
include starting used free

theorem locks_of_starting : ¬ (s.inlets[n].state ≠ .starting ∨ s.inlets[n].lanesUsed ≤ k.val ∨ s.jtag.pinsTaken = true) := by
  rintro (other | unused | taken)
  · exact other starting
  · exact absurd used (not_lt.2 unused)
  · exact absurd taken (ne_true_of_eq_false free)

theorem doLaneLock_cdr (three : s.inlets[n].step = 3) : doLaneLock n k true s =
    let s := setLane n k.val (fun l => { l with cdr := true }) s
    if allLanes s.inlets[n] (·.cdr) then
      setInlet n (fun i => { i with syncN := if i.is204C then 0 else BitVec.ofNat 4 (2 ^ i.nl - 1) }) (nextStep n 4 s)
    else s := (if_neg (locks_of_starting starting used free)).trans (if_pos ⟨rfl, three⟩)

theorem doLaneLock_locked (four : s.inlets[n].step = 4) : doLaneLock n k false s =
    let s := setLane n k.val (fun l => { l with locked := true }) s
    if allLanes s.inlets[n] (·.locked) then nextStep n 5 (setInlet n (fun i => { i with qualified := 0 }) s) else s :=
  (if_neg (locks_of_starting starting used free)).trans ((if_neg fun h => absurd h.1 (by decide)).trans (if_pos ⟨by decide, four⟩))

end

section
variable {n : Fin 4} {s u : State} {i : Inlet} (only : Only n s u i)
include only

theorem Only.next (step : Nat) : Only n s (nextStep n step u) { i with step := step, stepSince := u.clk.up } := only.set _

/-- With clock and data recovered on all lanes the start goes on to step 4. -/
theorem Only.cdrStep (three : i.step = 3) : ∃ j, Only n s
    (if allLanes u.inlets[n] (·.cdr) then
      setInlet n (fun i => { i with syncN := if i.is204C then 0 else BitVec.ofNat 4 (2 ^ i.nl - 1) }) (nextStep n 4 u) else u) j ∧
    j.lanes = i.lanes ∧ j.step = if allLanes j (·.cdr) = true then 4 else 3 := by
  rw [only.own]
  split
  next all =>
    exact ⟨_, (only.next 4).set fun i => { i with syncN := if i.is204C then 0 else BitVec.ofNat 4 (2 ^ i.nl - 1) }, rfl, (if_pos all).symm⟩
  next some_ => exact ⟨i, only, rfl, three.trans (if_neg some_).symm⟩

/-- With all lanes locked the start goes on to step 5. -/
theorem Only.lockStep (four : i.step = 4) : ∃ j, Only n s
    (if allLanes u.inlets[n] (·.locked) then nextStep n 5 (setInlet n (fun i => { i with qualified := 0 }) u) else u) j ∧
    j.lanes = i.lanes ∧ j.step = if allLanes j (·.locked) = true then 5 else 4 := by
  rw [only.own]
  split
  next all => exact ⟨_, (only.set fun i => { i with qualified := 0 }).next 5, rfl, (if_pos all).symm⟩
  next some_ => exact ⟨i, only, rfl, four.trans (if_neg some_).symm⟩

end

/-- An alignment sequence that matches and fits sets release and hold, and the start goes on to step 7. -/
theorem aligned_of_fits {n : Fin 4} {s : State} {r : IlasResult} (starting : s.inlets[n].state = .starting) (six : s.inlets[n].step = 6)
    (sound : s.inlets[n].is204C = true ∨ r.parametersMatch = true) (fits : (releaseWindow s.inlets[n] r.arrivals).2.2 = true) :
    ∃ spread bound lanes, Only n s (doIlasReceived n r s)
      { s.inlets[n] with
          release := (releaseWindow s.inlets[n] r.arrivals).1, hold := s.inlets[n].octets256 (releaseWindow s.inlets[n] r.arrivals).2.1,
          spread := spread, syncN := 0, latencyBound := bound, lanes := lanes, step := 7, stepSince := s.clk.up } := by
  have inStep : ¬ (s.inlets[n].state ≠ .starting ∨ s.inlets[n].step ≠ 6) := by
    rw [starting, six]
    decide
  have matches_ : ¬ (¬ s.inlets[n].is204C = true ∧ ¬ r.parametersMatch = true) := fun h => sound.elim h.1 h.2
  unfold doIlasReceived
  rw [if_neg inStep, if_neg matches_]
  extract_lets w used hold u v
  rw [if_neg (not_not_intro fits)]
  have measured : Only n s u _ := (Only.refl n s).set _
  have clock : v.clk = s.clk := by
    unfold v
    split
    · exact raise_clk _ _ _
    · rfl
  have warned : Only n s v _ := measured.of_inlets (by
    unfold v
    split
    · exact raise_inlets _ _ _
    · rfl)
  have next := warned.next 7
  rw [clock] at next
  exact ⟨_, _, _, next⟩

/-- The lane error windows of every inlet, cleared (R66). -/
def windowsCleared (s : State) : State :=
  { s with inlets := s.inlets.map fun i => { i with lanes := i.lanes.map fun l => { l with windowErrors := 0, windowRaised := false } } }

theorem doLaneErrorWindow_eq (s : State) : doLaneErrorWindow s = windowsCleared (waitTick (ceilDiv s.clk.tick msTicks * msTicks) s) := rfl

/-- Stated for any due tick: with the millisecond written out the kernel would compute it. -/
theorem windowsCleared_waitTick (due : Nat) (s : State) :
    (windowsCleared (waitTick due s)).clk = (waitTick due s).clk ∧
      windowsCleared (waitTick due s) =
        { s with clk := (windowsCleared (waitTick due s)).clk, inlets := (windowsCleared (waitTick due s)).inlets } ∧
      ∀ m : Fin 4, (windowsCleared (waitTick due s)).inlets[m] =
        { s.inlets[m] with lanes := s.inlets[m].lanes.map fun l => { l with windowErrors := 0, windowRaised := false } } :=
  ⟨rfl, rfl, fun _ => Vector.getElem_map _ _⟩

/-! ## The obligation -/

/-- Settles O22, with a clause for each row and case. -/
theorem samplesReachHistory : Obligations.SamplesReachHistory := by
  refine ⟨?_, ?_, ?_, ?_, ?_, ?_, ?_, ?_, ?_, ?_, ?_, ?_, ?_, ?_, ?_, ?_, ?_, ?_, ?_⟩
  · intro s n half starting five zero
    refine ⟨_, rfl, ?_⟩
    rw [show doSysrefPulse n half s = _ from (if_pos ⟨starting, five⟩).trans (if_pos (.inl zero))]
    dsimp only
    have first := (Only.refl n s).set fun i => { i with edge := s.clk.tick * 65536 + (if half then 32768 else 0), qualified := 1 }
    split
    · have next := first.set fun i => { i with step := 6, stepSince := s.clk.up }
      exact ⟨(congrArg Inlet.edge next.own).trans rfl, (congrArg Inlet.qualified next.own).trans rfl, (congrArg Inlet.step next.own).trans rfl,
        next.others, rfl⟩
    · exact ⟨(congrArg Inlet.edge first.own).trans rfl, (congrArg Inlet.qualified first.own).trans rfl, (congrArg Inlet.step first.own).trans five,
        first.others, rfl⟩
  · intro s n half running inPhase
    have notStarting : ¬ (s.inlets[n].state = .starting ∧ s.inlets[n].step = 5) := not_qualifying running
    have active : ¬ (s.inlets[n].state = .stopped ∨ (s.inlets[n].state = .starting ∧ s.inlets[n].step < 6)) := active_of_running running
    exact congrArg Host.Outcome.next ((if_neg notStarting).trans ((if_neg active).trans ((if_neg (not_lt.2 inPhase)).trans (setInlet_setInlet n _ _ s))))
  · intro s n half running outOfPhase
    have notStarting : ¬ (s.inlets[n].state = .starting ∧ s.inlets[n].step = 5) := not_qualifying running
    have active : ¬ (s.inlets[n].state = .stopped ∨ (s.inlets[n].state = .starting ∧ s.inlets[n].step < 6)) := active_of_running running
    refine ⟨_, congrArg Host.Outcome.next ((if_neg notStarting).trans ((if_neg active).trans (if_pos outOfPhase))), ?_⟩
    have marked := (((Entered.refl n s).set fun i => { i with sysrefPulses := satN 32 (i.sysrefPulses + 1) }).set fun i =>
      { i with sysrefPhase := true, phaseMarks := openMark (s.clk.tick * 65536 + (if half then 32768 else 0)) i.phaseMarks }).raiseW
    have told := marked (evInlet n 0x03) ((s.clk.tick * 65536 + (if half then 32768 else 0)) / 65536) 1 0 [.w (codeOf 32 (roundDiv
      (s.inlets[n].phaseOf (s.clk.tick * 65536 + (if half then 32768 else 0))) (max 1 (s.inlets[n].fsNum * 65536))))]
    exact ⟨(congrArg Inlet.sysrefPhase told.only.own).trans rfl, (congrArg Inlet.phaseMarks told.only.own).trans rfl,
      (congrArg Inlet.sysrefPulses told.only.own).trans rfl, told.only.others, told.rest⟩
  · intro s n d u running stays some_ whole due
    exact congrArg Host.Outcome.next (doFrameRelease_eq running stays some_ whole due)
  · intro s n d running stays some_ whole room noHole locked certain held idle noEdges commanded
    have still : squallDue (waitTick s.inlets[n].releaseDue s) = waitTick s.inlets[n].releaseDue s :=
      IdleSteps.squallDue_of_nothing noEdges fun p mem => Option.isSome_iff_ne_none.1 (List.all_eq_true.1 commanded p mem)
    refine ⟨_, congrArg Host.Outcome.next ((doFrameRelease_eq running stays some_ whole rfl).trans (by rw [still])), ?_⟩
    obtain ⟨k, value, synths, sure⟩ : ∃ k, waitTick s.inlets[n].releaseDue s = { s with clk := k } ∧ k.synths = s.clk.synths ∧
        k.uncertain = s.clk.uncertain := ⟨(waitTick s.inlets[n].releaseDue s).clk, rfl, rfl, rfl⟩
    rw [value]
    have flags : (k.uncertain || decide (k.synths[3 + n.val].state = .holdover)) = false := by
      rw [sure, certain, synths, decide_eq_false held]
      rfl
    dsimp only
    rw [flags]
    have length : (frameOf s.inlets[n] false d).values.length = d.length := List.length_map _
    have data : (frameOf s.inlets[n] false d).values ≠ [] := fun none_ => some_ (whole.symm.trans (length.symm.trans (congrArg List.length none_)))
    obtain ⟨i, entered, elastic, next, period, fill, ring⟩ := releaseFrame_entered (n := n) (f := frameOf s.inlets[n] false d) (samples := d)
      (s := { s with clk := k }) running noHole locked (by rw [show State.clk { s with clk := k } = k from rfl, synths]; exact held)
      (sure.trans certain) data (le_of_eq_of_le length room) idle
    have released := entered.set fun i => { i with nextNum := i.nextNum + i.periodSamples, unlocked := false }
    have own := released.only.own
    have clk := congrArg State.clk released.rest
    refine ⟨(congrArg Inlet.elastic own).trans elastic, (congrArg Inlet.nextNum own).trans ?_, (congrArg Inlet.elasticFill own).trans ?_,
      (congrArg Inlet.ring own).trans ring, clk, released.only.others, released.rest.trans ?_⟩
    · dsimp only
      rw [next, period, whole]
    · dsimp only
      rw [fill, length]
    · rw [clk]
      rfl
  · intro s n k v asked serves
    have inlets : v.inlets = s.inlets := by
      rw [asked]
      split
      · rfl
      · exact (congrArg State.inlets (StoreRequests.storeAsk_asked s)).trans rfl
    have path : doHistoryWriteCommit n k s = commitFrames n (min k s.inlets[n].elastic.length) v := by
      unfold doHistoryWriteCommit
      dsimp only
      rw [← asked]
      exact if_pos serves
    obtain ⟨elastic, written⟩ := commitFrames_inlet n (min k s.inlets[n].elastic.length) v
    rw [inlets] at elastic written
    refine ⟨_, rfl, path, ?_, ?_⟩
    · rw [path, elastic]
      rcases le_total k s.inlets[n].elastic.length with fewer | all
      · rw [min_eq_left fewer]
      · rw [min_eq_right all, List.drop_length, List.drop_eq_nil_of_le all]
    · rw [path, written, ← List.take_eq_take_min]
  · intro s n k v asked waits
    refine congrArg Host.Outcome.next ?_
    unfold doHistoryWriteCommit
    dsimp only
    rw [← asked]
    exact if_neg (ne_true_of_eq_false waits)
  · rintro s n k e o g active started used standard current rfl
    refine congrArg Host.Outcome.next ((if_neg ?_).trans ?_)
    · rintro (stopped | unused | other)
      · exact active stopped
      · exact absurd used (not_lt.2 unused)
      · exact other standard
    · dsimp only
      rw [if_neg]
      rintro (starting | late)
      · exact started starting
      · exact late current
  · intro s n k e o active used standard uncounted
    refine congrArg Host.Outcome.next ((if_neg ?_).trans ?_)
    · rintro (stopped | unused | other)
      · exact active stopped
      · exact absurd used (not_lt.2 unused)
      · exact other standard
    · dsimp only
      rw [if_pos (uncounted.imp id fun late => ne_true_of_eq_false late)]
  · intro s n k o running used locked realigns
    obtain ⟨at_, path⟩ := doLaneSyncLoss_eq (o := o) running used locked
    obtain ⟨i, lost, state, hole, sync, lanes, link, bit_, own, losses⟩ := lost_lane (n := n) (k := k) (s := s) (lossKind s.inlets[n]) at_
    refine ⟨_, congrArg Host.Outcome.next (path.trans (if_neg (not_not_intro realigns))), ?_⟩
    have down := (lost.set fun i => { i with state := .realigning, syncN := i.syncN ||| syncBit i k.val }).unlockLink k.val
    have lane : ∀ j : Fin 32, _ := fun j => (congrArg (fun i : Inlet => i.lanes[j]) down.own).trans (unlockAll_lane _ i.lanes j)
    refine ⟨(congrArg Inlet.state down.own).trans rfl, (congrArg (fun i : Inlet => i.realignHole.isSome) down.own).trans hole, fun j same => ?_, ?_,
      (congrArg Inlet.syncN down.own).trans ?_, down.others⟩
    · have member := mem_link (i := i) (j := j.val) (k := k.val) (by rw [lanes]; exact used) (by rw [link, link]; exact same)
      exact congrArg Lane.locked ((lane j).trans (if_pos member))
    · refine (congrArg Lane.syncLosses (lane k)).trans ?_
      split
      · exact losses
      · exact losses
    · dsimp only
      rw [sync, bit_]
  · intro s n k o running used locked faults
    obtain ⟨at_, path⟩ := doLaneSyncLoss_eq (o := o) running used locked
    obtain ⟨i, lost, state, hole, sync, lanes, link, bit_, own, losses⟩ := lost_lane (n := n) (k := k) (s := s) (lossKind s.inlets[n]) at_
    refine ⟨_, congrArg Host.Outcome.next (path.trans (if_pos (ne_true_of_eq_false faults))), ?_⟩
    have down := (lost.set fun i => { i with state := .fault, syncN := 0, faultCause := if 1 = 3 then 9 else 3 }).of_inlets
      (raise_inlets _ (evInlet n 0x06) [.h 1, .h k.val])
    exact ⟨(congrArg Inlet.state down.own).trans rfl, (congrArg (fun i : Inlet => i.realignHole.isSome) down.own).trans hole,
      (congrArg (fun i : Inlet => i.lanes[k].locked) down.own).trans own, (congrArg Inlet.syncN down.own).trans rfl, down.others⟩
  · intro s n k at_ realigning used unlocked free inTime
    refine ⟨_, congrArg Host.Outcome.next ((doLaneResync_eq realigning used unlocked free).trans (if_neg (not_lt.2 inTime))), ?_⟩
    dsimp only
    obtain ⟨i, only, state, lane⟩ := relocked_lane (n := n) (s := s) k at_
    obtain ⟨linked, only, sameState, lanes⟩ := only.linkUp k.val
    obtain ⟨_, ⟨rfl, -⟩, sameLanes, runs⟩ := only.runs (sameState.trans (state.trans realigning))
    rw [sameLanes, lanes, lane]
    exact ⟨rfl, rfl, rfl, runs⟩
  · intro s n k at_ realigning used unlocked free late
    exact congrArg Host.Outcome.next ((doLaneResync_eq realigning used unlocked free).trans (if_pos late))
  · intro s
    exact ⟨_, congrArg Host.Outcome.next (doLaneErrorWindow_eq s), windowsCleared_waitTick _ s⟩
  · intro s n k starting used free four
    refine ⟨_, congrArg Host.Outcome.next (doLaneLock_locked starting used free four), ?_⟩
    obtain ⟨_, ⟨rfl, others⟩, lanes, step⟩ := ((Only.refl n s).lane k fun l => { l with locked := true }).lockStep four
    refine ⟨?_, step, others, ?_⟩
    · rw [lanes]
      exact congrArg Lane.locked (vmod_self _ _ _)
    · dsimp only
      split <;> rfl
  · intro s n k starting used free three
    refine ⟨_, congrArg Host.Outcome.next (doLaneLock_cdr starting used free three), ?_⟩
    obtain ⟨_, ⟨rfl, others⟩, lanes, step⟩ := ((Only.refl n s).lane k fun l => { l with cdr := true }).cdrStep three
    refine ⟨?_, step, others, ?_⟩
    · rw [lanes]
      exact congrArg Lane.cdr (vmod_self _ _ _)
    · dsimp only
      split <;> rfl
  · intro s n r starting six sound fits
    obtain ⟨spread, bound, lanes, aligned⟩ := aligned_of_fits starting six sound fits
    have own := aligned.own
    exact ⟨_, rfl, (congrArg Inlet.step own).trans rfl, (congrArg Inlet.release own).trans rfl, (congrArg Inlet.hold own).trans rfl,
      (congrArg Inlet.syncN own).trans rfl, (congrArg Inlet.stepSince own).trans rfl⟩
  · intro s n r starting six old mismatch
    have inStep : ¬ (s.inlets[n].state ≠ .starting ∨ s.inlets[n].step ≠ 6) := by
      rw [starting, six]
      decide
    exact congrArg Host.Outcome.next ((if_neg inStep).trans (if_pos ⟨ne_true_of_eq_false old, ne_true_of_eq_false mismatch⟩))
  · intro s n r starting six sound misfits
    have inStep : ¬ (s.inlets[n].state ≠ .starting ∨ s.inlets[n].step ≠ 6) := by
      rw [starting, six]
      decide
    have matches_ : ¬ (¬ s.inlets[n].is204C = true ∧ ¬ r.parametersMatch = true) := fun h => sound.elim h.1 h.2
    exact congrArg Host.Outcome.next ((if_neg inStep).trans ((if_neg matches_).trans (if_pos (ne_true_of_eq_false misfits))))

end Sys2Proof.SampleFlow
end

section
/-! Inlets are configured, start and stop (R36, R42 to R44, R52, R56 to R60, R66, R68). -/

namespace Sys2Proof.InletControl

open Sys2Proof Sys2Proof.Machine Sys2Proof.Claims Sys2Proof.Laws Sys2Proof.Rows Sys2Proof.QueueEntries Sys2Proof.InletFrame Sys2Proof.SampleFlow

theorem inletIndex_val (n : Fin 4) : inletIndex n.val = some n := dif_pos n.isLt

/-- Power that is possible but not free now is queued for. -/
theorem afterPower_requestPower_of_queues {s : State} {owner : Owner} {items : List (Nat × Nat)} {c : Cmd} (queues : QueuesForPower s c (cost items))
    (units : Nat) (granted queued released : State → State) :
    afterPower c units (requestPower c owner items s) granted queued released =
      queued (wait c (queuePower ⟨owner, items, BitVec.ofNat 32 c.tag, c.opcode, s.clk.up, some c.id⟩ s)) := by
  obtain ⟨possible, busy, waits, room⟩ := queues
  simp only [requestPower, possible, busy, waits, Nat.not_le.2 room, not_true, if_false, afterPower, Bool.false_eq_true]

/-- The inlet's store, reserved for its start. -/
abbrev reserved (n : Fin 4) (s : State) : State := addReservations (.inlet n.val) [(lcHistory, s.inlets[n].historyKbs)] s

/-- INLET_START that the store admits asks for its power. -/
theorem doInletStart_of_admits {c : Cmd} {n : Fin 4} {s : State} (named : c.p8 0x08 = n.val)
    (passes : Passes [entryCheck c [(0x08, 1)] [], deviceCheck s c, needState (s.inlets[n].state = .stopped && !waitsPower s (.inlet n.val)),
      pagesWritten s.inlets[n], pagesAgree s.inlets[n], need (s.store.region rtHistory).isSome stNoResource 0,
      need (historyFits s s.inlets[n]) stNoResource 0])
    (admits : Admits s (.inlet n.val) [(lcHistory, s.inlets[n].historyKbs)]) :
    doInletStart c s = afterPower c (cost s.inlets[n].powerItems) (requestPower c (.inlet n.val) s.inlets[n].powerItems (reserved n s)) (beginInlet c n)
      (setInlet n fun i => { i with state := .starting, step := 1, startCmd := some c.id }) (releaseAll (.inlet n.val)) := by
  unfold doInletStart
  rw [named, inletIndex_val]
  exact checked_eq passes (ifAdmitted_reserveStore admits _ _)

/-- INLET_STOP whose checks pass, of an inlet that is starting, that nothing uses or that FORCE stops. -/
theorem doInletStop_of_passes {c : Cmd} {n : Fin 4} {s t : State} (named : c.p8 0x08 = n.val)
    (passes : Passes [entryCheck c [(0x08, 2), (0x10, 8)] [], deviceCheck s c, needState (s.inlets[n].state ≠ .stopped && s.inlets[n].stop.isNone),
      params [(0x09, decide (c.p8 0x09 ≤ 1))]])
    (may : (bit (c.p8 0x09) 0 || decide (s.inlets[n].state = .starting) || !inletUsed s n) = true)
    (does : (if s.inlets[n].state = .starting then
        done c 0 0 (match s.inlets[n].startCmd with
          | some id => match findCmd (dropStart n s) id with | some a => complete a stAborted 0 0 0 (dropStart n s) | none => dropStart n s
          | none => dropStart n s)
      else
        wait c (if bit (c.p8 0x09) 0 then
          forceTasks n (if c.p64 0x10 ≤ s.clk.tick then s.inlets[n].nextEdge s.clk.tick else c.p64 0x10)
            (setInlet n (fun i => { i with stop := some ⟨c.id, if c.p64 0x10 ≤ s.clk.tick then s.inlets[n].nextEdge s.clk.tick else c.p64 0x10, bit (c.p8 0x09) 0⟩ }) s)
          else setInlet n (fun i => { i with stop := some ⟨c.id, if c.p64 0x10 ≤ s.clk.tick then s.inlets[n].nextEdge s.clk.tick else c.p64 0x10, bit (c.p8 0x09) 0⟩ }) s)) = t) :
    doInletStop c s = t := by
  unfold doInletStop
  rw [named, inletIndex_val]
  exact checked_eq (passes_snoc passes (needState_none.2 may)) does

/-! ## The stop tick -/

/-- The inlet whose elastic buffer has lost what lies beyond a tick. -/
def cutAt (tick : Nat) (i : Inlet) : Inlet :=
  { i with elastic := i.elastic.map fun f => { f with values := f.values.take (i.numAt tick 1 - f.num) } }

theorem cutAt_samples (tick : Nat) (i : Inlet) :
    ((cutAt tick i).elastic.map (·.values.length)).sum = (i.elastic.map fun f => min f.values.length (i.numAt tick 1 - f.num)).sum := by
  unfold cutAt
  rw [List.map_map]
  refine congrArg List.sum (List.map_congr_left fun f _ => ?_)
  exact List.length_take.trans (Nat.min_comm _ _)

/-- What a burst of all that the buffer holds leaves of the inlet. -/
theorem commitFrames_all {n : Fin 4} {s : State} {k : Nat} (all : s.inlets[n].elastic.length = k) :
    (commitFrames n k s).inlets[n].samplesWritten = s.inlets[n].samplesWritten + (s.inlets[n].elastic.map (·.values.length)).sum := by
  have written := (commitFrames_inlet n k s).2
  rw [List.take_of_length_le (le_of_eq all)] at written
  exact written

/-- Nothing that an owner held is left of it. -/
theorem releaseAll_free (owner : Owner) (s : State) :
    holdsPower (releaseAll owner s) owner = false ∧ (releaseAll owner s).store.ledger.all (·.owner ≠ owner) = true := by
  constructor
  · refine List.any_eq_false.2 fun g held => ?_
    have kept := (List.mem_filter.1 held).2
    simpa using kept
  · refine List.all_eq_true.2 fun x held => ?_
    exact (List.mem_filter.1 held).2

/-- The end of a stop whose inlet is already stopped: reservations, the clock and the event. -/
def released (n : Fin 4) (last : Nat) (s : State) : State :=
  raiseAt (evInlet n 0x01) last [] (setSynth (3 + n.val) (fun y => { y with state := .off }) (releaseAll (.inlet n.val) s))

theorem released_inlets (n : Fin 4) (last : Nat) (s : State) : (released n last s).inlets = s.inlets := by
  unfold released
  simp

theorem released_synth (n : Fin 4) (last : Nat) (s : State) : (released n last s).clk.synths[(⟨n.val + 3, by omega⟩ : Fin 11)].state = .off := by
  unfold released
  have off := ClockDomains.setSynth_self ⟨n.val + 3, by omega⟩ (fun y => { y with state := .off }) (releaseAll (.inlet n.val) s)
  rw [raiseAt_clk, Nat.add_comm 3 n.val, off]

theorem released_power (n : Fin 4) (last : Nat) (s : State) : holdsPower (released n last s) (.inlet n.val) = false := by
  refine (congrArg (fun p : Power => p.grants.any (·.owner = .inlet n.val)) (raiseAt_pwr _ _ _ _)).trans ?_
  exact (releaseAll_free (.inlet n.val) s).1

theorem released_ledger (n : Fin 4) (last : Nat) (s : State) : (released n last s).store.ledger.all (·.owner ≠ .inlet n.val) = true := by
  refine (congrArg (fun st : Store => st.ledger.all (·.owner ≠ .inlet n.val)) (raiseAt_store _ _ _ _)).trans ?_
  exact (releaseAll_free (.inlet n.val) s).2

/-- The inlet at the end of its stop. -/
def stopped (tick : Nat) (i : Inlet) : Inlet :=
  { i with state := .stopped, stop := none, elastic := [], elasticFill := 0, syncN := 0, urgent := false, lanes := lanesDown i.lanes,
           ring := { i.ring with stoppedAt := some tick } }

/-- The stop tick: what was cut off is not written, the rest is, and then the inlet is stopped. -/
theorem doInletStopTick_reached {n : Fin 4} {p : PendingStop} {s : State} (pending : s.inlets[n].stop = some p)
    (reached : releasesBefore s.inlets[n] p.tick = false) : ∃ (v : State) (i : Inlet), doInletStopTick n s =
      (match findCmd (released n i.ring.newest v) p.cmd with
        | some c => done c i.ring.newest 0 (released n i.ring.newest v)
        | none => released n i.ring.newest v) ∧
      v.inlets[n] = stopped p.tick i ∧
      i.samplesWritten = s.inlets[n].samplesWritten + (s.inlets[n].elastic.map fun f => min f.values.length (s.inlets[n].numAt p.tick 1 - f.num)).sum := by
  unfold doInletStopTick
  rw [pending]
  dsimp -zeta only
  rw [if_neg (ne_true_of_eq_false reached)]
  extract_lets s1 s2 s3 last s4 s5 s6 s7 s8 s9 s10
  have ended : s8.inlets = s4.inlets := by
    unfold s8
    split
    · have closed : s6.inlets = s4.inlets := by
        refine (forL_inlets (fun m s => ?_) _ s5).trans (disarmInlet_inlets n s4)
        rw [inlets_ite, beginClose_inlets, ite_self]
      have published : s7.inlets = s6.inlets := forL_inlets publishTask_inlets _ s6
      exact ((forL_inlets (fun x s => endXcorr_inlets _ s) _ s7).trans published).trans closed
    · rfl
  have cut : s2.inlets[n] = cutAt p.tick s.inlets[n] := setInlet_self n (cutAt p.tick) s1
  have written : s3.inlets[n].samplesWritten = _ := commitFrames_all rfl
  refine ⟨s8, s3.inlets[n], rfl, ?_, ?_⟩
  · rw [ended]
    unfold s4
    rw [detachInlet_inlets]
    exact setInlet_self n (stopped p.tick) s3
  · rw [written, cut, cutAt_samples]
    rfl

/-! ## The obligation -/

/-- Settles O21, with a clause for each row and case. -/
theorem inletsStartAndStop : Obligations.InletsStartAndStop := by
  refine ⟨?_, ?_, ?_, ?_, ?_, ?_, ?_, ?_, ?_, ?_, ?_, ?_, ?_, ?_⟩
  · intro s id c n runs passes named page
    refine next_runCmd runs ?_
    unfold doInletConfig
    rw [named, inletIndex_val, page]
    exact checked_eq passes rfl
  · intro s id c n runs passes named page
    refine next_runCmd runs ?_
    unfold doInletConfig
    rw [named, inletIndex_val, page]
    exact checked_eq passes rfl
  · intro s id c n runs passes named page
    refine next_runCmd runs ?_
    unfold doInletConfig
    rw [named, inletIndex_val, page]
    exact checked_eq passes rfl
  · intro s id c n runs passes named admits grants
    have still : GrantsAtOnce (reserved n s) (cost s.inlets[n].powerItems) := grants
    exact next_runCmd runs ((doInletStart_of_admits named passes admits).trans (afterPower_requestPower still ..))
  · intro s id c n runs passes named admits queues
    have still : QueuesForPower (reserved n s) c (cost s.inlets[n].powerItems) := queues
    exact next_runCmd runs ((doInletStart_of_admits named passes admits).trans (afterPower_requestPower_of_queues still ..))
  · intro s id c n runs passes named unwritten
    refine next_runCmd runs ?_
    unfold doInletStart
    rw [named, inletIndex_val]
    have missing : pagesWritten s.inlets[n] = some (stState, 8) := by
      unfold pagesWritten
      rw [unwritten]
      rfl
    dsimp only
    rw [missing]
    exact checked_of_firstFail passes c (stState, 8) _ s
  · intro s n lane starting begun
    refine congrArg Host.Outcome.next (if_neg ?_)
    rintro (other | early)
    · exact other starting
    · exact absurd begun (Nat.not_le.2 early)
  · intro s id c n runs passes named
    refine next_runCmd runs ?_
    unfold doInletStatus
    rw [named, inletIndex_val]
    exact checked_eq passes rfl
  · intro s id c n runs passes named starting noCmd
    refine next_runCmd runs (doInletStop_of_passes named passes ?_ ?_)
    · rw [starting]
      simp
    · rw [if_pos starting, noCmd]
  · intro s id c n k a runs passes named starting cmd found
    refine next_runCmd runs (doInletStop_of_passes named passes ?_ ?_)
    · rw [starting]
      simp
    · rw [if_pos starting, cmd]
      dsimp only
      rw [found]
  · intro s id c n runs passes named live plain unused
    refine next_runCmd runs (doInletStop_of_passes named passes ?_ ?_)
    · rw [unused, plain]
      simp
    · rw [if_neg live, plain]
      rfl
  · intro s id c n runs passes named live force
    refine next_runCmd runs (doInletStop_of_passes named passes ?_ ?_)
    · rw [force]
      rfl
    · rw [if_neg live, force]
      rfl
  · intro s n p pending reached
    obtain ⟨v, i, does, own, written⟩ := doInletStopTick_reached pending reached
    refine ⟨_, congrArg Host.Outcome.next does, released n i.ring.newest v, i.ring.newest, rfl, ?_⟩
    rw [released_inlets, own]
    exact ⟨rfl, rfl, rfl, rfl, rfl, written, released_synth n _ v, released_power n _ v, released_ledger n _ v⟩
  · intro s n p pending waits
    refine congrArg Host.Outcome.next ?_
    unfold doInletStopTick
    rw [pending]
    exact if_pos waits

end Sys2Proof.InletControl
end
